-- ==== Sys2Proof/Word.lean ====
section
/-! DEFINITION. The 32-bit register word and the sorted association list in which sparse state is held. -/

namespace Sys2Proof

/-- A register is 32 bits wide (R17). -/
abbrev Word := BitVec 32

/-- A sparse map by number: pairs in strictly rising order of key. -/
abbrev SMap (α : Type) := List (Nat × α)

end Sys2Proof
end

