-- ==== Sys2Proof/Syntax.lean ====
section
/-! DEFINITION. The commands of the block: one constructor of `Instr` per row of the table of operations and events, with its operands, and the
types of those operands. -/

namespace Sys2Proof

/-- The two parts of R7 and R9. -/
inductive Part where
  | rk9200
  | rk9210
deriving DecidableEq, Repr

/-- The twelve modes of R582. -/
inductive Mode where
  | hibernate | listen | standby | boot | provision | show | spare | soak | diagnose | calibrate | update | recovery
deriving DecidableEq, Repr

/-- A message that COMMAND_TAKE accepted and Teller now executes: the instant (reference clock, ns), the session
(0 PCIe, 1 to 4 UDP sessions 0 to 3, as TLR_SESS.owner numbers them) and the command's seq. -/
structure Call where
  t : Nat
  session : Fin 5
  seq : Word
deriving DecidableEq, Repr

/-- A published or reassembled message as Teller sees it before the checks of R574: the fields of R560 and the payload bytes. -/
structure Msg where
  magic : Nat
  version : Nat
  flags : Nat
  seq : Word
  ack : Word
  code : Nat
  cls : Nat
  status : Nat
  length : Nat
  stamp : Int
  check : Nat
  payload : List (BitVec 8)
deriving DecidableEq, Repr

/-- Who makes a register access: the host through BAR1 (R577), or a master of the fabric such as Teller (R61). -/
inductive Master where
  | bar1
  | fabric
deriving DecidableEq, Repr

/-- A signature trailer (R634): the slot, the SHA-384 of the key bytes, and whether the signature verifies with that key over the bytes before it. -/
structure Trailer where
  slot : Nat
  keyHash : Nat
  sigOk : Bool
deriving DecidableEq, Repr

/-- A PTP Announce message (R69): the log2 of its interval in s, and the master's dataset in the order of comparison: priority 1, class,
accuracy, variance, priority 2, identity, steps removed, and last the identity of the port that sends. -/
structure Announce where
  logInterval : Int
  dataset : List Nat
deriving DecidableEq, Repr

/-- The sync signal at the genlock input (R72): bi-level 525/59.94 or 625/50, or tri-level 720p, 1080i or 1080p of a frame rate N / D. -/
inductive GenlockFormat where
  | bi525 | bi625
  | tri720p (n d : Nat)
  | tri1080i (n d : Nat)
  | tri1080p (n d : Nat)
deriving DecidableEq, Repr

/-- An LTC label (R73): hours, minutes, seconds, frames; the nominal frames per second, and whether it is a drop-frame label. -/
structure LtcLabel where
  hh : Nat
  mm : Nat
  ss : Nat
  ff : Nat
  fps : Nat
  drop : Bool
deriving DecidableEq, Repr

/-- What one update of a time-giving or rate-giving source measures (R63 to R65, R69, R72 to R76), before TIM_TBn_REF_OFFSET is added. -/
structure SourceUpdate where
  /-- The reference's time of day minus the time base's value, in ns; for genlock the phase error, in ns; for LTC unused. -/
  offset : Int
  /-- The measured frequency error against the time base, in 1/256 ppb. -/
  freqError : Int
  /-- The update is a valid one that follows the previous one directly (Sync message, reference frame, LTC frame, cycle). -/
  valid : Bool
  /-- PTP: the mean path delay in ns, the log2 of the Sync interval in s, the identity of the port that sent it. -/
  pathDelay : Nat
  logInterval : Int
  master : Nat
  /-- PTP: the message is this Announce and no Sync. -/
  announce : Option Announce
  /-- Genlock: the signal. -/
  format : GenlockFormat
  /-- LTC: the label. -/
  label : LtcLabel
  /-- Word clock: the rate in Hz. -/
  wordRate : Nat
deriving DecidableEq, Repr

/-- TIME_BASE_SET (R102). -/
structure TimeBaseSet where
  tb : Nat
  source : Nat
  portA : Nat
  portB : Nat
  domainA : Nat
  domainB : Nat
  flags : Nat
  refOffset : Int
  abLimit : Nat
  ltcDay : Nat
deriving DecidableEq, Repr

/-- TIME_SELECT (R102). -/
structure TimeSelect where
  tb : Nat
  slew : Nat
  threshold : Nat
  startWait : Nat
deriving DecidableEq, Repr

/-- TIME_ACCEPT_STEP (R102). -/
structure TimeAcceptStep where
  tb : Nat
  mode : Nat
  stepId : Nat
deriving DecidableEq, Repr

/-- SHOW_TIMING_SET (R102). -/
structure ShowTimingSet where
  n : Nat
  d : Nat
  origin : Int
deriving DecidableEq, Repr

/-- CUE_SCHEDULE (R143). -/
structure CueSchedule where
  cueId : Nat
  basis : Nat
  action : Nat
  priority : Nat
  flags : Nat
  when_ : Int
  sub : Nat
  argument : Nat
deriving DecidableEq, Repr

/-- What a stage receives where it checks a word, or what a scrub pass reads (R170 to R173): the site code and kind of R177, the address or
index, and for kind 0 the bytes of the word with their parity bits, of which the check finds those in error. `object` is what the word belongs to at
that site: a canvas tile (CMP), a fixture (MAP, PHO, delay pool, map SRAM), a lane, port or flow (LNE, STR, PKT, DMX), a queue (FIF); of a SECDED
store a mapper engine, 16 for Teller's code or state, 17 for the Almanac lists, 18 on for the packet engines; site 11 is the monitor scan path
(R259). `segment` is the segment of the fixture, `engine` the mapper engine that the error is attributed to (MAP), and `consumer` the site that takes
the poisoned data of a double-bit error (R173). -/
structure ErrorFound where
  site : Nat
  kind : Nat
  address : Nat
  word : List (BitVec 8)
  parity : Nat
  object : Nat
  segment : Nat
  engine : Nat
  consumer : Option Nat
deriving DecidableEq, Repr

/-- A canvas or store pixel: 16-bit RGBA (R29, R194). -/
structure Rgba where
  r : Nat
  g : Nat
  b : Nat
  a : Nat
deriving DecidableEq, Repr

/-- A received sample: Y, Cb, Cr, or R, G, B (R194). -/
structure Sample where
  y : Nat
  cb : Nat
  cr : Nat
deriving DecidableEq, Repr

/-- How the samples of a received frame are coded (R185, R187, R194): sampling 0 4:2:2, 1 4:4:4, 2 RGB; depth in bits; full range; BT.2020 matrix;
transfer 0 SDR, 1 PQ, 2 HLG. -/
structure Coding where
  sampling : Nat
  depth : Nat
  full : Bool
  bt2020 : Bool
  transfer : Nat
deriving DecidableEq, Repr

/-- GENERATOR_SET (R208). -/
structure GeneratorSet where
  generator : Nat
  pattern : Nat
  transfer : Nat
  primaries : Nat
  width : Nat
  height : Nat
  colorA : Rgba
  colorB : Rgba
  cell : Nat
  speed : Int
deriving DecidableEq, Repr

/-- The content of a stored frame: received samples (one value everywhere but where the list by pixel number y × width + x differs), or a
generator's pattern in its n-th frame. -/
inductive Picture where
  | received (c : Coding) (width : Nat) (fill : Sample) (pixels : SMap Sample)
  | generated (g : GeneratorSet) (n : Nat)
deriving DecidableEq, Repr

/-- A packet of a stream as it reaches its media port (R187, R188, R190): extended RTP sequence number, payload type, SSRC, the line of its samples, the
first of them and their number, and the marker bit. -/
structure StreamPacket where
  seq : Word
  pt : Nat
  ssrc : Nat
  line : Nat
  pixel : Nat
  count : Nat
  marker : Bool
deriving DecidableEq, Repr

/-- A frame that a receiver completed (R184 to R186, R205): its raster, whether it is whole, whether it came over one link of an interface of R183, the frame
rate as N / D (0 where none is carried), whether it carries a payload identifier, the identifier's coding, and its samples. -/
structure FrameIn where
  width : Nat
  height : Nat
  whole : Bool
  supported : Bool
  interlaced : Bool
  rateNum : Nat
  rateDen : Nat
  payload : Bool
  coding : Coding
  fill : Sample
  pixels : SMap Sample
deriving DecidableEq, Repr

/-- INPUT_SET (R208). -/
structure InputSet where
  source : Nat
  flags : Nat
  override : Nat
  width : Nat
  height : Nat
  jitterUs : Nat
deriving DecidableEq, Repr

/-- INPUT_STREAM_SET (R208). -/
structure InputStreamSet where
  stream : Nat
  paths : Nat
  pt : Nat
  sampling : Nat
  depth : Nat
  colorimetry : Nat
  tcs : Nat
  flags : Nat
  width : Nat
  height : Nat
  rateNum : Nat
  rateDen : Nat
  groupA : Nat
  srcA : Nat
  groupB : Nat
  srcB : Nat
  portA : Nat
  portB : Nat
  skewMax : Nat
  ssrc : Nat
deriving DecidableEq, Repr

/-- LAYER_BIND (R208). -/
structure LayerBind where
  layer : Nat
  source : Nat
  policy : Nat
  holdFrames : Nat
deriving DecidableEq, Repr

/-- LAYER_SET (R240). -/
structure LayerSet where
  layer : Nat
  flags : Nat
  rotation : Nat
  filter : Nat
  cropX : Nat
  cropY : Nat
  cropW : Nat
  cropH : Nat
  dstX : Int
  dstY : Int
  dstW : Nat
  dstH : Nat
  keyMode : Nat
  keyFlags : Nat
  blend : Nat
  keyT : Nat
  keyS : Nat
  keyKb : Int
  keyKr : Int
  opacity : Nat
  knee : Nat
  sdrWhite : Nat
deriving DecidableEq, Repr

/-- CANVAS_SET (R240). -/
structure CanvasSet where
  width : Nat
  height : Nat
  peak : Nat
  background : Rgba
deriving DecidableEq, Repr

/-- MONITOR_SET (R266). -/
structure MonitorSet where
  flags : Nat
  format : Nat
  rate : Nat
  source : Nat
  transfer : Nat
  primaries : Nat
  hscale : Nat
  vscale : Nat
  offset : Nat
  winX : Nat
  winY : Nat
  winW : Nat
  winH : Nat
  outX : Nat
  outY : Nat
  white : Nat
  pull : Nat
  borderY : Nat
  borderCb : Nat
  borderCr : Nat
  lmatch : Nat
deriving DecidableEq, Repr

/-- A fixture entry (R278). -/
structure FixtureEntry where
  kind : Nat
  flags : Nat
  zone : Nat
  curve : Nat
  kernel : Nat
  channels : Nat
  chanMap : Nat
  cols : Nat
  rows : Nat
  originX : Int
  originY : Int
  colDx : Int
  colDy : Int
  rowDx : Int
  rowDy : Int
  routeA : Nat
  routeB : Nat
  calRef : Nat
  attrRef : Nat
  effect : Nat
  epoch : Nat
deriving DecidableEq, Repr

/-- FIXTURE_SET (R303): the first fixture, the flags and the entries. -/
structure FixtureSet where
  first : Nat
  flags : Nat
  entries : List FixtureEntry
deriving DecidableEq, Repr

/-- ZONE_SET (R303). -/
structure ZoneSet where
  zone : Nat
  flags : Nat
  priority : Nat
  shedOrder : Nat
  group : Nat
  delay : Nat
deriving DecidableEq, Repr

/-- An attribute descriptor without its host value (R297): ctrl, default, four source words, four priorities. -/
structure AttrDesc where
  ctrl : Nat
  dflt : Nat
  src : List Nat
  prio : List Nat
deriving DecidableEq, Repr

/-- ATTR_SET (R303). -/
structure AttrSet where
  first : Nat
  descs : List AttrDesc
deriving DecidableEq, Repr

/-- ATTR_VALUE_SET (R303). -/
structure AttrValueSet where
  first : Nat
  count : Nat
  release : Bool
  values : List Nat
deriving DecidableEq, Repr

/-- A trap of a user kernel or effect program (R319, R320): the fixture, whether an effect, and the cause. -/
structure TrapFound where
  fixture : Nat
  effect : Bool
  cause : Nat
deriving DecidableEq, Repr

/-- KERNEL_LOAD (R333): its header, the bytes of its code and of its data, and its signature trailer. -/
structure KernelLoad where
  code : Nat
  kind : Nat
  tapsW : Nat
  tapsH : Nat
  cost : Nat
  canvasBytes : Nat
  codeBytes : Nat
  dataBytes : Nat
  stateBytes : Nat
  check : Nat
  text : List (BitVec 8)
  store : List (BitVec 8)
  trailer : Option Trailer
deriving DecidableEq, Repr

/-- An effect slot (R323, R333). -/
structure EffectRec where
  program : Nat
  flags : Nat
  rate : Nat
  offset : Nat
  spread : Nat
  base : Nat
  depth : Nat
  duty : Nat
  hold : Nat
  seed : Nat
  k0 : Nat
  user : Nat
deriving DecidableEq, Repr

/-- EFFECT_SET (R333). -/
structure EffectSet where
  first : Nat
  records : List EffectRec
deriving DecidableEq, Repr

/-- CURVE_SET (R363). -/
structure CurveSet where
  curve : Nat
  type : Nat
  dither : Nat
  gamma : Nat
  logA : Nat
  limit : Nat
  entries : List Nat
deriving DecidableEq, Repr

/-- CLASS_SET (R363). -/
structure ClassSet where
  cls : Nat
  gamut : Nat
  tRef : Int
  whiteShare : Nat
  weights : List Nat
  mix : List Nat
  gains : List Nat
deriving DecidableEq, Repr

/-- A calibration record (R338). -/
structure CalRecord where
  m : List Int
  off : List Int
  droop : Nat
  cls : Nat
  g3 : Nat
deriving DecidableEq, Repr

/-- CAL_RECORD_SET (R363). -/
structure CalRecordSet where
  first : Nat
  records : List CalRecord
deriving DecidableEq, Repr

/-- LANE_SET (R403). -/
structure LaneSet where
  lane : Nat
  flags : Nat
  mode : Nat
  retries : Nat
  turn : Nat
  asym : Int
  ackTimeout : Nat
  hold : Nat
deriving DecidableEq, Repr

/-- LANE_CHAIN_SET (R403): format and one pixel count per chip. -/
structure LaneChainSet where
  lane : Nat
  format : Nat
  counts : List Nat
deriving DecidableEq, Repr

/-- LANE_GLOBAL_SET (R403): Λ in ns, collect interval in µs. -/
structure LaneGlobalSet where
  target : Nat
  collect : Nat
deriving DecidableEq, Repr

/-- The acknowledgement block of a returned control frame with its CRC (R377), and the symbol errors received with the frame (R368). -/
structure CtrlReturn where
  status : Nat
  seq : Nat
  alive : Nat
  data : Word
  crc : Word
  errors : Nat
deriving DecidableEq, Repr

/-- A range frame: the chip it names, its rseq and its CRC (R379); of one that returns, the symbol errors received with it (R368). -/
structure RangeFrame where
  chip : Nat
  rseq : Nat
  crc : Word
  errors : Nat
deriving DecidableEq, Repr

/-- A returned enumerate frame (R379). -/
structure EnumFrame where
  next : Nat
  check : Nat
deriving DecidableEq, Repr

/-- A slot of a returned collect frame (R378). -/
structure Slot where
  flags : Nat
  syncSeq : Nat
  temp : Int
  crcErr : Nat
  epoch : Nat
  crc : Word
deriving DecidableEq, Repr

/-- STR_LANE_SET (R425). -/
structure StrLaneSet where
  lane : Nat
  diagPhase : Nat
  diagI : Nat
  phaseStep : Nat
  iset0 : Nat
  iset1 : Nat
  iset2 : Nat
  vOpen : Nat
  vShort : Nat
deriving DecidableEq, Repr

/-- STR_LAMP_SET (R425). -/
structure StrLampSet where
  lane : Nat
  action : Nat
  chip : Nat
  lamp : Nat
  strings : Nat
deriving DecidableEq, Repr

/-- A received frame: its bytes from the destination address on without the FCS, the FCS verdict, whether it overflowed the receive FIFO (R455), and
the errors of the PCS and of FEC codewords since the last frame (R456). -/
structure RxFrame where
  bytes : List (BitVec 8)
  fcsOk : Bool
  fifoFull : Bool
  pcsErrors : Nat
  fecCorrected : Nat
  fecUncorrected : Nat
deriving DecidableEq, Repr

/-- A wake condition as the detector sees it (R459): a frame with a correct FCS, or the link coming up. -/
inductive WakeEvent where
  | frame (bytes : List (BitVec 8))
  | linkUp
deriving DecidableEq, Repr

/-- MAC_PORT_SET (R461). -/
structure MacPortSet where
  port : Nat
  flags : Nat
  mode : Nat
  fec : Nat
  mtu : Nat
  honor : Nat
  address : Nat
  wdLimit : Nat
  wdIgnore : Nat
  launchWin : Nat
deriving DecidableEq, Repr

/-- A pattern record: a 16-byte mask and 128 bytes (R461). -/
structure WakePattern where
  mask : List (BitVec 8)
  bytes : List (BitVec 8)
deriving DecidableEq, Repr

/-- MAC_WAKE_SET (R461). -/
structure MacWakeSet where
  flags : Nat
  patternEn : Nat
  password : List (BitVec 8)
  patterns : List WakePattern
deriving DecidableEq, Repr

/-- A flow context without the fields that Teller fills (R464). -/
structure FlowCtx where
  protocol : Nat
  port : Nat
  flags : Nat
  queue : Nat
  prio : Nat
  dscp : Nat
  ttl : Nat
  vlan : Nat
  dstMac : Nat
  dstIp : Nat
  srcUdp : Nat
  dstUdp : Nat
  ident : Nat
  e131Prio : Nat
  syncId : Nat
  size : Nat
  user : List (BitVec 8)
deriving DecidableEq, Repr

/-- FLOW_SET (R489). -/
structure FlowSet where
  first : Nat
  contexts : List FlowCtx
deriving DecidableEq, Repr

/-- An entry of the receive universe table (R473, R489). -/
structure RxEntry where
  univ : Nat
  mask : Nat
deriving DecidableEq, Repr

structure RxUniverseSet where
  first : Nat
  entries : List RxEntry
deriving DecidableEq, Repr

/-- PKT_GLOBAL_SET (R489). -/
structure PktGlobalSet where
  cid : Nat
  name : List (BitVec 8)
  ips : List Nat
  group : Nat
  udp : Nat
deriving DecidableEq, Repr

/-- DMX_PORT_SET (R489). -/
structure DmxPortSet where
  port : Nat
  mode : Nat
  flags : Nat
  rdmEvery : Nat
  breakUs : Nat
  mabUs : Nat
  mbsUs : Nat
  slots : Nat
  entry : Nat
deriving DecidableEq, Repr

/-- RDM_REQUEST (R489). -/
structure RdmRequest where
  port : Nat
  flags : Nat
  transaction : Nat
  bytes : List (BitVec 8)
deriving DecidableEq, Repr

/-- PKT_CODE_LOAD (R486, R489): sizes, CRC-32C, the bytes of its code and of its data, and its signature trailer. -/
structure PktCodeLoad where
  code : Nat
  data : Nat
  check : Nat
  text : List (BitVec 8)
  store : List (BitVec 8)
  trailer : Option Trailer
deriving DecidableEq, Repr

/-- An E1.31 packet received (R474). -/
structure E131Packet where
  univ : Nat
  cid : Nat
  seq : Nat
  priority : Nat
  preview : Bool
  terminated : Bool
  startCode : Nat
  slots : List Nat
deriving DecidableEq, Repr

/-- RADIO_SET (R519). -/
structure RadioSet where
  xcvr : Nat
  flags : Nat
  profile : Nat
  scheme : Nat
  net : Nat
  eirp : Int
  gain : Nat
  thresh : Int
  seed : Nat
  mask : Nat
  hourLimit : Nat
deriving DecidableEq, Repr

/-- A record of RADIO_NODE_SET (R519). -/
structure RadioNodeRec where
  node : Nat
  xcvr : Nat
  position : Nat
  eui : Nat
  groups : List Nat
deriving DecidableEq, Repr

/-- RADIO_NODE_SET (R519). -/
structure RadioNodeSet where
  records : List RadioNodeRec
deriving DecidableEq, Repr

/-- RADIO_GLOBAL_SET (R519). -/
structure RadioGlobalSet where
  cueLead : Nat
  cueRepeat : Nat
  refresh : Nat
deriving DecidableEq, Repr

/-- RADIO_FW_LOAD (R519). -/
structure RadioFwLoad where
  image : Nat
  total : Nat
  offset : Nat
  crc : Nat
  data : List (BitVec 8)
deriving DecidableEq, Repr

/-- RADIO_FW_START (R519). -/
structure RadioFwStart where
  image : Nat
  action : Nat
  share : Nat
  group : Nat
  mask : Nat
  crc : Nat
deriving DecidableEq, Repr

/-- A received radio frame (R507, R514): RSSI in dBm, ST64 of its reference point, the PSDU. -/
structure RadioRx where
  rssi : Int
  st : Int
  psdu : List (BitVec 8)
deriving DecidableEq, Repr

/-- A lease frame (R527) as the device receives it, with the verdict of its tag. -/
structure LeaseFrame where
  tagOk : Bool
  magicOk : Bool
  version : Nat
  type : Nat
  pair : Nat
  device : Nat
  group : Nat
  seq : Word
  answers : Word
  leaseSeq : Word
  duration : Nat
deriving DecidableEq, Repr

/-- PAIR_SET (R548). -/
structure PairSet where
  device : Nat
  flags : Nat
  escPort : Nat
  arbPort : Nat
  pair : Nat
  leaseMs : Nat
  leadGroup : Nat
  partnerIp : Nat
  arbIp : Nat
  escUdp : Nat
  arbUdp : Nat
  partnerMac : Nat
  member : Nat
deriving DecidableEq, Repr

/-- A datagram of the management port as Teller sees it (R557): the IPv4 address and UDP port it is sent to, its header with the verdict of magic and version, whether its tag holds, the key
identifier of a hello, and, in the last fragment of a message to arrive, the message that its fragments spell. -/
structure Datagram where
  dstIp : Nat
  dstPort : Nat
  headOk : Bool
  type : Nat
  session : Nat
  counter : Nat
  index : Nat
  count : Nat
  message : Nat
  tagOk : Bool
  keyId : Nat
  msg : Msg
deriving DecidableEq, Repr

/-- What happens to the PCIe link (R550): down, up with a width and a generation, or an assertion of PERST_N. -/
inductive LinkEvent where
  | down
  | up (width speed : Nat)
  | perst
deriving DecidableEq, Repr

/-- COMMIT (R569). -/
structure CommitSet where
  flags : Nat
  stageId : Nat
  k : Nat
deriving DecidableEq, Repr

/-- POWER_SAG_SET, POWER_THERMAL_SET, POWER_WAKE_SET, POWER_RESET, POWER_DOMAIN_SET and POWER_MODE_SET (R602). -/
structure PowerSagSet where
  w1Pct : Nat
  holdMs : Nat
deriving DecidableEq, Repr

structure PowerThermalSet where
  showWarn : Int
  showShed : Int
  soakWarn : Int
  soakShed : Int
deriving DecidableEq, Repr

/-- A domain event as HKC sees it (R587): which domain reports. -/
abbrev Domain := Fin 14

/-- The two runs of one index of a calibration item (R607): results, and for item 9 the phase results. -/
structure CalRun where
  index : Nat
  run1 : Int
  run2 : Int
  phase1 : Int
  phase2 : Int
deriving DecidableEq, Repr

/-- The header of a firmware image (R641). -/
structure FwHeader where
  magicOk : Bool
  kind : Nat
  version : Nat
  secver : Nat
  part : Nat
  minStep : Nat
  interface : Nat
  bytes : Nat
  blocks : Nat
  digest : Nat
  crcs : List Nat
  trailer : Trailer
deriving DecidableEq, Repr

/-- What the boot ROM finds outside the record (R629, R644): failed tests as VLT_STATE.kat_fail numbers them, RECOV_N low, and banks whose flash
content does not read back as it was written, one bit each. -/
structure BootPins where
  katFail : Nat
  recovLow : Bool
  corrupt : Nat
deriving DecidableEq, Repr

/-- SEC_KEY_ENROLL (R651): the identifiers, the length of the material, whether it unwraps under the wrap key, and the key or hash. -/
structure KeyEnroll where
  ident : Nat
  wrap : Nat
  length : Nat
  unwrapOk : Bool
  material : Nat
deriving DecidableEq, Repr

/-- SEC_RECORD_SET (R651). -/
structure RecordSet where
  epoch : Int
  mac : Nat
  ip : Nat
  mask : Nat
  gateway : Nat
deriving DecidableEq, Repr

/-- The token of LEDGER_CLEAR (R668): the statement as Teller reads it, and its trailer. -/
structure ClearToken where
  magicOk : Bool
  number : Nat
  serialOk : Bool
  nonce : Int
  trailer : Trailer
deriving DecidableEq, Repr

/-- The configuration messages of R568. -/
inductive ConfigMsg where
  | inputSet (p : InputSet)
  | inputStreamSet (p : InputStreamSet)
  | generatorSet (p : GeneratorSet)
  | layerBind (p : LayerBind)
  | layerSet (p : LayerSet)
  | canvasSet (p : CanvasSet)
  | monitorSet (p : MonitorSet)
  | fixtureSet (p : FixtureSet)
  | zoneSet (p : ZoneSet)
  | attrSet (p : AttrSet)
  | curveSet (p : CurveSet)
  | classSet (p : ClassSet)
  | calRecordSet (p : CalRecordSet)
  | laneSet (p : LaneSet)
  | laneChainSet (p : LaneChainSet)
  | laneGlobalSet (p : LaneGlobalSet)
  | strLaneSet (p : StrLaneSet)
  | flowSet (p : FlowSet)
  | rxUniverseSet (p : RxUniverseSet)
  | dmxPortSet (p : DmxPortSet)
  | effectSet (p : EffectSet)
  | radioSet (p : RadioSet)
  | radioNodeSet (p : RadioNodeSet)
deriving DecidableEq, Repr

/-- The operations and events of the part, one constructor per row of the table. `t` is the instant of the reference clock, in ns, at which it
happens (log entry 2). -/
inductive Instr where
  /-- R577. -/
  | registerWrite (t : Nat) (m : Master) (addr : Nat) (v : Word)
  /-- R20. -/
  | rcCounterRead (t : Nat) (addr : Nat) (counted : Word)
  /-- R20. -/
  | w1cWrite (t : Nat) (m : Master) (addr : Nat) (v : Word) (set : Word)
  /-- R99. -/
  | latchedLoRead (t : Nat) (addr : Nat)
  /-- R31. -/
  | lockstepMismatch (t : Nat) (pc : Nat)
  /-- R78. -/
  | frameBoundary (tests : List (Nat × Nat))
  /-- R65. -/
  | tbSourceUpdate (t : Nat) (tb : Fin 4) (b : Bool) (u : SourceUpdate)
  /-- R63. -/
  | referenceLost (t : Nat) (tb : Fin 4) (b : Bool)
  /-- R97. -/
  | domainRevert (t : Nat) (tb : Fin 4)
  /-- R75. -/
  | mainsZeroCrossing (t : Nat)
  /-- R75. -/
  | mainsAbsentTimeout (t : Nat)
  /-- R81. -/
  | showTimeStart (t : Nat) (tests : List (Nat × Nat))
  /-- R82. -/
  | hwmUpdate (t : Nat)
  /-- R83. -/
  | rtcCopy (t : Nat)
  /-- R90. -/
  | zoneSafeBoundary (t : Nat)
  /-- R105. -/
  | tbCfgWrite (t : Nat) (m : Master) (tb : Fin 4) (v : Word)
  /-- R93. -/
  | showTbWrite (t : Nat) (m : Master) (v : Word)
  /-- R105. -/
  | timeBaseSet (c : Call) (p : TimeBaseSet)
  /-- R102. -/
  | timeSelect (c : Call) (p : TimeSelect)
  /-- R89. -/
  | timeAcceptStep (c : Call) (p : TimeAcceptStep)
  /-- R102. -/
  | timeStatusGet (c : Call)
  /-- R79. -/
  | showTimingSet (c : Call) (p : ShowTimingSet)
  /-- R107. -/
  | almanacTick (t : Nat) (tick : Int)
  /-- R110. -/
  | outputLaunch (t : Nat)
  /-- R120. -/
  | descriptorReady (t : Nat)
  /-- R119. -/
  | descriptorDispatch (t : Nat) (accepting : List Nat)
  /-- R122. -/
  | deadlineDiscard (t : Nat)
  /-- R135. -/
  | timerRetry (t : Nat)
  /-- R135. -/
  | descriptorRetry (t : Nat)
  /-- R141. -/
  | traceFreeze (t : Nat)
  /-- R141. -/
  | traceUnfreeze (t : Nat) (m : Master) (v : Word)
  /-- R143. -/
  | cueSchedule (c : Call) (p : CueSchedule)
  /-- R134. -/
  | cueCancel (c : Call) (cueId : Nat)
  /-- R143. -/
  | almTraceGet (c : Call) (first : Nat) (count : Nat)
  /-- R149. -/
  | chkStart (t : Nat) (owner : Nat) (ch : Fin 64) (aliveClr : Bool)
  /-- R150. -/
  | chkFeed (t : Nat) (owner : Nat) (ch : Fin 64) (w : Word)
  /-- R149. -/
  | chkFinish (t : Nat) (owner : Nat) (ch : Fin 64) (alive : Nat)
  /-- R153. -/
  | chkStateAccess (t : Nat) (owner : Nat) (ch : Fin 64) (alive : Bool) (write : Option Word)
  /-- R159. -/
  | fifoByteWrite (t : Nat) (q : Fin 18) (byte : BitVec 8) (first : Bool) (eop : Bool)
  /-- R164. -/
  | fifoPop (t : Nat) (q : Fin 18) (bad : BitVec 8) (wide : Bool)
  /-- R168. -/
  | fifoPointerFault (t : Nat) (q : Fin 18) (popping : Bool)
  /-- R172. -/
  | parityError (t : Nat) (e : ErrorFound)
  /-- R174. -/
  | mapEntryRewrite (t : Nat)
  /-- R175. -/
  | scrubPass (t : Nat) (errors : List ErrorFound)
  /-- R176. -/
  | faultHandoff (t : Nat)
  /-- R186. -/
  | sdiLineReceived (t : Nat) (src : Fin 4) (crcOk : Bool)
  /-- R190. -/
  | streamPacketReceived (t : Nat) (stream : Fin 16) (pathB : Bool) (p : StreamPacket)
  /-- R190. -/
  | pathLossTimeout (t : Nat) (stream : Fin 16) (pathB : Bool) (seq : Word)
  /-- R191. -/
  | streamFrameTimeout (t : Nat) (stream : Fin 16)
  /-- R197. -/
  | sourceFrameComplete (t : Nat) (src : Fin 28) (f : FrameIn)
  /-- R192. -/
  | generatorPublish (t : Nat) (g : Fin 8)
  /-- R205. -/
  | sdiLockLost (t : Nat) (src : Fin 4)
  /-- R205. -/
  | sourceLossTimeout (t : Nat) (src : Fin 28)
  /-- R205. -/
  | signalReturn (t : Nat) (src : Fin 28)
  /-- R208. -/
  | inputSet (c : Call) (p : InputSet)
  /-- R208. -/
  | inputStreamSet (c : Call) (p : InputStreamSet)
  /-- R208. -/
  | generatorSet (c : Call) (p : GeneratorSet)
  /-- R208. -/
  | inputStatusGet (c : Call) (source : Nat)
  /-- R208. -/
  | layerBind (c : Call) (p : LayerBind)
  /-- R202. -/
  | layerRelease (c : Call) (layer : Nat)
  /-- R232. -/
  | cmpCommitGo (t : Nat) (m : Master) (v : Word)
  /-- R239. -/
  | canvasLineDone (t : Nat) (line : Nat) (accepted : Bool)
  /-- R240. -/
  | layerSet (c : Call) (p : LayerSet)
  /-- R240. -/
  | canvasSet (c : Call) (p : CanvasSet)
  /-- R240. -/
  | compStatusGet (c : Call)
  /-- R261. -/
  | rasCommitGo (t : Nat) (m : Master) (v : Word)
  /-- R251. -/
  | rasterFrameStart
  /-- R251. -/
  | rasterLineMatch (line : Nat)
  /-- R251. -/
  | rasterFrameDone (t : Nat)
  /-- R259. -/
  | scanUnderrun (t : Nat) (line sample : Nat)
  /-- R256. -/
  | lineReadback (t : Nat)
  /-- R260. -/
  | ltrRecompute (t : Nat) (bytes : Nat)
  /-- R266. -/
  | monitorSet (c : Call) (p : MonitorSet)
  /-- R266. -/
  | monitorStatusGet (c : Call)
  /-- R304. -/
  | fxmCommitGo (t : Nat) (m : Master) (v : Word)
  /-- R303. -/
  | fixtureSet (c : Call) (p : FixtureSet)
  /-- R303. -/
  | fixtureGet (c : Call) (first : Nat) (count : Nat)
  /-- R276. -/
  | zoneSet (c : Call) (p : ZoneSet)
  /-- R303. -/
  | zoneGet (c : Call) (zone : Nat)
  /-- R303. -/
  | attrSet (c : Call) (p : AttrSet)
  /-- R303. -/
  | attrValueSet (c : Call) (p : AttrValueSet)
  /-- R303. -/
  | showGet (c : Call)
  /-- R312. -/
  | tileClaim (t : Nat) (engine : Fin 16)
  /-- R313. -/
  | tileSampleStart (t : Nat) (engine : Fin 16) (trap : Option TrapFound)
  /-- R318. -/
  | tileComplete (t : Nat) (engine : Fin 16)
  /-- R314. -/
  | mappingDeadline (t : Nat)
  /-- R325. -/
  | tileTimeout (t : Nat) (engine : Fin 16)
  /-- R325. -/
  | engineFailure (t : Nat) (engine : Fin 16) (cause : Nat)
  /-- R330. -/
  | engineTestDone (t : Nat) (engine : Fin 16)
  /-- R321. -/
  | kernelLoad (c : Call) (p : KernelLoad)
  /-- R321. -/
  | kernelUnload (c : Call) (kind : Nat) (code : Nat)
  /-- R333. -/
  | effectSet (c : Call) (p : EffectSet)
  /-- R333. -/
  | mapStatusGet (c : Call)
  /-- R308. -/
  | mapEngineSet (c : Call) (engine : Nat) (action : Nat)
  /-- R346. -/
  | reportStaleTimeout (t : Nat) (chip : Nat)
  /-- R360. -/
  | calRecordWrite (t : Nat)
  /-- R363. -/
  | curveSet (c : Call) (p : CurveSet)
  /-- R363. -/
  | classSet (c : Call) (p : ClassSet)
  /-- R363. -/
  | calRecordSet (c : Call) (p : CalRecordSet)
  /-- R363. -/
  | calRecordGet (c : Call) (first : Nat) (count : Nat)
  /-- R363. -/
  | zoneTempSet (c : Call) (zone : Nat) (valid : Bool) (temp : Int)
  /-- R363. -/
  | phoStatusGet (c : Call)
  /-- R383. -/
  | pixelFrameSend (t : Nat) (lane : Fin 32)
  /-- R398. -/
  | laneTrainingDone (t : Nat) (lane : Fin 32)
  /-- R399. -/
  | enumerateInterval (t : Nat) (lane : Fin 32)
  /-- R379. -/
  | enumerateFrameReturn (t : Nat) (lane : Fin 32) (frame : EnumFrame) (errors : Nat)
  /-- R384. -/
  | rangeFrameReturn (t : Nat) (lane : Fin 32) (frame : RangeFrame) (loopPs : Nat)
  /-- R386. -/
  | laneRangingDone (t : Nat) (lane : Fin 32)
  /-- R393. -/
  | controlFrameReturn (t : Nat) (lane : Fin 32) (r : CtrlReturn)
  /-- R393. -/
  | controlAckTimeout (t : Nat) (lane : Fin 32)
  /-- R397. -/
  | collectInterval (t : Nat)
  /-- R397. -/
  | collectFrameReturn (t : Nat) (lane : Fin 32) (slots : List Slot) (errors : Nat)
  /-- R399. -/
  | laneRxLoss (t : Nat) (lane : Fin 32) (errors : Nat)
  /-- R403. -/
  | laneSet (c : Call) (p : LaneSet)
  /-- R403. -/
  | laneChainSet (c : Call) (p : LaneChainSet)
  /-- R403. -/
  | laneGlobalSet (c : Call) (p : LaneGlobalSet)
  /-- R387. -/
  | laneRange (c : Call) (mask : Nat) (chip : Nat)
  /-- R403. -/
  | laneStatusGet (c : Call) (lane : Nat)
  /-- R403. -/
  | laneChipWrite (c : Call) (lane : Nat) (chip : Nat) (addr : Nat) (data : List (BitVec 8))
  /-- R403. -/
  | laneChipRead (c : Call) (lane : Nat) (chip : Nat) (addr : Nat)
  /-- R425. -/
  | strLaneSet (c : Call) (p : StrLaneSet)
  /-- R423. -/
  | strLampSet (c : Call) (p : StrLampSet)
  /-- R425. -/
  | strFaultGet (c : Call) (first : Nat) (count : Nat)
  /-- R428. -/
  | linkUp (t : Nat) (port : Fin 11) (rate : Nat)
  /-- R428. -/
  | linkDown (t : Nat) (port : Fin 11) (cause : Nat)
  /-- R434. -/
  | pairRevert (t : Nat) (pair : Fin 4)
  /-- R440. -/
  | txFrameStart (t : Nat) (port : Fin 11)
  /-- R439. -/
  | launchSlotFire (t : Nat) (port : Fin 11)
  /-- R448. -/
  | tsqPop (t : Nat) (port : Fin 11)
  /-- R456. -/
  | tallyRead (t : Nat) (port : Fin 11) (ctr : Fin 24)
  /-- R457. -/
  | tallyAccumulate (t : Nat)
  /-- R451. -/
  | frameReceived (t : Nat) (port : Fin 11) (f : RxFrame)
  /-- R443. -/
  | pauseFrameReceived (t : Nat) (port : Fin 11) (opcode : Nat) (enables : Nat) (quanta : List Nat)
  /-- R444. -/
  | pauseEnd (t : Nat) (port : Fin 11)
  /-- R446. -/
  | pauseWatchdogTrip (t : Nat) (port : Fin 11)
  /-- R446. -/
  | pauseIgnoreEnd (t : Nat) (port : Fin 11)
  /-- R459. -/
  | wakeFrameMatch (t : Nat) (e : WakeEvent)
  /-- R461. -/
  | macPortSet (c : Call) (p : MacPortSet)
  /-- R461. -/
  | macPairSet (c : Call) (pair : Nat) (mode : Nat) (flags : Nat)
  /-- R461. -/
  | macWakeSet (c : Call) (p : MacWakeSet)
  /-- R461. -/
  | macStatusGet (c : Call) (port : Nat)
  /-- R457. -/
  | macTallyGet (c : Call) (port : Nat) (flags : Nat)
  /-- R474. -/
  | e131PacketReceived (t : Nat) (port : Fin 8) (p : E131Packet)
  /-- R474. -/
  | e131SourceTimeout (t : Nat) (entry : Nat) (cid : Nat)
  /-- R471. -/
  | universeDiscovery (t : Nat)
  /-- R482. -/
  | dmxFrameReceived (t : Nat) (port : Fin 16) (startCode : Nat) (slots : List Nat) (errors : Nat)
  /-- R482. -/
  | dmxSourceTimeout (t : Nat) (port : Fin 16)
  /-- R484. -/
  | rdmWindow (t : Nat) (port : Fin 16)
  /-- R485. -/
  | rdmResponseReceived (t : Nat) (port : Fin 16) (kind : Nat) (took : Nat) (bytes : List (BitVec 8))
  /-- R484. -/
  | rdmResponseTimeout (t : Nat) (port : Fin 16)
  /-- R487. -/
  | pktEngineFailure (t : Nat) (engine : Fin 8) (cause : Nat)
  /-- R489. -/
  | flowSet (c : Call) (p : FlowSet)
  /-- R489. -/
  | rxUniverseSet (c : Call) (p : RxUniverseSet)
  /-- R489. -/
  | pktGlobalSet (c : Call) (p : PktGlobalSet)
  /-- R489. -/
  | dmxPortSet (c : Call) (p : DmxPortSet)
  /-- R483. -/
  | rdmRequest (c : Call) (p : RdmRequest)
  /-- R486. -/
  | pktCodeLoad (c : Call) (p : PktCodeLoad)
  /-- R500. -/
  | radioSlotStart (t : Nat) (xcvr : Fin 2) (busy : Bool) (r : Nat)
  /-- R507. -/
  | radioFrameReceived (t : Nat) (xcvr : Fin 2) (f : RadioRx)
  /-- R516. -/
  | radioFwProgressTimer (t : Nat)
  /-- R519. -/
  | radioSet (c : Call) (p : RadioSet)
  /-- R519. -/
  | radioNodeSet (c : Call) (p : RadioNodeSet)
  /-- R519. -/
  | radioGlobalSet (c : Call) (p : RadioGlobalSet)
  /-- R519. -/
  | radioStatusGet (c : Call) (xcvr : Nat)
  /-- R519. -/
  | radioNodeGet (c : Call) (first : Nat) (count : Nat)
  /-- R515. -/
  | radioFwLoad (c : Call) (p : RadioFwLoad)
  /-- R516. -/
  | radioFwStart (c : Call) (p : RadioFwStart)
  /-- R528. -/
  | leaseRequestInterval (t : Nat) (group : Fin 16)
  /-- R527. -/
  | leaseFrameReceived (t : Nat) (f : LeaseFrame)
  /-- R530. -/
  | leaseExpiry (t : Nat) (group : Fin 16)
  /-- R533. -/
  | escrowRecordWrite (t : Nat)
  /-- R534. -/
  | escrowFragmentReceived (t : Nat) (payload : List (BitVec 8))
  /-- R533. -/
  | escrowRecordDeadline (t : Nat)
  /-- R543. -/
  | probeInterval (t : Nat)
  /-- R543. -/
  | probeReceived (t : Nat) (port : Fin 8) (payload : List (BitVec 8))
  /-- R543. -/
  | probeTimeout (t : Nat) (port : Fin 8)
  /-- R548. -/
  | pairSet (c : Call) (p : PairSet)
  /-- R548. -/
  | pairRelease (c : Call) (mask : Nat)
  /-- R548. -/
  | pairStatusGet (c : Call)
  /-- R554. -/
  | cmdDoorbell (t : Nat) (wr : BitVec 16) (msgs : List Msg)
  /-- R555. -/
  | ringReadPointerWrite (t : Nat) (notices : Bool) (rd : BitVec 17)
  /-- R556. -/
  | sessionResetDoorbell (t : Nat)
  /-- R554. -/
  | commandTake (t : Nat) (slot : Fin 5)
  /-- R557. -/
  | udpDatagramReceived (t : Nat) (d : Datagram)
  /-- R559. -/
  | sessionIdleTimeout (t : Nat) (slot : Fin 5)
  /-- R559. -/
  | fragmentTimeout (t : Nat)
  /-- R566. -/
  | noticeResend (t : Nat)
  /-- R566. -/
  | noticeQueueDrain (t : Nat)
  /-- R550. -/
  | pcieLinkChange (t : Nat) (e : LinkEvent)
  /-- R578. -/
  | identify (c : Call)
  /-- R578. -/
  | echo (c : Call) (bytes : List (BitVec 8))
  /-- R578. -/
  | noticeMask (c : Call) (mask : Word)
  /-- R578. -/
  | sessionReset (c : Call)
  /-- R569. -/
  | commitOpen (c : Call)
  /-- R570. -/
  | commit (c : Call) (p : CommitSet)
  /-- R569. -/
  | commitAbort (c : Call)
  /-- R578. -/
  | stageDrop (c : Call) (id : Nat)
  /-- R577. -/
  | diagRead (c : Call) (offset : Nat) (count : Nat)
  /-- R577. -/
  | diagWrite (c : Call) (offset : Nat) (words : List Word)
  /-- R584. -/
  | powerModeSet (c : Call) (mode : Nat) (wakeAfter : Nat)
  /-- R589. -/
  | powerLatencySet (c : Call) (tolerances : List Nat)
  /-- R588. -/
  | powerDomainSet (c : Call) (domain : Nat) (action : Nat)
  /-- R591. -/
  | powerSagSet (c : Call) (p : PowerSagSet)
  /-- R600. -/
  | powerThermalSet (c : Call) (p : PowerThermalSet)
  /-- R602. -/
  | powerWakeSet (c : Call) (enables : Nat) (alarm : Nat)
  /-- R602. -/
  | powerStatusGet (c : Call)
  /-- R602. -/
  | pvtGet (c : Call)
  /-- R602. -/
  | powerReset (c : Call) (target : Nat) (next : Nat)
  /-- R587. -/
  | domainStepDone (t : Nat) (d : Domain)
  /-- R583. -/
  | modeChangeDone (t : Nat)
  /-- R589. -/
  | dramIdleEntry (t : Nat) (idleNs : Nat)
  /-- R591. -/
  | sagW1 (t : Nat) (mv : Nat)
  /-- R591. -/
  | sagRecovered (t : Nat) (mv : Nat)
  /-- R592. -/
  | sagHoldExpiry (t : Nat)
  /-- R593. -/
  | w2Reset (t : Nat) (rail : Domain)
  /-- R595. -/
  | powerOnReset (t : Nat)
  /-- R595. -/
  | resetPin (t : Nat)
  /-- R601. -/
  | thermalTrip (t : Nat) (sensor : Fin 24) (temp : Int)
  /-- R596. -/
  | watchdogExpiry (t : Nat)
  /-- R597. -/
  | pd2Restart (t : Nat) (p : BootPins)
  /-- R586. -/
  | rtcAlarmWake (t : Nat)
  /-- R586. -/
  | wakePin (t : Nat)
  /-- R675. -/
  | pwrGoodRise (t : Nat)
  /-- R676. -/
  | pwrGoodTimeout (t : Nat)
  /-- R645; the commit lead in µs and the delay pool in MiB that the show is set up with (R42, R52, log entry 9). -/
  | bootComplete (t : Nat) (p : BootPins) (counts : List Nat) (avs : Bool) (lead : Nat) (pool : Nat)
  /-- R600. -/
  | temperatureSample (t : Nat) (temps : List Int) (counts : List Nat)
  /-- R600. -/
  | thermalShedStep (t : Nat)
  /-- R599. -/
  | voltageSample (t : Nat) (volts : List Nat)
  /-- R621. -/
  | calRun (c : Call) (mask : Nat) (flags : Nat) (lanes : Nat)
  /-- R622. -/
  | calAbort (c : Call)
  /-- R624. -/
  | calStatusGet (c : Call)
  /-- R624. -/
  | calItemGet (c : Call) (item : Nat) (first : Nat)
  /-- R607. -/
  | calItemDone (t : Nat) (item : Nat) (inPass : Bool) (runs : List CalRun)
  /-- R619. -/
  | calSectorWriteDone (t : Nat) (utc : Nat)
  /-- R609. -/
  | laneSkewStep (t : Nat) (lane : Fin 32)
  /-- R651. -/
  | secStatusGet (c : Call)
  /-- R635. -/
  | secKeyEnroll (c : Call) (p : KeyEnroll)
  /-- R636. -/
  | secKeyRevoke (c : Call) (ident : Nat)
  /-- R638. -/
  | secRecordSet (c : Call) (p : RecordSet)
  /-- R638. -/
  | secProvisionDone (c : Call) (flags : Nat)
  /-- R643. -/
  | secRollbackAdvance (c : Call) (flags : Nat)
  /-- R653. -/
  | secRetire (c : Call) (confirm : Nat)
  /-- R648. -/
  | fwBegin (c : Call) (bank : Nat) (header : FwHeader)
  /-- R649. -/
  | fwBlock (c : Call) (block : Nat) (crc : Word) (data : List (BitVec 8))
  /-- R650. -/
  | fwEnd (c : Call) (bank : Nat)
  /-- R650. -/
  | fwActivate (c : Call) (bank : Nat)
  /-- R650. -/
  | fwAbort (c : Call) (bank : Nat)
  /-- R651. -/
  | fwStatusGet (c : Call) (bank : Nat)
  /-- R656. -/
  | ledgerRecordOffer (t : Nat)
  /-- R662. -/
  | trackerTokenGain (t : Nat) (tracker : Fin 512)
  /-- R660. -/
  | ledgerFlushPeriod (t : Nat)
  /-- R660. -/
  | ledgerFlushRun (t : Nat) (bad : List Bool)
  /-- R660. -/
  | ledgerFlushDone (t : Nat)
  /-- R666. -/
  | freezeTimeout (t : Nat)
  /-- R670. -/
  | ledgerStatusGet (c : Call)
  /-- R667. -/
  | ledgerRead (c : Call) (first : Word) (count : Nat)
  /-- R666. -/
  | ledgerFreeze (c : Call) (action : Nat) (limit : Nat)
  /-- R668. -/
  | ledgerChallenge (c : Call)
  /-- R669. -/
  | ledgerClear (c : Call) (token : ClearToken)
  /-- R662. -/
  | ledgerLimitSet (c : Call) (code : Nat) (r : Nat) (b : Nat)
  /-- R670. -/
  | ledgerFlush (c : Call)
  /-- R595. -/
  | vbatLoss (t : Nat)
  /-- R586. -/
  | aonRailsGood (t : Nat)
  /-- R676. -/
  | powerUpRetry (t : Nat)
  /-- R585. -/
  | avsRetune (t : Nat)
  /-- R649. -/
  | fwBlockWriteDone (t : Nat) (good : Bool)
deriving DecidableEq, Repr

end Sys2Proof
end

