-- ==== Sys2Proof/Config.lean ====
section
/-! DEFINITION. What the spec leaves open: values without a body, which no proof can see. Each is named in a log entry. -/

namespace Sys2Proof.Config

/-- A fresh value the spec does not fix, by the count of such values drawn (log entry 4). -/
opaque freeValue : Nat → Int

/-- The serial number bytes of the part (R578, log entry 5). -/
opaque serial : Nat → Nat


/-- In SOAK, the lowest core voltage in mV at which given ring-oscillator counts keep 5 % margin at 900 MHz (R585, log entry 8). -/
opaque avsSoak : List Nat → Nat

/-- The alignment point of SMPTE ST 2059-1 for a frame rate N / D, a grid origin in ns of ST64 (R79, log entry 7). -/
opaque alignOrigin : Nat → Nat → Int

/-- The fused table of R599 from ring-oscillator counts to the core set point in mV (log entry 8). -/
opaque avsTable : List Nat → Nat

/-- The 4-tap interpolator of R194 from the four nearest co-sited chroma codes, in units of 2⁻²⁴ of a code (log entry 10). -/
opaque chromaTap : Int → Int → Int → Int → Int

/-- Patterns 4 to 7 of R208 as they stand, whose layout is not stated: pattern, size, cell, x, y, channel, colours A and B (log entry 10). -/
opaque patternPixel : List Nat → Nat

/-- The nominal frame rate, in Hz, that R198 counts for an SDI input whose rate has not been detected (log entry 11). -/
opaque sdiRate : Nat → Nat

/-- How far an interpolated tone table lies from the exact value, in L22 codes; taken within ±4 (R228, log entry 12). -/
opaque toneError : List Nat → Int

/-- The scaler's result for a filter, an output position, sizes and a channel from the taps it reads, where no rule states the coefficients;
its choice of phase and of rounding where one does (R219, R220, log entry 12). -/
opaque resample : List Nat → List Nat → Nat

/-- The DRAM address of canvas buffer 0 in units of 64 KiB, by canvas area and delay pool (R52, log entry 12). -/
opaque canvasBase : Nat → Nat → Nat

/-- The DRAM address of monitor buffer 0 in units of 64 KiB, by monitor format (R52, R255, log entry 13). -/
opaque monitorBase : Nat → Nat

/-- The DRAM address of the tile table in units of 64 KiB, by the enabled zones (R310, R334, log entry 21). -/
opaque tileBase : List Nat → Nat

/-- The DRAM address of calibration record 0 in units of 64 KiB, by delay pool (R52, R364, log entry 15). -/
opaque calBase : Nat → Nat

/-- The entry of a full segment cache that gives way to a segment (R268, log entry 14). -/
opaque cacheVictim : Nat → Nat → Nat

/-- Where a sample lies between two L22 codes, the code it takes (R280, log entry 21). -/
opaque sampleUp : List Int → Bool

/-- A canvas pixel whose center lies on the edge of the parallelogram belongs to it (R280, log entry 21). -/
opaque areaEdge : List Int → Bool

/-- The mean over a parallelogram that holds no center, by channel (R280, log entry 21). -/
opaque areaEmpty : List Int → Nat

/-- What a user kernel gives for a pixel from its code, its data, its inputs and its scratch: the sample by channel, and the scratch it leaves (R319,
R320, log entry 21). -/
opaque userKernel : List (BitVec 8) → List (BitVec 8) → List Int → List (BitVec 8) → List Nat × List (BitVec 8)

/-- What a user effect gives for an index from its code, its data, its inputs, its slot's state and its scratch: v, and the scratch it leaves (R323,
R324, log entry 21). -/
opaque userEffect : List (BitVec 8) → List (BitVec 8) → List Int → List (BitVec 8) → List (BitVec 8) → Nat × List (BitVec 8)

/-- The state that a user effect's slot has after a frame from its code, its data, the inputs of its indices in the frame and its state before (R324,
log entry 21). -/
opaque userState : List (BitVec 8) → List (BitVec 8) → List (List Int) → List (BitVec 8) → List (BitVec 8)

/-- The deviation of the program Sine from the exact value, taken within ±1 (R323, log entry 21). -/
opaque sineError : List Nat → Int

/-- BT.2020 luma of a sample that no whole code equals (R298, log entry 21). -/
opaque lumaUp : List Nat → Bool

/-- The digest of a group's configuration: its zones, fixtures, descriptors, effects, flows and radio settings with their nodes, and the tag in force
(R526, log entry 23). -/
opaque digest : List (Nat × ZoneSet) → List (Nat × FixtureEntry) → List (Nat × AttrDesc) → List (Nat × EffectRec) → List (Nat × FlowCtx) →
  List (Nat × RadioSet) × List (Nat × RadioNodeRec) → Nat → Nat

/-- The identifier with which a transmit descriptor requests a timestamp, if it does, by port and number of the descriptor (R447, log entry 19). -/
opaque txStamp : Nat → Nat → Option Nat

/-- The DRAM address of the buffer of a receive descriptor in units of 64 bytes, by port, ring and descriptor (R452, log entry 19). -/
opaque ringBuffer : Nat → Nat → Nat → Nat

/-- What no rule gives of a sent header: 0 the TTL, 1 the DSCP and 2 the source UDP port of a frame that is no flow's, 3 the default destination address of a
Unbex-over-Ethernet flow (R466, log entry 19). -/
opaque headFree : Nat → Nat

/-- The byte at a place of a payload that user code writes, by a count of such payloads (R486, log entry 20). -/
opaque userByte : Nat → Nat → BitVec 8

/-- The nonce and the GCM tag of a lease frame, 28 bytes, from the pair key and the bytes that the tag covers (R527, log entry 23). -/
opaque leaseSeal : Nat → List (BitVec 8) → Nat → BitVec 8

/-- The DRAM address of a receive ring's descriptor array in units of 64 KiB, by port and ring (R452, log entry 19). -/
opaque ringBase : Nat → Nat → Nat

/-- How many descriptors the consumer of a receive ring has returned since the last frame, by port, ring and a count of such values (R452, log entry
19). -/
opaque ringTaken : Nat → Nat → Nat → Nat

/-- SHA-384 of a payload (R641, log entry 25). -/
opaque sha384 : List (BitVec 8) → Nat

end Sys2Proof.Config
end

