-- ==== Sys2Proof/Machine/Assoc.lean ====
section
/-! DEFINITION. Operations over sorted association lists, bounded vectors and bit fields: the plain helpers every meaning uses. -/

namespace Sys2Proof.Machine

/-- The value at key `k`. -/
def aFind {α : Type} (m : SMap α) (k : Nat) : Option α :=
  match m with
  | [] => none
  | (j, x) :: r => if j = k then some x else aFind r k

/-- The value at key `k`, or `d` where the map lists none. -/
def aGet {α : Type} (m : SMap α) (k : Nat) (d : α) : α := (aFind m k).getD d

/-- The map with `k` bound to `x`, keys kept in rising order. -/
def aPut {α : Type} (m : SMap α) (k : Nat) (x : α) : SMap α :=
  match m with
  | [] => [(k, x)]
  | (j, y) :: r => if k < j then (k, x) :: (j, y) :: r else if k = j then (k, x) :: r else (j, y) :: aPut r k x

/-- The map without `k`. -/
def aDel {α : Type} (m : SMap α) (k : Nat) : SMap α :=
  match m with
  | [] => []
  | (j, y) :: r => if j = k then r else (j, y) :: aDel r k

/-- Keys of the map. -/
def aKeys {α : Type} (m : SMap α) : List Nat := m.map Prod.fst

/-- The canonical form: keys strictly rising. -/
def aWf {α : Type} (m : SMap α) : Bool :=
  match m with
  | [] => true
  | (_, _) :: [] => true
  | (j, _) :: (k, y) :: r => decide (j < k) && aWf ((k, y) :: r)

/-- Element `i` of a vector, or `d` outside it. -/
def vGet {α : Type} {n : Nat} (v : Vector α n) (i : Nat) (d : α) : α := v[i]?.getD d

/-- The vector with element `i` changed by `f`. -/
def vMod {α : Type} {n : Nat} (v : Vector α n) (i : Nat) (f : α → α) : Vector α n :=
  v.mapIdx (fun j x => if j = i then f x else x)

/-- The vector with every element changed by `f`. -/
def vMap {α β : Type} {n : Nat} (v : Vector α n) (f : α → β) : Vector β n := v.mapIdx (fun _ x => f x)

/-- Bits `hi` to `lo` of a word (R18). -/
def bits (w : Word) (hi lo : Nat) : Nat := (w.toNat / 2 ^ lo) % 2 ^ (hi + 1 - lo)

/-- Bit `i` of a word. -/
def bitOf (w : Word) (i : Nat) : Bool := bits w i i == 1

/-- The word with bits `hi` to `lo` set to `v`. -/
def setBits (w : Word) (hi lo v : Nat) : Word :=
  let mask : Word := BitVec.ofNat 32 ((2 ^ (hi + 1 - lo) - 1) * 2 ^ lo)
  (w &&& ~~~mask) ||| (BitVec.ofNat 32 (v * 2 ^ lo) &&& mask)

/-- Bit `i` of a number. -/
def nBit (n i : Nat) : Bool := n / 2 ^ i % 2 == 1

def bNat (b : Bool) : Nat := if b then 1 else 0

/-- The signed value of the low `w` bits of a number. -/
def signed (w n : Nat) : Int := if n % 2 ^ w < 2 ^ (w - 1) then (n % 2 ^ w : Nat) else (n % 2 ^ w : Nat) - (2 ^ w : Nat)

/-- The low `w` bits of an integer's two's complement. -/
def unsignedOf (w : Nat) (i : Int) : Nat := (i % (2 ^ w : Nat)).toNat

/-- A 64-bit value's low and high word (R99). -/
def loWord (i : Int) : Word := BitVec.ofInt 32 i

def hiWord (i : Int) : Word := BitVec.ofInt 32 (i / 4294967296)

/-- The number that little-endian bytes spell. -/
def leNat (l : List (BitVec 8)) : Nat :=
  match l with
  | [] => 0
  | b :: r => b.toNat + 256 * leNat r

/-- The `w` low bytes of a number, lowest first. -/
def le (n w : Nat) : List (BitVec 8) := (List.range w).map (fun i => BitVec.ofNat 8 (n / 256 ^ i))

/-- `w` bytes at an offset. -/
def field (l : List (BitVec 8)) (at_ w : Nat) : Nat := leNat ((l.drop at_).take w)

def fieldI (l : List (BitVec 8)) (at_ w : Nat) : Int := signed (8 * w) (field l at_ w)

/-- Saturation of an integer to a range. -/
def clampI (lo hi x : Int) : Int := if x < lo then lo else if hi < x then hi else x

def clampN (lo hi x : Nat) : Nat := if x < lo then lo else if hi < x then hi else x

/-- Rounding half away from zero of `a / b`, `b` positive. -/
def roundDiv (a : Int) (b : Nat) : Int :=
  if a < 0 then -((2 * a.natAbs + b) / (2 * b) : Nat) else ((2 * a.natAbs + b) / (2 * b) : Nat)

/-- Rounding up of `a / b`. -/
def ceilDiv (a b : Nat) : Nat := (a + b - 1) / b

end Sys2Proof.Machine
end

