-- ==== Sys2Proof/Machine/Series.lean ====
section
/-! DEFINITION. The functions of analysis that rules name (logarithm, exponential, sine), in units of 2⁻⁶⁰ and with an error below 2⁻⁵⁰ of the
result or of 1 (log entry 12). -/

namespace Sys2Proof.Machine

/-- 1 in the unit of this file. -/
def one60 : Nat := 2 ^ 60

/-- ln 2 and π. -/
def ln2 : Nat := 799144290325165979

def piFix : Nat := 3622009729038561421

/-- 2 artanh z = ln ((1 + z) / (1 − z)), for z up to 1/3. -/
def artanhTwice (z : Nat) : Nat :=
  let sq := z * z / one60
  2 * ((List.range 24).foldl (fun (c : Nat × Nat) i => (c.1 + c.2 / (2 * i + 1), c.2 * sq / one60)) (0, z)).1

/-- ln n of a whole number above 0. -/
def lnNat (n : Nat) : Int :=
  let b := Nat.log2 n
  let m := n * one60 / 2 ^ b
  (artanhTwice ((m - one60) * one60 / (m + one60)) : Int) + (b * ln2 : Nat)

/-- e^x. A result below 2⁻²⁰⁰ is 0; x is taken no higher than 2,000 ln 2. -/
def expFix (x : Int) : Nat :=
  let q := min 2000 (x / (ln2 : Int))
  let r := (x - q * (ln2 : Int)).toNat % ln2
  let v := ((List.range 26).foldl (fun (c : Nat × Nat) i => (c.1 + c.2, c.2 * r / one60 / (i + 1))) (0, one60)).1
  if 0 ≤ q then v * 2 ^ q.toNat else if q < -200 then 0 else v / 2 ^ (-q).toNat

/-- (n / d)^(p / q) for whole numbers; 0 for n = 0. -/
def powRatio (n d : Nat) (p q : Int) : Nat := if n = 0 then 0 else expFix ((lnNat n - lnNat d) * p / q)

/-- sin² of an angle from 0 to π / 2, by the series of (1 − cos 2x) / 2. -/
def sinSquare (x : Nat) : Nat :=
  let sq := 4 * x * x / one60
  let c := ((List.range 20).foldl (fun (c : Int × Nat) i =>
    (if i % 2 = 0 then c.1 + c.2 else c.1 - c.2, c.2 * sq / one60 / ((2 * i + 3) * (2 * i + 4)))) (0, sq / 2)).1
  (c / 2).toNat

/-- (1 − cos (2π θ / 65,536)) / 2. -/
def sineHalf (th : Nat) : Nat :=
  let h := th % 65536
  let a := if h ≤ 32768 then h else 65536 - h
  sinSquare (piFix * a / 65536)

/-! The transfer functions of the standards that R226 and R254 name, as those standards define them (PRESUMED, log entry 12). A code or signal is
a whole number over `top`. -/

/-- The ST 2084 EOTF, in cd/m² and units of 2⁻⁴⁰. -/
def pqEotf (code top : Nat) : Nat :=
  let e := powRatio code top 32 2523
  let num := e - 3424 * one60 / 4096
  let den := 2413 * one60 / 128 - 2392 * e / 128
  if num = 0 ∨ den = 0 then 0
  else powRatio num den 16384 2610 * 10000 / 2 ^ 20

/-- The ST 2084 inverse EOTF of a luminance in cd/m² and units of 2⁻⁴⁰, in units of 2⁻²⁴. -/
def pqInverse (lum : Nat) : Nat :=
  let y := powRatio lum (10000 * 2 ^ 40) 2610 16384
  let num := 3424 * one60 / 4096 + 2413 * y / 128
  let den := one60 + 2392 * y / 128
  min (2 ^ 24) (powRatio num den 2523 32 / 2 ^ 36)

/-- BT.2100 HLG: a, b and c in units of 10⁻⁸. -/
def hlgA : Nat := 17883277

def hlgB : Nat := 28466892

def hlgC : Nat := 55991073

/-- The HLG inverse OETF of a signal, in units of 2⁻⁴⁰. -/
def hlgInverse (code top : Nat) : Nat :=
  if 2 * code ≤ top then code * code * 2 ^ 40 / (3 * top * top)
  else
    let x : Int := ((code * 100000000 : Nat) : Int) - (hlgC * top : Nat)
    (expFix (x * (one60 : Int) / (hlgA * top : Nat)) + hlgB * one60 / 100000000) / (12 * 2 ^ 20)

/-- The HLG OETF of scene light in units of 2⁻⁴⁰, in units of 2⁻²⁴. -/
def hlgOetf (e : Nat) : Nat :=
  if 12 * e ≤ 2 ^ 40 then Nat.sqrt (3 * e * 2 ^ 8)
  else
    let x := 12 * e * 100000000 - hlgB * 2 ^ 40
    let l := lnNat x - lnNat (100000000 * 2 ^ 40)
    min (2 ^ 24) (((hlgA : Int) * l / (one60 : Int) + hlgC) * 2 ^ 24 / 100000000).toNat

/-- γ = 1.2 + 0.42 log₁₀(P / 1,000) (R226). -/
def hlgGamma (peak : Nat) : Int := (6 * one60 : Nat) / 5 + 42 * (one60 : Int) * (lnNat (max 1 peak) - lnNat 1000) / (100 * lnNat 10)

/-- x^(γ − 1) of a light value in units of 2⁻⁴⁰, in the same unit (R226). -/
def hlgGain (ys peak : Nat) : Nat :=
  if ys = 0 then 0 else expFix ((lnNat ys - (40 * ln2 : Nat)) * (hlgGamma peak - (one60 : Int)) / (one60 : Int)) / 2 ^ 20

/-- Scene light of a displayed light value in a triple of luminance `yd`, both in units of 2⁻⁴⁰: the inverse of the HLG row of R226. -/
def hlgScene (yd peak x : Nat) : Nat :=
  let g := hlgGamma peak
  if yd = 0 ∨ g = 0 then 0
  else x * expFix (-((lnNat yd - (40 * ln2 : Nat)) * (g - (one60 : Int)) / g)) / one60

end Sys2Proof.Machine
end

