-- ==== Sys2Proof/Machine/Light.lean ====
section
/-! DEFINITION. Light arithmetic that several blocks share: canvas encoding, rational powers and roots by integer comparison, and the tone map
(R214, R226 to R228). -/

namespace Sys2Proof.Machine

/-- The greatest n < 2^b with `p n`, for a `p` that holds up to some number and at 0. -/
def searchUp (p : Nat → Bool) (b acc : Nat) : Nat :=
  match b with
  | 0 => acc
  | k + 1 => searchUp p k (if p (acc + 2 ^ k) then acc + 2 ^ k else acc)

/-- The greatest L22 code (R29). -/
def l22Max : Nat := 4194303

/-- y = (c / 65,535)^2.4 in L22, halves rounded up: the greatest n with n − 1/2 ≤ 4,194,303 × (c / 65,535)^2.4 (R214). -/
def decodeCanvas (c : Nat) : Nat := searchUp (fun n => decide ((2 * n - 1) ^ 5 * 65535 ^ 12 ≤ (2 * l22Max) ^ 5 * c ^ 12)) 22 0

/-- c = round(65,535 × y^(1/2.4)), halves up (R214). -/
def encodeCanvas (y : Nat) : Nat := searchUp (fun c => decide ((2 * c - 1) ^ 12 * l22Max ^ 5 ≤ (2 * 65535) ^ 12 * y ^ 5)) 16 0

/-- 2⁴⁰, the unit in which light is carried between the steps of R226. -/
def one40 : Nat := 2 ^ 40

/-- (c / 65,535)^2.4 in units of 2⁻⁴⁰. -/
def pow24 (c : Nat) : Nat := searchUp (fun x => decide (x ^ 5 * 65535 ^ 12 ≤ one40 ^ 5 * c ^ 12)) 41 0

/-- x of R226: light relative to P by transfer (0 SDR, 1 PQ, 2 HLG), in units of 2⁻⁴⁰. -/
def lightOf (transfer peak white r g b : Nat) : Nat × Nat × Nat :=
  let p := max 1 peak
  match transfer with
  | 1 => (pqEotf r 65535 / p, pqEotf g 65535 / p, pqEotf b 65535 / p)
  | 2 =>
    let e (c : Nat) : Nat := hlgInverse c 65535
    let ys := (2627 * e r + 6780 * e g + 593 * e b) / 10000
    let f (c : Nat) : Nat := hlgGain ys peak * e c / one40
    (f r, f g, f b)
  | _ =>
    let w := if white = 0 then p else white
    (pow24 r * w / p, pow24 g * w / p, pow24 b * w / p)

/-- BT.709 light in BT.2020 primaries (R226). -/
def toBt2020 (x : Nat × Nat × Nat) : Nat × Nat × Nat :=
  let (r, g, b) := x
  ((6274 * r + 3293 * g + 433 * b) / 10000, (691 * r + 9195 * g + 114 * b) / 10000, (164 * r + 880 * g + 8956 * b) / 10000)

/-- The highlight roll-off of PQ frames (R227). -/
def rollOff (knee : Nat) (x : Nat × Nat × Nat) : Nat × Nat × Nat :=
  let (r, g, b) := x
  let m := max r (max g b)
  let k := knee * one40 / 32768
  if m ≤ k ∨ 32768 ≤ knee then x
  else
    let y := k + (one40 - k) * (one40 - expFix (-((m - k) * one60 / (one40 - k) : Nat)) / 2 ^ 20) / one40
    (r * y / m, g * y / m, b * y / m)

/-- A light value clipped to 1, in L22, halves up (R227, R228). -/
def lightCode (x : Nat) : Nat := (2 * l22Max * min x one40 + one40) / (2 * one40)

/-- The exact tone map of R226 and R227, to the precision of the steps. -/
def toneExact (transfer : Nat) (bt2020 : Bool) (peak white knee r g b : Nat) : Nat × Nat × Nat :=
  let x := lightOf transfer peak white r g b
  let y := if bt2020 then x else toBt2020 x
  let (u, v, w) := if transfer = 1 then rollOff knee y else y
  (lightCode u, lightCode v, lightCode w)

/-- The interpolated tables: within ±4 codes of the exact value (R228). -/
def toneMap (transfer : Nat) (bt2020 : Bool) (peak white knee r g b : Nat) : Nat × Nat × Nat :=
  let (u, v, w) := toneExact transfer bt2020 peak white knee r g b
  let dev (ch x : Nat) : Nat :=
    (clampI 0 l22Max ((x : Int) + clampI (-4) 4 (Config.toneError [ch, transfer, bNat bt2020, peak, white, knee, r, g, b]))).toNat
  (dev 0 u, dev 1 v, dev 2 w)

end Sys2Proof.Machine
end

