-- ==== Sys2Proof/Machine/Catalogue.lean ====
section
/-! DEFINITION. The catalogue of commands (R575): class, payload lengths and the largest response of each code, as its chapter lays it out. -/

namespace Sys2Proof.Machine

/-- A command: its code and class; its payload has `base` bytes and then any number of records of `step` bytes up to `most` bytes in all; the
largest payload of its response. -/
structure CodeDesc where
  code : Nat
  cls : Nat
  base : Nat
  step : Nat
  most : Nat
  rsp : Nat
deriving DecidableEq, Repr

def codesA : List CodeDesc :=
  [⟨0x0001, 0, 0, 0, 0, 64⟩, ⟨0x0002, 0, 0, 1, 1024, 1024⟩, ⟨0x0003, 0, 4, 0, 4, 0⟩, ⟨0x0004, 0, 0, 0, 0, 0⟩, ⟨0x0010, 0, 0, 0, 0, 0⟩,
   ⟨0x0011, 0, 16, 0, 16, 32⟩, ⟨0x0012, 0, 0, 0, 0, 0⟩, ⟨0x0013, 0, 4, 0, 4, 0⟩, ⟨0x0030, 1, 8, 0, 8, 1032⟩, ⟨0x0031, 1, 8, 4, 131072, 0⟩,
   ⟨0x0110, 2, 24, 0, 24, 0⟩, ⟨0x0111, 2, 12, 0, 12, 0⟩, ⟨0x0112, 2, 4, 0, 4, 0⟩, ⟨0x0113, 2, 0, 0, 0, 144⟩, ⟨0x0114, 2, 24, 0, 24, 0⟩,
   ⟨0x0140, 3, 32, 0, 32, 0⟩, ⟨0x0141, 3, 4, 0, 4, 0⟩, ⟨0x0143, 3, 4, 0, 4, 4104⟩]

def codesB : List CodeDesc :=
  [⟨0x0400, 5, 16, 0, 16, 0⟩, ⟨0x0401, 5, 48, 0, 48, 0⟩, ⟨0x0402, 5, 32, 0, 32, 0⟩, ⟨0x0403, 5, 4, 0, 4, 48⟩, ⟨0x0410, 5, 8, 0, 8, 0⟩,
   ⟨0x0411, 5, 4, 0, 4, 0⟩, ⟨0x0412, 6, 48, 0, 48, 0⟩, ⟨0x0413, 6, 16, 0, 16, 0⟩, ⟨0x0414, 6, 0, 0, 0, 112⟩, ⟨0x0420, 7, 40, 0, 40, 0⟩,
   ⟨0x0421, 7, 0, 0, 0, 48⟩, ⟨0x0430, 8, 8, 64, 131072, 0⟩, ⟨0x0431, 8, 8, 0, 8, 73736⟩, ⟨0x0432, 8, 16, 0, 16, 0⟩, ⟨0x0433, 8, 4, 0, 4, 32⟩,
   ⟨0x0434, 8, 8, 32, 131072, 0⟩, ⟨0x0435, 8, 8, 2, 131072, 0⟩, ⟨0x0436, 8, 0, 0, 0, 48⟩, ⟨0x0440, 9, 32, 1, 131072, 0⟩,
   ⟨0x0441, 9, 4, 0, 4, 0⟩, ⟨0x0442, 9, 8, 32, 131072, 0⟩, ⟨0x0443, 9, 0, 0, 0, 64⟩, ⟨0x0444, 9, 4, 0, 4, 0⟩]

def codesC : List CodeDesc :=
  [⟨0x0450, 10, 16, 15364, 15380, 0⟩, ⟨0x0451, 10, 296, 0, 296, 0⟩, ⟨0x0452, 10, 8, 24, 131072, 0⟩, ⟨0x0453, 10, 8, 0, 8, 49160⟩,
   ⟨0x0454, 10, 8, 0, 8, 0⟩, ⟨0x0455, 10, 0, 0, 0, 32⟩, ⟨0x0460, 11, 24, 0, 24, 0⟩, ⟨0x0461, 11, 8, 2, 131072, 0⟩, ⟨0x0462, 11, 8, 0, 8, 0⟩,
   ⟨0x0463, 11, 8, 0, 8, 0⟩, ⟨0x0464, 11, 4, 0, 4, 48⟩, ⟨0x0465, 11, 8, 1, 131072, 4⟩, ⟨0x0466, 11, 8, 0, 8, 8⟩, ⟨0x0468, 11, 16, 0, 16, 0⟩,
   ⟨0x0469, 11, 8, 0, 8, 4⟩, ⟨0x046A, 11, 4, 0, 4, 6152⟩, ⟨0x0470, 12, 24, 0, 24, 0⟩, ⟨0x0471, 12, 4, 0, 4, 0⟩, ⟨0x0473, 12, 584, 0, 584, 0⟩,
   ⟨0x0474, 12, 4, 0, 4, 32⟩, ⟨0x0475, 12, 4, 0, 4, 200⟩]

def codesD : List CodeDesc :=
  [⟨0x0480, 13, 8, 64, 131072, 0⟩, ⟨0x0481, 13, 8, 8, 131072, 0⟩, ⟨0x0482, 13, 144, 0, 144, 0⟩, ⟨0x0483, 13, 16, 0, 16, 0⟩,
   ⟨0x0484, 13, 8, 1, 131072, 0⟩, ⟨0x0485, 13, 16, 1, 131072, 0⟩, ⟨0x0490, 14, 32, 0, 32, 0⟩, ⟨0x0491, 14, 8, 24, 131072, 0⟩,
   ⟨0x0492, 14, 4, 0, 4, 32⟩, ⟨0x0493, 14, 4, 0, 4, 9224⟩, ⟨0x0494, 14, 16, 1, 131072, 0⟩, ⟨0x0495, 14, 12, 0, 12, 0⟩, ⟨0x0496, 14, 8, 0, 8, 0⟩,
   ⟨0x04A0, 15, 40, 0, 40, 0⟩, ⟨0x04A1, 15, 4, 0, 4, 0⟩, ⟨0x04A2, 15, 0, 0, 0, 96⟩, ⟨0x0500, 16, 8, 0, 8, 0⟩, ⟨0x0501, 16, 56, 0, 56, 0⟩,
   ⟨0x0502, 16, 4, 0, 4, 0⟩, ⟨0x0503, 16, 4, 0, 4, 0⟩, ⟨0x0504, 16, 8, 0, 8, 0⟩, ⟨0x0505, 16, 8, 0, 8, 0⟩, ⟨0x0506, 16, 0, 0, 0, 40⟩,
   ⟨0x0507, 16, 0, 0, 0, 148⟩, ⟨0x0508, 16, 4, 0, 4, 0⟩]

def codesE : List CodeDesc :=
  [⟨0x0520, 17, 8, 0, 8, 0⟩, ⟨0x0521, 17, 0, 0, 0, 0⟩, ⟨0x0522, 17, 0, 0, 0, 48⟩, ⟨0x0523, 17, 4, 0, 4, 520⟩, ⟨0x0600, 18, 0, 0, 0, 40⟩,
   ⟨0x0601, 18, 8, 1, 131072, 0⟩, ⟨0x0602, 18, 4, 0, 4, 0⟩, ⟨0x0603, 18, 32, 0, 32, 0⟩, ⟨0x0604, 18, 4, 0, 4, 0⟩, ⟨0x0606, 18, 4, 0, 4, 0⟩,
   ⟨0x0607, 18, 4, 0, 4, 0⟩, ⟨0x0610, 18, 4104, 0, 4104, 0⟩, ⟨0x0611, 18, 8, 1, 131072, 0⟩, ⟨0x0612, 18, 4, 0, 4, 0⟩, ⟨0x0613, 18, 4, 0, 4, 0⟩,
   ⟨0x0614, 18, 4, 0, 4, 0⟩, ⟨0x0615, 18, 4, 0, 4, 64⟩, ⟨0x0680, 19, 0, 0, 0, 48⟩, ⟨0x0681, 19, 8, 0, 8, 4112⟩, ⟨0x0682, 19, 4, 0, 4, 0⟩,
   ⟨0x0683, 19, 0, 0, 0, 24⟩, ⟨0x0684, 19, 248, 0, 248, 0⟩, ⟨0x0685, 19, 4, 0, 4, 0⟩, ⟨0x0686, 19, 0, 0, 0, 0⟩]

/-- The command of a code; a code of no row is unknown (R575). -/
def codeDesc (code : Nat) : Option CodeDesc :=
  (codesA ++ codesB ++ codesC ++ codesD ++ codesE).find? (fun d => d.code == code)

/-- The length fits the code (step 7 of R574). -/
def lengthFits (d : CodeDesc) (len : Nat) : Bool :=
  decide (d.base ≤ len) && decide (len ≤ d.most) && (if d.step = 0 then decide (len = d.base) else decide ((len - d.base) % d.step = 0))

/-- Largest response to a message of a code: the ring must have room for it before Teller takes the message (R554). -/
def largestResponse (code : Nat) : Nat :=
  match codeDesc code with
  | some d => d.rsp
  | none => 0

end Sys2Proof.Machine
end

