-- ==== Sys2Proof/Machine/NoticeMap.lean ====
section
/-! DEFINITION. The payload layouts of the notices and internal events (R656, R657), from the payload tables of every chapter. -/

namespace Sys2Proof.Machine

/-- Codes the firmware defines, in ascending order (R661). -/
def ledgerCodes : List Nat :=
  [0x0001, 0x0002, 0x0003, 0x0004, 0x0005, 0x0006, 0x0007, 0x0008, 0x0009, 0x000A, 0x8000, 0x8001, 0x8002, 0x8100] ++
  [0x8101, 0x8102, 0x8103, 0x8104, 0x8140, 0x8141, 0x8142, 0x8143, 0x8151, 0x8152, 0x8160, 0x8161, 0x8162, 0x8163] ++
  [0x8170, 0x8180, 0x8181, 0x8190, 0x8191, 0x8210, 0x8211, 0x8212, 0x8213, 0x8220, 0x8231, 0x8232, 0x8233, 0x8240] ++
  [0x8241, 0x8250, 0x8251, 0x8252, 0x8253, 0x8260, 0x8261, 0x8262, 0x8270, 0x8271, 0x8272, 0x8273, 0x8280, 0x8281, 0x8282] ++
  [0x8283, 0x8284, 0x8300, 0x8301, 0x8302, 0x8303, 0x8304, 0x8320, 0x8321, 0x8322, 0x8400, 0x8401, 0x8402, 0x8480] ++
  [0x8481]

/-- Widths of the fields of a payload in bytes, in order; a negative width is so many reserved bytes. -/
def noticeLayout (code : Nat) : List Int :=
  match code with
  | 0x0001 => [4, 4, 2, 1, -1]
  | 0x0002 => [2, -2, 4, -4]
  | 0x0003 => [4, -8]
  | 0x0004 => [4, -8]
  | 0x0005 => [4, -8]
  | 0x0006 => [2, 1, 1, 4, -4]
  | 0x0007 => [1, 1, -2, 4, -4]
  | 0x0008 => [2, -2, 4, -4]
  | 0x0009 => [4, -8]
  | 0x000A => [1, -1, 2, 2, -6]
  | 0x8000 => [1, 1, 1, -1, 4, 8]
  | 0x8001 => [4, 2, -2, 8]
  | 0x8002 => [4, 4, 8, 1, 1, 1, -1, 4]
  | 0x8100 => [1, 1, 1, 1, 4, 8]
  | 0x8101 => [1, -1, 2, -4, 8, 8]
  | 0x8102 => [1, 1, 2, -4, 8, 8]
  | 0x8103 => [1, 1, 1, 1, 4, 8]
  | 0x8104 => [8, 8, 1, -7]
  | 0x8140 => [1, -1, -2, 4, 8]
  | 0x8141 => [4, 1, 1, -2, 8, 8]
  | 0x8142 => [2, 2, -4, 8, 8]
  | 0x8143 => [2, 1, -1, 4, 8]
  | 0x8151 => [1, 1, 2, 4, 8]
  | 0x8152 => [1, 1, 2, 4, 8, 8]
  | 0x8160 => [1, 1, 1, 1, 1, -3, 8]
  | 0x8161 => [1, 1, 1, 1, 4, 8, 8]
  | 0x8162 => [1, 1, -2, 4, 8]
  | 0x8163 => [1, 1, 2, 4, 8]
  | 0x8170 => [4, 4, 4, -4, 8]
  | 0x8180 => [4, 4, 2, -2, -4, 8]
  | 0x8181 => [1, 1, 1, 1, 4, 8, 8]
  | 0x8190 => [4, 1, 1, 1, -1, 4, -4, 8]
  | 0x8191 => [1, 1, 1, -1, 4, 8]
  | 0x8210 => [1, 1, 1, 1, 4, 4, 4, 2, 2, -4, 8]
  | 0x8211 => [1, 1, 2, 4, 8]
  | 0x8212 => [2, 1, -1, 2, -2, 4, 4, 8]
  | 0x8213 => [1, 1, 1, 1, 4, 4, 4, 8]
  | 0x8220 => [1, 1, 2, 4, 8]
  | 0x8231 => [1, 1, 2, 2, -2, 4, 4, 8]
  | 0x8232 => [1, 1, 2, 1, 1, -2, 8]
  | 0x8233 => [1, 1, 1, 1, 2, -2, 8]
  | 0x8240 => [1, 1, 2, 1, 1, 1, -1, 4, 4, 8]
  | 0x8241 => [1, 1, 2, 1, -3, 8]
  | 0x8250 => [1, 1, 1, 1, -4, 8]
  | 0x8251 => [1, 1, 1, -1, 4, 8]
  | 0x8252 => [1, 1, 1, -1, 4, 8]
  | 0x8253 => [1, -3, 4, 8]
  | 0x8260 => [2, 1, 1, 4, 8]
  | 0x8261 => [1, 1, 2, 2, -2, 8]
  | 0x8262 => [1, 1, 2, 4, 8]
  | 0x8270 => [2, 1, 1, 1, 1, -2, 8, 8]
  | 0x8271 => [1, 1, 1, -1, 4, 8]
  | 0x8272 => [2, -2, 4, 4, 4, 8]
  | 0x8273 => [1, -7, 8, 8]
  | 0x8280 => [1, 1, 1, -1, 4, 4, -4, 8]
  | 0x8281 => [1, 1, 2, 4, 8]
  | 0x8282 => [4, 1, 1, -2, 4, 4, 4, -4, 8]
  | 0x8283 => [1, 1, 2, -4, 8]
  | 0x8284 => [1, -1, -2, 4, 8]
  | 0x8300 => [1, 1, 1, -1, -4, 8]
  | 0x8301 => [1, 1, 1, 1, 4, 8]
  | 0x8302 => [1, 1, 2, 4, 4, -4, 8]
  | 0x8303 => [1, 1, 2, 4, 8]
  | 0x8304 => [1, 1, 2, -4, 8]
  | 0x8320 => [2, 2, 2, 1, 1, 4, -4, 8]
  | 0x8321 => [1, 1, 2, 4, 4, -4, 8]
  | 0x8322 => [1, 1, -2, 4, 8]
  | 0x8400 => [1, 1, 1, -1, -4, 8]
  | 0x8401 => [1, 1, 2, 4, 4, -4, 8]
  | 0x8402 => [1, 1, 1, -1, 4, 8]
  | 0x8480 => [2, 1, -1, 4, 4, -4, 8]
  | 0x8481 => [1, -3, 4, 8]
  | _ => []

/-- The detail of a commit's rejection, by block (R572). -/
def detailLayout (block : Nat) : List Int :=
  match block with
  | 0 => [1, -15]
  | 1 | 7 => [1, 1, -2, 4, 4, -4]
  | 2 => [1, 1, 1, -1, 4, 4, -4]
  | 3 => [1, -3, 4, 4, -4]
  | _ => [1, -3, 4, 4, 4]

/-- Notices whose payload table does not end in an ST64 field. -/
def noticeUntimed : List Nat := [0x8002, 0x8104, 0x8142, 0x8261]

end Sys2Proof.Machine
end

