-- ==== Sys2Proof/Machine/State.lean ====
section
/-! DEFINITION. The state of the part as plain data, the reasons a step can stop, and the state after reset. -/

namespace Sys2Proof.Machine

/-- A show's configuration as the messages of R568 set it: the last message for each object. -/
structure Cfg where
  /-- INPUT_SET by source. -/
  inputs : SMap InputSet
  /-- INPUT_STREAM_SET by stream. -/
  streams : SMap InputStreamSet
  /-- GENERATOR_SET by generator. -/
  generators : SMap GeneratorSet
  /-- LAYER_BIND by layer. -/
  binds : SMap LayerBind
  /-- LAYER_SET by layer. -/
  layers : SMap LayerSet
  /-- CANVAS_SET; the values of CMP's reset before any. -/
  canvas : CanvasSet
  /-- MONITOR_SET. -/
  monitor : Option MonitorSet
  /-- FIXTURE_SET by fixture. -/
  fixtures : SMap FixtureEntry
  /-- ZONE_SET by zone. -/
  zones : SMap ZoneSet
  /-- ATTR_SET by descriptor. -/
  attrs : SMap AttrDesc
  /-- EFFECT_SET by slot. -/
  effects : SMap EffectRec
  /-- CURVE_SET by curve; curve 0 linear at boot (R351). -/
  curves : SMap CurveSet
  /-- CLASS_SET by class. -/
  classes : SMap ClassSet
  /-- CAL_RECORD_SET by record. -/
  records : SMap CalRecord
  /-- LANE_SET by lane. -/
  lanes : SMap LaneSet
  /-- LANE_CHAIN_SET by lane. -/
  chains : SMap LaneChainSet
  /-- LANE_GLOBAL_SET; the reset values of LNE before any (R404). -/
  laneGlobal : LaneGlobalSet
  /-- STR_LANE_SET by lane. -/
  strLanes : SMap StrLaneSet
  /-- FLOW_SET by flow. -/
  flows : SMap FlowCtx
  /-- RX_UNIVERSE_SET by entry. -/
  rxEntries : SMap RxEntry
  /-- DMX_PORT_SET by port. -/
  dmx : SMap DmxPortSet
  /-- A cadence that a diagnostic write set, by DMX port (R61, R480, R491). -/
  dmxQ : SMap Nat
  /-- RADIO_SET by transceiver. -/
  radios : SMap RadioSet
  /-- RADIO_NODE_SET by node. -/
  nodes : SMap RadioNodeRec
deriving DecidableEq, Repr

def Cfg.empty : Cfg :=
  { inputs := [],
    streams := [],
    generators := [],
    binds := [],
    layers := [],
    canvas := ⟨0, 0, 1000, ⟨0, 0, 0, 65535⟩⟩,
    monitor := none,
    fixtures := [],
    zones := [],
    attrs := [],
    effects := [],
    curves := [(0, ⟨0, 0, 2, 0, 0, 0x8000, []⟩)],
    classes := [],
    records := [],
    lanes := [],
    chains := [],
    laneGlobal := ⟨100000, 500⟩,
    strLanes := [],
    flows := [],
    rxEntries := [],
    dmx := [],
    dmxQ := [],
    radios := [],
    nodes := [] }

/-- No command of the block stops it: the spec gives every operation and event an effect or leaves a value open, and an access to
an address without a register is captured, never a stop (R35, R57). -/
inductive Fault where
deriving DecidableEq, Repr

/-- Why a command has no meaning. -/
inductive Refusal where
  /-- The command of this mnemonic has no meaning yet. Raised by its arm of `exec` only. Safe. -/
  | notModelled (mnemonic : String)
deriving DecidableEq, Repr

/-- The internal registers (R16 to R20): one home for every 32-bit register. A register that is not listed holds its reset
value; no listed word equals it. -/
structure Regs where
  /-- The words written, by address; for a RWS register this is the shadow. -/
  cells : SMap Word
  /-- The words in force of the shadowed registers, by address (R20). -/
  inForce : SMap Word
  /-- The words latched by a read of a low word, by address of the word they answer for (R99). -/
  latched : SMap Word
  /-- What the last fabric read that has a row of its own returned. -/
  lastRead : Option (Nat × Word)
deriving DecidableEq, Repr

/-- A status code of R574. -/
inductive Status where
  | ok | pending | rejected | badVersion | unknownCode | malformed | seqGap | seqStale | invalidParameter | notFound
  | resourceExhausted | notReady | unsupportedFeature | wrongMode | busy | noCommit | tooLate | unauthorized | internal
deriving DecidableEq, Repr

/-- A response (R560): the command's seq and code, the status, the duplicate flag, the ack and stamp fields, the payload length in
bytes, and the payload's fields in the order of the spec's payload table, reserved fields left out. -/
structure Resp where
  seq : Word
  code : Nat
  status : Status
  duplicate : Bool
  ack : Word
  stamp : Int
  len : Nat
  fields : List Int
deriving DecidableEq, Repr

/-- A notice (R560): its sequence, code, class, stamp, payload length and payload fields. -/
structure Notice where
  seq : Nat
  code : Nat
  cls : Nat
  stamp : Int
  len : Nat
  fields : List Int
deriving DecidableEq, Repr

/-- What a body of a command answers: status, payload length, payload fields. -/
structure Reply where
  status : Status
  len : Nat
  fields : List Int
deriving DecidableEq, Repr

/-- The states of a time base (R66). -/
inductive TbState where
  | free | acquiring | locked | holdover | discontinuity
deriving DecidableEq, Repr

/-- The master that a PTP instance has selected (R69): its dataset as Announce gives it, the instant of its last Announce and its announce
interval in ns. -/
structure PtpMaster where
  dataset : List Nat
  at_ : Nat
  interval : Nat
deriving DecidableEq, Repr

/-- One of the two PTP measurements of a time base (R94), or, as A, its one source: whether it meets the lock condition of R63, how many
updates in a row met it and since when, whether its reference is lost, since when it has been locked without interruption. -/
structure RefPath where
  locked : Bool
  good : Nat
  goodSince : Nat
  lost : Bool
  lockedAt : Nat
  /-- The instance's own time minus the value of the time base, in ns (R94, log entry 6). -/
  rel : Int
  pathDelay : Nat
  /-- The instant of the last update, the interval in ns after which the next one is missing, and how many in a row were missing at `lastAt` (R63). -/
  lastAt : Nat
  interval : Nat
  missed : Nat
  /-- PTP: the master selected (R69). -/
  master : Option PtpMaster
deriving DecidableEq, Repr

/-- A time base (R62 to R68, R94): its value in ns (seconds × 10⁹ + nanoseconds), the fraction of a ns carried, its frequency correction in
1/256 ppb, its state and step identifier, the active path, and the frequency corrections of the last 64 s of LOCKED. -/
structure TimeBase where
  ns : Int
  rem : Nat
  freq : Int
  state : TbState
  stepId : Nat
  activeB : Bool
  a : RefPath
  b : RefPath
  offset : Int
  /-- Frequency corrections in force while LOCKED, newest first, each with the instant from which it was in force (R67). -/
  history : List (Nat × Int)
  /-- The instant at which LOCKED ended; none in LOCKED (R67). -/
  lockedTill : Option Nat
  /-- The holdover frequency taken before the step that started a DISCONTINUITY (R87), in 1/256 ppb. -/
  stepFreq : Int
  /-- LTC: the label of the last valid frame (R73). -/
  lastLabel : Option LtcLabel
deriving DecidableEq, Repr

def RefPath.reset : RefPath := ⟨false, 0, 0, true, 0, 0, 0, 0, 0, 0, none⟩

def TimeBase.reset : TimeBase :=
  { ns := 0, rem := 0, freq := 0, state := .free, stepId := 0, activeB := false, a := RefPath.reset, b := RefPath.reset,
    offset := 0, history := [], lockedTill := none, stepFreq := 0, lastLabel := none }

/-- An accepted step (R89, R90): the time base, the mode, the step identifier and the instant of acceptance in ST64. -/
structure StepAccept where
  tb : Fin 4
  mode : Nat
  stepId : Nat
  at_ : Int
deriving DecidableEq, Repr

/-- Show time (02_show_time.md). -/
structure Time where
  /-- The reference clock, in ns; it runs from the first power-on and no reset changes it. -/
  now : Nat
  bases : Vector TimeBase 4
  /-- Show time runs (R81), and ST64 while it does (R77). -/
  running : Bool
  st64 : Int
  /-- The fraction carried while ST64 freewheels in DISCONTINUITY (R87). -/
  stRem : Nat
  /-- The value of the selected time base, in ns, at which the next frame boundary falls (R85). -/
  tbEnd : Int
  /-- k of the last frame boundary (TIM_FCOUNT), and whether a boundary has been reached since the start (R81). -/
  fcount : Int
  /-- k of the last boundary at or before the start of show time, which is not reached (R81). -/
  startK : Int
  /-- The show epoch stored at provisioning (R77). -/
  epoch : Int
  /-- EPOCH_ADJ (R77, R82). -/
  epochAdj : Int
  /-- The grid origin in force: TIM_FORIGIN, or the alignment point of R79. -/
  origin : Int
  /-- Steps accepted and waiting for their zone-safe boundary (R90). -/
  accepts : List StepAccept
  /-- The battery domain's high-water mark and whether it survived (R82). -/
  hwm : Int
  hwmValid : Bool
  /-- The RTC, in seconds, with the ns of the reference clock carried (R83, R586). -/
  rtc : Nat
  rtcNs : Nat
  /-- The instant of the last copy of R83. -/
  rtcCopied : Nat
  /-- Mains: the instant of the last rising crossing seen; the last valid crossing, its period in µs, and the ST64 at which it fell (R75). -/
  mainsEdge : Option Nat
  mainsValid : Option (Nat × Nat × Int)
  /-- When the wait of R81 for LOCKED began; none while no start of show time is due. -/
  startDue : Option Nat
  /-- The frame rate, N / D, that the genlock input last found; none so far (R72). -/
  genlockRate : Option (Nat × Nat)
  /-- N and D of the frame grid in force: while show time runs they do not change (R79). -/
  rateN : Nat
  rateD : Nat
deriving DecidableEq, Repr

def Time.reset : Time :=
  { now := 0, bases := Vector.replicate 4 TimeBase.reset, running := false, st64 := 0, stRem := 0, tbEnd := 0, fcount := 0, startK := 0, epoch := 0,
    epochAdj := 0, origin := 0, accepts := [], hwm := 0, hwmValid := false, rtc := 0, rtcNs := 0, rtcCopied := 0, mainsEdge := none,
    mainsValid := none, startDue := none, genlockRate := none,
    rateN := 60, rateD := 1 }

/-- An output that the Almanac arms (R130). -/
inductive Output where
  | lane (l : Nat)
  | show (p : Nat)
  | dmx (p : Nat)
  | radio (x : Nat)
deriving DecidableEq, Repr

/-- An armed output comparator (R110, R130, R132): the exact instant, the zones and frames it carries. -/
structure Armed where
  output : Output
  at_ : Int
  zones : List (Nat × Int)
deriving DecidableEq, Repr

/-- What an entry of the launch list launches (R109): the launch-time Ethernet packets of a port, a DMX break, a radio slot. -/
inductive LaunchKind where
  | packet (port : Nat)
  | dmxBreak (port : Nat)
  | radioSlot (x : Nat)
deriving DecidableEq, Repr

/-- A launch-list entry (R109, R110): the instant, the zones and frames it carries, and the ST64 at which it was inserted (R113). -/
structure LaunchEntry where
  at_ : Int
  kind : LaunchKind
  zones : List (Nat × Int)
  priority : Nat
  order : Nat
  late : Bool
  since : Int
deriving DecidableEq, Repr

/-- A host cue (R114, R143). `due` is none while no instant is known: a raster-line cue, or a mains cue never yet predicted. -/
structure Cue where
  cueId : Nat
  basis : Nat
  action : Nat
  priority : Nat
  when_ : Int
  sub : Nat
  argument : Nat
  due : Option Int
  /-- Mains: the entry has a prediction, and it is frozen (R117). -/
  predicted : Bool
  frozen : Bool
  lineSkipped : Bool
  order : Nat
  late : Bool
  /-- The ST64 at which it reached this device, and whether a takeover replays it (R541). -/
  reached : Int
  replay : Bool
  /-- The ST64 at which it was inserted or its instant was last set (R113), and its slot of the cue list (R139). -/
  since : Int
  slot : Nat
deriving DecidableEq, Repr

/-- A timer entry (R109): frame-boundary work, Escrow end of frame, a Teller timer; marked for Escrow or not (R137). -/
inductive TimerKind where
  | frameWork (k : Int)
  | escrowEnd (k : Int)
  | teller (n : Nat)
deriving DecidableEq, Repr

structure TimerEntry where
  due : Int
  kind : TimerKind
  escrow : Bool
  order : Nat
  late : Bool
  /-- The ST64 at which it was inserted (R113). -/
  since : Int
deriving DecidableEq, Repr

/-- An ordering constraint (R120). Frame numbers are compared in their low 32 bits (R121). -/
inductive Constraint where
  | afterFlow (f : Nat) (k : Int)
  | notBeforeSync (z : Nat) (k : Int)
  | notBefore (t : Int)
deriving DecidableEq, Repr

/-- The work of a descriptor (R118, R123): packets of a flow context, a lane control frame, a DMX frame, a radio cue, an RDM transaction, the
Escrow end-of-frame copy, the action of a cue that fired at an instant, Teller housekeeping. -/
inductive Work where
  | flow (f : Nat)
  | lanePixels (l : Nat)
  | laneControl (l : Nat)
  | dmxFrame (p : Nat)
  | radioCue (cueId : Nat) (slot : Nat)
  | rdm (p : Nat)
  | escrowCopy
  | cueAction (stage : Nat) (cueId : Nat) (slot : Nat) (at_ : Int)
  | housekeeping (n : Nat)
deriving DecidableEq, Repr

/-- A work descriptor (R118 to R122). Targets are numbered as R139 numbers them. -/
structure Descriptor where
  work : Work
  zone : Nat
  frame : Int
  priority : Nat
  target : Nat
  constraints : List Constraint
  deadline : Option Int
  /-- The instant it joined its ready list; none while it waits. -/
  ready : Option Int
  waited : Bool
  order : Nat
deriving DecidableEq, Repr

/-- A trace record (R139). -/
structure TraceRec where
  due : Int
  late : Int
  frame : Nat
  object : Nat
  kind : Nat
  target : Nat
  prio : Nat
  outcome : Nat
  seq : Nat
  wait : Nat
deriving DecidableEq, Repr

/-- A trigger of the trace (R141): the index of its record, its outcome, the records still to take and those to take in all. -/
structure TraceTrigger where
  index : Nat
  outcome : Nat
  left : Nat
  post : Nat
deriving DecidableEq, Repr

/-- A SYNC-list entry: the instant, the frame, and the order of insertion (R109, R133). -/
structure SyncEntry where
  at_ : Int
  k : Int
  order : Nat
deriving DecidableEq, Repr

/-- A release-list entry: the frame, and the order of insertion (R109, R133). -/
structure ReleaseEntry where
  k : Int
  order : Nat
deriving DecidableEq, Repr

/-- The Almanac (03_almanac.md). -/
structure Almanac where
  /-- SYNC list: the next SYNC of each zone and its frame (R109). -/
  sync : SMap SyncEntry
  /-- Release list: the earliest frame of each zone not yet judged (R125). -/
  release : SMap ReleaseEntry
  launch : List LaunchEntry
  cues : List Cue
  timers : List TimerEntry
  /-- L_z (R125). -/
  lastSync : SMap Int
  /-- Runs of skipped frames not yet reported, by zone: count and first frame (R126). -/
  skipRun : SMap (List (Nat × Int))
  armed : List Armed
  descriptors : List Descriptor
  /-- Insertions refused that are tried again (R135). -/
  timerRetry : List TimerEntry
  descriptorRetry : List Descriptor
  /-- Last frame of each flow completed or discarded, and whether it was discarded; last frame of each zone launched (R120, R139). -/
  flowDone : SMap (Int × Bool)
  syncDone : SMap Int
  /-- Zone delays in µs by the frame from which they hold, newest first (R127, R147). -/
  delays : SMap (List (Int × Nat))
  /-- Zone delays that a diagnostic write left in the shadow and no copy has taken yet (R147). -/
  delayShadow : SMap Nat
  /-- Order of insertion (R133). -/
  order : Nat
  /-- Refusals since the last notice, and its instant, by list: launch, cue, timer, pool (R135). -/
  refusals : SMap (Nat × Option Nat)
  /-- The trace ring (R138 to R141). -/
  trace : SMap TraceRec
  traceWr : Nat
  traceWrapped : Bool
  traceFrozen : Bool
  traceSeq : Nat
  traceTrigger : Option TraceTrigger
  /-- The last tick dispatched in this run of show time (R107, R134). -/
  lastTick : Option Int
  /-- The delay pool set by the host, in MiB, 0 to 16,384 (R52). -/
  poolMib : Nat
  /-- Commit lead in µs, 100 to 2,000 (R42). -/
  leadUs : Nat
deriving DecidableEq, Repr

def Almanac.reset : Almanac :=
  { sync := [], release := [], launch := [], cues := [], timers := [], lastSync := [], skipRun := [], armed := [], descriptors := [],
    timerRetry := [], descriptorRetry := [], flowDone := [], syncDone := [], delays := [], delayShadow := [], order := 0, refusals := [], trace := [],
    traceWr := 0, traceWrapped := false, traceFrozen := false, traceSeq := 0, traceTrigger := none, lastTick := none, poolMib := 0, leadUs := 500 }

/-- A word of an intake queue: 64 data bits, the tag of R159 (bit 3 eop, bits 2:0 count), and a parity bit for each byte (R158). -/
structure FifoWord where
  data : BitVec 64
  tag : Nat
  parity : Nat
deriving DecidableEq, Repr

/-- An intake FIFO (R158 to R169): the SRAM, the 10-bit pointers (both copies agree except in the clock of FIFO_POINTER_FAULT), the
writer's private pointer and the word and packet it is writing, the packets published, the last popped word with perr. -/
structure Fifo where
  mem : SMap FifoWord
  wr : Nat
  rd : Nat
  priv : Nat
  cur : BitVec 64
  curBytes : Nat
  pktBytes : Nat
  /-- The packet in progress is discarded up to the next packet start. -/
  discarding : Bool
  packets : Nat
  last : FifoWord
  lastPerr : Bool
  /-- Words of the packet at the head that its consumer has popped. -/
  taken : Nat
  /-- What the last 64-bit read of FIF_Qn_RD_LO returned (R164). -/
  wide : Option (BitVec 64)
  /-- Notices raised to the consumer and not yet answered by a pop of their packet (R163). -/
  raised : Nat
deriving DecidableEq, Repr

def Fifo.reset : Fifo :=
  { mem := [], wr := 0, rd := 0, priv := 0, cur := 0, curBytes := 0, pktBytes := 0, discarding := true, packets := 0, last := ⟨0, 0, 0⟩,
    lastPerr := false, taken := 0, wide := none, raised := 0 }

/-- What a check channel reports of an alive value (R155, R157). -/
inductive AliveVerdict where
  | inOrder | repeat_ | skip
deriving DecidableEq, Repr

/-- Datapath protection (R170 to R177). Keys of the maps are 4 × site + kind. -/
structure Protect where
  /-- The verdict that each check channel gave its owner with its last result; none where the last result carried no judged value (R157). -/
  verdicts : SMap AliveVerdict
  /-- The last frame with an error and how many frames in a row had one (R176). -/
  runs : SMap (Int × Nat)
  /-- Errors since the last notice and its instant (R177). -/
  since : SMap (Nat × Option Nat)
  /-- Sites handed to the fault handling of their block, waiting for it (R176): site, kind, object (MAP: the engine). -/
  handoffs : List (Nat × Nat × Nat)
  /-- Fixture entries hit by a double-bit error and not yet rewritten (R174). -/
  badEntries : List Nat
  /-- Canvas tiles, and segments as fixture, first element and count, whose content repeats in the frame in progress because of an error (R172). -/
  badTiles : List Nat
  badSegments : List (Nat × Nat × Nat)
  /-- Packets and lane frames that are not sent: site, object (a DMX port as 65,536 + port) and packet of the flow's frame (R172). -/
  badOutputs : List (Nat × Nat × Nat)
deriving DecidableEq, Repr

def Protect.reset : Protect := ⟨[], [], [], [], [], [], [], []⟩

/-- The states of a source (R205). -/
inductive SourceState where
  | off | searching | running | lost | format
deriving DecidableEq, Repr

/-- A published frame (R195, R197): sequence number, completion instant, content, raster, tags (transfer 0 SDR, 1 PQ, 2 HLG), buffer. -/
structure StoredFrame where
  seq : Nat
  done : Int
  picture : Picture
  width : Nat
  height : Nat
  transfer : Nat
  bt2020 : Bool
  buffer : Nat
deriving DecidableEq, Repr

/-- The packets of a stream frame in progress and the recent arrivals by path (R190, R191). -/
structure StreamMerge where
  /-- Sequence numbers of the frame in progress, and of later frames, received on at least one path. -/
  got : List Word
  /-- Recent arrivals on path A and path B with their instants. -/
  seenA : List (Word × Nat)
  seenB : List (Word × Nat)
  /-- First sequence number of the frame in progress; the marker packets from it on, with their first arrivals. -/
  first : Option Word
  marks : List (Word × Nat)
  /-- Marker packets of later frames that were complete, and were published, before the frame in progress. -/
  taken : List Word
  lastPacket : Nat
  /-- Path differentials in µs that no later one reaches, oldest first, each with its instant (R190, R210). -/
  skews : List (Nat × Nat)
deriving DecidableEq, Repr

/-- A source (R181 to R207). -/
structure Source where
  state : SourceState
  /-- Complete frames in a row since SEARCHING (R206). -/
  good : Nat
  newest : Option StoredFrame
  pinned : Option StoredFrame
  /-- Sequence number of the next frame. -/
  next : Nat
  /-- Received raster, measured and nominal frame period in ns, detected rate N / D. -/
  width : Nat
  height : Nat
  period : Nat
  rateNum : Nat
  rateDen : Nat
  interlaced : Bool
  /-- The instant the last frame completed, or the source was enabled, on the reference clock; the last completion in ST64. -/
  lastDone : Nat
  lastC : Option Int
  /-- A line of the frame in progress failed its CRC (R186). -/
  crcBad : Bool
  merge : StreamMerge
  /-- The buffer that the writer chose as the frame in progress started (R196). -/
  writing : Option Nat
  /-- A GENERATOR_SET has come whose pattern is still to be written (R193). -/
  rewrite : Bool
  /-- Counts since the source was last enabled (R208). -/
  published : Nat
  discarded : Nat
  missA : Nat
  missB : Nat
  lostBoth : Nat
  /-- Boundaries in a row at which the source was ready (R202). -/
  readyRun : Nat
  /-- Slips since the last notice and its instant (R207), and the boundary at which a slip was last counted. -/
  slips : Nat
  slipKind : Nat
  slipAt : Option Nat
  slipFrame : Int
deriving DecidableEq, Repr

/-- A layer (R199 to R203). -/
structure Layer where
  /-- The source it is bound to, and the source's next sequence number at the bind. -/
  bound : Nat
  bindSeq : Nat
  shown : Option StoredFrame
  held : Bool
  /-- The choice at the last boundary: 0 fresh, 1 cadence repeat, 2 not ready, 3 no source. -/
  choice : Nat
  notReady : Nat
  /-- The ST64 instants at which LAYER_RELEASE reached Teller for a boundary that is still to come (R202). -/
  release : List Int
deriving DecidableEq, Repr

def StreamMerge.empty : StreamMerge := ⟨[], [], [], none, [], [], 0, []⟩

def Source.reset : Source :=
  { state := .off, good := 0, newest := none, pinned := none, next := 0, width := 0, height := 0, period := 0, rateNum := 0, rateDen := 0,
    interlaced := false, lastDone := 0, lastC := none, crcBad := false, merge := StreamMerge.empty, writing := none, rewrite := false, published := 0, discarded := 0,
    missA := 0, missB := 0, lostBoth := 0, readyRun := 0, slips := 0, slipKind := 0, slipAt := none, slipFrame := -1 }

def Layer.reset : Layer := ⟨0xFF, 0, none, false, 3, 0, []⟩

/-- The inputs (05_inputs_and_layers.md). -/
structure Inputs where
  sources : Vector Source 28
  layers : Vector Layer 16
  /-- Bytes written to layer stores since the last boundary (VIN_WR_RATE). -/
  written : Nat
  /-- Multicast groups joined: media port, group, source address (R189). -/
  joined : List (Nat × Nat × Nat)
deriving DecidableEq, Repr

def Inputs.reset : Inputs := ⟨Vector.replicate 28 Source.reset, Vector.replicate 16 Layer.reset, 0, []⟩

/-- A pipe as a canvas is composed (R217): the geometry of the whole layer, the destination columns the pipe draws (all of them, or a strip's),
key, blend, tone map and the frame VIN latched for the layer. -/
structure PipeSnap where
  layer : Nat
  cropX : Nat
  cropY : Nat
  cropW : Nat
  cropH : Nat
  rotation : Nat
  mirror : Bool
  filter : Nat
  dstX : Int
  dstY : Int
  dstW : Nat
  dstH : Nat
  fromCol : Nat
  toCol : Nat
  keyMode : Nat
  keyInvert : Bool
  keyT : Nat
  keyS : Nat
  keyKb : Int
  keyKr : Int
  opacity : Nat
  blend : Nat
  bypass : Bool
  knee : Nat
  white : Nat
  peak : Nat
  frame : Option StoredFrame
deriving DecidableEq, Repr

/-- What fixes the pixels that a composition gives (R216 to R229): the background and the pipes. Without pipes it is the background alone. -/
structure Look where
  background : Rgba
  pipes : List PipeSnap
deriving DecidableEq, Repr

/-- A composed canvas: its own pixels, and those of the tiles copied from an earlier canvas or filled with the background (R238). -/
structure Canvas where
  k : Int
  width : Nat
  height : Nat
  look : Look
  /-- By tile number row × tiles per row + column. -/
  repairs : SMap Look
deriving DecidableEq, Repr

/-- The compositor (06_compositor.md). -/
structure Cmp where
  /-- The armed copy: its tag and the boundary it is armed for (R232). -/
  armed : Option (Int × Int)
  activeTag : Word
  /-- The tone-map tables by pipe: knee, sdr_white, peak; those in force, and those that the next copy brings (R228, R242). -/
  tables : SMap (Nat × Nat × Nat)
  nextTables : SMap (Nat × Nat × Nat)
  /-- Canvases by the order in which they were composed; how many were. -/
  canvases : SMap Canvas
  count : Nat
  /-- Lines of the newest canvas that are done, and whether it is complete. -/
  lines : Nat
  complete : Bool
  /-- The newest canvas is late: the boundary at which it was found late and the lines complete then (R237). -/
  late : Option (Int × Nat)
  /-- The last complete canvas: k, time taken in ns, pixels fetched in all and by pipe. -/
  lastK : Int
  lastTime : Nat
  lastFetch : Nat
  pipeFetch : SMap Nat
deriving DecidableEq, Repr

def Cmp.reset : Cmp :=
  { armed := none, activeTag := 0, tables := [], nextTables := [], canvases := [], count := 0, lines := 0, complete := true, late := none, lastK := 0, lastTime := 0,
    lastFetch := 0, pipeFetch := [] }

/-- A monitor frame in the monitor store (R255, R256): the canvas it is built from and that canvas's k, its buffer, canvas lines taken from the
stream, lines refused and not yet read back, and the number of canvas lines it needs. -/
structure MonFrame where
  canvas : Nat
  /-- The canvas as it is streamed, before any repair; by line read back, the repairs that its buffer then holds (R238, R239, R256). -/
  body : Canvas
  backs : SMap (SMap Look)
  k : Int
  buffer : Nat
  lines : Nat
  refused : List Nat
  need : Nat
  /-- P in force as the frame's canvas is composed, in cd/m² (R254, R255). -/
  peak : Nat
deriving DecidableEq, Repr

/-- The raster generator (07_raster_and_monitor.md). -/
structure Ras where
  /-- The armed copy: tag and the boundary F(k) from which the next raster frame start takes it (R261). -/
  armed : Option (Int × Int)
  activeTag : Word
  /-- The raster runs (R244); no raster frame has started since show time did (R248). -/
  running : Bool
  fresh : Bool
  r : Int
  /-- Grid index of the next frame on the grid, the show frame on which the current frame started, its start and the next start (R247). -/
  nextJ : Int
  gridK : Int
  start : Int
  next : Int
  /-- Lines of the transition frame in progress (R263). -/
  transition : Option Nat
  /-- Active line that last began, none in vertical blanking; the last active sample was sent; by active line, the first sample sent black in the
  frame in progress (R259). -/
  line : Option Nat
  done : Bool
  blacked : SMap Nat
  /-- The monitor frame being scanned, those in the store and not yet shown, and the k of the canvas shown. -/
  scan : Option MonFrame
  frames : List MonFrame
  shownK : Int
  /-- RAS_LTR (R260). -/
  ltr : Nat
  /-- Underrun lines since the last notice, r and active line of the first, the instant of the last notice (R259), the line last counted. -/
  under : Nat
  underR : Int
  underLine : Nat
  underAt : Option Nat
  underLast : Option Nat
  /-- The line last blacked by a parity error in the frame in progress (R259). -/
  perrLast : Option Nat
  /-- By how many ns show time fell behind its time base since the last raster frame start, by how many the raster ran ahead of the grid at that
  start, and the lines added to the frame in progress (R249). -/
  slew : Int
  error : Int
  extra : Int
  /-- The slew of a show frame whose raster frame is still to start (R249). -/
  slewNext : Int
  /-- Counts since the last enable (R266). -/
  underruns : Nat
  repeats : Nat
  readbacks : Nat
  slips : Nat
deriving DecidableEq, Repr

def Ras.reset : Ras :=
  { armed := none, activeTag := 0, running := false, fresh := true, r := 0, nextJ := 0, gridK := 0, start := 0, next := 0, transition := none,
    line := none, done := false, blacked := [], scan := none, frames := [], shownK := 0, ltr := 0xFFFFFFFF, under := 0, underR := 0, underLine := 0,
    underAt := none, underLast := none, perrLast := none, slew := 0, error := 0, extra := 0, slewNext := 0, underruns := 0, repeats := 0, readbacks := 0, slips := 0 }

/-- The fixture map (08_fixture_map.md). -/
structure Fxm where
  /-- Armed copies: tag and the boundary F(k + 1) at which the copy is made (R304), oldest first. -/
  armed : List (Int × Int)
  activeTag : Word
  /-- E (R288). -/
  epoch : Nat
  /-- Host values by descriptor, newest first: the ST64 instant each reached Teller (none before show time) and the value, or none for a
  release (R302, R303). -/
  host : SMap (List (Option Int × Option Nat))
  /-- Fixtures held stale, and the stale units each is held for, numbered as in `reported` (R291). -/
  stale : SMap (List Nat)
  /-- Units that have reported since show start, where every unit is stale at its first report (R290): route class × 65,536 × 64 + port × 65,536 +
  unit; none while R290 does not ask for it. -/
  reported : Option (List Nat)
  /-- Zones to be shed for lack of mappers, in the order of shedding (R274). -/
  mapShed : List Nat
  /-- Zones shed in force and the cause: 0 mapper loss, 1 thermal or power limit. -/
  shed : SMap Nat
  /-- Zones shed dark whose frame of zeros is still to be sent (R274). -/
  darkDue : List Nat
  /-- The segment cache: entries of the DRAM segment table, as fixture and number of the segment, at most 65,536 (R268). -/
  cache : List (Nat × Nat)
deriving DecidableEq, Repr

def Fxm.reset : Fxm := ⟨[], 0, 0, [], [], none, [], [], [], []⟩

/-- Frame k of a zone in the delay pool (R41): the configuration it was mapped with, and by fixture its words (surfaces, by route index) or
control values (attributes, by channel). -/
structure PoolFrame where
  zone : Nat
  k : Int
  cfg : Cfg
  values : SMap (SMap Nat)
  /-- By fixture, the elements that repeat the value of the frame before (R315). -/
  again : SMap (SMap Unit)
deriving DecidableEq, Repr

/-- Late frames of a zone since its last ZONE_LATE (R316): their number, the first, its pixels, its stage, the last one, and the last notice. -/
structure LateRun where
  count : Nat
  first : Int
  pixels : Nat
  stage : Nat
  last : Option Int
  at_ : Option Nat
deriving DecidableEq, Repr

/-- The delay pool. -/
structure Pool where
  frames : List PoolFrame
  late : SMap LateRun
  /-- Zones and frames whose window is open and whose data is not yet in the pool (R125). -/
  released : List (Nat × Int)
  /-- Zones and frames that are not sent: shed, disabled, or without a free slot (R147, R274). -/
  unsent : List (Nat × Int)
  /-- Outputs whose launch of a zone's frame a full launch list refused (R135). -/
  refused : List (LaunchKind × Nat × Int)
  /-- The configuration with which each frame is mapped, while the frame can still be sent (R40). -/
  cfgs : List (Int × Cfg)
deriving DecidableEq, Repr

def Pool.reset : Pool := ⟨[], [], [], [], [], []⟩

/-- The roles of R305. -/
inductive Role where
  | off | active | spare | failed | testing | idle
deriving DecidableEq, Repr

/-- A piece of a tile (R310): a fixture, its first route index and how many pixels. -/
structure TilePart where
  fixture : Nat
  first : Nat
  count : Nat
deriving DecidableEq, Repr

/-- A tile (R310): its zone, pieces, pixels, and counted clocks in 1/16 clock. -/
structure Tile where
  zone : Nat
  parts : List TilePart
  pixels : Nat
  cost : Nat
deriving DecidableEq, Repr

/-- How a tile of the frame ended (R314, R318, R319, R326); a standby skips those it does not check (R523). -/
inductive TileEnd where
  | done | lost | late | trapped | skipped
deriving DecidableEq, Repr

structure TileRec where
  engine : Nat
  crc : Word
  how : TileEnd
deriving DecidableEq, Repr

/-- The tile an engine holds (R312, R313): when it claimed it, the ns it waited for canvas lines, whether it
waits for them, whether it samples. -/
structure HeldTile where
  tile : Nat
  claimedAt : Nat
  waited : Nat
  waiting : Bool
  sampling : Bool
deriving DecidableEq, Repr

structure Engine where
  role : Role
  /-- Cause of the last failure (R325); 15 none. -/
  cause : Nat
  /-- Mapping starts until the test ends (R330), and frames in a row whose test tile mismatched (R325, R329). -/
  testLeft : Nat
  testBad : Nat
  /-- The first frame it maps in its role (R327, R330). -/
  fromK : Int
  held : Option HeldTile
  /-- Engine clocks spent in the frame and in the last one, in 1/16 clock. -/
  clocks : Nat
  lastClocks : Nat
deriving DecidableEq, Repr

/-- A loaded kernel or effect program (R319 to R322): traps in a row by frame, disabled, traps since the last notice and its instant. -/
structure Kernel where
  image : KernelLoad
  trapK : Option Int
  trapRun : Nat
  disabled : Bool
  since : Nat
  noticeAt : Option Nat
deriving DecidableEq, Repr

/-- The frame being mapped or last mapped (R312): configuration, canvas by its number, table, claims, ended tiles, values by fixture. -/
structure MapFrame where
  k : Int
  startAt : Int
  deadline : Int
  cfg : Cfg
  canvas : Option Nat
  tiles : List Tile
  claims : Nat
  /-- Zones this device drives (R523). -/
  driven : List Nat
  ended : SMap TileRec
  values : SMap (SMap Nat)
  /-- Values of the frame before, which a repeated element carries, and the elements that repeat, by fixture (R315). -/
  prev : SMap (SMap Nat)
  again : SMap (SMap Unit)
  /-- Intake values and priority by receive universe (R302). -/
  intake : SMap (List Nat × Nat)
  open_ : Bool
  /-- Tiles lost and late, and the ST64 at which the last tile ended. -/
  lost : Nat
  late : Nat
  lastDone : Int
deriving DecidableEq, Repr

/-- The mapper cluster (09_mapper_engines.md). -/
structure Mapper where
  engines : Vector Engine 16
  kernels : SMap Kernel
  /-- Cluster B is released; a release waits for the next copy (R308). -/
  released : Bool
  releaseAsked : Bool
  frame : Option MapFrame
  lastK : Int
  lastTime : Nat
  lastLost : Nat
  lastLate : Nat
  lastEnded : SMap TileRec
  /-- LTP: by fixture, descriptor and source (`ltpKey`), its value in the last frame (none inactive; none known after a takeover) and the frame of its last change
  (R301, R538). -/
  ltp : SMap (Option (Option Nat) × Int)
  /-- State of user effects by slot, at most 64 B, as the frame being mapped leaves it (R324). -/
  effectState : SMap (List (BitVec 8))
  /-- The same as the frame before left it, which the frame being mapped reads. -/
  effectPast : SMap (List (BitVec 8))
  /-- The engines of a cluster get their roles as at boot when it next is on (R306, R697). -/
  freshA : Bool
  freshB : Bool
  /-- Show time has run since reset (R697). -/
  ran : Bool
  /-- The reference of the self-test: the CRC of the test tile on the reference patch, as its difference from the right one (R329). -/
  reference : Option Nat
deriving DecidableEq, Repr

def Mapper.reset : Mapper :=
  { engines := Vector.replicate 16 ⟨.off, 15, 0, 0, 0, none, 0, 0⟩, kernels := [], released := false, releaseAsked := false, frame := none,
    lastK := 0, lastTime := 0, lastLost := 0, lastLate := 0, lastEnded := [], ltp := [], effectState := [], effectPast := [], freshA := true, freshB := true,
    ran := false, reference := none }

/-- The photometric stage (10_photometric_pipeline.md). Chips are numbered lane × 1,024 + chip. -/
structure Pho where
  /-- The last temperature report of each chip: its instant on the reference clock and s12.4 °C (R344). -/
  reports : SMap (Nat × Int)
  /-- The report of each chip before that one, at an earlier instant (R345). -/
  reportsOld : SMap (Nat × Int)
  /-- Chips whose report is stale (R346). -/
  stale : List Nat
  /-- Zone temperatures by zone, newest first: the ST64 instant each reached Teller (none before show time) and PHO_ZTEMPz (R345). -/
  zoneTemps : SMap (List (Option Int × Word))
  /-- The snapshot in force (R345): the frame, its instant, the reports and the zone temperatures. -/
  snapK : Int
  snapAt : Nat
  snapReports : SMap (Nat × Int)
  snapZones : SMap Word
  /-- The calibration region: records written (R338, R339). -/
  records : SMap CalRecord
  /-- ST64 until which records are being written; tag of the last commit whose records are (R360, R361). -/
  writingTo : Int
  writtenTag : Option Int
  /-- Banks in force: one bit per curve, and the class table (R359). -/
  curveBank : Nat
  classBank : Bool
  /-- The frame being or last corrected, and so far in it: pixels at zone temperature or t_ref, channels clipped (R363, R364). -/
  k : Int
  noReport : Nat
  clipped : Nat
  /-- The same of the last frame whose correction has ended (R363). -/
  lastK : Int
  lastNoReport : Nat
  lastClipped : Nat
deriving DecidableEq, Repr

def Pho.reset : Pho :=
  { reports := [], reportsOld := [], stale := [], zoneTemps := [], snapK := 0, snapAt := 0, snapReports := [], snapZones := [], records := [], writingTo := 0,
    writtenTag := none, curveBank := 0, classBank := false, k := 0, noReport := 0, clipped := 0, lastK := 0, lastNoReport := 0, lastClipped := 0 }

/-- The states of a lane (R398). -/
inductive LaneState where
  | off | training | enumerating | ranging | up | folded | fault
deriving DecidableEq, Repr

/-- The opcodes of R395. -/
inductive CtrlOp where
  | write (addr : Nat) (data : List (BitVec 8))
  | read (addr : Nat)
  | commit (epoch : Nat)
  | latch (units : Nat)
deriving DecidableEq, Repr

/-- Who caused a control frame: provisioning, a ranging, a host write or read, STR_LAMP_SET (with the entries it makes or clears), the
FAULT_SUM poll, the FAULT_MAP read number n after the FAULT_SUM `sum`. -/
inductive CtrlFor where
  | provision
  | ranging
  | hostWrite (owed : Option Call)
  | hostRead (owed : Option Call)
  | lampWrite
  | lampCommit (owed : Option Call) (p : StrLampSet)
  | poll
  | mapRead (n : Nat) (sum : Word)
deriving DecidableEq, Repr

/-- A control frame (R377, R391): waiting or outstanding; transmissions so far, the last one, not to be sent before an instant of ST64. -/
structure Ctrl where
  chip : Nat
  op : CtrlOp
  cause : CtrlFor
  seq : Nat
  alive : Nat
  sent : Nat
  sentAt : Nat
  lastStatus : Nat
  notBefore : Option Int
  /-- The tag of the commit whose change it brings to the chip (R401), and the CRC of the frame sent (R377). -/
  fromK : Option Int
  crc : Word
deriving DecidableEq, Repr

/-- What the lane controller knows of a chip: delays in force (R384 to R387), the control sequence number (R391), the last epoch reported, and
whether the chip is stale (R291, R401); the last FAULT_SUM read (R420); whether a COMMIT of it got no acknowledgement, and the tag of the change that
was in it (R401). -/
structure ChipLink where
  d : Option Int
  units : Nat
  acked : Bool
  unstable : Bool
  seq : Nat
  epoch : Option Nat
  stale : Bool
  sum : Option Word
  owed : Bool
  lostK : Option Int
deriving DecidableEq, Repr

/-- A ranging in progress (R384): chips still to range, measurements of the current passes in ps, extra repetitions, results so far, and whether it
runs in the background (R387). -/
structure RangeRun where
  whole : Bool
  todo : List Nat
  got : List Nat
  repeats : Nat
  done : List (Nat × Int × Bool)
  background : Bool
deriving DecidableEq, Repr

/-- Pixel data of a zone's frame handed to the lane (R383): frames still to send as first pixel and count, and the number taken for late. -/
structure PixelJob where
  zone : Nat
  k : Int
  frames : List (Nat × Nat)
deriving DecidableEq, Repr

/-- A pixel frame as sent (R373). -/
structure PixelFrame where
  zone : Nat
  tag : Nat
  first : Nat
  words : List Nat
  crc : Word
deriving DecidableEq, Repr

structure Lane where
  state : LaneState
  seen : Nat
  /-- Chips from this index on have been beyond a break since they were last ranged (R399). -/
  lowest : Nat
  /-- An enumeration runs, and the last count it returned (R398, R399). -/
  enumerating : Bool
  enumLast : Option Nat
  range : Option RangeRun
  /-- The range frame sent and not yet returned, and the rseq of the last one (R379, R384). -/
  rangeOut : Option RangeFrame
  rseq : Nat
  /-- A collect frame and an enumeration that wait until no pixel frame can go (R383). -/
  collectDue : Bool
  enumDue : Bool
  /-- The lane has been ranged; the ST64 of its last whole-chain ranging (R386). -/
  ranged : Bool
  rangedAt : Int
  chips : SMap ChipLink
  queue : List Ctrl
  outstanding : Option Ctrl
  alive : Nat
  /-- First chip of the next collect frame, the collect frame sent and not yet returned, its cseq (R397); next chip of background ranging. -/
  collectNext : Nat
  collectOut : Option (Nat × Nat)
  cseq : Nat
  background : Nat
  jobs : List PixelJob
  lastFrame : Option PixelFrame
  /-- Seq of the next SYNC set; of the last launch P, the zones of its set and its frac (R375, R389); the instant of the reference clock until which
  it holds SYNC_MON high (R682). -/
  syncSeq : Nat
  lastSync : Int
  lastZones : List Nat
  lastFrac : Nat
  monTill : Nat
  /-- When the last collect frame was sent and the last periodic enumeration began (R397, R399). -/
  collectAt : Nat
  enumAt : Nat
  /-- The poll pass of R420: next chip, its start, the duration of the last full one in µs; bytes of the map being read. -/
  pollNext : Nat
  pollStart : Nat
  pollUs : Nat
  map : List (BitVec 8)
deriving DecidableEq, Repr

def ChipLink.reset : ChipLink := ⟨none, 0, false, false, 0, none, false, none, false, none⟩

def Lane.reset : Lane :=
  { state := .off, seen := 0, lowest := 0, enumerating := false, enumLast := none, range := none, rangeOut := none, rseq := 0,
    collectDue := false, enumDue := false, ranged := false, rangedAt := 0, chips := [],
    queue := [], outstanding := none, alive := 0, collectNext := 0, collectOut := none, cseq := 0, background := 0, jobs := [],
    lastFrame := none, syncSeq := 0, lastSync := 0, lastZones := [], lastFrac := 0, monTill := 0, collectAt := 0, enumAt := 0, pollNext := 0, pollStart := 0, pollUs := 0, map := [] }

/-- An entry of the failed-lamp table (R421, R425): kinds 0 open, 1 short, 2 host bypass. -/
structure LampEntry where
  lane : Nat
  chip : Nat
  lamp : Nat
  string_ : Nat
  kind : Nat
  fixture : Nat
  index : Nat
  at_ : Int
deriving DecidableEq, Repr

/-- What a transmitted frame carries (R472, R476, R477, R471, R486, R541). -/
inductive TxContent where
  | e131 (flow univ seq sync prio : Nat) (terminated : Bool) (slots : List Nat)
  | e131Sync (id seq : Nat)
  | discovery (page : Nat) (universes : List Nat)
  | uoe (flow stream zone flags offset index count : Nat) (tag s : Int) (data : List Nat)
  | uoeSync (seq : Nat) (tag s : Int) (zones : List Nat)
  | user (flow : Nat) (drawn : Nat)
  | fragment (record : Word) (k : Int) (alive index count : Nat) (data : List (BitVec 8))
  | probe (seq : Word) (reply : Bool) (alive : Nat)
  | igmp (records : List (Nat × Nat × Nat))
  | lease (type group : Nat) (seq leaseSeq : Word) (flags : Nat)
deriving DecidableEq, Repr

/-- What a transmit descriptor carries of a zone's frame (R44). -/
structure TxData where
  zone : Nat
  k : Int
  pixels : Nat
deriving DecidableEq, Repr

/-- The Ethernet, IPv4 and UDP header of a frame (R466). Each port that sends the frame puts its own addresses in as the source. -/
structure NetHead where
  srcMac : Nat
  dstMac : Nat
  srcIp : Nat
  dstIp : Nat
  srcUdp : Nat
  dstUdp : Nat
  ttl : Nat
  dscp : Nat
  vlan : Option Nat
deriving DecidableEq, Repr

/-- A transmit descriptor (R436, R437, R447): frame length with the FCS, queue, deadline, what it carries of a zone's frame, timestamp identifier,
content, header, UDP payload. -/
structure TxFrame where
  len : Nat
  queue : Nat
  deadline : Option Int
  data : Option TxData
  stamp : Option Nat
  content : TxContent
  net : Option NetHead
  payload : List (BitVec 8)
deriving DecidableEq, Repr

/-- An armed launch slot (R438). -/
structure LaunchSlot where
  frame : TxFrame
  at_ : Int
  order : Nat
deriving DecidableEq, Repr

/-- A class's pause, or PAUSE (R443 to R446), in units of 10 ps of the reference clock: end, the instant it took effect; instant in ns until
which pauses are ignored (0 not ignoring), the ms the last pause had lasted at its trip, and whether it was PAUSE that set the time in force. -/
structure Pause where
  stop : Nat
  since : Nat
  ignore : Nat
  lasted : Nat
  whole : Bool
deriving DecidableEq, Repr

/-- An entry of the timestamp queue (R447). -/
structure TsEntry where
  id : Nat
  late : Bool
  notSent : Bool
  ts : Int
deriving DecidableEq, Repr

/-- A receive descriptor (R452 to R454), with what its buffer holds. -/
structure RxDesc where
  addr : Nat
  length : Nat
  flags : Nat
  rule : Nat
  tci : Nat
  ts : Int
  data : List (BitVec 8)
deriving DecidableEq, Repr

/-- A receive ring: hardware's next descriptor, and the descriptors that hardware has written; every other is Teller's first, with own = 1 and length 0
(R452 to R454). -/
structure RxRing where
  hw : Nat
  desc : SMap RxDesc
deriving DecidableEq, Repr

inductive LinkState where
  | down | training | up
deriving DecidableEq, Repr

/-- A port (R428 to R457). -/
structure MacPort where
  link : LinkState
  /-- Since when it is UP (reference clock), and the ST64 of the last change. -/
  upAt : Nat
  changedAt : Int
  fault : Nat
  rate : Nat
  queues : Vector (List TxFrame) 8
  /-- Frames whose producers found their queue full (R437). -/
  waiting : List TxFrame
  slots : List LaunchSlot
  order : Nat
  /-- The line is busy until this instant, in 10 ps (R445). -/
  busyUntil : Nat
  /-- The last frame sent and the ST64 of its first bit after the delimiter. -/
  sent : Option (TxFrame × Int)
  /-- Its bytes on the line, from the destination address on and without the FCS (R466). -/
  line : List (BitVec 8)
  classes : Vector Pause 8
  pause : Pause
  /-- Since when any class is paused and not yet counted in paused_us (R456). -/
  pausedFrom : Option Nat
  tsq : List TsEntry
  /-- An entry that arrived at the full queue, and its instant on the reference clock: a pop in that clock still keeps it (R449). -/
  tsqExtra : Option (TsEntry × Nat)
  tsqLost : Nat
  tsqNotice : Option Nat
  tally : Vector Nat 24
  acc : Vector Nat 24
  rings : Vector RxRing 8
deriving DecidableEq, Repr

def Pause.none_ : Pause := ⟨0, 0, 0, 0, false⟩

def MacPort.reset : MacPort :=
  { link := .down, upAt := 0, changedAt := 0, fault := 0, rate := 0, queues := Vector.replicate 8 [], waiting := [], slots := [], order := 0,
    busyUntil := 0, sent := none, line := [], classes := Vector.replicate 8 Pause.none_, pause := Pause.none_, pausedFrom := none, tsq := [], tsqExtra := none,
    tsqLost := 0, tsqNotice := none, tally := Vector.replicate 24 0, acc := Vector.replicate 24 0, rings := Vector.replicate 8 ⟨0, []⟩ }

/-- A pair (R433, R434): mode, revertive, whether the secondary is active. -/
structure MacPair where
  mode : Nat
  revertive : Bool
  secondary : Bool
deriving DecidableEq, Repr

/-- The show, media and management ports (13_show_ports_mac.md). -/
structure Mac where
  ports : Vector MacPort 11
  pairs : Vector MacPair 4
deriving DecidableEq, Repr

def Mac.reset : Mac := ⟨Vector.replicate 11 MacPort.reset, Vector.replicate 4 ⟨0, false, false⟩⟩

/-- A source of a receive universe entry (R474, R482): CID (E1.31) or port (DMX), priority, last sequence, last instant, slots. -/
structure RxSource where
  dmx : Bool
  cid : Nat
  priority : Nat
  seq : Nat
  at_ : Nat
  slots : List Nat
deriving DecidableEq, Repr

/-- A receive universe entry's sources, and the one it takes its slots from (R474). -/
structure RxUniverse where
  sources : List RxSource
  current : Option (Bool × Nat)
deriving DecidableEq, Repr

/-- A packet engine (R465, R486, R487). -/
structure PktEngine where
  failed : Bool
  userOff : Bool
  /-- The code has overrun or faulted on the packet that the engine builds next (R486). -/
  trapped : Bool
deriving DecidableEq, Repr

/-- Packet engines and flows (14_show_protocols.md). -/
structure Pkt where
  global : PktGlobalSet
  engines : Vector PktEngine 8
  /-- User code loaded. -/
  code : Option PktCodeLoad
  /-- Sequence numbers of E1.31 data by universe, of synchronization by sync_id, of UoE sync by port (R472, R477). -/
  seqs : SMap Nat
  syncSeqs : SMap Nat
  uoeSeqs : SMap Nat
  /-- The alive value that user code has written for a flow, by flow (R486, R536). -/
  userAlive : SMap Nat
  /-- Packets with Stream_Terminated still to send, by flow, and the context they are sent with (R471). -/
  ending : SMap (Nat × FlowCtx)
  rx : SMap RxUniverse
  lastDiscovery : Option Nat
  /-- Engines left out of the assignment in force (R487); last frame in which user code faulted and how many in a row (R486). -/
  excluded : List Nat
  trapK : Option Int
  trapRun : Nat
deriving DecidableEq, Repr

def Pkt.reset : Pkt :=
  { global := ⟨0, [], List.replicate 8 0, 0, 0⟩, engines := Vector.replicate 8 ⟨false, false, false⟩, code := none, seqs := [], syncSeqs := [],
    uoeSeqs := [], userAlive := [], ending := [], rx := [], lastDiscovery := none, excluded := [], trapK := none, trapRun := 0 }

/-- The line of a DMX port (R491). -/
inductive DmxLine where
  | idle | frame | rdmRequest | rdmWait | rdmResponse
deriving DecidableEq, Repr

/-- A DMX port (R479 to R485): the frame buffer and its frame, the line and when it is free, requests waiting and the one in progress, frames sent
since the last window (255 before the first), the end of the window, the last break, the receive instant. -/
structure DmxPort where
  buffer : List Nat
  bufferK : Option Int
  line : DmxLine
  busyUntil : Nat
  requests : List (RdmRequest × Option Call)
  /-- Requests at the head of the queue whose transactions the Almanac has dispatched (R118, R123). -/
  granted : Nat
  current : Option (RdmRequest × Option Call)
  requestEnd : Nat
  windowEnd : Nat
  sinceWindow : Nat
  lastBreak : Int
deriving DecidableEq, Repr

def DmxPort.reset : DmxPort :=
  { buffer := [], bufferK := none, line := .idle, busyUntil := 0, requests := [], granted := 0, current := none, requestEnd := 0, windowEnd := 0,
    sinceWindow := 255, lastBreak := 0 }

/-- States of a node (R519). -/
inductive NodeState where
  | unjoined | online | lost | stale
deriving DecidableEq, Repr

/-- A node as the coordinator knows it (R504 to R516): drift in 0.01 ppm, error in ns with its instant, misses in a row, the epoch reported,
battery, RSSI, flags and first missing piece of its last answer and its ST64, whether a Configuration frame is due. -/
structure RadioNode where
  state : NodeState
  drift : Int
  error : Int
  errorAt : Option Int
  misses : Nat
  epoch : Nat
  battery : Nat
  rssi : Nat
  flags : Nat
  firstMissing : Nat
  answerAt : Int
  configDue : Bool
deriving DecidableEq, Repr

/-- A frame the coordinator sends (R514): its content. -/
inductive RadioTx where
  | beacon (st : Int) (relay : Bool)
  | values (target : Int) (tag : Nat) (zone : Nat) (entries : List (Nat × List Nat))
  | cue (cues : List (Int × Nat × Nat × Nat))
  | poll (entries : List (Nat × Int × Nat))
  | uplinkAck (node : Nat) (drift : Int) (epoch : Nat)
  | config (node position : Nat) (groups : List Nat) (epoch : Nat) (drift : Int)
  | piece (image piece : Nat) (data : List (BitVec 8))
deriving DecidableEq, Repr

/-- A transceiver (R492 to R505): the last slot started, the frames started in the last hour (reference clock, channel, airtime in 1/3 µs), the
downlink sequence, the poll cursor, nodes whose answer the slot awaits, the frames of the slot and their PSDUs (R514), when the slot's last one ends (µs × 3 from its
start), whether a beacon came as standby, refusals since the last notice and its instant by kind, slots and piece slots of the relay. -/
structure Xcvr where
  slot : Option Int
  /-- The instant of the slot start that the Almanac has armed (R109, R110). -/
  armed : Option Int
  log : List (Nat × Nat × Nat)
  seq : Nat
  pollNext : Nat
  await : List Nat
  out : List RadioTx
  air : List (List (BitVec 8))
  outEnd : Nat
  beaconSeen : Bool
  limits : SMap (Nat × Option Nat)
  slots : Nat
  pieceSlots : Nat
  pieceNext : Nat
deriving DecidableEq, Repr

/-- A radio entry of a zone (R511): node n by number, group g as 65,536 + g. The bytes of frame k, the transceivers still to send it (a bit each),
whether it changed, the bytes last sent and when (reference clock), whether its deferral is counted. -/
structure RadioEntry where
  zone : Nat
  k : Int
  bytes : List Nat
  todo : Nat
  changed : Bool
  sent : Option (List Nat)
  sentAt : Nat
  late : Bool
deriving DecidableEq, Repr

/-- The relay of a node image (R515 to R517). -/
structure Relay where
  image : Nat
  crc : Nat
  share : Nat
  group : Nat
  mask : Nat
  active : Bool
  sent : Nat
  progressAt : Nat
  /-- Pieces that a node misses. -/
  missing : SMap (List Nat)
deriving DecidableEq, Repr

/-- The radio (15_radio.md). -/
structure Rad where
  xcvrs : Vector Xcvr 2
  nodes : SMap RadioNode
  entries : SMap RadioEntry
  /-- Transmissions made of a cue, by 2 × cue + transceiver; 65,536 when it was cancelled (R512). -/
  cueSent : SMap Nat
  /-- Cues that the Almanac has dispatched to the radio (R118, R123). -/
  cuesIn : List Nat
  /-- The node image loaded: number, length, chunks by offset. -/
  image : Nat
  total : Nat
  chunks : SMap (List (BitVec 8))
  relay : Option Relay
  unknownAt : Option Nat
deriving DecidableEq, Repr

def Xcvr.reset : Xcvr :=
  { slot := none, armed := none, log := [], seq := 0, pollNext := 0, await := [], out := [], air := [], outEnd := 0, beaconSeen := false, limits := [],
    slots := 0, pieceSlots := 0, pieceNext := 0 }

def RadioNode.reset : RadioNode := ⟨.unjoined, 0, 0, none, 0, 0, 0, 0, 0, 0xFFFF, 0, false⟩

def Rad.reset : Rad := ⟨Vector.replicate 2 Xcvr.reset, [], [], [], [], 0, 0, [], none, none⟩

/-- The lease of a group (R528, R530): held, the instant of the reference clock at which it ends, requests not yet answered with their instants,
the instant of the last request, the last frame in which it was held, and the frame from which a new holder maps in full (R540). -/
structure Lease where
  held : Bool
  till : Nat
  requests : List (Word × Nat)
  requestAt : Option Nat
  heldK : Option Int
  fromK : Option Int
deriving DecidableEq, Repr

/-- Entries of the sections of a record (R536). -/
structure EscCue where
  cueId : Nat
  basis : Nat
  action : Nat
  priority : Nat
  made : Nat
  when_ : Int
  sub : Nat
  argument : Nat
deriving DecidableEq, Repr

structure EscTimer where
  due : Int
  timer : Nat
  argument : Nat
deriving DecidableEq, Repr

structure EscZone where
  zone : Nat
  valid : Bool
  skip : Nat
  last : Int
deriving DecidableEq, Repr

structure EscSeq where
  kind : Nat
  index : Nat
  value : Nat
deriving DecidableEq, Repr

structure EscEffect where
  slot : Nat
  bytes : List (BitVec 8)
deriving DecidableEq, Repr

structure EscChange where
  descriptor : Nat
  frames : List Nat
deriving DecidableEq, Repr

structure EscTemp where
  temp : Int
  valid : Bool
deriving DecidableEq, Repr

structure EscEpoch where
  fixture : Nat
  epoch : Nat
deriving DecidableEq, Repr

/-- A record's body (R535, R536). -/
structure EscRecord where
  groups : Nat
  k : Int
  tS : Int
  epoch : Nat
  tag : Nat
  digests : List Nat
  leaseSeqs : List Nat
  cues : List EscCue
  timers : List EscTimer
  zones : List EscZone
  seqs : List EscSeq
  effects : List EscEffect
  changes : List EscChange
  temps : List EscTemp
  firstTile : Nat
  crcs : List Nat
  epochs : List EscEpoch
deriving DecidableEq, Repr

/-- A record being assembled (R534): its sequence, k, count and the fragments received. -/
structure EscBuild where
  seq : Word
  k : Int
  count : Nat
  parts : SMap (List (BitVec 8))
deriving DecidableEq, Repr

/-- A tile mapped by the standby (R542). -/
structure ShadowTile where
  k : Int
  tile : Nat
  zone : Nat
  engine : Nat
  crc : Word
deriving DecidableEq, Repr

/-- The pair (16_redundancy.md). -/
structure Esc where
  /-- What PAIR_SET gave and no register holds. -/
  partnerIp : Nat
  arbIp : Nat
  escUdp : Nat
  arbUdp : Nat
  partnerMac : Nat
  leases : Vector Lease 16
  requestSeq : Word
  txSeq : Word
  /-- Alive values of the record fragments, of the probes and of the probe replies sent (R534, R543). -/
  alive : Nat
  probeAlive : Nat
  replyAlive : Nat
  probeSeq : Word
  /-- The last complete record with its sequence, the last one that covers each group, and the one being assembled. -/
  record : Option (Word × EscRecord)
  byGroup : SMap EscRecord
  build : Option EscBuild
  /-- The record due at this tick, and the one written and still to be sent (R533). -/
  writeDue : Option Int
  out : Option (Word × Int × List (BitVec 8))
  /-- Why the last record was lost: 0 incomplete, 1 CRC, 2 alive skip, 3 stale holder. -/
  cause : Nat
  /-- CRCs of the tiles that this device mapped as standby, until their record comes (R542). -/
  shadow : List ShadowTile
  /-- Complete records in a row, and the boundary at which the last one completed (R545). -/
  run : Nat
  completeK : Option Int
  rejoined : Bool
  /-- Records became stale (R548); records lost since the last notice. -/
  stale : Bool
  lost : Nat
  /-- The record last counted as incomplete (R533). -/
  dropped : Option Word
  /-- The digest mismatch was reported for these groups. -/
  configSaid : List Nat
  /-- Tiles by the frame of their last mismatch, the last frame with a mismatch, tiles checked in the frame, whether shadow_ok (R542). -/
  mismatch : SMap Int
  mismatchK : Option Int
  shadowOk : Bool
  /-- Probes outstanding by port with sequence and instant; misses in a row by port; 16 is the radio (R543, R544). -/
  probes : SMap (Word × Nat)
  misses : SMap Nat
  probeAt : Option Nat
  /-- Fixtures whose epoch changed in the frame (R536). -/
  newEpochs : List Nat
deriving DecidableEq, Repr

def Esc.reset : Esc :=
  { partnerIp := 0, arbIp := 0, escUdp := 0, arbUdp := 0, partnerMac := 0, leases := Vector.replicate 16 ⟨false, 0, [], none, none, none⟩,
    requestSeq := 0, txSeq := 0, alive := 0, probeAlive := 0, replyAlive := 0, probeSeq := 0, record := none, byGroup := [], build := none, writeDue := none, out := none, cause := 0, shadow := [], run := 0, completeK := none, rejoined := false,
    stale := false, lost := 0, dropped := none, configSaid := [], mismatch := [], mismatchK := none, shadowOk := true, probes := [], misses := [], probeAt := none,
    newEpochs := [] }

/-- One fragment of a UDP message being put together (R557, R559). -/
structure Assembly where
  message : Nat
  count : Nat
  got : List Nat
  since : Nat
deriving DecidableEq, Repr

/-- When a message reached Teller: the instant of the reference clock, and ST64 then; none before show time runs (R26, R565). -/
structure Arrival where
  at_ : Nat
  st : Option Int
deriving DecidableEq, Repr

/-- A session of R550: session 0 is the PCIe session, sessions 1 to 4 the UDP sessions. -/
structure Session where
  /-- The session exists (R550, R558). -/
  isOpen : Bool
  /-- The last accepted seq, none before the baseline (R562). -/
  last : Option Word
  /-- The response cache, newest first, at most 64 entries (R563). -/
  cache : List Resp
  /-- Messages that reached Teller and are not yet taken, oldest first, each with that instant (R554, R564). -/
  inbox : List (Msg × Arrival)
  /-- The instant at which the message taken last reached Teller (R565). -/
  arrived : Arrival
  /-- The command taken and not yet answered: its seq and code (R564). -/
  outstanding : Option (Word × Nat)
  /-- NOTICE_MASK (R578). -/
  mask : Word
  /-- The sequence of the next notice (R567). -/
  ntcNext : Nat
  /-- PCIe: notices waiting for room in the ring. UDP: notices not yet acknowledged with the instant each was last sent (R566). -/
  queue : List (Notice × Nat)
  /-- Notices lost and not yet reported: their number, the code of the first and its stamp (R566). -/
  lost : Nat
  lostCode : Nat
  lostStamp : Int
  /-- Responses and notices written, oldest first: on PCIe those not yet consumed from their ring, on UDP all sent. -/
  responses : List Resp
  notices : List Notice
  /-- PCIe: final responses that wait for room in the response ring, oldest first (R554, R572). -/
  rspWait : List Resp
  /-- UDP: session identifier, key, highest counter received, counters of the window of 64 already accepted, next counter to send,
  instant of the last valid datagram, message number to send next, messages in assembly (R557 to R559). -/
  ident : Nat
  key : Nat
  /-- UDP: the port of the device that the session was opened at (R557, R580). -/
  port : Nat
  rxHigh : Nat
  rxSeen : List Nat
  txNext : Nat
  lastValid : Nat
  txMessage : Nat
  assembling : List Assembly
  /-- UDP: the session has sent its challenge and waits for the confirm (R558). -/
  confirming : Bool
deriving DecidableEq, Repr

def Session.closed : Session :=
  { isOpen := false, last := none, cache := [], inbox := [], arrived := ⟨0, none⟩, outstanding := none, mask := 0x000FFFFF, ntcNext := 1, queue := [],
    lost := 0, lostCode := 0, lostStamp := 0, responses := [], notices := [], rspWait := [], ident := 0, key := 0, port := 0, rxHigh := 0,
    rxSeen := [], txNext := 1, lastValid := 0, txMessage := 0, assembling := [], confirming := false }

/-- The PCIe rings (R552, R553): pointers are unit indexes with a wrap bit above. -/
structure Rings where
  cmdWr : BitVec 16
  cmdRd : BitVec 16
  rspWr : BitVec 17
  rspRd : BitVec 17
  ntcWr : BitVec 16
  ntcRd : BitVec 16
  /-- Command intake stopped (R556). -/
  ringErr : Bool
  /-- ctrl.reset: a session reset waits for Teller (R553, R556). -/
  resetting : Bool
  /-- MSI-X vectors signalled since the host last looked: responses, notices, ring error or end of reset (R551). -/
  vectors : BitVec 3
deriving DecidableEq, Repr

def Rings.empty : Rings := ⟨0, 0, 0, 0, 0, 0, false, false, 0⟩

/-- A commit open for a session (R569): its messages in seq order and their payload bytes. -/
structure OpenCommit where
  owner : Fin 5
  msgs : List ConfigMsg
  bytes : Nat
deriving DecidableEq, Repr

/-- An accepted commit waiting for its fixture-map copy (R571, R572). -/
structure Accepted where
  tag : Int
  msgs : List ConfigMsg
  /-- The whole configuration with this commit in it, epochs stamped (R289, R570). -/
  cfg : Cfg
  /-- The compositor part is in force (R40). -/
  composed : Bool
  flags : Nat
  stageId : Nat
  /-- The response still owed, if the session that sent it was not reset (R556). -/
  owed : Option Call
deriving DecidableEq, Repr

/-- A held stage (R573). -/
structure Stage where
  id : Nat
  msgs : List ConfigMsg
  exact : Bool
  earliest : Bool
deriving DecidableEq, Repr

/-- Teller (17_teller_interface.md). -/
structure Teller where
  sessions : Vector Session 5
  rings : Rings
  openCommit : Option OpenCommit
  accepted : List Accepted
  stages : List Stage
  /-- Tags of TLR_LAST_TAG and TLR_FORCE_TAG (R580). -/
  lastTag : Int
  forceTag : Int
  /-- The last tag given in this run of show time (R571). -/
  tagFloor : Option Int
  /-- The instant of the last reset (R578). -/
  resetAt : Nat
  /-- Reset cause of Teller's last restart (R579). -/
  startCause : Nat
  /-- The PCIe link: up, lanes, generation (R550, R581). -/
  linkUp : Bool
  linkWidth : Nat
  linkSpeed : Nat
  /-- Identifier of the next UDP session (R557). -/
  nextIdent : Nat
  /-- Notices of the blocks in the order of their events, waiting to be offered to the Ledger (R566, R656). -/
  ledgerOffers : List (Nat × Int × List Int)
  /-- The bytes of the last message on each of CHK channels 0 to 7 whose run the channel shows (R152, R561). -/
  checked : SMap (List (BitVec 8))
deriving DecidableEq, Repr

def Teller.reset : Teller :=
  { sessions := Vector.replicate 5 Session.closed, rings := Rings.empty, openCommit := none, accepted := [], stages := [], lastTag := 0,
    forceTag := 0, tagFloor := none, resetAt := 0, startCause := 0, linkUp := false, linkWidth := 0,
    linkSpeed := 0, nextIdent := 1, ledgerOffers := [], checked := [] }

/-- The states of a power domain (R589, R603). -/
inductive DomState where
  | on | gated | retain | off | goingUp | goingDown
deriving DecidableEq, Repr

/-- A power domain (R587 to R590): its state, whether POWER_DOMAIN_SET holds it, when the running step began and the state it left (R602), and
whether that step was latched behind another (R590). -/
structure Dom where
  state : DomState
  held : Bool
  since : Nat
  from_ : DomState
  latched : Bool
deriving DecidableEq, Repr

/-- A mode change in progress (R583, R584): the mode asked for, the mode being entered, the cause, and the command owed a final response. -/
structure ModeChange where
  asked : Mode
  to_ : Mode
  cause : Nat
  owed : Option Call
  /-- It waits for the next frame boundary (R583). -/
  atBoundary : Bool
  /-- It has left the old mode's work behind: show time stopped, domains under way. -/
  begun : Bool
deriving DecidableEq, Repr

/-- A zone shed by heat (R600) in the order of shedding is the last of the list. -/
structure Thermal where
  temps : Vector (Option Int) 24
  level : Nat
  shedZones : List Nat
  /-- Instant of the last shed and of the last restore or fall below warn (R600). -/
  lastShed : Nat
  lastCool : Nat
  /-- After a trip, BOOT waits for Tmax below warn (R601). -/
  tripWait : Bool
deriving DecidableEq, Repr

/-- A voltage monitor (R598, R599). -/
structure Volt where
  mv : Nat
  low : Bool
  high : Bool
deriving DecidableEq, Repr

/-- HKC's power state (18_power_and_modes.md). -/
structure Power where
  mode : Mode
  change : Option ModeChange
  domains : Vector Dom 14
  /-- A shed switched PD4 to PD12 off, whatever their tolerances (R592). -/
  shedOff : Bool
  /-- Enables and rails (R586, R675). -/
  aonEn : Bool
  pwrEn : Bool
  pwrGood : Bool
  attempts : Nat
  /-- The instant PWR_EN last rose, or dropped after a timeout (R676). -/
  pwrEnAt : Nat
  /-- Supply sag (R591): W1 asserted, hold in force, Ledger flush of the sag running, the instant of W1, the lowest VSENSE since, the
  last VSENSE, since when VSENSE has been above W1 + 2 %, records flushed. -/
  w1 : Bool
  hold : Bool
  sagFlush : Bool
  w1At : Nat
  w1Low : Nat
  vsense : Nat
  recoveredAt : Option Nat
  sagRecords : Nat
  w1Count : Nat
  /-- Last reset cause, rail of a W2 reset (R595). -/
  cause : Nat
  w2Rail : Nat
  /-- PD2 alone was reset and Teller has not restarted (R597). -/
  restarting : Bool
  /-- The wake latch (R586) and the last wake. -/
  wakeLatch : Bool
  lastWake : Nat
  /-- DRAM state (R589): 0 active, 1 power-down, 2 self-refresh. -/
  dram : Nat
  /-- Watchdog: the last restart (R596). -/
  dogAt : Nat
  thermal : Thermal
  volts : Vector Volt 14
  process : Vector Nat 32
  /-- Core set point chosen in BOOT, and the voltage now, in mV (R599, R585). -/
  setPoint : Nat
  coreMv : Nat
  /-- The VDD_CORE regulator answered in BOOT (R674). -/
  avsOk : Bool
  /-- SOAK runs at its boosted clock and retuned voltage (R585, R600). -/
  boost : Bool
deriving DecidableEq, Repr

def Dom.reset (s : DomState) : Dom := ⟨s, false, 0, s, false⟩

def Thermal.reset : Thermal :=
  { temps := Vector.replicate 24 none, level := 0, shedZones := [], lastShed := 0, lastCool := 0, tripWait := false }

/-- After a power-on reset: BOOT, PD0 and PD1 on, every other domain off (R595, R603). -/
def Power.reset : Power :=
  { mode := .boot, change := none,
    domains := Vector.ofFn (fun d => Dom.reset (if d.val ≤ 1 then .on else .off)), shedOff := false,
    aonEn := true, pwrEn := false, pwrGood := false, attempts := 0, pwrEnAt := 0, w1 := false, hold := false, sagFlush := false, w1At := 0,
    w1Low := 0, vsense := 0, recoveredAt := none, sagRecords := 0, w1Count := 0, cause := 0, w2Rail := 0xFF,
    restarting := false, wakeLatch := false, lastWake := 0, dram := 0, dogAt := 0, thermal := Thermal.reset,
    volts := Vector.replicate 14 ⟨0, false, false⟩, process := Vector.replicate 32 0, setPoint := 0, coreMv := 0, avsOk := true, boost := false }

/-- An index of a calibration item in force (R607, R617). -/
structure CalEntry where
  valid : Bool
  unstable : Bool
  outOfRange : Bool
  skipped : Bool
  value : Int
  value2 : Int
deriving DecidableEq, Repr

/-- A copy of the calibration sector whose check word holds (R616). Entries are keyed item × 256 + index. -/
structure CalCopy where
  generation : Word
  count : Nat
  st64 : Int
  utc : Nat
  ident : Nat
  /-- Its serial is the device's own (R618). -/
  own : Bool
  records : SMap CalEntry
deriving DecidableEq, Repr

/-- A pass in CALIBRATE (R621): items still to run, store, lanes, the response owed, items run and skipped, unstable indexes. -/
structure CalPass where
  left : List Nat
  store : Bool
  lanes : Nat
  owed : Option Call
  ran : Nat
  skipped : Nat
  unstable : Nat
deriving DecidableEq, Repr

/-- A sector copy being written (R619, R620): which, its content, whether a pass waits for it, whether it was abandoned and is due again. -/
structure CalWrite where
  copy : Nat
  content : CalCopy
  pass : Bool
  again : Bool
deriving DecidableEq, Repr

/-- Self-calibration (19_self_calibration.md). The sector survives every reset. -/
structure Cal where
  entries : SMap CalEntry
  /-- The sector was loaded since PD2 came on (R612). -/
  loaded : Bool
  pass : Option CalPass
  write : Option CalWrite
  passes : Nat
  skippedItems : Nat
  copies : Vector (Option CalCopy) 2
  inForce : Option Nat
  /-- Lanes that step toward their code: the instant of the reference clock of the next step (R609). -/
  stepAt : SMap Nat
deriving DecidableEq, Repr

def Cal.reset : Cal :=
  { entries := [], loaded := false, pass := none, write := none, passes := 0, skippedItems := 0, copies := Vector.replicate 2 none,
    inForce := none, stepAt := [] }

/-- The security states of R630. -/
inductive SecState where
  | unprovisioned | provisioned | approved | retired
deriving DecidableEq, Repr

/-- The states of a bank (R640). -/
inductive BankState where
  | empty | staging | staged | good | failed
deriving DecidableEq, Repr

/-- A copy of the provisioning record that is valid (R637). -/
structure ProvRecord where
  generation : Word
  epoch : Int
  mac : Nat
  ip : Nat
  mask : Nat
  gateway : Nat
deriving DecidableEq, Repr

/-- What the boot control record says of a bank. -/
structure BankInfo where
  state : BankState
  version : Nat
  secver : Nat
deriving DecidableEq, Repr

/-- A valid copy of the boot control record (R640). -/
structure BootRecord where
  generation : Word
  active : Nat
  pending : Option Nat
  tries : Nat
  next : Bool
  bank0 : BankInfo
  bank1 : BankInfo
deriving DecidableEq, Repr

/-- A bank of the flash (R639, R641): its header, the blocks written and good, and whether the hash of the payload equals the digest. -/
structure Bank where
  header : Option FwHeader
  blocks : SMap (List (BitVec 8))
  hashOk : Bool
deriving DecidableEq, Repr

/-- A block being written (R649). -/
structure BlockWrite where
  bank : Nat
  block : Nat
  data : List (BitVec 8)
  owed : Option Call
deriving DecidableEq, Repr

/-- Vault, OTP and the security regions of the flash (20_security_and_firmware.md). OTP and flash survive every reset. -/
structure Vault where
  state : SecState
  /-- Key material by identifier (R632), and slots written and revoked, as VLT_SLOTS numbers them. -/
  keys : SMap Nat
  written : Nat
  revoked : Nat
  rollback : Nat
  prov : Vector (Option ProvRecord) 2
  boots : Vector (Option BootRecord) 2
  banks : Vector Bank 2
  /-- The tests of R629. -/
  error : Bool
  katFail : Nat
  /-- What runs: the RECOVERY image or a bank (R644). -/
  recovery : Bool
  running : Nat
  /-- BOOT_FALLBACK still to be sent: failed bank, reason, bank booted, version (R646); the reason of the last one. -/
  fallback : Option (Nat × Nat × Nat × Nat)
  lastReason : Nat
  write : Option BlockWrite
  /-- Requests to the DRBG since its last reseed (R628). -/
  requests : Nat
deriving DecidableEq, Repr

/-- The header that bank 0 holds at manufacture. -/
def factoryHeader : FwHeader := ⟨true, 0, 0, 0, 0xFFFF, 0, 0x31, 1, 1, 0, [0], ⟨0, 0, true⟩⟩

/-- A device as it leaves manufacture: UNPROVISIONED, FW slots written, bank 0 GOOD, no record. -/
def Vault.reset : Vault :=
  { state := .unprovisioned, keys := [(0, 0), (1, 0), (2, 0), (3, 0)], written := 0xF, revoked := 0, rollback := 0,
    prov := Vector.replicate 2 none,
    boots := Vector.ofFn (fun i => if i.val = 0 then some ⟨1, 0, none, 0, false, ⟨.good, 0, 0⟩, ⟨.empty, 0, 0⟩⟩ else none),
    banks := Vector.ofFn (fun i => if i.val = 0 then ⟨some factoryHeader, [(0, [0])], true⟩ else ⟨none, [], false⟩),
    error := false, katFail := 0, recovery := false, running := 0, fallback := none, lastReason := 0xFF, write := none, requests := 0 }

/-- A Ledger record (R655); its check word follows from the other bytes. -/
structure LgrRec where
  time : Int
  seq : Word
  code : Nat
  flags : Nat
  ext : Nat
  data : List (BitVec 8)
deriving DecidableEq, Repr

/-- A written slot of the Ledger area (R663, R664): a record, or bytes that are neither erased nor valid. -/
inductive LgrSlot where
  | record (r : LgrRec)
  | bad
deriving DecidableEq, Repr

/-- A tracker (R661): rate, burst, tokens, suppressed count; the instant of the HKC clock from which tokens are gained, and how many were. -/
structure Tracker where
  rate : Nat
  burst : Nat
  tokens : Nat
  supp : Nat
  since : Nat
  gained : Nat
deriving DecidableEq, Repr

/-- A freeze (R666): the session and the instant at which its limit passes. -/
structure Freeze where
  session : Fin 5
  till : Nat
deriving DecidableEq, Repr

/-- A flush in progress (R660): the seq below which it writes, whether it takes every record, the commands owed a final response, and those of a
flush asked for meanwhile, which follows it. -/
structure Flush where
  below : Word
  all : Bool
  owed : List Call
  again : Option (List Call)
deriving DecidableEq, Repr

/-- The Ledger (21_ledger.md). The flash area survives every reset, buffer and side buffer those of causes 4 to 9. -/
structure Ledger where
  buffer : List LgrRec
  side : List LgrRec
  /-- Records dropped by a full buffer and by a full side buffer, not yet reported. -/
  dropped : Nat
  sideDropped : Nat
  run : Bool
  fault : Bool
  /-- Trackers by number; one not listed is as at boot. -/
  trackers : SMap Tracker
  bootAt : Nat
  freeze : Option Freeze
  flush : Option Flush
  flushAt : Nat
  flushSt : Int
  clearSt : Int
  /-- The clear log and the ring by block × 2,048 + slot (R663), and the write point. -/
  slots : SMap LgrSlot
  write : Nat
  /-- The nonce in force and its instant (R668). -/
  nonce : Option (Int × Nat)
deriving DecidableEq, Repr

def Ledger.reset : Ledger :=
  { buffer := [], side := [], dropped := 0, sideDropped := 0, run := false, fault := false, trackers := [], bootAt := 0, freeze := none, flush := none,
    flushAt := 0, flushSt := 0, clearSt := 0, slots := [], write := 2048, nonce := none }

/-- The machine. -/
structure State where
  /-- The part (R7, R11). -/
  part : Part
  /-- The internal registers (R16 to R20). -/
  regs : Regs
  /-- The model's own counter of the free values drawn (log entry 4); the spec names no such state. -/
  free : Nat
  /-- Show time (02_show_time.md). -/
  time : Time
  /-- Teller (17_teller_interface.md). -/
  teller : Teller
  /-- Power, modes, sag, reset, PVT (18_power_and_modes.md). -/
  power : Power
  /-- The commands waiting, first in, first out. -/
  pending : List Instr
  /-- The Almanac (03_almanac.md). -/
  alm : Almanac
  /-- The intake FIFOs (04_integrity_blocks.md). -/
  fifos : Vector Fifo 18
  /-- Datapath protection (04_integrity_blocks.md). -/
  protect : Protect
  /-- Sources and layers (05_inputs_and_layers.md). -/
  vin : Inputs
  /-- Teller's record of the configuration, every accepted commit included (R570). -/
  record : Cfg
  /-- The configuration in force for inputs, compositor and raster (R40). -/
  cfgA : Cfg
  /-- The configuration in force from the fixture map on (R40, R293). -/
  cfgB : Cfg
  /-- The compositor (06_compositor.md). -/
  cmp : Cmp
  /-- The raster generator (07_raster_and_monitor.md). -/
  ras : Ras
  /-- The fixture map (08_fixture_map.md). -/
  fxm : Fxm
  /-- The photometric stage (10_photometric_pipeline.md). -/
  pho : Pho
  /-- The delay pool (R41, R128, R316). -/
  pool : Pool
  /-- The Unbex lanes (11_unbex_lanes.md). -/
  lanes : Vector Lane 32
  /-- The failed-lamp table (R421, R422). -/
  lamps : List LampEntry
  /-- The Ethernet ports (13_show_ports_mac.md). -/
  mac : Mac
  /-- Packet engines, flows and receive universes (14_show_protocols.md). -/
  pkt : Pkt
  /-- The DMX ports (14_show_protocols.md). -/
  dmx : Vector DmxPort 16
  /-- The radio (15_radio.md). -/
  rad : Rad
  /-- The pair and Escrow (16_redundancy.md). -/
  esc : Esc
  /-- The mapper engines (09_mapper_engines.md). -/
  map : Mapper
  /-- Self-calibration (19_self_calibration.md). -/
  cal : Cal
  /-- Vault, OTP and the security regions of the flash (20_security_and_firmware.md). -/
  vlt : Vault
  /-- The Ledger (21_ledger.md). -/
  lgr : Ledger
deriving DecidableEq, Repr

/-- Right after a power-on reset (R595): every register at the reset value of its table, BOOT, show time stopped, no session, no command waiting. -/
def State.reset : State :=
  { part := .rk9200,
    regs := ⟨[], [], [], none⟩,
    free := 0,
    time := Time.reset,
    teller := Teller.reset,
    power := Power.reset,
    pending := [],
    alm := Almanac.reset,
    fifos := Vector.replicate 18 Fifo.reset,
    protect := Protect.reset,
    vin := Inputs.reset,
    record := Cfg.empty,
    cfgA := Cfg.empty,
    cfgB := Cfg.empty,
    cmp := Cmp.reset,
    ras := Ras.reset,
    fxm := Fxm.reset,
    pho := Pho.reset,
    pool := Pool.reset,
    lanes := Vector.replicate 32 Lane.reset,
    lamps := [],
    mac := Mac.reset,
    pkt := Pkt.reset,
    dmx := Vector.replicate 16 DmxPort.reset,
    rad := Rad.reset,
    esc := Esc.reset,
    map := Mapper.reset,
    cal := Cal.reset,
    vlt := Vault.reset,
    lgr := Ledger.reset }

end Sys2Proof.Machine
end

