-- ==== Sys2Proof/Machine/Message.lean ====
section
/-! DEFINITION. The bytes of Teller's messages (R560): the check value over them (R148), the header, and the payload layouts of the responses, from the
payload tables of every chapter. -/

namespace Sys2Proof.Machine

/-! CRC-32C (R148). -/

/-- One bit of the reflected CRC-32C. -/
def crcBit (r : Word) : Word := if r.toNat % 2 = 1 then (r >>> 1) ^^^ 0x82F63B78 else r >>> 1

/-- One byte absorbed into a running value, bit 0 first (R148). -/
def crcByte (r : Word) (b : BitVec 8) : Word :=
  crcBit (crcBit (crcBit (crcBit (crcBit (crcBit (crcBit (crcBit (r ^^^ b.setWidth 32))))))))

def crcBytes (r : Word) (bs : List (BitVec 8)) : Word := bs.foldl crcByte r

/-- CRC-32C of a byte string: start, feed, finish (R149). -/
def crc32c (bs : List (BitVec 8)) : Word := crcBytes 0xFFFFFFFF bs ^^^ 0xFFFFFFFF

/-! Payloads. -/

def leI (i : Int) (w : Nat) : List (BitVec 8) := le (unsignedOf (8 * w) i) w

/-- The bytes of a payload from its fields and layout; a width above 100 is a field whose first byte is the highest. -/
def layBytes (layout : List Int) (fields : List Int) : List (BitVec 8) :=
  match layout with
  | [] => []
  | w :: r =>
    if w < 0 then List.replicate w.natAbs 0 ++ layBytes r fields
    else match fields with
      | [] => List.replicate w.natAbs 0 ++ layBytes r []
      | x :: t => (if w < 100 then leI x w.natAbs else (leI x (w.natAbs - 100)).reverse) ++ layBytes r t

def payloadBytes (code : Nat) (fields : List Int) : List (BitVec 8) :=
  layBytes (noticeLayout code ++ (if code = 0x8002 then detailLayout ((fields.getD 4 0).toNat)
    else if code = 0x8261 then List.replicate (fields.length - 5) 1 else [])) fields

/-- A response's payload: the fields before the records, and those of each record, as in `noticeLayout`. -/
def responseLayout (code : Nat) : List Int × List Int :=
  match code with
  | 0x0001 => ([4, 4, 1, 1, 1, 1] ++ List.replicate 16 1 ++ [106, -2, 4, 8, 1, -15], [])
  | 0x0002 => ([], [1])
  | 0x0011 => ([8, 1, 1, 1, -1, 4], [])
  | 0x0030 => ([4, 2, -2], [4])
  | 0x0113 => ([8, 1, 1, -2, 4], [1, 1, 1, -1, 4, 4, 4, 4, 4, 6, 1, 1])
  | 0x0143 => ([2, 2, 1, -3], [8, 4, 4, 2, 1, 1, 1, 1, 2, 4, -4])
  | 0x0403 => ([1, 1, -2, 2, 2, 4, 4, 8, 4, 4, 4, 4, 4, 4], [])
  | 0x0414 => ([4, 4, 4, -4] ++ (List.replicate 16 [1, 1, 1, -1]).flatten, [4])
  | 0x0421 => ([8, 8, 4, 1, 1, -2, 4, 4, 4, 4, 4, -4], [])
  | 0x0431 => ([4, 2, -2], [1, 1, 1, 1, 1, 1, 2, 2, 2, 4, 4, 4, 4, 4, 4, 4, 4, 4, 4, 2, -2, 8, 4, 4])
  | 0x0433 => ([1, 1, 1, 1, 1, -3, 4, -4, 4, 4, 2, 2, 4], [])
  | 0x0436 => ([8, 8, 4, 4, 1, 1, 2, 4, 4, 4, 4, -4], [])
  | 0x0443 => ([4, 4, 4, 4, 4, 4, 4, 2, 2, 2, 2] ++ List.replicate 16 1 ++ [-12], [])
  | 0x0453 => ([4, 2, -2], [2, 2, 2, 2, 2, 2, 2, 2, 2, 1, 1, 1, 1, 1, 1])
  | 0x0455 => ([4, 4, 4, 4, 4, 4, 4, -4], [])
  | 0x0464 => ([1, 1, 2, 2, -2, 4, 4, 4, 4, 4, 4, 4, 8, -4], [])
  | 0x0465 | 0x0469 => ([1, -3], [])
  | 0x0466 => ([1, -3, 4], [])
  | 0x046A => ([2, 2, -4], [1, 1, 2, 1, 1, -2, 4, 4, 8])
  | 0x0474 => (List.replicate 9 1 ++ [-7, 8, -8], [])
  | 0x0475 => ([1, -7], [8])
  | 0x0492 => ([1, 1, 1, -1, 4, 4, 4, 4, 4, 8], [])
  | 0x0493 => ([2, -6], [2, 1, 1, 2, 2, 8, 4, 2, 1, 1, 2, -2, 8])
  | 0x04A2 => ([1, 1, 2, 4, 4, 4, 4, 4, 4, -4], [4])
  | 0x0506 => ([1, 1, 1, 1, 2, 2] ++ List.replicate 14 1 ++ [-2, 4, 2, 1, -1, 4, -4], [])
  | 0x0507 => ([8] ++ List.replicate 70 2, [])
  | 0x0522 => ([1, 1, 1, -1, 4, 4, 2, 2, 8, 8, 4, 4, -8], [])
  | 0x0523 => ([2, -6], [1, 1, 2, 4, 4, -4])
  | 0x0600 => ([1, 1, 1, 1, 2, 2, 4, 4, 1, 1, 1, 1, 1, 1, -2, 4, 4, 4, 4], [])
  | 0x0615 => ([1, -1, 2, 2, -2], [1])
  | 0x0680 => ([4, 4, 4, 2, 1, 1, 4, 4, 4, 2, -2, 8, 8], [])
  | 0x0681 => ([4, 4, 4, 2, 1, -1], [8, 4, 2, 1, 1, 1, 1, 1, 1, 1, 1, 1, 1, 1, 1, 1, 1, 4])
  | 0x0683 => ([16, 2, -2, 4], [])
  | _ => ([], [])

/-- How many fields a layout takes. -/
def layFields (l : List Int) : Nat := l.countP (fun w => decide (0 < w))

/-- The payload of a response. -/
def answerBytes (code : Nat) (fields : List Int) : List (BitVec 8) :=
  let (head, each) := responseLayout code
  let tail := if code = 0x0011 then detailLayout ((fields.getD 2 0).toNat)
    else (List.replicate ((fields.length - layFields head) / max 1 (layFields each)) each).flatten
  layBytes (head ++ tail) fields

/-! Messages. -/

/-- Bytes 0 to 27 of a message. -/
def headBytes (magic version flags seq ack code cls status length : Nat) (stamp : Int) : List (BitVec 8) :=
  le magic 2 ++ le version 1 ++ le flags 1 ++ le seq 4 ++ le ack 4 ++ le code 2 ++ le cls 1 ++ le status 1 ++ le length 4 ++ leI stamp 8

/-- The magic 0x54, 0x4C. -/
def msgMagic : Nat := 0x4C54

/-- The bytes of a command's message that its check covers. -/
def commandBytes (m : Msg) : List (BitVec 8) :=
  headBytes m.magic m.version m.flags m.seq.toNat m.ack.toNat m.code m.cls m.status m.length m.stamp ++ m.payload

/-- Magic and check hold (R556, R559, R560). -/
def msgIntact (m : Msg) : Bool := m.magic == msgMagic && m.payload.length == m.length && m.check == (crc32c (commandBytes m)).toNat

/-- The codes of R574. -/
def statusCode (x : Status) : Nat :=
  match x with
  | .ok => 0x00 | .pending => 0x01 | .rejected => 0x02 | .badVersion => 0x10 | .unknownCode => 0x11 | .malformed => 0x12 | .seqGap => 0x13
  | .seqStale => 0x14 | .invalidParameter => 0x20 | .notFound => 0x21 | .resourceExhausted => 0x22 | .notReady => 0x23 | .unsupportedFeature => 0x24
  | .wrongMode => 0x25 | .busy => 0x26 | .noCommit => 0x27 | .tooLate => 0x28 | .unauthorized => 0x29 | .internal => 0x30

/-- The class of a command's code; that of a code of no row is 0 (DESIGN CHOICE, log entry 27). -/
def msgClass (code : Nat) : Nat := ((codeDesc code).map CodeDesc.cls).getD 0

/-- A payload to its length. -/
def payloadOfLen (n : Nat) (l : List (BitVec 8)) : List (BitVec 8) := l.take n ++ List.replicate (n - l.length) 0

/-- The bytes of a response that its check covers. -/
def respBytes (r : Resp) : List (BitVec 8) :=
  headBytes msgMagic 0x31 (1 + 2 * bNat r.duplicate) r.seq.toNat r.ack.toNat r.code (msgClass r.code) (statusCode r.status) r.len r.stamp ++
    payloadOfLen r.len (answerBytes r.code r.fields)

/-- The bytes of a notice that its check covers; `ack` is the last command seq accepted. -/
def noticeBytes (ack : Nat) (n : Notice) : List (BitVec 8) :=
  headBytes msgMagic 0x31 0 n.seq ack n.code n.cls 0 n.len n.stamp ++ payloadOfLen n.len (payloadBytes n.code n.fields)

end Sys2Proof.Machine
end

