-- ==== Sys2Proof/Machine/RegMap.lean ====
section
/-! DEFINITION. The register table: for every register of the spec (R16 to R20, R56, and the register tables of each chapter) its address,
how many units have it and how far apart they lie, the masks of its RW, RWS, W1C, RC and WO bits, and its reset value. Bits in no mask are RO
or reserved. -/

namespace Sys2Proof.Machine

/-- One row of a register table: the address of unit 0, the number of units, the distance between them, the access masks (R20), the reset value. -/
structure RegDesc where
  base : Nat
  count : Nat
  stride : Nat
  rw : Nat
  rws : Nat
  w1c : Nat
  rc : Nat
  wo : Nat
  reset : Nat
deriving DecidableEq, Repr

/-- Block SYS (R11, R59). -/
def regsSYS : List RegDesc :=
  [⟨0xF0000000, 1, 4, 0x0, 0x0, 0x0, 0x0, 0x0, 0x92001101⟩ /- SYS_IDENT -/,
   ⟨0xF0000010, 1, 4, 0x0, 0x0, 0x80000000, 0x0, 0x0, 0x0⟩ /- SYS_BUSERR -/]

/-- Block TIM (R104). -/
def regsTIM : List RegDesc :=
  [⟨0xF0030010, 1, 4, 0x0, 0x0, 0x0, 0x0, 0x0, 0x0⟩ /- TIM_ST64_LO -/,
   ⟨0xF0030014, 1, 4, 0x0, 0x0, 0x0, 0x0, 0x0, 0x0⟩ /- TIM_ST64_HI -/,
   ⟨0xF0030018, 1, 4, 0x0, 0x0, 0x0, 0x0, 0x0, 0x0⟩ /- TIM_CORR_LO -/,
   ⟨0xF003001C, 1, 4, 0x0, 0x0, 0x0, 0x0, 0x0, 0x0⟩ /- TIM_CORR_HI -/,
   ⟨0xF0030020, 1, 4, 0x0, 0x0, 0x0, 0x0, 0x0, 0x0⟩ /- TIM_EPOCH_ADJ_LO -/,
   ⟨0xF0030024, 1, 4, 0x0, 0x0, 0x0, 0x0, 0x0, 0x0⟩ /- TIM_EPOCH_ADJ_HI -/,
   ⟨0xF0030028, 1, 4, 0x0, 0x0, 0x0, 0x0, 0x0, 0x0⟩ /- TIM_HWM_LO -/,
   ⟨0xF003002C, 1, 4, 0x0, 0x0, 0x0, 0x0, 0x0, 0x0⟩ /- TIM_HWM_HI -/,
   ⟨0xF0030030, 1, 4, 0xFFFFFFFF, 0x0, 0x0, 0x0, 0x0, 0x3C⟩ /- TIM_FRATE_NUM -/,
   ⟨0xF0030034, 1, 4, 0xFFFFFFFF, 0x0, 0x0, 0x0, 0x0, 0x1⟩ /- TIM_FRATE_DEN -/,
   ⟨0xF0030038, 1, 4, 0xFFFFFFFF, 0x0, 0x0, 0x0, 0x0, 0x0⟩ /- TIM_FORIGIN_LO -/,
   ⟨0xF003003C, 1, 4, 0xFFFFFFFF, 0x0, 0x0, 0x0, 0x0, 0x0⟩ /- TIM_FORIGIN_HI -/,
   ⟨0xF0030040, 1, 4, 0x0, 0x0, 0x0, 0x0, 0x0, 0x0⟩ /- TIM_FCOUNT_LO -/,
   ⟨0xF0030044, 1, 4, 0x0, 0x0, 0x0, 0x0, 0x0, 0x0⟩ /- TIM_FCOUNT_HI -/,
   ⟨0xF0030108, 4, 256, 0x0, 0x0, 0x0, 0x0, 0x0, 0x0⟩ /- TIM_TBn_SEC_LO -/,
   ⟨0xF003010C, 4, 256, 0x0, 0x0, 0x0, 0x0, 0x0, 0x0⟩ /- TIM_TBn_SEC_HI -/,
   ⟨0xF0030110, 4, 256, 0x0, 0x0, 0x0, 0x0, 0x0, 0x0⟩ /- TIM_TBn_NS -/,
   ⟨0xF0030114, 4, 256, 0x0, 0x0, 0x0, 0x0, 0x0, 0x0⟩ /- TIM_TBn_OFFSET -/,
   ⟨0xF0030118, 4, 256, 0x0, 0x0, 0x0, 0x0, 0x0, 0x0⟩ /- TIM_TBn_FREQ -/,
   ⟨0xF003011C, 4, 256, 0x0, 0x0, 0x0, 0x0, 0x0, 0x0⟩ /- TIM_TBn_AB_OFFSET -/,
   ⟨0xF0030120, 4, 256, 0xFFFFFFFF, 0x0, 0x0, 0x0, 0x0, 0x186A0⟩ /- TIM_TBn_AB_LIMIT -/,
   ⟨0xF0030124, 4, 256, 0x0, 0x0, 0x0, 0x0, 0x0, 0x0⟩ /- TIM_TBn_MPD -/,
   ⟨0xF0030128, 4, 256, 0xFFFFFFFF, 0x0, 0x0, 0x0, 0x0, 0x0⟩ /- TIM_TBn_REF_OFFSET -/,
   ⟨0xF003012C, 4, 256, 0xFFFFFFFF, 0x0, 0x0, 0x0, 0x0, 0x0⟩ /- TIM_TBn_LTC_DAY -/] ++
  [⟨0xF0030130, 4, 256, 0x0, 0x0, 0x0, 0xFFFFFFFF, 0x0, 0x0⟩ /- TIM_TBn_LOSS -/,
   ⟨0xF0030000, 1, 4, 0x3, 0x0, 0x0, 0x0, 0x0, 0x0⟩ /- TIM_CTRL -/,
   ⟨0xF0030004, 1, 4, 0x3FF, 0x0, 0x0, 0x0, 0x0, 0x3E8⟩ /- TIM_SLEW -/,
   ⟨0xF0030008, 1, 4, 0xFFFFF, 0x0, 0x0, 0x0, 0x0, 0x3E8⟩ /- TIM_STEP_THRESH -/,
   ⟨0xF0030048, 1, 4, 0x0, 0x0, 0x0, 0x0, 0x0, 0x0⟩ /- TIM_MAINS -/,
   ⟨0xF0030050, 1, 4, 0x0, 0x0, 0x3FFF, 0x0, 0x0, 0x0⟩ /- TIM_INT_STAT -/,
   ⟨0xF0030054, 1, 4, 0x3FFF, 0x0, 0x0, 0x0, 0x0, 0x0⟩ /- TIM_INT_EN -/,
   ⟨0xF0030058, 1, 4, 0xFFFF, 0x0, 0x0, 0x0, 0x0, 0x2710⟩ /- TIM_START_WAIT -/,
   ⟨0xF0030100, 4, 256, 0xFFFFFFC7, 0x0, 0x0, 0x0, 0x0, 0x7F7FFF00⟩ /- TIM_TBn_CFG -/,
   ⟨0xF0030104, 4, 256, 0x0, 0x0, 0x0, 0x0, 0x0, 0x0⟩ /- TIM_TBn_STATE -/]

/-- Block ALM (R146). -/
def regsALM : List RegDesc :=
  [⟨0xF0040020, 1, 4, 0x0, 0x0, 0x0, 0x0, 0x0, 0x0⟩ /- ALM_POOL_SIZE -/,
   ⟨0xF0040024, 1, 4, 0x0, 0x0, 0x0, 0x0, 0x0, 0x0⟩ /- ALM_POOL_USED -/,
   ⟨0xF0040040, 1, 4, 0x0, 0x0, 0x0, 0xFFFFFFFF, 0x0, 0x0⟩ /- ALM_CNT_LATE -/,
   ⟨0xF0040044, 1, 4, 0x0, 0x0, 0x0, 0xFFFFFFFF, 0x0, 0x0⟩ /- ALM_CNT_DISCARD -/,
   ⟨0xF0040048, 1, 4, 0x0, 0x0, 0x0, 0xFFFFFFFF, 0x0, 0x0⟩ /- ALM_CNT_OVERFLOW -/,
   ⟨0xF004004C, 1, 4, 0x0, 0x0, 0x0, 0xFFFFFFFF, 0x0, 0x0⟩ /- ALM_CNT_SKIP -/,
   ⟨0xF0040050, 1, 4, 0x0, 0x0, 0x0, 0xFFFFFFFF, 0x0, 0x0⟩ /- ALM_CNT_MERGE -/,
   ⟨0xF0040080, 8, 4, 0x0, 0x0, 0x0, 0x0, 0x0, 0x0⟩ /- ALM_TRACE_DATA -/,
   ⟨0xF00400C0, 1, 4, 0x0, 0x0, 0x0, 0x0, 0x0, 0x0⟩ /- ALM_NEXT_LO -/,
   ⟨0xF00400C4, 1, 4, 0x0, 0x0, 0x0, 0x0, 0x0, 0x0⟩ /- ALM_NEXT_HI -/,
   ⟨0xF0041008, 256, 16, 0x0, 0x0, 0x0, 0x0, 0x0, 0x0⟩ /- ALM_Zz_LAST_LO -/,
   ⟨0xF004100C, 256, 16, 0x0, 0x0, 0x0, 0x0, 0x0, 0x0⟩ /- ALM_Zz_LAST_HI -/,
   ⟨0xF0040000, 1, 4, 0x2, 0x0, 0x0, 0x0, 0x0, 0x2⟩ /- ALM_CTRL -/,
   ⟨0xF0040008, 1, 4, 0xFFFFF, 0x0, 0x0, 0x0, 0x0, 0x0⟩ /- ALM_SYNC_OFFSET -/,
   ⟨0xF004000C, 1, 4, 0x7F, 0x0, 0x0, 0x0, 0x0, 0x14⟩ /- ALM_LAUNCH_LEAD -/,
   ⟨0xF0040010, 1, 4, 0xFFFFF, 0x0, 0x0, 0x0, 0x0, 0x0⟩ /- ALM_ADV_LANE -/,
   ⟨0xF0040014, 1, 4, 0xFFFFF, 0x0, 0x0, 0x0, 0x0, 0x0⟩ /- ALM_ADV_SHOW -/,
   ⟨0xF0040018, 1, 4, 0xFFFFF, 0x0, 0x0, 0x0, 0x0, 0x0⟩ /- ALM_ADV_DMX -/,
   ⟨0xF004001C, 1, 4, 0xFFFFF, 0x0, 0x0, 0x0, 0x0, 0x0⟩ /- ALM_ADV_RADIO -/,
   ⟨0xF0040030, 1, 4, 0x0, 0x0, 0x0, 0x0, 0x0, 0x0⟩ /- ALM_FILL0 -/,
   ⟨0xF0040034, 1, 4, 0x0, 0x0, 0x0, 0x0, 0x0, 0x0⟩ /- ALM_FILL1 -/,
   ⟨0xF0040060, 1, 4, 0x0, 0x0, 0x1F, 0x0, 0x0, 0x0⟩ /- ALM_INT_STAT -/,
   ⟨0xF0040064, 1, 4, 0x1F, 0x0, 0x0, 0x0, 0x0, 0x0⟩ /- ALM_INT_EN -/,
   ⟨0xF0040070, 1, 4, 0xFFFFFF00, 0x0, 0x0, 0x0, 0x2, 0x8000000⟩ /- ALM_TRACE_CTRL -/] ++
  [⟨0xF0040074, 1, 4, 0x3FF, 0x0, 0x0, 0x0, 0x0, 0x3FB⟩ /- ALM_TRACE_KIND -/,
   ⟨0xF0040078, 1, 4, 0x0, 0x0, 0x0, 0x0, 0x0, 0x0⟩ /- ALM_TRACE_STAT -/,
   ⟨0xF004007C, 1, 4, 0xFFF, 0x0, 0x0, 0x0, 0x0, 0x0⟩ /- ALM_TRACE_IDX -/,
   ⟨0xF00400A0, 8, 4, 0x0, 0x0, 0x0, 0x0, 0x0, 0x0⟩ /- ALM_RLn_DEPTH -/,
   ⟨0xF0041000, 256, 16, 0x0, 0x1FFFFF, 0x0, 0x0, 0x0, 0x0⟩ /- ALM_Zz_DELAY -/,
   ⟨0xF0041004, 256, 16, 0x0, 0x0, 0x0, 0xFFFF0000, 0x0, 0x0⟩ /- ALM_Zz_SLOTS -/]

/-- Block CHK (R179). -/
def regsCHK : List RegDesc :=
  [⟨0xF0050010, 1, 4, 0x0, 0x0, 0xFFFFFFFF, 0x0, 0x0, 0x0⟩ /- CHK_ALIVE_STAT0 -/,
   ⟨0xF0050014, 1, 4, 0x0, 0x0, 0xFFFFFFFF, 0x0, 0x0, 0x0⟩ /- CHK_ALIVE_STAT1 -/,
   ⟨0xF0050040, 1, 4, 0x0, 0x0, 0x0, 0xFFFFFFFF, 0x0, 0x0⟩ /- CHK_PAR_CNT -/,
   ⟨0xF0050044, 1, 4, 0x0, 0x0, 0x0, 0xFFFFFFFF, 0x0, 0x0⟩ /- CHK_SEC_CNT -/,
   ⟨0xF0050048, 1, 4, 0x0, 0x0, 0x0, 0xFFFFFFFF, 0x0, 0x0⟩ /- CHK_DED_CNT -/,
   ⟨0xF0050054, 1, 4, 0x0, 0x0, 0x0, 0x0, 0x0, 0x0⟩ /- CHK_ERR_ADDR_LO -/,
   ⟨0xF0050058, 1, 4, 0x0, 0x0, 0x0, 0x0, 0x0, 0x0⟩ /- CHK_ERR_ADDR_HI -/,
   ⟨0xF005005C, 1, 4, 0x0, 0x0, 0x0, 0x0, 0x0, 0x0⟩ /- CHK_ERR_FRAME -/,
   ⟨0xF0051004, 64, 32, 0xFFFFFFFF, 0x0, 0x0, 0x0, 0x0, 0xFFFFFFFF⟩ /- CHK_CHn_RUN -/,
   ⟨0xF0051008, 64, 32, 0x0, 0x0, 0x0, 0x0, 0x0, 0x0⟩ /- CHK_CHn_RESULT -/,
   ⟨0xF0051014, 64, 32, 0x0, 0x0, 0x0, 0x0, 0xFFFFFFFF, 0x0⟩ /- CHK_CHn_FEED -/,
   ⟨0xF0051018, 64, 32, 0x0, 0x0, 0x0, 0x0, 0x0, 0x0⟩ /- CHK_CHn_BYTES -/,
   ⟨0xF0050050, 1, 4, 0x0, 0x0, 0x80000000, 0x0, 0x0, 0x0⟩ /- CHK_ERR_CAP -/,
   ⟨0xF0050060, 1, 4, 0x0, 0x0, 0xF, 0x0, 0x0, 0x0⟩ /- CHK_INT_STAT -/,
   ⟨0xF0050064, 1, 4, 0xF, 0x0, 0x0, 0x0, 0x0, 0x0⟩ /- CHK_INT_EN -/,
   ⟨0xF0051000, 64, 32, 0xFF000058, 0x0, 0x0, 0x0, 0x23, 0xFF000018⟩ /- CHK_CHn_CTRL -/,
   ⟨0xF005100C, 64, 32, 0x1FFFF, 0x0, 0x0, 0x0, 0x0, 0x0⟩ /- CHK_CHn_ALIVE -/,
   ⟨0xF0051010, 64, 32, 0x0, 0x0, 0x0, 0xFFFFFFFF, 0x0, 0x0⟩ /- CHK_CHn_CNT -/]

/-- Block FIF (R180). -/
def regsFIF : List RegDesc :=
  [⟨0xF0060000, 1, 4, 0x0, 0x0, 0x0, 0x0, 0x0, 0x0⟩ /- FIF_PEND -/,
   ⟨0xF0060010, 1, 4, 0x0, 0x0, 0x3FFFF, 0x0, 0x0, 0x0⟩ /- FIF_FAULT_STAT -/,
   ⟨0xF0061008, 18, 64, 0x0, 0x0, 0x0, 0x0, 0x0, 0x0⟩ /- FIF_Qn_RD_LO -/,
   ⟨0xF006100C, 18, 64, 0x0, 0x0, 0x0, 0x0, 0x0, 0x0⟩ /- FIF_Qn_RD_HI -/,
   ⟨0xF0061000, 18, 64, 0x1FF, 0x0, 0x0, 0x0, 0x0, 0xFF⟩ /- FIF_Qn_CFG -/,
   ⟨0xF0061004, 18, 64, 0x0, 0x0, 0x0, 0x0, 0x0, 0x0⟩ /- FIF_Qn_LEVEL -/,
   ⟨0xF0061010, 18, 64, 0x0, 0x0, 0x0, 0x0, 0x0, 0x0⟩ /- FIF_Qn_RD_TAG -/,
   ⟨0xF0061014, 18, 64, 0x0, 0x0, 0x0, 0x0, 0x0, 0x0⟩ /- FIF_Qn_PTR -/,
   ⟨0xF0061018, 18, 64, 0x0, 0x0, 0x0, 0xFFFFFFFF, 0x0, 0x0⟩ /- FIF_Qn_CNT -/,
   ⟨0xF006101C, 18, 64, 0x0, 0x0, 0x3, 0x0, 0x0, 0x0⟩ /- FIF_Qn_STAT -/]

/-- Block VIN (R210). -/
def regsVIN : List RegDesc :=
  [⟨0xF0080000, 1, 4, 0x0, 0x0, 0x0, 0x0, 0x0, 0x0⟩ /- VIN_RUN -/,
   ⟨0xF0080020, 1, 4, 0x0, 0x0, 0x0, 0x0, 0x0, 0x0⟩ /- VIN_WR_RATE -/,
   ⟨0xF008100C, 28, 64, 0x0, 0x0, 0x0, 0x0, 0x0, 0x0⟩ /- VIN_Sn_SIZE -/,
   ⟨0xF0081010, 28, 64, 0x0, 0x0, 0x0, 0x0, 0x0, 0x0⟩ /- VIN_Sn_PERIOD -/,
   ⟨0xF0081014, 28, 64, 0x0, 0x0, 0x0, 0x0, 0x0, 0x0⟩ /- VIN_Sn_LEAD -/,
   ⟨0xF0081018, 28, 64, 0x0, 0x0, 0x0, 0x0, 0x0, 0x0⟩ /- VIN_Sn_DONE_LO -/,
   ⟨0xF008101C, 28, 64, 0x0, 0x0, 0x0, 0x0, 0x0, 0x0⟩ /- VIN_Sn_DONE_HI -/,
   ⟨0xF0081020, 28, 64, 0x0, 0x0, 0x0, 0xFFFFFFFF, 0x0, 0x0⟩ /- VIN_Sn_FRAMES -/,
   ⟨0xF0081024, 28, 64, 0x0, 0x0, 0x0, 0xFFFFFFFF, 0x0, 0x0⟩ /- VIN_Sn_DISCARD -/,
   ⟨0xF0081028, 28, 64, 0x0, 0x0, 0x0, 0xFFFFFFFF, 0x0, 0x0⟩ /- VIN_Sn_CRC -/,
   ⟨0xF008102C, 28, 64, 0x0, 0x0, 0x0, 0xFFFFFFFF, 0x0, 0x0⟩ /- VIN_Sn_MISS_A -/,
   ⟨0xF0081030, 28, 64, 0x0, 0x0, 0x0, 0xFFFFFFFF, 0x0, 0x0⟩ /- VIN_Sn_MISS_B -/,
   ⟨0xF0081034, 28, 64, 0x0, 0x0, 0x0, 0xFFFFFFFF, 0x0, 0x0⟩ /- VIN_Sn_LOST_BOTH -/,
   ⟨0xF0081038, 28, 64, 0x0, 0x0, 0x0, 0x0, 0x0, 0x0⟩ /- VIN_Sn_SKEW -/,
   ⟨0xF0082008, 16, 32, 0x0, 0x0, 0x0, 0xFFFFFFFF, 0x0, 0x0⟩ /- VIN_Ln_NOTREADY -/,
   ⟨0xF008200C, 16, 32, 0x0, 0x0, 0x0, 0xFFFFFFFF, 0x0, 0x0⟩ /- VIN_Ln_REPEAT -/,
   ⟨0xF0082010, 16, 32, 0x0, 0x0, 0x0, 0xFFFFFFFF, 0x0, 0x0⟩ /- VIN_Ln_DROP -/,
   ⟨0xF0082014, 16, 32, 0x0, 0x0, 0x0, 0x0, 0x0, 0x0⟩ /- VIN_Ln_SEQ -/,
   ⟨0xF0080010, 1, 4, 0x0, 0x0, 0x1F, 0x0, 0x0, 0x0⟩ /- VIN_INT_STAT -/,
   ⟨0xF0080014, 1, 4, 0x1F, 0x0, 0x0, 0x0, 0x0, 0x0⟩ /- VIN_INT_EN -/,
   ⟨0xF0081000, 28, 64, 0x0, 0xFF00FFFF, 0x0, 0x0, 0x0, 0x1F4⟩ /- VIN_Sn_CFG -/,
   ⟨0xF0081004, 28, 64, 0x0, 0xFFFFFFFF, 0x0, 0x0, 0x0, 0x0⟩ /- VIN_Sn_RASTER -/,
   ⟨0xF0081008, 28, 64, 0x0, 0x0, 0x0, 0x0, 0x0, 0x0⟩ /- VIN_Sn_STATE -/,
   ⟨0xF0082000, 16, 32, 0x0, 0xFF03FF, 0x0, 0x0, 0x0, 0xFF⟩ /- VIN_Ln_BIND -/] ++
  [⟨0xF0082004, 16, 32, 0x0, 0x0, 0x0, 0x0, 0x0, 0x7⟩ /- VIN_Ln_STAT -/]

/-- Block CMP (R241). -/
def regsCMP : List RegDesc :=
  [⟨0xF0100008, 1, 4, 0xFFFFFFFF, 0x0, 0x0, 0x0, 0x0, 0x0⟩ /- CMP_COMMIT_TAG -/,
   ⟨0xF010000C, 1, 4, 0x0, 0x0, 0x0, 0x0, 0x0, 0x0⟩ /- CMP_ACTIVE_TAG -/,
   ⟨0xF0100018, 1, 4, 0x0, 0xFFFFFFFF, 0x0, 0x0, 0x0, 0x0⟩ /- CMP_CANVAS_BASE_LO -/,
   ⟨0xF010001C, 1, 4, 0x0, 0xFFFFFFFF, 0x0, 0x0, 0x0, 0x0⟩ /- CMP_CANVAS_BASE_HI -/,
   ⟨0xF0100034, 1, 4, 0x0, 0x0, 0x0, 0x0, 0x0, 0x0⟩ /- CMP_FRAME -/,
   ⟨0xF0100040, 1, 4, 0x0, 0x0, 0x0, 0xFFFFFFFF, 0x0, 0x0⟩ /- CMP_CNT_OVERRUN -/,
   ⟨0xF0100044, 1, 4, 0x0, 0x0, 0x0, 0xFFFFFFFF, 0x0, 0x0⟩ /- CMP_CNT_REPAIR -/,
   ⟨0xF0100048, 1, 4, 0x0, 0x0, 0x0, 0xFFFFFFFF, 0x0, 0x0⟩ /- CMP_CNT_LATE -/,
   ⟨0xF0100050, 1, 4, 0x0, 0x0, 0x0, 0x0, 0x0, 0x0⟩ /- CMP_FETCH -/,
   ⟨0xF0100054, 1, 4, 0x0, 0x0, 0x0, 0x0, 0x0, 0x0⟩ /- CMP_CANVAS_TIME -/,
   ⟨0xF0101028, 16, 64, 0x0, 0x0, 0x0, 0x0, 0x0, 0x0⟩ /- CMP_Pp_FETCH -/,
   ⟨0xF0100000, 1, 4, 0x0, 0x0, 0x0, 0x0, 0x0, 0x0⟩ /- CMP_CTRL -/,
   ⟨0xF0100004, 1, 4, 0x0, 0x0, 0x0, 0x0, 0x1, 0x0⟩ /- CMP_COMMIT -/,
   ⟨0xF0100010, 1, 4, 0x0, 0xFFFFFFFF, 0x0, 0x0, 0x0, 0x0⟩ /- CMP_CANVAS_SIZE -/,
   ⟨0xF0100014, 1, 4, 0x0, 0xFFFF, 0x0, 0x0, 0x0, 0x3E8⟩ /- CMP_PEAK -/,
   ⟨0xF0100020, 1, 4, 0x0, 0xFFFFFFFF, 0x0, 0x0, 0x0, 0x0⟩ /- CMP_BG0 -/,
   ⟨0xF0100024, 1, 4, 0x0, 0xFFFFFFFF, 0x0, 0x0, 0x0, 0xFFFF⟩ /- CMP_BG1 -/,
   ⟨0xF0100030, 1, 4, 0x0, 0x0, 0x0, 0x0, 0x0, 0x0⟩ /- CMP_STAT -/,
   ⟨0xF0100060, 1, 4, 0x0, 0x0, 0x7, 0x0, 0x0, 0x0⟩ /- CMP_INT_STAT -/,
   ⟨0xF0100064, 1, 4, 0x7, 0x0, 0x0, 0x0, 0x0, 0x0⟩ /- CMP_INT_EN -/,
   ⟨0xF0100080, 8, 4, 0x0, 0x0, 0x0, 0x0, 0x0, 0x0⟩ /- CMP_POOLn_USE -/,
   ⟨0xF0101000, 16, 64, 0x0, 0xCFFF7F77, 0x0, 0x0, 0x0, 0xFF0040⟩ /- CMP_Pp_CTRL -/,
   ⟨0xF0101004, 16, 64, 0x0, 0xFFFFFFFF, 0x0, 0x0, 0x0, 0x0⟩ /- CMP_Pp_CROP_XY -/,
   ⟨0xF0101008, 16, 64, 0x0, 0xFFFFFFFF, 0x0, 0x0, 0x0, 0x0⟩ /- CMP_Pp_CROP_WH -/] ++
  [⟨0xF010100C, 16, 64, 0x0, 0xFFFFFFFF, 0x0, 0x0, 0x0, 0x0⟩ /- CMP_Pp_DST_XY -/,
   ⟨0xF0101010, 16, 64, 0x0, 0xFFFFFFFF, 0x0, 0x0, 0x0, 0x0⟩ /- CMP_Pp_DST_WH -/,
   ⟨0xF0101014, 16, 64, 0x0, 0xFFFFFFFF, 0x0, 0x0, 0x0, 0x0⟩ /- CMP_Pp_KEY_A -/,
   ⟨0xF0101018, 16, 64, 0x0, 0xFFFFFFFF, 0x0, 0x0, 0x0, 0x0⟩ /- CMP_Pp_KEY_B -/,
   ⟨0xF010101C, 16, 64, 0x0, 0x3FFFF, 0x0, 0x0, 0x0, 0x8000⟩ /- CMP_Pp_BLEND -/,
   ⟨0xF0101020, 16, 64, 0x0, 0xFFFFFFFF, 0x0, 0x0, 0x0, 0x60000000⟩ /- CMP_Pp_TONE -/,
   ⟨0xF0101024, 16, 64, 0x0, 0xFF, 0x0, 0x0, 0x0, 0x0⟩ /- CMP_Pp_CTX -/]

/-- Block RAS (R267). -/
def regsRAS : List RegDesc :=
  [⟨0xF0140008, 1, 4, 0xFFFFFFFF, 0x0, 0x0, 0x0, 0x0, 0x0⟩ /- RAS_COMMIT_TAG -/,
   ⟨0xF014000C, 1, 4, 0x0, 0x0, 0x0, 0x0, 0x0, 0x0⟩ /- RAS_ACTIVE_TAG -/,
   ⟨0xF0140014, 1, 4, 0x0, 0xFFFFFFFF, 0x0, 0x0, 0x0, 0x0⟩ /- RAS_OFFSET -/,
   ⟨0xF0140030, 1, 4, 0x0, 0xFFFFFFFF, 0x0, 0x0, 0x0, 0x0⟩ /- RAS_STORE_BASE_LO -/,
   ⟨0xF0140034, 1, 4, 0x0, 0xFFFFFFFF, 0x0, 0x0, 0x0, 0x0⟩ /- RAS_STORE_BASE_HI -/,
   ⟨0xF0140040, 1, 4, 0x0, 0x0, 0x0, 0x0, 0x0, 0x0⟩ /- RAS_FRAME_LO -/,
   ⟨0xF0140044, 1, 4, 0x0, 0x0, 0x0, 0x0, 0x0, 0x0⟩ /- RAS_FRAME_HI -/,
   ⟨0xF0140048, 1, 4, 0x0, 0x0, 0x0, 0x0, 0x0, 0x0⟩ /- RAS_GRID_K_LO -/,
   ⟨0xF014004C, 1, 4, 0x0, 0x0, 0x0, 0x0, 0x0, 0x0⟩ /- RAS_GRID_K_HI -/,
   ⟨0xF0140054, 1, 4, 0x0, 0x0, 0x0, 0x0, 0x0, 0x0⟩ /- RAS_CANVAS -/,
   ⟨0xF0140058, 1, 4, 0x0, 0x0, 0x0, 0x0, 0x0, 0xFFFFFFFF⟩ /- RAS_LTR -/,
   ⟨0xF0140060, 1, 4, 0x0, 0x0, 0x0, 0xFFFFFFFF, 0x0, 0x0⟩ /- RAS_CNT_UNDERRUN -/,
   ⟨0xF0140064, 1, 4, 0x0, 0x0, 0x0, 0xFFFFFFFF, 0x0, 0x0⟩ /- RAS_CNT_REPEAT -/,
   ⟨0xF0140068, 1, 4, 0x0, 0x0, 0x0, 0xFFFFFFFF, 0x0, 0x0⟩ /- RAS_CNT_READBACK -/,
   ⟨0xF014006C, 1, 4, 0x0, 0x0, 0x0, 0xFFFFFFFF, 0x0, 0x0⟩ /- RAS_CNT_SLIP -/,
   ⟨0xF0140070, 1, 4, 0x0, 0x0, 0x0, 0xFFFFFFFF, 0x0, 0x0⟩ /- RAS_CNT_PERR -/,
   ⟨0xF0140000, 1, 4, 0x0, 0x0, 0x0, 0x0, 0x0, 0x0⟩ /- RAS_CTRL -/,
   ⟨0xF0140004, 1, 4, 0x0, 0x0, 0x0, 0x0, 0x1, 0x0⟩ /- RAS_COMMIT -/,
   ⟨0xF0140010, 1, 4, 0x0, 0xEF8FF007, 0x0, 0x0, 0x0, 0x8010000⟩ /- RAS_CFG -/,
   ⟨0xF0140018, 1, 4, 0x0, 0xFFFFFFFF, 0x0, 0x0, 0x0, 0x0⟩ /- RAS_WIN_XY -/,
   ⟨0xF014001C, 1, 4, 0x0, 0xFFFFFFFF, 0x0, 0x0, 0x0, 0x0⟩ /- RAS_WIN_WH -/,
   ⟨0xF0140020, 1, 4, 0x0, 0xFFFFFFFF, 0x0, 0x0, 0x0, 0x0⟩ /- RAS_OUT_XY -/,
   ⟨0xF0140024, 1, 4, 0x0, 0x8F8F, 0x0, 0x0, 0x0, 0x101⟩ /- RAS_SCALE -/,
   ⟨0xF0140028, 1, 4, 0x0, 0x3FFFFFFF, 0x0, 0x0, 0x0, 0x4080200⟩ /- RAS_BORDER -/] ++
  [⟨0xF014002C, 1, 4, 0x0, 0xFFFFFFFF, 0x0, 0x0, 0x0, 0xA0000⟩ /- RAS_WHITE_PULL -/,
   ⟨0xF0140038, 1, 4, 0x80000FFF, 0x0, 0x0, 0x0, 0x0, 0x0⟩ /- RAS_LMATCH -/,
   ⟨0xF0140050, 1, 4, 0x0, 0x0, 0x0, 0x0, 0x0, 0xFFFF0000⟩ /- RAS_POS -/,
   ⟨0xF014005C, 1, 4, 0x0, 0x0, 0x0, 0x0, 0x0, 0x0⟩ /- RAS_STAT -/,
   ⟨0xF0140078, 1, 4, 0x0, 0x0, 0x3F, 0x0, 0x0, 0x0⟩ /- RAS_INT_STAT -/,
   ⟨0xF014007C, 1, 4, 0x3F, 0x0, 0x0, 0x0, 0x0, 0x0⟩ /- RAS_INT_EN -/]

/-- Block FXM (R304). -/
def regsFXM : List RegDesc :=
  [⟨0xF0180008, 1, 4, 0xFFFFFFFF, 0x0, 0x0, 0x0, 0x0, 0x0⟩ /- FXM_COMMIT_TAG -/,
   ⟨0xF018000C, 1, 4, 0x0, 0x0, 0x0, 0x0, 0x0, 0x0⟩ /- FXM_ACTIVE_TAG -/,
   ⟨0xF0180010, 1, 4, 0x0, 0x0, 0x0, 0x0, 0x0, 0x0⟩ /- FXM_FIXTURES -/,
   ⟨0xF0180014, 1, 4, 0x0, 0x0, 0x0, 0x0, 0x0, 0x0⟩ /- FXM_SEGMENTS -/,
   ⟨0xF0180018, 1, 4, 0x0, 0x0, 0x0, 0x0, 0x0, 0x0⟩ /- FXM_ATTRS -/,
   ⟨0xF018001C, 1, 4, 0x0, 0x0, 0x0, 0x0, 0x0, 0x0⟩ /- FXM_PIXELS -/,
   ⟨0xF0180020, 1, 4, 0x0, 0x0, 0x0, 0x0, 0x0, 0x0⟩ /- FXM_EPOCH_LO -/,
   ⟨0xF0180024, 1, 4, 0x0, 0x0, 0x0, 0x0, 0x0, 0x0⟩ /- FXM_EPOCH_HI -/,
   ⟨0xF0180040, 1, 4, 0x0, 0x0, 0x0, 0xFFFFFFFF, 0x0, 0x0⟩ /- FXM_CNT_HIT -/,
   ⟨0xF0180044, 1, 4, 0x0, 0x0, 0x0, 0xFFFFFFFF, 0x0, 0x0⟩ /- FXM_CNT_MISS -/,
   ⟨0xF0180048, 1, 4, 0x0, 0x0, 0x0, 0xFFFFFFFF, 0x0, 0x0⟩ /- FXM_CNT_STALE -/,
   ⟨0xF018004C, 1, 4, 0x0, 0x0, 0x0, 0xFFFFFFFF, 0x0, 0x0⟩ /- FXM_CNT_REWRITE -/,
   ⟨0xF0180050, 1, 4, 0x0, 0x0, 0x0, 0xFFFFFFFF, 0x0, 0x0⟩ /- FXM_CNT_SHED -/,
   ⟨0xF0180080, 16, 4, 0x0, 0x0, 0x0, 0x0, 0x0, 0x0⟩ /- FXM_ENTRY_DATA -/,
   ⟨0xF0181004, 256, 16, 0x0, 0x0, 0x0, 0x0, 0x0, 0x0⟩ /- FXM_Zz_PIXELS -/,
   ⟨0xF0181008, 256, 16, 0x0, 0x0, 0x0, 0x0, 0x0, 0x0⟩ /- FXM_Zz_FIXTURES -/,
   ⟨0xF0180000, 1, 4, 0x0, 0x0, 0x0, 0x0, 0x0, 0x0⟩ /- FXM_CTRL -/,
   ⟨0xF0180004, 1, 4, 0x0, 0x0, 0x0, 0x0, 0x1, 0x0⟩ /- FXM_COMMIT -/,
   ⟨0xF0180060, 1, 4, 0x0, 0x0, 0xF, 0x0, 0x0, 0x0⟩ /- FXM_INT_STAT -/,
   ⟨0xF0180064, 1, 4, 0xF, 0x0, 0x0, 0x0, 0x0, 0x0⟩ /- FXM_INT_EN -/,
   ⟨0xF018007C, 1, 4, 0x1FFFF, 0x0, 0x0, 0x0, 0x0, 0x0⟩ /- FXM_ENTRY_IDX -/,
   ⟨0xF0181000, 256, 16, 0x0, 0xEF00FFFF, 0x0, 0x0, 0x0, 0x8080⟩ /- FXM_Zz_CFG -/,
   ⟨0xF018100C, 256, 16, 0x0, 0x0, 0x0, 0x0, 0x0, 0x0⟩ /- FXM_Zz_STAT -/]

/-- Block MAP (R334). -/
def regsMAP : List RegDesc :=
  [⟨0xF0200010, 1, 4, 0x0, 0x0, 0x0, 0x0, 0x0, 0x0⟩ /- MAP_FRAME -/,
   ⟨0xF0200014, 1, 4, 0x0, 0x0, 0x0, 0x0, 0x0, 0x0⟩ /- MAP_TILES -/,
   ⟨0xF0200018, 1, 4, 0x0, 0x0, 0x0, 0x0, 0x0, 0x0⟩ /- MAP_TILES_DONE -/,
   ⟨0xF020001C, 1, 4, 0xFFFFFFFF, 0x0, 0x0, 0x0, 0x0, 0xFA00⟩ /- MAP_TIMEOUT -/,
   ⟨0xF0200020, 1, 4, 0x0, 0xFFFFFFFF, 0x0, 0x0, 0x0, 0x0⟩ /- MAP_TILE_BASE_LO -/,
   ⟨0xF0200024, 1, 4, 0x0, 0xFFFFFFFF, 0x0, 0x0, 0x0, 0x0⟩ /- MAP_TILE_BASE_HI -/,
   ⟨0xF0200028, 1, 4, 0x0, 0x0, 0x0, 0x0, 0x0, 0x0⟩ /- MAP_DEADLINE_LO -/,
   ⟨0xF020002C, 1, 4, 0x0, 0x0, 0x0, 0x0, 0x0, 0x0⟩ /- MAP_DEADLINE_HI -/,
   ⟨0xF0200030, 1, 4, 0x0, 0x0, 0x0, 0x0, 0x0, 0x0⟩ /- MAP_MAPTIME -/,
   ⟨0xF0200034, 1, 4, 0x0, 0x0, 0x0, 0x0, 0x0, 0x0⟩ /- MAP_LASTTIME -/,
   ⟨0xF0200040, 1, 4, 0x0, 0x0, 0x0, 0xFFFFFFFF, 0x0, 0x0⟩ /- MAP_CNT_LOST -/,
   ⟨0xF0200044, 1, 4, 0x0, 0x0, 0x0, 0xFFFFFFFF, 0x0, 0x0⟩ /- MAP_CNT_LATE -/,
   ⟨0xF0200048, 1, 4, 0x0, 0x0, 0x0, 0xFFFFFFFF, 0x0, 0x0⟩ /- MAP_CNT_TRAP -/,
   ⟨0xF020004C, 1, 4, 0x0, 0x0, 0x0, 0xFFFFFFFF, 0x0, 0x0⟩ /- MAP_CNT_WAIT -/,
   ⟨0xF0200050, 1, 4, 0x0, 0x0, 0x0, 0xFFFFFFFF, 0x0, 0x0⟩ /- MAP_CNT_SELFTEST -/,
   ⟨0xF0200074, 1, 4, 0x0, 0x0, 0x0, 0x0, 0x0, 0x0⟩ /- MAP_CRC_DATA -/,
   ⟨0xF0200800, 256, 4, 0x0, 0x0, 0x0, 0xFFFFFFFF, 0x0, 0x0⟩ /- MAP_ZLATEz -/,
   ⟨0xF0201004, 8, 256, 0x0, 0x0, 0x0, 0x0, 0x0, 0xFFFFFFFF⟩ /- MAP_En_TILE -/,
   ⟨0xF0201008, 8, 256, 0x0, 0x0, 0x0, 0xFFFFFFFF, 0x0, 0x0⟩ /- MAP_En_TILES -/,
   ⟨0xF020100C, 8, 256, 0x0, 0x0, 0x0, 0x0, 0x0, 0x0⟩ /- MAP_En_CLOCKS -/,
   ⟨0xF0201010, 8, 256, 0x0, 0x0, 0x0, 0xFFFFFFFF, 0x0, 0x0⟩ /- MAP_En_PERR -/,
   ⟨0xF0201014, 8, 256, 0x0, 0x0, 0x0, 0xFFFFFFFF, 0x0, 0x0⟩ /- MAP_En_TRAP -/,
   ⟨0xF0200000, 1, 4, 0x0, 0x0, 0x0, 0x0, 0x0, 0x0⟩ /- MAP_CTRL -/,
   ⟨0xF0200004, 1, 4, 0x0, 0x0, 0x0, 0x0, 0x0, 0x0⟩ /- MAP_ROLES -/] ++
  [⟨0xF0200008, 1, 4, 0x0, 0x0, 0x0, 0x0, 0x0, 0x0⟩ /- MAP_FAILED -/,
   ⟨0xF020000C, 1, 4, 0xF, 0x0, 0x0, 0x0, 0x0, 0xF⟩ /- MAP_SPARE_PREF -/,
   ⟨0xF0200060, 1, 4, 0x0, 0x0, 0x3F, 0x0, 0x0, 0x0⟩ /- MAP_INT_STAT -/,
   ⟨0xF0200064, 1, 4, 0x3F, 0x0, 0x0, 0x0, 0x0, 0x0⟩ /- MAP_INT_EN -/,
   ⟨0xF0200070, 1, 4, 0xFFFF, 0x0, 0x0, 0x0, 0x0, 0x0⟩ /- MAP_CRC_IDX -/,
   ⟨0xF0200078, 1, 4, 0x0, 0x0, 0x0, 0x0, 0x0, 0x0⟩ /- MAP_CRC_INFO -/,
   ⟨0xF0201000, 8, 256, 0x0, 0x0, 0x0, 0x0, 0x0, 0xF000000⟩ /- MAP_En_STAT -/]

/-- Block PHO (R364, R365). -/
def regsPHO : List RegDesc :=
  [⟨0xF0240010, 1, 4, 0x0, 0xFFFFFFFF, 0x0, 0x0, 0x0, 0x0⟩ /- PHO_CAL_BASE_LO -/,
   ⟨0xF0240014, 1, 4, 0x0, 0xFFFFFFFF, 0x0, 0x0, 0x0, 0x0⟩ /- PHO_CAL_BASE_HI -/,
   ⟨0xF0240018, 1, 4, 0x0, 0x0, 0x0, 0x0, 0x0, 0x0⟩ /- PHO_FRAME -/,
   ⟨0xF0240020, 1, 4, 0x0, 0x0, 0x0, 0x0, 0x0, 0x0⟩ /- PHO_CURVE_LOADED0 -/,
   ⟨0xF0240024, 1, 4, 0x0, 0x0, 0x0, 0x0, 0x0, 0x0⟩ /- PHO_CURVE_LOADED1 -/,
   ⟨0xF0240028, 1, 4, 0x0, 0x0, 0x0, 0x0, 0x0, 0x0⟩ /- PHO_CURVE_BANK0 -/,
   ⟨0xF024002C, 1, 4, 0x0, 0x0, 0x0, 0x0, 0x0, 0x0⟩ /- PHO_CURVE_BANK1 -/,
   ⟨0xF0240040, 1, 4, 0x0, 0x0, 0x0, 0xFFFFFFFF, 0x0, 0x0⟩ /- PHO_CNT_CLIP_HI -/,
   ⟨0xF0240044, 1, 4, 0x0, 0x0, 0x0, 0xFFFFFFFF, 0x0, 0x0⟩ /- PHO_CNT_CLIP_LO -/,
   ⟨0xF0240048, 1, 4, 0x0, 0x0, 0x0, 0xFFFFFFFF, 0x0, 0x0⟩ /- PHO_CNT_DESAT -/,
   ⟨0xF024004C, 1, 4, 0x0, 0x0, 0x0, 0xFFFFFFFF, 0x0, 0x0⟩ /- PHO_CNT_SCALE -/,
   ⟨0xF0240050, 1, 4, 0x0, 0x0, 0x0, 0xFFFFFFFF, 0x0, 0x0⟩ /- PHO_CNT_HOLD -/,
   ⟨0xF0240054, 1, 4, 0x0, 0x0, 0x0, 0xFFFFFFFF, 0x0, 0x0⟩ /- PHO_CNT_NOTEMP -/,
   ⟨0xF024007C, 1, 4, 0x0, 0x0, 0x0, 0x0, 0x0, 0x0⟩ /- PHO_CURVE_DATA -/,
   ⟨0xF0240000, 1, 4, 0x0, 0x0, 0x0, 0x0, 0x0, 0x0⟩ /- PHO_CTRL -/,
   ⟨0xF0240004, 1, 4, 0xF, 0x0, 0x0, 0x0, 0x0, 0x0⟩ /- PHO_TEST -/,
   ⟨0xF0240038, 1, 4, 0xFFFF, 0x0, 0x0, 0x0, 0x0, 0x7D0⟩ /- PHO_TSTALE -/,
   ⟨0xF0240060, 1, 4, 0x0, 0x0, 0xF, 0x0, 0x0, 0x0⟩ /- PHO_INT_STAT -/,
   ⟨0xF0240064, 1, 4, 0xF, 0x0, 0x0, 0x0, 0x0, 0x0⟩ /- PHO_INT_EN -/,
   ⟨0xF0240070, 1, 4, 0x7FFF, 0x0, 0x0, 0x0, 0x0, 0x0⟩ /- PHO_TEMP_IDX -/,
   ⟨0xF0240074, 1, 4, 0x0, 0x0, 0x0, 0x0, 0x0, 0x0⟩ /- PHO_TEMP_DATA -/,
   ⟨0xF0240078, 1, 4, 0x3FFFF, 0x0, 0x0, 0x0, 0x0, 0x0⟩ /- PHO_CURVE_IDX -/,
   ⟨0xF0240400, 256, 4, 0x8000FFFF, 0x0, 0x0, 0x0, 0x0, 0x0⟩ /- PHO_ZTEMPz -/]

/-- Block LNE (R404). -/
def regsLNE : List RegDesc :=
  [⟨0xF0280004, 1, 4, 0x0, 0xFFFFFFFF, 0x0, 0x0, 0x0, 0x186A0⟩ /- LNE_LATCH_TARGET -/,
   ⟨0xF028000C, 1, 4, 0x0, 0x0, 0x0, 0x0, 0x0, 0x0⟩ /- LNE_UP -/,
   ⟨0xF0280010, 1, 4, 0x0, 0x0, 0x0, 0x0, 0x0, 0x0⟩ /- LNE_FOLDED -/,
   ⟨0xF0280014, 1, 4, 0x0, 0x0, 0x0, 0x0, 0x0, 0x0⟩ /- LNE_FAULT -/,
   ⟨0xF0281008, 32, 128, 0x0, 0xFFFFFFFF, 0x0, 0x0, 0x0, 0xFA00⟩ /- LNE_Ln_TURN -/,
   ⟨0xF028100C, 32, 128, 0x0, 0xFFFFFFFF, 0x0, 0x0, 0x0, 0x0⟩ /- LNE_Ln_ASYM -/,
   ⟨0xF0281010, 32, 128, 0x0, 0xFFFFFFFF, 0x0, 0x0, 0x0, 0x30D40⟩ /- LNE_Ln_ACK_TO -/,
   ⟨0xF0281014, 32, 128, 0x0, 0x0, 0x0, 0x0, 0x0, 0x0⟩ /- LNE_Ln_DMAX -/,
   ⟨0xF0281018, 32, 128, 0x0, 0x0, 0x0, 0x0, 0x0, 0x0⟩ /- LNE_Ln_PIXELS -/,
   ⟨0xF028101C, 32, 128, 0x0, 0x0, 0x0, 0x0, 0x0, 0x0⟩ /- LNE_Ln_BUSY -/,
   ⟨0xF0281024, 32, 128, 0x0, 0x0, 0x0, 0x0, 0x0, 0xFFFFFFFF⟩ /- LNE_Ln_RANGE_D -/,
   ⟨0xF0281030, 32, 128, 0x0, 0x0, 0x0, 0xFFFFFFFF, 0x0, 0x0⟩ /- LNE_Ln_CNT_FRAMES -/,
   ⟨0xF0281034, 32, 128, 0x0, 0x0, 0x0, 0xFFFFFFFF, 0x0, 0x0⟩ /- LNE_Ln_CNT_LATE -/,
   ⟨0xF0281038, 32, 128, 0x0, 0x0, 0x0, 0xFFFFFFFF, 0x0, 0x0⟩ /- LNE_Ln_CNT_RETRY -/,
   ⟨0xF028103C, 32, 128, 0x0, 0x0, 0x0, 0xFFFFFFFF, 0x0, 0x0⟩ /- LNE_Ln_CNT_UNREACH -/,
   ⟨0xF0281040, 32, 128, 0x0, 0x0, 0x0, 0xFFFFFFFF, 0x0, 0x0⟩ /- LNE_Ln_CNT_DUP -/,
   ⟨0xF0281044, 32, 128, 0x0, 0x0, 0x0, 0xFFFFFFFF, 0x0, 0x0⟩ /- LNE_Ln_CNT_RXERR -/,
   ⟨0xF0281048, 32, 128, 0x0, 0x0, 0x0, 0xFFFFFFFF, 0x0, 0x0⟩ /- LNE_Ln_CNT_SYNC -/,
   ⟨0xF028104C, 32, 128, 0x0, 0x0, 0x0, 0xFFFFFFFF, 0x0, 0x0⟩ /- LNE_Ln_CNT_MISS -/,
   ⟨0xF0281050, 32, 128, 0x0, 0x0, 0x0, 0xFFFFFFFF, 0x0, 0x0⟩ /- LNE_Ln_CNT_FOLD -/,
   ⟨0xF0281058, 32, 128, 0x0, 0x0, 0x0, 0x0, 0x0, 0x0⟩ /- LNE_Ln_LAST_SYNC_LO -/,
   ⟨0xF028105C, 32, 128, 0x0, 0x0, 0x0, 0x0, 0x0, 0x0⟩ /- LNE_Ln_LAST_SYNC_HI -/,
   ⟨0xF0280000, 1, 4, 0x0, 0x0, 0x0, 0x0, 0x0, 0x0⟩ /- LNE_CTRL -/,
   ⟨0xF0280008, 1, 4, 0x0, 0x3FFF, 0x0, 0x0, 0x0, 0x1F4⟩ /- LNE_COLLECT -/] ++
  [⟨0xF0280060, 1, 4, 0x0, 0x0, 0x3F, 0x0, 0x0, 0x0⟩ /- LNE_INT_STAT -/,
   ⟨0xF0280064, 1, 4, 0x3F, 0x0, 0x0, 0x0, 0x0, 0x0⟩ /- LNE_INT_EN -/,
   ⟨0xF0281000, 32, 128, 0x0, 0xFF00FFFF, 0x0, 0x0, 0x0, 0x580007D0⟩ /- LNE_Ln_CFG -/,
   ⟨0xF0281004, 32, 128, 0x0, 0x0, 0x0, 0x0, 0x0, 0x0⟩ /- LNE_Ln_STAT -/,
   ⟨0xF0281020, 32, 128, 0x3FF, 0x0, 0x0, 0x0, 0x0, 0x0⟩ /- LNE_Ln_RANGE_IDX -/,
   ⟨0xF0281028, 32, 128, 0x0, 0x0, 0x0, 0x0, 0x0, 0x0⟩ /- LNE_Ln_LATCH -/]

/-- Block STR (R426). -/
def regsSTR : List RegDesc :=
  [⟨0xF02C0004, 1, 4, 0x0, 0x0, 0x0, 0x0, 0x0, 0x0⟩ /- STR_LANES -/,
   ⟨0xF02C0040, 1, 4, 0x0, 0x0, 0x0, 0xFFFFFFFF, 0x0, 0x0⟩ /- STR_CNT_OPEN -/,
   ⟨0xF02C0044, 1, 4, 0x0, 0x0, 0x0, 0xFFFFFFFF, 0x0, 0x0⟩ /- STR_CNT_SHORT -/,
   ⟨0xF02C0048, 1, 4, 0x0, 0x0, 0x0, 0xFFFFFFFF, 0x0, 0x0⟩ /- STR_CNT_STRING -/,
   ⟨0xF02C004C, 1, 4, 0x0, 0x0, 0x0, 0xFFFFFFFF, 0x0, 0x0⟩ /- STR_CNT_FULL -/,
   ⟨0xF02C0050, 1, 4, 0x0, 0x0, 0x0, 0x0, 0x0, 0x0⟩ /- STR_TABLE -/,
   ⟨0xF02C1010, 32, 64, 0x0, 0x0, 0x0, 0x0, 0x0, 0x0⟩ /- STR_Ln_FAILED -/,
   ⟨0xF02C1014, 32, 64, 0x0, 0x0, 0x0, 0x0, 0x0, 0x0⟩ /- STR_Ln_POLL -/,
   ⟨0xF02C1018, 32, 64, 0x0, 0x0, 0x0, 0xFFFFFFFF, 0x0, 0x0⟩ /- STR_Ln_CNT_MAPREAD -/,
   ⟨0xF02C0000, 1, 4, 0x0, 0x0, 0x0, 0x0, 0x0, 0x0⟩ /- STR_CTRL -/,
   ⟨0xF02C0060, 1, 4, 0x0, 0x0, 0xF, 0x0, 0x0, 0x0⟩ /- STR_INT_STAT -/,
   ⟨0xF02C0064, 1, 4, 0xF, 0x0, 0x0, 0x0, 0x0, 0x0⟩ /- STR_INT_EN -/,
   ⟨0xF02C0070, 1, 4, 0x3FFF, 0x0, 0x0, 0x0, 0x0, 0x0⟩ /- STR_FT_IDX -/,
   ⟨0xF02C0074, 1, 4, 0x0, 0x0, 0x0, 0x0, 0x0, 0x0⟩ /- STR_FT_DATA -/,
   ⟨0xF02C1000, 32, 64, 0x0, 0xFFFFFF3F, 0x0, 0x0, 0x0, 0x9E373200⟩ /- STR_Ln_CFG -/,
   ⟨0xF02C1004, 32, 64, 0x0, 0xFFFFFFFF, 0x0, 0x0, 0x0, 0xC800C8⟩ /- STR_Ln_ISET01 -/,
   ⟨0xF02C1008, 32, 64, 0x0, 0xFFFF, 0x0, 0x0, 0x0, 0xC8⟩ /- STR_Ln_ISET2 -/,
   ⟨0xF02C100C, 32, 64, 0x0, 0xFFFFFFFF, 0x0, 0x0, 0x0, 0x17700320⟩ /- STR_Ln_VTH -/]

/-- Block MAC (R462). -/
def regsMAC : List RegDesc :=
  [⟨0xF0300010, 1, 4, 0xFFFFFFFF, 0x0, 0x0, 0x0, 0x0, 0x0⟩ /- MAC_ADDR_LO -/,
   ⟨0xF0300014, 1, 4, 0xFFFF, 0x0, 0x0, 0x0, 0x0, 0x0⟩ /- MAC_ADDR_HI -/,
   ⟨0xF0300034, 1, 4, 0x0, 0x0, 0x0, 0x0, 0x0, 0x0⟩ /- MAC_TSQ_TS_LO -/,
   ⟨0xF0300038, 1, 4, 0x0, 0x0, 0x0, 0x0, 0x0, 0x0⟩ /- MAC_TSQ_TS_HI -/,
   ⟨0xF0300060, 8, 4, 0x0, 0x0, 0x0, 0x0, 0x0, 0x0⟩ /- MAC_CLS_DATA -/,
   ⟨0xF0300100, 8, 32, 0xFFFFFFFF, 0x0, 0x0, 0x0, 0x0, 0x0⟩ /- MAC_RRr_BASE_LO -/,
   ⟨0xF0300104, 8, 32, 0xFFFFFFFF, 0x0, 0x0, 0x0, 0x0, 0x0⟩ /- MAC_RRr_BASE_HI -/,
   ⟨0xF0300110, 8, 32, 0x0, 0x0, 0x0, 0xFFFFFFFF, 0x0, 0x0⟩ /- MAC_RRr_DROP -/,
   ⟨0xF0300400, 24, 8, 0x0, 0x0, 0x0, 0xFFFFFFFF, 0x0, 0x0⟩ /- MAC_TALLYi_LO -/,
   ⟨0xF0300404, 24, 8, 0x0, 0x0, 0x0, 0x0, 0x0, 0x0⟩ /- MAC_TALLYi_HI -/,
   ⟨0xF0300000, 1, 4, 0x7, 0x0, 0x0, 0x0, 0x0, 0x0⟩ /- MAC_CTRL -/,
   ⟨0xF0300004, 1, 4, 0xFF03FF, 0x0, 0x0, 0x0, 0x0, 0xFF0122⟩ /- MAC_CFG -/,
   ⟨0xF0300008, 1, 4, 0x0, 0x0, 0x0, 0x0, 0x0, 0x0⟩ /- MAC_STAT -/,
   ⟨0xF030000C, 1, 4, 0x3FFF, 0x0, 0x0, 0x0, 0x0, 0x2580⟩ /- MAC_MTU -/,
   ⟨0xF0300018, 1, 4, 0x7, 0x0, 0x0, 0x0, 0x0, 0x0⟩ /- MAC_PAIR -/,
   ⟨0xF0300020, 1, 4, 0xFFFFFFFF, 0x0, 0x0, 0x0, 0x0, 0x3E80064⟩ /- MAC_WD -/,
   ⟨0xF0300024, 1, 4, 0x0, 0x0, 0x0, 0x0, 0x0, 0x0⟩ /- MAC_PAUSE_STAT -/,
   ⟨0xF0300028, 1, 4, 0xFFFF, 0x0, 0x0, 0x0, 0x0, 0x3E8⟩ /- MAC_LAUNCH_WIN -/,
   ⟨0xF030002C, 1, 4, 0x0, 0x0, 0x0, 0x0, 0x0, 0x0⟩ /- MAC_LAUNCH_STAT -/,
   ⟨0xF0300030, 1, 4, 0x0, 0x0, 0x0, 0x0, 0x0, 0x0⟩ /- MAC_TSQ_ID -/,
   ⟨0xF030003C, 1, 4, 0x0, 0x0, 0x80000000, 0x0, 0x0, 0x0⟩ /- MAC_TSQ_STAT -/,
   ⟨0xF0300040, 1, 4, 0x0, 0x0, 0x7F, 0x0, 0x0, 0x0⟩ /- MAC_INT_STAT -/,
   ⟨0xF0300044, 1, 4, 0x7F, 0x0, 0x0, 0x0, 0x0, 0x0⟩ /- MAC_INT_EN -/,
   ⟨0xF0300050, 1, 4, 0x3F, 0x0, 0x0, 0x0, 0x0, 0x0⟩ /- MAC_CLS_IDX -/] ++
  [⟨0xF0300108, 8, 32, 0xFF01000F, 0x0, 0x0, 0x0, 0x0, 0xFF000006⟩ /- MAC_RRr_CFG -/,
   ⟨0xF030010C, 8, 32, 0xFFFF, 0x0, 0x0, 0x0, 0x0, 0x0⟩ /- MAC_RRr_PTR -/,
   ⟨0xF0300200, 8, 4, 0x0, 0x0, 0x0, 0x0, 0x0, 0x0⟩ /- MAC_TQn_STAT -/]

/-- Block MAC10 (R462). -/
def regsMAC10 : List RegDesc :=
  [⟨0xF0300808, 1, 4, 0xFFFFFFFF, 0x0, 0x0, 0x0, 0x0, 0x0⟩ /- MAC_WAKE_PW_LO -/,
   ⟨0xF030080C, 1, 4, 0xFFFF, 0x0, 0x0, 0x0, 0x0, 0x0⟩ /- MAC_WAKE_PW_HI -/,
   ⟨0xF0300810, 1, 4, 0x0, 0x0, 0x0, 0xFFFFFFFF, 0x0, 0x0⟩ /- MAC_WAKE_CNT -/,
   ⟨0xF0300A00, 128, 4, 0xFFFFFFFF, 0x0, 0x0, 0x0, 0x0, 0x0⟩ /- MAC_WAKE_PATq -/,
   ⟨0xF0300C00, 16, 4, 0xFFFFFFFF, 0x0, 0x0, 0x0, 0x0, 0x0⟩ /- MAC_WAKE_MASKq -/,
   ⟨0xF0300800, 1, 4, 0xF7, 0x0, 0x0, 0x0, 0x0, 0x0⟩ /- MAC_WAKE_CTRL -/,
   ⟨0xF0300804, 1, 4, 0x0, 0x0, 0x80000000, 0x0, 0x0, 0x0⟩ /- MAC_WAKE_STAT -/]

/-- Block PKT (R490). -/
def regsPKT : List RegDesc :=
  [⟨0xF0400010, 1, 4, 0x0, 0x0, 0x0, 0x0, 0x0, 0x0⟩ /- PKT_FLOWS -/,
   ⟨0xF0400014, 1, 4, 0x0, 0x0, 0x0, 0x0, 0x0, 0x0⟩ /- PKT_RXU -/,
   ⟨0xF0400040, 1, 4, 0x0, 0x0, 0x0, 0xFFFFFFFF, 0x0, 0x0⟩ /- PKT_CNT_TX -/,
   ⟨0xF0400044, 1, 4, 0x0, 0x0, 0x0, 0xFFFFFFFF, 0x0, 0x0⟩ /- PKT_CNT_LATE -/,
   ⟨0xF0400048, 1, 4, 0x0, 0x0, 0x0, 0xFFFFFFFF, 0x0, 0x0⟩ /- PKT_CNT_SYNC -/,
   ⟨0xF040004C, 1, 4, 0x0, 0x0, 0x0, 0xFFFFFFFF, 0x0, 0x0⟩ /- PKT_CNT_RX -/,
   ⟨0xF0400050, 1, 4, 0x0, 0x0, 0x0, 0xFFFFFFFF, 0x0, 0x0⟩ /- PKT_CNT_RXDROP -/,
   ⟨0xF0400054, 1, 4, 0x0, 0x0, 0x0, 0xFFFFFFFF, 0x0, 0x0⟩ /- PKT_CNT_RXLOSS -/,
   ⟨0xF0400080, 16, 4, 0x0, 0x0, 0x0, 0x0, 0x0, 0x0⟩ /- PKT_FLOW_DATA -/,
   ⟨0xF04000C0, 2, 4, 0x0, 0x0, 0x0, 0x0, 0x0, 0x0⟩ /- PKT_RXU_DATA -/,
   ⟨0xF0401004, 8, 64, 0x0, 0x0, 0x0, 0x0, 0x0, 0x0⟩ /- PKT_En_FLOWS -/,
   ⟨0xF0401008, 8, 64, 0x0, 0x0, 0x0, 0x0, 0x0, 0x0⟩ /- PKT_En_LOAD -/,
   ⟨0xF040100C, 8, 64, 0x0, 0x0, 0x0, 0xFFFFFFFF, 0x0, 0x0⟩ /- PKT_En_CNT_PKTS -/,
   ⟨0xF0401010, 8, 64, 0x0, 0x0, 0x0, 0xFFFFFFFF, 0x0, 0x0⟩ /- PKT_En_CNT_TRAP -/,
   ⟨0xF0400000, 1, 4, 0x0, 0x0, 0x0, 0x0, 0x0, 0x0⟩ /- PKT_CTRL -/,
   ⟨0xF0400060, 1, 4, 0x0, 0x0, 0xF, 0x0, 0x0, 0x0⟩ /- PKT_INT_STAT -/,
   ⟨0xF0400064, 1, 4, 0xF, 0x0, 0x0, 0x0, 0x0, 0x0⟩ /- PKT_INT_EN -/,
   ⟨0xF0400070, 1, 4, 0x3FFF, 0x0, 0x0, 0x0, 0x0, 0x0⟩ /- PKT_FLOW_IDX -/,
   ⟨0xF0400074, 1, 4, 0x3FFF, 0x0, 0x0, 0x0, 0x0, 0x0⟩ /- PKT_RXU_IDX -/,
   ⟨0xF0401000, 8, 64, 0x0, 0x0, 0x0, 0x0, 0x0, 0x0⟩ /- PKT_En_STAT -/]

/-- Block DMX (R491). -/
def regsDMX : List RegDesc :=
  [⟨0xF0440004, 1, 4, 0x0, 0x0, 0x0, 0x0, 0x0, 0x0⟩ /- DMX_OUT -/,
   ⟨0xF0441010, 16, 64, 0x0, 0x0, 0x0, 0xFFFFFFFF, 0x0, 0x0⟩ /- DMX_Pn_CNT_FRAMES -/,
   ⟨0xF0441014, 16, 64, 0x0, 0x0, 0x0, 0xFFFFFFFF, 0x0, 0x0⟩ /- DMX_Pn_CNT_SKIP -/,
   ⟨0xF0441018, 16, 64, 0x0, 0x0, 0x0, 0xFFFFFFFF, 0x0, 0x0⟩ /- DMX_Pn_CNT_RDM -/,
   ⟨0xF044101C, 16, 64, 0x0, 0x0, 0x0, 0xFFFFFFFF, 0x0, 0x0⟩ /- DMX_Pn_CNT_RDM_TO -/,
   ⟨0xF0441020, 16, 64, 0x0, 0x0, 0x0, 0xFFFFFFFF, 0x0, 0x0⟩ /- DMX_Pn_CNT_RXERR -/,
   ⟨0xF0441024, 16, 64, 0x0, 0x0, 0x0, 0x0, 0x0, 0x0⟩ /- DMX_Pn_LAST_LO -/,
   ⟨0xF0441028, 16, 64, 0x0, 0x0, 0x0, 0x0, 0x0, 0x0⟩ /- DMX_Pn_LAST_HI -/,
   ⟨0xF0440000, 1, 4, 0x0, 0x0, 0x0, 0x0, 0x0, 0x0⟩ /- DMX_CTRL -/,
   ⟨0xF0440060, 1, 4, 0x0, 0x0, 0xF, 0x0, 0x0, 0x0⟩ /- DMX_INT_STAT -/,
   ⟨0xF0440064, 1, 4, 0xF, 0x0, 0x0, 0x0, 0x0, 0x0⟩ /- DMX_INT_EN -/,
   ⟨0xF0441000, 16, 64, 0x0, 0xEFFF3FFF, 0x0, 0x0, 0x0, 0x1080000⟩ /- DMX_Pn_CFG -/,
   ⟨0xF0441004, 16, 64, 0x0, 0xFFFFFFFF, 0x0, 0x0, 0x0, 0xB00010⟩ /- DMX_Pn_TIMING -/,
   ⟨0xF0441008, 16, 64, 0x0, 0xFF0003FF, 0x0, 0x0, 0x0, 0x0⟩ /- DMX_Pn_SLOTS -/,
   ⟨0xF044100C, 16, 64, 0x0, 0x0, 0x0, 0x0, 0x0, 0x0⟩ /- DMX_Pn_STAT -/]

/-- Block RAD (R520). -/
def regsRAD : List RegDesc :=
  [⟨0xF0480008, 1, 4, 0xFFFFFFFF, 0x0, 0x0, 0x0, 0x0, 0x1F4⟩ /- RAD_CUE_LEAD -/,
   ⟨0xF048000C, 1, 4, 0xFFFFFFFF, 0x0, 0x0, 0x0, 0x0, 0x3E8⟩ /- RAD_REFRESH -/,
   ⟨0xF0480010, 1, 4, 0x0, 0x0, 0x0, 0x0, 0x0, 0x0⟩ /- RAD_NODES -/,
   ⟨0xF0480014, 1, 4, 0x0, 0x0, 0x0, 0x0, 0x0, 0x0⟩ /- RAD_ONLINE -/,
   ⟨0xF0480018, 1, 4, 0x0, 0x0, 0x0, 0x0, 0x0, 0x0⟩ /- RAD_LOSTN -/,
   ⟨0xF048001C, 1, 4, 0x0, 0x0, 0x0, 0x0, 0x0, 0x0⟩ /- RAD_STALE -/,
   ⟨0xF0480040, 1, 4, 0x0, 0x0, 0x0, 0xFFFFFFFF, 0x0, 0x0⟩ /- RAD_CNT_DEFER -/,
   ⟨0xF0480044, 1, 4, 0x0, 0x0, 0x0, 0xFFFFFFFF, 0x0, 0x0⟩ /- RAD_CNT_CUE -/,
   ⟨0xF0480048, 1, 4, 0x0, 0x0, 0x0, 0xFFFFFFFF, 0x0, 0x0⟩ /- RAD_CNT_CUE_LATE -/,
   ⟨0xF048004C, 1, 4, 0x0, 0x0, 0x0, 0xFFFFFFFF, 0x0, 0x0⟩ /- RAD_CNT_JOIN_UNKNOWN -/,
   ⟨0xF0480050, 1, 4, 0x0, 0x0, 0x0, 0xFFFFFFFF, 0x0, 0x0⟩ /- RAD_CNT_PIECES -/,
   ⟨0xF04800A0, 4, 4, 0x0, 0x0, 0x0, 0x0, 0x0, 0x0⟩ /- RAD_NODE_DATA -/,
   ⟨0xF0481008, 2, 256, 0xFFFFFFFF, 0x0, 0x0, 0x0, 0x0, 0x0⟩ /- RAD_Xn_SEED -/,
   ⟨0xF0481010, 2, 256, 0xFFFFFFFF, 0x0, 0x0, 0x0, 0x0, 0x0⟩ /- RAD_Xn_MASK_LO -/,
   ⟨0xF0481014, 2, 256, 0xFFFFFFFF, 0x0, 0x0, 0x0, 0x0, 0x0⟩ /- RAD_Xn_MASK_HI -/,
   ⟨0xF048101C, 2, 256, 0xFFFFFFFF, 0x0, 0x0, 0x0, 0x0, 0x57E40⟩ /- RAD_Xn_HOUR_LIMIT -/,
   ⟨0xF0481024, 2, 256, 0x0, 0x0, 0x0, 0x0, 0x0, 0x0⟩ /- RAD_Xn_SLOT_LO -/,
   ⟨0xF0481028, 2, 256, 0x0, 0x0, 0x0, 0x0, 0x0, 0x0⟩ /- RAD_Xn_SLOT_HI -/,
   ⟨0xF048102C, 2, 256, 0x0, 0x0, 0x0, 0x0, 0x0, 0x0⟩ /- RAD_Xn_DWELL_MAX -/,
   ⟨0xF0481030, 2, 256, 0x0, 0x0, 0x0, 0x0, 0x0, 0x0⟩ /- RAD_Xn_HOUR_USED -/,
   ⟨0xF0481040, 2, 256, 0x0, 0x0, 0x0, 0xFFFFFFFF, 0x0, 0x0⟩ /- RAD_Xn_CNT_TX -/,
   ⟨0xF0481044, 2, 256, 0x0, 0x0, 0x0, 0xFFFFFFFF, 0x0, 0x0⟩ /- RAD_Xn_CNT_BUSY -/,
   ⟨0xF0481048, 2, 256, 0x0, 0x0, 0x0, 0xFFFFFFFF, 0x0, 0x0⟩ /- RAD_Xn_CNT_DWELL -/,
   ⟨0xF048104C, 2, 256, 0x0, 0x0, 0x0, 0xFFFFFFFF, 0x0, 0x0⟩ /- RAD_Xn_CNT_RX -/] ++
  [⟨0xF0481050, 2, 256, 0x0, 0x0, 0x0, 0xFFFFFFFF, 0x0, 0x0⟩ /- RAD_Xn_CNT_CRC -/,
   ⟨0xF0481054, 2, 256, 0x0, 0x0, 0x0, 0xFFFFFFFF, 0x0, 0x0⟩ /- RAD_Xn_CNT_BEACON_MISS -/,
   ⟨0xF0481058, 2, 256, 0x0, 0x0, 0x0, 0xFFFFFFFF, 0x0, 0x0⟩ /- RAD_Xn_CNT_POLL_MISS -/,
   ⟨0xF0480000, 1, 4, 0x0, 0x0, 0x0, 0x0, 0x0, 0x0⟩ /- RAD_CTRL -/,
   ⟨0xF0480004, 1, 4, 0xF, 0x0, 0x0, 0x0, 0x0, 0x8⟩ /- RAD_REPEAT -/,
   ⟨0xF0480020, 1, 4, 0x0, 0x0, 0x0, 0x0, 0x0, 0x0⟩ /- RAD_FW -/,
   ⟨0xF0480060, 1, 4, 0x0, 0x0, 0x1F, 0x0, 0x0, 0x0⟩ /- RAD_INT_STAT -/,
   ⟨0xF0480064, 1, 4, 0x1F, 0x0, 0x0, 0x0, 0x0, 0x0⟩ /- RAD_INT_EN -/,
   ⟨0xF0480070, 1, 4, 0xFFFF, 0x0, 0x0, 0x0, 0x0, 0x0⟩ /- RAD_NODE_IDX -/,
   ⟨0xF0481000, 2, 256, 0x8F10FFFF, 0x0, 0x0, 0x0, 0x0, 0x0⟩ /- RAD_Xn_CFG -/,
   ⟨0xF0481004, 2, 256, 0xFFFFFF00, 0x0, 0x0, 0x0, 0x0, 0x0⟩ /- RAD_Xn_POWER -/,
   ⟨0xF0481018, 2, 256, 0x0, 0x0, 0x0, 0x0, 0x0, 0x0⟩ /- RAD_Xn_TRIM -/,
   ⟨0xF0481020, 2, 256, 0x0, 0x0, 0x0, 0x0, 0x0, 0x0⟩ /- RAD_Xn_STAT -/]

/-- Block ESC (R549). -/
def regsESC : List RegDesc :=
  [⟨0xF04C0020, 1, 4, 0x0, 0x0, 0x0, 0x0, 0x0, 0x0⟩ /- ESC_REC_SEQ -/,
   ⟨0xF04C0024, 1, 4, 0x0, 0x0, 0x0, 0x0, 0x0, 0x0⟩ /- ESC_REC_FRAME -/,
   ⟨0xF04C0028, 1, 4, 0x0, 0x0, 0x0, 0x0, 0x0, 0x0⟩ /- ESC_TX_SEQ -/,
   ⟨0xF04C0040, 1, 4, 0x0, 0x0, 0x0, 0xFFFFFFFF, 0x0, 0x0⟩ /- ESC_CNT_TX -/,
   ⟨0xF04C0044, 1, 4, 0x0, 0x0, 0x0, 0xFFFFFFFF, 0x0, 0x0⟩ /- ESC_CNT_RX -/,
   ⟨0xF04C0048, 1, 4, 0x0, 0x0, 0x0, 0xFFFFFFFF, 0x0, 0x0⟩ /- ESC_CNT_INCOMPLETE -/,
   ⟨0xF04C004C, 1, 4, 0x0, 0x0, 0x0, 0xFFFFFFFF, 0x0, 0x0⟩ /- ESC_CNT_FRAG_ERR -/,
   ⟨0xF04C0050, 1, 4, 0x0, 0x0, 0x0, 0xFFFFFFFF, 0x0, 0x0⟩ /- ESC_CNT_STALE -/,
   ⟨0xF04C0054, 1, 4, 0x0, 0x0, 0x0, 0xFFFFFFFF, 0x0, 0x0⟩ /- ESC_CNT_SHADOW -/,
   ⟨0xF04C0058, 1, 4, 0x0, 0x0, 0x0, 0xFFFFFFFF, 0x0, 0x0⟩ /- ESC_CNT_MISMATCH -/,
   ⟨0xF04C005C, 1, 4, 0x0, 0x0, 0x0, 0xFFFFFFFF, 0x0, 0x0⟩ /- ESC_CNT_PROBE_MISS -/,
   ⟨0xF04C0068, 1, 4, 0x0, 0x0, 0x0, 0xFFFFFFFF, 0x0, 0x0⟩ /- ESC_CNT_AUTH -/,
   ⟨0xF04C0100, 16, 4, 0x0, 0x0, 0x0, 0x0, 0x0, 0x0⟩ /- ESC_Gg_SEQ -/,
   ⟨0xF04C0140, 16, 4, 0x0, 0x0, 0x0, 0x0, 0x0, 0x0⟩ /- ESC_Gg_LEFT -/,
   ⟨0xF04C0000, 1, 4, 0x0, 0x0, 0x0, 0x0, 0x0, 0x0⟩ /- ESC_CTRL -/,
   ⟨0xF04C0004, 1, 4, 0xFFF0003, 0x0, 0x0, 0x0, 0x0, 0xAF0000⟩ /- ESC_CFG -/,
   ⟨0xF04C0008, 1, 4, 0xFFFFFFFF, 0x0, 0x0, 0x0, 0x0, 0x64⟩ /- ESC_LEASE -/,
   ⟨0xF04C000C, 1, 4, 0xFFFF0000, 0x0, 0x0, 0x0, 0x0, 0x0⟩ /- ESC_HELD -/,
   ⟨0xF04C0010, 1, 4, 0x0, 0x0, 0x0, 0x0, 0x0, 0x30⟩ /- ESC_STAT -/,
   ⟨0xF04C0060, 1, 4, 0x0, 0x0, 0x1F, 0x0, 0x0, 0x0⟩ /- ESC_INT_STAT -/,
   ⟨0xF04C0064, 1, 4, 0x1F, 0x0, 0x0, 0x0, 0x0, 0x0⟩ /- ESC_INT_EN -/,
   ⟨0xF04C0070, 1, 4, 0x0, 0x0, 0x0, 0x0, 0x0, 0x0⟩ /- ESC_PATH -/]

/-- Block TLR (R580). -/
def regsTLR : List RegDesc :=
  [⟨0xF0500010, 1, 4, 0x0, 0x0, 0x0, 0x0, 0x0, 0x0⟩ /- TLR_LAST_TAG_LO -/,
   ⟨0xF0500014, 1, 4, 0x0, 0x0, 0x0, 0x0, 0x0, 0x0⟩ /- TLR_LAST_TAG_HI -/,
   ⟨0xF0500018, 1, 4, 0x0, 0x0, 0x0, 0x0, 0x0, 0x0⟩ /- TLR_FORCE_TAG_LO -/,
   ⟨0xF050001C, 1, 4, 0x0, 0x0, 0x0, 0x0, 0x0, 0x0⟩ /- TLR_FORCE_TAG_HI -/,
   ⟨0xF0500040, 1, 4, 0x0, 0x0, 0x0, 0xFFFFFFFF, 0x0, 0x0⟩ /- TLR_CNT_CMD -/,
   ⟨0xF0500044, 1, 4, 0x0, 0x0, 0x0, 0xFFFFFFFF, 0x0, 0x0⟩ /- TLR_CNT_DUP -/,
   ⟨0xF0500048, 1, 4, 0x0, 0x0, 0x0, 0xFFFFFFFF, 0x0, 0x0⟩ /- TLR_CNT_GAP -/,
   ⟨0xF050004C, 1, 4, 0x0, 0x0, 0x0, 0xFFFFFFFF, 0x0, 0x0⟩ /- TLR_CNT_STALE -/,
   ⟨0xF0500050, 1, 4, 0x0, 0x0, 0x0, 0xFFFFFFFF, 0x0, 0x0⟩ /- TLR_CNT_BAD -/,
   ⟨0xF0500054, 1, 4, 0x0, 0x0, 0x0, 0xFFFFFFFF, 0x0, 0x0⟩ /- TLR_CNT_AUTH -/,
   ⟨0xF0500058, 1, 4, 0x0, 0x0, 0x0, 0xFFFFFFFF, 0x0, 0x0⟩ /- TLR_CNT_REJECT -/,
   ⟨0xF050005C, 1, 4, 0x0, 0x0, 0x0, 0xFFFFFFFF, 0x0, 0x0⟩ /- TLR_CNT_LATE -/,
   ⟨0xF0500068, 1, 4, 0x0, 0x0, 0x0, 0xFFFFFFFF, 0x0, 0x0⟩ /- TLR_CNT_NTC -/,
   ⟨0xF050006C, 1, 4, 0x0, 0x0, 0x0, 0xFFFFFFFF, 0x0, 0x0⟩ /- TLR_CNT_NTC_LOST -/,
   ⟨0xF0500070, 1, 4, 0x0, 0x0, 0x0, 0xFFFFFFFF, 0x0, 0x0⟩ /- TLR_RSP_MAX -/,
   ⟨0xF0500000, 1, 4, 0x0, 0x0, 0x0, 0x0, 0x0, 0x0⟩ /- TLR_CTRL -/,
   ⟨0xF0500004, 1, 4, 0x0, 0x0, 0x0, 0x0, 0x0, 0x31⟩ /- TLR_VERSION -/,
   ⟨0xF0500008, 1, 4, 0x0, 0x0, 0x0, 0x0, 0x0, 0xE000⟩ /- TLR_SESS -/,
   ⟨0xF050000C, 1, 4, 0x0, 0x0, 0x0, 0x0, 0x0, 0x0⟩ /- TLR_STAGES -/,
   ⟨0xF0500060, 1, 4, 0x0, 0x0, 0xF, 0x0, 0x0, 0x0⟩ /- TLR_INT_STAT -/,
   ⟨0xF0500064, 1, 4, 0xF, 0x0, 0x0, 0x0, 0x0, 0x0⟩ /- TLR_INT_EN -/,
   ⟨0xF0500074, 1, 4, 0xFFFF, 0x0, 0x0, 0x0, 0x0, 0xBA68⟩ /- TLR_UDP -/]

/-- Block HST (R581). -/
def regsHST : List RegDesc :=
  [⟨0xF0600014, 1, 4, 0x0, 0x0, 0x0, 0x0, 0x0, 0x0⟩ /- HST_RSP_WR -/,
   ⟨0xF0600018, 1, 4, 0x0, 0x0, 0x0, 0x0, 0x0, 0x0⟩ /- HST_RSP_RD -/,
   ⟨0xF0600040, 1, 4, 0x0, 0x0, 0x0, 0xFFFFFFFF, 0x0, 0x0⟩ /- HST_CNT_RINGERR -/,
   ⟨0xF0600044, 1, 4, 0x0, 0x0, 0x0, 0xFFFFFFFF, 0x0, 0x0⟩ /- HST_CNT_RESET -/,
   ⟨0xF0600048, 1, 4, 0x0, 0x0, 0x0, 0xFFFFFFFF, 0x0, 0x0⟩ /- HST_CNT_LINKDOWN -/,
   ⟨0xF0600000, 1, 4, 0x0, 0x0, 0x0, 0x0, 0x0, 0x0⟩ /- HST_CTRL -/,
   ⟨0xF0600004, 1, 4, 0x0, 0x0, 0x0, 0x0, 0x0, 0x0⟩ /- HST_LINK -/,
   ⟨0xF0600008, 1, 4, 0x0, 0x0, 0x0, 0x0, 0x0, 0x1F8A9200⟩ /- HST_ID -/,
   ⟨0xF0600010, 1, 4, 0x0, 0x0, 0x0, 0x0, 0x0, 0x0⟩ /- HST_CMD_PTR -/,
   ⟨0xF060001C, 1, 4, 0x0, 0x0, 0x0, 0x0, 0x0, 0x0⟩ /- HST_NTC_PTR -/,
   ⟨0xF0600060, 1, 4, 0x0, 0x0, 0x7, 0x0, 0x0, 0x0⟩ /- HST_INT_STAT -/,
   ⟨0xF0600064, 1, 4, 0x7, 0x0, 0x0, 0x0, 0x0, 0x0⟩ /- HST_INT_EN -/]

/-- Block PWR (R603). -/
def regsPWR : List RegDesc :=
  [⟨0xF0010010, 1, 4, 0x0, 0x0, 0x0, 0x0, 0x0, 0x0⟩ /- PWR_RTC_LO -/,
   ⟨0xF0010014, 1, 4, 0x0, 0x0, 0x0, 0x0, 0x0, 0x0⟩ /- PWR_RTC_HI -/,
   ⟨0xF0010018, 1, 4, 0xFFFFFFFF, 0x0, 0x0, 0x0, 0x0, 0x0⟩ /- PWR_ALARM_LO -/,
   ⟨0xF001001C, 1, 4, 0xFFFF, 0x0, 0x0, 0x0, 0x0, 0x0⟩ /- PWR_ALARM_HI -/,
   ⟨0xF0010040, 1, 4, 0x0, 0x0, 0x0, 0xFFFFFFFF, 0x0, 0x0⟩ /- PWR_CNT_W1 -/,
   ⟨0xF0010044, 1, 4, 0x0, 0x0, 0x0, 0xFFFFFFFF, 0x0, 0x0⟩ /- PWR_CNT_SR -/,
   ⟨0xF0010048, 1, 4, 0x0, 0x0, 0x0, 0xFFFFFFFF, 0x0, 0x0⟩ /- PWR_CNT_PD2 -/,
   ⟨0xF001004C, 1, 4, 0x0, 0x0, 0x0, 0x0, 0x0, 0xFFFFFFFF⟩ /- PWR_DRAM_TOL -/,
   ⟨0xF0010100, 14, 16, 0xFFFFFFFF, 0x0, 0x0, 0x0, 0x0, 0xFFFFFFFF⟩ /- PWR_Dd_LAT -/,
   ⟨0xF0010108, 14, 16, 0x0, 0x0, 0x0, 0xFFFFFFFF, 0x0, 0x0⟩ /- PWR_Dd_CNT -/,
   ⟨0xF0010000, 1, 4, 0x0, 0x0, 0x0, 0x0, 0x0, 0x80000303⟩ /- PWR_MODE -/,
   ⟨0xF0010004, 1, 4, 0xFFFF00FF, 0x0, 0x0, 0x0, 0x0, 0x140058⟩ /- PWR_SAG -/,
   ⟨0xF0010008, 1, 4, 0x0, 0x0, 0x0, 0x0, 0x0, 0x0⟩ /- PWR_SAG_STAT -/,
   ⟨0xF001000C, 1, 4, 0x0, 0x0, 0x0, 0x0, 0x0, 0xFF00⟩ /- PWR_RESET -/,
   ⟨0xF0010020, 1, 4, 0x7, 0x0, 0x0, 0x0, 0x0, 0x2⟩ /- PWR_WAKE -/,
   ⟨0xF0010024, 1, 4, 0xFFFF, 0x0, 0x0, 0x0, 0x0, 0x64⟩ /- PWR_WDOG -/,
   ⟨0xF0010028, 1, 4, 0x0, 0x0, 0x0, 0x0, 0x0, 0x0⟩ /- PWR_DRAM -/,
   ⟨0xF0010060, 1, 4, 0x0, 0x0, 0x1F, 0x0, 0x0, 0x0⟩ /- PWR_INT_STAT -/,
   ⟨0xF0010064, 1, 4, 0x1F, 0x0, 0x0, 0x0, 0x0, 0x0⟩ /- PWR_INT_EN -/,
   ⟨0xF0010104, 14, 16, 0x0, 0x0, 0x0, 0x0, 0x0, 0x3⟩ /- PWR_Dd_STAT -/]

/-- Block PVT (R604). -/
def regsPVT : List RegDesc :=
  [⟨0xF0020040, 1, 4, 0x0, 0x0, 0x0, 0xFFFFFFFF, 0x0, 0x0⟩ /- PVT_CNT_WARN -/,
   ⟨0xF0020044, 1, 4, 0x0, 0x0, 0x0, 0xFFFFFFFF, 0x0, 0x0⟩ /- PVT_CNT_SHED -/,
   ⟨0xF0020048, 1, 4, 0x0, 0x0, 0x0, 0xFFFFFFFF, 0x0, 0x0⟩ /- PVT_CNT_VALARM -/,
   ⟨0xF0020300, 32, 4, 0x0, 0x0, 0x0, 0x0, 0x0, 0x0⟩ /- PVT_Pn -/,
   ⟨0xF0020000, 1, 4, 0x0, 0x0, 0x0, 0x0, 0x0, 0x1⟩ /- PVT_CTRL -/,
   ⟨0xF0020004, 1, 4, 0x0, 0x0, 0x0, 0x0, 0x0, 0x0⟩ /- PVT_TMAX -/,
   ⟨0xF0020008, 1, 4, 0xFFFFFFFF, 0x0, 0x0, 0x0, 0x0, 0x64005F0⟩ /- PVT_TLIM_SHOW -/,
   ⟨0xF002000C, 1, 4, 0xFFFFFFFF, 0x0, 0x0, 0x0, 0x0, 0x6900640⟩ /- PVT_TLIM_SOAK -/,
   ⟨0xF0020010, 1, 4, 0x0, 0x0, 0x0, 0x0, 0x0, 0x80000000⟩ /- PVT_AVS -/,
   ⟨0xF0020060, 1, 4, 0x0, 0x0, 0x7, 0x0, 0x0, 0x0⟩ /- PVT_INT_STAT -/,
   ⟨0xF0020064, 1, 4, 0x7, 0x0, 0x0, 0x0, 0x0, 0x0⟩ /- PVT_INT_EN -/,
   ⟨0xF0020100, 24, 4, 0x0, 0x0, 0x0, 0x0, 0x0, 0x0⟩ /- PVT_Tn -/,
   ⟨0xF0020200, 14, 4, 0x0, 0x0, 0x0, 0x0, 0x0, 0x0⟩ /- PVT_Vn -/]

/-- Block CAL (R625). -/
def regsCAL : List RegDesc :=
  [⟨0xF05C0008, 1, 4, 0x0, 0x0, 0x0, 0x0, 0x0, 0x0⟩ /- CAL_GEN -/,
   ⟨0xF05C000C, 1, 4, 0x0, 0x0, 0x0, 0x0, 0x0, 0x0⟩ /- CAL_COUNT -/,
   ⟨0xF05C0010, 1, 4, 0x0, 0x0, 0x0, 0x0, 0x0, 0x0⟩ /- CAL_LAST_LO -/,
   ⟨0xF05C0014, 1, 4, 0x0, 0x0, 0x0, 0x0, 0x0, 0x0⟩ /- CAL_LAST_HI -/,
   ⟨0xF05C0018, 1, 4, 0x0, 0x0, 0x0, 0x0, 0x0, 0x0⟩ /- CAL_UTC_LO -/,
   ⟨0xF05C001C, 1, 4, 0x0, 0x0, 0x0, 0x0, 0x0, 0x0⟩ /- CAL_UTC_HI -/,
   ⟨0xF05C0024, 1, 4, 0xFFFFFFFF, 0x0, 0x0, 0x0, 0x0, 0x0⟩ /- CAL_REF_FREQ -/,
   ⟨0xF05C0028, 1, 4, 0xFFFFFFFF, 0x0, 0x0, 0x0, 0x0, 0x0⟩ /- CAL_SYNC_DELAY -/,
   ⟨0xF05C0040, 1, 4, 0x0, 0x0, 0x0, 0xFFFFFFFF, 0x0, 0x0⟩ /- CAL_CNT_PASS -/,
   ⟨0xF05C0044, 1, 4, 0x0, 0x0, 0x0, 0xFFFFFFFF, 0x0, 0x0⟩ /- CAL_CNT_UNSTABLE -/,
   ⟨0xF05C0048, 1, 4, 0x0, 0x0, 0x0, 0xFFFFFFFF, 0x0, 0x0⟩ /- CAL_CNT_WRFAIL -/,
   ⟨0xF05C0074, 3, 4, 0x0, 0x0, 0x0, 0x0, 0x0, 0x0⟩ /- CAL_ITEM_DATA -/,
   ⟨0xF05C0000, 1, 4, 0x0, 0x0, 0x0, 0x0, 0x0, 0x0⟩ /- CAL_CTRL -/,
   ⟨0xF05C0004, 1, 4, 0x0, 0x0, 0x0, 0x0, 0x0, 0xF8000⟩ /- CAL_STAT -/,
   ⟨0xF05C0020, 1, 4, 0xFF, 0x0, 0x0, 0x0, 0x0, 0x80⟩ /- CAL_HKC_TRIM -/,
   ⟨0xF05C0060, 1, 4, 0x0, 0x0, 0x7, 0x0, 0x0, 0x0⟩ /- CAL_INT_STAT -/,
   ⟨0xF05C0064, 1, 4, 0x7, 0x0, 0x0, 0x0, 0x0, 0x0⟩ /- CAL_INT_EN -/,
   ⟨0xF05C0070, 1, 4, 0xFFFFFF, 0x0, 0x0, 0x0, 0x0, 0x0⟩ /- CAL_ITEM_IDX -/,
   ⟨0xF05C0100, 32, 4, 0x1FF, 0x0, 0x0, 0x0, 0x0, 0x0⟩ /- CAL_SKEWl -/]

/-- Block VLT (R654). -/
def regsVLT : List RegDesc :=
  [⟨0xF0540014, 1, 4, 0x0, 0x0, 0x0, 0x0, 0x0, 0x0⟩ /- VLT_BANK0_VER -/,
   ⟨0xF054001C, 1, 4, 0x0, 0x0, 0x0, 0x0, 0x0, 0x0⟩ /- VLT_BANK1_VER -/,
   ⟨0xF0540040, 1, 4, 0x0, 0x0, 0x0, 0x0, 0x0, 0x0⟩ /- VLT_CNT_SIGFAIL -/,
   ⟨0xF0540044, 1, 4, 0x0, 0x0, 0x0, 0x0, 0x0, 0x0⟩ /- VLT_CNT_CRCFAIL -/,
   ⟨0xF0540048, 1, 4, 0x0, 0x0, 0x0, 0x0, 0x0, 0x0⟩ /- VLT_CNT_UNAUTH -/,
   ⟨0xF054004C, 1, 4, 0x0, 0x0, 0x0, 0x0, 0x0, 0x0⟩ /- VLT_CNT_RESEED -/,
   ⟨0xF0540000, 1, 4, 0x0, 0x0, 0x0, 0x0, 0x0, 0x0⟩ /- VLT_STATE -/,
   ⟨0xF0540004, 1, 4, 0x0, 0x0, 0x0, 0x0, 0x0, 0xFF00⟩ /- VLT_BOOT -/,
   ⟨0xF0540010, 1, 4, 0x0, 0x0, 0x0, 0x0, 0x0, 0x0⟩ /- VLT_BANK0 -/,
   ⟨0xF0540018, 1, 4, 0x0, 0x0, 0x0, 0x0, 0x0, 0x0⟩ /- VLT_BANK1 -/,
   ⟨0xF0540020, 1, 4, 0x0, 0x0, 0x0, 0x0, 0x0, 0x0⟩ /- VLT_ROLLBACK -/,
   ⟨0xF0540024, 1, 4, 0x0, 0x0, 0x0, 0x0, 0x0, 0xF⟩ /- VLT_SLOTS -/,
   ⟨0xF0540028, 1, 4, 0x0, 0x0, 0x0, 0x0, 0x0, 0x0⟩ /- VLT_REVOKED -/,
   ⟨0xF0540030, 1, 4, 0x0, 0x0, 0x0, 0x0, 0x0, 0x0⟩ /- VLT_STAGE -/]

/-- Block LGR (R671). -/
def regsLGR : List RegDesc :=
  [⟨0xF0580008, 1, 4, 0x0, 0x0, 0x0, 0x0, 0x0, 0x1⟩ /- LGR_NEXT_SEQ -/,
   ⟨0xF058000C, 1, 4, 0x0, 0x0, 0x0, 0x0, 0x0, 0x0⟩ /- LGR_OLDEST -/,
   ⟨0xF0580010, 1, 4, 0x0, 0x0, 0x0, 0x0, 0x0, 0x0⟩ /- LGR_FLOOR -/,
   ⟨0xF0580040, 1, 4, 0x0, 0x0, 0x0, 0xFFFFFFFF, 0x0, 0x0⟩ /- LGR_CNT_REC -/,
   ⟨0xF0580044, 1, 4, 0x0, 0x0, 0x0, 0xFFFFFFFF, 0x0, 0x0⟩ /- LGR_CNT_SUPP -/,
   ⟨0xF0580048, 1, 4, 0x0, 0x0, 0x0, 0xFFFFFFFF, 0x0, 0x0⟩ /- LGR_CNT_LOST -/,
   ⟨0xF058004C, 1, 4, 0x0, 0x0, 0x0, 0xFFFFFFFF, 0x0, 0x0⟩ /- LGR_CNT_SIDE_OVF -/,
   ⟨0xF0580050, 1, 4, 0x0, 0x0, 0x0, 0xFFFFFFFF, 0x0, 0x0⟩ /- LGR_CNT_FLUSH -/,
   ⟨0xF0580054, 1, 4, 0x0, 0x0, 0x0, 0xFFFFFFFF, 0x0, 0x0⟩ /- LGR_CNT_BADREC -/,
   ⟨0xF0580058, 1, 4, 0x0, 0x0, 0x0, 0x0, 0x0, 0x0⟩ /- LGR_CLEARS -/,
   ⟨0xF0580074, 1, 4, 0x0, 0x0, 0x0, 0x0, 0x0, 0x0⟩ /- LGR_CODE_SUPP -/,
   ⟨0xF0580000, 1, 4, 0x0, 0x0, 0x0, 0x0, 0x0, 0x0⟩ /- LGR_CTRL -/,
   ⟨0xF0580004, 1, 4, 0x0, 0x0, 0x0, 0x0, 0x0, 0x0⟩ /- LGR_LEVEL -/,
   ⟨0xF0580014, 1, 4, 0x0, 0x0, 0x0, 0x0, 0x0, 0x10000⟩ /- LGR_WRPTR -/,
   ⟨0xF0580018, 1, 4, 0xFF, 0x0, 0x0, 0x0, 0x0, 0xA⟩ /- LGR_FLUSH_CFG -/,
   ⟨0xF0580060, 1, 4, 0x0, 0x0, 0x1F, 0x0, 0x0, 0x0⟩ /- LGR_INT_STAT -/,
   ⟨0xF0580064, 1, 4, 0x1F, 0x0, 0x0, 0x0, 0x0, 0x0⟩ /- LGR_INT_EN -/,
   ⟨0xF0580070, 1, 4, 0x1FF, 0x0, 0x0, 0x0, 0x0, 0x0⟩ /- LGR_CODE_IDX -/,
   ⟨0xF0580078, 1, 4, 0x0, 0x0, 0x0, 0x0, 0x0, 0x0⟩ /- LGR_CODE_DATA -/]

/-- The table of one 64 KiB page of the register space, by page number (R56). -/
def pageRegs (page : Nat) : List RegDesc :=
  match page with
  | 0 => regsSYS
  | 1 => regsPWR
  | 2 => regsPVT
  | 3 => regsTIM
  | 4 => regsALM
  | 5 => regsCHK
  | 6 => regsFIF
  | 8 => regsVIN
  | 16 => regsCMP
  | 20 => regsRAS
  | 24 => regsFXM
  | 32 => regsMAP
  | 36 => regsPHO
  | 40 => regsLNE
  | 44 => regsSTR
  | 64 => regsPKT
  | 68 => regsDMX
  | 72 => regsRAD
  | 76 => regsESC
  | 80 => regsTLR
  | 84 => regsVLT
  | 88 => regsLGR
  | 92 => regsCAL
  | 96 => regsHST
  | 48 => regsMAC
  | 49 => regsMAC
  | 50 => regsMAC
  | 51 => regsMAC
  | 52 => regsMAC
  | 53 => regsMAC
  | 54 => regsMAC
  | 55 => regsMAC
  | 56 => regsMAC
  | 57 => regsMAC
  | 58 => regsMAC ++ regsMAC10
  | _ => []

end Sys2Proof.Machine
end

