-- ==== Sys2Proof/Machine/RegNames.lean ====
section
/-! DEFINITION. The addresses of the internal registers, by the names of the spec's register tables (R16, R56). A register of a unit
takes the unit's number; MAC registers take the page, MAP registers the half (0 cluster A, 1 cluster B). -/

namespace Sys2Proof.R

def SYS_IDENT : Nat := 0xF0000000
def SYS_BUSERR : Nat := 0xF0000010
def TIM_ST64_LO : Nat := 0xF0030010
def TIM_ST64_HI : Nat := 0xF0030014
def TIM_CORR_LO : Nat := 0xF0030018
def TIM_CORR_HI : Nat := 0xF003001C
def TIM_EPOCH_ADJ_LO : Nat := 0xF0030020
def TIM_EPOCH_ADJ_HI : Nat := 0xF0030024
def TIM_HWM_LO : Nat := 0xF0030028
def TIM_HWM_HI : Nat := 0xF003002C
def TIM_FRATE_NUM : Nat := 0xF0030030
def TIM_FRATE_DEN : Nat := 0xF0030034
def TIM_FORIGIN_LO : Nat := 0xF0030038
def TIM_FORIGIN_HI : Nat := 0xF003003C
def TIM_FCOUNT_LO : Nat := 0xF0030040
def TIM_FCOUNT_HI : Nat := 0xF0030044
def TIM_TBn_SEC_LO (n : Nat) : Nat := 0xF0030108 + 256 * n
def TIM_TBn_SEC_HI (n : Nat) : Nat := 0xF003010C + 256 * n
def TIM_TBn_NS (n : Nat) : Nat := 0xF0030110 + 256 * n
def TIM_TBn_OFFSET (n : Nat) : Nat := 0xF0030114 + 256 * n
def TIM_TBn_FREQ (n : Nat) : Nat := 0xF0030118 + 256 * n
def TIM_TBn_AB_OFFSET (n : Nat) : Nat := 0xF003011C + 256 * n
def TIM_TBn_AB_LIMIT (n : Nat) : Nat := 0xF0030120 + 256 * n
def TIM_TBn_MPD (n : Nat) : Nat := 0xF0030124 + 256 * n
def TIM_TBn_REF_OFFSET (n : Nat) : Nat := 0xF0030128 + 256 * n
def TIM_TBn_LTC_DAY (n : Nat) : Nat := 0xF003012C + 256 * n
def TIM_TBn_LOSS (n : Nat) : Nat := 0xF0030130 + 256 * n
def TIM_CTRL : Nat := 0xF0030000
def TIM_SLEW : Nat := 0xF0030004
def TIM_STEP_THRESH : Nat := 0xF0030008
def TIM_MAINS : Nat := 0xF0030048
def TIM_INT_STAT : Nat := 0xF0030050
def TIM_INT_EN : Nat := 0xF0030054
def TIM_START_WAIT : Nat := 0xF0030058
def TIM_TBn_CFG (n : Nat) : Nat := 0xF0030100 + 256 * n
def TIM_TBn_STATE (n : Nat) : Nat := 0xF0030104 + 256 * n
def ALM_POOL_SIZE : Nat := 0xF0040020
def ALM_POOL_USED : Nat := 0xF0040024
def ALM_CNT_LATE : Nat := 0xF0040040
def ALM_CNT_DISCARD : Nat := 0xF0040044
def ALM_CNT_OVERFLOW : Nat := 0xF0040048
def ALM_CNT_SKIP : Nat := 0xF004004C
def ALM_CNT_MERGE : Nat := 0xF0040050
def ALM_TRACE_DATA (n : Nat) : Nat := 0xF0040080 + 4 * n
def ALM_NEXT_LO : Nat := 0xF00400C0
def ALM_NEXT_HI : Nat := 0xF00400C4
def ALM_Zz_LAST_LO (n : Nat) : Nat := 0xF0041008 + 16 * n
def ALM_Zz_LAST_HI (n : Nat) : Nat := 0xF004100C + 16 * n
def ALM_CTRL : Nat := 0xF0040000
def ALM_SYNC_OFFSET : Nat := 0xF0040008
def ALM_LAUNCH_LEAD : Nat := 0xF004000C
def ALM_ADV_LANE : Nat := 0xF0040010
def ALM_ADV_SHOW : Nat := 0xF0040014
def ALM_ADV_DMX : Nat := 0xF0040018
def ALM_ADV_RADIO : Nat := 0xF004001C
def ALM_FILL0 : Nat := 0xF0040030
def ALM_FILL1 : Nat := 0xF0040034
def ALM_INT_STAT : Nat := 0xF0040060
def ALM_INT_EN : Nat := 0xF0040064
def ALM_TRACE_CTRL : Nat := 0xF0040070
def ALM_TRACE_KIND : Nat := 0xF0040074
def ALM_TRACE_STAT : Nat := 0xF0040078
def ALM_TRACE_IDX : Nat := 0xF004007C
def ALM_RLn_DEPTH (n : Nat) : Nat := 0xF00400A0 + 4 * n
def ALM_Zz_DELAY (n : Nat) : Nat := 0xF0041000 + 16 * n
def ALM_Zz_SLOTS (n : Nat) : Nat := 0xF0041004 + 16 * n
def CHK_ALIVE_STAT0 : Nat := 0xF0050010
def CHK_ALIVE_STAT1 : Nat := 0xF0050014
def CHK_PAR_CNT : Nat := 0xF0050040
def CHK_SEC_CNT : Nat := 0xF0050044
def CHK_DED_CNT : Nat := 0xF0050048
def CHK_ERR_ADDR_LO : Nat := 0xF0050054
def CHK_ERR_ADDR_HI : Nat := 0xF0050058
def CHK_ERR_FRAME : Nat := 0xF005005C
def CHK_CHn_RUN (n : Nat) : Nat := 0xF0051004 + 32 * n
def CHK_CHn_RESULT (n : Nat) : Nat := 0xF0051008 + 32 * n
def CHK_CHn_FEED (n : Nat) : Nat := 0xF0051014 + 32 * n
def CHK_CHn_BYTES (n : Nat) : Nat := 0xF0051018 + 32 * n
def CHK_ERR_CAP : Nat := 0xF0050050
def CHK_INT_STAT : Nat := 0xF0050060
def CHK_INT_EN : Nat := 0xF0050064
def CHK_CHn_CTRL (n : Nat) : Nat := 0xF0051000 + 32 * n
def CHK_CHn_ALIVE (n : Nat) : Nat := 0xF005100C + 32 * n
def CHK_CHn_CNT (n : Nat) : Nat := 0xF0051010 + 32 * n
def FIF_PEND : Nat := 0xF0060000
def FIF_FAULT_STAT : Nat := 0xF0060010
def FIF_Qn_RD_LO (n : Nat) : Nat := 0xF0061008 + 64 * n
def FIF_Qn_RD_HI (n : Nat) : Nat := 0xF006100C + 64 * n
def FIF_Qn_CFG (n : Nat) : Nat := 0xF0061000 + 64 * n
def FIF_Qn_LEVEL (n : Nat) : Nat := 0xF0061004 + 64 * n
def FIF_Qn_RD_TAG (n : Nat) : Nat := 0xF0061010 + 64 * n
def FIF_Qn_PTR (n : Nat) : Nat := 0xF0061014 + 64 * n
def FIF_Qn_CNT (n : Nat) : Nat := 0xF0061018 + 64 * n
def FIF_Qn_STAT (n : Nat) : Nat := 0xF006101C + 64 * n
def VIN_RUN : Nat := 0xF0080000
def VIN_WR_RATE : Nat := 0xF0080020
def VIN_Sn_SIZE (n : Nat) : Nat := 0xF008100C + 64 * n
def VIN_Sn_PERIOD (n : Nat) : Nat := 0xF0081010 + 64 * n
def VIN_Sn_LEAD (n : Nat) : Nat := 0xF0081014 + 64 * n
def VIN_Sn_DONE_LO (n : Nat) : Nat := 0xF0081018 + 64 * n
def VIN_Sn_DONE_HI (n : Nat) : Nat := 0xF008101C + 64 * n
def VIN_Sn_FRAMES (n : Nat) : Nat := 0xF0081020 + 64 * n
def VIN_Sn_DISCARD (n : Nat) : Nat := 0xF0081024 + 64 * n
def VIN_Sn_CRC (n : Nat) : Nat := 0xF0081028 + 64 * n
def VIN_Sn_MISS_A (n : Nat) : Nat := 0xF008102C + 64 * n
def VIN_Sn_MISS_B (n : Nat) : Nat := 0xF0081030 + 64 * n
def VIN_Sn_LOST_BOTH (n : Nat) : Nat := 0xF0081034 + 64 * n
def VIN_Sn_SKEW (n : Nat) : Nat := 0xF0081038 + 64 * n
def VIN_Ln_NOTREADY (n : Nat) : Nat := 0xF0082008 + 32 * n
def VIN_Ln_REPEAT (n : Nat) : Nat := 0xF008200C + 32 * n
def VIN_Ln_DROP (n : Nat) : Nat := 0xF0082010 + 32 * n
def VIN_Ln_SEQ (n : Nat) : Nat := 0xF0082014 + 32 * n
def VIN_INT_STAT : Nat := 0xF0080010
def VIN_INT_EN : Nat := 0xF0080014
def VIN_Sn_CFG (n : Nat) : Nat := 0xF0081000 + 64 * n
def VIN_Sn_RASTER (n : Nat) : Nat := 0xF0081004 + 64 * n
def VIN_Sn_STATE (n : Nat) : Nat := 0xF0081008 + 64 * n
def VIN_Ln_BIND (n : Nat) : Nat := 0xF0082000 + 32 * n
def VIN_Ln_STAT (n : Nat) : Nat := 0xF0082004 + 32 * n
def CMP_COMMIT_TAG : Nat := 0xF0100008
def CMP_ACTIVE_TAG : Nat := 0xF010000C
def CMP_CANVAS_BASE_LO : Nat := 0xF0100018
def CMP_CANVAS_BASE_HI : Nat := 0xF010001C
def CMP_FRAME : Nat := 0xF0100034
def CMP_CNT_OVERRUN : Nat := 0xF0100040
def CMP_CNT_REPAIR : Nat := 0xF0100044
def CMP_CNT_LATE : Nat := 0xF0100048
def CMP_FETCH : Nat := 0xF0100050
def CMP_CANVAS_TIME : Nat := 0xF0100054
def CMP_Pp_FETCH (n : Nat) : Nat := 0xF0101028 + 64 * n
def CMP_CTRL : Nat := 0xF0100000
def CMP_COMMIT : Nat := 0xF0100004
def CMP_CANVAS_SIZE : Nat := 0xF0100010
def CMP_PEAK : Nat := 0xF0100014
def CMP_BG0 : Nat := 0xF0100020
def CMP_BG1 : Nat := 0xF0100024
def CMP_STAT : Nat := 0xF0100030
def CMP_INT_STAT : Nat := 0xF0100060
def CMP_INT_EN : Nat := 0xF0100064
def CMP_POOLn_USE (n : Nat) : Nat := 0xF0100080 + 4 * n
def CMP_Pp_CTRL (n : Nat) : Nat := 0xF0101000 + 64 * n
def CMP_Pp_CROP_XY (n : Nat) : Nat := 0xF0101004 + 64 * n
def CMP_Pp_CROP_WH (n : Nat) : Nat := 0xF0101008 + 64 * n
def CMP_Pp_DST_XY (n : Nat) : Nat := 0xF010100C + 64 * n
def CMP_Pp_DST_WH (n : Nat) : Nat := 0xF0101010 + 64 * n
def CMP_Pp_KEY_A (n : Nat) : Nat := 0xF0101014 + 64 * n
def CMP_Pp_KEY_B (n : Nat) : Nat := 0xF0101018 + 64 * n
def CMP_Pp_BLEND (n : Nat) : Nat := 0xF010101C + 64 * n
def CMP_Pp_TONE (n : Nat) : Nat := 0xF0101020 + 64 * n
def CMP_Pp_CTX (n : Nat) : Nat := 0xF0101024 + 64 * n
def RAS_COMMIT_TAG : Nat := 0xF0140008
def RAS_ACTIVE_TAG : Nat := 0xF014000C
def RAS_OFFSET : Nat := 0xF0140014
def RAS_STORE_BASE_LO : Nat := 0xF0140030
def RAS_STORE_BASE_HI : Nat := 0xF0140034
def RAS_FRAME_LO : Nat := 0xF0140040
def RAS_FRAME_HI : Nat := 0xF0140044
def RAS_GRID_K_LO : Nat := 0xF0140048
def RAS_GRID_K_HI : Nat := 0xF014004C
def RAS_CANVAS : Nat := 0xF0140054
def RAS_LTR : Nat := 0xF0140058
def RAS_CNT_UNDERRUN : Nat := 0xF0140060
def RAS_CNT_REPEAT : Nat := 0xF0140064
def RAS_CNT_READBACK : Nat := 0xF0140068
def RAS_CNT_SLIP : Nat := 0xF014006C
def RAS_CNT_PERR : Nat := 0xF0140070
def RAS_CTRL : Nat := 0xF0140000
def RAS_COMMIT : Nat := 0xF0140004
def RAS_CFG : Nat := 0xF0140010
def RAS_WIN_XY : Nat := 0xF0140018
def RAS_WIN_WH : Nat := 0xF014001C
def RAS_OUT_XY : Nat := 0xF0140020
def RAS_SCALE : Nat := 0xF0140024
def RAS_BORDER : Nat := 0xF0140028
def RAS_WHITE_PULL : Nat := 0xF014002C
def RAS_LMATCH : Nat := 0xF0140038
def RAS_POS : Nat := 0xF0140050
def RAS_STAT : Nat := 0xF014005C
def RAS_INT_STAT : Nat := 0xF0140078
def RAS_INT_EN : Nat := 0xF014007C
def FXM_COMMIT_TAG : Nat := 0xF0180008
def FXM_ACTIVE_TAG : Nat := 0xF018000C
def FXM_FIXTURES : Nat := 0xF0180010
def FXM_SEGMENTS : Nat := 0xF0180014
def FXM_ATTRS : Nat := 0xF0180018
def FXM_PIXELS : Nat := 0xF018001C
def FXM_EPOCH_LO : Nat := 0xF0180020
def FXM_EPOCH_HI : Nat := 0xF0180024
def FXM_CNT_HIT : Nat := 0xF0180040
def FXM_CNT_MISS : Nat := 0xF0180044
def FXM_CNT_STALE : Nat := 0xF0180048
def FXM_CNT_REWRITE : Nat := 0xF018004C
def FXM_CNT_SHED : Nat := 0xF0180050
def FXM_ENTRY_DATA (n : Nat) : Nat := 0xF0180080 + 4 * n
def FXM_Zz_PIXELS (n : Nat) : Nat := 0xF0181004 + 16 * n
def FXM_Zz_FIXTURES (n : Nat) : Nat := 0xF0181008 + 16 * n
def FXM_CTRL : Nat := 0xF0180000
def FXM_COMMIT : Nat := 0xF0180004
def FXM_INT_STAT : Nat := 0xF0180060
def FXM_INT_EN : Nat := 0xF0180064
def FXM_ENTRY_IDX : Nat := 0xF018007C
def FXM_Zz_CFG (n : Nat) : Nat := 0xF0181000 + 16 * n
def FXM_Zz_STAT (n : Nat) : Nat := 0xF018100C + 16 * n
def MAP_FRAME (h : Nat) : Nat := 0xF0200010 + 0x8000 * h
def MAP_TILES (h : Nat) : Nat := 0xF0200014 + 0x8000 * h
def MAP_TILES_DONE (h : Nat) : Nat := 0xF0200018 + 0x8000 * h
def MAP_TIMEOUT (h : Nat) : Nat := 0xF020001C + 0x8000 * h
def MAP_TILE_BASE_LO (h : Nat) : Nat := 0xF0200020 + 0x8000 * h
def MAP_TILE_BASE_HI (h : Nat) : Nat := 0xF0200024 + 0x8000 * h
def MAP_DEADLINE_LO (h : Nat) : Nat := 0xF0200028 + 0x8000 * h
def MAP_DEADLINE_HI (h : Nat) : Nat := 0xF020002C + 0x8000 * h
def MAP_MAPTIME (h : Nat) : Nat := 0xF0200030 + 0x8000 * h
def MAP_LASTTIME (h : Nat) : Nat := 0xF0200034 + 0x8000 * h
def MAP_CNT_LOST (h : Nat) : Nat := 0xF0200040 + 0x8000 * h
def MAP_CNT_LATE (h : Nat) : Nat := 0xF0200044 + 0x8000 * h
def MAP_CNT_TRAP (h : Nat) : Nat := 0xF0200048 + 0x8000 * h
def MAP_CNT_WAIT (h : Nat) : Nat := 0xF020004C + 0x8000 * h
def MAP_CNT_SELFTEST (h : Nat) : Nat := 0xF0200050 + 0x8000 * h
def MAP_CRC_DATA (h : Nat) : Nat := 0xF0200074 + 0x8000 * h
def MAP_ZLATEz (h : Nat) (n : Nat) : Nat := 0xF0200800 + 0x8000 * h + 4 * n
def MAP_En_TILE (h : Nat) (n : Nat) : Nat := 0xF0201004 + 0x8000 * h + 256 * n
def MAP_En_TILES (h : Nat) (n : Nat) : Nat := 0xF0201008 + 0x8000 * h + 256 * n
def MAP_En_CLOCKS (h : Nat) (n : Nat) : Nat := 0xF020100C + 0x8000 * h + 256 * n
def MAP_En_PERR (h : Nat) (n : Nat) : Nat := 0xF0201010 + 0x8000 * h + 256 * n
def MAP_En_TRAP (h : Nat) (n : Nat) : Nat := 0xF0201014 + 0x8000 * h + 256 * n
def MAP_CTRL (h : Nat) : Nat := 0xF0200000 + 0x8000 * h
def MAP_ROLES (h : Nat) : Nat := 0xF0200004 + 0x8000 * h
def MAP_FAILED (h : Nat) : Nat := 0xF0200008 + 0x8000 * h
def MAP_SPARE_PREF (h : Nat) : Nat := 0xF020000C + 0x8000 * h
def MAP_INT_STAT (h : Nat) : Nat := 0xF0200060 + 0x8000 * h
def MAP_INT_EN (h : Nat) : Nat := 0xF0200064 + 0x8000 * h
def MAP_CRC_IDX (h : Nat) : Nat := 0xF0200070 + 0x8000 * h
def MAP_CRC_INFO (h : Nat) : Nat := 0xF0200078 + 0x8000 * h
def MAP_En_STAT (h : Nat) (n : Nat) : Nat := 0xF0201000 + 0x8000 * h + 256 * n
def PHO_CAL_BASE_LO : Nat := 0xF0240010
def PHO_CAL_BASE_HI : Nat := 0xF0240014
def PHO_FRAME : Nat := 0xF0240018
def PHO_CURVE_LOADED0 : Nat := 0xF0240020
def PHO_CURVE_LOADED1 : Nat := 0xF0240024
def PHO_CURVE_BANK0 : Nat := 0xF0240028
def PHO_CURVE_BANK1 : Nat := 0xF024002C
def PHO_CNT_CLIP_HI : Nat := 0xF0240040
def PHO_CNT_CLIP_LO : Nat := 0xF0240044
def PHO_CNT_DESAT : Nat := 0xF0240048
def PHO_CNT_SCALE : Nat := 0xF024004C
def PHO_CNT_HOLD : Nat := 0xF0240050
def PHO_CNT_NOTEMP : Nat := 0xF0240054
def PHO_CURVE_DATA : Nat := 0xF024007C
def PHO_CTRL : Nat := 0xF0240000
def PHO_TEST : Nat := 0xF0240004
def PHO_TSTALE : Nat := 0xF0240038
def PHO_INT_STAT : Nat := 0xF0240060
def PHO_INT_EN : Nat := 0xF0240064
def PHO_TEMP_IDX : Nat := 0xF0240070
def PHO_TEMP_DATA : Nat := 0xF0240074
def PHO_CURVE_IDX : Nat := 0xF0240078
def PHO_ZTEMPz (n : Nat) : Nat := 0xF0240400 + 4 * n
def LNE_LATCH_TARGET : Nat := 0xF0280004
def LNE_UP : Nat := 0xF028000C
def LNE_FOLDED : Nat := 0xF0280010
def LNE_FAULT : Nat := 0xF0280014
def LNE_Ln_TURN (n : Nat) : Nat := 0xF0281008 + 128 * n
def LNE_Ln_ASYM (n : Nat) : Nat := 0xF028100C + 128 * n
def LNE_Ln_ACK_TO (n : Nat) : Nat := 0xF0281010 + 128 * n
def LNE_Ln_DMAX (n : Nat) : Nat := 0xF0281014 + 128 * n
def LNE_Ln_PIXELS (n : Nat) : Nat := 0xF0281018 + 128 * n
def LNE_Ln_BUSY (n : Nat) : Nat := 0xF028101C + 128 * n
def LNE_Ln_RANGE_D (n : Nat) : Nat := 0xF0281024 + 128 * n
def LNE_Ln_CNT_FRAMES (n : Nat) : Nat := 0xF0281030 + 128 * n
def LNE_Ln_CNT_LATE (n : Nat) : Nat := 0xF0281034 + 128 * n
def LNE_Ln_CNT_RETRY (n : Nat) : Nat := 0xF0281038 + 128 * n
def LNE_Ln_CNT_UNREACH (n : Nat) : Nat := 0xF028103C + 128 * n
def LNE_Ln_CNT_DUP (n : Nat) : Nat := 0xF0281040 + 128 * n
def LNE_Ln_CNT_RXERR (n : Nat) : Nat := 0xF0281044 + 128 * n
def LNE_Ln_CNT_SYNC (n : Nat) : Nat := 0xF0281048 + 128 * n
def LNE_Ln_CNT_MISS (n : Nat) : Nat := 0xF028104C + 128 * n
def LNE_Ln_CNT_FOLD (n : Nat) : Nat := 0xF0281050 + 128 * n
def LNE_Ln_LAST_SYNC_LO (n : Nat) : Nat := 0xF0281058 + 128 * n
def LNE_Ln_LAST_SYNC_HI (n : Nat) : Nat := 0xF028105C + 128 * n
def LNE_CTRL : Nat := 0xF0280000
def LNE_COLLECT : Nat := 0xF0280008
def LNE_INT_STAT : Nat := 0xF0280060
def LNE_INT_EN : Nat := 0xF0280064
def LNE_Ln_CFG (n : Nat) : Nat := 0xF0281000 + 128 * n
def LNE_Ln_STAT (n : Nat) : Nat := 0xF0281004 + 128 * n
def LNE_Ln_RANGE_IDX (n : Nat) : Nat := 0xF0281020 + 128 * n
def LNE_Ln_LATCH (n : Nat) : Nat := 0xF0281028 + 128 * n
def STR_LANES : Nat := 0xF02C0004
def STR_CNT_OPEN : Nat := 0xF02C0040
def STR_CNT_SHORT : Nat := 0xF02C0044
def STR_CNT_STRING : Nat := 0xF02C0048
def STR_CNT_FULL : Nat := 0xF02C004C
def STR_TABLE : Nat := 0xF02C0050
def STR_Ln_FAILED (n : Nat) : Nat := 0xF02C1010 + 64 * n
def STR_Ln_POLL (n : Nat) : Nat := 0xF02C1014 + 64 * n
def STR_Ln_CNT_MAPREAD (n : Nat) : Nat := 0xF02C1018 + 64 * n
def STR_CTRL : Nat := 0xF02C0000
def STR_INT_STAT : Nat := 0xF02C0060
def STR_INT_EN : Nat := 0xF02C0064
def STR_FT_IDX : Nat := 0xF02C0070
def STR_FT_DATA : Nat := 0xF02C0074
def STR_Ln_CFG (n : Nat) : Nat := 0xF02C1000 + 64 * n
def STR_Ln_ISET01 (n : Nat) : Nat := 0xF02C1004 + 64 * n
def STR_Ln_ISET2 (n : Nat) : Nat := 0xF02C1008 + 64 * n
def STR_Ln_VTH (n : Nat) : Nat := 0xF02C100C + 64 * n
def MAC_ADDR_LO (p : Nat) : Nat := 0xF0300010 + 0x10000 * p
def MAC_ADDR_HI (p : Nat) : Nat := 0xF0300014 + 0x10000 * p
def MAC_TSQ_TS_LO (p : Nat) : Nat := 0xF0300034 + 0x10000 * p
def MAC_TSQ_TS_HI (p : Nat) : Nat := 0xF0300038 + 0x10000 * p
def MAC_CLS_DATA (p : Nat) (n : Nat) : Nat := 0xF0300060 + 0x10000 * p + 4 * n
def MAC_RRr_BASE_LO (p : Nat) (n : Nat) : Nat := 0xF0300100 + 0x10000 * p + 32 * n
def MAC_RRr_BASE_HI (p : Nat) (n : Nat) : Nat := 0xF0300104 + 0x10000 * p + 32 * n
def MAC_RRr_DROP (p : Nat) (n : Nat) : Nat := 0xF0300110 + 0x10000 * p + 32 * n
def MAC_TALLYi_LO (p : Nat) (n : Nat) : Nat := 0xF0300400 + 0x10000 * p + 8 * n
def MAC_TALLYi_HI (p : Nat) (n : Nat) : Nat := 0xF0300404 + 0x10000 * p + 8 * n
def MAC_WAKE_PW_LO (p : Nat) : Nat := 0xF0300808 + 0x10000 * p
def MAC_WAKE_PW_HI (p : Nat) : Nat := 0xF030080C + 0x10000 * p
def MAC_WAKE_CNT (p : Nat) : Nat := 0xF0300810 + 0x10000 * p
def MAC_WAKE_PATq (p : Nat) (n : Nat) : Nat := 0xF0300A00 + 0x10000 * p + 4 * n
def MAC_WAKE_MASKq (p : Nat) (n : Nat) : Nat := 0xF0300C00 + 0x10000 * p + 4 * n
def MAC_CTRL (p : Nat) : Nat := 0xF0300000 + 0x10000 * p
def MAC_CFG (p : Nat) : Nat := 0xF0300004 + 0x10000 * p
def MAC_STAT (p : Nat) : Nat := 0xF0300008 + 0x10000 * p
def MAC_MTU (p : Nat) : Nat := 0xF030000C + 0x10000 * p
def MAC_PAIR (p : Nat) : Nat := 0xF0300018 + 0x10000 * p
def MAC_WD (p : Nat) : Nat := 0xF0300020 + 0x10000 * p
def MAC_PAUSE_STAT (p : Nat) : Nat := 0xF0300024 + 0x10000 * p
def MAC_LAUNCH_WIN (p : Nat) : Nat := 0xF0300028 + 0x10000 * p
def MAC_LAUNCH_STAT (p : Nat) : Nat := 0xF030002C + 0x10000 * p
def MAC_TSQ_ID (p : Nat) : Nat := 0xF0300030 + 0x10000 * p
def MAC_TSQ_STAT (p : Nat) : Nat := 0xF030003C + 0x10000 * p
def MAC_INT_STAT (p : Nat) : Nat := 0xF0300040 + 0x10000 * p
def MAC_INT_EN (p : Nat) : Nat := 0xF0300044 + 0x10000 * p
def MAC_CLS_IDX (p : Nat) : Nat := 0xF0300050 + 0x10000 * p
def MAC_RRr_CFG (p : Nat) (n : Nat) : Nat := 0xF0300108 + 0x10000 * p + 32 * n
def MAC_RRr_PTR (p : Nat) (n : Nat) : Nat := 0xF030010C + 0x10000 * p + 32 * n
def MAC_TQn_STAT (p : Nat) (n : Nat) : Nat := 0xF0300200 + 0x10000 * p + 4 * n
def MAC_WAKE_CTRL (p : Nat) : Nat := 0xF0300800 + 0x10000 * p
def MAC_WAKE_STAT (p : Nat) : Nat := 0xF0300804 + 0x10000 * p
def PKT_FLOWS : Nat := 0xF0400010
def PKT_RXU : Nat := 0xF0400014
def PKT_CNT_TX : Nat := 0xF0400040
def PKT_CNT_LATE : Nat := 0xF0400044
def PKT_CNT_SYNC : Nat := 0xF0400048
def PKT_CNT_RX : Nat := 0xF040004C
def PKT_CNT_RXDROP : Nat := 0xF0400050
def PKT_CNT_RXLOSS : Nat := 0xF0400054
def PKT_FLOW_DATA (n : Nat) : Nat := 0xF0400080 + 4 * n
def PKT_RXU_DATA (n : Nat) : Nat := 0xF04000C0 + 4 * n
def PKT_En_FLOWS (n : Nat) : Nat := 0xF0401004 + 64 * n
def PKT_En_LOAD (n : Nat) : Nat := 0xF0401008 + 64 * n
def PKT_En_CNT_PKTS (n : Nat) : Nat := 0xF040100C + 64 * n
def PKT_En_CNT_TRAP (n : Nat) : Nat := 0xF0401010 + 64 * n
def PKT_CTRL : Nat := 0xF0400000
def PKT_INT_STAT : Nat := 0xF0400060
def PKT_INT_EN : Nat := 0xF0400064
def PKT_FLOW_IDX : Nat := 0xF0400070
def PKT_RXU_IDX : Nat := 0xF0400074
def PKT_En_STAT (n : Nat) : Nat := 0xF0401000 + 64 * n
def DMX_OUT : Nat := 0xF0440004
def DMX_Pn_CNT_FRAMES (n : Nat) : Nat := 0xF0441010 + 64 * n
def DMX_Pn_CNT_SKIP (n : Nat) : Nat := 0xF0441014 + 64 * n
def DMX_Pn_CNT_RDM (n : Nat) : Nat := 0xF0441018 + 64 * n
def DMX_Pn_CNT_RDM_TO (n : Nat) : Nat := 0xF044101C + 64 * n
def DMX_Pn_CNT_RXERR (n : Nat) : Nat := 0xF0441020 + 64 * n
def DMX_Pn_LAST_LO (n : Nat) : Nat := 0xF0441024 + 64 * n
def DMX_Pn_LAST_HI (n : Nat) : Nat := 0xF0441028 + 64 * n
def DMX_CTRL : Nat := 0xF0440000
def DMX_INT_STAT : Nat := 0xF0440060
def DMX_INT_EN : Nat := 0xF0440064
def DMX_Pn_CFG (n : Nat) : Nat := 0xF0441000 + 64 * n
def DMX_Pn_TIMING (n : Nat) : Nat := 0xF0441004 + 64 * n
def DMX_Pn_SLOTS (n : Nat) : Nat := 0xF0441008 + 64 * n
def DMX_Pn_STAT (n : Nat) : Nat := 0xF044100C + 64 * n
def RAD_CUE_LEAD : Nat := 0xF0480008
def RAD_REFRESH : Nat := 0xF048000C
def RAD_NODES : Nat := 0xF0480010
def RAD_ONLINE : Nat := 0xF0480014
def RAD_LOSTN : Nat := 0xF0480018
def RAD_STALE : Nat := 0xF048001C
def RAD_CNT_DEFER : Nat := 0xF0480040
def RAD_CNT_CUE : Nat := 0xF0480044
def RAD_CNT_CUE_LATE : Nat := 0xF0480048
def RAD_CNT_JOIN_UNKNOWN : Nat := 0xF048004C
def RAD_CNT_PIECES : Nat := 0xF0480050
def RAD_NODE_DATA (n : Nat) : Nat := 0xF04800A0 + 4 * n
def RAD_Xn_SEED (n : Nat) : Nat := 0xF0481008 + 256 * n
def RAD_Xn_MASK_LO (n : Nat) : Nat := 0xF0481010 + 256 * n
def RAD_Xn_MASK_HI (n : Nat) : Nat := 0xF0481014 + 256 * n
def RAD_Xn_HOUR_LIMIT (n : Nat) : Nat := 0xF048101C + 256 * n
def RAD_Xn_SLOT_LO (n : Nat) : Nat := 0xF0481024 + 256 * n
def RAD_Xn_SLOT_HI (n : Nat) : Nat := 0xF0481028 + 256 * n
def RAD_Xn_DWELL_MAX (n : Nat) : Nat := 0xF048102C + 256 * n
def RAD_Xn_HOUR_USED (n : Nat) : Nat := 0xF0481030 + 256 * n
def RAD_Xn_CNT_TX (n : Nat) : Nat := 0xF0481040 + 256 * n
def RAD_Xn_CNT_BUSY (n : Nat) : Nat := 0xF0481044 + 256 * n
def RAD_Xn_CNT_DWELL (n : Nat) : Nat := 0xF0481048 + 256 * n
def RAD_Xn_CNT_RX (n : Nat) : Nat := 0xF048104C + 256 * n
def RAD_Xn_CNT_CRC (n : Nat) : Nat := 0xF0481050 + 256 * n
def RAD_Xn_CNT_BEACON_MISS (n : Nat) : Nat := 0xF0481054 + 256 * n
def RAD_Xn_CNT_POLL_MISS (n : Nat) : Nat := 0xF0481058 + 256 * n
def RAD_CTRL : Nat := 0xF0480000
def RAD_REPEAT : Nat := 0xF0480004
def RAD_FW : Nat := 0xF0480020
def RAD_INT_STAT : Nat := 0xF0480060
def RAD_INT_EN : Nat := 0xF0480064
def RAD_NODE_IDX : Nat := 0xF0480070
def RAD_Xn_CFG (n : Nat) : Nat := 0xF0481000 + 256 * n
def RAD_Xn_POWER (n : Nat) : Nat := 0xF0481004 + 256 * n
def RAD_Xn_TRIM (n : Nat) : Nat := 0xF0481018 + 256 * n
def RAD_Xn_STAT (n : Nat) : Nat := 0xF0481020 + 256 * n
def ESC_REC_SEQ : Nat := 0xF04C0020
def ESC_REC_FRAME : Nat := 0xF04C0024
def ESC_TX_SEQ : Nat := 0xF04C0028
def ESC_CNT_TX : Nat := 0xF04C0040
def ESC_CNT_RX : Nat := 0xF04C0044
def ESC_CNT_INCOMPLETE : Nat := 0xF04C0048
def ESC_CNT_FRAG_ERR : Nat := 0xF04C004C
def ESC_CNT_STALE : Nat := 0xF04C0050
def ESC_CNT_SHADOW : Nat := 0xF04C0054
def ESC_CNT_MISMATCH : Nat := 0xF04C0058
def ESC_CNT_PROBE_MISS : Nat := 0xF04C005C
def ESC_CNT_AUTH : Nat := 0xF04C0068
def ESC_Gg_SEQ (n : Nat) : Nat := 0xF04C0100 + 4 * n
def ESC_Gg_LEFT (n : Nat) : Nat := 0xF04C0140 + 4 * n
def ESC_CTRL : Nat := 0xF04C0000
def ESC_CFG : Nat := 0xF04C0004
def ESC_LEASE : Nat := 0xF04C0008
def ESC_HELD : Nat := 0xF04C000C
def ESC_STAT : Nat := 0xF04C0010
def ESC_INT_STAT : Nat := 0xF04C0060
def ESC_INT_EN : Nat := 0xF04C0064
def ESC_PATH : Nat := 0xF04C0070
def TLR_LAST_TAG_LO : Nat := 0xF0500010
def TLR_LAST_TAG_HI : Nat := 0xF0500014
def TLR_FORCE_TAG_LO : Nat := 0xF0500018
def TLR_FORCE_TAG_HI : Nat := 0xF050001C
def TLR_CNT_CMD : Nat := 0xF0500040
def TLR_CNT_DUP : Nat := 0xF0500044
def TLR_CNT_GAP : Nat := 0xF0500048
def TLR_CNT_STALE : Nat := 0xF050004C
def TLR_CNT_BAD : Nat := 0xF0500050
def TLR_CNT_AUTH : Nat := 0xF0500054
def TLR_CNT_REJECT : Nat := 0xF0500058
def TLR_CNT_LATE : Nat := 0xF050005C
def TLR_CNT_NTC : Nat := 0xF0500068
def TLR_CNT_NTC_LOST : Nat := 0xF050006C
def TLR_RSP_MAX : Nat := 0xF0500070
def TLR_CTRL : Nat := 0xF0500000
def TLR_VERSION : Nat := 0xF0500004
def TLR_SESS : Nat := 0xF0500008
def TLR_STAGES : Nat := 0xF050000C
def TLR_INT_STAT : Nat := 0xF0500060
def TLR_INT_EN : Nat := 0xF0500064
def TLR_UDP : Nat := 0xF0500074
def HST_RSP_WR : Nat := 0xF0600014
def HST_RSP_RD : Nat := 0xF0600018
def HST_CNT_RINGERR : Nat := 0xF0600040
def HST_CNT_RESET : Nat := 0xF0600044
def HST_CNT_LINKDOWN : Nat := 0xF0600048
def HST_CTRL : Nat := 0xF0600000
def HST_LINK : Nat := 0xF0600004
def HST_ID : Nat := 0xF0600008
def HST_CMD_PTR : Nat := 0xF0600010
def HST_NTC_PTR : Nat := 0xF060001C
def HST_INT_STAT : Nat := 0xF0600060
def HST_INT_EN : Nat := 0xF0600064
def PWR_RTC_LO : Nat := 0xF0010010
def PWR_RTC_HI : Nat := 0xF0010014
def PWR_ALARM_LO : Nat := 0xF0010018
def PWR_ALARM_HI : Nat := 0xF001001C
def PWR_CNT_W1 : Nat := 0xF0010040
def PWR_CNT_SR : Nat := 0xF0010044
def PWR_CNT_PD2 : Nat := 0xF0010048
def PWR_DRAM_TOL : Nat := 0xF001004C
def PWR_Dd_LAT (n : Nat) : Nat := 0xF0010100 + 16 * n
def PWR_Dd_CNT (n : Nat) : Nat := 0xF0010108 + 16 * n
def PWR_MODE : Nat := 0xF0010000
def PWR_SAG : Nat := 0xF0010004
def PWR_SAG_STAT : Nat := 0xF0010008
def PWR_RESET : Nat := 0xF001000C
def PWR_WAKE : Nat := 0xF0010020
def PWR_WDOG : Nat := 0xF0010024
def PWR_DRAM : Nat := 0xF0010028
def PWR_INT_STAT : Nat := 0xF0010060
def PWR_INT_EN : Nat := 0xF0010064
def PWR_Dd_STAT (n : Nat) : Nat := 0xF0010104 + 16 * n
def PVT_CNT_WARN : Nat := 0xF0020040
def PVT_CNT_SHED : Nat := 0xF0020044
def PVT_CNT_VALARM : Nat := 0xF0020048
def PVT_Pn (n : Nat) : Nat := 0xF0020300 + 4 * n
def PVT_CTRL : Nat := 0xF0020000
def PVT_TMAX : Nat := 0xF0020004
def PVT_TLIM_SHOW : Nat := 0xF0020008
def PVT_TLIM_SOAK : Nat := 0xF002000C
def PVT_AVS : Nat := 0xF0020010
def PVT_INT_STAT : Nat := 0xF0020060
def PVT_INT_EN : Nat := 0xF0020064
def PVT_Tn (n : Nat) : Nat := 0xF0020100 + 4 * n
def PVT_Vn (n : Nat) : Nat := 0xF0020200 + 4 * n
def CAL_GEN : Nat := 0xF05C0008
def CAL_COUNT : Nat := 0xF05C000C
def CAL_LAST_LO : Nat := 0xF05C0010
def CAL_LAST_HI : Nat := 0xF05C0014
def CAL_UTC_LO : Nat := 0xF05C0018
def CAL_UTC_HI : Nat := 0xF05C001C
def CAL_REF_FREQ : Nat := 0xF05C0024
def CAL_SYNC_DELAY : Nat := 0xF05C0028
def CAL_CNT_PASS : Nat := 0xF05C0040
def CAL_CNT_UNSTABLE : Nat := 0xF05C0044
def CAL_CNT_WRFAIL : Nat := 0xF05C0048
def CAL_ITEM_DATA (n : Nat) : Nat := 0xF05C0074 + 4 * n
def CAL_CTRL : Nat := 0xF05C0000
def CAL_STAT : Nat := 0xF05C0004
def CAL_HKC_TRIM : Nat := 0xF05C0020
def CAL_INT_STAT : Nat := 0xF05C0060
def CAL_INT_EN : Nat := 0xF05C0064
def CAL_ITEM_IDX : Nat := 0xF05C0070
def CAL_SKEWl (n : Nat) : Nat := 0xF05C0100 + 4 * n
def VLT_BANK0_VER : Nat := 0xF0540014
def VLT_BANK1_VER : Nat := 0xF054001C
def VLT_CNT_SIGFAIL : Nat := 0xF0540040
def VLT_CNT_CRCFAIL : Nat := 0xF0540044
def VLT_CNT_UNAUTH : Nat := 0xF0540048
def VLT_CNT_RESEED : Nat := 0xF054004C
def VLT_STATE : Nat := 0xF0540000
def VLT_BOOT : Nat := 0xF0540004
def VLT_BANK0 : Nat := 0xF0540010
def VLT_BANK1 : Nat := 0xF0540018
def VLT_ROLLBACK : Nat := 0xF0540020
def VLT_SLOTS : Nat := 0xF0540024
def VLT_REVOKED : Nat := 0xF0540028
def VLT_STAGE : Nat := 0xF0540030
def LGR_NEXT_SEQ : Nat := 0xF0580008
def LGR_OLDEST : Nat := 0xF058000C
def LGR_FLOOR : Nat := 0xF0580010
def LGR_CNT_REC : Nat := 0xF0580040
def LGR_CNT_SUPP : Nat := 0xF0580044
def LGR_CNT_LOST : Nat := 0xF0580048
def LGR_CNT_SIDE_OVF : Nat := 0xF058004C
def LGR_CNT_FLUSH : Nat := 0xF0580050
def LGR_CNT_BADREC : Nat := 0xF0580054
def LGR_CLEARS : Nat := 0xF0580058
def LGR_CODE_SUPP : Nat := 0xF0580074
def LGR_CTRL : Nat := 0xF0580000
def LGR_LEVEL : Nat := 0xF0580004
def LGR_WRPTR : Nat := 0xF0580014
def LGR_FLUSH_CFG : Nat := 0xF0580018
def LGR_INT_STAT : Nat := 0xF0580060
def LGR_INT_EN : Nat := 0xF0580064
def LGR_CODE_IDX : Nat := 0xF0580070
def LGR_CODE_DATA : Nat := 0xF0580078

end Sys2Proof.R
end

