-- ==== Sys2Proof/Machine/Ops.lean ====
section
/-! DEFINITION. The shared operations of the block: modes and domains, the register file, show time, responses and notices. -/

namespace Sys2Proof.Machine

/-- The outcome of a command. -/
abbrev Out := Host.Outcome State Fault Refusal

/-! Modes (R582). -/

def modeCode (m : Mode) : Nat :=
  match m with
  | .hibernate => 0 | .listen => 1 | .standby => 2 | .boot => 3 | .provision => 4 | .show => 5 | .spare => 6 | .soak => 7
  | .diagnose => 8 | .calibrate => 9 | .update => 10 | .recovery => 11

def modeOf (c : Nat) : Option Mode :=
  match c with
  | 0 => some .hibernate | 1 => some .listen | 2 => some .standby | 3 => some .boot | 4 => some .provision | 5 => some .show
  | 6 => some .spare | 7 => some .soak | 8 => some .diagnose | 9 => some .calibrate | 10 => some .update | 11 => some .recovery
  | _ => none

/-- Modes in which show time runs once started (R582). -/
def modeRuns (m : Mode) : Bool :=
  match m with
  | .show | .spare | .soak | .diagnose | .calibrate => true
  | _ => false

/-- Modes in which Teller runs (R576). -/
def modeTeller (m : Mode) : Bool :=
  match m with
  | .hibernate | .listen | .boot => false
  | _ => true

/-- Teller answers messages: its mode allows it and it is not restarting (R576, R597). -/
def tellerRuns (s : State) : Bool := modeTeller s.power.mode && !s.power.restarting

/-! Domains and addresses (R16, R33, R34, R56). -/

/-- The base of the register space (R57). -/
def regBase : Nat := 0xF0000000

/-- The 64 KiB page of an address and the offset within it. -/
def pageOf (a : Nat) : Nat := (a - regBase) / 0x10000
def pageOff (a : Nat) : Nat := (a - regBase) % 0x10000

/-- The power domain of an address in the register space (R34). -/
def domainOf (a : Nat) : Nat :=
  match pageOf a with
  | 0x00 | 0x01 | 0x02 | 0x58 => 1
  | 0x50 | 0x54 | 0x03 | 0x05 | 0x18 | 0x5C => 2
  | 0x10 | 0x24 => 4
  | 0x20 => if pageOff a < 0x8000 then 5 else 6
  | 0x04 | 0x40 | 0x4C => 7
  | 0x30 | 0x31 | 0x32 | 0x33 => 8
  | 0x34 | 0x35 | 0x36 | 0x37 => 9
  | 0x08 | 0x14 | 0x38 | 0x39 => 10
  | 0x28 | 0x2C | 0x44 | 0x06 => 11
  | 0x48 => 12
  | 0x60 => 13
  | 0x3A => if 0x800 ≤ pageOff a then 1 else 2
  | _ => 0

def domState (s : State) (d : Nat) : DomState := (vGet s.power.domains d (Dom.reset .off)).state

/-- A register is reachable while its domain holds its registers and clocks or can be entered: every state but OFF and the steps into and
out of it (R35, R589). -/
def domainUp (s : State) (d : Nat) : Bool :=
  match domState s d with
  | .on | .gated | .retain => true
  | .off | .goingUp | .goingDown => false

/-! The register file (R16 to R20). -/

/-- The address at which the tables list a register: the MAC pages share one table, the MAP halves too. -/
def tableAddr (a : Nat) : Nat :=
  if 0x30 ≤ pageOf a ∧ pageOf a ≤ 0x3A then 0xF0300000 + pageOff a
  else if pageOf a = 0x20 ∧ 0x8000 ≤ pageOff a then a - 0x8000 else a

/-- A row lists an address. -/
def rowHas (d : RegDesc) (a : Nat) : Bool :=
  decide (d.base ≤ a) && decide ((a - d.base) % d.stride = 0) && decide ((a - d.base) / d.stride < d.count)

/-- The row of the register at an address, if one sits there. -/
def findReg (a : Nat) : Option RegDesc :=
  if a < regBase then none else (pageRegs (pageOf a)).find? (rowHas · (tableAddr a))

/-- The reset value of the register at an address; three registers differ by page or unit (R427, R462, R520). -/
def resetWord (a : Nat) : Word :=
  if 0xF0380000 ≤ a ∧ a < 0xF03A0000 ∧ pageOff a = 4 then 0x00FF0133
  else if a = 0xF03A0004 then 0x00FF0104
  else if a = 0xF03A000C then 1522
  else if a = R.RAD_Xn_HOUR_LIMIT 1 then 0
  else match findReg a with
    | some d => BitVec.ofNat 32 d.reset
    | none => 0

/-- The word a register holds; for a RWS register the shadow. -/
def reg (s : State) (a : Nat) : Word := (aFind s.regs.cells a).getD (resetWord a)

/-- Cells with one word set, in canonical form. -/
def cellSet (m : SMap Word) (a : Nat) (w : Word) : SMap Word := if w = resetWord a then aDel m a else aPut m a w

def setReg (a : Nat) (w : Word) (s : State) : State := { s with regs := { s.regs with cells := cellSet s.regs.cells a w } }

/-- The word in force of a shadowed register (R20). -/
def regF (s : State) (a : Nat) : Word := (aFind s.regs.inForce a).getD (resetWord a)

/-- A block's shadows come into force: every word of the pages in `pages` (R20). -/
def copyShadows (pages : List Nat) (s : State) : State :=
  let shadows := s.regs.cells.filter (fun c => pages.contains (pageOf c.1))
  let others := s.regs.inForce.filter (fun c => !pages.contains (pageOf c.1))
  { s with regs := { s.regs with inForce := shadows.foldl (fun m c => aPut m c.1 c.2) others } }

/-- Registers of the domains in `ds` go back to their reset values (R589, R595). -/
def resetRegs (ds : List Nat) (s : State) : State :=
  let keep (m : SMap Word) : SMap Word := m.filter (fun c => !ds.contains (domainOf c.1))
  { s with regs := { s.regs with cells := keep s.regs.cells, inForce := keep s.regs.inForce, latched := keep s.regs.latched } }

/-- Field `hi:lo` of a register set to `v`. -/
def setField (a hi lo v : Nat) (s : State) : State := setReg a (setBits (reg s a) hi lo v) s

def regN (s : State) (a : Nat) : Nat := (reg s a).toNat

/-- A 64-bit value in a register pair, low word first. -/
def reg64 (s : State) (lo : Nat) : Int := signed 64 ((reg s lo).toNat + (reg s (lo + 4)).toNat * 4294967296)

def setReg64 (lo : Nat) (v : Int) (s : State) : State := setReg (lo + 4) (hiWord v) (setReg lo (loWord v) s)

/-! Free values (log entry 4). -/

def drawn (s : State) : Int := Config.freeValue s.free
def draw (s : State) : State := { s with free := s.free + 1 }

/-! Show time (R62 to R93). -/

/-- Frame boundary k (R78), on the grid in force (R79). -/
def frameAt (s : State) (k : Int) : Int :=
  s.time.origin + k * 1000000000 * (s.time.rateD : Int) / (if s.time.rateN = 0 then 1 else (s.time.rateN : Int))

/-- The frame period that ends at boundary k. -/
def periodTo (s : State) (k : Int) : Int := frameAt s k - frameAt s (k - 1)

/-- The shortest frame period of the grid (R46): ⌊10⁹ D / N⌋. -/
def periodMin (s : State) : Nat := 1000000000 * s.time.rateD / (max 1 s.time.rateN)

/-- The last boundary at or before `x`: the greatest k with F(k) ≤ x. -/
def frameBefore (s : State) (x : Int) : Int :=
  ((x - s.time.origin + 1) * (s.time.rateN : Int) - 1) / (1000000000 * (max 1 s.time.rateD : Int))

/-- The grid cycle G in ns: the shortest whole number of frames that lasts a whole number of ns (R80). -/
def gridCycle (s : State) : Int :=
  let num := 1000000000 * s.time.rateD
  let den := max 1 s.time.rateN
  ((num / Nat.gcd num den : Nat) : Int)

/-- The selected time base (TIM_CTRL.show_tb). -/
def selTb (s : State) : Nat := bits (reg s R.TIM_CTRL) 1 0

def tbOf (s : State) (i : Nat) : TimeBase := vGet s.time.bases i TimeBase.reset

/-- The time that a time base follows: its value, and what a switch of instance left of the offset between the instances, which joins C and no
value (R95, log entry 6). -/
def tbTime (b : TimeBase) : Int := b.ns + (if b.activeB then b.b.rel else b.a.rel)

/-- C, the outstanding correction: what R77 gives for the selected time base and ST64. -/
def corrC (s : State) : Int :=
  if s.time.running then tbTime (tbOf s (selTb s)) - s.time.epoch - s.time.epochAdj - s.time.st64 else 0

/-- ST64 as registers, messages and stamps carry it: 0 while show time does not run (R81). -/
def st64 (s : State) : Int := if s.time.running then s.time.st64 else 0

/-- 256 × 10⁹, the unit of a frequency correction. -/
def freqOne : Int := 256000000000

/-- A time base after `dt` ns of the reference clock. -/
def tbRun (dt : Nat) (b : TimeBase) : TimeBase :=
  let tot := ((dt : Int) * (freqOne + b.freq) + b.rem).toNat
  { b with ns := b.ns + (tot / 256000000000 : Nat), rem := tot % 256000000000 }

/-- ST64 after the selected time base moved by `dv` ns: within a frame it runs in proportion to the stretched period (R85). -/
def stRun (st next tb tbEnd dv : Int) : Int :=
  if 0 < tbEnd - tb ∧ dv < tbEnd - tb then st + dv * max 0 (next - st) / (tbEnd - tb) else st + max 0 (next - st) + max 0 (dv - max 0 (tbEnd - tb))

/-- The clocks run on by `dt` ns of the reference clock. -/
def timeRun (dt : Nat) (s : State) : State :=
  let sel := tbOf s (selTb s)
  let sel' := tbRun dt sel
  let free := ((dt : Int) * (freqOne + sel.stepFreq) + s.time.stRem).toNat
  let st := if !s.time.running then s.time.st64
    else if sel.state = .discontinuity then s.time.st64 + (free / 256000000000 : Nat)
    else stRun s.time.st64 (frameAt s (s.time.fcount + 1)) sel.ns s.time.tbEnd (sel'.ns - sel.ns)
  { s with time := { s.time with
      now := s.time.now + dt
      bases := vMap s.time.bases (tbRun dt)
      st64 := st
      stRem := if s.time.running && sel.state = .discontinuity then free % 256000000000 else s.time.stRem
      rtc := s.time.rtc + (s.time.rtcNs + dt) / 1000000000
      rtcNs := (s.time.rtcNs + dt) % 1000000000 } }

/-- The command happens at instant `t` of the reference clock; an instant already past leaves the clocks (log entry 2). -/
def advance (t : Nat) (s : State) : State := if t ≤ s.time.now then s else timeRun (t - s.time.now) s

/-- Show time runs on until ST64 reads `st`; an instant already past leaves the clocks. -/
def reach (st : Int) (s : State) : State :=
  if s.time.running = false ∨ st ≤ s.time.st64 then s
  else
    let sel := tbOf s (selTb s)
    let next := frameAt s (s.time.fcount + 1)
    let gap := max 1 (next - s.time.st64)
    let span := max 1 (s.time.tbEnd - sel.ns)
    let dv : Int := if sel.state = .discontinuity then st - s.time.st64
      else if st ≤ next then ((st - s.time.st64) * span + gap - 1) / gap else span + (st - next)
    let f := if sel.state = .discontinuity then sel.stepFreq else sel.freq
    let dt := ((dv * freqOne + (freqOne + f) - 1) / (max 1 (freqOne + f))).toNat
    let s1 := timeRun dt s
    { s1 with time := { s1.time with
        st64 := max s.time.st64 st
        bases := if sel.state = .discontinuity then s1.time.bases else vMod s1.time.bases (selTb s) (fun b => { b with ns := sel.ns + dv }) } }

/-! Counters and flags. -/

/-- A saturating 32-bit counter goes up by `n`. -/
def bumpBy (a n : Nat) (s : State) : State := setReg a (BitVec.ofNat 32 (min 0xFFFFFFFF (regN s a + n))) s

def bump (a : Nat) (s : State) : State := bumpBy a 1 s

/-- A saturating counter in field `hi:lo`. -/
def bumpField (a hi lo n : Nat) (s : State) : State :=
  setField a hi lo (min (2 ^ (hi + 1 - lo) - 1) (bits (reg s a) hi lo + n)) s

/-- An interrupt status bit is set by hardware (R21). -/
def setFlag (a bit : Nat) (s : State) : State := setReg a (reg s a ||| BitVec.ofNat 32 (2 ^ bit)) s

/-! Check channels (R148 to R152). -/

/-- A channel's owner runs it over whole bytes (R148, R150). -/
def chkRun (ch : Nat) (bs : List (BitVec 8)) (s : State) : State :=
  setReg (R.CHK_CHn_RESULT ch) (crc32c bs) (setReg (R.CHK_CHn_BYTES ch) (BitVec.ofNat 32 bs.length) (setReg (R.CHK_CHn_RUN ch) (crcBytes 0xFFFFFFFF bs) s))

/-! Responses and notices (R560, R563, R566, R567). -/

/-- Teller computes or checks a message on one of its channels, which shows that run from then on (R561). -/
def tellerRun (ch : Nat) (bs : List (BitVec 8)) (s : State) : State :=
  { s with teller := { s.teller with checked := aPut s.teller.checked ch bs } }

/-- The channel that computes the checks of what a session is sent: 1 for the rings, 6 and 7 for UDP, in turn by session (R561; which of the two
serves a session is a DESIGN CHOICE, log entry 27). -/
def sendChannel (i : Fin 5) : Nat := if i.val = 0 then 1 else 6 + (i.val - 1) % 2

/-- The channel that checks what a session receives (R561). -/
def takeChannel (i : Fin 5) : Nat := if i.val = 0 then 0 else 1 + i.val

def sess (s : State) (i : Nat) : Session := vGet s.teller.sessions i Session.closed

def modSess (i : Nat) (f : Session → Session) (s : State) : State :=
  { s with teller := { s.teller with sessions := vMod s.teller.sessions i f } }

/-- Units of 32 bytes a message of `len` payload bytes takes (R552). -/
def msgUnits (len : Nat) : Nat := (32 + len + 31) / 32

/-- Units free in the response and the notice ring (R552). -/
def rspRoom (r : Rings) : Nat := 65536 - (r.rspWr - r.rspRd).toNat
def ntcRoom (r : Rings) : Nat := 32768 - (r.ntcWr - r.ntcRd).toNat

def modRings (f : Rings → Rings) (s : State) : State := { s with teller := { s.teller with rings := f s.teller.rings } }

/-- A response is put in its session's cache: a final response replaces the pending one of the same seq; at most 64 entries (R563). -/
def cachePut (r : Resp) (c : List Resp) : List Resp := (r :: c.filter (fun x => x.seq != r.seq)).take 64

/-- A UDP message of `len` payload bytes takes consecutive counters, one per fragment; a counter that would reach 2³² is not used (R557, R559). -/
def udpCount (len : Nat) (x : Session) : Session :=
  let n := ceilDiv (32 + len) 1400
  if 4294967296 < x.txNext + n then { x with txNext := 4294967297 } else { x with txNext := x.txNext + n, txMessage := x.txMessage + 1 }

/-- The session's sending counter is spent: it closes (R559). -/
def udpSpent (x : Session) : Bool := decide (4294967296 < x.txNext)

/-- A response goes into the response ring (R555). -/
def ringResp (r : Resp) (s : State) : State :=
  modRings (fun g => { g with rspWr := g.rspWr + BitVec.ofNat 17 (msgUnits r.len), vectors := g.vectors ||| 1 })
    (modSess 0 (fun x => { x with responses := x.responses ++ [r] }) (tellerRun 1 (respBytes r) s))

/-- A response is written to its session: into the response ring on PCIe, as datagrams on UDP (R555, R566). A final response that finds the ring full
waits: no response is dropped for lack of space (R554). -/
def writeResp (i : Fin 5) (r : Resp) (s : State) : State :=
  if i.val = 0 then
    if (sess s 0).rspWait = [] ∧ msgUnits r.len ≤ rspRoom s.teller.rings then ringResp r s
    else modSess 0 (fun x => { x with rspWait := x.rspWait ++ [r] }) s
  else modSess i (fun x =>
    let y := udpCount r.len x
    if udpSpent y then y else { y with responses := y.responses ++ [r] }) (tellerRun (sendChannel i) (respBytes r) s)

/-- The time from a message's arrival to its first response (TLR_RSP_MAX, R580). -/
def timeResponse (c : Call) (x : Session) (s : State) : State :=
  if (x.outstanding.map Prod.fst) = some c.seq ∧ x.cache.all (fun r => r.seq != c.seq) then
    setReg R.TLR_RSP_MAX (BitVec.ofNat 32 (min 0xFFFFFFFF (max (regN s R.TLR_RSP_MAX) (s.time.now - x.arrived.at_)))) s
  else s

/-- The response to a command: built, cached, written; the session's next command may then be taken, except after a pending
POWER_MODE_SET (R563, R564). A session that is not open gets none. -/
def respond (code : Nat) (c : Call) (p : Reply) (s : State) : State :=
  if (sess s c.session).isOpen = false then s
  else
    let r : Resp := ⟨c.seq, code, p.status, false, (sess s c.session).last.getD 0, st64 s, p.len, p.fields⟩
    let s1 := writeResp c.session r (timeResponse c (sess s c.session) s)
    modSess c.session (fun x => { x with
      cache := cachePut r x.cache
      outstanding := if (x.outstanding.map Prod.fst) = some c.seq ∧ ¬(p.status = .pending ∧ code = 0x0500) then none else x.outstanding }) s1

/-- A final response after a pending one: it replaces the pending one where the cache still holds it (R563). -/
def respondFinal (code : Nat) (c : Call) (p : Reply) (s : State) : State :=
  if (sess s c.session).isOpen = false then s
  else
    let r : Resp := ⟨c.seq, code, p.status, false, (sess s c.session).last.getD 0, st64 s, p.len, p.fields⟩
    modSess c.session (fun x => { x with cache := x.cache.map (fun y => if y.seq = r.seq then r else y) }) (writeResp c.session r s)

/-- The response still owed to a command: its final one, or its only one (R563, R564). -/
def respondOwed (code : Nat) (owed : Option Call) (p : Reply) (s : State) : State :=
  match owed with
  | some c => if ((sess s c.session).outstanding.map Prod.fst) = some c.seq then respond code c p s else respondFinal code c p s
  | none => s

/-- A session that was reset is owed no final response (R556). -/
def dropOwed (i : Fin 5) (o : Option Call) : Option Call :=
  match o with
  | some c => if c.session = i then none else some c
  | none => none

/-- The check of a notice with the session's next sequence is computed. -/
def noticeRun (i : Fin 5) (n : Notice) (s : State) : State :=
  tellerRun (sendChannel i) (noticeBytes (((sess s i).last.map (fun q => q.toNat)).getD 0) { n with seq := (sess s i).ntcNext }) s

/-- A notice is written into the notice ring, with the next notice sequence (R555, R567). -/
def ringNotice (n : Notice) (i : Fin 5) (s : State) : State :=
  bump R.TLR_CNT_NTC (modRings (fun g => { g with ntcWr := g.ntcWr + BitVec.ofNat 16 (msgUnits n.len), vectors := g.vectors ||| 2 })
    (modSess i (fun x => { x with notices := x.notices ++ [{ n with seq := x.ntcNext }], ntcNext := x.ntcNext + 1 }) (noticeRun i n s)))

/-- One notice for one session: written, queued, or lost (R566, R567). -/
def notifyTo (n : Notice) (s : State) (i : Fin 5) : State :=
  let x := sess s i
  if x.isOpen = false ∨ bitOf x.mask n.cls = false then s
  else if 1024 ≤ x.queue.length then
    setFlag R.TLR_INT_STAT 3 (bump R.TLR_CNT_NTC_LOST (modSess i (fun x => { x with
      lost := x.lost + 1
      lostCode := if x.lost = 0 then n.code else x.lostCode
      lostStamp := if x.lost = 0 then n.stamp else x.lostStamp }) s))
  else if i.val = 0 then
    if x.queue = [] ∧ msgUnits n.len ≤ ntcRoom s.teller.rings then ringNotice n i s
    else modSess i (fun x => { x with queue := x.queue ++ [(n, s.time.now)] }) s
  else
    bump R.TLR_CNT_NTC (modSess i (fun x =>
      let y := udpCount n.len { x with queue := x.queue ++ [({ n with seq := x.ntcNext }, s.time.now)], ntcNext := x.ntcNext + 1 }
      if udpSpent y then y else { y with notices := y.notices ++ [{ n with seq := x.ntcNext }] }) (noticeRun i n s))

/-- The class of a notice code (R575). -/
def noticeClass (code : Nat) : Nat :=
  if code < 0x8100 then 0 else if code < 0x8140 then 2 else if code < 0x8150 then 3 else if code < 0x8160 then 4
  else if code < 0x8170 then 5 else if code < 0x8180 then 6 else if code < 0x8190 then 7 else if code < 0x8210 then 8
  else if code < 0x8220 then 9 else if code < 0x8230 then 10 else if code < 0x8250 then 11 else if code < 0x8260 then 12
  else if code < 0x8270 then 13 else if code < 0x8280 then 14 else if code < 0x8300 then 15 else if code < 0x8320 then 16
  else if code < 0x8400 then 17 else if code < 0x8480 then 18 else 19

/-- A notice to every session whose mask includes its class; every notice goes to the Ledger (R566). -/
def notify (code len : Nat) (fields : List Int) (s : State) : State :=
  if tellerRuns s then
    let n : Notice := ⟨0, code, noticeClass code, st64 s, len, fields⟩
    let s1 := (List.finRange 5).foldl (notifyTo n) s
    { s1 with teller := { s1.teller with ledgerOffers := s1.teller.ledgerOffers ++ [(code, st64 s, fields)] } }
  else { s with teller := { s.teller with ledgerOffers := s.teller.ledgerOffers ++ [(code, st64 s, fields)] } }

/-- A Ledger record that is no notice (an internal event): codes below 0x8000 (R656). -/
def ledgerEvent (code : Nat) (fields : List Int) (s : State) : State :=
  { s with teller := { s.teller with ledgerOffers := s.teller.ledgerOffers ++ [(code, st64 s, fields)] } }

/-- INTERNAL: the Ledger takes the command's code and Teller's fault code, which no rule states (R574, R657). -/
def internalAnswer (code : Nat) (owed : Option Call) (s : State) : State :=
  respondOwed code owed ⟨.internal, 0, []⟩ (draw (ledgerEvent 0x0008 [code, drawn s % 4294967296] s))

/-- A message reaches Teller now (R565). -/
def arrival (s : State) : Arrival := ⟨s.time.now, if s.time.running then some s.time.st64 else none⟩

/-- ST64 at the instant a command's message reached Teller (R26, R565); of one that came before show time ran, counted back on the reference clock. -/
def reachedSt (c : Call) (s : State) : Int :=
  let x := sess s c.session
  if (x.outstanding.map Prod.fst) = some c.seq then x.arrived.st.getD (st64 s - ((s.time.now - x.arrived.at_ : Nat) : Int)) else st64 s

/-- The same as an instant of a history: none before show time runs. -/
def reachedAt (c : Call) (s : State) : Option Int := if s.time.running then some (reachedSt c s) else none

/-! Command admission (R574 to R576). -/

def codeIsGet (code : Nat) : Bool :=
  [0x0030, 0x0113, 0x0143, 0x0403, 0x0414, 0x0421, 0x0431, 0x0433, 0x0436, 0x0443, 0x0453, 0x0455, 0x0464, 0x046A, 0x0474, 0x0475,
   0x0492, 0x0493, 0x04A2, 0x0506, 0x0507, 0x0522, 0x0523, 0x0600, 0x0615, 0x0680].contains code

/-- The configuration messages of R568. -/
def codeIsConfig (code : Nat) : Bool :=
  [0x0400, 0x0401, 0x0402, 0x0410, 0x0412, 0x0413, 0x0420, 0x0430, 0x0432, 0x0434, 0x0442, 0x0450, 0x0451, 0x0452, 0x0460, 0x0461,
   0x0462, 0x0468, 0x0480, 0x0481, 0x0483, 0x0490, 0x0491].contains code

/-- Modes of classes 16 to 19, by command, as their chapters give them. -/
def modeOkHigh (code : Nat) (m : Mode) : Bool :=
  if code = 0x0500 ∨ code = 0x0506 ∨ code = 0x0507 ∨ code = 0x0508 then modeTeller m
  else if code = 0x0502 then m == .diagnose || m == .calibrate
  else if code = 0x0520 ∨ code = 0x0521 then m == .calibrate
  else if code = 0x0601 ∨ code = 0x0602 ∨ code = 0x0603 then m == .provision || m == .standby
  else if code = 0x0604 then m == .provision
  else if code = 0x0606 ∨ code = 0x0607 then m == .standby
  else if 0x0610 ≤ code ∧ code ≤ 0x0614 then m == .update || m == .recovery
  else if code < 0x0520 then m == .standby || modeRuns m
  else modeTeller m

/-- The mode check of R576. -/
def modeOk (code : Nat) (m : Mode) : Bool :=
  if code < 0x0010 ∨ codeIsGet code then modeTeller m
  else if 0x0500 ≤ code then modeOkHigh code m
  else if code = 0x04A0 then modeRuns m && m != .show && m != .spare
  else if code = 0x0031 then m == .diagnose || m == .calibrate
  else if code = 0x0114 then m == .standby
  else modeRuns m

/-- Class 14, radio: absent on the RK9210 (R8, R575). -/
def codeIsRadio (code : Nat) : Bool := decide (0x0490 ≤ code) && decide (code ≤ 0x0496)

/-- The domain of the block behind a command that acts on one and is no configuration message (R34). -/
def codeDomain (code : Nat) : Option Nat :=
  if codeIsConfig code then none
  else if 0x0140 ≤ code ∧ code < 0x0150 then some 7
  else if code = 0x0403 ∨ code = 0x0411 ∨ code = 0x0421 then some 10
  else if code = 0x0414 ∨ 0x0450 ≤ code ∧ code < 0x0460 then some 4
  else if 0x0440 ≤ code ∧ code < 0x0450 then some 5
  else if 0x0460 ≤ code ∧ code < 0x0470 ∨ code = 0x0484 then some 11
  else if code = 0x0482 ∨ code = 0x0485 ∨ 0x04A0 ≤ code ∧ code < 0x04B0 then some 7
  else if codeIsRadio code then some 12
  else none

/-- The block behind a command is on (R576). -/
def codeReady (s : State) (code : Nat) : Bool :=
  match codeDomain code with
  | some d => domainUp s d
  | none => true

/-- Teller executes a command it took: presence on this part, mode, an open commit for a configuration message, then the command's
own checks and effect, which `body` gives; the response follows, if the body gives one now (R568, R574). Where Teller does not run nothing is answered (R576). -/
def commandLater (code : Nat) (c : Call) (s : State) (body : State → State × Option Reply) : Out :=
  let s1 := advance c.t s
  if tellerRuns s1 = false then .next s1
  else if codeIsRadio code ∧ s1.part = .rk9210 then .next (respond code c ⟨.unsupportedFeature, 0, []⟩ s1)
  else if modeOk code s1.power.mode = false then .next (respond code c ⟨.wrongMode, 0, []⟩ s1)
  else if codeReady s1 code = false then .next (respond code c ⟨.notReady, 0, []⟩ s1)
  else match (body s1).2 with
    | some r => .next (respond code c r (body s1).1)
    | none => .next (body s1).1

/-- The same for a command that is answered at once. -/
def command (code : Nat) (c : Call) (s : State) (body : State → State × Reply) : Out :=
  commandLater code c s (fun x => ((body x).1, some (body x).2))

/-- An answer without payload that changes nothing. -/
def refuse (st : Status) (s : State) : State × Reply := (s, ⟨st, 0, []⟩)

def accept (s : State) : State × Reply := (s, ⟨.ok, 0, []⟩)

def answer (len : Nat) (fields : List Int) (s : State) : State × Reply := (s, ⟨.ok, len, fields⟩)

end Sys2Proof.Machine
end

