-- ==== Sys2Proof/Machine/Operands.lean ====
section
/-! DEFINITION. Operand forms shared by the commands: configuration messages inside an open commit (R568, R569) and the pictures that frames
carry (R192, R194, R208). -/

namespace Sys2Proof.Machine

/-- A configuration message: refused without an open commit of the session, checked for its own ranges, and added (R568, R569, R695). -/
def configMessage (code len : Nat) (c : Call) (ok : State → Bool) (m : ConfigMsg) (s : State) : Out :=
  command code c s fun s =>
    match s.teller.openCommit with
    | none => refuse .noCommit s
    | some o =>
      if o.owner ≠ c.session then refuse .noCommit s
      else if ok s = false then refuse .invalidParameter s
      else if 65536 ≤ o.msgs.length ∨ 134217728 < o.bytes + len then refuse .resourceExhausted s
      else accept { s with teller := { s.teller with openCommit := some { o with msgs := o.msgs ++ [m], bytes := o.bytes + len } } }

/-! Conversion into the store (R194). -/

/-- round(v × 65,535) with halves up of the fraction `num / den`, clipped to 0 to 1 (R194 steps 4 and 5). -/
def quant16 (num : Int) (den : Nat) : Nat :=
  if num ≤ 0 then 0 else if (den : Int) ≤ num then 65535 else (2 * num.toNat * 65535 + den) / (2 * den)

/-- Kr, Kb and Kg of BT.709 and BT.2020 in 1/10,000 (R194 step 3; the matrices of those standards). -/
def lumaK (bt2020 : Bool) : Nat × Nat × Nat := if bt2020 then (2627, 593, 6780) else (2126, 722, 7152)

/-- Denominators of normalized luma and chroma, and their offsets (R194 step 1). -/
def lumaDen (c : Coding) : Nat := if c.full then 2 ^ c.depth - 1 else 219 * 2 ^ (c.depth - 8)
def chromaDen (c : Coding) : Nat := if c.full then 2 ^ c.depth - 1 else 224 * 2 ^ (c.depth - 8)
def lumaOff (c : Coding) : Nat := if c.full then 0 else 16 * 2 ^ (c.depth - 8)
def chromaOff (c : Coding) : Nat := if c.full then 2 ^ (c.depth - 1) else 128 * 2 ^ (c.depth - 8)

/-- The pixel of luma code `y` and chroma codes `cb`, `cr` in units of 2⁻²⁴ (R194 steps 1 and 3 to 5). -/
def convertYcc (c : Coding) (y : Nat) (cb cr : Int) : Rgba :=
  let (kr, kb, kg) := lumaK c.bt2020
  let yn : Int := (y : Int) - lumaOff c
  let yd := lumaDen c
  let cd := chromaDen c * 16777216
  let cbn : Int := cb - (chromaOff c : Int) * 16777216
  let crn : Int := cr - (chromaOff c : Int) * 16777216
  let r : Int := yn * cd * 10000 + 2 * (10000 - kr : Nat) * crn * yd
  let b : Int := yn * cd * 10000 + 2 * (10000 - kb : Nat) * cbn * yd
  let g : Int := yn * cd * 10000 * kg - (2 * kb * (10000 - kb) : Nat) * cbn * yd - (2 * kr * (10000 - kr) : Nat) * crn * yd
  ⟨quant16 r (yd * cd * 10000), quant16 g (yd * cd * 10000 * kg), quant16 b (yd * cd * 10000), 65535⟩

/-- An RGB sample is normalized as Y′ is (R194). -/
def convertRgb (c : Coding) (p : Sample) : Rgba :=
  let q (v : Nat) : Nat := quant16 ((v : Int) - lumaOff c) (lumaDen c)
  ⟨q p.y, q p.cb, q p.cr, 65535⟩

def sampleAt (fill : Sample) (pixels : SMap Sample) (width x y : Nat) : Sample := aGet pixels (y * width + x) fill

/-- Chroma of a 4:2:2 pixel in units of 2⁻²⁴: co-sited samples exactly, the others through the 4-tap interpolator (R194 step 2). -/
def chromaAt (f : Sample → Nat) (fill : Sample) (pixels : SMap Sample) (width x y : Nat) : Int :=
  if x % 2 = 0 then (f (sampleAt fill pixels width x y) : Int) * 16777216
  else
    let last := (width - 1) / 2 * 2
    let tap (i : Nat) : Int := (f (sampleAt fill pixels width (min i last) y) : Int)
    Config.chromaTap (tap (x - 3)) (tap (x - 1)) (tap (x + 1)) (tap (x + 3))

/-- One channel of a ramp (R208). -/
def rampAt (a b i n : Nat) : Nat :=
  if n ≤ 1 then a else ((2 * ((a : Int) * (n - 1 : Nat) + ((b : Int) - a) * i) + (n - 1 : Nat)) / (2 * (n - 1 : Nat))).toNat

def mapRgba (f : Nat → Nat → Nat → Nat) (a b : Rgba) : Rgba := ⟨f 0 a.r b.r, f 1 a.g b.g, f 2 a.b b.b, f 3 a.a b.a⟩

/-- The column or row of the standing pattern that place `x` of `size` shows in frame `n`: the bar moves by `speed` pixels per frame (R193), and what
leaves at one edge comes back at the other (DESIGN CHOICE, log entry 10). -/
def moved (size x : Nat) (speed : Int) (n : Nat) : Nat := (((x : Int) - speed * n) % (max 1 size : Nat)).toNat

/-- A pixel of a generator's pattern (R192, R193, R208). -/
def patternAt (g : GeneratorSet) (n x y : Nat) : Rgba :=
  match g.pattern with
  | 0 => g.colorA
  | 1 => mapRgba (fun _ a b => rampAt a b x g.width) g.colorA g.colorB
  | 2 => mapRgba (fun _ a b => rampAt a b y g.height) g.colorA g.colorB
  | 3 => if (x / max 1 g.cell + y / max 1 g.cell) % 2 = 0 then g.colorA else g.colorB
  | p =>
    let u := if p = 5 then moved g.width x g.speed n else x
    let v := if p = 6 then moved g.height y g.speed n else y
    mapRgba (fun ch a b => Config.patternPixel [p, g.width, g.height, g.cell, u, v, ch, a, b] % 65536) g.colorA g.colorB

/-- The 16-bit RGBA pixel (x, y) of a stored frame. -/
def pixelAt (p : Picture) (x y : Nat) : Rgba :=
  match p with
  | .generated g n => patternAt g n x y
  | .received c w fill px =>
    let q := sampleAt fill px w x y
    match c.sampling with
    | 2 => convertRgb c q
    | 1 => convertYcc c q.y ((q.cb : Int) * 16777216) ((q.cr : Int) * 16777216)
    | _ => convertYcc c q.y (chromaAt Sample.cb fill px w x y) (chromaAt Sample.cr fill px w x y)

def transparent : Rgba := ⟨0, 0, 0, 0⟩

end Sys2Proof.Machine
end

