-- ==== Sys2Proof/Machine/Flags.lean ====
section
/-! DEFINITION. Flag computations: verdicts and status bits that several chapters compute alike. -/

namespace Sys2Proof.Machine

/-- The verdict of a command's seq against the last accepted seq (R562). -/
inductive Verdict where
  | new | duplicate | stale | gap
deriving DecidableEq, Repr

/-- d = (i32)(seq − l), and what the table of R562 says of it; the first command of a session sets the baseline. -/
def judgeSeq (last : Option Word) (seq : Word) : Verdict :=
  match last with
  | none => .new
  | some l =>
    let d := (seq - l).toInt
    if d = 1 then .new else if -63 ≤ d ∧ d ≤ 0 then .duplicate else if d ≤ -64 then .stale else .gap

/-- A measured offset counts toward the lock of R63 for a source code. -/
def lockGood (source : Nat) (offset freqError : Int) (valid : Bool) : Bool :=
  valid && (match source with
    | 1 | 2 => decide (offset.natAbs < 100)
    | 3 => decide (offset.natAbs < 10)
    | 4 => true
    | 5 => decide (freqError.natAbs < 2560)
    | 6 => decide (freqError.natAbs ≤ 256000000)
    | _ => false)

/-- The lock condition of R63 is met: enough good updates in a row, or for word clock 1 s of them. -/
def lockMet (source good : Nat) (forNs : Nat) : Bool :=
  match source with
  | 1 | 2 | 3 | 4 => decide (16 ≤ good)
  | 5 => decide (1000000000 ≤ forNs) && decide (0 < good)
  | 6 => decide (50 ≤ good)
  | _ => false

/-- A step of the selected time base, or a step of another one, starts a DISCONTINUITY (R87, R93). -/
def stepIsLarge (selected : Bool) (threshold delta before after : Int) : Bool :=
  decide (threshold ≤ (delta.natAbs : Int)) ||
    (selected && decide ((before.natAbs : Int) < threshold) && decide (threshold ≤ (after.natAbs : Int)))

end Sys2Proof.Machine
end

