-- ==== Sys2Proof/Machine/ShowTime.lean ====
section
/-! DEFINITION. Show time and time references (02_show_time.md): time bases, steps and discontinuity, redundant PTP, the class 2 commands. -/

namespace Sys2Proof.Machine

def tbCfg (s : State) (i : Nat) : Word := reg s (R.TIM_TBn_CFG i)
def tbSource (s : State) (i : Nat) : Nat := bits (tbCfg s i) 2 0

/-- The step threshold in ns (R86). -/
def stepThreshold (s : State) : Int := (bits (reg s R.TIM_STEP_THRESH) 19 0 : Int) * 1000

def modTb (i : Nat) (f : TimeBase → TimeBase) (s : State) : State :=
  { s with time := { s.time with bases := vMod s.time.bases i f } }

def tbStateCode (x : TbState) : Nat :=
  match x with
  | .free => 0 | .acquiring => 1 | .locked => 2 | .holdover => 3 | .discontinuity => 4

def activePath (b : TimeBase) : RefPath := if b.activeB then b.b else b.a

/-- The mean frequency correction of the last 64 s of LOCKED (R67): corrections newest first, each in force from its instant to `till`. -/
def freqSum (start : Nat) (till : Nat) (h : List (Nat × Int)) : Int × Nat :=
  match h with
  | [] => (0, 0)
  | (t0, f) :: r =>
    let from_ := max t0 start
    let len := till - from_
    let rest := if t0 ≤ start then (0, 0) else freqSum start t0 r
    (rest.1 + f * len, rest.2 + len)

/-- The corrections that were in force at or after `start`. -/
def keepFrom (start : Nat) (h : List (Nat × Int)) : List (Nat × Int) :=
  match h with
  | [] => []
  | (t0, f) :: r => (t0, f) :: (if t0 ≤ start then [] else keepFrom start r)

/-- The holdover frequency (R67): over the last 64 s of LOCKED, which ended at `lockedTill` or lasts still. -/
def holdFreq (now : Nat) (b : TimeBase) : Int :=
  let till := b.lockedTill.getD now
  let p := freqSum (till - 64000000000) till b.history
  if p.2 = 0 then b.freq else p.1 / p.2

/-- A time base enters a state: LOCKED begins a new locked period, the end of LOCKED is noted, and HOLDOVER runs on the holdover frequency (R67). -/
def enterState (now : Nat) (new : TbState) (b : TimeBase) : TimeBase :=
  let x := if b.state = .locked ∧ new ≠ .locked then { b with lockedTill := some now } else b
  match new with
  | .locked => { x with state := new, history := [(now, x.freq)], lockedTill := none }
  | .holdover => { x with state := new, freq := holdFreq now x }
  | .free | .acquiring | .discontinuity => { x with state := new }

/-- TIME_STATE, and its interrupt bit (R102, R104). -/
def tellState (i : Nat) (old new : TbState) (cause : Nat) (s : State) : State :=
  notify 0x8100 16 [i, tbStateCode old, tbStateCode new, cause, clampI (-2147483648) 2147483647 (tbOf s i).offset, st64 s] (setFlag R.TIM_INT_STAT i s)

/-- The time base moves to a state (R66, R102). -/
def tbMove (i : Nat) (new : TbState) (cause : Nat) (s : State) : State :=
  let b := tbOf s i
  if b.state = new then s else tellState i b.state new cause (modTb i (enterState s.time.now new) s)

/-- From now to the next frame boundary the frame takes its time of show time, stretched or shortened by the slew while C lasts (R85): where
its end falls in the selected time base. A share T × s that is no whole number of ns is rounded down (DESIGN CHOICE, log entry 6). -/
def planFrame (s : State) : State :=
  let left := max 0 (frameAt s (s.time.fcount + 1) - s.time.st64)
  let c := corrC s
  let m : Int := min (c.natAbs : Int) (left * (bits (reg s R.TIM_SLEW) 9 0 : Int) / 1000000)
  let len := if c < 0 then left + m else left - m
  { s with time := { s.time with tbEnd := (tbOf s (selTb s)).ns + max 0 len } }

/-- A new 16-bit step identifier: another than the present one, otherwise open (R87, log entry 6). -/
def newStepId (old : Nat) (free : Int) : Nat := (old + 1 + (free % 65535).toNat) % 65536

/-- The time base enters DISCONTINUITY (R87). It sends TIME_DISCONTINUITY and no TIME_STATE, which has no cause for it; leaving the state sends
TIME_STEP_APPLIED alone (DESIGN CHOICE, log entry 6). -/
def enterDiscontinuity (i : Nat) (delta : Int) (s : State) : State :=
  let b := tbOf s i
  let id := newStepId b.stepId (drawn s)
  let s1 := modTb i (fun x => { enterState s.time.now .discontinuity x with
    stepId := id, stepFreq := if b.state = .discontinuity then b.stepFreq else holdFreq s.time.now b }) (draw s)
  let s2 := setFlag R.TIM_INT_STAT i (setFlag R.TIM_INT_STAT (4 + i) s1)
  notify 0x8101 24 [i, id, delta, st64 s] s2

/-- Where a time base goes when it leaves DISCONTINUITY (R81, R90). -/
def afterDiscontinuity (b : TimeBase) : TbState := if (activePath b).lost then .holdover else .locked

/-- A step of the selected time base in DISCONTINUITY that brings |C| below the threshold: R88 withdraws the step that waits, and no other one
begins (log entry 6). -/
def stepsBack (i : Nat) (s : State) : Bool :=
  i == selTb s && (tbOf s i).state == .discontinuity && decide (((corrC s).natAbs : Int) < stepThreshold s)

/-- The value of a time base moves; an instance that it does not follow keeps its own time (R94). So TIM_TBn_AB_OFFSET of an instance B that has not
measured yet, or does not run, shows minus the steps since B last started afresh (DESIGN CHOICE, log entry 6). -/
def shiftTb (delta : Int) (b : TimeBase) : TimeBase :=
  if b.activeB then { b with ns := b.ns + delta, a := { b.a with rel := b.a.rel - delta } }
  else { b with ns := b.ns + delta, b := { b.b with rel := b.b.rel - delta } }

/-- A step of a time base by `delta`: its value and, where it is selected, C move; ST64 does not (R84). Then R87 and R88. -/
def stepTb (i : Nat) (delta : Int) (s : State) : State :=
  let sel := i == selTb s
  let before := corrC s
  let s1 := modTb i (shiftTb delta) s
  let s2 := if sel then { s1 with time := { s1.time with tbEnd := s1.time.tbEnd + delta } } else s1
  if s2.time.running = false then s2
  else if stepsBack i s2 = false ∧ stepIsLarge sel (stepThreshold s2) delta before (corrC s2) = true then enterDiscontinuity i delta s2
  else s2

/-- |C| below the threshold ends a DISCONTINUITY of the selected time base without the host (R88). It is judged at every event of a time base, at
HWM_UPDATE and at frame boundaries, so that a drift of C is seen within 1 ms of show time (DESIGN CHOICE, log entry 6). -/
def withdrawStep (s : State) : State :=
  let i := selTb s
  let b := tbOf s i
  if s.time.running ∧ b.state = .discontinuity ∧ ((corrC s).natAbs : Int) < stepThreshold s then
    let s1 := planFrame (setFlag R.TIM_INT_STAT i (modTb i (enterState s.time.now (afterDiscontinuity b)) s))
    notify 0x8102 24 [i, 3, b.stepId, 0, st64 s] s1
  else s

/-- A frequency correction: the servo's value is open (R65, log entry 6); mains pulls by no more than 1,000 ppm (R75). -/
def correctFreq (i source : Nat) (s : State) : State :=
  let lim : Int := if source = 6 then 256000000 else 2147483647
  let f := clampI (-lim) lim (drawn s)
  modTb i (fun x => { x with
    freq := f
    history := if x.state = .locked then (s.time.now, f) :: keepFrom (s.time.now - 64000000000) x.history else x.history }) (draw s)

/-! What the sources give (R69, R72 to R76). -/

/-- The frame rate of a genlock signal, where R72 accepts it. -/
def genlockRateOf (f : GenlockFormat) : Option (Nat × Nat) :=
  let known := [(24000, 1001), (24, 1), (25, 1), (30000, 1001), (30, 1), (50, 1), (60000, 1001), (60, 1)]
  match f with
  | .bi525 => some (30000, 1001)
  | .bi625 => some (25, 1)
  | .tri720p n d | .tri1080p n d => if known.contains (n, d) then some (n, d) else none
  | .tri1080i n d => if [(25, 1), (30000, 1001), (30, 1)].contains (n, d) then some (n, d) else none

/-- The period of a genlock signal in ns. -/
def genlockPeriod (f : GenlockFormat) : Nat :=
  match genlockRateOf f with
  | some (n, d) => 1000000000 * d / max 1 n
  | none => 1

/-- An LTC label of a rate that R73 accepts, with its fields in range; a drop-frame label skips frames 0 and 1 of each minute but every tenth
(SMPTE ST 12-1; PRESUMED, log entry 6). -/
def labelOk (l : LtcLabel) : Bool :=
  ((!l.drop && (l.fps == 24 || l.fps == 25 || l.fps == 30)) || (l.drop && l.fps == 30 && !(l.ss == 0 && decide (l.ff < 2) && l.mm % 10 != 0))) &&
    decide (l.hh < 24) && decide (l.mm < 60) && decide (l.ss < 60) && decide (l.ff < l.fps)

/-- Frames since midnight that a label counts. -/
def labelFrames (l : LtcLabel) : Nat :=
  let minutes := 60 * l.hh + l.mm
  l.fps * (60 * minutes + l.ss) + l.ff - (if l.drop then 2 * (minutes - minutes / 10) else 0)

/-- Frames in the label's day. -/
def labelDay (l : LtcLabel) : Nat := if l.drop then 2589408 else l.fps * 86400

/-- The time since midnight that a label gives, in ns (R73). -/
def labelTime (l : LtcLabel) : Nat :=
  if l.drop then labelFrames l * 1001 * 1000000000 / 30000
  else (3600 * l.hh + 60 * l.mm + l.ss) * 1000000000 + l.ff * 1000000000 / max 1 l.fps

/-- The duration of a frame of LTC in ns. -/
def labelPeriod (l : LtcLabel) : Nat := if l.drop then 33366666 else 1000000000 / max 1 l.fps

/-- A message interval of 2 to the power `log` seconds, in ns. -/
def logNs (log : Int) : Nat := if 0 ≤ log then 1000000000 * 2 ^ log.toNat else 1000000000 / 2 ^ (-log).toNat

/-- A dataset is better than another (R69): the first difference decides, and the lower value is better. -/
def datasetBefore (a b : List Nat) : Bool :=
  match a, b with
  | x :: r, y :: q => decide (x < y) || (x == y && datasetBefore r q)
  | [], _ :: _ => true
  | _, [] => false

/-- The Announce messages of an instance's master have stopped for the receipt timeout of R69, 3 announce intervals. -/
def announceOver (now : Nat) (p : RefPath) : Bool :=
  match p.master with
  | some m => decide (m.at_ + 3 * m.interval ≤ now)
  | none => false

/-- An Announce reaches an instance (R69): it takes a better master, or any where its own is no longer heard, and hears its own again. An interval
outside −3 to 1 is not accepted. -/
def announced (now : Nat) (a : Announce) (p : RefPath) : RefPath :=
  if a.logInterval < -3 ∨ 1 < a.logInterval then p
  else
    let m : PtpMaster := ⟨a.dataset, now, logNs a.logInterval⟩
    match p.master with
    | none => { p with master := some m }
    | some o => if announceOver now p = true ∨ o.dataset.getLast? = a.dataset.getLast? ∨ datasetBefore a.dataset o.dataset = true then
        { p with master := some m } else p

/-- PTP: the message comes from the instance's master at an interval that R69 accepts. -/
def syncAccepted (u : SourceUpdate) (p : RefPath) : Bool :=
  decide (-7 ≤ u.logInterval) && decide (u.logInterval ≤ 0) && (p.master.map (fun m => m.dataset.getLast?)) == some (some u.master)

/-- The last valid mains crossing is the one at this instant (R75). -/
def crossingNow (s : State) : Bool :=
  match s.time.mainsValid with
  | some (at_, _, _) => at_ == s.time.now
  | none => false

/-- The show frame rate is 1, 2 or 4 times the reference frame rate with the same 1000/1001 factor (R72). -/
def genlockFits (r : Nat × Nat) (n d : Nat) : Bool := [1, 2, 4].any (fun m => n * r.2 == m * r.1 * d)

/-- The update is one that its source gives: a format, rate or label that R72, R73 and R74 accept, or a valid crossing (R75). -/
def sourceOk (s : State) (i : Nat) (u : SourceUpdate) : Bool :=
  match tbSource s i with
  | 3 => (match genlockRateOf u.format with
    | some r => genlockFits r s.time.rateN s.time.rateD
    | none => false)
  | 4 => labelOk u.label
  | 5 => [44100, 48000, 88200, 96000, 176400, 192000].contains u.wordRate
  | 6 => crossingNow s
  | _ => true

/-- The time in ns after which the next update of a source is missing (R63): a Sync interval, a reference frame, an LTC frame, 64 edges of word
clock, the longest mains period. -/
def updateInterval (source : Nat) (u : SourceUpdate) : Nat :=
  match source with
  | 1 | 2 => logNs u.logInterval
  | 3 => genlockPeriod u.format
  | 4 => labelPeriod u.label
  | 5 => 64000000000 / max 1 u.wordRate
  | _ => 22222000

/-- The loss condition of R63 for a path that had its reference: no Sync for 3 intervals or the announce receipt timeout, no frame for 3 frame
periods, 2 LTC frames, 64 edges, or 3 crossings missing. -/
def refLossDue (source now : Nat) (p : RefPath) : Bool :=
  !p.lost && (match source with
    | 1 | 2 => announceOver now p || decide (p.lastAt + 3 * p.interval ≤ now)
    | 3 => decide (p.lastAt + 3 * p.interval ≤ now)
    | 4 => decide (2 ≤ p.missed + (now - p.lastAt) / max 1 p.interval)
    | 5 => decide (p.lastAt + p.interval ≤ now)
    | 6 => decide (3 ≤ p.missed + (now - p.lastAt) / max 1 p.interval)
    | _ => false)

/-! PTP instances (R69, R70, R94). -/

/-- PTP sources alone run instances (R94). -/
def hasInstances (s : State) (i : Nat) : Bool := tbSource s i == 1 || tbSource s i == 2

/-- The instances that words of TIM_TBn_CFG ask for, in order: time base, whether B, port, domain. -/
def wantedInstances (cfgs : List (Nat × Word)) : List (Nat × Bool × Nat × Nat) :=
  cfgs.flatMap (fun e =>
    let w := e.2
    if bits w 2 0 = 1 ∨ bits w 2 0 = 2 then
      (if bits w 11 8 ≤ 10 then [(e.1, false, bits w 11 8, bits w 23 16)] else []) ++
      (if bits w 15 12 ≤ 10 then [(e.1, true, bits w 15 12, bits w 31 24)] else [])
    else [])

/-- The instances that run: each port carries two at most, of different domains (R70); of a register's word that asks for more, the later ones
do not run (DESIGN CHOICE, log entry 6). -/
def runInstances (l : List (Nat × Bool × Nat × Nat)) : List (Nat × Bool × Nat × Nat) :=
  l.foldl (fun r e =>
    let onPort := r.filter (fun x => x.2.2.1 == e.2.2.1)
    if 2 ≤ onPort.length ∨ onPort.any (fun x => x.2.2.2 == e.2.2.2) then r else r ++ [e]) []

def allCfgs (s : State) : List (Nat × Word) := [0, 1, 2, 3].map (fun i => (i, tbCfg s i))

/-- A path of a time base is in use: an instance that runs, or as A the one source of codes 3 to 6. -/
def pathUsed (s : State) (i : Nat) (b : Bool) : Bool :=
  if hasInstances s i then (runInstances (wantedInstances (allCfgs s))).any (fun x => x.1 == i && x.2.1 == b)
  else tbSource s i != 0 && !b

/-- The time of B minus the time of A (R94). -/
def abOffset (b : TimeBase) : Int := b.b.rel - b.a.rel

/-- The offset an update measures against the instance's own time, TIM_TBn_REF_OFFSET added (R65, R73, R76). -/
def updateOffset (s : State) (i : Nat) (u : SourceUpdate) : Int :=
  let ref := signed 32 (regN s (R.TIM_TBn_REF_OFFSET i))
  match tbSource s i with
  | 1 | 2 => u.offset + ref
  | 3 =>
    let p : Int := max 1 (genlockPeriod u.format : Int)
    (u.offset + ref + p / 2) % p - p / 2
  | 4 => (regN s (R.TIM_TBn_LTC_DAY i) : Int) * 86400000000000 + (labelTime u.label : Int) + ref - (tbOf s i).ns
  | _ => 0

/-- LTC: the wrap from 23:59:59 to 00:00:00 increments LTC day (R73). -/
def ltcWrap (i : Nat) (u : SourceUpdate) (s : State) : State :=
  if tbSource s i = 4 ∧ u.valid = true then
    let wrapped := match (tbOf s i).lastLabel with
      | some l => l.hh == 23 && l.mm == 59 && l.ss == 59 && u.label.hh == 0 && u.label.mm == 0 && u.label.ss == 0
      | none => false
    let s1 := if wrapped then setReg (R.TIM_TBn_LTC_DAY i) (reg s (R.TIM_TBn_LTC_DAY i) + 1) s else s
    modTb i (fun x => { x with lastLabel := some u.label }) s1
  else s

/-- The frame counts of two LTC labels are consecutive (R63). -/
def labelsFollow (last : Option LtcLabel) (l : LtcLabel) : Bool :=
  match last with
  | some p => p.fps == l.fps && p.drop == l.drop && (labelFrames p + 1) % labelDay l == labelFrames l
  | none => false

/-- A path after an update: its lock count (R63), its own time, which follows its reference (log entry 6), and when the next update is due.
`offset` is measured against the instance's own time; an LTC frame that does not follow the one before is the first of a new run. -/
def pathUpdate (source now : Nat) (offset : Int) (follows : Bool) (u : SourceUpdate) (p : RefPath) : RefPath :=
  let ok := lockGood source offset u.freqError u.valid
  let since := if ok && (p.good == 0 || !follows) then now else p.goodSince
  let good := if ok then (if follows then p.good + 1 else 1) else 0
  let met := p.locked || lockMet source good (now - since)
  { p with good := good, goodSince := since, locked := met, lost := if u.valid then false else p.lost,
           lockedAt := if met && !p.locked then now else p.lockedAt
           pathDelay := if u.valid then u.pathDelay else p.pathDelay
           lastAt := if u.valid || source == 4 || source == 6 then now else p.lastAt
           interval := if u.valid then updateInterval source u else p.interval
           missed := if u.valid then 0 else p.missed + 1 }

/-- The state of a time base follows its active path (R63, R66, R68). -/
def tbFollow (i : Nat) (s : State) : State :=
  let b := tbOf s i
  let p := activePath b
  match b.state with
  | .free | .holdover =>
    if p.lost then s
    else
      let s1 := tbMove i .acquiring 2 s
      if p.locked then tbMove i .locked 0 s1 else s1
  | .acquiring => if p.locked then tbMove i .locked 0 s else s
  | .locked | .discontinuity => s

/-- The servo of R65 on a valid update of the active path. -/
def servo (i : Nat) (offset : Int) (s : State) : State :=
  let src := tbSource s i
  if (src = 1 ∨ src = 2 ∨ src = 3 ∨ src = 4) ∧ 2000 ≤ offset.natAbs then stepTb i offset s else correctFreq i src s

/-- The reference frame rate that a valid genlock update shows (R72). -/
def noteGenlock (i : Nat) (u : SourceUpdate) (s : State) : State :=
  if tbSource s i = 3 ∧ u.valid then { s with time := { s.time with genlockRate := genlockRateOf u.format } } else s

/-- The reference that was last seen carries the frame rate (R72). One not yet seen refuses nothing here (log entry 6): a show of another rate does not
lock to it (`sourceOk`). -/
def genlockOk (s : State) (n d : Nat) : Bool :=
  match s.time.genlockRate with
  | some r => genlockFits r n d
  | none => true

/-- Some time base has genlock as its source. -/
def genlockUsed (s : State) : Bool := [0, 1, 2, 3].any (fun i => tbSource s i == 3)

/-- The update `u` as path `b` takes it: no valid one where R72 to R75 accept no such signal. -/
def takenUpdate (s : State) (i : Nat) (u : SourceUpdate) : SourceUpdate := { u with valid := u.valid && sourceOk s i u }

def onPath (b : Bool) (f : RefPath → RefPath) (x : TimeBase) : TimeBase := if b then { x with b := f x.b } else { x with a := f x.a }

def pathOf (x : TimeBase) (b : Bool) : RefPath := if b then x.b else x.a

/-- An accepted update of path `b` (R63, R65): the path, the last measured offset, the state, then the servo where the path is the active one;
the other path's own time follows its reference (R94). -/
def pathMeasured (i : Nat) (b : Bool) (u : SourceUpdate) (s : State) : State :=
  let follows := tbSource s i != 4 || labelsFollow (tbOf s i).lastLabel u.label
  let s0 := ltcWrap i u s
  let src := tbSource s0 i
  let raw := updateOffset s0 i u
  let off := raw - (pathOf (tbOf s0 i) b).rel
  let act := b == (tbOf s0 i).activeB
  let s1 := modTb i (fun x => onPath b (pathUpdate src s0.time.now off follows u) { x with offset := if u.valid && act then off else x.offset }) s0
  if u.valid = true ∧ act = true then servo i off (tbFollow i s1)
  else tbFollow i (if u.valid then modTb i (onPath b (fun p => { p with rel := raw })) s1 else s1)

/-- An update reaches a time base: an Announce selects the master, a Sync of another master or interval is not accepted (R69). -/
def sourceUpdate (i : Nat) (b : Bool) (u : SourceUpdate) (s : State) : State :=
  if pathUsed s i b = false then s
  else match hasInstances s i, u.announce with
    | true, some a => modTb i (onPath b (announced s.time.now a)) s
    | true, none => if syncAccepted u (pathOf (tbOf s i) b) then withdrawStep (pathMeasured i b u s) else s
    | false, _ => withdrawStep (pathMeasured i b (takenUpdate s i u) (noteGenlock i u s))

/-- The time base follows its other path (R95, R97): its value does not step. Where it is the show's, the AB offset so joins C, whatever the
threshold, and ST64 does not move; elsewhere the offset is left to the next update (log entry 6). -/
def followPath (i : Nat) (toB : Bool) (s : State) : State :=
  let d := (pathOf (tbOf s i) toB).rel
  modTb i (fun x =>
    let y := { x with activeB := toB }
    if i = selTb s ∧ s.time.running = true then y else { y with a := { y.a with rel := y.a.rel - d }, b := { y.b with rel := y.b.rel - d } }) s

def switchPath (i : Nat) (toB : Bool) (cause : Nat) (s : State) : State :=
  let b := tbOf s i
  let s1 := followPath i toB s
  withdrawStep (notify 0x8103 16 [i, bNat b.activeB, bNat toB, cause, clampI (-2147483648) 2147483647 (abOffset b), st64 s]
    (setFlag R.TIM_INT_STAT (8 + i) s1))

/-- The AB offset is within TIM_TBn_AB_LIMIT (R95). -/
def abWithin (s : State) (i : Nat) : Bool := decide ((abOffset (tbOf s i)).natAbs ≤ regN s (R.TIM_TBn_AB_LIMIT i))

/-- A loss condition of R63 expires on a path. A time base that loses its reference in ACQUIRING before it was ever LOCKED stays there, and one that
is in HOLDOVER already does not switch when the other instance locks later (R66, R95; DESIGN CHOICE, log entry 6). -/
def referenceLost (i : Nat) (b : Bool) (s : State) : State :=
  if pathUsed s i b = false ∨ refLossDue (tbSource s i) s.time.now (pathOf (tbOf s i) b) = false then s
  else
    let lose (p : RefPath) : RefPath := { p with locked := false, good := 0, lost := true, master := none }
    let s1 := bump (R.TIM_TBn_LOSS i) (modTb i (onPath b lose) s)
    let x := tbOf s1 i
    if b ≠ x.activeB then s1
    else if pathUsed s1 i (!b) ∧ (pathOf x (!b)).locked ∧ abWithin s1 i then switchPath i (!b) 0 s1
    else match x.state with
      | .locked => tbMove i .holdover 1 s1
      | .acquiring => if x.history = [] then s1 else tbMove i .holdover 1 s1
      | .free | .holdover | .discontinuity => s1

/-- Back to A after 10 s LOCKED without interruption (R97). -/
def domainRevert (i : Nat) (s : State) : State :=
  let b := tbOf s i
  if bitOf (tbCfg s i) 7 ∧ b.activeB ∧ b.a.locked ∧ b.a.lockedAt + 10000000000 ≤ s.time.now ∧ abWithin s i then switchPath i false 1 s else s

/-- The rate of FREE follows CAL_REF_FREQ when that register is written: a time base changed to source 0 keeps its present correction (R105) until then
(DESIGN CHOICE, log entry 6). A time base in FREE runs at the rate of the 156.25 MHz reference with its measured error taken off (R63, R605). -/
def freeTrim (s : State) : State :=
  let f : Int := -(signed 32 (regN s R.CAL_REF_FREQ))
  { s with time := { s.time with bases := vMap s.time.bases (fun b => if b.state = .free then { b with freq := f } else b) } }

/-- A path starts afresh; its own time stays where the time base follows it, so that the value does not step (R94, R105). -/
def restartPath (keep : Bool) (p : RefPath) : RefPath := { RefPath.reset with rel := if keep then p.rel else 0 }

/-- Instances whose port or domain changes start afresh. An active instance B that runs no longer gives way to A, the one left, without a step of the
value and without a notice, which no rule names (R94, R105; DESIGN CHOICE, log entry 6). -/
def restartInstances (i : Nat) (old w : Word) (s : State) : State :=
  let b := tbOf s i
  let chA := bits old 11 8 != bits w 11 8 || bits old 23 16 != bits w 23 16
  let chB := bits old 15 12 != bits w 15 12 || bits old 31 24 != bits w 31 24
  let s1 := modTb i (fun x => { x with
    a := if chA then restartPath (!x.activeB) x.a else x.a, b := if chB then restartPath x.activeB x.b else x.b }) s
  let s2 := if b.activeB ∧ bits w 15 12 = 15 then followPath i false s1 else s1
  if b.state = .locked ∧ ((chA ∧ b.activeB = false) ∨ (chB ∧ b.activeB)) ∧ (activePath (tbOf s2 i)).locked = false then tbMove i .acquiring 3 s2 else s2

/-- A new word in TIM_TBn_CFG (R105): a change of source drops the lock and starts afresh, at the present frequency correction; a change of port
or domain restarts the instances it changes. Source 7 is stored as 0 (R63). -/
def tbCfgApply (i : Nat) (w : Word) (s : State) : State :=
  let w1 := if bits w 2 0 = 7 then setBits w 2 0 0 else w
  let old := tbCfg s i
  let b := tbOf s i
  let s1 := setReg (R.TIM_TBn_CFG i) (w1 &&& 0xFFFFFFC7) s
  if bits old 2 0 ≠ bits w1 2 0 then
    let new := if bits w1 2 0 = 0 then TbState.free else .acquiring
    let s2 := modTb i (fun x => { enterState s.time.now new x with
      a := { RefPath.reset with rel := (activePath x).rel }, b := RefPath.reset, activeB := false, lastLabel := none }) s1
    let s3 := tellState i b.state new 3 s2
    if i = selTb s then planFrame s3 else s3
  else if hasInstances s i then restartInstances i old w1 s1
  else s1

/-- Another time base is selected: a step of the old show time against the new time base (R93). Where show time freewheeled and does so no more, the
rest of the frame is planned anew (R85, R92). -/
def selectTb (i : Nat) (s : State) : State :=
  let old := selTb s
  if i = old then s
  else
    let before := corrC s
    let d := tbTime (tbOf s i) - tbTime (tbOf s old)
    let s1 := setField R.TIM_CTRL 1 0 i s
    if s.time.running = false then s1
    else
      let s2 := { s1 with time := { s1.time with tbEnd := s1.time.tbEnd + ((tbOf s i).ns - (tbOf s old).ns) } }
      if stepIsLarge true (stepThreshold s2) d before (corrC s2) then enterDiscontinuity i d s2
      else if (tbOf s old).state = .discontinuity ∧ (tbOf s i).state ≠ .discontinuity then planFrame s2
      else withdrawStep s2

/-- A time base that is not selected leaves DISCONTINUITY at once (R93). ABSORB and SLEW send TIME_STEP_APPLIED with nothing added to EPOCH_ADJ, and
HOLD sends no notice (DESIGN CHOICE, log entry 6). -/
def leaveStep (tb mode stepId : Nat) (s : State) : State :=
  let s1 := setFlag R.TIM_INT_STAT tb (modTb tb (enterState s.time.now (afterDiscontinuity (tbOf s tb))) s)
  if mode = 2 then s1 else notify 0x8102 24 [tb, mode, stepId, 0, st64 s] s1

/-- An accepted step whose zone-safe boundary is F(k), the boundary just reached (R89 to R91). Of several accepted before one boundary the first
counts: it ends the DISCONTINUITY, and the later ones find none; a HOLD accepted after an ABSORB or a SLEW takes neither back (DESIGN CHOICE, log
entry 6). A time base that is no longer selected leaves its DISCONTINUITY then too. -/
def applyAccept (s : State) (a : StepAccept) : State :=
  let i := a.tb.val
  let b := tbOf s i
  if b.state ≠ .discontinuity ∨ b.stepId ≠ a.stepId then s
  else if i ≠ selTb s then leaveStep i a.mode a.stepId s
  else
    let g := max 1 (gridCycle s)
    let q := if a.mode = 0 then roundDiv (corrC s) g.toNat * g else 0
    let s1 := modTb i (enterState s.time.now (afterDiscontinuity b)) s
    let s2 := planFrame { s1 with time := { s1.time with epochAdj := s1.time.epochAdj + q } }
    notify 0x8102 24 [i, a.mode, a.stepId, q, frameAt s s.time.fcount] (setFlag R.TIM_INT_STAT i s2)

def zoneSafe (s : State) : State :=
  if s.time.running = false then s
  else
    let due := s.time.accepts.filter (fun a => a.at_ + 2000000 ≤ frameAt s s.time.fcount)
    let rest := s.time.accepts.filter (fun a => !decide (a.at_ + 2000000 ≤ frameAt s s.time.fcount))
    due.foldl applyAccept { s with time := { s.time with accepts := rest } }

/-- Show time reaches the next frame boundary, and the frame that starts takes its share of C (R78, R85). -/
def frameTime (s : State) : State :=
  let s1 := reach (frameAt s (s.time.fcount + 1)) s
  withdrawStep (planFrame { s1 with time := { s1.time with fcount := s1.time.fcount + 1 } })

/-- m of R82: the smallest whole number of grid cycles that lifts `s0` to 1 ms above the mark. -/
def raiseCycles (s0 hwm g : Int) : Int := if s0 < hwm + 1000000 then (hwm + 1000000 - s0 + g - 1) / g else 0

/-- What a switch of instance left in C is left to the next update: no C is outstanding when show time starts (R81, log entry 6). -/
def settleRel (x : TimeBase) : TimeBase :=
  let d := (activePath x).rel
  { x with a := { x.a with rel := x.a.rel - d }, b := { x.b with rel := x.b.rel - d } }

/-- The frame rate that the registers ask for comes into force where R79 allows it; a pair that a diagnostic write left and R79 does not allow
leaves the one in force (DESIGN CHOICE, log entry 6). -/
def rateOk (n d : Nat) : Bool :=
  (d == 1 && decide (24 ≤ n) && decide (n ≤ 240)) || (d == 1001 && n % 1000 == 0 && decide (24 ≤ n / 1000) && decide (n / 1000 ≤ 240))

def takeRate (s : State) : State :=
  let n := regN s R.TIM_FRATE_NUM
  let d := regN s R.TIM_FRATE_DEN
  if rateOk n d then { s with time := { s.time with rateN := n, rateD := d } } else s

/-- Show time starts on the grid in force (R77, R79, R81, R82). -/
def startShow (s : State) : State :=
  let i := selTb s
  let o := if bitOf (tbCfg s i) 6 then Config.alignOrigin s.time.rateN s.time.rateD else reg64 s R.TIM_FORIGIN_LO
  let x := (tbOf s i).ns - s.time.epoch
  let g := max 1 (gridCycle s)
  let m := if s.time.hwmValid then raiseCycles x s.time.hwm g else 0
  let st := x + m * g
  let s1 := { s with time := { s.time with
    running := true, st64 := st, stRem := 0, epochAdj := -(m * g), origin := o, accepts := [], startDue := none
    bases := vMap s.time.bases settleRel } }
  let k := frameBefore s1 st
  let s2 := { s1 with time := { s1.time with fcount := k, startK := k, tbEnd := (tbOf s i).ns + (frameAt s1 (k + 1) - st) } }
  let s3 := if 0 < m then setFlag R.TIM_INT_STAT 12 s2 else s2
  let s4 := if s.time.hwmValid then s3 else setFlag R.TIM_INT_STAT 13 s3
  notify 0x8104 24 [st, s.time.hwm, bNat (decide (0 < m)) + 2 * bNat s.time.hwmValid] s4

/-- Show time starts (R79, R81). -/
def timeStart (s : State) : State := startShow (takeRate s)

/-- The last whole millisecond at or before an instant (R82). -/
def wholeMs (x : Int) : Int := x / 1000000 * 1000000

/-- The interrupt bits of the time bases that leave DISCONTINUITY at a stop (R81, R104). -/
def stopFlags (s : State) : State :=
  [0, 1, 2, 3].foldl (fun x i => if (tbOf s i).state = .discontinuity then setFlag R.TIM_INT_STAT i x else x) s

/-- Show time stops: the mark keeps the last whole millisecond, and a time base in DISCONTINUITY leaves it, with its interrupt bit and no notice
(R81, R82, R104; log entry 6). The mark is valid from the stop on, also after a loss of VBAT (DESIGN CHOICE, log entry 6). -/
def timeStop (s : State) : State :=
  if s.time.running = false then { s with time := { s.time with startDue := none } }
  else
    let leave (b : TimeBase) : TimeBase := if b.state = .discontinuity then enterState s.time.now (afterDiscontinuity b) b else b
    { stopFlags s with time := { s.time with
      running := false, st64 := 0, fcount := 0, startK := 0, accepts := [], startDue := none, hwm := wholeMs s.time.st64, hwmValid := true
      bases := vMap s.time.bases (fun b => settleRel (leave b)) } }

/-- The wait of R81 is over: LOCKED, or TIM_START_WAIT has passed. -/
def startReady (s : State) : Bool :=
  match s.time.startDue with
  | some t0 => (tbOf s (selTb s)).state == .locked || decide (t0 + bits (reg s R.TIM_START_WAIT) 15 0 * 1000000 ≤ s.time.now)
  | none => false

/-- The instances that a new word of a time base asks for all run, by R70. -/
def instancesFit (s : State) (tb : Nat) (w : Word) : Bool :=
  let l := wantedInstances ((allCfgs s).map (fun e => if e.1 = tb then (tb, w) else e))
  let mine := l.filter (fun x => x.1 == tb)
  mine.all (fun e => decide ((l.filter (fun x => x.2.2.1 == e.2.2.1)).length ≤ 2) &&
    decide ((l.filter (fun x => x.2.2 == e.2.2)).length ≤ 1))

/-- The word of TIM_TBn_CFG that TIME_BASE_SET gives (R102, R104). -/
def baseWord (p : TimeBaseSet) : Word :=
  BitVec.ofNat 32 (p.domainB * 16777216 + p.domainA * 65536 + p.portB * 4096 + p.portA * 256 + bNat (nBit p.flags 0) * 128 +
    bNat (nBit p.flags 1) * 64 + p.source)

/-- Commands of class 2 (R102). -/
def execTimeBaseSet (c : Call) (p : TimeBaseSet) (s : State) : Out :=
  command 0x0110 c s fun s =>
    let portOk (x : Nat) : Bool := decide (x ≤ 10) || x == 15
    if 3 < p.tb ∨ 6 < p.source ∨ portOk p.portA = false ∨ portOk p.portB = false ∨ 127 < p.domainA ∨ 127 < p.domainB then
      refuse .invalidParameter s
    else if instancesFit s p.tb (baseWord p) = false then refuse .invalidParameter s
    else if p.source = 3 ∧ genlockOk s s.time.rateN s.time.rateD = false then refuse .invalidParameter s
    else
      let s1 := setReg (R.TIM_TBn_REF_OFFSET p.tb) (loWord p.refOffset) s
      let s2 := setReg (R.TIM_TBn_AB_LIMIT p.tb) (BitVec.ofNat 32 p.abLimit) s1
      let s3 := setReg (R.TIM_TBn_LTC_DAY p.tb) (BitVec.ofNat 32 p.ltcDay) s2
      accept (tbCfgApply p.tb (baseWord p) s3)

def execTimeSelect (c : Call) (p : TimeSelect) (s : State) : Out :=
  command 0x0111 c s fun s =>
    if 3 < p.tb ∨ p.slew < 1 ∨ 1000 < p.slew ∨ p.threshold < 10 ∨ 1000000 < p.threshold ∨ 65535 < p.startWait then refuse .invalidParameter s
    else
      let s1 := setReg R.TIM_SLEW (BitVec.ofNat 32 p.slew) s
      let s2 := setReg R.TIM_STEP_THRESH (BitVec.ofNat 32 p.threshold) s1
      let s3 := setReg R.TIM_START_WAIT (BitVec.ofNat 32 p.startWait) s2
      accept (withdrawStep (selectTb p.tb s3))

/-- An accepted step waits for its zone-safe boundary, 2.0 ms after the ST64 of acceptance at least (R90). -/
def waitAccept (tb : Fin 4) (mode stepId : Nat) (s : State) : State :=
  { s with time := { s.time with accepts := s.time.accepts ++ [⟨tb, mode, stepId, st64 s⟩] } }

def acceptStep (p : TimeAcceptStep) (s : State) : State × Reply :=
  if h : p.tb < 4 ∧ p.mode ≤ 2 then
    let b := tbOf s p.tb
    if b.state ≠ .discontinuity ∨ b.stepId ≠ p.stepId then refuse .notFound s
    else if p.tb ≠ selTb s then accept (leaveStep p.tb p.mode p.stepId s)
    else accept (if p.mode = 2 then s else waitAccept ⟨p.tb, h.1⟩ p.mode p.stepId s)
  else refuse .invalidParameter s

/-- TIME_ACCEPT_STEP (R89, R90, R93). Which of several accepted before one boundary counts is said at `applyAccept` (DESIGN CHOICE, log entry 6). -/
def execTimeAcceptStep (c : Call) (p : TimeAcceptStep) (s : State) : Out := command 0x0112 c s fun s => acceptStep p (withdrawStep s)

/-- One 32-byte record of TIME_STATUS_GET with its TS96 value (R98, R102). -/
def tbRecord (s : State) (i : Nat) : List Int :=
  let b := tbOf s i
  [tbStateCode b.state, tbSource s i, bNat b.activeB, clampI (-2147483648) 2147483647 b.offset, b.freq,
   clampI (-2147483648) 2147483647 (abOffset b), (activePath b).pathDelay, b.ns % 1000000000, b.ns / 1000000000 % 281474976710656, i, tbStateCode b.state]

def execTimeStatusGet (c : Call) (s : State) : Out :=
  command 0x0113 c s fun s =>
    answer 144 ([st64 s, selTb s, bNat s.time.running + 2 * bNat s.time.hwmValid, clampI (-2147483647) 2147483647 (corrC s)] ++
      tbRecord s 0 ++ tbRecord s 1 ++ tbRecord s 2 ++ tbRecord s 3) s

/-- Events of the time references. -/
def execTbSourceUpdate (t : Nat) (tb : Fin 4) (b : Bool) (u : SourceUpdate) (s : State) : Out := .next (sourceUpdate tb b u (advance t s))

def execReferenceLost (t : Nat) (tb : Fin 4) (b : Bool) (s : State) : Out := .next (referenceLost tb b (advance t s))

def execDomainRevert (t : Nat) (tb : Fin 4) (s : State) : Out := .next (domainRevert tb (advance t s))

def execZoneSafeBoundary (t : Nat) (s : State) : Out := .next (zoneSafe (advance t s))

/-- The mark is set to the last whole millisecond of ST64 (R82). After a loss of VBAT it is valid again from the next one on (DESIGN CHOICE, log
entry 6). -/
def hwmMark (s : State) : State :=
  if s.time.running then { s with time := { s.time with hwm := wholeMs s.time.st64, hwmValid := true } } else s

/-- HWM_UPDATE (R82). After a loss of VBAT the mark it writes is valid again (DESIGN CHOICE, log entry 6). -/
def execHwmUpdate (t : Nat) (s : State) : Out := .next (withdrawStep (hwmMark (advance t s)))

/-- Every 60 s while the selected time base is LOCKED its seconds go into the RTC (R83). -/
def execRtcCopy (t : Nat) (s : State) : Out :=
  let s1 := advance t s
  let b := tbOf s1 (selTb s1)
  if b.state = .locked ∧ s1.time.rtcCopied + 60000000000 ≤ s1.time.now then
    .next { s1 with time := { s1.time with rtc := (b.ns / 1000000000 % 281474976710656).toNat, rtcCopied := s1.time.now } }
  else .next s1

/-- TIM_MAINS reads 0 once the last valid crossing is 66,667 µs old (R75). -/
def execMainsAbsentTimeout (t : Nat) (s : State) : Out :=
  let s1 := advance t s
  match s1.time.mainsValid with
  | some (at_, _, _) => if at_ + 66667000 ≤ s1.time.now then .next { s1 with time := { s1.time with mainsValid := none } } else .next s1
  | none => .next s1

/-- A crossing outside the window of R75 counts as missing for the loss condition of R63. -/
def crossingMissed (s : State) : State :=
  { s with time := { s.time with bases := Vector.ofFn (fun i : Fin 4 =>
      let b := tbOf s i
      if tbSource s i = 6 then { b with a := { b.a with good := 0, missed := b.a.missed + 1, lastAt := s.time.now } } else b) } }

/-- A rising crossing 15,385 to 22,222 µs after the one before is valid (R75). -/
def mainsCross (s : State) : State :=
  let now := s.time.now
  let fits := match s.time.mainsEdge with
    | some e => decide (e + 15385000 ≤ now) && decide (now ≤ e + 22222000)
    | none => false
  let s1 := { s with time := { s.time with
    mainsEdge := some now
    mainsValid := if fits then some (now, (now - s.time.mainsEdge.getD 0 + 500) / 1000, st64 s) else s.time.mainsValid } }
  if fits || s.time.mainsEdge.isNone then s1 else crossingMissed s1

end Sys2Proof.Machine
end

