-- ==== Sys2Proof/Machine/Video.lean ====
section
/-! DEFINITION. Video inputs and layer stores (05_inputs_and_layers.md): sources, ST 2022-7 merging, generators, and the judgement of the
layers at a frame boundary. -/

namespace Sys2Proof.Machine

def srcOf (s : State) (i : Nat) : Source := vGet s.vin.sources i Source.reset
def modSrc (i : Nat) (f : Source → Source) (s : State) : State := { s with vin := { s.vin with sources := vMod s.vin.sources i f } }
def layerOf (s : State) (l : Nat) : Layer := vGet s.vin.layers l Layer.reset
def modLayer (l : Nat) (f : Layer → Layer) (s : State) : State := { s with vin := { s.vin with layers := vMod s.vin.layers l f } }

def srcCode (x : SourceState) : Nat :=
  match x with
  | .off => 0 | .searching => 1 | .running => 2 | .lost => 3 | .format => 4

def isGenerator (i : Nat) : Bool := decide (20 ≤ i)
def isStream (i : Nat) : Bool := decide (4 ≤ i) && decide (i < 20)

/-- Configured raster in force (R210). -/
def rasterW (s : State) (i : Nat) : Nat := bits (regF s (R.VIN_Sn_RASTER i)) 15 0
def rasterH (s : State) (i : Nat) : Nat := bits (regF s (R.VIN_Sn_RASTER i)) 31 16

/-- Raster and rate codes of VIN_Sn_STATE (R210). -/
def rasterCode (stream : Bool) (x : Source) : Nat :=
  match x.width, x.height with
  | 0, _ => 0
  | 1280, 720 => 1
  | 1920, 1080 => if x.interlaced then 2 else 3
  | 2048, 1080 => 4
  | 3840, 2160 => 5
  | 4096, 2160 => 6
  | _, _ => if stream then 7 else 0

def rateCode (num den : Nat) : Nat :=
  match num, den with
  | 0, _ => 0
  | 24000, 1001 => 1 | 24, 1 => 2 | 25, 1 => 3 | 30000, 1001 => 4 | 30, 1 => 5 | 50, 1 => 6 | 60000, 1001 => 7 | 60, 1 => 8
  | _, _ => 9

/-- The rate a source shows: detected of an SDI input, by its parameters of a stream of which a frame has come, T of a generator that publishes
(R187, R199, R210). -/
def srcRate (s : State) (i : Nat) : Nat × Nat :=
  let x := srcOf s i
  if isGenerator i then (if x.newest.isSome then (s.time.rateN, s.time.rateD) else (0, 1))
  else if isStream i then (match aFind s.cfgA.streams (i - 4) with
    | some p => if x.width = 0 then (0, 1) else (p.rateNum, p.rateDen)
    | none => (0, 1))
  else (x.rateNum, x.rateDen)

def srcFmt (s : State) (i : Nat) : Nat := rasterCode (isStream i) (srcOf s i) * 16 + rateCode (srcRate s i).1 (srcRate s i).2

/-- A source changes state: interrupt bit and INPUT_STATE (R205, R208). Causes: 0 lock, 1 signal lost, 2 format, 3 host. -/
def srcMove (i : Nat) (new : SourceState) (cause : Nat) (s : State) : State :=
  let x := srcOf s i
  if x.state = new then s
  else notify 0x8160 16 [i, srcCode x.state, srcCode new, cause, srcFmt s i, st64 s]
    (setFlag R.VIN_INT_STAT 0 (modSrc i (fun y => { y with state := new, good := 0 }) s))

/-- The nominal frame period P_nom in ns: T for a generator, the stream's parameters, the detected rate of an SDI input (R184, R199). -/
def nominalPeriod (s : State) (i : Nat) : Nat :=
  if isGenerator i then (periodTo s (s.time.fcount + 1)).toNat
  else if isStream i then
    match aFind s.cfgA.streams (i - 4) with
    | some p => 1000000000 * p.rateDen / max 1 p.rateNum
    | none => 0
  else 1000000000 * (srcOf s i).rateDen / max 1 (srcOf s i).rateNum

/-- How a source's samples are coded: the payload identifier or the stream's parameters, with the overrides of VIN_Sn_CFG; without an identifier an SDI
input is BT.709, SDR and narrow range (R185, R188). -/
def codingOf (s : State) (i : Nat) (f : FrameIn) : Coding :=
  let base : Coding := match (if isStream i then aFind s.cfgA.streams (i - 4) else none) with
    | some p => ⟨p.sampling, p.depth, nBit p.flags 2, decide (1 ≤ p.colorimetry), p.tcs⟩
    | none => if f.payload then f.coding else { f.coding with full := false, bt2020 := false, transfer := 0 }
  let w := regF s (R.VIN_Sn_CFG i)
  { base with
    full := if bits w 29 28 = 1 then false else if bits w 29 28 = 2 then true else base.full
    transfer := if bits w 27 26 = 0 then base.transfer else bits w 27 26 - 1
    bt2020 := if bits w 25 24 = 1 then false else if bits w 25 24 = 2 then true else base.bt2020 }

/-- The format of a received SDI frame is one of R183. A frame without a payload identifier carries no rate, and its rate is not judged. -/
def sdiFormatOk (f : FrameIn) : Bool :=
  let within (n d m e : Nat) : Bool := f.rateNum == 0 || (decide (n * f.rateDen ≤ f.rateNum * d) && decide (f.rateNum * e ≤ m * f.rateDen))
  let isRate (n d : Nat) : Bool := f.rateNum == 0 || f.rateNum * d == n * f.rateDen
  let ycc422 := f.coding.sampling == 0 && f.coding.depth == 10
  let uhd := (f.width == 3840 || f.width == 4096) && f.height == 2160 && !f.interlaced && within 24000 1001 60 1 &&
    (ycc422 || (f.coding.depth == 10 && decide (f.coding.sampling ≤ 2) && (f.rateNum == 0 || decide (f.rateNum ≤ 30 * f.rateDen))))
  let full := (f.width == 1920 || f.width == 2048) && f.height == 1080 && !f.interlaced && within 24000 1001 60 1 && ycc422
  let hd := f.width == 1280 && f.height == 720 && !f.interlaced && ycc422 && (isRate 50 1 || isRate 60000 1001 || isRate 60 1)
  let woven := f.width == 1920 && f.height == 1080 && f.interlaced && ycc422 && (isRate 25 1 || isRate 30000 1001 || isRate 30 1)
  uhd || full || hd || woven

/-- The writer's buffer: the lowest-numbered that holds neither the newest, nor a latched, nor the pinned frame (R196). -/
def freeBuffer (s : State) (i : Nat) : Nat :=
  let used (f : Option StoredFrame) (b : Nat) : Bool := match f with
    | some g => g.buffer == b
    | none => false
  let x := srcOf s i
  let busy (b : Nat) : Bool := used x.newest b || used x.pinned b ||
    (List.range 16).any (fun l => (layerOf s l).bound == i && used (layerOf s l).shown b)
  if busy 0 = false then 0 else if busy 1 = false then 1 else if busy 2 = false then 2 else 3

/-- The writer starts a frame: it chooses its buffer (R196). Without an event of the frame before its completion, the choice falls at the completion
(DESIGN CHOICE, log entry 10). -/
def beginWrite (i : Nat) (s : State) : State :=
  if (srcOf s i).writing.isSome then s else modSrc i (fun y => { y with writing := some (freeBuffer s i) }) s

def endWrite (i : Nat) (s : State) : State := modSrc i (fun y => { y with writing := none }) s

/-- A frame is published with its completion instant and tags (R195, R197). -/
def publish (i : Nat) (p : Picture) (w h transfer : Nat) (bt2020 : Bool) (done : Int) (s : State) : State :=
  let x := srcOf s i
  let b := x.writing.getD (freeBuffer s i)
  bump (R.VIN_Sn_FRAMES i) (modSrc i (fun y => { y with
    newest := some ⟨y.next, done, p, w, h, transfer, bt2020, b⟩, next := y.next + 1, published := y.published + 1, lastC := some done, lastDone := s.time.now
    period := match x.lastC with
      | some c => (done - c).toNat
      | none => y.period }) s)

def discardFrame (i : Nat) (s : State) : State :=
  bump (R.VIN_Sn_DISCARD i) (modSrc i (fun y => { y with discarded := y.discarded + 1 }) s)

/-- A complete frame of the configured raster arrives: checked, or published from the second on (R205, R206). -/
def frameAccepted (i : Nat) (p : Picture) (w h transfer : Nat) (bt2020 : Bool) (done : Int) (s : State) : State :=
  match (srcOf s i).state with
  | .off => s
  | .running => publish i p w h transfer bt2020 done s
  | .searching =>
    if (srcOf s i).good = 0 then modSrc i (fun y => { y with good := 1 }) s
    else publish i p w h transfer bt2020 done (srcMove i .running 0 s)
  | .lost | .format => modSrc i (fun y => { y with good := 1 }) (srcMove i .searching (if (srcOf s i).state = .format then 2 else 0) s)

/-- How far sequence number `a` lies behind `b`, negative before it. -/
def seqDist (a b : Word) : Int := (a - b).toInt

/-- A marker packet in its place by sequence number. -/
def insertMark (x : Word × Nat) (l : List (Word × Nat)) : List (Word × Nat) :=
  match l with
  | [] => [x]
  | y :: r => if seqDist x.1 y.1 < 0 then x :: y :: r else y :: insertMark x r

/-- The marker packets received, in sequence. -/
def sortedMarks (m : StreamMerge) : List (Word × Nat) := m.marks.foldl (fun l x => insertMark x l) []

/-- The marker packet of the frame in progress: of those received, the first in sequence. -/
def frameMark (m : StreamMerge) : Option (Word × Nat) := (sortedMarks m).head?

/-- The first and the marker sequence number of each frame whose marker has come, `a` the first of them. A frame whose marker packet came on no path
has no end of its own and joins the next one up to that frame's marker (DESIGN CHOICE, log entry 10). Of an interlaced stream the first marker ends the
frame too, since the rules name one marker packet for a frame (DESIGN CHOICE, log entry 10). -/
def frameSpans (a : Word) (l : List (Word × Nat)) : List (Word × Word) :=
  match l with
  | [] => []
  | x :: r => (a, x.1) :: frameSpans (x.1 + 1) r

def spansOf (m : StreamMerge) : List (Word × Word) := ((m.first.map (fun a => frameSpans a (sortedMarks m)))).getD []

/-- Sequence numbers of a frame that came on neither path. -/
def spanMissing (m : StreamMerge) (x : Word × Word) : Nat :=
  ((List.range ((x.2 - x.1).toNat + 1)).filter (fun k => !m.got.contains (x.1 + BitVec.ofNat 32 k))).length

/-- The sequence numbers from the first packet of the frame in progress to its marker packet have all come (R191). -/
def streamWhole (m : StreamMerge) : Bool := ((spansOf m).head?.map (fun x => spanMissing m x == 0)).getD false

/-- Sequence numbers of the frame in progress that came on neither path. -/
def streamMissing (m : StreamMerge) : Nat := ((spansOf m).head?.map (spanMissing m)).getD 0

/-- The frame that is complete and not published yet: the one in progress, or a later one where a packet of that is still awaited (R191). -/
def streamReady (m : StreamMerge) : Option (Word × Word) := (spansOf m).find? (fun x => spanMissing m x == 0 && !m.taken.contains x.2)

/-- Frames at the front that are published or discarded leave with their packets; those of later frames stay. -/
def dropTaken (l : List (Word × Word)) (m : StreamMerge) : StreamMerge :=
  match l with
  | [] => m
  | x :: r =>
    if m.taken.contains x.2 then
      dropTaken r { m with
        got := m.got.filter (fun a => decide (0 < seqDist a x.2)), first := some (x.2 + 1)
        marks := m.marks.filter (fun y => y.1 != x.2), taken := m.taken.filter (· != x.2) }
    else m

/-- The frame with this marker packet is published or discarded. -/
def streamDone (mark : Word) (m : StreamMerge) : StreamMerge := dropTaken (spansOf m) { m with taken := mark :: m.taken }

/-- The next frame's packets follow the marker packet; those that have come already stay. -/
def streamNext (m : StreamMerge) : StreamMerge :=
  match frameMark m with
  | some z => streamDone z.1 m
  | none => { m with got := [], first := none, marks := [], taken := [] }

/-- The frame that is complete leaves the merge. -/
def streamTake (m : StreamMerge) : StreamMerge :=
  match streamReady m with
  | some x => streamDone x.2 m
  | none => m

/-- Bytes written to a layer store, for VIN_WR_RATE (R210). -/
def wrote (n : Nat) (s : State) : State := { s with vin := { s.vin with written := s.vin.written + n } }

/-- The frame that a receiver has completed is judged (R184 to R186, R191, R205, R206). One that is not published was written as well, and counts in
VIN_WR_RATE with the bytes of its raster, also where it is not whole (R197, R210; DESIGN CHOICE, log entry 10). -/
def frameTaken (i : Nat) (f : FrameIn) (s : State) : State :=
  let x := srcOf s i
  let s0 := modSrc i (fun y => { y with
    width := f.width, height := f.height, interlaced := f.interlaced, crcBad := false, merge := streamTake y.merge
    rateNum := if isStream i then y.rateNum else f.rateNum
    rateDen := if isStream i then y.rateDen else f.rateDen
    lastDone := if f.whole then s.time.now else y.lastDone }) s
  let bytes := f.width * f.height * 8
  if f.whole = false then modSrc i (fun y => { y with good := 0 }) (discardFrame i (wrote bytes s0))
  else if f.width ≠ rasterW s i ∨ f.height ≠ rasterH s i ∨ (isStream i = false ∧ (f.supported && sdiFormatOk f) = false) then srcMove i .format 2 s0
  else if x.crcBad ∧ bitOf (regF s (R.VIN_Sn_CFG i)) 30 then modSrc i (fun y => { y with good := 0 }) (discardFrame i (wrote bytes s0))
  else
    let c := codingOf s i f
    frameAccepted i (.received c f.width f.fill f.pixels) f.width f.height c.transfer c.bt2020 s.time.st64 (wrote bytes s0)

/-- A receiver has completed a frame. Before show time runs input is discarded. -/
def frameComplete (i : Nat) (f : FrameIn) (s : State) : State :=
  let x := srcOf s i
  if x.state = .off ∨ isGenerator i then s
  else if isStream i ∧ streamReady x.merge = none then s
  else if s.time.running = false then endWrite i (modSrc i (fun y => { y with crcBad := false, merge := streamTake y.merge }) s)
  else endWrite i (frameTaken i f s)

def execSourceFrameComplete (t : Nat) (src : Fin 28) (f : FrameIn) (s : State) : Out := .next (frameComplete src f (advance t s))

/-- The line CRC of a received line (R186); the first line of a frame starts its write (R196). -/
def execSdiLineReceived (t : Nat) (src : Fin 4) (crcOk : Bool) (s : State) : Out :=
  let s1 := advance t s
  if (srcOf s1 src).state = .off then .next s1
  else if crcOk then .next (beginWrite src s1)
  else .next (bump (R.VIN_Sn_CRC src) (modSrc src (fun y => { y with crcBad := true }) (beginWrite src s1)))

/-! ST 2022-7 (R188 to R191). -/

/-- The parameters of stream `i` in force. -/
def streamOf (s : State) (i : Nat) : Option InputStreamSet := aFind s.cfgA.streams i

/-- Packets of this path are received. -/
def pathOn (p : InputStreamSet) (pathB : Bool) : Bool := nBit p.paths (if pathB then 1 else 0)

def missed (src : Nat) (pathB : Bool) (s : State) : State :=
  if pathB then bump (R.VIN_Sn_MISS_B src) (modSrc src (fun y => { y with missB := y.missB + 1 }) s)
  else bump (R.VIN_Sn_MISS_A src) (modSrc src (fun y => { y with missA := y.missA + 1 }) s)

/-- A packet fits the parameters of its stream (R188): payload type, SSRC where one is given, its line and samples within the configured raster; a
field of an interlaced stream has half the lines. -/
def packetFits (p : InputStreamSet) (x : StreamPacket) : Bool :=
  x.pt == p.pt && (p.ssrc == 0 || x.ssrc == p.ssrc) && decide (x.line < (if nBit p.flags 0 then (p.height + 1) / 2 else p.height)) &&
    decide (x.pixel + x.count ≤ p.width)

/-- A differential joins those of the last second; ones that it reaches are forgotten (R210). -/
def noteSkew (now us : Nat) (l : List (Nat × Nat)) : List (Nat × Nat) :=
  l.filter (fun e => decide (now < e.1 + 1000000000) && decide (us < e.2)) ++ [(now, us)]

/-- The path differential over the last second: the largest (DESIGN CHOICE, log entry 10). -/
def skewUs (s : State) (i : Nat) : Nat :=
  ((srcOf s i).merge.skews.filter (fun e => decide (s.time.now < e.1 + 1000000000))).foldl (fun m e => max m e.2) 0

/-- The first copy of a packet is used and the second dropped, also where it comes after its frame or after its loss was declared; the differential of the paths is measured when both have come (R190, R191). -/
def mergePacket (both pathB : Bool) (seq : Word) (marker : Bool) (now : Nat) (m : StreamMerge) : StreamMerge :=
  let mine := if pathB then m.seenB else m.seenA
  let other := if pathB then m.seenA else m.seenB
  match other.find? (fun x => x.1 == seq) with
  | some x =>
    let rest := other.filter (fun y => y.1 != seq)
    { m with
      seenA := if pathB then rest else m.seenA
      seenB := if pathB then m.seenB else rest
      lastPacket := now
      skews := noteSkew now ((now - x.2) / 1000) m.skews }
  | none =>
    if mine.any (fun x => x.1 == seq) ∨ m.got.contains seq ∨ m.first.any (fun a => decide (seqDist seq a < 0)) then { m with lastPacket := now }
    else
      let add := if both then (seq, now) :: mine else mine
      { m with
        got := seq :: m.got
        seenA := if pathB then m.seenA else add
        seenB := if pathB then add else m.seenB
        first := some (m.first.getD seq)
        marks := if marker then m.marks ++ [(seq, now)] else m.marks
        lastPacket := now }

/-- An ST 2110-20 packet reaches a media port (R188, R190, R191); one that is used starts the write of its frame (R196). -/
def execStreamPacketReceived (t : Nat) (stream : Fin 16) (pathB : Bool) (x : StreamPacket) (s : State) : Out :=
  let s1 := advance t s
  match streamOf s1 stream with
  | some p =>
    let src := stream.val + 4
    if (srcOf s1 src).state = .off ∨ pathOn p pathB = false then .next s1
    else if packetFits p x = false then .next (missed src pathB s1)
    else
      let m := mergePacket (p.paths % 4 == 3) pathB x.seq x.marker s1.time.now (srcOf s1 src).merge
      let s2 := modSrc src (fun y => { y with merge := m }) s1
      .next (if m.got = (srcOf s1 src).merge.got then s2 else beginWrite src s2)
  | none => .next s1

/-- A packet seen on the other path only, skew_max after it came there, is lost on this one (R190). -/
def execPathLossTimeout (t : Nat) (stream : Fin 16) (pathB : Bool) (seq : Word) (s : State) : Out :=
  let s1 := advance t s
  let src := stream.val + 4
  let m := (srcOf s1 src).merge
  match streamOf s1 stream, (if pathB then m.seenA else m.seenB).find? (fun x => x.1 == seq) with
  | some p, some x =>
    if s1.time.now < x.2 + p.skewMax * 1000 then .next s1
    else
      let cut (l : List (Word × Nat)) := l.filter (fun y => y.1 != seq)
      .next (missed src pathB (modSrc src (fun y => { y with merge :=
        if pathB then { y.merge with seenA := cut y.merge.seenA } else { y.merge with seenB := cut y.merge.seenB } }) s1))
  | _, _ => .next s1

/-- A stream frame still not whole skew_max after its marker packet is discarded (R191). -/
def execStreamFrameTimeout (t : Nat) (stream : Fin 16) (s : State) : Out :=
  let s1 := advance t s
  let src := stream.val + 4
  let m := (srcOf s1 src).merge
  match streamOf s1 stream, frameMark m with
  | some p, some (_, t0) =>
    if s1.time.now < t0 + p.skewMax * 1000 ∨ streamWhole m then .next s1
    else
      let n := streamMissing m
      .next (setFlag R.VIN_INT_STAT 4 (bumpBy (R.VIN_Sn_LOST_BOTH src) n (discardFrame src (wrote (rasterW s1 src * rasterH s1 src * 8) (modSrc src (fun y => { y with
        good := 0, lostBoth := y.lostBoth + n, merge := streamNext y.merge, writing := none }) s1)))))
  | _, _ => .next s1

/-! Pattern generators (R192, R193). -/

/-- A generator moves: patterns 5 and 6 with a speed other than 0. -/
def genMoves (g : GeneratorSet) : Bool := (g.pattern == 5 || g.pattern == 6) && g.speed != 0

/-- The stored frame is published again with a new sequence number, its buffer untouched (R193). -/
def republish (i : Nat) (done : Int) (s : State) : State :=
  bump (R.VIN_Sn_FRAMES i) (modSrc i (fun y => { y with
    newest := y.newest.map (fun f => { f with seq := y.next, done := done })
    next := y.next + 1, published := y.published + 1, lastC := some done, lastDone := s.time.now
    period := match y.lastC with
      | some c => (done - c).toNat
      | none => y.period }) s)

/-- The frame for boundary F(k), complete at F(k) − 500 µs. Where GENERATOR_SET comes into force at F(k) a second frame for F(k) is published then, with
the same completion instant, and VIN_Ln_DROP counts the first one (R192; DESIGN CHOICE, log entry 10). A generator that is enabled is always ready (R192), so its first frame takes it to
RUNNING (log entry 10). -/
def genPublish (i : Nat) (g : GeneratorSet) (k : Int) (s : State) : State :=
  let x := srcOf s i
  let done := frameAt s k - 500000
  if x.state = .off ∨ x.lastC = some done then s
  else
    let s1 := srcMove i .running 0 s
    let pic := Picture.generated g (if genMoves g then x.next else 0)
    if genMoves g = false ∧ x.rewrite = false ∧ x.newest.map StoredFrame.picture = some pic then republish i done s1
    else publish i pic g.width g.height g.transfer (g.primaries == 1) done
      (wrote (g.width * g.height * 8) (modSrc i (fun y => { y with rewrite := false }) s1))

def execGeneratorPublish (t : Nat) (g : Fin 8) (s : State) : Out :=
  let s1 := advance t s
  match s1.time.running, aFind s1.cfgA.generators g with
  | true, some p =>
    let k := s1.time.fcount + 1
    .next (genPublish (g + 20) p k (reach (frameAt s1 k - 500000) s1))
  | _, _ => .next s1

/-! Source states (R205). -/

def execSdiLockLost (t : Nat) (src : Fin 4) (s : State) : Out :=
  let s1 := advance t s
  match (srcOf s1 src).state with
  | .searching | .running | .format => .next (srcMove src .lost 1 s1)
  | .off | .lost => .next s1

/-- No frame has completed for 3 P_nom, or a stream has had no packet on any path for as long (R205). -/
def lossDue (s : State) (i : Nat) : Bool :=
  let x := srcOf s i
  let p := 3 * nominalPeriod s i
  decide (0 < p) && (decide (x.lastDone + p ≤ s.time.now) ||
    (isStream i && decide (max x.lastDone x.merge.lastPacket + p ≤ s.time.now)))

def execSourceLossTimeout (t : Nat) (src : Fin 28) (s : State) : Out :=
  let s1 := advance t s
  match (srcOf s1 src).state with
  | .searching | .running | .format => if lossDue s1 src then .next (srcMove src .lost 1 s1) else .next s1
  | .off | .lost => .next s1

def execSignalReturn (t : Nat) (src : Fin 28) (s : State) : Out :=
  let s1 := advance t s
  if (srcOf s1 src).state = .lost then
    .next (srcMove src .searching 0 (modSrc src (fun y => { y with lastDone := s1.time.now, merge := StreamMerge.empty, crcBad := false, writing := none }) s1))
  else .next s1

/-! Layers at a frame boundary (R199 to R204, R207, R209). -/

/-- J of R199, in ns. -/
def jitterNs (s : State) (i : Nat) : Int := (bits (regF s (R.VIN_Sn_CFG i)) 15 0 : Int) * 1000

/-- The source is ready at F(k): RUNNING, and its newest frame no older than P_nom + J (R199). -/
def srcReady (s : State) (i : Nat) (fk : Int) : Bool :=
  let x := srcOf s i
  match x.state, x.newest with
  | .running, some f => decide (fk - f.done ≤ (nominalPeriod s i : Int) + jitterNs s i)
  | _, _ => false

def bindW (s : State) (l : Nat) : Word := regF s (R.VIN_Ln_BIND l)
def bindSource (s : State) (l : Nat) : Nat := bits (bindW s l) 7 0
def bindPolicy (s : State) (l : Nat) : Nat := bits (bindW s l) 9 8
def bindHold (s : State) (l : Nat) : Nat := bits (bindW s l) 23 16

/-- A layer lets its pinned frame go; the source's pin goes with the last layer that holds it (R202). -/
def unpin (l : Nat) (s : State) : State :=
  let i := (layerOf s l).bound
  let s1 := modLayer l (fun y => { y with held := false }) s
  if (layerOf s l).held = true ∧ (List.range 16).all (fun m => !((layerOf s1 m).held && (layerOf s1 m).bound == i)) then
    modSrc i (fun y => { y with pinned := none }) s1
  else s1

/-- A binding comes into force (R203). -/
def rebind (l : Nat) (s : State) : State :=
  let i := bindSource s l
  if (layerOf s l).bound ≠ i then
    modLayer l (fun y => { y with bound := i, bindSeq := (srcOf s i).next, shown := none, notReady := 0, release := [] }) (unpin l s)
  else if bindPolicy s l ≠ 2 then unpin l s
  else s

/-- The newest frame published since the bind. -/
def sinceBind (s : State) (l : Nat) : Option StoredFrame :=
  match (srcOf s (layerOf s l).bound).newest with
  | some f => if (layerOf s l).bindSeq ≤ f.seq then some f else none
  | none => none

/-- Two rates N / D are equal, or one is the other's 1000/1001 companion, as 59.94 Hz and 60 Hz are: a source of that rate slips too, by the example of
R207 (DEDUCED, log entry 10). -/
def nearRate (a b : Nat × Nat) : Bool :=
  let x := a.1 * b.2
  let y := b.1 * a.2
  x == y || 1001 * x == 1000 * y || 1000 * x == 1001 * y

/-- A slip of an unlocked source of the show's rate is counted once per boundary (R207). -/
def noteSlip (i kind n : Nat) (s : State) : State :=
  let x := srcOf s i
  if isGenerator i ∨ nearRate (srcRate s i) (s.time.rateN, s.time.rateD) = false ∨ x.slipFrame = s.time.fcount then s
  else setFlag R.VIN_INT_STAT 3 (modSrc i (fun y => { y with slips := y.slips + n, slipKind := kind, slipFrame := s.time.fcount }) s)

/-- F − C for the newest frame, F the first boundary at or after C (R210). -/
def leadOf (s : State) (i : Nat) : Int :=
  match (srcOf s i).newest with
  | some f => if s.time.running then frameAt s (frameBefore s (f.done - 1) + 1) - f.done else 0
  | none => 0

/-- INPUT_SLIP at most once per second, with the count since the last (R207). -/
def sendSlip (s : State) (i : Nat) : State :=
  let x := srcOf s i
  let quiet := match x.slipAt with
    | some t => decide (s.time.now < t + 1000000000)
    | none => false
  if x.slips = 0 ∨ quiet = true then s
  else notify 0x8163 16 [i, x.slipKind, min 65535 x.slips, leadOf s i, st64 s]
    (modSrc i (fun y => { y with slips := 0, slipAt := some s.time.now }) s)

/-- A ready layer latches the newest frame: fresh, or a cadence repeat; frames between are drops (R200). -/
def latchReady (l : Nat) (f : StoredFrame) (s : State) : State :=
  let i := (layerOf s l).bound
  match (layerOf s l).shown with
  | none => modLayer l (fun y => { y with shown := some f, choice := 0 }) s
  | some g =>
    if g.seq = f.seq then noteSlip i 0 1 (bump (R.VIN_Ln_REPEAT l) (modLayer l (fun y => { y with shown := some f, choice := 1 }) s))
    else
      let d := f.seq - g.seq - 1
      let s1 := modLayer l (fun y => { y with shown := some f, choice := 0 }) s
      if d = 0 then s1 else noteSlip i 1 d (bumpBy (R.VIN_Ln_DROP l) d s1)

/-- A layer that is not ready follows its policy (R201). -/
def latchPolicy (l : Nat) (s : State) : State :=
  let i := (layerOf s l).bound
  let show_ (f : Option StoredFrame) (held : Bool) (x : State) : State :=
    modLayer l (fun y => { y with shown := f, choice := 2, held := held }) x
  match bindPolicy s l with
  | 1 => show_ none false s
  | 2 =>
    match (srcOf s i).pinned, (srcOf s i).newest with
    | some f, _ => show_ (some f) true s
    | none, some f => show_ (some f) true (modSrc i (fun y => { y with pinned := some f }) s)
    | none, none => show_ none false s
  | _ => show_ (sinceBind s l) false s

/-- Notices and counters of a run of not-ready boundaries (R201, R209). -/
def noteReady (l : Nat) (ready : Bool) (k fk : Int) (s : State) : State :=
  let y := layerOf s l
  let i := y.bound
  if ready then
    if y.notReady = 0 then s
    else notify 0x8162 16 [l, i, y.notReady, fk] (setFlag R.VIN_INT_STAT 2 (modLayer l (fun z => { z with notReady := 0 }) s))
  else
    let cause := if (srcOf s i).state ≠ .running then 1 else if sinceBind s l = none then 2 else 0
    let c := match y.shown with
      | some f => f.done
      | none => 0
    let s1 := setFlag R.VIN_INT_STAT 1 (bump (R.VIN_Ln_NOTREADY l) (modLayer l (fun z => { z with notReady := z.notReady + 1 }) s))
    if y.notReady = 0 then
      notify 0x8161 24 [l, i, bindPolicy s l, cause, unsignedOf 32 k, c, fk] s1
    else s1

/-- A HOLD pin is released by the host or by hold_frames ready boundaries (R202). -/
def holdRelease (l : Nat) (fk : Int) (s : State) : State :=
  let y := layerOf s l
  let due (r : Int) : Bool := decide (r ≤ fk - 2000000)
  let asked := y.release.any due
  let s1 := if asked then modLayer l (fun z => { z with release := z.release.filter (fun r => !due r) }) s else s
  let n := bindHold s l
  if y.held = true ∧ (asked = true ∨ (n ≠ 0 ∧ n ≤ (srcOf s y.bound).readyRun)) then unpin l s1 else s1

/-- The judgement of layer `l` at F(k) (R199 to R203). -/
def judgeLayer (k : Int) (s : State) (l : Nat) : State :=
  let fk := frameAt s k
  let s0 := rebind l s
  let i := (layerOf s0 l).bound
  if 27 < i then modLayer l (fun y => { y with shown := none, choice := 3, held := false }) s0
  else
    let ready := srcReady s0 i fk
    let s1 := holdRelease l fk s0
    if (layerOf s1 l).held then noteReady l ready k fk (modLayer l (fun y => { y with choice := if ready then 1 else 2 }) s1)
    else match ready, (srcOf s1 i).newest with
      | true, some f => noteReady l true k fk (latchReady l f s1)
      | _, _ => noteReady l false k fk (latchPolicy l s1)

/-- The run of ready boundaries of a source, counting this one (R202). -/
def countReady (fk : Int) (s : State) (i : Nat) : State :=
  let r := srcReady s i fk
  modSrc i (fun y => { y with readyRun := if r then y.readyRun + 1 else 0 }) s

/-- A source follows its configuration in force (R189, R205, R211): `old` the machine before the copy. A stream with new parameters starts its merge
anew (R188, R190; DEDUCED, log entry 10). -/
def srcConfigure (old : State) (k : Int) (s : State) (i : Nat) : State :=
  let w := rasterW s i
  let h := rasterH s i
  let on := bitOf (regF s (R.VIN_Sn_CFG i)) 31 && decide (0 < w) && decide (0 < h)
  let x := srcOf s i
  let fresh := x.state == .off
  let moved := regF old (R.VIN_Sn_RASTER i) != regF s (R.VIN_Sn_RASTER i)
  let gen := if isGenerator i then aFind s.cfgA.generators (i - 20) else none
  let newStream := isStream i && aFind s.cfgA.streams (i - 4) != aFind old.cfgA.streams (i - 4)
  let newGen := isGenerator i && (x.rewrite || gen != aFind old.cfgA.generators (i - 20))
  let s1 := if on = false then srcMove i .off 3 (modSrc i (fun y => { y with newest := none, merge := StreamMerge.empty, writing := none }) s)
    else if fresh then srcMove i .searching 3 (modSrc i (fun y => { y with
        newest := none, published := 0, discarded := 0, missA := 0, missB := 0, lostBoth := 0, lastDone := s.time.now, lastC := none
        merge := StreamMerge.empty, crcBad := false, writing := none }) s)
    else if moved then srcMove i .searching 3 (modSrc i (fun y => { y with
        newest := none, good := 0, lastDone := s.time.now, crcBad := false, writing := none
        merge := if newStream then StreamMerge.empty else y.merge }) s)
    else if newStream then modSrc i (fun y => { y with merge := StreamMerge.empty, writing := none }) s
    else s
  match on && (fresh || moved || newGen), gen with
  | true, some g =>
    let s2 := modSrc i (fun y => { y with width := g.width, height := g.height, lastC := none, rewrite := true }) s1
    if s.time.running then genPublish i g k s2 else s2
  | _, _ => s1

/-- Multicast groups joined for every enabled stream and path (R189). -/
def joinsOf (s : State) : List (Nat × Nat × Nat) :=
  s.cfgA.streams.flatMap (fun e =>
    if (srcOf s (e.1 + 4)).state = .off then []
    else (if nBit e.2.paths 0 then [(0, e.2.groupA, e.2.srcA)] else []) ++ (if nBit e.2.paths 1 then [(1, e.2.groupB, e.2.srcB)] else []))

/-- A commit's VIN part comes into force at F(k). -/
def vinConfigure (old : State) (k : Int) (s : State) : State :=
  let s1 := (List.range 28).foldl (srcConfigure old k) s
  { s1 with vin := { s1.vin with joined := joinsOf s1 } }

/-- VIN at F(k): layers judged, slips reported, the write rate of the last frame (R199, R207, R210). -/
def frameVin (k : Int) (s : State) : State :=
  let fk := frameAt s k
  let s1 := (List.range 28).foldl (countReady fk) s
  let s2 := (List.range 16).foldl (judgeLayer k) s1
  let s3 := (List.range 20).foldl sendSlip s2
  setReg R.VIN_WR_RATE (BitVec.ofNat 32 (s3.vin.written * 1000 / max 1 (periodTo s k).toNat))
    { s3 with vin := { s3.vin with written := 0 } }

/-- Show time stops: frames, latches and pins go (R697). -/
def vinStop (s : State) : State :=
  { s with vin := { s.vin with
    written := 0
    sources := vMap s.vin.sources (fun x => { x with
      newest := none, pinned := none, good := 0, crcBad := false, writing := none, merge := StreamMerge.empty, lastC := none, readyRun := 0, slips := 0 })
    layers := vMap s.vin.layers (fun y => { Layer.reset with bound := y.bound, bindSeq := y.bindSeq }) } }

/-- Show time starts: every enabled source begins in SEARCHING, every layer without a frame since its bind (R697). -/
def vinStart (s : State) : State :=
  let s1 := (List.range 28).foldl (fun x i =>
    if (srcOf x i).state = .off then x
    else srcMove i .searching 3 (modSrc i (fun y => { y with lastDone := x.time.now, crcBad := false, good := 0, merge := StreamMerge.empty, writing := none }) x)) s
  { s1 with vin := { s1.vin with layers := vMap s1.vin.layers (fun y => { y with bindSeq := (srcOf s1 y.bound).next }) } }

/-! Configuration messages and commands (R208). -/

/-- Ranges of INPUT_SET; a generator ignores the override (R208, R695). -/
def inputSetOk (p : InputSet) : Bool :=
  decide (p.source ≤ 27) && (decide (20 ≤ p.source) || (p.override % 4 != 3 && p.override / 16 % 4 != 3))

def inputStreamSetOk (p : InputStreamSet) : Bool :=
  decide (p.stream ≤ 15) && decide (p.paths ≤ 3) && decide (96 ≤ p.pt) && decide (p.pt ≤ 127) && decide (p.sampling ≤ 2) &&
    [8, 10, 12].contains p.depth && decide (p.colorimetry ≤ 2) && decide (p.tcs ≤ 2) && decide (64 ≤ p.width) && decide (p.width ≤ 7680) &&
    decide (64 ≤ p.height) && decide (p.height ≤ 4320) && decide (p.skewMax ≤ 10000) &&
    ((p.rateDen == 1 && decide (24 ≤ p.rateNum) && decide (p.rateNum ≤ 120)) ||
     (p.rateDen == 1001 && p.rateNum % 1000 == 0 && decide (24 ≤ p.rateNum / 1000) && decide (p.rateNum / 1000 ≤ 120)))

def generatorSetOk (p : GeneratorSet) : Bool :=
  decide (p.generator ≤ 7) && decide (p.pattern ≤ 7) && decide (p.transfer ≤ 2) && decide (p.primaries ≤ 1) && !(p.pattern == 3 && p.cell == 0)

def layerBindOk (p : LayerBind) : Bool :=
  decide (p.layer ≤ 15) && (p.source == 0xFF || decide (p.source ≤ 27)) && decide (p.policy ≤ 2)

def execInputSet (c : Call) (p : InputSet) (s : State) : Out :=
  configMessage 0x0400 16 c (fun _ => inputSetOk p) (.inputSet p) s

def execInputStreamSet (c : Call) (p : InputStreamSet) (s : State) : Out :=
  configMessage 0x0401 48 c (fun _ => inputStreamSetOk p) (.inputStreamSet p) s

def execGeneratorSet (c : Call) (p : GeneratorSet) (s : State) : Out :=
  configMessage 0x0402 32 c (fun _ => generatorSetOk p) (.generatorSet p) s

def execLayerBind (c : Call) (p : LayerBind) (s : State) : Out :=
  configMessage 0x0410 8 c (fun _ => layerBindOk p) (.layerBind p) s

/-- Teller writes the VIN shadows from a message (R208, R211). -/
def vinShadow (m : ConfigMsg) (s : State) : State :=
  match m with
  | .inputSet p =>
    let gen := decide (20 ≤ p.source)
    let w := bNat (nBit p.flags 0) * 2147483648 + p.jitterUs % 65536 +
      (if gen then 0 else bNat (nBit p.flags 1) * 1073741824 + p.override % 4 * 268435456 + p.override / 4 % 4 * 67108864 +
        p.override / 16 % 4 * 16777216)
    let s1 := setReg (R.VIN_Sn_CFG p.source) (BitVec.ofNat 32 w) s
    if gen then s1 else setReg (R.VIN_Sn_RASTER p.source) (BitVec.ofNat 32 (p.height * 65536 + p.width)) s1
  | .generatorSet p => setReg (R.VIN_Sn_RASTER (p.generator + 20)) (BitVec.ofNat 32 (p.height * 65536 + p.width))
      (modSrc (p.generator + 20) (fun y => { y with rewrite := true }) s)
  | .layerBind p => setReg (R.VIN_Ln_BIND p.layer) (BitVec.ofNat 32 (p.holdFrames % 256 * 65536 + p.policy * 256 + p.source)) s
  | _ => s

/-- The configuration record takes a message (R570). -/
def vinRecord (m : ConfigMsg) (r : Cfg) : Cfg :=
  match m with
  | .inputSet p => { r with inputs := aPut r.inputs p.source p }
  | .inputStreamSet p => { r with streams := aPut r.streams p.stream p }
  | .generatorSet p => { r with generators := aPut r.generators p.generator p }
  | .layerBind p => { r with binds := aPut r.binds p.layer p }
  | _ => r

/-- The raster of an enabled source in a configuration. -/
def cfgRaster (r : Cfg) (i : Nat) : Option (Nat × Nat) :=
  match aFind r.inputs i with
  | some p =>
    if nBit p.flags 0 = false then none
    else
      let (w, h) := if isGenerator i then (match aFind r.generators (i - 20) with
        | some g => (g.width, g.height)
        | none => (0, 0)) else (p.width, p.height)
      if w = 0 ∨ h = 0 then none else some (w, h)
  | none => none

/-- Bytes of a source's store: 4 buffers in units of 64 KiB (R196). -/
def storeBytes (r : Cfg) (i : Nat) : Nat :=
  match cfgRaster r i with
  | some (w, h) => 4 * (ceilDiv (w * h * 8) 65536 * 65536)
  | none => 0

/-- Input writes of a source in bytes per second, as a fraction: width × height × nominal rate × 8 B, 0 for a static generator (R193, R198). The
nominal rate of an SDI input is the detected one; where none is detected the spec names none (log entry 11). -/
def inputWrites (s : State) (r : Cfg) (i : Nat) : Nat × Nat :=
  match cfgRaster r i with
  | some (w, h) =>
    let (n, d) := if isGenerator i then (match aFind r.generators (i - 20) with
        | some g => if genMoves g then (s.time.rateN, s.time.rateD) else (0, 1)
        | none => (0, 1))
      else if isStream i then (match aFind r.streams (i - 4) with
        | some p => (p.rateNum, p.rateDen)
        | none => (0, 1))
      else if (srcOf s i).rateNum = 0 then (Config.sdiRate i, 1) else ((srcOf s i).rateNum, (srcOf s i).rateDen)
    (w * h * 8 * n, max 1 d)
  | none => (0, 1)

/-- The sum of two fractions. -/
def addFrac (a b : Nat × Nat) : Nat × Nat := if a.2 = b.2 then (a.1 + b.1, a.2) else (a.1 * b.2 + b.1 * a.2, a.2 * b.2)

/-- Input writes of all sources. -/
def allWrites (s : State) (r : Cfg) : Nat × Nat := (List.range 28).foldl (fun a i => addFrac a (inputWrites s r i)) (0, 1)

/-- Running sums: the first source at which the sum of `f` passes `limit`. -/
def firstOver (f : Nat → Nat × Nat) (limit : Nat) (sum : Nat × Nat) (l : List Nat) : Option Nat :=
  match l with
  | [] => none
  | i :: r =>
    let t := addFrac sum (f i)
    if limit * t.2 < t.1 then some i else firstOver f limit t r

/-- The layer and pinned bits the status shows. -/
def viewVin (s : State) (a : Nat) : Option Word :=
  let o := pageOff a
  if o = 0 then some (BitVec.ofNat 32 ((List.range 28).foldl (fun w i => if (srcOf s i).state = .running then w + 2 ^ i else w) 0))
  else if 0x1000 ≤ o ∧ o < 0x1700 then
    let i := (o - 0x1000) / 0x40
    let x := srcOf s i
    match (o - 0x1000) % 0x40 with
    | 0x08 => some (BitVec.ofNat 32 (rasterCode (isStream i) x * 4096 + rateCode (srcRate s i).1 (srcRate s i).2 * 256 +
        (match x.newest with
          | some f => f.buffer
          | none => 0) * 16 + bNat x.pinned.isSome * 8 + srcCode x.state))
    | 0x0C => some (BitVec.ofNat 32 (x.height * 65536 + x.width))
    | 0x10 => some (BitVec.ofNat 32 x.period)
    | 0x14 => some (loWord (leadOf s i))
    | 0x18 => some (loWord ((x.newest.map StoredFrame.done).getD 0))
    | 0x1C => some (hiWord ((x.newest.map StoredFrame.done).getD 0))
    | 0x38 => some (BitVec.ofNat 32 (skewUs s i))
    | _ => none
  else if 0x2000 ≤ o ∧ o < 0x2200 then
    let l := (o - 0x2000) / 0x20
    let y := layerOf s l
    match (o - 0x2000) % 0x20 with
    | 0x04 => some (BitVec.ofNat 32 (bNat y.held * 8 + bNat (sinceBind s l).isNone * 4 + y.choice))
    | 0x14 => some (BitVec.ofNat 32 ((y.shown.map StoredFrame.seq).getD 0))
    | _ => none
  else none

def execInputStatusGet (c : Call) (source : Nat) (s : State) : Out :=
  command 0x0403 c s fun s =>
    if 27 < source then refuse .invalidParameter s
    else
      let x := srcOf s source
      answer 48 [srcCode x.state, srcFmt s source, x.width, x.height, x.period, leadOf s source, (x.newest.map StoredFrame.done).getD 0,
        x.published, x.discarded, x.missA, x.missB, x.lostBoth, skewUs s source] s

/-- LAYER_RELEASE applies at the first boundary at least 2.0 ms later (R202). -/
def execLayerRelease (c : Call) (layer : Nat) (s : State) : Out :=
  command 0x0411 c s fun s =>
    if 15 < layer then refuse .invalidParameter s
    else if s.time.running = false then refuse .notReady s
    else accept (modLayer layer (fun y => { y with release := y.release ++ [reachedSt c s] }) s)

end Sys2Proof.Machine
end

