-- ==== Sys2Proof/Machine/Compositor.lean ====
section
/-! DEFINITION. The compositor (06_compositor.md): layer pipes, blending, pools and auto-split, commit checks, canvases. -/

namespace Sys2Proof.Machine

/-! Layer pipes (R217 to R229). -/

/-- Width and height of the rotated crop (R218). -/
def rotatedW (rotation w h : Nat) : Nat := if rotation % 2 = 1 then h else w
def rotatedH (rotation w h : Nat) : Nat := if rotation % 2 = 1 then w else h

/-- Taps per axis and context per strip edge of a filter (R220). -/
def filterTaps (f : Nat) : Nat :=
  match f with
  | 0 => 1 | 1 => 2 | 2 => 4 | 3 => 6 | _ => 8

def filterContext (f : Nat) : Nat :=
  match f with
  | 0 => 0 | 1 => 1 | 2 => 2 | 3 => 3 | _ => 4

/-- The stored pixel at (p, q) of the rotated and mirrored crop (R217 steps 1 and 2). -/
def cropPixel (g : PipeSnap) (f : StoredFrame) (p q : Nat) : Rgba :=
  let p1 := if g.mirror then rotatedW g.rotation g.cropW g.cropH - 1 - p else p
  let (x, y) := match g.rotation with
    | 0 => (p1, q)
    | 1 => (q, g.cropH - 1 - p1)
    | 2 => (g.cropW - 1 - p1, g.cropH - 1 - q)
    | _ => (g.cropW - 1 - q, p1)
  pixelAt f.picture (g.cropX + x) (g.cropY + y)

def chanOf (p : Rgba) (ch : Nat) : Nat :=
  match ch with
  | 0 => p.r | 1 => p.g | 2 => p.b | _ => p.a

/-- Source positions an axis reads: the taps around (i + 0.5) n / dst − 0.5, those outside taking the nearest (R219, R220). -/
def axisTaps (filter i n dst : Nat) : List Nat :=
  let d := max 1 dst
  if filter = 0 then [min (n - 1) ((2 * i + 1) * n / (2 * d))]
  else
    let base : Int := (((2 * i + 1) * n : Nat) - (d : Nat) : Int) / (2 * d : Nat)
    let half := filterTaps filter / 2
    (List.range (2 * half)).map (fun (k : Nat) => (clampI 0 (n - 1 : Nat) (base + (k : Int) + 1 - half)).toNat)

/-- The phase of output position i on an axis that is not reduced, in 1/64 of a source pixel; between two phases either may be taken (R220, log
entry 12). -/
def axisPhase (filter i n dst : Nat) : Nat :=
  let d := 2 * max 1 dst
  let x := 64 * ((((2 * i + 1) * n : Nat) - (dst : Nat) : Int) % (d : Nat)).toNat
  x / d + (if x % d = 0 then 0 else Config.resample [filter, i, n, dst] [] % 2)

/-- |sin (π n / d)| in units of 2⁻⁶⁰, by its square. -/
def sineAbs (n d : Nat) : Nat :=
  let r := n % d
  Nat.sqrt (sinSquare (piFix * min r (d - r) / d) * one60)

/-- The Lanczos kernel of 3 lobes, sinc x · sinc (x / 3), at x = n / 64, in units of 2⁻⁶⁰ (R220). -/
def lanczos (n : Nat) : Int :=
  if n = 0 then one60
  else if 192 ≤ n then 0
  else
    let v : Nat := 12288 * sineAbs n 64 * sineAbs n 192 * one60 / (piFix * piFix * n * n)
    if n / 64 % 2 = 0 then v else -v

/-- Weights of the taps at a phase, for the filters whose kernel R220 names: bilinear, bicubic with a = −0.5, and Lanczos. -/
def axisWeights (filter p : Nat) : List Int :=
  let q : Int := p
  if filter = 1 then [64 - q, q]
  else if filter = 3 then (List.range 6).map (fun (k : Nat) => lanczos (64 * ((k : Int) - 2) - q).natAbs)
  else [-(q * q * q) + 128 * (q * q) - 4096 * q, 3 * (q * q * q) - 320 * (q * q) + 524288, -3 * (q * q * q) + 256 * (q * q) + 4096 * q,
    q * q * q - 64 * (q * q)]

/-- A channel filtered on both axes with stated coefficients, which count in proportion to their sum, so that an even area stays even (log entry
12). How it is rounded, on each axis, is not stated: on one axis it is one of the two codes around the exact value, on both it may lie one code
further. -/
def scaledExact (g : PipeSnap) (i j wr hr ch : Nat) (v : List Nat) : Nat :=
  let px := axisPhase g.filter i wr g.dstW
  let py := axisPhase g.filter j hr g.dstH
  let wx := axisWeights g.filter px
  let wy := axisWeights g.filter py
  let w := wy.flatMap (fun b => wx.map (fun a => a * b))
  let unit : Int := wx.sum * wy.sum
  let x := ((w.zip (v.map Int.ofNat)).map (fun e => e.1 * e.2)).sum
  let free := Config.resample [g.filter, i, wr, g.dstW, j, hr, g.dstH, ch] v
  let off : Int := if x % unit = 0 ∧ (px % 64 = 0 ∨ py % 64 = 0) then 0
    else if px % 64 = 0 ∨ py % 64 = 0 then (free % 2 : Nat) else (free % 4 : Nat) - 1
  (clampI 0 65535 (x / unit + off)).toNat

/-- The scaled non-linear pixel (i, j) of the destination (R217 step 3). At unit scale it is the source pixel, and nearest takes one. -/
def scaledPixel (g : PipeSnap) (f : StoredFrame) (i j : Nat) : Rgba :=
  let wr := rotatedW g.rotation g.cropW g.cropH
  let hr := rotatedH g.rotation g.cropW g.cropH
  if wr = g.dstW ∧ hr = g.dstH then cropPixel g f i j
  else
    let xs := axisTaps g.filter i wr g.dstW
    let ys := axisTaps g.filter j hr g.dstH
    match g.filter, xs, ys with
    | 0, [x], [y] => cropPixel g f x y
    | _, _, _ =>
      let px := ys.flatMap (fun y => xs.map (fun x => cropPixel g f x y))
      let one (ch : Nat) : Nat :=
        let v := px.map (chanOf · ch)
        if 1 ≤ g.filter ∧ g.filter ≤ 3 ∧ wr ≤ g.dstW ∧ hr ≤ g.dstH then scaledExact g i j wr hr ch v
        else Config.resample [g.filter, i, wr, g.dstW, j, hr, g.dstH, ch] v % 65536
      ⟨one 0, one 1, one 2, one 3⟩

/-- The key of R221 as a fraction of 2²⁴. -/
def keyAlpha (g : PipeSnap) (bt2020 : Bool) (e : Rgba) : Nat :=
  let (kr, kb, kg) := lumaK bt2020
  let y : Int := (kr * e.r + kg * e.g + kb * e.b : Nat)
  let u := 16777216
  let ramp (d : Nat) : Nat :=
    let t := g.keyT * 256
    let sf := g.keyS * 256
    if d < t then 0 else if sf = 0 then u else min u ((d - t) * u / sf)
  let a := match g.keyMode with
    | 1 => ramp (y.toNat * u / 655350000)
    | 2 =>
      let c (v : Nat) (k : Nat) (ref : Int) : Int := ((v : Int) * 10000 - y) * (u : Nat) / (2 * (10000 - k) * 65535 : Nat) - ref * 512
      let cb := c e.b kb g.keyKb
      let cr := c e.r kr g.keyKr
      ramp (Nat.sqrt (cb * cb + cr * cr).toNat)
    | _ => u
  if g.keyInvert then u - a else a

/-- The layer alpha with 16 fraction bits (R221). -/
def layerAlpha (g : PipeSnap) (bt2020 : Bool) (e : Rgba) : Nat :=
  (2 * e.a * keyAlpha g bt2020 e * g.opacity * 65536 + 65535 * 16777216 * 32768) / (2 * 65535 * 16777216 * 32768)

/-- One channel of a blend (R229), halves up; `a` in 1/65,536. -/
def blendChannel (mode a top below : Nat) : Nat :=
  match mode with
  | 0 => (2 * (a * top + (65536 - a) * below) + 65536) / 131072
  | 1 => min l22Max ((2 * (below * 65536 + a * top) + 65536) / 131072)
  | 2 => (2 * below * ((65536 - a) * l22Max + a * top) + 65536 * l22Max) / (131072 * l22Max)
  | _ => (2 * (below * 65536 * l22Max + a * top * (l22Max - below)) + 65536 * l22Max) / (131072 * l22Max)

/-- A canvas pixel in progress: L22 channels, alpha as a fraction, and whether a layer touched it. -/
structure Mix where
  r : Nat
  g : Nat
  b : Nat
  aNum : Nat
  aDen : Nat
  touched : Bool
deriving DecidableEq, Repr

/-- The pipe covers canvas pixel (u, v) at destination pixel (i, j) (R219). -/
def covers (g : PipeSnap) (u v : Nat) : Option (Nat × Nat) :=
  let i : Int := (u : Int) - g.dstX
  let j : Int := (v : Int) - g.dstY
  if (g.fromCol : Int) ≤ i ∧ i < g.toCol ∧ 0 ≤ j ∧ j < g.dstH then some (i.toNat, j.toNat) else none

/-- One pipe's contribution to canvas pixel (u, v) (R217 steps 1 to 6, R229). -/
def blendPipe (u v : Nat) (m : Mix) (g : PipeSnap) : Mix :=
  match g.frame, covers g u v with
  | some f, some (i, j) =>
    let e := scaledPixel g f i j
    let a := layerAlpha g f.bt2020 e
    if a = 0 then m
    else
      let (r, gg, b) := if g.bypass then (decodeCanvas e.r, decodeCanvas e.g, decodeCanvas e.b)
        else toneMap f.transfer f.bt2020 g.peak g.white g.knee e.r e.g e.b
      { r := blendChannel g.blend a r m.r, g := blendChannel g.blend a gg m.g, b := blendChannel g.blend a b m.b
        aNum := if g.blend = 2 then m.aNum else a * m.aDen + m.aNum * (65536 - a)
        aDen := if g.blend = 2 then m.aDen else m.aDen * 65536, touched := true }
  | _, _ => m

/-- A composed pixel in canvas encoding (R214, R216, R229, R230). -/
def lookPixel (c : Look) (u v : Nat) : Rgba :=
  let bg := c.background
  let m := c.pipes.foldl (blendPipe u v) ⟨decodeCanvas bg.r, decodeCanvas bg.g, decodeCanvas bg.b, bg.a, 65535, false⟩
  if m.touched = false then bg
  else ⟨encodeCanvas m.r, encodeCanvas m.g, encodeCanvas m.b, (2 * 65535 * m.aNum + m.aDen) / (2 * m.aDen)⟩

def tilesAcross (c : Canvas) : Nat := ceilDiv c.width 64
def tileOf (c : Canvas) (u v : Nat) : Nat := v / 64 * tilesAcross c + u / 64

/-- A canvas pixel as its buffer holds it: a repaired tile carries what the buffer of the previous canvas held there, or the background (R238). -/
def canvasPixel (c : Canvas) (u v : Nat) : Rgba := lookPixel (aGet c.repairs (tileOf c u v) c.look) u v

/-! Pools and auto-split (R222 to R225). -/

/-- A pipe that the compositor part of a commit needs. -/
structure PipePlan where
  pipe : Nat
  layer : Nat
  strip : Bool
  first : Nat
  last : Nat
  left : Nat
  right : Nat
  need : Nat
  fetch : Nat
  pool : Nat
  fromCol : Nat
  toCol : Nat
deriving DecidableEq, Repr

/-- Enabled layers that have a source (R230). -/
def liveLayers (r : Cfg) : List LayerSet :=
  (List.range 16).filterMap (fun l => match aFind r.layers l, aFind r.binds l with
    | some p, some b => if nBit p.flags 0 ∧ b.source ≠ 0xFF then some p else none
    | _, _ => none)

def layerW (p : LayerSet) : Nat := rotatedW p.rotation p.cropW p.cropH
def layerH (p : LayerSet) : Nat := rotatedH p.rotation p.cropW p.cropH

/-- The smallest number of strips for which every strip fits a pool (R224). -/
def stripCount (p : LayerSet) : Nat :=
  let w := layerW p
  let ok (n : Nat) : Bool :=
    let c := ceilDiv w n
    decide ((n - 1) * c < w) && decide ((c + filterContext p.filter * min 2 (n - 1)) * filterTaps p.filter ≤ 65536)
  ((List.range 64).find? (fun n => decide (2 ≤ n) && ok n)).getD (max 1 w)

def layerStrips (p : LayerSet) : Nat := if 65536 < layerW p * filterTaps p.filter ∧ nBit p.flags 1 then stripCount p else 1

/-- The first output column whose sampling position lies at or past source column `a` (R224). -/
def cutColumn (a dst w : Nat) : Nat := min dst (ceilDiv ((2 * a + 1) * dst - w) (2 * max 1 w))

/-- The strips of a layer; `free` the pipes of disabled layers not yet taken. -/
def planStrips (p : LayerSet) (n j : Nat) (free : List Nat) (left : Nat) : List PipePlan × List Nat × Nat :=
  match left with
  | 0 => ([], free, 0)
  | k + 1 =>
    let w := layerW p
    let c := ceilDiv w n
    let a := j * c
    let b := if n = 1 then w else min w ((j + 1) * c)
    let cx := filterContext p.filter
    let lft := if j = 0 then 0 else cx
    let rgt := if j + 1 = n then 0 else cx
    let fw := b - a + lft + rgt
    let mk (pipe : Nat) : PipePlan := ⟨pipe, p.layer, decide (1 < n), a, b, lft, rgt, fw * filterTaps p.filter, fw * layerH p, 0,
      if j = 0 then 0 else cutColumn a p.dstW w, if j + 1 = n then p.dstW else cutColumn b p.dstW w⟩
    if j = 0 then
      let (ps, f, m) := planStrips p n 1 free k
      (mk p.layer :: ps, f, m)
    else match free with
      | q :: rest =>
        let (ps, f, m) := planStrips p n (j + 1) rest k
        (mk q :: ps, f, m)
      | [] =>
        let (ps, f, m) := planStrips p n (j + 1) [] k
        (ps, f, m + 1)

/-- Every pipe of a configuration, and the layers that lack pipes with how many they lack (R225). -/
def planPipes (r : Cfg) : List PipePlan × List (Nat × Nat) :=
  let ls := liveLayers r
  let free := (List.range 16).filter (fun q => !nBit (((aFind r.layers q).map LayerSet.flags).getD 0) 0)
  let res := ls.foldl (fun (acc : List PipePlan × List Nat × List (Nat × Nat)) p =>
    let (ps, f, m) := planStrips p (layerStrips p) 0 acc.2.1 (layerStrips p)
    (acc.1 ++ ps, f, if m = 0 then acc.2.2 else acc.2.2 ++ [(p.layer, m)])) ([], free, [])
  (res.1, res.2.2)

/-- Insertion by requirement, largest first, ties by lower layer and then order (R223). -/
def insertNeed (x : PipePlan) (l : List PipePlan) : List PipePlan :=
  match l with
  | [] => [x]
  | y :: r => if y.need < x.need ∨ (y.need = x.need ∧ x.layer < y.layer) then x :: y :: r else y :: insertNeed x r

/-- First-fit decreasing into eight pools of 65,536 pixels: pools' uses, pipes with their pool, and the first pipe that fits none (R223). -/
def packPools (l : List PipePlan) (use : List Nat) : List Nat × List PipePlan × Option PipePlan :=
  match l with
  | [] => (use, [], none)
  | x :: r =>
    match (List.range 8).find? (fun q => decide (use.getD q 0 + x.need ≤ 65536)) with
    | some q =>
      let (u, ps, bad) := packPools r (use.set q (use.getD q 0 + x.need))
      (u, { x with pool := q } :: ps, bad)
    | none => (use, [], some x)

structure CanvasPlan where
  pipes : List PipePlan
  pools : List Nat
  short : List (Nat × Nat)
  unfit : Option PipePlan
  fetch : Nat
deriving DecidableEq, Repr

def planCanvas (r : Cfg) : CanvasPlan :=
  let (ps, short) := planPipes r
  let (use, packed, bad) := packPools (ps.foldl (fun l x => insertNeed x l) []) (List.replicate 8 0)
  ⟨packed, use, short, bad, (ps.map PipePlan.fetch).sum⟩

/-! Commit checks (R233 to R236). The answer is the detail of the rejection: layer, cause, layers failing, required, limit. -/

def cropCheck (r : Cfg) (p : LayerSet) : Option (Nat × Nat × Nat) :=
  let src := ((aFind r.binds p.layer).map LayerBind.source).getD 0xFF
  let (w, h) := if isGenerator src then (match aFind r.generators (src - 20) with
      | some g => (g.width, g.height)
      | none => (0, 0))
    else (match aFind r.inputs src with
      | some i => (i.width, i.height)
      | none => (0, 0))
  if p.cropW = 0 ∨ p.cropH = 0 then some (4, 0, 1)
  else if w < p.cropX + p.cropW then some (4, p.cropX + p.cropW, w)
  else if h < p.cropY + p.cropH then some (4, p.cropY + p.cropH, h)
  else none

def scaleCheck (p : LayerSet) : Option (Nat × Nat × Nat) :=
  let one (d n : Nat) : Option (Nat × Nat × Nat) :=
    if d = 0 ∨ 8 * d < n then some (5, d, ceilDiv n 8) else if 64 * n < d then some (5, d, 64 * n) else none
  (one p.dstW (layerW p)).or (one p.dstH (layerH p))

def toneCheck (p : LayerSet) : Option (Nat × Nat × Nat) :=
  if p.knee < 0x4000 ∨ 0x8000 < p.knee then some (6, p.knee, 0x8000) else if 10000 < p.sdrWhite then some (6, p.sdrWhite, 10000) else none

def linebufCheck (p : LayerSet) : Option (Nat × Nat × Nat) :=
  let n := layerW p * filterTaps p.filter
  if 65536 < n ∧ nBit p.flags 1 = false then some (7, n, 65536) else none

def layerChecks (r : Cfg) (p : LayerSet) : List (Nat × Nat × Nat) :=
  [cropCheck r p, scaleCheck p, toneCheck p, linebufCheck p].filterMap id

/-- How many layers fail any per-layer check (R233). -/
def layersFailing (r : Cfg) : Nat := ((liveLayers r).filter (fun p => layerChecks r p != [])).length

/-- Checks 4 to 7: the lowest failing cause, its lowest layer, and how many layers fail any. -/
def perLayer (r : Cfg) : Option (List Int) :=
  let ls := liveLayers r
  let failing := layersFailing r
  let at_ (cause : Nat) : Option (List Int) :=
    (ls.findSome? (fun p => ((layerChecks r p).find? (fun x => x.1 == cause)).map (fun x => (p.layer, x)))).map
      (fun x => [x.1, cause, failing, x.2.2.1, x.2.2.2])
  (at_ 4).or ((at_ 5).or ((at_ 6).or (at_ 7)))

/-- The size that a configuration's last CANVAS_SET gives lies outside R212 (R233, R568). -/
def badCanvas (r : Cfg) (msgs : List ConfigMsg) : Option (List Int) :=
  let size (p : CanvasSet) : Option (List Int) :=
    if p.width < 16 ∨ 16384 < p.width then some [0xFF, 1, layersFailing r, p.width, 16384]
    else if p.height < 16 ∨ 16384 < p.height then some [0xFF, 1, layersFailing r, p.height, 16384] else none
  (msgs.reverse.findSome? (fun m => match m with
    | .canvasSet p => some p
    | _ => none)).bind size

/-- Checks 1 to 10 of R233. A canvas that no CANVAS_SET has set, under no enabled layer, is no compositor part (log entry 12). -/
def cmpReject (s : State) (r : Cfg) : Option (List Int) :=
  let w := r.canvas.width
  let h := r.canvas.height
  let whole (cause req lim : Nat) : Option (List Int) := some [0xFF, cause, layersFailing r, req, lim]
  let lim := 8 * periodMin s / 10
  if w = 0 ∧ h = 0 ∧ liveLayers r = [] then none
  else if w < 16 ∨ 16384 < w then whole 1 w 16384
  else if h < 16 ∨ 16384 < h then whole 1 h 16384
  else if (s.power.mode = .show ∨ s.power.mode = .spare) ∧ (w ≠ s.record.canvas.width ∨ h ≠ s.record.canvas.height) then
    whole 1 w s.record.canvas.width
  else if lim < ceilDiv (w * h) 4 + 2048 then whole 2 (w * h) (4 * (lim - 2048))
  else if r.canvas.peak = 0 then whole 3 0 1
  else match perLayer r with
    | some d => some d
    | none =>
      let p := planCanvas r
      match p.short, p.unfit with
      | (l, m) :: _, _ => some [l, 8, 0, m, 0]
      | [], some x => some [x.layer, 9, 0, x.need, 65536]
      | [], none =>
        let d := max 1 s.time.rateD
        if 12800000000 * d < p.fetch * s.time.rateN then whole 10 (ceilDiv (p.fetch * s.time.rateN) (1000 * d)) 12800000 else none

/-! Shadows, boundaries and canvases (R231, R232, R237 to R239). -/

def modCmp (f : Cmp → Cmp) (s : State) : State := { s with cmp := f s.cmp }

/-- The shadow registers of a pipe. -/
def pipeRegs (q : Nat) : List Nat :=
  [R.CMP_Pp_CTRL q, R.CMP_Pp_CROP_XY q, R.CMP_Pp_CROP_WH q, R.CMP_Pp_DST_XY q, R.CMP_Pp_DST_WH q, R.CMP_Pp_KEY_A q,
    R.CMP_Pp_KEY_B q, R.CMP_Pp_BLEND q, R.CMP_Pp_TONE q, R.CMP_Pp_CTX q]

/-- The pixel of the rotated crop that lies at crop position (x, y) holds column `first` to `last` of a strip there: the corner of the strip in the
source, before rotation and mirror (R217, R224). -/
def stripCorner (p : LayerSet) (first last : Nat) : Nat × Nat :=
  let w := layerW p
  let a := if nBit p.flags 2 then w - last else first
  let b := if nBit p.flags 2 then w - first else last
  match p.rotation with
  | 0 => (p.cropX + a, p.cropY)
  | 1 => (p.cropX, p.cropY + (p.cropH - b))
  | 2 => (p.cropX + (p.cropW - b), p.cropY)
  | _ => (p.cropX, p.cropY + a)

/-- The words that Teller writes to a pipe's shadows by a plan; none for an unused pipe (R241). A strip's w is its own columns. -/
def pipeWords (r : Cfg) (pl : CanvasPlan) (q : Nat) : Option (List Nat) :=
  let u16 (i : Int) : Nat := unsignedOf 16 i
  match pl.pipes.find? (fun x => x.pipe == q) with
  | none => none
  | some x =>
    match aFind r.layers x.layer with
    | none => none
    | some p =>
      let (cx, cy) := if x.strip then stripCorner p x.first x.last else (p.cropX, p.cropY)
      let src := ((aFind r.binds x.layer).map LayerBind.source).getD 0xFF
      let ctrl := 2147483648 + bNat x.strip * 1073741824 + x.layer * 16777216 + src * 65536 + p.keyFlags % 2 * 16384 + p.keyMode * 4096 +
        bNat (nBit p.flags 3) * 2048 + bNat (nBit p.flags 2) * 1024 + p.rotation * 256 + p.filter * 16 + x.pool
      some [ctrl, cy * 65536 + cx % 65536,
        p.cropH * 65536 + (if x.strip then x.last - x.first else p.cropW),
        u16 p.dstY * 65536 + u16 (p.dstX + x.fromCol), p.dstH * 65536 + (x.toCol - x.fromCol), p.keyS * 65536 + p.keyT,
        u16 p.keyKr * 65536 + u16 p.keyKb, p.blend * 65536 + p.opacity, p.knee * 65536 + p.sdrWhite, x.left * 16 + x.right]

/-- Teller writes a pipe's shadows; an unused pipe goes back to its reset values. -/
def pipeShadow (r : Cfg) (pl : CanvasPlan) (s : State) (q : Nat) : State :=
  match pipeWords r pl q with
  | none => (pipeRegs q).foldl (fun x a => setReg a (resetWord a) x) s
  | some ws => ((pipeRegs q).zip ws).foldl (fun x aw => setReg aw.1 (BitVec.ofNat 32 aw.2) x) s

/-- The message sets the layer of pipe `q`. -/
def setsPipe (pl : CanvasPlan) (q : Nat) (m : ConfigMsg) : Bool :=
  let of_ (l : Nat) : Bool := pl.pipes.any (fun x => x.pipe == q && x.layer == l)
  match m with
  | .layerSet p => of_ p.layer
  | .layerBind p => of_ p.layer
  | _ => false

/-- The pipes that a commit writes: those whose words differ from the previous configuration's, and those whose layer its messages name (R242). -/
def pipesWritten (old new : Cfg) (msgs : List ConfigMsg) : List Nat :=
  let a := planCanvas old
  let b := planCanvas new
  (List.range 16).filter (fun q => pipeWords old a q != pipeWords new b q || msgs.any (setsPipe b q))

/-- The canvas part of the shadows. -/
def canvasShadow (r : Cfg) (s : State) : State :=
  let c := r.canvas
  let s2 := setReg R.CMP_CANVAS_SIZE (BitVec.ofNat 32 (c.height * 65536 + c.width)) s
  let s3 := setReg R.CMP_BG0 (BitVec.ofNat 32 (c.background.r * 65536 + c.background.g)) (setReg R.CMP_PEAK (BitVec.ofNat 32 c.peak) s2)
  let s4 := setReg R.CMP_BG1 (BitVec.ofNat 32 (c.background.b * 65536 + c.background.a)) s3
  setReg64 R.CMP_CANVAS_BASE_LO (Config.canvasBase (c.width * c.height) s.alm.poolMib * 65536 : Nat) s4

/-- The tone tables that Teller builds for a configuration (R228). -/
def tonesOf (r : Cfg) : SMap (Nat × Nat × Nat) :=
  (planCanvas r).pipes.foldl (fun t x => match aFind r.layers x.layer with
    | some p => aPut t x.pipe (p.knee, p.sdrWhite, r.canvas.peak)
    | none => t) []

/-- Teller writes the compositor's shadows of a configuration: the pipes in `qs`, and the canvas where `canvas` says so; and its tone tables (R241,
R242). -/
def cmpWrite (qs : List Nat) (canvas : Bool) (r : Cfg) (s : State) : State :=
  let s1 := qs.foldl (pipeShadow r (planCanvas r)) s
  modCmp (fun m => { m with nextTables := tonesOf r }) (if canvas then canvasShadow r s1 else s1)

/-- Teller writes what a commit changes and arms the copy with its tag, at boundary `k`; a pending tag is replaced (R231, R232). -/
def cmpCommit (k tag : Int) (old new : Cfg) (msgs : List ConfigMsg) (s : State) : State :=
  let sets (m : ConfigMsg) : Bool := match m with
    | .canvasSet _ => true
    | _ => false
  modCmp (fun m => { m with armed := some (tag, max tag k) })
    (setReg R.CMP_COMMIT_TAG (BitVec.ofInt 32 tag) (cmpWrite (pipesWritten old new msgs) (old.canvas != new.canvas || msgs.any sets) new s))

/-- Writing 1 to CMP_COMMIT.go arms the copy for the first boundary at which (i32)(k − tag) ≥ 0; again while pending, it replaces the tag
(R232). -/
def cmpGo (v : Word) (s : State) : State :=
  if bitOf v 0 = false then s
  else
    let tag : Int := s.time.fcount + 1 - signed 32 (unsignedOf 32 (s.time.fcount + 1 - (regN s R.CMP_COMMIT_TAG : Int)))
    modCmp (fun m => { m with armed := some (tag, max tag (s.time.fcount + 1)) }) s

/-- The configuration tagged `tag` is in force, with its tone tables (R232, R242). -/
def cmpInForce (tag : Int) (s : State) : State := modCmp (fun m => { m with activeTag := BitVec.ofInt 32 tag, tables := m.nextTables }) s

/-- The armed copy: the shadows come into force; a copy later than its tag is counted (R232). -/
def cmpCopy (a : Int × Int) (s : State) : State :=
  let s1 := modCmp (fun m => { m with armed := none }) (cmpInForce a.1 (copyShadows [0x10] s))
  if a.1 < a.2 then setFlag R.CMP_INT_STAT 2 (bump R.CMP_CNT_LATE s1) else s1

/-- A pipe as its registers in force set it; its tone table is the one that Teller wrote, and before any the table of the reset parameters (R242, log
entry 12). A strip takes the whole layer's geometry from the configuration (R224, R225). -/
def snapPipe (s : State) (q : Nat) : Option PipeSnap :=
  let f (a : Nat) (hi lo : Nat) : Nat := bits (regF s a) hi lo
  let i16 (n : Nat) : Int := signed 16 n
  let ctrl := R.CMP_Pp_CTRL q
  if f ctrl 31 31 = 0 ∨ f ctrl 23 16 = 0xFF then none
  else
    let l := f ctrl 27 24
    let strip := f ctrl 30 30 == 1
    let (knee, white, peak) := aGet s.cmp.tables q (0x6000, 0, 1000)
    let dx := i16 (f (R.CMP_Pp_DST_XY q) 15 0)
    let dw := f (R.CMP_Pp_DST_WH q) 15 0
    let own : PipeSnap :=
      { layer := l, cropX := f (R.CMP_Pp_CROP_XY q) 15 0, cropY := f (R.CMP_Pp_CROP_XY q) 31 16, cropW := f (R.CMP_Pp_CROP_WH q) 15 0,
        cropH := f (R.CMP_Pp_CROP_WH q) 31 16, rotation := f ctrl 9 8, mirror := f ctrl 10 10 == 1, filter := min 4 (f ctrl 6 4),
        dstX := dx, dstY := i16 (f (R.CMP_Pp_DST_XY q) 31 16), dstW := dw, dstH := f (R.CMP_Pp_DST_WH q) 31 16, fromCol := 0, toCol := dw,
        keyMode := f ctrl 13 12, keyInvert := f ctrl 14 14 == 1, keyT := f (R.CMP_Pp_KEY_A q) 15 0, keyS := f (R.CMP_Pp_KEY_A q) 31 16,
        keyKb := i16 (f (R.CMP_Pp_KEY_B q) 15 0), keyKr := i16 (f (R.CMP_Pp_KEY_B q) 31 16), opacity := f (R.CMP_Pp_BLEND q) 15 0,
        blend := f (R.CMP_Pp_BLEND q) 17 16, bypass := f ctrl 11 11 == 1, knee := knee, white := white, peak := peak,
        frame := (layerOf s l).shown }
    match strip, aFind s.cfgA.layers l with
    | true, some p =>
      let a := ((dx - p.dstX) % 65536).toNat
      some { own with cropX := p.cropX, cropY := p.cropY, cropW := p.cropW, cropH := p.cropH, dstX := p.dstX, dstW := p.dstW, fromCol := a, toCol := a + dw }
    | _, _ => some own

/-- The pipes in blend order: by layer, 0 at the bottom (R229). -/
def snapPipes (s : State) : List PipeSnap :=
  let ps := (List.range 16).filterMap (snapPipe s)
  (List.range 16).flatMap (fun l => ps.filter (fun p => p.layer == l))

def canvasW (s : State) : Nat := bits (regF s R.CMP_CANVAS_SIZE) 15 0
def canvasH (s : State) : Nat := bits (regF s R.CMP_CANVAS_SIZE) 31 16

/-- The newest canvas composed. -/
def newestCanvas (s : State) : Option (Nat × Canvas) :=
  if s.cmp.count = 0 then none else (aFind s.cmp.canvases (s.cmp.count - 1)).map (fun c => (s.cmp.count - 1, c))

/-- Canvas k starts: background, then the layers as VIN latched them (R216, R231). The two buffers hold it and the canvas before it (R215). -/
def startCanvas (k : Int) (s : State) : State :=
  let w := canvasW s
  let h := canvasH s
  if w = 0 ∨ h = 0 then s
  else
    let bg : Rgba := ⟨bits (regF s R.CMP_BG0) 31 16, bits (regF s R.CMP_BG0) 15 0, bits (regF s R.CMP_BG1) 31 16, bits (regF s R.CMP_BG1) 15 0⟩
    modCmp (fun m =>
      { m with
        canvases := aPut (m.canvases.filter (fun c => decide (m.count ≤ c.1 + 1))) m.count ⟨k, w, h, ⟨bg, snapPipes s⟩, []⟩
        count := m.count + 1, lines := 0, complete := false, late := none }) s

/-- The compositor at F(k): a canvas still in progress is late and no other is composed; else the armed copy comes into force and canvas k
starts (R231, R232, R237). -/
def frameCmp (k : Int) (s : State) : State :=
  if s.cmp.complete = false then
    match s.cmp.late with
    | some _ => s
    | none => setFlag R.CMP_INT_STAT 0 (bump R.CMP_CNT_OVERRUN (modCmp (fun m => { m with late := some (k, m.lines) }) s))
  else
    startCanvas k (match s.cmp.armed with
      | some a => if a.2 ≤ k then cmpCopy a s else s
      | none => s)

/-- Pixels the pipes of a canvas fetched: those of layers that show a frame (R234). The w of a strip's register is its own columns. -/
def fetchedBy (s : State) (c : Canvas) (q : Nat) : Nat :=
  let ctrl := regF s (R.CMP_Pp_CTRL q)
  match c.look.pipes.find? (fun p => p.layer == bits ctrl 27 24 && p.frame.isSome) with
  | some g =>
    let cols := if bitOf ctrl 30 then bits (regF s (R.CMP_Pp_CROP_WH q)) 15 0 else rotatedW g.rotation g.cropW g.cropH
    let ctx := bits (regF s (R.CMP_Pp_CTX q)) 7 4 + bits (regF s (R.CMP_Pp_CTX q)) 3 0
    if bitOf ctrl 31 then (cols + ctx) * rotatedH g.rotation g.cropW g.cropH else 0
  | none => 0

/-- The last line of the newest canvas is done (R237, R241). -/
def canvasComplete (n : Nat) (c : Canvas) (s : State) : State :=
  let per := (List.range 16).map (fun q => (q, fetchedBy s c q))
  let took := (s.time.st64 - frameAt s c.k).toNat
  let s1 := modCmp (fun m => { m with
    complete := true, late := none, lastK := c.k, lastTime := took, lastFetch := (per.map Prod.snd).sum, pipeFetch := per.filter (fun x => x.2 != 0) }) s
  match s.cmp.late with
  | some (k, lines) => notify 0x8170 24 [unsignedOf 32 c.k, lines, s.time.st64 - frameAt s k, st64 s] s1
  | none => if n + 1 = s.cmp.count then s1 else s

/-- What the buffer of the canvas before `n` holds where a tile of canvas `n` lies, where that canvas covers the tile (R238). -/
def repairFrom (m : Cmp) (n : Nat) (c : Canvas) (tile : Nat) : Option Look :=
  if n = 0 then none
  else match aFind m.canvases (n - 1) with
    | some d =>
      let u := tile % tilesAcross c * 64
      let v := tile / tilesAcross c * 64
      if min c.width (u + 64) ≤ d.width ∧ min c.height (v + 64) ≤ d.height then some (aGet d.repairs (tileOf d u v) d.look) else none
    | none => none

/-- A tile of canvas `n` takes other pixels than its own. -/
def putTile (n : Nat) (c : Canvas) (tile : Nat) (l : Look) (s : State) : State :=
  modCmp (fun m => { m with
    canvases := aPut m.canvases n { (aGet m.canvases n c) with repairs := aPut (aGet m.canvases n c).repairs tile l } }) s

/-- A tile hit by a parity error is copied from the previous canvas after the line that completes it; where that canvas does not cover it, the tile
takes the background, which is no copy (R172, R238). -/
def repairTile (n : Nat) (c : Canvas) (s : State) (tile : Nat) : State :=
  match repairFrom s.cmp n c tile with
  | some l => setFlag R.CMP_INT_STAT 1 (bump R.CMP_CNT_REPAIR (putTile n c tile l s))
  | none => putTile n c tile ⟨c.look.background, []⟩ s

/-- Lines up to and including `line` of the newest canvas are in DRAM; lines leave in order (R237 to R239). -/
def canvasLine (line : Nat) (s : State) : State :=
  match newestCanvas s with
  | none => s
  | some (n, c) =>
    let upto := min c.height (line + 1)
    if s.cmp.complete ∨ upto ≤ s.cmp.lines then s
    else
      let ended (tile : Nat) : Bool := decide (min c.height ((tile / tilesAcross c + 1) * 64) ≤ upto)
      let bad := s.protect.badTiles.filter ended
      let s1 := bad.foldl (repairTile n c) { s with protect := { s.protect with badTiles := s.protect.badTiles.filter (fun t => !ended t) } }
      let s2 := modCmp (fun m => { m with lines := upto }) s1
      if upto = c.height then canvasComplete n c s2 else s2

/-- A show stop discards the canvases (R697). -/
def cmpStop (s : State) : State :=
  modCmp (fun m => { m with canvases := [], count := 0, lines := 0, complete := true, late := none, armed := none }) s

/-- PD4 goes off: its registers, the status of the canvas among them, come back at their reset values (R241, R589). -/
def cmpOff (s : State) : State :=
  modCmp (fun m => { m with activeTag := 0, lastK := 0, lastTime := 0, lastFetch := 0, pipeFetch := [] }) (cmpStop s)

/-! Messages (R240). -/

def layerSetOk (p : LayerSet) : Bool :=
  decide (p.layer ≤ 15) && decide (p.rotation ≤ 3) && decide (p.filter ≤ 4) && decide (p.keyMode ≤ 2) && decide (p.blend ≤ 3) &&
    decide (p.opacity ≤ 0x8000)

def execLayerSet (c : Call) (p : LayerSet) (s : State) : Out :=
  configMessage 0x0412 48 c (fun _ => layerSetOk p) (.layerSet p) s

def execCanvasSet (c : Call) (p : CanvasSet) (s : State) : Out :=
  configMessage 0x0413 16 c (fun _ => true) (.canvasSet p) s

def cmpRecord (m : ConfigMsg) (r : Cfg) : Cfg :=
  match m with
  | .layerSet p => { r with layers := aPut r.layers p.layer p }
  | .canvasSet p => { r with canvas := p }
  | _ => r

/-- Requirement assigned to pool `n` by the pipes in force. -/
def poolUse (s : State) (n : Nat) : Nat :=
  ((List.range 16).map (fun q =>
    let ctrl := regF s (R.CMP_Pp_CTRL q)
    if bitOf ctrl 31 ∧ bits ctrl 2 0 = n then
      let wh := regF s (R.CMP_Pp_CROP_WH q)
      let w := if bitOf ctrl 30 then bits wh 15 0 else rotatedW (bits ctrl 9 8) (bits wh 15 0) (bits wh 31 16)
      let ctx := regF s (R.CMP_Pp_CTX q)
      (w + bits ctx 7 4 + bits ctx 3 0) * filterTaps (bits ctrl 6 4)
    else 0)).sum

def viewCmp (s : State) (a : Nat) : Option Word :=
  let o := pageOff a
  match o with
  | 0x000 => some (BitVec.ofNat 32 (bNat s.power.boost * 4 + bNat (!s.cmp.complete) * 2 + bNat (s.time.running && decide (0 < canvasW s * canvasH s))))
  | 0x004 => some (BitVec.ofNat 32 (bNat s.cmp.armed.isSome * 2147483648))
  | 0x00C => some s.cmp.activeTag
  | 0x030 => some (BitVec.ofNat 32 (s.cmp.lines % 65536 * 65536 + bNat s.cmp.late.isSome * 2 + (s.cmp.count - 1) % 2))
  | 0x034 => some (BitVec.ofInt 32 (((newestCanvas s).map (fun c => c.2.k)).getD 0))
  | 0x050 => some (BitVec.ofNat 32 s.cmp.lastFetch)
  | 0x054 => some (BitVec.ofNat 32 s.cmp.lastTime)
  | _ =>
    if 0x080 ≤ o ∧ o < 0x0A0 then some (BitVec.ofNat 32 (poolUse s ((o - 0x080) / 4)))
    else if 0x1000 ≤ o ∧ o < 0x1400 ∧ (o - 0x1000) % 0x40 = 0x28 then some (BitVec.ofNat 32 (aGet s.cmp.pipeFetch ((o - 0x1000) / 0x40) 0))
    else none

def pipeRecord (s : State) (q : Nat) : List Int :=
  let c := regF s (R.CMP_Pp_CTRL q)
  if bitOf c 31 then [bits c 27 24, bits c 2 0, 1 + 2 * bNat (bitOf c 30)] else [0xFF, 0, 0]

def execCompStatusGet (c : Call) (s : State) : Out :=
  command 0x0414 c s fun s =>
    answer 112 ([(unsignedOf 32 s.cmp.lastK : Int), s.cmp.lastTime, s.cmp.lastFetch] ++ (List.range 16).flatMap (pipeRecord s) ++
      (List.range 8).map (fun n => (poolUse s n : Int))) s

end Sys2Proof.Machine
end

