-- ==== Sys2Proof/Machine/Raster.lean ====
section
/-! DEFINITION. The raster generator and the monitor outputs (07_raster_and_monitor.md). -/

namespace Sys2Proof.Machine

/-- The interfaces of R245. -/
inductive MonLink where
  | hd
  | threeG
  | twelveG
deriving DecidableEq, Repr

/-- A monitor format of R245: active size, total lines, first active line (of field 2 too when interlaced), its rate codes, its interface. -/
structure MonFormat where
  width : Nat
  height : Nat
  total : Nat
  first : Nat
  second : Option Nat
  rates : List Nat
  link : MonLink
deriving DecidableEq, Repr

def monFormat (code : Nat) : Option MonFormat :=
  match code with
  | 1 => some ⟨1280, 720, 750, 26, none, [6, 7, 8], .hd⟩
  | 2 => some ⟨1920, 1080, 1125, 21, some 584, [3, 4, 5], .hd⟩
  | 3 => some ⟨1920, 1080, 1125, 42, none, [1, 2, 3, 4, 5], .hd⟩
  | 4 => some ⟨1920, 1080, 1125, 42, none, [6, 7, 8], .threeG⟩
  | 5 => some ⟨3840, 2160, 2250, 83, none, [1, 2, 3, 4, 5, 6, 7, 8], .twelveG⟩
  | _ => none

/-- Samples per total line by format and rate code (R245). -/
def monSamples (code rate : Nat) : Nat :=
  match code with
  | 1 => if rate = 6 then 1980 else 1650
  | 5 => if rate ≤ 2 then 5500 else if rate = 3 ∨ rate = 6 then 5280 else 4400
  | _ => if rate ≤ 2 then 2750 else if rate = 3 ∨ rate = 6 then 2640 else 2200

/-- n / d of a rate code (R210). -/
def rateOf (code : Nat) : Nat × Nat :=
  match code with
  | 1 => (24000, 1001) | 2 => (24, 1) | 3 => (25, 1) | 4 => (30000, 1001) | 5 => (30, 1) | 6 => (50, 1) | 7 => (60000, 1001) | 8 => (60, 1)
  | _ => (0, 1)

/-- m of R246 for a show rate and a rate code. -/
def gridRatio (n d code : Nat) : Option Nat :=
  let (rn, rd) := rateOf code
  if rn ≠ 0 ∧ rd = d ∧ n % rn = 0 ∧ 1 ≤ n / rn ∧ n / rn ≤ 10 then some (n / rn) else none

/-! The configuration in force. -/

def rasFormat (s : State) : Nat := bits (regF s R.RAS_CFG) 2 0
def rasRate (s : State) : Nat := bits (regF s R.RAS_CFG) 15 12
def rasM (s : State) : Nat := bits (regF s R.RAS_CFG) 19 16
def rasDelay (s : State) : Nat := bits (regF s R.RAS_CFG) 29 29
def rasSource (s : State) : Nat := min 2 (bits (regF s R.RAS_CFG) 27 26)
def rasOffset (s : State) : Nat := (regF s R.RAS_OFFSET).toNat

/-- The raster can run: a format is in force and m is 1 to 10 (R244, R267). -/
def rasOn (s : State) : Bool := (monFormat (rasFormat s)).isSome && decide (1 ≤ rasM s) && decide (rasM s ≤ 10)

def totalLines (s : State) : Nat := ((monFormat (rasFormat s)).map MonFormat.total).getD 1

/-- The start of total line ℓ + 1 after the start of the frame, in ns (R250). -/
def lineStart (s : State) (l : Nat) : Nat :=
  let (n, d) := rateOf (rasRate s)
  l * 1000000000 * d / max 1 (n * totalLines s)

/-- The total line that carries active line L (R250). -/
def totalLineOf (f : MonFormat) (l : Nat) : Nat :=
  match f.second with
  | some z => if l < f.height / 2 then f.first + l else z + (l - f.height / 2)
  | none => f.first + l

/-- The active line on a total line, if any. -/
def activeLineOf (f : MonFormat) (t : Nat) : Option Nat :=
  match f.second with
  | some z =>
    if f.first ≤ t ∧ t < f.first + f.height / 2 then some (t - f.first)
    else if z ≤ t ∧ t < z + f.height / 2 then some (t - z + f.height / 2) else none
  | none => if f.first ≤ t ∧ t < f.first + f.height then some (t - f.first) else none

/-- The grid instant of raster frame j (R247). -/
def gridAt (s : State) (j : Int) : Int := frameAt s (rasM s * j) + rasOffset s

/-- The first grid index whose instant is at or after `x`. -/
def gridFrom (s : State) (x : Int) : Int :=
  let m : Int := max 1 (rasM s : Int)
  let j0 := frameBefore s (x - rasOffset s) / m
  if x ≤ gridAt s j0 then j0 else if x ≤ gridAt s (j0 + 1) then j0 + 1 else j0 + 2

def modRas (f : Ras → Ras) (s : State) : State := { s with ras := f s.ras }

/-! The monitor store (R255 to R257). -/

/-- Canvas lines 0 to n − 1 that the window needs. -/
def windowEnd (s : State) : Nat := bits (regF s R.RAS_WIN_XY) 31 16 + bits (regF s R.RAS_WIN_WH) 31 16

def monComplete (f : MonFrame) : Bool := decide (f.need ≤ f.lines) && f.refused == []

/-- The lowest-numbered buffer that no frame holds. -/
def monBuffer (r : Ras) : Nat :=
  let used (b : Nat) : Bool := r.frames.any (fun f => f.buffer == b) || (match r.scan with
    | some f => f.buffer == b
    | none => false)
  if used 0 = false then 0 else if used 1 = false then 1 else if used 2 = false then 2 else 3

/-- A canvas pixel as the raster generator received it: from the stream, or for a line read back from the buffer (R239, R256). -/
def monSource (f : MonFrame) (u v : Nat) : Rgba :=
  match aFind f.backs v with
  | some rep => lookPixel (aGet rep (tileOf f.body u v) f.body.look) u v
  | none => lookPixel f.body.look u v

/-- Bytes of a monitor buffer and the address of buffer `b` (R255, R267). -/
def monBytes (f : MonFormat) : Nat := ceilDiv (f.width * f.height * 4) 65536 * 65536
def monAddr (s : State) (b : Nat) : Nat :=
  (regF s R.RAS_STORE_BASE_LO).toNat + (regF s R.RAS_STORE_BASE_HI).toNat * 4294967296 + b * ((monFormat (rasFormat s)).map monBytes).getD 0

/-- All RAS shadows come into force (R261). -/
def rasCopy (tag : Int) (s : State) : State :=
  modRas (fun r => { r with armed := none, activeTag := BitVec.ofInt 32 tag }) (copyShadows [0x14] s)

/-- The configuration under which canvas k would be shown: with the copy that is armed for a raster frame start at or after F(k) at the latest. -/
def rasSoon (k : Int) (s : State) : State :=
  match s.ras.armed with
  | some (tag, b) => if b ≤ k then rasCopy tag s else s
  | none => s

/-- Canvas k is one that the raster will show (R255). -/
def willShow (s : State) (k : Int) : Bool :=
  let c := rasSoon k s
  s.ras.running && rasOn c && rasSource c == 0 && (k + 1 + rasDelay c) % (max 1 (rasM c) : Int) == 0

/-- A monitor frame is begun for canvas k; frames whose read-back missed F(k + 2) are dropped (R256, R257). It carries the P of the canvas that it is
built from (R254, R255). -/
def monBegin (k : Int) (s : State) : State :=
  let s1 := modRas (fun r => { r with frames := r.frames.filter (fun f => monComplete f || decide (k < f.k + 2)) }) s
  match newestCanvas s1 with
  | some (n, c) =>
    if c.k = k ∧ willShow s1 k then
      let f : MonFrame := ⟨n, { c with repairs := [] }, [], k, monBuffer s1.ras, 0, [], min c.height (windowEnd (rasSoon k s1)), bits (regF s1 R.CMP_PEAK) 15 0⟩
      modRas (fun r => { r with frames := r.frames.drop (r.frames.length - 2) ++ [f] }) s1
    else s1
  | none => s1

/-- Canvas lines from `from_` up to `upto` reach the raster generator, or are refused (R239, R255, R256). -/
def monLines (n from_ upto : Nat) (accepted : Bool) (s : State) : State :=
  modRas (fun r => { r with frames := r.frames.map (fun f =>
    if f.canvas = n then
      { f with lines := max f.lines upto
               refused := if accepted then f.refused
                 else f.refused ++ ((List.range (upto - from_)).map (fun i => from_ + i)).filter (fun l => decide (l < f.need)) }
    else f) }) s

/-- Lines up to and including `line` are in DRAM, and reach the raster generator or are refused. -/
def lineDone (line : Nat) (accepted : Bool) (s : State) : State :=
  let s1 := canvasLine line s
  if s1.cmp.lines = s.cmp.lines then s1 else monLines (s1.cmp.count - 1) s.cmp.lines s1.cmp.lines accepted s1

/-- The first refused line of a frame is read back, with what its canvas buffer then holds. -/
def backLine (s : State) (f : MonFrame) : MonFrame :=
  match f.refused with
  | [] => f
  | l :: rest =>
    let rep := ((aFind s.cmp.canvases f.canvas).map Canvas.repairs).getD []
    { f with refused := rest, backs := if rep = [] then f.backs else aPut f.backs l rep }

/-- A refused line is read back from the canvas buffer (R256). -/
def execLineReadback (t : Nat) (s : State) : Out :=
  let s1 := advance t s
  match s1.ras.frames.find? (fun f => f.refused != []) with
  | none => .next s1
  | some f =>
    let cut (g : MonFrame) : MonFrame := if g.k = f.k then backLine s1 g else g
    .next (bump R.RAS_CNT_READBACK (modRas (fun r => { r with frames := r.frames.map cut, readbacks := r.readbacks + 1 }) s1))

/-! The monitor picture (R252 to R254). -/

/-- Placement of the window on one axis: the canvas pixels whose mean output pixel `i` carries (R253). -/
def axisPick (rep : Bool) (f win i : Nat) : List Nat := if rep then [win + i / max 1 f] else (List.range f).map (fun d => win + i * f + d)

/-- E′ of light x (both in units of 2⁻⁴⁰ and 2⁻²⁴): x^(1/2.4). -/
def root24 (x : Nat) : Nat := searchUp (fun e => decide (e ^ 12 * one40 ^ 5 ≤ x ^ 5 * 16777216 ^ 12)) 25 0

/-- Output picture pixel (i, j) as non-linear R′G′B′ in units of 2⁻²⁴ (R254 steps 1 and 2). -/
def monPixel (s : State) (f : MonFrame) (i j : Nat) : Nat × Nat × Nat :=
  let xy := regF s R.RAS_WIN_XY
  let sc := regF s R.RAS_SCALE
  let us := axisPick (bitOf sc 7) (bits sc 3 0) (bits xy 15 0) i
  let vs := axisPick (bitOf sc 15) (bits sc 11 8) (bits xy 31 16) j
  let px := vs.flatMap (fun v => us.map (fun u => monSource f u v))
  let mean (ch : Nat) : Nat := (px.map (fun p => pow24 (chanOf p ch))).sum / max 1 px.length
  let (r, g, b) := (mean 0, mean 1, mean 2)
  let bt2020 := bitOf (regF s R.RAS_CFG) 23
  let mix (x y z : Int) : Nat := ((x * r + y * g + z * b) / 10000).toNat
  let (r1, g1, b1) := if bt2020 then (r, g, b) else (mix 16605 (-5876) (-728), mix (-1246) 11329 (-83), mix (-182) (-1006) 11187)
  let peak := f.peak
  match bits (regF s R.RAS_CFG) 25 24 with
  | 1 => (pqInverse (r1 * peak), pqInverse (g1 * peak), pqInverse (b1 * peak))
  | 2 =>
    let yd := (2627 * r1 + 6780 * g1 + 593 * b1) / 10000
    let e (x : Nat) : Nat := hlgOetf (min one40 (hlgScene yd peak x))
    (e r1, e g1, e b1)
  | _ =>
    let w := bits (regF s R.RAS_WHITE_PULL) 15 0
    let lit (x : Nat) : Nat := root24 (min one40 (if w = 0 then x else x * peak / w))
    (lit r1, lit g1, lit b1)

/-- Y′, Cb′, Cr′ of a pixel in units of 2⁻²⁴ (R254 step 3). -/
def monYcc (bt2020 : Bool) (e : Nat × Nat × Nat) : Nat × Int × Int :=
  let (kr, kb, kg) := lumaK bt2020
  let (r, g, b) := e
  let y := (kr * r + kg * g + kb * b) / 10000
  (y, ((b : Int) - y) * 10000 / (2 * (10000 - kb) : Nat), ((r : Int) - y) * 10000 / (2 * (10000 - kr) : Nat))

/-- A 10-bit code: offset + span × v, halves up, clipped to 4 to 1,019 (R254 step 5). -/
def monCode (off span : Nat) (v : Int) : Nat := (clampI 4 1019 ((2 * ((off : Int) * 16777216 + (span : Int) * v) + 16777216) / 33554432)).toNat

/-- The eight 75 % color bars in the output domain (R252). -/
def barCode (bt2020 : Bool) (n : Nat) : Nat × Nat × Nat :=
  let on (b : Bool) : Nat := if b then 12582912 else 0
  let (y, cb, cr) := monYcc bt2020 (on (n / 2 % 2 == 0), on (decide (n < 4)), on (n % 2 == 0))
  (monCode 64 876 y, monCode 512 896 cb, monCode 512 896 cr)

/-- Y, Cb and Cr at active-raster pixel (x, y), with the chroma filter of R254 around that pixel (R244, R252 to R254). -/
def monPoint (s : State) (x y : Nat) : Nat × Nat × Nat :=
  let black := (64, 512, 512)
  let bt2020 := bitOf (regF s R.RAS_CFG) 23
  let border := (bits (regF s R.RAS_BORDER) 29 20, bits (regF s R.RAS_BORDER) 19 10, bits (regF s R.RAS_BORDER) 9 0)
  let w := ((monFormat (rasFormat s)).map MonFormat.width).getD 1
  if s.ras.running = false ∨ s.ras.transition.isSome then black
  else match rasSource s, s.ras.scan with
    | 1, _ => barCode bt2020 (x * 8 / w)
    | 0, some f =>
      let sc := regF s R.RAS_SCALE
      let size (rep : Bool) (k n : Nat) : Nat := if rep then n * k else n / max 1 k
      let ow := size (bitOf sc 7) (bits sc 3 0) (bits (regF s R.RAS_WIN_WH) 15 0)
      let oh := size (bitOf sc 15) (bits sc 11 8) (bits (regF s R.RAS_WIN_WH) 31 16)
      let ox := bits (regF s R.RAS_OUT_XY) 15 0
      let oy := bits (regF s R.RAS_OUT_XY) 31 16
      if x < ox ∨ ox + ow ≤ x ∨ y < oy ∨ oy + oh ≤ y then border
      else
        let ycc (i : Nat) : Nat × Int × Int := monYcc bt2020 (monPixel s f (min (ow - 1) i) (y - oy))
        let i := x - ox
        let (_, cb0, cr0) := ycc (i - 1)
        let (y1, cb1, cr1) := ycc i
        let (_, cb2, cr2) := ycc (i + 1)
        (monCode 64 876 y1, monCode 512 896 ((cb0 + 2 * cb1 + cb2) / 4), monCode 512 896 ((cr0 + 2 * cr1 + cr2) / 4))
    | _, _ => black

/-- The sample of active-raster pixel (x, y) as the store holds it: Y, and the Cb and Cr of its pair, which are those of the pair's even pixel (R244,
R254). -/
def monPicture (s : State) (x y : Nat) : Nat × Nat × Nat :=
  let (y1, _, _) := monPoint s x y
  let (_, cb, cr) := monPoint s (x - x % 2) y
  (y1, cb, cr)

/-- The active line that carries picture row `y`, in scan order (R250). Field 1 of 1080i carries the even rows, as ST 274 has it (PRESUMED, log entry
13). -/
def rowLine (s : State) (y : Nat) : Nat :=
  match monFormat (rasFormat s) with
  | some f => if f.second.isSome then y / 2 + y % 2 * (f.height / 2) else y
  | none => y

/-- The sample sent: black in a line from the sample at which the scan had no data, or data in error (R259). -/
def monSample (s : State) (x y : Nat) : Nat × Nat × Nat :=
  match aFind s.ras.blacked (rowLine s y) with
  | some x0 => if x0 ≤ x then (64, 512, 512) else monPicture s x y
  | none => monPicture s x y

/-- Monitor output `n` drives a signal: the raster runs and the output is enabled (R243, R244). -/
def monDrives (s : State) (n : Nat) : Bool := s.ras.running && bitOf (regF s R.RAS_CFG) (30 + n)

/-- What an ST 352 payload identifier says (R245). -/
structure PayloadId where
  format : Nat
  link : MonLink
  rate : Nat
  bt2020 : Bool
  transfer : Nat
deriving DecidableEq, Repr

/-- The identifier that output `n` carries; in a transition frame the one of the new format (R245, R263). -/
def monPayload (s : State) (n : Nat) : Option PayloadId :=
  match monDrives s n, monFormat (rasFormat s) with
  | true, some f => some ⟨rasFormat s, f.link, rasRate s, bitOf (regF s R.RAS_CFG) 23, bits (regF s R.RAS_CFG) 25 24⟩
  | _, _ => none

/-- The sample of active pixel (x, y) on output `n`: the same on both, none where the driver is off (R243). -/
def monOutput (s : State) (n x y : Nat) : Option (Nat × Nat × Nat) := if monDrives s n then some (monSample s x y) else none

/-- Total lines of the frame in progress (R249, R263): the remainder of a transition frame belongs to its last line. -/
def frameLines (s : State) : Nat :=
  match s.ras.transition with
  | some n => n
  | none => ((totalLines s : Int) + s.ras.extra).toNat

/-- The total line being sent, from 1; 0 before the first frame (R267). -/
def rasTotalLine (s : State) : Nat :=
  let (n, d) := rateOf (rasRate s)
  if s.ras.running ∧ s.ras.fresh = false then
    min (frameLines s) (1 + (s.time.st64 - s.ras.start).toNat * (n * totalLines s) / max 1 (1000000000 * d))
  else 0

/-- The active line being sent by show time; none in vertical blanking. -/
def activeNow (s : State) (f : MonFormat) : Option Nat := activeLineOf f ((rasTotalLine s : Int) - s.ras.extra).toNat

/-- In vertical blanking, the start of the active line that ends it: of this frame, of field 2, or of the next frame. -/
def blankEnd (s : State) (f : MonFormat) : Int :=
  let t := (rasTotalLine s : Int) - s.ras.extra
  let at_ (l : Nat) : Int := s.ras.start + lineStart s ((l : Int) - 1 + s.ras.extra).toNat
  let next := s.ras.next + lineStart s (f.first - 1)
  if s.ras.fresh then next
  else if t < f.first then at_ f.first
  else match f.second with
    | some z => if t < z then at_ z else next
    | none => next

/-- Active lines left after line `l` in its run, and the lines of blanking that follow the run (R250). -/
def runLeft (f : MonFormat) (l : Nat) : Nat × Nat :=
  match f.second with
  | some z =>
    let half := f.height / 2
    if l < half then (half - 1 - l, z - (f.first + half)) else (f.height - 1 - l, f.total - (z + half) + f.first)
  | none => (f.height - 1 - l, f.total - f.height)

/-- Bytes that active line `l`, which is being sent, still takes; the bytes of a line are taken evenly over it, as the examples of R260 count them. -/
def lineLeft (s : State) (f : MonFormat) (l : Nat) : Nat :=
  let t := ((totalLineOf f l : Int) + s.ras.extra).toNat
  let stop : Int := s.ras.start + lineStart s t
  f.width * 4 * (stop - s.time.st64).toNat / max 1 (lineStart s t - lineStart s (t - 1))

/-- Nanoseconds of vertical blanking that the scan meets before it has used up `bytes`: none consumes anything (R260). -/
def blankAhead (s : State) (f : MonFormat) (bytes : Nat) : Nat :=
  match activeNow s f with
  | some l => if lineLeft s f l + (runLeft f l).1 * (f.width * 4) ≤ bytes then lineStart s (runLeft f l).2 else 0
  | none => (blankEnd s f - s.time.st64).toNat

/-- The tolerance that `bytes` in the scan FIFO give, vertical blanking counted as time that consumes nothing, less 10,000 ns (R260). -/
def ltrOf (s : State) (bytes : Nat) : Nat :=
  match monFormat (rasFormat s) with
  | some f =>
    let (n, d) := rateOf (rasRate s)
    let row := f.width * 4
    let den := max 1 (n * f.total) * row
    min 0xFFFFFFFF ((2 * bytes * 1000000000 * d + den) / (2 * den) + blankAhead s f bytes - 10000)
  | none => 0xFFFFFFFF

/-- The tolerance as the raster starts, with nothing in the FIFO. -/
def ltrStart (s : State) : State := modRas (fun r => { r with ltr := ltrOf s 0 }) s

/-! Raster frames (R247 to R250, R257, R261 to R263). -/

/-- Writing 1 to RAS_COMMIT.go arms the copy for the first raster frame start at or after F(k) (R261). -/
def rasGo (v : Word) (s : State) : State :=
  if bitOf v 0 = false then s
  else
    let tag : Int := s.time.fcount + 1 - signed 32 (unsignedOf 32 (s.time.fcount + 1 - (regN s R.RAS_COMMIT_TAG : Int)))
    modRas (fun r => { r with armed := some (tag, tag) }) s

/-- Format, rate, m or offset differ (R262). -/
def timingChange (a b : State) : Bool :=
  rasFormat a != rasFormat b || rasRate a != rasRate b || rasM a != rasM b || rasOffset a != rasOffset b

/-- The grid instant that ends a transition frame begun at `t0`: the first with G − t0 at least a quarter of the new period (R263). -/
def transitionEnd (s : State) (t0 : Int) : Int :=
  let (n, d) := rateOf (rasRate s)
  let quarter : Int := (250000000 * d + n - 1 : Nat) / (max 1 n : Nat)
  gridFrom s (t0 + quarter)

/-- A transition frame starts at `t0` under the new configuration; `old` the one before (R263). Monitor frames of another format are lost, but for one
whose canvas starts at `t0` and that is built under the new configuration (R255). -/
def startTransition (old : State) (t0 : Int) (s : State) : State :=
  let j := transitionEnd s t0
  let g := gridAt s j
  let (n, d) := rateOf (rasRate s)
  let lines := ((g - t0).toNat * (n * totalLines s)) / max 1 (1000000000 * d)
  let kept := rasFormat old == rasFormat s
  let s1 := modRas (fun r => { r with
    running := true, fresh := false, blacked := [], extra := 0, r := if r.fresh then 0 else r.r + 1, nextJ := j, gridK := frameBefore s t0, start := t0, next := g
    transition := some lines, line := none, done := false, error := 0, slew := 0, slewNext := 0
    scan := if kept then r.scan else none, frames := if kept then r.frames else r.frames.filter (fun f => decide (t0 ≤ frameAt s f.k))
    underruns := if old.ras.running then r.underruns else 0
    repeats := if old.ras.running then r.repeats else 0
    readbacks := if old.ras.running then r.readbacks else 0
    slips := if old.ras.running then r.slips else 0 }) s
  notify 0x8181 24 [rasFormat old, rasRate old, rasFormat s, rasRate s, lines, s1.ras.r, t0]
    (setFlag R.RAS_INT_STAT 5 (setFlag R.RAS_INT_STAT 0 (if old.ras.running then s1 else ltrStart s1)))

/-- The raster stops: no format in force, or m outside 1 to 10 (R244). -/
def rasHalt (s : State) : State :=
  modRas (fun r => { r with
    running := false, transition := none, line := none, done := false, blacked := [], scan := none, frames := [], extra := 0,
    ltr := 0xFFFFFFFF }) s

/-- By how many ns the raster will run ahead of the grid at the next frame start: what show time fell behind, less what the pull takes back, more or
less the line added or removed (R249). -/
def rasDrift (s : State) : Int :=
  let (n, d) := rateOf (rasRate s)
  let period : Int := 1000000000 * d / max 1 n
  let pull : Int := period * (bits (regF s R.RAS_WHITE_PULL) 31 16 : Int) / 1000000
  let e := s.ras.error + s.ras.slew - s.ras.extra * max 1 (lineStart s 1 : Int)
  e - clampI (-pull) pull e

/-- The next raster frame start: its grid instant, less the drift (R247, R249). -/
def rasNext (s : State) : State := modRas (fun r => { r with next := gridAt s s.ras.nextJ - rasDrift s }) s

/-- At a frame start the error so far is known; once it reaches one total line, a line is added to this frame or left out of it (R249). -/
def rasSlip (s : State) : State :=
  let left := rasDrift s
  let s1 := modRas (fun r => { r with error := left, slew := r.slewNext, slewNext := 0, extra := 0 }) s
  if left.natAbs < max 1 (lineStart s 1) then s1
  else setFlag R.RAS_INT_STAT 4 (bump R.RAS_CNT_SLIP (modRas (fun r => { r with
    extra := if left < 0 then -1 else 1, slips := r.slips + 1 }) s1))

/-- The monitor frame that the raster frame starting now is to show: complete, or the last one again (R255, R257). -/
def rasScan (j : Int) (s : State) : State :=
  let k := rasM s * j - 1 - rasDelay s
  match rasSource s with
  | 0 =>
    match s.ras.frames.find? (fun f => f.k == k && monComplete f) with
    | some f => modRas (fun r => { r with scan := some f, shownK := k, frames := r.frames.filter (fun g => decide (k < g.k)) }) s
    | none =>
      if s.ras.scan.isSome then bump R.RAS_CNT_REPEAT (modRas (fun r => { r with repeats := r.repeats + 1 }) s) else s
  | _ => s

/-- A raster frame starts at its start-of-blanking instant `s.ras.next` (R247, R248, R251, R261). -/
def rasFrameStart (s : State) : State :=
  let t0 := s.ras.next
  let copied := match s.ras.armed with
    | some (tag, b) => if frameAt s b ≤ t0 then rasCopy tag s else s
    | none => s
  if rasOn copied = false then rasHalt copied
  else if timingChange s copied then startTransition s t0 copied
  else
    let j := copied.ras.nextJ
    let s1 := rasSlip copied
    let s2 := modRas (fun r => { r with
      fresh := false, r := if r.fresh then 0 else r.r + 1, gridK := frameBefore s1 (gridAt s1 j), start := t0, nextJ := j + 1
      transition := none, line := none, done := false, blacked := [], underLast := none, perrLast := none }) s1
    setFlag R.RAS_INT_STAT 0 (rasScan j (rasNext s2))

/-- The raster frame start may happen now: the raster runs, and the show frame boundary before it has passed. -/
def rasStartDue (s : State) : Bool := s.time.running && s.ras.running && decide (s.ras.next < frameAt s (s.time.fcount + 1))

/-- Active line L begins (R251): position and, where enabled for it, the host interrupt. -/
def rasLine (l : Nat) (s : State) : State :=
  let s1 := modRas (fun r => { r with line := some l }) s
  let w := reg s R.RAS_LMATCH
  if bitOf w 31 ∧ bits w 11 0 = l then setFlag R.RAS_INT_STAT 1 s1 else s1

/-- The start of active line L in the frame in progress, if the frame holds it (R250, R263). -/
def rasLineAt (s : State) (l : Nat) : Option Int :=
  match monFormat (rasFormat s) with
  | some f =>
    let t := totalLineOf f l
    let inFrame := match s.ras.transition with
      | some n => decide (t ≤ n)
      | none => true
    if s.ras.running ∧ l < f.height ∧ inFrame = true then some (s.ras.start + lineStart s ((t : Int) - 1 + s.ras.extra).toNat) else none
  | none => none

/-- The last active sample of the last active line is sent (R251). -/
def execRasterFrameDone (t : Nat) (s : State) : Out :=
  let s1 := advance t s
  match monFormat (rasFormat s1) with
  | some f =>
    if s1.ras.running ∧ s1.ras.done = false ∧ s1.ras.line = some (f.height - 1) then
      .next (setFlag R.RAS_INT_STAT 2 (modRas (fun r => { r with done := true, line := none }) s1))
    else .next s1
  | none => .next s1

/-- MONITOR_UNDERRUN at most once per second (R259). -/
def sendUnder (s : State) : State :=
  let quiet := match s.ras.underAt with
    | some t => decide (s.time.now < t + 1000000000)
    | none => false
  if s.ras.under = 0 ∨ quiet = true then s
  else notify 0x8180 24 [s.ras.under, unsignedOf 32 s.ras.underR, s.ras.underLine, st64 s]
    (modRas (fun r => { r with under := 0, underAt := some s.time.now }) s)

/-- The rest of an active line is sent as black, from a sample on (R259). -/
def blackLine (line sample : Nat) (s : State) : State :=
  if s.ras.running then modRas (fun r => { r with blacked := aPut r.blacked line (min sample (aGet r.blacked line sample)) }) s else s

/-- A line underruns at its first sample without data, and is counted once (R259); before the first monitor frame and in a transition frame nothing is counted (R244, R263). -/
def execScanUnderrun (t : Nat) (line sample : Nat) (s : State) : Out :=
  let s1 := blackLine line sample (advance t s)
  if s1.ras.running = false ∨ s1.ras.transition.isSome ∨ s1.ras.scan = none ∨ s1.ras.underLast = some line then .next s1
  else .next (sendUnder (setFlag R.RAS_INT_STAT 3 (bump R.RAS_CNT_UNDERRUN (modRas (fun r => { r with
    under := r.under + 1, underruns := r.underruns + 1, underLast := some line
    underR := if r.under = 0 then r.r else r.underR
    underLine := if r.under = 0 then line else r.underLine }) s1))))

/-- A parity error in the scan path blacks the line being sent in the same way, from the sample in error on; a line is counted once (R259). -/
def scanParity (sample : Nat) (s : State) : State :=
  match s.ras.running, s.ras.line with
  | true, some l =>
    let s1 := blackLine l sample s
    if s.ras.perrLast = some l then s1 else bump R.RAS_CNT_PERR (modRas (fun r => { r with perrLast := some l }) s1)
  | _, _ => s

def execLtrRecompute (t : Nat) (bytes : Nat) (s : State) : Out :=
  let s1 := advance t s
  if s1.ras.running then .next (modRas (fun r => { r with ltr := ltrOf s1 (min bytes 524288) }) s1) else .next s1

/-- The raster generator at F(k): notices, the slew of the show frame that starts (the next raster frame's where that starts at F(k) too), a copy while the raster stands still, and the monitor frame of
canvas k (R249, R255, R261). -/
def frameRas (k : Int) (s : State) : State :=
  let on := s.ras.running && !s.ras.fresh && s.ras.transition.isNone
  let slew := (s.time.tbEnd - (tbOf s (selTb s)).ns) - (frameAt s (k + 1) - s.time.st64)
  let s0 := sendUnder s
  let s1 := if on = false then s0
    else if s0.ras.next ≤ frameAt s k then modRas (fun r => { r with slewNext := r.slewNext + slew }) s0
    else rasNext (modRas (fun r => { r with slew := r.slew + slew }) s0)
  let s2 := match s1.ras.running, s1.ras.armed with
    | false, some (tag, b) =>
      if b ≤ k then
        let c := rasCopy tag s1
        if rasOn c then startTransition s1 (frameAt s k) c else c
      else s1
    | _, _ => s1
  monBegin k s2

/-- Show time starts: the raster runs from the next grid instant where a format is in force (R244, R248). -/
def rasStart (s : State) : State :=
  if rasOn s then
    let j := gridFrom s (s.time.st64 + 1)
    ltrStart (modRas (fun r => { r with
      running := true, fresh := true, r := 0, nextJ := j, next := gridAt s j, start := s.time.st64, error := 0, slew := 0, slewNext := 0, extra := 0
      transition := none, underruns := 0, repeats := 0, readbacks := 0, slips := 0 }) s)
  else modRas (fun r => { r with fresh := true, r := 0 }) s

def rasStop (s : State) : State := modRas (fun r => { r with armed := none }) (rasHalt s)

/-! Configuration (R245, R246, R265, R266). -/

def monitorSetOk (p : MonitorSet) : Bool :=
  let scale (v : Nat) : Bool := decide (1 ≤ v % 16) && decide (v % 16 ≤ 8)
  decide (p.source ≤ 2) && decide (p.transfer ≤ 2) && decide (p.primaries ≤ 1) && scale p.hscale && scale p.vscale && decide (1 ≤ p.pull) &&
    decide (p.pull ≤ 1000) && decide (p.borderY ≤ 1023) && decide (p.borderCb ≤ 1023) && decide (p.borderCr ≤ 1023) &&
    (p.lmatch == 0xFFFF || decide (p.lmatch ≤ 4095))

/-- Output size on one axis (R253). -/
def monSize (scale win : Nat) : Nat := if nBit scale 7 then win * (scale % 16) else win / max 1 (scale % 16)

/-- The checks of R265 in their order: cause, required, limit. -/
def rasReject (s : State) (r : Cfg) : Option (List Int) :=
  match r.monitor with
  | none => none
  | some p =>
    let n := s.time.rateN
    let d := s.time.rateD
    let dec (scale win : Nat) : Bool := nBit scale 7 || win % max 1 (scale % 16) == 0
    if p.format = 0 then none
    else match monFormat p.format with
      | none => some [1, p.format, 5]
      | some f =>
        if f.rates.contains p.rate = false then some [1, p.rate, 8]
        else match gridRatio n d p.rate with
          | none => some [2, n, 10]
          | some m =>
            if p.winW = 0 ∨ p.winH = 0 then some [3, 0, 1]
            else if r.canvas.width < p.winX + p.winW then some [3, p.winX + p.winW, r.canvas.width]
            else if r.canvas.height < p.winY + p.winH then some [3, p.winY + p.winH, r.canvas.height]
            else if dec p.hscale p.winW = false then some [3, p.winW, p.hscale % 16]
            else if dec p.vscale p.winH = false then some [3, p.winH, p.vscale % 16]
            else if f.width < p.outX + monSize p.hscale p.winW then some [4, p.outX + monSize p.hscale p.winW, f.width]
            else if f.height < p.outY + monSize p.vscale p.winH then some [4, p.outY + monSize p.vscale p.winH, f.height]
            else if m * periodMin s ≤ p.offset then some [5, p.offset, m * periodMin s - 1]
            else if 10000 < p.white then some [6, p.white, 10000]
            else none

/-- Teller writes the RAS shadows of a configuration, and where the monitor store lies (R52, R255, R267). Where the show rate has changed so that no m
exists, m is 0, which stops the raster (R246, R267; DEDUCED, log entry 13). -/
def rasWrite (r : Cfg) (s : State) : State :=
  match r.monitor with
  | none => s
  | some p =>
    let m := (gridRatio (s.time.rateN) (s.time.rateD) p.rate).getD 0
    let cfg := bNat (nBit p.flags 1) * 2147483648 + bNat (nBit p.flags 0) * 1073741824 + bNat (nBit p.flags 2) * 536870912 +
      p.source * 67108864 + p.transfer * 16777216 + p.primaries * 8388608 + m * 65536 + p.rate % 16 * 4096 + p.format
    let scale := p.vscale / 128 % 2 * 32768 + p.vscale % 16 * 256 + p.hscale / 128 % 2 * 128 + p.hscale % 16
    let words : List (Nat × Nat) := [(R.RAS_CFG, cfg), (R.RAS_OFFSET, p.offset), (R.RAS_WIN_XY, p.winY * 65536 + p.winX),
      (R.RAS_WIN_WH, p.winH * 65536 + p.winW), (R.RAS_OUT_XY, p.outY * 65536 + p.outX), (R.RAS_SCALE, scale),
      (R.RAS_BORDER, p.borderY * 1048576 + p.borderCb * 1024 + p.borderCr), (R.RAS_WHITE_PULL, p.pull * 65536 + p.white),
      (R.RAS_LMATCH, if p.lmatch = 0xFFFF then 0 else 2147483648 + p.lmatch)]
    setReg64 R.RAS_STORE_BASE_LO (Config.monitorBase p.format * 65536 : Nat) (words.foldl (fun x w => setReg w.1 (BitVec.ofNat 32 w.2) x) s)

/-- A commit arms the copy with its tag; Teller writes the shadows where it holds a MONITOR_SET (R261). -/
def rasCommit (tag : Int) (write : Bool) (r : Cfg) (s : State) : State :=
  modRas (fun x => { x with armed := some (tag, tag) }) (setReg R.RAS_COMMIT_TAG (BitVec.ofInt 32 tag) (if write then rasWrite r s else s))

def setsMonitor (m : ConfigMsg) : Bool :=
  match m with
  | .monitorSet _ => true
  | _ => false

def rasRecord (m : ConfigMsg) (r : Cfg) : Cfg :=
  match m with
  | .monitorSet p => { r with monitor := some p }
  | _ => r

def execMonitorSet (c : Call) (p : MonitorSet) (s : State) : Out :=
  configMessage 0x0420 40 c (fun _ => monitorSetOk p) (.monitorSet p) s

def viewRas (s : State) (a : Nat) : Option Word :=
  let x := s.ras
  match pageOff a with
  | 0x000 => some (BitVec.ofNat 32 (bNat x.transition.isSome * 2 + bNat x.running))
  | 0x004 => some (BitVec.ofNat 32 (bNat x.armed.isSome * 2147483648))
  | 0x00C => some x.activeTag
  | 0x040 => some (loWord x.r)
  | 0x044 => some (hiWord x.r)
  | 0x048 => some (loWord x.gridK)
  | 0x04C => some (hiWord x.gridK)
  | 0x050 =>
    let t := rasTotalLine s
    match monFormat (rasFormat s) with
    | some f =>
      let act := (activeNow s f).getD 0xFFFF
      let field := match f.second with
        | some _ => bNat (decide (562 + s.ras.extra < t))
        | none => 0
      some (BitVec.ofNat 32 ((if x.running then act else 0xFFFF) * 65536 + field * 32768 + t % 4096))
    | none => some 0xFFFF0000
  | 0x054 => some (BitVec.ofInt 32 x.shownK)
  | 0x058 => some (BitVec.ofNat 32 (if x.running then x.ltr else 0xFFFFFFFF))
  | 0x05C =>
    let wr := match x.frames.find? (fun f => !monComplete f) with
      | some f => f.buffer
      | none => 0
    let sc := match x.scan with
      | some f => f.buffer
      | none => 0
    some (BitVec.ofNat 32 (wr * 16 + sc * 4 + bNat (x.scan.isSome || x.frames.any monComplete) * 2))
  | _ => none

def execMonitorStatusGet (c : Call) (s : State) : Out :=
  command 0x0421 c s fun s =>
    let x := s.ras
    let state := if x.running then (if x.transition.isSome then 2 else 1) else 0
    answer 48 [x.r, x.start, unsignedOf 32 x.shownK, rasM s, state, x.underruns, x.repeats, x.readbacks, x.slips,
      if x.running then x.ltr else 0xFFFFFFFF] s

end Sys2Proof.Machine
end

