-- ==== Sys2Proof/Machine/Almanac.lean ====
section
/-! DEFINITION. The Almanac's lists (03_almanac.md): insertion, trace ring, cues, descriptors and constraints. The tick itself is in Tick. -/

namespace Sys2Proof.Machine

def modAlm (f : Almanac → Almanac) (s : State) : State := { s with alm := f s.alm }

/-- Before, after: by due time with the signed difference of R107; entries within the horizon of R108 compare as integers do. -/
def isDue (tick due : Int) : Bool := decide (0 ≤ signed 64 (unsignedOf 64 (tick - due)))

/-- A due time further than 2⁶² ns from ST64 is refused (R108). -/
def beyondHorizon (s : State) (due : Int) : Bool := decide (4611686018427387904 < (due - s.time.st64).natAbs)

/-- A trace record is written for a selected kind while recording runs (R138, R139, R141). -/
def traceRec (r : TraceRec) (s : State) : State :=
  let stopped : Bool := s.alm.traceFrozen || s.alm.traceTrigger.any (fun t => t.left == 0)
  if bitOf (reg s R.ALM_CTRL) 1 = false ∨ nBit (bits (reg s R.ALM_TRACE_KIND) 9 0) r.kind = false ∨ stopped = true then s
  else
    let idx := s.alm.traceWr
    let post := bits (reg s R.ALM_TRACE_CTRL) 31 16
    let trig := match s.alm.traceTrigger with
      | some t => some { t with left := t.left - 1 }
      | none => if nBit (bits (reg s R.ALM_TRACE_CTRL) 15 8) r.outcome then some ⟨idx, r.outcome, post, post⟩ else none
    modAlm (fun a => { a with
      trace := aPut a.trace idx { r with seq := a.traceSeq }
      traceSeq := (a.traceSeq + 1) % 65536
      traceWr := (idx + 1) % 4096
      traceWrapped := a.traceWrapped || decide (a.trace.length = 4096)
      traceTrigger := trig }) s

/-- A record of the common form. -/
def traceOf (kind target outcome object prio : Nat) (frame due : Int) (s : State) : State :=
  traceRec ⟨due, clampI (-2147483648) 2147483647 (st64 s - due), unsignedOf 32 frame, object, kind, target, prio, outcome, 0, 0⟩ s

/-- A refused insertion is counted, and noticed at most once per list per 100 ms (R135). Lists: 0 launch, 1 cue, 2 timer, 3 descriptor pool. -/
def refuseInsert (list : Nat) (s : State) : State :=
  let r := aGet s.alm.refusals list (0, none)
  let s1 := setFlag R.ALM_INT_STAT 1 (bump R.ALM_CNT_OVERFLOW s)
  let quiet := match r.2 with
    | some t => decide (s.time.now < t + 100000000)
    | none => false
  if quiet then modAlm (fun a => { a with refusals := aPut a.refusals list (r.1 + 1, r.2) }) s1
  else notify 0x8140 16 [list, r.1 + 1, st64 s] (modAlm (fun a => { a with refusals := aPut a.refusals list (0, some s.time.now) }) s1)

def nextOrder (s : State) : State := modAlm (fun a => { a with order := a.order + 1 }) s

/-- An entry beyond the horizon is refused, counted and traced with outcome 6; the list is not full, so no notice goes out (R108). -/
def refuseHorizon (kind target object prio : Nat) (frame due : Int) (s : State) : State :=
  setFlag R.ALM_INT_STAT 1 (bump R.ALM_CNT_OVERFLOW (traceOf kind target 6 object prio frame due s))

def launchLead (s : State) : Int := (bits (reg s R.ALM_LAUNCH_LEAD) 6 0 : Int) * 1000

/-- The largest of the advances of R130. -/
def advanceMax (s : State) : Int :=
  let a (r : Nat) : Int := bits (reg s r) 19 0
  max (max (a R.ALM_ADV_LANE) (a R.ALM_ADV_SHOW)) (max (a R.ALM_ADV_DMX) (a R.ALM_ADV_RADIO))

/-- A SYNC or launch entry is due when it is dispatched, the launch lead before its instant and, on the SYNC list, A_max before that (R107; DEDUCED,
log entry 9). -/
def syncDue (s : State) (e : SyncEntry) : Int := e.at_ - advanceMax s - launchLead s

/-- The trace kind, the target and the object of a launch-list entry (R139, R140). R139 names zone, flow context, cue slot and timer as objects: these
kinds of work have the number of their port, lane or transceiver there, as `workObject` has it (DESIGN CHOICE, log entry 9). -/
def launchTrace (k : LaunchKind) : Nat × Nat × Nat :=
  match k with
  | .packet p => (9, 14, p)
  | .dmxBreak p => (4, 10, p)
  | .radioSlot x => (5, 11, x)

/-- The list and the horizon admit a launch-list entry (R108, R109). -/
def launchFits (s : State) (at_ : Int) : Bool := !beyondHorizon s at_ && decide (s.alm.launch.length < 4096)

/-- A launch-list entry is inserted, or refused (R108, R109, R113, R135). It is due the launch lead before its instant. -/
def insertLaunch (at_ : Int) (kind : LaunchKind) (zones : List (Nat × Int)) (priority : Nat) (s : State) : State :=
  let (c, t, o) := launchTrace kind
  let frame := (zones.head?.map Prod.snd).getD 0
  if beyondHorizon s at_ then refuseHorizon c t o priority frame at_ s
  else if 4096 ≤ s.alm.launch.length then refuseInsert 0 (traceOf c t 4 o priority frame at_ s)
  else nextOrder (modAlm (fun a => { a with launch := a.launch ++
    [⟨at_, kind, zones, priority, a.order, decide (at_ - launchLead s ≤ s.time.st64), s.time.st64⟩] }) s)

def timerNumber (k : TimerKind) : Nat :=
  match k with
  | .teller n => n
  | .frameWork _ | .escrowEnd _ => 0

/-- A timer refused by a full list: counted, and a Ledger record (R135). -/
def refuseTimer (e : TimerEntry) (s : State) : State :=
  ledgerEvent 0x0009 [timerNumber e.kind] (refuseInsert 2 (traceOf 7 13 4 (timerNumber e.kind % 65536) 0 0 e.due s))

/-- A timer entry; a Teller timer that finds the list full is retried (R108, R113, R135). -/
def insertTimer (e : TimerEntry) (s : State) : State :=
  if beyondHorizon s e.due then refuseHorizon 7 13 (timerNumber e.kind % 65536) 0 0 e.due s
  else if 1024 ≤ s.alm.timers.length then modAlm (fun a => { a with timerRetry := a.timerRetry ++ [e] }) (refuseTimer e s)
  else nextOrder (modAlm (fun a => { a with timers := a.timers ++
    [{ e with order := a.order, late := decide (e.due ≤ s.time.st64), since := s.time.st64 }] }) s)

/-- Frames before and after by signed difference of their low 32 bits (R121). -/
def frameReached (have_ want : Int) : Bool := decide (0 ≤ signed 32 (unsignedOf 32 (have_ - want)))

/-- Frame k of a zone waits for its launch. -/
def toLaunch (s : State) (z : Nat) (k : Int) : Bool :=
  (match aFind s.alm.sync z with
    | some e => e.k == k
    | none => false) || s.alm.armed.any (fun a => a.zones.contains (z, k)) || s.alm.launch.any (fun e => e.zones.contains (z, k))

/-- The SYNC of zone `z` for frame `k` has launched, or the frame was skipped; for a zone without frames to come the frame lies before those in
progress (R120, R121). -/
def syncPassed (s : State) (z : Nat) (k : Int) : Bool :=
  s.pool.unsent.contains (z, k) || (match aFind s.alm.release z with
    | some r => frameReached (r.k - 1) k && !toLaunch s z k
    | none => frameReached (s.time.fcount - 2) k && !toLaunch s z k)

/-- A constraint holds (R120, R121): a flow that has not ended a frame yet has passed those whose zone has. -/
def constraintHolds (s : State) (c : Constraint) : Bool :=
  match c with
  | .afterFlow f k => match aFind s.alm.flowDone f with
    | some j => frameReached j.1 k
    | none => frameReached (s.time.fcount - 2) k
  | .notBeforeSync z k => syncPassed s z k
  | .notBefore t => isDue s.time.st64 t

/-- Of a descriptor's constraints on flows, one holds because the flow's work was discarded (R139). -/
def predDiscarded (s : State) (d : Descriptor) : Bool :=
  d.constraints.any (fun c => match c with
    | .afterFlow f k => (match aFind s.alm.flowDone f with
      | some j => j.2 && j.1 == k
      | none => false)
    | _ => false)

/-- The prio byte of a descriptor's trace record (R139). -/
def prioByte (s : State) (d : Descriptor) : Nat := d.priority + 8 * bNat d.waited + 16 * bNat (predDiscarded s d)

/-- Room in the pool of 32,768 descriptors, 1,024 of them kept for priority 0 (R118). -/
def poolRoom (s : State) (priority : Nat) : Bool :=
  decide (s.alm.descriptors.length < 32768) &&
    (priority == 0 || decide ((s.alm.descriptors.filter (fun d => d.priority != 0)).length < 31744))

def placeDescriptor (d : Descriptor) (s : State) : State :=
  let ok := d.constraints.all (constraintHolds s)
  nextOrder (modAlm (fun a => { a with descriptors := a.descriptors ++
    [{ d with order := a.order, ready := if ok then some s.time.st64 else none, waited := !ok }] }) s)

/-- The trace kind of a work (R140), and the object it names (R139). -/
def workKind (w : Work) : Nat :=
  match w with
  | .flow _ => 2 | .lanePixels _ => 2 | .laneControl _ => 3 | .dmxFrame _ => 2 | .radioCue _ _ => 5 | .rdm _ => 2 | .escrowCopy => 8
  | .cueAction _ _ _ _ => 6 | .housekeeping _ => 7

def workObject (w : Work) : Nat :=
  match w with
  | .flow f => f | .lanePixels l => l | .laneControl l => l | .dmxFrame p => p | .radioCue _ n => n | .rdm p => p | .escrowCopy => 0
  | .cueAction _ _ n _ => n | .housekeeping n => n

/-- A descriptor refused by a full pool (R135, R138). -/
def refuseDescriptor (d : Descriptor) (s : State) : State :=
  refuseInsert 3 (traceOf (workKind d.work) d.target 4 (workObject d.work) d.priority d.frame (d.deadline.getD (st64 s)) s)

/-- A descriptor enters the pool, or its producer retries (R118, R120, R135). -/
def insertDescriptor (d : Descriptor) (s : State) : State :=
  if poolRoom s d.priority then placeDescriptor d s
  else modAlm (fun a => { a with descriptorRetry := a.descriptorRetry ++ [d] }) (refuseDescriptor d s)

/-- A work is in the pool or waits for room in it. -/
def hasWork (s : State) (w : Work) : Bool := s.alm.descriptors.any (fun d => d.work == w) || s.alm.descriptorRetry.any (fun d => d.work == w)

/-- Work for a frame is completed or discarded: constraints on its flow hold from now on (R120). -/
def workEnded (d : Descriptor) (discarded : Bool) (s : State) : State :=
  match d.work with
  | .flow f => modAlm (fun a => { a with flowDone := aPut a.flowDone f (d.frame, discarded) }) s
  | _ => s

/-- A descriptor is discarded at its deadline (R122). Its trace record is due at the deadline (DESIGN CHOICE, log entry 9). -/
def discardDescriptor (s : State) (d : Descriptor) : State :=
  workEnded d true (traceOf (workKind d.work) d.target 2 (workObject d.work) (prioByte s d) d.frame (d.deadline.getD 0) (bump R.ALM_CNT_DISCARD s))

/-- The deadline has passed. -/
def isPast (s : State) (d : Descriptor) : Bool :=
  match d.deadline with
  | some t => decide (t < s.time.st64)
  | none => false

/-- Every waiting or ready descriptor whose deadline has passed is discarded (R122). -/
def discardPast (s : State) : State :=
  let past := s.alm.descriptors.filter (isPast s)
  past.foldl discardDescriptor (modAlm (fun a => { a with descriptors := a.descriptors.filter (fun d => !isPast s d) }) s)

/-- Waiting descriptors whose constraints now hold join their ready lists (R120). -/
def readyAll (s : State) : State :=
  modAlm (fun a => { a with descriptors := a.descriptors.map (fun d =>
    if d.ready = none ∧ d.constraints.all (constraintHolds s) then { d with ready := some s.time.st64 } else d) }) s

/-- The oldest descriptor of the highest priority whose target can accept work (R119). -/
def bestReady (accepting : List Nat) (ds : List Descriptor) : Option Descriptor :=
  ds.foldl (fun best d =>
    if d.ready = none ∨ accepting.contains d.target = false then best
    else match best with
      | none => some d
      | some b => if d.priority < b.priority ∨ (d.priority = b.priority ∧ (d.ready.getD 0 < b.ready.getD 0 ∨
          (d.ready = b.ready ∧ d.order < b.order))) then some d else best) none

/-! Cues (R114 to R117, R143). -/

/-- The due time of a frame-phase cue (R114). -/
def phaseDue (s : State) (k : Int) (p : Nat) : Int := frameAt s k + (p : Int) * (frameAt s (k + 1) - frameAt s k) / 65536

/-- The first instant at or after `n` at which the mains phase is `a` hundredths of a degree, from the crossing at `c` (R117). -/
def mainsDue (c : Int) (periodUs : Nat) (n : Int) (a : Nat) : Int :=
  let p : Int := max 1 (periodUs * 1000 : Int)
  let first := c + (a : Int) * p / 36000
  if n ≤ first then first - (first - n) / p * p else first + (n - first + p - 1) / p * p

/-- TIM_MAINS.period and phase as R75 gives them: none while period reads 0. -/
def mainsNow (s : State) : Option (Nat × Nat × Int) :=
  match s.time.mainsValid with
  | some (at_, p, st) => if s.time.now < at_ + 66667000 then some (at_, p, st) else none
  | none => none

/-- A mains cue is predicted again at a crossing unless its prediction is frozen (R117). A cue scheduled while TIM_MAINS.period reads 0 is due at
its not-before instant, also where a valid period was seen before (DESIGN CHOICE, log entry 9). -/
def predictCue (s : State) (c : Cue) : Cue :=
  if c.basis ≠ 3 ∨ c.frozen then c
  else match mainsNow s with
    | some (_, p, st) =>
      let d := mainsDue st p c.when_ c.sub
      { c with due := some d, predicted := true, frozen := decide (d - st < (p : Int) * 1000), late := decide (d ≤ s.time.st64), since := s.time.st64 }
    | none => if c.predicted then c else { c with due := some c.when_, late := decide (c.when_ ≤ s.time.st64) }

/-- A rising mains zero-crossing: period, phase and the predictions (R75, R117). -/
def execMainsZeroCrossing (t : Nat) (s : State) : Out :=
  let s1 := mainsCross (advance t s)
  if s1.time.mainsValid = s.time.mainsValid then .next s1
  else .next (modAlm (fun a => { a with cues := a.cues.map (predictCue s1) }) s1)

/-- A raster-line cue whose line, or whose frame, has passed when it is inserted is late (R113, R116): its due time is the start of the line where
that frame is still in progress, else the instant of insertion (DESIGN CHOICE, log entry 9). -/
def linePassed (s : State) (r : Int) (line : Nat) : Option Int :=
  if s.ras.running = false ∨ s.ras.fresh then none
  else if r < s.ras.r then some s.time.st64
  else if s.ras.r < r then none
  else match rasLineAt s line with
    | some at_ => if at_ ≤ s.time.st64 then some at_ else none
    | none => none

/-- The due time a new cue gets (R114). -/
def cueOf (s : State) (p : CueSchedule) : Cue :=
  let base : Cue := ⟨p.cueId, p.basis, p.action, p.priority, p.when_, p.sub, p.argument, none, false, false, false, s.alm.order, false, st64 s, false,
    s.time.st64, 0⟩
  match p.basis with
  | 0 => { base with due := some p.when_, late := decide (p.when_ ≤ s.time.st64) }
  | 1 => { base with due := some (phaseDue s p.when_ p.sub), late := decide (phaseDue s p.when_ p.sub ≤ s.time.st64) }
  | 2 => { base with due := linePassed s p.when_ p.sub, late := (linePassed s p.when_ p.sub).isSome }
  | _ => predictCue s base

/-- The slot of the cue list that a new cue takes: the lowest free one (DESIGN CHOICE, log entry 9). -/
def freeSlot (l : List Cue) : Nat := ((List.range (l.length + 1)).find? (fun n => l.all (fun c => c.slot != n))).getD 0

/-- The trace kind and target of a cue (R139, R140). -/
def cueKind (c : Cue) : Nat := if c.action = 2 then 5 else 6
def cueTarget (c : Cue) : Nat := if c.action = 2 then 11 else 13

/-- Ranges of the fields of CUE_SCHEDULE (R143, R695). -/
def cueRangeOk (p : CueSchedule) : Bool :=
  decide (p.basis ≤ 3) && decide (p.action ≤ 2) && decide (p.priority ≤ 7) &&
    (match p.basis with
     | 0 => p.sub == 0
     | 1 => decide (p.sub ≤ 65535)
     | 3 => decide (p.sub ≤ 35999)
     | _ => true)

def stageHeld (s : State) (id : Nat) : Bool := s.teller.stages.any (fun g => g.id == id)

/-- The work of a radio cue joins the ready lists when the radio may first send it (R120, R123, R512). -/
def cueWork (q : Cue) (s : State) : State :=
  if q.action = 2 then
    insertDescriptor ⟨.radioCue q.cueId q.slot, 0, 0, q.priority, 11, [.notBefore (q.due.getD 0 - (regN s R.RAD_CUE_LEAD : Int) * 1000000)], none, none,
      false, 0⟩ s
  else s

/-- Without the work of a radio cue. -/
def dropCue (id : Nat) (l : List Descriptor) : List Descriptor :=
  l.filter (fun d => match d.work with
    | .radioCue i _ => i != id
    | _ => true)

def execCueSchedule (c : Call) (p : CueSchedule) (s : State) : Out :=
  command 0x0140 c s fun s =>
    if s.time.running = false then refuse .notReady s
    else if cueRangeOk p = false then refuse .invalidParameter s
    else if p.action = 2 ∧ s.part = .rk9210 then refuse .unsupportedFeature s
    else if p.action = 2 ∧ 2 ≤ p.basis then refuse .invalidParameter s
    else if p.action = 1 ∧ stageHeld s p.argument = false then refuse .notFound s
    else
      let pending := s.alm.cues.any (fun q => q.cueId == p.cueId)
      if pending ∧ nBit p.flags 0 = false then refuse .invalidParameter s
      else
        let kept := s.alm.cues.filter (fun x => x.cueId != p.cueId)
        let q := { cueOf s p with reached := reachedSt c s, slot := freeSlot kept }
        let due := q.due.getD p.when_
        if p.basis ≠ 2 ∧ beyondHorizon s due then refuse .invalidParameter (refuseHorizon (cueKind q) (cueTarget q) 65535 p.priority 0 due s)
        else if pending = false ∧ 16384 ≤ s.alm.cues.length then
          refuse .resourceExhausted (refuseInsert 1 (traceOf (cueKind q) (cueTarget q) 4 65535 p.priority 0 (q.due.getD 0) s))
        else accept (cueWork q (nextOrder (modAlm (fun a => { a with cues := kept ++ [q], descriptors := dropCue p.cueId a.descriptors }) s)))

def traceFields (r : TraceRec) : List Int := [r.due, r.late, r.frame, r.object, r.kind, r.target, r.prio, r.outcome, r.seq, r.wait]

/-- The indexes asked for that hold a record; those that hold none are left out and the count is smaller (DESIGN CHOICE, log entry 9). -/
def traceAvail (s : State) (first count : Nat) : List TraceRec :=
  (List.range count).filterMap (fun i => aFind s.alm.trace ((first + i) % 4096))

def execAlmTraceGet (c : Call) (first count : Nat) (s : State) : Out :=
  command 0x0143 c s fun s =>
    if 4095 < first ∨ count < 1 ∨ 128 < count then refuse .invalidParameter s
    else
      let rs := traceAvail s first count
      answer (8 + 32 * rs.length) ([(s.alm.traceWr : Int), rs.length, bNat s.alm.traceFrozen + 2 * bNat s.alm.traceWrapped] ++
        rs.flatMap traceFields) s

/-- After post_count records the ring freezes (R141). -/
def execTraceFreeze (t : Nat) (s : State) : Out :=
  let s1 := advance t s
  match s1.alm.traceTrigger with
  | some g =>
    if s1.alm.traceFrozen ∨ g.left ≠ 0 then .next s1
    else .next (notify 0x8143 16 [g.index, g.outcome, g.post, st64 s1]
      (setFlag R.ALM_INT_STAT 4 (modAlm (fun a => { a with traceFrozen := true }) s1)))
  | none => .next s1

/-- A Teller timer refused by a full list is inserted once there is room; a retry refused again is counted (R135). -/
def execTimerRetry (t : Nat) (s : State) : Out :=
  let s1 := advance t s
  match s1.alm.timerRetry with
  | e :: r =>
    if 1024 ≤ s1.alm.timers.length then .next (refuseTimer e s1)
    else .next (insertTimer e (modAlm (fun a => { a with timerRetry := r }) s1))
  | [] => .next s1

def execDescriptorReady (t : Nat) (s : State) : Out := .next (readyAll (advance t s))

/-- Show time stops: the Almanac holds no entry (R106, R697); a run of skipped frames is reported with 0 (R126); the delays of the commits put in
force at the stop hold (R584). -/
def almStop (s : State) : State :=
  let s1 := s.alm.skipRun.foldl (fun x e => e.2.foldl (fun y r => notify 0x8142 24 [e.1, r.1, r.2, 0] y) x) s
  modAlm (fun a => { a with
    sync := [], release := [], launch := [], cues := [], timers := [], lastSync := [], skipRun := [], armed := [],
    descriptors := [], timerRetry := [], descriptorRetry := [], flowDone := [], syncDone := [], lastTick := none
    delays := a.delays.map (fun e => (e.1, (e.2.head?.map (fun d => ((0 : Int), d.2))).toList)) }) s1

/-- The delay of zone `z` for frame `k`, in µs (R127). -/
def zoneDelay (s : State) (z : Nat) (k : Int) : Nat :=
  match (aGet s.alm.delays z []).find? (fun d => decide (d.1 ≤ k)) with
  | some d => d.2
  | none => 0

/-- S(k) of zone z (R25), and its window instant S(k) − T (R43). -/
def syncAt (s : State) (z : Nat) (k : Int) : Int :=
  frameAt s (k + 2) + (zoneDelay s z k : Int) * 1000 + (bits (reg s R.ALM_SYNC_OFFSET) 19 0 : Int)

def windowAt (s : State) (z : Nat) (k : Int) : Int := syncAt s z k - (frameAt s (k + 2) - frameAt s (k + 1))

/-- Commit lead in ns: set per show, 500 µs by default (R42, log entry 9). -/
def commitLead (s : State) : Int := (s.alm.leadUs : Int) * 1000

/-- n_z of R128 for a delay in µs. -/
def slotsFor (s : State) (delayUs : Nat) : Nat :=
  let x : Int := (delayUs : Int) * 1000 + (bits (reg s R.ALM_SYNC_OFFSET) 19 0 : Int) - commitLead s
  let t : Int := max 1 (periodMin s : Int)
  (max 1 (1 + (x + t - 1) / t)).toNat

/-- A slot: the zone's pixels × 6 B, rounded up to 64 KiB, in units of 64 KiB (R128). -/
def slotUnits (pixels : Nat) : Nat := ceilDiv (pixels * 6) 65536

end Sys2Proof.Machine
end

