-- ==== Sys2Proof/Machine/Integrity.lean ====
section
/-! DEFINITION. The check-value unit and the intake FIFOs (04_integrity_blocks.md). -/

namespace Sys2Proof.Machine

/-! Check values (R148 to R157). -/

/-- The bytes of a word, byte 0 first. -/
def wordBytes (w : Word) : List (BitVec 8) := [w.setWidth 8, (w >>> 8).setWidth 8, (w >>> 16).setWidth 8, (w >>> 24).setWidth 8]

/-- Registers of Teller's channels hold the run they show, before an access goes on from it (R153). -/
def chkSettle (ch : Nat) (s : State) : State :=
  match aFind s.teller.checked ch with
  | some bs => chkRun ch bs { s with teller := { s.teller with checked := aDel s.teller.checked ch } }
  | none => s

/-- RUN, BYTES and RESULT of Teller's channels show the last message (R152, R561). -/
def viewChk (s : State) (a : Nat) : Option Word :=
  match (List.range 8).find? (fun ch => a == R.CHK_CHn_RUN ch || a == R.CHK_CHn_BYTES ch || a == R.CHK_CHn_RESULT ch) with
  | some ch => (aFind s.teller.checked ch).map (fun bs =>
      if a = R.CHK_CHn_RUN ch then crcBytes 0xFFFFFFFF bs else if a = R.CHK_CHn_BYTES ch then BitVec.ofNat 32 bs.length else crc32c bs)
  | none => none

/-- The access comes from the channel's owner; any other sets owner_viol and does nothing (R151). -/
def byOwner (owner : Nat) (ch : Nat) (s : State) (f : State → State) : State :=
  if bits (reg s (R.CHK_CHn_CTRL ch)) 31 24 = owner then f (chkSettle ch s) else setFlag R.CHK_INT_STAT 0 s

def chkStart (ch : Nat) (aliveClr : Bool) (s : State) : State :=
  let s1 := setReg (R.CHK_CHn_BYTES ch) 0 (setReg (R.CHK_CHn_RUN ch) 0xFFFFFFFF s)
  if aliveClr then setField (R.CHK_CHn_ALIVE ch) 16 16 0 s1 else s1

/-- A word written to FEED absorbs bytes 0 to feed_bytes of it (R150, R179). -/
def chkFeed (ch : Nat) (w : Word) (s : State) : State :=
  let n := bits (reg s (R.CHK_CHn_CTRL ch)) 4 3 + 1
  bumpBy (R.CHK_CHn_BYTES ch) n (setReg (R.CHK_CHn_RUN ch) (crcBytes (reg s (R.CHK_CHn_RUN ch)) ((wordBytes w).take n)) s)

/-- A repeat or a skip is counted and flagged (R155, R179). -/
def aliveFault (ch : Nat) (s : State) : State :=
  setFlag R.CHK_INT_STAT 1 (if ch < 32 then setFlag R.CHK_ALIVE_STAT0 ch s else setFlag R.CHK_ALIVE_STAT1 (ch - 32) s)

def modProtect (f : Protect → Protect) (s : State) : State := { s with protect := f s.protect }

/-- How far an alive value is ahead of the last one accepted (R155). -/
def aliveStep (ch a : Nat) (s : State) : Nat := (a + 65536 - bits (reg s (R.CHK_CHn_ALIVE ch)) 15 0) % 65536

/-- The verdict on an alive value (R155, R156). -/
def aliveVerdict (ch a : Nat) (s : State) : AliveVerdict :=
  let d := aliveStep ch a s
  if bitOf (reg s (R.CHK_CHn_ALIVE ch)) 16 = false ∨ d = 1 then .inOrder
  else if 2 ≤ d ∧ d ≤ 32768 then .skip else .repeat_

/-- The judgement of an alive value (R155, R156), reported to the owner with the result (R157). -/
def judgeAlive (ch a : Nat) (s : State) : State :=
  let accepted := setReg (R.CHK_CHn_ALIVE ch) (BitVec.ofNat 32 (65536 + a % 65536))
  let v := aliveVerdict ch a s
  modProtect (fun p => { p with verdicts := aPut p.verdicts ch v })
    (match v with
     | .inOrder => accepted s
     | .skip => accepted (bumpField (R.CHK_CHn_CNT ch) 15 0 (aliveStep ch a s - 1) (aliveFault ch s))
     | .repeat_ => bumpField (R.CHK_CHn_CNT ch) 31 16 1 (aliveFault ch s))

/-- The result of a channel; without alive checking no verdict comes with it (R149, R157). -/
def chkResult (ch : Nat) (s : State) : State :=
  modProtect (fun p => { p with verdicts := aDel p.verdicts ch })
    (setReg (R.CHK_CHn_RESULT ch) (reg s (R.CHK_CHn_RUN ch) ^^^ 0xFFFFFFFF) s)

def chkFinish (ch a : Nat) (s : State) : State :=
  if bitOf (reg s (R.CHK_CHn_CTRL ch)) 6 then judgeAlive ch a (chkResult ch s) else chkResult ch s

/-- A read or write of RUN or ALIVE: every byte fed before is already absorbed (R153, R154). -/
def chkState (ch : Nat) (alive : Bool) (write : Option Word) (s : State) : State :=
  let a := if alive then R.CHK_CHn_ALIVE ch else R.CHK_CHn_RUN ch
  match write with
  | some w => setReg a (if alive then w &&& 0x1FFFF else w) s
  | none => { s with regs := { s.regs with lastRead := some (a, reg s a) } }

def execChkStart (t : Nat) (owner : Nat) (ch : Fin 64) (aliveClr : Bool) (s : State) : Out :=
  .next (byOwner owner ch (advance t s) (chkStart ch aliveClr))

def execChkFeed (t : Nat) (owner : Nat) (ch : Fin 64) (w : Word) (s : State) : Out :=
  .next (byOwner owner ch (advance t s) (chkFeed ch w))

def execChkFinish (t : Nat) (owner : Nat) (ch : Fin 64) (alive : Nat) (s : State) : Out :=
  .next (byOwner owner ch (advance t s) (chkFinish ch alive))

def execChkStateAccess (t : Nat) (owner : Nat) (ch : Fin 64) (alive : Bool) (write : Option Word) (s : State) : Out :=
  .next (byOwner owner ch (advance t s) (chkState ch alive write))

/-- The owners Teller assigns at boot (R152). -/
def channelOwner (ch : Nat) : Nat :=
  if ch < 8 then 13 else if ch < 12 then 12 else if ch < 44 then 8 else if ch < 48 then 16 else if ch < 52 then 15
  else if ch < 60 then ch - 52 else 0xFE

def assignChannels (s : State) : State :=
  (List.range 64).foldl (fun x ch => setField (R.CHK_CHn_CTRL ch) 31 24 (channelOwner ch) x) s

/-! Parity (R158, R170). -/

/-- The number of ones in a byte. -/
def byteOnes (b : BitVec 8) : Nat := (List.range 8).countP (fun i => b.getLsbD i)

/-- The bytes that fail odd parity against their parity bits, as a mask: an all-zero word with all-zero parity fails in every byte (R170). -/
def parityMask (bs : List (BitVec 8)) (par : Nat) : Nat :=
  (bs.zipIdx.map (fun x => if (byteOnes x.1 + bNat (nBit par x.2)) % 2 = 0 then 2 ^ x.2 else 0)).sum

/-- The odd parity bits of a word's bytes. -/
def parityOf (bs : List (BitVec 8)) : Nat := parityMask bs 0

/-- The bytes of a 64-bit word, byte 0 first. -/
def bytes64 (w : BitVec 64) : List (BitVec 8) := (List.range 8).map (fun i => (w >>> (8 * i)).setWidth 8)

/-! Intake FIFOs (R158 to R169). -/

def fifoOf (s : State) (q : Nat) : Fifo := vGet s.fifos q Fifo.reset

def modFifo (q : Nat) (f : Fifo → Fifo) (s : State) : State := { s with fifos := vMod s.fifos q f }

/-- Words between two 10-bit pointers (R160). -/
def ptrDist (a b : Nat) : Nat := (a + 1024 - b) % 1024

def fifoFull (f : Fifo) : Bool := ptrDist f.priv f.rd == 512
def fifoEmpty (f : Fifo) : Bool := f.wr == f.rd

/-- A new packet starts in a new word (R159). A first byte that comes while a packet is unfinished discards that packet, without counting a drop
(DESIGN CHOICE, log entry 31). -/
def fifoBegin (f : Fifo) : Fifo := { f with priv := f.wr, cur := 0, curBytes := 0, pktBytes := 0, discarding := false }

/-- A byte joins the word; a full word or the last one is stored, and the last one publishes the packet (R159, R161). -/
def fifoPack (byte : BitVec 8) (eop : Bool) (f : Fifo) : Fifo :=
  let w := f.cur ||| (byte.setWidth 64 <<< (8 * f.curBytes))
  let n := f.curBytes + 1
  if eop ∨ n = 8 then
    let p := (f.priv + 1) % 1024
    let g := { f with mem := aPut f.mem (f.priv % 512) ⟨w, if eop then 8 + n % 8 else 0, parityOf (bytes64 w)⟩, priv := p, cur := 0, curBytes := 0,
                      pktBytes := f.pktBytes + 1 }
    if eop then { g with wr := p, packets := f.packets + 1, raised := f.raised + 1, discarding := true } else g
  else { f with cur := w, curBytes := n, pktBytes := f.pktBytes + 1 }

/-- One byte offered to a queue (R159, R161, R162, R180). A queue disabled within a packet discards the bytes offered meanwhile and nothing else: enabled
again it goes on with the packet (DESIGN CHOICE, log entry 31). Queue 16 of the RK9210 stays empty (R158). -/
def fifoWrite (q : Nat) (byte : BitVec 8) (first eop : Bool) (s : State) : State :=
  if bitOf (reg s (R.FIF_Qn_CFG q)) 8 = false ∨ (q = 16 ∧ s.part = .rk9210) then s
  else
    let s1 := if first then modFifo q fifoBegin s else s
    let f := fifoOf s1 q
    if f.discarding then s1
    else if fifoFull f ∨ 4096 ≤ f.pktBytes then
      bumpField (R.FIF_Qn_CNT q) 31 16 1 (modFifo q (fun x => { x with discarding := true, priv := x.wr, cur := 0, curBytes := 0 }) s1)
    else modFifo q (fifoPack byte eop) s1

/-- What a read of the queue's head returns besides the low word: all 8 bytes where it is a 64-bit read (R164). -/
def fifoWide (wide : Bool) (w : BitVec 64) (f : Fifo) : Fifo := if wide then { f with wide := some w } else f

/-- A pop of an empty queue (R165). -/
def fifoUnderrun (q : Nat) (wide : Bool) (s : State) : State :=
  let s1 := modFifo q (fifoWide wide (fifoOf s q).last.data) (bumpField (R.FIF_Qn_CNT q) 15 0 1 (setFlag (R.FIF_Qn_STAT q) 0 s))
  { s1 with regs := { s1.regs with lastRead := some (R.FIF_Qn_RD_LO q, (fifoOf s q).last.data.setWidth 32) } }

/-- The head word of a queue; the last popped word where it holds none (R165). A diagnostic read of an empty queue, for which no rule names a word,
shows that word too (DESIGN CHOICE, log entry 31). -/
def fifoHead (f : Fifo) : FifoWord := if fifoEmpty f then f.last else aGet f.mem (f.rd % 512) ⟨0, 0, 0⟩

/-- The bytes of the head word that fail parity when it is read; `bad` are those that the SRAM returns wrong (R167). -/
def fifoErrors (f : Fifo) (bad : BitVec 8) : Nat := parityMask (bytes64 (fifoHead f).data) (fifoHead f).parity ^^^ bad.toNat

/-- The queue after its head word `w` is taken. -/
def fifoTake (w : FifoWord) (perr : Bool) (f : Fifo) : Fifo :=
  { f with
    rd := (f.rd + 1) % 1024, last := w, lastPerr := perr, mem := aDel f.mem (f.rd % 512)
    taken := if 8 ≤ w.tag then 0 else f.taken + 1
    packets := if 8 ≤ w.tag then f.packets - 1 else f.packets
    raised := if 8 ≤ w.tag then f.raised - 1 else f.raised }

/-- A read of FIF_Qn_RD_LO pops the head word (R164, R165, R167). -/
def fifoPop (q : Nat) (bad : BitVec 8) (wide : Bool) (s : State) : State :=
  let f := fifoOf s q
  if fifoEmpty f then fifoUnderrun q wide s
  else
    let w := fifoHead f
    let s1 := modFifo q (fun x => fifoWide wide w.data (fifoTake w (fifoErrors f bad != 0) x)) s
    { s1 with regs := { s1.regs with lastRead := some (R.FIF_Qn_RD_LO q, w.data.setWidth 32) } }

/-- Words left of the packet at the head, its last one included. -/
def headWords (f : Fifo) : Nat :=
  (((List.range (ptrDist f.wr f.rd)).find? (fun i => decide (8 ≤ (aGet f.mem ((f.rd + i) % 512) ⟨0, 8, 0⟩).tag))).map (· + 1)).getD 0

/-- The consumer discards what is left of the packet at the head (R167); the last popped word stays. -/
def fifoReject (n : Nat) (f : Fifo) : Fifo :=
  { f with rd := (f.rd + n) % 1024, mem := (List.range n).foldl (fun m i => aDel m ((f.rd + i) % 512)) f.mem, taken := 0,
           packets := f.packets - 1, raised := f.raised - 1 }

/-- A popped word of queue `q` failed parity: its whole packet is discarded, and FIFO_FAULT says so with cause 1 (R167, R178; log entry 31). `f` is
the queue before the pop. -/
def fifoSpoiled (q : Nat) (f : Fifo) (s : State) : State :=
  let n := if 8 ≤ (fifoHead f).tag then 0 else headWords (fifoOf s q)
  notify 0x8151 16 [q, 1, f.taken + 1 + n, 1, st64 s] (if n = 0 then s else modFifo q (fifoReject n) s)

/-- A received packet enters its queue byte by byte (R158, R159). -/
def fifoPacket (q : Nat) (bytes : List (BitVec 8)) (s : State) : State :=
  bytes.zipIdx.foldl (fun x b => fifoWrite q b.1 (b.2 == 0) (b.2 + 1 == bytes.length) x) s

/-- The consumer pops every word of the queue. -/
def fifoDrain (f : Fifo) : Fifo :=
  { f with rd := f.wr, mem := [], packets := 0, raised := 0, taken := 0, lastPerr := false, last := aGet f.mem ((f.wr + 511) % 512) f.last }

/-- A packet is received into queue `q`; whether its consumer gets it. It does where the packet was published, and it pops the queue at once (log
entry 31); a queue that is disabled or full discards the packet (R162, R180). -/
def intake (q : Nat) (bytes : List (BitVec 8)) (s : State) : State × Bool :=
  let s1 := fifoPacket q bytes s
  if (fifoOf s q).packets < (fifoOf s1 q).packets then (modFifo q fifoDrain s1, true) else (s1, false)

/-- Teller enables the queues and names their consumers where PD11 comes on: itself for the DMX ports (R482, R485), the lane controller (R397),
the radio MAC engine (R507), which the RK9210 lacks (log entry 31). -/
def assignQueues (s : State) : State :=
  (List.range 18).foldl (fun x q => setReg (R.FIF_Qn_CFG q) (BitVec.ofNat 32 (
    if q = 16 ∧ s.part = .rk9210 then 0xFF else 256 + (if q = 16 then 11 else if q = 17 then 8 else 13))) x) s

/-- The duplicated pointers of a queue differ: the queue is emptied, the packet in progress discarded without a drop (R168, R169). -/
def fifoFault (q : Nat) (popping : Bool) (s : State) : State :=
  let f := fifoOf s q
  let s1 := modFifo q (fun x => { Fifo.reset with last := x.last, lastPerr := x.lastPerr, wide := x.wide }) s
  let s2 := setFlag R.FIF_FAULT_STAT q (setFlag (R.FIF_Qn_STAT q) 1 s1)
  let s3 := if popping then fifoUnderrun q false s2 else s2
  notify 0x8151 16 [q, 0, ptrDist f.wr f.rd, f.packets, st64 s] s3

def execFifoByteWrite (t : Nat) (q : Fin 18) (byte : BitVec 8) (first : Bool) (eop : Bool) (s : State) : Out :=
  .next (fifoWrite q byte first eop (advance t s))

def execFifoPointerFault (t : Nat) (q : Fin 18) (popping : Bool) (s : State) : Out := .next (fifoFault q popping (advance t s))

/-! Datapath protection: capture, counters, notices (R173, R176, R177). -/

/-- A word of an output's packet or frame was in error: it is not sent (R172). -/
def outputBad (s : State) (object : Nat) (index : Option Nat) (sites : List Nat) : Bool :=
  s.protect.badOutputs.any (fun b => sites.contains b.1 && b.2.1 == object && (match index with
    | some i => b.2.2 == i
    | none => true))

def outputClear (object : Nat) (sites : List Nat) (s : State) : State :=
  modProtect (fun p => { p with badOutputs := p.badOutputs.filter (fun b => !(sites.contains b.1 && b.2.1 == object)) }) s

/-- The counter and interrupt bit of a kind: 0 parity, 1 corrected, 2 uncorrectable (R179). -/
def countError (kind : Nat) (s : State) : State :=
  match kind with
  | 0 => setFlag R.CHK_INT_STAT 2 (bump R.CHK_PAR_CNT s)
  | 1 => bump R.CHK_SEC_CNT s
  | _ => setFlag R.CHK_INT_STAT 3 (bump R.CHK_DED_CNT s)

/-- The bytes of a word in error; none at a SECDED store (R170, R179). -/
def errorMask (e : ErrorFound) : Nat := if e.kind = 0 then parityMask e.word e.parity else 0

/-- The check finds an error: parity guards the datapath, the intake queues and the scan path, SECDED the other stores (R170, R171). -/
def errorThere (e : ErrorFound) : Bool :=
  if e.kind = 0 then (decide (e.site ≤ 7) || e.site == 11) && errorMask e != 0 else decide (8 ≤ e.site) && decide (e.site ≤ 10) && decide (e.kind ≤ 2)

/-- CHK_ERR_CAP keeps the first error after valid was cleared (R177). -/
def captureError (e : ErrorFound) (s : State) : State :=
  if bitOf (reg s R.CHK_ERR_CAP) 31 then s
  else
    let w := 2147483648 + e.site % 16 * 16777216 + e.kind % 4 * 4194304 + errorMask e % 4096
    setReg R.CHK_ERR_FRAME (BitVec.ofInt 32 s.time.fcount) (setReg64 R.CHK_ERR_ADDR_LO e.address (setReg R.CHK_ERR_CAP (BitVec.ofNat 32 w) s))

/-- DATAPATH_ERROR at most once per site and kind per 100 ms (R177); its error count stops at 65,535 (DESIGN CHOICE, log entry 31). -/
def noticeError (e : ErrorFound) (s : State) : State :=
  let k := 4 * e.site + e.kind
  let r := aGet s.protect.since k (0, none)
  let quiet := match r.2 with
    | some t => decide (s.time.now < t + 100000000)
    | none => false
  if quiet then modProtect (fun p => { p with since := aPut p.since k (r.1 + 1, r.2) }) s
  else notify 0x8152 24 [e.site, e.kind, min 0xFFFF (r.1 + 1), unsignedOf 32 s.time.fcount, e.address, st64 s]
    (modProtect (fun p => { p with since := aPut p.since k (0, some s.time.now) }) s)

/-- Errors of a site and kind in 3 frames in a row hand the site over; those at MAP count by engine (R176, R325). -/
def runError (e : ErrorFound) (s : State) : State :=
  let k := 4 * e.site + e.kind + (if e.site = 1 then 64 * (e.engine + 1) else 0)
  let f := s.time.fcount
  let r := aGet s.protect.runs k (f - 2, 0)
  let n := if r.1 = f then r.2 else if r.1 + 1 = f then r.2 + 1 else 1
  let s1 := modProtect (fun p => { p with runs := aPut p.runs k (f, n) }) s
  if 3 ≤ n ∧ r.1 ≠ f then modProtect (fun p => { p with handoffs := p.handoffs ++ [(e.site, e.kind, if e.site = 1 then e.engine else e.object)] }) s1 else s1

/-- What every error found does: counted, captured, noticed. -/
def errorFound (e : ErrorFound) (s : State) : State := runError e (noticeError e (captureError e (countError e.kind s)))

/-- A pop, and what a parity error in the word brings (R164, R167). -/
def fifoRead (q : Nat) (bad : BitVec 8) (wide : Bool) (s : State) : State :=
  let f := fifoOf s q
  if fifoEmpty f = false ∧ fifoErrors f bad ≠ 0 then
    fifoSpoiled q f (errorFound ⟨7, 0, q, bytes64 (fifoHead f).data, (fifoHead f).parity ^^^ bad.toNat, q, 0, 0, none⟩ (fifoPop q bad wide s))
  else fifoPop q bad wide s

/-- FIFO_POP: `bad` are the bytes that the SRAM returns with a parity error, `wide` a 64-bit read (R164 to R167). -/
def execFifoPop (t : Nat) (q : Fin 18) (bad : BitVec 8) (wide : Bool) (s : State) : Out := .next (fifoRead q bad wide (advance t s))

end Sys2Proof.Machine
end

