-- ==== Sys2Proof/Machine/FixtureMap.lean ====
section
/-! DEFINITION. Zones, fixtures and the fixture map (08_fixture_map.md): entries, zones in force, shedding, stale units. Routes and the checks that
need them are in Routes. -/

namespace Sys2Proof.Machine

def modFxm (f : Fxm → Fxm) (s : State) : State := { s with fxm := f s.fxm }

/-- A zone never set has the defaults of R271. -/
def zoneOf (r : Cfg) (z : Nat) : ZoneSet := aGet r.zones z ⟨z, 0, 128, 128, 0, 0⟩
def zoneEnabled (r : Cfg) (z : Nat) : Bool := nBit (zoneOf r z).flags 0
def zoneDark (r : Cfg) (z : Nat) : Bool := nBit (zoneOf r z).flags 1
def zoneLocal (r : Cfg) (z : Nat) : Bool := nBit (zoneOf r z).flags 2

def fixEnabled (f : FixtureEntry) : Bool := f.kind == 1 || f.kind == 2
def fixPixels (f : FixtureEntry) : Nat := if f.kind = 1 then f.cols * f.rows else 1
def routeClass (f : FixtureEntry) : Nat := f.routeA / 268435456 % 16
def routePort (f : FixtureEntry) : Nat := f.routeA / 4194304 % 64

/-- The enabled fixtures of a configuration. -/
def liveFixtures (r : Cfg) : List (Nat × FixtureEntry) := r.fixtures.filter (fun e => fixEnabled e.2)

def zoneFixtures (r : Cfg) (z : Nat) : List (Nat × FixtureEntry) := (liveFixtures r).filter (fun e => e.2.zone == z)

/-- p_z (R272), and the pixel count of the show (R49). -/
def zonePixels (r : Cfg) (z : Nat) : Nat := ((zoneFixtures r z).map (fun e => fixPixels e.2)).sum
def showPixels (r : Cfg) : Nat := ((liveFixtures r).map (fun e => fixPixels e.2)).sum

/-- Enabled zones, in ascending order. -/
def zonesOn (r : Cfg) : List Nat := (r.zones.filter (fun e => nBit e.2.flags 0)).map Prod.fst

/-- Zones in the order in which the engines take their tiles: descending priority, then ascending number (R273). -/
def insertPriority (r : Cfg) (z : Nat) (l : List Nat) : List Nat :=
  match l with
  | [] => [z]
  | y :: t => if (zoneOf r y).priority < (zoneOf r z).priority then z :: y :: t else y :: insertPriority r z t

def zonesByPriority (r : Cfg) : List Nat := (zonesOn r).foldl (fun l z => insertPriority r z l) []

/-! Shedding (R274). -/

/-- The next zone to shed: lowest shed_order below 255, then the highest number, of the enabled zones not in `out`. -/
def nextShed (r : Cfg) (out : List Nat) : Option Nat :=
  (zonesOn r).foldl (fun best z =>
    let o := (zoneOf r z).shedOrder
    if o = 255 ∨ out.contains z then best
    else match best with
      | none => some z
      | some b => if (zoneOf r b).shedOrder < o then some b else some z) none

def isShed (s : State) (z : Nat) : Bool := (aFind s.fxm.shed z).isSome

/-- Zone `a` is shed before zone `b`. -/
def shedBefore (r : Cfg) (a b : Nat) : Bool :=
  decide ((zoneOf r a).shedOrder < (zoneOf r b).shedOrder) || ((zoneOf r a).shedOrder == (zoneOf r b).shedOrder && decide (b < a))

/-- Zones with their causes, in the order of shedding. -/
def insertShed (r : Cfg) (x : Nat × Nat) (l : List (Nat × Nat)) : List (Nat × Nat) :=
  match l with
  | [] => [x]
  | y :: t => if shedBefore r x.1 y.1 then x :: y :: t else y :: insertShed r x t

def byShed (r : Cfg) (l : List (Nat × Nat)) : List (Nat × Nat) := l.foldl (fun m x => insertShed r x m) []

/-- Sheds in the order of R274 and restores in its reverse take effect at the fixture-map copy of F(k) (R274). Causes: 0 mapper loss, 1 thermal or power limit. -/
def applyShed (k : Int) (s : State) : State :=
  let want : SMap Nat := s.power.thermal.shedZones.foldl (fun m z => aPut m z 1) (s.fxm.mapShed.foldl (fun m z => aPut m z 0) [])
  let added := byShed s.cfgB (want.filter (fun e => !isShed s e.1))
  let gone := (byShed s.cfgB (s.fxm.shed.filter (fun e => (aFind want e.1).isNone))).reverse
  let mark (x : State) (e : Nat × Nat) : State :=
    let dark := if zoneDark s.cfgB e.1 then [e.1] else []
    notify 0x8191 16 [e.1, 1, e.2, unsignedOf 32 k, st64 x]
      (setFlag R.FXM_INT_STAT 2 (bump R.FXM_CNT_SHED (modFxm (fun m => { m with darkDue := m.darkDue ++ dark }) x)))
  let unmark (x : State) (e : Nat × Nat) : State :=
    notify 0x8191 16 [e.1, 0, e.2, unsignedOf 32 k, st64 x]
      (setFlag R.FXM_INT_STAT 2 (modFxm (fun m => { m with darkDue := m.darkDue.filter (· != e.1) }) x))
  modFxm (fun m => { m with shed := want }) (gone.foldl unmark (added.foldl mark s))

/-! Stale units (R290, R291). -/

/-- The largest epoch among fixtures of a unit. -/
def epochOf (fs : List (Nat × FixtureEntry)) : Nat := fs.foldl (fun m e => max m e.2.epoch) 0

/-- FIXTURE_STALE: 0 held, 1 released (R291, R303). -/
def staleNotice (st unit : Nat) (e : Nat × FixtureEntry) (s : State) : State :=
  notify 0x8190 24 [e.1, st, routeClass e.2, routePort e.2, unit, st64 s] (setFlag R.FXM_INT_STAT 1 s)

/-- A unit that serves a fixture is stale, or is no longer: the fixture is held from its first stale unit to its last (R291). -/
def fixtureHold (key unit : Nat) (stale : Bool) (s : State) (e : Nat × FixtureEntry) : State :=
  let l := aGet s.fxm.stale e.1 []
  let put (x : List Nat) : State := modFxm (fun m => { m with stale := if x = [] then aDel m.stale e.1 else aPut m.stale e.1 x }) s
  if stale = l.contains key then s
  else if stale then (if l = [] then staleNotice 0 unit e (bump R.FXM_CNT_STALE (put [key])) else put (l ++ [key]))
  else
    let rest := l.filter (· != key)
    if rest = [] then staleNotice 1 unit e (put []) else put rest

/-- Every fixture of a unit is held or let go for it. -/
def unitHold (key unit : Nat) (stale : Bool) (fs : List (Nat × FixtureEntry)) (s : State) : State := fs.foldl (fixtureHold key unit stale) s

/-- It is the unit's first report since a show start without a valid high-water mark, after which every unit is stale (R290). -/
def unitFirst (key : Nat) (s : State) : Bool :=
  match s.fxm.reported with
  | some l => !l.contains key
  | none => false

/-- A unit serving the fixtures `fs` reports: they are held, or released (R290, R291). -/
def unitReport (key unit : Nat) (stale : Bool) (fs : List (Nat × FixtureEntry)) (s : State) : State :=
  unitHold key unit stale fs (modFxm (fun m => { m with reported := m.reported.map (fun l => if l.contains key then l else key :: l) }) s)

/-- At the copy of the fixture map, cached segments of changed fixtures are freed (R293), and a fixture whose route changed or that is no longer
enabled is held for no unit (log entry 14). -/
def mapFollow (old new : Cfg) (s : State) : State :=
  let route (r : Cfg) (n : Nat) : Option (Nat × Nat) := ((liveFixtures r).find? (fun e => e.1 == n)).map (fun e => (e.2.routeA, e.2.routeB))
  modFxm (fun m => { m with
    cache := m.cache.filter (fun e => aFind old.fixtures e.1 == aFind new.fixtures e.1)
    stale := m.stale.filter (fun e => route old e.1 == route new e.1) }) s

/-- Show time starts: E, and whether every unit is stale at its first report (R290). -/
def fxmStart (s : State) : State :=
  modFxm (fun m => { m with epoch := (s.time.st64 + 100000000).toNat, reported := if s.time.hwmValid then none else some [] }) s

/-! Configuration (R276, R288, R289, R303, R304). -/

def fixtureSetOk (p : FixtureSet) : Bool :=
  decide (1 ≤ p.entries.length) && decide (p.entries.length ≤ 1024) && decide (p.first + p.entries.length ≤ 131072)

def zoneSetOk (p : ZoneSet) : Bool :=
  decide (p.zone ≤ 255) && decide (p.priority ≤ 255) && decide (p.shedOrder ≤ 255) && decide (p.group ≤ 15) && decide (p.delay ≤ 2000000)

def attrSetOk (p : AttrSet) : Bool :=
  decide (1 ≤ p.descs.length) && decide (p.descs.length ≤ 2048) && decide (p.first + p.descs.length ≤ 65536)

def execFixtureSet (c : Call) (p : FixtureSet) (s : State) : Out :=
  configMessage 0x0430 (8 + 64 * p.entries.length) c (fun _ => fixtureSetOk p) (.fixtureSet p) s

def execZoneSet (c : Call) (p : ZoneSet) (s : State) : Out :=
  configMessage 0x0432 16 c (fun _ => zoneSetOk p) (.zoneSet p) s

def execAttrSet (c : Call) (p : AttrSet) (s : State) : Out :=
  configMessage 0x0434 (8 + 32 * p.descs.length) c (fun _ => attrSetOk p) (.attrSet p) s

/-- Entries number `i` on of a list go into a map from key `first`. -/
def putFrom {α : Type} (m : SMap α) (first : Nat) (l : List α) : SMap α :=
  match l with
  | [] => m
  | x :: r => putFrom (aPut m first x) (first + 1) r

/-- An entry's epoch field is ignored unless restore_epoch is set (R303). -/
def keepEpochs (restore : Bool) (old : SMap FixtureEntry) (n : Nat) (l : List FixtureEntry) : List FixtureEntry :=
  match l with
  | [] => []
  | e :: r => (if restore then e else { e with epoch := ((aFind old n).map FixtureEntry.epoch).getD 0 }) :: keepEpochs restore old (n + 1) r

def fxmRecord (m : ConfigMsg) (r : Cfg) : Cfg :=
  match m with
  | .fixtureSet p => { r with fixtures := putFrom r.fixtures p.first (keepEpochs (nBit p.flags 1) r.fixtures p.first p.entries) }
  | .zoneSet p => { r with zones := aPut r.zones p.zone p }
  | .attrSet p => { r with attrs := putFrom r.attrs p.first p.descs }
  | _ => r

/-- Fixture `n` was named by a FIXTURE_SET with the flag `bit`, in the last message that names it. -/
def lastFlags (msgs : List ConfigMsg) (n : Nat) : Option Nat :=
  msgs.foldl (fun o m => match m with
    | .fixtureSet p => if p.first ≤ n ∧ n < p.first + p.entries.length then some p.flags else o
    | _ => o) none

/-- Fixtures that advance E: enabled, or with a changed route or channels, or named with new_epoch (R288). -/
def advances (base : Cfg) (msgs : List ConfigMsg) (e : Nat × FixtureEntry) : Bool :=
  match lastFlags msgs e.1 with
  | none => false
  | some fl =>
    if nBit fl 1 then false
    else
      let old := aFind base.fixtures e.1
      let moved := match old with
        | some o => fixEnabled e.2 && (!fixEnabled o || o.routeA != e.2.routeA || o.routeB != e.2.routeB || o.channels != e.2.channels ||
            o.chanMap != e.2.chanMap)
        | none => fixEnabled e.2
      nBit fl 0 || moved

/-- The epochs of a commit whose map is in force from F(k + 1) = `f1` (R288, R289): E after it, and the entries stamped. -/
def stampEpochs (base draft : Cfg) (msgs : List ConfigMsg) (f1 : Int) (epoch : Nat) : Cfg × Nat :=
  let given := draft.fixtures.filter (fun e => match lastFlags msgs e.1 with
    | some fl => nBit fl 1
    | none => false)
  let e0 := given.foldl (fun m e => max m e.2.epoch) epoch
  if draft.fixtures.any (advances base msgs) then
    let e1 := max (e0 + 1) f1.toNat
    ({ draft with fixtures := draft.fixtures.map (fun e => if advances base msgs e then (e.1, { e.2 with epoch := e1 }) else e) }, e1)
  else (draft, e0)

/-- The FXM zone word of a zone (R304). -/
def zoneWord (p : ZoneSet) : Word :=
  BitVec.ofNat 32 (bNat (nBit p.flags 0) * 2147483648 + bNat (nBit p.flags 1) * 1073741824 + bNat (nBit p.flags 2) * 536870912 +
    p.group * 16777216 + p.shedOrder * 256 + p.priority)

/-- Writing 1 to FXM_COMMIT.go arms the copy at the first F(k + 1) with (i32)(k − tag) ≥ 0 (R304). -/
def fxmGo (v : Word) (s : State) : State :=
  if bitOf v 0 = false then s
  else
    let k := s.time.fcount
    let tag : Int := k - signed 32 (unsignedOf 32 (k - (regN s R.FXM_COMMIT_TAG : Int)))
    modFxm (fun m => { m with armed := [(tag, max (tag + 1) (k + 1))] }) s

/-! Commands (R303). -/

/-- A zone as in force: FXM_Zz_CFG with the delay of the frame being mapped. -/
def execZoneGet (c : Call) (zone : Nat) (s : State) : Out :=
  command 0x0433 c s fun s =>
    if 255 < zone then refuse .invalidParameter s
    else
      let w := regF s (R.FXM_Zz_CFG zone)
      let d := zoneDelay s zone s.time.fcount
      answer 32 [zone, bNat (bitOf w 31) + 2 * bNat (bitOf w 30) + 4 * bNat (bitOf w 29), bits w 7 0, bits w 15 8, bits w 27 24, d,
        zonePixels s.cfgB zone, (zoneFixtures s.cfgB zone).length, if zoneEnabled s.cfgB zone then slotsFor s d else 0, bNat (isShed s zone),
        ((zoneFixtures s.cfgB zone).filter (fun e => (aFind s.fxm.stale e.1).isSome)).length] s

/-- Host values, newest first, down to the first that reached Teller no later than `floor`: no later frame uses an older one (R302). -/
def hostKeep {α : Type} (floor : Int) (l : List (Option Int × α)) : List (Option Int × α) :=
  match l with
  | [] => []
  | e :: r => match e.1 with
    | none => [e]
    | some x => if x ≤ floor then [e] else e :: hostKeep floor r

/-- The latest instant that counts for the frame being mapped at show frame `fcount` (R302). -/
def hostFloor (s : State) : Int := frameAt s (s.time.fcount - 1) - 2000000

def execAttrValueSet (c : Call) (p : AttrValueSet) (s : State) : Out :=
  command 0x0435 c s fun s =>
    if p.count < 1 ∨ 4096 < p.count ∨ 65536 < p.first + p.count then refuse .invalidParameter s
    else
      let now := reachedAt c s
      accept (modFxm (fun m => { m with host := (List.range p.count).foldl (fun h i =>
        aPut h (p.first + i) (hostKeep (hostFloor s)
          ((now, if p.release then none else some (p.values.getD i 0 % 65536)) :: aGet h (p.first + i) []))) m.host }) s)

/-- The host value of a descriptor for frame k: the last that reached Teller no later than F(k) − 2.0 ms (R302). -/
def hostValue (s : State) (d : Nat) (k : Int) : Option Nat :=
  match (aGet s.fxm.host d []).find? (fun e => match e.1 with
    | some x => decide (x ≤ frameAt s k - 2000000)
    | none => true) with
  | some e => e.2
  | none => none

/-- The 16 words of an entry (R278). -/
def entryWord (f : FixtureEntry) (n : Nat) : Word :=
  let u32 (i : Int) : Nat := unsignedOf 32 i
  BitVec.ofNat 32 (match n with
    | 0 => f.kind + f.flags * 256 + f.zone * 65536 + f.curve * 16777216
    | 1 => f.kernel + f.channels * 256 + f.chanMap * 65536
    | 2 => f.cols + f.rows * 65536
    | 3 => u32 f.originX | 4 => u32 f.originY | 5 => u32 f.colDx | 6 => u32 f.colDy | 7 => u32 f.rowDx | 8 => u32 f.rowDy
    | 9 => f.routeA | 10 => f.routeB | 11 => f.calRef | 12 => f.attrRef
    | 13 => f.effect
    | 14 => f.epoch % 4294967296 | _ => f.epoch / 4294967296)

def blankFixture : FixtureEntry := ⟨0, 0, 0, 0, 0, 0, 0, 0, 0, 0, 0, 0, 0, 0, 0, 0, 0, 0, 0, 0, 0⟩

def fxmStop (s : State) : State := modFxm (fun m => { m with armed := [], stale := [], darkDue := [], reported := none, cache := [] }) s

end Sys2Proof.Machine
end

