-- ==== Sys2Proof/Machine/Late.lean ====
section
/-! DEFINITION. Late zones: data not mapped or not delivered in time (R44, R314, R316), and the frames of the delay pool. -/

namespace Sys2Proof.Machine

def modPool (f : Pool → Pool) (s : State) : State := { s with pool := f s.pool }

def LateRun.empty : LateRun := ⟨0, 0, 0, 0, none, none⟩

/-- The notice of a late zone goes out, at most once per 100 ms; the frames in between are counted (R316). -/
def lateNotice (z : Nat) (s : State) : State :=
  let r := aGet s.pool.late z LateRun.empty
  let quiet := match r.at_ with
    | some t => decide (s.time.now < t + 100000000)
    | none => false
  if quiet then s
  else notify 0x8212 24 [z, r.stage, r.count, unsignedOf 32 r.first, r.pixels, st64 s]
    (modPool (fun p => { p with late := aPut p.late z { r with count := 0, at_ := some s.time.now } }) s)

/-- Frame k of zone `z` had `pixels` pixels repeated: at stage 0 mapping, 1 delivery (R316). A frame counts once. -/
def zoneLate (stage z : Nat) (k : Int) (pixels : Nat) (s : State) : State :=
  let r := aGet s.pool.late z LateRun.empty
  if r.last = some k then s
  else
    let r1 := if r.count = 0 then { r with count := 1, first := k, pixels := pixels, stage := stage, last := some k }
      else { r with count := r.count + 1, last := some k }
    lateNotice z (modPool (fun p => { p with late := aPut p.late z r1 }) s)

/-- The frame k of a zone in the delay pool, as the outputs send it: in CALIBRATE every element carries 0 (R585). -/
def poolFrame (s : State) (z : Nat) (k : Int) : Option PoolFrame :=
  (s.pool.frames.find? (fun p => p.zone == z && p.k == k)).map (fun f =>
    if s.power.mode = .calibrate then { f with values := f.values.map (fun e => (e.1, [])) } else f)

/-- Frame k of a zone is not sent. -/
def unsentZone (k : Int) (s : State) (z : Nat) : State :=
  modPool (fun p => { p with unsent := if p.unsent.contains (z, k) then p.unsent else p.unsent ++ [(z, k)] }) s

/-- The configuration of frame k of a zone (R40): that of its data, or that in force as the frame was mapped. -/
def frameCfg (s : State) (z : Nat) (k : Int) : Cfg :=
  match poolFrame s z k with
  | some p => p.cfg
  | none => ((s.pool.cfgs.find? (fun c => c.1 == k)).map Prod.snd).getD s.cfgB

end Sys2Proof.Machine
end

