-- ==== Sys2Proof/Machine/Wire.lean ====
section
/-! DEFINITION. The bytes of transmitted frames: Ethernet, IPv4 and UDP headers (R466), E1.31 packets (R471, R472; laid out as ANSI E1.31-2018 has them,
PRESUMED, log entry 19), Unbex-over-Ethernet packets (R476, R477), Escrow fragments and probes (R534), membership reports (R189; RFC 3376, PRESUMED, log entry
19). A frame's FCS follows its bytes and is not among them. -/

namespace Sys2Proof.Machine

/-- A number's bytes, highest first. -/
def be (n w : Nat) : List (BitVec 8) := (le n w).reverse

/-- 16-bit words, first byte highest, added up. -/
def wordSum (l : List (BitVec 8)) : Nat :=
  match l with
  | [] => 0
  | [x] => x.toNat * 256
  | x :: y :: r => x.toNat * 256 + y.toNat + wordSum r

/-- The ones' complement checksum of IPv4, UDP and IGMP. -/
def inetSum (l : List (BitVec 8)) : Nat := let n := wordSum l; 65535 - (if n = 0 then 0 else (n - 1) % 65535 + 1)

/-- A list padded with zeros. -/
def padTo (n : Nat) (l : List (BitVec 8)) : List (BitVec 8) := l ++ List.replicate (n - l.length) 0

/-- The MAC of an IPv4 multicast group (R466). -/
def groupMac (ip : Nat) : Nat := 0x01005E000000 + ip % 8388608

def isGroup (ip : Nat) : Bool := decide (224 ≤ ip / 16777216) && decide (ip / 16777216 ≤ 239)

def etherHead (h : NetHead) : List (BitVec 8) :=
  be h.dstMac 6 ++ be h.srcMac 6 ++ ((h.vlan.map (fun t => be 0x8100 2 ++ be t 2)).getD []) ++ be 0x0800 2

/-- The IPv4 header with DF set and identification 0, `options` in whole words (R466). -/
def ipHead (h : NetHead) (protocol len : Nat) (options : List (BitVec 8)) : List (BitVec 8) :=
  let words := 5 + options.length / 4
  let head (sum : Nat) : List (BitVec 8) :=
    [BitVec.ofNat 8 (64 + words), BitVec.ofNat 8 (h.dscp * 4)] ++ be (4 * words + len) 2 ++ be 0 2 ++ be 0x4000 2 ++
      [BitVec.ofNat 8 h.ttl, BitVec.ofNat 8 protocol] ++ be sum 2 ++ be h.srcIp 4 ++ be h.dstIp 4 ++ options
  head (inetSum (head 0))

/-- A UDP datagram with its checksum, 0 sent as all ones (R466). -/
def udpBytes (h : NetHead) (payload : List (BitVec 8)) : List (BitVec 8) :=
  let len := 8 + payload.length
  let head (sum : Nat) : List (BitVec 8) := be h.srcUdp 2 ++ be h.dstUdp 2 ++ be len 2 ++ be sum 2
  let sum := inetSum (be h.srcIp 4 ++ be h.dstIp 4 ++ be 17 2 ++ be len 2 ++ head 0 ++ payload)
  head (if sum = 0 then 65535 else sum) ++ payload

def igmpBytes (records : List (Nat × Nat × Nat)) : List (BitVec 8) :=
  let body (sum : Nat) : List (BitVec 8) := [0x22, 0] ++ be sum 2 ++ be 0 2 ++ be records.length 2 ++
    records.flatMap (fun r => [BitVec.ofNat 8 r.1, 0] ++ be (if r.2.2 = 0 then 0 else 1) 2 ++ be r.2.1 4 ++ (if r.2.2 = 0 then [] else be r.2.2 4))
  body (inetSum (body 0))

/-- The bytes of a frame from its destination address on: IGMP reports carry the router alert option, every other frame is UDP. -/
def frameBytesOf (f : TxFrame) : List (BitVec 8) :=
  match f.net with
  | none => f.payload
  | some h => padTo (60 + (h.vlan.map (fun _ => 4)).getD 0) (etherHead h ++ (match f.content with
    | .igmp l => ipHead h 2 (igmpBytes l).length [0x94, 4, 0, 0] ++ igmpBytes l
    | _ => ipHead h 17 (8 + f.payload.length) [] ++ udpBytes h f.payload))

/-! E1.31. -/

def acnRoot (vector cid : Nat) (rest : List (BitVec 8)) : List (BitVec 8) :=
  be 16 2 ++ be 0 2 ++ [0x41, 0x53, 0x43, 0x2D, 0x45, 0x31, 0x2E, 0x31, 0x37, 0, 0, 0] ++ be (0x7000 + 22 + rest.length) 2 ++ be vector 4 ++ be cid 16 ++ rest

def sourceName (g : PktGlobalSet) : List (BitVec 8) := (padTo 64 g.name).take 64

/-- A data packet: 126 bytes and its slots. -/
def e131DataPacket (g : PktGlobalSet) (univ seq sync prio : Nat) (terminated : Bool) (slots : List Nat) : List (BitVec 8) :=
  let n := slots.length
  acnRoot 4 g.cid (be (0x7000 + 88 + n) 2 ++ be 2 4 ++ sourceName g ++ be prio 1 ++ be sync 2 ++ be seq 1 ++ [if terminated then 0x40 else 0] ++ be univ 2 ++
    be (0x7000 + 11 + n) 2 ++ [2, 0xA1] ++ be 0 2 ++ be 1 2 ++ be (n + 1) 2 ++ [0] ++ slots.map (BitVec.ofNat 8))

/-- A synchronization packet: 49 bytes. -/
def e131SyncPacket (g : PktGlobalSet) (id seq : Nat) : List (BitVec 8) :=
  acnRoot 8 g.cid (be (0x7000 + 11) 2 ++ be 1 4 ++ be seq 1 ++ be id 2 ++ be 0 2)

/-- A page of universe discovery. -/
def discoveryPacket (g : PktGlobalSet) (page last : Nat) (universes : List Nat) : List (BitVec 8) :=
  let n := 8 + 2 * universes.length
  acnRoot 8 g.cid (be (0x7000 + 74 + n) 2 ++ be 2 4 ++ sourceName g ++ be 0 4 ++ be (0x7000 + n) 2 ++ be 1 4 ++ be page 1 ++ be last 1 ++
    universes.flatMap (fun u => be u 2))

/-! Unbex-over-Ethernet. -/

/-- Bytes followed by their CRC-32C. -/
def withCrc (l : List (BitVec 8)) : List (BitVec 8) := l ++ wordBytes (crc32c l)

/-- A data packet (R476). -/
def uoePacket (stream zone flags : Nat) (tag : Int) (offset index count : Nat) (at_ : Int) (data : List Nat) : List (BitVec 8) :=
  withCrc ([0x55, 0x42, 1, 1] ++ le stream 2 ++ le zone 1 ++ le flags 1 ++ le (unsignedOf 32 tag) 4 ++ le offset 4 ++ le data.length 2 ++ le index 2 ++
    le count 2 ++ le 0 2 ++ le (unsignedOf 64 at_) 8 ++ data.map (BitVec.ofNat 8))

def pad4 (n : Nat) : Nat := (n + 3) / 4 * 4

/-- A sync packet (R477). -/
def uoeSyncPacket (seq : Nat) (tag at_ : Int) (zones : List Nat) : List (BitVec 8) :=
  withCrc ([0x55, 0x42, 1, 2] ++ le zones.length 1 ++ le seq 1 ++ le 0 2 ++ le (unsignedOf 32 tag) 4 ++ le (unsignedOf 64 at_) 8 ++
    padTo (pad4 zones.length) (zones.map (BitVec.ofNat 8)))

/-! Escrow. -/

/-- The bytes of a fragment or probe before its CRC (R534). -/
def fragmentBytes (type pair device port : Nat) (record : Word) (alive index count frame : Nat) (at_ : Int) (data : List (BitVec 8)) : List (BitVec 8) :=
  [0x45, 0x53, 1] ++ le type 1 ++ le pair 2 ++ le device 1 ++ le port 1 ++ le record.toNat 4 ++ le alive 2 ++ le index 2 ++ le count 2 ++ le data.length 2 ++
    le frame 4 ++ le (unsignedOf 64 at_) 8 ++ data

/-- The bytes of a lease frame that its tag covers (R527). -/
def leaseBytes (type pair device group : Nat) (seq leaseSeq : Word) (duration flags : Nat) (k : Int) : List (BitVec 8) :=
  [0x4C, 0x45, 1] ++ le type 1 ++ le pair 2 ++ le device 1 ++ le group 1 ++ le seq.toNat 4 ++ le 0 4 ++ le leaseSeq.toNat 4 ++ le duration 2 ++ le flags 2 ++
    le (unsignedOf 64 k) 8

end Sys2Proof.Machine
end

