-- ==== Sys2Proof/Machine/Mac.lean ====
section
/-! DEFINITION. Show, media and management ports (13_show_ports_mac.md): links, pairs, transmit queues and launch slots, pauses, timestamps,
receive rings, tally counters. Wake matches are decided here and take effect in Power. -/

namespace Sys2Proof.Machine

def portOf (s : State) (p : Nat) : MacPort := vGet s.mac.ports p MacPort.reset
def modMac (f : Mac → Mac) (s : State) : State := { s with mac := f s.mac }
def modPort (p : Nat) (f : MacPort → MacPort) (s : State) : State := modMac (fun m => { m with ports := vMod m.ports p f }) s
def pairOf (s : State) (q : Nat) : MacPair := vGet s.mac.pairs q ⟨0, false, false⟩

/-- The modes and FECs of a page (R427). -/
def modeFits (p mode : Nat) : Bool :=
  mode == 0 || (if p < 8 then mode == 1 || mode == 2 else if p < 10 then mode == 3 else mode == 4)

def fecFits (p mode fec : Nat) : Bool :=
  fec == 0 || (if p < 8 then fec == 1 || (fec == 2 && mode == 2) else if p < 10 then fec == 3 else false)

/-- The mode in force: a code not of the page counts as 0 (R462). -/
def portMode (s : State) (p : Nat) : Nat := let m := bits (reg s (R.MAC_CFG p)) 3 0; if modeFits p m then m else 0

def portDomain (p : Nat) : Nat := if p < 4 then 8 else if p < 8 then 9 else if p < 10 then 10 else 2

def portOn (s : State) (p : Nat) : Bool := bitOf (reg s (R.MAC_CTRL p)) 0 && portMode s p != 0 && domState s (portDomain p) == .on

/-- β in 10 ps at the link rate (R440). -/
def byteTime (s : State) (p : Nat) : Nat :=
  match portMode s p with
  | 1 => 80
  | 2 => 32
  | 3 => 8
  | _ => match (portOf s p).rate with
    | 0 => 80000
    | 1 => 8000
    | _ => 800

/-- One quantum in 10 ps: 512 bit times (R444). -/
def quantumTime (s : State) (p : Nat) : Nat := 64 * byteTime s p

/-- A tally counter saturates at 2⁶⁴ − 1 (R456). -/
def tallyBy (p i n : Nat) (s : State) : State :=
  modPort p (fun x => { x with tally := vMod x.tally i (fun v => min 18446744073709551615 (v + n)) }) s

def tallyUp (p i : Nat) (s : State) : State := tallyBy p i 1 s

/-! Transmit timestamps (R447 to R449). -/

/-- An entry that found the queue full is dropped (R449). -/
def tsqDrop (p : Nat) (s : State) : State :=
  let x := portOf s p
  let s1 := setFlag (R.MAC_INT_STAT p) 3 (setFlag (R.MAC_TSQ_STAT p) 31 (tallyUp p 20 s))
  let quiet := match x.tsqNotice with
    | some t => decide (s.time.now < t + 1000000000)
    | none => false
  if quiet then modPort p (fun y => { y with tsqLost := y.tsqLost + 1 }) s1
  else notify 0x8253 16 [p, x.tsqLost + 1, st64 s] (modPort p (fun y => { y with tsqLost := 0, tsqNotice := some s.time.now }) s1)

/-- No pop came in the clock of an entry that found the queue full: it is dropped. -/
def tsqSettle (p : Nat) (s : State) : State :=
  match (portOf s p).tsqExtra with
  | some e => if e.2 < s.time.now then tsqDrop p (modPort p (fun y => { y with tsqExtra := none }) s) else s
  | none => s

/-- Time moves to an event of a port. -/
def portAt (p t : Nat) (s : State) : State := tsqSettle p (advance t s)

/-- An entry arrives at the timestamp queue; a full queue keeps the first of a clock for a pop in that clock (R449). -/
def tsqPut (p : Nat) (e : TsEntry) (sIn : State) : State :=
  let s := tsqSettle p sIn
  let x := portOf s p
  if x.tsq.length < 16 then modPort p (fun y => { y with tsq := y.tsq ++ [e] }) s
  else if x.tsqExtra.isSome then tsqDrop p s
  else modPort p (fun y => { y with tsqExtra := some (e, s.time.now) }) s

/-- A timestamp that a descriptor requests (R447). -/
def stampOf (p : Nat) (f : TxFrame) (late notSent : Bool) (ts : Int) (s : State) : State :=
  match f.stamp with
  | some id => tsqPut p ⟨id, late, notSent, ts⟩ s
  | none => s

/-- A read of MAC_TSQ_ID: the head entry leaves and its timestamp is latched; an empty queue leaves it (R448). -/
def tsqPop (p : Nat) (s : State) : State :=
  let a := R.MAC_TSQ_ID p
  match (portOf s p).tsq with
  | [] => { s with regs := { s.regs with lastRead := some (a, 0) } }
  | e :: r =>
    let s1 := setReg (R.MAC_TSQ_TS_LO p) (loWord e.ts) (setReg (R.MAC_TSQ_TS_HI p) (hiWord e.ts) (modPort p (fun y => { y with
      tsq := r ++ (y.tsqExtra.map Prod.fst).toList, tsqExtra := none }) s))
    let w := BitVec.ofNat 32 (2147483648 + bNat e.notSent * 1073741824 + bNat e.late * 536870912 + e.id % 65536)
    { s1 with regs := { s1.regs with lastRead := some (a, w) } }

def execTsqPop (t : Nat) (port : Fin 11) (s : State) : Out := .next (tsqPop port (portAt port t s))

/-! Queues and launch slots (R436 to R442). -/

/-- A descriptor is handed over: whether it requests a timestamp, and with which identifier, is open (R447). -/
def stamped (p : Nat) (f : TxFrame) (s : State) : TxFrame := { f with stamp := Config.txStamp p (portOf s p).order }

def numbered (p : Nat) (s : State) : State := modPort p (fun x => { x with order := x.order + 1 }) s

/-- A port's unicast address, first-sent byte highest (R430, R462). -/
def portAddr (s : State) (p : Nat) : Nat :=
  let lo := reg s (R.MAC_ADDR_LO p)
  let hi := reg s (R.MAC_ADDR_HI p)
  (((((bits lo 7 0 * 256 + bits lo 15 8) * 256 + bits lo 23 16) * 256 + bits lo 31 24) * 256 + bits hi 7 0) * 256 + bits hi 15 8)

/-- A frame carries the addresses of the port that sends it (R466). -/
def fromPort (s : State) (p : Nat) (f : TxFrame) : TxFrame :=
  { f with net := f.net.map (fun h => { h with srcMac := portAddr s p, srcIp := s.pkt.global.ips.getD p 0 }) }

/-- A port holds a frame in its queue, or among those whose producers wait for room behind the frames of the queue that already wait (R437). -/
def portQueue (p : Nat) (f : TxFrame) (x : MacPort) : MacPort :=
  if (vGet x.queues f.queue []).length < 256 ∧ x.waiting.any (fun g => g.queue == f.queue) = false then
    { x with queues := vMod x.queues f.queue (· ++ [f]) }
  else { x with waiting := x.waiting ++ [f] }

/-- A frame longer than MAC_MTU is discarded (R429); one that finds its queue full waits for room (R437). -/
def portEnqueue (f : TxFrame) (s : State) (p : Nat) : State :=
  if bits (reg s (R.MAC_MTU p)) 13 0 < f.len then tallyUp p 19 s else modPort p (portQueue p (fromPort s p f)) s

/-- The ports that a frame sent on a show port leaves by (R433). -/
def pairPorts (s : State) (p : Nat) : List Nat :=
  if 8 ≤ p then [p]
  else
    let q := pairOf s (p % 4)
    match q.mode with
    | 1 => [p % 4, p % 4 + 4]
    | 2 => [if q.secondary then p % 4 + 4 else p % 4]
    | _ => [p]

/-- The show port of the Escrow role (R532). -/
def escrowRole (s : State) (p : Nat) : Bool := bitOf (reg s R.ESC_CFG) 0 && p == bits (reg s R.ESC_CFG) 19 16

/-- Escrow fragments and probes are all that the port in the Escrow role carries (R435, R532). -/
def portCarries (s : State) (c : TxContent) (p : Nat) : Bool :=
  match c with
  | .fragment .. | .probe .. => true
  | .e131 .. | .e131Sync .. | .discovery .. | .uoe .. | .uoeSync .. | .user .. | .igmp .. | .lease .. => !escrowRole s p

/-- The ports that send a frame. -/
def sendPorts (s : State) (c : TxContent) (p : Nat) : List Nat := (pairPorts s p).filter (portCarries s c)

def macSend (p : Nat) (f : TxFrame) (s : State) : State := (sendPorts s f.content p).foldl (portEnqueue (stamped p f s)) (numbered p s)

/-- A launch-time frame takes a launch slot of its port, or is discarded: longer than MAC_MTU (R429), or with all slots armed (R438). -/
def portArm (f : TxFrame) (at_ : Int) (s : State) (p : Nat) : State :=
  if bits (reg s (R.MAC_MTU p)) 13 0 < f.len then tallyUp p 19 s
  else if 16 ≤ (portOf s p).slots.length then setFlag (R.MAC_INT_STAT p) 4 (tallyUp p 18 s)
  else modPort p (fun x => { x with slots := x.slots ++ [⟨fromPort s p f, at_, x.order⟩], order := x.order + 1 }) s

def macArm (p : Nat) (f : TxFrame) (at_ : Int) (s : State) : State := (sendPorts s f.content p).foldl (portArm (stamped p f s) at_) s

/-- A frame discarded at its deadline is late for its zone (R44, R490). -/
def txLate (f : TxFrame) (s : State) : State :=
  match f.data with
  | some d => zoneLate 1 d.zone d.k d.pixels (setFlag R.PKT_INT_STAT 0 (bump R.PKT_CNT_LATE s))
  | none => s

/-- A frame that waited for room joins its queue, or is discarded at its deadline (R437). -/
def refillOne (p : Nat) (s : State) (f : TxFrame) : State :=
  match f.deadline with
  | some d => if d < s.time.st64 then txLate f s else portEnqueue f s p
  | none => portEnqueue f s p

/-- A queued frame of a zone's data whose deadline has passed (R44, R122). -/
def frameLate (s : State) (f : TxFrame) : Bool :=
  f.data.isSome && (match f.deadline with
    | some d => decide (d < s.time.st64)
    | none => false)

/-- Queued frames of a port that are late: they are not sent (R44; that it is the start of a frame which the deadline bounds is DEDUCED, log entry 19). -/
def lateFrames (s : State) (p : Nat) : List TxFrame := (portOf s p).queues.toList.flatten.filter (frameLate s)

def portExpire (p : Nat) (s : State) : State :=
  (lateFrames s p).foldl (fun x f => txLate f x) (modPort p (fun x => { x with queues := vMap x.queues (fun q => q.filter (fun f => !frameLate s f)) }) s)

/-- Late frames leave the queues, and frames that wait for room join them (R437). -/
def portRefill (p : Nat) (sIn : State) : State :=
  let s := if lateFrames sIn p = [] then sIn else portExpire p sIn
  (portOf s p).waiting.foldl (refillOne p) (modPort p (fun x => { x with waiting := [] }) s)

/-- Every producer that waits for room in a transmit queue tries again (R437). -/
def refillAll (s : State) : State := (List.range 11).foldl (fun x p => portRefill p x) s

/-- The armed slot of the earliest instant, oldest first (R441). -/
def firstSlot (l : List LaunchSlot) : Option LaunchSlot :=
  l.foldl (fun best x => match best with
    | none => some x
    | some b => if x.at_ < b.at_ ∨ (x.at_ = b.at_ ∧ x.order < b.order) then some x else best) none

/-- A class is paused for the frames still to start: by PAUSE, or by PFC (R443, R444). -/
def classPaused (s : State) (p n : Nat) : Bool := decide (s.time.now * 100 < (vGet (portOf s p).classes n Pause.none_).stop)

/-- The gate of R440 for a frame of `len` bytes. -/
def gateOk (s : State) (p len : Nat) : Bool :=
  match firstSlot (portOf s p).slots with
  | none => true
  | some l => decide (((len + 28) * byteTime s p : Nat) ≤ (l.at_ - s.time.st64) * 100)

/-- The port may send a frame whose preamble began `ago` bytes before now: UP, and the line idle from then on. -/
def portFree (s : State) (p ago : Nat) : Bool :=
  (portOf s p).link == .up && decide ((portOf s p).busyUntil + ago * byteTime s p ≤ s.time.now * 100)

/-- The inactive port of a FAILOVER pair carries probes only (R433, R435, R543). -/
def portMay (s : State) (p : Nat) (c : TxContent) : Bool :=
  (pairPorts s p).contains p || (match c with
    | .probe .. => true
    | .e131 .. | .e131Sync .. | .discovery .. | .uoe .. | .uoeSync .. | .user .. | .fragment .. | .igmp .. | .lease .. => false)

/-- Sync packets launched (R490). -/
def countSync (c : TxContent) (s : State) : State :=
  match c with
  | .uoeSync .. | .e131Sync .. => bump R.PKT_CNT_SYNC s
  | .e131 .. | .discovery .. | .uoe .. | .user .. | .fragment .. | .probe .. | .igmp .. | .lease .. => s

/-- A frame is on the line since `ago` bytes: it occupies 8 + L bytes and its gap of 12 (R440). -/
def portTransmit (p : Nat) (f : TxFrame) (late : Bool) (ago : Nat) (ts : Int) (s : State) : State :=
  let b := byteTime s p
  let s1 := tallyBy p 15 f.len (tallyUp p 14 (modPort p (fun x => { x with
    busyUntil := s.time.now * 100 + (f.len + 20 - ago) * b, sent := some (f, ts), line := frameBytesOf f }) s))
  stampOf p f late false ts (countSync f.content s1)

/-- The head frame of the highest queue that is not paused and passes the gate (R436, R440, R443). -/
def txPick (s : State) (p : Nat) : Option (Nat × TxFrame) :=
  (List.range 8).foldr (fun i best => match best with
    | some b => some b
    | none => match (vGet (portOf s p).queues i []).head? with
      | some f => if classPaused s p i = false ∧ gateOk s p f.len = true ∧ portMay s p f.content = true then some (i, f) else none
      | none => none) none

def txStart (p : Nat) (s : State) : State :=
  let s1 := portRefill p s
  if portFree s1 p 0 = false then s1
  else match txPick s1 p with
    | some (i, f) =>
      portTransmit p f false 0 (st64 s1 + (8 * byteTime s1 p + 50) / 100) (modPort p (fun x => { x with queues := vMod x.queues i List.tail }) s1)
    | none => s1

def execTxFrameStart (t : Nat) (port : Fin 11) (s : State) : Out := .next (txStart port (portAt port t s))

/-- A launch-time frame at its instant, late within MAC_LAUNCH_WIN, or discarded (R439 to R442). The command's instant is that of the first
bit after the delimiter. -/
def launchFire (p : Nat) (s : State) : State :=
  match firstSlot (portOf s p).slots with
  | none => s
  | some l =>
    if s.time.st64 < l.at_ then s
    else
      let s1 := modPort p (fun x => { x with slots := x.slots.filter (fun y => y.order != l.order) }) s
      if l.at_ + bits (reg s (R.MAC_LAUNCH_WIN p)) 15 0 < s.time.st64 then
        setFlag (R.MAC_INT_STAT p) 4 (tallyUp p 18 (stampOf p l.frame false true 0 s1))
      else if portFree s p 8 = false ∨ portMay s p l.frame.content = false ∨ classPaused s p l.frame.queue = true then s
      else
        let late := decide (l.at_ + 2 < s.time.st64)
        let s2 := portTransmit p l.frame late 8 s.time.st64 s1
        if late then setFlag (R.MAC_INT_STAT p) 6 (tallyUp p 17 s2) else tallyUp p 16 s2

def execLaunchSlotFire (t : Nat) (port : Fin 11) (s : State) : Out := .next (launchFire port (portAt port t s))

/-! Links and pairs (R428, R431, R434). -/

/-- Frames queued or armed on a port are discarded (R434). -/
def portFlush (p : Nat) (s : State) : State × Nat :=
  let x := portOf s p
  let n := (x.queues.toList.map List.length).sum + x.slots.length
  (tallyBy p 19 n (modPort p (fun y => { y with queues := Vector.replicate 8 [], slots := [] }) s), n)

/-- Frames whose producers wait for room on a port reach the MAC by another (R434, R437). -/
def portPass (old new : Nat) (s : State) : State :=
  let l := (portOf s old).waiting
  l.foldl (refillOne new) (modPort old (fun x => { x with waiting := [] }) s)

/-- A FAILOVER pair switches. Causes: 0 link down, 1 revert. -/
def pairSwitch (q cause : Nat) (s : State) : State :=
  let old := if (pairOf s q).secondary then q + 4 else q
  let new := if (pairOf s q).secondary then q else q + 4
  let sec := !(pairOf s q).secondary
  let (s1, n) := portFlush old s
  portPass old new (notify 0x8252 16 [q, bNat sec, cause, n, st64 s]
    (setFlag (R.MAC_INT_STAT old) 2 (modMac (fun m => { m with pairs := vMod m.pairs q (fun x => { x with secondary := sec }) }) s1)))

/-- The link leaves UP. Causes: 0 lock, 1 fault sequence, 2 host (R428, R461). -/
def linkLeave (p cause : Nat) (to_ : LinkState) (s : State) : State :=
  let was := (portOf s p).link
  let s1 := modPort p (fun x => { x with link := to_, changedAt := if was = .up then st64 s else x.changedAt }) s
  if was ≠ .up then s1
  else
    let s2 := notify 0x8250 16 [p, 0, portMode s p, cause, st64 s] (setFlag (R.MAC_INT_STAT p) 0 (tallyUp p 21 s1))
    if p < 8 then
      let q := p % 4
      let other := if p < 4 then p + 4 else p - 4
      if (pairOf s q).mode = 2 ∧ (if (pairOf s q).secondary then q + 4 else q) = p ∧ (portOf s other).link = .up then pairSwitch q 0 s2 else s2
    else s2

/-- A list in groups of at most `m` of its elements. -/
def groupsOf {α : Type} (m fuel : Nat) (l : List α) : List (List α) :=
  match fuel with
  | 0 => []
  | n + 1 => match l with
    | [] => []
    | x :: r => (x :: r).take m :: groupsOf m n ((x :: r).drop m)

/-- IGMPv3 membership reports on a port, with a record of type, group and source for each change, 120 a frame (R189, R473; RFC 3376, PRESUMED, log
entry 19). -/
def igmpSend (p : Nat) (records : List (Nat × Nat × Nat)) (s : State) : State :=
  if (portOf s p).link ≠ .up then s
  else (groupsOf 120 records.length records).foldl (fun x l =>
    macSend p ⟨max 64 (50 + (l.map (fun r => if r.2.2 = 0 then 8 else 12)).sum), 0, none, none, none, .igmp l,
      some ⟨0, groupMac 0xE0000016, 0, 0xE0000016, 0, 0, 1, 48, none⟩, []⟩ x) s

/-- The record of a group joined or left, source-specific where a source is given (R189). -/
def joinRecord (joined : Bool) (g : Nat × Nat × Nat) : Nat × Nat × Nat :=
  (if g.2.2 = 0 then (if joined then 4 else 3) else (if joined then 5 else 6), g.2.1, g.2.2)

/-- Reports of what has changed against the groups `old` on each media port. -/
def joinReports (old : List (Nat × Nat × Nat)) (s : State) : State :=
  let of (p : Nat) : List (Nat × Nat × Nat) :=
    ((old.filter (fun g => g.1 == p && !s.vin.joined.contains g)).map (joinRecord false)) ++
      ((s.vin.joined.filter (fun g => g.1 == p && !old.contains g)).map (joinRecord true))
  igmpSend 9 (of 1) (igmpSend 8 (of 0) s)

/-- The groups of the receive entries that a show port accepts: 239.255 and the universe (R473). -/
def rxGroups (r : Cfg) (p : Nat) : List Nat :=
  aKeys (r.rxEntries.foldl (fun m e => if e.2.univ != 0 && nBit e.2.mask p then aPut m (4026466304 + e.2.univ) () else m) ([] : SMap Unit))

/-- Reports of what a commit changes in the groups of a show port (R473). -/
def rxReports (old : Cfg) (s : State) : State :=
  if old.rxEntries = s.cfgB.rxEntries then s
  else (List.range 8).foldl (fun x p =>
    let was := rxGroups old p
    let now := rxGroups s.cfgB p
    igmpSend p (((was.filter (fun g => !now.contains g)).map (fun g => joinRecord false (p, g, 0))) ++
      ((now.filter (fun g => !was.contains g)).map (fun g => joinRecord true (p, g, 0)))) x) s

/-- A port that comes up reports its groups (R189, R473). -/
def linkJoins (p : Nat) (s : State) : State :=
  if p = 8 ∨ p = 9 then igmpSend p ((s.vin.joined.filter (fun g => g.1 + 8 == p)).map (joinRecord true)) s
  else if p < 8 then igmpSend p ((rxGroups s.cfgB p).map (fun g => joinRecord true (p, g, 0))) s
  else s

def execLinkUp (t : Nat) (port : Fin 11) (rate : Nat) (s : State) : Out :=
  let s1 := advance t s
  if portOn s1 port = false ∨ (portOf s1 port).link = .up then .next s1
  else .next (linkJoins port <| notify 0x8250 16 [port.val, 2, portMode s1 port, 0, st64 s1] (setFlag (R.MAC_INT_STAT port) 0
    (modPort port (fun x => { x with link := .up, upAt := s1.time.now, changedAt := st64 s1, fault := 0, rate := min rate 2 }) s1)))

/-- Lock lost for 100 µs (cause 0), a local (1) or remote (2) fault sequence (R428). -/
def execLinkDown (t : Nat) (port : Fin 11) (cause : Nat) (s : State) : Out :=
  let s1 := advance t s
  if (portOf s1 port).link ≠ .up then .next s1
  else .next (linkLeave port (min cause 1) (if bitOf (reg s1 (R.MAC_CTRL port)) 1 then .training else .down)
    (modPort port (fun x => { x with fault := min cause 2 }) s1))

def execPairRevert (t : Nat) (pair : Fin 4) (s : State) : Out :=
  let s1 := advance t s
  let q := pairOf s1 pair
  let x := portOf s1 pair
  if q.mode = 2 ∧ q.revertive = true ∧ q.secondary = true ∧ x.link = .up ∧ x.upAt + 10000000000 ≤ s1.time.now then .next (pairSwitch pair 1 s1)
  else .next s1

/-! PAUSE and PFC (R443 to R446). -/

/-- A port's pauses, PAUSE first. -/
def portPauses (x : MacPort) : List Pause := x.pause :: x.classes.toList

/-- Any class of a port is paused. -/
def anyPaused (x : MacPort) : Bool := (portPauses x).any (fun c => decide (0 < c.stop))

/-- paused_us begins with the first pause that takes effect (R456). -/
def pausedStart (p : Nat) (s : State) : State :=
  let x := portOf s p
  if x.pausedFrom.isSome ∨ anyPaused x = false then s
  else modPort p (fun y => { y with pausedFrom := some (((portPauses x).filter (fun c => decide (0 < c.stop))).foldl (fun m c => max m (c.since / 100)) s.time.now) }) s

/-- Pause times that have run out end (R444). -/
def pauseExpire (now : Nat) (x : Pause) : Pause := if x.stop ≤ now * 100 then { x with stop := 0, since := 0 } else x

/-- The whole microseconds of a pause that has run since `from_` up to now or to its end, and what is left to count from (R456). -/
def pausedMicros (now from_ last : Nat) : Nat := (min now (last / 100) - from_) / 1000

/-- Pause times that have run out end, and paused_us has what has passed (R444, R456). -/
def pauseSettle (p : Nat) (s : State) : State :=
  let x := portOf s p
  let now := s.time.now
  let last := (portPauses x).foldl (fun m c => max m c.stop) 0
  let s1 := modPort p (fun y => { y with classes := vMap y.classes (pauseExpire now), pause := pauseExpire now y.pause }) s
  match x.pausedFrom with
  | none => s1
  | some t =>
    let n := pausedMicros now t last
    tallyBy p 22 n (modPort p (fun y => { y with pausedFrom := if anyPaused y then some (t + n * 1000) else none }) s1)

/-- A pause time replaces what remains; it takes effect at the next inter-frame gap, not at all if it ends before, and 0 ends it at once (R444, R445). -/
def pauseSet (now gap quantum n : Nat) (x : Pause) : Pause :=
  let since := if now < x.stop then x.since else max now gap
  if n = 0 ∨ now + n * quantum ≤ since then { x with stop := 0, since := 0 }
  else { x with stop := now + n * quantum, since := since }

/-- No class runs a time of PAUSE any more: PAUSE has ended too (R444). -/
def pauseOver (x : MacPort) : MacPort :=
  if x.classes.toList.any (fun c => c.whole && decide (0 < c.stop)) then x else { x with pause := { x.pause with stop := 0, since := 0 } }

/-- PAUSE and PFC times of a class are one: each replaces what remains of the other (R444). -/
def pauseReceived (p opcode enables : Nat) (quanta : List Nat) (s : State) : State :=
  let cfg := reg s (R.MAC_CFG p)
  let x := portOf s p
  let now := s.time.now * 100
  let set := pauseSet now x.busyUntil (quantumTime s p)
  if opcode = 0x0001 then
    let s1 := tallyUp p 10 s
    if bitOf cfg 8 = false ∨ bitOf cfg 9 = true then s1
    else if s.time.now < x.pause.ignore then tallyUp p 13 s1
    else pausedStart p (modPort p (fun y => { y with
      pause := set (quanta.headD 0) y.pause, classes := vMap y.classes (fun c => { set (quanta.headD 0) c with whole := true }) }) s1)
  else if opcode = 0x0101 then
    let s1 := tallyUp p 11 s
    if bitOf cfg 9 = false then s1
    else
      let named := (List.range 8).filter (fun n => nBit enables n && bitOf cfg (16 + n))
      let act := named.filter (fun n => decide ((vGet x.classes n Pause.none_).ignore ≤ s.time.now))
      let s2 := if act.length < named.length then tallyUp p 13 s1 else s1
      pausedStart p (modPort p (fun y => pauseOver { y with
        classes := y.classes.mapIdx (fun n c => if act.contains n then { set (quanta.getD n 0) c with whole := false } else c) }) s2)
  else tallyUp p 12 s

def execPauseFrameReceived (t : Nat) (port : Fin 11) (opcode enables : Nat) (quanta : List Nat) (s : State) : Out :=
  let s1 := portAt port t s
  if (portOf s1 port).link = .up then .next (pauseReceived port opcode enables quanta (pauseSettle port s1)) else .next s1

def execPauseEnd (t : Nat) (port : Fin 11) (s : State) : Out := .next (pauseSettle port (portAt port t s))

/-- A pause has lasted longer than limit_ms since it took effect (R446). -/
def pauseTooLong (limitMs now : Nat) (x : Pause) : Bool :=
  limitMs != 0 && decide (now * 100 < x.stop) && decide (x.since + limitMs * 100000000 < now * 100)

def pauseTrip (now ignoreMs : Nat) (x : Pause) : Pause :=
  { stop := 0, since := 0, ignore := now + max 1 ignoreMs * 1000000, lasted := (now * 100 - x.since) / 100000000, whole := false }

/-- A pause of PAUSE ends (R446). -/
def wholeEnd (x : Pause) : Pause := if x.whole then { x with stop := 0, since := 0, whole := false } else x

def stormNotice (p classes state ms : Nat) (s : State) : State :=
  notify 0x8251 16 [p, classes, state, ms, st64 s] (setFlag (R.MAC_INT_STAT p) 1 s)

def classMask (l : List Nat) : Nat := (l.map (fun n => 2 ^ n)).sum

def watchdogTrip (p : Nat) (sIn : State) : State :=
  let s := pauseSettle p sIn
  let w := reg s (R.MAC_WD p)
  let now := s.time.now
  let x := portOf s p
  let long := pauseTooLong (bits w 15 0) now
  let ws := x.classes.toList.filter (fun c => c.whole && long c)
  let s1 := if long x.pause = true ∨ ws ≠ [] then
      let y := pauseTrip now (bits w 31 16) x.pause
      let ms := (ws.map (fun c => (pauseTrip now 0 c).lasted)).foldl max (if 0 < x.pause.stop then y.lasted else 0)
      stormNotice p 0xFF 0 ms (tallyUp p 23 (modPort p (fun z => { z with pause := { y with lasted := ms }, classes := vMap z.classes wholeEnd }) s))
    else s
  let cs := (List.range 8).filter (fun n => long (vGet x.classes n Pause.none_) && !(vGet x.classes n Pause.none_).whole)
  let s2 := if cs = [] then s1
    else
      let ms := (cs.map (fun n => (pauseTrip now (bits w 31 16) (vGet x.classes n Pause.none_)).lasted)).foldl max 0
      stormNotice p (classMask cs) 0 ms (tallyBy p 23 cs.length (modPort p (fun z => { z with
        classes := z.classes.mapIdx (fun n c => if cs.contains n then pauseTrip now (bits w 31 16) c else c) }) s1))
  pauseSettle p s2

def execPauseWatchdogTrip (t : Nat) (port : Fin 11) (s : State) : Out := .next (watchdogTrip port (portAt port t s))

/-- ignore_ms has passed: pauses are honored again (R446). -/
def ignoreEnd (p : Nat) (s : State) : State :=
  let now := s.time.now
  let x := portOf s p
  let ended (c : Pause) : Bool := c.ignore != 0 && decide (c.ignore ≤ now)
  let clear (c : Pause) : Pause := if ended c then { c with ignore := 0 } else c
  let cs := (List.range 8).filter (fun n => ended (vGet x.classes n Pause.none_))
  let s1 := modPort p (fun y => { y with classes := vMap y.classes clear, pause := clear y.pause }) s
  let s2 := if ended x.pause then stormNotice p 0xFF 1 x.pause.lasted s1 else s1
  if cs = [] then s2 else stormNotice p (classMask cs) 1 ((cs.map (fun n => (vGet x.classes n Pause.none_).lasted)).foldl max 0) s2

def execPauseIgnoreEnd (t : Nat) (port : Fin 11) (s : State) : Out := .next (ignoreEnd port (portAt port t s))

/-! Tally counters (R456, R457). -/

/-- A read of a tally's LO word: the counter is latched and cleared. -/
def tallyRead (p i : Nat) (s : State) : State :=
  let v := vGet (portOf s p).tally i 0
  let s1 := modPort p (fun x => { x with tally := vMod x.tally i (fun _ => 0) }) s
  { s1 with regs := { s1.regs with
      latched := aPut s1.regs.latched (R.MAC_TALLYi_HI p i) (hiWord (v : Int)), lastRead := some (R.MAC_TALLYi_LO p i, loWord (v : Int)) } }

def execTallyRead (t : Nat) (port : Fin 11) (i : Fin 24) (s : State) : Out := .next (tallyRead port i (pauseSettle port (portAt port t s)))

/-- Teller reads every counter of a port into its accumulators. -/
def tallyGather (s : State) (p : Nat) : State :=
  modPort p (fun x => { x with
    acc := x.acc.mapIdx (fun i v => min 18446744073709551615 (v + vGet x.tally i 0)), tally := Vector.replicate 24 0 }) (pauseSettle p (tsqSettle p s))

def execTallyAccumulate (t : Nat) (s : State) : Out :=
  let s1 := advance t s
  if tellerRuns s1 then .next (((List.range 11).filter (fun p => domainUp s1 (portDomain p))).foldl tallyGather s1) else .next s1

/-! Receive (R429, R443, R451 to R455). -/

/-- A classifier entry: its ring, mask and fields (R451, R462). -/
structure ClsEntry where
  ring : Nat
  mask : Nat
  dstMac : Nat
  etherType : Nat
  vlan : Nat
  ipDst : Nat
  ipSrc : Nat
  udpDst : Nat
deriving DecidableEq, Repr

/-- The number that bytes of a received frame spell, first byte highest. -/
def rxField (f : RxFrame) (at_ w : Nat) : Nat := leNat ((f.bytes.drop at_).take w).reverse

/-- Bytes of a received frame with its FCS (R429). -/
def rxLen (f : RxFrame) : Nat := f.bytes.length + 4
def rxDst (f : RxFrame) : Nat := rxField f 0 6
def rxVlan (f : RxFrame) : Option Nat := if rxField f 12 2 = 0x8100 then some (rxField f 14 2) else none

/-- Where the EtherType stands, after any VLAN tag (R451). -/
def rxTypeAt (f : RxFrame) : Nat := if rxField f 12 2 = 0x8100 then 16 else 12
def rxType (f : RxFrame) : Nat := rxField f (rxTypeAt f) 2

/-- The IPv4 header, where the frame has one. -/
def rxIp (f : RxFrame) : Option Nat := if rxType f = 0x0800 ∧ rxField f (rxTypeAt f + 2) 1 / 16 = 4 then some (rxTypeAt f + 2) else none

/-- The UDP destination port, where the frame begins a UDP datagram. -/
def rxUdp (f : RxFrame) : Option Nat :=
  (rxIp f).bind (fun h => if rxField f (h + 9) 1 = 17 ∧ rxField f (h + 6) 2 % 8192 = 0 then some (rxField f (h + 4 * (rxField f h 1 % 16) + 2) 2) else none)

def clsMatch (f : RxFrame) (e : ClsEntry) : Bool :=
  (!nBit e.mask 0 || rxDst f == e.dstMac) && (!nBit e.mask 1 || rxType f == e.etherType) &&
  (!nBit e.mask 2 || (rxVlan f).map (· % 4096) == some e.vlan) && (!nBit e.mask 3 || (rxIp f).map (fun h => rxField f (h + 16) 4) == some e.ipDst) &&
  (!nBit e.mask 4 || (rxIp f).map (fun h => rxField f (h + 12) 4) == some e.ipSrc) && (!nBit e.mask 5 || rxUdp f == some e.udpDst)

/-- A time-base instance uses the port for PTP (R69, R104). -/
def ptpPort (s : State) (p : Nat) : Bool :=
  (List.range 4).any (fun i =>
    let w := reg s (R.TIM_TBn_CFG i)
    (bits w 2 0 == 1 || bits w 2 0 == 2) && (bits w 11 8 == p || bits w 15 12 == p))

/-- The classifier of a port as Teller builds it (R451): PTP, stream paths, E1.31 intake, Escrow, the Teller transport (log entry 19). -/
def classifier (s : State) (p : Nat) : List ClsEntry :=
  let ptp : List ClsEntry := if ptpPort s p then [⟨0, 2, 0, 0x88F7, 0, 0, 0, 0⟩, ⟨0, 32, 0, 0, 0, 0, 0, 319⟩, ⟨0, 32, 0, 0, 0, 0, 0, 320⟩] else []
  let media : List ClsEntry := if p = 8 ∨ p = 9 then
      (s.cfgA.streams.filter (fun e => nBit e.2.paths (p - 8))).map (fun e =>
        let (group, src, port) := if p = 8 then (e.2.groupA, e.2.srcA, e.2.portA) else (e.2.groupB, e.2.srcB, e.2.portB)
        ⟨1, if src = 0 then 40 else 56, 0, 0, 0, group, src, port⟩)
    else []
  let e131 : List ClsEntry := if p < 8 ∧ s.cfgB.rxEntries.any (fun e => e.2.univ != 0 && nBit e.2.mask p) then [⟨2, 32, 0, 0, 0, 0, 0, 5568⟩] else []
  let cfg := reg s R.ESC_CFG
  let escrow : List ClsEntry := if bitOf cfg 0 ∧ bits cfg 19 16 = p then [⟨3, 32, 0, 0, 0, 0, 0, s.esc.escUdp⟩] else []
  let lease : List ClsEntry := if bitOf cfg 0 ∧ bits cfg 23 20 = p then [⟨4, 32, 0, 0, 0, 0, 0, s.esc.arbUdp⟩] else []
  let teller : List ClsEntry := if p = 10 then [⟨4, 32, 0, 0, 0, 0, 0, bits (reg s R.TLR_UDP) 15 0⟩] else []
  (ptp ++ media ++ e131 ++ escrow ++ lease ++ teller).take 64

/-- Descriptors a frame needs, and the descriptors of a ring (R452). -/
def ringSize (s : State) (p r : Nat) : Nat := 2 ^ clampN 6 14 (bits (reg s (R.MAC_RRr_CFG p r)) 3 0)

/-- The chunks of a frame: at most 2,048 bytes each. -/
def chunks (fuel : Nat) (l : List (BitVec 8)) : List (List (BitVec 8)) :=
  match fuel with
  | 0 => []
  | n + 1 => if l = [] then [] else l.take 2048 :: chunks n (l.drop 2048)

/-- A descriptor as Teller set it up. -/
def freshDesc (p r i : Nat) : RxDesc := ⟨Config.ringBuffer p r i * 64, 0, 1, 0, 0, 0, []⟩

/-- Descriptor `i` of a ring, and whether hardware owns it (R452). -/
def ringDesc (s : State) (p r i : Nat) : RxDesc := (aFind (vGet (portOf s p).rings r ⟨0, []⟩).desc i).getD (freshDesc p r i)
def ringOwn (s : State) (p r i : Nat) : Bool := nBit (ringDesc s p r i).flags 0

/-- The consumer moves sw: the descriptors before it are hardware's again (R452, R462). -/
def ringReturn (p r sw : Nat) (s : State) : State :=
  let size := ringSize s p r
  let old := bits (reg s (R.MAC_RRr_PTR p r)) 15 0 % size
  let n := (sw + size - old) % size
  modPort p (fun x => { x with rings := vMod x.rings r (fun g => { g with
    desc := (List.range n).foldl (fun m i => match aFind m ((old + i) % size) with
      | some d => aPut m ((old + i) % size) { d with flags := d.flags ||| 1 }
      | none => m) g.desc }) }) (setField (R.MAC_RRr_PTR p r) 15 0 sw s)

/-- The rings of a port that comes to life, with their owners: TIM, VIN, Teller, ESC, Teller (R451, R452). -/
def ringOwner (r : Nat) : Nat := [10, 9, 13, 12, 13].getD r 0xFF

def ringsBegin (p : Nat) (s : State) : State :=
  (List.range 5).foldl (fun x r =>
    let base := Config.ringBase p r * 65536
    setReg (R.MAC_RRr_BASE_LO p r) (BitVec.ofNat 32 base) (setReg (R.MAC_RRr_BASE_HI p r) (BitVec.ofNat 32 (base / 4294967296))
      (setField (R.MAC_RRr_CFG p r) 31 16 (ringOwner r * 256 + 1) x))) s

/-- The consumer has returned a number of its descriptors, which no rule fixes (R452). -/
def ringConsumed (p r : Nat) (s : State) : State :=
  let size := ringSize s p r
  let sw := bits (reg s (R.MAC_RRr_PTR p r)) 15 0 % size
  let held := ((vGet (portOf s p).rings r ⟨0, []⟩).hw + size - sw) % size
  draw (ringReturn p r ((sw + Config.ringTaken p r s.free % (held + 1)) % size) s)

/-- The ST64 of the first bit after the delimiter of a frame that ends now: its bytes have passed since (R452). -/
def rxStart (s : State) (p : Nat) (f : RxFrame) : Int := st64 s - ((rxLen f * byteTime s p + 50) / 100 : Nat)

/-- Descriptor `i` of the `n` that a frame fills, hardware's still or handed over (R452, R453). -/
def filledDesc (s : State) (p r rule n : Nat) (f : RxFrame) (own : Bool) (i : Nat) (part : List (BitVec 8)) : RxDesc :=
  let j := ((vGet (portOf s p).rings r ⟨0, []⟩).hw + i) % ringSize s p r
  ⟨(ringDesc s p r j).addr, if own then 0 else part.length, bNat own + 2 * bNat (i == 0) + 4 * bNat (i + 1 == n) + 8 * bNat (rxVlan f).isSome, rule,
    (rxVlan f).getD 0, if i = 0 then rxStart s p f else 0, part⟩

/-- The first descriptors of a frame's take its parts; hardware's pointer moves only past a frame that is handed over (R453, R454). -/
def ringFill (p r rule : Nat) (f : RxFrame) (own : Bool) (parts : List (List (BitVec 8))) (s : State) : State :=
  let size := ringSize s p r
  let n := (chunks 8 f.bytes).length
  let hw := (vGet (portOf s p).rings r ⟨0, []⟩).hw
  modPort p (fun y => { y with rings := vMod y.rings r (fun g => {
    hw := if own then hw else (hw + n) % size
    desc := (parts.mapIdx (fun i l => (i, l))).foldl (fun m e => aPut m ((hw + e.1) % size) (filledDesc s p r rule n f own e.1 e.2)) g.desc }) }) s

/-- A frame that is dropped leaves the descriptors that it filled with own = 1 and length 0 (R454). -/
def ringVoid (p r rule : Nat) (f : RxFrame) (s : State) : State :=
  let hw := (vGet (portOf s p).rings r ⟨0, []⟩).hw
  let parts := chunks 8 f.bytes
  let free := ((List.range parts.length).takeWhile (fun i => ringOwn s p r ((hw + i) % ringSize s p r))).length
  if bitOf (reg s (R.MAC_RRr_CFG p r)) 16 then ringFill p r rule f true (parts.take free) s else s

/-- A frame is written whole to its ring, or dropped (R453, R454). -/
def ringWrite (p r rule : Nat) (f : RxFrame) (sIn : State) : State :=
  let s := ringConsumed p r sIn
  let hw := (vGet (portOf s p).rings r ⟨0, []⟩).hw
  let parts := chunks 8 f.bytes
  let free := (List.range parts.length).all (fun i => ringOwn s p r ((hw + i) % ringSize s p r))
  if bitOf (reg s (R.MAC_RRr_CFG p r)) 16 = false ∨ free = false then
    setFlag (R.MAC_INT_STAT p) 5 (bump (R.MAC_RRr_DROP p r) (tallyUp p 8 (ringVoid p r rule f s)))
  else tallyBy p 1 (rxLen f) (tallyUp p 0 (ringFill p r rule f false parts s))

/-- The ring and the rule of a frame: in DIAGNOSE promisc sends every frame to ring 0 (R451). -/
def ringOf (s : State) (p : Nat) (f : RxFrame) : Option (Nat × Nat) :=
  if bitOf (reg s (R.MAC_CTRL p)) 2 = true ∧ s.power.mode = .diagnose then some (0, 0)
  else ((classifier s p).findIdx? (clsMatch f)).map (fun i => (((classifier s p)[i]?.map ClsEntry.ring).getD 0, i))

/-- A frame that fails the FCS check returns the descriptors it has filled (R453). -/
def ringFailed (p : Nat) (f : RxFrame) (s : State) : State :=
  match ringOf s p f with
  | some (r, rule) => ringVoid p r rule f (ringConsumed p r s)
  | none => s

/-- Errors of the PCS and, on a port with FEC, of FEC codewords since the last frame (R456). -/
def codeErrors (p : Nat) (f : RxFrame) (s : State) : State :=
  let s1 := tallyBy p 4 f.pcsErrors s
  if bits (reg s (R.MAC_CFG p)) 7 4 = 0 then s1 else tallyBy p 6 f.fecUncorrected (tallyBy p 5 f.fecCorrected s1)

def frameReceived (p : Nat) (f : RxFrame) (sIn : State) : State :=
  let s := codeErrors p f sIn
  let sized := decide (64 ≤ rxLen f) && decide (rxLen f ≤ bits (reg s (R.MAC_MTU p)) 13 0)
  if f.fcsOk = false then (if sized = true ∧ rxType f ≠ 0x8808 ∧ f.fifoFull = false then tallyUp p 2 (ringFailed p f s) else tallyUp p 2 s)
  else if sized = false then tallyUp p 3 s
  else if rxType f = 0x8808 ∧ (rxDst f = 0x0180C2000001 ∨ rxDst f = portAddr s p) then tallyUp p 12 s
  else if rxType f = 0x8808 then tallyUp p 7 s
  else if f.fifoFull then tallyUp p 9 s
  else match ringOf s p f with
    | some (r, rule) => ringWrite p r rule f s
    | none => tallyUp p 7 s

def execFrameReceived (t : Nat) (port : Fin 11) (f : RxFrame) (s : State) : Out :=
  let s1 := portAt port t s
  if (portOf s1 port).link = .up then .next (frameReceived port f s1) else .next s1

/-! The wake detector (R458 to R460). -/

/-- The magic pattern at the head of a list: 6 bytes of 0xFF, 16 copies of the address, the password. -/
def magicAt (want l : List (BitVec 8)) : Bool := l.take want.length == want

def magicIn (want l : List (BitVec 8)) : Bool :=
  match l with
  | [] => false
  | x :: r => magicAt want (x :: r) || magicIn want r

/-- Bytes of a MAC address or password kept in a register pair, first-sent byte lowest. -/
def pairBytes (lo hi : Word) : List (BitVec 8) :=
  [lo.setWidth 8, (lo >>> 8).setWidth 8, (lo >>> 16).setWidth 8, (lo >>> 24).setWidth 8, hi.setWidth 8, (hi >>> 8).setWidth 8]

def regByte (s : State) (base i : Nat) : BitVec 8 := ((reg s (base + 4 * (i / 4))) >>> (8 * (i % 4))).setWidth 8

/-- Pattern q matches at every masked byte (R459). -/
def patternMatch (s : State) (q : Nat) (l : List (BitVec 8)) : Bool :=
  (List.range 128).all (fun b =>
    !nBit (regByte s (R.MAC_WAKE_MASKq 10 (4 * q)) (b / 8)).toNat (b % 8) || l[b]? == some (regByte s (R.MAC_WAKE_PATq 10 (32 * q)) b))

/-- The first enabled condition that an event meets: cause and pattern (R459). -/
def wakeMatch (s : State) (e : WakeEvent) : Option (Nat × Nat) :=
  let w := reg s (R.MAC_WAKE_CTRL 10)
  match e with
  | .linkUp => if bitOf w 2 then some (3, 0) else none
  | .frame l =>
    let magic := List.replicate 6 0xFF ++ (List.replicate 16 (pairBytes (reg s (R.MAC_ADDR_LO 10)) (reg s (R.MAC_ADDR_HI 10)))).flatten ++
      (if bitOf w 1 then pairBytes (reg s (R.MAC_WAKE_PW_LO 10)) (reg s (R.MAC_WAKE_PW_HI 10)) else [])
    if bitOf w 0 = true ∧ magicIn magic l = true then some (1, 0)
    else match (List.range 4).find? (fun q => bitOf w (4 + q) && patternMatch s q l) with
      | some q => some (2, q)
      | none => none

/-! Commands (R431, R461). -/

/-- An enabled flow, a media stream, a time-base instance or the Escrow role uses the port (R431). -/
def portUsed (s : State) (escrow : Bool) (p : Nat) : Bool :=
  escrow || ptpPort s p || s.cfgB.flows.any (fun e => nBit e.2.flags 0 && e.2.protocol != 0 && decide (p < 8) && e.2.port == p) ||
    ((p == 8 || p == 9) && s.cfgA.streams.any (fun e => nBit e.2.paths (p - 8)))

/-- The bytes of a number, first-sent byte first, as the address registers hold them. -/
def addrWords (a : Nat) : Word × Word :=
  let b (i : Nat) : Nat := a / 256 ^ (5 - i) % 256
  (BitVec.ofNat 32 (b 0 + b 1 * 256 + b 2 * 65536 + b 3 * 16777216), BitVec.ofNat 32 (b 4 + b 5 * 256))

/-- Enable, mode, FEC or auto-negotiation changed: the link restarts (R431). -/
def portRestart (p : Nat) (s : State) : State :=
  let to_ : LinkState := if portOn s p = true ∧ bitOf (reg s (R.MAC_CTRL p)) 1 = true then .training else .down
  linkLeave p 2 to_ s

def macPortOk (p : MacPortSet) : Bool :=
  decide (p.port ≤ 10) && modeFits p.port p.mode && fecFits p.port p.mode p.fec && decide (64 ≤ p.mtu) && decide (p.mtu ≤ 9600) &&
    decide (p.wdLimit ≤ 1000) && decide (1 ≤ p.wdIgnore) && decide (p.wdIgnore ≤ 10000)

/-- MAC_PORT_SET takes effect on receipt; a restarting change is refused in SHOW and SPARE on a port in use (R431). -/
def macPortSet (escrow : Bool) (p : MacPortSet) (s : State) : State × Reply :=
  let ctrl := setBits (setBits (reg s (R.MAC_CTRL p.port)) 0 0 (bNat (nBit p.flags 0))) 1 1 (bNat (nBit p.flags 1))
  let cfg := BitVec.ofNat 32 (p.honor % 256 * 65536 + bNat (nBit p.flags 3) * 512 + bNat (nBit p.flags 2) * 256 + p.fec * 16 + p.mode)
  let restart := ctrl != reg s (R.MAC_CTRL p.port) || bits cfg 7 0 != bits (reg s (R.MAC_CFG p.port)) 7 0
  if macPortOk p = false then refuse .invalidParameter s
  else if restart = true ∧ (s.power.mode = .show ∨ s.power.mode = .spare) ∧ portUsed s escrow p.port = true then refuse .wrongMode s
  else
    let s1 := setReg (R.MAC_CFG p.port) cfg (setReg (R.MAC_CTRL p.port) ctrl s)
    let s2 := setReg (R.MAC_WD p.port) (BitVec.ofNat 32 (p.wdIgnore * 65536 + p.wdLimit)) (setReg (R.MAC_MTU p.port) (BitVec.ofNat 32 p.mtu) s1)
    let s3 := setReg (R.MAC_LAUNCH_WIN p.port) (BitVec.ofNat 32 (p.launchWin % 65536)) s2
    let s4 := if p.address = 0 then s3
      else setReg (R.MAC_ADDR_LO p.port) (addrWords p.address).1 (setReg (R.MAC_ADDR_HI p.port) (addrWords p.address).2 s3)
    accept (if restart then portRestart p.port s4 else s4)

def execMacPairSet (c : Call) (pair mode flags : Nat) (s : State) : Out :=
  command 0x0471 c s fun s =>
    if 3 < pair ∨ 2 < mode then refuse .invalidParameter s
    else accept (modMac (fun m => { m with pairs := vMod m.pairs pair (fun x =>
      { mode := mode, revertive := nBit flags 0, secondary := x.secondary && mode == 2 }) }) s)

/-- Four bytes as a register word. -/
def wordOf (l : List (BitVec 8)) : Word :=
  BitVec.ofNat 32 ((l.getD 0 0).toNat + (l.getD 1 0).toNat * 256 + (l.getD 2 0).toNat * 65536 + (l.getD 3 0).toNat * 16777216)

/-- Bytes into consecutive register words. -/
def setBytes (base : Nat) (l : List (BitVec 8)) (n : Nat) (s : State) : State :=
  (List.range n).foldl (fun x i => setReg (base + 4 * i) (wordOf (l.drop (4 * i))) x) s

def execMacWakeSet (c : Call) (p : MacWakeSet) (s : State) : Out :=
  command 0x0473 c s fun s =>
    if p.password.length ≠ 6 ∨ p.patterns.length ≠ 4 then refuse .invalidParameter s
    else
      let s1 := setReg (R.MAC_WAKE_CTRL 10) (BitVec.ofNat 32 (p.patternEn % 16 * 16 + p.flags % 8)) s
      let s2 := setReg (R.MAC_WAKE_PW_LO 10) (wordOf p.password) (setReg (R.MAC_WAKE_PW_HI 10) (wordOf (p.password.drop 4)) s1)
      accept ((List.range 4).foldl (fun x q =>
        let e := p.patterns.getD q ⟨[], []⟩
        setBytes (R.MAC_WAKE_PATq 10 (32 * q)) e.bytes 32 (setBytes (R.MAC_WAKE_MASKq 10 (4 * q)) e.mask 4 x)) s2)

def linkCode (l : LinkState) : Nat :=
  match l with
  | .down => 0 | .training => 1 | .up => 2

/-- The pair role of R461: 0 none, 1 active, 2 inactive, 3 duplicate. -/
def pairRole (s : State) (p : Nat) : Nat :=
  if 8 ≤ p then 0
  else match (pairOf s (p % 4)).mode with
    | 1 => 3
    | 2 => if (pairPorts s p).contains p then 1 else 2
    | _ => 0

/-- A pause is in effect: its gap has come, its time not ended (R445). -/
def inForce (s : State) (x : Pause) : Bool := decide (x.since ≤ s.time.now * 100) && decide (s.time.now * 100 < x.stop)

/-- Classes paused by PFC. -/
def pausedMask (s : State) (x : MacPort) : Nat :=
  classMask ((List.range 8).filter (fun n => inForce s (vGet x.classes n Pause.none_) && !(vGet x.classes n Pause.none_).whole))

/-- All classes are paused by PAUSE. -/
def pausedWhole (s : State) (x : MacPort) : Bool := x.classes.toList.all (fun c => inForce s c && c.whole)

def ignoringMask (s : State) (x : MacPort) : Nat :=
  classMask ((List.range 8).filter (fun n => decide (s.time.now < (vGet x.classes n Pause.none_).ignore)))

def execMacStatusGet (c : Call) (port : Nat) (s : State) : Out :=
  command 0x0474 c s fun s =>
    if 10 < port then refuse .invalidParameter s
    else
      let x := portOf s port
      answer 32 [linkCode x.link, portMode s port, bits (reg s (R.MAC_CFG port)) 7 4, pairRole s port, pausedMask s x, ignoringMask s x,
        bNat (pausedWhole s x) + 2 * bNat (decide (s.time.now < x.pause.ignore)), x.tsq.length, x.slots.length, x.changedAt] s

def execMacTallyGet (c : Call) (port flags : Nat) (s : State) : Out :=
  command 0x0475 c s fun s =>
    if 10 < port then refuse .invalidParameter s
    else
      let fields : List Int := (port : Int) :: (portOf s port).acc.toList.map Int.ofNat
      answer 200 fields (if nBit flags 0 then modPort port (fun x => { x with acc := Vector.replicate 24 0 }) s else s)

/-! Registers (R462). -/

/-- Word `n` of the classifier entry that MAC_CLS_IDX names. -/
def clsWord (s : State) (p n : Nat) : Word :=
  match (classifier s p)[bits (reg s (R.MAC_CLS_IDX p)) 5 0]? with
  | none => 0
  | some e =>
    let (lo, hi) := addrWords e.dstMac
    match n with
    | 0 => BitVec.ofNat 32 (2147483648 + e.ring * 268435456 + e.mask)
    | 1 => lo
    | 2 => BitVec.ofNat 32 (hi.toNat % 65536 + e.etherType * 65536)
    | 3 => BitVec.ofNat 32 (e.vlan + e.udpDst * 65536)
    | 4 => BitVec.ofNat 32 e.ipDst
    | 5 => BitVec.ofNat 32 e.ipSrc
    | _ => 0

/-- An entry has found the queue full in an earlier clock, and is not yet counted as dropped. -/
def tsqOwed (s : State) (p : Nat) : Bool :=
  match (portOf s p).tsqExtra with
  | some e => decide (e.2 < s.time.now)
  | none => false

/-- What a tally counter has counted up to now (R456). -/
def tallyNow (s : State) (p i : Nat) : Nat :=
  let x := portOf s p
  let more : Nat := if i = 20 then bNat (tsqOwed s p)
    else if i = 22 then match x.pausedFrom with
      | some t => pausedMicros s.time.now t ((portPauses x).foldl (fun m c => max m c.stop) 0)
      | none => 0
    else 0
  min 18446744073709551615 (vGet x.tally i 0 + more)

def viewMac (s : State) (a : Nat) : Option Word :=
  let p := pageOf a - 0x30
  let o := pageOff a
  let x := portOf s p
  if o = 0x008 then
    let up := bNat (x.link == .up)
    some (BitVec.ofNat 32 (linkCode x.link * 1073741824 + up * 536870912 + up * bNat (bits (reg s (R.MAC_CFG p)) 7 4 != 0) * 268435456 +
      bNat (x.fault == 1) * 134217728 + bNat (x.fault == 2) * 67108864 + (if p = 10 then x.rate * 65536 else 0)))
  else if o = 0x018 then
    if 8 ≤ p then some 0
    else
      let q := pairOf s (p % 4)
      some (BitVec.ofNat 32 (bNat ((portOf s (if p < 4 then p + 4 else p - 4)).link == .up) * 512 + bNat q.secondary * 256 + bNat q.revertive * 4 + q.mode))
  else if o = 0x024 then
    some (BitVec.ofNat 32 (ignoringMask s x * 65536 + pausedMask s x * 256 + bNat (decide (s.time.now < x.pause.ignore)) * 2 +
      bNat (pausedWhole s x)))
  else if o = 0x02C then some (BitVec.ofNat 32 x.slots.length)
  else if o = 0x03C then some (BitVec.ofNat 32 (bNat (bitOf (reg s (R.MAC_TSQ_STAT p)) 31 || tsqOwed s p) * 2147483648 + x.tsq.length))
  else if 0x060 ≤ o ∧ o ≤ 0x07C then some (clsWord s p ((o - 0x060) / 4))
  else if 0x100 ≤ o ∧ o < 0x200 ∧ o % 0x20 = 0x0C then
    let r := (o - 0x100) / 0x20
    some (BitVec.ofNat 32 ((vGet x.rings r ⟨0, []⟩).hw * 65536 + bits (reg s (R.MAC_RRr_PTR p r)) 15 0))
  else if 0x200 ≤ o ∧ o < 0x220 then some (BitVec.ofNat 32 (vGet x.queues ((o - 0x200) / 4) []).length)
  else if 0x400 ≤ o ∧ o < 0x400 + 8 * 24 ∧ o % 8 = 0 then some (BitVec.ofNat 32 (tallyNow s p ((o - 0x400) / 8)))
  else if 0x400 ≤ o ∧ o < 0x400 + 8 * 24 ∧ o % 8 = 4 then some (BitVec.ofNat 32 (tallyNow s p ((o - 0x400) / 8) / 4294967296))
  else none

end Sys2Proof.Machine
end

