-- ==== Sys2Proof/Machine/Photo.lean ====
section
/-! DEFINITION. Photometric correction (10_photometric_pipeline.md): from a sample in L22 to the output word of a pixel, curves, classes,
temperatures and calibration records. -/

namespace Sys2Proof.Machine

def modPho (f : Pho → Pho) (s : State) : State := { s with pho := f s.pho }

/-- Rounding to the nearest integer, halves up (R337). -/
def rhu (a : Int) (b : Nat) : Int := (2 * a + b) / (2 * b : Nat)

/-! Curves (R348 to R351). -/

def driveMax : Nat := 16777212

/-- Position of knot n (R348). -/
def knotAt (n : Nat) : Nat := if n < 256 then n else if n = 3840 then 4194304 else 2 ^ (n / 256 + 7) + n % 256 * 2 ^ (n / 256 - 1)

/-- The largest knot at or below x, and its spacing (R349). -/
def knotOf (x : Nat) : Nat × Nat :=
  if x < 256 then (x, 1)
  else
    let sft := Nat.log2 x - 7
    (256 * sft + (x - 2 ^ (sft + 7)) / 2 ^ (sft - 1), 2 ^ (sft - 1))

/-- round(16,777,212 × y^(8,192 / γ)), exactly (R350). -/
def gammaValue (gamma x : Nat) : Nat :=
  let d := Nat.gcd gamma 8192
  let g := gamma / max 1 d
  let e := 8192 / max 1 d
  searchUp (fun v => decide ((2 * v - 1) ^ g * l22Max ^ e ≤ (2 * driveMax) ^ g * x ^ e)) 24 0

/-- Entry n of a curve (R348, R350). -/
def curveEntry (c : CurveSet) (n : Nat) : Nat :=
  let m := min n 3840
  let x := min (knotAt m) l22Max
  match c.type with
  | 0 => (2 * driveMax * x + l22Max) / (2 * l22Max)
  | 1 => gammaValue c.gamma x
  | 2 =>
    let num := lnNat (l22Max + c.logA * x) - lnNat l22Max
    let den := lnNat (1 + c.logA)
    (rhu (num * driveMax) den.toNat).toNat
  | _ => c.entries.getD m 0 % 16777216

/-- D of an L22 value through a curve, limited (R349). -/
def curveDrive (c : CurveSet) (x : Nat) : Nat :=
  let (n, sp) := knotOf x
  let v : Int := curveEntry c n
  let w : Int := curveEntry c (n + 1)
  min (v + rhu ((w - v) * ((x : Int) - knotAt n)) sp).toNat ((2 * driveMax * c.limit + 32768) / 65536)

/-! Classes and droop (R342, R343). -/

/-- The class as Teller loads it at boot (R342). -/
def classDefault (n : Nat) : ClassSet := ⟨n, 0, 400, 0, [17216, 44434, 3886], [0, 0, 0], List.replicate 132 16384⟩

def classOf (r : Cfg) (n : Nat) : ClassSet := aGet r.classes n (classDefault n)

/-- The class gain of a channel at a temperature in s12.4 °C (R343). -/
def classGain (k : ClassSet) (ch : Nat) (temp : Int) : Int :=
  let p := (clampI (-640) 1920 temp + 640).toNat
  let q := p / 80
  let g (i : Nat) : Int := (k.gains.getD (4 * i + ch) 16384 : Nat)
  if 32 ≤ q then g 32 else g q + rhu ((g (q + 1) - g q) * (p % 80 : Nat)) 80

def pixelGain (k : ClassSet) (droop ch : Nat) (temp : Int) : Int := clampI 0 131072 (16384 + rhu ((classGain k ch temp - 16384) * droop) 128)

/-! The steps of R336. -/

/-- PHO_TEST, which acts in DIAGNOSE and CALIBRATE only (R365). -/
def phoTest (s : State) (bit : Nat) : Bool :=
  (s.power.mode == .diagnose || s.power.mode == .calibrate) && bitOf (reg s R.PHO_TEST) bit

/-- What a pixel counted in the stage. -/
structure PhoCount where
  lo : Nat
  hi : Nat
  desat : Nat
  scale : Nat
  noReport : Nat
  noTemp : Nat
deriving DecidableEq, Repr

def PhoCount.add (a b : PhoCount) : PhoCount :=
  ⟨a.lo + b.lo, a.hi + b.hi, a.desat + b.desat, a.scale + b.scale, a.noReport + b.noReport, a.noTemp + b.noTemp⟩

/-- Matrix and offset (R340). -/
def stepMatrix (off_ : Bool) (r : CalRecord) (n : Nat) (rgb : Nat × Nat × Nat) : List Int :=
  let (x, y, z) := rgb
  (List.range n).map (fun c =>
    if off_ then ((if c = 0 then x else if c = 1 then y else z : Nat) : Int)
    else rhu (r.m.getD (3 * c) 0 * x + r.m.getD (3 * c + 1) 0 * y + r.m.getD (3 * c + 2) 0 * z + r.off.getD c 0 * 262144) 16384)

def listMin (l : List Int) : Int := l.foldl min (l.headD 0)
def listMax (l : List Int) : Int := l.foldl max (l.headD 0)

/-- White extraction of a four-emitter pixel (R341). -/
def stepWhite (k : ClassSet) (g3 : Nat) (e : List Int) : List Int :=
  let m := listMin e
  let w : Int := if m < 0 then 0 else rhu (m * k.whiteShare) 65536
  e.mapIdx (fun c x => x - rhu (w * (k.mix.getD c 0 : Nat)) 32768) ++ [rhu (w * g3) 128]

/-- Droop gain (R343). -/
def stepDroop (k : ClassSet) (droop : Nat) (temp : Int) (e : List Int) : List Int := e.mapIdx (fun c x => rhu (x * pixelGain k droop c temp) 16384)

/-- Desaturation of a negative colour (R347). -/
def stepNegative (k : ClassSet) (e : List Int) : List Int × Bool :=
  let p := e.take 3
  let y := rhu ((k.weights.getD 0 0 : Nat) * p.getD 0 0 + (k.weights.getD 1 0 : Nat) * p.getD 1 0 + (k.weights.getD 2 0 : Nat) * p.getD 2 0) 65536
  let m := listMin p
  let new := if y ≤ 0 then [0, 0, 0] else if m < 0 then p.map (fun x => rhu (y * (y - m) + (x - y) * y) (y - m).toNat) else p
  (new ++ e.drop 3, decide (m < 0) || new != p)

/-- Scaling of a colour above peak (R347). -/
def stepOverflow (e : List Int) : List Int × Bool :=
  let m := listMax (e.take 3)
  if (l22Max : Int) < m then (e.map (fun x => rhu (x * l22Max) m.toNat), true) else (e, false)

/-- Gamut handling and clipping: negatives first, desaturated or clipped to 0, then overflow (R347). -/
def stepGamut (k : ClassSet) (channels : Nat) (e : List Int) : List Nat × PhoCount :=
  let (e1, d) := if 3 ≤ channels ∧ nBit k.gamut 0 then stepNegative k e else (e, false)
  let (e2, o) := if 3 ≤ channels ∧ nBit k.gamut 1 then stepOverflow (e1.map (max 0)) else (e1.map (max 0), false)
  (e2.map (fun x => (clampI 0 l22Max x).toNat),
    ⟨(e1.filter (fun x => decide (x < 0))).length, (e2.filter (fun x => decide ((l22Max : Int) < x))).length, bNat d, bNat o, 0, 0⟩)

/-- W of R352. -/
def wordWidth (cls channels : Nat) : Nat :=
  match cls with
  | 1 | 4 => if channels = 4 then 12 else 16
  | 2 => 16
  | _ => 8

/-- The matrix B of R353. -/
def ditherB (row col : Nat) : Nat :=
  ([0, 8, 2, 10, 12, 4, 14, 6, 3, 11, 1, 9, 15, 7, 13, 5] : List Nat).getD (row % 4 * 4 + col % 4) 0

/-- The threshold t of position n (R353). -/
def ditherT (mode i j k n : Nat) : Nat :=
  match mode with
  | 0 => 8
  | 1 => ditherB j (i + n)
  | _ => ditherB (j + k / 4) (i + k + n)

/-- The dithered word of a drive value (R353). -/
def ditherWord (w d t : Nat) : Nat := min (2 ^ w - 1) ((min (2 ^ (w + 4) - 1) ((d + 2 ^ (19 - w)) / 2 ^ (20 - w)) + t) / 16)

/-- The word of a surface pixel, 48 bits, and what it counted (R336 to R355): `temp` the chip's fresh report, if any; `zt` the zone temperature. -/
def pixelWord (s : State) (r : Cfg) (f : FixtureEntry) (index i j : Nat) (k : Int) (temp zt : Option Int) (rgb : Nat × Nat × Nat) : Nat × PhoCount :=
  let rec_ := aGet s.pho.records (f.calRef + index) ⟨[], [], 0, 0, 0⟩
  let lane := routeClass f == 1 || routeClass f == 2
  let none_ : PhoCount := ⟨0, 0, 0, 0, 0, 0⟩
  if nBit rec_.cls 6 then (0, none_)
  else
    let cls := classOf r (rec_.cls % 64)
    let t := (temp.or zt).getD cls.tRef
    let e := stepMatrix (phoTest s 0) rec_ (min f.channels 3) rgb
    let e1 := if f.channels = 4 then stepWhite cls rec_.g3 e else e
    let e2 := if phoTest s 1 then e1 else stepDroop cls rec_.droop t e1
    let (e3, cnt) := stepGamut cls f.channels e2
    match aFind r.curves f.curve with
    | none => (0, none_)
    | some cv =>
      let drive (x : Nat) : Nat := if phoTest s 3 then 4 * x else curveDrive cv x
      let w := wordWidth (routeClass f) f.channels
      let mode := if phoTest s 2 then 0 else cv.dither
      let out := (List.range f.channels).map (fun n =>
        ditherWord w (drive (e3.getD (f.chanMap / 16 ^ n % 16) 0)) (ditherT mode i j (unsignedOf 32 k) n) * 2 ^ (w * n))
      (out.sum, { cnt with noReport := bNat temp.isNone, noTemp := bNat (lane && temp.isNone) })

/-- Counters of a frame's pixels (R347, R364). -/
def countPho (c : PhoCount) (s : State) : State :=
  let up (a n bit : Nat) (x : State) : State := if n = 0 then x else setFlag R.PHO_INT_STAT bit (bumpBy a n x)
  let s1 := up R.PHO_CNT_SCALE c.scale 1 (up R.PHO_CNT_DESAT c.desat 1 (up R.PHO_CNT_CLIP_HI c.hi 0 (up R.PHO_CNT_CLIP_LO c.lo 0 s)))
  modPho (fun p => { p with noReport := p.noReport + c.noReport, clipped := p.clipped + c.lo + c.hi }) (bumpBy R.PHO_CNT_NOTEMP c.noTemp s1)

/-! Temperatures (R344 to R346). -/

def tstaleNs (s : State) : Nat := bits (reg s R.PHO_TSTALE) 15 0 * 1000000

/-- A chip's fresh report in the snapshot in force (R344). -/
def snapTemp (s : State) (chip : Nat) : Option Int :=
  match aFind s.pho.snapReports chip with
  | some (t, x) => if s.pho.snapAt ≤ t + tstaleNs s then some x else none
  | none => none

def snapZoneTemp (s : State) (z : Nat) : Option Int :=
  match aFind s.pho.snapZones z with
  | some w => if bitOf w 31 then some (signed 16 (bits w 15 0)) else none
  | none => none

/-- A chip's last report before this instant: one that completes at F(k + 1) itself misses the snapshot of frame k (R345). -/
def reportBefore (s : State) (e : Nat × Nat × Int) : Option (Nat × Nat × Int) :=
  if e.2.1 < s.time.now then some e else (aFind s.pho.reportsOld e.1).map (fun r => (e.1, r))

/-- The snapshot of frame k at F(k + 1) (R345). -/
def phoSnapshot (k : Int) (s : State) : State :=
  let pick (l : List (Option Int × Word)) : Option Word :=
    (l.find? (fun e => match e.1 with
      | some x => decide (x ≤ frameAt s k - 2000000)
      | none => true)).map Prod.snd
  let zs := s.pho.zoneTemps.filterMap (fun e => (pick e.2).map (fun w => (e.1, w)))
  modPho (fun p => { p with snapK := k, snapAt := s.time.now, snapReports := p.reports.filterMap (reportBefore s), snapZones := zs }) s

/-- Correction of frame k begins, and ends (R363, R364). -/
def phoBegin (k : Int) (s : State) : State := modPho (fun p => { p with k := k, noReport := 0, clipped := 0 }) s

def phoEnd (k : Int) (s : State) : State :=
  if s.pho.k = k then modPho (fun p => { p with lastK := k, lastNoReport := p.noReport, lastClipped := p.clipped }) s else s

/-- Milliseconds since a chip's last report. -/
def reportAge (s : State) (chip : Nat) : Nat :=
  match aFind s.pho.reports chip with
  | some (t, _) => min 0xFFFFFFFF ((s.time.now - t) / 1000000)
  | none => 0xFFFFFFFF

def tempNotice (chip state : Nat) (s : State) : State :=
  notify 0x8220 16 [chip / 1024, state, chip % 1024, reportAge s chip, st64 s] (setFlag R.PHO_INT_STAT 2 s)

/-- A chip reports its temperature (R344, R346). -/
def chipReport (chip : Nat) (temp : Int) (s : State) : State :=
  let s1 := if s.pho.stale.contains chip then tempNotice chip 1 (modPho (fun p => { p with stale := p.stale.filter (· != chip) }) s) else s
  let older := match aFind s.pho.reports chip with
    | some r => if r.1 < s.time.now then aPut s.pho.reportsOld chip r else s.pho.reportsOld
    | none => aDel s.pho.reportsOld chip
  modPho (fun p => { p with reports := aPut p.reports chip (s.time.now, temp), reportsOld := older }) s1

/-- A chip was provisioned: it has no report until it reports again (R344). -/
def chipForget (chip : Nat) (s : State) : State := modPho (fun p => { p with reports := aDel p.reports chip, reportsOld := aDel p.reportsOld chip }) s

def execReportStaleTimeout (t : Nat) (chip : Nat) (s : State) : Out :=
  let s1 := advance t s
  match aFind s1.pho.reports chip with
  | some (at_, _) =>
    if s1.time.now ≤ at_ + tstaleNs s1 ∨ s1.pho.stale.contains chip then .next s1
    else .next (tempNotice chip 0 (modPho (fun p => { p with stale := chip :: p.stale }) s1))
  | none => .next s1

/-- A zone temperature reaches Teller at `now`, or a register write changes it (R345, R363). -/
def zoneTemp (now : Option Int) (z : Nat) (w : Word) (s : State) : State :=
  modPho (fun p => { p with zoneTemps := aPut p.zoneTemps z (hostKeep (hostFloor s) ((now, w) :: aGet p.zoneTemps z [])) }) (setReg (R.PHO_ZTEMPz z) w s)

/-! Configuration (R358 to R363). -/

def calRecordSetOk (p : CalRecordSet) : Bool := decide (1 ≤ p.records.length) && decide (p.records.length ≤ 2048)

def execCurveSet (c : Call) (p : CurveSet) (s : State) : Out :=
  configMessage 0x0450 (if p.type = 3 then 15380 else 16) c (fun _ => decide (p.curve ≤ 63)) (.curveSet p) s

def execClassSet (c : Call) (p : ClassSet) (s : State) : Out := configMessage 0x0451 296 c (fun _ => decide (p.cls ≤ 63)) (.classSet p) s

def execCalRecordSet (c : Call) (p : CalRecordSet) (s : State) : Out :=
  configMessage 0x0452 (8 + 24 * p.records.length) c (fun _ => calRecordSetOk p) (.calRecordSet p) s

def phoRecord (m : ConfigMsg) (r : Cfg) : Cfg :=
  match m with
  | .curveSet p => { r with curves := aPut r.curves p.curve p }
  | .classSet p => { r with classes := aPut r.classes p.cls p }
  | .calRecordSet p => { r with records := putFrom r.records p.first p.records }
  | _ => r

/-- Records of `b` that differ from `a`. -/
def recordsChanged (a b : SMap CalRecord) : SMap CalRecord := b.filter (fun e => aFind a e.1 != some e.2)

def classCheck (p : ClassSet) : Option (List Int) :=
  if p.weights.sum ≠ 65536 then some [3, p.cls, p.weights.sum, 65536]
  else if p.tRef < -640 ∨ 1920 < p.tRef then some [3, p.cls, unsignedOf 32 p.tRef, 1920]
  else match p.mix.find? (fun x => decide (0x8000 < x)) with
    | some x => some [3, p.cls, x, 0x8000]
    | none => none

def curveCheck (p : CurveSet) : Option (List Int) :=
  if 3 < p.type then some [4, p.curve, p.type, 3]
  else if p.type = 1 ∧ (p.gamma < 0x2000 ∨ 0x8000 < p.gamma) then some [4, p.curve, p.gamma, 0x8000]
  else if p.type = 2 ∧ p.logA = 0 then some [4, p.curve, 0, 1]
  else if 0x8000 < p.limit then some [4, p.curve, p.limit, 0x8000]
  else if 2 < p.dither then some [4, p.curve, p.dither, 2]
  else if p.type = 3 then (match p.entries.find? (fun e => decide (16777216 ≤ e)) with
    | some e => some [4, p.curve, e, 16777215]
    | none => none)
  else none

/-- The checks of R362 in their order: cause, index, required, limit. -/
def phoReject (s : State) (base draft : Cfg) (msgs : List ConfigMsg) : Option (List Int) :=
  let range := msgs.findSome? (fun m => match m with
    | .calRecordSet p => if 33554431 < p.first + p.records.length - 1 then
        some ([1, p.first, p.first + p.records.length - 1, 33554431] : List Int) else none
    | _ => none)
  let n := (recordsChanged base.records draft.records)
  let many : Option (List Int) := if (s.power.mode = .show ∨ s.power.mode = .spare) ∧ 8192 < n.length then
    some [2, (n.head?.map Prod.fst).getD 0, n.length, 8192] else none
  let changedClasses := draft.classes.filter (fun e => aFind base.classes e.1 != some e.2)
  let changedCurves := draft.curves.filter (fun e => aFind base.curves e.1 != some e.2)
  range.or (many.or ((changedClasses.findSome? (fun e => classCheck e.2)).or (changedCurves.findSome? (fun e => curveCheck e.2))))

/-- Curve and class banks flip at the copy for what a commit changed (R359). -/
def flipBanks (old new : Cfg) (s : State) : State :=
  let flip (b : Nat) (c : Nat) : Nat := if aFind old.curves c = aFind new.curves c then b else b ^^^ 2 ^ c
  modPho (fun p => { p with
    curveBank := (List.range 64).foldl flip p.curveBank
    classBank := if old.classes = new.classes then p.classBank else !p.classBank }) s

/-- Teller writes changed records in place, 24 B each at 4 GB/s (R360). -/
def writeRecords (tag : Int) (changed : SMap CalRecord) (s : State) : State :=
  modPho (fun p => { p with
    records := changed.foldl (fun m e => aPut m e.1 e.2) p.records
    writtenTag := some tag
    writingTo := max p.writingTo (s.time.st64 + 6 * changed.length) }) s

/-! Commands (R363). -/

def recordFields (r : CalRecord) : List Int := r.m ++ r.off ++ [(r.droop : Int), r.cls, r.g3]

def execCalRecordGet (c : Call) (first : Nat) (count : Nat) (s : State) : Out :=
  command 0x0453 c s fun s =>
    if count < 1 ∨ 2048 < count ∨ 33554432 < first + count then refuse .invalidParameter s
    else answer (8 + 24 * count) ([(first : Int), count] ++ (List.range count).flatMap (fun i =>
      recordFields (aGet s.pho.records (first + i) ⟨List.replicate 9 0, [0, 0, 0], 0, 0, 0⟩))) s

def execZoneTempSet (c : Call) (zone : Nat) (valid : Bool) (temp : Int) (s : State) : Out :=
  command 0x0454 c s fun s =>
    if 255 < zone then refuse .invalidParameter s
    else accept (zoneTemp (reachedAt c s) zone (BitVec.ofNat 32 (bNat valid * 2147483648 + unsignedOf 16 temp)) s)

def curveMask (r : Cfg) : Nat := (r.curves.map (fun e => 2 ^ e.1)).sum

def execPhoStatusGet (c : Call) (s : State) : Out :=
  command 0x0455 c s fun s =>
    let fresh := (s.pho.reports.filter (fun e => decide (s.time.now ≤ e.2.1 + tstaleNs s))).length
    answer 32 [unsignedOf 32 s.pho.lastK, curveMask s.cfgB % 4294967296, curveMask s.cfgB / 4294967296, fresh, s.pho.reports.length - fresh,
      s.pho.lastNoReport, s.pho.lastClipped] s

def viewPho (s : State) (a : Nat) : Option Word :=
  match pageOff a with
  | 0x000 => some (BitVec.ofNat 32 (bNat (decide (s.time.running = true ∧ s.time.st64 < s.pho.writingTo)) * 4 + bNat s.pho.classBank * 2 +
      bNat (s.time.running && liveFixtures s.cfgB != [])))
  | 0x018 => some (BitVec.ofInt 32 s.pho.k)
  | 0x020 => some (BitVec.ofNat 32 (curveMask s.cfgB))
  | 0x024 => some (BitVec.ofNat 32 (curveMask s.cfgB / 4294967296))
  | 0x028 => some (BitVec.ofNat 32 s.pho.curveBank)
  | 0x02C => some (BitVec.ofNat 32 (s.pho.curveBank / 4294967296))
  | 0x074 =>
    let chip := bits (reg s R.PHO_TEMP_IDX) 14 0
    match aFind s.pho.snapReports chip with
    | some (_, x) => some (BitVec.ofNat 32 (2147483648 + bNat (snapTemp s chip).isNone * 1073741824 + unsignedOf 16 x))
    | none => some 0
  | 0x07C =>
    let w := reg s R.PHO_CURVE_IDX
    match aFind s.cfgB.curves (bits w 17 12) with
    | some c => some (BitVec.ofNat 32 (curveEntry c (bits w 11 0)))
    | none => some 0
  | _ => none

end Sys2Proof.Machine
end

