-- ==== Sys2Proof/Machine/Lanes.lean ====
section
/-! DEFINITION. Unbex lanes (11_unbex_lanes.md): the chain, pixel frames, enumeration, ranging, control frames, provisioning, reports. -/

namespace Sys2Proof.Machine

/-! The chain and its routes (R380 to R382). -/

def laneCfg (r : Cfg) (l : Nat) : LaneSet := aGet r.lanes l ⟨l, 2, 1, 8, 64000, 0, 200000, 2000⟩
def laneChain (r : Cfg) (l : Nat) : LaneChainSet := aGet r.chains l ⟨l, 0, []⟩
def strCfg (r : Cfg) (l : Nat) : StrLaneSet := aGet r.strLanes l ⟨l, 0, 50, 40503, 200, 200, 200, 6000, 800⟩

/-- Modes 0 and 3 disable the lane (R404). -/
def laneOn (r : Cfg) (l : Nat) : Bool := nBit (laneCfg r l).flags 0 && ((laneCfg r l).mode == 1 || (laneCfg r l).mode == 2)
def laneString (r : Cfg) (l : Nat) : Bool := laneOn r l && (laneCfg r l).mode == 2

/-- N in force, and the total of the chain. -/
def chainLen (r : Cfg) (l : Nat) : Nat := (laneChain r l).counts.length
def chainTotal (r : Cfg) (l : Nat) : Nat := (laneChain r l).counts.sum

/-- f_i and c_i. -/
def chipFirst (r : Cfg) (l i : Nat) : Nat := ((laneChain r l).counts.take i).sum
def chipCount (r : Cfg) (l i : Nat) : Nat := (laneChain r l).counts.getD i 0

/-- Enabled fixtures that route to a lane, and those that serve one chip. -/
def laneFixtures (r : Cfg) (l : Nat) : List (Nat × FixtureEntry) :=
  (liveFixtures r).filter (fun e => (routeClass e.2 == 1 || routeClass e.2 == 2) && routePort e.2 == l)

def touches (f : FixtureEntry) (first count : Nat) : Bool := decide (f.routeB < first + count) && decide (first < f.routeB + fixPixels f)

def chipFixtures (r : Cfg) (l i : Nat) : List (Nat × FixtureEntry) :=
  (laneFixtures r l).filter (fun e => touches e.2 (chipFirst r l i) (chipCount r l i))

/-- The zone of a chip: 0x100 for none (R381). -/
def chipZone (r : Cfg) (l i : Nat) : Nat := ((chipFixtures r l i).head?.map (fun e => e.2.zone)).getD 0x100

/-- The chain as zone, first pixel and count of each chip. -/
def chainZones (fx : List (Nat × FixtureEntry)) (first : Nat) (counts : List Nat) : List (Nat × Nat × Nat) :=
  match counts with
  | [] => []
  | c :: r => (((fx.find? (fun e => touches e.2 first c)).map (fun e => e.2.zone)).getD 0x100, first, c) :: chainZones fx (first + c) r

/-- Runs: maximal sequences of chips of one zone (R382). -/
def mergeRuns (l : List (Nat × Nat × Nat)) : List (Nat × Nat × Nat) :=
  l.foldr (fun x acc => match acc with
    | y :: r => if x.1 = y.1 then (x.1, x.2.1, x.2.2 + y.2.2) :: r else x :: acc
    | [] => [x]) []

def laneRuns (r : Cfg) (l : Nat) : List (Nat × Nat × Nat) :=
  (mergeRuns (chainZones (laneFixtures r l) 0 (laneChain r l).counts)).filter (fun x => x.1 != 0x100)

/-- t_lane in ns (R382). -/
def laneBusy (r : Cfg) (l : Nat) : Nat := ((laneRuns r l).map (fun x => 48 * x.2.2 + 128 * ceilDiv x.2.2 160)).sum

/-- A fixture's lane route fits, all but the busy limit (R382). -/
def laneRouteFits (r : Cfg) (f : FixtureEntry) : Bool :=
  laneOn r (routePort f) && (laneCfg r (routePort f)).mode == routeClass f && decide (f.routeB + fixPixels f ≤ chainTotal r (routePort f)) &&
    (routeClass f != 2 || decide (f.channels ≤ 3))

/-- Every chip's routed pixels belong to one zone (R382). -/
def chipsOneZone (r : Cfg) (l : Nat) : Bool :=
  let fx := laneFixtures r l
  (chainZones fx 0 (laneChain r l).counts).all (fun x => (fx.filter (fun e => touches e.2 x.2.1 x.2.2)).all (fun e => e.2.zone == x.1))

/-- t_lane within T_min − commit lead − 500,000 ns (R382). -/
def laneBusyOk (s : State) (r : Cfg) (l : Nat) : Bool := decide ((laneBusy r l : Int) ≤ (periodMin s : Int) - commitLead s - 500000)

/-- D_lane of R45, in ns; below 0 for a target under 2,500 ns (R402). -/
def laneDrain (r : Cfg) : Int :=
  if (liveFixtures r).any (fun e => routeClass e.2 == 1 || routeClass e.2 == 2) then (r.laneGlobal.target : Int) - 2500 else 0

/-! The lane. -/

def laneOf (s : State) (l : Nat) : Lane := vGet s.lanes l Lane.reset
def modLane (l : Nat) (f : Lane → Lane) (s : State) : State := { s with lanes := vMod s.lanes l f }
def chipOf (s : State) (l i : Nat) : ChipLink := aGet (laneOf s l).chips i ChipLink.reset
def modChip (l i : Nat) (f : ChipLink → ChipLink) (s : State) : State :=
  modLane l (fun x => { x with chips := aPut x.chips i (f (aGet x.chips i ChipLink.reset)) }) s

def laneRuns? (x : Lane) : Bool := x.state == .up || x.state == .folded

def laneCode (x : LaneState) : Nat :=
  match x with
  | .off => 0 | .training => 1 | .enumerating => 2 | .ranging => 3 | .up => 4 | .folded => 5 | .fault => 6

/-- d_max: the largest d_n of the lane, in ps (R385). -/
def dMax (x : Lane) : Int := x.chips.foldl (fun m c => max m (c.2.d.getD 0)) 0

/-- The largest d_n of the chips that a ranging does not replace. -/
def dMaxBut (x : Lane) (done : List Nat) : Int := dMax { x with chips := x.chips.filter (fun c => !done.contains c.1) }

/-- A change of state or of the seen count, with its notice (R399). Causes: 0 link, 1 chip count, 2 ranging, 3 host. -/
def laneEnter (l : Nat) (st : LaneState) (seen cause : Nat) (s : State) : State :=
  let x := laneOf s l
  if x.state = st ∧ x.seen = seen then s
  else
    let s1 := if x.seen = seen then s else setFlag R.LNE_INT_STAT 4 (bump (R.LNE_Ln_CNT_FOLD l) s)
    let s2 := if x.state = st then s1 else setFlag R.LNE_INT_STAT 0 s1
    notify 0x8233 16 [l, laneCode x.state, laneCode st, cause, seen, st64 s]
      (modLane l (fun y => { y with state := st, seen := seen, lowest := min y.lowest seen }) s2)

/-! Pixel frames (R373, R374, R383). -/

/-- A run cut into frames of at most 160 words. -/
def cutRun (fuel first count : Nat) : List (Nat × Nat) :=
  match fuel with
  | 0 => []
  | n + 1 => if count = 0 then [] else (first, min 160 count) :: cutRun n (first + 160) (count - 160)

/-- The lane takes frame k of a zone for delivery (R383). -/
def laneTake (l z : Nat) (k : Int) (s : State) : State :=
  let r := frameCfg s z k
  let fs := ((laneRuns r l).filter (fun x => x.1 == z)).flatMap (fun x => cutRun x.2.2 x.2.1 x.2.2)
  if fs = [] then s else modLane l (fun y => { y with jobs := y.jobs ++ [⟨z, k, fs⟩] }) s

/-- The deadline of R383. -/
def laneDeadline (s : State) (l z : Nat) (k : Int) : Int := syncAt s z k - commitLead s - (dMax (laneOf s l) + 999) / 1000

/-- The chip that owns a lane pixel. -/
def chipOfPixel (counts : List Nat) (first i p : Nat) : Nat :=
  match counts with
  | [] => i
  | c :: r => if p < first + c then i else chipOfPixel r (first + c) (i + 1) p

/-- The 48-bit word of a lane pixel: 0 where no fixture routes and for a stale chip (R285, R381, R401). -/
def laneWord (s : State) (l z : Nat) (k : Int) (p : Nat) : Nat :=
  match poolFrame s z k with
  | none => 0
  | some f =>
    if (chipOf s l (chipOfPixel (laneChain f.cfg l).counts 0 0 p)).stale then 0
    else match (laneFixtures f.cfg l).find? (fun e => touches e.2 p 1) with
      | some e => aGet (aGet f.values e.1 []) (p - e.2.routeB) 0
      | none => 0

/-- A commit tagged k or before changed a chip, and its COMMIT is still unacknowledged; or that of the commit tagged k was given up (R401). -/
def commitOwed (x : Lane) (k : Int) (chip : Nat) : Bool :=
  let of (c : Ctrl) : Bool := c.chip == chip && c.cause == .provision && (match c.fromK with
    | some t => decide (t ≤ k)
    | none => false)
  x.queue.any of || (match x.outstanding with
    | some c => of c
    | none => false) || (aGet x.chips chip ChipLink.reset).lostK == some k

/-- A frame of frame k waits for the COMMIT of one of its chips (R401). -/
def frameBlocked (s : State) (l : Nat) (j : PixelJob) (f : Nat × Nat) : Bool :=
  let counts := (laneChain (frameCfg s j.zone j.k) l).counts
  let a := chipOfPixel counts 0 0 f.1
  let b := chipOfPixel counts 0 0 (f.1 + f.2 - 1)
  (List.range (b + 1 - a)).any (fun i => commitOwed (laneOf s l) j.k (a + i))

/-- The window of the job is open. -/
def jobOpen (s : State) (j : PixelJob) : Bool := decide (windowAt s j.zone j.k ≤ s.time.st64)

/-- A frame would end by its deadline: SOF, its 12 + 6 c bytes and EOF last 48 c + 112 ns (R383). -/
def frameFits (s : State) (l : Nat) (j : PixelJob) (f : Nat × Nat) : Bool := decide (s.time.st64 + 48 * f.2 + 112 ≤ laneDeadline s l j.zone j.k)

/-- The job can be served now: a frame of it may go, or none would end in time. One that only waits for a COMMIT does not hold the other zones'. -/
def jobReady (s : State) (l : Nat) (j : PixelJob) : Bool :=
  jobOpen s j && (j.frames.any (fun f => !frameBlocked s l j f) || !j.frames.any (frameFits s l j))

/-- The job of the earliest deadline (R383). -/
def firstJob (s : State) (l : Nat) (js : List PixelJob) : Option PixelJob :=
  js.foldl (fun best j => match best with
    | none => if jobReady s l j then some j else none
    | some b => if jobReady s l j ∧ laneDeadline s l j.zone j.k < laneDeadline s l b.zone b.k then some j else best) none

/-- A pixel frame can go: all other frames of the lane wait (R383). -/
def pixelReady (s : State) (l : Nat) : Bool :=
  laneRuns? (laneOf s l) && (laneOf s l).jobs.any (fun j => jobOpen s j && j.frames.any (fun f => !frameBlocked s l j f && frameFits s l j f))

/-- The bytes of a pixel frame that its CRC covers (R373). -/
def pixelBytes (zone tag first : Nat) (words : List Nat) : List (BitVec 8) :=
  le 1 1 ++ le zone 1 ++ le tag 1 ++ le words.length 1 ++ le first 4 ++ words.flatMap (fun w => le w 6)

/-- The rest of a zone's frame is not sent (R383, R44). -/
def dropJob (l : Nat) (j : PixelJob) (s : State) : State :=
  zoneLate 1 j.zone j.k ((j.frames.map Prod.snd).sum) (setFlag R.LNE_INT_STAT 3 (bumpBy (R.LNE_Ln_CNT_LATE l) j.frames.length
    (modLane l (fun x => { x with jobs := x.jobs.filter (· != j) }) s)))

/-- A frame of a job as sent, with the CRC that the lane controller computes (R373). -/
def pixelFrame (s : State) (l : Nat) (j : PixelJob) (f : Nat × Nat) : PixelFrame :=
  let words := (List.range f.2).map (fun i => laneWord s l j.zone j.k (f.1 + i))
  ⟨j.zone, unsignedOf 8 j.k, f.1, words, crc32c (pixelBytes j.zone (unsignedOf 8 j.k) f.1 words)⟩

def sendFrame (l : Nat) (j : PixelJob) (f : Nat × Nat) (s : State) : State :=
  let rest := { j with frames := j.frames.filter (· != f) }
  bump (R.LNE_Ln_CNT_FRAMES l) (modLane l (fun x => { x with
    jobs := if rest.frames = [] then x.jobs.filter (· != j) else x.jobs.map (fun y => if y = j then rest else y)
    lastFrame := some (pixelFrame s l j f) }) s)

/-- A frame with a word in error is not sent: its chips keep their shadow (R172). -/
def spoilFrame (l : Nat) (j : PixelJob) (f : Nat × Nat) (s : State) : State :=
  let rest := { j with frames := j.frames.filter (· != f) }
  outputClear l [4, 5] (modLane l (fun x => { x with
    jobs := if rest.frames = [] then x.jobs.filter (· != j) else x.jobs.map (fun y => if y = j then rest else y) }) s)

/-! Control frames (R391 to R396). -/

/-- A control frame waits to be sent. -/
def ctrlQueue (l chip : Nat) (op : CtrlOp) (cause : CtrlFor) (notBefore fromK : Option Int) (s : State) : State :=
  modLane l (fun x => { x with queue := x.queue ++ [⟨chip, op, cause, 0, 0, 0, 0, 0, notBefore, fromK, 0⟩] }) s

def ctrlReady (s : State) (c : Ctrl) : Bool :=
  match c.notBefore with
  | some t => decide (t ≤ s.time.st64) || !s.time.running
  | none => true

def opCode (o : CtrlOp) : Nat :=
  match o with
  | .write _ _ => 1 | .read _ => 2 | .commit _ => 3 | .latch _ => 4

/-- The payload of an opcode (R395). -/
def ctrlPayload (o : CtrlOp) : List (BitVec 8) :=
  match o with
  | .write a d => le a 2 ++ le 0 2 ++ d
  | .read a => le a 2 ++ le 0 2
  | .commit e => le e 8
  | .latch u => le u 4

/-- The bytes of a control frame that its CRC covers (R377). -/
def ctrlBytes (c : Ctrl) (seq alive : Nat) : List (BitVec 8) :=
  le 2 2 ++ le c.chip 2 ++ le seq 1 ++ le (opCode c.op) 1 ++ le (ctrlPayload c.op).length 2 ++ le alive 2 ++ le 0 2 ++ ctrlPayload c.op

/-- One frame outstanding at a time: the first that may go is sent, once no pixel frame can, with a new seq of its chip, a new alive value and the CRC
that the lane's check channel computes (R383, R391, R394). -/
def ctrlTake (l : Nat) (s : State) : State :=
  let x := laneOf s l
  if x.outstanding.isSome ∨ pixelReady s l = true then s
  else match x.queue.find? (ctrlReady s) with
    | none => s
    | some c =>
      let seq := ((chipOf s l c.chip).seq + 1) % 256
      let alive := (x.alive + 1) % 65536
      chkRun (12 + l) (ctrlBytes c seq alive) (modChip l c.chip (fun k => { k with seq := seq }) (modLane l (fun y => { y with
        queue := y.queue.erase c
        alive := alive
        outstanding := some { c with seq := seq, alive := alive, sent := 1, sentAt := s.time.now, crc := crc32c (ctrlBytes c seq alive) } }) s))

/-- A frame that may go becomes work of the Almanac at priority 0, which sends it at its dispatch (R118, R123); while the Almanac holds no entries the
lane controller sends it itself (R106; DEDUCED, log entry 9). -/
def ctrlSend (l : Nat) (s : State) : State :=
  let x := laneOf s l
  if x.outstanding.isSome ∨ x.queue.any (ctrlReady s) = false ∨ pixelReady s l = true then s
  else if s.time.running = false ∨ domainUp s 7 = false then ctrlTake l s
  else if hasWork s (.laneControl l) then s
  else insertDescriptor ⟨.laneControl l, 0, 0, 0, if laneString s.cfgB l then 9 else 8, [], none, none, false, 0⟩ s

/-- T_max and BLOCK, REPEAT of R411. -/
def periodMax (s : State) : Nat := ceilDiv (1000000000 * s.time.rateD) (max 1 (s.time.rateN))
def strBlock (s : State) : Nat := (periodMin s - periodMin s / 1000 - 2560) / 68096
def strRepeat (s : State) : Nat := periodMax s + periodMax s / 500 + 1

/-- BLOCK and REPEAT are 0 before show time starts (R411, R419). -/
def blockBytes (s : State) : List (BitVec 8) :=
  if s.time.running then le (strBlock s) 2 ++ le 0 2 ++ le (strRepeat s) 4 else le 0 8

/-- STRINGS to REPEAT of a string chip: STRINGS is the largest channels of its fixtures (R406, R419). -/
def stringBytes (s : State) (l i : Nat) : List (BitVec 8) :=
  let c := strCfg s.cfgB l
  let strings := (chipFixtures s.cfgB l i).foldl (fun m e => max m e.2.channels) 0
  le strings 1 ++ le 0 1 ++ le c.iset0 2 ++ le c.iset1 2 ++ le c.iset2 2 ++ le c.diagI 1 ++ le c.diagPhase 1 ++ le c.phaseStep 2 ++
    le c.vOpen 2 ++ le c.vShort 2 ++ blockBytes s

/-- BYPASS from the host-bypass entries of the failed-lamp table (R423). -/
def bypassBytes (s : State) (l i : Nat) : List (BitVec 8) :=
  (List.range 64).map (fun j => BitVec.ofNat 8 (((s.lamps.filter (fun e => e.lane == l && e.chip == i && e.lamp == j && e.kind == 2)).map
    (fun e => 2 ^ e.string_)).sum))

/-- The epoch of a chip's COMMIT: the largest among its fixtures, or E (R401). -/
def chipEpoch (s : State) (l i : Nat) : Nat :=
  let fx := chipFixtures s.cfgB l i
  if fx = [] then s.fxm.epoch else epochOf fx

/-- WRITE, LATCH and COMMIT frames that provision a chip; the COMMIT waits until `notBefore`, and `fromK` is the tag of the change they bring (R401). -/
def provision (l i : Nat) (notBefore fromK : Option Int) (s : State) : State :=
  let r := s.cfgB
  let head := le (chipFirst r l i) 4 ++ le (chipCount r l i) 2 ++ le (chipZone r l i) 2 ++ le (laneChain r l).format 1 ++ le 0 1 ++
    le (laneCfg r l).hold 2
  let s1 := ctrlQueue l i (.write 0x10 head) .provision none fromK s
  let s2 := if laneString r l then ctrlQueue l i (.write 0x240 (bypassBytes s l i)) .provision none fromK
    (ctrlQueue l i (.write 0x100 (stringBytes s l i)) .provision none fromK s1) else s1
  let s3 := if (chipOf s l i).d.isSome then ctrlQueue l i (.latch (chipOf s l i).units) .provision none fromK s2 else s2
  ctrlQueue l i (.commit (chipEpoch s l i)) .provision notBefore fromK s3

def provisioning (x : Lane) (i : Nat) : Bool :=
  let of (c : Ctrl) : Bool := c.chip == i && c.cause == .provision
  x.queue.any of || (match x.outstanding with
    | some c => of c
    | none => false)

def anyProvision (x : Lane) : Bool :=
  x.queue.any (fun c => c.cause == .provision) || (match x.outstanding with
    | some c => c.cause == .provision
    | none => false)

/-- Chips in reach. -/
def reachable (s : State) (l : Nat) : Nat := min (laneOf s l).seen (chainLen s.cfgB l)

/-- After provisioning, a lane in RANGING is UP or FOLDED; a FOLDED lane whose chips are all back and ranged is UP (R398, R399). -/
def laneSettle (l : Nat) (s : State) : State :=
  let x := laneOf s l
  if x.range.isSome ∨ anyProvision x then s
  else if x.state = .ranging then laneEnter l (if chainLen s.cfgB l ≤ x.seen then .up else .folded) x.seen 2 s
  else if x.state = .folded ∧ chainLen s.cfgB l ≤ x.seen then laneEnter l .up x.seen 2 s
  else s

/-! Ranging (R384 to R387). -/

/-- d_n from the sum of 16 measurements (R385). -/
def rangeDelay (c : LaneSet) (sum n : Nat) : Int := rhu ((sum : Int) - 16 * (c.turn : Int) + 16 * c.asym * (n + 1 : Nat)) 32

/-- ℓ_n (R385). -/
def latchUnits (target : Nat) (d : Int) : Nat := (rhu ((target : Int) * 1000 - d) 250).toNat % 16777216

/-- A lane meets R386 with delays up to `d`: 0, or 1 refused for d_max, 2 refused for Λ. -/
def rangeVerdict (target : Nat) (d : Int) : Nat :=
  if 250000000 < d then 1 else if (target : Int) * 1000 < d + 2500000 then 2 else 0

/-- The bytes of a range frame that its CRC covers (R379). -/
def rangeBytes (chip rseq : Nat) : List (BitVec 8) := le 4 2 ++ le chip 2 ++ le rseq 1 ++ le 0 3

/-- The next range frame goes while no control, collect, range or enumerate frame is on its way back and no pixel frame can go (R383, R384). -/
def rangeNext (l : Nat) (s : State) : State :=
  let x := laneOf s l
  match x.range with
  | none => s
  | some g => match g.todo with
    | [] => s
    | n :: _ =>
      if x.rangeOut.isSome ∨ x.outstanding.isSome ∨ x.collectOut.isSome ∨ x.enumerating = true ∨ pixelReady s l = true then s
      else
        let q := (x.rseq + 1) % 256
        modLane l (fun y => { y with rseq := q, rangeOut := some ⟨n, q, crc32c (rangeBytes n q), 0⟩ }) s

def rangeStart (l : Nat) (whole background : Bool) (todo : List Nat) (s : State) : State :=
  if todo = [] ∧ whole = false then s
  else rangeNext l (modLane l (fun x => { x with range := some ⟨whole, todo, [], 0, [], background⟩, rangeOut := none }) s)

/-- A result goes into force and its LATCH frame is sent (R387). -/
def rangeApply (l : Nat) (send : Bool) (s : State) (e : Nat × Int × Bool) : State :=
  let u := latchUnits s.cfgB.laneGlobal.target e.2.1
  let s1 := modChip l e.1 (fun k => { k with d := some e.2.1, units := u, unstable := e.2.2, acked := k.acked && k.units == u }) s
  if send then ctrlQueue l e.1 (.latch u) .ranging none none s1 else s1

/-- A chip that stays unstable keeps its previous delay (R384). -/
def rangeKeep (l : Nat) (s : State) (e : Nat × Int × Bool) : State := modChip l e.1 (fun k => { k with unstable := e.2.2 }) s

/-- A result of chips ranged by themselves. In the background only a move of 50 ps or more counts, and only while the lane still meets R386; a
returned chip and one that LANE_RANGE names take any new value (R387; DEDUCED, log entry 16). -/
def rangeSingle (l : Nat) (background : Bool) (s : State) (e : Nat × Int × Bool) : State :=
  let moved := match (chipOf s l e.1).d with
    | some d => if background then decide (50 ≤ (e.2.1 - d).natAbs) else d != e.2.1
    | none => true
  if moved = true ∧ (background = false ∨ rangeVerdict s.cfgB.laneGlobal.target (max e.2.1 (dMaxBut (laneOf s l) [e.1])) = 0) then rangeApply l true s e
  else rangeKeep l s e

/-- One chip's ranging ends. -/
def rangeChip (l : Nat) (g : RangeRun) (n : Nat) (d : Int) (unstable : Bool) (s : State) : State :=
  let g1 := { g with todo := g.todo.tail, got := [], repeats := 0, done := g.done ++ [(n, d, unstable)] }
  if g.whole = true ∨ g1.todo ≠ [] then modLane l (fun x => { x with range := some g1 }) s
  else laneSettle l (ctrlSend l (g1.done.foldl (rangeSingle l g1.background) (modLane l (fun x => { x with range := none, lowest := x.seen }) s)))

/-- A measurement of chip n: two passes of 8, repeated up to 3 times while their means differ by more than 100 ps (R384). -/
def rangeMeasured (l : Nat) (g : RangeRun) (n loopPs : Nat) (s : State) : State :=
  let got := g.got ++ [loopPs]
  if got.length < 16 then modLane l (fun x => { x with range := some { g with got := got } }) s
  else
    let a := (got.take 8).sum
    let b := (got.drop 8).sum
    let d := rangeDelay (laneCfg s.cfgB l) (a + b) n
    if ((a : Int) - b).natAbs ≤ 800 then rangeChip l g n d false s
    else if g.repeats < 3 then modLane l (fun x => { x with range := some { g with got := [], repeats := g.repeats + 1 } }) s
    else rangeChip l g n ((chipOf s l n).d.getD d) true s

/-- A range frame returns. Any other than the one sent is discarded; the one sent counts if its CRC holds, and is sent again if it does not (DESIGN
CHOICE, log entry 16). -/
def rangeReturn (l : Nat) (f : RangeFrame) (loopPs : Nat) (s : State) : State :=
  match (laneOf s l).range, (laneOf s l).rangeOut with
  | some g, some o =>
    let s1 := modLane l (fun x => { x with rangeOut := none }) s
    if f.crc ≠ crc32c (rangeBytes f.chip f.rseq) then rangeNext l s1
    else if f.chip ≠ o.chip ∨ f.rseq ≠ o.rseq then s
    else rangeNext l (rangeMeasured l g o.chip loopPs s1)
  | _, _ => s

/-- Symbol errors received (R368). -/
def rxErrors (l n : Nat) (s : State) : State := if n = 0 then s else setFlag R.LNE_INT_STAT 5 (bumpBy (R.LNE_Ln_CNT_RXERR l) n s)

def execRangeFrameReturn (t : Nat) (lane : Fin 32) (frame : RangeFrame) (loopPs : Nat) (s : State) : Out :=
  .next (rangeReturn lane frame loopPs (rxErrors lane frame.errors (advance t s)))

/-- Largest change of a d_n. -/
def rangeChange (s : State) (l : Nat) (done : List (Nat × Int × Bool)) : Nat :=
  done.foldl (fun m e => match (chipOf s l e.1).d with
    | some d => max m (e.2.1 - d).natAbs
    | none => m) 0

/-- A whole-chain ranging is applied or refused, and provisioning follows when the lane is in RANGING (R386, R398, R401). -/
def rangingDone (l : Nat) (s : State) : State :=
  let x := laneOf s l
  match x.range with
  | some g =>
    if g.whole = false ∨ g.todo ≠ [] then s
    else
      let d := g.done.foldl (fun m e => max m e.2.1) (dMaxBut x (g.done.map Prod.fst))
      let v := rangeVerdict s.cfgB.laneGlobal.target d
      let s1 := modLane l (fun y => { y with range := none }) s
      let s2 := if v = 0 then modLane l (fun y => { y with ranged := true, rangedAt := st64 s, lowest := y.seen })
          (g.done.foldl (rangeApply l (x.state != .ranging)) s1)
        else s1
      let s3 := notify 0x8231 24 [l, v, g.done.length, (g.done.filter (fun e => e.2.2)).length, d, rangeChange s l g.done, st64 s]
        (setFlag R.LNE_INT_STAT 1 s2)
      if x.state ≠ .ranging then laneSettle l s3
      else if v ≠ 0 ∧ x.ranged = false then laneEnter l .fault x.seen 2 s3
      else laneSettle l (ctrlSend l ((List.range (reachable s l)).foldl (fun y i => provision l i none none y) s3))
  | none => s

def execLaneRangingDone (t : Nat) (lane : Fin 32) (s : State) : Out := .next (rangingDone lane (advance t s))

/-! Enumeration, breaks and states (R379, R398, R399). -/

/-- A frame that ended without effect: its command is answered with the status the chip gave. -/
def ctrlFailed (c : Ctrl) (data : Word) (status : Nat) (s : State) : State :=
  match c.cause with
  | .hostWrite owed => respondOwed 0x0465 owed ⟨.ok, 4, [status]⟩ s
  | .hostRead owed => respondOwed 0x0466 owed ⟨.ok, 8, [status, data.toNat]⟩ s
  | .lampCommit owed _ => respondOwed 0x0469 owed ⟨.ok, 4, [status]⟩ s
  | _ => s

/-- Control frames that a lane drops: their commands are answered. -/
def laneAbort (l : Nat) (s : State) : State :=
  let x := laneOf s l
  (x.outstanding.toList ++ x.queue).foldl (fun y c => ctrlFailed c 0 0 y) s

/-- The lane is enabled: TRAINING (R398). -/
def laneTrain (l cause : Nat) (s : State) : State :=
  laneEnter l .training 0 cause (modLane l (fun x => { Lane.reset with
    state := x.state, seen := x.seen, alive := x.alive, syncSeq := x.syncSeq, monTill := x.monTill, ranged := x.ranged, rangedAt := x.rangedAt
    chips := (x.chips.filter (fun c => decide (c.1 < chainLen s.cfgB l))).map (fun c => (c.1, { c.2 with sum := none, owed := false, lostK := none })) }) (laneAbort l s))

def laneOff (l cause : Nat) (s : State) : State :=
  if (laneOf s l).state = .off then s
  else laneEnter l .off 0 cause (modLane l (fun x => { Lane.reset with state := x.state, seen := x.seen, monTill := x.monTill }) (laneAbort l s))

def execLaneTrainingDone (t : Nat) (lane : Fin 32) (s : State) : Out :=
  let s1 := advance t s
  if (laneOf s1 lane).state = .training then
    .next (modLane lane (fun x => { x with enumerating := true, enumLast := none }) (laneEnter lane .enumerating (laneOf s1 lane).seen 0 s1))
  else .next s1

/-- An enumeration starts (R399), once no pixel frame can go (R383); one that runs goes on. -/
def enumStart (l : Nat) (s : State) : State :=
  let wait := pixelReady s l
  modLane l (fun x => if x.enumerating then x else if wait then { x with enumDue := true } else { x with enumerating := true, enumLast := none, enumDue := false }) s

/-- Every 100 ms (R399). -/
def execEnumerateInterval (t : Nat) (lane : Fin 32) (s : State) : Out :=
  let s1 := advance t s
  if laneRuns? (laneOf s1 lane) ∧ (laneOf s1 lane).enumAt + 100000000 ≤ s1.time.now then
    .next (enumStart lane (modLane lane (fun x => { x with enumAt := s1.time.now }) s1))
  else .next s1

/-- The seen count becomes `n` in UP or FOLDED (R399). -/
def seenNow (l n : Nat) (s : State) : State :=
  let x := laneOf s l
  let len := chainLen s.cfgB l
  if n = x.seen then s
  else if n < len then laneEnter l .folded n 1 (modLane l (fun y => if n < y.seen then { y with range := none, rangeOut := none } else y) s)
  else
    let back := x.lowest
    let s1 := laneEnter l x.state n 1 s
    let stale := (List.range (len - back)).filter (fun i => (chipOf s l (back + i)).stale || (chipOf s l (back + i)).owed)
    let s2 := stale.foldl (fun y i => provision l (back + i) none none y) (rangeStart l false false ((List.range (len - back)).map (back + ·)) s1)
    laneSettle l (ctrlSend l s2)

/-- The count of a finished enumeration (R398, R399): after the first, the whole chain is ranged. -/
def enumDone (l n : Nat) (s : State) : State :=
  let x := laneOf s l
  let s1 := modLane l (fun y => { y with enumerating := false, enumLast := none }) s
  if x.state = .enumerating then
    let s2 := laneEnter l .ranging n 1 (modLane l (fun y => { y with chips := y.chips.map (fun c => (c.1, { c.2 with sum := none })) }) s1)
    rangeStart l true false (List.range (min n (chainLen s.cfgB l))) (modLane l (fun y => { y with lowest := n }) s2)
  else if laneRuns? x then rangeNext l (seenNow l n s1) else s1

/-- A returned enumerate frame; two in a row with the same count end the enumeration (R379, R398). -/
def enumReturn (l : Nat) (f : EnumFrame) (s : State) : State :=
  let x := laneOf s l
  if x.enumerating = false ∨ f.check ≠ f.next ^^^ 0xFFFF then s
  else if x.enumLast = some f.next then enumDone l (min 1024 f.next) s
  else modLane l (fun y => { y with enumLast := some f.next }) s

def execEnumerateFrameReturn (t : Nat) (lane : Fin 32) (frame : EnumFrame) (errors : Nat) (s : State) : Out :=
  .next (enumReturn lane frame (rxErrors lane errors (advance t s)))

/-- No valid symbol for 10 µs: s is 0 (R399). -/
def execLaneRxLoss (t : Nat) (lane : Fin 32) (errors : Nat) (s : State) : Out :=
  let s1 := rxErrors lane errors (advance t s)
  if laneRuns? (laneOf s1 lane) then
    .next (laneEnter lane (if 0 < chainLen s1.cfgB lane then .folded else (laneOf s1 lane).state) 0 0
      (modLane lane (fun y => { y with range := none, rangeOut := none, enumerating := false, enumLast := none }) s1))
  else .next s1

/-! Collection (R378, R397). -/

def unitKey (cls port unit : Nat) : Nat := cls * 4194304 + port * 65536 + unit

/-- A chip reports an epoch (R291, R401): its fixtures are held or released; a stale chip is provisioned. -/
def chipEpochReport (l i epoch : Nat) (s : State) : State :=
  let fx := chipFixtures s.cfgB l i
  let key := unitKey (laneCfg s.cfgB l).mode l i
  let stale := unitFirst key s || decide (epoch < chipEpoch s l i)
  let s2 := modChip l i (fun k => { k with epoch := some epoch, stale := stale }) (unitReport key i stale fx s)
  if stale = true ∧ provisioning (laneOf s l) i = false then ctrlSend l (provision l i none none s2) else s2

/-- A collect frame for up to 16 chips leaves (R397). -/
def collectNow (l : Nat) (s : State) : State :=
  let n := chainLen s.cfgB l
  let first := if (laneOf s l).collectNext < n then (laneOf s l).collectNext else 0
  modLane l (fun y => { y with collectDue := false, collectOut := some (first, min 16 (n - first)), cseq := (y.cseq + 1) % 256, collectNext := first + 16 }) s

/-- Every collect interval a lane in UP or FOLDED sends a collect frame, once no pixel frame can go, and may range one chip in the background (R383, R387,
R397). -/
def collectSend (s : State) (l : Nat) : State :=
  let x := laneOf s l
  if laneRuns? x = false ∨ chainLen s.cfgB l = 0 ∨ s.time.now < x.collectAt + s.cfgB.laneGlobal.collect * 1000 then ctrlSend l s
  else
    let s0 := modLane l (fun y => { y with collectAt := s.time.now }) s
    let s1 := if pixelReady s l then modLane l (fun y => { y with collectDue := true }) s0 else collectNow l s0
    let bg := s.time.running && nBit (laneCfg s.cfgB l).flags 1 && x.range.isNone && decide (0 < reachable s l)
    let i := if x.background < reachable s l then x.background else 0
    let s2 := if bg then modLane l (fun y => { y with background := i + 1 }) (rangeStart l false true [i] s1) else s1
    ctrlSend l s2

/-- No pixel frame can go any more: what waited uses the time that remains (R383). -/
def laneIdle (l : Nat) (s : State) : State :=
  if pixelReady s l then s
  else
    let s1 := if (laneOf s l).enumDue then enumStart l s else s
    let s2 := if (laneOf s1 l).collectDue = true ∧ laneRuns? (laneOf s1 l) = true then collectNow l s1 else s1
    ctrlSend l (rangeNext l s2)

/-- The next pixel frame, or late data dropped (R383). -/
def pixelSend (l : Nat) (s : State) : State :=
  match firstJob s l (laneOf s l).jobs with
  | none => s
  | some j =>
    match j.frames.find? (fun f => !frameBlocked s l j f) with
    | some f =>
      if frameFits s l j f = false then laneIdle l (dropJob l j s)
      else if laneRuns? (laneOf s l) = false then s
      else if outputBad s l none [4, 5] then laneIdle l (spoilFrame l j f s)
      else laneIdle l (sendFrame l j f s)
    | none => laneIdle l (dropJob l j s)

def execPixelFrameSend (t : Nat) (lane : Fin 32) (s : State) : Out := .next (pixelSend lane (advance t s))

/-- The bytes of a slot that its CRC covers (R378). -/
def reportBytes (x : Slot) : List (BitVec 8) :=
  le x.flags 1 ++ le x.syncSeq 1 ++ le (unsignedOf 16 x.temp) 2 ++ le x.crcErr 2 ++ le 0 2 ++ le x.epoch 8

/-- A slot that no chip wrote. -/
def blankSlot : Slot := ⟨0, 0, 0, 0, 0, 0⟩

/-- A returned collect frame as an intake packet (R378, R397). -/
def collectPacket (l first cseq : Nat) (slots : List Slot) : List (BitVec 8) :=
  let head := le 3 2 ++ le first 2 ++ le slots.length 1 ++ le cseq 1 ++ le 0 2
  le l 4 ++ head ++ wordBytes (crc32c head) ++ slots.flatMap (fun x => reportBytes x ++ wordBytes x.crc)

def collectSlot (l : Nat) (s : State) (e : Nat × Slot) : State :=
  if nBit e.2.flags 0 = true ∧ e.2.crc = crc32c (reportBytes e.2) then chipEpochReport l e.1 e.2.epoch (chipReport (l * 1024 + e.1) e.2.temp s)
  else
    let s1 := bump (R.LNE_Ln_CNT_MISS l) s
    if e.1 < (laneOf s l).seen then enumStart l s1 else s1

/-- A returned collect frame enters intake queue 17, whose consumer is the lane controller (R158, R397). -/
def collectReturn (l : Nat) (slots : List Slot) (s : State) : State :=
  match (laneOf s l).collectOut with
  | none => s
  | some (first, count) =>
    let xs := (List.range count).map (fun j => slots.getD j blankSlot)
    let r := intake 17 (collectPacket l first (laneOf s l).cseq xs) (modLane l (fun y => { y with collectOut := none }) s)
    rangeNext l (if r.2 then (xs.mapIdx (fun j x => (first + j, x))).foldl (collectSlot l) r.1 else r.1)

def execCollectFrameReturn (t : Nat) (lane : Fin 32) (slots : List Slot) (errors : Nat) (s : State) : Out :=
  .next (collectReturn lane slots (rxErrors lane errors (advance t s)))

/-! SYNC launch (R389, R390). -/

/-- The frac of a SYNC set for P (R389): up to the end of the set before, of 5 + n symbols of 8 ns, where that is still being sent at P; else up to the
next symbol boundary, at most 8 ns away, a free value (log entries 4 and 16). -/
def syncFrac (x : Lane) (p free : Int) : Nat :=
  let sentAt := 4 * x.lastSync + x.lastFrac + 32 * (5 + x.lastZones.length)
  if x.lastZones ≠ [] ∧ x.lastSync ≤ p ∧ 4 * p < sentAt then min 8384 (sentAt - 4 * p).toNat else free.toNat % 33

/-- A SYNC set leaves for zones whose SYNCs on the lane fall at one instant; P is the armed instant. SYNC_MON goes high at P for 1 µs (R682). -/
def laneSync (l : Nat) (zones : List Nat) (p : Int) (s : State) : State :=
  if laneRuns? (laneOf s l) then
    bump (R.LNE_Ln_CNT_SYNC l) (modLane l (fun x => { x with
      syncSeq := (x.syncSeq + 1) % 256, lastSync := p, lastZones := zones, lastFrac := syncFrac x p (drawn s)
      monTill := ((s.time.now : Int) - (s.time.st64 - p) + 1000).toNat }) (draw s))
  else s

/-- SYNC_MON is high; it is driven only while PD11 is on (R682). -/
def syncMon (s : State) : Bool := domainUp s 11 && s.lanes.toList.any (fun x => decide (s.time.now < x.monTill))

/-! Configuration (R401 to R403). -/

def laneSetOk (p : LaneSet) : Bool := decide (p.lane ≤ 31) && decide (p.retries ≤ 15)

def execLaneSet (c : Call) (p : LaneSet) (s : State) : Out := configMessage 0x0460 24 c (fun _ => laneSetOk p) (.laneSet p) s

def execLaneChainSet (c : Call) (p : LaneChainSet) (s : State) : Out :=
  configMessage 0x0461 (8 + 2 * p.counts.length) c (fun _ => decide (p.lane ≤ 31) && decide (p.format ≤ 1)) (.laneChainSet p) s

def execLaneGlobalSet (c : Call) (p : LaneGlobalSet) (s : State) : Out := configMessage 0x0462 8 c (fun _ => true) (.laneGlobalSet p) s

def lneRecord (m : ConfigMsg) (r : Cfg) : Cfg :=
  match m with
  | .laneSet p => { r with lanes := aPut r.lanes p.lane p }
  | .laneChainSet p => { r with chains := aPut r.chains p.lane p }
  | .laneGlobalSet p => { r with laneGlobal := p }
  | .strLaneSet p => { r with strLanes := aPut r.strLanes p.lane p }
  | _ => r

/-- The checks of R402: cause, lane, required, limit. -/
def lneReject (s : State) (base draft : Cfg) : Option (List Int) :=
  let cfg := draft.lanes.findSome? (fun e =>
    let p := e.2
    let bad (req lim : Nat) : Option (List Int) := some [1, p.lane, req, lim]
    if nBit p.flags 0 = true ∧ p.mode ≠ 1 ∧ p.mode ≠ 2 then bad p.mode 2
    else if p.retries = 0 then bad 0 1
    else if 1000000 < p.turn then bad p.turn 1000000
    else if p.ackTimeout < 10000 then bad p.ackTimeout 10000
    else none)
  let chain := draft.chains.findSome? (fun e =>
    let p := e.2
    let bad (req lim : Nat) : Option (List Int) := some [2, p.lane, req, lim]
    if 1024 < p.counts.length then bad p.counts.length 1024
    else match p.counts.find? (fun c => c == 0 || decide (1024 < c)) with
      | some c => bad c 1024
      | none => if 524288 < p.counts.sum then bad p.counts.sum 524288 else none)
  let g := draft.laneGlobal
  let target : Option (List Int) :=
    if g.target < 1000 ∨ 1000000 < g.target then some [3, 0, g.target, 1000000]
    else if (s.power.mode = .show ∨ s.power.mode = .spare) ∧ g.target ≠ base.laneGlobal.target then some [3, 0, g.target, base.laneGlobal.target]
    else if g.collect < 100 ∨ 10000 < g.collect then some [3, 0, g.collect, 10000] else none
  let latch := (List.range 32).findSome? (fun l =>
    if (laneOf s l).ranged = true ∧ (g.target : Int) * 1000 < dMax (laneOf s l) + 2500000 then
      some ([4, l, (dMax (laneOf s l) + 2500999) / 1000, g.target] : List Int) else none)
  cfg.or (chain.or (target.or latch))

/-- The checks of R424. -/
def strReject (draft : Cfg) : Option (List Int) :=
  let chain := (List.range 32).findSome? (fun l =>
    if (laneCfg draft l).mode ≠ 2 then none
    else match (laneChain draft l).counts.find? (fun c => c == 0 || decide (64 < c)) with
      | some c => some ([1, l, c, 64] : List Int)
      | none => if (laneChain draft l).format = 1 then some [1, l, 1, 0] else none)
  let current := draft.strLanes.findSome? (fun e =>
    let p := e.2
    match [p.iset0, p.iset1, p.iset2].find? (fun i => decide (1000 < i)) with
    | some i => some ([2, p.lane, i, 1000] : List Int)
    | none => if p.diagI = 0 then some [2, p.lane, 0, 1] else none)
  let thresh := draft.strLanes.findSome? (fun e =>
    let p := e.2
    if p.vOpen ≤ p.vShort then some ([3, p.lane, p.vShort, p.vOpen] : List Int)
    else if 60000 < p.vOpen then some [3, p.lane, p.vOpen, 60000] else none)
  chain.or (current.or thresh)

/-- What a chip is provisioned with, to tell a change (R401). -/
def chipWants (r : Cfg) (l i : Nat) : List Nat :=
  let fx := chipFixtures r l i
  [chipFirst r l i, chipCount r l i, chipZone r l i, (laneChain r l).format, if fx = [] then 0 else epochOf fx,
    bNat (laneString r l)] ++
  (if laneString r l then [(strCfg r l).iset0, (strCfg r l).iset1, (strCfg r l).iset2, (strCfg r l).diagI, (strCfg r l).diagPhase, (strCfg r l).phaseStep, (strCfg r l).vOpen, (strCfg r l).vShort,
    fx.foldl (fun m e => max m e.2.channels) 0] else [])

/-- The register words of a lane and of its string settings (R404, R426). -/
def laneWords (r : Cfg) (l : Nat) : List (Nat × Word) :=
  let p := laneCfg r l
  let w (n : Nat) : Word := BitVec.ofNat 32 n
  [(R.LNE_Ln_CFG l, w (bNat (nBit p.flags 0) * 2147483648 + bNat (nBit p.flags 1) * 1073741824 + p.mode % 4 * 268435456 + p.retries % 16 * 16777216 + p.hold)),
   (R.LNE_Ln_TURN l, w p.turn), (R.LNE_Ln_ASYM l, BitVec.ofInt 32 p.asym), (R.LNE_Ln_ACK_TO l, w p.ackTimeout)]

def strWords (r : Cfg) (l : Nat) : List (Nat × Word) :=
  let q := strCfg r l
  let w (n : Nat) : Word := BitVec.ofNat 32 n
  [(R.STR_Ln_CFG l, w (q.phaseStep * 65536 + q.diagI * 256 + q.diagPhase % 64)), (R.STR_Ln_ISET01 l, w (q.iset1 * 65536 + q.iset0)),
   (R.STR_Ln_ISET2 l, w q.iset2), (R.STR_Ln_VTH l, w (q.vOpen * 65536 + q.vShort))]

def laneGlobalWords (r : Cfg) : List (Nat × Word) :=
  [(R.LNE_LATCH_TARGET, BitVec.ofNat 32 r.laneGlobal.target), (R.LNE_COLLECT, BitVec.ofNat 32 r.laneGlobal.collect)]

def setWords (l : List (Nat × Word)) (s : State) : State := l.foldl (fun x e => setReg e.1 e.2 x) s

/-- The registers in force hold these words. -/
def wordsStand (s : State) (l : List (Nat × Word)) : Bool := l.all (fun e => regF s e.1 == e.2)

/-- The registers of LNE and STR as the messages of a configuration set them; the advance of the lanes is Λ (R385). -/
def lneShadow (r : Cfg) (s : State) : State :=
  (List.range 32).foldl (fun x l => setWords (laneWords r l ++ strWords r l) x)
    (setWords (laneGlobalWords r) (setReg R.ALM_ADV_LANE (BitVec.ofNat 32 r.laneGlobal.target) s))

/-- What a diagnostic write left in the registers of lanes and strings in force joins the configuration (R61, R404, R426). -/
def laneFold (s : State) (r : Cfg) (l : Nat) : Cfg :=
  if wordsStand s (laneWords r l) then r
  else
    let c := regF s (R.LNE_Ln_CFG l)
    { r with lanes := aPut r.lanes l ⟨l, bNat (bitOf c 31) + 2 * bNat (bitOf c 30), bits c 29 28, bits c 27 24, (regF s (R.LNE_Ln_TURN l)).toNat,
        signed 32 (regF s (R.LNE_Ln_ASYM l)).toNat, (regF s (R.LNE_Ln_ACK_TO l)).toNat, bits c 15 0⟩ }

def strFold (s : State) (r : Cfg) (l : Nat) : Cfg :=
  if wordsStand s (strWords r l) then r
  else
    let c := regF s (R.STR_Ln_CFG l)
    let i := regF s (R.STR_Ln_ISET01 l)
    let v := regF s (R.STR_Ln_VTH l)
    { r with strLanes := aPut r.strLanes l ⟨l, bits c 5 0, bits c 15 8, bits c 31 16, bits i 15 0, bits i 31 16, bits (regF s (R.STR_Ln_ISET2 l)) 15 0,
        bits v 31 16, bits v 15 0⟩ }

def lneFold (s : State) (r : Cfg) : Cfg :=
  let g := if wordsStand s (laneGlobalWords r) then r
    else { r with laneGlobal := ⟨(regF s R.LNE_LATCH_TARGET).toNat, bits (regF s R.LNE_COLLECT) 13 0⟩ }
  (List.range 32).foldl (fun x l => strFold s (laneFold s x l) l) g

/-- Chips past a chain's new length are gone, and a ranging leaves them out (R380, R385). -/
def chainTrim (l n : Nat) (s : State) : State :=
  modLane l (fun y => { y with
    chips := y.chips.filter (fun c => decide (c.1 < n)), queue := y.queue.filter (fun c => decide (c.chip < n))
    range := y.range.map (fun g => { g with todo := g.todo.filter (fun i => decide (i < n)), done := g.done.filter (fun e => decide (e.1 < n)) })
    rangeOut := y.rangeOut.filter (fun o => decide (o.chip < n)) }) s

/-- The lane's chips are being provisioned, or have been. -/
def laneProvisioned (x : Lane) : Bool := laneRuns? x || (x.state == .ranging && x.range.isNone)

/-- A commit tagged k is in force at the lanes: lanes go on and off, changed chips are provisioned, those beyond a break too (R398, R401). A lane that
is still ranged is provisioned once that ends. `s.cfgB` is the new one. -/
def lneConfigure (old : Cfg) (k : Int) (s : State) : State :=
  let r := s.cfgB
  let lane (x : State) (l : Nat) : State :=
    let was := laneOn old l
    let now := laneOn r l
    if now = false then laneOff l 3 x
    else if was = false ∨ (laneCfg old l).mode ≠ (laneCfg r l).mode ∨ (laneOf x l).state = .off then laneTrain l 3 x
    else
      let st := if laneRuns? (laneOf x l) then (if (laneOf x l).seen < chainLen r l then LaneState.folded else .up) else (laneOf x l).state
      let x1 := if chainLen old l = chainLen r l then x else laneEnter l st (laneOf x l).seen 3 (chainTrim l (chainLen r l) x)
      let changed := if laneProvisioned (laneOf x1 l) then (List.range (chainLen r l)).filter (fun i => chipWants old l i != chipWants r l i) else []
      let when_ (i : Nat) : Option Int := if s.time.running ∧ chipZone r l i < 256 then some (windowAt s (chipZone r l i) k) else none
      let x2 := changed.foldl (fun y i => provision l i (when_ i) (if s.time.running then some k else none) y) x1
      let moved := if old.laneGlobal.target = r.laneGlobal.target then []
        else (laneOf x2 l).chips.filterMap (fun c => c.2.d.map (fun d => (c.1, d, c.2.unstable)))
      rangeNext l (ctrlSend l (moved.foldl (rangeApply l true) x2))
  (List.range 32).foldl lane s

/-- Show time starts: BLOCK and REPEAT go to every chip of a string lane; one that does not acknowledge them gets them when it returns, and a lane that
is still ranged when it is provisioned (R411). -/
def lneStart (s : State) : State :=
  let lane (x : State) (l : Nat) : State :=
    if laneString x.cfgB l = true ∧ laneProvisioned (laneOf x l) = true then
      ctrlSend l ((List.range (chainLen x.cfgB l)).foldl (fun y i =>
        ctrlQueue l i (.commit (chipEpoch y l i)) .provision none none (ctrlQueue l i (.write 0x110 (blockBytes y)) .provision none none y)) x)
    else x
  (List.range 32).foldl lane s

def lneStop (s : State) : State :=
  { s with lanes := vMap s.lanes (fun x => { x with jobs := [], chips := x.chips.map (fun c => (c.1, { c.2 with lostK := none })) }) }

/-! Commands (R387, R403). -/

def execLaneRange (c : Call) (mask chip : Nat) (s : State) : Out :=
  command 0x0463 c s fun s =>
    let ls := (List.range 32).filter (nBit mask)
    let ready (l : Nat) : Bool := laneRuns? (laneOf s l) || ((laneOf s l).state == .fault && chip == 0xFFFF)
    if ls = [] then refuse .invalidParameter s
    else if ls.all ready = false then refuse .notReady s
    else if chip ≠ 0xFFFF ∧ ls.any (fun l => decide (chainLen s.cfgB l ≤ chip)) then refuse .notFound s
    else
      let go (x : State) (l : Nat) : State :=
        if chip ≠ 0xFFFF then (if chip < reachable x l then rangeStart l false false [chip] x else x)
        else
          let x1 := if (laneOf x l).state = .fault then laneEnter l .ranging (laneOf x l).seen 3 x else x
          rangeStart l true false (List.range (reachable x l)) x1
      accept (ls.foldl go s)

def execLaneStatusGet (c : Call) (lane : Nat) (s : State) : Out :=
  command 0x0464 c s fun s =>
    if 31 < lane then refuse .invalidParameter s
    else
      let x := laneOf s lane
      answer 48 [lane, laneCode x.state, chainLen s.cfgB lane, x.seen, dMax x, chainTotal s.cfgB lane, laneBusy s.cfgB lane,
        regN s (R.LNE_Ln_CNT_LATE lane), regN s (R.LNE_Ln_CNT_RETRY lane), regN s (R.LNE_Ln_CNT_UNREACH lane),
        (x.chips.filter (fun e => e.2.stale)).length, x.rangedAt] s

/-- A chip that a host command names. -/
def chipCheck (s : State) (lane chip : Nat) : Option Status :=
  if 31 < lane then some .invalidParameter
  else if laneRuns? (laneOf s lane) = false then some .notReady
  else if chainLen s.cfgB lane ≤ chip then some .notFound else none

def execLaneChipWrite (c : Call) (lane chip addr : Nat) (data : List (BitVec 8)) (s : State) : Out :=
  command 0x0465 c s fun s =>
    if addr < 0x1000 ∨ 0xFFFF < addr ∨ data.length < 4 ∨ 228 < data.length ∨ data.length % 4 ≠ 0 then refuse .invalidParameter s
    else match chipCheck s lane chip with
      | some e => refuse e s
      | none => (ctrlSend lane (ctrlQueue lane chip (.write addr data) (.hostWrite (some c)) none none s), ⟨.pending, 0, []⟩)

def execLaneChipRead (c : Call) (lane chip addr : Nat) (s : State) : Out :=
  command 0x0466 c s fun s =>
    if 0xFFFF < addr then refuse .invalidParameter s
    else match chipCheck s lane chip with
      | some e => refuse e s
      | none => (ctrlSend lane (ctrlQueue lane chip (.read addr) (.hostRead (some c)) none none s), ⟨.pending, 0, []⟩)

/-! Registers (R404). -/

def laneMask (f : Lane → Bool) (s : State) : Word := BitVec.ofNat 32 (((List.range 32).filter (fun l => f (laneOf s l))).map (fun l => 2 ^ l)).sum

def viewLne (s : State) (a : Nat) : Option Word :=
  let o := pageOff a
  if o < 0x1000 then
    match o with
    | 0x000 => some (BitVec.ofNat 32 (bNat s.time.running))
    | 0x00C => some (laneMask (fun x => x.state == .up) s)
    | 0x010 => some (laneMask (fun x => x.state == .folded) s)
    | 0x014 => some (laneMask (fun x => x.state == .fault) s)
    | _ => none
  else
    let l := (o - 0x1000) / 0x80
    let x := laneOf s l
    let c := chipOf s l (bits (reg s (R.LNE_Ln_RANGE_IDX l)) 9 0)
    match (o - 0x1000) % 0x80 with
    | 0x04 =>
      let whole := match x.range with
        | some g => g.whole
        | none => false
      some (BitVec.ofNat 32 (laneCode x.state * 536870912 + bNat whole * 268435456 + x.seen * 65536 + chainLen s.cfgB l))
    | 0x14 => some (BitVec.ofInt 32 (dMax x))
    | 0x18 => some (BitVec.ofNat 32 (chainTotal s.cfgB l))
    | 0x1C => some (BitVec.ofNat 32 (laneBusy s.cfgB l))
    | 0x24 => some (match c.d with
      | some d => BitVec.ofInt 32 d
      | none => 0xFFFFFFFF)
    | 0x28 => some (BitVec.ofNat 32 (bNat c.acked * 2147483648 + bNat c.unstable * 1073741824 + c.units))
    | 0x58 => some (loWord x.lastSync)
    | 0x5C => some (hiWord x.lastSync)
    | _ => none

end Sys2Proof.Machine
end

