-- ==== Sys2Proof/Machine/Routes.lean ====
section
/-! DEFINITION. Routes (08_fixture_map.md R281 to R287, 14_show_protocols.md): where the elements of a fixture go, segments, tiles and mapping time,
and the checks of the fixture map that need them. -/

namespace Sys2Proof.Machine

/-! Elements (R283, R287, R299, R475). -/

def blankAttr : AttrDesc := ⟨0, 0, [0, 0, 0, 0], [0, 0, 0, 0]⟩
def attrOf (r : Cfg) (d : Nat) : AttrDesc := aGet r.attrs d blankAttr

/-- Slots or bytes a control channel takes: 2 where wide, coarse first. -/
def attrWidth (r : Cfg) (d : Nat) : Nat := if nBit (attrOf r d).ctrl 2 then 2 else 1
def attrSlots (r : Cfg) (f : FixtureEntry) : Nat := ((List.range f.channels).map (fun c => attrWidth r (f.attrRef + c))).sum

/-- Flow context and first slot or offset of classes 3 and 4 (R282). -/
def routeFlow (f : FixtureEntry) : Nat := f.routeB / 262144 % 16384
def routeFirst (f : FixtureEntry) : Nat := f.routeB % 262144

/-- Pixels of an E1.31 surface in its first flow context and in each after it (R287). -/
def e131Head (f : FixtureEntry) : Nat := (513 - routeFirst f) / max 1 f.channels
def e131Body (f : FixtureEntry) : Nat := 512 / max 1 f.channels

/-- Flow contexts an E1.31 surface uses. -/
def e131Flows (f : FixtureEntry) : Nat := 1 + ceilDiv (fixPixels f - e131Head f) (max 1 (e131Body f))

/-- The pieces of an E1.31 surface: flow context, first slot, first route index, pixels. -/
def e131Spans (f : FixtureEntry) : List (Nat × Nat × Nat × Nat) :=
  (List.range (e131Flows f)).map (fun j =>
    if j = 0 then (routeFlow f, routeFirst f, 0, min (e131Head f) (fixPixels f))
    else
      let at_ := e131Head f + (j - 1) * e131Body f
      (routeFlow f + j, 1, at_, min (e131Body f) (fixPixels f - at_)))

/-- Bytes of a fixture on Unbex-over-Ethernet (R475). -/
def uoeBytes (r : Cfg) (f : FixtureEntry) : Nat := if f.kind = 1 then 6 * fixPixels f else attrSlots r f

/-- Slots of a fixture on a DMX port. -/
def dmxSlots (r : Cfg) (f : FixtureEntry) : Nat := if f.kind = 1 then f.channels * fixPixels f else attrSlots r f

/-- What a fixture occupies: space (class and port, flow, node or group), first element and count. Lanes of both classes are one space. -/
def occupies (r : Cfg) (f : FixtureEntry) : List (Nat × Nat × Nat) :=
  match routeClass f with
  | 1 | 2 => [(100000 + routePort f, f.routeB, fixPixels f)]
  | 3 => if f.kind = 1 then (e131Spans f).map (fun x => (200000 + x.1, x.2.1, x.2.2.2 * f.channels))
    else [(200000 + routeFlow f, routeFirst f, attrSlots r f)]
  | 4 => [(200000 + routeFlow f, routeFirst f, uoeBytes r f)]
  | 5 => [(300000 + routePort f, f.routeB, dmxSlots r f)]
  | 6 => [(400000 + f.routeB % 65536, 0, 1)]
  | 7 => [(500000 + f.routeB % 4096, 0, 1)]
  | _ => []

/-- Two pieces have an element in common. -/
def overlap (a b : Nat × Nat × Nat) : Bool := a.1 == b.1 && a.2.2 != 0 && b.2.2 != 0 && decide (a.2.1 < b.2.1 + b.2.2) && decide (b.2.1 < a.2.1 + a.2.2)

def shares (r : Cfg) (f g : FixtureEntry) : Bool := (occupies r f).any (fun a => (occupies r g).any (overlap a))

/-! Flows in force. -/

def flowOf (r : Cfg) (n : Nat) : Option FlowCtx := aFind r.flows n
def flowOn (p : FlowCtx) : Bool := nBit p.flags 0 && p.protocol != 0
def flowIs (r : Cfg) (n proto : Nat) : Bool :=
  match flowOf r n with
  | some p => flowOn p && p.protocol == proto
  | none => false

/-- Fixtures that route to a flow. -/
def uses (f : FixtureEntry) (n : Nat) : Bool :=
  match routeClass f with
  | 3 => if f.kind = 1 then decide (routeFlow f ≤ n) && decide (n < routeFlow f + e131Flows f) else routeFlow f == n
  | 4 => routeFlow f == n
  | _ => false

def flowFixtures (r : Cfg) (n : Nat) : List (Nat × FixtureEntry) := (liveFixtures r).filter (fun e => uses e.2 n)

/-- A flow's zone, none for a flow that no fixture uses (R463). -/
def flowZone (r : Cfg) (n : Nat) : Option Nat := (flowFixtures r n).head?.map (fun e => e.2.zone)

def dmxOf (r : Cfg) (p : Nat) : DmxPortSet := aGet r.dmx p ⟨p, 0, 0, 8, 176, 16, 0, 0, 0⟩
def dmxFixtures (r : Cfg) (p : Nat) : List (Nat × FixtureEntry) := (liveFixtures r).filter (fun e => routeClass e.2 == 5 && routePort e.2 == p)
def dmxZone (r : Cfg) (p : Nat) : Option Nat := (dmxFixtures r p).head?.map (fun e => e.2.zone)

/-- Data bytes per UoE packet, and the bytes routed on a flow per frame (R464). -/
def uoeSize (p : FlowCtx) : Nat := max 48 p.size
def frameBytes (r : Cfg) (n : Nat) : Nat :=
  (flowFixtures r n).foldl (fun m e => max m (routeFirst e.2 + uoeBytes r e.2)) 0

/-- A fixture's route fits (R282, R283). -/
def routeFits (s : State) (r : Cfg) (f : FixtureEntry) : Bool :=
  let surface := f.kind == 1
  match routeClass f with
  | 1 => surface && laneRouteFits r f
  | 2 => surface && laneRouteFits r f
  | 3 => routePort f == 0 && decide (1 ≤ routeFirst f) && decide (routeFirst f ≤ 512) &&
      (if surface then decide (routeFlow f + e131Flows f ≤ 16384) && (e131Spans f).all (fun x => x.2.2.2 == 0 || flowIs r x.1 1)
       else decide (routeFirst f + attrSlots r f ≤ 513) && flowIs r (routeFlow f) 1)
  | 4 => routePort f == 0 && (flowIs r (routeFlow f) 2 || flowIs r (routeFlow f) 3) && decide (routeFirst f + uoeBytes r f ≤ 262144) &&
      (match flowOf r (routeFlow f) with
       | some p => !(surface && p.protocol == 2) ||
           decide ((routeFirst f + uoeBytes r f - 1) / uoeSize p = routeFirst f / uoeSize p) || routeFirst f % 6 == 0
       | none => false)
  | 5 => decide (routePort f ≤ 15) && decide (1 ≤ f.routeB) && decide (f.routeB + dmxSlots r f ≤ 513)
  | 6 => s.part == .rk9200 && routePort f == 0 && decide (f.routeB < 65536) && (!surface || fixPixels f == 1)
  | 7 => s.part == .rk9200 && routePort f == 0 && decide (f.routeB < 4096) && (!surface || fixPixels f == 1)
  | _ => false

/-- chan_map (R284). -/
def chanMapOk (f : FixtureEntry) : Bool :=
  f.kind == 2 && f.chanMap == 0 || f.kind != 2 && (List.range 4).all (fun n =>
    let v := f.chanMap / 16 ^ n % 16
    if n < f.channels then decide (v < f.channels) else v == 0)

/-! Segments (R292, R293). -/

/-- Route indexes strictly inside a surface at which its flow cuts it. -/
def flowCuts (r : Cfg) (f : FixtureEntry) : List Nat :=
  match routeClass f with
  | 3 => ((e131Spans f).map (fun x => x.2.2.1)).filter (fun i => i != 0)
  | 4 =>
    match flowOf r (routeFlow f) with
    | some p =>
      if p.protocol ≠ 2 then []
      else
        let size := uoeSize p
        let j0 := routeFirst f / size + 1
        let j1 := (routeFirst f + 6 * fixPixels f - 1) / size
        (List.range (j1 + 1 - j0)).map (fun i => ((j0 + i) * size - routeFirst f) / 6)
    | none => []
  | _ => []

def segments (r : Cfg) (f : FixtureEntry) : Nat :=
  if f.kind = 1 then f.rows + ((flowCuts r f).filter (fun i => i % max 1 f.cols != 0)).length else if f.kind = 2 then 1 else 0

def segmentsAll (r : Cfg) : Nat := ((liveFixtures r).map (fun e => segments r e.2)).sum

/-- Fixtures that a draft changes. -/
def changedFixtures (base draft : Cfg) : List (Nat × FixtureEntry) := draft.fixtures.filter (fun e => aFind base.fixtures e.1 != some e.2)

/-- Segments that the changed fixtures compile to (R294), and those in force of them. -/
def segmentsNew (base draft : Cfg) : Nat := ((changedFixtures base draft).map (fun e => segments draft e.2)).sum
def segmentsOld (base draft : Cfg) : Nat :=
  ((changedFixtures base draft).map (fun e => ((aFind base.fixtures e.1).map (segments base)).getD 0)).sum

/-! Tiles and mapping time (R46, R309, R310). -/

/-- Counted clocks per pixel of a kernel, in 1/16 clock (R309). -/
def kernelCost (m : Mapper) (code : Nat) : Nat :=
  match code with
  | 0 | 1 => 120
  | 2 => 192
  | 3 => 160
  | _ => match aFind m.kernels code with
    | some k => ceilDiv (k.image.cost * 15) 14
    | none => 0

/-- Canvas bytes per pixel of a kernel (R280). -/
def kernelBytes (m : Mapper) (code : Nat) : Nat :=
  match code with
  | 0 | 1 => 16
  | 2 => 32
  | 3 => 24
  | _ => match aFind m.kernels code with
    | some k => k.image.canvasBytes
    | none => 0

def effectOn (f : FixtureEntry) : Bool := nBit f.flags 1 && f.effect != 0xFFFF

/-- Kernels and effect programs are told apart in one table: effects from 256. -/
def effectCost (m : Mapper) (r : Cfg) (f : FixtureEntry) : Nat :=
  if effectOn f = false then 0
  else
    let p := ((aFind r.effects f.effect).map EffectRec.program).getD 0
    if p < 128 then 120
    else match aFind m.kernels (256 + p) with
      | some k => ceilDiv (k.image.cost * 15) 14
      | none => 0

/-- Counted clocks of one pixel of a fixture. -/
def pixelCost (m : Mapper) (r : Cfg) (f : FixtureEntry) : Nat :=
  kernelCost m f.kernel + (if f.kind = 2 then f.channels * (60 + effectCost m r f) else effectCost m r f)

/-- Counted clocks of a configuration without the zones in `out`. -/
def mapClocks (m : Mapper) (r : Cfg) (out : List Nat) : Nat :=
  (((liveFixtures r).filter (fun e => !out.contains e.2.zone)).map (fun e => fixPixels e.2 * pixelCost m r e.2)).sum

/-- Counted mapping time on n engines in ns, halves up, and whether it meets a limit exactly (R46). -/
def mapTime (clocks n : Nat) : Nat := (2 * clocks * 5 + 96 * n) / (2 * (96 * max 1 n))
def mapFits (clocks n : Nat) (limit : Int) : Bool := decide ((clocks * 5 : Int) ≤ limit * 96 * n)

/-- T_min − commit lead − A (R45, R46). -/
def mapLimit (s : State) (r : Cfg) : Int := (periodMin s : Int) - commitLead s - 100000 - laneDrain r

/-- The target active count (R306, R307): outside SOAK one less than the powered engines, 7 with cluster B released. -/
def mapRate (s : State) : Nat := if s.map.released then 7 else 15

/-- The same for a commit, which a release asked for concerns too. -/
def mapTarget (s : State) : Nat := if s.map.released || s.map.releaseAsked then 7 else 15

/-- Cuts a fixture into the open tile and full ones (R310): 4,096 pixels or 30,720 counted clocks at most. -/
def cutFixture (fuel zone fx cost first left : Nat) (cur : Tile) (acc : List Tile) : Tile × List Tile :=
  match fuel with
  | 0 => (cur, acc)
  | n + 1 =>
    if left = 0 then (cur, acc)
    else
      let room := min (4096 - cur.pixels) ((491520 - cur.cost) / max 1 cost)
      if room = 0 then cutFixture n zone fx cost first left ⟨zone, [], 0, 0⟩ (acc ++ [cur])
      else
        let take := min room left
        cutFixture n zone fx cost (first + take) (left - take) ⟨zone, cur.parts ++ [⟨fx, first, take⟩], cur.pixels + take, cur.cost + take * cost⟩ acc

def zoneTiles (m : Mapper) (r : Cfg) (z : Nat) : List Tile :=
  let (cur, acc) := (zoneFixtures r z).foldl (fun c e =>
    cutFixture (2 * fixPixels e.2 + 2) z e.1 (pixelCost m r e.2) 0 (fixPixels e.2) c.1 c.2) ((⟨z, [], 0, 0⟩ : Tile), ([] : List Tile))
  if cur.pixels = 0 then acc else acc ++ [cur]

/-- The tile table: zones in the order of R273, without shed zones (R274, R310). -/
def tileTable (m : Mapper) (r : Cfg) (shed : List Nat) : List Tile :=
  ((zonesByPriority r).filter (fun z => !shed.contains z)).flatMap (zoneTiles m r)

/-! Validation (R296). -/

def kindOk (f : FixtureEntry) : Bool :=
  fixEnabled f && match f.kind with
  | 1 => decide (1 ≤ f.channels) && decide (f.channels ≤ 4) && decide (f.calRef ≤ 33554431) && f.attrRef == 0xFFFFFFFF
  | _ => decide (1 ≤ f.channels) && decide (f.channels ≤ 64) && f.cols == 1 && f.rows == 1 && f.calRef == 0xFFFFFFFF && decide (f.attrRef ≤ 65535)

def geometryOk (f : FixtureEntry) : Bool :=
  decide (1 ≤ f.cols) && decide (f.cols ≤ 16384) && decide (1 ≤ f.rows) && decide (f.rows ≤ 16384) && decide (f.cols * f.rows ≤ 1048576)

/-- A loaded kernel or effect that is not disabled may be named; a step of kernel 2 is at most 4.0 on either axis (R280, R321). -/
def kernelOk (m : Mapper) (r : Cfg) (f : FixtureEntry) : Bool :=
  let four (x : Int) : Bool := decide (x.natAbs ≤ 262144)
  let k := match f.kernel with
    | 0 | 1 | 3 => true
    | 2 => f.kind != 1 || (four f.colDx && four f.colDy && four f.rowDx && four f.rowDy)
    | c => decide (128 ≤ c) && (aFind m.kernels c).isSome
  let p := ((aFind r.effects f.effect).map EffectRec.program).getD 0
  k && (!effectOn f || p ≤ 4 || (128 ≤ p && (aFind m.kernels (256 + p)).isSome))

def curveOk (r : Cfg) (f : FixtureEntry) : Bool := if f.kind = 2 then f.curve == 0 else decide (f.curve ≤ 63) && (aFind r.curves f.curve).isSome

def descOk (d : AttrDesc) : Bool :=
  decide (d.ctrl % 4 ≠ 3) && d.src.all (fun w => decide (w / 536870912 % 8 ≤ 4)) && d.prio.all (fun p => decide (p ≤ 200) || p == 0xFF)

def attrOk (r : Cfg) (f : FixtureEntry) : Bool :=
  f.kind != 2 || (decide (f.attrRef + f.channels ≤ 65536) && (List.range f.channels).all (fun c => descOk (attrOf r (f.attrRef + c))))

/-- Per-fixture checks 1 to 9 of one check number: the first failing fixture, the other fixture or amount, the limit. -/
def fixCheck (s : State) (r : Cfg) (code n : Nat) (f : FixtureEntry) : Option (Nat × Nat) :=
  let fail (ok : Bool) (req lim : Nat) : Option (Nat × Nat) := if ok then none else some (req, lim)
  match code with
  | 1 => fail (zoneEnabled r f.zone) f.zone 0
  | 2 => fail (kindOk f) f.kind 2
  | 3 => fail (geometryOk f) (f.cols * f.rows) 1048576
  | 4 => fail (kernelOk s.map r f) f.kernel 0
  | 5 => fail (curveOk r f) f.curve 63
  | 6 => fail (routeFits s r f && chanMapOk f &&
      (!(routeClass f == 1 || routeClass f == 2) || (chipsOneZone r (routePort f) && laneBusyOk s r (routePort f)))) (routeClass f) 0
  | 7 => match (liveFixtures r).find? (fun e => e.1 != n && shares r f e.2) with
    | some e => some (e.1, 0)
    | none => none
  | 8 => fail (f.kind != 1 || decide (f.calRef + f.cols * f.rows - 1 ≤ 33554431)) (f.calRef + f.cols * f.rows - 1) 33554431
  | 9 => fail (attrOk r f) (f.attrRef + f.channels - 1) 65535
  | _ => none

/-- Fixtures of a kind above 2 are checked too. -/
def checkedFixtures (r : Cfg) : List (Nat × FixtureEntry) := r.fixtures.filter (fun e => e.2.kind != 0)

/-- The oldest frame of a zone whose SYNC has not yet launched (R129). -/
def oldestFrame (s : State) (z : Nat) : Int :=
  let mine (l : List (Nat × Int)) : List Int := (l.filter (fun e => e.1 == z)).map Prod.snd
  let waiting := ((aFind s.alm.sync z).map SyncEntry.k).toList ++ s.alm.armed.flatMap (fun a => mine a.zones) ++
    s.alm.launch.flatMap (fun e => mine e.zones)
  let next := ((aFind s.alm.release z).map ReleaseEntry.k).getD s.time.fcount
  waiting.foldl min next

/-- The delays that frames of a zone not yet launched still have, or will have by accepted commits (R129). -/
def delaysLive (s : State) (z : Nat) : List Nat :=
  let l := aGet s.alm.delays z []
  let k0 := oldestFrame s z
  (l.filter (fun d => decide (k0 < d.1)) ++ (l.find? (fun d => decide (d.1 ≤ k0))).toList).map Prod.snd

/-- n_z in force: the largest among the frames not yet launched (R128, R129). -/
def slotsHeld (s : State) (z : Nat) : Nat := if s.time.running then ((delaysLive s z).map (slotsFor s)).foldl max 0 else 0

/-- Frames of a zone are still to launch: judged and on their way, or still to be judged. -/
def framesLeft (s : State) (z : Nat) : Bool :=
  (aFind s.alm.release z).isSome || (aFind s.alm.sync z).isSome || s.alm.armed.any (fun a => a.zones.any (fun e => e.1 == z)) ||
    s.alm.launch.any (fun e => e.zones.any (fun x => x.1 == z))

/-- Pool occupancy in units of 64 KiB (R128, R129): the zones of the configuration, and those it no longer enables while frames of theirs are
still to launch. -/
def poolNeed (s : State) (r : Cfg) : Nat :=
  ((zonesOn r).map (fun z => max (slotsFor s (zoneOf r z).delay) (slotsHeld s z) * slotUnits (zonePixels r z))).sum +
    (((List.range 256).filter (fun z => !zoneEnabled r z && framesLeft s z)).map (fun z =>
      slotsHeld s z * slotUnits (zonePixels (frameCfg s z (oldestFrame s z)) z))).sum

/-- Pixels per second against 2,013,265,920 (R49). -/
def pixelsOk (s : State) (r : Cfg) : Bool :=
  decide (showPixels r * s.time.rateN ≤ 2013265920 * s.time.rateD)

/-- The checks of R296 in their order: cause, fixture, other fixture or required, limit. -/
def fxmReject (s : State) (base draft : Cfg) : Option (List Int) :=
  let fx := checkedFixtures draft
  let per := (List.range 9).findSome? (fun i => fx.findSome? (fun e =>
    if i ≠ 1 ∧ fixEnabled e.2 = false then none
    else (fixCheck s draft (i + 1) e.1 e.2).map (fun x => ([(i + 1 : Int), e.1, x.1, x.2] : List Int))))
  let all (code req lim : Nat) : Option (List Int) := some [code, 0xFFFFFFFF, req, lim]
  let n := (changedFixtures base draft).length
  let a := (draft.attrs.filter (fun e => aFind base.attrs e.1 != some e.2)).length
  let busy := s.time.running && (s.power.mode == .show || s.power.mode == .spare)
  let segs := segmentsAll draft - segmentsNew base draft + segmentsOld base draft + segmentsNew base draft
  let clocks := mapClocks s.map draft []
  if per.isSome then per
  else if busy = true ∧ 32768 < n then all 10 n 32768
  else if busy = true ∧ 8192 < a then all 10 a 8192
  else if 1048576 < segs then all 11 segs 1048576
  else if pixelsOk s draft = false then all 12 (ceilDiv (showPixels draft * s.time.rateN) (max 1 (s.time.rateD))) 2013265920
  else if mapFits clocks (mapTarget s) (mapLimit s draft) = false then all 13 (mapTime clocks (mapTarget s)) (mapLimit s draft).toNat
  else if s.alm.poolMib * 16 < poolNeed s draft then all 14 (ceilDiv (poolNeed s draft) 16) s.alm.poolMib
  else none

/-! FIXTURE_GET (R303). -/

def entryFields (r : Cfg) (s : State) (n : Nat) : List Int :=
  let f := aGet r.fixtures n blankFixture
  [f.kind, f.flags, f.zone, f.curve, f.kernel, f.channels, f.chanMap, f.cols, f.rows, f.originX, f.originY, f.colDx, f.colDy, f.rowDx, f.rowDy,
   f.routeA, f.routeB, f.calRef, f.attrRef, f.effect, f.epoch, segments r f,
   bNat (aFind s.fxm.stale n).isSome + 2 * bNat (fixEnabled f && isShed s f.zone)]

def execFixtureGet (c : Call) (first count : Nat) (s : State) : Out :=
  command 0x0431 c s fun s =>
    if count < 1 ∨ 1024 < count ∨ 131072 < first + count then refuse .invalidParameter s
    else answer (8 + 72 * count) ([(first : Int), count] ++ (List.range count).flatMap (fun i => entryFields s.cfgB s (first + i))) s

end Sys2Proof.Machine
end

