-- ==== Sys2Proof/Machine/Packets.lean ====
section
/-! DEFINITION. Packet engines, flows, sync packets, receive universes, DMX ports and RDM (14_show_protocols.md). -/

namespace Sys2Proof.Machine

def modPkt (f : Pkt → Pkt) (s : State) : State := { s with pkt := f s.pkt }
def dmxPort (s : State) (p : Nat) : DmxPort := vGet s.dmx p DmxPort.reset
def modDmx (p : Nat) (f : DmxPort → DmxPort) (s : State) : State := { s with dmx := vMod s.dmx p f }

/-! Flows and engines (R463 to R467). -/

/-- Enabled flows in ascending order. -/
def flowsOn (r : Cfg) : List (Nat × FlowCtx) := r.flows.filter (fun e => flowOn e.2)

/-- A VLAN tag adds 4 bytes. -/
def tagBytes (p : FlowCtx) : Nat := if p.vlan = 0xFFFF then 0 else 4

/-- E1.31 slots sent (R464). -/
def e131Size (p : FlowCtx) : Nat := if p.size = 0 then 512 else p.size

/-- Frame lengths of a flow's packets in one frame (R472, R475, R476): an E1.31 data frame of 512 slots is 684 bytes. -/
def flowLens (r : Cfg) (n : Nat) (p : FlowCtx) : List Nat :=
  if (flowZone r n).isNone then []
  else match p.protocol with
    | 1 => [172 + e131Size p + tagBytes p]
    | 2 =>
      let total := frameBytes r n
      (List.range (ceilDiv total (uoeSize p))).map (fun j => 82 + min (uoeSize p) (total - j * uoeSize p) + tagBytes p)
    | _ => [46 + min 8880 (frameBytes r n) + tagBytes p]

/-- The load of a flow in 1/16 ns: 64 ns per packet and 1 ns per 16 bytes (R465). -/
def flowLoad (r : Cfg) (n : Nat) (p : FlowCtx) : Nat := ((flowLens r n p).map (fun l => 1024 + l)).sum

/-- The engine of the least load not left out, ties to the lower. -/
def leastLoad (out : List Nat) (loads : List Nat) : Nat :=
  ((List.range 8).foldl (fun (best : Option Nat) e =>
    if out.contains e then best
    else match best with
      | none => some e
      | some b => if loads.getD e 0 < loads.getD b 0 then some e else some b) none).getD 0

/-- The assignment of R465: engine by flow, and the loads. -/
def assignFlows (r : Cfg) (out : List Nat) : SMap Nat × List Nat :=
  (flowsOn r).foldl (fun a e =>
    let i := leastLoad out a.2
    (aPut a.1 e.1 i, a.2.mapIdx (fun j l => if j = i then l + flowLoad r e.1 e.2 else l))) (([] : SMap Nat), List.replicate 8 0)

def flowEngine (s : State) (r : Cfg) (n : Nat) : Nat := aGet (assignFlows r s.pkt.excluded).1 n 0
def engineOf (s : State) (e : Nat) : PktEngine := vGet s.pkt.engines e ⟨false, false, false⟩

/-- A flow's engine runs, and its user code where it has one (R486, R487). -/
def flowRuns (s : State) (r : Cfg) (n : Nat) (p : FlowCtx) : Bool :=
  let e := engineOf s (flowEngine s r n)
  !e.failed && (p.protocol != 3 || (s.pkt.code.isSome && !e.userOff))

def flowPrio (p : FlowCtx) : Nat := if p.prio = 0xFF then 3 else p.prio % 8
def flowQueue (p : FlowCtx) : Nat := if nBit p.flags 2 then p.queue % 8 else 7 - flowPrio p

/-! Bytes of routes (R283, R299, R355, R475). -/

/-- The bytes a fixture sends on an 8-bit route, from element `first` on: its pixels' channels or its control channels. -/
def slotBytes (r : Cfg) (f : FixtureEntry) (v : SMap Nat) (first count : Nat) : List Nat :=
  if f.kind = 1 then (List.range count).flatMap (fun i => (List.range f.channels).map (fun c => aGet v (first + i) 0 / 256 ^ c % 256))
  else (List.range f.channels).flatMap (fun c =>
    let x := aGet v c 0 % 65536
    if attrWidth r (f.attrRef + c) = 2 then [x / 256, x % 256] else [x / 256])

/-- The bytes a fixture sends on Unbex-over-Ethernet. -/
def uoeRoute (r : Cfg) (f : FixtureEntry) (v : SMap Nat) : List Nat :=
  if f.kind = 1 then (List.range (fixPixels f)).flatMap (fun i => (List.range 6).map (fun b => aGet v i 0 / 256 ^ b % 256))
  else slotBytes r f v 0 0

/-- Bytes put into a list of zeros at an offset. -/
def overlay (l : List Nat) (at_ : Nat) (b : List Nat) : List Nat := l.take at_ ++ b.take (l.length - at_) ++ l.drop (at_ + b.length)

/-- Slots 1 to n of an E1.31 flow (R285). -/
def e131Slots (p : PoolFrame) (n size : Nat) : List Nat :=
  (flowFixtures p.cfg n).foldl (fun l e =>
    let v := aGet p.values e.1 []
    if e.2.kind = 1 then ((e131Spans e.2).filter (fun x => x.1 == n)).foldl (fun m x => overlay m (x.2.1 - 1) (slotBytes p.cfg e.2 v x.2.2.1 x.2.2.2)) l
    else overlay l (routeFirst e.2 - 1) (slotBytes p.cfg e.2 v 0 0)) (List.replicate size 0)

def uoeData (p : PoolFrame) (n : Nat) : List Nat :=
  (flowFixtures p.cfg n).foldl (fun l e => overlay l (routeFirst e.2) (uoeRoute p.cfg e.2 (aGet p.values e.1 []))) (List.replicate (frameBytes p.cfg n) 0)

/-- A DMX port's slots, and how many it sends (R479, R480, R285). -/
def dmxHighest (r : Cfg) (p : Nat) : Nat := (dmxFixtures r p).foldl (fun m e => max m (e.2.routeB + dmxSlots r e.2 - 1)) 0
def dmxCount (r : Cfg) (p : Nat) : Nat := if (dmxOf r p).slots = 0 then clampN 24 512 (dmxHighest r p) else (dmxOf r p).slots
def dmxData (p : PoolFrame) (port : Nat) : List Nat :=
  (dmxFixtures p.cfg port).foldl (fun l e => overlay l (e.2.routeB - 1) (slotBytes p.cfg e.2 (aGet p.values e.1 []) 0 (fixPixels e.2)))
    (List.replicate (dmxCount p.cfg port) 0)

/-! Headers (R464, R466, R472, R475). -/

/-- The multicast address of a universe (R472). -/
def universeIp (u : Nat) : Nat := 0xEFFF0000 + u % 65536

/-- The destination of a flow: its own, or its protocol's default. No rule gives one for Unbex-over-Ethernet. -/
def flowIp (p : FlowCtx) : Nat :=
  if p.dstIp ≠ 0 then p.dstIp
  else match p.protocol with
    | 1 => universeIp p.ident
    | 2 => Config.headFree 3 % 4294967296
    | _ => 0

def defaultUdp (protocol : Nat) : Nat :=
  match protocol with
  | 1 => 5568
  | 2 => 47710
  | _ => 0

/-- The header of a flow's frames; the source addresses are those of the port that sends them. -/
def flowHead (p : FlowCtx) : NetHead :=
  let ip := flowIp p
  ⟨0, if p.dstMac = 0 ∧ isGroup ip = true then groupMac ip else p.dstMac, 0, ip, p.srcUdp, if p.dstUdp = 0 then defaultUdp p.protocol else p.dstUdp, p.ttl, p.dscp,
    if p.vlan = 0xFFFF then none else some p.vlan⟩

/-- The header of a frame to a group that is no flow's: the TTL, the DSCP and the source port are free. -/
def groupHead (ip udp : Nat) : NetHead :=
  ⟨0, groupMac ip, 0, ip, Config.headFree 2 % 65536, udp, Config.headFree 0 % 256, Config.headFree 1 % 64, none⟩

/-! Packets (R472, R476). -/

def nextSeq (m : SMap Nat) (k : Nat) : Nat := aGet m k 0

/-- Pixels of the fixtures that a flow carries. -/
def flowPixels (r : Cfg) (n : Nat) : Nat := ((flowFixtures r n).map (fun e => fixPixels e.2)).sum

/-- Frames that carry a flow's frame k, and the state with its sequence numbers moved on. The payload that user code writes is free, of at most 8,880
bytes, and so is the alive value that it takes on its engine's CHK channel (R152, R486; log entry 20). -/
def flowFrames (n : Nat) (p : FlowCtx) (pf : PoolFrame) (deadline : Option Int) (s : State) : List TxFrame × State :=
  let q := flowQueue p
  let data : Option TxData := some ⟨pf.zone, pf.k, flowPixels pf.cfg n⟩
  let frame (len : Nat) (c : TxContent) (b : List (BitVec 8)) : TxFrame := ⟨len + tagBytes p, q, deadline, data, none, c, some (flowHead p), b⟩
  match p.protocol with
  | 1 =>
    let sq := nextSeq s.pkt.seqs p.ident
    let sync := if nBit p.flags 1 then 0 else p.syncId
    let slots := e131Slots pf n (e131Size p)
    ([frame (172 + e131Size p) (.e131 n p.ident sq sync p.e131Prio false slots) (e131DataPacket s.pkt.global p.ident sq sync p.e131Prio false slots)],
      modPkt (fun x => { x with seqs := aPut x.seqs p.ident ((sq + 1) % 256) }) s)
  | 2 =>
    let d := uoeData pf n
    let count := ceilDiv d.length (uoeSize p)
    let four := (flowFixtures pf.cfg n).any (fun e => e.2.kind == 1 && e.2.channels == 4)
    ((List.range count).map (fun j =>
      let b := (d.drop (j * uoeSize p)).take (uoeSize p)
      let flags := bNat (j + 1 == count) + 2 * bNat four
      frame (82 + b.length) (.uoe n p.ident pf.zone flags (j * uoeSize p) j count (unsignedOf 32 pf.k) (syncAt s pf.zone pf.k) b)
        (uoePacket p.ident pf.zone flags pf.k (j * uoeSize p) j count (syncAt s pf.zone pf.k) b)), s)
  | _ =>
    let len := (drawn s).natAbs % 8881
    ([frame (max 64 (46 + len)) (.user n s.free) ((List.range len).map (Config.userByte s.free))],
      draw (modPkt (fun x => { x with userAlive := aPut x.userAlive n ((drawn s).natAbs / 8881 % 65536) }) s))

def trapClear (e : Nat) (s : State) : State := modPkt (fun p => { p with engines := vMod p.engines e (fun x => { x with trapped := false }) }) s

/-- A packet-work descriptor is executed: the flow's packets go to the MAC, or are not sent: its engine has failed, or its code overran or faulted on
them (R467, R486, R487). -/
def flowWork (n : Nat) (d : Descriptor) (s : State) : State :=
  match poolFrame s d.zone d.frame with
  | none => zoneLate 1 d.zone d.frame 0 s
  | some pf =>
    match flowOf pf.cfg n with
    | none => s
    | some p =>
      let lens := flowLens pf.cfg n p
      let e := flowEngine s pf.cfg n
      if flowRuns s pf.cfg n p = false then zoneLate 1 d.zone d.frame (flowPixels pf.cfg n) s
      else if p.protocol = 3 ∧ (engineOf s e).trapped = true then zoneLate 1 d.zone d.frame (flowPixels pf.cfg n) (trapClear e s)
      else
        let (all, s1) := flowFrames n p pf d.deadline s
        let fs := (((List.range all.length).zip all).filter (fun f => !outputBad s n (some f.1) [6])).map Prod.snd
        let s2 := fs.foldl (fun x f => macSend p.port f x) (outputClear n [6] s1)
        bumpBy (R.PKT_En_CNT_PKTS e) lens.length (bumpBy R.PKT_CNT_TX fs.length s2)

/-- Packets of a flow discarded at their deadline (R44, R122). -/
def flowLate (n : Nat) (d : Descriptor) (s : State) : State :=
  let r := frameCfg s d.zone d.frame
  let lens := ((flowOf r n).map (flowLens r n)).getD []
  zoneLate 1 d.zone d.frame (flowPixels r n)
    (setFlag R.PKT_INT_STAT 0 (bumpBy R.PKT_CNT_LATE lens.length s))

/-- The port's frame buffer takes frame k (R481). -/
def dmxWork (p : Nat) (d : Descriptor) (s : State) : State :=
  match poolFrame s d.zone d.frame with
  | some pf => modDmx p (fun x => { x with buffer := dmxData pf p, bufferK := some d.frame }) s
  | none => zoneLate 1 d.zone d.frame 0 s

/-! Release of a zone's work (R125, R467, R480). -/

/-- q of R480, in µs of frame time: break, MAB and n + 1 slots. -/
def dmxFrameUs (r : Cfg) (p : Nat) : Nat :=
  let d := dmxOf r p
  d.breakUs + d.mabUs + (dmxCount r p + 1) * (44 + d.mbsUs)

def dmxCadence (s : State) (r : Cfg) (p : Nat) : Nat :=
  match aFind r.dmxQ p with
  | some q => max 1 q
  | none => max 1 (ceilDiv ((dmxFrameUs r p + 100) * 1000) (max 1 (periodMin s)))

def dmxOut (r : Cfg) (p : Nat) : Bool := (dmxOf r p).mode == 1

/-- A port's frame of k is one it sends. -/
def dmxSends (s : State) (r : Cfg) (p : Nat) (k : Int) : Bool := k % (dmxCadence s r p : Int) == 0

def packetDescriptor (s : State) (w : Work) (z : Nat) (k : Int) (prio target : Nat) : Descriptor :=
  ⟨w, z, k, prio, target, [], some (syncAt s z k - commitLead s), none, false, 0⟩

/-! What repeats whole (R315): every receiver keeps its shadow, and nothing is sent for it. -/

/-- Elements `first` on of a fixture all repeat. -/
def piecesAgain (p : PoolFrame) (fx first n : Nat) : Bool := (List.range n).all (fun i => (aFind (aGet p.again fx []) (first + i)).isSome)

/-- A fixture's elements: pixels, or control channels. -/
def fixtureAgain (p : PoolFrame) (e : Nat × FixtureEntry) : Bool := piecesAgain p e.1 0 (if e.2.kind = 2 then e.2.channels else fixPixels e.2)

/-- The elements of a fixture that a flow carries. -/
def pieceAgain (p : PoolFrame) (n : Nat) (e : Nat × FixtureEntry) : Bool :=
  if routeClass e.2 = 3 ∧ e.2.kind = 1 then ((e131Spans e.2).filter (fun x => x.1 == n)).all (fun x => piecesAgain p e.1 x.2.2.1 x.2.2.2)
  else fixtureAgain p e

def flowAgain (p : PoolFrame) (n : Nat) : Bool := (flowFixtures p.cfg n).all (pieceAgain p n)
def laneAgain (p : PoolFrame) (l z : Nat) : Bool := ((laneFixtures p.cfg l).filter (fun e => e.2.zone == z)).all (fixtureAgain p)
def dmxAgain (p : PoolFrame) (port : Nat) : Bool := (dmxFixtures p.cfg port).all (fixtureAgain p)

/-- The packet work of frame k of a zone whose data is in the pool. -/
def zoneWork (s : State) (z : Nat) (k : Int) (pf : PoolFrame) : List Descriptor :=
  let r := pf.cfg
  let flows := (flowsOn r).filter (fun e => flowZone r e.1 == some z && !flowAgain pf e.1)
  let lanes := (List.range 32).filter (fun l => laneOn r l && (laneRuns r l).any (fun x => x.1 == z) && !laneAgain pf l z)
  let ports := (List.range 16).filter (fun p => dmxOut r p && dmxZone r p == some z && dmxSends s r p k && !dmxAgain pf p)
  flows.map (fun e => packetDescriptor s (.flow e.1) z k (flowPrio e.2) (flowEngine s r e.1)) ++
    lanes.map (fun l => packetDescriptor s (.lanePixels l) z k 2 (if laneString r l then 9 else 8)) ++
    ports.map (fun p => packetDescriptor s (.dmxFrame p) z k 4 10)

/-- Distinct sync_ids of the synced E1.31 flows of a port that carry the zones, ascending. -/
def syncIds (r : Cfg) (p : Nat) (zones : List Nat) : List Nat :=
  aKeys ((flowsOn r).foldl (fun m e =>
    if e.2.protocol = 1 ∧ e.2.port = p ∧ nBit e.2.flags 1 = false ∧ ((flowZone r e.1).map zones.contains).getD false = true then aPut m e.2.syncId ()
    else m) ([] : SMap Unit))

/-- Zones that a UoE flow of the port carries, ascending. -/
def uoeZones (r : Cfg) (p : Nat) (zones : List Nat) : List Nat :=
  aKeys ((flowsOn r).foldl (fun m e =>
    match flowZone r e.1 with
    | some z => if e.2.protocol = 2 ∧ e.2.port = p ∧ zones.contains z = true then aPut m z () else m
    | none => m) ([] : SMap Unit))

/-- Show ports that launch sync packets for a zone, and DMX ports that send its frame k (R130, R469, R480). -/
def syncPorts (r : Cfg) (z : Nat) : List Nat := (List.range 8).filter (fun p => uoeZones r p [z] != [] || syncIds r p [z] != [])
def breakPorts (s : State) (r : Cfg) (z : Nat) (k : Int) : List Nat :=
  (List.range 16).filter (fun p => dmxOut r p && dmxZone r p == some z && dmxSends s r p k)

/-- What frame k of a zone launches from the launch list, each at S minus the advance of its class, whether or not its data is mapped or reaches every
receiver; a DMX port sends the frame that its buffer holds (R109, R130, R470, R481). -/
def zoneLaunches (s : State) (z : Nat) (k : Int) : List (Int × LaunchKind) :=
  let r := frameCfg s z k
  (syncPorts r z).map (fun p => (syncAt s z k - (bits (reg s R.ALM_ADV_SHOW) 19 0 : Int), .packet p)) ++
    (breakPorts s r z k).map (fun p => (syncAt s z k - (bits (reg s R.ALM_ADV_DMX) 19 0 : Int), .dmxBreak p))

/-- Launches of two SYNC instants less than 16 ns apart on one output are one (R132). -/
def mergeNote (z : Nat) (k at_ : Int) (s : State) : State :=
  traceRec ⟨at_, 0, unsignedOf 32 k, z, 0, 255, 128, 0, 0, 0⟩ (setFlag R.ALM_INT_STAT 3 (bump R.ALM_CNT_MERGE s))

/-! Sync packets (R469, R470, R477). -/

/-- Zones in groups of 16. -/
def groups16 (fuel : Nat) (l : List Nat) : List (List Nat) :=
  match fuel with
  | 0 => []
  | n + 1 => if l = [] then [] else l.take 16 :: groups16 n (l.drop 16)

/-- How many sync packets a port needs for zones of one instant (R469, R488). -/
def syncCount (r : Cfg) (p : Nat) (zones : List Nat) : Nat := ceilDiv (uoeZones r p zones).length 16 + (syncIds r p zones).length

/-- The keys that frames of zones give, each under its own configuration, ascending (R40). -/
def frameKeys (s : State) (f : Cfg → Nat → List Nat) (zs : List (Nat × Int)) : List Nat :=
  aKeys (zs.foldl (fun m e => (f (frameCfg s e.1 e.2) e.1).foldl (fun q n => aPut q n ()) m) ([] : SMap Unit))

/-- The sync packets of one instant go to launch slots: class 7, priority 0, zones in ascending order (R438, R469). -/
def armSync (p : Nat) (zs : List (Nat × Int)) (at_ : Int) (s : State) : State :=
  let uz := frameKeys s (fun r z => uoeZones r p [z]) zs
  let k := (zs.head?.map Prod.snd).getD 0
  let s1 := (groups16 (uz.length + 1) uz).foldl (fun x g =>
    let sq := nextSeq x.pkt.uoeSeqs p
    let instant := at_ + (regN x R.ALM_ADV_SHOW : Int)
    macArm p ⟨66 + pad4 g.length + 4, 7, none, none, none, .uoeSync sq (unsignedOf 32 k) instant g, some (groupHead s.pkt.global.group s.pkt.global.udp),
      uoeSyncPacket sq k instant g⟩ at_
      (modPkt (fun y => { y with uoeSeqs := aPut y.uoeSeqs p ((sq + 1) % 256) }) x)) s
  (frameKeys s (fun r z => syncIds r p [z]) zs).foldl (fun x id =>
    let sq := nextSeq x.pkt.syncSeqs id
    macArm p ⟨95, 7, none, none, none, .e131Sync id sq, some (groupHead (universeIp id) 5568), e131SyncPacket s.pkt.global id sq⟩ at_ (modPkt (fun y => { y with syncSeqs := aPut y.syncSeqs id ((sq + 1) % 256) }) x)) s1

/-- The output that an entry of the launch list arms. -/
def launchOf (k : LaunchKind) : Output :=
  match k with
  | .packet p => .show p
  | .dmxBreak p => .dmx p
  | .radioSlot x => .radio x

/-- A zone's frame joins the launch of an output that is armed at `a`. -/
def joinArmed (z : Nat) (k : Int) (a : Armed) (s : State) : State :=
  modAlm (fun m => { m with armed := m.armed.map (fun x => if x = a then { a with zones := a.zones ++ [(z, k)] } else x) }) s

/-- A zone's frame joins the launch list: with the entry of its output whose instant is near, with the output where it is armed already, or as an
entry of its own, unless the full list refuses it (R109, R132, R135). -/
def joinLaunch (z : Nat) (k : Int) (s : State) (l : Int × LaunchKind) : State :=
  let near (x : Int) : Bool := decide ((x - l.1).natAbs < 16)
  let noted (x : Int) (s1 : State) : State := if x = l.1 then s1 else mergeNote z k l.1 s1
  match s.alm.launch.find? (fun e => e.kind == l.2 && near e.at_), s.alm.armed.find? (fun a => a.output == launchOf l.2 && near a.at_) with
  | some e, _ => noted e.at_ (modAlm (fun a => { a with launch := a.launch.map (fun x =>
      if x = e then { e with at_ := min e.at_ l.1, zones := e.zones ++ [(z, k)] } else x) }) s)
  | none, some a =>
    let s1 := noted a.at_ (joinArmed z k a s)
    (match l.2 with
     | .packet p => armSync p [(z, k)] a.at_ s1
     | .dmxBreak _ | .radioSlot _ => s1)
  | none, none =>
    if launchFits s l.1 then insertLaunch l.1 l.2 [(z, k)] 0 s
    else modPool (fun p => { p with refused := p.refused ++ [(l.2, z, k)] }) (insertLaunch l.1 l.2 [(z, k)] 0 s)

/-- The launch that a descriptor's output makes. -/
def workLaunch (r : Cfg) (w : Work) : Option LaunchKind :=
  match w with
  | .flow f => (flowOf r f).map (fun p => .packet p.port)
  | .dmxFrame p => some (.dmxBreak p)
  | .lanePixels _ | .laneControl _ | .radioCue _ _ | .rdm _ | .escrowCopy | .cueAction _ _ _ _ | .housekeeping _ => none

/-- What a descriptor carried is late (R44, R122, R383). -/
def lateWork (s : State) (d : Descriptor) : State :=
  match d.work with
  | .flow f => flowLate f d s
  | .lanePixels l =>
    let s1 := laneTake l d.zone d.frame s
    match (laneOf s1 l).jobs.find? (fun j => j.zone == d.zone && j.k == d.frame) with
    | some j => dropJob l j s1
    | none => s1
  | .dmxFrame p => zoneLate 1 d.zone d.frame (((dmxFixtures (frameCfg s d.zone d.frame) p).map (fun e => fixPixels e.2)).sum) s
  | .escrowCopy => { s with esc := { s.esc with out := none } }
  | _ => s

/-- A frame's work for an output whose launch the full list refused is discarded (R135). -/
def releaseWork (r : Cfg) (s : State) (d : Descriptor) : State :=
  match workLaunch r d.work with
  | some k => if s.pool.refused.contains (k, d.zone, d.frame) then lateWork (discardDescriptor s d) d else insertDescriptor d s
  | none => insertDescriptor d s

/-- The work of frame k of a zone goes to the Almanac where the frame is mapped; one that is not mapped yet waits. -/
def zoneData (z : Nat) (k : Int) (s : State) : State :=
  match poolFrame s z k with
  | some p => (zoneWork s z k p).foldl (releaseWork p.cfg) s
  | none => modPool (fun p => { p with released := p.released ++ [(z, k)] }) s

/-- The window of frame k of a zone is open: its launches and its work go to the Almanac. -/
def zoneRelease (z : Nat) (k : Int) (s : State) : State := zoneData z k ((zoneLaunches s z k).foldl (joinLaunch z k) s)

/-- Frame k of a zone is in the pool. -/
def zoneReady (z : Nat) (k : Int) (s : State) : State :=
  if s.pool.released.contains (z, k) then
    zoneData z k (modPool (fun p => { p with released := p.released.filter (· != (z, k)) }) s)
  else s

/-- A frame leaves the pool: it was launched or skipped (R126). -/
def poolFree (z : Nat) (k : Int) (s : State) : State :=
  modPool (fun p => { p with
    frames := p.frames.filter (fun f => !(f.zone == z && f.k == k))
    released := p.released.filter (· != (z, k))
    refused := p.refused.filter (fun e => e.2 != (z, k)) }) s

/-- A frame from before a flow was disabled is still to launch with it (R40, R471). -/
def flowPending (s : State) (n : Nat) : Bool :=
  s.pool.cfgs.any (fun c => flowIs c.2 n 1 && (match flowZone c.2 n with
    | some z => framesLeft s z && decide (oldestFrame s z ≤ c.1)
    | none => false))

/-- A frame in which a disabled flow says so: Stream_Terminated in 3 packets, one per frame, once the last of its data has launched (R471). -/
def sendEndings (s : State) : State :=
  (s.pkt.ending.filter (fun e => !flowPending s e.1)).foldl (fun x e =>
    let p := e.2.2
    let sq := nextSeq x.pkt.seqs p.ident
    let sync := if nBit p.flags 1 then 0 else p.syncId
    let slots := List.replicate (e131Size p) 0
    let f : TxFrame := ⟨172 + e131Size p + tagBytes p, flowQueue p, none, none, none, .e131 e.1 p.ident sq sync p.e131Prio true slots, some (flowHead p),
      e131DataPacket x.pkt.global p.ident sq sync p.e131Prio true slots⟩
    macSend p.port f (bump R.PKT_CNT_TX (modPkt (fun y => { y with
      seqs := aPut y.seqs p.ident ((sq + 1) % 256)
      ending := if e.2.1 ≤ 1 then aDel y.ending e.1 else aPut y.ending e.1 (e.2.1 - 1, p) }) x))) s

/-! E1.31 receive (R473, R474, R482). -/

def rxOf (s : State) (u : Nat) : RxUniverse := aGet s.pkt.rx u ⟨[], none⟩

/-- The source an entry takes its slots from: the highest priority, on a tie the one in use (R474). -/
def rxSelect (x : RxUniverse) : RxUniverse :=
  let key (q : RxSource) : Bool × Nat := (q.dmx, q.cid)
  let best := x.sources.foldl (fun m q => max m q.priority) 0
  let keep := x.sources.any (fun q => some (key q) == x.current && q.priority == best)
  { x with current := if keep then x.current else (x.sources.find? (fun q => q.priority == best)).map key }

def rxCurrent (x : RxUniverse) : Option RxSource := x.sources.find? (fun q => some (q.dmx, q.cid) == x.current)

/-- An entry's sources change: its state is reported when it becomes active or inactive. -/
def rxSet (u : Nat) (x : RxUniverse) (s : State) : State :=
  let was := (rxOf s u).sources != []
  let y := rxSelect x
  let now := y.sources != []
  let s1 := modPkt (fun p => { p with rx := if y.sources = [] then aDel p.rx u else aPut p.rx u y }) s
  if was = now then s1
  else notify 0x8260 16 [u, bNat now, ((rxCurrent y).map RxSource.priority).getD 0, y.sources.length, st64 s] (setFlag R.PKT_INT_STAT 1 s1)

/-- The enabled entries of a universe on a port, each of which receives its packets (R473). -/
def rxEntriesOf (s : State) (port univ : Nat) : List Nat :=
  (s.cfgB.rxEntries.filter (fun e => e.2.univ != 0 && e.2.univ == univ && nBit e.2.mask port)).map Prod.fst

def fromSender (p : E131Packet) (q : RxSource) : Bool := !q.dmx && q.cid == p.cid

/-- An entry discards the packet (R474). -/
def rxDiscards (p : E131Packet) (x : RxUniverse) : Bool :=
  let old := x.sources.find? (fromSender p)
  let d := match old with
    | some q => signed 8 (unsignedOf 8 ((p.seq : Int) - q.seq))
    | none => 1
  (decide (-20 < d) && decide (d ≤ 0)) || p.preview || p.startCode != 0 || (old.isNone && decide (4 ≤ (x.sources.filter (fun q => !q.dmx)).length))

/-- An entry takes the packet. -/
def rxTake (p : E131Packet) (s : State) (u : Nat) : State :=
  let x := rxOf s u
  let rest := x.sources.filter (fun q => !fromSender p q)
  if p.terminated then rxSet u { x with sources := rest } s
  else rxSet u { x with sources := rest ++ [⟨false, p.cid, p.priority, p.seq, s.time.now, p.slots⟩] } s

/-- A packet counts once: as accepted where an entry takes it, as discarded where every entry of its universe discards it (DESIGN CHOICE, log entry 20). -/
def e131Receive (port : Nat) (p : E131Packet) (s : State) : State :=
  let us := rxEntriesOf s port p.univ
  let takes := us.filter (fun u => !rxDiscards p (rxOf s u))
  if us = [] then s
  else if takes = [] then bump R.PKT_CNT_RXDROP s
  else takes.foldl (rxTake p) (bump R.PKT_CNT_RX s)

def execE131PacketReceived (t : Nat) (port : Fin 8) (p : E131Packet) (s : State) : Out :=
  let s1 := advance t s
  if (portOf s1 port).link = .up then .next (e131Receive port p s1) else .next s1

/-- A source that has been silent for 2,500 ms is removed. -/
def rxExpire (dmx : Bool) (u cid : Nat) (s : State) : State :=
  let x := rxOf s u
  let old (q : RxSource) : Bool := q.dmx == dmx && q.cid == cid && decide (q.at_ + 2500000000 ≤ s.time.now)
  if x.sources.any old then
    rxSet u { x with sources := x.sources.filter (fun q => !old q) } (if dmx then s else bump R.PKT_CNT_RXLOSS s)
  else s

def execE131SourceTimeout (t : Nat) (entry cid : Nat) (s : State) : Out := .next (rxExpire false entry cid (advance t s))

/-- Universe discovery (R471): the enabled universes, 512 a page, on every port with an E1.31 flow. -/
def discovery (s : State) : State :=
  let fl := (flowsOn s.cfgB).filter (fun e => e.2.protocol == 1)
  let us := aKeys (fl.foldl (fun m e => aPut m e.2.ident ()) ([] : SMap Unit))
  let ports := (List.range 8).filter (fun p => fl.any (fun e => e.2.port == p))
  let pages := ceilDiv us.length 512
  ports.foldl (fun x p => (List.range pages).foldl (fun y g =>
    let l := (us.drop (512 * g)).take 512
    macSend p ⟨166 + 2 * l.length, 0, none, none, none, .discovery g l, some (groupHead (universeIp 64214) 5568),
      discoveryPacket s.pkt.global g (pages - 1) l⟩ y) x) (modPkt (fun p => { p with lastDiscovery := some s.time.now }) s)

/-- Every 10 s (R471). -/
def execUniverseDiscovery (t : Nat) (s : State) : Out :=
  let s1 := advance t s
  match s1.pkt.lastDiscovery with
  | some q => if q + 10000000000 ≤ s1.time.now then .next (discovery s1) else .next s1
  | none => .next (discovery s1)

/-- An INPUT port's frame (R482). -/
def dmxReceive (p startCode : Nat) (slots : List Nat) (errors : Nat) (s : State) : State :=
  let d := dmxOf s.cfgB p
  if d.mode ≠ 2 then s
  else
    let s0 := if errors = 0 then s else setFlag R.DMX_INT_STAT 3 (bumpBy (R.DMX_Pn_CNT_RXERR p) errors s)
    let (s1, taken) := intake p ((startCode :: slots.take 512).map (BitVec.ofNat 8)) (bump (R.DMX_Pn_CNT_FRAMES p) s0)
    if startCode ≠ 0 ∨ taken = false then s1
    else
      let x := rxOf s d.entry
      rxSet d.entry { x with sources := x.sources.filter (fun q => !(q.dmx && q.cid == p)) ++ [⟨true, p, 100, 0, s.time.now, slots.take 512⟩] } s1

def execDmxFrameReceived (t : Nat) (port : Fin 16) (startCode : Nat) (slots : List Nat) (errors : Nat) (s : State) : Out :=
  .next (dmxReceive port startCode slots errors (advance t s))

def execDmxSourceTimeout (t : Nat) (port : Fin 16) (s : State) : Out :=
  let s1 := advance t s
  .next (rxExpire true (dmxOf s1.cfgB port).entry port s1)

/-! DMX output and RDM (R480 to R485). -/

/-- The line is free: idle, or its frame has ended. -/
def dmxFree (s : State) (p : Nat) : Bool :=
  let x := dmxPort s p
  match x.line with
  | .idle | .frame => decide (x.busyUntil ≤ s.time.now)
  | _ => false

/-- A window may be taken now: requests wait, rdm_en is set, enough frames went since the last window (R483). -/
def rdmDue (s : State) (p : Nat) : Bool :=
  let d := dmxOf s.cfgB p
  let x := dmxPort s p
  d.mode == 1 && nBit d.flags 0 && x.requests != [] && decide (0 < x.granted) &&
    (if d.rdmEvery = 0 then (dmxFixtures s.cfgB p).isEmpty else decide (d.rdmEvery ≤ x.sinceWindow))

def dmxSkip (p : Nat) (s : State) : State := setFlag R.DMX_INT_STAT 2 (bump (R.DMX_Pn_CNT_SKIP p) s)

/-- t_req in µs: break, MAB, the message and its 2 check slots (R483). -/
def requestUs (s : State) (p : Nat) (q : RdmRequest) : Nat :=
  let d := dmxOf s.cfgB p
  d.breakUs + d.mabUs + (q.bytes.length + 2) * (44 + d.mbsUs)

/-- A request goes out; a broadcast waits no response and leaves a gap of 176 µs (R484). -/
def rdmSend (p : Nat) (s : State) : State :=
  let x := dmxPort s p
  match x.requests with
  | [] => s
  | q :: rest =>
    let stop := s.time.now + requestUs s p q.1 * 1000
    let s1 := bump (R.DMX_Pn_CNT_RDM p) (modDmx p (fun y => { y with requests := rest, granted := y.granted - 1, requestEnd := stop, busyUntil := stop + 176000 }) s)
    if nBit q.1.flags 0 then respondOwed 0x0484 q.2 ⟨.ok, 0, []⟩ (modDmx p (fun y => { y with line := .frame, current := none }) s1)
    else modDmx p (fun y => { y with line := .rdmWait, current := some q }) s1

/-- Further requests use the window while they fit before its end (R484). -/
def rdmNext (p : Nat) (s : State) : State :=
  let x := dmxPort s p
  match x.requests with
  | q :: _ => if 0 < x.granted ∧ s.time.now + (requestUs s p q.1 + 14900) * 1000 ≤ x.windowEnd then rdmSend p s else s
  | [] => s

/-- Frame opportunities that a window takes (R483). -/
def windowFrames (s : State) (p : Nat) (q : RdmRequest) : Nat :=
  ceilDiv ((requestUs s p q + 14900) * 1000) (max 1 (dmxCadence s s.cfgB p * periodMin s))

/-- A window begins at a frame opportunity with the first request (R483). -/
def rdmOpen (p : Nat) (s : State) : State :=
  match (dmxPort s p).requests with
  | [] => s
  | q :: _ =>
    let stop := s.time.now + windowFrames s p q.1 * dmxCadence s s.cfgB p * periodMin s
    rdmSend p (modDmx p (fun y => { y with windowEnd := stop, sinceWindow := 0 }) s)

/-- The port has no frame to start, now or later, or the instant of its next one has come (R483): a port that sends no frames gives every instant to a
window (DESIGN CHOICE, log entry 20). -/
def dmxOpportunity (s : State) (p : Nat) : Bool :=
  !s.time.running || (dmxZone s.cfgB p).isNone || s.alm.armed.any (fun a => a.output == .dmx p && decide (a.at_ ≤ s.time.st64))

/-- RDM_WINDOW: a window begins at a frame opportunity, or the gap after a broadcast in one has passed (R483, R484). -/
def rdmWindow (p : Nat) (s : State) : State :=
  if s.time.now < (dmxPort s p).windowEnd then (if dmxFree s p then rdmNext p s else s)
  else if rdmDue s p = false ∨ dmxFree s p = false ∨ dmxOpportunity s p = false then s
  else rdmOpen p s

/-- A frame opportunity: the break of frame k, the window that takes its place, or the frame skipped (R481, R483). -/
def dmxBreak (p : Nat) (s : State) : State :=
  let x := dmxPort s p
  let skip (y : State) : State := if x.bufferK = none then y else dmxSkip p y
  if dmxOut s.cfgB p = false then s
  else if s.time.now < x.windowEnd ∨ dmxFree s p = false then skip s
  else if rdmDue s p then rdmOpen p (skip s)
  else if x.bufferK = none then s
  else if outputBad s (65536 + p) none [6] then outputClear (65536 + p) [6] s
  else bump (R.DMX_Pn_CNT_FRAMES p) (modDmx p (fun y => { y with
    line := .frame, busyUntil := s.time.now + dmxFrameUs s.cfgB p * 1000, lastBreak := st64 s, sinceWindow := y.sinceWindow + 1 }) s)

def execRdmWindow (t : Nat) (port : Fin 16) (s : State) : Out := .next (rdmWindow port (advance t s))

/-- The intake packet of a transaction whose response began `took` ns ago, and what its consumer, Teller, sends for it (R485, R489). -/
def rdmReport (p kind took transaction : Nat) (bytes : List (BitVec 8)) (s : State) : State :=
  let x := intake p ([BitVec.ofNat 8 kind, BitVec.ofNat 8 p, BitVec.ofNat 8 transaction, BitVec.ofNat 8 (transaction / 256)] ++ bytes) s
  if x.2 then
    notify 0x8261 (16 + bytes.length) ([(p : Int), kind, transaction, bytes.length, st64 s - took] ++ bytes.map (fun b => (b.toNat : Int))) x.1
  else x.1

/-- A transaction ends with an intake packet of a kind (R485): 0 response, 1 discovery, 2 timeout, 3 error. -/
def rdmDone (p kind took : Nat) (bytes : List (BitVec 8)) (s : State) : State :=
  match (dmxPort s p).current with
  | none => s
  | some q =>
    let s1 := modDmx p (fun y => { y with line := .idle, current := none, busyUntil := s.time.now }) s
    let s2 := match kind with
      | 2 => setFlag R.DMX_INT_STAT 1 (bump (R.DMX_Pn_CNT_RDM_TO p) s1)
      | 3 => setFlag R.DMX_INT_STAT 3 (bump (R.DMX_Pn_CNT_RXERR p) s1)
      | _ => s1
    rdmNext p (respondOwed 0x0484 q.2 ⟨.ok, 0, []⟩ (rdmReport p kind took q.1.transaction bytes (setFlag R.DMX_INT_STAT 0 s2)))

/-- A response that began `took` ns ago, within 2,800 µs of its request, has ended (R484). -/
def execRdmResponseReceived (t : Nat) (port : Fin 16) (kind took : Nat) (bytes : List (BitVec 8)) (s : State) : Out :=
  let s1 := advance t s
  if kind = 2 ∨ 3 < kind ∨ (dmxPort s1 port).requestEnd + 2800000 < s1.time.now - took then .next s1 else .next (rdmDone port kind took bytes s1)

/-- No response starts within 2,800 µs (R484). -/
def execRdmResponseTimeout (t : Nat) (port : Fin 16) (s : State) : Out :=
  let s1 := advance t s
  if (dmxPort s1 port).requestEnd + 2800000 ≤ s1.time.now then .next (rdmDone port 2 0 [] s1) else .next s1

def rdmDropOwed (i : Fin 5) (s : State) : State :=
  let drop (q : RdmRequest × Option Call) : RdmRequest × Option Call := (q.1, dropOwed i q.2)
  { s with dmx := vMap s.dmx (fun x => { x with requests := x.requests.map drop, current := x.current.map drop }) }

/-! Engine faults (R486, R487). -/

/-- Causes 0 and 1: the engine fails. Cause 2: user code faults or overruns on the packet that the engine builds next, which is discarded; in 3 frames
in a row it is disabled. -/
def pktFailure (e cause : Nat) (s : State) : State :=
  if cause = 2 then
    let k := s.time.fcount
    let n := if s.pkt.trapK = some k then s.pkt.trapRun else if s.pkt.trapK = some (k - 1) then s.pkt.trapRun + 1 else 1
    let s1 := setFlag R.PKT_INT_STAT 2 (bump (R.PKT_En_CNT_TRAP e) (modPkt (fun p => { p with
      trapK := some k, trapRun := n, engines := vMod p.engines e (fun x => { x with trapped := true }) }) s))
    if n < 3 ∨ (engineOf s e).userOff = true then s1
    else notify 0x8262 16 [e, 2, 0, unsignedOf 32 k, st64 s] (modPkt (fun p => { p with engines := vMap p.engines (fun x => { x with userOff := true }) }) s1)
  else if (engineOf s e).failed then s
  else
    let moved := ((assignFlows s.cfgB s.pkt.excluded).1.filter (fun x => x.2 == e)).length
    notify 0x8262 16 [e, min cause 1, moved, unsignedOf 32 s.time.fcount, st64 s]
      (setFlag R.PKT_INT_STAT 3 (modPkt (fun p => { p with engines := vMod p.engines e (fun x => { x with failed := true }) }) s))

def execPktEngineFailure (t : Nat) (engine : Fin 8) (cause : Nat) (s : State) : Out := .next (pktFailure engine cause (advance t s))

/-! Configuration (R488, R489). -/

def execFlowSet (c : Call) (p : FlowSet) (s : State) : Out :=
  configMessage 0x0480 (8 + 64 * p.contexts.length) c (fun _ => decide (1 ≤ p.contexts.length) && decide (p.contexts.length ≤ 512) &&
    decide (p.first + p.contexts.length ≤ 16384)) (.flowSet p) s

def execRxUniverseSet (c : Call) (p : RxUniverseSet) (s : State) : Out :=
  configMessage 0x0481 (8 + 8 * p.entries.length) c (fun _ => decide (1 ≤ p.entries.length) && decide (p.entries.length ≤ 1024) &&
    decide (p.first + p.entries.length ≤ 16384)) (.rxUniverseSet p) s

def execDmxPortSet (c : Call) (p : DmxPortSet) (s : State) : Out :=
  configMessage 0x0483 16 c (fun _ => decide (p.port ≤ 15) && decide (p.mode ≤ 2) && decide (p.entry < 16384)) (.dmxPortSet p) s

def pktRecord (m : ConfigMsg) (r : Cfg) : Cfg :=
  match m with
  | .flowSet p => { r with flows := putFrom r.flows p.first p.contexts }
  | .rxUniverseSet p => { r with rxEntries := putFrom r.rxEntries p.first p.entries }
  | .dmxPortSet p => { r with dmx := aPut r.dmx p.port p }
  | _ => r

/-- PKT_GLOBAL_SET is applied on receipt. -/
def execPktGlobalSet (c : Call) (p : PktGlobalSet) (s : State) : Out :=
  command 0x0482 c s fun s => accept (modPkt (fun x => { x with global := p }) s)

/-- The Almanac dispatched a port's transaction. -/
def rdmGrant (p : Nat) (s : State) : State := modDmx p (fun x => { x with granted := x.granted + 1 }) s

/-- An RDM transaction is Almanac work of priority 6 while show time runs (R106, R123). -/
def rdmQueue (p : Nat) (s : State) : State :=
  if s.time.running then insertDescriptor ⟨.rdm p, 0, 0, 6, 10, [], none, none, false, 0⟩ s else rdmGrant p s

def execRdmRequest (c : Call) (p : RdmRequest) (s : State) : Out :=
  command 0x0484 c s fun s =>
    if 15 < p.port ∨ p.bytes.length < 24 ∨ 255 < p.bytes.length ∨ p.bytes.head? ≠ some 0xCC then refuse .invalidParameter s
    else if (dmxOf s.cfgB p.port).mode ≠ 1 ∨ nBit (dmxOf s.cfgB p.port).flags 0 = false then refuse .notReady s
    else (rdmQueue p.port (modDmx p.port (fun x => { x with requests := x.requests ++ [(p, some c)] }) s), ⟨.pending, 0, []⟩)

/-- Fields of a context as R464 allows them. -/
def flowFieldsOk (p : FlowCtx) : Bool :=
  decide (p.protocol ≤ 3) && decide (p.port ≤ 7) && decide (p.queue ≤ 7) && (decide (p.prio ≤ 7) || p.prio == 0xFF) && decide (p.dscp ≤ 63) &&
  decide (1 ≤ p.ttl) && decide (p.ttl ≤ 255) && decide (p.e131Prio ≤ 200) &&
  decide (p.flags < 8) && (p.protocol == 3 || p.user.all (· == 0)) &&
  (match p.protocol with
   | 1 => decide (1 ≤ p.ident) && decide (p.ident ≤ 63999) && decide (p.size ≤ 512)
   | 2 => decide (48 ≤ p.size) && decide (p.size ≤ 8880) && p.size % 48 == 0 && p.syncId == 0
   | _ => true)

/-- A unicast destination carries its MAC (R466). -/
def unicastOk (p : FlowCtx) : Bool :=
  let top := p.dstIp / 16777216
  p.dstIp == 0 || (decide (224 ≤ top) && decide (top ≤ 239)) || p.dstMac != 0

/-- The line time of a port for one zone, in units of β bytes (R488). -/
def portBytes (r : Cfg) (p z : Nat) : Nat :=
  ((flowsOn r).map (fun e => if e.2.port = p ∧ flowZone r e.1 = some z then ((flowLens r e.1 e.2).map (· + 20)).sum else 0)).sum

def distinctZones (l : List (Nat × FixtureEntry)) : Nat := (l.foldl (fun m e => aPut m e.2.zone ()) ([] : SMap Unit)).length

/-- Delays d and e in µs put two zones' SYNC instants together in some frames: they differ by a number of frame periods (R78, R81). -/
def sameInstants (s : State) (d e : Nat) : Bool :=
  let diff := (max d e - min d e) * 1000
  let num := s.time.rateN
  let den := 1000000000 * s.time.rateD
  let j := diff * num / max 1 den
  [j, j + 1].any (fun n => n * den / max 1 num == diff || ceilDiv (n * den) (max 1 num) == diff)

/-- Zones of a configuration whose SYNC instants meet those of a zone with this delay. -/
def zonesOfDelay (s : State) (r : Cfg) (d : Nat) : List Nat := (zonesOn r).filter (fun z => sameInstants s d (zoneOf r z).delay)

def dmxTimingOk (p : DmxPortSet) : Bool :=
  decide (92 ≤ p.breakUs) && decide (p.breakUs ≤ 1000) && decide (12 ≤ p.mabUs) && decide (p.mabUs ≤ 1000) && decide (p.mbsUs ≤ 100) &&
    (p.slots == 0 || (decide (24 ≤ p.slots) && decide (p.slots ≤ 512)))

/-- The checks of R488 in their order: cause, index, required, limit. `escrow` says which ports are in the Escrow role. -/
def pktReject (s : State) (escrow : Nat → Bool) (r : Cfg) : Option (List Int) :=
  let on := flowsOn r
  let say (code i req lim : Nat) : Option (List Int) := some [code, i, req, lim]
  let field := r.flows.findSome? (fun e =>
    if flowFieldsOk e.2 = false then say 1 e.1 e.2.protocol 0
    else if flowOn e.2 = false then none
    else if unicastOk e.2 = false then say 1 e.1 e.2.dstIp 0
    else if bitOf (reg s (R.MAC_CTRL e.2.port)) 0 = false ∨ portMode s e.2.port = 0 ∨ escrow e.2.port = true then say 1 e.1 e.2.port 0 else none)
  let univ := on.findSome? (fun e =>
    if e.2.protocol = 1 ∧ on.any (fun g => decide (g.1 < e.1) && g.2.protocol == 1 && g.2.ident == e.2.ident) = true then say 2 e.1 e.2.ident 0 else none)
  let rx := r.rxEntries.findSome? (fun e => if 63999 < e.2.univ then say 2 e.1 e.2.univ 63999 else none)
  let zone := on.findSome? (fun e => if 1 < distinctZones (flowFixtures r e.1) then say 3 e.1 (distinctZones (flowFixtures r e.1)) 1 else none)
  let dz := (List.range 16).findSome? (fun p => if dmxOut r p = true ∧ 1 < distinctZones (dmxFixtures r p) then say 3 p (distinctZones (dmxFixtures r p)) 1 else none)
  let sync := on.findSome? (fun e =>
    if e.2.protocol = 1 ∧ nBit e.2.flags 1 = false ∧ on.any (fun g => decide (g.1 < e.1) && g.2.protocol == 1 && !nBit g.2.flags 1 && g.2.syncId == e.2.syncId &&
      (flowZone r g.1).isSome && (flowZone r e.1).isSome && flowZone r g.1 != flowZone r e.1) = true then say 3 e.1 e.2.syncId 0 else none)
  let limit : Int := (periodMin s : Int) - commitLead s - 200000
  let time := (List.range 8).findSome? (fun p => (zonesOn r).findSome? (fun z =>
    let need := portBytes r p z * byteTime s p
    if limit * 100 < need then say 4 p (ceilDiv need 100) limit.toNat else none))
  let loads := (assignFlows r s.pkt.excluded).2
  let load := (List.range 8).findSome? (fun i => if 8 * 16 * periodMin s < 10 * loads.getD i 0 then say 5 i (ceilDiv (loads.getD i 0) 16) (8 * periodMin s / 10) else none)
  let launch := (List.range 8).findSome? (fun p => (zonesOn r).findSome? (fun z =>
    let n := syncCount r p (zonesOfDelay s r (zoneOf r z).delay)
    if 8 < n then say 6 p n 8 else none))
  let dmx := (List.range 16).findSome? (fun p =>
    let d := dmxOf r p
    if dmxTimingOk d = false then say 7 p d.breakUs 1000
    else if d.mode = 1 ∧ 15 < dmxCadence s r p then say 7 p (dmxCadence s r p) 15 else none)
  field.or (univ.or (rx.or (zone.or (dz.or (sync.or (time.or (load.or (launch.or dmx))))))))

/-- The registers of DMX as the messages of a configuration set them (R480, R491). -/
def dmxWords (s : State) (r : Cfg) (p : Nat) : List (Nat × Word) :=
  let d := dmxOf r p
  let w (n : Nat) : Word := BitVec.ofNat 32 n
  [(R.DMX_Pn_CFG p, w (d.mode % 4 * 1073741824 + bNat (nBit d.flags 0) * 536870912 + min 15 (dmxCadence s r p) * 16777216 + d.rdmEvery % 256 * 65536 +
      d.entry % 16384)),
   (R.DMX_Pn_TIMING p, w (d.breakUs * 65536 + d.mabUs)), (R.DMX_Pn_SLOTS p, w (d.mbsUs % 256 * 16777216 + d.slots % 1024))]

def dmxShadow (r : Cfg) (s : State) : State := (List.range 16).foldl (fun x p => setWords (dmxWords x r p) x) s

/-- What a diagnostic write left in the DMX registers in force joins the configuration; a cadence written there replaces Teller's (R61, R480). -/
def dmxFold (s : State) (r : Cfg) : Cfg :=
  (List.range 16).foldl (fun x p =>
    if wordsStand s (dmxWords s x p) then x
    else
      let c := regF s (R.DMX_Pn_CFG p)
      let t := regF s (R.DMX_Pn_TIMING p)
      let n := regF s (R.DMX_Pn_SLOTS p)
      { x with
        dmx := aPut x.dmx p ⟨p, bits c 31 30 % 3, bNat (bitOf c 29), bits c 23 16, bits t 31 16, bits t 15 0, bits n 31 24, bits n 9 0, bits c 13 0⟩
        dmxQ := aPut x.dmxQ p (bits c 27 24) }) r

/-- A port that no longer receives for an entry is no source of it (R482). -/
def dmxMoved (old : Cfg) (s : State) (p : Nat) : State :=
  let was := dmxOf old p
  let now := dmxOf s.cfgB p
  let x := rxOf s was.entry
  let mine (q : RxSource) : Bool := q.dmx && q.cid == p
  if was.mode = 2 ∧ (now.mode ≠ 2 ∨ now.entry ≠ was.entry) ∧ x.sources.any mine = true then
    rxSet was.entry { x with sources := x.sources.filter (fun q => !mine q) } s
  else s

/-- A commit is in force at the packet engines (R471, R487): flows that ended say so, failed engines leave the assignment, ports that are no
longer OUTPUT forget their work. -/
def pktConfigure (old : Cfg) (s : State) : State :=
  let r := s.cfgB
  let ended := (flowsOn old).filter (fun e => e.2.protocol == 1 && (flowZone old e.1).isSome && !flowIs r e.1 1)
  let s1 := modPkt (fun p => { p with
    excluded := (List.range 8).filter (fun e => (vGet p.engines e ⟨false, false, false⟩).failed)
    ending := ended.foldl (fun m e => aPut m e.1 (3, e.2)) (p.ending.filter (fun e => !flowIs r e.1 1)) }) s
  let stale (p : Nat) : Bool := (dmxOf old p).mode != (dmxOf r p).mode
  let s2 := (List.range 16).foldl (fun x p =>
    if stale p then modDmx p (fun _ => DmxPort.reset) ((dmxPort x p).requests.foldl (fun y q => respondOwed 0x0484 q.2 ⟨.notReady, 0, []⟩ y) x) else x) s1
  let gone := s.pkt.rx.filter (fun e => (aFind old.rxEntries e.1) != (aFind r.rxEntries e.1))
  let s3 := gone.foldl (fun x e => rxSet e.1 { e.2 with sources := e.2.sources.filter RxSource.dmx } x) (rxReports old s2)
  (List.range 16).foldl (dmxMoved old) s3

def pktStop (s : State) : State :=
  { s with pool := { s.pool with frames := [], released := [] }, dmx := vMap s.dmx (fun x => { x with buffer := [], bufferK := none, granted := x.requests.length }) }

/-! Registers (R490, R491). -/

/-- Word `n` of a flow context (R464). -/
def flowWord (s : State) (n i : Nat) : Word :=
  let r := s.cfgB
  match flowOf r n with
  | none => 0
  | some p =>
    let (lo, hi) := addrWords p.dstMac
    BitVec.ofNat 32 (match i with
      | 0 => p.protocol + p.port * 256 + flowEngine s r n * 65536 + p.flags * 16777216
      | 1 => p.queue + p.prio * 256 + p.dscp * 65536 + p.ttl * 16777216
      | 2 => p.vlan + lo.toNat % 65536 * 65536
      | 3 => lo.toNat / 65536 + hi.toNat * 65536
      | 4 => leNat (be p.dstIp 4)
      | 5 => p.srcUdp + p.dstUdp * 65536
      | 6 => p.ident + p.e131Prio * 65536 + (flowZone r n).getD 0 * 16777216
      | 7 => p.syncId + p.size * 65536
      | 8 => if p.protocol = 1 then 0 else frameBytes r n
      | _ => (wordOf (p.user.drop (4 * (i - 9)))).toNat)

def viewPkt (s : State) (a : Nat) : Option Word :=
  let o := pageOff a
  let r := s.cfgB
  if o < 0x1000 then
    if o = 0x000 then some (BitVec.ofNat 32 (bNat (s.time.running && flowsOn r != [])))
    else if o = 0x010 then some (BitVec.ofNat 32 (flowsOn r).length)
    else if o = 0x014 then some (BitVec.ofNat 32 (r.rxEntries.filter (fun e => e.2.univ != 0)).length)
    else if 0x080 ≤ o ∧ o ≤ 0x0BC then some (flowWord s (bits (reg s R.PKT_FLOW_IDX) 13 0) ((o - 0x080) / 4))
    else if o = 0x0C0 then some (match aFind r.rxEntries (bits (reg s R.PKT_RXU_IDX) 13 0) with
      | some e => BitVec.ofNat 32 (e.univ + e.mask * 65536)
      | none => 0)
    else if o = 0x0C4 then some 0
    else none
  else
    let e := (o - 0x1000) / 0x40
    let (m, loads) := assignFlows r s.pkt.excluded
    match (o - 0x1000) % 0x40 with
    | 0x00 => some (BitVec.ofNat 32 (4 * bNat (engineOf s e).userOff + 2 * bNat (engineOf s e).failed))
    | 0x04 => some (BitVec.ofNat 32 (m.filter (fun x => x.2 == e)).length)
    | 0x08 => some (BitVec.ofNat 32 (loads.getD e 0 / 16))
    | _ => none

def dmxStateCode (s : State) (p : Nat) : Nat :=
  let x := dmxPort s p
  match (dmxOf s.cfgB p).mode with
  | 0 => 0
  | 2 => 6
  | _ => match x.line with
    | .idle => 1
    | .frame => if s.time.now < x.busyUntil then 2 else 1
    | .rdmRequest => 3
    | .rdmWait => if s.time.now < x.requestEnd then 3 else 4
    | .rdmResponse => 5

def viewDmx (s : State) (a : Nat) : Option Word :=
  let o := pageOff a
  if o < 0x1000 then
    match o with
    | 0x000 => some (BitVec.ofNat 32 (bNat s.time.running))
    | 0x004 => some (BitVec.ofNat 32 (classMask ((List.range 16).filter (dmxOut s.cfgB))))
    | _ => none
  else
    let p := (o - 0x1000) / 0x40
    match (o - 0x1000) % 0x40 with
    | 0x0C => some (BitVec.ofNat 32 (min 15 (dmxPort s p).requests.length * 16 + dmxStateCode s p))
    | 0x24 => some (loWord (dmxPort s p).lastBreak)
    | 0x28 => some (hiWord (dmxPort s p).lastBreak)
    | _ => none

end Sys2Proof.Machine
end

