-- ==== Sys2Proof/Machine/Pair.lean ====
section
/-! DEFINITION. What a device of a pair drives (R521 to R525), and the paths of the pair (R543, R544). -/

namespace Sys2Proof.Machine

def modEsc (f : Esc → Esc) (s : State) : State := { s with esc := f s.esc }

def leaseOf (s : State) (g : Nat) : Lease := vGet s.esc.leases g ⟨false, 0, [], none, none, none⟩
def modLease (g : Nat) (f : Lease → Lease) (s : State) : State := modEsc (fun e => { e with leases := vMod e.leases g f }) s

/-- The pair is enabled (ESC_CFG.enable). -/
def pairOn (s : State) : Bool := bitOf (reg s R.ESC_CFG) 0

def holds (s : State) (g : Nat) : Bool := (leaseOf s g).held
def heldMask (s : State) : Nat := (((List.range 16).filter (holds s)).map (fun g => 2 ^ g)).sum

def leadGroup (s : State) : Nat := bits (reg s R.ESC_CFG) 27 24

/-- The device drives a zone: outside a pair every zone, in it the local ones and those of the groups it holds (R521, R523). -/
def drives (s : State) (r : Cfg) (z : Nat) : Bool := !pairOn s || zoneLocal r z || holds s (zoneOf r z).group

/-- The device maps frame k of a zone in full: a new holder from k_m on (R540). -/
def mapsZone (s : State) (r : Cfg) (z : Nat) (k : Int) : Bool :=
  drives s r z && (!pairOn s || zoneLocal r z || match (leaseOf s (zoneOf r z).group).fromK with
    | some km => decide (km ≤ k)
    | none => true)

/-- The device fires host cues and transmits on the radio (R524). -/
def leads (s : State) : Bool := !pairOn s || holds s (leadGroup s)

/-! Paths: ports 0 to 7, and 16 and 17 for the transceivers. -/

def pathCode (p : Nat) : Nat := if 16 ≤ p then 0xFE else p
def pathBit (p : Nat) : Nat := if 16 ≤ p then 8 else p
def missesOf (s : State) (p : Nat) : Nat := aGet s.esc.misses p 0

/-- A probe or beacon was missed: three in a row fail the path. -/
def pathMiss (p : Nat) (s : State) : State :=
  let n := missesOf s p + 1
  let s1 := bump R.ESC_CNT_PROBE_MISS (modEsc (fun e => { e with misses := aPut e.misses p n }) s)
  if n = 3 then notify 0x8283 16 [pathCode p, 0, n, st64 s1] (setFlag R.ESC_INT_STAT 3 s1) else s1

/-- An answer came: a failed path is restored. -/
def pathGood (p : Nat) (s : State) : State :=
  let n := missesOf s p
  let s1 := modEsc (fun e => { e with misses := aDel e.misses p }) s
  if 3 ≤ n then notify 0x8283 16 [pathCode p, 1, n, st64 s1] (setFlag R.ESC_INT_STAT 3 s1) else s1

/-- Failed paths, and paths_ok. -/
def failedPaths (s : State) : List Nat := (s.esc.misses.filter (fun e => decide (3 ≤ e.2))).map Prod.fst
def pathsOk (s : State) : Bool := failedPaths s == []

end Sys2Proof.Machine
end

