-- ==== Sys2Proof/Machine/Radio.lean ====
section
/-! DEFINITION. The radio (15_radio.md): transceivers and their limits, the slot calendar, values and cues, nodes, the firmware relay. -/

namespace Sys2Proof.Machine

def modRad (f : Rad → Rad) (s : State) : State := { s with rad := f s.rad }
def xcvrOf (s : State) (x : Nat) : Xcvr := vGet s.rad.xcvrs x Xcvr.reset
def modXcvr (x : Nat) (f : Xcvr → Xcvr) (s : State) : State := modRad (fun m => { m with xcvrs := vMod m.xcvrs x f }) s
def nodeOf (s : State) (n : Nat) : RadioNode := aGet s.rad.nodes n RadioNode.reset
def modNode (n : Nat) (f : RadioNode → RadioNode) (s : State) : State := modRad (fun m => { m with nodes := aPut m.nodes n (f (aGet m.nodes n RadioNode.reset)) }) s

def blankRadio (x : Nat) : RadioSet := ⟨x, 0, 0, 0, 0, 0, 0, 0, 0, 0, if x = 0 then 360000 else 0⟩
def radioOf (r : Cfg) (x : Nat) : RadioSet := aGet r.radios x (blankRadio x)

/-! Transceivers (R493 to R501, R520). -/

def xCfg (s : State) (x : Nat) : Word := reg s (R.RAD_Xn_CFG x)
def xProfile (s : State) (x : Nat) : Nat := if 3 < bits (xCfg s x) 27 24 then 0 else bits (xCfg s x) 27 24
def xPolling (s : State) (x : Nat) : Bool := bitOf (xCfg s x) 20

/-- The transceiver is enabled with a profile of its own, and its domain is on. -/
def xOn (s : State) (x : Nat) : Bool := s.part == .rk9200 && domainUp s 12 && bitOf (xCfg s x) 31 && xProfile s x != 0

def xState (s : State) (x : Nat) : Nat := if xOn s x = false then 0 else if (xcvrOf s x).slot.isNone then 1 else 2

/-- The hop set: channels of the mask, ascending (R495). -/
def hopSet (s : State) (x : Nat) : List Nat :=
  let m := regN s (R.RAD_Xn_MASK_LO x) + regN s (R.RAD_Xn_MASK_HI x) * 4294967296
  (List.range 64).filter (nBit m)

def hopKey (seed ch : Nat) : Nat := (crc32c (wordBytes (BitVec.ofNat 32 seed) ++ [BitVec.ofNat 8 ch])).toNat

def insertHop (seed ch : Nat) (l : List Nat) : List Nat :=
  match l with
  | [] => [ch]
  | y :: t => if hopKey seed ch < hopKey seed y then ch :: y :: t else y :: insertHop seed ch t

/-- h_0 to h_(L−1) (R501). -/
def hopOrder (seed : Nat) (l : List Nat) : List Nat := l.foldl (fun m ch => insertHop seed ch m) []

/-- The channel of slot n. -/
def slotChannel (s : State) (x : Nat) (n : Int) : Nat :=
  let h := hopOrder (regN s (R.RAD_Xn_SEED x)) (hopSet s x)
  h.getD ((n + (regN s (R.RAD_Xn_SEED x) : Int)) % (max 1 h.length : Nat)).toNat 0

def slotNow (s : State) : Int := st64 s / 10000000

/-- Airtime of a PSDU of b bytes in 1/3 µs (R493). -/
def byteUnits (x : Nat) : Nat := if x = 0 then 160 else 96
def overhead (x : Nat) : Nat := if x = 0 then 12 else 6
def airUnits (x b : Nat) : Nat := (overhead x + b) * byteUnits x

/-- Airtime of the frames started on a channel in the 20 s before the instant `now` of the reference clock, and on all in the hour before (R496, R497). -/
def dwellUnits (s : State) (now x ch : Nat) : Nat :=
  (((xcvrOf s x).log.filter (fun e => e.2.1 == ch && decide (now < e.1 + 20000000000))).map (fun e => e.2.2)).sum
def hourUnits (s : State) (now x : Nat) : Nat :=
  (((xcvrOf s x).log.filter (fun e => decide (now < e.1 + 3600000000000))).map (fun e => e.2.2)).sum

/-- RADIO_LIMIT, at most once per second per transceiver and kind: 0 dwell, 1 hourly limit, 2 channel busy (R498). -/
def radioLimit (x kind ch : Nat) (s : State) : State :=
  let r := aGet (xcvrOf s x).limits kind (0, none)
  let s1 := setFlag R.RAD_INT_STAT 2 s
  let quiet := match r.2 with
    | some t => decide (s.time.now < t + 1000000000)
    | none => false
  if quiet then modXcvr x (fun y => { y with limits := aPut y.limits kind (r.1 + 1, r.2) }) s1
  else notify 0x8271 16 [x, kind, ch, r.1 + 1, st64 s] (modXcvr x (fun y => { y with limits := aPut y.limits kind (0, some s.time.now) }) s1)

/-- The limit that refuses a frame of airtime a that would start on a channel at `now`: class H the dwell rule, class L the hourly limit (R496, R497). -/
def refusedBy (s : State) (now x ch a : Nat) : Option Nat :=
  let limit := regN s (R.RAD_Xn_HOUR_LIMIT x)
  if xProfile s x = 1 then (if dwellUnits s now x ch + a ≤ 1200000 then none else some 0)
  else if limit ≠ 0 ∧ limit * 3000 < hourUnits s now x + a then some 1 else none

/-! Frames (R493, R514). -/

/-- The beacon's fields of the relay: the image, its pieces and its CRC. -/
def relayFields (s : State) : List (BitVec 8) :=
  match s.rad.relay with
  | some q => le q.image 2 ++ le (ceilDiv s.rad.total 96) 2 ++ le q.crc 4
  | none => le 0 8

/-- Type, addressed node and payload of a frame. -/
def radioPayload (s : State) (x : Nat) (tx : RadioTx) : Nat × Nat × List (BitVec 8) :=
  match tx with
  | .beacon st relay => (1, 0, le (unsignedOf 64 st) 8 ++ wordBytes (reg s (R.RAD_Xn_MASK_LO x)) ++ wordBytes (reg s (R.RAD_Xn_MASK_HI x)) ++
      wordBytes (reg s (R.RAD_Xn_SEED x)) ++ le (bNat (xPolling s x)) 1 ++ le (xProfile s x) 1 ++ le (bNat relay) 1 ++ le 0 1 ++ relayFields s)
  | .values target tag zone entries => (2, 0, le (unsignedOf 64 target) 8 ++ le tag 4 ++ le entries.length 1 ++ le zone 1 ++ le 0 2 ++
      entries.flatMap (fun e => le (e.2.length + 128 * (e.1 / 65536)) 1 ++ le e.1 2 ++ e.2.map (BitVec.ofNat 8)))
  | .cue cues => (3, 0, le cues.length 1 ++ le 0 3 ++ cues.flatMap (fun c => le (unsignedOf 64 c.1) 8 ++ le c.2.1 4 ++ le c.2.2.1 2 ++ le c.2.2.2 2))
  | .poll entries => (4, 0, le entries.length 1 ++ le 0 1 ++ le (if x = 0 then 2200 else 1100) 2 ++
      entries.flatMap (fun e => le e.1 2 ++ le (unsignedOf 16 e.2.1) 2 ++ le e.2.2 8))
  | .uplinkAck node drift epoch => (6, node, le node 2 ++ le (unsignedOf 16 drift) 2 ++ le 0 4 ++ le epoch 8)
  | .config node position groups epoch drift => (7, node, le node 2 ++ le position 2 ++
      (List.range 4).flatMap (fun i => le (groups.getD i 0xFFFF) 2) ++ le epoch 8 ++ le (unsignedOf 16 drift) 2 ++ le 0 2)
  | .piece image piece data => (10, 0, le image 2 ++ le piece 2 ++ data)

/-- The PSDU of a frame: header, payload and the radio's own CRC-32C. -/
def radioPsdu (s : State) (x : Nat) (tx : RadioTx) : List (BitVec 8) :=
  let (type, node, payload) := radioPayload s x tx
  withCrc (le type 1 ++ [1] ++ le (bits (xCfg s x) 15 0) 2 ++ le node 2 ++ le (xcvrOf s x).seq 1 ++ [0] ++ payload)

/-- A frame is sent from `off` units into the slot; the result says whether a limit refused it. -/
def radioSend (x ch off bytes : Nat) (tx : RadioTx) (s : State) : State × Bool :=
  let a := airUnits x bytes
  let start := s.time.now + off * 1000 / 3
  match refusedBy s start x ch a with
  | some k => (radioLimit x k ch (bump (R.RAD_Xn_CNT_DWELL x) s), false)
  | none =>
    (bump (R.RAD_Xn_CNT_TX x) (modXcvr x (fun y => { y with
      log := (start, ch, a) :: y.log.filter (fun e => decide (s.time.now < e.1 + 3600000000000))
      seq := (y.seq + 1) % 256
      out := y.out ++ [tx]
      air := y.air ++ [radioPsdu s x tx]
      outEnd := off + a }) s), true)

/-! Nodes (R504 to R513). -/

def enrolled (r : Cfg) (n : Nat) : Bool := (aFind r.nodes n).isSome
def nodeXcvr (r : Cfg) (n : Nat) : Nat := ((aFind r.nodes n).map RadioNodeRec.xcvr).getD 0xFF
def nodesOn (r : Cfg) (x : Nat) : List (Nat × RadioNodeRec) := r.nodes.filter (fun e => e.2.xcvr == x)

/-- Fixtures that route to a node or to one of its groups. -/
def nodeFixtures (r : Cfg) (n : Nat) : List (Nat × FixtureEntry) :=
  let groups := ((aFind r.nodes n).map RadioNodeRec.groups).getD []
  (liveFixtures r).filter (fun e => (routeClass e.2 == 6 && e.2.routeB % 65536 == n) || (routeClass e.2 == 7 && groups.contains (e.2.routeB % 4096)))

/-- The unit of a key of the list of held fixtures serves a fixture (R291). -/
def keyServes (r : Cfg) (key n : Nat) : Bool :=
  let port := key / 65536 % 64
  let unit := key % 65536
  if key / 4194304 = 6 then (aFind r.nodes unit).isSome && (nodeFixtures r unit).any (fun e => e.1 == n)
  else laneOn r port && (laneCfg r port).mode == key / 4194304 && decide (unit < chainLen r port) && (chipFixtures r port unit).any (fun e => e.1 == n)

/-- A unit that serves a fixture no more does not hold it; the last such unit releases it (R291). -/
def unitsFollow (s : State) : State :=
  (liveFixtures s.cfgB).foldl (fun x e =>
    ((aGet s.fxm.stale e.1 []).filter (fun key => !keyServes s.cfgB key e.1)).foldl (fun y key => fixtureHold key (key % 65536) false y e) x) s

/-- The epoch a node requires (R513). -/
def nodeEpoch (s : State) (n : Nat) : Nat := if nodeFixtures s.cfgB n = [] then s.fxm.epoch else epochOf (nodeFixtures s.cfgB n)

def nodeCode (x : NodeState) : Nat :=
  match x with
  | .unjoined => 0 | .online => 1 | .lost => 2 | .stale => 3

/-- A node changes state (R510, R519). -/
def nodeMove (n : Nat) (st : NodeState) (cause : Nat) (s : State) : State :=
  let o := nodeOf s n
  if o.state = st then s
  else notify 0x8270 24 [n, nodeCode o.state, nodeCode st, cause, nodeXcvr s.cfgB n, o.epoch, st64 s]
    (setFlag R.RAD_INT_STAT 0 (modNode n (fun x => { x with state := st }) s))

/-- Members of a group on a transceiver. -/
def groupOn (r : Cfg) (g x : Nat) : Bool := r.nodes.any (fun e => e.2.xcvr == x && e.2.groups.contains g)

def countNodes (s : State) (st : NodeState) : Nat := (s.cfgB.nodes.filter (fun e => (nodeOf s e.1).state == st)).length

/-- Answers that a slot awaited and that did not come: 3 in a row lose the node (R510). -/
def missAnswers (x : Nat) (s : State) : State :=
  (xcvrOf s x).await.foldl (fun y n =>
    let m := (nodeOf y n).misses + 1
    let y1 := modNode n (fun q => { q with misses := m }) y
    if m = 3 then nodeMove n .lost 1 y1 else y1) (modXcvr x (fun q => { q with await := [] }) s)

/-- A node is stale: its fixtures are held and it gets a Configuration frame (R291, R513). -/
def nodeStale (n : Nat) (s : State) : State :=
  modNode n (fun q => { q with configDue := true }) (nodeMove n .stale 2 (unitHold (unitKey 6 0 n) n true (nodeFixtures s.cfgB n) s))

/-- A node whose epoch is lower than required is stale (R513). -/
def staleNodes (x : Nat) (s : State) : State :=
  (nodesOn s.cfgB x).foldl (fun y e =>
    if (nodeOf y e.1).state = .online ∧ (nodeOf y e.1).epoch < nodeEpoch y e.1 then nodeStale e.1 y else y) s

/-! Values (R511). -/

def entryKey (f : FixtureEntry) : Nat := if routeClass f = 7 then 65536 + f.routeB % 4096 else f.routeB % 65536

/-- Transceivers an entry goes out on: a bit each. -/
def entryMask (r : Cfg) (key : Nat) : Nat :=
  if key < 65536 then (if nodeXcvr r key < 2 then 2 ^ nodeXcvr r key else 0)
  else bNat (groupOn r (key - 65536) 0) + 2 * bNat (groupOn r (key - 65536) 1)

/-- A frame that would end too late is not sent; its entries stay pending, each counted once, and where they changed their zone is late (R44). -/
def valuesLate (keys : List Nat) (s : State) : State :=
  let new := s.rad.entries.filter (fun e => keys.contains e.1 && !e.2.late)
  let s1 := (new.filter (fun e => e.2.changed)).foldl (fun x e =>
    zoneLate 1 e.2.zone e.2.k (new.filter (fun o => o.2.changed && o.2.zone == e.2.zone && o.2.k == e.2.k)).length x) s
  bumpBy R.RAD_CNT_DEFER new.length (modRad (fun m => { m with entries := m.entries.map (fun e =>
    if keys.contains e.1 then (e.1, { e.2 with late := true }) else e) }) s1)

/-- An entry of an earlier frame still waits for a slot. -/
def entryWaits (s : State) (k : Int) (key : Nat) : Bool :=
  match aFind s.rad.entries key with
  | some o => decide (o.todo ≠ 0) && decide (o.k ≠ k)
  | none => false

/-- The radio entries of a zone's frame are released, but for those whose elements all repeat (R315). An entry of the frame before that no slot has
carried is late, and goes on with the new bytes (R44, R511). -/
def radioRelease (z : Nat) (k : Int) (s : State) : State :=
  match poolFrame s z k with
  | none => s
  | some pf =>
    let es := (zoneFixtures pf.cfg z).filter (fun e => (routeClass e.2 == 6 || routeClass e.2 == 7) && !fixtureAgain pf e)
    let s0 := valuesLate ((es.map (fun e => entryKey e.2)).filter (entryWaits s k)) s
    es.foldl (fun y e =>
      let key := entryKey e.2
      let b := slotBytes pf.cfg e.2 (aGet pf.values e.1 []) 0 (fixPixels e.2)
      let o := aGet y.rad.entries key ⟨z, k, [], 0, false, none, 0, false⟩
      let changed := decide (o.sent ≠ some b)
      let refresh := regN y R.RAD_REFRESH
      let again := decide (refresh ≠ 0) && decide (o.sentAt + refresh * 1000000 ≤ y.time.now)
      let new : RadioEntry := ⟨z, k, b, if changed || again then entryMask pf.cfg key else o.todo, changed, o.sent, o.sentAt, false⟩
      modRad (fun m => { m with entries := aPut m.entries key new }) y) s0

/-- The window of a zone's frame opens: its packets and radio entries are released, at once or when the frame is mapped (R125). -/
def windowOpen (z : Nat) (k : Int) (s : State) : State := radioRelease z k (zoneRelease z k s)

/-- The frame of an open window is in the pool. -/
def windowReady (z : Nat) (k : Int) (s : State) : State :=
  if s.pool.released.contains (z, k) then radioRelease z k (zoneReady z k s) else s

def entryTarget (s : State) (e : RadioEntry) : Int := syncAt s e.zone e.k - (regN s R.ALM_ADV_RADIO : Int)

/-- The order of entries: earliest target, then changed ones by group and node, then refreshes, oldest first. -/
def entryBefore (s : State) (a b : Nat × RadioEntry) : Bool :=
  let ta := entryTarget s a.2
  let tb := entryTarget s b.2
  let rank (e : Nat × RadioEntry) : Nat := if 65536 ≤ e.1 then e.1 - 65536 else e.1 + 65536
  if ta ≠ tb then decide (ta < tb)
  else if a.2.zone ≠ b.2.zone then decide (a.2.zone < b.2.zone)
  else if a.2.changed ≠ b.2.changed then a.2.changed
  else if a.2.changed then decide (rank a < rank b)
  else decide (a.2.sentAt < b.2.sentAt) || (a.2.sentAt == b.2.sentAt && decide (rank a < rank b))

def insertEntry (s : State) (e : Nat × RadioEntry) (l : List (Nat × RadioEntry)) : List (Nat × RadioEntry) :=
  match l with
  | [] => [e]
  | y :: t => if entryBefore s e y then e :: y :: t else y :: insertEntry s e t

/-- Entries to send on a transceiver, in order; a lost node gets none. -/
def entriesDue (s : State) (x : Nat) : List (Nat × RadioEntry) :=
  (s.rad.entries.filter (fun e => nBit e.2.todo x && (decide (65536 ≤ e.1) || (nodeOf s e.1).state != .lost))).foldl
    (fun l e => insertEntry s e l) []

/-- A frame to send: content, PSDU bytes, time to leave for an answer after it, the latest instant at which it may end, and what it carries. -/
structure RadioJob where
  tx : RadioTx
  bytes : Nat
  answer : Nat
  latest : Option Int
  keys : List Nat

/-- Entries packed into frames of at most 99 entry bytes of one zone and frame. -/
def packValues (s : State) (l : List (Nat × RadioEntry)) : List RadioJob :=
  let head (e : RadioEntry) (es : List (Nat × List Nat)) (keys : List Nat) : RadioJob :=
    ⟨.values (entryTarget s e) (unsignedOf 32 e.k) e.zone es, 28 + (es.map (fun p => 3 + p.2.length)).sum, 0,
      some (syncAt s e.zone e.k - commitLead s), keys⟩
  let jobs := l.foldl (fun (acc : List (RadioEntry × List (Nat × List Nat) × List Nat)) e =>
    match acc with
    | (h, es, ks) :: t =>
      if h.zone = e.2.zone ∧ h.k = e.2.k ∧ (es.map (fun p => 3 + p.2.length)).sum + 3 + e.2.bytes.length ≤ 99 then
        (h, es ++ [(e.1, e.2.bytes)], ks ++ [e.1]) :: t
      else (e.2, [(e.1, e.2.bytes)], [e.1]) :: acc
    | [] => [(e.2, [(e.1, e.2.bytes)], [e.1])]) []
  jobs.reverse.map (fun j => head j.1 j.2.1 j.2.2)

def valuesSent (x : Nat) (keys : List Nat) (s : State) : State :=
  modRad (fun m => { m with entries := m.entries.map (fun e =>
    if keys.contains e.1 then (e.1, { e.2 with todo := e.2.todo - (if nBit e.2.todo x then 2 ^ x else 0), sent := some e.2.bytes, sentAt := s.time.now })
    else e) }) s

/-! Cues (R512). -/

def cueGroup (c : Cue) : Nat := c.argument / 65536 % 4096
def cueKey (c : Cue) (x : Nat) : Nat := 2 * c.cueId + x
def cueMade (s : State) (c : Cue) (x : Nat) : Nat := aGet s.rad.cueSent (cueKey c x) 0

def insertCue (c : Cue) (l : List Cue) : List Cue :=
  match l with
  | [] => [c]
  | y :: t => if c.due.getD 0 < y.due.getD 0 then c :: y :: t else y :: insertCue c t

/-- Cues to repeat in a downlink slot that starts at `at_`, earliest execution first. -/
def cuesDue (s : State) (x : Nat) (at_ : Int) : List Cue :=
  (s.alm.cues.filter (fun c => c.action == 2 && s.rad.cuesIn.contains c.cueId && groupOn s.cfgB (cueGroup c) x && decide (cueMade s c x < bits (reg s R.RAD_REPEAT) 3 0) &&
    (match c.due with
     | some d => decide (d - (regN s R.RAD_CUE_LEAD : Int) * 1000000 ≤ at_) && decide (at_ < d)
     | none => false))).foldl (fun l c => insertCue c l) []

/-- ST64, times 3, of an offset in 1/3 µs into the slot that starts at `at_`. -/
def slotInstant (at_ : Int) (off : Nat) : Int := at_ * 3 + (off : Int) * 1000

/-- Frames of up to 6 cues, the first at `off`; a repetition that would end after the due time is left out (R512, R514). -/
def cueJobs (fuel x : Nat) (at_ : Int) (off : Nat) (l : List Cue) : List RadioJob :=
  match fuel with
  | 0 => []
  | n + 1 =>
    let stop := slotInstant at_ (off + airUnits x (16 + 16 * (l.take 6).length))
    let g := (l.take 6).filter (fun c => decide (stop ≤ c.due.getD 0 * 3))
    if l = [] then []
    else if g = [] then cueJobs n x at_ off (l.drop 6)
    else
      ⟨.cue (g.map (fun c => (c.due.getD 0, c.cueId, cueGroup c, c.argument % 65536))), 16 + 16 * g.length, 0, none, g.map Cue.cueId⟩ ::
        cueJobs n x at_ (off + airUnits x (16 + 16 * g.length) + 576) (l.drop 6)

def cuesSent (x : Nat) (ids : List Nat) (s : State) : State :=
  bumpBy R.RAD_CNT_CUE ids.length (modRad (fun m => { m with cueSent := ids.foldl (fun q i => aPut q (2 * i + x) (aGet q (2 * i + x) 0 + 1)) m.cueSent }) s)

/-! Configuration frames and the relay (R513, R515, R516). -/

def configTx (s : State) (n : Nat) : RadioTx :=
  let r := (aFind s.cfgB.nodes n).getD ⟨n, 0, 0xFFFF, 0, []⟩
  .config n (if xPolling s r.xcvr then 0xFFFF else r.position) r.groups (nodeEpoch s n) (nodeOf s n).drift

def configJobs (s : State) (x : Nat) : List RadioJob :=
  ((nodesOn s.cfgB x).filter (fun e => (nodeOf s e.1).configDue)).map (fun e => ⟨configTx s e.1, 36, 600 + airUnits x 24, none, [e.1]⟩)

def relayOn (s : State) : Bool :=
  match s.rad.relay with
  | some q => q.active
  | none => false

def pieceCount (total : Nat) : Nat := ceilDiv total 96

/-- Nodes of the target set. -/
def relayTargets (s : State) (q : Relay) : List Nat :=
  (s.cfgB.nodes.filter (fun e => nBit q.mask e.2.xcvr && (q.group == 0xFFFF || e.2.groups.contains q.group))).map Prod.fst

def missingOf (s : State) (q : Relay) (n : Nat) : List Nat := aGet q.missing n (List.range (pieceCount s.rad.total))

/-- Byte i of the node image. -/
def imageByte (s : State) (i : Nat) : BitVec 8 :=
  match s.rad.chunks.find? (fun c => decide (c.1 ≤ i) && decide (i < c.1 + c.2.length)) with
  | some c => c.2.getD (i - c.1) 0
  | none => 0

/-- Pieces a transceiver may still send, from its cursor on, then from the start (R516). -/
def pieceJobs (s : State) (x : Nat) : List RadioJob :=
  match s.rad.relay with
  | none => []
  | some q =>
    let y := xcvrOf s x
    let mine := (relayTargets s q).filter (fun n => nodeXcvr s.cfgB n == x)
    if q.active = false ∨ nBit q.mask x = false ∨ q.share * y.slots < 100 * (y.pieceSlots + 1) then []
    else
      let want := (List.range (pieceCount s.rad.total)).filter (fun p => mine.any (fun n => (missingOf s q n).contains p))
      ((want.filter (fun p => decide (y.pieceNext ≤ p))) ++ want.filter (fun p => decide (p < y.pieceNext))).map (fun p =>
        ⟨.piece q.image p ((List.range 96).map (fun i => imageByte s (96 * p + i))), 112, 0, none, [p]⟩)

def pieceSent (x p : Nat) (s : State) : State :=
  bump R.RAD_CNT_PIECES (modXcvr x (fun y => { y with pieceNext := p + 1 })
    (modRad (fun m => { m with relay := m.relay.map (fun q => { q with sent := q.sent + 1 }) }) s))

/-- Targets complete, and their number. -/
def relayDone (s : State) (q : Relay) : Nat := ((relayTargets s q).filter (fun n => missingOf s q n == [])).length

def relayNotice (s : State) : State :=
  match s.rad.relay with
  | some q => notify 0x8272 24 [q.image, relayDone s q, (relayTargets s q).length, q.sent, st64 s] (setFlag R.RAD_INT_STAT 4
      (modRad (fun m => { m with relay := some { q with progressAt := s.time.now } }) s))
  | none => s

/-! Slots (R500 to R505). -/

/-- What a frame sent changes. -/
def jobSent (x : Nat) (j : RadioJob) (s : State) : State :=
  match j.tx with
  | .values _ _ _ _ => valuesSent x j.keys s
  | .cue _ => cuesSent x j.keys s
  | .config n _ _ _ _ => modNode n (fun q => { q with configDue := false }) s
  | .piece _ p _ => pieceSent x p s
  | _ => s

/-- Frames back to back from `off`, each ending by 9,700 µs; a refused frame ends the occupancy (R498, R503). -/
def sendJobs (x ch : Nat) (at_ : Int) (off : Nat) (l : List RadioJob) (s : State) : State :=
  match l with
  | [] => s
  | j :: r =>
    let stop := off + airUnits x j.bytes
    let tooLate := match j.latest with
      | some t => decide (t * 3 < slotInstant at_ stop)
      | none => false
    if tooLate then sendJobs x ch at_ off r (match j.tx with
      | .values _ _ _ _ => valuesLate j.keys s
      | _ => s)
    else if 29100 < stop + j.answer then s
    else
      let (s1, sent) := radioSend x ch off j.bytes j.tx s
      if sent then sendJobs x ch at_ (stop + j.answer + 576) r (jobSent x j s1) else s1

/-- The listen of class L, in 1/3 µs (R497). -/
def listenUnits (s : State) (x r : Nat) : Nat :=
  match xProfile s x with
  | 2 => 3 * (160 + 32 * min r 15)
  | 3 => 3 * (128 + 64 * min r 7)
  | _ => 0

/-- Nodes the next poll names. -/
def pollNodes (s : State) (x : Nat) : List Nat :=
  let l := ((nodesOn s.cfgB x).map Prod.fst).filter (fun n => (nodeOf s n).state == .online || (nodeOf s n).state == .stale)
  let c := (xcvrOf s x).pollNext
  ((l.filter (fun n => decide (c ≤ n))) ++ l.filter (fun n => decide (n < c))).take (if x = 0 then 2 else 5)

/-- The beacon of s = 0. -/
def sendBeacon (x ch : Nat) (at_ : Int) (off : Nat) (s : State) : State :=
  let st := at_ + ((off + overhead x * byteUnits x : Nat) : Int) * 1000 / 3
  let (s1, sent) := radioSend x ch off 44 (.beacon st (relayOn s)) s
  if sent then s1 else bump (R.RAD_Xn_CNT_BEACON_MISS x) s1

/-- A poll (R505). -/
def sendPoll (x ch off : Nat) (s : State) : State :=
  let l := pollNodes s x
  if l = [] then s
  else
    let (s1, sent) := radioSend x ch off (16 + 12 * l.length) (.poll (l.map (fun n => (n, (nodeOf s n).drift, nodeEpoch s n)))) s
    if sent then modXcvr x (fun y => { y with await := l, pollNext := l.getLastD 0 + 1 }) s1 else bump (R.RAD_Xn_CNT_POLL_MISS x) s1

/-- The node whose uplink slot n is (R504). -/
def uplinkNodes (s : State) (x : Nat) (n : Int) : List Nat :=
  let frame := (n / 256 % 4).toNat
  let sl := (n % 256).toNat
  ((nodesOn s.cfgB x).filter (fun e => e.2.position / 63 == frame && 4 * (1 + e.2.position % 63) == sl &&
    ((nodeOf s e.1).state == .online || (nodeOf s e.1).state == .stale))).map Prod.fst

/-- Slot n of the coordinator. -/
def coordinate (x : Nat) (n : Int) (busy : Bool) (r : Nat) (s : State) : State :=
  let sl := (n % 256).toNat
  let ch := slotChannel s x n
  let at_ := n * 10000000
  let off := 900 + listenUnits s x r
  let control := sl % 4 == 0
  let poll := xPolling s x && control && decide (4 ≤ sl) && decide (sl ≤ 248)
  let sends := sl == 0 || poll || !control
  let s0 := if control then s else modXcvr x (fun y => { y with slots := y.slots + bNat (relayOn s) }) s
  if control ∧ sl ≠ 0 ∧ xPolling s x = false then modXcvr x (fun y => { y with await := uplinkNodes s x n }) s0
  else if sends = false then s0
  else
    let jobs : List RadioJob := if control then []
      else (let l := cuesDue s0 x at_
            cueJobs (l.length + 1) x at_ off l ++ packValues s0 (entriesDue s0 x) ++ configJobs s0 x ++ pieceJobs s0 x)
    let some_ := sl == 0 || (poll && pollNodes s0 x != []) || !jobs.isEmpty
    if some_ = false then s0
    else if busy = true ∧ 2 ≤ xProfile s x then
      let s1 := radioLimit x 2 ch (bump (R.RAD_Xn_CNT_BUSY x) s0)
      if sl = 0 then bump (R.RAD_Xn_CNT_BEACON_MISS x) s1 else if poll then bump (R.RAD_Xn_CNT_POLL_MISS x) s1 else s1
    else if sl = 0 then sendBeacon x ch at_ off s0
    else if poll then sendPoll x ch off s0
    else
      let s1 := sendJobs x ch at_ off jobs s0
      let pieces := (xcvrOf s1 x).out.any (fun t => match t with
        | .piece _ _ _ => true
        | _ => false)
      if pieces then modXcvr x (fun y => { y with pieceSlots := y.pieceSlots + 1 }) s1 else s1

/-- The standby of the lead group listens for the holder's beacons (R544). -/
def listenBeacon (x : Nat) (n : Int) (first : Bool) (s : State) : State :=
  if n % 256 ≠ 0 then s
  else
    let s1 := if (xcvrOf s x).beaconSeen ∨ first then s else pathMiss (16 + x) s
    modXcvr x (fun y => { y with beaconSeen := false }) s1

/-- A radio slot starts, where the Almanac has armed it (R109, R110). -/
def radioSlot (x : Nat) (busy : Bool) (r : Nat) (sIn : State) : State :=
  let n := slotNow sIn
  let go := (xcvrOf sIn x).armed == some (n * 10000000)
  let s := if go then modXcvr x (fun y => { y with armed := none }) sIn else sIn
  let old := (xcvrOf s x).slot
  let done := match old with
    | some m => decide (n ≤ m)
    | none => false
  if go = false ∨ xOn s x = false ∨ s.time.running = false ∨ done = true then s
  else
    let s1 := modXcvr x (fun y => { y with slot := some n, out := [], air := [], outEnd := 0 }) (missAnswers x s)
    if leads s then coordinate x n busy r (staleNodes x s1) else listenBeacon x n old.isNone s1

/-- The values that wait for a transceiver whose slot the full launch list refused are discarded and late (R135; which frame a slot belongs to is a
DESIGN CHOICE, log entry 9). -/
def dropValues (x : Nat) (s : State) : State :=
  let keys := (entriesDue s x).map Prod.fst
  modRad (fun m => { m with entries := m.entries.map (fun e =>
    if keys.contains e.1 then (e.1, { e.2 with todo := e.2.todo - 2 ^ x }) else e) }) (valuesLate keys s)

/-- The start of the next slot goes on the launch list (R109). -/
def nextRadioSlot (x : Nat) (s : State) : State :=
  if xOn s x = false ∨ s.time.running = false ∨ s.alm.launch.any (fun e => e.kind == .radioSlot x) = true ∨
      (xcvrOf s x).armed.any (fun a => decide (s.time.st64 < a)) = true then s
  else
    let at_ := (slotNow s + 1) * 10000000
    let s1 := insertLaunch at_ (.radioSlot x) [] 5 s
    if launchFits s at_ then s1 else dropValues x s1

/-- The slots of both transceivers go on the launch list as show time starts and at frame boundaries, where they are not on it (log entry 9). -/
def radioSlots (s : State) : State := nextRadioSlot 1 (nextRadioSlot 0 s)

def execRadioSlotStart (t : Nat) (xcvr : Fin 2) (busy : Bool) (r : Nat) (s : State) : Out :=
  .next (nextRadioSlot xcvr (radioSlot xcvr busy r (advance t s)))

/-! Received frames (R499, R506, R507, R510, R513). -/

/-- The drift after a new error: the mean with weight 1/8, to the next hundredth below or above (R510). -/
def driftNew (n : RadioNode) (e st : Int) : Int :=
  match n.errorAt with
  | none => n.drift
  | some t =>
    if st ≤ t then n.drift
    else
      let num := 7 * n.drift * (st - t) + (e - n.error) * 100000000
      let den := 8 * (st - t)
      if num % den = 0 then num / den else num / den + (bNat (Config.sampleUp [num, den]) : Nat)

/-- The coordinator answers in the slot, 200 µs after a frame of b bytes that began at ST64 `st`, where the answer ends within the transmit window
(R500). -/
def answerAfter (x : Nat) (st : Int) (b bytes : Nat) (tx : RadioTx) (s : State) : State :=
  if leads s = false then s
  else
    let off := (((st - slotNow s * 10000000) * 3) / 1000).toNat + b * byteUnits x + 600
    if 29100 < off + airUnits x bytes then s else (radioSend x (slotChannel s x (slotNow s)) off bytes tx s).1

/-- The relay's bitmap of a node follows its answer; a node that holds another image has none of the pieces (R516, R517). -/
def relayAnswer (n first window held : Nat) (s : State) : State :=
  match s.rad.relay with
  | none => s
  | some q =>
    if q.active = false ∨ (relayTargets s q).contains n = false then s
    else
      let total := pieceCount s.rad.total
      let old := missingOf s q n
      let new := if held ≠ q.image then List.range total
        else if first = 0xFFFF then []
        else (List.range total).filter (fun p => decide (first ≤ p) &&
          (if p < first + 32 then nBit window (p - first) else old.contains p))
      let s1 := modRad (fun m => { m with relay := some { q with missing := aPut q.missing n new } }) s
      if new = [] ∧ old ≠ [] ∧ (relayTargets s q).all (fun y => y == n || missingOf s q y == []) = true then relayNotice s1 else s1

/-- A node that reports `epoch` is stale (R290, R291). -/
def reportStale (n epoch : Nat) (s : State) : Bool := unitFirst (unitKey 6 0 n) s || decide (epoch < nodeEpoch s n)

/-- Fixtures follow the epoch a node reports, and a stale node gets a Configuration frame (R290, R291, R513). -/
def nodeReport (n epoch : Nat) (s : State) : State :=
  let stale := reportStale n epoch s
  unitReport (unitKey 6 0 n) n stale (nodeFixtures s.cfgB n)
    (modNode n (fun x => { x with epoch := epoch, configDue := if stale then true else x.configDue }) s)

/-- A node's Response or uplink, with the payload of R514 at byte 8. -/
def nodeResponse (x : Nat) (f : RadioRx) (s : State) : State :=
  let n := field f.psdu 4 2
  let tNode := field f.psdu 8 4
  let flags := field f.psdu 12 1
  let first := field f.psdu 16 2
  if nodeXcvr s.cfgB n ≠ x then s
  else
    let o := nodeOf s n
    let e := signed 32 (unsignedOf 32 ((tNode : Int) - f.st))
    let s1 := modXcvr x (fun y => { y with await := y.await.filter (· != n) }) (modNode n (fun q => { q with
      drift := driftNew o e f.st, error := e, errorAt := some f.st, misses := 0, battery := field f.psdu 14 2, rssi := field f.psdu 13 1, flags := flags
      firstMissing := first, answerAt := f.st }) s)
    let stale := nBit flags 0 || decide (o.epoch < nodeEpoch s n)
    let s2 := if stale then nodeStale n s1 else nodeMove n .online 0 (unitHold (unitKey 6 0 n) n false (nodeFixtures s1.cfgB n) s1)
    let s3 := relayAnswer n first (field f.psdu 20 4) (field f.psdu 18 2) s2
    if xPolling s x then s3 else answerAfter x f.st f.psdu.length 28 (.uplinkAck n (nodeOf s3 n).drift (nodeEpoch s3 n)) s3

/-- A node acknowledges its configuration. -/
def nodeConfigAck (x : Nat) (f : RadioRx) (n epoch : Nat) (s : State) : State :=
  if nodeXcvr s.cfgB n ≠ x then s
  else
    let s1 := nodeReport n epoch (modXcvr x (fun y => { y with await := y.await.filter (· != n) })
      (modNode n (fun q => { q with misses := 0, answerAt := f.st, configDue := q.configDue && decide (epoch < nodeEpoch s n) }) s))
    if reportStale n epoch s then nodeMove n .stale 2 s1 else nodeMove n .online 3 s1

/-- A Join: the EUI-64 is matched, or the join is unknown (R506). -/
def nodeJoin (x : Nat) (f : RadioRx) (eui epoch : Nat) (s : State) : State :=
  match (nodesOn s.cfgB x).find? (fun e => e.2.eui == eui) with
  | some e =>
    let n := e.1
    let s1 := nodeReport n epoch (modNode n (fun q => { q with misses := 0, answerAt := f.st }) s)
    let s2 := nodeMove n (if reportStale n epoch s then .stale else .online) 0 s1
    answerAfter x f.st f.psdu.length 36 (configTx s2 n) s2
  | none =>
    let s1 := setFlag R.RAD_INT_STAT 3 (bump R.RAD_CNT_JOIN_UNKNOWN s)
    let quiet := match s.rad.unknownAt with
      | some t => decide (s.time.now < t + 1000000000)
      | none => false
    if quiet then s1 else notify 0x8273 24 [x, eui, st64 s] (modRad (fun m => { m with unknownAt := some s.time.now }) s1)

/-- The last 4 bytes are the CRC-32C over the header and payload before them (R493, R514). -/
def psduOk (l : List (BitVec 8)) : Bool := decide (12 ≤ l.length) && (crc32c (l.take (l.length - 4))).toNat == field l (l.length - 4) 4

/-- The intake packet of a received frame (R507). -/
def radioPacket (x : Nat) (f : RadioRx) : List (BitVec 8) :=
  [BitVec.ofNat 8 x, BitVec.ofInt 8 (f.rssi + 128), 0, 0] ++ wordBytes (loWord f.st) ++ wordBytes (hiWord f.st) ++ f.psdu

/-- The radio MAC engine takes a frame: beacons of the holder, Responses, acknowledgements and joins, each of the length of R514. -/
def radioFrame (x : Nat) (f : RadioRx) (s : State) : State :=
  match field f.psdu 0 1, f.psdu.length with
  | 1, 44 => if leads s then s else pathGood (16 + x) (modXcvr x (fun y => { y with beaconSeen := true }) s)
  | 5, 28 => nodeResponse x f s
  | 8, 24 => nodeConfigAck x f (field f.psdu 8 2) (field f.psdu 12 8) s
  | 9, 32 => if leads s then nodeJoin x f (field f.psdu 8 8) (field f.psdu 16 8) s else s
  | _, _ => s

/-- A frame reaches a transceiver: one with a right CRC, of its network, goes through intake queue 16 (R507, R514). -/
def radioReceive (x : Nat) (f : RadioRx) (s : State) : State :=
  if xOn s x = false then s
  else if psduOk f.psdu = false then bump (R.RAD_Xn_CNT_CRC x) s
  else if field f.psdu 1 1 ≠ 1 ∨ field f.psdu 2 2 ≠ bits (xCfg s x) 15 0 then s
  else
    let (s1, taken) := intake 16 (radioPacket x f) (bump (R.RAD_Xn_CNT_RX x) s)
    if taken then radioFrame x f s1 else s1

def execRadioFrameReceived (t : Nat) (xcvr : Fin 2) (f : RadioRx) (s : State) : Out := .next (radioReceive xcvr f (advance t s))

/-- Progress every 60 s (R516). -/
def execRadioFwProgressTimer (t : Nat) (s : State) : Out :=
  let s1 := advance t s
  match s1.rad.relay with
  | some q => if q.active ∧ q.progressAt + 60000000000 ≤ s1.time.now then .next (relayNotice s1) else .next s1
  | none => .next s1

/-! Configuration (R504, R518, R519). -/

def radioSetOk (p : RadioSet) : Bool := decide (p.xcvr ≤ 1) && decide (p.scheme ≤ 1)

def radioNodesOk (p : RadioNodeSet) : Bool :=
  decide (1 ≤ p.records.length) && decide (p.records.length ≤ 1024) && p.records.all (fun n => decide (n.xcvr ≤ 1) || n.xcvr == 0xFF)

def execRadioSet (c : Call) (p : RadioSet) (s : State) : Out := configMessage 0x0490 32 c (fun _ => radioSetOk p) (.radioSet p) s

def execRadioNodeSet (c : Call) (p : RadioNodeSet) (s : State) : Out :=
  configMessage 0x0491 (8 + 24 * p.records.length) c (fun _ => radioNodesOk p) (.radioNodeSet p) s

/-- The lowest position no other node of the transceiver holds. -/
def freePosition (r : Cfg) (n x : Nat) : Nat :=
  ((List.range 250).find? (fun p => !(nodesOn r x).any (fun e => e.1 != n && e.2.position == p))).getD 0xFFFF

def enrolNode (r : Cfg) (p : RadioNodeRec) : Cfg :=
  if p.xcvr = 0xFF then { r with nodes := aDel r.nodes p.node }
  else
    let pos := if p.position = 0xFFFF ∧ (radioOf r p.xcvr).scheme = 0 then freePosition r p.node p.xcvr else p.position
    { r with nodes := aPut r.nodes p.node { p with position := pos } }

def radRecord (m : ConfigMsg) (r : Cfg) : Cfg :=
  match m with
  | .radioSet p => { r with radios := aPut r.radios p.xcvr p }
  | .radioNodeSet p => p.records.foldl enrolNode r
  | _ => r

def maskCount (m : Nat) : Nat := ((List.range 64).filter (nBit m)).length

/-- L and channels of a profile (R493, R495). -/
def profileMask (profile mask : Nat) : Bool :=
  let l := maskCount mask
  let within (lo hi : Nat) : Bool := (List.range 64).all (fun n => !nBit mask n || (decide (lo ≤ n) && decide (n ≤ hi)))
  l % 2 == 1 && match profile with
    | 1 => decide (51 ≤ l) && decide (l ≤ 63)
    | 2 => decide (l ≤ 17) && within 0 16
    | 3 => decide (l ≤ 15) && within 11 26
    | _ => false

def radioCheck (s : State) (base draft : Cfg) (x : Nat) : Option (List Int) :=
  let p := radioOf draft x
  let q := radioOf base x
  let fail (req lim : Nat) : Option (List Int) := some [1, x, req, lim]
  if (aFind draft.radios x).isNone ∨ p = q then none
  else if 3 < p.profile ∨ (p.profile ≠ 0 ∧ (p.profile = 3) ≠ (x = 1)) then fail p.profile 3
  else if p.profile ≠ 0 ∧ profileMask p.profile p.mask = false then fail (maskCount p.mask) 63
  else if p.eirp < -10 ∨ 20 < p.eirp then fail (unsignedOf 32 p.eirp) 20
  else if 120 < p.gain then fail p.gain 120
  else if (s.power.mode = .show ∨ s.power.mode = .spare) ∧ xState s x = 2 ∧
      (p.profile ≠ q.profile ∨ p.scheme ≠ q.scheme ∨ p.net ≠ q.net ∨ p.seed ≠ q.seed ∨ p.mask ≠ q.mask) then fail p.profile 0
  else none

def nodesCheck (draft : Cfg) : Option (List Int) :=
  let slotted (x : Nat) : Bool := (radioOf draft x).scheme == 0
  let full := [0, 1].find? (fun x => slotted x && decide (250 < (nodesOn draft x).length))
  let dup (e : Nat × RadioNodeRec) : Bool := draft.nodes.any (fun g => g.1 != e.1 &&
    (g.2.eui == e.2.eui || (g.2.xcvr == e.2.xcvr && slotted e.2.xcvr && g.2.position == e.2.position)))
  let bad := draft.nodes.find? (fun e => (slotted e.2.xcvr && decide (249 < e.2.position)) || dup e ||
    e.2.groups.any (fun g => g != 0xFFFF && decide (4095 < g)))
  match full, bad with
  | some x, _ => some [2, x, (nodesOn draft x).length, 250]
  | none, some e => some [2, e.1, e.2.position, 249]
  | none, none => none

/-- The checks of R518 in their order: cause, index, required, limit. -/
def radReject (s : State) (base draft : Cfg) : Option (List Int) :=
  let lost := (liveFixtures draft).find? (fun e => routeClass e.2 == 6 && !enrolled draft (e.2.routeB % 65536))
  let long := (liveFixtures draft).find? (fun e => (routeClass e.2 == 6 || routeClass e.2 == 7) && decide (96 < dmxSlots draft e.2))
  (radioCheck s base draft 0).or ((radioCheck s base draft 1).or ((nodesCheck draft).or
    (match lost, long with
     | some e, _ => some [3, e.1, e.2.routeB, 0]
     | none, some e => some [3, e.1, dmxSlots draft e.2, 96]
     | none, none => none)))

/-- The registers of a transceiver (R520). -/
def radioShadow (x : Nat) (p : RadioSet) (s : State) : State :=
  let cfg := bNat (nBit p.flags 0) * 2147483648 + p.profile % 16 * 16777216 + p.scheme % 2 * 1048576 + p.net % 65536
  let pow := unsignedOf 8 p.eirp * 16777216 + p.gain % 256 * 65536 + unsignedOf 8 p.thresh * 256
  let w (n : Nat) : Word := BitVec.ofNat 32 n
  setReg (R.RAD_Xn_HOUR_LIMIT x) (w p.hourLimit) (setReg (R.RAD_Xn_MASK_HI x) (w (p.mask / 4294967296)) (setReg (R.RAD_Xn_MASK_LO x) (w p.mask)
    (setReg (R.RAD_Xn_SEED x) (w p.seed) (setReg (R.RAD_Xn_POWER x) (w pow) (setReg (R.RAD_Xn_CFG x) (w cfg) s)))))

/-- At the copy: registers of changed transceivers, nodes enrolled and withdrawn. -/
def radConfigure (old : Cfg) (s : State) : State :=
  let s1 := s.cfgB.radios.foldl (fun y e =>
    if aFind old.radios e.1 = some e.2 then y
    else modXcvr e.1 (fun q => if (radioOf old e.1).profile = e.2.profile ∧ nBit e.2.flags 0 then q else { q with slot := none, await := [] })
      (radioShadow e.1 e.2 y)) s
  let gone := old.nodes.filter (fun e => aFind s.cfgB.nodes e.1 != some e.2 && ((aFind s.cfgB.nodes e.1).map (fun n => (n.xcvr, n.eui))) != some (e.2.xcvr, e.2.eui))
  gone.foldl (fun y e => modRad (fun m => { m with nodes := aDel m.nodes e.1 })
    (nodeMove e.1 .unjoined 4 (unitHold (unitKey 6 0 e.1) e.1 false (nodeFixtures y.cfgB e.1) y))) s1

/-- Show time stops: nothing of a frame stays (R697). -/
def radStop (s : State) : State :=
  modRad (fun m => { m with
    entries := m.entries.map (fun e => (e.1, { e.2 with todo := 0 }))
    cueSent := []
    cuesIn := []
    xcvrs := vMap m.xcvrs (fun x => { x with slot := none, armed := none, await := [], out := [], air := [], beaconSeen := false }) }) s

/-! Commands (R519). -/

def execRadioGlobalSet (c : Call) (p : RadioGlobalSet) (s : State) : Out :=
  command 0x0496 c s fun s =>
    if p.cueLead < 100 ∨ 10000 < p.cueLead ∨ p.cueRepeat < 1 ∨ 15 < p.cueRepeat then refuse .invalidParameter s
    else if domainUp s 12 = false then refuse .notReady s
    else accept (setReg R.RAD_CUE_LEAD (BitVec.ofNat 32 p.cueLead) (setField R.RAD_REPEAT 3 0 p.cueRepeat (setReg R.RAD_REFRESH (BitVec.ofNat 32 p.refresh) s)))

def dwellMax (s : State) (x : Nat) : Nat := ((List.range 64).foldl (fun m ch => max m (dwellUnits s s.time.now x ch)) 0) / 3

def execRadioStatusGet (c : Call) (xcvr : Nat) (s : State) : Out :=
  command 0x0492 c s fun s =>
    if 1 < xcvr then refuse .invalidParameter s
    else
      let mine (st : NodeState) : Nat := ((nodesOn s.cfgB xcvr).filter (fun e => (nodeOf s e.1).state == st)).length
      answer 32 [xState s xcvr, slotChannel s xcvr (slotNow s), (hopSet s xcvr).length, mine .online, mine .lost, mine .stale, dwellMax s xcvr,
        (hourUnits s s.time.now xcvr / 3000 : Nat), slotNow s] s

def nodeFields (s : State) (e : Nat × RadioNodeRec) : List Int :=
  let n := nodeOf s e.1
  [e.1, nodeCode n.state, e.2.xcvr, e.2.position, n.drift, n.epoch, n.error, n.battery, n.rssi, n.flags, n.firstMissing, n.answerAt]

def execRadioNodeGet (c : Call) (first : Nat) (count : Nat) (s : State) : Out :=
  command 0x0493 c s fun s =>
    if count < 1 ∨ 256 < count then refuse .invalidParameter s
    else
      let l := (s.cfgB.nodes.filter (fun e => decide (first ≤ e.1))).take count
      answer (8 + 36 * l.length) ((l.length : Int) :: l.flatMap (nodeFields s)) s

/-- A chunk of a node image: its CRC is checked (R515). -/
def execRadioFwLoad (c : Call) (p : RadioFwLoad) (s : State) : Out :=
  command 0x0494 c s fun s =>
    if 262144 < p.total ∨ p.total = 0 ∨ p.offset % 96 ≠ 0 ∨ 65536 < p.data.length ∨ p.data = [] ∨ p.total < p.offset + p.data.length ∨
        (crc32c p.data).toNat ≠ p.crc then refuse .invalidParameter s
    else if relayOn s then refuse .busy s
    else accept (modRad (fun m =>
      let keep := m.image == p.image && m.total == p.total
      { m with image := p.image, total := p.total, chunks := aPut (if keep then m.chunks else []) p.offset p.data }) s)

def imageBytes (s : State) : List (BitVec 8) := (List.range s.rad.total).map (imageByte s)

def imageWhole (s : State) : Bool :=
  (List.range (pieceCount s.rad.total)).all (fun p => s.rad.chunks.any (fun c => decide (c.1 ≤ 96 * p) && decide (min s.rad.total (96 * p + 96) ≤ c.1 + c.2.length)))

/-- The relay starts or stops; bitmaps survive while image and CRC stay the same (R515 to R517). -/
def execRadioFwStart (c : Call) (p : RadioFwStart) (s : State) : Out :=
  command 0x0495 c s fun s =>
    if 1 < p.action ∨ (p.action = 1 ∧ (p.share < 1 ∨ 50 < p.share ∨ p.mask = 0 ∨ 3 < p.mask ∨ (p.group ≠ 0xFFFF ∧ 4095 < p.group))) then
      refuse .invalidParameter s
    else if p.action = 0 then accept (modRad (fun m => { m with relay := m.relay.map (fun q => { q with active := false }) }) s)
    else if s.rad.image ≠ p.image ∨ imageWhole s = false then refuse .notFound s
    else if (crc32c (imageBytes s)).toNat ≠ p.crc then refuse .invalidParameter s
    else
      let kept := match s.rad.relay with
        | some q => if q.image = p.image ∧ q.crc = p.crc then q.missing else []
        | none => []
      accept (modRad (fun m => { m with
        relay := some ⟨p.image, p.crc, p.share, p.group, p.mask, true, 0, s.time.now, kept⟩
        xcvrs := vMap m.xcvrs (fun x => { x with slots := 0, pieceSlots := 0, pieceNext := 0 }) }) s)

/-! Registers that show the radio (R520). -/

def radioNodeWord (s : State) (i : Nat) : Nat :=
  let n := bits (reg s R.RAD_NODE_IDX) 15 0
  let o := nodeOf s n
  match aFind s.cfgB.nodes n with
  | none => 0
  | some r => match i with
    | 0 => 2147483648 + nodeCode o.state * 268435456 + r.xcvr * 134217728 + r.position
    | 1 => unsignedOf 16 o.drift * 65536 + min 65535 o.misses
    | 2 => o.epoch % 4294967296
    | _ => o.epoch / 4294967296

def viewRad (s : State) (a : Nat) : Option Word :=
  let w (n : Nat) : Option Word := some (BitVec.ofNat 32 n)
  let off := pageOff a
  let x := (off - 0x1000) / 0x100
  if 0x1000 ≤ off ∧ off < 0x1200 then
    (match off % 0x100 with
     | 0x20 => w (xState s x * 1073741824 + slotChannel s x (slotNow s) * 256 + (hopSet s x).length)
     | 0x24 => some (loWord (slotNow s))
     | 0x28 => some (hiWord (slotNow s))
     | 0x2C => w (dwellMax s x)
     | 0x30 => w (hourUnits s s.time.now x / 3000)
     | _ => none)
  else match off with
    | 0x000 => w (bNat (xState s 0 == 2 && leads s) + 2 * bNat (xState s 1 == 2 && leads s))
    | 0x010 => w s.cfgB.nodes.length
    | 0x014 => w (countNodes s .online)
    | 0x018 => w (countNodes s .lost)
    | 0x01C => w (countNodes s .stale)
    | 0x020 => (match s.rad.relay with
      | some q => w (if q.active then q.image * 65536 + q.share * 256 + 1 else 0)
      | none => w 0)
    | 0x0A0 => w (radioNodeWord s 0)
    | 0x0A4 => w (radioNodeWord s 1)
    | 0x0A8 => w (radioNodeWord s 2)
    | 0x0AC => w (radioNodeWord s 3)
    | _ => none

end Sys2Proof.Machine
end

