-- ==== Sys2Proof/Machine/Sample.lean ====
section
/-! DEFINITION. What an engine computes for a pixel or a channel (R279, R280, R297 to R302, R319, R323, R324): sampling kernels, effects and the
merge of control channels. -/

namespace Sys2Proof.Machine

/-- A sample: R, G and B in L22, A as a 16-bit code. -/
structure Smp where
  r : Nat
  g : Nat
  b : Nat
  a : Nat
deriving DecidableEq, Repr

def Smp.zero : Smp := ⟨0, 0, 0, 0⟩

/-- A tap: outside the canvas it is transparent black (R279). -/
def tapAt (c : Canvas) (u v : Int) : Smp :=
  if 0 ≤ u ∧ u < c.width ∧ 0 ≤ v ∧ v < c.height then
    let p := canvasPixel c u.toNat v.toNat
    ⟨decodeCanvas p.r, decodeCanvas p.g, decodeCanvas p.b, p.a⟩
  else Smp.zero

/-- num / den, and where that is no whole number one of the two next to it. -/
def openDiv (num den : Nat) : Nat :=
  if num % max 1 den = 0 then num / max 1 den else num / max 1 den + bNat (Config.sampleUp [(num : Int), den])

/-- A weighted mean of taps, by channel. -/
def meanOf (l : List (Nat × Smp)) : Smp :=
  let w := (l.map Prod.fst).sum
  let ch (f : Smp → Nat) : Nat := openDiv ((l.map (fun x => x.1 * f x.2)).sum) w
  ⟨ch Smp.r, ch Smp.g, ch Smp.b, ch Smp.a⟩

/-- Position of pixel (i, j) in s16.16 (R279). -/
def positionX (f : FixtureEntry) (i j : Nat) : Int := f.originX + i * f.colDx + j * f.rowDx
def positionY (f : FixtureEntry) (i j : Nat) : Int := f.originY + i * f.colDy + j * f.rowDy

/-- Bilinear between the four nearest centers (R280). -/
def bilinear (c : Canvas) (x y : Int) : Smp :=
  let u := (x - 32768) / 65536
  let v := (y - 32768) / 65536
  let fu := ((x - 32768) % 65536).toNat
  let fv := ((y - 32768) % 65536).toNat
  meanOf [((65536 - fu) * (65536 - fv), tapAt c u v), (fu * (65536 - fv), tapAt c (u + 1) v),
    ((65536 - fu) * fv, tapAt c u (v + 1)), (fu * fv, tapAt c (u + 1) (v + 1))]

/-- The center of canvas pixel (u, v) lies in the parallelogram of the steps around (x, y) (R280). -/
def inArea (f : FixtureEntry) (x y u v : Int) : Bool :=
  let dx := 65536 * u + 32768 - x
  let dy := 65536 * v + 32768 - y
  let det := f.colDx * f.rowDy - f.colDy * f.rowDx
  let s := 2 * (dx * f.rowDy - dy * f.rowDx)
  let t := 2 * (f.colDx * dy - f.colDy * dx)
  if det = 0 then false
  else if s.natAbs < det.natAbs ∧ t.natAbs < det.natAbs then true
  else if s.natAbs ≤ det.natAbs ∧ t.natAbs ≤ det.natAbs then Config.areaEdge [f.colDx, f.colDy, f.rowDx, f.rowDy, dx, dy]
  else false

/-- Integers from `lo` to `hi`. -/
def spanI (lo hi : Int) : List Int := (List.range (hi + 1 - lo).toNat).map (fun n => lo + (n : Nat))

/-- Columns and lines that the parallelogram reaches. -/
def areaUs (f : FixtureEntry) (x : Int) : List Int :=
  let ex : Int := ((f.colDx.natAbs + f.rowDx.natAbs + 1) / 2 : Nat)
  spanI ((x - ex) / 65536) ((x + ex) / 65536)

def areaVs (f : FixtureEntry) (y : Int) : List Int :=
  let ey : Int := ((f.colDy.natAbs + f.rowDy.natAbs + 1) / 2 : Nat)
  spanI ((y - ey) / 65536) ((y + ey) / 65536)

/-- Lines on which a center lies in the parallelogram, ascending (R313). -/
def areaRows (f : FixtureEntry) (x y : Int) : List Int := (areaVs f y).filter (fun v => (areaUs f x).any (fun u => inArea f x y u v))

/-- The mean of the canvas pixels whose centers lie in the parallelogram (R280). -/
def areaMean (c : Canvas) (f : FixtureEntry) (x y : Int) : Smp :=
  let taps := (areaVs f y).flatMap (fun v => ((areaUs f x).filter (fun u => inArea f x y u v)).map (fun u => ((1 : Nat), tapAt c u v)))
  if taps = [] then
    let free (ch top : Nat) : Nat := Config.areaEmpty [(ch : Int), x, y, f.colDx, f.colDy, f.rowDx, f.rowDy, c.k] % (top + 1)
    ⟨free 0 l22Max, free 1 l22Max, free 2 l22Max, free 3 65535⟩
  else meanOf taps

/-- The weight of a tap of kernel 3 by its offset in 1/65,536 pixel: e^(−d² / 2σ²) with σ = 0.5, in units of 2⁻⁴⁰ (R280). -/
def gaussWeight (dx dy : Int) : Nat := expFix (-(2 * (dx * dx + dy * dy) * 2 ^ 28)) / 2 ^ 20

/-- Kernel 3: 3 × 3 taps around the pixel that contains the position (R280). -/
def gaussian (c : Canvas) (x y : Int) : Smp :=
  let u := x / 65536
  let v := y / 65536
  meanOf ((spanI (v - 1) (v + 1)).flatMap (fun q => (spanI (u - 1) (u + 1)).map (fun p =>
    (gaussWeight (65536 * p + 32768 - x) (65536 * q + 32768 - y), tapAt c p q))))

/-- A store of `n` bytes: what lies past the bytes given is 0. -/
def sized (n : Nat) (l : List (BitVec 8)) : List (BitVec 8) := (l ++ List.replicate n 0).take n

/-- The scratch of a user program, 1 KiB (R319). -/
def scratch (l : List (BitVec 8)) : List (BitVec 8) := sized 1024 l

/-- The inputs of a user program for pixel (i, j) of a fixture (R319). -/
def userInputs (c : Canvas) (img : KernelLoad) (f : FixtureEntry) (n index i j : Nat) (k : Int) : List Int :=
  let x := positionX f i j
  let y := positionY f i j
  let u := x / 65536 - (img.tapsW - 1 : Nat) / 2
  let v := y / 65536 - (img.tapsH - 1 : Nat) / 2
  let taps : List Int := (List.range (img.tapsW * img.tapsH)).flatMap (fun q =>
    let t := tapAt c (u + (q % img.tapsW : Nat)) (v + (q / img.tapsW : Nat))
    ([t.r, t.g, t.b, t.a] : List Nat).map Int.ofNat)
  [x, y, f.colDx, f.colDy, f.rowDx, f.rowDy, n, index, f.channels, unsignedOf 32 k] ++ taps

/-- A user kernel's sample, and the scratch it leaves (R319, R320). -/
def userSample (c : Canvas) (img : KernelLoad) (f : FixtureEntry) (n index i j : Nat) (k : Int) (pad : List (BitVec 8)) : Smp × List (BitVec 8) :=
  let r := Config.userKernel img.text img.store (userInputs c img f n index i j k) pad
  let out (ch top : Nat) : Nat := r.1.getD ch 0 % (top + 1)
  (⟨out 0 l22Max, out 1 l22Max, out 2 l22Max, out 3 65535⟩, scratch r.2)

/-- The sample of pixel (i, j) of a fixture, and the tile's scratch after it (R279, R280, R319). -/
def sampleOf (s : State) (c : Canvas) (f : FixtureEntry) (n index i j : Nat) (k : Int) (pad : List (BitVec 8)) : Smp × List (BitVec 8) :=
  let x := positionX f i j
  let y := positionY f i j
  match f.kernel with
  | 0 => (tapAt c (x / 65536) (y / 65536), pad)
  | 1 => (bilinear c x y, pad)
  | 2 => (areaMean c f x y, pad)
  | 3 => (gaussian c x y, pad)
  | code => match aFind s.map.kernels code with
    | some u => userSample c u.image f n index i j k pad
    | none => (Smp.zero, pad)

/-! Effects (R323, R324). -/

/-- θ, in u0.16. -/
def effectPhase (e : EffectRec) (k : Int) (i : Nat) : Nat :=
  (((e.rate : Int) * signed 32 (unsignedOf 32 (k - e.k0)) + e.offset + (e.spread * i : Nat)) % 65536).toNat

def le32 (n : Nat) : List (BitVec 8) := wordBytes (BitVec.ofNat 32 n)

/-- h of the program Twinkle. -/
def twinkleHash (e : EffectRec) (k : Int) (i : Nat) : Nat :=
  let j := signed 32 (unsignedOf 32 (k - e.k0)) / (max 1 e.hold : Nat)
  bits (crc32c (le32 e.seed ++ le32 (unsignedOf 32 j) ++ le32 i)) 31 16

/-- v of index i in frame k under a built-in program, where 0xFFFF means 1.0. -/
def builtIn (e : EffectRec) (k : Int) (i : Nat) : Nat :=
  let th := effectPhase e k i
  let top := min 65535 (e.base + e.depth)
  match e.program with
  | 0 => 65535
  | 1 =>
    let v := e.base * one60 + e.depth * sineHalf th + 2 ^ 20
    let low : Int := if v % one60 < 2 ^ 21 then -1 else 0
    (clampI 0 65535 ((v / one60 : Nat) + clampI low 1 (Config.sineError [e.base, e.depth, th]))).toNat
  | 2 => if th < e.duty then top else e.base
  | 3 => min 65535 (e.base + e.depth * th / 65536)
  | 4 => if twinkleHash e k i < e.duty then top else e.base
  | _ => 65535

/-- The inputs of a user effect for an index: the record's fields and those of R319. -/
def effectInputs (c : Canvas) (img : KernelLoad) (e : EffectRec) (f : FixtureEntry) (n index i j : Nat) (k : Int) : List Int :=
  [(f.effect : Int), e.flags, e.rate, e.offset, e.spread, e.base, e.depth, e.duty, e.hold, e.seed, e.k0, e.user] ++ userInputs c img f n index i j k

/-- v of an index of fixture `n` in frame k, and the tile's scratch after it; a user effect reads its slot's state as the frame before left it (R323,
R324). -/
def effectValue (s : State) (c : Canvas) (e : EffectRec) (f : FixtureEntry) (n index i j : Nat) (k : Int) (pad : List (BitVec 8)) :
    Nat × List (BitVec 8) :=
  if e.program < 128 then (builtIn e k index, pad)
  else match aFind s.map.kernels (256 + e.program) with
    | some u =>
      let r := Config.userEffect u.image.text u.image.store (effectInputs c u.image e f n index i j k)
        (sized u.image.stateBytes (aGet s.map.effectPast f.effect [])) pad
      (r.1 % 65536, scratch r.2)
    | none => (65535, pad)

def blankEffect : EffectRec := ⟨0, 0, 0, 0, 0, 0, 0, 0, 0, 0, 0, 0⟩
def effectOf (r : Cfg) (slot : Nat) : EffectRec := aGet r.effects slot blankEffect

/-- Each L22 channel of a surface's sample under an effect with apply set (R324). -/
def applyEffect (s : State) (r : Cfg) (c : Canvas) (f : FixtureEntry) (n index i j : Nat) (k : Int) (x : Smp × List (BitVec 8)) : Smp × List (BitVec 8) :=
  if effectOn f ∧ nBit (effectOf r f.effect).flags 0 then
    let q := effectValue s c (effectOf r f.effect) f n index i j k x.2
    let m (l : Nat) : Nat := (2 * l * q.1 + 65535) / (2 * 65535)
    (⟨m x.1.r, m x.1.g, m x.1.b, x.1.a⟩, q.2)
  else x

/-- The outputs of an attribute fixture's effect: a built-in program's for every index that a source can name, a user program's for the fixture's
channels (R298, R323). -/
def effectOutputs (s : State) (r : Cfg) (c : Canvas) (f : FixtureEntry) (n : Nat) (k : Int) (pad : List (BitVec 8)) : List Nat × List (BitVec 8) :=
  if effectOn f then
    let e := effectOf r f.effect
    (List.range (if e.program < 128 then 64 else f.channels)).foldl (fun a i =>
      let q := effectValue s c e f n i 0 0 k a.2
      (a.1 ++ [q.1], q.2)) ([], pad)
  else ([], pad)

/-! Merge of control channels (R297 to R301). -/

/-- The 16-bit codes of a sample, with BT.2020 luma (R298, R299). -/
def canvasCodes (s : State) (c : Canvas) (f : FixtureEntry) (n : Nat) (k : Int) (pad : List (BitVec 8)) : List Nat × List (BitVec 8) :=
  let x := sampleOf s c f n 0 0 0 k pad
  let p : Rgba := if f.kernel = 0 then
      (let u := f.originX / 65536
       let v := f.originY / 65536
       if 0 ≤ u ∧ u < c.width ∧ 0 ≤ v ∧ v < c.height then canvasPixel c u.toNat v.toNat else transparent)
    else ⟨encodeCanvas x.1.r, encodeCanvas x.1.g, encodeCanvas x.1.b, x.1.a⟩
  let l := 2627 * p.r + 6780 * p.g + 593 * p.b
  ([p.r, p.g, p.b, p.a, l / 10000 + bNat (l % 10000 != 0 && Config.lumaUp [p.r, p.g, p.b])], x.2)

/-- Value and priority of source word `w` of a channel where the source is active, from the sample's codes and the effect's outputs (R298). -/
def sourceValue (s : State) (fr : MapFrame) (codes outs : List Nat) (d : Nat) (wide : Bool) (w prio : Nat) :
    Option (Nat × Nat) :=
  let index := w % 536870912
  match w / 536870912 with
  | 1 => codes[index]?.map (fun v => (v, prio))
  | 2 => (hostValue s d fr.k).map (fun v => (v, prio))
  | 3 => outs[index % 64]?.map (fun v => (v, prio))
  | 4 => (aFind fr.intake (index / 512 % 16384)).map (fun x =>
      let at_ (n : Nat) : Nat := x.1.getD n 0 % 256
      let first := index % 512
      (if wide then at_ first * 256 + at_ (first + 1) else at_ first * 257, if prio = 0xFF then x.2 else prio))
  | _ => none

/-- The entry with the latest change; ties go to the lowest slot (R300). -/
def latest (l : List (Int × Nat)) : Option Nat :=
  (l.foldl (fun best e => match best with
    | none => some e
    | some b => if b.1 < e.1 then some e else some b) (none : Option (Int × Nat))).map Prod.snd

/-- The merge: descriptor, active values by source with priority and frame of the last change (R300). -/
def mergeValue (a : AttrDesc) (active : List (Nat × Nat × Int)) : Nat :=
  let top (l : List (Nat × Nat × Int)) : Nat := l.foldl (fun m e => max m e.1) 0
  if active = [] then a.dflt % 65536
  else match a.ctrl % 4 with
    | 1 => (latest (active.map (fun e => (e.2.2, e.1)))).getD 0
    | 2 => top (active.filter (fun e => e.2.1 == active.foldl (fun m x => max m x.2.1) 0))
    | _ => top active

/-- Where the LTP entry of source `i` of descriptor `d` at fixture `n` is kept. -/
def ltpKey (n d i : Nat) : Nat := (n * 65536 + d) * 4 + i

/-- Channel `c` of fixture `n`: its value and the LTP entries of its sources (R301). -/
def channelValue (s : State) (fr : MapFrame) (n : Nat) (f : FixtureEntry) (c : Nat) (codes outs : List Nat) (ltp : SMap (Option (Option Nat) × Int)) :
    Nat × SMap (Option (Option Nat) × Int) :=
  let d := f.attrRef + c
  let a := attrOf fr.cfg d
  let vals := (List.range 4).map (fun i => sourceValue s fr codes outs d (nBit a.ctrl 2) (a.src.getD i 0) (a.prio.getD i 0))
  let key := ltpKey n d
  let changed (i : Nat) (v : Option Nat) : Int :=
    let old := aGet ltp (key i) (some none, fr.k)
    if v.isSome ∧ old.1 ≠ none ∧ old.1 ≠ some v then fr.k else old.2
  let l2 := (List.range 4).foldl (fun m i =>
    let v := (vals.getD i none).map Prod.fst
    aPut m (key i) (some v, changed i v)) ltp
  (mergeValue a ((List.range 4).filterMap (fun i => (vals.getD i none).map (fun x => (x.1, x.2, (aGet l2 (key i) (some none, fr.k)).2)))), l2)

end Sys2Proof.Machine
end

