-- ==== Sys2Proof/Machine/Mapper.lean ====
section
/-! DEFINITION. The mapper cluster (09_mapper_engines.md): roles, tiles, the frame in the engines, failure, takeover, shedding, user programs. -/

namespace Sys2Proof.Machine

def modMap (f : Mapper → Mapper) (s : State) : State := { s with map := f s.map }

def blankEngine : Engine := ⟨.off, 15, 0, 0, 0, none, 0, 0⟩
def mapEngine (s : State) (e : Nat) : Engine := vGet s.map.engines e blankEngine
def modMapEngine (e : Nat) (f : Engine → Engine) (s : State) : State := modMap (fun m => { m with engines := vMod m.engines e f }) s

def roleCode (r : Role) : Nat :=
  match r with
  | .off => 0 | .active => 1 | .spare => 2 | .failed => 3 | .testing => 4 | .idle => 5

/-- Engines in a role, ascending, and their mask. -/
def inRole (s : State) (r : Role) : List Nat := (List.range 16).filter (fun e => (mapEngine s e).role == r)
def roleCount (s : State) (r : Role) : Nat := (inRole s r).length
def roleMask (s : State) (r : Role) : Nat := ((inRole s r).map (fun e => 2 ^ e)).sum

def engineDomain (e : Nat) : Nat := if e < 8 then 5 else 6

/-- Cluster B is in use (R308). -/
def clusterB (s : State) : Bool :=
  !s.map.released || s.power.mode == .soak ||
    ((s.power.mode == .diagnose || s.power.mode == .calibrate) && (vGet s.power.domains 6 (Dom.reset .off)).held)

/-- An engine's cluster is in use and on. -/
def engineOn (s : State) (e : Nat) : Bool := domainUp s (engineDomain e) && (decide (e < 8) || clusterB s)

/-- The target active count (R306, R308). -/
def targetNow (s : State) : Nat :=
  let n := if clusterB s then 16 else 8
  if s.power.mode = .soak then n else n - 1

/-! The cluster registers have one home, in cluster A's half (R334). -/

def mapFlag (bit : Nat) (s : State) : State := setFlag (R.MAP_INT_STAT 0) bit s

/-! Elements (R315). -/

/-- The elements of a piece of a tile: route indexes, or channels. -/
def elemRange (r : Cfg) (p : TilePart) : Nat × Nat :=
  let f := aGet r.fixtures p.fixture blankFixture
  if f.kind = 2 then (0, f.channels) else (p.first, p.count)

/-- Elements of a fixture take the value they carried in the frame before; 0 where there was none. -/
def repeatElems (last : SMap (SMap Nat)) (fx lo n : Nat) (cur : SMap (SMap Nat)) : SMap (SMap Nat) :=
  let old := aGet last fx []
  aPut cur fx ((List.range n).foldl (fun m i => match aFind old (lo + i) with
    | some v => aPut m (lo + i) v
    | none => aDel m (lo + i)) (aGet cur fx []))

def repeatParts (r : Cfg) (last : SMap (SMap Nat)) (ps : List TilePart) (cur : SMap (SMap Nat)) : SMap (SMap Nat) :=
  ps.foldl (fun m p => repeatElems last p.fixture (elemRange r p).1 (elemRange r p).2 m) cur

/-- Elements are marked as repeated. -/
def markAgain (fx lo n : Nat) (m : SMap (SMap Unit)) : SMap (SMap Unit) :=
  aPut m fx ((List.range n).foldl (fun x i => aPut x (lo + i) ()) (aGet m fx []))

def markParts (r : Cfg) (ps : List TilePart) (m : SMap (SMap Unit)) : SMap (SMap Unit) :=
  ps.foldl (fun x p => markAgain p.fixture (elemRange r p).1 (elemRange r p).2 x) m

/-- The pool's copy of a fixture of frame k is written again. -/
def poolAgain (k : Int) (fx : Nat) (values : SMap (SMap Nat)) (again : SMap (SMap Unit)) (s : State) : State :=
  modPool (fun p => { p with frames := p.frames.map (fun g =>
    if g.k = k ∧ (aFind g.values fx).isSome then
      { g with values := aPut g.values fx (aGet values fx []), again := aPut g.again fx (aGet again fx []) }
    else g) }) s

def modFrame (f : MapFrame → MapFrame) (s : State) : State := modMap (fun m => { m with frame := m.frame.map f }) s

/-- Pieces of a tile repeat, in the frame and in the pool (R315, R326). -/
def repeatTile (ps : List TilePart) (s : State) : State :=
  match s.map.frame with
  | none => s
  | some fr =>
    let v := repeatParts fr.cfg fr.prev ps fr.values
    let a := markParts fr.cfg ps fr.again
    ps.foldl (fun x p => poolAgain fr.k p.fixture v a x) (modFrame (fun g => { g with values := v, again := a }) s)

/-- The first element of each segment of a surface (R292). -/
def segmentStarts (r : Cfg) (f : FixtureEntry) : List Nat :=
  let rows := (List.range f.rows).foldl (fun m j => aPut m (j * f.cols) ()) ([] : SMap Unit)
  aKeys ((flowCuts r f).foldl (fun m c => aPut m c ()) rows)

/-- Of segment n of a fixture, the first element and how many (R292). -/
def segmentRange (r : Cfg) (fx n : Nat) : Nat × Nat :=
  let f := aGet r.fixtures fx blankFixture
  if f.kind = 2 then (0, f.channels)
  else
    let lo := (segmentStarts r f).getD n 0
    (lo, (segmentStarts r f).getD (n + 1) (fixPixels f) - lo)

/-- The segments that a piece of a tile walks. -/
def segmentsIn (r : Cfg) (p : TilePart) : List (Nat × Nat) :=
  let f := aGet r.fixtures p.fixture blankFixture
  if f.kind = 2 then [(p.fixture, 0)]
  else
    let st := segmentStarts r f
    ((List.range st.length).filter (fun i => decide (st.getD i 0 < p.first + p.count) && decide (p.first < st.getD (i + 1) (fixPixels f)))).map
      (fun i => (p.fixture, i))

/-- A segment is read: from the cache, or from DRAM, after which the cache holds it (R268, R304, log entry 14). -/
def segmentRead (s : State) (e : Nat × Nat) : State :=
  if s.fxm.cache.contains e then bump R.FXM_CNT_HIT s
  else bump R.FXM_CNT_MISS (modFxm (fun m => { m with
    cache := (if m.cache.length < 65536 then m.cache else m.cache.eraseIdx (Config.cacheVictim e.1 e.2 % 65536)) ++ [e] }) s)

def segmentReads (r : Cfg) (t : Tile) (s : State) : State := (t.parts.flatMap (segmentsIn r)).foldl segmentRead s

/-- A parity error at MAP, PHO or the delay-pool write: the segment that holds the word repeats (R172, R315). -/
def repeatSegment (fx n : Nat) (s : State) : State :=
  match s.map.frame with
  | none => s
  | some fr =>
    let g := segmentRange fr.cfg fx n
    let v := repeatElems fr.prev fx g.1 g.2 fr.values
    let a := markAgain fx g.1 g.2 fr.again
    poolAgain fr.k fx v a (modFrame (fun q => { q with values := v, again := a })
      (modProtect (fun p => { p with badSegments := p.badSegments ++ [(fx, g.1, g.2)] }) s))

/-! The end of a zone and of a frame. -/

/-- Tiles of a zone, by number. -/
def tilesOf (fr : MapFrame) (z : Nat) : List (Nat × Tile) :=
  ((List.range fr.tiles.length).zip fr.tiles).filter (fun t => t.2.zone == z)

/-- The zone's elements of frame k go to the delay pool; a zone all of whose tiles repeat is not sent (R315). -/
def zonePush (z : Nat) (s : State) : State :=
  match s.map.frame with
  | none => s
  | some fr =>
    if (poolFrame s z fr.k).isSome ∨ fr.driven.contains z = false ∨ s.pool.unsent.contains (z, fr.k) = true then s
    else if (tilesOf fr z).any (fun t => match aFind fr.ended t.1 with
        | some e => e.how == .done
        | none => false) then
      windowReady z fr.k (modPool (fun p => { p with frames := p.frames ++
        [⟨z, fr.k, fr.cfg, (zoneFixtures fr.cfg z).map (fun e => (e.1, aGet fr.values e.1 [])),
          (zoneFixtures fr.cfg z).map (fun e => (e.1, aGet fr.again e.1 []))⟩] }) s)
    else s

/-- The zone's last tile ended. -/
def zoneEnded (fr : MapFrame) (z : Nat) : Bool := (tilesOf fr z).all (fun t => (aFind fr.ended t.1).isSome)

/-- What the registers say of the last frame (R318, R334). -/
def lastFrom (fr : MapFrame) (m : Mapper) : Mapper :=
  { m with
    lastK := fr.k, lastTime := (fr.lastDone - fr.startAt).toNat, lastLost := fr.lost, lastLate := fr.late, lastEnded := fr.ended
    engines := vMap m.engines (fun e => { e with lastClocks := e.clocks }) }

/-- Mapping of the frame is over. -/
def frameClose (s : State) : State :=
  match s.map.frame with
  | none => s
  | some fr =>
    modMap (fun m => lastFrom fr { m with frame := some { fr with open_ := false } }) (if fr.open_ = true ∧ fr.tiles ≠ [] then phoEnd fr.k s else s)

/-- Every tile has ended; a tile lost after that changes what the registers say. -/
def frameDone (s : State) : State :=
  match s.map.frame with
  | some fr => if fr.tiles.length ≤ fr.ended.length then frameClose s else s
  | none => s

/-- Tile n ended; a tile lost after it was completed ended then (R333). -/
def tileEnd (n : Nat) (r : TileRec) (s : State) : State :=
  let s1 := modFrame (fun g => { g with
    ended := aPut g.ended n r, lastDone := if (aFind g.ended n).isSome then g.lastDone else max g.lastDone s.time.st64 }) s
  match s1.map.frame with
  | some fr =>
    let z := (fr.tiles.getD n ⟨0, [], 0, 0⟩).zone
    frameDone (if zoneEnded fr z then zonePush z s1 else s1)
  | none => s1

/-! Canvas lines (R313). -/

/-- Canvas lines that a pixel's taps touch, from the lowest to the highest, in canvas pixels; where it has no tap the first lies above the second. -/
def tapLines (m : Mapper) (f : FixtureEntry) (x y : Int) : Int × Int :=
  match f.kernel with
  | 0 => (y / 65536, y / 65536)
  | 1 => ((y - 32768) / 65536, (y - 32768) / 65536 + 1)
  | 2 => ((areaRows f x y).headD 1, (areaRows f x y).getLastD 0)
  | 3 => (y / 65536 - 1, y / 65536 + 1)
  | c =>
    let h := ((aFind m.kernels c).map (fun k => k.image.tapsH)).getD 1
    (y / 65536 - ((h - 1) / 2 : Nat), y / 65536 - ((h - 1) / 2 : Nat) + (h - 1 : Nat))

/-- Row and column of a route index (R281). -/
def pixelAtIndex (f : FixtureEntry) (index : Nat) : Nat × Nat :=
  let cols := max 1 f.cols
  let j := index / cols
  (if nBit f.flags 0 ∧ j % 2 = 1 then cols - 1 - index % cols else index % cols, j)

/-- The highest canvas line that a tile needs, clipped to the canvas; none where it needs none. -/
def tileTop (m : Mapper) (r : Cfg) (height : Nat) (t : Tile) : Option Nat :=
  let top (f : FixtureEntry) (i : Nat) : Option Nat :=
    let (u, v) := pixelAtIndex f i
    let l := tapLines m f (positionX f u v) (positionY f u v)
    if l.2 < l.1 ∨ l.2 < 0 ∨ (height : Int) ≤ l.1 then none else some (min l.2 ((height : Int) - 1)).toNat
  t.parts.foldl (fun best p =>
    let f := aGet r.fixtures p.fixture blankFixture
    (List.range p.count).foldl (fun b i => match b, top f (p.first + i) with
      | some x, some y => some (max x y)
      | none, y => y
      | x, none => x) best) none

/-- The canvas lines of a tile are complete in the canvas that the frame maps (R237, R313). -/
def linesReady (s : State) (fr : MapFrame) (t : Tile) : Bool :=
  match fr.canvas with
  | none => true
  | some n =>
    if n + 1 < s.cmp.count ∨ s.cmp.complete then true
    else match aFind s.cmp.canvases n with
      | none => true
      | some c => match tileTop s.map fr.cfg c.height t with
        | none => true
        | some l => decide (l < s.cmp.lines)

/-! User programs (R319 to R322). -/

/-- Keys of the programs that a tile runs. -/
def tilePrograms (r : Cfg) (t : Tile) : List Nat :=
  t.parts.flatMap (fun p =>
    let f := aGet r.fixtures p.fixture blankFixture
    (if 128 ≤ f.kernel then [f.kernel] else []) ++
      (if effectOn f ∧ 128 ≤ (effectOf r f.effect).program then [256 + (effectOf r f.effect).program] else []))

def programOff (s : State) (key : Nat) : Bool :=
  match aFind s.map.kernels key with
  | some k => k.disabled
  | none => false

/-- KERNEL_TRAP, at most once per code per 100 ms, or when the code is disabled (R322). -/
def trapNotice (key engine fx cause : Nat) (k : Int) (disabled : Bool) (s : State) : State :=
  match aFind s.map.kernels key with
  | none => s
  | some u =>
    let quiet := match u.noticeAt with
      | some t => decide (s.time.now < t + 100000000)
      | none => false
    if quiet && !disabled then s
    else notify 0x8213 24 [key % 256, cause, engine, bNat (decide (256 ≤ key)) + 2 * bNat disabled, fx, unsignedOf 32 k, u.since, st64 s]
      (modMap (fun m => { m with kernels := aPut m.kernels key { u with since := 0, noticeAt := some s.time.now } }) s)

/-- A trap of a program in frame k is counted; 3 frames in a row disable it (R319, R322). -/
def trapCount (key engine fx cause : Nat) (k : Int) (s : State) : State :=
  match aFind s.map.kernels key with
  | none => s
  | some u =>
    let run := if u.trapK = some k then u.trapRun else if u.trapK = some (k - 1) then u.trapRun + 1 else 1
    let off := !u.disabled && decide (3 ≤ run)
    let s1 := modMap (fun m => { m with kernels := aPut m.kernels key { u with
      trapK := some k, trapRun := run, disabled := u.disabled || decide (3 ≤ run), since := u.since + 1 } }) s
    trapNotice key engine fx cause k off s1

/-- A tile is abandoned because a program trapped; the engine stays ACTIVE (R319). -/
def tileTrap (e n : Nat) (s : State) : State :=
  match s.map.frame with
  | none => s
  | some fr =>
    tileEnd n ⟨e, 0, .trapped⟩ (repeatTile (fr.tiles.getD n ⟨0, [], 0, 0⟩).parts (modMapEngine e (fun x => { x with held := none }) s))

/-! The frame in one engine (R312, R313). -/

/-- The ns for which an engine has waited for canvas lines in the tile it holds (R313). -/
def heldWait (s : State) (e : Engine) : Nat :=
  match e.held with
  | some h => if h.waiting then s.time.now - h.claimedAt else 0
  | none => 0

/-- Engine clocks of a tile in 1/16 clock (R309). -/
def tileClocks (t : Tile) : Nat := t.cost * 14 / 15

/-- The next tile of the table to claim: one that this device maps. -/
def nextTile (fuel : Nat) (fr : MapFrame) (n : Nat) : Nat :=
  match fuel with
  | 0 => n
  | m + 1 => if (aFind fr.ended n).isSome then nextTile m fr (n + 1) else n

/-- An engine claims the next tile of the table; a tile of a disabled program repeats without being run (R312, R314, R322). -/
def tileClaim (e : Nat) (s : State) : State :=
  match s.map.frame with
  | none => s
  | some fr =>
    let x := mapEngine s e
    let n := nextTile fr.tiles.length fr fr.claims
    if fr.open_ = false ∨ fr.deadline ≤ s.time.st64 ∨ fr.tiles.length ≤ n ∨ x.role ≠ .active ∨ x.held.isSome = true ∨
        fr.k < x.fromK ∨ engineOn s e = false then s
    else
      let t := fr.tiles.getD n ⟨0, [], 0, 0⟩
      let s1 := modFrame (fun g => { g with claims := n + 1 })
        (modMapEngine e (fun y => { y with held := some ⟨n, s.time.now, 0, !linesReady s fr t, false⟩ }) s)
      if (tilePrograms fr.cfg t).any (programOff s) then tileTrap e n s1 else s1

def execTileClaim (t : Nat) (engine : Fin 16) (s : State) : Out := .next (tileClaim engine (advance t s))

/-- Canvas lines completed: the engines whose tiles need no more wait no longer (R313). -/
def waitsEnd (s : State) : State :=
  match s.map.frame with
  | none => s
  | some fr =>
    let ended (e : Nat) : Bool := match (mapEngine s e).held with
      | some h => h.waiting && linesReady s fr (fr.tiles.getD h.tile ⟨0, [], 0, 0⟩)
      | none => false
    ((List.range 16).filter ended).foldl (fun x e => bumpBy (R.MAP_CNT_WAIT 0) (heldWait s (mapEngine s e))
      (modMapEngine e (fun y => { y with held := y.held.map (fun h => { h with waited := s.time.now - h.claimedAt, waiting := false }) }) x)) s

/-- The engine starts to sample once its lines are complete, or a program traps (R313, R319). -/
def tileSample (e : Nat) (trap : Option TrapFound) (s : State) : State :=
  match s.map.frame, (mapEngine s e).held with
  | some fr, some h =>
    let t := fr.tiles.getD h.tile ⟨0, [], 0, 0⟩
    if h.sampling ∨ fr.open_ = false ∨ linesReady s fr t = false then s
    else
      let wait := heldWait s (mapEngine s e)
      let s1 := segmentReads fr.cfg t <| bumpBy (R.MAP_CNT_WAIT 0) wait
        (modMapEngine e (fun x => { x with held := some { h with waited := h.waited + wait, waiting := false, sampling := true } }) s)
      match trap with
      | none => s1
      | some p =>
        let f := aGet fr.cfg.fixtures p.fixture blankFixture
        let key := if p.effect then 256 + (effectOf fr.cfg f.effect).program else f.kernel
        if (aFind s.map.kernels key).isNone ∨ t.parts.all (fun q => q.fixture != p.fixture) then s1
        else tileTrap e h.tile (trapCount key e p.fixture p.cause fr.k
          (mapFlag 3 (bump (R.MAP_CNT_TRAP 0) (bump (R.MAP_En_TRAP (e / 8) (e % 8)) s1))))
  | _, _ => s

def execTileSampleStart (t : Nat) (engine : Fin 16) (trap : Option TrapFound) (s : State) : Out :=
  .next (tileSample engine trap (advance t s))

/-- An element of the frame repeats because of an error found in it or in its entry (R172, R174). -/
def elemBad (s : State) (fx i : Nat) : Bool :=
  s.protect.badEntries.contains fx || s.protect.badSegments.any (fun b => b.1 == fx && decide (b.2.1 ≤ i) && decide (i < b.2.1 + b.2.2))

/-- What a tile yields: values, LTP entries, counts of the photometric stage, bytes of its words in route index order,
and the scratch of its user programs (R318, R319, R336, R356). -/
structure TileOut where
  values : SMap (SMap Nat)
  again : SMap (SMap Unit)
  ltp : SMap (Option (Option Nat) × Int)
  count : PhoCount
  bytes : List (BitVec 8)
  scratch : List (BitVec 8)

def blankCanvas : Canvas := ⟨0, 0, 0, ⟨transparent, []⟩, []⟩

/-- The canvas that a frame maps (R237). -/
def canvasFor (s : State) (canvas : Option Nat) : Canvas :=
  match canvas with
  | some n => aGet s.cmp.canvases n blankCanvas
  | none => blankCanvas

/-- The chip of a lane fixture's pixel, as the temperatures number it. -/
def chipKey (r : Cfg) (f : FixtureEntry) (index : Nat) : Nat :=
  routePort f * 1024 + chipOfPixel (laneChain r (routePort f)).counts 0 0 (f.routeB + index)

/-- One pixel of a surface: sampled, effect, corrected. -/
def surfacePixel (s : State) (fr : MapFrame) (c : Canvas) (n : Nat) (f : FixtureEntry) (o : TileOut) (index : Nat) : TileOut :=
  let (i, j) := pixelAtIndex f index
  let q := applyEffect s fr.cfg c f n index i j fr.k (sampleOf s c f n index i j fr.k o.scratch)
  let x := q.1
  let lane := routeClass f == 1 || routeClass f == 2
  let w := pixelWord s fr.cfg f index i j fr.k (if lane then snapTemp s (chipKey fr.cfg f index) else none) (snapZoneTemp s f.zone) (x.r, x.g, x.b)
  let old := aGet (aGet fr.prev n []) index 0
  let v := if elemBad s n index then old else w.1
  { o with values := aPut o.values n (aPut (aGet o.values n []) index v), again := if elemBad s n index then markAgain n index 1 o.again else o.again
           count := o.count.add w.2, bytes := o.bytes ++ le v 6, scratch := q.2 }

/-- The channels of an attribute fixture, 2 bytes each (R356). -/
def attrPixel (s : State) (fr : MapFrame) (c : Canvas) (n : Nat) (f : FixtureEntry) (o : TileOut) : TileOut :=
  let codes := canvasCodes s c f n fr.k o.scratch
  let outs := effectOutputs s fr.cfg c f n fr.k codes.2
  (List.range f.channels).foldl (fun q ch =>
    let r := channelValue s fr n f ch codes.1 outs.1 q.ltp
    let v := if elemBad s n ch then aGet (aGet fr.prev n []) ch 0 else r.1
    { q with values := aPut q.values n (aPut (aGet q.values n []) ch v), again := if elemBad s n ch then markAgain n ch 1 q.again else q.again
             ltp := r.2, bytes := q.bytes ++ le v 2 }) { o with scratch := outs.2 }

/-- The output of a tile; the scratch is zeroed before it (R317, R319). -/
def tileOut (s : State) (fr : MapFrame) (t : Tile) : TileOut :=
  let c := canvasFor s fr.canvas
  t.parts.foldl (fun o p =>
    let f := aGet fr.cfg.fixtures p.fixture blankFixture
    if f.kind = 2 then attrPixel s fr c p.fixture f o
    else (List.range p.count).foldl (fun q i => surfacePixel s fr c p.fixture f q (p.first + i)) o)
    ⟨fr.values, fr.again, s.map.ltp, ⟨0, 0, 0, 0, 0, 0⟩, [], scratch []⟩

/-- A tile is closed: its words are in the delay pool and its CRC is recorded (R318). -/
def tileComplete (e : Nat) (s : State) : State :=
  match s.map.frame, (mapEngine s e).held with
  | some fr, some h =>
    if h.sampling = false ∨ fr.open_ = false ∨ fr.deadline < s.time.st64 then s
    else
      let t := fr.tiles.getD h.tile ⟨0, [], 0, 0⟩
      let o := tileOut s fr t
      let s1 := bump (R.MAP_En_TILES (e / 8) (e % 8)) (modMapEngine e (fun x => { x with held := none, clocks := x.clocks + tileClocks t })
        (countPho o.count s))
      tileEnd h.tile ⟨e, crc32c o.bytes, .done⟩ (modFrame (fun g => { g with values := o.values, again := o.again }) (modMap (fun m => { m with ltp := o.ltp }) s1))
  | _, _ => s

/-! The deadline (R314). -/

/-- Tiles that have not ended. -/
def unended (fr : MapFrame) : List (Nat × Tile) := ((List.range fr.tiles.length).zip fr.tiles).filter (fun t => (aFind fr.ended t.1).isNone)

/-- Every tile not completed is late, its elements repeat, its zone is counted and noticed (R314 to R316). -/
def mapDeadline (s : State) : State :=
  match s.map.frame with
  | none => s
  | some fr =>
    if fr.open_ = false ∨ s.time.st64 < fr.deadline then s
    else
      let late := unended fr
      let s0 := bumpBy (R.MAP_CNT_WAIT 0) ((s.map.engines.toList.map (heldWait s)).sum)
        (modMap (fun m => { m with engines := vMap m.engines (fun e => { e with held := none }) }) s)
      let s1 := modFrame (fun g => { g with late := late.length, ended := late.foldl (fun m t => aPut m t.1 ⟨0, 0, .late⟩) g.ended })
        (late.foldl (fun x t => repeatTile t.2.parts x) s0)
      let s2 := if late = [] then s1 else mapFlag 2 (bumpBy (R.MAP_CNT_LATE 0) late.length s1)
      let zs := late.foldl (fun m t => aPut m t.2.zone (aGet m t.2.zone 0 + t.2.pixels)) ([] : SMap Nat)
      let s3 := (zs.filter (fun z => fr.driven.contains z.1)).foldl (fun x z => zonePush z.1 (zoneLate 0 z.1 fr.k z.2 (bump (R.MAP_ZLATEz 0 z.1) x))) s2
      frameClose s3

def execMappingDeadline (t : Nat) (s : State) : Out := .next (mapDeadline (advance t s))

/-! Shedding (R331). -/

/-- Zones shed in the order of R274 up to the first with which the configuration passes. -/
def shedFor (fuel : Nat) (s : State) (engines : Nat) (out acc : List Nat) : List Nat :=
  match fuel with
  | 0 => acc
  | n + 1 =>
    if mapFits (mapClocks s.map s.cfgB (out ++ acc)) engines (mapLimit s s.cfgB) then acc
    else match nextShed s.cfgB (out ++ acc) with
      | some z => shedFor n s engines out (acc ++ [z])
      | none => acc

/-- Teller evaluates R46 at the ACTIVE count, with spares that take over at the next start (R327, R331). -/
def reshed (s : State) : State :=
  let a := min (targetNow s) (roleCount s .active + roleCount s .spare)
  modFxm (fun m => { m with mapShed := if targetNow s ≤ a then [] else shedFor 257 s a s.power.thermal.shedZones [] }) s

/-! Failure (R325 to R328, R332). -/

/-- Tiles that an engine completed or holds in the frame. -/
def engineTiles (fr : MapFrame) (e : Nat) (held : Option HeldTile) : List Nat :=
  (fr.ended.filter (fun r => r.2.engine == e && (r.2.how == .done || r.2.how == .trapped))).map Prod.fst ++
    (match held with
     | some h => [h.tile]
     | none => [])

/-- One engine goes to FAILED; its tiles of the frame are lost (R326). What it lost: tiles and pixels. -/
def engineDown (cause : Nat) (e : Nat) (s : State) : State × Nat × Nat :=
  let x := mapEngine s e
  let s2 := bumpBy (R.MAP_CNT_WAIT 0) (heldWait s x)
    (mapFlag 0 (modMapEngine e (fun y => { y with role := .failed, cause := cause, held := none, testBad := 0 }) s))
  match s.map.frame with
  | none => (s2, 0, 0)
  | some fr =>
    let l := engineTiles fr e x.held
    if l = [] then (s2, 0, 0)
    else
      let tile (n : Nat) : Tile := fr.tiles.getD n ⟨0, [], 0, 0⟩
      let s3 := l.foldl (fun y n => repeatTile (tile n).parts y) s2
      let s4 := modFrame (fun g => { g with lost := g.lost + l.length }) (mapFlag 1 (bumpBy (R.MAP_CNT_LOST 0) l.length s3))
      (l.foldl (fun y n => tileEnd n ⟨e, 0, .lost⟩ y) s4, l.length, (l.map (fun n => (tile n).pixels)).sum)

/-- MAPPER_FAULT: the engine, what it was, tiles and pixels lost (R325, R333). -/
def faultNotice (cause : Nat) (e : Nat) (was : Role) (tiles pixels : Nat) (s : State) : State :=
  let act := roleCount s .active
  let spare := if act < targetNow s then (inRole s .spare).head? else none
  let action := if was = .spare then 3 else if spare.isSome then 0 else if s.fxm.mapShed = [] then 1 else 2
  let k := match s.map.frame with
    | some fr => fr.k
    | none => s.map.lastK
  notify 0x8210 32 [e, cause, spare.getD 0xFF, action, unsignedOf 32 k, tiles, pixels, act + bNat spare.isSome, roleCount s .failed, st64 s] s

/-- Engines fail together; shedding is judged once for the combined loss. A domain takes its FAILED engines too (R331, R332). -/
def enginesFail (cause : Nat) (es : List Nat) (s : State) : State :=
  let hit := es.filter (fun e => (mapEngine s e).role != .off && ((mapEngine s e).role != .failed || cause == 5))
  if hit = [] then s
  else
    let was := hit.map (fun e => (mapEngine s e).role)
    let r := hit.foldl (fun (a : State × List (Nat × Nat)) e =>
      let d := engineDown cause e a.1
      (d.1, a.2 ++ [d.2])) (s, [])
    ((hit.zip was).zip r.2).foldl (fun x q => faultNotice cause q.1.1 q.1.2 q.2.1 q.2.2 x) (reshed r.1)

/-- An engine fails for a cause; a domain takes its whole cluster (R325, R332). -/
def engineFail (e cause : Nat) (s : State) : State :=
  enginesFail cause (if cause = 5 then (List.range 16).filter (fun x => engineDomain x == engineDomain e) else [e]) s

def execEngineFailure (t : Nat) (engine : Fin 16) (cause : Nat) (s : State) : Out := .next (engineFail engine cause (advance t s))

/-- An engine holds one tile for MAP_TIMEOUT, canvas waits left out (R325). -/
def execTileTimeout (t : Nat) (engine : Fin 16) (s : State) : Out :=
  let s1 := advance t s
  match (mapEngine s1 engine).held with
  | some h =>
    if (mapEngine s1 engine).role = .active ∧ h.waiting = false ∧
        h.claimedAt + h.waited + regN s1 (R.MAP_TIMEOUT 0) ≤ s1.time.now then
      .next (engineFail engine 0 s1)
    else .next s1
  | none => .next s1

/-! Roles (R306, R308, R327, R330). -/

/-- MAPPER_TAKEOVER: role change 0 spare to ACTIVE, 1 returned to ACTIVE, 2 to SPARE, 3 to IDLE. -/
def takeover (e change : Nat) (k : Int) (s : State) : State :=
  notify 0x8211 16 [e, change, roleCount s .active, unsignedOf 32 k, st64 s] (mapFlag 4 s)

/-- Engines whose cluster came on take roles as at boot or enter TESTING; those whose cluster is off or released are OFF, and a cluster taken back
after a release comes up in TESTING (R308). -/
def rolesFollow (s : State) : State :=
  let one (x : State) (e : Nat) : State :=
    let fresh := if e < 8 then x.map.freshA else x.map.freshB
    if engineOn x e = false then modMapEngine e (fun y => { y with role := .off, held := none }) x
    else if (mapEngine x e).role ≠ .off then x
    else if fresh then modMapEngine e (fun y => { y with role := .active }) x
    else modMapEngine e (fun y => { y with role := .testing, testLeft := 17, testBad := 0 }) x
  let s1 := (List.range 16).foldl one s
  modMap (fun m => { m with freshA := m.freshA && !engineOn s 0, freshB := m.freshB && !engineOn s 8 && !m.released }) s1

/-- The spare of R306: MAP_SPARE_PREF where it names an ACTIVE engine, else the highest-numbered one. -/
def chooseSpare (s : State) : State :=
  let act := inRole s .active
  if s.power.mode = .soak ∨ inRole s .spare ≠ [] ∨ act.length ≤ targetNow s then s
  else
    let pref := bits (reg s (R.MAP_SPARE_PREF 0)) 3 0
    modMapEngine (if act.contains pref then pref else act.getLastD 0) (fun y => { y with role := .spare }) s

/-- Spares become ACTIVE for frame k while the count is below target, the lower-numbered first (R327). -/
def spareMoves (fuel : Nat) (k : Int) (s : State) : State :=
  match fuel with
  | 0 => s
  | n + 1 =>
    match inRole s .spare with
    | e :: _ =>
      if roleCount s .active < targetNow s then
        spareMoves n k (takeover e 0 k (modMapEngine e (fun y => { y with role := .active, fromK := k }) s))
      else s
    | [] => s

/-! The self-test (R329). The CRCs of the test tile come with a frame boundary or the start of show time, for the engines whose CRC is not the
right one, as the difference from it. -/

/-- The CRC that an engine gives on the test tile. -/
def testCrc (tests : List (Nat × Nat)) (e : Nat) : Nat := ((tests.find? (fun t => t.1 == e)).map Prod.snd).getD 0

/-- The reference is what two ACTIVE engines agree on; where they disagree a third one decides, and the engine that differs fails. -/
def setReference (tests : List (Nat × Nat)) (s : State) : State :=
  let crc := testCrc tests
  let put (v : Nat) (x : State) : State := modMap (fun m => { m with reference := some v }) x
  match s.map.reference, inRole s .active with
  | some _, _ => s
  | none, a :: b :: rest =>
    if crc a = crc b then put (crc a) s
    else match rest with
      | c :: _ => if crc c = crc a then put (crc a) (engineFail b 3 s) else if crc c = crc b then put (crc b) (engineFail a 3 s) else s
      | [] => s
  | none, _ => s

/-- An engine under test has mapped the test tile: a mismatch is counted, and the second in a row fails the engine (R325, R329). -/
def testJudge (tests : List (Nat × Nat)) (s : State) (e : Nat) : State :=
  match s.map.reference with
  | none => s
  | some v =>
    if testCrc tests e = v then modMapEngine e (fun x => { x with testBad := 0 }) s
    else
      let s1 := mapFlag 5 (bump (R.MAP_CNT_SELFTEST 0) (modMapEngine e (fun x => { x with testBad := x.testBad + 1 }) s))
      if 2 ≤ (mapEngine s1 e).testBad then engineFail e 3 s1 else s1

/-- Every SPARE and every engine in TESTING maps the test tile in every frame (R329, R330). -/
def selfTests (tests : List (Nat × Nat)) (s : State) : State := (inRole s .spare ++ inRole s .testing).foldl (testJudge tests) s

/-- Roles as at boot, and the reference of the self-test (R306, R329, R697). -/
def rolesBoot (tests : List (Nat × Nat)) (s : State) : State := setReference tests (chooseSpare (rolesFollow s))

/-- The engine that becomes the spare where engine `e` returns and the count is met with no spare: the one that MAP_SPARE_PREF names if it is
ACTIVE, whose place `e` takes, else `e` (R330, R333). -/
def spareAt (e : Nat) (s : State) : Nat :=
  let pref := bits (reg s (R.MAP_SPARE_PREF 0)) 3 0
  if (mapEngine s pref).role = .active then pref else e

/-- An engine's test ends: after 16 frames without failing it takes the first open role (R330). -/
def testDone (e : Nat) (s : State) : State :=
  let x := mapEngine s e
  if x.role ≠ .testing ∨ x.testLeft ≠ 0 then s
  else
    let k : Int := match s.map.frame with
      | some fr => if fr.startAt = s.time.st64 then fr.k else fr.k + 1
      | none => s.time.fcount
    let open_ := decide (targetNow s ≤ roleCount s .active) && (inRole s .spare).isEmpty
    let q := spareAt e s
    let (r, ch) := if roleCount s .active < targetNow s ∨ (open_ = true ∧ q ≠ e) then (Role.active, 1) else if open_ then (Role.spare, 2) else (Role.idle, 3)
    let s1 := if open_ = true ∧ q ≠ e then modMapEngine q (fun y => { y with role := .spare }) s else s
    reshed (takeover e ch k (modMapEngine e (fun y => { y with role := r, fromK := k }) s1))

def execEngineTestDone (t : Nat) (engine : Fin 16) (s : State) : Out := .next (testDone engine (advance t s))

/-- A domain of the cluster went off: its ACTIVE and SPARE engines fail, then all are OFF (R325, R330). Its engines come up in TESTING again if
show time has run before (R697, log entry 21). -/
def mapDomainOff (d : Nat) (s : State) : State :=
  let es := (List.range 16).filter (fun e => engineDomain e == d)
  let s1 := enginesFail 5 (es.filter (fun e => (mapEngine s e).role == .active || (mapEngine s e).role == .spare)) s
  let s2 := es.foldl (fun x e => modMapEngine e (fun y => { y with role := .off, cause := 15, held := none, clocks := 0, lastClocks := 0 }) x) s1
  let first := !(s.map.ran || s.time.running)
  modMap (fun m => { m with freshA := if d = 5 then first else m.freshA, freshB := if d = 6 then first else m.freshB }) s2

/-! The mapping start (R302, R312). -/

/-- Receive universes with a source, with their slots and priority (R298, R302). -/
def intakeNow (s : State) : SMap (List Nat × Nat) :=
  s.pkt.rx.filterMap (fun e => (rxCurrent e.2).map (fun q => (e.1, (q.slots, q.priority))))

/-- The inputs of every index of an effect slot in frame k (R319, R323). -/
def slotInputs (r : Cfg) (c : Canvas) (img : KernelLoad) (slot : Nat) (e : EffectRec) (k : Int) : List (List Int) :=
  ((liveFixtures r).filter (fun q => effectOn q.2 && q.2.effect == slot)).flatMap (fun q =>
    if q.2.kind = 2 then (List.range q.2.channels).map (fun i => effectInputs c img e q.2 q.1 i 0 0 k)
    else (List.range (fixPixels q.2)).map (fun i =>
      effectInputs c img e q.2 q.1 i (pixelAtIndex q.2 i).1 (pixelAtIndex q.2 i).2 k))

/-- The state of each slot whose user effect is loaded, as frame k leaves it: at most 64 B, from the state before, whatever the order in which the
frame's tiles are mapped (R317, R324). -/
def effectStates (k : Int) (canvas : Option Nat) (s : State) : State :=
  let next := s.cfgB.effects.filterMap (fun e => if e.2.program < 128 then none
    else (aFind s.map.kernels (256 + e.2.program)).map (fun u => (e.1, sized u.image.stateBytes (Config.userState u.image.text u.image.store
      (slotInputs s.cfgB (canvasFor s canvas) u.image e.1 e.2 k) (sized u.image.stateBytes (aGet s.map.effectState e.1 []))))))
  modMap (fun m => { m with effectPast := m.effectState, effectState := next }) s

/-- A zone shed dark sends one frame of zeros (R274). -/
def darkZones (k : Int) (s : State) : State :=
  let push (x : State) (z : Nat) : State :=
    windowReady z k (modPool (fun p => { p with frames := p.frames ++ [⟨z, k, x.cfgB, (zoneFixtures x.cfgB z).map (fun e => (e.1, [])), []⟩] }) x)
  modFxm (fun m => { m with darkDue := [] }) ((s.fxm.darkDue.filter (drives s s.cfgB)).foldl push s)

/-- Records are being written over the mapping of a frame: it stops and repeats (R361). -/
def mapHeld (s : State) : Bool :=
  (s.power.mode == .calibrate || s.power.mode == .diagnose) && decide (s.time.st64 < s.pho.writingTo)

/-- The mapping of frame k starts at F(k + 1) with canvas number `canvas`; `tests` the CRCs of the test tiles of the frame before (R312, R329). -/
def mapStart (k : Int) (canvas : Option Nat) (tests : List (Nat × Nat)) (s : State) : State :=
  let s0 := modMap (fun m => { m with released := m.released || m.releaseAsked, releaseAsked := false }) (selfTests tests (mapDeadline s))
  let s1 := spareMoves 16 k (rolesBoot [] s0)
  let s2 := effectStates k canvas (reshed (modMap (fun m => { m with engines := vMap m.engines (fun e =>
    { e with testLeft := e.testLeft - 1, held := none, clocks := 0 }) }) s1))
  let held := mapHeld s2
  let tiles := if held then [] else tileTable s2.map s2.cfgB (aKeys s2.fxm.shed)
  let old := ((s2.map.frame.map MapFrame.values).getD []).filter (fun e => (aFind s2.cfgB.fixtures e.1).isSome)
  let driven := (zonesOn s2.cfgB).filter (fun z => mapsZone s2 s2.cfgB z k)
  let fr : MapFrame :=
    { k := k, startAt := s2.time.st64, deadline := frameAt s2 (k + 2) - commitLead s2 - 100000 - laneDrain s2.cfgB, cfg := s2.cfgB,
      canvas := canvas, tiles := tiles, claims := 0, driven := driven,
      ended := ((List.range tiles.length).zip tiles).filterMap (fun t =>
        if driven.contains t.2.zone ∨ t.1 % 16 = unsignedOf 4 k then none else some (t.1, ⟨0, 0, .skipped⟩)),
      values := old, prev := old, again := [], intake := intakeNow s2, open_ := true, lost := 0, late := 0,
      lastDone := s2.time.st64 }
  let s3 := modMap (fun m => { m with frame := some fr }) (modProtect (fun p => { p with badSegments := [] }) s2)
  frameDone (darkZones k (modPool (fun p => { p with
    frames := p.frames.filter (fun f => decide (k < f.k + 486))
    cfgs := (k, s2.cfgB) :: p.cfgs.filter (fun c => decide (c.1 ≠ k ∧ k < c.1 + 486)) })
    (if held then setFlag R.PHO_INT_STAT 3 (bump R.PHO_CNT_HOLD s3) else if tiles = [] then s3 else phoBegin k s3)))

/-- Show time stops: the engines of a cluster that is on get their roles as at boot, the reference of the self-test stays (R329, R697). -/
def mapStop (s : State) : State :=
  modPool (fun _ => Pool.reset) (modMap (fun m => { m with
    engines := vMap m.engines (fun e => { e with role := .off, held := none, clocks := 0 })
    frame := none, ltp := [], freshA := m.freshA || engineOn s 0, freshB := m.freshB || engineOn s 8, ran := m.ran || s.time.running }) (modProtect (fun p => { p with badSegments := [] }) s))

/-! Commands (R308, R321, R333). -/

def effectSetOk (p : EffectSet) : Bool :=
  decide (1 ≤ p.records.length) && decide (p.records.length ≤ 512) && decide (p.first + p.records.length ≤ 4096)

def execEffectSet (c : Call) (p : EffectSet) (s : State) : Out :=
  configMessage 0x0442 (8 + 32 * p.records.length) c (fun _ => effectSetOk p) (.effectSet p) s

def mapRecord (m : ConfigMsg) (r : Cfg) : Cfg :=
  match m with
  | .effectSet p => { r with effects := putFrom r.effects p.first p.records }
  | _ => r

/-- A code is in force in a configuration. -/
def codeUsed (r : Cfg) (key : Nat) : Bool :=
  if key < 256 then (liveFixtures r).any (fun e => e.2.kernel == key) else r.effects.any (fun e => 256 + e.2.program == key)

def msgNames (key : Nat) (m : ConfigMsg) : Bool :=
  match m with
  | .fixtureSet p => p.entries.any (fun f => fixEnabled f && f.kernel == key)
  | .effectSet p => p.records.any (fun e => 256 + e.program == key)
  | _ => false

def execKernelUnload (c : Call) (kind : Nat) (code : Nat) (s : State) : Out :=
  command 0x0441 c s fun s =>
    let key := if kind = 1 then 256 + code else code
    if 1 < kind ∨ code < 128 ∨ 255 < code then refuse .invalidParameter s
    else if (aFind s.map.kernels key).isNone then refuse .notFound s
    else if codeUsed s.cfgB key || codeUsed s.record key || s.teller.stages.any (fun g => g.msgs.any (msgNames key)) then refuse .invalidParameter s
    else accept (modMap (fun m => { m with kernels := aDel m.kernels key }) s)

/-- Counted mapping time in force, at the rate of R307 in every mode. -/
def mapTimeNow (s : State) : Nat := min 0xFFFFFFFF (mapTime (mapClocks s.map s.cfgB (aKeys s.fxm.shed)) (mapRate s))

def tileCount (s : State) : Nat := ((s.map.frame.map (fun f => f.tiles.length)).getD 0)

def poweredMask (s : State) : Nat := (((List.range 16).filter (fun e => domainUp s (engineDomain e))).map (fun e => 2 ^ e)).sum

def execMapStatusGet (c : Call) (s : State) : Out :=
  command 0x0443 c s fun s =>
    answer 64 (([unsignedOf 32 s.map.lastK, min 0xFFFFFFFF s.map.lastTime, mapTimeNow s, (mapLimit s s.cfgB).toNat, tileCount s, s.map.lastLost,
      s.map.lastLate, roleMask s .active, roleMask s .spare, roleMask s .failed, poweredMask s] ++
      (List.range 16).map (fun e => roleCode (mapEngine s e).role)).map Int.ofNat) s

/-- MAP_ENGINE_SET: 0 test and return, 1 retire, 2 prefer as spare, 3 release cluster B, 4 take it back (R308, R330, R333). -/
def mapEngineSet (e action : Nat) (s : State) : State × Reply :=
  if 4 < action ∨ (action < 3 ∧ 15 < e) then refuse .invalidParameter s
  else match action with
    | 0 =>
      if domainUp s (engineDomain e) = false then refuse .notReady s
      else if (mapEngine s e).role ≠ .failed then refuse .invalidParameter s
      else accept (modMapEngine e (fun x => { x with role := .testing, testLeft := 17, testBad := 0 }) s)
    | 1 => if (mapEngine s e).role = .off ∨ (mapEngine s e).role = .failed then refuse .invalidParameter s else accept (engineFail e 6 s)
    | 2 => accept (setField (R.MAP_SPARE_PREF 0) 3 0 e s)
    | 3 =>
      if s.map.released then accept s
      else if mapFits (mapClocks s.map s.cfgB []) 7 (mapLimit s s.cfgB) = false then refuse .resourceExhausted s
      else accept (modMap (fun m => { m with releaseAsked := true }) s)
    | _ => accept (modMap (fun m => { m with released := false, releaseAsked := false }) s)

/-! Registers that show the cluster (R334). -/

/-- The engine of a register of the engine area, and the offset in it. -/
def mapEngineReg (a : Nat) : Option (Nat × Nat) :=
  let off := pageOff a
  let h := off / 0x8000
  let o := off % 0x8000
  if 0x1000 ≤ o ∧ o < 0x1800 then some (8 * h + (o - 0x1000) / 0x100, o % 0x100) else none

def viewMap (s : State) (a : Nat) : Option Word :=
  let w (n : Nat) : Option Word := some (BitVec.ofNat 32 n)
  let fr := s.map.frame
  let run := s.time.running && decide (tileCount s ≠ 0)
  let crc := aFind s.map.lastEnded (bits (reg s (R.MAP_CRC_IDX 0)) 15 0)
  match mapEngineReg a with
  | some (e, o) =>
    let x := mapEngine s e
    (match o with
     | 0 => w (bNat x.held.isSome * 2147483648 + x.cause * 16777216 + roleCode x.role)
     | 4 => w ((x.held.map HeldTile.tile).getD 0xFFFFFFFF)
     | 12 => w (min 0xFFFFFFFF (x.lastClocks / 16))
     | _ => none)
  | none =>
    (match pageOff a % 0x8000 with
     | 0x000 => w (8 * bNat (s.power.mode == .soak) + 4 * bNat ((fr.map MapFrame.open_).getD false) +
         2 * bNat (decide (roleCount s .active < targetNow s)) + bNat run)
     | 0x004 => w (roleMask s .spare * 65536 + roleMask s .active)
     | 0x008 => w (roleMask s .testing * 65536 + roleMask s .failed)
     | 0x010 => w (unsignedOf 32 ((fr.map MapFrame.k).getD s.map.lastK))
     | 0x014 => w (tileCount s)
     | 0x018 => w ((fr.map (fun f => (f.ended.filter (fun t => t.2.how == .done)).length)).getD 0)
     | 0x028 => some (loWord ((fr.map MapFrame.deadline).getD 0))
     | 0x02C => some (hiWord ((fr.map MapFrame.deadline).getD 0))
     | 0x030 => w (mapTimeNow s)
     | 0x034 => w (min 0xFFFFFFFF s.map.lastTime)
     | 0x074 => some ((crc.map TileRec.crc).getD 0)
     | 0x078 => (match crc with
       | some t => w (t.engine * 65536 + 2 * bNat (t.how == .late) + bNat (t.how == .lost || t.how == .trapped))
       | none => w 0)
     | _ => none)

end Sys2Proof.Machine
end

