-- ==== Sys2Proof/Machine/Escrow.lean ====
section
/-! DEFINITION. The Escrow record (16_redundancy.md): its bytes, the end-of-frame copy, its reception, the shadow check, losing a lease and taking
a group over. -/

namespace Sys2Proof.Machine

/-! Bytes of a record (R535, R536). -/


def cueBytes (c : EscCue) : List (BitVec 8) :=
  le c.cueId 4 ++ le c.basis 1 ++ le c.action 1 ++ le c.priority 1 ++ le c.made 1 ++ leI c.when_ 8 ++ le c.sub 4 ++ le c.argument 4 ++ le 0 8

def timerBytes (e : EscTimer) : List (BitVec 8) := leI e.due 8 ++ le e.timer 4 ++ le e.argument 4

def zoneBytes (z : EscZone) : List (BitVec 8) := le z.zone 1 ++ le (bNat z.valid) 1 ++ le z.skip 2 ++ le 0 4 ++ leI z.last 8

def seqBytes (q : EscSeq) : List (BitVec 8) := le q.kind 1 ++ le 0 1 ++ le q.index 2 ++ le q.value 4

def effectStateBytes (e : EscEffect) : List (BitVec 8) :=
  le e.slot 2 ++ le e.bytes.length 2 ++ e.bytes ++ List.replicate ((4 - e.bytes.length % 4) % 4) 0

def changeBytes (c : EscChange) : List (BitVec 8) := le c.descriptor 4 ++ (List.range 4).flatMap (fun i => le (c.frames.getD i 0) 4)

def tempBytes (t : EscTemp) : List (BitVec 8) := leI t.temp 2 ++ le (bNat t.valid) 1 ++ le 0 1

def epochBytes (e : EscEpoch) : List (BitVec 8) := le e.fixture 4 ++ le 0 4 ++ le e.epoch 8

/-- A section for all groups. -/
def sectionBytes (kind : Nat) (d : List (BitVec 8)) : List (BitVec 8) := le kind 1 ++ le 0xFF 1 ++ le 0 2 ++ le d.length 4 ++ d

def recordSections (r : EscRecord) : List (BitVec 8) :=
  sectionBytes 1 (r.cues.flatMap cueBytes) ++ sectionBytes 2 (r.timers.flatMap timerBytes) ++ sectionBytes 3 (r.zones.flatMap zoneBytes) ++
    sectionBytes 4 (r.seqs.flatMap seqBytes) ++ sectionBytes 5 (r.effects.flatMap effectStateBytes) ++
    sectionBytes 6 (r.changes.flatMap changeBytes) ++ sectionBytes 7 (r.temps.flatMap tempBytes) ++
    sectionBytes 8 (le r.firstTile 4 ++ r.crcs.flatMap (fun c => le c 4)) ++ sectionBytes 9 (r.epochs.flatMap epochBytes)

def recordBytes (r : EscRecord) : List (BitVec 8) :=
  let body := recordSections r
  le (168 + body.length) 4 ++ le 9 2 ++ le r.groups 2 ++ leI r.k 8 ++ leI r.tS 8 ++ le r.epoch 8 ++ le r.tag 4 ++ le 0 4 ++
    (List.range 16).flatMap (fun g => le (r.digests.getD g 0) 4) ++ (List.range 16).flatMap (fun g => le (r.leaseSeqs.getD g 0) 4) ++ body

/-- Pieces of `n` bytes, each with its index. -/
def pieces (fuel n : Nat) (l : List (BitVec 8)) : List (List (BitVec 8)) :=
  match fuel with
  | 0 => []
  | m + 1 => if l = [] then [] else l.take n :: pieces m n (l.drop n)

def whole (n : Nat) (l : List (BitVec 8)) : List (List (BitVec 8)) := pieces (l.length + 1) n l

def readCue (l : List (BitVec 8)) : EscCue :=
  ⟨field l 0 4, field l 4 1, field l 5 1, field l 6 1, field l 7 1, fieldI l 8 8, field l 16 4, field l 20 4⟩

def readZone (l : List (BitVec 8)) : EscZone := ⟨field l 0 1, nBit (field l 1 1) 0, field l 2 2, fieldI l 8 8⟩

/-- Effect states, each padded to 4 bytes. -/
def readEffects (fuel : Nat) (l : List (BitVec 8)) : List EscEffect :=
  match fuel with
  | 0 => []
  | m + 1 =>
    if l.length < 4 then []
    else
      let n := field l 2 2
      ⟨field l 0 2, (l.drop 4).take n⟩ :: readEffects m (l.drop (4 + (n + 3) / 4 * 4))

def readSection (kind : Nat) (d : List (BitVec 8)) (r : EscRecord) : EscRecord :=
  match kind with
  | 1 => { r with cues := r.cues ++ (whole 32 d).map readCue }
  | 2 => { r with timers := r.timers ++ (whole 16 d).map (fun l => ⟨fieldI l 0 8, field l 8 4, field l 12 4⟩) }
  | 3 => { r with zones := r.zones ++ (whole 16 d).map readZone }
  | 4 => { r with seqs := r.seqs ++ (whole 8 d).map (fun l => ⟨field l 0 1, field l 2 2, field l 4 4⟩) }
  | 5 => { r with effects := r.effects ++ readEffects (d.length + 1) d }
  | 6 => { r with changes := r.changes ++ (whole 20 d).map (fun l => ⟨field l 0 4, (List.range 4).map (fun i => field l (4 + 4 * i) 4)⟩) }
  | 7 => { r with temps := (whole 4 d).map (fun l => ⟨fieldI l 0 2, nBit (field l 2 1) 0⟩) }
  | 8 => { r with firstTile := field d 0 4, crcs := (whole 4 (d.drop 4)).map leNat }
  | 9 => { r with epochs := r.epochs ++ (whole 16 d).map (fun l => ⟨field l 0 4, field l 8 8⟩) }
  | _ => r

/-- The sections one after another; none where their lengths do not fit the body. -/
def readSections (fuel n : Nat) (l : List (BitVec 8)) (r : EscRecord) : Option EscRecord :=
  match fuel, n with
  | 0, _ => none
  | _, 0 => if l = [] then some r else none
  | m + 1, n + 1 =>
    let len := field l 4 4
    if l.length < 8 + len then none else readSections m n (l.drop (8 + len)) (readSection (field l 0 1) ((l.drop 8).take len) r)

def readRecord (l : List (BitVec 8)) : Option EscRecord :=
  if l.length < 168 ∨ field l 0 4 ≠ l.length then none
  else
    let word (at_ g : Nat) : Nat := field l (at_ + 4 * g) 4
    readSections (l.length + 1) (field l 4 2) (l.drop 168)
      ⟨field l 6 2, fieldI l 8 8, fieldI l 16 8, field l 24 8, field l 32 4, (List.range 16).map (word 40), (List.range 16).map (word 104),
        [], [], [], [], [], [], [], 0, [], []⟩

/-! A fragment (R534). -/

/-- A fragment as the receiver reads it: the verdict of its CRC, its header and its data. -/
structure EscFragment where
  crcOk : Bool
  magicOk : Bool
  version : Nat
  type : Nat
  pair : Nat
  device : Nat
  record : Word
  alive : Nat
  index : Nat
  count : Nat
  frame : Word
  data : List (BitVec 8)
deriving DecidableEq, Repr

/-- The UDP payload of R534, whose last 4 bytes are the CRC-32C over the bytes before them. -/
def readFragment (l : List (BitVec 8)) : EscFragment :=
  let len := field l 18 2
  { crcOk := decide (36 ≤ l.length) && decide (l.length = 36 + len) && (crc32c (l.take (32 + len))).toNat == field l (32 + len) 4,
    magicOk := l.take 2 == [0x45, 0x53], version := field l 2 1, type := field l 3 1, pair := field l 4 2, device := field l 6 1,
    record := BitVec.ofNat 32 (field l 8 4), alive := field l 12 2, index := field l 14 2, count := field l 16 2,
    frame := BitVec.ofNat 32 (field l 20 4), data := (l.drop 32).take len }

/-! What a group is (R526). -/

/-- Non-local zones of a group in a configuration. -/
def groupZones (r : Cfg) (g : Nat) : List Nat := (zonesOn r).filter (fun z => !zoneLocal r z && (zoneOf r z).group == g)

def groupFixtures (r : Cfg) (g : Nat) : List (Nat × FixtureEntry) := (liveFixtures r).filter (fun e => (groupZones r g).contains e.2.zone)

/-- Descriptors and effect slots that fixtures use. -/
def descriptorsOf (l : List (Nat × FixtureEntry)) : List Nat :=
  aKeys (l.foldl (fun m e => if e.2.kind = 2 then (List.range e.2.channels).foldl (fun q c => aPut q (e.2.attrRef + c) ()) m else m)
    ([] : SMap Unit))

def slotsOf (l : List (Nat × FixtureEntry)) : List Nat :=
  aKeys ((l.filter (fun e => effectOn e.2)).foldl (fun m e => aPut m e.2.effect ()) ([] : SMap Unit))

def groupFlows (r : Cfg) (g : Nat) : List (Nat × FlowCtx) :=
  r.flows.filter (fun e => match flowZone r e.1 with
    | some z => (groupZones r g).contains z
    | none => false)

def groupDigest (s : State) (g : Nat) : Nat :=
  let r := s.cfgB
  let fx := groupFixtures r g
  Config.digest (r.zones.filter (fun e => (groupZones r g).contains e.1)) fx
    (r.attrs.filter (fun e => (descriptorsOf fx).contains e.1)) (r.effects.filter (fun e => (slotsOf fx).contains e.1))
    (groupFlows r g) (if g = leadGroup s then (r.radios, r.nodes) else ([], [])) s.fxm.activeTag.toNat % 4294967296

/-! Freshness and eligibility (R545). -/

/-- The record is no older than 4 frame periods. -/
def recordFresh (s : State) (r : EscRecord) : Bool := decide (st64 s ≤ r.tS + (frameAt s (r.k + 6) - frameAt s (r.k + 2)))

def lastFresh (s : State) : Bool :=
  match s.esc.record with
  | some r => recordFresh s r.2
  | none => false

/-- rejoined: set by 64 complete records in a row, cleared after 64 frames without one. -/
def rejoinedNow (s : State) : Bool :=
  s.esc.rejoined && (match s.esc.completeK with
    | some k => decide (s.time.fcount ≤ k + 64)
    | none => false)

def rejoinedFor (s : State) (g : Nat) : Bool :=
  rejoinedNow s || (match (leaseOf s g).heldK with
    | some k => decide (s.time.fcount ≤ k + 64)
    | none => false)

def eligible (s : State) (g : Nat) : Bool :=
  s.time.running && (tbOf s (selTb s)).state == .locked && rejoinedFor s g &&
    (match aFind s.esc.byGroup g with
     | some r => recordFresh s r && r.digests.getD g 0 == groupDigest s g
     | none => false)

def member (s : State) (g : Nat) : Bool := nBit (bits (reg s R.ESC_HELD) 31 16) g

/-! Gaining and losing a lease (R522, R530). -/

/-- Teller moves the device between SHOW and SPARE (R522). -/
def pairMode (s : State) : State :=
  let to_ : Option Mode := if s.power.mode = .show ∧ heldMask s = 0 then some .spare
    else if s.power.mode = .spare ∧ heldMask s ≠ 0 then some .show else none
  match to_ with
  | some m => notify 0x8300 16 [modeCode s.power.mode, modeCode m, 4, st64 s] { s with power := { s.power with mode := m } }
  | none => s

def roleNotice (g role cause : Nat) (k : Int) (s : State) : State :=
  notify 0x8280 24 [g, role, cause, regN s (R.ESC_Gg_SEQ g), unsignedOf 32 k, st64 s] (setFlag R.ESC_INT_STAT 0 s)

/-- Causes: 1 lease ended, 2 denied, 3 released, 4 higher lease_seq seen. -/
def loseLease (g cause : Nat) (s : State) : State :=
  if holds s g = false then s
  else pairMode (roleNotice g 0 cause 0
    (modLease g (fun l => { l with held := false, till := 0, requests := [], heldK := some s.time.fcount, fromK := none }) s))

/-- The highest lease_seq seen of a group. -/
def sawLease (g : Nat) (n : Nat) (s : State) : State :=
  if regN s (R.ESC_Gg_SEQ g) < n then setReg (R.ESC_Gg_SEQ g) (BitVec.ofNat 32 n) s else s

/-! The end-of-frame copy (R533). -/

/-- A tile is volatile (R542). -/
def tileVolatile (r : Cfg) (t : Tile) : Bool :=
  t.parts.any (fun p =>
    let f := aGet r.fixtures p.fixture blankFixture
    (f.kind == 2 && (List.range f.channels).any (fun c => (attrOf r (f.attrRef + c)).src.any (fun w => w / 536870912 == 2 || w / 536870912 == 4))) ||
      (effectOn f && decide (128 ≤ (effectOf r f.effect).program)))

/-- CRCs of the frame's tiles t with t mod 16 = k mod 16, 0 where none counts. -/
def escrowCrcs (s : State) (k : Int) : List Nat :=
  match s.map.frame with
  | none => []
  | some fr =>
    ((List.range fr.tiles.length).zip fr.tiles).filterMap (fun t =>
      if t.1 % 16 ≠ unsignedOf 4 k then none
      else match aFind (if fr.k = k then fr.ended else s.map.lastEnded) t.1 with
        | some e => some (if e.how = .done ∧ tileVolatile fr.cfg t.2 = false ∧ holds s (zoneOf fr.cfg t.2.zone).group = true then e.crc.toNat else 0)
        | none => some 0)

/-- Frames that the next judgement of a zone still skips (R125, R536). -/
def stillToSkip (fuel : Nat) (s : State) (z : Nat) (k : Int) (last : Int) : Nat :=
  match fuel with
  | 0 => 0
  | n + 1 => if windowAt s z k < last then 1 + stillToSkip n s z (k + 1) last else 0

def escZone (s : State) (z : Nat) : EscZone :=
  match aFind s.alm.lastSync z with
  | some l => ⟨z, true, (match aFind s.alm.release z with
      | some r => stillToSkip 512 s z r.k l
      | none => 0), l⟩
  | none => ⟨z, false, 0, 0⟩

def escCue (s : State) (c : Cue) : EscCue :=
  ⟨c.cueId, c.basis, c.action, c.priority, min 255 (max (aGet s.rad.cueSent (2 * c.cueId) 0) (aGet s.rad.cueSent (2 * c.cueId + 1) 0)), c.when_,
    c.sub, c.argument⟩

/-- The sequences of section 4; each value is the number that the next packet would carry. -/
def escSeqs (s : State) (gs : List Nat) : List EscSeq :=
  let flows := gs.flatMap (groupFlows s.cfgB)
  (flows.filter (fun e => e.2.protocol == 1)).map (fun e => ⟨0, e.1, nextSeq s.pkt.seqs e.2.ident⟩) ++
    s.pkt.syncSeqs.map (fun e => ⟨1, e.1, e.2⟩) ++ s.pkt.uoeSeqs.map (fun e => ⟨2, e.1, e.2⟩) ++
    (if gs.contains (leadGroup s) then (List.range 2).map (fun x => ⟨3, x, (xcvrOf s x).seq⟩) else []) ++
    (flows.filter (fun e => e.2.protocol == 3)).map (fun e => ⟨4, e.1, aGet s.pkt.userAlive e.1 0⟩)

/-- Bytes of state of an effect slot (R324). -/
def stateSize (s : State) (slot : Nat) : Nat :=
  ((aFind s.map.kernels (256 + (effectOf s.cfgB slot).program)).map (fun q => q.image.stateBytes)).getD 0

def escEffects (s : State) (gs : List Nat) : List EscEffect :=
  (slotsOf (gs.flatMap (groupFixtures s.cfgB))).filterMap (fun n =>
    (aFind s.map.effectPast n).map (fun t => ⟨n, sized (stateSize s n) t⟩))

/-- The fixtures of a list that use descriptor `d`. -/
def usersOf (l : List (Nat × FixtureEntry)) (d : Nat) : List Nat :=
  (l.filter (fun e => decide (e.2.kind = 2) && decide (e.2.attrRef ≤ d) && decide (d < e.2.attrRef + e.2.channels))).map Prod.fst

/-- The change frames; of a descriptor that several fixtures use, the latest (log entry 23). -/
def escChanges (s : State) (gs : List Nat) : List EscChange :=
  let fx := gs.flatMap (groupFixtures s.cfgB)
  (descriptorsOf fx).map (fun d =>
    ⟨d, (List.range 4).map (fun i => unsignedOf 32 (((usersOf fx d).filterMap (fun n => (aFind s.map.ltp (ltpKey n d i)).map Prod.snd)).foldl max 0))⟩)

def escTemps (s : State) : List EscTemp :=
  (List.range 256).map (fun z => match snapZoneTemp s z with
    | some t => ⟨t, true⟩
    | none => ⟨0, false⟩)

def escEpochs (s : State) (k : Int) : List EscEpoch :=
  (s.cfgB.fixtures.filter (fun e => e.1 % 64 == unsignedOf 6 k || s.esc.newEpochs.contains e.1)).map (fun e => ⟨e.1, e.2.epoch⟩)

def heldGroups (s : State) : List Nat := (List.range 16).filter (holds s)

/-- Record k: the state after the mapping of frame k and the Almanac state at F(k + 2). -/
def escRecord (s : State) (k : Int) : EscRecord :=
  let gs := heldGroups s
  { groups := heldMask s, k := k, tS := frameAt s (k + 2), epoch := s.fxm.epoch, tag := s.fxm.activeTag.toNat,
    digests := (List.range 16).map (fun g => if holds s g then groupDigest s g else 0),
    leaseSeqs := (List.range 16).map (fun g => regN s (R.ESC_Gg_SEQ g)),
    cues := if holds s (leadGroup s) then s.alm.cues.map (escCue s) else [],
    timers := (s.alm.timers.filter TimerEntry.escrow).map (fun e => ⟨e.due, (match e.kind with
      | .teller n => n
      | .frameWork j => unsignedOf 32 j
      | .escrowEnd j => unsignedOf 32 j), 0⟩),
    zones := (gs.flatMap (groupZones s.cfgB)).map (escZone s), seqs := escSeqs s gs, effects := escEffects s gs, changes := escChanges s gs,
    temps := escTemps s, firstTile := unsignedOf 4 k, crcs := escrowCrcs s k, epochs := escEpochs s k }

/-- The holder writes record k at the tick of its Escrow timer entry; the copy is Almanac work of priority 1 and ends at F(k + 3). -/
def escWrite (s : State) : State :=
  match s.esc.writeDue with
  | none => s
  | some k =>
    let s1 := modEsc (fun e => { e with writeDue := none }) s
    if pairOn s = false ∨ heldMask s = 0 then s1
    else insertDescriptor ⟨.escrowCopy, 0, k, 1, 12, [], some (frameAt s (k + 3)), none, false, 0⟩
      (bump R.ESC_CNT_TX (modEsc (fun e => { e with
        txSeq := e.txSeq + 1, out := some (e.txSeq + 1, k, recordBytes (escRecord s k)), newEpochs := [] }) s1))

def execEscrowRecordWrite (t : Nat) (s : State) : Out := .next (escWrite (advance t s))

def escPort (s : State) : Nat := bits (reg s R.ESC_CFG) 19 16

/-- The header of Escrow's frames: UDP to the partner's address and port (R532). -/
def partnerHead (s : State) : NetHead :=
  ⟨0, s.esc.partnerMac, 0, s.esc.partnerIp, Config.headFree 2 % 65536, s.esc.escUdp, Config.headFree 0 % 256, Config.headFree 1 % 64, none⟩

/-- A fragment as channel 8 has it before its check word, and the payload with it (R534). -/
def fragmentOut (s : State) (type port : Nat) (record : Word) (alive index count : Nat) (k : Int) (data : List (BitVec 8)) : List (BitVec 8) :=
  fragmentBytes type (bits (reg s R.ESC_LEASE) 31 16) (bits (reg s R.ESC_CFG) 1 1) port record alive index count (unsignedOf 32 k) (st64 s) data

/-- The Almanac dispatches the copy: its fragments of 8,192 bytes go to TQ6 of the Escrow port (R436, R534). They carry the ST64 at which they go to
the MAC (DEDUCED, log entry 23). -/
def escrowSend (s : State) : State :=
  match s.esc.out with
  | none => s
  | some (seq, k, body) =>
    let ps := whole 8192 body
    let one (x : State) (p : Nat × List (BitVec 8)) : State :=
      let bytes := fragmentOut s 1 (escPort s) seq x.esc.alive p.1 ps.length k p.2
      macSend (escPort s) ⟨82 + p.2.length, 6, some (frameAt s (k + 3)), none, none, .fragment seq k x.esc.alive p.1 ps.length p.2, some (partnerHead s),
        withCrc bytes⟩ (chkRun 8 bytes (modEsc (fun e => { e with alive := (e.alive + 1) % 65536 }) x))
    let s1 := modEsc (fun e => { e with out := none }) s
    if 8 ≤ escPort s then s1 else ((List.range ps.length).zip ps).foldl one s1

/-! The shadow check (R542). -/

/-- Notes the CRC of a tile that this device maps only to check it. -/
def shadowNote (e n : Nat) (s : State) : State :=
  match s.map.frame with
  | none => s
  | some fr =>
    let t := fr.tiles.getD n ⟨0, [], 0, 0⟩
    match aFind fr.ended n with
    | some r =>
      if pairOn s = false ∨ fr.driven.contains t.zone = true ∨ r.how ≠ .done ∨ n % 16 ≠ unsignedOf 4 fr.k ∨ tileVolatile fr.cfg t = true then s
      else modEsc (fun x => { x with
        shadow := x.shadow.filter (fun q => decide (fr.k - 8 ≤ q.k)) ++ [⟨fr.k, n, t.zone, e, r.crc⟩] }) s
    | none => s

/-- One CRC of the record against this device's own. -/
def shadowOne (k : Int) (s : State) (q : ShadowTile × Nat) : State :=
  let (x, c) := q
  let s1 := bump R.ESC_CNT_SHADOW s
  if x.crc.toNat = c then s1
  else
    let again := aFind s.esc.mismatch x.tile = some (k - 16)
    let s2 := setFlag R.ESC_INT_STAT 2 (bump R.ESC_CNT_MISMATCH (modEsc (fun e => { e with
      mismatch := aPut e.mismatch x.tile k, mismatchK := some k, shadowOk := e.shadowOk && !again }) s1))
    if again then notify 0x8282 32 [x.tile, x.zone, x.engine, unsignedOf 32 k, x.crc.toNat, c, st64 s] s2 else s2

/-- The CRCs of record k are compared; 16 frames without a mismatch restore shadow_ok. -/
def shadowCheck (r : EscRecord) (s : State) : State :=
  let pairs := ((List.range r.crcs.length).zip r.crcs).filterMap (fun c =>
    if c.2 = 0 then none
    else (s.esc.shadow.find? (fun q => q.k == r.k && q.tile == r.firstTile + 16 * c.1)).map (fun q => (q, c.2)))
  let s1 := pairs.foldl (shadowOne r.k) s
  modEsc (fun e => { e with
    shadow := e.shadow.filter (fun q => decide (r.k < q.k))
    shadowOk := e.shadowOk || (match e.mismatchK with
      | some j => decide (j + 16 ≤ r.k)
      | none => true) }) s1

/-- PHO_ZTEMPz for a valid temperature of the snapshot. -/
def tempWord (t : EscTemp) : Word := BitVec.ofNat 32 (2147483648 + unsignedOf 16 t.temp)

/-- A tile of a zone this device does not drive is mapped with the record's snapshot (R537). -/
def withTemps (s : State) (zone : Nat) : State :=
  match s.map.frame, aFind s.esc.byGroup (zoneOf s.cfgB zone).group with
  | some fr, some r =>
    if pairOn s = false ∨ fr.driven.contains zone = true then s
    else modPho (fun p => { p with snapZones := ((List.range r.temps.length).zip r.temps).filterMap (fun t =>
      if t.2.valid then some (t.1, tempWord t.2) else none) }) s
  | _, _ => s

/-- A tile is completed, and checked where the device is standby (R312, R542). -/
def tileFinish (e : Nat) (s : State) : State :=
  match s.map.frame, (mapEngine s e).held with
  | some fr, some h =>
    let s1 := tileComplete e (withTemps s (fr.tiles.getD h.tile ⟨0, [], 0, 0⟩).zone)
    shadowNote e h.tile { s1 with pho := { s1.pho with snapZones := s.pho.snapZones } }
  | _, _ => s

def execTileComplete (t : Nat) (engine : Fin 16) (s : State) : Out := .next (tileFinish engine (advance t s))

/-! Receiving a record (R533, R534, R537, R545, R546). -/

/-- Records are lost: the run of complete ones ends; a device whose records became stale says so (R548). -/
def recordLost (cause : Nat) (s : State) : State := modEsc (fun e => { e with lost := e.lost + 1, cause := cause, run := 0 }) s

def staleCheck (s : State) : State :=
  match s.esc.record with
  | some r =>
    if s.esc.stale ∨ lastFresh s = true then s
    else notify 0x8281 16 [0, s.esc.cause, r.2.groups, s.esc.lost, st64 s] (setFlag R.ESC_INT_STAT 1 (modEsc (fun e => { e with stale := true, lost := 0 }) s))
  | none => s

def freshAgain (r : EscRecord) (s : State) : State :=
  if s.esc.stale then
    notify 0x8281 16 [1, s.esc.cause, r.groups, s.esc.lost, st64 s] (setFlag R.ESC_INT_STAT 1 (modEsc (fun e => { e with stale := false, lost := 0 }) s))
  else s

/-- Teller compares the digests of the groups it is standby of (R526). -/
def digestCheck (s : State) : State :=
  (List.range 16).foldl (fun x g =>
    match aFind x.esc.byGroup g with
    | some r =>
      if holds x g = true ∨ member x g = false then x
      else if r.digests.getD g 0 = groupDigest x g then modEsc (fun e => { e with configSaid := e.configSaid.filter (· != g) }) x
      else if x.esc.configSaid.contains g then x
      else notify 0x8284 16 [g, groupDigest x g, st64 x] (setFlag R.ESC_INT_STAT 4 (modEsc (fun e => { e with configSaid := e.configSaid ++ [g] }) x))
    | none => x) s

/-- Groups a record claims. -/
def claimed (r : EscRecord) : List Nat := (List.range 16).filter (nBit r.groups)

/-- E and the epochs of the groups' fixtures are adopted (R537). -/
def adoptEpochs (r : EscRecord) (gs : List Nat) (s : State) : State :=
  let put (q : Cfg) : Cfg :=
    { q with fixtures := r.epochs.foldl (fun m e => match aFind m e.fixture with
      | some f => if !zoneLocal q f.zone && gs.contains (zoneOf q f.zone).group then aPut m e.fixture { f with epoch := e.epoch } else m
      | none => m) q.fixtures }
  { s with
    record := put s.record, cfgA := put s.cfgA, cfgB := put s.cfgB, fxm := { s.fxm with epoch := r.epoch }
    teller := { s.teller with accepted := s.teller.accepted.map (fun a => { a with cfg := put a.cfg }) } }

/-- A complete record that is not stale. -/
def recordKeep (seq : Word) (r : EscRecord) (s : State) : State :=
  let gs := (claimed r).filter (fun g => !holds s g && member s g)
  let run := match s.esc.record with
    | some q => if q.1 + 1 = seq then s.esc.run + 1 else 1
    | none => 1
  let s1 := bump R.ESC_CNT_RX (modEsc (fun e => { e with
    record := some (seq, r), byGroup := gs.foldl (fun m g => aPut m g r) e.byGroup, run := run, completeK := some s.time.fcount,
    rejoined := rejoinedNow s || decide (64 ≤ run) }) s)
  let s2 := if gs = [] then s1 else adoptEpochs r gs s1
  let passed (c : Cue) : Bool := match c.due with
    | some d => decide (d < r.tS)
    | none => false
  let s3 := if gs.contains (leadGroup s) then modAlm (fun a => { a with cues := a.cues.filter (fun c => !passed c) }) s2 else s2
  digestCheck (shadowCheck r (freshAgain r s3))

/-- A complete record: discarded where a claimed group's lease_seq is behind, else kept; a higher lease_seq takes the group (R546). -/
def recordDone (seq : Word) (r : EscRecord) (s : State) : State :=
  if (claimed r).any (fun g => decide (r.leaseSeqs.getD g 0 < regN s (R.ESC_Gg_SEQ g))) then recordLost 3 (bump R.ESC_CNT_STALE s)
  else
    let s1 := (claimed r).foldl (fun x g =>
      let n := r.leaseSeqs.getD g 0
      let higher := regN x (R.ESC_Gg_SEQ g) < n
      let y := sawLease g n x
      if higher then loseLease g 4 y else y) s
    recordKeep seq r s1

/-- The frame whose low 32 bits are given, nearest the one in progress. -/
def nearFrame (s : State) (low : Word) : Int := s.time.fcount + (low - BitVec.ofInt 32 s.time.fcount).toInt

/-- The record in assembly is given up. -/
def buildDrop (s : State) : State :=
  match s.esc.build with
  | some b => recordLost (if s.esc.cause = 1 ∨ s.esc.cause = 2 then s.esc.cause else 0)
      (bump R.ESC_CNT_INCOMPLETE (modEsc (fun e => { e with build := none, dropped := some b.seq }) s))
  | none => s

/-- A fragment's alive value is judged on channel 9 (R155), whatever CHK_CHn_CTRL.alive_en holds there: who sets it for the blocks' own channels is
left open (DESIGN CHOICE, log entry 31). -/
def aliveJudge (ch alive : Nat) (cause : Bool) (s : State) : State :=
  let was := bits (reg s (R.CHK_CHn_CNT ch)) 31 0
  let s1 := judgeAlive ch alive s
  if cause ∧ bits (reg s1 (R.CHK_CHn_CNT ch)) 31 0 ≠ was then modEsc (fun e => { e with cause := 2 }) s1 else s1

/-- A header of the partner. -/
def fromPartner (s : State) (f : EscFragment) : Bool :=
  pairOn s && f.magicOk && f.version == 1 && f.pair == bits (reg s R.ESC_LEASE) 31 16 &&
    decide (f.device ≤ 1) && f.device != bits (reg s R.ESC_CFG) 1 1

def fragmentTake (f : EscFragment) (s : State) : State :=
  let k := nearFrame s f.frame
  let same := match s.esc.build with
    | some b => b.seq == f.record
    | none => false
  let s1 := if same then s else buildDrop s
  let b : EscBuild := if same then s.esc.build.getD ⟨f.record, k, f.count, []⟩ else ⟨f.record, k, f.count, []⟩
  let b2 : EscBuild := { b with parts := aPut b.parts f.index f.data }
  if b2.parts.length < b2.count then modEsc (fun e => { e with build := some b2 }) s1
  else
    let s2 := modEsc (fun e => { e with build := none, cause := 0 }) s1
    match readRecord (b2.parts.flatMap Prod.snd) with
    | some r => recordDone f.record r s2
    | none => recordLost 0 (bump R.ESC_CNT_INCOMPLETE s2)

/-- A fragment of a record that could no longer be complete at F(k + 3): the record counts once as incomplete (R533). -/
def fragmentLate (f : EscFragment) (s : State) : State :=
  if s.esc.dropped = some f.record then s
  else recordLost 0 (bump R.ESC_CNT_INCOMPLETE (modEsc (fun e => { e with dropped := some f.record }) s))

def fragmentIn (f : EscFragment) (s : State) : State :=
  if pairOn s = false then s
  else if f.crcOk = false then bump R.ESC_CNT_FRAG_ERR (modEsc (fun e => { e with cause := 1 }) s)
  else if fromPartner s f = false ∨ f.type ≠ 1 ∨ f.count < 1 ∨ 512 < f.count ∨ f.count ≤ f.index ∨ 8192 < f.data.length then s
  else
    let s1 := aliveJudge 9 f.alive true s
    let old : Bool := match s1.esc.record with
      | some r => r.1 == f.record
      | none => false
    if old then s1
    else if frameAt s1 (nearFrame s1 f.frame + 3) < st64 s1 then fragmentLate f s1
    else fragmentTake f s1

/-- Channel 9 runs over the bytes before the check word (R534). -/
def execEscrowFragmentReceived (t : Nat) (payload : List (BitVec 8)) (s : State) : Out :=
  let s1 := advance t s
  .next (fragmentIn (readFragment payload) (if pairOn s1 then chkRun 9 (payload.take (payload.length - 4)) s1 else s1))

/-- F(k + 3) of the record being assembled has come (R533). -/
def execEscrowRecordDeadline (t : Nat) (s : State) : Out :=
  let s1 := advance t s
  match s1.esc.build with
  | some b => .next (staleCheck (if frameAt s1 (b.k + 3) ≤ st64 s1 then buildDrop s1 else s1))
  | none => .next (staleCheck s1)

/-! Takeover (R538 to R541). -/

/-- Frames of a zone are skipped: freed, now or when they are mapped, and counted (R126). -/
def skipFrames (z : Nat) (first : Int) (n : Nat) (s : State) : State :=
  if n = 0 then s
  else
    let s1 := setFlag R.ALM_INT_STAT 2 (bumpField (R.ALM_Zz_SLOTS z) 31 16 n (bumpBy R.ALM_CNT_SKIP n s))
    (List.range n).foldl (fun x i => unsentZone (first + Int.ofNat i) (poolFree z (first + Int.ofNat i) x) z) s1

/-- A skipped frame joins the zone's last run not yet reported, or begins one (R126). -/
def joinRun (z : Nat) (k : Int) (s : State) : State :=
  let l := aGet s.alm.skipRun z []
  let l1 := match l.getLast? with
    | some r => if r.2 + Int.ofNat r.1 = k then l.dropLast ++ [(r.1 + 1, r.2)] else l ++ [(1, k)]
    | none => [(1, k)]
  modAlm (fun a => { a with skipRun := aPut a.skipRun z l1 }) s

/-- The release entry of a zone moves (R125). -/
def moveRelease (z : Nat) (k : Int) (s : State) : State :=
  nextOrder (modAlm (fun a => { a with release := aPut a.release z ⟨k, a.order⟩ }) s)

def skipNotice (z n : Nat) (first next : Int) (s : State) : State :=
  if n = 0 then s else notify 0x8142 24 [z, n, first, next] s

/-- The first frame of a zone from `k` on whose window opens at or after `g`. -/
def firstWindow (fuel : Nat) (s : State) (z : Nat) (k g : Int) : Int :=
  match fuel with
  | 0 => k
  | n + 1 => if windowAt s z k < g then firstWindow n s z (k + 1) g else k

/-- The frames of a zone before k_m are skipped at G in one run (R540). -/
def takeZone (km : Int) (s : State) (z : Nat) : State :=
  match aFind s.alm.release z with
  | none => s
  | some r =>
    let first := firstWindow 1024 s z r.k (st64 s)
    let n := (km - first).toNat
    if n = 0 then moveRelease z (max km first) s
    else skipNotice z n first (syncAt s z km) (traceOf 1 255 3 z 0 first (windowAt s z first) (moveRelease z (max km first) (skipFrames z first n s)))

/-- A frame by its low 32 bits, near frame k. -/
def frameNear (k : Int) (low : Nat) : Int := k - signed 32 (unsignedOf 32 (k - (low : Int)))

def takeSeq (s : State) (q : EscSeq) : State :=
  let v := (q.value + 32) % (if q.kind = 4 then 65536 else 256)
  match q.kind with
  | 0 => match flowOf s.cfgB q.index with
    | some p => modPkt (fun x => { x with seqs := aPut x.seqs p.ident v }) s
    | none => s
  | 1 => modPkt (fun x => { x with syncSeqs := aPut x.syncSeqs q.index v }) s
  | 2 => modPkt (fun x => { x with uoeSeqs := aPut x.uoeSeqs q.index v }) s
  | 3 => modXcvr q.index (fun x => { x with seq := v }) s
  | 4 => modPkt (fun x => { x with userAlive := aPut x.userAlive q.index v }) s
  | _ => s

/-- A cue due before G. -/
def cueOver (s : State) (q : Cue) : Bool :=
  match q.due with
  | some d => decide (d < st64 s)
  | none => false

/-- A recorded cue; due from t_s to G it fires at G, late and replayed. -/
def takeCue (s : State) (r : EscRecord) (c : EscCue) : Cue :=
  let q := cueOf s ⟨c.cueId, c.basis, c.action, c.priority, 0, c.when_, c.sub, c.argument⟩
  { q with reached := r.tS, late := cueOver s q, replay := cueOver s q }

/-- A recorded cue joins the pending list; the horizon and the list's size hold (R108, R135). -/
def insertTaken (s : State) (c : Cue) : State :=
  let due := c.due.getD (st64 s)
  if beyondHorizon s due then refuseHorizon (cueKind c) (cueTarget c) 65535 c.priority 0 due s
  else if 16384 ≤ s.alm.cues.length then refuseInsert 1 (traceOf (cueKind c) (cueTarget c) 4 65535 c.priority 0 due s)
  else
    let q := { c with slot := freeSlot s.alm.cues }
    cueWork q (modAlm (fun a => { a with cues := a.cues ++ [q] }) s)

/-- The pending list of the new holder of the lead group (R541): the recorded cues, then those that reached this device later. -/
def takeCues (r : EscRecord) (sIn : State) : State :=
  let theirs := r.cues.map (takeCue sIn r)
  let mine := sIn.alm.cues.filter (fun c => decide (r.tS < c.reached) && !theirs.any (fun q => q.cueId == c.cueId))
  let s := theirs.foldl insertTaken (modAlm (fun a => { a with cues := mine.map (fun c => { c with late := c.late || cueOver sIn c, replay := cueOver sIn c }) }) sIn)
  let n := mine.length
  let all := s.alm.cues.drop n ++ s.alm.cues.take n
  modRad (fun m => { m with cueSent := r.cues.foldl (fun q c => aPut (aPut q (2 * c.cueId) c.made) (2 * c.cueId + 1) c.made) m.cueSent })
    (modAlm (fun a => { a with cues := ((List.range all.length).zip all).map (fun c => { c.2 with order := a.order + c.1 }), order := a.order + all.length }) s)

/-- The snapshot's temperatures of the group's zones become their zone temperatures (R538). -/
def takeTemps (zs : List Nat) (r : EscRecord) (s : State) : State :=
  zs.foldl (fun x z =>
    let t := r.temps.getD z ⟨0, false⟩
    if t.valid then zoneTemp (some (st64 s)) z (tempWord t) x else x) s

/-- Every section of the last complete record for the group. -/
def takeRecord (g : Nat) (r : EscRecord) (s : State) : State :=
  let fx := groupFixtures s.cfgB g
  let zs := groupZones s.cfgB g
  let s1 := modAlm (fun a => { a with
    lastSync := (r.zones.filter (fun z => zs.contains z.zone)).foldl (fun m z => if z.valid then aPut m z.zone z.last else aDel m z.zone) a.lastSync }) s
  let s2 := r.timers.foldl (fun x e =>
    if x.alm.timers.any (fun y => y.due == e.due && y.kind == .teller e.timer) then x
    else insertTimer ⟨e.due, .teller e.timer, true, 0, false, 0⟩ x) s1
  let s3 := modMap (fun m => { m with
    ltp := (r.changes.filter (fun c => (descriptorsOf fx).contains c.descriptor)).foldl (fun q c =>
      (usersOf fx c.descriptor).foldl (fun p n => (List.range 4).foldl (fun q2 i =>
        aPut q2 (ltpKey n c.descriptor i) (none, frameNear r.k (c.frames.getD i 0))) p) q) m.ltp
    effectState := (r.effects.filter (fun e => (slotsOf fx).contains e.slot)).foldl (fun q e => aPut q e.slot e.bytes) m.effectState }) s2
  let mine (q : EscSeq) : Bool := match q.kind with
    | 0 => (groupFlows s.cfgB g).any (fun e => e.1 == q.index)
    | 3 => g == leadGroup s
    | 4 => (groupFlows s.cfgB g).any (fun e => e.1 == q.index)
    | _ => true
  let s4 := takeTemps zs r ((r.seqs.filter mine).foldl takeSeq s3)
  if g = leadGroup s then takeCues r s4 else s4

/-- The group is granted to this device at G. -/
def takeGroup (g : Nat) (s : State) : State :=
  let rec_ := aFind s.esc.byGroup g
  let km := frameBefore s (st64 s + 1000000 - 1)
  let s1 := modEsc (fun e => { e with txSeq := match e.record with
    | some q => if heldMask s = 0 then q.1 else e.txSeq
    | none => e.txSeq }) (modLease g (fun l => { l with held := true, fromK := some km }) s)
  let s2 := match rec_ with
    | some r => takeRecord g r s1
    | none => s1
  let s3 := (groupZones s2.cfgB g).foldl (takeZone km) s2
  pairMode (roleNotice g 1 0 ((rec_.map EscRecord.k).getD 0) s3)

end Sys2Proof.Machine
end

