-- ==== Sys2Proof/Machine/Vault.lean ====
section
/-! DEFINITION. Vault (20_security_and_firmware.md): slots, trailers, provisioning record, boot control record, the boot ROM. -/

namespace Sys2Proof.Machine

def modVlt (f : Vault → Vault) (s : State) : State := { s with vlt := f s.vlt }

def secCode (x : SecState) : Nat :=
  match x with
  | .unprovisioned => 0 | .provisioned => 1 | .approved => 2 | .retired => 3

/-- Approved mode (R631). -/
def approved (s : State) : Bool := s.vlt.state == .approved

/-- SYS_IDENT of the part (R11). -/
def identOf (p : Part) : Nat :=
  match p with
  | .rk9200 => 0x92001101
  | .rk9210 => 0x92101100

/-! Slots (R632 to R635). -/

/-- Bit of a slot in VLT_SLOTS, by class and slot. -/
def slotBit (cls n : Nat) : Option Nat :=
  match cls with
  | 0 => if n < 4 then some n else none
  | 1 => if n < 4 then some (4 + n) else none
  | 2 => if n < 8 then some (8 + n) else none
  | 3 => if n < 2 then some (16 + n) else none
  | 4 => if n < 2 then some (18 + n) else none
  | 5 => if n = 0 then some 20 else none
  | _ => none

/-- A slot is written and not revoked. -/
def slotUsable (s : State) (cls n : Nat) : Bool :=
  match slotBit cls n with
  | some b => nBit s.vlt.written b && !nBit s.vlt.revoked b
  | none => false

/-- The slot of the lease key (R633). -/
def pairSlot (s : State) : Option Nat := (List.range 2).find? (slotUsable s 3)

def burnSlot (b : Nat) (m : Nat) : Nat := if nBit m b then m else m + 2 ^ b

/-- Vault accepts a trailer of a class (R634). -/
def trailerOk (s : State) (cls : Nat) (t : Trailer) : Bool :=
  !s.vlt.error && slotUsable s cls t.slot && aGet s.vlt.keys (cls * 256 + t.slot) 0 == t.keyHash && t.sigOk

/-- An UNAUTHORIZED refusal is counted (R652). -/
def unauth (s : State) : State × Reply := (bump R.VLT_CNT_UNAUTH s, ⟨.unauthorized, 0, []⟩)

/-- A request to the DRBG, which is seeded again every 2²⁰ of them (R628). -/
def drbgRequest (s : State) : State :=
  if s.vlt.requests + 1 < 1048576 then modVlt (fun v => { v with requests := v.requests + 1 }) s
  else bump R.VLT_CNT_RESEED (modVlt (fun v => { v with requests := 0 }) s)

/-- A failed signature is counted too. -/
def sigFail (s : State) : State × Reply := unauth (bump R.VLT_CNT_SIGFAIL s)

/-- User code: a trailer of class CODE is required in approved mode, optional otherwise and checked when present (R631). -/
def codeSigned (s : State) (t : Option Trailer) : Bool :=
  match t with
  | some x => trailerOk s 1 x
  | none => !approved s

/-! The two-copy records (R615, R637, R640). -/

/-- The copy in force of two: the newer generation of the valid ones. -/
def newer {α : Type} (gen : α → Word) (v : Vector (Option α) 2) : Option (Nat × α) :=
  match vGet v 0 none, vGet v 1 none with
  | some a, some b => some (if 0 ≤ (gen a - gen b).toInt then (0, a) else (1, b))
  | some a, none => some (0, a)
  | none, some b => some (1, b)
  | none, none => none

/-- A copy is written over the one not in force. -/
def writeCopy {α : Type} (gen : α → Word) (make : Word → α) (v : Vector (Option α) 2) : Vector (Option α) 2 :=
  match newer gen v with
  | some (i, a) => vMod v (1 - i) (fun _ => some (make (gen a + 1)))
  | none => vMod v 0 (fun _ => some (make 1))

def provOf (s : State) : Option (Nat × ProvRecord) := newer ProvRecord.generation s.vlt.prov

def blankBoot : BootRecord := ⟨0, 0, none, 0, false, ⟨.empty, 0, 0⟩, ⟨.empty, 0, 0⟩⟩

/-- The boot control record in force. -/
def bootOf (s : State) : BootRecord := ((newer BootRecord.generation s.vlt.boots).map Prod.snd).getD blankBoot

def writeBoot (f : BootRecord → BootRecord) (s : State) : State :=
  let r := f (bootOf s)
  modVlt (fun v => { v with boots := writeCopy BootRecord.generation (fun g => { r with generation := g }) v.boots }) s

def bankInfo (r : BootRecord) (b : Nat) : BankInfo := if b = 0 then r.bank0 else r.bank1

def setBank (b : Nat) (f : BankInfo → BankInfo) (r : BootRecord) : BootRecord :=
  if b = 0 then { r with bank0 := f r.bank0 } else { r with bank1 := f r.bank1 }

def setBankState (b : Nat) (st : BankState) (r : BootRecord) : BootRecord := setBank b (fun i => { i with state := st }) r

def bankCode (x : BankState) : Nat :=
  match x with
  | .empty => 0 | .staging => 1 | .staged => 2 | .good => 3 | .failed => 4

def bankOf (s : State) (b : Nat) : Bank := vGet s.vlt.banks b ⟨none, [], false⟩
def modBank (b : Nat) (f : Bank → Bank) (s : State) : State := modVlt (fun v => { v with banks := vMod v.banks b f }) s

/-! Images (R641 to R644). -/

/-- The checks of R642 that are no signature or rollback. -/
def headerFits (s : State) (h : FwHeader) : Bool :=
  h.magicOk && h.kind == 0 && (h.part == 0xFFFF || h.part == identOf s.part / 65536) && decide (h.minStep ≤ identOf s.part / 256 % 256) &&
    decide (1 ≤ h.bytes) && decide (h.bytes ≤ 29294592) && h.blocks == ceilDiv h.bytes 65536 && decide (h.secver ≤ 63)

def headerSafe (s : State) (h : FwHeader) : Bool := trailerOk s 0 h.trailer && decide (s.vlt.rollback ≤ h.secver)

/-- Bytes of block i. -/
def imageBlockBytes (h : FwHeader) (i : Nat) : Nat := min 65536 (h.bytes - 65536 * i)

def bankWhole (b : Bank) (h : FwHeader) : Bool := (List.range h.blocks).all (fun i => (aFind b.blocks i).isSome)

/-- verify(b): the header, every block and the digest. -/
def verifyBank (s : State) (corrupt b : Nat) : Bool :=
  match (bankOf s b).header with
  | some h => headerFits s h && headerSafe s h && bankWhole (bankOf s b) h && (bankOf s b).hashOk && !nBit corrupt b
  | none => false

/-! The boot ROM (R629, R644, R646). -/

/-- A boot ends in the RECOVERY image; a reason makes it a fallback. -/
def startRecovery (failed : Nat) (reason : Option Nat) (version : Nat) (s : State) : State :=
  modVlt (fun v => { v with
    recovery := true, running := (bootOf s).active, lastReason := reason.getD v.lastReason
    fallback := match reason with
      | some r => some (failed, r, 0xFF, version)
      | none => v.fallback }) s

def startBank (b : Nat) (fell : Option (Nat × Nat × Nat)) (s : State) : State :=
  modVlt (fun v => { v with
    recovery := false, running := b
    lastReason := match fell with
      | some f => f.2.1
      | none => v.lastReason
    fallback := match fell with
      | some f => some (f.1, f.2.1, b, f.2.2)
      | none => none }) s

/-- The reset of a fallback leaves its cause (R595). -/
def fellBack (s : State) : State := { s with power := { s.power with cause := 8 } }

/-- A trailer that the boot ROM does not accept is counted (R654). -/
def bootSigFail (s : State) (corrupt b : Nat) : State :=
  match (bankOf s b).header with
  | some h => if nBit corrupt b = false ∧ trailerOk s 0 h.trailer = false then bump R.VLT_CNT_SIGFAIL s else s
  | none => s

/-- The choice of a bank; a fallback writes the record, resets with cause 8 and starts again from the top (R595, R644). -/
def bootBank (fuel : Nat) (corrupt : Nat) (fell : Option (Nat × Nat × Nat)) (s : State) : State :=
  match fuel with
  | 0 => s
  | n + 1 =>
    let r := bootOf s
    let again (b reason : Nat) (s1 : State) : State :=
      bootBank n corrupt (some (b, reason, (bankInfo r b).version)) (fellBack s1)
    let try_ (b : Nat) (s1 : State) : State :=
      let q := bootOf s1
      if ((bankInfo q b).state = .good ∨ (bankInfo q b).state = .staged) ∧ verifyBank s1 corrupt b = true then startBank b fell s1
      else
        let s2 := writeBoot (fun x => { setBankState b .failed x with pending := none, tries := 0 }) (bootSigFail s1 corrupt b)
        if (bankInfo q (1 - b)).state = .good then again b 1 (writeBoot (fun x => { x with active := 1 - b }) s2)
        else startRecovery b (some 2) (bankInfo q b).version s2
    match r.pending with
    | some b =>
      if r.tries = 3 then again b 0 (writeBoot (fun x => { setBankState b .failed x with pending := none, tries := 0 }) s)
      else try_ b (writeBoot (fun x => { x with tries := x.tries + 1 }) s)
    | none => try_ r.active s

def bootRom (p : BootPins) (s : State) : State :=
  let s1 := bump R.VLT_CNT_RESEED (modVlt (fun v => { v with error := p.katFail != 0, katFail := p.katFail % 64, fallback := none, write := none, requests := 0 }) s)
  let r := bootOf s1
  let s2 := if r.next then writeBoot (fun x => { x with next := false }) s1 else s1
  if p.katFail ≠ 0 then startRecovery 0xFF (some 3) 0 s2
  else if p.recovLow ∨ r.next = true then startRecovery 0xFF (some 4) 0 s2
  else if s.vlt.state = .retired then startRecovery 0xFF none 0 s2
  else bootBank 4 p.corrupt none s1

/-- The first entry to STANDBY or PROVISION confirms the pending bank (R645). -/
def bootConfirm (s : State) : State :=
  match (bootOf s).pending with
  | some b =>
    if s.vlt.recovery ∨ s.vlt.running ≠ b then s
    else writeBoot (fun x => { setBankState b .good x with active := b, pending := none, tries := 0 }) s
  | none => s

/-- BOOT_FALLBACK is the first notice after a boot that fell back. -/
def bootFallback (s : State) : State :=
  match s.vlt.fallback with
  | some (b, reason, booted, version) => notify 0x8402 16 [b, reason, booted, version, st64 s] (modVlt (fun v => { v with fallback := none }) s)
  | none => s

/-- The version of the firmware that runs; none is known of the RECOVERY image (log entry 25). -/
def firmwareVersion (s : State) : Nat := if s.vlt.recovery then 0 else (bankInfo (bootOf s) s.vlt.running).version

/-- On the first entry to PROVISION the DRBG makes the DEVICE key (R632). -/
def deviceKey (s : State) : State :=
  if nBit s.vlt.written 20 then s
  else draw (drbgRequest <| modVlt (fun v => { v with written := burnSlot 20 v.written, keys := aPut v.keys 1280 (drawn s).toNat }) s)

/-- W1 during a block write abandons it: NOT_READY (R649). -/
def blockSag (s : State) : State :=
  match s.vlt.write with
  | some w => respondOwed 0x0611 w.owed ⟨.notReady, 0, []⟩ (modVlt (fun v => { v with write := none }) s)
  | none => s

/-! Registers that show Vault (R654). -/

/-- The bank in STAGING. -/
def stagingBank (s : State) : Option Nat := (List.range 2).find? (fun b => (bankInfo (bootOf s) b).state == .staging)

def viewVlt (s : State) (a : Nat) : Option Word :=
  let w (n : Nat) : Option Word := some (BitVec.ofNat 32 n)
  let r := bootOf s
  let bank (i : BankInfo) : Nat := i.secver % 256 * 65536 + bankCode i.state
  match pageOff a with
  | 0x000 => w (s.vlt.katFail * 65536 + bNat s.vlt.error * 256 + bNat (provOf s).isSome * 4 + secCode s.vlt.state)
  | 0x004 => w (s.vlt.lastReason * 256 + r.tries * 16 + bNat r.pending.isSome * 8 + (r.pending.getD 0) * 4 + bNat s.vlt.recovery * 2 +
      (if s.vlt.recovery then r.active else s.vlt.running))
  | 0x010 => w (bank r.bank0)
  | 0x014 => w r.bank0.version
  | 0x018 => w (bank r.bank1)
  | 0x01C => w r.bank1.version
  | 0x020 => w s.vlt.rollback
  | 0x024 => w s.vlt.written
  | 0x028 => w s.vlt.revoked
  | 0x030 => (match stagingBank s with
      | some b => w ((bankOf s b).blocks.length * 65536 + (((bankOf s b).header.map FwHeader.blocks).getD 0))
      | none => w 0)
  | _ => none

end Sys2Proof.Machine
end

