-- ==== Sys2Proof/Machine/Redundancy.lean ====
section
/-! DEFINITION. Leases, probes and the pair commands (16_redundancy.md). -/

namespace Sys2Proof.Machine

/-! The lease (R527 to R530). -/

/-- D in ns. -/
def leaseNs (s : State) : Nat := bits (reg s R.ESC_LEASE) 15 0 * 1000000

/-- A lease frame to the arbiter: 60 bytes of payload and 46 of headers and FCS. -/
def leaseSend (type g flags : Nat) (s : State) : State :=
  let p := bits (reg s R.ESC_CFG) 23 20
  let s1 := modEsc (fun e => { e with requestSeq := e.requestSeq + 1 }) s
  if 10 < p then s1
  else
    let head := leaseBytes type (bits (reg s R.ESC_LEASE) 31 16) (bits (reg s R.ESC_CFG) 1 1) g s1.esc.requestSeq (reg s (R.ESC_Gg_SEQ g))
      (bits (reg s R.ESC_LEASE) 15 0) flags s.time.fcount
    macSend p ⟨106, 0, none, none, none, .lease type g s1.esc.requestSeq (reg s (R.ESC_Gg_SEQ g)) flags,
      some ⟨0, Config.headFree 3 % 281474976710656, 0, s.esc.arbIp, Config.headFree 2 % 65536, s.esc.arbUdp, Config.headFree 0 % 256, Config.headFree 1 % 64, none⟩,
      head ++ (List.range 28).map (Config.leaseSeal (aGet s.vlt.keys (3 * 256 + (pairSlot s).getD 0) 0) head)⟩ s1

def requestFlags (s : State) (g : Nat) : Nat :=
  bNat (eligible s g) + 2 * bNat (holds s g) + 4 * bNat s.esc.shadowOk + 8 * bNat (pathsOk s)

/-- Every D / 4 a holder or eligible device asks (R528). -/
def leaseAsk (g : Nat) (s : State) : State :=
  let l := leaseOf s g
  let due := match l.requestAt with
    | some t => decide (t + leaseNs s / 4 ≤ s.time.now)
    | none => true
  if pairOn s = false ∨ member s g = false ∨ due = false ∨ (holds s g = false ∧ eligible s g = false) then s
  else
    let s1 := leaseSend 1 g (requestFlags s g) s
    modLease g (fun x => { x with
      requestAt := some s.time.now
      requests := x.requests.filter (fun q => decide (s.time.now < q.2 + 1000000000)) ++ [(s1.esc.requestSeq, s.time.now)] }) s1

def execLeaseRequestInterval (t : Nat) (group : Fin 16) (s : State) : Out := .next (leaseAsk group (advance t s))

/-- A grant that answers a known request: the lease lasts to t_req + D − D / 1,000. -/
def leaseGrant (f : LeaseFrame) (s : State) : State :=
  match ((leaseOf s f.group).requests.find? (fun q => q.1 == f.answers)) with
  | none => s
  | some q =>
    let till := q.2 + f.duration * 999000
    let s1 := modLease f.group (fun l => { l with requests := l.requests.filter (fun x => x.1 != f.answers) }) s
    if till ≤ s.time.now then s1
    else
      let s2 := modLease f.group (fun l => { l with till := max l.till till }) s1
      if holds s f.group then s2 else takeGroup f.group s2

def leaseIn (f : LeaseFrame) (s : State) : State :=
  if pairOn s = false then s
  else if f.tagOk = false ∨ pairSlot s = none then bump R.ESC_CNT_AUTH s
  else if f.magicOk = false ∨ f.version ≠ 1 ∨ f.pair ≠ bits (reg s R.ESC_LEASE) 31 16 ∨ f.device ≠ 0xFF ∨ 15 < f.group then s
  else
    let s1 := sawLease f.group f.leaseSeq.toNat s
    match f.type with
    | 2 => if f.duration < 20 ∨ 1000 < f.duration then s1 else leaseGrant f s1
    | 3 => loseLease f.group 2 s1
    | _ => s1

def execLeaseFrameReceived (t : Nat) (f : LeaseFrame) (s : State) : Out := .next (leaseIn f (advance t s))

def execLeaseExpiry (t : Nat) (group : Fin 16) (s : State) : Out :=
  let s1 := advance t s
  if (leaseOf s1 group).till ≤ s1.time.now then .next (loseLease group 1 s1) else .next s1

/-- Groups are released: a release frame to the arbiter for each, and the loss (R530). -/
def releaseGroups (gs : List Nat) (s : State) : State :=
  (gs.filter (holds s)).foldl (fun x g => loseLease g 3 (leaseSend 4 g 0 x)) s

/-! Probes (R543). -/

/-- The Escrow port, and the show ports in a pair that are UP. -/
def probePorts (s : State) : List Nat :=
  (List.range 8).filter (fun p => p == escPort s || ((pairOf s (p % 4)).mode != 0 && (portOf s p).link == .up))

/-- A probe or a reply; replies run on channel 10 (R543). -/
def probeSend (p : Nat) (seq : Word) (reply : Bool) (s : State) : State :=
  let alive := if reply then s.esc.replyAlive else s.esc.probeAlive
  let bytes := fragmentOut s (if reply then 4 else 3) p seq alive 0 1 s.time.fcount []
  let s1 := modEsc (fun e => if reply then { e with replyAlive := (alive + 1) % 65536 } else { e with probeAlive := (alive + 1) % 65536 }) s
  portEnqueue ⟨82, 6, none, none, none, .probe seq reply alive, some (partnerHead s), withCrc bytes⟩ (if reply then chkRun 10 bytes s1 else s1) p

def probeAll (s : State) : State :=
  let due := match s.esc.probeAt with
    | some t => decide (t + 250000000 ≤ s.time.now)
    | none => true
  if pairOn s = false ∨ due = false then s
  else (probePorts s).foldl (fun x p =>
    let n := x.esc.probeSeq + 1
    probeSend p n false (modEsc (fun e => { e with probeSeq := n, probes := aPut e.probes p (n, s.time.now) }) x))
    (modEsc (fun e => { e with probeAt := some s.time.now }) s)

def execProbeInterval (t : Nat) (s : State) : Out := .next (probeAll (advance t s))

def probeIn (p : Nat) (f : EscFragment) (s : State) : State :=
  if pairOn s = false then s
  else if f.crcOk = false then bump R.ESC_CNT_FRAG_ERR s
  else if fromPartner s f = false then s
  else match f.type with
    | 3 => probeSend p f.record true s
    | 4 =>
      let s1 := aliveJudge 11 f.alive false s
      (match aFind s1.esc.probes p with
       | some q => if q.1 = f.record ∧ s.time.now < q.2 + 10000000 then pathGood p (modEsc (fun e => { e with probes := aDel e.probes p }) s1) else s1
       | none => s1)
    | _ => s

/-- A probe, or a reply, whose bytes channel 11 takes (R543). -/
def execProbeReceived (t : Nat) (port : Fin 8) (payload : List (BitVec 8)) (s : State) : Out :=
  let s1 := advance t s
  let f := readFragment payload
  .next (probeIn port f (if pairOn s1 = true ∧ f.type = 4 then chkRun 11 (payload.take (payload.length - 4)) s1 else s1))

def execProbeTimeout (t : Nat) (port : Fin 8) (s : State) : Out :=
  let s1 := advance t s
  match aFind s1.esc.probes port with
  | some q =>
    if q.2 + 10000000 ≤ s1.time.now then .next (pathMiss port (modEsc (fun e => { e with probes := aDel e.probes port.val }) s1)) else .next s1
  | none => .next s1

/-! Validation (R547). -/

/-- A zone's fixtures on radio routes. -/
def zoneRadio (r : Cfg) (z : Nat) : Bool := (zoneFixtures r z).any (fun e => routeClass e.2 == 6 || routeClass e.2 == 7)

def zoneWired (r : Cfg) (z : Nat) : Bool := (zoneFixtures r z).any (fun e => routeClass e.2 == 1 || routeClass e.2 == 2 || routeClass e.2 == 5)

/-- The checks of the pair part in their order: cause, zone, what is required, the limit. -/
def escReject (s : State) (r : Cfg) : Option (List Int) :=
  let zs := (zonesOn r).filter (fun z => !zoneLocal r z)
  let say (code z req lim : Nat) : Option (List Int) := some [code, z, req, lim]
  let route := zs.findSome? (fun z => if zoneWired r z then say 1 z 0 0 else none)
  let grp := zs.findSome? (fun z => if member s (zoneOf r z).group then none else say 2 z (zoneOf r z).group (bits (reg s R.ESC_HELD) 31 16))
  let lead := zs.findSome? (fun z => if zoneRadio r z && (zoneOf r z).group != leadGroup s then say 3 z (zoneOf r z).group (leadGroup s) else none)
  route.or (grp.or lead)

/-! Commands (R548). -/

def pairSetOk (p : PairSet) : Bool :=
  decide (p.device ≤ 1) && decide (p.escPort ≤ 7) && (decide (p.arbPort ≤ 7) || p.arbPort == 10) && decide (20 ≤ p.leaseMs) &&
    decide (p.leaseMs ≤ 1000) && decide (p.leadGroup ≤ 15)

def pairSet (p : PairSet) (s : State) : State :=
  let cfg := p.leadGroup * 16777216 + p.arbPort * 1048576 + p.escPort * 65536 + p.device * 2 + p.flags % 2
  setReg R.ESC_CFG (BitVec.ofNat 32 cfg) (setReg R.ESC_LEASE (BitVec.ofNat 32 (p.pair * 65536 + p.leaseMs)) (setField R.ESC_HELD 31 16 p.member
    (modEsc (fun e => { e with partnerIp := p.partnerIp, arbIp := p.arbIp, escUdp := p.escUdp, arbUdp := p.arbUdp, partnerMac := p.partnerMac }) s)))

/-- Accepted, pending; the loss follows and with it the final answer. -/
def execPairRelease (c : Call) (mask : Nat) (s : State) : Out :=
  command 0x04A1 c s fun s =>
    accept (releaseGroups ((List.range 16).filter (nBit mask)) (respond 0x04A1 c ⟨.pending, 0, []⟩ s))

def anyEligible (s : State) : Bool := (List.range 16).any (fun g => member s g && eligible s g)

/-- Digests of the last record equal this device's own. -/
def digestMatch (s : State) : Bool :=
  match s.esc.record with
  | some r => (claimed r.2).all (fun g => r.2.digests.getD g 0 == groupDigest s g)
  | none => false

def execPairStatusGet (c : Call) (s : State) : Out :=
  command 0x04A2 c s fun s =>
    let r := s.esc.record
    let flags := bNat (anyEligible s) + 2 * bNat s.esc.shadowOk + 4 * bNat (pathsOk s) + 8 * bNat (digestMatch s) + 16 * bNat (lastFresh s) +
      32 * bNat (rejoinedNow s)
    answer 96 (([bits (reg s R.ESC_CFG) 1 1, flags, heldMask s, ((r.map Prod.fst).getD 0).toNat, unsignedOf 32 ((r.map (fun q => q.2.k)).getD 0),
      regN s R.ESC_CNT_INCOMPLETE, regN s R.ESC_CNT_SHADOW, regN s R.ESC_CNT_MISMATCH, regN s R.ESC_CNT_PROBE_MISS] ++
      (List.range 16).map (fun g => regN s (R.ESC_Gg_SEQ g))).map Int.ofNat) s

/-- Registers that show the pair (R549). -/
def viewEsc (s : State) (a : Nat) : Option Word :=
  let w (n : Nat) : Option Word := some (BitVec.ofNat 32 n)
  match pageOff a with
  | 0x000 => w (bNat (pairOn s && s.time.running))
  | 0x00C => some (setBits (reg s R.ESC_HELD) 15 0 (heldMask s))
  | 0x010 => w (bNat (rejoinedNow s) + 2 * bNat (anyEligible s) + 4 * bNat (lastFresh s) + 8 * bNat (digestMatch s) + 16 * bNat (pathsOk s) +
      32 * bNat s.esc.shadowOk)
  | 0x020 => some ((s.esc.record.map Prod.fst).getD 0)
  | 0x024 => some (BitVec.ofInt 32 ((s.esc.record.map (fun q => q.2.k)).getD 0))
  | 0x028 => some s.esc.txSeq
  | 0x070 => w ((failedPaths s).foldl (fun m p => m ||| 2 ^ pathBit p) 0)
  | o => if 0x140 ≤ o ∧ o < 0x180 then
      w (if holds s ((o - 0x140) / 4) then ((leaseOf s ((o - 0x140) / 4)).till - s.time.now) / 1000 else 0)
    else none

/-- Show time stops, or PD7 goes off: leases are lost and nothing is known of the partner (R545). -/
def escStop (s : State) : State :=
  modEsc (fun e => { Esc.reset with
    partnerIp := e.partnerIp, arbIp := e.arbIp, escUdp := e.escUdp, arbUdp := e.arbUdp, partnerMac := e.partnerMac, requestSeq := e.requestSeq
    txSeq := e.txSeq, alive := e.alive, probeAlive := e.probeAlive, replyAlive := e.replyAlive, probeSeq := e.probeSeq }) s

end Sys2Proof.Machine
end

