-- ==== Sys2Proof/Machine/Strings.lean ====
section
/-! DEFINITION. String drive (12_string_drive.md): the FAULT_SUM poll, the failed-lamp table, and what a returned control frame does. -/

namespace Sys2Proof.Machine

/-! The failed-lamp table (R420 to R423). -/

def modLamps (f : List LampEntry → List LampEntry) (s : State) : State := { s with lamps := f s.lamps }

/-- The fixture and route index of a lamp: 0xFFFFFFFF for none. -/
def lampRoute (s : State) (l i lamp : Nat) : Nat × Nat :=
  let p := chipFirst s.cfgB l i + lamp
  match (laneFixtures s.cfgB l).find? (fun e => touches e.2 p 1) with
  | some e => (e.1, p - e.2.routeB)
  | none => (0xFFFFFFFF, 0)

def lampListed (s : State) (l i lamp str kind : Nat) : Bool :=
  s.lamps.any (fun e => e.lane == l && e.chip == i && e.lamp == lamp && e.string_ == str && e.kind == kind)

/-- LAMP_FAULT: flag bit 0 rediscovered, bit 1 not entered (R420, R425). -/
def lampReport (l i : Nat) (again full : Bool) (x : Nat × Nat × Nat) (s : State) : State :=
  let (lamp, str, kind) := x
  let (fx, ix) := lampRoute s l i lamp
  notify 0x8240 24 [l, lamp, i, str, kind, bNat again + 2 * bNat full, fx, ix, st64 s] s

/-- A newly failed emitter: entered while there is room, reported in any case (R420, R421). -/
def lampFound (l i : Nat) (again : Bool) (s : State) (x : Nat × Nat × Nat) : State :=
  let (lamp, str, kind) := x
  let full := decide (16384 ≤ s.lamps.length)
  let (fx, ix) := lampRoute s l i lamp
  let s1 := setFlag R.STR_INT_STAT kind (bump (if kind = 0 then R.STR_CNT_OPEN else R.STR_CNT_SHORT) s)
  let s2 := if full then setFlag R.STR_INT_STAT 3 (bump R.STR_CNT_FULL s1) else modLamps (· ++ [⟨l, i, lamp, str, kind, fx, ix, st64 s⟩]) s1
  lampReport l i again full x s2

/-- Emitters marked in a FAULT_MAP: lamp, string and kind (R419). -/
def mapMarks (map : List (BitVec 8)) : List (Nat × Nat × Nat) :=
  (map.mapIdx (fun lamp b => ((List.range 6).filter (nBit b.toNat)).map (fun n => (lamp, n % 3, n / 3)))).flatten

/-- The whole map of a chip is read: emitters not in the table become entries; after a first read those in it are reported again, as rediscovered
(R420, R422). -/
def mapDone (l i : Nat) (again : Bool) (s : State) : State :=
  let mark (y : State) (x : Nat × Nat × Nat) : State :=
    if lampListed y l i x.1 x.2.1 x.2.2 then (if again then lampReport l i true false x y else y) else lampFound l i again y x
  (mapMarks (laneOf s l).map).foldl mark (modLane l (fun y => { y with map := [] }) s)

/-- The next chip of the poll is read; after the last the pass is over (R420). -/
def pollSend (l : Nat) (s : State) : State :=
  let n := reachable s l
  let x := laneOf s l
  if laneString s.cfgB l = false ∨ laneRuns? x = false ∨ n = 0 ∨ x.outstanding.isSome ∨ x.queue.any (ctrlReady s) then s
  else
    let wrap := decide (n ≤ x.pollNext)
    let i := if wrap then 0 else x.pollNext
    let s1 := if i = 0 then modLane l (fun y => { y with
      pollUs := if wrap then (s.time.now - y.pollStart) / 1000 else y.pollUs, pollStart := s.time.now }) s else s
    ctrlSend l (ctrlQueue l i (.read 0x120) .poll none none (modLane l (fun y => { y with pollNext := i + 1 }) s1))

/-- What may go next goes: a range frame, a waiting control frame, or the poll. -/
def ctrlNext (l : Nat) (s : State) : State := pollSend l (ctrlSend l (rangeNext l s))

/-- A string-fault bit changed (R416, R420). -/
def stringFault (l i : Nat) (new : Nat) (s : State) (n : Nat) : State :=
  notify 0x8241 16 [l, n, i, bNat (!nBit new n), st64 s] (setFlag R.STR_INT_STAT 2 (if nBit new n then bump R.STR_CNT_STRING s else s))

/-- A FAULT_SUM read returns (R420, R422). -/
def sumReturn (l i : Nat) (w : Word) (s : State) : State :=
  let old := (chipOf s l i).sum
  let was := bits (old.getD 0) 18 16
  let now := bits w 18 16
  let s1 := ((List.range 3).filter (fun n => nBit was n != nBit now n)).foldl (stringFault l i now) s
  let readMap := match old with
    | none => decide (0 < bits w 15 0)
    | some o => bits o 31 24 != bits w 31 24 || was != now
  let s2 := modChip l i (fun k => { k with sum := some w }) s1
  if readMap then
    let again := bNat old.isNone
    (List.range 16).foldl (fun y n => ctrlQueue l i (.read (0x200 + 4 * n)) (.mapRead (n + 16 * again) w) none none y)
      (bump (R.STR_Ln_CNT_MAPREAD l) (modLane l (fun y => { y with map := [] }) s2))
  else s2

/-! STR_LAMP_SET (R423). -/

def lampMatch (p : StrLampSet) (e : LampEntry) : Bool :=
  e.lane == p.lane && e.chip == p.chip && (p.lamp == 0xFF || e.lamp == p.lamp) && nBit p.strings e.string_

/-- The lamps and strings a command names. -/
def lampTargets (s : State) (p : StrLampSet) : List (Nat × Nat) :=
  (List.range (chipCount s.cfgB p.lane p.chip)).flatMap (fun j =>
    if p.lamp = 0xFF ∨ p.lamp = j then ((List.range 3).filter (nBit p.strings)).map (fun n => (j, n)) else [])

/-- Host bypass entries join the table, or the entries that a clear names leave it. -/
def lampApply (p : StrLampSet) (s : State) : State :=
  if p.action = 1 then modLamps (fun t => t.filter (fun e => !lampMatch p e)) s
  else (lampTargets s p).foldl (fun x e =>
    if lampListed x p.lane p.chip e.1 e.2 2 then x
    else if 16384 ≤ x.lamps.length then setFlag R.STR_INT_STAT 3 (bump R.STR_CNT_FULL x)
    else
      let (fx, ix) := lampRoute x p.lane p.chip e.1
      modLamps (· ++ [⟨p.lane, p.chip, e.1, e.2, 2, fx, ix, st64 x⟩]) x) s

/-- CLEAR as R419 lays it out. -/
def clearWord (p : StrLampSet) : Nat := (if p.lamp = 0xFF then 32768 else p.lamp) + p.strings * 256

/-- BYPASS with what a bypass command names, though the table had no room for it (R423). -/
def bypassWith (s : State) (p : StrLampSet) (ts : List (Nat × Nat)) : List (BitVec 8) :=
  (bypassBytes s p.lane p.chip).mapIdx (fun j b => b ||| BitVec.ofNat 8 (((ts.filter (fun x => x.1 == j)).map (fun x => 2 ^ x.2)).sum))

/-- WRITE of BYPASS or CLEAR, then COMMIT with the chip's current epoch (R423). -/
def lampFrames (c : Call) (p : StrLampSet) (s : State) : State :=
  let s1 := lampApply p s
  let s2 := ctrlQueue p.lane p.chip (.write 0x240 (bypassWith s1 p (if p.action = 0 then lampTargets s p else []))) .lampWrite none none s1
  let s3 := if p.action = 1 then ctrlQueue p.lane p.chip (.write 0x118 (le (clearWord p) 2 ++ le 0 2)) .lampWrite none none s2 else s2
  let epoch := ((chipOf s p.lane p.chip).epoch).getD (chipEpoch s p.lane p.chip)
  ctrlNext p.lane (ctrlQueue p.lane p.chip (.commit epoch) (.lampCommit (some c) p) none none s3)

def execStrLampSet (c : Call) (p : StrLampSet) (s : State) : Out :=
  command 0x0469 c s fun s =>
    if 1 < p.action ∨ p.strings = 0 ∨ 7 < p.strings ∨ (p.lamp ≠ 0xFF ∧ 63 < p.lamp) then refuse .invalidParameter s
    else match chipCheck s p.lane p.chip with
      | some e => refuse e s
      | none =>
        if laneString s.cfgB p.lane = false then refuse .notFound s
        else if p.lamp ≠ 0xFF ∧ chipCount s.cfgB p.lane p.chip ≤ p.lamp then refuse .notFound s
        else (lampFrames c p s, ⟨.pending, 0, []⟩)

def strLaneSetOk (p : StrLaneSet) : Bool := decide (p.lane ≤ 31) && decide (p.diagPhase ≤ 63)

def execStrLaneSet (c : Call) (p : StrLaneSet) (s : State) : Out := configMessage 0x0468 16 c (fun _ => strLaneSetOk p) (.strLaneSet p) s

def lampFields (e : LampEntry) : List Int := [e.lane, e.lamp, e.chip, e.string_, e.kind, e.fixture, e.index, e.at_]

def execStrFaultGet (c : Call) (first count : Nat) (s : State) : Out :=
  command 0x046A c s fun s =>
    if count < 1 ∨ 256 < count ∨ 16384 ≤ first then refuse .invalidParameter s
    else
      let es := (s.lamps.drop first).take count
      answer (8 + 24 * es.length) ([(s.lamps.length : Int), es.length] ++ es.flatMap lampFields) s

/-! Returned and abandoned control frames (R393, R394). -/

/-- A completed frame's effect. -/
def ctrlComplete (l : Nat) (c : Ctrl) (data : Word) (status : Nat) (s : State) : State :=
  match c.op, c.cause with
  | .latch u, _ => modChip l c.chip (fun k => { k with acked := k.units == u }) s
  | .commit e, .provision =>
    chipEpochReport l c.chip e (chipForget (l * 1024 + c.chip) (modChip l c.chip (fun k => { k with owed := false, lostK := none }) s))
  | .commit e, .lampCommit owed _ => respondOwed 0x0469 owed ⟨.ok, 4, [status]⟩ (chipEpochReport l c.chip e s)
  | .write _ _, .hostWrite owed => respondOwed 0x0465 owed ⟨.ok, 4, [status]⟩ s
  | .read _, .hostRead owed => respondOwed 0x0466 owed ⟨.ok, 8, [status, data.toNat]⟩ s
  | .read _, .poll => sumReturn l c.chip data s
  | .read _, .mapRead n _ =>
    let s1 := modLane l (fun y => { y with map := y.map ++ wordBytes data }) s
    if n % 16 = 15 then mapDone l c.chip (decide (16 ≤ n)) s1 else s1
  | _, _ => s

/-- A READ of a chip's FAULT_MAP failed: the rest of that map is not read, and the next poll finds the change again (DESIGN CHOICE, log entry 17). -/
def mapBroken (l : Nat) (c : Ctrl) (s : State) : State :=
  match c.cause with
  | .mapRead n w =>
    modChip l c.chip (fun k => { k with sum := if 16 ≤ n then none else some (w ^^^ 0x80000000) }) (modLane l (fun y => { y with
      map := [], queue := y.queue.filter (fun q => !(q.chip == c.chip && (match q.cause with
        | .mapRead _ _ => true
        | _ => false))) }) s)
  | _ => s

/-- A COMMIT that provisions a chip was not accepted: the frame that its change names is not sent, and the chip is provisioned again when it returns
(R399, R401). -/
def commitLost (l : Nat) (c : Ctrl) (s : State) : State :=
  match c.op, c.cause with
  | .commit _, .provision => modChip l c.chip (fun k => { k with owed := true, lostK := c.fromK.or k.lostK }) s
  | _, _ => s

def ctrlClear (l : Nat) (s : State) : State := modLane l (fun y => { y with outstanding := none }) s

/-- No status 1 or 2: the frame goes again with the same seq and alive, or is abandoned (R393). -/
def ctrlRetry (l : Nat) (c : Ctrl) (status : Nat) (s : State) : State :=
  if c.sent ≤ (laneCfg s.cfgB l).retries then
    bump (R.LNE_Ln_CNT_RETRY l) (modLane l (fun y => { y with
      outstanding := some { c with sent := c.sent + 1, sentAt := s.time.now, lastStatus := status } }) s)
  else
    let s1 := setFlag R.LNE_INT_STAT 2 (bump (R.LNE_Ln_CNT_UNREACH l) (ctrlClear l s))
    ctrlNext l (laneSettle l (mapBroken l c (ctrlFailed c 0 status (commitLost l c <| notify 0x8232 16 [l, opCode c.op, c.chip, c.sent, status, st64 s] s1))))

/-- The alive value that the lane's check channel accepted last. -/
def lastAlive (s : State) (l : Nat) : Word := reg s (R.CHK_CHn_ALIVE (12 + l))

/-- ack_alive is judged under R155: a skip goes to the Ledger (R394). It is judged whatever CHK_CHn_CTRL.alive_en holds: who sets it for the lanes'
channels is left open (DESIGN CHOICE, log entry 31). -/
def ctrlAlive (l a : Nat) (s : State) : State :=
  let w := lastAlive s l
  let s1 := judgeAlive (12 + l) a s
  let d := (a + 65536 - bits w 15 0) % 65536
  if bitOf w 16 = true ∧ 2 ≤ d ∧ d ≤ 32768 then ledgerEvent 0x000A [12 + l, bits w 15 0, a % 65536] s1 else s1

/-- The bytes of an acknowledgement block that its CRC covers (R377). -/
def ackBytes (r : CtrlReturn) : List (BitVec 8) := le r.status 1 ++ le r.seq 1 ++ le r.alive 2 ++ wordBytes r.data

/-- The lane's check channel finds ack_crc right (R394). -/
def ackCrcOk (r : CtrlReturn) : Bool := r.crc == crc32c (ackBytes r)

/-- A returned control frame, whose block the lane's check channel runs over (R393, R394): an acknowledgement of another frame than the outstanding one
is discarded. -/
def ctrlReturn (l : Nat) (r : CtrlReturn) (sIn : State) : State :=
  let s := chkRun (12 + l) (ackBytes r) sIn
  match (laneOf s l).outstanding with
  | none => if ackCrcOk r = true ∧ r.status ≠ 0 then ctrlAlive l r.alive s else s
  | some c =>
    if ackCrcOk r = false ∨ r.status = 0 then ctrlRetry l c (if ackCrcOk r then r.status else 0) s
    else
      let s1 := ctrlAlive l r.alive s
      if r.alive ≠ c.alive ∨ r.seq ≠ c.seq then s1
      else if r.status = 1 ∨ r.status = 2 then
        let s2 := if r.status = 2 then bump (R.LNE_Ln_CNT_DUP l) s1 else s1
        ctrlNext l (laneSettle l (ctrlComplete l c r.data r.status (ctrlClear l s2)))
      else ctrlNext l (laneSettle l (mapBroken l c (ctrlFailed c r.data r.status (commitLost l c (ctrlClear l s1)))))

def execControlFrameReturn (t : Nat) (lane : Fin 32) (r : CtrlReturn) (s : State) : Out := .next (ctrlReturn lane r (rxErrors lane r.errors (advance t s)))

/-- No return within LNE_Ln_ACK_TO (R393). -/
def execControlAckTimeout (t : Nat) (lane : Fin 32) (s : State) : Out :=
  let s1 := advance t s
  match (laneOf s1 lane).outstanding with
  | none => .next (ctrlNext lane s1)
  | some c =>
    if c.sentAt + (laneCfg s1.cfgB lane).ackTimeout ≤ s1.time.now then .next (ctrlRetry lane c c.lastStatus s1) else .next s1

def execCollectInterval (t : Nat) (s : State) : Out :=
  .next ((List.range 32).foldl (fun x l => ctrlNext l (collectSend x l)) (advance t s))

/-- Sessions that were reset are owed nothing (R556). -/
def laneDropOwed (i : Fin 5) (s : State) : State :=
  let cause (c : CtrlFor) : CtrlFor := match c with
    | .hostWrite o => .hostWrite (dropOwed i o)
    | .hostRead o => .hostRead (dropOwed i o)
    | .lampCommit o p => .lampCommit (dropOwed i o) p
    | x => x
  let ctrl (c : Ctrl) : Ctrl := { c with cause := cause c.cause }
  { s with lanes := vMap s.lanes (fun x => { x with queue := x.queue.map ctrl, outstanding := x.outstanding.map ctrl }) }

/-! Registers (R426). -/

def viewStr (s : State) (a : Nat) : Option Word :=
  let o := pageOff a
  let lanes := ((List.range 32).filter (fun l => (laneCfg s.cfgB l).mode == 2)).map (fun l => 2 ^ l)
  if o < 0x1000 then
    match o with
    | 0x000 => some (BitVec.ofNat 32 (bNat (s.time.running && lanes != [])))
    | 0x004 => some (BitVec.ofNat 32 lanes.sum)
    | 0x050 => some (BitVec.ofNat 32 s.lamps.length)
    | 0x074 => some (match s.lamps[bits (reg s R.STR_FT_IDX) 13 0]? with
      | some e => BitVec.ofNat 32 (e.lane * 134217728 + e.chip * 131072 + e.lamp * 2048 + e.string_ * 512 + e.kind * 128 + 1)
      | none => 0)
    | _ => none
  else
    let l := (o - 0x1000) / 0x40
    match (o - 0x1000) % 0x40 with
    | 0x10 => some (BitVec.ofNat 32 (s.lamps.filter (fun e => e.lane == l)).length)
    | 0x14 => some (BitVec.ofNat 32 (laneOf s l).pollUs)
    | _ => none

end Sys2Proof.Machine
end

