-- ==== Sys2Proof/Machine/Calibrate.lean ====
section
/-! DEFINITION. Self-calibration (19_self_calibration.md): two runs and their agreement, lane codes, passes, the calibration sector. -/

namespace Sys2Proof.Machine

def modCal (f : Cal → Cal) (s : State) : State := { s with cal := f s.cal }

/-- Indexes of an item on a part (R605). -/
def calCount (p : Part) (item : Nat) : Nat :=
  match item with
  | 0 | 3 | 11 => 1
  | 1 | 2 => 32
  | 4 | 5 => 10
  | 6 => 24
  | 7 => 14
  | 8 | 9 | 10 => if p = .rk9200 then 2 else 0
  | _ => 0

/-- Tolerances in the unit of the item: s12.4 °C, 0.01 ppm, 0.001 dB (and 0.001° for the phase). -/
def calTolerance (item : Nat) : Nat :=
  match item with
  | 0 => 1 | 1 => 10 | 2 => 20 | 3 => 50 | 4 | 5 => 100 | 6 => 8 | 7 => 2 | 8 => 5 | 9 => 50 | 10 => 1000 | _ => 512

def calKey (item index : Nat) : Nat := item * 256 + index
def calBlank : CalEntry := ⟨false, false, false, false, 0, 0⟩
def calEntry (s : State) (item index : Nat) : CalEntry := aGet s.cal.entries (calKey item index) calBlank
def modEntry (item index : Nat) (f : CalEntry → CalEntry) (s : State) : State :=
  modCal (fun c => { c with entries := aPut c.entries (calKey item index) (f (calEntry s item index)) }) s

/-- The value in force: the register where the item has one, so that a diagnostic write of it counts (R625). -/
def calValue (s : State) (item index : Nat) : Int :=
  match item with
  | 0 => bits (reg s R.CAL_HKC_TRIM) 7 0
  | 1 => bits (reg s (R.CAL_SKEWl index)) 8 0
  | 3 => signed 32 (regN s R.CAL_SYNC_DELAY)
  | 8 => signed 16 (bits (reg s (R.RAD_Xn_TRIM index)) 15 0)
  | 11 => signed 32 (regN s R.CAL_REF_FREQ)
  | _ => (calEntry s item index).value

/-- A lane's new code is reached step by step from an instant on (R609). -/
def skewFrom (at_ l code : Nat) (s : State) : State :=
  modCal (fun c => { c with stepAt := aPut c.stepAt l at_ }) (setField (R.CAL_SKEWl l) 8 0 code s)

/-- The next frame boundary on the reference clock; now while show time does not run. -/
def boundaryNow (s : State) : Nat :=
  if s.time.running then s.time.now + (frameAt s (s.time.fcount + 1) - s.time.st64).toNat else s.time.now

/-- A value is applied where its item acts. -/
def calApply (item index : Nat) (v v2 : Int) (s : State) : State :=
  let s1 := modEntry item index (fun e => { e with valid := true, value := v, value2 := v2 }) s
  match item with
  | 0 => setField R.CAL_HKC_TRIM 7 0 v.toNat s1
  | 1 => skewFrom (boundaryNow s1) index v.toNat s1
  | 3 => setReg R.CAL_SYNC_DELAY (BitVec.ofInt 32 v) s1
  | 8 => setField (R.RAD_Xn_TRIM index) 15 0 (unsignedOf 16 v) s1
  | 11 => freeTrim (setReg R.CAL_REF_FREQ (BitVec.ofInt 32 v) s1)
  | _ => s1

/-- A value that a diagnostic write gives is in force without runs, and the next stored copy holds it (R625). -/
def calGiven (item index : Nat) (s : State) : State := modEntry item index (fun e => { e with valid := true }) s

/-- Flags of an index that a register shows too. -/
def calFlags (item index : Nat) (unstable outOfRange : Bool) (s : State) : State :=
  let s1 := modEntry item index (fun e => { e with unstable := unstable, outOfRange := outOfRange, skipped := false }) s
  if item = 1 then setField (R.CAL_SKEWl index) 31 30 (2 * bNat unstable + bNat outOfRange) s1 else s1

/-- CAL_UNSTABLE: causes 0 disagreement, 1 out_of_range. -/
def calNotice (item index cause : Nat) (a b : Int) (s : State) : State :=
  notify 0x8321 24 [item, cause, index, a, b, st64 s] (setFlag R.CAL_INT_STAT 1 (bump R.CAL_CNT_UNSTABLE s))

/-- The mean of two results rounded with halves up. -/
def calMean (a b : Int) : Int := (a + b + 1) / 2

/-- Two runs of an index: applied where they agree, else the value in force stays (R607, R608). -/
def calRun (item : Nat) (s : State) (r : CalRun) : State :=
  let near (a b : Int) (tol : Nat) : Bool := decide ((a - b).natAbs ≤ tol)
  if near r.run1 r.run2 (calTolerance item) = false ∨ (item = 9 ∧ near r.phase1 r.phase2 500 = false) then
    calNotice item r.index 0 r.run1 r.run2 (calFlags item r.index true (calEntry s item r.index).outOfRange s)
  else if item = 1 then
    let sum := r.run1 + r.run2
    if 5110 < sum then calNotice 1 r.index 1 r.run1 r.run2 (calApply 1 r.index 511 0 (calFlags 1 r.index false true s))
    else calApply 1 r.index ((sum + 5) / 10) 0 (calFlags 1 r.index false false s)
  else
    let v := calMean r.run1 r.run2
    calApply item r.index (if item = 0 then clampI 0 255 v else v) (if item = 9 then calMean r.phase1 r.phase2 else 0)
      (calFlags item r.index false false s)

/-- Launch offsets of item 1 become results against the largest of each run (R608). -/
def laneResults (l : List CalRun) : List CalRun :=
  let top (f : CalRun → Int) : Int := l.foldl (fun m r => max m (f r)) ((l.head?.map f).getD 0)
  l.map (fun r => { r with run1 := top CalRun.run1 - r.run1, run2 := top CalRun.run2 - r.run2 })

/-! Occasions (R605, R611, R614). -/

def radioOn (s : State) : Bool := s.part == .rk9200 && domState s 12 == .on

/-- An index of an item can run on its own occasion. -/
def calOccasion (s : State) (item index : Nat) : Bool :=
  match item with
  | 0 | 6 | 7 => s.power.mode == .boot && domState s 2 == .on
  | 1 | 2 | 3 => domState s 11 == .on
  | 4 | 5 => (portOf s index).link == .up
  | 8 | 9 | 10 => radioOn s
  | _ => false

/-- An item can run in a pass. -/
def calRunnable (s : State) (item : Nat) : Bool :=
  match item with
  | 0 => true
  | 1 | 2 | 3 => domState s 11 == .on
  | 4 | 5 => (List.range 10).any (fun p => (portOf s p).link == .up)
  | 6 | 7 => !s.time.running
  | 8 | 9 | 10 => radioOn s
  | _ => (tbOf s (selTb s)).state == .locked

/-! The sector (R615 to R620). -/

def calCopyOf (s : State) (i : Nat) : Option CalCopy := vGet s.cal.copies i none

/-- A valid copy of the device's own (R618). -/
def ownCopy (s : State) (i : Nat) : Option CalCopy := (calCopyOf s i).filter CalCopy.own

/-- The copy in use of the valid ones: the newer generation. -/
def calChoose (s : State) : Option Nat :=
  match ownCopy s 0, ownCopy s 1 with
  | some a, some b => some (if 0 ≤ (a.generation - b.generation).toInt then 0 else 1)
  | some _, none => some 0
  | none, some _ => some 1
  | none, none => none

/-- CAL_SECTOR: causes 0 no valid copy, 1 write abandoned, 2 copy invalid at boot, 3 foreign. -/
def sectorNotice (cause copy gen : Nat) (s : State) : State :=
  notify 0x8322 16 [cause, copy, gen, st64 s] (setFlag R.CAL_INT_STAT 2 s)

/-- What CAL shows of the copy in force. -/
def calShow (s : State) : State :=
  match s.cal.inForce.bind (calCopyOf s) with
  | some c => setReg64 R.CAL_UTC_LO (Int.ofNat c.utc) (setReg64 R.CAL_LAST_LO c.st64 (setReg R.CAL_COUNT (BitVec.ofNat 32 c.count)
      (setReg R.CAL_GEN c.generation s)))
  | none => s

/-- The values of the copy come into force; indexes it does not hold take their defaults (R612, R613). -/
def calLoad (s : State) : State :=
  let pick := calChoose s
  let s3 := calShow (modCal (fun c => { Cal.reset with copies := c.copies, loaded := true, inForce := pick }) s)
  match pick.bind (calCopyOf s3) with
  | some c => c.records.foldl (fun x e =>
      let y := if e.2.valid then calApply (e.1 / 256) (e.1 % 256) e.2.value e.2.value2 x else x
      modEntry (e.1 / 256) (e.1 % 256) (fun _ => e.2) y) s3
  | none => s3

/-- Before any item of BOOT runs, the sector is loaded (R612). -/
def calReady (s : State) : State := if s.cal.loaded then s else calLoad s

/-- What the load found wrong is told once Teller can send (R615, R618, R624). -/
def calTell (s : State) : State :=
  let s1 := ((List.range 2).filter (fun i => (calCopyOf s i).isSome && (ownCopy s i).isNone)).foldl
    (fun x i => sectorNotice 3 i (((calCopyOf x i).map (fun c => c.generation.toNat)).getD 0) x) s
  match s.cal.inForce with
  | none => sectorNotice 0 0xFF 0 s1
  | some _ => ((List.range 2).filter (fun i => (calCopyOf s i).isNone)).foldl (fun x i => sectorNotice 2 i 0 x) s1

/-- Every record in force, in ascending item and index. -/
def calRecords (s : State) : SMap CalEntry :=
  (List.range 12).flatMap (fun i => (List.range (calCount s.part i)).map (fun n =>
    (calKey i n, { calEntry s i n with value := calValue s i n })))

/-- A copy is written: the invalid one, else the one not in force; it is erased first (R619). -/
def calWriteStart (pass : Bool) (s : State) : State :=
  let target := match ownCopy s 0, ownCopy s 1 with
    | none, _ => 0
    | _, none => 1
    | _, _ => if s.cal.inForce = some 0 then 1 else 0
  let old := s.cal.inForce.bind (calCopyOf s)
  let gen : Word := match old with
    | some c => c.generation + 1
    | none => 1
  let count := ((old.map CalCopy.count).getD 0) + bNat pass
  let content : CalCopy := ⟨gen, count, st64 s, 0, regN s R.SYS_IDENT, true, calRecords s⟩
  modCal (fun c => { c with copies := vMod c.copies target (fun _ => none), write := some ⟨target, content, pass, false⟩ }) s

/-- W1 asserts during a write: it is abandoned at once (R620). -/
def calSag (s : State) : State :=
  match s.cal.write with
  | some w => if w.again then s
    else sectorNotice 1 w.copy w.content.generation.toNat (bump R.CAL_CNT_WRFAIL (modCal (fun c => { c with write := some { w with again := true } }) s))
  | none => s

/-- After the hold the copy is written again from its start. -/
def calResume (s : State) : State :=
  match s.cal.write with
  | some w => if w.again then modCal (fun c => { c with write := some { w with again := false } }) s else s
  | none => s

/-- The device sheds before the copy is written again: the write is dropped (R620). -/
def calDrop (s : State) : State :=
  match s.cal.write with
  | some w => if w.again then modCal (fun c => { c with write := none }) s else s
  | none => s

/-! Passes (R621 to R623). -/

/-- The pass ends: CAL_DONE, and the final response. Result 0 complete, 1 aborted. -/
def passEnd (result : Nat) (gen : Option Word) (s : State) : State :=
  match s.cal.pass with
  | none => s
  | some p =>
    let s1 := modCal (fun c => { c with pass := none, skippedItems := p.skipped, passes := c.passes + bNat (result == 0) }) s
    let s2 := setFlag R.CAL_INT_STAT 0 (if result = 0 then bump R.CAL_CNT_PASS s1 else s1)
    respondOwed 0x0520 p.owed ⟨.ok, 0, []⟩
      (notify 0x8320 24 [p.ran, p.skipped, p.unstable, result, bNat gen.isSome, (gen.getD 0).toNat, st64 s2] s2)

/-- Items that cannot run are skipped; with none left the sector is written, or the pass ends. -/
def passGo (fuel : Nat) (s : State) : State :=
  match fuel, s.cal.pass with
  | 0, _ => s
  | _, none => s
  | n + 1, some p =>
    (match p.left with
     | [] => if p.store then calWriteStart true s else passEnd 0 none s
     | i :: r =>
       if calRunnable s i ∧ 0 < calCount s.part i then s
       else passGo n ((List.range (calCount s.part i)).foldl (fun x k => modEntry i k (fun e => { e with skipped := true }) x)
         (modCal (fun c => { c with pass := some { p with left := r, skipped := p.skipped + 2 ^ i } }) s)))

/-- The mode leaves CALIBRATE, or CAL_ABORT: nothing is written (R622). -/
def passAbort (s : State) : State :=
  match s.cal.pass with
  | none => s
  | some _ => passEnd 1 none (modCal (fun c => { c with write := c.write.filter (fun w => !w.pass) }) s)

/-- Lanes 1 to 3 of a pass are those of its mask (R624). -/
def inMask (lanes item index : Nat) : Bool := !(item == 1 || item == 2) || lanes == 0 || nBit lanes index

/-- A port that is not UP has nothing to run on: its index is skipped (R614). -/
def portSkips (s : State) (item index : Nat) : Bool := (item == 4 || item == 5) && (portOf s index).link != .up

/-- An item completes: its indexes' runs are judged; in a pass the next item follows. -/
def calItemDone (item : Nat) (inPass : Bool) (runs : List CalRun) (s : State) : State :=
  let all := if item = 1 then laneResults runs else runs
  let ok (r : CalRun) : Bool := decide (r.index < calCount s.part item)
  if inPass then
    match s.cal.pass with
    | some p =>
      if p.left.head? ≠ some item then s
      else if calRunnable s item = false then passGo 13 s
      else
        let l := all.filter (fun r => ok r && inMask p.lanes item r.index && !portSkips s item r.index)
        let skip := (List.range (calCount s.part item)).filter (portSkips s item)
        let s1 := skip.foldl (fun x k => modEntry item k (fun e => { e with skipped := true }) x) (l.foldl (calRun item) s)
        let bad := (l.filter (fun r => (calEntry s1 item r.index).unstable)).length
        passGo 13 (modCal (fun c => { c with pass := some { p with
          left := p.left.drop 1, ran := p.ran + 2 ^ item, unstable := p.unstable + bad } }) s1)
    | none => s
  else
    let l := all.filter (fun r => ok r && calOccasion s item r.index)
    if l = [] then s else l.foldl (calRun item) (calReady s)

def execCalItemDone (t : Nat) (item : Nat) (inPass : Bool) (runs : List CalRun) (s : State) : Out :=
  .next (calItemDone item inPass runs (advance t s))

/-- The copy is complete: it is in force (R619). `utc` is UTC as the selected time base's source announces it, 0 unknown. -/
def calWritten (utc : Nat) (s : State) : State :=
  match s.cal.write with
  | none => s
  | some w =>
    if w.again then s
    else
      let s1 := calShow (modCal (fun c => { c with
        copies := vMod c.copies w.copy (fun _ => some { w.content with utc := utc }), inForce := some w.copy, write := none }) s)
      if w.pass then passEnd 0 (some w.content.generation) s1 else s1

def execCalSectorWriteDone (t : Nat) (utc : Nat) (s : State) : Out := .next (calWritten utc (advance t s))

/-- One step of 5 ps toward the code (R609). -/
def skewStep (l : Nat) (s : State) : State :=
  let w := reg s (R.CAL_SKEWl l)
  let code := bits w 8 0
  let cur := bits w 24 16
  match aFind s.cal.stepAt l with
  | none => s
  | some at_ =>
    if s.time.now < at_ ∨ domState s 11 ≠ .on then s
    else if cur = code then modCal (fun c => { c with stepAt := aDel c.stepAt l }) s
    else modCal (fun c => { c with stepAt := aPut c.stepAt l (at_ + 1000) }) (setField (R.CAL_SKEWl l) 24 16 (if cur < code then cur + 1 else cur - 1) s)

def execLaneSkewStep (t : Nat) (lane : Fin 32) (s : State) : Out := .next (skewStep lane (advance t s))

/-! Commands (R624). -/

def execCalRun (c : Call) (mask : Nat) (flags : Nat) (lanes : Nat) (s : State) : Out :=
  command 0x0520 c s fun s =>
    if 4096 ≤ mask then refuse .invalidParameter s
    else if s.cal.pass.isSome then refuse .busy s
    else
      let start (x : State) : State :=
        let p : CalPass := ⟨(List.range 12).filter (nBit mask), nBit flags 0, lanes, none, 0, 0, 0⟩
        passGo 13 (modCal (fun q => { q with pass := some p }) x)
      let s1 := start s
      match s1.cal.pass with
      | some p => (modCal (fun q => { q with pass := some { p with owed := some c } }) s1, ⟨.pending, 0, []⟩)
      | none => accept (start (respond 0x0520 c ⟨.pending, 0, []⟩ s))

def execCalAbort (c : Call) (s : State) : Out :=
  command 0x0521 c s fun s => if s.cal.pass.isNone then refuse .notFound s else accept (passAbort s)

/-- 0 both copies valid, 1 one valid, 2 none. -/
def sectorCode (s : State) : Nat := ((List.range 2).filter (fun i => (calCopyOf s i).isNone)).length

/-- Items with an unstable index, and indexes unstable. -/
def unstableItems (s : State) : Nat :=
  (((List.range 12).filter (fun i => (List.range (calCount s.part i)).any (fun n => (calEntry s i n).unstable))).map (fun i => 2 ^ i)).sum

def unstableCount (s : State) : Nat := (s.cal.entries.filter (fun e => e.2.unstable)).length

/-- An index is on its default (R613). -/
def calDefaults (s : State) : Bool :=
  s.cal.loaded && (List.range 12).any (fun i => (List.range (calCount s.part i)).any (fun n => !(calEntry s i n).valid))

def execCalStatusGet (c : Call) (s : State) : Out :=
  command 0x0522 c s fun s =>
    let k := s.cal.inForce.bind (calCopyOf s)
    answer 48 ([(sectorCode s : Int), (s.cal.inForce.getD 0xFF : Nat), bNat s.cal.pass.isSome + 2 * bNat (calDefaults s),
      ((k.map (fun q => q.generation.toNat)).getD 0 : Nat), ((k.map CalCopy.count).getD 0 : Nat), unstableItems s, s.cal.skippedItems,
      (k.map CalCopy.st64).getD 0, ((k.map CalCopy.utc).getD 0 : Nat), s.cal.passes, unstableCount s]) s

/-- The fields of a record (R617). -/
def calFields (s : State) (item index : Nat) : List Int :=
  let e := calEntry s item index
  [item, bNat e.valid + 2 * bNat e.unstable + 4 * bNat e.outOfRange + 8 * bNat e.skipped, index, calValue s item index, e.value2]

def execCalItemGet (c : Call) (item : Nat) (first : Nat) (s : State) : Out :=
  command 0x0523 c s fun s =>
    if calCount s.part item ≤ first then refuse .invalidParameter s
    else
      let n := calCount s.part item - first
      answer (8 + 16 * n) ((n : Int) :: (List.range n).flatMap (fun i => calFields s item (first + i))) s

/-- Registers that show CAL (R625). -/
def viewCal (s : State) (a : Nat) : Option Word :=
  let w (n : Nat) : Option Word := some (BitVec.ofNat 32 n)
  let i := bits (reg s R.CAL_ITEM_IDX) 23 16
  let n := bits (reg s R.CAL_ITEM_IDX) 15 0
  let e := calEntry s i n
  match pageOff a with
  | 0x000 => w (bNat ((s.cal.pass.map (fun p => p.left != [])).getD false) + 2 * bNat s.cal.pass.isSome + 4 * bNat s.cal.write.isSome)
  | 0x004 => w ((match s.cal.inForce with
      | some k => k
      | none => 15) * 65536 + sectorCode s * 16384 + bNat (calDefaults s) * 8192 + unstableItems s)
  | 0x074 => if n < calCount s.part i then
      w (i + (bNat e.valid + 2 * bNat e.unstable + 4 * bNat e.outOfRange + 8 * bNat e.skipped) * 256 + n * 65536) else w 0
  | 0x078 => if n < calCount s.part i then some (BitVec.ofInt 32 (calValue s i n)) else w 0
  | 0x07C => if n < calCount s.part i then some (BitVec.ofInt 32 e.value2) else w 0
  | _ => none

end Sys2Proof.Machine
end

