-- ==== Sys2Proof/Machine/Ledger.lean ====
section
/-! DEFINITION. The Ledger (21_ledger.md): records, rate limits, buffer and flushes, freeze, reading, authorized clear. -/

namespace Sys2Proof.Machine

def modLgr (f : Ledger → Ledger) (s : State) : State := { s with lgr := f s.lgr }

/-! Records (R655, R656). -/

/-- The payload ends in an ST64 field, which becomes the time of the record. -/
def isTimed (code : Nat) : Bool := decide (0x8000 ≤ code) && !noticeUntimed.contains code

/-- The bytes that a record keeps, in pieces of 12 bytes, and whether some are not kept. -/
def recordPieces (code : Nat) (fields : List Int) : List (List (BitVec 8)) × Bool :=
  let b := payloadBytes code fields
  let d := if isTimed code then b.take (b.length - 8) else b
  let ps := (pieces 5 12 (d.take 48)).map (fun p => p ++ List.replicate (12 - p.length) 0)
  (if ps = [] then [List.replicate 12 0] else ps, decide (48 < d.length))

/-- Time and rtc flag of a record: ST64, or the RTC's time while show time does not run (R655). -/
def recordTime (s : State) (code : Nat) (fields : List Int) : Int × Bool :=
  if s.time.running then (if isTimed code then fields.getLastD 0 else s.time.st64, false)
  else ((s.time.rtc * 1000000000 + s.time.rtcNs : Nat), true)

def recBytes (r : LgrRec) : List (BitVec 8) := leI r.time 8 ++ le r.seq.toNat 4 ++ le r.code 2 ++ le r.flags 1 ++ le r.ext 1 ++ r.data

/-- The check word of a record. -/
def recCheck (r : LgrRec) : Word := crc32c (recBytes r)

/-- One record is accepted into the buffer, or into the side buffer while frozen; a full one drops it without a seq (R659, R666). -/
def putRecord (r : LgrRec) (s : State) : State :=
  let seq := reg s R.LGR_NEXT_SEQ
  let took (x : State) : State := bump R.LGR_CNT_REC (setReg R.LGR_NEXT_SEQ (seq + 1) x)
  if s.lgr.freeze.isSome then
    if s.lgr.side.length < 64 then took (modLgr (fun l => { l with side := l.side ++ [{ r with seq := seq, flags := r.flags ||| 4 }] }) s)
    else setFlag R.LGR_INT_STAT 1 (bump R.LGR_CNT_SIDE_OVF (modLgr (fun l => { l with sideDropped := l.sideDropped + 1 }) s))
  else if s.lgr.buffer.length < 1024 then took (modLgr (fun l => { l with buffer := l.buffer ++ [{ r with seq := seq }] }) s)
  else setFlag R.LGR_INT_STAT 1 (bump R.LGR_CNT_LOST (modLgr (fun l => { l with dropped := l.dropped + 1 }) s))

/-- The records of an event: a head and up to 3 continuations. -/
def putEvent (code : Nat) (fields : List Int) (s : State) : State :=
  let (ps, cut) := recordPieces code fields
  let (time, rtc) := recordTime s code fields
  ((List.range ps.length).zip ps).foldl (fun x p =>
    putRecord ⟨time, 0, code, bNat rtc + (if p.1 = 0 then 8 * bNat cut else 2), if p.1 = 0 then ps.length - 1 else p.1, p.2⟩ x) s

/-! Trackers (R661, R662). -/

/-- Codes without a limit, whose records are flushed at once. -/
def isExempt (code : Nat) : Bool :=
  (decide (1 ≤ code) && decide (code ≤ 7)) ||
    [0x8101, 0x8210, 0x8280, 0x8300, 0x8302, 0x8303, 0x8400, 0x8401, 0x8402, 0x8480, 0x8481].contains code

def trackerOf (code : Nat) : Nat := let i := ledgerCodes.idxOf code; if i < ledgerCodes.length then min i 511 else 511

def trackerCode (i : Nat) : Nat := ledgerCodes.getD i 0

def trackerFlush (i : Nat) : Bool := isExempt (trackerCode i)

def tracker (s : State) (i : Nat) : Tracker :=
  aGet s.lgr.trackers i (if trackerFlush i then ⟨0, 20, 20, 0, s.lgr.bootAt, 0⟩ else ⟨10, 20, 20, 0, s.lgr.bootAt, 0⟩)

def setTracker (i : Nat) (x : Tracker) (s : State) : State := modLgr (fun l => { l with trackers := aPut l.trackers i x }) s

/-- Tokens gained by now are counted, one every 1/r s up to b. -/
def credit (now : Nat) (x : Tracker) : Tracker :=
  let total := (now - x.since) * x.rate / 1000000000
  { x with tokens := min x.burst (x.tokens + (total - x.gained)), gained := max total x.gained }

def execTrackerTokenGain (t : Nat) (tracker_ : Fin 512) (s : State) : Out :=
  let s1 := advance t s
  let x := tracker s1 tracker_
  if x.rate = 0 ∨ credit s1.time.now x = x then .next s1 else .next (setTracker tracker_ (credit s1.time.now x) s1)

/-- The summary of a tracker's suppressed events, which takes no token. -/
def summarize (i : Nat) (s : State) : State :=
  let x := tracker s i
  if x.supp = 0 then s else putEvent 0x0002 [trackerCode i, x.supp] (setTracker i { x with supp := 0 } s)

/-! Flushing (R660, R663, R665). -/

/-- Triggers other than W1 and the entry to HIBERNATE act outside LISTEN only. -/
def flushAllowed (s : State) : Bool := s.power.mode != .listen && s.power.mode != .hibernate

/-- A flush is asked for: summaries first, then every record with a seq below the next one. One that runs is extended by W1; another trigger has the
next one follow it, since records accepted meanwhile wait for that. -/
def flushStart (all : Bool) (owed : List Call) (s : State) : State :=
  if s.lgr.fault then s
  else match s.lgr.flush with
    | some f =>
      let g : Flush := if f.all || all then { f with all := true, owed := f.owed ++ f.again.getD [] ++ owed, again := none }
        else { f with again := some (f.again.getD [] ++ owed) }
      modLgr (fun l => { l with flush := some g }) s
    | none =>
      let s1 := (aKeys s.lgr.trackers).foldl (fun x i => summarize i x) s
      modLgr (fun l => { l with flush := some ⟨reg s1 R.LGR_NEXT_SEQ, all, owed, none⟩ }) s1

/-- The slot after a write point; entering a block erases the one after it. -/
def nextSlot (w : Nat) : Nat := if 131072 ≤ w + 1 then 2048 else w + 1

def blockAfter (b : Nat) : Nat := if 63 ≤ b then 1 else b + 1

def slotsAfter (w : Nat) (m : SMap LgrSlot) : SMap LgrSlot :=
  if w % 2048 = 0 then m.filter (fun e => e.1 / 2048 != blockAfter (w / 2048)) else m

/-- A slot is written and read back. -/
def writeSlot (x : LgrSlot) (l : Ledger) : Ledger :=
  let w := nextSlot l.write
  { l with slots := slotsAfter w (aPut l.slots l.write x), write := w }

/-- A record is written, in the next slot again while the check fails; none after 8 failures in a row. -/
def writeRecord (fuel : Nat) (fails : Nat) (r : LgrRec) (bad : List Bool) (l : Ledger) : Option (Ledger × Nat × List Bool) :=
  match fuel with
  | 0 => none
  | n + 1 =>
    if bad.headD false then
      (if 7 ≤ fails then none else writeRecord n (fails + 1) r bad.tail (writeSlot .bad l))
    else some (writeSlot (.record r) l, 0, bad.tail)

/-- Records one after another: the ledger, and those left when flushing stopped. -/
def writeAll (fails : Nat) (rs : List LgrRec) (bad : List Bool) (l : Ledger) : Ledger × Option (List LgrRec) :=
  match rs with
  | [] => (l, none)
  | r :: t =>
    match writeRecord 9 fails r bad l with
    | some (l2, f2, b2) => writeAll f2 t b2 l2
    | none => ((List.range (8 - fails)).foldl (fun q _ => writeSlot .bad q) l, some (r :: t))

/-- seq a is below seq b, by signed difference. -/
def seqBelow (a b : Word) : Bool := decide ((a - b).toInt < 0)

/-- LEDGER_LOSS: causes 0 buffer full, 1 side overflow, 2 flash write failed, 3 bad records at boot. -/
def lossNotice (cause n : Nat) (s : State) : State := notify 0x8481 16 [cause, n, st64 s] (setFlag R.LGR_INT_STAT 1 s)

/-- Flushing stops (R665). -/
def flushFault (s : State) : State :=
  let owed := (s.lgr.flush.map (fun f => f.owed ++ f.again.getD [])).getD []
  let s1 := modLgr (fun l => { l with fault := true, flush := none }) s
  let s2 := lossNotice 2 s1.lgr.buffer.length (setFlag R.LGR_INT_STAT 4 s1)
  owed.foldl (fun x c => internalAnswer 0x0686 (some c) x) s2

/-- The flush writes its records, those of the side buffer last, and where it stops each stays where it was; `bad` tells of each slot in turn whether its check fails. -/
def flushRun (bad : List Bool) (s : State) : State :=
  match s.lgr.flush with
  | none => s
  | some f =>
    let now := s.lgr.buffer.filter (fun r => f.all || seqBelow r.seq f.below)
    let later := s.lgr.buffer.filter (fun r => !(f.all || seqBelow r.seq f.below))
    let side := if f.all then s.lgr.side else []
    let (l, left) := writeAll 0 (now ++ side) bad s.lgr
    match left with
    | none => modLgr (fun _ => { l with buffer := later, side := if f.all then [] else s.lgr.side }) s
    | some rs =>
      let kept := rs.length - side.length
      flushFault (modLgr (fun _ => { l with buffer := rs.take kept ++ later, side := if f.all then rs.drop kept else s.lgr.side }) s)

/-- Room has returned: the count of dropped records is recorded (R659). -/
def reportDropped (s : State) : State :=
  let n := s.lgr.dropped
  if n = 0 ∨ 1024 ≤ s.lgr.buffer.length ∨ s.lgr.freeze.isSome then s
  else lossNotice 0 n (putEvent 0x0004 [n] (modLgr (fun l => { l with dropped := 0 }) s))

def flushDone (s : State) : State :=
  match s.lgr.flush with
  | none => s
  | some f =>
    if s.lgr.buffer.any (fun r => f.all || seqBelow r.seq f.below) then s
    else
      let s1 := modLgr (fun l => { l with flush := none, flushAt := s.time.now, flushSt := st64 s }) s
      let s2 := reportDropped (f.owed.foldl (fun x c => respond 0x0686 c ⟨.ok, 0, []⟩ x) (setFlag R.LGR_INT_STAT 0 (bump R.LGR_CNT_FLUSH s1)))
      match f.again with
      | some owed => flushStart false owed s2
      | none => s2

/-- Everything buffered is written now, as on W1 and on entry to HIBERNATE. -/
def flushNow (s : State) : State := flushDone (flushRun [] (flushStart true [] s))

/-- period_s after the end of the last flush. -/
def execLedgerFlushPeriod (t : Nat) (s : State) : Out :=
  let s1 := advance t s
  if s1.lgr.run = true ∧ flushAllowed s1 = true ∧ s1.lgr.freeze.isNone = true ∧ s1.lgr.flush.isNone = true ∧
      s1.lgr.flushAt + bits (reg s1 R.LGR_FLUSH_CFG) 7 0 * 1000000000 ≤ s1.time.now then .next (flushStart false [] s1)
  else .next s1

/-! Events (R656, R661, R662). -/

/-- An event is recorded, or suppressed for want of a token. -/
def recordEvent (code : Nat) (fields : List Int) (s : State) : State :=
  let i := trackerOf code
  let x := credit s.time.now (tracker s i)
  if x.rate ≠ 0 ∧ x.tokens = 0 then bump R.LGR_CNT_SUPP (setTracker i { x with supp := x.supp + 1 } s)
  else
    let s1 := if x.rate = 0 then s else setTracker i { x with tokens := x.tokens - 1 } s
    let s2 := putEvent code fields (summarize i s1)
    if flushAllowed s2 ∧ (trackerFlush i ∨ (768 ≤ s2.lgr.buffer.length ∧ s2.lgr.freeze.isNone = true)) then flushStart false [] s2 else s2

/-- The oldest event offered and not yet judged. -/
def recordOffer (s : State) : State :=
  match s.teller.ledgerOffers with
  | (code, _, fields) :: r =>
    if s.lgr.run then recordEvent code fields { s with teller := { s.teller with ledgerOffers := r } } else s
  | [] => s

def execLedgerRecordOffer (t : Nat) (s : State) : Out := .next (recordOffer (advance t s))

/-- Every event offered is judged now. -/
def recordAll (fuel : Nat) (s : State) : State :=
  match fuel with
  | 0 => s
  | n + 1 => if s.teller.ledgerOffers = [] ∨ s.lgr.run = false then s else recordAll n (recordOffer s)

/-! Freeze (R666). -/

/-- The overflow of the side buffer, recorded at the end of a freeze. -/
def reportSide (n : Nat) (s : State) : State := if n = 0 then s else lossNotice 1 n (putEvent 0x0003 [n] s)

/-- W1 ends a freeze: the flush that follows writes the buffer and then the side records. -/
def thawSag (s : State) : State :=
  if s.lgr.freeze.isNone then s
  else reportSide s.lgr.sideDropped (setFlag R.LGR_INT_STAT 2 (modLgr (fun l => { l with freeze := none, sideDropped := 0 }) s))

/-- A buffer that the side records have filled to 768 is flushed, and room lets dropped records be told (R659, R660). -/
def thawed (s : State) : State :=
  let s1 := reportDropped s
  if flushAllowed s1 ∧ 768 ≤ s1.lgr.buffer.length then flushStart false [] s1 else s1

/-- The freeze ends: side records join the buffer in seq order, an overflow is recorded. -/
def thaw (s : State) : State :=
  match s.lgr.freeze with
  | none => s
  | some _ =>
    let room := 1024 - s.lgr.buffer.length
    let excess := s.lgr.side.length - room
    let n := s.lgr.sideDropped
    let s1 := bumpBy R.LGR_CNT_LOST excess (setFlag R.LGR_INT_STAT 2 (modLgr (fun l => { l with
      freeze := none, buffer := l.buffer ++ l.side.take room, side := [], sideDropped := 0, dropped := l.dropped + excess }) s))
    thawed (reportSide n s1)

def execFreezeTimeout (t : Nat) (s : State) : Out :=
  let s1 := advance t s
  match s1.lgr.freeze with
  | some f => if f.till ≤ s1.time.now then .next (thaw s1) else .next s1
  | none => .next s1

/-- A session closes or resets: its freeze ends, and it is owed no answer. -/
def lgrGone (i : Fin 5) (s : State) : State :=
  let s1 := match s.lgr.freeze with
    | some f => if f.session = i then thaw s else s
    | none => s
  let mine (l : List Call) : List Call := l.filter (fun c => c.session != i)
  modLgr (fun l => { l with flush := l.flush.map (fun f => { f with owed := mine f.owed, again := f.again.map mine }) }) s1

def execLedgerFreeze (c : Call) (action : Nat) (limit : Nat) (s : State) : Out :=
  command 0x0682 c s fun s =>
    if 1 < action ∨ 60 < limit then refuse .invalidParameter s
    else if (s.lgr.freeze.map Freeze.session).getD c.session ≠ c.session then refuse .busy s
    else if action = 0 then accept (thaw s)
    else accept (modLgr (fun l => { l with freeze := some ⟨c.session, s.time.now + (if limit = 0 then 10 else limit) * 1000000000⟩ }) s)

/-! Reading (R667). -/

/-- Distance of a seq above the floor; those below it are not history. -/
def aboveFloor (s : State) (r : LgrRec) : Bool := !seqBelow r.seq (reg s R.LGR_FLOOR)

def insertSeq (r : LgrRec) (l : List LgrRec) : List LgrRec :=
  match l with
  | [] => [r]
  | y :: t => if seqBelow y.seq r.seq then y :: insertSeq r t else r :: y :: t

def slotRecord (x : LgrSlot) : Option LgrRec :=
  match x with
  | .record r => some r
  | .bad => none

/-- Records of the ring of the flash, and of the clear log. -/
def ringRecords (s : State) : List LgrRec := (s.lgr.slots.filter (fun e => decide (2048 ≤ e.1))).filterMap (fun e => slotRecord e.2)
def clearRecords (s : State) : List LgrRec := (s.lgr.slots.filter (fun e => decide (e.1 < 2048))).filterMap (fun e => slotRecord e.2)

/-- The history: every record kept at or above the floor, in seq order. -/
def history (s : State) : List LgrRec :=
  (((ringRecords s ++ s.lgr.buffer ++ s.lgr.side).filter (aboveFloor s)).foldl (fun l r => insertSeq r l) [])

def oldestSeq (s : State) : Nat := (((history s).head?.map (fun r => r.seq.toNat))).getD 0

def recFields (r : LgrRec) : List Int :=
  [r.time, r.seq.toNat, r.code, r.flags, r.ext] ++ r.data.map (fun b => (b.toNat : Int)) ++ [((recCheck r).toNat : Int)]

def execLedgerRead (c : Call) (first : Word) (count : Nat) (s : State) : Out :=
  command 0x0681 c s fun s =>
    if count < 1 ∨ 128 < count then refuse .invalidParameter s
    else
      let rs := ((history s).filter (fun r => !seqBelow r.seq first)).take count
      answer (16 + 32 * rs.length) ([(oldestSeq s : Int), regN s R.LGR_NEXT_SEQ, regN s R.LGR_FLOOR, rs.length, bNat s.lgr.freeze.isSome] ++
        rs.flatMap recFields) s

def execLedgerStatusGet (c : Call) (s : State) : Out :=
  command 0x0680 c s fun s =>
    answer 48 [regN s R.LGR_NEXT_SEQ, oldestSeq s, regN s R.LGR_FLOOR, s.lgr.buffer.length, s.lgr.side.length,
      bNat s.lgr.freeze.isSome + 2 * bNat s.lgr.flush.isSome + 4 * bNat s.lgr.fault, regN s R.LGR_CNT_LOST, regN s R.LGR_CNT_SIDE_OVF,
      regN s R.LGR_CNT_SUPP, regN s R.LGR_CLEARS, s.lgr.flushSt, s.lgr.clearSt] s

/-! Authorized clear (R668, R669). -/

def execLedgerChallenge (c : Call) (s : State) : Out :=
  command 0x0683 c s fun s =>
    if s.vlt.error then unauth s
    else
      let n := drawn s
      answer 24 [n, regN s R.LGR_CLEARS + 1, 60] (draw (drbgRequest <| modLgr (fun l => { l with nonce := some (n, s.time.now) }) s))

/-- The nonce of a token is the one in force. -/
def nonceOk (s : State) (n : Int) : Bool :=
  match s.lgr.nonce with
  | some (x, t) => decide (x = n) && decide (s.time.now ≤ t + 60000000000)
  | none => false

/-- The clear, in the order of R669. -/
def applyClear (slot : Nat) (s : State) : State :=
  let floor := reg s R.LGR_NEXT_SEQ
  let gone := (history s).length
  let n := regN s R.LGR_CLEARS + 1
  let (time, rtc) := recordTime s 0x0001 []
  let r : LgrRec := ⟨time, floor, 0x0001, bNat rtc, 0, payloadBytes 0x0001 [floor.toNat, gone, n, slot]⟩
  let free := (List.range 2048).find? (fun i => (aFind s.lgr.slots i).isNone)
  let s1 := modLgr (fun l => { l with
    slots := aPut l.slots (free.getD 0) (.record r), buffer := l.buffer.filter (fun x => !seqBelow x.seq floor), nonce := none, clearSt := st64 s })
    (setReg R.LGR_CLEARS (BitVec.ofNat 32 n) (setReg R.LGR_FLOOR floor s))
  notify 0x8480 24 [n, slot, floor.toNat, gone, st64 s1] (setFlag R.LGR_INT_STAT 3 s1)

/-- Events offered before the clear are judged before it, so that LEDGER_CLEARED is the first record above the floor. -/
def execLedgerClear (c : Call) (token : ClearToken) (s : State) : Out :=
  command 0x0684 c s fun s =>
    if s.lgr.freeze.isSome then refuse .busy s
    else if 2048 ≤ (s.lgr.slots.filter (fun e => decide (e.1 < 2048))).length then refuse .resourceExhausted s
    else if token.magicOk = false ∨ token.number ≠ regN s R.LGR_CLEARS + 1 ∨ token.serialOk = false ∨ nonceOk s token.nonce = false then unauth s
    else if trailerOk s 4 token.trailer = false then sigFail s
    else accept (applyClear token.trailer.slot (recordAll s.teller.ledgerOffers.length s))

/-! Limits and flush on command (R660, R662). -/

def execLedgerLimitSet (c : Call) (code : Nat) (r : Nat) (b : Nat) (s : State) : Out :=
  command 0x0685 c s fun s =>
    if isExempt code ∨ 255 < r ∨ b < 1 ∨ 255 < b then refuse .invalidParameter s
    else
      let i := trackerOf code
      let x := credit s.time.now (tracker s i)
      accept (setTracker i { x with rate := r, burst := b, tokens := min b x.tokens, since := s.time.now, gained := 0 } s)

/-- PENDING until the flush ends; with nothing to flush to, NOT_READY. -/
def execLedgerFlush (c : Call) (s : State) : Out :=
  command 0x0686 c s fun s =>
    if s.lgr.fault ∨ s.lgr.run = false then refuse .notReady s
    else (flushStart false [c] s, ⟨.pending, 0, []⟩)

/-! Boot scan (R664). -/

/-- Channel 45 has checked the slots one after another and shows the last record it read (R664). -/
def scanRun (s : State) : State :=
  match (s.lgr.slots.filterMap (fun e => slotRecord e.2)).getLast? with
  | some r => chkRun 45 (recBytes r) s
  | none => s

/-- The whole area is read, and what trackers had suppressed is told before they start afresh (R661, R662): write point, next seq, floor; buffered records of resets 4 to 9 are flushed (R658). -/
def lgrScan (s : State) : State :=
  let bad := (s.lgr.slots.filter (fun e => e.2 == .bad)).length
  let ring := s.lgr.slots.filter (fun e => decide (2048 ≤ e.1))
  let top := ring.foldl (fun (m : Option (Nat × Word)) e => match slotRecord e.2, m with
    | some r, some b => if seqBelow b.2 r.seq then some (e.1, r.seq) else m
    | some r, none => some (e.1, r.seq)
    | none, _ => m) none
  let floor := (clearRecords s).foldl (fun m r => max m (field r.data 0 4)) 0
  let last := s.lgr.buffer.getLast?.map LgrRec.seq
  let seq : Word := match last, top with
    | some q, _ => q + 1
    | none, some t => t.2 + 1
    | none, none => 1
  let s1 := setReg R.LGR_CLEARS (BitVec.ofNat 32 (clearRecords s).length) (setReg R.LGR_FLOOR (BitVec.ofNat 32 floor)
    (setReg R.LGR_NEXT_SEQ seq (setReg R.LGR_CNT_BADREC (BitVec.ofNat 32 bad) (scanRun s))))
  let s2 := modLgr (fun l => { l with
    trackers := [], bootAt := s.time.now, flush := none, flushAt := s.time.now,
    write := match top with
      | some t => nextSlot t.1
      | none => 2048 })
    ((aKeys s.lgr.trackers).foldl (fun x i => summarize i x) (modLgr (fun l => { l with run := true, fault := false }) s1))
  let s3 := if bad = 0 then s2 else lossNotice 3 bad s2
  if s3.lgr.buffer = [] then s3 else flushStart false [] s3

/-- A reset that reaches PD2: a freeze ends with its session, the nonce is lost; one that reaches PD1 loses every record not yet flushed (R658). -/
def lgrReset (pd1 : Bool) (s : State) : State :=
  let s1 := modLgr (fun l => { l with flush := none, nonce := none }) (thaw s)
  if pd1 then modLgr (fun l => { Ledger.reset with slots := l.slots, write := l.write }) s1 else s1

/-! Registers that show the Ledger (R671). -/

def viewLgr (s : State) (a : Nat) : Option Word :=
  let w (n : Nat) : Option Word := some (BitVec.ofNat 32 n)
  let i := bits (reg s R.LGR_CODE_IDX) 8 0
  match pageOff a with
  | 0x000 => w (bNat s.lgr.run + 2 * bNat s.lgr.flush.isSome + 4 * bNat s.lgr.freeze.isSome + 8 * bNat s.lgr.fault)
  | 0x004 => w (s.lgr.side.length * 65536 + s.lgr.buffer.length)
  | 0x00C => w (oldestSeq s)
  | 0x014 => w (s.lgr.write / 2048 * 65536 + s.lgr.write % 2048)
  | 0x070 => some (setBits (reg s R.LGR_CODE_IDX) 31 31 (bNat (s.lgr.run && trackerFlush i)))
  | 0x074 => w (tracker s i).supp
  | 0x078 => if s.lgr.run = false then w 0 else w (trackerCode i * 65536 + (tracker s i).rate * 256 + (tracker s i).burst)
  | _ => none

end Sys2Proof.Machine
end

