-- ==== Sys2Proof/Machine/Teller.lean ====
section
/-! DEFINITION. Teller's transports, sessions and own messages (17_teller_interface.md). -/

namespace Sys2Proof.Machine

def modTeller (f : Teller → Teller) (s : State) : State := { s with teller := f s.teller }

/-! Sessions (R550, R556, R559, R579). -/

/-- A notice for one session; like every notice it goes to the Ledger (R566). -/
def notifyOne (code len : Nat) (fields : List Int) (i : Fin 5) (s : State) : State :=
  let s1 := notifyTo ⟨0, code, noticeClass code, st64 s, len, fields⟩ s i
  modTeller (fun x => { x with ledgerOffers := x.ledgerOffers ++ [(code, st64 s, fields)] }) s1

/-- TELLER_STARTED (R578, R579). -/
def tellerStarted (i : Fin 5) (s : State) : State :=
  notifyOne 0x8000 16 [0x31, modeCode s.power.mode, s.teller.startCause, firmwareVersion s, st64 s] i s

/-- Once room returns, the losses of a session are reported (R566). -/
def lostNotice (i : Fin 5) (s : State) : State :=
  let x := sess s i
  if x.isOpen = false ∨ x.lost = 0 ∨ 1024 ≤ x.queue.length then s
  else notifyOne 0x8001 16 [x.lost, x.lostCode, x.lostStamp] i (modSess i (fun x => { x with lost := 0 }) s)

/-- Responses that waited are written while the response ring has room (R555). -/
def respWaiting (l : List Resp) (s : State) : State :=
  match l with
  | [] => modSess 0 (fun x => { x with rspWait := [] }) s
  | r :: t => if msgUnits r.len ≤ rspRoom s.teller.rings then respWaiting t (ringResp r s) else modSess 0 (fun x => { x with rspWait := r :: t }) s

/-- Final responses still owed to a session are dropped wherever they wait, and its open commit and its freeze of the Ledger end (R556, R559,
R666). -/
def sessionGone (i : Fin 5) (s : State) : State :=
  let s1 := rdmDropOwed i (laneDropOwed i (lgrGone i s))
  { s1 with
    teller := { s1.teller with
      openCommit := match s1.teller.openCommit with
        | some o => if o.owner = i then none else some o
        | none => none
      accepted := s1.teller.accepted.map (fun a => { a with owed := dropOwed i a.owed }) }
    vlt := { s1.vlt with write := s1.vlt.write.map (fun w => { w with owed := dropOwed i w.owed }) }
    cal := { s1.cal with pass := s1.cal.pass.map (fun p => { p with owed := dropOwed i p.owed }) }
    power := { s1.power with change := s1.power.change.map (fun c => { c with owed := dropOwed i c.owed }) } }

/-- A session that closes: nothing of it remains (R559). -/
def sessionClose (i : Fin 5) (s : State) : State :=
  if (sess s i).isOpen = false then modSess i (fun _ => Session.closed) s
  else modSess i (fun _ => Session.closed) (sessionGone i s)

/-- A session that is reset, but for its rings: steps 2 to 5 of R556. -/
def sessionClear (i : Fin 5) (s : State) : State :=
  let n := (sess s i).queue.length
  let s1 := modSess i (fun x => { x with
    last := none, cache := [], outstanding := none, queue := [], ntcNext := 1 }) (sessionGone i s)
  if n = 0 then s1 else setFlag R.TLR_INT_STAT 3 (bumpBy R.TLR_CNT_NTC_LOST n s1)

/-- The PCIe session exists while PD13 is on and Teller runs (R550). -/
def pcieServed (s : State) : Bool := domainUp s 13 && tellerRuns s

/-- The whole of R556: rings emptied, session cleared, the end signalled, and TELLER_STARTED as the first notice. -/
def ringReset (s : State) : State :=
  let s1 := modRings (fun g => { Rings.empty with vectors := g.vectors ||| 4 }) (modSess 0 (fun x => { x with inbox := [], responses := [], notices := [], rspWait := [] }) s)
  lostNotice 0 <| tellerStarted 0 (setFlag R.HST_INT_STAT 0 (bump R.HST_CNT_RESET (sessionClear 0 s1)))

/-- The PCIe session comes into being, with empty rings and cache. -/
def pcieOpen (s : State) : State :=
  if pcieServed s && !(sess s 0).isOpen then
    let waits := s.teller.rings.resetting
    let s1 := modRings (fun _ => Rings.empty) (modSess 0 (fun _ => { Session.closed with isOpen := true }) s)
    if waits then ringReset s1 else tellerStarted 0 s1
  else s

/-- PD13 goes off, or Teller stops: the PCIe session ends with its rings. -/
def pcieClose (s : State) : State :=
  modRings (fun _ => Rings.empty) (sessionClose 0 s)

/-- Teller stops (R576, R597): every session ends, and what only Teller held is gone. -/
def tellerStop (s : State) : State :=
  let s1 := (List.finRange 5).foldl (fun s i => sessionClose i s) s
  modTeller (fun x => { x with rings := Rings.empty, openCommit := none, stages := [] }) s1

/-- Teller starts (R579): the PCIe session begins with an empty cache and its first notice is TELLER_STARTED. -/
def tellerStart (cause : Nat) (s : State) : State := pcieOpen (modTeller (fun x => { x with startCause := cause }) s)

/-! PCIe rings (R551 to R556). -/

/-- Messages of a ring not yet consumed: the newest that fill `used` units. -/
def trimRing {α : Type} (len : α → Nat) (used : Nat) (l : List α) : List α :=
  match l with
  | [] => []
  | x :: r => if used < ((x :: r).map (fun y => msgUnits (len y))).sum then trimRing len used r else x :: r

/-- A ring error (R556): intake stops, vector 2. -/
def ringError (s : State) : State :=
  setFlag R.HST_INT_STAT 1 (bump R.HST_CNT_RINGERR (setFlag R.TLR_INT_STAT 0 (bump R.TLR_CNT_BAD
    (modRings (fun g => { g with ringErr := true, vectors := g.vectors ||| 4 }) s))))

/-- CMD_DOORBELL: the host writes cmd_wr; `msgs` are the messages whose last unit it publishes (R554, R565). -/
def execCmdDoorbell (t : Nat) (wr : BitVec 16) (msgs : List Msg) (s : State) : Out :=
  let s1 := advance t s
  if domainUp s1 13 = false then .next s1
  else
    let moved := (wr - s1.teller.rings.cmdWr).toNat
    let s2 := modRings (fun g => { g with cmdWr := wr }) s1
    if 32768 < moved then .next (ringError s2)
    else .next (modSess 0 (fun x => { x with inbox := x.inbox ++ msgs.map (fun m => (m, arrival s1)) }) s2)

/-- RING_READ_POINTER_WRITE: rsp_rd or ntc_rd moves and frees ring space (R555). -/
def execRingReadPointerWrite (t : Nat) (notices : Bool) (rd : BitVec 17) (s : State) : Out :=
  let s1 := advance t s
  if domainUp s1 13 = false then .next s1
  else if notices then
    let s2 := modRings (fun g => { g with ntcRd := rd.setWidth 16 }) s1
    let used := (s2.teller.rings.ntcWr - s2.teller.rings.ntcRd).toNat
    .next (modSess 0 (fun x => { x with notices := trimRing Notice.len used x.notices }) s2)
  else
    let s2 := modRings (fun g => { g with rspRd := rd }) s1
    let used := (s2.teller.rings.rspWr - s2.teller.rings.rspRd).toNat
    .next (respWaiting (sess s2 0).rspWait (modSess 0 (fun x => { x with responses := trimRing Resp.len used x.responses }) s2))

/-- SESSION_RESET_DOORBELL: 1 is written to ctrl.reset (R556). Where Teller does not run, the reset waits for it. -/
def execSessionResetDoorbell (t : Nat) (s : State) : Out :=
  let s1 := advance t s
  if domainUp s1 13 = false then .next s1
  else if (sess s1 0).isOpen then .next (ringReset s1)
  else .next (modRings (fun g => { g with resetting := true }) s1)

/-- NOTICE_QUEUE_DRAIN: the oldest queued notice is written once its ring has room, and losses are reported (R566). -/
def execNoticeQueueDrain (t : Nat) (s : State) : Out :=
  let s1 := advance t s
  match (sess s1 0).queue with
  | [] => .next (lostNotice 0 s1)
  | (n, _) :: r =>
    if (sess s1 0).isOpen ∧ msgUnits n.len ≤ ntcRoom s1.teller.rings then
      .next (lostNotice 0 (ringNotice n 0 (modSess 0 (fun x => { x with queue := r }) s1)))
    else .next s1

/-- PCIE_LINK_CHANGE: neither a loss of the link nor PERST_N resets the session (R550). -/
def execPcieLinkChange (t : Nat) (e : LinkEvent) (s : State) : Out :=
  let s1 := advance t s
  if domainUp s1 13 = false then .next s1
  else match e with
    | .up width speed =>
      .next (setFlag R.HST_INT_STAT 2 (modTeller (fun x => { x with linkUp := true, linkWidth := width, linkSpeed := speed }) s1))
    | .down | .perst =>
      if s1.teller.linkUp then
        .next (setFlag R.HST_INT_STAT 2 (bump R.HST_CNT_LINKDOWN (modTeller (fun x => { x with linkUp := false }) s1)))
      else .next s1

/-! Taking a command (R554, R561 to R564, R574). -/

/-- Versions Teller accepts: major 3, minor up to 1 (R561). -/
def versionOk (v : Nat) : Bool := v == 0x30 || v == 0x31

/-- A response that no cache keeps. -/
def answerOutside (i : Fin 5) (m : Msg) (st : Status) (s : State) : State :=
  writeResp i ⟨m.seq, m.code, st, false, (sess s i).last.getD 0, st64 s, 0, []⟩ s

/-- On UDP a command's ack acknowledges notices, by signed difference (R567). -/
def acknowledge (i : Fin 5) (m : Msg) (s : State) : State :=
  if i.val = 0 then s
  else lostNotice i (modSess i (fun x => { x with queue := x.queue.filter (fun q => (m.ack - BitVec.ofNat 32 q.1.seq).toInt < 0) }) s)

/-- Steps 4 to 7 of R574 on a new command; one that passes them waits to be executed. DIAG_WRITE outside its modes is refused where it is executed,
since the refusal captures its first word (R577). -/
def letIn (i : Fin 5) (m : Msg) (s : State) : State :=
  let c : Call := ⟨s.time.now, i, m.seq⟩
  let no (st : Status) : State := respond m.code c ⟨st, 0, []⟩ s
  match codeDesc m.code with
  | none => no .unknownCode
  | some d =>
    if d.cls ≠ m.cls then no .malformed
    else if codeIsRadio m.code ∧ s.part = .rk9210 then no .unsupportedFeature
    else if modeOk m.code s.power.mode = false then (if m.code = 0x0031 then s else no .wrongMode)
    else if lengthFits d m.length = false then no .malformed
    else s

/-- A message with the right check is judged by version and seq (R561, R562). -/
def judgeMessage (i : Fin 5) (m : Msg) (at_ : Arrival) (s : State) : State :=
  if versionOk m.version = false then answerOutside i m .badVersion s
  else
    let s1 := acknowledge i m s
    match judgeSeq (sess s1 i).last m.seq with
    | .new =>
      letIn i m (bump R.TLR_CNT_CMD (modSess i (fun x => { x with
        last := some m.seq, outstanding := some (m.seq, m.code), arrived := at_ }) s1))
    | .duplicate =>
      match (sess s1 i).cache.find? (fun r => r.seq == m.seq) with
      | some r => writeResp i { r with duplicate := true } (bump R.TLR_CNT_DUP s1)
      | none => answerOutside i m .seqStale (bump R.TLR_CNT_STALE s1)
    | .stale => answerOutside i m .seqStale (bump R.TLR_CNT_STALE s1)
    | .gap => answerOutside i m .seqGap (bump R.TLR_CNT_GAP s1)

/-- COMMAND_TAKE: Teller takes a session's next message once the previous command is answered and, on PCIe, the response ring has room for the
largest response (R554, R564). -/
def execCommandTake (t : Nat) (i : Fin 5) (s : State) : Out :=
  let s1 := advance t s
  let x := sess s1 i
  if tellerRuns s1 = false ∨ x.isOpen = false ∨ x.outstanding.isSome then .next s1
  else match x.inbox with
    | [] => .next s1
    | (m, at_) :: rest =>
      let taken := modSess i (fun x => { x with inbox := rest }) s1
      if i.val ≠ 0 then .next (judgeMessage i m at_ taken)
      else
        let g := s1.teller.rings
        let published := (g.cmdWr - g.cmdRd).toNat
        if g.ringErr ∨ published = 0 then .next s1
        else if msgIntact m = false then .next (ringError (tellerRun 0 (commandBytes m) s1))
        else if published < msgUnits m.length ∨ rspRoom g < msgUnits (largestResponse m.code) then .next s1
        else .next (judgeMessage i m at_ (tellerRun 0 (commandBytes m)
          (modRings (fun g => { g with cmdRd := g.cmdRd + BitVec.ofNat 16 (msgUnits m.length) }) taken)))

/-! UDP sessions (R557 to R559). -/

/-- The session that a datagram names, open or still to be confirmed. -/
def udpSession (s : State) (confirming : Bool) (ident : Nat) : Option (Fin 5) :=
  (List.finRange 5).find? (fun (i : Fin 5) =>
    i.val != 0 && (sess s i).ident == ident && (if confirming then (sess s i).confirming else (sess s i).isOpen))

/-- A datagram dropped under R559. -/
def dropDatagram (s : State) : State := setFlag R.TLR_INT_STAT 1 (bump R.TLR_CNT_AUTH s)

/-- The session that a hello takes: the first that neither is open nor waits for its confirm, else the first that waits. -/
def helloSlot (s : State) : Option (Fin 5) :=
  match (List.finRange 5).find? (fun (i : Fin 5) => i.val != 0 && !(sess s i).isOpen && !(sess s i).confirming) with
  | some i => some i
  | none => (List.finRange 5).find? (fun (i : Fin 5) => i.val != 0 && !(sess s i).isOpen)

/-- Management keys by identifier: class 2 in the high byte (R632). -/
def mgmtKey (s : State) (ident : Nat) : Bool := ident / 256 == 2 && slotUsable s 2 (ident % 256)

def udpHello (d : Datagram) (s : State) : State :=
  if s.vlt.error ∨ mgmtKey s d.keyId = false then s
  else match helloSlot s with
    | none => s
    | some i =>
      drbgRequest <| modTeller (fun x => { x with nextIdent := x.nextIdent + 1 })
        (modSess i (fun _ => { Session.closed with ident := s.teller.nextIdent, key := d.keyId, port := d.dstPort, confirming := true }) s)

def udpConfirm (d : Datagram) (s : State) : State :=
  match udpSession s true d.session with
  | none => dropDatagram s
  | some i =>
    if d.tagOk = false ∨ d.counter ≠ 0 then dropDatagram s
    else tellerStarted i (modSess i (fun x => { x with isOpen := true, confirming := false, rxSeen := [0], lastValid := s.time.now }) s)

/-- The counter is above the highest accepted minus 64 and was not accepted before (R559). -/
def counterOk (x : Session) (n : Nat) : Bool := decide (x.rxHigh < n + 64) && !x.rxSeen.contains n

def counterTake (n : Nat) (now : Nat) (x : Session) : Session :=
  let high := max x.rxHigh n
  { x with rxHigh := high, rxSeen := (n :: x.rxSeen).filter (fun k => high < k + 64), lastValid := now }

/-- A fragment joins its message, unless 50 ms have passed since that message's first one; the last one to arrive completes it (R557, R559). -/
def udpFragment (i : Fin 5) (d : Datagram) (s : State) : State :=
  let fresh := (sess s i).assembling.filter (fun a => decide (s.time.now < a.since + 50000000))
  let a : Assembly := (fresh.find? (fun a => a.message == d.message)).getD ⟨d.message, d.count, [], s.time.now⟩
  let others := fresh.filter (fun a => a.message != d.message)
  let got := if a.got.contains d.index then a.got else d.index :: a.got
  if got.length < a.count then modSess i (fun x => { x with assembling := { a with got := got } :: others }) s
  else
    let s1 := modSess i (fun x => { x with assembling := others }) s
    let s2 := tellerRun (takeChannel i) (commandBytes d.msg) s1
    if msgIntact d.msg then modSess i (fun x => { x with inbox := x.inbox ++ [(d.msg, arrival s)] }) s2
    else setFlag R.TLR_INT_STAT 0 (bump R.TLR_CNT_BAD s2)

/-- Data and close: the tag, then the counter (R559). -/
def udpData (d : Datagram) (s : State) : State :=
  match udpSession s false d.session with
  | none => dropDatagram s
  | some i =>
    if d.tagOk = false ∨ counterOk (sess s i) d.counter = false then dropDatagram s
    else if 4294967296 ≤ d.counter then sessionClose i s
    else
      let s1 := modSess i (counterTake d.counter s.time.now) s
      if d.type = 5 then sessionClose i s1
      else if d.count < 1 ∨ 94 < d.count ∨ d.count ≤ d.index then s1
      else udpFragment i d s1

/-- Teller listens at the recorded address (R557): for hellos at the port of TLR_UDP, for a session's datagrams at the port it was opened at (R580). -/
def listens (s : State) (d : Datagram) : Bool :=
  ((provOf s).map (fun p => p.2.ip)) == some d.dstIp &&
    (if d.type = 1 then d.dstPort == bits (reg s R.TLR_UDP) 15 0
     else match (udpSession s true d.session).or (udpSession s false d.session) with
      | some i => d.dstPort == (sess s i).port
      | none => d.dstPort == bits (reg s R.TLR_UDP) 15 0)

/-- UDP_DATAGRAM_RECEIVED (R557 to R559). Datagrams that go elsewhere, datagrams without the magic and version of R557, and of a type that the host never sends, are no
datagrams of Teller. -/
def execUdpDatagramReceived (t : Nat) (d : Datagram) (s : State) : Out :=
  let s1 := advance t s
  if tellerRuns s1 = false ∨ d.headOk = false ∨ listens s1 d = false then .next s1
  else match d.type with
    | 1 => .next (udpHello d s1)
    | 3 => .next (udpConfirm d s1)
    | 4 | 5 => .next (udpData d s1)
    | _ => .next s1

/-- SESSION_IDLE_TIMEOUT: a session without a valid datagram for 30 s, or whose counter is spent, closes (R559). -/
def execSessionIdleTimeout (t : Nat) (i : Fin 5) (s : State) : Out :=
  let s1 := advance t s
  let x := sess s1 i
  if i.val ≠ 0 ∧ x.isOpen ∧ (x.lastValid + 30000000000 ≤ s1.time.now ∨ udpSpent x) then .next (sessionClose i s1) else .next s1

/-- FRAGMENT_TIMEOUT: messages incomplete 50 ms after their first fragment are discarded (R559). -/
def execFragmentTimeout (t : Nat) (s : State) : Out :=
  let s1 := advance t s
  .next ((List.finRange 5).foldl (fun s (i : Fin 5) => modSess i (fun x => { x with
    assembling := x.assembling.filter (fun a => s1.time.now < a.since + 50000000) }) s) s1)

/-- Notices of a session sent 100 ms ago or more go out again (R566). -/
def resendNotices (s : State) (i : Fin 5) : State :=
  let x := sess s i
  if i.val = 0 ∨ x.isOpen = false then s
  else
    let old (q : Notice × Nat) : Bool := decide (q.2 + 100000000 ≤ s.time.now)
    let again := (x.queue.filter old).map Prod.fst
    let s1 := modSess i (fun x => again.foldl (fun y n =>
      let z := udpCount n.len y
      if udpSpent z then z else { z with notices := z.notices ++ [n] })
      { x with queue := x.queue.map (fun q => if old q then (q.1, s.time.now) else q) }) s
    lostNotice i s1

/-- NOTICE_RESEND (R566). -/
def execNoticeResend (t : Nat) (s : State) : Out :=
  .next ((List.finRange 5).foldl resendNotices (advance t s))

/-! Class 0 (R578). -/

/-- Base MAC address of the provisioning record in force; 0 where there is none (log entry 25). -/
def baseMac (s : State) : Nat := ((provOf s).map (fun p => p.2.mac)).getD 0

def execIdentify (c : Call) (s : State) : Out :=
  command 0x0001 c s fun s =>
    answer 64 ([(identOf s.part : Int), firmwareVersion s, 0x31, modeCode s.power.mode, (bootOf s).active, bNat (approved s)] ++
      (List.range 16).map (fun i => ((Config.serial i % 256 : Nat) : Int)) ++
      [(baseMac s : Int), ((s.time.now - s.teller.resetAt) / 1000000) % 4294967296, st64 s, secCode s.vlt.state]) s

def execEcho (c : Call) (bytes : List (BitVec 8)) (s : State) : Out :=
  command 0x0002 c s fun s => answer bytes.length (bytes.map (fun b => (b.toNat : Int))) s

def execNoticeMask (c : Call) (mask : Word) (s : State) : Out :=
  command 0x0003 c s fun s => accept (modSess c.session (fun x => { x with mask := mask }) s)

/-- SESSION_RESET: its response is the last the old baseline sees (R578); TELLER_STARTED follows (R579). -/
def execSessionReset (c : Call) (s : State) : Out :=
  let s1 := advance c.t s
  if tellerRuns s1 = false ∨ (sess s1 c.session).isOpen = false then .next s1
  else .next (lostNotice c.session <| tellerStarted c.session (sessionClear c.session (respond 0x0004 c ⟨.ok, 0, []⟩ s1)))

/-- STAGE_DROP (R573, R578). -/
def execStageDrop (c : Call) (id : Nat) (s : State) : Out :=
  command 0x0013 c s fun s =>
    if s.teller.stages.any (fun g => g.id == id) then
      accept (modTeller (fun x => { x with stages := x.stages.filter (fun g => g.id != id) }) s)
    else refuse .notFound s

/-- Registers that show TLR and HST (R580, R581). -/
def viewTlr (s : State) (a : Nat) : Option Word :=
  let w (n : Nat) : Option Word := some (BitVec.ofNat 32 n)
  let g := s.teller.rings
  if a = R.TLR_LAST_TAG_LO then some (loWord s.teller.lastTag)
  else if a = R.TLR_LAST_TAG_HI then some (hiWord s.teller.lastTag)
  else if a = R.TLR_FORCE_TAG_LO then some (loWord s.teller.forceTag)
  else if a = R.TLR_FORCE_TAG_HI then some (hiWord s.teller.forceTag)
  else if a = R.TLR_CTRL then w (bNat (tellerRuns s) + 2 * bNat s.teller.openCommit.isSome + 4 * bNat (approved s))
  else if a = R.TLR_VERSION then w (firmwareVersion s / 256 % 16777216 * 256 + 0x31)
  else if a = R.TLR_SESS then
    w (((List.finRange 5).map (fun (i : Fin 5) => bNat (sess s i).isOpen * 2 ^ i.val)).sum + 256 * s.teller.accepted.length +
      8192 * ((s.teller.openCommit.map (fun o => o.owner.val)).getD 7))
  else if a = R.TLR_STAGES then w s.teller.stages.length
  else if a = R.HST_CTRL then w (bNat (sess s 0).isOpen + 2 * bNat g.ringErr)
  else if a = R.HST_LINK then w (bNat s.teller.linkUp + 2 * (s.teller.linkSpeed % 8) + 16 * (s.teller.linkWidth % 16))
  else if a = R.HST_ID then w (0x1F8A0000 + (match s.part with | .rk9200 => 0x9200 | .rk9210 => 0x9210))
  else if a = R.HST_CMD_PTR then w (g.cmdWr.toNat + 65536 * g.cmdRd.toNat)
  else if a = R.HST_RSP_WR then w g.rspWr.toNat
  else if a = R.HST_RSP_RD then w g.rspRd.toNat
  else if a = R.HST_NTC_PTR then w (g.ntcWr.toNat + 65536 * g.ntcRd.toNat)
  else none

end Sys2Proof.Machine
end

