-- ==== Sys2Proof/Machine/Domains.lean ====
section
/-! DEFINITION. Power domains (R587 to R590): which are in use, the steps HKC takes one at a time, and what the blocks of a domain lose and
start afresh. -/

namespace Sys2Proof.Machine

def modPower (f : Power → Power) (s : State) : State := { s with power := f s.power }

def domOf (s : State) (d : Nat) : Dom := vGet s.power.domains d (Dom.reset .off)

def modDom (d : Nat) (f : Dom → Dom) (s : State) : State := modPower (fun p => { p with domains := vMod p.domains d f }) s

/-- The state codes of R589 and R603. -/
def domCode (x : DomState) : Nat :=
  match x with
  | .on => 0 | .gated => 1 | .retain => 2 | .off => 3 | .goingUp => 4 | .goingDown => 5

/-! The configuration written to the blocks (R231, R293, R697). -/

/-- The pages whose registers a fixture-map copy brings into force (R293), and those of inputs, compositor and raster (R40). -/
def copyPagesB : List Nat := [0x18, 0x20, 0x24, 0x28, 0x2C, 0x40, 0x44]
def copyPagesA : List Nat := [0x08, 0x10, 0x14]

/-- The VIN shadows of a whole configuration (R211). -/
def vinShadows (r : Cfg) (s : State) : State :=
  let s1 := r.inputs.foldl (fun x e => vinShadow (.inputSet e.2) x) s
  let s2 := r.generators.foldl (fun x e => vinShadow (.generatorSet e.2) x) s1
  r.binds.foldl (fun x e => vinShadow (.layerBind e.2) x) s2

/-- The zone words of FXM, and where the tile table and the calibration records lie (R304, R334, R364). -/
def zoneShadows (r : Cfg) (s : State) : State :=
  setReg64 R.PHO_CAL_BASE_LO (Config.calBase s.alm.poolMib * 65536 : Nat) <| setReg64 (R.MAP_TILE_BASE_LO 0) (Config.tileBase (zonesOn r) * 65536 : Nat) <| r.zones.foldl (fun x e => setReg (R.FXM_Zz_CFG e.1) (zoneWord e.2) x) s

/-- A register of the map cluster, which either half shows (R334). -/
def clusterReg (a : Nat) : Bool := pageOf a == 0x20 && (mapEngineReg a).isNone

/-- Registers that Teller writes outside commits and writes again when their domain comes back (log entry 29): ports, pair, radio globals, zone
temperatures, spare preference; the wake detector keeps the management port's address (R459). -/
def tellerKeeps (a : Nat) : Bool :=
  (decide (0x30 ≤ pageOf a) && decide (pageOf a ≤ 0x3A) && [0x00, 0x04, 0x0C, 0x10, 0x14, 0x20, 0x28].contains (pageOff a)) ||
    [R.ESC_CFG, R.ESC_LEASE, R.ESC_HELD, R.RAD_CUE_LEAD, R.RAD_REFRESH, R.RAD_REPEAT, R.MAP_SPARE_PREF 0, R.RAD_Xn_TRIM 0,
     R.RAD_Xn_TRIM 1].contains a ||
    (decide (R.ESC_Gg_SEQ 0 ≤ a) && decide (a ≤ R.ESC_Gg_SEQ 15)) || (decide (R.PHO_ZTEMPz 0 ≤ a) && decide (a ≤ R.PHO_ZTEMPz 255))

/-- A register of a domain is lost with it; the cluster's stay while one half is up (R334, R589). -/
def lostWith (s : State) (d a : Nat) : Bool :=
  if tellerKeeps a then false
  else if clusterReg a then (d == 5 && !domainUp s 6) || (d == 6 && !domainUp s 5)
  else domainOf a == d

def loseRegs (d : Nat) (s : State) : State :=
  let keep (m : SMap Word) : SMap Word := m.filter (fun c => !lostWith s d c.1)
  { s with regs := { s.regs with cells := keep s.regs.cells, inForce := keep s.regs.inForce, latched := keep s.regs.latched } }

/-- Registers of a domain that is off hold nothing (R35). -/
def dropOff (s : State) : State := (List.range 14).foldl (fun x d => if domainUp x d then x else loseRegs d x) s

/-- Every shadow of the configuration in force is written and in force (R697). -/
def writeShadows (s : State) : State :=
  let c := cmpInForce s.teller.forceTag (cmpWrite (List.range 16) true s.cfgA (vinShadows s.cfgA s))
  let m := modRas (fun x => { x with activeTag := BitVec.ofInt 32 s.teller.forceTag }) (rasWrite s.cfgA c)
  let b := dmxShadow s.cfgB (lneShadow s.cfgB (zoneShadows s.cfgB m))
  let r := if s.part = .rk9200 then s.cfgB.radios.foldl (fun x e => radioShadow e.1 e.2 x) b else b
  copyShadows (copyPagesA ++ copyPagesB) (dropOff r)

/-- Of `t`, the registers of domain `d`; of `s`, all others. -/
def takeDomain (d : Nat) (s t : State) : State :=
  let pick (a b : SMap Word) : SMap Word := (b.filter (fun c => domainOf c.1 == d)).foldl (fun m c => aPut m c.1 c.2) (a.filter (fun c => domainOf c.1 != d))
  { s with regs := { s.regs with cells := pick s.regs.cells t.regs.cells, inForce := pick s.regs.inForce t.regs.inForce } }

/-! Domains in use (R582, R588). -/

/-- Ports of PD8, PD9 and PD10. -/
def domainPorts (d : Nat) : List Nat :=
  match d with
  | 8 => [0, 1, 2, 3]
  | 9 => [4, 5, 6, 7]
  | 10 => [8, 9]
  | _ => []

/-- A port that MAC_PORT_SET enabled, that a flow of the configuration uses, or that the pair uses. -/
def portWanted (s : State) (r : Cfg) (p : Nat) : Bool :=
  bitOf (reg s (R.MAC_CTRL p)) 0 || (flowsOn r).any (fun e => e.2.port == p) ||
    (pairOn s && (p == bits (reg s R.ESC_CFG) 19 16 || p == bits (reg s R.ESC_CFG) 23 20))

/-- The domains of the blocks that a configuration enables, in a mode in which show time runs (R308, R588). -/
def cfgDomains (s : State) (r : Cfg) (d : Nat) : Bool :=
  match d with
  | 4 => liveFixtures r != [] || r.canvas.width != 0 || r.canvas.height != 0
  | 5 => liveFixtures r != []
  | 6 => !s.map.released
  | 7 => true
  | 8 | 9 => (domainPorts d).any (portWanted s r)
  | 10 => (domainPorts d).any (portWanted s r) || r.inputs.any (fun e => nBit e.2.flags 0) ||
      ((r.monitor.map (fun p => p.format != 0)).getD false)
  | 11 => r.lanes.any (fun e => nBit e.2.flags 0) || r.dmx.any (fun e => e.2.mode != 0)
  | 12 => s.part == .rk9200 && r.radios.any (fun e => nBit e.2.flags 0)
  | _ => false

/-- The mode whose domains are wanted: the one being entered once the change has begun. -/
def wantedMode (s : State) : Mode :=
  match s.power.change with
  | some c => if c.begun then c.to_ else s.power.mode
  | none => s.power.mode

def sleeps (m : Mode) : Bool := m == .listen || m == .hibernate

/-- The domain is in use (R588). -/
def domInUse (s : State) (d : Nat) : Bool :=
  let m := wantedMode s
  if d ≤ 1 then true
  else if sleeps m then false
  else if d ≤ 3 ∨ d = 13 then true
  else if d = 12 ∧ s.part = .rk9210 then false
  else if m = .soak then true
  else if modeRuns m then
    cfgDomains s s.record d || cfgDomains s s.cfgA d || cfgDomains s s.cfgB d || s.teller.accepted.any (fun a => cfgDomains s a.cfg d) ||
      ((m == .diagnose || m == .calibrate) && (domOf s d).held)
  else false

/-- Up time of R587 in µs. -/
def upTime (d : Nat) : Nat :=
  match d with
  | 2 | 12 => 2000
  | 3 => 20000
  | 4 | 5 | 6 | 7 | 11 => 500
  | _ => 1000

/-- The state a domain is to take (R588, R589): a domain that is not in use the deepest state within its tolerance; PD12 of the RK9210 stays off (R8). -/
def domGoal (s : State) (d : Nat) : DomState :=
  let lat := regN s (R.PWR_Dd_LAT d)
  if d = 12 ∧ s.part = .rk9210 then .off
  else if domInUse s d then .on
  else if sleeps (wantedMode s) ∨ d = 3 ∨ (wantedMode s = .recovery ∧ d ≤ 12) ∨ (s.power.shedOff ∧ d ≤ 12) ∨ upTime d ≤ lat then .off
  else if 50 ≤ lat then .retain
  else if 1 ≤ lat then .gated
  else .on

/-! What a domain loses, and what starts afresh in it. -/

/-- A DMX port goes off: the requests that Teller has for it wait for its return (DESIGN CHOICE, log entry 20). -/
def portOff (x : DmxPort) : DmxPort :=
  let waits := x.current.toList ++ x.requests
  { DmxPort.reset with requests := waits, granted := waits.length }

/-- The Almanac and the packet engines lose their work; the delays tagged, the set-up of the show and Teller's global settings stay. -/
def almOff (s : State) : State :=
  { s with
    alm := { Almanac.reset with delays := s.alm.delays, poolMib := s.alm.poolMib, leadUs := s.alm.leadUs }
    pkt := { Pkt.reset with global := s.pkt.global, code := s.pkt.code } }

/-- Lanes, intake queues and DMX ports stop. -/
def lanesOff (s : State) : State :=
  let s1 := (List.range 32).foldl (fun y l => laneOff l 0 y) s
  { s1 with fifos := Vector.replicate 18 Fifo.reset, dmx := vMap s.dmx portOff }

/-- The blocks of a domain stop as it leaves its powered states (R589, R697): ports are read before they go (R457). -/
def domainLeave (d : Nat) (s : State) : State :=
  let s1 := match d with
    | 4 => cmpOff s
    | 5 | 6 => mapDomainOff d s
    | 7 => almOff s
    | 8 | 9 | 10 =>
      let x := (domainPorts d).foldl (fun y p =>
        modPort p (fun q => { MacPort.reset with acc := q.acc, tally := Vector.replicate 24 0 }) (linkLeave p 2 .down (tallyGather y p))) s
      if d = 10 then rasStop (vinStop x) else x
    | 11 => lanesOff s
    | 12 => modRad (fun m => { m with xcvrs := vMap m.xcvrs (fun x => { Xcvr.reset with log := x.log }), entries := [], cueSent := [], cuesIn := [], relay := none }) s
    | 2 => modPort 10 (fun q => { MacPort.reset with acc := q.acc, tally := Vector.replicate 24 0 }) (linkLeave 10 2 .down (tallyGather s 10))
    | 13 => pcieClose s
    | _ => s
  loseRegs d s1

/-- The blocks of a domain that has come up: links restart (R428), lanes train (R398), the PCIe session begins (R550), and while show time runs
the configuration in force is in the registers and mapper engines take their roles (R306, R330). -/
def domainEnter (d : Nat) (s : State) : State :=
  let s1 := if s.time.running then takeDomain d s (writeShadows s) else s
  match d with
  | 5 | 6 => if s.time.running then rolesBoot [] s1 else s1
  | 8 | 9 | 10 => (domainPorts d).foldl (fun x p => portRestart p (ringsBegin p x)) s1
  | 11 => (List.range 32).foldl (fun x l => if laneOn x.cfgB l then laneTrain l 0 x else x) (assignQueues s1)
  | 2 => portRestart 10 (ringsBegin 10 s1)
  | 13 => pcieOpen s1
  | _ => s1

/-! Steps (R587, R590). -/

def stepRuns (s : State) : Bool :=
  s.power.domains.toList.any (fun x => x.state == .goingUp || x.state == .goingDown)

/-- No domain changes state while a sag is undecided (R591, R594). -/
def sagBlocks (s : State) : Bool := s.power.hold || s.power.sagFlush

/-- A domain that must leave OFF, or go to it. -/
def needsUp (s : State) (d : Nat) : Bool := domState s d == .off && domGoal s d != .off
def needsDown (s : State) (d : Nat) : Bool := domainUp s d && domGoal s d == .off

/-- The next step: a latched one first, then ups in ascending and downs in descending number. -/
def nextStep (s : State) : Option Nat :=
  let ds := List.range' 2 12
  ((ds.filter (fun d => (domOf s d).latched)).find? (fun d => needsUp s d || needsDown s d)).or
    ((ds.find? (needsUp s)).or (ds.reverse.find? (needsDown s)))

/-- A step begins: power to a domain, or its blocks stop and it goes down. -/
def stepStart (d : Nat) (s : State) : State :=
  if needsUp s d then modDom d (fun x => { x with state := .goingUp, since := s.time.now, from_ := x.state }) s
  else
    let old := domState s d
    modDom d (fun x => { x with state := .goingDown, since := s.time.now, from_ := old }) (domainLeave d s)

/-- GATED and RETAIN are entered and left without a step (R589). -/
def settleDom (s : State) (d : Nat) : State :=
  let g := domGoal s d
  if domainUp s d ∧ g ≠ .off then modDom d (fun x => { x with state := g }) s else s

/-- HKC looks at every domain and starts the next step, unless one runs, a sag is undecided or the rails are not up (R587, R591,
R675). -/
def kick (s : State) : State :=
  if sagBlocks s ∨ s.power.pwrGood = false then s
  else
    let s1 := (List.range' 2 12).foldl settleDom s
    if stepRuns s1 then s1
    else match nextStep s1 with
      | some d => stepStart d s1
      | none => s1

/-- Every domain is where it is to be. -/
def domainsReady (s : State) : Bool :=
  !stepRuns s && (List.range' 2 12).all (fun d => domState s d == domGoal s d)

/-- The time in ns that the steps up still to be made take, one after the other (R587, R590); none while a domain is going off. -/
def stepsLeft (s : State) : Option Nat :=
  let ds := List.range' 2 12
  if ds.any (fun d => domState s d == .goingDown || needsDown s d) then none
  else
    let left (d : Nat) : Nat := if domState s d == .goingUp then (domOf s d).since + upTime d * 1000 - s.time.now else upTime d * 1000
    some (((ds.filter (fun d => domState s d == .goingUp || needsUp s d)).map left).sum)

/-- DOMAIN_STATE (R602): only into or out of OFF. -/
def domainNotice (d : Nat) (s : State) : State :=
  let x := domOf s d
  notify 0x8301 16 [d, domCode x.from_, domCode x.state, bNat x.latched, min 0xFFFFFFFF ((s.time.now - x.since) / 1000), st64 s]
    (setFlag R.PWR_INT_STAT 1 s)

/-- DOMAIN_STEP_DONE: the domain reports ON or OFF; a request latched meanwhile comes next (R587, R590). -/
def stepDone (d : Nat) (s : State) : State :=
  match domState s d with
  | .goingUp =>
    let s1 := domainNotice d (bump (R.PWR_Dd_CNT d) (modDom d (fun x => { x with state := .on }) s))
    kick (modDom d (fun x => { x with latched := domGoal s1 d == .off }) (domainEnter d s1))
  | .goingDown =>
    let s1 := domainNotice d (modDom d (fun x => { x with state := .off }) s)
    kick (modDom d (fun x => { x with latched := domGoal s1 d != .off }) s1)
  | _ => s


/-- The lead that a commit needs beyond 2.0 ms for domains to come up: all but the longest, in ns (R571, R588). -/
def upLead (s : State) (r : Cfg) : Int :=
  let need := (List.range' 4 9).filter (fun d => cfgDomains s r d && !domainUp s d && !(d == 12 && s.part == .rk9210))
  ((need.map upTime).sum - need.foldl (fun m d => max m (upTime d)) 0 : Nat) * 1000

/-- PWR_DRAM_TOL: the smallest tolerance in force, in ns (R589): a master with work for the frame tolerates nothing. -/
def dramTol (s : State) : Nat :=
  let works := s.time.running && (!s.cmp.complete || (s.map.frame.map MapFrame.open_).getD false || s.alm.descriptors != [])
  if works then 0 else min (min 0xFFFFFFFF (regN s (R.PWR_Dd_LAT 3) * 1000)) s.ras.ltr

/-- DRAM enters self-refresh, counted once an entry (R589). -/
def selfRefresh (s : State) : State := if s.power.dram = 2 then s else bump R.PWR_CNT_SR (modPower (fun p => { p with dram := 2 }) s)

/-- DRAM_IDLE_ENTRY: power-down after 200 ns idle, self-refresh after 2 µs, where every tolerance allows it (R589). -/
def execDramIdleEntry (t : Nat) (idleNs : Nat) (s : State) : Out :=
  let s1 := advance t s
  let tol := dramTol s1
  if domState s1 3 ≠ .on then .next s1
  else if 2000 ≤ idleNs ∧ 8000 ≤ tol then
    .next (selfRefresh s1)
  else if 200 ≤ idleNs ∧ 100 ≤ tol ∧ s1.power.dram = 0 then .next (modPower (fun p => { p with dram := 1 }) s1)
  else .next s1

/-- DRAM is used: it is active (R589). -/
def dramWake (s : State) : State := modPower (fun p => { p with dram := 0 }) s

end Sys2Proof.Machine
end

