-- ==== Sys2Proof/Machine/Images.lean ====
section
/-! DEFINITION. Commands whose checks cross blocks: user code (R321, R486), the show object (R270, R303), a port's settings (R431). -/

namespace Sys2Proof.Machine

/-- The key of a loaded code: kernels by code, effect programs above 256. -/
def kernelKey (p : KernelLoad) : Nat := if p.kind = 1 then 256 + p.code else p.code

/-- The header's ranges (R321, R333). -/
def kernelHeaderOk (p : KernelLoad) : Bool :=
  decide (128 ≤ p.code) && decide (p.code ≤ 255) && decide (p.kind ≤ 1) && decide (1 ≤ p.tapsW) && decide (p.tapsW ≤ 8) && decide (1 ≤ p.tapsH) &&
    decide (p.tapsH ≤ 8) && decide (1 ≤ p.cost) && decide (p.cost ≤ 896) && decide (4 ≤ p.codeBytes) && decide (p.codeBytes ≤ 16384) &&
    decide (p.codeBytes % 4 = 0) && decide (p.dataBytes ≤ 8192) &&
    (if p.kind = 1 then p.tapsW == 1 && p.tapsH == 1 && p.canvasBytes == 0 && decide (p.stateBytes ≤ 64)
     else decide (16 ≤ p.canvasBytes) && decide (p.canvasBytes ≤ 128) && p.stateBytes == 0)

/-- The check value of an image: CRC-32C of its code followed by its data (R333, R489). -/
def imageCheck (code data check : Nat) (text store : List (BitVec 8)) : Bool :=
  decide (text.length = code) && decide (store.length = data) && (crc32c (text ++ store)).toNat == check

def kernelCheckOk (p : KernelLoad) : Bool := imageCheck p.codeBytes p.dataBytes p.check p.text p.store
def pktCheckOk (p : PktCodeLoad) : Bool := imageCheck p.code p.data p.check p.text p.store

/-- A refused signature is counted under R652 and answered UNAUTHORIZED. -/
def codeRefused (t : Option Trailer) (s : State) : State × Reply := if t.isSome then sigFail s else unauth s

def kernelLoad (p : KernelLoad) (s : State) : State × Reply :=
  let total (f : KernelLoad → Nat) : Nat := (s.map.kernels.map (fun k => f k.2.image)).sum + f p
  if kernelHeaderOk p = false ∨ kernelCheckOk p = false ∨ (aFind s.map.kernels (kernelKey p)).isSome then refuse .invalidParameter s
  else if 65536 < total KernelLoad.codeBytes ∨ 32768 < total KernelLoad.dataBytes then refuse .resourceExhausted s
  else if codeSigned s p.trailer = false then codeRefused p.trailer s
  else accept (modMap (fun m => { m with kernels := aPut m.kernels (kernelKey p) ⟨p, none, 0, false, 0, none⟩ }) s)

def execKernelLoad (c : Call) (p : KernelLoad) (s : State) : Out := command 0x0440 c s (kernelLoad p)

/-- PKT_CODE_LOAD: one image into all eight engines; code disabled by its faults runs again (R486). -/
def pktCodeLoad (p : PktCodeLoad) (s : State) : State × Reply :=
  if 32768 < p.code ∨ 16384 < p.data ∨ pktCheckOk p = false then refuse .invalidParameter s
  else if codeSigned s p.trailer = false then codeRefused p.trailer s
  else accept (modPkt (fun x => { x with
    code := some p
    engines := vMap x.engines (fun e => { e with userOff := false, trapped := false })
    trapK := none
    trapRun := 0 }) s)

def execPktCodeLoad (c : Call) (p : PktCodeLoad) (s : State) : Out := command 0x0485 c s (pktCodeLoad p)

/-- Attribute descriptors that an enabled attribute fixture uses. -/
def attrsUsed (r : Cfg) : Nat :=
  (r.attrs.filter (fun a => (liveFixtures r).any (fun e => e.2.kind == 2 && decide (e.2.attrRef ≤ a.1) && decide (a.1 < e.2.attrRef + e.2.channels)))).length

/-- SHOW_GET (R303): the show object in force (R270). -/
def execShowGet (c : Call) (s : State) : Out :=
  command 0x0436 c s fun s =>
    let fs := liveFixtures s.cfgB
    answer 48 [s.time.epoch, s.fxm.epoch, s.time.rateN, s.time.rateD, selTb s, secCode s.vlt.state,
      (s.cfgB.zones.filter (fun z => nBit z.2.flags 0)).length, fs.length, segmentsAll s.cfgB,
      (fs.map (fun e => fixPixels e.2)).sum, attrsUsed s.cfgB] s

/-- The port is in the Escrow role (R431, R532). -/
def escrowPort (s : State) (p : Nat) : Bool := pairOn s && escrowRole s p

/-- The flow's frames would leave by a port in the Escrow role, its own or the other of its pair (R433, R435). -/
def escrowFlow (s : State) (p : Nat) : Bool :=
  escrowPort s p || ((pairOf s (p % 4)).mode != 0 && escrowPort s (if p < 4 then p + 4 else p - 4))

/-- A port that carries an enabled flow takes no Escrow role (R435; which answer PAIR_SET then gets is a DESIGN CHOICE, log entry 23). -/
def escPortFree (s : State) (p : PairSet) : Bool :=
  !nBit p.flags 0 || !(flowsOn s.cfgB).any (fun e => e.2.port == p.escPort || ((pairOf s (p.escPort % 4)).mode != 0 && e.2.port % 4 == p.escPort % 4))

/-- A domain that a command's setting brings into use, or leaves unused, follows (R588). -/
def thenKick (p : State × Reply) : State × Reply := (kick p.1, p.2)

def execMacPortSet (c : Call) (p : MacPortSet) (s : State) : Out :=
  command 0x0470 c s (fun s => thenKick (macPortSet (escrowPort s p.port) p s))

def execMapEngineSet (c : Call) (engine : Nat) (action : Nat) (s : State) : Out :=
  command 0x0444 c s (fun s => thenKick (mapEngineSet engine action s))

def execPairSet (c : Call) (p : PairSet) (s : State) : Out :=
  command 0x04A0 c s fun s => if pairSetOk p = true ∧ escPortFree s p = true then accept (kick (pairSet p s)) else refuse .invalidParameter s

end Sys2Proof.Machine
end

