-- ==== Sys2Proof/Machine/Commit.lean ====
section
/-! DEFINITION. Commits (R569 to R573): validation, tags, stages, and the configuration coming into force. -/

namespace Sys2Proof.Machine

/-! The record (R570). -/

/-- A configuration takes a message; a later message for the same object replaces the earlier one (R568). -/
def cfgTake (r : Cfg) (m : ConfigMsg) : Cfg :=
  radRecord m (pktRecord m (lneRecord m (phoRecord m (mapRecord m (fxmRecord m (rasRecord m (cmpRecord m (vinRecord m r))))))))

def cfgDraft (r : Cfg) (msgs : List ConfigMsg) : Cfg := msgs.foldl cfgTake r

/-! Validation (R570). -/

/-- MiB, rounded up. -/
def mib (n : Nat) : Nat := ceilDiv n 1048576

/-- Store space and input writes (R198): cause, source, required, limit. -/
def vinReject (s : State) (r : Cfg) : Option (List Int) :=
  let canvas := 2 * (r.canvas.width * r.canvas.height * 8)
  let space := 29 * 1073741824 - canvas - s.alm.poolMib * 1048576
  let all := List.range 28
  match firstOver (fun i => (storeBytes r i, 1)) space (0, 1) all, firstOver (inputWrites s r) 30000000000 (0, 1) all with
  | some i, _ => some ([1, i, mib ((all.map (storeBytes r)).sum), space / 1048576].map Int.ofNat)
  | none, some i => some ([2, i, ceilDiv (allWrites s r).1 (1000000 * (allWrites s r).2), 30000].map Int.ofNat)
  | none, none => none

/-- Bytes per second of every DRAM stream of R53, as a fraction, with the canvas bytes of each fixture's kernel (R280) and the
calibration record of each surface pixel (R357). -/
def dramDemand (s : State) (r : Cfg) : Nat × Nat :=
  let n := s.time.rateN
  let d := max 1 (s.time.rateD)
  let fetch := (planCanvas r).fetch * 8
  let canvas := r.canvas.width * r.canvas.height * 8
  let pixels := ((liveFixtures r).map (fun e => fixPixels e.2 * (kernelBytes s.map e.2.kernel + (if e.2.kind = 2 then 0 else 24) + 12 + 6))).sum
  addFrac ((fetch + canvas + pixels) * n, d) (allWrites s r)

/-- Check 11 of R233: the total of R54. -/
def dramReject (s : State) (r : Cfg) : Option (List Int) :=
  let t := dramDemand s r
  if 274000000000 * t.2 < t.1 then some [0xFF, 11, 0, (ceilDiv t.1 (1000000 * t.2) : Nat), 274000] else none

def tagBlock (n : Nat) (d : Option (List Int)) : Option (Nat × List Int) := d.map (fun x => (n, x))

/-- The blocks are checked in the order of R570, and the first failure ends it: the block and its detail. -/
def validate (s : State) (draft : Cfg) (msgs : List ConfigMsg) : Option (Nat × List Int) :=
  let base := s.record
  (tagBlock 1 (vinReject s draft)).or ((tagBlock 2 ((badCanvas draft msgs).or ((cmpReject s draft).or (dramReject s draft)))).or ((tagBlock 3 (rasReject s draft)).or
    ((tagBlock 4 (fxmReject s base draft)).or ((tagBlock 5 (phoReject s base draft msgs)).or ((tagBlock 6 (lneReject s base draft)).or
      ((tagBlock 7 (strReject draft)).or ((tagBlock 8 (pktReject s (escrowFlow s) draft)).or ((tagBlock 9 (radReject s base draft)).or
        (if pairOn s then tagBlock 10 (escReject s draft) else none)))))))))

/-- The configuration that a commit's messages make of the record, with the entries that take a new epoch changed by it (R288, R295). -/
def commitDraft (s : State) (msgs : List ConfigMsg) : Cfg := (stampEpochs s.record (cfgDraft s.record msgs) msgs 0 s.fxm.epoch).1

/-! Tags (R571). -/

/-- The smallest k with F(k) ≥ x. -/
def frameFrom (s : State) (x : Int) : Int := frameBefore s (x - 1) + 1

/-- Where a commit that arrived at `arrival` and names `k` is placed: its tag, whether it is late, whether it stands behind an earlier one. -/
def placeCommit (s : State) (draft : Cfg) (flags k : Nat) (arrival : Int) : Int × Bool × Bool :=
  let n : Nat := segmentsNew s.record draft
  let lead : Int := 2000000 + ((n - 65536) * 16 : Nat) + upLead s draft
  let early := frameFrom s (arrival + lead)
  let own := if nBit flags 2 then early else max early (k : Int)
  match s.teller.tagFloor with
  | some f => if own ≤ f then (f + 1, !nBit flags 2 && decide ((k : Int) < f + 1), true) else (own, !nBit flags 2 && decide ((k : Int) < own), false)
  | none => (own, !nBit flags 2 && decide ((k : Int) < own), false)

/-- The payload of R572. -/
def commitFields (tag : Int) (result block flags stage : Nat) (detail : List Int) : List Int :=
  [tag, (result : Int), block, flags, stage] ++ detail

def commitReply (st : Status) (tag : Int) (result block flags stage : Nat) (detail : List Int) : Reply :=
  ⟨st, 32, commitFields tag result block flags stage detail⟩

/-- A delay from frame `k` on joins those of a zone, newest first. -/
def putDelay (k : Int) (d : Nat) (l : List (Int × Nat)) : List (Int × Nat) :=
  l.filter (fun e => decide (k < e.1)) ++ [(k, d)] ++ l.filter (fun e => decide (e.1 < k))

/-- Zone delays of a configuration hold from the frame `k` on (R127). -/
def takeDelays (base draft : Cfg) (k : Int) (s : State) : State :=
  let changed := draft.zones.filter (fun e => ((aFind base.zones e.1).map ZoneSet.delay) != some e.2.delay)
  modAlm (fun a => { a with
    delayShadow := changed.foldl (fun m e => aDel m e.1) a.delayShadow
    delays := changed.foldl (fun m e => aPut m e.1 (putDelay k e.2.delay (aGet m e.1 []))) a.delays }) s

/-- An accepted commit: epochs stamped, the record taken, the tag given; domains that it needs come up (R289, R570, R571, R588). -/
def commitTake (tag : Int) (flags : Nat) (stage : Nat) (msgs : List ConfigMsg) (owed : Option Call) (s : State) : State :=
  let draft := cfgDraft s.record msgs
  let f1 : Int := if s.time.running then frameAt s (tag + 1) else 0
  let (cfg, e) := stampEpochs s.record draft msgs f1 s.fxm.epoch
  let s0 := modFxm (fun m => { m with epoch := e }) s
  let s1 := if s.time.running then takeDelays s.record cfg tag s0 else s0
  dramWake (kick (modTeller (fun x => { x with
    accepted := x.accepted ++ [⟨tag, msgs, cfg, false, flags, stage, owed⟩]
    lastTag := tag
    tagFloor := if s.time.running then some tag else x.tagFloor }) { s1 with record := cfg }))

/-! Coming into force (R40, R231, R293, R697). -/

/-- Fixtures whose epoch a configuration changes (R536). -/
def epochsMoved (old new : Cfg) : List Nat :=
  (new.fixtures.filter (fun e => ((aFind old.fixtures e.1).map FixtureEntry.epoch) != some e.2.epoch)).map Prod.fst

/-- VIN follows the configuration in force, and the groups it joins or leaves are reported (R189). -/
def vinForce (old : State) (k : Int) (s : State) : State := joinReports old.vin.joined (vinConfigure old k s)

/-- The part for inputs, compositor and raster of an accepted commit, at F(k) (R40): VIN's copy is made, the others' are armed, the fixture map's too
(R231, R261, R304). -/
def forceA (k : Int) (s : State) (a : Accepted) : State :=
  let s1 := copyShadows [0x08] (a.msgs.foldl (fun x m => vinShadow m x) { s with cfgA := a.cfg })
  setReg R.FXM_COMMIT_TAG (BitVec.ofInt 32 a.tag) (vinForce s k (rasCommit a.tag (a.msgs.any setsMonitor) a.cfg (cmpCommit k a.tag s.cfgA a.cfg a.msgs s1)))

/-- Accepted commits whose tag has come take their part A at F(k). -/
def configA (k : Int) (s : State) : State :=
  let due := s.teller.accepted.filter (fun a => !a.composed && decide (a.tag ≤ k))
  modTeller (fun x => { x with accepted := x.accepted.map (fun a => if a.tag ≤ k then { a with composed := true } else a) }) (due.foldl (forceA k) s)

/-- The blocks behind the fixture-map copy whose registers a message makes Teller write again (R577): 0 FXM, 1 LNE and STR, 2 DMX. -/
def rewrites (b : Nat) (m : ConfigMsg) : Bool :=
  match m with
  | .zoneSet _ => b == 0
  | .laneSet _ => b == 1
  | .laneGlobalSet _ => b == 1
  | .strLaneSet _ => b == 1
  | .fixtureSet _ => b == 2
  | .attrSet _ => b == 2
  | .dmxPortSet _ => b == 2
  | _ => false

/-- Zone delays that a diagnostic write left in the shadows hold from frame `k` (R127, R147). -/
def shadowDelays (k : Int) (s : State) : State :=
  modAlm (fun a => { a with
    delays := a.delayShadow.foldl (fun m e => aPut m e.1 (putDelay k e.2 (aGet m e.1 []))) a.delays
    delayShadow := [] }) s

/-- What a diagnostic write left in the zone registers in force joins a configuration (R61, R304). -/
def zoneFold (s : State) (r : Cfg) : Cfg :=
  (List.range 256).foldl (fun x z =>
    let w := regF s (R.FXM_Zz_CFG z)
    if w = zoneWord { zoneOf x z with flags := (zoneOf x z).flags % 8 } then x
    else { x with zones := aPut x.zones z ⟨z, bNat (bitOf w 31) + 2 * bNat (bitOf w 30) + 4 * bNat (bitOf w 29), bits w 7 0, bits w 15 8, bits w 27 24,
      (zoneOf x z).delay⟩ }) r

/-- The shadows of the blocks behind the fixture map come into force at the copy that names frame `k`, with what diagnostic writes left in them
(R20, R61, R577). A block that is off holds none (R35). -/
def copyB (k : Int) (s : State) : State :=
  let s1 := shadowDelays k (copyShadows copyPagesB s)
  let a := zoneFold s1 s1.cfgA
  let b := zoneFold s1 s1.cfgB
  if domainUp s1 11 then { s1 with cfgA := a, cfgB := dmxFold s1 (lneFold s1 b) } else { s1 with cfgA := a, cfgB := b }

/-- Records that a commit changes are written, if its write was not begun before (R360, R361). -/
def recordsWritten (old : Cfg) (a : Accepted) (s : State) : State :=
  if s.pho.writtenTag = some a.tag then s else writeRecords a.tag (recordsChanged old.records a.cfg.records) s

/-- The rest of a commit: shadows written and copied, blocks reconfigured, records written if they were not before (R293, R359, R360). -/
def forceB (s : State) (a : Accepted) : State :=
  let old := s.cfgB
  let has (b : Nat) : Bool := a.msgs.any (rewrites b)
  let w0 : State := { s with cfgB := a.cfg }
  let w1 := if has 0 then zoneShadows a.cfg w0 else w0
  let w2 := if has 1 then lneShadow a.cfg w1 else w1
  let s1 := copyB a.tag (if has 2 then dmxShadow a.cfg w2 else w2)
  let s2 := radConfigure old (pktConfigure old (lneConfigure old a.tag s1))
  let s3 := flipBanks old a.cfg s2
  let s4 := unitsFollow (mapFollow old a.cfg (recordsWritten old a s3))
  modEsc (fun e => { e with newEpochs := epochsMoved old a.cfg }) (modFxm (fun m => { m with activeTag := BitVec.ofInt 32 a.tag }) s4)

/-- The final response of a commit in force (R572); a stage's outcome was a notice. -/
def commitDone (s : State) (a : Accepted) : State :=
  respondOwed 0x0011 a.owed (commitReply .ok a.tag 3 0 a.flags a.stageId [])
    (modTeller (fun x => { x with forceTag := a.tag, accepted := x.accepted.filter (fun b => b.tag != a.tag) }) s)

/-- A commit's records are still being written: its copy waits (R361). -/
def stillWriting (s : State) (a : Accepted) : Bool := s.pho.writtenTag == some a.tag && decide (s.time.st64 < s.pho.writingTo)

/-- The commits that a copy brings into force: the oldest once its records are written, and those behind it up to the next that changes records, whose
write has not begun (R293, R361). -/
def dueCommits (k : Int) (s : State) : List Accepted :=
  match s.teller.accepted.filter (fun a => decide (a.tag < k)) with
  | a :: r => if stillWriting s a then [] else a :: r.takeWhile (fun b => recordsChanged a.cfg.records b.cfg.records = [])
  | [] => []

/-- The fixture-map copy at F(k): every commit tagged before k, in tag order (R293); a copy after the boundary that its tag names is flagged (R304). -/
def configB (k : Int) (s : State) : State :=
  let due := dueCommits k s
  let late (a : Accepted) (x : State) : State := if a.tag + 1 < k then setFlag R.FXM_INT_STAT 0 x else x
  if due = [] then s else digestCheck (due.foldl (fun x a => commitDone (late a (forceB x a)) a) s)

/-- Before show time runs a configuration is written as a whole, to blocks that are on (R571, R572). -/
def writeNow (s : State) (a : Accepted) : State :=
  let oldB := s.cfgB
  let s0 := takeDelays oldB a.cfg 0 (modTeller (fun x => { x with forceTag := a.tag }) s)
  let s1 := writeShadows { s0 with cfgA := a.cfg, cfgB := a.cfg }
  let s2 := vinForce s s.time.fcount s1
  let s3 := radConfigure oldB (pktConfigure oldB (lneConfigure oldB a.tag s2))
  let s4 := unitsFollow (mapFollow oldB a.cfg (writeRecords a.tag (recordsChanged oldB.records a.cfg.records) (flipBanks oldB a.cfg s3)))
  commitDone (modFxm (fun m => { m with activeTag := BitVec.ofInt 32 a.tag }) s4) a

/-- Commits accepted before show time are written once their domains are on. -/
def settleEarly (s : State) : State :=
  if s.time.running = false ∧ s.teller.accepted ≠ [] ∧ domainsReady s then s.teller.accepted.foldl writeNow s else s

/-- DOMAIN_STEP_DONE (R587): the domain reports its state, the next step starts, and a commit that waited for it is written. -/
def execDomainStepDone (t : Nat) (d : Domain) (s : State) : Out := .next (settleEarly (stepDone d (advance t s)))

/-! The commands (R569, R572, R573). -/

def closeCommit (s : State) : State := modTeller (fun x => { x with openCommit := none }) s

def rejected (s : State) : State := setFlag R.TLR_INT_STAT 2 (bump R.TLR_CNT_REJECT s)

/-- What becomes of a validated commit: refused by R571, or accepted with its tag. -/
def commitPlace (flags k stage : Nat) (arrival : Int) (msgs : List ConfigMsg) (owed : Option Call) (s : State) : State × Reply :=
  let (tag, late, behind) := placeCommit s (commitDraft s msgs) flags k arrival
  let out := bNat late + 2 * bNat behind
  let refused (st : Status) : State × Reply := (s, commitReply st 0 1 0 0 stage [])
  if late = true ∧ nBit flags 1 = true then refused .tooLate
  else if 8 ≤ s.teller.accepted.length then refused .busy
  else (commitTake tag out stage msgs owed (if late then bump R.TLR_CNT_LATE s else s), commitReply .pending tag 0 0 out stage [])

/-- A stage that is turned away. -/
def commitNot (st : Status) (stage : Nat) (s : State) : State × Option Reply := (s, some (commitReply st 0 1 0 0 stage []))

def thenAnswer (r : State × Reply) : State × Option Reply := (r.1, some r.2)

/-- Before show time an accepted commit is applied at once with tag 0 (R571). Where domains are first to come up within 1.0 ms of the command's
reaching Teller, no acceptance is sent (R566, R572): the one response follows when the configuration is written. -/
def commitEarly (c : Call) (stage : Nat) (msgs : List ConfigMsg) (s : State) : State × Option Reply :=
  if 8 ≤ s.teller.accepted.length then (s, some (commitReply .busy 0 1 0 0 stage []))
  else
    let now := commitTake 0 0 stage msgs none s
    let wait := commitTake 0 0 stage msgs (some c) s
    if domainsReady now then (settleEarly now, some (commitReply .ok 0 3 0 0 stage []))
    else match stepsLeft wait with
      | some ns =>
        if (s.time.now - (sess s c.session).arrived.at_) + ns ≤ 1000000 then (wait, none)
        else (wait, some (commitReply .pending 0 0 0 0 stage []))
      | none => (wait, some (commitReply .pending 0 0 0 0 stage []))

/-- What the validation `v` of a commit's messages makes of it. -/
def commitJudged (c : Call) (p : CommitSet) (msgs : List ConfigMsg) (s : State) (v : Option (Nat × List Int)) : State × Option Reply :=
  match v with
  | some (b, d) => (rejected s, some (commitReply .rejected 0 1 b 0 p.stageId d))
  | none =>
    if nBit p.flags 0 then
      (modTeller (fun x => { x with stages := x.stages ++ [⟨p.stageId, msgs, nBit p.flags 1, nBit p.flags 2⟩] }) s,
       some (commitReply .ok 0 2 0 0 p.stageId []))
    else if s.time.running = false then commitEarly c p.stageId msgs s
    else thenAnswer (commitPlace p.flags p.k p.stageId (reachedSt c s) msgs (some c) s)

def commitRun (c : Call) (p : CommitSet) (msgs : List ConfigMsg) (s : State) : State × Option Reply :=
  if nBit p.flags 0 = true ∧ stageHeld s p.stageId then commitNot .invalidParameter p.stageId s
  else if nBit p.flags 0 = true ∧ 16 ≤ s.teller.stages.length then commitNot .resourceExhausted p.stageId s
  else commitJudged c p msgs s (validate s (commitDraft s msgs) msgs)

def execCommitOpen (c : Call) (s : State) : Out :=
  command 0x0010 c s fun s =>
    if s.teller.openCommit.isSome then refuse .busy s
    else accept (modTeller (fun x => { x with openCommit := some ⟨c.session, [], 0⟩ }) s)

def execCommitAbort (c : Call) (s : State) : Out :=
  command 0x0012 c s fun s =>
    match s.teller.openCommit with
    | some o => if o.owner = c.session then accept (closeCommit s) else refuse .noCommit s
    | none => refuse .noCommit s

/-- COMMIT: answered at once, but for an early commit whose one response is still to come. -/
def execCommit (c : Call) (p : CommitSet) (s : State) : Out :=
  commandLater 0x0011 c s fun s =>
    match s.teller.openCommit with
    | some o => if o.owner = c.session then commitRun c p o.msgs (closeCommit s) else (s, some ⟨.noCommit, 0, []⟩)
    | none => (s, some ⟨.noCommit, 0, []⟩)

/-- STAGE_RESULT (R573, R579). -/
def stageResult (stage cue : Nat) (fields : List Int) (s : State) : State := notify 0x8002 40 ([(stage : Int), cue] ++ fields) s

/-- What STAGE_RESULT says of a stage that was placed, or turned away by its tag. -/
def placedFields (stage : Nat) (p : State × Reply) : List Int :=
  match p.2.status with
  | .tooLate => commitFields 0 1 0 0 stage [0x28]
  | .busy => commitFields 0 1 0 0 stage [0x26]
  | _ => p.2.fields

def stagePlaced (stage cue : Nat) (p : State × Reply) : State := stageResult stage cue (placedFields stage p) p.1

/-- A stage taken for a cue at `at_` is placed, unless its validation found a fault. -/
def applyJudged (g : Stage) (cue : Nat) (at_ : Int) (s : State) (v : Option (Nat × List Int)) : State :=
  match v with
  | some e => stageResult g.id cue (commitFields 0 1 e.1 0 g.id e.2) (rejected s)
  | none => stagePlaced g.id cue
      (commitPlace (2 * bNat g.exact + 4 * bNat g.earliest) (frameFrom s (at_ + 2000000)).toNat g.id at_ g.msgs none s)

/-- It is validated again against the record of now. -/
def applyGroup (g : Stage) (cue : Nat) (at_ : Int) (s : State) : State :=
  applyJudged g cue at_ s (validate s (commitDraft s g.msgs) g.msgs)

/-- A cue with action 1 fires at `at_`: its stage is validated again, tagged from the frame of R144, and consumed (R573). -/
def applyStage (stage cue : Nat) (at_ : Int) (s : State) : State :=
  match s.teller.stages.find? (fun g => g.id == stage) with
  | none => stageResult stage cue (commitFields 0 4 0 0 stage []) s
  | some g =>
    applyGroup g cue at_ (modTeller (fun x => { x with stages := x.stages.filter (fun y => y.id != stage) }) s)

/-- CAL_RECORD_WRITE: the changed records of the commit tagged k are written once frame k − 1 is mapped, or its deadline has passed; those of one
commit at a time, the next once it is in force (R360, R361). -/
def recordsDue (s : State) : Option Accepted :=
  let mapped := match s.map.frame with
    | some f => !f.open_ || decide (f.deadline ≤ s.time.st64)
    | none => true
  if s.time.running = true ∧ mapped = true then
    (if s.teller.accepted.any (fun a => s.pho.writtenTag == some a.tag) then none else s.teller.accepted.find? (fun a => decide (a.tag ≤ s.time.fcount)))
  else none

def execCalRecordWrite (t : Nat) (s : State) : Out :=
  let s1 := advance t s
  match recordsDue s1 with
  | some a => .next (writeRecords a.tag (recordsChanged s1.cfgB.records a.cfg.records) s1)
  | none => .next s1

/-! Show time starts and stops (R81, R584, R697). -/

/-- A configuration is in force in both parts. -/
def bothParts (r : Cfg) (s : State) : State := { s with cfgA := r, cfgB := r }

/-- Accepted commits are in force at once in Teller's record, in tag order, their records and banks written, and answered (R359, R361, R584). -/
def finishAccepted (s : State) : State :=
  s.teller.accepted.foldl (fun x a => commitDone (bothParts a.cfg (recordsWritten x.cfgB a (flipBanks x.cfgB a.cfg x))) a) s

/-- Show time stops: commits and stages, the Almanac, and what every stage built from frame to frame (R584, R697). -/
def showStop (s : State) : State :=
  let s1 := finishAccepted (modTeller (fun x => { x with openCommit := none, stages := [], tagFloor := none }) s)
  let s2 := fxmStop (rasStop (cmpStop (vinStop (almStop s1))))
  let s3 := escStop (radStop (mapStop (pktStop (lneStop s2))))
  timeStop s3

/-- The epoch of the provisioning record holds from the next start on (R77, R638). -/
def takeEpoch (s : State) : State :=
  { s with time := { s.time with epoch := ((provOf s).map (fun p => p.2.epoch)).getD s.time.epoch } }

/-- Teller's record is the configuration in force of both parts (R697). -/
def forceRecord (s : State) : State := bothParts s.record s

/-- Show time starts: the configuration in force is written again and every block starts afresh (R77, R81, R697). -/
def showStart (s : State) : State :=
  let s2 := writeShadows (forceRecord (timeStart (takeEpoch s)))
  let s3 := modAlm (fun a => { a with delayShadow := [], delays := s2.record.zones.map (fun e => (e.1, [(s2.time.fcount, e.2.delay)])) }) s2
  let s4 := vinStart (vinForce s s3.time.fcount s3)
  radioSlots (lneStart (lneConfigure s.cfgB s4.time.fcount (fxmStart (rasStart s4))))

/-- At a frame rate N / D the show in Teller's record stays within the limits of R49 and R50. -/
def rateCarries (s : State) (n d : Nat) : Bool :=
  let x := { s with time := { s.time with rateN := n, rateD := d } }
  pixelsOk x s.record && (cmpReject x s.record).isNone

/-- SHOW_TIMING_SET (R72, R79, R102). A rate at which the show on record would break R49 or R50 is refused as other pairs are (DESIGN CHOICE, log
entry 6). -/
def execShowTimingSet (c : Call) (p : ShowTimingSet) (s : State) : Out :=
  command 0x0114 c s fun s =>
    if rateOk p.n p.d = false ∨ (genlockUsed s ∧ genlockOk s p.n p.d = false) ∨ rateCarries s p.n p.d = false then refuse .invalidParameter s
    else
      let s1 := setReg64 R.TIM_FORIGIN_LO p.origin (setReg R.TIM_FRATE_DEN (BitVec.ofNat 32 p.d) (setReg R.TIM_FRATE_NUM (BitVec.ofNat 32 p.n) s))
      accept { s1 with time := { s1.time with rateN := p.n, rateD := p.d } }

end Sys2Proof.Machine
end

