-- ==== Sys2Proof/Machine/Power.lean ====
section
/-! DEFINITION. Modes, supply sag, resets, wakes, boot, temperature and voltage (18_power_and_modes.md, R672 to R676). -/

namespace Sys2Proof.Machine

/-! Modes (R582 to R585). -/

def modeIsDiag (m : Mode) : Bool := m == .diagnose || m == .calibrate

/-- MODE_CHANGE (R602). Causes: 0 host, 1 sag, 2 thermal, 3 boot. -/
def modeNotice (old new : Mode) (cause : Nat) (s : State) : State :=
  notify 0x8300 16 [modeCode old, modeCode new, cause, st64 s] (setFlag R.PWR_INT_STAT 0 s)

/-- A change of the table of R583 that POWER_MODE_SET can ask for. -/
def modeListed (old new : Mode) : Bool :=
  match old with
  | .standby => [Mode.show, .soak, .diagnose, .calibrate, .update, .listen, .hibernate].contains new
  | .show | .spare => [Mode.diagnose, .calibrate, .standby].contains new
  | .diagnose | .calibrate => [Mode.show, .standby].contains new
  | .soak => new == .standby
  | _ => false

/-- What leaving a mode ends, once the change begins: show time where it stops (R584), holds of domains (R588), a pass (R622), PHO_TEST (R365). -/
def modeLeave (old new : Mode) (s : State) : State :=
  let s1 := if old = .calibrate ∧ new ≠ .calibrate then passAbort s else s
  let s2 := if modeIsDiag old = true ∧ modeIsDiag new = false then
      setReg R.PHO_TEST 0 (modPower (fun p => { p with domains := vMap p.domains (fun d => { d with held := false }) }) s1) else s1
  if modeRuns old = true ∧ modeRuns new = false then showStop s2 else s2

/-- SHOW is entered as SPARE by a device of a pair that holds no lease (R522, R583). -/
def modeReached (s : State) (m : Mode) : Mode := if m = .show ∧ pairOn s = true ∧ heldMask s = 0 then .spare else m

/-! Temperature (R598, R600, R601). -/

/-- Tmax and the lowest sensor that reads it; none before a sample. -/
def tmaxOf (s : State) : Option (Int × Nat) :=
  (List.range 24).foldl (fun best n => match vGet s.power.thermal.temps n none, best with
    | some x, some b => if b.1 < x then some (x, n) else best
    | some x, none => some (x, n)
    | none, _ => best) none

/-- The limits in force: warn and shed, s12.4 °C (R600). -/
def thermalLimits (s : State) : Int × Int :=
  let w := reg s (if s.power.mode = .soak then R.PVT_TLIM_SOAK else R.PVT_TLIM_SHOW)
  (signed 16 (bits w 15 0), signed 16 (bits w 31 16))

def modThermal (f : Thermal → Thermal) (s : State) : State := modPower (fun p => { p with thermal := f p.thermal }) s

/-- One more zone is shed by heat, while show time runs outside SOAK (R274, R600). -/
def thermalShed (s : State) : State :=
  if s.time.running = false ∨ s.power.mode = .soak then s
  else match nextShed s.cfgB (s.power.thermal.shedZones ++ aKeys s.fxm.shed ++ s.fxm.mapShed) with
    | some z => modThermal (fun h => { h with shedZones := h.shedZones ++ [z], lastShed := s.time.now }) s
    | none => modThermal (fun h => { h with lastShed := s.time.now }) s

/-- A level is entered: THERMAL, counters, shedding (R600). Levels: 0 normal, 1 warn, 2 shed. -/
def thermalMove (old new : Nat) (t : Int) (sensor : Nat) (s : State) : State :=
  let s1 := modThermal (fun h => { h with level := new, lastCool := if new = 0 then s.time.now else h.lastCool }) s
  let s2 := if old = 0 then setFlag R.PVT_INT_STAT 0 (bump R.PVT_CNT_WARN s1) else s1
  let s3 := if new = 2 then setFlag R.PVT_INT_STAT 1 (bump R.PVT_CNT_SHED s2) else s2
  let s4 := notify 0x8303 16 [sensor, new, t, s.power.thermal.shedZones.length, st64 s] s3
  if new = 2 then (if s.power.mode = .soak then modPower (fun p => { p with boost := false }) s4 else thermalShed s4)
  else if new = 0 ∧ s.power.mode = .soak then modPower (fun p => { p with boost := true }) s4
  else s4

/-- Tmax is held against the limits in force. -/
def thermalJudge (s : State) : State :=
  match tmaxOf s with
  | none => s
  | some (t, n) =>
    let (warn, shed) := thermalLimits s
    let new := if shed ≤ t then 2 else if warn ≤ t then 1 else 0
    if new = s.power.thermal.level then s else thermalMove s.power.thermal.level new t n s

/-- THERMAL_SHED_STEP: every 1 s at shed one more zone is shed, every 10 s below warn one is restored (R600). -/
def execThermalShedStep (t : Nat) (s : State) : Out :=
  let s1 := advance t s
  let h := s1.power.thermal
  if h.level = 2 ∧ h.lastShed + 1000000000 ≤ s1.time.now then .next (thermalShed s1)
  else if h.level = 0 ∧ h.shedZones ≠ [] ∧ h.lastCool + 10000000000 ≤ s1.time.now then
    .next (modThermal (fun h => { h with shedZones := h.shedZones.dropLast, lastCool := s1.time.now }) s1)
  else .next s1

/-! A change of mode (R583, R584). -/

/-- Enables and rails on entry to LISTEN and HIBERNATE, once the domains are off (R586, R660). -/
def sleepDone (m : Mode) (s : State) : State :=
  let s1 := modPower (fun p => { p with pwrEn := false, pwrGood := false, attempts := 0 }) s
  if m = .hibernate then
    let s2 := modDom 1 (fun d => { d with state := .off }) (flushNow (recordAll s1.teller.ledgerOffers.length s1))
    modPower (fun p => { p with aonEn := false }) (lgrReset true s2)
  else s1

/-- The mode is entered, and the change's final response leaves (R584). -/
def changeDone (c : ModeChange) (s : State) : State :=
  let old := s.power.mode
  if sleeps c.to_ then modPower (fun p => { p with change := none }) (sleepDone c.to_ s)
  else
    let new := modeReached s c.to_
    let s1 := modPower (fun p => { p with mode := new, change := none, boost := new == .soak && p.thermal.level != 2 }) s
    let s2 := if modeRuns new = true ∧ modeRuns old = false then { s1 with time := { s1.time with startDue := some s1.time.now } } else s1
    let ok := new = c.asked ∨ (c.asked = .show ∧ new = .spare)
    kick (thermalJudge (respondOwed 0x0500 c.owed ⟨if ok then .ok else .notReady, 0, []⟩ (modeNotice old new c.cause s2)))

/-- The change ends when its domains are where they are to be; between modes in which show time runs it is done at once (R583). -/
def changeEnd (s : State) : State :=
  match s.power.change with
  | some c =>
    if c.begun = true ∧ sagBlocks s = false ∧ (domainsReady s = true ∨ (modeRuns s.power.mode = true ∧ modeRuns c.to_ = true)) then changeDone c s
    else s
  | none => s

/-- The change begins: the old mode's work ends and the domains follow. For LISTEN and HIBERNATE the final response and MODE_CHANGE leave before
Teller stops. Nothing begins during a sag (R594). -/
def changeBegin (s : State) : State :=
  match s.power.change with
  | some c =>
    if c.begun ∨ sagBlocks s then s
    else
      let s1 := modeLeave s.power.mode c.to_ (modPower (fun p => { p with change := some { c with begun := true } }) s)
      if sleeps c.to_ then
        let s2 := modeNotice s.power.mode c.to_ c.cause (respondOwed 0x0500 c.owed ⟨.ok, 0, []⟩ s1)
        changeEnd (kick (modPower (fun p => { p with
          mode := c.to_, change := p.change.map (fun x => { x with owed := none }) }) (tellerStop s2)))
      else changeEnd (kick s1)
  | none => s

/-- A change that waits for the frame boundary, or for the end of a sag, begins where nothing holds it back. -/
def changeGo (boundary : Bool) (s : State) : State :=
  match s.power.change with
  | some c => if c.begun = false ∧ (c.atBoundary = false ∨ boundary = true ∨ s.time.running = false) then changeBegin s else s
  | none => s

/-- wake_after sets the alarm and enables its source (R602). -/
def setAlarm (after : Nat) (s : State) : State :=
  if after = 0 then s
  else
    let at_ := s.time.rtc + after
    setField R.PWR_WAKE 0 0 1 (setReg R.PWR_ALARM_HI (BitVec.ofNat 32 (at_ / 4294967296 % 65536)) (setReg R.PWR_ALARM_LO (BitVec.ofNat 32 at_) s))

/-- Why POWER_MODE_SET is refused (R583, R584, R638). -/
def modeRefused (mode : Nat) (s : State) : Option Status :=
  match modeOf mode with
  | none => some .invalidParameter
  | some m =>
    if s.power.change.isSome ∨ s.power.hold then some .notReady
    else if modeListed s.power.mode m = false then some .wrongMode
    else if 5 ≤ mode ∧ mode ≤ 9 ∧ (provOf s).isNone then some .notReady
    else none

/-- POWER_MODE_SET: PENDING, and the final response when the change ends (R584). -/
def execPowerModeSet (c : Call) (mode : Nat) (wakeAfter : Nat) (s : State) : Out :=
  let s1 := advance c.t s
  if tellerRuns s1 = false then .next s1
  else match modeRefused mode s1 with
    | some st => .next (respond 0x0500 c ⟨st, 0, []⟩ s1)
    | none =>
      let m := (modeOf mode).getD .standby
      let s2 := respond 0x0500 c ⟨.pending, 0, []⟩ (if sleeps m then setAlarm wakeAfter s1 else s1)
      let wait := modeRuns s1.power.mode && modeRuns m && s1.time.running
      .next (changeGo false (modPower (fun p => { p with change := some ⟨m, m, 0, some c, wait, false⟩ }) s2))

def execModeChangeDone (t : Nat) (s : State) : Out := .next (changeEnd (advance t s))

/-- SHOW_TIME_START: the domains are on, the mode runs show time, and the wait for the selected time base is over (R81); a device at the shed level
sheds from the start (R600). -/
def execShowTimeStart (t : Nat) (tests : List (Nat × Nat)) (s : State) : Out :=
  let s1 := advance t s
  if s1.time.running = false ∧ modeRuns s1.power.mode = true ∧ startReady s1 = true ∧ domainsReady s1 = true ∧ s1.power.change.isNone = true ∧
      sagBlocks s1 = false then
    let s2 := rolesBoot tests (showStart (settleEarly s1))
    .next (if s2.power.thermal.level = 2 ∧ s2.power.thermal.shedZones = [] then thermalShed s2 else s2)
  else .next s1

/-! Supply sag (R591 to R594). -/

def w1Pct (s : State) : Nat := bits (reg s R.PWR_SAG) 7 0
def holdNs (s : State) : Nat := max 3 (bits (reg s R.PWR_SAG) 31 16) * 1000000

/-- SUPPLY_SAG (R602). Events: 0 W1, 1 flush ended, 2 hold ended, 3 shed. -/
def sagNotice (event records : Nat) (s : State) : State :=
  notify 0x8302 24 [event, w1Pct s, s.power.w1Low, min 0xFFFFFFFF ((s.time.now - s.power.w1At) / 1000), records, st64 s] s

/-- The decision is made: transitions go on, and an abandoned write begins again (R594, R620). -/
def sagOver (s : State) : State := changeGo false (changeEnd (kick (calResume s)))

/-- The hold ends: VSENSE has been above W1 + 2 % for 1 ms and the flush has ended. -/
def holdEnd (s : State) : State :=
  sagOver (sagNotice 2 s.power.sagRecords (setFlag R.PWR_INT_STAT 3 (modPower (fun p => { p with hold := false }) s)))

/-- The flush of the sag has ended. -/
def sagFlushed (s : State) : State :=
  if s.power.sagFlush = true ∧ s.lgr.flush = none then
    let n := s.power.sagRecords - (if s.lgr.fault then s.lgr.buffer.length else 0)
    let s1 := sagNotice 1 n (modPower (fun p => { p with sagFlush := false, sagRecords := n }) s)
    if s1.power.hold = false then sagOver s1 else if s1.power.recoveredAt.isSome then holdEnd s1 else s1
  else s

def execLedgerFlushRun (t : Nat) (bad : List Bool) (s : State) : Out := .next (sagFlushed (flushRun bad (advance t s)))

def execLedgerFlushDone (t : Nat) (s : State) : Out := .next (sagFlushed (flushDone (advance t s)))

/-- An armed launch goes back: a frame none of whose outputs has launched waits on the SYNC list again, a show port's and a DMX port's also on the
launch list. -/
def disarm (s : State) (a : Armed) : State :=
  let waits := a.zones.filter (fun z => aFind s.alm.syncDone z.1 != some z.2)
  let s1 := modAlm (fun m => { m with sync := waits.foldl (fun q z => aPut q z.1 ⟨syncAt s z.1 z.2, z.2, m.order⟩) m.sync, order := m.order + 1 }) s
  let back (k : LaunchKind) : State :=
    if waits = [] then s1 else modAlm (fun m => { m with launch := m.launch ++ [⟨a.at_, k, waits, 0, m.order, false, s.time.st64⟩], order := m.order + 1 }) s1
  match a.output with
  | .show p => back (.packet p)
  | .dmx p => back (.dmxBreak p)
  | .lane _ | .radio _ => s1

/-- Armed launches are cancelled, and sync packets leave their launch slots (R591). -/
def cancelArmed (s : State) : State :=
  let isSync (x : LaunchSlot) : Bool := match x.frame.content with
    | .uoeSync _ _ _ _ => true
    | .e131Sync _ _ => true
    | _ => false
  let s1 := modMac (fun m => { m with ports := vMap m.ports (fun p => { p with slots := p.slots.filter (fun x => !isSync x) }) }) s
  s1.alm.armed.foldl disarm (modAlm (fun a => { a with armed := [] }) s1)

/-- Hold and release (R591, steps 1 and 2). -/
def sagHold (s : State) : State :=
  if s.time.running then releaseGroups (heldGroups s) (modPower (fun p => { p with hold := true }) (cancelArmed s)) else s

/-- W1 ends a freeze (R666); where the flash has failed no flush will take the side records, which join the buffer. -/
def sagThaw (s : State) : State := if s.lgr.fault then thaw s else thawSag s

/-- W1 asserts (R591). -/
def sagStart (mv : Nat) (s : State) : State :=
  let s1 := setFlag R.PWR_INT_STAT 2 (bump R.PWR_CNT_W1 (modPower (fun p => { p with
    vsense := mv, w1 := true, w1At := s.time.now, w1Low := mv, recoveredAt := none, sagRecords := 0, w1Count := min 0xFFFFFFFF (p.w1Count + 1) }) s))
  let s2 := blockSag (calSag (sagNotice 0 0 (sagHold s1)))
  let s3 := sagThaw (ledgerEvent 0x0006 [mv, w1Pct s2, modeCode s2.power.mode, 0] s2)
  let s4 := recordAll s3.teller.ledgerOffers.length s3
  let s5 := flushStart true [] s4
  sagFlushed (modPower (fun p => { p with sagFlush := true, sagRecords := s5.lgr.buffer.length + s5.lgr.side.length }) s5)

/-- SAG_W1: VSENSE below W1 for 2 µs. HKC does not run in HIBERNATE. -/
def execSagW1 (t : Nat) (mv : Nat) (s : State) : Out :=
  let s1 := advance t s
  if domainUp s1 1 = false then .next s1
  else if 10 * w1Pct s1 ≤ mv then .next (modPower (fun p => { p with vsense := mv }) s1)
  else if sagBlocks s1 then .next (modPower (fun p => { p with vsense := mv, w1 := true, w1Low := min p.w1Low mv, recoveredAt := none }) s1)
  else .next (sagStart mv s1)

/-- SAG_RECOVERED: VSENSE above W1 + 2 % for 1 ms. -/
def execSagRecovered (t : Nat) (mv : Nat) (s : State) : Out :=
  let s1 := advance t s
  if domainUp s1 1 = false then .next s1
  else if mv ≤ 10 * w1Pct s1 + 20 then .next (modPower (fun p => { p with vsense := mv, w1 := decide (mv < 10 * w1Pct s1), w1Low := min p.w1Low mv, recoveredAt := none }) s1)
  else
    let s2 := modPower (fun p => { p with vsense := mv, w1 := false, recoveredAt := some s1.time.now }) s1
    if s2.power.hold = true ∧ s2.power.sagFlush = false then .next (holdEnd s2) else .next s2

/-- SAG_HOLD_EXPIRY: hold_ms after W1 without the decision, the device sheds to STANDBY (R592). A change under way ends there (R584). -/
def execSagHoldExpiry (t : Nat) (s : State) : Out :=
  let s1 := advance t s
  if s1.power.hold = true ∧ s1.power.sagFlush = false ∧ s1.power.w1At + holdNs s1 ≤ s1.time.now then
    let s2 := sagNotice 3 s1.power.sagRecords (setFlag R.PWR_INT_STAT 4 (modPower (fun p => { p with hold := false, shedOff := true }) s1))
    let c : ModeChange := match s2.power.change with
      | some x => { x with to_ := .standby, cause := 1, atBoundary := false, begun := false }
      | none => ⟨.standby, .standby, 1, none, false, false⟩
    .next (changeBegin (calDrop (selfRefresh (modPower (fun p => { p with change := some c }) s2))))
  else .next s1

/-! Resets (R595 to R597). -/

/-- What had left for the host stays visible when a session ends with a reset. -/
def keepSent (old : State) (s : State) : State :=
  { s with teller := { s.teller with sessions := Vector.ofFn (fun (i : Fin 5) =>
    { sess s i with responses := (sess old i).responses, notices := (sess old i).notices }) } }

/-- Show time after a reset: the reference clock, the RTC and the battery domain's mark go on (R81, R82). -/
def timeReset (t : Time) (hwm : Int) (hwmValid : Bool) : Time :=
  { Time.reset with
    now := t.now, rtc := t.rtc, rtcNs := t.rtcNs, hwm := hwm, hwmValid := hwmValid, epoch := t.epoch
    bases := vMap Time.reset.bases (fun b => { b with ns := (t.rtc : Int) * 1000000000 }) }

/-- HKC's state after a reset: enables keep their level (R675), PD1's part stays where PD1 is not reset. -/
def powerReset (pd1 : Bool) (cause rail : Nat) (p : Power) : Power :=
  let r : Power := { Power.reset with
    aonEn := p.aonEn, pwrEn := p.pwrEn, pwrGood := p.pwrGood, attempts := p.attempts, pwrEnAt := p.pwrEnAt, cause := cause, w2Rail := rail }
  if pd1 then { r with lastWake := if cause = 9 then p.lastWake else 0 }
  else { r with
    w1 := p.w1, vsense := p.vsense, lastWake := p.lastWake, volts := p.volts, process := p.process, w1At := p.w1At, w1Low := p.w1Low
    sagFlush := p.sagFlush, sagRecords := p.sagRecords, thermal := { p.thermal with shedZones := [], tripWait := false } }

/-- BOOT starts: the Ledger area is read, and the domains come up (R582, R664, R675). -/
def bootStart (s : State) : State := kick (lgrScan (modPower (fun p => { p with wakeLatch := false }) s))

/-- HKC runs and PWR_EN is high; where the rails are good, BOOT starts at once (R675). -/
def hkcStart (s : State) : State :=
  if s.power.pwrGood then bootStart s
  else if s.power.pwrEn then s
  else modPower (fun p => { p with pwrEn := true, pwrEnAt := s.time.now, attempts := 0 }) s

/-- A boot that has begun and does not end counts (R644, R645). -/
def bootCounted (s : State) : State :=
  let r := bootOf s
  if s.power.mode ≠ .boot ∨ domState s 2 ≠ .on then s
  else if r.next then writeBoot (fun x => { x with next := false }) s
  else if r.pending.isSome = true ∧ r.tries < 3 then writeBoot (fun x => { x with tries := x.tries + 1 }) s
  else s

/-- A reset of PD2 to PD13, and with `pd1` of PD1: the device is in BOOT (R583, R595). -/
def deviceReset (pd1 : Bool) (cause rail : Nat) (s : State) : State :=
  let stopped := (timeStop s).time
  let s0 := lgrReset pd1 (if pd1 then s else recordAll s.teller.ledgerOffers.length s)
  let kept := (resetRegs (if pd1 then List.range' 1 13 else List.range' 2 12) s0).regs
  let s1 : State := { State.reset with
    part := s.part, free := s.free, pending := s.pending, regs := { kept with lastRead := s.regs.lastRead }
    time := timeReset s.time stopped.hwm stopped.hwmValid, power := powerReset pd1 cause rail s.power
    vlt := { (bootCounted s).vlt with write := none, error := false }, cal := { Cal.reset with copies := s.cal.copies }, lgr := s0.lgr
    teller := { Teller.reset with resetAt := s.time.now } }
  let s2 := keepSent s s1
  if s.power.mode = .boot then s2 else modeNotice s.power.mode .boot (if cause = 3 then 2 else 3) s2

/-- Resets 0 to 3 find PD1 powered: in HIBERNATE none of their sources is watched. -/
def fullReset (cause rail : Nat) (s : State) : State :=
  if s.power.aonEn then hkcStart (deviceReset true cause rail s) else s

def execW2Reset (t : Nat) (rail : Domain) (s : State) : Out := .next (fullReset 2 rail (advance t s))

/-- RESET_N also ends the wait after three failed power-ups (R676). -/
def execResetPin (t : Nat) (s : State) : Out := .next (fullReset 1 0xFF (advance t s))

/-- Power-on: AON_EN is high, and PWR_EN follows with the AON rails. -/
def execPowerOnReset (t : Nat) (s : State) : Out :=
  let s1 := deviceReset true 0 0xFF (modPower (fun p => { p with aonEn := true, attempts := 0 }) (advance t s))
  .next (if s1.power.pwrGood then bootStart s1 else s1)

/-- The thermal trip: BOOT waits for Tmax below the SHOW warn level (R601). -/
def thermalTrip (sensor : Nat) (temp : Int) (s : State) : State :=
  let s1 := deviceReset true 3 0xFF s
  hkcStart (modThermal (fun h => { h with temps := vMod h.temps sensor (fun _ => some temp), tripWait := true }) s1)

def execThermalTrip (t : Nat) (sensor : Fin 24) (temp : Int) (s : State) : Out :=
  let s1 := advance t s
  if temp < 1760 ∨ s1.power.aonEn = false then .next s1 else .next (thermalTrip sensor temp s1)

/-- Teller, Vault and CHK lose their registers, and CHK the verdicts (R156). -/
def pd2Regs (s : State) : State :=
  modProtect (fun p => { p with verdicts := [] }) (modTeller (fun x => { x with checked := [] })
    { s with regs := { s.regs with cells := s.regs.cells.filter (fun c => pageOf c.1 != 0x50 && pageOf c.1 != 0x54 && pageOf c.1 != 0x05) } })

/-- A reset of PD2 alone: Teller stops, every other domain goes on (R597). Of the blocks in PD2, Teller, Vault and CHK lose their registers (R156); show time,
the map and the calibration in force, without which the windows and SYNCs of R597 could not go on, keep theirs (DEDUCED, log entry 31). -/
def pd2Reset (cause : Nat) (s : State) : State :=
  bump R.PWR_CNT_PD2 (modVlt (fun v => { v with write := none }) (modCal (fun c => { c with pass := none })
    (modPower (fun p => { p with cause := cause, restarting := true }) (modTeller (fun x => { x with resetAt := s.time.now })
      (pd2Regs (lgrReset false (tellerStop s)))))))

/-- WATCHDOG_EXPIRY: Teller missed its restart of HKC's watchdog (R596); in BOOT the boot ROM runs again (R646). -/
def execWatchdogExpiry (t : Nat) (s : State) : Out :=
  let s1 := advance t s
  if s1.power.mode = .boot ∧ domState s1 2 = .on then
    .next (bump R.PWR_CNT_PD2 (modPower (fun p => { p with cause := 6 }) (bootCounted s1)))
  else if tellerRuns s1 = true ∧ s1.power.dogAt + bits (reg s1 R.PWR_WDOG) 15 0 * 1000000 ≤ s1.time.now then .next (keepSent s1 (pd2Reset 6 s1))
  else .next s1

/-- LOCKSTEP_MISMATCH (R31), while PD2 is on: both cores stop, whatever they run; in BOOT the boot ROM runs again (R646). -/
def lockstep (pc : Nat) (s : State) : State :=
  let s1 := ledgerEvent 0x0005 [pc] s
  if domState s 2 ≠ .on then s
  else if s.power.mode = .boot then bump R.PWR_CNT_PD2 (modPower (fun p => { p with cause := 7 }) (bootCounted s1))
  else keepSent s1 (pd2Reset 7 s1)

def execLockstepMismatch (t : Nat) (pc : Nat) (s : State) : Out := .next (lockstep pc (advance t s))

/-- PD2_RESTART: the active bank verifies and Teller goes on in the same mode (R597, R579); a bank that fails makes it a fallback (R595, cause 8). -/
def execPd2Restart (t : Nat) (p : BootPins) (s : State) : Out :=
  let s1 := advance t s
  if s1.power.restarting = false then .next s1
  else
    let s2 := bootRom p s1
    if (s2.vlt.recovery = true ∧ s1.power.mode ≠ .recovery) ∨ (s2.vlt.recovery = false ∧ s2.vlt.fallback.isSome = true) then
      .next (hkcStart (deviceReset false 8 0xFF s1))
    else .next (bootFallback (tellerStart s1.power.cause (assignChannels (modPower (fun q => { q with restarting := false, dogAt := s1.time.now }) s2))))

/-- POWER_RESET: the OK response leaves before the reset (R602). -/
def execPowerReset (c : Call) (target : Nat) (next : Nat) (s : State) : Out :=
  let s1 := advance c.t s
  if tellerRuns s1 = false then .next s1
  else if 1 < target ∨ 1 < next then .next (respond 0x0508 c ⟨.invalidParameter, 0, []⟩ s1)
  else
    let s2 := respond 0x0508 c ⟨.ok, 0, []⟩ s1
    let s3 := if next = 1 then writeBoot (fun r => { r with next := true }) s2 else s2
    if target = 0 then .next (hkcStart (deviceReset false 4 0xFF s3)) else .next (keepSent s3 (pd2Reset 6 s3))

/-- VBAT_LOSS: PD0 alone holds nothing over it (R82, R595); a wait after three failed power-ups ends (R676). -/
def execVbatLoss (t : Nat) (s : State) : Out :=
  let s1 := advance t s
  .next (modPower (fun p => { p with wakeLatch := false, lastWake := 0, attempts := if 3 ≤ p.attempts then 0 else p.attempts })
    { s1 with time := { s1.time with rtc := 0, rtcNs := 0, hwm := 0, hwmValid := false } })

/-! Wakes and power-up (R586, R675, R676). -/

/-- The device sleeps: the entry to LISTEN or HIBERNATE is complete. -/
def asleep (s : State) : Bool := sleeps s.power.mode && s.power.change.isNone

/-- An enabled source sets the latch. Sources: 1 RTC, 2 WAKE ball, 3 management. From LISTEN HKC boots with cause 9; from HIBERNATE AON_EN goes high
first. -/
def wake (source : Nat) (s : State) : State :=
  let s1 := modPower (fun p => { p with wakeLatch := true, lastWake := source, aonEn := true }) s
  if s.power.mode = .listen then hkcStart (deviceReset false 9 0xFF s1) else s1

def alarmAt (s : State) : Nat := regN s R.PWR_ALARM_LO + bits (reg s R.PWR_ALARM_HI) 15 0 * 4294967296

def execRtcAlarmWake (t : Nat) (s : State) : Out :=
  let s1 := advance t s
  if asleep s1 = true ∧ s1.power.wakeLatch = false ∧ bitOf (reg s1 R.PWR_WAKE) 0 = true ∧ alarmAt s1 ≤ s1.time.rtc then .next (wake 1 s1) else .next s1

def execWakePin (t : Nat) (s : State) : Out :=
  let s1 := advance t s
  if asleep s1 = true ∧ s1.power.wakeLatch = false ∧ bitOf (reg s1 R.PWR_WAKE) 1 = true then .next (wake 2 s1) else .next s1

/-- WAKE_FRAME_MATCH: a match is counted in every mode with PD1 powered, and wakes the device from LISTEN (R458, R459). -/
def execWakeFrameMatch (t : Nat) (e : WakeEvent) (s : State) : Out :=
  let s1 := advance t s
  if domainUp s1 1 = false then .next s1
  else match wakeMatch s1 e with
    | none => .next s1
    | some (cause, pattern) =>
      let s2 := bump (R.MAC_WAKE_CNT 10) s1
      if s2.power.mode = .listen ∧ asleep s2 = true ∧ bitOf (reg s2 R.PWR_WAKE) 2 = true then
        .next (wake 3 (setReg (R.MAC_WAKE_STAT 10) (BitVec.ofNat 32 (2147483648 + pattern * 16 + cause)) s2))
      else .next s2

/-- AON_RAILS_GOOD: the PD1 rails are in range and HKC drives PWR_EN high. -/
def execAonRailsGood (t : Nat) (s : State) : Out :=
  let s1 := advance t s
  if s1.power.aonEn = false ∨ s1.power.pwrEn = true then .next s1
  else if s1.power.mode = .hibernate then (if s1.power.wakeLatch then .next (hkcStart (deviceReset true 9 0xFF s1)) else .next s1)
  else if s1.power.mode = .boot ∧ s1.power.attempts = 0 then .next (hkcStart s1)
  else .next s1

def execPwrGoodRise (t : Nat) (s : State) : Out :=
  let s1 := advance t s
  if s1.power.pwrEn = true ∧ s1.power.pwrGood = false ∧ s1.power.mode = .boot then
    .next (bootStart (modPower (fun p => { p with pwrGood := true, attempts := 0 }) s1))
  else .next s1

/-- PWR_GOOD_TIMEOUT: PWR_EN goes low; a third failure is recorded (R676). -/
def execPwrGoodTimeout (t : Nat) (s : State) : Out :=
  let s1 := advance t s
  if s1.power.pwrEn = true ∧ s1.power.pwrGood = false ∧ s1.power.pwrEnAt + 100000000 ≤ s1.time.now then
    let s2 := modPower (fun p => { p with pwrEn := false, attempts := p.attempts + 1, pwrEnAt := s1.time.now }) s1
    .next (if s2.power.attempts = 3 then ledgerEvent 0x0007 [0, 0, 0] s2 else s2)
  else .next s1

def execPowerUpRetry (t : Nat) (s : State) : Out :=
  let s1 := advance t s
  if s1.power.pwrEn = false ∧ 1 ≤ s1.power.attempts ∧ s1.power.attempts < 3 ∧ s1.power.pwrEnAt + 1000000000 ≤ s1.time.now then
    .next (modPower (fun p => { p with pwrEn := true, pwrEnAt := s1.time.now }) s1)
  else .next s1

/-! The end of BOOT (R583, R599, R674). -/

/-- The set point: the fused table's within 0.65 to 0.85 V in steps of 5 mV, or 750 where the regulator does not answer. -/
def chooseSetPoint (counts : List Nat) (avs : Bool) (s : State) : State :=
  let mv := if avs then min 850 (max 650 (Config.avsTable counts / 5 * 5)) else 750
  let s1 := modPower (fun p => { p with
    setPoint := mv, coreMv := mv, avsOk := avs, process := Vector.ofFn (fun (i : Fin 32) => counts.getD i.val 0 % 65536) }) s
  if avs then s1 else ledgerEvent 0x0007 [s1.power.cause, modeCode .boot, 0] s1

/-- Teller writes each port's address from the record's block: port p takes base + p (R430). -/
def portAddresses (s : State) : State :=
  if baseMac s = 0 then s
  else (List.range 11).foldl (fun x p =>
    let a := addrWords ((baseMac s + p) % 281474976710656)
    setReg (R.MAC_ADDR_LO p) a.1 (setReg (R.MAC_ADDR_HI p) a.2 x)) s

/-- The mode that BOOT ends in (R583). -/
def bootMode (s : State) : Mode := if s.vlt.recovery then .recovery else if s.vlt.state = .unprovisioned then .provision else .standby

/-- A failed self-test is reported with the state unchanged (R651). -/
def selfTestNotice (s : State) : State :=
  if s.vlt.error then notify 0x8400 16 [secCode s.vlt.state, secCode s.vlt.state, 2, st64 s] s else s

/-- Teller starts in the mode reached (R579, R612, R632, R645, R646). -/
def bootEnter (s : State) : State :=
  let m := bootMode s
  let s1 := modPower (fun p => { p with mode := m, dogAt := s.time.now }) (portAddresses (assignChannels s))
  let s2 := if m = .recovery then s1 else bootConfirm s1
  let s3 := if m = .provision then deviceKey s2 else s2
  let s4 := modeNotice .boot m 3 (selfTestNotice (bootFallback (tellerStart s3.power.cause s3)))
  let s5 := ledgerEvent 0x0007 [s4.power.cause, modeCode m, firmwareVersion s4] (calTell (calReady s4))
  kick (thermalJudge (if s5.cal.inForce.isNone then calWriteStart false s5 else s5))

/-- After a trip BOOT waits (R601). -/
def bootCool (s : State) : Bool :=
  !s.power.thermal.tripWait || (match tmaxOf s with
    | some (t, _) => decide (t < (thermalLimits s).1)
    | none => false)

/-- The commit lead and the delay pool of the show come with BOOT_COMPLETE, since no message or register sets them; a value outside its range
changes nothing (R42, R52; DESIGN CHOICE, log entry 9). -/
def setUpShow (lead pool : Nat) (s : State) : State :=
  modAlm (fun a => { a with
    leadUs := if 100 ≤ lead ∧ lead ≤ 2000 then lead else a.leadUs
    poolMib := if pool ≤ 16384 then pool else a.poolMib }) s

def execBootComplete (t : Nat) (p : BootPins) (counts : List Nat) (avs : Bool) (lead pool : Nat) (s : State) : Out :=
  let s1 := advance t s
  if s1.power.mode = .boot ∧ s1.power.pwrGood = true ∧ domState s1 2 = .on ∧ domState s1 3 = .on ∧ domState s1 13 = .on ∧ bootCool s1 = true ∧
      sagBlocks s1 = false then
    .next (bootEnter (chooseSetPoint counts avs (bootRom p (setUpShow lead pool (modThermal (fun h => { h with tripWait := false }) s1)))))
  else .next s1

/-! Samples (R585, R598 to R600). -/

/-- TEMPERATURE_SAMPLE: the sensors and the process monitors, each 1 ms; a raw 110 °C trips (R601), and each reading less its offset is shown
(R605, item 6). -/
def execTemperatureSample (t : Nat) (temps : List Int) (counts : List Nat) (s : State) : Out :=
  let s1 := advance t s
  if domainUp s1 1 = false then .next s1
  else match (List.range 24).find? (fun n => decide (1760 ≤ temps.getD n 0)) with
    | some n => .next (thermalTrip n (temps.getD n 0) s1)
    | none =>
      .next (thermalJudge (modThermal (fun h => { h with temps := Vector.ofFn (fun (i : Fin 24) => some (temps.getD i.val 0 - calValue s1 6 i.val)) })
        (modPower (fun p => { p with process := Vector.ofFn (fun (i : Fin 32) => counts.getD i.val 0 % 65536) }) s1)))

/-- The nominal voltage of a monitor's rail: VBAT, VDD_AON, and the core set point of the others (R598, R672). -/
def nominalMv (s : State) (d : Nat) : Nat := if d = 0 then 3000 else if d = 1 then 800 else s.power.coreMv

/-- A domain whose supply is up at its nominal value. -/
def supplied (s : State) (d : Nat) : Bool := domState s d == .on || domState s d == .gated

/-- One monitor: an alarm outside ±5 %, reported when it changes (R599). -/
def voltJudge (s : State) (x : Nat × Nat) : State :=
  let (d, mv) := x
  let old := vGet s.power.volts d ⟨0, false, false⟩
  let n := nominalMv s d
  let low := supplied s d && decide (mv * 100 < n * 95)
  let high := supplied s d && decide (n * 105 < mv * 100)
  let s1 := modPower (fun p => { p with volts := vMod p.volts d (fun _ => ⟨mv, low, high⟩) }) s
  if low = old.low ∧ high = old.high then s1
  else
    let s2 := if low ∨ high then bump R.PVT_CNT_VALARM s1 else s1
    notify 0x8304 16 [d, if low then 1 else if high then 2 else 0, mv, st64 s] (setFlag R.PVT_INT_STAT 2 s2)

def execVoltageSample (t : Nat) (volts : List Nat) (s : State) : Out :=
  let s1 := advance t s
  let read (d : Nat) : Nat := ((volts.getD d 0 : Int) - calValue s1 7 d).toNat
  if domainUp s1 1 = false then .next s1 else .next (((List.range 14).map (fun d => (d, read d))).foldl voltJudge s1)

/-- AVS_RETUNE: in SOAK the voltage moves toward the lowest that keeps the margin, otherwise back to the set point, by at most 10 mV a step
(R585, R600, R674). -/
def execAvsRetune (t : Nat) (s : State) : Out :=
  let s1 := advance t s
  let p := s1.power
  if p.avsOk = false ∨ p.pwrGood = false then .next s1
  else
    let want := if p.mode = .soak ∧ p.boost = true then min 850 (max 650 (Config.avsSoak p.process.toList)) else p.setPoint
    let mv := if p.coreMv < want then min want (p.coreMv + 10) else max want (p.coreMv - 10)
    .next (modPower (fun q => { q with coreMv := mv }) s1)

/-! The other commands of class 16 (R602). -/

def execPowerLatencySet (c : Call) (tolerances : List Nat) (s : State) : Out :=
  command 0x0501 c s fun s =>
    accept (kick ((List.range' 3 11).foldl (fun x d => setReg (R.PWR_Dd_LAT d) (BitVec.ofNat 32 (tolerances.getD d 0)) x) s))

def execPowerDomainSet (c : Call) (domain : Nat) (action : Nat) (s : State) : Out :=
  command 0x0502 c s fun s =>
    if domain < 3 ∨ 13 < domain ∨ 1 < action then refuse .invalidParameter s
    else if domain = 12 ∧ s.part = .rk9210 then refuse .unsupportedFeature s
    else accept (kick (modDom domain (fun d => { d with held := action == 1 }) s))

def execPowerSagSet (c : Call) (p : PowerSagSet) (s : State) : Out :=
  command 0x0503 c s fun s =>
    if p.w1Pct < 80 ∨ 95 < p.w1Pct ∨ 1000 < p.holdMs then refuse .invalidParameter s
    else accept (setReg R.PWR_SAG (BitVec.ofNat 32 (p.holdMs * 65536 + p.w1Pct)) s)

/-- Limits a register write would change are refused (R600, R695). -/
def limitsOk (warn shed : Int) : Bool := decide (-32768 ≤ warn) && decide (warn ≤ shed) && decide (shed ≤ 1680)

def limitWord (warn shed : Int) : Word := BitVec.ofNat 32 (unsignedOf 16 shed * 65536 + unsignedOf 16 warn)

def execPowerThermalSet (c : Call) (p : PowerThermalSet) (s : State) : Out :=
  command 0x0504 c s fun s =>
    if limitsOk p.showWarn p.showShed = false ∨ limitsOk p.soakWarn p.soakShed = false then refuse .invalidParameter s
    else accept (thermalJudge (setReg R.PVT_TLIM_SHOW (limitWord p.showWarn p.showShed) (setReg R.PVT_TLIM_SOAK (limitWord p.soakWarn p.soakShed) s)))

def execPowerWakeSet (c : Call) (enables : Nat) (alarm : Nat) (s : State) : Out :=
  command 0x0505 c s fun s => accept (setReg R.PWR_ALARM_LO (BitVec.ofNat 32 alarm) (setField R.PWR_WAKE 2 0 (enables % 8) s))

def isBusy (s : State) : Bool := s.power.change.isSome || s.power.mode == .boot
def targetMode (s : State) : Mode := ((s.power.change.map ModeChange.to_)).getD s.power.mode

/-- Latched behind the step under way (R590). -/
def pendingOn (s : State) (d : Nat) : Bool := domState s d == .goingDown && domGoal s d != .off
def pendingOff (s : State) (d : Nat) : Bool := domState s d == .goingUp && domGoal s d == .off

def execPowerStatusGet (c : Call) (s : State) : Out :=
  command 0x0506 c s fun s =>
    let t := (tmaxOf s).getD (0, 0)
    answer 40 ([(modeCode s.power.mode : Int), modeCode (targetMode s), s.power.cause, bNat (isBusy s) + 2 * bNat s.power.hold + 4 * bNat s.power.w1,
        s.power.vsense, s.power.coreMv] ++
      (List.range 14).map (fun (d : Nat) => ((domCode (domState s d) + 128 * bNat (pendingOn s d || pendingOff s d) : Nat) : Int)) ++
      [(dramTol s : Int), t.1, t.2, s.power.w1Count]) s

def execPvtGet (c : Call) (s : State) : Out :=
  command 0x0507 c s fun s =>
    answer 148 ([st64 s] ++ s.power.thermal.temps.toList.map (fun t => t.getD 0) ++ s.power.volts.toList.map (fun v => (v.mv : Int)) ++
      s.power.process.toList.map Int.ofNat) s

/-! Registers that show power (R603, R604). -/

def viewPwr (s : State) (a : Nat) : Option Word :=
  let w (n : Nat) : Option Word := some (BitVec.ofNat 32 n)
  let o := pageOff a
  match o with
  | 0x000 => w (bNat (isBusy s) * 2147483648 + modeCode (targetMode s) * 256 + modeCode s.power.mode)
  | 0x008 => w (bNat s.power.w1 * 2147483648 + bNat s.power.hold * 1073741824 + bNat s.lgr.flush.isSome * 536870912 + min 65535 s.power.vsense)
  | 0x00C => w (s.power.w2Rail * 256 + s.power.cause)
  | 0x010 => w (s.time.rtc % 4294967296)
  | 0x014 => w (s.time.rtc / 4294967296 % 65536)
  | 0x020 => some (setBits (reg s R.PWR_WAKE) 10 8 s.power.lastWake)
  | 0x028 => w s.power.dram
  | 0x04C => w (if domainUp s 3 then dramTol s else 0xFFFFFFFF)
  | _ =>
    if 0x100 ≤ o ∧ o < 0x1E0 ∧ o % 16 = 4 then
      let d := (o - 0x100) / 16
      w (bNat (pendingOn s d) * 2147483648 + bNat (pendingOff s d) * 1073741824 + bNat (domInUse s d) * 536870912 +
        bNat (domOf s d).held * 268435456 + (if d ≤ 1 then 0 else domCode (domState s d)))
    else none

def viewPvt (s : State) (a : Nat) : Option Word :=
  let w (n : Nat) : Option Word := some (BitVec.ofNat 32 n)
  let o := pageOff a
  match o with
  | 0x000 => w (2 * bNat (s.power.mode == .soak) + 1)
  | 0x004 => (match tmaxOf s with
      | some (t, n) => w (n * 16777216 + unsignedOf 16 t)
      | none => w 0)
  | 0x010 => w (bNat (s.power.mode != .soak || !s.power.avsOk) * 2147483648 + s.power.coreMv)
  | _ =>
    if 0x100 ≤ o ∧ o < 0x160 ∧ o % 4 = 0 then
      (match vGet s.power.thermal.temps ((o - 0x100) / 4) none with
       | some t => w (2147483648 + unsignedOf 16 t)
       | none => w 0)
    else if 0x200 ≤ o ∧ o < 0x238 ∧ o % 4 = 0 then
      let v := vGet s.power.volts ((o - 0x200) / 4) ⟨0, false, false⟩
      w (bNat v.low * 2147483648 + bNat v.high * 1073741824 + min 65535 v.mv)
    else if 0x300 ≤ o ∧ o < 0x380 ∧ o % 4 = 0 then w (vGet s.power.process ((o - 0x300) / 4) 0)
    else none

end Sys2Proof.Machine
end

