-- ==== Sys2Proof/Machine/Firmware.lean ====
section
/-! DEFINITION. The commands of class 18: keys, provisioning, rollback, retirement, staging and activation (20_security_and_firmware.md). -/

namespace Sys2Proof.Machine

/-- Vault refuses every operation after a failed test (R629). -/
def vaultOp (s : State) (f : State → State × Reply) : State × Reply := if s.vlt.error then unauth s else f s

/-! Keys (R632 to R636). -/

/-- Where plaintext secret keys may arrive: PROVISION from UNPROVISIONED, over PCIe. -/
def plainOk (c : Call) (s : State) : Bool := s.power.mode == .provision && s.vlt.state == .unprovisioned && c.session == 0

/-- Key material in the form its class takes, and from where it may come. -/
def keyForm (c : Call) (p : KeyEnroll) (s : State) : Option Status :=
  let cls := p.ident / 256
  if cls = 1 ∨ cls = 4 then (if p.length = 48 ∧ p.wrap = 0xFFFF then none else some .invalidParameter)
  else if p.wrap = 0xFFFF then
    if p.length ≠ 32 then some .invalidParameter else if plainOk c s then none else some .unauthorized
  else if p.length ≠ 40 then some .invalidParameter
  else if mgmtKey s p.wrap = true ∧ p.unwrapOk = true then none else some .unauthorized

def keyEnroll (c : Call) (p : KeyEnroll) (s : State) : State × Reply :=
  let cls := p.ident / 256
  match slotBit cls (p.ident % 256) with
  | none => refuse .invalidParameter s
  | some b =>
    if cls = 0 ∨ cls = 5 then refuse .invalidParameter s
    else match keyForm c p s with
      | some .unauthorized => unauth s
      | some st => refuse st s
      | none =>
        if nBit s.vlt.written b then unauth s
        else accept (modVlt (fun v => { v with written := burnSlot b v.written, keys := aPut v.keys p.ident p.material }) s)

def execSecKeyEnroll (c : Call) (p : KeyEnroll) (s : State) : Out := command 0x0601 c s (fun s => vaultOp s (keyEnroll c p))

/-- Slots that no command revokes (R636). -/
def keepsSlot (c : Call) (ident : Nat) (s : State) : Bool :=
  let own := c.session.val != 0 && (sess s c.session).key == ident
  let signs := match (bankOf s (bootOf s).active).header with
    | some h => ident / 256 == 0 && h.trailer.slot == ident % 256
    | none => false
  own || signs || ident / 256 == 5

/-- UDP sessions keyed by a slot close. -/
def closeKeyed (ident : Nat) (s : State) : State :=
  (List.finRange 5).foldl (fun x (i : Fin 5) => if i.val ≠ 0 ∧ (sess x i).key = ident then sessionClose i x else x) s

def keyRevoke (c : Call) (ident : Nat) (s : State) : State × Reply :=
  match slotBit (ident / 256) (ident % 256) with
  | none => refuse .invalidParameter s
  | some b =>
    if keepsSlot c ident s then refuse .invalidParameter s
    else if slotUsable s (ident / 256) (ident % 256) = false then unauth s
    else accept (closeKeyed ident (modVlt (fun v => { v with revoked := burnSlot b v.revoked }) s))

def execSecKeyRevoke (c : Call) (ident : Nat) (s : State) : Out := command 0x0602 c s (fun s => vaultOp s (keyRevoke c ident))

/-! Provisioning (R637, R638, R653). -/

def recordSet (p : RecordSet) (s : State) : State × Reply :=
  accept (modVlt (fun v => { v with prov := writeCopy ProvRecord.generation (fun g => ⟨g, p.epoch, p.mac, p.ip, p.mask, p.gateway⟩) v.prov }) s)

def execSecRecordSet (c : Call) (p : RecordSet) (s : State) : Out := command 0x0603 c s (fun s => vaultOp s (recordSet p))

/-- The security state moves forward (R630, R651). -/
def secMove (new : SecState) (cause : Nat) (s : State) : State :=
  notify 0x8400 16 [secCode s.vlt.state, secCode new, cause, st64 s] 
    (modVlt (fun v => { v with state := if secCode v.state ≤ secCode new then new else v.state }) s)

/-- Back to STANDBY without a POWER_MODE_SET. -/
def toStandby (s : State) : State := changeGo false (modPower (fun p => { p with change := some ⟨.standby, .standby, 0, none, false, false⟩ }) s)

def provisionDone (flags : Nat) (s : State) : State × Reply :=
  if (provOf s).isNone then refuse .notReady s
  else accept (toStandby (secMove (if nBit flags 0 then .approved else .provisioned) 0 s))

def execSecProvisionDone (c : Call) (flags : Nat) (s : State) : Out := command 0x0604 c s (fun s => vaultOp s (provisionDone flags))

/-- The counter rises to the active bank's secver, unless the other bank would fall below it (R643). -/
def rollbackAdvance (flags : Nat) (s : State) : State × Reply :=
  let r := bootOf s
  let mine := bankInfo r r.active
  let other := bankInfo r (1 - r.active)
  if (other.state = .good ∨ other.state = .staged) ∧ other.secver < mine.secver ∧ nBit flags 0 = false then refuse .invalidParameter s
  else accept (modVlt (fun v => { v with rollback := max v.rollback (min 63 mine.secver) }) s)

def execSecRollbackAdvance (c : Call) (flags : Nat) (s : State) : Out := command 0x0606 c s (fun s => vaultOp s (rollbackAdvance flags))

/-- Bits of the MGMT, PAIR and DEVICE slots. -/
def secretSlots : List Nat := List.range' 8 10 ++ [20]

def secretIds : List Nat := List.range' 512 8 ++ List.range' 768 2 ++ [1280]

/-- Every bit of the secret slots is burnt: the keys are gone, no slot of them is usable, and no record copy keeps its tag (R653). -/
def zeroize (s : State) : State :=
  modVlt (fun v => { v with
    keys := secretIds.foldl (fun m i => aPut m i (2 ^ 256 - 1)) v.keys
    written := secretSlots.foldl (fun m b => burnSlot b m) v.written
    revoked := secretSlots.foldl (fun m b => burnSlot b m) v.revoked
    prov := Vector.replicate 2 none }) s

/-- SEC_RETIRE: the response leaves after the zeroization and before the reset (R651). -/
def execSecRetire (c : Call) (confirm : Nat) (s : State) : Out :=
  let s1 := advance c.t s
  let no (p : State × Reply) : Out := .next (respond 0x0607 c p.2 p.1)
  if tellerRuns s1 = false then .next s1
  else if modeOk 0x0607 s1.power.mode = false then no (refuse .wrongMode s1)
  else if s1.vlt.error ∨ c.session ≠ 0 then no (unauth s1)
  else if confirm ≠ 0x52455449 then no (refuse .invalidParameter s1)
  else .next (hkcStart (deviceReset false 4 0xFF (respond 0x0607 c ⟨.ok, 0, []⟩ (secMove .retired 1 (zeroize s1)))))

/-! Staging (R647 to R650). -/

/-- The bank that FW_BEGIN may write: the one not active; where neither is GOOD, in RECOVERY, the one it names. -/
def beginBank (bank : Nat) (s : State) : Option Nat :=
  let r := bootOf s
  let other := 1 - r.active
  if bank = 0xFF ∨ bank = other then some other
  else if s.power.mode = .recovery ∧ r.bank0.state ≠ .good ∧ r.bank1.state ≠ .good ∧ bank ≤ 1 then some bank
  else none

def stageBegin (b : Nat) (h : FwHeader) (s : State) : State :=
  let st := (bankInfo (bootOf s) b).state
  if (bankOf s b).header = some h ∧ (st = .staging ∨ st = .staged) then s
  else modBank b (fun _ => ⟨some h, [], false⟩) (writeBoot (setBank b (fun _ => ⟨.staging, h.version, h.secver⟩)) (blockSag s))

def fwBegin (bank : Nat) (h : FwHeader) (s : State) : State × Reply :=
  match beginBank bank s with
  | none => refuse .invalidParameter s
  | some b =>
    if headerFits s h = false then refuse .invalidParameter s
    else if trailerOk s 0 h.trailer = false then sigFail s
    else if h.secver < s.vlt.rollback then unauth s
    else accept (stageBegin b h s)

def execFwBegin (c : Call) (bank : Nat) (header : FwHeader) (s : State) : Out := command 0x0610 c s (fun s => vaultOp s (fwBegin bank header))

/-- The bank that blocks go to: in STAGING, else STAGED again by a resumed FW_BEGIN. -/
def stageBank (s : State) : Option Nat :=
  (stagingBank s).or ((List.range 2).find? (fun b => (bankInfo (bootOf s) b).state == .staged))

/-- The checks of R649 on arrival. -/
def blockFits (h : FwHeader) (block : Nat) (crc : Word) (data : List (BitVec 8)) : Bool :=
  decide (block < h.blocks) && crc == crc32c data && crc.toNat == h.crcs.getD block 0 && data.length == imageBlockBytes h block

def fwBlock (c : Call) (block : Nat) (crc : Word) (data : List (BitVec 8)) (sIn : State) : State × Reply :=
  let s := chkRun 48 data sIn
  match stageBank s with
  | none => refuse .notReady s
  | some b =>
    match (bankOf s b).header with
    | none => refuse .notReady s
    | some h =>
      if blockFits h block crc data = false then refuse .invalidParameter (bump R.VLT_CNT_CRCFAIL s)
      else if (aFind (bankOf s b).blocks block).isSome then accept s
      else if s.vlt.write.isSome then refuse .busy s
      else (modVlt (fun v => { v with write := some ⟨b, block, data, some c⟩ }) s, ⟨.pending, 0, []⟩)

def execFwBlock (c : Call) (block : Nat) (crc : Word) (data : List (BitVec 8)) (s : State) : Out :=
  command 0x0611 c s (fwBlock c block crc data)

/-- FW_BLOCK_WRITE_DONE: the block is written, read back and checked; a write yields the flash to a flush (R649, R660). -/
def execFwBlockWriteDone (t : Nat) (good : Bool) (s : State) : Out :=
  let s1 := advance t s
  match s1.vlt.write with
  | none => .next s1
  | some w =>
    if s1.lgr.flush.isSome then .next s1
    else
      let s2 := modVlt (fun v => { v with write := none }) s1
      if good then .next (respondOwed 0x0611 w.owed ⟨.ok, 0, []⟩ (modBank w.bank (fun b => { b with blocks := aPut b.blocks w.block w.data }) (chkRun 49 w.data s2)))
      else .next (internalAnswer 0x0611 w.owed s2)

/-- The payload as it stands in the bank. -/
def payloadOf (b : Bank) (h : FwHeader) : List (BitVec 8) := (List.range h.blocks).flatMap (fun i => aGet b.blocks i [])

/-- verify(b) on a whole bank: 0 STAGED, 1 digest mismatch, 2 block CRC, 3 signature or rollback. -/
def stageResultOf (s : State) (b : Nat) (h : FwHeader) : Nat :=
  let bank := bankOf s b
  if headerFits s h = false ∨ headerSafe s h = false then 3
  else if (List.range h.blocks).any (fun i => (crc32c (aGet bank.blocks i [])).toNat != h.crcs.getD i 0) then 2
  else if Config.sha384 (payloadOf bank h) ≠ h.digest then 1
  else 0

def fwEnd (bank : Nat) (s : State) : State × Reply :=
  if 1 < bank then refuse .invalidParameter s
  else match (bankOf s bank).header with
    | none => refuse .notReady s
    | some h =>
      let st := (bankInfo (bootOf s) bank).state
      if (st ≠ .staging ∧ st ≠ .staged) ∨ bankWhole (bankOf s bank) h = false then refuse .notReady s
      else
        let r := stageResultOf s bank h
        let s1 := writeBoot (setBankState bank (if r = 0 then .staged else .failed)) (modBank bank (fun b => { b with hashOk := r == 0 }) s)
        let s2 := notify 0x8401 24 [bank, r, h.blocks, h.version, h.secver, st64 s] s1
        if r ≠ 3 then accept s2 else if trailerOk s 0 h.trailer = false then sigFail s2 else unauth s2

def execFwEnd (c : Call) (bank : Nat) (s : State) : Out := command 0x0612 c s (fun s => vaultOp s (fwEnd bank))

/-- FW_ACTIVATE: the OK response leaves before the reset with cause 5. -/
def execFwActivate (c : Call) (bank : Nat) (s : State) : Out :=
  let s1 := advance c.t s
  let no (st : Status) : Out := .next (respond 0x0613 c ⟨st, 0, []⟩ s1)
  if tellerRuns s1 = false then .next s1
  else if modeOk 0x0613 s1.power.mode = false then no .wrongMode
  else if 1 < bank then no .invalidParameter
  else if (bankInfo (bootOf s1) bank).state ≠ .staged then no .notReady
  else
    let s2 := writeBoot (fun r => { r with pending := some bank, tries := 0 }) s1
    .next (hkcStart (deviceReset false 5 0xFF (respond 0x0613 c ⟨.ok, 0, []⟩ s2)))

/-- A block write under way ends with its staging. -/
def stageDrop (bank : Nat) (s : State) : State :=
  if (bankInfo (bootOf s) bank).state = .staging then
    modBank bank (fun _ => ⟨none, [], false⟩) (writeBoot (setBank bank (fun _ => ⟨.empty, 0, 0⟩)) (blockSag s))
  else s

def execFwAbort (c : Call) (bank : Nat) (s : State) : Out :=
  command 0x0614 c s fun s =>
    if 1 < bank then refuse .invalidParameter s
    else
      let s1 := stageDrop bank s
      accept (if s1.power.mode = .update then toStandby s1 else s1)

/-! Status (R651). -/

/-- Bytes 8 to 35 of the boot control record in force. -/
def bootFields (r : BootRecord) : List Int :=
  [(r.generation.toNat : Int), r.active, r.pending.getD 0xFF, r.tries, bNat r.next, bankCode r.bank0.state, bankCode r.bank1.state,
    r.bank0.version, r.bank1.version, r.bank0.secver, r.bank1.secver]

def execSecStatusGet (c : Call) (s : State) : Out :=
  command 0x0600 c s fun s =>
    answer 40 ([(secCode s.vlt.state : Int), s.vlt.rollback, ((provOf s).map Prod.fst).getD 0xFF, s.vlt.katFail, s.vlt.written % 65536,
      s.vlt.written / 65536, s.vlt.revoked] ++ bootFields (bootOf s)) s

/-- The bitmap's byte `j`. -/
def goodByte (b : Bank) (j : Nat) : Nat := ((List.range 8).map (fun i => bNat (aFind b.blocks (8 * j + i)).isSome * 2 ^ i)).sum

def execFwStatusGet (c : Call) (bank : Nat) (s : State) : Out :=
  command 0x0615 c s fun s =>
    if 1 < bank then refuse .invalidParameter s
    else
      let b := bankOf s bank
      answer 64 ([(bankCode (bankInfo (bootOf s) bank).state : Int), ((b.header.map FwHeader.blocks).getD 0 : Nat), b.blocks.length] ++
        (List.range 56).map (fun (j : Nat) => (goodByte b j : Int))) s

end Sys2Proof.Machine
end

