-- ==== Sys2Proof/Machine/Protect.lean ====
section
/-! DEFINITION. Datapath errors at their sites (R172 to R176). -/

namespace Sys2Proof.Machine

/-- CMP: the canvas tile keeps its previous content; one that is complete already is repaired at once (R172, R238). -/
def tileError (tile : Nat) (s : State) : State :=
  match newestCanvas s with
  | none => s
  | some (n, c) =>
    if s.cmp.complete then s
    else if min c.height ((tile / tilesAcross c + 1) * 64) ≤ s.cmp.lines then repairTile n c s tile
    else if s.protect.badTiles.contains tile then s
    else modProtect (fun p => { p with badTiles := p.badTiles ++ [tile] }) s

/-- A consumer's pop of a queue returns the head word in error: perr is set and the whole packet discarded (R167, R172). -/
def wordSpoiled (q : Nat) (s : State) : State :=
  let f := fifoOf s q
  if fifoEmpty f then s else fifoSpoiled q f (modFifo q (fun x => { x with lastPerr := true }) (fifoPop q 0 false s))

/-- The effect in the frame of an error (R172 to R174): a single-bit error is corrected and has none. One at MAP is counted at its engine (R334). -/
def siteEffect (e : ErrorFound) (s : State) : State :=
  if e.kind = 1 then s
  else match e.site with
    | 0 => tileError e.object s
    | 1 => repeatSegment e.object e.segment (if e.engine < 16 then bump (R.MAP_En_PERR (e.engine / 8) (e.engine % 8)) s else s)
    | 2 | 3 => repeatSegment e.object e.segment s
    | 4 | 5 | 6 => modProtect (fun p => { p with badOutputs := p.badOutputs ++ [(e.site, e.object, e.segment)] }) s
    | 7 => wordSpoiled e.object s
    | 8 =>
      if e.kind = 2 ∧ s.protect.badEntries.contains e.object = false then modProtect (fun p => { p with badEntries := p.badEntries ++ [e.object] }) s
      else s
    | 9 => if e.object < 16 then engineFail e.object 1 s else if e.object = 16 then lockstep (unsignedOf 32 (drawn s)) (draw s) else s
    | 10 => if e.object = 16 ∧ e.consumer = none then lockstep (unsignedOf 32 (drawn s)) (draw s) else s
    | _ => s

/-- The poisoned data of a double-bit error, which its consumer handles as a parity error at its own site (R173). -/
def poisoned (e : ErrorFound) (s : State) : State :=
  match e.consumer with
  | some c => if e.kind = 2 then siteEffect { e with site := c, kind := 0 } (errorFound { e with site := c, kind := 0 } s) else s
  | none => s

/-- What a stage's check or the scrubber finds: counted, captured, noticed, and handled at its site. Site 11 is the scan path of the monitor output,
which R177 does not name: the line is black from sample `object` on and counted in RAS_CNT_PERR (R259). -/
def datapathError (s : State) (e : ErrorFound) : State :=
  if errorThere e = false then s else if e.site = 11 then scanParity e.object s else poisoned e (siteEffect e (errorFound e s))

def execParityError (t : Nat) (e : ErrorFound) (s : State) : Out := .next (datapathError (advance t s) e)

/-- SCRUB_PASS: what the scrubber finds, one error after another (R175). -/
def execScrubPass (t : Nat) (errors : List ErrorFound) (s : State) : Out := .next (errors.foldl datapathError (advance t s))

/-- MAP_ENTRY_REWRITE: Teller rewrites the entries from its working store (R174). -/
def execMapEntryRewrite (t : Nat) (s : State) : Out :=
  let s1 := advance t s
  if tellerRuns s1 = false ∨ s1.protect.badEntries = [] then .next s1
  else .next (setFlag R.FXM_INT_STAT 3 (bumpBy R.FXM_CNT_REWRITE s1.protect.badEntries.length (modProtect (fun p => { p with badEntries := [] }) s1)))

/-- FAULT_HANDOFF: the oldest site handed over; a mapper engine fails for cause 2 (R176, R325), no other block names a handling. -/
def execFaultHandoff (t : Nat) (s : State) : Out :=
  let s1 := advance t s
  match s1.protect.handoffs with
  | [] => .next s1
  | h :: r =>
    let s2 := modProtect (fun p => { p with handoffs := r }) s1
    .next (if h.1 = 1 ∧ h.2.1 ≠ 1 then engineFail h.2.2 2 s2 else s2)

end Sys2Proof.Machine
end

