-- ==== Sys2Proof/Machine/Frame.lean ====
section
/-! DEFINITION. Frame boundaries and raster frames (R40, R41, R78, R251): what every stage does at F(k). -/

namespace Sys2Proof.Machine

/-- CANVAS_LINE_DONE: the line's pixels go to the raster generator, and mapper engines that waited for it go on (R239, R256, R313). -/
def execCanvasLineDone (t : Nat) (line : Nat) (accepted : Bool) (s : State) : Out := .next (waitsEnd (lineDone line accepted (advance t s)))

/-! Armed copies of the fixture map (R293, R304). -/

/-- One copy armed through FXM_COMMIT, at F(k): the shadows come into force for frame k − 1 on; a copy later than its tag names is flagged. -/
def fxmCopy (k : Int) (s : State) (a : Int × Int) : State :=
  let old := s.cfgB
  let s1 := copyB (k - 1) s
  let s2 := unitsFollow (pktConfigure old (if s1.cfgB = old then s1 else lneConfigure old (k - 1) s1))
  let s3 := modFxm (fun m => { m with activeTag := BitVec.ofInt 32 a.1 }) s2
  if a.1 + 1 < a.2 then setFlag R.FXM_INT_STAT 0 s3 else s3

/-- The copies due at F(k). -/
def fxmCopies (k : Int) (s : State) : State :=
  let due := s.fxm.armed.filter (fun a => decide (a.2 ≤ k))
  due.foldl (fxmCopy k) (modFxm (fun m => { m with armed := m.armed.filter (fun a => !decide (a.2 ≤ k)) }) s)

/-! The zones of a frame (R125, R147, R271, R274). -/

/-- A zone that the configuration of frame k enables takes part from that frame on. -/
def enterZones (k : Int) (s : State) : State :=
  (zonesOn s.cfgA).foldl (fun x z => if (aFind x.alm.release z).isSome then x else moveRelease z k x) s

/-- A zone that no configuration in force enables leaves the release list once its earlier frames are judged. -/
def leaveZones (k : Int) (s : State) : State :=
  modAlm (fun a => { a with release := a.release.filter (fun e => zoneEnabled s.cfgA e.1 || zoneEnabled s.cfgB e.1 || decide (e.2.k < k)) }) s

/-- Slots in use for zones' frames whose data is not yet all delivered, in units of 64 KiB (R128). -/
def slotsUsed (s : State) : Nat :=
  ((s.pool.frames.filter (fun f => decide (s.time.st64 < syncAt s f.zone f.k - commitLead s))).map (fun f => slotUnits (zonePixels f.cfg f.zone))).sum

/-- Zones of frame k that find no free slot are skipped (R147), the last zones first to lose (DESIGN CHOICE, log entry 9). The run is reported when the
zone's next window opens after it (R126). -/
def findSlots (k : Int) (zs : List Nat) (used : Nat) (s : State) : State :=
  match zs with
  | [] => s
  | z :: r =>
    let n := slotUnits (zonePixels s.cfgB z)
    if used + n ≤ s.alm.poolMib * 16 then findSlots k r (used + n) s
    else findSlots k r used (traceOf 1 255 3 z 0 k (windowAt s z k) (joinRun z k (skipFrames z k 1 s)))

/-- Zones whose frame k is not sent: shed, or not enabled; one shed dark sends its frame of zeros. Then the slots (R274). -/
def frameZones (k : Int) (s : State) : State :=
  let none_ := (aKeys s.alm.release).filter (fun z => !zoneEnabled s.cfgB z || (isShed s z && !s.fxm.darkDue.contains z))
  let s1 := modPool (fun p => { p with unsent := p.unsent.filter (fun u => decide (k < u.2 + 486)) }) s
  let s2 := none_.foldl (unsentZone k) s1
  findSlots k ((zonesOn s.cfgB).filter (fun z => mapsZone s s.cfgB z k && !isShed s z)) (slotsUsed s2) s2

/-! F(k) (R78). -/

/-- The end of frame k − 1: its configuration reaches the map and the mapping of that frame starts with the canvas composed for it (R40, R312, R345). A
frame that show time did not reach is not processed (R81). -/
def mapFrame (k : Int) (canvas : Option Nat) (tests : List (Nat × Nat)) (s : State) : State :=
  if k - 1 ≤ s.time.startK then s else mapStart (k - 1) canvas tests (frameZones (k - 1) (phoSnapshot (k - 1) s))

/-- The Almanac's timers of frame k: the next boundary's work, and with the pair the Escrow record after F(k + 2) (R109, R532). -/
def frameTimers (k : Int) (s : State) : State :=
  let s1 := insertTimer ⟨frameAt s (k + 1), .frameWork (k + 1), false, 0, false, 0⟩ s
  if pairOn s then insertTimer ⟨frameAt s (k + 2), .escrowEnd k, false, 0, false, 0⟩ s1 else s1

/-- A packet or frame that can hold a word in error still waits at its output controller: lane frames, a flow's packets, a port's DMX frame (R172). -/
def outputWaits (s : State) (b : Nat × Nat × Nat) : Bool :=
  if b.1 ≠ 6 then (laneOf s b.2.1).jobs != [] || hasWork s (.lanePixels b.2.1)
  else if b.2.1 < 65536 then hasWork s (.flow b.2.1)
  else
    let p := b.2.1 - 65536
    hasWork s (.dmxFrame p) || s.alm.armed.any (fun a => a.output == .dmx p) || s.alm.launch.any (fun e => e.kind == .dmxBreak p)

/-- Words in error of the frame that ends are forgotten, but those of packets and frames that are still to be sent (R172). -/
def forgetErrors (s : State) : State :=
  modProtect (fun p => { p with badOutputs := p.badOutputs.filter (outputWaits s), badTiles := if s.cmp.complete then [] else p.badTiles }) s

/-- Everything placed at F(k), k the boundary that show time has just reached; `tests` the CRCs of the engines' test tiles (R329). -/
def frameWork (k : Int) (tests : List (Nat × Nat)) (s : State) : State :=
  let canvas := (newestCanvas s).map Prod.fst
  let s1 := frameRas k (frameCmp k (frameVin k (configB k (configA k (forgetErrors s)))))
  let s2 := mapFrame k canvas tests (leaveZones k (enterZones k (applyShed k (fxmCopies k s1))))
  changeGo true (kick (dramWake (radioSlots (frameTimers k (sendEndings s2)))))

/-- FRAME_BOUNDARY: show time reaches the next boundary, where it runs. -/
def execFrameBoundary (tests : List (Nat × Nat)) (s : State) : Out :=
  if s.time.running then
    let s1 := frameTime s
    .next (frameWork s1.time.fcount tests s1)
  else .next s

/-! Raster frames (R116, R250, R251). -/

/-- A raster-line cue of a frame that has ended without its line fires now, flagged (R116). -/
def skipLine (r : Int) (at_ : Int) (c : Cue) : Cue :=
  if c.basis = 2 ∧ c.due = none ∧ c.when_ ≤ r then { c with due := some at_, lineSkipped := true } else c

/-- RASTER_FRAME_START at the instant that the raster generator has set for it. -/
def execRasterFrameStart (s : State) : Out :=
  if rasStartDue s then
    let s1 := reach s.ras.next s
    let s2 := if s1.ras.fresh then s1
      else modAlm (fun a => { a with cues := a.cues.map (skipLine s1.ras.r s1.ras.next) }) s1
    .next (rasFrameStart s2)
  else .next s

/-- A raster-line cue is due at the start of its line (R114). -/
def matchLine (r : Int) (line : Nat) (at_ : Int) (c : Cue) : Cue :=
  if c.basis = 2 ∧ c.due = none ∧ c.when_ = r ∧ c.sub = line then { c with due := some at_ } else c

/-- RASTER_LINE_MATCH: active line `line` of the frame in progress starts. -/
def execRasterLineMatch (line : Nat) (s : State) : Out :=
  match rasLineAt s line with
  | some at_ =>
    if s.time.running = false ∨ s.ras.fresh = true ∨ s.ras.next ≤ at_ then .next s
    else
      let s1 := reach at_ s
      .next (rasLine line (modAlm (fun a => { a with cues := a.cues.map (matchLine s1.ras.r line at_) }) s1))
  | none => .next s

end Sys2Proof.Machine
end

