-- ==== Sys2Proof/Machine/Tick.lean ====
section
/-! DEFINITION. The Almanac at work (R107 to R142): the tick, windows, SYNCs, launches, and the dispatch of ready work. -/

namespace Sys2Proof.Machine

/-- The first tick at or after an instant (R107). -/
def tickFrom (x : Int) : Int := (x + 999) / 1000 * 1000

/-- The advance of an output's class (R130). -/
def advanceOf (s : State) (o : Output) : Int :=
  match o with
  | .lane _ => bits (reg s R.ALM_ADV_LANE) 19 0
  | .show _ => bits (reg s R.ALM_ADV_SHOW) 19 0
  | .dmx _ => bits (reg s R.ALM_ADV_DMX) 19 0
  | .radio _ => bits (reg s R.ALM_ADV_RADIO) 19 0

/-- A late dispatch or launch is counted (R112, R113). -/
def noteLate (late : Bool) (s : State) : State := if late then setFlag R.ALM_INT_STAT 0 (bump R.ALM_CNT_LATE s) else s

/-! Windows (R125, R126, R147, R530, R591). -/

/-- The window of frame k opens: runs skipped before it are reported, the frame's work is released, and its SYNC goes on the list. -/
def reportRuns (z : Nat) (k at_ : Int) (s : State) : State :=
  let l := aGet s.alm.skipRun z []
  let rest := l.filter (fun r => decide (k ≤ r.2))
  (l.filter (fun r => decide (r.2 < k))).foldl (fun x r => skipNotice z r.1 r.2 at_ x)
    (modAlm (fun a => { a with skipRun := if rest = [] then aDel a.skipRun z else aPut a.skipRun z rest }) s)

def openZone (late : Bool) (z : Nat) (k : Int) (s : State) : State :=
  let at_ := syncAt s z k
  let s1 := reportRuns z k at_ s
  let s2 := nextOrder (modAlm (fun a => { a with lastSync := aPut a.lastSync z at_, sync := aPut a.sync z ⟨at_, k, a.order⟩ }) s1)
  windowOpen z k (traceOf 1 255 (bNat late) z 0 k (windowAt s z k) (noteLate late (moveRelease z (k + 1) s2)))

/-- A frame whose window falls in a hold is skipped; the run is reported when the next window opens (R126). -/
def holdFrame (z : Nat) (k : Int) (s : State) : State :=
  traceOf 1 255 3 z 0 k (windowAt s z k) (joinRun z k (moveRelease z (k + 1) (skipFrames z k 1 s)))

/-- A window before L_z is refused, with every later frame whose window lies before it: one run, noticed at once. -/
def refuseWindow (z : Nat) (k last : Int) (s : State) : State :=
  let n := stillToSkip 512 s z k last
  let next := k + Int.ofNat n
  skipNotice z n k (syncAt s z next) (traceOf 1 255 3 z 0 k (windowAt s z k) (moveRelease z next (skipFrames z k n s)))

/-- The judgement of a zone's release entry that is due (R125): a frame that this device does not send is passed over. -/
def judgeFrame (tick : Int) (z : Nat) (k : Int) (s : State) : State :=
  let w := windowAt s z k
  if s.pool.unsent.contains (z, k) = true ∨ drives s (frameCfg s z k) z = false then moveRelease z (k + 1) s
  else if s.power.hold then holdFrame z k s
  else
    let late := decide (tickFrom w < tick)
    match aFind s.alm.lastSync z with
    | some l => if w < l then refuseWindow z k l s else openZone late z k s
    | none => openZone late z k s

/-! SYNC (R109, R110, R130, R132, R591). -/

/-- Lanes and transceivers that carry frame k of a zone: the outputs that its SYNC entry arms (R130). -/
def carriers (s : State) (z : Nat) (k : Int) : List Output :=
  let r := frameCfg s z k
  let radio (x : Nat) : Bool := xOn s x && (zoneFixtures r z).any (fun e => (routeClass e.2 == 6 || routeClass e.2 == 7) && nBit (entryMask r (entryKey e.2)) x)
  ((List.range 32).filter (fun l => laneOn r l && (laneRuns r l).any (fun x => x.1 == z))).map Output.lane ++
    ((List.range 2).filter radio).map Output.radio

/-- An output is armed for a zone's frame; instants less than 16 ns apart on it make one launch at the earlier (R132). One already armed for it stays.
One armed after its instant acts at once, late (R113). -/
def armOutput (z : Nat) (k at_ : Int) (s : State) (o : Output) : State :=
  let mine (a : Armed) : Bool := a.output == o && a.zones.contains (z, k)
  let near (a : Armed) : Bool := a.output == o && decide ((a.at_ - at_).natAbs < 16)
  if s.alm.armed.any mine then s
  else match s.alm.armed.find? near with
    | some a =>
      let b : Armed := { a with at_ := min a.at_ at_, zones := a.zones ++ [(z, k)] }
      let s1 := modAlm (fun m => { m with armed := m.armed.map (fun x => if x = a then b else x) }) s
      if a.at_ = at_ then s1 else mergeNote z k at_ s1
    | none => noteLate (decide (at_ < s.time.st64)) (modAlm (fun m => { m with armed := m.armed ++ [⟨o, at_, [(z, k)]⟩] }) s)

/-- Frame k of a zone has launched on its last output: constraints on it hold, and its slot is free once its data can be sent no more (R44, R120,
R128). -/
def launched (s : State) (zk : Nat × Int) : State :=
  if toLaunch s zk.1 zk.2 then s
  else
    let s1 := modAlm (fun a => { a with syncDone := aPut a.syncDone zk.1 zk.2 }) s
    if s.time.st64 < syncAt s zk.1 zk.2 - commitLead s then s1 else poolFree zk.1 zk.2 s1

/-- A SYNC entry is dispatched: every lane and transceiver that carries the zone is armed for its own instant; show ports and DMX ports have their
own entries on the launch list. A zone that no output carries has launched. -/
def dispatchSync (tick : Int) (z : Nat) (e : SyncEntry) (s : State) : State :=
  let os := carriers s z e.k
  let slow := decide (tickFrom (e.at_ - advanceMax s - launchLead s) < tick)
  let late := slow || os.any (fun o => decide (e.at_ - advanceOf s o < s.time.st64))
  let s1 := modAlm (fun a => { a with sync := aDel a.sync z }) (noteLate slow s)
  let s2 := traceRec ⟨e.at_, clampI 0 2147483647 (st64 s1 - e.at_), unsignedOf 32 e.k, z, 0, 255, 0, bNat late, 0, 0⟩ s1
  if os = [] ∧ toLaunch s2 z e.k = false then launched s2 (z, e.k) else os.foldl (fun x o => armOutput z e.k (e.at_ - advanceOf x o) x o) s2

/-- In a hold nothing is launched: a frame whose SYNC falls in it is skipped, with what it left on the launch list (R591). -/
def holdSync (z : Nat) (k at_ : Int) (s : State) : State :=
  let s1 := modAlm (fun a => { a with
    sync := match aFind a.sync z with
      | some e => if e.k = k then aDel a.sync z else a.sync
      | none => a.sync
    launch := (a.launch.map (fun e => { e with zones := e.zones.filter (· != (z, k)) })).filter (fun e => e.zones != [] || launchTrace e.kind == (5, 11, (launchTrace e.kind).2.2)) }) s
  traceRec ⟨at_, clampI 0 2147483647 (st64 s - at_), unsignedOf 32 k, z, 0, 255, 0, 3, 0, 0⟩ (joinRun z k (skipFrames z k 1 s1))

/-! The order of R133. -/

/-- What comes first: a SYNC entry of the lists as they were before the tick, or a release entry that is due. -/
inductive FirstItem where
  | sync (z : Nat) (e : SyncEntry)
  | release (z : Nat) (k : Int)
deriving DecidableEq, Repr

def earlier (a b : (Int × Nat × Nat) × FirstItem) : Bool :=
  decide (a.1.1 < b.1.1) || (a.1.1 == b.1.1 && (decide (a.1.2.1 < b.1.2.1) || (a.1.2.1 == b.1.2.1 && decide (a.1.2.2 < b.1.2.2))))

/-- The next SYNC or release entry of a tick (R112, R133). `syncs` are the due SYNC entries left. -/
def nextFirst (tick : Int) (syncs : SMap SyncEntry) (s : State) : Option FirstItem :=
  let a := syncs.map (fun e => ((syncDue s e.2, 0, e.2.order), FirstItem.sync e.1 e.2))
  let b := (s.alm.release.filter (fun e => isDue tick (windowAt s e.1 e.2.k))).map (fun e => ((windowAt s e.1 e.2.k, 1, e.2.order), FirstItem.release e.1 e.2.k))
  ((a ++ b).foldl (fun m x => match m with
    | none => some x
    | some y => if earlier x y then some x else some y) none).map Prod.snd

/-- SYNC and release entries of a tick, one after the other (R112, R125, R133). -/
def firstWork (fuel : Nat) (tick : Int) (syncs : SMap SyncEntry) (s : State) : State :=
  match fuel with
  | 0 => s
  | n + 1 =>
    match nextFirst tick syncs s with
    | none => s
    | some (.sync z e) => firstWork n tick (aDel syncs z) (dispatchSync tick z e s)
    | some (.release z k) => firstWork n tick syncs (judgeFrame tick z k s)

/-- The SYNC entries due at the tick; none while a hold is in force. -/
def dueSyncs (tick : Int) (s : State) : SMap SyncEntry :=
  if s.power.hold then [] else s.alm.sync.filter (fun e => isDue tick (syncDue s e.2))

/-- Frames whose SYNC or launch instant has come in a hold. -/
def holdSyncs (tick : Int) (s : State) : State :=
  if s.power.hold then
    let a := (s.alm.sync.filter (fun e => isDue tick e.2.at_)).map (fun e => (e.1, e.2.k, e.2.at_))
    let b := (s.alm.launch.filter (fun e => isDue tick e.at_)).flatMap (fun e => e.zones.map (fun z => (z.1, z.2, e.at_)))
    let c := b.filter (fun x => !a.any (fun y => y.1 == x.1 && y.2.1 == x.2.1))
    (a ++ c).foldl (fun x e => if toLaunch x e.1 e.2.1 then holdSync e.1 e.2.1 e.2.2 x else x) s
  else s

/-! Launch, timer and cue entries (R109 to R117, R133). -/

/-- An entry of one of the three lists that share the limit of R112. -/
inductive DueItem where
  | launch (e : LaunchEntry)
  | timer (e : TimerEntry)
  | cue (c : Cue)
deriving DecidableEq, Repr

/-- What R133 orders by: due time, list, priority, order of insertion. -/
def itemKey (s : State) (i : DueItem) : Int × Nat × Nat × Nat :=
  match i with
  | .launch e => (e.at_ - launchLead s, 2, e.priority, e.order)
  | .timer e => (e.due, 3, 0, e.order)
  | .cue c => (c.due.getD 0, 4, c.priority, c.order)

def itemBefore (s : State) (a b : DueItem) : Bool :=
  let (d, l, p, o) := itemKey s a
  let (d', l', p', o') := itemKey s b
  decide (d < d') || (d == d' && (decide (l < l') || (l == l' && (decide (p < p') || (p == p' && decide (o < o'))))))

def insertItem (s : State) (i : DueItem) (l : List DueItem) : List DueItem :=
  match l with
  | [] => [i]
  | y :: t => if itemBefore s i y then i :: y :: t else y :: insertItem s i t

/-- A launch entry is due the launch lead before its instant; in a hold only radio slots are (R109, R591). -/
def launchDue (tick : Int) (s : State) (e : LaunchEntry) : Bool :=
  isDue tick (e.at_ - launchLead s) && decide (e.since < tick) && (!s.power.hold || e.zones == [])

/-- A cue is due; one inserted in the clock of the tick counts as inserted after its dispatch (R113). -/
def cueIsDue (tick : Int) (c : Cue) : Bool :=
  match c.due with
  | some d => isDue tick d && decide (c.since < tick)
  | none => false

/-- The due entries in their order; host cues fire on the device that leads (R524). -/
def dueItems (tick : Int) (s : State) : List DueItem :=
  let launches := (s.alm.launch.filter (launchDue tick s)).map DueItem.launch
  let timers := (s.alm.timers.filter (fun e => isDue tick e.due && decide (e.since < tick))).map DueItem.timer
  let cues := if leads s then (s.alm.cues.filter (cueIsDue tick)).map DueItem.cue else []
  (launches ++ timers ++ cues).foldl (fun l i => insertItem s i l) []

/-- An entry beyond the limit of R112 waits for the next tick, marked late. -/
def deferItem (s : State) (i : DueItem) : State :=
  match i with
  | .launch e => modAlm (fun a => { a with launch := a.launch.map (fun x => if x = e then { x with late := true } else x) }) s
  | .timer e => modAlm (fun a => { a with timers := a.timers.map (fun x => if x = e then { x with late := true } else x) }) s
  | .cue c => modAlm (fun a => { a with cues := a.cues.map (fun x => if x = c then { x with late := true } else x) }) s

/-- A launch entry is dispatched: sync packets go to their launch slots, a DMX port and a radio slot are armed for the instant (R110). -/
def fireLaunch (e : LaunchEntry) (s : State) : State :=
  let late := e.late || decide (e.at_ < s.time.st64)
  let s1 := noteLate late (modAlm (fun a => { a with launch := a.launch.filter (· != e) }) s)
  let (c, t, o) := launchTrace e.kind
  let frame := (e.zones.head?.map Prod.snd).getD 0
  let s2 := traceRec ⟨e.at_, clampI 0 2147483647 (st64 s - e.at_), unsignedOf 32 frame, o, c, t, e.priority, bNat late, 0, 0⟩ s1
  match e.kind with
  | .packet p => armSync p e.zones e.at_ (modAlm (fun a => { a with armed := a.armed ++ [⟨launchOf e.kind, e.at_, e.zones⟩] }) s2)
  | .dmxBreak _ => modAlm (fun a => { a with armed := a.armed ++ [⟨launchOf e.kind, e.at_, e.zones⟩] }) s2
  | .radioSlot x => modXcvr x (fun y => { y with armed := some e.at_ }) s2

/-- A timer entry; the one of the Escrow end of frame makes its record due (R533). That one is traced as kind 8 when it fires, as kind 7 where the list
refuses it (DESIGN CHOICE, log entry 9). -/
def fireTimer (e : TimerEntry) (s : State) : State :=
  let s1 := noteLate e.late (modAlm (fun a => { a with timers := a.timers.filter (· != e) }) s)
  match e.kind with
  | .frameWork k => traceOf 7 255 (bNat e.late) 0 0 k e.due s1
  | .escrowEnd k => traceOf 8 12 (bNat e.late) 0 0 k e.due (modEsc (fun x => { x with writeDue := some k }) s1)
  | .teller n => traceOf 7 13 (bNat e.late) (n % 65536) 0 0 e.due s1

/-- The action of a cue that fired is a descriptor of the cue's priority (R123, R143). -/
def cueAct (c : Cue) (s : State) : State :=
  if c.action = 1 then insertDescriptor ⟨.cueAction c.argument c.cueId c.slot (st64 s), 0, 0, c.priority, 13, [], none, none, false, 0⟩ s else s

/-- A cue fires: CUE_FIRED, and its action (R111, R117, R143, R145, R512, R541). -/
def fireCue (c : Cue) (s : State) : State :=
  let unsent := c.action == 2 && cueMade s c 0 + cueMade s c 1 == 0
  let absent := c.basis == 3 && (mainsNow s).isNone
  let due := c.due.getD 0
  let s1 := noteLate c.late (modAlm (fun a => { a with cues := a.cues.filter (fun x => x.cueId != c.cueId), descriptors := dropCue c.cueId a.descriptors }) s)
  let s2 := if unsent then setFlag R.RAD_INT_STAT 1 (bump R.RAD_CNT_CUE_LATE s1) else s1
  let s3 := modRad (fun m => { m with cueSent := aDel (aDel m.cueSent (cueKey c 0)) (cueKey c 1), cuesIn := m.cuesIn.filter (· != c.cueId) }) s2
  let s4 := traceOf (cueKind c) (cueTarget c) (bNat c.late) c.slot (c.priority + 32 * bNat c.lineSkipped + 64 * bNat absent) 0 due s3
  cueAct c (notify 0x8141 24 [c.cueId, c.basis, bNat (c.late || unsent) + 2 * bNat absent + 4 * bNat c.lineSkipped + 8 * bNat c.replay, due, st64 s] s4)

def fireItem (s : State) (i : DueItem) : State :=
  match i with
  | .launch e => fireLaunch e s
  | .timer e => fireTimer e s
  | .cue c => fireCue c s

/-- The tick's SYNC and release entries (R112, R133). -/
def tickFirst (tick : Int) (s : State) : State :=
  firstWork 262144 tick (dueSyncs tick s) (holdSyncs tick (modAlm (fun a => { a with lastTick := some tick }) s))

/-- The tick's dispatch: SYNC and release entries, then at most 512 of the other lists (R112, R133). -/
def tickWork (tick : Int) (s : State) : State :=
  let s1 := tickFirst tick s
  let items := dueItems tick s1
  (items.drop 512).foldl deferItem ((items.take 512).foldl fireItem s1)

/-- ALMANAC_TICK: the tick at ST64 `tick`, a whole number of 1,000 ns (R106, R107). -/
def execAlmanacTick (t : Nat) (tick : Int) (s : State) : Out :=
  let s1 := advance t s
  if s1.time.running = false ∨ tick % 1000 ≠ 0 ∨ domainUp s1 7 = false then .next s1 else .next (tickWork tick (reach tick s1))

/-- The tick at this very instant is still to come and dispatches the cue: a cancel that arrives with it is processed after it (R134). -/
def firesNow (s : State) (q : Cue) : Bool :=
  s.time.running && s.time.st64 % 1000 == 0 && s.alm.lastTick != some s.time.st64 && domainUp s 7 &&
    ((dueItems s.time.st64 s).take 512).contains (.cue q)

/-- CUE_CANCEL (R134, R143). A radio cue already transmitted only loses its remaining repetitions (R512). -/
def execCueCancel (c : Call) (cueId : Nat) (s : State) : Out :=
  command 0x0141 c s fun s =>
    match s.alm.cues.find? (fun q => q.cueId == cueId) with
    | none => refuse .notFound s
    | some q =>
      if firesNow s q then refuse .notFound s
      else if q.action = 2 ∧ (0 < aGet s.rad.cueSent (2 * cueId) 0 ∨ 0 < aGet s.rad.cueSent (2 * cueId + 1) 0) then
        refuse .notFound (modRad (fun r => { r with cueSent := aPut (aPut r.cueSent (2 * cueId) 65536) (2 * cueId + 1) 65536 }) s)
      else accept (traceOf (cueKind q) (cueTarget q) 5 q.slot q.priority 0 (q.due.getD 0)
        (modAlm (fun a => { a with cues := a.cues.filter (fun x => x.cueId != cueId), descriptors := dropCue cueId a.descriptors }) s))

/-! Launches (R110, R389, R481). -/

/-- An armed comparator acts: a lane's SYNC set, a DMX break; sync packets leave their launch slots by themselves, and nodes apply their values by
themselves. -/
def launchOutput (s : State) (a : Armed) : State :=
  let s1 := match a.output with
    | .lane l => laneSync l (a.zones.map Prod.fst) a.at_ s
    | .show _ | .radio _ => s
    | .dmx p => dmxBreak p s
  a.zones.foldl launched s1

/-- Comparators whose instant has come, earlier first. -/
def insertArmed (a : Armed) (l : List Armed) : List Armed :=
  match l with
  | [] => [a]
  | y :: t => if a.at_ < y.at_ then a :: y :: t else y :: insertArmed a t

/-- OUTPUT_LAUNCH: armed outputs act at their instants. -/
def execOutputLaunch (t : Nat) (s : State) : Out :=
  let s1 := advance t s
  let due := (s1.alm.armed.filter (fun a => decide (a.at_ ≤ s1.time.st64))).foldl (fun l a => insertArmed a l) []
  if s1.time.running = false then .next s1
  else .next (due.foldl launchOutput (modAlm (fun m => { m with armed := m.armed.filter (fun a => !decide (a.at_ ≤ s1.time.st64)) }) s1))

/-! Ready work (R119, R122). -/

/-- Descriptors past their deadline leave, and their work is late. -/
def discardLate (s : State) : State := (s.alm.descriptors.filter (isPast s)).foldl lateWork (discardPast s)

/-- DEADLINE_DISCARD: the Almanac's work, and frames that wait for room in a transmit queue (R122, R437). -/
def execDeadlineDiscard (t : Nat) (s : State) : Out := .next (refillAll (readyAll (discardLate (advance t s))))

/-- A producer refused by a full pool or by a full transmit queue tries again, or discards at the deadline (R135, R437). -/
def execDescriptorRetry (t : Nat) (s : State) : Out :=
  let s1 := refillAll (advance t s)
  match s1.alm.descriptorRetry with
  | d :: r =>
    let s2 := modAlm (fun a => { a with descriptorRetry := r }) s1
    if isPast s1 d then .next (lateWork (discardDescriptor s2 d) d)
    else if poolRoom s1 d.priority then .next (placeDescriptor d s2)
    else .next (refuseDescriptor d s1)
  | [] => .next s1

/-- An engine executes a descriptor. -/
def doWork (d : Descriptor) (s : State) : State :=
  match d.work with
  | .flow f => flowWork f d s
  | .lanePixels l => laneTake l d.zone d.frame s
  | .dmxFrame p => dmxWork p d s
  | .escrowCopy => escrowSend s
  | .rdm p => rdmGrant p s
  | .radioCue id _ => modRad (fun m => { m with cuesIn := m.cuesIn ++ [id] }) s
  | .cueAction stage id _ at_ => applyStage stage id at_ s
  | .laneControl l => ctrlTake l s
  | .housekeeping _ => s

/-- The best ready descriptor goes to its target, and constraints on its work hold from now on. Its trace record is due at the instant at which it
joined its ready list (DESIGN CHOICE, log entry 9). -/
def dispatchWork (d : Descriptor) (s : State) : State :=
  let wait := clampN 0 4294967295 (s.time.st64 - d.ready.getD s.time.st64).toNat
  let s1 := modAlm (fun a => { a with descriptors := a.descriptors.filter (· != d) }) s
  let s2 := traceRec ⟨d.ready.getD 0, 0, unsignedOf 32 d.frame, workObject d.work, workKind d.work, d.target, prioByte s d, 0, 0, wait⟩ s1
  readyAll (workEnded d false (doWork d s2))

/-- DESCRIPTOR_DISPATCH: the targets in `accepting`, numbered as R139 numbers them, can take work. -/
def execDescriptorDispatch (t : Nat) (accepting : List Nat) (s : State) : Out :=
  let s1 := discardLate (advance t s)
  match bestReady accepting s1.alm.descriptors with
  | some d => .next (dispatchWork d s1)
  | none => .next s1

end Sys2Proof.Machine
end

