-- ==== Sys2Proof/Machine/Views.lean ====
section
/-! DEFINITION. What a read of a register returns (R16 to R22): stored registers, and registers that show a block's state. The views of the other
blocks are in their own files. -/

namespace Sys2Proof.Machine

/-- A register of the map cluster has one home, whichever half shows it (R334). -/
def homeAddr (a : Nat) : Nat := if clusterReg a ∧ 0x8000 ≤ pageOff a then a - 0x8000 else a

/-- SYS_IDENT (R11). -/
def viewSys (s : State) (a : Nat) : Option Word :=
  if a = R.SYS_IDENT then some (match s.part with | .rk9200 => 0x92001101 | .rk9210 => 0x92101100) else none

/-! TIM (R104). -/

/-- TIM_MAINS: the last valid period, and the present phase in 1/65,536 of it (R75). -/
def mainsWord (s : State) : Word :=
  match mainsNow s with
  | some (at_, p, _) => BitVec.ofNat 32 (p % 65536 * 65536 + (s.time.now - at_) * 65536 / max 1 (p * 1000) % 65536)
  | none => 0

/-- A time base's registers, by offset. -/
def viewTb (s : State) (i o : Nat) : Option Word :=
  let b := tbOf s i
  let sat (x : Int) : Option Word := some (BitVec.ofInt 32 (clampI (-2147483648) 2147483647 x))
  match o with
  | 0x04 => some (BitVec.ofNat 32 (b.stepId % 65536 * 65536 + bNat (b.b.locked && abWithin s i) * 32 + bNat (b.a.locked && hasInstances s i) * 16 + bNat b.activeB * 8 +
      tbStateCode b.state))
  | 0x08 => some (loWord (b.ns / 1000000000))
  | 0x0C => some (BitVec.ofNat 32 (unsignedOf 16 (b.ns / 1000000000 / 4294967296)))
  | 0x10 => some (loWord (b.ns % 1000000000))
  | 0x14 => sat b.offset
  | 0x18 => some (BitVec.ofInt 32 b.freq)
  | 0x1C => sat (abOffset b)
  | 0x24 => some (BitVec.ofNat 32 (activePath b).pathDelay)
  | _ => none

def viewTim (s : State) (a : Nat) : Option Word :=
  let o := pageOff a
  match o with
  | 0x000 => some (BitVec.ofNat 32 (bNat s.time.hwmValid * 8 + bNat s.time.running * 4 + selTb s))
  | 0x010 => some (loWord (st64 s))
  | 0x014 => some (hiWord (st64 s))
  | 0x018 => some (loWord (corrC s))
  | 0x01C => some (hiWord (corrC s))
  | 0x020 => some (loWord s.time.epochAdj)
  | 0x024 => some (hiWord s.time.epochAdj)
  | 0x028 => some (loWord s.time.hwm)
  | 0x02C => some (hiWord s.time.hwm)
  | 0x040 => some (loWord s.time.fcount)
  | 0x044 => some (hiWord s.time.fcount)
  | 0x048 => some (mainsWord s)
  | _ => if 0x100 ≤ o ∧ o < 0x500 then viewTb s ((o - 0x100) / 0x100) (o % 0x100) else none

/-! ALM (R146, R147). -/

/-- Word `n` of a trace record (R139). -/
def traceWord (r : TraceRec) (n : Nat) : Word :=
  match n with
  | 0 => loWord r.due
  | 1 => hiWord r.due
  | 2 => BitVec.ofInt 32 r.late
  | 3 => BitVec.ofNat 32 r.frame
  | 4 => BitVec.ofNat 32 (r.object % 65536 + r.kind % 256 * 65536 + r.target % 256 * 16777216)
  | 5 => BitVec.ofNat 32 (r.prio % 256 + r.outcome % 256 * 256 + r.seq % 65536 * 65536)
  | 6 => BitVec.ofNat 32 r.wait
  | _ => 0

/-- Due time of the earliest entry of the five delay lists. -/
def nextDue (s : State) : Int :=
  let a := s.alm
  let all := a.sync.map (fun e => syncDue s e.2) ++ a.release.map (fun e => windowAt s e.1 e.2.k) ++ a.launch.map (fun e => e.at_ - launchLead s) ++
    a.cues.filterMap Cue.due ++ a.timers.map TimerEntry.due
  match all with
  | [] => 0
  | x :: r => r.foldl min x

/-- ALM_Zz_DELAY: a delay that a diagnostic write left in the shadow; else that of the earliest accepted commit that changes it and waits; else the
one in force (R147). -/
def delayShown (s : State) (z : Nat) : Nat :=
  match aFind s.alm.delayShadow z with
  | some d => d
  | none =>
    match ((aGet s.alm.delays z []).filter (fun d => decide (s.time.fcount < d.1))).getLast? with
    | some d => d.2
    | none =>
      let held := zoneDelay s z s.time.fcount
      (((s.teller.accepted.filter (fun _ => !s.time.running)).map (fun a => (zoneOf a.cfg z).delay)).find? (· != held)).getD held

def viewAlmZone (s : State) (z o : Nat) : Option Word :=
  match o with
  | 0x0 => some (BitVec.ofNat 32 (delayShown s z))
  | 0x4 => some (setBits (reg s (R.ALM_Zz_SLOTS z)) 15 0
      (if zoneEnabled s.cfgB z || framesLeft s z then slotsHeld s z else 0))
  | 0x8 => some (loWord (aGet s.alm.lastSync z 0))
  | 0xC => some (hiWord (aGet s.alm.lastSync z 0))
  | _ => none

def viewAlm (s : State) (a : Nat) : Option Word :=
  let w (n : Nat) : Option Word := some (BitVec.ofNat 32 n)
  let o := pageOff a
  let m := s.alm
  match o with
  | 0x000 => some (setBits (reg s R.ALM_CTRL) 0 0 (bNat s.time.running))
  | 0x01C => if s.part = .rk9210 then some 0 else none
  | 0x020 => w (m.poolMib * 16)
  | 0x024 => w (poolNeed s s.record)
  | 0x030 => w (m.cues.length % 65536 * 65536 + m.launch.length % 65536)
  | 0x034 => w (m.descriptors.length % 65536 * 65536 + m.timers.length % 65536)
  | 0x070 => some (setBits (reg s R.ALM_TRACE_CTRL) 0 0 (bNat m.traceFrozen))
  | 0x078 => w (((m.traceTrigger.map TraceTrigger.index).getD 0) * 65536 + bNat m.traceWrapped * 4096 + m.traceWr)
  | 0x0C0 => some (loWord (nextDue s))
  | 0x0C4 => some (hiWord (nextDue s))
  | _ =>
    if 0x080 ≤ o ∧ o < 0x0A0 then
      some (((aFind m.trace (bits (reg s R.ALM_TRACE_IDX) 11 0)).map (fun r => traceWord r ((o - 0x080) / 4))).getD 0)
    else if 0x0A0 ≤ o ∧ o < 0x0C0 then
      w (m.descriptors.filter (fun d => d.ready.isSome && d.priority == (o - 0x0A0) / 4)).length
    else if 0x1000 ≤ o ∧ o < 0x2000 then viewAlmZone s ((o - 0x1000) / 0x10) (o % 0x10)
    else none

/-! FIF (R180). -/

def viewFif (s : State) (a : Nat) : Option Word :=
  let w (n : Nat) : Option Word := some (BitVec.ofNat 32 n)
  let o := pageOff a
  if o = 0x000 then w (((List.range 18).filter (fun q => (fifoOf s q).packets != 0)).map (fun q => 2 ^ q)).sum
  else if o < 0x1000 then none
  else
    let f := fifoOf s ((o - 0x1000) / 0x40)
    match (o - 0x1000) % 0x40 with
    | 0x04 => w (f.packets % 1024 * 65536 + ptrDist f.wr f.rd)
    | 0x08 => some ((fifoHead f).data.setWidth 32)
    | 0x0C => some ((f.last.data >>> 32).setWidth 32)
    | 0x10 => w (bNat f.lastPerr * 16 + f.last.tag % 16)
    | 0x14 => w (f.wr * 65536 + f.rd)
    | _ => none

/-! FXM (R304). -/

def viewFxmZone (s : State) (z o : Nat) : Option Word :=
  let w (n : Nat) : Option Word := some (BitVec.ofNat 32 n)
  match o with
  | 0x4 => w (zonePixels s.cfgB z)
  | 0x8 => w (zoneFixtures s.cfgB z).length
  | 0xC => w (bNat (isShed s z) * 2147483648 + ((zoneFixtures s.cfgB z).filter (fun e => (aFind s.fxm.stale e.1).isSome)).length % 65536)
  | _ => none

def isFixtureSet (m : ConfigMsg) : Bool :=
  match m with
  | .fixtureSet _ => true
  | _ => false

def viewFxm (s : State) (a : Nat) : Option Word :=
  let w (n : Nat) : Option Word := some (BitVec.ofNat 32 n)
  let o := pageOff a
  match o with
  | 0x000 => w (bNat (s.teller.accepted.any (fun c => c.msgs.any isFixtureSet)) * 2 + bNat (s.time.running && liveFixtures s.cfgB != []))
  | 0x004 => w (bNat (s.fxm.armed != [] || s.teller.accepted.any Accepted.composed) * 2147483648)
  | 0x00C => some s.fxm.activeTag
  | 0x010 => w (liveFixtures s.cfgB).length
  | 0x014 => w (segmentsAll s.cfgB)
  | 0x018 => w (attrsUsed s.cfgB)
  | 0x01C => w (showPixels s.cfgB)
  | 0x020 => some (loWord (s.fxm.epoch : Int))
  | 0x024 => some (hiWord (s.fxm.epoch : Int))
  | _ =>
    if 0x080 ≤ o ∧ o < 0x0C0 then
      some (entryWord (aGet s.cfgB.fixtures (bits (reg s R.FXM_ENTRY_IDX) 16 0) blankFixture) ((o - 0x080) / 4))
    else if 0x1000 ≤ o ∧ o < 0x2000 then viewFxmZone s ((o - 0x1000) / 0x10) (o % 0x10)
    else none

/-! Any register. -/

/-- The register at an address as its block shows it; none where the stored word is all there is. -/
def viewReg (s : State) (a : Nat) : Option Word :=
  match pageOf a with
  | 0x00 => viewSys s a
  | 0x01 => viewPwr s a
  | 0x02 => viewPvt s a
  | 0x03 => viewTim s a
  | 0x04 => viewAlm s a
  | 0x05 => viewChk s a
  | 0x06 => viewFif s a
  | 0x08 => viewVin s a
  | 0x10 => viewCmp s a
  | 0x14 => viewRas s a
  | 0x18 => viewFxm s a
  | 0x20 => viewMap s a
  | 0x24 => viewPho s a
  | 0x28 => viewLne s a
  | 0x2C => viewStr s a
  | 0x40 => viewPkt s a
  | 0x44 => viewDmx s a
  | 0x48 => viewRad s a
  | 0x4C => viewEsc s a
  | 0x50 => viewTlr s a
  | 0x54 => viewVlt s a
  | 0x58 => viewLgr s a
  | 0x5C => viewCal s a
  | 0x60 => viewTlr s a
  | p => if 0x30 ≤ p ∧ p ≤ 0x3A then viewMac s a else none

/-- The RAD block, where the part has none: it reads as 0 and ignores writes (R8). -/
def radAbsent (s : State) (a : Nat) : Bool := s.part == .rk9210 && pageOf a == 0x48

/-- The word a register holds for a reader; for a shadowed register the shadow (R20). -/
def regValue (s : State) (a : Nat) : Word := if radAbsent s a then 0 else (viewReg s a).getD (reg s (homeAddr a))

/-- Why a read fails: cause 0b00 no register, 0b01 its domain is off (R35, R57, R696). The RAD block of the RK9210 reads as 0 (R8). -/
def readCause (s : State) (a : Nat) : Option Nat :=
  match findReg a with
  | none => some 0
  | some _ => if domainUp s (domainOf a) then none else some 1

/-- What a read returns: 0 where it fails (R35, R57). -/
def readWord (s : State) (a : Nat) : Word := if (readCause s a).isSome then 0 else regValue s a

end Sys2Proof.Machine
end

