-- ==== Sys2Proof/Machine/Bus.lean ====
section
/-! DEFINITION. Register accesses (R16 to R22, R35, R56 to R61, R99, R577, R696): through the fabric, through BAR1, and through DIAG_READ and
DIAG_WRITE. -/

namespace Sys2Proof.Machine

/-! Failed accesses (R59, R60, R696). -/

/-- SYS_BUSERR takes a failed access; the first one's cause, write and offset stay while valid is 1. PD1 off holds nothing. -/
def busError (cause : Nat) (write : Bool) (a : Nat) (s : State) : State :=
  if domainUp s 1 = false then s
  else if bitOf (reg s R.SYS_BUSERR) 31 then bumpField R.SYS_BUSERR 27 24 1 s
  else setReg R.SYS_BUSERR (BitVec.ofNat 32 (2147483648 + cause * 536870912 + bNat write * 268435456 + 16777216 + (a - regBase) % 16777216)) s

/-- A register none of whose fields a write can change; MAC_PAIR is 0 on pages 8 to 10 (R462, R696). -/
def regFixed (a : Nat) (d : RegDesc) : Bool :=
  (d.rw == 0 && d.rws == 0 && d.w1c == 0 && d.wo == 0) || (d.base == R.MAC_PAIR 0 && decide (0x38 ≤ pageOf a))

/-- Why a write fails (R696): the first cause of 0b11, 0b00, 0b01, 0b10. A master of the fabric is never refused by mode. -/
def writeCause (s : State) (m : Master) (a : Nat) : Option Nat :=
  if regBase ≤ a ∧ pageOf a = 0x54 then some 3
  else if m = .bar1 ∧ approved s then some 3
  else match findReg a with
    | none => some 0
    | some d =>
      if domainUp s (domainOf a) = false then some 1
      else if m = .bar1 ∧ (modeIsDiag s.power.mode = false ∨ regFixed a d = true) then some 2
      else none

/-! What a written value is stored as. -/

/-- Field `hi:lo` brought into a range. -/
def clampField (w : Word) (hi lo mn mx : Nat) : Word := setBits w hi lo (max mn (min mx (bits w hi lo)))

/-- Thermal limits: none above 105 °C, shed not below warn (R600). -/
def clampLimits (w : Word) : Word :=
  let warn := min 1680 (signed 16 (bits w 15 0))
  let shed := min 1680 (signed 16 (bits w 31 16))
  limitWord warn (max warn shed)

/-- Values outside a register's range are stored as the value that its rule names (R86, R110, R124, R130, R141, R146, R228, R249, R325, R344,
R385, R393, R404, R426, R446, R452, R462, R491, R520, R549, R591, R596, R600, R671). -/
def storedAs (d : RegDesc) (w : Word) : Word :=
  if d.base = R.TIM_SLEW then clampField w 9 0 1 1000
  else if d.base = R.TIM_STEP_THRESH then clampField w 19 0 10 1000000
  else if d.base = R.ALM_SYNC_OFFSET ∨ d.base = R.ALM_ADV_LANE ∨ d.base = R.ALM_ADV_SHOW ∨ d.base = R.ALM_ADV_DMX ∨ d.base = R.ALM_ADV_RADIO then
    clampField w 19 0 0 1000000
  else if d.base = R.ALM_LAUNCH_LEAD then clampField w 6 0 5 100
  else if d.base = R.ALM_TRACE_CTRL then clampField w 31 16 0 4095
  else if d.base = R.CMP_Pp_BLEND 0 then clampField w 15 0 0 0x8000
  else if d.base = R.RAS_WHITE_PULL then clampField w 31 16 1 0xFFFF
  else if d.base = R.MAP_TIMEOUT 0 then clampField w 31 0 32000 1000000
  else if d.base = R.PHO_TSTALE then clampField w 15 0 100 65535
  else if d.base = R.LNE_LATCH_TARGET then clampField w 31 0 1000 1000000
  else if d.base = R.LNE_COLLECT then clampField w 13 0 100 10000
  else if d.base = R.LNE_Ln_CFG 0 then clampField w 27 24 1 15
  else if d.base = R.STR_Ln_CFG 0 then clampField w 15 8 1 255
  else if d.base = R.MAC_MTU 0 then clampField w 13 0 64 9600
  else if d.base = R.MAC_WD 0 then clampField (clampField w 15 0 0 1000) 31 16 1 65535
  else if d.base = R.MAC_RRr_CFG 0 0 then clampField w 3 0 6 14
  else if d.base = R.DMX_Pn_CFG 0 then clampField w 27 24 1 15
  else if d.base = R.RAD_CUE_LEAD then clampField w 31 0 100 10000
  else if d.base = R.RAD_REPEAT then clampField w 3 0 1 15
  else if d.base = R.ESC_LEASE then clampField w 15 0 20 1000
  else if d.base = R.PWR_SAG then clampField (clampField w 7 0 80 95) 31 16 0 1000
  else if d.base = R.PWR_WDOG then clampField w 15 0 10 1000
  else if d.base = R.PVT_TLIM_SHOW ∨ d.base = R.PVT_TLIM_SOAK then clampLimits w
  else if d.base = R.LGR_FLUSH_CFG then clampField w 7 0 1 255
  else w

def maskWord (n : Nat) : Word := BitVec.ofNat 32 n

/-- The word a register holds after `v` was written to it: RW and RWS fields take the value, W1C bits written 1 clear, the rest stands (R18, R20). -/
def mergeWord (d : RegDesc) (old v : Word) : Word :=
  let rw := maskWord (d.rw ||| d.rws)
  let merged := storedAs d ((old &&& ~~~rw) ||| (v &&& rw))
  merged &&& ~~~(v &&& maskWord d.w1c)

/-! Registers whose write does more. -/

/-- The code of a master as owner of a check channel: the diagnostic window, or Teller (R152, R179). -/
def masterCode (m : Master) : Nat :=
  match m with
  | .bar1 => 0xFE
  | .fabric => 13

/-- CHK_CHn_CTRL: only Teller sets the owner; start and finish are the owner's (R151, R179). A finish through the register carries no alive value. -/
def chkCtrlWrite (m : Master) (ch : Nat) (w v : Word) (s : State) : State :=
  let a := R.CHK_CHn_CTRL ch
  let owner := bits (reg s a) 31 24
  let s1 := setReg a (if m = .bar1 then setBits w 31 24 owner else w) s
  let s2 := if bitOf v 0 then byOwner (masterCode m) ch s1 (chkStart ch (bitOf v 5)) else s1
  if bitOf v 1 then byOwner (masterCode m) ch s2 (chkResult ch) else s2

/-- MAC_CTRL and MAC_CFG: a change of enable, autonegotiation, mode or FEC restarts the port (R427, R428). -/
def macWrite (p a : Nat) (w : Word) (s : State) : State :=
  let s1 := setReg a w s
  if bits (reg s (R.MAC_CTRL p)) 1 0 ≠ bits (reg s1 (R.MAC_CTRL p)) 1 0 ∨ bits (reg s (R.MAC_CFG p)) 7 0 ≠ bits (reg s1 (R.MAC_CFG p)) 7 0 then
    portRestart p s1
  else s1

/-- MAC_PAIR: both pages of a pair show one content; a mode of 3 is treated as 0 (R433, R462). -/
def macPairWrite (p : Nat) (v : Word) (s : State) : State :=
  let mode := bits v 1 0 % 3
  modMac (fun m => { m with pairs := vMod m.pairs (p % 4) (fun x =>
    { mode := mode, revertive := bitOf v 2, secondary := x.secondary && mode == 2 }) }) s

/-- RAD_Xn_CFG: a transceiver that goes off, or changes its profile, drops its slot. -/
def radCfgWrite (x : Nat) (w : Word) (s : State) : State :=
  let old := reg s (R.RAD_Xn_CFG x)
  let s1 := setReg (R.RAD_Xn_CFG x) w s
  if bitOf w 31 ∧ bits old 27 24 = bits w 27 24 then s1 else modXcvr x (fun q => { q with slot := none, await := [] }) s1

/-- A zone temperature written by register reaches the block at once (R345, R364). -/
def zoneTempWrite (z : Nat) (w : Word) (s : State) : State := zoneTemp (if s.time.running then some s.time.st64 else none) z w s

/-- ALM_TRACE_CTRL: the trigger's settings; unfreeze resumes recording (R141, R146). It clears the trigger, so that ALM_TRACE_STAT.trig_index reads 0
until the next one (DESIGN CHOICE, log entry 9). -/
def traceWrite (w v : Word) (s : State) : State :=
  let s1 := setReg R.ALM_TRACE_CTRL w s
  if bitOf v 1 ∧ s.alm.traceFrozen then modAlm (fun a => { a with traceFrozen := false, traceTrigger := none }) s1 else s1

/-- An accepted write to the register of row `d` at `a`. -/
def writeReg (m : Master) (d : RegDesc) (a : Nat) (v : Word) (s : State) : State :=
  let h := homeAddr a
  let w := mergeWord d (reg s h) v
  let i := (tableAddr a - d.base) / d.stride
  let p := pageOf a - 0x30
  if radAbsent s a then s
  else if d.base = R.SYS_BUSERR then (if bitOf v 31 then setReg a (reg s a &&& 0x70FFFFFF) s else s)
  else if d.base = R.TIM_CTRL then selectTb (bits v 1 0) s
  else if d.base = R.TIM_TBn_CFG 0 then tbCfgApply i v s
  else if d.base = R.TIM_STEP_THRESH then withdrawStep (setReg a w s)
  else if d.base = R.ALM_ADV_RADIO ∧ s.part = .rk9210 then s
  else if d.base = R.ALM_TRACE_CTRL then traceWrite w v s
  else if d.base = R.ALM_Zz_DELAY 0 then modAlm (fun x => { x with delayShadow := aPut x.delayShadow i (min 2000000 (bits v 20 0)) }) s
  else if d.base = R.CHK_CHn_CTRL 0 then chkCtrlWrite m i w v s
  else if d.base = R.CHK_CHn_RUN 0 then byOwner (masterCode m) i s (chkState i false (some v))
  else if d.base = R.CHK_CHn_ALIVE 0 then byOwner (masterCode m) i s (chkState i true (some v))
  else if d.base = R.CHK_CHn_FEED 0 then byOwner (masterCode m) i s (chkFeed i v)
  else if d.base = R.CMP_COMMIT then cmpGo v s
  else if d.base = R.RAS_COMMIT then rasGo v s
  else if d.base = R.FXM_COMMIT then fxmGo v s
  else if d.base = R.PHO_ZTEMPz 0 then zoneTempWrite i w s
  else if d.base = R.MAC_CTRL 0 ∨ d.base = R.MAC_CFG 0 then macWrite p a w s
  else if d.base = R.MAC_PAIR 0 then (if 8 ≤ p then s else macPairWrite p v s)
  else if d.base = R.MAC_RRr_PTR 0 0 then ringReturn p i (bits v 15 0) s
  else if d.base = R.RAD_Xn_CFG 0 then radCfgWrite i w s
  else if d.base = R.PWR_Dd_LAT 0 then kick (setReg a w s)
  else if d.base = R.PVT_TLIM_SHOW ∨ d.base = R.PVT_TLIM_SOAK then thermalJudge (setReg a w s)
  else if d.base = R.CAL_SKEWl 0 then calGiven 1 i (skewFrom s.time.now i (bits v 8 0) s)
  else if d.base = R.CAL_REF_FREQ then calGiven 11 0 (freeTrim (setReg a w s))
  else if d.base = R.CAL_HKC_TRIM then calGiven 0 0 (setReg a w s)
  else if d.base = R.CAL_SYNC_DELAY then calGiven 3 0 (setReg a w s)
  else if d.base = R.RAD_Xn_TRIM 0 then calGiven 8 i (setReg a w s)
  else setReg h w s

/-- A write reaches the fabric: it takes effect, or fails and is captured. -/
def busWrite (m : Master) (a : Nat) (v : Word) (s : State) : State :=
  match writeCause s m a with
  | some c => busError c true a s
  | none => match findReg a with
    | some d => writeReg m d a v s
    | none => s

/-! Fabric reads (R20, R21, R99). -/

/-- The registers whose values a read of a low word latches (R99): the HI word, and for a time base's seconds the nanoseconds too. -/
def latchedBy (a : Nat) : List Nat :=
  match findReg a with
  | none => []
  | some d =>
    if d.base = R.TIM_TBn_SEC_LO 0 then [a + 4, a + 8]
    else if [R.TIM_ST64_LO, R.TIM_CORR_LO, R.TIM_EPOCH_ADJ_LO, R.TIM_HWM_LO, R.TIM_FORIGIN_LO, R.TIM_FCOUNT_LO, R.ALM_NEXT_LO, R.ALM_Zz_LAST_LO 0,
        R.CHK_ERR_ADDR_LO, R.VIN_Sn_DONE_LO 0, R.RAS_STORE_BASE_LO, R.RAS_FRAME_LO, R.RAS_GRID_K_LO, R.FXM_EPOCH_LO, R.MAP_TILE_BASE_LO 0,
        R.MAP_DEADLINE_LO 0, R.PHO_CAL_BASE_LO, R.LNE_Ln_LAST_SYNC_LO 0, R.MAC_ADDR_LO 0, R.MAC_TSQ_TS_LO 0, R.MAC_RRr_BASE_LO 0 0,
        R.MAC_TALLYi_LO 0 0, R.MAC_WAKE_PW_LO 0, R.DMX_Pn_LAST_LO 0, R.RAD_Xn_MASK_LO 0, R.RAD_Xn_SLOT_LO 0, R.TLR_LAST_TAG_LO, R.TLR_FORCE_TAG_LO,
        R.PWR_RTC_LO, R.PWR_ALARM_LO, R.CAL_LAST_LO, R.CAL_UTC_LO].contains d.base then [a + 4]
    else []

def noteRead (a : Nat) (w : Word) (s : State) : State := { s with regs := { s.regs with lastRead := some (a, w) } }

/-- The words that the read latches, as they are in this clock. -/
def latchWords (a : Nat) (s : State) : State :=
  { s with regs := { s.regs with latched := (latchedBy a).foldl (fun m h => aPut m h (regValue s h)) s.regs.latched } }

/-- RC fields clear; `counted` holds the counts of this very clock, each in its own field, which the counters then hold (R21). -/
def clearRead (d : RegDesc) (a : Nat) (counted : Word) (s : State) : State :=
  if d.rc = 0 then s
  else setReg (homeAddr a) ((reg s (homeAddr a) &&& ~~~maskWord d.rc) ||| (counted &&& maskWord d.rc)) s

/-- A read through the fabric: the value before any clearing, or the word that an earlier read of its low word latched. -/
def fabricRead (a : Nat) (counted : Word) (s : State) : State :=
  match readCause s a, findReg a with
  | some c, _ => noteRead a 0 (busError c false a s)
  | none, none => s
  | none, some d =>
    if d.base = R.FIF_Qn_RD_LO 0 then fifoRead ((a - d.base) / d.stride) 0 false s
    else if d.base = R.MAC_TALLYi_LO 0 0 then
      let i := (tableAddr a - d.base) / 8
      let p := pageOf a - 0x30
      modPort p (fun x => { x with tally := vMod x.tally i (fun v => v + bits counted 15 0) }) (tallyRead p i (pauseSettle p (tsqSettle p s)))
    else
      let v := (aFind s.regs.latched a).getD (regValue s a)
      noteRead a v (clearRead d a counted (latchWords a s))

/-! The commands. -/

/-- REGISTER_WRITE (R61, R577). -/
def execRegisterWrite (t : Nat) (m : Master) (addr : Nat) (v : Word) (s : State) : Out := .next (busWrite m addr v (advance t s))

/-- RC_COUNTER_READ (R20, R21). -/
def execRcCounterRead (t : Nat) (addr : Nat) (counted : Word) (s : State) : Out := .next (fabricRead addr counted (advance t s))

/-- LATCHED_LO_READ (R99). -/
def execLatchedLoRead (t : Nat) (addr : Nat) (s : State) : Out := .next (fabricRead addr 0 (advance t s))

/-- Hardware sets W1C bits in the clock of a write (R21). For SYS_BUSERR `set` is an access error of that clock: it describes itself where the write
cleared valid, and only counts where valid stands (R60). -/
def hardwareSets (a : Nat) (set : Word) (s : State) : State :=
  match findReg a with
  | none => s
  | some d =>
    if domainUp s (domainOf a) = false then s
    else if d.base = R.SYS_BUSERR then
      (if bitOf set 31 = false then s
       else if bitOf (reg s a) 31 then bumpField a 27 24 1 s
       else setReg a ((set &&& 0xF0FFFFFF) ||| 0x01000000) s)
    else if set &&& maskWord d.w1c = 0 then s
    else setReg (homeAddr a) (reg s (homeAddr a) ||| (set &&& maskWord d.w1c)) s

/-- W1C_WRITE (R20, R21): the bits written 1 clear, and bits that hardware sets in the same clock end set. -/
def execW1cWrite (t : Nat) (m : Master) (addr : Nat) (v : Word) (set : Word) (s : State) : Out :=
  .next (hardwareSets addr set (busWrite m addr v (advance t s)))

/-- TB_CFG_WRITE (R105). -/
def execTbCfgWrite (t : Nat) (m : Master) (tb : Fin 4) (v : Word) (s : State) : Out := .next (busWrite m (R.TIM_TBn_CFG tb) v (advance t s))

/-- SHOW_TB_WRITE (R93). -/
def execShowTbWrite (t : Nat) (m : Master) (v : Word) (s : State) : Out := .next (busWrite m R.TIM_CTRL v (advance t s))

/-- TRACE_UNFREEZE (R141). -/
def execTraceUnfreeze (t : Nat) (m : Master) (v : Word) (s : State) : Out := .next (busWrite m R.ALM_TRACE_CTRL v (advance t s))

/-- CMP_COMMIT_GO (R232). -/
def execCmpCommitGo (t : Nat) (m : Master) (v : Word) (s : State) : Out := .next (busWrite m R.CMP_COMMIT v (advance t s))

/-- RAS_COMMIT_GO (R261). -/
def execRasCommitGo (t : Nat) (m : Master) (v : Word) (s : State) : Out := .next (busWrite m R.RAS_COMMIT v (advance t s))

/-- FXM_COMMIT_GO (R304). -/
def execFxmCommitGo (t : Nat) (m : Master) (v : Word) (s : State) : Out := .next (busWrite m R.FXM_COMMIT v (advance t s))

/-- A word of a diagnostic read fails as a fabric read does, and is captured (R577, R696). -/
def diagFail (offset : Nat) (s : State) (i : Nat) : State :=
  match readCause s (regBase + offset + 4 * i) with
  | some c => busError c false (regBase + offset + 4 * i) s
  | none => s

/-- DIAG_READ (R22, R577): no read has a side effect. -/
def execDiagRead (c : Call) (offset : Nat) (count : Nat) (s : State) : Out :=
  command 0x0030 c s fun s =>
    if offset % 4 ≠ 0 ∨ count < 1 ∨ 256 < count then refuse .invalidParameter s
    else
      let words := (List.range count).map (fun i => ((readWord s (regBase + offset + 4 * i)).toNat : Int))
      answer (8 + 4 * count) ([(offset : Int), count] ++ words) ((List.range count).foldl (diagFail offset) s)

/-- Words written in ascending order, one fabric write each (R577). -/
def diagWords (a : Nat) (words : List Word) (s : State) : State :=
  match words with
  | [] => s
  | w :: r => diagWords (a + 4) r (busWrite .bar1 a w s)

/-- A DIAG_WRITE refused by mode or by Vault is captured once, at its first word (R577, R631, R696). -/
def diagRefused (offset : Nat) (s : State) : State := busError ((writeCause s .bar1 (regBase + offset)).getD 2) true (regBase + offset) s

/-- DIAG_WRITE (R577, R631). -/
def execDiagWrite (c : Call) (offset : Nat) (words : List Word) (s : State) : Out :=
  let s1 := advance c.t s
  let s2 := if tellerRuns s1 = true ∧ modeIsDiag s1.power.mode = false then diagRefused offset s1 else s1
  command 0x0031 c s2 fun s =>
    if offset % 4 ≠ 0 ∨ words.length < 1 ∨ 64 < words.length then refuse .invalidParameter s
    else if approved s then unauth (diagRefused offset s)
    else accept (diagWords (regBase + offset) words s)

end Sys2Proof.Machine
end

