-- ==== Sys2Proof/Machine/Dispatch.lean ====
section
/-! DEFINITION. One arm per command: a direct call of its meaning. -/

namespace Sys2Proof.Machine

def exec (i : Instr) (s : State) : Host.Outcome State Fault Refusal :=
  match i with
  | .registerWrite t m addr v => Sys2Proof.Machine.execRegisterWrite t m addr v s
  | .rcCounterRead t addr counted => Sys2Proof.Machine.execRcCounterRead t addr counted s
  | .w1cWrite t m addr v set => Sys2Proof.Machine.execW1cWrite t m addr v set s
  | .latchedLoRead t addr => Sys2Proof.Machine.execLatchedLoRead t addr s
  | .lockstepMismatch t pc => Sys2Proof.Machine.execLockstepMismatch t pc s
  | .frameBoundary tests => Sys2Proof.Machine.execFrameBoundary tests s
  | .tbSourceUpdate t tb b u => Sys2Proof.Machine.execTbSourceUpdate t tb b u s
  | .referenceLost t tb b => Sys2Proof.Machine.execReferenceLost t tb b s
  | .domainRevert t tb => Sys2Proof.Machine.execDomainRevert t tb s
  | .mainsZeroCrossing t => Sys2Proof.Machine.execMainsZeroCrossing t s
  | .mainsAbsentTimeout t => Sys2Proof.Machine.execMainsAbsentTimeout t s
  | .showTimeStart t tests => Sys2Proof.Machine.execShowTimeStart t tests s
  | .hwmUpdate t => Sys2Proof.Machine.execHwmUpdate t s
  | .rtcCopy t => Sys2Proof.Machine.execRtcCopy t s
  | .zoneSafeBoundary t => Sys2Proof.Machine.execZoneSafeBoundary t s
  | .tbCfgWrite t m tb v => Sys2Proof.Machine.execTbCfgWrite t m tb v s
  | .showTbWrite t m v => Sys2Proof.Machine.execShowTbWrite t m v s
  | .timeBaseSet c p => Sys2Proof.Machine.execTimeBaseSet c p s
  | .timeSelect c p => Sys2Proof.Machine.execTimeSelect c p s
  | .timeAcceptStep c p => Sys2Proof.Machine.execTimeAcceptStep c p s
  | .timeStatusGet c => Sys2Proof.Machine.execTimeStatusGet c s
  | .showTimingSet c p => Sys2Proof.Machine.execShowTimingSet c p s
  | .almanacTick t tick => Sys2Proof.Machine.execAlmanacTick t tick s
  | .outputLaunch t => Sys2Proof.Machine.execOutputLaunch t s
  | .descriptorReady t => Sys2Proof.Machine.execDescriptorReady t s
  | .descriptorDispatch t accepting => Sys2Proof.Machine.execDescriptorDispatch t accepting s
  | .deadlineDiscard t => Sys2Proof.Machine.execDeadlineDiscard t s
  | .timerRetry t => Sys2Proof.Machine.execTimerRetry t s
  | .descriptorRetry t => Sys2Proof.Machine.execDescriptorRetry t s
  | .traceFreeze t => Sys2Proof.Machine.execTraceFreeze t s
  | .traceUnfreeze t m v => Sys2Proof.Machine.execTraceUnfreeze t m v s
  | .cueSchedule c p => Sys2Proof.Machine.execCueSchedule c p s
  | .cueCancel c cueId => Sys2Proof.Machine.execCueCancel c cueId s
  | .almTraceGet c first count => Sys2Proof.Machine.execAlmTraceGet c first count s
  | .chkStart t owner ch aliveClr => Sys2Proof.Machine.execChkStart t owner ch aliveClr s
  | .chkFeed t owner ch w => Sys2Proof.Machine.execChkFeed t owner ch w s
  | .chkFinish t owner ch alive => Sys2Proof.Machine.execChkFinish t owner ch alive s
  | .chkStateAccess t owner ch alive write => Sys2Proof.Machine.execChkStateAccess t owner ch alive write s
  | .fifoByteWrite t q byte first eop => Sys2Proof.Machine.execFifoByteWrite t q byte first eop s
  | .fifoPop t q bad wide => Sys2Proof.Machine.execFifoPop t q bad wide s
  | .fifoPointerFault t q popping => Sys2Proof.Machine.execFifoPointerFault t q popping s
  | .parityError t e => Sys2Proof.Machine.execParityError t e s
  | .mapEntryRewrite t => Sys2Proof.Machine.execMapEntryRewrite t s
  | .scrubPass t errors => Sys2Proof.Machine.execScrubPass t errors s
  | .faultHandoff t => Sys2Proof.Machine.execFaultHandoff t s
  | .sdiLineReceived t src crcOk => Sys2Proof.Machine.execSdiLineReceived t src crcOk s
  | .streamPacketReceived t stream pathB p => Sys2Proof.Machine.execStreamPacketReceived t stream pathB p s
  | .pathLossTimeout t stream pathB seq => Sys2Proof.Machine.execPathLossTimeout t stream pathB seq s
  | .streamFrameTimeout t stream => Sys2Proof.Machine.execStreamFrameTimeout t stream s
  | .sourceFrameComplete t src f => Sys2Proof.Machine.execSourceFrameComplete t src f s
  | .generatorPublish t g => Sys2Proof.Machine.execGeneratorPublish t g s
  | .sdiLockLost t src => Sys2Proof.Machine.execSdiLockLost t src s
  | .sourceLossTimeout t src => Sys2Proof.Machine.execSourceLossTimeout t src s
  | .signalReturn t src => Sys2Proof.Machine.execSignalReturn t src s
  | .inputSet c p => Sys2Proof.Machine.execInputSet c p s
  | .inputStreamSet c p => Sys2Proof.Machine.execInputStreamSet c p s
  | .generatorSet c p => Sys2Proof.Machine.execGeneratorSet c p s
  | .inputStatusGet c source => Sys2Proof.Machine.execInputStatusGet c source s
  | .layerBind c p => Sys2Proof.Machine.execLayerBind c p s
  | .layerRelease c layer => Sys2Proof.Machine.execLayerRelease c layer s
  | .cmpCommitGo t m v => Sys2Proof.Machine.execCmpCommitGo t m v s
  | .canvasLineDone t line accepted => Sys2Proof.Machine.execCanvasLineDone t line accepted s
  | .layerSet c p => Sys2Proof.Machine.execLayerSet c p s
  | .canvasSet c p => Sys2Proof.Machine.execCanvasSet c p s
  | .compStatusGet c => Sys2Proof.Machine.execCompStatusGet c s
  | .rasCommitGo t m v => Sys2Proof.Machine.execRasCommitGo t m v s
  | .rasterFrameStart => Sys2Proof.Machine.execRasterFrameStart s
  | .rasterLineMatch line => Sys2Proof.Machine.execRasterLineMatch line s
  | .rasterFrameDone t => Sys2Proof.Machine.execRasterFrameDone t s
  | .scanUnderrun t line sample => Sys2Proof.Machine.execScanUnderrun t line sample s
  | .lineReadback t => Sys2Proof.Machine.execLineReadback t s
  | .ltrRecompute t bytes => Sys2Proof.Machine.execLtrRecompute t bytes s
  | .monitorSet c p => Sys2Proof.Machine.execMonitorSet c p s
  | .monitorStatusGet c => Sys2Proof.Machine.execMonitorStatusGet c s
  | .fxmCommitGo t m v => Sys2Proof.Machine.execFxmCommitGo t m v s
  | .fixtureSet c p => Sys2Proof.Machine.execFixtureSet c p s
  | .fixtureGet c first count => Sys2Proof.Machine.execFixtureGet c first count s
  | .zoneSet c p => Sys2Proof.Machine.execZoneSet c p s
  | .zoneGet c zone => Sys2Proof.Machine.execZoneGet c zone s
  | .attrSet c p => Sys2Proof.Machine.execAttrSet c p s
  | .attrValueSet c p => Sys2Proof.Machine.execAttrValueSet c p s
  | .showGet c => Sys2Proof.Machine.execShowGet c s
  | .tileClaim t engine => Sys2Proof.Machine.execTileClaim t engine s
  | .tileSampleStart t engine trap => Sys2Proof.Machine.execTileSampleStart t engine trap s
  | .tileComplete t engine => Sys2Proof.Machine.execTileComplete t engine s
  | .mappingDeadline t => Sys2Proof.Machine.execMappingDeadline t s
  | .tileTimeout t engine => Sys2Proof.Machine.execTileTimeout t engine s
  | .engineFailure t engine cause => Sys2Proof.Machine.execEngineFailure t engine cause s
  | .engineTestDone t engine => Sys2Proof.Machine.execEngineTestDone t engine s
  | .kernelLoad c p => Sys2Proof.Machine.execKernelLoad c p s
  | .kernelUnload c kind code => Sys2Proof.Machine.execKernelUnload c kind code s
  | .effectSet c p => Sys2Proof.Machine.execEffectSet c p s
  | .mapStatusGet c => Sys2Proof.Machine.execMapStatusGet c s
  | .mapEngineSet c engine action => Sys2Proof.Machine.execMapEngineSet c engine action s
  | .reportStaleTimeout t chip => Sys2Proof.Machine.execReportStaleTimeout t chip s
  | .calRecordWrite t => Sys2Proof.Machine.execCalRecordWrite t s
  | .curveSet c p => Sys2Proof.Machine.execCurveSet c p s
  | .classSet c p => Sys2Proof.Machine.execClassSet c p s
  | .calRecordSet c p => Sys2Proof.Machine.execCalRecordSet c p s
  | .calRecordGet c first count => Sys2Proof.Machine.execCalRecordGet c first count s
  | .zoneTempSet c zone valid temp => Sys2Proof.Machine.execZoneTempSet c zone valid temp s
  | .phoStatusGet c => Sys2Proof.Machine.execPhoStatusGet c s
  | .pixelFrameSend t lane => Sys2Proof.Machine.execPixelFrameSend t lane s
  | .laneTrainingDone t lane => Sys2Proof.Machine.execLaneTrainingDone t lane s
  | .enumerateInterval t lane => Sys2Proof.Machine.execEnumerateInterval t lane s
  | .enumerateFrameReturn t lane next check => Sys2Proof.Machine.execEnumerateFrameReturn t lane next check s
  | .rangeFrameReturn t lane chip loopPs => Sys2Proof.Machine.execRangeFrameReturn t lane chip loopPs s
  | .laneRangingDone t lane => Sys2Proof.Machine.execLaneRangingDone t lane s
  | .controlFrameReturn t lane r => Sys2Proof.Machine.execControlFrameReturn t lane r s
  | .controlAckTimeout t lane => Sys2Proof.Machine.execControlAckTimeout t lane s
  | .collectInterval t => Sys2Proof.Machine.execCollectInterval t s
  | .collectFrameReturn t lane slots errors => Sys2Proof.Machine.execCollectFrameReturn t lane slots errors s
  | .laneRxLoss t lane errors => Sys2Proof.Machine.execLaneRxLoss t lane errors s
  | .laneSet c p => Sys2Proof.Machine.execLaneSet c p s
  | .laneChainSet c p => Sys2Proof.Machine.execLaneChainSet c p s
  | .laneGlobalSet c p => Sys2Proof.Machine.execLaneGlobalSet c p s
  | .laneRange c mask chip => Sys2Proof.Machine.execLaneRange c mask chip s
  | .laneStatusGet c lane => Sys2Proof.Machine.execLaneStatusGet c lane s
  | .laneChipWrite c lane chip addr data => Sys2Proof.Machine.execLaneChipWrite c lane chip addr data s
  | .laneChipRead c lane chip addr => Sys2Proof.Machine.execLaneChipRead c lane chip addr s
  | .strLaneSet c p => Sys2Proof.Machine.execStrLaneSet c p s
  | .strLampSet c p => Sys2Proof.Machine.execStrLampSet c p s
  | .strFaultGet c first count => Sys2Proof.Machine.execStrFaultGet c first count s
  | .linkUp t port rate => Sys2Proof.Machine.execLinkUp t port rate s
  | .linkDown t port cause => Sys2Proof.Machine.execLinkDown t port cause s
  | .pairRevert t pair => Sys2Proof.Machine.execPairRevert t pair s
  | .txFrameStart t port => Sys2Proof.Machine.execTxFrameStart t port s
  | .launchSlotFire t port => Sys2Proof.Machine.execLaunchSlotFire t port s
  | .tsqPop t port => Sys2Proof.Machine.execTsqPop t port s
  | .tallyRead t port ctr => Sys2Proof.Machine.execTallyRead t port ctr s
  | .tallyAccumulate t => Sys2Proof.Machine.execTallyAccumulate t s
  | .frameReceived t port f => Sys2Proof.Machine.execFrameReceived t port f s
  | .pauseFrameReceived t port opcode enables quanta => Sys2Proof.Machine.execPauseFrameReceived t port opcode enables quanta s
  | .pauseEnd t port => Sys2Proof.Machine.execPauseEnd t port s
  | .pauseWatchdogTrip t port => Sys2Proof.Machine.execPauseWatchdogTrip t port s
  | .pauseIgnoreEnd t port => Sys2Proof.Machine.execPauseIgnoreEnd t port s
  | .wakeFrameMatch t e => Sys2Proof.Machine.execWakeFrameMatch t e s
  | .macPortSet c p => Sys2Proof.Machine.execMacPortSet c p s
  | .macPairSet c pair mode flags => Sys2Proof.Machine.execMacPairSet c pair mode flags s
  | .macWakeSet c p => Sys2Proof.Machine.execMacWakeSet c p s
  | .macStatusGet c port => Sys2Proof.Machine.execMacStatusGet c port s
  | .macTallyGet c port flags => Sys2Proof.Machine.execMacTallyGet c port flags s
  | .e131PacketReceived t port p => Sys2Proof.Machine.execE131PacketReceived t port p s
  | .e131SourceTimeout t entry cid => Sys2Proof.Machine.execE131SourceTimeout t entry cid s
  | .universeDiscovery t => Sys2Proof.Machine.execUniverseDiscovery t s
  | .dmxFrameReceived t port startCode slots errors => Sys2Proof.Machine.execDmxFrameReceived t port startCode slots errors s
  | .dmxSourceTimeout t port => Sys2Proof.Machine.execDmxSourceTimeout t port s
  | .rdmWindow t port => Sys2Proof.Machine.execRdmWindow t port s
  | .rdmResponseReceived t port kind took bytes => Sys2Proof.Machine.execRdmResponseReceived t port kind took bytes s
  | .rdmResponseTimeout t port => Sys2Proof.Machine.execRdmResponseTimeout t port s
  | .pktEngineFailure t engine cause => Sys2Proof.Machine.execPktEngineFailure t engine cause s
  | .flowSet c p => Sys2Proof.Machine.execFlowSet c p s
  | .rxUniverseSet c p => Sys2Proof.Machine.execRxUniverseSet c p s
  | .pktGlobalSet c p => Sys2Proof.Machine.execPktGlobalSet c p s
  | .dmxPortSet c p => Sys2Proof.Machine.execDmxPortSet c p s
  | .rdmRequest c p => Sys2Proof.Machine.execRdmRequest c p s
  | .pktCodeLoad c p => Sys2Proof.Machine.execPktCodeLoad c p s
  | .radioSlotStart t xcvr busy r => Sys2Proof.Machine.execRadioSlotStart t xcvr busy r s
  | .radioFrameReceived t xcvr f => Sys2Proof.Machine.execRadioFrameReceived t xcvr f s
  | .radioFwProgressTimer t => Sys2Proof.Machine.execRadioFwProgressTimer t s
  | .radioSet c p => Sys2Proof.Machine.execRadioSet c p s
  | .radioNodeSet c p => Sys2Proof.Machine.execRadioNodeSet c p s
  | .radioGlobalSet c p => Sys2Proof.Machine.execRadioGlobalSet c p s
  | .radioStatusGet c xcvr => Sys2Proof.Machine.execRadioStatusGet c xcvr s
  | .radioNodeGet c first count => Sys2Proof.Machine.execRadioNodeGet c first count s
  | .radioFwLoad c p => Sys2Proof.Machine.execRadioFwLoad c p s
  | .radioFwStart c p => Sys2Proof.Machine.execRadioFwStart c p s
  | .leaseRequestInterval t group => Sys2Proof.Machine.execLeaseRequestInterval t group s
  | .leaseFrameReceived t f => Sys2Proof.Machine.execLeaseFrameReceived t f s
  | .leaseExpiry t group => Sys2Proof.Machine.execLeaseExpiry t group s
  | .escrowRecordWrite t => Sys2Proof.Machine.execEscrowRecordWrite t s
  | .escrowFragmentReceived t payload => Sys2Proof.Machine.execEscrowFragmentReceived t payload s
  | .escrowRecordDeadline t => Sys2Proof.Machine.execEscrowRecordDeadline t s
  | .probeInterval t => Sys2Proof.Machine.execProbeInterval t s
  | .probeReceived t port payload => Sys2Proof.Machine.execProbeReceived t port payload s
  | .probeTimeout t port => Sys2Proof.Machine.execProbeTimeout t port s
  | .pairSet c p => Sys2Proof.Machine.execPairSet c p s
  | .pairRelease c mask => Sys2Proof.Machine.execPairRelease c mask s
  | .pairStatusGet c => Sys2Proof.Machine.execPairStatusGet c s
  | .cmdDoorbell t wr msgs => Sys2Proof.Machine.execCmdDoorbell t wr msgs s
  | .ringReadPointerWrite t notices rd => Sys2Proof.Machine.execRingReadPointerWrite t notices rd s
  | .sessionResetDoorbell t => Sys2Proof.Machine.execSessionResetDoorbell t s
  | .commandTake t slot => Sys2Proof.Machine.execCommandTake t slot s
  | .udpDatagramReceived t d => Sys2Proof.Machine.execUdpDatagramReceived t d s
  | .sessionIdleTimeout t slot => Sys2Proof.Machine.execSessionIdleTimeout t slot s
  | .fragmentTimeout t => Sys2Proof.Machine.execFragmentTimeout t s
  | .noticeResend t => Sys2Proof.Machine.execNoticeResend t s
  | .noticeQueueDrain t => Sys2Proof.Machine.execNoticeQueueDrain t s
  | .pcieLinkChange t e => Sys2Proof.Machine.execPcieLinkChange t e s
  | .identify c => Sys2Proof.Machine.execIdentify c s
  | .echo c bytes => Sys2Proof.Machine.execEcho c bytes s
  | .noticeMask c mask => Sys2Proof.Machine.execNoticeMask c mask s
  | .sessionReset c => Sys2Proof.Machine.execSessionReset c s
  | .commitOpen c => Sys2Proof.Machine.execCommitOpen c s
  | .commit c p => Sys2Proof.Machine.execCommit c p s
  | .commitAbort c => Sys2Proof.Machine.execCommitAbort c s
  | .stageDrop c id => Sys2Proof.Machine.execStageDrop c id s
  | .diagRead c offset count => Sys2Proof.Machine.execDiagRead c offset count s
  | .diagWrite c offset words => Sys2Proof.Machine.execDiagWrite c offset words s
  | .powerModeSet c mode wakeAfter => Sys2Proof.Machine.execPowerModeSet c mode wakeAfter s
  | .powerLatencySet c tolerances => Sys2Proof.Machine.execPowerLatencySet c tolerances s
  | .powerDomainSet c domain action => Sys2Proof.Machine.execPowerDomainSet c domain action s
  | .powerSagSet c p => Sys2Proof.Machine.execPowerSagSet c p s
  | .powerThermalSet c p => Sys2Proof.Machine.execPowerThermalSet c p s
  | .powerWakeSet c enables alarm => Sys2Proof.Machine.execPowerWakeSet c enables alarm s
  | .powerStatusGet c => Sys2Proof.Machine.execPowerStatusGet c s
  | .pvtGet c => Sys2Proof.Machine.execPvtGet c s
  | .powerReset c target next => Sys2Proof.Machine.execPowerReset c target next s
  | .domainStepDone t d => Sys2Proof.Machine.execDomainStepDone t d s
  | .modeChangeDone t => Sys2Proof.Machine.execModeChangeDone t s
  | .dramIdleEntry t idleNs => Sys2Proof.Machine.execDramIdleEntry t idleNs s
  | .sagW1 t mv => Sys2Proof.Machine.execSagW1 t mv s
  | .sagRecovered t mv => Sys2Proof.Machine.execSagRecovered t mv s
  | .sagHoldExpiry t => Sys2Proof.Machine.execSagHoldExpiry t s
  | .w2Reset t rail => Sys2Proof.Machine.execW2Reset t rail s
  | .powerOnReset t => Sys2Proof.Machine.execPowerOnReset t s
  | .resetPin t => Sys2Proof.Machine.execResetPin t s
  | .thermalTrip t sensor temp => Sys2Proof.Machine.execThermalTrip t sensor temp s
  | .watchdogExpiry t => Sys2Proof.Machine.execWatchdogExpiry t s
  | .pd2Restart t p => Sys2Proof.Machine.execPd2Restart t p s
  | .rtcAlarmWake t => Sys2Proof.Machine.execRtcAlarmWake t s
  | .wakePin t => Sys2Proof.Machine.execWakePin t s
  | .pwrGoodRise t => Sys2Proof.Machine.execPwrGoodRise t s
  | .pwrGoodTimeout t => Sys2Proof.Machine.execPwrGoodTimeout t s
  | .bootComplete t p counts avs lead pool => Sys2Proof.Machine.execBootComplete t p counts avs lead pool s
  | .temperatureSample t temps counts => Sys2Proof.Machine.execTemperatureSample t temps counts s
  | .thermalShedStep t => Sys2Proof.Machine.execThermalShedStep t s
  | .voltageSample t volts => Sys2Proof.Machine.execVoltageSample t volts s
  | .calRun c mask flags lanes => Sys2Proof.Machine.execCalRun c mask flags lanes s
  | .calAbort c => Sys2Proof.Machine.execCalAbort c s
  | .calStatusGet c => Sys2Proof.Machine.execCalStatusGet c s
  | .calItemGet c item first => Sys2Proof.Machine.execCalItemGet c item first s
  | .calItemDone t item inPass runs => Sys2Proof.Machine.execCalItemDone t item inPass runs s
  | .calSectorWriteDone t utc => Sys2Proof.Machine.execCalSectorWriteDone t utc s
  | .laneSkewStep t lane => Sys2Proof.Machine.execLaneSkewStep t lane s
  | .secStatusGet c => Sys2Proof.Machine.execSecStatusGet c s
  | .secKeyEnroll c p => Sys2Proof.Machine.execSecKeyEnroll c p s
  | .secKeyRevoke c ident => Sys2Proof.Machine.execSecKeyRevoke c ident s
  | .secRecordSet c p => Sys2Proof.Machine.execSecRecordSet c p s
  | .secProvisionDone c flags => Sys2Proof.Machine.execSecProvisionDone c flags s
  | .secRollbackAdvance c flags => Sys2Proof.Machine.execSecRollbackAdvance c flags s
  | .secRetire c confirm => Sys2Proof.Machine.execSecRetire c confirm s
  | .fwBegin c bank header => Sys2Proof.Machine.execFwBegin c bank header s
  | .fwBlock c block crc data => Sys2Proof.Machine.execFwBlock c block crc data s
  | .fwEnd c bank => Sys2Proof.Machine.execFwEnd c bank s
  | .fwActivate c bank => Sys2Proof.Machine.execFwActivate c bank s
  | .fwAbort c bank => Sys2Proof.Machine.execFwAbort c bank s
  | .fwStatusGet c bank => Sys2Proof.Machine.execFwStatusGet c bank s
  | .ledgerRecordOffer t => Sys2Proof.Machine.execLedgerRecordOffer t s
  | .trackerTokenGain t tracker => Sys2Proof.Machine.execTrackerTokenGain t tracker s
  | .ledgerFlushPeriod t => Sys2Proof.Machine.execLedgerFlushPeriod t s
  | .ledgerFlushRun t bad => Sys2Proof.Machine.execLedgerFlushRun t bad s
  | .ledgerFlushDone t => Sys2Proof.Machine.execLedgerFlushDone t s
  | .freezeTimeout t => Sys2Proof.Machine.execFreezeTimeout t s
  | .ledgerStatusGet c => Sys2Proof.Machine.execLedgerStatusGet c s
  | .ledgerRead c first count => Sys2Proof.Machine.execLedgerRead c first count s
  | .ledgerFreeze c action limit => Sys2Proof.Machine.execLedgerFreeze c action limit s
  | .ledgerChallenge c => Sys2Proof.Machine.execLedgerChallenge c s
  | .ledgerClear c token => Sys2Proof.Machine.execLedgerClear c token s
  | .ledgerLimitSet c code r b => Sys2Proof.Machine.execLedgerLimitSet c code r b s
  | .ledgerFlush c => Sys2Proof.Machine.execLedgerFlush c s
  | .vbatLoss t => Sys2Proof.Machine.execVbatLoss t s
  | .aonRailsGood t => Sys2Proof.Machine.execAonRailsGood t s
  | .powerUpRetry t => Sys2Proof.Machine.execPowerUpRetry t s
  | .avsRetune t => Sys2Proof.Machine.execAvsRetune t s
  | .fwBlockWriteDone t good => Sys2Proof.Machine.execFwBlockWriteDone t good s

end Sys2Proof.Machine
end

