-- ==== Sys2Proof/Safety.lean ====
section
/-! DEFINITION. What counts as a safe run, and the properties of states that claims are made of. -/

namespace Sys2Proof.Safety

open Sys2Proof.Machine

/-- The step at `s` answers a next state: no fault and no refusal. -/
def Completes (s : State) : Prop := ∃ t, step s = .next t

/-- Every step of a run of `n` steps from `s` answers a next state. -/
def SafeFor (n : Nat) (s : State) : Prop :=
  match n with
  | 0 => True
  | n + 1 => ∃ t, step s = .next t ∧ SafeFor n t

/-! The register file. -/

/-- Words by address in canonical form: addresses strictly rising, none that holds the reset value of its register. -/
def CellsWf (m : SMap Word) : Prop := aWf m = true ∧ ∀ c ∈ m, c.2 ≠ resetWord c.1

/-- The register file in canonical form: the words, the words in force, and the addresses of the latched words. -/
def RegsWf (r : Regs) : Prop := CellsWf r.cells ∧ CellsWf r.inForce ∧ aWf r.latched = true

/-! The Ledger's buffers (R659, R666). -/

def LedgerWf (l : Ledger) : Prop := l.buffer.length ≤ 1024 ∧ l.side.length ≤ 64

/-- The invariant that every step keeps. -/
def Wf (s : State) : Prop := RegsWf s.regs ∧ LedgerWf s.lgr

/-! Vault (R630, R632, R643). -/

/-- Every bit set in `m` is set in `n`. -/
def BitsStay (m n : Nat) : Prop := ∀ b, nBit m b = true → nBit n b = true

/-- From Vault `v` to Vault `w` nothing of OTP goes back: the security state moves forward, the rollback counter does not fall, and a slot
written or revoked stays so. -/
structure Onward (v w : Vault) : Prop where
  state : secCode v.state ≤ secCode w.state
  rollback : v.rollback ≤ w.rollback
  written : BitsStay v.written w.written
  revoked : BitsStay v.revoked w.revoked

/-! Show time (R24, R82). -/

/-- What no later show time is below: ST64 while show time runs, and after a stop the end of the millisecond that the high-water mark holds. -/
def showMark (x : Time) : Option Int := if x.running then some x.st64 else if x.hwmValid then some (x.hwm + 999999) else none

/-- Show time does not go back from `a` to `b`. -/
def ShowOnward (a b : Time) : Prop := ∀ m, showMark a = some m → ∃ n, showMark b = some n ∧ m ≤ n

/-! Frames. -/

/-- The components of the machine that a command may change. -/
inductive Comp where
  | regs | free | time | teller | power | alm | fifos | protect | vin | record | cfgA | cfgB | cmp | ras
  | fxm | pho | pool | lanes | lamps | mac | pkt | dmx | rad | esc | map | cal | vlt | lgr
deriving DecidableEq, Repr

/-- A component has the same value in two states. -/
abbrev Same (c : Comp) (s t : State) : Prop :=
  match c with
  | .regs => t.regs = s.regs
  | .free => t.free = s.free
  | .time => t.time = s.time
  | .teller => t.teller = s.teller
  | .power => t.power = s.power
  | .alm => t.alm = s.alm
  | .fifos => t.fifos = s.fifos
  | .protect => t.protect = s.protect
  | .vin => t.vin = s.vin
  | .record => t.record = s.record
  | .cfgA => t.cfgA = s.cfgA
  | .cfgB => t.cfgB = s.cfgB
  | .cmp => t.cmp = s.cmp
  | .ras => t.ras = s.ras
  | .fxm => t.fxm = s.fxm
  | .pho => t.pho = s.pho
  | .pool => t.pool = s.pool
  | .lanes => t.lanes = s.lanes
  | .lamps => t.lamps = s.lamps
  | .mac => t.mac = s.mac
  | .pkt => t.pkt = s.pkt
  | .dmx => t.dmx = s.dmx
  | .rad => t.rad = s.rad
  | .esc => t.esc = s.esc
  | .map => t.map = s.map
  | .cal => t.cal = s.cal
  | .vlt => t.vlt = s.vlt
  | .lgr => t.lgr = s.lgr

/-- From `s` to `t` no component outside `l` changes, nor the part or the queue. -/
def Only (l : List Comp) (s t : State) : Prop := t.part = s.part ∧ t.pending = s.pending ∧ ∀ c, c ∉ l → Same c s t

/-! The frame of each command (95_what_each_step_holds.md). -/

/-- Every component but these. -/
def allBut (l : List Comp) : List Comp :=
  [.regs, .free, .time, .teller, .power, .alm, .fifos, .protect, .vin, .record, .cfgA, .cfgB, .cmp, .ras,
   .fxm, .pho, .pool, .lanes, .lamps, .mac, .pkt, .dmx, .rad, .esc, .map, .cal, .vlt, .lgr].filter (fun c => !l.contains c)

/-- The components of the state that a command can change: none but these (R25 and the chapter of each command). -/
def footprint (i : Instr) : List Comp :=
  match i with
  | .registerWrite .. | .w1cWrite .. | .tbCfgWrite .. | .showTbWrite .. | .traceUnfreeze .. | .cmpCommitGo .. | .rasCommitGo ..
  | .fxmCommitGo .. => allBut [.record, .cfgA, .cfgB, .lamps]
  | .rcCounterRead .. | .latchedLoRead .. => [.regs, .time, .teller, .fifos, .protect, .mac]
  | .lockstepMismatch .. | .watchdogExpiry .. => [.regs, .time, .teller, .power, .protect, .lanes, .dmx, .cal, .vlt, .lgr]
  | .frameBoundary .. | .almanacTick .. | .powerModeSet .. | .sagW1 .. | .sagRecovered .. | .sagHoldExpiry .. | .secProvisionDone ..
  | .fwAbort .. | .ledgerFlushRun .. | .ledgerFlushDone .. => allBut [.record, .lamps]
  | .tbSourceUpdate .. | .timeSelect .. => [.regs, .free, .time, .teller]
  | .referenceLost .. | .domainRevert .. | .hwmUpdate .. | .zoneSafeBoundary .. | .timeBaseSet .. | .timeAcceptStep .. | .timeStatusGet ..
  | .showTimingSet .. | .almTraceGet .. | .chkStart .. | .chkFeed .. | .chkStateAccess .. | .inputSet .. | .inputStreamSet ..
  | .generatorSet .. | .inputStatusGet .. | .layerBind .. | .layerSet .. | .canvasSet .. | .compStatusGet .. | .monitorSet ..
  | .monitorStatusGet .. | .fixtureSet .. | .fixtureGet .. | .zoneSet .. | .zoneGet .. | .attrSet .. | .showGet .. | .effectSet ..
  | .mapStatusGet .. | .curveSet .. | .classSet .. | .calRecordSet .. | .calRecordGet .. | .phoStatusGet .. | .laneSet .. | .laneChainSet ..
  | .laneGlobalSet .. | .laneStatusGet .. | .strLaneSet .. | .strFaultGet .. | .macWakeSet .. | .macStatusGet .. | .flowSet ..
  | .rxUniverseSet .. | .dmxPortSet .. | .radioSet .. | .radioNodeSet .. | .radioGlobalSet .. | .radioStatusGet .. | .radioNodeGet ..
  | .pairStatusGet .. | .cmdDoorbell .. | .commandTake .. | .noticeResend .. | .noticeQueueDrain .. | .pcieLinkChange .. | .identify ..
  | .echo .. | .noticeMask .. | .commitOpen .. | .commitAbort .. | .stageDrop .. | .diagRead .. | .powerSagSet .. | .powerWakeSet ..
  | .powerStatusGet .. | .pvtGet .. | .calStatusGet .. | .calItemGet .. | .secStatusGet .. | .fwStatusGet .. | .ledgerStatusGet ..
  | .ledgerRead .. => [.regs, .time, .teller]
  | .mainsZeroCrossing .. | .descriptorReady .. => [.time, .alm]
  | .mainsAbsentTimeout .. | .rtcCopy .. => [.time]
  | .showTimeStart .. => allBut [.free, .fifos, .protect, .record, .lamps, .cal, .vlt, .lgr]
  | .outputLaunch .. => [.regs, .free, .time, .teller, .alm, .protect, .pool, .lanes, .dmx]
  | .descriptorDispatch .. => allBut [.cfgA, .cfgB]
  | .deadlineDiscard .. | .descriptorRetry .. => [.regs, .time, .teller, .alm, .pool, .lanes, .mac, .esc]
  | .timerRetry .. | .traceFreeze .. | .cueSchedule .. => [.regs, .time, .teller, .alm]
  | .cueCancel .. => [.regs, .time, .teller, .alm, .rad]
  | .chkFinish .. => [.regs, .time, .teller, .protect]
  | .fifoByteWrite .. => [.regs, .time, .fifos]
  | .fifoPop .. => [.regs, .time, .teller, .fifos, .protect]
  | .fifoPointerFault .. => [.regs, .time, .teller, .fifos]
  | .parityError .. | .scrubPass .. => allBut [.vin, .record, .cfgA, .cfgB, .lamps, .mac, .pkt]
  | .mapEntryRewrite .. => [.regs, .time, .protect]
  | .faultHandoff .. => [.regs, .time, .teller, .alm, .protect, .fxm, .pho, .pool, .lanes, .rad, .esc, .map]
  | .sdiLineReceived .. | .streamPacketReceived .. | .pathLossTimeout .. | .streamFrameTimeout .. => [.regs, .time, .vin]
  | .sourceFrameComplete .. | .generatorPublish .. | .sdiLockLost .. | .sourceLossTimeout .. | .signalReturn .. | .layerRelease .. =>
    [.regs, .time, .teller, .vin]
  | .canvasLineDone .. => [.regs, .time, .teller, .protect, .cmp, .ras, .map]
  | .rasterFrameStart .. => [.regs, .time, .teller, .alm, .ras]
  | .rasterLineMatch .. => [.regs, .time, .alm, .ras]
  | .rasterFrameDone .. | .lineReadback .. => [.regs, .time, .ras]
  | .scanUnderrun .. => [.regs, .time, .teller, .ras]
  | .ltrRecompute .. => [.time, .ras]
  | .attrValueSet .. => [.regs, .time, .teller, .fxm]
  | .tileClaim .. | .tileComplete .. | .mappingDeadline .. => [.regs, .time, .teller, .alm, .pho, .pool, .lanes, .rad, .esc, .map]
  | .tileSampleStart .. | .tileTimeout .. | .engineFailure .. => [.regs, .time, .teller, .alm, .fxm, .pho, .pool, .lanes, .rad, .esc, .map]
  | .engineTestDone .. => [.regs, .time, .teller, .fxm, .map]
  | .kernelLoad .. | .kernelUnload .. => [.regs, .time, .teller, .map]
  | .mapEngineSet .. | .macPortSet .. => allBut [.free, .protect, .record, .cfgA, .cfgB]
  | .reportStaleTimeout .. | .zoneTempSet .. => [.regs, .time, .teller, .pho]
  | .calRecordWrite .. => [.time, .pho]
  | .pixelFrameSend .. => [.regs, .time, .teller, .alm, .protect, .pool, .lanes]
  | .laneTrainingDone .. | .laneRxLoss .. | .laneRange .. => [.regs, .time, .teller, .lanes]
  | .enumerateInterval .. => [.time, .lanes]
  | .enumerateFrameReturn .. | .rangeFrameReturn .. | .laneRangingDone .. | .controlAckTimeout .. | .collectInterval .. | .laneChipWrite ..
  | .laneChipRead .. => [.regs, .time, .teller, .alm, .lanes]
  | .controlFrameReturn .. => [.regs, .time, .teller, .alm, .protect, .fxm, .pho, .lanes, .lamps]
  | .collectFrameReturn .. => [.regs, .time, .teller, .alm, .fifos, .fxm, .pho, .lanes]
  | .strLampSet .. => [.regs, .time, .teller, .alm, .lanes, .lamps]
  | .linkUp .. | .launchSlotFire .. | .tsqPop .. | .tallyRead .. | .tallyAccumulate .. | .pauseFrameReceived .. | .pauseEnd ..
  | .pauseWatchdogTrip .. | .pauseIgnoreEnd .. | .macPairSet .. | .macTallyGet .. => [.regs, .time, .teller, .mac]
  | .linkDown .. | .pairRevert .. | .txFrameStart .. => [.regs, .time, .teller, .pool, .mac]
  | .frameReceived .. => [.regs, .free, .time, .teller, .mac]
  | .wakeFrameMatch .. | .powerReset .. | .w2Reset .. | .powerOnReset .. | .resetPin .. | .thermalTrip .. | .pd2Restart ..
  | .rtcAlarmWake .. | .wakePin .. | .temperatureSample .. | .secRetire .. | .fwActivate .. | .aonRailsGood .. => allBut []
  | .e131PacketReceived .. | .e131SourceTimeout .. | .dmxSourceTimeout .. | .pktEngineFailure .. | .pktGlobalSet .. | .pktCodeLoad .. =>
    [.regs, .time, .teller, .pkt]
  | .universeDiscovery .. => [.time, .mac, .pkt]
  | .dmxFrameReceived .. => [.regs, .time, .teller, .fifos, .pkt]
  | .rdmWindow .. => [.regs, .time, .teller, .dmx]
  | .rdmResponseReceived .. | .rdmResponseTimeout .. => [.regs, .time, .teller, .fifos, .dmx]
  | .rdmRequest .. => [.regs, .time, .teller, .alm, .dmx]
  | .radioSlotStart .. => [.regs, .time, .teller, .alm, .fxm, .pool, .rad, .esc]
  | .radioFrameReceived .. => [.regs, .time, .teller, .fifos, .fxm, .rad, .esc]
  | .radioFwProgressTimer .. | .radioFwLoad .. | .radioFwStart .. => [.regs, .time, .teller, .rad]
  | .leaseRequestInterval .. => [.time, .mac, .esc]
  | .leaseFrameReceived .. => [.regs, .time, .teller, .power, .alm, .pho, .pool, .pkt, .rad, .esc, .map]
  | .leaseExpiry .. => [.regs, .time, .teller, .power, .esc]
  | .escrowRecordWrite .. => [.regs, .time, .teller, .alm, .esc]
  | .escrowFragmentReceived .. => [.regs, .time, .teller, .power, .alm, .protect, .record, .cfgA, .cfgB, .fxm, .esc]
  | .escrowRecordDeadline .. | .probeTimeout .. => [.regs, .time, .teller, .esc]
  | .probeInterval .. => [.regs, .time, .mac, .esc]
  | .probeReceived .. => [.regs, .time, .teller, .protect, .mac, .esc]
  | .pairSet .. | .powerLatencySet .. | .powerDomainSet .. | .pwrGoodRise .. => allBut [.free, .protect, .record, .cfgA, .cfgB, .lamps]
  | .pairRelease .. => [.regs, .time, .teller, .power, .mac, .esc]
  | .ringReadPointerWrite .. | .fragmentTimeout .. => [.time, .teller]
  | .sessionResetDoorbell .. | .udpDatagramReceived .. | .sessionIdleTimeout .. | .sessionReset .. | .secKeyRevoke .. =>
    [.regs, .time, .teller, .power, .lanes, .dmx, .cal, .vlt, .lgr]
  | .commit .. => allBut [.free, .protect]
  | .diagWrite .. => allBut [.record, .cfgA, .cfgB]
  | .powerThermalSet .. | .voltageSample .. => [.regs, .time, .teller, .power]
  | .domainStepDone .. => allBut [.free, .protect, .record, .lamps]
  | .modeChangeDone .. | .bootComplete .. => allBut [.protect, .record, .cfgA, .cfgB, .lamps]
  | .dramIdleEntry .. => [.regs, .time, .power]
  | .pwrGoodTimeout .. => [.time, .teller, .power]
  | .thermalShedStep .. | .vbatLoss .. | .powerUpRetry .. | .avsRetune .. => [.time, .power]
  | .calRun .. | .calAbort .. | .calItemDone .. | .calSectorWriteDone .. => [.regs, .time, .teller, .cal]
  | .laneSkewStep .. => [.regs, .time, .cal]
  | .secKeyEnroll .. | .secRecordSet .. | .secRollbackAdvance .. | .fwBegin .. | .fwBlock .. | .fwEnd .. => [.regs, .time, .teller, .vlt]
  | .ledgerRecordOffer .. | .freezeTimeout .. | .ledgerFreeze .. | .ledgerClear .. | .ledgerLimitSet .. | .ledgerFlush .. =>
    [.regs, .time, .teller, .lgr]
  | .trackerTokenGain .. => [.time, .lgr]
  | .ledgerFlushPeriod .. => [.regs, .time, .lgr]
  | .ledgerChallenge .. => [.regs, .free, .time, .teller, .vlt, .lgr]
  | .fwBlockWriteDone .. => [.regs, .free, .time, .teller, .vlt]

/-! Commands that Teller checks before it executes them (R574). -/

/-- The code of such a command, and its call. -/
def asked (i : Instr) : Option (Nat × Call) :=
  match i with
  | .timeBaseSet c .. => some (0x0110, c)
  | .timeSelect c .. => some (0x0111, c)
  | .timeAcceptStep c .. => some (0x0112, c)
  | .timeStatusGet c => some (0x0113, c)
  | .showTimingSet c .. => some (0x0114, c)
  | .cueSchedule c .. => some (0x0140, c)
  | .cueCancel c .. => some (0x0141, c)
  | .almTraceGet c .. => some (0x0143, c)
  | .inputSet c .. => some (0x0400, c)
  | .inputStreamSet c .. => some (0x0401, c)
  | .generatorSet c .. => some (0x0402, c)
  | .inputStatusGet c .. => some (0x0403, c)
  | .layerBind c .. => some (0x0410, c)
  | .layerRelease c .. => some (0x0411, c)
  | .layerSet c .. => some (0x0412, c)
  | .canvasSet c .. => some (0x0413, c)
  | .compStatusGet c => some (0x0414, c)
  | .monitorSet c .. => some (0x0420, c)
  | .monitorStatusGet c => some (0x0421, c)
  | .fixtureSet c .. => some (0x0430, c)
  | .fixtureGet c .. => some (0x0431, c)
  | .zoneSet c .. => some (0x0432, c)
  | .zoneGet c .. => some (0x0433, c)
  | .attrSet c .. => some (0x0434, c)
  | .attrValueSet c .. => some (0x0435, c)
  | .showGet c => some (0x0436, c)
  | .kernelLoad c .. => some (0x0440, c)
  | .kernelUnload c .. => some (0x0441, c)
  | .effectSet c .. => some (0x0442, c)
  | .mapStatusGet c => some (0x0443, c)
  | .mapEngineSet c .. => some (0x0444, c)
  | .curveSet c .. => some (0x0450, c)
  | .classSet c .. => some (0x0451, c)
  | .calRecordSet c .. => some (0x0452, c)
  | .calRecordGet c .. => some (0x0453, c)
  | .zoneTempSet c .. => some (0x0454, c)
  | .phoStatusGet c => some (0x0455, c)
  | .laneSet c .. => some (0x0460, c)
  | .laneChainSet c .. => some (0x0461, c)
  | .laneGlobalSet c .. => some (0x0462, c)
  | .laneRange c .. => some (0x0463, c)
  | .laneStatusGet c .. => some (0x0464, c)
  | .laneChipWrite c .. => some (0x0465, c)
  | .laneChipRead c .. => some (0x0466, c)
  | .strLaneSet c .. => some (0x0468, c)
  | .strLampSet c .. => some (0x0469, c)
  | .strFaultGet c .. => some (0x046A, c)
  | .macPortSet c .. => some (0x0470, c)
  | .macPairSet c .. => some (0x0471, c)
  | .macWakeSet c .. => some (0x0473, c)
  | .macStatusGet c .. => some (0x0474, c)
  | .macTallyGet c .. => some (0x0475, c)
  | .flowSet c .. => some (0x0480, c)
  | .rxUniverseSet c .. => some (0x0481, c)
  | .pktGlobalSet c .. => some (0x0482, c)
  | .dmxPortSet c .. => some (0x0483, c)
  | .rdmRequest c .. => some (0x0484, c)
  | .pktCodeLoad c .. => some (0x0485, c)
  | .radioSet c .. => some (0x0490, c)
  | .radioNodeSet c .. => some (0x0491, c)
  | .radioGlobalSet c .. => some (0x0496, c)
  | .radioStatusGet c .. => some (0x0492, c)
  | .radioNodeGet c .. => some (0x0493, c)
  | .radioFwLoad c .. => some (0x0494, c)
  | .radioFwStart c .. => some (0x0495, c)
  | .pairSet c .. => some (0x04A0, c)
  | .pairRelease c .. => some (0x04A1, c)
  | .pairStatusGet c => some (0x04A2, c)
  | .identify c => some (0x0001, c)
  | .echo c .. => some (0x0002, c)
  | .noticeMask c .. => some (0x0003, c)
  | .commitOpen c => some (0x0010, c)
  | .commit c .. => some (0x0011, c)
  | .commitAbort c => some (0x0012, c)
  | .stageDrop c .. => some (0x0013, c)
  | .diagRead c .. => some (0x0030, c)
  | .powerLatencySet c .. => some (0x0501, c)
  | .powerDomainSet c .. => some (0x0502, c)
  | .powerSagSet c .. => some (0x0503, c)
  | .powerThermalSet c .. => some (0x0504, c)
  | .powerWakeSet c .. => some (0x0505, c)
  | .powerStatusGet c => some (0x0506, c)
  | .pvtGet c => some (0x0507, c)
  | .calRun c .. => some (0x0520, c)
  | .calAbort c => some (0x0521, c)
  | .calStatusGet c => some (0x0522, c)
  | .calItemGet c .. => some (0x0523, c)
  | .secStatusGet c => some (0x0600, c)
  | .secKeyEnroll c .. => some (0x0601, c)
  | .secKeyRevoke c .. => some (0x0602, c)
  | .secRecordSet c .. => some (0x0603, c)
  | .secProvisionDone c .. => some (0x0604, c)
  | .secRollbackAdvance c .. => some (0x0606, c)
  | .fwBegin c .. => some (0x0610, c)
  | .fwBlock c .. => some (0x0611, c)
  | .fwEnd c .. => some (0x0612, c)
  | .fwAbort c .. => some (0x0614, c)
  | .fwStatusGet c .. => some (0x0615, c)
  | .ledgerStatusGet c => some (0x0680, c)
  | .ledgerRead c .. => some (0x0681, c)
  | .ledgerFreeze c .. => some (0x0682, c)
  | .ledgerChallenge c => some (0x0683, c)
  | .ledgerClear c .. => some (0x0684, c)
  | .ledgerLimitSet c .. => some (0x0685, c)
  | .ledgerFlush c => some (0x0686, c)
  | _ => none

/-! Configuration messages (R568). -/

/-- A configuration message: its code, its payload length in bytes, its call, whether its fields are in their ranges (R695), and what joins the commit. -/
def joining (i : Instr) : Option (Nat × Nat × Call × Bool × ConfigMsg) :=
  match i with
  | .inputSet c p => some (0x0400, 16, c, inputSetOk p, .inputSet p)
  | .inputStreamSet c p => some (0x0401, 48, c, inputStreamSetOk p, .inputStreamSet p)
  | .generatorSet c p => some (0x0402, 32, c, generatorSetOk p, .generatorSet p)
  | .layerBind c p => some (0x0410, 8, c, layerBindOk p, .layerBind p)
  | .layerSet c p => some (0x0412, 48, c, layerSetOk p, .layerSet p)
  | .canvasSet c p => some (0x0413, 16, c, true, .canvasSet p)
  | .monitorSet c p => some (0x0420, 40, c, monitorSetOk p, .monitorSet p)
  | .fixtureSet c p => some (0x0430, (8 + 64 * p.entries.length), c, fixtureSetOk p, .fixtureSet p)
  | .zoneSet c p => some (0x0432, 16, c, zoneSetOk p, .zoneSet p)
  | .attrSet c p => some (0x0434, (8 + 32 * p.descs.length), c, attrSetOk p, .attrSet p)
  | .effectSet c p => some (0x0442, (8 + 32 * p.records.length), c, effectSetOk p, .effectSet p)
  | .curveSet c p => some (0x0450, (if p.type = 3 then 15380 else 16), c, decide (p.curve ≤ 63), .curveSet p)
  | .classSet c p => some (0x0451, 296, c, decide (p.cls ≤ 63), .classSet p)
  | .calRecordSet c p => some (0x0452, (8 + 24 * p.records.length), c, calRecordSetOk p, .calRecordSet p)
  | .laneSet c p => some (0x0460, 24, c, laneSetOk p, .laneSet p)
  | .laneChainSet c p => some (0x0461, (8 + 2 * p.counts.length), c, decide (p.lane ≤ 31) && decide (p.format ≤ 1), .laneChainSet p)
  | .laneGlobalSet c p => some (0x0462, 8, c, true, .laneGlobalSet p)
  | .strLaneSet c p => some (0x0468, 16, c, strLaneSetOk p, .strLaneSet p)
  | .flowSet c p => some (0x0480, (8 + 64 * p.contexts.length), c, decide (1 ≤ p.contexts.length) && decide (p.contexts.length ≤ 512) && decide (p.first + p.contexts.length ≤ 16384), .flowSet p)
  | .rxUniverseSet c p => some (0x0481, (8 + 8 * p.entries.length), c, decide (1 ≤ p.entries.length) && decide (p.entries.length ≤ 1024) && decide (p.first + p.entries.length ≤ 16384), .rxUniverseSet p)
  | .dmxPortSet c p => some (0x0483, 16, c, decide (p.port ≤ 15) && decide (p.mode ≤ 2) && decide (p.entry < 16384), .dmxPortSet p)
  | .radioSet c p => some (0x0490, 32, c, radioSetOk p, .radioSet p)
  | .radioNodeSet c p => some (0x0491, (8 + 24 * p.records.length), c, radioNodesOk p, .radioNodeSet p)
  | _ => none

/-! Commands (R563, R574 to R576). -/

/-- A state in which a command of `code` on the call `c` is executed: Teller runs, the part has the block, the mode allows the command, its
block is on, and the session is open. -/
structure Ready (code : Nat) (c : Call) (s : State) : Prop where
  wf : RegsWf s.regs
  runs : tellerRuns s = true
  part : codeIsRadio code = true → s.part = .rk9200
  mode : modeOk code s.power.mode = true
  up : codeReady s code = true
  live : (sess s c.session).isOpen = true

/-- What a response says. -/
def saying (q : Resp) : Word × Nat × Status × Nat × List Int := (q.seq, q.code, q.status, q.len, q.fields)

/-- `t` is `x` with the response `r` to the command given: it is the newest of the session's cache; no other session, register or component
changes but the rings, the check channel that serves the session (R561), and TLR_RSP_MAX. -/
structure Answers (code : Nat) (c : Call) (r : Reply) (x t : State) : Prop where
  only : Only [.regs, .teller] x t
  response : (sess t c.session).cache.head?.map saying = some (c.seq, code, r.status, r.len, r.fields)
  others : ∀ i : Fin 5, i ≠ c.session → sess t i = sess x i
  teller : t.teller = { x.teller with sessions := t.teller.sessions, rings := t.teller.rings, checked := t.teller.checked }
  runs : ∀ ch, ch ≠ sendChannel c.session → aFind t.teller.checked ch = aFind x.teller.checked ch
  regs : ∀ a, a ≠ R.TLR_RSP_MAX → reg t a = reg x a

/-- The command `i` completes at `s`: it takes the machine to `x` and is answered with `r`. -/
def Done (i : Instr) (code : Nat) (c : Call) (r : Reply) (x s : State) : Prop := ∃ t, exec i s = .next t ∧ Answers code c r x t

/-- The command `i` takes the machine to `x` and is answered with `r` there, if the session is still open (R563). -/
def Ends (i : Instr) (code : Nat) (c : Call) (r : Reply) (x s : State) : Prop := exec i s = .next (respond code c r x)

/-- The event `i` takes the machine to a state of which `P` holds. -/
def Goes (i : Instr) (s : State) (P : State → Prop) : Prop := ∃ x, exec i s = .next x ∧ P x

/-- Of the registers, `ws` are written, and nothing else changes. -/
structure Wrote (ws : List (Nat × Word)) (s x : State) : Prop where
  only : Only [.regs] s x
  regs : ∀ a, reg x a = (ws.lookup a).getD (reg s a)

/-! Notices (R566, R567). -/

/-- Registers that a notice touches: Teller's counts of notices, and the flag of a full queue. -/
def noticeRegs : List Nat := [R.TLR_CNT_NTC, R.TLR_CNT_NTC_LOST, R.TLR_INT_STAT]

/-- `t` is `x` with one notice sent: it is offered to the Ledger; a session that is open and whose mask takes its class has it as its newest
notice, in its ring or in its queue, where there is room; a session that does not take it is as before; only Teller's sending check channels run
(R561); nothing else changes. -/
structure Told (code len : Nat) (fields : List Int) (x t : State) : Prop where
  only : Only [.regs, .teller] x t
  offered : t.teller.ledgerOffers = x.teller.ledgerOffers ++ [(code, st64 x, fields)]
  teller : t.teller = { x.teller with
    sessions := t.teller.sessions, rings := t.teller.rings, checked := t.teller.checked, ledgerOffers := t.teller.ledgerOffers }
  runs : ∀ ch, ch ∉ [1, 6, 7] → aFind t.teller.checked ch = aFind x.teller.checked ch
  regs : RegsWf x.regs → ∀ a, a ∉ noticeRegs → reg t a = reg x a
  deaf : ∀ i : Fin 5, tellerRuns x = false ∨ (sess x i).isOpen = false ∨ bitOf (sess x i).mask (noticeClass code) = false → sess t i = sess x i
  heard : tellerRuns x = true → (sess x 0).isOpen = true → bitOf (sess x 0).mask (noticeClass code) = true → (sess x 0).queue = [] →
    msgUnits len ≤ ntcRoom x.teller.rings →
    (sess t 0).notices = (sess x 0).notices ++ [⟨(sess x 0).ntcNext, code, noticeClass code, st64 x, len, fields⟩]
  queued : tellerRuns x = true → ∀ i : Fin 5, (sess x i).isOpen = true → bitOf (sess x i).mask (noticeClass code) = true →
    (sess x i).queue ≠ [] → (sess x i).queue.length < 1024 →
    ∃ q, (sess t i).queue = (sess x i).queue ++ [(⟨q, code, noticeClass code, st64 x, len, fields⟩, x.time.now)]

/-! Accesses that fail (R59, R60). -/

/-- What SYS_BUSERR holds after a failed access at `a`, by what it held before. -/
structure Captured (cause : Nat) (write : Bool) (a : Nat) (old new : Word) : Prop where
  valid : bitOf new 31 = true
  first : bitOf old 31 = false → bits new 30 29 = cause ∧ bits new 28 28 = bNat write ∧ bits new 27 24 = 1 ∧ bits new 23 0 = (a - regBase) % 16777216
  later : bitOf old 31 = true → bits new 30 29 = bits old 30 29 ∧ bits new 28 28 = bits old 28 28 ∧ bits new 23 0 = bits old 23 0 ∧
    bits new 27 24 = min 15 (bits old 27 24 + 1)

/-- A register whose write does nothing but store: none of those whose write starts an operation of its block. -/
def plainRow (d : RegDesc) : Bool :=
  !([R.SYS_BUSERR, R.TIM_CTRL, R.TIM_STEP_THRESH, R.TIM_TBn_CFG 0, R.ALM_ADV_RADIO, R.ALM_TRACE_CTRL, R.ALM_Zz_DELAY 0, R.CHK_CHn_CTRL 0, R.CHK_CHn_RUN 0,
    R.CHK_CHn_ALIVE 0, R.CHK_CHn_FEED 0, R.CMP_COMMIT, R.RAS_COMMIT, R.FXM_COMMIT, R.PHO_ZTEMPz 0, R.MAC_CTRL 0, R.MAC_CFG 0, R.MAC_PAIR 0,
    R.MAC_RRr_PTR 0 0, R.RAD_Xn_CFG 0, R.PWR_Dd_LAT 0, R.PVT_TLIM_SHOW, R.PVT_TLIM_SOAK, R.CAL_SKEWl 0, R.CAL_REF_FREQ,
    R.CAL_HKC_TRIM, R.CAL_SYNC_DELAY, R.RAD_Xn_TRIM 0].contains d.base)

/-- Words written in ascending order, each as REGISTER_WRITE through BAR1 writes it (R577). -/
def WordsWritten (t a : Nat) (words : List Word) (x y : State) : Prop :=
  match words with
  | [] => y = x
  | w :: r => ∃ z, exec (.registerWrite t .bar1 a w) x = .next z ∧ WordsWritten t (a + 4) r z y

end Sys2Proof.Safety
end

