-- ==== Sys2Proof/Certificates/Slice0/Obligations.lean ====
section
/-! DEFINITION. The statements for the provers: what the commands of the block do, by the rules of the spec, and what every step keeps. -/

open Sys2Proof Sys2Proof.Machine Sys2Proof.Safety

/-! The queue. -/

/-- A step runs the command at the front of the queue, with the rest of the queue in the state that it runs on. -/
def Obligations.StepRunsFrontCommand : Prop :=
  ∀ (c : Instr) (q : List Instr) (s : State), step { s with pending := c :: q } = exec c { s with pending := q }

/-- With no command waiting the block idles: the model's choice (log entry 1). -/
def Obligations.EmptyQueueIdles : Prop := ∀ s : State, s.pending = [] → step s = .next s

/-- No command stops the block: every step answers a next state. What each command does is said of it below. -/
def Obligations.EveryStepCompletes : Prop := (∀ (i : Instr) (s : State), ∃ t, exec i s = .next t) ∧ ∀ s : State, Completes s

/-- The frame of every command: the part, the queue and every component of the state outside the command's footprint stay as they are. -/
def Obligations.FrameOfEveryCommand : Prop := ∀ (i : Instr) (s t : State), exec i s = .next t → Only (footprint i) s t

/-! What every step keeps. -/

/-- The invariant holds after reset. -/
def Obligations.ResetWf : Prop := Wf State.reset

/-- Every step keeps the invariant. The register file's canonical form is the model's own; the bounds of the two buffers are those of R659 and
R666. -/
def Obligations.StepKeepsWf : Prop := ∀ s t : State, Wf s → step s = .next t → Wf t

/-- No command takes back what OTP holds: the security state, the rollback counter, the written and the revoked slots. -/
def Obligations.VaultOnward : Prop := ∀ s t : State, step s = .next t → Onward s.vlt t.vlt

/-- ST64 never decreases (R24), the high-water mark carrying it over stops and resets (R82). Only the loss of VBAT loses the mark. -/
def Obligations.ShowTimeNeverGoesBack : Prop :=
  ∀ (i : Instr) (s t : State), (∀ u, i ≠ .vbatLoss u) → exec i s = .next t → ShowOnward s.time t.time ∧ s.time.now ≤ t.time.now

/-- What a response does (R563), and all it does. -/
def Obligations.ResponseGiven : Prop :=
  ∀ (code : Nat) (c : Call) (r : Reply) (x : State), RegsWf x.regs → (sess x c.session).isOpen = true → Answers code c r x (respond code c r x)

/-- What a notice does, and all it does. -/
def Obligations.NoticeSent : Prop := ∀ (code len : Nat) (fields : List Int) (x : State), Told code len fields x (notify code len fields x)

/-- The checks before a command (R574 to R576), for every command that `asked` lists. -/
def Obligations.CommandTurnedAway : Prop :=
  ∀ (i : Instr) (code : Nat) (c : Call) (s : State), asked i = some (code, c) →
    (tellerRuns s = false → exec i s = .next (advance c.t s)) ∧
    (tellerRuns s = true → codeIsRadio code = true → s.part = .rk9210 →
      exec i s = .next (respond code c ⟨.unsupportedFeature, 0, []⟩ (advance c.t s))) ∧
    (tellerRuns s = true → (codeIsRadio code = true → s.part = .rk9200) → modeOk code s.power.mode = false →
      exec i s = .next (respond code c ⟨.wrongMode, 0, []⟩ (advance c.t s))) ∧
    (tellerRuns s = true → (codeIsRadio code = true → s.part = .rk9200) → modeOk code s.power.mode = true → codeReady s code = false →
      exec i s = .next (respond code c ⟨.notReady, 0, []⟩ (advance c.t s)))

/-! Configuration messages (R568 to R570). -/

/-- The 23 configuration messages: `joining` gives each its code, its length, the check of its ranges and what joins the commit. -/
def Obligations.ConfigurationJoinsCommit : Prop :=
  ∀ (i : Instr) (code len : Nat) (c : Call) (ok : Bool) (m : ConfigMsg) (s : State), joining i = some (code, len, c, ok, m) → Ready code c s →
    (∀ o, s.teller.openCommit = some o → o.owner = c.session → ok = true → o.msgs.length < 65536 → o.bytes + len ≤ 134217728 →
      Done i code c ⟨.ok, 0, []⟩ { advance c.t s with teller := { s.teller with
        openCommit := some { o with msgs := o.msgs ++ [m], bytes := o.bytes + len } } } s) ∧
    ((∀ o, s.teller.openCommit = some o → o.owner ≠ c.session) → Done i code c ⟨.noCommit, 0, []⟩ (advance c.t s) s) ∧
    (∀ o, s.teller.openCommit = some o → o.owner = c.session → ok = false → Done i code c ⟨.invalidParameter, 0, []⟩ (advance c.t s) s) ∧
    (∀ o, s.teller.openCommit = some o → o.owner = c.session → ok = true → (65536 ≤ o.msgs.length ∨ 134217728 < o.bytes + len) →
      Done i code c ⟨.resourceExhausted, 0, []⟩ (advance c.t s) s)

/-! Registers and the fabric (R16 to R22, R57 to R61, R99, R577). -/

/-- The machine right after a power-on reset. Reset values that the spec does not give are the model's (log entry 3). -/
def Obligations.ResetState : Prop :=
  (∀ a, reg State.reset a = resetWord a) ∧ State.reset.power.mode = .boot ∧ State.reset.time.running = false ∧
  (∀ i : Fin 5, (sess State.reset i).isOpen = false) ∧ State.reset.pending = [] ∧ secCode State.reset.vlt.state = 0 ∧
  State.reset.vlt.written = 15 ∧ State.reset.lgr.buffer = [] ∧ (∀ d < 14, domState State.reset d = .off ∨ d < 2)

/-- A write to a register whose write does nothing but store: `mergeWord` is what it then holds, at its one home address (R18, R20). The RAD block
that the RK9210 lacks ignores it (R8). -/
def Obligations.RegisterWriteStores : Prop :=
  ∀ (t : Nat) (m : Master) (a : Nat) (v : Word) (d : RegDesc) (s : State), RegsWf s.regs → writeCause s m a = none → findReg a = some d →
    plainRow d = true → (radAbsent s a = true → exec (.registerWrite t m a v) s = .next (advance t s)) ∧
      (radAbsent s a = false → Goes (.registerWrite t m a v) s fun x =>
        Wrote [(homeAddr a, mergeWord d (reg s (homeAddr a)) v)] (advance t s) x)

/-- The access types of R20 under a write, bit by bit, for a register whose rule stores no value other than the written one. -/
def Obligations.WriteByAccessType : Prop :=
  ∀ (d : RegDesc) (old v : Word) (i : Nat), i < 32 → (∀ w, storedAs d w = w) → (d.rw ||| d.rws) &&& d.w1c = 0 →
    (mergeWord d old v).getLsbD i =
      if (d.rw ||| d.rws).testBit i then v.getLsbD i else if d.w1c.testBit i then old.getLsbD i && !v.getLsbD i else old.getLsbD i

/-- Failed accesses (R35, R57), and SYS_BUSERR (R59, R60). -/
def Obligations.FailedAccessCaptured : Prop :=
  ∀ (t : Nat) (m : Master) (a c : Nat) (v : Word) (s : State), RegsWf s.regs → domainUp s 1 = true →
    (writeCause s m a = some c → ∃ x w, exec (.registerWrite t m a v) s = .next x ∧ Wrote [(R.SYS_BUSERR, w)] (advance t s) x ∧
      Captured c true a (reg s R.SYS_BUSERR) w) ∧
    (readCause s a = some c → ∃ x w, exec (.rcCounterRead t a v) s = .next x ∧ Wrote [(R.SYS_BUSERR, w)] (advance t s) x ∧
      Captured c false a (reg s R.SYS_BUSERR) w ∧ x.regs.lastRead = some (a, 0)) ∧
    (findReg a = none → readCause s a = some 0 ∧ ∃ e, writeCause s m a = some e)

/-- R21, for every register with a W1C field but SYS_BUSERR (R60 has its own statement), every RC field and every Tally counter; `counted` holds the counts of the
very clock, each 1 in its own field. A Tally counter is read as of the instant of the read: `w` is the machine with what the port counts up to it. -/
def Obligations.SameClock : Prop :=
  (∀ (t : Nat) (m : Master) (a : Nat) (v set : Word) (d : RegDesc) (s : State) (i : Nat), RegsWf s.regs → writeCause s m a = none →
    findReg a = some d → plainRow d = true → radAbsent s a = false → i < 32 → d.w1c.testBit i = true → set.getLsbD i = true →
    ∃ x, exec (.w1cWrite t m a v set) s = .next x ∧ Only [.regs] (advance t s) x ∧ (reg x (homeAddr a)).getLsbD i = true ∧
      ∀ b, b ≠ homeAddr a → reg x b = reg s b) ∧
  (∀ (t a : Nat) (counted : Word) (d : RegDesc) (s : State), RegsWf s.regs → readCause s a = none → findReg a = some d → d.rc ≠ 0 →
    d.base ≠ R.MAC_TALLYi_LO 0 0 → d.base ≠ R.FIF_Qn_RD_LO 0 → aFind s.regs.latched a = none →
    ∃ x, exec (.rcCounterRead t a counted) s = .next x ∧ x.regs.lastRead = some (a, regValue (advance t s) a) ∧ Only [.regs] (advance t s) x ∧
      (∀ i < 32, (reg x (homeAddr a)).getLsbD i = if d.rc.testBit i then counted.getLsbD i else (reg s (homeAddr a)).getLsbD i) ∧
      ∀ b, b ≠ homeAddr a → reg x b = reg s b) ∧
  (∀ (t : Nat) (p : Fin 11) (i : Fin 24) (s : State), readCause s (R.MAC_TALLYi_LO p i) = none →
    ∃ x w, w = pauseSettle p (tsqSettle p (advance t s)) ∧ exec (.rcCounterRead t (R.MAC_TALLYi_LO p i) 1) s = .next x ∧
      x.regs.lastRead = some (R.MAC_TALLYi_LO p i, loWord ((vGet (portOf w p).tally i 0 : Nat) : Int)) ∧ vGet (portOf x p).tally i 0 = 1 ∧
      (∀ q : Fin 11, ∀ j : Fin 24, (q, j) ≠ (p, i) → vGet (portOf x q).tally j 0 = vGet (portOf w q).tally j 0) ∧
      ((portOf s p).tsqExtra = none → (portOf s p).pausedFrom = none → vGet (portOf w p).tally i 0 = vGet (portOf s p).tally i 0) ∧
      Only [.regs, .teller, .mac] (advance t s) x)

/-- R60's second sentence; the error of the same clock is given by the command's word `e`. A write that does not clear valid leaves it to R60's first. -/
def Obligations.BusErrorSameClock : Prop :=
  ∀ (t : Nat) (v e : Word) (s : State), RegsWf s.regs → domainUp s 1 = true →
    (bitOf v 31 = false → bitOf (reg s R.SYS_BUSERR) 31 = true → bitOf e 31 = true → Goes (.w1cWrite t .fabric R.SYS_BUSERR v e) s fun x =>
      bits (reg x R.SYS_BUSERR) 27 24 = min 15 (bits (reg s R.SYS_BUSERR) 27 24 + 1) ∧ bits (reg x R.SYS_BUSERR) 31 28 = bits (reg s R.SYS_BUSERR) 31 28 ∧
      bits (reg x R.SYS_BUSERR) 23 0 = bits (reg s R.SYS_BUSERR) 23 0) ∧
    (bitOf v 31 = true →
    ∃ x w, exec (.w1cWrite t .fabric R.SYS_BUSERR v e) s = .next x ∧ Wrote [(R.SYS_BUSERR, w)] (advance t s) x ∧
      (bitOf e 31 = true → bitOf w 31 = true ∧ bits w 27 24 = 1 ∧ bits w 30 29 = bits e 30 29 ∧ bits w 28 28 = bits e 28 28 ∧ bits w 23 0 = bits e 23 0) ∧
      (bitOf e 31 = false → bitOf w 31 = false ∧ bits w 27 24 = 0 ∧ bits w 30 28 = bits (reg s R.SYS_BUSERR) 30 28 ∧
        bits w 23 0 = bits (reg s R.SYS_BUSERR) 23 0))

/-- R99 for the six pairs of TIM and the four time bases. -/
def Obligations.LatchedPair : Prop :=
  ∀ (t u lo hi : Nat) (s : State), RegsWf s.regs → domainUp s 2 = true →
    (lo, hi) ∈ [(R.TIM_ST64_LO, R.TIM_ST64_HI), (R.TIM_CORR_LO, R.TIM_CORR_HI), (R.TIM_EPOCH_ADJ_LO, R.TIM_EPOCH_ADJ_HI), (R.TIM_HWM_LO, R.TIM_HWM_HI),
      (R.TIM_FORIGIN_LO, R.TIM_FORIGIN_HI), (R.TIM_FCOUNT_LO, R.TIM_FCOUNT_HI)] ++
      (List.range 4).flatMap (fun n => [(R.TIM_TBn_SEC_LO n, R.TIM_TBn_SEC_HI n), (R.TIM_TBn_SEC_LO n, R.TIM_TBn_NS n)]) →
    ∃ x y, exec (.latchedLoRead t lo) s = .next x ∧ exec (.latchedLoRead u hi) x = .next y ∧
      y.regs.lastRead = some (hi, regValue (advance t s) hi) ∧ Only [.regs, .time] s y ∧ ∀ a, reg y a = reg s a

/-- R22: the read answers the words as they are, and leaves every register (but the capture of a failed word) and every FIFO as it was. -/
def Obligations.DiagReadNoSideEffect : Prop :=
  ∀ (c : Call) (offset n : Nat) (s : State), Ready 0x0030 c s → offset % 4 = 0 → 1 ≤ n → n ≤ 256 →
    ∃ x, Done (.diagRead c offset n) 0x0030 c ⟨.ok, 8 + 4 * n, [(offset : Int), n] ++
        (List.range n).map (fun i => ((readWord (advance c.t s) (regBase + offset + 4 * i)).toNat : Int))⟩ x s ∧
      Only [.regs] (advance c.t s) x ∧ (∀ a, a ≠ R.SYS_BUSERR → reg x a = reg s a) ∧ x.regs.latched = s.regs.latched ∧
      ((∀ i < n, readCause s (regBase + offset + 4 * i) = none) → x = advance c.t s)

/-- DIAG_WRITE (R577, R631): in approved mode it is refused, and captured as a failed write. -/
def Obligations.DiagWriteInOrder : Prop :=
  ∀ (c : Call) (offset : Nat) (words : List Word) (s : State), Ready 0x0031 c s → offset % 4 = 0 → 1 ≤ words.length → words.length ≤ 64 →
    (approved s = false → ∃ x, WordsWritten c.t (regBase + offset) words (advance c.t s) x ∧
      exec (.diagWrite c offset words) s = .next (respond 0x0031 c ⟨.ok, 0, []⟩ x)) ∧
    (approved s = true → ∃ x, Done (.diagWrite c offset words) 0x0031 c ⟨.unauthorized, 0, []⟩ x s ∧ Only [.regs] (advance c.t s) x ∧
      ∀ a, a ≠ R.SYS_BUSERR → a ≠ R.VLT_CNT_UNAUTH → reg x a = reg s a)

/-- Writes that start an operation of their block, where the write is accepted. -/
def Obligations.OperationWrites : Prop :=
  ∀ (t : Nat) (m : Master) (v : Word) (s : State), RegsWf s.regs →
    (∀ tb : Fin 4, writeCause s m (R.TIM_TBn_CFG tb) = none → bits (reg s (R.TIM_TBn_CFG tb)) 2 0 ≠ bits v 2 0 % 7 →
      ∃ x, exec (.tbCfgWrite t m tb v) s = .next x ∧ bits (reg x (R.TIM_TBn_CFG tb)) 2 0 = bits v 2 0 % 7 ∧
        bits (reg x (R.TIM_TBn_CFG tb)) 31 6 = bits v 31 6 ∧ (tbOf x tb).activeB = false ∧
        (tbOf x tb).state = if bits v 2 0 % 7 = 0 then .free else .acquiring) ∧
    (writeCause s m R.TIM_CTRL = none → ∃ x, exec (.showTbWrite t m v) s = .next x ∧ selTb x = bits v 1 0 ∧
      x.time.st64 = (advance t s).time.st64 ∧
      (s.time.running = true → corrC x = corrC (advance t s) + (tbTime (tbOf (advance t s) (bits v 1 0)) - tbTime (tbOf (advance t s) (selTb s))))) ∧
    (writeCause s m R.ALM_TRACE_CTRL = none → bitOf v 1 = true → ∃ x, exec (.traceUnfreeze t m v) s = .next x ∧ Only [.regs, .time, .alm] s x ∧
      x.alm = (if s.alm.traceFrozen then { s.alm with traceFrozen := false, traceTrigger := none } else s.alm) ∧ ∀ a, a ≠ R.ALM_TRACE_CTRL → reg x a = reg s a) ∧
    (writeCause s m R.CMP_COMMIT = none → bitOf v 0 = true → ∃ x tag at_, exec (.cmpCommitGo t m v) s = .next x ∧ Only [.time, .cmp] s x ∧
      x.cmp = { s.cmp with armed := some (tag, at_) } ∧ unsignedOf 32 tag = regN s R.CMP_COMMIT_TAG ∧ s.time.fcount < at_) ∧
    (writeCause s m R.RAS_COMMIT = none → bitOf v 0 = true → ∃ x tag, exec (.rasCommitGo t m v) s = .next x ∧ Only [.time, .ras] s x ∧
      x.ras = { s.ras with armed := some (tag, tag) } ∧ unsignedOf 32 tag = regN s R.RAS_COMMIT_TAG) ∧
    (writeCause s m R.FXM_COMMIT = none → bitOf v 0 = true → ∃ x tag at_, exec (.fxmCommitGo t m v) s = .next x ∧ Only [.time, .fxm] s x ∧
      x.fxm = { s.fxm with armed := [(tag, at_)] } ∧ unsignedOf 32 tag = regN s R.FXM_COMMIT_TAG ∧ s.time.fcount < at_)

/-! Show time (R62 to R106). -/

/-- TIME_BASE_SET, TIME_SELECT, TIME_ACCEPT_STEP, SHOW_TIMING_SET and TIME_STATUS_GET. -/
def Obligations.ShowTimeCommands : Prop :=
  ∀ (c : Call) (s : State),
    (∀ p : TimeBaseSet, Ready 0x0110 c s → p.tb ≤ 3 → p.source ≤ 6 → p.portA ≤ 10 ∨ p.portA = 15 → p.portB ≤ 10 ∨ p.portB = 15 → p.domainA ≤ 127 →
      p.domainB ≤ 127 → instancesFit s p.tb (baseWord p) = true → (p.source = 3 → genlockOk s s.time.rateN s.time.rateD = true) →
      Ends (.timeBaseSet c p) 0x0110 c ⟨.ok, 0, []⟩ (tbCfgApply p.tb (baseWord p)
        (setReg (R.TIM_TBn_LTC_DAY p.tb) (BitVec.ofNat 32 p.ltcDay) (setReg (R.TIM_TBn_AB_LIMIT p.tb) (BitVec.ofNat 32 p.abLimit)
          (setReg (R.TIM_TBn_REF_OFFSET p.tb) (loWord p.refOffset) (advance c.t s))))) s) ∧
    (∀ p : TimeBaseSet, Ready 0x0110 c s → 3 < p.tb ∨ 6 < p.source ∨ (10 < p.portA ∧ p.portA ≠ 15) ∨ (10 < p.portB ∧ p.portB ≠ 15) ∨
      127 < p.domainA ∨ 127 < p.domainB ∨ instancesFit s p.tb (baseWord p) = false ∨
      (p.source = 3 ∧ genlockOk s s.time.rateN s.time.rateD = false) →
      Done (.timeBaseSet c p) 0x0110 c ⟨.invalidParameter, 0, []⟩ (advance c.t s) s) ∧
    (∀ p : TimeSelect, Ready 0x0111 c s → p.tb ≤ 3 → 1 ≤ p.slew → p.slew ≤ 1000 → 10 ≤ p.threshold → p.threshold ≤ 1000000 → p.startWait ≤ 65535 →
      Ends (.timeSelect c p) 0x0111 c ⟨.ok, 0, []⟩ (withdrawStep (selectTb p.tb (setReg R.TIM_START_WAIT (BitVec.ofNat 32 p.startWait)
        (setReg R.TIM_STEP_THRESH (BitVec.ofNat 32 p.threshold) (setReg R.TIM_SLEW (BitVec.ofNat 32 p.slew) (advance c.t s)))))) s) ∧
    (∀ p : TimeSelect, Ready 0x0111 c s → 3 < p.tb ∨ p.slew < 1 ∨ 1000 < p.slew ∨ p.threshold < 10 ∨ 1000000 < p.threshold ∨ 65535 < p.startWait →
      Done (.timeSelect c p) 0x0111 c ⟨.invalidParameter, 0, []⟩ (advance c.t s) s) ∧
    (∀ (p : TimeAcceptStep) (h : p.tb < 4) (x : State), Ready 0x0112 c s → p.mode ≤ 2 → x = withdrawStep (advance c.t s) →
      (tbOf x p.tb).state = .discontinuity → (tbOf x p.tb).stepId = p.stepId →
      (p.tb = selTb x → p.mode = 2 → Ends (.timeAcceptStep c p) 0x0112 c ⟨.ok, 0, []⟩ x s) ∧
      (p.tb = selTb x → p.mode < 2 → Ends (.timeAcceptStep c p) 0x0112 c ⟨.ok, 0, []⟩
        { x with time := { x.time with accepts := x.time.accepts ++ [⟨⟨p.tb, h⟩, p.mode, p.stepId, st64 x⟩] } } s) ∧
      (p.tb ≠ selTb x → ∃ y, Ends (.timeAcceptStep c p) 0x0112 c ⟨.ok, 0, []⟩ y s ∧ Only [.regs, .time, .teller] x y ∧
        (tbOf y p.tb).state = (if (activePath (tbOf x p.tb)).lost then .holdover else .locked) ∧ y.time.epochAdj = x.time.epochAdj)) ∧
    (∀ (p : TimeAcceptStep) (x : State), Ready 0x0112 c s → p.tb < 4 → p.mode ≤ 2 → x = withdrawStep (advance c.t s) →
      (tbOf x p.tb).state ≠ .discontinuity ∨ (tbOf x p.tb).stepId ≠ p.stepId → Ends (.timeAcceptStep c p) 0x0112 c ⟨.notFound, 0, []⟩ x s) ∧
    (∀ p : ShowTimingSet, Ready 0x0114 c s → rateOk p.n p.d = true → (genlockUsed s = true → genlockOk s p.n p.d = true) →
      rateCarries (advance c.t s) p.n p.d = true → ∃ x, Done (.showTimingSet c p) 0x0114 c ⟨.ok, 0, []⟩ x s ∧ Only [.regs, .time] s x ∧
      x.time = { (advance c.t s).time with rateN := p.n, rateD := p.d } ∧
      ∀ a, reg x a = (([(R.TIM_FORIGIN_HI, hiWord p.origin), (R.TIM_FORIGIN_LO, loWord p.origin), (R.TIM_FRATE_DEN, BitVec.ofNat 32 p.d),
        (R.TIM_FRATE_NUM, BitVec.ofNat 32 p.n)] : List (Nat × Word)).lookup a).getD (reg s a)) ∧
    (∀ p : ShowTimingSet, Ready 0x0114 c s → rateOk p.n p.d = false ∨ (genlockUsed s = true ∧ genlockOk s p.n p.d = false) →
      Done (.showTimingSet c p) 0x0114 c ⟨.invalidParameter, 0, []⟩ (advance c.t s) s) ∧
    (Ready 0x0113 c s → ∃ fields, Done (.timeStatusGet c) 0x0113 c ⟨.ok, 144, fields⟩ (advance c.t s) s ∧ fields.length = 48 ∧
      fields.take 3 = [st64 (advance c.t s), (selTb s : Int), (bNat s.time.running + 2 * bNat s.time.hwmValid : Nat)])

/-- R84 for every update of every time base; where the servo steps (R65) the step itself, measured against the value that the time base had. -/
def Obligations.StepMovesCorrection : Prop :=
  ∀ (t : Nat) (tb : Fin 4) (b : Bool) (u : SourceUpdate) (s : State), ∃ x, exec (.tbSourceUpdate t tb b u) s = .next x ∧
      x.time.st64 = (advance t s).time.st64 ∧ x.time.running = s.time.running ∧ x.time.epochAdj = s.time.epochAdj ∧
      (pathUsed s tb b = false → x = advance t s) ∧
      (∀ a, pathUsed s tb b = true → hasInstances s tb = true → u.announce = some a →
        x = modTb tb (onPath b (announced (advance t s).time.now a)) (advance t s)) ∧
      (pathUsed s tb b = true → hasInstances s tb = true → u.announce = none → syncAccepted u (pathOf (tbOf s tb) b) = false → x = advance t s) ∧
      (pathUsed s tb b = true → hasInstances s tb = true → u.announce = none → syncAccepted u (pathOf (tbOf s tb) b) = true → u.valid = true →
        b = (tbOf s tb).activeB → (pathOf (tbOf s tb) b).rel = 0 → RegsWf s.regs →
        2000 ≤ (u.offset + signed 32 (regN s (R.TIM_TBn_REF_OFFSET tb))).natAbs →
        (tbOf x tb).ns = (tbOf (advance t s) tb).ns + (u.offset + signed 32 (regN s (R.TIM_TBn_REF_OFFSET tb))) ∧
        (pathOf (tbOf x tb) b).lost = false ∧ (tbOf x tb).offset = u.offset + signed 32 (regN s (R.TIM_TBn_REF_OFFSET tb)))

/-- REFERENCE_LOST and DOMAIN_REVERT (R63, R66, R67, R95, R97). -/
def Obligations.ReferenceEvents : Prop :=
  ∀ (t : Nat) (tb : Fin 4) (s : State), RegsWf s.regs →
    (∀ b, pathUsed s tb b = false ∨ refLossDue (tbSource s tb) (advance t s).time.now (pathOf (tbOf s tb) b) = false →
      exec (.referenceLost t tb b) s = .next (advance t s)) ∧
    (∀ b, pathUsed s tb b = true → refLossDue (tbSource s tb) (advance t s).time.now (pathOf (tbOf s tb) b) = true →
      ∃ x, exec (.referenceLost t tb b) s = .next x ∧ Only [.regs, .time, .teller] s x ∧ x.time.st64 = (advance t s).time.st64 ∧
        (pathOf (tbOf x tb) b).lost = true ∧ (pathOf (tbOf x tb) b).locked = false ∧ (tbOf x tb).ns = (tbOf (advance t s) tb).ns ∧
        (b ≠ (tbOf s tb).activeB → (tbOf x tb).state = (tbOf s tb).state ∧ (tbOf x tb).activeB = (tbOf s tb).activeB) ∧
        (b = (tbOf s tb).activeB → pathUsed s tb (!b) = false → (tbOf s tb).state = .locked →
          (tbOf x tb).state = .holdover ∧ (tbOf x tb).activeB = b ∧ (tbOf x tb).freq = holdFreq (advance t s).time.now
            { tbOf (advance t s) tb with lockedTill := some (advance t s).time.now }) ∧
        (b = (tbOf s tb).activeB → pathUsed s tb (!b) = true → (pathOf (tbOf s tb) (!b)).locked = true → abWithin s tb = true →
          (tbOf x tb).activeB = !b)) ∧
    (bitOf (tbCfg s tb) 7 = true → (tbOf s tb).activeB = true → (tbOf s tb).a.locked = true →
      (tbOf s tb).a.lockedAt + 10000000000 ≤ (advance t s).time.now → abWithin s tb = true →
      ∃ x, exec (.domainRevert t tb) s = .next x ∧ (tbOf x tb).activeB = false ∧ (tbOf x tb).ns = (tbOf (advance t s) tb).ns ∧
        x.time.st64 = (advance t s).time.st64 ∧ Only [.regs, .time, .teller] s x) ∧
    ((advance t s).time.now < (tbOf s tb).a.lockedAt + 10000000000 ∨ bitOf (tbCfg s tb) 7 = false ∨ abWithin s tb = false ∨ (tbOf s tb).a.locked = false →
      exec (.domainRevert t tb) s = .next (advance t s))

/-- R83; nothing else changes in either case. -/
def Obligations.RtcCopied : Prop :=
  ∀ (t : Nat) (s : State),
    ((tbOf s (selTb s)).state = .locked → s.time.rtcCopied + 60000000000 ≤ (advance t s).time.now →
      exec (.rtcCopy t) s = .next { advance t s with time := { (advance t s).time with
        rtc := ((tbOf (advance t s) (selTb s)).ns / 1000000000 % 281474976710656).toNat, rtcCopied := (advance t s).time.now } }) ∧
    ((tbOf s (selTb s)).state ≠ .locked ∨ (advance t s).time.now < s.time.rtcCopied + 60000000000 → exec (.rtcCopy t) s = .next (advance t s))

/-- FRAME_BOUNDARY, HWM_UPDATE, ZONE_SAFE_BOUNDARY, MAINS_ZERO_CROSSING and MAINS_ABSENT_TIMEOUT. -/
def Obligations.ShowTimeEvents : Prop :=
  ∀ (t : Nat) (s : State),
    (∀ tests, s.time.running = true → ∃ x, exec (.frameBoundary tests) s = .next (frameWork (s.time.fcount + 1) tests x) ∧ Only [.regs, .time, .teller] s x ∧
      x.time.fcount = s.time.fcount + 1 ∧ x.time.running = true ∧ frameAt s (s.time.fcount + 1) ≤ x.time.st64 ∧ s.time.st64 ≤ x.time.st64) ∧
    (∀ tests, s.time.running = false → exec (.frameBoundary tests) s = .next s) ∧
    (s.time.running = true → exec (.hwmUpdate t) s = .next (withdrawStep { advance t s with time := { (advance t s).time with
      hwm := (advance t s).time.st64 / 1000000 * 1000000, hwmValid := true } })) ∧
    (s.time.running = false → exec (.hwmUpdate t) s = .next (advance t s)) ∧
    (s.time.running = true → ∃ x, exec (.zoneSafeBoundary t) s = .next x ∧ Only [.regs, .time, .teller] s x ∧
      x.time.accepts = s.time.accepts.filter (fun a => !decide (a.at_ + 2000000 ≤ frameAt s s.time.fcount)) ∧
      x.time.st64 = (advance t s).time.st64) ∧
    (∃ x, exec (.mainsZeroCrossing t) s = .next x ∧ Only [.time, .alm] s x ∧ x.time.mainsEdge = some (advance t s).time.now ∧
      (∀ e, s.time.mainsEdge = some e → e + 15385000 ≤ (advance t s).time.now → (advance t s).time.now ≤ e + 22222000 →
        x.time.mainsValid = some ((advance t s).time.now, ((advance t s).time.now - e + 500) / 1000, st64 (advance t s)))) ∧
    (∀ at_ p st, s.time.mainsValid = some (at_, p, st) → at_ + 66667000 ≤ (advance t s).time.now →
      exec (.mainsAbsentTimeout t) s = .next { advance t s with time := { (advance t s).time with mainsValid := none } })

/-! The Almanac (R106 to R147). -/

/-- The commands of class 1.4 (R143): what an accepted one leaves, and what each refusal answers. The due time of a raster-line cue whose line has
passed and of a mains cue without a valid period, the slot of a cue and the indexes without a record are the model's choices (log entry 9). -/
def Obligations.CueCommands : Prop :=
  (∀ (c : Call) (p : CueSchedule) (s : State), Ready 0x0140 c s →
    (s.time.running = false → Done (.cueSchedule c p) 0x0140 c ⟨.notReady, 0, []⟩ (advance c.t s) s) ∧
    (s.time.running = true → cueRangeOk p = false → Done (.cueSchedule c p) 0x0140 c ⟨.invalidParameter, 0, []⟩ (advance c.t s) s) ∧
    (s.time.running = true → cueRangeOk p = true →
      (p.action = 2 → s.part = .rk9210 → Done (.cueSchedule c p) 0x0140 c ⟨.unsupportedFeature, 0, []⟩ (advance c.t s) s) ∧
      (p.action = 2 → s.part = .rk9200 → 2 ≤ p.basis → Done (.cueSchedule c p) 0x0140 c ⟨.invalidParameter, 0, []⟩ (advance c.t s) s) ∧
      (p.action = 1 → stageHeld s p.argument = false → Done (.cueSchedule c p) 0x0140 c ⟨.notFound, 0, []⟩ (advance c.t s) s) ∧
      ((p.action = 2 → s.part = .rk9200 ∧ p.basis < 2) → (p.action = 1 → stageHeld s p.argument = true) →
        ((∃ q ∈ s.alm.cues, q.cueId = p.cueId) → nBit p.flags 0 = false →
          Done (.cueSchedule c p) 0x0140 c ⟨.invalidParameter, 0, []⟩ (advance c.t s) s) ∧
        (((∃ q ∈ s.alm.cues, q.cueId = p.cueId) ∧ nBit p.flags 0 = true ∨ (∀ q ∈ s.alm.cues, q.cueId ≠ p.cueId) ∧ s.alm.cues.length < 16384) →
          (p.basis = 2 ∨ beyondHorizon (advance c.t s) (((cueOf (advance c.t s) p).due).getD p.when_) = false) → ∃ (q : Cue) (x : State),
          Done (.cueSchedule c p) 0x0140 c ⟨.ok, 0, []⟩ x s ∧ Only [.regs, .time, .teller, .alm] s x ∧
          x.alm.cues = s.alm.cues.filter (fun x => x.cueId != p.cueId) ++ [q] ∧
          q.cueId = p.cueId ∧ q.basis = p.basis ∧ q.action = p.action ∧ q.priority = p.priority ∧ q.argument = p.argument ∧ q.sub = p.sub ∧
          (∀ r ∈ s.alm.cues, r.cueId ≠ p.cueId → r.slot ≠ q.slot) ∧
          (p.action = 2 → s.alm.descriptors.length < 31744 → ∃ d ∈ x.alm.descriptors, d.work = .radioCue p.cueId q.slot ∧ d.priority = p.priority) ∧
          (p.action ≠ 2 → x = { advance c.t s with alm :=
            { s.alm with cues := x.alm.cues, order := s.alm.order + 1, descriptors := dropCue p.cueId s.alm.descriptors } }) ∧
          (p.basis = 0 → q.due = some p.when_ ∧ q.late = decide (p.when_ ≤ (advance c.t s).time.st64)) ∧
          (p.basis = 1 → q.due = some (frameAt s p.when_ + (p.sub : Int) * (frameAt s (p.when_ + 1) - frameAt s p.when_) / 65536)) ∧
          (p.basis = 2 → q.due = linePassed (advance c.t s) p.when_ p.sub ∧ q.late = q.due.isSome) ∧
          (p.basis = 3 → ∀ at_ us st, mainsNow (advance c.t s) = some (at_, us, st) → q.due = some (mainsDue st us p.when_ p.sub) ∧ q.predicted = true) ∧
          (p.basis = 3 → mainsNow (advance c.t s) = none → q.due = some p.when_ ∧ q.predicted = false)) ∧
        (((∃ q ∈ s.alm.cues, q.cueId = p.cueId) → nBit p.flags 0 = true) → p.basis ≠ 2 → RegsWf s.regs →
          beyondHorizon (advance c.t s) (((cueOf (advance c.t s) p).due).getD p.when_) = true → ∃ x,
          Done (.cueSchedule c p) 0x0140 c ⟨.invalidParameter, 0, []⟩ x s ∧ x.alm.cues = s.alm.cues ∧
          regN x R.ALM_CNT_OVERFLOW = min 0xFFFFFFFF (regN s R.ALM_CNT_OVERFLOW + 1)) ∧
        ((∀ q ∈ s.alm.cues, q.cueId ≠ p.cueId) → 16384 ≤ s.alm.cues.length →
          (p.basis = 2 ∨ beyondHorizon (advance c.t s) (((cueOf (advance c.t s) p).due).getD p.when_) = false) →
          ∃ x, Done (.cueSchedule c p) 0x0140 c ⟨.resourceExhausted, 0, []⟩ x s ∧ x.alm.cues = s.alm.cues ∧
            (RegsWf s.regs → regN x R.ALM_CNT_OVERFLOW = min 0xFFFFFFFF (regN s R.ALM_CNT_OVERFLOW + 1)))))) ∧
  (∀ (c : Call) (id : Nat) (s : State), Ready 0x0141 c s →
    ((∀ q ∈ s.alm.cues, q.cueId ≠ id) → Done (.cueCancel c id) 0x0141 c ⟨.notFound, 0, []⟩ (advance c.t s) s) ∧
    (∀ q, s.alm.cues.find? (fun q => q.cueId == id) = some q → firesNow (advance c.t s) q = true →
      Done (.cueCancel c id) 0x0141 c ⟨.notFound, 0, []⟩ (advance c.t s) s) ∧
    (∀ q, s.alm.cues.find? (fun q => q.cueId == id) = some q → firesNow (advance c.t s) q = false →
      (q.action = 2 → aGet s.rad.cueSent (2 * id) 0 = 0 ∧ aGet s.rad.cueSent (2 * id + 1) 0 = 0) → ∃ x, Done (.cueCancel c id) 0x0141 c ⟨.ok, 0, []⟩ x s ∧
      Only [.time, .alm] s x ∧ x.alm.cues = s.alm.cues.filter (fun x => x.cueId != id) ∧ x.alm.descriptors = dropCue id s.alm.descriptors) ∧
    (∀ q, s.alm.cues.find? (fun q => q.cueId == id) = some q → firesNow (advance c.t s) q = false → q.action = 2 →
      0 < aGet s.rad.cueSent (2 * id) 0 ∨ 0 < aGet s.rad.cueSent (2 * id + 1) 0 → ∃ x, Done (.cueCancel c id) 0x0141 c ⟨.notFound, 0, []⟩ x s ∧
      Only [.time, .rad] s x ∧ aGet x.rad.cueSent (2 * id) 0 = 65536 ∧ aGet x.rad.cueSent (2 * id + 1) 0 = 65536)) ∧
  (∀ (c : Call) (first count : Nat) (s : State), Ready 0x0143 c s →
    (first ≤ 4095 → 1 ≤ count → count ≤ 128 → Done (.almTraceGet c first count) 0x0143 c ⟨.ok, 8 + 32 * (traceAvail s first count).length,
      [(s.alm.traceWr : Int), (traceAvail s first count).length, bNat s.alm.traceFrozen + 2 * bNat s.alm.traceWrapped] ++
        (traceAvail s first count).flatMap traceFields⟩ (advance c.t s) s) ∧
    (4095 < first ∨ count < 1 ∨ 128 < count → Done (.almTraceGet c first count) 0x0143 c ⟨.invalidParameter, 0, []⟩ (advance c.t s) s))

/-- R119: which descriptor is dispatched. -/
def Obligations.DispatchOrder : Prop :=
  ∀ (t : Nat) (accepting : List Nat) (s : State), (∀ d ∈ s.alm.descriptors, isPast (advance t s) d = false) →
    ((∀ d ∈ s.alm.descriptors, d.ready = none ∨ d.target ∉ accepting) → exec (.descriptorDispatch t accepting) s = .next (advance t s)) ∧
    ((∃ d ∈ s.alm.descriptors, d.ready ≠ none ∧ d.target ∈ accepting) → ∃ d ∈ s.alm.descriptors, d.ready ≠ none ∧ d.target ∈ accepting ∧
      exec (.descriptorDispatch t accepting) s = .next (dispatchWork d (advance t s)) ∧
      ∀ e ∈ s.alm.descriptors, e.ready ≠ none → e.target ∈ accepting → d.priority ≤ e.priority ∧
        (e.priority = d.priority → d.ready.getD 0 ≤ e.ready.getD 0 ∧ (d.ready = e.ready → d.order ≤ e.order)))

/-- DESCRIPTOR_READY, DEADLINE_DISCARD, TIMER_RETRY, DESCRIPTOR_RETRY and TRACE_FREEZE, in every state. The producers whose frames wait for a
transmit queue (R437) try again with DEADLINE_DISCARD and DESCRIPTOR_RETRY: `refillAll` (that these two events are their instants is the model's
choice, log entry 19). -/
def Obligations.AlmanacEvents : Prop :=
  ∀ (t : Nat) (s y : State), RegsWf s.regs → y = advance t s →
    exec (.descriptorReady t) s = .next { y with alm := { s.alm with descriptors := s.alm.descriptors.map (fun d =>
      if d.ready = none ∧ d.constraints.all (constraintHolds y) then { d with ready := some y.time.st64 } else d) } } ∧
    (Goes (.deadlineDiscard t) s fun x =>
      x.alm.descriptors = (s.alm.descriptors.filter (fun d => !isPast y d)).map (fun d =>
        if d.ready = none ∧ d.constraints.all (constraintHolds (discardLate y)) then { d with ready := some y.time.st64 } else d) ∧
      regN x R.ALM_CNT_DISCARD = min 0xFFFFFFFF (regN s R.ALM_CNT_DISCARD + (s.alm.descriptors.filter (isPast y)).length) ∧
      ∀ d ∈ s.alm.descriptors, isPast y d = true → ∀ f, d.work = .flow f → ∃ j, aFind x.alm.flowDone f = some (j, true)) ∧
    ((∀ d ∈ s.alm.descriptors, isPast y d = false) → (∀ p : Fin 11, (portOf s p).waiting = [] ∧ lateFrames y p = []) →
      exec (.deadlineDiscard t) s = exec (.descriptorReady t) s) ∧
    (∀ e r, s.alm.timerRetry = e :: r →
      (s.alm.timers.length < 1024 → beyondHorizon y e.due = false → exec (.timerRetry t) s = .next { y with alm := { s.alm with
        timerRetry := r
        order := s.alm.order + 1
        timers := s.alm.timers ++ [{ e with order := s.alm.order, late := decide (e.due ≤ y.time.st64), since := y.time.st64 }] } }) ∧
      (s.alm.timers.length < 1024 → beyondHorizon y e.due = true → Goes (.timerRetry t) s fun x => x.alm.timers = s.alm.timers ∧ x.alm.timerRetry = r ∧
        regN x R.ALM_CNT_OVERFLOW = min 0xFFFFFFFF (regN s R.ALM_CNT_OVERFLOW + 1)) ∧
      (1024 ≤ s.alm.timers.length → Goes (.timerRetry t) s fun x => x.alm.timers = s.alm.timers ∧ x.alm.timerRetry = s.alm.timerRetry ∧
        regN x R.ALM_CNT_OVERFLOW = min 0xFFFFFFFF (regN s R.ALM_CNT_OVERFLOW + 1) ∧ ∃ o ∈ x.teller.ledgerOffers, o.1 = 0x0009)) ∧
    (∀ d r w, s.alm.descriptorRetry = d :: r → w = refillAll y →
      (isPast y d = true → Goes (.descriptorRetry t) s fun x => x.alm.descriptorRetry = r ∧ x.alm.descriptors = s.alm.descriptors ∧
        regN x R.ALM_CNT_DISCARD = min 0xFFFFFFFF (regN s R.ALM_CNT_DISCARD + 1) ∧
        ∀ f, d.work = .flow f → aFind x.alm.flowDone f = some (d.frame, true)) ∧
      (isPast y d = false → poolRoom s d.priority = true → Goes (.descriptorRetry t) s fun x => Only [.alm] w x ∧ x.alm.descriptorRetry = r ∧
        x.alm.descriptors = s.alm.descriptors ++ [{ d with
          order := s.alm.order
          waited := !d.constraints.all (constraintHolds w)
          ready := if d.constraints.all (constraintHolds w) then some y.time.st64 else none }]) ∧
      (isPast y d = false → poolRoom s d.priority = false → Goes (.descriptorRetry t) s fun x => x.alm.descriptors = s.alm.descriptors ∧
        x.alm.descriptorRetry = s.alm.descriptorRetry ∧ regN x R.ALM_CNT_OVERFLOW = min 0xFFFFFFFF (regN s R.ALM_CNT_OVERFLOW + 1))) ∧
    (∀ g, s.alm.traceTrigger = some g → g.left = 0 → s.alm.traceFrozen = false →
      exec (.traceFreeze t) s = .next (notify 0x8143 16 [g.index, g.outcome, g.post, st64 y]
        (setFlag R.ALM_INT_STAT 4 { y with alm := { s.alm with traceFrozen := true } }))) ∧
    ((s.alm.timerRetry = [] → exec (.timerRetry t) s = .next y) ∧
      (s.alm.descriptorRetry = [] → exec (.descriptorRetry t) s = .next (refillAll y)) ∧
      ((∀ p : Fin 11, (portOf s p).waiting = [] ∧ lateFrames y p = []) → refillAll y = y) ∧
      ((∀ g, s.alm.traceTrigger = some g → g.left ≠ 0) ∨ s.alm.traceFrozen = true → exec (.traceFreeze t) s = .next y))

/-- ALMANAC_TICK and OUTPUT_LAUNCH, in every state; the due entries of launch, cue and timer lists come in an order in which none stands behind one
that R133 puts after it. What one due entry alone does is stated list by list: a timer fires, a cue fires with CUE_FIRED and its action, a launch
entry arms its port or transceiver, a SYNC entry arms every lane and transceiver that carries the zone, each ahead by the advance of its class. -/
def Obligations.TickAndLaunch : Prop :=
  (∀ (t : Nat) (tick : Int) (s : State), s.time.running = false ∨ tick % 1000 ≠ 0 ∨ domainUp s 7 = false →
    exec (.almanacTick t tick) s = .next (advance t s)) ∧
  (∀ (t : Nat) (tick : Int) (s w : State), s.time.running = true → tick % 1000 = 0 → domainUp s 7 = true → RegsWf s.regs →
    w = { reach tick (advance t s) with alm := { s.alm with lastTick := some tick } } → tick ≤ w.time.st64 ∧
    (∃ x y, x = tickFirst tick (reach tick (advance t s)) ∧
      exec (.almanacTick t tick) s = .next y ∧ y = ((dueItems tick x).drop 512).foldl deferItem (((dueItems tick x).take 512).foldl fireItem x) ∧
      (dueItems tick x).Pairwise (fun a b => itemBefore x b a = false) ∧
      (∀ e ∈ x.alm.timers, isDue tick e.due = true → e.since < tick → DueItem.timer e ∈ dueItems tick x)) ∧
    (∀ e, s.alm.sync = [] → s.alm.release = [] → s.alm.launch = [] → s.alm.cues = [] → s.alm.timers = [e] → isDue tick e.due = true → e.since < tick →
      exec (.almanacTick t tick) s = .next (fireTimer e w) ∧ (fireTimer e w).alm.timers = []) ∧
    (∀ c, s.alm.sync = [] → s.alm.release = [] → s.alm.launch = [] → s.alm.timers = [] → s.alm.cues = [c] → leads w = true → cueIsDue tick c = true →
      Goes (.almanacTick t tick) s fun x => x.alm.cues = [] ∧
        (∃ n : Nat, (0x8141, st64 w, [(c.cueId : Int), c.basis, n, c.due.getD 0, st64 w]) ∈ x.teller.ledgerOffers) ∧
        (c.action = 1 → s.alm.descriptors.length < 31744 → ∃ d ∈ x.alm.descriptors, d.work = .cueAction c.argument c.cueId c.slot (st64 w) ∧
          d.priority = c.priority ∧ d.ready = some w.time.st64) ∧
        (c.action = 2 → cueMade s c 0 + cueMade s c 1 = 0 → regN x R.RAD_CNT_CUE_LATE = min 0xFFFFFFFF (regN s R.RAD_CNT_CUE_LATE + 1)) ∧
        regN x R.ALM_CNT_LATE = (if c.late then min 0xFFFFFFFF (regN s R.ALM_CNT_LATE + 1) else regN s R.ALM_CNT_LATE)) ∧
    (∀ e, s.alm.sync = [] → s.alm.release = [] → s.alm.timers = [] → s.alm.cues = [] → s.alm.launch = [e] → launchDue tick w e = true →
      Goes (.almanacTick t tick) s fun x => x.alm.launch = [] ∧
        (∀ p, e.kind = .packet p → x.alm.armed = s.alm.armed ++ [⟨.show p, e.at_, e.zones⟩]) ∧
        (∀ p, e.kind = .dmxBreak p → x.alm.armed = s.alm.armed ++ [⟨.dmx p, e.at_, e.zones⟩]) ∧
        (∀ r : Fin 2, e.kind = .radioSlot r → (xcvrOf x r).armed = some e.at_ ∧ x.alm.armed = s.alm.armed) ∧
        regN x R.ALM_CNT_LATE = (if e.late = true ∨ e.at_ < w.time.st64 then min 0xFFFFFFFF (regN s R.ALM_CNT_LATE + 1) else regN s R.ALM_CNT_LATE)) ∧
    (∀ z e, s.alm.release = [] → s.alm.launch = [] → s.alm.timers = [] → s.alm.cues = [] → s.alm.armed = [] → s.power.hold = false → s.alm.sync = [(z, e)] →
      isDue tick (syncDue w e) = true → Goes (.almanacTick t tick) s fun x => x.alm.sync = [] ∧
        x.alm.armed = (carriers w z e.k).map (fun o => ⟨o, e.at_ - advanceOf w o, [(z, e.k)]⟩))) ∧
  (∀ (t : Nat) (s y : State), y = advance t s →
    (s.time.running = false ∨ (∀ a ∈ s.alm.armed, y.time.st64 < a.at_) → exec (.outputLaunch t) s = .next y) ∧
    (s.time.running = true → ∃ (due : List Armed) (x : State), due.Perm (s.alm.armed.filter (fun a => decide (a.at_ ≤ y.time.st64))) ∧ due.Pairwise (fun a b => a.at_ ≤ b.at_) ∧
      exec (.outputLaunch t) s = .next x ∧ x.alm.armed = s.alm.armed.filter (fun a => decide (y.time.st64 < a.at_)) ∧
      x = due.foldl launchOutput { y with alm := { s.alm with armed := s.alm.armed.filter (fun a => decide (y.time.st64 < a.at_)) } }) ∧
    (∀ o at_ zs w, s.time.running = true → s.alm.armed = [⟨o, at_, zs⟩] → at_ ≤ y.time.st64 → w = { y with alm := { s.alm with armed := [] } } →
      (∀ p, o = .show p ∨ o = .radio p → exec (.outputLaunch t) s = .next (zs.foldl launched w)) ∧
      (∀ p, o = .dmx p → exec (.outputLaunch t) s = .next (zs.foldl launched (dmxBreak p w))) ∧
      (∀ l, o = .lane l → exec (.outputLaunch t) s = .next (zs.foldl launched (laneSync l (zs.map Prod.fst) at_ w)))))

/-! Check values, intake FIFOs and datapath errors (R148 to R182). -/

/-- The operations of a CHK channel, and the owner's right to them; `crcBytes` absorbs byte by byte, so that a channel saved and resumed goes on
where it was (R154). A channel that shows the run of Teller's last message (R561) goes on from it: `y` is the machine with that run in its registers. -/
def Obligations.CheckChannel : Prop :=
  (∀ (t owner : Nat) (ch : Fin 64) (s : State), RegsWf s.regs → bits (reg s (R.CHK_CHn_CTRL ch)) 31 24 ≠ owner →
    (∀ a, exec (.chkStart t owner ch a) s = .next (setFlag R.CHK_INT_STAT 0 (advance t s))) ∧
    (∀ w, exec (.chkFeed t owner ch w) s = .next (setFlag R.CHK_INT_STAT 0 (advance t s))) ∧
    (∀ a, exec (.chkFinish t owner ch a) s = .next (setFlag R.CHK_INT_STAT 0 (advance t s))) ∧
    (∀ a w, exec (.chkStateAccess t owner ch a w) s = .next (setFlag R.CHK_INT_STAT 0 (advance t s)))) ∧
  (∀ (t owner : Nat) (ch : Fin 64) (s y : State), RegsWf s.regs → bits (reg s (R.CHK_CHn_CTRL ch)) 31 24 = owner → y = chkSettle ch (advance t s) →
    (aFind s.teller.checked ch = none → y = advance t s) ∧
    (∀ bs, aFind s.teller.checked ch = some bs → y.teller = { s.teller with checked := aDel s.teller.checked ch } ∧
      Wrote [(R.CHK_CHn_RUN ch, crcBytes 0xFFFFFFFF bs), (R.CHK_CHn_BYTES ch, BitVec.ofNat 32 bs.length), (R.CHK_CHn_RESULT ch, crc32c bs)]
        { advance t s with teller := y.teller } y) ∧
    (Goes (.chkStart t owner ch false) s fun x => Wrote [(R.CHK_CHn_RUN ch, 0xFFFFFFFF), (R.CHK_CHn_BYTES ch, 0)] y x) ∧
    (∀ w, Goes (.chkFeed t owner ch w) s fun x => Wrote [(R.CHK_CHn_RUN ch, crcBytes (reg y (R.CHK_CHn_RUN ch))
        ((wordBytes w).take (bits (reg s (R.CHK_CHn_CTRL ch)) 4 3 + 1))),
      (R.CHK_CHn_BYTES ch, BitVec.ofNat 32 (min 0xFFFFFFFF (regN y (R.CHK_CHn_BYTES ch) + (bits (reg s (R.CHK_CHn_CTRL ch)) 4 3 + 1))))] y x) ∧
    (∀ a, bitOf (reg s (R.CHK_CHn_CTRL ch)) 6 = false → Goes (.chkFinish t owner ch a) s fun x => Only [.regs, .protect] y x ∧
      x.protect = { s.protect with verdicts := aDel s.protect.verdicts ch } ∧
      ∀ b, reg x b = if b = R.CHK_CHn_RESULT ch then reg y (R.CHK_CHn_RUN ch) ^^^ 0xFFFFFFFF else reg y b) ∧
    (∀ alive, exec (.chkStateAccess t owner ch alive none) s = .next { y with regs := { y.regs with
      lastRead := some (if alive then R.CHK_CHn_ALIVE ch else R.CHK_CHn_RUN ch, reg y (if alive then R.CHK_CHn_ALIVE ch else R.CHK_CHn_RUN ch)) } }) ∧
    (∀ w, Goes (.chkStateAccess t owner ch false (some w)) s fun x => Wrote [(R.CHK_CHn_RUN ch, w)] y x) ∧
    (∀ w, Goes (.chkStateAccess t owner ch true (some w)) s fun x => Wrote [(R.CHK_CHn_ALIVE ch, w &&& 0x1FFFF)] y x)) ∧
  (∀ (r : Word) (a b : List (BitVec 8)), crcBytes (crcBytes r a) b = crcBytes r (a ++ b))

/-- R155 and R156. -/
def Obligations.AliveJudgement : Prop :=
  (∀ (t : Nat) (ch : Fin 64) (a l d : Nat) (s : State), RegsWf s.regs → bitOf (reg s (R.CHK_CHn_CTRL ch)) 6 = true → a < 65536 →
    l = bits (reg s (R.CHK_CHn_ALIVE ch)) 15 0 → d = (a + 65536 - l) % 65536 →
    Goes (.chkFinish t (bits (reg s (R.CHK_CHn_CTRL ch)) 31 24) ch a) s fun x =>
      reg x (R.CHK_CHn_RESULT ch) = reg (chkSettle ch (advance t s)) (R.CHK_CHn_RUN ch) ^^^ 0xFFFFFFFF ∧
      (bitOf (reg s (R.CHK_CHn_ALIVE ch)) 16 = false ∨ 1 ≤ d ∧ d ≤ 32768 → reg x (R.CHK_CHn_ALIVE ch) = BitVec.ofNat 32 (65536 + a)) ∧
      (bitOf (reg s (R.CHK_CHn_ALIVE ch)) 16 = true → d = 0 ∨ 32769 ≤ d → reg x (R.CHK_CHn_ALIVE ch) = reg s (R.CHK_CHn_ALIVE ch)) ∧
      aFind x.protect.verdicts ch = some (if bitOf (reg s (R.CHK_CHn_ALIVE ch)) 16 = false ∨ d = 1 then .inOrder
        else if 2 ≤ d ∧ d ≤ 32768 then .skip else .repeat_) ∧
      bits (reg x (R.CHK_CHn_CNT ch)) 15 0 = (if bitOf (reg s (R.CHK_CHn_ALIVE ch)) 16 = true ∧ 2 ≤ d ∧ d ≤ 32768
        then min 65535 (bits (reg s (R.CHK_CHn_CNT ch)) 15 0 + (d - 1)) else bits (reg s (R.CHK_CHn_CNT ch)) 15 0) ∧
      bits (reg x (R.CHK_CHn_CNT ch)) 31 16 = (if bitOf (reg s (R.CHK_CHn_ALIVE ch)) 16 = true ∧ (d = 0 ∨ 32769 ≤ d)
        then min 65535 (bits (reg s (R.CHK_CHn_CNT ch)) 31 16 + 1) else bits (reg s (R.CHK_CHn_CNT ch)) 31 16)) ∧
  (∀ (t : Nat) (ch : Fin 64) (s : State), RegsWf s.regs → Goes (.chkStart t (bits (reg s (R.CHK_CHn_CTRL ch)) 31 24) ch true) s fun x =>
    bitOf (reg x (R.CHK_CHn_ALIVE ch)) 16 = false) ∧
  (∀ ch : Fin 64, bitOf (reg State.reset (R.CHK_CHn_ALIVE ch)) 16 = false)

/-- FIFO_BYTE_WRITE, FIFO_POP and FIFO_POINTER_FAULT. -/
def Obligations.IntakeFifos : Prop :=
  ∀ (t : Nat) (q : Fin 18) (s : State) (f : Fifo), RegsWf s.regs → f = fifoOf s q →
    (∀ byte first eop, bitOf (reg s (R.FIF_Qn_CFG q)) 8 = false ∨ (q.val = 16 ∧ s.part = .rk9210) → exec (.fifoByteWrite t q byte first eop) s = .next (advance t s)) ∧
    (∀ byte first eop, bitOf (reg s (R.FIF_Qn_CFG q)) 8 = true → (q.val = 16 → s.part = .rk9200) → Goes (.fifoByteWrite t q byte first eop) s fun x => ∀ g,
      g = (if first then fifoBegin f else f) →
      (g.discarding = true → fifoOf x q = g) ∧
      (g.discarding = false → fifoFull g = false → g.pktBytes < 4096 → fifoOf x q = fifoPack byte eop g ∧ (eop = false → (fifoOf x q).wr = f.wr) ∧
        (eop = true → (fifoOf x q).wr = (g.priv + 1) % 1024 ∧ (fifoOf x q).packets = f.packets + 1)) ∧
      (g.discarding = false → fifoFull g = true ∨ 4096 ≤ g.pktBytes → (fifoOf x q).discarding = true ∧ (fifoOf x q).priv = f.wr ∧
        (fifoOf x q).wr = f.wr ∧ (fifoOf x q).mem = f.mem ∧ bits (reg x (R.FIF_Qn_CNT q)) 31 16 = min 65535 (bits (reg s (R.FIF_Qn_CNT q)) 31 16 + 1)) ∧
      ∀ r : Fin 18, r ≠ q → fifoOf x r = fifoOf s r) ∧
    (∀ bad wide, fifoEmpty f = false → Goes (.fifoPop t q bad wide) s fun x => (fifoOf x q).lastPerr = (fifoErrors f bad != 0) ∧ (fifoOf x q).wr = f.wr ∧
      (fifoOf x q).last = fifoHead f ∧ (wide = true → (fifoOf x q).wide = some (fifoHead f).data) ∧
      x.regs.lastRead = some (R.FIF_Qn_RD_LO q, (fifoHead f).data.setWidth 32) ∧
      (fifoErrors f bad = 0 → (fifoOf x q).rd = (f.rd + 1) % 1024 ∧
        (fifoOf x q).packets = (if 8 ≤ (fifoHead f).tag then f.packets - 1 else f.packets)) ∧
      (fifoErrors f bad ≠ 0 → regN x R.CHK_PAR_CNT = min 0xFFFFFFFF (regN s R.CHK_PAR_CNT + 1) ∧
        ∃ n, (8 ≤ (fifoHead f).tag → n = 0) ∧ (fifoOf x q).rd = (f.rd + 1 + n) % 1024 ∧ (8 ≤ (fifoHead f).tag ∨ n ≠ 0 → (fifoOf x q).packets = f.packets - 1)) ∧
      ∀ r : Fin 18, r ≠ q → fifoOf x r = fifoOf s r) ∧
    (∀ bad wide, fifoEmpty f = true → Goes (.fifoPop t q bad wide) s fun x => fifoOf x q = fifoWide wide f.last.data f ∧
      bitOf (reg x (R.FIF_Qn_STAT q)) 0 = true ∧ x.regs.lastRead = some (R.FIF_Qn_RD_LO q, f.last.data.setWidth 32) ∧
      bits (reg x (R.FIF_Qn_CNT q)) 15 0 = min 65535 (bits (reg s (R.FIF_Qn_CNT q)) 15 0 + 1) ∧ ∀ r : Fin 18, r ≠ q → fifoOf x r = fifoOf s r) ∧
    (∀ p, Goes (.fifoPointerFault t q p) s fun x => (fifoOf x q).wr = 0 ∧ (fifoOf x q).rd = 0 ∧ (fifoOf x q).packets = 0 ∧ (fifoOf x q).last = f.last ∧
      fifoFull (fifoOf x q) = false ∧ bitOf (reg x (R.FIF_Qn_STAT q)) 1 = true ∧ bitOf (reg x R.FIF_FAULT_STAT) q = true ∧
      ∀ r : Fin 18, r ≠ q → fifoOf x r = fifoOf s r)

/-- PARITY_ERROR, SCRUB_PASS, MAP_ENTRY_REWRITE and FAULT_HANDOFF. -/
def Obligations.DatapathErrors : Prop :=
  ∀ (t : Nat) (s : State), RegsWf s.regs →
    (∀ e, errorThere e = false → exec (.parityError t e) s = .next (advance t s)) ∧
    (∀ e, errorThere e = true → e.site ≠ 11 → ∃ x, exec (.parityError t e) s = .next (poisoned e (siteEffect e x)) ∧
      regN x ([R.CHK_PAR_CNT, R.CHK_SEC_CNT, R.CHK_DED_CNT].getD e.kind 0) =
        min 0xFFFFFFFF (regN s ([R.CHK_PAR_CNT, R.CHK_SEC_CNT, R.CHK_DED_CNT].getD e.kind 0) + 1) ∧
      (bitOf (reg s R.CHK_ERR_CAP) 31 = true → reg x R.CHK_ERR_CAP = reg s R.CHK_ERR_CAP ∧ reg x R.CHK_ERR_FRAME = reg s R.CHK_ERR_FRAME) ∧
      (bitOf (reg s R.CHK_ERR_CAP) 31 = false → bitOf (reg x R.CHK_ERR_CAP) 31 = true ∧ bits (reg x R.CHK_ERR_CAP) 27 24 = e.site % 16 ∧
        bits (reg x R.CHK_ERR_CAP) 23 22 = e.kind ∧ reg x R.CHK_ERR_FRAME = BitVec.ofInt 32 s.time.fcount) ∧ Only [.regs, .time, .teller, .protect] s x ∧
      (e.kind = 1 → siteEffect e x = x) ∧ (e.consumer = none → poisoned e (siteEffect e x) = siteEffect e x) ∧
      (e.kind ≠ 1 → e.site = 4 ∨ e.site = 5 ∨ e.site = 6 → siteEffect e x = { x with protect := { x.protect with
        badOutputs := s.protect.badOutputs ++ [(e.site, e.object, e.segment)] } }) ∧
      (e.kind = 2 → e.site = 8 → s.protect.badEntries.contains e.object = false → siteEffect e x = { x with protect := { x.protect with
        badEntries := s.protect.badEntries ++ [e.object] } }) ∧
      (e.site = 1 → e.engine < 16 → regN (siteEffect e x) (R.MAP_En_PERR (e.engine / 8) (e.engine % 8)) =
        min 0xFFFFFFFF (regN s (R.MAP_En_PERR (e.engine / 8) (e.engine % 8)) + 1)) ∧
      (∀ f, e.site = 7 → e.object < 18 → f = fifoOf s e.object → fifoEmpty f = false → ∃ n, (8 ≤ (fifoHead f).tag → n = 0) ∧
        (fifoOf (siteEffect e x) e.object).lastPerr = true ∧ (fifoOf (siteEffect e x) e.object).rd = (f.rd + 1 + n) % 1024 ∧
        (8 ≤ (fifoHead f).tag ∨ n ≠ 0 → (fifoOf (siteEffect e x) e.object).packets = f.packets - 1))) ∧
    (∀ e es, Goes (.parityError t e) s fun x => exec (.scrubPass t (e :: es)) s = exec (.scrubPass t es) x) ∧
    exec (.scrubPass t []) s = .next (advance t s) ∧
    (tellerRuns s = true → s.protect.badEntries ≠ [] → Goes (.mapEntryRewrite t) s fun x => Only [.regs, .time, .protect] s x ∧
      x.protect = { s.protect with badEntries := [] } ∧ bitOf (reg x R.FXM_INT_STAT) 3 = true ∧
      regN x R.FXM_CNT_REWRITE = min 0xFFFFFFFF (regN s R.FXM_CNT_REWRITE + s.protect.badEntries.length)) ∧
    (tellerRuns s = false ∨ s.protect.badEntries = [] → exec (.mapEntryRewrite t) s = .next (advance t s)) ∧
    (∀ site kind n r, s.protect.handoffs = (site, kind, n) :: r → exec (.faultHandoff t) s = .next
      (if site = 1 ∧ kind ≠ 1 then engineFail n 2 { advance t s with protect := { s.protect with handoffs := r } }
        else { advance t s with protect := { s.protect with handoffs := r } })) ∧
    (s.protect.handoffs = [] → exec (.faultHandoff t) s = .next (advance t s))

/-! Inputs (R183 to R211). -/

/-- The events of the SDI inputs and of the streams, what each does where its condition holds (R186, R188, R190, R191), and LAYER_RELEASE (R202). -/
def Obligations.InputReceivers : Prop :=
  ∀ (t : Nat) (s : State), RegsWf s.regs →
    (∀ (i : Fin 4) (ok : Bool), (srcOf s i).state ≠ .off → Goes (.sdiLineReceived t i ok) s fun x =>
      (srcOf x i).crcBad = ((srcOf s i).crcBad || !ok) ∧ (srcOf x i).newest = (srcOf s i).newest ∧
      regN x (R.VIN_Sn_CRC i) = (if ok then regN s (R.VIN_Sn_CRC i) else min 0xFFFFFFFF (regN s (R.VIN_Sn_CRC i) + 1)) ∧
      ∀ j : Fin 28, j.val ≠ i.val → srcOf x j = srcOf s j) ∧
    (∀ (i : Fin 16) (b : Bool) (k : StreamPacket) (p : InputStreamSet) (m : StreamMerge), aFind s.cfgA.streams i = some p →
      (srcOf s (i + 4)).state ≠ .off → pathOn p b = true → m = (srcOf s (i + 4)).merge →
      (packetFits p k = false → Goes (.streamPacketReceived t i b k) s fun x => (srcOf x (i + 4)).merge = m ∧
        regN x (if b then R.VIN_Sn_MISS_B (i + 4) else R.VIN_Sn_MISS_A (i + 4)) =
          min 0xFFFFFFFF (regN s (if b then R.VIN_Sn_MISS_B (i + 4) else R.VIN_Sn_MISS_A (i + 4)) + 1)) ∧
      (packetFits p k = true → k.seq ∉ m.got → (∀ e ∈ m.seenA ++ m.seenB, e.1 ≠ k.seq) → (∀ a, m.first = some a → 0 ≤ seqDist k.seq a) →
        Goes (.streamPacketReceived t i b k) s fun x => (srcOf x (i + 4)).merge.got = k.seq :: m.got ∧ x.regs = s.regs) ∧
      (packetFits p k = true → (∃ e ∈ (if b then m.seenA else m.seenB), e.1 = k.seq) → Goes (.streamPacketReceived t i b k) s fun x =>
        (srcOf x (i + 4)).merge.got = m.got ∧ (∀ e ∈ (if b then (srcOf x (i + 4)).merge.seenA else (srcOf x (i + 4)).merge.seenB), e.1 ≠ k.seq) ∧
        x.regs = s.regs)) ∧
    (∀ (i : Fin 16) (b : Bool) (seq : Word) (p : InputStreamSet) (m : StreamMerge) (e : Word × Nat), aFind s.cfgA.streams i = some p →
      m = (srcOf s (i + 4)).merge → (if b then m.seenA else m.seenB).find? (fun x => x.1 == seq) = some e →
      ((advance t s).time.now < e.2 + p.skewMax * 1000 → exec (.pathLossTimeout t i b seq) s = .next (advance t s)) ∧
      (e.2 + p.skewMax * 1000 ≤ (advance t s).time.now → Goes (.pathLossTimeout t i b seq) s fun x =>
        (∀ y ∈ (if b then (srcOf x (i + 4)).merge.seenA else (srcOf x (i + 4)).merge.seenB), y.1 ≠ seq) ∧ (srcOf x (i + 4)).merge.got = m.got ∧
        regN x (if b then R.VIN_Sn_MISS_B (i + 4) else R.VIN_Sn_MISS_A (i + 4)) =
          min 0xFFFFFFFF (regN s (if b then R.VIN_Sn_MISS_B (i + 4) else R.VIN_Sn_MISS_A (i + 4)) + 1))) ∧
    (∀ (i : Fin 16) (p : InputStreamSet) (m : StreamMerge) (z : Word) (t0 : Nat), aFind s.cfgA.streams i = some p → m = (srcOf s (i + 4)).merge →
      frameMark m = some (z, t0) →
      ((advance t s).time.now < t0 + p.skewMax * 1000 ∨ streamWhole m = true → exec (.streamFrameTimeout t i) s = .next (advance t s)) ∧
      (t0 + p.skewMax * 1000 ≤ (advance t s).time.now → streamWhole m = false → Goes (.streamFrameTimeout t i) s fun x =>
        (srcOf x (i + 4)).newest = (srcOf s (i + 4)).newest ∧ (srcOf x (i + 4)).good = 0 ∧ (srcOf x (i + 4)).merge = streamNext m ∧
        regN x (R.VIN_Sn_LOST_BOTH (i + 4)) = min 0xFFFFFFFF (regN s (R.VIN_Sn_LOST_BOTH (i + 4)) + streamMissing m) ∧
        regN x (R.VIN_Sn_DISCARD (i + 4)) = min 0xFFFFFFFF (regN s (R.VIN_Sn_DISCARD (i + 4)) + 1))) ∧
    (∀ (c : Call) (l : Nat), Ready 0x0411 c s → l ≤ 15 → s.time.running = true → ∃ x, Done (.layerRelease c l) 0x0411 c ⟨.ok, 0, []⟩ x s ∧
      Only [.time, .vin] s x ∧ x.vin.sources = s.vin.sources ∧ (layerOf x l).release = (layerOf s l).release ++ [reachedSt c (advance c.t s)] ∧
      ∀ m : Fin 16, m.val ≠ l → layerOf x m = layerOf s m)

/-- A source's frames and its states (R184, R193, R195, R205, R206). -/
def Obligations.SourceStates : Prop :=
  ∀ (t : Nat) (s : State), RegsWf s.regs →
    (∀ (i : Fin 28) (f : FrameIn), isGenerator i = false → s.time.running = true → (srcOf s i).state = .running →
      (isStream i = true → (streamReady (srcOf s i).merge).isSome = true) →
      (f.whole = true → f.width = rasterW s i → f.height = rasterH s i → (isStream i = false → f.supported = true ∧ sdiFormatOk f = true) →
        (srcOf s i).crcBad = false ∨ bitOf (regF s (R.VIN_Sn_CFG i)) 30 = false → Goes (.sourceFrameComplete t i f) s fun x =>
          ∃ g, (srcOf x i).newest = some g ∧ g.done = (advance t s).time.st64 ∧ g.seq = (srcOf s i).next ∧ g.width = f.width ∧ g.height = f.height ∧
            (srcOf x i).state = .running ∧ (srcOf x i).published = (srcOf s i).published + 1 ∧
            regN x (R.VIN_Sn_FRAMES i) = min 0xFFFFFFFF (regN s (R.VIN_Sn_FRAMES i) + 1)) ∧
      (f.whole = false → Goes (.sourceFrameComplete t i f) s fun x => (srcOf x i).newest = (srcOf s i).newest ∧ (srcOf x i).state = .running ∧
        regN x (R.VIN_Sn_DISCARD i) = min 0xFFFFFFFF (regN s (R.VIN_Sn_DISCARD i) + 1)) ∧
      (f.whole = true → f.width ≠ rasterW s i → Goes (.sourceFrameComplete t i f) s fun x => (srcOf x i).state = .format ∧
        (srcOf x i).newest = (srcOf s i).newest)) ∧
    (∀ (g : Fin 8) (p : GeneratorSet), s.time.running = true → aFind s.cfgA.generators g = some p → (srcOf s (g + 20)).state ≠ .off →
      (srcOf s (g + 20)).lastC ≠ some (frameAt s (s.time.fcount + 1) - 500000) → Goes (.generatorPublish t g) s fun x =>
        ∃ f, (srcOf x (g + 20)).newest = some f ∧ f.done = frameAt s (s.time.fcount + 1) - 500000 ∧ f.seq = (srcOf s (g + 20)).next ∧
          (srcOf x (g + 20)).state = .running) ∧
    (∀ i : Fin 4, (srcOf s i).state = .searching ∨ (srcOf s i).state = .running ∨ (srcOf s i).state = .format →
      Goes (.sdiLockLost t i) s fun x => (srcOf x i).state = .lost ∧ bitOf (reg x R.VIN_INT_STAT) 0 = true ∧ (srcOf x i).newest = (srcOf s i).newest ∧
        ∀ j : Fin 28, j.val ≠ i.val → srcOf x j = srcOf s j) ∧
    (∀ i : Fin 28, (srcOf s i).state = .searching ∨ (srcOf s i).state = .running ∨ (srcOf s i).state = .format →
      (lossDue (advance t s) i = true → Goes (.sourceLossTimeout t i) s fun x => (srcOf x i).state = .lost ∧
        (srcOf x i).newest = (srcOf s i).newest ∧ ∀ j : Fin 28, j ≠ i → srcOf x j = srcOf s j) ∧
      (lossDue (advance t s) i = false → exec (.sourceLossTimeout t i) s = .next (advance t s))) ∧
    (∀ i : Fin 28, ((srcOf s i).state = .lost → Goes (.signalReturn t i) s fun x => (srcOf x i).state = .searching ∧ (srcOf x i).good = 0 ∧
        (srcOf x i).merge = StreamMerge.empty ∧ ∀ j : Fin 28, j ≠ i → srcOf x j = srcOf s j) ∧
      ((srcOf s i).state ≠ .lost → exec (.signalReturn t i) s = .next (advance t s)))

/-! The canvas and the raster (R212 to R267). -/

/-- The events of the compositor and of the raster generator, each where it happens (R237 to R239, R250, R251, R256, R259). -/
def Obligations.CanvasAndRaster : Prop :=
  ∀ (t : Nat) (s : State), RegsWf s.regs →
    (∀ (n line : Nat) (c : Canvas) (ok : Bool), newestCanvas s = some (n, c) → s.cmp.complete = false → s.cmp.lines ≤ line → s.protect.badTiles = [] →
      (line + 1 < c.height → Goes (.canvasLineDone t line ok) s fun x => Only [.regs, .time, .cmp, .ras, .map] s x ∧ x.cmp = { s.cmp with lines := line + 1 } ∧
        (s.map.frame = none → x.regs = s.regs ∧ x.map = s.map) ∧
        (∀ fr (e : Fin 16) h, s.map.frame = some fr → (mapEngine s e).held = some h → ∃ g, (mapEngine x e).held = some g ∧
          g = (if h.waiting = true ∧ linesReady x fr (fr.tiles.getD h.tile ⟨0, [], 0, 0⟩) = true
            then { h with waited := (advance t s).time.now - h.claimedAt, waiting := false } else h)) ∧
        x.ras.frames = s.ras.frames.map (fun f => if f.canvas = n then { f with
          lines := max f.lines (line + 1)
          refused := if ok then f.refused else f.refused ++
            ((List.range (line + 1 - s.cmp.lines)).map (fun i => s.cmp.lines + i)).filter (fun l => decide (l < f.need)) } else f)) ∧
      (c.height ≤ line + 1 → s.cmp.lines < c.height → s.cmp.late = none → Goes (.canvasLineDone t line ok) s fun x => Only [.regs, .time, .cmp, .ras, .map] s x ∧
        x.cmp.complete = true ∧ x.cmp.lines = c.height ∧ x.cmp.lastK = c.k ∧ x.cmp.lastTime = ((advance t s).time.st64 - frameAt s c.k).toNat ∧
        x.cmp.canvases = s.cmp.canvases)) ∧
    (∀ f g, s.ras.frames = [f, g] → f.k ≠ g.k → f.refused ≠ [] → Goes (.lineReadback t) s fun x => Only [.regs, .time, .ras] s x ∧
      (∃ h, x.ras.frames = [h, g] ∧ h.refused = f.refused.tail ∧ h.lines = f.lines) ∧ x.ras.readbacks = s.ras.readbacks + 1 ∧
      regN x R.RAS_CNT_READBACK = min 0xFFFFFFFF (regN s R.RAS_CNT_READBACK + 1)) ∧
    ((∀ f ∈ s.ras.frames, f.refused = []) → exec (.lineReadback t) s = .next (advance t s)) ∧
    (∀ (b : Nat) (f : MonFormat), s.ras.running = true → monFormat (rasFormat s) = some f → activeNow (advance t s) f = none → 10000 ≤ blankAhead (advance t s) f b →
      Goes (.ltrRecompute t b) s fun x => Only [.time, .ras] s x ∧ ∃ u, x.ras = { s.ras with ltr := u } ∧
        (u : Int) = min 0xFFFFFFFF (roundDiv (1000000000 * (min b 524288) * (rateOf (rasRate s)).2) (max 1 ((rateOf (rasRate s)).1 * f.total) * (f.width * 4)) +
          (blankEnd (advance t s) f - (advance t s).time.st64) - 10000)) ∧
    (∀ b, s.ras.running = false → exec (.ltrRecompute t b) s = .next (advance t s)) ∧
    (rasStartDue s = true → s.ras.transition = none → s.ras.armed = none → rasOn s = true → rasDrift s = 0 → s.ras.slewNext = 0 → 2 ≤ lineStart s 1 →
      rasSource s = 1 →
      Goes .rasterFrameStart s fun x => Only [.regs, .time, .alm, .ras] s x ∧ x.ras.r = (if s.ras.fresh then 0 else s.ras.r + 1) ∧ x.ras.start = s.ras.next ∧
        x.ras.gridK = frameBefore s (gridAt s s.ras.nextJ) ∧ x.ras.nextJ = s.ras.nextJ + 1 ∧ x.ras.next = gridAt s (s.ras.nextJ + 1) ∧ x.ras.fresh = false ∧
        x.ras.slips = s.ras.slips ∧ bitOf (reg x R.RAS_INT_STAT) 0 = true ∧ s.ras.next ≤ x.time.st64 ∧
        (s.ras.fresh = true → x.alm = s.alm) ∧ (s.ras.fresh = false → x.alm.cues = s.alm.cues.map (skipLine s.ras.r s.ras.next))) ∧
    (rasStartDue s = true → s.ras.transition = none → s.ras.armed = none → rasOn s = true → 0 < lineStart s 1 → (lineStart s 1 : Int) ≤ rasDrift s →
      rasSource s = 1 → Goes .rasterFrameStart s fun x => x.ras.extra = 1 ∧ x.ras.slips = s.ras.slips + 1 ∧
        regN x R.RAS_CNT_SLIP = min 0xFFFFFFFF (regN s R.RAS_CNT_SLIP + 1) ∧ bitOf (reg x R.RAS_INT_STAT) 4 = true) ∧
    (rasStartDue s = false → exec .rasterFrameStart s = .next s) ∧
    (∀ line at_, rasLineAt s line = some at_ → s.time.running = true → s.ras.fresh = false → at_ < s.ras.next →
      Goes (.rasterLineMatch line) s fun x => x.ras = { s.ras with line := some line } ∧ at_ ≤ x.time.st64 ∧
        x.alm.cues = s.alm.cues.map (matchLine s.ras.r line at_) ∧
        (bitOf (reg s R.RAS_LMATCH) 31 = true → bits (reg s R.RAS_LMATCH) 11 0 = line → bitOf (reg x R.RAS_INT_STAT) 1 = true) ∧
        (bitOf (reg s R.RAS_LMATCH) 31 = false ∨ bits (reg s R.RAS_LMATCH) 11 0 ≠ line → x.regs = s.regs)) ∧
    (∀ line, rasLineAt s line = none → exec (.rasterLineMatch line) s = .next s) ∧
    (∀ f, monFormat (rasFormat s) = some f → s.ras.running = true → s.ras.done = false → s.ras.line = some (f.height - 1) →
      Goes (.rasterFrameDone t) s fun x => Only [.regs, .time, .ras] s x ∧ x.ras = { s.ras with done := true, line := none } ∧
        bitOf (reg x R.RAS_INT_STAT) 2 = true) ∧
    (∀ line sample, s.ras.running = true → s.ras.transition = none → s.ras.scan ≠ none → s.ras.underLast ≠ some line →
      Goes (.scanUnderrun t line sample) s fun x => x.ras.blacked = aPut s.ras.blacked line (min sample (aGet s.ras.blacked line sample)) ∧
        x.ras.underruns = s.ras.underruns + 1 ∧ x.ras.underLast = some line ∧ bitOf (reg x R.RAS_INT_STAT) 3 = true ∧
        regN x R.RAS_CNT_UNDERRUN = min 0xFFFFFFFF (regN s R.RAS_CNT_UNDERRUN + 1) ∧
        (∀ a, s.ras.underAt = some a → (advance t s).time.now < a + 1000000000 → x.ras.under = s.ras.under + 1 ∧ x.teller = s.teller) ∧
        (s.ras.underAt = none → x.ras.under = 0 ∧ x.teller.ledgerOffers.map Prod.fst = s.teller.ledgerOffers.map Prod.fst ++ [0x8180])) ∧
    (∀ line sample, s.ras.running = false → exec (.scanUnderrun t line sample) s = .next (advance t s))

/-! What the status commands answer; none changes anything but what its own rule says. -/

/-- The status commands (R208, R240, R266, R303, R333, R363, R403, R425): of the inputs, the canvas, the map, the photometric stage, the lanes and the strings,
then of the MACs, the radio, the pair, Teller, power, Calibrate, Vault and the Ledger. ECHO answers the bytes it is given. -/
def Obligations.StatusCommands : Prop :=
  (∀ (c : Call) (s x : State), x = advance c.t s →
    (∀ n, Ready 0x0403 c s → (n ≤ 27 → ∃ f, Done (.inputStatusGet c n) 0x0403 c ⟨.ok, 48, f⟩ x s ∧ f.length = 13 ∧ f.head? = some (srcCode (srcOf s n).state : Int) ∧
        f.drop 7 = [((srcOf s n).published : Int), (srcOf s n).discarded, (srcOf s n).missA, (srcOf s n).missB, (srcOf s n).lostBoth, skewUs x n]) ∧
      (27 < n → Done (.inputStatusGet c n) 0x0403 c ⟨.invalidParameter, 0, []⟩ x s)) ∧
    (Ready 0x0414 c s → ∃ f, Done (.compStatusGet c) 0x0414 c ⟨.ok, 112, f⟩ x s ∧
      f.take 3 = [(unsignedOf 32 s.cmp.lastK : Int), s.cmp.lastTime, s.cmp.lastFetch]) ∧
    (Ready 0x0421 c s → Done (.monitorStatusGet c) 0x0421 c ⟨.ok, 48, [s.ras.r, s.ras.start, unsignedOf 32 s.ras.shownK, rasM s,
      if s.ras.running then (if s.ras.transition.isSome then 2 else 1) else 0, s.ras.underruns, s.ras.repeats, s.ras.readbacks, s.ras.slips,
      if s.ras.running then s.ras.ltr else 0xFFFFFFFF]⟩ x s) ∧
    (∀ first n, Ready 0x0431 c s → (1 ≤ n → n ≤ 1024 → first + n ≤ 131072 → Done (.fixtureGet c first n) 0x0431 c
        ⟨.ok, 8 + 72 * n, [(first : Int), n] ++ (List.range n).flatMap (fun i => entryFields s.cfgB s (first + i))⟩ x s) ∧
      (n < 1 ∨ 1024 < n ∨ 131072 < first + n → Done (.fixtureGet c first n) 0x0431 c ⟨.invalidParameter, 0, []⟩ x s)) ∧
    (∀ z, Ready 0x0433 c s → (z ≤ 255 → ∃ f, Done (.zoneGet c z) 0x0433 c ⟨.ok, 32, f⟩ x s ∧ f.length = 11 ∧ f.head? = some (z : Int) ∧
        f.drop 5 = [(zoneDelay s z s.time.fcount : Int), zonePixels s.cfgB z, (zoneFixtures s.cfgB z).length,
          if zoneEnabled s.cfgB z then slotsFor s (zoneDelay s z s.time.fcount) else 0, bNat (isShed s z),
          ((zoneFixtures s.cfgB z).filter (fun e => (aFind s.fxm.stale e.1).isSome)).length]) ∧
      (255 < z → Done (.zoneGet c z) 0x0433 c ⟨.invalidParameter, 0, []⟩ x s)) ∧
    (Ready 0x0436 c s → Done (.showGet c) 0x0436 c ⟨.ok, 48, [s.time.epoch, s.fxm.epoch, s.time.rateN, s.time.rateD, selTb s, secCode s.vlt.state,
      (s.cfgB.zones.filter (fun z => nBit z.2.flags 0)).length, (liveFixtures s.cfgB).length, segmentsAll s.cfgB,
      ((liveFixtures s.cfgB).map (fun e => fixPixels e.2)).sum, attrsUsed s.cfgB]⟩ x s) ∧
    (Ready 0x0443 c s → ∃ f, Done (.mapStatusGet c) 0x0443 c ⟨.ok, 64, f⟩ x s ∧ f.length = 27 ∧ f.take 2 = [(unsignedOf 32 s.map.lastK : Int),
      min 0xFFFFFFFF s.map.lastTime] ∧ f.drop 11 = (List.range 16).map (fun e => (roleCode (mapEngine s e).role : Int))) ∧
    (∀ first n, Ready 0x0453 c s → (1 ≤ n → n ≤ 2048 → first + n ≤ 33554432 → Done (.calRecordGet c first n) 0x0453 c ⟨.ok, 8 + 24 * n, [(first : Int), n] ++
        (List.range n).flatMap (fun i => recordFields (aGet s.pho.records (first + i) ⟨List.replicate 9 0, [0, 0, 0], 0, 0, 0⟩))⟩ x s) ∧
      (n < 1 ∨ 2048 < n ∨ 33554432 < first + n → Done (.calRecordGet c first n) 0x0453 c ⟨.invalidParameter, 0, []⟩ x s)) ∧
    (Ready 0x0455 c s → ∃ fresh silent : Nat, fresh + silent = s.pho.reports.length ∧ Done (.phoStatusGet c) 0x0455 c ⟨.ok, 32, [unsignedOf 32 s.pho.lastK,
      curveMask s.cfgB % 4294967296, curveMask s.cfgB / 4294967296, fresh, silent, s.pho.lastNoReport, s.pho.lastClipped]⟩ x s) ∧
    (∀ l, Ready 0x0464 c s → (l ≤ 31 → Done (.laneStatusGet c l) 0x0464 c ⟨.ok, 48, [l, laneCode (laneOf s l).state, chainLen s.cfgB l, (laneOf s l).seen,
        dMax (laneOf s l), chainTotal s.cfgB l, laneBusy s.cfgB l, regN s (R.LNE_Ln_CNT_LATE l), regN s (R.LNE_Ln_CNT_RETRY l),
        regN s (R.LNE_Ln_CNT_UNREACH l), ((laneOf s l).chips.filter (fun e => e.2.stale)).length, (laneOf s l).rangedAt]⟩ x s) ∧
      (31 < l → Done (.laneStatusGet c l) 0x0464 c ⟨.invalidParameter, 0, []⟩ x s)) ∧
    (∀ first n, Ready 0x046A c s → (1 ≤ n → n ≤ 256 → first < 16384 → Done (.strFaultGet c first n) 0x046A c
        ⟨.ok, 8 + 24 * ((s.lamps.drop first).take n).length, [(s.lamps.length : Int), ((s.lamps.drop first).take n).length] ++
          ((s.lamps.drop first).take n).flatMap lampFields⟩ x s) ∧
      (n < 1 ∨ 256 < n ∨ 16384 ≤ first → Done (.strFaultGet c first n) 0x046A c ⟨.invalidParameter, 0, []⟩ x s))) ∧
  (∀ (c : Call) (s x : State), x = advance c.t s →
    (∀ p, Ready 0x0474 c s → (p ≤ 10 → ∃ f, Done (.macStatusGet c p) 0x0474 c ⟨.ok, 32, f⟩ x s ∧ f.length = 10 ∧
        f.take 4 = [(linkCode (portOf s p).link : Int), portMode s p, bits (reg s (R.MAC_CFG p)) 7 4, pairRole s p] ∧
        f.drop 7 = [((portOf s p).tsq.length : Int), (portOf s p).slots.length, (portOf s p).changedAt]) ∧
      (10 < p → Done (.macStatusGet c p) 0x0474 c ⟨.invalidParameter, 0, []⟩ x s)) ∧
    (∀ p flags, Ready 0x0475 c s → (p ≤ 10 → ∃ y, Done (.macTallyGet c p flags) 0x0475 c
        ⟨.ok, 200, (p : Int) :: (portOf s p).acc.toList.map Int.ofNat⟩ y s ∧ (nBit flags 0 = false → y = x) ∧
        (nBit flags 0 = true → Only [.mac] x y ∧ (portOf y p) = { portOf s p with acc := Vector.replicate 24 0 } ∧
          ∀ q : Fin 11, q.val ≠ p → portOf y q = portOf s q)) ∧
      (10 < p → Done (.macTallyGet c p flags) 0x0475 c ⟨.invalidParameter, 0, []⟩ x s)) ∧
    (∀ r, Ready 0x0492 c s → (r ≤ 1 → ∃ f, Done (.radioStatusGet c r) 0x0492 c ⟨.ok, 32, f⟩ x s ∧ f.length = 9 ∧ f.head? = some (xState x r : Int) ∧
        f.drop 3 = [(((nodesOn s.cfgB r).filter (fun e => (nodeOf s e.1).state == .online)).length : Int),
          ((nodesOn s.cfgB r).filter (fun e => (nodeOf s e.1).state == .lost)).length,
          ((nodesOn s.cfgB r).filter (fun e => (nodeOf s e.1).state == .stale)).length, dwellMax x r, (hourUnits x x.time.now r / 3000 : Nat), slotNow x]) ∧
      (1 < r → Done (.radioStatusGet c r) 0x0492 c ⟨.invalidParameter, 0, []⟩ x s)) ∧
    (∀ first n, Ready 0x0493 c s → (1 ≤ n → n ≤ 256 → ∃ l, l = (s.cfgB.nodes.filter (fun e => decide (first ≤ e.1))).take n ∧
        Done (.radioNodeGet c first n) 0x0493 c ⟨.ok, 8 + 36 * l.length, (l.length : Int) :: l.flatMap (nodeFields x)⟩ x s) ∧
      (n < 1 ∨ 256 < n → Done (.radioNodeGet c first n) 0x0493 c ⟨.invalidParameter, 0, []⟩ x s)) ∧
    (Ready 0x04A2 c s → ∃ f, Done (.pairStatusGet c) 0x04A2 c ⟨.ok, 96, f⟩ x s ∧ f.length = 25 ∧ f.head? = some (bits (reg s R.ESC_CFG) 1 1 : Int) ∧
      f.drop 5 = [(regN s R.ESC_CNT_INCOMPLETE : Int), regN s R.ESC_CNT_SHADOW, regN s R.ESC_CNT_MISMATCH, regN s R.ESC_CNT_PROBE_MISS] ++
        (List.range 16).map (fun g => (regN s (R.ESC_Gg_SEQ g) : Int))) ∧
    (Ready 0x0001 c s → ∃ f, Done (.identify c) 0x0001 c ⟨.ok, 64, f⟩ x s ∧ f.take 6 = [(identOf s.part : Int), firmwareVersion s, 0x31,
      modeCode s.power.mode, (bootOf s).active, bNat (approved s)] ∧ f.drop 22 = [(baseMac s : Int),
        ((x.time.now - s.teller.resetAt) / 1000000) % 4294967296, st64 x, secCode s.vlt.state]) ∧
    (∀ bytes, Ready 0x0002 c s → Done (.echo c bytes) 0x0002 c ⟨.ok, bytes.length, bytes.map (fun b => (b.toNat : Int))⟩ x s) ∧
    (Ready 0x0506 c s → ∃ f, Done (.powerStatusGet c) 0x0506 c ⟨.ok, 40, f⟩ x s ∧ f.length = 24 ∧ f.take 6 = [(modeCode s.power.mode : Int),
        modeCode (targetMode s), s.power.cause, bNat (isBusy s) + 2 * bNat s.power.hold + 4 * bNat s.power.w1, s.power.vsense, s.power.coreMv] ∧
      ∀ d < 14, f[6 + d]? = some ((domCode (domState s d) + 128 * bNat (pendingOn x d || pendingOff x d) : Nat) : Int)) ∧
    (Ready 0x0507 c s → Done (.pvtGet c) 0x0507 c ⟨.ok, 148, [st64 x] ++ s.power.thermal.temps.toList.map (fun t => t.getD 0) ++
      s.power.volts.toList.map (fun v => (v.mv : Int)) ++ s.power.process.toList.map Int.ofNat⟩ x s) ∧
    (Ready 0x0522 c s → ∃ f, Done (.calStatusGet c) 0x0522 c ⟨.ok, 48, f⟩ x s ∧ f.length = 11 ∧ f.take 3 = [(sectorCode s : Int),
      (s.cal.inForce.getD 0xFF : Nat), bNat s.cal.pass.isSome + 2 * bNat (calDefaults s)] ∧ f[6]? = some (s.cal.skippedItems : Int) ∧
      f[9]? = some (s.cal.passes : Int)) ∧
    (∀ item first, Ready 0x0523 c s → (first < calCount s.part item → Done (.calItemGet c item first) 0x0523 c ⟨.ok, 8 + 16 * (calCount s.part item - first),
        ((calCount s.part item - first : Nat) : Int) :: (List.range (calCount s.part item - first)).flatMap (fun i => calFields x item (first + i))⟩ x s) ∧
      (calCount s.part item ≤ first → Done (.calItemGet c item first) 0x0523 c ⟨.invalidParameter, 0, []⟩ x s)) ∧
    (Ready 0x0600 c s → Done (.secStatusGet c) 0x0600 c ⟨.ok, 40, [(secCode s.vlt.state : Int), s.vlt.rollback, ((provOf s).map Prod.fst).getD 0xFF,
      s.vlt.katFail, s.vlt.written % 65536, s.vlt.written / 65536, s.vlt.revoked] ++ bootFields (bootOf s)⟩ x s) ∧
    (∀ b, Ready 0x0615 c s → (b ≤ 1 → Done (.fwStatusGet c b) 0x0615 c ⟨.ok, 64, [(bankCode (bankInfo (bootOf s) b).state : Int),
        (((bankOf s b).header.map FwHeader.blocks).getD 0 : Nat), (bankOf s b).blocks.length] ++
        (List.range 56).map (fun (j : Nat) => (goodByte (bankOf s b) j : Int))⟩ x s) ∧
      (1 < b → Done (.fwStatusGet c b) 0x0615 c ⟨.invalidParameter, 0, []⟩ x s)) ∧
    (Ready 0x0680 c s → Done (.ledgerStatusGet c) 0x0680 c ⟨.ok, 48, [regN s R.LGR_NEXT_SEQ, oldestSeq s, regN s R.LGR_FLOOR, s.lgr.buffer.length,
      s.lgr.side.length, bNat s.lgr.freeze.isSome + 2 * bNat s.lgr.flush.isSome + 4 * bNat s.lgr.fault, regN s R.LGR_CNT_LOST, regN s R.LGR_CNT_SIDE_OVF,
      regN s R.LGR_CNT_SUPP, regN s R.LGR_CLEARS, s.lgr.flushSt, s.lgr.clearSt]⟩ x s) ∧
    (∀ first n, Ready 0x0681 c s → (1 ≤ n → n ≤ 128 → ∃ rs, rs = ((history s).filter (fun r => !seqBelow r.seq first)).take n ∧
        Done (.ledgerRead c first n) 0x0681 c ⟨.ok, 16 + 32 * rs.length, [(oldestSeq s : Int), regN s R.LGR_NEXT_SEQ, regN s R.LGR_FLOOR, rs.length,
          bNat s.lgr.freeze.isSome] ++ rs.flatMap recFields⟩ x s) ∧
      (n < 1 ∨ 128 < n → Done (.ledgerRead c first n) 0x0681 c ⟨.invalidParameter, 0, []⟩ x s)))

/-! The mapper (R305 to R334). -/

/-- A frame in the engines: TILE_CLAIM, TILE_SAMPLE_START, TILE_COMPLETE and MAPPING_DEADLINE (R312 to R318). -/
def Obligations.MapperFrame : Prop :=
  ∀ (t : Nat) (e : Fin 16) (s : State) (fr : MapFrame), RegsWf s.regs → s.map.frame = some fr →
    (∀ tile, fr.open_ = true → (advance t s).time.st64 < fr.deadline → fr.tiles[fr.claims]? = some tile → aFind fr.ended fr.claims = none →
      (mapEngine s e).role = .active → (mapEngine s e).held = none → (mapEngine s e).fromK ≤ fr.k → engineOn s e = true →
      (tilePrograms fr.cfg tile).any (programOff s) = false → Goes (.tileClaim t e) s fun x => Only [.time, .map] s x ∧
        mapEngine x e = { mapEngine s e with held := some ⟨fr.claims, (advance t s).time.now, 0, !linesReady s fr tile, false⟩ } ∧
        x.map.frame = some { fr with claims := fr.claims + 1 } ∧ ∀ d : Fin 16, d ≠ e → mapEngine x d = mapEngine s d) ∧
    (fr.open_ = false ∨ fr.deadline ≤ (advance t s).time.st64 ∨ (mapEngine s e).role ≠ .active ∨ (mapEngine s e).held.isSome = true ∨
      (mapEngine s e).fromK > fr.k ∨ engineOn s e = false → exec (.tileClaim t e) s = .next (advance t s)) ∧
    (∀ h tile, (mapEngine s e).held = some h → fr.open_ = true → h.sampling = false → fr.tiles[h.tile]? = some tile →
      (linesReady s fr tile = true → Goes (.tileSampleStart t e none) s fun x => Only [.regs, .time, .fxm, .map] s x ∧ x.map.frame = some fr ∧ ∃ w,
        w = (if h.waiting then (advance t s).time.now - h.claimedAt else 0) ∧
        mapEngine x e = { mapEngine s e with held := some { h with waited := h.waited + w, waiting := false, sampling := true } } ∧
        regN x (R.MAP_CNT_WAIT 0) = min 0xFFFFFFFF (regN s (R.MAP_CNT_WAIT 0) + w)) ∧
      (∀ trap, linesReady s fr tile = false → exec (.tileSampleStart t e trap) s = .next (advance t s))) ∧
    (∀ h tile o, (mapEngine s e).held = some h → fr.open_ = true → h.sampling = true → (advance t s).time.st64 ≤ fr.deadline →
      fr.tiles[h.tile]? = some tile → o = tileOut (advance t s) fr tile → Goes (.tileComplete t e) s fun x => x.free = s.free ∧
        (mapEngine x e).held = none ∧ (mapEngine x e).clocks = (mapEngine s e).clocks + tileClocks tile ∧ x.map.ltp = o.ltp ∧
        regN x (R.MAP_En_TILES (e / 8) (e % 8)) = min 0xFFFFFFFF (regN s (R.MAP_En_TILES (e / 8) (e % 8)) + 1) ∧
        ∃ g, x.map.frame = some g ∧ g.values = o.values ∧ g.again = o.again ∧ aFind g.ended h.tile = some ⟨e, crc32c o.bytes, .done⟩) ∧
    (∀ h, (mapEngine s e).held = some h → h.sampling = false ∨ fr.deadline < (advance t s).time.st64 →
      exec (.tileComplete t e) s = .next (advance t s)) ∧
    (fr.open_ = true → fr.deadline ≤ (advance t s).time.st64 → Goes (.mappingDeadline t) s fun x => (∀ d : Fin 16, (mapEngine x d).held = none) ∧
      regN x (R.MAP_CNT_LATE 0) = min 0xFFFFFFFF (regN s (R.MAP_CNT_LATE 0) + (unended fr).length) ∧ x.map.lastK = fr.k ∧
      x.map.lastLate = (unended fr).length ∧ x.map.lastLost = fr.lost ∧ x.map.frame.map MapFrame.open_ = some false ∧
      ∀ n < fr.tiles.length, aFind fr.ended n = none → ∃ g, x.map.frame = some g ∧ aFind g.ended n = some ⟨0, 0, .late⟩) ∧
    (fr.open_ = false ∨ (advance t s).time.st64 < fr.deadline → exec (.mappingDeadline t) s = .next (advance t s))

/-- TILE_TIMEOUT, ENGINE_FAILURE and ENGINE_TEST_DONE (R325 to R330), KERNEL_LOAD, KERNEL_UNLOAD and MAP_ENGINE_SET (R308, R321, R333); then
REPORT_STALE_TIMEOUT, CAL_RECORD_WRITE, ZONE_TEMP_SET and ATTR_VALUE_SET. -/
def Obligations.MapperRolesAndValues : Prop :=
  ((∀ (t : Nat) (e : Fin 16) (s : State), RegsWf s.regs →
    (∀ h, (mapEngine s e).held = some h → (mapEngine s e).role = .active →
      (h.waiting = true → exec (.tileTimeout t e) s = .next (advance t s)) ∧
      (h.waiting = false → h.claimedAt + h.waited + regN s (R.MAP_TIMEOUT 0) ≤ (advance t s).time.now → exec (.tileTimeout t e) s = exec (.engineFailure t e 0) s) ∧
      (h.waiting = false → (advance t s).time.now < h.claimedAt + h.waited + regN s (R.MAP_TIMEOUT 0) → exec (.tileTimeout t e) s = .next (advance t s))) ∧
    ((mapEngine s e).held = none → exec (.tileTimeout t e) s = .next (advance t s)) ∧
    (∀ cause, cause ≠ 5 → (mapEngine s e).role ≠ .off → (mapEngine s e).role ≠ .failed → Goes (.engineFailure t e cause) s fun x =>
      (mapEngine x e).role = .failed ∧ (mapEngine x e).cause = cause ∧ (mapEngine x e).held = none ∧
      (∀ d : Fin 16, d ≠ e → (mapEngine x d).role = (mapEngine s d).role ∧ (mapEngine x d).held = (mapEngine s d).held) ∧
      bitOf (reg x (R.MAP_INT_STAT 0)) 0 = true ∧ (∃ o ∈ x.teller.ledgerOffers, o.1 = 0x8210) ∧
      ∀ fr, s.map.frame = some fr → regN x (R.MAP_CNT_LOST 0) =
        min 0xFFFFFFFF (regN s (R.MAP_CNT_LOST 0) + (engineTiles fr e (mapEngine s e).held).length)) ∧
    (Goes (.engineFailure t e 5) s fun x => ∀ d : Fin 16, (engineDomain d = engineDomain e → (mapEngine s d).role ≠ .off →
      (mapEngine x d).role = .failed ∧ (mapEngine x d).cause = 5 ∧ (mapEngine x d).held = none) ∧
      (engineDomain d ≠ engineDomain e ∨ (mapEngine s d).role = .off → (mapEngine x d).role = (mapEngine s d).role)) ∧
    (∀ cause, cause ≠ 5 → (mapEngine s e).role = .off ∨ (mapEngine s e).role = .failed → exec (.engineFailure t e cause) s = .next (advance t s)) ∧
    ((mapEngine s e).role = .testing → (mapEngine s e).testLeft = 0 → Goes (.engineTestDone t e) s fun x =>
      (mapEngine x e).role = (if roleCount s .active < targetNow s ∨ (inRole s .spare = [] ∧ spareAt e s ≠ e) then .active
        else if inRole s .spare = [] then .spare else .idle) ∧
      (targetNow s ≤ roleCount s .active → inRole s .spare = [] → spareAt e s ≠ e →
        mapEngine x (spareAt e s) = { mapEngine s (spareAt e s) with role := .spare }) ∧
      (∀ d : Fin 16, d ≠ e → roleCount s .active < targetNow s ∨ inRole s .spare ≠ [] ∨ d.val ≠ spareAt e s → mapEngine x d = mapEngine s d) ∧ x.map.frame = s.map.frame ∧ bitOf (reg x (R.MAP_INT_STAT 0)) 4 = true) ∧
    ((mapEngine s e).role ≠ .testing ∨ (mapEngine s e).testLeft ≠ 0 → exec (.engineTestDone t e) s = .next (advance t s))) ∧
  (∀ (c : Call) (s x : State), x = advance c.t s →
    (∀ p : KernelLoad, Ready 0x0440 c s → kernelHeaderOk p = true → kernelCheckOk p = true → aFind s.map.kernels (kernelKey p) = none →
      (s.map.kernels.map (fun k => k.2.image.codeBytes)).sum + p.codeBytes ≤ 65536 → (s.map.kernels.map (fun k => k.2.image.dataBytes)).sum + p.dataBytes ≤ 32768 →
      codeSigned x p.trailer = true → Done (.kernelLoad c p) 0x0440 c ⟨.ok, 0, []⟩ { x with map := { s.map with
        kernels := aPut s.map.kernels (kernelKey p) ⟨p, none, 0, false, 0, none⟩ } } s) ∧
    (∀ p : KernelLoad, Ready 0x0440 c s → kernelHeaderOk p = false ∨ kernelCheckOk p = false ∨ (aFind s.map.kernels (kernelKey p)).isSome = true →
      Done (.kernelLoad c p) 0x0440 c ⟨.invalidParameter, 0, []⟩ x s) ∧
    (∀ kind code key, Ready 0x0441 c s → kind ≤ 1 → 128 ≤ code → code ≤ 255 → key = 256 * kind + code →
      (aFind s.map.kernels key = none → Done (.kernelUnload c kind code) 0x0441 c ⟨.notFound, 0, []⟩ x s) ∧
      ((aFind s.map.kernels key).isSome = true → codeUsed s.cfgB key = false → codeUsed s.record key = false →
        (∀ g ∈ s.teller.stages, g.msgs.any (msgNames key) = false) →
        Done (.kernelUnload c kind code) 0x0441 c ⟨.ok, 0, []⟩ { x with map := { s.map with kernels := aDel s.map.kernels key } } s) ∧
      ((aFind s.map.kernels key).isSome = true → codeUsed s.cfgB key = true ∨ codeUsed s.record key = true →
        Done (.kernelUnload c kind code) 0x0441 c ⟨.invalidParameter, 0, []⟩ x s)) ∧
    (∀ e, Ready 0x0444 c s → e ≤ 15 →
      ((mapEngine s e).role = .failed → domainUp s (engineDomain e) = true → Ends (.mapEngineSet c e 0) 0x0444 c ⟨.ok, 0, []⟩
        (kick (modMapEngine e (fun y => { y with role := .testing, testLeft := 17, testBad := 0 }) x)) s) ∧
      (domainUp s (engineDomain e) = false → Ends (.mapEngineSet c e 0) 0x0444 c ⟨.notReady, 0, []⟩ (kick x) s) ∧
      ((mapEngine s e).role ≠ .failed → domainUp s (engineDomain e) = true →
        Ends (.mapEngineSet c e 0) 0x0444 c ⟨.invalidParameter, 0, []⟩ (kick x) s) ∧
      ((mapEngine s e).role ≠ .off → (mapEngine s e).role ≠ .failed → Ends (.mapEngineSet c e 1) 0x0444 c ⟨.ok, 0, []⟩ (kick (engineFail e 6 x)) s) ∧
      Ends (.mapEngineSet c e 2) 0x0444 c ⟨.ok, 0, []⟩ (kick (setField (R.MAP_SPARE_PREF 0) 3 0 e x)) s) ∧
    (∀ e, Ready 0x0444 c s → s.map.released = false → mapFits (mapClocks s.map s.cfgB []) 7 (mapLimit x s.cfgB) = true →
      Ends (.mapEngineSet c e 3) 0x0444 c ⟨.ok, 0, []⟩ (kick { x with map := { s.map with releaseAsked := true } }) s) ∧
    (∀ e, Ready 0x0444 c s → Ends (.mapEngineSet c e 4) 0x0444 c ⟨.ok, 0, []⟩ (kick { x with map := { s.map with
      released := false, releaseAsked := false } }) s))) ∧
  ((∀ (t : Nat) (s : State), RegsWf s.regs →
    (∀ chip at_ temp, aFind s.pho.reports chip = some (at_, temp) →
      (at_ + tstaleNs s < (advance t s).time.now → chip ∉ s.pho.stale → Goes (.reportStaleTimeout t chip) s fun x => Only [.regs, .time, .teller, .pho] s x ∧
        x.pho = { s.pho with stale := chip :: s.pho.stale } ∧ bitOf (reg x R.PHO_INT_STAT) 2 = true ∧
        x.teller.ledgerOffers.map Prod.fst = s.teller.ledgerOffers.map Prod.fst ++ [0x8220]) ∧
      ((advance t s).time.now ≤ at_ + tstaleNs s ∨ chip ∈ s.pho.stale → exec (.reportStaleTimeout t chip) s = .next (advance t s))) ∧
    (∀ chip, aFind s.pho.reports chip = none → exec (.reportStaleTimeout t chip) s = .next (advance t s)) ∧
    (∀ a i r, s.time.running = true → s.map.frame = none → s.teller.accepted = [a] → a.tag ≤ s.time.fcount → s.pho.writtenTag ≠ some a.tag →
      recordsChanged s.cfgB.records a.cfg.records = [(i, r)] → Goes (.calRecordWrite t) s fun x => Only [.time, .pho] s x ∧
        aFind x.pho.records i = some r ∧ (∀ j, j ≠ i → aFind x.pho.records j = aFind s.pho.records j) ∧ x.pho.writtenTag = some a.tag ∧
        x.pho.writingTo = max s.pho.writingTo ((advance t s).time.st64 + 6)) ∧
    (s.time.running = false ∨ (∀ a ∈ s.teller.accepted, s.time.fcount < a.tag) ∨ (∃ a ∈ s.teller.accepted, s.pho.writtenTag = some a.tag) →
      exec (.calRecordWrite t) s = .next (advance t s))) ∧
  (∀ (c : Call) (s x : State), x = advance c.t s →
    (∀ (z : Nat) (valid : Bool) (temp : Int) (w : Word), Ready 0x0454 c s → w = BitVec.ofNat 32 (bNat valid * 2147483648 + unsignedOf 16 temp) →
      (z ≤ 255 → ∃ y, Done (.zoneTempSet c z valid temp) 0x0454 c ⟨.ok, 0, []⟩ y s ∧ Only [.regs, .pho] x y ∧ reg y (R.PHO_ZTEMPz z) = w ∧
        (aGet y.pho.zoneTemps z []).head? = some (reachedAt c x, w) ∧ ∀ v, v ≠ z → aFind y.pho.zoneTemps v = aFind s.pho.zoneTemps v) ∧
      (255 < z → Done (.zoneTempSet c z valid temp) 0x0454 c ⟨.invalidParameter, 0, []⟩ x s)) ∧
    (∀ p : AttrValueSet, Ready 0x0435 c s →
      (1 ≤ p.count → p.count ≤ 4096 → p.first + p.count ≤ 65536 → ∃ y, Done (.attrValueSet c p) 0x0435 c ⟨.ok, 0, []⟩ y s ∧
        y = { x with fxm := { s.fxm with host := y.fxm.host } } ∧ (∀ i < p.count, (aGet y.fxm.host (p.first + i) []).head? =
          some (reachedAt c x, if p.release then none else some (p.values.getD i 0 % 65536))) ∧
        ∀ d, d < p.first ∨ p.first + p.count ≤ d → aFind y.fxm.host d = aFind s.fxm.host d) ∧
      (p.count < 1 ∨ 4096 < p.count ∨ 65536 < p.first + p.count → Done (.attrValueSet c p) 0x0435 c ⟨.invalidParameter, 0, []⟩ x s))))

/-! Unbex lanes (R365 to R404) and strings (R405 to R426). -/

/-- The events of a lane: pixel frames (R383), its states (R398, R399), ranging (R384 to R386). -/
def Obligations.LaneEvents : Prop :=
  ∀ (t : Nat) (l : Fin 32) (s y : State), RegsWf s.regs → y = advance t s →
    (∀ j f r words, (laneOf s l).jobs = [j] → j.frames = f :: r → jobOpen y j = true → frameBlocked y l j f = false →
      words = (List.range f.2).map (fun i => laneWord y l j.zone j.k (f.1 + i)) →
      (y.time.st64 + 48 * f.2 + 112 ≤ laneDeadline y l j.zone j.k → laneRuns? (laneOf s l) = true → outputBad s l none [4, 5] = false →
        Goes (.pixelFrameSend t l) s fun x => Only [.regs, .time, .teller, .alm, .lanes] s x ∧
          (laneOf x l).lastFrame = some ⟨j.zone, unsignedOf 8 j.k, f.1, words, crc32c (pixelBytes j.zone (unsignedOf 8 j.k) f.1 words)⟩ ∧
          (r = [] → (laneOf x l).jobs = []) ∧ regN x (R.LNE_Ln_CNT_FRAMES l) = min 0xFFFFFFFF (regN s (R.LNE_Ln_CNT_FRAMES l) + 1)) ∧
      (laneDeadline y l j.zone j.k < y.time.st64 + 48 * f.2 + 112 → Goes (.pixelFrameSend t l) s fun x => (laneOf x l).jobs = [] ∧
        (laneOf x l).lastFrame = (laneOf s l).lastFrame ∧ bitOf (reg x R.LNE_INT_STAT) 3 = true ∧
        regN x (R.LNE_Ln_CNT_LATE l) = min 0xFFFFFFFF (regN s (R.LNE_Ln_CNT_LATE l) + j.frames.length))) ∧
    ((laneOf s l).jobs = [] → exec (.pixelFrameSend t l) s = .next y) ∧
    (∀ j f, (laneOf s l).jobs = [j] → f ∈ j.frames → frameFits y l j f = true → (∀ g ∈ j.frames, frameBlocked y l j g = true) →
      exec (.pixelFrameSend t l) s = .next y) ∧
    ((laneOf s l).state = .training → Goes (.laneTrainingDone t l) s fun x => (laneOf x l).state = .enumerating ∧ (laneOf x l).enumerating = true ∧
      (laneOf x l).enumLast = none ∧ (laneOf x l).seen = (laneOf s l).seen ∧ bitOf (reg x R.LNE_INT_STAT) 0 = true ∧
      ∀ m : Fin 32, m ≠ l → laneOf x m = laneOf s m) ∧
    ((laneOf s l).state ≠ .training → exec (.laneTrainingDone t l) s = .next y) ∧
    (laneRuns? (laneOf s l) = true → (laneOf s l).enumAt + 100000000 ≤ y.time.now → Goes (.enumerateInterval t l) s fun x => Only [.time, .lanes] s x ∧
      (pixelReady y l = false → (laneOf x l).enumerating = true) ∧
      (pixelReady y l = true → (laneOf x l).enumerating = (laneOf s l).enumerating ∧ ((laneOf s l).enumerating = false → (laneOf x l).enumDue = true)) ∧
      (laneOf x l).enumAt = y.time.now ∧ (laneOf x l).state = (laneOf s l).state ∧ ∀ m : Fin 32, m ≠ l → laneOf x m = laneOf s m) ∧
    (laneRuns? (laneOf s l) = false ∨ y.time.now < (laneOf s l).enumAt + 100000000 → exec (.enumerateInterval t l) s = .next y) ∧
    (∀ (f : EnumFrame) n, (laneOf s l).enumerating = false ∨ f.check ≠ f.next ^^^ 0xFFFF →
      exec (.enumerateFrameReturn t l f n) s = .next (rxErrors l n y)) ∧
    (∀ (f : EnumFrame) n, (laneOf s l).enumerating = true → f.check = f.next ^^^ 0xFFFF →
      ((laneOf s l).enumLast ≠ some f.next →
        exec (.enumerateFrameReturn t l f n) s = .next (modLane l (fun z => { z with enumLast := some f.next }) (rxErrors l n y))) ∧
      ((laneOf s l).enumLast = some f.next → (laneOf s l).state = .enumerating → Goes (.enumerateFrameReturn t l f n) s fun x =>
        (laneOf x l).state = .ranging ∧ (laneOf x l).seen = min 1024 f.next ∧ (laneOf x l).enumerating = false ∧
        (laneOf x l).range = some ⟨true, List.range (min (min 1024 f.next) (chainLen s.cfgB l)), [], 0, [], false⟩)) ∧
    (∀ g o n r loop, (laneOf s l).range = some g → (laneOf s l).rangeOut = some o → g.todo = n :: r → o.chip = n →
      (∀ f : RangeFrame, f.errors = 0 → f.chip = n → f.rseq = o.rseq → f.crc = crc32c (rangeBytes n o.rseq) →
        (g.got.length < 15 → Goes (.rangeFrameReturn t l f loop) s fun x => Only [.time, .lanes] s x ∧ (laneOf x l).range = some { g with got := g.got ++ [loop] } ∧
          ((laneOf s l).outstanding = none → (laneOf s l).collectOut = none → (laneOf s l).enumerating = false → pixelReady y l = false →
            ∃ q, (laneOf x l).rseq = q ∧ (laneOf x l).rangeOut = some ⟨n, q, crc32c (rangeBytes n q), 0⟩)) ∧
        (∀ a b, g.got.length = 15 → a = (g.got.take 8).sum → b = (g.got.drop 8).sum + loop →
          (((a : Int) - b).natAbs ≤ 800 → g.whole = true → Goes (.rangeFrameReturn t l f loop) s fun x => (laneOf x l).range = some { g with
            todo := r, got := [], repeats := 0, done := g.done ++ [(n, rangeDelay (laneCfg s.cfgB l) (a + b) n, false)] }) ∧
          (800 < ((a : Int) - b).natAbs → g.repeats < 3 → Goes (.rangeFrameReturn t l f loop) s fun x =>
            (laneOf x l).range = some { g with got := [], repeats := g.repeats + 1 }))) ∧
      (∀ f : RangeFrame, f.chip ≠ n ∨ f.rseq ≠ o.rseq → f.crc = crc32c (rangeBytes f.chip f.rseq) →
        exec (.rangeFrameReturn t l f loop) s = .next (rxErrors l f.errors y)) ∧
      (∀ f : RangeFrame, f.crc ≠ crc32c (rangeBytes f.chip f.rseq) → Goes (.rangeFrameReturn t l f loop) s fun x => (laneOf x l).range = some g)) ∧
    (∀ f loop, (laneOf s l).rangeOut = none → exec (.rangeFrameReturn t l f loop) s = .next (rxErrors l f.errors y)) ∧
    (∀ g d, (laneOf s l).range = some g → g.whole = true → g.todo = [] → d = g.done.foldl (fun m e => max m e.2.1) (dMaxBut (laneOf s l) (g.done.map Prod.fst)) →
      Goes (.laneRangingDone t l) s fun x => (laneOf x l).range = none ∧ bitOf (reg x R.LNE_INT_STAT) 1 = true ∧
        (∃ o ∈ x.teller.ledgerOffers, o.1 = 0x8231) ∧
        (rangeVerdict s.cfgB.laneGlobal.target d = 0 → (laneOf x l).ranged = true ∧ (laneOf x l).rangedAt = st64 y) ∧
        (rangeVerdict s.cfgB.laneGlobal.target d ≠ 0 → (laneOf s l).state = .ranging → (laneOf s l).ranged = false → (laneOf x l).state = .fault)) ∧
    ((laneOf s l).range = none → exec (.laneRangingDone t l) s = .next y) ∧
    (∀ n, laneRuns? (laneOf s l) = true → Goes (.laneRxLoss t l n) s fun x => (laneOf x l).seen = 0 ∧ (laneOf x l).range = none ∧
      (laneOf x l).rangeOut = none ∧ (laneOf x l).enumerating = false ∧ (laneOf x l).state = (if 0 < chainLen s.cfgB l then .folded else (laneOf s l).state) ∧
      regN x (R.LNE_Ln_CNT_RXERR l) = min 0xFFFFFFFF (regN s (R.LNE_Ln_CNT_RXERR l) + n)) ∧
    (∀ n, laneRuns? (laneOf s l) = false → Goes (.laneRxLoss t l n) s fun x => x.lanes = s.lanes ∧
      regN x (R.LNE_Ln_CNT_RXERR l) = min 0xFFFFFFFF (regN s (R.LNE_Ln_CNT_RXERR l) + n))

/-- Control frames (R391 to R394), collection (R397) and the commands of lanes and strings (R387, R403, R423). -/
def Obligations.LaneControl : Prop :=
  (∀ (t : Nat) (l : Fin 32) (s y : State), RegsWf s.regs → y = advance t s →
    (∀ c (r : CtrlReturn), (laneOf s l).outstanding = some c → r.crc ≠ crc32c (ackBytes r) ∨ r.status = 0 → c.sent ≤ (laneCfg s.cfgB l).retries →
      Goes (.controlFrameReturn t l r) s fun x => Only [.regs, .time, .lanes] s x ∧ (∃ st, (laneOf x l).outstanding = some { c with
        sent := c.sent + 1, sentAt := y.time.now, lastStatus := st }) ∧ reg x (R.CHK_CHn_RESULT (12 + l)) = crc32c (ackBytes r) ∧ regN x (R.LNE_Ln_CNT_RETRY l) = min 0xFFFFFFFF (regN s (R.LNE_Ln_CNT_RETRY l) + 1)) ∧
    (∀ c (r : CtrlReturn) u, (laneOf s l).outstanding = some c → c.op = .latch u → r.crc = crc32c (ackBytes r) → r.status = 1 → r.alive = c.alive → r.seq = c.seq →
      (laneOf s l).queue = [] → laneString s.cfgB l = false → (laneOf s l).state = .up → Goes (.controlFrameReturn t l r) s fun x =>
        (laneOf x l).outstanding = none ∧ (laneOf x l).queue = [] ∧ (chipOf x l c.chip).acked = ((chipOf s l c.chip).units == u)) ∧
    (∀ c (r : CtrlReturn) a k, (laneOf s l).outstanding = some c → c.op = .read a → c.cause = .hostRead (some k) → r.crc = crc32c (ackBytes r) → r.status = 1 → r.alive = c.alive →
      r.seq = c.seq → exec (.controlFrameReturn t l r) s = .next (ctrlNext l (laneSettle l (respondOwed 0x0466 (some k) ⟨.ok, 8, [1, r.data.toNat]⟩
        (ctrlClear l (ctrlAlive l r.alive (chkRun (12 + l) (ackBytes r) (rxErrors l r.errors y)))))))) ∧
    (∀ r : CtrlReturn, (laneOf s l).outstanding = none → r.crc ≠ crc32c (ackBytes r) ∨ r.status = 0 →
      exec (.controlFrameReturn t l r) s = .next (chkRun (12 + l) (ackBytes r) (rxErrors l r.errors y))) ∧
    (∀ c, (laneOf s l).outstanding = some c → c.sentAt + (laneCfg s.cfgB l).ackTimeout ≤ y.time.now →
      (c.sent ≤ (laneCfg s.cfgB l).retries → Goes (.controlAckTimeout t l) s fun x => (laneOf x l).outstanding = some { c with
        sent := c.sent + 1, sentAt := y.time.now } ∧ regN x (R.LNE_Ln_CNT_RETRY l) = min 0xFFFFFFFF (regN s (R.LNE_Ln_CNT_RETRY l) + 1)) ∧
      (∀ u, (laneCfg s.cfgB l).retries < c.sent → c.op = .latch u → c.cause = .ranging → (laneOf s l).queue = [] → laneString s.cfgB l = false →
        (laneOf s l).state = .up → Goes (.controlAckTimeout t l) s fun x => (laneOf x l).outstanding = none ∧ bitOf (reg x R.LNE_INT_STAT) 2 = true ∧
          regN x (R.LNE_Ln_CNT_UNREACH l) = min 0xFFFFFFFF (regN s (R.LNE_Ln_CNT_UNREACH l) + 1) ∧
          x.teller.ledgerOffers.map Prod.fst = s.teller.ledgerOffers.map Prod.fst ++ [0x8232])) ∧
    (∀ c, (laneOf s l).outstanding = some c → y.time.now < c.sentAt + (laneCfg s.cfgB l).ackTimeout → exec (.controlAckTimeout t l) s = .next y) ∧
    (∀ n first, n = chainLen s.cfgB l → first = (if (laneOf s l).collectNext < n then (laneOf s l).collectNext else 0) → laneRuns? (laneOf s l) = true →
      0 < n → (laneOf s l).collectAt + s.cfgB.laneGlobal.collect * 1000 ≤ y.time.now → Goes (.collectInterval t) s fun x =>
        (laneOf x l).collectAt = y.time.now ∧
        (pixelReady y l = false → (laneOf x l).collectOut = some (first, min 16 (n - first)) ∧ (laneOf x l).cseq = ((laneOf s l).cseq + 1) % 256 ∧
          (laneOf x l).collectNext = first + 16) ∧
        (pixelReady y l = true → (laneOf x l).collectOut = (laneOf s l).collectOut ∧ (laneOf x l).collectDue = true)) ∧
    (laneRuns? (laneOf s l) = false ∨ y.time.now < (laneOf s l).collectAt + s.cfgB.laneGlobal.collect * 1000 → Goes (.collectInterval t) s fun x =>
      (laneOf x l).collectOut = (laneOf s l).collectOut ∧ (laneOf x l).cseq = (laneOf s l).cseq) ∧
    (∀ n slots, (laneOf s l).collectOut = none → exec (.collectFrameReturn t l slots n) s = .next (rxErrors l n y)) ∧
    (∀ n slots first count xs p, (laneOf s l).collectOut = some (first, count) → xs = (List.range count).map (fun j => slots.getD j blankSlot) →
      p = intake 17 (collectPacket l first (laneOf s l).cseq xs) (modLane l (fun z => { z with collectOut := none }) (rxErrors l n y)) →
      Goes (.collectFrameReturn t l slots n) s fun x => (laneOf x l).collectOut = none ∧ (p.2 = false → x = rangeNext l p.1) ∧
        (p.2 = true → x = rangeNext l ((xs.mapIdx (fun j q => (first + j, q))).foldl (collectSlot l) p.1)) ∧
        (p.2 = true → slots = [] → count = 1 → regN x (R.LNE_Ln_CNT_MISS l) = min 0xFFFFFFFF (regN s (R.LNE_Ln_CNT_MISS l) + 1)))) ∧
  (∀ (c : Call) (s x : State), x = advance c.t s →
    (∀ (mask chip : Nat) (l : Fin 32), Ready 0x0463 c s → (List.range 32).filter (nBit mask) = [l.val] → laneRuns? (laneOf s l) = true →
      (chip = 0xFFFF → ∃ y, Done (.laneRange c mask chip) 0x0463 c ⟨.ok, 0, []⟩ y s ∧ Only [.lanes] x y ∧
        (laneOf y l).range = some ⟨true, List.range (reachable s l), [], 0, [], false⟩ ∧ ∀ m : Fin 32, m ≠ l → laneOf y m = laneOf s m) ∧
      (chip ≠ 0xFFFF → chip < reachable s l → ∃ y, Done (.laneRange c mask chip) 0x0463 c ⟨.ok, 0, []⟩ y s ∧ Only [.lanes] x y ∧
        (laneOf y l).range = some ⟨false, [chip], [], 0, [], false⟩ ∧ ∀ m : Fin 32, m ≠ l → laneOf y m = laneOf s m) ∧
      (chip ≠ 0xFFFF → chainLen s.cfgB l ≤ chip → Done (.laneRange c mask chip) 0x0463 c ⟨.notFound, 0, []⟩ x s)) ∧
    (∀ (mask chip : Nat) (l : Fin 32), Ready 0x0463 c s → nBit mask l = true → laneRuns? (laneOf s l) = false →
      (laneOf s l).state ≠ .fault ∨ chip ≠ 0xFFFF → Done (.laneRange c mask chip) 0x0463 c ⟨.notReady, 0, []⟩ x s) ∧
    (∀ chip, Ready 0x0463 c s → Done (.laneRange c 0 chip) 0x0463 c ⟨.invalidParameter, 0, []⟩ x s) ∧
    (∀ (l : Fin 32) (chip addr : Nat) (data : List (BitVec 8)), chipCheck s l chip = none →
      (Ready 0x0465 c s → 0x1000 ≤ addr → addr ≤ 0xFFFF → 4 ≤ data.length → data.length ≤ 228 → data.length % 4 = 0 → ∃ y,
        Ends (.laneChipWrite c l chip addr data) 0x0465 c ⟨.pending, 0, []⟩ y s ∧
        (s.time.running = false → pixelReady x l = false → (laneOf s l).outstanding = none → (laneOf s l).queue = [] → ∃ q, (laneOf y l).outstanding = some q ∧
          q.op = .write addr data ∧ q.chip = chip ∧ q.cause = .hostWrite (some c) ∧ q.alive = ((laneOf s l).alive + 1) % 65536) ∧
        (s.time.running = true → domainUp s 7 = true → ∃ q, q.op = .write addr data ∧ q.chip = chip ∧
          (laneOf y l).queue = (laneOf s l).queue ++ [q])) ∧
      (Ready 0x0465 c s → addr < 0x1000 → Done (.laneChipWrite c l chip addr data) 0x0465 c ⟨.invalidParameter, 0, []⟩ x s) ∧
      (Ready 0x0466 c s → addr ≤ 0xFFFF → ∃ y, Ends (.laneChipRead c l chip addr) 0x0466 c ⟨.pending, 0, []⟩ y s ∧
        (s.time.running = false → pixelReady x l = false → (laneOf s l).outstanding = none → (laneOf s l).queue = [] → ∃ q, (laneOf y l).outstanding = some q ∧
          q.op = .read addr ∧ q.chip = chip ∧ q.cause = .hostRead (some c)))) ∧
    (∀ (l : Fin 32) (chip addr : Nat) (data : List (BitVec 8)) (e : Status), chipCheck s l chip = some e →
      (Ready 0x0466 c s → addr ≤ 0xFFFF → Done (.laneChipRead c l chip addr) 0x0466 c ⟨e, 0, []⟩ x s) ∧
      (Ready 0x0465 c s → 0x1000 ≤ addr → addr ≤ 0xFFFF → 4 ≤ data.length → data.length ≤ 228 → data.length % 4 = 0 →
        Done (.laneChipWrite c l chip addr data) 0x0465 c ⟨e, 0, []⟩ x s)) ∧
    (∀ p : StrLampSet, Ready 0x0469 c s → p.action ≤ 1 → 1 ≤ p.strings → p.strings ≤ 7 → p.lamp = 0xFF ∨ p.lamp ≤ 63 → chipCheck s p.lane p.chip = none →
      (laneString s.cfgB p.lane = true → p.lamp = 0xFF ∨ p.lamp < chipCount s.cfgB p.lane p.chip → ∃ y,
        Ends (.strLampSet c p) 0x0469 c ⟨.pending, 0, []⟩ y s ∧ (p.action = 1 → y.lamps = s.lamps.filter (fun e => !lampMatch p e)) ∧
        (p.action = 0 → ∀ e ∈ s.lamps, e ∈ y.lamps)) ∧
      (laneString s.cfgB p.lane = false → Done (.strLampSet c p) 0x0469 c ⟨.notFound, 0, []⟩ x s)))

/-! Ports (R427 to R462). -/

/-- Links and pairs (R428, R434), transmission (R436 to R442) and transmit timestamps (R447, R448). -/
def Obligations.MacLinksAndTransmit : Prop :=
  ∀ (t : Nat) (p : Fin 11) (s y : State), RegsWf s.regs → y = advance t s →
    (∀ rate, portOn s p = true → (portOf s p).link ≠ .up → Goes (.linkUp t p rate) s fun x => (portOf x p).link = .up ∧ (portOf x p).upAt = y.time.now ∧
      (portOf x p).changedAt = st64 y ∧ (portOf x p).rate = min rate 2 ∧ bitOf (reg x (R.MAC_INT_STAT p)) 0 = true ∧
      x.teller.ledgerOffers.map Prod.fst = s.teller.ledgerOffers.map Prod.fst ++ [0x8250]) ∧
    (∀ rate, portOn s p = false ∨ (portOf s p).link = .up → exec (.linkUp t p rate) s = .next y) ∧
    (∀ cause, (portOf s p).link = .up → Goes (.linkDown t p cause) s fun x =>
      (portOf x p).link = (if bitOf (reg s (R.MAC_CTRL p)) 1 then .training else .down) ∧ (portOf x p).changedAt = st64 y ∧
      (portOf x p).fault = min cause 2 ∧ bitOf (reg x (R.MAC_INT_STAT p)) 0 = true ∧ (∃ o ∈ x.teller.ledgerOffers, o.1 = 0x8250) ∧
      vGet (portOf x p).tally 21 0 = min 18446744073709551615 (vGet (portOf s p).tally 21 0 + 1) ∧
      (∀ q : Fin 4, p.val = (if (pairOf s q).secondary then q + 4 else q) → (pairOf s q).mode = 2 →
        (portOf s (if (pairOf s q).secondary then q else q + 4)).link = .up → (pairOf x q).secondary = !(pairOf s q).secondary ∧ (portOf x p).slots = [])) ∧
    (∀ cause, (portOf s p).link ≠ .up → exec (.linkDown t p cause) s = .next y) ∧
    (∀ q : Fin 4, ((pairOf s q).mode = 2 → (pairOf s q).revertive = true → (pairOf s q).secondary = true → (portOf s q).link = .up →
        (portOf s q).upAt + 10000000000 ≤ y.time.now → Goes (.pairRevert t q) s fun x => (pairOf x q).secondary = false ∧ (portOf x (q + 4)).slots = [] ∧
          (portOf x (q + 4)).waiting = [] ∧ (∃ o ∈ x.teller.ledgerOffers, o.1 = 0x8252) ∧
          ((portOf s (q + 4)).waiting = [] → x.teller.ledgerOffers.map Prod.fst = s.teller.ledgerOffers.map Prod.fst ++ [0x8252])) ∧
      ((pairOf s q).mode ≠ 2 ∨ (pairOf s q).revertive = false ∨ (pairOf s q).secondary = false ∨ y.time.now < (portOf s q).upAt + 10000000000 →
        exec (.pairRevert t q) s = .next y)) ∧
    (∀ i f, (portOf s p).waiting = [] → (portOf s p).tsqExtra = none → lateFrames y p = [] → portFree y p 0 = true → txPick y p = some (i, f) → i < 8 →
      Goes (.txFrameStart t p) s fun x => (portOf x p).line = frameBytesOf f ∧
      (portOf x p).sent = some (f, st64 y + (8 * byteTime s p + 50) / 100) ∧ vGet (portOf x p).queues i [] = (vGet (portOf s p).queues i []).tail ∧
      (portOf x p).busyUntil = y.time.now * 100 + (f.len + 20) * byteTime s p ∧
      vGet (portOf x p).tally 14 0 = min 18446744073709551615 (vGet (portOf s p).tally 14 0 + 1) ∧
      vGet (portOf x p).tally 15 0 = min 18446744073709551615 (vGet (portOf s p).tally 15 0 + f.len)) ∧
    ((portOf s p).waiting = [] → (portOf s p).tsqExtra = none → lateFrames y p = [] → portFree y p 0 = false ∨ txPick y p = none →
      exec (.txFrameStart t p) s = .next y) ∧
    (∀ f ∈ lateFrames y p, (portOf s p).tsqExtra = none → Goes (.txFrameStart t p) s fun x => ∀ i < 8, f ∉ vGet (portOf x p).queues i []) ∧
    (∀ l, (portOf s p).slots = [l] → (portOf s p).tsqExtra = none →
      (y.time.st64 < l.at_ → exec (.launchSlotFire t p) s = .next y) ∧
      (l.at_ + bits (reg s (R.MAC_LAUNCH_WIN p)) 15 0 < y.time.st64 → Goes (.launchSlotFire t p) s fun x => (portOf x p).slots = [] ∧
        (portOf x p).sent = (portOf s p).sent ∧ bitOf (reg x (R.MAC_INT_STAT p)) 4 = true ∧
        vGet (portOf x p).tally 18 0 = min 18446744073709551615 (vGet (portOf s p).tally 18 0 + 1)) ∧
      (l.at_ ≤ y.time.st64 → y.time.st64 ≤ l.at_ + bits (reg s (R.MAC_LAUNCH_WIN p)) 15 0 → portFree y p 8 = true → portMay y p l.frame.content = true →
        classPaused y p l.frame.queue = false →
        Goes (.launchSlotFire t p) s fun x => (portOf x p).slots = [] ∧ (portOf x p).sent = some (l.frame, y.time.st64) ∧
          (y.time.st64 ≤ l.at_ + 2 → vGet (portOf x p).tally 16 0 = min 18446744073709551615 (vGet (portOf s p).tally 16 0 + 1)) ∧
          (l.at_ + 2 < y.time.st64 → vGet (portOf x p).tally 17 0 = min 18446744073709551615 (vGet (portOf s p).tally 17 0 + 1) ∧
            bitOf (reg x (R.MAC_INT_STAT p)) 6 = true))) ∧
    ((portOf s p).slots = [] → (portOf s p).tsqExtra = none → exec (.launchSlotFire t p) s = .next y) ∧
    (∀ e r, (portOf s p).tsq = e :: r → (∀ q, (portOf s p).tsqExtra = some q → y.time.now ≤ q.2) → Goes (.tsqPop t p) s fun x =>
      (portOf x p).tsq = r ++ ((portOf s p).tsqExtra.map Prod.fst).toList ∧ (portOf x p).tsqExtra = none ∧ reg x (R.MAC_TSQ_TS_LO p) = loWord e.ts ∧
      reg x (R.MAC_TSQ_TS_HI p) = hiWord e.ts ∧ x.regs.lastRead = some (R.MAC_TSQ_ID p,
        BitVec.ofNat 32 (2147483648 + bNat e.notSent * 1073741824 + bNat e.late * 536870912 + e.id % 65536)) ∧ Only [.regs, .time, .mac] s x) ∧
    (∀ e r q, (portOf s p).tsq = e :: r → (portOf s p).tsqExtra = some q → q.2 < y.time.now → Goes (.tsqPop t p) s fun x => (portOf x p).tsq = r ∧
      (portOf x p).tsqExtra = none ∧ vGet (portOf x p).tally 20 0 = min 18446744073709551615 (vGet (portOf s p).tally 20 0 + 1)) ∧
    ((portOf s p).tsq = [] → (portOf s p).tsqExtra = none → exec (.tsqPop t p) s = .next { y with regs := { s.regs with lastRead := some (R.MAC_TSQ_ID p, 0) } })

/-- Pauses (R443 to R446), counters (R456, R457), reception (R451 to R455) and the commands of a port (R431, R434, R461). -/
def Obligations.MacFlowControlAndReceive : Prop :=
  (∀ (t : Nat) (p : Fin 11) (s y z : State), RegsWf s.regs → y = advance t s → z = portAt p t s →
    (∀ (i : Fin 24) (v : Nat), v = vGet (portOf (pauseSettle p z) p).tally i 0 → (i.val ≠ 20 → i.val ≠ 22 → v = vGet (portOf s p).tally i 0) ∧
      Goes (.tallyRead t p i) s fun x => vGet (portOf x p).tally i 0 = 0 ∧ x.regs.lastRead = some (R.MAC_TALLYi_LO p i, loWord (v : Int)) ∧
        aFind x.regs.latched (R.MAC_TALLYi_HI p i) = some (hiWord (v : Int)) ∧
        ∀ j : Fin 24, j ≠ i → j.val ≠ 20 → j.val ≠ 22 → vGet (portOf x p).tally j 0 = vGet (portOf s p).tally j 0) ∧
    (tellerRuns s = true → Goes (.tallyAccumulate t) s fun x => Only [.regs, .time, .teller, .mac] s x ∧
      (domainUp s (portDomain p) = true → ∀ i : Fin 24, vGet (portOf x p).tally i 0 = 0 ∧ (i.val ≠ 20 → i.val ≠ 22 → vGet (portOf x p).acc i 0 =
        min 18446744073709551615 (vGet (portOf s p).acc i 0 + vGet (portOf s p).tally i 0))) ∧
      (domainUp s (portDomain p) = false → portOf x p = portOf s p)) ∧
    (tellerRuns s = false → exec (.tallyAccumulate t) s = .next y) ∧
    (∀ op en qs, (portOf s p).link = .up →
      (op = 0x0001 → bitOf (reg s (R.MAC_CFG p)) 8 = true → bitOf (reg s (R.MAC_CFG p)) 9 = false → (portOf s p).pause.ignore ≤ y.time.now →
        Goes (.pauseFrameReceived t p op en qs) s fun x => (portOf x p).pause = pauseSet (y.time.now * 100) (portOf s p).busyUntil (quantumTime s p)
            (qs.headD 0) (pauseExpire y.time.now (portOf s p).pause) ∧
          (∀ n : Fin 8, vGet (portOf x p).classes n Pause.none_ = { pauseSet (y.time.now * 100) (portOf s p).busyUntil (quantumTime s p) (qs.headD 0)
            (pauseExpire y.time.now (vGet (portOf s p).classes n Pause.none_)) with whole := true }) ∧
          vGet (portOf x p).tally 10 0 = min 18446744073709551615 (vGet (portOf s p).tally 10 0 + 1)) ∧
      (op = 0x0001 → bitOf (reg s (R.MAC_CFG p)) 8 = false ∨ bitOf (reg s (R.MAC_CFG p)) 9 = true → Goes (.pauseFrameReceived t p op en qs) s fun x =>
        (portOf x p).pause = pauseExpire y.time.now (portOf s p).pause ∧
        vGet (portOf x p).tally 10 0 = min 18446744073709551615 (vGet (portOf s p).tally 10 0 + 1)) ∧
      (op = 0x0101 → bitOf (reg s (R.MAC_CFG p)) 9 = true → Goes (.pauseFrameReceived t p op en qs) s fun x =>
        vGet (portOf x p).tally 11 0 = min 18446744073709551615 (vGet (portOf s p).tally 11 0 + 1) ∧ ∀ (n : Fin 8) (c : Pause),
          c = pauseExpire y.time.now (vGet (portOf s p).classes n Pause.none_) → vGet (portOf x p).classes n Pause.none_ =
            if nBit en n = true ∧ bitOf (reg s (R.MAC_CFG p)) (16 + n) = true ∧ c.ignore ≤ y.time.now
            then { pauseSet (y.time.now * 100) (portOf s p).busyUntil (quantumTime s p) (qs.getD n 0) c with whole := false } else c) ∧
      (op ≠ 0x0001 → op ≠ 0x0101 → Goes (.pauseFrameReceived t p op en qs) s fun x =>
        vGet (portOf x p).tally 12 0 = min 18446744073709551615 (vGet (portOf s p).tally 12 0 + 1))) ∧
    (∀ op en qs, (portOf s p).link ≠ .up → exec (.pauseFrameReceived t p op en qs) s = .next z) ∧
    (Goes (.pauseEnd t p) s fun x => Only [.regs, .time, .teller, .mac] s x ∧ (portOf x p).pause = pauseExpire y.time.now (portOf s p).pause ∧
      ∀ n : Fin 8, vGet (portOf x p).classes n Pause.none_ = pauseExpire y.time.now (vGet (portOf s p).classes n Pause.none_)) ∧
    (∃ x, exec (.pauseWatchdogTrip t p) s = .next x ∧
      (pauseTooLong (bits (reg s (R.MAC_WD p)) 15 0) y.time.now (portOf s p).pause = true → (portOf x p).pause.stop = 0 ∧
        (portOf x p).pause.ignore = y.time.now + max 1 (bits (reg s (R.MAC_WD p)) 31 16) * 1000000 ∧ bitOf (reg x (R.MAC_INT_STAT p)) 1 = true ∧
        ∃ o ∈ x.teller.ledgerOffers, o.1 = 0x8251) ∧
      ∀ n : Fin 8, pauseTooLong (bits (reg s (R.MAC_WD p)) 15 0) y.time.now (vGet (portOf s p).classes n Pause.none_) = true →
        (vGet (portOf x p).classes n Pause.none_).stop = 0 ∧ (∃ o ∈ x.teller.ledgerOffers, o.1 = 0x8251) ∧
        (if (vGet (portOf s p).classes n Pause.none_).whole then (portOf x p).pause.ignore else (vGet (portOf x p).classes n Pause.none_).ignore) =
          y.time.now + max 1 (bits (reg s (R.MAC_WD p)) 31 16) * 1000000) ∧
    (∃ x, exec (.pauseIgnoreEnd t p) s = .next x ∧ Only [.regs, .time, .teller, .mac] s x ∧ (portOf x p).pause.stop = (portOf s p).pause.stop ∧
      (portOf x p).pause.ignore = (if (portOf s p).pause.ignore ≤ y.time.now then 0 else (portOf s p).pause.ignore) ∧
      ((portOf s p).pause.ignore ≠ 0 → (portOf s p).pause.ignore ≤ y.time.now → ∃ o ∈ x.teller.ledgerOffers, o.1 = 0x8251)) ∧
    (∀ f : RxFrame, (portOf s p).link ≠ .up → exec (.frameReceived t p f) s = .next z) ∧
    (∀ f : RxFrame, (portOf s p).link = .up →
      (f.fcsOk = false → Goes (.frameReceived t p f) s fun x =>
        (∀ r : Fin 8, (vGet (portOf x p).rings r ⟨0, []⟩).hw = (vGet (portOf s p).rings r ⟨0, []⟩).hw) ∧
        vGet (portOf x p).tally 2 0 = min 18446744073709551615 (vGet (portOf s p).tally 2 0 + 1)) ∧
      (f.fcsOk = true → rxLen f < 64 ∨ bits (reg s (R.MAC_MTU p)) 13 0 < rxLen f → Goes (.frameReceived t p f) s fun x =>
        (portOf x p).rings = (portOf s p).rings ∧ vGet (portOf x p).tally 3 0 = min 18446744073709551615 (vGet (portOf s p).tally 3 0 + 1)) ∧
      (f.fcsOk = true → 64 ≤ rxLen f → rxLen f ≤ bits (reg s (R.MAC_MTU p)) 13 0 → rxType f ≠ 0x8808 → f.fifoFull = false →
        s.power.mode ≠ .diagnose →
        ((classifier s p).findIdx? (clsMatch f) = none → Goes (.frameReceived t p f) s fun x => (portOf x p).rings = (portOf s p).rings ∧
          vGet (portOf x p).tally 7 0 = min 18446744073709551615 (vGet (portOf s p).tally 7 0 + 1)) ∧
        (∀ i e (g : RxRing) parts, (classifier s p).findIdx? (clsMatch f) = some i → (classifier s p)[i]? = some e → e.ring < 8 →
          g = vGet (portOf s p).rings e.ring ⟨0, []⟩ → parts = chunks 8 f.bytes → bitOf (reg s (R.MAC_RRr_CFG p e.ring)) 16 = true →
          ((∀ j < parts.length, ringOwn s p e.ring ((g.hw + j) % ringSize s p e.ring) = true) → Goes (.frameReceived t p f) s fun x =>
            (vGet (portOf x p).rings e.ring ⟨0, []⟩).hw = (g.hw + parts.length) % ringSize s p e.ring ∧
            (∀ j < parts.length, ∃ d, aFind (vGet (portOf x p).rings e.ring ⟨0, []⟩).desc ((g.hw + j) % ringSize s p e.ring) = some d ∧
              d.data = parts.getD j [] ∧ d.length = d.data.length ∧ nBit d.flags 0 = false ∧ d.rule = i ∧ (j = 0 → d.ts = rxStart y p f)) ∧
            vGet (portOf x p).tally 0 0 = min 18446744073709551615 (vGet (portOf s p).tally 0 0 + 1) ∧
            vGet (portOf x p).tally 1 0 = min 18446744073709551615 (vGet (portOf s p).tally 1 0 + rxLen f) ∧ x.free = s.free + 1))))) ∧
  (∀ (c : Call) (s x : State), x = advance c.t s →
    (∀ p : MacPortSet, Ready 0x0470 c s → (macPortOk p = true → s.power.mode ≠ .show → s.power.mode ≠ .spare → ∃ z,
        Ends (.macPortSet c p) 0x0470 c ⟨.ok, 0, []⟩ (kick z) s ∧ reg z (R.MAC_MTU p.port) = BitVec.ofNat 32 p.mtu ∧
        bits (reg z (R.MAC_CFG p.port)) 3 0 = p.mode ∧ bits (reg z (R.MAC_CFG p.port)) 7 4 = p.fec ∧
        reg z (R.MAC_LAUNCH_WIN p.port) = BitVec.ofNat 32 (p.launchWin % 65536) ∧ bitOf (reg z (R.MAC_CTRL p.port)) 0 = nBit p.flags 0 ∧
        bitOf (reg z (R.MAC_CTRL p.port)) 1 = nBit p.flags 1) ∧
      (macPortOk p = false → Ends (.macPortSet c p) 0x0470 c ⟨.invalidParameter, 0, []⟩ (kick x) s)) ∧
    (∀ (q mode flags : Nat), Ready 0x0471 c s → (q ≤ 3 → mode ≤ 2 → ∃ y, Done (.macPairSet c q mode flags) 0x0471 c ⟨.ok, 0, []⟩ y s ∧ Only [.mac] x y ∧
        pairOf y q = ⟨mode, nBit flags 0, (pairOf s q).secondary && mode == 2⟩ ∧ y.mac.ports = s.mac.ports ∧
        ∀ r : Fin 4, r.val ≠ q → pairOf y r = pairOf s r) ∧
      (3 < q ∨ 2 < mode → Done (.macPairSet c q mode flags) 0x0471 c ⟨.invalidParameter, 0, []⟩ x s)) ∧
    (∀ p : MacWakeSet, Ready 0x0473 c s → (p.password.length = 6 → p.patterns.length = 4 → ∃ y, Done (.macWakeSet c p) 0x0473 c ⟨.ok, 0, []⟩ y s ∧
        Only [.regs] x y ∧ reg y (R.MAC_WAKE_CTRL 10) = BitVec.ofNat 32 (p.patternEn % 16 * 16 + p.flags % 8) ∧
        reg y (R.MAC_WAKE_PW_LO 10) = wordOf p.password ∧ ∀ (q : Fin 4) (w : Fin 32), reg y (R.MAC_WAKE_PATq 10 (32 * q.val + w.val)) =
          wordOf ((p.patterns.getD q ⟨[], []⟩).bytes.drop (4 * w.val))) ∧
      (p.password.length ≠ 6 ∨ p.patterns.length ≠ 4 → Done (.macWakeSet c p) 0x0473 c ⟨.invalidParameter, 0, []⟩ x s)))

/-! Show protocols (R463 to R491). -/

/-- Received E1.31 and DMX (R473, R474, R482), universe discovery (R471), RDM (R483 to R485), engine failures (R486, R487), and the commands that are applied
on receipt (R484, R486, R489). -/
def Obligations.ShowProtocols : Prop :=
  (∀ (t : Nat) (s y : State), RegsWf s.regs → aWf s.pkt.rx = true → y = advance t s →
    (∀ (p : Fin 8) (k : E131Packet), (portOf s p).link ≠ .up ∨ rxEntriesOf s p k.univ = [] → exec (.e131PacketReceived t p k) s = .next y) ∧
    (∀ (p : Fin 8) (k : E131Packet) (u : Nat), (portOf s p).link = .up → u ∈ rxEntriesOf s p k.univ → (rxEntriesOf s p k.univ).Nodup →
      (k.preview = true ∨ k.startCode ≠ 0 → Goes (.e131PacketReceived t p k) s fun x => x.pkt = s.pkt ∧
        regN x R.PKT_CNT_RXDROP = min 0xFFFFFFFF (regN s R.PKT_CNT_RXDROP + 1)) ∧
      (k.preview = false → k.startCode = 0 → k.terminated = false → (∀ q ∈ (rxOf s u).sources, q.dmx = true ∨ q.cid ≠ k.cid) →
        ((rxOf s u).sources.filter (fun q => !q.dmx)).length < 4 → Goes (.e131PacketReceived t p k) s fun x =>
          (rxOf x u).sources = (rxOf s u).sources ++ [⟨false, k.cid, k.priority, k.seq, y.time.now, k.slots⟩] ∧
          regN x R.PKT_CNT_RX = min 0xFFFFFFFF (regN s R.PKT_CNT_RX + 1) ∧
          ((rxOf s u).sources = [] → (rxOf x u).current = some (false, k.cid) ∧ bitOf (reg x R.PKT_INT_STAT) 1 = true) ∧
          ((rxOf s u).sources = [] → rxEntriesOf s p k.univ = [u] →
            x.teller.ledgerOffers.map Prod.fst = s.teller.ledgerOffers.map Prod.fst ++ [0x8260]) ∧
          ∀ v, v ∉ rxEntriesOf s p k.univ → rxOf x v = rxOf s v)) ∧
    (∀ u cid q, (rxOf s u).sources = [q] → q.dmx = false → q.cid = cid →
      (q.at_ + 2500000000 ≤ y.time.now → Goes (.e131SourceTimeout t u cid) s fun x => (rxOf x u).sources = [] ∧
        regN x R.PKT_CNT_RXLOSS = min 0xFFFFFFFF (regN s R.PKT_CNT_RXLOSS + 1) ∧
        x.teller.ledgerOffers.map Prod.fst = s.teller.ledgerOffers.map Prod.fst ++ [0x8260]) ∧
      (y.time.now < q.at_ + 2500000000 → exec (.e131SourceTimeout t u cid) s = .next y)) ∧
    (∀ (p : Fin 16) q, (rxOf s (dmxOf s.cfgB p).entry).sources = [q] → q.dmx = true → q.cid = p.val →
      (q.at_ + 2500000000 ≤ y.time.now → Goes (.dmxSourceTimeout t p) s fun x => (rxOf x (dmxOf s.cfgB p).entry).sources = [] ∧
        regN x R.PKT_CNT_RXLOSS = regN s R.PKT_CNT_RXLOSS) ∧
      (y.time.now < q.at_ + 2500000000 → exec (.dmxSourceTimeout t p) s = .next y)) ∧
    (∀ d, s.pkt.lastDiscovery = some d → y.time.now < d + 10000000000 → exec (.universeDiscovery t) s = .next y) ∧
    (∀ n f, s.pkt.lastDiscovery = none ∨ (∃ d, s.pkt.lastDiscovery = some d ∧ d + 10000000000 ≤ y.time.now) → flowsOn s.cfgB = [(n, f)] →
      (f.protocol = 1 → f.port < 8 → exec (.universeDiscovery t) s = .next (macSend f.port ⟨168, 0, none, none, none, .discovery 0 [f.ident],
          some (groupHead (universeIp 64214) 5568), discoveryPacket s.pkt.global 0 0 [f.ident]⟩
        { y with pkt := { s.pkt with lastDiscovery := some y.time.now } })) ∧
      (f.protocol ≠ 1 → exec (.universeDiscovery t) s = .next { y with pkt := { s.pkt with lastDiscovery := some y.time.now } })) ∧
    (∀ (p : Fin 16) code slots r, r = intake p ((code :: slots.take 512).map (BitVec.ofNat 8)) (bump (R.DMX_Pn_CNT_FRAMES p) y) →
      ((dmxOf s.cfgB p).mode ≠ 2 → ∀ n, exec (.dmxFrameReceived t p code slots n) s = .next y) ∧
      ((dmxOf s.cfgB p).mode = 2 → code ≠ 0 ∨ r.2 = false → exec (.dmxFrameReceived t p code slots 0) s = .next r.1) ∧
      ((dmxOf s.cfgB p).mode = 2 → code = 0 → r.2 = true → Goes (.dmxFrameReceived t p code slots 0) s fun x =>
        ⟨true, p, 100, 0, y.time.now, slots.take 512⟩ ∈ (rxOf x (dmxOf s.cfgB p).entry).sources ∧
        regN x (R.DMX_Pn_CNT_FRAMES p) = min 0xFFFFFFFF (regN s (R.DMX_Pn_CNT_FRAMES p) + 1))) ∧
    (∀ (p : Fin 16) q r, (dmxPort s p).requests = q :: r → (dmxPort s p).windowEnd ≤ y.time.now →
      (rdmDue y p = true → dmxFree y p = true → dmxOpportunity y p = true → nBit q.1.flags 0 = false → Goes (.rdmWindow t p) s fun x => (dmxPort x p).line = .rdmWait ∧
        (dmxPort x p).current = some q ∧ (dmxPort x p).requests = r ∧ (dmxPort x p).requestEnd = y.time.now + requestUs s p q.1 * 1000 ∧
        (dmxPort x p).windowEnd = y.time.now + windowFrames y p q.1 * dmxCadence y s.cfgB p * periodMin y ∧ (dmxPort x p).sinceWindow = 0 ∧
        regN x (R.DMX_Pn_CNT_RDM p) = min 0xFFFFFFFF (regN s (R.DMX_Pn_CNT_RDM p) + 1)) ∧
      (rdmDue y p = false ∨ dmxFree y p = false ∨ dmxOpportunity y p = false → exec (.rdmWindow t p) s = .next y)) ∧
    (∀ p : Fin 16, (dmxPort s p).requests = [] → exec (.rdmWindow t p) s = .next y) ∧
    (∀ (p : Fin 16) q, (dmxPort s p).current = some q → (dmxPort s p).requests = [] →
      (∀ kind took bytes, kind ≤ 3 → kind ≠ 2 → y.time.now - took ≤ (dmxPort s p).requestEnd + 2800000 → Goes (.rdmResponseReceived t p kind took bytes) s fun x =>
        (dmxPort x p).current = none ∧ (dmxPort x p).line = .idle ∧ (dmxPort x p).busyUntil = y.time.now ∧ bitOf (reg x R.DMX_INT_STAT) 0 = true ∧
        (kind = 3 → regN x (R.DMX_Pn_CNT_RXERR p) = min 0xFFFFFFFF (regN s (R.DMX_Pn_CNT_RXERR p) + 1))) ∧
      ((dmxPort s p).requestEnd + 2800000 ≤ y.time.now → Goes (.rdmResponseTimeout t p) s fun x => (dmxPort x p).current = none ∧
        (dmxPort x p).line = .idle ∧ bitOf (reg x R.DMX_INT_STAT) 1 = true ∧
        regN x (R.DMX_Pn_CNT_RDM_TO p) = min 0xFFFFFFFF (regN s (R.DMX_Pn_CNT_RDM_TO p) + 1))) ∧
    (∀ (p : Fin 16) kind took bytes, kind = 2 ∨ (dmxPort s p).requestEnd + 2800000 < y.time.now - took →
      exec (.rdmResponseReceived t p kind took bytes) s = .next y) ∧
    (∀ p : Fin 16, y.time.now < (dmxPort s p).requestEnd + 2800000 ∨ (dmxPort s p).current = none → exec (.rdmResponseTimeout t p) s = .next y) ∧
    (∀ (e : Fin 8) (cause : Nat), cause ≠ 2 →
      ((engineOf s e).failed = false → Goes (.pktEngineFailure t e cause) s fun x => (engineOf x e).failed = true ∧ bitOf (reg x R.PKT_INT_STAT) 3 = true ∧
        x.teller.ledgerOffers.map Prod.fst = s.teller.ledgerOffers.map Prod.fst ++ [0x8262] ∧ ∀ d : Fin 8, d ≠ e → engineOf x d = engineOf s d) ∧
      ((engineOf s e).failed = true → exec (.pktEngineFailure t e cause) s = .next y)) ∧
    (∀ e : Fin 8, Goes (.pktEngineFailure t e 2) s fun x => (engineOf x e).trapped = true ∧ x.pkt.trapK = some s.time.fcount ∧
      regN x (R.PKT_En_CNT_TRAP e) = min 0xFFFFFFFF (regN s (R.PKT_En_CNT_TRAP e) + 1) ∧
      (s.pkt.trapK = some (s.time.fcount - 1) → s.pkt.trapRun = 2 → (engineOf s e).userOff = false → ∀ d : Fin 8, (engineOf x d).userOff = true) ∧
      (s.pkt.trapK = none → x.pkt.trapRun = 1 ∧ ∀ d : Fin 8, (engineOf x d).userOff = (engineOf s d).userOff))) ∧
  (∀ (c : Call) (s x : State), x = advance c.t s →
    (∀ p : PktGlobalSet, Ready 0x0482 c s → Done (.pktGlobalSet c p) 0x0482 c ⟨.ok, 0, []⟩ { x with pkt := { s.pkt with global := p } } s) ∧
    (∀ p : RdmRequest, Ready 0x0484 c s →
      (p.port ≤ 15 → 24 ≤ p.bytes.length → p.bytes.length ≤ 255 → p.bytes.head? = some 0xCC → (dmxOf s.cfgB p.port).mode = 1 → nBit (dmxOf s.cfgB p.port).flags 0 = true → ∃ y,
        Ends (.rdmRequest c p) 0x0484 c ⟨.pending, 0, []⟩ y s ∧ (dmxPort y p.port).requests = (dmxPort s p.port).requests ++ [(p, some c)] ∧
        (s.time.running = false → (dmxPort y p.port).granted = (dmxPort s p.port).granted + 1)) ∧
      (15 < p.port ∨ p.bytes.length < 24 ∨ 255 < p.bytes.length ∨ p.bytes.head? ≠ some 0xCC → Done (.rdmRequest c p) 0x0484 c ⟨.invalidParameter, 0, []⟩ x s) ∧
      (p.port ≤ 15 → 24 ≤ p.bytes.length → p.bytes.length ≤ 255 → p.bytes.head? = some 0xCC → (dmxOf s.cfgB p.port).mode ≠ 1 ∨ nBit (dmxOf s.cfgB p.port).flags 0 = false →
        Done (.rdmRequest c p) 0x0484 c ⟨.notReady, 0, []⟩ x s)) ∧
    (∀ p : PktCodeLoad, Ready 0x0485 c s →
      (p.code ≤ 32768 → p.data ≤ 16384 → pktCheckOk p = true → codeSigned x p.trailer = true → ∃ y, Done (.pktCodeLoad c p) 0x0485 c ⟨.ok, 0, []⟩ y s ∧
        Only [.pkt] x y ∧ y.pkt.code = some p ∧ y.pkt.trapRun = 0 ∧ ∀ e : Fin 8, engineOf y e = ⟨(engineOf s e).failed, false, false⟩) ∧
      (32768 < p.code ∨ 16384 < p.data ∨ pktCheckOk p = false → Done (.pktCodeLoad c p) 0x0485 c ⟨.invalidParameter, 0, []⟩ x s)))

/-! The radio (R492 to R520). -/

/-- Slots (R500, R504, R544), received frames (R499, R507, R514), the relay's progress (R516) and the commands that are applied on receipt (R515 to R519). -/
def Obligations.RadioEventsAndCommands : Prop :=
  (∀ (t : Nat) (x : Fin 2) (s y : State), RegsWf s.regs → y = advance t s →
    (∀ busy r, xOn s x = false → (xcvrOf s x).armed = none → exec (.radioSlotStart t x busy r) s = .next y) ∧
    (∀ busy r n, n = slotNow y → xOn s x = true → s.time.running = true → (xcvrOf s x).armed = some (n * 10000000) →
      (∀ m, (xcvrOf s x).slot = some m → m < n) → (xcvrOf s x).await = [] →
      (leads s = true → n % 4 = 0 → n % 256 ≠ 0 → xPolling s x = false → Goes (.radioSlotStart t x busy r) s fun z =>
        (xcvrOf z x).slot = some n ∧ (xcvrOf z x).out = [] ∧ (xcvrOf z x).air = [] ∧ (xcvrOf z x).armed = none ∧ (xcvrOf z x).await = uplinkNodes y x n) ∧
      (leads s = false → n % 256 ≠ 0 → s.alm.launch.length < 4096 → Goes (.radioSlotStart t x busy r) s fun z => Only [.time, .alm, .rad] s z ∧
        (xcvrOf z x).slot = some n ∧ (xcvrOf z x).out = [] ∧ (xcvrOf z x).air = [] ∧ (xcvrOf z x).armed = none ∧
        ∃ e ∈ z.alm.launch, e.kind = .radioSlot x)) ∧
    (∀ f : RadioRx,
      (xOn s x = false → exec (.radioFrameReceived t x f) s = .next y) ∧
      (xOn s x = true → psduOk f.psdu = false → Goes (.radioFrameReceived t x f) s fun z => Only [.regs] y z ∧
        regN z (R.RAD_Xn_CNT_CRC x) = min 0xFFFFFFFF (regN s (R.RAD_Xn_CNT_CRC x) + 1)) ∧
      (xOn s x = true → psduOk f.psdu = true → field f.psdu 1 1 ≠ 1 ∨ field f.psdu 2 2 ≠ bits (xCfg s x) 15 0 →
        exec (.radioFrameReceived t x f) s = .next y) ∧
      (∀ r, xOn s x = true → psduOk f.psdu = true → field f.psdu 1 1 = 1 → field f.psdu 2 2 = bits (xCfg s x) 15 0 →
        r = intake 16 (radioPacket x f) (bump (R.RAD_Xn_CNT_RX x) y) →
        (r.2 = false → exec (.radioFrameReceived t x f) s = .next r.1) ∧
        (r.2 = true → field f.psdu 0 1 = 1 → f.psdu.length = 44 → leads s = true → exec (.radioFrameReceived t x f) s = .next r.1) ∧
        (r.2 = true → field f.psdu 0 1 = 8 → f.psdu.length = 24 → nodeXcvr s.cfgB (field f.psdu 4 2) = x →
          reportStale (field f.psdu 4 2) (field f.psdu 12 8) s = false → field f.psdu 4 2 = field f.psdu 8 2 →
          Goes (.radioFrameReceived t x f) s fun z => (nodeOf z (field f.psdu 8 2)).state = .online ∧ (nodeOf z (field f.psdu 8 2)).misses = 0 ∧
            (nodeOf z (field f.psdu 8 2)).epoch = field f.psdu 12 8 ∧ (nodeOf z (field f.psdu 8 2)).answerAt = f.st)))) ∧
  (∀ (t : Nat) (s : State) (q : Relay), s.rad.relay = some q →
    (q.active = true → q.progressAt + 60000000000 ≤ (advance t s).time.now → Goes (.radioFwProgressTimer t) s fun x =>
      x.rad = { s.rad with relay := some { q with progressAt := (advance t s).time.now } } ∧ (RegsWf s.regs → bitOf (reg x R.RAD_INT_STAT) 4 = true) ∧
      x.teller.ledgerOffers.map Prod.fst = s.teller.ledgerOffers.map Prod.fst ++ [0x8272]) ∧
    (q.active = false ∨ (advance t s).time.now < q.progressAt + 60000000000 → exec (.radioFwProgressTimer t) s = .next (advance t s))) ∧
  (∀ (t : Nat) (s : State), s.rad.relay = none → exec (.radioFwProgressTimer t) s = .next (advance t s)) ∧
  (∀ (c : Call) (s x : State), x = advance c.t s →
    (∀ p : RadioGlobalSet, Ready 0x0496 c s →
      (100 ≤ p.cueLead → p.cueLead ≤ 10000 → 1 ≤ p.cueRepeat → p.cueRepeat ≤ 15 → ∃ y, Done (.radioGlobalSet c p) 0x0496 c ⟨.ok, 0, []⟩ y s ∧
        Only [.regs] x y ∧ reg y R.RAD_CUE_LEAD = BitVec.ofNat 32 p.cueLead ∧ bits (reg y R.RAD_REPEAT) 3 0 = p.cueRepeat ∧
        reg y R.RAD_REFRESH = BitVec.ofNat 32 p.refresh) ∧
      (p.cueLead < 100 ∨ 10000 < p.cueLead ∨ p.cueRepeat < 1 ∨ 15 < p.cueRepeat → Done (.radioGlobalSet c p) 0x0496 c ⟨.invalidParameter, 0, []⟩ x s)) ∧
    (∀ p : RadioFwLoad, Ready 0x0494 c s →
      (p.total ≤ 262144 → p.offset % 96 = 0 → p.data.length ≤ 65536 → p.data ≠ [] → p.offset + p.data.length ≤ p.total →
        (crc32c p.data).toNat = p.crc → relayOn s = false → ∃ y, Done (.radioFwLoad c p) 0x0494 c ⟨.ok, 0, []⟩ y s ∧ Only [.rad] x y ∧
        y.rad.image = p.image ∧ y.rad.total = p.total ∧ aFind y.rad.chunks p.offset = some p.data ∧ y.rad.relay = s.rad.relay ∧
        (s.rad.image ≠ p.image → y.rad.chunks = [(p.offset, p.data)])) ∧
      (p.total ≤ 262144 → p.offset % 96 = 0 → p.data.length ≤ 65536 → p.data ≠ [] → p.offset + p.data.length ≤ p.total →
        (crc32c p.data).toNat ≠ p.crc → Done (.radioFwLoad c p) 0x0494 c ⟨.invalidParameter, 0, []⟩ x s)) ∧
    (∀ p : RadioFwStart, Ready 0x0495 c s →
      (p.action = 0 → ∃ y, Done (.radioFwStart c p) 0x0495 c ⟨.ok, 0, []⟩ y s ∧ Only [.rad] x y ∧
        y.rad.relay = s.rad.relay.map (fun q => { q with active := false })) ∧
      (p.action = 1 → 1 ≤ p.share → p.share ≤ 50 → 1 ≤ p.mask → p.mask ≤ 3 → p.group = 0xFFFF ∨ p.group ≤ 4095 → s.rad.image = p.image →
        imageWhole s = true → (crc32c (imageBytes s)).toNat = p.crc → ∃ y q, Done (.radioFwStart c p) 0x0495 c ⟨.ok, 0, []⟩ y s ∧ Only [.rad] x y ∧
        y.rad.relay = some q ∧ q.image = p.image ∧ q.crc = p.crc ∧ q.share = p.share ∧ q.group = p.group ∧ q.mask = p.mask ∧ q.active = true ∧ q.sent = 0 ∧
        q.progressAt = x.time.now ∧ (s.rad.relay = none → q.missing = []) ∧
        (∀ o, s.rad.relay = some o → o.image = p.image → o.crc = p.crc → q.missing = o.missing)) ∧
      (p.action = 1 → 1 ≤ p.share → p.share ≤ 50 → 1 ≤ p.mask → p.mask ≤ 3 → p.group = 0xFFFF ∨ p.group ≤ 4095 → s.rad.image ≠ p.image →
        Done (.radioFwStart c p) 0x0495 c ⟨.notFound, 0, []⟩ x s)))

/-! The pair (R521 to R549). -/

/-- Leases (R527 to R530), Escrow records (R533, R534), probes (R543) and the commands of the pair (R548). -/
def Obligations.PairEventsAndCommands : Prop :=
  (∀ (t : Nat) (g : Fin 16) (s y : State), RegsWf s.regs → y = advance t s →
    (pairOn s = true → member s g = true → (∀ r, (leaseOf s g).requestAt = some r → r + leaseNs s / 4 ≤ y.time.now) → holds s g = true ∨ eligible y g = true →
      Goes (.leaseRequestInterval t g) s fun x => (leaseOf x g).requestAt = some y.time.now ∧ x.esc.requestSeq = s.esc.requestSeq + 1 ∧
        (leaseOf x g).requests = (leaseOf s g).requests.filter (fun q => decide (y.time.now < q.2 + 1000000000)) ++ [(s.esc.requestSeq + 1, y.time.now)] ∧
        ∀ h : Fin 16, h ≠ g → leaseOf x h = leaseOf s h) ∧
    (pairOn s = false ∨ member s g = false ∨ (holds s g = false ∧ eligible y g = false) → exec (.leaseRequestInterval t g) s = .next y) ∧
    (holds s g = true → (leaseOf s g).till ≤ y.time.now → Goes (.leaseExpiry t g) s fun x => holds x g = false ∧ (leaseOf x g).requests = [] ∧
      (leaseOf x g).heldK = some s.time.fcount ∧ (∀ h : Fin 16, h ≠ g → leaseOf x h = leaseOf s h) ∧ bitOf (reg x R.ESC_INT_STAT) 0 = true ∧
      (∃ o ∈ x.teller.ledgerOffers, o.1 = 0x8280) ∧
      (s.power.mode = .show → (∀ h : Fin 16, h ≠ g → holds s h = false) → x.power.mode = .spare)) ∧
    (holds s g = false ∨ y.time.now < (leaseOf s g).till → exec (.leaseExpiry t g) s = .next y)) ∧
  (∀ (t : Nat) (f : LeaseFrame) (s y : State), RegsWf s.regs → y = advance t s →
    (pairOn s = false → exec (.leaseFrameReceived t f) s = .next y) ∧
    (pairOn s = true → f.tagOk = false → Goes (.leaseFrameReceived t f) s fun x => Only [.regs] y x ∧
      regN x R.ESC_CNT_AUTH = min 0xFFFFFFFF (regN s R.ESC_CNT_AUTH + 1)) ∧
    (pairOn s = true → f.tagOk = true → pairSlot s ≠ none → f.magicOk = true → f.version = 1 → f.pair = bits (reg s R.ESC_LEASE) 31 16 → f.device = 0xFF →
      f.group ≤ 15 →
      (∀ q, f.type = 2 → 20 ≤ f.duration → f.duration ≤ 1000 → (leaseOf s f.group).requests.find? (fun r => r.1 == f.answers) = some q →
        y.time.now < q.2 + f.duration * 999000 → Goes (.leaseFrameReceived t f) s fun x => holds x f.group = true ∧
          (leaseOf x f.group).till = max (leaseOf s f.group).till (q.2 + f.duration * 999000) ∧
          (holds s f.group = true → regN x (R.ESC_Gg_SEQ f.group) = max (regN s (R.ESC_Gg_SEQ f.group)) f.leaseSeq.toNat ∧ x.power = s.power) ∧
          (holds s f.group = false → (∃ o ∈ x.teller.ledgerOffers, o.1 = 0x8280) ∧ (s.power.mode = .spare → x.power.mode = .show))) ∧
      (f.type = 3 → holds s f.group = true → Goes (.leaseFrameReceived t f) s fun x => holds x f.group = false ∧
        regN x (R.ESC_Gg_SEQ f.group) = max (regN s (R.ESC_Gg_SEQ f.group)) f.leaseSeq.toNat ∧ (∃ o ∈ x.teller.ledgerOffers, o.1 = 0x8280)) ∧
      (f.type ≠ 2 → f.type ≠ 3 → Goes (.leaseFrameReceived t f) s fun x => Only [.regs] y x ∧
        regN x (R.ESC_Gg_SEQ f.group) = max (regN s (R.ESC_Gg_SEQ f.group)) f.leaseSeq.toNat)) ∧
    (pairOn s = true → f.tagOk = true → pairSlot s ≠ none → f.magicOk = false ∨ f.version ≠ 1 ∨ f.pair ≠ bits (reg s R.ESC_LEASE) 31 16 ∨ f.device ≠ 0xFF →
      exec (.leaseFrameReceived t f) s = .next y)) ∧
  (∀ (t : Nat) (s y : State), RegsWf s.regs → y = advance t s →
    (s.esc.writeDue = none → exec (.escrowRecordWrite t) s = .next y) ∧
    (∀ k, s.esc.writeDue = some k →
      (pairOn s = false ∨ heldMask s = 0 → exec (.escrowRecordWrite t) s = .next { y with esc := { s.esc with writeDue := none } }) ∧
      (pairOn s = true → heldMask s ≠ 0 → Goes (.escrowRecordWrite t) s fun x => x.esc.writeDue = none ∧ x.esc.txSeq = s.esc.txSeq + 1 ∧
        x.esc.out = some (s.esc.txSeq + 1, k, recordBytes (escRecord { y with esc := { s.esc with writeDue := none } } k)) ∧ x.esc.newEpochs = [] ∧
        regN x R.ESC_CNT_TX = min 0xFFFFFFFF (regN s R.ESC_CNT_TX + 1) ∧
        (poolRoom s 1 = true → ∃ d ∈ x.alm.descriptors, d.work = .escrowCopy ∧ d.frame = k ∧ d.priority = 1))) ∧
    (∀ (payload : List (BitVec 8)) (f : EscFragment), f = readFragment payload →
      (pairOn s = false → exec (.escrowFragmentReceived t payload) s = .next y) ∧
      (pairOn s = true → f.crcOk = false → Goes (.escrowFragmentReceived t payload) s fun x => x.esc = { s.esc with cause := 1 } ∧
        regN x R.ESC_CNT_FRAG_ERR = min 0xFFFFFFFF (regN s R.ESC_CNT_FRAG_ERR + 1)) ∧
      (pairOn s = true → f.crcOk = true → fromPartner s f = true → f.type = 1 → 2 ≤ f.count → f.count ≤ 512 → f.index < f.count → f.data.length ≤ 8192 →
        (∀ r, s.esc.record = some r → r.1 ≠ f.record) → st64 y ≤ frameAt s (nearFrame s f.frame + 3) → s.esc.build = none →
        Goes (.escrowFragmentReceived t payload) s fun x => x.esc.build = some ⟨f.record, nearFrame s f.frame, f.count, [(f.index, f.data)]⟩ ∧
          x.esc.record = s.esc.record ∧ x.esc.byGroup = s.esc.byGroup)) ∧
    (s.esc.build = none → s.esc.record = none → exec (.escrowRecordDeadline t) s = .next y) ∧
    (∀ b, s.esc.build = some b → s.esc.record = none → frameAt s (b.k + 3) ≤ st64 y → Goes (.escrowRecordDeadline t) s fun x => Only [.regs, .time, .esc] s x ∧
      x.esc.build = none ∧ x.esc.dropped = some b.seq ∧ x.esc.lost = s.esc.lost + 1 ∧ x.esc.run = 0 ∧
      regN x R.ESC_CNT_INCOMPLETE = min 0xFFFFFFFF (regN s R.ESC_CNT_INCOMPLETE + 1)) ∧
    (∀ r, s.esc.build = none → s.esc.record = some r → s.esc.stale = false → recordFresh y r.2 = false → Goes (.escrowRecordDeadline t) s fun x =>
      x.esc = { s.esc with stale := true, lost := 0 } ∧ bitOf (reg x R.ESC_INT_STAT) 1 = true ∧
      x.teller.ledgerOffers.map Prod.fst = s.teller.ledgerOffers.map Prod.fst ++ [0x8281]) ∧
    (pairOn s = false ∨ (∃ d, s.esc.probeAt = some d ∧ y.time.now < d + 250000000) → exec (.probeInterval t) s = .next y) ∧
    (pairOn s = true → (∀ d, s.esc.probeAt = some d → d + 250000000 ≤ y.time.now) → Goes (.probeInterval t) s fun x => x.esc.probeAt = some y.time.now ∧
      x.esc.probeSeq = s.esc.probeSeq + BitVec.ofNat 32 (probePorts s).length ∧
      ∀ p ∈ probePorts s, ∃ n, aFind x.esc.probes p = some (n, y.time.now)) ∧
    (∀ (p : Fin 8) (payload : List (BitVec 8)) (f : EscFragment), f = readFragment payload →
      (pairOn s = false → exec (.probeReceived t p payload) s = .next y) ∧
      (pairOn s = true → f.crcOk = false → Goes (.probeReceived t p payload) s fun x => Only [.regs] y x ∧
        regN x R.ESC_CNT_FRAG_ERR = min 0xFFFFFFFF (regN s R.ESC_CNT_FRAG_ERR + 1)) ∧
      (pairOn s = true → f.crcOk = true → fromPartner s f = true → f.type = 3 → Goes (.probeReceived t p payload) s fun x =>
        x.esc = { s.esc with replyAlive := (s.esc.replyAlive + 1) % 65536 } ∧
        (82 ≤ bits (reg s (R.MAC_MTU p)) 13 0 → (vGet (portOf s p).queues 6 []).length < 256 → (∀ g ∈ (portOf s p).waiting, g.queue ≠ 6) →
          vGet (portOf x p).queues 6 [] = vGet (portOf s p).queues 6 [] ++ [fromPort y p ⟨82, 6, none, none, none, .probe f.record true s.esc.replyAlive,
            some (partnerHead y), withCrc (fragmentOut y 4 p f.record s.esc.replyAlive 0 1 s.time.fcount [])⟩])) ∧
      (∀ n at_, pairOn s = true → f.crcOk = true → fromPartner s f = true → f.type = 4 → aFind s.esc.probes p = some (n, at_) → n = f.record →
        y.time.now < at_ + 10000000 → Goes (.probeReceived t p payload) s fun x => x.esc.probes = aDel s.esc.probes p ∧ x.esc.misses = aDel s.esc.misses p ∧
          (3 ≤ missesOf s p → ∃ o ∈ x.teller.ledgerOffers, o.1 = 0x8283)) ∧
      (pairOn s = true → f.crcOk = true → f.type ≠ 3 → f.type ≠ 4 → exec (.probeReceived t p payload) s = .next y)) ∧
    (∀ (p : Fin 8) n at_, aFind s.esc.probes p = some (n, at_) →
      (at_ + 10000000 ≤ y.time.now → Goes (.probeTimeout t p) s fun x => x.esc.probes = aDel s.esc.probes p ∧
        x.esc.misses = aPut s.esc.misses p (missesOf s p + 1) ∧ regN x R.ESC_CNT_PROBE_MISS = min 0xFFFFFFFF (regN s R.ESC_CNT_PROBE_MISS + 1) ∧
        (missesOf s p = 2 → bitOf (reg x R.ESC_INT_STAT) 3 = true ∧
          x.teller.ledgerOffers.map Prod.fst = s.teller.ledgerOffers.map Prod.fst ++ [0x8283]) ∧
        (missesOf s p ≠ 2 → x.teller = s.teller)) ∧
      (y.time.now < at_ + 10000000 → exec (.probeTimeout t p) s = .next y)) ∧
    (∀ p : Fin 8, aFind s.esc.probes p = none → exec (.probeTimeout t p) s = .next y)) ∧
  (∀ (c : Call) (s x : State), x = advance c.t s →
    (∀ p : PairSet, Ready 0x04A0 c s →
      (pairSetOk p = true → escPortFree s p = true → p.pair < 65536 → p.member < 65536 → ∃ y, Ends (.pairSet c p) 0x04A0 c ⟨.ok, 0, []⟩ (kick y) s ∧ Only [.regs, .esc] x y ∧
        pairOn y = nBit p.flags 0 ∧ leadGroup y = p.leadGroup ∧ escPort y = p.escPort ∧ leaseNs y = p.leaseMs * 1000000 ∧
        bits (reg y R.ESC_LEASE) 31 16 = p.pair ∧ (∀ g : Fin 16, member y g = nBit p.member g) ∧
        y.esc = { s.esc with partnerIp := p.partnerIp, arbIp := p.arbIp, escUdp := p.escUdp, arbUdp := p.arbUdp, partnerMac := p.partnerMac }) ∧
      (pairSetOk p = false ∨ escPortFree s p = false → Done (.pairSet c p) 0x04A0 c ⟨.invalidParameter, 0, []⟩ x s)) ∧
    (∀ mask : Nat, Ready 0x04A1 c s → ∃ y, Ends (.pairRelease c mask) 0x04A1 c ⟨.ok, 0, []⟩ y s ∧ (∀ g : Fin 16, holds y g = (holds s g && !nBit mask g)) ∧
      (s.power.mode = .show → heldMask s ≠ 0 → (∀ g : Fin 16, holds s g = true → nBit mask g = true) → y.power.mode = .spare)))

/-! Teller's transports and sessions (R550 to R567, R578). -/

/-- The PCIe session: doorbells, rings, link (R550 to R556). -/
def Obligations.PcieSession : Prop :=
  ∀ (t : Nat) (s y : State), RegsWf s.regs → y = advance t s →
    (domainUp s 13 = false → (∀ wr msgs, exec (.cmdDoorbell t wr msgs) s = .next y) ∧ (∀ n rd, exec (.ringReadPointerWrite t n rd) s = .next y) ∧
      exec (.sessionResetDoorbell t) s = .next y ∧ ∀ e, exec (.pcieLinkChange t e) s = .next y) ∧
    (domainUp s 13 = true →
      (∀ (wr : BitVec 16) msgs, (wr - s.teller.rings.cmdWr).toNat ≤ 32768 → Goes (.cmdDoorbell t wr msgs) s fun x => Only [.time, .teller] s x ∧
        (sess x 0).inbox = (sess s 0).inbox ++ msgs.map (fun m => (m, arrival y)) ∧ x.teller.rings = { s.teller.rings with cmdWr := wr }) ∧
      (∀ (wr : BitVec 16) msgs, 32768 < (wr - s.teller.rings.cmdWr).toNat → Goes (.cmdDoorbell t wr msgs) s fun x => x.teller.sessions = s.teller.sessions ∧
        x.teller.rings = { s.teller.rings with cmdWr := wr, ringErr := true, vectors := s.teller.rings.vectors ||| 4 } ∧
        bitOf (reg x R.HST_INT_STAT) 1 = true ∧ regN x R.HST_CNT_RINGERR = min 0xFFFFFFFF (regN s R.HST_CNT_RINGERR + 1) ∧
        regN x R.TLR_CNT_BAD = min 0xFFFFFFFF (regN s R.TLR_CNT_BAD + 1)) ∧
      (∀ rd : BitVec 17, Goes (.ringReadPointerWrite t true rd) s fun x => Only [.time, .teller] s x ∧
        x.teller.rings = { s.teller.rings with ntcRd := rd.setWidth 16 } ∧
        (sess x 0).notices = trimRing Notice.len (s.teller.rings.ntcWr - rd.setWidth 16).toNat (sess s 0).notices) ∧
      (∀ rd : BitVec 17, (sess s 0).rspWait = [] → Goes (.ringReadPointerWrite t false rd) s fun x => Only [.time, .teller] s x ∧
        x.teller.rings = { s.teller.rings with rspRd := rd } ∧
        (sess x 0).responses = trimRing Resp.len (s.teller.rings.rspWr - rd).toNat (sess s 0).responses) ∧
      ((sess s 0).isOpen = true → Goes (.sessionResetDoorbell t) s fun x => (sess x 0).isOpen = true ∧ (sess x 0).last = none ∧ (sess x 0).cache = [] ∧
        (sess x 0).inbox = [] ∧ (sess x 0).outstanding = none ∧ (sess x 0).responses = [] ∧ x.teller.rings.cmdWr = 0 ∧ x.teller.rings.cmdRd = 0 ∧
        x.teller.rings.rspWr = 0 ∧ x.teller.rings.ringErr = false ∧ bitOf (reg x R.HST_INT_STAT) 0 = true ∧
        regN x R.HST_CNT_RESET = min 0xFFFFFFFF (regN s R.HST_CNT_RESET + 1) ∧ (∃ o ∈ x.teller.ledgerOffers, o.1 = 0x8000)) ∧
      ((sess s 0).isOpen = false → exec (.sessionResetDoorbell t) s = .next { y with teller := { s.teller with
        rings := { s.teller.rings with resetting := true } } }) ∧
      (∀ w v, Goes (.pcieLinkChange t (.up w v)) s fun x => x.teller = { s.teller with linkUp := true, linkWidth := w, linkSpeed := v } ∧
        bitOf (reg x R.HST_INT_STAT) 2 = true) ∧
      (∀ e, (e = .down ∨ e = .perst) → (s.teller.linkUp = true → Goes (.pcieLinkChange t e) s fun x => x.teller = { s.teller with linkUp := false } ∧
        bitOf (reg x R.HST_INT_STAT) 2 = true ∧ regN x R.HST_CNT_LINKDOWN = min 0xFFFFFFFF (regN s R.HST_CNT_LINKDOWN + 1)) ∧
        (s.teller.linkUp = false → exec (.pcieLinkChange t e) s = .next y))) ∧
    (∀ n a r, (sess s 0).queue = (n, a) :: r → (sess s 0).lost = 0 →
      ((sess s 0).isOpen = true → msgUnits n.len ≤ ntcRoom s.teller.rings → Goes (.noticeQueueDrain t) s fun x => Only [.regs, .time, .teller] s x ∧
        (sess x 0).queue = r ∧ (sess x 0).notices = (sess s 0).notices ++ [{ n with seq := (sess s 0).ntcNext }] ∧
        (sess x 0).ntcNext = (sess s 0).ntcNext + 1 ∧ regN x R.TLR_CNT_NTC = min 0xFFFFFFFF (regN s R.TLR_CNT_NTC + 1)) ∧
      ((sess s 0).isOpen = false ∨ ntcRoom s.teller.rings < msgUnits n.len → exec (.noticeQueueDrain t) s = .next y)) ∧
    ((sess s 0).queue = [] → (sess s 0).lost = 0 → exec (.noticeQueueDrain t) s = .next y)

/-- Taking a command (R561 to R564, R574) on a session of either transport; `sessionReset` and `noticeMask` (R578). -/
def Obligations.CommandTaken : Prop :=
  (∀ (t : Nat) (i : Fin 5) (s y : State) (m : Msg) (at_ : Arrival) (rest : List (Msg × Arrival)), RegsWf s.regs → y = advance t s → tellerRuns s = true →
    (sess s i).isOpen = true → (sess s i).outstanding = none → (sess s i).inbox = (m, at_) :: rest →
    (i.val = 0 → s.teller.rings.ringErr = false ∧ s.teller.rings.cmdWr ≠ s.teller.rings.cmdRd ∧ msgIntact m = true ∧
      msgUnits m.length ≤ (s.teller.rings.cmdWr - s.teller.rings.cmdRd).toNat ∧ msgUnits (largestResponse m.code) ≤ rspRoom s.teller.rings) →
    (i.val ≠ 0 → (sess s i).lost = 0) →
    (∀ d, versionOk m.version = true → judgeSeq (sess s i).last m.seq = .new → codeDesc m.code = some d → d.cls = m.cls →
      (codeIsRadio m.code = true → s.part = .rk9200) → modeOk m.code s.power.mode = true → lengthFits d m.length = true →
      Goes (.commandTake t i) s fun x => Only [.regs, .time, .teller] s x ∧ (sess x i).last = some m.seq ∧ (sess x i).outstanding = some (m.seq, m.code) ∧
        (sess x i).arrived = at_ ∧ (sess x i).inbox = rest ∧ (sess x i).cache = (sess s i).cache ∧ (sess x i).responses = (sess s i).responses ∧
        (i.val = 0 → x.teller.checked = aPut s.teller.checked 0 (commandBytes m)) ∧
        regN x R.TLR_CNT_CMD = min 0xFFFFFFFF (regN s R.TLR_CNT_CMD + 1) ∧ ∀ j : Fin 5, j ≠ i → sess x j = sess s j) ∧
    (versionOk m.version = true → judgeSeq (sess s i).last m.seq = .gap → Goes (.commandTake t i) s fun x => (sess x i).last = (sess s i).last ∧
      (sess x i).outstanding = none ∧ (sess x i).inbox = rest ∧ (sess x i).cache = (sess s i).cache ∧
      regN x R.TLR_CNT_GAP = min 0xFFFFFFFF (regN s R.TLR_CNT_GAP + 1)) ∧
    (∀ r, versionOk m.version = true → judgeSeq (sess s i).last m.seq = .duplicate → (sess s i).cache.find? (fun q => q.seq == m.seq) = some r →
      Goes (.commandTake t i) s fun x => (sess x i).last = (sess s i).last ∧ (sess x i).outstanding = none ∧ (sess x i).inbox = rest ∧
        regN x R.TLR_CNT_DUP = min 0xFFFFFFFF (regN s R.TLR_CNT_DUP + 1))) ∧
  (∀ (t : Nat) (i : Fin 5) (s : State), tellerRuns s = false ∨ (sess s i).isOpen = false ∨ (sess s i).outstanding ≠ none ∨ (sess s i).inbox = [] →
    exec (.commandTake t i) s = .next (advance t s)) ∧
  (∀ (c : Call) (s x : State), x = advance c.t s →
    (∀ mask, Ready 0x0003 c s → ∃ y, Done (.noticeMask c mask) 0x0003 c ⟨.ok, 0, []⟩ y s ∧ Only [.teller] x y ∧ (sess y c.session).mask = mask ∧
      ∀ i : Fin 5, i ≠ c.session → sess y i = sess s i) ∧
    (RegsWf s.regs → tellerRuns s = true → (sess s c.session).isOpen = true → Goes (.sessionReset c) s fun y => (sess y c.session).isOpen = true ∧
      (sess y c.session).last = none ∧ (sess y c.session).cache = [] ∧ (sess y c.session).outstanding = none ∧
      (∃ o ∈ y.teller.ledgerOffers, o.1 = 0x8000) ∧ ∀ i : Fin 5, i ≠ c.session → (sess y i).last = (sess s i).last ∧ (sess y i).cache = (sess s i).cache) ∧
    (tellerRuns s = false ∨ (sess s c.session).isOpen = false → exec (.sessionReset c) s = .next x))

/-- UDP sessions (R557 to R559, R566). -/
def Obligations.UdpSessions : Prop :=
  ∀ (t : Nat) (s y : State), RegsWf s.regs → y = advance t s →
    (∀ d : Datagram, tellerRuns s = false ∨ d.headOk = false ∨ listens s d = false → exec (.udpDatagramReceived t d) s = .next y) ∧
    (∀ (d : Datagram) (i : Fin 5), tellerRuns s = true → d.headOk = true → listens s d = true →
      (d.type = 1 → s.vlt.error = false → mgmtKey s d.keyId = true → helloSlot s = some i → Goes (.udpDatagramReceived t d) s fun x =>
        sess x i = { Session.closed with ident := s.teller.nextIdent, key := d.keyId, port := d.dstPort, confirming := true } ∧
        x.teller.nextIdent = s.teller.nextIdent + 1 ∧ ∀ j : Fin 5, j ≠ i → sess x j = sess s j) ∧
      (d.type = 3 → udpSession s true d.session = some i → d.tagOk = true → d.counter = 0 → Goes (.udpDatagramReceived t d) s fun x =>
        (sess x i).isOpen = true ∧ (sess x i).confirming = false ∧ (sess x i).rxSeen = [0] ∧ (sess x i).lastValid = y.time.now ∧
        x.teller.ledgerOffers.map Prod.fst = s.teller.ledgerOffers.map Prod.fst ++ [0x8000] ∧ ∀ j : Fin 5, j ≠ i → sess x j = sess s j) ∧
      (udpSession s false d.session = some i → d.tagOk = true → counterOk (sess s i) d.counter = true → d.counter < 4294967296 →
        (d.type = 4 → d.count = 1 → d.index = 0 → (sess s i).assembling = [] → msgIntact d.msg = true → Goes (.udpDatagramReceived t d) s fun x =>
          Only [.time, .teller] s x ∧ (sess x i).inbox = (sess s i).inbox ++ [(d.msg, arrival y)] ∧
          x.teller.checked = aPut s.teller.checked (takeChannel i) (commandBytes d.msg) ∧ (sess x i).lastValid = y.time.now ∧
          (sess x i).rxHigh = max (sess s i).rxHigh d.counter ∧ ∀ j : Fin 5, j ≠ i → sess x j = sess s j) ∧
        (d.type = 5 → Goes (.udpDatagramReceived t d) s fun x => sess x i = Session.closed ∧
          (s.lgr.freeze = none → ∀ j : Fin 5, j ≠ i → sess x j = sess s j))) ∧
      (d.type = 4 ∨ d.type = 5 → (udpSession s false d.session = none ∨
          udpSession s false d.session = some i ∧ (d.tagOk = false ∨ counterOk (sess s i) d.counter = false)) →
        Goes (.udpDatagramReceived t d) s fun x => Only [.regs] y x ∧ bitOf (reg x R.TLR_INT_STAT) 1 = true ∧
          regN x R.TLR_CNT_AUTH = min 0xFFFFFFFF (regN s R.TLR_CNT_AUTH + 1))) ∧
    (∀ i : Fin 5, i.val ≠ 0 → (sess s i).isOpen = true →
      ((sess s i).lastValid + 30000000000 ≤ y.time.now → Goes (.sessionIdleTimeout t i) s fun x => sess x i = Session.closed ∧
        (s.lgr.freeze = none → ∀ j : Fin 5, j ≠ i → sess x j = sess s j)) ∧
      (y.time.now < (sess s i).lastValid + 30000000000 → udpSpent (sess s i) = false → exec (.sessionIdleTimeout t i) s = .next y)) ∧
    (Goes (.fragmentTimeout t) s fun x => Only [.time, .teller] s x ∧ ∀ i : Fin 5, sess x i = { sess s i with
      assembling := (sess s i).assembling.filter (fun a => decide (y.time.now < a.since + 50000000)) }) ∧
    (∀ (i : Fin 5) n a, i.val ≠ 0 → (sess s i).isOpen = true → (sess s i).queue = [(n, a)] → (sess s i).lost = 0 → a + 100000000 ≤ y.time.now →
      (sess s i).txNext + ceilDiv (32 + n.len) 1400 ≤ 4294967296 → Goes (.noticeResend t) s fun x => (sess x i).queue = [(n, y.time.now)] ∧
        (sess x i).notices = (sess s i).notices ++ [n] ∧ (sess x i).txNext = (sess s i).txNext + ceilDiv (32 + n.len) 1400) ∧
    ((∀ i : Fin 5, i.val ≠ 0 → (sess s i).isOpen = false) → exec (.noticeResend t) s = .next y)

/-! Commits (R568 to R573) and the start of show time (R81, R697). -/

/-- COMMIT_OPEN, COMMIT, COMMIT_ABORT and STAGE_DROP, where `placeCommit` gives the tag by R571; SHOW_TIME_START, after which the configuration on
record is in force in both parts. -/
def Obligations.CommitsAndShowStart : Prop :=
  (∀ (c : Call) (s x : State), x = advance c.t s →
    (Ready 0x0010 c s →
      (s.teller.openCommit = none → Done (.commitOpen c) 0x0010 c ⟨.ok, 0, []⟩ { x with teller := { s.teller with openCommit := some ⟨c.session, [], 0⟩ } } s) ∧
      (s.teller.openCommit ≠ none → Done (.commitOpen c) 0x0010 c ⟨.busy, 0, []⟩ x s)) ∧
    (Ready 0x0012 c s →
      (∀ o, s.teller.openCommit = some o → o.owner = c.session → Done (.commitAbort c) 0x0012 c ⟨.ok, 0, []⟩
        { x with teller := { s.teller with openCommit := none } } s) ∧
      (s.teller.openCommit = none → Done (.commitAbort c) 0x0012 c ⟨.noCommit, 0, []⟩ x s)) ∧
    (∀ n, Ready 0x0013 c s →
      ((∃ g ∈ s.teller.stages, g.id = n) → Done (.stageDrop c n) 0x0013 c ⟨.ok, 0, []⟩
        { x with teller := { s.teller with stages := s.teller.stages.filter (fun g => g.id != n) } } s) ∧
      ((∀ g ∈ s.teller.stages, g.id ≠ n) → Done (.stageDrop c n) 0x0013 c ⟨.notFound, 0, []⟩ x s)) ∧
    (∀ p : CommitSet, Ready 0x0011 c s → s.teller.openCommit = none → Done (.commit c p) 0x0011 c ⟨.noCommit, 0, []⟩ x s) ∧
    (∀ (p : CommitSet) (o : OpenCommit) (z : State), Ready 0x0011 c s → s.teller.openCommit = some o → o.owner = c.session →
      z = { x with teller := { s.teller with openCommit := none } } →
      (∀ b d, nBit p.flags 0 = false → validate z (commitDraft s o.msgs) o.msgs = some (b, d) → ∃ y,
        Done (.commit c p) 0x0011 c ⟨.rejected, 32, ([0, 1, (b : Int), 0, (p.stageId : Int)] : List Int) ++ d⟩ y s ∧ Only [.regs] z y ∧
        regN y R.TLR_CNT_REJECT = min 0xFFFFFFFF (regN s R.TLR_CNT_REJECT + 1) ∧ bitOf (reg y R.TLR_INT_STAT) 2 = true) ∧
      (nBit p.flags 0 = true → stageHeld s p.stageId = false → s.teller.stages.length < 16 → validate z (commitDraft s o.msgs) o.msgs = none →
        Done (.commit c p) 0x0011 c ⟨.ok, 32, [0, 2, 0, 0, p.stageId]⟩ { x with teller := { s.teller with
          openCommit := none, stages := s.teller.stages ++ [⟨p.stageId, o.msgs, nBit p.flags 1, nBit p.flags 2⟩] } } s) ∧
      (∀ tag late behind, nBit p.flags 0 = false → s.time.running = true → validate z (commitDraft s o.msgs) o.msgs = none →
        placeCommit z (commitDraft s o.msgs) p.flags p.k (reachedSt c z) = (tag, late, behind) → late = false ∨ nBit p.flags 1 = false →
        s.teller.accepted.length < 8 → s.power.change = none → ∃ y cfg, Ends (.commit c p) 0x0011 c ⟨.pending, 32, [tag, 0, 0, (bNat late + 2 * bNat behind : Nat), p.stageId]⟩ y s ∧
          y.record = cfg ∧ y.cfgA = s.cfgA ∧ y.cfgB = s.cfgB ∧ y.teller.openCommit = none ∧ y.teller.lastTag = tag ∧ y.teller.tagFloor = some tag ∧
          y.teller.accepted = s.teller.accepted ++ [⟨tag, o.msgs, cfg, false, bNat late + 2 * bNat behind, p.stageId, some c⟩]) ∧
      (∀ now, nBit p.flags 0 = false → s.time.running = false → validate z (commitDraft s o.msgs) o.msgs = none → s.teller.accepted.length < 8 →
        now = commitTake 0 0 p.stageId o.msgs none z → domainsReady now = true →
        Ends (.commit c p) 0x0011 c ⟨.ok, 32, [0, 3, 0, 0, p.stageId]⟩ (settleEarly now) s))) ∧
  (∀ (t : Nat) (tests : List (Nat × Nat)) (s y : State), y = advance t s →
    (s.time.running = false → modeRuns s.power.mode = true → startReady y = true → domainsReady y = true → s.power.change = none → sagBlocks y = false →
      s.teller.accepted = [] → s.power.thermal.level ≠ 2 → Goes (.showTimeStart t tests) s fun x => x.time.running = true ∧ x.time.startDue = none ∧
        x.record = s.record ∧ x.cfgA = s.record ∧ x.cfgB = s.record ∧ x.power = s.power) ∧
    (s.time.running = true ∨ modeRuns s.power.mode = false ∨ startReady y = false ∨ domainsReady y = false ∨ s.power.change ≠ none ∨ sagBlocks y = true →
      exec (.showTimeStart t tests) s = .next y))

/-! Power (R582 to R604, R672 to R676). -/

/-- The commands of class 16 (R583, R584, R588, R589, R600, R602). -/
def Obligations.PowerCommands : Prop :=
  ∀ (c : Call) (s x : State), x = advance c.t s →
    (∀ (mode wake : Nat) (m : Mode), Ready 0x0500 c s → modeRefused mode x = none → modeOf mode = some m → sleeps m = false → sagBlocks x = false →
      (modeRuns s.power.mode = true → modeRuns m = true → s.time.running = true → Goes (.powerModeSet c mode wake) s fun y =>
        Only [.regs, .time, .teller, .power] s y ∧ y.power = { s.power with change := some ⟨m, m, 0, some c, true, false⟩ } ∧
        (sess y c.session).cache.head?.map saying = some (c.seq, 0x0500, .pending, 0, [])) ∧
      (s.time.running = false → pairOn s = false → Goes (.powerModeSet c mode wake) s fun y =>
        (y.power.change = none ∧ y.power.mode = m) ∨ ∃ q, y.power.change = some q ∧ q.begun = true ∧ q.to_ = m ∧ q.owed = some c ∧
          y.power.mode = s.power.mode)) ∧
    (∀ (mode wake : Nat) (e : Status), Ready 0x0500 c s → modeRefused mode x = some e → Done (.powerModeSet c mode wake) 0x0500 c ⟨e, 0, []⟩ x s) ∧
    (∀ l : List Nat, Ready 0x0501 c s → ∃ y, Ends (.powerLatencySet c l) 0x0501 c ⟨.ok, 0, []⟩ (kick y) s ∧ Only [.regs] x y ∧
      ∀ d, 3 ≤ d → d ≤ 13 → reg y (R.PWR_Dd_LAT d) = BitVec.ofNat 32 (l.getD d 0)) ∧
    (∀ d action : Nat, Ready 0x0502 c s →
      (3 ≤ d → d ≤ 13 → action ≤ 1 → (d = 12 → s.part = .rk9200) → ∃ y, Ends (.powerDomainSet c d action) 0x0502 c ⟨.ok, 0, []⟩ (kick y) s ∧
        Only [.power] x y ∧ (domOf y d).held = (action == 1) ∧ (domOf y d).state = (domOf s d).state ∧ ∀ e : Domain, e.val ≠ d → domOf y e = domOf s e) ∧
      (d < 3 ∨ 13 < d ∨ 1 < action → Done (.powerDomainSet c d action) 0x0502 c ⟨.invalidParameter, 0, []⟩ x s)) ∧
    (∀ p : PowerSagSet, Ready 0x0503 c s →
      (80 ≤ p.w1Pct → p.w1Pct ≤ 95 → p.holdMs ≤ 1000 → ∃ y, Done (.powerSagSet c p) 0x0503 c ⟨.ok, 0, []⟩ y s ∧
        Wrote [(R.PWR_SAG, BitVec.ofNat 32 (p.holdMs * 65536 + p.w1Pct))] x y) ∧
      (p.w1Pct < 80 ∨ 95 < p.w1Pct ∨ 1000 < p.holdMs → Done (.powerSagSet c p) 0x0503 c ⟨.invalidParameter, 0, []⟩ x s)) ∧
    (∀ p : PowerThermalSet, Ready 0x0504 c s →
      (limitsOk p.showWarn p.showShed = true → limitsOk p.soakWarn p.soakShed = true → ∃ y,
        Ends (.powerThermalSet c p) 0x0504 c ⟨.ok, 0, []⟩ (thermalJudge y) s ∧
        Wrote [(R.PVT_TLIM_SHOW, limitWord p.showWarn p.showShed), (R.PVT_TLIM_SOAK, limitWord p.soakWarn p.soakShed)] x y) ∧
      (limitsOk p.showWarn p.showShed = false ∨ limitsOk p.soakWarn p.soakShed = false →
        Done (.powerThermalSet c p) 0x0504 c ⟨.invalidParameter, 0, []⟩ x s)) ∧
    (∀ enables alarm : Nat, Ready 0x0505 c s → ∃ y, Done (.powerWakeSet c enables alarm) 0x0505 c ⟨.ok, 0, []⟩ y s ∧ Only [.regs] x y ∧
      bits (reg y R.PWR_WAKE) 2 0 = enables % 8 ∧ reg y R.PWR_ALARM_LO = BitVec.ofNat 32 alarm) ∧
    (∀ target next : Nat, Ready 0x0508 c s →
      (target = 0 → next ≤ 1 → Goes (.powerReset c target next) s fun y => y.power.mode = .boot ∧ y.power.cause = 4 ∧ y.time.running = false ∧
        y.pending = s.pending ∧ ∀ i : Fin 5, (sess y i).isOpen = false) ∧
      (target = 1 → next ≤ 1 → Goes (.powerReset c target next) s fun y => y.power.mode = s.power.mode ∧ y.power.cause = 6 ∧
        y.power.restarting = true ∧ y.time.running = s.time.running ∧ ∀ i : Fin 5, (sess y i).isOpen = false) ∧
      (1 < target ∨ 1 < next → Done (.powerReset c target next) 0x0508 c ⟨.invalidParameter, 0, []⟩ x s))

/-- Steps of domains and modes (R583, R587, R589), supply sag (R591 to R594), temperature and voltage (R598 to R601), the loss of VBAT (R82). -/
def Obligations.PowerEvents : Prop :=
  ∀ (t : Nat) (s y : State), RegsWf s.regs → y = advance t s →
    (∀ d : Domain, (domState s d = .goingUp ∨ domState s d = .goingDown → Goes (.domainStepDone t d) s fun x =>
        (domState s d = .goingUp → domState x d ≠ .goingUp ∧ domState x d ≠ .off) ∧
        (domState s d = .goingDown → domState x d = .off ∨ domState x d = .goingUp) ∧
        (∃ o ∈ x.teller.ledgerOffers, o.1 = 0x8301)) ∧
      (domState s d ≠ .goingUp → domState s d ≠ .goingDown → s.teller.accepted = [] → exec (.domainStepDone t d) s = .next y)) ∧
    (∀ c, s.power.change = some c →
      (c.begun = true → sagBlocks s = false → modeRuns s.power.mode = true → modeRuns c.to_ = true → Goes (.modeChangeDone t) s fun x =>
        x.power.change = none ∧ x.power.mode = modeReached s c.to_ ∧ (∃ o ∈ x.teller.ledgerOffers, o.1 = 0x8300)) ∧
      (c.begun = false ∨ sagBlocks s = true → exec (.modeChangeDone t) s = .next y)) ∧
    (s.power.change = none → exec (.modeChangeDone t) s = .next y) ∧
    (∀ idle, (domState s 3 = .on → 2000 ≤ idle → 8000 ≤ dramTol y → Goes (.dramIdleEntry t idle) s fun x => x.power = { s.power with dram := 2 } ∧
        regN x R.PWR_CNT_SR = (if s.power.dram = 2 then regN s R.PWR_CNT_SR else min 0xFFFFFFFF (regN s R.PWR_CNT_SR + 1))) ∧
      (domState s 3 = .on → 200 ≤ idle → idle < 2000 ∨ dramTol y < 8000 → 100 ≤ dramTol y → s.power.dram = 0 →
        exec (.dramIdleEntry t idle) s = .next { y with power := { s.power with dram := 1 } }) ∧
      (domState s 3 ≠ .on ∨ idle < 200 → exec (.dramIdleEntry t idle) s = .next y)) ∧
    (domainUp s 1 = true → ∀ mv, (10 * w1Pct s ≤ mv → exec (.sagW1 t mv) s = .next { y with power := { s.power with vsense := mv } }) ∧
      (mv < 10 * w1Pct s → sagBlocks s = true → exec (.sagW1 t mv) s = .next { y with power := { s.power with
        vsense := mv, w1 := true, w1Low := min s.power.w1Low mv, recoveredAt := none } }) ∧
      (mv < 10 * w1Pct s → sagBlocks s = false → s.time.running = true → Goes (.sagW1 t mv) s fun x => x.power.w1 = true ∧ x.power.w1At = y.time.now ∧
        x.power.hold = true ∧ x.alm.armed = [] ∧ (∀ g : Fin 16, holds x g = false) ∧ bitOf (reg x R.PWR_INT_STAT) 2 = true ∧
        regN x R.PWR_CNT_W1 = min 0xFFFFFFFF (regN s R.PWR_CNT_W1 + 1)) ∧
      (mv ≤ 10 * w1Pct s + 20 → exec (.sagRecovered t mv) s = .next { y with power := { s.power with
        vsense := mv, w1 := decide (mv < 10 * w1Pct s), w1Low := min s.power.w1Low mv, recoveredAt := none } }) ∧
      (10 * w1Pct s + 20 < mv → s.power.hold = false ∨ s.power.sagFlush = true → exec (.sagRecovered t mv) s = .next { y with power := { s.power with
        vsense := mv, w1 := false, recoveredAt := some y.time.now } }) ∧
      (10 * w1Pct s + 20 < mv → s.power.hold = true → s.power.sagFlush = false → Goes (.sagRecovered t mv) s fun x => x.power.hold = false ∧
        x.power.w1 = false ∧ bitOf (reg x R.PWR_INT_STAT) 3 = true)) ∧
    (s.power.hold = true → s.power.sagFlush = false → s.power.w1At + holdNs s ≤ y.time.now → modeRuns s.power.mode = true →
      Goes (.sagHoldExpiry t) s fun x => x.power.hold = false ∧ x.time.running = false ∧ bitOf (reg x R.PWR_INT_STAT) 4 = true ∧
        ((x.power.change = none ∧ x.power.mode = .standby) ∨ ∃ c, x.power.change = some c ∧ c.to_ = .standby ∧ c.begun = true)) ∧
    (s.power.hold = false ∨ s.power.sagFlush = true ∨ y.time.now < s.power.w1At + holdNs s → exec (.sagHoldExpiry t) s = .next y) ∧
    (∀ z, s.power.thermal.level = 2 → s.power.thermal.lastShed + 1000000000 ≤ y.time.now → s.time.running = true → s.power.mode ≠ .soak →
      nextShed s.cfgB (s.power.thermal.shedZones ++ aKeys s.fxm.shed ++ s.fxm.mapShed) = some z → exec (.thermalShedStep t) s = .next { y with power :=
        { s.power with thermal := { s.power.thermal with shedZones := s.power.thermal.shedZones ++ [z], lastShed := y.time.now } } }) ∧
    (s.power.thermal.level = 0 → s.power.thermal.shedZones ≠ [] → s.power.thermal.lastCool + 10000000000 ≤ y.time.now →
      exec (.thermalShedStep t) s = .next { y with power := { s.power with thermal := { s.power.thermal with
        shedZones := s.power.thermal.shedZones.dropLast, lastCool := y.time.now } } }) ∧
    (s.power.thermal.level = 1 → exec (.thermalShedStep t) s = .next y) ∧
    (∀ temps counts, domainUp s 1 = true → (∀ n < 24, temps.getD n 0 < 1760) → Goes (.temperatureSample t temps counts) s fun x =>
      (∀ n : Fin 24, vGet x.power.thermal.temps n none = some (temps.getD n 0 - calValue s 6 n)) ∧
      ∀ n : Fin 32, vGet x.power.process n 0 = counts.getD n 0 % 65536) ∧
    (∀ temps counts n, domainUp s 1 = true → n < 24 → 1760 ≤ temps.getD n 0 → Goes (.temperatureSample t temps counts) s fun x => x.power.mode = .boot ∧
      x.power.cause = 3 ∧ x.power.thermal.tripWait = true) ∧
    (∀ volts, domainUp s 1 = true → Goes (.voltageSample t volts) s fun x => ∀ d : Fin 14,
      vGet x.power.volts d ⟨0, false, false⟩ = (let mv := ((volts.getD d 0 : Int) - calValue s 7 d).toNat
        ⟨mv, supplied s d && decide (mv * 100 < nominalMv s d * 95), supplied s d && decide (nominalMv s d * 105 < mv * 100)⟩)) ∧
    (s.power.avsOk = true → s.power.pwrGood = true → s.power.mode ≠ .soak → exec (.avsRetune t) s = .next { y with power := { s.power with
      coreMv := if s.power.coreMv < s.power.setPoint then min s.power.setPoint (s.power.coreMv + 10)
        else max s.power.setPoint (s.power.coreMv - 10) } }) ∧
    (s.power.avsOk = false ∨ s.power.pwrGood = false → exec (.avsRetune t) s = .next y) ∧
    (exec (.vbatLoss t) s = .next { y with
      time := { y.time with rtc := 0, rtcNs := 0, hwm := 0, hwmValid := false }, power := { s.power with
        wakeLatch := false, lastWake := 0, attempts := if 3 ≤ s.power.attempts then 0 else s.power.attempts } })

/-- Resets (R31, R595 to R597, R601), wakes (R586, R459), power-up (R675, R676) and the end of BOOT (R583, R674). -/
def Obligations.ResetsAndWakes : Prop :=
  ∀ (t : Nat) (s y : State), RegsWf s.regs → y = advance t s →
    (∀ rail : Domain, s.power.aonEn = true → Goes (.w2Reset t rail) s fun x => x.power.mode = .boot ∧ x.power.cause = 2 ∧ x.power.w2Rail = rail ∧
      x.time.running = false ∧ x.pending = s.pending ∧ ∀ i : Fin 5, (sess x i).isOpen = false) ∧
    (s.power.aonEn = true → Goes (.resetPin t) s fun x => x.power.mode = .boot ∧ x.power.cause = 1 ∧ x.time.running = false ∧
      x.pending = s.pending ∧ ∀ i : Fin 5, (sess x i).isOpen = false) ∧
    (Goes (.powerOnReset t) s fun x => x.power.mode = .boot ∧ x.power.cause = 0 ∧ x.power.aonEn = true ∧ x.time.running = false ∧
      x.pending = s.pending ∧ ∀ i : Fin 5, (sess x i).isOpen = false) ∧
    (s.power.aonEn = false → (∀ rail, exec (.w2Reset t rail) s = .next y) ∧ exec (.resetPin t) s = .next y ∧
      ∀ sensor temp, exec (.thermalTrip t sensor temp) s = .next y) ∧
    (∀ sensor temp, s.power.aonEn = true → 1760 ≤ temp → Goes (.thermalTrip t sensor temp) s fun x => x.power.mode = .boot ∧ x.power.cause = 3 ∧
      x.power.thermal.tripWait = true ∧ vGet x.power.thermal.temps sensor none = some temp) ∧
    (∀ sensor temp, temp < 1760 → exec (.thermalTrip t sensor temp) s = .next y) ∧
    (s.power.mode = .boot → domState s 2 = .on → Goes (.watchdogExpiry t) s fun x => x.power = { s.power with cause := 6 } ∧
      regN x R.PWR_CNT_PD2 = min 0xFFFFFFFF (regN s R.PWR_CNT_PD2 + 1)) ∧
    (tellerRuns s = true → s.power.dogAt + bits (reg s R.PWR_WDOG) 15 0 * 1000000 ≤ y.time.now → Goes (.watchdogExpiry t) s fun x =>
      x.power.mode = s.power.mode ∧ x.power.cause = 6 ∧ x.power.restarting = true ∧ x.time = y.time ∧ ∀ i : Fin 5, (sess x i).isOpen = false) ∧
    (tellerRuns s = true → y.time.now < s.power.dogAt + bits (reg s R.PWR_WDOG) 15 0 * 1000000 → exec (.watchdogExpiry t) s = .next y) ∧
    (∀ pc, domState s 2 = .on → s.power.mode ≠ .boot → Goes (.lockstepMismatch t pc) s fun x => x.power.mode = s.power.mode ∧ x.power.cause = 7 ∧
      x.power.restarting = true ∧ x.time = y.time ∧ (∃ o ∈ x.teller.ledgerOffers, o.1 = 0x0005 ∧ o.2.2 = [(pc : Int)]) ∧
      regN x R.PWR_CNT_PD2 = min 0xFFFFFFFF (regN s R.PWR_CNT_PD2 + 1)) ∧
    (∀ pc, domState s 2 = .on → s.power.mode = .boot → Goes (.lockstepMismatch t pc) s fun x => x.power = { s.power with cause := 7 } ∧
      (∃ o ∈ x.teller.ledgerOffers, o.1 = 0x0005 ∧ o.2.2 = [(pc : Int)]) ∧
      regN x R.PWR_CNT_PD2 = min 0xFFFFFFFF (regN s R.PWR_CNT_PD2 + 1)) ∧
    (∀ pc, domState s 2 ≠ .on → exec (.lockstepMismatch t pc) s = .next y) ∧
    (∀ p, s.power.restarting = true → (bootRom p y).vlt.recovery = false → (bootRom p y).vlt.fallback = none → Goes (.pd2Restart t p) s fun x =>
      x.power.restarting = false ∧ x.power.mode = s.power.mode ∧ x.power.dogAt = y.time.now ∧ x.vlt = (bootRom p y).vlt) ∧
    (∀ p, s.power.restarting = true → s.power.mode ≠ .recovery → (bootRom p y).vlt.recovery = true → Goes (.pd2Restart t p) s fun x =>
      x.power.mode = .boot ∧ x.power.cause = 8 ∧ x.time.running = false) ∧
    (∀ p, s.power.restarting = false → exec (.pd2Restart t p) s = .next y) ∧
    (asleep s = true → s.power.wakeLatch = false →
      (bitOf (reg s R.PWR_WAKE) 0 = true → alarmAt s ≤ y.time.rtc → (s.power.mode = .listen → Goes (.rtcAlarmWake t) s fun x =>
          x.power.mode = .boot ∧ x.power.cause = 9 ∧ x.power.lastWake = 1) ∧
        (s.power.mode = .hibernate → exec (.rtcAlarmWake t) s = .next { y with power := { s.power with wakeLatch := true, lastWake := 1, aonEn := true } })) ∧
      (bitOf (reg s R.PWR_WAKE) 1 = true → (s.power.mode = .listen → Goes (.wakePin t) s fun x => x.power.mode = .boot ∧ x.power.cause = 9 ∧
          x.power.lastWake = 2) ∧
        (s.power.mode = .hibernate → exec (.wakePin t) s = .next { y with power := { s.power with wakeLatch := true, lastWake := 2, aonEn := true } }))) ∧
    (asleep s = false ∨ s.power.wakeLatch = true → exec (.rtcAlarmWake t) s = .next y ∧ exec (.wakePin t) s = .next y) ∧
    (∀ e cause pattern, domainUp s 1 = true → wakeMatch s e = some (cause, pattern) →
      (s.power.mode = .listen → asleep s = true → bitOf (reg s R.PWR_WAKE) 2 = true → Goes (.wakeFrameMatch t e) s fun x => x.power.mode = .boot ∧
        x.power.cause = 9 ∧ x.power.lastWake = 3) ∧
      (s.power.mode ≠ .listen → Goes (.wakeFrameMatch t e) s fun x => Only [.regs] y x ∧
        regN x (R.MAC_WAKE_CNT 10) = min 0xFFFFFFFF (regN s (R.MAC_WAKE_CNT 10) + 1))) ∧
    (∀ e, domainUp s 1 = false ∨ wakeMatch s e = none → exec (.wakeFrameMatch t e) s = .next y) ∧
    (s.power.aonEn = true → s.power.pwrEn = false → (s.power.mode = .hibernate → s.power.wakeLatch = true → Goes (.aonRailsGood t) s fun x =>
        x.power.mode = .boot ∧ x.power.cause = 9 ∧ x.time.running = false) ∧
      (s.power.mode = .boot → s.power.attempts = 0 → s.power.pwrGood = false → exec (.aonRailsGood t) s = .next { y with power := { s.power with
        pwrEn := true, pwrEnAt := y.time.now, attempts := 0 } })) ∧
    (s.power.aonEn = false ∨ s.power.pwrEn = true → exec (.aonRailsGood t) s = .next y) ∧
    (s.power.pwrEn = true → s.power.pwrGood = false → s.power.mode = .boot → Goes (.pwrGoodRise t) s fun x => x.power.pwrGood = true ∧
      x.power.attempts = 0 ∧ x.power.wakeLatch = false ∧ x.power.mode = .boot ∧ x.lgr.run = true) ∧
    (s.power.pwrEn = false ∨ s.power.pwrGood = true ∨ s.power.mode ≠ .boot → exec (.pwrGoodRise t) s = .next y) ∧
    (s.power.pwrEn = true → s.power.pwrGood = false → s.power.pwrEnAt + 100000000 ≤ y.time.now → Goes (.pwrGoodTimeout t) s fun x =>
      x.power = { s.power with pwrEn := false, attempts := s.power.attempts + 1, pwrEnAt := y.time.now } ∧
      x.teller.ledgerOffers.map Prod.fst = s.teller.ledgerOffers.map Prod.fst ++ (if s.power.attempts = 2 then [0x0007] else [])) ∧
    (s.power.pwrEn = false ∨ s.power.pwrGood = true ∨ y.time.now < s.power.pwrEnAt + 100000000 → exec (.pwrGoodTimeout t) s = .next y) ∧
    (s.power.pwrEn = false → 1 ≤ s.power.attempts → s.power.attempts < 3 → s.power.pwrEnAt + 1000000000 ≤ y.time.now →
      exec (.powerUpRetry t) s = .next { y with power := { s.power with pwrEn := true, pwrEnAt := y.time.now } }) ∧
    (s.power.pwrEn = true ∨ s.power.attempts = 0 ∨ 3 ≤ s.power.attempts ∨ y.time.now < s.power.pwrEnAt + 1000000000 →
      exec (.powerUpRetry t) s = .next y) ∧
    (∀ p counts avs lead pool, s.power.mode = .boot → s.power.pwrGood = true → domState s 2 = .on → domState s 3 = .on → domState s 13 = .on →
      bootCool s = true → sagBlocks s = false → Goes (.bootComplete t p counts avs lead pool) s fun x =>
        x.power.mode = (if (bootRom p y).vlt.recovery then .recovery else if s.vlt.state = .unprovisioned then .provision else .standby) ∧
        x.power.coreMv = (if avs then min 850 (max 650 (Config.avsTable counts / 5 * 5)) else 750) ∧ x.power.thermal.tripWait = false ∧
        (100 ≤ lead → lead ≤ 2000 → x.alm.leadUs = lead) ∧ (pool ≤ 16384 → x.alm.poolMib = pool)) ∧
    (∀ p counts avs lead pool, s.power.mode ≠ .boot ∨ s.power.pwrGood = false ∨ domState s 2 ≠ .on ∨ domState s 3 ≠ .on ∨ domState s 13 ≠ .on ∨
      bootCool s = false ∨ sagBlocks s = true → exec (.bootComplete t p counts avs lead pool) s = .next y)

/-! Self-calibration (R605 to R625). -/

/-- CAL_RUN and CAL_ABORT, an item's two runs (R607), the end of a write of the sector (R619), a lane's step (R609). -/
def Obligations.Calibration : Prop :=
  (∀ (t : Nat) (s y : State), RegsWf s.regs → y = advance t s →
    (∀ item runs, s.cal.pass = none → exec (.calItemDone t item true runs) s = .next y) ∧
    (∀ (p : Fin 10) (r : CalRun), s.cal.loaded = true → (portOf s p).link = .up → r.index = p.val →
      ((r.run1 - r.run2).natAbs ≤ 100 → Goes (.calItemDone t 4 false [r]) s fun x => Only [.time, .cal] s x ∧ (calEntry x 4 p).valid = true ∧
        (calEntry x 4 p).unstable = false ∧ (calEntry x 4 p).value = calMean r.run1 r.run2) ∧
      (100 < (r.run1 - r.run2).natAbs → Goes (.calItemDone t 4 false [r]) s fun x => (calEntry x 4 p).unstable = true ∧
        (calEntry x 4 p).valid = (calEntry s 4 p).valid ∧ (calEntry x 4 p).value = (calEntry s 4 p).value ∧ bitOf (reg x R.CAL_INT_STAT) 1 = true ∧
        regN x R.CAL_CNT_UNSTABLE = min 0xFFFFFFFF (regN s R.CAL_CNT_UNSTABLE + 1) ∧
        x.teller.ledgerOffers.map Prod.fst = s.teller.ledgerOffers.map Prod.fst ++ [0x8321])) ∧
    (∀ q i r runs, s.cal.pass = some q → q.left = 4 :: i :: r → calRunnable s 4 = true → calRunnable s i = true → 0 < calCount s.part i →
      Goes (.calItemDone t 4 true runs) s fun x => x.cal.pass.map CalPass.left = some (i :: r) ∧ x.cal.pass.map CalPass.ran = some (q.ran + 16)) ∧
    (s.cal.write = none → ∀ utc, exec (.calSectorWriteDone t utc) s = .next y) ∧
    (∀ w utc, s.cal.write = some w → w.copy < 2 →
      (w.again = true → exec (.calSectorWriteDone t utc) s = .next y) ∧
      (w.again = false → w.pass = false → Goes (.calSectorWriteDone t utc) s fun x => Only [.regs, .time, .cal] s x ∧ x.cal.write = none ∧
        x.cal.inForce = some w.copy ∧ calCopyOf x w.copy = some { w.content with utc := utc } ∧ reg x R.CAL_GEN = w.content.generation)) ∧
    (∀ l : Fin 32, aFind s.cal.stepAt l = none → exec (.laneSkewStep t l) s = .next y) ∧
    (∀ (l : Fin 32) at_, aFind s.cal.stepAt l = some at_ →
      (y.time.now < at_ ∨ domState s 11 ≠ .on → exec (.laneSkewStep t l) s = .next y) ∧
      (at_ ≤ y.time.now → domState s 11 = .on →
        (bits (reg s (R.CAL_SKEWl l)) 24 16 < bits (reg s (R.CAL_SKEWl l)) 8 0 → Goes (.laneSkewStep t l) s fun x =>
          bits (reg x (R.CAL_SKEWl l)) 24 16 = bits (reg s (R.CAL_SKEWl l)) 24 16 + 1 ∧
          bits (reg x (R.CAL_SKEWl l)) 8 0 = bits (reg s (R.CAL_SKEWl l)) 8 0 ∧ aFind x.cal.stepAt l = some (at_ + 1000)) ∧
        (bits (reg s (R.CAL_SKEWl l)) 8 0 < bits (reg s (R.CAL_SKEWl l)) 24 16 → Goes (.laneSkewStep t l) s fun x =>
          bits (reg x (R.CAL_SKEWl l)) 24 16 = bits (reg s (R.CAL_SKEWl l)) 24 16 - 1 ∧ aFind x.cal.stepAt l = some (at_ + 1000)) ∧
        (bits (reg s (R.CAL_SKEWl l)) 24 16 = bits (reg s (R.CAL_SKEWl l)) 8 0 → exec (.laneSkewStep t l) s = .next { y with cal := { s.cal with
          stepAt := aDel s.cal.stepAt l } })))) ∧
  (∀ (c : Call) (s x : State), x = advance c.t s →
    (∀ mask flags lanes : Nat, Ready 0x0520 c s →
      (∀ i, s.cal.pass = none → mask < 4096 → (List.range 12).filter (nBit mask) = [i] → calRunnable x i = true → 0 < calCount s.part i → ∃ y p,
        Done (.calRun c mask flags lanes) 0x0520 c ⟨.pending, 0, []⟩ y s ∧ Only [.cal] x y ∧ y.cal.pass = some p ∧ p.left = [i] ∧
        p.store = nBit flags 0 ∧ p.lanes = lanes ∧ p.owed = some c ∧ p.ran = 0 ∧ y.cal.entries = s.cal.entries) ∧
      (4096 ≤ mask → Done (.calRun c mask flags lanes) 0x0520 c ⟨.invalidParameter, 0, []⟩ x s) ∧
      (s.cal.pass ≠ none → mask < 4096 → Done (.calRun c mask flags lanes) 0x0520 c ⟨.busy, 0, []⟩ x s)) ∧
    (Ready 0x0521 c s →
      (s.cal.pass = none → Done (.calAbort c) 0x0521 c ⟨.notFound, 0, []⟩ x s) ∧
      (s.cal.pass ≠ none → ∃ y, Ends (.calAbort c) 0x0521 c ⟨.ok, 0, []⟩ y s ∧ y.cal.pass = none ∧ y.cal.copies = s.cal.copies ∧
        y.cal.entries = s.cal.entries ∧ bitOf (reg y R.CAL_INT_STAT) 0 = true ∧ (∃ o ∈ y.teller.ledgerOffers, o.1 = 0x8320))))

/-! Vault and firmware (R627 to R654). -/

/-- Keys, provisioning, rollback and retirement (R635, R636, R638, R643, R651, R653). -/
def Obligations.VaultCommands : Prop :=
  ∀ (c : Call) (s x : State), x = advance c.t s → s.vlt.error = false →
    (∀ (p : KeyEnroll) (b : Nat), Ready 0x0601 c s → p.ident / 256 = 1 ∨ p.ident / 256 = 4 → slotBit (p.ident / 256) (p.ident % 256) = some b →
      p.length = 48 → p.wrap = 0xFFFF →
      (nBit s.vlt.written b = false → Done (.secKeyEnroll c p) 0x0601 c ⟨.ok, 0, []⟩ { x with vlt := { s.vlt with
        written := s.vlt.written + 2 ^ b, keys := aPut s.vlt.keys p.ident p.material } } s) ∧
      (nBit s.vlt.written b = true → ∃ y, Done (.secKeyEnroll c p) 0x0601 c ⟨.unauthorized, 0, []⟩ y s ∧
        Wrote [(R.VLT_CNT_UNAUTH, BitVec.ofNat 32 (min 0xFFFFFFFF (regN s R.VLT_CNT_UNAUTH + 1)))] x y)) ∧
    (∀ ident b : Nat, Ready 0x0602 c s → slotBit (ident / 256) (ident % 256) = some b →
      (keepsSlot c ident x = false → slotUsable s (ident / 256) (ident % 256) = true → ∃ y, Ends (.secKeyRevoke c ident) 0x0602 c ⟨.ok, 0, []⟩ y s ∧
        y.vlt.revoked = burnSlot b s.vlt.revoked ∧ y.vlt.written = s.vlt.written ∧ y.vlt.keys = s.vlt.keys ∧
        slotUsable y (ident / 256) (ident % 256) = false ∧
        ∀ i : Fin 5, i.val ≠ 0 → (sess s i).key = ident → sess y i = Session.closed) ∧
      (keepsSlot c ident x = true → Done (.secKeyRevoke c ident) 0x0602 c ⟨.invalidParameter, 0, []⟩ x s)) ∧
    (∀ p : RecordSet, Ready 0x0603 c s → ∃ y, Done (.secRecordSet c p) 0x0603 c ⟨.ok, 0, []⟩ y s ∧ Only [.vlt] x y ∧ ∃ n g,
      provOf y = some (n, ⟨g, p.epoch, p.mac, p.ip, p.mask, p.gateway⟩)) ∧
    (∀ flags : Nat, Ready 0x0604 c s →
      (provOf s = none → Done (.secProvisionDone c flags) 0x0604 c ⟨.notReady, 0, []⟩ x s) ∧
      (provOf s ≠ none → s.vlt.state = .unprovisioned → sagBlocks s = false → ∃ y, Ends (.secProvisionDone c flags) 0x0604 c ⟨.ok, 0, []⟩ y s ∧
        y.vlt.state = (if nBit flags 0 then .approved else .provisioned) ∧ (∃ o ∈ y.teller.ledgerOffers, o.1 = 0x8400) ∧
        ((y.power.change = none ∧ y.power.mode = .standby) ∨ ∃ q, y.power.change = some q ∧ q.to_ = .standby ∧ q.begun = true))) ∧
    (∀ flags m o, Ready 0x0606 c s → m = bankInfo (bootOf s) (bootOf s).active → o = bankInfo (bootOf s) (1 - (bootOf s).active) →
      (nBit flags 0 = true ∨ m.secver ≤ o.secver ∨ (o.state ≠ .good ∧ o.state ≠ .staged) →
        Done (.secRollbackAdvance c flags) 0x0606 c ⟨.ok, 0, []⟩ { x with vlt := { s.vlt with rollback := max s.vlt.rollback (min 63 m.secver) } } s) ∧
      (nBit flags 0 = false → o.secver < m.secver → o.state = .good ∨ o.state = .staged →
        Done (.secRollbackAdvance c flags) 0x0606 c ⟨.invalidParameter, 0, []⟩ x s)) ∧
    (∀ confirm : Nat, Ready 0x0607 c s → c.session = 0 →
      (confirm = 0x52455449 → Goes (.secRetire c confirm) s fun y => y.vlt.state = .retired ∧ provOf y = none ∧
        (∀ b ∈ secretSlots, nBit y.vlt.written b = true ∧ nBit y.vlt.revoked b = true) ∧ (∀ i ∈ secretIds, aFind y.vlt.keys i = some (2 ^ 256 - 1)) ∧
        y.power.mode = .boot ∧ y.power.cause = 4 ∧ ∀ i : Fin 5, (sess y i).isOpen = false) ∧
      (confirm ≠ 0x52455449 → Done (.secRetire c confirm) 0x0607 c ⟨.invalidParameter, 0, []⟩ x s))

/-- Staging, verification, activation and abort of firmware (R647 to R650). -/
def Obligations.FirmwareCommands : Prop :=
  (∀ (c : Call) (s x : State), x = advance c.t s →
    (∀ (bank b : Nat) (h : FwHeader), Ready 0x0610 c s → s.vlt.error = false → beginBank bank s = some b → headerFits s h = true →
      trailerOk s 0 h.trailer = true → s.vlt.rollback ≤ h.secver → (bankOf s b).header ≠ some h → ∃ y,
      Done (.fwBegin c bank h) 0x0610 c ⟨.ok, 0, []⟩ y s ∧ Only [.regs, .teller, .vlt] x y ∧ (s.vlt.write = none → Only [.vlt] x y) ∧
      y.vlt.write = none ∧ bankOf y b = ⟨some h, [], false⟩ ∧
      bankInfo (bootOf y) b = ⟨.staging, h.version, h.secver⟩ ∧ bankInfo (bootOf y) (1 - b) = bankInfo (bootOf s) (1 - b)) ∧
    (∀ (bank : Nat) (h : FwHeader), Ready 0x0610 c s → s.vlt.error = false → beginBank bank s = none ∨ headerFits s h = false →
      Done (.fwBegin c bank h) 0x0610 c ⟨.invalidParameter, 0, []⟩ x s) ∧
    (∀ (block b : Nat) (crc : Word) (data : List (BitVec 8)) (h : FwHeader), Ready 0x0611 c s → stageBank s = some b → (bankOf s b).header = some h →
      (blockFits h block crc data = true → aFind (bankOf s b).blocks block = none → s.vlt.write = none → ∃ y,
        Done (.fwBlock c block crc data) 0x0611 c ⟨.pending, 0, []⟩ y s ∧ y.vlt = { s.vlt with write := some ⟨b, block, data, some c⟩ }) ∧
      (blockFits h block crc data = false → ∃ y, Done (.fwBlock c block crc data) 0x0611 c ⟨.invalidParameter, 0, []⟩ y s ∧ y.vlt = s.vlt ∧
        regN y R.VLT_CNT_CRCFAIL = min 0xFFFFFFFF (regN s R.VLT_CNT_CRCFAIL + 1))) ∧
    (∀ (bank r : Nat) (h : FwHeader), Ready 0x0612 c s → s.vlt.error = false → bank ≤ 1 → (bankOf s bank).header = some h →
      (bankInfo (bootOf s) bank).state = .staging → bankWhole (bankOf s bank) h = true → r = stageResultOf s bank h → r ≠ 3 → ∃ y,
      Ends (.fwEnd c bank) 0x0612 c ⟨.ok, 0, []⟩ y s ∧ (bankOf y bank).hashOk = (r == 0) ∧
      (bankInfo (bootOf y) bank).state = (if r = 0 then .staged else .failed) ∧ (∃ o ∈ y.teller.ledgerOffers, o.1 = 0x8401)) ∧
    (∀ bank : Nat, Ready 0x0613 c s → bank ≤ 1 →
      ((bankInfo (bootOf s) bank).state = .staged → Goes (.fwActivate c bank) s fun y => y.power.mode = .boot ∧ y.power.cause = 5 ∧
        (bootOf y).pending = some bank ∧ (bootOf y).tries = 0 ∧ (bankInfo (bootOf y) bank).state = .staged) ∧
      ((bankInfo (bootOf s) bank).state ≠ .staged → Done (.fwActivate c bank) 0x0613 c ⟨.notReady, 0, []⟩ x s)) ∧
    (∀ bank : Nat, Ready 0x0614 c s →
      (1 < bank → Done (.fwAbort c bank) 0x0614 c ⟨.invalidParameter, 0, []⟩ x s) ∧
      (bank ≤ 1 → (bankInfo (bootOf s) bank).state = .staging → s.power.mode = .recovery → ∃ y, Ends (.fwAbort c bank) 0x0614 c ⟨.ok, 0, []⟩ y s ∧
        bankOf y bank = ⟨none, [], false⟩ ∧ bankInfo (bootOf y) bank = ⟨.empty, 0, 0⟩ ∧ y.vlt.write = none ∧ y.power = s.power) ∧
      (bank ≤ 1 → s.power.mode = .update → sagBlocks s = false → ∃ y, Ends (.fwAbort c bank) 0x0614 c ⟨.ok, 0, []⟩ y s ∧
        ((y.power.change = none ∧ y.power.mode = .standby) ∨ ∃ q, y.power.change = some q ∧ q.to_ = .standby ∧ q.begun = true)))) ∧
  (∀ (t : Nat) (good : Bool) (s : State),
    (s.vlt.write = none ∨ s.lgr.flush ≠ none → exec (.fwBlockWriteDone t good) s = .next (advance t s)) ∧
    (∀ w, s.vlt.write = some w → s.lgr.flush = none → w.bank < 2 → Goes (.fwBlockWriteDone t good) s fun x => x.vlt.write = none ∧
      (bankOf x w.bank).blocks = (if good then aPut (bankOf s w.bank).blocks w.block w.data else (bankOf s w.bank).blocks)))

/-! The Ledger (R655 to R671). -/

/-- Records, tokens, flushes and freezes of the Ledger (R656, R660, R662, R666). -/
def Obligations.LedgerEvents : Prop :=
  ∀ (t : Nat) (s y : State), RegsWf s.regs → y = advance t s →
    (s.teller.ledgerOffers = [] ∨ s.lgr.run = false → exec (.ledgerRecordOffer t) s = .next y) ∧
    (∀ code st f r q, s.teller.ledgerOffers = (code, st, f) :: r → s.lgr.run = true → q = credit y.time.now (tracker s (trackerOf code)) →
      (q.rate ≠ 0 → q.tokens = 0 → Goes (.ledgerRecordOffer t) s fun x => x.teller = { s.teller with ledgerOffers := r } ∧ x.lgr.buffer = s.lgr.buffer ∧
        tracker x (trackerOf code) = { q with supp := q.supp + 1 } ∧ regN x R.LGR_CNT_SUPP = min 0xFFFFFFFF (regN s R.LGR_CNT_SUPP + 1)) ∧
      (q.rate = 0 ∨ q.tokens ≠ 0 → (tracker s (trackerOf code)).supp = 0 → s.lgr.freeze = none → s.lgr.buffer.length < 1024 →
        Goes (.ledgerRecordOffer t) s fun x => x.teller = { s.teller with ledgerOffers := r } ∧ ∃ e b, x.lgr.buffer = s.lgr.buffer ++ e :: b ∧
          e.code = code ∧ e.seq = reg s R.LGR_NEXT_SEQ)) ∧
    (∀ i : Fin 512, ((tracker s i).rate = 0 → exec (.trackerTokenGain t i) s = .next y) ∧
      ((tracker s i).rate ≠ 0 → credit y.time.now (tracker s i) ≠ tracker s i → exec (.trackerTokenGain t i) s = .next { y with lgr := { s.lgr with
        trackers := aPut s.lgr.trackers i (credit y.time.now (tracker s i)) } })) ∧
    (s.lgr.run = true → flushAllowed s = true → s.lgr.freeze = none → s.lgr.flush = none → s.lgr.fault = false →
      s.lgr.flushAt + bits (reg s R.LGR_FLUSH_CFG) 7 0 * 1000000000 ≤ y.time.now → Goes (.ledgerFlushPeriod t) s fun x => Only [.regs, .time, .lgr] s x ∧
        (∃ below, x.lgr.flush = some ⟨below, false, [], none⟩) ∧ ∃ b, x.lgr.buffer = s.lgr.buffer ++ b) ∧
    (s.lgr.run = false ∨ flushAllowed s = false ∨ s.lgr.freeze ≠ none ∨ s.lgr.flush ≠ none ∨
      y.time.now < s.lgr.flushAt + bits (reg s R.LGR_FLUSH_CFG) 7 0 * 1000000000 → exec (.ledgerFlushPeriod t) s = .next y) ∧
    (∀ f, s.lgr.flush = some f → f.all = false → Goes (.ledgerFlushRun t []) s fun x => Only [.time, .lgr] s x ∧
      x.lgr.buffer = s.lgr.buffer.filter (fun r => !seqBelow r.seq f.below) ∧ x.lgr.side = s.lgr.side ∧ x.lgr.flush = some f ∧ x.lgr.fault = s.lgr.fault) ∧
    (s.lgr.flush = none → s.power.sagFlush = false → (∀ bad, exec (.ledgerFlushRun t bad) s = .next y) ∧ exec (.ledgerFlushDone t) s = .next y) ∧
    (∀ f, s.lgr.flush = some f →
      ((∃ r ∈ s.lgr.buffer, f.all = true ∨ seqBelow r.seq f.below = true) → exec (.ledgerFlushDone t) s = .next y) ∧
      (f.all = false → (∀ r ∈ s.lgr.buffer, seqBelow r.seq f.below = false) → f.again = none → s.lgr.dropped = 0 → s.power.sagFlush = false →
        Goes (.ledgerFlushDone t) s fun x => x.lgr = { s.lgr with flush := none, flushAt := y.time.now, flushSt := st64 y } ∧
          bitOf (reg x R.LGR_INT_STAT) 0 = true ∧ regN x R.LGR_CNT_FLUSH = min 0xFFFFFFFF (regN s R.LGR_CNT_FLUSH + 1))) ∧
    (∀ f, s.lgr.freeze = some f →
      (y.time.now < f.till → exec (.freezeTimeout t) s = .next y) ∧
      (f.till ≤ y.time.now → Goes (.freezeTimeout t) s fun x => x.lgr.freeze = none ∧ x.lgr.side = [] ∧ bitOf (reg x R.LGR_INT_STAT) 2 = true ∧
        ∃ b, x.lgr.buffer = s.lgr.buffer ++ s.lgr.side.take (1024 - s.lgr.buffer.length) ++ b)) ∧
    (s.lgr.freeze = none → exec (.freezeTimeout t) s = .next y)

/-- The commands of class 19 that are not reads (R662, R666, R668 to R670); the nonce is a free value (log entry 4). -/
def Obligations.LedgerCommands : Prop :=
  ∀ (c : Call) (s x : State), x = advance c.t s →
    (∀ action limit : Nat, Ready 0x0682 c s → action ≤ 1 → limit ≤ 60 →
      ((∀ f, s.lgr.freeze = some f → f.session = c.session) → action = 1 → Done (.ledgerFreeze c action limit) 0x0682 c ⟨.ok, 0, []⟩ { x with lgr := { s.lgr with
        freeze := some ⟨c.session, x.time.now + (if limit = 0 then 10 else limit) * 1000000000⟩ } } s) ∧
      (s.lgr.freeze = none → action = 0 → Done (.ledgerFreeze c action limit) 0x0682 c ⟨.ok, 0, []⟩ x s) ∧
      ((∃ f, s.lgr.freeze = some f ∧ f.session ≠ c.session) → Done (.ledgerFreeze c action limit) 0x0682 c ⟨.busy, 0, []⟩ x s)) ∧
    (Ready 0x0683 c s →
      (s.vlt.error = false → ∃ y, Done (.ledgerChallenge c) 0x0683 c ⟨.ok, 24, [drawn s, (regN s R.LGR_CLEARS : Int) + 1, 60]⟩ y s ∧
        y.lgr = { s.lgr with nonce := some (drawn s, x.time.now) } ∧ y.free = s.free + 1) ∧
      (s.vlt.error = true → ∃ y, Done (.ledgerChallenge c) 0x0683 c ⟨.unauthorized, 0, []⟩ y s ∧ y.lgr = s.lgr ∧
        regN y R.VLT_CNT_UNAUTH = min 0xFFFFFFFF (regN s R.VLT_CNT_UNAUTH + 1))) ∧
    (∀ k : ClearToken, Ready 0x0684 c s →
      (s.lgr.freeze = none → (s.lgr.slots.filter (fun e => decide (e.1 < 2048))).length < 2048 → k.magicOk = true → k.serialOk = true →
        k.number = regN s R.LGR_CLEARS + 1 → nonceOk x k.nonce = true → trailerOk s 4 k.trailer = true → s.teller.ledgerOffers = [] → ∃ y,
        Ends (.ledgerClear c k) 0x0684 c ⟨.ok, 0, []⟩ y s ∧ reg y R.LGR_FLOOR = reg s R.LGR_NEXT_SEQ ∧
        reg y R.LGR_CLEARS = BitVec.ofNat 32 (regN s R.LGR_CLEARS + 1) ∧ y.lgr.nonce = none ∧ bitOf (reg y R.LGR_INT_STAT) 3 = true ∧
        y.lgr.buffer = s.lgr.buffer.filter (fun r => !seqBelow r.seq (reg s R.LGR_NEXT_SEQ)) ∧ y.teller.ledgerOffers.map Prod.fst = [0x8480]) ∧
      (s.lgr.freeze ≠ none → Done (.ledgerClear c k) 0x0684 c ⟨.busy, 0, []⟩ x s)) ∧
    (∀ code r b : Nat, Ready 0x0685 c s →
      (∀ q, isExempt code = false → r ≤ 255 → 1 ≤ b → b ≤ 255 → q = credit x.time.now (tracker s (trackerOf code)) →
        Done (.ledgerLimitSet c code r b) 0x0685 c ⟨.ok, 0, []⟩ (setTracker (trackerOf code) { q with rate := r, burst := b, tokens := min b q.tokens, since := x.time.now, gained := 0 } x) s) ∧
      (isExempt code = true ∨ 255 < r ∨ b < 1 ∨ 255 < b → Done (.ledgerLimitSet c code r b) 0x0685 c ⟨.invalidParameter, 0, []⟩ x s)) ∧
    (Ready 0x0686 c s →
      (s.lgr.fault = false → s.lgr.run = true → s.lgr.flush = none → ∃ y below, Done (.ledgerFlush c) 0x0686 c ⟨.pending, 0, []⟩ y s ∧
        Only [.regs, .lgr] x y ∧ y.lgr.flush = some ⟨below, false, [c], none⟩) ∧
      (s.lgr.fault = true ∨ s.lgr.run = false → Done (.ledgerFlush c) 0x0686 c ⟨.notReady, 0, []⟩ x s))
end

