-- ==== Sys2Proof/Decode.lean ====
section
/-! DEFINITION. The table of commands gives no row an encoding in bits: commands come as events and messages, never as words. -/

namespace Sys2Proof

/-- No row of the table has bits, so no word spells a command. -/
def decodeTableWord (_nbits _w : Nat) : Option Instr := none

end Sys2Proof
end

