-- ==== Sys2Proof/Laws/Maps.lean ====
section
/-! SUPPORT. The canonical form of maps and of the register file is kept by the operations on them. -/

namespace Sys2Proof.Laws

open Sys2Proof.Machine Sys2Proof.Safety

/-! Maps. -/

theorem aWf_iff {α : Type} (m : SMap α) : aWf m = true ↔ m.Pairwise (fun x y => x.1 < y.1) := by
  induction m with
  | nil => simp [aWf]
  | cons c r ih =>
    obtain ⟨j, x⟩ := c
    cases r with
    | nil => simp [aWf]
    | cons d t =>
      obtain ⟨k, y⟩ := d
      simp only [aWf, Bool.and_eq_true, decide_eq_true_eq, ih, List.pairwise_cons, List.mem_cons]
      constructor
      · rintro ⟨h, h1, h2⟩
        refine ⟨?_, h1, h2⟩
        rintro a (rfl | ha)
        · exact h
        · exact Nat.lt_trans h (h1 a ha)
      · rintro ⟨h, h1, h2⟩
        exact ⟨h (k, y) (Or.inl rfl), h1, h2⟩

theorem mem_aPut {α : Type} {m : SMap α} {k : Nat} {x : α} {c : Nat × α} (h : c ∈ aPut m k x) : c = (k, x) ∨ c ∈ m := by
  induction m with
  | nil => simpa [aPut] using h
  | cons d r ih =>
    obtain ⟨j, y⟩ := d
    simp only [aPut] at h
    split at h
    · simpa using h
    · split at h
      · rcases List.mem_cons.1 h with h | h
        · exact Or.inl h
        · exact Or.inr (List.mem_cons_of_mem _ h)
      · rcases List.mem_cons.1 h with h | h
        · exact Or.inr (by simp [h])
        · rcases ih h with h | h
          · exact Or.inl h
          · exact Or.inr (List.mem_cons_of_mem _ h)

theorem mem_aDel {α : Type} {m : SMap α} {k : Nat} {c : Nat × α} (h : c ∈ aDel m k) : c ∈ m := by
  induction m with
  | nil => simp [aDel] at h
  | cons d r ih =>
    obtain ⟨j, y⟩ := d
    simp only [aDel] at h
    split at h
    · exact List.mem_cons_of_mem _ h
    · rcases List.mem_cons.1 h with h | h
      · simp [h]
      · exact List.mem_cons_of_mem _ (ih h)

theorem aWf_aPut {α : Type} {m : SMap α} (k : Nat) (x : α) (h : aWf m = true) : aWf (aPut m k x) = true := by
  rw [aWf_iff] at *
  induction m with
  | nil => simp [aPut]
  | cons d r ih =>
    obtain ⟨j, y⟩ := d
    obtain ⟨h1, h2⟩ := List.pairwise_cons.1 h
    simp only [aPut]
    split
    · refine List.pairwise_cons.2 ⟨?_, h⟩
      intro a ha
      rcases List.mem_cons.1 ha with rfl | ha
      · assumption
      · have := h1 a ha
        simp only at this ⊢
        omega
    · split
      · exact List.pairwise_cons.2 ⟨fun a ha => by have := h1 a ha; simp only at this ⊢; omega, h2⟩
      · refine List.pairwise_cons.2 ⟨?_, ih h2⟩
        intro a ha
        rcases mem_aPut ha with rfl | ha
        · simp only
          omega
        · exact h1 a ha

theorem aWf_aDel {α : Type} {m : SMap α} (k : Nat) (h : aWf m = true) : aWf (aDel m k) = true := by
  rw [aWf_iff] at *
  induction m with
  | nil => simp [aDel]
  | cons d r ih =>
    obtain ⟨j, y⟩ := d
    obtain ⟨h1, h2⟩ := List.pairwise_cons.1 h
    simp only [aDel]
    split
    · exact h2
    · exact List.pairwise_cons.2 ⟨fun a ha => h1 a (mem_aDel ha), ih h2⟩

theorem aWf_filter {α : Type} {m : SMap α} (p : Nat × α → Bool) (h : aWf m = true) : aWf (m.filter p) = true := by
  rw [aWf_iff] at *
  exact h.filter p

theorem aWf_foldPut {α β : Type} (l : List β) (k : β → Nat) (x : β → α) {m : SMap α} (h : aWf m = true) :
    aWf (l.foldl (fun m c => aPut m (k c) (x c)) m) = true := by
  induction l generalizing m with
  | nil => exact h
  | cons c r ih => exact ih (aWf_aPut _ _ h)

theorem mem_foldPut {α β : Type} {l : List β} {k : β → Nat} {x : β → α} {m : SMap α} {c : Nat × α}
    (h : c ∈ l.foldl (fun m c => aPut m (k c) (x c)) m) : (∃ b ∈ l, c = (k b, x b)) ∨ c ∈ m := by
  induction l generalizing m with
  | nil => exact Or.inr h
  | cons d r ih =>
    rcases ih h with ⟨b, hb, hc⟩ | h
    · exact Or.inl ⟨b, List.mem_cons_of_mem _ hb, hc⟩
    · rcases mem_aPut h with h | h
      · exact Or.inl ⟨d, by simp, h⟩
      · exact Or.inr h

/-- Reading a map after one key was set. -/
theorem aFind_aPut {α : Type} (m : SMap α) (k : Nat) (x : α) (j : Nat) :
    aFind (aPut m k x) j = if k = j then some x else aFind m j := by
  induction m with
  | nil => simp [aPut, aFind]
  | cons d r ih =>
    obtain ⟨i, y⟩ := d
    simp only [aPut]
    split
    · simp only [aFind]
    · split
      · subst_vars
        simp only [aFind]
        split <;> simp
      · simp only [aFind, ih]
        split
        · subst_vars
          simp [*]
        · rfl

theorem aFind_none {α : Type} {m : SMap α} {k : Nat} (h : ∀ c ∈ m, c.1 ≠ k) : aFind m k = none := by
  induction m with
  | nil => rfl
  | cons d r ih =>
    obtain ⟨i, y⟩ := d
    simp only [aFind]
    split
    · exact absurd ‹i = k› (h (i, y) (by simp))
    · exact ih (fun c hc => h c (List.mem_cons_of_mem _ hc))

/-- Reading a map after one key was removed. -/
theorem aFind_aDel {α : Type} {m : SMap α} (hm : aWf m = true) (k j : Nat) :
    aFind (aDel m k) j = if k = j then none else aFind m j := by
  rw [aWf_iff] at hm
  induction m with
  | nil => simp [aDel, aFind]
  | cons d r ih =>
    obtain ⟨i, y⟩ := d
    obtain ⟨h1, h2⟩ := List.pairwise_cons.1 hm
    simp only [aDel]
    split
    · subst_vars
      simp only [aFind]
      split
      · subst_vars
        exact aFind_none (fun c hc => by have := h1 c hc; simp only at this; omega)
      · rfl
    · simp only [aFind, ih h2]
      split
      · subst_vars
        simp [Ne.symm ‹_›]
      · rfl

/-! Registers. -/

theorem CellsWf_nil : CellsWf [] := ⟨rfl, by simp⟩

theorem CellsWf_set {m : SMap Word} (a : Nat) (w : Word) (h : CellsWf m) : CellsWf (cellSet m a w) := by
  unfold cellSet
  split
  · exact ⟨aWf_aDel _ h.1, fun c hc => h.2 c (mem_aDel hc)⟩
  · refine ⟨aWf_aPut _ _ h.1, fun c hc => ?_⟩
    rcases mem_aPut hc with rfl | hc
    · assumption
    · exact h.2 c hc

theorem CellsWf_filter {m : SMap Word} (p : Nat × Word → Bool) (h : CellsWf m) : CellsWf (m.filter p) :=
  ⟨aWf_filter p h.1, fun c hc => h.2 c ((List.mem_filter.1 hc).1)⟩

theorem CellsWf_merge {m n : SMap Word} (hn : ∀ c ∈ n, c.2 ≠ resetWord c.1) (h : CellsWf m) :
    CellsWf (n.foldl (fun m c => aPut m c.1 c.2) m) := by
  refine ⟨aWf_foldPut n _ _ h.1, fun c hc => ?_⟩
  rcases mem_foldPut hc with ⟨b, hb, rfl⟩ | hc
  · exact hn b hb
  · exact h.2 c hc

/-- The word at an address after a register was set, in canonical form: the address written reads the word, every other as before. -/
theorem aFind_cellSet {m : SMap Word} (hm : aWf m = true) (a : Nat) (w : Word) (b : Nat) :
    (aFind (cellSet m a w) b).getD (resetWord b) = if a = b then w else (aFind m b).getD (resetWord b) := by
  unfold cellSet
  split
  · rw [aFind_aDel hm]
    split
    · subst_vars
      rfl
    · rfl
  · rw [aFind_aPut]
    split <;> simp

end Sys2Proof.Laws
end

