-- ==== Sys2Proof/Laws/Keeps.lean ====
section
/-! SUPPORT. What every command keeps: the part, the queue, the run of the reference clock, the canonical form of the register file, what Vault
has burnt, the bounds of the Ledger's buffers; and the rules by which it is shown of a composition. -/

namespace Sys2Proof.Laws

open Sys2Proof.Machine Sys2Proof.Safety

/-- Neither the reference clock nor show time goes back. -/
structure TimeOn (a b : Time) : Prop where
  now : a.now ≤ b.now
  show_ : ShowOnward a b

theorem TimeOn.refl (a : Time) : TimeOn a a := ⟨Nat.le_refl _, fun m h => ⟨m, h, Int.le_refl _⟩⟩

theorem TimeOn.trans {a b c : Time} (h : TimeOn a b) (g : TimeOn b c) : TimeOn a c :=
  ⟨Nat.le_trans h.now g.now, fun m hm =>
    let ⟨n, hn, l⟩ := h.show_ m hm
    let ⟨k, hk, l'⟩ := g.show_ n hn
    ⟨k, hk, Int.le_trans l l'⟩⟩

/-- A change of other fields of the time. -/
theorem timeOn {a b : Time} (h1 : b.now = a.now) (h2 : b.running = a.running) (h3 : b.st64 = a.st64) (h4 : b.hwm = a.hwm)
    (h5 : b.hwmValid = a.hwmValid) : TimeOn a b :=
  ⟨Nat.le_of_eq h1.symm, fun m hm => ⟨m, by simpa only [showMark, h2, h3, h4, h5] using hm, Int.le_refl _⟩⟩

/-- From `s` to `t`: the part and the queue are the same, neither the reference clock nor show time has gone back, Vault has gone onward, and the invariant of the
register file and of the Ledger's buffers is kept. -/
structure Keeps (s t : State) : Prop where
  part : t.part = s.part
  pending : t.pending = s.pending
  time : TimeOn s.time t.time
  vault : Onward s.vlt t.vlt
  regs : RegsWf s.regs → RegsWf t.regs
  ledger : LedgerWf s.lgr → LedgerWf t.lgr

/-- The same of the next state of an outcome. -/
structure OutKeeps (s : State) (o : Out) : Prop where
  keep : ∀ t, o = .next t → Keeps s t

theorem onward_refl (v : Vault) : Onward v v := ⟨Nat.le_refl _, Nat.le_refl _, fun _ h => h, fun _ h => h⟩

theorem onward_trans {u v w : Vault} (h : Onward u v) (g : Onward v w) : Onward u w :=
  ⟨Nat.le_trans h.state g.state, Nat.le_trans h.rollback g.rollback, fun b hb => g.written b (h.written b hb), fun b hb => g.revoked b (h.revoked b hb)⟩

theorem Keeps.refl (s : State) : Keeps s s := ⟨rfl, rfl, TimeOn.refl _, onward_refl _, id, id⟩

theorem Keeps.trans {s t u : State} (h : Keeps s t) (g : Keeps t u) : Keeps s u :=
  ⟨g.part.trans h.part, g.pending.trans h.pending, h.time.trans g.time, onward_trans h.vault g.vault, fun x => g.regs (h.regs x), fun x => g.ledger (h.ledger x)⟩

theorem OutKeeps.next {s t : State} (h : Keeps s t) : OutKeeps s (.next t) :=
  ⟨fun u hu => by cases hu; exact h⟩

/-- Nothing of these is touched by a change of the other fields. -/
theorem keeps_mk {s0 t : State} (h : Keeps s0 t) {free time teller power alm fifos protect vin record cfgA cfgB cmp ras fxm pho pool lanes lamps mac
    pkt dmx rad esc map cal} (hn : TimeOn t.time time) :
    Keeps s0 ⟨t.part, t.regs, free, time, teller, power, t.pending, alm, fifos, protect, vin, record, cfgA, cfgB, cmp, ras, fxm, pho, pool, lanes,
      lamps, mac, pkt, dmx, rad, esc, map, cal, t.vlt, t.lgr⟩ :=
  h.trans ⟨rfl, rfl, hn, onward_refl _, id, id⟩

theorem keeps_foldl {α : Type} {s0 : State} {g : State → α → State} {l : List α} {s : State}
    (hg : ∀ x a, Keeps s0 x → Keeps s0 (g x a)) (h : Keeps s0 s) : Keeps s0 (l.foldl g s) := by
  induction l generalizing s with
  | nil => exact h
  | cons a r ih => exact ih (hg s a h)

theorem keeps_foldl_fst {α β : Type} {s0 : State} {g : State × β → α → State × β} {l : List α} {p : State × β}
    (hg : ∀ x a, Keeps s0 x.1 → Keeps s0 (g x a).1) (h : Keeps s0 p.1) : Keeps s0 (l.foldl g p).1 := by
  induction l generalizing p with
  | nil => exact h
  | cons a r ih => exact ih (hg p a h)

theorem keeps_ite {s0 : State} {c : Prop} [Decidable c] {a b : State} (ha : Keeps s0 a) (hb : Keeps s0 b) : Keeps s0 (if c then a else b) := by
  split <;> assumption

theorem keeps_ite_fst {α : Type} {s0 : State} {c : Prop} [Decidable c] {a b : State × α} (ha : Keeps s0 a.1) (hb : Keeps s0 b.1) :
    Keeps s0 (if c then a else b).1 := by
  split <;> assumption

theorem OutKeeps.ite {s0 : State} {c : Prop} [Decidable c] {a b : Out} (ha : OutKeeps s0 a) (hb : OutKeeps s0 b) :
    OutKeeps s0 (if c then a else b) := by
  split <;> assumption

/-- A change of the registers alone. -/
theorem keeps_regs {s0 t : State} {r : Regs} (h : Keeps s0 t) (hr : RegsWf t.regs → RegsWf r) : Keeps s0 { t with regs := r } :=
  h.trans ⟨rfl, rfl, TimeOn.refl _, onward_refl _, hr, id⟩

/-- A change of Vault alone. -/
theorem keeps_vlt {s0 t : State} {v : Vault} (h : Keeps s0 t) (hv : Onward t.vlt v) : Keeps s0 { t with vlt := v } :=
  h.trans ⟨rfl, rfl, TimeOn.refl _, hv, id, id⟩

/-- A change of the Ledger alone. -/
theorem keeps_lgr {s0 t : State} {l : Ledger} (h : Keeps s0 t) (hl : LedgerWf t.lgr → LedgerWf l) : Keeps s0 { t with lgr := l } :=
  h.trans ⟨rfl, rfl, TimeOn.refl _, onward_refl _, id, hl⟩

/-! Slots burnt in OTP. -/

theorem burnSlot_stays (b m : Nat) : BitsStay m (burnSlot b m) := by
  intro i hi
  unfold burnSlot
  split
  · exact hi
  · rename_i hb
    have hb' : m / 2 ^ b % 2 = 0 := by
      have : ¬ m / 2 ^ b % 2 = 1 := by simpa [nBit] using hb
      omega
    simp only [nBit, beq_iff_eq] at hi ⊢
    rcases Nat.lt_trichotomy i b with h | h | h
    · obtain ⟨d, rfl⟩ := Nat.exists_eq_add_of_lt h
      have e : 2 ^ (i + d + 1) = 2 ^ i * (2 * 2 ^ d) := by ring
      rw [e, Nat.add_mul_div_left _ _ (by positivity)]
      omega
    · subst h; omega
    · obtain ⟨d, rfl⟩ := Nat.exists_eq_add_of_lt h
      have e : 2 ^ (b + d + 1) = 2 ^ b * 2 * 2 ^ d := by ring
      rw [e, ← Nat.div_div_eq_div_mul, ← Nat.div_div_eq_div_mul] at hi ⊢
      have : (m + 2 ^ b) / 2 ^ b = m / 2 ^ b + 1 := by
        rw [Nat.add_div_right _ (by positivity)]
      rw [this]
      have : (m / 2 ^ b + 1) / 2 = m / 2 ^ b / 2 := by omega
      rw [this]; exact hi

theorem BitsStay_refl (m : Nat) : BitsStay m m := fun _ h => h

theorem burnSlots_stay (l : List Nat) (m : Nat) : BitsStay m (l.foldl (fun n b => burnSlot b n) m) := by
  induction l generalizing m with
  | nil => exact fun _ h => h
  | cons b r ih => exact fun i h => ih (burnSlot b m) i (burnSlot_stays b m i h)

end Sys2Proof.Laws
end

