-- ==== Sys2Proof/Laws/KeepsOps.lean ====
section
/-! SUPPORT. What every command keeps, for the operations of Machine/Ops.lean. -/

namespace Sys2Proof.Laws

open Sys2Proof.Machine Sys2Proof.Safety

theorem setReg_keeps {s0 : State} (a : Nat) (w : Word) (s : State) (h : Keeps s0 s) : Keeps s0 (setReg a w s) :=
  keeps_regs h (fun ⟨h1, h2, h3⟩ => ⟨CellsWf_set _ _ h1, h2, h3⟩)

theorem copyShadows_keeps {s0 : State} (pages : List Nat) (s : State) (h : Keeps s0 s) : Keeps s0 (copyShadows pages s) :=
  keeps_regs h (fun ⟨h1, h2, h3⟩ => ⟨h1, CellsWf_merge (CellsWf_filter _ h1).2 (CellsWf_filter _ h2), h3⟩)

theorem resetRegs_keeps {s0 : State} (ds : List Nat) (s : State) (h : Keeps s0 s) : Keeps s0 (resetRegs ds s) :=
  keeps_regs h (fun ⟨h1, h2, h3⟩ => ⟨CellsWf_filter _ h1, CellsWf_filter _ h2, aWf_filter _ h3⟩)

theorem setField_keeps {s0 : State} (a : Nat) (hi : Nat) (lo : Nat) (v : Nat) (s : State) (h : Keeps s0 s) :
    Keeps s0 (setField a hi lo v s) := by
  unfold setField
  try dsimp only
  repeat' (first
    | with_reducible assumption
    | with_reducible apply setReg_keeps)

theorem setReg64_keeps {s0 : State} (lo : Nat) (v : Int) (s : State) (h : Keeps s0 s) :
    Keeps s0 (setReg64 lo v s) := by
  unfold setReg64
  try dsimp only
  repeat' (first
    | with_reducible assumption
    | with_reducible apply setReg_keeps)

theorem draw_keeps {s0 : State} (s : State) (h : Keeps s0 s) :
    Keeps s0 (draw s) := by
  unfold draw
  try dsimp only
  repeat' (first
    | with_reducible assumption
    | with_reducible apply keeps_ite
    | with_reducible apply OutKeeps.next
    | fail_if_no_progress with_reducible refine keeps_mk ?_ (timeOn rfl rfl rfl rfl rfl))

theorem stRun_le (st next tb tbEnd : Int) {dv : Int} (h : 0 ≤ dv) : st ≤ stRun st next tb tbEnd dv := by
  unfold stRun
  split
  · rename_i hc
    have := Int.ediv_nonneg (Int.mul_nonneg h (Int.le_max_left 0 (next - st))) (Int.le_of_lt hc.1)
    omega
  · omega

theorem tbRun_ns (dt : Nat) (b : TimeBase) : b.ns ≤ (tbRun dt b).ns := Int.le_add_of_nonneg_right (Int.natCast_nonneg _)

theorem timeRun_on (dt : Nat) (s : State) : TimeOn s.time (timeRun dt s).time := by
  refine ⟨Nat.le_add_right _ _, fun m hm => ?_⟩
  by_cases hr : s.time.running = true
  · refine ⟨(timeRun dt s).time.st64, ?_, ?_⟩
    · have : (timeRun dt s).time.running = s.time.running := rfl
      simp only [showMark, this, hr, if_true]
    · have e : s.time.st64 = m := by simpa only [showMark, hr, if_true, Option.some.injEq] using hm
      subst e
      unfold timeRun
      dsimp only
      rw [if_neg (by simp [hr])]
      split
      · exact Int.le_add_of_nonneg_right (Int.natCast_nonneg _)
      · exact stRun_le _ _ _ _ (Int.sub_nonneg_of_le (tbRun_ns _ _))
  · refine ⟨m, ?_, Int.le_refl _⟩
    have : (timeRun dt s).time.running = s.time.running := rfl
    have hr' : s.time.running = false := by simpa using hr
    rw [showMark, this, hr', ← hm, showMark, hr']
    rfl

theorem timeRun_keeps {s0 : State} (dt : Nat) (s : State) (h : Keeps s0 s) : Keeps s0 (timeRun dt s) :=
  keeps_mk h (timeRun_on dt s)

theorem advance_keeps {s0 : State} (t : Nat) (s : State) (h : Keeps s0 s) :
    Keeps s0 (advance t s) := by
  unfold advance
  try dsimp only
  repeat' (first
    | with_reducible assumption
    | with_reducible apply timeRun_keeps
    | with_reducible apply keeps_ite)

theorem reach_keeps {s0 : State} (st : Int) (s : State) (h : Keeps s0 s) : Keeps s0 (reach st s) := by
  unfold reach
  split
  · exact h
  · rename_i hc
    have hr : s.time.running = true := by
      cases hx : s.time.running
      · exact absurd (Or.inl hx) hc
      · rfl
    dsimp only
    refine keeps_mk (t := s) h ⟨Nat.le_add_right _ _, fun m hm => ⟨max s.time.st64 st, ?_, ?_⟩⟩
    · have e : ∀ n, (timeRun n s).time.running = true := fun _ => hr
      simp only [showMark, e, if_true]
    · simp only [showMark, hr, if_true, Option.some.injEq] at hm
      subst hm
      exact Int.le_max_left _ _

theorem bumpBy_keeps {s0 : State} (a : Nat) (n : Nat) (s : State) (h : Keeps s0 s) :
    Keeps s0 (bumpBy a n s) := by
  unfold bumpBy
  try dsimp only
  repeat' (first
    | with_reducible assumption
    | with_reducible apply setReg_keeps)

theorem bump_keeps {s0 : State} (a : Nat) (s : State) (h : Keeps s0 s) :
    Keeps s0 (bump a s) := by
  unfold bump
  try dsimp only
  repeat' (first
    | with_reducible assumption
    | with_reducible apply bumpBy_keeps)

theorem bumpField_keeps {s0 : State} (a : Nat) (hi : Nat) (lo : Nat) (n : Nat) (s : State) (h : Keeps s0 s) :
    Keeps s0 (bumpField a hi lo n s) := by
  unfold bumpField
  try dsimp only
  repeat' (first
    | with_reducible assumption
    | with_reducible apply setField_keeps)

theorem setFlag_keeps {s0 : State} (a : Nat) (bit : Nat) (s : State) (h : Keeps s0 s) :
    Keeps s0 (setFlag a bit s) := by
  unfold setFlag
  try dsimp only
  repeat' (first
    | with_reducible assumption
    | with_reducible apply setReg_keeps)

theorem chkRun_keeps {s0 : State} (ch : Nat) (bs : List (BitVec 8)) (s : State) (h : Keeps s0 s) :
    Keeps s0 (chkRun ch bs s) := by
  unfold chkRun
  try dsimp only
  repeat' (first
    | with_reducible assumption
    | with_reducible apply setReg_keeps)

theorem tellerRun_keeps {s0 : State} (ch : Nat) (bs : List (BitVec 8)) (s : State) (h : Keeps s0 s) :
    Keeps s0 (tellerRun ch bs s) := by
  unfold tellerRun
  try dsimp only
  repeat' (first
    | with_reducible assumption
    | fail_if_no_progress with_reducible refine keeps_mk ?_ (timeOn rfl rfl rfl rfl rfl))

theorem modSess_keeps {s0 : State} (i : Nat) (f : Session → Session) (s : State) (h : Keeps s0 s) :
    Keeps s0 (modSess i f s) := by
  unfold modSess
  try dsimp only
  repeat' (first
    | with_reducible assumption
    | with_reducible apply keeps_ite
    | with_reducible apply OutKeeps.next
    | fail_if_no_progress with_reducible refine keeps_mk ?_ (timeOn rfl rfl rfl rfl rfl))

theorem modRings_keeps {s0 : State} (f : Rings → Rings) (s : State) (h : Keeps s0 s) :
    Keeps s0 (modRings f s) := by
  unfold modRings
  try dsimp only
  repeat' (first
    | with_reducible assumption
    | with_reducible apply keeps_ite
    | with_reducible apply OutKeeps.next
    | fail_if_no_progress with_reducible refine keeps_mk ?_ (timeOn rfl rfl rfl rfl rfl))

theorem ringResp_keeps {s0 : State} (r : Resp) (s : State) (h : Keeps s0 s) :
    Keeps s0 (ringResp r s) := by
  unfold ringResp
  try dsimp only
  repeat' (first
    | with_reducible assumption
    | with_reducible apply tellerRun_keeps
    | with_reducible apply modSess_keeps
    | with_reducible apply modRings_keeps
    | fail_if_no_progress with_reducible refine keeps_mk ?_ (timeOn rfl rfl rfl rfl rfl))

theorem writeResp_keeps {s0 : State} (i : Fin 5) (r : Resp) (s : State) (h : Keeps s0 s) :
    Keeps s0 (writeResp i r s) := by
  unfold writeResp
  try dsimp only
  repeat' (first
    | with_reducible assumption
    | with_reducible apply tellerRun_keeps
    | with_reducible apply modSess_keeps
    | with_reducible apply ringResp_keeps
    | with_reducible apply keeps_ite
    | fail_if_no_progress with_reducible refine keeps_mk ?_ (timeOn rfl rfl rfl rfl rfl))

theorem timeResponse_keeps {s0 : State} (c : Call) (x : Session) (s : State) (h : Keeps s0 s) :
    Keeps s0 (timeResponse c x s) := by
  unfold timeResponse
  try dsimp only
  repeat' (first
    | with_reducible assumption
    | with_reducible apply setReg_keeps
    | with_reducible apply keeps_ite)

theorem respond_keeps {s0 : State} (code : Nat) (c : Call) (p : Reply) (s : State) (h : Keeps s0 s) :
    Keeps s0 (respond code c p s) := by
  unfold respond
  try dsimp only
  repeat' (first
    | with_reducible assumption
    | with_reducible apply modSess_keeps
    | with_reducible apply writeResp_keeps
    | with_reducible apply timeResponse_keeps
    | with_reducible apply keeps_ite)

theorem respondFinal_keeps {s0 : State} (code : Nat) (c : Call) (p : Reply) (s : State) (h : Keeps s0 s) :
    Keeps s0 (respondFinal code c p s) := by
  unfold respondFinal
  try dsimp only
  repeat' (first
    | with_reducible assumption
    | with_reducible apply modSess_keeps
    | with_reducible apply writeResp_keeps
    | with_reducible apply keeps_ite
    | fail_if_no_progress with_reducible refine keeps_mk ?_ (timeOn rfl rfl rfl rfl rfl))

theorem respondOwed_keeps {s0 : State} (code : Nat) (owed : Option Call) (p : Reply) (s : State) (h : Keeps s0 s) :
    Keeps s0 (respondOwed code owed p s) := by
  unfold respondOwed
  try dsimp only
  repeat' (first
    | with_reducible assumption
    | with_reducible apply respond_keeps
    | with_reducible apply respondFinal_keeps
    | with_reducible apply keeps_ite
    | (intro _ _)
    | dsimp only
    | split)

theorem noticeRun_keeps {s0 : State} (i : Fin 5) (n : Notice) (s : State) (h : Keeps s0 s) :
    Keeps s0 (noticeRun i n s) := by
  unfold noticeRun
  try dsimp only
  repeat' (first
    | with_reducible assumption
    | with_reducible apply tellerRun_keeps
    | fail_if_no_progress with_reducible refine keeps_mk ?_ (timeOn rfl rfl rfl rfl rfl))

theorem ringNotice_keeps {s0 : State} (n : Notice) (i : Fin 5) (s : State) (h : Keeps s0 s) :
    Keeps s0 (ringNotice n i s) := by
  unfold ringNotice
  try dsimp only
  repeat' (first
    | with_reducible assumption
    | with_reducible apply bump_keeps
    | with_reducible apply modSess_keeps
    | with_reducible apply modRings_keeps
    | with_reducible apply noticeRun_keeps
    | fail_if_no_progress with_reducible refine keeps_mk ?_ (timeOn rfl rfl rfl rfl rfl))

theorem notifyTo_keeps {s0 : State} (n : Notice) (s : State) (i : Fin 5) (h : Keeps s0 s) :
    Keeps s0 (notifyTo n s i) := by
  unfold notifyTo
  try dsimp only
  repeat' (first
    | with_reducible assumption
    | with_reducible apply bump_keeps
    | with_reducible apply setFlag_keeps
    | with_reducible apply modSess_keeps
    | with_reducible apply noticeRun_keeps
    | with_reducible apply ringNotice_keeps
    | with_reducible apply keeps_ite
    | fail_if_no_progress with_reducible refine keeps_mk ?_ (timeOn rfl rfl rfl rfl rfl))

theorem notify_keeps {s0 : State} (code : Nat) (len : Nat) (fields : List Int) (s : State) (h : Keeps s0 s) :
    Keeps s0 (notify code len fields s) := by
  unfold notify
  try dsimp only
  repeat' (first
    | with_reducible assumption
    | with_reducible apply notifyTo_keeps
    | (with_reducible apply keeps_foldl; intro _ _ _)
    | with_reducible apply keeps_ite
    | with_reducible apply OutKeeps.next
    | fail_if_no_progress with_reducible refine keeps_mk ?_ (timeOn rfl rfl rfl rfl rfl))

theorem ledgerEvent_keeps {s0 : State} (code : Nat) (fields : List Int) (s : State) (h : Keeps s0 s) :
    Keeps s0 (ledgerEvent code fields s) := by
  unfold ledgerEvent
  try dsimp only
  repeat' (first
    | with_reducible assumption
    | with_reducible apply keeps_ite
    | with_reducible apply OutKeeps.next
    | fail_if_no_progress with_reducible refine keeps_mk ?_ (timeOn rfl rfl rfl rfl rfl))

theorem internalAnswer_keeps {s0 : State} (code : Nat) (owed : Option Call) (s : State) (h : Keeps s0 s) :
    Keeps s0 (internalAnswer code owed s) := by
  unfold internalAnswer
  try dsimp only
  repeat' (first
    | with_reducible assumption
    | with_reducible apply draw_keeps
    | with_reducible apply respondOwed_keeps
    | with_reducible apply ledgerEvent_keeps)

theorem commandLater_keeps {s0 : State} (code : Nat) (c : Call) (s : State) (body : State → State × Option Reply) (h : Keeps s0 s)
    (hb : ∀ x, Keeps s0 x → Keeps s0 (body x).1) : OutKeeps s0 (commandLater code c s body) := by
  have h1 := advance_keeps c.t s h
  unfold commandLater
  dsimp only
  repeat' split
  all_goals apply OutKeeps.next
  all_goals first | exact h1 | exact hb _ h1 | exact respond_keeps _ _ _ _ h1 | exact respond_keeps _ _ _ _ (hb _ h1)

theorem command_keeps {s0 : State} (code : Nat) (c : Call) (s : State) (body : State → State × Reply) (h : Keeps s0 s)
    (hb : ∀ x, Keeps s0 x → Keeps s0 (body x).1) : OutKeeps s0 (command code c s body) :=
  commandLater_keeps code c s _ h hb

theorem refuse_keeps {s0 : State} (st : Status) (s : State) (h : Keeps s0 s) :
    Keeps s0 (refuse st s).1 := by
  unfold refuse
  try dsimp only
  repeat' (first
    | with_reducible assumption)

theorem accept_keeps {s0 : State} (s : State) (h : Keeps s0 s) :
    Keeps s0 (accept s).1 := by
  unfold accept
  try dsimp only
  repeat' (first
    | with_reducible assumption)

theorem answer_keeps {s0 : State} (len : Nat) (fields : List Int) (s : State) (h : Keeps s0 s) :
    Keeps s0 (answer len fields s).1 := by
  unfold answer
  try dsimp only
  repeat' (first
    | with_reducible assumption)

end Sys2Proof.Laws
end

