-- ==== Sys2Proof/Laws/Only.lean ====
section
/-! SUPPORT. The rules by which it is shown that a composition changes no component but those listed. -/

namespace Sys2Proof.Laws

open Sys2Proof.Machine Sys2Proof.Safety

theorem same_refl (c : Comp) (s : State) : Same c s s := by
  cases c <;> rfl

theorem same_trans {c : Comp} {s t u : State} (h : Same c s t) (g : Same c t u) : Same c s u := by
  cases c <;> exact Eq.trans g h

theorem only_refl (l : List Comp) (s : State) : Only l s s := ⟨rfl, rfl, fun c _ => same_refl c s⟩

theorem only_trans {l : List Comp} {s t u : State} (h : Only l s t) (g : Only l t u) : Only l s u :=
  ⟨g.1.trans h.1, g.2.1.trans h.2.1, fun c hc => same_trans (h.2.2 c hc) (g.2.2 c hc)⟩

theorem only_mono {k l : List Comp} {s t : State} (h : Only k s t) (hk : k ⊆ l) : Only l s t :=
  ⟨h.1, h.2.1, fun c hc => h.2.2 c (fun hx => hc (hk hx))⟩

/-- One more operation, whose components are among those allowed. -/
theorem only_step {k l : List Comp} {s t u : State} (h : Only l s t) (g : Only k t u) (hk : k ⊆ l) : Only l s u := only_trans h (only_mono g hk)

/-- A change of some fields of a state. -/
theorem only_mk {k l : List Comp} {s t : State} {regs free time teller power alm fifos protect vin record cfgA cfgB cmp ras fxm pho pool lanes lamps mac pkt dmx rad esc map cal vlt lgr}
    (h : Only l s t) (hk : k ⊆ l)
    (g : ∀ c, c ∉ k → Same c t ⟨t.part, regs, free, time, teller, power, t.pending, alm, fifos, protect, vin, record, cfgA, cfgB, cmp, ras, fxm, pho, pool, lanes, lamps, mac, pkt, dmx, rad, esc, map, cal, vlt, lgr⟩) :
    Only l s ⟨t.part, regs, free, time, teller, power, t.pending, alm, fifos, protect, vin, record, cfgA, cfgB, cmp, ras, fxm, pho, pool, lanes, lamps, mac, pkt, dmx, rad, esc, map, cal, vlt, lgr⟩ :=
  only_trans h (only_mono ⟨rfl, rfl, g⟩ hk)

theorem only_ite {l : List Comp} {s : State} {c : Prop} [Decidable c] {a b : State} (ha : Only l s a) (hb : Only l s b) :
    Only l s (if c then a else b) := by
  split <;> assumption

theorem only_ite_fst {α : Type} {l : List Comp} {s : State} {c : Prop} [Decidable c] {a b : State × α} (ha : Only l s a.1) (hb : Only l s b.1) :
    Only l s (if c then a else b).1 := by
  split <;> assumption

theorem only_foldl {α : Type} {l : List Comp} {s0 : State} {g : State → α → State} {xs : List α} {s : State}
    (h : Only l s0 s) (hg : ∀ x a, Only l s0 x → Only l s0 (g x a)) : Only l s0 (xs.foldl g s) := by
  induction xs generalizing s with
  | nil => exact h
  | cons a r ih => exact ih (hg s a h)

theorem only_foldl_fst {α β : Type} {l : List Comp} {s0 : State} {g : State × β → α → State × β} {xs : List α} {p : State × β}
    (h : Only l s0 p.1) (hg : ∀ x a, Only l s0 x.1 → Only l s0 (g x a).1) : Only l s0 (xs.foldl g p).1 := by
  induction xs generalizing p with
  | nil => exact h
  | cons a r ih => exact ih (hg p a h)

/-- The same of the next state of an outcome. -/
structure OutOnly (l : List Comp) (s : State) (o : Out) : Prop where
  only : ∀ t, o = .next t → Only l s t

theorem OutOnly.next {l : List Comp} {s t : State} (h : Only l s t) : OutOnly l s (.next t) :=
  ⟨fun u hu => by cases hu; exact h⟩

theorem OutOnly.ite {l : List Comp} {s : State} {c : Prop} [Decidable c] {a b : Out} (ha : OutOnly l s a) (hb : OutOnly l s b) :
    OutOnly l s (if c then a else b) := by
  split <;> assumption

end Sys2Proof.Laws
end

