-- ==== Sys2Proof/Laws/OnlyOps.lean ====
section
/-! SUPPORT. Which components of the machine the operations of Machine/Ops.lean may change. -/

namespace Sys2Proof.Laws

open Sys2Proof.Machine Sys2Proof.Safety

theorem setReg_only {l_ : List Comp} {s0_ : State} {a : Nat} {w : Word} {s : State} (hl_ : [Comp.regs] ⊆ l_)
    (h_ : Only l_ s0_ s) : Only l_ s0_ (setReg a w s) := by
  unfold setReg
  try dsimp only
  repeat' (first
    | with_reducible exact h_
    | with_reducible exact hl_
    | with_reducible apply only_ite
    | fail_if_no_progress ((with_reducible refine only_mk (k := [.regs]) ?_ ?_ ?lit); case lit => exact fun c hc => by cases c <;> first | with_reducible rfl | exact absurd (by decide) hc))

theorem copyShadows_only {l_ : List Comp} {s0_ : State} {pages : List Nat} {s : State} (hl_ : [Comp.regs] ⊆ l_)
    (h_ : Only l_ s0_ s) : Only l_ s0_ (copyShadows pages s) := by
  unfold copyShadows
  try dsimp only
  repeat' (first
    | with_reducible exact h_
    | with_reducible exact hl_
    | with_reducible assumption
    | with_reducible refine only_foldl ?_ (fun _ _ _ => ?_)
    | with_reducible apply only_ite
    | fail_if_no_progress ((with_reducible refine only_mk (k := [.regs]) ?_ ?_ ?lit); case lit => exact fun c hc => by cases c <;> first | with_reducible rfl | exact absurd (by decide) hc))

theorem resetRegs_only {l_ : List Comp} {s0_ : State} {ds : List Nat} {s : State} (hl_ : [Comp.regs] ⊆ l_)
    (h_ : Only l_ s0_ s) : Only l_ s0_ (resetRegs ds s) := by
  unfold resetRegs
  try dsimp only
  repeat' (first
    | with_reducible exact h_
    | with_reducible exact hl_
    | with_reducible apply only_ite
    | fail_if_no_progress ((with_reducible refine only_mk (k := [.regs]) ?_ ?_ ?lit); case lit => exact fun c hc => by cases c <;> first | with_reducible rfl | exact absurd (by decide) hc))

theorem setField_only {l_ : List Comp} {s0_ : State} {a : Nat} {hi : Nat} {lo : Nat} {v : Nat} {s : State} (hl_ : [Comp.regs] ⊆ l_)
    (h_ : Only l_ s0_ s) : Only l_ s0_ (setField a hi lo v s) := by
  unfold setField
  try dsimp only
  repeat' (first
    | with_reducible exact h_
    | with_reducible exact hl_
    | with_reducible apply setReg_only)

theorem setReg64_only {l_ : List Comp} {s0_ : State} {lo : Nat} {v : Int} {s : State} (hl_ : [Comp.regs] ⊆ l_)
    (h_ : Only l_ s0_ s) : Only l_ s0_ (setReg64 lo v s) := by
  unfold setReg64
  try dsimp only
  repeat' (first
    | with_reducible exact h_
    | with_reducible exact hl_
    | with_reducible apply setReg_only)

theorem draw_only {l_ : List Comp} {s0_ : State} {s : State} (hl_ : [Comp.free] ⊆ l_)
    (h_ : Only l_ s0_ s) : Only l_ s0_ (draw s) := by
  unfold draw
  try dsimp only
  repeat' (first
    | with_reducible exact h_
    | with_reducible exact hl_
    | with_reducible apply only_ite
    | fail_if_no_progress ((with_reducible refine only_mk (k := [.free]) ?_ ?_ ?lit); case lit => exact fun c hc => by cases c <;> first | with_reducible rfl | exact absurd (by decide) hc))

theorem timeRun_only {l_ : List Comp} {s0_ : State} {dt : Nat} {s : State} (hl_ : [Comp.time] ⊆ l_)
    (h_ : Only l_ s0_ s) : Only l_ s0_ (timeRun dt s) := by
  unfold timeRun
  try dsimp only
  repeat' (first
    | with_reducible exact h_
    | with_reducible exact hl_
    | with_reducible apply only_ite
    | fail_if_no_progress ((with_reducible refine only_mk (k := [.time]) ?_ ?_ ?lit); case lit => exact fun c hc => by cases c <;> first | with_reducible rfl | exact absurd (by decide) hc))

theorem advance_only {l_ : List Comp} {s0_ : State} {t : Nat} {s : State} (hl_ : [Comp.time] ⊆ l_)
    (h_ : Only l_ s0_ s) : Only l_ s0_ (advance t s) := by
  unfold advance
  try dsimp only
  repeat' (first
    | with_reducible exact h_
    | with_reducible exact hl_
    | with_reducible apply timeRun_only
    | with_reducible apply only_ite)

theorem reach_only {l_ : List Comp} {s0_ : State} {st : Int} {s : State} (hl_ : [Comp.time] ⊆ l_)
    (h_ : Only l_ s0_ s) : Only l_ s0_ (reach st s) := by
  unfold reach
  try dsimp only
  repeat' (first
    | with_reducible exact h_
    | with_reducible exact hl_
    | with_reducible apply timeRun_only
    | with_reducible apply only_ite
    | exact List.Subset.trans (by decide) hl_
    | fail_if_no_progress ((with_reducible refine only_mk (k := [.time]) ?_ ?_ ?lit); case lit => exact fun c hc => by cases c <;> first | with_reducible rfl | exact absurd (by decide) hc))

theorem bumpBy_only {l_ : List Comp} {s0_ : State} {a : Nat} {n : Nat} {s : State} (hl_ : [Comp.regs] ⊆ l_)
    (h_ : Only l_ s0_ s) : Only l_ s0_ (bumpBy a n s) := by
  unfold bumpBy
  try dsimp only
  repeat' (first
    | with_reducible exact h_
    | with_reducible exact hl_
    | with_reducible apply setReg_only)

theorem bump_only {l_ : List Comp} {s0_ : State} {a : Nat} {s : State} (hl_ : [Comp.regs] ⊆ l_)
    (h_ : Only l_ s0_ s) : Only l_ s0_ (bump a s) := by
  unfold bump
  try dsimp only
  repeat' (first
    | with_reducible exact h_
    | with_reducible exact hl_
    | with_reducible apply bumpBy_only)

theorem bumpField_only {l_ : List Comp} {s0_ : State} {a : Nat} {hi : Nat} {lo : Nat} {n : Nat} {s : State} (hl_ : [Comp.regs] ⊆ l_)
    (h_ : Only l_ s0_ s) : Only l_ s0_ (bumpField a hi lo n s) := by
  unfold bumpField
  try dsimp only
  repeat' (first
    | with_reducible exact h_
    | with_reducible exact hl_
    | with_reducible apply setField_only)

theorem setFlag_only {l_ : List Comp} {s0_ : State} {a : Nat} {bit : Nat} {s : State} (hl_ : [Comp.regs] ⊆ l_)
    (h_ : Only l_ s0_ s) : Only l_ s0_ (setFlag a bit s) := by
  unfold setFlag
  try dsimp only
  repeat' (first
    | with_reducible exact h_
    | with_reducible exact hl_
    | with_reducible apply setReg_only)

theorem chkRun_only {l_ : List Comp} {s0_ : State} {ch : Nat} {bs : List (BitVec 8)} {s : State} (hl_ : [Comp.regs] ⊆ l_)
    (h_ : Only l_ s0_ s) : Only l_ s0_ (chkRun ch bs s) := by
  unfold chkRun
  try dsimp only
  repeat' (first
    | with_reducible exact h_
    | with_reducible exact hl_
    | with_reducible apply setReg_only
    | exact List.Subset.trans (by decide) hl_)

theorem tellerRun_only {l_ : List Comp} {s0_ : State} {ch : Nat} {bs : List (BitVec 8)} {s : State} (hl_ : [Comp.teller] ⊆ l_)
    (h_ : Only l_ s0_ s) : Only l_ s0_ (tellerRun ch bs s) := by
  unfold tellerRun
  try dsimp only
  repeat' (first
    | with_reducible exact h_
    | with_reducible exact hl_
    | exact List.Subset.trans (by decide) hl_
    | fail_if_no_progress ((with_reducible refine only_mk (k := [.teller]) ?_ ?_ ?lit); case lit => exact fun c hc => by cases c <;> first | with_reducible rfl | exact absurd (by decide) hc))

theorem modSess_only {l_ : List Comp} {s0_ : State} {i : Nat} {f : Session → Session} {s : State} (hl_ : [Comp.teller] ⊆ l_)
    (h_ : Only l_ s0_ s) : Only l_ s0_ (modSess i f s) := by
  unfold modSess
  try dsimp only
  repeat' (first
    | with_reducible exact h_
    | with_reducible exact hl_
    | with_reducible apply only_ite
    | fail_if_no_progress ((with_reducible refine only_mk (k := [.teller]) ?_ ?_ ?lit); case lit => exact fun c hc => by cases c <;> first | with_reducible rfl | exact absurd (by decide) hc))

theorem modRings_only {l_ : List Comp} {s0_ : State} {f : Rings → Rings} {s : State} (hl_ : [Comp.teller] ⊆ l_)
    (h_ : Only l_ s0_ s) : Only l_ s0_ (modRings f s) := by
  unfold modRings
  try dsimp only
  repeat' (first
    | with_reducible exact h_
    | with_reducible exact hl_
    | with_reducible apply only_ite
    | fail_if_no_progress ((with_reducible refine only_mk (k := [.teller]) ?_ ?_ ?lit); case lit => exact fun c hc => by cases c <;> first | with_reducible rfl | exact absurd (by decide) hc))

theorem ringResp_only {l_ : List Comp} {s0_ : State} {r : Resp} {s : State} (hl_ : [Comp.teller] ⊆ l_)
    (h_ : Only l_ s0_ s) : Only l_ s0_ (ringResp r s) := by
  unfold ringResp
  try dsimp only
  repeat' (first
    | with_reducible exact h_
    | with_reducible exact hl_
    | with_reducible apply tellerRun_only
    | with_reducible apply modSess_only
    | with_reducible apply modRings_only
    | exact List.Subset.trans (by decide) hl_)

theorem writeResp_only {l_ : List Comp} {s0_ : State} {i : Fin 5} {r : Resp} {s : State} (hl_ : [Comp.teller] ⊆ l_)
    (h_ : Only l_ s0_ s) : Only l_ s0_ (writeResp i r s) := by
  unfold writeResp
  try dsimp only
  repeat' (first
    | with_reducible exact h_
    | with_reducible exact hl_
    | with_reducible apply tellerRun_only
    | with_reducible apply modSess_only
    | with_reducible apply ringResp_only
    | with_reducible apply only_ite
    | exact List.Subset.trans (by decide) hl_)

theorem timeResponse_only {l_ : List Comp} {s0_ : State} {c : Call} {x : Session} {s : State} (hl_ : [Comp.regs] ⊆ l_)
    (h_ : Only l_ s0_ s) : Only l_ s0_ (timeResponse c x s) := by
  unfold timeResponse
  try dsimp only
  repeat' (first
    | with_reducible exact h_
    | with_reducible exact hl_
    | with_reducible apply setReg_only
    | with_reducible apply only_ite
    | exact List.Subset.trans (by decide) hl_)

theorem respond_only {l_ : List Comp} {s0_ : State} {code : Nat} {c : Call} {p : Reply} {s : State} (hl_ : [Comp.regs, .teller] ⊆ l_)
    (h_ : Only l_ s0_ s) : Only l_ s0_ (respond code c p s) := by
  unfold respond
  try dsimp only
  repeat' (first
    | with_reducible exact h_
    | with_reducible exact hl_
    | with_reducible apply modSess_only
    | with_reducible apply writeResp_only
    | with_reducible apply timeResponse_only
    | with_reducible apply only_ite
    | exact List.Subset.trans (by decide) hl_)

theorem respondFinal_only {l_ : List Comp} {s0_ : State} {code : Nat} {c : Call} {p : Reply} {s : State} (hl_ : [Comp.teller] ⊆ l_)
    (h_ : Only l_ s0_ s) : Only l_ s0_ (respondFinal code c p s) := by
  unfold respondFinal
  try dsimp only
  repeat' (first
    | with_reducible exact h_
    | with_reducible exact hl_
    | with_reducible apply modSess_only
    | with_reducible apply writeResp_only
    | with_reducible apply only_ite
    | exact List.Subset.trans (by decide) hl_)

theorem respondOwed_only {l_ : List Comp} {s0_ : State} {code : Nat} {owed : Option Call} {p : Reply} {s : State} (hl_ : [Comp.regs, .teller] ⊆ l_)
    (h_ : Only l_ s0_ s) : Only l_ s0_ (respondOwed code owed p s) := by
  unfold respondOwed
  try dsimp only
  repeat' (first
    | with_reducible exact h_
    | with_reducible exact hl_
    | with_reducible apply respond_only
    | with_reducible apply respondFinal_only
    | with_reducible apply only_ite
    | exact List.Subset.trans (by decide) hl_
    | dsimp only
    | split)

theorem noticeRun_only {l_ : List Comp} {s0_ : State} {i : Fin 5} {n : Notice} {s : State} (hl_ : [Comp.teller] ⊆ l_)
    (h_ : Only l_ s0_ s) : Only l_ s0_ (noticeRun i n s) := by
  unfold noticeRun
  try dsimp only
  repeat' (first
    | with_reducible exact h_
    | with_reducible exact hl_
    | with_reducible apply tellerRun_only
    | exact List.Subset.trans (by decide) hl_)

theorem ringNotice_only {l_ : List Comp} {s0_ : State} {n : Notice} {i : Fin 5} {s : State} (hl_ : [Comp.regs, .teller] ⊆ l_)
    (h_ : Only l_ s0_ s) : Only l_ s0_ (ringNotice n i s) := by
  unfold ringNotice
  try dsimp only
  repeat' (first
    | with_reducible exact h_
    | with_reducible exact hl_
    | with_reducible apply bump_only
    | with_reducible apply modSess_only
    | with_reducible apply modRings_only
    | with_reducible apply noticeRun_only
    | exact List.Subset.trans (by decide) hl_)

theorem notifyTo_only {l_ : List Comp} {s0_ : State} {n : Notice} {s : State} {i : Fin 5} (hl_ : [Comp.regs, .teller] ⊆ l_)
    (h_ : Only l_ s0_ s) : Only l_ s0_ (notifyTo n s i) := by
  unfold notifyTo
  try dsimp only
  repeat' (first
    | with_reducible exact h_
    | with_reducible exact hl_
    | with_reducible apply bump_only
    | with_reducible apply setFlag_only
    | with_reducible apply modSess_only
    | with_reducible apply noticeRun_only
    | with_reducible apply ringNotice_only
    | with_reducible apply only_ite
    | exact List.Subset.trans (by decide) hl_)

theorem notify_only {l_ : List Comp} {s0_ : State} {code : Nat} {len : Nat} {fields : List Int} {s : State} (hl_ : [Comp.regs, .teller] ⊆ l_)
    (h_ : Only l_ s0_ s) : Only l_ s0_ (notify code len fields s) := by
  unfold notify
  try dsimp only
  repeat' (first
    | with_reducible exact h_
    | with_reducible exact hl_
    | with_reducible assumption
    | with_reducible apply notifyTo_only
    | with_reducible refine only_foldl ?_ (fun _ _ _ => ?_)
    | with_reducible apply only_ite
    | exact List.Subset.trans (by decide) hl_
    | fail_if_no_progress ((with_reducible refine only_mk (k := [.teller]) ?_ ?_ ?lit); case lit => exact fun c hc => by cases c <;> first | with_reducible rfl | exact absurd (by decide) hc))

theorem ledgerEvent_only {l_ : List Comp} {s0_ : State} {code : Nat} {fields : List Int} {s : State} (hl_ : [Comp.teller] ⊆ l_)
    (h_ : Only l_ s0_ s) : Only l_ s0_ (ledgerEvent code fields s) := by
  unfold ledgerEvent
  try dsimp only
  repeat' (first
    | with_reducible exact h_
    | with_reducible exact hl_
    | with_reducible apply only_ite
    | fail_if_no_progress ((with_reducible refine only_mk (k := [.teller]) ?_ ?_ ?lit); case lit => exact fun c hc => by cases c <;> first | with_reducible rfl | exact absurd (by decide) hc))

theorem internalAnswer_only {l_ : List Comp} {s0_ : State} {code : Nat} {owed : Option Call} {s : State} (hl_ : [Comp.regs, .free, .teller] ⊆ l_)
    (h_ : Only l_ s0_ s) : Only l_ s0_ (internalAnswer code owed s) := by
  unfold internalAnswer
  try dsimp only
  repeat' (first
    | with_reducible exact h_
    | with_reducible exact hl_
    | with_reducible apply draw_only
    | with_reducible apply respondOwed_only
    | with_reducible apply ledgerEvent_only
    | with_reducible apply only_ite
    | exact List.Subset.trans (by decide) hl_)

theorem commandLater_only {l_ : List Comp} {s0_ : State} {code : Nat} {c : Call} {s : State} {body : State → State × Option Reply}
    (hl_ : [Comp.regs, .time, .teller] ⊆ l_) (h_ : Only l_ s0_ s) (hb : ∀ x, Only l_ s0_ x → Only l_ s0_ (body x).1) :
    OutOnly l_ s0_ (commandLater code c s body) := by
  have h1 : Only l_ s0_ (advance c.t s) := advance_only (List.Subset.trans (by decide) hl_) h_
  have hr : ∀ {y : State} (p : Reply), Only l_ s0_ y → Only l_ s0_ (respond code c p y) := fun p h =>
    respond_only (List.Subset.trans (by decide) hl_) h
  unfold commandLater
  dsimp only
  repeat' split
  all_goals apply OutOnly.next
  all_goals first | exact h1 | exact hb _ h1 | exact hr _ h1 | exact hr _ (hb _ h1)

theorem command_only {l_ : List Comp} {s0_ : State} {code : Nat} {c : Call} {s : State} {body : State → State × Reply}
    (hl_ : [Comp.regs, .time, .teller] ⊆ l_) (h_ : Only l_ s0_ s) (hb : ∀ x, Only l_ s0_ x → Only l_ s0_ (body x).1) :
    OutOnly l_ s0_ (command code c s body) :=
  commandLater_only hl_ h_ hb

theorem refuse_only {l_ : List Comp} {s0_ : State} {st : Status} {s : State} (hl_ : [] ⊆ l_)
    (h_ : Only l_ s0_ s) : Only l_ s0_ (refuse st s).1 := by
  unfold refuse
  try dsimp only
  repeat' (first
    | with_reducible exact h_)

theorem accept_only {l_ : List Comp} {s0_ : State} {s : State} (hl_ : [] ⊆ l_)
    (h_ : Only l_ s0_ s) : Only l_ s0_ (accept s).1 := by
  unfold accept
  try dsimp only
  repeat' (first
    | with_reducible exact h_)

theorem answer_only {l_ : List Comp} {s0_ : State} {len : Nat} {fields : List Int} {s : State} (hl_ : [] ⊆ l_)
    (h_ : Only l_ s0_ s) : Only l_ s0_ (answer len fields s).1 := by
  unfold answer
  try dsimp only
  repeat' (first
    | with_reducible exact h_)

end Sys2Proof.Laws
end

