-- ==== Sys2Proof/Laws/Command.lean ====
section
/-! SUPPORT. What the shared operations of a command do: the clock's advance, a register written, a response given, a command executed. -/

namespace Sys2Proof.Laws

open Sys2Proof.Machine Sys2Proof.Safety

/-! The clock. -/

@[simp] theorem timeRun_now (dt : Nat) (s : State) : (timeRun dt s).time.now = s.time.now + dt := rfl

/-- The clock runs on to the instant, and never back. -/
@[simp] theorem advance_now (t : Nat) (s : State) : (advance t s).time.now = max t s.time.now := by
  unfold advance
  split
  · omega
  · rw [timeRun_now]
    omega

theorem advance_only' (t : Nat) (s : State) : Only [.time] s (advance t s) := advance_only (List.Subset.refl _) (only_refl _ _)

theorem advance_eq (t : Nat) (s : State) : advance t s = { s with time := (advance t s).time } := by
  unfold advance
  split <;> rfl

@[simp] theorem advance_part (t : Nat) (s : State) : (advance t s).part = s.part := by rw [advance_eq]
@[simp] theorem advance_pending (t : Nat) (s : State) : (advance t s).pending = s.pending := by rw [advance_eq]
@[simp] theorem advance_regs (t : Nat) (s : State) : (advance t s).regs = s.regs := by rw [advance_eq]
@[simp] theorem advance_free (t : Nat) (s : State) : (advance t s).free = s.free := by rw [advance_eq]
@[simp] theorem advance_teller (t : Nat) (s : State) : (advance t s).teller = s.teller := by rw [advance_eq]
@[simp] theorem advance_power (t : Nat) (s : State) : (advance t s).power = s.power := by rw [advance_eq]
@[simp] theorem advance_alm (t : Nat) (s : State) : (advance t s).alm = s.alm := by rw [advance_eq]
@[simp] theorem advance_fifos (t : Nat) (s : State) : (advance t s).fifos = s.fifos := by rw [advance_eq]
@[simp] theorem advance_protect (t : Nat) (s : State) : (advance t s).protect = s.protect := by rw [advance_eq]
@[simp] theorem advance_vin (t : Nat) (s : State) : (advance t s).vin = s.vin := by rw [advance_eq]
@[simp] theorem advance_record (t : Nat) (s : State) : (advance t s).record = s.record := by rw [advance_eq]
@[simp] theorem advance_cfgA (t : Nat) (s : State) : (advance t s).cfgA = s.cfgA := by rw [advance_eq]
@[simp] theorem advance_cfgB (t : Nat) (s : State) : (advance t s).cfgB = s.cfgB := by rw [advance_eq]
@[simp] theorem advance_cmp (t : Nat) (s : State) : (advance t s).cmp = s.cmp := by rw [advance_eq]
@[simp] theorem advance_ras (t : Nat) (s : State) : (advance t s).ras = s.ras := by rw [advance_eq]
@[simp] theorem advance_fxm (t : Nat) (s : State) : (advance t s).fxm = s.fxm := by rw [advance_eq]
@[simp] theorem advance_pho (t : Nat) (s : State) : (advance t s).pho = s.pho := by rw [advance_eq]
@[simp] theorem advance_pool (t : Nat) (s : State) : (advance t s).pool = s.pool := by rw [advance_eq]
@[simp] theorem advance_lanes (t : Nat) (s : State) : (advance t s).lanes = s.lanes := by rw [advance_eq]
@[simp] theorem advance_lamps (t : Nat) (s : State) : (advance t s).lamps = s.lamps := by rw [advance_eq]
@[simp] theorem advance_mac (t : Nat) (s : State) : (advance t s).mac = s.mac := by rw [advance_eq]
@[simp] theorem advance_pkt (t : Nat) (s : State) : (advance t s).pkt = s.pkt := by rw [advance_eq]
@[simp] theorem advance_dmx (t : Nat) (s : State) : (advance t s).dmx = s.dmx := by rw [advance_eq]
@[simp] theorem advance_rad (t : Nat) (s : State) : (advance t s).rad = s.rad := by rw [advance_eq]
@[simp] theorem advance_esc (t : Nat) (s : State) : (advance t s).esc = s.esc := by rw [advance_eq]
@[simp] theorem advance_map (t : Nat) (s : State) : (advance t s).map = s.map := by rw [advance_eq]
@[simp] theorem advance_cal (t : Nat) (s : State) : (advance t s).cal = s.cal := by rw [advance_eq]
@[simp] theorem advance_vlt (t : Nat) (s : State) : (advance t s).vlt = s.vlt := by rw [advance_eq]
@[simp] theorem advance_lgr (t : Nat) (s : State) : (advance t s).lgr = s.lgr := by rw [advance_eq]
@[simp] theorem advance_running (t : Nat) (s : State) : (advance t s).time.running = s.time.running := by
  unfold advance
  split <;> rfl

@[simp] theorem advance_reg (t : Nat) (s : State) (a : Nat) : reg (advance t s) a = reg s a := by simp [reg]
@[simp] theorem advance_regN (t : Nat) (s : State) (a : Nat) : regN (advance t s) a = regN s a := by simp [regN]
@[simp] theorem advance_sess (t : Nat) (s : State) (i : Nat) : sess (advance t s) i = sess s i := by simp [sess]
@[simp] theorem advance_tellerRuns (t : Nat) (s : State) : tellerRuns (advance t s) = tellerRuns s := by simp [tellerRuns]
@[simp] theorem advance_domState (t : Nat) (s : State) (d : Nat) : domState (advance t s) d = domState s d := by simp [domState]
@[simp] theorem advance_domainUp (t : Nat) (s : State) (d : Nat) : domainUp (advance t s) d = domainUp s d := by simp [domainUp]
@[simp] theorem advance_codeReady (t : Nat) (s : State) (code : Nat) : codeReady (advance t s) code = codeReady s code := by
  unfold codeReady
  split <;> simp

/-! Registers. -/

/-- The register written reads the word, every other as before. -/
theorem reg_setReg {s : State} (h : RegsWf s.regs) (a : Nat) (w : Word) (b : Nat) : reg (setReg a w s) b = if a = b then w else reg s b :=
  aFind_cellSet h.1.1 a w b

theorem setReg_wf {s : State} (h : RegsWf s.regs) (a : Nat) (w : Word) : RegsWf (setReg a w s).regs :=
  (setReg_keeps a w s (Keeps.refl s)).regs h

theorem regsWf_of {s t : State} (k : Keeps s t) (h : RegsWf s.regs) : RegsWf t.regs := k.regs h

/-! Vectors. -/

theorem vGet_vMod {α : Type} {n : Nat} (v : Vector α n) (i j : Nat) (f : α → α) (d : α) (hj : j < n) :
    vGet (vMod v i f) j d = if j = i then f (vGet v j d) else vGet v j d := by
  simp only [vGet, vMod, Vector.getElem?_mapIdx]
  rw [Vector.getElem?_eq_getElem hj]
  simp only [Option.map_some, Option.getD_some]

/-! Sessions. -/

theorem sess_modSess (i : Nat) (f : Session → Session) (s : State) (j : Fin 5) :
    sess (modSess i f s) j = if j.val = i then f (sess s j) else sess s j := vGet_vMod _ _ _ _ _ j.isLt

@[simp] theorem sess_modRings (f : Rings → Rings) (s : State) (i : Nat) : sess (modRings f s) i = sess s i := rfl
@[simp] theorem sess_setReg (a : Nat) (w : Word) (s : State) (i : Nat) : sess (setReg a w s) i = sess s i := rfl
@[simp] theorem reg_modSess (i : Nat) (f : Session → Session) (s : State) (a : Nat) : reg (modSess i f s) a = reg s a := rfl
@[simp] theorem reg_modRings (f : Rings → Rings) (s : State) (a : Nat) : reg (modRings f s) a = reg s a := rfl

/-! Responses (R563). -/

theorem timeResponse_sess (c : Call) (x : Session) (s : State) (i : Nat) : sess (timeResponse c x s) i = sess s i := by
  unfold timeResponse
  split <;> rfl

theorem timeResponse_teller (c : Call) (x : Session) (s : State) : (timeResponse c x s).teller = s.teller := by
  unfold timeResponse
  split <;> rfl

theorem timeResponse_reg {s : State} (h : RegsWf s.regs) (c : Call) (x : Session) {a : Nat} (ha : a ≠ R.TLR_RSP_MAX) :
    reg (timeResponse c x s) a = reg s a := by
  unfold timeResponse
  split
  · rw [reg_setReg h, if_neg (Ne.symm ha)]
  · rfl

@[simp] theorem sess_tellerRun (ch : Nat) (bs : List (BitVec 8)) (s : State) (i : Nat) : sess (tellerRun ch bs s) i = sess s i := rfl
@[simp] theorem reg_tellerRun (ch : Nat) (bs : List (BitVec 8)) (s : State) (a : Nat) : reg (tellerRun ch bs s) a = reg s a := rfl

theorem writeResp_reg (i : Fin 5) (r : Resp) (s : State) (a : Nat) : reg (writeResp i r s) a = reg s a := by
  unfold writeResp ringResp
  split
  · split <;> rfl
  · rfl

theorem writeResp_teller (i : Fin 5) (r : Resp) (s : State) :
    (writeResp i r s).teller = { s.teller with
      sessions := (writeResp i r s).teller.sessions, rings := (writeResp i r s).teller.rings, checked := (writeResp i r s).teller.checked } := by
  unfold writeResp ringResp
  split
  · split <;> rfl
  · rfl

theorem writeResp_others (i : Fin 5) (r : Resp) (s : State) (j : Fin 5) (h : j ≠ i) : sess (writeResp i r s) j = sess s j := by
  have hv : j.val ≠ i.val := fun e => h (Fin.ext e)
  unfold writeResp ringResp
  split
  · rename_i h0
    have h1 : j.val ≠ 0 := h0 ▸ hv
    split
    · rw [sess_modRings, sess_modSess, if_neg h1, sess_tellerRun]
    · rw [sess_modSess, if_neg h1]
  · rw [sess_modSess, if_neg hv, sess_tellerRun]

/-- Only the channel that serves the session runs. -/
theorem writeResp_runs (i : Fin 5) (r : Resp) (s : State) (ch : Nat) (h : ch ≠ sendChannel i) :
    aFind (writeResp i r s).teller.checked ch = aFind s.teller.checked ch := by
  unfold writeResp ringResp
  split
  · rename_i h0
    split
    · have h1 : (1 : Nat) ≠ ch := fun e => h (by simp [sendChannel, h0, ← e])
      simp [modRings, modSess, tellerRun, aFind_aPut, h1]
    · rfl
  · simp [modSess, tellerRun, aFind_aPut, Ne.symm h]

/-- A response given in an open session: it is the newest of the cache, and only the session, the rings, Teller's check channels and TLR_RSP_MAX are touched. -/
theorem respond_answers {x : State} (h : RegsWf x.regs) (code : Nat) (c : Call) (r : Reply) (ho : (sess x c.session).isOpen = true) :
    Answers code c r x (respond code c r x) := by
  refine ⟨respond_only (List.Subset.refl _) (only_refl _ _), ?_, ?_, ?_, ?_, ?_⟩
  · unfold respond
    rw [if_neg (by simp [ho])]
    dsimp only
    rw [sess_modSess, if_pos rfl]
    rfl
  · intro i hi
    have hv : i.val ≠ c.session.val := fun e => hi (Fin.ext e)
    unfold respond
    rw [if_neg (by simp [ho])]
    dsimp only
    rw [sess_modSess, if_neg hv, writeResp_others _ _ _ _ hi, timeResponse_sess]
  · unfold respond
    rw [if_neg (by simp [ho])]
    dsimp only [modSess]
    rw [writeResp_teller, timeResponse_teller]
  · intro ch hc
    unfold respond
    rw [if_neg (by simp [ho])]
    dsimp only [modSess]
    rw [writeResp_runs _ _ _ _ hc, timeResponse_teller]
  · intro a ha
    unfold respond
    rw [if_neg (by simp [ho])]
    dsimp only
    rw [reg_modSess, writeResp_reg, timeResponse_reg h _ _ ha]

/-! Commands (R574 to R576). -/

/-- A command that is executed is answered with what its body gives. -/
theorem commandLater_done {code : Nat} {c : Call} {s : State} {body : State → State × Option Reply} {i : Instr} {r : Reply} {x : State}
    (he : exec i s = commandLater code c s body) (h : Ready code c s) (hb : body (advance c.t s) = (x, some r))
    (hw : RegsWf x.regs) (ho : (sess x c.session).isOpen = true) : Done i code c r x s := by
  refine ⟨respond code c r x, ?_, respond_answers hw code c r ho⟩
  rw [he]
  unfold commandLater
  dsimp only
  rw [if_neg (by simp [h.runs]), if_neg (by
      rintro ⟨h1, h2⟩
      have := h.part h1
      simp [this] at h2), if_neg (by simp [h.mode]), if_neg (by simp [h.up]), hb]

theorem command_done {code : Nat} {c : Call} {s : State} {body : State → State × Reply} {i : Instr} {r : Reply} {x : State}
    (he : exec i s = command code c s body) (h : Ready code c s) (hb : body (advance c.t s) = (x, r))
    (hw : RegsWf x.regs) (ho : (sess x c.session).isOpen = true) : Done i code c r x s :=
  commandLater_done he h (by simp only [hb]) hw ho

/-- The same of a command that changes nothing else. -/
theorem command_reads {code : Nat} {c : Call} {s : State} {body : State → State × Reply} {i : Instr} {r : Reply}
    (he : exec i s = command code c s body) (h : Ready code c s) (hb : body (advance c.t s) = (advance c.t s, r)) :
    Done i code c r (advance c.t s) s :=
  command_done he h hb (by simpa using h.wf) (by simpa using h.live)

/-- A configuration message joins the open commit of its session. -/
theorem configMessage_done {code len : Nat} {c : Call} {ok : State → Bool} {m : ConfigMsg} {s : State} {i : Instr} {o : OpenCommit}
    (he : exec i s = configMessage code len c ok m s) (h : Ready code c s) (ho : s.teller.openCommit = some o) (hc : o.owner = c.session)
    (hr : o.msgs.length < 65536 ∧ o.bytes + len ≤ 134217728) (hk : ok (advance c.t s) = true) :
    Done i code c ⟨.ok, 0, []⟩ { advance c.t s with teller := { s.teller with
      openCommit := some { o with msgs := o.msgs ++ [m], bytes := o.bytes + len } } } s := by
  refine command_done he h ?_ (by simpa using h.wf) (by simpa [sess] using h.live)
  simp only [advance_teller, ho]
  rw [if_neg (by simp [hc]), if_neg (by simp [hk]), if_neg (by omega)]
  rfl

end Sys2Proof.Laws
end

