-- ==== Sys2Proof/Laws/KeepsShowTime.lean ====
section
/-! SUPPORT. What every command keeps, for the operations of Machine/ShowTime.lean. -/

namespace Sys2Proof.Laws

open Sys2Proof.Machine Sys2Proof.Safety

theorem modTb_keeps {s0 : State} (i : Nat) (f : TimeBase → TimeBase) (s : State) (h : Keeps s0 s) :
    Keeps s0 (modTb i f s) := by
  unfold modTb
  try dsimp only
  repeat' (first
    | with_reducible assumption
    | with_reducible apply keeps_ite
    | with_reducible apply OutKeeps.next
    | fail_if_no_progress with_reducible refine keeps_mk ?_ (timeOn rfl rfl rfl rfl rfl))

theorem tellState_keeps {s0 : State} (i : Nat) (old : TbState) (new : TbState) (cause : Nat) (s : State) (h : Keeps s0 s) :
    Keeps s0 (tellState i old new cause s) := by
  unfold tellState
  try dsimp only
  repeat' (first
    | with_reducible assumption
    | with_reducible apply setFlag_keeps
    | with_reducible apply notify_keeps)

theorem tbMove_keeps {s0 : State} (i : Nat) (new : TbState) (cause : Nat) (s : State) (h : Keeps s0 s) :
    Keeps s0 (tbMove i new cause s) := by
  unfold tbMove
  try dsimp only
  repeat' (first
    | with_reducible assumption
    | with_reducible apply modTb_keeps
    | with_reducible apply tellState_keeps
    | with_reducible apply keeps_ite)

theorem planFrame_keeps {s0 : State} (s : State) (h : Keeps s0 s) :
    Keeps s0 (planFrame s) := by
  unfold planFrame
  try dsimp only
  repeat' (first
    | with_reducible assumption
    | with_reducible apply keeps_ite
    | fail_if_no_progress with_reducible refine keeps_mk ?_ (timeOn rfl rfl rfl rfl rfl))

theorem enterDiscontinuity_keeps {s0 : State} (i : Nat) (delta : Int) (s : State) (h : Keeps s0 s) :
    Keeps s0 (enterDiscontinuity i delta s) := by
  unfold enterDiscontinuity
  try dsimp only
  repeat' (first
    | with_reducible assumption
    | with_reducible apply draw_keeps
    | with_reducible apply setFlag_keeps
    | with_reducible apply notify_keeps
    | with_reducible apply modTb_keeps
    | with_reducible apply keeps_ite)

theorem stepTb_keeps {s0 : State} (i : Nat) (delta : Int) (s : State) (h : Keeps s0 s) :
    Keeps s0 (stepTb i delta s) := by
  unfold stepTb
  try dsimp only
  repeat' (first
    | with_reducible assumption
    | with_reducible apply modTb_keeps
    | with_reducible apply enterDiscontinuity_keeps
    | with_reducible apply keeps_ite
    | fail_if_no_progress with_reducible refine keeps_mk ?_ (timeOn rfl rfl rfl rfl rfl))

theorem withdrawStep_keeps {s0 : State} (s : State) (h : Keeps s0 s) :
    Keeps s0 (withdrawStep s) := by
  unfold withdrawStep
  try dsimp only
  repeat' (first
    | with_reducible assumption
    | with_reducible apply setFlag_keeps
    | with_reducible apply notify_keeps
    | with_reducible apply modTb_keeps
    | with_reducible apply planFrame_keeps
    | with_reducible apply keeps_ite)

theorem correctFreq_keeps {s0 : State} (i : Nat) (source : Nat) (s : State) (h : Keeps s0 s) :
    Keeps s0 (correctFreq i source s) := by
  unfold correctFreq
  try dsimp only
  repeat' (first
    | with_reducible assumption
    | with_reducible apply draw_keeps
    | with_reducible apply modTb_keeps
    | with_reducible apply keeps_ite)

theorem ltcWrap_keeps {s0 : State} (i : Nat) (u : SourceUpdate) (s : State) (h : Keeps s0 s) :
    Keeps s0 (ltcWrap i u s) := by
  unfold ltcWrap
  try dsimp only
  repeat' (first
    | with_reducible assumption
    | with_reducible apply setReg_keeps
    | with_reducible apply modTb_keeps
    | with_reducible apply keeps_ite
    | fail_if_no_progress with_reducible refine keeps_mk ?_ (timeOn rfl rfl rfl rfl rfl)
    | (intro _ _)
    | dsimp only
    | split)

theorem tbFollow_keeps {s0 : State} (i : Nat) (s : State) (h : Keeps s0 s) :
    Keeps s0 (tbFollow i s) := by
  unfold tbFollow
  try dsimp only
  repeat' (first
    | with_reducible assumption
    | with_reducible apply tbMove_keeps
    | with_reducible apply keeps_ite
    | (intro _ _)
    | dsimp only
    | split)

theorem servo_keeps {s0 : State} (i : Nat) (offset : Int) (s : State) (h : Keeps s0 s) :
    Keeps s0 (servo i offset s) := by
  unfold servo
  try dsimp only
  repeat' (first
    | with_reducible assumption
    | with_reducible apply stepTb_keeps
    | with_reducible apply correctFreq_keeps
    | with_reducible apply keeps_ite)

theorem noteGenlock_keeps {s0 : State} (i : Nat) (u : SourceUpdate) (s : State) (h : Keeps s0 s) :
    Keeps s0 (noteGenlock i u s) := by
  unfold noteGenlock
  try dsimp only
  repeat' (first
    | with_reducible assumption
    | with_reducible apply keeps_ite
    | fail_if_no_progress with_reducible refine keeps_mk ?_ (timeOn rfl rfl rfl rfl rfl))

theorem pathMeasured_keeps {s0 : State} (i : Nat) (b : Bool) (u : SourceUpdate) (s : State) (h : Keeps s0 s) :
    Keeps s0 (pathMeasured i b u s) := by
  unfold pathMeasured
  try dsimp only
  repeat' (first
    | with_reducible assumption
    | with_reducible apply modTb_keeps
    | with_reducible apply ltcWrap_keeps
    | with_reducible apply tbFollow_keeps
    | with_reducible apply servo_keeps
    | with_reducible apply keeps_ite
    | fail_if_no_progress with_reducible refine keeps_mk ?_ (timeOn rfl rfl rfl rfl rfl))

theorem sourceUpdate_keeps {s0 : State} (i : Nat) (b : Bool) (u : SourceUpdate) (s : State) (h : Keeps s0 s) :
    Keeps s0 (sourceUpdate i b u s) := by
  unfold sourceUpdate
  try dsimp only
  repeat' (first
    | with_reducible assumption
    | with_reducible apply modTb_keeps
    | with_reducible apply withdrawStep_keeps
    | with_reducible apply noteGenlock_keeps
    | with_reducible apply pathMeasured_keeps
    | with_reducible apply keeps_ite
    | (intro _ _)
    | dsimp only
    | split)

theorem followPath_keeps {s0 : State} (i : Nat) (toB : Bool) (s : State) (h : Keeps s0 s) :
    Keeps s0 (followPath i toB s) := by
  unfold followPath
  try dsimp only
  repeat' (first
    | with_reducible assumption
    | with_reducible apply modTb_keeps
    | with_reducible apply keeps_ite
    | fail_if_no_progress with_reducible refine keeps_mk ?_ (timeOn rfl rfl rfl rfl rfl))

theorem switchPath_keeps {s0 : State} (i : Nat) (toB : Bool) (cause : Nat) (s : State) (h : Keeps s0 s) :
    Keeps s0 (switchPath i toB cause s) := by
  unfold switchPath
  try dsimp only
  repeat' (first
    | with_reducible assumption
    | with_reducible apply setFlag_keeps
    | with_reducible apply notify_keeps
    | with_reducible apply withdrawStep_keeps
    | with_reducible apply followPath_keeps)

theorem referenceLost_keeps {s0 : State} (i : Nat) (b : Bool) (s : State) (h : Keeps s0 s) :
    Keeps s0 (referenceLost i b s) := by
  unfold referenceLost
  try dsimp only
  repeat' (first
    | with_reducible assumption
    | with_reducible apply bump_keeps
    | with_reducible apply modTb_keeps
    | with_reducible apply tbMove_keeps
    | with_reducible apply switchPath_keeps
    | with_reducible apply keeps_ite
    | fail_if_no_progress with_reducible refine keeps_mk ?_ (timeOn rfl rfl rfl rfl rfl)
    | (intro _ _)
    | dsimp only
    | split)

theorem domainRevert_keeps {s0 : State} (i : Nat) (s : State) (h : Keeps s0 s) :
    Keeps s0 (domainRevert i s) := by
  unfold domainRevert
  try dsimp only
  repeat' (first
    | with_reducible assumption
    | with_reducible apply switchPath_keeps
    | with_reducible apply keeps_ite)

theorem freeTrim_keeps {s0 : State} (s : State) (h : Keeps s0 s) :
    Keeps s0 (freeTrim s) := by
  unfold freeTrim
  try dsimp only
  repeat' (first
    | with_reducible assumption
    | with_reducible apply keeps_ite
    | with_reducible apply OutKeeps.next
    | fail_if_no_progress with_reducible refine keeps_mk ?_ (timeOn rfl rfl rfl rfl rfl))

theorem restartInstances_keeps {s0 : State} (i : Nat) (old : Word) (w : Word) (s : State) (h : Keeps s0 s) :
    Keeps s0 (restartInstances i old w s) := by
  unfold restartInstances
  try dsimp only
  repeat' (first
    | with_reducible assumption
    | with_reducible apply modTb_keeps
    | with_reducible apply tbMove_keeps
    | with_reducible apply followPath_keeps
    | with_reducible apply keeps_ite)

theorem tbCfgApply_keeps {s0 : State} (i : Nat) (w : Word) (s : State) (h : Keeps s0 s) :
    Keeps s0 (tbCfgApply i w s) := by
  unfold tbCfgApply
  try dsimp only
  repeat' (first
    | with_reducible assumption
    | with_reducible apply setReg_keeps
    | with_reducible apply modTb_keeps
    | with_reducible apply tellState_keeps
    | with_reducible apply planFrame_keeps
    | with_reducible apply restartInstances_keeps
    | with_reducible apply keeps_ite
    | fail_if_no_progress with_reducible refine keeps_mk ?_ (timeOn rfl rfl rfl rfl rfl))

theorem selectTb_keeps {s0 : State} (i : Nat) (s : State) (h : Keeps s0 s) :
    Keeps s0 (selectTb i s) := by
  unfold selectTb
  try dsimp only
  repeat' (first
    | with_reducible assumption
    | with_reducible apply setField_keeps
    | with_reducible apply planFrame_keeps
    | with_reducible apply enterDiscontinuity_keeps
    | with_reducible apply withdrawStep_keeps
    | with_reducible apply keeps_ite
    | fail_if_no_progress with_reducible refine keeps_mk ?_ (timeOn rfl rfl rfl rfl rfl))

theorem leaveStep_keeps {s0 : State} (tb : Nat) (mode : Nat) (stepId : Nat) (s : State) (h : Keeps s0 s) :
    Keeps s0 (leaveStep tb mode stepId s) := by
  unfold leaveStep
  try dsimp only
  repeat' (first
    | with_reducible assumption
    | with_reducible apply setFlag_keeps
    | with_reducible apply notify_keeps
    | with_reducible apply modTb_keeps
    | with_reducible apply keeps_ite)

theorem applyAccept_keeps {s0 : State} (s : State) (a : StepAccept) (h : Keeps s0 s) :
    Keeps s0 (applyAccept s a) := by
  unfold applyAccept
  try dsimp only
  repeat' (first
    | with_reducible assumption
    | with_reducible apply setFlag_keeps
    | with_reducible apply notify_keeps
    | with_reducible apply modTb_keeps
    | with_reducible apply planFrame_keeps
    | with_reducible apply leaveStep_keeps
    | with_reducible apply keeps_ite
    | fail_if_no_progress with_reducible refine keeps_mk ?_ (timeOn rfl rfl rfl rfl rfl))

theorem zoneSafe_keeps {s0 : State} (s : State) (h : Keeps s0 s) :
    Keeps s0 (zoneSafe s) := by
  unfold zoneSafe
  try dsimp only
  repeat' (first
    | with_reducible assumption
    | with_reducible apply applyAccept_keeps
    | (with_reducible apply keeps_foldl; intro _ _ _)
    | with_reducible apply keeps_ite
    | with_reducible apply OutKeeps.next
    | fail_if_no_progress with_reducible refine keeps_mk ?_ (timeOn rfl rfl rfl rfl rfl))

theorem frameTime_keeps {s0 : State} (s : State) (h : Keeps s0 s) :
    Keeps s0 (frameTime s) := by
  unfold frameTime
  try dsimp only
  repeat' (first
    | with_reducible assumption
    | with_reducible apply reach_keeps
    | with_reducible apply planFrame_keeps
    | with_reducible apply withdrawStep_keeps
    | fail_if_no_progress with_reducible refine keeps_mk ?_ (timeOn rfl rfl rfl rfl rfl))

theorem takeRate_keeps {s0 : State} (s : State) (h : Keeps s0 s) :
    Keeps s0 (takeRate s) := by
  unfold takeRate
  try dsimp only
  repeat' (first
    | with_reducible assumption
    | with_reducible apply keeps_ite
    | fail_if_no_progress with_reducible refine keeps_mk ?_ (timeOn rfl rfl rfl rfl rfl))

theorem raise_le {s0 hwm g : Int} (hg : 1 ≤ g) : hwm + 1000000 ≤ s0 + raiseCycles s0 hwm g * g := by
  unfold raiseCycles
  split
  · have := Int.lt_ediv_add_one_mul_self (hwm + 1000000 - s0 + g - 1) (show 0 < g by omega)
    rw [Int.add_mul] at this
    omega
  · omega

theorem startShow_keeps {s0 : State} (s : State) (hr : s.time.running = false) (h : Keeps s0 s) : Keeps s0 (startShow s) := by
  unfold startShow
  dsimp only
  refine notify_keeps _ _ _ _ ?_
  have hg : (1 : Int) ≤ max 1 (gridCycle s) := Int.le_max_left _ _
  have key : ∀ (x : Time), x.now = s.time.now → x.running = true → x.st64 = (tbOf s (selTb s)).ns - s.time.epoch +
      (if s.time.hwmValid then raiseCycles ((tbOf s (selTb s)).ns - s.time.epoch) s.time.hwm (max 1 (gridCycle s)) else 0) * max 1 (gridCycle s) →
      TimeOn s.time x := by
    intro x h1 h2 h3
    refine ⟨Nat.le_of_eq h1.symm, fun m hm => ⟨x.st64, by simp only [showMark, h2, if_true], ?_⟩⟩
    cases hv : s.time.hwmValid
    · simp [showMark, hr, hv] at hm
    · simp only [showMark, hr, hv, if_true, Bool.false_eq_true, if_false, Option.some.injEq] at hm
      have := raise_le (s0 := (tbOf s (selTb s)).ns - s.time.epoch) (hwm := s.time.hwm) hg
      rw [h3, hv, if_pos rfl]
      omega
  repeat' (first
    | with_reducible apply setFlag_keeps
    | with_reducible apply keeps_ite
    | (refine keeps_mk h (key _ rfl rfl ?_); rfl))

theorem takeRate_running (s : State) : (takeRate s).time.running = s.time.running := by
  unfold takeRate
  dsimp only
  split <;> rfl

theorem timeStart_keeps {s0 : State} (s : State) (hr : s.time.running = false) (h : Keeps s0 s) : Keeps s0 (timeStart s) :=
  startShow_keeps _ ((takeRate_running s).trans hr) (takeRate_keeps _ h)

theorem stopFlags_keeps {s0 : State} (s : State) (h : Keeps s0 s) :
    Keeps s0 (stopFlags s) := by
  unfold stopFlags
  try dsimp only
  repeat' (first
    | with_reducible assumption
    | with_reducible apply setFlag_keeps
    | (with_reducible apply keeps_foldl; intro _ _ _)
    | with_reducible apply keeps_ite)

theorem stopFlags_time (s : State) : (stopFlags s).time = s.time := by
  have h : ∀ (l : List Nat) (x : State), (l.foldl (fun x i => if (tbOf s i).state = .discontinuity then setFlag R.TIM_INT_STAT i x else x) x).time = x.time := by
    intro l
    induction l with
    | nil => exact fun _ => rfl
    | cons a r ih =>
      intro x
      rw [List.foldl_cons, ih]
      split <;> rfl
  exact h _ s

theorem timeStop_keeps {s0 : State} (s : State) (h : Keeps s0 s) : Keeps s0 (timeStop s) := by
  unfold timeStop
  split
  · with_reducible exact keeps_mk h (timeOn rfl rfl rfl rfl rfl)
  · rename_i hr
    have hr' : s.time.running = true := by simpa using hr
    dsimp only
    refine keeps_mk (stopFlags_keeps s h) ?_
    rw [stopFlags_time]
    refine ⟨Nat.le_refl _, fun m hm => ⟨wholeMs s.time.st64 + 999999, rfl, ?_⟩⟩
    simp only [showMark, hr', if_true, Option.some.injEq] at hm
    subst hm
    unfold wholeMs
    omega

theorem execTimeBaseSet_keeps {s0 : State} (c : Call) (p : TimeBaseSet) (s : State) (h : Keeps s0 s) :
    OutKeeps s0 (execTimeBaseSet c p s) := by
  unfold execTimeBaseSet
  try dsimp only
  repeat' (first
    | with_reducible assumption
    | with_reducible apply setReg_keeps
    | with_reducible refine command_keeps _ _ _ _ ?_ (fun _ _ => ?_)
    | with_reducible apply refuse_keeps
    | with_reducible apply accept_keeps
    | with_reducible apply tbCfgApply_keeps
    | with_reducible apply OutKeeps.ite
    | with_reducible apply keeps_ite
    | with_reducible apply keeps_ite_fst
    | with_reducible apply OutKeeps.next
    | (intro _ _)
    | dsimp only
    | split)

theorem execTimeSelect_keeps {s0 : State} (c : Call) (p : TimeSelect) (s : State) (h : Keeps s0 s) :
    OutKeeps s0 (execTimeSelect c p s) := by
  unfold execTimeSelect
  try dsimp only
  repeat' (first
    | with_reducible assumption
    | with_reducible apply setReg_keeps
    | with_reducible refine command_keeps _ _ _ _ ?_ (fun _ _ => ?_)
    | with_reducible apply refuse_keeps
    | with_reducible apply accept_keeps
    | with_reducible apply withdrawStep_keeps
    | with_reducible apply selectTb_keeps
    | with_reducible apply OutKeeps.ite
    | with_reducible apply keeps_ite
    | with_reducible apply keeps_ite_fst
    | with_reducible apply OutKeeps.next
    | (intro _ _)
    | dsimp only
    | split)

theorem waitAccept_keeps {s0 : State} (tb : Fin 4) (mode : Nat) (stepId : Nat) (s : State) (h : Keeps s0 s) :
    Keeps s0 (waitAccept tb mode stepId s) := by
  unfold waitAccept
  try dsimp only
  repeat' (first
    | with_reducible assumption
    | fail_if_no_progress with_reducible refine keeps_mk ?_ (timeOn rfl rfl rfl rfl rfl))

theorem acceptStep_keeps {s0 : State} (p : TimeAcceptStep) (s : State) (h : Keeps s0 s) :
    Keeps s0 (acceptStep p s).1 := by
  unfold acceptStep
  try dsimp only
  repeat' (first
    | with_reducible assumption
    | with_reducible apply refuse_keeps
    | with_reducible apply accept_keeps
    | with_reducible apply waitAccept_keeps
    | with_reducible apply leaveStep_keeps
    | with_reducible apply keeps_ite
    | with_reducible apply keeps_ite_fst
    | (intro _ _)
    | dsimp only
    | split)

theorem execTimeAcceptStep_keeps {s0 : State} (c : Call) (p : TimeAcceptStep) (s : State) (h : Keeps s0 s) :
    OutKeeps s0 (execTimeAcceptStep c p s) := by
  unfold execTimeAcceptStep
  try dsimp only
  repeat' (first
    | with_reducible assumption
    | with_reducible refine command_keeps _ _ _ _ ?_ (fun _ _ => ?_)
    | with_reducible apply withdrawStep_keeps
    | with_reducible apply acceptStep_keeps
    | with_reducible apply OutKeeps.ite
    | with_reducible apply OutKeeps.next
    | (intro _ _)
    | dsimp only
    | split)

theorem execTimeStatusGet_keeps {s0 : State} (c : Call) (s : State) (h : Keeps s0 s) :
    OutKeeps s0 (execTimeStatusGet c s) := by
  unfold execTimeStatusGet
  try dsimp only
  repeat' (first
    | with_reducible assumption
    | with_reducible refine command_keeps _ _ _ _ ?_ (fun _ _ => ?_)
    | with_reducible apply answer_keeps)

theorem execTbSourceUpdate_keeps {s0 : State} (t : Nat) (tb : Fin 4) (b : Bool) (u : SourceUpdate) (s : State) (h : Keeps s0 s) :
    OutKeeps s0 (execTbSourceUpdate t tb b u s) := by
  unfold execTbSourceUpdate
  try dsimp only
  repeat' (first
    | with_reducible assumption
    | with_reducible apply advance_keeps
    | with_reducible apply sourceUpdate_keeps
    | with_reducible apply OutKeeps.ite
    | with_reducible apply keeps_ite
    | with_reducible apply OutKeeps.next)

theorem execReferenceLost_keeps {s0 : State} (t : Nat) (tb : Fin 4) (b : Bool) (s : State) (h : Keeps s0 s) :
    OutKeeps s0 (execReferenceLost t tb b s) := by
  unfold execReferenceLost
  try dsimp only
  repeat' (first
    | with_reducible assumption
    | with_reducible apply advance_keeps
    | with_reducible apply referenceLost_keeps
    | with_reducible apply OutKeeps.ite
    | with_reducible apply keeps_ite
    | with_reducible apply OutKeeps.next)

theorem execDomainRevert_keeps {s0 : State} (t : Nat) (tb : Fin 4) (s : State) (h : Keeps s0 s) :
    OutKeeps s0 (execDomainRevert t tb s) := by
  unfold execDomainRevert
  try dsimp only
  repeat' (first
    | with_reducible assumption
    | with_reducible apply advance_keeps
    | with_reducible apply domainRevert_keeps
    | with_reducible apply OutKeeps.ite
    | with_reducible apply keeps_ite
    | with_reducible apply OutKeeps.next)

theorem execZoneSafeBoundary_keeps {s0 : State} (t : Nat) (s : State) (h : Keeps s0 s) :
    OutKeeps s0 (execZoneSafeBoundary t s) := by
  unfold execZoneSafeBoundary
  try dsimp only
  repeat' (first
    | with_reducible assumption
    | with_reducible apply advance_keeps
    | with_reducible apply zoneSafe_keeps
    | with_reducible apply OutKeeps.ite
    | with_reducible apply keeps_ite
    | with_reducible apply OutKeeps.next)

theorem hwmMark_keeps {s0 : State} (s : State) (h : Keeps s0 s) : Keeps s0 (hwmMark s) := by
  unfold hwmMark
  split
  · rename_i hr
    refine keeps_mk h ⟨Nat.le_refl _, fun m hm => ⟨m, ?_, Int.le_refl _⟩⟩
    simp only [showMark, hr, if_true] at hm ⊢
    exact hm
  · exact h

theorem execHwmUpdate_keeps {s0 : State} (t : Nat) (s : State) (h : Keeps s0 s) : OutKeeps s0 (execHwmUpdate t s) :=
  OutKeeps.next (withdrawStep_keeps _ (hwmMark_keeps _ (advance_keeps t s h)))

theorem execRtcCopy_keeps {s0 : State} (t : Nat) (s : State) (h : Keeps s0 s) :
    OutKeeps s0 (execRtcCopy t s) := by
  unfold execRtcCopy
  try dsimp only
  repeat' (first
    | with_reducible assumption
    | with_reducible apply advance_keeps
    | with_reducible apply OutKeeps.ite
    | with_reducible apply keeps_ite
    | with_reducible apply OutKeeps.next
    | fail_if_no_progress with_reducible refine keeps_mk ?_ (timeOn rfl rfl rfl rfl rfl))

theorem execMainsAbsentTimeout_keeps {s0 : State} (t : Nat) (s : State) (h : Keeps s0 s) :
    OutKeeps s0 (execMainsAbsentTimeout t s) := by
  unfold execMainsAbsentTimeout
  try dsimp only
  repeat' (first
    | with_reducible assumption
    | with_reducible apply advance_keeps
    | with_reducible apply OutKeeps.ite
    | with_reducible apply keeps_ite
    | with_reducible apply OutKeeps.next
    | fail_if_no_progress with_reducible refine keeps_mk ?_ (timeOn rfl rfl rfl rfl rfl)
    | (intro _ _)
    | dsimp only
    | split)

theorem crossingMissed_keeps {s0 : State} (s : State) (h : Keeps s0 s) :
    Keeps s0 (crossingMissed s) := by
  unfold crossingMissed
  try dsimp only
  repeat' (first
    | with_reducible assumption
    | with_reducible apply keeps_ite
    | fail_if_no_progress with_reducible refine keeps_mk ?_ (timeOn rfl rfl rfl rfl rfl))

theorem mainsCross_keeps {s0 : State} (s : State) (h : Keeps s0 s) :
    Keeps s0 (mainsCross s) := by
  unfold mainsCross
  try dsimp only
  repeat' (first
    | with_reducible assumption
    | with_reducible apply crossingMissed_keeps
    | with_reducible apply keeps_ite
    | fail_if_no_progress with_reducible refine keeps_mk ?_ (timeOn rfl rfl rfl rfl rfl)
    | (intro _ _)
    | dsimp only
    | split)

end Sys2Proof.Laws
end

