-- ==== Sys2Proof/Laws/KeepsAlmanac.lean ====
section
/-! SUPPORT. What every command keeps, for the operations of Machine/Almanac.lean. -/

namespace Sys2Proof.Laws

open Sys2Proof.Machine Sys2Proof.Safety

theorem modAlm_keeps {s0 : State} (f : Almanac → Almanac) (s : State) (h : Keeps s0 s) :
    Keeps s0 (modAlm f s) := by
  unfold modAlm
  try dsimp only
  repeat' (first
    | with_reducible assumption
    | with_reducible apply keeps_ite
    | with_reducible apply OutKeeps.next
    | fail_if_no_progress with_reducible refine keeps_mk ?_ (timeOn rfl rfl rfl rfl rfl))

theorem traceRec_keeps {s0 : State} (r : TraceRec) (s : State) (h : Keeps s0 s) :
    Keeps s0 (traceRec r s) := by
  unfold traceRec
  try dsimp only
  repeat' (first
    | with_reducible assumption
    | with_reducible apply modAlm_keeps
    | with_reducible apply keeps_ite
    | fail_if_no_progress with_reducible refine keeps_mk ?_ (timeOn rfl rfl rfl rfl rfl)
    | (intro _ _)
    | dsimp only
    | split)

theorem traceOf_keeps {s0 : State} (kind : Nat) (target : Nat) (outcome : Nat) (object : Nat) (prio : Nat) (frame : Int) (due : Int) (s : State) (h : Keeps s0 s) :
    Keeps s0 (traceOf kind target outcome object prio frame due s) := by
  unfold traceOf
  try dsimp only
  repeat' (first
    | with_reducible assumption
    | with_reducible apply traceRec_keeps)

theorem refuseInsert_keeps {s0 : State} (list : Nat) (s : State) (h : Keeps s0 s) :
    Keeps s0 (refuseInsert list s) := by
  unfold refuseInsert
  try dsimp only
  repeat' (first
    | with_reducible assumption
    | with_reducible apply bump_keeps
    | with_reducible apply setFlag_keeps
    | with_reducible apply notify_keeps
    | with_reducible apply modAlm_keeps
    | with_reducible apply keeps_ite)

theorem nextOrder_keeps {s0 : State} (s : State) (h : Keeps s0 s) :
    Keeps s0 (nextOrder s) := by
  unfold nextOrder
  try dsimp only
  repeat' (first
    | with_reducible assumption
    | with_reducible apply modAlm_keeps)

theorem refuseHorizon_keeps {s0 : State} (kind : Nat) (target : Nat) (object : Nat) (prio : Nat) (frame : Int) (due : Int) (s : State) (h : Keeps s0 s) :
    Keeps s0 (refuseHorizon kind target object prio frame due s) := by
  unfold refuseHorizon
  try dsimp only
  repeat' (first
    | with_reducible assumption
    | with_reducible apply bump_keeps
    | with_reducible apply setFlag_keeps
    | with_reducible apply traceOf_keeps)

theorem insertLaunch_keeps {s0 : State} (at_ : Int) (kind : LaunchKind) (zones : List (Nat × Int)) (priority : Nat) (s : State) (h : Keeps s0 s) :
    Keeps s0 (insertLaunch at_ kind zones priority s) := by
  unfold insertLaunch
  try dsimp only
  repeat' (first
    | with_reducible assumption
    | with_reducible apply modAlm_keeps
    | with_reducible apply traceOf_keeps
    | with_reducible apply refuseInsert_keeps
    | with_reducible apply nextOrder_keeps
    | with_reducible apply refuseHorizon_keeps
    | with_reducible apply keeps_ite
    | fail_if_no_progress with_reducible refine keeps_mk ?_ (timeOn rfl rfl rfl rfl rfl))

theorem refuseTimer_keeps {s0 : State} (e : TimerEntry) (s : State) (h : Keeps s0 s) :
    Keeps s0 (refuseTimer e s) := by
  unfold refuseTimer
  try dsimp only
  repeat' (first
    | with_reducible assumption
    | with_reducible apply ledgerEvent_keeps
    | with_reducible apply traceOf_keeps
    | with_reducible apply refuseInsert_keeps)

theorem insertTimer_keeps {s0 : State} (e : TimerEntry) (s : State) (h : Keeps s0 s) :
    Keeps s0 (insertTimer e s) := by
  unfold insertTimer
  try dsimp only
  repeat' (first
    | with_reducible assumption
    | with_reducible apply modAlm_keeps
    | with_reducible apply nextOrder_keeps
    | with_reducible apply refuseHorizon_keeps
    | with_reducible apply refuseTimer_keeps
    | with_reducible apply keeps_ite
    | fail_if_no_progress with_reducible refine keeps_mk ?_ (timeOn rfl rfl rfl rfl rfl))

theorem placeDescriptor_keeps {s0 : State} (d : Descriptor) (s : State) (h : Keeps s0 s) :
    Keeps s0 (placeDescriptor d s) := by
  unfold placeDescriptor
  try dsimp only
  repeat' (first
    | with_reducible assumption
    | with_reducible apply modAlm_keeps
    | with_reducible apply nextOrder_keeps)

theorem refuseDescriptor_keeps {s0 : State} (d : Descriptor) (s : State) (h : Keeps s0 s) :
    Keeps s0 (refuseDescriptor d s) := by
  unfold refuseDescriptor
  try dsimp only
  repeat' (first
    | with_reducible assumption
    | with_reducible apply traceOf_keeps
    | with_reducible apply refuseInsert_keeps)

theorem insertDescriptor_keeps {s0 : State} (d : Descriptor) (s : State) (h : Keeps s0 s) :
    Keeps s0 (insertDescriptor d s) := by
  unfold insertDescriptor
  try dsimp only
  repeat' (first
    | with_reducible assumption
    | with_reducible apply modAlm_keeps
    | with_reducible apply placeDescriptor_keeps
    | with_reducible apply refuseDescriptor_keeps
    | with_reducible apply keeps_ite
    | fail_if_no_progress with_reducible refine keeps_mk ?_ (timeOn rfl rfl rfl rfl rfl))

theorem workEnded_keeps {s0 : State} (d : Descriptor) (discarded : Bool) (s : State) (h : Keeps s0 s) :
    Keeps s0 (workEnded d discarded s) := by
  unfold workEnded
  try dsimp only
  repeat' (first
    | with_reducible assumption
    | with_reducible apply modAlm_keeps
    | fail_if_no_progress with_reducible refine keeps_mk ?_ (timeOn rfl rfl rfl rfl rfl)
    | (intro _ _)
    | dsimp only
    | split)

theorem discardDescriptor_keeps {s0 : State} (s : State) (d : Descriptor) (h : Keeps s0 s) :
    Keeps s0 (discardDescriptor s d) := by
  unfold discardDescriptor
  try dsimp only
  repeat' (first
    | with_reducible assumption
    | with_reducible apply bump_keeps
    | with_reducible apply traceOf_keeps
    | with_reducible apply workEnded_keeps)

theorem discardPast_keeps {s0 : State} (s : State) (h : Keeps s0 s) :
    Keeps s0 (discardPast s) := by
  unfold discardPast
  try dsimp only
  repeat' (first
    | with_reducible assumption
    | with_reducible apply modAlm_keeps
    | with_reducible apply discardDescriptor_keeps
    | (with_reducible apply keeps_foldl; intro _ _ _))

theorem readyAll_keeps {s0 : State} (s : State) (h : Keeps s0 s) :
    Keeps s0 (readyAll s) := by
  unfold readyAll
  try dsimp only
  repeat' (first
    | with_reducible assumption
    | with_reducible apply modAlm_keeps)

theorem execMainsZeroCrossing_keeps {s0 : State} (t : Nat) (s : State) (h : Keeps s0 s) :
    OutKeeps s0 (execMainsZeroCrossing t s) := by
  unfold execMainsZeroCrossing
  try dsimp only
  repeat' (first
    | with_reducible assumption
    | with_reducible apply advance_keeps
    | with_reducible apply mainsCross_keeps
    | with_reducible apply modAlm_keeps
    | with_reducible apply OutKeeps.ite
    | with_reducible apply keeps_ite
    | with_reducible apply OutKeeps.next)

theorem cueWork_keeps {s0 : State} (q : Cue) (s : State) (h : Keeps s0 s) :
    Keeps s0 (cueWork q s) := by
  unfold cueWork
  try dsimp only
  repeat' (first
    | with_reducible assumption
    | with_reducible apply insertDescriptor_keeps
    | with_reducible apply keeps_ite)

theorem execCueSchedule_keeps {s0 : State} (c : Call) (p : CueSchedule) (s : State) (h : Keeps s0 s) :
    OutKeeps s0 (execCueSchedule c p s) := by
  unfold execCueSchedule
  try dsimp only
  repeat' (first
    | with_reducible assumption
    | with_reducible refine command_keeps _ _ _ _ ?_ (fun _ _ => ?_)
    | with_reducible apply refuse_keeps
    | with_reducible apply accept_keeps
    | with_reducible apply modAlm_keeps
    | with_reducible apply traceOf_keeps
    | with_reducible apply refuseInsert_keeps
    | with_reducible apply nextOrder_keeps
    | with_reducible apply refuseHorizon_keeps
    | with_reducible apply cueWork_keeps
    | with_reducible apply OutKeeps.ite
    | with_reducible apply keeps_ite
    | with_reducible apply keeps_ite_fst
    | with_reducible apply OutKeeps.next
    | fail_if_no_progress with_reducible refine keeps_mk ?_ (timeOn rfl rfl rfl rfl rfl)
    | (intro _ _)
    | dsimp only
    | split)

theorem execAlmTraceGet_keeps {s0 : State} (c : Call) (first : Nat) (count : Nat) (s : State) (h : Keeps s0 s) :
    OutKeeps s0 (execAlmTraceGet c first count s) := by
  unfold execAlmTraceGet
  try dsimp only
  repeat' (first
    | with_reducible assumption
    | with_reducible refine command_keeps _ _ _ _ ?_ (fun _ _ => ?_)
    | with_reducible apply refuse_keeps
    | with_reducible apply answer_keeps
    | with_reducible apply OutKeeps.ite
    | with_reducible apply keeps_ite
    | with_reducible apply OutKeeps.next
    | fail_if_no_progress with_reducible refine keeps_mk ?_ (timeOn rfl rfl rfl rfl rfl)
    | (intro _ _)
    | dsimp only
    | split)

theorem execTraceFreeze_keeps {s0 : State} (t : Nat) (s : State) (h : Keeps s0 s) :
    OutKeeps s0 (execTraceFreeze t s) := by
  unfold execTraceFreeze
  try dsimp only
  repeat' (first
    | with_reducible assumption
    | with_reducible apply advance_keeps
    | with_reducible apply setFlag_keeps
    | with_reducible apply notify_keeps
    | with_reducible apply modAlm_keeps
    | with_reducible apply OutKeeps.ite
    | with_reducible apply keeps_ite
    | with_reducible apply OutKeeps.next
    | fail_if_no_progress with_reducible refine keeps_mk ?_ (timeOn rfl rfl rfl rfl rfl)
    | (intro _ _)
    | dsimp only
    | split)

theorem execTimerRetry_keeps {s0 : State} (t : Nat) (s : State) (h : Keeps s0 s) :
    OutKeeps s0 (execTimerRetry t s) := by
  unfold execTimerRetry
  try dsimp only
  repeat' (first
    | with_reducible assumption
    | with_reducible apply advance_keeps
    | with_reducible apply modAlm_keeps
    | with_reducible apply refuseTimer_keeps
    | with_reducible apply insertTimer_keeps
    | with_reducible apply OutKeeps.ite
    | with_reducible apply keeps_ite
    | with_reducible apply OutKeeps.next
    | fail_if_no_progress with_reducible refine keeps_mk ?_ (timeOn rfl rfl rfl rfl rfl)
    | (intro _ _)
    | dsimp only
    | split)

theorem execDescriptorReady_keeps {s0 : State} (t : Nat) (s : State) (h : Keeps s0 s) :
    OutKeeps s0 (execDescriptorReady t s) := by
  unfold execDescriptorReady
  try dsimp only
  repeat' (first
    | with_reducible assumption
    | with_reducible apply advance_keeps
    | with_reducible apply readyAll_keeps
    | with_reducible apply OutKeeps.ite
    | with_reducible apply keeps_ite
    | with_reducible apply OutKeeps.next)

theorem almStop_keeps {s0 : State} (s : State) (h : Keeps s0 s) :
    Keeps s0 (almStop s) := by
  unfold almStop
  try dsimp only
  repeat' (first
    | with_reducible assumption
    | with_reducible apply notify_keeps
    | with_reducible apply modAlm_keeps
    | (with_reducible apply keeps_foldl; intro _ _ _))

end Sys2Proof.Laws
end

