-- ==== Sys2Proof/Laws/KeepsOperands.lean ====
section
/-! SUPPORT. What every command keeps, for the operations of Machine/Operands.lean. -/

namespace Sys2Proof.Laws

open Sys2Proof.Machine Sys2Proof.Safety

theorem configMessage_keeps {s0 : State} (code : Nat) (len : Nat) (c : Call) (ok : State → Bool) (m : ConfigMsg) (s : State) (h : Keeps s0 s) :
    OutKeeps s0 (configMessage code len c ok m s) := by
  unfold configMessage
  try dsimp only
  repeat' (first
    | with_reducible assumption
    | with_reducible refine command_keeps _ _ _ _ ?_ (fun _ _ => ?_)
    | with_reducible apply refuse_keeps
    | with_reducible apply accept_keeps
    | with_reducible apply OutKeeps.ite
    | with_reducible apply keeps_ite
    | with_reducible apply OutKeeps.next
    | fail_if_no_progress with_reducible refine keeps_mk ?_ (timeOn rfl rfl rfl rfl rfl)
    | (intro _ _)
    | dsimp only
    | split)

end Sys2Proof.Laws
end

