-- ==== Sys2Proof/Laws/KeepsVideo.lean ====
section
/-! SUPPORT. What every command keeps, for the operations of Machine/Video.lean. -/

namespace Sys2Proof.Laws

open Sys2Proof.Machine Sys2Proof.Safety

theorem modSrc_keeps {s0 : State} (i : Nat) (f : Source → Source) (s : State) (h : Keeps s0 s) :
    Keeps s0 (modSrc i f s) := by
  unfold modSrc
  try dsimp only
  repeat' (first
    | with_reducible assumption
    | with_reducible apply keeps_ite
    | with_reducible apply OutKeeps.next
    | fail_if_no_progress with_reducible refine keeps_mk ?_ (timeOn rfl rfl rfl rfl rfl))

theorem modLayer_keeps {s0 : State} (l : Nat) (f : Layer → Layer) (s : State) (h : Keeps s0 s) :
    Keeps s0 (modLayer l f s) := by
  unfold modLayer
  try dsimp only
  repeat' (first
    | with_reducible assumption
    | with_reducible apply keeps_ite
    | with_reducible apply OutKeeps.next
    | fail_if_no_progress with_reducible refine keeps_mk ?_ (timeOn rfl rfl rfl rfl rfl))

theorem srcMove_keeps {s0 : State} (i : Nat) (new : SourceState) (cause : Nat) (s : State) (h : Keeps s0 s) :
    Keeps s0 (srcMove i new cause s) := by
  unfold srcMove
  try dsimp only
  repeat' (first
    | with_reducible assumption
    | with_reducible apply setFlag_keeps
    | with_reducible apply notify_keeps
    | with_reducible apply modSrc_keeps
    | with_reducible apply keeps_ite)

theorem beginWrite_keeps {s0 : State} (i : Nat) (s : State) (h : Keeps s0 s) :
    Keeps s0 (beginWrite i s) := by
  unfold beginWrite
  try dsimp only
  repeat' (first
    | with_reducible assumption
    | with_reducible apply modSrc_keeps
    | with_reducible apply keeps_ite
    | fail_if_no_progress with_reducible refine keeps_mk ?_ (timeOn rfl rfl rfl rfl rfl))

theorem endWrite_keeps {s0 : State} (i : Nat) (s : State) (h : Keeps s0 s) :
    Keeps s0 (endWrite i s) := by
  unfold endWrite
  try dsimp only
  repeat' (first
    | with_reducible assumption
    | with_reducible apply modSrc_keeps
    | fail_if_no_progress with_reducible refine keeps_mk ?_ (timeOn rfl rfl rfl rfl rfl))

theorem publish_keeps {s0 : State} (i : Nat) (p : Picture) (w : Nat) (h : Nat) (transfer : Nat) (bt2020 : Bool) (done : Int) (s : State) (h' : Keeps s0 s) :
    Keeps s0 (publish i p w h transfer bt2020 done s) := by
  unfold publish
  try dsimp only
  repeat' (first
    | with_reducible assumption
    | with_reducible apply bump_keeps
    | with_reducible apply modSrc_keeps
    | (intro _ _)
    | dsimp only
    | split)

theorem discardFrame_keeps {s0 : State} (i : Nat) (s : State) (h : Keeps s0 s) :
    Keeps s0 (discardFrame i s) := by
  unfold discardFrame
  try dsimp only
  repeat' (first
    | with_reducible assumption
    | with_reducible apply bump_keeps
    | with_reducible apply modSrc_keeps)

theorem frameAccepted_keeps {s0 : State} (i : Nat) (p : Picture) (w : Nat) (h : Nat) (transfer : Nat) (bt2020 : Bool) (done : Int) (s : State) (h' : Keeps s0 s) :
    Keeps s0 (frameAccepted i p w h transfer bt2020 done s) := by
  unfold frameAccepted
  try dsimp only
  repeat' (first
    | with_reducible assumption
    | with_reducible apply modSrc_keeps
    | with_reducible apply srcMove_keeps
    | with_reducible apply publish_keeps
    | with_reducible apply keeps_ite
    | fail_if_no_progress with_reducible refine keeps_mk ?_ (timeOn rfl rfl rfl rfl rfl)
    | (intro _ _)
    | dsimp only
    | split)

theorem wrote_keeps {s0 : State} (n : Nat) (s : State) (h : Keeps s0 s) :
    Keeps s0 (wrote n s) := by
  unfold wrote
  try dsimp only
  repeat' (first
    | with_reducible assumption
    | fail_if_no_progress with_reducible refine keeps_mk ?_ (timeOn rfl rfl rfl rfl rfl))

theorem frameTaken_keeps {s0 : State} (i : Nat) (f : FrameIn) (s : State) (h : Keeps s0 s) :
    Keeps s0 (frameTaken i f s) := by
  unfold frameTaken
  try dsimp only
  repeat' (first
    | with_reducible assumption
    | with_reducible apply modSrc_keeps
    | with_reducible apply srcMove_keeps
    | with_reducible apply discardFrame_keeps
    | with_reducible apply frameAccepted_keeps
    | with_reducible apply wrote_keeps
    | with_reducible apply keeps_ite
    | fail_if_no_progress with_reducible refine keeps_mk ?_ (timeOn rfl rfl rfl rfl rfl))

theorem frameComplete_keeps {s0 : State} (i : Nat) (f : FrameIn) (s : State) (h : Keeps s0 s) :
    Keeps s0 (frameComplete i f s) := by
  unfold frameComplete
  try dsimp only
  repeat' (first
    | with_reducible assumption
    | with_reducible apply modSrc_keeps
    | with_reducible apply endWrite_keeps
    | with_reducible apply frameTaken_keeps
    | with_reducible apply keeps_ite
    | fail_if_no_progress with_reducible refine keeps_mk ?_ (timeOn rfl rfl rfl rfl rfl))

theorem execSourceFrameComplete_keeps {s0 : State} (t : Nat) (src : Fin 28) (f : FrameIn) (s : State) (h : Keeps s0 s) :
    OutKeeps s0 (execSourceFrameComplete t src f s) := by
  unfold execSourceFrameComplete
  try dsimp only
  repeat' (first
    | with_reducible assumption
    | with_reducible apply advance_keeps
    | with_reducible apply frameComplete_keeps
    | with_reducible apply OutKeeps.ite
    | with_reducible apply keeps_ite
    | with_reducible apply OutKeeps.next)

theorem execSdiLineReceived_keeps {s0 : State} (t : Nat) (src : Fin 4) (crcOk : Bool) (s : State) (h : Keeps s0 s) :
    OutKeeps s0 (execSdiLineReceived t src crcOk s) := by
  unfold execSdiLineReceived
  try dsimp only
  repeat' (first
    | with_reducible assumption
    | with_reducible apply advance_keeps
    | with_reducible apply bump_keeps
    | with_reducible apply modSrc_keeps
    | with_reducible apply beginWrite_keeps
    | with_reducible apply OutKeeps.ite
    | with_reducible apply keeps_ite
    | with_reducible apply OutKeeps.next
    | fail_if_no_progress with_reducible refine keeps_mk ?_ (timeOn rfl rfl rfl rfl rfl)
    | (intro _ _)
    | dsimp only
    | split)

theorem missed_keeps {s0 : State} (src : Nat) (pathB : Bool) (s : State) (h : Keeps s0 s) :
    Keeps s0 (missed src pathB s) := by
  unfold missed
  try dsimp only
  repeat' (first
    | with_reducible assumption
    | with_reducible apply bump_keeps
    | with_reducible apply modSrc_keeps
    | with_reducible apply keeps_ite)

theorem execStreamPacketReceived_keeps {s0 : State} (t : Nat) (stream : Fin 16) (pathB : Bool) (x : StreamPacket) (s : State) (h : Keeps s0 s) :
    OutKeeps s0 (execStreamPacketReceived t stream pathB x s) := by
  unfold execStreamPacketReceived
  try dsimp only
  repeat' (first
    | with_reducible assumption
    | with_reducible apply advance_keeps
    | with_reducible apply modSrc_keeps
    | with_reducible apply beginWrite_keeps
    | with_reducible apply missed_keeps
    | with_reducible apply OutKeeps.ite
    | with_reducible apply keeps_ite
    | with_reducible apply OutKeeps.next
    | fail_if_no_progress with_reducible refine keeps_mk ?_ (timeOn rfl rfl rfl rfl rfl)
    | (intro _ _)
    | dsimp only
    | split)

theorem execPathLossTimeout_keeps {s0 : State} (t : Nat) (stream : Fin 16) (pathB : Bool) (seq : Word) (s : State) (h : Keeps s0 s) :
    OutKeeps s0 (execPathLossTimeout t stream pathB seq s) := by
  unfold execPathLossTimeout
  try dsimp only
  repeat' (first
    | with_reducible assumption
    | with_reducible apply advance_keeps
    | with_reducible apply modSrc_keeps
    | with_reducible apply missed_keeps
    | with_reducible apply OutKeeps.ite
    | with_reducible apply keeps_ite
    | with_reducible apply OutKeeps.next
    | fail_if_no_progress with_reducible refine keeps_mk ?_ (timeOn rfl rfl rfl rfl rfl)
    | (intro _ _)
    | dsimp only
    | split)

theorem execStreamFrameTimeout_keeps {s0 : State} (t : Nat) (stream : Fin 16) (s : State) (h : Keeps s0 s) :
    OutKeeps s0 (execStreamFrameTimeout t stream s) := by
  unfold execStreamFrameTimeout
  try dsimp only
  repeat' (first
    | with_reducible assumption
    | with_reducible apply advance_keeps
    | with_reducible apply bumpBy_keeps
    | with_reducible apply setFlag_keeps
    | with_reducible apply modSrc_keeps
    | with_reducible apply discardFrame_keeps
    | with_reducible apply wrote_keeps
    | with_reducible apply OutKeeps.ite
    | with_reducible apply keeps_ite
    | with_reducible apply OutKeeps.next
    | (intro _ _)
    | dsimp only
    | split)

theorem republish_keeps {s0 : State} (i : Nat) (done : Int) (s : State) (h : Keeps s0 s) :
    Keeps s0 (republish i done s) := by
  unfold republish
  try dsimp only
  repeat' (first
    | with_reducible assumption
    | with_reducible apply bump_keeps
    | with_reducible apply modSrc_keeps
    | fail_if_no_progress with_reducible refine keeps_mk ?_ (timeOn rfl rfl rfl rfl rfl)
    | (intro _ _)
    | dsimp only
    | split)

theorem genPublish_keeps {s0 : State} (i : Nat) (g : GeneratorSet) (k : Int) (s : State) (h : Keeps s0 s) :
    Keeps s0 (genPublish i g k s) := by
  unfold genPublish
  try dsimp only
  repeat' (first
    | with_reducible assumption
    | with_reducible apply modSrc_keeps
    | with_reducible apply srcMove_keeps
    | with_reducible apply publish_keeps
    | with_reducible apply wrote_keeps
    | with_reducible apply republish_keeps
    | with_reducible apply keeps_ite
    | fail_if_no_progress with_reducible refine keeps_mk ?_ (timeOn rfl rfl rfl rfl rfl))

theorem execGeneratorPublish_keeps {s0 : State} (t : Nat) (g : Fin 8) (s : State) (h : Keeps s0 s) :
    OutKeeps s0 (execGeneratorPublish t g s) := by
  unfold execGeneratorPublish
  try dsimp only
  repeat' (first
    | with_reducible assumption
    | with_reducible apply advance_keeps
    | with_reducible apply reach_keeps
    | with_reducible apply genPublish_keeps
    | with_reducible apply OutKeeps.ite
    | with_reducible apply keeps_ite
    | with_reducible apply OutKeeps.next
    | fail_if_no_progress with_reducible refine keeps_mk ?_ (timeOn rfl rfl rfl rfl rfl)
    | (intro _ _)
    | dsimp only
    | split)

theorem execSdiLockLost_keeps {s0 : State} (t : Nat) (src : Fin 4) (s : State) (h : Keeps s0 s) :
    OutKeeps s0 (execSdiLockLost t src s) := by
  unfold execSdiLockLost
  try dsimp only
  repeat' (first
    | with_reducible assumption
    | with_reducible apply advance_keeps
    | with_reducible apply srcMove_keeps
    | with_reducible apply OutKeeps.ite
    | with_reducible apply keeps_ite
    | with_reducible apply OutKeeps.next
    | fail_if_no_progress with_reducible refine keeps_mk ?_ (timeOn rfl rfl rfl rfl rfl)
    | (intro _ _)
    | dsimp only
    | split)

theorem execSourceLossTimeout_keeps {s0 : State} (t : Nat) (src : Fin 28) (s : State) (h : Keeps s0 s) :
    OutKeeps s0 (execSourceLossTimeout t src s) := by
  unfold execSourceLossTimeout
  try dsimp only
  repeat' (first
    | with_reducible assumption
    | with_reducible apply advance_keeps
    | with_reducible apply srcMove_keeps
    | with_reducible apply OutKeeps.ite
    | with_reducible apply keeps_ite
    | with_reducible apply OutKeeps.next
    | fail_if_no_progress with_reducible refine keeps_mk ?_ (timeOn rfl rfl rfl rfl rfl)
    | (intro _ _)
    | dsimp only
    | split)

theorem execSignalReturn_keeps {s0 : State} (t : Nat) (src : Fin 28) (s : State) (h : Keeps s0 s) :
    OutKeeps s0 (execSignalReturn t src s) := by
  unfold execSignalReturn
  try dsimp only
  repeat' (first
    | with_reducible assumption
    | with_reducible apply advance_keeps
    | with_reducible apply modSrc_keeps
    | with_reducible apply srcMove_keeps
    | with_reducible apply OutKeeps.ite
    | with_reducible apply keeps_ite
    | with_reducible apply OutKeeps.next
    | fail_if_no_progress with_reducible refine keeps_mk ?_ (timeOn rfl rfl rfl rfl rfl)
    | (intro _ _)
    | dsimp only
    | split)

theorem unpin_keeps {s0 : State} (l : Nat) (s : State) (h : Keeps s0 s) :
    Keeps s0 (unpin l s) := by
  unfold unpin
  try dsimp only
  repeat' (first
    | with_reducible assumption
    | with_reducible apply modSrc_keeps
    | with_reducible apply modLayer_keeps
    | with_reducible apply keeps_ite)

theorem rebind_keeps {s0 : State} (l : Nat) (s : State) (h : Keeps s0 s) :
    Keeps s0 (rebind l s) := by
  unfold rebind
  try dsimp only
  repeat' (first
    | with_reducible assumption
    | with_reducible apply modLayer_keeps
    | with_reducible apply unpin_keeps
    | with_reducible apply keeps_ite
    | fail_if_no_progress with_reducible refine keeps_mk ?_ (timeOn rfl rfl rfl rfl rfl))

theorem noteSlip_keeps {s0 : State} (i : Nat) (kind : Nat) (n : Nat) (s : State) (h : Keeps s0 s) :
    Keeps s0 (noteSlip i kind n s) := by
  unfold noteSlip
  try dsimp only
  repeat' (first
    | with_reducible assumption
    | with_reducible apply setFlag_keeps
    | with_reducible apply modSrc_keeps
    | with_reducible apply keeps_ite
    | fail_if_no_progress with_reducible refine keeps_mk ?_ (timeOn rfl rfl rfl rfl rfl))

theorem sendSlip_keeps {s0 : State} (s : State) (i : Nat) (h : Keeps s0 s) :
    Keeps s0 (sendSlip s i) := by
  unfold sendSlip
  try dsimp only
  repeat' (first
    | with_reducible assumption
    | with_reducible apply notify_keeps
    | with_reducible apply modSrc_keeps
    | with_reducible apply keeps_ite)

theorem latchReady_keeps {s0 : State} (l : Nat) (f : StoredFrame) (s : State) (h : Keeps s0 s) :
    Keeps s0 (latchReady l f s) := by
  unfold latchReady
  try dsimp only
  repeat' (first
    | with_reducible assumption
    | with_reducible apply bumpBy_keeps
    | with_reducible apply bump_keeps
    | with_reducible apply modLayer_keeps
    | with_reducible apply noteSlip_keeps
    | with_reducible apply keeps_ite
    | with_reducible apply OutKeeps.next
    | fail_if_no_progress with_reducible refine keeps_mk ?_ (timeOn rfl rfl rfl rfl rfl)
    | (intro _ _)
    | dsimp only
    | split)

theorem latchPolicy_keeps {s0 : State} (l : Nat) (s : State) (h : Keeps s0 s) :
    Keeps s0 (latchPolicy l s) := by
  unfold latchPolicy
  try dsimp only
  repeat' (first
    | with_reducible assumption
    | with_reducible apply modSrc_keeps
    | with_reducible apply modLayer_keeps
    | fail_if_no_progress with_reducible refine keeps_mk ?_ (timeOn rfl rfl rfl rfl rfl)
    | (intro _ _)
    | dsimp only
    | split)

theorem noteReady_keeps {s0 : State} (l : Nat) (ready : Bool) (k : Int) (fk : Int) (s : State) (h : Keeps s0 s) :
    Keeps s0 (noteReady l ready k fk s) := by
  unfold noteReady
  try dsimp only
  repeat' (first
    | with_reducible assumption
    | with_reducible apply bump_keeps
    | with_reducible apply setFlag_keeps
    | with_reducible apply notify_keeps
    | with_reducible apply modLayer_keeps
    | with_reducible apply keeps_ite
    | fail_if_no_progress with_reducible refine keeps_mk ?_ (timeOn rfl rfl rfl rfl rfl)
    | (intro _ _)
    | dsimp only
    | split)

theorem holdRelease_keeps {s0 : State} (l : Nat) (fk : Int) (s : State) (h : Keeps s0 s) :
    Keeps s0 (holdRelease l fk s) := by
  unfold holdRelease
  try dsimp only
  repeat' (first
    | with_reducible assumption
    | with_reducible apply modLayer_keeps
    | with_reducible apply unpin_keeps
    | with_reducible apply keeps_ite
    | fail_if_no_progress with_reducible refine keeps_mk ?_ (timeOn rfl rfl rfl rfl rfl))

theorem judgeLayer_keeps {s0 : State} (k : Int) (s : State) (l : Nat) (h : Keeps s0 s) :
    Keeps s0 (judgeLayer k s l) := by
  unfold judgeLayer
  try dsimp only
  repeat' (first
    | with_reducible assumption
    | with_reducible apply modLayer_keeps
    | with_reducible apply rebind_keeps
    | with_reducible apply latchReady_keeps
    | with_reducible apply latchPolicy_keeps
    | with_reducible apply noteReady_keeps
    | with_reducible apply holdRelease_keeps
    | with_reducible apply keeps_ite
    | with_reducible apply OutKeeps.next
    | fail_if_no_progress with_reducible refine keeps_mk ?_ (timeOn rfl rfl rfl rfl rfl)
    | (intro _ _)
    | dsimp only
    | split)

theorem countReady_keeps {s0 : State} (fk : Int) (s : State) (i : Nat) (h : Keeps s0 s) :
    Keeps s0 (countReady fk s i) := by
  unfold countReady
  try dsimp only
  repeat' (first
    | with_reducible assumption
    | with_reducible apply modSrc_keeps)

theorem srcConfigure_keeps {s0 : State} (old : State) (k : Int) (s : State) (i : Nat) (h : Keeps s0 s) :
    Keeps s0 (srcConfigure old k s i) := by
  unfold srcConfigure
  try dsimp only
  repeat' (first
    | with_reducible assumption
    | with_reducible apply modSrc_keeps
    | with_reducible apply srcMove_keeps
    | with_reducible apply genPublish_keeps
    | with_reducible apply keeps_ite
    | fail_if_no_progress with_reducible refine keeps_mk ?_ (timeOn rfl rfl rfl rfl rfl)
    | (intro _ _)
    | dsimp only
    | split)

theorem vinConfigure_keeps {s0 : State} (old : State) (k : Int) (s : State) (h : Keeps s0 s) :
    Keeps s0 (vinConfigure old k s) := by
  unfold vinConfigure
  try dsimp only
  repeat' (first
    | with_reducible assumption
    | with_reducible apply srcConfigure_keeps
    | (with_reducible apply keeps_foldl; intro _ _ _)
    | with_reducible apply keeps_ite
    | with_reducible apply OutKeeps.next
    | fail_if_no_progress with_reducible refine keeps_mk ?_ (timeOn rfl rfl rfl rfl rfl))

theorem frameVin_keeps {s0 : State} (k : Int) (s : State) (h : Keeps s0 s) :
    Keeps s0 (frameVin k s) := by
  unfold frameVin
  try dsimp only
  repeat' (first
    | with_reducible assumption
    | with_reducible apply setReg_keeps
    | with_reducible apply sendSlip_keeps
    | with_reducible apply judgeLayer_keeps
    | with_reducible apply countReady_keeps
    | (with_reducible apply keeps_foldl; intro _ _ _)
    | with_reducible apply keeps_ite
    | with_reducible apply OutKeeps.next
    | fail_if_no_progress with_reducible refine keeps_mk ?_ (timeOn rfl rfl rfl rfl rfl))

theorem vinStop_keeps {s0 : State} (s : State) (h : Keeps s0 s) :
    Keeps s0 (vinStop s) := by
  unfold vinStop
  try dsimp only
  repeat' (first
    | with_reducible assumption
    | fail_if_no_progress with_reducible refine keeps_mk ?_ (timeOn rfl rfl rfl rfl rfl))

theorem vinStart_keeps {s0 : State} (s : State) (h : Keeps s0 s) :
    Keeps s0 (vinStart s) := by
  unfold vinStart
  try dsimp only
  repeat' (first
    | with_reducible assumption
    | with_reducible apply modSrc_keeps
    | with_reducible apply srcMove_keeps
    | (with_reducible apply keeps_foldl; intro _ _ _)
    | with_reducible apply keeps_ite
    | fail_if_no_progress with_reducible refine keeps_mk ?_ (timeOn rfl rfl rfl rfl rfl))

theorem execInputSet_keeps {s0 : State} (c : Call) (p : InputSet) (s : State) (h : Keeps s0 s) :
    OutKeeps s0 (execInputSet c p s) := by
  unfold execInputSet
  try dsimp only
  repeat' (first
    | with_reducible assumption
    | with_reducible apply configMessage_keeps)

theorem execInputStreamSet_keeps {s0 : State} (c : Call) (p : InputStreamSet) (s : State) (h : Keeps s0 s) :
    OutKeeps s0 (execInputStreamSet c p s) := by
  unfold execInputStreamSet
  try dsimp only
  repeat' (first
    | with_reducible assumption
    | with_reducible apply configMessage_keeps)

theorem execGeneratorSet_keeps {s0 : State} (c : Call) (p : GeneratorSet) (s : State) (h : Keeps s0 s) :
    OutKeeps s0 (execGeneratorSet c p s) := by
  unfold execGeneratorSet
  try dsimp only
  repeat' (first
    | with_reducible assumption
    | with_reducible apply configMessage_keeps)

theorem execLayerBind_keeps {s0 : State} (c : Call) (p : LayerBind) (s : State) (h : Keeps s0 s) :
    OutKeeps s0 (execLayerBind c p s) := by
  unfold execLayerBind
  try dsimp only
  repeat' (first
    | with_reducible assumption
    | with_reducible apply configMessage_keeps)

theorem vinShadow_keeps {s0 : State} (m : ConfigMsg) (s : State) (h : Keeps s0 s) :
    Keeps s0 (vinShadow m s) := by
  unfold vinShadow
  try dsimp only
  repeat' (first
    | with_reducible assumption
    | with_reducible apply setReg_keeps
    | with_reducible apply modSrc_keeps
    | with_reducible apply keeps_ite
    | fail_if_no_progress with_reducible refine keeps_mk ?_ (timeOn rfl rfl rfl rfl rfl)
    | (intro _ _)
    | dsimp only
    | split)

theorem execInputStatusGet_keeps {s0 : State} (c : Call) (source : Nat) (s : State) (h : Keeps s0 s) :
    OutKeeps s0 (execInputStatusGet c source s) := by
  unfold execInputStatusGet
  try dsimp only
  repeat' (first
    | with_reducible assumption
    | with_reducible refine command_keeps _ _ _ _ ?_ (fun _ _ => ?_)
    | with_reducible apply refuse_keeps
    | with_reducible apply answer_keeps
    | with_reducible apply OutKeeps.ite
    | with_reducible apply keeps_ite
    | with_reducible apply keeps_ite_fst
    | with_reducible apply OutKeeps.next
    | (intro _ _)
    | dsimp only
    | split)

theorem execLayerRelease_keeps {s0 : State} (c : Call) (layer : Nat) (s : State) (h : Keeps s0 s) :
    OutKeeps s0 (execLayerRelease c layer s) := by
  unfold execLayerRelease
  try dsimp only
  repeat' (first
    | with_reducible assumption
    | with_reducible refine command_keeps _ _ _ _ ?_ (fun _ _ => ?_)
    | with_reducible apply refuse_keeps
    | with_reducible apply accept_keeps
    | with_reducible apply modLayer_keeps
    | with_reducible apply OutKeeps.ite
    | with_reducible apply keeps_ite
    | with_reducible apply keeps_ite_fst
    | with_reducible apply OutKeeps.next
    | fail_if_no_progress with_reducible refine keeps_mk ?_ (timeOn rfl rfl rfl rfl rfl)
    | (intro _ _)
    | dsimp only
    | split)

end Sys2Proof.Laws
end

