-- ==== Sys2Proof/Laws/KeepsCompositor.lean ====
section
/-! SUPPORT. What every command keeps, for the operations of Machine/Compositor.lean. -/

namespace Sys2Proof.Laws

open Sys2Proof.Machine Sys2Proof.Safety

theorem modCmp_keeps {s0 : State} (f : Cmp → Cmp) (s : State) (h : Keeps s0 s) :
    Keeps s0 (modCmp f s) := by
  unfold modCmp
  try dsimp only
  repeat' (first
    | with_reducible assumption
    | with_reducible apply keeps_ite
    | with_reducible apply OutKeeps.next
    | fail_if_no_progress with_reducible refine keeps_mk ?_ (timeOn rfl rfl rfl rfl rfl))

theorem pipeShadow_keeps {s0 : State} (r : Cfg) (pl : CanvasPlan) (s : State) (q : Nat) (h : Keeps s0 s) :
    Keeps s0 (pipeShadow r pl s q) := by
  unfold pipeShadow
  try dsimp only
  repeat' (first
    | with_reducible assumption
    | with_reducible apply setReg_keeps
    | (with_reducible apply keeps_foldl; intro _ _ _)
    | (intro _ _)
    | dsimp only
    | split)

theorem canvasShadow_keeps {s0 : State} (r : Cfg) (s : State) (h : Keeps s0 s) :
    Keeps s0 (canvasShadow r s) := by
  unfold canvasShadow
  try dsimp only
  repeat' (first
    | with_reducible assumption
    | with_reducible apply setReg_keeps
    | with_reducible apply setReg64_keeps)

theorem cmpWrite_keeps {s0 : State} (qs : List Nat) (canvas : Bool) (r : Cfg) (s : State) (h : Keeps s0 s) :
    Keeps s0 (cmpWrite qs canvas r s) := by
  unfold cmpWrite
  try dsimp only
  repeat' (first
    | with_reducible assumption
    | with_reducible apply modCmp_keeps
    | with_reducible apply pipeShadow_keeps
    | with_reducible apply canvasShadow_keeps
    | (with_reducible apply keeps_foldl; intro _ _ _)
    | with_reducible apply keeps_ite
    | fail_if_no_progress with_reducible refine keeps_mk ?_ (timeOn rfl rfl rfl rfl rfl))

theorem cmpCommit_keeps {s0 : State} (k : Int) (tag : Int) (old : Cfg) (new : Cfg) (msgs : List ConfigMsg) (s : State) (h : Keeps s0 s) :
    Keeps s0 (cmpCommit k tag old new msgs s) := by
  unfold cmpCommit
  try dsimp only
  repeat' (first
    | with_reducible assumption
    | with_reducible apply setReg_keeps
    | with_reducible apply modCmp_keeps
    | with_reducible apply cmpWrite_keeps
    | fail_if_no_progress with_reducible refine keeps_mk ?_ (timeOn rfl rfl rfl rfl rfl)
    | (intro _ _)
    | dsimp only
    | split)

theorem cmpGo_keeps {s0 : State} (v : Word) (s : State) (h : Keeps s0 s) :
    Keeps s0 (cmpGo v s) := by
  unfold cmpGo
  try dsimp only
  repeat' (first
    | with_reducible assumption
    | with_reducible apply modCmp_keeps
    | with_reducible apply keeps_ite
    | fail_if_no_progress with_reducible refine keeps_mk ?_ (timeOn rfl rfl rfl rfl rfl))

theorem cmpInForce_keeps {s0 : State} (tag : Int) (s : State) (h : Keeps s0 s) :
    Keeps s0 (cmpInForce tag s) := by
  unfold cmpInForce
  try dsimp only
  repeat' (first
    | with_reducible assumption
    | with_reducible apply modCmp_keeps
    | fail_if_no_progress with_reducible refine keeps_mk ?_ (timeOn rfl rfl rfl rfl rfl))

theorem cmpCopy_keeps {s0 : State} (a : Int × Int) (s : State) (h : Keeps s0 s) :
    Keeps s0 (cmpCopy a s) := by
  unfold cmpCopy
  try dsimp only
  repeat' (first
    | with_reducible assumption
    | with_reducible apply copyShadows_keeps
    | with_reducible apply bump_keeps
    | with_reducible apply setFlag_keeps
    | with_reducible apply modCmp_keeps
    | with_reducible apply cmpInForce_keeps
    | with_reducible apply keeps_ite
    | with_reducible apply keeps_ite_fst
    | fail_if_no_progress with_reducible refine keeps_mk ?_ (timeOn rfl rfl rfl rfl rfl))

theorem startCanvas_keeps {s0 : State} (k : Int) (s : State) (h : Keeps s0 s) :
    Keeps s0 (startCanvas k s) := by
  unfold startCanvas
  try dsimp only
  repeat' (first
    | with_reducible assumption
    | with_reducible apply modCmp_keeps
    | with_reducible apply keeps_ite
    | with_reducible apply keeps_ite_fst)

theorem frameCmp_keeps {s0 : State} (k : Int) (s : State) (h : Keeps s0 s) :
    Keeps s0 (frameCmp k s) := by
  unfold frameCmp
  try dsimp only
  repeat' (first
    | with_reducible assumption
    | with_reducible apply bump_keeps
    | with_reducible apply setFlag_keeps
    | with_reducible apply modCmp_keeps
    | with_reducible apply cmpCopy_keeps
    | with_reducible apply startCanvas_keeps
    | with_reducible apply keeps_ite
    | fail_if_no_progress with_reducible refine keeps_mk ?_ (timeOn rfl rfl rfl rfl rfl)
    | (intro _ _)
    | dsimp only
    | split)

theorem canvasComplete_keeps {s0 : State} (n : Nat) (c : Canvas) (s : State) (h : Keeps s0 s) :
    Keeps s0 (canvasComplete n c s) := by
  unfold canvasComplete
  try dsimp only
  repeat' (first
    | with_reducible assumption
    | with_reducible apply notify_keeps
    | with_reducible apply modCmp_keeps
    | with_reducible apply keeps_ite
    | (intro _ _)
    | dsimp only
    | split)

theorem putTile_keeps {s0 : State} (n : Nat) (c : Canvas) (tile : Nat) (l : Look) (s : State) (h : Keeps s0 s) :
    Keeps s0 (putTile n c tile l s) := by
  unfold putTile
  try dsimp only
  repeat' (first
    | with_reducible assumption
    | with_reducible apply modCmp_keeps
    | fail_if_no_progress with_reducible refine keeps_mk ?_ (timeOn rfl rfl rfl rfl rfl))

theorem repairTile_keeps {s0 : State} (n : Nat) (c : Canvas) (s : State) (tile : Nat) (h : Keeps s0 s) :
    Keeps s0 (repairTile n c s tile) := by
  unfold repairTile
  try dsimp only
  repeat' (first
    | with_reducible assumption
    | with_reducible apply bump_keeps
    | with_reducible apply setFlag_keeps
    | with_reducible apply putTile_keeps
    | (intro _ _)
    | dsimp only
    | split)

theorem canvasLine_keeps {s0 : State} (line : Nat) (s : State) (h : Keeps s0 s) :
    Keeps s0 (canvasLine line s) := by
  unfold canvasLine
  try dsimp only
  repeat' (first
    | with_reducible assumption
    | with_reducible apply modCmp_keeps
    | with_reducible apply canvasComplete_keeps
    | with_reducible apply repairTile_keeps
    | (with_reducible apply keeps_foldl; intro _ _ _)
    | with_reducible apply keeps_ite
    | with_reducible apply OutKeeps.next
    | fail_if_no_progress with_reducible refine keeps_mk ?_ (timeOn rfl rfl rfl rfl rfl)
    | (intro _ _)
    | dsimp only
    | split)

theorem cmpStop_keeps {s0 : State} (s : State) (h : Keeps s0 s) :
    Keeps s0 (cmpStop s) := by
  unfold cmpStop
  try dsimp only
  repeat' (first
    | with_reducible assumption
    | with_reducible apply modCmp_keeps
    | fail_if_no_progress with_reducible refine keeps_mk ?_ (timeOn rfl rfl rfl rfl rfl))

theorem cmpOff_keeps {s0 : State} (s : State) (h : Keeps s0 s) :
    Keeps s0 (cmpOff s) := by
  unfold cmpOff
  try dsimp only
  repeat' (first
    | with_reducible assumption
    | with_reducible apply modCmp_keeps
    | with_reducible apply cmpStop_keeps
    | fail_if_no_progress with_reducible refine keeps_mk ?_ (timeOn rfl rfl rfl rfl rfl))

theorem execLayerSet_keeps {s0 : State} (c : Call) (p : LayerSet) (s : State) (h : Keeps s0 s) :
    OutKeeps s0 (execLayerSet c p s) := by
  unfold execLayerSet
  try dsimp only
  repeat' (first
    | with_reducible assumption
    | with_reducible apply configMessage_keeps)

theorem execCanvasSet_keeps {s0 : State} (c : Call) (p : CanvasSet) (s : State) (h : Keeps s0 s) :
    OutKeeps s0 (execCanvasSet c p s) := by
  unfold execCanvasSet
  try dsimp only
  repeat' (first
    | with_reducible assumption
    | with_reducible apply configMessage_keeps)

theorem execCompStatusGet_keeps {s0 : State} (c : Call) (s : State) (h : Keeps s0 s) :
    OutKeeps s0 (execCompStatusGet c s) := by
  unfold execCompStatusGet
  try dsimp only
  repeat' (first
    | with_reducible assumption
    | with_reducible refine command_keeps _ _ _ _ ?_ (fun _ _ => ?_)
    | with_reducible apply answer_keeps)

end Sys2Proof.Laws
end

