-- ==== Sys2Proof/Laws/KeepsIntegrity.lean ====
section
/-! SUPPORT. What every command keeps, for the operations of Machine/Integrity.lean. -/

namespace Sys2Proof.Laws

open Sys2Proof.Machine Sys2Proof.Safety

theorem chkSettle_keeps {s0 : State} (ch : Nat) (s : State) (h : Keeps s0 s) :
    Keeps s0 (chkSettle ch s) := by
  unfold chkSettle
  try dsimp only
  repeat' (first
    | with_reducible assumption
    | with_reducible apply chkRun_keeps
    | fail_if_no_progress with_reducible refine keeps_mk ?_ (timeOn rfl rfl rfl rfl rfl)
    | (intro _ _)
    | dsimp only
    | split)

theorem byOwner_keeps {s0 : State} (owner ch : Nat) (s : State) (f : State → State) (h : Keeps s0 s) (hf : ∀ x, Keeps s0 x → Keeps s0 (f x)) :
    Keeps s0 (byOwner owner ch s f) := by
  unfold byOwner
  split
  · exact hf _ (chkSettle_keeps _ _ h)
  · exact setFlag_keeps _ _ _ h

theorem chkStart_keeps {s0 : State} (ch : Nat) (aliveClr : Bool) (s : State) (h : Keeps s0 s) :
    Keeps s0 (chkStart ch aliveClr s) := by
  unfold chkStart
  try dsimp only
  repeat' (first
    | with_reducible assumption
    | with_reducible apply setReg_keeps
    | with_reducible apply setField_keeps
    | with_reducible apply keeps_ite)

theorem chkFeed_keeps {s0 : State} (ch : Nat) (w : Word) (s : State) (h : Keeps s0 s) :
    Keeps s0 (chkFeed ch w s) := by
  unfold chkFeed
  try dsimp only
  repeat' (first
    | with_reducible assumption
    | with_reducible apply setReg_keeps
    | with_reducible apply bumpBy_keeps)

theorem aliveFault_keeps {s0 : State} (ch : Nat) (s : State) (h : Keeps s0 s) :
    Keeps s0 (aliveFault ch s) := by
  unfold aliveFault
  try dsimp only
  repeat' (first
    | with_reducible assumption
    | with_reducible apply setFlag_keeps
    | with_reducible apply keeps_ite)

theorem modProtect_keeps {s0 : State} (f : Protect → Protect) (s : State) (h : Keeps s0 s) :
    Keeps s0 (modProtect f s) := by
  unfold modProtect
  try dsimp only
  repeat' (first
    | with_reducible assumption
    | with_reducible apply keeps_ite
    | with_reducible apply OutKeeps.next
    | fail_if_no_progress with_reducible refine keeps_mk ?_ (timeOn rfl rfl rfl rfl rfl))

theorem judgeAlive_keeps {s0 : State} (ch : Nat) (a : Nat) (s : State) (h : Keeps s0 s) :
    Keeps s0 (judgeAlive ch a s) := by
  unfold judgeAlive
  try dsimp only
  repeat' (first
    | with_reducible assumption
    | with_reducible apply setReg_keeps
    | with_reducible apply bumpField_keeps
    | with_reducible apply aliveFault_keeps
    | with_reducible apply modProtect_keeps
    | fail_if_no_progress with_reducible refine keeps_mk ?_ (timeOn rfl rfl rfl rfl rfl)
    | (intro _ _)
    | dsimp only
    | split)

theorem chkResult_keeps {s0 : State} (ch : Nat) (s : State) (h : Keeps s0 s) :
    Keeps s0 (chkResult ch s) := by
  unfold chkResult
  try dsimp only
  repeat' (first
    | with_reducible assumption
    | with_reducible apply setReg_keeps
    | with_reducible apply modProtect_keeps
    | fail_if_no_progress with_reducible refine keeps_mk ?_ (timeOn rfl rfl rfl rfl rfl))

theorem chkFinish_keeps {s0 : State} (ch : Nat) (a : Nat) (s : State) (h : Keeps s0 s) :
    Keeps s0 (chkFinish ch a s) := by
  unfold chkFinish
  try dsimp only
  repeat' (first
    | with_reducible assumption
    | with_reducible apply judgeAlive_keeps
    | with_reducible apply chkResult_keeps
    | with_reducible apply keeps_ite)

theorem chkState_keeps {s0 : State} (ch : Nat) (alive : Bool) (write : Option Word) (s : State) (h : Keeps s0 s) :
    Keeps s0 (chkState ch alive write s) := by
  unfold chkState
  dsimp only
  split
  · exact setReg_keeps _ _ _ h
  · exact keeps_regs h (fun x => x)

theorem execChkStart_keeps {s0 : State} (t : Nat) (owner : Nat) (ch : Fin 64) (aliveClr : Bool) (s : State) (h : Keeps s0 s) :
    OutKeeps s0 (execChkStart t owner ch aliveClr s) := by
  unfold execChkStart
  try dsimp only
  repeat' (first
    | with_reducible assumption
    | with_reducible apply advance_keeps
    | with_reducible refine byOwner_keeps _ _ _ _ ?_ (fun _ _ => ?_)
    | with_reducible apply chkStart_keeps
    | with_reducible apply OutKeeps.ite
    | with_reducible apply keeps_ite
    | with_reducible apply OutKeeps.next)

theorem execChkFeed_keeps {s0 : State} (t : Nat) (owner : Nat) (ch : Fin 64) (w : Word) (s : State) (h : Keeps s0 s) :
    OutKeeps s0 (execChkFeed t owner ch w s) := by
  unfold execChkFeed
  try dsimp only
  repeat' (first
    | with_reducible assumption
    | with_reducible apply advance_keeps
    | with_reducible refine byOwner_keeps _ _ _ _ ?_ (fun _ _ => ?_)
    | with_reducible apply chkFeed_keeps
    | with_reducible apply OutKeeps.ite
    | with_reducible apply keeps_ite
    | with_reducible apply OutKeeps.next)

theorem execChkFinish_keeps {s0 : State} (t : Nat) (owner : Nat) (ch : Fin 64) (alive : Nat) (s : State) (h : Keeps s0 s) :
    OutKeeps s0 (execChkFinish t owner ch alive s) := by
  unfold execChkFinish
  try dsimp only
  repeat' (first
    | with_reducible assumption
    | with_reducible apply advance_keeps
    | with_reducible refine byOwner_keeps _ _ _ _ ?_ (fun _ _ => ?_)
    | with_reducible apply chkFinish_keeps
    | with_reducible apply OutKeeps.ite
    | with_reducible apply keeps_ite
    | with_reducible apply OutKeeps.next)

theorem execChkStateAccess_keeps {s0 : State} (t : Nat) (owner : Nat) (ch : Fin 64) (alive : Bool) (write : Option Word) (s : State) (h : Keeps s0 s) :
    OutKeeps s0 (execChkStateAccess t owner ch alive write s) := by
  unfold execChkStateAccess
  try dsimp only
  repeat' (first
    | with_reducible assumption
    | with_reducible apply advance_keeps
    | with_reducible refine byOwner_keeps _ _ _ _ ?_ (fun _ _ => ?_)
    | with_reducible apply chkState_keeps
    | with_reducible apply OutKeeps.ite
    | with_reducible apply keeps_ite
    | with_reducible apply OutKeeps.next)

theorem assignChannels_keeps {s0 : State} (s : State) (h : Keeps s0 s) :
    Keeps s0 (assignChannels s) := by
  unfold assignChannels
  try dsimp only
  repeat' (first
    | with_reducible assumption
    | with_reducible apply setField_keeps
    | (with_reducible apply keeps_foldl; intro _ _ _))

theorem modFifo_keeps {s0 : State} (q : Nat) (f : Fifo → Fifo) (s : State) (h : Keeps s0 s) :
    Keeps s0 (modFifo q f s) := by
  unfold modFifo
  try dsimp only
  repeat' (first
    | with_reducible assumption
    | with_reducible apply keeps_ite
    | with_reducible apply OutKeeps.next
    | fail_if_no_progress with_reducible refine keeps_mk ?_ (timeOn rfl rfl rfl rfl rfl))

theorem fifoWrite_keeps {s0 : State} (q : Nat) (byte : BitVec 8) (first : Bool) (eop : Bool) (s : State) (h : Keeps s0 s) :
    Keeps s0 (fifoWrite q byte first eop s) := by
  unfold fifoWrite
  try dsimp only
  repeat' (first
    | with_reducible assumption
    | with_reducible apply bumpField_keeps
    | with_reducible apply modFifo_keeps
    | with_reducible apply keeps_ite
    | fail_if_no_progress with_reducible refine keeps_mk ?_ (timeOn rfl rfl rfl rfl rfl))

theorem fifoUnderrun_keeps {s0 : State} (q : Nat) (wide : Bool) (s : State) (h : Keeps s0 s) : Keeps s0 (fifoUnderrun q wide s) := by
  have h1 := modFifo_keeps q (fifoWide wide (fifoOf s q).last.data) _ (bumpField_keeps (R.FIF_Qn_CNT q) 15 0 1 _ (setFlag_keeps (R.FIF_Qn_STAT q) 0 _ h))
  unfold fifoUnderrun
  exact keeps_regs h1 (fun x => x)

theorem fifoPop_keeps {s0 : State} (q : Nat) (bad : BitVec 8) (wide : Bool) (s : State) (h : Keeps s0 s) : Keeps s0 (fifoPop q bad wide s) := by
  unfold fifoPop
  dsimp only
  split
  · exact fifoUnderrun_keeps _ _ _ h
  · exact keeps_regs (modFifo_keeps _ _ _ h) (fun x => x)

theorem fifoSpoiled_keeps {s0 : State} (q : Nat) (f : Fifo) (s : State) (h : Keeps s0 s) :
    Keeps s0 (fifoSpoiled q f s) := by
  unfold fifoSpoiled
  try dsimp only
  repeat' (first
    | with_reducible assumption
    | with_reducible apply notify_keeps
    | with_reducible apply modFifo_keeps
    | with_reducible apply keeps_ite)

theorem fifoPacket_keeps {s0 : State} (q : Nat) (bytes : List (BitVec 8)) (s : State) (h : Keeps s0 s) :
    Keeps s0 (fifoPacket q bytes s) := by
  unfold fifoPacket
  try dsimp only
  repeat' (first
    | with_reducible assumption
    | with_reducible apply fifoWrite_keeps
    | (with_reducible apply keeps_foldl; intro _ _ _))

theorem intake_keeps {s0 : State} (q : Nat) (bytes : List (BitVec 8)) (s : State) (h : Keeps s0 s) :
    Keeps s0 (intake q bytes s).1 := by
  unfold intake
  try dsimp only
  repeat' (first
    | with_reducible assumption
    | with_reducible apply modFifo_keeps
    | with_reducible apply fifoPacket_keeps
    | with_reducible apply keeps_ite
    | with_reducible apply keeps_ite_fst
    | (intro _ _)
    | dsimp only
    | split)

theorem assignQueues_keeps {s0 : State} (s : State) (h : Keeps s0 s) :
    Keeps s0 (assignQueues s) := by
  unfold assignQueues
  try dsimp only
  repeat' (first
    | with_reducible assumption
    | with_reducible apply setReg_keeps
    | (with_reducible apply keeps_foldl; intro _ _ _)
    | with_reducible apply keeps_ite)

theorem fifoFault_keeps {s0 : State} (q : Nat) (popping : Bool) (s : State) (h : Keeps s0 s) :
    Keeps s0 (fifoFault q popping s) := by
  unfold fifoFault
  try dsimp only
  repeat' (first
    | with_reducible assumption
    | with_reducible apply setFlag_keeps
    | with_reducible apply notify_keeps
    | with_reducible apply modFifo_keeps
    | with_reducible apply fifoUnderrun_keeps
    | with_reducible apply keeps_ite
    | fail_if_no_progress with_reducible refine keeps_mk ?_ (timeOn rfl rfl rfl rfl rfl))

theorem execFifoByteWrite_keeps {s0 : State} (t : Nat) (q : Fin 18) (byte : BitVec 8) (first : Bool) (eop : Bool) (s : State) (h : Keeps s0 s) :
    OutKeeps s0 (execFifoByteWrite t q byte first eop s) := by
  unfold execFifoByteWrite
  try dsimp only
  repeat' (first
    | with_reducible assumption
    | with_reducible apply advance_keeps
    | with_reducible apply fifoWrite_keeps
    | with_reducible apply OutKeeps.ite
    | with_reducible apply keeps_ite
    | with_reducible apply OutKeeps.next)

theorem execFifoPointerFault_keeps {s0 : State} (t : Nat) (q : Fin 18) (popping : Bool) (s : State) (h : Keeps s0 s) :
    OutKeeps s0 (execFifoPointerFault t q popping s) := by
  unfold execFifoPointerFault
  try dsimp only
  repeat' (first
    | with_reducible assumption
    | with_reducible apply advance_keeps
    | with_reducible apply fifoFault_keeps
    | with_reducible apply OutKeeps.ite
    | with_reducible apply keeps_ite
    | with_reducible apply OutKeeps.next)

theorem outputClear_keeps {s0 : State} (object : Nat) (sites : List Nat) (s : State) (h : Keeps s0 s) :
    Keeps s0 (outputClear object sites s) := by
  unfold outputClear
  try dsimp only
  repeat' (first
    | with_reducible assumption
    | with_reducible apply modProtect_keeps)

theorem countError_keeps {s0 : State} (kind : Nat) (s : State) (h : Keeps s0 s) :
    Keeps s0 (countError kind s) := by
  unfold countError
  try dsimp only
  repeat' (first
    | with_reducible assumption
    | with_reducible apply bump_keeps
    | with_reducible apply setFlag_keeps
    | with_reducible apply keeps_ite
    | with_reducible apply OutKeeps.next
    | fail_if_no_progress with_reducible refine keeps_mk ?_ (timeOn rfl rfl rfl rfl rfl)
    | (intro _ _)
    | dsimp only
    | split)

theorem captureError_keeps {s0 : State} (e : ErrorFound) (s : State) (h : Keeps s0 s) :
    Keeps s0 (captureError e s) := by
  unfold captureError
  try dsimp only
  repeat' (first
    | with_reducible assumption
    | with_reducible apply setReg_keeps
    | with_reducible apply setReg64_keeps
    | with_reducible apply keeps_ite)

theorem noticeError_keeps {s0 : State} (e : ErrorFound) (s : State) (h : Keeps s0 s) :
    Keeps s0 (noticeError e s) := by
  unfold noticeError
  try dsimp only
  repeat' (first
    | with_reducible assumption
    | with_reducible apply notify_keeps
    | with_reducible apply modProtect_keeps
    | with_reducible apply keeps_ite
    | with_reducible apply keeps_ite_fst
    | fail_if_no_progress with_reducible refine keeps_mk ?_ (timeOn rfl rfl rfl rfl rfl)
    | (intro _ _)
    | dsimp only
    | split)

theorem runError_keeps {s0 : State} (e : ErrorFound) (s : State) (h : Keeps s0 s) :
    Keeps s0 (runError e s) := by
  unfold runError
  try dsimp only
  repeat' (first
    | with_reducible assumption
    | with_reducible apply modProtect_keeps
    | with_reducible apply keeps_ite)

theorem errorFound_keeps {s0 : State} (e : ErrorFound) (s : State) (h : Keeps s0 s) :
    Keeps s0 (errorFound e s) := by
  unfold errorFound
  try dsimp only
  repeat' (first
    | with_reducible assumption
    | with_reducible apply countError_keeps
    | with_reducible apply captureError_keeps
    | with_reducible apply noticeError_keeps
    | with_reducible apply runError_keeps)

theorem fifoRead_keeps {s0 : State} (q : Nat) (bad : BitVec 8) (wide : Bool) (s : State) (h : Keeps s0 s) :
    Keeps s0 (fifoRead q bad wide s) := by
  unfold fifoRead
  try dsimp only
  repeat' (first
    | with_reducible assumption
    | with_reducible apply fifoPop_keeps
    | with_reducible apply fifoSpoiled_keeps
    | with_reducible apply errorFound_keeps
    | with_reducible apply keeps_ite)

theorem execFifoPop_keeps {s0 : State} (t : Nat) (q : Fin 18) (bad : BitVec 8) (wide : Bool) (s : State) (h : Keeps s0 s) :
    OutKeeps s0 (execFifoPop t q bad wide s) := by
  unfold execFifoPop
  try dsimp only
  repeat' (first
    | with_reducible assumption
    | with_reducible apply advance_keeps
    | with_reducible apply fifoRead_keeps
    | with_reducible apply OutKeeps.ite
    | with_reducible apply OutKeeps.next
    | (intro _ _)
    | dsimp only
    | split)

end Sys2Proof.Laws
end

