-- ==== Sys2Proof/Laws/KeepsFixtureMap.lean ====
section
/-! SUPPORT. What every command keeps, for the operations of Machine/FixtureMap.lean. -/

namespace Sys2Proof.Laws

open Sys2Proof.Machine Sys2Proof.Safety

theorem modFxm_keeps {s0 : State} (f : Fxm → Fxm) (s : State) (h : Keeps s0 s) :
    Keeps s0 (modFxm f s) := by
  unfold modFxm
  try dsimp only
  repeat' (first
    | with_reducible assumption
    | with_reducible apply keeps_ite
    | with_reducible apply OutKeeps.next
    | fail_if_no_progress with_reducible refine keeps_mk ?_ (timeOn rfl rfl rfl rfl rfl))

theorem applyShed_keeps {s0 : State} (k : Int) (s : State) (h : Keeps s0 s) :
    Keeps s0 (applyShed k s) := by
  unfold applyShed
  try dsimp only
  repeat' (first
    | with_reducible assumption
    | with_reducible apply bump_keeps
    | with_reducible apply setFlag_keeps
    | with_reducible apply notify_keeps
    | with_reducible apply modFxm_keeps
    | (with_reducible apply keeps_foldl; intro _ _ _)
    | with_reducible apply keeps_ite
    | with_reducible apply keeps_ite_fst
    | fail_if_no_progress with_reducible refine keeps_mk ?_ (timeOn rfl rfl rfl rfl rfl))

theorem staleNotice_keeps {s0 : State} (st : Nat) (unit : Nat) (e : Nat × FixtureEntry) (s : State) (h : Keeps s0 s) :
    Keeps s0 (staleNotice st unit e s) := by
  unfold staleNotice
  try dsimp only
  repeat' (first
    | with_reducible assumption
    | with_reducible apply setFlag_keeps
    | with_reducible apply notify_keeps)

theorem fixtureHold_keeps {s0 : State} (key : Nat) (unit : Nat) (stale : Bool) (s : State) (e : Nat × FixtureEntry) (h : Keeps s0 s) :
    Keeps s0 (fixtureHold key unit stale s e) := by
  unfold fixtureHold
  try dsimp only
  repeat' (first
    | with_reducible assumption
    | with_reducible apply bump_keeps
    | with_reducible apply modFxm_keeps
    | with_reducible apply staleNotice_keeps
    | with_reducible apply keeps_ite
    | with_reducible apply keeps_ite_fst
    | fail_if_no_progress with_reducible refine keeps_mk ?_ (timeOn rfl rfl rfl rfl rfl))

theorem unitHold_keeps {s0 : State} (key : Nat) (unit : Nat) (stale : Bool) (fs : List (Nat × FixtureEntry)) (s : State) (h : Keeps s0 s) :
    Keeps s0 (unitHold key unit stale fs s) := by
  unfold unitHold
  try dsimp only
  repeat' (first
    | with_reducible assumption
    | with_reducible apply fixtureHold_keeps
    | (with_reducible apply keeps_foldl; intro _ _ _))

theorem unitReport_keeps {s0 : State} (key : Nat) (unit : Nat) (stale : Bool) (fs : List (Nat × FixtureEntry)) (s : State) (h : Keeps s0 s) :
    Keeps s0 (unitReport key unit stale fs s) := by
  unfold unitReport
  try dsimp only
  repeat' (first
    | with_reducible assumption
    | with_reducible apply modFxm_keeps
    | with_reducible apply unitHold_keeps
    | with_reducible apply keeps_ite
    | fail_if_no_progress with_reducible refine keeps_mk ?_ (timeOn rfl rfl rfl rfl rfl))

theorem mapFollow_keeps {s0 : State} (old : Cfg) (new : Cfg) (s : State) (h : Keeps s0 s) :
    Keeps s0 (mapFollow old new s) := by
  unfold mapFollow
  try dsimp only
  repeat' (first
    | with_reducible assumption
    | with_reducible apply modFxm_keeps)

theorem fxmStart_keeps {s0 : State} (s : State) (h : Keeps s0 s) :
    Keeps s0 (fxmStart s) := by
  unfold fxmStart
  try dsimp only
  repeat' (first
    | with_reducible assumption
    | with_reducible apply modFxm_keeps)

theorem execFixtureSet_keeps {s0 : State} (c : Call) (p : FixtureSet) (s : State) (h : Keeps s0 s) :
    OutKeeps s0 (execFixtureSet c p s) := by
  unfold execFixtureSet
  try dsimp only
  repeat' (first
    | with_reducible assumption
    | with_reducible apply configMessage_keeps)

theorem execZoneSet_keeps {s0 : State} (c : Call) (p : ZoneSet) (s : State) (h : Keeps s0 s) :
    OutKeeps s0 (execZoneSet c p s) := by
  unfold execZoneSet
  try dsimp only
  repeat' (first
    | with_reducible assumption
    | with_reducible apply configMessage_keeps)

theorem execAttrSet_keeps {s0 : State} (c : Call) (p : AttrSet) (s : State) (h : Keeps s0 s) :
    OutKeeps s0 (execAttrSet c p s) := by
  unfold execAttrSet
  try dsimp only
  repeat' (first
    | with_reducible assumption
    | with_reducible apply configMessage_keeps)

theorem fxmGo_keeps {s0 : State} (v : Word) (s : State) (h : Keeps s0 s) :
    Keeps s0 (fxmGo v s) := by
  unfold fxmGo
  try dsimp only
  repeat' (first
    | with_reducible assumption
    | with_reducible apply modFxm_keeps
    | with_reducible apply keeps_ite)

theorem execZoneGet_keeps {s0 : State} (c : Call) (zone : Nat) (s : State) (h : Keeps s0 s) :
    OutKeeps s0 (execZoneGet c zone s) := by
  unfold execZoneGet
  try dsimp only
  repeat' (first
    | with_reducible assumption
    | with_reducible refine command_keeps _ _ _ _ ?_ (fun _ _ => ?_)
    | with_reducible apply refuse_keeps
    | with_reducible apply answer_keeps
    | with_reducible apply OutKeeps.ite
    | with_reducible apply keeps_ite
    | with_reducible apply OutKeeps.next
    | fail_if_no_progress with_reducible refine keeps_mk ?_ (timeOn rfl rfl rfl rfl rfl)
    | (intro _ _)
    | dsimp only
    | split)

theorem execAttrValueSet_keeps {s0 : State} (c : Call) (p : AttrValueSet) (s : State) (h : Keeps s0 s) :
    OutKeeps s0 (execAttrValueSet c p s) := by
  unfold execAttrValueSet
  try dsimp only
  repeat' (first
    | with_reducible assumption
    | with_reducible refine command_keeps _ _ _ _ ?_ (fun _ _ => ?_)
    | with_reducible apply refuse_keeps
    | with_reducible apply accept_keeps
    | with_reducible apply modFxm_keeps
    | (with_reducible apply keeps_foldl; intro _ _ _)
    | with_reducible apply OutKeeps.ite
    | with_reducible apply keeps_ite
    | with_reducible apply keeps_ite_fst
    | with_reducible apply OutKeeps.next
    | fail_if_no_progress with_reducible refine keeps_mk ?_ (timeOn rfl rfl rfl rfl rfl)
    | (intro _ _)
    | dsimp only
    | split)

theorem fxmStop_keeps {s0 : State} (s : State) (h : Keeps s0 s) :
    Keeps s0 (fxmStop s) := by
  unfold fxmStop
  try dsimp only
  repeat' (first
    | with_reducible assumption
    | with_reducible apply modFxm_keeps
    | fail_if_no_progress with_reducible refine keeps_mk ?_ (timeOn rfl rfl rfl rfl rfl))

end Sys2Proof.Laws
end

