-- ==== Sys2Proof/Laws/KeepsLate.lean ====
section
/-! SUPPORT. What every command keeps, for the operations of Machine/Late.lean. -/

namespace Sys2Proof.Laws

open Sys2Proof.Machine Sys2Proof.Safety

theorem modPool_keeps {s0 : State} (f : Pool → Pool) (s : State) (h : Keeps s0 s) :
    Keeps s0 (modPool f s) := by
  unfold modPool
  try dsimp only
  repeat' (first
    | with_reducible assumption
    | with_reducible apply keeps_ite
    | with_reducible apply OutKeeps.next
    | fail_if_no_progress with_reducible refine keeps_mk ?_ (timeOn rfl rfl rfl rfl rfl))

theorem lateNotice_keeps {s0 : State} (z : Nat) (s : State) (h : Keeps s0 s) :
    Keeps s0 (lateNotice z s) := by
  unfold lateNotice
  try dsimp only
  repeat' (first
    | with_reducible assumption
    | with_reducible apply notify_keeps
    | with_reducible apply modPool_keeps
    | with_reducible apply keeps_ite)

theorem zoneLate_keeps {s0 : State} (stage : Nat) (z : Nat) (k : Int) (pixels : Nat) (s : State) (h : Keeps s0 s) :
    Keeps s0 (zoneLate stage z k pixels s) := by
  unfold zoneLate
  try dsimp only
  repeat' (first
    | with_reducible assumption
    | with_reducible apply modPool_keeps
    | with_reducible apply lateNotice_keeps
    | with_reducible apply keeps_ite)

theorem unsentZone_keeps {s0 : State} (k : Int) (s : State) (z : Nat) (h : Keeps s0 s) :
    Keeps s0 (unsentZone k s z) := by
  unfold unsentZone
  try dsimp only
  repeat' (first
    | with_reducible assumption
    | with_reducible apply modPool_keeps
    | with_reducible apply keeps_ite
    | fail_if_no_progress with_reducible refine keeps_mk ?_ (timeOn rfl rfl rfl rfl rfl))

end Sys2Proof.Laws
end

