-- ==== Sys2Proof/Laws/KeepsMac.lean ====
section
/-! SUPPORT. What every command keeps, for the operations of Machine/Mac.lean. -/

namespace Sys2Proof.Laws

open Sys2Proof.Machine Sys2Proof.Safety

theorem modMac_keeps {s0 : State} (f : Mac → Mac) (s : State) (h : Keeps s0 s) :
    Keeps s0 (modMac f s) := by
  unfold modMac
  try dsimp only
  repeat' (first
    | with_reducible assumption
    | with_reducible apply keeps_ite
    | with_reducible apply OutKeeps.next
    | fail_if_no_progress with_reducible refine keeps_mk ?_ (timeOn rfl rfl rfl rfl rfl))

theorem modPort_keeps {s0 : State} (p : Nat) (f : MacPort → MacPort) (s : State) (h : Keeps s0 s) :
    Keeps s0 (modPort p f s) := by
  unfold modPort
  try dsimp only
  repeat' (first
    | with_reducible assumption
    | with_reducible apply modMac_keeps)

theorem tallyBy_keeps {s0 : State} (p : Nat) (i : Nat) (n : Nat) (s : State) (h : Keeps s0 s) :
    Keeps s0 (tallyBy p i n s) := by
  unfold tallyBy
  try dsimp only
  repeat' (first
    | with_reducible assumption
    | with_reducible apply modPort_keeps)

theorem tallyUp_keeps {s0 : State} (p : Nat) (i : Nat) (s : State) (h : Keeps s0 s) :
    Keeps s0 (tallyUp p i s) := by
  unfold tallyUp
  try dsimp only
  repeat' (first
    | with_reducible assumption
    | with_reducible apply tallyBy_keeps)

theorem tsqDrop_keeps {s0 : State} (p : Nat) (s : State) (h : Keeps s0 s) :
    Keeps s0 (tsqDrop p s) := by
  unfold tsqDrop
  try dsimp only
  repeat' (first
    | with_reducible assumption
    | with_reducible apply setFlag_keeps
    | with_reducible apply notify_keeps
    | with_reducible apply modPort_keeps
    | with_reducible apply tallyUp_keeps
    | with_reducible apply keeps_ite
    | fail_if_no_progress with_reducible refine keeps_mk ?_ (timeOn rfl rfl rfl rfl rfl)
    | (intro _ _)
    | dsimp only
    | split)

theorem tsqSettle_keeps {s0 : State} (p : Nat) (s : State) (h : Keeps s0 s) :
    Keeps s0 (tsqSettle p s) := by
  unfold tsqSettle
  try dsimp only
  repeat' (first
    | with_reducible assumption
    | with_reducible apply modPort_keeps
    | with_reducible apply tsqDrop_keeps
    | with_reducible apply keeps_ite
    | fail_if_no_progress with_reducible refine keeps_mk ?_ (timeOn rfl rfl rfl rfl rfl)
    | (intro _ _)
    | dsimp only
    | split)

theorem portAt_keeps {s0 : State} (p : Nat) (t : Nat) (s : State) (h : Keeps s0 s) :
    Keeps s0 (portAt p t s) := by
  unfold portAt
  try dsimp only
  repeat' (first
    | with_reducible assumption
    | with_reducible apply advance_keeps
    | with_reducible apply tsqSettle_keeps)

theorem tsqPut_keeps {s0 : State} (p : Nat) (e : TsEntry) (sIn : State) (h : Keeps s0 sIn) :
    Keeps s0 (tsqPut p e sIn) := by
  unfold tsqPut
  try dsimp only
  repeat' (first
    | with_reducible assumption
    | with_reducible apply modPort_keeps
    | with_reducible apply tsqDrop_keeps
    | with_reducible apply tsqSettle_keeps
    | with_reducible apply keeps_ite
    | fail_if_no_progress with_reducible refine keeps_mk ?_ (timeOn rfl rfl rfl rfl rfl))

theorem stampOf_keeps {s0 : State} (p : Nat) (f : TxFrame) (late : Bool) (notSent : Bool) (ts : Int) (s : State) (h : Keeps s0 s) :
    Keeps s0 (stampOf p f late notSent ts s) := by
  unfold stampOf
  try dsimp only
  repeat' (first
    | with_reducible assumption
    | with_reducible apply tsqPut_keeps
    | with_reducible apply keeps_ite
    | with_reducible apply OutKeeps.next
    | fail_if_no_progress with_reducible refine keeps_mk ?_ (timeOn rfl rfl rfl rfl rfl)
    | (intro _ _)
    | dsimp only
    | split)

theorem tsqPop_keeps {s0 : State} (p : Nat) (s : State) (h : Keeps s0 s) : Keeps s0 (tsqPop p s) := by
  unfold tsqPop
  dsimp only
  split
  · exact keeps_regs h (fun x => x)
  · exact keeps_regs (setReg_keeps _ _ _ (setReg_keeps _ _ _ (modPort_keeps _ _ _ h))) (fun x => x)

theorem execTsqPop_keeps {s0 : State} (t : Nat) (port : Fin 11) (s : State) (h : Keeps s0 s) :
    OutKeeps s0 (execTsqPop t port s) := by
  unfold execTsqPop
  try dsimp only
  repeat' (first
    | with_reducible assumption
    | with_reducible apply portAt_keeps
    | with_reducible apply tsqPop_keeps
    | with_reducible apply OutKeeps.ite
    | with_reducible apply OutKeeps.next
    | (intro _ _)
    | dsimp only
    | split)

theorem numbered_keeps {s0 : State} (p : Nat) (s : State) (h : Keeps s0 s) :
    Keeps s0 (numbered p s) := by
  unfold numbered
  try dsimp only
  repeat' (first
    | with_reducible assumption
    | with_reducible apply modPort_keeps
    | fail_if_no_progress with_reducible refine keeps_mk ?_ (timeOn rfl rfl rfl rfl rfl))

theorem portEnqueue_keeps {s0 : State} (f : TxFrame) (s : State) (p : Nat) (h : Keeps s0 s) :
    Keeps s0 (portEnqueue f s p) := by
  unfold portEnqueue
  try dsimp only
  repeat' (first
    | with_reducible assumption
    | with_reducible apply modPort_keeps
    | with_reducible apply tallyUp_keeps
    | with_reducible apply keeps_ite)

theorem macSend_keeps {s0 : State} (p : Nat) (f : TxFrame) (s : State) (h : Keeps s0 s) :
    Keeps s0 (macSend p f s) := by
  unfold macSend
  try dsimp only
  repeat' (first
    | with_reducible assumption
    | with_reducible apply numbered_keeps
    | with_reducible apply portEnqueue_keeps
    | (with_reducible apply keeps_foldl; intro _ _ _))

theorem portArm_keeps {s0 : State} (f : TxFrame) (at_ : Int) (s : State) (p : Nat) (h : Keeps s0 s) :
    Keeps s0 (portArm f at_ s p) := by
  unfold portArm
  try dsimp only
  repeat' (first
    | with_reducible assumption
    | with_reducible apply setFlag_keeps
    | with_reducible apply modPort_keeps
    | with_reducible apply tallyUp_keeps
    | with_reducible apply keeps_ite
    | fail_if_no_progress with_reducible refine keeps_mk ?_ (timeOn rfl rfl rfl rfl rfl))

theorem macArm_keeps {s0 : State} (p : Nat) (f : TxFrame) (at_ : Int) (s : State) (h : Keeps s0 s) :
    Keeps s0 (macArm p f at_ s) := by
  unfold macArm
  try dsimp only
  repeat' (first
    | with_reducible assumption
    | with_reducible apply portArm_keeps
    | (with_reducible apply keeps_foldl; intro _ _ _))

theorem txLate_keeps {s0 : State} (f : TxFrame) (s : State) (h : Keeps s0 s) :
    Keeps s0 (txLate f s) := by
  unfold txLate
  try dsimp only
  repeat' (first
    | with_reducible assumption
    | with_reducible apply bump_keeps
    | with_reducible apply setFlag_keeps
    | with_reducible apply zoneLate_keeps
    | (intro _ _)
    | dsimp only
    | split)

theorem refillOne_keeps {s0 : State} (p : Nat) (s : State) (f : TxFrame) (h : Keeps s0 s) :
    Keeps s0 (refillOne p s f) := by
  unfold refillOne
  try dsimp only
  repeat' (first
    | with_reducible assumption
    | with_reducible apply portEnqueue_keeps
    | with_reducible apply txLate_keeps
    | with_reducible apply keeps_ite
    | (intro _ _)
    | dsimp only
    | split)

theorem portExpire_keeps {s0 : State} (p : Nat) (s : State) (h : Keeps s0 s) :
    Keeps s0 (portExpire p s) := by
  unfold portExpire
  try dsimp only
  repeat' (first
    | with_reducible assumption
    | with_reducible apply modPort_keeps
    | with_reducible apply txLate_keeps
    | (with_reducible apply keeps_foldl; intro _ _ _)
    | fail_if_no_progress with_reducible refine keeps_mk ?_ (timeOn rfl rfl rfl rfl rfl))

theorem portRefill_keeps {s0 : State} (p : Nat) (sIn : State) (h : Keeps s0 sIn) :
    Keeps s0 (portRefill p sIn) := by
  unfold portRefill
  try dsimp only
  repeat' (first
    | with_reducible assumption
    | with_reducible apply modPort_keeps
    | with_reducible apply refillOne_keeps
    | with_reducible apply portExpire_keeps
    | (with_reducible apply keeps_foldl; intro _ _ _)
    | with_reducible apply keeps_ite
    | fail_if_no_progress with_reducible refine keeps_mk ?_ (timeOn rfl rfl rfl rfl rfl))

theorem refillAll_keeps {s0 : State} (s : State) (h : Keeps s0 s) :
    Keeps s0 (refillAll s) := by
  unfold refillAll
  try dsimp only
  repeat' (first
    | with_reducible assumption
    | with_reducible apply portRefill_keeps
    | (with_reducible apply keeps_foldl; intro _ _ _))

theorem countSync_keeps {s0 : State} (c : TxContent) (s : State) (h : Keeps s0 s) :
    Keeps s0 (countSync c s) := by
  unfold countSync
  try dsimp only
  repeat' (first
    | with_reducible assumption
    | with_reducible apply bump_keeps
    | (intro _ _)
    | dsimp only
    | split)

theorem portTransmit_keeps {s0 : State} (p : Nat) (f : TxFrame) (late : Bool) (ago : Nat) (ts : Int) (s : State) (h : Keeps s0 s) :
    Keeps s0 (portTransmit p f late ago ts s) := by
  unfold portTransmit
  try dsimp only
  repeat' (first
    | with_reducible assumption
    | with_reducible apply modPort_keeps
    | with_reducible apply tallyBy_keeps
    | with_reducible apply tallyUp_keeps
    | with_reducible apply stampOf_keeps
    | with_reducible apply countSync_keeps)

theorem txStart_keeps {s0 : State} (p : Nat) (s : State) (h : Keeps s0 s) :
    Keeps s0 (txStart p s) := by
  unfold txStart
  try dsimp only
  repeat' (first
    | with_reducible assumption
    | with_reducible apply modPort_keeps
    | with_reducible apply portRefill_keeps
    | with_reducible apply portTransmit_keeps
    | with_reducible apply keeps_ite
    | fail_if_no_progress with_reducible refine keeps_mk ?_ (timeOn rfl rfl rfl rfl rfl)
    | (intro _ _)
    | dsimp only
    | split)

theorem execTxFrameStart_keeps {s0 : State} (t : Nat) (port : Fin 11) (s : State) (h : Keeps s0 s) :
    OutKeeps s0 (execTxFrameStart t port s) := by
  unfold execTxFrameStart
  try dsimp only
  repeat' (first
    | with_reducible assumption
    | with_reducible apply portAt_keeps
    | with_reducible apply txStart_keeps
    | with_reducible apply OutKeeps.ite
    | with_reducible apply OutKeeps.next
    | (intro _ _)
    | dsimp only
    | split)

theorem launchFire_keeps {s0 : State} (p : Nat) (s : State) (h : Keeps s0 s) :
    Keeps s0 (launchFire p s) := by
  unfold launchFire
  try dsimp only
  repeat' (first
    | with_reducible assumption
    | with_reducible apply setFlag_keeps
    | with_reducible apply modPort_keeps
    | with_reducible apply tallyUp_keeps
    | with_reducible apply stampOf_keeps
    | with_reducible apply portTransmit_keeps
    | with_reducible apply keeps_ite
    | fail_if_no_progress with_reducible refine keeps_mk ?_ (timeOn rfl rfl rfl rfl rfl)
    | (intro _ _)
    | dsimp only
    | split)

theorem execLaunchSlotFire_keeps {s0 : State} (t : Nat) (port : Fin 11) (s : State) (h : Keeps s0 s) :
    OutKeeps s0 (execLaunchSlotFire t port s) := by
  unfold execLaunchSlotFire
  try dsimp only
  repeat' (first
    | with_reducible assumption
    | with_reducible apply portAt_keeps
    | with_reducible apply launchFire_keeps
    | with_reducible apply OutKeeps.ite
    | with_reducible apply OutKeeps.next
    | (intro _ _)
    | dsimp only
    | split)

theorem portFlush_keeps {s0 : State} (p : Nat) (s : State) (h : Keeps s0 s) :
    Keeps s0 (portFlush p s).1 := by
  unfold portFlush
  try dsimp only
  repeat' (first
    | with_reducible assumption
    | with_reducible apply modPort_keeps
    | with_reducible apply tallyBy_keeps
    | fail_if_no_progress with_reducible refine keeps_mk ?_ (timeOn rfl rfl rfl rfl rfl)
    | (intro _ _)
    | dsimp only
    | split)

theorem portPass_keeps {s0 : State} (old : Nat) (new : Nat) (s : State) (h : Keeps s0 s) :
    Keeps s0 (portPass old new s) := by
  unfold portPass
  try dsimp only
  repeat' (first
    | with_reducible assumption
    | with_reducible apply modPort_keeps
    | with_reducible apply refillOne_keeps
    | (with_reducible apply keeps_foldl; intro _ _ _)
    | fail_if_no_progress with_reducible refine keeps_mk ?_ (timeOn rfl rfl rfl rfl rfl))

theorem pairSwitch_keeps {s0 : State} (q : Nat) (cause : Nat) (s : State) (h : Keeps s0 s) :
    Keeps s0 (pairSwitch q cause s) := by
  unfold pairSwitch
  try dsimp only
  repeat' (first
    | with_reducible assumption
    | with_reducible apply setFlag_keeps
    | with_reducible apply notify_keeps
    | with_reducible apply modMac_keeps
    | with_reducible apply portFlush_keeps
    | with_reducible apply portPass_keeps
    | with_reducible apply keeps_ite
    | fail_if_no_progress with_reducible refine keeps_mk ?_ (timeOn rfl rfl rfl rfl rfl))

theorem linkLeave_keeps {s0 : State} (p : Nat) (cause : Nat) (to_ : LinkState) (s : State) (h : Keeps s0 s) :
    Keeps s0 (linkLeave p cause to_ s) := by
  unfold linkLeave
  try dsimp only
  repeat' (first
    | with_reducible assumption
    | with_reducible apply setFlag_keeps
    | with_reducible apply notify_keeps
    | with_reducible apply modPort_keeps
    | with_reducible apply tallyUp_keeps
    | with_reducible apply pairSwitch_keeps
    | with_reducible apply keeps_ite)

theorem igmpSend_keeps {s0 : State} (p : Nat) (records : List (Nat × Nat × Nat)) (s : State) (h : Keeps s0 s) :
    Keeps s0 (igmpSend p records s) := by
  unfold igmpSend
  try dsimp only
  repeat' (first
    | with_reducible assumption
    | with_reducible apply macSend_keeps
    | (with_reducible apply keeps_foldl; intro _ _ _)
    | with_reducible apply keeps_ite)

theorem joinReports_keeps {s0 : State} (old : List (Nat × Nat × Nat)) (s : State) (h : Keeps s0 s) :
    Keeps s0 (joinReports old s) := by
  unfold joinReports
  try dsimp only
  repeat' (first
    | with_reducible assumption
    | with_reducible apply igmpSend_keeps)

theorem rxReports_keeps {s0 : State} (old : Cfg) (s : State) (h : Keeps s0 s) :
    Keeps s0 (rxReports old s) := by
  unfold rxReports
  try dsimp only
  repeat' (first
    | with_reducible assumption
    | with_reducible apply igmpSend_keeps
    | (with_reducible apply keeps_foldl; intro _ _ _)
    | with_reducible apply keeps_ite)

theorem linkJoins_keeps {s0 : State} (p : Nat) (s : State) (h : Keeps s0 s) :
    Keeps s0 (linkJoins p s) := by
  unfold linkJoins
  try dsimp only
  repeat' (first
    | with_reducible assumption
    | with_reducible apply igmpSend_keeps
    | with_reducible apply keeps_ite
    | with_reducible apply keeps_ite_fst)

theorem execLinkUp_keeps {s0 : State} (t : Nat) (port : Fin 11) (rate : Nat) (s : State) (h : Keeps s0 s) :
    OutKeeps s0 (execLinkUp t port rate s) := by
  unfold execLinkUp
  try dsimp only
  repeat' (first
    | with_reducible assumption
    | with_reducible apply advance_keeps
    | with_reducible apply setFlag_keeps
    | with_reducible apply notify_keeps
    | with_reducible apply modPort_keeps
    | with_reducible apply linkJoins_keeps
    | with_reducible apply OutKeeps.ite
    | with_reducible apply keeps_ite
    | with_reducible apply OutKeeps.next
    | fail_if_no_progress with_reducible refine keeps_mk ?_ (timeOn rfl rfl rfl rfl rfl)
    | (intro _ _)
    | dsimp only
    | split)

theorem execLinkDown_keeps {s0 : State} (t : Nat) (port : Fin 11) (cause : Nat) (s : State) (h : Keeps s0 s) :
    OutKeeps s0 (execLinkDown t port cause s) := by
  unfold execLinkDown
  try dsimp only
  repeat' (first
    | with_reducible assumption
    | with_reducible apply advance_keeps
    | with_reducible apply modPort_keeps
    | with_reducible apply linkLeave_keeps
    | with_reducible apply OutKeeps.ite
    | with_reducible apply keeps_ite
    | with_reducible apply OutKeeps.next)

theorem execPairRevert_keeps {s0 : State} (t : Nat) (pair : Fin 4) (s : State) (h : Keeps s0 s) :
    OutKeeps s0 (execPairRevert t pair s) := by
  unfold execPairRevert
  try dsimp only
  repeat' (first
    | with_reducible assumption
    | with_reducible apply advance_keeps
    | with_reducible apply pairSwitch_keeps
    | with_reducible apply OutKeeps.ite
    | with_reducible apply keeps_ite
    | with_reducible apply OutKeeps.next)

theorem pausedStart_keeps {s0 : State} (p : Nat) (s : State) (h : Keeps s0 s) :
    Keeps s0 (pausedStart p s) := by
  unfold pausedStart
  try dsimp only
  repeat' (first
    | with_reducible assumption
    | with_reducible apply modPort_keeps
    | (with_reducible apply keeps_foldl; intro _ _ _)
    | with_reducible apply keeps_ite
    | fail_if_no_progress with_reducible refine keeps_mk ?_ (timeOn rfl rfl rfl rfl rfl))

theorem pauseSettle_keeps {s0 : State} (p : Nat) (s : State) (h : Keeps s0 s) :
    Keeps s0 (pauseSettle p s) := by
  unfold pauseSettle
  try dsimp only
  repeat' (first
    | with_reducible assumption
    | with_reducible apply modPort_keeps
    | with_reducible apply tallyBy_keeps
    | (with_reducible apply keeps_foldl; intro _ _ _)
    | with_reducible apply keeps_ite
    | fail_if_no_progress with_reducible refine keeps_mk ?_ (timeOn rfl rfl rfl rfl rfl)
    | (intro _ _)
    | dsimp only
    | split)

theorem pauseReceived_keeps {s0 : State} (p : Nat) (opcode : Nat) (enables : Nat) (quanta : List Nat) (s : State) (h : Keeps s0 s) :
    Keeps s0 (pauseReceived p opcode enables quanta s) := by
  unfold pauseReceived
  try dsimp only
  repeat' (first
    | with_reducible assumption
    | with_reducible apply modPort_keeps
    | with_reducible apply tallyUp_keeps
    | with_reducible apply pausedStart_keeps
    | with_reducible apply keeps_ite
    | fail_if_no_progress with_reducible refine keeps_mk ?_ (timeOn rfl rfl rfl rfl rfl))

theorem execPauseFrameReceived_keeps {s0 : State} (t : Nat) (port : Fin 11) (opcode : Nat) (enables : Nat) (quanta : List Nat) (s : State) (h : Keeps s0 s) :
    OutKeeps s0 (execPauseFrameReceived t port opcode enables quanta s) := by
  unfold execPauseFrameReceived
  try dsimp only
  repeat' (first
    | with_reducible assumption
    | with_reducible apply portAt_keeps
    | with_reducible apply pauseSettle_keeps
    | with_reducible apply pauseReceived_keeps
    | with_reducible apply OutKeeps.ite
    | with_reducible apply keeps_ite
    | with_reducible apply OutKeeps.next
    | (intro _ _)
    | dsimp only
    | split)

theorem execPauseEnd_keeps {s0 : State} (t : Nat) (port : Fin 11) (s : State) (h : Keeps s0 s) :
    OutKeeps s0 (execPauseEnd t port s) := by
  unfold execPauseEnd
  try dsimp only
  repeat' (first
    | with_reducible assumption
    | with_reducible apply portAt_keeps
    | with_reducible apply pauseSettle_keeps
    | with_reducible apply OutKeeps.ite
    | with_reducible apply OutKeeps.next
    | (intro _ _)
    | dsimp only
    | split)

theorem stormNotice_keeps {s0 : State} (p : Nat) (classes : Nat) (state : Nat) (ms : Nat) (s : State) (h : Keeps s0 s) :
    Keeps s0 (stormNotice p classes state ms s) := by
  unfold stormNotice
  try dsimp only
  repeat' (first
    | with_reducible assumption
    | with_reducible apply setFlag_keeps
    | with_reducible apply notify_keeps)

theorem watchdogTrip_keeps {s0 : State} (p : Nat) (sIn : State) (h : Keeps s0 sIn) :
    Keeps s0 (watchdogTrip p sIn) := by
  unfold watchdogTrip
  try dsimp only
  repeat' (first
    | with_reducible assumption
    | with_reducible apply modPort_keeps
    | with_reducible apply tallyBy_keeps
    | with_reducible apply tallyUp_keeps
    | with_reducible apply pauseSettle_keeps
    | with_reducible apply stormNotice_keeps
    | (with_reducible apply keeps_foldl; intro _ _ _)
    | with_reducible apply keeps_ite
    | fail_if_no_progress with_reducible refine keeps_mk ?_ (timeOn rfl rfl rfl rfl rfl))

theorem execPauseWatchdogTrip_keeps {s0 : State} (t : Nat) (port : Fin 11) (s : State) (h : Keeps s0 s) :
    OutKeeps s0 (execPauseWatchdogTrip t port s) := by
  unfold execPauseWatchdogTrip
  try dsimp only
  repeat' (first
    | with_reducible assumption
    | with_reducible apply portAt_keeps
    | with_reducible apply watchdogTrip_keeps
    | with_reducible apply OutKeeps.ite
    | with_reducible apply OutKeeps.next
    | (intro _ _)
    | dsimp only
    | split)

theorem ignoreEnd_keeps {s0 : State} (p : Nat) (s : State) (h : Keeps s0 s) :
    Keeps s0 (ignoreEnd p s) := by
  unfold ignoreEnd
  try dsimp only
  repeat' (first
    | with_reducible assumption
    | with_reducible apply modPort_keeps
    | with_reducible apply stormNotice_keeps
    | with_reducible apply keeps_ite)

theorem execPauseIgnoreEnd_keeps {s0 : State} (t : Nat) (port : Fin 11) (s : State) (h : Keeps s0 s) :
    OutKeeps s0 (execPauseIgnoreEnd t port s) := by
  unfold execPauseIgnoreEnd
  try dsimp only
  repeat' (first
    | with_reducible assumption
    | with_reducible apply portAt_keeps
    | with_reducible apply ignoreEnd_keeps
    | with_reducible apply OutKeeps.ite
    | with_reducible apply OutKeeps.next
    | (intro _ _)
    | dsimp only
    | split)

theorem tallyRead_keeps {s0 : State} (p i : Nat) (s : State) (h : Keeps s0 s) : Keeps s0 (tallyRead p i s) :=
  keeps_regs (modPort_keeps _ _ _ h) (fun ⟨h1, h2, h3⟩ => ⟨h1, h2, aWf_aPut _ _ h3⟩)

theorem execTallyRead_keeps {s0 : State} (t : Nat) (port : Fin 11) (i : Fin 24) (s : State) (h : Keeps s0 s) :
    OutKeeps s0 (execTallyRead t port i s) := by
  unfold execTallyRead
  try dsimp only
  repeat' (first
    | with_reducible assumption
    | with_reducible apply portAt_keeps
    | with_reducible apply pauseSettle_keeps
    | with_reducible apply tallyRead_keeps
    | with_reducible apply OutKeeps.ite
    | with_reducible apply OutKeeps.next
    | (intro _ _)
    | dsimp only
    | split)

theorem tallyGather_keeps {s0 : State} (s : State) (p : Nat) (h : Keeps s0 s) :
    Keeps s0 (tallyGather s p) := by
  unfold tallyGather
  try dsimp only
  repeat' (first
    | with_reducible assumption
    | with_reducible apply modPort_keeps
    | with_reducible apply tsqSettle_keeps
    | with_reducible apply pauseSettle_keeps)

theorem execTallyAccumulate_keeps {s0 : State} (t : Nat) (s : State) (h : Keeps s0 s) :
    OutKeeps s0 (execTallyAccumulate t s) := by
  unfold execTallyAccumulate
  try dsimp only
  repeat' (first
    | with_reducible assumption
    | with_reducible apply advance_keeps
    | with_reducible apply tallyGather_keeps
    | (with_reducible apply keeps_foldl; intro _ _ _)
    | with_reducible apply OutKeeps.ite
    | with_reducible apply keeps_ite
    | with_reducible apply OutKeeps.next)

theorem ringReturn_keeps {s0 : State} (p : Nat) (r : Nat) (sw : Nat) (s : State) (h : Keeps s0 s) :
    Keeps s0 (ringReturn p r sw s) := by
  unfold ringReturn
  try dsimp only
  repeat' (first
    | with_reducible assumption
    | with_reducible apply setField_keeps
    | with_reducible apply modPort_keeps
    | (with_reducible apply keeps_foldl; intro _ _ _)
    | fail_if_no_progress with_reducible refine keeps_mk ?_ (timeOn rfl rfl rfl rfl rfl)
    | (intro _ _)
    | dsimp only
    | split)

theorem ringsBegin_keeps {s0 : State} (p : Nat) (s : State) (h : Keeps s0 s) :
    Keeps s0 (ringsBegin p s) := by
  unfold ringsBegin
  try dsimp only
  repeat' (first
    | with_reducible assumption
    | with_reducible apply setReg_keeps
    | with_reducible apply setField_keeps
    | (with_reducible apply keeps_foldl; intro _ _ _))

theorem ringConsumed_keeps {s0 : State} (p : Nat) (r : Nat) (s : State) (h : Keeps s0 s) :
    Keeps s0 (ringConsumed p r s) := by
  unfold ringConsumed
  try dsimp only
  repeat' (first
    | with_reducible assumption
    | with_reducible apply draw_keeps
    | with_reducible apply ringReturn_keeps)

theorem ringFill_keeps {s0 : State} (p : Nat) (r : Nat) (rule : Nat) (f : RxFrame) (own : Bool) (parts : List (List (BitVec 8))) (s : State) (h : Keeps s0 s) :
    Keeps s0 (ringFill p r rule f own parts s) := by
  unfold ringFill
  try dsimp only
  repeat' (first
    | with_reducible assumption
    | with_reducible apply modPort_keeps
    | (with_reducible apply keeps_foldl; intro _ _ _)
    | with_reducible apply keeps_ite
    | with_reducible apply keeps_ite_fst
    | fail_if_no_progress with_reducible refine keeps_mk ?_ (timeOn rfl rfl rfl rfl rfl))

theorem ringVoid_keeps {s0 : State} (p : Nat) (r : Nat) (rule : Nat) (f : RxFrame) (s : State) (h : Keeps s0 s) :
    Keeps s0 (ringVoid p r rule f s) := by
  unfold ringVoid
  try dsimp only
  repeat' (first
    | with_reducible assumption
    | with_reducible apply ringFill_keeps
    | with_reducible apply keeps_ite)

theorem ringWrite_keeps {s0 : State} (p : Nat) (r : Nat) (rule : Nat) (f : RxFrame) (sIn : State) (h : Keeps s0 sIn) :
    Keeps s0 (ringWrite p r rule f sIn) := by
  unfold ringWrite
  try dsimp only
  repeat' (first
    | with_reducible assumption
    | with_reducible apply bump_keeps
    | with_reducible apply setFlag_keeps
    | with_reducible apply tallyBy_keeps
    | with_reducible apply tallyUp_keeps
    | with_reducible apply ringConsumed_keeps
    | with_reducible apply ringFill_keeps
    | with_reducible apply ringVoid_keeps
    | with_reducible apply keeps_ite)

theorem ringFailed_keeps {s0 : State} (p : Nat) (f : RxFrame) (s : State) (h : Keeps s0 s) :
    Keeps s0 (ringFailed p f s) := by
  unfold ringFailed
  try dsimp only
  repeat' (first
    | with_reducible assumption
    | with_reducible apply ringConsumed_keeps
    | with_reducible apply ringVoid_keeps
    | (intro _ _)
    | dsimp only
    | split)

theorem codeErrors_keeps {s0 : State} (p : Nat) (f : RxFrame) (s : State) (h : Keeps s0 s) :
    Keeps s0 (codeErrors p f s) := by
  unfold codeErrors
  try dsimp only
  repeat' (first
    | with_reducible assumption
    | with_reducible apply tallyBy_keeps
    | with_reducible apply keeps_ite)

theorem frameReceived_keeps {s0 : State} (p : Nat) (f : RxFrame) (sIn : State) (h : Keeps s0 sIn) :
    Keeps s0 (frameReceived p f sIn) := by
  unfold frameReceived
  try dsimp only
  repeat' (first
    | with_reducible assumption
    | with_reducible apply tallyUp_keeps
    | with_reducible apply ringWrite_keeps
    | with_reducible apply ringFailed_keeps
    | with_reducible apply codeErrors_keeps
    | with_reducible apply keeps_ite
    | (intro _ _)
    | dsimp only
    | split)

theorem execFrameReceived_keeps {s0 : State} (t : Nat) (port : Fin 11) (f : RxFrame) (s : State) (h : Keeps s0 s) :
    OutKeeps s0 (execFrameReceived t port f s) := by
  unfold execFrameReceived
  try dsimp only
  repeat' (first
    | with_reducible assumption
    | with_reducible apply portAt_keeps
    | with_reducible apply frameReceived_keeps
    | with_reducible apply OutKeeps.ite
    | with_reducible apply keeps_ite
    | with_reducible apply OutKeeps.next
    | (intro _ _)
    | dsimp only
    | split)

theorem portRestart_keeps {s0 : State} (p : Nat) (s : State) (h : Keeps s0 s) :
    Keeps s0 (portRestart p s) := by
  unfold portRestart
  try dsimp only
  repeat' (first
    | with_reducible assumption
    | with_reducible apply linkLeave_keeps)

theorem macPortSet_keeps {s0 : State} (escrow : Bool) (p : MacPortSet) (s : State) (h : Keeps s0 s) :
    Keeps s0 (macPortSet escrow p s).1 := by
  unfold macPortSet
  try dsimp only
  repeat' (first
    | with_reducible assumption
    | with_reducible apply setReg_keeps
    | with_reducible apply refuse_keeps
    | with_reducible apply accept_keeps
    | with_reducible apply portRestart_keeps
    | with_reducible apply keeps_ite
    | with_reducible apply keeps_ite_fst
    | (intro _ _)
    | dsimp only
    | split)

theorem execMacPairSet_keeps {s0 : State} (c : Call) (pair : Nat) (mode : Nat) (flags : Nat) (s : State) (h : Keeps s0 s) :
    OutKeeps s0 (execMacPairSet c pair mode flags s) := by
  unfold execMacPairSet
  try dsimp only
  repeat' (first
    | with_reducible assumption
    | with_reducible refine command_keeps _ _ _ _ ?_ (fun _ _ => ?_)
    | with_reducible apply refuse_keeps
    | with_reducible apply accept_keeps
    | with_reducible apply modMac_keeps
    | with_reducible apply OutKeeps.ite
    | with_reducible apply keeps_ite
    | with_reducible apply OutKeeps.next
    | fail_if_no_progress with_reducible refine keeps_mk ?_ (timeOn rfl rfl rfl rfl rfl)
    | (intro _ _)
    | dsimp only
    | split)

theorem setBytes_keeps {s0 : State} (base : Nat) (l : List (BitVec 8)) (n : Nat) (s : State) (h : Keeps s0 s) :
    Keeps s0 (setBytes base l n s) := by
  unfold setBytes
  try dsimp only
  repeat' (first
    | with_reducible assumption
    | with_reducible apply setReg_keeps
    | (with_reducible apply keeps_foldl; intro _ _ _))

theorem execMacWakeSet_keeps {s0 : State} (c : Call) (p : MacWakeSet) (s : State) (h : Keeps s0 s) :
    OutKeeps s0 (execMacWakeSet c p s) := by
  unfold execMacWakeSet
  try dsimp only
  repeat' (first
    | with_reducible assumption
    | with_reducible apply setReg_keeps
    | with_reducible refine command_keeps _ _ _ _ ?_ (fun _ _ => ?_)
    | with_reducible apply refuse_keeps
    | with_reducible apply accept_keeps
    | with_reducible apply setBytes_keeps
    | (with_reducible apply keeps_foldl; intro _ _ _)
    | with_reducible apply OutKeeps.ite
    | with_reducible apply keeps_ite
    | with_reducible apply OutKeeps.next
    | fail_if_no_progress with_reducible refine keeps_mk ?_ (timeOn rfl rfl rfl rfl rfl)
    | (intro _ _)
    | dsimp only
    | split)

theorem execMacStatusGet_keeps {s0 : State} (c : Call) (port : Nat) (s : State) (h : Keeps s0 s) :
    OutKeeps s0 (execMacStatusGet c port s) := by
  unfold execMacStatusGet
  try dsimp only
  repeat' (first
    | with_reducible assumption
    | with_reducible refine command_keeps _ _ _ _ ?_ (fun _ _ => ?_)
    | with_reducible apply refuse_keeps
    | with_reducible apply answer_keeps
    | with_reducible apply OutKeeps.ite
    | with_reducible apply keeps_ite
    | with_reducible apply keeps_ite_fst
    | with_reducible apply OutKeeps.next
    | (intro _ _)
    | dsimp only
    | split)

theorem execMacTallyGet_keeps {s0 : State} (c : Call) (port : Nat) (flags : Nat) (s : State) (h : Keeps s0 s) :
    OutKeeps s0 (execMacTallyGet c port flags s) := by
  unfold execMacTallyGet
  try dsimp only
  repeat' (first
    | with_reducible assumption
    | with_reducible refine command_keeps _ _ _ _ ?_ (fun _ _ => ?_)
    | with_reducible apply refuse_keeps
    | with_reducible apply answer_keeps
    | with_reducible apply modPort_keeps
    | with_reducible apply OutKeeps.ite
    | with_reducible apply keeps_ite
    | with_reducible apply OutKeeps.next
    | fail_if_no_progress with_reducible refine keeps_mk ?_ (timeOn rfl rfl rfl rfl rfl)
    | (intro _ _)
    | dsimp only
    | split)

end Sys2Proof.Laws
end

