-- ==== Sys2Proof/Laws/KeepsPhoto.lean ====
section
/-! SUPPORT. What every command keeps, for the operations of Machine/Photo.lean. -/

namespace Sys2Proof.Laws

open Sys2Proof.Machine Sys2Proof.Safety

theorem modPho_keeps {s0 : State} (f : Pho → Pho) (s : State) (h : Keeps s0 s) :
    Keeps s0 (modPho f s) := by
  unfold modPho
  try dsimp only
  repeat' (first
    | with_reducible assumption
    | with_reducible apply keeps_ite
    | with_reducible apply OutKeeps.next
    | fail_if_no_progress with_reducible refine keeps_mk ?_ (timeOn rfl rfl rfl rfl rfl))

theorem countPho_keeps {s0 : State} (c : PhoCount) (s : State) (h : Keeps s0 s) :
    Keeps s0 (countPho c s) := by
  unfold countPho
  try dsimp only
  repeat' (first
    | with_reducible assumption
    | with_reducible apply bumpBy_keeps
    | with_reducible apply setFlag_keeps
    | with_reducible apply modPho_keeps
    | with_reducible apply keeps_ite)

theorem phoSnapshot_keeps {s0 : State} (k : Int) (s : State) (h : Keeps s0 s) :
    Keeps s0 (phoSnapshot k s) := by
  unfold phoSnapshot
  try dsimp only
  repeat' (first
    | with_reducible assumption
    | with_reducible apply modPho_keeps
    | fail_if_no_progress with_reducible refine keeps_mk ?_ (timeOn rfl rfl rfl rfl rfl)
    | (intro _ _)
    | dsimp only
    | split)

theorem phoBegin_keeps {s0 : State} (k : Int) (s : State) (h : Keeps s0 s) :
    Keeps s0 (phoBegin k s) := by
  unfold phoBegin
  try dsimp only
  repeat' (first
    | with_reducible assumption
    | with_reducible apply modPho_keeps
    | fail_if_no_progress with_reducible refine keeps_mk ?_ (timeOn rfl rfl rfl rfl rfl))

theorem phoEnd_keeps {s0 : State} (k : Int) (s : State) (h : Keeps s0 s) :
    Keeps s0 (phoEnd k s) := by
  unfold phoEnd
  try dsimp only
  repeat' (first
    | with_reducible assumption
    | with_reducible apply modPho_keeps
    | with_reducible apply keeps_ite
    | fail_if_no_progress with_reducible refine keeps_mk ?_ (timeOn rfl rfl rfl rfl rfl))

theorem tempNotice_keeps {s0 : State} (chip : Nat) (state : Nat) (s : State) (h : Keeps s0 s) :
    Keeps s0 (tempNotice chip state s) := by
  unfold tempNotice
  try dsimp only
  repeat' (first
    | with_reducible assumption
    | with_reducible apply setFlag_keeps
    | with_reducible apply notify_keeps)

theorem chipReport_keeps {s0 : State} (chip : Nat) (temp : Int) (s : State) (h : Keeps s0 s) :
    Keeps s0 (chipReport chip temp s) := by
  unfold chipReport
  try dsimp only
  repeat' (first
    | with_reducible assumption
    | with_reducible apply modPho_keeps
    | with_reducible apply tempNotice_keeps
    | with_reducible apply keeps_ite
    | with_reducible apply keeps_ite_fst
    | fail_if_no_progress with_reducible refine keeps_mk ?_ (timeOn rfl rfl rfl rfl rfl)
    | (intro _ _)
    | dsimp only
    | split)

theorem chipForget_keeps {s0 : State} (chip : Nat) (s : State) (h : Keeps s0 s) :
    Keeps s0 (chipForget chip s) := by
  unfold chipForget
  try dsimp only
  repeat' (first
    | with_reducible assumption
    | with_reducible apply modPho_keeps
    | fail_if_no_progress with_reducible refine keeps_mk ?_ (timeOn rfl rfl rfl rfl rfl))

theorem execReportStaleTimeout_keeps {s0 : State} (t : Nat) (chip : Nat) (s : State) (h : Keeps s0 s) :
    OutKeeps s0 (execReportStaleTimeout t chip s) := by
  unfold execReportStaleTimeout
  try dsimp only
  repeat' (first
    | with_reducible assumption
    | with_reducible apply advance_keeps
    | with_reducible apply modPho_keeps
    | with_reducible apply tempNotice_keeps
    | with_reducible apply OutKeeps.ite
    | with_reducible apply keeps_ite
    | with_reducible apply OutKeeps.next
    | fail_if_no_progress with_reducible refine keeps_mk ?_ (timeOn rfl rfl rfl rfl rfl)
    | (intro _ _)
    | dsimp only
    | split)

theorem zoneTemp_keeps {s0 : State} (now : Option Int) (z : Nat) (w : Word) (s : State) (h : Keeps s0 s) :
    Keeps s0 (zoneTemp now z w s) := by
  unfold zoneTemp
  try dsimp only
  repeat' (first
    | with_reducible assumption
    | with_reducible apply setReg_keeps
    | with_reducible apply modPho_keeps
    | fail_if_no_progress with_reducible refine keeps_mk ?_ (timeOn rfl rfl rfl rfl rfl))

theorem execCurveSet_keeps {s0 : State} (c : Call) (p : CurveSet) (s : State) (h : Keeps s0 s) :
    OutKeeps s0 (execCurveSet c p s) := by
  unfold execCurveSet
  try dsimp only
  repeat' (first
    | with_reducible assumption
    | with_reducible apply configMessage_keeps)

theorem execClassSet_keeps {s0 : State} (c : Call) (p : ClassSet) (s : State) (h : Keeps s0 s) :
    OutKeeps s0 (execClassSet c p s) := by
  unfold execClassSet
  try dsimp only
  repeat' (first
    | with_reducible assumption
    | with_reducible apply configMessage_keeps)

theorem execCalRecordSet_keeps {s0 : State} (c : Call) (p : CalRecordSet) (s : State) (h : Keeps s0 s) :
    OutKeeps s0 (execCalRecordSet c p s) := by
  unfold execCalRecordSet
  try dsimp only
  repeat' (first
    | with_reducible assumption
    | with_reducible apply configMessage_keeps)

theorem flipBanks_keeps {s0 : State} (old : Cfg) (new : Cfg) (s : State) (h : Keeps s0 s) :
    Keeps s0 (flipBanks old new s) := by
  unfold flipBanks
  try dsimp only
  repeat' (first
    | with_reducible assumption
    | with_reducible apply modPho_keeps)

theorem writeRecords_keeps {s0 : State} (tag : Int) (changed : SMap CalRecord) (s : State) (h : Keeps s0 s) :
    Keeps s0 (writeRecords tag changed s) := by
  unfold writeRecords
  try dsimp only
  repeat' (first
    | with_reducible assumption
    | with_reducible apply modPho_keeps)

theorem execCalRecordGet_keeps {s0 : State} (c : Call) (first : Nat) (count : Nat) (s : State) (h : Keeps s0 s) :
    OutKeeps s0 (execCalRecordGet c first count s) := by
  unfold execCalRecordGet
  try dsimp only
  repeat' (first
    | with_reducible assumption
    | with_reducible refine command_keeps _ _ _ _ ?_ (fun _ _ => ?_)
    | with_reducible apply refuse_keeps
    | with_reducible apply answer_keeps
    | with_reducible apply OutKeeps.ite
    | with_reducible apply keeps_ite
    | with_reducible apply OutKeeps.next
    | fail_if_no_progress with_reducible refine keeps_mk ?_ (timeOn rfl rfl rfl rfl rfl)
    | (intro _ _)
    | dsimp only
    | split)

theorem execZoneTempSet_keeps {s0 : State} (c : Call) (zone : Nat) (valid : Bool) (temp : Int) (s : State) (h : Keeps s0 s) :
    OutKeeps s0 (execZoneTempSet c zone valid temp s) := by
  unfold execZoneTempSet
  try dsimp only
  repeat' (first
    | with_reducible assumption
    | with_reducible refine command_keeps _ _ _ _ ?_ (fun _ _ => ?_)
    | with_reducible apply refuse_keeps
    | with_reducible apply accept_keeps
    | with_reducible apply zoneTemp_keeps
    | with_reducible apply OutKeeps.ite
    | with_reducible apply keeps_ite
    | with_reducible apply OutKeeps.next
    | fail_if_no_progress with_reducible refine keeps_mk ?_ (timeOn rfl rfl rfl rfl rfl)
    | (intro _ _)
    | dsimp only
    | split)

theorem execPhoStatusGet_keeps {s0 : State} (c : Call) (s : State) (h : Keeps s0 s) :
    OutKeeps s0 (execPhoStatusGet c s) := by
  unfold execPhoStatusGet
  try dsimp only
  repeat' (first
    | with_reducible assumption
    | with_reducible refine command_keeps _ _ _ _ ?_ (fun _ _ => ?_)
    | with_reducible apply answer_keeps
    | with_reducible apply OutKeeps.ite
    | with_reducible apply OutKeeps.next
    | (intro _ _)
    | dsimp only
    | split)

end Sys2Proof.Laws
end

