-- ==== Sys2Proof/Laws/KeepsLanes.lean ====
section
/-! SUPPORT. What every command keeps, for the operations of Machine/Lanes.lean. -/

namespace Sys2Proof.Laws

open Sys2Proof.Machine Sys2Proof.Safety

theorem modLane_keeps {s0 : State} (l : Nat) (f : Lane → Lane) (s : State) (h : Keeps s0 s) :
    Keeps s0 (modLane l f s) := by
  unfold modLane
  try dsimp only
  repeat' (first
    | with_reducible assumption
    | with_reducible apply keeps_ite
    | with_reducible apply OutKeeps.next
    | fail_if_no_progress with_reducible refine keeps_mk ?_ (timeOn rfl rfl rfl rfl rfl))

theorem modChip_keeps {s0 : State} (l : Nat) (i : Nat) (f : ChipLink → ChipLink) (s : State) (h : Keeps s0 s) :
    Keeps s0 (modChip l i f s) := by
  unfold modChip
  try dsimp only
  repeat' (first
    | with_reducible assumption
    | with_reducible apply modLane_keeps)

theorem laneEnter_keeps {s0 : State} (l : Nat) (st : LaneState) (seen : Nat) (cause : Nat) (s : State) (h : Keeps s0 s) :
    Keeps s0 (laneEnter l st seen cause s) := by
  unfold laneEnter
  try dsimp only
  repeat' (first
    | with_reducible assumption
    | with_reducible apply bump_keeps
    | with_reducible apply setFlag_keeps
    | with_reducible apply notify_keeps
    | with_reducible apply modLane_keeps
    | with_reducible apply keeps_ite)

theorem laneTake_keeps {s0 : State} (l : Nat) (z : Nat) (k : Int) (s : State) (h : Keeps s0 s) :
    Keeps s0 (laneTake l z k s) := by
  unfold laneTake
  try dsimp only
  repeat' (first
    | with_reducible assumption
    | with_reducible apply modLane_keeps
    | with_reducible apply keeps_ite
    | with_reducible apply keeps_ite_fst
    | fail_if_no_progress with_reducible refine keeps_mk ?_ (timeOn rfl rfl rfl rfl rfl))

theorem dropJob_keeps {s0 : State} (l : Nat) (j : PixelJob) (s : State) (h : Keeps s0 s) :
    Keeps s0 (dropJob l j s) := by
  unfold dropJob
  try dsimp only
  repeat' (first
    | with_reducible assumption
    | with_reducible apply bumpBy_keeps
    | with_reducible apply setFlag_keeps
    | with_reducible apply zoneLate_keeps
    | with_reducible apply modLane_keeps)

theorem sendFrame_keeps {s0 : State} (l : Nat) (j : PixelJob) (f : Nat × Nat) (s : State) (h : Keeps s0 s) :
    Keeps s0 (sendFrame l j f s) := by
  unfold sendFrame
  try dsimp only
  repeat' (first
    | with_reducible assumption
    | with_reducible apply bump_keeps
    | with_reducible apply modLane_keeps
    | with_reducible apply keeps_ite
    | fail_if_no_progress with_reducible refine keeps_mk ?_ (timeOn rfl rfl rfl rfl rfl))

theorem spoilFrame_keeps {s0 : State} (l : Nat) (j : PixelJob) (f : Nat × Nat) (s : State) (h : Keeps s0 s) :
    Keeps s0 (spoilFrame l j f s) := by
  unfold spoilFrame
  try dsimp only
  repeat' (first
    | with_reducible assumption
    | with_reducible apply outputClear_keeps
    | with_reducible apply modLane_keeps)

theorem ctrlQueue_keeps {s0 : State} (l : Nat) (chip : Nat) (op : CtrlOp) (cause : CtrlFor) (notBefore : Option Int) (fromK : Option Int) (s : State) (h : Keeps s0 s) :
    Keeps s0 (ctrlQueue l chip op cause notBefore fromK s) := by
  unfold ctrlQueue
  try dsimp only
  repeat' (first
    | with_reducible assumption
    | with_reducible apply modLane_keeps
    | fail_if_no_progress with_reducible refine keeps_mk ?_ (timeOn rfl rfl rfl rfl rfl))

theorem ctrlTake_keeps {s0 : State} (l : Nat) (s : State) (h : Keeps s0 s) :
    Keeps s0 (ctrlTake l s) := by
  unfold ctrlTake
  try dsimp only
  repeat' (first
    | with_reducible assumption
    | with_reducible apply chkRun_keeps
    | with_reducible apply modLane_keeps
    | with_reducible apply modChip_keeps
    | with_reducible apply keeps_ite
    | fail_if_no_progress with_reducible refine keeps_mk ?_ (timeOn rfl rfl rfl rfl rfl)
    | (intro _ _)
    | dsimp only
    | split)

theorem ctrlSend_keeps {s0 : State} (l : Nat) (s : State) (h : Keeps s0 s) :
    Keeps s0 (ctrlSend l s) := by
  unfold ctrlSend
  try dsimp only
  repeat' (first
    | with_reducible assumption
    | with_reducible apply insertDescriptor_keeps
    | with_reducible apply ctrlTake_keeps
    | with_reducible apply keeps_ite)

theorem provision_keeps {s0 : State} (l : Nat) (i : Nat) (notBefore : Option Int) (fromK : Option Int) (s : State) (h : Keeps s0 s) :
    Keeps s0 (provision l i notBefore fromK s) := by
  unfold provision
  try dsimp only
  repeat' (first
    | with_reducible assumption
    | with_reducible apply ctrlQueue_keeps
    | with_reducible apply keeps_ite)

theorem laneSettle_keeps {s0 : State} (l : Nat) (s : State) (h : Keeps s0 s) :
    Keeps s0 (laneSettle l s) := by
  unfold laneSettle
  try dsimp only
  repeat' (first
    | with_reducible assumption
    | with_reducible apply laneEnter_keeps
    | with_reducible apply keeps_ite)

theorem rangeNext_keeps {s0 : State} (l : Nat) (s : State) (h : Keeps s0 s) :
    Keeps s0 (rangeNext l s) := by
  unfold rangeNext
  try dsimp only
  repeat' (first
    | with_reducible assumption
    | with_reducible apply modLane_keeps
    | with_reducible apply keeps_ite
    | fail_if_no_progress with_reducible refine keeps_mk ?_ (timeOn rfl rfl rfl rfl rfl)
    | (intro _ _)
    | dsimp only
    | split)

theorem rangeStart_keeps {s0 : State} (l : Nat) (whole : Bool) (background : Bool) (todo : List Nat) (s : State) (h : Keeps s0 s) :
    Keeps s0 (rangeStart l whole background todo s) := by
  unfold rangeStart
  try dsimp only
  repeat' (first
    | with_reducible assumption
    | with_reducible apply modLane_keeps
    | with_reducible apply rangeNext_keeps
    | with_reducible apply keeps_ite
    | fail_if_no_progress with_reducible refine keeps_mk ?_ (timeOn rfl rfl rfl rfl rfl))

theorem rangeApply_keeps {s0 : State} (l : Nat) (send : Bool) (s : State) (e : Nat × Int × Bool) (h : Keeps s0 s) :
    Keeps s0 (rangeApply l send s e) := by
  unfold rangeApply
  try dsimp only
  repeat' (first
    | with_reducible assumption
    | with_reducible apply modChip_keeps
    | with_reducible apply ctrlQueue_keeps
    | with_reducible apply keeps_ite
    | with_reducible apply keeps_ite_fst
    | fail_if_no_progress with_reducible refine keeps_mk ?_ (timeOn rfl rfl rfl rfl rfl))

theorem rangeKeep_keeps {s0 : State} (l : Nat) (s : State) (e : Nat × Int × Bool) (h : Keeps s0 s) :
    Keeps s0 (rangeKeep l s e) := by
  unfold rangeKeep
  try dsimp only
  repeat' (first
    | with_reducible assumption
    | with_reducible apply modChip_keeps)

theorem rangeSingle_keeps {s0 : State} (l : Nat) (background : Bool) (s : State) (e : Nat × Int × Bool) (h : Keeps s0 s) :
    Keeps s0 (rangeSingle l background s e) := by
  unfold rangeSingle
  try dsimp only
  repeat' (first
    | with_reducible assumption
    | with_reducible apply rangeApply_keeps
    | with_reducible apply rangeKeep_keeps
    | with_reducible apply keeps_ite
    | with_reducible apply keeps_ite_fst
    | (intro _ _)
    | dsimp only
    | split)

theorem rangeChip_keeps {s0 : State} (l : Nat) (g : RangeRun) (n : Nat) (d : Int) (unstable : Bool) (s : State) (h : Keeps s0 s) :
    Keeps s0 (rangeChip l g n d unstable s) := by
  unfold rangeChip
  try dsimp only
  repeat' (first
    | with_reducible assumption
    | with_reducible apply modLane_keeps
    | with_reducible apply ctrlSend_keeps
    | with_reducible apply laneSettle_keeps
    | with_reducible apply rangeSingle_keeps
    | (with_reducible apply keeps_foldl; intro _ _ _)
    | with_reducible apply keeps_ite
    | fail_if_no_progress with_reducible refine keeps_mk ?_ (timeOn rfl rfl rfl rfl rfl))

theorem rangeMeasured_keeps {s0 : State} (l : Nat) (g : RangeRun) (n : Nat) (loopPs : Nat) (s : State) (h : Keeps s0 s) :
    Keeps s0 (rangeMeasured l g n loopPs s) := by
  unfold rangeMeasured
  try dsimp only
  repeat' (first
    | with_reducible assumption
    | with_reducible apply modLane_keeps
    | with_reducible apply rangeChip_keeps
    | with_reducible apply keeps_ite
    | fail_if_no_progress with_reducible refine keeps_mk ?_ (timeOn rfl rfl rfl rfl rfl))

theorem rangeReturn_keeps {s0 : State} (l : Nat) (f : RangeFrame) (loopPs : Nat) (s : State) (h : Keeps s0 s) :
    Keeps s0 (rangeReturn l f loopPs s) := by
  unfold rangeReturn
  try dsimp only
  repeat' (first
    | with_reducible assumption
    | with_reducible apply modLane_keeps
    | with_reducible apply rangeNext_keeps
    | with_reducible apply rangeMeasured_keeps
    | with_reducible apply keeps_ite
    | fail_if_no_progress with_reducible refine keeps_mk ?_ (timeOn rfl rfl rfl rfl rfl)
    | (intro _ _)
    | dsimp only
    | split)

theorem rxErrors_keeps {s0 : State} (l : Nat) (n : Nat) (s : State) (h : Keeps s0 s) :
    Keeps s0 (rxErrors l n s) := by
  unfold rxErrors
  try dsimp only
  repeat' (first
    | with_reducible assumption
    | with_reducible apply bumpBy_keeps
    | with_reducible apply setFlag_keeps
    | with_reducible apply keeps_ite)

theorem execRangeFrameReturn_keeps {s0 : State} (t : Nat) (lane : Fin 32) (frame : RangeFrame) (loopPs : Nat) (s : State) (h : Keeps s0 s) :
    OutKeeps s0 (execRangeFrameReturn t lane frame loopPs s) := by
  unfold execRangeFrameReturn
  try dsimp only
  repeat' (first
    | with_reducible assumption
    | with_reducible apply advance_keeps
    | with_reducible apply rangeReturn_keeps
    | with_reducible apply rxErrors_keeps
    | with_reducible apply OutKeeps.ite
    | with_reducible apply OutKeeps.next
    | (intro _ _)
    | dsimp only
    | split)

theorem rangingDone_keeps {s0 : State} (l : Nat) (s : State) (h : Keeps s0 s) :
    Keeps s0 (rangingDone l s) := by
  unfold rangingDone
  try dsimp only
  repeat' (first
    | with_reducible assumption
    | with_reducible apply setFlag_keeps
    | with_reducible apply notify_keeps
    | with_reducible apply modLane_keeps
    | with_reducible apply laneEnter_keeps
    | with_reducible apply ctrlSend_keeps
    | with_reducible apply provision_keeps
    | with_reducible apply laneSettle_keeps
    | with_reducible apply rangeApply_keeps
    | (with_reducible apply keeps_foldl; intro _ _ _)
    | with_reducible apply keeps_ite
    | with_reducible apply keeps_ite_fst
    | fail_if_no_progress with_reducible refine keeps_mk ?_ (timeOn rfl rfl rfl rfl rfl)
    | (intro _ _)
    | dsimp only
    | split)

theorem execLaneRangingDone_keeps {s0 : State} (t : Nat) (lane : Fin 32) (s : State) (h : Keeps s0 s) :
    OutKeeps s0 (execLaneRangingDone t lane s) := by
  unfold execLaneRangingDone
  try dsimp only
  repeat' (first
    | with_reducible assumption
    | with_reducible apply advance_keeps
    | with_reducible apply rangingDone_keeps
    | with_reducible apply OutKeeps.ite
    | with_reducible apply keeps_ite
    | with_reducible apply OutKeeps.next)

theorem ctrlFailed_keeps {s0 : State} (c : Ctrl) (data : Word) (status : Nat) (s : State) (h : Keeps s0 s) :
    Keeps s0 (ctrlFailed c data status s) := by
  unfold ctrlFailed
  try dsimp only
  repeat' (first
    | with_reducible assumption
    | with_reducible apply respondOwed_keeps
    | with_reducible apply keeps_ite
    | with_reducible apply OutKeeps.next
    | fail_if_no_progress with_reducible refine keeps_mk ?_ (timeOn rfl rfl rfl rfl rfl)
    | (intro _ _)
    | dsimp only
    | split)

theorem laneAbort_keeps {s0 : State} (l : Nat) (s : State) (h : Keeps s0 s) :
    Keeps s0 (laneAbort l s) := by
  unfold laneAbort
  try dsimp only
  repeat' (first
    | with_reducible assumption
    | with_reducible apply ctrlFailed_keeps
    | (with_reducible apply keeps_foldl; intro _ _ _))

theorem laneTrain_keeps {s0 : State} (l : Nat) (cause : Nat) (s : State) (h : Keeps s0 s) :
    Keeps s0 (laneTrain l cause s) := by
  unfold laneTrain
  try dsimp only
  repeat' (first
    | with_reducible assumption
    | with_reducible apply modLane_keeps
    | with_reducible apply laneEnter_keeps
    | with_reducible apply laneAbort_keeps
    | fail_if_no_progress with_reducible refine keeps_mk ?_ (timeOn rfl rfl rfl rfl rfl))

theorem laneOff_keeps {s0 : State} (l : Nat) (cause : Nat) (s : State) (h : Keeps s0 s) :
    Keeps s0 (laneOff l cause s) := by
  unfold laneOff
  try dsimp only
  repeat' (first
    | with_reducible assumption
    | with_reducible apply modLane_keeps
    | with_reducible apply laneEnter_keeps
    | with_reducible apply laneAbort_keeps
    | with_reducible apply keeps_ite
    | fail_if_no_progress with_reducible refine keeps_mk ?_ (timeOn rfl rfl rfl rfl rfl))

theorem execLaneTrainingDone_keeps {s0 : State} (t : Nat) (lane : Fin 32) (s : State) (h : Keeps s0 s) :
    OutKeeps s0 (execLaneTrainingDone t lane s) := by
  unfold execLaneTrainingDone
  try dsimp only
  repeat' (first
    | with_reducible assumption
    | with_reducible apply advance_keeps
    | with_reducible apply modLane_keeps
    | with_reducible apply laneEnter_keeps
    | with_reducible apply OutKeeps.ite
    | with_reducible apply keeps_ite
    | with_reducible apply OutKeeps.next)

theorem enumStart_keeps {s0 : State} (l : Nat) (s : State) (h : Keeps s0 s) :
    Keeps s0 (enumStart l s) := by
  unfold enumStart
  try dsimp only
  repeat' (first
    | with_reducible assumption
    | with_reducible apply modLane_keeps
    | with_reducible apply keeps_ite
    | fail_if_no_progress with_reducible refine keeps_mk ?_ (timeOn rfl rfl rfl rfl rfl))

theorem execEnumerateInterval_keeps {s0 : State} (t : Nat) (lane : Fin 32) (s : State) (h : Keeps s0 s) :
    OutKeeps s0 (execEnumerateInterval t lane s) := by
  unfold execEnumerateInterval
  try dsimp only
  repeat' (first
    | with_reducible assumption
    | with_reducible apply advance_keeps
    | with_reducible apply modLane_keeps
    | with_reducible apply enumStart_keeps
    | with_reducible apply OutKeeps.ite
    | with_reducible apply keeps_ite
    | with_reducible apply OutKeeps.next
    | fail_if_no_progress with_reducible refine keeps_mk ?_ (timeOn rfl rfl rfl rfl rfl)
    | (intro _ _)
    | dsimp only
    | split)

theorem seenNow_keeps {s0 : State} (l : Nat) (n : Nat) (s : State) (h : Keeps s0 s) :
    Keeps s0 (seenNow l n s) := by
  unfold seenNow
  try dsimp only
  repeat' (first
    | with_reducible assumption
    | with_reducible apply modLane_keeps
    | with_reducible apply laneEnter_keeps
    | with_reducible apply ctrlSend_keeps
    | with_reducible apply provision_keeps
    | with_reducible apply laneSettle_keeps
    | with_reducible apply rangeStart_keeps
    | (with_reducible apply keeps_foldl; intro _ _ _)
    | with_reducible apply keeps_ite
    | fail_if_no_progress with_reducible refine keeps_mk ?_ (timeOn rfl rfl rfl rfl rfl))

theorem enumDone_keeps {s0 : State} (l : Nat) (n : Nat) (s : State) (h : Keeps s0 s) :
    Keeps s0 (enumDone l n s) := by
  unfold enumDone
  try dsimp only
  repeat' (first
    | with_reducible assumption
    | with_reducible apply modLane_keeps
    | with_reducible apply laneEnter_keeps
    | with_reducible apply rangeNext_keeps
    | with_reducible apply rangeStart_keeps
    | with_reducible apply seenNow_keeps
    | with_reducible apply keeps_ite
    | with_reducible apply keeps_ite_fst
    | fail_if_no_progress with_reducible refine keeps_mk ?_ (timeOn rfl rfl rfl rfl rfl))

theorem enumReturn_keeps {s0 : State} (l : Nat) (f : EnumFrame) (s : State) (h : Keeps s0 s) :
    Keeps s0 (enumReturn l f s) := by
  unfold enumReturn
  try dsimp only
  repeat' (first
    | with_reducible assumption
    | with_reducible apply modLane_keeps
    | with_reducible apply enumDone_keeps
    | with_reducible apply keeps_ite
    | fail_if_no_progress with_reducible refine keeps_mk ?_ (timeOn rfl rfl rfl rfl rfl))

theorem execEnumerateFrameReturn_keeps {s0 : State} (t : Nat) (lane : Fin 32) (frame : EnumFrame) (errors : Nat) (s : State) (h : Keeps s0 s) :
    OutKeeps s0 (execEnumerateFrameReturn t lane frame errors s) := by
  unfold execEnumerateFrameReturn
  try dsimp only
  repeat' (first
    | with_reducible assumption
    | with_reducible apply advance_keeps
    | with_reducible apply rxErrors_keeps
    | with_reducible apply enumReturn_keeps
    | with_reducible apply OutKeeps.ite
    | with_reducible apply OutKeeps.next
    | (intro _ _)
    | dsimp only
    | split)

theorem execLaneRxLoss_keeps {s0 : State} (t : Nat) (lane : Fin 32) (errors : Nat) (s : State) (h : Keeps s0 s) :
    OutKeeps s0 (execLaneRxLoss t lane errors s) := by
  unfold execLaneRxLoss
  try dsimp only
  repeat' (first
    | with_reducible assumption
    | with_reducible apply advance_keeps
    | with_reducible apply modLane_keeps
    | with_reducible apply laneEnter_keeps
    | with_reducible apply rxErrors_keeps
    | with_reducible apply OutKeeps.ite
    | with_reducible apply keeps_ite
    | with_reducible apply OutKeeps.next
    | fail_if_no_progress with_reducible refine keeps_mk ?_ (timeOn rfl rfl rfl rfl rfl)
    | (intro _ _)
    | dsimp only
    | split)

theorem chipEpochReport_keeps {s0 : State} (l : Nat) (i : Nat) (epoch : Nat) (s : State) (h : Keeps s0 s) :
    Keeps s0 (chipEpochReport l i epoch s) := by
  unfold chipEpochReport
  try dsimp only
  repeat' (first
    | with_reducible assumption
    | with_reducible apply unitReport_keeps
    | with_reducible apply modChip_keeps
    | with_reducible apply ctrlSend_keeps
    | with_reducible apply provision_keeps
    | with_reducible apply keeps_ite
    | fail_if_no_progress with_reducible refine keeps_mk ?_ (timeOn rfl rfl rfl rfl rfl))

theorem collectNow_keeps {s0 : State} (l : Nat) (s : State) (h : Keeps s0 s) :
    Keeps s0 (collectNow l s) := by
  unfold collectNow
  try dsimp only
  repeat' (first
    | with_reducible assumption
    | with_reducible apply modLane_keeps
    | with_reducible apply keeps_ite
    | fail_if_no_progress with_reducible refine keeps_mk ?_ (timeOn rfl rfl rfl rfl rfl))

theorem collectSend_keeps {s0 : State} (s : State) (l : Nat) (h : Keeps s0 s) :
    Keeps s0 (collectSend s l) := by
  unfold collectSend
  try dsimp only
  repeat' (first
    | with_reducible assumption
    | with_reducible apply modLane_keeps
    | with_reducible apply ctrlSend_keeps
    | with_reducible apply rangeStart_keeps
    | with_reducible apply collectNow_keeps
    | with_reducible apply keeps_ite
    | fail_if_no_progress with_reducible refine keeps_mk ?_ (timeOn rfl rfl rfl rfl rfl))

theorem laneIdle_keeps {s0 : State} (l : Nat) (s : State) (h : Keeps s0 s) :
    Keeps s0 (laneIdle l s) := by
  unfold laneIdle
  try dsimp only
  repeat' (first
    | with_reducible assumption
    | with_reducible apply ctrlSend_keeps
    | with_reducible apply rangeNext_keeps
    | with_reducible apply enumStart_keeps
    | with_reducible apply collectNow_keeps
    | with_reducible apply keeps_ite)

theorem pixelSend_keeps {s0 : State} (l : Nat) (s : State) (h : Keeps s0 s) :
    Keeps s0 (pixelSend l s) := by
  unfold pixelSend
  try dsimp only
  repeat' (first
    | with_reducible assumption
    | with_reducible apply dropJob_keeps
    | with_reducible apply sendFrame_keeps
    | with_reducible apply spoilFrame_keeps
    | with_reducible apply laneIdle_keeps
    | with_reducible apply keeps_ite
    | (intro _ _)
    | dsimp only
    | split)

theorem execPixelFrameSend_keeps {s0 : State} (t : Nat) (lane : Fin 32) (s : State) (h : Keeps s0 s) :
    OutKeeps s0 (execPixelFrameSend t lane s) := by
  unfold execPixelFrameSend
  try dsimp only
  repeat' (first
    | with_reducible assumption
    | with_reducible apply advance_keeps
    | with_reducible apply pixelSend_keeps
    | with_reducible apply OutKeeps.ite
    | with_reducible apply keeps_ite
    | with_reducible apply OutKeeps.next)

theorem collectSlot_keeps {s0 : State} (l : Nat) (s : State) (e : Nat × Slot) (h : Keeps s0 s) :
    Keeps s0 (collectSlot l s e) := by
  unfold collectSlot
  try dsimp only
  repeat' (first
    | with_reducible assumption
    | with_reducible apply bump_keeps
    | with_reducible apply chipReport_keeps
    | with_reducible apply enumStart_keeps
    | with_reducible apply chipEpochReport_keeps
    | with_reducible apply keeps_ite
    | with_reducible apply keeps_ite_fst)

theorem collectReturn_keeps {s0 : State} (l : Nat) (slots : List Slot) (s : State) (h : Keeps s0 s) :
    Keeps s0 (collectReturn l slots s) := by
  unfold collectReturn
  try dsimp only
  repeat' (first
    | with_reducible assumption
    | with_reducible apply intake_keeps
    | with_reducible apply modLane_keeps
    | with_reducible apply rangeNext_keeps
    | with_reducible apply collectSlot_keeps
    | (with_reducible apply keeps_foldl; intro _ _ _)
    | with_reducible apply keeps_ite
    | with_reducible apply keeps_ite_fst
    | fail_if_no_progress with_reducible refine keeps_mk ?_ (timeOn rfl rfl rfl rfl rfl)
    | (intro _ _)
    | dsimp only
    | split)

theorem execCollectFrameReturn_keeps {s0 : State} (t : Nat) (lane : Fin 32) (slots : List Slot) (errors : Nat) (s : State) (h : Keeps s0 s) :
    OutKeeps s0 (execCollectFrameReturn t lane slots errors s) := by
  unfold execCollectFrameReturn
  try dsimp only
  repeat' (first
    | with_reducible assumption
    | with_reducible apply advance_keeps
    | with_reducible apply rxErrors_keeps
    | with_reducible apply collectReturn_keeps
    | with_reducible apply OutKeeps.ite
    | with_reducible apply keeps_ite
    | with_reducible apply OutKeeps.next)

theorem laneSync_keeps {s0 : State} (l : Nat) (zones : List Nat) (p : Int) (s : State) (h : Keeps s0 s) :
    Keeps s0 (laneSync l zones p s) := by
  unfold laneSync
  try dsimp only
  repeat' (first
    | with_reducible assumption
    | with_reducible apply draw_keeps
    | with_reducible apply bump_keeps
    | with_reducible apply modLane_keeps
    | with_reducible apply keeps_ite)

theorem execLaneSet_keeps {s0 : State} (c : Call) (p : LaneSet) (s : State) (h : Keeps s0 s) :
    OutKeeps s0 (execLaneSet c p s) := by
  unfold execLaneSet
  try dsimp only
  repeat' (first
    | with_reducible assumption
    | with_reducible apply configMessage_keeps)

theorem execLaneChainSet_keeps {s0 : State} (c : Call) (p : LaneChainSet) (s : State) (h : Keeps s0 s) :
    OutKeeps s0 (execLaneChainSet c p s) := by
  unfold execLaneChainSet
  try dsimp only
  repeat' (first
    | with_reducible assumption
    | with_reducible apply configMessage_keeps)

theorem execLaneGlobalSet_keeps {s0 : State} (c : Call) (p : LaneGlobalSet) (s : State) (h : Keeps s0 s) :
    OutKeeps s0 (execLaneGlobalSet c p s) := by
  unfold execLaneGlobalSet
  try dsimp only
  repeat' (first
    | with_reducible assumption
    | with_reducible apply configMessage_keeps)

theorem setWords_keeps {s0 : State} (l : List (Nat × Word)) (s : State) (h : Keeps s0 s) :
    Keeps s0 (setWords l s) := by
  unfold setWords
  try dsimp only
  repeat' (first
    | with_reducible assumption
    | with_reducible apply setReg_keeps
    | (with_reducible apply keeps_foldl; intro _ _ _))

theorem lneShadow_keeps {s0 : State} (r : Cfg) (s : State) (h : Keeps s0 s) :
    Keeps s0 (lneShadow r s) := by
  unfold lneShadow
  try dsimp only
  repeat' (first
    | with_reducible assumption
    | with_reducible apply setReg_keeps
    | with_reducible apply setWords_keeps
    | (with_reducible apply keeps_foldl; intro _ _ _))

theorem chainTrim_keeps {s0 : State} (l : Nat) (n : Nat) (s : State) (h : Keeps s0 s) :
    Keeps s0 (chainTrim l n s) := by
  unfold chainTrim
  try dsimp only
  repeat' (first
    | with_reducible assumption
    | with_reducible apply modLane_keeps
    | fail_if_no_progress with_reducible refine keeps_mk ?_ (timeOn rfl rfl rfl rfl rfl))

theorem lneConfigure_keeps {s0 : State} (old : Cfg) (k : Int) (s : State) (h : Keeps s0 s) :
    Keeps s0 (lneConfigure old k s) := by
  unfold lneConfigure
  try dsimp only
  repeat' (first
    | with_reducible assumption
    | with_reducible apply laneEnter_keeps
    | with_reducible apply ctrlSend_keeps
    | with_reducible apply provision_keeps
    | with_reducible apply rangeNext_keeps
    | with_reducible apply rangeApply_keeps
    | with_reducible apply laneTrain_keeps
    | with_reducible apply laneOff_keeps
    | with_reducible apply chainTrim_keeps
    | (with_reducible apply keeps_foldl; intro _ _ _)
    | with_reducible apply keeps_ite
    | with_reducible apply keeps_ite_fst)

theorem lneStart_keeps {s0 : State} (s : State) (h : Keeps s0 s) :
    Keeps s0 (lneStart s) := by
  unfold lneStart
  try dsimp only
  repeat' (first
    | with_reducible assumption
    | with_reducible apply ctrlQueue_keeps
    | with_reducible apply ctrlSend_keeps
    | with_reducible apply provision_keeps
    | (with_reducible apply keeps_foldl; intro _ _ _)
    | with_reducible apply keeps_ite)

theorem lneStop_keeps {s0 : State} (s : State) (h : Keeps s0 s) :
    Keeps s0 (lneStop s) := by
  unfold lneStop
  try dsimp only
  repeat' (first
    | with_reducible assumption
    | fail_if_no_progress with_reducible refine keeps_mk ?_ (timeOn rfl rfl rfl rfl rfl))

theorem execLaneRange_keeps {s0 : State} (c : Call) (mask : Nat) (chip : Nat) (s : State) (h : Keeps s0 s) :
    OutKeeps s0 (execLaneRange c mask chip s) := by
  unfold execLaneRange
  try dsimp only
  repeat' (first
    | with_reducible assumption
    | with_reducible refine command_keeps _ _ _ _ ?_ (fun _ _ => ?_)
    | with_reducible apply refuse_keeps
    | with_reducible apply accept_keeps
    | with_reducible apply laneEnter_keeps
    | with_reducible apply rangeStart_keeps
    | (with_reducible apply keeps_foldl; intro _ _ _)
    | with_reducible apply OutKeeps.ite
    | with_reducible apply keeps_ite
    | with_reducible apply keeps_ite_fst
    | with_reducible apply OutKeeps.next
    | (intro _ _)
    | dsimp only
    | split)

theorem execLaneStatusGet_keeps {s0 : State} (c : Call) (lane : Nat) (s : State) (h : Keeps s0 s) :
    OutKeeps s0 (execLaneStatusGet c lane s) := by
  unfold execLaneStatusGet
  try dsimp only
  repeat' (first
    | with_reducible assumption
    | with_reducible refine command_keeps _ _ _ _ ?_ (fun _ _ => ?_)
    | with_reducible apply refuse_keeps
    | with_reducible apply answer_keeps
    | with_reducible apply OutKeeps.ite
    | with_reducible apply keeps_ite
    | with_reducible apply OutKeeps.next
    | fail_if_no_progress with_reducible refine keeps_mk ?_ (timeOn rfl rfl rfl rfl rfl)
    | (intro _ _)
    | dsimp only
    | split)

theorem execLaneChipWrite_keeps {s0 : State} (c : Call) (lane : Nat) (chip : Nat) (addr : Nat) (data : List (BitVec 8)) (s : State) (h : Keeps s0 s) :
    OutKeeps s0 (execLaneChipWrite c lane chip addr data s) := by
  unfold execLaneChipWrite
  try dsimp only
  repeat' (first
    | with_reducible assumption
    | with_reducible refine command_keeps _ _ _ _ ?_ (fun _ _ => ?_)
    | with_reducible apply refuse_keeps
    | with_reducible apply ctrlQueue_keeps
    | with_reducible apply ctrlSend_keeps
    | with_reducible apply OutKeeps.ite
    | with_reducible apply keeps_ite
    | with_reducible apply keeps_ite_fst
    | with_reducible apply OutKeeps.next
    | (intro _ _)
    | dsimp only
    | split)

theorem execLaneChipRead_keeps {s0 : State} (c : Call) (lane : Nat) (chip : Nat) (addr : Nat) (s : State) (h : Keeps s0 s) :
    OutKeeps s0 (execLaneChipRead c lane chip addr s) := by
  unfold execLaneChipRead
  try dsimp only
  repeat' (first
    | with_reducible assumption
    | with_reducible refine command_keeps _ _ _ _ ?_ (fun _ _ => ?_)
    | with_reducible apply refuse_keeps
    | with_reducible apply ctrlQueue_keeps
    | with_reducible apply ctrlSend_keeps
    | with_reducible apply OutKeeps.ite
    | with_reducible apply keeps_ite
    | with_reducible apply keeps_ite_fst
    | with_reducible apply OutKeeps.next
    | (intro _ _)
    | dsimp only
    | split)

end Sys2Proof.Laws
end

