-- ==== Sys2Proof/Laws/KeepsPackets.lean ====
section
/-! SUPPORT. What every command keeps, for the operations of Machine/Packets.lean. -/

namespace Sys2Proof.Laws

open Sys2Proof.Machine Sys2Proof.Safety

theorem modPkt_keeps {s0 : State} (f : Pkt → Pkt) (s : State) (h : Keeps s0 s) :
    Keeps s0 (modPkt f s) := by
  unfold modPkt
  try dsimp only
  repeat' (first
    | with_reducible assumption
    | with_reducible apply keeps_ite
    | with_reducible apply OutKeeps.next
    | fail_if_no_progress with_reducible refine keeps_mk ?_ (timeOn rfl rfl rfl rfl rfl))

theorem modDmx_keeps {s0 : State} (p : Nat) (f : DmxPort → DmxPort) (s : State) (h : Keeps s0 s) :
    Keeps s0 (modDmx p f s) := by
  unfold modDmx
  try dsimp only
  repeat' (first
    | with_reducible assumption
    | with_reducible apply keeps_ite
    | with_reducible apply OutKeeps.next
    | fail_if_no_progress with_reducible refine keeps_mk ?_ (timeOn rfl rfl rfl rfl rfl))

theorem flowFrames_keeps {s0 : State} (n : Nat) (p : FlowCtx) (pf : PoolFrame) (deadline : Option Int) (s : State) (h : Keeps s0 s) :
    Keeps s0 (flowFrames n p pf deadline s).2 := by
  unfold flowFrames
  dsimp only
  split <;> dsimp only
  · exact modPkt_keeps _ _ h
  · exact h
  · exact draw_keeps _ (modPkt_keeps _ _ h)

theorem trapClear_keeps {s0 : State} (e : Nat) (s : State) (h : Keeps s0 s) :
    Keeps s0 (trapClear e s) := by
  unfold trapClear
  try dsimp only
  repeat' (first
    | with_reducible assumption
    | with_reducible apply modPkt_keeps
    | fail_if_no_progress with_reducible refine keeps_mk ?_ (timeOn rfl rfl rfl rfl rfl))

theorem flowWork_keeps {s0 : State} (n : Nat) (d : Descriptor) (s : State) (h : Keeps s0 s) : Keeps s0 (flowWork n d s) := by
  unfold flowWork
  split
  · exact zoneLate_keeps _ _ _ _ _ h
  · rename_i pf _
    split
    · exact h
    · rename_i p _
      dsimp only
      split
      · exact zoneLate_keeps _ _ _ _ _ h
      split
      · exact zoneLate_keeps _ _ _ _ _ (trapClear_keeps _ _ h)
      · have hf := flowFrames_keeps n p pf d.deadline s h
        generalize flowFrames n p pf d.deadline s = r at hf ⊢
        obtain ⟨all, s1⟩ := r
        exact bumpBy_keeps _ _ _ (bumpBy_keeps _ _ _ (keeps_foldl (fun x a hx => macSend_keeps _ _ _ hx) (outputClear_keeps _ _ _ hf)))

theorem flowLate_keeps {s0 : State} (n : Nat) (d : Descriptor) (s : State) (h : Keeps s0 s) :
    Keeps s0 (flowLate n d s) := by
  unfold flowLate
  try dsimp only
  repeat' (first
    | with_reducible assumption
    | with_reducible apply bumpBy_keeps
    | with_reducible apply setFlag_keeps
    | with_reducible apply zoneLate_keeps)

theorem dmxWork_keeps {s0 : State} (p : Nat) (d : Descriptor) (s : State) (h : Keeps s0 s) :
    Keeps s0 (dmxWork p d s) := by
  unfold dmxWork
  try dsimp only
  repeat' (first
    | with_reducible assumption
    | with_reducible apply zoneLate_keeps
    | with_reducible apply modDmx_keeps
    | with_reducible apply keeps_ite
    | with_reducible apply OutKeeps.next
    | fail_if_no_progress with_reducible refine keeps_mk ?_ (timeOn rfl rfl rfl rfl rfl)
    | (intro _ _)
    | dsimp only
    | split)

theorem mergeNote_keeps {s0 : State} (z : Nat) (k : Int) (at_ : Int) (s : State) (h : Keeps s0 s) :
    Keeps s0 (mergeNote z k at_ s) := by
  unfold mergeNote
  try dsimp only
  repeat' (first
    | with_reducible assumption
    | with_reducible apply bump_keeps
    | with_reducible apply setFlag_keeps
    | with_reducible apply traceRec_keeps)

theorem armSync_keeps {s0 : State} (p : Nat) (zs : List (Nat × Int)) (at_ : Int) (s : State) (h : Keeps s0 s) :
    Keeps s0 (armSync p zs at_ s) := by
  unfold armSync
  try dsimp only
  repeat' (first
    | with_reducible assumption
    | with_reducible apply macArm_keeps
    | with_reducible apply modPkt_keeps
    | (with_reducible apply keeps_foldl; intro _ _ _)
    | fail_if_no_progress with_reducible refine keeps_mk ?_ (timeOn rfl rfl rfl rfl rfl))

theorem joinArmed_keeps {s0 : State} (z : Nat) (k : Int) (a : Armed) (s : State) (h : Keeps s0 s) :
    Keeps s0 (joinArmed z k a s) := by
  unfold joinArmed
  try dsimp only
  repeat' (first
    | with_reducible assumption
    | with_reducible apply modAlm_keeps
    | with_reducible apply keeps_ite
    | fail_if_no_progress with_reducible refine keeps_mk ?_ (timeOn rfl rfl rfl rfl rfl))

theorem joinLaunch_keeps {s0 : State} (z : Nat) (k : Int) (s : State) (l : Int × LaunchKind) (h : Keeps s0 s) :
    Keeps s0 (joinLaunch z k s l) := by
  unfold joinLaunch
  try dsimp only
  repeat' (first
    | with_reducible assumption
    | with_reducible apply modAlm_keeps
    | with_reducible apply insertLaunch_keeps
    | with_reducible apply modPool_keeps
    | with_reducible apply mergeNote_keeps
    | with_reducible apply armSync_keeps
    | with_reducible apply joinArmed_keeps
    | with_reducible apply keeps_ite
    | with_reducible apply keeps_ite_fst
    | fail_if_no_progress with_reducible refine keeps_mk ?_ (timeOn rfl rfl rfl rfl rfl)
    | (intro _ _)
    | dsimp only
    | split)

theorem lateWork_keeps {s0 : State} (s : State) (d : Descriptor) (h : Keeps s0 s) :
    Keeps s0 (lateWork s d) := by
  unfold lateWork
  try dsimp only
  repeat' (first
    | with_reducible assumption
    | with_reducible apply zoneLate_keeps
    | with_reducible apply laneTake_keeps
    | with_reducible apply dropJob_keeps
    | with_reducible apply flowLate_keeps
    | fail_if_no_progress with_reducible refine keeps_mk ?_ (timeOn rfl rfl rfl rfl rfl)
    | (intro _ _)
    | dsimp only
    | split)

theorem releaseWork_keeps {s0 : State} (r : Cfg) (s : State) (d : Descriptor) (h : Keeps s0 s) :
    Keeps s0 (releaseWork r s d) := by
  unfold releaseWork
  try dsimp only
  repeat' (first
    | with_reducible assumption
    | with_reducible apply insertDescriptor_keeps
    | with_reducible apply discardDescriptor_keeps
    | with_reducible apply lateWork_keeps
    | with_reducible apply keeps_ite
    | (intro _ _)
    | dsimp only
    | split)

theorem zoneData_keeps {s0 : State} (z : Nat) (k : Int) (s : State) (h : Keeps s0 s) :
    Keeps s0 (zoneData z k s) := by
  unfold zoneData
  try dsimp only
  repeat' (first
    | with_reducible assumption
    | with_reducible apply modPool_keeps
    | with_reducible apply releaseWork_keeps
    | (with_reducible apply keeps_foldl; intro _ _ _)
    | fail_if_no_progress with_reducible refine keeps_mk ?_ (timeOn rfl rfl rfl rfl rfl)
    | (intro _ _)
    | dsimp only
    | split)

theorem zoneRelease_keeps {s0 : State} (z : Nat) (k : Int) (s : State) (h : Keeps s0 s) :
    Keeps s0 (zoneRelease z k s) := by
  unfold zoneRelease
  try dsimp only
  repeat' (first
    | with_reducible assumption
    | with_reducible apply joinLaunch_keeps
    | with_reducible apply zoneData_keeps
    | (with_reducible apply keeps_foldl; intro _ _ _))

theorem zoneReady_keeps {s0 : State} (z : Nat) (k : Int) (s : State) (h : Keeps s0 s) :
    Keeps s0 (zoneReady z k s) := by
  unfold zoneReady
  try dsimp only
  repeat' (first
    | with_reducible assumption
    | with_reducible apply modPool_keeps
    | with_reducible apply zoneData_keeps
    | with_reducible apply keeps_ite
    | fail_if_no_progress with_reducible refine keeps_mk ?_ (timeOn rfl rfl rfl rfl rfl))

theorem poolFree_keeps {s0 : State} (z : Nat) (k : Int) (s : State) (h : Keeps s0 s) :
    Keeps s0 (poolFree z k s) := by
  unfold poolFree
  try dsimp only
  repeat' (first
    | with_reducible assumption
    | with_reducible apply modPool_keeps)

theorem sendEndings_keeps {s0 : State} (s : State) (h : Keeps s0 s) :
    Keeps s0 (sendEndings s) := by
  unfold sendEndings
  try dsimp only
  repeat' (first
    | with_reducible assumption
    | with_reducible apply bump_keeps
    | with_reducible apply macSend_keeps
    | with_reducible apply modPkt_keeps
    | (with_reducible apply keeps_foldl; intro _ _ _)
    | with_reducible apply keeps_ite
    | with_reducible apply keeps_ite_fst)

theorem rxSet_keeps {s0 : State} (u : Nat) (x : RxUniverse) (s : State) (h : Keeps s0 s) :
    Keeps s0 (rxSet u x s) := by
  unfold rxSet
  try dsimp only
  repeat' (first
    | with_reducible assumption
    | with_reducible apply setFlag_keeps
    | with_reducible apply notify_keeps
    | with_reducible apply modPkt_keeps
    | with_reducible apply keeps_ite)

theorem rxTake_keeps {s0 : State} (p : E131Packet) (s : State) (u : Nat) (h : Keeps s0 s) :
    Keeps s0 (rxTake p s u) := by
  unfold rxTake
  try dsimp only
  repeat' (first
    | with_reducible assumption
    | with_reducible apply rxSet_keeps
    | with_reducible apply keeps_ite
    | fail_if_no_progress with_reducible refine keeps_mk ?_ (timeOn rfl rfl rfl rfl rfl))

theorem e131Receive_keeps {s0 : State} (port : Nat) (p : E131Packet) (s : State) (h : Keeps s0 s) :
    Keeps s0 (e131Receive port p s) := by
  unfold e131Receive
  try dsimp only
  repeat' (first
    | with_reducible assumption
    | with_reducible apply bump_keeps
    | with_reducible apply rxTake_keeps
    | (with_reducible apply keeps_foldl; intro _ _ _)
    | with_reducible apply keeps_ite)

theorem execE131PacketReceived_keeps {s0 : State} (t : Nat) (port : Fin 8) (p : E131Packet) (s : State) (h : Keeps s0 s) :
    OutKeeps s0 (execE131PacketReceived t port p s) := by
  unfold execE131PacketReceived
  try dsimp only
  repeat' (first
    | with_reducible assumption
    | with_reducible apply advance_keeps
    | with_reducible apply e131Receive_keeps
    | with_reducible apply OutKeeps.ite
    | with_reducible apply keeps_ite
    | with_reducible apply OutKeeps.next
    | (intro _ _)
    | dsimp only
    | split)

theorem rxExpire_keeps {s0 : State} (dmx : Bool) (u : Nat) (cid : Nat) (s : State) (h : Keeps s0 s) :
    Keeps s0 (rxExpire dmx u cid s) := by
  unfold rxExpire
  try dsimp only
  repeat' (first
    | with_reducible assumption
    | with_reducible apply bump_keeps
    | with_reducible apply rxSet_keeps
    | with_reducible apply keeps_ite)

theorem execE131SourceTimeout_keeps {s0 : State} (t : Nat) (entry : Nat) (cid : Nat) (s : State) (h : Keeps s0 s) :
    OutKeeps s0 (execE131SourceTimeout t entry cid s) := by
  unfold execE131SourceTimeout
  try dsimp only
  repeat' (first
    | with_reducible assumption
    | with_reducible apply advance_keeps
    | with_reducible apply rxExpire_keeps
    | with_reducible apply OutKeeps.ite
    | with_reducible apply keeps_ite
    | with_reducible apply OutKeeps.next)

theorem discovery_keeps {s0 : State} (s : State) (h : Keeps s0 s) :
    Keeps s0 (discovery s) := by
  unfold discovery
  try dsimp only
  repeat' (first
    | with_reducible assumption
    | with_reducible apply macSend_keeps
    | with_reducible apply modPkt_keeps
    | (with_reducible apply keeps_foldl; intro _ _ _)
    | fail_if_no_progress with_reducible refine keeps_mk ?_ (timeOn rfl rfl rfl rfl rfl))

theorem execUniverseDiscovery_keeps {s0 : State} (t : Nat) (s : State) (h : Keeps s0 s) :
    OutKeeps s0 (execUniverseDiscovery t s) := by
  unfold execUniverseDiscovery
  try dsimp only
  repeat' (first
    | with_reducible assumption
    | with_reducible apply advance_keeps
    | with_reducible apply discovery_keeps
    | with_reducible apply OutKeeps.ite
    | with_reducible apply keeps_ite
    | with_reducible apply OutKeeps.next
    | (intro _ _)
    | dsimp only
    | split)

theorem dmxReceive_keeps {s0 : State} (p : Nat) (startCode : Nat) (slots : List Nat) (errors : Nat) (s : State) (h : Keeps s0 s) :
    Keeps s0 (dmxReceive p startCode slots errors s) := by
  unfold dmxReceive
  try dsimp only
  repeat' (first
    | with_reducible assumption
    | with_reducible apply bumpBy_keeps
    | with_reducible apply bump_keeps
    | with_reducible apply setFlag_keeps
    | with_reducible apply intake_keeps
    | with_reducible apply rxSet_keeps
    | with_reducible apply keeps_ite
    | fail_if_no_progress with_reducible refine keeps_mk ?_ (timeOn rfl rfl rfl rfl rfl))

theorem execDmxFrameReceived_keeps {s0 : State} (t : Nat) (port : Fin 16) (startCode : Nat) (slots : List Nat) (errors : Nat) (s : State) (h : Keeps s0 s) :
    OutKeeps s0 (execDmxFrameReceived t port startCode slots errors s) := by
  unfold execDmxFrameReceived
  try dsimp only
  repeat' (first
    | with_reducible assumption
    | with_reducible apply advance_keeps
    | with_reducible apply dmxReceive_keeps
    | with_reducible apply OutKeeps.ite
    | with_reducible apply keeps_ite
    | with_reducible apply OutKeeps.next)

theorem execDmxSourceTimeout_keeps {s0 : State} (t : Nat) (port : Fin 16) (s : State) (h : Keeps s0 s) :
    OutKeeps s0 (execDmxSourceTimeout t port s) := by
  unfold execDmxSourceTimeout
  try dsimp only
  repeat' (first
    | with_reducible assumption
    | with_reducible apply advance_keeps
    | with_reducible apply rxExpire_keeps
    | with_reducible apply OutKeeps.ite
    | with_reducible apply keeps_ite
    | with_reducible apply OutKeeps.next)

theorem dmxSkip_keeps {s0 : State} (p : Nat) (s : State) (h : Keeps s0 s) :
    Keeps s0 (dmxSkip p s) := by
  unfold dmxSkip
  try dsimp only
  repeat' (first
    | with_reducible assumption
    | with_reducible apply bump_keeps
    | with_reducible apply setFlag_keeps)

theorem rdmSend_keeps {s0 : State} (p : Nat) (s : State) (h : Keeps s0 s) :
    Keeps s0 (rdmSend p s) := by
  unfold rdmSend
  try dsimp only
  repeat' (first
    | with_reducible assumption
    | with_reducible apply bump_keeps
    | with_reducible apply respondOwed_keeps
    | with_reducible apply modDmx_keeps
    | with_reducible apply keeps_ite
    | with_reducible apply keeps_ite_fst
    | fail_if_no_progress with_reducible refine keeps_mk ?_ (timeOn rfl rfl rfl rfl rfl)
    | (intro _ _)
    | dsimp only
    | split)

theorem rdmNext_keeps {s0 : State} (p : Nat) (s : State) (h : Keeps s0 s) :
    Keeps s0 (rdmNext p s) := by
  unfold rdmNext
  try dsimp only
  repeat' (first
    | with_reducible assumption
    | with_reducible apply rdmSend_keeps
    | with_reducible apply keeps_ite
    | with_reducible apply keeps_ite_fst
    | (intro _ _)
    | dsimp only
    | split)

theorem rdmOpen_keeps {s0 : State} (p : Nat) (s : State) (h : Keeps s0 s) :
    Keeps s0 (rdmOpen p s) := by
  unfold rdmOpen
  try dsimp only
  repeat' (first
    | with_reducible assumption
    | with_reducible apply modDmx_keeps
    | with_reducible apply rdmSend_keeps
    | fail_if_no_progress with_reducible refine keeps_mk ?_ (timeOn rfl rfl rfl rfl rfl)
    | (intro _ _)
    | dsimp only
    | split)

theorem rdmWindow_keeps {s0 : State} (p : Nat) (s : State) (h : Keeps s0 s) :
    Keeps s0 (rdmWindow p s) := by
  unfold rdmWindow
  try dsimp only
  repeat' (first
    | with_reducible assumption
    | with_reducible apply rdmNext_keeps
    | with_reducible apply rdmOpen_keeps
    | with_reducible apply keeps_ite)

theorem dmxBreak_keeps {s0 : State} (p : Nat) (s : State) (h : Keeps s0 s) :
    Keeps s0 (dmxBreak p s) := by
  unfold dmxBreak
  try dsimp only
  repeat' (first
    | with_reducible assumption
    | with_reducible apply bump_keeps
    | with_reducible apply outputClear_keeps
    | with_reducible apply modDmx_keeps
    | with_reducible apply dmxSkip_keeps
    | with_reducible apply rdmOpen_keeps
    | with_reducible apply keeps_ite)

theorem execRdmWindow_keeps {s0 : State} (t : Nat) (port : Fin 16) (s : State) (h : Keeps s0 s) :
    OutKeeps s0 (execRdmWindow t port s) := by
  unfold execRdmWindow
  try dsimp only
  repeat' (first
    | with_reducible assumption
    | with_reducible apply advance_keeps
    | with_reducible apply rdmWindow_keeps
    | with_reducible apply OutKeeps.ite
    | with_reducible apply keeps_ite
    | with_reducible apply OutKeeps.next)

theorem rdmReport_keeps {s0 : State} (p : Nat) (kind : Nat) (took : Nat) (transaction : Nat) (bytes : List (BitVec 8)) (s : State) (h : Keeps s0 s) :
    Keeps s0 (rdmReport p kind took transaction bytes s) := by
  unfold rdmReport
  try dsimp only
  repeat' (first
    | with_reducible assumption
    | with_reducible apply notify_keeps
    | with_reducible apply intake_keeps
    | with_reducible apply keeps_ite
    | with_reducible apply keeps_ite_fst)

theorem rdmDone_keeps {s0 : State} (p : Nat) (kind : Nat) (took : Nat) (bytes : List (BitVec 8)) (s : State) (h : Keeps s0 s) :
    Keeps s0 (rdmDone p kind took bytes s) := by
  unfold rdmDone
  try dsimp only
  repeat' (first
    | with_reducible assumption
    | with_reducible apply bump_keeps
    | with_reducible apply setFlag_keeps
    | with_reducible apply respondOwed_keeps
    | with_reducible apply modDmx_keeps
    | with_reducible apply rdmNext_keeps
    | with_reducible apply rdmReport_keeps
    | fail_if_no_progress with_reducible refine keeps_mk ?_ (timeOn rfl rfl rfl rfl rfl)
    | (intro _ _)
    | dsimp only
    | split)

theorem execRdmResponseReceived_keeps {s0 : State} (t : Nat) (port : Fin 16) (kind : Nat) (took : Nat) (bytes : List (BitVec 8)) (s : State) (h : Keeps s0 s) :
    OutKeeps s0 (execRdmResponseReceived t port kind took bytes s) := by
  unfold execRdmResponseReceived
  try dsimp only
  repeat' (first
    | with_reducible assumption
    | with_reducible apply advance_keeps
    | with_reducible apply rdmDone_keeps
    | with_reducible apply OutKeeps.ite
    | with_reducible apply keeps_ite
    | with_reducible apply OutKeeps.next
    | (intro _ _)
    | dsimp only
    | split)

theorem execRdmResponseTimeout_keeps {s0 : State} (t : Nat) (port : Fin 16) (s : State) (h : Keeps s0 s) :
    OutKeeps s0 (execRdmResponseTimeout t port s) := by
  unfold execRdmResponseTimeout
  try dsimp only
  repeat' (first
    | with_reducible assumption
    | with_reducible apply advance_keeps
    | with_reducible apply rdmDone_keeps
    | with_reducible apply OutKeeps.ite
    | with_reducible apply keeps_ite
    | with_reducible apply OutKeeps.next
    | (intro _ _)
    | dsimp only
    | split)

theorem rdmDropOwed_keeps {s0 : State} (i : Fin 5) (s : State) (h : Keeps s0 s) :
    Keeps s0 (rdmDropOwed i s) := by
  unfold rdmDropOwed
  try dsimp only
  repeat' (first
    | with_reducible assumption
    | with_reducible apply keeps_ite
    | with_reducible apply OutKeeps.next
    | fail_if_no_progress with_reducible refine keeps_mk ?_ (timeOn rfl rfl rfl rfl rfl))

theorem pktFailure_keeps {s0 : State} (e : Nat) (cause : Nat) (s : State) (h : Keeps s0 s) :
    Keeps s0 (pktFailure e cause s) := by
  unfold pktFailure
  try dsimp only
  repeat' (first
    | with_reducible assumption
    | with_reducible apply bump_keeps
    | with_reducible apply setFlag_keeps
    | with_reducible apply notify_keeps
    | with_reducible apply modPkt_keeps
    | with_reducible apply keeps_ite
    | with_reducible apply keeps_ite_fst
    | fail_if_no_progress with_reducible refine keeps_mk ?_ (timeOn rfl rfl rfl rfl rfl))

theorem execPktEngineFailure_keeps {s0 : State} (t : Nat) (engine : Fin 8) (cause : Nat) (s : State) (h : Keeps s0 s) :
    OutKeeps s0 (execPktEngineFailure t engine cause s) := by
  unfold execPktEngineFailure
  try dsimp only
  repeat' (first
    | with_reducible assumption
    | with_reducible apply advance_keeps
    | with_reducible apply pktFailure_keeps
    | with_reducible apply OutKeeps.ite
    | with_reducible apply keeps_ite
    | with_reducible apply OutKeeps.next)

theorem execFlowSet_keeps {s0 : State} (c : Call) (p : FlowSet) (s : State) (h : Keeps s0 s) :
    OutKeeps s0 (execFlowSet c p s) := by
  unfold execFlowSet
  try dsimp only
  repeat' (first
    | with_reducible assumption
    | with_reducible apply configMessage_keeps)

theorem execRxUniverseSet_keeps {s0 : State} (c : Call) (p : RxUniverseSet) (s : State) (h : Keeps s0 s) :
    OutKeeps s0 (execRxUniverseSet c p s) := by
  unfold execRxUniverseSet
  try dsimp only
  repeat' (first
    | with_reducible assumption
    | with_reducible apply configMessage_keeps)

theorem execDmxPortSet_keeps {s0 : State} (c : Call) (p : DmxPortSet) (s : State) (h : Keeps s0 s) :
    OutKeeps s0 (execDmxPortSet c p s) := by
  unfold execDmxPortSet
  try dsimp only
  repeat' (first
    | with_reducible assumption
    | with_reducible apply configMessage_keeps)

theorem execPktGlobalSet_keeps {s0 : State} (c : Call) (p : PktGlobalSet) (s : State) (h : Keeps s0 s) :
    OutKeeps s0 (execPktGlobalSet c p s) := by
  unfold execPktGlobalSet
  try dsimp only
  repeat' (first
    | with_reducible assumption
    | with_reducible refine command_keeps _ _ _ _ ?_ (fun _ _ => ?_)
    | with_reducible apply accept_keeps
    | with_reducible apply modPkt_keeps)

theorem rdmGrant_keeps {s0 : State} (p : Nat) (s : State) (h : Keeps s0 s) :
    Keeps s0 (rdmGrant p s) := by
  unfold rdmGrant
  try dsimp only
  repeat' (first
    | with_reducible assumption
    | with_reducible apply modDmx_keeps
    | fail_if_no_progress with_reducible refine keeps_mk ?_ (timeOn rfl rfl rfl rfl rfl))

theorem rdmQueue_keeps {s0 : State} (p : Nat) (s : State) (h : Keeps s0 s) :
    Keeps s0 (rdmQueue p s) := by
  unfold rdmQueue
  try dsimp only
  repeat' (first
    | with_reducible assumption
    | with_reducible apply insertDescriptor_keeps
    | with_reducible apply rdmGrant_keeps
    | with_reducible apply keeps_ite)

theorem execRdmRequest_keeps {s0 : State} (c : Call) (p : RdmRequest) (s : State) (h : Keeps s0 s) :
    OutKeeps s0 (execRdmRequest c p s) := by
  unfold execRdmRequest
  try dsimp only
  repeat' (first
    | with_reducible assumption
    | with_reducible refine command_keeps _ _ _ _ ?_ (fun _ _ => ?_)
    | with_reducible apply refuse_keeps
    | with_reducible apply modDmx_keeps
    | with_reducible apply rdmQueue_keeps
    | with_reducible apply OutKeeps.ite
    | with_reducible apply keeps_ite
    | with_reducible apply keeps_ite_fst
    | with_reducible apply OutKeeps.next
    | fail_if_no_progress with_reducible refine keeps_mk ?_ (timeOn rfl rfl rfl rfl rfl)
    | (intro _ _)
    | dsimp only
    | split)

theorem dmxShadow_keeps {s0 : State} (r : Cfg) (s : State) (h : Keeps s0 s) :
    Keeps s0 (dmxShadow r s) := by
  unfold dmxShadow
  try dsimp only
  repeat' (first
    | with_reducible assumption
    | with_reducible apply setWords_keeps
    | (with_reducible apply keeps_foldl; intro _ _ _))

theorem dmxMoved_keeps {s0 : State} (old : Cfg) (s : State) (p : Nat) (h : Keeps s0 s) :
    Keeps s0 (dmxMoved old s p) := by
  unfold dmxMoved
  try dsimp only
  repeat' (first
    | with_reducible assumption
    | with_reducible apply rxSet_keeps
    | with_reducible apply keeps_ite
    | fail_if_no_progress with_reducible refine keeps_mk ?_ (timeOn rfl rfl rfl rfl rfl))

theorem pktConfigure_keeps {s0 : State} (old : Cfg) (s : State) (h : Keeps s0 s) :
    Keeps s0 (pktConfigure old s) := by
  unfold pktConfigure
  try dsimp only
  repeat' (first
    | with_reducible assumption
    | with_reducible apply respondOwed_keeps
    | with_reducible apply rxReports_keeps
    | with_reducible apply modPkt_keeps
    | with_reducible apply modDmx_keeps
    | with_reducible apply rxSet_keeps
    | with_reducible apply dmxMoved_keeps
    | (with_reducible apply keeps_foldl; intro _ _ _)
    | with_reducible apply keeps_ite
    | with_reducible apply keeps_ite_fst
    | fail_if_no_progress with_reducible refine keeps_mk ?_ (timeOn rfl rfl rfl rfl rfl))

theorem pktStop_keeps {s0 : State} (s : State) (h : Keeps s0 s) :
    Keeps s0 (pktStop s) := by
  unfold pktStop
  try dsimp only
  repeat' (first
    | with_reducible assumption
    | fail_if_no_progress with_reducible refine keeps_mk ?_ (timeOn rfl rfl rfl rfl rfl))

end Sys2Proof.Laws
end

