-- ==== Sys2Proof/Laws/KeepsPair.lean ====
section
/-! SUPPORT. What every command keeps, for the operations of Machine/Pair.lean. -/

namespace Sys2Proof.Laws

open Sys2Proof.Machine Sys2Proof.Safety

theorem modEsc_keeps {s0 : State} (f : Esc → Esc) (s : State) (h : Keeps s0 s) :
    Keeps s0 (modEsc f s) := by
  unfold modEsc
  try dsimp only
  repeat' (first
    | with_reducible assumption
    | with_reducible apply keeps_ite
    | with_reducible apply OutKeeps.next
    | fail_if_no_progress with_reducible refine keeps_mk ?_ (timeOn rfl rfl rfl rfl rfl))

theorem modLease_keeps {s0 : State} (g : Nat) (f : Lease → Lease) (s : State) (h : Keeps s0 s) :
    Keeps s0 (modLease g f s) := by
  unfold modLease
  try dsimp only
  repeat' (first
    | with_reducible assumption
    | with_reducible apply modEsc_keeps)

theorem pathMiss_keeps {s0 : State} (p : Nat) (s : State) (h : Keeps s0 s) :
    Keeps s0 (pathMiss p s) := by
  unfold pathMiss
  try dsimp only
  repeat' (first
    | with_reducible assumption
    | with_reducible apply bump_keeps
    | with_reducible apply setFlag_keeps
    | with_reducible apply notify_keeps
    | with_reducible apply modEsc_keeps
    | with_reducible apply keeps_ite)

theorem pathGood_keeps {s0 : State} (p : Nat) (s : State) (h : Keeps s0 s) :
    Keeps s0 (pathGood p s) := by
  unfold pathGood
  try dsimp only
  repeat' (first
    | with_reducible assumption
    | with_reducible apply setFlag_keeps
    | with_reducible apply notify_keeps
    | with_reducible apply modEsc_keeps
    | with_reducible apply keeps_ite)

end Sys2Proof.Laws
end

