-- ==== Sys2Proof/Laws/KeepsRadio.lean ====
section
/-! SUPPORT. What every command keeps, for the operations of Machine/Radio.lean. -/

namespace Sys2Proof.Laws

open Sys2Proof.Machine Sys2Proof.Safety

theorem modRad_keeps {s0 : State} (f : Rad → Rad) (s : State) (h : Keeps s0 s) :
    Keeps s0 (modRad f s) := by
  unfold modRad
  try dsimp only
  repeat' (first
    | with_reducible assumption
    | with_reducible apply keeps_ite
    | with_reducible apply OutKeeps.next
    | fail_if_no_progress with_reducible refine keeps_mk ?_ (timeOn rfl rfl rfl rfl rfl))

theorem modXcvr_keeps {s0 : State} (x : Nat) (f : Xcvr → Xcvr) (s : State) (h : Keeps s0 s) :
    Keeps s0 (modXcvr x f s) := by
  unfold modXcvr
  try dsimp only
  repeat' (first
    | with_reducible assumption
    | with_reducible apply modRad_keeps)

theorem modNode_keeps {s0 : State} (n : Nat) (f : RadioNode → RadioNode) (s : State) (h : Keeps s0 s) :
    Keeps s0 (modNode n f s) := by
  unfold modNode
  try dsimp only
  repeat' (first
    | with_reducible assumption
    | with_reducible apply modRad_keeps)

theorem radioLimit_keeps {s0 : State} (x : Nat) (kind : Nat) (ch : Nat) (s : State) (h : Keeps s0 s) :
    Keeps s0 (radioLimit x kind ch s) := by
  unfold radioLimit
  try dsimp only
  repeat' (first
    | with_reducible assumption
    | with_reducible apply setFlag_keeps
    | with_reducible apply notify_keeps
    | with_reducible apply modXcvr_keeps
    | with_reducible apply keeps_ite)

theorem radioSend_keeps {s0 : State} (x : Nat) (ch : Nat) (off : Nat) (bytes : Nat) (tx : RadioTx) (s : State) (h : Keeps s0 s) :
    Keeps s0 (radioSend x ch off bytes tx s).1 := by
  unfold radioSend
  try dsimp only
  repeat' (first
    | with_reducible assumption
    | with_reducible apply bump_keeps
    | with_reducible apply modXcvr_keeps
    | with_reducible apply radioLimit_keeps
    | (intro _ _)
    | dsimp only
    | split)

theorem unitsFollow_keeps {s0 : State} (s : State) (h : Keeps s0 s) :
    Keeps s0 (unitsFollow s) := by
  unfold unitsFollow
  try dsimp only
  repeat' (first
    | with_reducible assumption
    | with_reducible apply fixtureHold_keeps
    | (with_reducible apply keeps_foldl; intro _ _ _))

theorem nodeMove_keeps {s0 : State} (n : Nat) (st : NodeState) (cause : Nat) (s : State) (h : Keeps s0 s) :
    Keeps s0 (nodeMove n st cause s) := by
  unfold nodeMove
  try dsimp only
  repeat' (first
    | with_reducible assumption
    | with_reducible apply setFlag_keeps
    | with_reducible apply notify_keeps
    | with_reducible apply modNode_keeps
    | with_reducible apply keeps_ite)

theorem missAnswers_keeps {s0 : State} (x : Nat) (s : State) (h : Keeps s0 s) :
    Keeps s0 (missAnswers x s) := by
  unfold missAnswers
  try dsimp only
  repeat' (first
    | with_reducible assumption
    | with_reducible apply modXcvr_keeps
    | with_reducible apply modNode_keeps
    | with_reducible apply nodeMove_keeps
    | (with_reducible apply keeps_foldl; intro _ _ _)
    | with_reducible apply keeps_ite)

theorem nodeStale_keeps {s0 : State} (n : Nat) (s : State) (h : Keeps s0 s) :
    Keeps s0 (nodeStale n s) := by
  unfold nodeStale
  try dsimp only
  repeat' (first
    | with_reducible assumption
    | with_reducible apply unitHold_keeps
    | with_reducible apply modNode_keeps
    | with_reducible apply nodeMove_keeps
    | fail_if_no_progress with_reducible refine keeps_mk ?_ (timeOn rfl rfl rfl rfl rfl))

theorem staleNodes_keeps {s0 : State} (x : Nat) (s : State) (h : Keeps s0 s) :
    Keeps s0 (staleNodes x s) := by
  unfold staleNodes
  try dsimp only
  repeat' (first
    | with_reducible assumption
    | with_reducible apply nodeStale_keeps
    | (with_reducible apply keeps_foldl; intro _ _ _)
    | with_reducible apply keeps_ite
    | with_reducible apply keeps_ite_fst)

theorem valuesLate_keeps {s0 : State} (keys : List Nat) (s : State) (h : Keeps s0 s) :
    Keeps s0 (valuesLate keys s) := by
  unfold valuesLate
  try dsimp only
  repeat' (first
    | with_reducible assumption
    | with_reducible apply bumpBy_keeps
    | with_reducible apply zoneLate_keeps
    | with_reducible apply modRad_keeps
    | (with_reducible apply keeps_foldl; intro _ _ _)
    | with_reducible apply keeps_ite
    | with_reducible apply keeps_ite_fst
    | fail_if_no_progress with_reducible refine keeps_mk ?_ (timeOn rfl rfl rfl rfl rfl))

theorem radioRelease_keeps {s0 : State} (z : Nat) (k : Int) (s : State) (h : Keeps s0 s) :
    Keeps s0 (radioRelease z k s) := by
  unfold radioRelease
  try dsimp only
  repeat' (first
    | with_reducible assumption
    | with_reducible apply modRad_keeps
    | with_reducible apply valuesLate_keeps
    | (with_reducible apply keeps_foldl; intro _ _ _)
    | with_reducible apply keeps_ite
    | with_reducible apply keeps_ite_fst
    | fail_if_no_progress with_reducible refine keeps_mk ?_ (timeOn rfl rfl rfl rfl rfl)
    | (intro _ _)
    | dsimp only
    | split)

theorem windowOpen_keeps {s0 : State} (z : Nat) (k : Int) (s : State) (h : Keeps s0 s) :
    Keeps s0 (windowOpen z k s) := by
  unfold windowOpen
  try dsimp only
  repeat' (first
    | with_reducible assumption
    | with_reducible apply zoneRelease_keeps
    | with_reducible apply radioRelease_keeps)

theorem windowReady_keeps {s0 : State} (z : Nat) (k : Int) (s : State) (h : Keeps s0 s) :
    Keeps s0 (windowReady z k s) := by
  unfold windowReady
  try dsimp only
  repeat' (first
    | with_reducible assumption
    | with_reducible apply zoneReady_keeps
    | with_reducible apply radioRelease_keeps
    | with_reducible apply keeps_ite)

theorem valuesSent_keeps {s0 : State} (x : Nat) (keys : List Nat) (s : State) (h : Keeps s0 s) :
    Keeps s0 (valuesSent x keys s) := by
  unfold valuesSent
  try dsimp only
  repeat' (first
    | with_reducible assumption
    | with_reducible apply modRad_keeps)

theorem cuesSent_keeps {s0 : State} (x : Nat) (ids : List Nat) (s : State) (h : Keeps s0 s) :
    Keeps s0 (cuesSent x ids s) := by
  unfold cuesSent
  try dsimp only
  repeat' (first
    | with_reducible assumption
    | with_reducible apply bumpBy_keeps
    | with_reducible apply modRad_keeps
    | (with_reducible apply keeps_foldl; intro _ _ _)
    | fail_if_no_progress with_reducible refine keeps_mk ?_ (timeOn rfl rfl rfl rfl rfl))

theorem pieceSent_keeps {s0 : State} (x : Nat) (p : Nat) (s : State) (h : Keeps s0 s) :
    Keeps s0 (pieceSent x p s) := by
  unfold pieceSent
  try dsimp only
  repeat' (first
    | with_reducible assumption
    | with_reducible apply bump_keeps
    | with_reducible apply modRad_keeps
    | with_reducible apply modXcvr_keeps)

theorem relayNotice_keeps {s0 : State} (s : State) (h : Keeps s0 s) :
    Keeps s0 (relayNotice s) := by
  unfold relayNotice
  try dsimp only
  repeat' (first
    | with_reducible assumption
    | with_reducible apply setFlag_keeps
    | with_reducible apply notify_keeps
    | with_reducible apply modRad_keeps
    | with_reducible apply keeps_ite
    | with_reducible apply OutKeeps.next
    | fail_if_no_progress with_reducible refine keeps_mk ?_ (timeOn rfl rfl rfl rfl rfl)
    | (intro _ _)
    | dsimp only
    | split)

theorem jobSent_keeps {s0 : State} (x : Nat) (j : RadioJob) (s : State) (h : Keeps s0 s) :
    Keeps s0 (jobSent x j s) := by
  unfold jobSent
  try dsimp only
  repeat' (first
    | with_reducible assumption
    | with_reducible apply modNode_keeps
    | with_reducible apply valuesSent_keeps
    | with_reducible apply cuesSent_keeps
    | with_reducible apply pieceSent_keeps
    | with_reducible apply keeps_ite
    | with_reducible apply OutKeeps.next
    | fail_if_no_progress with_reducible refine keeps_mk ?_ (timeOn rfl rfl rfl rfl rfl)
    | (intro _ _)
    | dsimp only
    | split)

theorem sendJobs_keeps {s0 : State} (x ch : Nat) (at_ : Int) (off : Nat) (l : List RadioJob) (s : State) (h : Keeps s0 s) :
    Keeps s0 (sendJobs x ch at_ off l s) := by
  induction l generalizing off s with
  | nil => exact h
  | cons j r ih =>
    have hr := radioSend_keeps x ch off j.bytes j.tx s h
    unfold sendJobs
    dsimp only
    repeat' split
    all_goals with_reducible first
      | exact h
      | exact hr
      | exact ih _ _ h
      | exact ih _ _ (valuesLate_keeps _ _ h)
      | exact ih _ _ (jobSent_keeps _ _ _ hr)

theorem sendBeacon_keeps {s0 : State} (x : Nat) (ch : Nat) (at_ : Int) (off : Nat) (s : State) (h : Keeps s0 s) :
    Keeps s0 (sendBeacon x ch at_ off s) := by
  unfold sendBeacon
  try dsimp only
  repeat' (first
    | with_reducible assumption
    | with_reducible apply bump_keeps
    | with_reducible apply radioSend_keeps
    | with_reducible apply keeps_ite)

theorem sendPoll_keeps {s0 : State} (x : Nat) (ch : Nat) (off : Nat) (s : State) (h : Keeps s0 s) :
    Keeps s0 (sendPoll x ch off s) := by
  unfold sendPoll
  try dsimp only
  repeat' (first
    | with_reducible assumption
    | with_reducible apply bump_keeps
    | with_reducible apply modXcvr_keeps
    | with_reducible apply radioSend_keeps
    | with_reducible apply keeps_ite)

theorem coordinate_keeps {s0 : State} (x : Nat) (n : Int) (busy : Bool) (r : Nat) (s : State) (h : Keeps s0 s) :
    Keeps s0 (coordinate x n busy r s) := by
  unfold coordinate
  try dsimp only
  repeat' (first
    | with_reducible assumption
    | with_reducible apply bump_keeps
    | with_reducible apply modXcvr_keeps
    | with_reducible apply radioLimit_keeps
    | with_reducible apply sendJobs_keeps
    | with_reducible apply sendBeacon_keeps
    | with_reducible apply sendPoll_keeps
    | with_reducible apply keeps_ite
    | fail_if_no_progress with_reducible refine keeps_mk ?_ (timeOn rfl rfl rfl rfl rfl)
    | (intro _ _)
    | dsimp only
    | split)

theorem listenBeacon_keeps {s0 : State} (x : Nat) (n : Int) (first : Bool) (s : State) (h : Keeps s0 s) :
    Keeps s0 (listenBeacon x n first s) := by
  unfold listenBeacon
  try dsimp only
  repeat' (first
    | with_reducible assumption
    | with_reducible apply pathMiss_keeps
    | with_reducible apply modXcvr_keeps
    | with_reducible apply keeps_ite)

theorem radioSlot_keeps {s0 : State} (x : Nat) (busy : Bool) (r : Nat) (sIn : State) (h : Keeps s0 sIn) :
    Keeps s0 (radioSlot x busy r sIn) := by
  unfold radioSlot
  try dsimp only
  repeat' (first
    | with_reducible assumption
    | with_reducible apply modXcvr_keeps
    | with_reducible apply missAnswers_keeps
    | with_reducible apply staleNodes_keeps
    | with_reducible apply coordinate_keeps
    | with_reducible apply listenBeacon_keeps
    | with_reducible apply keeps_ite
    | fail_if_no_progress with_reducible refine keeps_mk ?_ (timeOn rfl rfl rfl rfl rfl)
    | (intro _ _)
    | dsimp only
    | split)

theorem dropValues_keeps {s0 : State} (x : Nat) (s : State) (h : Keeps s0 s) :
    Keeps s0 (dropValues x s) := by
  unfold dropValues
  try dsimp only
  repeat' (first
    | with_reducible assumption
    | with_reducible apply modRad_keeps
    | with_reducible apply valuesLate_keeps
    | with_reducible apply keeps_ite
    | with_reducible apply keeps_ite_fst
    | fail_if_no_progress with_reducible refine keeps_mk ?_ (timeOn rfl rfl rfl rfl rfl))

theorem nextRadioSlot_keeps {s0 : State} (x : Nat) (s : State) (h : Keeps s0 s) :
    Keeps s0 (nextRadioSlot x s) := by
  unfold nextRadioSlot
  try dsimp only
  repeat' (first
    | with_reducible assumption
    | with_reducible apply insertLaunch_keeps
    | with_reducible apply radioSlot_keeps
    | with_reducible apply dropValues_keeps
    | with_reducible apply keeps_ite)

theorem radioSlots_keeps {s0 : State} (s : State) (h : Keeps s0 s) :
    Keeps s0 (radioSlots s) := by
  unfold radioSlots
  try dsimp only
  repeat' (first
    | with_reducible assumption
    | with_reducible apply nextRadioSlot_keeps)

theorem execRadioSlotStart_keeps {s0 : State} (t : Nat) (xcvr : Fin 2) (busy : Bool) (r : Nat) (s : State) (h : Keeps s0 s) :
    OutKeeps s0 (execRadioSlotStart t xcvr busy r s) := by
  unfold execRadioSlotStart
  try dsimp only
  repeat' (first
    | with_reducible assumption
    | with_reducible apply advance_keeps
    | with_reducible apply radioSlot_keeps
    | with_reducible apply nextRadioSlot_keeps
    | with_reducible apply OutKeeps.ite
    | with_reducible apply keeps_ite
    | with_reducible apply OutKeeps.next)

theorem answerAfter_keeps {s0 : State} (x : Nat) (st : Int) (b : Nat) (bytes : Nat) (tx : RadioTx) (s : State) (h : Keeps s0 s) :
    Keeps s0 (answerAfter x st b bytes tx s) := by
  unfold answerAfter
  try dsimp only
  repeat' (first
    | with_reducible assumption
    | with_reducible apply radioSend_keeps
    | with_reducible apply keeps_ite
    | with_reducible apply keeps_ite_fst)

theorem relayAnswer_keeps {s0 : State} (n : Nat) (first : Nat) (window : Nat) (held : Nat) (s : State) (h : Keeps s0 s) :
    Keeps s0 (relayAnswer n first window held s) := by
  unfold relayAnswer
  try dsimp only
  repeat' (first
    | with_reducible assumption
    | with_reducible apply modRad_keeps
    | with_reducible apply relayNotice_keeps
    | with_reducible apply keeps_ite
    | fail_if_no_progress with_reducible refine keeps_mk ?_ (timeOn rfl rfl rfl rfl rfl)
    | (intro _ _)
    | dsimp only
    | split)

theorem nodeReport_keeps {s0 : State} (n : Nat) (epoch : Nat) (s : State) (h : Keeps s0 s) :
    Keeps s0 (nodeReport n epoch s) := by
  unfold nodeReport
  try dsimp only
  repeat' (first
    | with_reducible assumption
    | with_reducible apply unitReport_keeps
    | with_reducible apply modNode_keeps
    | with_reducible apply keeps_ite
    | fail_if_no_progress with_reducible refine keeps_mk ?_ (timeOn rfl rfl rfl rfl rfl))

theorem nodeResponse_keeps {s0 : State} (x : Nat) (f : RadioRx) (s : State) (h : Keeps s0 s) :
    Keeps s0 (nodeResponse x f s) := by
  unfold nodeResponse
  try dsimp only
  repeat' (first
    | with_reducible assumption
    | with_reducible apply unitHold_keeps
    | with_reducible apply modXcvr_keeps
    | with_reducible apply modNode_keeps
    | with_reducible apply nodeMove_keeps
    | with_reducible apply nodeStale_keeps
    | with_reducible apply answerAfter_keeps
    | with_reducible apply relayAnswer_keeps
    | with_reducible apply keeps_ite
    | fail_if_no_progress with_reducible refine keeps_mk ?_ (timeOn rfl rfl rfl rfl rfl))

theorem nodeConfigAck_keeps {s0 : State} (x : Nat) (f : RadioRx) (n : Nat) (epoch : Nat) (s : State) (h : Keeps s0 s) :
    Keeps s0 (nodeConfigAck x f n epoch s) := by
  unfold nodeConfigAck
  try dsimp only
  repeat' (first
    | with_reducible assumption
    | with_reducible apply modXcvr_keeps
    | with_reducible apply modNode_keeps
    | with_reducible apply nodeMove_keeps
    | with_reducible apply nodeReport_keeps
    | with_reducible apply keeps_ite
    | fail_if_no_progress with_reducible refine keeps_mk ?_ (timeOn rfl rfl rfl rfl rfl))

theorem nodeJoin_keeps {s0 : State} (x : Nat) (f : RadioRx) (eui : Nat) (epoch : Nat) (s : State) (h : Keeps s0 s) :
    Keeps s0 (nodeJoin x f eui epoch s) := by
  unfold nodeJoin
  try dsimp only
  repeat' (first
    | with_reducible assumption
    | with_reducible apply bump_keeps
    | with_reducible apply setFlag_keeps
    | with_reducible apply notify_keeps
    | with_reducible apply modRad_keeps
    | with_reducible apply modNode_keeps
    | with_reducible apply nodeMove_keeps
    | with_reducible apply answerAfter_keeps
    | with_reducible apply nodeReport_keeps
    | with_reducible apply keeps_ite
    | with_reducible apply keeps_ite_fst
    | fail_if_no_progress with_reducible refine keeps_mk ?_ (timeOn rfl rfl rfl rfl rfl)
    | (intro _ _)
    | dsimp only
    | split)

theorem radioFrame_keeps {s0 : State} (x : Nat) (f : RadioRx) (s : State) (h : Keeps s0 s) :
    Keeps s0 (radioFrame x f s) := by
  unfold radioFrame
  try dsimp only
  repeat' (first
    | with_reducible assumption
    | with_reducible apply pathGood_keeps
    | with_reducible apply modXcvr_keeps
    | with_reducible apply nodeResponse_keeps
    | with_reducible apply nodeConfigAck_keeps
    | with_reducible apply nodeJoin_keeps
    | with_reducible apply keeps_ite
    | fail_if_no_progress with_reducible refine keeps_mk ?_ (timeOn rfl rfl rfl rfl rfl)
    | (intro _ _)
    | dsimp only
    | split)

theorem radioReceive_keeps {s0 : State} (x : Nat) (f : RadioRx) (s : State) (h : Keeps s0 s) :
    Keeps s0 (radioReceive x f s) := by
  unfold radioReceive
  try dsimp only
  repeat' (first
    | with_reducible assumption
    | with_reducible apply bump_keeps
    | with_reducible apply intake_keeps
    | with_reducible apply radioFrame_keeps
    | with_reducible apply keeps_ite)

theorem execRadioFrameReceived_keeps {s0 : State} (t : Nat) (xcvr : Fin 2) (f : RadioRx) (s : State) (h : Keeps s0 s) :
    OutKeeps s0 (execRadioFrameReceived t xcvr f s) := by
  unfold execRadioFrameReceived
  try dsimp only
  repeat' (first
    | with_reducible assumption
    | with_reducible apply advance_keeps
    | with_reducible apply radioReceive_keeps
    | with_reducible apply OutKeeps.ite
    | with_reducible apply keeps_ite
    | with_reducible apply OutKeeps.next)

theorem execRadioFwProgressTimer_keeps {s0 : State} (t : Nat) (s : State) (h : Keeps s0 s) :
    OutKeeps s0 (execRadioFwProgressTimer t s) := by
  unfold execRadioFwProgressTimer
  try dsimp only
  repeat' (first
    | with_reducible assumption
    | with_reducible apply advance_keeps
    | with_reducible apply relayNotice_keeps
    | with_reducible apply OutKeeps.ite
    | with_reducible apply keeps_ite
    | with_reducible apply OutKeeps.next
    | fail_if_no_progress with_reducible refine keeps_mk ?_ (timeOn rfl rfl rfl rfl rfl)
    | (intro _ _)
    | dsimp only
    | split)

theorem execRadioSet_keeps {s0 : State} (c : Call) (p : RadioSet) (s : State) (h : Keeps s0 s) :
    OutKeeps s0 (execRadioSet c p s) := by
  unfold execRadioSet
  try dsimp only
  repeat' (first
    | with_reducible assumption
    | with_reducible apply configMessage_keeps)

theorem execRadioNodeSet_keeps {s0 : State} (c : Call) (p : RadioNodeSet) (s : State) (h : Keeps s0 s) :
    OutKeeps s0 (execRadioNodeSet c p s) := by
  unfold execRadioNodeSet
  try dsimp only
  repeat' (first
    | with_reducible assumption
    | with_reducible apply configMessage_keeps)

theorem radioShadow_keeps {s0 : State} (x : Nat) (p : RadioSet) (s : State) (h : Keeps s0 s) :
    Keeps s0 (radioShadow x p s) := by
  unfold radioShadow
  try dsimp only
  repeat' (first
    | with_reducible assumption
    | with_reducible apply setReg_keeps)

theorem radConfigure_keeps {s0 : State} (old : Cfg) (s : State) (h : Keeps s0 s) :
    Keeps s0 (radConfigure old s) := by
  unfold radConfigure
  try dsimp only
  repeat' (first
    | with_reducible assumption
    | with_reducible apply unitHold_keeps
    | with_reducible apply modRad_keeps
    | with_reducible apply modXcvr_keeps
    | with_reducible apply nodeMove_keeps
    | with_reducible apply radioShadow_keeps
    | (with_reducible apply keeps_foldl; intro _ _ _)
    | with_reducible apply keeps_ite
    | with_reducible apply keeps_ite_fst
    | fail_if_no_progress with_reducible refine keeps_mk ?_ (timeOn rfl rfl rfl rfl rfl))

theorem radStop_keeps {s0 : State} (s : State) (h : Keeps s0 s) :
    Keeps s0 (radStop s) := by
  unfold radStop
  try dsimp only
  repeat' (first
    | with_reducible assumption
    | with_reducible apply modRad_keeps
    | fail_if_no_progress with_reducible refine keeps_mk ?_ (timeOn rfl rfl rfl rfl rfl))

theorem execRadioGlobalSet_keeps {s0 : State} (c : Call) (p : RadioGlobalSet) (s : State) (h : Keeps s0 s) :
    OutKeeps s0 (execRadioGlobalSet c p s) := by
  unfold execRadioGlobalSet
  try dsimp only
  repeat' (first
    | with_reducible assumption
    | with_reducible apply setReg_keeps
    | with_reducible apply setField_keeps
    | with_reducible refine command_keeps _ _ _ _ ?_ (fun _ _ => ?_)
    | with_reducible apply refuse_keeps
    | with_reducible apply accept_keeps
    | with_reducible apply OutKeeps.ite
    | with_reducible apply keeps_ite
    | with_reducible apply OutKeeps.next
    | fail_if_no_progress with_reducible refine keeps_mk ?_ (timeOn rfl rfl rfl rfl rfl)
    | (intro _ _)
    | dsimp only
    | split)

theorem execRadioStatusGet_keeps {s0 : State} (c : Call) (xcvr : Nat) (s : State) (h : Keeps s0 s) :
    OutKeeps s0 (execRadioStatusGet c xcvr s) := by
  unfold execRadioStatusGet
  try dsimp only
  repeat' (first
    | with_reducible assumption
    | with_reducible refine command_keeps _ _ _ _ ?_ (fun _ _ => ?_)
    | with_reducible apply refuse_keeps
    | with_reducible apply answer_keeps
    | with_reducible apply OutKeeps.ite
    | with_reducible apply keeps_ite
    | with_reducible apply keeps_ite_fst
    | with_reducible apply OutKeeps.next
    | (intro _ _)
    | dsimp only
    | split)

theorem execRadioNodeGet_keeps {s0 : State} (c : Call) (first : Nat) (count : Nat) (s : State) (h : Keeps s0 s) :
    OutKeeps s0 (execRadioNodeGet c first count s) := by
  unfold execRadioNodeGet
  try dsimp only
  repeat' (first
    | with_reducible assumption
    | with_reducible refine command_keeps _ _ _ _ ?_ (fun _ _ => ?_)
    | with_reducible apply refuse_keeps
    | with_reducible apply answer_keeps
    | with_reducible apply OutKeeps.ite
    | with_reducible apply keeps_ite
    | with_reducible apply OutKeeps.next
    | fail_if_no_progress with_reducible refine keeps_mk ?_ (timeOn rfl rfl rfl rfl rfl)
    | (intro _ _)
    | dsimp only
    | split)

theorem execRadioFwLoad_keeps {s0 : State} (c : Call) (p : RadioFwLoad) (s : State) (h : Keeps s0 s) :
    OutKeeps s0 (execRadioFwLoad c p s) := by
  unfold execRadioFwLoad
  try dsimp only
  repeat' (first
    | with_reducible assumption
    | with_reducible refine command_keeps _ _ _ _ ?_ (fun _ _ => ?_)
    | with_reducible apply refuse_keeps
    | with_reducible apply accept_keeps
    | with_reducible apply modRad_keeps
    | with_reducible apply OutKeeps.ite
    | with_reducible apply keeps_ite
    | with_reducible apply OutKeeps.next
    | fail_if_no_progress with_reducible refine keeps_mk ?_ (timeOn rfl rfl rfl rfl rfl)
    | (intro _ _)
    | dsimp only
    | split)

theorem execRadioFwStart_keeps {s0 : State} (c : Call) (p : RadioFwStart) (s : State) (h : Keeps s0 s) :
    OutKeeps s0 (execRadioFwStart c p s) := by
  unfold execRadioFwStart
  try dsimp only
  repeat' (first
    | with_reducible assumption
    | with_reducible refine command_keeps _ _ _ _ ?_ (fun _ _ => ?_)
    | with_reducible apply refuse_keeps
    | with_reducible apply accept_keeps
    | with_reducible apply modRad_keeps
    | with_reducible apply OutKeeps.ite
    | with_reducible apply keeps_ite
    | with_reducible apply OutKeeps.next
    | fail_if_no_progress with_reducible refine keeps_mk ?_ (timeOn rfl rfl rfl rfl rfl)
    | (intro _ _)
    | dsimp only
    | split)

end Sys2Proof.Laws
end

