-- ==== Sys2Proof/Laws/KeepsMapper.lean ====
section
/-! SUPPORT. What every command keeps, for the operations of Machine/Mapper.lean. -/

namespace Sys2Proof.Laws

open Sys2Proof.Machine Sys2Proof.Safety

theorem modMap_keeps {s0 : State} (f : Mapper → Mapper) (s : State) (h : Keeps s0 s) :
    Keeps s0 (modMap f s) := by
  unfold modMap
  try dsimp only
  repeat' (first
    | with_reducible assumption
    | with_reducible apply keeps_ite
    | with_reducible apply OutKeeps.next
    | fail_if_no_progress with_reducible refine keeps_mk ?_ (timeOn rfl rfl rfl rfl rfl))

theorem modMapEngine_keeps {s0 : State} (e : Nat) (f : Engine → Engine) (s : State) (h : Keeps s0 s) :
    Keeps s0 (modMapEngine e f s) := by
  unfold modMapEngine
  try dsimp only
  repeat' (first
    | with_reducible assumption
    | with_reducible apply modMap_keeps)

theorem mapFlag_keeps {s0 : State} (bit : Nat) (s : State) (h : Keeps s0 s) :
    Keeps s0 (mapFlag bit s) := by
  unfold mapFlag
  try dsimp only
  repeat' (first
    | with_reducible assumption
    | with_reducible apply setFlag_keeps)

theorem poolAgain_keeps {s0 : State} (k : Int) (fx : Nat) (values : SMap (SMap Nat)) (again : SMap (SMap Unit)) (s : State) (h : Keeps s0 s) :
    Keeps s0 (poolAgain k fx values again s) := by
  unfold poolAgain
  try dsimp only
  repeat' (first
    | with_reducible assumption
    | with_reducible apply modPool_keeps
    | with_reducible apply keeps_ite
    | fail_if_no_progress with_reducible refine keeps_mk ?_ (timeOn rfl rfl rfl rfl rfl))

theorem modFrame_keeps {s0 : State} (f : MapFrame → MapFrame) (s : State) (h : Keeps s0 s) :
    Keeps s0 (modFrame f s) := by
  unfold modFrame
  try dsimp only
  repeat' (first
    | with_reducible assumption
    | with_reducible apply modMap_keeps)

theorem repeatTile_keeps {s0 : State} (ps : List TilePart) (s : State) (h : Keeps s0 s) :
    Keeps s0 (repeatTile ps s) := by
  unfold repeatTile
  try dsimp only
  repeat' (first
    | with_reducible assumption
    | with_reducible apply poolAgain_keeps
    | with_reducible apply modFrame_keeps
    | (with_reducible apply keeps_foldl; intro _ _ _)
    | fail_if_no_progress with_reducible refine keeps_mk ?_ (timeOn rfl rfl rfl rfl rfl)
    | (intro _ _)
    | dsimp only
    | split)

theorem segmentRead_keeps {s0 : State} (s : State) (e : Nat × Nat) (h : Keeps s0 s) :
    Keeps s0 (segmentRead s e) := by
  unfold segmentRead
  try dsimp only
  repeat' (first
    | with_reducible assumption
    | with_reducible apply bump_keeps
    | with_reducible apply modFxm_keeps
    | with_reducible apply keeps_ite
    | with_reducible apply keeps_ite_fst)

theorem segmentReads_keeps {s0 : State} (r : Cfg) (t : Tile) (s : State) (h : Keeps s0 s) :
    Keeps s0 (segmentReads r t s) := by
  unfold segmentReads
  try dsimp only
  repeat' (first
    | with_reducible assumption
    | with_reducible apply segmentRead_keeps
    | (with_reducible apply keeps_foldl; intro _ _ _))

theorem repeatSegment_keeps {s0 : State} (fx : Nat) (n : Nat) (s : State) (h : Keeps s0 s) :
    Keeps s0 (repeatSegment fx n s) := by
  unfold repeatSegment
  try dsimp only
  repeat' (first
    | with_reducible assumption
    | with_reducible apply modProtect_keeps
    | with_reducible apply poolAgain_keeps
    | with_reducible apply modFrame_keeps
    | fail_if_no_progress with_reducible refine keeps_mk ?_ (timeOn rfl rfl rfl rfl rfl)
    | (intro _ _)
    | dsimp only
    | split)

theorem zonePush_keeps {s0 : State} (z : Nat) (s : State) (h : Keeps s0 s) :
    Keeps s0 (zonePush z s) := by
  unfold zonePush
  try dsimp only
  repeat' (first
    | with_reducible assumption
    | with_reducible apply modPool_keeps
    | with_reducible apply windowReady_keeps
    | with_reducible apply keeps_ite
    | with_reducible apply keeps_ite_fst
    | fail_if_no_progress with_reducible refine keeps_mk ?_ (timeOn rfl rfl rfl rfl rfl)
    | (intro _ _)
    | dsimp only
    | split)

theorem frameClose_keeps {s0 : State} (s : State) (h : Keeps s0 s) :
    Keeps s0 (frameClose s) := by
  unfold frameClose
  try dsimp only
  repeat' (first
    | with_reducible assumption
    | with_reducible apply phoEnd_keeps
    | with_reducible apply modMap_keeps
    | with_reducible apply keeps_ite
    | fail_if_no_progress with_reducible refine keeps_mk ?_ (timeOn rfl rfl rfl rfl rfl)
    | (intro _ _)
    | dsimp only
    | split)

theorem frameDone_keeps {s0 : State} (s : State) (h : Keeps s0 s) :
    Keeps s0 (frameDone s) := by
  unfold frameDone
  try dsimp only
  repeat' (first
    | with_reducible assumption
    | with_reducible apply frameClose_keeps
    | with_reducible apply keeps_ite
    | with_reducible apply OutKeeps.next
    | fail_if_no_progress with_reducible refine keeps_mk ?_ (timeOn rfl rfl rfl rfl rfl)
    | (intro _ _)
    | dsimp only
    | split)

theorem tileEnd_keeps {s0 : State} (n : Nat) (r : TileRec) (s : State) (h : Keeps s0 s) :
    Keeps s0 (tileEnd n r s) := by
  unfold tileEnd
  try dsimp only
  repeat' (first
    | with_reducible assumption
    | with_reducible apply modFrame_keeps
    | with_reducible apply zonePush_keeps
    | with_reducible apply frameDone_keeps
    | with_reducible apply keeps_ite
    | (intro _ _)
    | dsimp only
    | split)

theorem trapNotice_keeps {s0 : State} (key : Nat) (engine : Nat) (fx : Nat) (cause : Nat) (k : Int) (disabled : Bool) (s : State) (h : Keeps s0 s) :
    Keeps s0 (trapNotice key engine fx cause k disabled s) := by
  unfold trapNotice
  try dsimp only
  repeat' (first
    | with_reducible assumption
    | with_reducible apply notify_keeps
    | with_reducible apply modMap_keeps
    | with_reducible apply keeps_ite
    | with_reducible apply OutKeeps.next
    | fail_if_no_progress with_reducible refine keeps_mk ?_ (timeOn rfl rfl rfl rfl rfl)
    | (intro _ _)
    | dsimp only
    | split)

theorem trapCount_keeps {s0 : State} (key : Nat) (engine : Nat) (fx : Nat) (cause : Nat) (k : Int) (s : State) (h : Keeps s0 s) :
    Keeps s0 (trapCount key engine fx cause k s) := by
  unfold trapCount
  try dsimp only
  repeat' (first
    | with_reducible assumption
    | with_reducible apply modMap_keeps
    | with_reducible apply trapNotice_keeps
    | with_reducible apply keeps_ite
    | with_reducible apply OutKeeps.next
    | fail_if_no_progress with_reducible refine keeps_mk ?_ (timeOn rfl rfl rfl rfl rfl)
    | (intro _ _)
    | dsimp only
    | split)

theorem tileTrap_keeps {s0 : State} (e : Nat) (n : Nat) (s : State) (h : Keeps s0 s) :
    Keeps s0 (tileTrap e n s) := by
  unfold tileTrap
  try dsimp only
  repeat' (first
    | with_reducible assumption
    | with_reducible apply modMapEngine_keeps
    | with_reducible apply repeatTile_keeps
    | with_reducible apply tileEnd_keeps
    | with_reducible apply keeps_ite
    | with_reducible apply OutKeeps.next
    | fail_if_no_progress with_reducible refine keeps_mk ?_ (timeOn rfl rfl rfl rfl rfl)
    | (intro _ _)
    | dsimp only
    | split)

theorem tileClaim_keeps {s0 : State} (e : Nat) (s : State) (h : Keeps s0 s) :
    Keeps s0 (tileClaim e s) := by
  unfold tileClaim
  try dsimp only
  repeat' (first
    | with_reducible assumption
    | with_reducible apply modMapEngine_keeps
    | with_reducible apply modFrame_keeps
    | with_reducible apply tileTrap_keeps
    | with_reducible apply keeps_ite
    | with_reducible apply OutKeeps.next
    | fail_if_no_progress with_reducible refine keeps_mk ?_ (timeOn rfl rfl rfl rfl rfl)
    | (intro _ _)
    | dsimp only
    | split)

theorem execTileClaim_keeps {s0 : State} (t : Nat) (engine : Fin 16) (s : State) (h : Keeps s0 s) :
    OutKeeps s0 (execTileClaim t engine s) := by
  unfold execTileClaim
  try dsimp only
  repeat' (first
    | with_reducible assumption
    | with_reducible apply advance_keeps
    | with_reducible apply tileClaim_keeps
    | with_reducible apply OutKeeps.ite
    | with_reducible apply keeps_ite
    | with_reducible apply OutKeeps.next)

theorem waitsEnd_keeps {s0 : State} (s : State) (h : Keeps s0 s) :
    Keeps s0 (waitsEnd s) := by
  unfold waitsEnd
  try dsimp only
  repeat' (first
    | with_reducible assumption
    | with_reducible apply bumpBy_keeps
    | with_reducible apply modMapEngine_keeps
    | (with_reducible apply keeps_foldl; intro _ _ _)
    | fail_if_no_progress with_reducible refine keeps_mk ?_ (timeOn rfl rfl rfl rfl rfl)
    | (intro _ _)
    | dsimp only
    | split)

theorem tileSample_keeps {s0 : State} (e : Nat) (trap : Option TrapFound) (s : State) (h : Keeps s0 s) :
    Keeps s0 (tileSample e trap s) := by
  unfold tileSample
  try dsimp only
  repeat' (first
    | with_reducible assumption
    | with_reducible apply bumpBy_keeps
    | with_reducible apply bump_keeps
    | with_reducible apply modMapEngine_keeps
    | with_reducible apply mapFlag_keeps
    | with_reducible apply segmentReads_keeps
    | with_reducible apply trapCount_keeps
    | with_reducible apply tileTrap_keeps
    | with_reducible apply keeps_ite
    | fail_if_no_progress with_reducible refine keeps_mk ?_ (timeOn rfl rfl rfl rfl rfl)
    | (intro _ _)
    | dsimp only
    | split)

theorem execTileSampleStart_keeps {s0 : State} (t : Nat) (engine : Fin 16) (trap : Option TrapFound) (s : State) (h : Keeps s0 s) :
    OutKeeps s0 (execTileSampleStart t engine trap s) := by
  unfold execTileSampleStart
  try dsimp only
  repeat' (first
    | with_reducible assumption
    | with_reducible apply advance_keeps
    | with_reducible apply tileSample_keeps
    | with_reducible apply OutKeeps.ite
    | with_reducible apply keeps_ite
    | with_reducible apply OutKeeps.next)

theorem tileComplete_keeps {s0 : State} (e : Nat) (s : State) (h : Keeps s0 s) :
    Keeps s0 (tileComplete e s) := by
  unfold tileComplete
  try dsimp only
  repeat' (first
    | with_reducible assumption
    | with_reducible apply bump_keeps
    | with_reducible apply countPho_keeps
    | with_reducible apply modMap_keeps
    | with_reducible apply modMapEngine_keeps
    | with_reducible apply modFrame_keeps
    | with_reducible apply tileEnd_keeps
    | with_reducible apply keeps_ite
    | fail_if_no_progress with_reducible refine keeps_mk ?_ (timeOn rfl rfl rfl rfl rfl)
    | (intro _ _)
    | dsimp only
    | split)

theorem mapDeadline_keeps {s0 : State} (s : State) (h : Keeps s0 s) :
    Keeps s0 (mapDeadline s) := by
  unfold mapDeadline
  try dsimp only
  repeat' (first
    | with_reducible assumption
    | with_reducible apply bumpBy_keeps
    | with_reducible apply bump_keeps
    | with_reducible apply zoneLate_keeps
    | with_reducible apply modMap_keeps
    | with_reducible apply mapFlag_keeps
    | with_reducible apply modFrame_keeps
    | with_reducible apply repeatTile_keeps
    | with_reducible apply zonePush_keeps
    | with_reducible apply frameClose_keeps
    | (with_reducible apply keeps_foldl; intro _ _ _)
    | with_reducible apply keeps_ite
    | with_reducible apply keeps_ite_fst
    | fail_if_no_progress with_reducible refine keeps_mk ?_ (timeOn rfl rfl rfl rfl rfl)
    | (intro _ _)
    | dsimp only
    | split)

theorem execMappingDeadline_keeps {s0 : State} (t : Nat) (s : State) (h : Keeps s0 s) :
    OutKeeps s0 (execMappingDeadline t s) := by
  unfold execMappingDeadline
  try dsimp only
  repeat' (first
    | with_reducible assumption
    | with_reducible apply advance_keeps
    | with_reducible apply mapDeadline_keeps
    | with_reducible apply OutKeeps.ite
    | with_reducible apply keeps_ite
    | with_reducible apply OutKeeps.next)

theorem reshed_keeps {s0 : State} (s : State) (h : Keeps s0 s) :
    Keeps s0 (reshed s) := by
  unfold reshed
  try dsimp only
  repeat' (first
    | with_reducible assumption
    | with_reducible apply modFxm_keeps)

theorem engineDown_keeps {s0 : State} (cause : Nat) (e : Nat) (s : State) (h : Keeps s0 s) :
    Keeps s0 (engineDown cause e s).1 := by
  unfold engineDown
  try dsimp only
  repeat' (first
    | with_reducible assumption
    | with_reducible apply bumpBy_keeps
    | with_reducible apply modMapEngine_keeps
    | with_reducible apply mapFlag_keeps
    | with_reducible apply modFrame_keeps
    | with_reducible apply repeatTile_keeps
    | with_reducible apply tileEnd_keeps
    | (with_reducible apply keeps_foldl; intro _ _ _)
    | with_reducible apply keeps_ite
    | with_reducible apply keeps_ite_fst
    | fail_if_no_progress with_reducible refine keeps_mk ?_ (timeOn rfl rfl rfl rfl rfl)
    | (intro _ _)
    | dsimp only
    | split)

theorem faultNotice_keeps {s0 : State} (cause : Nat) (e : Nat) (was : Role) (tiles : Nat) (pixels : Nat) (s : State) (h : Keeps s0 s) :
    Keeps s0 (faultNotice cause e was tiles pixels s) := by
  unfold faultNotice
  try dsimp only
  repeat' (first
    | with_reducible assumption
    | with_reducible apply notify_keeps)

theorem enginesFail_keeps {s0 : State} (cause : Nat) (es : List Nat) (s : State) (h : Keeps s0 s) : Keeps s0 (enginesFail cause es s) := by
  unfold enginesFail
  dsimp only
  split
  · exact h
  · refine keeps_foldl (fun x a hx => faultNotice_keeps _ _ _ _ _ _ hx) (reshed_keeps _ ?_)
    exact keeps_foldl_fst (fun x a hx => engineDown_keeps _ _ _ hx) h

theorem engineFail_keeps {s0 : State} (e : Nat) (cause : Nat) (s : State) (h : Keeps s0 s) :
    Keeps s0 (engineFail e cause s) := by
  unfold engineFail
  try dsimp only
  repeat' (first
    | with_reducible assumption
    | with_reducible apply enginesFail_keeps)

theorem execEngineFailure_keeps {s0 : State} (t : Nat) (engine : Fin 16) (cause : Nat) (s : State) (h : Keeps s0 s) :
    OutKeeps s0 (execEngineFailure t engine cause s) := by
  unfold execEngineFailure
  try dsimp only
  repeat' (first
    | with_reducible assumption
    | with_reducible apply advance_keeps
    | with_reducible apply engineFail_keeps
    | with_reducible apply OutKeeps.ite
    | with_reducible apply keeps_ite
    | with_reducible apply OutKeeps.next)

theorem execTileTimeout_keeps {s0 : State} (t : Nat) (engine : Fin 16) (s : State) (h : Keeps s0 s) :
    OutKeeps s0 (execTileTimeout t engine s) := by
  unfold execTileTimeout
  try dsimp only
  repeat' (first
    | with_reducible assumption
    | with_reducible apply advance_keeps
    | with_reducible apply engineFail_keeps
    | with_reducible apply OutKeeps.ite
    | with_reducible apply keeps_ite
    | with_reducible apply OutKeeps.next
    | (intro _ _)
    | dsimp only
    | split)

theorem takeover_keeps {s0 : State} (e : Nat) (change : Nat) (k : Int) (s : State) (h : Keeps s0 s) :
    Keeps s0 (takeover e change k s) := by
  unfold takeover
  try dsimp only
  repeat' (first
    | with_reducible assumption
    | with_reducible apply notify_keeps
    | with_reducible apply mapFlag_keeps)

theorem rolesFollow_keeps {s0 : State} (s : State) (h : Keeps s0 s) :
    Keeps s0 (rolesFollow s) := by
  unfold rolesFollow
  try dsimp only
  repeat' (first
    | with_reducible assumption
    | with_reducible apply modMap_keeps
    | with_reducible apply modMapEngine_keeps
    | (with_reducible apply keeps_foldl; intro _ _ _)
    | with_reducible apply keeps_ite
    | fail_if_no_progress with_reducible refine keeps_mk ?_ (timeOn rfl rfl rfl rfl rfl))

theorem chooseSpare_keeps {s0 : State} (s : State) (h : Keeps s0 s) :
    Keeps s0 (chooseSpare s) := by
  unfold chooseSpare
  try dsimp only
  repeat' (first
    | with_reducible assumption
    | with_reducible apply modMapEngine_keeps
    | with_reducible apply keeps_ite)

theorem spareMoves_keeps {s0 : State} (fuel : Nat) (k : Int) (s : State) (h : Keeps s0 s) : Keeps s0 (spareMoves fuel k s) := by
  induction fuel generalizing s with
  | zero => exact h
  | succ n ih =>
    unfold spareMoves
    split
    · split
      · exact ih _ (takeover_keeps _ _ _ _ (modMapEngine_keeps _ _ _ h))
      · exact h
    · exact h

theorem setReference_keeps {s0 : State} (tests : List (Nat × Nat)) (s : State) (h : Keeps s0 s) :
    Keeps s0 (setReference tests s) := by
  unfold setReference
  try dsimp only
  repeat' (first
    | with_reducible assumption
    | with_reducible apply modMap_keeps
    | with_reducible apply engineFail_keeps
    | with_reducible apply keeps_ite
    | fail_if_no_progress with_reducible refine keeps_mk ?_ (timeOn rfl rfl rfl rfl rfl)
    | (intro _ _)
    | dsimp only
    | split)

theorem testJudge_keeps {s0 : State} (tests : List (Nat × Nat)) (s : State) (e : Nat) (h : Keeps s0 s) :
    Keeps s0 (testJudge tests s e) := by
  unfold testJudge
  try dsimp only
  repeat' (first
    | with_reducible assumption
    | with_reducible apply bump_keeps
    | with_reducible apply modMapEngine_keeps
    | with_reducible apply mapFlag_keeps
    | with_reducible apply engineFail_keeps
    | with_reducible apply keeps_ite
    | fail_if_no_progress with_reducible refine keeps_mk ?_ (timeOn rfl rfl rfl rfl rfl)
    | (intro _ _)
    | dsimp only
    | split)

theorem selfTests_keeps {s0 : State} (tests : List (Nat × Nat)) (s : State) (h : Keeps s0 s) :
    Keeps s0 (selfTests tests s) := by
  unfold selfTests
  try dsimp only
  repeat' (first
    | with_reducible assumption
    | with_reducible apply testJudge_keeps
    | (with_reducible apply keeps_foldl; intro _ _ _))

theorem rolesBoot_keeps {s0 : State} (tests : List (Nat × Nat)) (s : State) (h : Keeps s0 s) :
    Keeps s0 (rolesBoot tests s) := by
  unfold rolesBoot
  try dsimp only
  repeat' (first
    | with_reducible assumption
    | with_reducible apply rolesFollow_keeps
    | with_reducible apply chooseSpare_keeps
    | with_reducible apply setReference_keeps)

theorem testDone_keeps {s0 : State} (e : Nat) (s : State) (h : Keeps s0 s) :
    Keeps s0 (testDone e s) := by
  unfold testDone
  try dsimp only
  repeat' (first
    | with_reducible assumption
    | with_reducible apply modMapEngine_keeps
    | with_reducible apply reshed_keeps
    | with_reducible apply takeover_keeps
    | with_reducible apply keeps_ite
    | fail_if_no_progress with_reducible refine keeps_mk ?_ (timeOn rfl rfl rfl rfl rfl)
    | (intro _ _)
    | dsimp only
    | split)

theorem execEngineTestDone_keeps {s0 : State} (t : Nat) (engine : Fin 16) (s : State) (h : Keeps s0 s) :
    OutKeeps s0 (execEngineTestDone t engine s) := by
  unfold execEngineTestDone
  try dsimp only
  repeat' (first
    | with_reducible assumption
    | with_reducible apply advance_keeps
    | with_reducible apply testDone_keeps
    | with_reducible apply OutKeeps.ite
    | with_reducible apply OutKeeps.next
    | (intro _ _)
    | dsimp only
    | split)

theorem mapDomainOff_keeps {s0 : State} (d : Nat) (s : State) (h : Keeps s0 s) :
    Keeps s0 (mapDomainOff d s) := by
  unfold mapDomainOff
  try dsimp only
  repeat' (first
    | with_reducible assumption
    | with_reducible apply modMap_keeps
    | with_reducible apply modMapEngine_keeps
    | with_reducible apply enginesFail_keeps
    | (with_reducible apply keeps_foldl; intro _ _ _))

theorem effectStates_keeps {s0 : State} (k : Int) (canvas : Option Nat) (s : State) (h : Keeps s0 s) :
    Keeps s0 (effectStates k canvas s) := by
  unfold effectStates
  try dsimp only
  repeat' (first
    | with_reducible assumption
    | with_reducible apply modMap_keeps
    | with_reducible apply keeps_ite
    | with_reducible apply keeps_ite_fst
    | fail_if_no_progress with_reducible refine keeps_mk ?_ (timeOn rfl rfl rfl rfl rfl))

theorem darkZones_keeps {s0 : State} (k : Int) (s : State) (h : Keeps s0 s) :
    Keeps s0 (darkZones k s) := by
  unfold darkZones
  try dsimp only
  repeat' (first
    | with_reducible assumption
    | with_reducible apply modFxm_keeps
    | with_reducible apply modPool_keeps
    | with_reducible apply windowReady_keeps
    | (with_reducible apply keeps_foldl; intro _ _ _)
    | fail_if_no_progress with_reducible refine keeps_mk ?_ (timeOn rfl rfl rfl rfl rfl))

theorem mapStart_keeps {s0 : State} (k : Int) (canvas : Option Nat) (tests : List (Nat × Nat)) (s : State) (h : Keeps s0 s) :
    Keeps s0 (mapStart k canvas tests s) := by
  unfold mapStart
  try dsimp only
  repeat' (first
    | with_reducible assumption
    | with_reducible apply bump_keeps
    | with_reducible apply setFlag_keeps
    | with_reducible apply phoBegin_keeps
    | with_reducible apply modProtect_keeps
    | with_reducible apply intake_keeps
    | with_reducible apply modPool_keeps
    | with_reducible apply modMap_keeps
    | with_reducible apply frameDone_keeps
    | with_reducible apply mapDeadline_keeps
    | with_reducible apply reshed_keeps
    | with_reducible apply spareMoves_keeps
    | with_reducible apply selfTests_keeps
    | with_reducible apply rolesBoot_keeps
    | with_reducible apply effectStates_keeps
    | with_reducible apply darkZones_keeps
    | with_reducible apply keeps_ite
    | with_reducible apply keeps_ite_fst
    | fail_if_no_progress with_reducible refine keeps_mk ?_ (timeOn rfl rfl rfl rfl rfl))

theorem mapStop_keeps {s0 : State} (s : State) (h : Keeps s0 s) :
    Keeps s0 (mapStop s) := by
  unfold mapStop
  try dsimp only
  repeat' (first
    | with_reducible assumption
    | with_reducible apply modProtect_keeps
    | with_reducible apply modPool_keeps
    | with_reducible apply modMap_keeps
    | fail_if_no_progress with_reducible refine keeps_mk ?_ (timeOn rfl rfl rfl rfl rfl))

theorem execEffectSet_keeps {s0 : State} (c : Call) (p : EffectSet) (s : State) (h : Keeps s0 s) :
    OutKeeps s0 (execEffectSet c p s) := by
  unfold execEffectSet
  try dsimp only
  repeat' (first
    | with_reducible assumption
    | with_reducible apply configMessage_keeps)

theorem execKernelUnload_keeps {s0 : State} (c : Call) (kind : Nat) (code : Nat) (s : State) (h : Keeps s0 s) :
    OutKeeps s0 (execKernelUnload c kind code s) := by
  unfold execKernelUnload
  try dsimp only
  repeat' (first
    | with_reducible assumption
    | with_reducible refine command_keeps _ _ _ _ ?_ (fun _ _ => ?_)
    | with_reducible apply refuse_keeps
    | with_reducible apply accept_keeps
    | with_reducible apply modMap_keeps
    | with_reducible apply OutKeeps.ite
    | with_reducible apply keeps_ite
    | with_reducible apply OutKeeps.next
    | fail_if_no_progress with_reducible refine keeps_mk ?_ (timeOn rfl rfl rfl rfl rfl)
    | (intro _ _)
    | dsimp only
    | split)

theorem execMapStatusGet_keeps {s0 : State} (c : Call) (s : State) (h : Keeps s0 s) :
    OutKeeps s0 (execMapStatusGet c s) := by
  unfold execMapStatusGet
  try dsimp only
  repeat' (first
    | with_reducible assumption
    | with_reducible refine command_keeps _ _ _ _ ?_ (fun _ _ => ?_)
    | with_reducible apply answer_keeps)

theorem mapEngineSet_keeps {s0 : State} (e : Nat) (action : Nat) (s : State) (h : Keeps s0 s) :
    Keeps s0 (mapEngineSet e action s).1 := by
  unfold mapEngineSet
  try dsimp only
  repeat' (first
    | with_reducible assumption
    | with_reducible apply setField_keeps
    | with_reducible apply refuse_keeps
    | with_reducible apply accept_keeps
    | with_reducible apply modMap_keeps
    | with_reducible apply modMapEngine_keeps
    | with_reducible apply engineFail_keeps
    | with_reducible apply keeps_ite
    | with_reducible apply keeps_ite_fst
    | fail_if_no_progress with_reducible refine keeps_mk ?_ (timeOn rfl rfl rfl rfl rfl)
    | (intro _ _)
    | dsimp only
    | split)

end Sys2Proof.Laws
end

