-- ==== Sys2Proof/Laws/KeepsEscrow.lean ====
section
/-! SUPPORT. What every command keeps, for the operations of Machine/Escrow.lean. -/

namespace Sys2Proof.Laws

open Sys2Proof.Machine Sys2Proof.Safety

theorem pairMode_keeps {s0 : State} (s : State) (h : Keeps s0 s) :
    Keeps s0 (pairMode s) := by
  unfold pairMode
  try dsimp only
  repeat' (first
    | with_reducible assumption
    | with_reducible apply notify_keeps
    | with_reducible apply keeps_ite
    | with_reducible apply OutKeeps.next
    | fail_if_no_progress with_reducible refine keeps_mk ?_ (timeOn rfl rfl rfl rfl rfl)
    | (intro _ _)
    | dsimp only
    | split)

theorem roleNotice_keeps {s0 : State} (g : Nat) (role : Nat) (cause : Nat) (k : Int) (s : State) (h : Keeps s0 s) :
    Keeps s0 (roleNotice g role cause k s) := by
  unfold roleNotice
  try dsimp only
  repeat' (first
    | with_reducible assumption
    | with_reducible apply setFlag_keeps
    | with_reducible apply notify_keeps)

theorem loseLease_keeps {s0 : State} (g : Nat) (cause : Nat) (s : State) (h : Keeps s0 s) :
    Keeps s0 (loseLease g cause s) := by
  unfold loseLease
  try dsimp only
  repeat' (first
    | with_reducible assumption
    | with_reducible apply modLease_keeps
    | with_reducible apply pairMode_keeps
    | with_reducible apply roleNotice_keeps
    | with_reducible apply keeps_ite)

theorem sawLease_keeps {s0 : State} (g : Nat) (n : Nat) (s : State) (h : Keeps s0 s) :
    Keeps s0 (sawLease g n s) := by
  unfold sawLease
  try dsimp only
  repeat' (first
    | with_reducible assumption
    | with_reducible apply setReg_keeps
    | with_reducible apply keeps_ite)

theorem escWrite_keeps {s0 : State} (s : State) (h : Keeps s0 s) :
    Keeps s0 (escWrite s) := by
  unfold escWrite
  try dsimp only
  repeat' (first
    | with_reducible assumption
    | with_reducible apply bump_keeps
    | with_reducible apply insertDescriptor_keeps
    | with_reducible apply modEsc_keeps
    | with_reducible apply keeps_ite
    | with_reducible apply OutKeeps.next
    | fail_if_no_progress with_reducible refine keeps_mk ?_ (timeOn rfl rfl rfl rfl rfl)
    | (intro _ _)
    | dsimp only
    | split)

theorem execEscrowRecordWrite_keeps {s0 : State} (t : Nat) (s : State) (h : Keeps s0 s) :
    OutKeeps s0 (execEscrowRecordWrite t s) := by
  unfold execEscrowRecordWrite
  try dsimp only
  repeat' (first
    | with_reducible assumption
    | with_reducible apply advance_keeps
    | with_reducible apply escWrite_keeps
    | with_reducible apply OutKeeps.ite
    | with_reducible apply keeps_ite
    | with_reducible apply OutKeeps.next)

theorem escrowSend_keeps {s0 : State} (s : State) (h : Keeps s0 s) :
    Keeps s0 (escrowSend s) := by
  unfold escrowSend
  try dsimp only
  repeat' (first
    | with_reducible assumption
    | with_reducible apply chkRun_keeps
    | with_reducible apply macSend_keeps
    | with_reducible apply modEsc_keeps
    | (with_reducible apply keeps_foldl; intro _ _ _)
    | with_reducible apply keeps_ite
    | with_reducible apply keeps_ite_fst
    | fail_if_no_progress with_reducible refine keeps_mk ?_ (timeOn rfl rfl rfl rfl rfl)
    | (intro _ _)
    | dsimp only
    | split)

theorem shadowNote_keeps {s0 : State} (e : Nat) (n : Nat) (s : State) (h : Keeps s0 s) :
    Keeps s0 (shadowNote e n s) := by
  unfold shadowNote
  try dsimp only
  repeat' (first
    | with_reducible assumption
    | with_reducible apply modEsc_keeps
    | with_reducible apply keeps_ite
    | with_reducible apply OutKeeps.next
    | fail_if_no_progress with_reducible refine keeps_mk ?_ (timeOn rfl rfl rfl rfl rfl)
    | (intro _ _)
    | dsimp only
    | split)

theorem shadowOne_keeps {s0 : State} (k : Int) (s : State) (q : ShadowTile × Nat) (h : Keeps s0 s) :
    Keeps s0 (shadowOne k s q) := by
  unfold shadowOne
  try dsimp only
  repeat' (first
    | with_reducible assumption
    | with_reducible apply bump_keeps
    | with_reducible apply setFlag_keeps
    | with_reducible apply notify_keeps
    | with_reducible apply modEsc_keeps
    | with_reducible apply keeps_ite)

theorem shadowCheck_keeps {s0 : State} (r : EscRecord) (s : State) (h : Keeps s0 s) :
    Keeps s0 (shadowCheck r s) := by
  unfold shadowCheck
  try dsimp only
  repeat' (first
    | with_reducible assumption
    | with_reducible apply modEsc_keeps
    | with_reducible apply shadowOne_keeps
    | (with_reducible apply keeps_foldl; intro _ _ _))

theorem withTemps_keeps {s0 : State} (s : State) (zone : Nat) (h : Keeps s0 s) :
    Keeps s0 (withTemps s zone) := by
  unfold withTemps
  try dsimp only
  repeat' (first
    | with_reducible assumption
    | with_reducible apply modPho_keeps
    | with_reducible apply keeps_ite
    | with_reducible apply keeps_ite_fst
    | fail_if_no_progress with_reducible refine keeps_mk ?_ (timeOn rfl rfl rfl rfl rfl)
    | (intro _ _)
    | dsimp only
    | split)

theorem tileFinish_keeps {s0 : State} (e : Nat) (s : State) (h : Keeps s0 s) :
    Keeps s0 (tileFinish e s) := by
  unfold tileFinish
  try dsimp only
  repeat' (first
    | with_reducible assumption
    | with_reducible apply tileComplete_keeps
    | with_reducible apply shadowNote_keeps
    | with_reducible apply withTemps_keeps
    | with_reducible apply keeps_ite
    | with_reducible apply OutKeeps.next
    | fail_if_no_progress with_reducible refine keeps_mk ?_ (timeOn rfl rfl rfl rfl rfl)
    | (intro _ _)
    | dsimp only
    | split)

theorem execTileComplete_keeps {s0 : State} (t : Nat) (engine : Fin 16) (s : State) (h : Keeps s0 s) :
    OutKeeps s0 (execTileComplete t engine s) := by
  unfold execTileComplete
  try dsimp only
  repeat' (first
    | with_reducible assumption
    | with_reducible apply advance_keeps
    | with_reducible apply tileFinish_keeps
    | with_reducible apply OutKeeps.ite
    | with_reducible apply keeps_ite
    | with_reducible apply OutKeeps.next)

theorem recordLost_keeps {s0 : State} (cause : Nat) (s : State) (h : Keeps s0 s) :
    Keeps s0 (recordLost cause s) := by
  unfold recordLost
  try dsimp only
  repeat' (first
    | with_reducible assumption
    | with_reducible apply modEsc_keeps)

theorem staleCheck_keeps {s0 : State} (s : State) (h : Keeps s0 s) :
    Keeps s0 (staleCheck s) := by
  unfold staleCheck
  try dsimp only
  repeat' (first
    | with_reducible assumption
    | with_reducible apply setFlag_keeps
    | with_reducible apply notify_keeps
    | with_reducible apply modEsc_keeps
    | with_reducible apply keeps_ite
    | with_reducible apply OutKeeps.next
    | fail_if_no_progress with_reducible refine keeps_mk ?_ (timeOn rfl rfl rfl rfl rfl)
    | (intro _ _)
    | dsimp only
    | split)

theorem freshAgain_keeps {s0 : State} (r : EscRecord) (s : State) (h : Keeps s0 s) :
    Keeps s0 (freshAgain r s) := by
  unfold freshAgain
  try dsimp only
  repeat' (first
    | with_reducible assumption
    | with_reducible apply setFlag_keeps
    | with_reducible apply notify_keeps
    | with_reducible apply modEsc_keeps
    | with_reducible apply keeps_ite)

theorem digestCheck_keeps {s0 : State} (s : State) (h : Keeps s0 s) :
    Keeps s0 (digestCheck s) := by
  unfold digestCheck
  try dsimp only
  repeat' (first
    | with_reducible assumption
    | with_reducible apply setFlag_keeps
    | with_reducible apply notify_keeps
    | with_reducible apply modEsc_keeps
    | (with_reducible apply keeps_foldl; intro _ _ _)
    | with_reducible apply keeps_ite
    | with_reducible apply OutKeeps.next
    | fail_if_no_progress with_reducible refine keeps_mk ?_ (timeOn rfl rfl rfl rfl rfl)
    | (intro _ _)
    | dsimp only
    | split)

theorem adoptEpochs_keeps {s0 : State} (r : EscRecord) (gs : List Nat) (s : State) (h : Keeps s0 s) :
    Keeps s0 (adoptEpochs r gs s) := by
  unfold adoptEpochs
  try dsimp only
  repeat' (first
    | with_reducible assumption
    | with_reducible apply keeps_ite
    | with_reducible apply OutKeeps.next
    | fail_if_no_progress with_reducible refine keeps_mk ?_ (timeOn rfl rfl rfl rfl rfl))

theorem recordKeep_keeps {s0 : State} (seq : Word) (r : EscRecord) (s : State) (h : Keeps s0 s) :
    Keeps s0 (recordKeep seq r s) := by
  unfold recordKeep
  try dsimp only
  repeat' (first
    | with_reducible assumption
    | with_reducible apply bump_keeps
    | with_reducible apply modAlm_keeps
    | with_reducible apply modEsc_keeps
    | with_reducible apply shadowCheck_keeps
    | with_reducible apply freshAgain_keeps
    | with_reducible apply digestCheck_keeps
    | with_reducible apply adoptEpochs_keeps
    | with_reducible apply keeps_ite)

theorem recordDone_keeps {s0 : State} (seq : Word) (r : EscRecord) (s : State) (h : Keeps s0 s) :
    Keeps s0 (recordDone seq r s) := by
  unfold recordDone
  try dsimp only
  repeat' (first
    | with_reducible assumption
    | with_reducible apply bump_keeps
    | with_reducible apply loseLease_keeps
    | with_reducible apply sawLease_keeps
    | with_reducible apply recordLost_keeps
    | with_reducible apply recordKeep_keeps
    | (with_reducible apply keeps_foldl; intro _ _ _)
    | with_reducible apply keeps_ite)

theorem buildDrop_keeps {s0 : State} (s : State) (h : Keeps s0 s) :
    Keeps s0 (buildDrop s) := by
  unfold buildDrop
  try dsimp only
  repeat' (first
    | with_reducible assumption
    | with_reducible apply bump_keeps
    | with_reducible apply modEsc_keeps
    | with_reducible apply recordLost_keeps
    | with_reducible apply keeps_ite
    | fail_if_no_progress with_reducible refine keeps_mk ?_ (timeOn rfl rfl rfl rfl rfl)
    | (intro _ _)
    | dsimp only
    | split)

theorem aliveJudge_keeps {s0 : State} (ch : Nat) (alive : Nat) (cause : Bool) (s : State) (h : Keeps s0 s) :
    Keeps s0 (aliveJudge ch alive cause s) := by
  unfold aliveJudge
  try dsimp only
  repeat' (first
    | with_reducible assumption
    | with_reducible apply judgeAlive_keeps
    | with_reducible apply modEsc_keeps
    | with_reducible apply keeps_ite)

theorem fragmentTake_keeps {s0 : State} (f : EscFragment) (s : State) (h : Keeps s0 s) :
    Keeps s0 (fragmentTake f s) := by
  unfold fragmentTake
  try dsimp only
  repeat' (first
    | with_reducible assumption
    | with_reducible apply bump_keeps
    | with_reducible apply modEsc_keeps
    | with_reducible apply recordLost_keeps
    | with_reducible apply recordDone_keeps
    | with_reducible apply buildDrop_keeps
    | with_reducible apply keeps_ite
    | with_reducible apply OutKeeps.next
    | fail_if_no_progress with_reducible refine keeps_mk ?_ (timeOn rfl rfl rfl rfl rfl)
    | (intro _ _)
    | dsimp only
    | split)

theorem fragmentLate_keeps {s0 : State} (f : EscFragment) (s : State) (h : Keeps s0 s) :
    Keeps s0 (fragmentLate f s) := by
  unfold fragmentLate
  try dsimp only
  repeat' (first
    | with_reducible assumption
    | with_reducible apply bump_keeps
    | with_reducible apply modEsc_keeps
    | with_reducible apply recordLost_keeps
    | with_reducible apply keeps_ite
    | fail_if_no_progress with_reducible refine keeps_mk ?_ (timeOn rfl rfl rfl rfl rfl))

theorem fragmentIn_keeps {s0 : State} (f : EscFragment) (s : State) (h : Keeps s0 s) :
    Keeps s0 (fragmentIn f s) := by
  unfold fragmentIn
  try dsimp only
  repeat' (first
    | with_reducible assumption
    | with_reducible apply bump_keeps
    | with_reducible apply modEsc_keeps
    | with_reducible apply aliveJudge_keeps
    | with_reducible apply fragmentTake_keeps
    | with_reducible apply fragmentLate_keeps
    | with_reducible apply keeps_ite
    | with_reducible apply keeps_ite_fst
    | fail_if_no_progress with_reducible refine keeps_mk ?_ (timeOn rfl rfl rfl rfl rfl)
    | (intro _ _)
    | dsimp only
    | split)

theorem execEscrowFragmentReceived_keeps {s0 : State} (t : Nat) (payload : List (BitVec 8)) (s : State) (h : Keeps s0 s) :
    OutKeeps s0 (execEscrowFragmentReceived t payload s) := by
  unfold execEscrowFragmentReceived
  try dsimp only
  repeat' (first
    | with_reducible assumption
    | with_reducible apply advance_keeps
    | with_reducible apply chkRun_keeps
    | with_reducible apply fragmentIn_keeps
    | with_reducible apply OutKeeps.ite
    | with_reducible apply keeps_ite
    | with_reducible apply OutKeeps.next
    | (intro _ _)
    | dsimp only
    | split)

theorem execEscrowRecordDeadline_keeps {s0 : State} (t : Nat) (s : State) (h : Keeps s0 s) :
    OutKeeps s0 (execEscrowRecordDeadline t s) := by
  unfold execEscrowRecordDeadline
  try dsimp only
  repeat' (first
    | with_reducible assumption
    | with_reducible apply advance_keeps
    | with_reducible apply staleCheck_keeps
    | with_reducible apply buildDrop_keeps
    | with_reducible apply OutKeeps.ite
    | with_reducible apply keeps_ite
    | with_reducible apply OutKeeps.next
    | fail_if_no_progress with_reducible refine keeps_mk ?_ (timeOn rfl rfl rfl rfl rfl)
    | (intro _ _)
    | dsimp only
    | split)

theorem skipFrames_keeps {s0 : State} (z : Nat) (first : Int) (n : Nat) (s : State) (h : Keeps s0 s) :
    Keeps s0 (skipFrames z first n s) := by
  unfold skipFrames
  try dsimp only
  repeat' (first
    | with_reducible assumption
    | with_reducible apply bumpBy_keeps
    | with_reducible apply bumpField_keeps
    | with_reducible apply setFlag_keeps
    | with_reducible apply unsentZone_keeps
    | with_reducible apply poolFree_keeps
    | (with_reducible apply keeps_foldl; intro _ _ _)
    | with_reducible apply keeps_ite)

theorem joinRun_keeps {s0 : State} (z : Nat) (k : Int) (s : State) (h : Keeps s0 s) :
    Keeps s0 (joinRun z k s) := by
  unfold joinRun
  try dsimp only
  repeat' (first
    | with_reducible assumption
    | with_reducible apply modAlm_keeps
    | with_reducible apply keeps_ite
    | with_reducible apply keeps_ite_fst
    | fail_if_no_progress with_reducible refine keeps_mk ?_ (timeOn rfl rfl rfl rfl rfl)
    | (intro _ _)
    | dsimp only
    | split)

theorem moveRelease_keeps {s0 : State} (z : Nat) (k : Int) (s : State) (h : Keeps s0 s) :
    Keeps s0 (moveRelease z k s) := by
  unfold moveRelease
  try dsimp only
  repeat' (first
    | with_reducible assumption
    | with_reducible apply modAlm_keeps
    | with_reducible apply nextOrder_keeps
    | fail_if_no_progress with_reducible refine keeps_mk ?_ (timeOn rfl rfl rfl rfl rfl))

theorem skipNotice_keeps {s0 : State} (z : Nat) (n : Nat) (first : Int) (next : Int) (s : State) (h : Keeps s0 s) :
    Keeps s0 (skipNotice z n first next s) := by
  unfold skipNotice
  try dsimp only
  repeat' (first
    | with_reducible assumption
    | with_reducible apply notify_keeps
    | with_reducible apply keeps_ite)

theorem takeZone_keeps {s0 : State} (km : Int) (s : State) (z : Nat) (h : Keeps s0 s) :
    Keeps s0 (takeZone km s z) := by
  unfold takeZone
  try dsimp only
  repeat' (first
    | with_reducible assumption
    | with_reducible apply traceOf_keeps
    | with_reducible apply skipFrames_keeps
    | with_reducible apply moveRelease_keeps
    | with_reducible apply skipNotice_keeps
    | with_reducible apply keeps_ite
    | (intro _ _)
    | dsimp only
    | split)

theorem takeSeq_keeps {s0 : State} (s : State) (q : EscSeq) (h : Keeps s0 s) :
    Keeps s0 (takeSeq s q) := by
  unfold takeSeq
  try dsimp only
  repeat' (first
    | with_reducible assumption
    | with_reducible apply modPkt_keeps
    | with_reducible apply modXcvr_keeps
    | with_reducible apply keeps_ite
    | fail_if_no_progress with_reducible refine keeps_mk ?_ (timeOn rfl rfl rfl rfl rfl)
    | (intro _ _)
    | dsimp only
    | split)

theorem insertTaken_keeps {s0 : State} (s : State) (c : Cue) (h : Keeps s0 s) :
    Keeps s0 (insertTaken s c) := by
  unfold insertTaken
  try dsimp only
  repeat' (first
    | with_reducible assumption
    | with_reducible apply modAlm_keeps
    | with_reducible apply traceOf_keeps
    | with_reducible apply refuseInsert_keeps
    | with_reducible apply refuseHorizon_keeps
    | with_reducible apply cueWork_keeps
    | with_reducible apply keeps_ite
    | fail_if_no_progress with_reducible refine keeps_mk ?_ (timeOn rfl rfl rfl rfl rfl))

theorem takeCues_keeps {s0 : State} (r : EscRecord) (sIn : State) (h : Keeps s0 sIn) :
    Keeps s0 (takeCues r sIn) := by
  unfold takeCues
  try dsimp only
  repeat' (first
    | with_reducible assumption
    | with_reducible apply modAlm_keeps
    | with_reducible apply modRad_keeps
    | with_reducible apply insertTaken_keeps
    | (with_reducible apply keeps_foldl; intro _ _ _)
    | fail_if_no_progress with_reducible refine keeps_mk ?_ (timeOn rfl rfl rfl rfl rfl))

theorem takeTemps_keeps {s0 : State} (zs : List Nat) (r : EscRecord) (s : State) (h : Keeps s0 s) :
    Keeps s0 (takeTemps zs r s) := by
  unfold takeTemps
  try dsimp only
  repeat' (first
    | with_reducible assumption
    | with_reducible apply zoneTemp_keeps
    | (with_reducible apply keeps_foldl; intro _ _ _)
    | with_reducible apply keeps_ite)

theorem takeRecord_keeps {s0 : State} (g : Nat) (r : EscRecord) (s : State) (h : Keeps s0 s) :
    Keeps s0 (takeRecord g r s) := by
  unfold takeRecord
  try dsimp only
  repeat' (first
    | with_reducible assumption
    | with_reducible apply modAlm_keeps
    | with_reducible apply insertTimer_keeps
    | with_reducible apply modMap_keeps
    | with_reducible apply takeSeq_keeps
    | with_reducible apply takeCues_keeps
    | with_reducible apply takeTemps_keeps
    | (with_reducible apply keeps_foldl; intro _ _ _)
    | with_reducible apply keeps_ite
    | with_reducible apply keeps_ite_fst
    | (intro _ _)
    | dsimp only
    | split)

theorem takeGroup_keeps {s0 : State} (g : Nat) (s : State) (h : Keeps s0 s) :
    Keeps s0 (takeGroup g s) := by
  unfold takeGroup
  try dsimp only
  repeat' (first
    | with_reducible assumption
    | with_reducible apply modEsc_keeps
    | with_reducible apply modLease_keeps
    | with_reducible apply pairMode_keeps
    | with_reducible apply roleNotice_keeps
    | with_reducible apply takeZone_keeps
    | with_reducible apply takeRecord_keeps
    | (with_reducible apply keeps_foldl; intro _ _ _)
    | with_reducible apply keeps_ite
    | with_reducible apply OutKeeps.next
    | fail_if_no_progress with_reducible refine keeps_mk ?_ (timeOn rfl rfl rfl rfl rfl)
    | (intro _ _)
    | dsimp only
    | split)

end Sys2Proof.Laws
end

