-- ==== Sys2Proof/Laws/KeepsRaster.lean ====
section
/-! SUPPORT. What every command keeps, for the operations of Machine/Raster.lean. -/

namespace Sys2Proof.Laws

open Sys2Proof.Machine Sys2Proof.Safety

theorem modRas_keeps {s0 : State} (f : Ras → Ras) (s : State) (h : Keeps s0 s) :
    Keeps s0 (modRas f s) := by
  unfold modRas
  try dsimp only
  repeat' (first
    | with_reducible assumption
    | with_reducible apply keeps_ite
    | with_reducible apply OutKeeps.next
    | fail_if_no_progress with_reducible refine keeps_mk ?_ (timeOn rfl rfl rfl rfl rfl))

theorem rasCopy_keeps {s0 : State} (tag : Int) (s : State) (h : Keeps s0 s) :
    Keeps s0 (rasCopy tag s) := by
  unfold rasCopy
  try dsimp only
  repeat' (first
    | with_reducible assumption
    | with_reducible apply copyShadows_keeps
    | with_reducible apply modRas_keeps)

theorem rasSoon_keeps {s0 : State} (k : Int) (s : State) (h : Keeps s0 s) :
    Keeps s0 (rasSoon k s) := by
  unfold rasSoon
  try dsimp only
  repeat' (first
    | with_reducible assumption
    | with_reducible apply rasCopy_keeps
    | with_reducible apply keeps_ite
    | (intro _ _)
    | dsimp only
    | split)

theorem monBegin_keeps {s0 : State} (k : Int) (s : State) (h : Keeps s0 s) :
    Keeps s0 (monBegin k s) := by
  unfold monBegin
  try dsimp only
  repeat' (first
    | with_reducible assumption
    | with_reducible apply modRas_keeps
    | with_reducible apply rasSoon_keeps
    | with_reducible apply keeps_ite
    | fail_if_no_progress with_reducible refine keeps_mk ?_ (timeOn rfl rfl rfl rfl rfl)
    | (intro _ _)
    | dsimp only
    | split)

theorem monLines_keeps {s0 : State} (n : Nat) (from_ : Nat) (upto : Nat) (accepted : Bool) (s : State) (h : Keeps s0 s) :
    Keeps s0 (monLines n from_ upto accepted s) := by
  unfold monLines
  try dsimp only
  repeat' (first
    | with_reducible assumption
    | with_reducible apply modRas_keeps)

theorem lineDone_keeps {s0 : State} (line : Nat) (accepted : Bool) (s : State) (h : Keeps s0 s) :
    Keeps s0 (lineDone line accepted s) := by
  unfold lineDone
  try dsimp only
  repeat' (first
    | with_reducible assumption
    | with_reducible apply canvasLine_keeps
    | with_reducible apply monLines_keeps
    | with_reducible apply keeps_ite)

theorem execLineReadback_keeps {s0 : State} (t : Nat) (s : State) (h : Keeps s0 s) :
    OutKeeps s0 (execLineReadback t s) := by
  unfold execLineReadback
  try dsimp only
  repeat' (first
    | with_reducible assumption
    | with_reducible apply advance_keeps
    | with_reducible apply bump_keeps
    | with_reducible apply modRas_keeps
    | with_reducible apply OutKeeps.ite
    | with_reducible apply keeps_ite
    | with_reducible apply OutKeeps.next
    | fail_if_no_progress with_reducible refine keeps_mk ?_ (timeOn rfl rfl rfl rfl rfl)
    | (intro _ _)
    | dsimp only
    | split)

theorem ltrStart_keeps {s0 : State} (s : State) (h : Keeps s0 s) :
    Keeps s0 (ltrStart s) := by
  unfold ltrStart
  try dsimp only
  repeat' (first
    | with_reducible assumption
    | with_reducible apply modRas_keeps
    | fail_if_no_progress with_reducible refine keeps_mk ?_ (timeOn rfl rfl rfl rfl rfl))

theorem rasGo_keeps {s0 : State} (v : Word) (s : State) (h : Keeps s0 s) :
    Keeps s0 (rasGo v s) := by
  unfold rasGo
  try dsimp only
  repeat' (first
    | with_reducible assumption
    | with_reducible apply modRas_keeps
    | with_reducible apply keeps_ite)

theorem startTransition_keeps {s0 : State} (old : State) (t0 : Int) (s : State) (h : Keeps s0 s) :
    Keeps s0 (startTransition old t0 s) := by
  unfold startTransition
  try dsimp only
  repeat' (first
    | with_reducible assumption
    | with_reducible apply setFlag_keeps
    | with_reducible apply notify_keeps
    | with_reducible apply modRas_keeps
    | with_reducible apply ltrStart_keeps
    | with_reducible apply keeps_ite)

theorem rasHalt_keeps {s0 : State} (s : State) (h : Keeps s0 s) :
    Keeps s0 (rasHalt s) := by
  unfold rasHalt
  try dsimp only
  repeat' (first
    | with_reducible assumption
    | with_reducible apply modRas_keeps)

theorem rasNext_keeps {s0 : State} (s : State) (h : Keeps s0 s) :
    Keeps s0 (rasNext s) := by
  unfold rasNext
  try dsimp only
  repeat' (first
    | with_reducible assumption
    | with_reducible apply modRas_keeps
    | fail_if_no_progress with_reducible refine keeps_mk ?_ (timeOn rfl rfl rfl rfl rfl))

theorem rasSlip_keeps {s0 : State} (s : State) (h : Keeps s0 s) :
    Keeps s0 (rasSlip s) := by
  unfold rasSlip
  try dsimp only
  repeat' (first
    | with_reducible assumption
    | with_reducible apply bump_keeps
    | with_reducible apply setFlag_keeps
    | with_reducible apply modRas_keeps
    | with_reducible apply keeps_ite
    | fail_if_no_progress with_reducible refine keeps_mk ?_ (timeOn rfl rfl rfl rfl rfl))

theorem rasScan_keeps {s0 : State} (j : Int) (s : State) (h : Keeps s0 s) :
    Keeps s0 (rasScan j s) := by
  unfold rasScan
  try dsimp only
  repeat' (first
    | with_reducible assumption
    | with_reducible apply bump_keeps
    | with_reducible apply modRas_keeps
    | with_reducible apply keeps_ite
    | with_reducible apply OutKeeps.next
    | fail_if_no_progress with_reducible refine keeps_mk ?_ (timeOn rfl rfl rfl rfl rfl)
    | (intro _ _)
    | dsimp only
    | split)

theorem rasFrameStart_keeps {s0 : State} (s : State) (h : Keeps s0 s) :
    Keeps s0 (rasFrameStart s) := by
  unfold rasFrameStart
  try dsimp only
  repeat' (first
    | with_reducible assumption
    | with_reducible apply setFlag_keeps
    | with_reducible apply modRas_keeps
    | with_reducible apply rasCopy_keeps
    | with_reducible apply startTransition_keeps
    | with_reducible apply rasHalt_keeps
    | with_reducible apply rasNext_keeps
    | with_reducible apply rasSlip_keeps
    | with_reducible apply rasScan_keeps
    | with_reducible apply keeps_ite
    | (intro _ _)
    | dsimp only
    | split)

theorem rasLine_keeps {s0 : State} (l : Nat) (s : State) (h : Keeps s0 s) :
    Keeps s0 (rasLine l s) := by
  unfold rasLine
  try dsimp only
  repeat' (first
    | with_reducible assumption
    | with_reducible apply setFlag_keeps
    | with_reducible apply modRas_keeps
    | with_reducible apply keeps_ite)

theorem execRasterFrameDone_keeps {s0 : State} (t : Nat) (s : State) (h : Keeps s0 s) :
    OutKeeps s0 (execRasterFrameDone t s) := by
  unfold execRasterFrameDone
  try dsimp only
  repeat' (first
    | with_reducible assumption
    | with_reducible apply advance_keeps
    | with_reducible apply setFlag_keeps
    | with_reducible apply modRas_keeps
    | with_reducible apply OutKeeps.ite
    | with_reducible apply keeps_ite
    | with_reducible apply OutKeeps.next
    | fail_if_no_progress with_reducible refine keeps_mk ?_ (timeOn rfl rfl rfl rfl rfl)
    | (intro _ _)
    | dsimp only
    | split)

theorem sendUnder_keeps {s0 : State} (s : State) (h : Keeps s0 s) :
    Keeps s0 (sendUnder s) := by
  unfold sendUnder
  try dsimp only
  repeat' (first
    | with_reducible assumption
    | with_reducible apply notify_keeps
    | with_reducible apply modRas_keeps
    | with_reducible apply keeps_ite)

theorem blackLine_keeps {s0 : State} (line : Nat) (sample : Nat) (s : State) (h : Keeps s0 s) :
    Keeps s0 (blackLine line sample s) := by
  unfold blackLine
  try dsimp only
  repeat' (first
    | with_reducible assumption
    | with_reducible apply modRas_keeps
    | with_reducible apply keeps_ite
    | fail_if_no_progress with_reducible refine keeps_mk ?_ (timeOn rfl rfl rfl rfl rfl))

theorem execScanUnderrun_keeps {s0 : State} (t : Nat) (line : Nat) (sample : Nat) (s : State) (h : Keeps s0 s) :
    OutKeeps s0 (execScanUnderrun t line sample s) := by
  unfold execScanUnderrun
  try dsimp only
  repeat' (first
    | with_reducible assumption
    | with_reducible apply advance_keeps
    | with_reducible apply bump_keeps
    | with_reducible apply setFlag_keeps
    | with_reducible apply modRas_keeps
    | with_reducible apply sendUnder_keeps
    | with_reducible apply blackLine_keeps
    | with_reducible apply OutKeeps.ite
    | with_reducible apply keeps_ite
    | with_reducible apply OutKeeps.next
    | (intro _ _)
    | dsimp only
    | split)

theorem scanParity_keeps {s0 : State} (sample : Nat) (s : State) (h : Keeps s0 s) :
    Keeps s0 (scanParity sample s) := by
  unfold scanParity
  try dsimp only
  repeat' (first
    | with_reducible assumption
    | with_reducible apply bump_keeps
    | with_reducible apply modRas_keeps
    | with_reducible apply blackLine_keeps
    | with_reducible apply keeps_ite
    | fail_if_no_progress with_reducible refine keeps_mk ?_ (timeOn rfl rfl rfl rfl rfl)
    | (intro _ _)
    | dsimp only
    | split)

theorem execLtrRecompute_keeps {s0 : State} (t : Nat) (bytes : Nat) (s : State) (h : Keeps s0 s) :
    OutKeeps s0 (execLtrRecompute t bytes s) := by
  unfold execLtrRecompute
  try dsimp only
  repeat' (first
    | with_reducible assumption
    | with_reducible apply advance_keeps
    | with_reducible apply modRas_keeps
    | with_reducible apply OutKeeps.ite
    | with_reducible apply keeps_ite
    | with_reducible apply OutKeeps.next)

theorem frameRas_keeps {s0 : State} (k : Int) (s : State) (h : Keeps s0 s) :
    Keeps s0 (frameRas k s) := by
  unfold frameRas
  try dsimp only
  repeat' (first
    | with_reducible assumption
    | with_reducible apply modRas_keeps
    | with_reducible apply rasCopy_keeps
    | with_reducible apply monBegin_keeps
    | with_reducible apply startTransition_keeps
    | with_reducible apply rasNext_keeps
    | with_reducible apply sendUnder_keeps
    | with_reducible apply keeps_ite
    | fail_if_no_progress with_reducible refine keeps_mk ?_ (timeOn rfl rfl rfl rfl rfl)
    | (intro _ _)
    | dsimp only
    | split)

theorem rasStart_keeps {s0 : State} (s : State) (h : Keeps s0 s) :
    Keeps s0 (rasStart s) := by
  unfold rasStart
  try dsimp only
  repeat' (first
    | with_reducible assumption
    | with_reducible apply modRas_keeps
    | with_reducible apply ltrStart_keeps
    | with_reducible apply keeps_ite
    | fail_if_no_progress with_reducible refine keeps_mk ?_ (timeOn rfl rfl rfl rfl rfl))

theorem rasStop_keeps {s0 : State} (s : State) (h : Keeps s0 s) :
    Keeps s0 (rasStop s) := by
  unfold rasStop
  try dsimp only
  repeat' (first
    | with_reducible assumption
    | with_reducible apply modRas_keeps
    | with_reducible apply rasHalt_keeps)

theorem rasWrite_keeps {s0 : State} (r : Cfg) (s : State) (h : Keeps s0 s) :
    Keeps s0 (rasWrite r s) := by
  unfold rasWrite
  try dsimp only
  repeat' (first
    | with_reducible assumption
    | with_reducible apply setReg_keeps
    | with_reducible apply setReg64_keeps
    | (with_reducible apply keeps_foldl; intro _ _ _)
    | with_reducible apply keeps_ite
    | with_reducible apply keeps_ite_fst
    | (intro _ _)
    | dsimp only
    | split)

theorem rasCommit_keeps {s0 : State} (tag : Int) (write : Bool) (r : Cfg) (s : State) (h : Keeps s0 s) :
    Keeps s0 (rasCommit tag write r s) := by
  unfold rasCommit
  try dsimp only
  repeat' (first
    | with_reducible assumption
    | with_reducible apply setReg_keeps
    | with_reducible apply modRas_keeps
    | with_reducible apply rasWrite_keeps
    | with_reducible apply keeps_ite
    | fail_if_no_progress with_reducible refine keeps_mk ?_ (timeOn rfl rfl rfl rfl rfl))

theorem execMonitorSet_keeps {s0 : State} (c : Call) (p : MonitorSet) (s : State) (h : Keeps s0 s) :
    OutKeeps s0 (execMonitorSet c p s) := by
  unfold execMonitorSet
  try dsimp only
  repeat' (first
    | with_reducible assumption
    | with_reducible apply configMessage_keeps)

theorem execMonitorStatusGet_keeps {s0 : State} (c : Call) (s : State) (h : Keeps s0 s) :
    OutKeeps s0 (execMonitorStatusGet c s) := by
  unfold execMonitorStatusGet
  try dsimp only
  repeat' (first
    | with_reducible assumption
    | with_reducible refine command_keeps _ _ _ _ ?_ (fun _ _ => ?_)
    | with_reducible apply answer_keeps)

end Sys2Proof.Laws
end

