-- ==== Sys2Proof/Laws/KeepsVault.lean ====
section
/-! SUPPORT. What every command keeps, for the operations of Machine/Vault.lean. -/

namespace Sys2Proof.Laws

open Sys2Proof.Machine Sys2Proof.Safety

theorem modVlt_keeps {s0 : State} (f : Vault → Vault) (s : State) (h : Keeps s0 s) (hf : Onward s.vlt (f s.vlt)) : Keeps s0 (modVlt f s) :=
  keeps_vlt h hf

theorem unauth_keeps {s0 : State} (s : State) (h : Keeps s0 s) :
    Keeps s0 (unauth s).1 := by
  unfold unauth
  try dsimp only
  repeat' (first
    | with_reducible assumption
    | with_reducible apply bump_keeps)

theorem drbgRequest_keeps {s0 : State} (s : State) (h : Keeps s0 s) :
    Keeps s0 (drbgRequest s) := by
  unfold drbgRequest
  try dsimp only
  repeat' (first
    | with_reducible assumption
    | with_reducible apply bump_keeps
    | with_reducible apply modVlt_keeps
    | exact ⟨Nat.le_refl _, Nat.le_refl _, fun _ x => x, fun _ x => x⟩
    | with_reducible apply keeps_ite
    | fail_if_no_progress with_reducible refine keeps_mk ?_ (timeOn rfl rfl rfl rfl rfl))

theorem sigFail_keeps {s0 : State} (s : State) (h : Keeps s0 s) :
    Keeps s0 (sigFail s).1 := by
  unfold sigFail
  try dsimp only
  repeat' (first
    | with_reducible assumption
    | with_reducible apply bump_keeps
    | with_reducible apply unauth_keeps)

theorem writeBoot_keeps {s0 : State} (f : BootRecord → BootRecord) (s : State) (h : Keeps s0 s) :
    Keeps s0 (writeBoot f s) := by
  unfold writeBoot
  try dsimp only
  repeat' (first
    | with_reducible assumption
    | with_reducible apply modVlt_keeps
    | exact ⟨Nat.le_refl _, Nat.le_refl _, fun _ x => x, fun _ x => x⟩)

theorem modBank_keeps {s0 : State} (b : Nat) (f : Bank → Bank) (s : State) (h : Keeps s0 s) :
    Keeps s0 (modBank b f s) := by
  unfold modBank
  try dsimp only
  repeat' (first
    | with_reducible assumption
    | with_reducible apply modVlt_keeps
    | exact ⟨Nat.le_refl _, Nat.le_refl _, fun _ x => x, fun _ x => x⟩)

theorem startRecovery_keeps {s0 : State} (failed : Nat) (reason : Option Nat) (version : Nat) (s : State) (h : Keeps s0 s) :
    Keeps s0 (startRecovery failed reason version s) := by
  unfold startRecovery
  try dsimp only
  repeat' (first
    | with_reducible assumption
    | with_reducible apply modVlt_keeps
    | exact ⟨Nat.le_refl _, Nat.le_refl _, fun _ x => x, fun _ x => x⟩)

theorem startBank_keeps {s0 : State} (b : Nat) (fell : Option (Nat × Nat × Nat)) (s : State) (h : Keeps s0 s) :
    Keeps s0 (startBank b fell s) := by
  unfold startBank
  try dsimp only
  repeat' (first
    | with_reducible assumption
    | with_reducible apply modVlt_keeps
    | exact ⟨Nat.le_refl _, Nat.le_refl _, fun _ x => x, fun _ x => x⟩)

theorem fellBack_keeps {s0 : State} (s : State) (h : Keeps s0 s) :
    Keeps s0 (fellBack s) := by
  unfold fellBack
  try dsimp only
  repeat' (first
    | with_reducible assumption
    | with_reducible apply keeps_ite
    | with_reducible apply OutKeeps.next
    | fail_if_no_progress with_reducible refine keeps_mk ?_ (timeOn rfl rfl rfl rfl rfl)
    | (intro _ _)
    | dsimp only
    | split)

theorem bootSigFail_keeps {s0 : State} (s : State) (corrupt : Nat) (b : Nat) (h : Keeps s0 s) :
    Keeps s0 (bootSigFail s corrupt b) := by
  unfold bootSigFail
  try dsimp only
  repeat' (first
    | with_reducible assumption
    | with_reducible apply bump_keeps
    | with_reducible apply keeps_ite
    | (intro _ _)
    | dsimp only
    | split)

theorem bootBank_keeps {s0 : State} (fuel corrupt : Nat) (fell : Option (Nat × Nat × Nat)) (s : State) (h : Keeps s0 s) :
    Keeps s0 (bootBank fuel corrupt fell s) := by
  induction fuel generalizing fell s with
  | zero => exact h
  | succ n ih =>
    unfold bootBank
    dsimp only
    repeat' (first
      | with_reducible exact h
      | with_reducible apply startBank_keeps
      | with_reducible apply startRecovery_keeps
      | with_reducible apply writeBoot_keeps
      | with_reducible apply bootSigFail_keeps
      | with_reducible apply fellBack_keeps
      | with_reducible apply ih
      | with_reducible apply keeps_ite
      | split)

theorem bootRom_keeps {s0 : State} (p : BootPins) (s : State) (h : Keeps s0 s) :
    Keeps s0 (bootRom p s) := by
  unfold bootRom
  try dsimp only
  repeat' (first
    | with_reducible assumption
    | with_reducible apply bump_keeps
    | with_reducible apply modVlt_keeps
    | exact ⟨Nat.le_refl _, Nat.le_refl _, fun _ x => x, fun _ x => x⟩
    | with_reducible apply writeBoot_keeps
    | with_reducible apply startRecovery_keeps
    | with_reducible apply bootBank_keeps
    | with_reducible apply keeps_ite
    | fail_if_no_progress with_reducible refine keeps_mk ?_ (timeOn rfl rfl rfl rfl rfl))

theorem bootConfirm_keeps {s0 : State} (s : State) (h : Keeps s0 s) :
    Keeps s0 (bootConfirm s) := by
  unfold bootConfirm
  try dsimp only
  repeat' (first
    | with_reducible assumption
    | with_reducible apply writeBoot_keeps
    | with_reducible apply keeps_ite
    | with_reducible apply OutKeeps.next
    | fail_if_no_progress with_reducible refine keeps_mk ?_ (timeOn rfl rfl rfl rfl rfl)
    | (intro _ _)
    | dsimp only
    | split)

theorem bootFallback_keeps {s0 : State} (s : State) (h : Keeps s0 s) :
    Keeps s0 (bootFallback s) := by
  unfold bootFallback
  try dsimp only
  repeat' (first
    | with_reducible assumption
    | with_reducible apply notify_keeps
    | with_reducible apply modVlt_keeps
    | exact ⟨Nat.le_refl _, Nat.le_refl _, fun _ x => x, fun _ x => x⟩
    | with_reducible apply keeps_ite
    | with_reducible apply OutKeeps.next
    | fail_if_no_progress with_reducible refine keeps_mk ?_ (timeOn rfl rfl rfl rfl rfl)
    | (intro _ _)
    | dsimp only
    | split)

theorem deviceKey_keeps {s0 : State} (s : State) (h : Keeps s0 s) : Keeps s0 (deviceKey s) := by
  unfold deviceKey
  split
  · exact h
  · exact draw_keeps _ (drbgRequest_keeps _ <| modVlt_keeps _ _ h ⟨Nat.le_refl _, Nat.le_refl _, burnSlot_stays _ _, fun _ x => x⟩)

theorem blockSag_keeps {s0 : State} (s : State) (h : Keeps s0 s) :
    Keeps s0 (blockSag s) := by
  unfold blockSag
  try dsimp only
  repeat' (first
    | with_reducible assumption
    | with_reducible apply respondOwed_keeps
    | with_reducible apply modVlt_keeps
    | exact ⟨Nat.le_refl _, Nat.le_refl _, fun _ x => x, fun _ x => x⟩
    | with_reducible apply keeps_ite
    | with_reducible apply OutKeeps.next
    | fail_if_no_progress with_reducible refine keeps_mk ?_ (timeOn rfl rfl rfl rfl rfl)
    | (intro _ _)
    | dsimp only
    | split)

end Sys2Proof.Laws
end

