-- ==== Sys2Proof/Laws/KeepsRedundancy.lean ====
section
/-! SUPPORT. What every command keeps, for the operations of Machine/Redundancy.lean. -/

namespace Sys2Proof.Laws

open Sys2Proof.Machine Sys2Proof.Safety

theorem leaseSend_keeps {s0 : State} (type : Nat) (g : Nat) (flags : Nat) (s : State) (h : Keeps s0 s) :
    Keeps s0 (leaseSend type g flags s) := by
  unfold leaseSend
  try dsimp only
  repeat' (first
    | with_reducible assumption
    | with_reducible apply macSend_keeps
    | with_reducible apply modEsc_keeps
    | with_reducible apply keeps_ite
    | fail_if_no_progress with_reducible refine keeps_mk ?_ (timeOn rfl rfl rfl rfl rfl))

theorem leaseAsk_keeps {s0 : State} (g : Nat) (s : State) (h : Keeps s0 s) :
    Keeps s0 (leaseAsk g s) := by
  unfold leaseAsk
  try dsimp only
  repeat' (first
    | with_reducible assumption
    | with_reducible apply modLease_keeps
    | with_reducible apply leaseSend_keeps
    | with_reducible apply keeps_ite)

theorem execLeaseRequestInterval_keeps {s0 : State} (t : Nat) (group : Fin 16) (s : State) (h : Keeps s0 s) :
    OutKeeps s0 (execLeaseRequestInterval t group s) := by
  unfold execLeaseRequestInterval
  try dsimp only
  repeat' (first
    | with_reducible assumption
    | with_reducible apply advance_keeps
    | with_reducible apply leaseAsk_keeps
    | with_reducible apply OutKeeps.ite
    | with_reducible apply keeps_ite
    | with_reducible apply OutKeeps.next)

theorem leaseGrant_keeps {s0 : State} (f : LeaseFrame) (s : State) (h : Keeps s0 s) :
    Keeps s0 (leaseGrant f s) := by
  unfold leaseGrant
  try dsimp only
  repeat' (first
    | with_reducible assumption
    | with_reducible apply modLease_keeps
    | with_reducible apply takeGroup_keeps
    | with_reducible apply keeps_ite
    | with_reducible apply OutKeeps.next
    | fail_if_no_progress with_reducible refine keeps_mk ?_ (timeOn rfl rfl rfl rfl rfl)
    | (intro _ _)
    | dsimp only
    | split)

theorem leaseIn_keeps {s0 : State} (f : LeaseFrame) (s : State) (h : Keeps s0 s) :
    Keeps s0 (leaseIn f s) := by
  unfold leaseIn
  try dsimp only
  repeat' (first
    | with_reducible assumption
    | with_reducible apply bump_keeps
    | with_reducible apply loseLease_keeps
    | with_reducible apply sawLease_keeps
    | with_reducible apply leaseGrant_keeps
    | with_reducible apply keeps_ite
    | with_reducible apply OutKeeps.next
    | fail_if_no_progress with_reducible refine keeps_mk ?_ (timeOn rfl rfl rfl rfl rfl)
    | (intro _ _)
    | dsimp only
    | split)

theorem execLeaseFrameReceived_keeps {s0 : State} (t : Nat) (f : LeaseFrame) (s : State) (h : Keeps s0 s) :
    OutKeeps s0 (execLeaseFrameReceived t f s) := by
  unfold execLeaseFrameReceived
  try dsimp only
  repeat' (first
    | with_reducible assumption
    | with_reducible apply advance_keeps
    | with_reducible apply leaseIn_keeps
    | with_reducible apply OutKeeps.ite
    | with_reducible apply keeps_ite
    | with_reducible apply OutKeeps.next)

theorem execLeaseExpiry_keeps {s0 : State} (t : Nat) (group : Fin 16) (s : State) (h : Keeps s0 s) :
    OutKeeps s0 (execLeaseExpiry t group s) := by
  unfold execLeaseExpiry
  try dsimp only
  repeat' (first
    | with_reducible assumption
    | with_reducible apply advance_keeps
    | with_reducible apply loseLease_keeps
    | with_reducible apply OutKeeps.ite
    | with_reducible apply keeps_ite
    | with_reducible apply OutKeeps.next)

theorem releaseGroups_keeps {s0 : State} (gs : List Nat) (s : State) (h : Keeps s0 s) :
    Keeps s0 (releaseGroups gs s) := by
  unfold releaseGroups
  try dsimp only
  repeat' (first
    | with_reducible assumption
    | with_reducible apply loseLease_keeps
    | with_reducible apply leaseSend_keeps
    | (with_reducible apply keeps_foldl; intro _ _ _))

theorem probeSend_keeps {s0 : State} (p : Nat) (seq : Word) (reply : Bool) (s : State) (h : Keeps s0 s) :
    Keeps s0 (probeSend p seq reply s) := by
  unfold probeSend
  try dsimp only
  repeat' (first
    | with_reducible assumption
    | with_reducible apply chkRun_keeps
    | with_reducible apply portEnqueue_keeps
    | with_reducible apply modEsc_keeps
    | with_reducible apply keeps_ite
    | fail_if_no_progress with_reducible refine keeps_mk ?_ (timeOn rfl rfl rfl rfl rfl))

theorem probeAll_keeps {s0 : State} (s : State) (h : Keeps s0 s) :
    Keeps s0 (probeAll s) := by
  unfold probeAll
  try dsimp only
  repeat' (first
    | with_reducible assumption
    | with_reducible apply modEsc_keeps
    | with_reducible apply probeSend_keeps
    | (with_reducible apply keeps_foldl; intro _ _ _)
    | with_reducible apply keeps_ite)

theorem execProbeInterval_keeps {s0 : State} (t : Nat) (s : State) (h : Keeps s0 s) :
    OutKeeps s0 (execProbeInterval t s) := by
  unfold execProbeInterval
  try dsimp only
  repeat' (first
    | with_reducible assumption
    | with_reducible apply advance_keeps
    | with_reducible apply probeAll_keeps
    | with_reducible apply OutKeeps.ite
    | with_reducible apply keeps_ite
    | with_reducible apply OutKeeps.next)

theorem probeIn_keeps {s0 : State} (p : Nat) (f : EscFragment) (s : State) (h : Keeps s0 s) :
    Keeps s0 (probeIn p f s) := by
  unfold probeIn
  try dsimp only
  repeat' (first
    | with_reducible assumption
    | with_reducible apply bump_keeps
    | with_reducible apply modEsc_keeps
    | with_reducible apply pathGood_keeps
    | with_reducible apply aliveJudge_keeps
    | with_reducible apply probeSend_keeps
    | with_reducible apply keeps_ite
    | with_reducible apply OutKeeps.next
    | fail_if_no_progress with_reducible refine keeps_mk ?_ (timeOn rfl rfl rfl rfl rfl)
    | (intro _ _)
    | dsimp only
    | split)

theorem execProbeReceived_keeps {s0 : State} (t : Nat) (port : Fin 8) (payload : List (BitVec 8)) (s : State) (h : Keeps s0 s) :
    OutKeeps s0 (execProbeReceived t port payload s) := by
  unfold execProbeReceived
  try dsimp only
  repeat' (first
    | with_reducible assumption
    | with_reducible apply advance_keeps
    | with_reducible apply chkRun_keeps
    | with_reducible apply probeIn_keeps
    | with_reducible apply OutKeeps.ite
    | with_reducible apply keeps_ite
    | with_reducible apply OutKeeps.next
    | (intro _ _)
    | dsimp only
    | split)

theorem execProbeTimeout_keeps {s0 : State} (t : Nat) (port : Fin 8) (s : State) (h : Keeps s0 s) :
    OutKeeps s0 (execProbeTimeout t port s) := by
  unfold execProbeTimeout
  try dsimp only
  repeat' (first
    | with_reducible assumption
    | with_reducible apply advance_keeps
    | with_reducible apply modEsc_keeps
    | with_reducible apply pathMiss_keeps
    | with_reducible apply OutKeeps.ite
    | with_reducible apply keeps_ite
    | with_reducible apply OutKeeps.next
    | fail_if_no_progress with_reducible refine keeps_mk ?_ (timeOn rfl rfl rfl rfl rfl)
    | (intro _ _)
    | dsimp only
    | split)

theorem pairSet_keeps {s0 : State} (p : PairSet) (s : State) (h : Keeps s0 s) :
    Keeps s0 (pairSet p s) := by
  unfold pairSet
  try dsimp only
  repeat' (first
    | with_reducible assumption
    | with_reducible apply setReg_keeps
    | with_reducible apply setField_keeps
    | with_reducible apply modEsc_keeps)

theorem execPairRelease_keeps {s0 : State} (c : Call) (mask : Nat) (s : State) (h : Keeps s0 s) :
    OutKeeps s0 (execPairRelease c mask s) := by
  unfold execPairRelease
  try dsimp only
  repeat' (first
    | with_reducible assumption
    | with_reducible apply respond_keeps
    | with_reducible refine command_keeps _ _ _ _ ?_ (fun _ _ => ?_)
    | with_reducible apply accept_keeps
    | with_reducible apply releaseGroups_keeps)

theorem execPairStatusGet_keeps {s0 : State} (c : Call) (s : State) (h : Keeps s0 s) :
    OutKeeps s0 (execPairStatusGet c s) := by
  unfold execPairStatusGet
  try dsimp only
  repeat' (first
    | with_reducible assumption
    | with_reducible refine command_keeps _ _ _ _ ?_ (fun _ _ => ?_)
    | with_reducible apply answer_keeps)

theorem escStop_keeps {s0 : State} (s : State) (h : Keeps s0 s) :
    Keeps s0 (escStop s) := by
  unfold escStop
  try dsimp only
  repeat' (first
    | with_reducible assumption
    | with_reducible apply modEsc_keeps)

end Sys2Proof.Laws
end

