-- ==== Sys2Proof/Laws/KeepsStrings.lean ====
section
/-! SUPPORT. What every command keeps, for the operations of Machine/Strings.lean. -/

namespace Sys2Proof.Laws

open Sys2Proof.Machine Sys2Proof.Safety

theorem modLamps_keeps {s0 : State} (f : List LampEntry → List LampEntry) (s : State) (h : Keeps s0 s) :
    Keeps s0 (modLamps f s) := by
  unfold modLamps
  try dsimp only
  repeat' (first
    | with_reducible assumption
    | with_reducible apply keeps_ite
    | with_reducible apply OutKeeps.next
    | fail_if_no_progress with_reducible refine keeps_mk ?_ (timeOn rfl rfl rfl rfl rfl))

theorem lampReport_keeps {s0 : State} (l : Nat) (i : Nat) (again : Bool) (full : Bool) (x : Nat × Nat × Nat) (s : State) (h : Keeps s0 s) :
    Keeps s0 (lampReport l i again full x s) := by
  unfold lampReport
  try dsimp only
  repeat' (first
    | with_reducible assumption
    | with_reducible apply notify_keeps)

theorem lampFound_keeps {s0 : State} (l : Nat) (i : Nat) (again : Bool) (s : State) (x : Nat × Nat × Nat) (h : Keeps s0 s) :
    Keeps s0 (lampFound l i again s x) := by
  unfold lampFound
  try dsimp only
  repeat' (first
    | with_reducible assumption
    | with_reducible apply bump_keeps
    | with_reducible apply setFlag_keeps
    | with_reducible apply modLamps_keeps
    | with_reducible apply lampReport_keeps
    | with_reducible apply keeps_ite)

theorem mapDone_keeps {s0 : State} (l : Nat) (i : Nat) (again : Bool) (s : State) (h : Keeps s0 s) :
    Keeps s0 (mapDone l i again s) := by
  unfold mapDone
  try dsimp only
  repeat' (first
    | with_reducible assumption
    | with_reducible apply modLane_keeps
    | with_reducible apply lampReport_keeps
    | with_reducible apply lampFound_keeps
    | (with_reducible apply keeps_foldl; intro _ _ _)
    | with_reducible apply keeps_ite
    | with_reducible apply keeps_ite_fst
    | fail_if_no_progress with_reducible refine keeps_mk ?_ (timeOn rfl rfl rfl rfl rfl))

theorem pollSend_keeps {s0 : State} (l : Nat) (s : State) (h : Keeps s0 s) :
    Keeps s0 (pollSend l s) := by
  unfold pollSend
  try dsimp only
  repeat' (first
    | with_reducible assumption
    | with_reducible apply modLane_keeps
    | with_reducible apply ctrlQueue_keeps
    | with_reducible apply ctrlSend_keeps
    | with_reducible apply keeps_ite
    | fail_if_no_progress with_reducible refine keeps_mk ?_ (timeOn rfl rfl rfl rfl rfl))

theorem ctrlNext_keeps {s0 : State} (l : Nat) (s : State) (h : Keeps s0 s) :
    Keeps s0 (ctrlNext l s) := by
  unfold ctrlNext
  try dsimp only
  repeat' (first
    | with_reducible assumption
    | with_reducible apply ctrlSend_keeps
    | with_reducible apply rangeNext_keeps
    | with_reducible apply pollSend_keeps)

theorem stringFault_keeps {s0 : State} (l : Nat) (i : Nat) (new : Nat) (s : State) (n : Nat) (h : Keeps s0 s) :
    Keeps s0 (stringFault l i new s n) := by
  unfold stringFault
  try dsimp only
  repeat' (first
    | with_reducible assumption
    | with_reducible apply bump_keeps
    | with_reducible apply setFlag_keeps
    | with_reducible apply notify_keeps
    | with_reducible apply keeps_ite)

theorem sumReturn_keeps {s0 : State} (l : Nat) (i : Nat) (w : Word) (s : State) (h : Keeps s0 s) :
    Keeps s0 (sumReturn l i w s) := by
  unfold sumReturn
  try dsimp only
  repeat' (first
    | with_reducible assumption
    | with_reducible apply bump_keeps
    | with_reducible apply modLane_keeps
    | with_reducible apply modChip_keeps
    | with_reducible apply ctrlQueue_keeps
    | with_reducible apply stringFault_keeps
    | (with_reducible apply keeps_foldl; intro _ _ _)
    | with_reducible apply keeps_ite
    | fail_if_no_progress with_reducible refine keeps_mk ?_ (timeOn rfl rfl rfl rfl rfl)
    | (intro _ _)
    | dsimp only
    | split)

theorem lampApply_keeps {s0 : State} (p : StrLampSet) (s : State) (h : Keeps s0 s) :
    Keeps s0 (lampApply p s) := by
  unfold lampApply
  try dsimp only
  repeat' (first
    | with_reducible assumption
    | with_reducible apply bump_keeps
    | with_reducible apply setFlag_keeps
    | with_reducible apply modLamps_keeps
    | (with_reducible apply keeps_foldl; intro _ _ _)
    | with_reducible apply keeps_ite)

theorem lampFrames_keeps {s0 : State} (c : Call) (p : StrLampSet) (s : State) (h : Keeps s0 s) :
    Keeps s0 (lampFrames c p s) := by
  unfold lampFrames
  try dsimp only
  repeat' (first
    | with_reducible assumption
    | with_reducible apply ctrlQueue_keeps
    | with_reducible apply ctrlNext_keeps
    | with_reducible apply lampApply_keeps
    | with_reducible apply keeps_ite)

theorem execStrLampSet_keeps {s0 : State} (c : Call) (p : StrLampSet) (s : State) (h : Keeps s0 s) :
    OutKeeps s0 (execStrLampSet c p s) := by
  unfold execStrLampSet
  try dsimp only
  repeat' (first
    | with_reducible assumption
    | with_reducible refine command_keeps _ _ _ _ ?_ (fun _ _ => ?_)
    | with_reducible apply refuse_keeps
    | with_reducible apply lampFrames_keeps
    | with_reducible apply OutKeeps.ite
    | with_reducible apply keeps_ite
    | with_reducible apply OutKeeps.next
    | fail_if_no_progress with_reducible refine keeps_mk ?_ (timeOn rfl rfl rfl rfl rfl)
    | (intro _ _)
    | dsimp only
    | split)

theorem execStrLaneSet_keeps {s0 : State} (c : Call) (p : StrLaneSet) (s : State) (h : Keeps s0 s) :
    OutKeeps s0 (execStrLaneSet c p s) := by
  unfold execStrLaneSet
  try dsimp only
  repeat' (first
    | with_reducible assumption
    | with_reducible apply configMessage_keeps)

theorem execStrFaultGet_keeps {s0 : State} (c : Call) (first : Nat) (count : Nat) (s : State) (h : Keeps s0 s) :
    OutKeeps s0 (execStrFaultGet c first count s) := by
  unfold execStrFaultGet
  try dsimp only
  repeat' (first
    | with_reducible assumption
    | with_reducible refine command_keeps _ _ _ _ ?_ (fun _ _ => ?_)
    | with_reducible apply refuse_keeps
    | with_reducible apply answer_keeps
    | with_reducible apply OutKeeps.ite
    | with_reducible apply keeps_ite
    | with_reducible apply OutKeeps.next
    | fail_if_no_progress with_reducible refine keeps_mk ?_ (timeOn rfl rfl rfl rfl rfl)
    | (intro _ _)
    | dsimp only
    | split)

theorem ctrlComplete_keeps {s0 : State} (l : Nat) (c : Ctrl) (data : Word) (status : Nat) (s : State) (h : Keeps s0 s) :
    Keeps s0 (ctrlComplete l c data status s) := by
  unfold ctrlComplete
  try dsimp only
  repeat' (first
    | with_reducible assumption
    | with_reducible apply respondOwed_keeps
    | with_reducible apply chipForget_keeps
    | with_reducible apply modLane_keeps
    | with_reducible apply modChip_keeps
    | with_reducible apply provision_keeps
    | with_reducible apply chipEpochReport_keeps
    | with_reducible apply mapDone_keeps
    | with_reducible apply sumReturn_keeps
    | with_reducible apply keeps_ite
    | fail_if_no_progress with_reducible refine keeps_mk ?_ (timeOn rfl rfl rfl rfl rfl)
    | (intro _ _)
    | dsimp only
    | split)

theorem mapBroken_keeps {s0 : State} (l : Nat) (c : Ctrl) (s : State) (h : Keeps s0 s) :
    Keeps s0 (mapBroken l c s) := by
  unfold mapBroken
  try dsimp only
  repeat' (first
    | with_reducible assumption
    | with_reducible apply modLane_keeps
    | with_reducible apply modChip_keeps
    | with_reducible apply keeps_ite
    | fail_if_no_progress with_reducible refine keeps_mk ?_ (timeOn rfl rfl rfl rfl rfl)
    | (intro _ _)
    | dsimp only
    | split)

theorem commitLost_keeps {s0 : State} (l : Nat) (c : Ctrl) (s : State) (h : Keeps s0 s) :
    Keeps s0 (commitLost l c s) := by
  unfold commitLost
  try dsimp only
  repeat' (first
    | with_reducible assumption
    | with_reducible apply modChip_keeps
    | with_reducible apply provision_keeps
    | fail_if_no_progress with_reducible refine keeps_mk ?_ (timeOn rfl rfl rfl rfl rfl)
    | (intro _ _)
    | dsimp only
    | split)

theorem ctrlClear_keeps {s0 : State} (l : Nat) (s : State) (h : Keeps s0 s) :
    Keeps s0 (ctrlClear l s) := by
  unfold ctrlClear
  try dsimp only
  repeat' (first
    | with_reducible assumption
    | with_reducible apply modLane_keeps)

theorem ctrlRetry_keeps {s0 : State} (l : Nat) (c : Ctrl) (status : Nat) (s : State) (h : Keeps s0 s) :
    Keeps s0 (ctrlRetry l c status s) := by
  unfold ctrlRetry
  try dsimp only
  repeat' (first
    | with_reducible assumption
    | with_reducible apply bump_keeps
    | with_reducible apply setFlag_keeps
    | with_reducible apply notify_keeps
    | with_reducible apply modLane_keeps
    | with_reducible apply laneSettle_keeps
    | with_reducible apply ctrlFailed_keeps
    | with_reducible apply ctrlNext_keeps
    | with_reducible apply mapBroken_keeps
    | with_reducible apply commitLost_keeps
    | with_reducible apply ctrlClear_keeps
    | with_reducible apply keeps_ite
    | fail_if_no_progress with_reducible refine keeps_mk ?_ (timeOn rfl rfl rfl rfl rfl))

theorem ctrlAlive_keeps {s0 : State} (l : Nat) (a : Nat) (s : State) (h : Keeps s0 s) :
    Keeps s0 (ctrlAlive l a s) := by
  unfold ctrlAlive
  try dsimp only
  repeat' (first
    | with_reducible assumption
    | with_reducible apply ledgerEvent_keeps
    | with_reducible apply judgeAlive_keeps
    | with_reducible apply keeps_ite)

theorem ctrlReturn_keeps {s0 : State} (l : Nat) (r : CtrlReturn) (sIn : State) (h : Keeps s0 sIn) :
    Keeps s0 (ctrlReturn l r sIn) := by
  unfold ctrlReturn
  try dsimp only
  repeat' (first
    | with_reducible assumption
    | with_reducible apply bump_keeps
    | with_reducible apply chkRun_keeps
    | with_reducible apply laneSettle_keeps
    | with_reducible apply ctrlFailed_keeps
    | with_reducible apply ctrlNext_keeps
    | with_reducible apply ctrlComplete_keeps
    | with_reducible apply mapBroken_keeps
    | with_reducible apply commitLost_keeps
    | with_reducible apply ctrlClear_keeps
    | with_reducible apply ctrlRetry_keeps
    | with_reducible apply ctrlAlive_keeps
    | with_reducible apply keeps_ite
    | (intro _ _)
    | dsimp only
    | split)

theorem execControlFrameReturn_keeps {s0 : State} (t : Nat) (lane : Fin 32) (r : CtrlReturn) (s : State) (h : Keeps s0 s) :
    OutKeeps s0 (execControlFrameReturn t lane r s) := by
  unfold execControlFrameReturn
  try dsimp only
  repeat' (first
    | with_reducible assumption
    | with_reducible apply advance_keeps
    | with_reducible apply rxErrors_keeps
    | with_reducible apply ctrlReturn_keeps
    | with_reducible apply OutKeeps.ite
    | with_reducible apply OutKeeps.next
    | (intro _ _)
    | dsimp only
    | split)

theorem execControlAckTimeout_keeps {s0 : State} (t : Nat) (lane : Fin 32) (s : State) (h : Keeps s0 s) :
    OutKeeps s0 (execControlAckTimeout t lane s) := by
  unfold execControlAckTimeout
  try dsimp only
  repeat' (first
    | with_reducible assumption
    | with_reducible apply advance_keeps
    | with_reducible apply ctrlNext_keeps
    | with_reducible apply ctrlRetry_keeps
    | with_reducible apply OutKeeps.ite
    | with_reducible apply keeps_ite
    | with_reducible apply OutKeeps.next
    | fail_if_no_progress with_reducible refine keeps_mk ?_ (timeOn rfl rfl rfl rfl rfl)
    | (intro _ _)
    | dsimp only
    | split)

theorem execCollectInterval_keeps {s0 : State} (t : Nat) (s : State) (h : Keeps s0 s) :
    OutKeeps s0 (execCollectInterval t s) := by
  unfold execCollectInterval
  try dsimp only
  repeat' (first
    | with_reducible assumption
    | with_reducible apply advance_keeps
    | with_reducible apply collectSend_keeps
    | with_reducible apply ctrlNext_keeps
    | (with_reducible apply keeps_foldl; intro _ _ _)
    | with_reducible apply OutKeeps.ite
    | with_reducible apply keeps_ite
    | with_reducible apply OutKeeps.next)

theorem laneDropOwed_keeps {s0 : State} (i : Fin 5) (s : State) (h : Keeps s0 s) :
    Keeps s0 (laneDropOwed i s) := by
  unfold laneDropOwed
  try dsimp only
  repeat' (first
    | with_reducible assumption
    | with_reducible apply keeps_ite
    | with_reducible apply OutKeeps.next
    | fail_if_no_progress with_reducible refine keeps_mk ?_ (timeOn rfl rfl rfl rfl rfl))

end Sys2Proof.Laws
end

