-- ==== Sys2Proof/Laws/KeepsCalibrate.lean ====
section
/-! SUPPORT. What every command keeps, for the operations of Machine/Calibrate.lean. -/

namespace Sys2Proof.Laws

open Sys2Proof.Machine Sys2Proof.Safety

theorem modCal_keeps {s0 : State} (f : Cal → Cal) (s : State) (h : Keeps s0 s) :
    Keeps s0 (modCal f s) := by
  unfold modCal
  try dsimp only
  repeat' (first
    | with_reducible assumption
    | with_reducible apply keeps_ite
    | with_reducible apply OutKeeps.next
    | fail_if_no_progress with_reducible refine keeps_mk ?_ (timeOn rfl rfl rfl rfl rfl))

theorem modEntry_keeps {s0 : State} (item : Nat) (index : Nat) (f : CalEntry → CalEntry) (s : State) (h : Keeps s0 s) :
    Keeps s0 (modEntry item index f s) := by
  unfold modEntry
  try dsimp only
  repeat' (first
    | with_reducible assumption
    | with_reducible apply modCal_keeps)

theorem skewFrom_keeps {s0 : State} (at_ : Nat) (l : Nat) (code : Nat) (s : State) (h : Keeps s0 s) :
    Keeps s0 (skewFrom at_ l code s) := by
  unfold skewFrom
  try dsimp only
  repeat' (first
    | with_reducible assumption
    | with_reducible apply setField_keeps
    | with_reducible apply modCal_keeps
    | fail_if_no_progress with_reducible refine keeps_mk ?_ (timeOn rfl rfl rfl rfl rfl))

theorem calApply_keeps {s0 : State} (item : Nat) (index : Nat) (v : Int) (v2 : Int) (s : State) (h : Keeps s0 s) :
    Keeps s0 (calApply item index v v2 s) := by
  unfold calApply
  try dsimp only
  repeat' (first
    | with_reducible assumption
    | with_reducible apply setReg_keeps
    | with_reducible apply setField_keeps
    | with_reducible apply freeTrim_keeps
    | with_reducible apply modEntry_keeps
    | with_reducible apply skewFrom_keeps
    | fail_if_no_progress with_reducible refine keeps_mk ?_ (timeOn rfl rfl rfl rfl rfl)
    | (intro _ _)
    | dsimp only
    | split)

theorem calGiven_keeps {s0 : State} (item : Nat) (index : Nat) (s : State) (h : Keeps s0 s) :
    Keeps s0 (calGiven item index s) := by
  unfold calGiven
  try dsimp only
  repeat' (first
    | with_reducible assumption
    | with_reducible apply modEntry_keeps
    | fail_if_no_progress with_reducible refine keeps_mk ?_ (timeOn rfl rfl rfl rfl rfl))

theorem calFlags_keeps {s0 : State} (item : Nat) (index : Nat) (unstable : Bool) (outOfRange : Bool) (s : State) (h : Keeps s0 s) :
    Keeps s0 (calFlags item index unstable outOfRange s) := by
  unfold calFlags
  try dsimp only
  repeat' (first
    | with_reducible assumption
    | with_reducible apply setField_keeps
    | with_reducible apply modEntry_keeps
    | with_reducible apply keeps_ite)

theorem calNotice_keeps {s0 : State} (item : Nat) (index : Nat) (cause : Nat) (a : Int) (b : Int) (s : State) (h : Keeps s0 s) :
    Keeps s0 (calNotice item index cause a b s) := by
  unfold calNotice
  try dsimp only
  repeat' (first
    | with_reducible assumption
    | with_reducible apply bump_keeps
    | with_reducible apply setFlag_keeps
    | with_reducible apply notify_keeps)

theorem calRun_keeps {s0 : State} (item : Nat) (s : State) (r : CalRun) (h : Keeps s0 s) :
    Keeps s0 (calRun item s r) := by
  unfold calRun
  try dsimp only
  repeat' (first
    | with_reducible assumption
    | with_reducible apply calApply_keeps
    | with_reducible apply calFlags_keeps
    | with_reducible apply calNotice_keeps
    | with_reducible apply keeps_ite)

theorem sectorNotice_keeps {s0 : State} (cause : Nat) (copy : Nat) (gen : Nat) (s : State) (h : Keeps s0 s) :
    Keeps s0 (sectorNotice cause copy gen s) := by
  unfold sectorNotice
  try dsimp only
  repeat' (first
    | with_reducible assumption
    | with_reducible apply setFlag_keeps
    | with_reducible apply notify_keeps)

theorem calShow_keeps {s0 : State} (s : State) (h : Keeps s0 s) :
    Keeps s0 (calShow s) := by
  unfold calShow
  try dsimp only
  repeat' (first
    | with_reducible assumption
    | with_reducible apply setReg_keeps
    | with_reducible apply setReg64_keeps
    | with_reducible apply keeps_ite
    | with_reducible apply OutKeeps.next
    | fail_if_no_progress with_reducible refine keeps_mk ?_ (timeOn rfl rfl rfl rfl rfl)
    | (intro _ _)
    | dsimp only
    | split)

theorem calLoad_keeps {s0 : State} (s : State) (h : Keeps s0 s) :
    Keeps s0 (calLoad s) := by
  unfold calLoad
  try dsimp only
  repeat' (first
    | with_reducible assumption
    | with_reducible apply modCal_keeps
    | with_reducible apply modEntry_keeps
    | with_reducible apply calApply_keeps
    | with_reducible apply calShow_keeps
    | (with_reducible apply keeps_foldl; intro _ _ _)
    | with_reducible apply keeps_ite
    | with_reducible apply keeps_ite_fst
    | fail_if_no_progress with_reducible refine keeps_mk ?_ (timeOn rfl rfl rfl rfl rfl)
    | (intro _ _)
    | dsimp only
    | split)

theorem calReady_keeps {s0 : State} (s : State) (h : Keeps s0 s) :
    Keeps s0 (calReady s) := by
  unfold calReady
  try dsimp only
  repeat' (first
    | with_reducible assumption
    | with_reducible apply calLoad_keeps
    | with_reducible apply keeps_ite)

theorem calTell_keeps {s0 : State} (s : State) (h : Keeps s0 s) :
    Keeps s0 (calTell s) := by
  unfold calTell
  try dsimp only
  repeat' (first
    | with_reducible assumption
    | with_reducible apply sectorNotice_keeps
    | (with_reducible apply keeps_foldl; intro _ _ _)
    | (intro _ _)
    | dsimp only
    | split)

theorem calWriteStart_keeps {s0 : State} (pass : Bool) (s : State) (h : Keeps s0 s) :
    Keeps s0 (calWriteStart pass s) := by
  unfold calWriteStart
  try dsimp only
  repeat' (first
    | with_reducible assumption
    | with_reducible apply modCal_keeps
    | with_reducible apply keeps_ite
    | fail_if_no_progress with_reducible refine keeps_mk ?_ (timeOn rfl rfl rfl rfl rfl)
    | (intro _ _)
    | dsimp only
    | split)

theorem calSag_keeps {s0 : State} (s : State) (h : Keeps s0 s) :
    Keeps s0 (calSag s) := by
  unfold calSag
  try dsimp only
  repeat' (first
    | with_reducible assumption
    | with_reducible apply bump_keeps
    | with_reducible apply modCal_keeps
    | with_reducible apply sectorNotice_keeps
    | with_reducible apply keeps_ite
    | with_reducible apply OutKeeps.next
    | fail_if_no_progress with_reducible refine keeps_mk ?_ (timeOn rfl rfl rfl rfl rfl)
    | (intro _ _)
    | dsimp only
    | split)

theorem calResume_keeps {s0 : State} (s : State) (h : Keeps s0 s) :
    Keeps s0 (calResume s) := by
  unfold calResume
  try dsimp only
  repeat' (first
    | with_reducible assumption
    | with_reducible apply modCal_keeps
    | with_reducible apply keeps_ite
    | with_reducible apply OutKeeps.next
    | fail_if_no_progress with_reducible refine keeps_mk ?_ (timeOn rfl rfl rfl rfl rfl)
    | (intro _ _)
    | dsimp only
    | split)

theorem calDrop_keeps {s0 : State} (s : State) (h : Keeps s0 s) :
    Keeps s0 (calDrop s) := by
  unfold calDrop
  try dsimp only
  repeat' (first
    | with_reducible assumption
    | with_reducible apply modCal_keeps
    | with_reducible apply keeps_ite
    | fail_if_no_progress with_reducible refine keeps_mk ?_ (timeOn rfl rfl rfl rfl rfl)
    | (intro _ _)
    | dsimp only
    | split)

theorem passEnd_keeps {s0 : State} (result : Nat) (gen : Option Word) (s : State) (h : Keeps s0 s) :
    Keeps s0 (passEnd result gen s) := by
  unfold passEnd
  try dsimp only
  repeat' (first
    | with_reducible assumption
    | with_reducible apply bump_keeps
    | with_reducible apply setFlag_keeps
    | with_reducible apply respondOwed_keeps
    | with_reducible apply notify_keeps
    | with_reducible apply modCal_keeps
    | with_reducible apply keeps_ite
    | with_reducible apply OutKeeps.next
    | fail_if_no_progress with_reducible refine keeps_mk ?_ (timeOn rfl rfl rfl rfl rfl)
    | (intro _ _)
    | dsimp only
    | split)

theorem passGo_keeps {s0 : State} (fuel : Nat) (s : State) (h : Keeps s0 s) : Keeps s0 (passGo fuel s) := by
  induction fuel generalizing s with
  | zero => exact h
  | succ n ih =>
    cases hp : s.cal.pass with
    | none =>
      unfold passGo
      simpa only [hp] using h
    | some p =>
      unfold passGo
      simp only [hp]
      split
      · split
        · exact calWriteStart_keeps _ _ h
        · exact passEnd_keeps _ _ _ h
      · split
        · exact h
        · exact ih _ (keeps_foldl (fun x a hx => modEntry_keeps _ _ _ _ hx) (modCal_keeps _ _ h))

theorem passAbort_keeps {s0 : State} (s : State) (h : Keeps s0 s) :
    Keeps s0 (passAbort s) := by
  unfold passAbort
  try dsimp only
  repeat' (first
    | with_reducible assumption
    | with_reducible apply modCal_keeps
    | with_reducible apply passEnd_keeps
    | fail_if_no_progress with_reducible refine keeps_mk ?_ (timeOn rfl rfl rfl rfl rfl)
    | (intro _ _)
    | dsimp only
    | split)

theorem calItemDone_keeps {s0 : State} (item : Nat) (inPass : Bool) (runs : List CalRun) (s : State) (h : Keeps s0 s) :
    Keeps s0 (calItemDone item inPass runs s) := by
  unfold calItemDone
  try dsimp only
  repeat' (first
    | with_reducible assumption
    | with_reducible apply modCal_keeps
    | with_reducible apply modEntry_keeps
    | with_reducible apply calRun_keeps
    | with_reducible apply calReady_keeps
    | with_reducible apply passGo_keeps
    | (with_reducible apply keeps_foldl; intro _ _ _)
    | with_reducible apply keeps_ite
    | fail_if_no_progress with_reducible refine keeps_mk ?_ (timeOn rfl rfl rfl rfl rfl)
    | (intro _ _)
    | dsimp only
    | split)

theorem execCalItemDone_keeps {s0 : State} (t : Nat) (item : Nat) (inPass : Bool) (runs : List CalRun) (s : State) (h : Keeps s0 s) :
    OutKeeps s0 (execCalItemDone t item inPass runs s) := by
  unfold execCalItemDone
  try dsimp only
  repeat' (first
    | with_reducible assumption
    | with_reducible apply advance_keeps
    | with_reducible apply calItemDone_keeps
    | with_reducible apply OutKeeps.ite
    | with_reducible apply keeps_ite
    | with_reducible apply OutKeeps.next)

theorem calWritten_keeps {s0 : State} (utc : Nat) (s : State) (h : Keeps s0 s) :
    Keeps s0 (calWritten utc s) := by
  unfold calWritten
  try dsimp only
  repeat' (first
    | with_reducible assumption
    | with_reducible apply modCal_keeps
    | with_reducible apply calShow_keeps
    | with_reducible apply passEnd_keeps
    | with_reducible apply keeps_ite
    | with_reducible apply OutKeeps.next
    | fail_if_no_progress with_reducible refine keeps_mk ?_ (timeOn rfl rfl rfl rfl rfl)
    | (intro _ _)
    | dsimp only
    | split)

theorem execCalSectorWriteDone_keeps {s0 : State} (t : Nat) (utc : Nat) (s : State) (h : Keeps s0 s) :
    OutKeeps s0 (execCalSectorWriteDone t utc s) := by
  unfold execCalSectorWriteDone
  try dsimp only
  repeat' (first
    | with_reducible assumption
    | with_reducible apply advance_keeps
    | with_reducible apply calWritten_keeps
    | with_reducible apply OutKeeps.ite
    | with_reducible apply keeps_ite
    | with_reducible apply OutKeeps.next)

theorem skewStep_keeps {s0 : State} (l : Nat) (s : State) (h : Keeps s0 s) :
    Keeps s0 (skewStep l s) := by
  unfold skewStep
  try dsimp only
  repeat' (first
    | with_reducible assumption
    | with_reducible apply setField_keeps
    | with_reducible apply modCal_keeps
    | with_reducible apply keeps_ite
    | with_reducible apply OutKeeps.next
    | fail_if_no_progress with_reducible refine keeps_mk ?_ (timeOn rfl rfl rfl rfl rfl)
    | (intro _ _)
    | dsimp only
    | split)

theorem execLaneSkewStep_keeps {s0 : State} (t : Nat) (lane : Fin 32) (s : State) (h : Keeps s0 s) :
    OutKeeps s0 (execLaneSkewStep t lane s) := by
  unfold execLaneSkewStep
  try dsimp only
  repeat' (first
    | with_reducible assumption
    | with_reducible apply advance_keeps
    | with_reducible apply skewStep_keeps
    | with_reducible apply OutKeeps.ite
    | with_reducible apply keeps_ite
    | with_reducible apply OutKeeps.next)

theorem execCalRun_keeps {s0 : State} (c : Call) (mask : Nat) (flags : Nat) (lanes : Nat) (s : State) (h : Keeps s0 s) :
    OutKeeps s0 (execCalRun c mask flags lanes s) := by
  unfold execCalRun
  try dsimp only
  repeat' (first
    | with_reducible assumption
    | with_reducible apply respond_keeps
    | with_reducible refine command_keeps _ _ _ _ ?_ (fun _ _ => ?_)
    | with_reducible apply refuse_keeps
    | with_reducible apply accept_keeps
    | with_reducible apply modCal_keeps
    | with_reducible apply passGo_keeps
    | with_reducible apply OutKeeps.ite
    | with_reducible apply keeps_ite
    | with_reducible apply OutKeeps.next
    | fail_if_no_progress with_reducible refine keeps_mk ?_ (timeOn rfl rfl rfl rfl rfl)
    | (intro _ _)
    | dsimp only
    | split)

theorem execCalAbort_keeps {s0 : State} (c : Call) (s : State) (h : Keeps s0 s) :
    OutKeeps s0 (execCalAbort c s) := by
  unfold execCalAbort
  try dsimp only
  repeat' (first
    | with_reducible assumption
    | with_reducible refine command_keeps _ _ _ _ ?_ (fun _ _ => ?_)
    | with_reducible apply refuse_keeps
    | with_reducible apply accept_keeps
    | with_reducible apply passAbort_keeps
    | with_reducible apply OutKeeps.ite
    | with_reducible apply keeps_ite
    | with_reducible apply OutKeeps.next
    | fail_if_no_progress with_reducible refine keeps_mk ?_ (timeOn rfl rfl rfl rfl rfl)
    | (intro _ _)
    | dsimp only
    | split)

theorem execCalStatusGet_keeps {s0 : State} (c : Call) (s : State) (h : Keeps s0 s) :
    OutKeeps s0 (execCalStatusGet c s) := by
  unfold execCalStatusGet
  try dsimp only
  repeat' (first
    | with_reducible assumption
    | with_reducible refine command_keeps _ _ _ _ ?_ (fun _ _ => ?_)
    | with_reducible apply answer_keeps)

theorem execCalItemGet_keeps {s0 : State} (c : Call) (item : Nat) (first : Nat) (s : State) (h : Keeps s0 s) :
    OutKeeps s0 (execCalItemGet c item first s) := by
  unfold execCalItemGet
  try dsimp only
  repeat' (first
    | with_reducible assumption
    | with_reducible refine command_keeps _ _ _ _ ?_ (fun _ _ => ?_)
    | with_reducible apply refuse_keeps
    | with_reducible apply answer_keeps
    | with_reducible apply OutKeeps.ite
    | with_reducible apply keeps_ite
    | with_reducible apply OutKeeps.next
    | fail_if_no_progress with_reducible refine keeps_mk ?_ (timeOn rfl rfl rfl rfl rfl)
    | (intro _ _)
    | dsimp only
    | split)

end Sys2Proof.Laws
end

