-- ==== Sys2Proof/Laws/KeepsLedger.lean ====
section
/-! SUPPORT. What every command keeps, for the operations of Machine/Ledger.lean. -/

namespace Sys2Proof.Laws

open Sys2Proof.Machine Sys2Proof.Safety

theorem modLgr_keeps {s0 : State} (f : Ledger → Ledger) (s : State) (h : Keeps s0 s) (hf : LedgerWf s.lgr → LedgerWf (f s.lgr)) :
    Keeps s0 (modLgr f s) :=
  keeps_lgr h hf

theorem putRecord_keeps {s0 : State} (r : LgrRec) (s : State) (h : Keeps s0 s) : Keeps s0 (putRecord r s) := by
  have hb := fun x hx => bump_keeps (s0 := s0) R.LGR_CNT_REC _ (setReg_keeps R.LGR_NEXT_SEQ (reg s R.LGR_NEXT_SEQ + 1) x hx)
  unfold putRecord
  dsimp only
  split
  · split
    · refine hb _ (modLgr_keeps _ _ h fun x => ⟨x.1, ?_⟩)
      rw [List.length_append]
      exact Nat.succ_le_of_lt ‹_›
    · exact setFlag_keeps _ _ _ (bump_keeps _ _ (modLgr_keeps _ _ h fun x => x))
  · split
    · refine hb _ (modLgr_keeps _ _ h fun x => ⟨?_, x.2⟩)
      rw [List.length_append]
      exact Nat.succ_le_of_lt ‹_›
    · exact setFlag_keeps _ _ _ (bump_keeps _ _ (modLgr_keeps _ _ h fun x => x))

theorem putEvent_keeps {s0 : State} (code : Nat) (fields : List Int) (s : State) (h : Keeps s0 s) :
    Keeps s0 (putEvent code fields s) := by
  unfold putEvent
  try dsimp only
  repeat' (first
    | with_reducible assumption
    | with_reducible apply putRecord_keeps
    | (with_reducible apply keeps_foldl; intro _ _ _))

theorem setTracker_keeps {s0 : State} (i : Nat) (x : Tracker) (s : State) (h : Keeps s0 s) :
    Keeps s0 (setTracker i x s) := by
  unfold setTracker
  try dsimp only
  repeat' (first
    | with_reducible assumption
    | with_reducible apply modLgr_keeps
    | exact fun (x : LedgerWf _) => x)

theorem execTrackerTokenGain_keeps {s0 : State} (t : Nat) (tracker_ : Fin 512) (s : State) (h : Keeps s0 s) :
    OutKeeps s0 (execTrackerTokenGain t tracker_ s) := by
  unfold execTrackerTokenGain
  try dsimp only
  repeat' (first
    | with_reducible assumption
    | with_reducible apply advance_keeps
    | with_reducible apply setTracker_keeps
    | with_reducible apply OutKeeps.ite
    | with_reducible apply keeps_ite
    | with_reducible apply OutKeeps.next)

theorem summarize_keeps {s0 : State} (i : Nat) (s : State) (h : Keeps s0 s) :
    Keeps s0 (summarize i s) := by
  unfold summarize
  try dsimp only
  repeat' (first
    | with_reducible assumption
    | with_reducible apply putEvent_keeps
    | with_reducible apply setTracker_keeps
    | with_reducible apply keeps_ite)

theorem flushStart_keeps {s0 : State} (all : Bool) (owed : List Call) (s : State) (h : Keeps s0 s) :
    Keeps s0 (flushStart all owed s) := by
  unfold flushStart
  try dsimp only
  repeat' (first
    | with_reducible assumption
    | with_reducible apply modLgr_keeps
    | exact fun (x : LedgerWf _) => x
    | with_reducible apply summarize_keeps
    | (with_reducible apply keeps_foldl; intro _ _ _)
    | with_reducible apply keeps_ite
    | fail_if_no_progress with_reducible refine keeps_mk ?_ (timeOn rfl rfl rfl rfl rfl)
    | (intro _ _)
    | dsimp only
    | split)

theorem lossNotice_keeps {s0 : State} (cause : Nat) (n : Nat) (s : State) (h : Keeps s0 s) :
    Keeps s0 (lossNotice cause n s) := by
  unfold lossNotice
  try dsimp only
  repeat' (first
    | with_reducible assumption
    | with_reducible apply setFlag_keeps
    | with_reducible apply notify_keeps)

theorem flushFault_keeps {s0 : State} (s : State) (h : Keeps s0 s) :
    Keeps s0 (flushFault s) := by
  unfold flushFault
  try dsimp only
  repeat' (first
    | with_reducible assumption
    | with_reducible apply setFlag_keeps
    | with_reducible apply internalAnswer_keeps
    | with_reducible apply modLgr_keeps
    | exact fun (x : LedgerWf _) => x
    | with_reducible apply lossNotice_keeps
    | (with_reducible apply keeps_foldl; intro _ _ _)
    | fail_if_no_progress with_reducible refine keeps_mk ?_ (timeOn rfl rfl rfl rfl rfl))

/-- Records that a failed write leaves are no more than were to be written. -/
theorem writeAll_left (fails : Nat) (rs : List LgrRec) (bad : List Bool) (l : Ledger) {left : List LgrRec}
    (h : (writeAll fails rs bad l).2 = some left) : left.length ≤ rs.length := by
  induction rs generalizing fails bad l with
  | nil => simp [writeAll] at h
  | cons r t ih =>
    unfold writeAll at h
    split at h
    · exact Nat.le_succ_of_le (ih _ _ _ h)
    · simp only [Option.some.injEq] at h
      exact h ▸ Nat.le_refl _

theorem filter_split {α : Type} (p : α → Bool) (l : List α) : (l.filter p).length + (l.filter (fun x => !p x)).length = l.length := by
  induction l with
  | nil => rfl
  | cons a r ih =>
    simp only [List.filter_cons]
    cases p a <;> simp <;> omega

theorem flushRun_keeps {s0 : State} (bad : List Bool) (s : State) (h : Keeps s0 s) : Keeps s0 (flushRun bad s) := by
  unfold flushRun
  split
  · exact h
  · rename_i f _
    dsimp only
    have hw := fun left => writeAll_left (left := left) 0 (s.lgr.buffer.filter (fun r => f.all || seqBelow r.seq f.below) ++ if f.all then s.lgr.side else []) bad s.lgr
    have hs := filter_split (fun r : LgrRec => f.all || seqBelow r.seq f.below) s.lgr.buffer
    split
    · refine modLgr_keeps _ _ h fun x => ⟨?_, ?_⟩
      · exact Nat.le_trans (List.length_filter_le _ _) x.1
      · dsimp only
        split
        · exact Nat.zero_le _
        · exact x.2
    · rename_i rs e
      have hw := hw _ e
      rw [List.length_append] at hw
      refine flushFault_keeps _ (modLgr_keeps _ _ h fun x => ⟨?_, ?_⟩)
      · dsimp only
        rw [List.length_append, List.length_take]
        have := x.1
        omega
      · dsimp only
        have := x.2
        split
        · rename_i ha
          simp only [ha, if_true, List.length_drop] at hw ⊢
          omega
        · exact x.2

theorem reportDropped_keeps {s0 : State} (s : State) (h : Keeps s0 s) :
    Keeps s0 (reportDropped s) := by
  unfold reportDropped
  try dsimp only
  repeat' (first
    | with_reducible assumption
    | with_reducible apply modLgr_keeps
    | with_reducible apply putEvent_keeps
    | with_reducible apply lossNotice_keeps
    | exact fun (x : LedgerWf _) => x
    | with_reducible apply keeps_ite)

theorem flushDone_keeps {s0 : State} (s : State) (h : Keeps s0 s) :
    Keeps s0 (flushDone s) := by
  unfold flushDone
  try dsimp only
  repeat' (first
    | with_reducible assumption
    | with_reducible apply bump_keeps
    | with_reducible apply setFlag_keeps
    | with_reducible apply respond_keeps
    | with_reducible apply modLgr_keeps
    | exact fun (x : LedgerWf _) => x
    | with_reducible apply flushStart_keeps
    | with_reducible apply reportDropped_keeps
    | (with_reducible apply keeps_foldl; intro _ _ _)
    | with_reducible apply keeps_ite
    | fail_if_no_progress with_reducible refine keeps_mk ?_ (timeOn rfl rfl rfl rfl rfl)
    | (intro _ _)
    | dsimp only
    | split)

theorem flushNow_keeps {s0 : State} (s : State) (h : Keeps s0 s) :
    Keeps s0 (flushNow s) := by
  unfold flushNow
  try dsimp only
  repeat' (first
    | with_reducible assumption
    | with_reducible apply flushStart_keeps
    | with_reducible apply flushRun_keeps
    | with_reducible apply flushDone_keeps)

theorem execLedgerFlushPeriod_keeps {s0 : State} (t : Nat) (s : State) (h : Keeps s0 s) :
    OutKeeps s0 (execLedgerFlushPeriod t s) := by
  unfold execLedgerFlushPeriod
  try dsimp only
  repeat' (first
    | with_reducible assumption
    | with_reducible apply advance_keeps
    | with_reducible apply flushStart_keeps
    | with_reducible apply OutKeeps.ite
    | with_reducible apply keeps_ite
    | with_reducible apply OutKeeps.next)

theorem recordEvent_keeps {s0 : State} (code : Nat) (fields : List Int) (s : State) (h : Keeps s0 s) :
    Keeps s0 (recordEvent code fields s) := by
  unfold recordEvent
  try dsimp only
  repeat' (first
    | with_reducible assumption
    | with_reducible apply bump_keeps
    | with_reducible apply putEvent_keeps
    | with_reducible apply setTracker_keeps
    | with_reducible apply summarize_keeps
    | with_reducible apply flushStart_keeps
    | with_reducible apply keeps_ite)

theorem recordOffer_keeps {s0 : State} (s : State) (h : Keeps s0 s) :
    Keeps s0 (recordOffer s) := by
  unfold recordOffer
  try dsimp only
  repeat' (first
    | with_reducible assumption
    | with_reducible apply recordEvent_keeps
    | with_reducible apply keeps_ite
    | with_reducible apply OutKeeps.next
    | fail_if_no_progress with_reducible refine keeps_mk ?_ (timeOn rfl rfl rfl rfl rfl)
    | (intro _ _)
    | dsimp only
    | split)

theorem execLedgerRecordOffer_keeps {s0 : State} (t : Nat) (s : State) (h : Keeps s0 s) :
    OutKeeps s0 (execLedgerRecordOffer t s) := by
  unfold execLedgerRecordOffer
  try dsimp only
  repeat' (first
    | with_reducible assumption
    | with_reducible apply advance_keeps
    | with_reducible apply recordOffer_keeps
    | with_reducible apply OutKeeps.ite
    | with_reducible apply keeps_ite
    | with_reducible apply OutKeeps.next)

theorem recordAll_keeps {s0 : State} (fuel : Nat) (s : State) (h : Keeps s0 s) : Keeps s0 (recordAll fuel s) := by
  induction fuel generalizing s with
  | zero => exact h
  | succ n ih =>
    unfold recordAll
    split
    · exact h
    · exact ih _ (recordOffer_keeps _ h)

theorem reportSide_keeps {s0 : State} (n : Nat) (s : State) (h : Keeps s0 s) :
    Keeps s0 (reportSide n s) := by
  unfold reportSide
  try dsimp only
  repeat' (first
    | with_reducible assumption
    | with_reducible apply putEvent_keeps
    | with_reducible apply lossNotice_keeps
    | with_reducible apply keeps_ite)

theorem thawSag_keeps {s0 : State} (s : State) (h : Keeps s0 s) :
    Keeps s0 (thawSag s) := by
  unfold thawSag
  try dsimp only
  repeat' (first
    | with_reducible assumption
    | with_reducible apply setFlag_keeps
    | with_reducible apply modLgr_keeps
    | exact fun (x : LedgerWf _) => x
    | with_reducible apply reportSide_keeps
    | with_reducible apply keeps_ite
    | fail_if_no_progress with_reducible refine keeps_mk ?_ (timeOn rfl rfl rfl rfl rfl))

theorem thawed_keeps {s0 : State} (s : State) (h : Keeps s0 s) :
    Keeps s0 (thawed s) := by
  unfold thawed
  try dsimp only
  repeat' (first
    | with_reducible assumption
    | with_reducible apply flushStart_keeps
    | with_reducible apply reportDropped_keeps
    | with_reducible apply keeps_ite)

theorem thaw_keeps {s0 : State} (s : State) (h : Keeps s0 s) : Keeps s0 (thaw s) := by
  have hm : ∀ n d, Keeps s0 (modLgr (fun l => { l with
      freeze := none, buffer := l.buffer ++ l.side.take (1024 - s.lgr.buffer.length), side := [], sideDropped := n, dropped := l.dropped + d }) s) :=
    fun n d => modLgr_keeps _ _ h fun x => ⟨by
      have := x.1
      simp only [List.length_append, List.length_take]
      omega, Nat.zero_le _⟩
  unfold thaw
  split
  · exact h
  · dsimp only
    exact thawed_keeps _ (reportSide_keeps _ _ (bumpBy_keeps _ _ _ (setFlag_keeps _ _ _ (hm _ _))))

theorem execFreezeTimeout_keeps {s0 : State} (t : Nat) (s : State) (h : Keeps s0 s) :
    OutKeeps s0 (execFreezeTimeout t s) := by
  unfold execFreezeTimeout
  try dsimp only
  repeat' (first
    | with_reducible assumption
    | with_reducible apply advance_keeps
    | with_reducible apply thaw_keeps
    | with_reducible apply OutKeeps.ite
    | with_reducible apply keeps_ite
    | with_reducible apply OutKeeps.next
    | fail_if_no_progress with_reducible refine keeps_mk ?_ (timeOn rfl rfl rfl rfl rfl)
    | (intro _ _)
    | dsimp only
    | split)

theorem lgrGone_keeps {s0 : State} (i : Fin 5) (s : State) (h : Keeps s0 s) :
    Keeps s0 (lgrGone i s) := by
  unfold lgrGone
  try dsimp only
  repeat' (first
    | with_reducible assumption
    | with_reducible apply modLgr_keeps
    | exact fun (x : LedgerWf _) => x
    | with_reducible apply thaw_keeps
    | with_reducible apply keeps_ite
    | fail_if_no_progress with_reducible refine keeps_mk ?_ (timeOn rfl rfl rfl rfl rfl)
    | (intro _ _)
    | dsimp only
    | split)

theorem execLedgerFreeze_keeps {s0 : State} (c : Call) (action : Nat) (limit : Nat) (s : State) (h : Keeps s0 s) :
    OutKeeps s0 (execLedgerFreeze c action limit s) := by
  unfold execLedgerFreeze
  try dsimp only
  repeat' (first
    | with_reducible assumption
    | with_reducible refine command_keeps _ _ _ _ ?_ (fun _ _ => ?_)
    | with_reducible apply refuse_keeps
    | with_reducible apply accept_keeps
    | with_reducible apply modLgr_keeps
    | with_reducible apply thaw_keeps
    | exact fun (x : LedgerWf _) => x
    | with_reducible apply OutKeeps.ite
    | with_reducible apply keeps_ite
    | with_reducible apply OutKeeps.next
    | fail_if_no_progress with_reducible refine keeps_mk ?_ (timeOn rfl rfl rfl rfl rfl)
    | (intro _ _)
    | dsimp only
    | split)

theorem execLedgerRead_keeps {s0 : State} (c : Call) (first : Word) (count : Nat) (s : State) (h : Keeps s0 s) :
    OutKeeps s0 (execLedgerRead c first count s) := by
  unfold execLedgerRead
  try dsimp only
  repeat' (first
    | with_reducible assumption
    | with_reducible refine command_keeps _ _ _ _ ?_ (fun _ _ => ?_)
    | with_reducible apply refuse_keeps
    | with_reducible apply answer_keeps
    | with_reducible apply OutKeeps.ite
    | with_reducible apply keeps_ite
    | with_reducible apply OutKeeps.next
    | fail_if_no_progress with_reducible refine keeps_mk ?_ (timeOn rfl rfl rfl rfl rfl)
    | (intro _ _)
    | dsimp only
    | split)

theorem execLedgerStatusGet_keeps {s0 : State} (c : Call) (s : State) (h : Keeps s0 s) :
    OutKeeps s0 (execLedgerStatusGet c s) := by
  unfold execLedgerStatusGet
  try dsimp only
  repeat' (first
    | with_reducible assumption
    | with_reducible refine command_keeps _ _ _ _ ?_ (fun _ _ => ?_)
    | with_reducible apply answer_keeps)

theorem execLedgerChallenge_keeps {s0 : State} (c : Call) (s : State) (h : Keeps s0 s) :
    OutKeeps s0 (execLedgerChallenge c s) := by
  unfold execLedgerChallenge
  try dsimp only
  repeat' (first
    | with_reducible assumption
    | with_reducible apply draw_keeps
    | with_reducible refine command_keeps _ _ _ _ ?_ (fun _ _ => ?_)
    | with_reducible apply answer_keeps
    | with_reducible apply unauth_keeps
    | with_reducible apply drbgRequest_keeps
    | with_reducible apply modLgr_keeps
    | exact fun (x : LedgerWf _) => x
    | with_reducible apply OutKeeps.ite
    | with_reducible apply keeps_ite
    | with_reducible apply keeps_ite_fst
    | with_reducible apply OutKeeps.next
    | fail_if_no_progress with_reducible refine keeps_mk ?_ (timeOn rfl rfl rfl rfl rfl)
    | (intro _ _)
    | dsimp only
    | split)

theorem applyClear_keeps {s0 : State} (slot : Nat) (s : State) (h : Keeps s0 s) : Keeps s0 (applyClear slot s) := by
  unfold applyClear
  dsimp only
  refine notify_keeps _ _ _ _ (setFlag_keeps _ _ _ (modLgr_keeps _ _ (setReg_keeps _ _ _ (setReg_keeps _ _ _ h)) fun x => ⟨?_, x.2⟩))
  exact Nat.le_trans (List.length_filter_le _ _) x.1

theorem execLedgerClear_keeps {s0 : State} (c : Call) (token : ClearToken) (s : State) (h : Keeps s0 s) :
    OutKeeps s0 (execLedgerClear c token s) := by
  unfold execLedgerClear
  try dsimp only
  repeat' (first
    | with_reducible assumption
    | with_reducible refine command_keeps _ _ _ _ ?_ (fun _ _ => ?_)
    | with_reducible apply refuse_keeps
    | with_reducible apply accept_keeps
    | with_reducible apply unauth_keeps
    | with_reducible apply sigFail_keeps
    | with_reducible apply recordAll_keeps
    | with_reducible apply applyClear_keeps
    | with_reducible apply OutKeeps.ite
    | with_reducible apply keeps_ite
    | with_reducible apply keeps_ite_fst
    | with_reducible apply OutKeeps.next
    | (intro _ _)
    | dsimp only
    | split)

theorem execLedgerLimitSet_keeps {s0 : State} (c : Call) (code : Nat) (r : Nat) (b : Nat) (s : State) (h : Keeps s0 s) :
    OutKeeps s0 (execLedgerLimitSet c code r b s) := by
  unfold execLedgerLimitSet
  try dsimp only
  repeat' (first
    | with_reducible assumption
    | with_reducible refine command_keeps _ _ _ _ ?_ (fun _ _ => ?_)
    | with_reducible apply refuse_keeps
    | with_reducible apply accept_keeps
    | with_reducible apply setTracker_keeps
    | with_reducible apply OutKeeps.ite
    | with_reducible apply keeps_ite
    | with_reducible apply OutKeeps.next
    | fail_if_no_progress with_reducible refine keeps_mk ?_ (timeOn rfl rfl rfl rfl rfl)
    | (intro _ _)
    | dsimp only
    | split)

theorem execLedgerFlush_keeps {s0 : State} (c : Call) (s : State) (h : Keeps s0 s) :
    OutKeeps s0 (execLedgerFlush c s) := by
  unfold execLedgerFlush
  try dsimp only
  repeat' (first
    | with_reducible assumption
    | with_reducible refine command_keeps _ _ _ _ ?_ (fun _ _ => ?_)
    | with_reducible apply refuse_keeps
    | with_reducible apply flushStart_keeps
    | with_reducible apply OutKeeps.ite
    | with_reducible apply keeps_ite
    | with_reducible apply OutKeeps.next
    | fail_if_no_progress with_reducible refine keeps_mk ?_ (timeOn rfl rfl rfl rfl rfl)
    | (intro _ _)
    | dsimp only
    | split)

theorem scanRun_keeps {s0 : State} (s : State) (h : Keeps s0 s) :
    Keeps s0 (scanRun s) := by
  unfold scanRun
  try dsimp only
  repeat' (first
    | with_reducible assumption
    | with_reducible apply chkRun_keeps
    | (intro _ _)
    | dsimp only
    | split)

theorem lgrScan_keeps {s0 : State} (s : State) (h : Keeps s0 s) :
    Keeps s0 (lgrScan s) := by
  unfold lgrScan
  try dsimp only
  repeat' (first
    | with_reducible assumption
    | with_reducible apply setReg_keeps
    | with_reducible apply modLgr_keeps
    | exact fun (x : LedgerWf _) => x
    | with_reducible apply summarize_keeps
    | with_reducible apply flushStart_keeps
    | with_reducible apply lossNotice_keeps
    | with_reducible apply scanRun_keeps
    | (with_reducible apply keeps_foldl; intro _ _ _)
    | with_reducible apply keeps_ite
    | with_reducible apply keeps_ite_fst
    | fail_if_no_progress with_reducible refine keeps_mk ?_ (timeOn rfl rfl rfl rfl rfl)
    | (intro _ _)
    | dsimp only
    | split)

theorem lgrReset_keeps {s0 : State} (pd1 : Bool) (s : State) (h : Keeps s0 s) : Keeps s0 (lgrReset pd1 s) := by
  have h1 := modLgr_keeps (fun l => { l with flush := none, nonce := none }) _ (thaw_keeps s h) (fun x => x)
  unfold lgrReset
  dsimp only
  split
  · exact modLgr_keeps _ _ h1 fun _ => ⟨Nat.zero_le _, Nat.zero_le _⟩
  · exact h1

end Sys2Proof.Laws
end

