-- ==== Sys2Proof/Laws/KeepsTeller.lean ====
section
/-! SUPPORT. What every command keeps, for the operations of Machine/Teller.lean. -/

namespace Sys2Proof.Laws

open Sys2Proof.Machine Sys2Proof.Safety

theorem modTeller_keeps {s0 : State} (f : Teller → Teller) (s : State) (h : Keeps s0 s) :
    Keeps s0 (modTeller f s) := by
  unfold modTeller
  try dsimp only
  repeat' (first
    | with_reducible assumption
    | with_reducible apply keeps_ite
    | with_reducible apply OutKeeps.next
    | fail_if_no_progress with_reducible refine keeps_mk ?_ (timeOn rfl rfl rfl rfl rfl))

theorem notifyOne_keeps {s0 : State} (code : Nat) (len : Nat) (fields : List Int) (i : Fin 5) (s : State) (h : Keeps s0 s) :
    Keeps s0 (notifyOne code len fields i s) := by
  unfold notifyOne
  try dsimp only
  repeat' (first
    | with_reducible assumption
    | with_reducible apply notifyTo_keeps
    | with_reducible apply modTeller_keeps)

theorem tellerStarted_keeps {s0 : State} (i : Fin 5) (s : State) (h : Keeps s0 s) :
    Keeps s0 (tellerStarted i s) := by
  unfold tellerStarted
  try dsimp only
  repeat' (first
    | with_reducible assumption
    | with_reducible apply notifyOne_keeps)

theorem lostNotice_keeps {s0 : State} (i : Fin 5) (s : State) (h : Keeps s0 s) :
    Keeps s0 (lostNotice i s) := by
  unfold lostNotice
  try dsimp only
  repeat' (first
    | with_reducible assumption
    | with_reducible apply modSess_keeps
    | with_reducible apply notifyOne_keeps
    | with_reducible apply keeps_ite)

theorem respWaiting_keeps {s0 : State} (l : List Resp) (s : State) (h : Keeps s0 s) : Keeps s0 (respWaiting l s) := by
  induction l generalizing s with
  | nil => exact modSess_keeps _ _ _ h
  | cons r t ih => exact keeps_ite (ih _ (ringResp_keeps _ _ h)) (modSess_keeps _ _ _ h)

theorem sessionGone_keeps {s0 : State} (i : Fin 5) (s : State) (h : Keeps s0 s) : Keeps s0 (sessionGone i s) := by
  have h1 := rdmDropOwed_keeps i _ (laneDropOwed_keeps i _ (lgrGone_keeps i s h))
  exact h1.trans ⟨rfl, rfl, TimeOn.refl _, ⟨Nat.le_refl _, Nat.le_refl _, fun _ x => x, fun _ x => x⟩, fun x => x, fun x => x⟩

theorem sessionClose_keeps {s0 : State} (i : Fin 5) (s : State) (h : Keeps s0 s) :
    Keeps s0 (sessionClose i s) := by
  unfold sessionClose
  try dsimp only
  repeat' (first
    | with_reducible assumption
    | with_reducible apply modSess_keeps
    | with_reducible apply sessionGone_keeps
    | with_reducible apply keeps_ite)

theorem sessionClear_keeps {s0 : State} (i : Fin 5) (s : State) (h : Keeps s0 s) :
    Keeps s0 (sessionClear i s) := by
  unfold sessionClear
  try dsimp only
  repeat' (first
    | with_reducible assumption
    | with_reducible apply bumpBy_keeps
    | with_reducible apply setFlag_keeps
    | with_reducible apply modSess_keeps
    | with_reducible apply sessionGone_keeps
    | with_reducible apply keeps_ite)

theorem ringReset_keeps {s0 : State} (s : State) (h : Keeps s0 s) :
    Keeps s0 (ringReset s) := by
  unfold ringReset
  try dsimp only
  repeat' (first
    | with_reducible assumption
    | with_reducible apply bump_keeps
    | with_reducible apply setFlag_keeps
    | with_reducible apply modSess_keeps
    | with_reducible apply modRings_keeps
    | with_reducible apply tellerStarted_keeps
    | with_reducible apply lostNotice_keeps
    | with_reducible apply sessionClear_keeps
    | fail_if_no_progress with_reducible refine keeps_mk ?_ (timeOn rfl rfl rfl rfl rfl))

theorem pcieOpen_keeps {s0 : State} (s : State) (h : Keeps s0 s) :
    Keeps s0 (pcieOpen s) := by
  unfold pcieOpen
  try dsimp only
  repeat' (first
    | with_reducible assumption
    | with_reducible apply modSess_keeps
    | with_reducible apply modRings_keeps
    | with_reducible apply tellerStarted_keeps
    | with_reducible apply ringReset_keeps
    | with_reducible apply keeps_ite)

theorem pcieClose_keeps {s0 : State} (s : State) (h : Keeps s0 s) :
    Keeps s0 (pcieClose s) := by
  unfold pcieClose
  try dsimp only
  repeat' (first
    | with_reducible assumption
    | with_reducible apply modRings_keeps
    | with_reducible apply sessionClose_keeps)

theorem tellerStop_keeps {s0 : State} (s : State) (h : Keeps s0 s) :
    Keeps s0 (tellerStop s) := by
  unfold tellerStop
  try dsimp only
  repeat' (first
    | with_reducible assumption
    | with_reducible apply modTeller_keeps
    | with_reducible apply sessionClose_keeps
    | (with_reducible apply keeps_foldl; intro _ _ _))

theorem tellerStart_keeps {s0 : State} (cause : Nat) (s : State) (h : Keeps s0 s) :
    Keeps s0 (tellerStart cause s) := by
  unfold tellerStart
  try dsimp only
  repeat' (first
    | with_reducible assumption
    | with_reducible apply modTeller_keeps
    | with_reducible apply pcieOpen_keeps)

theorem ringError_keeps {s0 : State} (s : State) (h : Keeps s0 s) :
    Keeps s0 (ringError s) := by
  unfold ringError
  try dsimp only
  repeat' (first
    | with_reducible assumption
    | with_reducible apply bump_keeps
    | with_reducible apply setFlag_keeps
    | with_reducible apply modRings_keeps)

theorem execCmdDoorbell_keeps {s0 : State} (t : Nat) (wr : BitVec 16) (msgs : List Msg) (s : State) (h : Keeps s0 s) :
    OutKeeps s0 (execCmdDoorbell t wr msgs s) := by
  unfold execCmdDoorbell
  try dsimp only
  repeat' (first
    | with_reducible assumption
    | with_reducible apply advance_keeps
    | with_reducible apply modSess_keeps
    | with_reducible apply modRings_keeps
    | with_reducible apply ringError_keeps
    | with_reducible apply OutKeeps.ite
    | with_reducible apply keeps_ite
    | with_reducible apply OutKeeps.next
    | fail_if_no_progress with_reducible refine keeps_mk ?_ (timeOn rfl rfl rfl rfl rfl)
    | (intro _ _)
    | dsimp only
    | split)

theorem execRingReadPointerWrite_keeps {s0 : State} (t : Nat) (notices : Bool) (rd : BitVec 17) (s : State) (h : Keeps s0 s) :
    OutKeeps s0 (execRingReadPointerWrite t notices rd s) := by
  unfold execRingReadPointerWrite
  try dsimp only
  repeat' (first
    | with_reducible assumption
    | with_reducible apply advance_keeps
    | with_reducible apply modSess_keeps
    | with_reducible apply modRings_keeps
    | with_reducible apply respWaiting_keeps
    | with_reducible apply OutKeeps.ite
    | with_reducible apply keeps_ite
    | with_reducible apply OutKeeps.next
    | fail_if_no_progress with_reducible refine keeps_mk ?_ (timeOn rfl rfl rfl rfl rfl)
    | (intro _ _)
    | dsimp only
    | split)

theorem execSessionResetDoorbell_keeps {s0 : State} (t : Nat) (s : State) (h : Keeps s0 s) :
    OutKeeps s0 (execSessionResetDoorbell t s) := by
  unfold execSessionResetDoorbell
  try dsimp only
  repeat' (first
    | with_reducible assumption
    | with_reducible apply advance_keeps
    | with_reducible apply modRings_keeps
    | with_reducible apply ringReset_keeps
    | with_reducible apply OutKeeps.ite
    | with_reducible apply keeps_ite
    | with_reducible apply OutKeeps.next)

theorem execNoticeQueueDrain_keeps {s0 : State} (t : Nat) (s : State) (h : Keeps s0 s) :
    OutKeeps s0 (execNoticeQueueDrain t s) := by
  unfold execNoticeQueueDrain
  try dsimp only
  repeat' (first
    | with_reducible assumption
    | with_reducible apply advance_keeps
    | with_reducible apply modSess_keeps
    | with_reducible apply ringNotice_keeps
    | with_reducible apply lostNotice_keeps
    | with_reducible apply OutKeeps.ite
    | with_reducible apply keeps_ite
    | with_reducible apply OutKeeps.next
    | fail_if_no_progress with_reducible refine keeps_mk ?_ (timeOn rfl rfl rfl rfl rfl)
    | (intro _ _)
    | dsimp only
    | split)

theorem execPcieLinkChange_keeps {s0 : State} (t : Nat) (e : LinkEvent) (s : State) (h : Keeps s0 s) :
    OutKeeps s0 (execPcieLinkChange t e s) := by
  unfold execPcieLinkChange
  try dsimp only
  repeat' (first
    | with_reducible assumption
    | with_reducible apply advance_keeps
    | with_reducible apply bump_keeps
    | with_reducible apply setFlag_keeps
    | with_reducible apply modTeller_keeps
    | with_reducible apply OutKeeps.ite
    | with_reducible apply keeps_ite
    | with_reducible apply OutKeeps.next
    | fail_if_no_progress with_reducible refine keeps_mk ?_ (timeOn rfl rfl rfl rfl rfl)
    | (intro _ _)
    | dsimp only
    | split)

theorem answerOutside_keeps {s0 : State} (i : Fin 5) (m : Msg) (st : Status) (s : State) (h : Keeps s0 s) :
    Keeps s0 (answerOutside i m st s) := by
  unfold answerOutside
  try dsimp only
  repeat' (first
    | with_reducible assumption
    | with_reducible apply writeResp_keeps)

theorem acknowledge_keeps {s0 : State} (i : Fin 5) (m : Msg) (s : State) (h : Keeps s0 s) :
    Keeps s0 (acknowledge i m s) := by
  unfold acknowledge
  try dsimp only
  repeat' (first
    | with_reducible assumption
    | with_reducible apply modSess_keeps
    | with_reducible apply lostNotice_keeps
    | with_reducible apply keeps_ite)

theorem letIn_keeps {s0 : State} (i : Fin 5) (m : Msg) (s : State) (h : Keeps s0 s) :
    Keeps s0 (letIn i m s) := by
  unfold letIn
  try dsimp only
  repeat' (first
    | with_reducible assumption
    | with_reducible apply respond_keeps
    | with_reducible apply keeps_ite
    | with_reducible apply OutKeeps.next
    | fail_if_no_progress with_reducible refine keeps_mk ?_ (timeOn rfl rfl rfl rfl rfl)
    | (intro _ _)
    | dsimp only
    | split)

theorem judgeMessage_keeps {s0 : State} (i : Fin 5) (m : Msg) (at_ : Arrival) (s : State) (h : Keeps s0 s) :
    Keeps s0 (judgeMessage i m at_ s) := by
  unfold judgeMessage
  try dsimp only
  repeat' (first
    | with_reducible assumption
    | with_reducible apply bump_keeps
    | with_reducible apply modSess_keeps
    | with_reducible apply writeResp_keeps
    | with_reducible apply answerOutside_keeps
    | with_reducible apply acknowledge_keeps
    | with_reducible apply letIn_keeps
    | with_reducible apply keeps_ite
    | fail_if_no_progress with_reducible refine keeps_mk ?_ (timeOn rfl rfl rfl rfl rfl)
    | (intro _ _)
    | dsimp only
    | split)

theorem execCommandTake_keeps {s0 : State} (t : Nat) (i : Fin 5) (s : State) (h : Keeps s0 s) :
    OutKeeps s0 (execCommandTake t i s) := by
  unfold execCommandTake
  try dsimp only
  repeat' (first
    | with_reducible assumption
    | with_reducible apply advance_keeps
    | with_reducible apply tellerRun_keeps
    | with_reducible apply modSess_keeps
    | with_reducible apply modRings_keeps
    | with_reducible apply ringError_keeps
    | with_reducible apply judgeMessage_keeps
    | with_reducible apply OutKeeps.ite
    | with_reducible apply keeps_ite
    | with_reducible apply OutKeeps.next
    | fail_if_no_progress with_reducible refine keeps_mk ?_ (timeOn rfl rfl rfl rfl rfl)
    | (intro _ _)
    | dsimp only
    | split)

theorem dropDatagram_keeps {s0 : State} (s : State) (h : Keeps s0 s) :
    Keeps s0 (dropDatagram s) := by
  unfold dropDatagram
  try dsimp only
  repeat' (first
    | with_reducible assumption
    | with_reducible apply bump_keeps
    | with_reducible apply setFlag_keeps)

theorem udpHello_keeps {s0 : State} (d : Datagram) (s : State) (h : Keeps s0 s) :
    Keeps s0 (udpHello d s) := by
  unfold udpHello
  try dsimp only
  repeat' (first
    | with_reducible assumption
    | with_reducible apply modSess_keeps
    | with_reducible apply drbgRequest_keeps
    | with_reducible apply modTeller_keeps
    | with_reducible apply keeps_ite
    | fail_if_no_progress with_reducible refine keeps_mk ?_ (timeOn rfl rfl rfl rfl rfl)
    | (intro _ _)
    | dsimp only
    | split)

theorem udpConfirm_keeps {s0 : State} (d : Datagram) (s : State) (h : Keeps s0 s) :
    Keeps s0 (udpConfirm d s) := by
  unfold udpConfirm
  try dsimp only
  repeat' (first
    | with_reducible assumption
    | with_reducible apply modSess_keeps
    | with_reducible apply tellerStarted_keeps
    | with_reducible apply dropDatagram_keeps
    | with_reducible apply keeps_ite
    | with_reducible apply OutKeeps.next
    | fail_if_no_progress with_reducible refine keeps_mk ?_ (timeOn rfl rfl rfl rfl rfl)
    | (intro _ _)
    | dsimp only
    | split)

theorem udpFragment_keeps {s0 : State} (i : Fin 5) (d : Datagram) (s : State) (h : Keeps s0 s) :
    Keeps s0 (udpFragment i d s) := by
  unfold udpFragment
  try dsimp only
  repeat' (first
    | with_reducible assumption
    | with_reducible apply bump_keeps
    | with_reducible apply setFlag_keeps
    | with_reducible apply tellerRun_keeps
    | with_reducible apply modSess_keeps
    | with_reducible apply keeps_ite
    | fail_if_no_progress with_reducible refine keeps_mk ?_ (timeOn rfl rfl rfl rfl rfl))

theorem udpData_keeps {s0 : State} (d : Datagram) (s : State) (h : Keeps s0 s) :
    Keeps s0 (udpData d s) := by
  unfold udpData
  try dsimp only
  repeat' (first
    | with_reducible assumption
    | with_reducible apply modSess_keeps
    | with_reducible apply sessionClose_keeps
    | with_reducible apply dropDatagram_keeps
    | with_reducible apply udpFragment_keeps
    | with_reducible apply keeps_ite
    | with_reducible apply OutKeeps.next
    | fail_if_no_progress with_reducible refine keeps_mk ?_ (timeOn rfl rfl rfl rfl rfl)
    | (intro _ _)
    | dsimp only
    | split)

theorem execUdpDatagramReceived_keeps {s0 : State} (t : Nat) (d : Datagram) (s : State) (h : Keeps s0 s) :
    OutKeeps s0 (execUdpDatagramReceived t d s) := by
  unfold execUdpDatagramReceived
  try dsimp only
  repeat' (first
    | with_reducible assumption
    | with_reducible apply advance_keeps
    | with_reducible apply udpHello_keeps
    | with_reducible apply udpConfirm_keeps
    | with_reducible apply udpData_keeps
    | with_reducible apply OutKeeps.ite
    | with_reducible apply keeps_ite
    | with_reducible apply OutKeeps.next
    | (intro _ _)
    | dsimp only
    | split)

theorem execSessionIdleTimeout_keeps {s0 : State} (t : Nat) (i : Fin 5) (s : State) (h : Keeps s0 s) :
    OutKeeps s0 (execSessionIdleTimeout t i s) := by
  unfold execSessionIdleTimeout
  try dsimp only
  repeat' (first
    | with_reducible assumption
    | with_reducible apply advance_keeps
    | with_reducible apply sessionClose_keeps
    | with_reducible apply OutKeeps.ite
    | with_reducible apply keeps_ite
    | with_reducible apply OutKeeps.next)

theorem execFragmentTimeout_keeps {s0 : State} (t : Nat) (s : State) (h : Keeps s0 s) :
    OutKeeps s0 (execFragmentTimeout t s) := by
  unfold execFragmentTimeout
  try dsimp only
  repeat' (first
    | with_reducible assumption
    | with_reducible apply advance_keeps
    | with_reducible apply modSess_keeps
    | (with_reducible apply keeps_foldl; intro _ _ _)
    | with_reducible apply OutKeeps.ite
    | with_reducible apply keeps_ite
    | with_reducible apply OutKeeps.next)

theorem resendNotices_keeps {s0 : State} (s : State) (i : Fin 5) (h : Keeps s0 s) :
    Keeps s0 (resendNotices s i) := by
  unfold resendNotices
  try dsimp only
  repeat' (first
    | with_reducible assumption
    | with_reducible apply modSess_keeps
    | with_reducible apply lostNotice_keeps
    | with_reducible apply keeps_ite)

theorem execNoticeResend_keeps {s0 : State} (t : Nat) (s : State) (h : Keeps s0 s) :
    OutKeeps s0 (execNoticeResend t s) := by
  unfold execNoticeResend
  try dsimp only
  repeat' (first
    | with_reducible assumption
    | with_reducible apply advance_keeps
    | with_reducible apply resendNotices_keeps
    | (with_reducible apply keeps_foldl; intro _ _ _)
    | with_reducible apply OutKeeps.ite
    | with_reducible apply keeps_ite
    | with_reducible apply OutKeeps.next)

theorem execIdentify_keeps {s0 : State} (c : Call) (s : State) (h : Keeps s0 s) :
    OutKeeps s0 (execIdentify c s) := by
  unfold execIdentify
  try dsimp only
  repeat' (first
    | with_reducible assumption
    | with_reducible refine command_keeps _ _ _ _ ?_ (fun _ _ => ?_)
    | with_reducible apply answer_keeps)

theorem execEcho_keeps {s0 : State} (c : Call) (bytes : List (BitVec 8)) (s : State) (h : Keeps s0 s) :
    OutKeeps s0 (execEcho c bytes s) := by
  unfold execEcho
  try dsimp only
  repeat' (first
    | with_reducible assumption
    | with_reducible refine command_keeps _ _ _ _ ?_ (fun _ _ => ?_)
    | with_reducible apply answer_keeps)

theorem execNoticeMask_keeps {s0 : State} (c : Call) (mask : Word) (s : State) (h : Keeps s0 s) :
    OutKeeps s0 (execNoticeMask c mask s) := by
  unfold execNoticeMask
  try dsimp only
  repeat' (first
    | with_reducible assumption
    | with_reducible apply modSess_keeps
    | with_reducible refine command_keeps _ _ _ _ ?_ (fun _ _ => ?_)
    | with_reducible apply accept_keeps)

theorem execSessionReset_keeps {s0 : State} (c : Call) (s : State) (h : Keeps s0 s) :
    OutKeeps s0 (execSessionReset c s) := by
  unfold execSessionReset
  try dsimp only
  repeat' (first
    | with_reducible assumption
    | with_reducible apply advance_keeps
    | with_reducible apply respond_keeps
    | with_reducible apply tellerStarted_keeps
    | with_reducible apply lostNotice_keeps
    | with_reducible apply sessionClear_keeps
    | with_reducible apply OutKeeps.ite
    | with_reducible apply keeps_ite
    | with_reducible apply OutKeeps.next
    | (intro _ _)
    | dsimp only
    | split)

theorem execStageDrop_keeps {s0 : State} (c : Call) (id : Nat) (s : State) (h : Keeps s0 s) :
    OutKeeps s0 (execStageDrop c id s) := by
  unfold execStageDrop
  try dsimp only
  repeat' (first
    | with_reducible assumption
    | with_reducible refine command_keeps _ _ _ _ ?_ (fun _ _ => ?_)
    | with_reducible apply refuse_keeps
    | with_reducible apply accept_keeps
    | with_reducible apply modTeller_keeps
    | with_reducible apply OutKeeps.ite
    | with_reducible apply keeps_ite
    | with_reducible apply OutKeeps.next
    | fail_if_no_progress with_reducible refine keeps_mk ?_ (timeOn rfl rfl rfl rfl rfl)
    | (intro _ _)
    | dsimp only
    | split)

end Sys2Proof.Laws
end

