-- ==== Sys2Proof/Laws/KeepsDomains.lean ====
section
/-! SUPPORT. What every command keeps, for the operations of Machine/Domains.lean. -/

namespace Sys2Proof.Laws

open Sys2Proof.Machine Sys2Proof.Safety

theorem modPower_keeps {s0 : State} (f : Power → Power) (s : State) (h : Keeps s0 s) :
    Keeps s0 (modPower f s) := by
  unfold modPower
  try dsimp only
  repeat' (first
    | with_reducible assumption
    | with_reducible apply keeps_ite
    | with_reducible apply OutKeeps.next
    | fail_if_no_progress with_reducible refine keeps_mk ?_ (timeOn rfl rfl rfl rfl rfl))

theorem modDom_keeps {s0 : State} (d : Nat) (f : Dom → Dom) (s : State) (h : Keeps s0 s) :
    Keeps s0 (modDom d f s) := by
  unfold modDom
  try dsimp only
  repeat' (first
    | with_reducible assumption
    | with_reducible apply modPower_keeps)

theorem vinShadows_keeps {s0 : State} (r : Cfg) (s : State) (h : Keeps s0 s) :
    Keeps s0 (vinShadows r s) := by
  unfold vinShadows
  try dsimp only
  repeat' (first
    | with_reducible assumption
    | with_reducible apply vinShadow_keeps
    | (with_reducible apply keeps_foldl; intro _ _ _))

theorem zoneShadows_keeps {s0 : State} (r : Cfg) (s : State) (h : Keeps s0 s) :
    Keeps s0 (zoneShadows r s) := by
  unfold zoneShadows
  try dsimp only
  repeat' (first
    | with_reducible assumption
    | with_reducible apply setReg_keeps
    | with_reducible apply setReg64_keeps
    | (with_reducible apply keeps_foldl; intro _ _ _))

theorem loseRegs_keeps {s0 : State} (d : Nat) (s : State) (h : Keeps s0 s) : Keeps s0 (loseRegs d s) :=
  keeps_regs h (fun ⟨h1, h2, h3⟩ => ⟨CellsWf_filter _ h1, CellsWf_filter _ h2, aWf_filter _ h3⟩)

theorem dropOff_keeps {s0 : State} (s : State) (h : Keeps s0 s) :
    Keeps s0 (dropOff s) := by
  unfold dropOff
  try dsimp only
  repeat' (first
    | with_reducible assumption
    | with_reducible apply loseRegs_keeps
    | (with_reducible apply keeps_foldl; intro _ _ _)
    | with_reducible apply keeps_ite)

theorem writeShadows_keeps {s0 : State} (s : State) (h : Keeps s0 s) :
    Keeps s0 (writeShadows s) := by
  unfold writeShadows
  try dsimp only
  repeat' (first
    | with_reducible assumption
    | with_reducible apply copyShadows_keeps
    | with_reducible apply cmpWrite_keeps
    | with_reducible apply cmpInForce_keeps
    | with_reducible apply modRas_keeps
    | with_reducible apply rasWrite_keeps
    | with_reducible apply lneShadow_keeps
    | with_reducible apply dmxShadow_keeps
    | with_reducible apply radioShadow_keeps
    | with_reducible apply vinShadows_keeps
    | with_reducible apply zoneShadows_keeps
    | with_reducible apply dropOff_keeps
    | (with_reducible apply keeps_foldl; intro _ _ _)
    | with_reducible apply keeps_ite
    | with_reducible apply keeps_ite_fst
    | fail_if_no_progress with_reducible refine keeps_mk ?_ (timeOn rfl rfl rfl rfl rfl))

theorem takeDomain_keeps {s0 : State} (d : Nat) (s t : State) (h : Keeps s0 s) (ht : Keeps s0 t) : Keeps s0 (takeDomain d s t) :=
  ⟨h.part, h.pending, h.time, h.vault, fun x =>
    have ⟨h1, h2, h3⟩ := h.regs x
    have ⟨t1, t2, _⟩ := ht.regs x
    ⟨CellsWf_merge (CellsWf_filter _ t1).2 (CellsWf_filter _ h1), CellsWf_merge (CellsWf_filter _ t2).2 (CellsWf_filter _ h2), h3⟩, h.ledger⟩

theorem almOff_keeps {s0 : State} (s : State) (h : Keeps s0 s) :
    Keeps s0 (almOff s) := by
  unfold almOff
  try dsimp only
  repeat' (first
    | with_reducible assumption
    | fail_if_no_progress with_reducible refine keeps_mk ?_ (timeOn rfl rfl rfl rfl rfl))

theorem lanesOff_keeps {s0 : State} (s : State) (h : Keeps s0 s) :
    Keeps s0 (lanesOff s) := by
  unfold lanesOff
  try dsimp only
  repeat' (first
    | with_reducible assumption
    | with_reducible apply laneOff_keeps
    | (with_reducible apply keeps_foldl; intro _ _ _)
    | fail_if_no_progress with_reducible refine keeps_mk ?_ (timeOn rfl rfl rfl rfl rfl))

theorem domainLeave_keeps {s0 : State} (d : Nat) (s : State) (h : Keeps s0 s) :
    Keeps s0 (domainLeave d s) := by
  unfold domainLeave
  try dsimp only
  repeat' (first
    | with_reducible assumption
    | with_reducible apply vinStop_keeps
    | with_reducible apply cmpOff_keeps
    | with_reducible apply rasStop_keeps
    | with_reducible apply modPort_keeps
    | with_reducible apply linkLeave_keeps
    | with_reducible apply tallyGather_keeps
    | with_reducible apply modRad_keeps
    | with_reducible apply mapDomainOff_keeps
    | with_reducible apply pcieClose_keeps
    | with_reducible apply loseRegs_keeps
    | with_reducible apply almOff_keeps
    | with_reducible apply lanesOff_keeps
    | (with_reducible apply keeps_foldl; intro _ _ _)
    | with_reducible apply keeps_ite
    | fail_if_no_progress with_reducible refine keeps_mk ?_ (timeOn rfl rfl rfl rfl rfl)
    | (intro _ _)
    | dsimp only
    | split)

theorem domainEnter_keeps {s0 : State} (d : Nat) (s : State) (h : Keeps s0 s) :
    Keeps s0 (domainEnter d s) := by
  unfold domainEnter
  try dsimp only
  repeat' (first
    | with_reducible assumption
    | with_reducible apply assignQueues_keeps
    | with_reducible apply laneTrain_keeps
    | with_reducible apply ringsBegin_keeps
    | with_reducible apply portRestart_keeps
    | with_reducible apply rolesBoot_keeps
    | with_reducible apply pcieOpen_keeps
    | with_reducible apply writeShadows_keeps
    | with_reducible apply takeDomain_keeps
    | (with_reducible apply keeps_foldl; intro _ _ _)
    | with_reducible apply keeps_ite
    | (intro _ _)
    | dsimp only
    | split)

theorem stepStart_keeps {s0 : State} (d : Nat) (s : State) (h : Keeps s0 s) :
    Keeps s0 (stepStart d s) := by
  unfold stepStart
  try dsimp only
  repeat' (first
    | with_reducible assumption
    | with_reducible apply modDom_keeps
    | with_reducible apply domainLeave_keeps
    | with_reducible apply keeps_ite)

theorem settleDom_keeps {s0 : State} (s : State) (d : Nat) (h : Keeps s0 s) :
    Keeps s0 (settleDom s d) := by
  unfold settleDom
  try dsimp only
  repeat' (first
    | with_reducible assumption
    | with_reducible apply modDom_keeps
    | with_reducible apply keeps_ite)

theorem kick_keeps {s0 : State} (s : State) (h : Keeps s0 s) :
    Keeps s0 (kick s) := by
  unfold kick
  try dsimp only
  repeat' (first
    | with_reducible assumption
    | with_reducible apply stepStart_keeps
    | with_reducible apply settleDom_keeps
    | (with_reducible apply keeps_foldl; intro _ _ _)
    | with_reducible apply keeps_ite
    | with_reducible apply OutKeeps.next
    | fail_if_no_progress with_reducible refine keeps_mk ?_ (timeOn rfl rfl rfl rfl rfl)
    | (intro _ _)
    | dsimp only
    | split)

theorem domainNotice_keeps {s0 : State} (d : Nat) (s : State) (h : Keeps s0 s) :
    Keeps s0 (domainNotice d s) := by
  unfold domainNotice
  try dsimp only
  repeat' (first
    | with_reducible assumption
    | with_reducible apply setFlag_keeps
    | with_reducible apply notify_keeps)

theorem stepDone_keeps {s0 : State} (d : Nat) (s : State) (h : Keeps s0 s) :
    Keeps s0 (stepDone d s) := by
  unfold stepDone
  try dsimp only
  repeat' (first
    | with_reducible assumption
    | with_reducible apply bump_keeps
    | with_reducible apply modDom_keeps
    | with_reducible apply domainEnter_keeps
    | with_reducible apply kick_keeps
    | with_reducible apply domainNotice_keeps
    | with_reducible apply keeps_ite
    | with_reducible apply OutKeeps.next
    | fail_if_no_progress with_reducible refine keeps_mk ?_ (timeOn rfl rfl rfl rfl rfl)
    | (intro _ _)
    | dsimp only
    | split)

theorem selfRefresh_keeps {s0 : State} (s : State) (h : Keeps s0 s) :
    Keeps s0 (selfRefresh s) := by
  unfold selfRefresh
  try dsimp only
  repeat' (first
    | with_reducible assumption
    | with_reducible apply bump_keeps
    | with_reducible apply modPower_keeps
    | with_reducible apply keeps_ite
    | fail_if_no_progress with_reducible refine keeps_mk ?_ (timeOn rfl rfl rfl rfl rfl))

theorem execDramIdleEntry_keeps {s0 : State} (t : Nat) (idleNs : Nat) (s : State) (h : Keeps s0 s) :
    OutKeeps s0 (execDramIdleEntry t idleNs s) := by
  unfold execDramIdleEntry
  try dsimp only
  repeat' (first
    | with_reducible assumption
    | with_reducible apply advance_keeps
    | with_reducible apply modPower_keeps
    | with_reducible apply selfRefresh_keeps
    | with_reducible apply OutKeeps.ite
    | with_reducible apply keeps_ite
    | with_reducible apply OutKeeps.next
    | fail_if_no_progress with_reducible refine keeps_mk ?_ (timeOn rfl rfl rfl rfl rfl)
    | (intro _ _)
    | dsimp only
    | split)

theorem dramWake_keeps {s0 : State} (s : State) (h : Keeps s0 s) :
    Keeps s0 (dramWake s) := by
  unfold dramWake
  try dsimp only
  repeat' (first
    | with_reducible assumption
    | with_reducible apply modPower_keeps)

end Sys2Proof.Laws
end

