-- ==== Sys2Proof/Laws/KeepsImages.lean ====
section
/-! SUPPORT. What every command keeps, for the operations of Machine/Images.lean. -/

namespace Sys2Proof.Laws

open Sys2Proof.Machine Sys2Proof.Safety

theorem codeRefused_keeps {s0 : State} (t : Option Trailer) (s : State) (h : Keeps s0 s) :
    Keeps s0 (codeRefused t s).1 := by
  unfold codeRefused
  try dsimp only
  repeat' (first
    | with_reducible assumption
    | with_reducible apply unauth_keeps
    | with_reducible apply sigFail_keeps
    | with_reducible apply keeps_ite_fst)

theorem kernelLoad_keeps {s0 : State} (p : KernelLoad) (s : State) (h : Keeps s0 s) :
    Keeps s0 (kernelLoad p s).1 := by
  unfold kernelLoad
  try dsimp only
  repeat' (first
    | with_reducible assumption
    | with_reducible apply refuse_keeps
    | with_reducible apply accept_keeps
    | with_reducible apply modMap_keeps
    | with_reducible apply codeRefused_keeps
    | with_reducible apply keeps_ite
    | with_reducible apply keeps_ite_fst
    | fail_if_no_progress with_reducible refine keeps_mk ?_ (timeOn rfl rfl rfl rfl rfl)
    | (intro _ _)
    | dsimp only
    | split)

theorem execKernelLoad_keeps {s0 : State} (c : Call) (p : KernelLoad) (s : State) (h : Keeps s0 s) :
    OutKeeps s0 (execKernelLoad c p s) := by
  unfold execKernelLoad
  try dsimp only
  repeat' (first
    | with_reducible assumption
    | with_reducible refine command_keeps _ _ _ _ ?_ (fun _ _ => ?_)
    | with_reducible apply kernelLoad_keeps)

theorem pktCodeLoad_keeps {s0 : State} (p : PktCodeLoad) (s : State) (h : Keeps s0 s) :
    Keeps s0 (pktCodeLoad p s).1 := by
  unfold pktCodeLoad
  try dsimp only
  repeat' (first
    | with_reducible assumption
    | with_reducible apply refuse_keeps
    | with_reducible apply accept_keeps
    | with_reducible apply modPkt_keeps
    | with_reducible apply codeRefused_keeps
    | with_reducible apply keeps_ite
    | with_reducible apply keeps_ite_fst
    | fail_if_no_progress with_reducible refine keeps_mk ?_ (timeOn rfl rfl rfl rfl rfl)
    | (intro _ _)
    | dsimp only
    | split)

theorem execPktCodeLoad_keeps {s0 : State} (c : Call) (p : PktCodeLoad) (s : State) (h : Keeps s0 s) :
    OutKeeps s0 (execPktCodeLoad c p s) := by
  unfold execPktCodeLoad
  try dsimp only
  repeat' (first
    | with_reducible assumption
    | with_reducible refine command_keeps _ _ _ _ ?_ (fun _ _ => ?_)
    | with_reducible apply pktCodeLoad_keeps)

theorem execShowGet_keeps {s0 : State} (c : Call) (s : State) (h : Keeps s0 s) :
    OutKeeps s0 (execShowGet c s) := by
  unfold execShowGet
  try dsimp only
  repeat' (first
    | with_reducible assumption
    | with_reducible refine command_keeps _ _ _ _ ?_ (fun _ _ => ?_)
    | with_reducible apply answer_keeps
    | with_reducible apply OutKeeps.ite
    | with_reducible apply OutKeeps.next
    | (intro _ _)
    | dsimp only
    | split)

theorem thenKick_keeps {s0 : State} (p : State × Reply) (h : Keeps s0 p.1) : Keeps s0 (thenKick p).1 := kick_keeps _ h

theorem execMacPortSet_keeps {s0 : State} (c : Call) (p : MacPortSet) (s : State) (h : Keeps s0 s) : OutKeeps s0 (execMacPortSet c p s) :=
  command_keeps _ _ _ _ h (fun x hx => thenKick_keeps _ (macPortSet_keeps _ _ _ hx))

theorem execMapEngineSet_keeps {s0 : State} (c : Call) (engine action : Nat) (s : State) (h : Keeps s0 s) :
    OutKeeps s0 (execMapEngineSet c engine action s) :=
  command_keeps _ _ _ _ h (fun x hx => thenKick_keeps _ (mapEngineSet_keeps _ _ _ hx))

theorem execPairSet_keeps {s0 : State} (c : Call) (p : PairSet) (s : State) (h : Keeps s0 s) :
    OutKeeps s0 (execPairSet c p s) := by
  unfold execPairSet
  try dsimp only
  repeat' (first
    | with_reducible assumption
    | with_reducible refine command_keeps _ _ _ _ ?_ (fun _ _ => ?_)
    | with_reducible apply refuse_keeps
    | with_reducible apply accept_keeps
    | with_reducible apply pairSet_keeps
    | with_reducible apply kick_keeps
    | with_reducible apply OutKeeps.ite
    | with_reducible apply keeps_ite
    | with_reducible apply keeps_ite_fst
    | with_reducible apply OutKeeps.next
    | (intro _ _)
    | dsimp only
    | split)

end Sys2Proof.Laws
end

