-- ==== Sys2Proof/Laws/KeepsCommit.lean ====
section
/-! SUPPORT. What every command keeps, for the operations of Machine/Commit.lean. -/

namespace Sys2Proof.Laws

open Sys2Proof.Machine Sys2Proof.Safety

theorem takeDelays_keeps {s0 : State} (base : Cfg) (draft : Cfg) (k : Int) (s : State) (h : Keeps s0 s) :
    Keeps s0 (takeDelays base draft k s) := by
  unfold takeDelays
  try dsimp only
  repeat' (first
    | with_reducible assumption
    | with_reducible apply modAlm_keeps
    | (with_reducible apply keeps_foldl; intro _ _ _))

theorem commitTake_keeps {s0 : State} (tag : Int) (flags : Nat) (stage : Nat) (msgs : List ConfigMsg) (owed : Option Call) (s : State) (h : Keeps s0 s) :
    Keeps s0 (commitTake tag flags stage msgs owed s) := by
  unfold commitTake
  try dsimp only
  repeat' (first
    | with_reducible assumption
    | with_reducible apply modFxm_keeps
    | with_reducible apply modTeller_keeps
    | with_reducible apply kick_keeps
    | with_reducible apply dramWake_keeps
    | with_reducible apply takeDelays_keeps
    | with_reducible apply keeps_ite
    | fail_if_no_progress with_reducible refine keeps_mk ?_ (timeOn rfl rfl rfl rfl rfl))

theorem vinForce_keeps {s0 : State} (old : State) (k : Int) (s : State) (h : Keeps s0 s) :
    Keeps s0 (vinForce old k s) := by
  unfold vinForce
  try dsimp only
  repeat' (first
    | with_reducible assumption
    | with_reducible apply vinConfigure_keeps
    | with_reducible apply joinReports_keeps)

theorem forceA_keeps {s0 : State} (k : Int) (s : State) (a : Accepted) (h : Keeps s0 s) :
    Keeps s0 (forceA k s a) := by
  unfold forceA
  try dsimp only
  repeat' (first
    | with_reducible assumption
    | with_reducible apply setReg_keeps
    | with_reducible apply copyShadows_keeps
    | with_reducible apply vinShadow_keeps
    | with_reducible apply cmpCommit_keeps
    | with_reducible apply rasCommit_keeps
    | with_reducible apply vinForce_keeps
    | (with_reducible apply keeps_foldl; intro _ _ _)
    | fail_if_no_progress with_reducible refine keeps_mk ?_ (timeOn rfl rfl rfl rfl rfl))

theorem configA_keeps {s0 : State} (k : Int) (s : State) (h : Keeps s0 s) :
    Keeps s0 (configA k s) := by
  unfold configA
  try dsimp only
  repeat' (first
    | with_reducible assumption
    | with_reducible apply modTeller_keeps
    | with_reducible apply forceA_keeps
    | (with_reducible apply keeps_foldl; intro _ _ _))

theorem shadowDelays_keeps {s0 : State} (k : Int) (s : State) (h : Keeps s0 s) :
    Keeps s0 (shadowDelays k s) := by
  unfold shadowDelays
  try dsimp only
  repeat' (first
    | with_reducible assumption
    | with_reducible apply modAlm_keeps
    | (with_reducible apply keeps_foldl; intro _ _ _))

theorem copyB_keeps {s0 : State} (k : Int) (s : State) (h : Keeps s0 s) :
    Keeps s0 (copyB k s) := by
  unfold copyB
  try dsimp only
  repeat' (first
    | with_reducible assumption
    | with_reducible apply copyShadows_keeps
    | with_reducible apply shadowDelays_keeps
    | with_reducible apply keeps_ite
    | with_reducible apply OutKeeps.next
    | fail_if_no_progress with_reducible refine keeps_mk ?_ (timeOn rfl rfl rfl rfl rfl))

theorem recordsWritten_keeps {s0 : State} (old : Cfg) (a : Accepted) (s : State) (h : Keeps s0 s) :
    Keeps s0 (recordsWritten old a s) := by
  unfold recordsWritten
  try dsimp only
  repeat' (first
    | with_reducible assumption
    | with_reducible apply writeRecords_keeps
    | with_reducible apply keeps_ite)

theorem forceB_keeps {s0 : State} (s : State) (a : Accepted) (h : Keeps s0 s) :
    Keeps s0 (forceB s a) := by
  unfold forceB
  try dsimp only
  repeat' (first
    | with_reducible assumption
    | with_reducible apply modFxm_keeps
    | with_reducible apply mapFollow_keeps
    | with_reducible apply flipBanks_keeps
    | with_reducible apply lneShadow_keeps
    | with_reducible apply lneConfigure_keeps
    | with_reducible apply dmxShadow_keeps
    | with_reducible apply pktConfigure_keeps
    | with_reducible apply modEsc_keeps
    | with_reducible apply unitsFollow_keeps
    | with_reducible apply radConfigure_keeps
    | with_reducible apply zoneShadows_keeps
    | with_reducible apply copyB_keeps
    | with_reducible apply recordsWritten_keeps
    | with_reducible apply keeps_ite
    | fail_if_no_progress with_reducible refine keeps_mk ?_ (timeOn rfl rfl rfl rfl rfl))

theorem commitDone_keeps {s0 : State} (s : State) (a : Accepted) (h : Keeps s0 s) :
    Keeps s0 (commitDone s a) := by
  unfold commitDone
  try dsimp only
  repeat' (first
    | with_reducible assumption
    | with_reducible apply respondOwed_keeps
    | with_reducible apply modTeller_keeps)

theorem configB_keeps {s0 : State} (k : Int) (s : State) (h : Keeps s0 s) :
    Keeps s0 (configB k s) := by
  unfold configB
  try dsimp only
  repeat' (first
    | with_reducible assumption
    | with_reducible apply setFlag_keeps
    | with_reducible apply digestCheck_keeps
    | with_reducible apply forceB_keeps
    | with_reducible apply commitDone_keeps
    | (with_reducible apply keeps_foldl; intro _ _ _)
    | with_reducible apply keeps_ite)

theorem writeNow_keeps {s0 : State} (s : State) (a : Accepted) (h : Keeps s0 s) :
    Keeps s0 (writeNow s a) := by
  unfold writeNow
  try dsimp only
  repeat' (first
    | with_reducible assumption
    | with_reducible apply modFxm_keeps
    | with_reducible apply mapFollow_keeps
    | with_reducible apply flipBanks_keeps
    | with_reducible apply writeRecords_keeps
    | with_reducible apply lneConfigure_keeps
    | with_reducible apply pktConfigure_keeps
    | with_reducible apply unitsFollow_keeps
    | with_reducible apply radConfigure_keeps
    | with_reducible apply modTeller_keeps
    | with_reducible apply writeShadows_keeps
    | with_reducible apply takeDelays_keeps
    | with_reducible apply vinForce_keeps
    | with_reducible apply commitDone_keeps
    | fail_if_no_progress with_reducible refine keeps_mk ?_ (timeOn rfl rfl rfl rfl rfl))

theorem settleEarly_keeps {s0 : State} (s : State) (h : Keeps s0 s) :
    Keeps s0 (settleEarly s) := by
  unfold settleEarly
  try dsimp only
  repeat' (first
    | with_reducible assumption
    | with_reducible apply writeNow_keeps
    | (with_reducible apply keeps_foldl; intro _ _ _)
    | with_reducible apply keeps_ite)

theorem execDomainStepDone_keeps {s0 : State} (t : Nat) (d : Domain) (s : State) (h : Keeps s0 s) :
    OutKeeps s0 (execDomainStepDone t d s) := by
  unfold execDomainStepDone
  try dsimp only
  repeat' (first
    | with_reducible assumption
    | with_reducible apply advance_keeps
    | with_reducible apply stepDone_keeps
    | with_reducible apply settleEarly_keeps
    | with_reducible apply OutKeeps.ite
    | with_reducible apply keeps_ite
    | with_reducible apply OutKeeps.next)

theorem closeCommit_keeps {s0 : State} (s : State) (h : Keeps s0 s) :
    Keeps s0 (closeCommit s) := by
  unfold closeCommit
  try dsimp only
  repeat' (first
    | with_reducible assumption
    | with_reducible apply modTeller_keeps)

theorem rejected_keeps {s0 : State} (s : State) (h : Keeps s0 s) :
    Keeps s0 (rejected s) := by
  unfold rejected
  try dsimp only
  repeat' (first
    | with_reducible assumption
    | with_reducible apply bump_keeps
    | with_reducible apply setFlag_keeps)

theorem commitPlace_keeps {s0 : State} (flags : Nat) (k : Nat) (stage : Nat) (arrival : Int) (msgs : List ConfigMsg) (owed : Option Call) (s : State) (h : Keeps s0 s) :
    Keeps s0 (commitPlace flags k stage arrival msgs owed s).1 := by
  unfold commitPlace
  try dsimp only
  repeat' (first
    | with_reducible assumption
    | with_reducible apply bump_keeps
    | with_reducible apply commitTake_keeps
    | with_reducible apply keeps_ite
    | with_reducible apply keeps_ite_fst
    | (intro _ _)
    | dsimp only
    | split)

theorem commitNot_keeps {s0 : State} (st : Status) (stage : Nat) (s : State) (h : Keeps s0 s) :
    Keeps s0 (commitNot st stage s).1 := by
  unfold commitNot
  try dsimp only
  repeat' (first
    | with_reducible assumption)

theorem commitEarly_keeps {s0 : State} (c : Call) (stage : Nat) (msgs : List ConfigMsg) (s : State) (h : Keeps s0 s) :
    Keeps s0 (commitEarly c stage msgs s).1 := by
  unfold commitEarly
  try dsimp only
  repeat' (first
    | with_reducible assumption
    | with_reducible apply commitTake_keeps
    | with_reducible apply settleEarly_keeps
    | with_reducible apply keeps_ite
    | with_reducible apply keeps_ite_fst
    | (intro _ _)
    | dsimp only
    | split)

theorem commitJudged_keeps {s0 : State} (c : Call) (p : CommitSet) (msgs : List ConfigMsg) (s : State) (v : Option (Nat × List Int))
    (h : Keeps s0 s) : Keeps s0 (commitJudged c p msgs s v).1 := by
  unfold commitJudged
  split
  · exact rejected_keeps _ h
  · split
    · dsimp only
      exact modTeller_keeps _ _ h
    · split
      · exact commitEarly_keeps _ _ _ _ h
      · exact commitPlace_keeps _ _ _ _ _ _ _ h

theorem commitRun_keeps {s0 : State} (c : Call) (p : CommitSet) (msgs : List ConfigMsg) (s : State) (h : Keeps s0 s) :
    Keeps s0 (commitRun c p msgs s).1 := by
  unfold commitRun
  try dsimp only
  repeat' (first
    | with_reducible assumption
    | with_reducible apply commitNot_keeps
    | with_reducible apply commitJudged_keeps
    | with_reducible apply keeps_ite
    | with_reducible apply keeps_ite_fst
    | (intro _ _)
    | dsimp only
    | split)

theorem execCommitOpen_keeps {s0 : State} (c : Call) (s : State) (h : Keeps s0 s) :
    OutKeeps s0 (execCommitOpen c s) := by
  unfold execCommitOpen
  try dsimp only
  repeat' (first
    | with_reducible assumption
    | with_reducible refine command_keeps _ _ _ _ ?_ (fun _ _ => ?_)
    | with_reducible apply refuse_keeps
    | with_reducible apply accept_keeps
    | with_reducible apply modTeller_keeps
    | with_reducible apply OutKeeps.ite
    | with_reducible apply keeps_ite
    | with_reducible apply OutKeeps.next
    | fail_if_no_progress with_reducible refine keeps_mk ?_ (timeOn rfl rfl rfl rfl rfl)
    | (intro _ _)
    | dsimp only
    | split)

theorem execCommitAbort_keeps {s0 : State} (c : Call) (s : State) (h : Keeps s0 s) :
    OutKeeps s0 (execCommitAbort c s) := by
  unfold execCommitAbort
  try dsimp only
  repeat' (first
    | with_reducible assumption
    | with_reducible refine command_keeps _ _ _ _ ?_ (fun _ _ => ?_)
    | with_reducible apply refuse_keeps
    | with_reducible apply accept_keeps
    | with_reducible apply closeCommit_keeps
    | with_reducible apply OutKeeps.ite
    | with_reducible apply keeps_ite
    | with_reducible apply OutKeeps.next
    | fail_if_no_progress with_reducible refine keeps_mk ?_ (timeOn rfl rfl rfl rfl rfl)
    | (intro _ _)
    | dsimp only
    | split)

theorem execCommit_keeps {s0 : State} (c : Call) (p : CommitSet) (s : State) (h : Keeps s0 s) :
    OutKeeps s0 (execCommit c p s) := by
  unfold execCommit
  try dsimp only
  repeat' (first
    | with_reducible assumption
    | with_reducible refine commandLater_keeps _ _ _ _ ?_ (fun _ _ => ?_)
    | with_reducible apply closeCommit_keeps
    | with_reducible apply commitRun_keeps
    | with_reducible apply OutKeeps.ite
    | with_reducible apply keeps_ite
    | with_reducible apply OutKeeps.next
    | fail_if_no_progress with_reducible refine keeps_mk ?_ (timeOn rfl rfl rfl rfl rfl)
    | (intro _ _)
    | dsimp only
    | split)

theorem stageResult_keeps {s0 : State} (stage : Nat) (cue : Nat) (fields : List Int) (s : State) (h : Keeps s0 s) :
    Keeps s0 (stageResult stage cue fields s) := by
  unfold stageResult
  try dsimp only
  repeat' (first
    | with_reducible assumption
    | with_reducible apply notify_keeps)

theorem stagePlaced_keeps {s0 : State} (stage cue : Nat) (p : State × Reply) (h : Keeps s0 p.1) : Keeps s0 (stagePlaced stage cue p) :=
  stageResult_keeps _ _ _ _ h

theorem applyJudged_keeps {s0 : State} (g : Stage) (cue : Nat) (at_ : Int) (s : State) (v : Option (Nat × List Int)) (h : Keeps s0 s) :
    Keeps s0 (applyJudged g cue at_ s v) := by
  unfold applyJudged
  split
  · exact stageResult_keeps _ _ _ _ (rejected_keeps _ h)
  · exact stagePlaced_keeps _ _ _ (commitPlace_keeps _ _ _ _ _ _ _ h)

theorem applyGroup_keeps {s0 : State} (g : Stage) (cue : Nat) (at_ : Int) (s : State) (h : Keeps s0 s) :
    Keeps s0 (applyGroup g cue at_ s) := by
  unfold applyGroup
  try dsimp only
  repeat' (first
    | with_reducible assumption
    | with_reducible apply applyJudged_keeps)

theorem applyStage_keeps {s0 : State} (stage : Nat) (cue : Nat) (at_ : Int) (s : State) (h : Keeps s0 s) :
    Keeps s0 (applyStage stage cue at_ s) := by
  unfold applyStage
  try dsimp only
  repeat' (first
    | with_reducible assumption
    | with_reducible apply modTeller_keeps
    | with_reducible apply stageResult_keeps
    | with_reducible apply applyGroup_keeps
    | with_reducible apply keeps_ite
    | with_reducible apply OutKeeps.next
    | fail_if_no_progress with_reducible refine keeps_mk ?_ (timeOn rfl rfl rfl rfl rfl)
    | (intro _ _)
    | dsimp only
    | split)

theorem execCalRecordWrite_keeps {s0 : State} (t : Nat) (s : State) (h : Keeps s0 s) :
    OutKeeps s0 (execCalRecordWrite t s) := by
  unfold execCalRecordWrite
  try dsimp only
  repeat' (first
    | with_reducible assumption
    | with_reducible apply advance_keeps
    | with_reducible apply writeRecords_keeps
    | with_reducible apply OutKeeps.ite
    | with_reducible apply keeps_ite
    | with_reducible apply OutKeeps.next
    | fail_if_no_progress with_reducible refine keeps_mk ?_ (timeOn rfl rfl rfl rfl rfl)
    | (intro _ _)
    | dsimp only
    | split)

theorem bothParts_keeps {s0 : State} (r : Cfg) (s : State) (h : Keeps s0 s) :
    Keeps s0 (bothParts r s) := by
  unfold bothParts
  try dsimp only
  repeat' (first
    | with_reducible assumption
    | fail_if_no_progress with_reducible refine keeps_mk ?_ (timeOn rfl rfl rfl rfl rfl))

theorem finishAccepted_keeps {s0 : State} (s : State) (h : Keeps s0 s) :
    Keeps s0 (finishAccepted s) := by
  unfold finishAccepted
  try dsimp only
  repeat' (first
    | with_reducible assumption
    | with_reducible apply flipBanks_keeps
    | with_reducible apply recordsWritten_keeps
    | with_reducible apply commitDone_keeps
    | with_reducible apply bothParts_keeps
    | (with_reducible apply keeps_foldl; intro _ _ _))

theorem showStop_keeps {s0 : State} (s : State) (h : Keeps s0 s) :
    Keeps s0 (showStop s) := by
  unfold showStop
  try dsimp only
  repeat' (first
    | with_reducible assumption
    | with_reducible apply timeStop_keeps
    | with_reducible apply almStop_keeps
    | with_reducible apply vinStop_keeps
    | with_reducible apply cmpStop_keeps
    | with_reducible apply rasStop_keeps
    | with_reducible apply fxmStop_keeps
    | with_reducible apply lneStop_keeps
    | with_reducible apply pktStop_keeps
    | with_reducible apply radStop_keeps
    | with_reducible apply mapStop_keeps
    | with_reducible apply escStop_keeps
    | with_reducible apply modTeller_keeps
    | with_reducible apply finishAccepted_keeps)

theorem takeEpoch_keeps {s0 : State} (s : State) (h : Keeps s0 s) :
    Keeps s0 (takeEpoch s) := by
  unfold takeEpoch
  try dsimp only
  repeat' (first
    | with_reducible assumption
    | fail_if_no_progress with_reducible refine keeps_mk ?_ (timeOn rfl rfl rfl rfl rfl))

theorem forceRecord_keeps {s0 : State} (s : State) (h : Keeps s0 s) :
    Keeps s0 (forceRecord s) := by
  unfold forceRecord
  try dsimp only
  repeat' (first
    | with_reducible assumption
    | with_reducible apply bothParts_keeps)

theorem showStart_keeps {s0 : State} (s : State) (hr : s.time.running = false) (h : Keeps s0 s) : Keeps s0 (showStart s) := by
  unfold showStart
  dsimp only
  repeat' (first
    | with_reducible assumption
    | with_reducible apply radioSlots_keeps
    | with_reducible apply lneStart_keeps
    | with_reducible apply lneConfigure_keeps
    | with_reducible apply fxmStart_keeps
    | with_reducible apply rasStart_keeps
    | with_reducible apply vinStart_keeps
    | with_reducible apply vinForce_keeps
    | with_reducible apply modAlm_keeps
    | with_reducible apply writeShadows_keeps
    | with_reducible apply forceRecord_keeps
    | exact timeStart_keeps (takeEpoch s) hr (takeEpoch_keeps s h))

theorem execShowTimingSet_keeps {s0 : State} (c : Call) (p : ShowTimingSet) (s : State) (h : Keeps s0 s) :
    OutKeeps s0 (execShowTimingSet c p s) := by
  unfold execShowTimingSet
  try dsimp only
  repeat' (first
    | with_reducible assumption
    | with_reducible apply setReg_keeps
    | with_reducible apply setReg64_keeps
    | with_reducible refine command_keeps _ _ _ _ ?_ (fun _ _ => ?_)
    | with_reducible apply refuse_keeps
    | with_reducible apply accept_keeps
    | with_reducible apply OutKeeps.ite
    | with_reducible apply keeps_ite
    | with_reducible apply keeps_ite_fst
    | with_reducible apply OutKeeps.next
    | fail_if_no_progress with_reducible refine keeps_mk ?_ (timeOn rfl rfl rfl rfl rfl)
    | (intro _ _)
    | dsimp only
    | split)

end Sys2Proof.Laws
end

