-- ==== Sys2Proof/Laws/OnlyOperands.lean ====
section
/-! SUPPORT. Which components of the machine the operations of Machine/Operands.lean may change. -/

namespace Sys2Proof.Laws

open Sys2Proof.Machine Sys2Proof.Safety

theorem configMessage_only {l_ : List Comp} {s0_ : State} {code : Nat} {len : Nat} {c : Call} {ok : State → Bool} {m : ConfigMsg} {s : State} (hl_ : [Comp.regs, .time, .teller] ⊆ l_)
    (h_ : Only l_ s0_ s) : OutOnly l_ s0_ (configMessage code len c ok m s) := by
  unfold configMessage
  try dsimp only
  repeat' (first
    | with_reducible exact h_
    | with_reducible exact hl_
    | with_reducible assumption
    | with_reducible refine command_only ?_ ?_ (fun _ _ => ?_)
    | with_reducible apply refuse_only
    | with_reducible apply accept_only
    | with_reducible apply OutOnly.ite
    | with_reducible apply only_ite
    | with_reducible apply OutOnly.next
    | exact List.Subset.trans (by decide) hl_
    | split
    | fail_if_no_progress ((with_reducible refine only_mk (k := [.teller]) ?_ ?_ ?lit); case lit => exact fun c hc => by cases c <;> first | with_reducible rfl | exact absurd (by decide) hc))

end Sys2Proof.Laws
end

