-- ==== Sys2Proof/Laws/OnlyShowTime.lean ====
section
/-! SUPPORT. Which components of the machine the operations of Machine/ShowTime.lean may change. -/

namespace Sys2Proof.Laws

open Sys2Proof.Machine Sys2Proof.Safety

theorem modTb_only {l_ : List Comp} {s0_ : State} {i : Nat} {f : TimeBase → TimeBase} {s : State} (hl_ : [Comp.time] ⊆ l_)
    (h_ : Only l_ s0_ s) : Only l_ s0_ (modTb i f s) := by
  unfold modTb
  try dsimp only
  repeat' (first
    | with_reducible exact h_
    | with_reducible exact hl_
    | with_reducible apply only_ite
    | fail_if_no_progress ((with_reducible refine only_mk (k := [.time]) ?_ ?_ ?lit); case lit => exact fun c hc => by cases c <;> first | with_reducible rfl | exact absurd (by decide) hc))

theorem tellState_only {l_ : List Comp} {s0_ : State} {i : Nat} {old : TbState} {new : TbState} {cause : Nat} {s : State} (hl_ : [Comp.regs, .teller] ⊆ l_)
    (h_ : Only l_ s0_ s) : Only l_ s0_ (tellState i old new cause s) := by
  unfold tellState
  try dsimp only
  repeat' (first
    | with_reducible exact h_
    | with_reducible exact hl_
    | with_reducible apply setFlag_only
    | with_reducible apply notify_only
    | exact List.Subset.trans (by decide) hl_)

theorem tbMove_only {l_ : List Comp} {s0_ : State} {i : Nat} {new : TbState} {cause : Nat} {s : State} (hl_ : [Comp.regs, .time, .teller] ⊆ l_)
    (h_ : Only l_ s0_ s) : Only l_ s0_ (tbMove i new cause s) := by
  unfold tbMove
  try dsimp only
  repeat' (first
    | with_reducible exact h_
    | with_reducible exact hl_
    | with_reducible apply modTb_only
    | with_reducible apply tellState_only
    | with_reducible apply only_ite
    | exact List.Subset.trans (by decide) hl_)

theorem planFrame_only {l_ : List Comp} {s0_ : State} {s : State} (hl_ : [Comp.time] ⊆ l_)
    (h_ : Only l_ s0_ s) : Only l_ s0_ (planFrame s) := by
  unfold planFrame
  try dsimp only
  repeat' (first
    | with_reducible exact h_
    | with_reducible exact hl_
    | with_reducible apply only_ite
    | exact List.Subset.trans (by decide) hl_
    | fail_if_no_progress ((with_reducible refine only_mk (k := [.time]) ?_ ?_ ?lit); case lit => exact fun c hc => by cases c <;> first | with_reducible rfl | exact absurd (by decide) hc))

theorem enterDiscontinuity_only {l_ : List Comp} {s0_ : State} {i : Nat} {delta : Int} {s : State} (hl_ : [Comp.regs, .free, .time, .teller] ⊆ l_)
    (h_ : Only l_ s0_ s) : Only l_ s0_ (enterDiscontinuity i delta s) := by
  unfold enterDiscontinuity
  try dsimp only
  repeat' (first
    | with_reducible exact h_
    | with_reducible exact hl_
    | with_reducible apply draw_only
    | with_reducible apply setFlag_only
    | with_reducible apply notify_only
    | with_reducible apply modTb_only
    | with_reducible apply only_ite
    | exact List.Subset.trans (by decide) hl_)

theorem stepTb_only {l_ : List Comp} {s0_ : State} {i : Nat} {delta : Int} {s : State} (hl_ : [Comp.regs, .free, .time, .teller] ⊆ l_)
    (h_ : Only l_ s0_ s) : Only l_ s0_ (stepTb i delta s) := by
  unfold stepTb
  try dsimp only
  repeat' (first
    | with_reducible exact h_
    | with_reducible exact hl_
    | with_reducible apply modTb_only
    | with_reducible apply enterDiscontinuity_only
    | with_reducible apply only_ite
    | exact List.Subset.trans (by decide) hl_
    | fail_if_no_progress ((with_reducible refine only_mk (k := [.time]) ?_ ?_ ?lit); case lit => exact fun c hc => by cases c <;> first | with_reducible rfl | exact absurd (by decide) hc))

theorem withdrawStep_only {l_ : List Comp} {s0_ : State} {s : State} (hl_ : [Comp.regs, .time, .teller] ⊆ l_)
    (h_ : Only l_ s0_ s) : Only l_ s0_ (withdrawStep s) := by
  unfold withdrawStep
  try dsimp only
  repeat' (first
    | with_reducible exact h_
    | with_reducible exact hl_
    | with_reducible apply setFlag_only
    | with_reducible apply notify_only
    | with_reducible apply modTb_only
    | with_reducible apply planFrame_only
    | with_reducible apply only_ite
    | exact List.Subset.trans (by decide) hl_)

theorem correctFreq_only {l_ : List Comp} {s0_ : State} {i : Nat} {source : Nat} {s : State} (hl_ : [Comp.free, .time] ⊆ l_)
    (h_ : Only l_ s0_ s) : Only l_ s0_ (correctFreq i source s) := by
  unfold correctFreq
  try dsimp only
  repeat' (first
    | with_reducible exact h_
    | with_reducible exact hl_
    | with_reducible apply draw_only
    | with_reducible apply modTb_only
    | with_reducible apply only_ite
    | exact List.Subset.trans (by decide) hl_)

theorem ltcWrap_only {l_ : List Comp} {s0_ : State} {i : Nat} {u : SourceUpdate} {s : State} (hl_ : [Comp.regs, .time] ⊆ l_)
    (h_ : Only l_ s0_ s) : Only l_ s0_ (ltcWrap i u s) := by
  unfold ltcWrap
  try dsimp only
  repeat' (first
    | with_reducible exact h_
    | with_reducible exact hl_
    | with_reducible apply setReg_only
    | with_reducible apply modTb_only
    | with_reducible apply only_ite
    | exact List.Subset.trans (by decide) hl_
    | dsimp only
    | split)

theorem tbFollow_only {l_ : List Comp} {s0_ : State} {i : Nat} {s : State} (hl_ : [Comp.regs, .time, .teller] ⊆ l_)
    (h_ : Only l_ s0_ s) : Only l_ s0_ (tbFollow i s) := by
  unfold tbFollow
  try dsimp only
  repeat' (first
    | with_reducible exact h_
    | with_reducible exact hl_
    | with_reducible apply tbMove_only
    | with_reducible apply only_ite
    | exact List.Subset.trans (by decide) hl_
    | dsimp only
    | split)

theorem servo_only {l_ : List Comp} {s0_ : State} {i : Nat} {offset : Int} {s : State} (hl_ : [Comp.regs, .free, .time, .teller] ⊆ l_)
    (h_ : Only l_ s0_ s) : Only l_ s0_ (servo i offset s) := by
  unfold servo
  try dsimp only
  repeat' (first
    | with_reducible exact h_
    | with_reducible exact hl_
    | with_reducible apply stepTb_only
    | with_reducible apply correctFreq_only
    | with_reducible apply only_ite
    | exact List.Subset.trans (by decide) hl_)

theorem noteGenlock_only {l_ : List Comp} {s0_ : State} {i : Nat} {u : SourceUpdate} {s : State} (hl_ : [Comp.time] ⊆ l_)
    (h_ : Only l_ s0_ s) : Only l_ s0_ (noteGenlock i u s) := by
  unfold noteGenlock
  try dsimp only
  repeat' (first
    | with_reducible exact h_
    | with_reducible exact hl_
    | with_reducible apply only_ite
    | exact List.Subset.trans (by decide) hl_
    | fail_if_no_progress ((with_reducible refine only_mk (k := [.time]) ?_ ?_ ?lit); case lit => exact fun c hc => by cases c <;> first | with_reducible rfl | exact absurd (by decide) hc))

theorem pathMeasured_only {l_ : List Comp} {s0_ : State} {i : Nat} {b : Bool} {u : SourceUpdate} {s : State} (hl_ : [Comp.regs, .free, .time, .teller] ⊆ l_)
    (h_ : Only l_ s0_ s) : Only l_ s0_ (pathMeasured i b u s) := by
  unfold pathMeasured
  try dsimp only
  repeat' (first
    | with_reducible exact h_
    | with_reducible exact hl_
    | with_reducible apply modTb_only
    | with_reducible apply ltcWrap_only
    | with_reducible apply tbFollow_only
    | with_reducible apply servo_only
    | with_reducible apply only_ite
    | exact List.Subset.trans (by decide) hl_)

theorem sourceUpdate_only {l_ : List Comp} {s0_ : State} {i : Nat} {b : Bool} {u : SourceUpdate} {s : State} (hl_ : [Comp.regs, .free, .time, .teller] ⊆ l_)
    (h_ : Only l_ s0_ s) : Only l_ s0_ (sourceUpdate i b u s) := by
  unfold sourceUpdate
  try dsimp only
  repeat' (first
    | with_reducible exact h_
    | with_reducible exact hl_
    | with_reducible apply modTb_only
    | with_reducible apply withdrawStep_only
    | with_reducible apply noteGenlock_only
    | with_reducible apply pathMeasured_only
    | with_reducible apply only_ite
    | exact List.Subset.trans (by decide) hl_
    | dsimp only
    | split)

theorem followPath_only {l_ : List Comp} {s0_ : State} {i : Nat} {toB : Bool} {s : State} (hl_ : [Comp.time] ⊆ l_)
    (h_ : Only l_ s0_ s) : Only l_ s0_ (followPath i toB s) := by
  unfold followPath
  try dsimp only
  repeat' (first
    | with_reducible exact h_
    | with_reducible exact hl_
    | with_reducible apply modTb_only
    | with_reducible apply only_ite
    | exact List.Subset.trans (by decide) hl_)

theorem switchPath_only {l_ : List Comp} {s0_ : State} {i : Nat} {toB : Bool} {cause : Nat} {s : State} (hl_ : [Comp.regs, .time, .teller] ⊆ l_)
    (h_ : Only l_ s0_ s) : Only l_ s0_ (switchPath i toB cause s) := by
  unfold switchPath
  try dsimp only
  repeat' (first
    | with_reducible exact h_
    | with_reducible exact hl_
    | with_reducible apply setFlag_only
    | with_reducible apply notify_only
    | with_reducible apply withdrawStep_only
    | with_reducible apply followPath_only
    | exact List.Subset.trans (by decide) hl_)

theorem referenceLost_only {l_ : List Comp} {s0_ : State} {i : Nat} {b : Bool} {s : State} (hl_ : [Comp.regs, .time, .teller] ⊆ l_)
    (h_ : Only l_ s0_ s) : Only l_ s0_ (referenceLost i b s) := by
  unfold referenceLost
  try dsimp only
  repeat' (first
    | with_reducible exact h_
    | with_reducible exact hl_
    | with_reducible apply bump_only
    | with_reducible apply modTb_only
    | with_reducible apply tbMove_only
    | with_reducible apply switchPath_only
    | with_reducible apply only_ite
    | exact List.Subset.trans (by decide) hl_
    | dsimp only
    | split)

theorem domainRevert_only {l_ : List Comp} {s0_ : State} {i : Nat} {s : State} (hl_ : [Comp.regs, .time, .teller] ⊆ l_)
    (h_ : Only l_ s0_ s) : Only l_ s0_ (domainRevert i s) := by
  unfold domainRevert
  try dsimp only
  repeat' (first
    | with_reducible exact h_
    | with_reducible exact hl_
    | with_reducible apply switchPath_only
    | with_reducible apply only_ite)

theorem freeTrim_only {l_ : List Comp} {s0_ : State} {s : State} (hl_ : [Comp.time] ⊆ l_)
    (h_ : Only l_ s0_ s) : Only l_ s0_ (freeTrim s) := by
  unfold freeTrim
  try dsimp only
  repeat' (first
    | with_reducible exact h_
    | with_reducible exact hl_
    | with_reducible apply only_ite
    | fail_if_no_progress ((with_reducible refine only_mk (k := [.time]) ?_ ?_ ?lit); case lit => exact fun c hc => by cases c <;> first | with_reducible rfl | exact absurd (by decide) hc))

theorem restartInstances_only {l_ : List Comp} {s0_ : State} {i : Nat} {old : Word} {w : Word} {s : State} (hl_ : [Comp.regs, .time, .teller] ⊆ l_)
    (h_ : Only l_ s0_ s) : Only l_ s0_ (restartInstances i old w s) := by
  unfold restartInstances
  try dsimp only
  repeat' (first
    | with_reducible exact h_
    | with_reducible exact hl_
    | with_reducible apply modTb_only
    | with_reducible apply tbMove_only
    | with_reducible apply followPath_only
    | with_reducible apply only_ite
    | exact List.Subset.trans (by decide) hl_)

theorem tbCfgApply_only {l_ : List Comp} {s0_ : State} {i : Nat} {w : Word} {s : State} (hl_ : [Comp.regs, .time, .teller] ⊆ l_)
    (h_ : Only l_ s0_ s) : Only l_ s0_ (tbCfgApply i w s) := by
  unfold tbCfgApply
  try dsimp only
  repeat' (first
    | with_reducible exact h_
    | with_reducible exact hl_
    | with_reducible apply setReg_only
    | with_reducible apply modTb_only
    | with_reducible apply tellState_only
    | with_reducible apply planFrame_only
    | with_reducible apply restartInstances_only
    | with_reducible apply only_ite
    | exact List.Subset.trans (by decide) hl_)

theorem selectTb_only {l_ : List Comp} {s0_ : State} {i : Nat} {s : State} (hl_ : [Comp.regs, .free, .time, .teller] ⊆ l_)
    (h_ : Only l_ s0_ s) : Only l_ s0_ (selectTb i s) := by
  unfold selectTb
  try dsimp only
  repeat' (first
    | with_reducible exact h_
    | with_reducible exact hl_
    | with_reducible apply setField_only
    | with_reducible apply planFrame_only
    | with_reducible apply enterDiscontinuity_only
    | with_reducible apply withdrawStep_only
    | with_reducible apply only_ite
    | exact List.Subset.trans (by decide) hl_
    | fail_if_no_progress ((with_reducible refine only_mk (k := [.time]) ?_ ?_ ?lit); case lit => exact fun c hc => by cases c <;> first | with_reducible rfl | exact absurd (by decide) hc))

theorem leaveStep_only {l_ : List Comp} {s0_ : State} {tb : Nat} {mode : Nat} {stepId : Nat} {s : State} (hl_ : [Comp.regs, .time, .teller] ⊆ l_)
    (h_ : Only l_ s0_ s) : Only l_ s0_ (leaveStep tb mode stepId s) := by
  unfold leaveStep
  try dsimp only
  repeat' (first
    | with_reducible exact h_
    | with_reducible exact hl_
    | with_reducible apply setFlag_only
    | with_reducible apply notify_only
    | with_reducible apply modTb_only
    | with_reducible apply only_ite
    | exact List.Subset.trans (by decide) hl_)

theorem applyAccept_only {l_ : List Comp} {s0_ : State} {s : State} {a : StepAccept} (hl_ : [Comp.regs, .time, .teller] ⊆ l_)
    (h_ : Only l_ s0_ s) : Only l_ s0_ (applyAccept s a) := by
  unfold applyAccept
  try dsimp only
  repeat' (first
    | with_reducible exact h_
    | with_reducible exact hl_
    | with_reducible apply setFlag_only
    | with_reducible apply notify_only
    | with_reducible apply modTb_only
    | with_reducible apply planFrame_only
    | with_reducible apply leaveStep_only
    | with_reducible apply only_ite
    | exact List.Subset.trans (by decide) hl_
    | fail_if_no_progress ((with_reducible refine only_mk (k := [.time]) ?_ ?_ ?lit); case lit => exact fun c hc => by cases c <;> first | with_reducible rfl | exact absurd (by decide) hc))

theorem zoneSafe_only {l_ : List Comp} {s0_ : State} {s : State} (hl_ : [Comp.regs, .time, .teller] ⊆ l_)
    (h_ : Only l_ s0_ s) : Only l_ s0_ (zoneSafe s) := by
  unfold zoneSafe
  try dsimp only
  repeat' (first
    | with_reducible exact h_
    | with_reducible exact hl_
    | with_reducible assumption
    | with_reducible apply applyAccept_only
    | with_reducible refine only_foldl ?_ (fun _ _ _ => ?_)
    | with_reducible apply only_ite
    | exact List.Subset.trans (by decide) hl_
    | fail_if_no_progress ((with_reducible refine only_mk (k := [.time]) ?_ ?_ ?lit); case lit => exact fun c hc => by cases c <;> first | with_reducible rfl | exact absurd (by decide) hc))

theorem frameTime_only {l_ : List Comp} {s0_ : State} {s : State} (hl_ : [Comp.regs, .time, .teller] ⊆ l_)
    (h_ : Only l_ s0_ s) : Only l_ s0_ (frameTime s) := by
  unfold frameTime
  try dsimp only
  repeat' (first
    | with_reducible exact h_
    | with_reducible exact hl_
    | with_reducible apply reach_only
    | with_reducible apply planFrame_only
    | with_reducible apply withdrawStep_only
    | exact List.Subset.trans (by decide) hl_
    | fail_if_no_progress ((with_reducible refine only_mk (k := [.time]) ?_ ?_ ?lit); case lit => exact fun c hc => by cases c <;> first | with_reducible rfl | exact absurd (by decide) hc))

theorem takeRate_only {l_ : List Comp} {s0_ : State} {s : State} (hl_ : [Comp.time] ⊆ l_)
    (h_ : Only l_ s0_ s) : Only l_ s0_ (takeRate s) := by
  unfold takeRate
  try dsimp only
  repeat' (first
    | with_reducible exact h_
    | with_reducible exact hl_
    | with_reducible apply only_ite
    | exact List.Subset.trans (by decide) hl_
    | fail_if_no_progress ((with_reducible refine only_mk (k := [.time]) ?_ ?_ ?lit); case lit => exact fun c hc => by cases c <;> first | with_reducible rfl | exact absurd (by decide) hc))

theorem startShow_only {l_ : List Comp} {s0_ : State} {s : State} (hl_ : [Comp.regs, .time, .teller] ⊆ l_)
    (h_ : Only l_ s0_ s) : Only l_ s0_ (startShow s) := by
  unfold startShow
  try dsimp only
  repeat' (first
    | with_reducible exact h_
    | with_reducible exact hl_
    | with_reducible apply setFlag_only
    | with_reducible apply notify_only
    | with_reducible apply only_ite
    | exact List.Subset.trans (by decide) hl_
    | fail_if_no_progress ((with_reducible refine only_mk (k := [.time]) ?_ ?_ ?lit); case lit => exact fun c hc => by cases c <;> first | with_reducible rfl | exact absurd (by decide) hc))

theorem timeStart_only {l_ : List Comp} {s0_ : State} {s : State} (hl_ : [Comp.regs, .time, .teller] ⊆ l_)
    (h_ : Only l_ s0_ s) : Only l_ s0_ (timeStart s) := by
  unfold timeStart
  try dsimp only
  repeat' (first
    | with_reducible exact h_
    | with_reducible exact hl_
    | with_reducible apply takeRate_only
    | with_reducible apply startShow_only
    | exact List.Subset.trans (by decide) hl_)

theorem stopFlags_only {l_ : List Comp} {s0_ : State} {s : State} (hl_ : [Comp.regs] ⊆ l_)
    (h_ : Only l_ s0_ s) : Only l_ s0_ (stopFlags s) := by
  unfold stopFlags
  try dsimp only
  repeat' (first
    | with_reducible exact h_
    | with_reducible exact hl_
    | with_reducible assumption
    | with_reducible apply setFlag_only
    | with_reducible refine only_foldl ?_ (fun _ _ _ => ?_)
    | with_reducible apply only_ite
    | exact List.Subset.trans (by decide) hl_)

theorem timeStop_only {l_ : List Comp} {s0_ : State} {s : State} (hl_ : [Comp.regs, .time] ⊆ l_)
    (h_ : Only l_ s0_ s) : Only l_ s0_ (timeStop s) := by
  unfold timeStop
  try dsimp only
  repeat' (first
    | with_reducible exact h_
    | with_reducible exact hl_
    | with_reducible apply stopFlags_only
    | with_reducible apply only_ite
    | exact List.Subset.trans (by decide) hl_
    | fail_if_no_progress ((with_reducible refine only_mk (k := [.time]) ?_ ?_ ?lit); case lit => exact fun c hc => by cases c <;> first | with_reducible rfl | exact absurd (by decide) hc))

theorem execTimeBaseSet_only {l_ : List Comp} {s0_ : State} {c : Call} {p : TimeBaseSet} {s : State} (hl_ : [Comp.regs, .time, .teller] ⊆ l_)
    (h_ : Only l_ s0_ s) : OutOnly l_ s0_ (execTimeBaseSet c p s) := by
  unfold execTimeBaseSet
  try dsimp only
  repeat' (first
    | with_reducible exact h_
    | with_reducible exact hl_
    | with_reducible assumption
    | with_reducible apply setReg_only
    | with_reducible refine command_only ?_ ?_ (fun _ _ => ?_)
    | with_reducible apply refuse_only
    | with_reducible apply accept_only
    | with_reducible apply tbCfgApply_only
    | with_reducible apply OutOnly.ite
    | with_reducible apply only_ite
    | with_reducible apply only_ite_fst
    | with_reducible apply OutOnly.next
    | exact List.Subset.trans (by decide) hl_
    | dsimp only
    | split)

theorem execTimeSelect_only {l_ : List Comp} {s0_ : State} {c : Call} {p : TimeSelect} {s : State} (hl_ : [Comp.regs, .free, .time, .teller] ⊆ l_)
    (h_ : Only l_ s0_ s) : OutOnly l_ s0_ (execTimeSelect c p s) := by
  unfold execTimeSelect
  try dsimp only
  repeat' (first
    | with_reducible exact h_
    | with_reducible exact hl_
    | with_reducible assumption
    | with_reducible apply setReg_only
    | with_reducible refine command_only ?_ ?_ (fun _ _ => ?_)
    | with_reducible apply refuse_only
    | with_reducible apply accept_only
    | with_reducible apply withdrawStep_only
    | with_reducible apply selectTb_only
    | with_reducible apply OutOnly.ite
    | with_reducible apply only_ite
    | with_reducible apply only_ite_fst
    | with_reducible apply OutOnly.next
    | exact List.Subset.trans (by decide) hl_
    | dsimp only
    | split)

theorem waitAccept_only {l_ : List Comp} {s0_ : State} {tb : Fin 4} {mode : Nat} {stepId : Nat} {s : State} (hl_ : [Comp.time] ⊆ l_)
    (h_ : Only l_ s0_ s) : Only l_ s0_ (waitAccept tb mode stepId s) := by
  unfold waitAccept
  try dsimp only
  repeat' (first
    | with_reducible exact h_
    | with_reducible exact hl_
    | exact List.Subset.trans (by decide) hl_
    | fail_if_no_progress ((with_reducible refine only_mk (k := [.time]) ?_ ?_ ?lit); case lit => exact fun c hc => by cases c <;> first | with_reducible rfl | exact absurd (by decide) hc))

theorem acceptStep_only {l_ : List Comp} {s0_ : State} {p : TimeAcceptStep} {s : State} (hl_ : [Comp.regs, .time, .teller] ⊆ l_)
    (h_ : Only l_ s0_ s) : Only l_ s0_ (acceptStep p s).1 := by
  unfold acceptStep
  try dsimp only
  repeat' (first
    | with_reducible exact h_
    | with_reducible exact hl_
    | with_reducible apply refuse_only
    | with_reducible apply accept_only
    | with_reducible apply waitAccept_only
    | with_reducible apply leaveStep_only
    | with_reducible apply only_ite
    | with_reducible apply only_ite_fst
    | exact List.Subset.trans (by decide) hl_
    | dsimp only
    | split)

theorem execTimeAcceptStep_only {l_ : List Comp} {s0_ : State} {c : Call} {p : TimeAcceptStep} {s : State} (hl_ : [Comp.regs, .time, .teller] ⊆ l_)
    (h_ : Only l_ s0_ s) : OutOnly l_ s0_ (execTimeAcceptStep c p s) := by
  unfold execTimeAcceptStep
  try dsimp only
  repeat' (first
    | with_reducible exact h_
    | with_reducible exact hl_
    | with_reducible assumption
    | with_reducible refine command_only ?_ ?_ (fun _ _ => ?_)
    | with_reducible apply withdrawStep_only
    | with_reducible apply acceptStep_only
    | with_reducible apply OutOnly.ite
    | with_reducible apply OutOnly.next
    | exact List.Subset.trans (by decide) hl_
    | dsimp only
    | split)

theorem execTimeStatusGet_only {l_ : List Comp} {s0_ : State} {c : Call} {s : State} (hl_ : [Comp.regs, .time, .teller] ⊆ l_)
    (h_ : Only l_ s0_ s) : OutOnly l_ s0_ (execTimeStatusGet c s) := by
  unfold execTimeStatusGet
  try dsimp only
  repeat' (first
    | with_reducible exact h_
    | with_reducible exact hl_
    | with_reducible assumption
    | with_reducible refine command_only ?_ ?_ (fun _ _ => ?_)
    | with_reducible apply answer_only
    | with_reducible apply OutOnly.ite
    | with_reducible apply only_ite
    | with_reducible apply OutOnly.next
    | exact List.Subset.trans (by decide) hl_)

theorem execTbSourceUpdate_only {l_ : List Comp} {s0_ : State} {t : Nat} {tb : Fin 4} {b : Bool} {u : SourceUpdate} {s : State} (hl_ : [Comp.regs, .free, .time, .teller] ⊆ l_)
    (h_ : Only l_ s0_ s) : OutOnly l_ s0_ (execTbSourceUpdate t tb b u s) := by
  unfold execTbSourceUpdate
  try dsimp only
  repeat' (first
    | with_reducible exact h_
    | with_reducible exact hl_
    | with_reducible apply advance_only
    | with_reducible apply sourceUpdate_only
    | with_reducible apply OutOnly.ite
    | with_reducible apply only_ite
    | with_reducible apply OutOnly.next
    | exact List.Subset.trans (by decide) hl_)

theorem execReferenceLost_only {l_ : List Comp} {s0_ : State} {t : Nat} {tb : Fin 4} {b : Bool} {s : State} (hl_ : [Comp.regs, .time, .teller] ⊆ l_)
    (h_ : Only l_ s0_ s) : OutOnly l_ s0_ (execReferenceLost t tb b s) := by
  unfold execReferenceLost
  try dsimp only
  repeat' (first
    | with_reducible exact h_
    | with_reducible exact hl_
    | with_reducible apply advance_only
    | with_reducible apply referenceLost_only
    | with_reducible apply OutOnly.ite
    | with_reducible apply only_ite
    | with_reducible apply OutOnly.next
    | exact List.Subset.trans (by decide) hl_)

theorem execDomainRevert_only {l_ : List Comp} {s0_ : State} {t : Nat} {tb : Fin 4} {s : State} (hl_ : [Comp.regs, .time, .teller] ⊆ l_)
    (h_ : Only l_ s0_ s) : OutOnly l_ s0_ (execDomainRevert t tb s) := by
  unfold execDomainRevert
  try dsimp only
  repeat' (first
    | with_reducible exact h_
    | with_reducible exact hl_
    | with_reducible apply advance_only
    | with_reducible apply domainRevert_only
    | with_reducible apply OutOnly.ite
    | with_reducible apply only_ite
    | with_reducible apply OutOnly.next
    | exact List.Subset.trans (by decide) hl_)

theorem execZoneSafeBoundary_only {l_ : List Comp} {s0_ : State} {t : Nat} {s : State} (hl_ : [Comp.regs, .time, .teller] ⊆ l_)
    (h_ : Only l_ s0_ s) : OutOnly l_ s0_ (execZoneSafeBoundary t s) := by
  unfold execZoneSafeBoundary
  try dsimp only
  repeat' (first
    | with_reducible exact h_
    | with_reducible exact hl_
    | with_reducible apply advance_only
    | with_reducible apply zoneSafe_only
    | with_reducible apply OutOnly.ite
    | with_reducible apply only_ite
    | with_reducible apply OutOnly.next
    | exact List.Subset.trans (by decide) hl_)

theorem hwmMark_only {l_ : List Comp} {s0_ : State} {s : State} (hl_ : [Comp.time] ⊆ l_)
    (h_ : Only l_ s0_ s) : Only l_ s0_ (hwmMark s) := by
  unfold hwmMark
  try dsimp only
  repeat' (first
    | with_reducible exact h_
    | with_reducible exact hl_
    | with_reducible apply only_ite
    | exact List.Subset.trans (by decide) hl_
    | fail_if_no_progress ((with_reducible refine only_mk (k := [.time]) ?_ ?_ ?lit); case lit => exact fun c hc => by cases c <;> first | with_reducible rfl | exact absurd (by decide) hc))

theorem execHwmUpdate_only {l_ : List Comp} {s0_ : State} {t : Nat} {s : State} (hl_ : [Comp.regs, .time, .teller] ⊆ l_)
    (h_ : Only l_ s0_ s) : OutOnly l_ s0_ (execHwmUpdate t s) := by
  unfold execHwmUpdate
  try dsimp only
  repeat' (first
    | with_reducible exact h_
    | with_reducible exact hl_
    | with_reducible apply advance_only
    | with_reducible apply withdrawStep_only
    | with_reducible apply hwmMark_only
    | with_reducible apply OutOnly.ite
    | with_reducible apply OutOnly.next
    | exact List.Subset.trans (by decide) hl_
    | dsimp only
    | split)

theorem execRtcCopy_only {l_ : List Comp} {s0_ : State} {t : Nat} {s : State} (hl_ : [Comp.time] ⊆ l_)
    (h_ : Only l_ s0_ s) : OutOnly l_ s0_ (execRtcCopy t s) := by
  unfold execRtcCopy
  try dsimp only
  repeat' (first
    | with_reducible exact h_
    | with_reducible exact hl_
    | with_reducible apply advance_only
    | with_reducible apply OutOnly.ite
    | with_reducible apply only_ite
    | with_reducible apply OutOnly.next
    | exact List.Subset.trans (by decide) hl_
    | fail_if_no_progress ((with_reducible refine only_mk (k := [.time]) ?_ ?_ ?lit); case lit => exact fun c hc => by cases c <;> first | with_reducible rfl | exact absurd (by decide) hc))

theorem execMainsAbsentTimeout_only {l_ : List Comp} {s0_ : State} {t : Nat} {s : State} (hl_ : [Comp.time] ⊆ l_)
    (h_ : Only l_ s0_ s) : OutOnly l_ s0_ (execMainsAbsentTimeout t s) := by
  unfold execMainsAbsentTimeout
  try dsimp only
  repeat' (first
    | with_reducible exact h_
    | with_reducible exact hl_
    | with_reducible apply advance_only
    | with_reducible apply OutOnly.ite
    | with_reducible apply only_ite
    | with_reducible apply OutOnly.next
    | exact List.Subset.trans (by decide) hl_
    | split
    | fail_if_no_progress ((with_reducible refine only_mk (k := [.time]) ?_ ?_ ?lit); case lit => exact fun c hc => by cases c <;> first | with_reducible rfl | exact absurd (by decide) hc))

theorem crossingMissed_only {l_ : List Comp} {s0_ : State} {s : State} (hl_ : [Comp.time] ⊆ l_)
    (h_ : Only l_ s0_ s) : Only l_ s0_ (crossingMissed s) := by
  unfold crossingMissed
  try dsimp only
  repeat' (first
    | with_reducible exact h_
    | with_reducible exact hl_
    | with_reducible apply only_ite
    | exact List.Subset.trans (by decide) hl_
    | fail_if_no_progress ((with_reducible refine only_mk (k := [.time]) ?_ ?_ ?lit); case lit => exact fun c hc => by cases c <;> first | with_reducible rfl | exact absurd (by decide) hc))

theorem mainsCross_only {l_ : List Comp} {s0_ : State} {s : State} (hl_ : [Comp.time] ⊆ l_)
    (h_ : Only l_ s0_ s) : Only l_ s0_ (mainsCross s) := by
  unfold mainsCross
  try dsimp only
  repeat' (first
    | with_reducible exact h_
    | with_reducible exact hl_
    | with_reducible apply crossingMissed_only
    | with_reducible apply only_ite
    | exact List.Subset.trans (by decide) hl_
    | fail_if_no_progress ((with_reducible refine only_mk (k := [.time]) ?_ ?_ ?lit); case lit => exact fun c hc => by cases c <;> first | with_reducible rfl | exact absurd (by decide) hc)
    | dsimp only
    | split)

end Sys2Proof.Laws
end

