-- ==== Sys2Proof/Laws/OnlyVideo.lean ====
section
/-! SUPPORT. Which components of the machine the operations of Machine/Video.lean may change. -/

namespace Sys2Proof.Laws

open Sys2Proof.Machine Sys2Proof.Safety

theorem modSrc_only {l_ : List Comp} {s0_ : State} {i : Nat} {f : Source → Source} {s : State} (hl_ : [Comp.vin] ⊆ l_)
    (h_ : Only l_ s0_ s) : Only l_ s0_ (modSrc i f s) := by
  unfold modSrc
  try dsimp only
  repeat' (first
    | with_reducible exact h_
    | with_reducible exact hl_
    | with_reducible apply only_ite
    | fail_if_no_progress ((with_reducible refine only_mk (k := [.vin]) ?_ ?_ ?lit); case lit => exact fun c hc => by cases c <;> first | with_reducible rfl | exact absurd (by decide) hc))

theorem modLayer_only {l_ : List Comp} {s0_ : State} {l : Nat} {f : Layer → Layer} {s : State} (hl_ : [Comp.vin] ⊆ l_)
    (h_ : Only l_ s0_ s) : Only l_ s0_ (modLayer l f s) := by
  unfold modLayer
  try dsimp only
  repeat' (first
    | with_reducible exact h_
    | with_reducible exact hl_
    | with_reducible apply only_ite
    | fail_if_no_progress ((with_reducible refine only_mk (k := [.vin]) ?_ ?_ ?lit); case lit => exact fun c hc => by cases c <;> first | with_reducible rfl | exact absurd (by decide) hc))

theorem srcMove_only {l_ : List Comp} {s0_ : State} {i : Nat} {new : SourceState} {cause : Nat} {s : State} (hl_ : [Comp.regs, .teller, .vin] ⊆ l_)
    (h_ : Only l_ s0_ s) : Only l_ s0_ (srcMove i new cause s) := by
  unfold srcMove
  try dsimp only
  repeat' (first
    | with_reducible exact h_
    | with_reducible exact hl_
    | with_reducible apply setFlag_only
    | with_reducible apply notify_only
    | with_reducible apply modSrc_only
    | with_reducible apply only_ite
    | exact List.Subset.trans (by decide) hl_)

theorem beginWrite_only {l_ : List Comp} {s0_ : State} {i : Nat} {s : State} (hl_ : [Comp.vin] ⊆ l_)
    (h_ : Only l_ s0_ s) : Only l_ s0_ (beginWrite i s) := by
  unfold beginWrite
  try dsimp only
  repeat' (first
    | with_reducible exact h_
    | with_reducible exact hl_
    | with_reducible apply modSrc_only
    | with_reducible apply only_ite
    | exact List.Subset.trans (by decide) hl_)

theorem endWrite_only {l_ : List Comp} {s0_ : State} {i : Nat} {s : State} (hl_ : [Comp.vin] ⊆ l_)
    (h_ : Only l_ s0_ s) : Only l_ s0_ (endWrite i s) := by
  unfold endWrite
  try dsimp only
  repeat' (first
    | with_reducible exact h_
    | with_reducible exact hl_
    | with_reducible apply modSrc_only
    | exact List.Subset.trans (by decide) hl_)

theorem publish_only {l_ : List Comp} {s0_ : State} {i : Nat} {p : Picture} {w : Nat} {h : Nat} {transfer : Nat} {bt2020 : Bool} {done : Int} {s : State} (hl_ : [Comp.regs, .vin] ⊆ l_)
    (h_ : Only l_ s0_ s) : Only l_ s0_ (publish i p w h transfer bt2020 done s) := by
  unfold publish
  try dsimp only
  repeat' (first
    | with_reducible exact h_
    | with_reducible exact hl_
    | with_reducible apply bump_only
    | with_reducible apply modSrc_only
    | exact List.Subset.trans (by decide) hl_
    | dsimp only
    | split)

theorem discardFrame_only {l_ : List Comp} {s0_ : State} {i : Nat} {s : State} (hl_ : [Comp.regs, .vin] ⊆ l_)
    (h_ : Only l_ s0_ s) : Only l_ s0_ (discardFrame i s) := by
  unfold discardFrame
  try dsimp only
  repeat' (first
    | with_reducible exact h_
    | with_reducible exact hl_
    | with_reducible apply bump_only
    | with_reducible apply modSrc_only
    | with_reducible apply only_ite
    | exact List.Subset.trans (by decide) hl_)

theorem frameAccepted_only {l_ : List Comp} {s0_ : State} {i : Nat} {p : Picture} {w : Nat} {h : Nat} {transfer : Nat} {bt2020 : Bool} {done : Int} {s : State} (hl_ : [Comp.regs, .teller, .vin] ⊆ l_)
    (h_ : Only l_ s0_ s) : Only l_ s0_ (frameAccepted i p w h transfer bt2020 done s) := by
  unfold frameAccepted
  try dsimp only
  repeat' (first
    | with_reducible exact h_
    | with_reducible exact hl_
    | with_reducible apply modSrc_only
    | with_reducible apply srcMove_only
    | with_reducible apply publish_only
    | with_reducible apply only_ite
    | exact List.Subset.trans (by decide) hl_
    | dsimp only
    | split)

theorem wrote_only {l_ : List Comp} {s0_ : State} {n : Nat} {s : State} (hl_ : [Comp.vin] ⊆ l_)
    (h_ : Only l_ s0_ s) : Only l_ s0_ (wrote n s) := by
  unfold wrote
  try dsimp only
  repeat' (first
    | with_reducible exact h_
    | with_reducible exact hl_
    | exact List.Subset.trans (by decide) hl_
    | fail_if_no_progress ((with_reducible refine only_mk (k := [.vin]) ?_ ?_ ?lit); case lit => exact fun c hc => by cases c <;> first | with_reducible rfl | exact absurd (by decide) hc))

theorem frameTaken_only {l_ : List Comp} {s0_ : State} {i : Nat} {f : FrameIn} {s : State} (hl_ : [Comp.regs, .teller, .vin] ⊆ l_)
    (h_ : Only l_ s0_ s) : Only l_ s0_ (frameTaken i f s) := by
  unfold frameTaken
  try dsimp only
  repeat' (first
    | with_reducible exact h_
    | with_reducible exact hl_
    | with_reducible apply modSrc_only
    | with_reducible apply srcMove_only
    | with_reducible apply discardFrame_only
    | with_reducible apply frameAccepted_only
    | with_reducible apply wrote_only
    | with_reducible apply only_ite
    | exact List.Subset.trans (by decide) hl_)

theorem frameComplete_only {l_ : List Comp} {s0_ : State} {i : Nat} {f : FrameIn} {s : State} (hl_ : [Comp.regs, .teller, .vin] ⊆ l_)
    (h_ : Only l_ s0_ s) : Only l_ s0_ (frameComplete i f s) := by
  unfold frameComplete
  try dsimp only
  repeat' (first
    | with_reducible exact h_
    | with_reducible exact hl_
    | with_reducible apply modSrc_only
    | with_reducible apply endWrite_only
    | with_reducible apply frameTaken_only
    | with_reducible apply only_ite
    | exact List.Subset.trans (by decide) hl_)

theorem execSourceFrameComplete_only {l_ : List Comp} {s0_ : State} {t : Nat} {src : Fin 28} {f : FrameIn} {s : State} (hl_ : [Comp.regs, .time, .teller, .vin] ⊆ l_)
    (h_ : Only l_ s0_ s) : OutOnly l_ s0_ (execSourceFrameComplete t src f s) := by
  unfold execSourceFrameComplete
  try dsimp only
  repeat' (first
    | with_reducible exact h_
    | with_reducible exact hl_
    | with_reducible apply advance_only
    | with_reducible apply frameComplete_only
    | with_reducible apply OutOnly.ite
    | with_reducible apply only_ite
    | with_reducible apply OutOnly.next
    | exact List.Subset.trans (by decide) hl_)

theorem execSdiLineReceived_only {l_ : List Comp} {s0_ : State} {t : Nat} {src : Fin 4} {crcOk : Bool} {s : State} (hl_ : [Comp.regs, .time, .vin] ⊆ l_)
    (h_ : Only l_ s0_ s) : OutOnly l_ s0_ (execSdiLineReceived t src crcOk s) := by
  unfold execSdiLineReceived
  try dsimp only
  repeat' (first
    | with_reducible exact h_
    | with_reducible exact hl_
    | with_reducible apply advance_only
    | with_reducible apply bump_only
    | with_reducible apply modSrc_only
    | with_reducible apply beginWrite_only
    | with_reducible apply OutOnly.ite
    | with_reducible apply only_ite
    | with_reducible apply OutOnly.next
    | exact List.Subset.trans (by decide) hl_
    | dsimp only
    | split)

theorem missed_only {l_ : List Comp} {s0_ : State} {src : Nat} {pathB : Bool} {s : State} (hl_ : [Comp.regs, .vin] ⊆ l_)
    (h_ : Only l_ s0_ s) : Only l_ s0_ (missed src pathB s) := by
  unfold missed
  try dsimp only
  repeat' (first
    | with_reducible exact h_
    | with_reducible exact hl_
    | with_reducible apply bump_only
    | with_reducible apply modSrc_only
    | with_reducible apply only_ite
    | exact List.Subset.trans (by decide) hl_)

theorem execStreamPacketReceived_only {l_ : List Comp} {s0_ : State} {t : Nat} {stream : Fin 16} {pathB : Bool} {x : StreamPacket} {s : State} (hl_ : [Comp.regs, .time, .vin] ⊆ l_)
    (h_ : Only l_ s0_ s) : OutOnly l_ s0_ (execStreamPacketReceived t stream pathB x s) := by
  unfold execStreamPacketReceived
  try dsimp only
  repeat' (first
    | with_reducible exact h_
    | with_reducible exact hl_
    | with_reducible apply advance_only
    | with_reducible apply modSrc_only
    | with_reducible apply beginWrite_only
    | with_reducible apply missed_only
    | with_reducible apply OutOnly.ite
    | with_reducible apply only_ite
    | with_reducible apply OutOnly.next
    | exact List.Subset.trans (by decide) hl_
    | dsimp only
    | split)

theorem execPathLossTimeout_only {l_ : List Comp} {s0_ : State} {t : Nat} {stream : Fin 16} {pathB : Bool} {seq : Word} {s : State} (hl_ : [Comp.regs, .time, .vin] ⊆ l_)
    (h_ : Only l_ s0_ s) : OutOnly l_ s0_ (execPathLossTimeout t stream pathB seq s) := by
  unfold execPathLossTimeout
  try dsimp only
  repeat' (first
    | with_reducible exact h_
    | with_reducible exact hl_
    | with_reducible apply advance_only
    | with_reducible apply modSrc_only
    | with_reducible apply missed_only
    | with_reducible apply OutOnly.ite
    | with_reducible apply only_ite
    | with_reducible apply OutOnly.next
    | exact List.Subset.trans (by decide) hl_
    | dsimp only
    | split)

theorem execStreamFrameTimeout_only {l_ : List Comp} {s0_ : State} {t : Nat} {stream : Fin 16} {s : State} (hl_ : [Comp.regs, .time, .vin] ⊆ l_)
    (h_ : Only l_ s0_ s) : OutOnly l_ s0_ (execStreamFrameTimeout t stream s) := by
  unfold execStreamFrameTimeout
  try dsimp only
  repeat' (first
    | with_reducible exact h_
    | with_reducible exact hl_
    | with_reducible apply advance_only
    | with_reducible apply bumpBy_only
    | with_reducible apply setFlag_only
    | with_reducible apply modSrc_only
    | with_reducible apply discardFrame_only
    | with_reducible apply wrote_only
    | with_reducible apply OutOnly.ite
    | with_reducible apply only_ite
    | with_reducible apply OutOnly.next
    | exact List.Subset.trans (by decide) hl_
    | dsimp only
    | split)

theorem republish_only {l_ : List Comp} {s0_ : State} {i : Nat} {done : Int} {s : State} (hl_ : [Comp.regs, .vin] ⊆ l_)
    (h_ : Only l_ s0_ s) : Only l_ s0_ (republish i done s) := by
  unfold republish
  try dsimp only
  repeat' (first
    | with_reducible exact h_
    | with_reducible exact hl_
    | with_reducible apply bump_only
    | with_reducible apply modSrc_only
    | exact List.Subset.trans (by decide) hl_
    | dsimp only
    | split)

theorem genPublish_only {l_ : List Comp} {s0_ : State} {i : Nat} {g : GeneratorSet} {k : Int} {s : State} (hl_ : [Comp.regs, .teller, .vin] ⊆ l_)
    (h_ : Only l_ s0_ s) : Only l_ s0_ (genPublish i g k s) := by
  unfold genPublish
  try dsimp only
  repeat' (first
    | with_reducible exact h_
    | with_reducible exact hl_
    | with_reducible apply modSrc_only
    | with_reducible apply srcMove_only
    | with_reducible apply publish_only
    | with_reducible apply wrote_only
    | with_reducible apply republish_only
    | with_reducible apply only_ite
    | exact List.Subset.trans (by decide) hl_)

theorem execGeneratorPublish_only {l_ : List Comp} {s0_ : State} {t : Nat} {g : Fin 8} {s : State} (hl_ : [Comp.regs, .time, .teller, .vin] ⊆ l_)
    (h_ : Only l_ s0_ s) : OutOnly l_ s0_ (execGeneratorPublish t g s) := by
  unfold execGeneratorPublish
  try dsimp only
  repeat' (first
    | with_reducible exact h_
    | with_reducible exact hl_
    | with_reducible apply advance_only
    | with_reducible apply reach_only
    | with_reducible apply genPublish_only
    | with_reducible apply OutOnly.ite
    | with_reducible apply only_ite
    | with_reducible apply OutOnly.next
    | exact List.Subset.trans (by decide) hl_
    | dsimp only
    | split)

theorem execSdiLockLost_only {l_ : List Comp} {s0_ : State} {t : Nat} {src : Fin 4} {s : State} (hl_ : [Comp.regs, .time, .teller, .vin] ⊆ l_)
    (h_ : Only l_ s0_ s) : OutOnly l_ s0_ (execSdiLockLost t src s) := by
  unfold execSdiLockLost
  try dsimp only
  repeat' (first
    | with_reducible exact h_
    | with_reducible exact hl_
    | with_reducible apply advance_only
    | with_reducible apply srcMove_only
    | with_reducible apply OutOnly.ite
    | with_reducible apply only_ite
    | with_reducible apply OutOnly.next
    | exact List.Subset.trans (by decide) hl_
    | dsimp only
    | split)

theorem execSourceLossTimeout_only {l_ : List Comp} {s0_ : State} {t : Nat} {src : Fin 28} {s : State} (hl_ : [Comp.regs, .time, .teller, .vin] ⊆ l_)
    (h_ : Only l_ s0_ s) : OutOnly l_ s0_ (execSourceLossTimeout t src s) := by
  unfold execSourceLossTimeout
  try dsimp only
  repeat' (first
    | with_reducible exact h_
    | with_reducible exact hl_
    | with_reducible apply advance_only
    | with_reducible apply srcMove_only
    | with_reducible apply OutOnly.ite
    | with_reducible apply only_ite
    | with_reducible apply OutOnly.next
    | exact List.Subset.trans (by decide) hl_
    | dsimp only
    | split)

theorem execSignalReturn_only {l_ : List Comp} {s0_ : State} {t : Nat} {src : Fin 28} {s : State} (hl_ : [Comp.regs, .time, .teller, .vin] ⊆ l_)
    (h_ : Only l_ s0_ s) : OutOnly l_ s0_ (execSignalReturn t src s) := by
  unfold execSignalReturn
  try dsimp only
  repeat' (first
    | with_reducible exact h_
    | with_reducible exact hl_
    | with_reducible apply advance_only
    | with_reducible apply modSrc_only
    | with_reducible apply srcMove_only
    | with_reducible apply OutOnly.ite
    | with_reducible apply only_ite
    | with_reducible apply OutOnly.next
    | exact List.Subset.trans (by decide) hl_
    | dsimp only
    | split)

theorem unpin_only {l_ : List Comp} {s0_ : State} {l : Nat} {s : State} (hl_ : [Comp.vin] ⊆ l_)
    (h_ : Only l_ s0_ s) : Only l_ s0_ (unpin l s) := by
  unfold unpin
  try dsimp only
  repeat' (first
    | with_reducible exact h_
    | with_reducible exact hl_
    | with_reducible apply modSrc_only
    | with_reducible apply modLayer_only
    | with_reducible apply only_ite)

theorem rebind_only {l_ : List Comp} {s0_ : State} {l : Nat} {s : State} (hl_ : [Comp.vin] ⊆ l_)
    (h_ : Only l_ s0_ s) : Only l_ s0_ (rebind l s) := by
  unfold rebind
  try dsimp only
  repeat' (first
    | with_reducible exact h_
    | with_reducible exact hl_
    | with_reducible apply modLayer_only
    | with_reducible apply unpin_only
    | with_reducible apply only_ite
    | exact List.Subset.trans (by decide) hl_)

theorem noteSlip_only {l_ : List Comp} {s0_ : State} {i : Nat} {kind : Nat} {n : Nat} {s : State} (hl_ : [Comp.regs, .vin] ⊆ l_)
    (h_ : Only l_ s0_ s) : Only l_ s0_ (noteSlip i kind n s) := by
  unfold noteSlip
  try dsimp only
  repeat' (first
    | with_reducible exact h_
    | with_reducible exact hl_
    | with_reducible apply setFlag_only
    | with_reducible apply modSrc_only
    | with_reducible apply only_ite
    | exact List.Subset.trans (by decide) hl_)

theorem sendSlip_only {l_ : List Comp} {s0_ : State} {s : State} {i : Nat} (hl_ : [Comp.regs, .teller, .vin] ⊆ l_)
    (h_ : Only l_ s0_ s) : Only l_ s0_ (sendSlip s i) := by
  unfold sendSlip
  try dsimp only
  repeat' (first
    | with_reducible exact h_
    | with_reducible exact hl_
    | with_reducible apply notify_only
    | with_reducible apply modSrc_only
    | with_reducible apply only_ite
    | exact List.Subset.trans (by decide) hl_)

theorem latchReady_only {l_ : List Comp} {s0_ : State} {l : Nat} {f : StoredFrame} {s : State} (hl_ : [Comp.regs, .vin] ⊆ l_)
    (h_ : Only l_ s0_ s) : Only l_ s0_ (latchReady l f s) := by
  unfold latchReady
  try dsimp only
  repeat' (first
    | with_reducible exact h_
    | with_reducible exact hl_
    | with_reducible apply bumpBy_only
    | with_reducible apply bump_only
    | with_reducible apply modLayer_only
    | with_reducible apply noteSlip_only
    | with_reducible apply only_ite
    | exact List.Subset.trans (by decide) hl_
    | dsimp only
    | split)

theorem latchPolicy_only {l_ : List Comp} {s0_ : State} {l : Nat} {s : State} (hl_ : [Comp.vin] ⊆ l_)
    (h_ : Only l_ s0_ s) : Only l_ s0_ (latchPolicy l s) := by
  unfold latchPolicy
  try dsimp only
  repeat' (first
    | with_reducible exact h_
    | with_reducible exact hl_
    | with_reducible apply modSrc_only
    | with_reducible apply modLayer_only
    | exact List.Subset.trans (by decide) hl_
    | dsimp only
    | split)

theorem noteReady_only {l_ : List Comp} {s0_ : State} {l : Nat} {ready : Bool} {k : Int} {fk : Int} {s : State} (hl_ : [Comp.regs, .teller, .vin] ⊆ l_)
    (h_ : Only l_ s0_ s) : Only l_ s0_ (noteReady l ready k fk s) := by
  unfold noteReady
  try dsimp only
  repeat' (first
    | with_reducible exact h_
    | with_reducible exact hl_
    | with_reducible apply bump_only
    | with_reducible apply setFlag_only
    | with_reducible apply notify_only
    | with_reducible apply modLayer_only
    | with_reducible apply only_ite
    | exact List.Subset.trans (by decide) hl_
    | dsimp only
    | split)

theorem holdRelease_only {l_ : List Comp} {s0_ : State} {l : Nat} {fk : Int} {s : State} (hl_ : [Comp.vin] ⊆ l_)
    (h_ : Only l_ s0_ s) : Only l_ s0_ (holdRelease l fk s) := by
  unfold holdRelease
  try dsimp only
  repeat' (first
    | with_reducible exact h_
    | with_reducible exact hl_
    | with_reducible apply modLayer_only
    | with_reducible apply unpin_only
    | with_reducible apply only_ite
    | exact List.Subset.trans (by decide) hl_)

theorem judgeLayer_only {l_ : List Comp} {s0_ : State} {k : Int} {s : State} {l : Nat} (hl_ : [Comp.regs, .teller, .vin] ⊆ l_)
    (h_ : Only l_ s0_ s) : Only l_ s0_ (judgeLayer k s l) := by
  unfold judgeLayer
  try dsimp only
  repeat' (first
    | with_reducible exact h_
    | with_reducible exact hl_
    | with_reducible apply modLayer_only
    | with_reducible apply rebind_only
    | with_reducible apply latchReady_only
    | with_reducible apply latchPolicy_only
    | with_reducible apply noteReady_only
    | with_reducible apply holdRelease_only
    | with_reducible apply only_ite
    | exact List.Subset.trans (by decide) hl_
    | dsimp only
    | split)

theorem countReady_only {l_ : List Comp} {s0_ : State} {fk : Int} {s : State} {i : Nat} (hl_ : [Comp.vin] ⊆ l_)
    (h_ : Only l_ s0_ s) : Only l_ s0_ (countReady fk s i) := by
  unfold countReady
  try dsimp only
  repeat' (first
    | with_reducible exact h_
    | with_reducible exact hl_
    | with_reducible apply modSrc_only)

theorem srcConfigure_only {l_ : List Comp} {s0_ : State} {old : State} {k : Int} {s : State} {i : Nat} (hl_ : [Comp.regs, .teller, .vin] ⊆ l_)
    (h_ : Only l_ s0_ s) : Only l_ s0_ (srcConfigure old k s i) := by
  unfold srcConfigure
  try dsimp only
  repeat' (first
    | with_reducible exact h_
    | with_reducible exact hl_
    | with_reducible apply modSrc_only
    | with_reducible apply srcMove_only
    | with_reducible apply genPublish_only
    | with_reducible apply only_ite
    | exact List.Subset.trans (by decide) hl_
    | dsimp only
    | split)

theorem vinConfigure_only {l_ : List Comp} {s0_ : State} {old : State} {k : Int} {s : State} (hl_ : [Comp.regs, .teller, .vin] ⊆ l_)
    (h_ : Only l_ s0_ s) : Only l_ s0_ (vinConfigure old k s) := by
  unfold vinConfigure
  try dsimp only
  repeat' (first
    | with_reducible exact h_
    | with_reducible exact hl_
    | with_reducible assumption
    | with_reducible apply srcConfigure_only
    | with_reducible refine only_foldl ?_ (fun _ _ _ => ?_)
    | with_reducible apply only_ite
    | exact List.Subset.trans (by decide) hl_
    | fail_if_no_progress ((with_reducible refine only_mk (k := [.vin]) ?_ ?_ ?lit); case lit => exact fun c hc => by cases c <;> first | with_reducible rfl | exact absurd (by decide) hc))

theorem frameVin_only {l_ : List Comp} {s0_ : State} {k : Int} {s : State} (hl_ : [Comp.regs, .teller, .vin] ⊆ l_)
    (h_ : Only l_ s0_ s) : Only l_ s0_ (frameVin k s) := by
  unfold frameVin
  try dsimp only
  repeat' (first
    | with_reducible exact h_
    | with_reducible exact hl_
    | with_reducible assumption
    | with_reducible apply setReg_only
    | with_reducible apply sendSlip_only
    | with_reducible apply judgeLayer_only
    | with_reducible apply countReady_only
    | with_reducible refine only_foldl ?_ (fun _ _ _ => ?_)
    | with_reducible apply only_ite
    | exact List.Subset.trans (by decide) hl_
    | fail_if_no_progress ((with_reducible refine only_mk (k := [.vin]) ?_ ?_ ?lit); case lit => exact fun c hc => by cases c <;> first | with_reducible rfl | exact absurd (by decide) hc))

theorem vinStop_only {l_ : List Comp} {s0_ : State} {s : State} (hl_ : [Comp.vin] ⊆ l_)
    (h_ : Only l_ s0_ s) : Only l_ s0_ (vinStop s) := by
  unfold vinStop
  try dsimp only
  repeat' (first
    | with_reducible exact h_
    | with_reducible exact hl_
    | exact List.Subset.trans (by decide) hl_
    | fail_if_no_progress ((with_reducible refine only_mk (k := [.vin]) ?_ ?_ ?lit); case lit => exact fun c hc => by cases c <;> first | with_reducible rfl | exact absurd (by decide) hc))

theorem vinStart_only {l_ : List Comp} {s0_ : State} {s : State} (hl_ : [Comp.regs, .teller, .vin] ⊆ l_)
    (h_ : Only l_ s0_ s) : Only l_ s0_ (vinStart s) := by
  unfold vinStart
  try dsimp only
  repeat' (first
    | with_reducible exact h_
    | with_reducible exact hl_
    | with_reducible assumption
    | with_reducible apply modSrc_only
    | with_reducible apply srcMove_only
    | with_reducible refine only_foldl ?_ (fun _ _ _ => ?_)
    | with_reducible apply only_ite
    | exact List.Subset.trans (by decide) hl_
    | fail_if_no_progress ((with_reducible refine only_mk (k := [.vin]) ?_ ?_ ?lit); case lit => exact fun c hc => by cases c <;> first | with_reducible rfl | exact absurd (by decide) hc))

theorem execInputSet_only {l_ : List Comp} {s0_ : State} {c : Call} {p : InputSet} {s : State} (hl_ : [Comp.regs, .time, .teller] ⊆ l_)
    (h_ : Only l_ s0_ s) : OutOnly l_ s0_ (execInputSet c p s) := by
  unfold execInputSet
  try dsimp only
  repeat' (first
    | with_reducible exact h_
    | with_reducible exact hl_
    | with_reducible apply configMessage_only)

theorem execInputStreamSet_only {l_ : List Comp} {s0_ : State} {c : Call} {p : InputStreamSet} {s : State} (hl_ : [Comp.regs, .time, .teller] ⊆ l_)
    (h_ : Only l_ s0_ s) : OutOnly l_ s0_ (execInputStreamSet c p s) := by
  unfold execInputStreamSet
  try dsimp only
  repeat' (first
    | with_reducible exact h_
    | with_reducible exact hl_
    | with_reducible apply configMessage_only)

theorem execGeneratorSet_only {l_ : List Comp} {s0_ : State} {c : Call} {p : GeneratorSet} {s : State} (hl_ : [Comp.regs, .time, .teller] ⊆ l_)
    (h_ : Only l_ s0_ s) : OutOnly l_ s0_ (execGeneratorSet c p s) := by
  unfold execGeneratorSet
  try dsimp only
  repeat' (first
    | with_reducible exact h_
    | with_reducible exact hl_
    | with_reducible apply configMessage_only)

theorem execLayerBind_only {l_ : List Comp} {s0_ : State} {c : Call} {p : LayerBind} {s : State} (hl_ : [Comp.regs, .time, .teller] ⊆ l_)
    (h_ : Only l_ s0_ s) : OutOnly l_ s0_ (execLayerBind c p s) := by
  unfold execLayerBind
  try dsimp only
  repeat' (first
    | with_reducible exact h_
    | with_reducible exact hl_
    | with_reducible apply configMessage_only)

theorem vinShadow_only {l_ : List Comp} {s0_ : State} {m : ConfigMsg} {s : State} (hl_ : [Comp.regs, .vin] ⊆ l_)
    (h_ : Only l_ s0_ s) : Only l_ s0_ (vinShadow m s) := by
  unfold vinShadow
  try dsimp only
  repeat' (first
    | with_reducible exact h_
    | with_reducible exact hl_
    | with_reducible apply setReg_only
    | with_reducible apply modSrc_only
    | with_reducible apply only_ite
    | exact List.Subset.trans (by decide) hl_
    | dsimp only
    | split)

theorem execInputStatusGet_only {l_ : List Comp} {s0_ : State} {c : Call} {source : Nat} {s : State} (hl_ : [Comp.regs, .time, .teller] ⊆ l_)
    (h_ : Only l_ s0_ s) : OutOnly l_ s0_ (execInputStatusGet c source s) := by
  unfold execInputStatusGet
  try dsimp only
  repeat' (first
    | with_reducible exact h_
    | with_reducible exact hl_
    | with_reducible assumption
    | with_reducible refine command_only ?_ ?_ (fun _ _ => ?_)
    | with_reducible apply refuse_only
    | with_reducible apply answer_only
    | with_reducible apply OutOnly.ite
    | with_reducible apply only_ite
    | with_reducible apply only_ite_fst
    | with_reducible apply OutOnly.next
    | exact List.Subset.trans (by decide) hl_
    | dsimp only
    | split)

theorem execLayerRelease_only {l_ : List Comp} {s0_ : State} {c : Call} {layer : Nat} {s : State} (hl_ : [Comp.regs, .time, .teller, .vin] ⊆ l_)
    (h_ : Only l_ s0_ s) : OutOnly l_ s0_ (execLayerRelease c layer s) := by
  unfold execLayerRelease
  try dsimp only
  repeat' (first
    | with_reducible exact h_
    | with_reducible exact hl_
    | with_reducible assumption
    | with_reducible refine command_only ?_ ?_ (fun _ _ => ?_)
    | with_reducible apply refuse_only
    | with_reducible apply accept_only
    | with_reducible apply modLayer_only
    | with_reducible apply OutOnly.ite
    | with_reducible apply only_ite
    | with_reducible apply only_ite_fst
    | with_reducible apply OutOnly.next
    | exact List.Subset.trans (by decide) hl_
    | dsimp only
    | split)

end Sys2Proof.Laws
end

