-- ==== Sys2Proof/Laws/OnlyCompositor.lean ====
section
/-! SUPPORT. Which components of the machine the operations of Machine/Compositor.lean may change. -/

namespace Sys2Proof.Laws

open Sys2Proof.Machine Sys2Proof.Safety

theorem modCmp_only {l_ : List Comp} {s0_ : State} {f : Cmp → Cmp} {s : State} (hl_ : [Comp.cmp] ⊆ l_)
    (h_ : Only l_ s0_ s) : Only l_ s0_ (modCmp f s) := by
  unfold modCmp
  try dsimp only
  repeat' (first
    | with_reducible exact h_
    | with_reducible exact hl_
    | with_reducible apply only_ite
    | fail_if_no_progress ((with_reducible refine only_mk (k := [.cmp]) ?_ ?_ ?lit); case lit => exact fun c hc => by cases c <;> first | with_reducible rfl | exact absurd (by decide) hc))

theorem pipeShadow_only {l_ : List Comp} {s0_ : State} {r : Cfg} {pl : CanvasPlan} {s : State} {q : Nat} (hl_ : [Comp.regs] ⊆ l_)
    (h_ : Only l_ s0_ s) : Only l_ s0_ (pipeShadow r pl s q) := by
  unfold pipeShadow
  try dsimp only
  repeat' (first
    | with_reducible exact h_
    | with_reducible exact hl_
    | with_reducible assumption
    | with_reducible apply setReg_only
    | with_reducible refine only_foldl ?_ (fun _ _ _ => ?_)
    | exact List.Subset.trans (by decide) hl_
    | dsimp only
    | split)

theorem canvasShadow_only {l_ : List Comp} {s0_ : State} {r : Cfg} {s : State} (hl_ : [Comp.regs] ⊆ l_)
    (h_ : Only l_ s0_ s) : Only l_ s0_ (canvasShadow r s) := by
  unfold canvasShadow
  try dsimp only
  repeat' (first
    | with_reducible exact h_
    | with_reducible exact hl_
    | with_reducible apply setReg_only
    | with_reducible apply setReg64_only
    | exact List.Subset.trans (by decide) hl_)

theorem cmpWrite_only {l_ : List Comp} {s0_ : State} {qs : List Nat} {canvas : Bool} {r : Cfg} {s : State} (hl_ : [Comp.regs, .cmp] ⊆ l_)
    (h_ : Only l_ s0_ s) : Only l_ s0_ (cmpWrite qs canvas r s) := by
  unfold cmpWrite
  try dsimp only
  repeat' (first
    | with_reducible exact h_
    | with_reducible exact hl_
    | with_reducible assumption
    | with_reducible apply modCmp_only
    | with_reducible apply pipeShadow_only
    | with_reducible apply canvasShadow_only
    | with_reducible refine only_foldl ?_ (fun _ _ _ => ?_)
    | with_reducible apply only_ite
    | exact List.Subset.trans (by decide) hl_)

theorem cmpCommit_only {l_ : List Comp} {s0_ : State} {k : Int} {tag : Int} {old : Cfg} {new : Cfg} {msgs : List ConfigMsg} {s : State} (hl_ : [Comp.regs, .cmp] ⊆ l_)
    (h_ : Only l_ s0_ s) : Only l_ s0_ (cmpCommit k tag old new msgs s) := by
  unfold cmpCommit
  try dsimp only
  repeat' (first
    | with_reducible exact h_
    | with_reducible exact hl_
    | with_reducible apply setReg_only
    | with_reducible apply modCmp_only
    | with_reducible apply cmpWrite_only
    | exact List.Subset.trans (by decide) hl_
    | dsimp only
    | split)

theorem cmpGo_only {l_ : List Comp} {s0_ : State} {v : Word} {s : State} (hl_ : [Comp.cmp] ⊆ l_)
    (h_ : Only l_ s0_ s) : Only l_ s0_ (cmpGo v s) := by
  unfold cmpGo
  try dsimp only
  repeat' (first
    | with_reducible exact h_
    | with_reducible exact hl_
    | with_reducible apply modCmp_only
    | with_reducible apply only_ite
    | exact List.Subset.trans (by decide) hl_)

theorem cmpInForce_only {l_ : List Comp} {s0_ : State} {tag : Int} {s : State} (hl_ : [Comp.cmp] ⊆ l_)
    (h_ : Only l_ s0_ s) : Only l_ s0_ (cmpInForce tag s) := by
  unfold cmpInForce
  try dsimp only
  repeat' (first
    | with_reducible exact h_
    | with_reducible exact hl_
    | with_reducible apply modCmp_only
    | exact List.Subset.trans (by decide) hl_)

theorem cmpCopy_only {l_ : List Comp} {s0_ : State} {a : Int × Int} {s : State} (hl_ : [Comp.regs, .cmp] ⊆ l_)
    (h_ : Only l_ s0_ s) : Only l_ s0_ (cmpCopy a s) := by
  unfold cmpCopy
  try dsimp only
  repeat' (first
    | with_reducible exact h_
    | with_reducible exact hl_
    | with_reducible apply copyShadows_only
    | with_reducible apply bump_only
    | with_reducible apply setFlag_only
    | with_reducible apply modCmp_only
    | with_reducible apply cmpInForce_only
    | with_reducible apply only_ite
    | with_reducible apply only_ite_fst
    | exact List.Subset.trans (by decide) hl_)

theorem startCanvas_only {l_ : List Comp} {s0_ : State} {k : Int} {s : State} (hl_ : [Comp.cmp] ⊆ l_)
    (h_ : Only l_ s0_ s) : Only l_ s0_ (startCanvas k s) := by
  unfold startCanvas
  try dsimp only
  repeat' (first
    | with_reducible exact h_
    | with_reducible exact hl_
    | with_reducible apply modCmp_only
    | with_reducible apply only_ite
    | with_reducible apply only_ite_fst
    | exact List.Subset.trans (by decide) hl_)

theorem frameCmp_only {l_ : List Comp} {s0_ : State} {k : Int} {s : State} (hl_ : [Comp.regs, .cmp] ⊆ l_)
    (h_ : Only l_ s0_ s) : Only l_ s0_ (frameCmp k s) := by
  unfold frameCmp
  try dsimp only
  repeat' (first
    | with_reducible exact h_
    | with_reducible exact hl_
    | with_reducible apply bump_only
    | with_reducible apply setFlag_only
    | with_reducible apply modCmp_only
    | with_reducible apply cmpCopy_only
    | with_reducible apply startCanvas_only
    | with_reducible apply only_ite
    | exact List.Subset.trans (by decide) hl_
    | dsimp only
    | split)

theorem canvasComplete_only {l_ : List Comp} {s0_ : State} {n : Nat} {c : Canvas} {s : State} (hl_ : [Comp.regs, .teller, .cmp] ⊆ l_)
    (h_ : Only l_ s0_ s) : Only l_ s0_ (canvasComplete n c s) := by
  unfold canvasComplete
  try dsimp only
  repeat' (first
    | with_reducible exact h_
    | with_reducible exact hl_
    | with_reducible apply notify_only
    | with_reducible apply modCmp_only
    | with_reducible apply only_ite
    | exact List.Subset.trans (by decide) hl_
    | dsimp only
    | split)

theorem putTile_only {l_ : List Comp} {s0_ : State} {n : Nat} {c : Canvas} {tile : Nat} {l : Look} {s : State} (hl_ : [Comp.cmp] ⊆ l_)
    (h_ : Only l_ s0_ s) : Only l_ s0_ (putTile n c tile l s) := by
  unfold putTile
  try dsimp only
  repeat' (first
    | with_reducible exact h_
    | with_reducible exact hl_
    | with_reducible apply modCmp_only
    | exact List.Subset.trans (by decide) hl_)

theorem repairTile_only {l_ : List Comp} {s0_ : State} {n : Nat} {c : Canvas} {s : State} {tile : Nat} (hl_ : [Comp.regs, .cmp] ⊆ l_)
    (h_ : Only l_ s0_ s) : Only l_ s0_ (repairTile n c s tile) := by
  unfold repairTile
  try dsimp only
  repeat' (first
    | with_reducible exact h_
    | with_reducible exact hl_
    | with_reducible apply bump_only
    | with_reducible apply setFlag_only
    | with_reducible apply putTile_only
    | exact List.Subset.trans (by decide) hl_
    | dsimp only
    | split)

theorem canvasLine_only {l_ : List Comp} {s0_ : State} {line : Nat} {s : State} (hl_ : [Comp.regs, .teller, .protect, .cmp] ⊆ l_)
    (h_ : Only l_ s0_ s) : Only l_ s0_ (canvasLine line s) := by
  unfold canvasLine
  try dsimp only
  repeat' (first
    | with_reducible exact h_
    | with_reducible exact hl_
    | with_reducible assumption
    | with_reducible apply modCmp_only
    | with_reducible apply canvasComplete_only
    | with_reducible apply repairTile_only
    | with_reducible refine only_foldl ?_ (fun _ _ _ => ?_)
    | with_reducible apply only_ite
    | exact List.Subset.trans (by decide) hl_
    | split
    | fail_if_no_progress ((with_reducible refine only_mk (k := [.protect]) ?_ ?_ ?lit); case lit => exact fun c hc => by cases c <;> first | with_reducible rfl | exact absurd (by decide) hc))

theorem cmpStop_only {l_ : List Comp} {s0_ : State} {s : State} (hl_ : [Comp.cmp] ⊆ l_)
    (h_ : Only l_ s0_ s) : Only l_ s0_ (cmpStop s) := by
  unfold cmpStop
  try dsimp only
  repeat' (first
    | with_reducible exact h_
    | with_reducible exact hl_
    | with_reducible apply modCmp_only
    | exact List.Subset.trans (by decide) hl_)

theorem cmpOff_only {l_ : List Comp} {s0_ : State} {s : State} (hl_ : [Comp.cmp] ⊆ l_)
    (h_ : Only l_ s0_ s) : Only l_ s0_ (cmpOff s) := by
  unfold cmpOff
  try dsimp only
  repeat' (first
    | with_reducible exact h_
    | with_reducible exact hl_
    | with_reducible apply modCmp_only
    | with_reducible apply cmpStop_only
    | exact List.Subset.trans (by decide) hl_)

theorem execLayerSet_only {l_ : List Comp} {s0_ : State} {c : Call} {p : LayerSet} {s : State} (hl_ : [Comp.regs, .time, .teller] ⊆ l_)
    (h_ : Only l_ s0_ s) : OutOnly l_ s0_ (execLayerSet c p s) := by
  unfold execLayerSet
  try dsimp only
  repeat' (first
    | with_reducible exact h_
    | with_reducible exact hl_
    | with_reducible apply configMessage_only)

theorem execCanvasSet_only {l_ : List Comp} {s0_ : State} {c : Call} {p : CanvasSet} {s : State} (hl_ : [Comp.regs, .time, .teller] ⊆ l_)
    (h_ : Only l_ s0_ s) : OutOnly l_ s0_ (execCanvasSet c p s) := by
  unfold execCanvasSet
  try dsimp only
  repeat' (first
    | with_reducible exact h_
    | with_reducible exact hl_
    | with_reducible apply configMessage_only)

theorem execCompStatusGet_only {l_ : List Comp} {s0_ : State} {c : Call} {s : State} (hl_ : [Comp.regs, .time, .teller] ⊆ l_)
    (h_ : Only l_ s0_ s) : OutOnly l_ s0_ (execCompStatusGet c s) := by
  unfold execCompStatusGet
  try dsimp only
  repeat' (first
    | with_reducible exact h_
    | with_reducible exact hl_
    | with_reducible assumption
    | with_reducible refine command_only ?_ ?_ (fun _ _ => ?_)
    | with_reducible apply answer_only
    | with_reducible apply OutOnly.ite
    | with_reducible apply only_ite
    | with_reducible apply OutOnly.next
    | exact List.Subset.trans (by decide) hl_)

end Sys2Proof.Laws
end

