-- ==== Sys2Proof/Laws/OnlyIntegrity.lean ====
section
/-! SUPPORT. Which components of the machine the operations of Machine/Integrity.lean may change. -/

namespace Sys2Proof.Laws

open Sys2Proof.Machine Sys2Proof.Safety

theorem chkSettle_only {l_ : List Comp} {s0_ : State} {ch : Nat} {s : State} (hl_ : [Comp.regs, .teller] ⊆ l_)
    (h_ : Only l_ s0_ s) : Only l_ s0_ (chkSettle ch s) := by
  unfold chkSettle
  split
  · refine chkRun_only (List.Subset.trans (by decide) hl_) (only_mk (k := [.teller]) h_ (List.Subset.trans (by decide) hl_) ?_)
    intro c hc
    cases c <;> first | exact absurd (by decide) hc | rfl
  · exact h_

theorem byOwner_only {l_ : List Comp} {s0_ : State} {owner ch : Nat} {s : State} {f : State → State} (hl_ : [Comp.regs, .teller] ⊆ l_)
    (h_ : Only l_ s0_ s) (hf : ∀ x, Only l_ s0_ x → Only l_ s0_ (f x)) : Only l_ s0_ (byOwner owner ch s f) := by
  unfold byOwner
  split
  · exact hf _ (chkSettle_only hl_ h_)
  · exact setFlag_only (List.Subset.trans (by decide) hl_) h_

theorem chkStart_only {l_ : List Comp} {s0_ : State} {ch : Nat} {aliveClr : Bool} {s : State} (hl_ : [Comp.regs] ⊆ l_)
    (h_ : Only l_ s0_ s) : Only l_ s0_ (chkStart ch aliveClr s) := by
  unfold chkStart
  try dsimp only
  repeat' (first
    | with_reducible exact h_
    | with_reducible exact hl_
    | with_reducible apply setReg_only
    | with_reducible apply setField_only
    | with_reducible apply only_ite)

theorem chkFeed_only {l_ : List Comp} {s0_ : State} {ch : Nat} {w : Word} {s : State} (hl_ : [Comp.regs] ⊆ l_)
    (h_ : Only l_ s0_ s) : Only l_ s0_ (chkFeed ch w s) := by
  unfold chkFeed
  try dsimp only
  repeat' (first
    | with_reducible exact h_
    | with_reducible exact hl_
    | with_reducible apply setReg_only
    | with_reducible apply bumpBy_only)

theorem aliveFault_only {l_ : List Comp} {s0_ : State} {ch : Nat} {s : State} (hl_ : [Comp.regs] ⊆ l_)
    (h_ : Only l_ s0_ s) : Only l_ s0_ (aliveFault ch s) := by
  unfold aliveFault
  try dsimp only
  repeat' (first
    | with_reducible exact h_
    | with_reducible exact hl_
    | with_reducible apply setFlag_only
    | with_reducible apply only_ite)

theorem modProtect_only {l_ : List Comp} {s0_ : State} {f : Protect → Protect} {s : State} (hl_ : [Comp.protect] ⊆ l_)
    (h_ : Only l_ s0_ s) : Only l_ s0_ (modProtect f s) := by
  unfold modProtect
  try dsimp only
  repeat' (first
    | with_reducible exact h_
    | with_reducible exact hl_
    | with_reducible apply only_ite
    | fail_if_no_progress ((with_reducible refine only_mk (k := [.protect]) ?_ ?_ ?lit); case lit => exact fun c hc => by cases c <;> first | with_reducible rfl | exact absurd (by decide) hc))

theorem judgeAlive_only {l_ : List Comp} {s0_ : State} {ch : Nat} {a : Nat} {s : State} (hl_ : [Comp.regs, .protect] ⊆ l_)
    (h_ : Only l_ s0_ s) : Only l_ s0_ (judgeAlive ch a s) := by
  unfold judgeAlive
  try dsimp only
  repeat' (first
    | with_reducible exact h_
    | with_reducible exact hl_
    | with_reducible apply setReg_only
    | with_reducible apply bumpField_only
    | with_reducible apply aliveFault_only
    | with_reducible apply modProtect_only
    | exact List.Subset.trans (by decide) hl_
    | dsimp only
    | split)

theorem chkResult_only {l_ : List Comp} {s0_ : State} {ch : Nat} {s : State} (hl_ : [Comp.regs, .protect] ⊆ l_)
    (h_ : Only l_ s0_ s) : Only l_ s0_ (chkResult ch s) := by
  unfold chkResult
  try dsimp only
  repeat' (first
    | with_reducible exact h_
    | with_reducible exact hl_
    | with_reducible apply setReg_only
    | with_reducible apply modProtect_only
    | exact List.Subset.trans (by decide) hl_)

theorem chkFinish_only {l_ : List Comp} {s0_ : State} {ch : Nat} {a : Nat} {s : State} (hl_ : [Comp.regs, .protect] ⊆ l_)
    (h_ : Only l_ s0_ s) : Only l_ s0_ (chkFinish ch a s) := by
  unfold chkFinish
  try dsimp only
  repeat' (first
    | with_reducible exact h_
    | with_reducible exact hl_
    | with_reducible apply judgeAlive_only
    | with_reducible apply chkResult_only
    | with_reducible apply only_ite
    | exact List.Subset.trans (by decide) hl_)

theorem chkState_only {l_ : List Comp} {s0_ : State} {ch : Nat} {alive : Bool} {write : Option Word} {s : State} (hl_ : [Comp.regs] ⊆ l_)
    (h_ : Only l_ s0_ s) : Only l_ s0_ (chkState ch alive write s) := by
  unfold chkState
  try dsimp only
  repeat' (first
    | with_reducible exact h_
    | with_reducible exact hl_
    | with_reducible apply setReg_only
    | with_reducible apply only_ite
    | exact List.Subset.trans (by decide) hl_
    | split
    | fail_if_no_progress ((with_reducible refine only_mk (k := [.regs]) ?_ ?_ ?lit); case lit => exact fun c hc => by cases c <;> first | with_reducible rfl | exact absurd (by decide) hc))

theorem execChkStart_only {l_ : List Comp} {s0_ : State} {t : Nat} {owner : Nat} {ch : Fin 64} {aliveClr : Bool} {s : State} (hl_ : [Comp.regs, .time, .teller] ⊆ l_)
    (h_ : Only l_ s0_ s) : OutOnly l_ s0_ (execChkStart t owner ch aliveClr s) := by
  unfold execChkStart
  try dsimp only
  repeat' (first
    | with_reducible exact h_
    | with_reducible exact hl_
    | with_reducible assumption
    | with_reducible apply advance_only
    | with_reducible refine byOwner_only ?_ ?_ (fun _ _ => ?_)
    | with_reducible apply chkStart_only
    | with_reducible apply OutOnly.ite
    | with_reducible apply only_ite
    | with_reducible apply OutOnly.next
    | exact List.Subset.trans (by decide) hl_)

theorem execChkFeed_only {l_ : List Comp} {s0_ : State} {t : Nat} {owner : Nat} {ch : Fin 64} {w : Word} {s : State} (hl_ : [Comp.regs, .time, .teller] ⊆ l_)
    (h_ : Only l_ s0_ s) : OutOnly l_ s0_ (execChkFeed t owner ch w s) := by
  unfold execChkFeed
  try dsimp only
  repeat' (first
    | with_reducible exact h_
    | with_reducible exact hl_
    | with_reducible assumption
    | with_reducible apply advance_only
    | with_reducible refine byOwner_only ?_ ?_ (fun _ _ => ?_)
    | with_reducible apply chkFeed_only
    | with_reducible apply OutOnly.ite
    | with_reducible apply only_ite
    | with_reducible apply OutOnly.next
    | exact List.Subset.trans (by decide) hl_)

theorem execChkFinish_only {l_ : List Comp} {s0_ : State} {t : Nat} {owner : Nat} {ch : Fin 64} {alive : Nat} {s : State} (hl_ : [Comp.regs, .time, .teller, .protect] ⊆ l_)
    (h_ : Only l_ s0_ s) : OutOnly l_ s0_ (execChkFinish t owner ch alive s) := by
  unfold execChkFinish
  try dsimp only
  repeat' (first
    | with_reducible exact h_
    | with_reducible exact hl_
    | with_reducible assumption
    | with_reducible apply advance_only
    | with_reducible refine byOwner_only ?_ ?_ (fun _ _ => ?_)
    | with_reducible apply chkFinish_only
    | with_reducible apply OutOnly.ite
    | with_reducible apply only_ite
    | with_reducible apply OutOnly.next
    | exact List.Subset.trans (by decide) hl_)

theorem execChkStateAccess_only {l_ : List Comp} {s0_ : State} {t : Nat} {owner : Nat} {ch : Fin 64} {alive : Bool} {write : Option Word} {s : State} (hl_ : [Comp.regs, .time, .teller] ⊆ l_)
    (h_ : Only l_ s0_ s) : OutOnly l_ s0_ (execChkStateAccess t owner ch alive write s) := by
  unfold execChkStateAccess
  try dsimp only
  repeat' (first
    | with_reducible exact h_
    | with_reducible exact hl_
    | with_reducible assumption
    | with_reducible apply advance_only
    | with_reducible refine byOwner_only ?_ ?_ (fun _ _ => ?_)
    | with_reducible apply chkState_only
    | with_reducible apply OutOnly.ite
    | with_reducible apply only_ite
    | with_reducible apply OutOnly.next
    | exact List.Subset.trans (by decide) hl_)

theorem assignChannels_only {l_ : List Comp} {s0_ : State} {s : State} (hl_ : [Comp.regs] ⊆ l_)
    (h_ : Only l_ s0_ s) : Only l_ s0_ (assignChannels s) := by
  unfold assignChannels
  try dsimp only
  repeat' (first
    | with_reducible exact h_
    | with_reducible exact hl_
    | with_reducible assumption
    | with_reducible apply setField_only
    | with_reducible refine only_foldl ?_ (fun _ _ _ => ?_))

theorem modFifo_only {l_ : List Comp} {s0_ : State} {q : Nat} {f : Fifo → Fifo} {s : State} (hl_ : [Comp.fifos] ⊆ l_)
    (h_ : Only l_ s0_ s) : Only l_ s0_ (modFifo q f s) := by
  unfold modFifo
  try dsimp only
  repeat' (first
    | with_reducible exact h_
    | with_reducible exact hl_
    | with_reducible apply only_ite
    | fail_if_no_progress ((with_reducible refine only_mk (k := [.fifos]) ?_ ?_ ?lit); case lit => exact fun c hc => by cases c <;> first | with_reducible rfl | exact absurd (by decide) hc))

theorem fifoWrite_only {l_ : List Comp} {s0_ : State} {q : Nat} {byte : BitVec 8} {first : Bool} {eop : Bool} {s : State} (hl_ : [Comp.regs, .fifos] ⊆ l_)
    (h_ : Only l_ s0_ s) : Only l_ s0_ (fifoWrite q byte first eop s) := by
  unfold fifoWrite
  try dsimp only
  repeat' (first
    | with_reducible exact h_
    | with_reducible exact hl_
    | with_reducible apply bumpField_only
    | with_reducible apply modFifo_only
    | with_reducible apply only_ite
    | exact List.Subset.trans (by decide) hl_)

theorem fifoUnderrun_only {l_ : List Comp} {s0_ : State} {q : Nat} {wide : Bool} {s : State} (hl_ : [Comp.regs, .fifos] ⊆ l_)
    (h_ : Only l_ s0_ s) : Only l_ s0_ (fifoUnderrun q wide s) := by
  unfold fifoUnderrun
  try dsimp only
  repeat' (first
    | with_reducible exact h_
    | with_reducible exact hl_
    | with_reducible apply bumpField_only
    | with_reducible apply setFlag_only
    | with_reducible apply modFifo_only
    | exact List.Subset.trans (by decide) hl_
    | fail_if_no_progress ((with_reducible refine only_mk (k := [.regs]) ?_ ?_ ?lit); case lit => exact fun c hc => by cases c <;> first | with_reducible rfl | exact absurd (by decide) hc))

theorem fifoPop_only {l_ : List Comp} {s0_ : State} {q : Nat} {bad : BitVec 8} {wide : Bool} {s : State} (hl_ : [Comp.regs, .fifos] ⊆ l_)
    (h_ : Only l_ s0_ s) : Only l_ s0_ (fifoPop q bad wide s) := by
  unfold fifoPop
  try dsimp only
  repeat' (first
    | with_reducible exact h_
    | with_reducible exact hl_
    | with_reducible apply modFifo_only
    | with_reducible apply fifoUnderrun_only
    | with_reducible apply only_ite
    | exact List.Subset.trans (by decide) hl_
    | fail_if_no_progress ((with_reducible refine only_mk (k := [.regs]) ?_ ?_ ?lit); case lit => exact fun c hc => by cases c <;> first | with_reducible rfl | exact absurd (by decide) hc))

theorem fifoSpoiled_only {l_ : List Comp} {s0_ : State} {q : Nat} {f : Fifo} {s : State} (hl_ : [Comp.regs, .teller, .fifos] ⊆ l_)
    (h_ : Only l_ s0_ s) : Only l_ s0_ (fifoSpoiled q f s) := by
  unfold fifoSpoiled
  try dsimp only
  repeat' (first
    | with_reducible exact h_
    | with_reducible exact hl_
    | with_reducible apply notify_only
    | with_reducible apply modFifo_only
    | with_reducible apply only_ite
    | exact List.Subset.trans (by decide) hl_)

theorem fifoPacket_only {l_ : List Comp} {s0_ : State} {q : Nat} {bytes : List (BitVec 8)} {s : State} (hl_ : [Comp.regs, .fifos] ⊆ l_)
    (h_ : Only l_ s0_ s) : Only l_ s0_ (fifoPacket q bytes s) := by
  unfold fifoPacket
  try dsimp only
  repeat' (first
    | with_reducible exact h_
    | with_reducible exact hl_
    | with_reducible assumption
    | with_reducible apply fifoWrite_only
    | with_reducible refine only_foldl ?_ (fun _ _ _ => ?_)
    | exact List.Subset.trans (by decide) hl_)

theorem intake_only {l_ : List Comp} {s0_ : State} {q : Nat} {bytes : List (BitVec 8)} {s : State} (hl_ : [Comp.regs, .fifos] ⊆ l_)
    (h_ : Only l_ s0_ s) : Only l_ s0_ (intake q bytes s).1 := by
  unfold intake
  try dsimp only
  repeat' (first
    | with_reducible exact h_
    | with_reducible exact hl_
    | with_reducible apply modFifo_only
    | with_reducible apply fifoPacket_only
    | with_reducible apply only_ite
    | with_reducible apply only_ite_fst
    | exact List.Subset.trans (by decide) hl_
    | dsimp only
    | split)

theorem assignQueues_only {l_ : List Comp} {s0_ : State} {s : State} (hl_ : [Comp.regs] ⊆ l_)
    (h_ : Only l_ s0_ s) : Only l_ s0_ (assignQueues s) := by
  unfold assignQueues
  try dsimp only
  repeat' (first
    | with_reducible exact h_
    | with_reducible exact hl_
    | with_reducible assumption
    | with_reducible apply setReg_only
    | with_reducible refine only_foldl ?_ (fun _ _ _ => ?_)
    | with_reducible apply only_ite
    | exact List.Subset.trans (by decide) hl_)

theorem fifoFault_only {l_ : List Comp} {s0_ : State} {q : Nat} {popping : Bool} {s : State} (hl_ : [Comp.regs, .teller, .fifos] ⊆ l_)
    (h_ : Only l_ s0_ s) : Only l_ s0_ (fifoFault q popping s) := by
  unfold fifoFault
  try dsimp only
  repeat' (first
    | with_reducible exact h_
    | with_reducible exact hl_
    | with_reducible apply setFlag_only
    | with_reducible apply notify_only
    | with_reducible apply modFifo_only
    | with_reducible apply fifoUnderrun_only
    | with_reducible apply only_ite
    | exact List.Subset.trans (by decide) hl_)

theorem execFifoByteWrite_only {l_ : List Comp} {s0_ : State} {t : Nat} {q : Fin 18} {byte : BitVec 8} {first : Bool} {eop : Bool} {s : State} (hl_ : [Comp.regs, .time, .fifos] ⊆ l_)
    (h_ : Only l_ s0_ s) : OutOnly l_ s0_ (execFifoByteWrite t q byte first eop s) := by
  unfold execFifoByteWrite
  try dsimp only
  repeat' (first
    | with_reducible exact h_
    | with_reducible exact hl_
    | with_reducible apply advance_only
    | with_reducible apply fifoWrite_only
    | with_reducible apply OutOnly.ite
    | with_reducible apply only_ite
    | with_reducible apply OutOnly.next
    | exact List.Subset.trans (by decide) hl_)

theorem execFifoPointerFault_only {l_ : List Comp} {s0_ : State} {t : Nat} {q : Fin 18} {popping : Bool} {s : State} (hl_ : [Comp.regs, .time, .teller, .fifos] ⊆ l_)
    (h_ : Only l_ s0_ s) : OutOnly l_ s0_ (execFifoPointerFault t q popping s) := by
  unfold execFifoPointerFault
  try dsimp only
  repeat' (first
    | with_reducible exact h_
    | with_reducible exact hl_
    | with_reducible apply advance_only
    | with_reducible apply fifoFault_only
    | with_reducible apply OutOnly.ite
    | with_reducible apply only_ite
    | with_reducible apply OutOnly.next
    | exact List.Subset.trans (by decide) hl_)

theorem outputClear_only {l_ : List Comp} {s0_ : State} {object : Nat} {sites : List Nat} {s : State} (hl_ : [Comp.protect] ⊆ l_)
    (h_ : Only l_ s0_ s) : Only l_ s0_ (outputClear object sites s) := by
  unfold outputClear
  try dsimp only
  repeat' (first
    | with_reducible exact h_
    | with_reducible exact hl_
    | with_reducible apply modProtect_only)

theorem countError_only {l_ : List Comp} {s0_ : State} {kind : Nat} {s : State} (hl_ : [Comp.regs] ⊆ l_)
    (h_ : Only l_ s0_ s) : Only l_ s0_ (countError kind s) := by
  unfold countError
  try dsimp only
  repeat' (first
    | with_reducible exact h_
    | with_reducible exact hl_
    | with_reducible apply bump_only
    | with_reducible apply setFlag_only
    | with_reducible apply only_ite
    | exact List.Subset.trans (by decide) hl_
    | dsimp only
    | split)

theorem captureError_only {l_ : List Comp} {s0_ : State} {e : ErrorFound} {s : State} (hl_ : [Comp.regs] ⊆ l_)
    (h_ : Only l_ s0_ s) : Only l_ s0_ (captureError e s) := by
  unfold captureError
  try dsimp only
  repeat' (first
    | with_reducible exact h_
    | with_reducible exact hl_
    | with_reducible apply setReg_only
    | with_reducible apply setReg64_only
    | with_reducible apply only_ite
    | exact List.Subset.trans (by decide) hl_)

theorem noticeError_only {l_ : List Comp} {s0_ : State} {e : ErrorFound} {s : State} (hl_ : [Comp.regs, .teller, .protect] ⊆ l_)
    (h_ : Only l_ s0_ s) : Only l_ s0_ (noticeError e s) := by
  unfold noticeError
  try dsimp only
  repeat' (first
    | with_reducible exact h_
    | with_reducible exact hl_
    | with_reducible apply notify_only
    | with_reducible apply modProtect_only
    | with_reducible apply only_ite
    | with_reducible apply only_ite_fst
    | exact List.Subset.trans (by decide) hl_
    | dsimp only
    | split)

theorem runError_only {l_ : List Comp} {s0_ : State} {e : ErrorFound} {s : State} (hl_ : [Comp.protect] ⊆ l_)
    (h_ : Only l_ s0_ s) : Only l_ s0_ (runError e s) := by
  unfold runError
  try dsimp only
  repeat' (first
    | with_reducible exact h_
    | with_reducible exact hl_
    | with_reducible apply modProtect_only
    | with_reducible apply only_ite)

theorem errorFound_only {l_ : List Comp} {s0_ : State} {e : ErrorFound} {s : State} (hl_ : [Comp.regs, .teller, .protect] ⊆ l_)
    (h_ : Only l_ s0_ s) : Only l_ s0_ (errorFound e s) := by
  unfold errorFound
  try dsimp only
  repeat' (first
    | with_reducible exact h_
    | with_reducible exact hl_
    | with_reducible apply countError_only
    | with_reducible apply captureError_only
    | with_reducible apply noticeError_only
    | with_reducible apply runError_only
    | with_reducible apply only_ite
    | exact List.Subset.trans (by decide) hl_)

theorem fifoRead_only {l_ : List Comp} {s0_ : State} {q : Nat} {bad : BitVec 8} {wide : Bool} {s : State} (hl_ : [Comp.regs, .teller, .fifos, .protect] ⊆ l_)
    (h_ : Only l_ s0_ s) : Only l_ s0_ (fifoRead q bad wide s) := by
  unfold fifoRead
  try dsimp only
  repeat' (first
    | with_reducible exact h_
    | with_reducible exact hl_
    | with_reducible apply fifoPop_only
    | with_reducible apply fifoSpoiled_only
    | with_reducible apply errorFound_only
    | with_reducible apply only_ite
    | exact List.Subset.trans (by decide) hl_)

theorem execFifoPop_only {l_ : List Comp} {s0_ : State} {t : Nat} {q : Fin 18} {bad : BitVec 8} {wide : Bool} {s : State} (hl_ : [Comp.regs, .time, .teller, .fifos, .protect] ⊆ l_)
    (h_ : Only l_ s0_ s) : OutOnly l_ s0_ (execFifoPop t q bad wide s) := by
  unfold execFifoPop
  try dsimp only
  repeat' (first
    | with_reducible exact h_
    | with_reducible exact hl_
    | with_reducible apply advance_only
    | with_reducible apply fifoRead_only
    | with_reducible apply OutOnly.ite
    | with_reducible apply OutOnly.next
    | exact List.Subset.trans (by decide) hl_
    | dsimp only
    | split)

end Sys2Proof.Laws
end

