-- ==== Sys2Proof/Laws/OnlyAlmanac.lean ====
section
/-! SUPPORT. Which components of the machine the operations of Machine/Almanac.lean may change. -/

namespace Sys2Proof.Laws

open Sys2Proof.Machine Sys2Proof.Safety

theorem modAlm_only {l_ : List Comp} {s0_ : State} {f : Almanac → Almanac} {s : State} (hl_ : [Comp.alm] ⊆ l_)
    (h_ : Only l_ s0_ s) : Only l_ s0_ (modAlm f s) := by
  unfold modAlm
  try dsimp only
  repeat' (first
    | with_reducible exact h_
    | with_reducible exact hl_
    | with_reducible apply only_ite
    | fail_if_no_progress ((with_reducible refine only_mk (k := [.alm]) ?_ ?_ ?lit); case lit => exact fun c hc => by cases c <;> first | with_reducible rfl | exact absurd (by decide) hc))

theorem traceRec_only {l_ : List Comp} {s0_ : State} {r : TraceRec} {s : State} (hl_ : [Comp.alm] ⊆ l_)
    (h_ : Only l_ s0_ s) : Only l_ s0_ (traceRec r s) := by
  unfold traceRec
  try dsimp only
  repeat' (first
    | with_reducible exact h_
    | with_reducible exact hl_
    | with_reducible apply modAlm_only
    | with_reducible apply only_ite
    | exact List.Subset.trans (by decide) hl_
    | dsimp only
    | split)

theorem traceOf_only {l_ : List Comp} {s0_ : State} {kind : Nat} {target : Nat} {outcome : Nat} {object : Nat} {prio : Nat} {frame : Int} {due : Int} {s : State} (hl_ : [Comp.alm] ⊆ l_)
    (h_ : Only l_ s0_ s) : Only l_ s0_ (traceOf kind target outcome object prio frame due s) := by
  unfold traceOf
  try dsimp only
  repeat' (first
    | with_reducible exact h_
    | with_reducible exact hl_
    | with_reducible apply traceRec_only)

theorem refuseInsert_only {l_ : List Comp} {s0_ : State} {list : Nat} {s : State} (hl_ : [Comp.regs, .teller, .alm] ⊆ l_)
    (h_ : Only l_ s0_ s) : Only l_ s0_ (refuseInsert list s) := by
  unfold refuseInsert
  try dsimp only
  repeat' (first
    | with_reducible exact h_
    | with_reducible exact hl_
    | with_reducible apply bump_only
    | with_reducible apply setFlag_only
    | with_reducible apply notify_only
    | with_reducible apply modAlm_only
    | with_reducible apply only_ite
    | exact List.Subset.trans (by decide) hl_)

theorem nextOrder_only {l_ : List Comp} {s0_ : State} {s : State} (hl_ : [Comp.alm] ⊆ l_)
    (h_ : Only l_ s0_ s) : Only l_ s0_ (nextOrder s) := by
  unfold nextOrder
  try dsimp only
  repeat' (first
    | with_reducible exact h_
    | with_reducible exact hl_
    | with_reducible apply modAlm_only)

theorem refuseHorizon_only {l_ : List Comp} {s0_ : State} {kind : Nat} {target : Nat} {object : Nat} {prio : Nat} {frame : Int} {due : Int} {s : State} (hl_ : [Comp.regs, .alm] ⊆ l_)
    (h_ : Only l_ s0_ s) : Only l_ s0_ (refuseHorizon kind target object prio frame due s) := by
  unfold refuseHorizon
  try dsimp only
  repeat' (first
    | with_reducible exact h_
    | with_reducible exact hl_
    | with_reducible apply bump_only
    | with_reducible apply setFlag_only
    | with_reducible apply traceOf_only
    | exact List.Subset.trans (by decide) hl_)

theorem insertLaunch_only {l_ : List Comp} {s0_ : State} {at_ : Int} {kind : LaunchKind} {zones : List (Nat × Int)} {priority : Nat} {s : State} (hl_ : [Comp.regs, .teller, .alm] ⊆ l_)
    (h_ : Only l_ s0_ s) : Only l_ s0_ (insertLaunch at_ kind zones priority s) := by
  unfold insertLaunch
  try dsimp only
  repeat' (first
    | with_reducible exact h_
    | with_reducible exact hl_
    | with_reducible apply modAlm_only
    | with_reducible apply traceOf_only
    | with_reducible apply refuseInsert_only
    | with_reducible apply nextOrder_only
    | with_reducible apply refuseHorizon_only
    | with_reducible apply only_ite
    | exact List.Subset.trans (by decide) hl_)

theorem refuseTimer_only {l_ : List Comp} {s0_ : State} {e : TimerEntry} {s : State} (hl_ : [Comp.regs, .teller, .alm] ⊆ l_)
    (h_ : Only l_ s0_ s) : Only l_ s0_ (refuseTimer e s) := by
  unfold refuseTimer
  try dsimp only
  repeat' (first
    | with_reducible exact h_
    | with_reducible exact hl_
    | with_reducible apply ledgerEvent_only
    | with_reducible apply traceOf_only
    | with_reducible apply refuseInsert_only
    | exact List.Subset.trans (by decide) hl_)

theorem insertTimer_only {l_ : List Comp} {s0_ : State} {e : TimerEntry} {s : State} (hl_ : [Comp.regs, .teller, .alm] ⊆ l_)
    (h_ : Only l_ s0_ s) : Only l_ s0_ (insertTimer e s) := by
  unfold insertTimer
  try dsimp only
  repeat' (first
    | with_reducible exact h_
    | with_reducible exact hl_
    | with_reducible apply modAlm_only
    | with_reducible apply nextOrder_only
    | with_reducible apply refuseHorizon_only
    | with_reducible apply refuseTimer_only
    | with_reducible apply only_ite
    | exact List.Subset.trans (by decide) hl_)

theorem placeDescriptor_only {l_ : List Comp} {s0_ : State} {d : Descriptor} {s : State} (hl_ : [Comp.alm] ⊆ l_)
    (h_ : Only l_ s0_ s) : Only l_ s0_ (placeDescriptor d s) := by
  unfold placeDescriptor
  try dsimp only
  repeat' (first
    | with_reducible exact h_
    | with_reducible exact hl_
    | with_reducible apply modAlm_only
    | with_reducible apply nextOrder_only)

theorem refuseDescriptor_only {l_ : List Comp} {s0_ : State} {d : Descriptor} {s : State} (hl_ : [Comp.regs, .teller, .alm] ⊆ l_)
    (h_ : Only l_ s0_ s) : Only l_ s0_ (refuseDescriptor d s) := by
  unfold refuseDescriptor
  try dsimp only
  repeat' (first
    | with_reducible exact h_
    | with_reducible exact hl_
    | with_reducible apply traceOf_only
    | with_reducible apply refuseInsert_only
    | exact List.Subset.trans (by decide) hl_)

theorem insertDescriptor_only {l_ : List Comp} {s0_ : State} {d : Descriptor} {s : State} (hl_ : [Comp.regs, .teller, .alm] ⊆ l_)
    (h_ : Only l_ s0_ s) : Only l_ s0_ (insertDescriptor d s) := by
  unfold insertDescriptor
  try dsimp only
  repeat' (first
    | with_reducible exact h_
    | with_reducible exact hl_
    | with_reducible apply modAlm_only
    | with_reducible apply placeDescriptor_only
    | with_reducible apply refuseDescriptor_only
    | with_reducible apply only_ite
    | exact List.Subset.trans (by decide) hl_)

theorem workEnded_only {l_ : List Comp} {s0_ : State} {d : Descriptor} {discarded : Bool} {s : State} (hl_ : [Comp.alm] ⊆ l_)
    (h_ : Only l_ s0_ s) : Only l_ s0_ (workEnded d discarded s) := by
  unfold workEnded
  try dsimp only
  repeat' (first
    | with_reducible exact h_
    | with_reducible exact hl_
    | with_reducible apply modAlm_only
    | exact List.Subset.trans (by decide) hl_
    | dsimp only
    | split)

theorem discardDescriptor_only {l_ : List Comp} {s0_ : State} {s : State} {d : Descriptor} (hl_ : [Comp.regs, .alm] ⊆ l_)
    (h_ : Only l_ s0_ s) : Only l_ s0_ (discardDescriptor s d) := by
  unfold discardDescriptor
  try dsimp only
  repeat' (first
    | with_reducible exact h_
    | with_reducible exact hl_
    | with_reducible apply bump_only
    | with_reducible apply traceOf_only
    | with_reducible apply workEnded_only
    | exact List.Subset.trans (by decide) hl_)

theorem discardPast_only {l_ : List Comp} {s0_ : State} {s : State} (hl_ : [Comp.regs, .alm] ⊆ l_)
    (h_ : Only l_ s0_ s) : Only l_ s0_ (discardPast s) := by
  unfold discardPast
  try dsimp only
  repeat' (first
    | with_reducible exact h_
    | with_reducible exact hl_
    | with_reducible assumption
    | with_reducible apply modAlm_only
    | with_reducible apply discardDescriptor_only
    | with_reducible refine only_foldl ?_ (fun _ _ _ => ?_)
    | with_reducible apply only_ite
    | exact List.Subset.trans (by decide) hl_)

theorem readyAll_only {l_ : List Comp} {s0_ : State} {s : State} (hl_ : [Comp.alm] ⊆ l_)
    (h_ : Only l_ s0_ s) : Only l_ s0_ (readyAll s) := by
  unfold readyAll
  try dsimp only
  repeat' (first
    | with_reducible exact h_
    | with_reducible exact hl_
    | with_reducible apply modAlm_only)

theorem execMainsZeroCrossing_only {l_ : List Comp} {s0_ : State} {t : Nat} {s : State} (hl_ : [Comp.time, .alm] ⊆ l_)
    (h_ : Only l_ s0_ s) : OutOnly l_ s0_ (execMainsZeroCrossing t s) := by
  unfold execMainsZeroCrossing
  try dsimp only
  repeat' (first
    | with_reducible exact h_
    | with_reducible exact hl_
    | with_reducible apply advance_only
    | with_reducible apply mainsCross_only
    | with_reducible apply modAlm_only
    | with_reducible apply OutOnly.ite
    | with_reducible apply only_ite
    | with_reducible apply OutOnly.next
    | exact List.Subset.trans (by decide) hl_)

theorem cueWork_only {l_ : List Comp} {s0_ : State} {q : Cue} {s : State} (hl_ : [Comp.regs, .teller, .alm] ⊆ l_)
    (h_ : Only l_ s0_ s) : Only l_ s0_ (cueWork q s) := by
  unfold cueWork
  try dsimp only
  repeat' (first
    | with_reducible exact h_
    | with_reducible exact hl_
    | with_reducible apply insertDescriptor_only
    | with_reducible apply only_ite
    | exact List.Subset.trans (by decide) hl_)

theorem execCueSchedule_only {l_ : List Comp} {s0_ : State} {c : Call} {p : CueSchedule} {s : State} (hl_ : [Comp.regs, .time, .teller, .alm] ⊆ l_)
    (h_ : Only l_ s0_ s) : OutOnly l_ s0_ (execCueSchedule c p s) := by
  unfold execCueSchedule
  try dsimp only
  repeat' (first
    | with_reducible exact h_
    | with_reducible exact hl_
    | with_reducible assumption
    | with_reducible refine command_only ?_ ?_ (fun _ _ => ?_)
    | with_reducible apply refuse_only
    | with_reducible apply accept_only
    | with_reducible apply modAlm_only
    | with_reducible apply traceOf_only
    | with_reducible apply refuseInsert_only
    | with_reducible apply nextOrder_only
    | with_reducible apply refuseHorizon_only
    | with_reducible apply cueWork_only
    | with_reducible apply OutOnly.ite
    | with_reducible apply only_ite
    | with_reducible apply only_ite_fst
    | with_reducible apply OutOnly.next
    | exact List.Subset.trans (by decide) hl_
    | dsimp only
    | split)

theorem execAlmTraceGet_only {l_ : List Comp} {s0_ : State} {c : Call} {first : Nat} {count : Nat} {s : State} (hl_ : [Comp.regs, .time, .teller] ⊆ l_)
    (h_ : Only l_ s0_ s) : OutOnly l_ s0_ (execAlmTraceGet c first count s) := by
  unfold execAlmTraceGet
  try dsimp only
  repeat' (first
    | with_reducible exact h_
    | with_reducible exact hl_
    | with_reducible assumption
    | with_reducible refine command_only ?_ ?_ (fun _ _ => ?_)
    | with_reducible apply refuse_only
    | with_reducible apply answer_only
    | with_reducible apply OutOnly.ite
    | with_reducible apply only_ite
    | with_reducible apply OutOnly.next
    | exact List.Subset.trans (by decide) hl_
    | dsimp only
    | split)

theorem execTraceFreeze_only {l_ : List Comp} {s0_ : State} {t : Nat} {s : State} (hl_ : [Comp.regs, .time, .teller, .alm] ⊆ l_)
    (h_ : Only l_ s0_ s) : OutOnly l_ s0_ (execTraceFreeze t s) := by
  unfold execTraceFreeze
  try dsimp only
  repeat' (first
    | with_reducible exact h_
    | with_reducible exact hl_
    | with_reducible apply advance_only
    | with_reducible apply setFlag_only
    | with_reducible apply notify_only
    | with_reducible apply modAlm_only
    | with_reducible apply OutOnly.ite
    | with_reducible apply only_ite
    | with_reducible apply OutOnly.next
    | exact List.Subset.trans (by decide) hl_
    | dsimp only
    | split)

theorem execTimerRetry_only {l_ : List Comp} {s0_ : State} {t : Nat} {s : State} (hl_ : [Comp.regs, .time, .teller, .alm] ⊆ l_)
    (h_ : Only l_ s0_ s) : OutOnly l_ s0_ (execTimerRetry t s) := by
  unfold execTimerRetry
  try dsimp only
  repeat' (first
    | with_reducible exact h_
    | with_reducible exact hl_
    | with_reducible apply advance_only
    | with_reducible apply modAlm_only
    | with_reducible apply refuseTimer_only
    | with_reducible apply insertTimer_only
    | with_reducible apply OutOnly.ite
    | with_reducible apply only_ite
    | with_reducible apply OutOnly.next
    | exact List.Subset.trans (by decide) hl_
    | dsimp only
    | split)

theorem execDescriptorReady_only {l_ : List Comp} {s0_ : State} {t : Nat} {s : State} (hl_ : [Comp.time, .alm] ⊆ l_)
    (h_ : Only l_ s0_ s) : OutOnly l_ s0_ (execDescriptorReady t s) := by
  unfold execDescriptorReady
  try dsimp only
  repeat' (first
    | with_reducible exact h_
    | with_reducible exact hl_
    | with_reducible apply advance_only
    | with_reducible apply readyAll_only
    | with_reducible apply OutOnly.ite
    | with_reducible apply only_ite
    | with_reducible apply OutOnly.next
    | exact List.Subset.trans (by decide) hl_)

theorem almStop_only {l_ : List Comp} {s0_ : State} {s : State} (hl_ : [Comp.regs, .teller, .alm] ⊆ l_)
    (h_ : Only l_ s0_ s) : Only l_ s0_ (almStop s) := by
  unfold almStop
  try dsimp only
  repeat' (first
    | with_reducible exact h_
    | with_reducible exact hl_
    | with_reducible assumption
    | with_reducible apply notify_only
    | with_reducible apply modAlm_only
    | with_reducible refine only_foldl ?_ (fun _ _ _ => ?_)
    | exact List.Subset.trans (by decide) hl_)

end Sys2Proof.Laws
end

