-- ==== Sys2Proof/Laws/OnlyFixtureMap.lean ====
section
/-! SUPPORT. Which components of the machine the operations of Machine/FixtureMap.lean may change. -/

namespace Sys2Proof.Laws

open Sys2Proof.Machine Sys2Proof.Safety

theorem modFxm_only {l_ : List Comp} {s0_ : State} {f : Fxm → Fxm} {s : State} (hl_ : [Comp.fxm] ⊆ l_)
    (h_ : Only l_ s0_ s) : Only l_ s0_ (modFxm f s) := by
  unfold modFxm
  try dsimp only
  repeat' (first
    | with_reducible exact h_
    | with_reducible exact hl_
    | with_reducible apply only_ite
    | fail_if_no_progress ((with_reducible refine only_mk (k := [.fxm]) ?_ ?_ ?lit); case lit => exact fun c hc => by cases c <;> first | with_reducible rfl | exact absurd (by decide) hc))

theorem applyShed_only {l_ : List Comp} {s0_ : State} {k : Int} {s : State} (hl_ : [Comp.regs, .teller, .fxm] ⊆ l_)
    (h_ : Only l_ s0_ s) : Only l_ s0_ (applyShed k s) := by
  unfold applyShed
  try dsimp only
  repeat' (first
    | with_reducible exact h_
    | with_reducible exact hl_
    | with_reducible assumption
    | with_reducible apply bump_only
    | with_reducible apply setFlag_only
    | with_reducible apply notify_only
    | with_reducible apply modFxm_only
    | with_reducible refine only_foldl ?_ (fun _ _ _ => ?_)
    | with_reducible apply only_ite
    | with_reducible apply only_ite_fst
    | exact List.Subset.trans (by decide) hl_)

theorem staleNotice_only {l_ : List Comp} {s0_ : State} {st : Nat} {unit : Nat} {e : Nat × FixtureEntry} {s : State} (hl_ : [Comp.regs, .teller] ⊆ l_)
    (h_ : Only l_ s0_ s) : Only l_ s0_ (staleNotice st unit e s) := by
  unfold staleNotice
  try dsimp only
  repeat' (first
    | with_reducible exact h_
    | with_reducible exact hl_
    | with_reducible apply setFlag_only
    | with_reducible apply notify_only
    | exact List.Subset.trans (by decide) hl_)

theorem fixtureHold_only {l_ : List Comp} {s0_ : State} {key : Nat} {unit : Nat} {stale : Bool} {s : State} {e : Nat × FixtureEntry} (hl_ : [Comp.regs, .teller, .fxm] ⊆ l_)
    (h_ : Only l_ s0_ s) : Only l_ s0_ (fixtureHold key unit stale s e) := by
  unfold fixtureHold
  try dsimp only
  repeat' (first
    | with_reducible exact h_
    | with_reducible exact hl_
    | with_reducible apply bump_only
    | with_reducible apply modFxm_only
    | with_reducible apply staleNotice_only
    | with_reducible apply only_ite
    | with_reducible apply only_ite_fst
    | exact List.Subset.trans (by decide) hl_)

theorem unitHold_only {l_ : List Comp} {s0_ : State} {key : Nat} {unit : Nat} {stale : Bool} {fs : List (Nat × FixtureEntry)} {s : State} (hl_ : [Comp.regs, .teller, .fxm] ⊆ l_)
    (h_ : Only l_ s0_ s) : Only l_ s0_ (unitHold key unit stale fs s) := by
  unfold unitHold
  try dsimp only
  repeat' (first
    | with_reducible exact h_
    | with_reducible exact hl_
    | with_reducible assumption
    | with_reducible apply fixtureHold_only
    | with_reducible refine only_foldl ?_ (fun _ _ _ => ?_)
    | exact List.Subset.trans (by decide) hl_)

theorem unitReport_only {l_ : List Comp} {s0_ : State} {key : Nat} {unit : Nat} {stale : Bool} {fs : List (Nat × FixtureEntry)} {s : State} (hl_ : [Comp.regs, .teller, .fxm] ⊆ l_)
    (h_ : Only l_ s0_ s) : Only l_ s0_ (unitReport key unit stale fs s) := by
  unfold unitReport
  try dsimp only
  repeat' (first
    | with_reducible exact h_
    | with_reducible exact hl_
    | with_reducible apply modFxm_only
    | with_reducible apply unitHold_only
    | with_reducible apply only_ite
    | exact List.Subset.trans (by decide) hl_)

theorem mapFollow_only {l_ : List Comp} {s0_ : State} {old : Cfg} {new : Cfg} {s : State} (hl_ : [Comp.fxm] ⊆ l_)
    (h_ : Only l_ s0_ s) : Only l_ s0_ (mapFollow old new s) := by
  unfold mapFollow
  try dsimp only
  repeat' (first
    | with_reducible exact h_
    | with_reducible exact hl_
    | with_reducible apply modFxm_only
    | exact List.Subset.trans (by decide) hl_)

theorem fxmStart_only {l_ : List Comp} {s0_ : State} {s : State} (hl_ : [Comp.fxm] ⊆ l_)
    (h_ : Only l_ s0_ s) : Only l_ s0_ (fxmStart s) := by
  unfold fxmStart
  try dsimp only
  repeat' (first
    | with_reducible exact h_
    | with_reducible exact hl_
    | with_reducible apply modFxm_only)

theorem execFixtureSet_only {l_ : List Comp} {s0_ : State} {c : Call} {p : FixtureSet} {s : State} (hl_ : [Comp.regs, .time, .teller] ⊆ l_)
    (h_ : Only l_ s0_ s) : OutOnly l_ s0_ (execFixtureSet c p s) := by
  unfold execFixtureSet
  try dsimp only
  repeat' (first
    | with_reducible exact h_
    | with_reducible exact hl_
    | with_reducible apply configMessage_only)

theorem execZoneSet_only {l_ : List Comp} {s0_ : State} {c : Call} {p : ZoneSet} {s : State} (hl_ : [Comp.regs, .time, .teller] ⊆ l_)
    (h_ : Only l_ s0_ s) : OutOnly l_ s0_ (execZoneSet c p s) := by
  unfold execZoneSet
  try dsimp only
  repeat' (first
    | with_reducible exact h_
    | with_reducible exact hl_
    | with_reducible apply configMessage_only)

theorem execAttrSet_only {l_ : List Comp} {s0_ : State} {c : Call} {p : AttrSet} {s : State} (hl_ : [Comp.regs, .time, .teller] ⊆ l_)
    (h_ : Only l_ s0_ s) : OutOnly l_ s0_ (execAttrSet c p s) := by
  unfold execAttrSet
  try dsimp only
  repeat' (first
    | with_reducible exact h_
    | with_reducible exact hl_
    | with_reducible apply configMessage_only)

theorem fxmGo_only {l_ : List Comp} {s0_ : State} {v : Word} {s : State} (hl_ : [Comp.fxm] ⊆ l_)
    (h_ : Only l_ s0_ s) : Only l_ s0_ (fxmGo v s) := by
  unfold fxmGo
  try dsimp only
  repeat' (first
    | with_reducible exact h_
    | with_reducible exact hl_
    | with_reducible apply modFxm_only
    | with_reducible apply only_ite)

theorem execZoneGet_only {l_ : List Comp} {s0_ : State} {c : Call} {zone : Nat} {s : State} (hl_ : [Comp.regs, .time, .teller] ⊆ l_)
    (h_ : Only l_ s0_ s) : OutOnly l_ s0_ (execZoneGet c zone s) := by
  unfold execZoneGet
  try dsimp only
  repeat' (first
    | with_reducible exact h_
    | with_reducible exact hl_
    | with_reducible assumption
    | with_reducible refine command_only ?_ ?_ (fun _ _ => ?_)
    | with_reducible apply refuse_only
    | with_reducible apply answer_only
    | with_reducible apply OutOnly.ite
    | with_reducible apply only_ite
    | with_reducible apply OutOnly.next
    | exact List.Subset.trans (by decide) hl_
    | dsimp only
    | split)

theorem execAttrValueSet_only {l_ : List Comp} {s0_ : State} {c : Call} {p : AttrValueSet} {s : State} (hl_ : [Comp.regs, .time, .teller, .fxm] ⊆ l_)
    (h_ : Only l_ s0_ s) : OutOnly l_ s0_ (execAttrValueSet c p s) := by
  unfold execAttrValueSet
  try dsimp only
  repeat' (first
    | with_reducible exact h_
    | with_reducible exact hl_
    | with_reducible assumption
    | with_reducible refine command_only ?_ ?_ (fun _ _ => ?_)
    | with_reducible apply refuse_only
    | with_reducible apply accept_only
    | with_reducible apply modFxm_only
    | with_reducible refine only_foldl ?_ (fun _ _ _ => ?_)
    | with_reducible apply OutOnly.ite
    | with_reducible apply only_ite
    | with_reducible apply only_ite_fst
    | with_reducible apply OutOnly.next
    | exact List.Subset.trans (by decide) hl_
    | dsimp only
    | split)

theorem fxmStop_only {l_ : List Comp} {s0_ : State} {s : State} (hl_ : [Comp.fxm] ⊆ l_)
    (h_ : Only l_ s0_ s) : Only l_ s0_ (fxmStop s) := by
  unfold fxmStop
  try dsimp only
  repeat' (first
    | with_reducible exact h_
    | with_reducible exact hl_
    | with_reducible apply modFxm_only
    | exact List.Subset.trans (by decide) hl_)

end Sys2Proof.Laws
end

