-- ==== Sys2Proof/Laws/OnlyLate.lean ====
section
/-! SUPPORT. Which components of the machine the operations of Machine/Late.lean may change. -/

namespace Sys2Proof.Laws

open Sys2Proof.Machine Sys2Proof.Safety

theorem modPool_only {l_ : List Comp} {s0_ : State} {f : Pool → Pool} {s : State} (hl_ : [Comp.pool] ⊆ l_)
    (h_ : Only l_ s0_ s) : Only l_ s0_ (modPool f s) := by
  unfold modPool
  try dsimp only
  repeat' (first
    | with_reducible exact h_
    | with_reducible exact hl_
    | with_reducible apply only_ite
    | fail_if_no_progress ((with_reducible refine only_mk (k := [.pool]) ?_ ?_ ?lit); case lit => exact fun c hc => by cases c <;> first | with_reducible rfl | exact absurd (by decide) hc))

theorem lateNotice_only {l_ : List Comp} {s0_ : State} {z : Nat} {s : State} (hl_ : [Comp.regs, .teller, .pool] ⊆ l_)
    (h_ : Only l_ s0_ s) : Only l_ s0_ (lateNotice z s) := by
  unfold lateNotice
  try dsimp only
  repeat' (first
    | with_reducible exact h_
    | with_reducible exact hl_
    | with_reducible apply notify_only
    | with_reducible apply modPool_only
    | with_reducible apply only_ite
    | exact List.Subset.trans (by decide) hl_)

theorem zoneLate_only {l_ : List Comp} {s0_ : State} {stage : Nat} {z : Nat} {k : Int} {pixels : Nat} {s : State} (hl_ : [Comp.regs, .teller, .pool] ⊆ l_)
    (h_ : Only l_ s0_ s) : Only l_ s0_ (zoneLate stage z k pixels s) := by
  unfold zoneLate
  try dsimp only
  repeat' (first
    | with_reducible exact h_
    | with_reducible exact hl_
    | with_reducible apply modPool_only
    | with_reducible apply lateNotice_only
    | with_reducible apply only_ite
    | exact List.Subset.trans (by decide) hl_)

theorem unsentZone_only {l_ : List Comp} {s0_ : State} {k : Int} {s : State} {z : Nat} (hl_ : [Comp.pool] ⊆ l_)
    (h_ : Only l_ s0_ s) : Only l_ s0_ (unsentZone k s z) := by
  unfold unsentZone
  try dsimp only
  repeat' (first
    | with_reducible exact h_
    | with_reducible exact hl_
    | with_reducible apply modPool_only
    | with_reducible apply only_ite
    | exact List.Subset.trans (by decide) hl_)

end Sys2Proof.Laws
end

