-- ==== Sys2Proof/Laws/OnlyMac.lean ====
section
/-! SUPPORT. Which components of the machine the operations of Machine/Mac.lean may change. -/

namespace Sys2Proof.Laws

open Sys2Proof.Machine Sys2Proof.Safety

theorem modMac_only {l_ : List Comp} {s0_ : State} {f : Mac → Mac} {s : State} (hl_ : [Comp.mac] ⊆ l_)
    (h_ : Only l_ s0_ s) : Only l_ s0_ (modMac f s) := by
  unfold modMac
  try dsimp only
  repeat' (first
    | with_reducible exact h_
    | with_reducible exact hl_
    | with_reducible apply only_ite
    | fail_if_no_progress ((with_reducible refine only_mk (k := [.mac]) ?_ ?_ ?lit); case lit => exact fun c hc => by cases c <;> first | with_reducible rfl | exact absurd (by decide) hc))

theorem modPort_only {l_ : List Comp} {s0_ : State} {p : Nat} {f : MacPort → MacPort} {s : State} (hl_ : [Comp.mac] ⊆ l_)
    (h_ : Only l_ s0_ s) : Only l_ s0_ (modPort p f s) := by
  unfold modPort
  try dsimp only
  repeat' (first
    | with_reducible exact h_
    | with_reducible exact hl_
    | with_reducible apply modMac_only)

theorem tallyBy_only {l_ : List Comp} {s0_ : State} {p : Nat} {i : Nat} {n : Nat} {s : State} (hl_ : [Comp.mac] ⊆ l_)
    (h_ : Only l_ s0_ s) : Only l_ s0_ (tallyBy p i n s) := by
  unfold tallyBy
  try dsimp only
  repeat' (first
    | with_reducible exact h_
    | with_reducible exact hl_
    | with_reducible apply modPort_only)

theorem tallyUp_only {l_ : List Comp} {s0_ : State} {p : Nat} {i : Nat} {s : State} (hl_ : [Comp.mac] ⊆ l_)
    (h_ : Only l_ s0_ s) : Only l_ s0_ (tallyUp p i s) := by
  unfold tallyUp
  try dsimp only
  repeat' (first
    | with_reducible exact h_
    | with_reducible exact hl_
    | with_reducible apply tallyBy_only)

theorem tsqDrop_only {l_ : List Comp} {s0_ : State} {p : Nat} {s : State} (hl_ : [Comp.regs, .teller, .mac] ⊆ l_)
    (h_ : Only l_ s0_ s) : Only l_ s0_ (tsqDrop p s) := by
  unfold tsqDrop
  try dsimp only
  repeat' (first
    | with_reducible exact h_
    | with_reducible exact hl_
    | with_reducible apply setFlag_only
    | with_reducible apply notify_only
    | with_reducible apply modPort_only
    | with_reducible apply tallyUp_only
    | with_reducible apply only_ite
    | exact List.Subset.trans (by decide) hl_
    | dsimp only
    | split)

theorem tsqSettle_only {l_ : List Comp} {s0_ : State} {p : Nat} {s : State} (hl_ : [Comp.regs, .teller, .mac] ⊆ l_)
    (h_ : Only l_ s0_ s) : Only l_ s0_ (tsqSettle p s) := by
  unfold tsqSettle
  try dsimp only
  repeat' (first
    | with_reducible exact h_
    | with_reducible exact hl_
    | with_reducible apply modPort_only
    | with_reducible apply tsqDrop_only
    | with_reducible apply only_ite
    | exact List.Subset.trans (by decide) hl_
    | dsimp only
    | split)

theorem portAt_only {l_ : List Comp} {s0_ : State} {p : Nat} {t : Nat} {s : State} (hl_ : [Comp.regs, .time, .teller, .mac] ⊆ l_)
    (h_ : Only l_ s0_ s) : Only l_ s0_ (portAt p t s) := by
  unfold portAt
  try dsimp only
  repeat' (first
    | with_reducible exact h_
    | with_reducible exact hl_
    | with_reducible apply advance_only
    | with_reducible apply tsqSettle_only
    | exact List.Subset.trans (by decide) hl_)

theorem tsqPut_only {l_ : List Comp} {s0_ : State} {p : Nat} {e : TsEntry} {sIn : State} (hl_ : [Comp.regs, .teller, .mac] ⊆ l_)
    (h_ : Only l_ s0_ sIn) : Only l_ s0_ (tsqPut p e sIn) := by
  unfold tsqPut
  try dsimp only
  repeat' (first
    | with_reducible exact h_
    | with_reducible exact hl_
    | with_reducible apply modPort_only
    | with_reducible apply tsqDrop_only
    | with_reducible apply tsqSettle_only
    | with_reducible apply only_ite
    | exact List.Subset.trans (by decide) hl_)

theorem stampOf_only {l_ : List Comp} {s0_ : State} {p : Nat} {f : TxFrame} {late : Bool} {notSent : Bool} {ts : Int} {s : State} (hl_ : [Comp.regs, .teller, .mac] ⊆ l_)
    (h_ : Only l_ s0_ s) : Only l_ s0_ (stampOf p f late notSent ts s) := by
  unfold stampOf
  try dsimp only
  repeat' (first
    | with_reducible exact h_
    | with_reducible exact hl_
    | with_reducible apply tsqPut_only
    | with_reducible apply only_ite
    | exact List.Subset.trans (by decide) hl_
    | dsimp only
    | split)

theorem tsqPop_only {l_ : List Comp} {s0_ : State} {p : Nat} {s : State} (hl_ : [Comp.regs, .mac] ⊆ l_)
    (h_ : Only l_ s0_ s) : Only l_ s0_ (tsqPop p s) := by
  have hr : [Comp.regs] ⊆ l_ := List.Subset.trans (by decide) hl_
  unfold tsqPop
  split
  · exact only_mk (k := [.regs]) h_ hr (fun c hc => by cases c <;> first | rfl | exact absurd (by decide) hc)
  · exact only_mk (k := [.regs]) (setReg_only hr (setReg_only hr (modPort_only (List.Subset.trans (by decide) hl_) h_))) hr
      (fun c hc => by cases c <;> first | rfl | exact absurd (by decide) hc)

theorem execTsqPop_only {l_ : List Comp} {s0_ : State} {t : Nat} {port : Fin 11} {s : State} (hl_ : [Comp.regs, .time, .teller, .mac] ⊆ l_)
    (h_ : Only l_ s0_ s) : OutOnly l_ s0_ (execTsqPop t port s) := by
  unfold execTsqPop
  try dsimp only
  repeat' (first
    | with_reducible exact h_
    | with_reducible exact hl_
    | with_reducible apply portAt_only
    | with_reducible apply tsqPop_only
    | with_reducible apply OutOnly.ite
    | with_reducible apply OutOnly.next
    | exact List.Subset.trans (by decide) hl_
    | dsimp only
    | split)

theorem numbered_only {l_ : List Comp} {s0_ : State} {p : Nat} {s : State} (hl_ : [Comp.mac] ⊆ l_)
    (h_ : Only l_ s0_ s) : Only l_ s0_ (numbered p s) := by
  unfold numbered
  try dsimp only
  repeat' (first
    | with_reducible exact h_
    | with_reducible exact hl_
    | with_reducible apply modPort_only
    | exact List.Subset.trans (by decide) hl_)

theorem portEnqueue_only {l_ : List Comp} {s0_ : State} {f : TxFrame} {s : State} {p : Nat} (hl_ : [Comp.mac] ⊆ l_)
    (h_ : Only l_ s0_ s) : Only l_ s0_ (portEnqueue f s p) := by
  unfold portEnqueue
  try dsimp only
  repeat' (first
    | with_reducible exact h_
    | with_reducible exact hl_
    | with_reducible apply modPort_only
    | with_reducible apply tallyUp_only
    | with_reducible apply only_ite
    | exact List.Subset.trans (by decide) hl_)

theorem macSend_only {l_ : List Comp} {s0_ : State} {p : Nat} {f : TxFrame} {s : State} (hl_ : [Comp.mac] ⊆ l_)
    (h_ : Only l_ s0_ s) : Only l_ s0_ (macSend p f s) := by
  unfold macSend
  try dsimp only
  repeat' (first
    | with_reducible exact h_
    | with_reducible exact hl_
    | with_reducible assumption
    | with_reducible apply numbered_only
    | with_reducible apply portEnqueue_only
    | with_reducible refine only_foldl ?_ (fun _ _ _ => ?_)
    | exact List.Subset.trans (by decide) hl_)

theorem portArm_only {l_ : List Comp} {s0_ : State} {f : TxFrame} {at_ : Int} {s : State} {p : Nat} (hl_ : [Comp.regs, .mac] ⊆ l_)
    (h_ : Only l_ s0_ s) : Only l_ s0_ (portArm f at_ s p) := by
  unfold portArm
  try dsimp only
  repeat' (first
    | with_reducible exact h_
    | with_reducible exact hl_
    | with_reducible apply setFlag_only
    | with_reducible apply modPort_only
    | with_reducible apply tallyUp_only
    | with_reducible apply only_ite
    | exact List.Subset.trans (by decide) hl_)

theorem macArm_only {l_ : List Comp} {s0_ : State} {p : Nat} {f : TxFrame} {at_ : Int} {s : State} (hl_ : [Comp.regs, .mac] ⊆ l_)
    (h_ : Only l_ s0_ s) : Only l_ s0_ (macArm p f at_ s) := by
  unfold macArm
  try dsimp only
  repeat' (first
    | with_reducible exact h_
    | with_reducible exact hl_
    | with_reducible assumption
    | with_reducible apply portArm_only
    | with_reducible refine only_foldl ?_ (fun _ _ _ => ?_)
    | exact List.Subset.trans (by decide) hl_)

theorem txLate_only {l_ : List Comp} {s0_ : State} {f : TxFrame} {s : State} (hl_ : [Comp.regs, .teller, .pool] ⊆ l_)
    (h_ : Only l_ s0_ s) : Only l_ s0_ (txLate f s) := by
  unfold txLate
  try dsimp only
  repeat' (first
    | with_reducible exact h_
    | with_reducible exact hl_
    | with_reducible apply bump_only
    | with_reducible apply setFlag_only
    | with_reducible apply zoneLate_only
    | exact List.Subset.trans (by decide) hl_
    | dsimp only
    | split)

theorem refillOne_only {l_ : List Comp} {s0_ : State} {p : Nat} {s : State} {f : TxFrame} (hl_ : [Comp.regs, .teller, .pool, .mac] ⊆ l_)
    (h_ : Only l_ s0_ s) : Only l_ s0_ (refillOne p s f) := by
  unfold refillOne
  try dsimp only
  repeat' (first
    | with_reducible exact h_
    | with_reducible exact hl_
    | with_reducible apply portEnqueue_only
    | with_reducible apply txLate_only
    | with_reducible apply only_ite
    | exact List.Subset.trans (by decide) hl_
    | dsimp only
    | split)

theorem portExpire_only {l_ : List Comp} {s0_ : State} {p : Nat} {s : State} (hl_ : [Comp.regs, .teller, .pool, .mac] ⊆ l_)
    (h_ : Only l_ s0_ s) : Only l_ s0_ (portExpire p s) := by
  unfold portExpire
  try dsimp only
  repeat' (first
    | with_reducible exact h_
    | with_reducible exact hl_
    | with_reducible assumption
    | with_reducible apply modPort_only
    | with_reducible apply txLate_only
    | with_reducible refine only_foldl ?_ (fun _ _ _ => ?_)
    | exact List.Subset.trans (by decide) hl_)

theorem portRefill_only {l_ : List Comp} {s0_ : State} {p : Nat} {sIn : State} (hl_ : [Comp.regs, .teller, .pool, .mac] ⊆ l_)
    (h_ : Only l_ s0_ sIn) : Only l_ s0_ (portRefill p sIn) := by
  unfold portRefill
  try dsimp only
  repeat' (first
    | with_reducible exact h_
    | with_reducible exact hl_
    | with_reducible assumption
    | with_reducible apply modPort_only
    | with_reducible apply refillOne_only
    | with_reducible apply portExpire_only
    | with_reducible refine only_foldl ?_ (fun _ _ _ => ?_)
    | with_reducible apply only_ite
    | exact List.Subset.trans (by decide) hl_)

theorem refillAll_only {l_ : List Comp} {s0_ : State} {s : State} (hl_ : [Comp.regs, .teller, .pool, .mac] ⊆ l_)
    (h_ : Only l_ s0_ s) : Only l_ s0_ (refillAll s) := by
  unfold refillAll
  try dsimp only
  repeat' (first
    | with_reducible exact h_
    | with_reducible exact hl_
    | with_reducible assumption
    | with_reducible apply portRefill_only
    | with_reducible refine only_foldl ?_ (fun _ _ _ => ?_)
    | exact List.Subset.trans (by decide) hl_)

theorem countSync_only {l_ : List Comp} {s0_ : State} {c : TxContent} {s : State} (hl_ : [Comp.regs] ⊆ l_)
    (h_ : Only l_ s0_ s) : Only l_ s0_ (countSync c s) := by
  unfold countSync
  try dsimp only
  repeat' (first
    | with_reducible exact h_
    | with_reducible exact hl_
    | with_reducible apply bump_only
    | exact List.Subset.trans (by decide) hl_
    | dsimp only
    | split)

theorem portTransmit_only {l_ : List Comp} {s0_ : State} {p : Nat} {f : TxFrame} {late : Bool} {ago : Nat} {ts : Int} {s : State} (hl_ : [Comp.regs, .teller, .mac] ⊆ l_)
    (h_ : Only l_ s0_ s) : Only l_ s0_ (portTransmit p f late ago ts s) := by
  unfold portTransmit
  try dsimp only
  repeat' (first
    | with_reducible exact h_
    | with_reducible exact hl_
    | with_reducible apply modPort_only
    | with_reducible apply tallyBy_only
    | with_reducible apply tallyUp_only
    | with_reducible apply stampOf_only
    | with_reducible apply countSync_only
    | exact List.Subset.trans (by decide) hl_)

theorem txStart_only {l_ : List Comp} {s0_ : State} {p : Nat} {s : State} (hl_ : [Comp.regs, .teller, .pool, .mac] ⊆ l_)
    (h_ : Only l_ s0_ s) : Only l_ s0_ (txStart p s) := by
  unfold txStart
  try dsimp only
  repeat' (first
    | with_reducible exact h_
    | with_reducible exact hl_
    | with_reducible apply modPort_only
    | with_reducible apply portRefill_only
    | with_reducible apply portTransmit_only
    | with_reducible apply only_ite
    | exact List.Subset.trans (by decide) hl_
    | dsimp only
    | split)

theorem execTxFrameStart_only {l_ : List Comp} {s0_ : State} {t : Nat} {port : Fin 11} {s : State} (hl_ : [Comp.regs, .time, .teller, .pool, .mac] ⊆ l_)
    (h_ : Only l_ s0_ s) : OutOnly l_ s0_ (execTxFrameStart t port s) := by
  unfold execTxFrameStart
  try dsimp only
  repeat' (first
    | with_reducible exact h_
    | with_reducible exact hl_
    | with_reducible apply portAt_only
    | with_reducible apply txStart_only
    | with_reducible apply OutOnly.ite
    | with_reducible apply OutOnly.next
    | exact List.Subset.trans (by decide) hl_
    | dsimp only
    | split)

theorem launchFire_only {l_ : List Comp} {s0_ : State} {p : Nat} {s : State} (hl_ : [Comp.regs, .teller, .mac] ⊆ l_)
    (h_ : Only l_ s0_ s) : Only l_ s0_ (launchFire p s) := by
  unfold launchFire
  try dsimp only
  repeat' (first
    | with_reducible exact h_
    | with_reducible exact hl_
    | with_reducible apply setFlag_only
    | with_reducible apply modPort_only
    | with_reducible apply tallyUp_only
    | with_reducible apply stampOf_only
    | with_reducible apply portTransmit_only
    | with_reducible apply only_ite
    | exact List.Subset.trans (by decide) hl_
    | dsimp only
    | split)

theorem execLaunchSlotFire_only {l_ : List Comp} {s0_ : State} {t : Nat} {port : Fin 11} {s : State} (hl_ : [Comp.regs, .time, .teller, .mac] ⊆ l_)
    (h_ : Only l_ s0_ s) : OutOnly l_ s0_ (execLaunchSlotFire t port s) := by
  unfold execLaunchSlotFire
  try dsimp only
  repeat' (first
    | with_reducible exact h_
    | with_reducible exact hl_
    | with_reducible apply portAt_only
    | with_reducible apply launchFire_only
    | with_reducible apply OutOnly.ite
    | with_reducible apply OutOnly.next
    | exact List.Subset.trans (by decide) hl_
    | dsimp only
    | split)

theorem portFlush_only {l_ : List Comp} {s0_ : State} {p : Nat} {s : State} (hl_ : [Comp.mac] ⊆ l_)
    (h_ : Only l_ s0_ s) : Only l_ s0_ (portFlush p s).1 := by
  unfold portFlush
  try dsimp only
  repeat' (first
    | with_reducible exact h_
    | with_reducible exact hl_
    | with_reducible apply modPort_only
    | with_reducible apply tallyBy_only
    | exact List.Subset.trans (by decide) hl_
    | dsimp only
    | split)

theorem portPass_only {l_ : List Comp} {s0_ : State} {old : Nat} {new : Nat} {s : State} (hl_ : [Comp.regs, .teller, .pool, .mac] ⊆ l_)
    (h_ : Only l_ s0_ s) : Only l_ s0_ (portPass old new s) := by
  unfold portPass
  try dsimp only
  repeat' (first
    | with_reducible exact h_
    | with_reducible exact hl_
    | with_reducible assumption
    | with_reducible apply modPort_only
    | with_reducible apply refillOne_only
    | with_reducible refine only_foldl ?_ (fun _ _ _ => ?_)
    | exact List.Subset.trans (by decide) hl_)

theorem pairSwitch_only {l_ : List Comp} {s0_ : State} {q : Nat} {cause : Nat} {s : State} (hl_ : [Comp.regs, .teller, .pool, .mac] ⊆ l_)
    (h_ : Only l_ s0_ s) : Only l_ s0_ (pairSwitch q cause s) := by
  unfold pairSwitch
  try dsimp only
  repeat' (first
    | with_reducible exact h_
    | with_reducible exact hl_
    | with_reducible apply setFlag_only
    | with_reducible apply notify_only
    | with_reducible apply modMac_only
    | with_reducible apply portFlush_only
    | with_reducible apply portPass_only
    | with_reducible apply only_ite
    | exact List.Subset.trans (by decide) hl_)

theorem linkLeave_only {l_ : List Comp} {s0_ : State} {p : Nat} {cause : Nat} {to_ : LinkState} {s : State} (hl_ : [Comp.regs, .teller, .pool, .mac] ⊆ l_)
    (h_ : Only l_ s0_ s) : Only l_ s0_ (linkLeave p cause to_ s) := by
  unfold linkLeave
  try dsimp only
  repeat' (first
    | with_reducible exact h_
    | with_reducible exact hl_
    | with_reducible apply setFlag_only
    | with_reducible apply notify_only
    | with_reducible apply modPort_only
    | with_reducible apply tallyUp_only
    | with_reducible apply pairSwitch_only
    | with_reducible apply only_ite
    | exact List.Subset.trans (by decide) hl_)

theorem igmpSend_only {l_ : List Comp} {s0_ : State} {p : Nat} {records : List (Nat × Nat × Nat)} {s : State} (hl_ : [Comp.mac] ⊆ l_)
    (h_ : Only l_ s0_ s) : Only l_ s0_ (igmpSend p records s) := by
  unfold igmpSend
  try dsimp only
  repeat' (first
    | with_reducible exact h_
    | with_reducible exact hl_
    | with_reducible assumption
    | with_reducible apply macSend_only
    | with_reducible refine only_foldl ?_ (fun _ _ _ => ?_)
    | with_reducible apply only_ite
    | exact List.Subset.trans (by decide) hl_)

theorem joinReports_only {l_ : List Comp} {s0_ : State} {old : List (Nat × Nat × Nat)} {s : State} (hl_ : [Comp.mac] ⊆ l_)
    (h_ : Only l_ s0_ s) : Only l_ s0_ (joinReports old s) := by
  unfold joinReports
  try dsimp only
  repeat' (first
    | with_reducible exact h_
    | with_reducible exact hl_
    | with_reducible apply igmpSend_only
    | exact List.Subset.trans (by decide) hl_)

theorem rxReports_only {l_ : List Comp} {s0_ : State} {old : Cfg} {s : State} (hl_ : [Comp.mac] ⊆ l_)
    (h_ : Only l_ s0_ s) : Only l_ s0_ (rxReports old s) := by
  unfold rxReports
  try dsimp only
  repeat' (first
    | with_reducible exact h_
    | with_reducible exact hl_
    | with_reducible assumption
    | with_reducible apply igmpSend_only
    | with_reducible refine only_foldl ?_ (fun _ _ _ => ?_)
    | with_reducible apply only_ite
    | exact List.Subset.trans (by decide) hl_)

theorem linkJoins_only {l_ : List Comp} {s0_ : State} {p : Nat} {s : State} (hl_ : [Comp.mac] ⊆ l_)
    (h_ : Only l_ s0_ s) : Only l_ s0_ (linkJoins p s) := by
  unfold linkJoins
  try dsimp only
  repeat' (first
    | with_reducible exact h_
    | with_reducible exact hl_
    | with_reducible apply igmpSend_only
    | with_reducible apply only_ite
    | with_reducible apply only_ite_fst
    | exact List.Subset.trans (by decide) hl_)

theorem execLinkUp_only {l_ : List Comp} {s0_ : State} {t : Nat} {port : Fin 11} {rate : Nat} {s : State} (hl_ : [Comp.regs, .time, .teller, .mac] ⊆ l_)
    (h_ : Only l_ s0_ s) : OutOnly l_ s0_ (execLinkUp t port rate s) := by
  unfold execLinkUp
  try dsimp only
  repeat' (first
    | with_reducible exact h_
    | with_reducible exact hl_
    | with_reducible apply advance_only
    | with_reducible apply setFlag_only
    | with_reducible apply notify_only
    | with_reducible apply modPort_only
    | with_reducible apply linkJoins_only
    | with_reducible apply OutOnly.ite
    | with_reducible apply only_ite
    | with_reducible apply OutOnly.next
    | exact List.Subset.trans (by decide) hl_
    | dsimp only
    | split)

theorem execLinkDown_only {l_ : List Comp} {s0_ : State} {t : Nat} {port : Fin 11} {cause : Nat} {s : State} (hl_ : [Comp.regs, .time, .teller, .pool, .mac] ⊆ l_)
    (h_ : Only l_ s0_ s) : OutOnly l_ s0_ (execLinkDown t port cause s) := by
  unfold execLinkDown
  try dsimp only
  repeat' (first
    | with_reducible exact h_
    | with_reducible exact hl_
    | with_reducible apply advance_only
    | with_reducible apply modPort_only
    | with_reducible apply linkLeave_only
    | with_reducible apply OutOnly.ite
    | with_reducible apply only_ite
    | with_reducible apply OutOnly.next
    | exact List.Subset.trans (by decide) hl_)

theorem execPairRevert_only {l_ : List Comp} {s0_ : State} {t : Nat} {pair : Fin 4} {s : State} (hl_ : [Comp.regs, .time, .teller, .pool, .mac] ⊆ l_)
    (h_ : Only l_ s0_ s) : OutOnly l_ s0_ (execPairRevert t pair s) := by
  unfold execPairRevert
  try dsimp only
  repeat' (first
    | with_reducible exact h_
    | with_reducible exact hl_
    | with_reducible apply advance_only
    | with_reducible apply pairSwitch_only
    | with_reducible apply OutOnly.ite
    | with_reducible apply only_ite
    | with_reducible apply OutOnly.next
    | exact List.Subset.trans (by decide) hl_)

theorem pausedStart_only {l_ : List Comp} {s0_ : State} {p : Nat} {s : State} (hl_ : [Comp.mac] ⊆ l_)
    (h_ : Only l_ s0_ s) : Only l_ s0_ (pausedStart p s) := by
  unfold pausedStart
  try dsimp only
  repeat' (first
    | with_reducible exact h_
    | with_reducible exact hl_
    | with_reducible assumption
    | with_reducible apply modPort_only
    | with_reducible refine only_foldl ?_ (fun _ _ _ => ?_)
    | with_reducible apply only_ite
    | exact List.Subset.trans (by decide) hl_)

theorem pauseSettle_only {l_ : List Comp} {s0_ : State} {p : Nat} {s : State} (hl_ : [Comp.mac] ⊆ l_)
    (h_ : Only l_ s0_ s) : Only l_ s0_ (pauseSettle p s) := by
  unfold pauseSettle
  try dsimp only
  repeat' (first
    | with_reducible exact h_
    | with_reducible exact hl_
    | with_reducible assumption
    | with_reducible apply modPort_only
    | with_reducible apply tallyBy_only
    | with_reducible refine only_foldl ?_ (fun _ _ _ => ?_)
    | with_reducible apply only_ite
    | exact List.Subset.trans (by decide) hl_
    | dsimp only
    | split)

theorem pauseReceived_only {l_ : List Comp} {s0_ : State} {p : Nat} {opcode : Nat} {enables : Nat} {quanta : List Nat} {s : State} (hl_ : [Comp.mac] ⊆ l_)
    (h_ : Only l_ s0_ s) : Only l_ s0_ (pauseReceived p opcode enables quanta s) := by
  unfold pauseReceived
  try dsimp only
  repeat' (first
    | with_reducible exact h_
    | with_reducible exact hl_
    | with_reducible apply modPort_only
    | with_reducible apply tallyUp_only
    | with_reducible apply pausedStart_only
    | with_reducible apply only_ite
    | exact List.Subset.trans (by decide) hl_)

theorem execPauseFrameReceived_only {l_ : List Comp} {s0_ : State} {t : Nat} {port : Fin 11} {opcode : Nat} {enables : Nat} {quanta : List Nat} {s : State} (hl_ : [Comp.regs, .time, .teller, .mac] ⊆ l_)
    (h_ : Only l_ s0_ s) : OutOnly l_ s0_ (execPauseFrameReceived t port opcode enables quanta s) := by
  unfold execPauseFrameReceived
  try dsimp only
  repeat' (first
    | with_reducible exact h_
    | with_reducible exact hl_
    | with_reducible apply portAt_only
    | with_reducible apply pauseSettle_only
    | with_reducible apply pauseReceived_only
    | with_reducible apply OutOnly.ite
    | with_reducible apply only_ite
    | with_reducible apply OutOnly.next
    | exact List.Subset.trans (by decide) hl_
    | dsimp only
    | split)

theorem execPauseEnd_only {l_ : List Comp} {s0_ : State} {t : Nat} {port : Fin 11} {s : State} (hl_ : [Comp.regs, .time, .teller, .mac] ⊆ l_)
    (h_ : Only l_ s0_ s) : OutOnly l_ s0_ (execPauseEnd t port s) := by
  unfold execPauseEnd
  try dsimp only
  repeat' (first
    | with_reducible exact h_
    | with_reducible exact hl_
    | with_reducible apply portAt_only
    | with_reducible apply pauseSettle_only
    | with_reducible apply OutOnly.ite
    | with_reducible apply OutOnly.next
    | exact List.Subset.trans (by decide) hl_
    | dsimp only
    | split)

theorem stormNotice_only {l_ : List Comp} {s0_ : State} {p : Nat} {classes : Nat} {state : Nat} {ms : Nat} {s : State} (hl_ : [Comp.regs, .teller] ⊆ l_)
    (h_ : Only l_ s0_ s) : Only l_ s0_ (stormNotice p classes state ms s) := by
  unfold stormNotice
  try dsimp only
  repeat' (first
    | with_reducible exact h_
    | with_reducible exact hl_
    | with_reducible apply setFlag_only
    | with_reducible apply notify_only
    | with_reducible apply only_ite
    | exact List.Subset.trans (by decide) hl_)

theorem watchdogTrip_only {l_ : List Comp} {s0_ : State} {p : Nat} {sIn : State} (hl_ : [Comp.regs, .teller, .mac] ⊆ l_)
    (h_ : Only l_ s0_ sIn) : Only l_ s0_ (watchdogTrip p sIn) := by
  unfold watchdogTrip
  try dsimp only
  repeat' (first
    | with_reducible exact h_
    | with_reducible exact hl_
    | with_reducible assumption
    | with_reducible apply modPort_only
    | with_reducible apply tallyBy_only
    | with_reducible apply tallyUp_only
    | with_reducible apply pauseSettle_only
    | with_reducible apply stormNotice_only
    | with_reducible refine only_foldl ?_ (fun _ _ _ => ?_)
    | with_reducible apply only_ite
    | exact List.Subset.trans (by decide) hl_)

theorem execPauseWatchdogTrip_only {l_ : List Comp} {s0_ : State} {t : Nat} {port : Fin 11} {s : State} (hl_ : [Comp.regs, .time, .teller, .mac] ⊆ l_)
    (h_ : Only l_ s0_ s) : OutOnly l_ s0_ (execPauseWatchdogTrip t port s) := by
  unfold execPauseWatchdogTrip
  try dsimp only
  repeat' (first
    | with_reducible exact h_
    | with_reducible exact hl_
    | with_reducible apply portAt_only
    | with_reducible apply watchdogTrip_only
    | with_reducible apply OutOnly.ite
    | with_reducible apply OutOnly.next
    | exact List.Subset.trans (by decide) hl_
    | dsimp only
    | split)

theorem ignoreEnd_only {l_ : List Comp} {s0_ : State} {p : Nat} {s : State} (hl_ : [Comp.regs, .teller, .mac] ⊆ l_)
    (h_ : Only l_ s0_ s) : Only l_ s0_ (ignoreEnd p s) := by
  unfold ignoreEnd
  try dsimp only
  repeat' (first
    | with_reducible exact h_
    | with_reducible exact hl_
    | with_reducible assumption
    | with_reducible apply modPort_only
    | with_reducible apply stormNotice_only
    | with_reducible refine only_foldl ?_ (fun _ _ _ => ?_)
    | with_reducible apply only_ite
    | exact List.Subset.trans (by decide) hl_)

theorem execPauseIgnoreEnd_only {l_ : List Comp} {s0_ : State} {t : Nat} {port : Fin 11} {s : State} (hl_ : [Comp.regs, .time, .teller, .mac] ⊆ l_)
    (h_ : Only l_ s0_ s) : OutOnly l_ s0_ (execPauseIgnoreEnd t port s) := by
  unfold execPauseIgnoreEnd
  try dsimp only
  repeat' (first
    | with_reducible exact h_
    | with_reducible exact hl_
    | with_reducible apply portAt_only
    | with_reducible apply ignoreEnd_only
    | with_reducible apply OutOnly.ite
    | with_reducible apply OutOnly.next
    | exact List.Subset.trans (by decide) hl_
    | dsimp only
    | split)

theorem tallyRead_only {l_ : List Comp} {s0_ : State} {p : Nat} {i : Nat} {s : State} (hl_ : [Comp.regs, .mac] ⊆ l_)
    (h_ : Only l_ s0_ s) : Only l_ s0_ (tallyRead p i s) := by
  unfold tallyRead
  try dsimp only
  repeat' (first
    | with_reducible exact h_
    | with_reducible exact hl_
    | with_reducible apply modPort_only
    | with_reducible apply only_ite
    | exact List.Subset.trans (by decide) hl_
    | fail_if_no_progress ((with_reducible refine only_mk (k := [.regs]) ?_ ?_ ?lit); case lit => exact fun c hc => by cases c <;> first | with_reducible rfl | exact absurd (by decide) hc))

theorem execTallyRead_only {l_ : List Comp} {s0_ : State} {t : Nat} {port : Fin 11} {i : Fin 24} {s : State} (hl_ : [Comp.regs, .time, .teller, .mac] ⊆ l_)
    (h_ : Only l_ s0_ s) : OutOnly l_ s0_ (execTallyRead t port i s) := by
  unfold execTallyRead
  try dsimp only
  repeat' (first
    | with_reducible exact h_
    | with_reducible exact hl_
    | with_reducible apply portAt_only
    | with_reducible apply pauseSettle_only
    | with_reducible apply tallyRead_only
    | with_reducible apply OutOnly.ite
    | with_reducible apply OutOnly.next
    | exact List.Subset.trans (by decide) hl_
    | dsimp only
    | split)

theorem tallyGather_only {l_ : List Comp} {s0_ : State} {s : State} {p : Nat} (hl_ : [Comp.regs, .teller, .mac] ⊆ l_)
    (h_ : Only l_ s0_ s) : Only l_ s0_ (tallyGather s p) := by
  unfold tallyGather
  try dsimp only
  repeat' (first
    | with_reducible exact h_
    | with_reducible exact hl_
    | with_reducible apply modPort_only
    | with_reducible apply tsqSettle_only
    | with_reducible apply pauseSettle_only
    | exact List.Subset.trans (by decide) hl_)

theorem execTallyAccumulate_only {l_ : List Comp} {s0_ : State} {t : Nat} {s : State} (hl_ : [Comp.regs, .time, .teller, .mac] ⊆ l_)
    (h_ : Only l_ s0_ s) : OutOnly l_ s0_ (execTallyAccumulate t s) := by
  unfold execTallyAccumulate
  try dsimp only
  repeat' (first
    | with_reducible exact h_
    | with_reducible exact hl_
    | with_reducible assumption
    | with_reducible apply advance_only
    | with_reducible apply tallyGather_only
    | with_reducible refine only_foldl ?_ (fun _ _ _ => ?_)
    | with_reducible apply OutOnly.ite
    | with_reducible apply only_ite
    | with_reducible apply OutOnly.next
    | exact List.Subset.trans (by decide) hl_)

theorem ringReturn_only {l_ : List Comp} {s0_ : State} {p : Nat} {r : Nat} {sw : Nat} {s : State} (hl_ : [Comp.regs, .mac] ⊆ l_)
    (h_ : Only l_ s0_ s) : Only l_ s0_ (ringReturn p r sw s) := by
  unfold ringReturn
  try dsimp only
  repeat' (first
    | with_reducible exact h_
    | with_reducible exact hl_
    | with_reducible assumption
    | with_reducible apply setField_only
    | with_reducible apply modPort_only
    | with_reducible refine only_foldl ?_ (fun _ _ _ => ?_)
    | exact List.Subset.trans (by decide) hl_
    | dsimp only
    | split)

theorem ringsBegin_only {l_ : List Comp} {s0_ : State} {p : Nat} {s : State} (hl_ : [Comp.regs] ⊆ l_)
    (h_ : Only l_ s0_ s) : Only l_ s0_ (ringsBegin p s) := by
  unfold ringsBegin
  try dsimp only
  repeat' (first
    | with_reducible exact h_
    | with_reducible exact hl_
    | with_reducible assumption
    | with_reducible apply setReg_only
    | with_reducible apply setField_only
    | with_reducible refine only_foldl ?_ (fun _ _ _ => ?_)
    | exact List.Subset.trans (by decide) hl_)

theorem ringConsumed_only {l_ : List Comp} {s0_ : State} {p : Nat} {r : Nat} {s : State} (hl_ : [Comp.regs, .free, .mac] ⊆ l_)
    (h_ : Only l_ s0_ s) : Only l_ s0_ (ringConsumed p r s) := by
  unfold ringConsumed
  try dsimp only
  repeat' (first
    | with_reducible exact h_
    | with_reducible exact hl_
    | with_reducible apply draw_only
    | with_reducible apply ringReturn_only
    | exact List.Subset.trans (by decide) hl_)

theorem ringFill_only {l_ : List Comp} {s0_ : State} {p : Nat} {r : Nat} {rule : Nat} {f : RxFrame} {own : Bool} {parts : List (List (BitVec 8))} {s : State} (hl_ : [Comp.mac] ⊆ l_)
    (h_ : Only l_ s0_ s) : Only l_ s0_ (ringFill p r rule f own parts s) := by
  unfold ringFill
  try dsimp only
  repeat' (first
    | with_reducible exact h_
    | with_reducible exact hl_
    | with_reducible assumption
    | with_reducible apply modPort_only
    | with_reducible refine only_foldl ?_ (fun _ _ _ => ?_)
    | with_reducible apply only_ite
    | with_reducible apply only_ite_fst
    | exact List.Subset.trans (by decide) hl_)

theorem ringVoid_only {l_ : List Comp} {s0_ : State} {p : Nat} {r : Nat} {rule : Nat} {f : RxFrame} {s : State} (hl_ : [Comp.mac] ⊆ l_)
    (h_ : Only l_ s0_ s) : Only l_ s0_ (ringVoid p r rule f s) := by
  unfold ringVoid
  try dsimp only
  repeat' (first
    | with_reducible exact h_
    | with_reducible exact hl_
    | with_reducible apply ringFill_only
    | with_reducible apply only_ite
    | exact List.Subset.trans (by decide) hl_)

theorem ringWrite_only {l_ : List Comp} {s0_ : State} {p : Nat} {r : Nat} {rule : Nat} {f : RxFrame} {sIn : State} (hl_ : [Comp.regs, .free, .mac] ⊆ l_)
    (h_ : Only l_ s0_ sIn) : Only l_ s0_ (ringWrite p r rule f sIn) := by
  unfold ringWrite
  try dsimp only
  repeat' (first
    | with_reducible exact h_
    | with_reducible exact hl_
    | with_reducible apply bump_only
    | with_reducible apply setFlag_only
    | with_reducible apply tallyBy_only
    | with_reducible apply tallyUp_only
    | with_reducible apply ringConsumed_only
    | with_reducible apply ringFill_only
    | with_reducible apply ringVoid_only
    | with_reducible apply only_ite
    | exact List.Subset.trans (by decide) hl_)

theorem ringFailed_only {l_ : List Comp} {s0_ : State} {p : Nat} {f : RxFrame} {s : State} (hl_ : [Comp.regs, .free, .mac] ⊆ l_)
    (h_ : Only l_ s0_ s) : Only l_ s0_ (ringFailed p f s) := by
  unfold ringFailed
  try dsimp only
  repeat' (first
    | with_reducible exact h_
    | with_reducible exact hl_
    | with_reducible apply ringConsumed_only
    | with_reducible apply ringVoid_only
    | exact List.Subset.trans (by decide) hl_
    | dsimp only
    | split)

theorem codeErrors_only {l_ : List Comp} {s0_ : State} {p : Nat} {f : RxFrame} {s : State} (hl_ : [Comp.mac] ⊆ l_)
    (h_ : Only l_ s0_ s) : Only l_ s0_ (codeErrors p f s) := by
  unfold codeErrors
  try dsimp only
  repeat' (first
    | with_reducible exact h_
    | with_reducible exact hl_
    | with_reducible apply tallyBy_only
    | with_reducible apply only_ite
    | exact List.Subset.trans (by decide) hl_)

theorem frameReceived_only {l_ : List Comp} {s0_ : State} {p : Nat} {f : RxFrame} {sIn : State} (hl_ : [Comp.regs, .free, .mac] ⊆ l_)
    (h_ : Only l_ s0_ sIn) : Only l_ s0_ (frameReceived p f sIn) := by
  unfold frameReceived
  try dsimp only
  repeat' (first
    | with_reducible exact h_
    | with_reducible exact hl_
    | with_reducible apply tallyUp_only
    | with_reducible apply ringWrite_only
    | with_reducible apply ringFailed_only
    | with_reducible apply codeErrors_only
    | with_reducible apply only_ite
    | exact List.Subset.trans (by decide) hl_
    | dsimp only
    | split)

theorem execFrameReceived_only {l_ : List Comp} {s0_ : State} {t : Nat} {port : Fin 11} {f : RxFrame} {s : State} (hl_ : [Comp.regs, .free, .time, .teller, .mac] ⊆ l_)
    (h_ : Only l_ s0_ s) : OutOnly l_ s0_ (execFrameReceived t port f s) := by
  unfold execFrameReceived
  try dsimp only
  repeat' (first
    | with_reducible exact h_
    | with_reducible exact hl_
    | with_reducible apply portAt_only
    | with_reducible apply frameReceived_only
    | with_reducible apply OutOnly.ite
    | with_reducible apply only_ite
    | with_reducible apply OutOnly.next
    | exact List.Subset.trans (by decide) hl_
    | dsimp only
    | split)

theorem portRestart_only {l_ : List Comp} {s0_ : State} {p : Nat} {s : State} (hl_ : [Comp.regs, .teller, .pool, .mac] ⊆ l_)
    (h_ : Only l_ s0_ s) : Only l_ s0_ (portRestart p s) := by
  unfold portRestart
  try dsimp only
  repeat' (first
    | with_reducible exact h_
    | with_reducible exact hl_
    | exact List.Subset.trans (by decide) hl_
    | with_reducible apply linkLeave_only)

theorem macPortSet_only {l_ : List Comp} {s0_ : State} {escrow : Bool} {p : MacPortSet} {s : State} (hl_ : [Comp.regs, .teller, .pool, .mac] ⊆ l_)
    (h_ : Only l_ s0_ s) : Only l_ s0_ (macPortSet escrow p s).1 := by
  unfold macPortSet
  try dsimp only
  repeat' (first
    | with_reducible exact h_
    | with_reducible exact hl_
    | with_reducible apply setReg_only
    | with_reducible apply refuse_only
    | with_reducible apply accept_only
    | with_reducible apply portRestart_only
    | with_reducible apply only_ite
    | with_reducible apply only_ite_fst
    | exact List.Subset.trans (by decide) hl_
    | dsimp only
    | split)

theorem execMacPairSet_only {l_ : List Comp} {s0_ : State} {c : Call} {pair : Nat} {mode : Nat} {flags : Nat} {s : State} (hl_ : [Comp.regs, .time, .teller, .mac] ⊆ l_)
    (h_ : Only l_ s0_ s) : OutOnly l_ s0_ (execMacPairSet c pair mode flags s) := by
  unfold execMacPairSet
  try dsimp only
  repeat' (first
    | with_reducible exact h_
    | with_reducible exact hl_
    | with_reducible assumption
    | with_reducible refine command_only ?_ ?_ (fun _ _ => ?_)
    | with_reducible apply refuse_only
    | with_reducible apply accept_only
    | with_reducible apply modMac_only
    | with_reducible apply OutOnly.ite
    | with_reducible apply only_ite
    | with_reducible apply OutOnly.next
    | exact List.Subset.trans (by decide) hl_
    | dsimp only
    | split)

theorem setBytes_only {l_ : List Comp} {s0_ : State} {base : Nat} {l : List (BitVec 8)} {n : Nat} {s : State} (hl_ : [Comp.regs] ⊆ l_)
    (h_ : Only l_ s0_ s) : Only l_ s0_ (setBytes base l n s) := by
  unfold setBytes
  try dsimp only
  repeat' (first
    | with_reducible exact h_
    | with_reducible exact hl_
    | with_reducible assumption
    | with_reducible apply setReg_only
    | with_reducible refine only_foldl ?_ (fun _ _ _ => ?_))

theorem execMacWakeSet_only {l_ : List Comp} {s0_ : State} {c : Call} {p : MacWakeSet} {s : State} (hl_ : [Comp.regs, .time, .teller] ⊆ l_)
    (h_ : Only l_ s0_ s) : OutOnly l_ s0_ (execMacWakeSet c p s) := by
  unfold execMacWakeSet
  try dsimp only
  repeat' (first
    | with_reducible exact h_
    | with_reducible exact hl_
    | with_reducible assumption
    | with_reducible apply setReg_only
    | with_reducible refine command_only ?_ ?_ (fun _ _ => ?_)
    | with_reducible apply refuse_only
    | with_reducible apply accept_only
    | with_reducible apply setBytes_only
    | with_reducible refine only_foldl ?_ (fun _ _ _ => ?_)
    | with_reducible apply OutOnly.ite
    | with_reducible apply only_ite
    | with_reducible apply OutOnly.next
    | exact List.Subset.trans (by decide) hl_
    | dsimp only
    | split)

theorem execMacStatusGet_only {l_ : List Comp} {s0_ : State} {c : Call} {port : Nat} {s : State} (hl_ : [Comp.regs, .time, .teller] ⊆ l_)
    (h_ : Only l_ s0_ s) : OutOnly l_ s0_ (execMacStatusGet c port s) := by
  unfold execMacStatusGet
  try dsimp only
  repeat' (first
    | with_reducible exact h_
    | with_reducible exact hl_
    | with_reducible assumption
    | with_reducible refine command_only ?_ ?_ (fun _ _ => ?_)
    | with_reducible apply refuse_only
    | with_reducible apply answer_only
    | with_reducible apply OutOnly.ite
    | with_reducible apply only_ite
    | with_reducible apply only_ite_fst
    | with_reducible apply OutOnly.next
    | exact List.Subset.trans (by decide) hl_
    | dsimp only
    | split)

theorem execMacTallyGet_only {l_ : List Comp} {s0_ : State} {c : Call} {port : Nat} {flags : Nat} {s : State} (hl_ : [Comp.regs, .time, .teller, .mac] ⊆ l_)
    (h_ : Only l_ s0_ s) : OutOnly l_ s0_ (execMacTallyGet c port flags s) := by
  unfold execMacTallyGet
  try dsimp only
  repeat' (first
    | with_reducible exact h_
    | with_reducible exact hl_
    | with_reducible assumption
    | with_reducible refine command_only ?_ ?_ (fun _ _ => ?_)
    | with_reducible apply refuse_only
    | with_reducible apply answer_only
    | with_reducible apply modPort_only
    | with_reducible apply OutOnly.ite
    | with_reducible apply only_ite
    | with_reducible apply OutOnly.next
    | exact List.Subset.trans (by decide) hl_
    | dsimp only
    | split)

end Sys2Proof.Laws
end

