-- ==== Sys2Proof/Laws/OnlyPhoto.lean ====
section
/-! SUPPORT. Which components of the machine the operations of Machine/Photo.lean may change. -/

namespace Sys2Proof.Laws

open Sys2Proof.Machine Sys2Proof.Safety

theorem modPho_only {l_ : List Comp} {s0_ : State} {f : Pho → Pho} {s : State} (hl_ : [Comp.pho] ⊆ l_)
    (h_ : Only l_ s0_ s) : Only l_ s0_ (modPho f s) := by
  unfold modPho
  try dsimp only
  repeat' (first
    | with_reducible exact h_
    | with_reducible exact hl_
    | with_reducible apply only_ite
    | fail_if_no_progress ((with_reducible refine only_mk (k := [.pho]) ?_ ?_ ?lit); case lit => exact fun c hc => by cases c <;> first | with_reducible rfl | exact absurd (by decide) hc))

theorem countPho_only {l_ : List Comp} {s0_ : State} {c : PhoCount} {s : State} (hl_ : [Comp.regs, .pho] ⊆ l_)
    (h_ : Only l_ s0_ s) : Only l_ s0_ (countPho c s) := by
  unfold countPho
  try dsimp only
  repeat' (first
    | with_reducible exact h_
    | with_reducible exact hl_
    | with_reducible apply bumpBy_only
    | with_reducible apply setFlag_only
    | with_reducible apply modPho_only
    | with_reducible apply only_ite
    | exact List.Subset.trans (by decide) hl_)

theorem phoSnapshot_only {l_ : List Comp} {s0_ : State} {k : Int} {s : State} (hl_ : [Comp.pho] ⊆ l_)
    (h_ : Only l_ s0_ s) : Only l_ s0_ (phoSnapshot k s) := by
  unfold phoSnapshot
  try dsimp only
  repeat' (first
    | with_reducible exact h_
    | with_reducible exact hl_
    | with_reducible apply modPho_only
    | exact List.Subset.trans (by decide) hl_
    | dsimp only
    | split)

theorem phoBegin_only {l_ : List Comp} {s0_ : State} {k : Int} {s : State} (hl_ : [Comp.pho] ⊆ l_)
    (h_ : Only l_ s0_ s) : Only l_ s0_ (phoBegin k s) := by
  unfold phoBegin
  try dsimp only
  repeat' (first
    | with_reducible exact h_
    | with_reducible exact hl_
    | with_reducible apply modPho_only
    | exact List.Subset.trans (by decide) hl_)

theorem phoEnd_only {l_ : List Comp} {s0_ : State} {k : Int} {s : State} (hl_ : [Comp.pho] ⊆ l_)
    (h_ : Only l_ s0_ s) : Only l_ s0_ (phoEnd k s) := by
  unfold phoEnd
  try dsimp only
  repeat' (first
    | with_reducible exact h_
    | with_reducible exact hl_
    | with_reducible apply modPho_only
    | with_reducible apply only_ite
    | exact List.Subset.trans (by decide) hl_)

theorem tempNotice_only {l_ : List Comp} {s0_ : State} {chip : Nat} {state : Nat} {s : State} (hl_ : [Comp.regs, .teller] ⊆ l_)
    (h_ : Only l_ s0_ s) : Only l_ s0_ (tempNotice chip state s) := by
  unfold tempNotice
  try dsimp only
  repeat' (first
    | with_reducible exact h_
    | with_reducible exact hl_
    | with_reducible apply setFlag_only
    | with_reducible apply notify_only
    | with_reducible apply only_ite
    | exact List.Subset.trans (by decide) hl_)

theorem chipReport_only {l_ : List Comp} {s0_ : State} {chip : Nat} {temp : Int} {s : State} (hl_ : [Comp.regs, .teller, .pho] ⊆ l_)
    (h_ : Only l_ s0_ s) : Only l_ s0_ (chipReport chip temp s) := by
  unfold chipReport
  try dsimp only
  repeat' (first
    | with_reducible exact h_
    | with_reducible exact hl_
    | with_reducible apply modPho_only
    | with_reducible apply tempNotice_only
    | with_reducible apply only_ite
    | with_reducible apply only_ite_fst
    | exact List.Subset.trans (by decide) hl_
    | dsimp only
    | split)

theorem chipForget_only {l_ : List Comp} {s0_ : State} {chip : Nat} {s : State} (hl_ : [Comp.pho] ⊆ l_)
    (h_ : Only l_ s0_ s) : Only l_ s0_ (chipForget chip s) := by
  unfold chipForget
  try dsimp only
  repeat' (first
    | with_reducible exact h_
    | with_reducible exact hl_
    | with_reducible apply modPho_only
    | exact List.Subset.trans (by decide) hl_)

theorem execReportStaleTimeout_only {l_ : List Comp} {s0_ : State} {t : Nat} {chip : Nat} {s : State} (hl_ : [Comp.regs, .time, .teller, .pho] ⊆ l_)
    (h_ : Only l_ s0_ s) : OutOnly l_ s0_ (execReportStaleTimeout t chip s) := by
  unfold execReportStaleTimeout
  try dsimp only
  repeat' (first
    | with_reducible exact h_
    | with_reducible exact hl_
    | with_reducible apply advance_only
    | with_reducible apply modPho_only
    | with_reducible apply tempNotice_only
    | with_reducible apply OutOnly.ite
    | with_reducible apply only_ite
    | with_reducible apply OutOnly.next
    | exact List.Subset.trans (by decide) hl_
    | dsimp only
    | split)

theorem zoneTemp_only {l_ : List Comp} {s0_ : State} {now : Option Int} {z : Nat} {w : Word} {s : State} (hl_ : [Comp.regs, .pho] ⊆ l_)
    (h_ : Only l_ s0_ s) : Only l_ s0_ (zoneTemp now z w s) := by
  unfold zoneTemp
  try dsimp only
  repeat' (first
    | with_reducible exact h_
    | with_reducible exact hl_
    | with_reducible apply setReg_only
    | with_reducible apply modPho_only
    | exact List.Subset.trans (by decide) hl_)

theorem execCurveSet_only {l_ : List Comp} {s0_ : State} {c : Call} {p : CurveSet} {s : State} (hl_ : [Comp.regs, .time, .teller] ⊆ l_)
    (h_ : Only l_ s0_ s) : OutOnly l_ s0_ (execCurveSet c p s) := by
  unfold execCurveSet
  try dsimp only
  repeat' (first
    | with_reducible exact h_
    | with_reducible exact hl_
    | with_reducible apply configMessage_only)

theorem execClassSet_only {l_ : List Comp} {s0_ : State} {c : Call} {p : ClassSet} {s : State} (hl_ : [Comp.regs, .time, .teller] ⊆ l_)
    (h_ : Only l_ s0_ s) : OutOnly l_ s0_ (execClassSet c p s) := by
  unfold execClassSet
  try dsimp only
  repeat' (first
    | with_reducible exact h_
    | with_reducible exact hl_
    | with_reducible apply configMessage_only)

theorem execCalRecordSet_only {l_ : List Comp} {s0_ : State} {c : Call} {p : CalRecordSet} {s : State} (hl_ : [Comp.regs, .time, .teller] ⊆ l_)
    (h_ : Only l_ s0_ s) : OutOnly l_ s0_ (execCalRecordSet c p s) := by
  unfold execCalRecordSet
  try dsimp only
  repeat' (first
    | with_reducible exact h_
    | with_reducible exact hl_
    | with_reducible apply configMessage_only)

theorem flipBanks_only {l_ : List Comp} {s0_ : State} {old : Cfg} {new : Cfg} {s : State} (hl_ : [Comp.pho] ⊆ l_)
    (h_ : Only l_ s0_ s) : Only l_ s0_ (flipBanks old new s) := by
  unfold flipBanks
  try dsimp only
  repeat' (first
    | with_reducible exact h_
    | with_reducible exact hl_
    | with_reducible assumption
    | with_reducible apply modPho_only)

theorem writeRecords_only {l_ : List Comp} {s0_ : State} {tag : Int} {changed : SMap CalRecord} {s : State} (hl_ : [Comp.pho] ⊆ l_)
    (h_ : Only l_ s0_ s) : Only l_ s0_ (writeRecords tag changed s) := by
  unfold writeRecords
  try dsimp only
  repeat' (first
    | with_reducible exact h_
    | with_reducible exact hl_
    | with_reducible assumption
    | with_reducible apply modPho_only)

theorem execCalRecordGet_only {l_ : List Comp} {s0_ : State} {c : Call} {first : Nat} {count : Nat} {s : State} (hl_ : [Comp.regs, .time, .teller] ⊆ l_)
    (h_ : Only l_ s0_ s) : OutOnly l_ s0_ (execCalRecordGet c first count s) := by
  unfold execCalRecordGet
  try dsimp only
  repeat' (first
    | with_reducible exact h_
    | with_reducible exact hl_
    | with_reducible assumption
    | with_reducible refine command_only ?_ ?_ (fun _ _ => ?_)
    | with_reducible apply refuse_only
    | with_reducible apply answer_only
    | with_reducible apply OutOnly.ite
    | with_reducible apply only_ite
    | with_reducible apply OutOnly.next
    | exact List.Subset.trans (by decide) hl_
    | dsimp only
    | split)

theorem execZoneTempSet_only {l_ : List Comp} {s0_ : State} {c : Call} {zone : Nat} {valid : Bool} {temp : Int} {s : State} (hl_ : [Comp.regs, .time, .teller, .pho] ⊆ l_)
    (h_ : Only l_ s0_ s) : OutOnly l_ s0_ (execZoneTempSet c zone valid temp s) := by
  unfold execZoneTempSet
  try dsimp only
  repeat' (first
    | with_reducible exact h_
    | with_reducible exact hl_
    | with_reducible assumption
    | with_reducible refine command_only ?_ ?_ (fun _ _ => ?_)
    | with_reducible apply refuse_only
    | with_reducible apply accept_only
    | with_reducible apply zoneTemp_only
    | with_reducible apply OutOnly.ite
    | with_reducible apply only_ite
    | with_reducible apply OutOnly.next
    | exact List.Subset.trans (by decide) hl_
    | dsimp only
    | split)

theorem execPhoStatusGet_only {l_ : List Comp} {s0_ : State} {c : Call} {s : State} (hl_ : [Comp.regs, .time, .teller] ⊆ l_)
    (h_ : Only l_ s0_ s) : OutOnly l_ s0_ (execPhoStatusGet c s) := by
  unfold execPhoStatusGet
  try dsimp only
  repeat' (first
    | with_reducible exact h_
    | with_reducible exact hl_
    | with_reducible assumption
    | with_reducible refine command_only ?_ ?_ (fun _ _ => ?_)
    | with_reducible apply answer_only
    | with_reducible apply OutOnly.ite
    | with_reducible apply OutOnly.next
    | exact List.Subset.trans (by decide) hl_
    | dsimp only
    | split)

end Sys2Proof.Laws
end

