-- ==== Sys2Proof/Laws/OnlyLanes.lean ====
section
/-! SUPPORT. Which components of the machine the operations of Machine/Lanes.lean may change. -/

namespace Sys2Proof.Laws

open Sys2Proof.Machine Sys2Proof.Safety

theorem modLane_only {l_ : List Comp} {s0_ : State} {l : Nat} {f : Lane → Lane} {s : State} (hl_ : [Comp.lanes] ⊆ l_)
    (h_ : Only l_ s0_ s) : Only l_ s0_ (modLane l f s) := by
  unfold modLane
  try dsimp only
  repeat' (first
    | with_reducible exact h_
    | with_reducible exact hl_
    | with_reducible apply only_ite
    | fail_if_no_progress ((with_reducible refine only_mk (k := [.lanes]) ?_ ?_ ?lit); case lit => exact fun c hc => by cases c <;> first | with_reducible rfl | exact absurd (by decide) hc))

theorem modChip_only {l_ : List Comp} {s0_ : State} {l : Nat} {i : Nat} {f : ChipLink → ChipLink} {s : State} (hl_ : [Comp.lanes] ⊆ l_)
    (h_ : Only l_ s0_ s) : Only l_ s0_ (modChip l i f s) := by
  unfold modChip
  try dsimp only
  repeat' (first
    | with_reducible exact h_
    | with_reducible exact hl_
    | with_reducible apply modLane_only)

theorem laneEnter_only {l_ : List Comp} {s0_ : State} {l : Nat} {st : LaneState} {seen : Nat} {cause : Nat} {s : State} (hl_ : [Comp.regs, .teller, .lanes] ⊆ l_)
    (h_ : Only l_ s0_ s) : Only l_ s0_ (laneEnter l st seen cause s) := by
  unfold laneEnter
  try dsimp only
  repeat' (first
    | with_reducible exact h_
    | with_reducible exact hl_
    | with_reducible apply bump_only
    | with_reducible apply setFlag_only
    | with_reducible apply notify_only
    | with_reducible apply modLane_only
    | with_reducible apply only_ite
    | exact List.Subset.trans (by decide) hl_)

theorem laneTake_only {l_ : List Comp} {s0_ : State} {l : Nat} {z : Nat} {k : Int} {s : State} (hl_ : [Comp.lanes] ⊆ l_)
    (h_ : Only l_ s0_ s) : Only l_ s0_ (laneTake l z k s) := by
  unfold laneTake
  try dsimp only
  repeat' (first
    | with_reducible exact h_
    | with_reducible exact hl_
    | with_reducible apply modLane_only
    | with_reducible apply only_ite
    | with_reducible apply only_ite_fst
    | exact List.Subset.trans (by decide) hl_)

theorem dropJob_only {l_ : List Comp} {s0_ : State} {l : Nat} {j : PixelJob} {s : State} (hl_ : [Comp.regs, .teller, .pool, .lanes] ⊆ l_)
    (h_ : Only l_ s0_ s) : Only l_ s0_ (dropJob l j s) := by
  unfold dropJob
  try dsimp only
  repeat' (first
    | with_reducible exact h_
    | with_reducible exact hl_
    | with_reducible apply bumpBy_only
    | with_reducible apply setFlag_only
    | with_reducible apply zoneLate_only
    | with_reducible apply modLane_only
    | with_reducible apply only_ite
    | exact List.Subset.trans (by decide) hl_)

theorem sendFrame_only {l_ : List Comp} {s0_ : State} {l : Nat} {j : PixelJob} {f : Nat × Nat} {s : State} (hl_ : [Comp.regs, .lanes] ⊆ l_)
    (h_ : Only l_ s0_ s) : Only l_ s0_ (sendFrame l j f s) := by
  unfold sendFrame
  try dsimp only
  repeat' (first
    | with_reducible exact h_
    | with_reducible exact hl_
    | with_reducible apply bump_only
    | with_reducible apply modLane_only
    | with_reducible apply only_ite
    | exact List.Subset.trans (by decide) hl_)

theorem spoilFrame_only {l_ : List Comp} {s0_ : State} {l : Nat} {j : PixelJob} {f : Nat × Nat} {s : State} (hl_ : [Comp.protect, .lanes] ⊆ l_)
    (h_ : Only l_ s0_ s) : Only l_ s0_ (spoilFrame l j f s) := by
  unfold spoilFrame
  try dsimp only
  repeat' (first
    | with_reducible exact h_
    | with_reducible exact hl_
    | with_reducible apply outputClear_only
    | with_reducible apply modLane_only
    | with_reducible apply only_ite
    | exact List.Subset.trans (by decide) hl_)

theorem ctrlQueue_only {l_ : List Comp} {s0_ : State} {l : Nat} {chip : Nat} {op : CtrlOp} {cause : CtrlFor} {notBefore : Option Int} {fromK : Option Int} {s : State} (hl_ : [Comp.lanes] ⊆ l_)
    (h_ : Only l_ s0_ s) : Only l_ s0_ (ctrlQueue l chip op cause notBefore fromK s) := by
  unfold ctrlQueue
  try dsimp only
  repeat' (first
    | with_reducible exact h_
    | with_reducible exact hl_
    | with_reducible apply modLane_only
    | exact List.Subset.trans (by decide) hl_)

theorem ctrlTake_only {l_ : List Comp} {s0_ : State} {l : Nat} {s : State} (hl_ : [Comp.regs, .lanes] ⊆ l_)
    (h_ : Only l_ s0_ s) : Only l_ s0_ (ctrlTake l s) := by
  unfold ctrlTake
  try dsimp only
  repeat' (first
    | with_reducible exact h_
    | with_reducible exact hl_
    | with_reducible apply chkRun_only
    | with_reducible apply modLane_only
    | with_reducible apply modChip_only
    | with_reducible apply only_ite
    | exact List.Subset.trans (by decide) hl_
    | dsimp only
    | split)

theorem ctrlSend_only {l_ : List Comp} {s0_ : State} {l : Nat} {s : State} (hl_ : [Comp.regs, .teller, .alm, .lanes] ⊆ l_)
    (h_ : Only l_ s0_ s) : Only l_ s0_ (ctrlSend l s) := by
  unfold ctrlSend
  try dsimp only
  repeat' (first
    | with_reducible exact h_
    | with_reducible exact hl_
    | with_reducible apply insertDescriptor_only
    | with_reducible apply ctrlTake_only
    | with_reducible apply only_ite
    | exact List.Subset.trans (by decide) hl_)

theorem provision_only {l_ : List Comp} {s0_ : State} {l : Nat} {i : Nat} {notBefore : Option Int} {fromK : Option Int} {s : State} (hl_ : [Comp.lanes] ⊆ l_)
    (h_ : Only l_ s0_ s) : Only l_ s0_ (provision l i notBefore fromK s) := by
  unfold provision
  try dsimp only
  repeat' (first
    | with_reducible exact h_
    | with_reducible exact hl_
    | with_reducible apply ctrlQueue_only
    | with_reducible apply only_ite
    | exact List.Subset.trans (by decide) hl_)

theorem laneSettle_only {l_ : List Comp} {s0_ : State} {l : Nat} {s : State} (hl_ : [Comp.regs, .teller, .lanes] ⊆ l_)
    (h_ : Only l_ s0_ s) : Only l_ s0_ (laneSettle l s) := by
  unfold laneSettle
  try dsimp only
  repeat' (first
    | with_reducible exact h_
    | with_reducible exact hl_
    | with_reducible apply laneEnter_only
    | with_reducible apply only_ite)

theorem rangeNext_only {l_ : List Comp} {s0_ : State} {l : Nat} {s : State} (hl_ : [Comp.lanes] ⊆ l_)
    (h_ : Only l_ s0_ s) : Only l_ s0_ (rangeNext l s) := by
  unfold rangeNext
  try dsimp only
  repeat' (first
    | with_reducible exact h_
    | with_reducible exact hl_
    | with_reducible apply modLane_only
    | with_reducible apply only_ite
    | exact List.Subset.trans (by decide) hl_
    | dsimp only
    | split)

theorem rangeStart_only {l_ : List Comp} {s0_ : State} {l : Nat} {whole : Bool} {background : Bool} {todo : List Nat} {s : State} (hl_ : [Comp.lanes] ⊆ l_)
    (h_ : Only l_ s0_ s) : Only l_ s0_ (rangeStart l whole background todo s) := by
  unfold rangeStart
  try dsimp only
  repeat' (first
    | with_reducible exact h_
    | with_reducible exact hl_
    | with_reducible apply modLane_only
    | with_reducible apply rangeNext_only
    | with_reducible apply only_ite
    | exact List.Subset.trans (by decide) hl_)

theorem rangeApply_only {l_ : List Comp} {s0_ : State} {l : Nat} {send : Bool} {s : State} {e : Nat × Int × Bool} (hl_ : [Comp.lanes] ⊆ l_)
    (h_ : Only l_ s0_ s) : Only l_ s0_ (rangeApply l send s e) := by
  unfold rangeApply
  try dsimp only
  repeat' (first
    | with_reducible exact h_
    | with_reducible exact hl_
    | with_reducible apply modChip_only
    | with_reducible apply ctrlQueue_only
    | with_reducible apply only_ite
    | with_reducible apply only_ite_fst
    | exact List.Subset.trans (by decide) hl_)

theorem rangeKeep_only {l_ : List Comp} {s0_ : State} {l : Nat} {s : State} {e : Nat × Int × Bool} (hl_ : [Comp.lanes] ⊆ l_)
    (h_ : Only l_ s0_ s) : Only l_ s0_ (rangeKeep l s e) := by
  unfold rangeKeep
  try dsimp only
  repeat' (first
    | with_reducible exact h_
    | with_reducible exact hl_
    | with_reducible apply modChip_only)

theorem rangeSingle_only {l_ : List Comp} {s0_ : State} {l : Nat} {background : Bool} {s : State} {e : Nat × Int × Bool} (hl_ : [Comp.lanes] ⊆ l_)
    (h_ : Only l_ s0_ s) : Only l_ s0_ (rangeSingle l background s e) := by
  unfold rangeSingle
  try dsimp only
  repeat' (first
    | with_reducible exact h_
    | with_reducible exact hl_
    | with_reducible apply rangeApply_only
    | with_reducible apply rangeKeep_only
    | with_reducible apply only_ite
    | with_reducible apply only_ite_fst
    | exact List.Subset.trans (by decide) hl_
    | dsimp only
    | split)

theorem rangeChip_only {l_ : List Comp} {s0_ : State} {l : Nat} {g : RangeRun} {n : Nat} {d : Int} {unstable : Bool} {s : State} (hl_ : [Comp.regs, .teller, .alm, .lanes] ⊆ l_)
    (h_ : Only l_ s0_ s) : Only l_ s0_ (rangeChip l g n d unstable s) := by
  unfold rangeChip
  try dsimp only
  repeat' (first
    | with_reducible exact h_
    | with_reducible exact hl_
    | with_reducible assumption
    | with_reducible apply modLane_only
    | with_reducible apply ctrlSend_only
    | with_reducible apply laneSettle_only
    | with_reducible apply rangeSingle_only
    | with_reducible refine only_foldl ?_ (fun _ _ _ => ?_)
    | with_reducible apply only_ite
    | exact List.Subset.trans (by decide) hl_)

theorem rangeMeasured_only {l_ : List Comp} {s0_ : State} {l : Nat} {g : RangeRun} {n : Nat} {loopPs : Nat} {s : State} (hl_ : [Comp.regs, .teller, .alm, .lanes] ⊆ l_)
    (h_ : Only l_ s0_ s) : Only l_ s0_ (rangeMeasured l g n loopPs s) := by
  unfold rangeMeasured
  try dsimp only
  repeat' (first
    | with_reducible exact h_
    | with_reducible exact hl_
    | with_reducible apply modLane_only
    | with_reducible apply rangeChip_only
    | with_reducible apply only_ite
    | exact List.Subset.trans (by decide) hl_)

theorem rangeReturn_only {l_ : List Comp} {s0_ : State} {l : Nat} {f : RangeFrame} {loopPs : Nat} {s : State} (hl_ : [Comp.regs, .teller, .alm, .lanes] ⊆ l_)
    (h_ : Only l_ s0_ s) : Only l_ s0_ (rangeReturn l f loopPs s) := by
  unfold rangeReturn
  try dsimp only
  repeat' (first
    | with_reducible exact h_
    | with_reducible exact hl_
    | with_reducible apply modLane_only
    | with_reducible apply rangeNext_only
    | with_reducible apply rangeMeasured_only
    | with_reducible apply only_ite
    | exact List.Subset.trans (by decide) hl_
    | dsimp only
    | split)

theorem rxErrors_only {l_ : List Comp} {s0_ : State} {l : Nat} {n : Nat} {s : State} (hl_ : [Comp.regs] ⊆ l_)
    (h_ : Only l_ s0_ s) : Only l_ s0_ (rxErrors l n s) := by
  unfold rxErrors
  try dsimp only
  repeat' (first
    | with_reducible exact h_
    | with_reducible exact hl_
    | with_reducible apply bumpBy_only
    | with_reducible apply setFlag_only
    | with_reducible apply only_ite)

theorem execRangeFrameReturn_only {l_ : List Comp} {s0_ : State} {t : Nat} {lane : Fin 32} {frame : RangeFrame} {loopPs : Nat} {s : State} (hl_ : [Comp.regs, .time, .teller, .alm, .lanes] ⊆ l_)
    (h_ : Only l_ s0_ s) : OutOnly l_ s0_ (execRangeFrameReturn t lane frame loopPs s) := by
  unfold execRangeFrameReturn
  try dsimp only
  repeat' (first
    | with_reducible exact h_
    | with_reducible exact hl_
    | with_reducible apply advance_only
    | with_reducible apply rangeReturn_only
    | with_reducible apply rxErrors_only
    | with_reducible apply OutOnly.ite
    | with_reducible apply OutOnly.next
    | exact List.Subset.trans (by decide) hl_
    | dsimp only
    | split)

theorem rangingDone_only {l_ : List Comp} {s0_ : State} {l : Nat} {s : State} (hl_ : [Comp.regs, .teller, .alm, .lanes] ⊆ l_)
    (h_ : Only l_ s0_ s) : Only l_ s0_ (rangingDone l s) := by
  unfold rangingDone
  try dsimp only
  repeat' (first
    | with_reducible exact h_
    | with_reducible exact hl_
    | with_reducible assumption
    | with_reducible apply setFlag_only
    | with_reducible apply notify_only
    | with_reducible apply modLane_only
    | with_reducible apply laneEnter_only
    | with_reducible apply ctrlSend_only
    | with_reducible apply provision_only
    | with_reducible apply laneSettle_only
    | with_reducible apply rangeApply_only
    | with_reducible refine only_foldl ?_ (fun _ _ _ => ?_)
    | with_reducible apply only_ite
    | with_reducible apply only_ite_fst
    | exact List.Subset.trans (by decide) hl_
    | dsimp only
    | split)

theorem execLaneRangingDone_only {l_ : List Comp} {s0_ : State} {t : Nat} {lane : Fin 32} {s : State} (hl_ : [Comp.regs, .time, .teller, .alm, .lanes] ⊆ l_)
    (h_ : Only l_ s0_ s) : OutOnly l_ s0_ (execLaneRangingDone t lane s) := by
  unfold execLaneRangingDone
  try dsimp only
  repeat' (first
    | with_reducible exact h_
    | with_reducible exact hl_
    | with_reducible apply advance_only
    | with_reducible apply rangingDone_only
    | with_reducible apply OutOnly.ite
    | with_reducible apply only_ite
    | with_reducible apply OutOnly.next
    | exact List.Subset.trans (by decide) hl_)

theorem ctrlFailed_only {l_ : List Comp} {s0_ : State} {c : Ctrl} {data : Word} {status : Nat} {s : State} (hl_ : [Comp.regs, .teller] ⊆ l_)
    (h_ : Only l_ s0_ s) : Only l_ s0_ (ctrlFailed c data status s) := by
  unfold ctrlFailed
  try dsimp only
  repeat' (first
    | with_reducible exact h_
    | with_reducible exact hl_
    | with_reducible apply respondOwed_only
    | with_reducible apply only_ite
    | exact List.Subset.trans (by decide) hl_
    | dsimp only
    | split)

theorem laneAbort_only {l_ : List Comp} {s0_ : State} {l : Nat} {s : State} (hl_ : [Comp.regs, .teller] ⊆ l_)
    (h_ : Only l_ s0_ s) : Only l_ s0_ (laneAbort l s) := by
  unfold laneAbort
  try dsimp only
  repeat' (first
    | with_reducible exact h_
    | with_reducible exact hl_
    | with_reducible assumption
    | with_reducible apply ctrlFailed_only
    | with_reducible refine only_foldl ?_ (fun _ _ _ => ?_))

theorem laneTrain_only {l_ : List Comp} {s0_ : State} {l : Nat} {cause : Nat} {s : State} (hl_ : [Comp.regs, .teller, .lanes] ⊆ l_)
    (h_ : Only l_ s0_ s) : Only l_ s0_ (laneTrain l cause s) := by
  unfold laneTrain
  try dsimp only
  repeat' (first
    | with_reducible exact h_
    | with_reducible exact hl_
    | with_reducible apply modLane_only
    | with_reducible apply laneEnter_only
    | with_reducible apply laneAbort_only
    | exact List.Subset.trans (by decide) hl_)

theorem laneOff_only {l_ : List Comp} {s0_ : State} {l : Nat} {cause : Nat} {s : State} (hl_ : [Comp.regs, .teller, .lanes] ⊆ l_)
    (h_ : Only l_ s0_ s) : Only l_ s0_ (laneOff l cause s) := by
  unfold laneOff
  try dsimp only
  repeat' (first
    | with_reducible exact h_
    | with_reducible exact hl_
    | with_reducible apply modLane_only
    | with_reducible apply laneEnter_only
    | with_reducible apply laneAbort_only
    | with_reducible apply only_ite
    | exact List.Subset.trans (by decide) hl_)

theorem execLaneTrainingDone_only {l_ : List Comp} {s0_ : State} {t : Nat} {lane : Fin 32} {s : State} (hl_ : [Comp.regs, .time, .teller, .lanes] ⊆ l_)
    (h_ : Only l_ s0_ s) : OutOnly l_ s0_ (execLaneTrainingDone t lane s) := by
  unfold execLaneTrainingDone
  try dsimp only
  repeat' (first
    | with_reducible exact h_
    | with_reducible exact hl_
    | with_reducible apply advance_only
    | with_reducible apply modLane_only
    | with_reducible apply laneEnter_only
    | with_reducible apply OutOnly.ite
    | with_reducible apply only_ite
    | with_reducible apply OutOnly.next
    | exact List.Subset.trans (by decide) hl_)

theorem enumStart_only {l_ : List Comp} {s0_ : State} {l : Nat} {s : State} (hl_ : [Comp.lanes] ⊆ l_)
    (h_ : Only l_ s0_ s) : Only l_ s0_ (enumStart l s) := by
  unfold enumStart
  try dsimp only
  repeat' (first
    | with_reducible exact h_
    | with_reducible exact hl_
    | with_reducible apply modLane_only
    | with_reducible apply only_ite
    | exact List.Subset.trans (by decide) hl_)

theorem execEnumerateInterval_only {l_ : List Comp} {s0_ : State} {t : Nat} {lane : Fin 32} {s : State} (hl_ : [Comp.time, .lanes] ⊆ l_)
    (h_ : Only l_ s0_ s) : OutOnly l_ s0_ (execEnumerateInterval t lane s) := by
  unfold execEnumerateInterval
  try dsimp only
  repeat' (first
    | with_reducible exact h_
    | with_reducible exact hl_
    | with_reducible apply advance_only
    | with_reducible apply modLane_only
    | with_reducible apply enumStart_only
    | with_reducible apply OutOnly.ite
    | with_reducible apply only_ite
    | with_reducible apply OutOnly.next
    | exact List.Subset.trans (by decide) hl_
    | dsimp only
    | split)

theorem seenNow_only {l_ : List Comp} {s0_ : State} {l : Nat} {n : Nat} {s : State} (hl_ : [Comp.regs, .teller, .alm, .lanes] ⊆ l_)
    (h_ : Only l_ s0_ s) : Only l_ s0_ (seenNow l n s) := by
  unfold seenNow
  try dsimp only
  repeat' (first
    | with_reducible exact h_
    | with_reducible exact hl_
    | with_reducible assumption
    | with_reducible apply modLane_only
    | with_reducible apply laneEnter_only
    | with_reducible apply ctrlSend_only
    | with_reducible apply provision_only
    | with_reducible apply laneSettle_only
    | with_reducible apply rangeStart_only
    | with_reducible refine only_foldl ?_ (fun _ _ _ => ?_)
    | with_reducible apply only_ite
    | exact List.Subset.trans (by decide) hl_)

theorem enumDone_only {l_ : List Comp} {s0_ : State} {l : Nat} {n : Nat} {s : State} (hl_ : [Comp.regs, .teller, .alm, .lanes] ⊆ l_)
    (h_ : Only l_ s0_ s) : Only l_ s0_ (enumDone l n s) := by
  unfold enumDone
  try dsimp only
  repeat' (first
    | with_reducible exact h_
    | with_reducible exact hl_
    | with_reducible apply modLane_only
    | with_reducible apply laneEnter_only
    | with_reducible apply rangeNext_only
    | with_reducible apply rangeStart_only
    | with_reducible apply seenNow_only
    | with_reducible apply only_ite
    | with_reducible apply only_ite_fst
    | exact List.Subset.trans (by decide) hl_)

theorem enumReturn_only {l_ : List Comp} {s0_ : State} {l : Nat} {f : EnumFrame} {s : State} (hl_ : [Comp.regs, .teller, .alm, .lanes] ⊆ l_)
    (h_ : Only l_ s0_ s) : Only l_ s0_ (enumReturn l f s) := by
  unfold enumReturn
  try dsimp only
  repeat' (first
    | with_reducible exact h_
    | with_reducible exact hl_
    | with_reducible apply modLane_only
    | with_reducible apply enumDone_only
    | with_reducible apply only_ite
    | exact List.Subset.trans (by decide) hl_)

theorem execEnumerateFrameReturn_only {l_ : List Comp} {s0_ : State} {t : Nat} {lane : Fin 32} {frame : EnumFrame} {errors : Nat} {s : State} (hl_ : [Comp.regs, .time, .teller, .alm, .lanes] ⊆ l_)
    (h_ : Only l_ s0_ s) : OutOnly l_ s0_ (execEnumerateFrameReturn t lane frame errors s) := by
  unfold execEnumerateFrameReturn
  try dsimp only
  repeat' (first
    | with_reducible exact h_
    | with_reducible exact hl_
    | with_reducible apply advance_only
    | with_reducible apply rxErrors_only
    | with_reducible apply enumReturn_only
    | with_reducible apply OutOnly.ite
    | with_reducible apply OutOnly.next
    | exact List.Subset.trans (by decide) hl_
    | dsimp only
    | split)

theorem execLaneRxLoss_only {l_ : List Comp} {s0_ : State} {t : Nat} {lane : Fin 32} {errors : Nat} {s : State} (hl_ : [Comp.regs, .time, .teller, .lanes] ⊆ l_)
    (h_ : Only l_ s0_ s) : OutOnly l_ s0_ (execLaneRxLoss t lane errors s) := by
  unfold execLaneRxLoss
  try dsimp only
  repeat' (first
    | with_reducible exact h_
    | with_reducible exact hl_
    | with_reducible apply advance_only
    | with_reducible apply modLane_only
    | with_reducible apply laneEnter_only
    | with_reducible apply rxErrors_only
    | with_reducible apply OutOnly.ite
    | with_reducible apply only_ite
    | with_reducible apply OutOnly.next
    | exact List.Subset.trans (by decide) hl_
    | dsimp only
    | split)

theorem chipEpochReport_only {l_ : List Comp} {s0_ : State} {l : Nat} {i : Nat} {epoch : Nat} {s : State} (hl_ : [Comp.regs, .teller, .alm, .fxm, .lanes] ⊆ l_)
    (h_ : Only l_ s0_ s) : Only l_ s0_ (chipEpochReport l i epoch s) := by
  unfold chipEpochReport
  try dsimp only
  repeat' (first
    | with_reducible exact h_
    | with_reducible exact hl_
    | with_reducible apply unitReport_only
    | with_reducible apply modChip_only
    | with_reducible apply ctrlSend_only
    | with_reducible apply provision_only
    | with_reducible apply only_ite
    | exact List.Subset.trans (by decide) hl_)

theorem collectNow_only {l_ : List Comp} {s0_ : State} {l : Nat} {s : State} (hl_ : [Comp.lanes] ⊆ l_)
    (h_ : Only l_ s0_ s) : Only l_ s0_ (collectNow l s) := by
  unfold collectNow
  try dsimp only
  repeat' (first
    | with_reducible exact h_
    | with_reducible exact hl_
    | with_reducible apply modLane_only
    | with_reducible apply only_ite
    | exact List.Subset.trans (by decide) hl_)

theorem collectSend_only {l_ : List Comp} {s0_ : State} {s : State} {l : Nat} (hl_ : [Comp.regs, .teller, .alm, .lanes] ⊆ l_)
    (h_ : Only l_ s0_ s) : Only l_ s0_ (collectSend s l) := by
  unfold collectSend
  try dsimp only
  repeat' (first
    | with_reducible exact h_
    | with_reducible exact hl_
    | with_reducible apply modLane_only
    | with_reducible apply ctrlSend_only
    | with_reducible apply rangeStart_only
    | with_reducible apply collectNow_only
    | with_reducible apply only_ite
    | exact List.Subset.trans (by decide) hl_)

theorem laneIdle_only {l_ : List Comp} {s0_ : State} {l : Nat} {s : State} (hl_ : [Comp.regs, .teller, .alm, .lanes] ⊆ l_)
    (h_ : Only l_ s0_ s) : Only l_ s0_ (laneIdle l s) := by
  unfold laneIdle
  try dsimp only
  repeat' (first
    | with_reducible exact h_
    | with_reducible exact hl_
    | with_reducible apply ctrlSend_only
    | with_reducible apply rangeNext_only
    | with_reducible apply enumStart_only
    | with_reducible apply collectNow_only
    | with_reducible apply only_ite
    | exact List.Subset.trans (by decide) hl_)

theorem pixelSend_only {l_ : List Comp} {s0_ : State} {l : Nat} {s : State} (hl_ : [Comp.regs, .teller, .alm, .protect, .pool, .lanes] ⊆ l_)
    (h_ : Only l_ s0_ s) : Only l_ s0_ (pixelSend l s) := by
  unfold pixelSend
  try dsimp only
  repeat' (first
    | with_reducible exact h_
    | with_reducible exact hl_
    | with_reducible apply dropJob_only
    | with_reducible apply sendFrame_only
    | with_reducible apply spoilFrame_only
    | with_reducible apply laneIdle_only
    | with_reducible apply only_ite
    | exact List.Subset.trans (by decide) hl_
    | dsimp only
    | split)

theorem execPixelFrameSend_only {l_ : List Comp} {s0_ : State} {t : Nat} {lane : Fin 32} {s : State} (hl_ : [Comp.regs, .time, .teller, .alm, .protect, .pool, .lanes] ⊆ l_)
    (h_ : Only l_ s0_ s) : OutOnly l_ s0_ (execPixelFrameSend t lane s) := by
  unfold execPixelFrameSend
  try dsimp only
  repeat' (first
    | with_reducible exact h_
    | with_reducible exact hl_
    | with_reducible apply advance_only
    | with_reducible apply pixelSend_only
    | with_reducible apply OutOnly.ite
    | with_reducible apply only_ite
    | with_reducible apply OutOnly.next
    | exact List.Subset.trans (by decide) hl_)

theorem collectSlot_only {l_ : List Comp} {s0_ : State} {l : Nat} {s : State} {e : Nat × Slot} (hl_ : [Comp.regs, .teller, .alm, .fxm, .pho, .lanes] ⊆ l_)
    (h_ : Only l_ s0_ s) : Only l_ s0_ (collectSlot l s e) := by
  unfold collectSlot
  try dsimp only
  repeat' (first
    | with_reducible exact h_
    | with_reducible exact hl_
    | with_reducible apply bump_only
    | with_reducible apply chipReport_only
    | with_reducible apply enumStart_only
    | with_reducible apply chipEpochReport_only
    | with_reducible apply only_ite
    | with_reducible apply only_ite_fst
    | exact List.Subset.trans (by decide) hl_)

theorem collectReturn_only {l_ : List Comp} {s0_ : State} {l : Nat} {slots : List Slot} {s : State} (hl_ : [Comp.regs, .teller, .alm, .fifos, .fxm, .pho, .lanes] ⊆ l_)
    (h_ : Only l_ s0_ s) : Only l_ s0_ (collectReturn l slots s) := by
  unfold collectReturn
  try dsimp only
  repeat' (first
    | with_reducible exact h_
    | with_reducible exact hl_
    | with_reducible assumption
    | with_reducible apply intake_only
    | with_reducible apply modLane_only
    | with_reducible apply rangeNext_only
    | with_reducible apply collectSlot_only
    | with_reducible refine only_foldl ?_ (fun _ _ _ => ?_)
    | with_reducible apply only_ite
    | with_reducible apply only_ite_fst
    | exact List.Subset.trans (by decide) hl_
    | dsimp only
    | split)

theorem execCollectFrameReturn_only {l_ : List Comp} {s0_ : State} {t : Nat} {lane : Fin 32} {slots : List Slot} {errors : Nat} {s : State} (hl_ : [Comp.regs, .time, .teller, .alm, .fifos, .fxm, .pho, .lanes] ⊆ l_)
    (h_ : Only l_ s0_ s) : OutOnly l_ s0_ (execCollectFrameReturn t lane slots errors s) := by
  unfold execCollectFrameReturn
  try dsimp only
  repeat' (first
    | with_reducible exact h_
    | with_reducible exact hl_
    | with_reducible apply advance_only
    | with_reducible apply rxErrors_only
    | with_reducible apply collectReturn_only
    | with_reducible apply OutOnly.ite
    | with_reducible apply only_ite
    | with_reducible apply OutOnly.next
    | exact List.Subset.trans (by decide) hl_)

theorem laneSync_only {l_ : List Comp} {s0_ : State} {l : Nat} {zones : List Nat} {p : Int} {s : State} (hl_ : [Comp.regs, .free, .lanes] ⊆ l_)
    (h_ : Only l_ s0_ s) : Only l_ s0_ (laneSync l zones p s) := by
  unfold laneSync
  try dsimp only
  repeat' (first
    | with_reducible exact h_
    | with_reducible exact hl_
    | with_reducible apply draw_only
    | with_reducible apply bump_only
    | with_reducible apply modLane_only
    | with_reducible apply only_ite
    | exact List.Subset.trans (by decide) hl_)

theorem execLaneSet_only {l_ : List Comp} {s0_ : State} {c : Call} {p : LaneSet} {s : State} (hl_ : [Comp.regs, .time, .teller] ⊆ l_)
    (h_ : Only l_ s0_ s) : OutOnly l_ s0_ (execLaneSet c p s) := by
  unfold execLaneSet
  try dsimp only
  repeat' (first
    | with_reducible exact h_
    | with_reducible exact hl_
    | with_reducible apply configMessage_only)

theorem execLaneChainSet_only {l_ : List Comp} {s0_ : State} {c : Call} {p : LaneChainSet} {s : State} (hl_ : [Comp.regs, .time, .teller] ⊆ l_)
    (h_ : Only l_ s0_ s) : OutOnly l_ s0_ (execLaneChainSet c p s) := by
  unfold execLaneChainSet
  try dsimp only
  repeat' (first
    | with_reducible exact h_
    | with_reducible exact hl_
    | with_reducible apply configMessage_only)

theorem execLaneGlobalSet_only {l_ : List Comp} {s0_ : State} {c : Call} {p : LaneGlobalSet} {s : State} (hl_ : [Comp.regs, .time, .teller] ⊆ l_)
    (h_ : Only l_ s0_ s) : OutOnly l_ s0_ (execLaneGlobalSet c p s) := by
  unfold execLaneGlobalSet
  try dsimp only
  repeat' (first
    | with_reducible exact h_
    | with_reducible exact hl_
    | with_reducible apply configMessage_only)

theorem setWords_only {l_ : List Comp} {s0_ : State} {l : List (Nat × Word)} {s : State} (hl_ : [Comp.regs] ⊆ l_)
    (h_ : Only l_ s0_ s) : Only l_ s0_ (setWords l s) := by
  unfold setWords
  try dsimp only
  repeat' (first
    | with_reducible exact h_
    | with_reducible exact hl_
    | with_reducible assumption
    | with_reducible apply setReg_only
    | with_reducible refine only_foldl ?_ (fun _ _ _ => ?_))

theorem lneShadow_only {l_ : List Comp} {s0_ : State} {r : Cfg} {s : State} (hl_ : [Comp.regs] ⊆ l_)
    (h_ : Only l_ s0_ s) : Only l_ s0_ (lneShadow r s) := by
  unfold lneShadow
  try dsimp only
  repeat' (first
    | with_reducible exact h_
    | with_reducible exact hl_
    | with_reducible assumption
    | with_reducible apply setReg_only
    | with_reducible apply setWords_only
    | with_reducible refine only_foldl ?_ (fun _ _ _ => ?_))

theorem chainTrim_only {l_ : List Comp} {s0_ : State} {l : Nat} {n : Nat} {s : State} (hl_ : [Comp.lanes] ⊆ l_)
    (h_ : Only l_ s0_ s) : Only l_ s0_ (chainTrim l n s) := by
  unfold chainTrim
  try dsimp only
  repeat' (first
    | with_reducible exact h_
    | with_reducible exact hl_
    | with_reducible apply modLane_only
    | exact List.Subset.trans (by decide) hl_)

theorem lneConfigure_only {l_ : List Comp} {s0_ : State} {old : Cfg} {k : Int} {s : State} (hl_ : [Comp.regs, .teller, .alm, .lanes] ⊆ l_)
    (h_ : Only l_ s0_ s) : Only l_ s0_ (lneConfigure old k s) := by
  unfold lneConfigure
  try dsimp only
  repeat' (first
    | with_reducible exact h_
    | with_reducible exact hl_
    | with_reducible assumption
    | with_reducible apply laneEnter_only
    | with_reducible apply ctrlSend_only
    | with_reducible apply provision_only
    | with_reducible apply rangeNext_only
    | with_reducible apply rangeApply_only
    | with_reducible apply laneTrain_only
    | with_reducible apply laneOff_only
    | with_reducible apply chainTrim_only
    | with_reducible refine only_foldl ?_ (fun _ _ _ => ?_)
    | with_reducible apply only_ite
    | with_reducible apply only_ite_fst
    | exact List.Subset.trans (by decide) hl_)

theorem lneStart_only {l_ : List Comp} {s0_ : State} {s : State} (hl_ : [Comp.regs, .teller, .alm, .lanes] ⊆ l_)
    (h_ : Only l_ s0_ s) : Only l_ s0_ (lneStart s) := by
  unfold lneStart
  try dsimp only
  repeat' (first
    | with_reducible exact h_
    | with_reducible exact hl_
    | with_reducible assumption
    | with_reducible apply ctrlQueue_only
    | with_reducible apply ctrlSend_only
    | with_reducible apply provision_only
    | with_reducible refine only_foldl ?_ (fun _ _ _ => ?_)
    | with_reducible apply only_ite
    | exact List.Subset.trans (by decide) hl_)

theorem lneStop_only {l_ : List Comp} {s0_ : State} {s : State} (hl_ : [Comp.lanes] ⊆ l_)
    (h_ : Only l_ s0_ s) : Only l_ s0_ (lneStop s) := by
  unfold lneStop
  try dsimp only
  repeat' (first
    | with_reducible exact h_
    | with_reducible exact hl_
    | exact List.Subset.trans (by decide) hl_
    | fail_if_no_progress ((with_reducible refine only_mk (k := [.lanes]) ?_ ?_ ?lit); case lit => exact fun c hc => by cases c <;> first | with_reducible rfl | exact absurd (by decide) hc))

theorem execLaneRange_only {l_ : List Comp} {s0_ : State} {c : Call} {mask : Nat} {chip : Nat} {s : State} (hl_ : [Comp.regs, .time, .teller, .lanes] ⊆ l_)
    (h_ : Only l_ s0_ s) : OutOnly l_ s0_ (execLaneRange c mask chip s) := by
  unfold execLaneRange
  try dsimp only
  repeat' (first
    | with_reducible exact h_
    | with_reducible exact hl_
    | with_reducible assumption
    | with_reducible refine command_only ?_ ?_ (fun _ _ => ?_)
    | with_reducible apply refuse_only
    | with_reducible apply accept_only
    | with_reducible apply laneEnter_only
    | with_reducible apply rangeStart_only
    | with_reducible refine only_foldl ?_ (fun _ _ _ => ?_)
    | with_reducible apply OutOnly.ite
    | with_reducible apply only_ite
    | with_reducible apply only_ite_fst
    | with_reducible apply OutOnly.next
    | exact List.Subset.trans (by decide) hl_
    | dsimp only
    | split)

theorem execLaneStatusGet_only {l_ : List Comp} {s0_ : State} {c : Call} {lane : Nat} {s : State} (hl_ : [Comp.regs, .time, .teller] ⊆ l_)
    (h_ : Only l_ s0_ s) : OutOnly l_ s0_ (execLaneStatusGet c lane s) := by
  unfold execLaneStatusGet
  try dsimp only
  repeat' (first
    | with_reducible exact h_
    | with_reducible exact hl_
    | with_reducible assumption
    | with_reducible refine command_only ?_ ?_ (fun _ _ => ?_)
    | with_reducible apply refuse_only
    | with_reducible apply answer_only
    | with_reducible apply OutOnly.ite
    | with_reducible apply only_ite
    | with_reducible apply OutOnly.next
    | exact List.Subset.trans (by decide) hl_
    | dsimp only
    | split)

theorem execLaneChipWrite_only {l_ : List Comp} {s0_ : State} {c : Call} {lane : Nat} {chip : Nat} {addr : Nat} {data : List (BitVec 8)} {s : State} (hl_ : [Comp.regs, .time, .teller, .alm, .lanes] ⊆ l_)
    (h_ : Only l_ s0_ s) : OutOnly l_ s0_ (execLaneChipWrite c lane chip addr data s) := by
  unfold execLaneChipWrite
  try dsimp only
  repeat' (first
    | with_reducible exact h_
    | with_reducible exact hl_
    | with_reducible assumption
    | with_reducible refine command_only ?_ ?_ (fun _ _ => ?_)
    | with_reducible apply refuse_only
    | with_reducible apply ctrlQueue_only
    | with_reducible apply ctrlSend_only
    | with_reducible apply OutOnly.ite
    | with_reducible apply only_ite
    | with_reducible apply only_ite_fst
    | with_reducible apply OutOnly.next
    | exact List.Subset.trans (by decide) hl_
    | dsimp only
    | split)

theorem execLaneChipRead_only {l_ : List Comp} {s0_ : State} {c : Call} {lane : Nat} {chip : Nat} {addr : Nat} {s : State} (hl_ : [Comp.regs, .time, .teller, .alm, .lanes] ⊆ l_)
    (h_ : Only l_ s0_ s) : OutOnly l_ s0_ (execLaneChipRead c lane chip addr s) := by
  unfold execLaneChipRead
  try dsimp only
  repeat' (first
    | with_reducible exact h_
    | with_reducible exact hl_
    | with_reducible assumption
    | with_reducible refine command_only ?_ ?_ (fun _ _ => ?_)
    | with_reducible apply refuse_only
    | with_reducible apply ctrlQueue_only
    | with_reducible apply ctrlSend_only
    | with_reducible apply OutOnly.ite
    | with_reducible apply only_ite
    | with_reducible apply only_ite_fst
    | with_reducible apply OutOnly.next
    | exact List.Subset.trans (by decide) hl_
    | dsimp only
    | split)

end Sys2Proof.Laws
end

