-- ==== Sys2Proof/Laws/OnlyPackets.lean ====
section
/-! SUPPORT. Which components of the machine the operations of Machine/Packets.lean may change. -/

namespace Sys2Proof.Laws

open Sys2Proof.Machine Sys2Proof.Safety

theorem modPkt_only {l_ : List Comp} {s0_ : State} {f : Pkt → Pkt} {s : State} (hl_ : [Comp.pkt] ⊆ l_)
    (h_ : Only l_ s0_ s) : Only l_ s0_ (modPkt f s) := by
  unfold modPkt
  try dsimp only
  repeat' (first
    | with_reducible exact h_
    | with_reducible exact hl_
    | with_reducible apply only_ite
    | fail_if_no_progress ((with_reducible refine only_mk (k := [.pkt]) ?_ ?_ ?lit); case lit => exact fun c hc => by cases c <;> first | with_reducible rfl | exact absurd (by decide) hc))

theorem modDmx_only {l_ : List Comp} {s0_ : State} {p : Nat} {f : DmxPort → DmxPort} {s : State} (hl_ : [Comp.dmx] ⊆ l_)
    (h_ : Only l_ s0_ s) : Only l_ s0_ (modDmx p f s) := by
  unfold modDmx
  try dsimp only
  repeat' (first
    | with_reducible exact h_
    | with_reducible exact hl_
    | with_reducible apply only_ite
    | fail_if_no_progress ((with_reducible refine only_mk (k := [.dmx]) ?_ ?_ ?lit); case lit => exact fun c hc => by cases c <;> first | with_reducible rfl | exact absurd (by decide) hc))

theorem flowFrames_only {l_ : List Comp} {s0_ : State} {n : Nat} {p : FlowCtx} {pf : PoolFrame} {deadline : Option Int} {s : State}
    (hl_ : [Comp.free, .pkt] ⊆ l_) (h_ : Only l_ s0_ s) : Only l_ s0_ (flowFrames n p pf deadline s).2 := by
  unfold flowFrames
  dsimp only
  split <;> dsimp only
  · exact modPkt_only (List.Subset.trans (by decide) hl_) h_
  · exact h_
  · exact draw_only (List.Subset.trans (by decide) hl_) (modPkt_only (List.Subset.trans (by decide) hl_) h_)

theorem trapClear_only {l_ : List Comp} {s0_ : State} {e : Nat} {s : State} (hl_ : [Comp.pkt] ⊆ l_)
    (h_ : Only l_ s0_ s) : Only l_ s0_ (trapClear e s) := by
  unfold trapClear
  try dsimp only
  repeat' (first
    | with_reducible exact h_
    | with_reducible exact hl_
    | with_reducible apply modPkt_only
    | exact List.Subset.trans (by decide) hl_)

theorem flowWork_only {l_ : List Comp} {s0_ : State} {n : Nat} {d : Descriptor} {s : State} (hl_ : [Comp.regs, .free, .teller, .protect, .pool, .mac, .pkt] ⊆ l_) (h_ : Only l_ s0_ s) :
    Only l_ s0_ (flowWork n d s) := by
  unfold flowWork
  split
  · exact zoneLate_only (List.Subset.trans (by decide) hl_) h_
  · rename_i pf _
    split
    · exact h_
    · rename_i p _
      dsimp only
      refine only_ite (zoneLate_only (List.Subset.trans (by decide) hl_) h_) ?_
      refine only_ite (zoneLate_only (List.Subset.trans (by decide) hl_) (trapClear_only (List.Subset.trans (by decide) hl_) h_)) ?_
      have hf := flowFrames_only (n := n) (p := p) (pf := pf) (deadline := d.deadline) (List.Subset.trans (by decide) hl_) h_
      generalize flowFrames n p pf d.deadline s = r at hf ⊢
      obtain ⟨all, s1⟩ := r
      repeat' (first
        | with_reducible assumption
        | with_reducible apply bumpBy_only
        | with_reducible apply outputClear_only
        | with_reducible apply macSend_only
        | with_reducible refine only_foldl ?_ (fun _ _ _ => ?_)
        | exact hf
        | exact List.Subset.trans (by decide) hl_)

theorem flowLate_only {l_ : List Comp} {s0_ : State} {n : Nat} {d : Descriptor} {s : State} (hl_ : [Comp.regs, .teller, .pool] ⊆ l_)
    (h_ : Only l_ s0_ s) : Only l_ s0_ (flowLate n d s) := by
  unfold flowLate
  try dsimp only
  repeat' (first
    | with_reducible exact h_
    | with_reducible exact hl_
    | with_reducible apply bumpBy_only
    | with_reducible apply setFlag_only
    | with_reducible apply zoneLate_only
    | exact List.Subset.trans (by decide) hl_)

theorem dmxWork_only {l_ : List Comp} {s0_ : State} {p : Nat} {d : Descriptor} {s : State} (hl_ : [Comp.regs, .teller, .pool, .dmx] ⊆ l_)
    (h_ : Only l_ s0_ s) : Only l_ s0_ (dmxWork p d s) := by
  unfold dmxWork
  try dsimp only
  repeat' (first
    | with_reducible exact h_
    | with_reducible exact hl_
    | with_reducible apply zoneLate_only
    | with_reducible apply modDmx_only
    | with_reducible apply only_ite
    | exact List.Subset.trans (by decide) hl_
    | dsimp only
    | split)

theorem mergeNote_only {l_ : List Comp} {s0_ : State} {z : Nat} {k : Int} {at_ : Int} {s : State} (hl_ : [Comp.regs, .alm] ⊆ l_)
    (h_ : Only l_ s0_ s) : Only l_ s0_ (mergeNote z k at_ s) := by
  unfold mergeNote
  try dsimp only
  repeat' (first
    | with_reducible exact h_
    | with_reducible exact hl_
    | with_reducible apply bump_only
    | with_reducible apply setFlag_only
    | with_reducible apply traceRec_only
    | exact List.Subset.trans (by decide) hl_)

theorem armSync_only {l_ : List Comp} {s0_ : State} {p : Nat} {zs : List (Nat × Int)} {at_ : Int} {s : State} (hl_ : [Comp.regs, .mac, .pkt] ⊆ l_)
    (h_ : Only l_ s0_ s) : Only l_ s0_ (armSync p zs at_ s) := by
  unfold armSync
  try dsimp only
  repeat' (first
    | with_reducible exact h_
    | with_reducible exact hl_
    | with_reducible assumption
    | with_reducible apply macArm_only
    | with_reducible apply modPkt_only
    | with_reducible refine only_foldl ?_ (fun _ _ _ => ?_)
    | exact List.Subset.trans (by decide) hl_)

theorem joinArmed_only {l_ : List Comp} {s0_ : State} {z : Nat} {k : Int} {a : Armed} {s : State} (hl_ : [Comp.alm] ⊆ l_)
    (h_ : Only l_ s0_ s) : Only l_ s0_ (joinArmed z k a s) := by
  unfold joinArmed
  try dsimp only
  repeat' (first
    | with_reducible exact h_
    | with_reducible exact hl_
    | with_reducible apply modAlm_only
    | with_reducible apply only_ite
    | exact List.Subset.trans (by decide) hl_)

theorem joinLaunch_only {l_ : List Comp} {s0_ : State} {z : Nat} {k : Int} {s : State} {l : Int × LaunchKind} (hl_ : [Comp.regs, .teller, .alm, .pool, .mac, .pkt] ⊆ l_)
    (h_ : Only l_ s0_ s) : Only l_ s0_ (joinLaunch z k s l) := by
  unfold joinLaunch
  try dsimp only
  repeat' (first
    | with_reducible exact h_
    | with_reducible exact hl_
    | with_reducible apply modAlm_only
    | with_reducible apply insertLaunch_only
    | with_reducible apply modPool_only
    | with_reducible apply mergeNote_only
    | with_reducible apply armSync_only
    | with_reducible apply joinArmed_only
    | with_reducible apply only_ite
    | with_reducible apply only_ite_fst
    | exact List.Subset.trans (by decide) hl_
    | dsimp only
    | split)

theorem lateWork_only {l_ : List Comp} {s0_ : State} {s : State} {d : Descriptor} (hl_ : [Comp.regs, .teller, .pool, .lanes, .esc] ⊆ l_)
    (h_ : Only l_ s0_ s) : Only l_ s0_ (lateWork s d) := by
  unfold lateWork
  split
  · exact flowLate_only (List.Subset.trans (by decide) hl_) h_
  · dsimp only
    split
    · exact dropJob_only (List.Subset.trans (by decide) hl_) (laneTake_only (List.Subset.trans (by decide) hl_) h_)
    · exact laneTake_only (List.Subset.trans (by decide) hl_) h_
  · exact zoneLate_only (List.Subset.trans (by decide) hl_) h_
  · exact only_mk (k := [.esc]) h_ (List.Subset.trans (by decide) hl_) (fun c hc => by cases c <;> first | rfl | exact absurd (by decide) hc)
  · exact h_

theorem releaseWork_only {l_ : List Comp} {s0_ : State} {r : Cfg} {s : State} {d : Descriptor} (hl_ : [Comp.regs, .teller, .alm, .pool, .lanes, .esc] ⊆ l_)
    (h_ : Only l_ s0_ s) : Only l_ s0_ (releaseWork r s d) := by
  unfold releaseWork
  try dsimp only
  repeat' (first
    | with_reducible exact h_
    | with_reducible exact hl_
    | with_reducible apply insertDescriptor_only
    | with_reducible apply discardDescriptor_only
    | with_reducible apply lateWork_only
    | with_reducible apply only_ite
    | exact List.Subset.trans (by decide) hl_
    | dsimp only
    | split)

theorem zoneData_only {l_ : List Comp} {s0_ : State} {z : Nat} {k : Int} {s : State} (hl_ : [Comp.regs, .teller, .alm, .pool, .lanes, .esc] ⊆ l_)
    (h_ : Only l_ s0_ s) : Only l_ s0_ (zoneData z k s) := by
  unfold zoneData
  try dsimp only
  repeat' (first
    | with_reducible exact h_
    | with_reducible exact hl_
    | with_reducible assumption
    | with_reducible apply modPool_only
    | with_reducible apply releaseWork_only
    | with_reducible refine only_foldl ?_ (fun _ _ _ => ?_)
    | exact List.Subset.trans (by decide) hl_
    | dsimp only
    | split)

theorem zoneRelease_only {l_ : List Comp} {s0_ : State} {z : Nat} {k : Int} {s : State} (hl_ : [Comp.regs, .teller, .alm, .pool, .lanes, .mac, .pkt, .esc] ⊆ l_)
    (h_ : Only l_ s0_ s) : Only l_ s0_ (zoneRelease z k s) := by
  unfold zoneRelease
  try dsimp only
  repeat' (first
    | with_reducible exact h_
    | with_reducible exact hl_
    | with_reducible assumption
    | with_reducible apply joinLaunch_only
    | with_reducible apply zoneData_only
    | with_reducible refine only_foldl ?_ (fun _ _ _ => ?_)
    | exact List.Subset.trans (by decide) hl_)

theorem zoneReady_only {l_ : List Comp} {s0_ : State} {z : Nat} {k : Int} {s : State} (hl_ : [Comp.regs, .teller, .alm, .pool, .lanes, .esc] ⊆ l_)
    (h_ : Only l_ s0_ s) : Only l_ s0_ (zoneReady z k s) := by
  unfold zoneReady
  try dsimp only
  repeat' (first
    | with_reducible exact h_
    | with_reducible exact hl_
    | with_reducible apply modPool_only
    | with_reducible apply zoneData_only
    | with_reducible apply only_ite
    | exact List.Subset.trans (by decide) hl_)

theorem poolFree_only {l_ : List Comp} {s0_ : State} {z : Nat} {k : Int} {s : State} (hl_ : [Comp.pool] ⊆ l_)
    (h_ : Only l_ s0_ s) : Only l_ s0_ (poolFree z k s) := by
  unfold poolFree
  try dsimp only
  repeat' (first
    | with_reducible exact h_
    | with_reducible exact hl_
    | with_reducible apply modPool_only
    | exact List.Subset.trans (by decide) hl_)

theorem sendEndings_only {l_ : List Comp} {s0_ : State} {s : State} (hl_ : [Comp.regs, .mac, .pkt] ⊆ l_)
    (h_ : Only l_ s0_ s) : Only l_ s0_ (sendEndings s) := by
  unfold sendEndings
  try dsimp only
  repeat' (first
    | with_reducible exact h_
    | with_reducible exact hl_
    | with_reducible assumption
    | with_reducible apply bump_only
    | with_reducible apply macSend_only
    | with_reducible apply modPkt_only
    | with_reducible refine only_foldl ?_ (fun _ _ _ => ?_)
    | with_reducible apply only_ite
    | with_reducible apply only_ite_fst
    | exact List.Subset.trans (by decide) hl_)

theorem rxSet_only {l_ : List Comp} {s0_ : State} {u : Nat} {x : RxUniverse} {s : State} (hl_ : [Comp.regs, .teller, .pkt] ⊆ l_)
    (h_ : Only l_ s0_ s) : Only l_ s0_ (rxSet u x s) := by
  unfold rxSet
  try dsimp only
  repeat' (first
    | with_reducible exact h_
    | with_reducible exact hl_
    | with_reducible apply setFlag_only
    | with_reducible apply notify_only
    | with_reducible apply modPkt_only
    | with_reducible apply only_ite
    | exact List.Subset.trans (by decide) hl_)

theorem rxTake_only {l_ : List Comp} {s0_ : State} {p : E131Packet} {s : State} {u : Nat} (hl_ : [Comp.regs, .teller, .pkt] ⊆ l_)
    (h_ : Only l_ s0_ s) : Only l_ s0_ (rxTake p s u) := by
  unfold rxTake
  try dsimp only
  repeat' (first
    | with_reducible exact h_
    | with_reducible exact hl_
    | with_reducible apply rxSet_only
    | with_reducible apply only_ite
    | exact List.Subset.trans (by decide) hl_)

theorem e131Receive_only {l_ : List Comp} {s0_ : State} {port : Nat} {p : E131Packet} {s : State} (hl_ : [Comp.regs, .teller, .pkt] ⊆ l_)
    (h_ : Only l_ s0_ s) : Only l_ s0_ (e131Receive port p s) := by
  unfold e131Receive
  try dsimp only
  repeat' (first
    | with_reducible exact h_
    | with_reducible exact hl_
    | with_reducible assumption
    | with_reducible apply bump_only
    | with_reducible apply rxTake_only
    | with_reducible refine only_foldl ?_ (fun _ _ _ => ?_)
    | with_reducible apply only_ite
    | exact List.Subset.trans (by decide) hl_)

theorem execE131PacketReceived_only {l_ : List Comp} {s0_ : State} {t : Nat} {port : Fin 8} {p : E131Packet} {s : State} (hl_ : [Comp.regs, .time, .teller, .pkt] ⊆ l_)
    (h_ : Only l_ s0_ s) : OutOnly l_ s0_ (execE131PacketReceived t port p s) := by
  unfold execE131PacketReceived
  try dsimp only
  repeat' (first
    | with_reducible exact h_
    | with_reducible exact hl_
    | with_reducible apply advance_only
    | with_reducible apply e131Receive_only
    | with_reducible apply OutOnly.ite
    | with_reducible apply only_ite
    | with_reducible apply OutOnly.next
    | exact List.Subset.trans (by decide) hl_
    | dsimp only
    | split)

theorem rxExpire_only {l_ : List Comp} {s0_ : State} {dmx : Bool} {u : Nat} {cid : Nat} {s : State} (hl_ : [Comp.regs, .teller, .pkt] ⊆ l_)
    (h_ : Only l_ s0_ s) : Only l_ s0_ (rxExpire dmx u cid s) := by
  unfold rxExpire
  try dsimp only
  repeat' (first
    | with_reducible exact h_
    | with_reducible exact hl_
    | with_reducible apply bump_only
    | with_reducible apply rxSet_only
    | with_reducible apply only_ite
    | exact List.Subset.trans (by decide) hl_)

theorem execE131SourceTimeout_only {l_ : List Comp} {s0_ : State} {t : Nat} {entry : Nat} {cid : Nat} {s : State} (hl_ : [Comp.regs, .time, .teller, .pkt] ⊆ l_)
    (h_ : Only l_ s0_ s) : OutOnly l_ s0_ (execE131SourceTimeout t entry cid s) := by
  unfold execE131SourceTimeout
  try dsimp only
  repeat' (first
    | with_reducible exact h_
    | with_reducible exact hl_
    | with_reducible apply advance_only
    | with_reducible apply rxExpire_only
    | with_reducible apply OutOnly.ite
    | with_reducible apply only_ite
    | with_reducible apply OutOnly.next
    | exact List.Subset.trans (by decide) hl_)

theorem discovery_only {l_ : List Comp} {s0_ : State} {s : State} (hl_ : [Comp.mac, .pkt] ⊆ l_)
    (h_ : Only l_ s0_ s) : Only l_ s0_ (discovery s) := by
  unfold discovery
  try dsimp only
  repeat' (first
    | with_reducible exact h_
    | with_reducible exact hl_
    | with_reducible assumption
    | with_reducible apply macSend_only
    | with_reducible apply modPkt_only
    | with_reducible refine only_foldl ?_ (fun _ _ _ => ?_)
    | exact List.Subset.trans (by decide) hl_)

theorem execUniverseDiscovery_only {l_ : List Comp} {s0_ : State} {t : Nat} {s : State} (hl_ : [Comp.time, .mac, .pkt] ⊆ l_)
    (h_ : Only l_ s0_ s) : OutOnly l_ s0_ (execUniverseDiscovery t s) := by
  unfold execUniverseDiscovery
  try dsimp only
  repeat' (first
    | with_reducible exact h_
    | with_reducible exact hl_
    | with_reducible apply advance_only
    | with_reducible apply discovery_only
    | with_reducible apply OutOnly.ite
    | with_reducible apply only_ite
    | with_reducible apply OutOnly.next
    | exact List.Subset.trans (by decide) hl_
    | dsimp only
    | split)

theorem dmxReceive_only {l_ : List Comp} {s0_ : State} {p : Nat} {startCode : Nat} {slots : List Nat} {errors : Nat} {s : State} (hl_ : [Comp.regs, .teller, .fifos, .pkt] ⊆ l_)
    (h_ : Only l_ s0_ s) : Only l_ s0_ (dmxReceive p startCode slots errors s) := by
  unfold dmxReceive
  try dsimp only
  repeat' (first
    | with_reducible exact h_
    | with_reducible exact hl_
    | with_reducible apply bumpBy_only
    | with_reducible apply bump_only
    | with_reducible apply setFlag_only
    | with_reducible apply intake_only
    | with_reducible apply rxSet_only
    | with_reducible apply only_ite
    | exact List.Subset.trans (by decide) hl_)

theorem execDmxFrameReceived_only {l_ : List Comp} {s0_ : State} {t : Nat} {port : Fin 16} {startCode : Nat} {slots : List Nat} {errors : Nat} {s : State} (hl_ : [Comp.regs, .time, .teller, .fifos, .pkt] ⊆ l_)
    (h_ : Only l_ s0_ s) : OutOnly l_ s0_ (execDmxFrameReceived t port startCode slots errors s) := by
  unfold execDmxFrameReceived
  try dsimp only
  repeat' (first
    | with_reducible exact h_
    | with_reducible exact hl_
    | with_reducible apply advance_only
    | with_reducible apply dmxReceive_only
    | with_reducible apply OutOnly.ite
    | with_reducible apply only_ite
    | with_reducible apply OutOnly.next
    | exact List.Subset.trans (by decide) hl_)

theorem execDmxSourceTimeout_only {l_ : List Comp} {s0_ : State} {t : Nat} {port : Fin 16} {s : State} (hl_ : [Comp.regs, .time, .teller, .pkt] ⊆ l_)
    (h_ : Only l_ s0_ s) : OutOnly l_ s0_ (execDmxSourceTimeout t port s) := by
  unfold execDmxSourceTimeout
  try dsimp only
  repeat' (first
    | with_reducible exact h_
    | with_reducible exact hl_
    | with_reducible apply advance_only
    | with_reducible apply rxExpire_only
    | with_reducible apply OutOnly.ite
    | with_reducible apply only_ite
    | with_reducible apply OutOnly.next
    | exact List.Subset.trans (by decide) hl_)

theorem dmxSkip_only {l_ : List Comp} {s0_ : State} {p : Nat} {s : State} (hl_ : [Comp.regs] ⊆ l_)
    (h_ : Only l_ s0_ s) : Only l_ s0_ (dmxSkip p s) := by
  unfold dmxSkip
  try dsimp only
  repeat' (first
    | with_reducible exact h_
    | with_reducible exact hl_
    | with_reducible apply bump_only
    | with_reducible apply setFlag_only)

theorem rdmSend_only {l_ : List Comp} {s0_ : State} {p : Nat} {s : State} (hl_ : [Comp.regs, .teller, .dmx] ⊆ l_)
    (h_ : Only l_ s0_ s) : Only l_ s0_ (rdmSend p s) := by
  unfold rdmSend
  try dsimp only
  repeat' (first
    | with_reducible exact h_
    | with_reducible exact hl_
    | with_reducible apply bump_only
    | with_reducible apply respondOwed_only
    | with_reducible apply modDmx_only
    | with_reducible apply only_ite
    | with_reducible apply only_ite_fst
    | exact List.Subset.trans (by decide) hl_
    | dsimp only
    | split)

theorem rdmNext_only {l_ : List Comp} {s0_ : State} {p : Nat} {s : State} (hl_ : [Comp.regs, .teller, .dmx] ⊆ l_)
    (h_ : Only l_ s0_ s) : Only l_ s0_ (rdmNext p s) := by
  unfold rdmNext
  try dsimp only
  repeat' (first
    | with_reducible exact h_
    | with_reducible exact hl_
    | with_reducible apply rdmSend_only
    | with_reducible apply only_ite
    | with_reducible apply only_ite_fst
    | exact List.Subset.trans (by decide) hl_
    | dsimp only
    | split)

theorem rdmOpen_only {l_ : List Comp} {s0_ : State} {p : Nat} {s : State} (hl_ : [Comp.regs, .teller, .dmx] ⊆ l_)
    (h_ : Only l_ s0_ s) : Only l_ s0_ (rdmOpen p s) := by
  unfold rdmOpen
  try dsimp only
  repeat' (first
    | with_reducible exact h_
    | with_reducible exact hl_
    | with_reducible apply modDmx_only
    | with_reducible apply rdmSend_only
    | exact List.Subset.trans (by decide) hl_
    | dsimp only
    | split)

theorem rdmWindow_only {l_ : List Comp} {s0_ : State} {p : Nat} {s : State} (hl_ : [Comp.regs, .teller, .dmx] ⊆ l_)
    (h_ : Only l_ s0_ s) : Only l_ s0_ (rdmWindow p s) := by
  unfold rdmWindow
  try dsimp only
  repeat' (first
    | with_reducible exact h_
    | with_reducible exact hl_
    | with_reducible apply rdmNext_only
    | with_reducible apply rdmOpen_only
    | with_reducible apply only_ite
    | exact List.Subset.trans (by decide) hl_)

theorem dmxBreak_only {l_ : List Comp} {s0_ : State} {p : Nat} {s : State} (hl_ : [Comp.regs, .teller, .protect, .dmx] ⊆ l_)
    (h_ : Only l_ s0_ s) : Only l_ s0_ (dmxBreak p s) := by
  unfold dmxBreak
  try dsimp only
  repeat' (first
    | with_reducible exact h_
    | with_reducible exact hl_
    | with_reducible apply bump_only
    | with_reducible apply outputClear_only
    | with_reducible apply modDmx_only
    | with_reducible apply dmxSkip_only
    | with_reducible apply rdmOpen_only
    | with_reducible apply only_ite
    | exact List.Subset.trans (by decide) hl_)

theorem execRdmWindow_only {l_ : List Comp} {s0_ : State} {t : Nat} {port : Fin 16} {s : State} (hl_ : [Comp.regs, .time, .teller, .dmx] ⊆ l_)
    (h_ : Only l_ s0_ s) : OutOnly l_ s0_ (execRdmWindow t port s) := by
  unfold execRdmWindow
  try dsimp only
  repeat' (first
    | with_reducible exact h_
    | with_reducible exact hl_
    | with_reducible apply advance_only
    | with_reducible apply rdmWindow_only
    | with_reducible apply OutOnly.ite
    | with_reducible apply only_ite
    | with_reducible apply OutOnly.next
    | exact List.Subset.trans (by decide) hl_)

theorem rdmReport_only {l_ : List Comp} {s0_ : State} {p : Nat} {kind : Nat} {took : Nat} {transaction : Nat} {bytes : List (BitVec 8)} {s : State} (hl_ : [Comp.regs, .teller, .fifos] ⊆ l_)
    (h_ : Only l_ s0_ s) : Only l_ s0_ (rdmReport p kind took transaction bytes s) := by
  unfold rdmReport
  try dsimp only
  repeat' (first
    | with_reducible exact h_
    | with_reducible exact hl_
    | with_reducible apply notify_only
    | with_reducible apply intake_only
    | with_reducible apply only_ite
    | with_reducible apply only_ite_fst
    | exact List.Subset.trans (by decide) hl_)

theorem rdmDone_only {l_ : List Comp} {s0_ : State} {p : Nat} {kind : Nat} {took : Nat} {bytes : List (BitVec 8)} {s : State} (hl_ : [Comp.regs, .teller, .fifos, .dmx] ⊆ l_)
    (h_ : Only l_ s0_ s) : Only l_ s0_ (rdmDone p kind took bytes s) := by
  unfold rdmDone
  try dsimp only
  repeat' (first
    | with_reducible exact h_
    | with_reducible exact hl_
    | with_reducible apply bump_only
    | with_reducible apply setFlag_only
    | with_reducible apply respondOwed_only
    | with_reducible apply modDmx_only
    | with_reducible apply rdmNext_only
    | with_reducible apply rdmReport_only
    | exact List.Subset.trans (by decide) hl_
    | dsimp only
    | split)

theorem execRdmResponseReceived_only {l_ : List Comp} {s0_ : State} {t : Nat} {port : Fin 16} {kind : Nat} {took : Nat} {bytes : List (BitVec 8)} {s : State} (hl_ : [Comp.regs, .time, .teller, .fifos, .dmx] ⊆ l_)
    (h_ : Only l_ s0_ s) : OutOnly l_ s0_ (execRdmResponseReceived t port kind took bytes s) := by
  unfold execRdmResponseReceived
  try dsimp only
  repeat' (first
    | with_reducible exact h_
    | with_reducible exact hl_
    | with_reducible apply advance_only
    | with_reducible apply rdmDone_only
    | with_reducible apply OutOnly.ite
    | with_reducible apply only_ite
    | with_reducible apply OutOnly.next
    | exact List.Subset.trans (by decide) hl_
    | dsimp only
    | split)

theorem execRdmResponseTimeout_only {l_ : List Comp} {s0_ : State} {t : Nat} {port : Fin 16} {s : State} (hl_ : [Comp.regs, .time, .teller, .fifos, .dmx] ⊆ l_)
    (h_ : Only l_ s0_ s) : OutOnly l_ s0_ (execRdmResponseTimeout t port s) := by
  unfold execRdmResponseTimeout
  try dsimp only
  repeat' (first
    | with_reducible exact h_
    | with_reducible exact hl_
    | with_reducible apply advance_only
    | with_reducible apply rdmDone_only
    | with_reducible apply OutOnly.ite
    | with_reducible apply only_ite
    | with_reducible apply OutOnly.next
    | exact List.Subset.trans (by decide) hl_
    | dsimp only
    | split)

theorem rdmDropOwed_only {l_ : List Comp} {s0_ : State} {i : Fin 5} {s : State} (hl_ : [Comp.dmx] ⊆ l_)
    (h_ : Only l_ s0_ s) : Only l_ s0_ (rdmDropOwed i s) := by
  unfold rdmDropOwed
  try dsimp only
  repeat' (first
    | with_reducible exact h_
    | with_reducible exact hl_
    | with_reducible apply only_ite
    | fail_if_no_progress ((with_reducible refine only_mk (k := [.dmx]) ?_ ?_ ?lit); case lit => exact fun c hc => by cases c <;> first | with_reducible rfl | exact absurd (by decide) hc))

theorem pktFailure_only {l_ : List Comp} {s0_ : State} {e : Nat} {cause : Nat} {s : State} (hl_ : [Comp.regs, .teller, .pkt] ⊆ l_)
    (h_ : Only l_ s0_ s) : Only l_ s0_ (pktFailure e cause s) := by
  unfold pktFailure
  try dsimp only
  repeat' (first
    | with_reducible exact h_
    | with_reducible exact hl_
    | with_reducible apply bump_only
    | with_reducible apply setFlag_only
    | with_reducible apply notify_only
    | with_reducible apply modPkt_only
    | with_reducible apply only_ite
    | with_reducible apply only_ite_fst
    | exact List.Subset.trans (by decide) hl_)

theorem execPktEngineFailure_only {l_ : List Comp} {s0_ : State} {t : Nat} {engine : Fin 8} {cause : Nat} {s : State} (hl_ : [Comp.regs, .time, .teller, .pkt] ⊆ l_)
    (h_ : Only l_ s0_ s) : OutOnly l_ s0_ (execPktEngineFailure t engine cause s) := by
  unfold execPktEngineFailure
  try dsimp only
  repeat' (first
    | with_reducible exact h_
    | with_reducible exact hl_
    | with_reducible apply advance_only
    | with_reducible apply pktFailure_only
    | with_reducible apply OutOnly.ite
    | with_reducible apply only_ite
    | with_reducible apply OutOnly.next
    | exact List.Subset.trans (by decide) hl_)

theorem execFlowSet_only {l_ : List Comp} {s0_ : State} {c : Call} {p : FlowSet} {s : State} (hl_ : [Comp.regs, .time, .teller] ⊆ l_)
    (h_ : Only l_ s0_ s) : OutOnly l_ s0_ (execFlowSet c p s) := by
  unfold execFlowSet
  try dsimp only
  repeat' (first
    | with_reducible exact h_
    | with_reducible exact hl_
    | with_reducible apply configMessage_only)

theorem execRxUniverseSet_only {l_ : List Comp} {s0_ : State} {c : Call} {p : RxUniverseSet} {s : State} (hl_ : [Comp.regs, .time, .teller] ⊆ l_)
    (h_ : Only l_ s0_ s) : OutOnly l_ s0_ (execRxUniverseSet c p s) := by
  unfold execRxUniverseSet
  try dsimp only
  repeat' (first
    | with_reducible exact h_
    | with_reducible exact hl_
    | with_reducible apply configMessage_only)

theorem execDmxPortSet_only {l_ : List Comp} {s0_ : State} {c : Call} {p : DmxPortSet} {s : State} (hl_ : [Comp.regs, .time, .teller] ⊆ l_)
    (h_ : Only l_ s0_ s) : OutOnly l_ s0_ (execDmxPortSet c p s) := by
  unfold execDmxPortSet
  try dsimp only
  repeat' (first
    | with_reducible exact h_
    | with_reducible exact hl_
    | with_reducible apply configMessage_only)

theorem execPktGlobalSet_only {l_ : List Comp} {s0_ : State} {c : Call} {p : PktGlobalSet} {s : State} (hl_ : [Comp.regs, .time, .teller, .pkt] ⊆ l_)
    (h_ : Only l_ s0_ s) : OutOnly l_ s0_ (execPktGlobalSet c p s) := by
  unfold execPktGlobalSet
  try dsimp only
  repeat' (first
    | with_reducible exact h_
    | with_reducible exact hl_
    | with_reducible assumption
    | with_reducible refine command_only ?_ ?_ (fun _ _ => ?_)
    | with_reducible apply accept_only
    | with_reducible apply modPkt_only
    | with_reducible apply OutOnly.ite
    | with_reducible apply only_ite
    | with_reducible apply OutOnly.next
    | exact List.Subset.trans (by decide) hl_)

theorem rdmGrant_only {l_ : List Comp} {s0_ : State} {p : Nat} {s : State} (hl_ : [Comp.dmx] ⊆ l_)
    (h_ : Only l_ s0_ s) : Only l_ s0_ (rdmGrant p s) := by
  unfold rdmGrant
  try dsimp only
  repeat' (first
    | with_reducible exact h_
    | with_reducible exact hl_
    | with_reducible apply modDmx_only
    | exact List.Subset.trans (by decide) hl_)

theorem rdmQueue_only {l_ : List Comp} {s0_ : State} {p : Nat} {s : State} (hl_ : [Comp.regs, .teller, .alm, .dmx] ⊆ l_)
    (h_ : Only l_ s0_ s) : Only l_ s0_ (rdmQueue p s) := by
  unfold rdmQueue
  try dsimp only
  repeat' (first
    | with_reducible exact h_
    | with_reducible exact hl_
    | with_reducible apply insertDescriptor_only
    | with_reducible apply rdmGrant_only
    | with_reducible apply only_ite
    | exact List.Subset.trans (by decide) hl_)

theorem execRdmRequest_only {l_ : List Comp} {s0_ : State} {c : Call} {p : RdmRequest} {s : State} (hl_ : [Comp.regs, .time, .teller, .alm, .dmx] ⊆ l_)
    (h_ : Only l_ s0_ s) : OutOnly l_ s0_ (execRdmRequest c p s) := by
  unfold execRdmRequest
  try dsimp only
  repeat' (first
    | with_reducible exact h_
    | with_reducible exact hl_
    | with_reducible assumption
    | with_reducible refine command_only ?_ ?_ (fun _ _ => ?_)
    | with_reducible apply refuse_only
    | with_reducible apply modDmx_only
    | with_reducible apply rdmQueue_only
    | with_reducible apply OutOnly.ite
    | with_reducible apply only_ite
    | with_reducible apply only_ite_fst
    | with_reducible apply OutOnly.next
    | exact List.Subset.trans (by decide) hl_
    | dsimp only
    | split)

theorem dmxShadow_only {l_ : List Comp} {s0_ : State} {r : Cfg} {s : State} (hl_ : [Comp.regs] ⊆ l_)
    (h_ : Only l_ s0_ s) : Only l_ s0_ (dmxShadow r s) := by
  unfold dmxShadow
  try dsimp only
  repeat' (first
    | with_reducible exact h_
    | with_reducible exact hl_
    | with_reducible assumption
    | with_reducible apply setWords_only
    | with_reducible refine only_foldl ?_ (fun _ _ _ => ?_))

theorem dmxMoved_only {l_ : List Comp} {s0_ : State} {old : Cfg} {s : State} {p : Nat} (hl_ : [Comp.regs, .teller, .pkt] ⊆ l_)
    (h_ : Only l_ s0_ s) : Only l_ s0_ (dmxMoved old s p) := by
  unfold dmxMoved
  try dsimp only
  repeat' (first
    | with_reducible exact h_
    | with_reducible exact hl_
    | with_reducible apply rxSet_only
    | with_reducible apply only_ite
    | exact List.Subset.trans (by decide) hl_)

theorem pktConfigure_only {l_ : List Comp} {s0_ : State} {old : Cfg} {s : State} (hl_ : [Comp.regs, .teller, .mac, .pkt, .dmx] ⊆ l_)
    (h_ : Only l_ s0_ s) : Only l_ s0_ (pktConfigure old s) := by
  unfold pktConfigure
  try dsimp only
  repeat' (first
    | with_reducible exact h_
    | with_reducible exact hl_
    | with_reducible assumption
    | with_reducible apply respondOwed_only
    | with_reducible apply rxReports_only
    | with_reducible apply modPkt_only
    | with_reducible apply modDmx_only
    | with_reducible apply rxSet_only
    | with_reducible apply dmxMoved_only
    | with_reducible refine only_foldl ?_ (fun _ _ _ => ?_)
    | with_reducible apply only_ite
    | with_reducible apply only_ite_fst
    | exact List.Subset.trans (by decide) hl_)

theorem pktStop_only {l_ : List Comp} {s0_ : State} {s : State} (hl_ : [Comp.pool, .dmx] ⊆ l_)
    (h_ : Only l_ s0_ s) : Only l_ s0_ (pktStop s) := by
  unfold pktStop
  try dsimp only
  repeat' (first
    | with_reducible exact h_
    | with_reducible exact hl_
    | exact List.Subset.trans (by decide) hl_
    | fail_if_no_progress ((with_reducible refine only_mk (k := [.pool, .dmx]) ?_ ?_ ?lit); case lit => exact fun c hc => by cases c <;> first | with_reducible rfl | exact absurd (by decide) hc))

end Sys2Proof.Laws
end

