-- ==== Sys2Proof/Laws/OnlyPair.lean ====
section
/-! SUPPORT. Which components of the machine the operations of Machine/Pair.lean may change. -/

namespace Sys2Proof.Laws

open Sys2Proof.Machine Sys2Proof.Safety

theorem modEsc_only {l_ : List Comp} {s0_ : State} {f : Esc → Esc} {s : State} (hl_ : [Comp.esc] ⊆ l_)
    (h_ : Only l_ s0_ s) : Only l_ s0_ (modEsc f s) := by
  unfold modEsc
  try dsimp only
  repeat' (first
    | with_reducible exact h_
    | with_reducible exact hl_
    | with_reducible apply only_ite
    | fail_if_no_progress ((with_reducible refine only_mk (k := [.esc]) ?_ ?_ ?lit); case lit => exact fun c hc => by cases c <;> first | with_reducible rfl | exact absurd (by decide) hc))

theorem modLease_only {l_ : List Comp} {s0_ : State} {g : Nat} {f : Lease → Lease} {s : State} (hl_ : [Comp.esc] ⊆ l_)
    (h_ : Only l_ s0_ s) : Only l_ s0_ (modLease g f s) := by
  unfold modLease
  try dsimp only
  repeat' (first
    | with_reducible exact h_
    | with_reducible exact hl_
    | with_reducible apply modEsc_only)

theorem pathMiss_only {l_ : List Comp} {s0_ : State} {p : Nat} {s : State} (hl_ : [Comp.regs, .teller, .esc] ⊆ l_)
    (h_ : Only l_ s0_ s) : Only l_ s0_ (pathMiss p s) := by
  unfold pathMiss
  try dsimp only
  repeat' (first
    | with_reducible exact h_
    | with_reducible exact hl_
    | with_reducible apply bump_only
    | with_reducible apply setFlag_only
    | with_reducible apply notify_only
    | with_reducible apply modEsc_only
    | with_reducible apply only_ite
    | exact List.Subset.trans (by decide) hl_)

theorem pathGood_only {l_ : List Comp} {s0_ : State} {p : Nat} {s : State} (hl_ : [Comp.regs, .teller, .esc] ⊆ l_)
    (h_ : Only l_ s0_ s) : Only l_ s0_ (pathGood p s) := by
  unfold pathGood
  try dsimp only
  repeat' (first
    | with_reducible exact h_
    | with_reducible exact hl_
    | with_reducible apply setFlag_only
    | with_reducible apply notify_only
    | with_reducible apply modEsc_only
    | with_reducible apply only_ite
    | exact List.Subset.trans (by decide) hl_)

end Sys2Proof.Laws
end

