-- ==== Sys2Proof/Laws/OnlyRadio.lean ====
section
/-! SUPPORT. Which components of the machine the operations of Machine/Radio.lean may change. -/

namespace Sys2Proof.Laws

open Sys2Proof.Machine Sys2Proof.Safety

theorem modRad_only {l_ : List Comp} {s0_ : State} {f : Rad → Rad} {s : State} (hl_ : [Comp.rad] ⊆ l_)
    (h_ : Only l_ s0_ s) : Only l_ s0_ (modRad f s) := by
  unfold modRad
  try dsimp only
  repeat' (first
    | with_reducible exact h_
    | with_reducible exact hl_
    | with_reducible apply only_ite
    | fail_if_no_progress ((with_reducible refine only_mk (k := [.rad]) ?_ ?_ ?lit); case lit => exact fun c hc => by cases c <;> first | with_reducible rfl | exact absurd (by decide) hc))

theorem modXcvr_only {l_ : List Comp} {s0_ : State} {x : Nat} {f : Xcvr → Xcvr} {s : State} (hl_ : [Comp.rad] ⊆ l_)
    (h_ : Only l_ s0_ s) : Only l_ s0_ (modXcvr x f s) := by
  unfold modXcvr
  try dsimp only
  repeat' (first
    | with_reducible exact h_
    | with_reducible exact hl_
    | with_reducible apply modRad_only)

theorem modNode_only {l_ : List Comp} {s0_ : State} {n : Nat} {f : RadioNode → RadioNode} {s : State} (hl_ : [Comp.rad] ⊆ l_)
    (h_ : Only l_ s0_ s) : Only l_ s0_ (modNode n f s) := by
  unfold modNode
  try dsimp only
  repeat' (first
    | with_reducible exact h_
    | with_reducible exact hl_
    | with_reducible apply modRad_only)

theorem radioLimit_only {l_ : List Comp} {s0_ : State} {x : Nat} {kind : Nat} {ch : Nat} {s : State} (hl_ : [Comp.regs, .teller, .rad] ⊆ l_)
    (h_ : Only l_ s0_ s) : Only l_ s0_ (radioLimit x kind ch s) := by
  unfold radioLimit
  try dsimp only
  repeat' (first
    | with_reducible exact h_
    | with_reducible exact hl_
    | with_reducible apply setFlag_only
    | with_reducible apply notify_only
    | with_reducible apply modXcvr_only
    | with_reducible apply only_ite
    | exact List.Subset.trans (by decide) hl_)

theorem radioSend_only {l_ : List Comp} {s0_ : State} {x : Nat} {ch : Nat} {off : Nat} {bytes : Nat} {tx : RadioTx} {s : State} (hl_ : [Comp.regs, .teller, .rad] ⊆ l_)
    (h_ : Only l_ s0_ s) : Only l_ s0_ (radioSend x ch off bytes tx s).1 := by
  unfold radioSend
  try dsimp only
  repeat' (first
    | with_reducible exact h_
    | with_reducible exact hl_
    | with_reducible apply bump_only
    | with_reducible apply modXcvr_only
    | with_reducible apply radioLimit_only
    | exact List.Subset.trans (by decide) hl_
    | dsimp only
    | split)

theorem unitsFollow_only {l_ : List Comp} {s0_ : State} {s : State} (hl_ : [Comp.regs, .teller, .fxm] ⊆ l_)
    (h_ : Only l_ s0_ s) : Only l_ s0_ (unitsFollow s) := by
  unfold unitsFollow
  try dsimp only
  repeat' (first
    | with_reducible exact h_
    | with_reducible exact hl_
    | with_reducible assumption
    | with_reducible apply fixtureHold_only
    | with_reducible refine only_foldl ?_ (fun _ _ _ => ?_)
    | exact List.Subset.trans (by decide) hl_)

theorem nodeMove_only {l_ : List Comp} {s0_ : State} {n : Nat} {st : NodeState} {cause : Nat} {s : State} (hl_ : [Comp.regs, .teller, .rad] ⊆ l_)
    (h_ : Only l_ s0_ s) : Only l_ s0_ (nodeMove n st cause s) := by
  unfold nodeMove
  try dsimp only
  repeat' (first
    | with_reducible exact h_
    | with_reducible exact hl_
    | with_reducible apply setFlag_only
    | with_reducible apply notify_only
    | with_reducible apply modNode_only
    | with_reducible apply only_ite
    | exact List.Subset.trans (by decide) hl_)

theorem missAnswers_only {l_ : List Comp} {s0_ : State} {x : Nat} {s : State} (hl_ : [Comp.regs, .teller, .rad] ⊆ l_)
    (h_ : Only l_ s0_ s) : Only l_ s0_ (missAnswers x s) := by
  unfold missAnswers
  try dsimp only
  repeat' (first
    | with_reducible exact h_
    | with_reducible exact hl_
    | with_reducible assumption
    | with_reducible apply modXcvr_only
    | with_reducible apply modNode_only
    | with_reducible apply nodeMove_only
    | with_reducible refine only_foldl ?_ (fun _ _ _ => ?_)
    | with_reducible apply only_ite
    | exact List.Subset.trans (by decide) hl_)

theorem nodeStale_only {l_ : List Comp} {s0_ : State} {n : Nat} {s : State} (hl_ : [Comp.regs, .teller, .fxm, .rad] ⊆ l_)
    (h_ : Only l_ s0_ s) : Only l_ s0_ (nodeStale n s) := by
  unfold nodeStale
  try dsimp only
  repeat' (first
    | with_reducible exact h_
    | with_reducible exact hl_
    | with_reducible apply unitHold_only
    | with_reducible apply modNode_only
    | with_reducible apply nodeMove_only
    | exact List.Subset.trans (by decide) hl_)

theorem staleNodes_only {l_ : List Comp} {s0_ : State} {x : Nat} {s : State} (hl_ : [Comp.regs, .teller, .fxm, .rad] ⊆ l_)
    (h_ : Only l_ s0_ s) : Only l_ s0_ (staleNodes x s) := by
  unfold staleNodes
  try dsimp only
  repeat' (first
    | with_reducible exact h_
    | with_reducible exact hl_
    | with_reducible assumption
    | with_reducible apply nodeStale_only
    | with_reducible refine only_foldl ?_ (fun _ _ _ => ?_)
    | with_reducible apply only_ite
    | with_reducible apply only_ite_fst
    | exact List.Subset.trans (by decide) hl_)

theorem valuesLate_only {l_ : List Comp} {s0_ : State} {keys : List Nat} {s : State} (hl_ : [Comp.regs, .teller, .pool, .rad] ⊆ l_)
    (h_ : Only l_ s0_ s) : Only l_ s0_ (valuesLate keys s) := by
  unfold valuesLate
  try dsimp only
  repeat' (first
    | with_reducible exact h_
    | with_reducible exact hl_
    | with_reducible assumption
    | with_reducible apply bumpBy_only
    | with_reducible apply zoneLate_only
    | with_reducible apply modRad_only
    | with_reducible refine only_foldl ?_ (fun _ _ _ => ?_)
    | with_reducible apply only_ite
    | with_reducible apply only_ite_fst
    | exact List.Subset.trans (by decide) hl_)

theorem radioRelease_only {l_ : List Comp} {s0_ : State} {z : Nat} {k : Int} {s : State} (hl_ : [Comp.regs, .teller, .pool, .rad] ⊆ l_)
    (h_ : Only l_ s0_ s) : Only l_ s0_ (radioRelease z k s) := by
  unfold radioRelease
  try dsimp only
  repeat' (first
    | with_reducible exact h_
    | with_reducible exact hl_
    | with_reducible assumption
    | with_reducible apply modRad_only
    | with_reducible apply valuesLate_only
    | with_reducible refine only_foldl ?_ (fun _ _ _ => ?_)
    | with_reducible apply only_ite
    | with_reducible apply only_ite_fst
    | exact List.Subset.trans (by decide) hl_
    | dsimp only
    | split)

theorem windowOpen_only {l_ : List Comp} {s0_ : State} {z : Nat} {k : Int} {s : State} (hl_ : [Comp.regs, .teller, .alm, .pool, .lanes, .mac, .pkt, .rad, .esc] ⊆ l_)
    (h_ : Only l_ s0_ s) : Only l_ s0_ (windowOpen z k s) := by
  unfold windowOpen
  try dsimp only
  repeat' (first
    | with_reducible exact h_
    | with_reducible exact hl_
    | with_reducible apply zoneRelease_only
    | with_reducible apply radioRelease_only
    | with_reducible apply only_ite
    | exact List.Subset.trans (by decide) hl_)

theorem windowReady_only {l_ : List Comp} {s0_ : State} {z : Nat} {k : Int} {s : State} (hl_ : [Comp.regs, .teller, .alm, .pool, .lanes, .rad, .esc] ⊆ l_)
    (h_ : Only l_ s0_ s) : Only l_ s0_ (windowReady z k s) := by
  unfold windowReady
  try dsimp only
  repeat' (first
    | with_reducible exact h_
    | with_reducible exact hl_
    | with_reducible apply zoneReady_only
    | with_reducible apply radioRelease_only
    | with_reducible apply only_ite
    | exact List.Subset.trans (by decide) hl_)

theorem valuesSent_only {l_ : List Comp} {s0_ : State} {x : Nat} {keys : List Nat} {s : State} (hl_ : [Comp.rad] ⊆ l_)
    (h_ : Only l_ s0_ s) : Only l_ s0_ (valuesSent x keys s) := by
  unfold valuesSent
  try dsimp only
  repeat' (first
    | with_reducible exact h_
    | with_reducible exact hl_
    | with_reducible apply modRad_only)

theorem cuesSent_only {l_ : List Comp} {s0_ : State} {x : Nat} {ids : List Nat} {s : State} (hl_ : [Comp.regs, .rad] ⊆ l_)
    (h_ : Only l_ s0_ s) : Only l_ s0_ (cuesSent x ids s) := by
  unfold cuesSent
  try dsimp only
  repeat' (first
    | with_reducible exact h_
    | with_reducible exact hl_
    | with_reducible assumption
    | with_reducible apply bumpBy_only
    | with_reducible apply modRad_only
    | with_reducible refine only_foldl ?_ (fun _ _ _ => ?_)
    | exact List.Subset.trans (by decide) hl_)

theorem pieceSent_only {l_ : List Comp} {s0_ : State} {x : Nat} {p : Nat} {s : State} (hl_ : [Comp.regs, .rad] ⊆ l_)
    (h_ : Only l_ s0_ s) : Only l_ s0_ (pieceSent x p s) := by
  unfold pieceSent
  try dsimp only
  repeat' (first
    | with_reducible exact h_
    | with_reducible exact hl_
    | with_reducible apply bump_only
    | with_reducible apply modRad_only
    | with_reducible apply modXcvr_only
    | with_reducible apply only_ite
    | exact List.Subset.trans (by decide) hl_)

theorem relayNotice_only {l_ : List Comp} {s0_ : State} {s : State} (hl_ : [Comp.regs, .teller, .rad] ⊆ l_)
    (h_ : Only l_ s0_ s) : Only l_ s0_ (relayNotice s) := by
  unfold relayNotice
  try dsimp only
  repeat' (first
    | with_reducible exact h_
    | with_reducible exact hl_
    | with_reducible apply setFlag_only
    | with_reducible apply notify_only
    | with_reducible apply modRad_only
    | with_reducible apply only_ite
    | exact List.Subset.trans (by decide) hl_
    | dsimp only
    | split)

theorem jobSent_only {l_ : List Comp} {s0_ : State} {x : Nat} {j : RadioJob} {s : State} (hl_ : [Comp.regs, .rad] ⊆ l_)
    (h_ : Only l_ s0_ s) : Only l_ s0_ (jobSent x j s) := by
  unfold jobSent
  try dsimp only
  repeat' (first
    | with_reducible exact h_
    | with_reducible exact hl_
    | with_reducible apply modNode_only
    | with_reducible apply valuesSent_only
    | with_reducible apply cuesSent_only
    | with_reducible apply pieceSent_only
    | with_reducible apply only_ite
    | exact List.Subset.trans (by decide) hl_
    | dsimp only
    | split)

theorem sendJobs_only {l_ : List Comp} {s0_ : State} {x ch : Nat} {at_ : Int} {off : Nat} {l : List RadioJob} {s : State} (hl_ : [Comp.regs, .teller, .pool, .rad] ⊆ l_) (h_ : Only l_ s0_ s) :
    Only l_ s0_ (sendJobs x ch at_ off l s) := by
  induction l generalizing off s with
  | nil => exact h_
  | cons j r ih =>
    unfold sendJobs
    dsimp only
    repeat' (first
      | with_reducible assumption
      | with_reducible apply ih
      | with_reducible apply jobSent_only
      | with_reducible apply valuesLate_only
      | with_reducible apply radioSend_only
      | with_reducible apply only_ite
      | split
      | exact List.Subset.trans (by decide) hl_)

theorem sendBeacon_only {l_ : List Comp} {s0_ : State} {x : Nat} {ch : Nat} {at_ : Int} {off : Nat} {s : State} (hl_ : [Comp.regs, .teller, .rad] ⊆ l_)
    (h_ : Only l_ s0_ s) : Only l_ s0_ (sendBeacon x ch at_ off s) := by
  unfold sendBeacon
  try dsimp only
  repeat' (first
    | with_reducible exact h_
    | with_reducible exact hl_
    | with_reducible apply bump_only
    | with_reducible apply radioSend_only
    | with_reducible apply only_ite
    | exact List.Subset.trans (by decide) hl_)

theorem sendPoll_only {l_ : List Comp} {s0_ : State} {x : Nat} {ch : Nat} {off : Nat} {s : State} (hl_ : [Comp.regs, .teller, .rad] ⊆ l_)
    (h_ : Only l_ s0_ s) : Only l_ s0_ (sendPoll x ch off s) := by
  unfold sendPoll
  try dsimp only
  repeat' (first
    | with_reducible exact h_
    | with_reducible exact hl_
    | with_reducible apply bump_only
    | with_reducible apply modXcvr_only
    | with_reducible apply radioSend_only
    | with_reducible apply only_ite
    | exact List.Subset.trans (by decide) hl_)

theorem coordinate_only {l_ : List Comp} {s0_ : State} {x : Nat} {n : Int} {busy : Bool} {r : Nat} {s : State} (hl_ : [Comp.regs, .teller, .pool, .rad] ⊆ l_)
    (h_ : Only l_ s0_ s) : Only l_ s0_ (coordinate x n busy r s) := by
  unfold coordinate
  try dsimp only
  repeat' (first
    | with_reducible exact h_
    | with_reducible exact hl_
    | with_reducible apply bump_only
    | with_reducible apply modXcvr_only
    | with_reducible apply radioLimit_only
    | with_reducible apply sendJobs_only
    | with_reducible apply sendBeacon_only
    | with_reducible apply sendPoll_only
    | with_reducible apply only_ite
    | exact List.Subset.trans (by decide) hl_
    | dsimp only
    | split)

theorem listenBeacon_only {l_ : List Comp} {s0_ : State} {x : Nat} {n : Int} {first : Bool} {s : State} (hl_ : [Comp.regs, .teller, .rad, .esc] ⊆ l_)
    (h_ : Only l_ s0_ s) : Only l_ s0_ (listenBeacon x n first s) := by
  unfold listenBeacon
  try dsimp only
  repeat' (first
    | with_reducible exact h_
    | with_reducible exact hl_
    | with_reducible apply pathMiss_only
    | with_reducible apply modXcvr_only
    | with_reducible apply only_ite
    | exact List.Subset.trans (by decide) hl_)

theorem radioSlot_only {l_ : List Comp} {s0_ : State} {x : Nat} {busy : Bool} {r : Nat} {sIn : State} (hl_ : [Comp.regs, .teller, .fxm, .pool, .rad, .esc] ⊆ l_)
    (h_ : Only l_ s0_ sIn) : Only l_ s0_ (radioSlot x busy r sIn) := by
  unfold radioSlot
  try dsimp only
  repeat' (first
    | with_reducible exact h_
    | with_reducible exact hl_
    | with_reducible apply modXcvr_only
    | with_reducible apply missAnswers_only
    | with_reducible apply staleNodes_only
    | with_reducible apply coordinate_only
    | with_reducible apply listenBeacon_only
    | with_reducible apply only_ite
    | exact List.Subset.trans (by decide) hl_
    | dsimp only
    | split)

theorem dropValues_only {l_ : List Comp} {s0_ : State} {x : Nat} {s : State} (hl_ : [Comp.regs, .teller, .pool, .rad] ⊆ l_)
    (h_ : Only l_ s0_ s) : Only l_ s0_ (dropValues x s) := by
  unfold dropValues
  try dsimp only
  repeat' (first
    | with_reducible exact h_
    | with_reducible exact hl_
    | with_reducible apply modRad_only
    | with_reducible apply valuesLate_only
    | with_reducible apply only_ite
    | with_reducible apply only_ite_fst
    | exact List.Subset.trans (by decide) hl_)

theorem nextRadioSlot_only {l_ : List Comp} {s0_ : State} {x : Nat} {s : State} (hl_ : [Comp.regs, .teller, .alm, .fxm, .pool, .rad, .esc] ⊆ l_)
    (h_ : Only l_ s0_ s) : Only l_ s0_ (nextRadioSlot x s) := by
  unfold nextRadioSlot
  try dsimp only
  repeat' (first
    | with_reducible exact h_
    | with_reducible exact hl_
    | with_reducible apply insertLaunch_only
    | with_reducible apply radioSlot_only
    | with_reducible apply dropValues_only
    | with_reducible apply only_ite
    | exact List.Subset.trans (by decide) hl_)

theorem radioSlots_only {l_ : List Comp} {s0_ : State} {s : State} (hl_ : [Comp.regs, .teller, .alm, .fxm, .pool, .rad, .esc] ⊆ l_)
    (h_ : Only l_ s0_ s) : Only l_ s0_ (radioSlots s) := by
  unfold radioSlots
  try dsimp only
  repeat' (first
    | with_reducible exact h_
    | with_reducible exact hl_
    | with_reducible apply nextRadioSlot_only
    | exact List.Subset.trans (by decide) hl_)

theorem execRadioSlotStart_only {l_ : List Comp} {s0_ : State} {t : Nat} {xcvr : Fin 2} {busy : Bool} {r : Nat} {s : State} (hl_ : [Comp.regs, .time, .teller, .alm, .fxm, .pool, .rad, .esc] ⊆ l_)
    (h_ : Only l_ s0_ s) : OutOnly l_ s0_ (execRadioSlotStart t xcvr busy r s) := by
  unfold execRadioSlotStart
  try dsimp only
  repeat' (first
    | with_reducible exact h_
    | with_reducible exact hl_
    | with_reducible apply advance_only
    | with_reducible apply radioSlot_only
    | with_reducible apply nextRadioSlot_only
    | with_reducible apply OutOnly.ite
    | with_reducible apply only_ite
    | with_reducible apply OutOnly.next
    | exact List.Subset.trans (by decide) hl_)

theorem answerAfter_only {l_ : List Comp} {s0_ : State} {x : Nat} {st : Int} {b : Nat} {bytes : Nat} {tx : RadioTx} {s : State} (hl_ : [Comp.regs, .teller, .rad] ⊆ l_)
    (h_ : Only l_ s0_ s) : Only l_ s0_ (answerAfter x st b bytes tx s) := by
  unfold answerAfter
  try dsimp only
  repeat' (first
    | with_reducible exact h_
    | with_reducible exact hl_
    | with_reducible apply radioSend_only
    | with_reducible apply only_ite
    | with_reducible apply only_ite_fst
    | exact List.Subset.trans (by decide) hl_)

theorem relayAnswer_only {l_ : List Comp} {s0_ : State} {n : Nat} {first : Nat} {window : Nat} {held : Nat} {s : State} (hl_ : [Comp.regs, .teller, .rad] ⊆ l_)
    (h_ : Only l_ s0_ s) : Only l_ s0_ (relayAnswer n first window held s) := by
  unfold relayAnswer
  try dsimp only
  repeat' (first
    | with_reducible exact h_
    | with_reducible exact hl_
    | with_reducible apply modRad_only
    | with_reducible apply relayNotice_only
    | with_reducible apply only_ite
    | exact List.Subset.trans (by decide) hl_
    | dsimp only
    | split)

theorem nodeReport_only {l_ : List Comp} {s0_ : State} {n : Nat} {epoch : Nat} {s : State} (hl_ : [Comp.regs, .teller, .fxm, .rad] ⊆ l_)
    (h_ : Only l_ s0_ s) : Only l_ s0_ (nodeReport n epoch s) := by
  unfold nodeReport
  try dsimp only
  repeat' (first
    | with_reducible exact h_
    | with_reducible exact hl_
    | with_reducible apply unitReport_only
    | with_reducible apply modNode_only
    | with_reducible apply only_ite
    | exact List.Subset.trans (by decide) hl_)

theorem nodeResponse_only {l_ : List Comp} {s0_ : State} {x : Nat} {f : RadioRx} {s : State} (hl_ : [Comp.regs, .teller, .fxm, .rad] ⊆ l_)
    (h_ : Only l_ s0_ s) : Only l_ s0_ (nodeResponse x f s) := by
  unfold nodeResponse
  try dsimp only
  repeat' (first
    | with_reducible exact h_
    | with_reducible exact hl_
    | with_reducible apply unitHold_only
    | with_reducible apply modXcvr_only
    | with_reducible apply modNode_only
    | with_reducible apply nodeMove_only
    | with_reducible apply nodeStale_only
    | with_reducible apply answerAfter_only
    | with_reducible apply relayAnswer_only
    | with_reducible apply only_ite
    | exact List.Subset.trans (by decide) hl_)

theorem nodeConfigAck_only {l_ : List Comp} {s0_ : State} {x : Nat} {f : RadioRx} {n : Nat} {epoch : Nat} {s : State} (hl_ : [Comp.regs, .teller, .fxm, .rad] ⊆ l_)
    (h_ : Only l_ s0_ s) : Only l_ s0_ (nodeConfigAck x f n epoch s) := by
  unfold nodeConfigAck
  try dsimp only
  repeat' (first
    | with_reducible exact h_
    | with_reducible exact hl_
    | with_reducible apply modXcvr_only
    | with_reducible apply modNode_only
    | with_reducible apply nodeMove_only
    | with_reducible apply nodeReport_only
    | with_reducible apply only_ite
    | exact List.Subset.trans (by decide) hl_)

theorem nodeJoin_only {l_ : List Comp} {s0_ : State} {x : Nat} {f : RadioRx} {eui : Nat} {epoch : Nat} {s : State} (hl_ : [Comp.regs, .teller, .fxm, .rad] ⊆ l_)
    (h_ : Only l_ s0_ s) : Only l_ s0_ (nodeJoin x f eui epoch s) := by
  unfold nodeJoin
  try dsimp only
  repeat' (first
    | with_reducible exact h_
    | with_reducible exact hl_
    | with_reducible apply bump_only
    | with_reducible apply setFlag_only
    | with_reducible apply notify_only
    | with_reducible apply modRad_only
    | with_reducible apply modNode_only
    | with_reducible apply nodeMove_only
    | with_reducible apply answerAfter_only
    | with_reducible apply nodeReport_only
    | with_reducible apply only_ite
    | with_reducible apply only_ite_fst
    | exact List.Subset.trans (by decide) hl_
    | dsimp only
    | split)

theorem radioFrame_only {l_ : List Comp} {s0_ : State} {x : Nat} {f : RadioRx} {s : State} (hl_ : [Comp.regs, .teller, .fxm, .rad, .esc] ⊆ l_)
    (h_ : Only l_ s0_ s) : Only l_ s0_ (radioFrame x f s) := by
  unfold radioFrame
  try dsimp only
  repeat' (first
    | with_reducible exact h_
    | with_reducible exact hl_
    | with_reducible apply pathGood_only
    | with_reducible apply modXcvr_only
    | with_reducible apply nodeResponse_only
    | with_reducible apply nodeConfigAck_only
    | with_reducible apply nodeJoin_only
    | with_reducible apply only_ite
    | exact List.Subset.trans (by decide) hl_
    | dsimp only
    | split)

theorem radioReceive_only {l_ : List Comp} {s0_ : State} {x : Nat} {f : RadioRx} {s : State} (hl_ : [Comp.regs, .teller, .fifos, .fxm, .rad, .esc] ⊆ l_)
    (h_ : Only l_ s0_ s) : Only l_ s0_ (radioReceive x f s) := by
  unfold radioReceive
  try dsimp only
  repeat' (first
    | with_reducible exact h_
    | with_reducible exact hl_
    | with_reducible apply bump_only
    | with_reducible apply intake_only
    | with_reducible apply radioFrame_only
    | with_reducible apply only_ite
    | exact List.Subset.trans (by decide) hl_)

theorem execRadioFrameReceived_only {l_ : List Comp} {s0_ : State} {t : Nat} {xcvr : Fin 2} {f : RadioRx} {s : State} (hl_ : [Comp.regs, .time, .teller, .fifos, .fxm, .rad, .esc] ⊆ l_)
    (h_ : Only l_ s0_ s) : OutOnly l_ s0_ (execRadioFrameReceived t xcvr f s) := by
  unfold execRadioFrameReceived
  try dsimp only
  repeat' (first
    | with_reducible exact h_
    | with_reducible exact hl_
    | with_reducible apply advance_only
    | with_reducible apply radioReceive_only
    | with_reducible apply OutOnly.ite
    | with_reducible apply only_ite
    | with_reducible apply OutOnly.next
    | exact List.Subset.trans (by decide) hl_)

theorem execRadioFwProgressTimer_only {l_ : List Comp} {s0_ : State} {t : Nat} {s : State} (hl_ : [Comp.regs, .time, .teller, .rad] ⊆ l_)
    (h_ : Only l_ s0_ s) : OutOnly l_ s0_ (execRadioFwProgressTimer t s) := by
  unfold execRadioFwProgressTimer
  try dsimp only
  repeat' (first
    | with_reducible exact h_
    | with_reducible exact hl_
    | with_reducible apply advance_only
    | with_reducible apply relayNotice_only
    | with_reducible apply OutOnly.ite
    | with_reducible apply only_ite
    | with_reducible apply OutOnly.next
    | exact List.Subset.trans (by decide) hl_
    | dsimp only
    | split)

theorem execRadioSet_only {l_ : List Comp} {s0_ : State} {c : Call} {p : RadioSet} {s : State} (hl_ : [Comp.regs, .time, .teller] ⊆ l_)
    (h_ : Only l_ s0_ s) : OutOnly l_ s0_ (execRadioSet c p s) := by
  unfold execRadioSet
  try dsimp only
  repeat' (first
    | with_reducible exact h_
    | with_reducible exact hl_
    | with_reducible apply configMessage_only)

theorem execRadioNodeSet_only {l_ : List Comp} {s0_ : State} {c : Call} {p : RadioNodeSet} {s : State} (hl_ : [Comp.regs, .time, .teller] ⊆ l_)
    (h_ : Only l_ s0_ s) : OutOnly l_ s0_ (execRadioNodeSet c p s) := by
  unfold execRadioNodeSet
  try dsimp only
  repeat' (first
    | with_reducible exact h_
    | with_reducible exact hl_
    | with_reducible apply configMessage_only)

theorem radioShadow_only {l_ : List Comp} {s0_ : State} {x : Nat} {p : RadioSet} {s : State} (hl_ : [Comp.regs] ⊆ l_)
    (h_ : Only l_ s0_ s) : Only l_ s0_ (radioShadow x p s) := by
  unfold radioShadow
  try dsimp only
  repeat' (first
    | with_reducible exact h_
    | with_reducible exact hl_
    | with_reducible apply setReg_only)

theorem radConfigure_only {l_ : List Comp} {s0_ : State} {old : Cfg} {s : State} (hl_ : [Comp.regs, .teller, .fxm, .rad] ⊆ l_)
    (h_ : Only l_ s0_ s) : Only l_ s0_ (radConfigure old s) := by
  unfold radConfigure
  try dsimp only
  repeat' (first
    | with_reducible exact h_
    | with_reducible exact hl_
    | with_reducible assumption
    | with_reducible apply unitHold_only
    | with_reducible apply modRad_only
    | with_reducible apply modXcvr_only
    | with_reducible apply nodeMove_only
    | with_reducible apply radioShadow_only
    | with_reducible refine only_foldl ?_ (fun _ _ _ => ?_)
    | with_reducible apply only_ite
    | with_reducible apply only_ite_fst
    | exact List.Subset.trans (by decide) hl_)

theorem radStop_only {l_ : List Comp} {s0_ : State} {s : State} (hl_ : [Comp.rad] ⊆ l_)
    (h_ : Only l_ s0_ s) : Only l_ s0_ (radStop s) := by
  unfold radStop
  try dsimp only
  repeat' (first
    | with_reducible exact h_
    | with_reducible exact hl_
    | with_reducible apply modRad_only
    | exact List.Subset.trans (by decide) hl_)

theorem execRadioGlobalSet_only {l_ : List Comp} {s0_ : State} {c : Call} {p : RadioGlobalSet} {s : State} (hl_ : [Comp.regs, .time, .teller] ⊆ l_)
    (h_ : Only l_ s0_ s) : OutOnly l_ s0_ (execRadioGlobalSet c p s) := by
  unfold execRadioGlobalSet
  try dsimp only
  repeat' (first
    | with_reducible exact h_
    | with_reducible exact hl_
    | with_reducible assumption
    | with_reducible apply setReg_only
    | with_reducible apply setField_only
    | with_reducible refine command_only ?_ ?_ (fun _ _ => ?_)
    | with_reducible apply refuse_only
    | with_reducible apply accept_only
    | with_reducible apply OutOnly.ite
    | with_reducible apply only_ite
    | with_reducible apply OutOnly.next
    | exact List.Subset.trans (by decide) hl_
    | dsimp only
    | split)

theorem execRadioStatusGet_only {l_ : List Comp} {s0_ : State} {c : Call} {xcvr : Nat} {s : State} (hl_ : [Comp.regs, .time, .teller] ⊆ l_)
    (h_ : Only l_ s0_ s) : OutOnly l_ s0_ (execRadioStatusGet c xcvr s) := by
  unfold execRadioStatusGet
  try dsimp only
  repeat' (first
    | with_reducible exact h_
    | with_reducible exact hl_
    | with_reducible assumption
    | with_reducible refine command_only ?_ ?_ (fun _ _ => ?_)
    | with_reducible apply refuse_only
    | with_reducible apply answer_only
    | with_reducible apply OutOnly.ite
    | with_reducible apply only_ite
    | with_reducible apply only_ite_fst
    | with_reducible apply OutOnly.next
    | exact List.Subset.trans (by decide) hl_
    | dsimp only
    | split)

theorem execRadioNodeGet_only {l_ : List Comp} {s0_ : State} {c : Call} {first : Nat} {count : Nat} {s : State} (hl_ : [Comp.regs, .time, .teller] ⊆ l_)
    (h_ : Only l_ s0_ s) : OutOnly l_ s0_ (execRadioNodeGet c first count s) := by
  unfold execRadioNodeGet
  try dsimp only
  repeat' (first
    | with_reducible exact h_
    | with_reducible exact hl_
    | with_reducible assumption
    | with_reducible refine command_only ?_ ?_ (fun _ _ => ?_)
    | with_reducible apply refuse_only
    | with_reducible apply answer_only
    | with_reducible apply OutOnly.ite
    | with_reducible apply only_ite
    | with_reducible apply OutOnly.next
    | exact List.Subset.trans (by decide) hl_
    | dsimp only
    | split)

theorem execRadioFwLoad_only {l_ : List Comp} {s0_ : State} {c : Call} {p : RadioFwLoad} {s : State} (hl_ : [Comp.regs, .time, .teller, .rad] ⊆ l_)
    (h_ : Only l_ s0_ s) : OutOnly l_ s0_ (execRadioFwLoad c p s) := by
  unfold execRadioFwLoad
  try dsimp only
  repeat' (first
    | with_reducible exact h_
    | with_reducible exact hl_
    | with_reducible assumption
    | with_reducible refine command_only ?_ ?_ (fun _ _ => ?_)
    | with_reducible apply refuse_only
    | with_reducible apply accept_only
    | with_reducible apply modRad_only
    | with_reducible apply OutOnly.ite
    | with_reducible apply only_ite
    | with_reducible apply OutOnly.next
    | exact List.Subset.trans (by decide) hl_
    | dsimp only
    | split)

theorem execRadioFwStart_only {l_ : List Comp} {s0_ : State} {c : Call} {p : RadioFwStart} {s : State} (hl_ : [Comp.regs, .time, .teller, .rad] ⊆ l_)
    (h_ : Only l_ s0_ s) : OutOnly l_ s0_ (execRadioFwStart c p s) := by
  unfold execRadioFwStart
  try dsimp only
  repeat' (first
    | with_reducible exact h_
    | with_reducible exact hl_
    | with_reducible assumption
    | with_reducible refine command_only ?_ ?_ (fun _ _ => ?_)
    | with_reducible apply refuse_only
    | with_reducible apply accept_only
    | with_reducible apply modRad_only
    | with_reducible apply OutOnly.ite
    | with_reducible apply only_ite
    | with_reducible apply OutOnly.next
    | exact List.Subset.trans (by decide) hl_
    | dsimp only
    | split)

end Sys2Proof.Laws
end

