-- ==== Sys2Proof/Laws/OnlyMapper.lean ====
section
/-! SUPPORT. Which components of the machine the operations of Machine/Mapper.lean may change. -/

namespace Sys2Proof.Laws

open Sys2Proof.Machine Sys2Proof.Safety

theorem modMap_only {l_ : List Comp} {s0_ : State} {f : Mapper → Mapper} {s : State} (hl_ : [Comp.map] ⊆ l_)
    (h_ : Only l_ s0_ s) : Only l_ s0_ (modMap f s) := by
  unfold modMap
  try dsimp only
  repeat' (first
    | with_reducible exact h_
    | with_reducible exact hl_
    | with_reducible apply only_ite
    | fail_if_no_progress ((with_reducible refine only_mk (k := [.map]) ?_ ?_ ?lit); case lit => exact fun c hc => by cases c <;> first | with_reducible rfl | exact absurd (by decide) hc))

theorem modMapEngine_only {l_ : List Comp} {s0_ : State} {e : Nat} {f : Engine → Engine} {s : State} (hl_ : [Comp.map] ⊆ l_)
    (h_ : Only l_ s0_ s) : Only l_ s0_ (modMapEngine e f s) := by
  unfold modMapEngine
  try dsimp only
  repeat' (first
    | with_reducible exact h_
    | with_reducible exact hl_
    | with_reducible apply modMap_only)

theorem mapFlag_only {l_ : List Comp} {s0_ : State} {bit : Nat} {s : State} (hl_ : [Comp.regs] ⊆ l_)
    (h_ : Only l_ s0_ s) : Only l_ s0_ (mapFlag bit s) := by
  unfold mapFlag
  try dsimp only
  repeat' (first
    | with_reducible exact h_
    | with_reducible exact hl_
    | with_reducible apply setFlag_only)

theorem poolAgain_only {l_ : List Comp} {s0_ : State} {k : Int} {fx : Nat} {values : SMap (SMap Nat)} {again : SMap (SMap Unit)} {s : State} (hl_ : [Comp.pool] ⊆ l_)
    (h_ : Only l_ s0_ s) : Only l_ s0_ (poolAgain k fx values again s) := by
  unfold poolAgain
  try dsimp only
  repeat' (first
    | with_reducible exact h_
    | with_reducible exact hl_
    | with_reducible apply modPool_only
    | with_reducible apply only_ite
    | exact List.Subset.trans (by decide) hl_)

theorem modFrame_only {l_ : List Comp} {s0_ : State} {f : MapFrame → MapFrame} {s : State} (hl_ : [Comp.map] ⊆ l_)
    (h_ : Only l_ s0_ s) : Only l_ s0_ (modFrame f s) := by
  unfold modFrame
  try dsimp only
  repeat' (first
    | with_reducible exact h_
    | with_reducible exact hl_
    | with_reducible apply modMap_only)

theorem repeatTile_only {l_ : List Comp} {s0_ : State} {ps : List TilePart} {s : State} (hl_ : [Comp.pool, .map] ⊆ l_)
    (h_ : Only l_ s0_ s) : Only l_ s0_ (repeatTile ps s) := by
  unfold repeatTile
  try dsimp only
  repeat' (first
    | with_reducible exact h_
    | with_reducible exact hl_
    | with_reducible assumption
    | with_reducible apply poolAgain_only
    | with_reducible apply modFrame_only
    | with_reducible refine only_foldl ?_ (fun _ _ _ => ?_)
    | exact List.Subset.trans (by decide) hl_
    | dsimp only
    | split)

theorem segmentRead_only {l_ : List Comp} {s0_ : State} {s : State} {e : Nat × Nat} (hl_ : [Comp.regs, .fxm] ⊆ l_)
    (h_ : Only l_ s0_ s) : Only l_ s0_ (segmentRead s e) := by
  unfold segmentRead
  try dsimp only
  repeat' (first
    | with_reducible exact h_
    | with_reducible exact hl_
    | with_reducible apply bump_only
    | with_reducible apply modFxm_only
    | with_reducible apply only_ite
    | with_reducible apply only_ite_fst
    | exact List.Subset.trans (by decide) hl_)

theorem segmentReads_only {l_ : List Comp} {s0_ : State} {r : Cfg} {t : Tile} {s : State} (hl_ : [Comp.regs, .fxm] ⊆ l_)
    (h_ : Only l_ s0_ s) : Only l_ s0_ (segmentReads r t s) := by
  unfold segmentReads
  try dsimp only
  repeat' (first
    | with_reducible exact h_
    | with_reducible exact hl_
    | with_reducible assumption
    | with_reducible apply segmentRead_only
    | with_reducible refine only_foldl ?_ (fun _ _ _ => ?_)
    | exact List.Subset.trans (by decide) hl_)

theorem repeatSegment_only {l_ : List Comp} {s0_ : State} {fx : Nat} {n : Nat} {s : State} (hl_ : [Comp.protect, .pool, .map] ⊆ l_)
    (h_ : Only l_ s0_ s) : Only l_ s0_ (repeatSegment fx n s) := by
  unfold repeatSegment
  try dsimp only
  repeat' (first
    | with_reducible exact h_
    | with_reducible exact hl_
    | with_reducible apply modProtect_only
    | with_reducible apply poolAgain_only
    | with_reducible apply modFrame_only
    | exact List.Subset.trans (by decide) hl_
    | dsimp only
    | split)

theorem zonePush_only {l_ : List Comp} {s0_ : State} {z : Nat} {s : State} (hl_ : [Comp.regs, .teller, .alm, .pool, .lanes, .rad, .esc] ⊆ l_)
    (h_ : Only l_ s0_ s) : Only l_ s0_ (zonePush z s) := by
  unfold zonePush
  try dsimp only
  repeat' (first
    | with_reducible exact h_
    | with_reducible exact hl_
    | with_reducible apply modPool_only
    | with_reducible apply windowReady_only
    | with_reducible apply only_ite
    | with_reducible apply only_ite_fst
    | exact List.Subset.trans (by decide) hl_
    | dsimp only
    | split)

theorem frameClose_only {l_ : List Comp} {s0_ : State} {s : State} (hl_ : [Comp.pho, .map] ⊆ l_)
    (h_ : Only l_ s0_ s) : Only l_ s0_ (frameClose s) := by
  unfold frameClose
  try dsimp only
  repeat' (first
    | with_reducible exact h_
    | with_reducible exact hl_
    | with_reducible apply phoEnd_only
    | with_reducible apply modMap_only
    | with_reducible apply only_ite
    | exact List.Subset.trans (by decide) hl_
    | dsimp only
    | split)

theorem frameDone_only {l_ : List Comp} {s0_ : State} {s : State} (hl_ : [Comp.pho, .map] ⊆ l_)
    (h_ : Only l_ s0_ s) : Only l_ s0_ (frameDone s) := by
  unfold frameDone
  try dsimp only
  repeat' (first
    | with_reducible exact h_
    | with_reducible exact hl_
    | with_reducible apply frameClose_only
    | with_reducible apply only_ite
    | exact List.Subset.trans (by decide) hl_
    | dsimp only
    | split)

theorem tileEnd_only {l_ : List Comp} {s0_ : State} {n : Nat} {r : TileRec} {s : State} (hl_ : [Comp.regs, .teller, .alm, .pho, .pool, .lanes, .rad, .esc, .map] ⊆ l_)
    (h_ : Only l_ s0_ s) : Only l_ s0_ (tileEnd n r s) := by
  unfold tileEnd
  try dsimp only
  repeat' (first
    | with_reducible exact h_
    | with_reducible exact hl_
    | with_reducible apply modFrame_only
    | with_reducible apply zonePush_only
    | with_reducible apply frameDone_only
    | with_reducible apply only_ite
    | exact List.Subset.trans (by decide) hl_
    | dsimp only
    | split)

theorem trapNotice_only {l_ : List Comp} {s0_ : State} {key : Nat} {engine : Nat} {fx : Nat} {cause : Nat} {k : Int} {disabled : Bool} {s : State} (hl_ : [Comp.regs, .teller, .map] ⊆ l_)
    (h_ : Only l_ s0_ s) : Only l_ s0_ (trapNotice key engine fx cause k disabled s) := by
  unfold trapNotice
  try dsimp only
  repeat' (first
    | with_reducible exact h_
    | with_reducible exact hl_
    | with_reducible apply notify_only
    | with_reducible apply modMap_only
    | with_reducible apply only_ite
    | exact List.Subset.trans (by decide) hl_
    | dsimp only
    | split)

theorem trapCount_only {l_ : List Comp} {s0_ : State} {key : Nat} {engine : Nat} {fx : Nat} {cause : Nat} {k : Int} {s : State} (hl_ : [Comp.regs, .teller, .map] ⊆ l_)
    (h_ : Only l_ s0_ s) : Only l_ s0_ (trapCount key engine fx cause k s) := by
  unfold trapCount
  try dsimp only
  repeat' (first
    | with_reducible exact h_
    | with_reducible exact hl_
    | with_reducible apply modMap_only
    | with_reducible apply trapNotice_only
    | with_reducible apply only_ite
    | exact List.Subset.trans (by decide) hl_
    | dsimp only
    | split)

theorem tileTrap_only {l_ : List Comp} {s0_ : State} {e : Nat} {n : Nat} {s : State} (hl_ : [Comp.regs, .teller, .alm, .pho, .pool, .lanes, .rad, .esc, .map] ⊆ l_)
    (h_ : Only l_ s0_ s) : Only l_ s0_ (tileTrap e n s) := by
  unfold tileTrap
  try dsimp only
  repeat' (first
    | with_reducible exact h_
    | with_reducible exact hl_
    | with_reducible apply modMapEngine_only
    | with_reducible apply repeatTile_only
    | with_reducible apply tileEnd_only
    | with_reducible apply only_ite
    | exact List.Subset.trans (by decide) hl_
    | dsimp only
    | split)

theorem tileClaim_only {l_ : List Comp} {s0_ : State} {e : Nat} {s : State} (hl_ : [Comp.regs, .teller, .alm, .pho, .pool, .lanes, .rad, .esc, .map] ⊆ l_)
    (h_ : Only l_ s0_ s) : Only l_ s0_ (tileClaim e s) := by
  unfold tileClaim
  try dsimp only
  repeat' (first
    | with_reducible exact h_
    | with_reducible exact hl_
    | with_reducible apply modMapEngine_only
    | with_reducible apply modFrame_only
    | with_reducible apply tileTrap_only
    | with_reducible apply only_ite
    | exact List.Subset.trans (by decide) hl_
    | dsimp only
    | split)

theorem execTileClaim_only {l_ : List Comp} {s0_ : State} {t : Nat} {engine : Fin 16} {s : State} (hl_ : [Comp.regs, .time, .teller, .alm, .pho, .pool, .lanes, .rad, .esc, .map] ⊆ l_)
    (h_ : Only l_ s0_ s) : OutOnly l_ s0_ (execTileClaim t engine s) := by
  unfold execTileClaim
  try dsimp only
  repeat' (first
    | with_reducible exact h_
    | with_reducible exact hl_
    | with_reducible apply advance_only
    | with_reducible apply tileClaim_only
    | with_reducible apply OutOnly.ite
    | with_reducible apply only_ite
    | with_reducible apply OutOnly.next
    | exact List.Subset.trans (by decide) hl_)

theorem waitsEnd_only {l_ : List Comp} {s0_ : State} {s : State} (hl_ : [Comp.regs, .map] ⊆ l_)
    (h_ : Only l_ s0_ s) : Only l_ s0_ (waitsEnd s) := by
  unfold waitsEnd
  try dsimp only
  repeat' (first
    | with_reducible exact h_
    | with_reducible exact hl_
    | with_reducible assumption
    | with_reducible apply bumpBy_only
    | with_reducible apply modMapEngine_only
    | with_reducible refine only_foldl ?_ (fun _ _ _ => ?_)
    | exact List.Subset.trans (by decide) hl_
    | dsimp only
    | split)

theorem tileSample_only {l_ : List Comp} {s0_ : State} {e : Nat} {trap : Option TrapFound} {s : State} (hl_ : [Comp.regs, .teller, .alm, .fxm, .pho, .pool, .lanes, .rad, .esc, .map] ⊆ l_)
    (h_ : Only l_ s0_ s) : Only l_ s0_ (tileSample e trap s) := by
  unfold tileSample
  try dsimp only
  repeat' (first
    | with_reducible exact h_
    | with_reducible exact hl_
    | with_reducible apply bumpBy_only
    | with_reducible apply bump_only
    | with_reducible apply modMapEngine_only
    | with_reducible apply mapFlag_only
    | with_reducible apply segmentReads_only
    | with_reducible apply trapCount_only
    | with_reducible apply tileTrap_only
    | with_reducible apply only_ite
    | exact List.Subset.trans (by decide) hl_
    | dsimp only
    | split)

theorem execTileSampleStart_only {l_ : List Comp} {s0_ : State} {t : Nat} {engine : Fin 16} {trap : Option TrapFound} {s : State} (hl_ : [Comp.regs, .time, .teller, .alm, .fxm, .pho, .pool, .lanes, .rad, .esc, .map] ⊆ l_)
    (h_ : Only l_ s0_ s) : OutOnly l_ s0_ (execTileSampleStart t engine trap s) := by
  unfold execTileSampleStart
  try dsimp only
  repeat' (first
    | with_reducible exact h_
    | with_reducible exact hl_
    | with_reducible apply advance_only
    | with_reducible apply tileSample_only
    | with_reducible apply OutOnly.ite
    | with_reducible apply only_ite
    | with_reducible apply OutOnly.next
    | exact List.Subset.trans (by decide) hl_)

theorem tileComplete_only {l_ : List Comp} {s0_ : State} {e : Nat} {s : State} (hl_ : [Comp.regs, .teller, .alm, .pho, .pool, .lanes, .rad, .esc, .map] ⊆ l_)
    (h_ : Only l_ s0_ s) : Only l_ s0_ (tileComplete e s) := by
  unfold tileComplete
  try dsimp only
  repeat' (first
    | with_reducible exact h_
    | with_reducible exact hl_
    | with_reducible apply bump_only
    | with_reducible apply countPho_only
    | with_reducible apply modMap_only
    | with_reducible apply modMapEngine_only
    | with_reducible apply modFrame_only
    | with_reducible apply tileEnd_only
    | with_reducible apply only_ite
    | exact List.Subset.trans (by decide) hl_
    | dsimp only
    | split)

theorem mapDeadline_only {l_ : List Comp} {s0_ : State} {s : State} (hl_ : [Comp.regs, .teller, .alm, .pho, .pool, .lanes, .rad, .esc, .map] ⊆ l_)
    (h_ : Only l_ s0_ s) : Only l_ s0_ (mapDeadline s) := by
  unfold mapDeadline
  try dsimp only
  repeat' (first
    | with_reducible exact h_
    | with_reducible exact hl_
    | with_reducible assumption
    | with_reducible apply bumpBy_only
    | with_reducible apply bump_only
    | with_reducible apply zoneLate_only
    | with_reducible apply modMap_only
    | with_reducible apply mapFlag_only
    | with_reducible apply modFrame_only
    | with_reducible apply repeatTile_only
    | with_reducible apply zonePush_only
    | with_reducible apply frameClose_only
    | with_reducible refine only_foldl ?_ (fun _ _ _ => ?_)
    | with_reducible apply only_ite
    | with_reducible apply only_ite_fst
    | exact List.Subset.trans (by decide) hl_
    | dsimp only
    | split)

theorem execMappingDeadline_only {l_ : List Comp} {s0_ : State} {t : Nat} {s : State} (hl_ : [Comp.regs, .time, .teller, .alm, .pho, .pool, .lanes, .rad, .esc, .map] ⊆ l_)
    (h_ : Only l_ s0_ s) : OutOnly l_ s0_ (execMappingDeadline t s) := by
  unfold execMappingDeadline
  try dsimp only
  repeat' (first
    | with_reducible exact h_
    | with_reducible exact hl_
    | with_reducible apply advance_only
    | with_reducible apply mapDeadline_only
    | with_reducible apply OutOnly.ite
    | with_reducible apply only_ite
    | with_reducible apply OutOnly.next
    | exact List.Subset.trans (by decide) hl_)

theorem reshed_only {l_ : List Comp} {s0_ : State} {s : State} (hl_ : [Comp.fxm] ⊆ l_)
    (h_ : Only l_ s0_ s) : Only l_ s0_ (reshed s) := by
  unfold reshed
  try dsimp only
  repeat' (first
    | with_reducible exact h_
    | with_reducible exact hl_
    | with_reducible apply modFxm_only)

theorem engineDown_only {l_ : List Comp} {s0_ : State} {cause : Nat} {e : Nat} {s : State} (hl_ : [Comp.regs, .teller, .alm, .pho, .pool, .lanes, .rad, .esc, .map] ⊆ l_)
    (h_ : Only l_ s0_ s) : Only l_ s0_ (engineDown cause e s).1 := by
  unfold engineDown
  try dsimp only
  repeat' (first
    | with_reducible exact h_
    | with_reducible exact hl_
    | with_reducible assumption
    | with_reducible apply bumpBy_only
    | with_reducible apply modMapEngine_only
    | with_reducible apply mapFlag_only
    | with_reducible apply modFrame_only
    | with_reducible apply repeatTile_only
    | with_reducible apply tileEnd_only
    | with_reducible refine only_foldl ?_ (fun _ _ _ => ?_)
    | with_reducible apply only_ite
    | with_reducible apply only_ite_fst
    | exact List.Subset.trans (by decide) hl_
    | dsimp only
    | split)

theorem faultNotice_only {l_ : List Comp} {s0_ : State} {cause : Nat} {e : Nat} {was : Role} {tiles : Nat} {pixels : Nat} {s : State} (hl_ : [Comp.regs, .teller] ⊆ l_)
    (h_ : Only l_ s0_ s) : Only l_ s0_ (faultNotice cause e was tiles pixels s) := by
  unfold faultNotice
  try dsimp only
  repeat' (first
    | with_reducible exact h_
    | with_reducible exact hl_
    | with_reducible apply notify_only)

theorem enginesFail_only {l_ : List Comp} {s0_ : State} {cause : Nat} {es : List Nat} {s : State} (hl_ : [Comp.regs, .teller, .alm, .fxm, .pho, .pool, .lanes, .rad, .esc, .map] ⊆ l_) (h_ : Only l_ s0_ s) :
    Only l_ s0_ (enginesFail cause es s) := by
  unfold enginesFail
  dsimp only
  refine only_ite h_ ?_
  refine only_foldl ?_ (fun _ _ hx => faultNotice_only (List.Subset.trans (by decide) hl_) hx)
  refine reshed_only (List.Subset.trans (by decide) hl_) ?_
  exact only_foldl_fst h_ (fun _ _ hx => engineDown_only (List.Subset.trans (by decide) hl_) hx)

theorem engineFail_only {l_ : List Comp} {s0_ : State} {e : Nat} {cause : Nat} {s : State} (hl_ : [Comp.regs, .teller, .alm, .fxm, .pho, .pool, .lanes, .rad, .esc, .map] ⊆ l_)
    (h_ : Only l_ s0_ s) : Only l_ s0_ (engineFail e cause s) := by
  unfold engineFail
  try dsimp only
  repeat' (first
    | with_reducible exact h_
    | with_reducible exact hl_
    | exact List.Subset.trans (by decide) hl_
    | with_reducible apply enginesFail_only)

theorem execEngineFailure_only {l_ : List Comp} {s0_ : State} {t : Nat} {engine : Fin 16} {cause : Nat} {s : State} (hl_ : [Comp.regs, .time, .teller, .alm, .fxm, .pho, .pool, .lanes, .rad, .esc, .map] ⊆ l_)
    (h_ : Only l_ s0_ s) : OutOnly l_ s0_ (execEngineFailure t engine cause s) := by
  unfold execEngineFailure
  try dsimp only
  repeat' (first
    | with_reducible exact h_
    | with_reducible exact hl_
    | with_reducible apply advance_only
    | with_reducible apply engineFail_only
    | with_reducible apply OutOnly.ite
    | with_reducible apply only_ite
    | with_reducible apply OutOnly.next
    | exact List.Subset.trans (by decide) hl_)

theorem execTileTimeout_only {l_ : List Comp} {s0_ : State} {t : Nat} {engine : Fin 16} {s : State} (hl_ : [Comp.regs, .time, .teller, .alm, .fxm, .pho, .pool, .lanes, .rad, .esc, .map] ⊆ l_)
    (h_ : Only l_ s0_ s) : OutOnly l_ s0_ (execTileTimeout t engine s) := by
  unfold execTileTimeout
  try dsimp only
  repeat' (first
    | with_reducible exact h_
    | with_reducible exact hl_
    | with_reducible apply advance_only
    | with_reducible apply engineFail_only
    | with_reducible apply OutOnly.ite
    | with_reducible apply only_ite
    | with_reducible apply OutOnly.next
    | exact List.Subset.trans (by decide) hl_
    | dsimp only
    | split)

theorem takeover_only {l_ : List Comp} {s0_ : State} {e : Nat} {change : Nat} {k : Int} {s : State} (hl_ : [Comp.regs, .teller] ⊆ l_)
    (h_ : Only l_ s0_ s) : Only l_ s0_ (takeover e change k s) := by
  unfold takeover
  try dsimp only
  repeat' (first
    | with_reducible exact h_
    | with_reducible exact hl_
    | with_reducible apply notify_only
    | with_reducible apply mapFlag_only
    | with_reducible apply only_ite
    | exact List.Subset.trans (by decide) hl_)

theorem rolesFollow_only {l_ : List Comp} {s0_ : State} {s : State} (hl_ : [Comp.map] ⊆ l_)
    (h_ : Only l_ s0_ s) : Only l_ s0_ (rolesFollow s) := by
  unfold rolesFollow
  try dsimp only
  repeat' (first
    | with_reducible exact h_
    | with_reducible exact hl_
    | with_reducible assumption
    | with_reducible apply modMap_only
    | with_reducible apply modMapEngine_only
    | with_reducible refine only_foldl ?_ (fun _ _ _ => ?_)
    | with_reducible apply only_ite
    | exact List.Subset.trans (by decide) hl_)

theorem chooseSpare_only {l_ : List Comp} {s0_ : State} {s : State} (hl_ : [Comp.map] ⊆ l_)
    (h_ : Only l_ s0_ s) : Only l_ s0_ (chooseSpare s) := by
  unfold chooseSpare
  try dsimp only
  repeat' (first
    | with_reducible exact h_
    | with_reducible exact hl_
    | with_reducible apply modMapEngine_only
    | with_reducible apply only_ite)

theorem spareMoves_only {l_ : List Comp} {s0_ : State} {fuel : Nat} {k : Int} {s : State} (hl_ : [Comp.regs, .teller, .map] ⊆ l_) (h_ : Only l_ s0_ s) :
    Only l_ s0_ (spareMoves fuel k s) := by
  induction fuel generalizing s with
  | zero => exact h_
  | succ n ih =>
    unfold spareMoves
    repeat' (first
      | with_reducible assumption
      | with_reducible apply ih
      | with_reducible apply takeover_only
      | with_reducible apply modMapEngine_only
      | split
      | exact List.Subset.trans (by decide) hl_)

theorem setReference_only {l_ : List Comp} {s0_ : State} {tests : List (Nat × Nat)} {s : State} (hl_ : [Comp.regs, .teller, .alm, .fxm, .pho, .pool, .lanes, .rad, .esc, .map] ⊆ l_)
    (h_ : Only l_ s0_ s) : Only l_ s0_ (setReference tests s) := by
  unfold setReference
  try dsimp only
  repeat' (first
    | with_reducible exact h_
    | with_reducible exact hl_
    | with_reducible apply modMap_only
    | with_reducible apply engineFail_only
    | with_reducible apply only_ite
    | exact List.Subset.trans (by decide) hl_
    | dsimp only
    | split)

theorem testJudge_only {l_ : List Comp} {s0_ : State} {tests : List (Nat × Nat)} {s : State} {e : Nat} (hl_ : [Comp.regs, .teller, .alm, .fxm, .pho, .pool, .lanes, .rad, .esc, .map] ⊆ l_)
    (h_ : Only l_ s0_ s) : Only l_ s0_ (testJudge tests s e) := by
  unfold testJudge
  try dsimp only
  repeat' (first
    | with_reducible exact h_
    | with_reducible exact hl_
    | with_reducible apply bump_only
    | with_reducible apply modMapEngine_only
    | with_reducible apply mapFlag_only
    | with_reducible apply engineFail_only
    | with_reducible apply only_ite
    | exact List.Subset.trans (by decide) hl_
    | dsimp only
    | split)

theorem selfTests_only {l_ : List Comp} {s0_ : State} {tests : List (Nat × Nat)} {s : State} (hl_ : [Comp.regs, .teller, .alm, .fxm, .pho, .pool, .lanes, .rad, .esc, .map] ⊆ l_)
    (h_ : Only l_ s0_ s) : Only l_ s0_ (selfTests tests s) := by
  unfold selfTests
  try dsimp only
  repeat' (first
    | with_reducible exact h_
    | with_reducible exact hl_
    | with_reducible assumption
    | with_reducible apply testJudge_only
    | with_reducible refine only_foldl ?_ (fun _ _ _ => ?_)
    | exact List.Subset.trans (by decide) hl_)

theorem rolesBoot_only {l_ : List Comp} {s0_ : State} {tests : List (Nat × Nat)} {s : State} (hl_ : [Comp.regs, .teller, .alm, .fxm, .pho, .pool, .lanes, .rad, .esc, .map] ⊆ l_)
    (h_ : Only l_ s0_ s) : Only l_ s0_ (rolesBoot tests s) := by
  unfold rolesBoot
  try dsimp only
  repeat' (first
    | with_reducible exact h_
    | with_reducible exact hl_
    | with_reducible apply rolesFollow_only
    | with_reducible apply chooseSpare_only
    | with_reducible apply setReference_only
    | exact List.Subset.trans (by decide) hl_)

theorem testDone_only {l_ : List Comp} {s0_ : State} {e : Nat} {s : State} (hl_ : [Comp.regs, .teller, .fxm, .map] ⊆ l_)
    (h_ : Only l_ s0_ s) : Only l_ s0_ (testDone e s) := by
  unfold testDone
  try dsimp only
  repeat' (first
    | with_reducible exact h_
    | with_reducible exact hl_
    | with_reducible apply modMapEngine_only
    | with_reducible apply reshed_only
    | with_reducible apply takeover_only
    | with_reducible apply only_ite
    | exact List.Subset.trans (by decide) hl_
    | dsimp only
    | split)

theorem execEngineTestDone_only {l_ : List Comp} {s0_ : State} {t : Nat} {engine : Fin 16} {s : State} (hl_ : [Comp.regs, .time, .teller, .fxm, .map] ⊆ l_)
    (h_ : Only l_ s0_ s) : OutOnly l_ s0_ (execEngineTestDone t engine s) := by
  unfold execEngineTestDone
  try dsimp only
  repeat' (first
    | with_reducible exact h_
    | with_reducible exact hl_
    | with_reducible apply advance_only
    | with_reducible apply testDone_only
    | with_reducible apply OutOnly.ite
    | with_reducible apply OutOnly.next
    | exact List.Subset.trans (by decide) hl_
    | dsimp only
    | split)

theorem mapDomainOff_only {l_ : List Comp} {s0_ : State} {d : Nat} {s : State} (hl_ : [Comp.regs, .teller, .alm, .fxm, .pho, .pool, .lanes, .rad, .esc, .map] ⊆ l_)
    (h_ : Only l_ s0_ s) : Only l_ s0_ (mapDomainOff d s) := by
  unfold mapDomainOff
  try dsimp only
  repeat' (first
    | with_reducible exact h_
    | with_reducible exact hl_
    | with_reducible assumption
    | with_reducible apply modMap_only
    | with_reducible apply modMapEngine_only
    | with_reducible apply enginesFail_only
    | with_reducible refine only_foldl ?_ (fun _ _ _ => ?_)
    | with_reducible apply only_ite
    | exact List.Subset.trans (by decide) hl_)

theorem effectStates_only {l_ : List Comp} {s0_ : State} {k : Int} {canvas : Option Nat} {s : State} (hl_ : [Comp.map] ⊆ l_)
    (h_ : Only l_ s0_ s) : Only l_ s0_ (effectStates k canvas s) := by
  unfold effectStates
  try dsimp only
  repeat' (first
    | with_reducible exact h_
    | with_reducible exact hl_
    | with_reducible apply modMap_only
    | with_reducible apply only_ite
    | with_reducible apply only_ite_fst
    | exact List.Subset.trans (by decide) hl_)

theorem darkZones_only {l_ : List Comp} {s0_ : State} {k : Int} {s : State} (hl_ : [Comp.regs, .teller, .alm, .fxm, .pool, .lanes, .rad, .esc] ⊆ l_)
    (h_ : Only l_ s0_ s) : Only l_ s0_ (darkZones k s) := by
  unfold darkZones
  try dsimp only
  repeat' (first
    | with_reducible exact h_
    | with_reducible exact hl_
    | with_reducible assumption
    | with_reducible apply modFxm_only
    | with_reducible apply modPool_only
    | with_reducible apply windowReady_only
    | with_reducible refine only_foldl ?_ (fun _ _ _ => ?_)
    | exact List.Subset.trans (by decide) hl_)

theorem mapStart_only {l_ : List Comp} {s0_ : State} {k : Int} {canvas : Option Nat} {tests : List (Nat × Nat)} {s : State} (hl_ : [Comp.regs, .teller, .alm, .fifos, .protect, .fxm, .pho, .pool, .lanes, .rad, .esc, .map] ⊆ l_)
    (h_ : Only l_ s0_ s) : Only l_ s0_ (mapStart k canvas tests s) := by
  unfold mapStart
  try dsimp only
  repeat' (first
    | with_reducible exact h_
    | with_reducible exact hl_
    | with_reducible apply bump_only
    | with_reducible apply setFlag_only
    | with_reducible apply phoBegin_only
    | with_reducible apply modProtect_only
    | with_reducible apply intake_only
    | with_reducible apply modPool_only
    | with_reducible apply modMap_only
    | with_reducible apply frameDone_only
    | with_reducible apply mapDeadline_only
    | with_reducible apply reshed_only
    | with_reducible apply spareMoves_only
    | with_reducible apply selfTests_only
    | with_reducible apply rolesBoot_only
    | with_reducible apply effectStates_only
    | with_reducible apply darkZones_only
    | with_reducible apply only_ite
    | with_reducible apply only_ite_fst
    | exact List.Subset.trans (by decide) hl_)

theorem mapStop_only {l_ : List Comp} {s0_ : State} {s : State} (hl_ : [Comp.protect, .pool, .map] ⊆ l_)
    (h_ : Only l_ s0_ s) : Only l_ s0_ (mapStop s) := by
  unfold mapStop
  try dsimp only
  repeat' (first
    | with_reducible exact h_
    | with_reducible exact hl_
    | with_reducible apply modProtect_only
    | with_reducible apply modPool_only
    | with_reducible apply modMap_only
    | exact List.Subset.trans (by decide) hl_)

theorem execEffectSet_only {l_ : List Comp} {s0_ : State} {c : Call} {p : EffectSet} {s : State} (hl_ : [Comp.regs, .time, .teller] ⊆ l_)
    (h_ : Only l_ s0_ s) : OutOnly l_ s0_ (execEffectSet c p s) := by
  unfold execEffectSet
  try dsimp only
  repeat' (first
    | with_reducible exact h_
    | with_reducible exact hl_
    | with_reducible apply configMessage_only)

theorem execKernelUnload_only {l_ : List Comp} {s0_ : State} {c : Call} {kind : Nat} {code : Nat} {s : State} (hl_ : [Comp.regs, .time, .teller, .map] ⊆ l_)
    (h_ : Only l_ s0_ s) : OutOnly l_ s0_ (execKernelUnload c kind code s) := by
  unfold execKernelUnload
  try dsimp only
  repeat' (first
    | with_reducible exact h_
    | with_reducible exact hl_
    | with_reducible assumption
    | with_reducible refine command_only ?_ ?_ (fun _ _ => ?_)
    | with_reducible apply refuse_only
    | with_reducible apply accept_only
    | with_reducible apply modMap_only
    | with_reducible apply OutOnly.ite
    | with_reducible apply only_ite
    | with_reducible apply OutOnly.next
    | exact List.Subset.trans (by decide) hl_
    | dsimp only
    | split)

theorem execMapStatusGet_only {l_ : List Comp} {s0_ : State} {c : Call} {s : State} (hl_ : [Comp.regs, .time, .teller] ⊆ l_)
    (h_ : Only l_ s0_ s) : OutOnly l_ s0_ (execMapStatusGet c s) := by
  unfold execMapStatusGet
  try dsimp only
  repeat' (first
    | with_reducible exact h_
    | with_reducible exact hl_
    | with_reducible assumption
    | with_reducible refine command_only ?_ ?_ (fun _ _ => ?_)
    | with_reducible apply answer_only
    | with_reducible apply OutOnly.ite
    | with_reducible apply only_ite
    | with_reducible apply OutOnly.next
    | exact List.Subset.trans (by decide) hl_)

theorem mapEngineSet_only {l_ : List Comp} {s0_ : State} {e : Nat} {action : Nat} {s : State} (hl_ : [Comp.regs, .teller, .alm, .fxm, .pho, .pool, .lanes, .rad, .esc, .map] ⊆ l_)
    (h_ : Only l_ s0_ s) : Only l_ s0_ (mapEngineSet e action s).1 := by
  unfold mapEngineSet
  try dsimp only
  repeat' (first
    | with_reducible exact h_
    | with_reducible exact hl_
    | with_reducible apply setField_only
    | with_reducible apply refuse_only
    | with_reducible apply accept_only
    | with_reducible apply modMap_only
    | with_reducible apply modMapEngine_only
    | with_reducible apply engineFail_only
    | with_reducible apply only_ite
    | with_reducible apply only_ite_fst
    | exact List.Subset.trans (by decide) hl_
    | dsimp only
    | split)

end Sys2Proof.Laws
end

