-- ==== Sys2Proof/Laws/OnlyEscrow.lean ====
section
/-! SUPPORT. Which components of the machine the operations of Machine/Escrow.lean may change. -/

namespace Sys2Proof.Laws

open Sys2Proof.Machine Sys2Proof.Safety

theorem pairMode_only {l_ : List Comp} {s0_ : State} {s : State} (hl_ : [Comp.regs, .teller, .power] ⊆ l_)
    (h_ : Only l_ s0_ s) : Only l_ s0_ (pairMode s) := by
  unfold pairMode
  try dsimp only
  repeat' (first
    | with_reducible exact h_
    | with_reducible exact hl_
    | with_reducible apply notify_only
    | with_reducible apply only_ite
    | exact List.Subset.trans (by decide) hl_
    | split
    | fail_if_no_progress ((with_reducible refine only_mk (k := [.power]) ?_ ?_ ?lit); case lit => exact fun c hc => by cases c <;> first | with_reducible rfl | exact absurd (by decide) hc))

theorem roleNotice_only {l_ : List Comp} {s0_ : State} {g : Nat} {role : Nat} {cause : Nat} {k : Int} {s : State} (hl_ : [Comp.regs, .teller] ⊆ l_)
    (h_ : Only l_ s0_ s) : Only l_ s0_ (roleNotice g role cause k s) := by
  unfold roleNotice
  try dsimp only
  repeat' (first
    | with_reducible exact h_
    | with_reducible exact hl_
    | with_reducible apply setFlag_only
    | with_reducible apply notify_only
    | with_reducible apply only_ite
    | exact List.Subset.trans (by decide) hl_)

theorem loseLease_only {l_ : List Comp} {s0_ : State} {g : Nat} {cause : Nat} {s : State} (hl_ : [Comp.regs, .teller, .power, .esc] ⊆ l_)
    (h_ : Only l_ s0_ s) : Only l_ s0_ (loseLease g cause s) := by
  unfold loseLease
  try dsimp only
  repeat' (first
    | with_reducible exact h_
    | with_reducible exact hl_
    | with_reducible apply modLease_only
    | with_reducible apply pairMode_only
    | with_reducible apply roleNotice_only
    | with_reducible apply only_ite
    | exact List.Subset.trans (by decide) hl_)

theorem sawLease_only {l_ : List Comp} {s0_ : State} {g : Nat} {n : Nat} {s : State} (hl_ : [Comp.regs] ⊆ l_)
    (h_ : Only l_ s0_ s) : Only l_ s0_ (sawLease g n s) := by
  unfold sawLease
  try dsimp only
  repeat' (first
    | with_reducible exact h_
    | with_reducible exact hl_
    | with_reducible apply setReg_only
    | with_reducible apply only_ite)

theorem escWrite_only {l_ : List Comp} {s0_ : State} {s : State} (hl_ : [Comp.regs, .teller, .alm, .esc] ⊆ l_)
    (h_ : Only l_ s0_ s) : Only l_ s0_ (escWrite s) := by
  unfold escWrite
  try dsimp only
  repeat' (first
    | with_reducible exact h_
    | with_reducible exact hl_
    | with_reducible apply bump_only
    | with_reducible apply insertDescriptor_only
    | with_reducible apply modEsc_only
    | with_reducible apply only_ite
    | exact List.Subset.trans (by decide) hl_
    | dsimp only
    | split)

theorem execEscrowRecordWrite_only {l_ : List Comp} {s0_ : State} {t : Nat} {s : State} (hl_ : [Comp.regs, .time, .teller, .alm, .esc] ⊆ l_)
    (h_ : Only l_ s0_ s) : OutOnly l_ s0_ (execEscrowRecordWrite t s) := by
  unfold execEscrowRecordWrite
  try dsimp only
  repeat' (first
    | with_reducible exact h_
    | with_reducible exact hl_
    | with_reducible apply advance_only
    | with_reducible apply escWrite_only
    | with_reducible apply OutOnly.ite
    | with_reducible apply only_ite
    | with_reducible apply OutOnly.next
    | exact List.Subset.trans (by decide) hl_)

theorem escrowSend_only {l_ : List Comp} {s0_ : State} {s : State} (hl_ : [Comp.regs, .mac, .esc] ⊆ l_)
    (h_ : Only l_ s0_ s) : Only l_ s0_ (escrowSend s) := by
  unfold escrowSend
  try dsimp only
  repeat' (first
    | with_reducible exact h_
    | with_reducible exact hl_
    | with_reducible assumption
    | with_reducible apply chkRun_only
    | with_reducible apply macSend_only
    | with_reducible apply modEsc_only
    | with_reducible refine only_foldl ?_ (fun _ _ _ => ?_)
    | with_reducible apply only_ite
    | with_reducible apply only_ite_fst
    | exact List.Subset.trans (by decide) hl_
    | dsimp only
    | split)

theorem shadowNote_only {l_ : List Comp} {s0_ : State} {e : Nat} {n : Nat} {s : State} (hl_ : [Comp.esc] ⊆ l_)
    (h_ : Only l_ s0_ s) : Only l_ s0_ (shadowNote e n s) := by
  unfold shadowNote
  try dsimp only
  repeat' (first
    | with_reducible exact h_
    | with_reducible exact hl_
    | with_reducible apply modEsc_only
    | with_reducible apply only_ite
    | exact List.Subset.trans (by decide) hl_
    | dsimp only
    | split)

theorem shadowOne_only {l_ : List Comp} {s0_ : State} {k : Int} {s : State} {q : ShadowTile × Nat} (hl_ : [Comp.regs, .teller, .esc] ⊆ l_)
    (h_ : Only l_ s0_ s) : Only l_ s0_ (shadowOne k s q) := by
  unfold shadowOne
  try dsimp only
  repeat' (first
    | with_reducible exact h_
    | with_reducible exact hl_
    | with_reducible apply bump_only
    | with_reducible apply setFlag_only
    | with_reducible apply notify_only
    | with_reducible apply modEsc_only
    | with_reducible apply only_ite
    | exact List.Subset.trans (by decide) hl_)

theorem shadowCheck_only {l_ : List Comp} {s0_ : State} {r : EscRecord} {s : State} (hl_ : [Comp.regs, .teller, .esc] ⊆ l_)
    (h_ : Only l_ s0_ s) : Only l_ s0_ (shadowCheck r s) := by
  unfold shadowCheck
  try dsimp only
  repeat' (first
    | with_reducible exact h_
    | with_reducible exact hl_
    | with_reducible assumption
    | with_reducible apply modEsc_only
    | with_reducible apply shadowOne_only
    | with_reducible refine only_foldl ?_ (fun _ _ _ => ?_)
    | with_reducible apply only_ite
    | exact List.Subset.trans (by decide) hl_)

theorem withTemps_only {l_ : List Comp} {s0_ : State} {s : State} {zone : Nat} (hl_ : [Comp.pho] ⊆ l_)
    (h_ : Only l_ s0_ s) : Only l_ s0_ (withTemps s zone) := by
  unfold withTemps
  try dsimp only
  repeat' (first
    | with_reducible exact h_
    | with_reducible exact hl_
    | with_reducible apply modPho_only
    | with_reducible apply only_ite
    | with_reducible apply only_ite_fst
    | exact List.Subset.trans (by decide) hl_
    | dsimp only
    | split)

theorem tileFinish_only {l_ : List Comp} {s0_ : State} {e : Nat} {s : State} (hl_ : [Comp.regs, .teller, .alm, .pho, .pool, .lanes, .rad, .esc, .map] ⊆ l_)
    (h_ : Only l_ s0_ s) : Only l_ s0_ (tileFinish e s) := by
  unfold tileFinish
  try dsimp only
  repeat' (first
    | with_reducible exact h_
    | with_reducible exact hl_
    | with_reducible apply tileComplete_only
    | with_reducible apply shadowNote_only
    | with_reducible apply withTemps_only
    | with_reducible apply only_ite
    | exact List.Subset.trans (by decide) hl_
    | split
    | fail_if_no_progress ((with_reducible refine only_mk (k := [.pho]) ?_ ?_ ?lit); case lit => exact fun c hc => by cases c <;> first | with_reducible rfl | exact absurd (by decide) hc))

theorem execTileComplete_only {l_ : List Comp} {s0_ : State} {t : Nat} {engine : Fin 16} {s : State} (hl_ : [Comp.regs, .time, .teller, .alm, .pho, .pool, .lanes, .rad, .esc, .map] ⊆ l_)
    (h_ : Only l_ s0_ s) : OutOnly l_ s0_ (execTileComplete t engine s) := by
  unfold execTileComplete
  try dsimp only
  repeat' (first
    | with_reducible exact h_
    | with_reducible exact hl_
    | with_reducible apply advance_only
    | with_reducible apply tileFinish_only
    | with_reducible apply OutOnly.ite
    | with_reducible apply only_ite
    | with_reducible apply OutOnly.next
    | exact List.Subset.trans (by decide) hl_)

theorem recordLost_only {l_ : List Comp} {s0_ : State} {cause : Nat} {s : State} (hl_ : [Comp.esc] ⊆ l_)
    (h_ : Only l_ s0_ s) : Only l_ s0_ (recordLost cause s) := by
  unfold recordLost
  try dsimp only
  repeat' (first
    | with_reducible exact h_
    | with_reducible exact hl_
    | with_reducible apply modEsc_only)

theorem staleCheck_only {l_ : List Comp} {s0_ : State} {s : State} (hl_ : [Comp.regs, .teller, .esc] ⊆ l_)
    (h_ : Only l_ s0_ s) : Only l_ s0_ (staleCheck s) := by
  unfold staleCheck
  try dsimp only
  repeat' (first
    | with_reducible exact h_
    | with_reducible exact hl_
    | with_reducible apply setFlag_only
    | with_reducible apply notify_only
    | with_reducible apply modEsc_only
    | with_reducible apply only_ite
    | exact List.Subset.trans (by decide) hl_
    | dsimp only
    | split)

theorem freshAgain_only {l_ : List Comp} {s0_ : State} {r : EscRecord} {s : State} (hl_ : [Comp.regs, .teller, .esc] ⊆ l_)
    (h_ : Only l_ s0_ s) : Only l_ s0_ (freshAgain r s) := by
  unfold freshAgain
  try dsimp only
  repeat' (first
    | with_reducible exact h_
    | with_reducible exact hl_
    | with_reducible apply setFlag_only
    | with_reducible apply notify_only
    | with_reducible apply modEsc_only
    | with_reducible apply only_ite
    | exact List.Subset.trans (by decide) hl_)

theorem digestCheck_only {l_ : List Comp} {s0_ : State} {s : State} (hl_ : [Comp.regs, .teller, .esc] ⊆ l_)
    (h_ : Only l_ s0_ s) : Only l_ s0_ (digestCheck s) := by
  unfold digestCheck
  try dsimp only
  repeat' (first
    | with_reducible exact h_
    | with_reducible exact hl_
    | with_reducible assumption
    | with_reducible apply setFlag_only
    | with_reducible apply notify_only
    | with_reducible apply modEsc_only
    | with_reducible refine only_foldl ?_ (fun _ _ _ => ?_)
    | with_reducible apply only_ite
    | exact List.Subset.trans (by decide) hl_
    | dsimp only
    | split)

theorem adoptEpochs_only {l_ : List Comp} {s0_ : State} {r : EscRecord} {gs : List Nat} {s : State} (hl_ : [Comp.teller, .record, .cfgA, .cfgB, .fxm] ⊆ l_)
    (h_ : Only l_ s0_ s) : Only l_ s0_ (adoptEpochs r gs s) := by
  unfold adoptEpochs
  try dsimp only
  repeat' (first
    | with_reducible exact h_
    | with_reducible exact hl_
    | with_reducible assumption
    | with_reducible refine only_foldl ?_ (fun _ _ _ => ?_)
    | with_reducible apply only_ite
    | split
    | fail_if_no_progress ((with_reducible refine only_mk (k := [.teller, .record, .cfgA, .cfgB, .fxm]) ?_ ?_ ?lit); case lit => exact fun c hc => by cases c <;> first | with_reducible rfl | exact absurd (by decide) hc))

theorem recordKeep_only {l_ : List Comp} {s0_ : State} {seq : Word} {r : EscRecord} {s : State} (hl_ : [Comp.regs, .teller, .alm, .record, .cfgA, .cfgB, .fxm, .esc] ⊆ l_)
    (h_ : Only l_ s0_ s) : Only l_ s0_ (recordKeep seq r s) := by
  unfold recordKeep
  try dsimp only
  repeat' (first
    | with_reducible exact h_
    | with_reducible exact hl_
    | with_reducible assumption
    | with_reducible apply bump_only
    | with_reducible apply modAlm_only
    | with_reducible apply modEsc_only
    | with_reducible apply shadowCheck_only
    | with_reducible apply freshAgain_only
    | with_reducible apply digestCheck_only
    | with_reducible apply adoptEpochs_only
    | with_reducible refine only_foldl ?_ (fun _ _ _ => ?_)
    | with_reducible apply only_ite
    | exact List.Subset.trans (by decide) hl_)

theorem recordDone_only {l_ : List Comp} {s0_ : State} {seq : Word} {r : EscRecord} {s : State} (hl_ : [Comp.regs, .teller, .power, .alm, .record, .cfgA, .cfgB, .fxm, .esc] ⊆ l_)
    (h_ : Only l_ s0_ s) : Only l_ s0_ (recordDone seq r s) := by
  unfold recordDone
  try dsimp only
  repeat' (first
    | with_reducible exact h_
    | with_reducible exact hl_
    | with_reducible assumption
    | with_reducible apply bump_only
    | with_reducible apply loseLease_only
    | with_reducible apply sawLease_only
    | with_reducible apply recordLost_only
    | with_reducible apply recordKeep_only
    | with_reducible refine only_foldl ?_ (fun _ _ _ => ?_)
    | with_reducible apply only_ite
    | exact List.Subset.trans (by decide) hl_)

theorem buildDrop_only {l_ : List Comp} {s0_ : State} {s : State} (hl_ : [Comp.regs, .esc] ⊆ l_)
    (h_ : Only l_ s0_ s) : Only l_ s0_ (buildDrop s) := by
  unfold buildDrop
  try dsimp only
  repeat' (first
    | with_reducible exact h_
    | with_reducible exact hl_
    | with_reducible apply bump_only
    | with_reducible apply modEsc_only
    | with_reducible apply recordLost_only
    | with_reducible apply only_ite
    | exact List.Subset.trans (by decide) hl_
    | dsimp only
    | split)

theorem aliveJudge_only {l_ : List Comp} {s0_ : State} {ch : Nat} {alive : Nat} {cause : Bool} {s : State} (hl_ : [Comp.regs, .protect, .esc] ⊆ l_)
    (h_ : Only l_ s0_ s) : Only l_ s0_ (aliveJudge ch alive cause s) := by
  unfold aliveJudge
  try dsimp only
  repeat' (first
    | with_reducible exact h_
    | with_reducible exact hl_
    | with_reducible apply judgeAlive_only
    | with_reducible apply modEsc_only
    | with_reducible apply only_ite
    | exact List.Subset.trans (by decide) hl_)

theorem fragmentTake_only {l_ : List Comp} {s0_ : State} {f : EscFragment} {s : State} (hl_ : [Comp.regs, .teller, .power, .alm, .record, .cfgA, .cfgB, .fxm, .esc] ⊆ l_)
    (h_ : Only l_ s0_ s) : Only l_ s0_ (fragmentTake f s) := by
  unfold fragmentTake
  try dsimp only
  repeat' (first
    | with_reducible exact h_
    | with_reducible exact hl_
    | with_reducible apply bump_only
    | with_reducible apply modEsc_only
    | with_reducible apply recordLost_only
    | with_reducible apply recordDone_only
    | with_reducible apply buildDrop_only
    | with_reducible apply only_ite
    | exact List.Subset.trans (by decide) hl_
    | dsimp only
    | split)

theorem fragmentLate_only {l_ : List Comp} {s0_ : State} {f : EscFragment} {s : State} (hl_ : [Comp.regs, .esc] ⊆ l_)
    (h_ : Only l_ s0_ s) : Only l_ s0_ (fragmentLate f s) := by
  unfold fragmentLate
  try dsimp only
  repeat' (first
    | with_reducible exact h_
    | with_reducible exact hl_
    | with_reducible apply bump_only
    | with_reducible apply modEsc_only
    | with_reducible apply recordLost_only
    | with_reducible apply only_ite
    | exact List.Subset.trans (by decide) hl_)

theorem fragmentIn_only {l_ : List Comp} {s0_ : State} {f : EscFragment} {s : State} (hl_ : [Comp.regs, .teller, .power, .alm, .protect, .record, .cfgA, .cfgB, .fxm, .esc] ⊆ l_)
    (h_ : Only l_ s0_ s) : Only l_ s0_ (fragmentIn f s) := by
  unfold fragmentIn
  try dsimp only
  repeat' (first
    | with_reducible exact h_
    | with_reducible exact hl_
    | with_reducible apply bump_only
    | with_reducible apply modEsc_only
    | with_reducible apply aliveJudge_only
    | with_reducible apply fragmentTake_only
    | with_reducible apply fragmentLate_only
    | with_reducible apply only_ite
    | with_reducible apply only_ite_fst
    | exact List.Subset.trans (by decide) hl_
    | dsimp only
    | split)

theorem execEscrowFragmentReceived_only {l_ : List Comp} {s0_ : State} {t : Nat} {payload : List (BitVec 8)} {s : State} (hl_ : [Comp.regs, .time, .teller, .power, .alm, .protect, .record, .cfgA, .cfgB, .fxm, .esc] ⊆ l_)
    (h_ : Only l_ s0_ s) : OutOnly l_ s0_ (execEscrowFragmentReceived t payload s) := by
  unfold execEscrowFragmentReceived
  try dsimp only
  repeat' (first
    | with_reducible exact h_
    | with_reducible exact hl_
    | with_reducible apply advance_only
    | with_reducible apply chkRun_only
    | with_reducible apply fragmentIn_only
    | with_reducible apply OutOnly.ite
    | with_reducible apply only_ite
    | with_reducible apply OutOnly.next
    | exact List.Subset.trans (by decide) hl_
    | dsimp only
    | split)

theorem execEscrowRecordDeadline_only {l_ : List Comp} {s0_ : State} {t : Nat} {s : State} (hl_ : [Comp.regs, .time, .teller, .esc] ⊆ l_)
    (h_ : Only l_ s0_ s) : OutOnly l_ s0_ (execEscrowRecordDeadline t s) := by
  unfold execEscrowRecordDeadline
  try dsimp only
  repeat' (first
    | with_reducible exact h_
    | with_reducible exact hl_
    | with_reducible apply advance_only
    | with_reducible apply staleCheck_only
    | with_reducible apply buildDrop_only
    | with_reducible apply OutOnly.ite
    | with_reducible apply only_ite
    | with_reducible apply OutOnly.next
    | exact List.Subset.trans (by decide) hl_
    | dsimp only
    | split)

theorem skipFrames_only {l_ : List Comp} {s0_ : State} {z : Nat} {first : Int} {n : Nat} {s : State} (hl_ : [Comp.regs, .pool] ⊆ l_)
    (h_ : Only l_ s0_ s) : Only l_ s0_ (skipFrames z first n s) := by
  unfold skipFrames
  try dsimp only
  repeat' (first
    | with_reducible exact h_
    | with_reducible exact hl_
    | with_reducible assumption
    | with_reducible apply bumpBy_only
    | with_reducible apply bumpField_only
    | with_reducible apply setFlag_only
    | with_reducible apply unsentZone_only
    | with_reducible apply poolFree_only
    | with_reducible refine only_foldl ?_ (fun _ _ _ => ?_)
    | with_reducible apply only_ite
    | exact List.Subset.trans (by decide) hl_)

theorem joinRun_only {l_ : List Comp} {s0_ : State} {z : Nat} {k : Int} {s : State} (hl_ : [Comp.alm] ⊆ l_)
    (h_ : Only l_ s0_ s) : Only l_ s0_ (joinRun z k s) := by
  unfold joinRun
  try dsimp only
  repeat' (first
    | with_reducible exact h_
    | with_reducible exact hl_
    | with_reducible apply modAlm_only
    | with_reducible apply only_ite
    | with_reducible apply only_ite_fst
    | exact List.Subset.trans (by decide) hl_
    | dsimp only
    | split)

theorem moveRelease_only {l_ : List Comp} {s0_ : State} {z : Nat} {k : Int} {s : State} (hl_ : [Comp.alm] ⊆ l_)
    (h_ : Only l_ s0_ s) : Only l_ s0_ (moveRelease z k s) := by
  unfold moveRelease
  try dsimp only
  repeat' (first
    | with_reducible exact h_
    | with_reducible exact hl_
    | with_reducible apply modAlm_only
    | with_reducible apply nextOrder_only
    | exact List.Subset.trans (by decide) hl_)

theorem skipNotice_only {l_ : List Comp} {s0_ : State} {z : Nat} {n : Nat} {first : Int} {next : Int} {s : State} (hl_ : [Comp.regs, .teller] ⊆ l_)
    (h_ : Only l_ s0_ s) : Only l_ s0_ (skipNotice z n first next s) := by
  unfold skipNotice
  try dsimp only
  repeat' (first
    | with_reducible exact h_
    | with_reducible exact hl_
    | with_reducible apply notify_only
    | with_reducible apply only_ite)

theorem takeZone_only {l_ : List Comp} {s0_ : State} {km : Int} {s : State} {z : Nat} (hl_ : [Comp.regs, .teller, .alm, .pool] ⊆ l_)
    (h_ : Only l_ s0_ s) : Only l_ s0_ (takeZone km s z) := by
  unfold takeZone
  try dsimp only
  repeat' (first
    | with_reducible exact h_
    | with_reducible exact hl_
    | with_reducible apply traceOf_only
    | with_reducible apply skipFrames_only
    | with_reducible apply moveRelease_only
    | with_reducible apply skipNotice_only
    | with_reducible apply only_ite
    | exact List.Subset.trans (by decide) hl_
    | dsimp only
    | split)

theorem takeSeq_only {l_ : List Comp} {s0_ : State} {s : State} {q : EscSeq} (hl_ : [Comp.pkt, .rad] ⊆ l_)
    (h_ : Only l_ s0_ s) : Only l_ s0_ (takeSeq s q) := by
  unfold takeSeq
  try dsimp only
  repeat' (first
    | with_reducible exact h_
    | with_reducible exact hl_
    | with_reducible apply modPkt_only
    | with_reducible apply modXcvr_only
    | with_reducible apply only_ite
    | exact List.Subset.trans (by decide) hl_
    | dsimp only
    | split)

theorem insertTaken_only {l_ : List Comp} {s0_ : State} {s : State} {c : Cue} (hl_ : [Comp.regs, .teller, .alm] ⊆ l_)
    (h_ : Only l_ s0_ s) : Only l_ s0_ (insertTaken s c) := by
  unfold insertTaken
  try dsimp only
  repeat' (first
    | with_reducible exact h_
    | with_reducible exact hl_
    | with_reducible apply modAlm_only
    | with_reducible apply traceOf_only
    | with_reducible apply refuseInsert_only
    | with_reducible apply refuseHorizon_only
    | with_reducible apply cueWork_only
    | with_reducible apply only_ite
    | exact List.Subset.trans (by decide) hl_)

theorem takeCues_only {l_ : List Comp} {s0_ : State} {r : EscRecord} {sIn : State} (hl_ : [Comp.regs, .teller, .alm, .rad] ⊆ l_)
    (h_ : Only l_ s0_ sIn) : Only l_ s0_ (takeCues r sIn) := by
  unfold takeCues
  try dsimp only
  repeat' (first
    | with_reducible exact h_
    | with_reducible exact hl_
    | with_reducible assumption
    | with_reducible apply modAlm_only
    | with_reducible apply modRad_only
    | with_reducible apply insertTaken_only
    | with_reducible refine only_foldl ?_ (fun _ _ _ => ?_)
    | exact List.Subset.trans (by decide) hl_)

theorem takeTemps_only {l_ : List Comp} {s0_ : State} {zs : List Nat} {r : EscRecord} {s : State} (hl_ : [Comp.regs, .pho] ⊆ l_)
    (h_ : Only l_ s0_ s) : Only l_ s0_ (takeTemps zs r s) := by
  unfold takeTemps
  try dsimp only
  repeat' (first
    | with_reducible exact h_
    | with_reducible exact hl_
    | with_reducible assumption
    | with_reducible apply zoneTemp_only
    | with_reducible refine only_foldl ?_ (fun _ _ _ => ?_)
    | with_reducible apply only_ite
    | exact List.Subset.trans (by decide) hl_)

theorem takeRecord_only {l_ : List Comp} {s0_ : State} {g : Nat} {r : EscRecord} {s : State} (hl_ : [Comp.regs, .teller, .alm, .pho, .pkt, .rad, .map] ⊆ l_)
    (h_ : Only l_ s0_ s) : Only l_ s0_ (takeRecord g r s) := by
  unfold takeRecord
  try dsimp only
  repeat' (first
    | with_reducible exact h_
    | with_reducible exact hl_
    | with_reducible assumption
    | with_reducible apply modAlm_only
    | with_reducible apply insertTimer_only
    | with_reducible apply modMap_only
    | with_reducible apply takeSeq_only
    | with_reducible apply takeCues_only
    | with_reducible apply takeTemps_only
    | with_reducible refine only_foldl ?_ (fun _ _ _ => ?_)
    | with_reducible apply only_ite
    | with_reducible apply only_ite_fst
    | exact List.Subset.trans (by decide) hl_
    | dsimp only
    | split)

theorem takeGroup_only {l_ : List Comp} {s0_ : State} {g : Nat} {s : State} (hl_ : [Comp.regs, .teller, .power, .alm, .pho, .pool, .pkt, .rad, .esc, .map] ⊆ l_)
    (h_ : Only l_ s0_ s) : Only l_ s0_ (takeGroup g s) := by
  unfold takeGroup
  try dsimp only
  repeat' (first
    | with_reducible exact h_
    | with_reducible exact hl_
    | with_reducible assumption
    | with_reducible apply modEsc_only
    | with_reducible apply modLease_only
    | with_reducible apply pairMode_only
    | with_reducible apply roleNotice_only
    | with_reducible apply takeZone_only
    | with_reducible apply takeRecord_only
    | with_reducible refine only_foldl ?_ (fun _ _ _ => ?_)
    | with_reducible apply only_ite
    | exact List.Subset.trans (by decide) hl_
    | dsimp only
    | split)

end Sys2Proof.Laws
end

