-- ==== Sys2Proof/Laws/OnlyRaster.lean ====
section
/-! SUPPORT. Which components of the machine the operations of Machine/Raster.lean may change. -/

namespace Sys2Proof.Laws

open Sys2Proof.Machine Sys2Proof.Safety

theorem modRas_only {l_ : List Comp} {s0_ : State} {f : Ras → Ras} {s : State} (hl_ : [Comp.ras] ⊆ l_)
    (h_ : Only l_ s0_ s) : Only l_ s0_ (modRas f s) := by
  unfold modRas
  try dsimp only
  repeat' (first
    | with_reducible exact h_
    | with_reducible exact hl_
    | with_reducible apply only_ite
    | fail_if_no_progress ((with_reducible refine only_mk (k := [.ras]) ?_ ?_ ?lit); case lit => exact fun c hc => by cases c <;> first | with_reducible rfl | exact absurd (by decide) hc))

theorem rasCopy_only {l_ : List Comp} {s0_ : State} {tag : Int} {s : State} (hl_ : [Comp.regs, .ras] ⊆ l_)
    (h_ : Only l_ s0_ s) : Only l_ s0_ (rasCopy tag s) := by
  unfold rasCopy
  try dsimp only
  repeat' (first
    | with_reducible exact h_
    | with_reducible exact hl_
    | with_reducible apply copyShadows_only
    | with_reducible apply modRas_only
    | with_reducible apply only_ite
    | exact List.Subset.trans (by decide) hl_)

theorem rasSoon_only {l_ : List Comp} {s0_ : State} {k : Int} {s : State} (hl_ : [Comp.regs, .ras] ⊆ l_)
    (h_ : Only l_ s0_ s) : Only l_ s0_ (rasSoon k s) := by
  unfold rasSoon
  try dsimp only
  repeat' (first
    | with_reducible exact h_
    | with_reducible exact hl_
    | with_reducible apply rasCopy_only
    | with_reducible apply only_ite
    | exact List.Subset.trans (by decide) hl_
    | dsimp only
    | split)

theorem monBegin_only {l_ : List Comp} {s0_ : State} {k : Int} {s : State} (hl_ : [Comp.regs, .ras] ⊆ l_)
    (h_ : Only l_ s0_ s) : Only l_ s0_ (monBegin k s) := by
  unfold monBegin
  try dsimp only
  repeat' (first
    | with_reducible exact h_
    | with_reducible exact hl_
    | with_reducible apply modRas_only
    | with_reducible apply rasSoon_only
    | with_reducible apply only_ite
    | exact List.Subset.trans (by decide) hl_
    | dsimp only
    | split)

theorem monLines_only {l_ : List Comp} {s0_ : State} {n : Nat} {from_ : Nat} {upto : Nat} {accepted : Bool} {s : State} (hl_ : [Comp.ras] ⊆ l_)
    (h_ : Only l_ s0_ s) : Only l_ s0_ (monLines n from_ upto accepted s) := by
  unfold monLines
  try dsimp only
  repeat' (first
    | with_reducible exact h_
    | with_reducible exact hl_
    | with_reducible apply modRas_only)

theorem lineDone_only {l_ : List Comp} {s0_ : State} {line : Nat} {accepted : Bool} {s : State} (hl_ : [Comp.regs, .teller, .protect, .cmp, .ras] ⊆ l_)
    (h_ : Only l_ s0_ s) : Only l_ s0_ (lineDone line accepted s) := by
  unfold lineDone
  try dsimp only
  repeat' (first
    | with_reducible exact h_
    | with_reducible exact hl_
    | with_reducible apply canvasLine_only
    | with_reducible apply monLines_only
    | with_reducible apply only_ite
    | exact List.Subset.trans (by decide) hl_)

theorem execLineReadback_only {l_ : List Comp} {s0_ : State} {t : Nat} {s : State} (hl_ : [Comp.regs, .time, .ras] ⊆ l_)
    (h_ : Only l_ s0_ s) : OutOnly l_ s0_ (execLineReadback t s) := by
  unfold execLineReadback
  try dsimp only
  repeat' (first
    | with_reducible exact h_
    | with_reducible exact hl_
    | with_reducible apply advance_only
    | with_reducible apply bump_only
    | with_reducible apply modRas_only
    | with_reducible apply OutOnly.ite
    | with_reducible apply only_ite
    | with_reducible apply OutOnly.next
    | exact List.Subset.trans (by decide) hl_
    | dsimp only
    | split)

theorem ltrStart_only {l_ : List Comp} {s0_ : State} {s : State} (hl_ : [Comp.ras] ⊆ l_)
    (h_ : Only l_ s0_ s) : Only l_ s0_ (ltrStart s) := by
  unfold ltrStart
  try dsimp only
  repeat' (first
    | with_reducible exact h_
    | with_reducible exact hl_
    | with_reducible apply modRas_only
    | exact List.Subset.trans (by decide) hl_)

theorem rasGo_only {l_ : List Comp} {s0_ : State} {v : Word} {s : State} (hl_ : [Comp.ras] ⊆ l_)
    (h_ : Only l_ s0_ s) : Only l_ s0_ (rasGo v s) := by
  unfold rasGo
  try dsimp only
  repeat' (first
    | with_reducible exact h_
    | with_reducible exact hl_
    | with_reducible apply modRas_only
    | with_reducible apply only_ite)

theorem startTransition_only {l_ : List Comp} {s0_ : State} {old : State} {t0 : Int} {s : State} (hl_ : [Comp.regs, .teller, .ras] ⊆ l_)
    (h_ : Only l_ s0_ s) : Only l_ s0_ (startTransition old t0 s) := by
  unfold startTransition
  try dsimp only
  repeat' (first
    | with_reducible exact h_
    | with_reducible exact hl_
    | with_reducible apply setFlag_only
    | with_reducible apply notify_only
    | with_reducible apply modRas_only
    | with_reducible apply ltrStart_only
    | with_reducible apply only_ite
    | exact List.Subset.trans (by decide) hl_)

theorem rasHalt_only {l_ : List Comp} {s0_ : State} {s : State} (hl_ : [Comp.ras] ⊆ l_)
    (h_ : Only l_ s0_ s) : Only l_ s0_ (rasHalt s) := by
  unfold rasHalt
  try dsimp only
  repeat' (first
    | with_reducible exact h_
    | with_reducible exact hl_
    | with_reducible apply modRas_only
    | exact List.Subset.trans (by decide) hl_)

theorem rasNext_only {l_ : List Comp} {s0_ : State} {s : State} (hl_ : [Comp.ras] ⊆ l_)
    (h_ : Only l_ s0_ s) : Only l_ s0_ (rasNext s) := by
  unfold rasNext
  try dsimp only
  repeat' (first
    | with_reducible exact h_
    | with_reducible exact hl_
    | with_reducible apply modRas_only
    | exact List.Subset.trans (by decide) hl_)

theorem rasSlip_only {l_ : List Comp} {s0_ : State} {s : State} (hl_ : [Comp.regs, .ras] ⊆ l_)
    (h_ : Only l_ s0_ s) : Only l_ s0_ (rasSlip s) := by
  unfold rasSlip
  try dsimp only
  repeat' (first
    | with_reducible exact h_
    | with_reducible exact hl_
    | with_reducible apply bump_only
    | with_reducible apply setFlag_only
    | with_reducible apply modRas_only
    | with_reducible apply only_ite
    | exact List.Subset.trans (by decide) hl_)

theorem rasScan_only {l_ : List Comp} {s0_ : State} {j : Int} {s : State} (hl_ : [Comp.regs, .ras] ⊆ l_)
    (h_ : Only l_ s0_ s) : Only l_ s0_ (rasScan j s) := by
  unfold rasScan
  try dsimp only
  repeat' (first
    | with_reducible exact h_
    | with_reducible exact hl_
    | with_reducible apply bump_only
    | with_reducible apply modRas_only
    | with_reducible apply only_ite
    | exact List.Subset.trans (by decide) hl_
    | dsimp only
    | split)

theorem rasFrameStart_only {l_ : List Comp} {s0_ : State} {s : State} (hl_ : [Comp.regs, .teller, .ras] ⊆ l_)
    (h_ : Only l_ s0_ s) : Only l_ s0_ (rasFrameStart s) := by
  unfold rasFrameStart
  try dsimp only
  repeat' (first
    | with_reducible exact h_
    | with_reducible exact hl_
    | with_reducible apply setFlag_only
    | with_reducible apply modRas_only
    | with_reducible apply rasCopy_only
    | with_reducible apply startTransition_only
    | with_reducible apply rasHalt_only
    | with_reducible apply rasNext_only
    | with_reducible apply rasSlip_only
    | with_reducible apply rasScan_only
    | with_reducible apply only_ite
    | exact List.Subset.trans (by decide) hl_
    | dsimp only
    | split)

theorem rasLine_only {l_ : List Comp} {s0_ : State} {l : Nat} {s : State} (hl_ : [Comp.regs, .ras] ⊆ l_)
    (h_ : Only l_ s0_ s) : Only l_ s0_ (rasLine l s) := by
  unfold rasLine
  try dsimp only
  repeat' (first
    | with_reducible exact h_
    | with_reducible exact hl_
    | with_reducible apply setFlag_only
    | with_reducible apply modRas_only
    | with_reducible apply only_ite
    | exact List.Subset.trans (by decide) hl_)

theorem execRasterFrameDone_only {l_ : List Comp} {s0_ : State} {t : Nat} {s : State} (hl_ : [Comp.regs, .time, .ras] ⊆ l_)
    (h_ : Only l_ s0_ s) : OutOnly l_ s0_ (execRasterFrameDone t s) := by
  unfold execRasterFrameDone
  try dsimp only
  repeat' (first
    | with_reducible exact h_
    | with_reducible exact hl_
    | with_reducible apply advance_only
    | with_reducible apply setFlag_only
    | with_reducible apply modRas_only
    | with_reducible apply OutOnly.ite
    | with_reducible apply only_ite
    | with_reducible apply OutOnly.next
    | exact List.Subset.trans (by decide) hl_
    | dsimp only
    | split)

theorem sendUnder_only {l_ : List Comp} {s0_ : State} {s : State} (hl_ : [Comp.regs, .teller, .ras] ⊆ l_)
    (h_ : Only l_ s0_ s) : Only l_ s0_ (sendUnder s) := by
  unfold sendUnder
  try dsimp only
  repeat' (first
    | with_reducible exact h_
    | with_reducible exact hl_
    | with_reducible apply notify_only
    | with_reducible apply modRas_only
    | with_reducible apply only_ite
    | exact List.Subset.trans (by decide) hl_)

theorem blackLine_only {l_ : List Comp} {s0_ : State} {line : Nat} {sample : Nat} {s : State} (hl_ : [Comp.ras] ⊆ l_)
    (h_ : Only l_ s0_ s) : Only l_ s0_ (blackLine line sample s) := by
  unfold blackLine
  try dsimp only
  repeat' (first
    | with_reducible exact h_
    | with_reducible exact hl_
    | with_reducible apply modRas_only
    | with_reducible apply only_ite
    | exact List.Subset.trans (by decide) hl_)

theorem execScanUnderrun_only {l_ : List Comp} {s0_ : State} {t : Nat} {line : Nat} {sample : Nat} {s : State} (hl_ : [Comp.regs, .time, .teller, .ras] ⊆ l_)
    (h_ : Only l_ s0_ s) : OutOnly l_ s0_ (execScanUnderrun t line sample s) := by
  unfold execScanUnderrun
  try dsimp only
  repeat' (first
    | with_reducible exact h_
    | with_reducible exact hl_
    | with_reducible apply advance_only
    | with_reducible apply bump_only
    | with_reducible apply setFlag_only
    | with_reducible apply modRas_only
    | with_reducible apply sendUnder_only
    | with_reducible apply blackLine_only
    | with_reducible apply OutOnly.ite
    | with_reducible apply only_ite
    | with_reducible apply OutOnly.next
    | exact List.Subset.trans (by decide) hl_
    | dsimp only
    | split)

theorem scanParity_only {l_ : List Comp} {s0_ : State} {sample : Nat} {s : State} (hl_ : [Comp.regs, .ras] ⊆ l_)
    (h_ : Only l_ s0_ s) : Only l_ s0_ (scanParity sample s) := by
  unfold scanParity
  try dsimp only
  repeat' (first
    | with_reducible exact h_
    | with_reducible exact hl_
    | with_reducible apply bump_only
    | with_reducible apply modRas_only
    | with_reducible apply blackLine_only
    | with_reducible apply only_ite
    | exact List.Subset.trans (by decide) hl_
    | dsimp only
    | split)

theorem execLtrRecompute_only {l_ : List Comp} {s0_ : State} {t : Nat} {bytes : Nat} {s : State} (hl_ : [Comp.time, .ras] ⊆ l_)
    (h_ : Only l_ s0_ s) : OutOnly l_ s0_ (execLtrRecompute t bytes s) := by
  unfold execLtrRecompute
  try dsimp only
  repeat' (first
    | with_reducible exact h_
    | with_reducible exact hl_
    | with_reducible apply advance_only
    | with_reducible apply modRas_only
    | with_reducible apply OutOnly.ite
    | with_reducible apply only_ite
    | with_reducible apply OutOnly.next
    | exact List.Subset.trans (by decide) hl_)

theorem frameRas_only {l_ : List Comp} {s0_ : State} {k : Int} {s : State} (hl_ : [Comp.regs, .teller, .ras] ⊆ l_)
    (h_ : Only l_ s0_ s) : Only l_ s0_ (frameRas k s) := by
  unfold frameRas
  try dsimp only
  repeat' (first
    | with_reducible exact h_
    | with_reducible exact hl_
    | with_reducible apply modRas_only
    | with_reducible apply rasCopy_only
    | with_reducible apply monBegin_only
    | with_reducible apply startTransition_only
    | with_reducible apply rasNext_only
    | with_reducible apply sendUnder_only
    | with_reducible apply only_ite
    | exact List.Subset.trans (by decide) hl_
    | dsimp only
    | split)

theorem rasStart_only {l_ : List Comp} {s0_ : State} {s : State} (hl_ : [Comp.ras] ⊆ l_)
    (h_ : Only l_ s0_ s) : Only l_ s0_ (rasStart s) := by
  unfold rasStart
  try dsimp only
  repeat' (first
    | with_reducible exact h_
    | with_reducible exact hl_
    | with_reducible apply modRas_only
    | with_reducible apply ltrStart_only
    | with_reducible apply only_ite
    | exact List.Subset.trans (by decide) hl_)

theorem rasStop_only {l_ : List Comp} {s0_ : State} {s : State} (hl_ : [Comp.ras] ⊆ l_)
    (h_ : Only l_ s0_ s) : Only l_ s0_ (rasStop s) := by
  unfold rasStop
  try dsimp only
  repeat' (first
    | with_reducible exact h_
    | with_reducible exact hl_
    | with_reducible apply modRas_only
    | with_reducible apply rasHalt_only)

theorem rasWrite_only {l_ : List Comp} {s0_ : State} {r : Cfg} {s : State} (hl_ : [Comp.regs] ⊆ l_)
    (h_ : Only l_ s0_ s) : Only l_ s0_ (rasWrite r s) := by
  unfold rasWrite
  try dsimp only
  repeat' (first
    | with_reducible exact h_
    | with_reducible exact hl_
    | with_reducible assumption
    | with_reducible apply setReg_only
    | with_reducible apply setReg64_only
    | with_reducible refine only_foldl ?_ (fun _ _ _ => ?_)
    | with_reducible apply only_ite
    | with_reducible apply only_ite_fst
    | exact List.Subset.trans (by decide) hl_
    | dsimp only
    | split)

theorem rasCommit_only {l_ : List Comp} {s0_ : State} {tag : Int} {write : Bool} {r : Cfg} {s : State} (hl_ : [Comp.regs, .ras] ⊆ l_)
    (h_ : Only l_ s0_ s) : Only l_ s0_ (rasCommit tag write r s) := by
  unfold rasCommit
  try dsimp only
  repeat' (first
    | with_reducible exact h_
    | with_reducible exact hl_
    | with_reducible apply setReg_only
    | with_reducible apply modRas_only
    | with_reducible apply rasWrite_only
    | with_reducible apply only_ite
    | exact List.Subset.trans (by decide) hl_)

theorem execMonitorSet_only {l_ : List Comp} {s0_ : State} {c : Call} {p : MonitorSet} {s : State} (hl_ : [Comp.regs, .time, .teller] ⊆ l_)
    (h_ : Only l_ s0_ s) : OutOnly l_ s0_ (execMonitorSet c p s) := by
  unfold execMonitorSet
  try dsimp only
  repeat' (first
    | with_reducible exact h_
    | with_reducible exact hl_
    | with_reducible apply configMessage_only)

theorem execMonitorStatusGet_only {l_ : List Comp} {s0_ : State} {c : Call} {s : State} (hl_ : [Comp.regs, .time, .teller] ⊆ l_)
    (h_ : Only l_ s0_ s) : OutOnly l_ s0_ (execMonitorStatusGet c s) := by
  unfold execMonitorStatusGet
  try dsimp only
  repeat' (first
    | with_reducible exact h_
    | with_reducible exact hl_
    | with_reducible assumption
    | with_reducible refine command_only ?_ ?_ (fun _ _ => ?_)
    | with_reducible apply answer_only
    | with_reducible apply OutOnly.ite
    | with_reducible apply only_ite
    | with_reducible apply OutOnly.next
    | exact List.Subset.trans (by decide) hl_)

end Sys2Proof.Laws
end

