-- ==== Sys2Proof/Laws/OnlyVault.lean ====
section
/-! SUPPORT. Which components of the machine the operations of Machine/Vault.lean may change. -/

namespace Sys2Proof.Laws

open Sys2Proof.Machine Sys2Proof.Safety

theorem modVlt_only {l_ : List Comp} {s0_ : State} {f : Vault → Vault} {s : State} (hl_ : [Comp.vlt] ⊆ l_)
    (h_ : Only l_ s0_ s) : Only l_ s0_ (modVlt f s) := by
  unfold modVlt
  try dsimp only
  repeat' (first
    | with_reducible exact h_
    | with_reducible exact hl_
    | with_reducible apply only_ite
    | fail_if_no_progress ((with_reducible refine only_mk (k := [.vlt]) ?_ ?_ ?lit); case lit => exact fun c hc => by cases c <;> first | with_reducible rfl | exact absurd (by decide) hc))

theorem unauth_only {l_ : List Comp} {s0_ : State} {s : State} (hl_ : [Comp.regs] ⊆ l_)
    (h_ : Only l_ s0_ s) : Only l_ s0_ (unauth s).1 := by
  unfold unauth
  try dsimp only
  repeat' (first
    | with_reducible exact h_
    | with_reducible exact hl_
    | with_reducible apply bump_only)

theorem drbgRequest_only {l_ : List Comp} {s0_ : State} {s : State} (hl_ : [Comp.regs, .vlt] ⊆ l_)
    (h_ : Only l_ s0_ s) : Only l_ s0_ (drbgRequest s) := by
  unfold drbgRequest
  try dsimp only
  repeat' (first
    | with_reducible exact h_
    | with_reducible exact hl_
    | with_reducible apply bump_only
    | with_reducible apply modVlt_only
    | with_reducible apply only_ite
    | exact List.Subset.trans (by decide) hl_)

theorem sigFail_only {l_ : List Comp} {s0_ : State} {s : State} (hl_ : [Comp.regs] ⊆ l_)
    (h_ : Only l_ s0_ s) : Only l_ s0_ (sigFail s).1 := by
  unfold sigFail
  try dsimp only
  repeat' (first
    | with_reducible exact h_
    | with_reducible exact hl_
    | with_reducible apply bump_only
    | with_reducible apply unauth_only)

theorem writeBoot_only {l_ : List Comp} {s0_ : State} {f : BootRecord → BootRecord} {s : State} (hl_ : [Comp.vlt] ⊆ l_)
    (h_ : Only l_ s0_ s) : Only l_ s0_ (writeBoot f s) := by
  unfold writeBoot
  try dsimp only
  repeat' (first
    | with_reducible exact h_
    | with_reducible exact hl_
    | with_reducible apply modVlt_only)

theorem modBank_only {l_ : List Comp} {s0_ : State} {b : Nat} {f : Bank → Bank} {s : State} (hl_ : [Comp.vlt] ⊆ l_)
    (h_ : Only l_ s0_ s) : Only l_ s0_ (modBank b f s) := by
  unfold modBank
  try dsimp only
  repeat' (first
    | with_reducible exact h_
    | with_reducible exact hl_
    | with_reducible apply modVlt_only)

theorem startRecovery_only {l_ : List Comp} {s0_ : State} {failed : Nat} {reason : Option Nat} {version : Nat} {s : State} (hl_ : [Comp.vlt] ⊆ l_)
    (h_ : Only l_ s0_ s) : Only l_ s0_ (startRecovery failed reason version s) := by
  unfold startRecovery
  try dsimp only
  repeat' (first
    | with_reducible exact h_
    | with_reducible exact hl_
    | with_reducible apply modVlt_only)

theorem startBank_only {l_ : List Comp} {s0_ : State} {b : Nat} {fell : Option (Nat × Nat × Nat)} {s : State} (hl_ : [Comp.vlt] ⊆ l_)
    (h_ : Only l_ s0_ s) : Only l_ s0_ (startBank b fell s) := by
  unfold startBank
  try dsimp only
  repeat' (first
    | with_reducible exact h_
    | with_reducible exact hl_
    | with_reducible apply modVlt_only)

theorem fellBack_only {l_ : List Comp} {s0_ : State} {s : State} (hl_ : [Comp.power] ⊆ l_)
    (h_ : Only l_ s0_ s) : Only l_ s0_ (fellBack s) := by
  unfold fellBack
  try dsimp only
  repeat' (first
    | with_reducible exact h_
    | with_reducible exact hl_
    | with_reducible apply only_ite
    | fail_if_no_progress ((with_reducible refine only_mk (k := [.power]) ?_ ?_ ?lit); case lit => exact fun c hc => by cases c <;> first | with_reducible rfl | exact absurd (by decide) hc))

theorem bootSigFail_only {l_ : List Comp} {s0_ : State} {s : State} {corrupt : Nat} {b : Nat} (hl_ : [Comp.regs] ⊆ l_)
    (h_ : Only l_ s0_ s) : Only l_ s0_ (bootSigFail s corrupt b) := by
  unfold bootSigFail
  try dsimp only
  repeat' (first
    | with_reducible exact h_
    | with_reducible exact hl_
    | with_reducible apply bump_only
    | with_reducible apply only_ite
    | exact List.Subset.trans (by decide) hl_
    | dsimp only
    | split)

theorem bootBank_only {l_ : List Comp} {s0_ : State} {fuel corrupt : Nat} {fell : Option (Nat × Nat × Nat)} {s : State} (hl_ : [Comp.regs, .power, .vlt] ⊆ l_) (h_ : Only l_ s0_ s) :
    Only l_ s0_ (bootBank fuel corrupt fell s) := by
  induction fuel generalizing fell s with
  | zero => exact h_
  | succ n ih =>
    unfold bootBank
    dsimp only
    repeat' (first
      | with_reducible assumption
      | with_reducible apply startBank_only
      | with_reducible apply startRecovery_only
      | with_reducible apply writeBoot_only
      | with_reducible apply bootSigFail_only
      | with_reducible apply ih
      | with_reducible apply fellBack_only
      | with_reducible apply only_ite
      | split
      | exact List.Subset.trans (by decide) hl_)

theorem bootRom_only {l_ : List Comp} {s0_ : State} {p : BootPins} {s : State} (hl_ : [Comp.regs, .power, .vlt] ⊆ l_)
    (h_ : Only l_ s0_ s) : Only l_ s0_ (bootRom p s) := by
  unfold bootRom
  try dsimp only
  repeat' (first
    | with_reducible exact h_
    | with_reducible exact hl_
    | with_reducible apply bump_only
    | with_reducible apply modVlt_only
    | with_reducible apply writeBoot_only
    | with_reducible apply startRecovery_only
    | with_reducible apply bootBank_only
    | with_reducible apply only_ite
    | exact List.Subset.trans (by decide) hl_)

theorem bootConfirm_only {l_ : List Comp} {s0_ : State} {s : State} (hl_ : [Comp.vlt] ⊆ l_)
    (h_ : Only l_ s0_ s) : Only l_ s0_ (bootConfirm s) := by
  unfold bootConfirm
  try dsimp only
  repeat' (first
    | with_reducible exact h_
    | with_reducible exact hl_
    | with_reducible apply writeBoot_only
    | with_reducible apply only_ite
    | exact List.Subset.trans (by decide) hl_
    | dsimp only
    | split)

theorem bootFallback_only {l_ : List Comp} {s0_ : State} {s : State} (hl_ : [Comp.regs, .teller, .vlt] ⊆ l_)
    (h_ : Only l_ s0_ s) : Only l_ s0_ (bootFallback s) := by
  unfold bootFallback
  try dsimp only
  repeat' (first
    | with_reducible exact h_
    | with_reducible exact hl_
    | with_reducible apply notify_only
    | with_reducible apply modVlt_only
    | with_reducible apply only_ite
    | exact List.Subset.trans (by decide) hl_
    | dsimp only
    | split)

theorem deviceKey_only {l_ : List Comp} {s0_ : State} {s : State} (hl_ : [Comp.regs, .free, .vlt] ⊆ l_)
    (h_ : Only l_ s0_ s) : Only l_ s0_ (deviceKey s) := by
  unfold deviceKey
  try dsimp only
  repeat' (first
    | with_reducible exact h_
    | with_reducible exact hl_
    | with_reducible apply draw_only
    | with_reducible apply modVlt_only
    | with_reducible apply drbgRequest_only
    | with_reducible apply only_ite
    | exact List.Subset.trans (by decide) hl_)

theorem blockSag_only {l_ : List Comp} {s0_ : State} {s : State} (hl_ : [Comp.regs, .teller, .vlt] ⊆ l_)
    (h_ : Only l_ s0_ s) : Only l_ s0_ (blockSag s) := by
  unfold blockSag
  try dsimp only
  repeat' (first
    | with_reducible exact h_
    | with_reducible exact hl_
    | with_reducible apply respondOwed_only
    | with_reducible apply modVlt_only
    | with_reducible apply only_ite
    | exact List.Subset.trans (by decide) hl_
    | dsimp only
    | split)

end Sys2Proof.Laws
end

