-- ==== Sys2Proof/Laws/OnlyRedundancy.lean ====
section
/-! SUPPORT. Which components of the machine the operations of Machine/Redundancy.lean may change. -/

namespace Sys2Proof.Laws

open Sys2Proof.Machine Sys2Proof.Safety

theorem leaseSend_only {l_ : List Comp} {s0_ : State} {type : Nat} {g : Nat} {flags : Nat} {s : State} (hl_ : [Comp.mac, .esc] ⊆ l_)
    (h_ : Only l_ s0_ s) : Only l_ s0_ (leaseSend type g flags s) := by
  unfold leaseSend
  try dsimp only
  repeat' (first
    | with_reducible exact h_
    | with_reducible exact hl_
    | with_reducible apply macSend_only
    | with_reducible apply modEsc_only
    | with_reducible apply only_ite
    | exact List.Subset.trans (by decide) hl_)

theorem leaseAsk_only {l_ : List Comp} {s0_ : State} {g : Nat} {s : State} (hl_ : [Comp.mac, .esc] ⊆ l_)
    (h_ : Only l_ s0_ s) : Only l_ s0_ (leaseAsk g s) := by
  unfold leaseAsk
  try dsimp only
  repeat' (first
    | with_reducible exact h_
    | with_reducible exact hl_
    | with_reducible apply modLease_only
    | with_reducible apply leaseSend_only
    | with_reducible apply only_ite
    | exact List.Subset.trans (by decide) hl_)

theorem execLeaseRequestInterval_only {l_ : List Comp} {s0_ : State} {t : Nat} {group : Fin 16} {s : State} (hl_ : [Comp.time, .mac, .esc] ⊆ l_)
    (h_ : Only l_ s0_ s) : OutOnly l_ s0_ (execLeaseRequestInterval t group s) := by
  unfold execLeaseRequestInterval
  try dsimp only
  repeat' (first
    | with_reducible exact h_
    | with_reducible exact hl_
    | with_reducible apply advance_only
    | with_reducible apply leaseAsk_only
    | with_reducible apply OutOnly.ite
    | with_reducible apply only_ite
    | with_reducible apply OutOnly.next
    | exact List.Subset.trans (by decide) hl_)

theorem leaseGrant_only {l_ : List Comp} {s0_ : State} {f : LeaseFrame} {s : State} (hl_ : [Comp.regs, .teller, .power, .alm, .pho, .pool, .pkt, .rad, .esc, .map] ⊆ l_)
    (h_ : Only l_ s0_ s) : Only l_ s0_ (leaseGrant f s) := by
  unfold leaseGrant
  try dsimp only
  repeat' (first
    | with_reducible exact h_
    | with_reducible exact hl_
    | with_reducible apply modLease_only
    | with_reducible apply takeGroup_only
    | with_reducible apply only_ite
    | exact List.Subset.trans (by decide) hl_
    | dsimp only
    | split)

theorem leaseIn_only {l_ : List Comp} {s0_ : State} {f : LeaseFrame} {s : State} (hl_ : [Comp.regs, .teller, .power, .alm, .pho, .pool, .pkt, .rad, .esc, .map] ⊆ l_)
    (h_ : Only l_ s0_ s) : Only l_ s0_ (leaseIn f s) := by
  unfold leaseIn
  try dsimp only
  repeat' (first
    | with_reducible exact h_
    | with_reducible exact hl_
    | with_reducible apply bump_only
    | with_reducible apply loseLease_only
    | with_reducible apply sawLease_only
    | with_reducible apply leaseGrant_only
    | with_reducible apply only_ite
    | exact List.Subset.trans (by decide) hl_
    | dsimp only
    | split)

theorem execLeaseFrameReceived_only {l_ : List Comp} {s0_ : State} {t : Nat} {f : LeaseFrame} {s : State} (hl_ : [Comp.regs, .time, .teller, .power, .alm, .pho, .pool, .pkt, .rad, .esc, .map] ⊆ l_)
    (h_ : Only l_ s0_ s) : OutOnly l_ s0_ (execLeaseFrameReceived t f s) := by
  unfold execLeaseFrameReceived
  try dsimp only
  repeat' (first
    | with_reducible exact h_
    | with_reducible exact hl_
    | with_reducible apply advance_only
    | with_reducible apply leaseIn_only
    | with_reducible apply OutOnly.ite
    | with_reducible apply only_ite
    | with_reducible apply OutOnly.next
    | exact List.Subset.trans (by decide) hl_)

theorem execLeaseExpiry_only {l_ : List Comp} {s0_ : State} {t : Nat} {group : Fin 16} {s : State} (hl_ : [Comp.regs, .time, .teller, .power, .esc] ⊆ l_)
    (h_ : Only l_ s0_ s) : OutOnly l_ s0_ (execLeaseExpiry t group s) := by
  unfold execLeaseExpiry
  try dsimp only
  repeat' (first
    | with_reducible exact h_
    | with_reducible exact hl_
    | with_reducible apply advance_only
    | with_reducible apply loseLease_only
    | with_reducible apply OutOnly.ite
    | with_reducible apply only_ite
    | with_reducible apply OutOnly.next
    | exact List.Subset.trans (by decide) hl_)

theorem releaseGroups_only {l_ : List Comp} {s0_ : State} {gs : List Nat} {s : State} (hl_ : [Comp.regs, .teller, .power, .mac, .esc] ⊆ l_)
    (h_ : Only l_ s0_ s) : Only l_ s0_ (releaseGroups gs s) := by
  unfold releaseGroups
  try dsimp only
  repeat' (first
    | with_reducible exact h_
    | with_reducible exact hl_
    | with_reducible assumption
    | with_reducible apply loseLease_only
    | with_reducible apply leaseSend_only
    | with_reducible refine only_foldl ?_ (fun _ _ _ => ?_)
    | with_reducible apply only_ite
    | exact List.Subset.trans (by decide) hl_)

theorem probeSend_only {l_ : List Comp} {s0_ : State} {p : Nat} {seq : Word} {reply : Bool} {s : State} (hl_ : [Comp.regs, .mac, .esc] ⊆ l_)
    (h_ : Only l_ s0_ s) : Only l_ s0_ (probeSend p seq reply s) := by
  unfold probeSend
  try dsimp only
  repeat' (first
    | with_reducible exact h_
    | with_reducible exact hl_
    | with_reducible apply chkRun_only
    | with_reducible apply portEnqueue_only
    | with_reducible apply modEsc_only
    | with_reducible apply only_ite
    | exact List.Subset.trans (by decide) hl_)

theorem probeAll_only {l_ : List Comp} {s0_ : State} {s : State} (hl_ : [Comp.regs, .mac, .esc] ⊆ l_)
    (h_ : Only l_ s0_ s) : Only l_ s0_ (probeAll s) := by
  unfold probeAll
  try dsimp only
  repeat' (first
    | with_reducible exact h_
    | with_reducible exact hl_
    | with_reducible assumption
    | with_reducible apply modEsc_only
    | with_reducible apply probeSend_only
    | with_reducible refine only_foldl ?_ (fun _ _ _ => ?_)
    | with_reducible apply only_ite
    | exact List.Subset.trans (by decide) hl_)

theorem execProbeInterval_only {l_ : List Comp} {s0_ : State} {t : Nat} {s : State} (hl_ : [Comp.regs, .time, .mac, .esc] ⊆ l_)
    (h_ : Only l_ s0_ s) : OutOnly l_ s0_ (execProbeInterval t s) := by
  unfold execProbeInterval
  try dsimp only
  repeat' (first
    | with_reducible exact h_
    | with_reducible exact hl_
    | with_reducible apply advance_only
    | with_reducible apply probeAll_only
    | with_reducible apply OutOnly.ite
    | with_reducible apply only_ite
    | with_reducible apply OutOnly.next
    | exact List.Subset.trans (by decide) hl_)

theorem probeIn_only {l_ : List Comp} {s0_ : State} {p : Nat} {f : EscFragment} {s : State} (hl_ : [Comp.regs, .teller, .protect, .mac, .esc] ⊆ l_)
    (h_ : Only l_ s0_ s) : Only l_ s0_ (probeIn p f s) := by
  unfold probeIn
  try dsimp only
  repeat' (first
    | with_reducible exact h_
    | with_reducible exact hl_
    | with_reducible apply bump_only
    | with_reducible apply modEsc_only
    | with_reducible apply pathGood_only
    | with_reducible apply aliveJudge_only
    | with_reducible apply probeSend_only
    | with_reducible apply only_ite
    | exact List.Subset.trans (by decide) hl_
    | dsimp only
    | split)

theorem execProbeReceived_only {l_ : List Comp} {s0_ : State} {t : Nat} {port : Fin 8} {payload : List (BitVec 8)} {s : State} (hl_ : [Comp.regs, .time, .teller, .protect, .mac, .esc] ⊆ l_)
    (h_ : Only l_ s0_ s) : OutOnly l_ s0_ (execProbeReceived t port payload s) := by
  unfold execProbeReceived
  try dsimp only
  repeat' (first
    | with_reducible exact h_
    | with_reducible exact hl_
    | with_reducible apply advance_only
    | with_reducible apply chkRun_only
    | with_reducible apply probeIn_only
    | with_reducible apply OutOnly.ite
    | with_reducible apply only_ite
    | with_reducible apply OutOnly.next
    | exact List.Subset.trans (by decide) hl_
    | dsimp only
    | split)

theorem execProbeTimeout_only {l_ : List Comp} {s0_ : State} {t : Nat} {port : Fin 8} {s : State} (hl_ : [Comp.regs, .time, .teller, .esc] ⊆ l_)
    (h_ : Only l_ s0_ s) : OutOnly l_ s0_ (execProbeTimeout t port s) := by
  unfold execProbeTimeout
  try dsimp only
  repeat' (first
    | with_reducible exact h_
    | with_reducible exact hl_
    | with_reducible apply advance_only
    | with_reducible apply modEsc_only
    | with_reducible apply pathMiss_only
    | with_reducible apply OutOnly.ite
    | with_reducible apply only_ite
    | with_reducible apply OutOnly.next
    | exact List.Subset.trans (by decide) hl_
    | dsimp only
    | split)

theorem pairSet_only {l_ : List Comp} {s0_ : State} {p : PairSet} {s : State} (hl_ : [Comp.regs, .esc] ⊆ l_)
    (h_ : Only l_ s0_ s) : Only l_ s0_ (pairSet p s) := by
  unfold pairSet
  try dsimp only
  repeat' (first
    | with_reducible exact h_
    | with_reducible exact hl_
    | with_reducible apply setReg_only
    | with_reducible apply setField_only
    | with_reducible apply modEsc_only
    | with_reducible apply only_ite
    | exact List.Subset.trans (by decide) hl_)

theorem execPairRelease_only {l_ : List Comp} {s0_ : State} {c : Call} {mask : Nat} {s : State} (hl_ : [Comp.regs, .time, .teller, .power, .mac, .esc] ⊆ l_)
    (h_ : Only l_ s0_ s) : OutOnly l_ s0_ (execPairRelease c mask s) := by
  unfold execPairRelease
  try dsimp only
  repeat' (first
    | with_reducible exact h_
    | with_reducible exact hl_
    | with_reducible assumption
    | with_reducible apply respond_only
    | with_reducible refine command_only ?_ ?_ (fun _ _ => ?_)
    | with_reducible apply accept_only
    | with_reducible apply releaseGroups_only
    | with_reducible apply OutOnly.ite
    | with_reducible apply only_ite
    | with_reducible apply OutOnly.next
    | exact List.Subset.trans (by decide) hl_)

theorem execPairStatusGet_only {l_ : List Comp} {s0_ : State} {c : Call} {s : State} (hl_ : [Comp.regs, .time, .teller] ⊆ l_)
    (h_ : Only l_ s0_ s) : OutOnly l_ s0_ (execPairStatusGet c s) := by
  unfold execPairStatusGet
  try dsimp only
  repeat' (first
    | with_reducible exact h_
    | with_reducible exact hl_
    | with_reducible assumption
    | with_reducible refine command_only ?_ ?_ (fun _ _ => ?_)
    | with_reducible apply answer_only
    | with_reducible apply OutOnly.ite
    | with_reducible apply only_ite
    | with_reducible apply OutOnly.next
    | exact List.Subset.trans (by decide) hl_)

theorem escStop_only {l_ : List Comp} {s0_ : State} {s : State} (hl_ : [Comp.esc] ⊆ l_)
    (h_ : Only l_ s0_ s) : Only l_ s0_ (escStop s) := by
  unfold escStop
  try dsimp only
  repeat' (first
    | with_reducible exact h_
    | with_reducible exact hl_
    | with_reducible apply modEsc_only
    | exact List.Subset.trans (by decide) hl_)

end Sys2Proof.Laws
end

