-- ==== Sys2Proof/Laws/OnlyStrings.lean ====
section
/-! SUPPORT. Which components of the machine the operations of Machine/Strings.lean may change. -/

namespace Sys2Proof.Laws

open Sys2Proof.Machine Sys2Proof.Safety

theorem modLamps_only {l_ : List Comp} {s0_ : State} {f : List LampEntry → List LampEntry} {s : State} (hl_ : [Comp.lamps] ⊆ l_)
    (h_ : Only l_ s0_ s) : Only l_ s0_ (modLamps f s) := by
  unfold modLamps
  try dsimp only
  repeat' (first
    | with_reducible exact h_
    | with_reducible exact hl_
    | with_reducible apply only_ite
    | fail_if_no_progress ((with_reducible refine only_mk (k := [.lamps]) ?_ ?_ ?lit); case lit => exact fun c hc => by cases c <;> first | with_reducible rfl | exact absurd (by decide) hc))

theorem lampReport_only {l_ : List Comp} {s0_ : State} {l : Nat} {i : Nat} {again : Bool} {full : Bool} {x : Nat × Nat × Nat} {s : State} (hl_ : [Comp.regs, .teller] ⊆ l_)
    (h_ : Only l_ s0_ s) : Only l_ s0_ (lampReport l i again full x s) := by
  unfold lampReport
  try dsimp only
  repeat' (first
    | with_reducible exact h_
    | with_reducible exact hl_
    | with_reducible apply notify_only
    | exact List.Subset.trans (by decide) hl_)

theorem lampFound_only {l_ : List Comp} {s0_ : State} {l : Nat} {i : Nat} {again : Bool} {s : State} {x : Nat × Nat × Nat} (hl_ : [Comp.regs, .teller, .lamps] ⊆ l_)
    (h_ : Only l_ s0_ s) : Only l_ s0_ (lampFound l i again s x) := by
  unfold lampFound
  try dsimp only
  repeat' (first
    | with_reducible exact h_
    | with_reducible exact hl_
    | with_reducible apply bump_only
    | with_reducible apply setFlag_only
    | with_reducible apply modLamps_only
    | with_reducible apply lampReport_only
    | with_reducible apply only_ite
    | exact List.Subset.trans (by decide) hl_)

theorem mapDone_only {l_ : List Comp} {s0_ : State} {l : Nat} {i : Nat} {again : Bool} {s : State} (hl_ : [Comp.regs, .teller, .lanes, .lamps] ⊆ l_)
    (h_ : Only l_ s0_ s) : Only l_ s0_ (mapDone l i again s) := by
  unfold mapDone
  try dsimp only
  repeat' (first
    | with_reducible exact h_
    | with_reducible exact hl_
    | with_reducible assumption
    | with_reducible apply modLane_only
    | with_reducible apply lampReport_only
    | with_reducible apply lampFound_only
    | with_reducible refine only_foldl ?_ (fun _ _ _ => ?_)
    | with_reducible apply only_ite
    | with_reducible apply only_ite_fst
    | exact List.Subset.trans (by decide) hl_)

theorem pollSend_only {l_ : List Comp} {s0_ : State} {l : Nat} {s : State} (hl_ : [Comp.regs, .teller, .alm, .lanes] ⊆ l_)
    (h_ : Only l_ s0_ s) : Only l_ s0_ (pollSend l s) := by
  unfold pollSend
  try dsimp only
  repeat' (first
    | with_reducible exact h_
    | with_reducible exact hl_
    | with_reducible apply modLane_only
    | with_reducible apply ctrlQueue_only
    | with_reducible apply ctrlSend_only
    | with_reducible apply only_ite
    | exact List.Subset.trans (by decide) hl_)

theorem ctrlNext_only {l_ : List Comp} {s0_ : State} {l : Nat} {s : State} (hl_ : [Comp.regs, .teller, .alm, .lanes] ⊆ l_)
    (h_ : Only l_ s0_ s) : Only l_ s0_ (ctrlNext l s) := by
  unfold ctrlNext
  try dsimp only
  repeat' (first
    | with_reducible exact h_
    | with_reducible exact hl_
    | with_reducible apply ctrlSend_only
    | with_reducible apply rangeNext_only
    | with_reducible apply pollSend_only
    | exact List.Subset.trans (by decide) hl_)

theorem stringFault_only {l_ : List Comp} {s0_ : State} {l : Nat} {i : Nat} {new : Nat} {s : State} {n : Nat} (hl_ : [Comp.regs, .teller] ⊆ l_)
    (h_ : Only l_ s0_ s) : Only l_ s0_ (stringFault l i new s n) := by
  unfold stringFault
  try dsimp only
  repeat' (first
    | with_reducible exact h_
    | with_reducible exact hl_
    | with_reducible apply bump_only
    | with_reducible apply setFlag_only
    | with_reducible apply notify_only
    | with_reducible apply only_ite
    | exact List.Subset.trans (by decide) hl_)

theorem sumReturn_only {l_ : List Comp} {s0_ : State} {l : Nat} {i : Nat} {w : Word} {s : State} (hl_ : [Comp.regs, .teller, .lanes] ⊆ l_)
    (h_ : Only l_ s0_ s) : Only l_ s0_ (sumReturn l i w s) := by
  unfold sumReturn
  try dsimp only
  repeat' (first
    | with_reducible exact h_
    | with_reducible exact hl_
    | with_reducible assumption
    | with_reducible apply bump_only
    | with_reducible apply modLane_only
    | with_reducible apply modChip_only
    | with_reducible apply ctrlQueue_only
    | with_reducible apply stringFault_only
    | with_reducible refine only_foldl ?_ (fun _ _ _ => ?_)
    | with_reducible apply only_ite
    | exact List.Subset.trans (by decide) hl_
    | dsimp only
    | split)

theorem lampApply_only {l_ : List Comp} {s0_ : State} {p : StrLampSet} {s : State} (hl_ : [Comp.regs, .lamps] ⊆ l_)
    (h_ : Only l_ s0_ s) : Only l_ s0_ (lampApply p s) := by
  unfold lampApply
  try dsimp only
  repeat' (first
    | with_reducible exact h_
    | with_reducible exact hl_
    | with_reducible assumption
    | with_reducible apply bump_only
    | with_reducible apply setFlag_only
    | with_reducible apply modLamps_only
    | with_reducible refine only_foldl ?_ (fun _ _ _ => ?_)
    | with_reducible apply only_ite
    | exact List.Subset.trans (by decide) hl_)

theorem lampFrames_only {l_ : List Comp} {s0_ : State} {c : Call} {p : StrLampSet} {s : State} (hl_ : [Comp.regs, .teller, .alm, .lanes, .lamps] ⊆ l_)
    (h_ : Only l_ s0_ s) : Only l_ s0_ (lampFrames c p s) := by
  unfold lampFrames
  try dsimp only
  repeat' (first
    | with_reducible exact h_
    | with_reducible exact hl_
    | with_reducible apply ctrlQueue_only
    | with_reducible apply ctrlNext_only
    | with_reducible apply lampApply_only
    | with_reducible apply only_ite
    | exact List.Subset.trans (by decide) hl_)

theorem execStrLampSet_only {l_ : List Comp} {s0_ : State} {c : Call} {p : StrLampSet} {s : State} (hl_ : [Comp.regs, .time, .teller, .alm, .lanes, .lamps] ⊆ l_)
    (h_ : Only l_ s0_ s) : OutOnly l_ s0_ (execStrLampSet c p s) := by
  unfold execStrLampSet
  try dsimp only
  repeat' (first
    | with_reducible exact h_
    | with_reducible exact hl_
    | with_reducible assumption
    | with_reducible refine command_only ?_ ?_ (fun _ _ => ?_)
    | with_reducible apply refuse_only
    | with_reducible apply lampFrames_only
    | with_reducible apply OutOnly.ite
    | with_reducible apply only_ite
    | with_reducible apply OutOnly.next
    | exact List.Subset.trans (by decide) hl_
    | dsimp only
    | split)

theorem execStrLaneSet_only {l_ : List Comp} {s0_ : State} {c : Call} {p : StrLaneSet} {s : State} (hl_ : [Comp.regs, .time, .teller] ⊆ l_)
    (h_ : Only l_ s0_ s) : OutOnly l_ s0_ (execStrLaneSet c p s) := by
  unfold execStrLaneSet
  try dsimp only
  repeat' (first
    | with_reducible exact h_
    | with_reducible exact hl_
    | with_reducible apply configMessage_only)

theorem execStrFaultGet_only {l_ : List Comp} {s0_ : State} {c : Call} {first : Nat} {count : Nat} {s : State} (hl_ : [Comp.regs, .time, .teller] ⊆ l_)
    (h_ : Only l_ s0_ s) : OutOnly l_ s0_ (execStrFaultGet c first count s) := by
  unfold execStrFaultGet
  try dsimp only
  repeat' (first
    | with_reducible exact h_
    | with_reducible exact hl_
    | with_reducible assumption
    | with_reducible refine command_only ?_ ?_ (fun _ _ => ?_)
    | with_reducible apply refuse_only
    | with_reducible apply answer_only
    | with_reducible apply OutOnly.ite
    | with_reducible apply only_ite
    | with_reducible apply OutOnly.next
    | exact List.Subset.trans (by decide) hl_
    | dsimp only
    | split)

theorem ctrlComplete_only {l_ : List Comp} {s0_ : State} {l : Nat} {c : Ctrl} {data : Word} {status : Nat} {s : State} (hl_ : [Comp.regs, .teller, .alm, .fxm, .pho, .lanes, .lamps] ⊆ l_)
    (h_ : Only l_ s0_ s) : Only l_ s0_ (ctrlComplete l c data status s) := by
  unfold ctrlComplete
  try dsimp only
  repeat' (first
    | with_reducible exact h_
    | with_reducible exact hl_
    | with_reducible apply respondOwed_only
    | with_reducible apply chipForget_only
    | with_reducible apply modLane_only
    | with_reducible apply modChip_only
    | with_reducible apply provision_only
    | with_reducible apply chipEpochReport_only
    | with_reducible apply mapDone_only
    | with_reducible apply sumReturn_only
    | with_reducible apply only_ite
    | exact List.Subset.trans (by decide) hl_
    | dsimp only
    | split)

theorem mapBroken_only {l_ : List Comp} {s0_ : State} {l : Nat} {c : Ctrl} {s : State} (hl_ : [Comp.lanes] ⊆ l_)
    (h_ : Only l_ s0_ s) : Only l_ s0_ (mapBroken l c s) := by
  unfold mapBroken
  try dsimp only
  repeat' (first
    | with_reducible exact h_
    | with_reducible exact hl_
    | with_reducible apply modLane_only
    | with_reducible apply modChip_only
    | with_reducible apply only_ite
    | exact List.Subset.trans (by decide) hl_
    | dsimp only
    | split)

theorem commitLost_only {l_ : List Comp} {s0_ : State} {l : Nat} {c : Ctrl} {s : State} (hl_ : [Comp.lanes] ⊆ l_)
    (h_ : Only l_ s0_ s) : Only l_ s0_ (commitLost l c s) := by
  unfold commitLost
  try dsimp only
  repeat' (first
    | with_reducible exact h_
    | with_reducible exact hl_
    | with_reducible apply modChip_only
    | with_reducible apply provision_only
    | exact List.Subset.trans (by decide) hl_
    | dsimp only
    | split)

theorem ctrlClear_only {l_ : List Comp} {s0_ : State} {l : Nat} {s : State} (hl_ : [Comp.lanes] ⊆ l_)
    (h_ : Only l_ s0_ s) : Only l_ s0_ (ctrlClear l s) := by
  unfold ctrlClear
  try dsimp only
  repeat' (first
    | with_reducible exact h_
    | with_reducible exact hl_
    | with_reducible apply modLane_only)

theorem ctrlRetry_only {l_ : List Comp} {s0_ : State} {l : Nat} {c : Ctrl} {status : Nat} {s : State} (hl_ : [Comp.regs, .teller, .alm, .lanes] ⊆ l_)
    (h_ : Only l_ s0_ s) : Only l_ s0_ (ctrlRetry l c status s) := by
  unfold ctrlRetry
  try dsimp only
  repeat' (first
    | with_reducible exact h_
    | with_reducible exact hl_
    | with_reducible apply bump_only
    | with_reducible apply setFlag_only
    | with_reducible apply notify_only
    | with_reducible apply modLane_only
    | with_reducible apply laneSettle_only
    | with_reducible apply ctrlFailed_only
    | with_reducible apply ctrlNext_only
    | with_reducible apply mapBroken_only
    | with_reducible apply commitLost_only
    | with_reducible apply ctrlClear_only
    | with_reducible apply only_ite
    | exact List.Subset.trans (by decide) hl_)

theorem ctrlAlive_only {l_ : List Comp} {s0_ : State} {l : Nat} {a : Nat} {s : State} (hl_ : [Comp.regs, .teller, .protect] ⊆ l_)
    (h_ : Only l_ s0_ s) : Only l_ s0_ (ctrlAlive l a s) := by
  unfold ctrlAlive
  try dsimp only
  repeat' (first
    | with_reducible exact h_
    | with_reducible exact hl_
    | with_reducible apply ledgerEvent_only
    | with_reducible apply judgeAlive_only
    | with_reducible apply only_ite
    | exact List.Subset.trans (by decide) hl_)

theorem ctrlReturn_only {l_ : List Comp} {s0_ : State} {l : Nat} {r : CtrlReturn} {sIn : State} (hl_ : [Comp.regs, .teller, .alm, .protect, .fxm, .pho, .lanes, .lamps] ⊆ l_)
    (h_ : Only l_ s0_ sIn) : Only l_ s0_ (ctrlReturn l r sIn) := by
  unfold ctrlReturn
  try dsimp only
  repeat' (first
    | with_reducible exact h_
    | with_reducible exact hl_
    | with_reducible apply bump_only
    | with_reducible apply chkRun_only
    | with_reducible apply laneSettle_only
    | with_reducible apply ctrlFailed_only
    | with_reducible apply ctrlNext_only
    | with_reducible apply ctrlComplete_only
    | with_reducible apply mapBroken_only
    | with_reducible apply commitLost_only
    | with_reducible apply ctrlClear_only
    | with_reducible apply ctrlRetry_only
    | with_reducible apply ctrlAlive_only
    | with_reducible apply only_ite
    | exact List.Subset.trans (by decide) hl_
    | dsimp only
    | split)

theorem execControlFrameReturn_only {l_ : List Comp} {s0_ : State} {t : Nat} {lane : Fin 32} {r : CtrlReturn} {s : State} (hl_ : [Comp.regs, .time, .teller, .alm, .protect, .fxm, .pho, .lanes, .lamps] ⊆ l_)
    (h_ : Only l_ s0_ s) : OutOnly l_ s0_ (execControlFrameReturn t lane r s) := by
  unfold execControlFrameReturn
  try dsimp only
  repeat' (first
    | with_reducible exact h_
    | with_reducible exact hl_
    | with_reducible apply advance_only
    | with_reducible apply rxErrors_only
    | with_reducible apply ctrlReturn_only
    | with_reducible apply OutOnly.ite
    | with_reducible apply OutOnly.next
    | exact List.Subset.trans (by decide) hl_
    | dsimp only
    | split)

theorem execControlAckTimeout_only {l_ : List Comp} {s0_ : State} {t : Nat} {lane : Fin 32} {s : State} (hl_ : [Comp.regs, .time, .teller, .alm, .lanes] ⊆ l_)
    (h_ : Only l_ s0_ s) : OutOnly l_ s0_ (execControlAckTimeout t lane s) := by
  unfold execControlAckTimeout
  try dsimp only
  repeat' (first
    | with_reducible exact h_
    | with_reducible exact hl_
    | with_reducible apply advance_only
    | with_reducible apply ctrlNext_only
    | with_reducible apply ctrlRetry_only
    | with_reducible apply OutOnly.ite
    | with_reducible apply only_ite
    | with_reducible apply OutOnly.next
    | exact List.Subset.trans (by decide) hl_
    | dsimp only
    | split)

theorem execCollectInterval_only {l_ : List Comp} {s0_ : State} {t : Nat} {s : State} (hl_ : [Comp.regs, .time, .teller, .alm, .lanes] ⊆ l_)
    (h_ : Only l_ s0_ s) : OutOnly l_ s0_ (execCollectInterval t s) := by
  unfold execCollectInterval
  try dsimp only
  repeat' (first
    | with_reducible exact h_
    | with_reducible exact hl_
    | with_reducible assumption
    | with_reducible apply advance_only
    | with_reducible apply collectSend_only
    | with_reducible apply ctrlNext_only
    | with_reducible refine only_foldl ?_ (fun _ _ _ => ?_)
    | with_reducible apply OutOnly.ite
    | with_reducible apply only_ite
    | with_reducible apply OutOnly.next
    | exact List.Subset.trans (by decide) hl_)

theorem laneDropOwed_only {l_ : List Comp} {s0_ : State} {i : Fin 5} {s : State} (hl_ : [Comp.lanes] ⊆ l_)
    (h_ : Only l_ s0_ s) : Only l_ s0_ (laneDropOwed i s) := by
  unfold laneDropOwed
  try dsimp only
  repeat' (first
    | with_reducible exact h_
    | with_reducible exact hl_
    | with_reducible apply only_ite
    | split
    | fail_if_no_progress ((with_reducible refine only_mk (k := [.lanes]) ?_ ?_ ?lit); case lit => exact fun c hc => by cases c <;> first | with_reducible rfl | exact absurd (by decide) hc))

end Sys2Proof.Laws
end

