-- ==== Sys2Proof/Laws/OnlyCalibrate.lean ====
section
/-! SUPPORT. Which components of the machine the operations of Machine/Calibrate.lean may change. -/

namespace Sys2Proof.Laws

open Sys2Proof.Machine Sys2Proof.Safety

theorem modCal_only {l_ : List Comp} {s0_ : State} {f : Cal → Cal} {s : State} (hl_ : [Comp.cal] ⊆ l_)
    (h_ : Only l_ s0_ s) : Only l_ s0_ (modCal f s) := by
  unfold modCal
  try dsimp only
  repeat' (first
    | with_reducible exact h_
    | with_reducible exact hl_
    | with_reducible apply only_ite
    | fail_if_no_progress ((with_reducible refine only_mk (k := [.cal]) ?_ ?_ ?lit); case lit => exact fun c hc => by cases c <;> first | with_reducible rfl | exact absurd (by decide) hc))

theorem modEntry_only {l_ : List Comp} {s0_ : State} {item : Nat} {index : Nat} {f : CalEntry → CalEntry} {s : State} (hl_ : [Comp.cal] ⊆ l_)
    (h_ : Only l_ s0_ s) : Only l_ s0_ (modEntry item index f s) := by
  unfold modEntry
  try dsimp only
  repeat' (first
    | with_reducible exact h_
    | with_reducible exact hl_
    | with_reducible apply modCal_only)

theorem skewFrom_only {l_ : List Comp} {s0_ : State} {at_ : Nat} {l : Nat} {code : Nat} {s : State} (hl_ : [Comp.regs, .cal] ⊆ l_)
    (h_ : Only l_ s0_ s) : Only l_ s0_ (skewFrom at_ l code s) := by
  unfold skewFrom
  try dsimp only
  repeat' (first
    | with_reducible exact h_
    | with_reducible exact hl_
    | with_reducible apply setField_only
    | with_reducible apply modCal_only
    | exact List.Subset.trans (by decide) hl_)

theorem calApply_only {l_ : List Comp} {s0_ : State} {item : Nat} {index : Nat} {v : Int} {v2 : Int} {s : State} (hl_ : [Comp.regs, .time, .cal] ⊆ l_)
    (h_ : Only l_ s0_ s) : Only l_ s0_ (calApply item index v v2 s) := by
  unfold calApply
  try dsimp only
  repeat' (first
    | with_reducible exact h_
    | with_reducible exact hl_
    | with_reducible apply setReg_only
    | with_reducible apply setField_only
    | with_reducible apply freeTrim_only
    | with_reducible apply modEntry_only
    | with_reducible apply skewFrom_only
    | exact List.Subset.trans (by decide) hl_
    | dsimp only
    | split)

theorem calGiven_only {l_ : List Comp} {s0_ : State} {item : Nat} {index : Nat} {s : State} (hl_ : [Comp.cal] ⊆ l_)
    (h_ : Only l_ s0_ s) : Only l_ s0_ (calGiven item index s) := by
  unfold calGiven
  try dsimp only
  repeat' (first
    | with_reducible exact h_
    | with_reducible exact hl_
    | with_reducible apply modEntry_only
    | exact List.Subset.trans (by decide) hl_)

theorem calFlags_only {l_ : List Comp} {s0_ : State} {item : Nat} {index : Nat} {unstable : Bool} {outOfRange : Bool} {s : State} (hl_ : [Comp.regs, .cal] ⊆ l_)
    (h_ : Only l_ s0_ s) : Only l_ s0_ (calFlags item index unstable outOfRange s) := by
  unfold calFlags
  try dsimp only
  repeat' (first
    | with_reducible exact h_
    | with_reducible exact hl_
    | with_reducible apply setField_only
    | with_reducible apply modEntry_only
    | with_reducible apply only_ite
    | exact List.Subset.trans (by decide) hl_)

theorem calNotice_only {l_ : List Comp} {s0_ : State} {item : Nat} {index : Nat} {cause : Nat} {a : Int} {b : Int} {s : State} (hl_ : [Comp.regs, .teller] ⊆ l_)
    (h_ : Only l_ s0_ s) : Only l_ s0_ (calNotice item index cause a b s) := by
  unfold calNotice
  try dsimp only
  repeat' (first
    | with_reducible exact h_
    | with_reducible exact hl_
    | with_reducible apply bump_only
    | with_reducible apply setFlag_only
    | with_reducible apply notify_only
    | with_reducible apply only_ite
    | exact List.Subset.trans (by decide) hl_)

theorem calRun_only {l_ : List Comp} {s0_ : State} {item : Nat} {s : State} {r : CalRun} (hl_ : [Comp.regs, .time, .teller, .cal] ⊆ l_)
    (h_ : Only l_ s0_ s) : Only l_ s0_ (calRun item s r) := by
  unfold calRun
  try dsimp only
  repeat' (first
    | with_reducible exact h_
    | with_reducible exact hl_
    | with_reducible apply calApply_only
    | with_reducible apply calFlags_only
    | with_reducible apply calNotice_only
    | with_reducible apply only_ite
    | exact List.Subset.trans (by decide) hl_)

theorem sectorNotice_only {l_ : List Comp} {s0_ : State} {cause : Nat} {copy : Nat} {gen : Nat} {s : State} (hl_ : [Comp.regs, .teller] ⊆ l_)
    (h_ : Only l_ s0_ s) : Only l_ s0_ (sectorNotice cause copy gen s) := by
  unfold sectorNotice
  try dsimp only
  repeat' (first
    | with_reducible exact h_
    | with_reducible exact hl_
    | with_reducible apply setFlag_only
    | with_reducible apply notify_only
    | with_reducible apply only_ite
    | exact List.Subset.trans (by decide) hl_)

theorem calShow_only {l_ : List Comp} {s0_ : State} {s : State} (hl_ : [Comp.regs] ⊆ l_)
    (h_ : Only l_ s0_ s) : Only l_ s0_ (calShow s) := by
  unfold calShow
  try dsimp only
  repeat' (first
    | with_reducible exact h_
    | with_reducible exact hl_
    | with_reducible apply setReg_only
    | with_reducible apply setReg64_only
    | with_reducible apply only_ite
    | exact List.Subset.trans (by decide) hl_
    | dsimp only
    | split)

theorem calLoad_only {l_ : List Comp} {s0_ : State} {s : State} (hl_ : [Comp.regs, .time, .cal] ⊆ l_)
    (h_ : Only l_ s0_ s) : Only l_ s0_ (calLoad s) := by
  unfold calLoad
  try dsimp only
  repeat' (first
    | with_reducible exact h_
    | with_reducible exact hl_
    | with_reducible assumption
    | with_reducible apply modCal_only
    | with_reducible apply modEntry_only
    | with_reducible apply calApply_only
    | with_reducible apply calShow_only
    | with_reducible refine only_foldl ?_ (fun _ _ _ => ?_)
    | with_reducible apply only_ite
    | with_reducible apply only_ite_fst
    | exact List.Subset.trans (by decide) hl_
    | dsimp only
    | split)

theorem calReady_only {l_ : List Comp} {s0_ : State} {s : State} (hl_ : [Comp.regs, .time, .cal] ⊆ l_)
    (h_ : Only l_ s0_ s) : Only l_ s0_ (calReady s) := by
  unfold calReady
  try dsimp only
  repeat' (first
    | with_reducible exact h_
    | with_reducible exact hl_
    | with_reducible apply calLoad_only
    | with_reducible apply only_ite
    | exact List.Subset.trans (by decide) hl_)

theorem calTell_only {l_ : List Comp} {s0_ : State} {s : State} (hl_ : [Comp.regs, .teller] ⊆ l_)
    (h_ : Only l_ s0_ s) : Only l_ s0_ (calTell s) := by
  unfold calTell
  try dsimp only
  repeat' (first
    | with_reducible exact h_
    | with_reducible exact hl_
    | with_reducible assumption
    | with_reducible apply sectorNotice_only
    | with_reducible refine only_foldl ?_ (fun _ _ _ => ?_)
    | exact List.Subset.trans (by decide) hl_
    | dsimp only
    | split)

theorem calWriteStart_only {l_ : List Comp} {s0_ : State} {pass : Bool} {s : State} (hl_ : [Comp.cal] ⊆ l_)
    (h_ : Only l_ s0_ s) : Only l_ s0_ (calWriteStart pass s) := by
  unfold calWriteStart
  try dsimp only
  repeat' (first
    | with_reducible exact h_
    | with_reducible exact hl_
    | with_reducible apply modCal_only
    | with_reducible apply only_ite
    | exact List.Subset.trans (by decide) hl_
    | dsimp only
    | split)

theorem calSag_only {l_ : List Comp} {s0_ : State} {s : State} (hl_ : [Comp.regs, .teller, .cal] ⊆ l_)
    (h_ : Only l_ s0_ s) : Only l_ s0_ (calSag s) := by
  unfold calSag
  try dsimp only
  repeat' (first
    | with_reducible exact h_
    | with_reducible exact hl_
    | with_reducible apply bump_only
    | with_reducible apply modCal_only
    | with_reducible apply sectorNotice_only
    | with_reducible apply only_ite
    | exact List.Subset.trans (by decide) hl_
    | dsimp only
    | split)

theorem calResume_only {l_ : List Comp} {s0_ : State} {s : State} (hl_ : [Comp.cal] ⊆ l_)
    (h_ : Only l_ s0_ s) : Only l_ s0_ (calResume s) := by
  unfold calResume
  try dsimp only
  repeat' (first
    | with_reducible exact h_
    | with_reducible exact hl_
    | with_reducible apply modCal_only
    | with_reducible apply only_ite
    | exact List.Subset.trans (by decide) hl_
    | dsimp only
    | split)

theorem calDrop_only {l_ : List Comp} {s0_ : State} {s : State} (hl_ : [Comp.cal] ⊆ l_)
    (h_ : Only l_ s0_ s) : Only l_ s0_ (calDrop s) := by
  unfold calDrop
  try dsimp only
  repeat' (first
    | with_reducible exact h_
    | with_reducible exact hl_
    | with_reducible apply modCal_only
    | with_reducible apply only_ite
    | exact List.Subset.trans (by decide) hl_
    | dsimp only
    | split)

theorem passEnd_only {l_ : List Comp} {s0_ : State} {result : Nat} {gen : Option Word} {s : State} (hl_ : [Comp.regs, .teller, .cal] ⊆ l_)
    (h_ : Only l_ s0_ s) : Only l_ s0_ (passEnd result gen s) := by
  unfold passEnd
  try dsimp only
  repeat' (first
    | with_reducible exact h_
    | with_reducible exact hl_
    | with_reducible apply bump_only
    | with_reducible apply setFlag_only
    | with_reducible apply respondOwed_only
    | with_reducible apply notify_only
    | with_reducible apply modCal_only
    | with_reducible apply only_ite
    | exact List.Subset.trans (by decide) hl_
    | dsimp only
    | split)

theorem passGo_only {l_ : List Comp} {s0_ : State} {fuel : Nat} {s : State} (hl_ : [Comp.regs, .teller, .cal] ⊆ l_) (h_ : Only l_ s0_ s) :
    Only l_ s0_ (passGo fuel s) := by
  induction fuel generalizing s with
  | zero => exact h_
  | succ n ih =>
    unfold passGo
    cases hp : s.cal.pass with
    | none => exact h_
    | some p =>
      simp only [hp]
      repeat' (first
        | with_reducible assumption
        | with_reducible apply calWriteStart_only
        | with_reducible apply passEnd_only
        | with_reducible apply modEntry_only
        | with_reducible apply modCal_only
        | with_reducible apply ih
        | with_reducible refine only_foldl ?_ (fun _ _ _ => ?_)
        | with_reducible apply only_ite
        | split
        | exact List.Subset.trans (by decide) hl_)

theorem passAbort_only {l_ : List Comp} {s0_ : State} {s : State} (hl_ : [Comp.regs, .teller, .cal] ⊆ l_)
    (h_ : Only l_ s0_ s) : Only l_ s0_ (passAbort s) := by
  unfold passAbort
  try dsimp only
  repeat' (first
    | with_reducible exact h_
    | with_reducible exact hl_
    | with_reducible apply modCal_only
    | with_reducible apply passEnd_only
    | exact List.Subset.trans (by decide) hl_
    | dsimp only
    | split)

theorem calItemDone_only {l_ : List Comp} {s0_ : State} {item : Nat} {inPass : Bool} {runs : List CalRun} {s : State} (hl_ : [Comp.regs, .time, .teller, .cal] ⊆ l_)
    (h_ : Only l_ s0_ s) : Only l_ s0_ (calItemDone item inPass runs s) := by
  unfold calItemDone
  try dsimp only
  repeat' (first
    | with_reducible exact h_
    | with_reducible exact hl_
    | with_reducible assumption
    | with_reducible apply modCal_only
    | with_reducible apply modEntry_only
    | with_reducible apply calRun_only
    | with_reducible apply calReady_only
    | with_reducible apply passGo_only
    | with_reducible refine only_foldl ?_ (fun _ _ _ => ?_)
    | with_reducible apply only_ite
    | exact List.Subset.trans (by decide) hl_
    | dsimp only
    | split)

theorem execCalItemDone_only {l_ : List Comp} {s0_ : State} {t : Nat} {item : Nat} {inPass : Bool} {runs : List CalRun} {s : State} (hl_ : [Comp.regs, .time, .teller, .cal] ⊆ l_)
    (h_ : Only l_ s0_ s) : OutOnly l_ s0_ (execCalItemDone t item inPass runs s) := by
  unfold execCalItemDone
  try dsimp only
  repeat' (first
    | with_reducible exact h_
    | with_reducible exact hl_
    | with_reducible apply advance_only
    | with_reducible apply calItemDone_only
    | with_reducible apply OutOnly.ite
    | with_reducible apply only_ite
    | with_reducible apply OutOnly.next
    | exact List.Subset.trans (by decide) hl_)

theorem calWritten_only {l_ : List Comp} {s0_ : State} {utc : Nat} {s : State} (hl_ : [Comp.regs, .teller, .cal] ⊆ l_)
    (h_ : Only l_ s0_ s) : Only l_ s0_ (calWritten utc s) := by
  unfold calWritten
  try dsimp only
  repeat' (first
    | with_reducible exact h_
    | with_reducible exact hl_
    | with_reducible apply modCal_only
    | with_reducible apply calShow_only
    | with_reducible apply passEnd_only
    | with_reducible apply only_ite
    | exact List.Subset.trans (by decide) hl_
    | dsimp only
    | split)

theorem execCalSectorWriteDone_only {l_ : List Comp} {s0_ : State} {t : Nat} {utc : Nat} {s : State} (hl_ : [Comp.regs, .time, .teller, .cal] ⊆ l_)
    (h_ : Only l_ s0_ s) : OutOnly l_ s0_ (execCalSectorWriteDone t utc s) := by
  unfold execCalSectorWriteDone
  try dsimp only
  repeat' (first
    | with_reducible exact h_
    | with_reducible exact hl_
    | with_reducible apply advance_only
    | with_reducible apply calWritten_only
    | with_reducible apply OutOnly.ite
    | with_reducible apply only_ite
    | with_reducible apply OutOnly.next
    | exact List.Subset.trans (by decide) hl_)

theorem skewStep_only {l_ : List Comp} {s0_ : State} {l : Nat} {s : State} (hl_ : [Comp.regs, .cal] ⊆ l_)
    (h_ : Only l_ s0_ s) : Only l_ s0_ (skewStep l s) := by
  unfold skewStep
  try dsimp only
  repeat' (first
    | with_reducible exact h_
    | with_reducible exact hl_
    | with_reducible apply setField_only
    | with_reducible apply modCal_only
    | with_reducible apply only_ite
    | exact List.Subset.trans (by decide) hl_
    | dsimp only
    | split)

theorem execLaneSkewStep_only {l_ : List Comp} {s0_ : State} {t : Nat} {lane : Fin 32} {s : State} (hl_ : [Comp.regs, .time, .cal] ⊆ l_)
    (h_ : Only l_ s0_ s) : OutOnly l_ s0_ (execLaneSkewStep t lane s) := by
  unfold execLaneSkewStep
  try dsimp only
  repeat' (first
    | with_reducible exact h_
    | with_reducible exact hl_
    | with_reducible apply advance_only
    | with_reducible apply skewStep_only
    | with_reducible apply OutOnly.ite
    | with_reducible apply only_ite
    | with_reducible apply OutOnly.next
    | exact List.Subset.trans (by decide) hl_)

theorem execCalRun_only {l_ : List Comp} {s0_ : State} {c : Call} {mask : Nat} {flags : Nat} {lanes : Nat} {s : State} (hl_ : [Comp.regs, .time, .teller, .cal] ⊆ l_)
    (h_ : Only l_ s0_ s) : OutOnly l_ s0_ (execCalRun c mask flags lanes s) := by
  unfold execCalRun
  try dsimp only
  repeat' (first
    | with_reducible exact h_
    | with_reducible exact hl_
    | with_reducible assumption
    | with_reducible apply respond_only
    | with_reducible refine command_only ?_ ?_ (fun _ _ => ?_)
    | with_reducible apply refuse_only
    | with_reducible apply accept_only
    | with_reducible apply modCal_only
    | with_reducible apply passGo_only
    | with_reducible apply OutOnly.ite
    | with_reducible apply only_ite
    | with_reducible apply OutOnly.next
    | exact List.Subset.trans (by decide) hl_
    | dsimp only
    | split)

theorem execCalAbort_only {l_ : List Comp} {s0_ : State} {c : Call} {s : State} (hl_ : [Comp.regs, .time, .teller, .cal] ⊆ l_)
    (h_ : Only l_ s0_ s) : OutOnly l_ s0_ (execCalAbort c s) := by
  unfold execCalAbort
  try dsimp only
  repeat' (first
    | with_reducible exact h_
    | with_reducible exact hl_
    | with_reducible assumption
    | with_reducible refine command_only ?_ ?_ (fun _ _ => ?_)
    | with_reducible apply refuse_only
    | with_reducible apply accept_only
    | with_reducible apply passAbort_only
    | with_reducible apply OutOnly.ite
    | with_reducible apply only_ite
    | with_reducible apply OutOnly.next
    | exact List.Subset.trans (by decide) hl_
    | dsimp only
    | split)

theorem execCalStatusGet_only {l_ : List Comp} {s0_ : State} {c : Call} {s : State} (hl_ : [Comp.regs, .time, .teller] ⊆ l_)
    (h_ : Only l_ s0_ s) : OutOnly l_ s0_ (execCalStatusGet c s) := by
  unfold execCalStatusGet
  try dsimp only
  repeat' (first
    | with_reducible exact h_
    | with_reducible exact hl_
    | with_reducible assumption
    | with_reducible refine command_only ?_ ?_ (fun _ _ => ?_)
    | with_reducible apply answer_only
    | with_reducible apply OutOnly.ite
    | with_reducible apply only_ite
    | with_reducible apply OutOnly.next
    | exact List.Subset.trans (by decide) hl_)

theorem execCalItemGet_only {l_ : List Comp} {s0_ : State} {c : Call} {item : Nat} {first : Nat} {s : State} (hl_ : [Comp.regs, .time, .teller] ⊆ l_)
    (h_ : Only l_ s0_ s) : OutOnly l_ s0_ (execCalItemGet c item first s) := by
  unfold execCalItemGet
  try dsimp only
  repeat' (first
    | with_reducible exact h_
    | with_reducible exact hl_
    | with_reducible assumption
    | with_reducible refine command_only ?_ ?_ (fun _ _ => ?_)
    | with_reducible apply refuse_only
    | with_reducible apply answer_only
    | with_reducible apply OutOnly.ite
    | with_reducible apply only_ite
    | with_reducible apply OutOnly.next
    | exact List.Subset.trans (by decide) hl_
    | dsimp only
    | split)

end Sys2Proof.Laws
end

