-- ==== Sys2Proof/Laws/OnlyLedger.lean ====
section
/-! SUPPORT. Which components of the machine the operations of Machine/Ledger.lean may change. -/

namespace Sys2Proof.Laws

open Sys2Proof.Machine Sys2Proof.Safety

theorem modLgr_only {l_ : List Comp} {s0_ : State} {f : Ledger → Ledger} {s : State} (hl_ : [Comp.lgr] ⊆ l_)
    (h_ : Only l_ s0_ s) : Only l_ s0_ (modLgr f s) := by
  unfold modLgr
  try dsimp only
  repeat' (first
    | with_reducible exact h_
    | with_reducible exact hl_
    | with_reducible apply only_ite
    | fail_if_no_progress ((with_reducible refine only_mk (k := [.lgr]) ?_ ?_ ?lit); case lit => exact fun c hc => by cases c <;> first | with_reducible rfl | exact absurd (by decide) hc))

theorem putRecord_only {l_ : List Comp} {s0_ : State} {r : LgrRec} {s : State} (hl_ : [Comp.regs, .lgr] ⊆ l_)
    (h_ : Only l_ s0_ s) : Only l_ s0_ (putRecord r s) := by
  unfold putRecord
  try dsimp only
  repeat' (first
    | with_reducible exact h_
    | with_reducible exact hl_
    | with_reducible apply setReg_only
    | with_reducible apply bump_only
    | with_reducible apply setFlag_only
    | with_reducible apply modLgr_only
    | with_reducible apply only_ite
    | exact List.Subset.trans (by decide) hl_)

theorem putEvent_only {l_ : List Comp} {s0_ : State} {code : Nat} {fields : List Int} {s : State} (hl_ : [Comp.regs, .lgr] ⊆ l_)
    (h_ : Only l_ s0_ s) : Only l_ s0_ (putEvent code fields s) := by
  unfold putEvent
  try dsimp only
  repeat' (first
    | with_reducible exact h_
    | with_reducible exact hl_
    | with_reducible assumption
    | with_reducible apply putRecord_only
    | with_reducible refine only_foldl ?_ (fun _ _ _ => ?_))

theorem setTracker_only {l_ : List Comp} {s0_ : State} {i : Nat} {x : Tracker} {s : State} (hl_ : [Comp.lgr] ⊆ l_)
    (h_ : Only l_ s0_ s) : Only l_ s0_ (setTracker i x s) := by
  unfold setTracker
  try dsimp only
  repeat' (first
    | with_reducible exact h_
    | with_reducible exact hl_
    | with_reducible apply modLgr_only)

theorem execTrackerTokenGain_only {l_ : List Comp} {s0_ : State} {t : Nat} {tracker_ : Fin 512} {s : State} (hl_ : [Comp.time, .lgr] ⊆ l_)
    (h_ : Only l_ s0_ s) : OutOnly l_ s0_ (execTrackerTokenGain t tracker_ s) := by
  unfold execTrackerTokenGain
  try dsimp only
  repeat' (first
    | with_reducible exact h_
    | with_reducible exact hl_
    | with_reducible apply advance_only
    | with_reducible apply setTracker_only
    | with_reducible apply OutOnly.ite
    | with_reducible apply only_ite
    | with_reducible apply OutOnly.next
    | exact List.Subset.trans (by decide) hl_)

theorem summarize_only {l_ : List Comp} {s0_ : State} {i : Nat} {s : State} (hl_ : [Comp.regs, .lgr] ⊆ l_)
    (h_ : Only l_ s0_ s) : Only l_ s0_ (summarize i s) := by
  unfold summarize
  try dsimp only
  repeat' (first
    | with_reducible exact h_
    | with_reducible exact hl_
    | with_reducible apply putEvent_only
    | with_reducible apply setTracker_only
    | with_reducible apply only_ite
    | exact List.Subset.trans (by decide) hl_)

theorem flushStart_only {l_ : List Comp} {s0_ : State} {all : Bool} {owed : List Call} {s : State} (hl_ : [Comp.regs, .lgr] ⊆ l_)
    (h_ : Only l_ s0_ s) : Only l_ s0_ (flushStart all owed s) := by
  unfold flushStart
  try dsimp only
  repeat' (first
    | with_reducible exact h_
    | with_reducible exact hl_
    | with_reducible assumption
    | with_reducible apply modLgr_only
    | with_reducible apply summarize_only
    | with_reducible refine only_foldl ?_ (fun _ _ _ => ?_)
    | with_reducible apply only_ite
    | exact List.Subset.trans (by decide) hl_
    | dsimp only
    | split)

theorem lossNotice_only {l_ : List Comp} {s0_ : State} {cause : Nat} {n : Nat} {s : State} (hl_ : [Comp.regs, .teller] ⊆ l_)
    (h_ : Only l_ s0_ s) : Only l_ s0_ (lossNotice cause n s) := by
  unfold lossNotice
  try dsimp only
  repeat' (first
    | with_reducible exact h_
    | with_reducible exact hl_
    | with_reducible apply setFlag_only
    | with_reducible apply notify_only
    | with_reducible apply only_ite
    | exact List.Subset.trans (by decide) hl_)

theorem flushFault_only {l_ : List Comp} {s0_ : State} {s : State} (hl_ : [Comp.regs, .free, .teller, .lgr] ⊆ l_)
    (h_ : Only l_ s0_ s) : Only l_ s0_ (flushFault s) := by
  unfold flushFault
  try dsimp only
  repeat' (first
    | with_reducible exact h_
    | with_reducible exact hl_
    | with_reducible assumption
    | with_reducible apply setFlag_only
    | with_reducible apply internalAnswer_only
    | with_reducible apply modLgr_only
    | with_reducible apply lossNotice_only
    | with_reducible refine only_foldl ?_ (fun _ _ _ => ?_)
    | exact List.Subset.trans (by decide) hl_)

theorem flushRun_only {l_ : List Comp} {s0_ : State} {bad : List Bool} {s : State} (hl_ : [Comp.regs, .free, .teller, .lgr] ⊆ l_)
    (h_ : Only l_ s0_ s) : Only l_ s0_ (flushRun bad s) := by
  unfold flushRun
  try dsimp only
  repeat' (first
    | with_reducible exact h_
    | with_reducible exact hl_
    | with_reducible apply modLgr_only
    | with_reducible apply flushFault_only
    | with_reducible apply only_ite
    | exact List.Subset.trans (by decide) hl_
    | dsimp only
    | split)

theorem reportDropped_only {l_ : List Comp} {s0_ : State} {s : State} (hl_ : [Comp.regs, .teller, .lgr] ⊆ l_)
    (h_ : Only l_ s0_ s) : Only l_ s0_ (reportDropped s) := by
  unfold reportDropped
  try dsimp only
  repeat' (first
    | with_reducible exact h_
    | with_reducible exact hl_
    | with_reducible apply modLgr_only
    | with_reducible apply putEvent_only
    | with_reducible apply lossNotice_only
    | with_reducible apply only_ite
    | exact List.Subset.trans (by decide) hl_)

theorem flushDone_only {l_ : List Comp} {s0_ : State} {s : State} (hl_ : [Comp.regs, .teller, .lgr] ⊆ l_)
    (h_ : Only l_ s0_ s) : Only l_ s0_ (flushDone s) := by
  unfold flushDone
  try dsimp only
  repeat' (first
    | with_reducible exact h_
    | with_reducible exact hl_
    | with_reducible assumption
    | with_reducible apply bump_only
    | with_reducible apply setFlag_only
    | with_reducible apply respond_only
    | with_reducible apply modLgr_only
    | with_reducible apply flushStart_only
    | with_reducible apply reportDropped_only
    | with_reducible refine only_foldl ?_ (fun _ _ _ => ?_)
    | with_reducible apply only_ite
    | exact List.Subset.trans (by decide) hl_
    | dsimp only
    | split)

theorem flushNow_only {l_ : List Comp} {s0_ : State} {s : State} (hl_ : [Comp.regs, .free, .teller, .lgr] ⊆ l_)
    (h_ : Only l_ s0_ s) : Only l_ s0_ (flushNow s) := by
  unfold flushNow
  try dsimp only
  repeat' (first
    | with_reducible exact h_
    | with_reducible exact hl_
    | with_reducible apply flushStart_only
    | with_reducible apply flushRun_only
    | with_reducible apply flushDone_only
    | with_reducible apply only_ite
    | exact List.Subset.trans (by decide) hl_)

theorem execLedgerFlushPeriod_only {l_ : List Comp} {s0_ : State} {t : Nat} {s : State} (hl_ : [Comp.regs, .time, .lgr] ⊆ l_)
    (h_ : Only l_ s0_ s) : OutOnly l_ s0_ (execLedgerFlushPeriod t s) := by
  unfold execLedgerFlushPeriod
  try dsimp only
  repeat' (first
    | with_reducible exact h_
    | with_reducible exact hl_
    | with_reducible apply advance_only
    | with_reducible apply flushStart_only
    | with_reducible apply OutOnly.ite
    | with_reducible apply only_ite
    | with_reducible apply OutOnly.next
    | exact List.Subset.trans (by decide) hl_)

theorem recordEvent_only {l_ : List Comp} {s0_ : State} {code : Nat} {fields : List Int} {s : State} (hl_ : [Comp.regs, .lgr] ⊆ l_)
    (h_ : Only l_ s0_ s) : Only l_ s0_ (recordEvent code fields s) := by
  unfold recordEvent
  try dsimp only
  repeat' (first
    | with_reducible exact h_
    | with_reducible exact hl_
    | with_reducible apply bump_only
    | with_reducible apply putEvent_only
    | with_reducible apply setTracker_only
    | with_reducible apply summarize_only
    | with_reducible apply flushStart_only
    | with_reducible apply only_ite
    | exact List.Subset.trans (by decide) hl_)

theorem recordOffer_only {l_ : List Comp} {s0_ : State} {s : State} (hl_ : [Comp.regs, .teller, .lgr] ⊆ l_)
    (h_ : Only l_ s0_ s) : Only l_ s0_ (recordOffer s) := by
  unfold recordOffer
  try dsimp only
  repeat' (first
    | with_reducible exact h_
    | with_reducible exact hl_
    | with_reducible apply recordEvent_only
    | with_reducible apply only_ite
    | exact List.Subset.trans (by decide) hl_
    | split
    | fail_if_no_progress ((with_reducible refine only_mk (k := [.teller]) ?_ ?_ ?lit); case lit => exact fun c hc => by cases c <;> first | with_reducible rfl | exact absurd (by decide) hc))

theorem execLedgerRecordOffer_only {l_ : List Comp} {s0_ : State} {t : Nat} {s : State} (hl_ : [Comp.regs, .time, .teller, .lgr] ⊆ l_)
    (h_ : Only l_ s0_ s) : OutOnly l_ s0_ (execLedgerRecordOffer t s) := by
  unfold execLedgerRecordOffer
  try dsimp only
  repeat' (first
    | with_reducible exact h_
    | with_reducible exact hl_
    | with_reducible apply advance_only
    | with_reducible apply recordOffer_only
    | with_reducible apply OutOnly.ite
    | with_reducible apply only_ite
    | with_reducible apply OutOnly.next
    | exact List.Subset.trans (by decide) hl_)

theorem recordAll_only {l_ : List Comp} {s0_ : State} {fuel : Nat} {s : State} (hl_ : [Comp.regs, .teller, .lgr] ⊆ l_) (h_ : Only l_ s0_ s) :
    Only l_ s0_ (recordAll fuel s) := by
  induction fuel generalizing s with
  | zero => exact h_
  | succ n ih =>
    unfold recordAll
    exact only_ite h_ (ih (recordOffer_only (List.Subset.trans (by decide) hl_) h_))

theorem reportSide_only {l_ : List Comp} {s0_ : State} {n : Nat} {s : State} (hl_ : [Comp.regs, .teller, .lgr] ⊆ l_)
    (h_ : Only l_ s0_ s) : Only l_ s0_ (reportSide n s) := by
  unfold reportSide
  try dsimp only
  repeat' (first
    | with_reducible exact h_
    | with_reducible exact hl_
    | with_reducible apply putEvent_only
    | with_reducible apply lossNotice_only
    | with_reducible apply only_ite
    | exact List.Subset.trans (by decide) hl_)

theorem thawSag_only {l_ : List Comp} {s0_ : State} {s : State} (hl_ : [Comp.regs, .teller, .lgr] ⊆ l_)
    (h_ : Only l_ s0_ s) : Only l_ s0_ (thawSag s) := by
  unfold thawSag
  try dsimp only
  repeat' (first
    | with_reducible exact h_
    | with_reducible exact hl_
    | with_reducible apply setFlag_only
    | with_reducible apply modLgr_only
    | with_reducible apply reportSide_only
    | with_reducible apply only_ite
    | exact List.Subset.trans (by decide) hl_)

theorem thawed_only {l_ : List Comp} {s0_ : State} {s : State} (hl_ : [Comp.regs, .teller, .lgr] ⊆ l_)
    (h_ : Only l_ s0_ s) : Only l_ s0_ (thawed s) := by
  unfold thawed
  try dsimp only
  repeat' (first
    | with_reducible exact h_
    | with_reducible exact hl_
    | with_reducible apply flushStart_only
    | with_reducible apply reportDropped_only
    | with_reducible apply only_ite
    | exact List.Subset.trans (by decide) hl_)

theorem thaw_only {l_ : List Comp} {s0_ : State} {s : State} (hl_ : [Comp.regs, .teller, .lgr] ⊆ l_)
    (h_ : Only l_ s0_ s) : Only l_ s0_ (thaw s) := by
  unfold thaw
  try dsimp only
  repeat' (first
    | with_reducible exact h_
    | with_reducible exact hl_
    | with_reducible apply bumpBy_only
    | with_reducible apply setFlag_only
    | with_reducible apply modLgr_only
    | with_reducible apply reportSide_only
    | with_reducible apply thawed_only
    | exact List.Subset.trans (by decide) hl_
    | dsimp only
    | split)

theorem execFreezeTimeout_only {l_ : List Comp} {s0_ : State} {t : Nat} {s : State} (hl_ : [Comp.regs, .time, .teller, .lgr] ⊆ l_)
    (h_ : Only l_ s0_ s) : OutOnly l_ s0_ (execFreezeTimeout t s) := by
  unfold execFreezeTimeout
  try dsimp only
  repeat' (first
    | with_reducible exact h_
    | with_reducible exact hl_
    | with_reducible apply advance_only
    | with_reducible apply thaw_only
    | with_reducible apply OutOnly.ite
    | with_reducible apply only_ite
    | with_reducible apply OutOnly.next
    | exact List.Subset.trans (by decide) hl_
    | dsimp only
    | split)

theorem lgrGone_only {l_ : List Comp} {s0_ : State} {i : Fin 5} {s : State} (hl_ : [Comp.regs, .teller, .lgr] ⊆ l_)
    (h_ : Only l_ s0_ s) : Only l_ s0_ (lgrGone i s) := by
  unfold lgrGone
  try dsimp only
  repeat' (first
    | with_reducible exact h_
    | with_reducible exact hl_
    | with_reducible apply modLgr_only
    | with_reducible apply thaw_only
    | with_reducible apply only_ite
    | exact List.Subset.trans (by decide) hl_
    | dsimp only
    | split)

theorem execLedgerFreeze_only {l_ : List Comp} {s0_ : State} {c : Call} {action : Nat} {limit : Nat} {s : State} (hl_ : [Comp.regs, .time, .teller, .lgr] ⊆ l_)
    (h_ : Only l_ s0_ s) : OutOnly l_ s0_ (execLedgerFreeze c action limit s) := by
  unfold execLedgerFreeze
  try dsimp only
  repeat' (first
    | with_reducible exact h_
    | with_reducible exact hl_
    | with_reducible assumption
    | with_reducible refine command_only ?_ ?_ (fun _ _ => ?_)
    | with_reducible apply refuse_only
    | with_reducible apply accept_only
    | with_reducible apply modLgr_only
    | with_reducible apply thaw_only
    | with_reducible apply OutOnly.ite
    | with_reducible apply only_ite
    | with_reducible apply OutOnly.next
    | exact List.Subset.trans (by decide) hl_
    | dsimp only
    | split)

theorem execLedgerRead_only {l_ : List Comp} {s0_ : State} {c : Call} {first : Word} {count : Nat} {s : State} (hl_ : [Comp.regs, .time, .teller] ⊆ l_)
    (h_ : Only l_ s0_ s) : OutOnly l_ s0_ (execLedgerRead c first count s) := by
  unfold execLedgerRead
  try dsimp only
  repeat' (first
    | with_reducible exact h_
    | with_reducible exact hl_
    | with_reducible assumption
    | with_reducible refine command_only ?_ ?_ (fun _ _ => ?_)
    | with_reducible apply refuse_only
    | with_reducible apply answer_only
    | with_reducible apply OutOnly.ite
    | with_reducible apply only_ite
    | with_reducible apply OutOnly.next
    | exact List.Subset.trans (by decide) hl_
    | dsimp only
    | split)

theorem execLedgerStatusGet_only {l_ : List Comp} {s0_ : State} {c : Call} {s : State} (hl_ : [Comp.regs, .time, .teller] ⊆ l_)
    (h_ : Only l_ s0_ s) : OutOnly l_ s0_ (execLedgerStatusGet c s) := by
  unfold execLedgerStatusGet
  try dsimp only
  repeat' (first
    | with_reducible exact h_
    | with_reducible exact hl_
    | with_reducible assumption
    | with_reducible refine command_only ?_ ?_ (fun _ _ => ?_)
    | with_reducible apply answer_only
    | with_reducible apply OutOnly.ite
    | with_reducible apply only_ite
    | with_reducible apply OutOnly.next
    | exact List.Subset.trans (by decide) hl_)

theorem execLedgerChallenge_only {l_ : List Comp} {s0_ : State} {c : Call} {s : State} (hl_ : [Comp.regs, .free, .time, .teller, .vlt, .lgr] ⊆ l_)
    (h_ : Only l_ s0_ s) : OutOnly l_ s0_ (execLedgerChallenge c s) := by
  unfold execLedgerChallenge
  try dsimp only
  repeat' (first
    | with_reducible exact h_
    | with_reducible exact hl_
    | with_reducible assumption
    | with_reducible apply draw_only
    | with_reducible refine command_only ?_ ?_ (fun _ _ => ?_)
    | with_reducible apply answer_only
    | with_reducible apply unauth_only
    | with_reducible apply drbgRequest_only
    | with_reducible apply modLgr_only
    | with_reducible apply OutOnly.ite
    | with_reducible apply only_ite
    | with_reducible apply only_ite_fst
    | with_reducible apply OutOnly.next
    | exact List.Subset.trans (by decide) hl_
    | dsimp only
    | split)

theorem applyClear_only {l_ : List Comp} {s0_ : State} {slot : Nat} {s : State} (hl_ : [Comp.regs, .teller, .lgr] ⊆ l_)
    (h_ : Only l_ s0_ s) : Only l_ s0_ (applyClear slot s) := by
  unfold applyClear
  try dsimp only
  repeat' (first
    | with_reducible exact h_
    | with_reducible exact hl_
    | with_reducible apply setReg_only
    | with_reducible apply setFlag_only
    | with_reducible apply notify_only
    | with_reducible apply modLgr_only
    | with_reducible apply only_ite
    | exact List.Subset.trans (by decide) hl_)

theorem execLedgerClear_only {l_ : List Comp} {s0_ : State} {c : Call} {token : ClearToken} {s : State} (hl_ : [Comp.regs, .time, .teller, .lgr] ⊆ l_)
    (h_ : Only l_ s0_ s) : OutOnly l_ s0_ (execLedgerClear c token s) := by
  unfold execLedgerClear
  try dsimp only
  repeat' (first
    | with_reducible exact h_
    | with_reducible exact hl_
    | with_reducible assumption
    | with_reducible refine command_only ?_ ?_ (fun _ _ => ?_)
    | with_reducible apply refuse_only
    | with_reducible apply accept_only
    | with_reducible apply unauth_only
    | with_reducible apply sigFail_only
    | with_reducible apply recordAll_only
    | with_reducible apply applyClear_only
    | with_reducible apply OutOnly.ite
    | with_reducible apply only_ite
    | with_reducible apply only_ite_fst
    | with_reducible apply OutOnly.next
    | exact List.Subset.trans (by decide) hl_
    | dsimp only
    | split)

theorem execLedgerLimitSet_only {l_ : List Comp} {s0_ : State} {c : Call} {code : Nat} {r : Nat} {b : Nat} {s : State} (hl_ : [Comp.regs, .time, .teller, .lgr] ⊆ l_)
    (h_ : Only l_ s0_ s) : OutOnly l_ s0_ (execLedgerLimitSet c code r b s) := by
  unfold execLedgerLimitSet
  try dsimp only
  repeat' (first
    | with_reducible exact h_
    | with_reducible exact hl_
    | with_reducible assumption
    | with_reducible refine command_only ?_ ?_ (fun _ _ => ?_)
    | with_reducible apply refuse_only
    | with_reducible apply accept_only
    | with_reducible apply setTracker_only
    | with_reducible apply OutOnly.ite
    | with_reducible apply only_ite
    | with_reducible apply OutOnly.next
    | exact List.Subset.trans (by decide) hl_
    | dsimp only
    | split)

theorem execLedgerFlush_only {l_ : List Comp} {s0_ : State} {c : Call} {s : State} (hl_ : [Comp.regs, .time, .teller, .lgr] ⊆ l_)
    (h_ : Only l_ s0_ s) : OutOnly l_ s0_ (execLedgerFlush c s) := by
  unfold execLedgerFlush
  try dsimp only
  repeat' (first
    | with_reducible exact h_
    | with_reducible exact hl_
    | with_reducible assumption
    | with_reducible refine command_only ?_ ?_ (fun _ _ => ?_)
    | with_reducible apply refuse_only
    | with_reducible apply flushStart_only
    | with_reducible apply OutOnly.ite
    | with_reducible apply only_ite
    | with_reducible apply OutOnly.next
    | exact List.Subset.trans (by decide) hl_
    | dsimp only
    | split)

theorem scanRun_only {l_ : List Comp} {s0_ : State} {s : State} (hl_ : [Comp.regs] ⊆ l_)
    (h_ : Only l_ s0_ s) : Only l_ s0_ (scanRun s) := by
  unfold scanRun
  try dsimp only
  repeat' (first
    | with_reducible exact h_
    | with_reducible exact hl_
    | with_reducible apply chkRun_only
    | exact List.Subset.trans (by decide) hl_
    | dsimp only
    | split)

theorem lgrScan_only {l_ : List Comp} {s0_ : State} {s : State} (hl_ : [Comp.regs, .teller, .lgr] ⊆ l_)
    (h_ : Only l_ s0_ s) : Only l_ s0_ (lgrScan s) := by
  unfold lgrScan
  try dsimp only
  repeat' (first
    | with_reducible exact h_
    | with_reducible exact hl_
    | with_reducible assumption
    | with_reducible apply setReg_only
    | with_reducible apply modLgr_only
    | with_reducible apply summarize_only
    | with_reducible apply flushStart_only
    | with_reducible apply lossNotice_only
    | with_reducible apply scanRun_only
    | with_reducible refine only_foldl ?_ (fun _ _ _ => ?_)
    | with_reducible apply only_ite
    | with_reducible apply only_ite_fst
    | exact List.Subset.trans (by decide) hl_
    | dsimp only
    | split)

theorem lgrReset_only {l_ : List Comp} {s0_ : State} {pd1 : Bool} {s : State} (hl_ : [Comp.regs, .teller, .lgr] ⊆ l_)
    (h_ : Only l_ s0_ s) : Only l_ s0_ (lgrReset pd1 s) := by
  unfold lgrReset
  try dsimp only
  repeat' (first
    | with_reducible exact h_
    | with_reducible exact hl_
    | with_reducible apply modLgr_only
    | with_reducible apply thaw_only
    | with_reducible apply only_ite
    | exact List.Subset.trans (by decide) hl_)

end Sys2Proof.Laws
end

