-- ==== Sys2Proof/Laws/OnlyTeller.lean ====
section
/-! SUPPORT. Which components of the machine the operations of Machine/Teller.lean may change. -/

namespace Sys2Proof.Laws

open Sys2Proof.Machine Sys2Proof.Safety

theorem modTeller_only {l_ : List Comp} {s0_ : State} {f : Teller → Teller} {s : State} (hl_ : [Comp.teller] ⊆ l_)
    (h_ : Only l_ s0_ s) : Only l_ s0_ (modTeller f s) := by
  unfold modTeller
  try dsimp only
  repeat' (first
    | with_reducible exact h_
    | with_reducible exact hl_
    | with_reducible apply only_ite
    | fail_if_no_progress ((with_reducible refine only_mk (k := [.teller]) ?_ ?_ ?lit); case lit => exact fun c hc => by cases c <;> first | with_reducible rfl | exact absurd (by decide) hc))

theorem notifyOne_only {l_ : List Comp} {s0_ : State} {code : Nat} {len : Nat} {fields : List Int} {i : Fin 5} {s : State} (hl_ : [Comp.regs, .teller] ⊆ l_)
    (h_ : Only l_ s0_ s) : Only l_ s0_ (notifyOne code len fields i s) := by
  unfold notifyOne
  try dsimp only
  repeat' (first
    | with_reducible exact h_
    | with_reducible exact hl_
    | with_reducible apply notifyTo_only
    | with_reducible apply modTeller_only
    | with_reducible apply only_ite
    | exact List.Subset.trans (by decide) hl_)

theorem tellerStarted_only {l_ : List Comp} {s0_ : State} {i : Fin 5} {s : State} (hl_ : [Comp.regs, .teller] ⊆ l_)
    (h_ : Only l_ s0_ s) : Only l_ s0_ (tellerStarted i s) := by
  unfold tellerStarted
  try dsimp only
  repeat' (first
    | with_reducible exact h_
    | with_reducible exact hl_
    | with_reducible apply notifyOne_only)

theorem lostNotice_only {l_ : List Comp} {s0_ : State} {i : Fin 5} {s : State} (hl_ : [Comp.regs, .teller] ⊆ l_)
    (h_ : Only l_ s0_ s) : Only l_ s0_ (lostNotice i s) := by
  unfold lostNotice
  try dsimp only
  repeat' (first
    | with_reducible exact h_
    | with_reducible exact hl_
    | with_reducible apply modSess_only
    | with_reducible apply notifyOne_only
    | with_reducible apply only_ite
    | exact List.Subset.trans (by decide) hl_)

theorem respWaiting_only {l_ : List Comp} {s0_ : State} {l : List Resp} {s : State} (hl_ : [Comp.teller] ⊆ l_)
    (h_ : Only l_ s0_ s) : Only l_ s0_ (respWaiting l s) := by
  induction l generalizing s with
  | nil => exact modSess_only hl_ h_
  | cons r t ih => exact only_ite (ih (ringResp_only hl_ h_)) (modSess_only hl_ h_)

theorem sessionGone_only {l_ : List Comp} {s0_ : State} {i : Fin 5} {s : State} (hl_ : [Comp.regs, .teller, .power, .lanes, .dmx, .cal, .vlt, .lgr] ⊆ l_)
    (h_ : Only l_ s0_ s) : Only l_ s0_ (sessionGone i s) := by
  unfold sessionGone
  try dsimp only
  repeat' (first
    | with_reducible exact h_
    | with_reducible exact hl_
    | with_reducible apply laneDropOwed_only
    | with_reducible apply rdmDropOwed_only
    | with_reducible apply lgrGone_only
    | with_reducible apply only_ite
    | exact List.Subset.trans (by decide) hl_
    | split
    | fail_if_no_progress ((with_reducible refine only_mk (k := [.teller, .power, .cal, .vlt]) ?_ ?_ ?lit); case lit => exact fun c hc => by cases c <;> first | with_reducible rfl | exact absurd (by decide) hc))

theorem sessionClose_only {l_ : List Comp} {s0_ : State} {i : Fin 5} {s : State} (hl_ : [Comp.regs, .teller, .power, .lanes, .dmx, .cal, .vlt, .lgr] ⊆ l_)
    (h_ : Only l_ s0_ s) : Only l_ s0_ (sessionClose i s) := by
  unfold sessionClose
  try dsimp only
  repeat' (first
    | with_reducible exact h_
    | with_reducible exact hl_
    | with_reducible apply modSess_only
    | with_reducible apply sessionGone_only
    | with_reducible apply only_ite
    | exact List.Subset.trans (by decide) hl_)

theorem sessionClear_only {l_ : List Comp} {s0_ : State} {i : Fin 5} {s : State} (hl_ : [Comp.regs, .teller, .power, .lanes, .dmx, .cal, .vlt, .lgr] ⊆ l_)
    (h_ : Only l_ s0_ s) : Only l_ s0_ (sessionClear i s) := by
  unfold sessionClear
  try dsimp only
  repeat' (first
    | with_reducible exact h_
    | with_reducible exact hl_
    | with_reducible apply bumpBy_only
    | with_reducible apply setFlag_only
    | with_reducible apply modSess_only
    | with_reducible apply sessionGone_only
    | with_reducible apply only_ite
    | exact List.Subset.trans (by decide) hl_)

theorem ringReset_only {l_ : List Comp} {s0_ : State} {s : State} (hl_ : [Comp.regs, .teller, .power, .lanes, .dmx, .cal, .vlt, .lgr] ⊆ l_)
    (h_ : Only l_ s0_ s) : Only l_ s0_ (ringReset s) := by
  unfold ringReset
  try dsimp only
  repeat' (first
    | with_reducible exact h_
    | with_reducible exact hl_
    | with_reducible apply bump_only
    | with_reducible apply setFlag_only
    | with_reducible apply modSess_only
    | with_reducible apply modRings_only
    | with_reducible apply tellerStarted_only
    | with_reducible apply lostNotice_only
    | with_reducible apply sessionClear_only
    | exact List.Subset.trans (by decide) hl_)

theorem pcieOpen_only {l_ : List Comp} {s0_ : State} {s : State} (hl_ : [Comp.regs, .teller, .power, .lanes, .dmx, .cal, .vlt, .lgr] ⊆ l_)
    (h_ : Only l_ s0_ s) : Only l_ s0_ (pcieOpen s) := by
  unfold pcieOpen
  try dsimp only
  repeat' (first
    | with_reducible exact h_
    | with_reducible exact hl_
    | with_reducible apply modSess_only
    | with_reducible apply modRings_only
    | with_reducible apply tellerStarted_only
    | with_reducible apply ringReset_only
    | with_reducible apply only_ite
    | exact List.Subset.trans (by decide) hl_)

theorem pcieClose_only {l_ : List Comp} {s0_ : State} {s : State} (hl_ : [Comp.regs, .teller, .power, .lanes, .dmx, .cal, .vlt, .lgr] ⊆ l_)
    (h_ : Only l_ s0_ s) : Only l_ s0_ (pcieClose s) := by
  unfold pcieClose
  try dsimp only
  repeat' (first
    | with_reducible exact h_
    | with_reducible exact hl_
    | with_reducible apply modRings_only
    | with_reducible apply sessionClose_only
    | with_reducible apply only_ite
    | exact List.Subset.trans (by decide) hl_)

theorem tellerStop_only {l_ : List Comp} {s0_ : State} {s : State} (hl_ : [Comp.regs, .teller, .power, .lanes, .dmx, .cal, .vlt, .lgr] ⊆ l_)
    (h_ : Only l_ s0_ s) : Only l_ s0_ (tellerStop s) := by
  unfold tellerStop
  try dsimp only
  repeat' (first
    | with_reducible exact h_
    | with_reducible exact hl_
    | with_reducible assumption
    | with_reducible apply modTeller_only
    | with_reducible apply sessionClose_only
    | with_reducible refine only_foldl ?_ (fun _ _ _ => ?_)
    | with_reducible apply only_ite
    | exact List.Subset.trans (by decide) hl_)

theorem tellerStart_only {l_ : List Comp} {s0_ : State} {cause : Nat} {s : State} (hl_ : [Comp.regs, .teller, .power, .lanes, .dmx, .cal, .vlt, .lgr] ⊆ l_)
    (h_ : Only l_ s0_ s) : Only l_ s0_ (tellerStart cause s) := by
  unfold tellerStart
  try dsimp only
  repeat' (first
    | with_reducible exact h_
    | with_reducible exact hl_
    | with_reducible apply modTeller_only
    | with_reducible apply pcieOpen_only
    | with_reducible apply only_ite
    | exact List.Subset.trans (by decide) hl_)

theorem ringError_only {l_ : List Comp} {s0_ : State} {s : State} (hl_ : [Comp.regs, .teller] ⊆ l_)
    (h_ : Only l_ s0_ s) : Only l_ s0_ (ringError s) := by
  unfold ringError
  try dsimp only
  repeat' (first
    | with_reducible exact h_
    | with_reducible exact hl_
    | with_reducible apply bump_only
    | with_reducible apply setFlag_only
    | with_reducible apply modRings_only
    | with_reducible apply only_ite
    | exact List.Subset.trans (by decide) hl_)

theorem execCmdDoorbell_only {l_ : List Comp} {s0_ : State} {t : Nat} {wr : BitVec 16} {msgs : List Msg} {s : State} (hl_ : [Comp.regs, .time, .teller] ⊆ l_)
    (h_ : Only l_ s0_ s) : OutOnly l_ s0_ (execCmdDoorbell t wr msgs s) := by
  unfold execCmdDoorbell
  try dsimp only
  repeat' (first
    | with_reducible exact h_
    | with_reducible exact hl_
    | with_reducible apply advance_only
    | with_reducible apply modSess_only
    | with_reducible apply modRings_only
    | with_reducible apply ringError_only
    | with_reducible apply OutOnly.ite
    | with_reducible apply only_ite
    | with_reducible apply OutOnly.next
    | exact List.Subset.trans (by decide) hl_
    | dsimp only
    | split)

theorem execRingReadPointerWrite_only {l_ : List Comp} {s0_ : State} {t : Nat} {notices : Bool} {rd : BitVec 17} {s : State} (hl_ : [Comp.time, .teller] ⊆ l_)
    (h_ : Only l_ s0_ s) : OutOnly l_ s0_ (execRingReadPointerWrite t notices rd s) := by
  unfold execRingReadPointerWrite
  try dsimp only
  repeat' (first
    | with_reducible exact h_
    | with_reducible exact hl_
    | with_reducible apply advance_only
    | with_reducible apply modSess_only
    | with_reducible apply modRings_only
    | with_reducible apply respWaiting_only
    | with_reducible apply OutOnly.ite
    | with_reducible apply only_ite
    | with_reducible apply OutOnly.next
    | exact List.Subset.trans (by decide) hl_
    | dsimp only
    | split)

theorem execSessionResetDoorbell_only {l_ : List Comp} {s0_ : State} {t : Nat} {s : State} (hl_ : [Comp.regs, .time, .teller, .power, .lanes, .dmx, .cal, .vlt, .lgr] ⊆ l_)
    (h_ : Only l_ s0_ s) : OutOnly l_ s0_ (execSessionResetDoorbell t s) := by
  unfold execSessionResetDoorbell
  try dsimp only
  repeat' (first
    | with_reducible exact h_
    | with_reducible exact hl_
    | with_reducible apply advance_only
    | with_reducible apply modRings_only
    | with_reducible apply ringReset_only
    | with_reducible apply OutOnly.ite
    | with_reducible apply only_ite
    | with_reducible apply OutOnly.next
    | exact List.Subset.trans (by decide) hl_)

theorem execNoticeQueueDrain_only {l_ : List Comp} {s0_ : State} {t : Nat} {s : State} (hl_ : [Comp.regs, .time, .teller] ⊆ l_)
    (h_ : Only l_ s0_ s) : OutOnly l_ s0_ (execNoticeQueueDrain t s) := by
  unfold execNoticeQueueDrain
  try dsimp only
  repeat' (first
    | with_reducible exact h_
    | with_reducible exact hl_
    | with_reducible apply advance_only
    | with_reducible apply modSess_only
    | with_reducible apply ringNotice_only
    | with_reducible apply lostNotice_only
    | with_reducible apply OutOnly.ite
    | with_reducible apply only_ite
    | with_reducible apply OutOnly.next
    | exact List.Subset.trans (by decide) hl_
    | dsimp only
    | split)

theorem execPcieLinkChange_only {l_ : List Comp} {s0_ : State} {t : Nat} {e : LinkEvent} {s : State} (hl_ : [Comp.regs, .time, .teller] ⊆ l_)
    (h_ : Only l_ s0_ s) : OutOnly l_ s0_ (execPcieLinkChange t e s) := by
  unfold execPcieLinkChange
  try dsimp only
  repeat' (first
    | with_reducible exact h_
    | with_reducible exact hl_
    | with_reducible apply advance_only
    | with_reducible apply bump_only
    | with_reducible apply setFlag_only
    | with_reducible apply modTeller_only
    | with_reducible apply OutOnly.ite
    | with_reducible apply only_ite
    | with_reducible apply OutOnly.next
    | exact List.Subset.trans (by decide) hl_
    | dsimp only
    | split)

theorem answerOutside_only {l_ : List Comp} {s0_ : State} {i : Fin 5} {m : Msg} {st : Status} {s : State} (hl_ : [Comp.teller] ⊆ l_)
    (h_ : Only l_ s0_ s) : Only l_ s0_ (answerOutside i m st s) := by
  unfold answerOutside
  try dsimp only
  repeat' (first
    | with_reducible exact h_
    | with_reducible exact hl_
    | with_reducible apply writeResp_only)

theorem acknowledge_only {l_ : List Comp} {s0_ : State} {i : Fin 5} {m : Msg} {s : State} (hl_ : [Comp.regs, .teller] ⊆ l_)
    (h_ : Only l_ s0_ s) : Only l_ s0_ (acknowledge i m s) := by
  unfold acknowledge
  try dsimp only
  repeat' (first
    | with_reducible exact h_
    | with_reducible exact hl_
    | with_reducible apply modSess_only
    | with_reducible apply lostNotice_only
    | with_reducible apply only_ite
    | exact List.Subset.trans (by decide) hl_)

theorem letIn_only {l_ : List Comp} {s0_ : State} {i : Fin 5} {m : Msg} {s : State} (hl_ : [Comp.regs, .teller] ⊆ l_)
    (h_ : Only l_ s0_ s) : Only l_ s0_ (letIn i m s) := by
  unfold letIn
  try dsimp only
  repeat' (first
    | with_reducible exact h_
    | with_reducible exact hl_
    | with_reducible apply respond_only
    | with_reducible apply only_ite
    | exact List.Subset.trans (by decide) hl_
    | dsimp only
    | split)

theorem judgeMessage_only {l_ : List Comp} {s0_ : State} {i : Fin 5} {m : Msg} {at_ : Arrival} {s : State} (hl_ : [Comp.regs, .teller] ⊆ l_)
    (h_ : Only l_ s0_ s) : Only l_ s0_ (judgeMessage i m at_ s) := by
  unfold judgeMessage
  try dsimp only
  repeat' (first
    | with_reducible exact h_
    | with_reducible exact hl_
    | with_reducible apply bump_only
    | with_reducible apply modSess_only
    | with_reducible apply writeResp_only
    | with_reducible apply answerOutside_only
    | with_reducible apply acknowledge_only
    | with_reducible apply letIn_only
    | with_reducible apply only_ite
    | exact List.Subset.trans (by decide) hl_
    | dsimp only
    | split)

theorem execCommandTake_only {l_ : List Comp} {s0_ : State} {t : Nat} {i : Fin 5} {s : State} (hl_ : [Comp.regs, .time, .teller] ⊆ l_)
    (h_ : Only l_ s0_ s) : OutOnly l_ s0_ (execCommandTake t i s) := by
  unfold execCommandTake
  try dsimp only
  repeat' (first
    | with_reducible exact h_
    | with_reducible exact hl_
    | with_reducible apply advance_only
    | with_reducible apply tellerRun_only
    | with_reducible apply modSess_only
    | with_reducible apply modRings_only
    | with_reducible apply ringError_only
    | with_reducible apply judgeMessage_only
    | with_reducible apply OutOnly.ite
    | with_reducible apply only_ite
    | with_reducible apply OutOnly.next
    | exact List.Subset.trans (by decide) hl_
    | dsimp only
    | split)

theorem dropDatagram_only {l_ : List Comp} {s0_ : State} {s : State} (hl_ : [Comp.regs] ⊆ l_)
    (h_ : Only l_ s0_ s) : Only l_ s0_ (dropDatagram s) := by
  unfold dropDatagram
  try dsimp only
  repeat' (first
    | with_reducible exact h_
    | with_reducible exact hl_
    | with_reducible apply bump_only
    | with_reducible apply setFlag_only)

theorem udpHello_only {l_ : List Comp} {s0_ : State} {d : Datagram} {s : State} (hl_ : [Comp.regs, .teller, .vlt] ⊆ l_)
    (h_ : Only l_ s0_ s) : Only l_ s0_ (udpHello d s) := by
  unfold udpHello
  try dsimp only
  repeat' (first
    | with_reducible exact h_
    | with_reducible exact hl_
    | with_reducible apply modSess_only
    | with_reducible apply drbgRequest_only
    | with_reducible apply modTeller_only
    | with_reducible apply only_ite
    | exact List.Subset.trans (by decide) hl_
    | dsimp only
    | split)

theorem udpConfirm_only {l_ : List Comp} {s0_ : State} {d : Datagram} {s : State} (hl_ : [Comp.regs, .teller] ⊆ l_)
    (h_ : Only l_ s0_ s) : Only l_ s0_ (udpConfirm d s) := by
  unfold udpConfirm
  try dsimp only
  repeat' (first
    | with_reducible exact h_
    | with_reducible exact hl_
    | with_reducible apply modSess_only
    | with_reducible apply tellerStarted_only
    | with_reducible apply dropDatagram_only
    | with_reducible apply only_ite
    | exact List.Subset.trans (by decide) hl_
    | dsimp only
    | split)

theorem udpFragment_only {l_ : List Comp} {s0_ : State} {i : Fin 5} {d : Datagram} {s : State} (hl_ : [Comp.regs, .teller] ⊆ l_)
    (h_ : Only l_ s0_ s) : Only l_ s0_ (udpFragment i d s) := by
  unfold udpFragment
  try dsimp only
  repeat' (first
    | with_reducible exact h_
    | with_reducible exact hl_
    | with_reducible apply bump_only
    | with_reducible apply setFlag_only
    | with_reducible apply tellerRun_only
    | with_reducible apply modSess_only
    | with_reducible apply only_ite
    | exact List.Subset.trans (by decide) hl_)

theorem udpData_only {l_ : List Comp} {s0_ : State} {d : Datagram} {s : State} (hl_ : [Comp.regs, .teller, .power, .lanes, .dmx, .cal, .vlt, .lgr] ⊆ l_)
    (h_ : Only l_ s0_ s) : Only l_ s0_ (udpData d s) := by
  unfold udpData
  try dsimp only
  repeat' (first
    | with_reducible exact h_
    | with_reducible exact hl_
    | with_reducible apply modSess_only
    | with_reducible apply sessionClose_only
    | with_reducible apply dropDatagram_only
    | with_reducible apply udpFragment_only
    | with_reducible apply only_ite
    | exact List.Subset.trans (by decide) hl_
    | dsimp only
    | split)

theorem execUdpDatagramReceived_only {l_ : List Comp} {s0_ : State} {t : Nat} {d : Datagram} {s : State} (hl_ : [Comp.regs, .time, .teller, .power, .lanes, .dmx, .cal, .vlt, .lgr] ⊆ l_)
    (h_ : Only l_ s0_ s) : OutOnly l_ s0_ (execUdpDatagramReceived t d s) := by
  unfold execUdpDatagramReceived
  try dsimp only
  repeat' (first
    | with_reducible exact h_
    | with_reducible exact hl_
    | with_reducible apply advance_only
    | with_reducible apply udpHello_only
    | with_reducible apply udpConfirm_only
    | with_reducible apply udpData_only
    | with_reducible apply OutOnly.ite
    | with_reducible apply only_ite
    | with_reducible apply OutOnly.next
    | exact List.Subset.trans (by decide) hl_
    | dsimp only
    | split)

theorem execSessionIdleTimeout_only {l_ : List Comp} {s0_ : State} {t : Nat} {i : Fin 5} {s : State} (hl_ : [Comp.regs, .time, .teller, .power, .lanes, .dmx, .cal, .vlt, .lgr] ⊆ l_)
    (h_ : Only l_ s0_ s) : OutOnly l_ s0_ (execSessionIdleTimeout t i s) := by
  unfold execSessionIdleTimeout
  try dsimp only
  repeat' (first
    | with_reducible exact h_
    | with_reducible exact hl_
    | with_reducible apply advance_only
    | with_reducible apply sessionClose_only
    | with_reducible apply OutOnly.ite
    | with_reducible apply only_ite
    | with_reducible apply OutOnly.next
    | exact List.Subset.trans (by decide) hl_)

theorem execFragmentTimeout_only {l_ : List Comp} {s0_ : State} {t : Nat} {s : State} (hl_ : [Comp.time, .teller] ⊆ l_)
    (h_ : Only l_ s0_ s) : OutOnly l_ s0_ (execFragmentTimeout t s) := by
  unfold execFragmentTimeout
  try dsimp only
  repeat' (first
    | with_reducible exact h_
    | with_reducible exact hl_
    | with_reducible assumption
    | with_reducible apply advance_only
    | with_reducible apply modSess_only
    | with_reducible refine only_foldl ?_ (fun _ _ _ => ?_)
    | with_reducible apply OutOnly.ite
    | with_reducible apply only_ite
    | with_reducible apply OutOnly.next
    | exact List.Subset.trans (by decide) hl_)

theorem resendNotices_only {l_ : List Comp} {s0_ : State} {s : State} {i : Fin 5} (hl_ : [Comp.regs, .teller] ⊆ l_)
    (h_ : Only l_ s0_ s) : Only l_ s0_ (resendNotices s i) := by
  unfold resendNotices
  try dsimp only
  repeat' (first
    | with_reducible exact h_
    | with_reducible exact hl_
    | with_reducible assumption
    | with_reducible apply modSess_only
    | with_reducible apply lostNotice_only
    | with_reducible refine only_foldl ?_ (fun _ _ _ => ?_)
    | with_reducible apply only_ite
    | exact List.Subset.trans (by decide) hl_)

theorem execNoticeResend_only {l_ : List Comp} {s0_ : State} {t : Nat} {s : State} (hl_ : [Comp.regs, .time, .teller] ⊆ l_)
    (h_ : Only l_ s0_ s) : OutOnly l_ s0_ (execNoticeResend t s) := by
  unfold execNoticeResend
  try dsimp only
  repeat' (first
    | with_reducible exact h_
    | with_reducible exact hl_
    | with_reducible assumption
    | with_reducible apply advance_only
    | with_reducible apply resendNotices_only
    | with_reducible refine only_foldl ?_ (fun _ _ _ => ?_)
    | with_reducible apply OutOnly.ite
    | with_reducible apply only_ite
    | with_reducible apply OutOnly.next
    | exact List.Subset.trans (by decide) hl_)

theorem execIdentify_only {l_ : List Comp} {s0_ : State} {c : Call} {s : State} (hl_ : [Comp.regs, .time, .teller] ⊆ l_)
    (h_ : Only l_ s0_ s) : OutOnly l_ s0_ (execIdentify c s) := by
  unfold execIdentify
  try dsimp only
  repeat' (first
    | with_reducible exact h_
    | with_reducible exact hl_
    | with_reducible assumption
    | with_reducible refine command_only ?_ ?_ (fun _ _ => ?_)
    | with_reducible apply answer_only
    | with_reducible apply OutOnly.ite
    | with_reducible apply only_ite
    | with_reducible apply OutOnly.next
    | exact List.Subset.trans (by decide) hl_)

theorem execEcho_only {l_ : List Comp} {s0_ : State} {c : Call} {bytes : List (BitVec 8)} {s : State} (hl_ : [Comp.regs, .time, .teller] ⊆ l_)
    (h_ : Only l_ s0_ s) : OutOnly l_ s0_ (execEcho c bytes s) := by
  unfold execEcho
  try dsimp only
  repeat' (first
    | with_reducible exact h_
    | with_reducible exact hl_
    | with_reducible assumption
    | with_reducible refine command_only ?_ ?_ (fun _ _ => ?_)
    | with_reducible apply answer_only
    | with_reducible apply OutOnly.ite
    | with_reducible apply only_ite
    | with_reducible apply OutOnly.next
    | exact List.Subset.trans (by decide) hl_)

theorem execNoticeMask_only {l_ : List Comp} {s0_ : State} {c : Call} {mask : Word} {s : State} (hl_ : [Comp.regs, .time, .teller] ⊆ l_)
    (h_ : Only l_ s0_ s) : OutOnly l_ s0_ (execNoticeMask c mask s) := by
  unfold execNoticeMask
  try dsimp only
  repeat' (first
    | with_reducible exact h_
    | with_reducible exact hl_
    | with_reducible assumption
    | with_reducible apply modSess_only
    | with_reducible refine command_only ?_ ?_ (fun _ _ => ?_)
    | with_reducible apply accept_only
    | with_reducible apply OutOnly.ite
    | with_reducible apply only_ite
    | with_reducible apply OutOnly.next
    | exact List.Subset.trans (by decide) hl_)

theorem execSessionReset_only {l_ : List Comp} {s0_ : State} {c : Call} {s : State} (hl_ : [Comp.regs, .time, .teller, .power, .lanes, .dmx, .cal, .vlt, .lgr] ⊆ l_)
    (h_ : Only l_ s0_ s) : OutOnly l_ s0_ (execSessionReset c s) := by
  unfold execSessionReset
  try dsimp only
  repeat' (first
    | with_reducible exact h_
    | with_reducible exact hl_
    | with_reducible apply advance_only
    | with_reducible apply respond_only
    | with_reducible apply tellerStarted_only
    | with_reducible apply lostNotice_only
    | with_reducible apply sessionClear_only
    | with_reducible apply OutOnly.ite
    | with_reducible apply only_ite
    | with_reducible apply OutOnly.next
    | exact List.Subset.trans (by decide) hl_
    | dsimp only
    | split)

theorem execStageDrop_only {l_ : List Comp} {s0_ : State} {c : Call} {id : Nat} {s : State} (hl_ : [Comp.regs, .time, .teller] ⊆ l_)
    (h_ : Only l_ s0_ s) : OutOnly l_ s0_ (execStageDrop c id s) := by
  unfold execStageDrop
  try dsimp only
  repeat' (first
    | with_reducible exact h_
    | with_reducible exact hl_
    | with_reducible assumption
    | with_reducible refine command_only ?_ ?_ (fun _ _ => ?_)
    | with_reducible apply refuse_only
    | with_reducible apply accept_only
    | with_reducible apply modTeller_only
    | with_reducible apply OutOnly.ite
    | with_reducible apply only_ite
    | with_reducible apply OutOnly.next
    | exact List.Subset.trans (by decide) hl_
    | dsimp only
    | split)

end Sys2Proof.Laws
end

