-- ==== Sys2Proof/Laws/OnlyDomains.lean ====
section
/-! SUPPORT. Which components of the machine the operations of Machine/Domains.lean may change. -/

namespace Sys2Proof.Laws

open Sys2Proof.Machine Sys2Proof.Safety

theorem modPower_only {l_ : List Comp} {s0_ : State} {f : Power → Power} {s : State} (hl_ : [Comp.power] ⊆ l_)
    (h_ : Only l_ s0_ s) : Only l_ s0_ (modPower f s) := by
  unfold modPower
  try dsimp only
  repeat' (first
    | with_reducible exact h_
    | with_reducible exact hl_
    | with_reducible apply only_ite
    | fail_if_no_progress ((with_reducible refine only_mk (k := [.power]) ?_ ?_ ?lit); case lit => exact fun c hc => by cases c <;> first | with_reducible rfl | exact absurd (by decide) hc))

theorem modDom_only {l_ : List Comp} {s0_ : State} {d : Nat} {f : Dom → Dom} {s : State} (hl_ : [Comp.power] ⊆ l_)
    (h_ : Only l_ s0_ s) : Only l_ s0_ (modDom d f s) := by
  unfold modDom
  try dsimp only
  repeat' (first
    | with_reducible exact h_
    | with_reducible exact hl_
    | with_reducible apply modPower_only)

theorem vinShadows_only {l_ : List Comp} {s0_ : State} {r : Cfg} {s : State} (hl_ : [Comp.regs, .vin] ⊆ l_)
    (h_ : Only l_ s0_ s) : Only l_ s0_ (vinShadows r s) := by
  unfold vinShadows
  try dsimp only
  repeat' (first
    | with_reducible exact h_
    | with_reducible exact hl_
    | with_reducible assumption
    | with_reducible apply vinShadow_only
    | with_reducible refine only_foldl ?_ (fun _ _ _ => ?_))

theorem zoneShadows_only {l_ : List Comp} {s0_ : State} {r : Cfg} {s : State} (hl_ : [Comp.regs] ⊆ l_)
    (h_ : Only l_ s0_ s) : Only l_ s0_ (zoneShadows r s) := by
  unfold zoneShadows
  try dsimp only
  repeat' (first
    | with_reducible exact h_
    | with_reducible exact hl_
    | with_reducible assumption
    | with_reducible apply setReg_only
    | with_reducible apply setReg64_only
    | with_reducible refine only_foldl ?_ (fun _ _ _ => ?_)
    | exact List.Subset.trans (by decide) hl_)

theorem loseRegs_only {l_ : List Comp} {s0_ : State} {d : Nat} {s : State} (hl_ : [Comp.regs] ⊆ l_)
    (h_ : Only l_ s0_ s) : Only l_ s0_ (loseRegs d s) := by
  unfold loseRegs
  try dsimp only
  repeat' (first
    | with_reducible exact h_
    | with_reducible exact hl_
    | with_reducible apply only_ite
    | fail_if_no_progress ((with_reducible refine only_mk (k := [.regs]) ?_ ?_ ?lit); case lit => exact fun c hc => by cases c <;> first | with_reducible rfl | exact absurd (by decide) hc))

theorem dropOff_only {l_ : List Comp} {s0_ : State} {s : State} (hl_ : [Comp.regs] ⊆ l_)
    (h_ : Only l_ s0_ s) : Only l_ s0_ (dropOff s) := by
  unfold dropOff
  try dsimp only
  repeat' (first
    | with_reducible exact h_
    | with_reducible exact hl_
    | with_reducible assumption
    | with_reducible apply loseRegs_only
    | with_reducible refine only_foldl ?_ (fun _ _ _ => ?_)
    | with_reducible apply only_ite)

theorem writeShadows_only {l_ : List Comp} {s0_ : State} {s : State} (hl_ : [Comp.regs, .vin, .cmp, .ras] ⊆ l_)
    (h_ : Only l_ s0_ s) : Only l_ s0_ (writeShadows s) := by
  unfold writeShadows
  try dsimp only
  repeat' (first
    | with_reducible exact h_
    | with_reducible exact hl_
    | with_reducible assumption
    | with_reducible apply copyShadows_only
    | with_reducible apply cmpWrite_only
    | with_reducible apply cmpInForce_only
    | with_reducible apply modRas_only
    | with_reducible apply rasWrite_only
    | with_reducible apply lneShadow_only
    | with_reducible apply dmxShadow_only
    | with_reducible apply radioShadow_only
    | with_reducible apply vinShadows_only
    | with_reducible apply zoneShadows_only
    | with_reducible apply dropOff_only
    | with_reducible refine only_foldl ?_ (fun _ _ _ => ?_)
    | with_reducible apply only_ite
    | with_reducible apply only_ite_fst
    | exact List.Subset.trans (by decide) hl_)

theorem takeDomain_only {l_ : List Comp} {s0_ : State} {d : Nat} {s t : State} (hl_ : [Comp.regs] ⊆ l_) (h_ : Only l_ s0_ s) :
    Only l_ s0_ (takeDomain d s t) :=
  only_trans h_ (only_mono ⟨rfl, rfl, fun c hc => by cases c <;> first | exact absurd (by decide) hc | rfl⟩ hl_)

theorem almOff_only {l_ : List Comp} {s0_ : State} {s : State} (hl_ : [Comp.alm, .pkt] ⊆ l_)
    (h_ : Only l_ s0_ s) : Only l_ s0_ (almOff s) := by
  unfold almOff
  try dsimp only
  repeat' (first
    | with_reducible exact h_
    | with_reducible exact hl_
    | exact List.Subset.trans (by decide) hl_
    | fail_if_no_progress ((with_reducible refine only_mk (k := [.alm, .pkt]) ?_ ?_ ?lit); case lit => exact fun c hc => by cases c <;> first | with_reducible rfl | exact absurd (by decide) hc))

theorem lanesOff_only {l_ : List Comp} {s0_ : State} {s : State} (hl_ : [Comp.regs, .teller, .fifos, .lanes, .dmx] ⊆ l_)
    (h_ : Only l_ s0_ s) : Only l_ s0_ (lanesOff s) := by
  unfold lanesOff
  try dsimp only
  repeat' (first
    | with_reducible exact h_
    | with_reducible exact hl_
    | with_reducible assumption
    | with_reducible apply laneOff_only
    | with_reducible refine only_foldl ?_ (fun _ _ _ => ?_)
    | exact List.Subset.trans (by decide) hl_
    | fail_if_no_progress ((with_reducible refine only_mk (k := [.fifos, .dmx]) ?_ ?_ ?lit); case lit => exact fun c hc => by cases c <;> first | with_reducible rfl | exact absurd (by decide) hc))

theorem domainLeave_only {l_ : List Comp} {s0_ : State} {d : Nat} {s : State} (hl_ : [Comp.regs, .teller, .power, .alm, .fifos, .vin, .cmp, .ras, .fxm, .pho, .pool, .lanes, .mac, .pkt, .dmx, .rad, .esc, .map, .cal, .vlt, .lgr] ⊆ l_)
    (h_ : Only l_ s0_ s) : Only l_ s0_ (domainLeave d s) := by
  unfold domainLeave
  try dsimp only
  repeat' (first
    | with_reducible exact h_
    | with_reducible exact hl_
    | with_reducible assumption
    | with_reducible apply vinStop_only
    | with_reducible apply cmpOff_only
    | with_reducible apply rasStop_only
    | with_reducible apply modPort_only
    | with_reducible apply linkLeave_only
    | with_reducible apply tallyGather_only
    | with_reducible apply modRad_only
    | with_reducible apply mapDomainOff_only
    | with_reducible apply pcieClose_only
    | with_reducible apply loseRegs_only
    | with_reducible apply almOff_only
    | with_reducible apply lanesOff_only
    | with_reducible refine only_foldl ?_ (fun _ _ _ => ?_)
    | with_reducible apply only_ite
    | exact List.Subset.trans (by decide) hl_
    | dsimp only
    | split)

theorem domainEnter_only {l_ : List Comp} {s0_ : State} {d : Nat} {s : State} (hl_ : [Comp.regs, .teller, .power, .alm, .vin, .cmp, .ras, .fxm, .pho, .pool, .lanes, .mac, .dmx, .rad, .esc, .map, .cal, .vlt, .lgr] ⊆ l_)
    (h_ : Only l_ s0_ s) : Only l_ s0_ (domainEnter d s) := by
  unfold domainEnter
  try dsimp only
  repeat' (first
    | with_reducible exact h_
    | with_reducible exact hl_
    | with_reducible assumption
    | with_reducible apply assignQueues_only
    | with_reducible apply laneTrain_only
    | with_reducible apply ringsBegin_only
    | with_reducible apply portRestart_only
    | with_reducible apply rolesBoot_only
    | with_reducible apply pcieOpen_only
    | with_reducible apply writeShadows_only
    | with_reducible apply takeDomain_only
    | with_reducible refine only_foldl ?_ (fun _ _ _ => ?_)
    | with_reducible apply only_ite
    | exact List.Subset.trans (by decide) hl_
    | dsimp only
    | split)

theorem stepStart_only {l_ : List Comp} {s0_ : State} {d : Nat} {s : State} (hl_ : [Comp.regs, .teller, .power, .alm, .fifos, .vin, .cmp, .ras, .fxm, .pho, .pool, .lanes, .mac, .pkt, .dmx, .rad, .esc, .map, .cal, .vlt, .lgr] ⊆ l_)
    (h_ : Only l_ s0_ s) : Only l_ s0_ (stepStart d s) := by
  unfold stepStart
  try dsimp only
  repeat' (first
    | with_reducible exact h_
    | with_reducible exact hl_
    | with_reducible apply modDom_only
    | with_reducible apply domainLeave_only
    | with_reducible apply only_ite
    | exact List.Subset.trans (by decide) hl_)

theorem settleDom_only {l_ : List Comp} {s0_ : State} {s : State} {d : Nat} (hl_ : [Comp.power] ⊆ l_)
    (h_ : Only l_ s0_ s) : Only l_ s0_ (settleDom s d) := by
  unfold settleDom
  try dsimp only
  repeat' (first
    | with_reducible exact h_
    | with_reducible exact hl_
    | with_reducible apply modDom_only
    | with_reducible apply only_ite)

theorem kick_only {l_ : List Comp} {s0_ : State} {s : State} (hl_ : [Comp.regs, .teller, .power, .alm, .fifos, .vin, .cmp, .ras, .fxm, .pho, .pool, .lanes, .mac, .pkt, .dmx, .rad, .esc, .map, .cal, .vlt, .lgr] ⊆ l_)
    (h_ : Only l_ s0_ s) : Only l_ s0_ (kick s) := by
  unfold kick
  try dsimp only
  repeat' (first
    | with_reducible exact h_
    | with_reducible exact hl_
    | with_reducible assumption
    | with_reducible apply stepStart_only
    | with_reducible apply settleDom_only
    | with_reducible refine only_foldl ?_ (fun _ _ _ => ?_)
    | with_reducible apply only_ite
    | exact List.Subset.trans (by decide) hl_
    | dsimp only
    | split)

theorem domainNotice_only {l_ : List Comp} {s0_ : State} {d : Nat} {s : State} (hl_ : [Comp.regs, .teller] ⊆ l_)
    (h_ : Only l_ s0_ s) : Only l_ s0_ (domainNotice d s) := by
  unfold domainNotice
  try dsimp only
  repeat' (first
    | with_reducible exact h_
    | with_reducible exact hl_
    | with_reducible apply setFlag_only
    | with_reducible apply notify_only
    | with_reducible apply only_ite
    | exact List.Subset.trans (by decide) hl_)

theorem stepDone_only {l_ : List Comp} {s0_ : State} {d : Nat} {s : State} (hl_ : [Comp.regs, .teller, .power, .alm, .fifos, .vin, .cmp, .ras, .fxm, .pho, .pool, .lanes, .mac, .pkt, .dmx, .rad, .esc, .map, .cal, .vlt, .lgr] ⊆ l_)
    (h_ : Only l_ s0_ s) : Only l_ s0_ (stepDone d s) := by
  unfold stepDone
  try dsimp only
  repeat' (first
    | with_reducible exact h_
    | with_reducible exact hl_
    | with_reducible apply bump_only
    | with_reducible apply modDom_only
    | with_reducible apply domainEnter_only
    | with_reducible apply kick_only
    | with_reducible apply domainNotice_only
    | with_reducible apply only_ite
    | exact List.Subset.trans (by decide) hl_
    | dsimp only
    | split)

theorem selfRefresh_only {l_ : List Comp} {s0_ : State} {s : State} (hl_ : [Comp.regs, .power] ⊆ l_)
    (h_ : Only l_ s0_ s) : Only l_ s0_ (selfRefresh s) := by
  unfold selfRefresh
  try dsimp only
  repeat' (first
    | with_reducible exact h_
    | with_reducible exact hl_
    | with_reducible apply bump_only
    | with_reducible apply modPower_only
    | with_reducible apply only_ite
    | exact List.Subset.trans (by decide) hl_)

theorem execDramIdleEntry_only {l_ : List Comp} {s0_ : State} {t : Nat} {idleNs : Nat} {s : State} (hl_ : [Comp.regs, .time, .power] ⊆ l_)
    (h_ : Only l_ s0_ s) : OutOnly l_ s0_ (execDramIdleEntry t idleNs s) := by
  unfold execDramIdleEntry
  try dsimp only
  repeat' (first
    | with_reducible exact h_
    | with_reducible exact hl_
    | with_reducible apply advance_only
    | with_reducible apply modPower_only
    | with_reducible apply selfRefresh_only
    | with_reducible apply OutOnly.ite
    | with_reducible apply only_ite
    | with_reducible apply OutOnly.next
    | exact List.Subset.trans (by decide) hl_
    | dsimp only
    | split)

theorem dramWake_only {l_ : List Comp} {s0_ : State} {s : State} (hl_ : [Comp.power] ⊆ l_)
    (h_ : Only l_ s0_ s) : Only l_ s0_ (dramWake s) := by
  unfold dramWake
  try dsimp only
  repeat' (first
    | with_reducible exact h_
    | with_reducible exact hl_
    | with_reducible apply modPower_only)

end Sys2Proof.Laws
end

