-- ==== Sys2Proof/Laws/OnlyImages.lean ====
section
/-! SUPPORT. Which components of the machine the operations of Machine/Images.lean may change. -/

namespace Sys2Proof.Laws

open Sys2Proof.Machine Sys2Proof.Safety

theorem codeRefused_only {l_ : List Comp} {s0_ : State} {t : Option Trailer} {s : State} (hl_ : [Comp.regs] ⊆ l_)
    (h_ : Only l_ s0_ s) : Only l_ s0_ (codeRefused t s).1 := by
  unfold codeRefused
  try dsimp only
  repeat' (first
    | with_reducible exact h_
    | with_reducible exact hl_
    | with_reducible apply unauth_only
    | with_reducible apply sigFail_only
    | with_reducible apply only_ite_fst)

theorem kernelLoad_only {l_ : List Comp} {s0_ : State} {p : KernelLoad} {s : State} (hl_ : [Comp.regs, .map] ⊆ l_)
    (h_ : Only l_ s0_ s) : Only l_ s0_ (kernelLoad p s).1 := by
  unfold kernelLoad
  try dsimp only
  repeat' (first
    | with_reducible exact h_
    | with_reducible exact hl_
    | with_reducible apply refuse_only
    | with_reducible apply accept_only
    | with_reducible apply modMap_only
    | with_reducible apply codeRefused_only
    | with_reducible apply only_ite
    | with_reducible apply only_ite_fst
    | exact List.Subset.trans (by decide) hl_
    | dsimp only
    | split)

theorem execKernelLoad_only {l_ : List Comp} {s0_ : State} {c : Call} {p : KernelLoad} {s : State} (hl_ : [Comp.regs, .time, .teller, .map] ⊆ l_)
    (h_ : Only l_ s0_ s) : OutOnly l_ s0_ (execKernelLoad c p s) := by
  unfold execKernelLoad
  try dsimp only
  repeat' (first
    | with_reducible exact h_
    | with_reducible exact hl_
    | with_reducible assumption
    | with_reducible refine command_only ?_ ?_ (fun _ _ => ?_)
    | with_reducible apply kernelLoad_only
    | with_reducible apply OutOnly.ite
    | with_reducible apply only_ite
    | with_reducible apply OutOnly.next
    | exact List.Subset.trans (by decide) hl_)

theorem pktCodeLoad_only {l_ : List Comp} {s0_ : State} {p : PktCodeLoad} {s : State} (hl_ : [Comp.regs, .pkt] ⊆ l_)
    (h_ : Only l_ s0_ s) : Only l_ s0_ (pktCodeLoad p s).1 := by
  unfold pktCodeLoad
  try dsimp only
  repeat' (first
    | with_reducible exact h_
    | with_reducible exact hl_
    | with_reducible apply refuse_only
    | with_reducible apply accept_only
    | with_reducible apply modPkt_only
    | with_reducible apply codeRefused_only
    | with_reducible apply only_ite
    | with_reducible apply only_ite_fst
    | exact List.Subset.trans (by decide) hl_
    | dsimp only
    | split)

theorem execPktCodeLoad_only {l_ : List Comp} {s0_ : State} {c : Call} {p : PktCodeLoad} {s : State} (hl_ : [Comp.regs, .time, .teller, .pkt] ⊆ l_)
    (h_ : Only l_ s0_ s) : OutOnly l_ s0_ (execPktCodeLoad c p s) := by
  unfold execPktCodeLoad
  try dsimp only
  repeat' (first
    | with_reducible exact h_
    | with_reducible exact hl_
    | with_reducible assumption
    | with_reducible refine command_only ?_ ?_ (fun _ _ => ?_)
    | with_reducible apply pktCodeLoad_only
    | with_reducible apply OutOnly.ite
    | with_reducible apply only_ite
    | with_reducible apply OutOnly.next
    | exact List.Subset.trans (by decide) hl_)

theorem execShowGet_only {l_ : List Comp} {s0_ : State} {c : Call} {s : State} (hl_ : [Comp.regs, .time, .teller] ⊆ l_)
    (h_ : Only l_ s0_ s) : OutOnly l_ s0_ (execShowGet c s) := by
  unfold execShowGet
  try dsimp only
  repeat' (first
    | with_reducible exact h_
    | with_reducible exact hl_
    | with_reducible assumption
    | with_reducible refine command_only ?_ ?_ (fun _ _ => ?_)
    | with_reducible apply answer_only
    | with_reducible apply OutOnly.ite
    | with_reducible apply OutOnly.next
    | exact List.Subset.trans (by decide) hl_
    | dsimp only
    | split)

theorem thenKick_only {l_ : List Comp} {s0_ : State} {p : State × Reply} (hl_ : [Comp.regs, .time, .teller, .power, .alm, .fifos, .vin, .cmp, .ras, .fxm, .pho, .pool, .lanes, .lamps, .mac, .pkt, .dmx, .rad, .esc, .map, .cal, .vlt, .lgr] ⊆ l_) (h_ : Only l_ s0_ p.1) :
    Only l_ s0_ (thenKick p).1 := kick_only (List.Subset.trans (by decide) hl_) h_

theorem execMacPortSet_only {l_ : List Comp} {s0_ : State} {c : Call} {p : MacPortSet} {s : State} (hl_ : [Comp.regs, .time, .teller, .power, .alm, .fifos, .vin, .cmp, .ras, .fxm, .pho, .pool, .lanes, .lamps, .mac, .pkt, .dmx, .rad, .esc, .map, .cal, .vlt, .lgr] ⊆ l_) (h_ : Only l_ s0_ s) :
    OutOnly l_ s0_ (execMacPortSet c p s) :=
  command_only (List.Subset.trans (by decide) hl_) h_ (fun _ hx => thenKick_only (List.Subset.trans (by decide) hl_)
    (macPortSet_only (List.Subset.trans (by decide) hl_) hx))

theorem execMapEngineSet_only {l_ : List Comp} {s0_ : State} {c : Call} {engine action : Nat} {s : State} (hl_ : [Comp.regs, .time, .teller, .power, .alm, .fifos, .vin, .cmp, .ras, .fxm, .pho, .pool, .lanes, .lamps, .mac, .pkt, .dmx, .rad, .esc, .map, .cal, .vlt, .lgr] ⊆ l_) (h_ : Only l_ s0_ s) :
    OutOnly l_ s0_ (execMapEngineSet c engine action s) :=
  command_only (List.Subset.trans (by decide) hl_) h_ (fun _ hx => thenKick_only (List.Subset.trans (by decide) hl_)
    (mapEngineSet_only (List.Subset.trans (by decide) hl_) hx))

theorem execPairSet_only {l_ : List Comp} {s0_ : State} {c : Call} {p : PairSet} {s : State} (hl_ : [Comp.regs, .time, .teller, .power, .alm, .fifos, .vin, .cmp, .ras, .fxm, .pho, .pool, .lanes, .mac, .pkt, .dmx, .rad, .esc, .map, .cal, .vlt, .lgr] ⊆ l_)
    (h_ : Only l_ s0_ s) : OutOnly l_ s0_ (execPairSet c p s) := by
  unfold execPairSet
  try dsimp only
  repeat' (first
    | with_reducible exact h_
    | with_reducible exact hl_
    | with_reducible assumption
    | with_reducible refine command_only ?_ ?_ (fun _ _ => ?_)
    | with_reducible apply refuse_only
    | with_reducible apply accept_only
    | with_reducible apply pairSet_only
    | with_reducible apply kick_only
    | with_reducible apply OutOnly.ite
    | with_reducible apply only_ite
    | with_reducible apply only_ite_fst
    | with_reducible apply OutOnly.next
    | exact List.Subset.trans (by decide) hl_
    | dsimp only
    | split)

end Sys2Proof.Laws
end

