-- ==== Sys2Proof/Laws/OnlyCommit.lean ====
section
/-! SUPPORT. Which components of the machine the operations of Machine/Commit.lean may change. -/

namespace Sys2Proof.Laws

open Sys2Proof.Machine Sys2Proof.Safety

theorem takeDelays_only {l_ : List Comp} {s0_ : State} {base : Cfg} {draft : Cfg} {k : Int} {s : State} (hl_ : [Comp.alm] ⊆ l_)
    (h_ : Only l_ s0_ s) : Only l_ s0_ (takeDelays base draft k s) := by
  unfold takeDelays
  try dsimp only
  repeat' (first
    | with_reducible exact h_
    | with_reducible exact hl_
    | with_reducible assumption
    | with_reducible apply modAlm_only
    | with_reducible refine only_foldl ?_ (fun _ _ _ => ?_)
    | exact List.Subset.trans (by decide) hl_)

theorem commitTake_only {l_ : List Comp} {s0_ : State} {tag : Int} {flags : Nat} {stage : Nat} {msgs : List ConfigMsg} {owed : Option Call} {s : State} (hl_ : [Comp.regs, .teller, .power, .alm, .fifos, .vin, .record, .cmp, .ras, .fxm, .pho, .pool, .lanes, .mac, .pkt, .dmx, .rad, .esc, .map, .cal, .vlt, .lgr] ⊆ l_)
    (h_ : Only l_ s0_ s) : Only l_ s0_ (commitTake tag flags stage msgs owed s) := by
  unfold commitTake
  try dsimp only
  repeat' (first
    | with_reducible exact h_
    | with_reducible exact hl_
    | with_reducible apply modFxm_only
    | with_reducible apply modTeller_only
    | with_reducible apply kick_only
    | with_reducible apply dramWake_only
    | with_reducible apply takeDelays_only
    | with_reducible apply only_ite
    | exact List.Subset.trans (by decide) hl_
    | fail_if_no_progress ((with_reducible refine only_mk (k := [.record]) ?_ ?_ ?lit); case lit => exact fun c hc => by cases c <;> first | with_reducible rfl | exact absurd (by decide) hc))

theorem vinForce_only {l_ : List Comp} {s0_ : State} {old : State} {k : Int} {s : State} (hl_ : [Comp.regs, .teller, .vin, .mac] ⊆ l_)
    (h_ : Only l_ s0_ s) : Only l_ s0_ (vinForce old k s) := by
  unfold vinForce
  try dsimp only
  repeat' (first
    | with_reducible exact h_
    | with_reducible exact hl_
    | with_reducible apply vinConfigure_only
    | with_reducible apply joinReports_only
    | exact List.Subset.trans (by decide) hl_)

theorem forceA_only {l_ : List Comp} {s0_ : State} {k : Int} {s : State} {a : Accepted} (hl_ : [Comp.regs, .teller, .vin, .cfgA, .cmp, .ras, .mac] ⊆ l_)
    (h_ : Only l_ s0_ s) : Only l_ s0_ (forceA k s a) := by
  unfold forceA
  try dsimp only
  repeat' (first
    | with_reducible exact h_
    | with_reducible exact hl_
    | with_reducible assumption
    | with_reducible apply setReg_only
    | with_reducible apply copyShadows_only
    | with_reducible apply vinShadow_only
    | with_reducible apply cmpCommit_only
    | with_reducible apply rasCommit_only
    | with_reducible apply vinForce_only
    | with_reducible refine only_foldl ?_ (fun _ _ _ => ?_)
    | exact List.Subset.trans (by decide) hl_
    | fail_if_no_progress ((with_reducible refine only_mk (k := [.cfgA]) ?_ ?_ ?lit); case lit => exact fun c hc => by cases c <;> first | with_reducible rfl | exact absurd (by decide) hc))

theorem configA_only {l_ : List Comp} {s0_ : State} {k : Int} {s : State} (hl_ : [Comp.regs, .teller, .vin, .cfgA, .cmp, .ras, .mac] ⊆ l_)
    (h_ : Only l_ s0_ s) : Only l_ s0_ (configA k s) := by
  unfold configA
  try dsimp only
  repeat' (first
    | with_reducible exact h_
    | with_reducible exact hl_
    | with_reducible assumption
    | with_reducible apply modTeller_only
    | with_reducible apply forceA_only
    | with_reducible refine only_foldl ?_ (fun _ _ _ => ?_)
    | with_reducible apply only_ite
    | exact List.Subset.trans (by decide) hl_)

theorem shadowDelays_only {l_ : List Comp} {s0_ : State} {k : Int} {s : State} (hl_ : [Comp.alm] ⊆ l_)
    (h_ : Only l_ s0_ s) : Only l_ s0_ (shadowDelays k s) := by
  unfold shadowDelays
  try dsimp only
  repeat' (first
    | with_reducible exact h_
    | with_reducible exact hl_
    | with_reducible assumption
    | with_reducible apply modAlm_only
    | with_reducible refine only_foldl ?_ (fun _ _ _ => ?_)
    | exact List.Subset.trans (by decide) hl_)

theorem copyB_only {l_ : List Comp} {s0_ : State} {k : Int} {s : State} (hl_ : [Comp.regs, .alm, .cfgA, .cfgB] ⊆ l_)
    (h_ : Only l_ s0_ s) : Only l_ s0_ (copyB k s) := by
  unfold copyB
  try dsimp only
  repeat' (first
    | with_reducible exact h_
    | with_reducible exact hl_
    | with_reducible apply copyShadows_only
    | with_reducible apply shadowDelays_only
    | with_reducible apply only_ite
    | exact List.Subset.trans (by decide) hl_
    | fail_if_no_progress ((with_reducible refine only_mk (k := [.cfgA, .cfgB]) ?_ ?_ ?lit); case lit => exact fun c hc => by cases c <;> first | with_reducible rfl | exact absurd (by decide) hc))

theorem recordsWritten_only {l_ : List Comp} {s0_ : State} {old : Cfg} {a : Accepted} {s : State} (hl_ : [Comp.pho] ⊆ l_)
    (h_ : Only l_ s0_ s) : Only l_ s0_ (recordsWritten old a s) := by
  unfold recordsWritten
  try dsimp only
  repeat' (first
    | with_reducible exact h_
    | with_reducible exact hl_
    | with_reducible apply writeRecords_only
    | with_reducible apply only_ite
    | exact List.Subset.trans (by decide) hl_)

theorem forceB_only {l_ : List Comp} {s0_ : State} {s : State} {a : Accepted} (hl_ : [Comp.regs, .teller, .alm, .cfgA, .cfgB, .fxm, .pho, .lanes, .mac, .pkt, .dmx, .rad, .esc] ⊆ l_)
    (h_ : Only l_ s0_ s) : Only l_ s0_ (forceB s a) := by
  unfold forceB
  try dsimp only
  repeat' (first
    | with_reducible exact h_
    | with_reducible exact hl_
    | with_reducible apply modFxm_only
    | with_reducible apply mapFollow_only
    | with_reducible apply flipBanks_only
    | with_reducible apply lneShadow_only
    | with_reducible apply lneConfigure_only
    | with_reducible apply dmxShadow_only
    | with_reducible apply pktConfigure_only
    | with_reducible apply modEsc_only
    | with_reducible apply unitsFollow_only
    | with_reducible apply radConfigure_only
    | with_reducible apply zoneShadows_only
    | with_reducible apply copyB_only
    | with_reducible apply recordsWritten_only
    | with_reducible apply only_ite
    | exact List.Subset.trans (by decide) hl_
    | fail_if_no_progress ((with_reducible refine only_mk (k := [.cfgB]) ?_ ?_ ?lit); case lit => exact fun c hc => by cases c <;> first | with_reducible rfl | exact absurd (by decide) hc))

theorem commitDone_only {l_ : List Comp} {s0_ : State} {s : State} {a : Accepted} (hl_ : [Comp.regs, .teller] ⊆ l_)
    (h_ : Only l_ s0_ s) : Only l_ s0_ (commitDone s a) := by
  unfold commitDone
  try dsimp only
  repeat' (first
    | with_reducible exact h_
    | with_reducible exact hl_
    | with_reducible apply respondOwed_only
    | with_reducible apply modTeller_only
    | with_reducible apply only_ite
    | exact List.Subset.trans (by decide) hl_)

theorem configB_only {l_ : List Comp} {s0_ : State} {k : Int} {s : State} (hl_ : [Comp.regs, .teller, .alm, .cfgA, .cfgB, .fxm, .pho, .lanes, .mac, .pkt, .dmx, .rad, .esc] ⊆ l_)
    (h_ : Only l_ s0_ s) : Only l_ s0_ (configB k s) := by
  unfold configB
  try dsimp only
  repeat' (first
    | with_reducible exact h_
    | with_reducible exact hl_
    | with_reducible assumption
    | with_reducible apply setFlag_only
    | with_reducible apply digestCheck_only
    | with_reducible apply forceB_only
    | with_reducible apply commitDone_only
    | with_reducible refine only_foldl ?_ (fun _ _ _ => ?_)
    | with_reducible apply only_ite
    | exact List.Subset.trans (by decide) hl_)

theorem writeNow_only {l_ : List Comp} {s0_ : State} {s : State} {a : Accepted} (hl_ : [Comp.regs, .teller, .alm, .vin, .cfgA, .cfgB, .cmp, .ras, .fxm, .pho, .lanes, .mac, .pkt, .dmx, .rad] ⊆ l_)
    (h_ : Only l_ s0_ s) : Only l_ s0_ (writeNow s a) := by
  unfold writeNow
  try dsimp only
  repeat' (first
    | with_reducible exact h_
    | with_reducible exact hl_
    | with_reducible apply modFxm_only
    | with_reducible apply mapFollow_only
    | with_reducible apply flipBanks_only
    | with_reducible apply writeRecords_only
    | with_reducible apply lneConfigure_only
    | with_reducible apply pktConfigure_only
    | with_reducible apply unitsFollow_only
    | with_reducible apply radConfigure_only
    | with_reducible apply modTeller_only
    | with_reducible apply writeShadows_only
    | with_reducible apply takeDelays_only
    | with_reducible apply vinForce_only
    | with_reducible apply commitDone_only
    | exact List.Subset.trans (by decide) hl_
    | fail_if_no_progress ((with_reducible refine only_mk (k := [.cfgA, .cfgB]) ?_ ?_ ?lit); case lit => exact fun c hc => by cases c <;> first | with_reducible rfl | exact absurd (by decide) hc))

theorem settleEarly_only {l_ : List Comp} {s0_ : State} {s : State} (hl_ : [Comp.regs, .teller, .alm, .vin, .cfgA, .cfgB, .cmp, .ras, .fxm, .pho, .lanes, .mac, .pkt, .dmx, .rad] ⊆ l_)
    (h_ : Only l_ s0_ s) : Only l_ s0_ (settleEarly s) := by
  unfold settleEarly
  try dsimp only
  repeat' (first
    | with_reducible exact h_
    | with_reducible exact hl_
    | with_reducible assumption
    | with_reducible apply writeNow_only
    | with_reducible refine only_foldl ?_ (fun _ _ _ => ?_)
    | with_reducible apply only_ite)

theorem execDomainStepDone_only {l_ : List Comp} {s0_ : State} {t : Nat} {d : Domain} {s : State} (hl_ : [Comp.regs, .time, .teller, .power, .alm, .fifos, .vin, .cfgA, .cfgB, .cmp, .ras, .fxm, .pho, .pool, .lanes, .mac, .pkt, .dmx, .rad, .esc, .map, .cal, .vlt, .lgr] ⊆ l_)
    (h_ : Only l_ s0_ s) : OutOnly l_ s0_ (execDomainStepDone t d s) := by
  unfold execDomainStepDone
  try dsimp only
  repeat' (first
    | with_reducible exact h_
    | with_reducible exact hl_
    | with_reducible apply advance_only
    | with_reducible apply stepDone_only
    | with_reducible apply settleEarly_only
    | with_reducible apply OutOnly.ite
    | with_reducible apply only_ite
    | with_reducible apply OutOnly.next
    | exact List.Subset.trans (by decide) hl_)

theorem closeCommit_only {l_ : List Comp} {s0_ : State} {s : State} (hl_ : [Comp.teller] ⊆ l_)
    (h_ : Only l_ s0_ s) : Only l_ s0_ (closeCommit s) := by
  unfold closeCommit
  try dsimp only
  repeat' (first
    | with_reducible exact h_
    | with_reducible exact hl_
    | with_reducible apply modTeller_only)

theorem rejected_only {l_ : List Comp} {s0_ : State} {s : State} (hl_ : [Comp.regs] ⊆ l_)
    (h_ : Only l_ s0_ s) : Only l_ s0_ (rejected s) := by
  unfold rejected
  try dsimp only
  repeat' (first
    | with_reducible exact h_
    | with_reducible exact hl_
    | with_reducible apply bump_only
    | with_reducible apply setFlag_only)

theorem commitPlace_only {l_ : List Comp} {s0_ : State} {flags : Nat} {k : Nat} {stage : Nat} {arrival : Int} {msgs : List ConfigMsg} {owed : Option Call} {s : State} (hl_ : [Comp.regs, .teller, .power, .alm, .fifos, .vin, .record, .cmp, .ras, .fxm, .pho, .pool, .lanes, .mac, .pkt, .dmx, .rad, .esc, .map, .cal, .vlt, .lgr] ⊆ l_)
    (h_ : Only l_ s0_ s) : Only l_ s0_ (commitPlace flags k stage arrival msgs owed s).1 := by
  unfold commitPlace
  try dsimp only
  repeat' (first
    | with_reducible exact h_
    | with_reducible exact hl_
    | with_reducible apply bump_only
    | with_reducible apply commitTake_only
    | with_reducible apply only_ite
    | with_reducible apply only_ite_fst
    | exact List.Subset.trans (by decide) hl_
    | dsimp only
    | split)

theorem commitNot_only {l_ : List Comp} {s0_ : State} {st : Status} {stage : Nat} {s : State} (hl_ : [] ⊆ l_)
    (h_ : Only l_ s0_ s) : Only l_ s0_ (commitNot st stage s).1 := by
  unfold commitNot
  try dsimp only
  repeat' (first
    | with_reducible exact h_)

theorem commitEarly_only {l_ : List Comp} {s0_ : State} {c : Call} {stage : Nat} {msgs : List ConfigMsg} {s : State} (hl_ : [Comp.regs, .teller, .power, .alm, .fifos, .vin, .record, .cfgA, .cfgB, .cmp, .ras, .fxm, .pho, .pool, .lanes, .mac, .pkt, .dmx, .rad, .esc, .map, .cal, .vlt, .lgr] ⊆ l_)
    (h_ : Only l_ s0_ s) : Only l_ s0_ (commitEarly c stage msgs s).1 := by
  unfold commitEarly
  try dsimp only
  repeat' (first
    | with_reducible exact h_
    | with_reducible exact hl_
    | with_reducible apply commitTake_only
    | with_reducible apply settleEarly_only
    | with_reducible apply only_ite
    | with_reducible apply only_ite_fst
    | exact List.Subset.trans (by decide) hl_
    | dsimp only
    | split)

theorem commitJudged_only {l_ : List Comp} {s0_ : State} {c : Call} {p : CommitSet} {msgs : List ConfigMsg} {s : State}
    {v : Option (Nat × List Int)} (hl_ : [Comp.regs, .teller, .power, .alm, .fifos, .vin, .record, .cfgA, .cfgB, .cmp, .ras, .fxm, .pho, .pool, .lanes, .lamps, .mac, .pkt, .dmx, .rad, .esc, .map, .cal, .vlt, .lgr] ⊆ l_) (h_ : Only l_ s0_ s) : Only l_ s0_ (commitJudged c p msgs s v).1 := by
  unfold commitJudged
  split
  · exact rejected_only (List.Subset.trans (by decide) hl_) h_
  · split
    · dsimp only
      exact modTeller_only (List.Subset.trans (by decide) hl_) h_
    · split
      · exact commitEarly_only (List.Subset.trans (by decide) hl_) h_
      · exact commitPlace_only (List.Subset.trans (by decide) hl_) h_

theorem commitRun_only {l_ : List Comp} {s0_ : State} {c : Call} {p : CommitSet} {msgs : List ConfigMsg} {s : State} (hl_ : [Comp.regs, .teller, .power, .alm, .fifos, .vin, .record, .cfgA, .cfgB, .cmp, .ras, .fxm, .pho, .pool, .lanes, .lamps, .mac, .pkt, .dmx, .rad, .esc, .map, .cal, .vlt, .lgr] ⊆ l_)
    (h_ : Only l_ s0_ s) : Only l_ s0_ (commitRun c p msgs s).1 := by
  unfold commitRun
  try dsimp only
  repeat' (first
    | with_reducible exact h_
    | with_reducible exact hl_
    | with_reducible apply commitNot_only
    | with_reducible apply commitJudged_only
    | with_reducible apply only_ite
    | with_reducible apply only_ite_fst
    | exact List.Subset.trans (by decide) hl_
    | dsimp only
    | split)

theorem execCommitOpen_only {l_ : List Comp} {s0_ : State} {c : Call} {s : State} (hl_ : [Comp.regs, .time, .teller] ⊆ l_)
    (h_ : Only l_ s0_ s) : OutOnly l_ s0_ (execCommitOpen c s) := by
  unfold execCommitOpen
  try dsimp only
  repeat' (first
    | with_reducible exact h_
    | with_reducible exact hl_
    | with_reducible assumption
    | with_reducible refine command_only ?_ ?_ (fun _ _ => ?_)
    | with_reducible apply refuse_only
    | with_reducible apply accept_only
    | with_reducible apply modTeller_only
    | with_reducible apply OutOnly.ite
    | with_reducible apply only_ite
    | with_reducible apply OutOnly.next
    | exact List.Subset.trans (by decide) hl_
    | dsimp only
    | split)

theorem execCommitAbort_only {l_ : List Comp} {s0_ : State} {c : Call} {s : State} (hl_ : [Comp.regs, .time, .teller] ⊆ l_)
    (h_ : Only l_ s0_ s) : OutOnly l_ s0_ (execCommitAbort c s) := by
  unfold execCommitAbort
  try dsimp only
  repeat' (first
    | with_reducible exact h_
    | with_reducible exact hl_
    | with_reducible assumption
    | with_reducible refine command_only ?_ ?_ (fun _ _ => ?_)
    | with_reducible apply refuse_only
    | with_reducible apply accept_only
    | with_reducible apply closeCommit_only
    | with_reducible apply OutOnly.ite
    | with_reducible apply only_ite
    | with_reducible apply OutOnly.next
    | exact List.Subset.trans (by decide) hl_
    | dsimp only
    | split)

theorem execCommit_only {l_ : List Comp} {s0_ : State} {c : Call} {p : CommitSet} {s : State} (hl_ : [Comp.regs, .time, .teller, .power, .alm, .fifos, .vin, .record, .cfgA, .cfgB, .cmp, .ras, .fxm, .pho, .pool, .lanes, .lamps, .mac, .pkt, .dmx, .rad, .esc, .map, .cal, .vlt, .lgr] ⊆ l_)
    (h_ : Only l_ s0_ s) : OutOnly l_ s0_ (execCommit c p s) := by
  unfold execCommit
  try dsimp only
  repeat' (first
    | with_reducible exact h_
    | with_reducible exact hl_
    | with_reducible assumption
    | with_reducible refine commandLater_only ?_ ?_ (fun _ _ => ?_)
    | with_reducible apply closeCommit_only
    | with_reducible apply commitRun_only
    | with_reducible apply OutOnly.ite
    | with_reducible apply only_ite
    | with_reducible apply OutOnly.next
    | exact List.Subset.trans (by decide) hl_
    | dsimp only
    | split)

theorem stageResult_only {l_ : List Comp} {s0_ : State} {stage : Nat} {cue : Nat} {fields : List Int} {s : State} (hl_ : [Comp.regs, .teller] ⊆ l_)
    (h_ : Only l_ s0_ s) : Only l_ s0_ (stageResult stage cue fields s) := by
  unfold stageResult
  try dsimp only
  repeat' (first
    | with_reducible exact h_
    | with_reducible exact hl_
    | with_reducible apply notify_only)

theorem stagePlaced_only {l_ : List Comp} {s0_ : State} {stage cue : Nat} {p : State × Reply} (hl_ : [Comp.regs, .teller] ⊆ l_)
    (h_ : Only l_ s0_ p.1) : Only l_ s0_ (stagePlaced stage cue p) := stageResult_only (List.Subset.trans (by decide) hl_) h_

theorem applyJudged_only {l_ : List Comp} {s0_ : State} {g : Stage} {cue : Nat} {at_ : Int} {s : State} {v : Option (Nat × List Int)} (hl_ : [Comp.regs, .teller, .power, .alm, .fifos, .vin, .record, .cmp, .ras, .fxm, .pho, .pool, .lanes, .lamps, .mac, .pkt, .dmx, .rad, .esc, .map, .cal, .vlt, .lgr] ⊆ l_) (h_ : Only l_ s0_ s) :
    Only l_ s0_ (applyJudged g cue at_ s v) := by
  unfold applyJudged
  split
  · exact stageResult_only (List.Subset.trans (by decide) hl_) (rejected_only (List.Subset.trans (by decide) hl_) h_)
  · exact stagePlaced_only (List.Subset.trans (by decide) hl_) (commitPlace_only (List.Subset.trans (by decide) hl_) h_)

theorem applyGroup_only {l_ : List Comp} {s0_ : State} {g : Stage} {cue : Nat} {at_ : Int} {s : State} (hl_ : [Comp.regs, .teller, .power, .alm, .fifos, .vin, .record, .cmp, .ras, .fxm, .pho, .pool, .lanes, .lamps, .mac, .pkt, .dmx, .rad, .esc, .map, .cal, .vlt, .lgr] ⊆ l_)
    (h_ : Only l_ s0_ s) : Only l_ s0_ (applyGroup g cue at_ s) := by
  unfold applyGroup
  try dsimp only
  repeat' (first
    | with_reducible exact h_
    | with_reducible exact hl_
    | with_reducible apply applyJudged_only
    | exact List.Subset.trans (by decide) hl_)

theorem applyStage_only {l_ : List Comp} {s0_ : State} {stage : Nat} {cue : Nat} {at_ : Int} {s : State} (hl_ : [Comp.regs, .teller, .power, .alm, .fifos, .vin, .record, .cmp, .ras, .fxm, .pho, .pool, .lanes, .lamps, .mac, .pkt, .dmx, .rad, .esc, .map, .cal, .vlt, .lgr] ⊆ l_)
    (h_ : Only l_ s0_ s) : Only l_ s0_ (applyStage stage cue at_ s) := by
  unfold applyStage
  try dsimp only
  repeat' (first
    | with_reducible exact h_
    | with_reducible exact hl_
    | with_reducible apply modTeller_only
    | with_reducible apply stageResult_only
    | with_reducible apply applyGroup_only
    | with_reducible apply only_ite
    | exact List.Subset.trans (by decide) hl_
    | dsimp only
    | split)

theorem execCalRecordWrite_only {l_ : List Comp} {s0_ : State} {t : Nat} {s : State} (hl_ : [Comp.time, .pho] ⊆ l_)
    (h_ : Only l_ s0_ s) : OutOnly l_ s0_ (execCalRecordWrite t s) := by
  unfold execCalRecordWrite
  try dsimp only
  repeat' (first
    | with_reducible exact h_
    | with_reducible exact hl_
    | with_reducible apply advance_only
    | with_reducible apply writeRecords_only
    | with_reducible apply OutOnly.ite
    | with_reducible apply only_ite
    | with_reducible apply OutOnly.next
    | exact List.Subset.trans (by decide) hl_
    | dsimp only
    | split)

theorem bothParts_only {l_ : List Comp} {s0_ : State} {r : Cfg} {s : State} (hl_ : [Comp.cfgA, .cfgB] ⊆ l_)
    (h_ : Only l_ s0_ s) : Only l_ s0_ (bothParts r s) := by
  unfold bothParts
  try dsimp only
  repeat' (first
    | with_reducible exact h_
    | with_reducible exact hl_
    | exact List.Subset.trans (by decide) hl_
    | fail_if_no_progress ((with_reducible refine only_mk (k := [.cfgA, .cfgB]) ?_ ?_ ?lit); case lit => exact fun c hc => by cases c <;> first | with_reducible rfl | exact absurd (by decide) hc))

theorem finishAccepted_only {l_ : List Comp} {s0_ : State} {s : State} (hl_ : [Comp.regs, .teller, .cfgA, .cfgB, .pho] ⊆ l_)
    (h_ : Only l_ s0_ s) : Only l_ s0_ (finishAccepted s) := by
  unfold finishAccepted
  try dsimp only
  repeat' (first
    | with_reducible exact h_
    | with_reducible exact hl_
    | with_reducible assumption
    | with_reducible apply flipBanks_only
    | with_reducible apply recordsWritten_only
    | with_reducible apply commitDone_only
    | with_reducible apply bothParts_only
    | with_reducible refine only_foldl ?_ (fun _ _ _ => ?_)
    | exact List.Subset.trans (by decide) hl_)

theorem showStop_only {l_ : List Comp} {s0_ : State} {s : State} (hl_ : [Comp.regs, .time, .teller, .alm, .protect, .vin, .cfgA, .cfgB, .cmp, .ras, .fxm, .pho, .pool, .lanes, .dmx, .rad, .esc, .map] ⊆ l_)
    (h_ : Only l_ s0_ s) : Only l_ s0_ (showStop s) := by
  unfold showStop
  try dsimp only
  repeat' (first
    | with_reducible exact h_
    | with_reducible exact hl_
    | with_reducible apply timeStop_only
    | with_reducible apply almStop_only
    | with_reducible apply vinStop_only
    | with_reducible apply cmpStop_only
    | with_reducible apply rasStop_only
    | with_reducible apply fxmStop_only
    | with_reducible apply lneStop_only
    | with_reducible apply pktStop_only
    | with_reducible apply radStop_only
    | with_reducible apply mapStop_only
    | with_reducible apply escStop_only
    | with_reducible apply modTeller_only
    | with_reducible apply finishAccepted_only
    | with_reducible apply only_ite
    | exact List.Subset.trans (by decide) hl_)

theorem takeEpoch_only {l_ : List Comp} {s0_ : State} {s : State} (hl_ : [Comp.time] ⊆ l_)
    (h_ : Only l_ s0_ s) : Only l_ s0_ (takeEpoch s) := by
  unfold takeEpoch
  try dsimp only
  repeat' (first
    | with_reducible exact h_
    | with_reducible exact hl_
    | exact List.Subset.trans (by decide) hl_
    | fail_if_no_progress ((with_reducible refine only_mk (k := [.time]) ?_ ?_ ?lit); case lit => exact fun c hc => by cases c <;> first | with_reducible rfl | exact absurd (by decide) hc))

theorem forceRecord_only {l_ : List Comp} {s0_ : State} {s : State} (hl_ : [Comp.cfgA, .cfgB] ⊆ l_)
    (h_ : Only l_ s0_ s) : Only l_ s0_ (forceRecord s) := by
  unfold forceRecord
  try dsimp only
  repeat' (first
    | with_reducible exact h_
    | with_reducible exact hl_
    | with_reducible apply bothParts_only
    | exact List.Subset.trans (by decide) hl_)

theorem showStart_only {l_ : List Comp} {s0_ : State} {s : State} (hl_ : [Comp.regs, .time, .teller, .alm, .vin, .cfgA, .cfgB, .cmp, .ras, .fxm, .pool, .lanes, .mac, .rad, .esc] ⊆ l_)
    (h_ : Only l_ s0_ s) : Only l_ s0_ (showStart s) := by
  unfold showStart
  try dsimp only
  repeat' (first
    | with_reducible exact h_
    | with_reducible exact hl_
    | with_reducible apply timeStart_only
    | with_reducible apply vinStart_only
    | with_reducible apply rasStart_only
    | with_reducible apply modAlm_only
    | with_reducible apply fxmStart_only
    | with_reducible apply lneConfigure_only
    | with_reducible apply lneStart_only
    | with_reducible apply radioSlots_only
    | with_reducible apply writeShadows_only
    | with_reducible apply vinForce_only
    | with_reducible apply takeEpoch_only
    | with_reducible apply forceRecord_only
    | exact List.Subset.trans (by decide) hl_)

theorem execShowTimingSet_only {l_ : List Comp} {s0_ : State} {c : Call} {p : ShowTimingSet} {s : State} (hl_ : [Comp.regs, .time, .teller] ⊆ l_)
    (h_ : Only l_ s0_ s) : OutOnly l_ s0_ (execShowTimingSet c p s) := by
  unfold execShowTimingSet
  try dsimp only
  repeat' (first
    | with_reducible exact h_
    | with_reducible exact hl_
    | with_reducible assumption
    | with_reducible apply setReg_only
    | with_reducible apply setReg64_only
    | with_reducible refine command_only ?_ ?_ (fun _ _ => ?_)
    | with_reducible apply refuse_only
    | with_reducible apply accept_only
    | with_reducible apply OutOnly.ite
    | with_reducible apply only_ite
    | with_reducible apply only_ite_fst
    | with_reducible apply OutOnly.next
    | exact List.Subset.trans (by decide) hl_
    | fail_if_no_progress ((with_reducible refine only_mk (k := [.time]) ?_ ?_ ?lit); case lit => exact fun c hc => by cases c <;> first | with_reducible rfl | exact absurd (by decide) hc)
    | dsimp only
    | split)

end Sys2Proof.Laws
end

