-- ==== Sys2Proof/Laws/KeepsPower.lean ====
section
/-! SUPPORT. What every command keeps, for the operations of Machine/Power.lean. -/

namespace Sys2Proof.Laws

open Sys2Proof.Machine Sys2Proof.Safety

theorem modeNotice_keeps {s0 : State} (old : Mode) (new : Mode) (cause : Nat) (s : State) (h : Keeps s0 s) :
    Keeps s0 (modeNotice old new cause s) := by
  unfold modeNotice
  try dsimp only
  repeat' (first
    | with_reducible assumption
    | with_reducible apply setFlag_keeps
    | with_reducible apply notify_keeps)

theorem modeLeave_keeps {s0 : State} (old : Mode) (new : Mode) (s : State) (h : Keeps s0 s) :
    Keeps s0 (modeLeave old new s) := by
  unfold modeLeave
  try dsimp only
  repeat' (first
    | with_reducible assumption
    | with_reducible apply setReg_keeps
    | with_reducible apply passAbort_keeps
    | with_reducible apply modPower_keeps
    | with_reducible apply showStop_keeps
    | with_reducible apply keeps_ite)

theorem modThermal_keeps {s0 : State} (f : Thermal → Thermal) (s : State) (h : Keeps s0 s) :
    Keeps s0 (modThermal f s) := by
  unfold modThermal
  try dsimp only
  repeat' (first
    | with_reducible assumption
    | with_reducible apply modPower_keeps)

theorem thermalShed_keeps {s0 : State} (s : State) (h : Keeps s0 s) :
    Keeps s0 (thermalShed s) := by
  unfold thermalShed
  try dsimp only
  repeat' (first
    | with_reducible assumption
    | with_reducible apply modThermal_keeps
    | with_reducible apply keeps_ite
    | with_reducible apply OutKeeps.next
    | fail_if_no_progress with_reducible refine keeps_mk ?_ (timeOn rfl rfl rfl rfl rfl)
    | (intro _ _)
    | dsimp only
    | split)

theorem thermalMove_keeps {s0 : State} (old : Nat) (new : Nat) (t : Int) (sensor : Nat) (s : State) (h : Keeps s0 s) :
    Keeps s0 (thermalMove old new t sensor s) := by
  unfold thermalMove
  try dsimp only
  repeat' (first
    | with_reducible assumption
    | with_reducible apply bump_keeps
    | with_reducible apply setFlag_keeps
    | with_reducible apply notify_keeps
    | with_reducible apply modPower_keeps
    | with_reducible apply modThermal_keeps
    | with_reducible apply thermalShed_keeps
    | with_reducible apply keeps_ite)

theorem thermalJudge_keeps {s0 : State} (s : State) (h : Keeps s0 s) :
    Keeps s0 (thermalJudge s) := by
  unfold thermalJudge
  try dsimp only
  repeat' (first
    | with_reducible assumption
    | with_reducible apply thermalMove_keeps
    | with_reducible apply keeps_ite
    | with_reducible apply OutKeeps.next
    | fail_if_no_progress with_reducible refine keeps_mk ?_ (timeOn rfl rfl rfl rfl rfl)
    | (intro _ _)
    | dsimp only
    | split)

theorem execThermalShedStep_keeps {s0 : State} (t : Nat) (s : State) (h : Keeps s0 s) :
    OutKeeps s0 (execThermalShedStep t s) := by
  unfold execThermalShedStep
  try dsimp only
  repeat' (first
    | with_reducible assumption
    | with_reducible apply advance_keeps
    | with_reducible apply modThermal_keeps
    | with_reducible apply thermalShed_keeps
    | with_reducible apply OutKeeps.ite
    | with_reducible apply keeps_ite
    | with_reducible apply OutKeeps.next)

theorem sleepDone_keeps {s0 : State} (m : Mode) (s : State) (h : Keeps s0 s) :
    Keeps s0 (sleepDone m s) := by
  unfold sleepDone
  try dsimp only
  repeat' (first
    | with_reducible assumption
    | with_reducible apply flushNow_keeps
    | with_reducible apply recordAll_keeps
    | with_reducible apply lgrReset_keeps
    | with_reducible apply modPower_keeps
    | with_reducible apply modDom_keeps
    | with_reducible apply keeps_ite)

theorem changeDone_keeps {s0 : State} (c : ModeChange) (s : State) (h : Keeps s0 s) :
    Keeps s0 (changeDone c s) := by
  unfold changeDone
  try dsimp only
  repeat' (first
    | with_reducible assumption
    | with_reducible apply respondOwed_keeps
    | with_reducible apply modPower_keeps
    | with_reducible apply kick_keeps
    | with_reducible apply modeNotice_keeps
    | with_reducible apply thermalJudge_keeps
    | with_reducible apply sleepDone_keeps
    | with_reducible apply keeps_ite
    | with_reducible apply OutKeeps.next
    | fail_if_no_progress with_reducible refine keeps_mk ?_ (timeOn rfl rfl rfl rfl rfl))

theorem changeEnd_keeps {s0 : State} (s : State) (h : Keeps s0 s) :
    Keeps s0 (changeEnd s) := by
  unfold changeEnd
  try dsimp only
  repeat' (first
    | with_reducible assumption
    | with_reducible apply changeDone_keeps
    | with_reducible apply keeps_ite
    | with_reducible apply OutKeeps.next
    | fail_if_no_progress with_reducible refine keeps_mk ?_ (timeOn rfl rfl rfl rfl rfl)
    | (intro _ _)
    | dsimp only
    | split)

theorem changeBegin_keeps {s0 : State} (s : State) (h : Keeps s0 s) :
    Keeps s0 (changeBegin s) := by
  unfold changeBegin
  try dsimp only
  repeat' (first
    | with_reducible assumption
    | with_reducible apply respondOwed_keeps
    | with_reducible apply tellerStop_keeps
    | with_reducible apply modPower_keeps
    | with_reducible apply kick_keeps
    | with_reducible apply modeNotice_keeps
    | with_reducible apply modeLeave_keeps
    | with_reducible apply changeEnd_keeps
    | with_reducible apply keeps_ite
    | with_reducible apply OutKeeps.next
    | fail_if_no_progress with_reducible refine keeps_mk ?_ (timeOn rfl rfl rfl rfl rfl)
    | (intro _ _)
    | dsimp only
    | split)

theorem changeGo_keeps {s0 : State} (boundary : Bool) (s : State) (h : Keeps s0 s) :
    Keeps s0 (changeGo boundary s) := by
  unfold changeGo
  try dsimp only
  repeat' (first
    | with_reducible assumption
    | with_reducible apply changeBegin_keeps
    | with_reducible apply keeps_ite
    | with_reducible apply OutKeeps.next
    | fail_if_no_progress with_reducible refine keeps_mk ?_ (timeOn rfl rfl rfl rfl rfl)
    | (intro _ _)
    | dsimp only
    | split)

theorem setAlarm_keeps {s0 : State} (after : Nat) (s : State) (h : Keeps s0 s) :
    Keeps s0 (setAlarm after s) := by
  unfold setAlarm
  try dsimp only
  repeat' (first
    | with_reducible assumption
    | with_reducible apply setReg_keeps
    | with_reducible apply setField_keeps
    | with_reducible apply keeps_ite)

theorem execPowerModeSet_keeps {s0 : State} (c : Call) (mode : Nat) (wakeAfter : Nat) (s : State) (h : Keeps s0 s) :
    OutKeeps s0 (execPowerModeSet c mode wakeAfter s) := by
  unfold execPowerModeSet
  try dsimp only
  repeat' (first
    | with_reducible assumption
    | with_reducible apply advance_keeps
    | with_reducible apply respond_keeps
    | with_reducible apply modPower_keeps
    | with_reducible apply changeGo_keeps
    | with_reducible apply setAlarm_keeps
    | with_reducible apply OutKeeps.ite
    | with_reducible apply keeps_ite
    | with_reducible apply OutKeeps.next
    | fail_if_no_progress with_reducible refine keeps_mk ?_ (timeOn rfl rfl rfl rfl rfl)
    | (intro _ _)
    | dsimp only
    | split)

theorem execModeChangeDone_keeps {s0 : State} (t : Nat) (s : State) (h : Keeps s0 s) :
    OutKeeps s0 (execModeChangeDone t s) := by
  unfold execModeChangeDone
  try dsimp only
  repeat' (first
    | with_reducible assumption
    | with_reducible apply advance_keeps
    | with_reducible apply changeEnd_keeps
    | with_reducible apply OutKeeps.ite
    | with_reducible apply keeps_ite
    | with_reducible apply OutKeeps.next)

theorem settleEarly_time (s : State) : (settleEarly s).time = s.time :=
  (settleEarly_only (List.Subset.refl _) (only_refl _ _)).2.2 .time (by decide)

theorem execShowTimeStart_keeps {s0 : State} (t : Nat) (tests : List (Nat × Nat)) (s : State) (h : Keeps s0 s) :
    OutKeeps s0 (execShowTimeStart t tests s) := by
  have h1 := advance_keeps t s h
  unfold execShowTimeStart
  dsimp only
  split
  · rename_i hc
    have hs := showStart_keeps (settleEarly (advance t s)) (by rw [settleEarly_time]; exact hc.1) (settleEarly_keeps _ h1)
    have hr := rolesBoot_keeps tests _ hs
    exact OutKeeps.next (keeps_ite (thermalShed_keeps _ hr) hr)
  · exact OutKeeps.next h1

theorem sagNotice_keeps {s0 : State} (event : Nat) (records : Nat) (s : State) (h : Keeps s0 s) :
    Keeps s0 (sagNotice event records s) := by
  unfold sagNotice
  try dsimp only
  repeat' (first
    | with_reducible assumption
    | with_reducible apply notify_keeps)

theorem sagOver_keeps {s0 : State} (s : State) (h : Keeps s0 s) :
    Keeps s0 (sagOver s) := by
  unfold sagOver
  try dsimp only
  repeat' (first
    | with_reducible assumption
    | with_reducible apply calResume_keeps
    | with_reducible apply kick_keeps
    | with_reducible apply changeEnd_keeps
    | with_reducible apply changeGo_keeps)

theorem holdEnd_keeps {s0 : State} (s : State) (h : Keeps s0 s) :
    Keeps s0 (holdEnd s) := by
  unfold holdEnd
  try dsimp only
  repeat' (first
    | with_reducible assumption
    | with_reducible apply setFlag_keeps
    | with_reducible apply modPower_keeps
    | with_reducible apply sagNotice_keeps
    | with_reducible apply sagOver_keeps)

theorem sagFlushed_keeps {s0 : State} (s : State) (h : Keeps s0 s) :
    Keeps s0 (sagFlushed s) := by
  unfold sagFlushed
  try dsimp only
  repeat' (first
    | with_reducible assumption
    | with_reducible apply modPower_keeps
    | with_reducible apply sagNotice_keeps
    | with_reducible apply sagOver_keeps
    | with_reducible apply holdEnd_keeps
    | with_reducible apply keeps_ite)

theorem execLedgerFlushRun_keeps {s0 : State} (t : Nat) (bad : List Bool) (s : State) (h : Keeps s0 s) :
    OutKeeps s0 (execLedgerFlushRun t bad s) := by
  unfold execLedgerFlushRun
  try dsimp only
  repeat' (first
    | with_reducible assumption
    | with_reducible apply advance_keeps
    | with_reducible apply flushRun_keeps
    | with_reducible apply sagFlushed_keeps
    | with_reducible apply OutKeeps.ite
    | with_reducible apply keeps_ite
    | with_reducible apply OutKeeps.next)

theorem execLedgerFlushDone_keeps {s0 : State} (t : Nat) (s : State) (h : Keeps s0 s) :
    OutKeeps s0 (execLedgerFlushDone t s) := by
  unfold execLedgerFlushDone
  try dsimp only
  repeat' (first
    | with_reducible assumption
    | with_reducible apply advance_keeps
    | with_reducible apply flushDone_keeps
    | with_reducible apply sagFlushed_keeps
    | with_reducible apply OutKeeps.ite
    | with_reducible apply keeps_ite
    | with_reducible apply OutKeeps.next)

theorem disarm_keeps {s0 : State} (s : State) (a : Armed) (h : Keeps s0 s) :
    Keeps s0 (disarm s a) := by
  unfold disarm
  try dsimp only
  repeat' (first
    | with_reducible assumption
    | with_reducible apply modAlm_keeps
    | with_reducible apply dmxBreak_keeps
    | (with_reducible apply keeps_foldl; intro _ _ _)
    | with_reducible apply keeps_ite
    | with_reducible apply keeps_ite_fst
    | fail_if_no_progress with_reducible refine keeps_mk ?_ (timeOn rfl rfl rfl rfl rfl)
    | (intro _ _)
    | dsimp only
    | split)

theorem cancelArmed_keeps {s0 : State} (s : State) (h : Keeps s0 s) :
    Keeps s0 (cancelArmed s) := by
  unfold cancelArmed
  try dsimp only
  repeat' (first
    | with_reducible assumption
    | with_reducible apply modAlm_keeps
    | with_reducible apply modMac_keeps
    | with_reducible apply disarm_keeps
    | (with_reducible apply keeps_foldl; intro _ _ _)
    | fail_if_no_progress with_reducible refine keeps_mk ?_ (timeOn rfl rfl rfl rfl rfl)
    | (intro _ _)
    | dsimp only
    | split)

theorem sagHold_keeps {s0 : State} (s : State) (h : Keeps s0 s) :
    Keeps s0 (sagHold s) := by
  unfold sagHold
  try dsimp only
  repeat' (first
    | with_reducible assumption
    | with_reducible apply releaseGroups_keeps
    | with_reducible apply modPower_keeps
    | with_reducible apply cancelArmed_keeps
    | with_reducible apply keeps_ite)

theorem sagThaw_keeps {s0 : State} (s : State) (h : Keeps s0 s) :
    Keeps s0 (sagThaw s) := by
  unfold sagThaw
  try dsimp only
  repeat' (first
    | with_reducible assumption
    | with_reducible apply thawSag_keeps
    | with_reducible apply thaw_keeps
    | with_reducible apply keeps_ite)

theorem sagStart_keeps {s0 : State} (mv : Nat) (s : State) (h : Keeps s0 s) :
    Keeps s0 (sagStart mv s) := by
  unfold sagStart
  try dsimp only
  repeat' (first
    | with_reducible assumption
    | with_reducible apply bump_keeps
    | with_reducible apply setFlag_keeps
    | with_reducible apply ledgerEvent_keeps
    | with_reducible apply blockSag_keeps
    | with_reducible apply flushStart_keeps
    | with_reducible apply recordAll_keeps
    | with_reducible apply calSag_keeps
    | with_reducible apply modPower_keeps
    | with_reducible apply sagNotice_keeps
    | with_reducible apply sagFlushed_keeps
    | with_reducible apply sagHold_keeps
    | with_reducible apply sagThaw_keeps
    | fail_if_no_progress with_reducible refine keeps_mk ?_ (timeOn rfl rfl rfl rfl rfl))

theorem execSagW1_keeps {s0 : State} (t : Nat) (mv : Nat) (s : State) (h : Keeps s0 s) :
    OutKeeps s0 (execSagW1 t mv s) := by
  unfold execSagW1
  try dsimp only
  repeat' (first
    | with_reducible assumption
    | with_reducible apply advance_keeps
    | with_reducible apply modPower_keeps
    | with_reducible apply sagStart_keeps
    | with_reducible apply OutKeeps.ite
    | with_reducible apply keeps_ite
    | with_reducible apply OutKeeps.next)

theorem execSagRecovered_keeps {s0 : State} (t : Nat) (mv : Nat) (s : State) (h : Keeps s0 s) :
    OutKeeps s0 (execSagRecovered t mv s) := by
  unfold execSagRecovered
  try dsimp only
  repeat' (first
    | with_reducible assumption
    | with_reducible apply advance_keeps
    | with_reducible apply modPower_keeps
    | with_reducible apply holdEnd_keeps
    | with_reducible apply OutKeeps.ite
    | with_reducible apply keeps_ite
    | with_reducible apply OutKeeps.next
    | fail_if_no_progress with_reducible refine keeps_mk ?_ (timeOn rfl rfl rfl rfl rfl)
    | (intro _ _)
    | dsimp only
    | split)

theorem execSagHoldExpiry_keeps {s0 : State} (t : Nat) (s : State) (h : Keeps s0 s) :
    OutKeeps s0 (execSagHoldExpiry t s) := by
  unfold execSagHoldExpiry
  try dsimp only
  repeat' (first
    | with_reducible assumption
    | with_reducible apply advance_keeps
    | with_reducible apply setFlag_keeps
    | with_reducible apply calDrop_keeps
    | with_reducible apply modPower_keeps
    | with_reducible apply selfRefresh_keeps
    | with_reducible apply changeBegin_keeps
    | with_reducible apply sagNotice_keeps
    | with_reducible apply OutKeeps.ite
    | with_reducible apply keeps_ite
    | with_reducible apply OutKeeps.next
    | fail_if_no_progress with_reducible refine keeps_mk ?_ (timeOn rfl rfl rfl rfl rfl)
    | (intro _ _)
    | dsimp only
    | split)

theorem keepSent_keeps {s0 : State} (old : State) (s : State) (h : Keeps s0 old) (h_1 : Keeps s0 s) :
    Keeps s0 (keepSent old s) := by
  unfold keepSent
  try dsimp only
  repeat' (first
    | with_reducible assumption
    | with_reducible apply keeps_ite
    | with_reducible apply OutKeeps.next
    | fail_if_no_progress with_reducible refine keeps_mk ?_ (timeOn rfl rfl rfl rfl rfl))

theorem bootStart_keeps {s0 : State} (s : State) (h : Keeps s0 s) :
    Keeps s0 (bootStart s) := by
  unfold bootStart
  try dsimp only
  repeat' (first
    | with_reducible assumption
    | with_reducible apply lgrScan_keeps
    | with_reducible apply modPower_keeps
    | with_reducible apply kick_keeps)

theorem hkcStart_keeps {s0 : State} (s : State) (h : Keeps s0 s) :
    Keeps s0 (hkcStart s) := by
  unfold hkcStart
  try dsimp only
  repeat' (first
    | with_reducible assumption
    | with_reducible apply modPower_keeps
    | with_reducible apply bootStart_keeps
    | with_reducible apply keeps_ite)

theorem bootCounted_keeps {s0 : State} (s : State) (h : Keeps s0 s) :
    Keeps s0 (bootCounted s) := by
  unfold bootCounted
  try dsimp only
  repeat' (first
    | with_reducible assumption
    | with_reducible apply writeBoot_keeps
    | with_reducible apply keeps_ite)

theorem timeReset_on {s0 s : State} (h : Keeps s0 s) : TimeOn s0.time (timeReset s.time (timeStop s).time.hwm (timeStop s).time.hwmValid) := by
  have hs := (timeStop_keeps s h).time
  have e : (timeStop s).time.running = false := by
    unfold timeStop
    split <;> first | assumption | rfl
  refine hs.trans ⟨?_, fun m hm => ⟨m, ?_, Int.le_refl _⟩⟩
  · have : (timeStop s).time.now = s.time.now := by
      unfold timeStop
      split <;> rfl
    exact Nat.le_of_eq this
  · rw [← hm, showMark, showMark, e]
    rfl

theorem deviceReset_keeps {s0 : State} (pd1 : Bool) (cause rail : Nat) (s : State) (h : Keeps s0 s) :
    Keeps s0 (deviceReset pd1 cause rail s) := by
  have hl : Keeps s0 (lgrReset pd1 (if pd1 then s else recordAll s.teller.ledgerOffers.length s)) := by
    refine lgrReset_keeps _ _ ?_
    split
    · exact h
    · exact recordAll_keeps _ _ h
  have hr := resetRegs_keeps (if pd1 then List.range' 1 13 else List.range' 2 12) _ hl
  have hb := bootCounted_keeps s h
  have ht : TimeOn s0.time (timeReset s.time (timeStop s).time.hwm (timeStop s).time.hwmValid) := timeReset_on h
  have hk := fun x hx => keepSent_keeps (s0 := s0) s x h hx
  unfold deviceReset
  dsimp only
  split
  · exact hk _ ⟨h.part, h.pending, ht, ⟨hb.vault.state, hb.vault.rollback, hb.vault.written, hb.vault.revoked⟩, hr.regs, hl.ledger⟩
  · exact modeNotice_keeps _ _ _ _
      (hk _ ⟨h.part, h.pending, ht, ⟨hb.vault.state, hb.vault.rollback, hb.vault.written, hb.vault.revoked⟩, hr.regs, hl.ledger⟩)

theorem fullReset_keeps {s0 : State} (cause : Nat) (rail : Nat) (s : State) (h : Keeps s0 s) :
    Keeps s0 (fullReset cause rail s) := by
  unfold fullReset
  try dsimp only
  repeat' (first
    | with_reducible assumption
    | with_reducible apply hkcStart_keeps
    | with_reducible apply deviceReset_keeps
    | with_reducible apply keeps_ite)

theorem execW2Reset_keeps {s0 : State} (t : Nat) (rail : Domain) (s : State) (h : Keeps s0 s) :
    OutKeeps s0 (execW2Reset t rail s) := by
  unfold execW2Reset
  try dsimp only
  repeat' (first
    | with_reducible assumption
    | with_reducible apply advance_keeps
    | with_reducible apply fullReset_keeps
    | with_reducible apply OutKeeps.ite
    | with_reducible apply keeps_ite
    | with_reducible apply OutKeeps.next)

theorem execResetPin_keeps {s0 : State} (t : Nat) (s : State) (h : Keeps s0 s) :
    OutKeeps s0 (execResetPin t s) := by
  unfold execResetPin
  try dsimp only
  repeat' (first
    | with_reducible assumption
    | with_reducible apply advance_keeps
    | with_reducible apply fullReset_keeps
    | with_reducible apply OutKeeps.ite
    | with_reducible apply keeps_ite
    | with_reducible apply OutKeeps.next)

theorem execPowerOnReset_keeps {s0 : State} (t : Nat) (s : State) (h : Keeps s0 s) :
    OutKeeps s0 (execPowerOnReset t s) := by
  unfold execPowerOnReset
  try dsimp only
  repeat' (first
    | with_reducible assumption
    | with_reducible apply advance_keeps
    | with_reducible apply modPower_keeps
    | with_reducible apply bootStart_keeps
    | with_reducible apply deviceReset_keeps
    | with_reducible apply OutKeeps.ite
    | with_reducible apply keeps_ite
    | with_reducible apply OutKeeps.next)

theorem thermalTrip_keeps {s0 : State} (sensor : Nat) (temp : Int) (s : State) (h : Keeps s0 s) :
    Keeps s0 (thermalTrip sensor temp s) := by
  unfold thermalTrip
  try dsimp only
  repeat' (first
    | with_reducible assumption
    | with_reducible apply modThermal_keeps
    | with_reducible apply hkcStart_keeps
    | with_reducible apply deviceReset_keeps)

theorem execThermalTrip_keeps {s0 : State} (t : Nat) (sensor : Fin 24) (temp : Int) (s : State) (h : Keeps s0 s) :
    OutKeeps s0 (execThermalTrip t sensor temp s) := by
  unfold execThermalTrip
  try dsimp only
  repeat' (first
    | with_reducible assumption
    | with_reducible apply advance_keeps
    | with_reducible apply thermalTrip_keeps
    | with_reducible apply OutKeeps.ite
    | with_reducible apply keeps_ite
    | with_reducible apply OutKeeps.next)

theorem pd2Regs_keeps {s0 : State} (s : State) (h : Keeps s0 s) : Keeps s0 (pd2Regs s) :=
  modProtect_keeps _ _ (modTeller_keeps _ _ (keeps_regs h (fun ⟨a, b, c⟩ => ⟨CellsWf_filter _ a, b, c⟩)))

theorem pd2Reset_keeps {s0 : State} (cause : Nat) (s : State) (h : Keeps s0 s) : Keeps s0 (pd2Reset cause s) :=
  bump_keeps _ _ (modVlt_keeps _ _ (modCal_keeps _ _ (modPower_keeps _ _ (modTeller_keeps _ _ (pd2Regs_keeps _ (lgrReset_keeps false _ (tellerStop_keeps s h))))))
    ⟨Nat.le_refl _, Nat.le_refl _, fun _ x => x, fun _ x => x⟩)

theorem execWatchdogExpiry_keeps {s0 : State} (t : Nat) (s : State) (h : Keeps s0 s) :
    OutKeeps s0 (execWatchdogExpiry t s) := by
  unfold execWatchdogExpiry
  try dsimp only
  repeat' (first
    | with_reducible assumption
    | with_reducible apply advance_keeps
    | with_reducible apply bump_keeps
    | with_reducible apply modPower_keeps
    | with_reducible apply keepSent_keeps
    | with_reducible apply bootCounted_keeps
    | with_reducible apply pd2Reset_keeps
    | with_reducible apply OutKeeps.ite
    | with_reducible apply keeps_ite
    | with_reducible apply OutKeeps.next)

theorem lockstep_keeps {s0 : State} (pc : Nat) (s : State) (h : Keeps s0 s) :
    Keeps s0 (lockstep pc s) := by
  unfold lockstep
  try dsimp only
  repeat' (first
    | with_reducible assumption
    | with_reducible apply bump_keeps
    | with_reducible apply ledgerEvent_keeps
    | with_reducible apply modPower_keeps
    | with_reducible apply keepSent_keeps
    | with_reducible apply bootCounted_keeps
    | with_reducible apply pd2Reset_keeps
    | with_reducible apply keeps_ite
    | fail_if_no_progress with_reducible refine keeps_mk ?_ (timeOn rfl rfl rfl rfl rfl))

theorem execLockstepMismatch_keeps {s0 : State} (t : Nat) (pc : Nat) (s : State) (h : Keeps s0 s) :
    OutKeeps s0 (execLockstepMismatch t pc s) := by
  unfold execLockstepMismatch
  try dsimp only
  repeat' (first
    | with_reducible assumption
    | with_reducible apply advance_keeps
    | with_reducible apply lockstep_keeps
    | with_reducible apply OutKeeps.ite
    | with_reducible apply keeps_ite
    | with_reducible apply OutKeeps.next)

theorem execPd2Restart_keeps {s0 : State} (t : Nat) (p : BootPins) (s : State) (h : Keeps s0 s) :
    OutKeeps s0 (execPd2Restart t p s) := by
  unfold execPd2Restart
  try dsimp only
  repeat' (first
    | with_reducible assumption
    | with_reducible apply advance_keeps
    | with_reducible apply assignChannels_keeps
    | with_reducible apply bootRom_keeps
    | with_reducible apply bootFallback_keeps
    | with_reducible apply tellerStart_keeps
    | with_reducible apply modPower_keeps
    | with_reducible apply hkcStart_keeps
    | with_reducible apply deviceReset_keeps
    | with_reducible apply OutKeeps.ite
    | with_reducible apply keeps_ite
    | with_reducible apply OutKeeps.next)

theorem execPowerReset_keeps {s0 : State} (c : Call) (target : Nat) (next : Nat) (s : State) (h : Keeps s0 s) :
    OutKeeps s0 (execPowerReset c target next s) := by
  unfold execPowerReset
  try dsimp only
  repeat' (first
    | with_reducible assumption
    | with_reducible apply advance_keeps
    | with_reducible apply respond_keeps
    | with_reducible apply writeBoot_keeps
    | with_reducible apply keepSent_keeps
    | with_reducible apply hkcStart_keeps
    | with_reducible apply deviceReset_keeps
    | with_reducible apply pd2Reset_keeps
    | with_reducible apply OutKeeps.ite
    | with_reducible apply keeps_ite
    | with_reducible apply OutKeeps.next)

/-- The loss of VBAT keeps all but the high-water mark. -/
theorem execVbatLoss_keeps {s0 : State} (t : Nat) (s : State) (h : Keeps s0 s) :
    ∃ u, Keeps s0 u ∧ execVbatLoss t s = .next { u with time := { u.time with rtc := 0, rtcNs := 0, hwm := 0, hwmValid := false } } :=
  ⟨_, modPower_keeps (fun p => { p with wakeLatch := false, lastWake := 0, attempts := if 3 ≤ p.attempts then 0 else p.attempts }) _ (advance_keeps t s h), rfl⟩

theorem wake_keeps {s0 : State} (source : Nat) (s : State) (h : Keeps s0 s) :
    Keeps s0 (wake source s) := by
  unfold wake
  try dsimp only
  repeat' (first
    | with_reducible assumption
    | with_reducible apply modPower_keeps
    | with_reducible apply hkcStart_keeps
    | with_reducible apply deviceReset_keeps
    | with_reducible apply keeps_ite)

theorem execRtcAlarmWake_keeps {s0 : State} (t : Nat) (s : State) (h : Keeps s0 s) :
    OutKeeps s0 (execRtcAlarmWake t s) := by
  unfold execRtcAlarmWake
  try dsimp only
  repeat' (first
    | with_reducible assumption
    | with_reducible apply advance_keeps
    | with_reducible apply wake_keeps
    | with_reducible apply OutKeeps.ite
    | with_reducible apply keeps_ite
    | with_reducible apply OutKeeps.next)

theorem execWakePin_keeps {s0 : State} (t : Nat) (s : State) (h : Keeps s0 s) :
    OutKeeps s0 (execWakePin t s) := by
  unfold execWakePin
  try dsimp only
  repeat' (first
    | with_reducible assumption
    | with_reducible apply advance_keeps
    | with_reducible apply wake_keeps
    | with_reducible apply OutKeeps.ite
    | with_reducible apply keeps_ite
    | with_reducible apply OutKeeps.next)

theorem execWakeFrameMatch_keeps {s0 : State} (t : Nat) (e : WakeEvent) (s : State) (h : Keeps s0 s) :
    OutKeeps s0 (execWakeFrameMatch t e s) := by
  unfold execWakeFrameMatch
  try dsimp only
  repeat' (first
    | with_reducible assumption
    | with_reducible apply setReg_keeps
    | with_reducible apply advance_keeps
    | with_reducible apply bump_keeps
    | with_reducible apply wake_keeps
    | with_reducible apply OutKeeps.ite
    | with_reducible apply keeps_ite
    | with_reducible apply OutKeeps.next
    | fail_if_no_progress with_reducible refine keeps_mk ?_ (timeOn rfl rfl rfl rfl rfl)
    | (intro _ _)
    | dsimp only
    | split)

theorem execAonRailsGood_keeps {s0 : State} (t : Nat) (s : State) (h : Keeps s0 s) :
    OutKeeps s0 (execAonRailsGood t s) := by
  unfold execAonRailsGood
  try dsimp only
  repeat' (first
    | with_reducible assumption
    | with_reducible apply advance_keeps
    | with_reducible apply hkcStart_keeps
    | with_reducible apply deviceReset_keeps
    | with_reducible apply OutKeeps.ite
    | with_reducible apply keeps_ite
    | with_reducible apply OutKeeps.next)

theorem execPwrGoodRise_keeps {s0 : State} (t : Nat) (s : State) (h : Keeps s0 s) :
    OutKeeps s0 (execPwrGoodRise t s) := by
  unfold execPwrGoodRise
  try dsimp only
  repeat' (first
    | with_reducible assumption
    | with_reducible apply advance_keeps
    | with_reducible apply modPower_keeps
    | with_reducible apply bootStart_keeps
    | with_reducible apply OutKeeps.ite
    | with_reducible apply keeps_ite
    | with_reducible apply OutKeeps.next)

theorem execPwrGoodTimeout_keeps {s0 : State} (t : Nat) (s : State) (h : Keeps s0 s) :
    OutKeeps s0 (execPwrGoodTimeout t s) := by
  unfold execPwrGoodTimeout
  try dsimp only
  repeat' (first
    | with_reducible assumption
    | with_reducible apply advance_keeps
    | with_reducible apply ledgerEvent_keeps
    | with_reducible apply modPower_keeps
    | with_reducible apply OutKeeps.ite
    | with_reducible apply keeps_ite
    | with_reducible apply OutKeeps.next)

theorem execPowerUpRetry_keeps {s0 : State} (t : Nat) (s : State) (h : Keeps s0 s) :
    OutKeeps s0 (execPowerUpRetry t s) := by
  unfold execPowerUpRetry
  try dsimp only
  repeat' (first
    | with_reducible assumption
    | with_reducible apply advance_keeps
    | with_reducible apply modPower_keeps
    | with_reducible apply OutKeeps.ite
    | with_reducible apply keeps_ite
    | with_reducible apply OutKeeps.next)

theorem chooseSetPoint_keeps {s0 : State} (counts : List Nat) (avs : Bool) (s : State) (h : Keeps s0 s) :
    Keeps s0 (chooseSetPoint counts avs s) := by
  unfold chooseSetPoint
  try dsimp only
  repeat' (first
    | with_reducible assumption
    | with_reducible apply ledgerEvent_keeps
    | with_reducible apply modPower_keeps
    | with_reducible apply keeps_ite)

theorem portAddresses_keeps {s0 : State} (s : State) (h : Keeps s0 s) :
    Keeps s0 (portAddresses s) := by
  unfold portAddresses
  try dsimp only
  repeat' (first
    | with_reducible assumption
    | with_reducible apply setReg_keeps
    | (with_reducible apply keeps_foldl; intro _ _ _)
    | with_reducible apply keeps_ite)

theorem selfTestNotice_keeps {s0 : State} (s : State) (h : Keeps s0 s) :
    Keeps s0 (selfTestNotice s) := by
  unfold selfTestNotice
  try dsimp only
  repeat' (first
    | with_reducible assumption
    | with_reducible apply notify_keeps
    | with_reducible apply keeps_ite)

theorem bootEnter_keeps {s0 : State} (s : State) (h : Keeps s0 s) :
    Keeps s0 (bootEnter s) := by
  unfold bootEnter
  try dsimp only
  repeat' (first
    | with_reducible assumption
    | with_reducible apply ledgerEvent_keeps
    | with_reducible apply assignChannels_keeps
    | with_reducible apply provision_keeps
    | with_reducible apply bootConfirm_keeps
    | with_reducible apply bootFallback_keeps
    | with_reducible apply deviceKey_keeps
    | with_reducible apply calReady_keeps
    | with_reducible apply calTell_keeps
    | with_reducible apply calWriteStart_keeps
    | with_reducible apply tellerStart_keeps
    | with_reducible apply modPower_keeps
    | with_reducible apply kick_keeps
    | with_reducible apply modeNotice_keeps
    | with_reducible apply thermalJudge_keeps
    | with_reducible apply portAddresses_keeps
    | with_reducible apply selfTestNotice_keeps
    | with_reducible apply keeps_ite
    | fail_if_no_progress with_reducible refine keeps_mk ?_ (timeOn rfl rfl rfl rfl rfl))

theorem setUpShow_keeps {s0 : State} (lead : Nat) (pool : Nat) (s : State) (h : Keeps s0 s) :
    Keeps s0 (setUpShow lead pool s) := by
  unfold setUpShow
  try dsimp only
  repeat' (first
    | with_reducible assumption
    | with_reducible apply modAlm_keeps
    | with_reducible apply keeps_ite)

theorem execBootComplete_keeps {s0 : State} (t : Nat) (p : BootPins) (counts : List Nat) (avs : Bool) (lead : Nat) (pool : Nat) (s : State) (h : Keeps s0 s) :
    OutKeeps s0 (execBootComplete t p counts avs lead pool s) := by
  unfold execBootComplete
  try dsimp only
  repeat' (first
    | with_reducible assumption
    | with_reducible apply advance_keeps
    | with_reducible apply bootRom_keeps
    | with_reducible apply modThermal_keeps
    | with_reducible apply chooseSetPoint_keeps
    | with_reducible apply bootEnter_keeps
    | with_reducible apply setUpShow_keeps
    | with_reducible apply OutKeeps.ite
    | with_reducible apply keeps_ite
    | with_reducible apply OutKeeps.next
    | fail_if_no_progress with_reducible refine keeps_mk ?_ (timeOn rfl rfl rfl rfl rfl)
    | (intro _ _)
    | dsimp only
    | split)

theorem execTemperatureSample_keeps {s0 : State} (t : Nat) (temps : List Int) (counts : List Nat) (s : State) (h : Keeps s0 s) :
    OutKeeps s0 (execTemperatureSample t temps counts s) := by
  unfold execTemperatureSample
  try dsimp only
  repeat' (first
    | with_reducible assumption
    | with_reducible apply advance_keeps
    | with_reducible apply modPower_keeps
    | with_reducible apply modThermal_keeps
    | with_reducible apply thermalJudge_keeps
    | with_reducible apply thermalTrip_keeps
    | with_reducible apply OutKeeps.ite
    | with_reducible apply keeps_ite
    | with_reducible apply OutKeeps.next
    | fail_if_no_progress with_reducible refine keeps_mk ?_ (timeOn rfl rfl rfl rfl rfl)
    | (intro _ _)
    | dsimp only
    | split)

theorem voltJudge_keeps {s0 : State} (s : State) (x : Nat × Nat) (h : Keeps s0 s) :
    Keeps s0 (voltJudge s x) := by
  unfold voltJudge
  try dsimp only
  repeat' (first
    | with_reducible assumption
    | with_reducible apply bump_keeps
    | with_reducible apply setFlag_keeps
    | with_reducible apply notify_keeps
    | with_reducible apply modPower_keeps
    | with_reducible apply keeps_ite)

theorem execVoltageSample_keeps {s0 : State} (t : Nat) (volts : List Nat) (s : State) (h : Keeps s0 s) :
    OutKeeps s0 (execVoltageSample t volts s) := by
  unfold execVoltageSample
  try dsimp only
  repeat' (first
    | with_reducible assumption
    | with_reducible apply advance_keeps
    | with_reducible apply voltJudge_keeps
    | (with_reducible apply keeps_foldl; intro _ _ _)
    | with_reducible apply OutKeeps.ite
    | with_reducible apply keeps_ite
    | with_reducible apply OutKeeps.next
    | (intro _ _)
    | dsimp only
    | split)

theorem execAvsRetune_keeps {s0 : State} (t : Nat) (s : State) (h : Keeps s0 s) :
    OutKeeps s0 (execAvsRetune t s) := by
  unfold execAvsRetune
  try dsimp only
  repeat' (first
    | with_reducible assumption
    | with_reducible apply advance_keeps
    | with_reducible apply modPower_keeps
    | with_reducible apply OutKeeps.ite
    | with_reducible apply keeps_ite
    | with_reducible apply OutKeeps.next)

theorem execPowerLatencySet_keeps {s0 : State} (c : Call) (tolerances : List Nat) (s : State) (h : Keeps s0 s) :
    OutKeeps s0 (execPowerLatencySet c tolerances s) := by
  unfold execPowerLatencySet
  try dsimp only
  repeat' (first
    | with_reducible assumption
    | with_reducible apply setReg_keeps
    | with_reducible refine command_keeps _ _ _ _ ?_ (fun _ _ => ?_)
    | with_reducible apply accept_keeps
    | with_reducible apply kick_keeps
    | (with_reducible apply keeps_foldl; intro _ _ _))

theorem execPowerDomainSet_keeps {s0 : State} (c : Call) (domain : Nat) (action : Nat) (s : State) (h : Keeps s0 s) :
    OutKeeps s0 (execPowerDomainSet c domain action s) := by
  unfold execPowerDomainSet
  try dsimp only
  repeat' (first
    | with_reducible assumption
    | with_reducible refine command_keeps _ _ _ _ ?_ (fun _ _ => ?_)
    | with_reducible apply refuse_keeps
    | with_reducible apply accept_keeps
    | with_reducible apply modDom_keeps
    | with_reducible apply kick_keeps
    | with_reducible apply OutKeeps.ite
    | with_reducible apply keeps_ite
    | with_reducible apply OutKeeps.next
    | fail_if_no_progress with_reducible refine keeps_mk ?_ (timeOn rfl rfl rfl rfl rfl)
    | (intro _ _)
    | dsimp only
    | split)

theorem execPowerSagSet_keeps {s0 : State} (c : Call) (p : PowerSagSet) (s : State) (h : Keeps s0 s) :
    OutKeeps s0 (execPowerSagSet c p s) := by
  unfold execPowerSagSet
  try dsimp only
  repeat' (first
    | with_reducible assumption
    | with_reducible apply setReg_keeps
    | with_reducible refine command_keeps _ _ _ _ ?_ (fun _ _ => ?_)
    | with_reducible apply refuse_keeps
    | with_reducible apply accept_keeps
    | with_reducible apply OutKeeps.ite
    | with_reducible apply keeps_ite
    | with_reducible apply OutKeeps.next
    | fail_if_no_progress with_reducible refine keeps_mk ?_ (timeOn rfl rfl rfl rfl rfl)
    | (intro _ _)
    | dsimp only
    | split)

theorem execPowerThermalSet_keeps {s0 : State} (c : Call) (p : PowerThermalSet) (s : State) (h : Keeps s0 s) :
    OutKeeps s0 (execPowerThermalSet c p s) := by
  unfold execPowerThermalSet
  try dsimp only
  repeat' (first
    | with_reducible assumption
    | with_reducible apply setReg_keeps
    | with_reducible refine command_keeps _ _ _ _ ?_ (fun _ _ => ?_)
    | with_reducible apply refuse_keeps
    | with_reducible apply accept_keeps
    | with_reducible apply thermalJudge_keeps
    | with_reducible apply OutKeeps.ite
    | with_reducible apply keeps_ite
    | with_reducible apply OutKeeps.next
    | fail_if_no_progress with_reducible refine keeps_mk ?_ (timeOn rfl rfl rfl rfl rfl)
    | (intro _ _)
    | dsimp only
    | split)

theorem execPowerWakeSet_keeps {s0 : State} (c : Call) (enables : Nat) (alarm : Nat) (s : State) (h : Keeps s0 s) :
    OutKeeps s0 (execPowerWakeSet c enables alarm s) := by
  unfold execPowerWakeSet
  try dsimp only
  repeat' (first
    | with_reducible assumption
    | with_reducible apply setReg_keeps
    | with_reducible apply setField_keeps
    | with_reducible refine command_keeps _ _ _ _ ?_ (fun _ _ => ?_)
    | with_reducible apply accept_keeps)

theorem execPowerStatusGet_keeps {s0 : State} (c : Call) (s : State) (h : Keeps s0 s) :
    OutKeeps s0 (execPowerStatusGet c s) := by
  unfold execPowerStatusGet
  try dsimp only
  repeat' (first
    | with_reducible assumption
    | with_reducible refine command_keeps _ _ _ _ ?_ (fun _ _ => ?_)
    | with_reducible apply answer_keeps)

theorem execPvtGet_keeps {s0 : State} (c : Call) (s : State) (h : Keeps s0 s) :
    OutKeeps s0 (execPvtGet c s) := by
  unfold execPvtGet
  try dsimp only
  repeat' (first
    | with_reducible assumption
    | with_reducible refine command_keeps _ _ _ _ ?_ (fun _ _ => ?_)
    | with_reducible apply answer_keeps)

end Sys2Proof.Laws
end

