-- ==== Sys2Proof/Laws/KeepsFirmware.lean ====
section
/-! SUPPORT. What every command keeps, for the operations of Machine/Firmware.lean. -/

namespace Sys2Proof.Laws

open Sys2Proof.Machine Sys2Proof.Safety

theorem vaultOp_keeps {s0 : State} (s : State) (f : State → State × Reply) (h : Keeps s0 s) (hf : ∀ x, Keeps s0 x → Keeps s0 (f x).1) :
    Keeps s0 (vaultOp s f).1 := by
  unfold vaultOp
  split
  · exact unauth_keeps _ h
  · exact hf s h

theorem keyEnroll_keeps {s0 : State} (c : Call) (p : KeyEnroll) (s : State) (h : Keeps s0 s) : Keeps s0 (keyEnroll c p s).1 := by
  unfold keyEnroll
  dsimp only
  repeat' split
  all_goals first
    | exact refuse_keeps _ _ h
    | exact unauth_keeps _ h
    | (with_reducible refine accept_keeps _ (modVlt_keeps _ _ h ?_)
       exact ⟨Nat.le_refl _, Nat.le_refl _, burnSlot_stays _ _, fun _ x => x⟩)

theorem execSecKeyEnroll_keeps {s0 : State} (c : Call) (p : KeyEnroll) (s : State) (h : Keeps s0 s) :
    OutKeeps s0 (execSecKeyEnroll c p s) := by
  unfold execSecKeyEnroll
  try dsimp only
  repeat' (first
    | with_reducible assumption
    | with_reducible refine command_keeps _ _ _ _ ?_ (fun _ _ => ?_)
    | with_reducible refine vaultOp_keeps _ _ ?_ (fun _ _ => ?_)
    | with_reducible apply keyEnroll_keeps)

theorem closeKeyed_keeps {s0 : State} (ident : Nat) (s : State) (h : Keeps s0 s) :
    Keeps s0 (closeKeyed ident s) := by
  unfold closeKeyed
  try dsimp only
  repeat' (first
    | with_reducible assumption
    | with_reducible apply sessionClose_keeps
    | (with_reducible apply keeps_foldl; intro _ _ _)
    | with_reducible apply keeps_ite)

theorem keyRevoke_keeps {s0 : State} (c : Call) (ident : Nat) (s : State) (h : Keeps s0 s) : Keeps s0 (keyRevoke c ident s).1 := by
  unfold keyRevoke
  split
  · exact refuse_keeps _ _ h
  · split
    · exact refuse_keeps _ _ h
    · split
      · exact unauth_keeps _ h
      · with_reducible refine accept_keeps _ (closeKeyed_keeps _ _ (modVlt_keeps _ _ h ?_))
        exact ⟨Nat.le_refl _, Nat.le_refl _, fun _ x => x, burnSlot_stays _ _⟩

theorem execSecKeyRevoke_keeps {s0 : State} (c : Call) (ident : Nat) (s : State) (h : Keeps s0 s) :
    OutKeeps s0 (execSecKeyRevoke c ident s) := by
  unfold execSecKeyRevoke
  try dsimp only
  repeat' (first
    | with_reducible assumption
    | with_reducible refine command_keeps _ _ _ _ ?_ (fun _ _ => ?_)
    | with_reducible refine vaultOp_keeps _ _ ?_ (fun _ _ => ?_)
    | with_reducible apply keyRevoke_keeps)

theorem recordSet_keeps {s0 : State} (p : RecordSet) (s : State) (h : Keeps s0 s) :
    Keeps s0 (recordSet p s).1 := by
  unfold recordSet
  try dsimp only
  repeat' (first
    | with_reducible assumption
    | with_reducible apply accept_keeps
    | with_reducible apply modVlt_keeps
    | exact ⟨Nat.le_refl _, Nat.le_refl _, fun _ x => x, fun _ x => x⟩)

theorem execSecRecordSet_keeps {s0 : State} (c : Call) (p : RecordSet) (s : State) (h : Keeps s0 s) :
    OutKeeps s0 (execSecRecordSet c p s) := by
  unfold execSecRecordSet
  try dsimp only
  repeat' (first
    | with_reducible assumption
    | with_reducible refine command_keeps _ _ _ _ ?_ (fun _ _ => ?_)
    | with_reducible refine vaultOp_keeps _ _ ?_ (fun _ _ => ?_)
    | with_reducible apply recordSet_keeps)

theorem secMove_keeps {s0 : State} (new : SecState) (cause : Nat) (s : State) (h : Keeps s0 s) : Keeps s0 (secMove new cause s) := by
  refine notify_keeps _ _ _ _ (modVlt_keeps _ _ h ⟨?_, Nat.le_refl _, fun _ x => x, fun _ x => x⟩)
  dsimp only
  split
  · assumption
  · exact Nat.le_refl _

theorem toStandby_keeps {s0 : State} (s : State) (h : Keeps s0 s) :
    Keeps s0 (toStandby s) := by
  unfold toStandby
  try dsimp only
  repeat' (first
    | with_reducible assumption
    | with_reducible apply modPower_keeps
    | with_reducible apply changeGo_keeps)

theorem provisionDone_keeps {s0 : State} (flags : Nat) (s : State) (h : Keeps s0 s) :
    Keeps s0 (provisionDone flags s).1 := by
  unfold provisionDone
  try dsimp only
  repeat' (first
    | with_reducible assumption
    | with_reducible apply refuse_keeps
    | with_reducible apply accept_keeps
    | with_reducible apply secMove_keeps
    | with_reducible apply toStandby_keeps
    | with_reducible apply keeps_ite_fst)

theorem execSecProvisionDone_keeps {s0 : State} (c : Call) (flags : Nat) (s : State) (h : Keeps s0 s) :
    OutKeeps s0 (execSecProvisionDone c flags s) := by
  unfold execSecProvisionDone
  try dsimp only
  repeat' (first
    | with_reducible assumption
    | with_reducible refine command_keeps _ _ _ _ ?_ (fun _ _ => ?_)
    | with_reducible refine vaultOp_keeps _ _ ?_ (fun _ _ => ?_)
    | with_reducible apply provisionDone_keeps)

theorem rollbackAdvance_keeps {s0 : State} (flags : Nat) (s : State) (h : Keeps s0 s) : Keeps s0 (rollbackAdvance flags s).1 := by
  unfold rollbackAdvance
  dsimp only
  split
  · exact h
  · with_reducible refine accept_keeps _ (modVlt_keeps _ _ h ?_)
    exact ⟨Nat.le_refl _, Nat.le_max_left _ _, fun _ x => x, fun _ x => x⟩

theorem execSecRollbackAdvance_keeps {s0 : State} (c : Call) (flags : Nat) (s : State) (h : Keeps s0 s) :
    OutKeeps s0 (execSecRollbackAdvance c flags s) := by
  unfold execSecRollbackAdvance
  try dsimp only
  repeat' (first
    | with_reducible assumption
    | with_reducible refine command_keeps _ _ _ _ ?_ (fun _ _ => ?_)
    | with_reducible refine vaultOp_keeps _ _ ?_ (fun _ _ => ?_)
    | with_reducible apply rollbackAdvance_keeps)

theorem zeroize_keeps {s0 : State} (s : State) (h : Keeps s0 s) : Keeps s0 (zeroize s) :=
  modVlt_keeps _ _ h ⟨Nat.le_refl _, Nat.le_refl _, burnSlots_stay _ _, burnSlots_stay _ _⟩

theorem execSecRetire_keeps {s0 : State} (c : Call) (confirm : Nat) (s : State) (h : Keeps s0 s) :
    OutKeeps s0 (execSecRetire c confirm s) := by
  unfold execSecRetire
  try dsimp only
  repeat' (first
    | with_reducible assumption
    | with_reducible apply advance_keeps
    | with_reducible apply respond_keeps
    | with_reducible apply refuse_keeps
    | with_reducible apply unauth_keeps
    | with_reducible apply hkcStart_keeps
    | with_reducible apply deviceReset_keeps
    | with_reducible apply secMove_keeps
    | with_reducible apply zeroize_keeps
    | with_reducible apply OutKeeps.ite
    | with_reducible apply keeps_ite
    | with_reducible apply OutKeeps.next)

theorem stageBegin_keeps {s0 : State} (b : Nat) (h : FwHeader) (s : State) (h' : Keeps s0 s) :
    Keeps s0 (stageBegin b h s) := by
  unfold stageBegin
  try dsimp only
  repeat' (first
    | with_reducible assumption
    | with_reducible apply writeBoot_keeps
    | with_reducible apply modBank_keeps
    | with_reducible apply blockSag_keeps
    | with_reducible apply keeps_ite)

theorem fwBegin_keeps {s0 : State} (bank : Nat) (h : FwHeader) (s : State) (h' : Keeps s0 s) :
    Keeps s0 (fwBegin bank h s).1 := by
  unfold fwBegin
  try dsimp only
  repeat' (first
    | with_reducible assumption
    | with_reducible apply refuse_keeps
    | with_reducible apply accept_keeps
    | with_reducible apply unauth_keeps
    | with_reducible apply sigFail_keeps
    | with_reducible apply stageBegin_keeps
    | with_reducible apply keeps_ite_fst
    | with_reducible apply keeps_ite
    | with_reducible apply OutKeeps.next
    | fail_if_no_progress with_reducible refine keeps_mk ?_ (timeOn rfl rfl rfl rfl rfl)
    | (intro _ _)
    | dsimp only
    | split)

theorem execFwBegin_keeps {s0 : State} (c : Call) (bank : Nat) (header : FwHeader) (s : State) (h : Keeps s0 s) :
    OutKeeps s0 (execFwBegin c bank header s) := by
  unfold execFwBegin
  try dsimp only
  repeat' (first
    | with_reducible assumption
    | with_reducible refine command_keeps _ _ _ _ ?_ (fun _ _ => ?_)
    | with_reducible refine vaultOp_keeps _ _ ?_ (fun _ _ => ?_)
    | with_reducible apply fwBegin_keeps)

theorem fwBlock_keeps {s0 : State} (c : Call) (block : Nat) (crc : Word) (data : List (BitVec 8)) (sIn : State) (h : Keeps s0 sIn) :
    Keeps s0 (fwBlock c block crc data sIn).1 := by
  unfold fwBlock
  try dsimp only
  repeat' (first
    | with_reducible assumption
    | with_reducible apply bump_keeps
    | with_reducible apply refuse_keeps
    | with_reducible apply accept_keeps
    | with_reducible apply chkRun_keeps
    | with_reducible apply modVlt_keeps
    | exact ⟨Nat.le_refl _, Nat.le_refl _, fun _ x => x, fun _ x => x⟩
    | with_reducible apply keeps_ite
    | with_reducible apply keeps_ite_fst
    | fail_if_no_progress with_reducible refine keeps_mk ?_ (timeOn rfl rfl rfl rfl rfl)
    | (intro _ _)
    | dsimp only
    | split)

theorem execFwBlock_keeps {s0 : State} (c : Call) (block : Nat) (crc : Word) (data : List (BitVec 8)) (s : State) (h : Keeps s0 s) :
    OutKeeps s0 (execFwBlock c block crc data s) := by
  unfold execFwBlock
  try dsimp only
  repeat' (first
    | with_reducible assumption
    | with_reducible refine command_keeps _ _ _ _ ?_ (fun _ _ => ?_)
    | with_reducible apply fwBlock_keeps)

theorem execFwBlockWriteDone_keeps {s0 : State} (t : Nat) (good : Bool) (s : State) (h : Keeps s0 s) :
    OutKeeps s0 (execFwBlockWriteDone t good s) := by
  unfold execFwBlockWriteDone
  try dsimp only
  repeat' (first
    | with_reducible assumption
    | with_reducible apply advance_keeps
    | with_reducible apply respondOwed_keeps
    | with_reducible apply internalAnswer_keeps
    | with_reducible apply chkRun_keeps
    | with_reducible apply modVlt_keeps
    | exact ⟨Nat.le_refl _, Nat.le_refl _, fun _ x => x, fun _ x => x⟩
    | with_reducible apply modBank_keeps
    | with_reducible apply OutKeeps.ite
    | with_reducible apply keeps_ite
    | with_reducible apply OutKeeps.next
    | fail_if_no_progress with_reducible refine keeps_mk ?_ (timeOn rfl rfl rfl rfl rfl)
    | (intro _ _)
    | dsimp only
    | split)

theorem fwEnd_keeps {s0 : State} (bank : Nat) (s : State) (h : Keeps s0 s) :
    Keeps s0 (fwEnd bank s).1 := by
  unfold fwEnd
  try dsimp only
  repeat' (first
    | with_reducible assumption
    | with_reducible apply notify_keeps
    | with_reducible apply refuse_keeps
    | with_reducible apply accept_keeps
    | with_reducible apply unauth_keeps
    | with_reducible apply sigFail_keeps
    | with_reducible apply writeBoot_keeps
    | with_reducible apply modBank_keeps
    | with_reducible apply keeps_ite
    | with_reducible apply keeps_ite_fst
    | fail_if_no_progress with_reducible refine keeps_mk ?_ (timeOn rfl rfl rfl rfl rfl)
    | (intro _ _)
    | dsimp only
    | split)

theorem execFwEnd_keeps {s0 : State} (c : Call) (bank : Nat) (s : State) (h : Keeps s0 s) :
    OutKeeps s0 (execFwEnd c bank s) := by
  unfold execFwEnd
  try dsimp only
  repeat' (first
    | with_reducible assumption
    | with_reducible refine command_keeps _ _ _ _ ?_ (fun _ _ => ?_)
    | with_reducible refine vaultOp_keeps _ _ ?_ (fun _ _ => ?_)
    | with_reducible apply fwEnd_keeps)

theorem execFwActivate_keeps {s0 : State} (c : Call) (bank : Nat) (s : State) (h : Keeps s0 s) :
    OutKeeps s0 (execFwActivate c bank s) := by
  unfold execFwActivate
  try dsimp only
  repeat' (first
    | with_reducible assumption
    | with_reducible apply advance_keeps
    | with_reducible apply respond_keeps
    | with_reducible apply writeBoot_keeps
    | with_reducible apply hkcStart_keeps
    | with_reducible apply deviceReset_keeps
    | with_reducible apply OutKeeps.ite
    | with_reducible apply keeps_ite
    | with_reducible apply OutKeeps.next)

theorem stageDrop_keeps {s0 : State} (bank : Nat) (s : State) (h : Keeps s0 s) :
    Keeps s0 (stageDrop bank s) := by
  unfold stageDrop
  try dsimp only
  repeat' (first
    | with_reducible assumption
    | with_reducible apply writeBoot_keeps
    | with_reducible apply modBank_keeps
    | with_reducible apply blockSag_keeps
    | with_reducible apply keeps_ite)

theorem execFwAbort_keeps {s0 : State} (c : Call) (bank : Nat) (s : State) (h : Keeps s0 s) :
    OutKeeps s0 (execFwAbort c bank s) := by
  unfold execFwAbort
  try dsimp only
  repeat' (first
    | with_reducible assumption
    | with_reducible refine command_keeps _ _ _ _ ?_ (fun _ _ => ?_)
    | with_reducible apply refuse_keeps
    | with_reducible apply accept_keeps
    | with_reducible apply toStandby_keeps
    | with_reducible apply stageDrop_keeps
    | with_reducible apply OutKeeps.ite
    | with_reducible apply keeps_ite
    | with_reducible apply OutKeeps.next
    | fail_if_no_progress with_reducible refine keeps_mk ?_ (timeOn rfl rfl rfl rfl rfl)
    | (intro _ _)
    | dsimp only
    | split)

theorem execSecStatusGet_keeps {s0 : State} (c : Call) (s : State) (h : Keeps s0 s) :
    OutKeeps s0 (execSecStatusGet c s) := by
  unfold execSecStatusGet
  try dsimp only
  repeat' (first
    | with_reducible assumption
    | with_reducible refine command_keeps _ _ _ _ ?_ (fun _ _ => ?_)
    | with_reducible apply answer_keeps)

theorem execFwStatusGet_keeps {s0 : State} (c : Call) (bank : Nat) (s : State) (h : Keeps s0 s) :
    OutKeeps s0 (execFwStatusGet c bank s) := by
  unfold execFwStatusGet
  try dsimp only
  repeat' (first
    | with_reducible assumption
    | with_reducible refine command_keeps _ _ _ _ ?_ (fun _ _ => ?_)
    | with_reducible apply refuse_keeps
    | with_reducible apply answer_keeps
    | with_reducible apply OutKeeps.ite
    | with_reducible apply keeps_ite
    | with_reducible apply OutKeeps.next
    | fail_if_no_progress with_reducible refine keeps_mk ?_ (timeOn rfl rfl rfl rfl rfl)
    | (intro _ _)
    | dsimp only
    | split)

end Sys2Proof.Laws
end

