-- ==== Sys2Proof/Laws/KeepsProtect.lean ====
section
/-! SUPPORT. What every command keeps, for the operations of Machine/Protect.lean. -/

namespace Sys2Proof.Laws

open Sys2Proof.Machine Sys2Proof.Safety

theorem tileError_keeps {s0 : State} (tile : Nat) (s : State) (h : Keeps s0 s) :
    Keeps s0 (tileError tile s) := by
  unfold tileError
  try dsimp only
  repeat' (first
    | with_reducible assumption
    | with_reducible apply repairTile_keeps
    | with_reducible apply modProtect_keeps
    | with_reducible apply keeps_ite
    | with_reducible apply OutKeeps.next
    | fail_if_no_progress with_reducible refine keeps_mk ?_ (timeOn rfl rfl rfl rfl rfl)
    | (intro _ _)
    | dsimp only
    | split)

theorem wordSpoiled_keeps {s0 : State} (q : Nat) (s : State) (h : Keeps s0 s) :
    Keeps s0 (wordSpoiled q s) := by
  unfold wordSpoiled
  try dsimp only
  repeat' (first
    | with_reducible assumption
    | with_reducible apply modFifo_keeps
    | with_reducible apply fifoPop_keeps
    | with_reducible apply fifoSpoiled_keeps
    | with_reducible apply keeps_ite
    | fail_if_no_progress with_reducible refine keeps_mk ?_ (timeOn rfl rfl rfl rfl rfl))

theorem siteEffect_keeps {s0 : State} (e : ErrorFound) (s : State) (h : Keeps s0 s) :
    Keeps s0 (siteEffect e s) := by
  unfold siteEffect
  try dsimp only
  repeat' (first
    | with_reducible assumption
    | with_reducible apply draw_keeps
    | with_reducible apply bump_keeps
    | with_reducible apply modProtect_keeps
    | with_reducible apply repeatSegment_keeps
    | with_reducible apply engineFail_keeps
    | with_reducible apply lockstep_keeps
    | with_reducible apply tileError_keeps
    | with_reducible apply wordSpoiled_keeps
    | with_reducible apply keeps_ite
    | fail_if_no_progress with_reducible refine keeps_mk ?_ (timeOn rfl rfl rfl rfl rfl)
    | (intro _ _)
    | dsimp only
    | split)

theorem poisoned_keeps {s0 : State} (e : ErrorFound) (s : State) (h : Keeps s0 s) :
    Keeps s0 (poisoned e s) := by
  unfold poisoned
  try dsimp only
  repeat' (first
    | with_reducible assumption
    | with_reducible apply errorFound_keeps
    | with_reducible apply siteEffect_keeps
    | with_reducible apply keeps_ite
    | fail_if_no_progress with_reducible refine keeps_mk ?_ (timeOn rfl rfl rfl rfl rfl)
    | (intro _ _)
    | dsimp only
    | split)

theorem datapathError_keeps {s0 : State} (s : State) (e : ErrorFound) (h : Keeps s0 s) :
    Keeps s0 (datapathError s e) := by
  unfold datapathError
  try dsimp only
  repeat' (first
    | with_reducible assumption
    | with_reducible apply scanParity_keeps
    | with_reducible apply errorFound_keeps
    | with_reducible apply siteEffect_keeps
    | with_reducible apply poisoned_keeps
    | with_reducible apply keeps_ite)

theorem execParityError_keeps {s0 : State} (t : Nat) (e : ErrorFound) (s : State) (h : Keeps s0 s) :
    OutKeeps s0 (execParityError t e s) := by
  unfold execParityError
  try dsimp only
  repeat' (first
    | with_reducible assumption
    | with_reducible apply advance_keeps
    | with_reducible apply datapathError_keeps
    | with_reducible apply OutKeeps.ite
    | with_reducible apply keeps_ite
    | with_reducible apply OutKeeps.next)

theorem execScrubPass_keeps {s0 : State} (t : Nat) (errors : List ErrorFound) (s : State) (h : Keeps s0 s) :
    OutKeeps s0 (execScrubPass t errors s) := by
  unfold execScrubPass
  try dsimp only
  repeat' (first
    | with_reducible assumption
    | with_reducible apply advance_keeps
    | with_reducible apply datapathError_keeps
    | (with_reducible apply keeps_foldl; intro _ _ _)
    | with_reducible apply OutKeeps.ite
    | with_reducible apply keeps_ite
    | with_reducible apply OutKeeps.next)

theorem execMapEntryRewrite_keeps {s0 : State} (t : Nat) (s : State) (h : Keeps s0 s) :
    OutKeeps s0 (execMapEntryRewrite t s) := by
  unfold execMapEntryRewrite
  try dsimp only
  repeat' (first
    | with_reducible assumption
    | with_reducible apply advance_keeps
    | with_reducible apply bumpBy_keeps
    | with_reducible apply setFlag_keeps
    | with_reducible apply modProtect_keeps
    | with_reducible apply OutKeeps.ite
    | with_reducible apply keeps_ite
    | with_reducible apply OutKeeps.next
    | fail_if_no_progress with_reducible refine keeps_mk ?_ (timeOn rfl rfl rfl rfl rfl)
    | (intro _ _)
    | dsimp only
    | split)

theorem execFaultHandoff_keeps {s0 : State} (t : Nat) (s : State) (h : Keeps s0 s) :
    OutKeeps s0 (execFaultHandoff t s) := by
  unfold execFaultHandoff
  try dsimp only
  repeat' (first
    | with_reducible assumption
    | with_reducible apply advance_keeps
    | with_reducible apply modProtect_keeps
    | with_reducible apply engineFail_keeps
    | with_reducible apply OutKeeps.ite
    | with_reducible apply keeps_ite
    | with_reducible apply OutKeeps.next
    | fail_if_no_progress with_reducible refine keeps_mk ?_ (timeOn rfl rfl rfl rfl rfl)
    | (intro _ _)
    | dsimp only
    | split)

end Sys2Proof.Laws
end

