-- ==== Sys2Proof/Laws/KeepsFrame.lean ====
section
/-! SUPPORT. What every command keeps, for the operations of Machine/Frame.lean. -/

namespace Sys2Proof.Laws

open Sys2Proof.Machine Sys2Proof.Safety

theorem execCanvasLineDone_keeps {s0 : State} (t : Nat) (line : Nat) (accepted : Bool) (s : State) (h : Keeps s0 s) :
    OutKeeps s0 (execCanvasLineDone t line accepted s) := by
  unfold execCanvasLineDone
  try dsimp only
  repeat' (first
    | with_reducible assumption
    | with_reducible apply advance_keeps
    | with_reducible apply lineDone_keeps
    | with_reducible apply waitsEnd_keeps
    | with_reducible apply OutKeeps.ite
    | with_reducible apply OutKeeps.next
    | (intro _ _)
    | dsimp only
    | split)

theorem fxmCopy_keeps {s0 : State} (k : Int) (s : State) (a : Int × Int) (h : Keeps s0 s) :
    Keeps s0 (fxmCopy k s a) := by
  unfold fxmCopy
  try dsimp only
  repeat' (first
    | with_reducible assumption
    | with_reducible apply setFlag_keeps
    | with_reducible apply modFxm_keeps
    | with_reducible apply lneConfigure_keeps
    | with_reducible apply pktConfigure_keeps
    | with_reducible apply unitsFollow_keeps
    | with_reducible apply copyB_keeps
    | with_reducible apply keeps_ite
    | with_reducible apply keeps_ite_fst
    | fail_if_no_progress with_reducible refine keeps_mk ?_ (timeOn rfl rfl rfl rfl rfl))

theorem fxmCopies_keeps {s0 : State} (k : Int) (s : State) (h : Keeps s0 s) :
    Keeps s0 (fxmCopies k s) := by
  unfold fxmCopies
  try dsimp only
  repeat' (first
    | with_reducible assumption
    | with_reducible apply modFxm_keeps
    | with_reducible apply fxmCopy_keeps
    | (with_reducible apply keeps_foldl; intro _ _ _))

theorem enterZones_keeps {s0 : State} (k : Int) (s : State) (h : Keeps s0 s) :
    Keeps s0 (enterZones k s) := by
  unfold enterZones
  try dsimp only
  repeat' (first
    | with_reducible assumption
    | with_reducible apply moveRelease_keeps
    | (with_reducible apply keeps_foldl; intro _ _ _)
    | with_reducible apply keeps_ite)

theorem leaveZones_keeps {s0 : State} (k : Int) (s : State) (h : Keeps s0 s) :
    Keeps s0 (leaveZones k s) := by
  unfold leaveZones
  try dsimp only
  repeat' (first
    | with_reducible assumption
    | with_reducible apply modAlm_keeps
    | fail_if_no_progress with_reducible refine keeps_mk ?_ (timeOn rfl rfl rfl rfl rfl))

theorem findSlots_keeps {s0 : State} (k : Int) (zs : List Nat) (used : Nat) (s : State) (h : Keeps s0 s) :
    Keeps s0 (findSlots k zs used s) := by
  induction zs generalizing used s with
  | nil => exact h
  | cons z r ih =>
    unfold findSlots
    dsimp only
    split
    · exact ih _ _ h
    · exact ih _ _ (traceOf_keeps _ _ _ _ _ _ _ _ (joinRun_keeps _ _ _ (skipFrames_keeps _ _ _ _ h)))

theorem frameZones_keeps {s0 : State} (k : Int) (s : State) (h : Keeps s0 s) :
    Keeps s0 (frameZones k s) := by
  unfold frameZones
  try dsimp only
  repeat' (first
    | with_reducible assumption
    | with_reducible apply modPool_keeps
    | with_reducible apply unsentZone_keeps
    | with_reducible apply findSlots_keeps
    | (with_reducible apply keeps_foldl; intro _ _ _))

theorem mapFrame_keeps {s0 : State} (k : Int) (canvas : Option Nat) (tests : List (Nat × Nat)) (s : State) (h : Keeps s0 s) :
    Keeps s0 (mapFrame k canvas tests s) := by
  unfold mapFrame
  try dsimp only
  repeat' (first
    | with_reducible assumption
    | with_reducible apply phoSnapshot_keeps
    | with_reducible apply mapStart_keeps
    | with_reducible apply frameZones_keeps
    | with_reducible apply keeps_ite)

theorem frameTimers_keeps {s0 : State} (k : Int) (s : State) (h : Keeps s0 s) :
    Keeps s0 (frameTimers k s) := by
  unfold frameTimers
  try dsimp only
  repeat' (first
    | with_reducible assumption
    | with_reducible apply insertTimer_keeps
    | with_reducible apply keeps_ite)

theorem forgetErrors_keeps {s0 : State} (s : State) (h : Keeps s0 s) :
    Keeps s0 (forgetErrors s) := by
  unfold forgetErrors
  try dsimp only
  repeat' (first
    | with_reducible assumption
    | with_reducible apply modProtect_keeps
    | with_reducible apply keeps_ite
    | fail_if_no_progress with_reducible refine keeps_mk ?_ (timeOn rfl rfl rfl rfl rfl))

theorem frameWork_keeps {s0 : State} (k : Int) (tests : List (Nat × Nat)) (s : State) (h : Keeps s0 s) :
    Keeps s0 (frameWork k tests s) := by
  unfold frameWork
  try dsimp only
  repeat' (first
    | with_reducible assumption
    | with_reducible apply frameVin_keeps
    | with_reducible apply frameCmp_keeps
    | with_reducible apply frameRas_keeps
    | with_reducible apply applyShed_keeps
    | with_reducible apply sendEndings_keeps
    | with_reducible apply radioSlots_keeps
    | with_reducible apply kick_keeps
    | with_reducible apply dramWake_keeps
    | with_reducible apply configA_keeps
    | with_reducible apply configB_keeps
    | with_reducible apply changeGo_keeps
    | with_reducible apply fxmCopies_keeps
    | with_reducible apply enterZones_keeps
    | with_reducible apply leaveZones_keeps
    | with_reducible apply mapFrame_keeps
    | with_reducible apply frameTimers_keeps
    | with_reducible apply forgetErrors_keeps)

theorem execFrameBoundary_keeps {s0 : State} (tests : List (Nat × Nat)) (s : State) (h : Keeps s0 s) :
    OutKeeps s0 (execFrameBoundary tests s) := by
  unfold execFrameBoundary
  try dsimp only
  repeat' (first
    | with_reducible assumption
    | with_reducible apply frameTime_keeps
    | with_reducible apply frameWork_keeps
    | with_reducible apply OutKeeps.ite
    | with_reducible apply keeps_ite
    | with_reducible apply OutKeeps.next
    | (intro _ _)
    | dsimp only
    | split)

theorem execRasterFrameStart_keeps {s0 : State} (s : State) (h : Keeps s0 s) :
    OutKeeps s0 (execRasterFrameStart s) := by
  unfold execRasterFrameStart
  try dsimp only
  repeat' (first
    | with_reducible assumption
    | with_reducible apply reach_keeps
    | with_reducible apply modAlm_keeps
    | with_reducible apply rasFrameStart_keeps
    | with_reducible apply OutKeeps.ite
    | with_reducible apply keeps_ite
    | with_reducible apply OutKeeps.next)

theorem execRasterLineMatch_keeps {s0 : State} (line : Nat) (s : State) (h : Keeps s0 s) :
    OutKeeps s0 (execRasterLineMatch line s) := by
  unfold execRasterLineMatch
  try dsimp only
  repeat' (first
    | with_reducible assumption
    | with_reducible apply reach_keeps
    | with_reducible apply modAlm_keeps
    | with_reducible apply rasLine_keeps
    | with_reducible apply OutKeeps.ite
    | with_reducible apply keeps_ite
    | with_reducible apply OutKeeps.next
    | fail_if_no_progress with_reducible refine keeps_mk ?_ (timeOn rfl rfl rfl rfl rfl)
    | (intro _ _)
    | dsimp only
    | split)

end Sys2Proof.Laws
end

