-- ==== Sys2Proof/Laws/KeepsTick.lean ====
section
/-! SUPPORT. What every command keeps, for the operations of Machine/Tick.lean. -/

namespace Sys2Proof.Laws

open Sys2Proof.Machine Sys2Proof.Safety

theorem noteLate_keeps {s0 : State} (late : Bool) (s : State) (h : Keeps s0 s) :
    Keeps s0 (noteLate late s) := by
  unfold noteLate
  try dsimp only
  repeat' (first
    | with_reducible assumption
    | with_reducible apply bump_keeps
    | with_reducible apply setFlag_keeps
    | with_reducible apply keeps_ite)

theorem reportRuns_keeps {s0 : State} (z : Nat) (k : Int) (at_ : Int) (s : State) (h : Keeps s0 s) :
    Keeps s0 (reportRuns z k at_ s) := by
  unfold reportRuns
  try dsimp only
  repeat' (first
    | with_reducible assumption
    | with_reducible apply modAlm_keeps
    | with_reducible apply skipNotice_keeps
    | (with_reducible apply keeps_foldl; intro _ _ _)
    | with_reducible apply keeps_ite
    | with_reducible apply keeps_ite_fst
    | fail_if_no_progress with_reducible refine keeps_mk ?_ (timeOn rfl rfl rfl rfl rfl))

theorem openZone_keeps {s0 : State} (late : Bool) (z : Nat) (k : Int) (s : State) (h : Keeps s0 s) :
    Keeps s0 (openZone late z k s) := by
  unfold openZone
  try dsimp only
  repeat' (first
    | with_reducible assumption
    | with_reducible apply modAlm_keeps
    | with_reducible apply traceOf_keeps
    | with_reducible apply nextOrder_keeps
    | with_reducible apply windowOpen_keeps
    | with_reducible apply moveRelease_keeps
    | with_reducible apply noteLate_keeps
    | with_reducible apply reportRuns_keeps
    | fail_if_no_progress with_reducible refine keeps_mk ?_ (timeOn rfl rfl rfl rfl rfl))

theorem holdFrame_keeps {s0 : State} (z : Nat) (k : Int) (s : State) (h : Keeps s0 s) :
    Keeps s0 (holdFrame z k s) := by
  unfold holdFrame
  try dsimp only
  repeat' (first
    | with_reducible assumption
    | with_reducible apply traceOf_keeps
    | with_reducible apply skipFrames_keeps
    | with_reducible apply joinRun_keeps
    | with_reducible apply moveRelease_keeps)

theorem refuseWindow_keeps {s0 : State} (z : Nat) (k : Int) (last : Int) (s : State) (h : Keeps s0 s) :
    Keeps s0 (refuseWindow z k last s) := by
  unfold refuseWindow
  try dsimp only
  repeat' (first
    | with_reducible assumption
    | with_reducible apply traceOf_keeps
    | with_reducible apply skipFrames_keeps
    | with_reducible apply moveRelease_keeps
    | with_reducible apply skipNotice_keeps)

theorem judgeFrame_keeps {s0 : State} (tick : Int) (z : Nat) (k : Int) (s : State) (h : Keeps s0 s) :
    Keeps s0 (judgeFrame tick z k s) := by
  unfold judgeFrame
  try dsimp only
  repeat' (first
    | with_reducible assumption
    | with_reducible apply moveRelease_keeps
    | with_reducible apply openZone_keeps
    | with_reducible apply holdFrame_keeps
    | with_reducible apply refuseWindow_keeps
    | with_reducible apply keeps_ite
    | (intro _ _)
    | dsimp only
    | split)

theorem armOutput_keeps {s0 : State} (z : Nat) (k : Int) (at_ : Int) (s : State) (o : Output) (h : Keeps s0 s) :
    Keeps s0 (armOutput z k at_ s o) := by
  unfold armOutput
  try dsimp only
  repeat' (first
    | with_reducible assumption
    | with_reducible apply modAlm_keeps
    | with_reducible apply mergeNote_keeps
    | with_reducible apply noteLate_keeps
    | with_reducible apply keeps_ite
    | fail_if_no_progress with_reducible refine keeps_mk ?_ (timeOn rfl rfl rfl rfl rfl)
    | (intro _ _)
    | dsimp only
    | split)

theorem launched_keeps {s0 : State} (s : State) (zk : Nat × Int) (h : Keeps s0 s) :
    Keeps s0 (launched s zk) := by
  unfold launched
  try dsimp only
  repeat' (first
    | with_reducible assumption
    | with_reducible apply modAlm_keeps
    | with_reducible apply poolFree_keeps
    | with_reducible apply keeps_ite
    | with_reducible apply keeps_ite_fst
    | fail_if_no_progress with_reducible refine keeps_mk ?_ (timeOn rfl rfl rfl rfl rfl))

theorem dispatchSync_keeps {s0 : State} (tick : Int) (z : Nat) (e : SyncEntry) (s : State) (h : Keeps s0 s) :
    Keeps s0 (dispatchSync tick z e s) := by
  unfold dispatchSync
  try dsimp only
  repeat' (first
    | with_reducible assumption
    | with_reducible apply modAlm_keeps
    | with_reducible apply traceRec_keeps
    | with_reducible apply noteLate_keeps
    | with_reducible apply armOutput_keeps
    | with_reducible apply launched_keeps
    | (with_reducible apply keeps_foldl; intro _ _ _)
    | with_reducible apply keeps_ite
    | fail_if_no_progress with_reducible refine keeps_mk ?_ (timeOn rfl rfl rfl rfl rfl))

theorem holdSync_keeps {s0 : State} (z : Nat) (k : Int) (at_ : Int) (s : State) (h : Keeps s0 s) :
    Keeps s0 (holdSync z k at_ s) := by
  unfold holdSync
  try dsimp only
  repeat' (first
    | with_reducible assumption
    | with_reducible apply modAlm_keeps
    | with_reducible apply traceRec_keeps
    | with_reducible apply skipFrames_keeps
    | with_reducible apply joinRun_keeps
    | with_reducible apply keeps_ite
    | fail_if_no_progress with_reducible refine keeps_mk ?_ (timeOn rfl rfl rfl rfl rfl)
    | (intro _ _)
    | dsimp only
    | split)

theorem firstWork_keeps {s0 : State} (fuel : Nat) (tick : Int) (syncs : SMap SyncEntry) (s : State) (h : Keeps s0 s) :
    Keeps s0 (firstWork fuel tick syncs s) := by
  induction fuel generalizing syncs s with
  | zero => exact h
  | succ n ih =>
    unfold firstWork
    split
    · exact h
    · exact ih _ _ (dispatchSync_keeps _ _ _ _ h)
    · exact ih _ _ (judgeFrame_keeps _ _ _ _ h)

theorem holdSyncs_keeps {s0 : State} (tick : Int) (s : State) (h : Keeps s0 s) :
    Keeps s0 (holdSyncs tick s) := by
  unfold holdSyncs
  try dsimp only
  repeat' (first
    | with_reducible assumption
    | with_reducible apply holdSync_keeps
    | (with_reducible apply keeps_foldl; intro _ _ _)
    | with_reducible apply keeps_ite
    | with_reducible apply keeps_ite_fst)

theorem deferItem_keeps {s0 : State} (s : State) (i : DueItem) (h : Keeps s0 s) :
    Keeps s0 (deferItem s i) := by
  unfold deferItem
  try dsimp only
  repeat' (first
    | with_reducible assumption
    | with_reducible apply modAlm_keeps
    | with_reducible apply keeps_ite
    | with_reducible apply OutKeeps.next
    | fail_if_no_progress with_reducible refine keeps_mk ?_ (timeOn rfl rfl rfl rfl rfl)
    | (intro _ _)
    | dsimp only
    | split)

theorem fireLaunch_keeps {s0 : State} (e : LaunchEntry) (s : State) (h : Keeps s0 s) :
    Keeps s0 (fireLaunch e s) := by
  unfold fireLaunch
  try dsimp only
  repeat' (first
    | with_reducible assumption
    | with_reducible apply modAlm_keeps
    | with_reducible apply traceRec_keeps
    | with_reducible apply armSync_keeps
    | with_reducible apply dmxBreak_keeps
    | with_reducible apply modXcvr_keeps
    | with_reducible apply radioSlot_keeps
    | with_reducible apply noteLate_keeps
    | fail_if_no_progress with_reducible refine keeps_mk ?_ (timeOn rfl rfl rfl rfl rfl)
    | (intro _ _)
    | dsimp only
    | split)

theorem fireTimer_keeps {s0 : State} (e : TimerEntry) (s : State) (h : Keeps s0 s) :
    Keeps s0 (fireTimer e s) := by
  unfold fireTimer
  try dsimp only
  repeat' (first
    | with_reducible assumption
    | with_reducible apply modAlm_keeps
    | with_reducible apply traceOf_keeps
    | with_reducible apply modEsc_keeps
    | with_reducible apply frameWork_keeps
    | with_reducible apply noteLate_keeps
    | with_reducible apply keeps_ite
    | with_reducible apply OutKeeps.next
    | fail_if_no_progress with_reducible refine keeps_mk ?_ (timeOn rfl rfl rfl rfl rfl)
    | (intro _ _)
    | dsimp only
    | split)

theorem cueAct_keeps {s0 : State} (c : Cue) (s : State) (h : Keeps s0 s) :
    Keeps s0 (cueAct c s) := by
  unfold cueAct
  try dsimp only
  repeat' (first
    | with_reducible assumption
    | with_reducible apply insertDescriptor_keeps
    | with_reducible apply keeps_ite)

theorem fireCue_keeps {s0 : State} (c : Cue) (s : State) (h : Keeps s0 s) :
    Keeps s0 (fireCue c s) := by
  unfold fireCue
  try dsimp only
  repeat' (first
    | with_reducible assumption
    | with_reducible apply bump_keeps
    | with_reducible apply setFlag_keeps
    | with_reducible apply notify_keeps
    | with_reducible apply modAlm_keeps
    | with_reducible apply traceOf_keeps
    | with_reducible apply modRad_keeps
    | with_reducible apply noteLate_keeps
    | with_reducible apply cueAct_keeps
    | with_reducible apply keeps_ite
    | fail_if_no_progress with_reducible refine keeps_mk ?_ (timeOn rfl rfl rfl rfl rfl))

theorem fireItem_keeps {s0 : State} (s : State) (i : DueItem) (h : Keeps s0 s) :
    Keeps s0 (fireItem s i) := by
  unfold fireItem
  try dsimp only
  repeat' (first
    | with_reducible assumption
    | with_reducible apply fireLaunch_keeps
    | with_reducible apply fireTimer_keeps
    | with_reducible apply fireCue_keeps
    | with_reducible apply keeps_ite
    | with_reducible apply OutKeeps.next
    | fail_if_no_progress with_reducible refine keeps_mk ?_ (timeOn rfl rfl rfl rfl rfl)
    | (intro _ _)
    | dsimp only
    | split)

theorem tickFirst_keeps {s0 : State} (tick : Int) (s : State) (h : Keeps s0 s) :
    Keeps s0 (tickFirst tick s) := by
  unfold tickFirst
  try dsimp only
  repeat' (first
    | with_reducible assumption
    | with_reducible apply modAlm_keeps
    | with_reducible apply firstWork_keeps
    | with_reducible apply holdSyncs_keeps
    | fail_if_no_progress with_reducible refine keeps_mk ?_ (timeOn rfl rfl rfl rfl rfl))

theorem tickWork_keeps {s0 : State} (tick : Int) (s : State) (h : Keeps s0 s) :
    Keeps s0 (tickWork tick s) := by
  unfold tickWork
  try dsimp only
  repeat' (first
    | with_reducible assumption
    | with_reducible apply deferItem_keeps
    | with_reducible apply fireItem_keeps
    | with_reducible apply tickFirst_keeps
    | (with_reducible apply keeps_foldl; intro _ _ _))

theorem execAlmanacTick_keeps {s0 : State} (t : Nat) (tick : Int) (s : State) (h : Keeps s0 s) :
    OutKeeps s0 (execAlmanacTick t tick s) := by
  unfold execAlmanacTick
  try dsimp only
  repeat' (first
    | with_reducible assumption
    | with_reducible apply advance_keeps
    | with_reducible apply reach_keeps
    | with_reducible apply tickWork_keeps
    | with_reducible apply OutKeeps.ite
    | with_reducible apply keeps_ite
    | with_reducible apply OutKeeps.next)

theorem execCueCancel_keeps {s0 : State} (c : Call) (cueId : Nat) (s : State) (h : Keeps s0 s) :
    OutKeeps s0 (execCueCancel c cueId s) := by
  unfold execCueCancel
  try dsimp only
  repeat' (first
    | with_reducible assumption
    | with_reducible refine command_keeps _ _ _ _ ?_ (fun _ _ => ?_)
    | with_reducible apply refuse_keeps
    | with_reducible apply accept_keeps
    | with_reducible apply modAlm_keeps
    | with_reducible apply traceOf_keeps
    | with_reducible apply modRad_keeps
    | with_reducible apply OutKeeps.ite
    | with_reducible apply keeps_ite
    | with_reducible apply keeps_ite_fst
    | with_reducible apply OutKeeps.next
    | fail_if_no_progress with_reducible refine keeps_mk ?_ (timeOn rfl rfl rfl rfl rfl)
    | (intro _ _)
    | dsimp only
    | split)

theorem launchOutput_keeps {s0 : State} (s : State) (a : Armed) (h : Keeps s0 s) :
    Keeps s0 (launchOutput s a) := by
  unfold launchOutput
  try dsimp only
  repeat' (first
    | with_reducible assumption
    | with_reducible apply laneSync_keeps
    | with_reducible apply dmxBreak_keeps
    | with_reducible apply launched_keeps
    | (with_reducible apply keeps_foldl; intro _ _ _)
    | (intro _ _)
    | dsimp only
    | split)

theorem execOutputLaunch_keeps {s0 : State} (t : Nat) (s : State) (h : Keeps s0 s) :
    OutKeeps s0 (execOutputLaunch t s) := by
  unfold execOutputLaunch
  try dsimp only
  repeat' (first
    | with_reducible assumption
    | with_reducible apply advance_keeps
    | with_reducible apply modAlm_keeps
    | with_reducible apply launchOutput_keeps
    | (with_reducible apply keeps_foldl; intro _ _ _)
    | with_reducible apply OutKeeps.ite
    | with_reducible apply keeps_ite
    | with_reducible apply OutKeeps.next)

theorem discardLate_keeps {s0 : State} (s : State) (h : Keeps s0 s) :
    Keeps s0 (discardLate s) := by
  unfold discardLate
  try dsimp only
  repeat' (first
    | with_reducible assumption
    | with_reducible apply discardPast_keeps
    | with_reducible apply lateWork_keeps
    | (with_reducible apply keeps_foldl; intro _ _ _))

theorem execDeadlineDiscard_keeps {s0 : State} (t : Nat) (s : State) (h : Keeps s0 s) :
    OutKeeps s0 (execDeadlineDiscard t s) := by
  unfold execDeadlineDiscard
  try dsimp only
  repeat' (first
    | with_reducible assumption
    | with_reducible apply advance_keeps
    | with_reducible apply readyAll_keeps
    | with_reducible apply refillAll_keeps
    | with_reducible apply discardLate_keeps
    | with_reducible apply OutKeeps.ite
    | with_reducible apply OutKeeps.next
    | (intro _ _)
    | dsimp only
    | split)

theorem execDescriptorRetry_keeps {s0 : State} (t : Nat) (s : State) (h : Keeps s0 s) :
    OutKeeps s0 (execDescriptorRetry t s) := by
  unfold execDescriptorRetry
  try dsimp only
  repeat' (first
    | with_reducible assumption
    | with_reducible apply advance_keeps
    | with_reducible apply modAlm_keeps
    | with_reducible apply placeDescriptor_keeps
    | with_reducible apply refuseDescriptor_keeps
    | with_reducible apply discardDescriptor_keeps
    | with_reducible apply refillAll_keeps
    | with_reducible apply lateWork_keeps
    | with_reducible apply OutKeeps.ite
    | with_reducible apply keeps_ite
    | with_reducible apply OutKeeps.next
    | fail_if_no_progress with_reducible refine keeps_mk ?_ (timeOn rfl rfl rfl rfl rfl)
    | (intro _ _)
    | dsimp only
    | split)

theorem doWork_keeps {s0 : State} (d : Descriptor) (s : State) (h : Keeps s0 s) :
    Keeps s0 (doWork d s) := by
  unfold doWork
  try dsimp only
  repeat' (first
    | with_reducible assumption
    | with_reducible apply laneTake_keeps
    | with_reducible apply ctrlTake_keeps
    | with_reducible apply flowWork_keeps
    | with_reducible apply dmxWork_keeps
    | with_reducible apply rdmGrant_keeps
    | with_reducible apply modRad_keeps
    | with_reducible apply escrowSend_keeps
    | with_reducible apply applyStage_keeps
    | fail_if_no_progress with_reducible refine keeps_mk ?_ (timeOn rfl rfl rfl rfl rfl)
    | (intro _ _)
    | dsimp only
    | split)

theorem dispatchWork_keeps {s0 : State} (d : Descriptor) (s : State) (h : Keeps s0 s) :
    Keeps s0 (dispatchWork d s) := by
  unfold dispatchWork
  try dsimp only
  repeat' (first
    | with_reducible assumption
    | with_reducible apply modAlm_keeps
    | with_reducible apply traceRec_keeps
    | with_reducible apply workEnded_keeps
    | with_reducible apply readyAll_keeps
    | with_reducible apply doWork_keeps
    | fail_if_no_progress with_reducible refine keeps_mk ?_ (timeOn rfl rfl rfl rfl rfl))

theorem execDescriptorDispatch_keeps {s0 : State} (t : Nat) (accepting : List Nat) (s : State) (h : Keeps s0 s) :
    OutKeeps s0 (execDescriptorDispatch t accepting s) := by
  unfold execDescriptorDispatch
  try dsimp only
  repeat' (first
    | with_reducible assumption
    | with_reducible apply advance_keeps
    | with_reducible apply discardLate_keeps
    | with_reducible apply dispatchWork_keeps
    | with_reducible apply OutKeeps.ite
    | with_reducible apply keeps_ite
    | with_reducible apply OutKeeps.next
    | fail_if_no_progress with_reducible refine keeps_mk ?_ (timeOn rfl rfl rfl rfl rfl)
    | (intro _ _)
    | dsimp only
    | split)

end Sys2Proof.Laws
end

