-- ==== Sys2Proof/Laws/KeepsBus.lean ====
section
/-! SUPPORT. What every command keeps, for the operations of Machine/Bus.lean. -/

namespace Sys2Proof.Laws

open Sys2Proof.Machine Sys2Proof.Safety

theorem busError_keeps {s0 : State} (cause : Nat) (write : Bool) (a : Nat) (s : State) (h : Keeps s0 s) :
    Keeps s0 (busError cause write a s) := by
  unfold busError
  try dsimp only
  repeat' (first
    | with_reducible assumption
    | with_reducible apply setReg_keeps
    | with_reducible apply bumpField_keeps
    | with_reducible apply keeps_ite)

theorem chkCtrlWrite_keeps {s0 : State} (m : Master) (ch : Nat) (w : Word) (v : Word) (s : State) (h : Keeps s0 s) :
    Keeps s0 (chkCtrlWrite m ch w v s) := by
  unfold chkCtrlWrite
  try dsimp only
  repeat' (first
    | with_reducible assumption
    | with_reducible apply setReg_keeps
    | with_reducible refine byOwner_keeps _ _ _ _ ?_ (fun _ _ => ?_)
    | with_reducible apply chkStart_keeps
    | with_reducible apply chkResult_keeps
    | with_reducible apply keeps_ite)

theorem macWrite_keeps {s0 : State} (p : Nat) (a : Nat) (w : Word) (s : State) (h : Keeps s0 s) :
    Keeps s0 (macWrite p a w s) := by
  unfold macWrite
  try dsimp only
  repeat' (first
    | with_reducible assumption
    | with_reducible apply setReg_keeps
    | with_reducible apply portRestart_keeps
    | with_reducible apply keeps_ite)

theorem macPairWrite_keeps {s0 : State} (p : Nat) (v : Word) (s : State) (h : Keeps s0 s) :
    Keeps s0 (macPairWrite p v s) := by
  unfold macPairWrite
  try dsimp only
  repeat' (first
    | with_reducible assumption
    | with_reducible apply modMac_keeps)

theorem radCfgWrite_keeps {s0 : State} (x : Nat) (w : Word) (s : State) (h : Keeps s0 s) :
    Keeps s0 (radCfgWrite x w s) := by
  unfold radCfgWrite
  try dsimp only
  repeat' (first
    | with_reducible assumption
    | with_reducible apply setReg_keeps
    | with_reducible apply modXcvr_keeps
    | with_reducible apply keeps_ite)

theorem zoneTempWrite_keeps {s0 : State} (z : Nat) (w : Word) (s : State) (h : Keeps s0 s) :
    Keeps s0 (zoneTempWrite z w s) := by
  unfold zoneTempWrite
  try dsimp only
  repeat' (first
    | with_reducible assumption
    | with_reducible apply zoneTemp_keeps)

theorem traceWrite_keeps {s0 : State} (w : Word) (v : Word) (s : State) (h : Keeps s0 s) :
    Keeps s0 (traceWrite w v s) := by
  unfold traceWrite
  try dsimp only
  repeat' (first
    | with_reducible assumption
    | with_reducible apply setReg_keeps
    | with_reducible apply modAlm_keeps
    | with_reducible apply keeps_ite
    | fail_if_no_progress with_reducible refine keeps_mk ?_ (timeOn rfl rfl rfl rfl rfl))

theorem writeReg_keeps {s0 : State} (m : Master) (d : RegDesc) (a : Nat) (v : Word) (s : State) (h : Keeps s0 s) :
    Keeps s0 (writeReg m d a v s) := by
  unfold writeReg
  try dsimp only
  repeat' (first
    | with_reducible assumption
    | with_reducible apply setReg_keeps
    | with_reducible apply withdrawStep_keeps
    | with_reducible apply freeTrim_keeps
    | with_reducible apply tbCfgApply_keeps
    | with_reducible apply selectTb_keeps
    | with_reducible apply cmpGo_keeps
    | with_reducible apply rasGo_keeps
    | with_reducible apply modAlm_keeps
    | with_reducible apply fxmGo_keeps
    | with_reducible refine byOwner_keeps _ _ _ _ ?_ (fun _ _ => ?_)
    | with_reducible apply chkFeed_keeps
    | with_reducible apply chkState_keeps
    | with_reducible apply ringReturn_keeps
    | with_reducible apply skewFrom_keeps
    | with_reducible apply calGiven_keeps
    | with_reducible apply kick_keeps
    | with_reducible apply thermalJudge_keeps
    | with_reducible apply chkCtrlWrite_keeps
    | with_reducible apply macWrite_keeps
    | with_reducible apply macPairWrite_keeps
    | with_reducible apply radCfgWrite_keeps
    | with_reducible apply zoneTempWrite_keeps
    | with_reducible apply traceWrite_keeps
    | with_reducible apply keeps_ite
    | fail_if_no_progress with_reducible refine keeps_mk ?_ (timeOn rfl rfl rfl rfl rfl))

theorem busWrite_keeps {s0 : State} (m : Master) (a : Nat) (v : Word) (s : State) (h : Keeps s0 s) :
    Keeps s0 (busWrite m a v s) := by
  unfold busWrite
  try dsimp only
  repeat' (first
    | with_reducible assumption
    | with_reducible apply busError_keeps
    | with_reducible apply writeReg_keeps
    | with_reducible apply keeps_ite
    | with_reducible apply OutKeeps.next
    | fail_if_no_progress with_reducible refine keeps_mk ?_ (timeOn rfl rfl rfl rfl rfl)
    | (intro _ _)
    | dsimp only
    | split)

theorem noteRead_keeps {s0 : State} (a : Nat) (w : Word) (s : State) (h : Keeps s0 s) : Keeps s0 (noteRead a w s) :=
  keeps_regs h (fun x => x)

theorem latchWords_keeps {s0 : State} (a : Nat) (s : State) (h : Keeps s0 s) : Keeps s0 (latchWords a s) :=
  keeps_regs h (fun ⟨h1, h2, h3⟩ => ⟨h1, h2, aWf_foldPut _ _ _ h3⟩)

theorem clearRead_keeps {s0 : State} (d : RegDesc) (a : Nat) (counted : Word) (s : State) (h : Keeps s0 s) :
    Keeps s0 (clearRead d a counted s) := by
  unfold clearRead
  try dsimp only
  repeat' (first
    | with_reducible assumption
    | with_reducible apply setReg_keeps
    | with_reducible apply keeps_ite)

theorem fabricRead_keeps {s0 : State} (a : Nat) (counted : Word) (s : State) (h : Keeps s0 s) :
    Keeps s0 (fabricRead a counted s) := by
  unfold fabricRead
  try dsimp only
  repeat' (first
    | with_reducible assumption
    | with_reducible apply fifoRead_keeps
    | with_reducible apply modPort_keeps
    | with_reducible apply tsqSettle_keeps
    | with_reducible apply pauseSettle_keeps
    | with_reducible apply tallyRead_keeps
    | with_reducible apply busError_keeps
    | with_reducible apply noteRead_keeps
    | with_reducible apply latchWords_keeps
    | with_reducible apply clearRead_keeps
    | with_reducible apply keeps_ite
    | fail_if_no_progress with_reducible refine keeps_mk ?_ (timeOn rfl rfl rfl rfl rfl)
    | (intro _ _)
    | dsimp only
    | split)

theorem execRegisterWrite_keeps {s0 : State} (t : Nat) (m : Master) (addr : Nat) (v : Word) (s : State) (h : Keeps s0 s) :
    OutKeeps s0 (execRegisterWrite t m addr v s) := by
  unfold execRegisterWrite
  try dsimp only
  repeat' (first
    | with_reducible assumption
    | with_reducible apply advance_keeps
    | with_reducible apply busWrite_keeps
    | with_reducible apply OutKeeps.ite
    | with_reducible apply keeps_ite
    | with_reducible apply OutKeeps.next)

theorem execRcCounterRead_keeps {s0 : State} (t : Nat) (addr : Nat) (counted : Word) (s : State) (h : Keeps s0 s) :
    OutKeeps s0 (execRcCounterRead t addr counted s) := by
  unfold execRcCounterRead
  try dsimp only
  repeat' (first
    | with_reducible assumption
    | with_reducible apply advance_keeps
    | with_reducible apply fabricRead_keeps
    | with_reducible apply OutKeeps.ite
    | with_reducible apply keeps_ite
    | with_reducible apply OutKeeps.next)

theorem execLatchedLoRead_keeps {s0 : State} (t : Nat) (addr : Nat) (s : State) (h : Keeps s0 s) :
    OutKeeps s0 (execLatchedLoRead t addr s) := by
  unfold execLatchedLoRead
  try dsimp only
  repeat' (first
    | with_reducible assumption
    | with_reducible apply advance_keeps
    | with_reducible apply fabricRead_keeps
    | with_reducible apply OutKeeps.ite
    | with_reducible apply keeps_ite
    | with_reducible apply OutKeeps.next)

theorem hardwareSets_keeps {s0 : State} (a : Nat) (set : Word) (s : State) (h : Keeps s0 s) :
    Keeps s0 (hardwareSets a set s) := by
  unfold hardwareSets
  try dsimp only
  repeat' (first
    | with_reducible assumption
    | with_reducible apply setReg_keeps
    | with_reducible apply bumpField_keeps
    | with_reducible apply keeps_ite
    | (intro _ _)
    | dsimp only
    | split)

theorem execW1cWrite_keeps {s0 : State} (t : Nat) (m : Master) (addr : Nat) (v : Word) (set : Word) (s : State) (h : Keeps s0 s) :
    OutKeeps s0 (execW1cWrite t m addr v set s) := by
  unfold execW1cWrite
  try dsimp only
  repeat' (first
    | with_reducible assumption
    | with_reducible apply advance_keeps
    | with_reducible apply busWrite_keeps
    | with_reducible apply hardwareSets_keeps
    | with_reducible apply OutKeeps.ite
    | with_reducible apply keeps_ite
    | with_reducible apply OutKeeps.next)

theorem execTbCfgWrite_keeps {s0 : State} (t : Nat) (m : Master) (tb : Fin 4) (v : Word) (s : State) (h : Keeps s0 s) :
    OutKeeps s0 (execTbCfgWrite t m tb v s) := by
  unfold execTbCfgWrite
  try dsimp only
  repeat' (first
    | with_reducible assumption
    | with_reducible apply advance_keeps
    | with_reducible apply busWrite_keeps
    | with_reducible apply OutKeeps.ite
    | with_reducible apply keeps_ite
    | with_reducible apply OutKeeps.next)

theorem execShowTbWrite_keeps {s0 : State} (t : Nat) (m : Master) (v : Word) (s : State) (h : Keeps s0 s) :
    OutKeeps s0 (execShowTbWrite t m v s) := by
  unfold execShowTbWrite
  try dsimp only
  repeat' (first
    | with_reducible assumption
    | with_reducible apply advance_keeps
    | with_reducible apply busWrite_keeps
    | with_reducible apply OutKeeps.ite
    | with_reducible apply keeps_ite
    | with_reducible apply OutKeeps.next)

theorem execTraceUnfreeze_keeps {s0 : State} (t : Nat) (m : Master) (v : Word) (s : State) (h : Keeps s0 s) :
    OutKeeps s0 (execTraceUnfreeze t m v s) := by
  unfold execTraceUnfreeze
  try dsimp only
  repeat' (first
    | with_reducible assumption
    | with_reducible apply advance_keeps
    | with_reducible apply busWrite_keeps
    | with_reducible apply OutKeeps.ite
    | with_reducible apply keeps_ite
    | with_reducible apply OutKeeps.next)

theorem execCmpCommitGo_keeps {s0 : State} (t : Nat) (m : Master) (v : Word) (s : State) (h : Keeps s0 s) :
    OutKeeps s0 (execCmpCommitGo t m v s) := by
  unfold execCmpCommitGo
  try dsimp only
  repeat' (first
    | with_reducible assumption
    | with_reducible apply advance_keeps
    | with_reducible apply busWrite_keeps
    | with_reducible apply OutKeeps.ite
    | with_reducible apply keeps_ite
    | with_reducible apply OutKeeps.next)

theorem execRasCommitGo_keeps {s0 : State} (t : Nat) (m : Master) (v : Word) (s : State) (h : Keeps s0 s) :
    OutKeeps s0 (execRasCommitGo t m v s) := by
  unfold execRasCommitGo
  try dsimp only
  repeat' (first
    | with_reducible assumption
    | with_reducible apply advance_keeps
    | with_reducible apply busWrite_keeps
    | with_reducible apply OutKeeps.ite
    | with_reducible apply keeps_ite
    | with_reducible apply OutKeeps.next)

theorem execFxmCommitGo_keeps {s0 : State} (t : Nat) (m : Master) (v : Word) (s : State) (h : Keeps s0 s) :
    OutKeeps s0 (execFxmCommitGo t m v s) := by
  unfold execFxmCommitGo
  try dsimp only
  repeat' (first
    | with_reducible assumption
    | with_reducible apply advance_keeps
    | with_reducible apply busWrite_keeps
    | with_reducible apply OutKeeps.ite
    | with_reducible apply keeps_ite
    | with_reducible apply OutKeeps.next)

theorem diagFail_keeps {s0 : State} (offset : Nat) (s : State) (i : Nat) (h : Keeps s0 s) :
    Keeps s0 (diagFail offset s i) := by
  unfold diagFail
  try dsimp only
  repeat' (first
    | with_reducible assumption
    | with_reducible apply busError_keeps
    | with_reducible apply keeps_ite
    | with_reducible apply OutKeeps.next
    | fail_if_no_progress with_reducible refine keeps_mk ?_ (timeOn rfl rfl rfl rfl rfl)
    | (intro _ _)
    | dsimp only
    | split)

theorem execDiagRead_keeps {s0 : State} (c : Call) (offset : Nat) (count : Nat) (s : State) (h : Keeps s0 s) :
    OutKeeps s0 (execDiagRead c offset count s) := by
  unfold execDiagRead
  try dsimp only
  repeat' (first
    | with_reducible assumption
    | with_reducible refine command_keeps _ _ _ _ ?_ (fun _ _ => ?_)
    | with_reducible apply refuse_keeps
    | with_reducible apply answer_keeps
    | with_reducible apply diagFail_keeps
    | (with_reducible apply keeps_foldl; intro _ _ _)
    | with_reducible apply OutKeeps.ite
    | with_reducible apply keeps_ite
    | with_reducible apply OutKeeps.next
    | fail_if_no_progress with_reducible refine keeps_mk ?_ (timeOn rfl rfl rfl rfl rfl)
    | (intro _ _)
    | dsimp only
    | split)

theorem diagWords_keeps {s0 : State} (a : Nat) (words : List Word) (s : State) (h : Keeps s0 s) : Keeps s0 (diagWords a words s) := by
  induction words generalizing a s with
  | nil => exact h
  | cons w r ih => exact ih _ _ (busWrite_keeps _ _ _ _ h)

theorem diagRefused_keeps {s0 : State} (offset : Nat) (s : State) (h : Keeps s0 s) :
    Keeps s0 (diagRefused offset s) := by
  unfold diagRefused
  try dsimp only
  repeat' (first
    | with_reducible assumption
    | with_reducible apply busError_keeps)

theorem execDiagWrite_keeps {s0 : State} (c : Call) (offset : Nat) (words : List Word) (s : State) (h : Keeps s0 s) :
    OutKeeps s0 (execDiagWrite c offset words s) := by
  unfold execDiagWrite
  try dsimp only
  repeat' (first
    | with_reducible assumption
    | with_reducible apply advance_keeps
    | with_reducible refine command_keeps _ _ _ _ ?_ (fun _ _ => ?_)
    | with_reducible apply refuse_keeps
    | with_reducible apply accept_keeps
    | with_reducible apply unauth_keeps
    | with_reducible apply diagWords_keeps
    | with_reducible apply diagRefused_keeps
    | with_reducible apply OutKeeps.ite
    | with_reducible apply keeps_ite
    | with_reducible apply OutKeeps.next
    | fail_if_no_progress with_reducible refine keeps_mk ?_ (timeOn rfl rfl rfl rfl rfl)
    | (intro _ _)
    | dsimp only
    | split)

end Sys2Proof.Laws
end

