-- ==== Sys2Proof/Laws/KeepsStep.lean ====
section
/-! SUPPORT. What every command keeps, for the operations of Machine/Step.lean. -/

namespace Sys2Proof.Laws

open Sys2Proof.Machine Sys2Proof.Safety

theorem State.withFetchWord_keeps {s0 : State} (s : State) (_nbits : Nat) (_w : Nat) (h : Keeps s0 s) :
    Keeps s0 (State.withFetchWord s _nbits _w) := by
  unfold State.withFetchWord
  try dsimp only
  repeat' (first
    | with_reducible assumption)

end Sys2Proof.Laws
end

