-- ==== Sys2Proof/Laws/Notices.lean ====
section
/-! SUPPORT. What a notice does (R566, R567). -/

namespace Sys2Proof.Laws

open Sys2Proof.Machine Sys2Proof.Safety

theorem bump_reg {s : State} (h : RegsWf s.regs) (a b : Nat) (hb : b ≠ a) : reg (bump a s) b = reg s b := by
  unfold bump bumpBy
  rw [reg_setReg h, if_neg (Ne.symm hb)]

theorem setFlag_reg {s : State} (h : RegsWf s.regs) (a i b : Nat) :
    reg (setFlag a i s) b = if a = b then reg s a ||| BitVec.ofNat 32 (2 ^ i) else reg s b := by
  unfold setFlag
  rw [reg_setReg h]

@[simp] theorem bump_sess (a : Nat) (s : State) (i : Nat) : sess (bump a s) i = sess s i := rfl
@[simp] theorem setFlag_sess (a b : Nat) (s : State) (i : Nat) : sess (setFlag a b s) i = sess s i := rfl
@[simp] theorem noticeRun_sess (i : Fin 5) (n : Notice) (s : State) (j : Nat) : sess (noticeRun i n s) j = sess s j := rfl
@[simp] theorem noticeRun_reg (i : Fin 5) (n : Notice) (s : State) (a : Nat) : reg (noticeRun i n s) a = reg s a := rfl
@[simp] theorem ringNotice_regs (n : Notice) (i : Fin 5) (s : State) :
    ringNotice n i s = bump R.TLR_CNT_NTC (modRings (fun g => { g with ntcWr := g.ntcWr + BitVec.ofNat 16 (msgUnits n.len), vectors := g.vectors ||| 2 })
    (modSess i (fun x => { x with notices := x.notices ++ [{ n with seq := x.ntcNext }], ntcNext := x.ntcNext + 1 }) (noticeRun i n s))) := rfl

theorem notifyTo_sess (n : Notice) (s : State) (i j : Fin 5) (h : j ≠ i) : sess (notifyTo n s i) j = sess s j := by
  have hv : j.val ≠ i.val := fun e => h (Fin.ext e)
  unfold notifyTo
  dsimp only
  repeat' split
  all_goals simp only [ringNotice_regs, setFlag_sess, bump_sess, sess_modRings, sess_modSess, if_neg hv, noticeRun_sess]

theorem notifyTo_reg (n : Notice) {s : State} (h : RegsWf s.regs) (i : Fin 5) (a : Nat) (ha : a ∉ noticeRegs) : reg (notifyTo n s i) a = reg s a := by
  simp only [noticeRegs, List.mem_cons, List.not_mem_nil, or_false, not_or] at ha
  unfold notifyTo
  dsimp only
  repeat' split
  · rfl
  · rw [setFlag_reg (regsWf_of (bump_keeps _ _ (modSess_keeps _ _ _ (Keeps.refl s))) h), if_neg (Ne.symm ha.2.2),
      bump_reg (regsWf_of (modSess_keeps _ _ _ (Keeps.refl s)) h) _ _ ha.2.1]
    rfl
  · rw [ringNotice_regs, bump_reg (regsWf_of (modRings_keeps _ _ (modSess_keeps _ _ _ (noticeRun_keeps _ _ _ (Keeps.refl s)))) h) _ _ ha.1]
    rfl
  · rfl
  · rw [bump_reg (regsWf_of (modSess_keeps _ _ _ (noticeRun_keeps _ _ _ (Keeps.refl s))) h) _ _ ha.1]
    rfl

theorem notifyTo_teller (n : Notice) (s : State) (i : Fin 5) :
    (notifyTo n s i).teller = { s.teller with
      sessions := (notifyTo n s i).teller.sessions, rings := (notifyTo n s i).teller.rings, checked := (notifyTo n s i).teller.checked } := by
  unfold notifyTo
  dsimp only
  repeat' split
  all_goals rfl

theorem sendChannel_mem (i : Fin 5) : sendChannel i ∈ [1, 6, 7] := by
  revert i
  decide

/-- Only a sending channel of Teller runs. -/
theorem notifyTo_runs (n : Notice) (s : State) (i : Fin 5) (ch : Nat) (h : ch ∉ [1, 6, 7]) :
    aFind (notifyTo n s i).teller.checked ch = aFind s.teller.checked ch := by
  have hc : ch ≠ sendChannel i := fun e => h (e ▸ sendChannel_mem i)
  have hr : aFind (aPut s.teller.checked (sendChannel i) (noticeBytes (((sess s i).last.map (fun q => q.toNat)).getD 0)
      { n with seq := (sess s i).ntcNext })) ch = aFind s.teller.checked ch := by simp [aFind_aPut, Ne.symm hc]
  unfold notifyTo
  dsimp only
  repeat' split
  all_goals first
    | rfl
    | exact hr

theorem notifyTo_deaf (n : Notice) (s : State) (i : Fin 5) (h : (sess s i).isOpen = false ∨ bitOf (sess s i).mask n.cls = false) : notifyTo n s i = s := by
  unfold notifyTo
  dsimp only
  rw [if_pos h]

theorem notifyTo_heard (n : Notice) (s : State) (h : (sess s 0).isOpen = true) (hm : bitOf (sess s 0).mask n.cls = true) (hq : (sess s 0).queue = [])
    (hr : msgUnits n.len ≤ ntcRoom s.teller.rings) :
    (sess (notifyTo n s 0) (0 : Fin 5)).notices = (sess s 0).notices ++ [{ n with seq := (sess s 0).ntcNext }] := by
  unfold notifyTo
  have e : ((0 : Fin 5) : Nat) = 0 := rfl
  simp only [e, h, hm, hq, hr, Bool.true_eq_false, or_self, if_false, List.length_nil, if_true, and_self, ringNotice_regs]
  exact congrArg Session.notices (sess_modSess 0 _ s 0)

theorem notifyTo_queued (n : Notice) (s : State) (i : Fin 5) (h : (sess s i).isOpen = true) (hm : bitOf (sess s i).mask n.cls = true)
    (hq : (sess s i).queue ≠ []) (hl : (sess s i).queue.length < 1024) :
    ∃ q, (sess (notifyTo n s i) i).queue = (sess s i).queue ++ [({ n with seq := q }, s.time.now)] := by
  unfold notifyTo
  dsimp only
  rw [if_neg (by simp [h, hm]), if_neg (by omega)]
  split
  · rw [if_neg (by simp [hq]), sess_modSess, if_pos rfl]
    exact ⟨n.seq, rfl⟩
  · rw [bump_sess, sess_modSess, if_pos rfl]
    refine ⟨(sess s i).ntcNext, ?_⟩
    have hu : ∀ y, (udpCount n.len y).queue = y.queue := by
      intro y
      unfold udpCount
      dsimp only
      split <;> rfl
    split <;> simp [hu]

theorem notifyTo_time (n : Notice) (s : State) (i : Fin 5) : (notifyTo n s i).time = s.time := by
  unfold notifyTo
  dsimp only
  repeat' split
  all_goals rfl

/-- The notice to the sessions of a list, none of them twice. -/
theorem notifyFold (n : Notice) (l : List (Fin 5)) (s : State) :
    Only [.regs, .teller] s (l.foldl (notifyTo n) s) ∧
    (l.foldl (notifyTo n) s).teller = { s.teller with
      sessions := (l.foldl (notifyTo n) s).teller.sessions, rings := (l.foldl (notifyTo n) s).teller.rings
      checked := (l.foldl (notifyTo n) s).teller.checked } ∧
    (RegsWf s.regs → ∀ a, a ∉ noticeRegs → reg (l.foldl (notifyTo n) s) a = reg s a) ∧
    (∀ j : Fin 5, j ∉ l → sess (l.foldl (notifyTo n) s) j = sess s j) ∧
    (∀ ch, ch ∉ [1, 6, 7] → aFind (l.foldl (notifyTo n) s).teller.checked ch = aFind s.teller.checked ch) := by
  induction l generalizing s with
  | nil => exact ⟨only_refl _ _, rfl, fun _ _ _ => rfl, fun _ _ => rfl, fun _ _ => rfl⟩
  | cons i r ih =>
    obtain ⟨h1, h2, h3, h4, h5⟩ := ih (notifyTo n s i)
    refine ⟨only_trans (notifyTo_only (List.Subset.refl _) (only_refl _ _)) h1, ?_, fun hw a ha => ?_, fun j hj => ?_,
      fun ch hc => (h5 ch hc).trans (notifyTo_runs n s i ch hc)⟩
    · rw [List.foldl_cons, h2, notifyTo_teller]
    · rw [List.foldl_cons, h3 (regsWf_of (notifyTo_keeps n s i (Keeps.refl s)) hw) a ha, notifyTo_reg n hw i a ha]
    · rw [List.foldl_cons, h4 j (fun h => hj (List.mem_cons_of_mem _ h)), notifyTo_sess n s i j (fun h => hj (h ▸ List.mem_cons_self))]

/-- Each session's part of the notice, by itself. -/
theorem notifyFold_sess (n : Notice) (l : List (Fin 5)) (hl : l.Nodup) (s : State) (i : Fin 5) (hi : i ∈ l) :
    ∃ u, sess u i = sess s i ∧ u.time = s.time ∧ sess (l.foldl (notifyTo n) s) i = sess (notifyTo n u i) i := by
  induction l generalizing s with
  | nil => cases hi
  | cons j r ih =>
    rw [List.nodup_cons] at hl
    rcases List.mem_cons.mp hi with e | hr
    · subst e
      exact ⟨s, rfl, rfl, by rw [List.foldl_cons, (notifyFold n r _).2.2.2.1 i hl.1]⟩
    · obtain ⟨u, h1, h3, h4⟩ := ih hl.2 (notifyTo n s j) hr
      have hne : i ≠ j := fun e => hl.1 (e ▸ hr)
      exact ⟨u, by rw [h1, notifyTo_sess n s j i hne], by rw [h3, notifyTo_time], h4⟩

/-- The notice's offer to the Ledger. -/
def offered (code : Nat) (fields : List Int) (st : Int) (f : State) : State :=
  { f with teller := { f.teller with ledgerOffers := f.teller.ledgerOffers ++ [(code, st, fields)] } }

theorem offered_sess (code : Nat) (fields : List Int) (st : Int) (f : State) (i : Nat) : sess (offered code fields st f) i = sess f i := rfl
theorem offered_reg (code : Nat) (fields : List Int) (st : Int) (f : State) (a : Nat) : reg (offered code fields st f) a = reg f a := rfl
theorem offered_offers (code : Nat) (fields : List Int) (st : Int) (f : State) :
    (offered code fields st f).teller.ledgerOffers = f.teller.ledgerOffers ++ [(code, st, fields)] := rfl
theorem offered_teller (code : Nat) (fields : List Int) (st : Int) (f : State) :
    (offered code fields st f).teller = { f.teller with ledgerOffers := f.teller.ledgerOffers ++ [(code, st, fields)] } := rfl

theorem notify_eq (code len : Nat) (fields : List Int) (x : State) (h : tellerRuns x = true) : notify code len fields x =
    offered code fields (st64 x) ((List.finRange 5).foldl (notifyTo ⟨0, code, noticeClass code, st64 x, len, fields⟩) x) := by
  unfold notify
  rw [if_pos h]
  rfl

theorem notify_off (code len : Nat) (fields : List Int) (x : State) (h : ¬ tellerRuns x = true) : notify code len fields x =
    offered code fields (st64 x) x := by
  unfold notify
  rw [if_neg h]
  rfl

/-- A notice is sent. -/
theorem notify_told (code len : Nat) (fields : List Int) (x : State) : Told code len fields x (notify code len fields x) := by
  have hne : ∀ i : Fin 5, i ∈ List.finRange 5 := List.mem_finRange
  have ho := notify_only (List.Subset.refl [Comp.regs, .teller]) (only_refl _ x) (code := code) (len := len) (fields := fields)
  by_cases hr : tellerRuns x = true
  · have hfold := notifyFold ⟨0, code, noticeClass code, st64 x, len, fields⟩ (List.finRange 5) x
    have hs := notifyFold_sess ⟨0, code, noticeClass code, st64 x, len, fields⟩ _ (List.nodup_finRange 5) x
    have h0 : sess x 0 = sess x (0 : Fin 5) := rfl
    have hh := notifyTo_heard ⟨0, code, noticeClass code, st64 x, len, fields⟩ x
    have hl : List.finRange 5 = 0 :: [1, 2, 3, 4] := by decide
    have hh' : sess ((List.finRange 5).foldl (notifyTo ⟨0, code, noticeClass code, st64 x, len, fields⟩) x) (0 : Fin 5) =
        sess (notifyTo ⟨0, code, noticeClass code, st64 x, len, fields⟩ x 0) (0 : Fin 5) := by
      rw [hl, List.foldl_cons, (notifyFold _ [1, 2, 3, 4] _).2.2.2.1 0 (by decide)]
    rw [notify_eq _ _ _ _ hr] at ho ⊢
    generalize (List.finRange 5).foldl (notifyTo ⟨0, code, noticeClass code, st64 x, len, fields⟩) x = f at *
    obtain ⟨h1, h2, h3, h4, h5⟩ := hfold
    refine ⟨ho, ?_, ?_, h5, fun hw a ha => ?_, fun i hd => ?_, fun _ h0 hm hq hroom => ?_, fun _ i h0 hm hq hlt => ?_⟩
    · rw [offered_offers, h2]
    · rw [offered_teller, h2]
    · rw [offered_reg]
      exact h3 hw a ha
    · rw [offered_sess]
      have hd' := hd.resolve_left (by simp [hr])
      obtain ⟨u, hu, _, e⟩ := hs i (hne i)
      rw [e, notifyTo_deaf _ _ _ (by rw [hu]; exact hd'), hu]
    · rw [offered_sess]
      exact (congrArg Session.notices hh').trans (hh h0 hm hq hroom)
    · obtain ⟨u, hu, ht, e⟩ := hs i (hne i)
      obtain ⟨q, hq'⟩ := notifyTo_queued ⟨0, code, noticeClass code, st64 x, len, fields⟩ u i (by rw [hu]; exact h0) (by rw [hu]; exact hm)
        (by rw [hu]; exact hq) (by rw [hu]; exact hlt)
      rw [offered_sess, e, hq', hu, ht]
      exact ⟨q, rfl⟩
  · rw [notify_off _ _ _ _ hr] at ho ⊢
    exact ⟨ho, offered_offers _ _ _ _, offered_teller _ _ _ _, fun _ _ => rfl, fun _ a _ => offered_reg _ _ _ _ _, fun i _ => offered_sess _ _ _ _ _,
      fun h => absurd h hr, fun h => absurd h hr⟩

end Sys2Proof.Laws
end

