-- ==== Sys2Proof/Laws/OnlyPower.lean ====
section
/-! SUPPORT. Which components of the machine the operations of Machine/Power.lean may change. -/

namespace Sys2Proof.Laws

open Sys2Proof.Machine Sys2Proof.Safety

theorem modeNotice_only {l_ : List Comp} {s0_ : State} {old : Mode} {new : Mode} {cause : Nat} {s : State} (hl_ : [Comp.regs, .teller] ⊆ l_)
    (h_ : Only l_ s0_ s) : Only l_ s0_ (modeNotice old new cause s) := by
  unfold modeNotice
  try dsimp only
  repeat' (first
    | with_reducible exact h_
    | with_reducible exact hl_
    | with_reducible apply setFlag_only
    | with_reducible apply notify_only
    | with_reducible apply only_ite
    | exact List.Subset.trans (by decide) hl_)

theorem modeLeave_only {l_ : List Comp} {s0_ : State} {old : Mode} {new : Mode} {s : State} (hl_ : [Comp.regs, .time, .teller, .power, .alm, .protect, .vin, .cfgA, .cfgB, .cmp, .ras, .fxm, .pho, .pool, .lanes, .dmx, .rad, .esc, .map, .cal] ⊆ l_)
    (h_ : Only l_ s0_ s) : Only l_ s0_ (modeLeave old new s) := by
  unfold modeLeave
  try dsimp only
  repeat' (first
    | with_reducible exact h_
    | with_reducible exact hl_
    | with_reducible apply setReg_only
    | with_reducible apply passAbort_only
    | with_reducible apply modPower_only
    | with_reducible apply showStop_only
    | with_reducible apply only_ite
    | exact List.Subset.trans (by decide) hl_)

theorem modThermal_only {l_ : List Comp} {s0_ : State} {f : Thermal → Thermal} {s : State} (hl_ : [Comp.power] ⊆ l_)
    (h_ : Only l_ s0_ s) : Only l_ s0_ (modThermal f s) := by
  unfold modThermal
  try dsimp only
  repeat' (first
    | with_reducible exact h_
    | with_reducible exact hl_
    | with_reducible apply modPower_only)

theorem thermalShed_only {l_ : List Comp} {s0_ : State} {s : State} (hl_ : [Comp.power] ⊆ l_)
    (h_ : Only l_ s0_ s) : Only l_ s0_ (thermalShed s) := by
  unfold thermalShed
  try dsimp only
  repeat' (first
    | with_reducible exact h_
    | with_reducible exact hl_
    | with_reducible apply modThermal_only
    | with_reducible apply only_ite
    | exact List.Subset.trans (by decide) hl_
    | dsimp only
    | split)

theorem thermalMove_only {l_ : List Comp} {s0_ : State} {old : Nat} {new : Nat} {t : Int} {sensor : Nat} {s : State} (hl_ : [Comp.regs, .teller, .power] ⊆ l_)
    (h_ : Only l_ s0_ s) : Only l_ s0_ (thermalMove old new t sensor s) := by
  unfold thermalMove
  try dsimp only
  repeat' (first
    | with_reducible exact h_
    | with_reducible exact hl_
    | with_reducible apply bump_only
    | with_reducible apply setFlag_only
    | with_reducible apply notify_only
    | with_reducible apply modPower_only
    | with_reducible apply modThermal_only
    | with_reducible apply thermalShed_only
    | with_reducible apply only_ite
    | exact List.Subset.trans (by decide) hl_)

theorem thermalJudge_only {l_ : List Comp} {s0_ : State} {s : State} (hl_ : [Comp.regs, .teller, .power] ⊆ l_)
    (h_ : Only l_ s0_ s) : Only l_ s0_ (thermalJudge s) := by
  unfold thermalJudge
  try dsimp only
  repeat' (first
    | with_reducible exact h_
    | with_reducible exact hl_
    | with_reducible apply thermalMove_only
    | with_reducible apply only_ite
    | exact List.Subset.trans (by decide) hl_
    | dsimp only
    | split)

theorem execThermalShedStep_only {l_ : List Comp} {s0_ : State} {t : Nat} {s : State} (hl_ : [Comp.time, .power] ⊆ l_)
    (h_ : Only l_ s0_ s) : OutOnly l_ s0_ (execThermalShedStep t s) := by
  unfold execThermalShedStep
  try dsimp only
  repeat' (first
    | with_reducible exact h_
    | with_reducible exact hl_
    | with_reducible apply advance_only
    | with_reducible apply modThermal_only
    | with_reducible apply thermalShed_only
    | with_reducible apply OutOnly.ite
    | with_reducible apply only_ite
    | with_reducible apply OutOnly.next
    | exact List.Subset.trans (by decide) hl_)

theorem sleepDone_only {l_ : List Comp} {s0_ : State} {m : Mode} {s : State} (hl_ : [Comp.regs, .free, .teller, .power, .lgr] ⊆ l_)
    (h_ : Only l_ s0_ s) : Only l_ s0_ (sleepDone m s) := by
  unfold sleepDone
  try dsimp only
  repeat' (first
    | with_reducible exact h_
    | with_reducible exact hl_
    | with_reducible apply flushNow_only
    | with_reducible apply recordAll_only
    | with_reducible apply lgrReset_only
    | with_reducible apply modPower_only
    | with_reducible apply modDom_only
    | with_reducible apply only_ite
    | exact List.Subset.trans (by decide) hl_)

theorem changeDone_only {l_ : List Comp} {s0_ : State} {c : ModeChange} {s : State} (hl_ : [Comp.regs, .free, .time, .teller, .power, .alm, .fifos, .vin, .cmp, .ras, .fxm, .pho, .pool, .lanes, .mac, .pkt, .dmx, .rad, .esc, .map, .cal, .vlt, .lgr] ⊆ l_)
    (h_ : Only l_ s0_ s) : Only l_ s0_ (changeDone c s) := by
  unfold changeDone
  try dsimp only
  repeat' (first
    | with_reducible exact h_
    | with_reducible exact hl_
    | with_reducible apply respondOwed_only
    | with_reducible apply modPower_only
    | with_reducible apply kick_only
    | with_reducible apply modeNotice_only
    | with_reducible apply thermalJudge_only
    | with_reducible apply sleepDone_only
    | with_reducible apply only_ite
    | exact List.Subset.trans (by decide) hl_
    | fail_if_no_progress ((with_reducible refine only_mk (k := [.time]) ?_ ?_ ?lit); case lit => exact fun c hc => by cases c <;> first | with_reducible rfl | exact absurd (by decide) hc))

theorem changeEnd_only {l_ : List Comp} {s0_ : State} {s : State} (hl_ : [Comp.regs, .free, .time, .teller, .power, .alm, .fifos, .vin, .cmp, .ras, .fxm, .pho, .pool, .lanes, .mac, .pkt, .dmx, .rad, .esc, .map, .cal, .vlt, .lgr] ⊆ l_)
    (h_ : Only l_ s0_ s) : Only l_ s0_ (changeEnd s) := by
  unfold changeEnd
  try dsimp only
  repeat' (first
    | with_reducible exact h_
    | with_reducible exact hl_
    | with_reducible apply changeDone_only
    | with_reducible apply only_ite
    | exact List.Subset.trans (by decide) hl_
    | dsimp only
    | split)

theorem changeBegin_only {l_ : List Comp} {s0_ : State} {s : State} (hl_ : [Comp.regs, .free, .time, .teller, .power, .alm, .fifos, .protect, .vin, .cfgA, .cfgB, .cmp, .ras, .fxm, .pho, .pool, .lanes, .mac, .pkt, .dmx, .rad, .esc, .map, .cal, .vlt, .lgr] ⊆ l_)
    (h_ : Only l_ s0_ s) : Only l_ s0_ (changeBegin s) := by
  unfold changeBegin
  try dsimp only
  repeat' (first
    | with_reducible exact h_
    | with_reducible exact hl_
    | with_reducible apply respondOwed_only
    | with_reducible apply tellerStop_only
    | with_reducible apply modPower_only
    | with_reducible apply kick_only
    | with_reducible apply modeNotice_only
    | with_reducible apply modeLeave_only
    | with_reducible apply changeEnd_only
    | with_reducible apply only_ite
    | exact List.Subset.trans (by decide) hl_
    | dsimp only
    | split)

theorem changeGo_only {l_ : List Comp} {s0_ : State} {boundary : Bool} {s : State} (hl_ : [Comp.regs, .free, .time, .teller, .power, .alm, .fifos, .protect, .vin, .cfgA, .cfgB, .cmp, .ras, .fxm, .pho, .pool, .lanes, .mac, .pkt, .dmx, .rad, .esc, .map, .cal, .vlt, .lgr] ⊆ l_)
    (h_ : Only l_ s0_ s) : Only l_ s0_ (changeGo boundary s) := by
  unfold changeGo
  try dsimp only
  repeat' (first
    | with_reducible exact h_
    | with_reducible exact hl_
    | with_reducible apply changeBegin_only
    | with_reducible apply only_ite
    | exact List.Subset.trans (by decide) hl_
    | dsimp only
    | split)

theorem setAlarm_only {l_ : List Comp} {s0_ : State} {after : Nat} {s : State} (hl_ : [Comp.regs] ⊆ l_)
    (h_ : Only l_ s0_ s) : Only l_ s0_ (setAlarm after s) := by
  unfold setAlarm
  try dsimp only
  repeat' (first
    | with_reducible exact h_
    | with_reducible exact hl_
    | with_reducible apply setReg_only
    | with_reducible apply setField_only
    | with_reducible apply only_ite)

theorem execPowerModeSet_only {l_ : List Comp} {s0_ : State} {c : Call} {mode : Nat} {wakeAfter : Nat} {s : State} (hl_ : [Comp.regs, .free, .time, .teller, .power, .alm, .fifos, .protect, .vin, .cfgA, .cfgB, .cmp, .ras, .fxm, .pho, .pool, .lanes, .mac, .pkt, .dmx, .rad, .esc, .map, .cal, .vlt, .lgr] ⊆ l_)
    (h_ : Only l_ s0_ s) : OutOnly l_ s0_ (execPowerModeSet c mode wakeAfter s) := by
  unfold execPowerModeSet
  try dsimp only
  repeat' (first
    | with_reducible exact h_
    | with_reducible exact hl_
    | with_reducible apply advance_only
    | with_reducible apply respond_only
    | with_reducible apply modPower_only
    | with_reducible apply changeGo_only
    | with_reducible apply setAlarm_only
    | with_reducible apply OutOnly.ite
    | with_reducible apply only_ite
    | with_reducible apply OutOnly.next
    | exact List.Subset.trans (by decide) hl_
    | dsimp only
    | split)

theorem execModeChangeDone_only {l_ : List Comp} {s0_ : State} {t : Nat} {s : State} (hl_ : [Comp.regs, .free, .time, .teller, .power, .alm, .fifos, .vin, .cmp, .ras, .fxm, .pho, .pool, .lanes, .mac, .pkt, .dmx, .rad, .esc, .map, .cal, .vlt, .lgr] ⊆ l_)
    (h_ : Only l_ s0_ s) : OutOnly l_ s0_ (execModeChangeDone t s) := by
  unfold execModeChangeDone
  try dsimp only
  repeat' (first
    | with_reducible exact h_
    | with_reducible exact hl_
    | with_reducible apply advance_only
    | with_reducible apply changeEnd_only
    | with_reducible apply OutOnly.ite
    | with_reducible apply only_ite
    | with_reducible apply OutOnly.next
    | exact List.Subset.trans (by decide) hl_)

theorem execShowTimeStart_only {l_ : List Comp} {s0_ : State} {t : Nat} {tests : List (Nat × Nat)} {s : State} (hl_ : [Comp.regs, .time, .teller, .power, .alm, .vin, .cfgA, .cfgB, .cmp, .ras, .fxm, .pho, .pool, .lanes, .mac, .pkt, .dmx, .rad, .esc, .map] ⊆ l_)
    (h_ : Only l_ s0_ s) : OutOnly l_ s0_ (execShowTimeStart t tests s) := by
  unfold execShowTimeStart
  try dsimp only
  repeat' (first
    | with_reducible exact h_
    | with_reducible exact hl_
    | with_reducible apply advance_only
    | with_reducible apply rolesBoot_only
    | with_reducible apply settleEarly_only
    | with_reducible apply showStart_only
    | with_reducible apply thermalShed_only
    | with_reducible apply OutOnly.ite
    | with_reducible apply only_ite
    | with_reducible apply OutOnly.next
    | exact List.Subset.trans (by decide) hl_
    | dsimp only
    | split)

theorem sagNotice_only {l_ : List Comp} {s0_ : State} {event : Nat} {records : Nat} {s : State} (hl_ : [Comp.regs, .teller] ⊆ l_)
    (h_ : Only l_ s0_ s) : Only l_ s0_ (sagNotice event records s) := by
  unfold sagNotice
  try dsimp only
  repeat' (first
    | with_reducible exact h_
    | with_reducible exact hl_
    | with_reducible apply notify_only)

theorem sagOver_only {l_ : List Comp} {s0_ : State} {s : State} (hl_ : [Comp.regs, .free, .time, .teller, .power, .alm, .fifos, .protect, .vin, .cfgA, .cfgB, .cmp, .ras, .fxm, .pho, .pool, .lanes, .mac, .pkt, .dmx, .rad, .esc, .map, .cal, .vlt, .lgr] ⊆ l_)
    (h_ : Only l_ s0_ s) : Only l_ s0_ (sagOver s) := by
  unfold sagOver
  try dsimp only
  repeat' (first
    | with_reducible exact h_
    | with_reducible exact hl_
    | with_reducible apply calResume_only
    | with_reducible apply kick_only
    | with_reducible apply changeEnd_only
    | with_reducible apply changeGo_only
    | with_reducible apply only_ite
    | exact List.Subset.trans (by decide) hl_)

theorem holdEnd_only {l_ : List Comp} {s0_ : State} {s : State} (hl_ : [Comp.regs, .free, .time, .teller, .power, .alm, .fifos, .protect, .vin, .cfgA, .cfgB, .cmp, .ras, .fxm, .pho, .pool, .lanes, .mac, .pkt, .dmx, .rad, .esc, .map, .cal, .vlt, .lgr] ⊆ l_)
    (h_ : Only l_ s0_ s) : Only l_ s0_ (holdEnd s) := by
  unfold holdEnd
  try dsimp only
  repeat' (first
    | with_reducible exact h_
    | with_reducible exact hl_
    | with_reducible apply setFlag_only
    | with_reducible apply modPower_only
    | with_reducible apply sagNotice_only
    | with_reducible apply sagOver_only
    | with_reducible apply only_ite
    | exact List.Subset.trans (by decide) hl_)

theorem sagFlushed_only {l_ : List Comp} {s0_ : State} {s : State} (hl_ : [Comp.regs, .free, .time, .teller, .power, .alm, .fifos, .protect, .vin, .cfgA, .cfgB, .cmp, .ras, .fxm, .pho, .pool, .lanes, .mac, .pkt, .dmx, .rad, .esc, .map, .cal, .vlt, .lgr] ⊆ l_)
    (h_ : Only l_ s0_ s) : Only l_ s0_ (sagFlushed s) := by
  unfold sagFlushed
  try dsimp only
  repeat' (first
    | with_reducible exact h_
    | with_reducible exact hl_
    | with_reducible apply modPower_only
    | with_reducible apply sagNotice_only
    | with_reducible apply sagOver_only
    | with_reducible apply holdEnd_only
    | with_reducible apply only_ite
    | exact List.Subset.trans (by decide) hl_)

theorem execLedgerFlushRun_only {l_ : List Comp} {s0_ : State} {t : Nat} {bad : List Bool} {s : State} (hl_ : [Comp.regs, .free, .time, .teller, .power, .alm, .fifos, .protect, .vin, .cfgA, .cfgB, .cmp, .ras, .fxm, .pho, .pool, .lanes, .mac, .pkt, .dmx, .rad, .esc, .map, .cal, .vlt, .lgr] ⊆ l_)
    (h_ : Only l_ s0_ s) : OutOnly l_ s0_ (execLedgerFlushRun t bad s) := by
  unfold execLedgerFlushRun
  try dsimp only
  repeat' (first
    | with_reducible exact h_
    | with_reducible exact hl_
    | with_reducible apply advance_only
    | with_reducible apply flushRun_only
    | with_reducible apply sagFlushed_only
    | with_reducible apply OutOnly.ite
    | with_reducible apply only_ite
    | with_reducible apply OutOnly.next
    | exact List.Subset.trans (by decide) hl_)

theorem execLedgerFlushDone_only {l_ : List Comp} {s0_ : State} {t : Nat} {s : State} (hl_ : [Comp.regs, .free, .time, .teller, .power, .alm, .fifos, .protect, .vin, .cfgA, .cfgB, .cmp, .ras, .fxm, .pho, .pool, .lanes, .mac, .pkt, .dmx, .rad, .esc, .map, .cal, .vlt, .lgr] ⊆ l_)
    (h_ : Only l_ s0_ s) : OutOnly l_ s0_ (execLedgerFlushDone t s) := by
  unfold execLedgerFlushDone
  try dsimp only
  repeat' (first
    | with_reducible exact h_
    | with_reducible exact hl_
    | with_reducible apply advance_only
    | with_reducible apply flushDone_only
    | with_reducible apply sagFlushed_only
    | with_reducible apply OutOnly.ite
    | with_reducible apply only_ite
    | with_reducible apply OutOnly.next
    | exact List.Subset.trans (by decide) hl_)

theorem disarm_only {l_ : List Comp} {s0_ : State} {s : State} {a : Armed} (hl_ : [Comp.regs, .teller, .alm, .protect, .dmx] ⊆ l_)
    (h_ : Only l_ s0_ s) : Only l_ s0_ (disarm s a) := by
  unfold disarm
  try dsimp only
  repeat' (first
    | with_reducible exact h_
    | with_reducible exact hl_
    | with_reducible assumption
    | with_reducible apply modAlm_only
    | with_reducible apply dmxBreak_only
    | with_reducible refine only_foldl ?_ (fun _ _ _ => ?_)
    | with_reducible apply only_ite
    | with_reducible apply only_ite_fst
    | exact List.Subset.trans (by decide) hl_
    | dsimp only
    | split)

theorem cancelArmed_only {l_ : List Comp} {s0_ : State} {s : State} (hl_ : [Comp.regs, .teller, .alm, .protect, .mac, .dmx] ⊆ l_)
    (h_ : Only l_ s0_ s) : Only l_ s0_ (cancelArmed s) := by
  unfold cancelArmed
  try dsimp only
  repeat' (first
    | with_reducible exact h_
    | with_reducible exact hl_
    | with_reducible assumption
    | with_reducible apply modAlm_only
    | with_reducible apply modMac_only
    | with_reducible apply disarm_only
    | with_reducible refine only_foldl ?_ (fun _ _ _ => ?_)
    | exact List.Subset.trans (by decide) hl_
    | dsimp only
    | split)

theorem sagHold_only {l_ : List Comp} {s0_ : State} {s : State} (hl_ : [Comp.regs, .teller, .power, .alm, .protect, .mac, .dmx, .esc] ⊆ l_)
    (h_ : Only l_ s0_ s) : Only l_ s0_ (sagHold s) := by
  unfold sagHold
  try dsimp only
  repeat' (first
    | with_reducible exact h_
    | with_reducible exact hl_
    | with_reducible apply releaseGroups_only
    | with_reducible apply modPower_only
    | with_reducible apply cancelArmed_only
    | with_reducible apply only_ite
    | exact List.Subset.trans (by decide) hl_)

theorem sagThaw_only {l_ : List Comp} {s0_ : State} {s : State} (hl_ : [Comp.regs, .teller, .lgr] ⊆ l_)
    (h_ : Only l_ s0_ s) : Only l_ s0_ (sagThaw s) := by
  unfold sagThaw
  try dsimp only
  repeat' (first
    | with_reducible exact h_
    | with_reducible exact hl_
    | with_reducible apply thawSag_only
    | with_reducible apply thaw_only
    | with_reducible apply only_ite
    | exact List.Subset.trans (by decide) hl_)

theorem sagStart_only {l_ : List Comp} {s0_ : State} {mv : Nat} {s : State} (hl_ : [Comp.regs, .free, .time, .teller, .power, .alm, .fifos, .protect, .vin, .cfgA, .cfgB, .cmp, .ras, .fxm, .pho, .pool, .lanes, .mac, .pkt, .dmx, .rad, .esc, .map, .cal, .vlt, .lgr] ⊆ l_)
    (h_ : Only l_ s0_ s) : Only l_ s0_ (sagStart mv s) := by
  unfold sagStart
  try dsimp only
  repeat' (first
    | with_reducible exact h_
    | with_reducible exact hl_
    | with_reducible apply bump_only
    | with_reducible apply setFlag_only
    | with_reducible apply ledgerEvent_only
    | with_reducible apply blockSag_only
    | with_reducible apply flushStart_only
    | with_reducible apply recordAll_only
    | with_reducible apply calSag_only
    | with_reducible apply modPower_only
    | with_reducible apply sagNotice_only
    | with_reducible apply sagFlushed_only
    | with_reducible apply sagHold_only
    | with_reducible apply sagThaw_only
    | exact List.Subset.trans (by decide) hl_)

theorem execSagW1_only {l_ : List Comp} {s0_ : State} {t : Nat} {mv : Nat} {s : State} (hl_ : [Comp.regs, .free, .time, .teller, .power, .alm, .fifos, .protect, .vin, .cfgA, .cfgB, .cmp, .ras, .fxm, .pho, .pool, .lanes, .mac, .pkt, .dmx, .rad, .esc, .map, .cal, .vlt, .lgr] ⊆ l_)
    (h_ : Only l_ s0_ s) : OutOnly l_ s0_ (execSagW1 t mv s) := by
  unfold execSagW1
  try dsimp only
  repeat' (first
    | with_reducible exact h_
    | with_reducible exact hl_
    | with_reducible apply advance_only
    | with_reducible apply modPower_only
    | with_reducible apply sagStart_only
    | with_reducible apply OutOnly.ite
    | with_reducible apply only_ite
    | with_reducible apply OutOnly.next
    | exact List.Subset.trans (by decide) hl_)

theorem execSagRecovered_only {l_ : List Comp} {s0_ : State} {t : Nat} {mv : Nat} {s : State} (hl_ : [Comp.regs, .free, .time, .teller, .power, .alm, .fifos, .protect, .vin, .cfgA, .cfgB, .cmp, .ras, .fxm, .pho, .pool, .lanes, .mac, .pkt, .dmx, .rad, .esc, .map, .cal, .vlt, .lgr] ⊆ l_)
    (h_ : Only l_ s0_ s) : OutOnly l_ s0_ (execSagRecovered t mv s) := by
  unfold execSagRecovered
  try dsimp only
  repeat' (first
    | with_reducible exact h_
    | with_reducible exact hl_
    | with_reducible apply advance_only
    | with_reducible apply modPower_only
    | with_reducible apply holdEnd_only
    | with_reducible apply OutOnly.ite
    | with_reducible apply only_ite
    | with_reducible apply OutOnly.next
    | exact List.Subset.trans (by decide) hl_
    | dsimp only
    | split)

theorem execSagHoldExpiry_only {l_ : List Comp} {s0_ : State} {t : Nat} {s : State} (hl_ : [Comp.regs, .free, .time, .teller, .power, .alm, .fifos, .protect, .vin, .cfgA, .cfgB, .cmp, .ras, .fxm, .pho, .pool, .lanes, .mac, .pkt, .dmx, .rad, .esc, .map, .cal, .vlt, .lgr] ⊆ l_)
    (h_ : Only l_ s0_ s) : OutOnly l_ s0_ (execSagHoldExpiry t s) := by
  unfold execSagHoldExpiry
  try dsimp only
  repeat' (first
    | with_reducible exact h_
    | with_reducible exact hl_
    | with_reducible apply advance_only
    | with_reducible apply setFlag_only
    | with_reducible apply calDrop_only
    | with_reducible apply modPower_only
    | with_reducible apply selfRefresh_only
    | with_reducible apply changeBegin_only
    | with_reducible apply sagNotice_only
    | with_reducible apply OutOnly.ite
    | with_reducible apply only_ite
    | with_reducible apply OutOnly.next
    | exact List.Subset.trans (by decide) hl_
    | dsimp only
    | split)

theorem keepSent_only {l_ : List Comp} {s0_ : State} {old : State} {s : State} (hl_ : [Comp.teller] ⊆ l_)
    (h_ : Only l_ s0_ s) : Only l_ s0_ (keepSent old s) := by
  unfold keepSent
  try dsimp only
  repeat' (first
    | with_reducible exact h_
    | with_reducible exact hl_
    | with_reducible apply only_ite
    | fail_if_no_progress ((with_reducible refine only_mk (k := [.teller]) ?_ ?_ ?lit); case lit => exact fun c hc => by cases c <;> first | with_reducible rfl | exact absurd (by decide) hc))

theorem bootStart_only {l_ : List Comp} {s0_ : State} {s : State} (hl_ : [Comp.regs, .teller, .power, .alm, .fifos, .vin, .cmp, .ras, .fxm, .pho, .pool, .lanes, .mac, .pkt, .dmx, .rad, .esc, .map, .cal, .vlt, .lgr] ⊆ l_)
    (h_ : Only l_ s0_ s) : Only l_ s0_ (bootStart s) := by
  unfold bootStart
  try dsimp only
  repeat' (first
    | with_reducible exact h_
    | with_reducible exact hl_
    | with_reducible apply lgrScan_only
    | with_reducible apply modPower_only
    | with_reducible apply kick_only
    | with_reducible apply only_ite
    | exact List.Subset.trans (by decide) hl_)

theorem hkcStart_only {l_ : List Comp} {s0_ : State} {s : State} (hl_ : [Comp.regs, .teller, .power, .alm, .fifos, .vin, .cmp, .ras, .fxm, .pho, .pool, .lanes, .mac, .pkt, .dmx, .rad, .esc, .map, .cal, .vlt, .lgr] ⊆ l_)
    (h_ : Only l_ s0_ s) : Only l_ s0_ (hkcStart s) := by
  unfold hkcStart
  try dsimp only
  repeat' (first
    | with_reducible exact h_
    | with_reducible exact hl_
    | with_reducible apply modPower_only
    | with_reducible apply bootStart_only
    | with_reducible apply only_ite
    | exact List.Subset.trans (by decide) hl_)

theorem bootCounted_only {l_ : List Comp} {s0_ : State} {s : State} (hl_ : [Comp.vlt] ⊆ l_)
    (h_ : Only l_ s0_ s) : Only l_ s0_ (bootCounted s) := by
  unfold bootCounted
  try dsimp only
  repeat' (first
    | with_reducible exact h_
    | with_reducible exact hl_
    | with_reducible apply writeBoot_only
    | with_reducible apply only_ite)

theorem deviceReset_only {l_ : List Comp} {s0_ : State} {pd1 : Bool} {cause rail : Nat} {s : State} (hl_ : [Comp.regs, .free, .time, .teller, .power, .alm, .fifos, .protect, .vin, .record, .cfgA, .cfgB, .cmp, .ras, .fxm, .pho, .pool, .lanes, .lamps, .mac, .pkt, .dmx, .rad, .esc, .map, .cal, .vlt, .lgr] ⊆ l_) (h_ : Only l_ s0_ s) :
    Only l_ s0_ (deviceReset pd1 cause rail s) := by
  refine only_trans h_ (only_mono ?_ hl_)
  have hk := deviceReset_keeps (s0 := s) pd1 cause rail s (Keeps.refl s)
  exact ⟨hk.part, hk.pending, fun c hc => by cases c <;> exact absurd (by decide) hc⟩

theorem fullReset_only {l_ : List Comp} {s0_ : State} {cause : Nat} {rail : Nat} {s : State} (hl_ : [Comp.regs, .free, .time, .teller, .power, .alm, .fifos, .protect, .vin, .record, .cfgA, .cfgB, .cmp, .ras, .fxm, .pho, .pool, .lanes, .lamps, .mac, .pkt, .dmx, .rad, .esc, .map, .cal, .vlt, .lgr] ⊆ l_)
    (h_ : Only l_ s0_ s) : Only l_ s0_ (fullReset cause rail s) := by
  unfold fullReset
  try dsimp only
  repeat' (first
    | with_reducible exact h_
    | with_reducible exact hl_
    | with_reducible apply hkcStart_only
    | with_reducible apply deviceReset_only
    | with_reducible apply only_ite
    | exact List.Subset.trans (by decide) hl_)

theorem execW2Reset_only {l_ : List Comp} {s0_ : State} {t : Nat} {rail : Domain} {s : State} (hl_ : [Comp.regs, .free, .time, .teller, .power, .alm, .fifos, .protect, .vin, .record, .cfgA, .cfgB, .cmp, .ras, .fxm, .pho, .pool, .lanes, .lamps, .mac, .pkt, .dmx, .rad, .esc, .map, .cal, .vlt, .lgr] ⊆ l_)
    (h_ : Only l_ s0_ s) : OutOnly l_ s0_ (execW2Reset t rail s) := by
  unfold execW2Reset
  try dsimp only
  repeat' (first
    | with_reducible exact h_
    | with_reducible exact hl_
    | with_reducible apply advance_only
    | with_reducible apply fullReset_only
    | with_reducible apply OutOnly.ite
    | with_reducible apply only_ite
    | with_reducible apply OutOnly.next
    | exact List.Subset.trans (by decide) hl_)

theorem execResetPin_only {l_ : List Comp} {s0_ : State} {t : Nat} {s : State} (hl_ : [Comp.regs, .free, .time, .teller, .power, .alm, .fifos, .protect, .vin, .record, .cfgA, .cfgB, .cmp, .ras, .fxm, .pho, .pool, .lanes, .lamps, .mac, .pkt, .dmx, .rad, .esc, .map, .cal, .vlt, .lgr] ⊆ l_)
    (h_ : Only l_ s0_ s) : OutOnly l_ s0_ (execResetPin t s) := by
  unfold execResetPin
  try dsimp only
  repeat' (first
    | with_reducible exact h_
    | with_reducible exact hl_
    | with_reducible apply advance_only
    | with_reducible apply fullReset_only
    | with_reducible apply OutOnly.ite
    | with_reducible apply only_ite
    | with_reducible apply OutOnly.next
    | exact List.Subset.trans (by decide) hl_)

theorem execPowerOnReset_only {l_ : List Comp} {s0_ : State} {t : Nat} {s : State} (hl_ : [Comp.regs, .free, .time, .teller, .power, .alm, .fifos, .protect, .vin, .record, .cfgA, .cfgB, .cmp, .ras, .fxm, .pho, .pool, .lanes, .lamps, .mac, .pkt, .dmx, .rad, .esc, .map, .cal, .vlt, .lgr] ⊆ l_)
    (h_ : Only l_ s0_ s) : OutOnly l_ s0_ (execPowerOnReset t s) := by
  unfold execPowerOnReset
  try dsimp only
  repeat' (first
    | with_reducible exact h_
    | with_reducible exact hl_
    | with_reducible apply advance_only
    | with_reducible apply modPower_only
    | with_reducible apply bootStart_only
    | with_reducible apply deviceReset_only
    | with_reducible apply OutOnly.ite
    | with_reducible apply only_ite
    | with_reducible apply OutOnly.next
    | exact List.Subset.trans (by decide) hl_)

theorem thermalTrip_only {l_ : List Comp} {s0_ : State} {sensor : Nat} {temp : Int} {s : State} (hl_ : [Comp.regs, .free, .time, .teller, .power, .alm, .fifos, .protect, .vin, .record, .cfgA, .cfgB, .cmp, .ras, .fxm, .pho, .pool, .lanes, .lamps, .mac, .pkt, .dmx, .rad, .esc, .map, .cal, .vlt, .lgr] ⊆ l_)
    (h_ : Only l_ s0_ s) : Only l_ s0_ (thermalTrip sensor temp s) := by
  unfold thermalTrip
  try dsimp only
  repeat' (first
    | with_reducible exact h_
    | with_reducible exact hl_
    | with_reducible apply modThermal_only
    | with_reducible apply hkcStart_only
    | with_reducible apply deviceReset_only
    | with_reducible apply only_ite
    | exact List.Subset.trans (by decide) hl_)

theorem execThermalTrip_only {l_ : List Comp} {s0_ : State} {t : Nat} {sensor : Fin 24} {temp : Int} {s : State} (hl_ : [Comp.regs, .free, .time, .teller, .power, .alm, .fifos, .protect, .vin, .record, .cfgA, .cfgB, .cmp, .ras, .fxm, .pho, .pool, .lanes, .lamps, .mac, .pkt, .dmx, .rad, .esc, .map, .cal, .vlt, .lgr] ⊆ l_)
    (h_ : Only l_ s0_ s) : OutOnly l_ s0_ (execThermalTrip t sensor temp s) := by
  unfold execThermalTrip
  try dsimp only
  repeat' (first
    | with_reducible exact h_
    | with_reducible exact hl_
    | with_reducible apply advance_only
    | with_reducible apply thermalTrip_only
    | with_reducible apply OutOnly.ite
    | with_reducible apply only_ite
    | with_reducible apply OutOnly.next
    | exact List.Subset.trans (by decide) hl_)

theorem pd2Regs_only {l_ : List Comp} {s0_ : State} {s : State} (hl_ : [Comp.regs, .teller, .protect] ⊆ l_)
    (h_ : Only l_ s0_ s) : Only l_ s0_ (pd2Regs s) := by
  unfold pd2Regs
  try dsimp only
  repeat' (first
    | with_reducible exact h_
    | with_reducible exact hl_
    | with_reducible apply modProtect_only
    | with_reducible apply modTeller_only
    | exact List.Subset.trans (by decide) hl_
    | fail_if_no_progress ((with_reducible refine only_mk (k := [.regs]) ?_ ?_ ?lit); case lit => exact fun c hc => by cases c <;> first | with_reducible rfl | exact absurd (by decide) hc))

theorem pd2Reset_only {l_ : List Comp} {s0_ : State} {cause : Nat} {s : State} (hl_ : [Comp.regs, .teller, .power, .protect, .lanes, .dmx, .cal, .vlt, .lgr] ⊆ l_)
    (h_ : Only l_ s0_ s) : Only l_ s0_ (pd2Reset cause s) := by
  unfold pd2Reset
  try dsimp only
  repeat' (first
    | with_reducible exact h_
    | with_reducible exact hl_
    | with_reducible apply bump_only
    | with_reducible apply modVlt_only
    | with_reducible apply lgrReset_only
    | with_reducible apply modCal_only
    | with_reducible apply modTeller_only
    | with_reducible apply tellerStop_only
    | with_reducible apply modPower_only
    | with_reducible apply pd2Regs_only
    | exact List.Subset.trans (by decide) hl_)

theorem execWatchdogExpiry_only {l_ : List Comp} {s0_ : State} {t : Nat} {s : State} (hl_ : [Comp.regs, .time, .teller, .power, .protect, .lanes, .dmx, .cal, .vlt, .lgr] ⊆ l_)
    (h_ : Only l_ s0_ s) : OutOnly l_ s0_ (execWatchdogExpiry t s) := by
  unfold execWatchdogExpiry
  try dsimp only
  repeat' (first
    | with_reducible exact h_
    | with_reducible exact hl_
    | with_reducible apply advance_only
    | with_reducible apply bump_only
    | with_reducible apply modPower_only
    | with_reducible apply keepSent_only
    | with_reducible apply bootCounted_only
    | with_reducible apply pd2Reset_only
    | with_reducible apply OutOnly.ite
    | with_reducible apply only_ite
    | with_reducible apply OutOnly.next
    | exact List.Subset.trans (by decide) hl_)

theorem lockstep_only {l_ : List Comp} {s0_ : State} {pc : Nat} {s : State} (hl_ : [Comp.regs, .teller, .power, .protect, .lanes, .dmx, .cal, .vlt, .lgr] ⊆ l_)
    (h_ : Only l_ s0_ s) : Only l_ s0_ (lockstep pc s) := by
  unfold lockstep
  try dsimp only
  repeat' (first
    | with_reducible exact h_
    | with_reducible exact hl_
    | with_reducible apply bump_only
    | with_reducible apply ledgerEvent_only
    | with_reducible apply modPower_only
    | with_reducible apply keepSent_only
    | with_reducible apply bootCounted_only
    | with_reducible apply pd2Reset_only
    | with_reducible apply only_ite
    | exact List.Subset.trans (by decide) hl_)

theorem execLockstepMismatch_only {l_ : List Comp} {s0_ : State} {t : Nat} {pc : Nat} {s : State} (hl_ : [Comp.regs, .time, .teller, .power, .protect, .lanes, .dmx, .cal, .vlt, .lgr] ⊆ l_)
    (h_ : Only l_ s0_ s) : OutOnly l_ s0_ (execLockstepMismatch t pc s) := by
  unfold execLockstepMismatch
  try dsimp only
  repeat' (first
    | with_reducible exact h_
    | with_reducible exact hl_
    | with_reducible apply advance_only
    | with_reducible apply lockstep_only
    | with_reducible apply OutOnly.ite
    | with_reducible apply only_ite
    | with_reducible apply OutOnly.next
    | exact List.Subset.trans (by decide) hl_)

theorem execPd2Restart_only {l_ : List Comp} {s0_ : State} {t : Nat} {p : BootPins} {s : State} (hl_ : [Comp.regs, .free, .time, .teller, .power, .alm, .fifos, .protect, .vin, .record, .cfgA, .cfgB, .cmp, .ras, .fxm, .pho, .pool, .lanes, .lamps, .mac, .pkt, .dmx, .rad, .esc, .map, .cal, .vlt, .lgr] ⊆ l_)
    (h_ : Only l_ s0_ s) : OutOnly l_ s0_ (execPd2Restart t p s) := by
  unfold execPd2Restart
  try dsimp only
  repeat' (first
    | with_reducible exact h_
    | with_reducible exact hl_
    | with_reducible apply advance_only
    | with_reducible apply assignChannels_only
    | with_reducible apply bootRom_only
    | with_reducible apply bootFallback_only
    | with_reducible apply tellerStart_only
    | with_reducible apply modPower_only
    | with_reducible apply hkcStart_only
    | with_reducible apply deviceReset_only
    | with_reducible apply OutOnly.ite
    | with_reducible apply only_ite
    | with_reducible apply OutOnly.next
    | exact List.Subset.trans (by decide) hl_)

theorem execPowerReset_only {l_ : List Comp} {s0_ : State} {c : Call} {target : Nat} {next : Nat} {s : State} (hl_ : [Comp.regs, .free, .time, .teller, .power, .alm, .fifos, .protect, .vin, .record, .cfgA, .cfgB, .cmp, .ras, .fxm, .pho, .pool, .lanes, .lamps, .mac, .pkt, .dmx, .rad, .esc, .map, .cal, .vlt, .lgr] ⊆ l_)
    (h_ : Only l_ s0_ s) : OutOnly l_ s0_ (execPowerReset c target next s) := by
  unfold execPowerReset
  try dsimp only
  repeat' (first
    | with_reducible exact h_
    | with_reducible exact hl_
    | with_reducible apply advance_only
    | with_reducible apply respond_only
    | with_reducible apply writeBoot_only
    | with_reducible apply keepSent_only
    | with_reducible apply hkcStart_only
    | with_reducible apply deviceReset_only
    | with_reducible apply pd2Reset_only
    | with_reducible apply OutOnly.ite
    | with_reducible apply only_ite
    | with_reducible apply OutOnly.next
    | exact List.Subset.trans (by decide) hl_)

theorem execVbatLoss_only {l_ : List Comp} {s0_ : State} {t : Nat} {s : State} (hl_ : [Comp.time, .power] ⊆ l_)
    (h_ : Only l_ s0_ s) : OutOnly l_ s0_ (execVbatLoss t s) := by
  unfold execVbatLoss
  try dsimp only
  repeat' (first
    | with_reducible exact h_
    | with_reducible exact hl_
    | with_reducible apply advance_only
    | with_reducible apply modPower_only
    | with_reducible apply OutOnly.ite
    | with_reducible apply only_ite
    | with_reducible apply OutOnly.next
    | exact List.Subset.trans (by decide) hl_
    | fail_if_no_progress ((with_reducible refine only_mk (k := [.time]) ?_ ?_ ?lit); case lit => exact fun c hc => by cases c <;> first | with_reducible rfl | exact absurd (by decide) hc)
    | dsimp only
    | split)

theorem wake_only {l_ : List Comp} {s0_ : State} {source : Nat} {s : State} (hl_ : [Comp.regs, .free, .time, .teller, .power, .alm, .fifos, .protect, .vin, .record, .cfgA, .cfgB, .cmp, .ras, .fxm, .pho, .pool, .lanes, .lamps, .mac, .pkt, .dmx, .rad, .esc, .map, .cal, .vlt, .lgr] ⊆ l_)
    (h_ : Only l_ s0_ s) : Only l_ s0_ (wake source s) := by
  unfold wake
  try dsimp only
  repeat' (first
    | with_reducible exact h_
    | with_reducible exact hl_
    | with_reducible apply modPower_only
    | with_reducible apply hkcStart_only
    | with_reducible apply deviceReset_only
    | with_reducible apply only_ite
    | exact List.Subset.trans (by decide) hl_)

theorem execRtcAlarmWake_only {l_ : List Comp} {s0_ : State} {t : Nat} {s : State} (hl_ : [Comp.regs, .free, .time, .teller, .power, .alm, .fifos, .protect, .vin, .record, .cfgA, .cfgB, .cmp, .ras, .fxm, .pho, .pool, .lanes, .lamps, .mac, .pkt, .dmx, .rad, .esc, .map, .cal, .vlt, .lgr] ⊆ l_)
    (h_ : Only l_ s0_ s) : OutOnly l_ s0_ (execRtcAlarmWake t s) := by
  unfold execRtcAlarmWake
  try dsimp only
  repeat' (first
    | with_reducible exact h_
    | with_reducible exact hl_
    | with_reducible apply advance_only
    | with_reducible apply wake_only
    | with_reducible apply OutOnly.ite
    | with_reducible apply only_ite
    | with_reducible apply OutOnly.next
    | exact List.Subset.trans (by decide) hl_)

theorem execWakePin_only {l_ : List Comp} {s0_ : State} {t : Nat} {s : State} (hl_ : [Comp.regs, .free, .time, .teller, .power, .alm, .fifos, .protect, .vin, .record, .cfgA, .cfgB, .cmp, .ras, .fxm, .pho, .pool, .lanes, .lamps, .mac, .pkt, .dmx, .rad, .esc, .map, .cal, .vlt, .lgr] ⊆ l_)
    (h_ : Only l_ s0_ s) : OutOnly l_ s0_ (execWakePin t s) := by
  unfold execWakePin
  try dsimp only
  repeat' (first
    | with_reducible exact h_
    | with_reducible exact hl_
    | with_reducible apply advance_only
    | with_reducible apply wake_only
    | with_reducible apply OutOnly.ite
    | with_reducible apply only_ite
    | with_reducible apply OutOnly.next
    | exact List.Subset.trans (by decide) hl_)

theorem execWakeFrameMatch_only {l_ : List Comp} {s0_ : State} {t : Nat} {e : WakeEvent} {s : State} (hl_ : [Comp.regs, .free, .time, .teller, .power, .alm, .fifos, .protect, .vin, .record, .cfgA, .cfgB, .cmp, .ras, .fxm, .pho, .pool, .lanes, .lamps, .mac, .pkt, .dmx, .rad, .esc, .map, .cal, .vlt, .lgr] ⊆ l_)
    (h_ : Only l_ s0_ s) : OutOnly l_ s0_ (execWakeFrameMatch t e s) := by
  unfold execWakeFrameMatch
  try dsimp only
  repeat' (first
    | with_reducible exact h_
    | with_reducible exact hl_
    | with_reducible apply setReg_only
    | with_reducible apply advance_only
    | with_reducible apply bump_only
    | with_reducible apply wake_only
    | with_reducible apply OutOnly.ite
    | with_reducible apply only_ite
    | with_reducible apply OutOnly.next
    | exact List.Subset.trans (by decide) hl_
    | dsimp only
    | split)

theorem execAonRailsGood_only {l_ : List Comp} {s0_ : State} {t : Nat} {s : State} (hl_ : [Comp.regs, .free, .time, .teller, .power, .alm, .fifos, .protect, .vin, .record, .cfgA, .cfgB, .cmp, .ras, .fxm, .pho, .pool, .lanes, .lamps, .mac, .pkt, .dmx, .rad, .esc, .map, .cal, .vlt, .lgr] ⊆ l_)
    (h_ : Only l_ s0_ s) : OutOnly l_ s0_ (execAonRailsGood t s) := by
  unfold execAonRailsGood
  try dsimp only
  repeat' (first
    | with_reducible exact h_
    | with_reducible exact hl_
    | with_reducible apply advance_only
    | with_reducible apply hkcStart_only
    | with_reducible apply deviceReset_only
    | with_reducible apply OutOnly.ite
    | with_reducible apply only_ite
    | with_reducible apply OutOnly.next
    | exact List.Subset.trans (by decide) hl_)

theorem execPwrGoodRise_only {l_ : List Comp} {s0_ : State} {t : Nat} {s : State} (hl_ : [Comp.regs, .time, .teller, .power, .alm, .fifos, .vin, .cmp, .ras, .fxm, .pho, .pool, .lanes, .mac, .pkt, .dmx, .rad, .esc, .map, .cal, .vlt, .lgr] ⊆ l_)
    (h_ : Only l_ s0_ s) : OutOnly l_ s0_ (execPwrGoodRise t s) := by
  unfold execPwrGoodRise
  try dsimp only
  repeat' (first
    | with_reducible exact h_
    | with_reducible exact hl_
    | with_reducible apply advance_only
    | with_reducible apply modPower_only
    | with_reducible apply bootStart_only
    | with_reducible apply OutOnly.ite
    | with_reducible apply only_ite
    | with_reducible apply OutOnly.next
    | exact List.Subset.trans (by decide) hl_)

theorem execPwrGoodTimeout_only {l_ : List Comp} {s0_ : State} {t : Nat} {s : State} (hl_ : [Comp.time, .teller, .power] ⊆ l_)
    (h_ : Only l_ s0_ s) : OutOnly l_ s0_ (execPwrGoodTimeout t s) := by
  unfold execPwrGoodTimeout
  try dsimp only
  repeat' (first
    | with_reducible exact h_
    | with_reducible exact hl_
    | with_reducible apply advance_only
    | with_reducible apply ledgerEvent_only
    | with_reducible apply modPower_only
    | with_reducible apply OutOnly.ite
    | with_reducible apply only_ite
    | with_reducible apply OutOnly.next
    | exact List.Subset.trans (by decide) hl_)

theorem execPowerUpRetry_only {l_ : List Comp} {s0_ : State} {t : Nat} {s : State} (hl_ : [Comp.time, .power] ⊆ l_)
    (h_ : Only l_ s0_ s) : OutOnly l_ s0_ (execPowerUpRetry t s) := by
  unfold execPowerUpRetry
  try dsimp only
  repeat' (first
    | with_reducible exact h_
    | with_reducible exact hl_
    | with_reducible apply advance_only
    | with_reducible apply modPower_only
    | with_reducible apply OutOnly.ite
    | with_reducible apply only_ite
    | with_reducible apply OutOnly.next
    | exact List.Subset.trans (by decide) hl_)

theorem chooseSetPoint_only {l_ : List Comp} {s0_ : State} {counts : List Nat} {avs : Bool} {s : State} (hl_ : [Comp.teller, .power] ⊆ l_)
    (h_ : Only l_ s0_ s) : Only l_ s0_ (chooseSetPoint counts avs s) := by
  unfold chooseSetPoint
  try dsimp only
  repeat' (first
    | with_reducible exact h_
    | with_reducible exact hl_
    | with_reducible apply ledgerEvent_only
    | with_reducible apply modPower_only
    | with_reducible apply only_ite
    | exact List.Subset.trans (by decide) hl_)

theorem portAddresses_only {l_ : List Comp} {s0_ : State} {s : State} (hl_ : [Comp.regs] ⊆ l_)
    (h_ : Only l_ s0_ s) : Only l_ s0_ (portAddresses s) := by
  unfold portAddresses
  try dsimp only
  repeat' (first
    | with_reducible exact h_
    | with_reducible exact hl_
    | with_reducible assumption
    | with_reducible apply setReg_only
    | with_reducible refine only_foldl ?_ (fun _ _ _ => ?_)
    | with_reducible apply only_ite)

theorem selfTestNotice_only {l_ : List Comp} {s0_ : State} {s : State} (hl_ : [Comp.regs, .teller] ⊆ l_)
    (h_ : Only l_ s0_ s) : Only l_ s0_ (selfTestNotice s) := by
  unfold selfTestNotice
  try dsimp only
  repeat' (first
    | with_reducible exact h_
    | with_reducible exact hl_
    | with_reducible apply notify_only
    | with_reducible apply only_ite)

theorem bootEnter_only {l_ : List Comp} {s0_ : State} {s : State} (hl_ : [Comp.regs, .free, .time, .teller, .power, .alm, .fifos, .vin, .cmp, .ras, .fxm, .pho, .pool, .lanes, .mac, .pkt, .dmx, .rad, .esc, .map, .cal, .vlt, .lgr] ⊆ l_)
    (h_ : Only l_ s0_ s) : Only l_ s0_ (bootEnter s) := by
  unfold bootEnter
  try dsimp only
  repeat' (first
    | with_reducible exact h_
    | with_reducible exact hl_
    | with_reducible apply ledgerEvent_only
    | with_reducible apply assignChannels_only
    | with_reducible apply provision_only
    | with_reducible apply bootConfirm_only
    | with_reducible apply bootFallback_only
    | with_reducible apply deviceKey_only
    | with_reducible apply calReady_only
    | with_reducible apply calTell_only
    | with_reducible apply calWriteStart_only
    | with_reducible apply tellerStart_only
    | with_reducible apply modPower_only
    | with_reducible apply kick_only
    | with_reducible apply modeNotice_only
    | with_reducible apply thermalJudge_only
    | with_reducible apply portAddresses_only
    | with_reducible apply selfTestNotice_only
    | with_reducible apply only_ite
    | exact List.Subset.trans (by decide) hl_)

theorem setUpShow_only {l_ : List Comp} {s0_ : State} {lead : Nat} {pool : Nat} {s : State} (hl_ : [Comp.alm] ⊆ l_)
    (h_ : Only l_ s0_ s) : Only l_ s0_ (setUpShow lead pool s) := by
  unfold setUpShow
  try dsimp only
  repeat' (first
    | with_reducible exact h_
    | with_reducible exact hl_
    | with_reducible apply modAlm_only
    | with_reducible apply only_ite
    | exact List.Subset.trans (by decide) hl_)

theorem execBootComplete_only {l_ : List Comp} {s0_ : State} {t : Nat} {p : BootPins} {counts : List Nat} {avs : Bool} {lead : Nat} {pool : Nat} {s : State} (hl_ : [Comp.regs, .free, .time, .teller, .power, .alm, .fifos, .vin, .cmp, .ras, .fxm, .pho, .pool, .lanes, .mac, .pkt, .dmx, .rad, .esc, .map, .cal, .vlt, .lgr] ⊆ l_)
    (h_ : Only l_ s0_ s) : OutOnly l_ s0_ (execBootComplete t p counts avs lead pool s) := by
  unfold execBootComplete
  try dsimp only
  repeat' (first
    | with_reducible exact h_
    | with_reducible exact hl_
    | with_reducible apply advance_only
    | with_reducible apply bootRom_only
    | with_reducible apply modThermal_only
    | with_reducible apply chooseSetPoint_only
    | with_reducible apply bootEnter_only
    | with_reducible apply setUpShow_only
    | with_reducible apply OutOnly.ite
    | with_reducible apply only_ite
    | with_reducible apply OutOnly.next
    | exact List.Subset.trans (by decide) hl_
    | dsimp only
    | split)

theorem execTemperatureSample_only {l_ : List Comp} {s0_ : State} {t : Nat} {temps : List Int} {counts : List Nat} {s : State} (hl_ : [Comp.regs, .free, .time, .teller, .power, .alm, .fifos, .protect, .vin, .record, .cfgA, .cfgB, .cmp, .ras, .fxm, .pho, .pool, .lanes, .lamps, .mac, .pkt, .dmx, .rad, .esc, .map, .cal, .vlt, .lgr] ⊆ l_)
    (h_ : Only l_ s0_ s) : OutOnly l_ s0_ (execTemperatureSample t temps counts s) := by
  unfold execTemperatureSample
  try dsimp only
  repeat' (first
    | with_reducible exact h_
    | with_reducible exact hl_
    | with_reducible apply advance_only
    | with_reducible apply modPower_only
    | with_reducible apply modThermal_only
    | with_reducible apply thermalJudge_only
    | with_reducible apply thermalTrip_only
    | with_reducible apply OutOnly.ite
    | with_reducible apply only_ite
    | with_reducible apply OutOnly.next
    | exact List.Subset.trans (by decide) hl_
    | dsimp only
    | split)

theorem voltJudge_only {l_ : List Comp} {s0_ : State} {s : State} {x : Nat × Nat} (hl_ : [Comp.regs, .teller, .power] ⊆ l_)
    (h_ : Only l_ s0_ s) : Only l_ s0_ (voltJudge s x) := by
  unfold voltJudge
  try dsimp only
  repeat' (first
    | with_reducible exact h_
    | with_reducible exact hl_
    | with_reducible apply bump_only
    | with_reducible apply setFlag_only
    | with_reducible apply notify_only
    | with_reducible apply modPower_only
    | with_reducible apply only_ite
    | exact List.Subset.trans (by decide) hl_)

theorem execVoltageSample_only {l_ : List Comp} {s0_ : State} {t : Nat} {volts : List Nat} {s : State} (hl_ : [Comp.regs, .time, .teller, .power] ⊆ l_)
    (h_ : Only l_ s0_ s) : OutOnly l_ s0_ (execVoltageSample t volts s) := by
  unfold execVoltageSample
  try dsimp only
  repeat' (first
    | with_reducible exact h_
    | with_reducible exact hl_
    | with_reducible assumption
    | with_reducible apply advance_only
    | with_reducible apply voltJudge_only
    | with_reducible refine only_foldl ?_ (fun _ _ _ => ?_)
    | with_reducible apply OutOnly.ite
    | with_reducible apply only_ite
    | with_reducible apply OutOnly.next
    | exact List.Subset.trans (by decide) hl_
    | dsimp only
    | split)

theorem execAvsRetune_only {l_ : List Comp} {s0_ : State} {t : Nat} {s : State} (hl_ : [Comp.time, .power] ⊆ l_)
    (h_ : Only l_ s0_ s) : OutOnly l_ s0_ (execAvsRetune t s) := by
  unfold execAvsRetune
  try dsimp only
  repeat' (first
    | with_reducible exact h_
    | with_reducible exact hl_
    | with_reducible apply advance_only
    | with_reducible apply modPower_only
    | with_reducible apply OutOnly.ite
    | with_reducible apply only_ite
    | with_reducible apply OutOnly.next
    | exact List.Subset.trans (by decide) hl_)

theorem execPowerLatencySet_only {l_ : List Comp} {s0_ : State} {c : Call} {tolerances : List Nat} {s : State} (hl_ : [Comp.regs, .time, .teller, .power, .alm, .fifos, .vin, .cmp, .ras, .fxm, .pho, .pool, .lanes, .mac, .pkt, .dmx, .rad, .esc, .map, .cal, .vlt, .lgr] ⊆ l_)
    (h_ : Only l_ s0_ s) : OutOnly l_ s0_ (execPowerLatencySet c tolerances s) := by
  unfold execPowerLatencySet
  try dsimp only
  repeat' (first
    | with_reducible exact h_
    | with_reducible exact hl_
    | with_reducible assumption
    | with_reducible apply setReg_only
    | with_reducible refine command_only ?_ ?_ (fun _ _ => ?_)
    | with_reducible apply accept_only
    | with_reducible apply kick_only
    | with_reducible refine only_foldl ?_ (fun _ _ _ => ?_)
    | with_reducible apply OutOnly.ite
    | with_reducible apply only_ite
    | with_reducible apply OutOnly.next
    | exact List.Subset.trans (by decide) hl_)

theorem execPowerDomainSet_only {l_ : List Comp} {s0_ : State} {c : Call} {domain : Nat} {action : Nat} {s : State} (hl_ : [Comp.regs, .time, .teller, .power, .alm, .fifos, .vin, .cmp, .ras, .fxm, .pho, .pool, .lanes, .mac, .pkt, .dmx, .rad, .esc, .map, .cal, .vlt, .lgr] ⊆ l_)
    (h_ : Only l_ s0_ s) : OutOnly l_ s0_ (execPowerDomainSet c domain action s) := by
  unfold execPowerDomainSet
  try dsimp only
  repeat' (first
    | with_reducible exact h_
    | with_reducible exact hl_
    | with_reducible assumption
    | with_reducible refine command_only ?_ ?_ (fun _ _ => ?_)
    | with_reducible apply refuse_only
    | with_reducible apply accept_only
    | with_reducible apply modDom_only
    | with_reducible apply kick_only
    | with_reducible apply OutOnly.ite
    | with_reducible apply only_ite
    | with_reducible apply OutOnly.next
    | exact List.Subset.trans (by decide) hl_
    | dsimp only
    | split)

theorem execPowerSagSet_only {l_ : List Comp} {s0_ : State} {c : Call} {p : PowerSagSet} {s : State} (hl_ : [Comp.regs, .time, .teller] ⊆ l_)
    (h_ : Only l_ s0_ s) : OutOnly l_ s0_ (execPowerSagSet c p s) := by
  unfold execPowerSagSet
  try dsimp only
  repeat' (first
    | with_reducible exact h_
    | with_reducible exact hl_
    | with_reducible assumption
    | with_reducible apply setReg_only
    | with_reducible refine command_only ?_ ?_ (fun _ _ => ?_)
    | with_reducible apply refuse_only
    | with_reducible apply accept_only
    | with_reducible apply OutOnly.ite
    | with_reducible apply only_ite
    | with_reducible apply OutOnly.next
    | exact List.Subset.trans (by decide) hl_
    | dsimp only
    | split)

theorem execPowerThermalSet_only {l_ : List Comp} {s0_ : State} {c : Call} {p : PowerThermalSet} {s : State} (hl_ : [Comp.regs, .time, .teller, .power] ⊆ l_)
    (h_ : Only l_ s0_ s) : OutOnly l_ s0_ (execPowerThermalSet c p s) := by
  unfold execPowerThermalSet
  try dsimp only
  repeat' (first
    | with_reducible exact h_
    | with_reducible exact hl_
    | with_reducible assumption
    | with_reducible apply setReg_only
    | with_reducible refine command_only ?_ ?_ (fun _ _ => ?_)
    | with_reducible apply refuse_only
    | with_reducible apply accept_only
    | with_reducible apply thermalJudge_only
    | with_reducible apply OutOnly.ite
    | with_reducible apply only_ite
    | with_reducible apply OutOnly.next
    | exact List.Subset.trans (by decide) hl_
    | dsimp only
    | split)

theorem execPowerWakeSet_only {l_ : List Comp} {s0_ : State} {c : Call} {enables : Nat} {alarm : Nat} {s : State} (hl_ : [Comp.regs, .time, .teller] ⊆ l_)
    (h_ : Only l_ s0_ s) : OutOnly l_ s0_ (execPowerWakeSet c enables alarm s) := by
  unfold execPowerWakeSet
  try dsimp only
  repeat' (first
    | with_reducible exact h_
    | with_reducible exact hl_
    | with_reducible assumption
    | with_reducible apply setReg_only
    | with_reducible apply setField_only
    | with_reducible refine command_only ?_ ?_ (fun _ _ => ?_)
    | with_reducible apply accept_only
    | with_reducible apply OutOnly.ite
    | with_reducible apply only_ite
    | with_reducible apply OutOnly.next
    | exact List.Subset.trans (by decide) hl_)

theorem execPowerStatusGet_only {l_ : List Comp} {s0_ : State} {c : Call} {s : State} (hl_ : [Comp.regs, .time, .teller] ⊆ l_)
    (h_ : Only l_ s0_ s) : OutOnly l_ s0_ (execPowerStatusGet c s) := by
  unfold execPowerStatusGet
  try dsimp only
  repeat' (first
    | with_reducible exact h_
    | with_reducible exact hl_
    | with_reducible assumption
    | with_reducible refine command_only ?_ ?_ (fun _ _ => ?_)
    | with_reducible apply answer_only
    | with_reducible apply OutOnly.ite
    | with_reducible apply only_ite
    | with_reducible apply OutOnly.next
    | exact List.Subset.trans (by decide) hl_)

theorem execPvtGet_only {l_ : List Comp} {s0_ : State} {c : Call} {s : State} (hl_ : [Comp.regs, .time, .teller] ⊆ l_)
    (h_ : Only l_ s0_ s) : OutOnly l_ s0_ (execPvtGet c s) := by
  unfold execPvtGet
  try dsimp only
  repeat' (first
    | with_reducible exact h_
    | with_reducible exact hl_
    | with_reducible assumption
    | with_reducible refine command_only ?_ ?_ (fun _ _ => ?_)
    | with_reducible apply answer_only
    | with_reducible apply OutOnly.ite
    | with_reducible apply only_ite
    | with_reducible apply OutOnly.next
    | exact List.Subset.trans (by decide) hl_)

end Sys2Proof.Laws
end

