-- ==== Sys2Proof/Laws/OnlyFirmware.lean ====
section
/-! SUPPORT. Which components of the machine the operations of Machine/Firmware.lean may change. -/

namespace Sys2Proof.Laws

open Sys2Proof.Machine Sys2Proof.Safety

theorem vaultOp_only {l_ : List Comp} {s0_ : State} {s : State} {f : State → State × Reply} (hl_ : [Comp.regs] ⊆ l_)
    (h_ : Only l_ s0_ s) (hf : ∀ x, Only l_ s0_ x → Only l_ s0_ (f x).1) : Only l_ s0_ (vaultOp s f).1 := by
  unfold vaultOp
  split
  · exact unauth_only (List.Subset.trans (by decide) hl_) h_
  · exact hf s h_

theorem keyEnroll_only {l_ : List Comp} {s0_ : State} {c : Call} {p : KeyEnroll} {s : State} (hl_ : [Comp.regs, .vlt] ⊆ l_)
    (h_ : Only l_ s0_ s) : Only l_ s0_ (keyEnroll c p s).1 := by
  unfold keyEnroll
  try dsimp only
  repeat' (first
    | with_reducible exact h_
    | with_reducible exact hl_
    | with_reducible apply refuse_only
    | with_reducible apply accept_only
    | with_reducible apply modVlt_only
    | with_reducible apply unauth_only
    | with_reducible apply only_ite_fst
    | with_reducible apply only_ite
    | exact List.Subset.trans (by decide) hl_
    | dsimp only
    | split)

theorem execSecKeyEnroll_only {l_ : List Comp} {s0_ : State} {c : Call} {p : KeyEnroll} {s : State} (hl_ : [Comp.regs, .time, .teller, .vlt] ⊆ l_)
    (h_ : Only l_ s0_ s) : OutOnly l_ s0_ (execSecKeyEnroll c p s) := by
  unfold execSecKeyEnroll
  try dsimp only
  repeat' (first
    | with_reducible exact h_
    | with_reducible exact hl_
    | with_reducible assumption
    | with_reducible refine command_only ?_ ?_ (fun _ _ => ?_)
    | with_reducible refine vaultOp_only ?_ ?_ (fun _ _ => ?_)
    | with_reducible apply keyEnroll_only
    | with_reducible apply OutOnly.ite
    | with_reducible apply only_ite
    | with_reducible apply OutOnly.next
    | exact List.Subset.trans (by decide) hl_)

theorem closeKeyed_only {l_ : List Comp} {s0_ : State} {ident : Nat} {s : State} (hl_ : [Comp.regs, .teller, .power, .lanes, .dmx, .cal, .vlt, .lgr] ⊆ l_)
    (h_ : Only l_ s0_ s) : Only l_ s0_ (closeKeyed ident s) := by
  unfold closeKeyed
  try dsimp only
  repeat' (first
    | with_reducible exact h_
    | with_reducible exact hl_
    | with_reducible assumption
    | with_reducible apply sessionClose_only
    | with_reducible refine only_foldl ?_ (fun _ _ _ => ?_)
    | with_reducible apply only_ite)

theorem keyRevoke_only {l_ : List Comp} {s0_ : State} {c : Call} {ident : Nat} {s : State} (hl_ : [Comp.regs, .teller, .power, .lanes, .dmx, .cal, .vlt, .lgr] ⊆ l_)
    (h_ : Only l_ s0_ s) : Only l_ s0_ (keyRevoke c ident s).1 := by
  unfold keyRevoke
  try dsimp only
  repeat' (first
    | with_reducible exact h_
    | with_reducible exact hl_
    | with_reducible apply refuse_only
    | with_reducible apply accept_only
    | with_reducible apply modVlt_only
    | with_reducible apply unauth_only
    | with_reducible apply closeKeyed_only
    | with_reducible apply only_ite_fst
    | with_reducible apply only_ite
    | exact List.Subset.trans (by decide) hl_
    | dsimp only
    | split)

theorem execSecKeyRevoke_only {l_ : List Comp} {s0_ : State} {c : Call} {ident : Nat} {s : State} (hl_ : [Comp.regs, .time, .teller, .power, .lanes, .dmx, .cal, .vlt, .lgr] ⊆ l_)
    (h_ : Only l_ s0_ s) : OutOnly l_ s0_ (execSecKeyRevoke c ident s) := by
  unfold execSecKeyRevoke
  try dsimp only
  repeat' (first
    | with_reducible exact h_
    | with_reducible exact hl_
    | with_reducible assumption
    | with_reducible refine command_only ?_ ?_ (fun _ _ => ?_)
    | with_reducible refine vaultOp_only ?_ ?_ (fun _ _ => ?_)
    | with_reducible apply keyRevoke_only
    | with_reducible apply OutOnly.ite
    | with_reducible apply only_ite
    | with_reducible apply OutOnly.next
    | exact List.Subset.trans (by decide) hl_)

theorem recordSet_only {l_ : List Comp} {s0_ : State} {p : RecordSet} {s : State} (hl_ : [Comp.vlt] ⊆ l_)
    (h_ : Only l_ s0_ s) : Only l_ s0_ (recordSet p s).1 := by
  unfold recordSet
  try dsimp only
  repeat' (first
    | with_reducible exact h_
    | with_reducible exact hl_
    | with_reducible apply accept_only
    | with_reducible apply modVlt_only
    | with_reducible apply only_ite_fst
    | with_reducible apply only_ite
    | exact List.Subset.trans (by decide) hl_)

theorem execSecRecordSet_only {l_ : List Comp} {s0_ : State} {c : Call} {p : RecordSet} {s : State} (hl_ : [Comp.regs, .time, .teller, .vlt] ⊆ l_)
    (h_ : Only l_ s0_ s) : OutOnly l_ s0_ (execSecRecordSet c p s) := by
  unfold execSecRecordSet
  try dsimp only
  repeat' (first
    | with_reducible exact h_
    | with_reducible exact hl_
    | with_reducible assumption
    | with_reducible refine command_only ?_ ?_ (fun _ _ => ?_)
    | with_reducible refine vaultOp_only ?_ ?_ (fun _ _ => ?_)
    | with_reducible apply recordSet_only
    | with_reducible apply OutOnly.ite
    | with_reducible apply only_ite
    | with_reducible apply OutOnly.next
    | exact List.Subset.trans (by decide) hl_)

theorem secMove_only {l_ : List Comp} {s0_ : State} {new : SecState} {cause : Nat} {s : State} (hl_ : [Comp.regs, .teller, .vlt] ⊆ l_)
    (h_ : Only l_ s0_ s) : Only l_ s0_ (secMove new cause s) := by
  unfold secMove
  try dsimp only
  repeat' (first
    | with_reducible exact h_
    | with_reducible exact hl_
    | with_reducible apply notify_only
    | with_reducible apply modVlt_only
    | with_reducible apply only_ite
    | exact List.Subset.trans (by decide) hl_)

theorem toStandby_only {l_ : List Comp} {s0_ : State} {s : State} (hl_ : [Comp.regs, .free, .time, .teller, .power, .alm, .fifos, .protect, .vin, .cfgA, .cfgB, .cmp, .ras, .fxm, .pho, .pool, .lanes, .mac, .pkt, .dmx, .rad, .esc, .map, .cal, .vlt, .lgr] ⊆ l_)
    (h_ : Only l_ s0_ s) : Only l_ s0_ (toStandby s) := by
  unfold toStandby
  try dsimp only
  repeat' (first
    | with_reducible exact h_
    | with_reducible exact hl_
    | with_reducible apply modPower_only
    | with_reducible apply changeGo_only
    | with_reducible apply only_ite
    | exact List.Subset.trans (by decide) hl_)

theorem provisionDone_only {l_ : List Comp} {s0_ : State} {flags : Nat} {s : State} (hl_ : [Comp.regs, .free, .time, .teller, .power, .alm, .fifos, .protect, .vin, .cfgA, .cfgB, .cmp, .ras, .fxm, .pho, .pool, .lanes, .mac, .pkt, .dmx, .rad, .esc, .map, .cal, .vlt, .lgr] ⊆ l_)
    (h_ : Only l_ s0_ s) : Only l_ s0_ (provisionDone flags s).1 := by
  unfold provisionDone
  try dsimp only
  repeat' (first
    | with_reducible exact h_
    | with_reducible exact hl_
    | with_reducible apply refuse_only
    | with_reducible apply accept_only
    | with_reducible apply secMove_only
    | with_reducible apply toStandby_only
    | with_reducible apply only_ite_fst
    | with_reducible apply only_ite
    | exact List.Subset.trans (by decide) hl_)

theorem execSecProvisionDone_only {l_ : List Comp} {s0_ : State} {c : Call} {flags : Nat} {s : State} (hl_ : [Comp.regs, .free, .time, .teller, .power, .alm, .fifos, .protect, .vin, .cfgA, .cfgB, .cmp, .ras, .fxm, .pho, .pool, .lanes, .mac, .pkt, .dmx, .rad, .esc, .map, .cal, .vlt, .lgr] ⊆ l_)
    (h_ : Only l_ s0_ s) : OutOnly l_ s0_ (execSecProvisionDone c flags s) := by
  unfold execSecProvisionDone
  try dsimp only
  repeat' (first
    | with_reducible exact h_
    | with_reducible exact hl_
    | with_reducible assumption
    | with_reducible refine command_only ?_ ?_ (fun _ _ => ?_)
    | with_reducible refine vaultOp_only ?_ ?_ (fun _ _ => ?_)
    | with_reducible apply provisionDone_only
    | with_reducible apply OutOnly.ite
    | with_reducible apply only_ite
    | with_reducible apply OutOnly.next
    | exact List.Subset.trans (by decide) hl_)

theorem rollbackAdvance_only {l_ : List Comp} {s0_ : State} {flags : Nat} {s : State} (hl_ : [Comp.vlt] ⊆ l_)
    (h_ : Only l_ s0_ s) : Only l_ s0_ (rollbackAdvance flags s).1 := by
  unfold rollbackAdvance
  try dsimp only
  repeat' (first
    | with_reducible exact h_
    | with_reducible exact hl_
    | with_reducible apply refuse_only
    | with_reducible apply accept_only
    | with_reducible apply modVlt_only
    | with_reducible apply only_ite_fst
    | with_reducible apply only_ite
    | exact List.Subset.trans (by decide) hl_)

theorem execSecRollbackAdvance_only {l_ : List Comp} {s0_ : State} {c : Call} {flags : Nat} {s : State} (hl_ : [Comp.regs, .time, .teller, .vlt] ⊆ l_)
    (h_ : Only l_ s0_ s) : OutOnly l_ s0_ (execSecRollbackAdvance c flags s) := by
  unfold execSecRollbackAdvance
  try dsimp only
  repeat' (first
    | with_reducible exact h_
    | with_reducible exact hl_
    | with_reducible assumption
    | with_reducible refine command_only ?_ ?_ (fun _ _ => ?_)
    | with_reducible refine vaultOp_only ?_ ?_ (fun _ _ => ?_)
    | with_reducible apply rollbackAdvance_only
    | with_reducible apply OutOnly.ite
    | with_reducible apply only_ite
    | with_reducible apply OutOnly.next
    | exact List.Subset.trans (by decide) hl_)

theorem zeroize_only {l_ : List Comp} {s0_ : State} {s : State} (hl_ : [Comp.vlt] ⊆ l_)
    (h_ : Only l_ s0_ s) : Only l_ s0_ (zeroize s) := by
  unfold zeroize
  try dsimp only
  repeat' (first
    | with_reducible exact h_
    | with_reducible exact hl_
    | with_reducible assumption
    | with_reducible apply modVlt_only)

theorem execSecRetire_only {l_ : List Comp} {s0_ : State} {c : Call} {confirm : Nat} {s : State} (hl_ : [Comp.regs, .free, .time, .teller, .power, .alm, .fifos, .protect, .vin, .record, .cfgA, .cfgB, .cmp, .ras, .fxm, .pho, .pool, .lanes, .lamps, .mac, .pkt, .dmx, .rad, .esc, .map, .cal, .vlt, .lgr] ⊆ l_)
    (h_ : Only l_ s0_ s) : OutOnly l_ s0_ (execSecRetire c confirm s) := by
  unfold execSecRetire
  try dsimp only
  repeat' (first
    | with_reducible exact h_
    | with_reducible exact hl_
    | with_reducible apply advance_only
    | with_reducible apply respond_only
    | with_reducible apply refuse_only
    | with_reducible apply unauth_only
    | with_reducible apply hkcStart_only
    | with_reducible apply deviceReset_only
    | with_reducible apply secMove_only
    | with_reducible apply zeroize_only
    | with_reducible apply OutOnly.ite
    | with_reducible apply only_ite
    | with_reducible apply OutOnly.next
    | exact List.Subset.trans (by decide) hl_)

theorem stageBegin_only {l_ : List Comp} {s0_ : State} {b : Nat} {h : FwHeader} {s : State} (hl_ : [Comp.regs, .teller, .vlt] ⊆ l_)
    (h_ : Only l_ s0_ s) : Only l_ s0_ (stageBegin b h s) := by
  unfold stageBegin
  try dsimp only
  repeat' (first
    | with_reducible exact h_
    | with_reducible exact hl_
    | with_reducible apply writeBoot_only
    | with_reducible apply modBank_only
    | with_reducible apply blockSag_only
    | with_reducible apply only_ite
    | exact List.Subset.trans (by decide) hl_)

theorem fwBegin_only {l_ : List Comp} {s0_ : State} {bank : Nat} {h : FwHeader} {s : State} (hl_ : [Comp.regs, .teller, .vlt] ⊆ l_)
    (h_ : Only l_ s0_ s) : Only l_ s0_ (fwBegin bank h s).1 := by
  unfold fwBegin
  try dsimp only
  repeat' (first
    | with_reducible exact h_
    | with_reducible exact hl_
    | with_reducible apply refuse_only
    | with_reducible apply accept_only
    | with_reducible apply unauth_only
    | with_reducible apply sigFail_only
    | with_reducible apply stageBegin_only
    | with_reducible apply only_ite_fst
    | with_reducible apply only_ite
    | exact List.Subset.trans (by decide) hl_
    | dsimp only
    | split)

theorem execFwBegin_only {l_ : List Comp} {s0_ : State} {c : Call} {bank : Nat} {header : FwHeader} {s : State} (hl_ : [Comp.regs, .time, .teller, .vlt] ⊆ l_)
    (h_ : Only l_ s0_ s) : OutOnly l_ s0_ (execFwBegin c bank header s) := by
  unfold execFwBegin
  try dsimp only
  repeat' (first
    | with_reducible exact h_
    | with_reducible exact hl_
    | with_reducible assumption
    | with_reducible refine command_only ?_ ?_ (fun _ _ => ?_)
    | with_reducible refine vaultOp_only ?_ ?_ (fun _ _ => ?_)
    | with_reducible apply fwBegin_only
    | with_reducible apply OutOnly.ite
    | with_reducible apply only_ite
    | with_reducible apply OutOnly.next
    | exact List.Subset.trans (by decide) hl_)

theorem fwBlock_only {l_ : List Comp} {s0_ : State} {c : Call} {block : Nat} {crc : Word} {data : List (BitVec 8)} {sIn : State} (hl_ : [Comp.regs, .vlt] ⊆ l_)
    (h_ : Only l_ s0_ sIn) : Only l_ s0_ (fwBlock c block crc data sIn).1 := by
  unfold fwBlock
  try dsimp only
  repeat' (first
    | with_reducible exact h_
    | with_reducible exact hl_
    | with_reducible apply bump_only
    | with_reducible apply refuse_only
    | with_reducible apply accept_only
    | with_reducible apply chkRun_only
    | with_reducible apply modVlt_only
    | with_reducible apply only_ite
    | with_reducible apply only_ite_fst
    | exact List.Subset.trans (by decide) hl_
    | dsimp only
    | split)

theorem execFwBlock_only {l_ : List Comp} {s0_ : State} {c : Call} {block : Nat} {crc : Word} {data : List (BitVec 8)} {s : State} (hl_ : [Comp.regs, .time, .teller, .vlt] ⊆ l_)
    (h_ : Only l_ s0_ s) : OutOnly l_ s0_ (execFwBlock c block crc data s) := by
  unfold execFwBlock
  try dsimp only
  repeat' (first
    | with_reducible exact h_
    | with_reducible exact hl_
    | with_reducible assumption
    | with_reducible refine command_only ?_ ?_ (fun _ _ => ?_)
    | with_reducible apply fwBlock_only
    | with_reducible apply OutOnly.ite
    | with_reducible apply only_ite
    | with_reducible apply OutOnly.next
    | exact List.Subset.trans (by decide) hl_)

theorem execFwBlockWriteDone_only {l_ : List Comp} {s0_ : State} {t : Nat} {good : Bool} {s : State} (hl_ : [Comp.regs, .free, .time, .teller, .vlt] ⊆ l_)
    (h_ : Only l_ s0_ s) : OutOnly l_ s0_ (execFwBlockWriteDone t good s) := by
  unfold execFwBlockWriteDone
  try dsimp only
  repeat' (first
    | with_reducible exact h_
    | with_reducible exact hl_
    | with_reducible apply advance_only
    | with_reducible apply respondOwed_only
    | with_reducible apply internalAnswer_only
    | with_reducible apply chkRun_only
    | with_reducible apply modVlt_only
    | with_reducible apply modBank_only
    | with_reducible apply OutOnly.ite
    | with_reducible apply only_ite
    | with_reducible apply OutOnly.next
    | exact List.Subset.trans (by decide) hl_
    | dsimp only
    | split)

theorem fwEnd_only {l_ : List Comp} {s0_ : State} {bank : Nat} {s : State} (hl_ : [Comp.regs, .teller, .vlt] ⊆ l_)
    (h_ : Only l_ s0_ s) : Only l_ s0_ (fwEnd bank s).1 := by
  unfold fwEnd
  try dsimp only
  repeat' (first
    | with_reducible exact h_
    | with_reducible exact hl_
    | with_reducible apply notify_only
    | with_reducible apply refuse_only
    | with_reducible apply accept_only
    | with_reducible apply unauth_only
    | with_reducible apply sigFail_only
    | with_reducible apply writeBoot_only
    | with_reducible apply modBank_only
    | with_reducible apply only_ite
    | with_reducible apply only_ite_fst
    | exact List.Subset.trans (by decide) hl_
    | dsimp only
    | split)

theorem execFwEnd_only {l_ : List Comp} {s0_ : State} {c : Call} {bank : Nat} {s : State} (hl_ : [Comp.regs, .time, .teller, .vlt] ⊆ l_)
    (h_ : Only l_ s0_ s) : OutOnly l_ s0_ (execFwEnd c bank s) := by
  unfold execFwEnd
  try dsimp only
  repeat' (first
    | with_reducible exact h_
    | with_reducible exact hl_
    | with_reducible assumption
    | with_reducible refine command_only ?_ ?_ (fun _ _ => ?_)
    | with_reducible refine vaultOp_only ?_ ?_ (fun _ _ => ?_)
    | with_reducible apply fwEnd_only
    | with_reducible apply OutOnly.ite
    | with_reducible apply only_ite
    | with_reducible apply OutOnly.next
    | exact List.Subset.trans (by decide) hl_)

theorem execFwActivate_only {l_ : List Comp} {s0_ : State} {c : Call} {bank : Nat} {s : State} (hl_ : [Comp.regs, .free, .time, .teller, .power, .alm, .fifos, .protect, .vin, .record, .cfgA, .cfgB, .cmp, .ras, .fxm, .pho, .pool, .lanes, .lamps, .mac, .pkt, .dmx, .rad, .esc, .map, .cal, .vlt, .lgr] ⊆ l_)
    (h_ : Only l_ s0_ s) : OutOnly l_ s0_ (execFwActivate c bank s) := by
  unfold execFwActivate
  try dsimp only
  repeat' (first
    | with_reducible exact h_
    | with_reducible exact hl_
    | with_reducible apply advance_only
    | with_reducible apply respond_only
    | with_reducible apply writeBoot_only
    | with_reducible apply hkcStart_only
    | with_reducible apply deviceReset_only
    | with_reducible apply OutOnly.ite
    | with_reducible apply only_ite
    | with_reducible apply OutOnly.next
    | exact List.Subset.trans (by decide) hl_)

theorem stageDrop_only {l_ : List Comp} {s0_ : State} {bank : Nat} {s : State} (hl_ : [Comp.regs, .teller, .vlt] ⊆ l_)
    (h_ : Only l_ s0_ s) : Only l_ s0_ (stageDrop bank s) := by
  unfold stageDrop
  try dsimp only
  repeat' (first
    | with_reducible exact h_
    | with_reducible exact hl_
    | with_reducible apply writeBoot_only
    | with_reducible apply modBank_only
    | with_reducible apply blockSag_only
    | with_reducible apply only_ite
    | exact List.Subset.trans (by decide) hl_)

theorem execFwAbort_only {l_ : List Comp} {s0_ : State} {c : Call} {bank : Nat} {s : State} (hl_ : [Comp.regs, .free, .time, .teller, .power, .alm, .fifos, .protect, .vin, .cfgA, .cfgB, .cmp, .ras, .fxm, .pho, .pool, .lanes, .mac, .pkt, .dmx, .rad, .esc, .map, .cal, .vlt, .lgr] ⊆ l_)
    (h_ : Only l_ s0_ s) : OutOnly l_ s0_ (execFwAbort c bank s) := by
  unfold execFwAbort
  try dsimp only
  repeat' (first
    | with_reducible exact h_
    | with_reducible exact hl_
    | with_reducible assumption
    | with_reducible refine command_only ?_ ?_ (fun _ _ => ?_)
    | with_reducible apply refuse_only
    | with_reducible apply accept_only
    | with_reducible apply toStandby_only
    | with_reducible apply stageDrop_only
    | with_reducible apply OutOnly.ite
    | with_reducible apply only_ite
    | with_reducible apply OutOnly.next
    | exact List.Subset.trans (by decide) hl_
    | dsimp only
    | split)

theorem execSecStatusGet_only {l_ : List Comp} {s0_ : State} {c : Call} {s : State} (hl_ : [Comp.regs, .time, .teller] ⊆ l_)
    (h_ : Only l_ s0_ s) : OutOnly l_ s0_ (execSecStatusGet c s) := by
  unfold execSecStatusGet
  try dsimp only
  repeat' (first
    | with_reducible exact h_
    | with_reducible exact hl_
    | with_reducible assumption
    | with_reducible refine command_only ?_ ?_ (fun _ _ => ?_)
    | with_reducible apply answer_only
    | with_reducible apply OutOnly.ite
    | with_reducible apply only_ite
    | with_reducible apply OutOnly.next
    | exact List.Subset.trans (by decide) hl_)

theorem execFwStatusGet_only {l_ : List Comp} {s0_ : State} {c : Call} {bank : Nat} {s : State} (hl_ : [Comp.regs, .time, .teller] ⊆ l_)
    (h_ : Only l_ s0_ s) : OutOnly l_ s0_ (execFwStatusGet c bank s) := by
  unfold execFwStatusGet
  try dsimp only
  repeat' (first
    | with_reducible exact h_
    | with_reducible exact hl_
    | with_reducible assumption
    | with_reducible refine command_only ?_ ?_ (fun _ _ => ?_)
    | with_reducible apply refuse_only
    | with_reducible apply answer_only
    | with_reducible apply OutOnly.ite
    | with_reducible apply only_ite
    | with_reducible apply OutOnly.next
    | exact List.Subset.trans (by decide) hl_
    | dsimp only
    | split)

end Sys2Proof.Laws
end

