-- ==== Sys2Proof/Laws/OnlyProtect.lean ====
section
/-! SUPPORT. Which components of the machine the operations of Machine/Protect.lean may change. -/

namespace Sys2Proof.Laws

open Sys2Proof.Machine Sys2Proof.Safety

theorem tileError_only {l_ : List Comp} {s0_ : State} {tile : Nat} {s : State} (hl_ : [Comp.regs, .protect, .cmp] ⊆ l_)
    (h_ : Only l_ s0_ s) : Only l_ s0_ (tileError tile s) := by
  unfold tileError
  try dsimp only
  repeat' (first
    | with_reducible exact h_
    | with_reducible exact hl_
    | with_reducible apply repairTile_only
    | with_reducible apply modProtect_only
    | with_reducible apply only_ite
    | exact List.Subset.trans (by decide) hl_
    | dsimp only
    | split)

theorem wordSpoiled_only {l_ : List Comp} {s0_ : State} {q : Nat} {s : State} (hl_ : [Comp.regs, .teller, .fifos] ⊆ l_)
    (h_ : Only l_ s0_ s) : Only l_ s0_ (wordSpoiled q s) := by
  unfold wordSpoiled
  try dsimp only
  repeat' (first
    | with_reducible exact h_
    | with_reducible exact hl_
    | with_reducible apply modFifo_only
    | with_reducible apply fifoPop_only
    | with_reducible apply fifoSpoiled_only
    | with_reducible apply only_ite
    | exact List.Subset.trans (by decide) hl_)

theorem siteEffect_only {l_ : List Comp} {s0_ : State} {e : ErrorFound} {s : State} (hl_ : [Comp.regs, .free, .teller, .power, .alm, .fifos, .protect, .cmp, .fxm, .pho, .pool, .lanes, .dmx, .rad, .esc, .map, .cal, .vlt, .lgr] ⊆ l_)
    (h_ : Only l_ s0_ s) : Only l_ s0_ (siteEffect e s) := by
  unfold siteEffect
  try dsimp only
  repeat' (first
    | with_reducible exact h_
    | with_reducible exact hl_
    | with_reducible apply draw_only
    | with_reducible apply bump_only
    | with_reducible apply modProtect_only
    | with_reducible apply repeatSegment_only
    | with_reducible apply engineFail_only
    | with_reducible apply lockstep_only
    | with_reducible apply tileError_only
    | with_reducible apply wordSpoiled_only
    | with_reducible apply only_ite
    | exact List.Subset.trans (by decide) hl_
    | dsimp only
    | split)

theorem poisoned_only {l_ : List Comp} {s0_ : State} {e : ErrorFound} {s : State} (hl_ : [Comp.regs, .free, .teller, .power, .alm, .fifos, .protect, .cmp, .fxm, .pho, .pool, .lanes, .dmx, .rad, .esc, .map, .cal, .vlt, .lgr] ⊆ l_)
    (h_ : Only l_ s0_ s) : Only l_ s0_ (poisoned e s) := by
  unfold poisoned
  try dsimp only
  repeat' (first
    | with_reducible exact h_
    | with_reducible exact hl_
    | with_reducible apply errorFound_only
    | with_reducible apply siteEffect_only
    | with_reducible apply only_ite
    | exact List.Subset.trans (by decide) hl_
    | dsimp only
    | split)

theorem datapathError_only {l_ : List Comp} {s0_ : State} {s : State} {e : ErrorFound} (hl_ : [Comp.regs, .free, .teller, .power, .alm, .fifos, .protect, .cmp, .ras, .fxm, .pho, .pool, .lanes, .dmx, .rad, .esc, .map, .cal, .vlt, .lgr] ⊆ l_)
    (h_ : Only l_ s0_ s) : Only l_ s0_ (datapathError s e) := by
  unfold datapathError
  try dsimp only
  repeat' (first
    | with_reducible exact h_
    | with_reducible exact hl_
    | with_reducible apply scanParity_only
    | with_reducible apply errorFound_only
    | with_reducible apply siteEffect_only
    | with_reducible apply poisoned_only
    | with_reducible apply only_ite
    | exact List.Subset.trans (by decide) hl_)

theorem execParityError_only {l_ : List Comp} {s0_ : State} {t : Nat} {e : ErrorFound} {s : State} (hl_ : [Comp.regs, .free, .time, .teller, .power, .alm, .fifos, .protect, .cmp, .ras, .fxm, .pho, .pool, .lanes, .dmx, .rad, .esc, .map, .cal, .vlt, .lgr] ⊆ l_)
    (h_ : Only l_ s0_ s) : OutOnly l_ s0_ (execParityError t e s) := by
  unfold execParityError
  try dsimp only
  repeat' (first
    | with_reducible exact h_
    | with_reducible exact hl_
    | with_reducible apply advance_only
    | with_reducible apply datapathError_only
    | with_reducible apply OutOnly.ite
    | with_reducible apply only_ite
    | with_reducible apply OutOnly.next
    | exact List.Subset.trans (by decide) hl_)

theorem execScrubPass_only {l_ : List Comp} {s0_ : State} {t : Nat} {errors : List ErrorFound} {s : State} (hl_ : [Comp.regs, .free, .time, .teller, .power, .alm, .fifos, .protect, .cmp, .ras, .fxm, .pho, .pool, .lanes, .dmx, .rad, .esc, .map, .cal, .vlt, .lgr] ⊆ l_)
    (h_ : Only l_ s0_ s) : OutOnly l_ s0_ (execScrubPass t errors s) := by
  unfold execScrubPass
  try dsimp only
  repeat' (first
    | with_reducible exact h_
    | with_reducible exact hl_
    | with_reducible assumption
    | with_reducible apply advance_only
    | with_reducible apply datapathError_only
    | with_reducible refine only_foldl ?_ (fun _ _ _ => ?_)
    | with_reducible apply OutOnly.ite
    | with_reducible apply only_ite
    | with_reducible apply OutOnly.next
    | exact List.Subset.trans (by decide) hl_)

theorem execMapEntryRewrite_only {l_ : List Comp} {s0_ : State} {t : Nat} {s : State} (hl_ : [Comp.regs, .time, .protect] ⊆ l_)
    (h_ : Only l_ s0_ s) : OutOnly l_ s0_ (execMapEntryRewrite t s) := by
  unfold execMapEntryRewrite
  try dsimp only
  repeat' (first
    | with_reducible exact h_
    | with_reducible exact hl_
    | with_reducible apply advance_only
    | with_reducible apply bumpBy_only
    | with_reducible apply setFlag_only
    | with_reducible apply modProtect_only
    | with_reducible apply OutOnly.ite
    | with_reducible apply only_ite
    | with_reducible apply OutOnly.next
    | exact List.Subset.trans (by decide) hl_
    | dsimp only
    | split)

theorem execFaultHandoff_only {l_ : List Comp} {s0_ : State} {t : Nat} {s : State} (hl_ : [Comp.regs, .time, .teller, .alm, .protect, .fxm, .pho, .pool, .lanes, .rad, .esc, .map] ⊆ l_)
    (h_ : Only l_ s0_ s) : OutOnly l_ s0_ (execFaultHandoff t s) := by
  unfold execFaultHandoff
  try dsimp only
  repeat' (first
    | with_reducible exact h_
    | with_reducible exact hl_
    | with_reducible apply advance_only
    | with_reducible apply modProtect_only
    | with_reducible apply engineFail_only
    | with_reducible apply OutOnly.ite
    | with_reducible apply only_ite
    | with_reducible apply OutOnly.next
    | exact List.Subset.trans (by decide) hl_
    | dsimp only
    | split)

end Sys2Proof.Laws
end

