-- ==== Sys2Proof/Laws/OnlyFrame.lean ====
section
/-! SUPPORT. Which components of the machine the operations of Machine/Frame.lean may change. -/

namespace Sys2Proof.Laws

open Sys2Proof.Machine Sys2Proof.Safety

theorem execCanvasLineDone_only {l_ : List Comp} {s0_ : State} {t : Nat} {line : Nat} {accepted : Bool} {s : State} (hl_ : [Comp.regs, .time, .teller, .protect, .cmp, .ras, .map] ⊆ l_)
    (h_ : Only l_ s0_ s) : OutOnly l_ s0_ (execCanvasLineDone t line accepted s) := by
  unfold execCanvasLineDone
  try dsimp only
  repeat' (first
    | with_reducible exact h_
    | with_reducible exact hl_
    | with_reducible apply advance_only
    | with_reducible apply lineDone_only
    | with_reducible apply waitsEnd_only
    | with_reducible apply OutOnly.ite
    | with_reducible apply OutOnly.next
    | exact List.Subset.trans (by decide) hl_
    | dsimp only
    | split)

theorem fxmCopy_only {l_ : List Comp} {s0_ : State} {k : Int} {s : State} {a : Int × Int} (hl_ : [Comp.regs, .teller, .alm, .cfgA, .cfgB, .fxm, .lanes, .mac, .pkt, .dmx] ⊆ l_)
    (h_ : Only l_ s0_ s) : Only l_ s0_ (fxmCopy k s a) := by
  unfold fxmCopy
  try dsimp only
  repeat' (first
    | with_reducible exact h_
    | with_reducible exact hl_
    | with_reducible apply setFlag_only
    | with_reducible apply modFxm_only
    | with_reducible apply lneConfigure_only
    | with_reducible apply pktConfigure_only
    | with_reducible apply unitsFollow_only
    | with_reducible apply copyB_only
    | with_reducible apply only_ite
    | with_reducible apply only_ite_fst
    | exact List.Subset.trans (by decide) hl_)

theorem fxmCopies_only {l_ : List Comp} {s0_ : State} {k : Int} {s : State} (hl_ : [Comp.regs, .teller, .alm, .cfgA, .cfgB, .fxm, .lanes, .mac, .pkt, .dmx] ⊆ l_)
    (h_ : Only l_ s0_ s) : Only l_ s0_ (fxmCopies k s) := by
  unfold fxmCopies
  try dsimp only
  repeat' (first
    | with_reducible exact h_
    | with_reducible exact hl_
    | with_reducible assumption
    | with_reducible apply modFxm_only
    | with_reducible apply fxmCopy_only
    | with_reducible refine only_foldl ?_ (fun _ _ _ => ?_)
    | with_reducible apply only_ite
    | exact List.Subset.trans (by decide) hl_)

theorem enterZones_only {l_ : List Comp} {s0_ : State} {k : Int} {s : State} (hl_ : [Comp.alm] ⊆ l_)
    (h_ : Only l_ s0_ s) : Only l_ s0_ (enterZones k s) := by
  unfold enterZones
  try dsimp only
  repeat' (first
    | with_reducible exact h_
    | with_reducible exact hl_
    | with_reducible assumption
    | with_reducible apply moveRelease_only
    | with_reducible refine only_foldl ?_ (fun _ _ _ => ?_)
    | with_reducible apply only_ite
    | exact List.Subset.trans (by decide) hl_)

theorem leaveZones_only {l_ : List Comp} {s0_ : State} {k : Int} {s : State} (hl_ : [Comp.alm] ⊆ l_)
    (h_ : Only l_ s0_ s) : Only l_ s0_ (leaveZones k s) := by
  unfold leaveZones
  try dsimp only
  repeat' (first
    | with_reducible exact h_
    | with_reducible exact hl_
    | with_reducible apply modAlm_only
    | exact List.Subset.trans (by decide) hl_)

theorem findSlots_only {l_ : List Comp} {s0_ : State} {k : Int} {zs : List Nat} {used : Nat} {s : State} (hl_ : [Comp.regs, .alm, .pool] ⊆ l_) (h_ : Only l_ s0_ s) :
    Only l_ s0_ (findSlots k zs used s) := by
  induction zs generalizing used s with
  | nil => exact h_
  | cons z r ih =>
    unfold findSlots
    dsimp only
    repeat' (first
      | with_reducible assumption
      | with_reducible apply ih
      | with_reducible apply traceOf_only
      | with_reducible apply joinRun_only
      | with_reducible apply unsentZone_only
      | with_reducible apply skipFrames_only
      | with_reducible apply only_ite
      | exact List.Subset.trans (by decide) hl_)

theorem frameZones_only {l_ : List Comp} {s0_ : State} {k : Int} {s : State} (hl_ : [Comp.regs, .alm, .pool] ⊆ l_)
    (h_ : Only l_ s0_ s) : Only l_ s0_ (frameZones k s) := by
  unfold frameZones
  try dsimp only
  repeat' (first
    | with_reducible exact h_
    | with_reducible exact hl_
    | with_reducible assumption
    | with_reducible apply modPool_only
    | with_reducible apply unsentZone_only
    | with_reducible apply findSlots_only
    | with_reducible refine only_foldl ?_ (fun _ _ _ => ?_)
    | with_reducible apply only_ite
    | exact List.Subset.trans (by decide) hl_)

theorem mapFrame_only {l_ : List Comp} {s0_ : State} {k : Int} {canvas : Option Nat} {tests : List (Nat × Nat)} {s : State} (hl_ : [Comp.regs, .teller, .alm, .fifos, .protect, .fxm, .pho, .pool, .lanes, .rad, .esc, .map] ⊆ l_)
    (h_ : Only l_ s0_ s) : Only l_ s0_ (mapFrame k canvas tests s) := by
  unfold mapFrame
  try dsimp only
  repeat' (first
    | with_reducible exact h_
    | with_reducible exact hl_
    | with_reducible apply phoSnapshot_only
    | with_reducible apply mapStart_only
    | with_reducible apply frameZones_only
    | with_reducible apply only_ite
    | exact List.Subset.trans (by decide) hl_)

theorem frameTimers_only {l_ : List Comp} {s0_ : State} {k : Int} {s : State} (hl_ : [Comp.regs, .teller, .alm] ⊆ l_)
    (h_ : Only l_ s0_ s) : Only l_ s0_ (frameTimers k s) := by
  unfold frameTimers
  try dsimp only
  repeat' (first
    | with_reducible exact h_
    | with_reducible exact hl_
    | with_reducible apply insertTimer_only
    | with_reducible apply only_ite
    | exact List.Subset.trans (by decide) hl_)

theorem forgetErrors_only {l_ : List Comp} {s0_ : State} {s : State} (hl_ : [Comp.protect] ⊆ l_)
    (h_ : Only l_ s0_ s) : Only l_ s0_ (forgetErrors s) := by
  unfold forgetErrors
  try dsimp only
  repeat' (first
    | with_reducible exact h_
    | with_reducible exact hl_
    | with_reducible apply modProtect_only
    | with_reducible apply only_ite
    | exact List.Subset.trans (by decide) hl_)

theorem frameWork_only {l_ : List Comp} {s0_ : State} {k : Int} {tests : List (Nat × Nat)} {s : State} (hl_ : [Comp.regs, .free, .time, .teller, .power, .alm, .fifos, .protect, .vin, .cfgA, .cfgB, .cmp, .ras, .fxm, .pho, .pool, .lanes, .mac, .pkt, .dmx, .rad, .esc, .map, .cal, .vlt, .lgr] ⊆ l_)
    (h_ : Only l_ s0_ s) : Only l_ s0_ (frameWork k tests s) := by
  unfold frameWork
  try dsimp only
  repeat' (first
    | with_reducible exact h_
    | with_reducible exact hl_
    | with_reducible apply frameVin_only
    | with_reducible apply frameCmp_only
    | with_reducible apply frameRas_only
    | with_reducible apply applyShed_only
    | with_reducible apply sendEndings_only
    | with_reducible apply radioSlots_only
    | with_reducible apply kick_only
    | with_reducible apply dramWake_only
    | with_reducible apply configA_only
    | with_reducible apply configB_only
    | with_reducible apply changeGo_only
    | with_reducible apply fxmCopies_only
    | with_reducible apply enterZones_only
    | with_reducible apply leaveZones_only
    | with_reducible apply mapFrame_only
    | with_reducible apply frameTimers_only
    | with_reducible apply forgetErrors_only
    | exact List.Subset.trans (by decide) hl_)

theorem execFrameBoundary_only {l_ : List Comp} {s0_ : State} {tests : List (Nat × Nat)} {s : State} (hl_ : [Comp.regs, .free, .time, .teller, .power, .alm, .fifos, .protect, .vin, .cfgA, .cfgB, .cmp, .ras, .fxm, .pho, .pool, .lanes, .mac, .pkt, .dmx, .rad, .esc, .map, .cal, .vlt, .lgr] ⊆ l_)
    (h_ : Only l_ s0_ s) : OutOnly l_ s0_ (execFrameBoundary tests s) := by
  unfold execFrameBoundary
  try dsimp only
  repeat' (first
    | with_reducible exact h_
    | with_reducible exact hl_
    | with_reducible apply frameTime_only
    | with_reducible apply frameWork_only
    | with_reducible apply OutOnly.ite
    | with_reducible apply only_ite
    | with_reducible apply OutOnly.next
    | exact List.Subset.trans (by decide) hl_
    | dsimp only
    | split)

theorem execRasterFrameStart_only {l_ : List Comp} {s0_ : State} {s : State} (hl_ : [Comp.regs, .time, .teller, .alm, .ras] ⊆ l_)
    (h_ : Only l_ s0_ s) : OutOnly l_ s0_ (execRasterFrameStart s) := by
  unfold execRasterFrameStart
  try dsimp only
  repeat' (first
    | with_reducible exact h_
    | with_reducible exact hl_
    | with_reducible apply reach_only
    | with_reducible apply modAlm_only
    | with_reducible apply rasFrameStart_only
    | with_reducible apply OutOnly.ite
    | with_reducible apply only_ite
    | with_reducible apply OutOnly.next
    | exact List.Subset.trans (by decide) hl_)

theorem execRasterLineMatch_only {l_ : List Comp} {s0_ : State} {line : Nat} {s : State} (hl_ : [Comp.regs, .time, .alm, .ras] ⊆ l_)
    (h_ : Only l_ s0_ s) : OutOnly l_ s0_ (execRasterLineMatch line s) := by
  unfold execRasterLineMatch
  try dsimp only
  repeat' (first
    | with_reducible exact h_
    | with_reducible exact hl_
    | with_reducible apply reach_only
    | with_reducible apply modAlm_only
    | with_reducible apply rasLine_only
    | with_reducible apply OutOnly.ite
    | with_reducible apply only_ite
    | with_reducible apply OutOnly.next
    | exact List.Subset.trans (by decide) hl_
    | dsimp only
    | split)

end Sys2Proof.Laws
end

