-- ==== Sys2Proof/Laws/OnlyTick.lean ====
section
/-! SUPPORT. Which components of the machine the operations of Machine/Tick.lean may change. -/

namespace Sys2Proof.Laws

open Sys2Proof.Machine Sys2Proof.Safety

theorem noteLate_only {l_ : List Comp} {s0_ : State} {late : Bool} {s : State} (hl_ : [Comp.regs] ⊆ l_)
    (h_ : Only l_ s0_ s) : Only l_ s0_ (noteLate late s) := by
  unfold noteLate
  try dsimp only
  repeat' (first
    | with_reducible exact h_
    | with_reducible exact hl_
    | with_reducible apply bump_only
    | with_reducible apply setFlag_only
    | with_reducible apply only_ite)

theorem reportRuns_only {l_ : List Comp} {s0_ : State} {z : Nat} {k : Int} {at_ : Int} {s : State} (hl_ : [Comp.regs, .teller, .alm] ⊆ l_)
    (h_ : Only l_ s0_ s) : Only l_ s0_ (reportRuns z k at_ s) := by
  unfold reportRuns
  try dsimp only
  repeat' (first
    | with_reducible exact h_
    | with_reducible exact hl_
    | with_reducible assumption
    | with_reducible apply modAlm_only
    | with_reducible apply skipNotice_only
    | with_reducible refine only_foldl ?_ (fun _ _ _ => ?_)
    | with_reducible apply only_ite
    | with_reducible apply only_ite_fst
    | exact List.Subset.trans (by decide) hl_)

theorem openZone_only {l_ : List Comp} {s0_ : State} {late : Bool} {z : Nat} {k : Int} {s : State} (hl_ : [Comp.regs, .teller, .alm, .pool, .lanes, .mac, .pkt, .rad, .esc] ⊆ l_)
    (h_ : Only l_ s0_ s) : Only l_ s0_ (openZone late z k s) := by
  unfold openZone
  try dsimp only
  repeat' (first
    | with_reducible exact h_
    | with_reducible exact hl_
    | with_reducible apply modAlm_only
    | with_reducible apply traceOf_only
    | with_reducible apply nextOrder_only
    | with_reducible apply windowOpen_only
    | with_reducible apply moveRelease_only
    | with_reducible apply noteLate_only
    | with_reducible apply reportRuns_only
    | exact List.Subset.trans (by decide) hl_)

theorem holdFrame_only {l_ : List Comp} {s0_ : State} {z : Nat} {k : Int} {s : State} (hl_ : [Comp.regs, .alm, .pool] ⊆ l_)
    (h_ : Only l_ s0_ s) : Only l_ s0_ (holdFrame z k s) := by
  unfold holdFrame
  try dsimp only
  repeat' (first
    | with_reducible exact h_
    | with_reducible exact hl_
    | with_reducible apply traceOf_only
    | with_reducible apply skipFrames_only
    | with_reducible apply joinRun_only
    | with_reducible apply moveRelease_only
    | exact List.Subset.trans (by decide) hl_)

theorem refuseWindow_only {l_ : List Comp} {s0_ : State} {z : Nat} {k : Int} {last : Int} {s : State} (hl_ : [Comp.regs, .teller, .alm, .pool] ⊆ l_)
    (h_ : Only l_ s0_ s) : Only l_ s0_ (refuseWindow z k last s) := by
  unfold refuseWindow
  try dsimp only
  repeat' (first
    | with_reducible exact h_
    | with_reducible exact hl_
    | with_reducible apply traceOf_only
    | with_reducible apply skipFrames_only
    | with_reducible apply moveRelease_only
    | with_reducible apply skipNotice_only
    | exact List.Subset.trans (by decide) hl_)

theorem judgeFrame_only {l_ : List Comp} {s0_ : State} {tick : Int} {z : Nat} {k : Int} {s : State} (hl_ : [Comp.regs, .teller, .alm, .pool, .lanes, .mac, .pkt, .rad, .esc] ⊆ l_)
    (h_ : Only l_ s0_ s) : Only l_ s0_ (judgeFrame tick z k s) := by
  unfold judgeFrame
  try dsimp only
  repeat' (first
    | with_reducible exact h_
    | with_reducible exact hl_
    | with_reducible apply moveRelease_only
    | with_reducible apply openZone_only
    | with_reducible apply holdFrame_only
    | with_reducible apply refuseWindow_only
    | with_reducible apply only_ite
    | exact List.Subset.trans (by decide) hl_
    | dsimp only
    | split)

theorem armOutput_only {l_ : List Comp} {s0_ : State} {z : Nat} {k : Int} {at_ : Int} {s : State} {o : Output} (hl_ : [Comp.regs, .alm] ⊆ l_)
    (h_ : Only l_ s0_ s) : Only l_ s0_ (armOutput z k at_ s o) := by
  unfold armOutput
  try dsimp only
  repeat' (first
    | with_reducible exact h_
    | with_reducible exact hl_
    | with_reducible apply modAlm_only
    | with_reducible apply mergeNote_only
    | with_reducible apply noteLate_only
    | with_reducible apply only_ite
    | exact List.Subset.trans (by decide) hl_
    | dsimp only
    | split)

theorem launched_only {l_ : List Comp} {s0_ : State} {s : State} {zk : Nat × Int} (hl_ : [Comp.alm, .pool] ⊆ l_)
    (h_ : Only l_ s0_ s) : Only l_ s0_ (launched s zk) := by
  unfold launched
  try dsimp only
  repeat' (first
    | with_reducible exact h_
    | with_reducible exact hl_
    | with_reducible apply modAlm_only
    | with_reducible apply poolFree_only
    | with_reducible apply only_ite
    | with_reducible apply only_ite_fst
    | exact List.Subset.trans (by decide) hl_)

theorem dispatchSync_only {l_ : List Comp} {s0_ : State} {tick : Int} {z : Nat} {e : SyncEntry} {s : State} (hl_ : [Comp.regs, .alm, .pool] ⊆ l_)
    (h_ : Only l_ s0_ s) : Only l_ s0_ (dispatchSync tick z e s) := by
  unfold dispatchSync
  try dsimp only
  repeat' (first
    | with_reducible exact h_
    | with_reducible exact hl_
    | with_reducible assumption
    | with_reducible apply modAlm_only
    | with_reducible apply traceRec_only
    | with_reducible apply noteLate_only
    | with_reducible apply armOutput_only
    | with_reducible apply launched_only
    | with_reducible refine only_foldl ?_ (fun _ _ _ => ?_)
    | with_reducible apply only_ite
    | exact List.Subset.trans (by decide) hl_)

theorem holdSync_only {l_ : List Comp} {s0_ : State} {z : Nat} {k : Int} {at_ : Int} {s : State} (hl_ : [Comp.regs, .alm, .pool] ⊆ l_)
    (h_ : Only l_ s0_ s) : Only l_ s0_ (holdSync z k at_ s) := by
  unfold holdSync
  try dsimp only
  repeat' (first
    | with_reducible exact h_
    | with_reducible exact hl_
    | with_reducible apply modAlm_only
    | with_reducible apply traceRec_only
    | with_reducible apply skipFrames_only
    | with_reducible apply joinRun_only
    | with_reducible apply only_ite
    | exact List.Subset.trans (by decide) hl_
    | dsimp only
    | split)

theorem firstWork_only {l_ : List Comp} {s0_ : State} {fuel : Nat} {tick : Int} {syncs : SMap SyncEntry} {s : State} (hl_ : [Comp.regs, .teller, .alm, .pool, .lanes, .mac, .pkt, .rad, .esc] ⊆ l_)
    (h_ : Only l_ s0_ s) : Only l_ s0_ (firstWork fuel tick syncs s) := by
  induction fuel generalizing syncs s with
  | zero => exact h_
  | succ n ih =>
    unfold firstWork
    split
    · exact h_
    · exact ih (dispatchSync_only (List.Subset.trans (by decide) hl_) h_)
    · exact ih (judgeFrame_only (List.Subset.trans (by decide) hl_) h_)

theorem holdSyncs_only {l_ : List Comp} {s0_ : State} {tick : Int} {s : State} (hl_ : [Comp.regs, .alm, .pool] ⊆ l_)
    (h_ : Only l_ s0_ s) : Only l_ s0_ (holdSyncs tick s) := by
  unfold holdSyncs
  try dsimp only
  repeat' (first
    | with_reducible exact h_
    | with_reducible exact hl_
    | with_reducible assumption
    | with_reducible apply holdSync_only
    | with_reducible refine only_foldl ?_ (fun _ _ _ => ?_)
    | with_reducible apply only_ite
    | with_reducible apply only_ite_fst
    | exact List.Subset.trans (by decide) hl_)

theorem deferItem_only {l_ : List Comp} {s0_ : State} {s : State} {i : DueItem} (hl_ : [Comp.alm] ⊆ l_)
    (h_ : Only l_ s0_ s) : Only l_ s0_ (deferItem s i) := by
  unfold deferItem
  try dsimp only
  repeat' (first
    | with_reducible exact h_
    | with_reducible exact hl_
    | with_reducible apply modAlm_only
    | with_reducible apply only_ite
    | exact List.Subset.trans (by decide) hl_
    | dsimp only
    | split)

theorem fireLaunch_only {l_ : List Comp} {s0_ : State} {e : LaunchEntry} {s : State} (hl_ : [Comp.regs, .teller, .alm, .protect, .fxm, .pool, .mac, .pkt, .dmx, .rad, .esc] ⊆ l_)
    (h_ : Only l_ s0_ s) : Only l_ s0_ (fireLaunch e s) := by
  unfold fireLaunch
  try dsimp only
  repeat' (first
    | with_reducible exact h_
    | with_reducible exact hl_
    | with_reducible apply modAlm_only
    | with_reducible apply traceRec_only
    | with_reducible apply armSync_only
    | with_reducible apply dmxBreak_only
    | with_reducible apply modXcvr_only
    | with_reducible apply radioSlot_only
    | with_reducible apply noteLate_only
    | exact List.Subset.trans (by decide) hl_
    | dsimp only
    | split)

theorem fireTimer_only {l_ : List Comp} {s0_ : State} {e : TimerEntry} {s : State} (hl_ : [Comp.regs, .free, .time, .teller, .power, .alm, .fifos, .protect, .vin, .cfgA, .cfgB, .cmp, .ras, .fxm, .pho, .pool, .lanes, .mac, .pkt, .dmx, .rad, .esc, .map, .cal, .vlt, .lgr] ⊆ l_)
    (h_ : Only l_ s0_ s) : Only l_ s0_ (fireTimer e s) := by
  unfold fireTimer
  try dsimp only
  repeat' (first
    | with_reducible exact h_
    | with_reducible exact hl_
    | with_reducible apply modAlm_only
    | with_reducible apply traceOf_only
    | with_reducible apply modEsc_only
    | with_reducible apply frameWork_only
    | with_reducible apply noteLate_only
    | with_reducible apply only_ite
    | exact List.Subset.trans (by decide) hl_
    | dsimp only
    | split)

theorem cueAct_only {l_ : List Comp} {s0_ : State} {c : Cue} {s : State} (hl_ : [Comp.regs, .teller, .alm] ⊆ l_)
    (h_ : Only l_ s0_ s) : Only l_ s0_ (cueAct c s) := by
  unfold cueAct
  try dsimp only
  repeat' (first
    | with_reducible exact h_
    | with_reducible exact hl_
    | with_reducible apply insertDescriptor_only
    | with_reducible apply only_ite
    | exact List.Subset.trans (by decide) hl_)

theorem fireCue_only {l_ : List Comp} {s0_ : State} {c : Cue} {s : State} (hl_ : [Comp.regs, .teller, .alm, .rad] ⊆ l_)
    (h_ : Only l_ s0_ s) : Only l_ s0_ (fireCue c s) := by
  unfold fireCue
  try dsimp only
  repeat' (first
    | with_reducible exact h_
    | with_reducible exact hl_
    | with_reducible apply bump_only
    | with_reducible apply setFlag_only
    | with_reducible apply notify_only
    | with_reducible apply modAlm_only
    | with_reducible apply traceOf_only
    | with_reducible apply modRad_only
    | with_reducible apply noteLate_only
    | with_reducible apply cueAct_only
    | with_reducible apply only_ite
    | exact List.Subset.trans (by decide) hl_)

theorem fireItem_only {l_ : List Comp} {s0_ : State} {s : State} {i : DueItem} (hl_ : [Comp.regs, .free, .time, .teller, .power, .alm, .fifos, .protect, .vin, .cfgA, .cfgB, .cmp, .ras, .fxm, .pho, .pool, .lanes, .mac, .pkt, .dmx, .rad, .esc, .map, .cal, .vlt, .lgr] ⊆ l_)
    (h_ : Only l_ s0_ s) : Only l_ s0_ (fireItem s i) := by
  unfold fireItem
  try dsimp only
  repeat' (first
    | with_reducible exact h_
    | with_reducible exact hl_
    | with_reducible apply fireLaunch_only
    | with_reducible apply fireTimer_only
    | with_reducible apply fireCue_only
    | with_reducible apply only_ite
    | exact List.Subset.trans (by decide) hl_
    | dsimp only
    | split)

theorem tickFirst_only {l_ : List Comp} {s0_ : State} {tick : Int} {s : State} (hl_ : [Comp.regs, .teller, .alm, .pool, .lanes, .mac, .pkt, .rad, .esc] ⊆ l_)
    (h_ : Only l_ s0_ s) : Only l_ s0_ (tickFirst tick s) := by
  unfold tickFirst
  try dsimp only
  repeat' (first
    | with_reducible exact h_
    | with_reducible exact hl_
    | with_reducible apply modAlm_only
    | with_reducible apply firstWork_only
    | with_reducible apply holdSyncs_only
    | exact List.Subset.trans (by decide) hl_)

theorem tickWork_only {l_ : List Comp} {s0_ : State} {tick : Int} {s : State} (hl_ : [Comp.regs, .free, .time, .teller, .power, .alm, .fifos, .protect, .vin, .cfgA, .cfgB, .cmp, .ras, .fxm, .pho, .pool, .lanes, .mac, .pkt, .dmx, .rad, .esc, .map, .cal, .vlt, .lgr] ⊆ l_)
    (h_ : Only l_ s0_ s) : Only l_ s0_ (tickWork tick s) := by
  unfold tickWork
  try dsimp only
  repeat' (first
    | with_reducible exact h_
    | with_reducible exact hl_
    | with_reducible assumption
    | with_reducible apply deferItem_only
    | with_reducible apply fireItem_only
    | with_reducible apply tickFirst_only
    | with_reducible refine only_foldl ?_ (fun _ _ _ => ?_)
    | exact List.Subset.trans (by decide) hl_)

theorem execAlmanacTick_only {l_ : List Comp} {s0_ : State} {t : Nat} {tick : Int} {s : State} (hl_ : [Comp.regs, .free, .time, .teller, .power, .alm, .fifos, .protect, .vin, .cfgA, .cfgB, .cmp, .ras, .fxm, .pho, .pool, .lanes, .mac, .pkt, .dmx, .rad, .esc, .map, .cal, .vlt, .lgr] ⊆ l_)
    (h_ : Only l_ s0_ s) : OutOnly l_ s0_ (execAlmanacTick t tick s) := by
  unfold execAlmanacTick
  try dsimp only
  repeat' (first
    | with_reducible exact h_
    | with_reducible exact hl_
    | with_reducible apply advance_only
    | with_reducible apply reach_only
    | with_reducible apply tickWork_only
    | with_reducible apply OutOnly.ite
    | with_reducible apply only_ite
    | with_reducible apply OutOnly.next
    | exact List.Subset.trans (by decide) hl_)

theorem execCueCancel_only {l_ : List Comp} {s0_ : State} {c : Call} {cueId : Nat} {s : State} (hl_ : [Comp.regs, .time, .teller, .alm, .rad] ⊆ l_)
    (h_ : Only l_ s0_ s) : OutOnly l_ s0_ (execCueCancel c cueId s) := by
  unfold execCueCancel
  try dsimp only
  repeat' (first
    | with_reducible exact h_
    | with_reducible exact hl_
    | with_reducible assumption
    | with_reducible refine command_only ?_ ?_ (fun _ _ => ?_)
    | with_reducible apply refuse_only
    | with_reducible apply accept_only
    | with_reducible apply modAlm_only
    | with_reducible apply traceOf_only
    | with_reducible apply modRad_only
    | with_reducible apply OutOnly.ite
    | with_reducible apply only_ite
    | with_reducible apply only_ite_fst
    | with_reducible apply OutOnly.next
    | exact List.Subset.trans (by decide) hl_
    | dsimp only
    | split)

theorem launchOutput_only {l_ : List Comp} {s0_ : State} {s : State} {a : Armed} (hl_ : [Comp.regs, .free, .teller, .alm, .protect, .pool, .lanes, .dmx] ⊆ l_)
    (h_ : Only l_ s0_ s) : Only l_ s0_ (launchOutput s a) := by
  unfold launchOutput
  try dsimp only
  repeat' (first
    | with_reducible exact h_
    | with_reducible exact hl_
    | with_reducible assumption
    | with_reducible apply laneSync_only
    | with_reducible apply dmxBreak_only
    | with_reducible apply launched_only
    | with_reducible refine only_foldl ?_ (fun _ _ _ => ?_)
    | exact List.Subset.trans (by decide) hl_
    | dsimp only
    | split)

theorem execOutputLaunch_only {l_ : List Comp} {s0_ : State} {t : Nat} {s : State} (hl_ : [Comp.regs, .free, .time, .teller, .alm, .protect, .pool, .lanes, .dmx] ⊆ l_)
    (h_ : Only l_ s0_ s) : OutOnly l_ s0_ (execOutputLaunch t s) := by
  unfold execOutputLaunch
  try dsimp only
  repeat' (first
    | with_reducible exact h_
    | with_reducible exact hl_
    | with_reducible assumption
    | with_reducible apply advance_only
    | with_reducible apply modAlm_only
    | with_reducible apply launchOutput_only
    | with_reducible refine only_foldl ?_ (fun _ _ _ => ?_)
    | with_reducible apply OutOnly.ite
    | with_reducible apply only_ite
    | with_reducible apply OutOnly.next
    | exact List.Subset.trans (by decide) hl_)

theorem discardLate_only {l_ : List Comp} {s0_ : State} {s : State} (hl_ : [Comp.regs, .teller, .alm, .pool, .lanes, .esc] ⊆ l_)
    (h_ : Only l_ s0_ s) : Only l_ s0_ (discardLate s) := by
  unfold discardLate
  try dsimp only
  repeat' (first
    | with_reducible exact h_
    | with_reducible exact hl_
    | with_reducible assumption
    | with_reducible apply discardPast_only
    | with_reducible apply lateWork_only
    | with_reducible refine only_foldl ?_ (fun _ _ _ => ?_)
    | with_reducible apply only_ite
    | exact List.Subset.trans (by decide) hl_)

theorem execDeadlineDiscard_only {l_ : List Comp} {s0_ : State} {t : Nat} {s : State} (hl_ : [Comp.regs, .time, .teller, .alm, .pool, .lanes, .mac, .esc] ⊆ l_)
    (h_ : Only l_ s0_ s) : OutOnly l_ s0_ (execDeadlineDiscard t s) := by
  unfold execDeadlineDiscard
  try dsimp only
  repeat' (first
    | with_reducible exact h_
    | with_reducible exact hl_
    | with_reducible apply advance_only
    | with_reducible apply readyAll_only
    | with_reducible apply refillAll_only
    | with_reducible apply discardLate_only
    | with_reducible apply OutOnly.ite
    | with_reducible apply OutOnly.next
    | exact List.Subset.trans (by decide) hl_
    | dsimp only
    | split)

theorem execDescriptorRetry_only {l_ : List Comp} {s0_ : State} {t : Nat} {s : State} (hl_ : [Comp.regs, .time, .teller, .alm, .pool, .lanes, .mac, .esc] ⊆ l_)
    (h_ : Only l_ s0_ s) : OutOnly l_ s0_ (execDescriptorRetry t s) := by
  unfold execDescriptorRetry
  try dsimp only
  repeat' (first
    | with_reducible exact h_
    | with_reducible exact hl_
    | with_reducible apply advance_only
    | with_reducible apply modAlm_only
    | with_reducible apply placeDescriptor_only
    | with_reducible apply refuseDescriptor_only
    | with_reducible apply discardDescriptor_only
    | with_reducible apply refillAll_only
    | with_reducible apply lateWork_only
    | with_reducible apply OutOnly.ite
    | with_reducible apply only_ite
    | with_reducible apply OutOnly.next
    | exact List.Subset.trans (by decide) hl_
    | dsimp only
    | split)

theorem doWork_only {l_ : List Comp} {s0_ : State} {d : Descriptor} {s : State} (hl_ : [Comp.regs, .free, .teller, .power, .alm, .fifos, .protect, .vin, .record, .cmp, .ras, .fxm, .pho, .pool, .lanes, .lamps, .mac, .pkt, .dmx, .rad, .esc, .map, .cal, .vlt, .lgr] ⊆ l_)
    (h_ : Only l_ s0_ s) : Only l_ s0_ (doWork d s) := by
  unfold doWork
  try dsimp only
  repeat' (first
    | with_reducible exact h_
    | with_reducible exact hl_
    | with_reducible apply laneTake_only
    | with_reducible apply ctrlTake_only
    | with_reducible apply flowWork_only
    | with_reducible apply dmxWork_only
    | with_reducible apply rdmGrant_only
    | with_reducible apply modRad_only
    | with_reducible apply escrowSend_only
    | with_reducible apply applyStage_only
    | exact List.Subset.trans (by decide) hl_
    | dsimp only
    | split)

theorem dispatchWork_only {l_ : List Comp} {s0_ : State} {d : Descriptor} {s : State} (hl_ : [Comp.regs, .free, .teller, .power, .alm, .fifos, .protect, .vin, .record, .cmp, .ras, .fxm, .pho, .pool, .lanes, .lamps, .mac, .pkt, .dmx, .rad, .esc, .map, .cal, .vlt, .lgr] ⊆ l_)
    (h_ : Only l_ s0_ s) : Only l_ s0_ (dispatchWork d s) := by
  unfold dispatchWork
  try dsimp only
  repeat' (first
    | with_reducible exact h_
    | with_reducible exact hl_
    | with_reducible apply modAlm_only
    | with_reducible apply traceRec_only
    | with_reducible apply workEnded_only
    | with_reducible apply readyAll_only
    | with_reducible apply doWork_only
    | exact List.Subset.trans (by decide) hl_)

theorem execDescriptorDispatch_only {l_ : List Comp} {s0_ : State} {t : Nat} {accepting : List Nat} {s : State} (hl_ : [Comp.regs, .free, .time, .teller, .power, .alm, .fifos, .protect, .vin, .record, .cmp, .ras, .fxm, .pho, .pool, .lanes, .lamps, .mac, .pkt, .dmx, .rad, .esc, .map, .cal, .vlt, .lgr] ⊆ l_)
    (h_ : Only l_ s0_ s) : OutOnly l_ s0_ (execDescriptorDispatch t accepting s) := by
  unfold execDescriptorDispatch
  try dsimp only
  repeat' (first
    | with_reducible exact h_
    | with_reducible exact hl_
    | with_reducible apply advance_only
    | with_reducible apply discardLate_only
    | with_reducible apply dispatchWork_only
    | with_reducible apply OutOnly.ite
    | with_reducible apply only_ite
    | with_reducible apply OutOnly.next
    | exact List.Subset.trans (by decide) hl_
    | dsimp only
    | split)

end Sys2Proof.Laws
end

