-- ==== Sys2Proof/Laws/OnlyBus.lean ====
section
/-! SUPPORT. Which components of the machine the operations of Machine/Bus.lean may change. -/

namespace Sys2Proof.Laws

open Sys2Proof.Machine Sys2Proof.Safety

theorem busError_only {l_ : List Comp} {s0_ : State} {cause : Nat} {write : Bool} {a : Nat} {s : State} (hl_ : [Comp.regs] ⊆ l_)
    (h_ : Only l_ s0_ s) : Only l_ s0_ (busError cause write a s) := by
  unfold busError
  try dsimp only
  repeat' (first
    | with_reducible exact h_
    | with_reducible exact hl_
    | with_reducible apply setReg_only
    | with_reducible apply bumpField_only
    | with_reducible apply only_ite)

theorem chkCtrlWrite_only {l_ : List Comp} {s0_ : State} {m : Master} {ch : Nat} {w : Word} {v : Word} {s : State} (hl_ : [Comp.regs, .teller, .protect] ⊆ l_)
    (h_ : Only l_ s0_ s) : Only l_ s0_ (chkCtrlWrite m ch w v s) := by
  unfold chkCtrlWrite
  try dsimp only
  repeat' (first
    | with_reducible exact h_
    | with_reducible exact hl_
    | with_reducible assumption
    | with_reducible apply setReg_only
    | with_reducible refine byOwner_only ?_ ?_ (fun _ _ => ?_)
    | with_reducible apply chkStart_only
    | with_reducible apply chkResult_only
    | with_reducible apply only_ite
    | exact List.Subset.trans (by decide) hl_)

theorem macWrite_only {l_ : List Comp} {s0_ : State} {p : Nat} {a : Nat} {w : Word} {s : State} (hl_ : [Comp.regs, .teller, .pool, .mac] ⊆ l_)
    (h_ : Only l_ s0_ s) : Only l_ s0_ (macWrite p a w s) := by
  unfold macWrite
  try dsimp only
  repeat' (first
    | with_reducible exact h_
    | with_reducible exact hl_
    | with_reducible apply setReg_only
    | with_reducible apply portRestart_only
    | with_reducible apply only_ite
    | exact List.Subset.trans (by decide) hl_)

theorem macPairWrite_only {l_ : List Comp} {s0_ : State} {p : Nat} {v : Word} {s : State} (hl_ : [Comp.mac] ⊆ l_)
    (h_ : Only l_ s0_ s) : Only l_ s0_ (macPairWrite p v s) := by
  unfold macPairWrite
  try dsimp only
  repeat' (first
    | with_reducible exact h_
    | with_reducible exact hl_
    | with_reducible apply modMac_only)

theorem radCfgWrite_only {l_ : List Comp} {s0_ : State} {x : Nat} {w : Word} {s : State} (hl_ : [Comp.regs, .rad] ⊆ l_)
    (h_ : Only l_ s0_ s) : Only l_ s0_ (radCfgWrite x w s) := by
  unfold radCfgWrite
  try dsimp only
  repeat' (first
    | with_reducible exact h_
    | with_reducible exact hl_
    | with_reducible apply setReg_only
    | with_reducible apply modXcvr_only
    | with_reducible apply only_ite
    | exact List.Subset.trans (by decide) hl_)

theorem zoneTempWrite_only {l_ : List Comp} {s0_ : State} {z : Nat} {w : Word} {s : State} (hl_ : [Comp.regs, .pho] ⊆ l_)
    (h_ : Only l_ s0_ s) : Only l_ s0_ (zoneTempWrite z w s) := by
  unfold zoneTempWrite
  try dsimp only
  repeat' (first
    | with_reducible exact h_
    | with_reducible exact hl_
    | with_reducible apply zoneTemp_only)

theorem traceWrite_only {l_ : List Comp} {s0_ : State} {w : Word} {v : Word} {s : State} (hl_ : [Comp.regs, .alm] ⊆ l_)
    (h_ : Only l_ s0_ s) : Only l_ s0_ (traceWrite w v s) := by
  unfold traceWrite
  try dsimp only
  repeat' (first
    | with_reducible exact h_
    | with_reducible exact hl_
    | with_reducible apply setReg_only
    | with_reducible apply modAlm_only
    | with_reducible apply only_ite
    | exact List.Subset.trans (by decide) hl_)

theorem writeReg_only {l_ : List Comp} {s0_ : State} {m : Master} {d : RegDesc} {a : Nat} {v : Word} {s : State} (hl_ : [Comp.regs, .free, .time, .teller, .power, .alm, .fifos, .protect, .vin, .cmp, .ras, .fxm, .pho, .pool, .lanes, .mac, .pkt, .dmx, .rad, .esc, .map, .cal, .vlt, .lgr] ⊆ l_)
    (h_ : Only l_ s0_ s) : Only l_ s0_ (writeReg m d a v s) := by
  unfold writeReg
  try dsimp only
  repeat' (first
    | with_reducible exact h_
    | with_reducible exact hl_
    | with_reducible assumption
    | with_reducible apply setReg_only
    | with_reducible apply withdrawStep_only
    | with_reducible apply freeTrim_only
    | with_reducible apply tbCfgApply_only
    | with_reducible apply selectTb_only
    | with_reducible apply cmpGo_only
    | with_reducible apply rasGo_only
    | with_reducible apply modAlm_only
    | with_reducible apply fxmGo_only
    | with_reducible refine byOwner_only ?_ ?_ (fun _ _ => ?_)
    | with_reducible apply chkFeed_only
    | with_reducible apply chkState_only
    | with_reducible apply ringReturn_only
    | with_reducible apply skewFrom_only
    | with_reducible apply calGiven_only
    | with_reducible apply kick_only
    | with_reducible apply thermalJudge_only
    | with_reducible apply chkCtrlWrite_only
    | with_reducible apply macWrite_only
    | with_reducible apply macPairWrite_only
    | with_reducible apply radCfgWrite_only
    | with_reducible apply zoneTempWrite_only
    | with_reducible apply traceWrite_only
    | with_reducible apply only_ite
    | exact List.Subset.trans (by decide) hl_)

theorem busWrite_only {l_ : List Comp} {s0_ : State} {m : Master} {a : Nat} {v : Word} {s : State} (hl_ : [Comp.regs, .free, .time, .teller, .power, .alm, .fifos, .protect, .vin, .cmp, .ras, .fxm, .pho, .pool, .lanes, .mac, .pkt, .dmx, .rad, .esc, .map, .cal, .vlt, .lgr] ⊆ l_)
    (h_ : Only l_ s0_ s) : Only l_ s0_ (busWrite m a v s) := by
  unfold busWrite
  try dsimp only
  repeat' (first
    | with_reducible exact h_
    | with_reducible exact hl_
    | with_reducible apply busError_only
    | with_reducible apply writeReg_only
    | with_reducible apply only_ite
    | exact List.Subset.trans (by decide) hl_
    | dsimp only
    | split)

theorem noteRead_only {l_ : List Comp} {s0_ : State} {a : Nat} {w : Word} {s : State} (hl_ : [Comp.regs] ⊆ l_)
    (h_ : Only l_ s0_ s) : Only l_ s0_ (noteRead a w s) := by
  unfold noteRead
  try dsimp only
  repeat' (first
    | with_reducible exact h_
    | with_reducible exact hl_
    | with_reducible apply only_ite
    | fail_if_no_progress ((with_reducible refine only_mk (k := [.regs]) ?_ ?_ ?lit); case lit => exact fun c hc => by cases c <;> first | with_reducible rfl | exact absurd (by decide) hc))

theorem latchWords_only {l_ : List Comp} {s0_ : State} {a : Nat} {s : State} (hl_ : [Comp.regs] ⊆ l_)
    (h_ : Only l_ s0_ s) : Only l_ s0_ (latchWords a s) := by
  unfold latchWords
  try dsimp only
  repeat' (first
    | with_reducible exact h_
    | with_reducible exact hl_
    | with_reducible assumption
    | with_reducible refine only_foldl ?_ (fun _ _ _ => ?_)
    | with_reducible apply only_ite
    | fail_if_no_progress ((with_reducible refine only_mk (k := [.regs]) ?_ ?_ ?lit); case lit => exact fun c hc => by cases c <;> first | with_reducible rfl | exact absurd (by decide) hc))

theorem clearRead_only {l_ : List Comp} {s0_ : State} {d : RegDesc} {a : Nat} {counted : Word} {s : State} (hl_ : [Comp.regs] ⊆ l_)
    (h_ : Only l_ s0_ s) : Only l_ s0_ (clearRead d a counted s) := by
  unfold clearRead
  try dsimp only
  repeat' (first
    | with_reducible exact h_
    | with_reducible exact hl_
    | with_reducible apply setReg_only
    | with_reducible apply only_ite)

theorem fabricRead_only {l_ : List Comp} {s0_ : State} {a : Nat} {counted : Word} {s : State} (hl_ : [Comp.regs, .teller, .fifos, .protect, .mac] ⊆ l_)
    (h_ : Only l_ s0_ s) : Only l_ s0_ (fabricRead a counted s) := by
  unfold fabricRead
  try dsimp only
  repeat' (first
    | with_reducible exact h_
    | with_reducible exact hl_
    | with_reducible apply fifoRead_only
    | with_reducible apply modPort_only
    | with_reducible apply tsqSettle_only
    | with_reducible apply pauseSettle_only
    | with_reducible apply tallyRead_only
    | with_reducible apply busError_only
    | with_reducible apply noteRead_only
    | with_reducible apply latchWords_only
    | with_reducible apply clearRead_only
    | with_reducible apply only_ite
    | exact List.Subset.trans (by decide) hl_
    | dsimp only
    | split)

theorem execRegisterWrite_only {l_ : List Comp} {s0_ : State} {t : Nat} {m : Master} {addr : Nat} {v : Word} {s : State} (hl_ : [Comp.regs, .free, .time, .teller, .power, .alm, .fifos, .protect, .vin, .cmp, .ras, .fxm, .pho, .pool, .lanes, .mac, .pkt, .dmx, .rad, .esc, .map, .cal, .vlt, .lgr] ⊆ l_)
    (h_ : Only l_ s0_ s) : OutOnly l_ s0_ (execRegisterWrite t m addr v s) := by
  unfold execRegisterWrite
  try dsimp only
  repeat' (first
    | with_reducible exact h_
    | with_reducible exact hl_
    | with_reducible apply advance_only
    | with_reducible apply busWrite_only
    | with_reducible apply OutOnly.ite
    | with_reducible apply only_ite
    | with_reducible apply OutOnly.next
    | exact List.Subset.trans (by decide) hl_)

theorem execRcCounterRead_only {l_ : List Comp} {s0_ : State} {t : Nat} {addr : Nat} {counted : Word} {s : State} (hl_ : [Comp.regs, .time, .teller, .fifos, .protect, .mac] ⊆ l_)
    (h_ : Only l_ s0_ s) : OutOnly l_ s0_ (execRcCounterRead t addr counted s) := by
  unfold execRcCounterRead
  try dsimp only
  repeat' (first
    | with_reducible exact h_
    | with_reducible exact hl_
    | with_reducible apply advance_only
    | with_reducible apply fabricRead_only
    | with_reducible apply OutOnly.ite
    | with_reducible apply only_ite
    | with_reducible apply OutOnly.next
    | exact List.Subset.trans (by decide) hl_)

theorem execLatchedLoRead_only {l_ : List Comp} {s0_ : State} {t : Nat} {addr : Nat} {s : State} (hl_ : [Comp.regs, .time, .teller, .fifos, .protect, .mac] ⊆ l_)
    (h_ : Only l_ s0_ s) : OutOnly l_ s0_ (execLatchedLoRead t addr s) := by
  unfold execLatchedLoRead
  try dsimp only
  repeat' (first
    | with_reducible exact h_
    | with_reducible exact hl_
    | with_reducible apply advance_only
    | with_reducible apply fabricRead_only
    | with_reducible apply OutOnly.ite
    | with_reducible apply only_ite
    | with_reducible apply OutOnly.next
    | exact List.Subset.trans (by decide) hl_)

theorem hardwareSets_only {l_ : List Comp} {s0_ : State} {a : Nat} {set : Word} {s : State} (hl_ : [Comp.regs] ⊆ l_)
    (h_ : Only l_ s0_ s) : Only l_ s0_ (hardwareSets a set s) := by
  unfold hardwareSets
  try dsimp only
  repeat' (first
    | with_reducible exact h_
    | with_reducible exact hl_
    | with_reducible apply setReg_only
    | with_reducible apply bumpField_only
    | with_reducible apply only_ite
    | exact List.Subset.trans (by decide) hl_
    | dsimp only
    | split)

theorem execW1cWrite_only {l_ : List Comp} {s0_ : State} {t : Nat} {m : Master} {addr : Nat} {v : Word} {set : Word} {s : State} (hl_ : [Comp.regs, .free, .time, .teller, .power, .alm, .fifos, .protect, .vin, .cmp, .ras, .fxm, .pho, .pool, .lanes, .mac, .pkt, .dmx, .rad, .esc, .map, .cal, .vlt, .lgr] ⊆ l_)
    (h_ : Only l_ s0_ s) : OutOnly l_ s0_ (execW1cWrite t m addr v set s) := by
  unfold execW1cWrite
  try dsimp only
  repeat' (first
    | with_reducible exact h_
    | with_reducible exact hl_
    | with_reducible apply advance_only
    | with_reducible apply busWrite_only
    | with_reducible apply hardwareSets_only
    | with_reducible apply OutOnly.ite
    | with_reducible apply only_ite
    | with_reducible apply OutOnly.next
    | exact List.Subset.trans (by decide) hl_)

theorem execTbCfgWrite_only {l_ : List Comp} {s0_ : State} {t : Nat} {m : Master} {tb : Fin 4} {v : Word} {s : State} (hl_ : [Comp.regs, .free, .time, .teller, .power, .alm, .fifos, .protect, .vin, .cmp, .ras, .fxm, .pho, .pool, .lanes, .mac, .pkt, .dmx, .rad, .esc, .map, .cal, .vlt, .lgr] ⊆ l_)
    (h_ : Only l_ s0_ s) : OutOnly l_ s0_ (execTbCfgWrite t m tb v s) := by
  unfold execTbCfgWrite
  try dsimp only
  repeat' (first
    | with_reducible exact h_
    | with_reducible exact hl_
    | with_reducible apply advance_only
    | with_reducible apply busWrite_only
    | with_reducible apply OutOnly.ite
    | with_reducible apply only_ite
    | with_reducible apply OutOnly.next
    | exact List.Subset.trans (by decide) hl_)

theorem execShowTbWrite_only {l_ : List Comp} {s0_ : State} {t : Nat} {m : Master} {v : Word} {s : State} (hl_ : [Comp.regs, .free, .time, .teller, .power, .alm, .fifos, .protect, .vin, .cmp, .ras, .fxm, .pho, .pool, .lanes, .mac, .pkt, .dmx, .rad, .esc, .map, .cal, .vlt, .lgr] ⊆ l_)
    (h_ : Only l_ s0_ s) : OutOnly l_ s0_ (execShowTbWrite t m v s) := by
  unfold execShowTbWrite
  try dsimp only
  repeat' (first
    | with_reducible exact h_
    | with_reducible exact hl_
    | with_reducible apply advance_only
    | with_reducible apply busWrite_only
    | with_reducible apply OutOnly.ite
    | with_reducible apply only_ite
    | with_reducible apply OutOnly.next
    | exact List.Subset.trans (by decide) hl_)

theorem execTraceUnfreeze_only {l_ : List Comp} {s0_ : State} {t : Nat} {m : Master} {v : Word} {s : State} (hl_ : [Comp.regs, .free, .time, .teller, .power, .alm, .fifos, .protect, .vin, .cmp, .ras, .fxm, .pho, .pool, .lanes, .mac, .pkt, .dmx, .rad, .esc, .map, .cal, .vlt, .lgr] ⊆ l_)
    (h_ : Only l_ s0_ s) : OutOnly l_ s0_ (execTraceUnfreeze t m v s) := by
  unfold execTraceUnfreeze
  try dsimp only
  repeat' (first
    | with_reducible exact h_
    | with_reducible exact hl_
    | with_reducible apply advance_only
    | with_reducible apply busWrite_only
    | with_reducible apply OutOnly.ite
    | with_reducible apply only_ite
    | with_reducible apply OutOnly.next
    | exact List.Subset.trans (by decide) hl_)

theorem execCmpCommitGo_only {l_ : List Comp} {s0_ : State} {t : Nat} {m : Master} {v : Word} {s : State} (hl_ : [Comp.regs, .free, .time, .teller, .power, .alm, .fifos, .protect, .vin, .cmp, .ras, .fxm, .pho, .pool, .lanes, .mac, .pkt, .dmx, .rad, .esc, .map, .cal, .vlt, .lgr] ⊆ l_)
    (h_ : Only l_ s0_ s) : OutOnly l_ s0_ (execCmpCommitGo t m v s) := by
  unfold execCmpCommitGo
  try dsimp only
  repeat' (first
    | with_reducible exact h_
    | with_reducible exact hl_
    | with_reducible apply advance_only
    | with_reducible apply busWrite_only
    | with_reducible apply OutOnly.ite
    | with_reducible apply only_ite
    | with_reducible apply OutOnly.next
    | exact List.Subset.trans (by decide) hl_)

theorem execRasCommitGo_only {l_ : List Comp} {s0_ : State} {t : Nat} {m : Master} {v : Word} {s : State} (hl_ : [Comp.regs, .free, .time, .teller, .power, .alm, .fifos, .protect, .vin, .cmp, .ras, .fxm, .pho, .pool, .lanes, .mac, .pkt, .dmx, .rad, .esc, .map, .cal, .vlt, .lgr] ⊆ l_)
    (h_ : Only l_ s0_ s) : OutOnly l_ s0_ (execRasCommitGo t m v s) := by
  unfold execRasCommitGo
  try dsimp only
  repeat' (first
    | with_reducible exact h_
    | with_reducible exact hl_
    | with_reducible apply advance_only
    | with_reducible apply busWrite_only
    | with_reducible apply OutOnly.ite
    | with_reducible apply only_ite
    | with_reducible apply OutOnly.next
    | exact List.Subset.trans (by decide) hl_)

theorem execFxmCommitGo_only {l_ : List Comp} {s0_ : State} {t : Nat} {m : Master} {v : Word} {s : State} (hl_ : [Comp.regs, .free, .time, .teller, .power, .alm, .fifos, .protect, .vin, .cmp, .ras, .fxm, .pho, .pool, .lanes, .mac, .pkt, .dmx, .rad, .esc, .map, .cal, .vlt, .lgr] ⊆ l_)
    (h_ : Only l_ s0_ s) : OutOnly l_ s0_ (execFxmCommitGo t m v s) := by
  unfold execFxmCommitGo
  try dsimp only
  repeat' (first
    | with_reducible exact h_
    | with_reducible exact hl_
    | with_reducible apply advance_only
    | with_reducible apply busWrite_only
    | with_reducible apply OutOnly.ite
    | with_reducible apply only_ite
    | with_reducible apply OutOnly.next
    | exact List.Subset.trans (by decide) hl_)

theorem diagFail_only {l_ : List Comp} {s0_ : State} {offset : Nat} {s : State} {i : Nat} (hl_ : [Comp.regs] ⊆ l_)
    (h_ : Only l_ s0_ s) : Only l_ s0_ (diagFail offset s i) := by
  unfold diagFail
  try dsimp only
  repeat' (first
    | with_reducible exact h_
    | with_reducible exact hl_
    | with_reducible apply busError_only
    | with_reducible apply only_ite
    | exact List.Subset.trans (by decide) hl_
    | dsimp only
    | split)

theorem execDiagRead_only {l_ : List Comp} {s0_ : State} {c : Call} {offset : Nat} {count : Nat} {s : State} (hl_ : [Comp.regs, .time, .teller] ⊆ l_)
    (h_ : Only l_ s0_ s) : OutOnly l_ s0_ (execDiagRead c offset count s) := by
  unfold execDiagRead
  try dsimp only
  repeat' (first
    | with_reducible exact h_
    | with_reducible exact hl_
    | with_reducible assumption
    | with_reducible refine command_only ?_ ?_ (fun _ _ => ?_)
    | with_reducible apply refuse_only
    | with_reducible apply answer_only
    | with_reducible apply diagFail_only
    | with_reducible refine only_foldl ?_ (fun _ _ _ => ?_)
    | with_reducible apply OutOnly.ite
    | with_reducible apply only_ite
    | with_reducible apply OutOnly.next
    | exact List.Subset.trans (by decide) hl_
    | dsimp only
    | split)

theorem diagWords_only {l_ : List Comp} {s0_ : State} {a : Nat} {words : List Word} {s : State} (hl_ : [Comp.regs, .free, .time, .teller, .power, .alm, .fifos, .protect, .vin, .cmp, .ras, .fxm, .pho, .pool, .lanes, .lamps, .mac, .pkt, .dmx, .rad, .esc, .map, .cal, .vlt, .lgr] ⊆ l_) (h_ : Only l_ s0_ s) :
    Only l_ s0_ (diagWords a words s) := by
  induction words generalizing a s with
  | nil => exact h_
  | cons w r ih => exact ih (busWrite_only (List.Subset.trans (by decide) hl_) h_)

theorem diagRefused_only {l_ : List Comp} {s0_ : State} {offset : Nat} {s : State} (hl_ : [Comp.regs] ⊆ l_)
    (h_ : Only l_ s0_ s) : Only l_ s0_ (diagRefused offset s) := by
  unfold diagRefused
  try dsimp only
  repeat' (first
    | with_reducible exact h_
    | with_reducible exact hl_
    | with_reducible apply busError_only)

theorem execDiagWrite_only {l_ : List Comp} {s0_ : State} {c : Call} {offset : Nat} {words : List Word} {s : State} (hl_ : [Comp.regs, .free, .time, .teller, .power, .alm, .fifos, .protect, .vin, .cmp, .ras, .fxm, .pho, .pool, .lanes, .lamps, .mac, .pkt, .dmx, .rad, .esc, .map, .cal, .vlt, .lgr] ⊆ l_)
    (h_ : Only l_ s0_ s) : OutOnly l_ s0_ (execDiagWrite c offset words s) := by
  unfold execDiagWrite
  try dsimp only
  repeat' (first
    | with_reducible exact h_
    | with_reducible exact hl_
    | with_reducible assumption
    | with_reducible apply advance_only
    | with_reducible refine command_only ?_ ?_ (fun _ _ => ?_)
    | with_reducible apply refuse_only
    | with_reducible apply accept_only
    | with_reducible apply unauth_only
    | with_reducible apply diagWords_only
    | with_reducible apply diagRefused_only
    | with_reducible apply OutOnly.ite
    | with_reducible apply only_ite
    | with_reducible apply OutOnly.next
    | exact List.Subset.trans (by decide) hl_
    | dsimp only
    | split)

end Sys2Proof.Laws
end

