-- ==== Sys2Proof/Laws/OnlyStep.lean ====
section
/-! SUPPORT. Which components of the machine the operations of Machine/Step.lean may change. -/

namespace Sys2Proof.Laws

open Sys2Proof.Machine Sys2Proof.Safety

theorem State.withFetchWord_only {l_ : List Comp} {s0_ : State} {s : State} {_nbits : Nat} {_w : Nat} (hl_ : [] ⊆ l_)
    (h_ : Only l_ s0_ s) : Only l_ s0_ (State.withFetchWord s _nbits _w) := by
  unfold State.withFetchWord
  try dsimp only
  repeat' (first
    | with_reducible exact h_)

end Sys2Proof.Laws
end

