-- ==== Sys2Proof/Laws/Registers.lean ====
section
/-! SUPPORT. What the shared operations leave in a register: counters, flags, fields, notices. -/

namespace Sys2Proof.Laws

open Sys2Proof.Machine Sys2Proof.Safety

/-! The canonical form. -/

@[simp] theorem setReg_wf' (a : Nat) (w : Word) {s : State} (h : RegsWf s.regs) : RegsWf (setReg a w s).regs := setReg_wf h a w
@[simp] theorem bumpBy_wf (a n : Nat) {s : State} (h : RegsWf s.regs) : RegsWf (bumpBy a n s).regs := setReg_wf h _ _
@[simp] theorem bump_wf (a : Nat) {s : State} (h : RegsWf s.regs) : RegsWf (bump a s).regs := setReg_wf h _ _
@[simp] theorem setFlag_wf (a i : Nat) {s : State} (h : RegsWf s.regs) : RegsWf (setFlag a i s).regs := setReg_wf h _ _
@[simp] theorem setField_wf (a hi lo v : Nat) {s : State} (h : RegsWf s.regs) : RegsWf (setField a hi lo v s).regs := setReg_wf h _ _
@[simp] theorem bumpField_wf (a hi lo n : Nat) {s : State} (h : RegsWf s.regs) : RegsWf (bumpField a hi lo n s).regs := setReg_wf h _ _
@[simp] theorem setReg64_wf (a : Nat) (v : Int) {s : State} (h : RegsWf s.regs) : RegsWf (setReg64 a v s).regs := setReg_wf (setReg_wf h _ _) _ _
@[simp] theorem notify_wf (code len : Nat) (fields : List Int) {s : State} (h : RegsWf s.regs) : RegsWf (notify code len fields s).regs :=
  regsWf_of (notify_keeps _ _ _ _ (Keeps.refl s)) h

/-! Words. -/

theorem reg_of {s t : State} (h : s.regs = t.regs) (a : Nat) : reg s a = reg t a := by
  unfold reg
  rw [h]

theorem regN_of {s t : State} (h : s.regs = t.regs) (a : Nat) : regN s a = regN t a := by
  unfold regN
  rw [reg_of h]

theorem bumpBy_reg {s : State} (h : RegsWf s.regs) (a n b : Nat) :
    reg (bumpBy a n s) b = if a = b then BitVec.ofNat 32 (min 0xFFFFFFFF (regN s a + n)) else reg s b := reg_setReg h _ _ _

theorem bump_reg' {s : State} (h : RegsWf s.regs) (a b : Nat) :
    reg (bump a s) b = if a = b then BitVec.ofNat 32 (min 0xFFFFFFFF (regN s a + 1)) else reg s b := reg_setReg h _ _ _

theorem setField_reg {s : State} (h : RegsWf s.regs) (a hi lo v b : Nat) :
    reg (setField a hi lo v s) b = if a = b then setBits (reg s a) hi lo v else reg s b := reg_setReg h _ _ _

theorem bumpField_reg {s : State} (h : RegsWf s.regs) (a hi lo n b : Nat) :
    reg (bumpField a hi lo n s) b = if a = b then setBits (reg s a) hi lo (min (2 ^ (hi + 1 - lo) - 1) (bits (reg s a) hi lo + n)) else reg s b :=
  setField_reg h _ _ _ _ _

theorem notify_reg {s : State} (h : RegsWf s.regs) (code len : Nat) (fields : List Int) {a : Nat} (ha : a ∉ noticeRegs) :
    reg (notify code len fields s) a = reg s a := (notify_told code len fields s).regs h a ha

/-! Counters. -/

theorem satNat (n : Nat) : (BitVec.ofNat 32 (min 0xFFFFFFFF n)).toNat = min 0xFFFFFFFF n := by
  rw [BitVec.toNat_ofNat]
  omega

theorem bumpBy_regN {s : State} (h : RegsWf s.regs) (a n : Nat) : regN (bumpBy a n s) a = min 0xFFFFFFFF (regN s a + n) := by
  unfold regN
  rw [bumpBy_reg h, if_pos rfl, satNat]
  rfl

theorem bump_regN {s : State} (h : RegsWf s.regs) (a : Nat) : regN (bump a s) a = min 0xFFFFFFFF (regN s a + 1) := bumpBy_regN h a 1

/-! Fields. -/

theorem bits_testBit (w : Word) (hi lo i : Nat) : (bits w hi lo).testBit i = (decide (i < hi + 1 - lo) && w.getLsbD (i + lo)) := by
  unfold bits BitVec.getLsbD
  rw [Nat.testBit_mod_two_pow, Nat.testBit_div_two_pow]

theorem setBits_bit (w : Word) (hi lo v i : Nat) :
    (setBits w hi lo v).getLsbD i = (if i < 32 ∧ lo ≤ i ∧ i - lo < hi + 1 - lo then v.testBit (i - lo) else w.getLsbD i) := by
  unfold setBits
  simp only [BitVec.getLsbD_or, BitVec.getLsbD_and, BitVec.getLsbD_not, BitVec.getLsbD_ofNat, Nat.testBit_mul_two_pow, Nat.testBit_two_pow_sub_one]
  by_cases h1 : i < 32
  · by_cases h2 : lo ≤ i <;> by_cases h3 : i - lo < hi + 1 - lo <;> simp [h1, h2, h3]
  · have : w.getLsbD i = false := BitVec.getLsbD_of_ge _ _ (by omega)
    simp [h1, this]

theorem bits_setBits (w : Word) (hi lo v : Nat) (h : hi < 32) : bits (setBits w hi lo v) hi lo = v % 2 ^ (hi + 1 - lo) := by
  apply Nat.eq_of_testBit_eq
  intro i
  rw [bits_testBit, Nat.testBit_mod_two_pow, setBits_bit]
  by_cases hi' : i < hi + 1 - lo
  · rw [if_pos (by omega), Nat.add_sub_cancel]
  · simp [hi']

theorem bits_setBits_ne (w : Word) (hi lo v a b : Nat) (hn : a < lo ∨ hi < b) : bits (setBits w hi lo v) a b = bits w a b := by
  apply Nat.eq_of_testBit_eq
  intro i
  rw [bits_testBit, bits_testBit, setBits_bit]
  by_cases hi' : i < a + 1 - b
  · rw [if_neg (by omega)]
  · simp [hi']

theorem bitOf_iff (w : Word) (i : Nat) : bitOf w i = w.getLsbD i := by
  unfold bitOf bits BitVec.getLsbD Nat.testBit
  rw [show i + 1 - i = 1 by omega, Nat.shiftRight_eq_div_pow, Nat.and_comm, Nat.and_one_is_mod, Nat.pow_one]
  rcases Nat.mod_two_eq_zero_or_one (w.toNat / 2 ^ i) with h | h <;> simp [h]

theorem bitOf_setFlag (w : Word) (i : Nat) (h : i < 32) : bitOf (w ||| BitVec.ofNat 32 (2 ^ i)) i = true := by
  rw [bitOf_iff, BitVec.getLsbD_or, BitVec.getLsbD_ofNat, Nat.testBit_two_pow_self]
  simp [h]

theorem bitOf_or (w v : Word) (i : Nat) (h : bitOf w i = true) : bitOf (w ||| v) i = true := by
  rw [bitOf_iff] at h ⊢
  simp [h]

end Sys2Proof.Laws
end

