-- ==== Sys2Proof/Laws/State.lean ====
section
/-! SUPPORT. The fields of the state under each update: those that the update leaves. -/

namespace Sys2Proof.Laws

open Sys2Proof.Machine Sys2Proof.Safety

/-! setReg -/

@[simp] theorem setReg_part (a : Nat) (w : Word) (s : State) : (setReg a w s).part = s.part := rfl
@[simp] theorem setReg_pending (a : Nat) (w : Word) (s : State) : (setReg a w s).pending = s.pending := rfl
@[simp] theorem setReg_free (a : Nat) (w : Word) (s : State) : (setReg a w s).free = s.free := rfl
@[simp] theorem setReg_time (a : Nat) (w : Word) (s : State) : (setReg a w s).time = s.time := rfl
@[simp] theorem setReg_teller (a : Nat) (w : Word) (s : State) : (setReg a w s).teller = s.teller := rfl
@[simp] theorem setReg_power (a : Nat) (w : Word) (s : State) : (setReg a w s).power = s.power := rfl
@[simp] theorem setReg_alm (a : Nat) (w : Word) (s : State) : (setReg a w s).alm = s.alm := rfl
@[simp] theorem setReg_fifos (a : Nat) (w : Word) (s : State) : (setReg a w s).fifos = s.fifos := rfl
@[simp] theorem setReg_protect (a : Nat) (w : Word) (s : State) : (setReg a w s).protect = s.protect := rfl
@[simp] theorem setReg_vin (a : Nat) (w : Word) (s : State) : (setReg a w s).vin = s.vin := rfl
@[simp] theorem setReg_record (a : Nat) (w : Word) (s : State) : (setReg a w s).record = s.record := rfl
@[simp] theorem setReg_cfgA (a : Nat) (w : Word) (s : State) : (setReg a w s).cfgA = s.cfgA := rfl
@[simp] theorem setReg_cfgB (a : Nat) (w : Word) (s : State) : (setReg a w s).cfgB = s.cfgB := rfl
@[simp] theorem setReg_cmp (a : Nat) (w : Word) (s : State) : (setReg a w s).cmp = s.cmp := rfl
@[simp] theorem setReg_ras (a : Nat) (w : Word) (s : State) : (setReg a w s).ras = s.ras := rfl
@[simp] theorem setReg_fxm (a : Nat) (w : Word) (s : State) : (setReg a w s).fxm = s.fxm := rfl
@[simp] theorem setReg_pho (a : Nat) (w : Word) (s : State) : (setReg a w s).pho = s.pho := rfl
@[simp] theorem setReg_pool (a : Nat) (w : Word) (s : State) : (setReg a w s).pool = s.pool := rfl
@[simp] theorem setReg_lanes (a : Nat) (w : Word) (s : State) : (setReg a w s).lanes = s.lanes := rfl
@[simp] theorem setReg_lamps (a : Nat) (w : Word) (s : State) : (setReg a w s).lamps = s.lamps := rfl
@[simp] theorem setReg_mac (a : Nat) (w : Word) (s : State) : (setReg a w s).mac = s.mac := rfl
@[simp] theorem setReg_pkt (a : Nat) (w : Word) (s : State) : (setReg a w s).pkt = s.pkt := rfl
@[simp] theorem setReg_dmx (a : Nat) (w : Word) (s : State) : (setReg a w s).dmx = s.dmx := rfl
@[simp] theorem setReg_rad (a : Nat) (w : Word) (s : State) : (setReg a w s).rad = s.rad := rfl
@[simp] theorem setReg_esc (a : Nat) (w : Word) (s : State) : (setReg a w s).esc = s.esc := rfl
@[simp] theorem setReg_map (a : Nat) (w : Word) (s : State) : (setReg a w s).map = s.map := rfl
@[simp] theorem setReg_cal (a : Nat) (w : Word) (s : State) : (setReg a w s).cal = s.cal := rfl
@[simp] theorem setReg_vlt (a : Nat) (w : Word) (s : State) : (setReg a w s).vlt = s.vlt := rfl
@[simp] theorem setReg_lgr (a : Nat) (w : Word) (s : State) : (setReg a w s).lgr = s.lgr := rfl

/-! setField -/

@[simp] theorem setField_part (a : Nat) (hi : Nat) (lo : Nat) (v : Nat) (s : State) : (setField a hi lo v s).part = s.part := rfl
@[simp] theorem setField_pending (a : Nat) (hi : Nat) (lo : Nat) (v : Nat) (s : State) : (setField a hi lo v s).pending = s.pending := rfl
@[simp] theorem setField_free (a : Nat) (hi : Nat) (lo : Nat) (v : Nat) (s : State) : (setField a hi lo v s).free = s.free := rfl
@[simp] theorem setField_time (a : Nat) (hi : Nat) (lo : Nat) (v : Nat) (s : State) : (setField a hi lo v s).time = s.time := rfl
@[simp] theorem setField_teller (a : Nat) (hi : Nat) (lo : Nat) (v : Nat) (s : State) : (setField a hi lo v s).teller = s.teller := rfl
@[simp] theorem setField_power (a : Nat) (hi : Nat) (lo : Nat) (v : Nat) (s : State) : (setField a hi lo v s).power = s.power := rfl
@[simp] theorem setField_alm (a : Nat) (hi : Nat) (lo : Nat) (v : Nat) (s : State) : (setField a hi lo v s).alm = s.alm := rfl
@[simp] theorem setField_fifos (a : Nat) (hi : Nat) (lo : Nat) (v : Nat) (s : State) : (setField a hi lo v s).fifos = s.fifos := rfl
@[simp] theorem setField_protect (a : Nat) (hi : Nat) (lo : Nat) (v : Nat) (s : State) : (setField a hi lo v s).protect = s.protect := rfl
@[simp] theorem setField_vin (a : Nat) (hi : Nat) (lo : Nat) (v : Nat) (s : State) : (setField a hi lo v s).vin = s.vin := rfl
@[simp] theorem setField_record (a : Nat) (hi : Nat) (lo : Nat) (v : Nat) (s : State) : (setField a hi lo v s).record = s.record := rfl
@[simp] theorem setField_cfgA (a : Nat) (hi : Nat) (lo : Nat) (v : Nat) (s : State) : (setField a hi lo v s).cfgA = s.cfgA := rfl
@[simp] theorem setField_cfgB (a : Nat) (hi : Nat) (lo : Nat) (v : Nat) (s : State) : (setField a hi lo v s).cfgB = s.cfgB := rfl
@[simp] theorem setField_cmp (a : Nat) (hi : Nat) (lo : Nat) (v : Nat) (s : State) : (setField a hi lo v s).cmp = s.cmp := rfl
@[simp] theorem setField_ras (a : Nat) (hi : Nat) (lo : Nat) (v : Nat) (s : State) : (setField a hi lo v s).ras = s.ras := rfl
@[simp] theorem setField_fxm (a : Nat) (hi : Nat) (lo : Nat) (v : Nat) (s : State) : (setField a hi lo v s).fxm = s.fxm := rfl
@[simp] theorem setField_pho (a : Nat) (hi : Nat) (lo : Nat) (v : Nat) (s : State) : (setField a hi lo v s).pho = s.pho := rfl
@[simp] theorem setField_pool (a : Nat) (hi : Nat) (lo : Nat) (v : Nat) (s : State) : (setField a hi lo v s).pool = s.pool := rfl
@[simp] theorem setField_lanes (a : Nat) (hi : Nat) (lo : Nat) (v : Nat) (s : State) : (setField a hi lo v s).lanes = s.lanes := rfl
@[simp] theorem setField_lamps (a : Nat) (hi : Nat) (lo : Nat) (v : Nat) (s : State) : (setField a hi lo v s).lamps = s.lamps := rfl
@[simp] theorem setField_mac (a : Nat) (hi : Nat) (lo : Nat) (v : Nat) (s : State) : (setField a hi lo v s).mac = s.mac := rfl
@[simp] theorem setField_pkt (a : Nat) (hi : Nat) (lo : Nat) (v : Nat) (s : State) : (setField a hi lo v s).pkt = s.pkt := rfl
@[simp] theorem setField_dmx (a : Nat) (hi : Nat) (lo : Nat) (v : Nat) (s : State) : (setField a hi lo v s).dmx = s.dmx := rfl
@[simp] theorem setField_rad (a : Nat) (hi : Nat) (lo : Nat) (v : Nat) (s : State) : (setField a hi lo v s).rad = s.rad := rfl
@[simp] theorem setField_esc (a : Nat) (hi : Nat) (lo : Nat) (v : Nat) (s : State) : (setField a hi lo v s).esc = s.esc := rfl
@[simp] theorem setField_map (a : Nat) (hi : Nat) (lo : Nat) (v : Nat) (s : State) : (setField a hi lo v s).map = s.map := rfl
@[simp] theorem setField_cal (a : Nat) (hi : Nat) (lo : Nat) (v : Nat) (s : State) : (setField a hi lo v s).cal = s.cal := rfl
@[simp] theorem setField_vlt (a : Nat) (hi : Nat) (lo : Nat) (v : Nat) (s : State) : (setField a hi lo v s).vlt = s.vlt := rfl
@[simp] theorem setField_lgr (a : Nat) (hi : Nat) (lo : Nat) (v : Nat) (s : State) : (setField a hi lo v s).lgr = s.lgr := rfl

/-! setReg64 -/

@[simp] theorem setReg64_part (lo : Nat) (v : Int) (s : State) : (setReg64 lo v s).part = s.part := rfl
@[simp] theorem setReg64_pending (lo : Nat) (v : Int) (s : State) : (setReg64 lo v s).pending = s.pending := rfl
@[simp] theorem setReg64_free (lo : Nat) (v : Int) (s : State) : (setReg64 lo v s).free = s.free := rfl
@[simp] theorem setReg64_time (lo : Nat) (v : Int) (s : State) : (setReg64 lo v s).time = s.time := rfl
@[simp] theorem setReg64_teller (lo : Nat) (v : Int) (s : State) : (setReg64 lo v s).teller = s.teller := rfl
@[simp] theorem setReg64_power (lo : Nat) (v : Int) (s : State) : (setReg64 lo v s).power = s.power := rfl
@[simp] theorem setReg64_alm (lo : Nat) (v : Int) (s : State) : (setReg64 lo v s).alm = s.alm := rfl
@[simp] theorem setReg64_fifos (lo : Nat) (v : Int) (s : State) : (setReg64 lo v s).fifos = s.fifos := rfl
@[simp] theorem setReg64_protect (lo : Nat) (v : Int) (s : State) : (setReg64 lo v s).protect = s.protect := rfl
@[simp] theorem setReg64_vin (lo : Nat) (v : Int) (s : State) : (setReg64 lo v s).vin = s.vin := rfl
@[simp] theorem setReg64_record (lo : Nat) (v : Int) (s : State) : (setReg64 lo v s).record = s.record := rfl
@[simp] theorem setReg64_cfgA (lo : Nat) (v : Int) (s : State) : (setReg64 lo v s).cfgA = s.cfgA := rfl
@[simp] theorem setReg64_cfgB (lo : Nat) (v : Int) (s : State) : (setReg64 lo v s).cfgB = s.cfgB := rfl
@[simp] theorem setReg64_cmp (lo : Nat) (v : Int) (s : State) : (setReg64 lo v s).cmp = s.cmp := rfl
@[simp] theorem setReg64_ras (lo : Nat) (v : Int) (s : State) : (setReg64 lo v s).ras = s.ras := rfl
@[simp] theorem setReg64_fxm (lo : Nat) (v : Int) (s : State) : (setReg64 lo v s).fxm = s.fxm := rfl
@[simp] theorem setReg64_pho (lo : Nat) (v : Int) (s : State) : (setReg64 lo v s).pho = s.pho := rfl
@[simp] theorem setReg64_pool (lo : Nat) (v : Int) (s : State) : (setReg64 lo v s).pool = s.pool := rfl
@[simp] theorem setReg64_lanes (lo : Nat) (v : Int) (s : State) : (setReg64 lo v s).lanes = s.lanes := rfl
@[simp] theorem setReg64_lamps (lo : Nat) (v : Int) (s : State) : (setReg64 lo v s).lamps = s.lamps := rfl
@[simp] theorem setReg64_mac (lo : Nat) (v : Int) (s : State) : (setReg64 lo v s).mac = s.mac := rfl
@[simp] theorem setReg64_pkt (lo : Nat) (v : Int) (s : State) : (setReg64 lo v s).pkt = s.pkt := rfl
@[simp] theorem setReg64_dmx (lo : Nat) (v : Int) (s : State) : (setReg64 lo v s).dmx = s.dmx := rfl
@[simp] theorem setReg64_rad (lo : Nat) (v : Int) (s : State) : (setReg64 lo v s).rad = s.rad := rfl
@[simp] theorem setReg64_esc (lo : Nat) (v : Int) (s : State) : (setReg64 lo v s).esc = s.esc := rfl
@[simp] theorem setReg64_map (lo : Nat) (v : Int) (s : State) : (setReg64 lo v s).map = s.map := rfl
@[simp] theorem setReg64_cal (lo : Nat) (v : Int) (s : State) : (setReg64 lo v s).cal = s.cal := rfl
@[simp] theorem setReg64_vlt (lo : Nat) (v : Int) (s : State) : (setReg64 lo v s).vlt = s.vlt := rfl
@[simp] theorem setReg64_lgr (lo : Nat) (v : Int) (s : State) : (setReg64 lo v s).lgr = s.lgr := rfl

/-! bumpBy -/

@[simp] theorem bumpBy_part (a : Nat) (n : Nat) (s : State) : (bumpBy a n s).part = s.part := rfl
@[simp] theorem bumpBy_pending (a : Nat) (n : Nat) (s : State) : (bumpBy a n s).pending = s.pending := rfl
@[simp] theorem bumpBy_free (a : Nat) (n : Nat) (s : State) : (bumpBy a n s).free = s.free := rfl
@[simp] theorem bumpBy_time (a : Nat) (n : Nat) (s : State) : (bumpBy a n s).time = s.time := rfl
@[simp] theorem bumpBy_teller (a : Nat) (n : Nat) (s : State) : (bumpBy a n s).teller = s.teller := rfl
@[simp] theorem bumpBy_power (a : Nat) (n : Nat) (s : State) : (bumpBy a n s).power = s.power := rfl
@[simp] theorem bumpBy_alm (a : Nat) (n : Nat) (s : State) : (bumpBy a n s).alm = s.alm := rfl
@[simp] theorem bumpBy_fifos (a : Nat) (n : Nat) (s : State) : (bumpBy a n s).fifos = s.fifos := rfl
@[simp] theorem bumpBy_protect (a : Nat) (n : Nat) (s : State) : (bumpBy a n s).protect = s.protect := rfl
@[simp] theorem bumpBy_vin (a : Nat) (n : Nat) (s : State) : (bumpBy a n s).vin = s.vin := rfl
@[simp] theorem bumpBy_record (a : Nat) (n : Nat) (s : State) : (bumpBy a n s).record = s.record := rfl
@[simp] theorem bumpBy_cfgA (a : Nat) (n : Nat) (s : State) : (bumpBy a n s).cfgA = s.cfgA := rfl
@[simp] theorem bumpBy_cfgB (a : Nat) (n : Nat) (s : State) : (bumpBy a n s).cfgB = s.cfgB := rfl
@[simp] theorem bumpBy_cmp (a : Nat) (n : Nat) (s : State) : (bumpBy a n s).cmp = s.cmp := rfl
@[simp] theorem bumpBy_ras (a : Nat) (n : Nat) (s : State) : (bumpBy a n s).ras = s.ras := rfl
@[simp] theorem bumpBy_fxm (a : Nat) (n : Nat) (s : State) : (bumpBy a n s).fxm = s.fxm := rfl
@[simp] theorem bumpBy_pho (a : Nat) (n : Nat) (s : State) : (bumpBy a n s).pho = s.pho := rfl
@[simp] theorem bumpBy_pool (a : Nat) (n : Nat) (s : State) : (bumpBy a n s).pool = s.pool := rfl
@[simp] theorem bumpBy_lanes (a : Nat) (n : Nat) (s : State) : (bumpBy a n s).lanes = s.lanes := rfl
@[simp] theorem bumpBy_lamps (a : Nat) (n : Nat) (s : State) : (bumpBy a n s).lamps = s.lamps := rfl
@[simp] theorem bumpBy_mac (a : Nat) (n : Nat) (s : State) : (bumpBy a n s).mac = s.mac := rfl
@[simp] theorem bumpBy_pkt (a : Nat) (n : Nat) (s : State) : (bumpBy a n s).pkt = s.pkt := rfl
@[simp] theorem bumpBy_dmx (a : Nat) (n : Nat) (s : State) : (bumpBy a n s).dmx = s.dmx := rfl
@[simp] theorem bumpBy_rad (a : Nat) (n : Nat) (s : State) : (bumpBy a n s).rad = s.rad := rfl
@[simp] theorem bumpBy_esc (a : Nat) (n : Nat) (s : State) : (bumpBy a n s).esc = s.esc := rfl
@[simp] theorem bumpBy_map (a : Nat) (n : Nat) (s : State) : (bumpBy a n s).map = s.map := rfl
@[simp] theorem bumpBy_cal (a : Nat) (n : Nat) (s : State) : (bumpBy a n s).cal = s.cal := rfl
@[simp] theorem bumpBy_vlt (a : Nat) (n : Nat) (s : State) : (bumpBy a n s).vlt = s.vlt := rfl
@[simp] theorem bumpBy_lgr (a : Nat) (n : Nat) (s : State) : (bumpBy a n s).lgr = s.lgr := rfl

/-! bump -/

@[simp] theorem bump_part (a : Nat) (s : State) : (bump a s).part = s.part := rfl
@[simp] theorem bump_pending (a : Nat) (s : State) : (bump a s).pending = s.pending := rfl
@[simp] theorem bump_free (a : Nat) (s : State) : (bump a s).free = s.free := rfl
@[simp] theorem bump_time (a : Nat) (s : State) : (bump a s).time = s.time := rfl
@[simp] theorem bump_teller (a : Nat) (s : State) : (bump a s).teller = s.teller := rfl
@[simp] theorem bump_power (a : Nat) (s : State) : (bump a s).power = s.power := rfl
@[simp] theorem bump_alm (a : Nat) (s : State) : (bump a s).alm = s.alm := rfl
@[simp] theorem bump_fifos (a : Nat) (s : State) : (bump a s).fifos = s.fifos := rfl
@[simp] theorem bump_protect (a : Nat) (s : State) : (bump a s).protect = s.protect := rfl
@[simp] theorem bump_vin (a : Nat) (s : State) : (bump a s).vin = s.vin := rfl
@[simp] theorem bump_record (a : Nat) (s : State) : (bump a s).record = s.record := rfl
@[simp] theorem bump_cfgA (a : Nat) (s : State) : (bump a s).cfgA = s.cfgA := rfl
@[simp] theorem bump_cfgB (a : Nat) (s : State) : (bump a s).cfgB = s.cfgB := rfl
@[simp] theorem bump_cmp (a : Nat) (s : State) : (bump a s).cmp = s.cmp := rfl
@[simp] theorem bump_ras (a : Nat) (s : State) : (bump a s).ras = s.ras := rfl
@[simp] theorem bump_fxm (a : Nat) (s : State) : (bump a s).fxm = s.fxm := rfl
@[simp] theorem bump_pho (a : Nat) (s : State) : (bump a s).pho = s.pho := rfl
@[simp] theorem bump_pool (a : Nat) (s : State) : (bump a s).pool = s.pool := rfl
@[simp] theorem bump_lanes (a : Nat) (s : State) : (bump a s).lanes = s.lanes := rfl
@[simp] theorem bump_lamps (a : Nat) (s : State) : (bump a s).lamps = s.lamps := rfl
@[simp] theorem bump_mac (a : Nat) (s : State) : (bump a s).mac = s.mac := rfl
@[simp] theorem bump_pkt (a : Nat) (s : State) : (bump a s).pkt = s.pkt := rfl
@[simp] theorem bump_dmx (a : Nat) (s : State) : (bump a s).dmx = s.dmx := rfl
@[simp] theorem bump_rad (a : Nat) (s : State) : (bump a s).rad = s.rad := rfl
@[simp] theorem bump_esc (a : Nat) (s : State) : (bump a s).esc = s.esc := rfl
@[simp] theorem bump_map (a : Nat) (s : State) : (bump a s).map = s.map := rfl
@[simp] theorem bump_cal (a : Nat) (s : State) : (bump a s).cal = s.cal := rfl
@[simp] theorem bump_vlt (a : Nat) (s : State) : (bump a s).vlt = s.vlt := rfl
@[simp] theorem bump_lgr (a : Nat) (s : State) : (bump a s).lgr = s.lgr := rfl

/-! bumpField -/

@[simp] theorem bumpField_part (a : Nat) (hi : Nat) (lo : Nat) (n : Nat) (s : State) : (bumpField a hi lo n s).part = s.part := rfl
@[simp] theorem bumpField_pending (a : Nat) (hi : Nat) (lo : Nat) (n : Nat) (s : State) : (bumpField a hi lo n s).pending = s.pending := rfl
@[simp] theorem bumpField_free (a : Nat) (hi : Nat) (lo : Nat) (n : Nat) (s : State) : (bumpField a hi lo n s).free = s.free := rfl
@[simp] theorem bumpField_time (a : Nat) (hi : Nat) (lo : Nat) (n : Nat) (s : State) : (bumpField a hi lo n s).time = s.time := rfl
@[simp] theorem bumpField_teller (a : Nat) (hi : Nat) (lo : Nat) (n : Nat) (s : State) : (bumpField a hi lo n s).teller = s.teller := rfl
@[simp] theorem bumpField_power (a : Nat) (hi : Nat) (lo : Nat) (n : Nat) (s : State) : (bumpField a hi lo n s).power = s.power := rfl
@[simp] theorem bumpField_alm (a : Nat) (hi : Nat) (lo : Nat) (n : Nat) (s : State) : (bumpField a hi lo n s).alm = s.alm := rfl
@[simp] theorem bumpField_fifos (a : Nat) (hi : Nat) (lo : Nat) (n : Nat) (s : State) : (bumpField a hi lo n s).fifos = s.fifos := rfl
@[simp] theorem bumpField_protect (a : Nat) (hi : Nat) (lo : Nat) (n : Nat) (s : State) : (bumpField a hi lo n s).protect = s.protect := rfl
@[simp] theorem bumpField_vin (a : Nat) (hi : Nat) (lo : Nat) (n : Nat) (s : State) : (bumpField a hi lo n s).vin = s.vin := rfl
@[simp] theorem bumpField_record (a : Nat) (hi : Nat) (lo : Nat) (n : Nat) (s : State) : (bumpField a hi lo n s).record = s.record := rfl
@[simp] theorem bumpField_cfgA (a : Nat) (hi : Nat) (lo : Nat) (n : Nat) (s : State) : (bumpField a hi lo n s).cfgA = s.cfgA := rfl
@[simp] theorem bumpField_cfgB (a : Nat) (hi : Nat) (lo : Nat) (n : Nat) (s : State) : (bumpField a hi lo n s).cfgB = s.cfgB := rfl
@[simp] theorem bumpField_cmp (a : Nat) (hi : Nat) (lo : Nat) (n : Nat) (s : State) : (bumpField a hi lo n s).cmp = s.cmp := rfl
@[simp] theorem bumpField_ras (a : Nat) (hi : Nat) (lo : Nat) (n : Nat) (s : State) : (bumpField a hi lo n s).ras = s.ras := rfl
@[simp] theorem bumpField_fxm (a : Nat) (hi : Nat) (lo : Nat) (n : Nat) (s : State) : (bumpField a hi lo n s).fxm = s.fxm := rfl
@[simp] theorem bumpField_pho (a : Nat) (hi : Nat) (lo : Nat) (n : Nat) (s : State) : (bumpField a hi lo n s).pho = s.pho := rfl
@[simp] theorem bumpField_pool (a : Nat) (hi : Nat) (lo : Nat) (n : Nat) (s : State) : (bumpField a hi lo n s).pool = s.pool := rfl
@[simp] theorem bumpField_lanes (a : Nat) (hi : Nat) (lo : Nat) (n : Nat) (s : State) : (bumpField a hi lo n s).lanes = s.lanes := rfl
@[simp] theorem bumpField_lamps (a : Nat) (hi : Nat) (lo : Nat) (n : Nat) (s : State) : (bumpField a hi lo n s).lamps = s.lamps := rfl
@[simp] theorem bumpField_mac (a : Nat) (hi : Nat) (lo : Nat) (n : Nat) (s : State) : (bumpField a hi lo n s).mac = s.mac := rfl
@[simp] theorem bumpField_pkt (a : Nat) (hi : Nat) (lo : Nat) (n : Nat) (s : State) : (bumpField a hi lo n s).pkt = s.pkt := rfl
@[simp] theorem bumpField_dmx (a : Nat) (hi : Nat) (lo : Nat) (n : Nat) (s : State) : (bumpField a hi lo n s).dmx = s.dmx := rfl
@[simp] theorem bumpField_rad (a : Nat) (hi : Nat) (lo : Nat) (n : Nat) (s : State) : (bumpField a hi lo n s).rad = s.rad := rfl
@[simp] theorem bumpField_esc (a : Nat) (hi : Nat) (lo : Nat) (n : Nat) (s : State) : (bumpField a hi lo n s).esc = s.esc := rfl
@[simp] theorem bumpField_map (a : Nat) (hi : Nat) (lo : Nat) (n : Nat) (s : State) : (bumpField a hi lo n s).map = s.map := rfl
@[simp] theorem bumpField_cal (a : Nat) (hi : Nat) (lo : Nat) (n : Nat) (s : State) : (bumpField a hi lo n s).cal = s.cal := rfl
@[simp] theorem bumpField_vlt (a : Nat) (hi : Nat) (lo : Nat) (n : Nat) (s : State) : (bumpField a hi lo n s).vlt = s.vlt := rfl
@[simp] theorem bumpField_lgr (a : Nat) (hi : Nat) (lo : Nat) (n : Nat) (s : State) : (bumpField a hi lo n s).lgr = s.lgr := rfl

/-! setFlag -/

@[simp] theorem setFlag_part (a : Nat) (bit : Nat) (s : State) : (setFlag a bit s).part = s.part := rfl
@[simp] theorem setFlag_pending (a : Nat) (bit : Nat) (s : State) : (setFlag a bit s).pending = s.pending := rfl
@[simp] theorem setFlag_free (a : Nat) (bit : Nat) (s : State) : (setFlag a bit s).free = s.free := rfl
@[simp] theorem setFlag_time (a : Nat) (bit : Nat) (s : State) : (setFlag a bit s).time = s.time := rfl
@[simp] theorem setFlag_teller (a : Nat) (bit : Nat) (s : State) : (setFlag a bit s).teller = s.teller := rfl
@[simp] theorem setFlag_power (a : Nat) (bit : Nat) (s : State) : (setFlag a bit s).power = s.power := rfl
@[simp] theorem setFlag_alm (a : Nat) (bit : Nat) (s : State) : (setFlag a bit s).alm = s.alm := rfl
@[simp] theorem setFlag_fifos (a : Nat) (bit : Nat) (s : State) : (setFlag a bit s).fifos = s.fifos := rfl
@[simp] theorem setFlag_protect (a : Nat) (bit : Nat) (s : State) : (setFlag a bit s).protect = s.protect := rfl
@[simp] theorem setFlag_vin (a : Nat) (bit : Nat) (s : State) : (setFlag a bit s).vin = s.vin := rfl
@[simp] theorem setFlag_record (a : Nat) (bit : Nat) (s : State) : (setFlag a bit s).record = s.record := rfl
@[simp] theorem setFlag_cfgA (a : Nat) (bit : Nat) (s : State) : (setFlag a bit s).cfgA = s.cfgA := rfl
@[simp] theorem setFlag_cfgB (a : Nat) (bit : Nat) (s : State) : (setFlag a bit s).cfgB = s.cfgB := rfl
@[simp] theorem setFlag_cmp (a : Nat) (bit : Nat) (s : State) : (setFlag a bit s).cmp = s.cmp := rfl
@[simp] theorem setFlag_ras (a : Nat) (bit : Nat) (s : State) : (setFlag a bit s).ras = s.ras := rfl
@[simp] theorem setFlag_fxm (a : Nat) (bit : Nat) (s : State) : (setFlag a bit s).fxm = s.fxm := rfl
@[simp] theorem setFlag_pho (a : Nat) (bit : Nat) (s : State) : (setFlag a bit s).pho = s.pho := rfl
@[simp] theorem setFlag_pool (a : Nat) (bit : Nat) (s : State) : (setFlag a bit s).pool = s.pool := rfl
@[simp] theorem setFlag_lanes (a : Nat) (bit : Nat) (s : State) : (setFlag a bit s).lanes = s.lanes := rfl
@[simp] theorem setFlag_lamps (a : Nat) (bit : Nat) (s : State) : (setFlag a bit s).lamps = s.lamps := rfl
@[simp] theorem setFlag_mac (a : Nat) (bit : Nat) (s : State) : (setFlag a bit s).mac = s.mac := rfl
@[simp] theorem setFlag_pkt (a : Nat) (bit : Nat) (s : State) : (setFlag a bit s).pkt = s.pkt := rfl
@[simp] theorem setFlag_dmx (a : Nat) (bit : Nat) (s : State) : (setFlag a bit s).dmx = s.dmx := rfl
@[simp] theorem setFlag_rad (a : Nat) (bit : Nat) (s : State) : (setFlag a bit s).rad = s.rad := rfl
@[simp] theorem setFlag_esc (a : Nat) (bit : Nat) (s : State) : (setFlag a bit s).esc = s.esc := rfl
@[simp] theorem setFlag_map (a : Nat) (bit : Nat) (s : State) : (setFlag a bit s).map = s.map := rfl
@[simp] theorem setFlag_cal (a : Nat) (bit : Nat) (s : State) : (setFlag a bit s).cal = s.cal := rfl
@[simp] theorem setFlag_vlt (a : Nat) (bit : Nat) (s : State) : (setFlag a bit s).vlt = s.vlt := rfl
@[simp] theorem setFlag_lgr (a : Nat) (bit : Nat) (s : State) : (setFlag a bit s).lgr = s.lgr := rfl

/-! draw -/

@[simp] theorem draw_part (s : State) : (draw s).part = s.part := rfl
@[simp] theorem draw_pending (s : State) : (draw s).pending = s.pending := rfl
@[simp] theorem draw_regs (s : State) : (draw s).regs = s.regs := rfl
@[simp] theorem draw_time (s : State) : (draw s).time = s.time := rfl
@[simp] theorem draw_teller (s : State) : (draw s).teller = s.teller := rfl
@[simp] theorem draw_power (s : State) : (draw s).power = s.power := rfl
@[simp] theorem draw_alm (s : State) : (draw s).alm = s.alm := rfl
@[simp] theorem draw_fifos (s : State) : (draw s).fifos = s.fifos := rfl
@[simp] theorem draw_protect (s : State) : (draw s).protect = s.protect := rfl
@[simp] theorem draw_vin (s : State) : (draw s).vin = s.vin := rfl
@[simp] theorem draw_record (s : State) : (draw s).record = s.record := rfl
@[simp] theorem draw_cfgA (s : State) : (draw s).cfgA = s.cfgA := rfl
@[simp] theorem draw_cfgB (s : State) : (draw s).cfgB = s.cfgB := rfl
@[simp] theorem draw_cmp (s : State) : (draw s).cmp = s.cmp := rfl
@[simp] theorem draw_ras (s : State) : (draw s).ras = s.ras := rfl
@[simp] theorem draw_fxm (s : State) : (draw s).fxm = s.fxm := rfl
@[simp] theorem draw_pho (s : State) : (draw s).pho = s.pho := rfl
@[simp] theorem draw_pool (s : State) : (draw s).pool = s.pool := rfl
@[simp] theorem draw_lanes (s : State) : (draw s).lanes = s.lanes := rfl
@[simp] theorem draw_lamps (s : State) : (draw s).lamps = s.lamps := rfl
@[simp] theorem draw_mac (s : State) : (draw s).mac = s.mac := rfl
@[simp] theorem draw_pkt (s : State) : (draw s).pkt = s.pkt := rfl
@[simp] theorem draw_dmx (s : State) : (draw s).dmx = s.dmx := rfl
@[simp] theorem draw_rad (s : State) : (draw s).rad = s.rad := rfl
@[simp] theorem draw_esc (s : State) : (draw s).esc = s.esc := rfl
@[simp] theorem draw_map (s : State) : (draw s).map = s.map := rfl
@[simp] theorem draw_cal (s : State) : (draw s).cal = s.cal := rfl
@[simp] theorem draw_vlt (s : State) : (draw s).vlt = s.vlt := rfl
@[simp] theorem draw_lgr (s : State) : (draw s).lgr = s.lgr := rfl

/-! ledgerEvent -/

@[simp] theorem ledgerEvent_part (code : Nat) (fields : List Int) (s : State) : (ledgerEvent code fields s).part = s.part := rfl
@[simp] theorem ledgerEvent_pending (code : Nat) (fields : List Int) (s : State) : (ledgerEvent code fields s).pending = s.pending := rfl
@[simp] theorem ledgerEvent_regs (code : Nat) (fields : List Int) (s : State) : (ledgerEvent code fields s).regs = s.regs := rfl
@[simp] theorem ledgerEvent_free (code : Nat) (fields : List Int) (s : State) : (ledgerEvent code fields s).free = s.free := rfl
@[simp] theorem ledgerEvent_time (code : Nat) (fields : List Int) (s : State) : (ledgerEvent code fields s).time = s.time := rfl
@[simp] theorem ledgerEvent_power (code : Nat) (fields : List Int) (s : State) : (ledgerEvent code fields s).power = s.power := rfl
@[simp] theorem ledgerEvent_alm (code : Nat) (fields : List Int) (s : State) : (ledgerEvent code fields s).alm = s.alm := rfl
@[simp] theorem ledgerEvent_fifos (code : Nat) (fields : List Int) (s : State) : (ledgerEvent code fields s).fifos = s.fifos := rfl
@[simp] theorem ledgerEvent_protect (code : Nat) (fields : List Int) (s : State) : (ledgerEvent code fields s).protect = s.protect := rfl
@[simp] theorem ledgerEvent_vin (code : Nat) (fields : List Int) (s : State) : (ledgerEvent code fields s).vin = s.vin := rfl
@[simp] theorem ledgerEvent_record (code : Nat) (fields : List Int) (s : State) : (ledgerEvent code fields s).record = s.record := rfl
@[simp] theorem ledgerEvent_cfgA (code : Nat) (fields : List Int) (s : State) : (ledgerEvent code fields s).cfgA = s.cfgA := rfl
@[simp] theorem ledgerEvent_cfgB (code : Nat) (fields : List Int) (s : State) : (ledgerEvent code fields s).cfgB = s.cfgB := rfl
@[simp] theorem ledgerEvent_cmp (code : Nat) (fields : List Int) (s : State) : (ledgerEvent code fields s).cmp = s.cmp := rfl
@[simp] theorem ledgerEvent_ras (code : Nat) (fields : List Int) (s : State) : (ledgerEvent code fields s).ras = s.ras := rfl
@[simp] theorem ledgerEvent_fxm (code : Nat) (fields : List Int) (s : State) : (ledgerEvent code fields s).fxm = s.fxm := rfl
@[simp] theorem ledgerEvent_pho (code : Nat) (fields : List Int) (s : State) : (ledgerEvent code fields s).pho = s.pho := rfl
@[simp] theorem ledgerEvent_pool (code : Nat) (fields : List Int) (s : State) : (ledgerEvent code fields s).pool = s.pool := rfl
@[simp] theorem ledgerEvent_lanes (code : Nat) (fields : List Int) (s : State) : (ledgerEvent code fields s).lanes = s.lanes := rfl
@[simp] theorem ledgerEvent_lamps (code : Nat) (fields : List Int) (s : State) : (ledgerEvent code fields s).lamps = s.lamps := rfl
@[simp] theorem ledgerEvent_mac (code : Nat) (fields : List Int) (s : State) : (ledgerEvent code fields s).mac = s.mac := rfl
@[simp] theorem ledgerEvent_pkt (code : Nat) (fields : List Int) (s : State) : (ledgerEvent code fields s).pkt = s.pkt := rfl
@[simp] theorem ledgerEvent_dmx (code : Nat) (fields : List Int) (s : State) : (ledgerEvent code fields s).dmx = s.dmx := rfl
@[simp] theorem ledgerEvent_rad (code : Nat) (fields : List Int) (s : State) : (ledgerEvent code fields s).rad = s.rad := rfl
@[simp] theorem ledgerEvent_esc (code : Nat) (fields : List Int) (s : State) : (ledgerEvent code fields s).esc = s.esc := rfl
@[simp] theorem ledgerEvent_map (code : Nat) (fields : List Int) (s : State) : (ledgerEvent code fields s).map = s.map := rfl
@[simp] theorem ledgerEvent_cal (code : Nat) (fields : List Int) (s : State) : (ledgerEvent code fields s).cal = s.cal := rfl
@[simp] theorem ledgerEvent_vlt (code : Nat) (fields : List Int) (s : State) : (ledgerEvent code fields s).vlt = s.vlt := rfl
@[simp] theorem ledgerEvent_lgr (code : Nat) (fields : List Int) (s : State) : (ledgerEvent code fields s).lgr = s.lgr := rfl

/-! noteRead -/

@[simp] theorem noteRead_part (a : Nat) (w : Word) (s : State) : (noteRead a w s).part = s.part := rfl
@[simp] theorem noteRead_pending (a : Nat) (w : Word) (s : State) : (noteRead a w s).pending = s.pending := rfl
@[simp] theorem noteRead_free (a : Nat) (w : Word) (s : State) : (noteRead a w s).free = s.free := rfl
@[simp] theorem noteRead_time (a : Nat) (w : Word) (s : State) : (noteRead a w s).time = s.time := rfl
@[simp] theorem noteRead_teller (a : Nat) (w : Word) (s : State) : (noteRead a w s).teller = s.teller := rfl
@[simp] theorem noteRead_power (a : Nat) (w : Word) (s : State) : (noteRead a w s).power = s.power := rfl
@[simp] theorem noteRead_alm (a : Nat) (w : Word) (s : State) : (noteRead a w s).alm = s.alm := rfl
@[simp] theorem noteRead_fifos (a : Nat) (w : Word) (s : State) : (noteRead a w s).fifos = s.fifos := rfl
@[simp] theorem noteRead_protect (a : Nat) (w : Word) (s : State) : (noteRead a w s).protect = s.protect := rfl
@[simp] theorem noteRead_vin (a : Nat) (w : Word) (s : State) : (noteRead a w s).vin = s.vin := rfl
@[simp] theorem noteRead_record (a : Nat) (w : Word) (s : State) : (noteRead a w s).record = s.record := rfl
@[simp] theorem noteRead_cfgA (a : Nat) (w : Word) (s : State) : (noteRead a w s).cfgA = s.cfgA := rfl
@[simp] theorem noteRead_cfgB (a : Nat) (w : Word) (s : State) : (noteRead a w s).cfgB = s.cfgB := rfl
@[simp] theorem noteRead_cmp (a : Nat) (w : Word) (s : State) : (noteRead a w s).cmp = s.cmp := rfl
@[simp] theorem noteRead_ras (a : Nat) (w : Word) (s : State) : (noteRead a w s).ras = s.ras := rfl
@[simp] theorem noteRead_fxm (a : Nat) (w : Word) (s : State) : (noteRead a w s).fxm = s.fxm := rfl
@[simp] theorem noteRead_pho (a : Nat) (w : Word) (s : State) : (noteRead a w s).pho = s.pho := rfl
@[simp] theorem noteRead_pool (a : Nat) (w : Word) (s : State) : (noteRead a w s).pool = s.pool := rfl
@[simp] theorem noteRead_lanes (a : Nat) (w : Word) (s : State) : (noteRead a w s).lanes = s.lanes := rfl
@[simp] theorem noteRead_lamps (a : Nat) (w : Word) (s : State) : (noteRead a w s).lamps = s.lamps := rfl
@[simp] theorem noteRead_mac (a : Nat) (w : Word) (s : State) : (noteRead a w s).mac = s.mac := rfl
@[simp] theorem noteRead_pkt (a : Nat) (w : Word) (s : State) : (noteRead a w s).pkt = s.pkt := rfl
@[simp] theorem noteRead_dmx (a : Nat) (w : Word) (s : State) : (noteRead a w s).dmx = s.dmx := rfl
@[simp] theorem noteRead_rad (a : Nat) (w : Word) (s : State) : (noteRead a w s).rad = s.rad := rfl
@[simp] theorem noteRead_esc (a : Nat) (w : Word) (s : State) : (noteRead a w s).esc = s.esc := rfl
@[simp] theorem noteRead_map (a : Nat) (w : Word) (s : State) : (noteRead a w s).map = s.map := rfl
@[simp] theorem noteRead_cal (a : Nat) (w : Word) (s : State) : (noteRead a w s).cal = s.cal := rfl
@[simp] theorem noteRead_vlt (a : Nat) (w : Word) (s : State) : (noteRead a w s).vlt = s.vlt := rfl
@[simp] theorem noteRead_lgr (a : Nat) (w : Word) (s : State) : (noteRead a w s).lgr = s.lgr := rfl

/-! modSess -/

@[simp] theorem modSess_part (i : Nat) (f : Session → Session) (s : State) : (modSess i f s).part = s.part := rfl
@[simp] theorem modSess_pending (i : Nat) (f : Session → Session) (s : State) : (modSess i f s).pending = s.pending := rfl
@[simp] theorem modSess_regs (i : Nat) (f : Session → Session) (s : State) : (modSess i f s).regs = s.regs := rfl
@[simp] theorem modSess_free (i : Nat) (f : Session → Session) (s : State) : (modSess i f s).free = s.free := rfl
@[simp] theorem modSess_time (i : Nat) (f : Session → Session) (s : State) : (modSess i f s).time = s.time := rfl
@[simp] theorem modSess_power (i : Nat) (f : Session → Session) (s : State) : (modSess i f s).power = s.power := rfl
@[simp] theorem modSess_alm (i : Nat) (f : Session → Session) (s : State) : (modSess i f s).alm = s.alm := rfl
@[simp] theorem modSess_fifos (i : Nat) (f : Session → Session) (s : State) : (modSess i f s).fifos = s.fifos := rfl
@[simp] theorem modSess_protect (i : Nat) (f : Session → Session) (s : State) : (modSess i f s).protect = s.protect := rfl
@[simp] theorem modSess_vin (i : Nat) (f : Session → Session) (s : State) : (modSess i f s).vin = s.vin := rfl
@[simp] theorem modSess_record (i : Nat) (f : Session → Session) (s : State) : (modSess i f s).record = s.record := rfl
@[simp] theorem modSess_cfgA (i : Nat) (f : Session → Session) (s : State) : (modSess i f s).cfgA = s.cfgA := rfl
@[simp] theorem modSess_cfgB (i : Nat) (f : Session → Session) (s : State) : (modSess i f s).cfgB = s.cfgB := rfl
@[simp] theorem modSess_cmp (i : Nat) (f : Session → Session) (s : State) : (modSess i f s).cmp = s.cmp := rfl
@[simp] theorem modSess_ras (i : Nat) (f : Session → Session) (s : State) : (modSess i f s).ras = s.ras := rfl
@[simp] theorem modSess_fxm (i : Nat) (f : Session → Session) (s : State) : (modSess i f s).fxm = s.fxm := rfl
@[simp] theorem modSess_pho (i : Nat) (f : Session → Session) (s : State) : (modSess i f s).pho = s.pho := rfl
@[simp] theorem modSess_pool (i : Nat) (f : Session → Session) (s : State) : (modSess i f s).pool = s.pool := rfl
@[simp] theorem modSess_lanes (i : Nat) (f : Session → Session) (s : State) : (modSess i f s).lanes = s.lanes := rfl
@[simp] theorem modSess_lamps (i : Nat) (f : Session → Session) (s : State) : (modSess i f s).lamps = s.lamps := rfl
@[simp] theorem modSess_mac (i : Nat) (f : Session → Session) (s : State) : (modSess i f s).mac = s.mac := rfl
@[simp] theorem modSess_pkt (i : Nat) (f : Session → Session) (s : State) : (modSess i f s).pkt = s.pkt := rfl
@[simp] theorem modSess_dmx (i : Nat) (f : Session → Session) (s : State) : (modSess i f s).dmx = s.dmx := rfl
@[simp] theorem modSess_rad (i : Nat) (f : Session → Session) (s : State) : (modSess i f s).rad = s.rad := rfl
@[simp] theorem modSess_esc (i : Nat) (f : Session → Session) (s : State) : (modSess i f s).esc = s.esc := rfl
@[simp] theorem modSess_map (i : Nat) (f : Session → Session) (s : State) : (modSess i f s).map = s.map := rfl
@[simp] theorem modSess_cal (i : Nat) (f : Session → Session) (s : State) : (modSess i f s).cal = s.cal := rfl
@[simp] theorem modSess_vlt (i : Nat) (f : Session → Session) (s : State) : (modSess i f s).vlt = s.vlt := rfl
@[simp] theorem modSess_lgr (i : Nat) (f : Session → Session) (s : State) : (modSess i f s).lgr = s.lgr := rfl

/-! modRings -/

@[simp] theorem modRings_part (f : Rings → Rings) (s : State) : (modRings f s).part = s.part := rfl
@[simp] theorem modRings_pending (f : Rings → Rings) (s : State) : (modRings f s).pending = s.pending := rfl
@[simp] theorem modRings_regs (f : Rings → Rings) (s : State) : (modRings f s).regs = s.regs := rfl
@[simp] theorem modRings_free (f : Rings → Rings) (s : State) : (modRings f s).free = s.free := rfl
@[simp] theorem modRings_time (f : Rings → Rings) (s : State) : (modRings f s).time = s.time := rfl
@[simp] theorem modRings_power (f : Rings → Rings) (s : State) : (modRings f s).power = s.power := rfl
@[simp] theorem modRings_alm (f : Rings → Rings) (s : State) : (modRings f s).alm = s.alm := rfl
@[simp] theorem modRings_fifos (f : Rings → Rings) (s : State) : (modRings f s).fifos = s.fifos := rfl
@[simp] theorem modRings_protect (f : Rings → Rings) (s : State) : (modRings f s).protect = s.protect := rfl
@[simp] theorem modRings_vin (f : Rings → Rings) (s : State) : (modRings f s).vin = s.vin := rfl
@[simp] theorem modRings_record (f : Rings → Rings) (s : State) : (modRings f s).record = s.record := rfl
@[simp] theorem modRings_cfgA (f : Rings → Rings) (s : State) : (modRings f s).cfgA = s.cfgA := rfl
@[simp] theorem modRings_cfgB (f : Rings → Rings) (s : State) : (modRings f s).cfgB = s.cfgB := rfl
@[simp] theorem modRings_cmp (f : Rings → Rings) (s : State) : (modRings f s).cmp = s.cmp := rfl
@[simp] theorem modRings_ras (f : Rings → Rings) (s : State) : (modRings f s).ras = s.ras := rfl
@[simp] theorem modRings_fxm (f : Rings → Rings) (s : State) : (modRings f s).fxm = s.fxm := rfl
@[simp] theorem modRings_pho (f : Rings → Rings) (s : State) : (modRings f s).pho = s.pho := rfl
@[simp] theorem modRings_pool (f : Rings → Rings) (s : State) : (modRings f s).pool = s.pool := rfl
@[simp] theorem modRings_lanes (f : Rings → Rings) (s : State) : (modRings f s).lanes = s.lanes := rfl
@[simp] theorem modRings_lamps (f : Rings → Rings) (s : State) : (modRings f s).lamps = s.lamps := rfl
@[simp] theorem modRings_mac (f : Rings → Rings) (s : State) : (modRings f s).mac = s.mac := rfl
@[simp] theorem modRings_pkt (f : Rings → Rings) (s : State) : (modRings f s).pkt = s.pkt := rfl
@[simp] theorem modRings_dmx (f : Rings → Rings) (s : State) : (modRings f s).dmx = s.dmx := rfl
@[simp] theorem modRings_rad (f : Rings → Rings) (s : State) : (modRings f s).rad = s.rad := rfl
@[simp] theorem modRings_esc (f : Rings → Rings) (s : State) : (modRings f s).esc = s.esc := rfl
@[simp] theorem modRings_map (f : Rings → Rings) (s : State) : (modRings f s).map = s.map := rfl
@[simp] theorem modRings_cal (f : Rings → Rings) (s : State) : (modRings f s).cal = s.cal := rfl
@[simp] theorem modRings_vlt (f : Rings → Rings) (s : State) : (modRings f s).vlt = s.vlt := rfl
@[simp] theorem modRings_lgr (f : Rings → Rings) (s : State) : (modRings f s).lgr = s.lgr := rfl

/-! modTb -/

@[simp] theorem modTb_part (i : Nat) (f : TimeBase → TimeBase) (s : State) : (modTb i f s).part = s.part := rfl
@[simp] theorem modTb_pending (i : Nat) (f : TimeBase → TimeBase) (s : State) : (modTb i f s).pending = s.pending := rfl
@[simp] theorem modTb_regs (i : Nat) (f : TimeBase → TimeBase) (s : State) : (modTb i f s).regs = s.regs := rfl
@[simp] theorem modTb_free (i : Nat) (f : TimeBase → TimeBase) (s : State) : (modTb i f s).free = s.free := rfl
@[simp] theorem modTb_teller (i : Nat) (f : TimeBase → TimeBase) (s : State) : (modTb i f s).teller = s.teller := rfl
@[simp] theorem modTb_power (i : Nat) (f : TimeBase → TimeBase) (s : State) : (modTb i f s).power = s.power := rfl
@[simp] theorem modTb_alm (i : Nat) (f : TimeBase → TimeBase) (s : State) : (modTb i f s).alm = s.alm := rfl
@[simp] theorem modTb_fifos (i : Nat) (f : TimeBase → TimeBase) (s : State) : (modTb i f s).fifos = s.fifos := rfl
@[simp] theorem modTb_protect (i : Nat) (f : TimeBase → TimeBase) (s : State) : (modTb i f s).protect = s.protect := rfl
@[simp] theorem modTb_vin (i : Nat) (f : TimeBase → TimeBase) (s : State) : (modTb i f s).vin = s.vin := rfl
@[simp] theorem modTb_record (i : Nat) (f : TimeBase → TimeBase) (s : State) : (modTb i f s).record = s.record := rfl
@[simp] theorem modTb_cfgA (i : Nat) (f : TimeBase → TimeBase) (s : State) : (modTb i f s).cfgA = s.cfgA := rfl
@[simp] theorem modTb_cfgB (i : Nat) (f : TimeBase → TimeBase) (s : State) : (modTb i f s).cfgB = s.cfgB := rfl
@[simp] theorem modTb_cmp (i : Nat) (f : TimeBase → TimeBase) (s : State) : (modTb i f s).cmp = s.cmp := rfl
@[simp] theorem modTb_ras (i : Nat) (f : TimeBase → TimeBase) (s : State) : (modTb i f s).ras = s.ras := rfl
@[simp] theorem modTb_fxm (i : Nat) (f : TimeBase → TimeBase) (s : State) : (modTb i f s).fxm = s.fxm := rfl
@[simp] theorem modTb_pho (i : Nat) (f : TimeBase → TimeBase) (s : State) : (modTb i f s).pho = s.pho := rfl
@[simp] theorem modTb_pool (i : Nat) (f : TimeBase → TimeBase) (s : State) : (modTb i f s).pool = s.pool := rfl
@[simp] theorem modTb_lanes (i : Nat) (f : TimeBase → TimeBase) (s : State) : (modTb i f s).lanes = s.lanes := rfl
@[simp] theorem modTb_lamps (i : Nat) (f : TimeBase → TimeBase) (s : State) : (modTb i f s).lamps = s.lamps := rfl
@[simp] theorem modTb_mac (i : Nat) (f : TimeBase → TimeBase) (s : State) : (modTb i f s).mac = s.mac := rfl
@[simp] theorem modTb_pkt (i : Nat) (f : TimeBase → TimeBase) (s : State) : (modTb i f s).pkt = s.pkt := rfl
@[simp] theorem modTb_dmx (i : Nat) (f : TimeBase → TimeBase) (s : State) : (modTb i f s).dmx = s.dmx := rfl
@[simp] theorem modTb_rad (i : Nat) (f : TimeBase → TimeBase) (s : State) : (modTb i f s).rad = s.rad := rfl
@[simp] theorem modTb_esc (i : Nat) (f : TimeBase → TimeBase) (s : State) : (modTb i f s).esc = s.esc := rfl
@[simp] theorem modTb_map (i : Nat) (f : TimeBase → TimeBase) (s : State) : (modTb i f s).map = s.map := rfl
@[simp] theorem modTb_cal (i : Nat) (f : TimeBase → TimeBase) (s : State) : (modTb i f s).cal = s.cal := rfl
@[simp] theorem modTb_vlt (i : Nat) (f : TimeBase → TimeBase) (s : State) : (modTb i f s).vlt = s.vlt := rfl
@[simp] theorem modTb_lgr (i : Nat) (f : TimeBase → TimeBase) (s : State) : (modTb i f s).lgr = s.lgr := rfl

/-! modAlm -/

@[simp] theorem modAlm_part (f : Almanac → Almanac) (s : State) : (modAlm f s).part = s.part := rfl
@[simp] theorem modAlm_pending (f : Almanac → Almanac) (s : State) : (modAlm f s).pending = s.pending := rfl
@[simp] theorem modAlm_regs (f : Almanac → Almanac) (s : State) : (modAlm f s).regs = s.regs := rfl
@[simp] theorem modAlm_free (f : Almanac → Almanac) (s : State) : (modAlm f s).free = s.free := rfl
@[simp] theorem modAlm_time (f : Almanac → Almanac) (s : State) : (modAlm f s).time = s.time := rfl
@[simp] theorem modAlm_teller (f : Almanac → Almanac) (s : State) : (modAlm f s).teller = s.teller := rfl
@[simp] theorem modAlm_power (f : Almanac → Almanac) (s : State) : (modAlm f s).power = s.power := rfl
@[simp] theorem modAlm_fifos (f : Almanac → Almanac) (s : State) : (modAlm f s).fifos = s.fifos := rfl
@[simp] theorem modAlm_protect (f : Almanac → Almanac) (s : State) : (modAlm f s).protect = s.protect := rfl
@[simp] theorem modAlm_vin (f : Almanac → Almanac) (s : State) : (modAlm f s).vin = s.vin := rfl
@[simp] theorem modAlm_record (f : Almanac → Almanac) (s : State) : (modAlm f s).record = s.record := rfl
@[simp] theorem modAlm_cfgA (f : Almanac → Almanac) (s : State) : (modAlm f s).cfgA = s.cfgA := rfl
@[simp] theorem modAlm_cfgB (f : Almanac → Almanac) (s : State) : (modAlm f s).cfgB = s.cfgB := rfl
@[simp] theorem modAlm_cmp (f : Almanac → Almanac) (s : State) : (modAlm f s).cmp = s.cmp := rfl
@[simp] theorem modAlm_ras (f : Almanac → Almanac) (s : State) : (modAlm f s).ras = s.ras := rfl
@[simp] theorem modAlm_fxm (f : Almanac → Almanac) (s : State) : (modAlm f s).fxm = s.fxm := rfl
@[simp] theorem modAlm_pho (f : Almanac → Almanac) (s : State) : (modAlm f s).pho = s.pho := rfl
@[simp] theorem modAlm_pool (f : Almanac → Almanac) (s : State) : (modAlm f s).pool = s.pool := rfl
@[simp] theorem modAlm_lanes (f : Almanac → Almanac) (s : State) : (modAlm f s).lanes = s.lanes := rfl
@[simp] theorem modAlm_lamps (f : Almanac → Almanac) (s : State) : (modAlm f s).lamps = s.lamps := rfl
@[simp] theorem modAlm_mac (f : Almanac → Almanac) (s : State) : (modAlm f s).mac = s.mac := rfl
@[simp] theorem modAlm_pkt (f : Almanac → Almanac) (s : State) : (modAlm f s).pkt = s.pkt := rfl
@[simp] theorem modAlm_dmx (f : Almanac → Almanac) (s : State) : (modAlm f s).dmx = s.dmx := rfl
@[simp] theorem modAlm_rad (f : Almanac → Almanac) (s : State) : (modAlm f s).rad = s.rad := rfl
@[simp] theorem modAlm_esc (f : Almanac → Almanac) (s : State) : (modAlm f s).esc = s.esc := rfl
@[simp] theorem modAlm_map (f : Almanac → Almanac) (s : State) : (modAlm f s).map = s.map := rfl
@[simp] theorem modAlm_cal (f : Almanac → Almanac) (s : State) : (modAlm f s).cal = s.cal := rfl
@[simp] theorem modAlm_vlt (f : Almanac → Almanac) (s : State) : (modAlm f s).vlt = s.vlt := rfl
@[simp] theorem modAlm_lgr (f : Almanac → Almanac) (s : State) : (modAlm f s).lgr = s.lgr := rfl

/-! modSrc -/

@[simp] theorem modSrc_part (i : Nat) (f : Source → Source) (s : State) : (modSrc i f s).part = s.part := rfl
@[simp] theorem modSrc_pending (i : Nat) (f : Source → Source) (s : State) : (modSrc i f s).pending = s.pending := rfl
@[simp] theorem modSrc_regs (i : Nat) (f : Source → Source) (s : State) : (modSrc i f s).regs = s.regs := rfl
@[simp] theorem modSrc_free (i : Nat) (f : Source → Source) (s : State) : (modSrc i f s).free = s.free := rfl
@[simp] theorem modSrc_time (i : Nat) (f : Source → Source) (s : State) : (modSrc i f s).time = s.time := rfl
@[simp] theorem modSrc_teller (i : Nat) (f : Source → Source) (s : State) : (modSrc i f s).teller = s.teller := rfl
@[simp] theorem modSrc_power (i : Nat) (f : Source → Source) (s : State) : (modSrc i f s).power = s.power := rfl
@[simp] theorem modSrc_alm (i : Nat) (f : Source → Source) (s : State) : (modSrc i f s).alm = s.alm := rfl
@[simp] theorem modSrc_fifos (i : Nat) (f : Source → Source) (s : State) : (modSrc i f s).fifos = s.fifos := rfl
@[simp] theorem modSrc_protect (i : Nat) (f : Source → Source) (s : State) : (modSrc i f s).protect = s.protect := rfl
@[simp] theorem modSrc_record (i : Nat) (f : Source → Source) (s : State) : (modSrc i f s).record = s.record := rfl
@[simp] theorem modSrc_cfgA (i : Nat) (f : Source → Source) (s : State) : (modSrc i f s).cfgA = s.cfgA := rfl
@[simp] theorem modSrc_cfgB (i : Nat) (f : Source → Source) (s : State) : (modSrc i f s).cfgB = s.cfgB := rfl
@[simp] theorem modSrc_cmp (i : Nat) (f : Source → Source) (s : State) : (modSrc i f s).cmp = s.cmp := rfl
@[simp] theorem modSrc_ras (i : Nat) (f : Source → Source) (s : State) : (modSrc i f s).ras = s.ras := rfl
@[simp] theorem modSrc_fxm (i : Nat) (f : Source → Source) (s : State) : (modSrc i f s).fxm = s.fxm := rfl
@[simp] theorem modSrc_pho (i : Nat) (f : Source → Source) (s : State) : (modSrc i f s).pho = s.pho := rfl
@[simp] theorem modSrc_pool (i : Nat) (f : Source → Source) (s : State) : (modSrc i f s).pool = s.pool := rfl
@[simp] theorem modSrc_lanes (i : Nat) (f : Source → Source) (s : State) : (modSrc i f s).lanes = s.lanes := rfl
@[simp] theorem modSrc_lamps (i : Nat) (f : Source → Source) (s : State) : (modSrc i f s).lamps = s.lamps := rfl
@[simp] theorem modSrc_mac (i : Nat) (f : Source → Source) (s : State) : (modSrc i f s).mac = s.mac := rfl
@[simp] theorem modSrc_pkt (i : Nat) (f : Source → Source) (s : State) : (modSrc i f s).pkt = s.pkt := rfl
@[simp] theorem modSrc_dmx (i : Nat) (f : Source → Source) (s : State) : (modSrc i f s).dmx = s.dmx := rfl
@[simp] theorem modSrc_rad (i : Nat) (f : Source → Source) (s : State) : (modSrc i f s).rad = s.rad := rfl
@[simp] theorem modSrc_esc (i : Nat) (f : Source → Source) (s : State) : (modSrc i f s).esc = s.esc := rfl
@[simp] theorem modSrc_map (i : Nat) (f : Source → Source) (s : State) : (modSrc i f s).map = s.map := rfl
@[simp] theorem modSrc_cal (i : Nat) (f : Source → Source) (s : State) : (modSrc i f s).cal = s.cal := rfl
@[simp] theorem modSrc_vlt (i : Nat) (f : Source → Source) (s : State) : (modSrc i f s).vlt = s.vlt := rfl
@[simp] theorem modSrc_lgr (i : Nat) (f : Source → Source) (s : State) : (modSrc i f s).lgr = s.lgr := rfl

/-! modLayer -/

@[simp] theorem modLayer_part (l : Nat) (f : Layer → Layer) (s : State) : (modLayer l f s).part = s.part := rfl
@[simp] theorem modLayer_pending (l : Nat) (f : Layer → Layer) (s : State) : (modLayer l f s).pending = s.pending := rfl
@[simp] theorem modLayer_regs (l : Nat) (f : Layer → Layer) (s : State) : (modLayer l f s).regs = s.regs := rfl
@[simp] theorem modLayer_free (l : Nat) (f : Layer → Layer) (s : State) : (modLayer l f s).free = s.free := rfl
@[simp] theorem modLayer_time (l : Nat) (f : Layer → Layer) (s : State) : (modLayer l f s).time = s.time := rfl
@[simp] theorem modLayer_teller (l : Nat) (f : Layer → Layer) (s : State) : (modLayer l f s).teller = s.teller := rfl
@[simp] theorem modLayer_power (l : Nat) (f : Layer → Layer) (s : State) : (modLayer l f s).power = s.power := rfl
@[simp] theorem modLayer_alm (l : Nat) (f : Layer → Layer) (s : State) : (modLayer l f s).alm = s.alm := rfl
@[simp] theorem modLayer_fifos (l : Nat) (f : Layer → Layer) (s : State) : (modLayer l f s).fifos = s.fifos := rfl
@[simp] theorem modLayer_protect (l : Nat) (f : Layer → Layer) (s : State) : (modLayer l f s).protect = s.protect := rfl
@[simp] theorem modLayer_record (l : Nat) (f : Layer → Layer) (s : State) : (modLayer l f s).record = s.record := rfl
@[simp] theorem modLayer_cfgA (l : Nat) (f : Layer → Layer) (s : State) : (modLayer l f s).cfgA = s.cfgA := rfl
@[simp] theorem modLayer_cfgB (l : Nat) (f : Layer → Layer) (s : State) : (modLayer l f s).cfgB = s.cfgB := rfl
@[simp] theorem modLayer_cmp (l : Nat) (f : Layer → Layer) (s : State) : (modLayer l f s).cmp = s.cmp := rfl
@[simp] theorem modLayer_ras (l : Nat) (f : Layer → Layer) (s : State) : (modLayer l f s).ras = s.ras := rfl
@[simp] theorem modLayer_fxm (l : Nat) (f : Layer → Layer) (s : State) : (modLayer l f s).fxm = s.fxm := rfl
@[simp] theorem modLayer_pho (l : Nat) (f : Layer → Layer) (s : State) : (modLayer l f s).pho = s.pho := rfl
@[simp] theorem modLayer_pool (l : Nat) (f : Layer → Layer) (s : State) : (modLayer l f s).pool = s.pool := rfl
@[simp] theorem modLayer_lanes (l : Nat) (f : Layer → Layer) (s : State) : (modLayer l f s).lanes = s.lanes := rfl
@[simp] theorem modLayer_lamps (l : Nat) (f : Layer → Layer) (s : State) : (modLayer l f s).lamps = s.lamps := rfl
@[simp] theorem modLayer_mac (l : Nat) (f : Layer → Layer) (s : State) : (modLayer l f s).mac = s.mac := rfl
@[simp] theorem modLayer_pkt (l : Nat) (f : Layer → Layer) (s : State) : (modLayer l f s).pkt = s.pkt := rfl
@[simp] theorem modLayer_dmx (l : Nat) (f : Layer → Layer) (s : State) : (modLayer l f s).dmx = s.dmx := rfl
@[simp] theorem modLayer_rad (l : Nat) (f : Layer → Layer) (s : State) : (modLayer l f s).rad = s.rad := rfl
@[simp] theorem modLayer_esc (l : Nat) (f : Layer → Layer) (s : State) : (modLayer l f s).esc = s.esc := rfl
@[simp] theorem modLayer_map (l : Nat) (f : Layer → Layer) (s : State) : (modLayer l f s).map = s.map := rfl
@[simp] theorem modLayer_cal (l : Nat) (f : Layer → Layer) (s : State) : (modLayer l f s).cal = s.cal := rfl
@[simp] theorem modLayer_vlt (l : Nat) (f : Layer → Layer) (s : State) : (modLayer l f s).vlt = s.vlt := rfl
@[simp] theorem modLayer_lgr (l : Nat) (f : Layer → Layer) (s : State) : (modLayer l f s).lgr = s.lgr := rfl

/-! modCmp -/

@[simp] theorem modCmp_part (f : Cmp → Cmp) (s : State) : (modCmp f s).part = s.part := rfl
@[simp] theorem modCmp_pending (f : Cmp → Cmp) (s : State) : (modCmp f s).pending = s.pending := rfl
@[simp] theorem modCmp_regs (f : Cmp → Cmp) (s : State) : (modCmp f s).regs = s.regs := rfl
@[simp] theorem modCmp_free (f : Cmp → Cmp) (s : State) : (modCmp f s).free = s.free := rfl
@[simp] theorem modCmp_time (f : Cmp → Cmp) (s : State) : (modCmp f s).time = s.time := rfl
@[simp] theorem modCmp_teller (f : Cmp → Cmp) (s : State) : (modCmp f s).teller = s.teller := rfl
@[simp] theorem modCmp_power (f : Cmp → Cmp) (s : State) : (modCmp f s).power = s.power := rfl
@[simp] theorem modCmp_alm (f : Cmp → Cmp) (s : State) : (modCmp f s).alm = s.alm := rfl
@[simp] theorem modCmp_fifos (f : Cmp → Cmp) (s : State) : (modCmp f s).fifos = s.fifos := rfl
@[simp] theorem modCmp_protect (f : Cmp → Cmp) (s : State) : (modCmp f s).protect = s.protect := rfl
@[simp] theorem modCmp_vin (f : Cmp → Cmp) (s : State) : (modCmp f s).vin = s.vin := rfl
@[simp] theorem modCmp_record (f : Cmp → Cmp) (s : State) : (modCmp f s).record = s.record := rfl
@[simp] theorem modCmp_cfgA (f : Cmp → Cmp) (s : State) : (modCmp f s).cfgA = s.cfgA := rfl
@[simp] theorem modCmp_cfgB (f : Cmp → Cmp) (s : State) : (modCmp f s).cfgB = s.cfgB := rfl
@[simp] theorem modCmp_ras (f : Cmp → Cmp) (s : State) : (modCmp f s).ras = s.ras := rfl
@[simp] theorem modCmp_fxm (f : Cmp → Cmp) (s : State) : (modCmp f s).fxm = s.fxm := rfl
@[simp] theorem modCmp_pho (f : Cmp → Cmp) (s : State) : (modCmp f s).pho = s.pho := rfl
@[simp] theorem modCmp_pool (f : Cmp → Cmp) (s : State) : (modCmp f s).pool = s.pool := rfl
@[simp] theorem modCmp_lanes (f : Cmp → Cmp) (s : State) : (modCmp f s).lanes = s.lanes := rfl
@[simp] theorem modCmp_lamps (f : Cmp → Cmp) (s : State) : (modCmp f s).lamps = s.lamps := rfl
@[simp] theorem modCmp_mac (f : Cmp → Cmp) (s : State) : (modCmp f s).mac = s.mac := rfl
@[simp] theorem modCmp_pkt (f : Cmp → Cmp) (s : State) : (modCmp f s).pkt = s.pkt := rfl
@[simp] theorem modCmp_dmx (f : Cmp → Cmp) (s : State) : (modCmp f s).dmx = s.dmx := rfl
@[simp] theorem modCmp_rad (f : Cmp → Cmp) (s : State) : (modCmp f s).rad = s.rad := rfl
@[simp] theorem modCmp_esc (f : Cmp → Cmp) (s : State) : (modCmp f s).esc = s.esc := rfl
@[simp] theorem modCmp_map (f : Cmp → Cmp) (s : State) : (modCmp f s).map = s.map := rfl
@[simp] theorem modCmp_cal (f : Cmp → Cmp) (s : State) : (modCmp f s).cal = s.cal := rfl
@[simp] theorem modCmp_vlt (f : Cmp → Cmp) (s : State) : (modCmp f s).vlt = s.vlt := rfl
@[simp] theorem modCmp_lgr (f : Cmp → Cmp) (s : State) : (modCmp f s).lgr = s.lgr := rfl

/-! modRas -/

@[simp] theorem modRas_part (f : Ras → Ras) (s : State) : (modRas f s).part = s.part := rfl
@[simp] theorem modRas_pending (f : Ras → Ras) (s : State) : (modRas f s).pending = s.pending := rfl
@[simp] theorem modRas_regs (f : Ras → Ras) (s : State) : (modRas f s).regs = s.regs := rfl
@[simp] theorem modRas_free (f : Ras → Ras) (s : State) : (modRas f s).free = s.free := rfl
@[simp] theorem modRas_time (f : Ras → Ras) (s : State) : (modRas f s).time = s.time := rfl
@[simp] theorem modRas_teller (f : Ras → Ras) (s : State) : (modRas f s).teller = s.teller := rfl
@[simp] theorem modRas_power (f : Ras → Ras) (s : State) : (modRas f s).power = s.power := rfl
@[simp] theorem modRas_alm (f : Ras → Ras) (s : State) : (modRas f s).alm = s.alm := rfl
@[simp] theorem modRas_fifos (f : Ras → Ras) (s : State) : (modRas f s).fifos = s.fifos := rfl
@[simp] theorem modRas_protect (f : Ras → Ras) (s : State) : (modRas f s).protect = s.protect := rfl
@[simp] theorem modRas_vin (f : Ras → Ras) (s : State) : (modRas f s).vin = s.vin := rfl
@[simp] theorem modRas_record (f : Ras → Ras) (s : State) : (modRas f s).record = s.record := rfl
@[simp] theorem modRas_cfgA (f : Ras → Ras) (s : State) : (modRas f s).cfgA = s.cfgA := rfl
@[simp] theorem modRas_cfgB (f : Ras → Ras) (s : State) : (modRas f s).cfgB = s.cfgB := rfl
@[simp] theorem modRas_cmp (f : Ras → Ras) (s : State) : (modRas f s).cmp = s.cmp := rfl
@[simp] theorem modRas_fxm (f : Ras → Ras) (s : State) : (modRas f s).fxm = s.fxm := rfl
@[simp] theorem modRas_pho (f : Ras → Ras) (s : State) : (modRas f s).pho = s.pho := rfl
@[simp] theorem modRas_pool (f : Ras → Ras) (s : State) : (modRas f s).pool = s.pool := rfl
@[simp] theorem modRas_lanes (f : Ras → Ras) (s : State) : (modRas f s).lanes = s.lanes := rfl
@[simp] theorem modRas_lamps (f : Ras → Ras) (s : State) : (modRas f s).lamps = s.lamps := rfl
@[simp] theorem modRas_mac (f : Ras → Ras) (s : State) : (modRas f s).mac = s.mac := rfl
@[simp] theorem modRas_pkt (f : Ras → Ras) (s : State) : (modRas f s).pkt = s.pkt := rfl
@[simp] theorem modRas_dmx (f : Ras → Ras) (s : State) : (modRas f s).dmx = s.dmx := rfl
@[simp] theorem modRas_rad (f : Ras → Ras) (s : State) : (modRas f s).rad = s.rad := rfl
@[simp] theorem modRas_esc (f : Ras → Ras) (s : State) : (modRas f s).esc = s.esc := rfl
@[simp] theorem modRas_map (f : Ras → Ras) (s : State) : (modRas f s).map = s.map := rfl
@[simp] theorem modRas_cal (f : Ras → Ras) (s : State) : (modRas f s).cal = s.cal := rfl
@[simp] theorem modRas_vlt (f : Ras → Ras) (s : State) : (modRas f s).vlt = s.vlt := rfl
@[simp] theorem modRas_lgr (f : Ras → Ras) (s : State) : (modRas f s).lgr = s.lgr := rfl

/-! modFxm -/

@[simp] theorem modFxm_part (f : Fxm → Fxm) (s : State) : (modFxm f s).part = s.part := rfl
@[simp] theorem modFxm_pending (f : Fxm → Fxm) (s : State) : (modFxm f s).pending = s.pending := rfl
@[simp] theorem modFxm_regs (f : Fxm → Fxm) (s : State) : (modFxm f s).regs = s.regs := rfl
@[simp] theorem modFxm_free (f : Fxm → Fxm) (s : State) : (modFxm f s).free = s.free := rfl
@[simp] theorem modFxm_time (f : Fxm → Fxm) (s : State) : (modFxm f s).time = s.time := rfl
@[simp] theorem modFxm_teller (f : Fxm → Fxm) (s : State) : (modFxm f s).teller = s.teller := rfl
@[simp] theorem modFxm_power (f : Fxm → Fxm) (s : State) : (modFxm f s).power = s.power := rfl
@[simp] theorem modFxm_alm (f : Fxm → Fxm) (s : State) : (modFxm f s).alm = s.alm := rfl
@[simp] theorem modFxm_fifos (f : Fxm → Fxm) (s : State) : (modFxm f s).fifos = s.fifos := rfl
@[simp] theorem modFxm_protect (f : Fxm → Fxm) (s : State) : (modFxm f s).protect = s.protect := rfl
@[simp] theorem modFxm_vin (f : Fxm → Fxm) (s : State) : (modFxm f s).vin = s.vin := rfl
@[simp] theorem modFxm_record (f : Fxm → Fxm) (s : State) : (modFxm f s).record = s.record := rfl
@[simp] theorem modFxm_cfgA (f : Fxm → Fxm) (s : State) : (modFxm f s).cfgA = s.cfgA := rfl
@[simp] theorem modFxm_cfgB (f : Fxm → Fxm) (s : State) : (modFxm f s).cfgB = s.cfgB := rfl
@[simp] theorem modFxm_cmp (f : Fxm → Fxm) (s : State) : (modFxm f s).cmp = s.cmp := rfl
@[simp] theorem modFxm_ras (f : Fxm → Fxm) (s : State) : (modFxm f s).ras = s.ras := rfl
@[simp] theorem modFxm_pho (f : Fxm → Fxm) (s : State) : (modFxm f s).pho = s.pho := rfl
@[simp] theorem modFxm_pool (f : Fxm → Fxm) (s : State) : (modFxm f s).pool = s.pool := rfl
@[simp] theorem modFxm_lanes (f : Fxm → Fxm) (s : State) : (modFxm f s).lanes = s.lanes := rfl
@[simp] theorem modFxm_lamps (f : Fxm → Fxm) (s : State) : (modFxm f s).lamps = s.lamps := rfl
@[simp] theorem modFxm_mac (f : Fxm → Fxm) (s : State) : (modFxm f s).mac = s.mac := rfl
@[simp] theorem modFxm_pkt (f : Fxm → Fxm) (s : State) : (modFxm f s).pkt = s.pkt := rfl
@[simp] theorem modFxm_dmx (f : Fxm → Fxm) (s : State) : (modFxm f s).dmx = s.dmx := rfl
@[simp] theorem modFxm_rad (f : Fxm → Fxm) (s : State) : (modFxm f s).rad = s.rad := rfl
@[simp] theorem modFxm_esc (f : Fxm → Fxm) (s : State) : (modFxm f s).esc = s.esc := rfl
@[simp] theorem modFxm_map (f : Fxm → Fxm) (s : State) : (modFxm f s).map = s.map := rfl
@[simp] theorem modFxm_cal (f : Fxm → Fxm) (s : State) : (modFxm f s).cal = s.cal := rfl
@[simp] theorem modFxm_vlt (f : Fxm → Fxm) (s : State) : (modFxm f s).vlt = s.vlt := rfl
@[simp] theorem modFxm_lgr (f : Fxm → Fxm) (s : State) : (modFxm f s).lgr = s.lgr := rfl

/-! modPho -/

@[simp] theorem modPho_part (f : Pho → Pho) (s : State) : (modPho f s).part = s.part := rfl
@[simp] theorem modPho_pending (f : Pho → Pho) (s : State) : (modPho f s).pending = s.pending := rfl
@[simp] theorem modPho_regs (f : Pho → Pho) (s : State) : (modPho f s).regs = s.regs := rfl
@[simp] theorem modPho_free (f : Pho → Pho) (s : State) : (modPho f s).free = s.free := rfl
@[simp] theorem modPho_time (f : Pho → Pho) (s : State) : (modPho f s).time = s.time := rfl
@[simp] theorem modPho_teller (f : Pho → Pho) (s : State) : (modPho f s).teller = s.teller := rfl
@[simp] theorem modPho_power (f : Pho → Pho) (s : State) : (modPho f s).power = s.power := rfl
@[simp] theorem modPho_alm (f : Pho → Pho) (s : State) : (modPho f s).alm = s.alm := rfl
@[simp] theorem modPho_fifos (f : Pho → Pho) (s : State) : (modPho f s).fifos = s.fifos := rfl
@[simp] theorem modPho_protect (f : Pho → Pho) (s : State) : (modPho f s).protect = s.protect := rfl
@[simp] theorem modPho_vin (f : Pho → Pho) (s : State) : (modPho f s).vin = s.vin := rfl
@[simp] theorem modPho_record (f : Pho → Pho) (s : State) : (modPho f s).record = s.record := rfl
@[simp] theorem modPho_cfgA (f : Pho → Pho) (s : State) : (modPho f s).cfgA = s.cfgA := rfl
@[simp] theorem modPho_cfgB (f : Pho → Pho) (s : State) : (modPho f s).cfgB = s.cfgB := rfl
@[simp] theorem modPho_cmp (f : Pho → Pho) (s : State) : (modPho f s).cmp = s.cmp := rfl
@[simp] theorem modPho_ras (f : Pho → Pho) (s : State) : (modPho f s).ras = s.ras := rfl
@[simp] theorem modPho_fxm (f : Pho → Pho) (s : State) : (modPho f s).fxm = s.fxm := rfl
@[simp] theorem modPho_pool (f : Pho → Pho) (s : State) : (modPho f s).pool = s.pool := rfl
@[simp] theorem modPho_lanes (f : Pho → Pho) (s : State) : (modPho f s).lanes = s.lanes := rfl
@[simp] theorem modPho_lamps (f : Pho → Pho) (s : State) : (modPho f s).lamps = s.lamps := rfl
@[simp] theorem modPho_mac (f : Pho → Pho) (s : State) : (modPho f s).mac = s.mac := rfl
@[simp] theorem modPho_pkt (f : Pho → Pho) (s : State) : (modPho f s).pkt = s.pkt := rfl
@[simp] theorem modPho_dmx (f : Pho → Pho) (s : State) : (modPho f s).dmx = s.dmx := rfl
@[simp] theorem modPho_rad (f : Pho → Pho) (s : State) : (modPho f s).rad = s.rad := rfl
@[simp] theorem modPho_esc (f : Pho → Pho) (s : State) : (modPho f s).esc = s.esc := rfl
@[simp] theorem modPho_map (f : Pho → Pho) (s : State) : (modPho f s).map = s.map := rfl
@[simp] theorem modPho_cal (f : Pho → Pho) (s : State) : (modPho f s).cal = s.cal := rfl
@[simp] theorem modPho_vlt (f : Pho → Pho) (s : State) : (modPho f s).vlt = s.vlt := rfl
@[simp] theorem modPho_lgr (f : Pho → Pho) (s : State) : (modPho f s).lgr = s.lgr := rfl

/-! modFifo -/

@[simp] theorem modFifo_part (q : Nat) (f : Fifo → Fifo) (s : State) : (modFifo q f s).part = s.part := rfl
@[simp] theorem modFifo_pending (q : Nat) (f : Fifo → Fifo) (s : State) : (modFifo q f s).pending = s.pending := rfl
@[simp] theorem modFifo_regs (q : Nat) (f : Fifo → Fifo) (s : State) : (modFifo q f s).regs = s.regs := rfl
@[simp] theorem modFifo_free (q : Nat) (f : Fifo → Fifo) (s : State) : (modFifo q f s).free = s.free := rfl
@[simp] theorem modFifo_time (q : Nat) (f : Fifo → Fifo) (s : State) : (modFifo q f s).time = s.time := rfl
@[simp] theorem modFifo_teller (q : Nat) (f : Fifo → Fifo) (s : State) : (modFifo q f s).teller = s.teller := rfl
@[simp] theorem modFifo_power (q : Nat) (f : Fifo → Fifo) (s : State) : (modFifo q f s).power = s.power := rfl
@[simp] theorem modFifo_alm (q : Nat) (f : Fifo → Fifo) (s : State) : (modFifo q f s).alm = s.alm := rfl
@[simp] theorem modFifo_protect (q : Nat) (f : Fifo → Fifo) (s : State) : (modFifo q f s).protect = s.protect := rfl
@[simp] theorem modFifo_vin (q : Nat) (f : Fifo → Fifo) (s : State) : (modFifo q f s).vin = s.vin := rfl
@[simp] theorem modFifo_record (q : Nat) (f : Fifo → Fifo) (s : State) : (modFifo q f s).record = s.record := rfl
@[simp] theorem modFifo_cfgA (q : Nat) (f : Fifo → Fifo) (s : State) : (modFifo q f s).cfgA = s.cfgA := rfl
@[simp] theorem modFifo_cfgB (q : Nat) (f : Fifo → Fifo) (s : State) : (modFifo q f s).cfgB = s.cfgB := rfl
@[simp] theorem modFifo_cmp (q : Nat) (f : Fifo → Fifo) (s : State) : (modFifo q f s).cmp = s.cmp := rfl
@[simp] theorem modFifo_ras (q : Nat) (f : Fifo → Fifo) (s : State) : (modFifo q f s).ras = s.ras := rfl
@[simp] theorem modFifo_fxm (q : Nat) (f : Fifo → Fifo) (s : State) : (modFifo q f s).fxm = s.fxm := rfl
@[simp] theorem modFifo_pho (q : Nat) (f : Fifo → Fifo) (s : State) : (modFifo q f s).pho = s.pho := rfl
@[simp] theorem modFifo_pool (q : Nat) (f : Fifo → Fifo) (s : State) : (modFifo q f s).pool = s.pool := rfl
@[simp] theorem modFifo_lanes (q : Nat) (f : Fifo → Fifo) (s : State) : (modFifo q f s).lanes = s.lanes := rfl
@[simp] theorem modFifo_lamps (q : Nat) (f : Fifo → Fifo) (s : State) : (modFifo q f s).lamps = s.lamps := rfl
@[simp] theorem modFifo_mac (q : Nat) (f : Fifo → Fifo) (s : State) : (modFifo q f s).mac = s.mac := rfl
@[simp] theorem modFifo_pkt (q : Nat) (f : Fifo → Fifo) (s : State) : (modFifo q f s).pkt = s.pkt := rfl
@[simp] theorem modFifo_dmx (q : Nat) (f : Fifo → Fifo) (s : State) : (modFifo q f s).dmx = s.dmx := rfl
@[simp] theorem modFifo_rad (q : Nat) (f : Fifo → Fifo) (s : State) : (modFifo q f s).rad = s.rad := rfl
@[simp] theorem modFifo_esc (q : Nat) (f : Fifo → Fifo) (s : State) : (modFifo q f s).esc = s.esc := rfl
@[simp] theorem modFifo_map (q : Nat) (f : Fifo → Fifo) (s : State) : (modFifo q f s).map = s.map := rfl
@[simp] theorem modFifo_cal (q : Nat) (f : Fifo → Fifo) (s : State) : (modFifo q f s).cal = s.cal := rfl
@[simp] theorem modFifo_vlt (q : Nat) (f : Fifo → Fifo) (s : State) : (modFifo q f s).vlt = s.vlt := rfl
@[simp] theorem modFifo_lgr (q : Nat) (f : Fifo → Fifo) (s : State) : (modFifo q f s).lgr = s.lgr := rfl

/-! modProtect -/

@[simp] theorem modProtect_part (f : Protect → Protect) (s : State) : (modProtect f s).part = s.part := rfl
@[simp] theorem modProtect_pending (f : Protect → Protect) (s : State) : (modProtect f s).pending = s.pending := rfl
@[simp] theorem modProtect_regs (f : Protect → Protect) (s : State) : (modProtect f s).regs = s.regs := rfl
@[simp] theorem modProtect_free (f : Protect → Protect) (s : State) : (modProtect f s).free = s.free := rfl
@[simp] theorem modProtect_time (f : Protect → Protect) (s : State) : (modProtect f s).time = s.time := rfl
@[simp] theorem modProtect_teller (f : Protect → Protect) (s : State) : (modProtect f s).teller = s.teller := rfl
@[simp] theorem modProtect_power (f : Protect → Protect) (s : State) : (modProtect f s).power = s.power := rfl
@[simp] theorem modProtect_alm (f : Protect → Protect) (s : State) : (modProtect f s).alm = s.alm := rfl
@[simp] theorem modProtect_fifos (f : Protect → Protect) (s : State) : (modProtect f s).fifos = s.fifos := rfl
@[simp] theorem modProtect_vin (f : Protect → Protect) (s : State) : (modProtect f s).vin = s.vin := rfl
@[simp] theorem modProtect_record (f : Protect → Protect) (s : State) : (modProtect f s).record = s.record := rfl
@[simp] theorem modProtect_cfgA (f : Protect → Protect) (s : State) : (modProtect f s).cfgA = s.cfgA := rfl
@[simp] theorem modProtect_cfgB (f : Protect → Protect) (s : State) : (modProtect f s).cfgB = s.cfgB := rfl
@[simp] theorem modProtect_cmp (f : Protect → Protect) (s : State) : (modProtect f s).cmp = s.cmp := rfl
@[simp] theorem modProtect_ras (f : Protect → Protect) (s : State) : (modProtect f s).ras = s.ras := rfl
@[simp] theorem modProtect_fxm (f : Protect → Protect) (s : State) : (modProtect f s).fxm = s.fxm := rfl
@[simp] theorem modProtect_pho (f : Protect → Protect) (s : State) : (modProtect f s).pho = s.pho := rfl
@[simp] theorem modProtect_pool (f : Protect → Protect) (s : State) : (modProtect f s).pool = s.pool := rfl
@[simp] theorem modProtect_lanes (f : Protect → Protect) (s : State) : (modProtect f s).lanes = s.lanes := rfl
@[simp] theorem modProtect_lamps (f : Protect → Protect) (s : State) : (modProtect f s).lamps = s.lamps := rfl
@[simp] theorem modProtect_mac (f : Protect → Protect) (s : State) : (modProtect f s).mac = s.mac := rfl
@[simp] theorem modProtect_pkt (f : Protect → Protect) (s : State) : (modProtect f s).pkt = s.pkt := rfl
@[simp] theorem modProtect_dmx (f : Protect → Protect) (s : State) : (modProtect f s).dmx = s.dmx := rfl
@[simp] theorem modProtect_rad (f : Protect → Protect) (s : State) : (modProtect f s).rad = s.rad := rfl
@[simp] theorem modProtect_esc (f : Protect → Protect) (s : State) : (modProtect f s).esc = s.esc := rfl
@[simp] theorem modProtect_map (f : Protect → Protect) (s : State) : (modProtect f s).map = s.map := rfl
@[simp] theorem modProtect_cal (f : Protect → Protect) (s : State) : (modProtect f s).cal = s.cal := rfl
@[simp] theorem modProtect_vlt (f : Protect → Protect) (s : State) : (modProtect f s).vlt = s.vlt := rfl
@[simp] theorem modProtect_lgr (f : Protect → Protect) (s : State) : (modProtect f s).lgr = s.lgr := rfl

/-! modPool -/

@[simp] theorem modPool_part (f : Pool → Pool) (s : State) : (modPool f s).part = s.part := rfl
@[simp] theorem modPool_pending (f : Pool → Pool) (s : State) : (modPool f s).pending = s.pending := rfl
@[simp] theorem modPool_regs (f : Pool → Pool) (s : State) : (modPool f s).regs = s.regs := rfl
@[simp] theorem modPool_free (f : Pool → Pool) (s : State) : (modPool f s).free = s.free := rfl
@[simp] theorem modPool_time (f : Pool → Pool) (s : State) : (modPool f s).time = s.time := rfl
@[simp] theorem modPool_teller (f : Pool → Pool) (s : State) : (modPool f s).teller = s.teller := rfl
@[simp] theorem modPool_power (f : Pool → Pool) (s : State) : (modPool f s).power = s.power := rfl
@[simp] theorem modPool_alm (f : Pool → Pool) (s : State) : (modPool f s).alm = s.alm := rfl
@[simp] theorem modPool_fifos (f : Pool → Pool) (s : State) : (modPool f s).fifos = s.fifos := rfl
@[simp] theorem modPool_protect (f : Pool → Pool) (s : State) : (modPool f s).protect = s.protect := rfl
@[simp] theorem modPool_vin (f : Pool → Pool) (s : State) : (modPool f s).vin = s.vin := rfl
@[simp] theorem modPool_record (f : Pool → Pool) (s : State) : (modPool f s).record = s.record := rfl
@[simp] theorem modPool_cfgA (f : Pool → Pool) (s : State) : (modPool f s).cfgA = s.cfgA := rfl
@[simp] theorem modPool_cfgB (f : Pool → Pool) (s : State) : (modPool f s).cfgB = s.cfgB := rfl
@[simp] theorem modPool_cmp (f : Pool → Pool) (s : State) : (modPool f s).cmp = s.cmp := rfl
@[simp] theorem modPool_ras (f : Pool → Pool) (s : State) : (modPool f s).ras = s.ras := rfl
@[simp] theorem modPool_fxm (f : Pool → Pool) (s : State) : (modPool f s).fxm = s.fxm := rfl
@[simp] theorem modPool_pho (f : Pool → Pool) (s : State) : (modPool f s).pho = s.pho := rfl
@[simp] theorem modPool_lanes (f : Pool → Pool) (s : State) : (modPool f s).lanes = s.lanes := rfl
@[simp] theorem modPool_lamps (f : Pool → Pool) (s : State) : (modPool f s).lamps = s.lamps := rfl
@[simp] theorem modPool_mac (f : Pool → Pool) (s : State) : (modPool f s).mac = s.mac := rfl
@[simp] theorem modPool_pkt (f : Pool → Pool) (s : State) : (modPool f s).pkt = s.pkt := rfl
@[simp] theorem modPool_dmx (f : Pool → Pool) (s : State) : (modPool f s).dmx = s.dmx := rfl
@[simp] theorem modPool_rad (f : Pool → Pool) (s : State) : (modPool f s).rad = s.rad := rfl
@[simp] theorem modPool_esc (f : Pool → Pool) (s : State) : (modPool f s).esc = s.esc := rfl
@[simp] theorem modPool_map (f : Pool → Pool) (s : State) : (modPool f s).map = s.map := rfl
@[simp] theorem modPool_cal (f : Pool → Pool) (s : State) : (modPool f s).cal = s.cal := rfl
@[simp] theorem modPool_vlt (f : Pool → Pool) (s : State) : (modPool f s).vlt = s.vlt := rfl
@[simp] theorem modPool_lgr (f : Pool → Pool) (s : State) : (modPool f s).lgr = s.lgr := rfl

/-! modLane -/

@[simp] theorem modLane_part (l : Nat) (f : Lane → Lane) (s : State) : (modLane l f s).part = s.part := rfl
@[simp] theorem modLane_pending (l : Nat) (f : Lane → Lane) (s : State) : (modLane l f s).pending = s.pending := rfl
@[simp] theorem modLane_regs (l : Nat) (f : Lane → Lane) (s : State) : (modLane l f s).regs = s.regs := rfl
@[simp] theorem modLane_free (l : Nat) (f : Lane → Lane) (s : State) : (modLane l f s).free = s.free := rfl
@[simp] theorem modLane_time (l : Nat) (f : Lane → Lane) (s : State) : (modLane l f s).time = s.time := rfl
@[simp] theorem modLane_teller (l : Nat) (f : Lane → Lane) (s : State) : (modLane l f s).teller = s.teller := rfl
@[simp] theorem modLane_power (l : Nat) (f : Lane → Lane) (s : State) : (modLane l f s).power = s.power := rfl
@[simp] theorem modLane_alm (l : Nat) (f : Lane → Lane) (s : State) : (modLane l f s).alm = s.alm := rfl
@[simp] theorem modLane_fifos (l : Nat) (f : Lane → Lane) (s : State) : (modLane l f s).fifos = s.fifos := rfl
@[simp] theorem modLane_protect (l : Nat) (f : Lane → Lane) (s : State) : (modLane l f s).protect = s.protect := rfl
@[simp] theorem modLane_vin (l : Nat) (f : Lane → Lane) (s : State) : (modLane l f s).vin = s.vin := rfl
@[simp] theorem modLane_record (l : Nat) (f : Lane → Lane) (s : State) : (modLane l f s).record = s.record := rfl
@[simp] theorem modLane_cfgA (l : Nat) (f : Lane → Lane) (s : State) : (modLane l f s).cfgA = s.cfgA := rfl
@[simp] theorem modLane_cfgB (l : Nat) (f : Lane → Lane) (s : State) : (modLane l f s).cfgB = s.cfgB := rfl
@[simp] theorem modLane_cmp (l : Nat) (f : Lane → Lane) (s : State) : (modLane l f s).cmp = s.cmp := rfl
@[simp] theorem modLane_ras (l : Nat) (f : Lane → Lane) (s : State) : (modLane l f s).ras = s.ras := rfl
@[simp] theorem modLane_fxm (l : Nat) (f : Lane → Lane) (s : State) : (modLane l f s).fxm = s.fxm := rfl
@[simp] theorem modLane_pho (l : Nat) (f : Lane → Lane) (s : State) : (modLane l f s).pho = s.pho := rfl
@[simp] theorem modLane_pool (l : Nat) (f : Lane → Lane) (s : State) : (modLane l f s).pool = s.pool := rfl
@[simp] theorem modLane_lamps (l : Nat) (f : Lane → Lane) (s : State) : (modLane l f s).lamps = s.lamps := rfl
@[simp] theorem modLane_mac (l : Nat) (f : Lane → Lane) (s : State) : (modLane l f s).mac = s.mac := rfl
@[simp] theorem modLane_pkt (l : Nat) (f : Lane → Lane) (s : State) : (modLane l f s).pkt = s.pkt := rfl
@[simp] theorem modLane_dmx (l : Nat) (f : Lane → Lane) (s : State) : (modLane l f s).dmx = s.dmx := rfl
@[simp] theorem modLane_rad (l : Nat) (f : Lane → Lane) (s : State) : (modLane l f s).rad = s.rad := rfl
@[simp] theorem modLane_esc (l : Nat) (f : Lane → Lane) (s : State) : (modLane l f s).esc = s.esc := rfl
@[simp] theorem modLane_map (l : Nat) (f : Lane → Lane) (s : State) : (modLane l f s).map = s.map := rfl
@[simp] theorem modLane_cal (l : Nat) (f : Lane → Lane) (s : State) : (modLane l f s).cal = s.cal := rfl
@[simp] theorem modLane_vlt (l : Nat) (f : Lane → Lane) (s : State) : (modLane l f s).vlt = s.vlt := rfl
@[simp] theorem modLane_lgr (l : Nat) (f : Lane → Lane) (s : State) : (modLane l f s).lgr = s.lgr := rfl

/-! modChip -/

@[simp] theorem modChip_part (l : Nat) (i : Nat) (f : ChipLink → ChipLink) (s : State) : (modChip l i f s).part = s.part := rfl
@[simp] theorem modChip_pending (l : Nat) (i : Nat) (f : ChipLink → ChipLink) (s : State) : (modChip l i f s).pending = s.pending := rfl
@[simp] theorem modChip_regs (l : Nat) (i : Nat) (f : ChipLink → ChipLink) (s : State) : (modChip l i f s).regs = s.regs := rfl
@[simp] theorem modChip_free (l : Nat) (i : Nat) (f : ChipLink → ChipLink) (s : State) : (modChip l i f s).free = s.free := rfl
@[simp] theorem modChip_time (l : Nat) (i : Nat) (f : ChipLink → ChipLink) (s : State) : (modChip l i f s).time = s.time := rfl
@[simp] theorem modChip_teller (l : Nat) (i : Nat) (f : ChipLink → ChipLink) (s : State) : (modChip l i f s).teller = s.teller := rfl
@[simp] theorem modChip_power (l : Nat) (i : Nat) (f : ChipLink → ChipLink) (s : State) : (modChip l i f s).power = s.power := rfl
@[simp] theorem modChip_alm (l : Nat) (i : Nat) (f : ChipLink → ChipLink) (s : State) : (modChip l i f s).alm = s.alm := rfl
@[simp] theorem modChip_fifos (l : Nat) (i : Nat) (f : ChipLink → ChipLink) (s : State) : (modChip l i f s).fifos = s.fifos := rfl
@[simp] theorem modChip_protect (l : Nat) (i : Nat) (f : ChipLink → ChipLink) (s : State) : (modChip l i f s).protect = s.protect := rfl
@[simp] theorem modChip_vin (l : Nat) (i : Nat) (f : ChipLink → ChipLink) (s : State) : (modChip l i f s).vin = s.vin := rfl
@[simp] theorem modChip_record (l : Nat) (i : Nat) (f : ChipLink → ChipLink) (s : State) : (modChip l i f s).record = s.record := rfl
@[simp] theorem modChip_cfgA (l : Nat) (i : Nat) (f : ChipLink → ChipLink) (s : State) : (modChip l i f s).cfgA = s.cfgA := rfl
@[simp] theorem modChip_cfgB (l : Nat) (i : Nat) (f : ChipLink → ChipLink) (s : State) : (modChip l i f s).cfgB = s.cfgB := rfl
@[simp] theorem modChip_cmp (l : Nat) (i : Nat) (f : ChipLink → ChipLink) (s : State) : (modChip l i f s).cmp = s.cmp := rfl
@[simp] theorem modChip_ras (l : Nat) (i : Nat) (f : ChipLink → ChipLink) (s : State) : (modChip l i f s).ras = s.ras := rfl
@[simp] theorem modChip_fxm (l : Nat) (i : Nat) (f : ChipLink → ChipLink) (s : State) : (modChip l i f s).fxm = s.fxm := rfl
@[simp] theorem modChip_pho (l : Nat) (i : Nat) (f : ChipLink → ChipLink) (s : State) : (modChip l i f s).pho = s.pho := rfl
@[simp] theorem modChip_pool (l : Nat) (i : Nat) (f : ChipLink → ChipLink) (s : State) : (modChip l i f s).pool = s.pool := rfl
@[simp] theorem modChip_lamps (l : Nat) (i : Nat) (f : ChipLink → ChipLink) (s : State) : (modChip l i f s).lamps = s.lamps := rfl
@[simp] theorem modChip_mac (l : Nat) (i : Nat) (f : ChipLink → ChipLink) (s : State) : (modChip l i f s).mac = s.mac := rfl
@[simp] theorem modChip_pkt (l : Nat) (i : Nat) (f : ChipLink → ChipLink) (s : State) : (modChip l i f s).pkt = s.pkt := rfl
@[simp] theorem modChip_dmx (l : Nat) (i : Nat) (f : ChipLink → ChipLink) (s : State) : (modChip l i f s).dmx = s.dmx := rfl
@[simp] theorem modChip_rad (l : Nat) (i : Nat) (f : ChipLink → ChipLink) (s : State) : (modChip l i f s).rad = s.rad := rfl
@[simp] theorem modChip_esc (l : Nat) (i : Nat) (f : ChipLink → ChipLink) (s : State) : (modChip l i f s).esc = s.esc := rfl
@[simp] theorem modChip_map (l : Nat) (i : Nat) (f : ChipLink → ChipLink) (s : State) : (modChip l i f s).map = s.map := rfl
@[simp] theorem modChip_cal (l : Nat) (i : Nat) (f : ChipLink → ChipLink) (s : State) : (modChip l i f s).cal = s.cal := rfl
@[simp] theorem modChip_vlt (l : Nat) (i : Nat) (f : ChipLink → ChipLink) (s : State) : (modChip l i f s).vlt = s.vlt := rfl
@[simp] theorem modChip_lgr (l : Nat) (i : Nat) (f : ChipLink → ChipLink) (s : State) : (modChip l i f s).lgr = s.lgr := rfl

/-! modLamps -/

@[simp] theorem modLamps_part (f : List LampEntry → List LampEntry) (s : State) : (modLamps f s).part = s.part := rfl
@[simp] theorem modLamps_pending (f : List LampEntry → List LampEntry) (s : State) : (modLamps f s).pending = s.pending := rfl
@[simp] theorem modLamps_regs (f : List LampEntry → List LampEntry) (s : State) : (modLamps f s).regs = s.regs := rfl
@[simp] theorem modLamps_free (f : List LampEntry → List LampEntry) (s : State) : (modLamps f s).free = s.free := rfl
@[simp] theorem modLamps_time (f : List LampEntry → List LampEntry) (s : State) : (modLamps f s).time = s.time := rfl
@[simp] theorem modLamps_teller (f : List LampEntry → List LampEntry) (s : State) : (modLamps f s).teller = s.teller := rfl
@[simp] theorem modLamps_power (f : List LampEntry → List LampEntry) (s : State) : (modLamps f s).power = s.power := rfl
@[simp] theorem modLamps_alm (f : List LampEntry → List LampEntry) (s : State) : (modLamps f s).alm = s.alm := rfl
@[simp] theorem modLamps_fifos (f : List LampEntry → List LampEntry) (s : State) : (modLamps f s).fifos = s.fifos := rfl
@[simp] theorem modLamps_protect (f : List LampEntry → List LampEntry) (s : State) : (modLamps f s).protect = s.protect := rfl
@[simp] theorem modLamps_vin (f : List LampEntry → List LampEntry) (s : State) : (modLamps f s).vin = s.vin := rfl
@[simp] theorem modLamps_record (f : List LampEntry → List LampEntry) (s : State) : (modLamps f s).record = s.record := rfl
@[simp] theorem modLamps_cfgA (f : List LampEntry → List LampEntry) (s : State) : (modLamps f s).cfgA = s.cfgA := rfl
@[simp] theorem modLamps_cfgB (f : List LampEntry → List LampEntry) (s : State) : (modLamps f s).cfgB = s.cfgB := rfl
@[simp] theorem modLamps_cmp (f : List LampEntry → List LampEntry) (s : State) : (modLamps f s).cmp = s.cmp := rfl
@[simp] theorem modLamps_ras (f : List LampEntry → List LampEntry) (s : State) : (modLamps f s).ras = s.ras := rfl
@[simp] theorem modLamps_fxm (f : List LampEntry → List LampEntry) (s : State) : (modLamps f s).fxm = s.fxm := rfl
@[simp] theorem modLamps_pho (f : List LampEntry → List LampEntry) (s : State) : (modLamps f s).pho = s.pho := rfl
@[simp] theorem modLamps_pool (f : List LampEntry → List LampEntry) (s : State) : (modLamps f s).pool = s.pool := rfl
@[simp] theorem modLamps_lanes (f : List LampEntry → List LampEntry) (s : State) : (modLamps f s).lanes = s.lanes := rfl
@[simp] theorem modLamps_mac (f : List LampEntry → List LampEntry) (s : State) : (modLamps f s).mac = s.mac := rfl
@[simp] theorem modLamps_pkt (f : List LampEntry → List LampEntry) (s : State) : (modLamps f s).pkt = s.pkt := rfl
@[simp] theorem modLamps_dmx (f : List LampEntry → List LampEntry) (s : State) : (modLamps f s).dmx = s.dmx := rfl
@[simp] theorem modLamps_rad (f : List LampEntry → List LampEntry) (s : State) : (modLamps f s).rad = s.rad := rfl
@[simp] theorem modLamps_esc (f : List LampEntry → List LampEntry) (s : State) : (modLamps f s).esc = s.esc := rfl
@[simp] theorem modLamps_map (f : List LampEntry → List LampEntry) (s : State) : (modLamps f s).map = s.map := rfl
@[simp] theorem modLamps_cal (f : List LampEntry → List LampEntry) (s : State) : (modLamps f s).cal = s.cal := rfl
@[simp] theorem modLamps_vlt (f : List LampEntry → List LampEntry) (s : State) : (modLamps f s).vlt = s.vlt := rfl
@[simp] theorem modLamps_lgr (f : List LampEntry → List LampEntry) (s : State) : (modLamps f s).lgr = s.lgr := rfl

/-! modMac -/

@[simp] theorem modMac_part (f : Mac → Mac) (s : State) : (modMac f s).part = s.part := rfl
@[simp] theorem modMac_pending (f : Mac → Mac) (s : State) : (modMac f s).pending = s.pending := rfl
@[simp] theorem modMac_regs (f : Mac → Mac) (s : State) : (modMac f s).regs = s.regs := rfl
@[simp] theorem modMac_free (f : Mac → Mac) (s : State) : (modMac f s).free = s.free := rfl
@[simp] theorem modMac_time (f : Mac → Mac) (s : State) : (modMac f s).time = s.time := rfl
@[simp] theorem modMac_teller (f : Mac → Mac) (s : State) : (modMac f s).teller = s.teller := rfl
@[simp] theorem modMac_power (f : Mac → Mac) (s : State) : (modMac f s).power = s.power := rfl
@[simp] theorem modMac_alm (f : Mac → Mac) (s : State) : (modMac f s).alm = s.alm := rfl
@[simp] theorem modMac_fifos (f : Mac → Mac) (s : State) : (modMac f s).fifos = s.fifos := rfl
@[simp] theorem modMac_protect (f : Mac → Mac) (s : State) : (modMac f s).protect = s.protect := rfl
@[simp] theorem modMac_vin (f : Mac → Mac) (s : State) : (modMac f s).vin = s.vin := rfl
@[simp] theorem modMac_record (f : Mac → Mac) (s : State) : (modMac f s).record = s.record := rfl
@[simp] theorem modMac_cfgA (f : Mac → Mac) (s : State) : (modMac f s).cfgA = s.cfgA := rfl
@[simp] theorem modMac_cfgB (f : Mac → Mac) (s : State) : (modMac f s).cfgB = s.cfgB := rfl
@[simp] theorem modMac_cmp (f : Mac → Mac) (s : State) : (modMac f s).cmp = s.cmp := rfl
@[simp] theorem modMac_ras (f : Mac → Mac) (s : State) : (modMac f s).ras = s.ras := rfl
@[simp] theorem modMac_fxm (f : Mac → Mac) (s : State) : (modMac f s).fxm = s.fxm := rfl
@[simp] theorem modMac_pho (f : Mac → Mac) (s : State) : (modMac f s).pho = s.pho := rfl
@[simp] theorem modMac_pool (f : Mac → Mac) (s : State) : (modMac f s).pool = s.pool := rfl
@[simp] theorem modMac_lanes (f : Mac → Mac) (s : State) : (modMac f s).lanes = s.lanes := rfl
@[simp] theorem modMac_lamps (f : Mac → Mac) (s : State) : (modMac f s).lamps = s.lamps := rfl
@[simp] theorem modMac_pkt (f : Mac → Mac) (s : State) : (modMac f s).pkt = s.pkt := rfl
@[simp] theorem modMac_dmx (f : Mac → Mac) (s : State) : (modMac f s).dmx = s.dmx := rfl
@[simp] theorem modMac_rad (f : Mac → Mac) (s : State) : (modMac f s).rad = s.rad := rfl
@[simp] theorem modMac_esc (f : Mac → Mac) (s : State) : (modMac f s).esc = s.esc := rfl
@[simp] theorem modMac_map (f : Mac → Mac) (s : State) : (modMac f s).map = s.map := rfl
@[simp] theorem modMac_cal (f : Mac → Mac) (s : State) : (modMac f s).cal = s.cal := rfl
@[simp] theorem modMac_vlt (f : Mac → Mac) (s : State) : (modMac f s).vlt = s.vlt := rfl
@[simp] theorem modMac_lgr (f : Mac → Mac) (s : State) : (modMac f s).lgr = s.lgr := rfl

/-! modPort -/

@[simp] theorem modPort_part (p : Nat) (f : MacPort → MacPort) (s : State) : (modPort p f s).part = s.part := rfl
@[simp] theorem modPort_pending (p : Nat) (f : MacPort → MacPort) (s : State) : (modPort p f s).pending = s.pending := rfl
@[simp] theorem modPort_regs (p : Nat) (f : MacPort → MacPort) (s : State) : (modPort p f s).regs = s.regs := rfl
@[simp] theorem modPort_free (p : Nat) (f : MacPort → MacPort) (s : State) : (modPort p f s).free = s.free := rfl
@[simp] theorem modPort_time (p : Nat) (f : MacPort → MacPort) (s : State) : (modPort p f s).time = s.time := rfl
@[simp] theorem modPort_teller (p : Nat) (f : MacPort → MacPort) (s : State) : (modPort p f s).teller = s.teller := rfl
@[simp] theorem modPort_power (p : Nat) (f : MacPort → MacPort) (s : State) : (modPort p f s).power = s.power := rfl
@[simp] theorem modPort_alm (p : Nat) (f : MacPort → MacPort) (s : State) : (modPort p f s).alm = s.alm := rfl
@[simp] theorem modPort_fifos (p : Nat) (f : MacPort → MacPort) (s : State) : (modPort p f s).fifos = s.fifos := rfl
@[simp] theorem modPort_protect (p : Nat) (f : MacPort → MacPort) (s : State) : (modPort p f s).protect = s.protect := rfl
@[simp] theorem modPort_vin (p : Nat) (f : MacPort → MacPort) (s : State) : (modPort p f s).vin = s.vin := rfl
@[simp] theorem modPort_record (p : Nat) (f : MacPort → MacPort) (s : State) : (modPort p f s).record = s.record := rfl
@[simp] theorem modPort_cfgA (p : Nat) (f : MacPort → MacPort) (s : State) : (modPort p f s).cfgA = s.cfgA := rfl
@[simp] theorem modPort_cfgB (p : Nat) (f : MacPort → MacPort) (s : State) : (modPort p f s).cfgB = s.cfgB := rfl
@[simp] theorem modPort_cmp (p : Nat) (f : MacPort → MacPort) (s : State) : (modPort p f s).cmp = s.cmp := rfl
@[simp] theorem modPort_ras (p : Nat) (f : MacPort → MacPort) (s : State) : (modPort p f s).ras = s.ras := rfl
@[simp] theorem modPort_fxm (p : Nat) (f : MacPort → MacPort) (s : State) : (modPort p f s).fxm = s.fxm := rfl
@[simp] theorem modPort_pho (p : Nat) (f : MacPort → MacPort) (s : State) : (modPort p f s).pho = s.pho := rfl
@[simp] theorem modPort_pool (p : Nat) (f : MacPort → MacPort) (s : State) : (modPort p f s).pool = s.pool := rfl
@[simp] theorem modPort_lanes (p : Nat) (f : MacPort → MacPort) (s : State) : (modPort p f s).lanes = s.lanes := rfl
@[simp] theorem modPort_lamps (p : Nat) (f : MacPort → MacPort) (s : State) : (modPort p f s).lamps = s.lamps := rfl
@[simp] theorem modPort_pkt (p : Nat) (f : MacPort → MacPort) (s : State) : (modPort p f s).pkt = s.pkt := rfl
@[simp] theorem modPort_dmx (p : Nat) (f : MacPort → MacPort) (s : State) : (modPort p f s).dmx = s.dmx := rfl
@[simp] theorem modPort_rad (p : Nat) (f : MacPort → MacPort) (s : State) : (modPort p f s).rad = s.rad := rfl
@[simp] theorem modPort_esc (p : Nat) (f : MacPort → MacPort) (s : State) : (modPort p f s).esc = s.esc := rfl
@[simp] theorem modPort_map (p : Nat) (f : MacPort → MacPort) (s : State) : (modPort p f s).map = s.map := rfl
@[simp] theorem modPort_cal (p : Nat) (f : MacPort → MacPort) (s : State) : (modPort p f s).cal = s.cal := rfl
@[simp] theorem modPort_vlt (p : Nat) (f : MacPort → MacPort) (s : State) : (modPort p f s).vlt = s.vlt := rfl
@[simp] theorem modPort_lgr (p : Nat) (f : MacPort → MacPort) (s : State) : (modPort p f s).lgr = s.lgr := rfl

/-! modPkt -/

@[simp] theorem modPkt_part (f : Pkt → Pkt) (s : State) : (modPkt f s).part = s.part := rfl
@[simp] theorem modPkt_pending (f : Pkt → Pkt) (s : State) : (modPkt f s).pending = s.pending := rfl
@[simp] theorem modPkt_regs (f : Pkt → Pkt) (s : State) : (modPkt f s).regs = s.regs := rfl
@[simp] theorem modPkt_free (f : Pkt → Pkt) (s : State) : (modPkt f s).free = s.free := rfl
@[simp] theorem modPkt_time (f : Pkt → Pkt) (s : State) : (modPkt f s).time = s.time := rfl
@[simp] theorem modPkt_teller (f : Pkt → Pkt) (s : State) : (modPkt f s).teller = s.teller := rfl
@[simp] theorem modPkt_power (f : Pkt → Pkt) (s : State) : (modPkt f s).power = s.power := rfl
@[simp] theorem modPkt_alm (f : Pkt → Pkt) (s : State) : (modPkt f s).alm = s.alm := rfl
@[simp] theorem modPkt_fifos (f : Pkt → Pkt) (s : State) : (modPkt f s).fifos = s.fifos := rfl
@[simp] theorem modPkt_protect (f : Pkt → Pkt) (s : State) : (modPkt f s).protect = s.protect := rfl
@[simp] theorem modPkt_vin (f : Pkt → Pkt) (s : State) : (modPkt f s).vin = s.vin := rfl
@[simp] theorem modPkt_record (f : Pkt → Pkt) (s : State) : (modPkt f s).record = s.record := rfl
@[simp] theorem modPkt_cfgA (f : Pkt → Pkt) (s : State) : (modPkt f s).cfgA = s.cfgA := rfl
@[simp] theorem modPkt_cfgB (f : Pkt → Pkt) (s : State) : (modPkt f s).cfgB = s.cfgB := rfl
@[simp] theorem modPkt_cmp (f : Pkt → Pkt) (s : State) : (modPkt f s).cmp = s.cmp := rfl
@[simp] theorem modPkt_ras (f : Pkt → Pkt) (s : State) : (modPkt f s).ras = s.ras := rfl
@[simp] theorem modPkt_fxm (f : Pkt → Pkt) (s : State) : (modPkt f s).fxm = s.fxm := rfl
@[simp] theorem modPkt_pho (f : Pkt → Pkt) (s : State) : (modPkt f s).pho = s.pho := rfl
@[simp] theorem modPkt_pool (f : Pkt → Pkt) (s : State) : (modPkt f s).pool = s.pool := rfl
@[simp] theorem modPkt_lanes (f : Pkt → Pkt) (s : State) : (modPkt f s).lanes = s.lanes := rfl
@[simp] theorem modPkt_lamps (f : Pkt → Pkt) (s : State) : (modPkt f s).lamps = s.lamps := rfl
@[simp] theorem modPkt_mac (f : Pkt → Pkt) (s : State) : (modPkt f s).mac = s.mac := rfl
@[simp] theorem modPkt_dmx (f : Pkt → Pkt) (s : State) : (modPkt f s).dmx = s.dmx := rfl
@[simp] theorem modPkt_rad (f : Pkt → Pkt) (s : State) : (modPkt f s).rad = s.rad := rfl
@[simp] theorem modPkt_esc (f : Pkt → Pkt) (s : State) : (modPkt f s).esc = s.esc := rfl
@[simp] theorem modPkt_map (f : Pkt → Pkt) (s : State) : (modPkt f s).map = s.map := rfl
@[simp] theorem modPkt_cal (f : Pkt → Pkt) (s : State) : (modPkt f s).cal = s.cal := rfl
@[simp] theorem modPkt_vlt (f : Pkt → Pkt) (s : State) : (modPkt f s).vlt = s.vlt := rfl
@[simp] theorem modPkt_lgr (f : Pkt → Pkt) (s : State) : (modPkt f s).lgr = s.lgr := rfl

/-! modDmx -/

@[simp] theorem modDmx_part (p : Nat) (f : DmxPort → DmxPort) (s : State) : (modDmx p f s).part = s.part := rfl
@[simp] theorem modDmx_pending (p : Nat) (f : DmxPort → DmxPort) (s : State) : (modDmx p f s).pending = s.pending := rfl
@[simp] theorem modDmx_regs (p : Nat) (f : DmxPort → DmxPort) (s : State) : (modDmx p f s).regs = s.regs := rfl
@[simp] theorem modDmx_free (p : Nat) (f : DmxPort → DmxPort) (s : State) : (modDmx p f s).free = s.free := rfl
@[simp] theorem modDmx_time (p : Nat) (f : DmxPort → DmxPort) (s : State) : (modDmx p f s).time = s.time := rfl
@[simp] theorem modDmx_teller (p : Nat) (f : DmxPort → DmxPort) (s : State) : (modDmx p f s).teller = s.teller := rfl
@[simp] theorem modDmx_power (p : Nat) (f : DmxPort → DmxPort) (s : State) : (modDmx p f s).power = s.power := rfl
@[simp] theorem modDmx_alm (p : Nat) (f : DmxPort → DmxPort) (s : State) : (modDmx p f s).alm = s.alm := rfl
@[simp] theorem modDmx_fifos (p : Nat) (f : DmxPort → DmxPort) (s : State) : (modDmx p f s).fifos = s.fifos := rfl
@[simp] theorem modDmx_protect (p : Nat) (f : DmxPort → DmxPort) (s : State) : (modDmx p f s).protect = s.protect := rfl
@[simp] theorem modDmx_vin (p : Nat) (f : DmxPort → DmxPort) (s : State) : (modDmx p f s).vin = s.vin := rfl
@[simp] theorem modDmx_record (p : Nat) (f : DmxPort → DmxPort) (s : State) : (modDmx p f s).record = s.record := rfl
@[simp] theorem modDmx_cfgA (p : Nat) (f : DmxPort → DmxPort) (s : State) : (modDmx p f s).cfgA = s.cfgA := rfl
@[simp] theorem modDmx_cfgB (p : Nat) (f : DmxPort → DmxPort) (s : State) : (modDmx p f s).cfgB = s.cfgB := rfl
@[simp] theorem modDmx_cmp (p : Nat) (f : DmxPort → DmxPort) (s : State) : (modDmx p f s).cmp = s.cmp := rfl
@[simp] theorem modDmx_ras (p : Nat) (f : DmxPort → DmxPort) (s : State) : (modDmx p f s).ras = s.ras := rfl
@[simp] theorem modDmx_fxm (p : Nat) (f : DmxPort → DmxPort) (s : State) : (modDmx p f s).fxm = s.fxm := rfl
@[simp] theorem modDmx_pho (p : Nat) (f : DmxPort → DmxPort) (s : State) : (modDmx p f s).pho = s.pho := rfl
@[simp] theorem modDmx_pool (p : Nat) (f : DmxPort → DmxPort) (s : State) : (modDmx p f s).pool = s.pool := rfl
@[simp] theorem modDmx_lanes (p : Nat) (f : DmxPort → DmxPort) (s : State) : (modDmx p f s).lanes = s.lanes := rfl
@[simp] theorem modDmx_lamps (p : Nat) (f : DmxPort → DmxPort) (s : State) : (modDmx p f s).lamps = s.lamps := rfl
@[simp] theorem modDmx_mac (p : Nat) (f : DmxPort → DmxPort) (s : State) : (modDmx p f s).mac = s.mac := rfl
@[simp] theorem modDmx_pkt (p : Nat) (f : DmxPort → DmxPort) (s : State) : (modDmx p f s).pkt = s.pkt := rfl
@[simp] theorem modDmx_rad (p : Nat) (f : DmxPort → DmxPort) (s : State) : (modDmx p f s).rad = s.rad := rfl
@[simp] theorem modDmx_esc (p : Nat) (f : DmxPort → DmxPort) (s : State) : (modDmx p f s).esc = s.esc := rfl
@[simp] theorem modDmx_map (p : Nat) (f : DmxPort → DmxPort) (s : State) : (modDmx p f s).map = s.map := rfl
@[simp] theorem modDmx_cal (p : Nat) (f : DmxPort → DmxPort) (s : State) : (modDmx p f s).cal = s.cal := rfl
@[simp] theorem modDmx_vlt (p : Nat) (f : DmxPort → DmxPort) (s : State) : (modDmx p f s).vlt = s.vlt := rfl
@[simp] theorem modDmx_lgr (p : Nat) (f : DmxPort → DmxPort) (s : State) : (modDmx p f s).lgr = s.lgr := rfl

/-! modEsc -/

@[simp] theorem modEsc_part (f : Esc → Esc) (s : State) : (modEsc f s).part = s.part := rfl
@[simp] theorem modEsc_pending (f : Esc → Esc) (s : State) : (modEsc f s).pending = s.pending := rfl
@[simp] theorem modEsc_regs (f : Esc → Esc) (s : State) : (modEsc f s).regs = s.regs := rfl
@[simp] theorem modEsc_free (f : Esc → Esc) (s : State) : (modEsc f s).free = s.free := rfl
@[simp] theorem modEsc_time (f : Esc → Esc) (s : State) : (modEsc f s).time = s.time := rfl
@[simp] theorem modEsc_teller (f : Esc → Esc) (s : State) : (modEsc f s).teller = s.teller := rfl
@[simp] theorem modEsc_power (f : Esc → Esc) (s : State) : (modEsc f s).power = s.power := rfl
@[simp] theorem modEsc_alm (f : Esc → Esc) (s : State) : (modEsc f s).alm = s.alm := rfl
@[simp] theorem modEsc_fifos (f : Esc → Esc) (s : State) : (modEsc f s).fifos = s.fifos := rfl
@[simp] theorem modEsc_protect (f : Esc → Esc) (s : State) : (modEsc f s).protect = s.protect := rfl
@[simp] theorem modEsc_vin (f : Esc → Esc) (s : State) : (modEsc f s).vin = s.vin := rfl
@[simp] theorem modEsc_record (f : Esc → Esc) (s : State) : (modEsc f s).record = s.record := rfl
@[simp] theorem modEsc_cfgA (f : Esc → Esc) (s : State) : (modEsc f s).cfgA = s.cfgA := rfl
@[simp] theorem modEsc_cfgB (f : Esc → Esc) (s : State) : (modEsc f s).cfgB = s.cfgB := rfl
@[simp] theorem modEsc_cmp (f : Esc → Esc) (s : State) : (modEsc f s).cmp = s.cmp := rfl
@[simp] theorem modEsc_ras (f : Esc → Esc) (s : State) : (modEsc f s).ras = s.ras := rfl
@[simp] theorem modEsc_fxm (f : Esc → Esc) (s : State) : (modEsc f s).fxm = s.fxm := rfl
@[simp] theorem modEsc_pho (f : Esc → Esc) (s : State) : (modEsc f s).pho = s.pho := rfl
@[simp] theorem modEsc_pool (f : Esc → Esc) (s : State) : (modEsc f s).pool = s.pool := rfl
@[simp] theorem modEsc_lanes (f : Esc → Esc) (s : State) : (modEsc f s).lanes = s.lanes := rfl
@[simp] theorem modEsc_lamps (f : Esc → Esc) (s : State) : (modEsc f s).lamps = s.lamps := rfl
@[simp] theorem modEsc_mac (f : Esc → Esc) (s : State) : (modEsc f s).mac = s.mac := rfl
@[simp] theorem modEsc_pkt (f : Esc → Esc) (s : State) : (modEsc f s).pkt = s.pkt := rfl
@[simp] theorem modEsc_dmx (f : Esc → Esc) (s : State) : (modEsc f s).dmx = s.dmx := rfl
@[simp] theorem modEsc_rad (f : Esc → Esc) (s : State) : (modEsc f s).rad = s.rad := rfl
@[simp] theorem modEsc_map (f : Esc → Esc) (s : State) : (modEsc f s).map = s.map := rfl
@[simp] theorem modEsc_cal (f : Esc → Esc) (s : State) : (modEsc f s).cal = s.cal := rfl
@[simp] theorem modEsc_vlt (f : Esc → Esc) (s : State) : (modEsc f s).vlt = s.vlt := rfl
@[simp] theorem modEsc_lgr (f : Esc → Esc) (s : State) : (modEsc f s).lgr = s.lgr := rfl

/-! modLease -/

@[simp] theorem modLease_part (g : Nat) (f : Lease → Lease) (s : State) : (modLease g f s).part = s.part := rfl
@[simp] theorem modLease_pending (g : Nat) (f : Lease → Lease) (s : State) : (modLease g f s).pending = s.pending := rfl
@[simp] theorem modLease_regs (g : Nat) (f : Lease → Lease) (s : State) : (modLease g f s).regs = s.regs := rfl
@[simp] theorem modLease_free (g : Nat) (f : Lease → Lease) (s : State) : (modLease g f s).free = s.free := rfl
@[simp] theorem modLease_time (g : Nat) (f : Lease → Lease) (s : State) : (modLease g f s).time = s.time := rfl
@[simp] theorem modLease_teller (g : Nat) (f : Lease → Lease) (s : State) : (modLease g f s).teller = s.teller := rfl
@[simp] theorem modLease_power (g : Nat) (f : Lease → Lease) (s : State) : (modLease g f s).power = s.power := rfl
@[simp] theorem modLease_alm (g : Nat) (f : Lease → Lease) (s : State) : (modLease g f s).alm = s.alm := rfl
@[simp] theorem modLease_fifos (g : Nat) (f : Lease → Lease) (s : State) : (modLease g f s).fifos = s.fifos := rfl
@[simp] theorem modLease_protect (g : Nat) (f : Lease → Lease) (s : State) : (modLease g f s).protect = s.protect := rfl
@[simp] theorem modLease_vin (g : Nat) (f : Lease → Lease) (s : State) : (modLease g f s).vin = s.vin := rfl
@[simp] theorem modLease_record (g : Nat) (f : Lease → Lease) (s : State) : (modLease g f s).record = s.record := rfl
@[simp] theorem modLease_cfgA (g : Nat) (f : Lease → Lease) (s : State) : (modLease g f s).cfgA = s.cfgA := rfl
@[simp] theorem modLease_cfgB (g : Nat) (f : Lease → Lease) (s : State) : (modLease g f s).cfgB = s.cfgB := rfl
@[simp] theorem modLease_cmp (g : Nat) (f : Lease → Lease) (s : State) : (modLease g f s).cmp = s.cmp := rfl
@[simp] theorem modLease_ras (g : Nat) (f : Lease → Lease) (s : State) : (modLease g f s).ras = s.ras := rfl
@[simp] theorem modLease_fxm (g : Nat) (f : Lease → Lease) (s : State) : (modLease g f s).fxm = s.fxm := rfl
@[simp] theorem modLease_pho (g : Nat) (f : Lease → Lease) (s : State) : (modLease g f s).pho = s.pho := rfl
@[simp] theorem modLease_pool (g : Nat) (f : Lease → Lease) (s : State) : (modLease g f s).pool = s.pool := rfl
@[simp] theorem modLease_lanes (g : Nat) (f : Lease → Lease) (s : State) : (modLease g f s).lanes = s.lanes := rfl
@[simp] theorem modLease_lamps (g : Nat) (f : Lease → Lease) (s : State) : (modLease g f s).lamps = s.lamps := rfl
@[simp] theorem modLease_mac (g : Nat) (f : Lease → Lease) (s : State) : (modLease g f s).mac = s.mac := rfl
@[simp] theorem modLease_pkt (g : Nat) (f : Lease → Lease) (s : State) : (modLease g f s).pkt = s.pkt := rfl
@[simp] theorem modLease_dmx (g : Nat) (f : Lease → Lease) (s : State) : (modLease g f s).dmx = s.dmx := rfl
@[simp] theorem modLease_rad (g : Nat) (f : Lease → Lease) (s : State) : (modLease g f s).rad = s.rad := rfl
@[simp] theorem modLease_map (g : Nat) (f : Lease → Lease) (s : State) : (modLease g f s).map = s.map := rfl
@[simp] theorem modLease_cal (g : Nat) (f : Lease → Lease) (s : State) : (modLease g f s).cal = s.cal := rfl
@[simp] theorem modLease_vlt (g : Nat) (f : Lease → Lease) (s : State) : (modLease g f s).vlt = s.vlt := rfl
@[simp] theorem modLease_lgr (g : Nat) (f : Lease → Lease) (s : State) : (modLease g f s).lgr = s.lgr := rfl

/-! modRad -/

@[simp] theorem modRad_part (f : Rad → Rad) (s : State) : (modRad f s).part = s.part := rfl
@[simp] theorem modRad_pending (f : Rad → Rad) (s : State) : (modRad f s).pending = s.pending := rfl
@[simp] theorem modRad_regs (f : Rad → Rad) (s : State) : (modRad f s).regs = s.regs := rfl
@[simp] theorem modRad_free (f : Rad → Rad) (s : State) : (modRad f s).free = s.free := rfl
@[simp] theorem modRad_time (f : Rad → Rad) (s : State) : (modRad f s).time = s.time := rfl
@[simp] theorem modRad_teller (f : Rad → Rad) (s : State) : (modRad f s).teller = s.teller := rfl
@[simp] theorem modRad_power (f : Rad → Rad) (s : State) : (modRad f s).power = s.power := rfl
@[simp] theorem modRad_alm (f : Rad → Rad) (s : State) : (modRad f s).alm = s.alm := rfl
@[simp] theorem modRad_fifos (f : Rad → Rad) (s : State) : (modRad f s).fifos = s.fifos := rfl
@[simp] theorem modRad_protect (f : Rad → Rad) (s : State) : (modRad f s).protect = s.protect := rfl
@[simp] theorem modRad_vin (f : Rad → Rad) (s : State) : (modRad f s).vin = s.vin := rfl
@[simp] theorem modRad_record (f : Rad → Rad) (s : State) : (modRad f s).record = s.record := rfl
@[simp] theorem modRad_cfgA (f : Rad → Rad) (s : State) : (modRad f s).cfgA = s.cfgA := rfl
@[simp] theorem modRad_cfgB (f : Rad → Rad) (s : State) : (modRad f s).cfgB = s.cfgB := rfl
@[simp] theorem modRad_cmp (f : Rad → Rad) (s : State) : (modRad f s).cmp = s.cmp := rfl
@[simp] theorem modRad_ras (f : Rad → Rad) (s : State) : (modRad f s).ras = s.ras := rfl
@[simp] theorem modRad_fxm (f : Rad → Rad) (s : State) : (modRad f s).fxm = s.fxm := rfl
@[simp] theorem modRad_pho (f : Rad → Rad) (s : State) : (modRad f s).pho = s.pho := rfl
@[simp] theorem modRad_pool (f : Rad → Rad) (s : State) : (modRad f s).pool = s.pool := rfl
@[simp] theorem modRad_lanes (f : Rad → Rad) (s : State) : (modRad f s).lanes = s.lanes := rfl
@[simp] theorem modRad_lamps (f : Rad → Rad) (s : State) : (modRad f s).lamps = s.lamps := rfl
@[simp] theorem modRad_mac (f : Rad → Rad) (s : State) : (modRad f s).mac = s.mac := rfl
@[simp] theorem modRad_pkt (f : Rad → Rad) (s : State) : (modRad f s).pkt = s.pkt := rfl
@[simp] theorem modRad_dmx (f : Rad → Rad) (s : State) : (modRad f s).dmx = s.dmx := rfl
@[simp] theorem modRad_esc (f : Rad → Rad) (s : State) : (modRad f s).esc = s.esc := rfl
@[simp] theorem modRad_map (f : Rad → Rad) (s : State) : (modRad f s).map = s.map := rfl
@[simp] theorem modRad_cal (f : Rad → Rad) (s : State) : (modRad f s).cal = s.cal := rfl
@[simp] theorem modRad_vlt (f : Rad → Rad) (s : State) : (modRad f s).vlt = s.vlt := rfl
@[simp] theorem modRad_lgr (f : Rad → Rad) (s : State) : (modRad f s).lgr = s.lgr := rfl

/-! modXcvr -/

@[simp] theorem modXcvr_part (x : Nat) (f : Xcvr → Xcvr) (s : State) : (modXcvr x f s).part = s.part := rfl
@[simp] theorem modXcvr_pending (x : Nat) (f : Xcvr → Xcvr) (s : State) : (modXcvr x f s).pending = s.pending := rfl
@[simp] theorem modXcvr_regs (x : Nat) (f : Xcvr → Xcvr) (s : State) : (modXcvr x f s).regs = s.regs := rfl
@[simp] theorem modXcvr_free (x : Nat) (f : Xcvr → Xcvr) (s : State) : (modXcvr x f s).free = s.free := rfl
@[simp] theorem modXcvr_time (x : Nat) (f : Xcvr → Xcvr) (s : State) : (modXcvr x f s).time = s.time := rfl
@[simp] theorem modXcvr_teller (x : Nat) (f : Xcvr → Xcvr) (s : State) : (modXcvr x f s).teller = s.teller := rfl
@[simp] theorem modXcvr_power (x : Nat) (f : Xcvr → Xcvr) (s : State) : (modXcvr x f s).power = s.power := rfl
@[simp] theorem modXcvr_alm (x : Nat) (f : Xcvr → Xcvr) (s : State) : (modXcvr x f s).alm = s.alm := rfl
@[simp] theorem modXcvr_fifos (x : Nat) (f : Xcvr → Xcvr) (s : State) : (modXcvr x f s).fifos = s.fifos := rfl
@[simp] theorem modXcvr_protect (x : Nat) (f : Xcvr → Xcvr) (s : State) : (modXcvr x f s).protect = s.protect := rfl
@[simp] theorem modXcvr_vin (x : Nat) (f : Xcvr → Xcvr) (s : State) : (modXcvr x f s).vin = s.vin := rfl
@[simp] theorem modXcvr_record (x : Nat) (f : Xcvr → Xcvr) (s : State) : (modXcvr x f s).record = s.record := rfl
@[simp] theorem modXcvr_cfgA (x : Nat) (f : Xcvr → Xcvr) (s : State) : (modXcvr x f s).cfgA = s.cfgA := rfl
@[simp] theorem modXcvr_cfgB (x : Nat) (f : Xcvr → Xcvr) (s : State) : (modXcvr x f s).cfgB = s.cfgB := rfl
@[simp] theorem modXcvr_cmp (x : Nat) (f : Xcvr → Xcvr) (s : State) : (modXcvr x f s).cmp = s.cmp := rfl
@[simp] theorem modXcvr_ras (x : Nat) (f : Xcvr → Xcvr) (s : State) : (modXcvr x f s).ras = s.ras := rfl
@[simp] theorem modXcvr_fxm (x : Nat) (f : Xcvr → Xcvr) (s : State) : (modXcvr x f s).fxm = s.fxm := rfl
@[simp] theorem modXcvr_pho (x : Nat) (f : Xcvr → Xcvr) (s : State) : (modXcvr x f s).pho = s.pho := rfl
@[simp] theorem modXcvr_pool (x : Nat) (f : Xcvr → Xcvr) (s : State) : (modXcvr x f s).pool = s.pool := rfl
@[simp] theorem modXcvr_lanes (x : Nat) (f : Xcvr → Xcvr) (s : State) : (modXcvr x f s).lanes = s.lanes := rfl
@[simp] theorem modXcvr_lamps (x : Nat) (f : Xcvr → Xcvr) (s : State) : (modXcvr x f s).lamps = s.lamps := rfl
@[simp] theorem modXcvr_mac (x : Nat) (f : Xcvr → Xcvr) (s : State) : (modXcvr x f s).mac = s.mac := rfl
@[simp] theorem modXcvr_pkt (x : Nat) (f : Xcvr → Xcvr) (s : State) : (modXcvr x f s).pkt = s.pkt := rfl
@[simp] theorem modXcvr_dmx (x : Nat) (f : Xcvr → Xcvr) (s : State) : (modXcvr x f s).dmx = s.dmx := rfl
@[simp] theorem modXcvr_esc (x : Nat) (f : Xcvr → Xcvr) (s : State) : (modXcvr x f s).esc = s.esc := rfl
@[simp] theorem modXcvr_map (x : Nat) (f : Xcvr → Xcvr) (s : State) : (modXcvr x f s).map = s.map := rfl
@[simp] theorem modXcvr_cal (x : Nat) (f : Xcvr → Xcvr) (s : State) : (modXcvr x f s).cal = s.cal := rfl
@[simp] theorem modXcvr_vlt (x : Nat) (f : Xcvr → Xcvr) (s : State) : (modXcvr x f s).vlt = s.vlt := rfl
@[simp] theorem modXcvr_lgr (x : Nat) (f : Xcvr → Xcvr) (s : State) : (modXcvr x f s).lgr = s.lgr := rfl

/-! modNode -/

@[simp] theorem modNode_part (n : Nat) (f : RadioNode → RadioNode) (s : State) : (modNode n f s).part = s.part := rfl
@[simp] theorem modNode_pending (n : Nat) (f : RadioNode → RadioNode) (s : State) : (modNode n f s).pending = s.pending := rfl
@[simp] theorem modNode_regs (n : Nat) (f : RadioNode → RadioNode) (s : State) : (modNode n f s).regs = s.regs := rfl
@[simp] theorem modNode_free (n : Nat) (f : RadioNode → RadioNode) (s : State) : (modNode n f s).free = s.free := rfl
@[simp] theorem modNode_time (n : Nat) (f : RadioNode → RadioNode) (s : State) : (modNode n f s).time = s.time := rfl
@[simp] theorem modNode_teller (n : Nat) (f : RadioNode → RadioNode) (s : State) : (modNode n f s).teller = s.teller := rfl
@[simp] theorem modNode_power (n : Nat) (f : RadioNode → RadioNode) (s : State) : (modNode n f s).power = s.power := rfl
@[simp] theorem modNode_alm (n : Nat) (f : RadioNode → RadioNode) (s : State) : (modNode n f s).alm = s.alm := rfl
@[simp] theorem modNode_fifos (n : Nat) (f : RadioNode → RadioNode) (s : State) : (modNode n f s).fifos = s.fifos := rfl
@[simp] theorem modNode_protect (n : Nat) (f : RadioNode → RadioNode) (s : State) : (modNode n f s).protect = s.protect := rfl
@[simp] theorem modNode_vin (n : Nat) (f : RadioNode → RadioNode) (s : State) : (modNode n f s).vin = s.vin := rfl
@[simp] theorem modNode_record (n : Nat) (f : RadioNode → RadioNode) (s : State) : (modNode n f s).record = s.record := rfl
@[simp] theorem modNode_cfgA (n : Nat) (f : RadioNode → RadioNode) (s : State) : (modNode n f s).cfgA = s.cfgA := rfl
@[simp] theorem modNode_cfgB (n : Nat) (f : RadioNode → RadioNode) (s : State) : (modNode n f s).cfgB = s.cfgB := rfl
@[simp] theorem modNode_cmp (n : Nat) (f : RadioNode → RadioNode) (s : State) : (modNode n f s).cmp = s.cmp := rfl
@[simp] theorem modNode_ras (n : Nat) (f : RadioNode → RadioNode) (s : State) : (modNode n f s).ras = s.ras := rfl
@[simp] theorem modNode_fxm (n : Nat) (f : RadioNode → RadioNode) (s : State) : (modNode n f s).fxm = s.fxm := rfl
@[simp] theorem modNode_pho (n : Nat) (f : RadioNode → RadioNode) (s : State) : (modNode n f s).pho = s.pho := rfl
@[simp] theorem modNode_pool (n : Nat) (f : RadioNode → RadioNode) (s : State) : (modNode n f s).pool = s.pool := rfl
@[simp] theorem modNode_lanes (n : Nat) (f : RadioNode → RadioNode) (s : State) : (modNode n f s).lanes = s.lanes := rfl
@[simp] theorem modNode_lamps (n : Nat) (f : RadioNode → RadioNode) (s : State) : (modNode n f s).lamps = s.lamps := rfl
@[simp] theorem modNode_mac (n : Nat) (f : RadioNode → RadioNode) (s : State) : (modNode n f s).mac = s.mac := rfl
@[simp] theorem modNode_pkt (n : Nat) (f : RadioNode → RadioNode) (s : State) : (modNode n f s).pkt = s.pkt := rfl
@[simp] theorem modNode_dmx (n : Nat) (f : RadioNode → RadioNode) (s : State) : (modNode n f s).dmx = s.dmx := rfl
@[simp] theorem modNode_esc (n : Nat) (f : RadioNode → RadioNode) (s : State) : (modNode n f s).esc = s.esc := rfl
@[simp] theorem modNode_map (n : Nat) (f : RadioNode → RadioNode) (s : State) : (modNode n f s).map = s.map := rfl
@[simp] theorem modNode_cal (n : Nat) (f : RadioNode → RadioNode) (s : State) : (modNode n f s).cal = s.cal := rfl
@[simp] theorem modNode_vlt (n : Nat) (f : RadioNode → RadioNode) (s : State) : (modNode n f s).vlt = s.vlt := rfl
@[simp] theorem modNode_lgr (n : Nat) (f : RadioNode → RadioNode) (s : State) : (modNode n f s).lgr = s.lgr := rfl

/-! modMap -/

@[simp] theorem modMap_part (f : Mapper → Mapper) (s : State) : (modMap f s).part = s.part := rfl
@[simp] theorem modMap_pending (f : Mapper → Mapper) (s : State) : (modMap f s).pending = s.pending := rfl
@[simp] theorem modMap_regs (f : Mapper → Mapper) (s : State) : (modMap f s).regs = s.regs := rfl
@[simp] theorem modMap_free (f : Mapper → Mapper) (s : State) : (modMap f s).free = s.free := rfl
@[simp] theorem modMap_time (f : Mapper → Mapper) (s : State) : (modMap f s).time = s.time := rfl
@[simp] theorem modMap_teller (f : Mapper → Mapper) (s : State) : (modMap f s).teller = s.teller := rfl
@[simp] theorem modMap_power (f : Mapper → Mapper) (s : State) : (modMap f s).power = s.power := rfl
@[simp] theorem modMap_alm (f : Mapper → Mapper) (s : State) : (modMap f s).alm = s.alm := rfl
@[simp] theorem modMap_fifos (f : Mapper → Mapper) (s : State) : (modMap f s).fifos = s.fifos := rfl
@[simp] theorem modMap_protect (f : Mapper → Mapper) (s : State) : (modMap f s).protect = s.protect := rfl
@[simp] theorem modMap_vin (f : Mapper → Mapper) (s : State) : (modMap f s).vin = s.vin := rfl
@[simp] theorem modMap_record (f : Mapper → Mapper) (s : State) : (modMap f s).record = s.record := rfl
@[simp] theorem modMap_cfgA (f : Mapper → Mapper) (s : State) : (modMap f s).cfgA = s.cfgA := rfl
@[simp] theorem modMap_cfgB (f : Mapper → Mapper) (s : State) : (modMap f s).cfgB = s.cfgB := rfl
@[simp] theorem modMap_cmp (f : Mapper → Mapper) (s : State) : (modMap f s).cmp = s.cmp := rfl
@[simp] theorem modMap_ras (f : Mapper → Mapper) (s : State) : (modMap f s).ras = s.ras := rfl
@[simp] theorem modMap_fxm (f : Mapper → Mapper) (s : State) : (modMap f s).fxm = s.fxm := rfl
@[simp] theorem modMap_pho (f : Mapper → Mapper) (s : State) : (modMap f s).pho = s.pho := rfl
@[simp] theorem modMap_pool (f : Mapper → Mapper) (s : State) : (modMap f s).pool = s.pool := rfl
@[simp] theorem modMap_lanes (f : Mapper → Mapper) (s : State) : (modMap f s).lanes = s.lanes := rfl
@[simp] theorem modMap_lamps (f : Mapper → Mapper) (s : State) : (modMap f s).lamps = s.lamps := rfl
@[simp] theorem modMap_mac (f : Mapper → Mapper) (s : State) : (modMap f s).mac = s.mac := rfl
@[simp] theorem modMap_pkt (f : Mapper → Mapper) (s : State) : (modMap f s).pkt = s.pkt := rfl
@[simp] theorem modMap_dmx (f : Mapper → Mapper) (s : State) : (modMap f s).dmx = s.dmx := rfl
@[simp] theorem modMap_rad (f : Mapper → Mapper) (s : State) : (modMap f s).rad = s.rad := rfl
@[simp] theorem modMap_esc (f : Mapper → Mapper) (s : State) : (modMap f s).esc = s.esc := rfl
@[simp] theorem modMap_cal (f : Mapper → Mapper) (s : State) : (modMap f s).cal = s.cal := rfl
@[simp] theorem modMap_vlt (f : Mapper → Mapper) (s : State) : (modMap f s).vlt = s.vlt := rfl
@[simp] theorem modMap_lgr (f : Mapper → Mapper) (s : State) : (modMap f s).lgr = s.lgr := rfl

/-! modMapEngine -/

@[simp] theorem modMapEngine_part (e : Nat) (f : Engine → Engine) (s : State) : (modMapEngine e f s).part = s.part := rfl
@[simp] theorem modMapEngine_pending (e : Nat) (f : Engine → Engine) (s : State) : (modMapEngine e f s).pending = s.pending := rfl
@[simp] theorem modMapEngine_regs (e : Nat) (f : Engine → Engine) (s : State) : (modMapEngine e f s).regs = s.regs := rfl
@[simp] theorem modMapEngine_free (e : Nat) (f : Engine → Engine) (s : State) : (modMapEngine e f s).free = s.free := rfl
@[simp] theorem modMapEngine_time (e : Nat) (f : Engine → Engine) (s : State) : (modMapEngine e f s).time = s.time := rfl
@[simp] theorem modMapEngine_teller (e : Nat) (f : Engine → Engine) (s : State) : (modMapEngine e f s).teller = s.teller := rfl
@[simp] theorem modMapEngine_power (e : Nat) (f : Engine → Engine) (s : State) : (modMapEngine e f s).power = s.power := rfl
@[simp] theorem modMapEngine_alm (e : Nat) (f : Engine → Engine) (s : State) : (modMapEngine e f s).alm = s.alm := rfl
@[simp] theorem modMapEngine_fifos (e : Nat) (f : Engine → Engine) (s : State) : (modMapEngine e f s).fifos = s.fifos := rfl
@[simp] theorem modMapEngine_protect (e : Nat) (f : Engine → Engine) (s : State) : (modMapEngine e f s).protect = s.protect := rfl
@[simp] theorem modMapEngine_vin (e : Nat) (f : Engine → Engine) (s : State) : (modMapEngine e f s).vin = s.vin := rfl
@[simp] theorem modMapEngine_record (e : Nat) (f : Engine → Engine) (s : State) : (modMapEngine e f s).record = s.record := rfl
@[simp] theorem modMapEngine_cfgA (e : Nat) (f : Engine → Engine) (s : State) : (modMapEngine e f s).cfgA = s.cfgA := rfl
@[simp] theorem modMapEngine_cfgB (e : Nat) (f : Engine → Engine) (s : State) : (modMapEngine e f s).cfgB = s.cfgB := rfl
@[simp] theorem modMapEngine_cmp (e : Nat) (f : Engine → Engine) (s : State) : (modMapEngine e f s).cmp = s.cmp := rfl
@[simp] theorem modMapEngine_ras (e : Nat) (f : Engine → Engine) (s : State) : (modMapEngine e f s).ras = s.ras := rfl
@[simp] theorem modMapEngine_fxm (e : Nat) (f : Engine → Engine) (s : State) : (modMapEngine e f s).fxm = s.fxm := rfl
@[simp] theorem modMapEngine_pho (e : Nat) (f : Engine → Engine) (s : State) : (modMapEngine e f s).pho = s.pho := rfl
@[simp] theorem modMapEngine_pool (e : Nat) (f : Engine → Engine) (s : State) : (modMapEngine e f s).pool = s.pool := rfl
@[simp] theorem modMapEngine_lanes (e : Nat) (f : Engine → Engine) (s : State) : (modMapEngine e f s).lanes = s.lanes := rfl
@[simp] theorem modMapEngine_lamps (e : Nat) (f : Engine → Engine) (s : State) : (modMapEngine e f s).lamps = s.lamps := rfl
@[simp] theorem modMapEngine_mac (e : Nat) (f : Engine → Engine) (s : State) : (modMapEngine e f s).mac = s.mac := rfl
@[simp] theorem modMapEngine_pkt (e : Nat) (f : Engine → Engine) (s : State) : (modMapEngine e f s).pkt = s.pkt := rfl
@[simp] theorem modMapEngine_dmx (e : Nat) (f : Engine → Engine) (s : State) : (modMapEngine e f s).dmx = s.dmx := rfl
@[simp] theorem modMapEngine_rad (e : Nat) (f : Engine → Engine) (s : State) : (modMapEngine e f s).rad = s.rad := rfl
@[simp] theorem modMapEngine_esc (e : Nat) (f : Engine → Engine) (s : State) : (modMapEngine e f s).esc = s.esc := rfl
@[simp] theorem modMapEngine_cal (e : Nat) (f : Engine → Engine) (s : State) : (modMapEngine e f s).cal = s.cal := rfl
@[simp] theorem modMapEngine_vlt (e : Nat) (f : Engine → Engine) (s : State) : (modMapEngine e f s).vlt = s.vlt := rfl
@[simp] theorem modMapEngine_lgr (e : Nat) (f : Engine → Engine) (s : State) : (modMapEngine e f s).lgr = s.lgr := rfl

/-! modFrame -/

@[simp] theorem modFrame_part (f : MapFrame → MapFrame) (s : State) : (modFrame f s).part = s.part := rfl
@[simp] theorem modFrame_pending (f : MapFrame → MapFrame) (s : State) : (modFrame f s).pending = s.pending := rfl
@[simp] theorem modFrame_regs (f : MapFrame → MapFrame) (s : State) : (modFrame f s).regs = s.regs := rfl
@[simp] theorem modFrame_free (f : MapFrame → MapFrame) (s : State) : (modFrame f s).free = s.free := rfl
@[simp] theorem modFrame_time (f : MapFrame → MapFrame) (s : State) : (modFrame f s).time = s.time := rfl
@[simp] theorem modFrame_teller (f : MapFrame → MapFrame) (s : State) : (modFrame f s).teller = s.teller := rfl
@[simp] theorem modFrame_power (f : MapFrame → MapFrame) (s : State) : (modFrame f s).power = s.power := rfl
@[simp] theorem modFrame_alm (f : MapFrame → MapFrame) (s : State) : (modFrame f s).alm = s.alm := rfl
@[simp] theorem modFrame_fifos (f : MapFrame → MapFrame) (s : State) : (modFrame f s).fifos = s.fifos := rfl
@[simp] theorem modFrame_protect (f : MapFrame → MapFrame) (s : State) : (modFrame f s).protect = s.protect := rfl
@[simp] theorem modFrame_vin (f : MapFrame → MapFrame) (s : State) : (modFrame f s).vin = s.vin := rfl
@[simp] theorem modFrame_record (f : MapFrame → MapFrame) (s : State) : (modFrame f s).record = s.record := rfl
@[simp] theorem modFrame_cfgA (f : MapFrame → MapFrame) (s : State) : (modFrame f s).cfgA = s.cfgA := rfl
@[simp] theorem modFrame_cfgB (f : MapFrame → MapFrame) (s : State) : (modFrame f s).cfgB = s.cfgB := rfl
@[simp] theorem modFrame_cmp (f : MapFrame → MapFrame) (s : State) : (modFrame f s).cmp = s.cmp := rfl
@[simp] theorem modFrame_ras (f : MapFrame → MapFrame) (s : State) : (modFrame f s).ras = s.ras := rfl
@[simp] theorem modFrame_fxm (f : MapFrame → MapFrame) (s : State) : (modFrame f s).fxm = s.fxm := rfl
@[simp] theorem modFrame_pho (f : MapFrame → MapFrame) (s : State) : (modFrame f s).pho = s.pho := rfl
@[simp] theorem modFrame_pool (f : MapFrame → MapFrame) (s : State) : (modFrame f s).pool = s.pool := rfl
@[simp] theorem modFrame_lanes (f : MapFrame → MapFrame) (s : State) : (modFrame f s).lanes = s.lanes := rfl
@[simp] theorem modFrame_lamps (f : MapFrame → MapFrame) (s : State) : (modFrame f s).lamps = s.lamps := rfl
@[simp] theorem modFrame_mac (f : MapFrame → MapFrame) (s : State) : (modFrame f s).mac = s.mac := rfl
@[simp] theorem modFrame_pkt (f : MapFrame → MapFrame) (s : State) : (modFrame f s).pkt = s.pkt := rfl
@[simp] theorem modFrame_dmx (f : MapFrame → MapFrame) (s : State) : (modFrame f s).dmx = s.dmx := rfl
@[simp] theorem modFrame_rad (f : MapFrame → MapFrame) (s : State) : (modFrame f s).rad = s.rad := rfl
@[simp] theorem modFrame_esc (f : MapFrame → MapFrame) (s : State) : (modFrame f s).esc = s.esc := rfl
@[simp] theorem modFrame_cal (f : MapFrame → MapFrame) (s : State) : (modFrame f s).cal = s.cal := rfl
@[simp] theorem modFrame_vlt (f : MapFrame → MapFrame) (s : State) : (modFrame f s).vlt = s.vlt := rfl
@[simp] theorem modFrame_lgr (f : MapFrame → MapFrame) (s : State) : (modFrame f s).lgr = s.lgr := rfl

/-! modVlt -/

@[simp] theorem modVlt_part (f : Vault → Vault) (s : State) : (modVlt f s).part = s.part := rfl
@[simp] theorem modVlt_pending (f : Vault → Vault) (s : State) : (modVlt f s).pending = s.pending := rfl
@[simp] theorem modVlt_regs (f : Vault → Vault) (s : State) : (modVlt f s).regs = s.regs := rfl
@[simp] theorem modVlt_free (f : Vault → Vault) (s : State) : (modVlt f s).free = s.free := rfl
@[simp] theorem modVlt_time (f : Vault → Vault) (s : State) : (modVlt f s).time = s.time := rfl
@[simp] theorem modVlt_teller (f : Vault → Vault) (s : State) : (modVlt f s).teller = s.teller := rfl
@[simp] theorem modVlt_power (f : Vault → Vault) (s : State) : (modVlt f s).power = s.power := rfl
@[simp] theorem modVlt_alm (f : Vault → Vault) (s : State) : (modVlt f s).alm = s.alm := rfl
@[simp] theorem modVlt_fifos (f : Vault → Vault) (s : State) : (modVlt f s).fifos = s.fifos := rfl
@[simp] theorem modVlt_protect (f : Vault → Vault) (s : State) : (modVlt f s).protect = s.protect := rfl
@[simp] theorem modVlt_vin (f : Vault → Vault) (s : State) : (modVlt f s).vin = s.vin := rfl
@[simp] theorem modVlt_record (f : Vault → Vault) (s : State) : (modVlt f s).record = s.record := rfl
@[simp] theorem modVlt_cfgA (f : Vault → Vault) (s : State) : (modVlt f s).cfgA = s.cfgA := rfl
@[simp] theorem modVlt_cfgB (f : Vault → Vault) (s : State) : (modVlt f s).cfgB = s.cfgB := rfl
@[simp] theorem modVlt_cmp (f : Vault → Vault) (s : State) : (modVlt f s).cmp = s.cmp := rfl
@[simp] theorem modVlt_ras (f : Vault → Vault) (s : State) : (modVlt f s).ras = s.ras := rfl
@[simp] theorem modVlt_fxm (f : Vault → Vault) (s : State) : (modVlt f s).fxm = s.fxm := rfl
@[simp] theorem modVlt_pho (f : Vault → Vault) (s : State) : (modVlt f s).pho = s.pho := rfl
@[simp] theorem modVlt_pool (f : Vault → Vault) (s : State) : (modVlt f s).pool = s.pool := rfl
@[simp] theorem modVlt_lanes (f : Vault → Vault) (s : State) : (modVlt f s).lanes = s.lanes := rfl
@[simp] theorem modVlt_lamps (f : Vault → Vault) (s : State) : (modVlt f s).lamps = s.lamps := rfl
@[simp] theorem modVlt_mac (f : Vault → Vault) (s : State) : (modVlt f s).mac = s.mac := rfl
@[simp] theorem modVlt_pkt (f : Vault → Vault) (s : State) : (modVlt f s).pkt = s.pkt := rfl
@[simp] theorem modVlt_dmx (f : Vault → Vault) (s : State) : (modVlt f s).dmx = s.dmx := rfl
@[simp] theorem modVlt_rad (f : Vault → Vault) (s : State) : (modVlt f s).rad = s.rad := rfl
@[simp] theorem modVlt_esc (f : Vault → Vault) (s : State) : (modVlt f s).esc = s.esc := rfl
@[simp] theorem modVlt_map (f : Vault → Vault) (s : State) : (modVlt f s).map = s.map := rfl
@[simp] theorem modVlt_cal (f : Vault → Vault) (s : State) : (modVlt f s).cal = s.cal := rfl
@[simp] theorem modVlt_lgr (f : Vault → Vault) (s : State) : (modVlt f s).lgr = s.lgr := rfl

/-! modBank -/

@[simp] theorem modBank_part (b : Nat) (f : Bank → Bank) (s : State) : (modBank b f s).part = s.part := rfl
@[simp] theorem modBank_pending (b : Nat) (f : Bank → Bank) (s : State) : (modBank b f s).pending = s.pending := rfl
@[simp] theorem modBank_regs (b : Nat) (f : Bank → Bank) (s : State) : (modBank b f s).regs = s.regs := rfl
@[simp] theorem modBank_free (b : Nat) (f : Bank → Bank) (s : State) : (modBank b f s).free = s.free := rfl
@[simp] theorem modBank_time (b : Nat) (f : Bank → Bank) (s : State) : (modBank b f s).time = s.time := rfl
@[simp] theorem modBank_teller (b : Nat) (f : Bank → Bank) (s : State) : (modBank b f s).teller = s.teller := rfl
@[simp] theorem modBank_power (b : Nat) (f : Bank → Bank) (s : State) : (modBank b f s).power = s.power := rfl
@[simp] theorem modBank_alm (b : Nat) (f : Bank → Bank) (s : State) : (modBank b f s).alm = s.alm := rfl
@[simp] theorem modBank_fifos (b : Nat) (f : Bank → Bank) (s : State) : (modBank b f s).fifos = s.fifos := rfl
@[simp] theorem modBank_protect (b : Nat) (f : Bank → Bank) (s : State) : (modBank b f s).protect = s.protect := rfl
@[simp] theorem modBank_vin (b : Nat) (f : Bank → Bank) (s : State) : (modBank b f s).vin = s.vin := rfl
@[simp] theorem modBank_record (b : Nat) (f : Bank → Bank) (s : State) : (modBank b f s).record = s.record := rfl
@[simp] theorem modBank_cfgA (b : Nat) (f : Bank → Bank) (s : State) : (modBank b f s).cfgA = s.cfgA := rfl
@[simp] theorem modBank_cfgB (b : Nat) (f : Bank → Bank) (s : State) : (modBank b f s).cfgB = s.cfgB := rfl
@[simp] theorem modBank_cmp (b : Nat) (f : Bank → Bank) (s : State) : (modBank b f s).cmp = s.cmp := rfl
@[simp] theorem modBank_ras (b : Nat) (f : Bank → Bank) (s : State) : (modBank b f s).ras = s.ras := rfl
@[simp] theorem modBank_fxm (b : Nat) (f : Bank → Bank) (s : State) : (modBank b f s).fxm = s.fxm := rfl
@[simp] theorem modBank_pho (b : Nat) (f : Bank → Bank) (s : State) : (modBank b f s).pho = s.pho := rfl
@[simp] theorem modBank_pool (b : Nat) (f : Bank → Bank) (s : State) : (modBank b f s).pool = s.pool := rfl
@[simp] theorem modBank_lanes (b : Nat) (f : Bank → Bank) (s : State) : (modBank b f s).lanes = s.lanes := rfl
@[simp] theorem modBank_lamps (b : Nat) (f : Bank → Bank) (s : State) : (modBank b f s).lamps = s.lamps := rfl
@[simp] theorem modBank_mac (b : Nat) (f : Bank → Bank) (s : State) : (modBank b f s).mac = s.mac := rfl
@[simp] theorem modBank_pkt (b : Nat) (f : Bank → Bank) (s : State) : (modBank b f s).pkt = s.pkt := rfl
@[simp] theorem modBank_dmx (b : Nat) (f : Bank → Bank) (s : State) : (modBank b f s).dmx = s.dmx := rfl
@[simp] theorem modBank_rad (b : Nat) (f : Bank → Bank) (s : State) : (modBank b f s).rad = s.rad := rfl
@[simp] theorem modBank_esc (b : Nat) (f : Bank → Bank) (s : State) : (modBank b f s).esc = s.esc := rfl
@[simp] theorem modBank_map (b : Nat) (f : Bank → Bank) (s : State) : (modBank b f s).map = s.map := rfl
@[simp] theorem modBank_cal (b : Nat) (f : Bank → Bank) (s : State) : (modBank b f s).cal = s.cal := rfl
@[simp] theorem modBank_lgr (b : Nat) (f : Bank → Bank) (s : State) : (modBank b f s).lgr = s.lgr := rfl

/-! modLgr -/

@[simp] theorem modLgr_part (f : Ledger → Ledger) (s : State) : (modLgr f s).part = s.part := rfl
@[simp] theorem modLgr_pending (f : Ledger → Ledger) (s : State) : (modLgr f s).pending = s.pending := rfl
@[simp] theorem modLgr_regs (f : Ledger → Ledger) (s : State) : (modLgr f s).regs = s.regs := rfl
@[simp] theorem modLgr_free (f : Ledger → Ledger) (s : State) : (modLgr f s).free = s.free := rfl
@[simp] theorem modLgr_time (f : Ledger → Ledger) (s : State) : (modLgr f s).time = s.time := rfl
@[simp] theorem modLgr_teller (f : Ledger → Ledger) (s : State) : (modLgr f s).teller = s.teller := rfl
@[simp] theorem modLgr_power (f : Ledger → Ledger) (s : State) : (modLgr f s).power = s.power := rfl
@[simp] theorem modLgr_alm (f : Ledger → Ledger) (s : State) : (modLgr f s).alm = s.alm := rfl
@[simp] theorem modLgr_fifos (f : Ledger → Ledger) (s : State) : (modLgr f s).fifos = s.fifos := rfl
@[simp] theorem modLgr_protect (f : Ledger → Ledger) (s : State) : (modLgr f s).protect = s.protect := rfl
@[simp] theorem modLgr_vin (f : Ledger → Ledger) (s : State) : (modLgr f s).vin = s.vin := rfl
@[simp] theorem modLgr_record (f : Ledger → Ledger) (s : State) : (modLgr f s).record = s.record := rfl
@[simp] theorem modLgr_cfgA (f : Ledger → Ledger) (s : State) : (modLgr f s).cfgA = s.cfgA := rfl
@[simp] theorem modLgr_cfgB (f : Ledger → Ledger) (s : State) : (modLgr f s).cfgB = s.cfgB := rfl
@[simp] theorem modLgr_cmp (f : Ledger → Ledger) (s : State) : (modLgr f s).cmp = s.cmp := rfl
@[simp] theorem modLgr_ras (f : Ledger → Ledger) (s : State) : (modLgr f s).ras = s.ras := rfl
@[simp] theorem modLgr_fxm (f : Ledger → Ledger) (s : State) : (modLgr f s).fxm = s.fxm := rfl
@[simp] theorem modLgr_pho (f : Ledger → Ledger) (s : State) : (modLgr f s).pho = s.pho := rfl
@[simp] theorem modLgr_pool (f : Ledger → Ledger) (s : State) : (modLgr f s).pool = s.pool := rfl
@[simp] theorem modLgr_lanes (f : Ledger → Ledger) (s : State) : (modLgr f s).lanes = s.lanes := rfl
@[simp] theorem modLgr_lamps (f : Ledger → Ledger) (s : State) : (modLgr f s).lamps = s.lamps := rfl
@[simp] theorem modLgr_mac (f : Ledger → Ledger) (s : State) : (modLgr f s).mac = s.mac := rfl
@[simp] theorem modLgr_pkt (f : Ledger → Ledger) (s : State) : (modLgr f s).pkt = s.pkt := rfl
@[simp] theorem modLgr_dmx (f : Ledger → Ledger) (s : State) : (modLgr f s).dmx = s.dmx := rfl
@[simp] theorem modLgr_rad (f : Ledger → Ledger) (s : State) : (modLgr f s).rad = s.rad := rfl
@[simp] theorem modLgr_esc (f : Ledger → Ledger) (s : State) : (modLgr f s).esc = s.esc := rfl
@[simp] theorem modLgr_map (f : Ledger → Ledger) (s : State) : (modLgr f s).map = s.map := rfl
@[simp] theorem modLgr_cal (f : Ledger → Ledger) (s : State) : (modLgr f s).cal = s.cal := rfl
@[simp] theorem modLgr_vlt (f : Ledger → Ledger) (s : State) : (modLgr f s).vlt = s.vlt := rfl

/-! modCal -/

@[simp] theorem modCal_part (f : Cal → Cal) (s : State) : (modCal f s).part = s.part := rfl
@[simp] theorem modCal_pending (f : Cal → Cal) (s : State) : (modCal f s).pending = s.pending := rfl
@[simp] theorem modCal_regs (f : Cal → Cal) (s : State) : (modCal f s).regs = s.regs := rfl
@[simp] theorem modCal_free (f : Cal → Cal) (s : State) : (modCal f s).free = s.free := rfl
@[simp] theorem modCal_time (f : Cal → Cal) (s : State) : (modCal f s).time = s.time := rfl
@[simp] theorem modCal_teller (f : Cal → Cal) (s : State) : (modCal f s).teller = s.teller := rfl
@[simp] theorem modCal_power (f : Cal → Cal) (s : State) : (modCal f s).power = s.power := rfl
@[simp] theorem modCal_alm (f : Cal → Cal) (s : State) : (modCal f s).alm = s.alm := rfl
@[simp] theorem modCal_fifos (f : Cal → Cal) (s : State) : (modCal f s).fifos = s.fifos := rfl
@[simp] theorem modCal_protect (f : Cal → Cal) (s : State) : (modCal f s).protect = s.protect := rfl
@[simp] theorem modCal_vin (f : Cal → Cal) (s : State) : (modCal f s).vin = s.vin := rfl
@[simp] theorem modCal_record (f : Cal → Cal) (s : State) : (modCal f s).record = s.record := rfl
@[simp] theorem modCal_cfgA (f : Cal → Cal) (s : State) : (modCal f s).cfgA = s.cfgA := rfl
@[simp] theorem modCal_cfgB (f : Cal → Cal) (s : State) : (modCal f s).cfgB = s.cfgB := rfl
@[simp] theorem modCal_cmp (f : Cal → Cal) (s : State) : (modCal f s).cmp = s.cmp := rfl
@[simp] theorem modCal_ras (f : Cal → Cal) (s : State) : (modCal f s).ras = s.ras := rfl
@[simp] theorem modCal_fxm (f : Cal → Cal) (s : State) : (modCal f s).fxm = s.fxm := rfl
@[simp] theorem modCal_pho (f : Cal → Cal) (s : State) : (modCal f s).pho = s.pho := rfl
@[simp] theorem modCal_pool (f : Cal → Cal) (s : State) : (modCal f s).pool = s.pool := rfl
@[simp] theorem modCal_lanes (f : Cal → Cal) (s : State) : (modCal f s).lanes = s.lanes := rfl
@[simp] theorem modCal_lamps (f : Cal → Cal) (s : State) : (modCal f s).lamps = s.lamps := rfl
@[simp] theorem modCal_mac (f : Cal → Cal) (s : State) : (modCal f s).mac = s.mac := rfl
@[simp] theorem modCal_pkt (f : Cal → Cal) (s : State) : (modCal f s).pkt = s.pkt := rfl
@[simp] theorem modCal_dmx (f : Cal → Cal) (s : State) : (modCal f s).dmx = s.dmx := rfl
@[simp] theorem modCal_rad (f : Cal → Cal) (s : State) : (modCal f s).rad = s.rad := rfl
@[simp] theorem modCal_esc (f : Cal → Cal) (s : State) : (modCal f s).esc = s.esc := rfl
@[simp] theorem modCal_map (f : Cal → Cal) (s : State) : (modCal f s).map = s.map := rfl
@[simp] theorem modCal_vlt (f : Cal → Cal) (s : State) : (modCal f s).vlt = s.vlt := rfl
@[simp] theorem modCal_lgr (f : Cal → Cal) (s : State) : (modCal f s).lgr = s.lgr := rfl

/-! modEntry -/

@[simp] theorem modEntry_part (item : Nat) (index : Nat) (f : CalEntry → CalEntry) (s : State) : (modEntry item index f s).part = s.part := rfl
@[simp] theorem modEntry_pending (item : Nat) (index : Nat) (f : CalEntry → CalEntry) (s : State) : (modEntry item index f s).pending = s.pending := rfl
@[simp] theorem modEntry_regs (item : Nat) (index : Nat) (f : CalEntry → CalEntry) (s : State) : (modEntry item index f s).regs = s.regs := rfl
@[simp] theorem modEntry_free (item : Nat) (index : Nat) (f : CalEntry → CalEntry) (s : State) : (modEntry item index f s).free = s.free := rfl
@[simp] theorem modEntry_time (item : Nat) (index : Nat) (f : CalEntry → CalEntry) (s : State) : (modEntry item index f s).time = s.time := rfl
@[simp] theorem modEntry_teller (item : Nat) (index : Nat) (f : CalEntry → CalEntry) (s : State) : (modEntry item index f s).teller = s.teller := rfl
@[simp] theorem modEntry_power (item : Nat) (index : Nat) (f : CalEntry → CalEntry) (s : State) : (modEntry item index f s).power = s.power := rfl
@[simp] theorem modEntry_alm (item : Nat) (index : Nat) (f : CalEntry → CalEntry) (s : State) : (modEntry item index f s).alm = s.alm := rfl
@[simp] theorem modEntry_fifos (item : Nat) (index : Nat) (f : CalEntry → CalEntry) (s : State) : (modEntry item index f s).fifos = s.fifos := rfl
@[simp] theorem modEntry_protect (item : Nat) (index : Nat) (f : CalEntry → CalEntry) (s : State) : (modEntry item index f s).protect = s.protect := rfl
@[simp] theorem modEntry_vin (item : Nat) (index : Nat) (f : CalEntry → CalEntry) (s : State) : (modEntry item index f s).vin = s.vin := rfl
@[simp] theorem modEntry_record (item : Nat) (index : Nat) (f : CalEntry → CalEntry) (s : State) : (modEntry item index f s).record = s.record := rfl
@[simp] theorem modEntry_cfgA (item : Nat) (index : Nat) (f : CalEntry → CalEntry) (s : State) : (modEntry item index f s).cfgA = s.cfgA := rfl
@[simp] theorem modEntry_cfgB (item : Nat) (index : Nat) (f : CalEntry → CalEntry) (s : State) : (modEntry item index f s).cfgB = s.cfgB := rfl
@[simp] theorem modEntry_cmp (item : Nat) (index : Nat) (f : CalEntry → CalEntry) (s : State) : (modEntry item index f s).cmp = s.cmp := rfl
@[simp] theorem modEntry_ras (item : Nat) (index : Nat) (f : CalEntry → CalEntry) (s : State) : (modEntry item index f s).ras = s.ras := rfl
@[simp] theorem modEntry_fxm (item : Nat) (index : Nat) (f : CalEntry → CalEntry) (s : State) : (modEntry item index f s).fxm = s.fxm := rfl
@[simp] theorem modEntry_pho (item : Nat) (index : Nat) (f : CalEntry → CalEntry) (s : State) : (modEntry item index f s).pho = s.pho := rfl
@[simp] theorem modEntry_pool (item : Nat) (index : Nat) (f : CalEntry → CalEntry) (s : State) : (modEntry item index f s).pool = s.pool := rfl
@[simp] theorem modEntry_lanes (item : Nat) (index : Nat) (f : CalEntry → CalEntry) (s : State) : (modEntry item index f s).lanes = s.lanes := rfl
@[simp] theorem modEntry_lamps (item : Nat) (index : Nat) (f : CalEntry → CalEntry) (s : State) : (modEntry item index f s).lamps = s.lamps := rfl
@[simp] theorem modEntry_mac (item : Nat) (index : Nat) (f : CalEntry → CalEntry) (s : State) : (modEntry item index f s).mac = s.mac := rfl
@[simp] theorem modEntry_pkt (item : Nat) (index : Nat) (f : CalEntry → CalEntry) (s : State) : (modEntry item index f s).pkt = s.pkt := rfl
@[simp] theorem modEntry_dmx (item : Nat) (index : Nat) (f : CalEntry → CalEntry) (s : State) : (modEntry item index f s).dmx = s.dmx := rfl
@[simp] theorem modEntry_rad (item : Nat) (index : Nat) (f : CalEntry → CalEntry) (s : State) : (modEntry item index f s).rad = s.rad := rfl
@[simp] theorem modEntry_esc (item : Nat) (index : Nat) (f : CalEntry → CalEntry) (s : State) : (modEntry item index f s).esc = s.esc := rfl
@[simp] theorem modEntry_map (item : Nat) (index : Nat) (f : CalEntry → CalEntry) (s : State) : (modEntry item index f s).map = s.map := rfl
@[simp] theorem modEntry_vlt (item : Nat) (index : Nat) (f : CalEntry → CalEntry) (s : State) : (modEntry item index f s).vlt = s.vlt := rfl
@[simp] theorem modEntry_lgr (item : Nat) (index : Nat) (f : CalEntry → CalEntry) (s : State) : (modEntry item index f s).lgr = s.lgr := rfl

/-! modTeller -/

@[simp] theorem modTeller_part (f : Teller → Teller) (s : State) : (modTeller f s).part = s.part := rfl
@[simp] theorem modTeller_pending (f : Teller → Teller) (s : State) : (modTeller f s).pending = s.pending := rfl
@[simp] theorem modTeller_regs (f : Teller → Teller) (s : State) : (modTeller f s).regs = s.regs := rfl
@[simp] theorem modTeller_free (f : Teller → Teller) (s : State) : (modTeller f s).free = s.free := rfl
@[simp] theorem modTeller_time (f : Teller → Teller) (s : State) : (modTeller f s).time = s.time := rfl
@[simp] theorem modTeller_power (f : Teller → Teller) (s : State) : (modTeller f s).power = s.power := rfl
@[simp] theorem modTeller_alm (f : Teller → Teller) (s : State) : (modTeller f s).alm = s.alm := rfl
@[simp] theorem modTeller_fifos (f : Teller → Teller) (s : State) : (modTeller f s).fifos = s.fifos := rfl
@[simp] theorem modTeller_protect (f : Teller → Teller) (s : State) : (modTeller f s).protect = s.protect := rfl
@[simp] theorem modTeller_vin (f : Teller → Teller) (s : State) : (modTeller f s).vin = s.vin := rfl
@[simp] theorem modTeller_record (f : Teller → Teller) (s : State) : (modTeller f s).record = s.record := rfl
@[simp] theorem modTeller_cfgA (f : Teller → Teller) (s : State) : (modTeller f s).cfgA = s.cfgA := rfl
@[simp] theorem modTeller_cfgB (f : Teller → Teller) (s : State) : (modTeller f s).cfgB = s.cfgB := rfl
@[simp] theorem modTeller_cmp (f : Teller → Teller) (s : State) : (modTeller f s).cmp = s.cmp := rfl
@[simp] theorem modTeller_ras (f : Teller → Teller) (s : State) : (modTeller f s).ras = s.ras := rfl
@[simp] theorem modTeller_fxm (f : Teller → Teller) (s : State) : (modTeller f s).fxm = s.fxm := rfl
@[simp] theorem modTeller_pho (f : Teller → Teller) (s : State) : (modTeller f s).pho = s.pho := rfl
@[simp] theorem modTeller_pool (f : Teller → Teller) (s : State) : (modTeller f s).pool = s.pool := rfl
@[simp] theorem modTeller_lanes (f : Teller → Teller) (s : State) : (modTeller f s).lanes = s.lanes := rfl
@[simp] theorem modTeller_lamps (f : Teller → Teller) (s : State) : (modTeller f s).lamps = s.lamps := rfl
@[simp] theorem modTeller_mac (f : Teller → Teller) (s : State) : (modTeller f s).mac = s.mac := rfl
@[simp] theorem modTeller_pkt (f : Teller → Teller) (s : State) : (modTeller f s).pkt = s.pkt := rfl
@[simp] theorem modTeller_dmx (f : Teller → Teller) (s : State) : (modTeller f s).dmx = s.dmx := rfl
@[simp] theorem modTeller_rad (f : Teller → Teller) (s : State) : (modTeller f s).rad = s.rad := rfl
@[simp] theorem modTeller_esc (f : Teller → Teller) (s : State) : (modTeller f s).esc = s.esc := rfl
@[simp] theorem modTeller_map (f : Teller → Teller) (s : State) : (modTeller f s).map = s.map := rfl
@[simp] theorem modTeller_cal (f : Teller → Teller) (s : State) : (modTeller f s).cal = s.cal := rfl
@[simp] theorem modTeller_vlt (f : Teller → Teller) (s : State) : (modTeller f s).vlt = s.vlt := rfl
@[simp] theorem modTeller_lgr (f : Teller → Teller) (s : State) : (modTeller f s).lgr = s.lgr := rfl

/-! modPower -/

@[simp] theorem modPower_part (f : Power → Power) (s : State) : (modPower f s).part = s.part := rfl
@[simp] theorem modPower_pending (f : Power → Power) (s : State) : (modPower f s).pending = s.pending := rfl
@[simp] theorem modPower_regs (f : Power → Power) (s : State) : (modPower f s).regs = s.regs := rfl
@[simp] theorem modPower_free (f : Power → Power) (s : State) : (modPower f s).free = s.free := rfl
@[simp] theorem modPower_time (f : Power → Power) (s : State) : (modPower f s).time = s.time := rfl
@[simp] theorem modPower_teller (f : Power → Power) (s : State) : (modPower f s).teller = s.teller := rfl
@[simp] theorem modPower_alm (f : Power → Power) (s : State) : (modPower f s).alm = s.alm := rfl
@[simp] theorem modPower_fifos (f : Power → Power) (s : State) : (modPower f s).fifos = s.fifos := rfl
@[simp] theorem modPower_protect (f : Power → Power) (s : State) : (modPower f s).protect = s.protect := rfl
@[simp] theorem modPower_vin (f : Power → Power) (s : State) : (modPower f s).vin = s.vin := rfl
@[simp] theorem modPower_record (f : Power → Power) (s : State) : (modPower f s).record = s.record := rfl
@[simp] theorem modPower_cfgA (f : Power → Power) (s : State) : (modPower f s).cfgA = s.cfgA := rfl
@[simp] theorem modPower_cfgB (f : Power → Power) (s : State) : (modPower f s).cfgB = s.cfgB := rfl
@[simp] theorem modPower_cmp (f : Power → Power) (s : State) : (modPower f s).cmp = s.cmp := rfl
@[simp] theorem modPower_ras (f : Power → Power) (s : State) : (modPower f s).ras = s.ras := rfl
@[simp] theorem modPower_fxm (f : Power → Power) (s : State) : (modPower f s).fxm = s.fxm := rfl
@[simp] theorem modPower_pho (f : Power → Power) (s : State) : (modPower f s).pho = s.pho := rfl
@[simp] theorem modPower_pool (f : Power → Power) (s : State) : (modPower f s).pool = s.pool := rfl
@[simp] theorem modPower_lanes (f : Power → Power) (s : State) : (modPower f s).lanes = s.lanes := rfl
@[simp] theorem modPower_lamps (f : Power → Power) (s : State) : (modPower f s).lamps = s.lamps := rfl
@[simp] theorem modPower_mac (f : Power → Power) (s : State) : (modPower f s).mac = s.mac := rfl
@[simp] theorem modPower_pkt (f : Power → Power) (s : State) : (modPower f s).pkt = s.pkt := rfl
@[simp] theorem modPower_dmx (f : Power → Power) (s : State) : (modPower f s).dmx = s.dmx := rfl
@[simp] theorem modPower_rad (f : Power → Power) (s : State) : (modPower f s).rad = s.rad := rfl
@[simp] theorem modPower_esc (f : Power → Power) (s : State) : (modPower f s).esc = s.esc := rfl
@[simp] theorem modPower_map (f : Power → Power) (s : State) : (modPower f s).map = s.map := rfl
@[simp] theorem modPower_cal (f : Power → Power) (s : State) : (modPower f s).cal = s.cal := rfl
@[simp] theorem modPower_vlt (f : Power → Power) (s : State) : (modPower f s).vlt = s.vlt := rfl
@[simp] theorem modPower_lgr (f : Power → Power) (s : State) : (modPower f s).lgr = s.lgr := rfl

/-! modDom -/

@[simp] theorem modDom_part (d : Nat) (f : Dom → Dom) (s : State) : (modDom d f s).part = s.part := rfl
@[simp] theorem modDom_pending (d : Nat) (f : Dom → Dom) (s : State) : (modDom d f s).pending = s.pending := rfl
@[simp] theorem modDom_regs (d : Nat) (f : Dom → Dom) (s : State) : (modDom d f s).regs = s.regs := rfl
@[simp] theorem modDom_free (d : Nat) (f : Dom → Dom) (s : State) : (modDom d f s).free = s.free := rfl
@[simp] theorem modDom_time (d : Nat) (f : Dom → Dom) (s : State) : (modDom d f s).time = s.time := rfl
@[simp] theorem modDom_teller (d : Nat) (f : Dom → Dom) (s : State) : (modDom d f s).teller = s.teller := rfl
@[simp] theorem modDom_alm (d : Nat) (f : Dom → Dom) (s : State) : (modDom d f s).alm = s.alm := rfl
@[simp] theorem modDom_fifos (d : Nat) (f : Dom → Dom) (s : State) : (modDom d f s).fifos = s.fifos := rfl
@[simp] theorem modDom_protect (d : Nat) (f : Dom → Dom) (s : State) : (modDom d f s).protect = s.protect := rfl
@[simp] theorem modDom_vin (d : Nat) (f : Dom → Dom) (s : State) : (modDom d f s).vin = s.vin := rfl
@[simp] theorem modDom_record (d : Nat) (f : Dom → Dom) (s : State) : (modDom d f s).record = s.record := rfl
@[simp] theorem modDom_cfgA (d : Nat) (f : Dom → Dom) (s : State) : (modDom d f s).cfgA = s.cfgA := rfl
@[simp] theorem modDom_cfgB (d : Nat) (f : Dom → Dom) (s : State) : (modDom d f s).cfgB = s.cfgB := rfl
@[simp] theorem modDom_cmp (d : Nat) (f : Dom → Dom) (s : State) : (modDom d f s).cmp = s.cmp := rfl
@[simp] theorem modDom_ras (d : Nat) (f : Dom → Dom) (s : State) : (modDom d f s).ras = s.ras := rfl
@[simp] theorem modDom_fxm (d : Nat) (f : Dom → Dom) (s : State) : (modDom d f s).fxm = s.fxm := rfl
@[simp] theorem modDom_pho (d : Nat) (f : Dom → Dom) (s : State) : (modDom d f s).pho = s.pho := rfl
@[simp] theorem modDom_pool (d : Nat) (f : Dom → Dom) (s : State) : (modDom d f s).pool = s.pool := rfl
@[simp] theorem modDom_lanes (d : Nat) (f : Dom → Dom) (s : State) : (modDom d f s).lanes = s.lanes := rfl
@[simp] theorem modDom_lamps (d : Nat) (f : Dom → Dom) (s : State) : (modDom d f s).lamps = s.lamps := rfl
@[simp] theorem modDom_mac (d : Nat) (f : Dom → Dom) (s : State) : (modDom d f s).mac = s.mac := rfl
@[simp] theorem modDom_pkt (d : Nat) (f : Dom → Dom) (s : State) : (modDom d f s).pkt = s.pkt := rfl
@[simp] theorem modDom_dmx (d : Nat) (f : Dom → Dom) (s : State) : (modDom d f s).dmx = s.dmx := rfl
@[simp] theorem modDom_rad (d : Nat) (f : Dom → Dom) (s : State) : (modDom d f s).rad = s.rad := rfl
@[simp] theorem modDom_esc (d : Nat) (f : Dom → Dom) (s : State) : (modDom d f s).esc = s.esc := rfl
@[simp] theorem modDom_map (d : Nat) (f : Dom → Dom) (s : State) : (modDom d f s).map = s.map := rfl
@[simp] theorem modDom_cal (d : Nat) (f : Dom → Dom) (s : State) : (modDom d f s).cal = s.cal := rfl
@[simp] theorem modDom_vlt (d : Nat) (f : Dom → Dom) (s : State) : (modDom d f s).vlt = s.vlt := rfl
@[simp] theorem modDom_lgr (d : Nat) (f : Dom → Dom) (s : State) : (modDom d f s).lgr = s.lgr := rfl

/-! modThermal -/

@[simp] theorem modThermal_part (f : Thermal → Thermal) (s : State) : (modThermal f s).part = s.part := rfl
@[simp] theorem modThermal_pending (f : Thermal → Thermal) (s : State) : (modThermal f s).pending = s.pending := rfl
@[simp] theorem modThermal_regs (f : Thermal → Thermal) (s : State) : (modThermal f s).regs = s.regs := rfl
@[simp] theorem modThermal_free (f : Thermal → Thermal) (s : State) : (modThermal f s).free = s.free := rfl
@[simp] theorem modThermal_time (f : Thermal → Thermal) (s : State) : (modThermal f s).time = s.time := rfl
@[simp] theorem modThermal_teller (f : Thermal → Thermal) (s : State) : (modThermal f s).teller = s.teller := rfl
@[simp] theorem modThermal_alm (f : Thermal → Thermal) (s : State) : (modThermal f s).alm = s.alm := rfl
@[simp] theorem modThermal_fifos (f : Thermal → Thermal) (s : State) : (modThermal f s).fifos = s.fifos := rfl
@[simp] theorem modThermal_protect (f : Thermal → Thermal) (s : State) : (modThermal f s).protect = s.protect := rfl
@[simp] theorem modThermal_vin (f : Thermal → Thermal) (s : State) : (modThermal f s).vin = s.vin := rfl
@[simp] theorem modThermal_record (f : Thermal → Thermal) (s : State) : (modThermal f s).record = s.record := rfl
@[simp] theorem modThermal_cfgA (f : Thermal → Thermal) (s : State) : (modThermal f s).cfgA = s.cfgA := rfl
@[simp] theorem modThermal_cfgB (f : Thermal → Thermal) (s : State) : (modThermal f s).cfgB = s.cfgB := rfl
@[simp] theorem modThermal_cmp (f : Thermal → Thermal) (s : State) : (modThermal f s).cmp = s.cmp := rfl
@[simp] theorem modThermal_ras (f : Thermal → Thermal) (s : State) : (modThermal f s).ras = s.ras := rfl
@[simp] theorem modThermal_fxm (f : Thermal → Thermal) (s : State) : (modThermal f s).fxm = s.fxm := rfl
@[simp] theorem modThermal_pho (f : Thermal → Thermal) (s : State) : (modThermal f s).pho = s.pho := rfl
@[simp] theorem modThermal_pool (f : Thermal → Thermal) (s : State) : (modThermal f s).pool = s.pool := rfl
@[simp] theorem modThermal_lanes (f : Thermal → Thermal) (s : State) : (modThermal f s).lanes = s.lanes := rfl
@[simp] theorem modThermal_lamps (f : Thermal → Thermal) (s : State) : (modThermal f s).lamps = s.lamps := rfl
@[simp] theorem modThermal_mac (f : Thermal → Thermal) (s : State) : (modThermal f s).mac = s.mac := rfl
@[simp] theorem modThermal_pkt (f : Thermal → Thermal) (s : State) : (modThermal f s).pkt = s.pkt := rfl
@[simp] theorem modThermal_dmx (f : Thermal → Thermal) (s : State) : (modThermal f s).dmx = s.dmx := rfl
@[simp] theorem modThermal_rad (f : Thermal → Thermal) (s : State) : (modThermal f s).rad = s.rad := rfl
@[simp] theorem modThermal_esc (f : Thermal → Thermal) (s : State) : (modThermal f s).esc = s.esc := rfl
@[simp] theorem modThermal_map (f : Thermal → Thermal) (s : State) : (modThermal f s).map = s.map := rfl
@[simp] theorem modThermal_cal (f : Thermal → Thermal) (s : State) : (modThermal f s).cal = s.cal := rfl
@[simp] theorem modThermal_vlt (f : Thermal → Thermal) (s : State) : (modThermal f s).vlt = s.vlt := rfl
@[simp] theorem modThermal_lgr (f : Thermal → Thermal) (s : State) : (modThermal f s).lgr = s.lgr := rfl

/-! Notices change the registers and Teller alone (R566). -/

@[simp] theorem notify_part (code len : Nat) (fields : List Int) (s : State) : (notify code len fields s).part = s.part :=
  have h := notify_only (List.Subset.refl _) (only_refl _ s) (code := code) (len := len) (fields := fields)
  h.1
@[simp] theorem notify_pending (code len : Nat) (fields : List Int) (s : State) : (notify code len fields s).pending = s.pending :=
  have h := notify_only (List.Subset.refl _) (only_refl _ s) (code := code) (len := len) (fields := fields)
  h.2.1
@[simp] theorem notify_free (code len : Nat) (fields : List Int) (s : State) : (notify code len fields s).free = s.free :=
  have h := notify_only (List.Subset.refl _) (only_refl _ s) (code := code) (len := len) (fields := fields)
  h.2.2 .free (by decide)
@[simp] theorem notify_time (code len : Nat) (fields : List Int) (s : State) : (notify code len fields s).time = s.time :=
  have h := notify_only (List.Subset.refl _) (only_refl _ s) (code := code) (len := len) (fields := fields)
  h.2.2 .time (by decide)
@[simp] theorem notify_power (code len : Nat) (fields : List Int) (s : State) : (notify code len fields s).power = s.power :=
  have h := notify_only (List.Subset.refl _) (only_refl _ s) (code := code) (len := len) (fields := fields)
  h.2.2 .power (by decide)
@[simp] theorem notify_alm (code len : Nat) (fields : List Int) (s : State) : (notify code len fields s).alm = s.alm :=
  have h := notify_only (List.Subset.refl _) (only_refl _ s) (code := code) (len := len) (fields := fields)
  h.2.2 .alm (by decide)
@[simp] theorem notify_fifos (code len : Nat) (fields : List Int) (s : State) : (notify code len fields s).fifos = s.fifos :=
  have h := notify_only (List.Subset.refl _) (only_refl _ s) (code := code) (len := len) (fields := fields)
  h.2.2 .fifos (by decide)
@[simp] theorem notify_protect (code len : Nat) (fields : List Int) (s : State) : (notify code len fields s).protect = s.protect :=
  have h := notify_only (List.Subset.refl _) (only_refl _ s) (code := code) (len := len) (fields := fields)
  h.2.2 .protect (by decide)
@[simp] theorem notify_vin (code len : Nat) (fields : List Int) (s : State) : (notify code len fields s).vin = s.vin :=
  have h := notify_only (List.Subset.refl _) (only_refl _ s) (code := code) (len := len) (fields := fields)
  h.2.2 .vin (by decide)
@[simp] theorem notify_record (code len : Nat) (fields : List Int) (s : State) : (notify code len fields s).record = s.record :=
  have h := notify_only (List.Subset.refl _) (only_refl _ s) (code := code) (len := len) (fields := fields)
  h.2.2 .record (by decide)
@[simp] theorem notify_cfgA (code len : Nat) (fields : List Int) (s : State) : (notify code len fields s).cfgA = s.cfgA :=
  have h := notify_only (List.Subset.refl _) (only_refl _ s) (code := code) (len := len) (fields := fields)
  h.2.2 .cfgA (by decide)
@[simp] theorem notify_cfgB (code len : Nat) (fields : List Int) (s : State) : (notify code len fields s).cfgB = s.cfgB :=
  have h := notify_only (List.Subset.refl _) (only_refl _ s) (code := code) (len := len) (fields := fields)
  h.2.2 .cfgB (by decide)
@[simp] theorem notify_cmp (code len : Nat) (fields : List Int) (s : State) : (notify code len fields s).cmp = s.cmp :=
  have h := notify_only (List.Subset.refl _) (only_refl _ s) (code := code) (len := len) (fields := fields)
  h.2.2 .cmp (by decide)
@[simp] theorem notify_ras (code len : Nat) (fields : List Int) (s : State) : (notify code len fields s).ras = s.ras :=
  have h := notify_only (List.Subset.refl _) (only_refl _ s) (code := code) (len := len) (fields := fields)
  h.2.2 .ras (by decide)
@[simp] theorem notify_fxm (code len : Nat) (fields : List Int) (s : State) : (notify code len fields s).fxm = s.fxm :=
  have h := notify_only (List.Subset.refl _) (only_refl _ s) (code := code) (len := len) (fields := fields)
  h.2.2 .fxm (by decide)
@[simp] theorem notify_pho (code len : Nat) (fields : List Int) (s : State) : (notify code len fields s).pho = s.pho :=
  have h := notify_only (List.Subset.refl _) (only_refl _ s) (code := code) (len := len) (fields := fields)
  h.2.2 .pho (by decide)
@[simp] theorem notify_pool (code len : Nat) (fields : List Int) (s : State) : (notify code len fields s).pool = s.pool :=
  have h := notify_only (List.Subset.refl _) (only_refl _ s) (code := code) (len := len) (fields := fields)
  h.2.2 .pool (by decide)
@[simp] theorem notify_lanes (code len : Nat) (fields : List Int) (s : State) : (notify code len fields s).lanes = s.lanes :=
  have h := notify_only (List.Subset.refl _) (only_refl _ s) (code := code) (len := len) (fields := fields)
  h.2.2 .lanes (by decide)
@[simp] theorem notify_lamps (code len : Nat) (fields : List Int) (s : State) : (notify code len fields s).lamps = s.lamps :=
  have h := notify_only (List.Subset.refl _) (only_refl _ s) (code := code) (len := len) (fields := fields)
  h.2.2 .lamps (by decide)
@[simp] theorem notify_mac (code len : Nat) (fields : List Int) (s : State) : (notify code len fields s).mac = s.mac :=
  have h := notify_only (List.Subset.refl _) (only_refl _ s) (code := code) (len := len) (fields := fields)
  h.2.2 .mac (by decide)
@[simp] theorem notify_pkt (code len : Nat) (fields : List Int) (s : State) : (notify code len fields s).pkt = s.pkt :=
  have h := notify_only (List.Subset.refl _) (only_refl _ s) (code := code) (len := len) (fields := fields)
  h.2.2 .pkt (by decide)
@[simp] theorem notify_dmx (code len : Nat) (fields : List Int) (s : State) : (notify code len fields s).dmx = s.dmx :=
  have h := notify_only (List.Subset.refl _) (only_refl _ s) (code := code) (len := len) (fields := fields)
  h.2.2 .dmx (by decide)
@[simp] theorem notify_rad (code len : Nat) (fields : List Int) (s : State) : (notify code len fields s).rad = s.rad :=
  have h := notify_only (List.Subset.refl _) (only_refl _ s) (code := code) (len := len) (fields := fields)
  h.2.2 .rad (by decide)
@[simp] theorem notify_esc (code len : Nat) (fields : List Int) (s : State) : (notify code len fields s).esc = s.esc :=
  have h := notify_only (List.Subset.refl _) (only_refl _ s) (code := code) (len := len) (fields := fields)
  h.2.2 .esc (by decide)
@[simp] theorem notify_map (code len : Nat) (fields : List Int) (s : State) : (notify code len fields s).map = s.map :=
  have h := notify_only (List.Subset.refl _) (only_refl _ s) (code := code) (len := len) (fields := fields)
  h.2.2 .map (by decide)
@[simp] theorem notify_cal (code len : Nat) (fields : List Int) (s : State) : (notify code len fields s).cal = s.cal :=
  have h := notify_only (List.Subset.refl _) (only_refl _ s) (code := code) (len := len) (fields := fields)
  h.2.2 .cal (by decide)
@[simp] theorem notify_vlt (code len : Nat) (fields : List Int) (s : State) : (notify code len fields s).vlt = s.vlt :=
  have h := notify_only (List.Subset.refl _) (only_refl _ s) (code := code) (len := len) (fields := fields)
  h.2.2 .vlt (by decide)
@[simp] theorem notify_lgr (code len : Nat) (fields : List Int) (s : State) : (notify code len fields s).lgr = s.lgr :=
  have h := notify_only (List.Subset.refl _) (only_refl _ s) (code := code) (len := len) (fields := fields)
  h.2.2 .lgr (by decide)

/-! A run of a channel of Teller. -/

@[simp] theorem tellerRun_part (ch : Nat) (bs : List (BitVec 8)) (s : State) : (tellerRun ch bs s).part = s.part := rfl
@[simp] theorem tellerRun_pending (ch : Nat) (bs : List (BitVec 8)) (s : State) : (tellerRun ch bs s).pending = s.pending := rfl
@[simp] theorem tellerRun_regs (ch : Nat) (bs : List (BitVec 8)) (s : State) : (tellerRun ch bs s).regs = s.regs := rfl
@[simp] theorem tellerRun_free (ch : Nat) (bs : List (BitVec 8)) (s : State) : (tellerRun ch bs s).free = s.free := rfl
@[simp] theorem tellerRun_time (ch : Nat) (bs : List (BitVec 8)) (s : State) : (tellerRun ch bs s).time = s.time := rfl
@[simp] theorem tellerRun_power (ch : Nat) (bs : List (BitVec 8)) (s : State) : (tellerRun ch bs s).power = s.power := rfl
@[simp] theorem tellerRun_alm (ch : Nat) (bs : List (BitVec 8)) (s : State) : (tellerRun ch bs s).alm = s.alm := rfl
@[simp] theorem tellerRun_fifos (ch : Nat) (bs : List (BitVec 8)) (s : State) : (tellerRun ch bs s).fifos = s.fifos := rfl
@[simp] theorem tellerRun_protect (ch : Nat) (bs : List (BitVec 8)) (s : State) : (tellerRun ch bs s).protect = s.protect := rfl
@[simp] theorem tellerRun_vin (ch : Nat) (bs : List (BitVec 8)) (s : State) : (tellerRun ch bs s).vin = s.vin := rfl
@[simp] theorem tellerRun_record (ch : Nat) (bs : List (BitVec 8)) (s : State) : (tellerRun ch bs s).record = s.record := rfl
@[simp] theorem tellerRun_cfgA (ch : Nat) (bs : List (BitVec 8)) (s : State) : (tellerRun ch bs s).cfgA = s.cfgA := rfl
@[simp] theorem tellerRun_cfgB (ch : Nat) (bs : List (BitVec 8)) (s : State) : (tellerRun ch bs s).cfgB = s.cfgB := rfl
@[simp] theorem tellerRun_cmp (ch : Nat) (bs : List (BitVec 8)) (s : State) : (tellerRun ch bs s).cmp = s.cmp := rfl
@[simp] theorem tellerRun_ras (ch : Nat) (bs : List (BitVec 8)) (s : State) : (tellerRun ch bs s).ras = s.ras := rfl
@[simp] theorem tellerRun_fxm (ch : Nat) (bs : List (BitVec 8)) (s : State) : (tellerRun ch bs s).fxm = s.fxm := rfl
@[simp] theorem tellerRun_pho (ch : Nat) (bs : List (BitVec 8)) (s : State) : (tellerRun ch bs s).pho = s.pho := rfl
@[simp] theorem tellerRun_pool (ch : Nat) (bs : List (BitVec 8)) (s : State) : (tellerRun ch bs s).pool = s.pool := rfl
@[simp] theorem tellerRun_lanes (ch : Nat) (bs : List (BitVec 8)) (s : State) : (tellerRun ch bs s).lanes = s.lanes := rfl
@[simp] theorem tellerRun_lamps (ch : Nat) (bs : List (BitVec 8)) (s : State) : (tellerRun ch bs s).lamps = s.lamps := rfl
@[simp] theorem tellerRun_mac (ch : Nat) (bs : List (BitVec 8)) (s : State) : (tellerRun ch bs s).mac = s.mac := rfl
@[simp] theorem tellerRun_pkt (ch : Nat) (bs : List (BitVec 8)) (s : State) : (tellerRun ch bs s).pkt = s.pkt := rfl
@[simp] theorem tellerRun_dmx (ch : Nat) (bs : List (BitVec 8)) (s : State) : (tellerRun ch bs s).dmx = s.dmx := rfl
@[simp] theorem tellerRun_rad (ch : Nat) (bs : List (BitVec 8)) (s : State) : (tellerRun ch bs s).rad = s.rad := rfl
@[simp] theorem tellerRun_esc (ch : Nat) (bs : List (BitVec 8)) (s : State) : (tellerRun ch bs s).esc = s.esc := rfl
@[simp] theorem tellerRun_map (ch : Nat) (bs : List (BitVec 8)) (s : State) : (tellerRun ch bs s).map = s.map := rfl
@[simp] theorem tellerRun_cal (ch : Nat) (bs : List (BitVec 8)) (s : State) : (tellerRun ch bs s).cal = s.cal := rfl
@[simp] theorem tellerRun_vlt (ch : Nat) (bs : List (BitVec 8)) (s : State) : (tellerRun ch bs s).vlt = s.vlt := rfl
@[simp] theorem tellerRun_lgr (ch : Nat) (bs : List (BitVec 8)) (s : State) : (tellerRun ch bs s).lgr = s.lgr := rfl

/-! A configuration in both parts. -/

@[simp] theorem bothParts_part (r : Cfg) (s : State) : (bothParts r s).part = s.part := rfl
@[simp] theorem bothParts_pending (r : Cfg) (s : State) : (bothParts r s).pending = s.pending := rfl
@[simp] theorem bothParts_regs (r : Cfg) (s : State) : (bothParts r s).regs = s.regs := rfl
@[simp] theorem bothParts_free (r : Cfg) (s : State) : (bothParts r s).free = s.free := rfl
@[simp] theorem bothParts_time (r : Cfg) (s : State) : (bothParts r s).time = s.time := rfl
@[simp] theorem bothParts_teller (r : Cfg) (s : State) : (bothParts r s).teller = s.teller := rfl
@[simp] theorem bothParts_power (r : Cfg) (s : State) : (bothParts r s).power = s.power := rfl
@[simp] theorem bothParts_alm (r : Cfg) (s : State) : (bothParts r s).alm = s.alm := rfl
@[simp] theorem bothParts_fifos (r : Cfg) (s : State) : (bothParts r s).fifos = s.fifos := rfl
@[simp] theorem bothParts_protect (r : Cfg) (s : State) : (bothParts r s).protect = s.protect := rfl
@[simp] theorem bothParts_vin (r : Cfg) (s : State) : (bothParts r s).vin = s.vin := rfl
@[simp] theorem bothParts_record (r : Cfg) (s : State) : (bothParts r s).record = s.record := rfl
@[simp] theorem bothParts_cfgA (r : Cfg) (s : State) : (bothParts r s).cfgA = r := rfl
@[simp] theorem bothParts_cfgB (r : Cfg) (s : State) : (bothParts r s).cfgB = r := rfl
@[simp] theorem bothParts_cmp (r : Cfg) (s : State) : (bothParts r s).cmp = s.cmp := rfl
@[simp] theorem bothParts_ras (r : Cfg) (s : State) : (bothParts r s).ras = s.ras := rfl
@[simp] theorem bothParts_fxm (r : Cfg) (s : State) : (bothParts r s).fxm = s.fxm := rfl
@[simp] theorem bothParts_pho (r : Cfg) (s : State) : (bothParts r s).pho = s.pho := rfl
@[simp] theorem bothParts_pool (r : Cfg) (s : State) : (bothParts r s).pool = s.pool := rfl
@[simp] theorem bothParts_lanes (r : Cfg) (s : State) : (bothParts r s).lanes = s.lanes := rfl
@[simp] theorem bothParts_lamps (r : Cfg) (s : State) : (bothParts r s).lamps = s.lamps := rfl
@[simp] theorem bothParts_mac (r : Cfg) (s : State) : (bothParts r s).mac = s.mac := rfl
@[simp] theorem bothParts_pkt (r : Cfg) (s : State) : (bothParts r s).pkt = s.pkt := rfl
@[simp] theorem bothParts_dmx (r : Cfg) (s : State) : (bothParts r s).dmx = s.dmx := rfl
@[simp] theorem bothParts_rad (r : Cfg) (s : State) : (bothParts r s).rad = s.rad := rfl
@[simp] theorem bothParts_esc (r : Cfg) (s : State) : (bothParts r s).esc = s.esc := rfl
@[simp] theorem bothParts_map (r : Cfg) (s : State) : (bothParts r s).map = s.map := rfl
@[simp] theorem bothParts_cal (r : Cfg) (s : State) : (bothParts r s).cal = s.cal := rfl
@[simp] theorem bothParts_vlt (r : Cfg) (s : State) : (bothParts r s).vlt = s.vlt := rfl
@[simp] theorem bothParts_lgr (r : Cfg) (s : State) : (bothParts r s).lgr = s.lgr := rfl

end Sys2Proof.Laws
end

