-- ==== Sys2Proof/Tests/States.lean ====
section
/-! SUPPORT. The small states and operands that the tests use. -/

namespace Sys2Proof.Tests

open Sys2Proof.Machine Sys2Proof.Safety

/-- A machine in mode `m`, every domain on, the PCIe session open, 1,000 s after power-up. -/
def live (m : Mode) : State :=
  { State.reset with
    power := { Power.reset with mode := m, pwrEn := true, pwrGood := true, domains := Vector.replicate 14 (Dom.reset .on) }
    teller := { Teller.reset with sessions := vMod Teller.reset.sessions 0 (fun x => { x with isOpen := true }) }
    time := { Time.reset with now := 1000000000000 } }

/-- The same in `SHOW` with show time running, between F(10) and F(11). -/
def showing : State :=
  { live .show with time := { (live .show).time with
      running := true, fcount := 10, st64 := 170000000, tbEnd := 183333334, bases := vMod Time.reset.bases 0 (fun b => { b with ns := 170000000 }) } }

/-- A command of the PCIe session. -/
def call : Call := ⟨0, 0, 1⟩

/-- `SHOW` with a commit of the PCIe session open. -/
def opened : State := { showing with teller := { showing.teller with openCommit := some ⟨0, [], 0⟩ } }

/-- `SHOW` with a full commit of the PCIe session open. -/
def filled : State := { showing with teller := { showing.teller with openCommit := some ⟨0, [], 134217721⟩ } }

def bindMsg : LayerBind := ⟨0, 20, 0, 0⟩

def badBind : LayerBind := ⟨16, 20, 0, 0⟩

/-- The row of the register at an address. -/
def row (a : Nat) : RegDesc := (findReg a).getD ⟨0, 0, 0, 0, 0, 0, 0, 0, 0⟩

def noRadio : State := { live .diagnose with part := .rk9210 }

/-- SYS_BUSERR holds an error. -/
def erred : State := setReg R.SYS_BUSERR 0x81000010 showing

/-- A RWS register's W1C flag is set. -/
def flagged : State := setReg R.TIM_INT_STAT 0x5 showing

def counting : State := setReg (R.TIM_TBn_LOSS 1) 7 showing

/-- `DIAGNOSE`, and the same with Vault in approved mode. -/
def diag : State := live .diagnose

def diagApproved : State := { diag with vlt := { diag.vlt with state := .approved } }

def traceFrozen_ : State := { showing with alm := { showing.alm with traceFrozen := true } }

/-- A time base changed in `showing`. -/
def base (i : Nat) (f : TimeBase → TimeBase) (s : State) : State := { s with time := { s.time with bases := vMod s.time.bases i f } }

def baseSet : TimeBaseSet := ⟨3, 2, 10, 15, 127, 0, 1, -5, 100000, 0⟩

/-- Time base 0, selected, and time base 1, not selected, stand in DISCONTINUITY, C far beyond the threshold. -/
def stepped : State := base 1 (fun b => { b with state := .discontinuity, stepId := 7 })
  (base 0 (fun b => { b with state := .discontinuity, stepId := 3, ns := 9000000000 }) showing)

def standby : State := live .standby

/-- Time base 0 on two PTP instances, A active and locked for 10 s, B locked, within the limit. -/
def paths : State := base 0 (fun b => { b with
    state := .locked
    a := { RefPath.reset with locked := true, lost := false, lockedAt := 985000000000, lastAt := 990000000000, interval := 125000000 }
    b := { RefPath.reset with locked := true, lost := false, lockedAt := 990000000000, rel := 100000 } })
  (setReg (R.TIM_TBn_CFG 0) 0x010042C1 showing)

/-- The same with B active. -/
def onB : State := base 0 (fun b => { b with activeB := true, a := { b.a with lockedAt := 990000000000 } }) paths

/-- Time base 2 on mains alone. -/
def mains : State :=
    base 2 (fun b => { b with state := .locked, a := { RefPath.reset with locked := true, lost := false, lastAt := 999000000000, interval := 20000000 } })
  (setReg (R.TIM_TBn_CFG 2) 6 showing)

def masterOn : PtpMaster := ⟨[128, 6, 33, 1, 128, 5, 0, 9], 999000000000, 1000000000⟩

/-- Time base 0 on two PTP instances with a master on A. -/
def mastered : State := base 0 (fun b => { b with a := { b.a with master := some masterOn } }) paths

def sync : SourceUpdate := ⟨2000, 0, true, 500, -3, 9, none, .bi625, ⟨0, 0, 0, 0, 25, false⟩, 0⟩

def announce : Announce := ⟨0, [128, 6, 33, 1, 128, 5, 0, 9]⟩

def rtcDue : State :=
    base 0 (fun b => { b with state := .locked, ns := 77000000000 }) { showing with time := { showing.time with rtcCopied := 940000000000 } }

/-- A crossing of mains was valid 66,667 us ago, an edge came 15,385 us ago. -/
def crossed : State := { showing with time := { showing.time with mainsEdge := some 999984615000, mainsValid := some (999933333000, 20000, 5) } }

/-- Two accepted steps at F(10), one 2.0 ms old. -/
def accepting : State := { showing with time := { showing.time with accepts := [⟨0, 0, 3, 164666666⟩, ⟨0, 1, 3, 164666667⟩] } }

/-- A cue at a time, its stage held. -/
def cue : CueSchedule := ⟨5, 0, 1, 3, 0, 175000000, 0, 9⟩

def cueHeld (l : List Cue) (s : State) : State := { s with
  teller := { s.teller with stages := [⟨9, [], false, false⟩] }
  alm := { s.alm with cues := l } }

def held : Cue := ⟨5, 0, 1, 3, 175000000, 0, 9, some 175000000, false, false, false, 1, false, 0, false, 170000000, 0⟩

def heldDue : Cue := { held with when_ := 170000000, due := some 170000000, since := 169999500, late := false }

def fullCues : State := cueHeld (List.replicate 16384 held) showing

def traced : State := { showing with alm := { showing.alm with traceWr := 1, trace := [(0, ⟨170000000, 0, 10, 5, 6, 14, 3, 0, 0, 0⟩)] } }

/-- A descriptor of background work. -/
def work (p target order : Nat) (ready : Option Int) : Descriptor := ⟨.housekeeping 1, 0, 0, p, target, [], none, ready, false, order⟩

def works (l : List Descriptor) : State := { showing with alm := { showing.alm with descriptors := l } }

def pastWork : State := works [{ work 6 14 0 none with deadline := some 169999999 }]

def timer (due since : Int) : TimerEntry := ⟨due, .teller 3, false, 0, false, since⟩

def retries : State := { showing with alm := { showing.alm with timerRetry := [timer 175000000 0], descriptorRetry := [work 6 14 0 none] } }

def retriesFull : State := { retries with alm := { retries.alm with timers := List.replicate 1024 (timer 175000000 0) } }

def triggered : State := { showing with alm := { showing.alm with traceTrigger := some ⟨7, 1, 0, 4⟩ } }

def armedWith (o : Output) (at_ : Int) : State := { showing with alm := { showing.alm with armed := [⟨o, at_, []⟩] } }

def timed : State := { showing with alm := { showing.alm with timers := [timer 170000000 169000000] } }

/-- Channel 3 is owned by 5, four bytes a word; on channel 4 the alive value is judged, the last one 65,535. -/
def channels : State := setReg (R.CHK_CHn_RUN 3) 0x12345678 (setReg (R.CHK_CHn_CTRL 3) 0x05000018
  (setReg (R.CHK_CHn_ALIVE 4) 0x1FFFF (setReg (R.CHK_CHn_CTRL 4) 0x05000040 showing)))

/-- Queue 2 is enabled, holds a packet of two words, and takes a packet. -/
def queued (f : Fifo → Fifo) : State := { setReg (R.FIF_Qn_CFG 2) 0x100 showing with fifos := vMod showing.fifos 2 f }

def inPacket (f : Fifo) : Fifo := { f with wr := 4, rd := 4, priv := 4, curBytes := 3, pktBytes := 3, discarding := false }

def packet (f : Fifo) : Fifo := { f with
  mem := [(4, ⟨0x0807060504030201, 0, parityOf (bytes64 0x0807060504030201)⟩), (5, ⟨0x0A09, 10, parityOf (bytes64 0x0A09)⟩)]
  wr := 6, rd := 4, priv := 6, packets := 1, raised := 1 }

def fullQueue (f : Fifo) : Fifo :=
    { f with wr := 512, rd := 0, priv := 512, discarding := false, mem := (List.range 512).map (fun i => (i, ⟨0, 8, 255⟩)) , packets := 512 }

def parityFound : ErrorFound := ⟨4, 0, 0x1234, [7, 0, 0], 1, 9, 2, 3, none⟩

def notFound_ : ErrorFound := { parityFound with parity := parityOf [7, 0, 0] }

def secded (site kind : Nat) : ErrorFound := ⟨site, kind, 0x1234, [], 0, 20, 2, 3, none⟩

def errored : State := setReg R.CHK_ERR_CAP 0x84000001 showing

def badEntry : State := { showing with protect := { showing.protect with badEntries := [7, 9] } }

def handing (site kind : Nat) : State := { showing with protect := { showing.protect with handoffs := [(site, kind, 3)] } }

def stopped : State := { showing with power := { showing.power with domains := Vector.replicate 14 (Dom.reset .off) } }

/-- A source changed. -/
def src (i : Nat) (f : Source → Source) (s : State) : State := { s with vin := { s.vin with sources := vMod s.vin.sources i f } }

def withCfg (c : Cfg) (s : State) : State := { s with record := c, cfgA := c, cfgB := c }

/-- Stream 2, source 6: 1920 × 1080 at 60 Hz on both paths, its raster in force. -/
def streamSet : InputStreamSet := ⟨2, 3, 96, 0, 10, 0, 0, 0, 1920, 1080, 60, 1, 0xEF010101, 0, 0xEF010102, 0, 8, 9, 1000, 0⟩

def streaming (m : StreamMerge) : State :=
  src 6 (fun x => { x with state := .running, lastDone := 999990000000, merge := m }) (withCfg { Cfg.empty with streams := [(2, streamSet)] } showing)

/-- 1, 2 and 4 have come, 1 starts and 4 ends the frame; 2 has come only on A, 4 only on B. -/
def merge : StreamMerge := ⟨[4, 2, 1], [(2, 999999500000)], [(4, 999999600000)], some 1, [(4, 999999600000)], [], 999999600000, []⟩

def mergeOld : StreamMerge := ⟨[4, 2, 1], [(2, 999998500000)], [(4, 999998600000)], some 1, [(4, 999998600000)], [], 999998600000, []⟩

def mergeWhole : StreamMerge := ⟨[4, 3, 2, 1], [], [], some 1, [(4, 999998600000)], [], 999998600000, []⟩

def pkt (seq : Word) (pt : Nat) : StreamPacket := ⟨seq, pt, 7, 0, 0, 100, false⟩

/-- SDI input 1 in a state. -/
def sdi (st : SourceState) : State :=
    src 1 (fun x => { x with state := st, lastDone := 999990000000, width := 1920, height := 1080, rateNum := 60, rateDen := 1, period := 16666667 })
  { showing with regs := { showing.regs with inForce := aPut showing.regs.inForce (R.VIN_Sn_RASTER 1) (BitVec.ofNat 32 (1080 * 65536 + 1920)) } }

def sdiStill (st : SourceState) : State := src 1 (fun x => { x with lastDone := 900000000000 }) (sdi st)

def frameIn : FrameIn := ⟨1920, 1080, true, true, false, 60, 1, true, ⟨0, 10, false, false, 0⟩, ⟨64, 512, 512⟩, []⟩

/-- Generator 3, source 23. -/
def generating : State := src 23 (fun x => { x with state := .running }) (withCfg { Cfg.empty with
  generators := [(3, ⟨3, 0, 0, 0, 64, 64, ⟨1, 2, 3, 65535⟩, ⟨0, 0, 0, 65535⟩, 8, 0⟩)] } showing)

def canvas : Canvas := ⟨10, 64, 32, ⟨⟨0, 0, 0, 65535⟩, []⟩, []⟩

/-- Canvas 3, of frame 10, is being composed; `lines` lines are done. -/
def composing (lines : Nat) : State :=
    { showing with cmp := { showing.cmp with canvases := [(3, canvas)], count := 4, lines := lines, complete := false } }

def monFrame (n : Nat) (k : Int) (refused : List Nat) : MonFrame := ⟨n, canvas, [], k, 0, 5, refused, 32, 1000⟩

/-- A raster of 1080p60, m = 1, on canvas of the compositor (source 1), `r` its state. -/
def raster (f : Ras → Ras) : State := { showing with
  regs := { showing.regs with inForce := aPut showing.regs.inForce R.RAS_CFG 0x04018004 }
  ras := f { showing.ras with running := true, fresh := false, r := 5, nextJ := 11, gridK := 10, start := 166666667, next := 183333334 } }

def rasterDue (f : Ras → Ras) : State := raster (fun r => f { r with r := 4, nextJ := 10, gridK := 9, start := 150000000, next := 166666667 })

def drifting : State := let s := rasterDue (fun r => { r with error := 20000 }); s

def matching : State := setReg R.RAS_LMATCH 0x80000007 (raster id)

def engine (e : Nat) (f : Engine → Engine) (s : State) : State := { s with map := { s.map with engines := vMod s.map.engines e f } }

def mapping (f : MapFrame → MapFrame) : State := engine 2 (fun x => { x with role := .active }) { showing with map := { showing.map with
frame := some (f ⟨11, 169000000, 171000000, Cfg.empty, some 3, [⟨0, [⟨5, 0, 16⟩], 16, 1⟩, ⟨1, [⟨6, 0, 4⟩], 4, 1⟩], 0, [0], [], [], [], [], [], true,
    0, 0, 0⟩) } }

def mapFrame (f : MapFrame → MapFrame) : MapFrame :=
  f ⟨11, 169000000, 171000000, Cfg.empty, some 3, [⟨0, [⟨5, 0, 16⟩], 16, 1⟩, ⟨1, [⟨6, 0, 4⟩], 4, 1⟩], 0, [0], [], [], [], [], [], true, 0, 0, 0⟩

def claimed (f : MapFrame) : MapFrame := { f with claims := 1 }

def lateFrame (f : MapFrame) : MapFrame := { f with claims := 1, deadline := 169500000 }

def holdsTile (h : HeldTile) (s : State) : State := engine 2 (fun x => { x with held := some h }) s

def tile0 : Tile := ⟨0, [⟨5, 0, 16⟩], 16, 1⟩

def failedEngine (e : Nat) : State := engine e (fun x => { x with role := .failed }) showing

def kernelImage : KernelLoad := ⟨200, 0, 2, 2, 10, 32, 4, 2, 0, (crc32c [1, 2, 3, 4, 5, 6]).toNat, [1, 2, 3, 4], [5, 6], none⟩

def kernelHeld : State := { live .show with map := { State.reset.map with kernels := [(200, ⟨kernelImage, none, 0, false, 0, none⟩)] } }

def reported (at_ : Nat) : State := { showing with pho := { showing.pho with reports := [(1029, (at_, 400))] } }

def record : CalRecord := ⟨List.replicate 9 16384, [0, 0, 0], 5, 1, 0⟩

def recordDue : State :=
    { showing with teller := { showing.teller with accepted := [⟨10, [], { Cfg.empty with records := [(77, record)] }, true, 0, 0, none⟩] } }

/-- The raster in vertical blanking, far from its end. -/
def blanking : State := raster (fun r => { r with start := 169900000, next := 186566667 })

/-- Lane 3: pixel mode, a chain of three chips of 32 pixels; `f` its state. -/
def laneConf (n : Nat) : Cfg := { Cfg.empty with lanes := [(3, ⟨3, 1, 1, 2, 64000, 0, 200000, 2000⟩)], chains := [(3, ⟨3, 0, List.replicate n 32⟩)] }

def laneAt (f : Lane → Lane) (s : State) : State := { withCfg (laneConf 3) s with lanes := vMod s.lanes 3 f }

def upLane (f : Lane → Lane) : State := laneAt (fun x => f { x with state := .up, seen := 3, enumAt := 999999000000, collectAt := 999999000000 })
    showing

def job : PixelJob := ⟨1, 9, [(0, 48)]⟩

def lateJob : PixelJob := ⟨1, 8, [(0, 48), (48, 48)]⟩

def ctrl (op : CtrlOp) (cause : CtrlFor) (sent : Nat) : Ctrl := ⟨1, op, cause, 5, 77, sent, 999000000000, 0, none, none, 0⟩

/-- An ack block with its CRC. -/
def ack (status seq alive : Nat) (data : Word) : CtrlReturn := let r : CtrlReturn := ⟨status, seq, alive, data, 0, 0⟩; { r with crc := crc32c (ackBytes r) }

def waitingAck (c : Ctrl) : State := upLane (fun x => { x with outstanding := some c })

def port (p : Nat) (f : MacPort → MacPort) (s : State) : State := { s with mac := { s.mac with ports := vMod s.mac.ports p f } }

def pairAt (q : Nat) (m : MacPair) (s : State) : State := { s with mac := { s.mac with pairs := vMod s.mac.pairs q (fun _ => m) } }

/-- Port 2 enabled, in mode 1. -/
def portEnabled (ctrl cfg : Word) : State := setReg (R.MAC_CTRL 2) ctrl (setReg (R.MAC_CFG 2) cfg showing)

def upPort (f : MacPort → MacPort) : State := port 2 (fun x => f { x with link := .up, upAt := 980000000000 }) (portEnabled 1 1)

def failover : State := port 6 (fun x => { x with link := .up }) (pairAt 2 ⟨2, true, false⟩ (upPort id))

def reverting : State := pairAt 2 ⟨2, true, true⟩ (upPort id)

def frame6 : TxFrame := ⟨100, 6, none, none, none, .probe 1 false 1, none, List.replicate 96 9⟩

def queued6 : State := upPort (fun x => { x with queues := vMod x.queues 6 (fun _ => [frame6]) })

def slotAt (t : Int) : State := upPort (fun x => { x with slots := [⟨frame6, t, 0⟩] })

def stamped : State := upPort (fun x => { x with tsq := [⟨9, true, false, 123⟩, ⟨10, false, false, 456⟩] })

def tallied : State := upPort (fun x => { x with tally := vMod x.tally 14 (fun _ => 7) })

/-- Port 2 honors PAUSE (0x101), or PFC on class 5 (0x200201). -/
def pausable (w : Word) (f : MacPort → MacPort) : State := port 2 (fun x => f { x with link := .up, upAt := 980000000000 }) (portEnabled 1 w)

def pausedLong : State := setReg (R.MAC_WD 2) 0x00640064 (pausable 0x101 (fun x => { x with pause := ⟨100000000000000000, 900000000000, 0, 0, true⟩ }))

def ignoring : State := pausable 0x101 (fun x => { x with pause := ⟨0, 0, 999000000000, 0, true⟩ })

/-- A frame of `n` bytes with its FCS: a UDP datagram to 239.255.0.1, port 5568. -/
def rx (n : Nat) : RxFrame :=
  let h : NetHead := ⟨2, groupMac 0xEFFF0001, 0x0A000001, 0xEFFF0001, 5568, 5568, 8, 0, none⟩
  ⟨padTo (n - 4) (etherHead h ++ ipHead h 17 8 [] ++ udpBytes h []), true, false, 0, 0, 0⟩

def rxBad (n : Nat) : RxFrame := { rx n with fcsOk := false }

/-- Port 2 takes E1.31 of its universe 7 to a ring. -/
def receiving : State := setReg (R.MAC_RRr_CFG 2 2) 0x10004 (withCfg { Cfg.empty with rxEntries := [(0, ⟨7, 255⟩)] } (upPort id))

def portSet : MacPortSet := ⟨2, 3, 1, 0, 1518, 1, 0x0200AA, 100, 1000, 500⟩

def wakeSet : MacWakeSet := ⟨3, 5, [1, 2, 3, 4, 5, 6], List.replicate 4 ⟨List.replicate 16 255, List.replicate 128 9⟩⟩

def calibrating : State := live .calibrate

def lamp : StrLampSet := ⟨3, 1, 1, 5, 3⟩

def strings : State := { upLane id with
  record := { laneConf 3 with lanes := [(3, ⟨3, 1, 2, 2, 64000, 0, 200000, 2000⟩)] }
  cfgA := { laneConf 3 with lanes := [(3, ⟨3, 1, 2, 2, 64000, 0, 200000, 2000⟩)] }
  cfgB := { laneConf 3 with lanes := [(3, ⟨3, 1, 2, 2, 64000, 0, 200000, 2000⟩)] } }

def stringsDiag : State := { strings with time := { strings.time with running := false } }

def idleLane : State := { upLane id with time := { showing.time with running := false } }

def e131 : E131Packet := ⟨7, 99, 3, 100, false, false, 0, [1, 2, 3]⟩

def rxFrom (q : RxSource) (s : State) : State := { s with pkt := { s.pkt with rx := [(0, ⟨[q], some (q.dmx, q.cid)⟩)] } }

def sacn (at_ : Nat) : RxSource := ⟨false, 99, 100, 3, at_, [1, 2, 3]⟩

def dmxIn : State := setReg (R.FIF_Qn_CFG 5) 0x100 (withCfg { Cfg.empty with rxEntries := [(0, ⟨7, 255⟩)], dmx := [(5, ⟨5, 2, 0, 8, 176, 16, 0, 512, 0⟩)] }
    showing)

def flow (proto : Nat) : FlowCtx := ⟨proto, 2, 1, 1, 0, 0, 64, 0, 0, 0xEF000001, 5568, 5568, 7, 100, 0, 512, []⟩

def discovering (proto : Nat) (d : Option Nat) : State :=
  { withCfg { Cfg.empty with flows := [(0, flow proto)] } showing with pkt := { showing.pkt with lastDiscovery := d } }

def rdm : RdmRequest := ⟨5, 0, 9, 0xCC :: List.replicate 25 1⟩

def dmxAt (f : DmxPort → DmxPort) : State :=
  let s := withCfg { Cfg.empty with dmx := [(5, ⟨5, 1, 1, 0, 176, 16, 0, 512, 0⟩)] } showing
  { s with dmx := vMod s.dmx 5 f }

def rdmReady : State := dmxAt (fun d => { d with requests := [(rdm, some call)], granted := 1 })

def rdmOut (e : Nat) : State := dmxAt (fun d => { d with current := some (rdm, some call), line := .rdmWait, requestEnd := e })

def dmxIdle : State := { dmxAt id with time := { showing.time with running := false } }

def engineOut : State := { showing with pkt := { showing.pkt with engines := vMod showing.pkt.engines 3 (fun e => { e with failed := true }) } }

def trapping : State := { showing with pkt := { showing.pkt with trapK := some 9, trapRun := 2 } }

def pktGlobal : PktGlobalSet := ⟨7, [1, 2], [3, 4], 5, 6⟩

def pktCode : PktCodeLoad := ⟨4, 2, (crc32c [1, 2, 3, 4, 5, 6]).toNat, [1, 2, 3, 4], [5, 6], none⟩

/-- Transceiver 0 on, network 0x1234; show time in slot 16, which the Almanac has armed. -/
def radioOn (st : Int) (k : Int) (f : Xcvr → Xcvr) : State := setReg (R.RAD_Xn_CFG 0) 0x81001234
  { showing with
    time := { showing.time with st64 := st, fcount := k, tbEnd := 183333334, bases := vMod Time.reset.bases 0 (fun b => { b with ns := st }) }
    rad := { showing.rad with xcvrs := vMod showing.rad.xcvrs 0 f } }

def slot16 : State := radioOn 160000000 9 (fun x => { x with armed := some 160000000, slot := some 15 })

/-- The pair in use, its lead group 0 not held. -/
def paired (s : State) : State := setReg R.ESC_HELD 0xFFFF0000 (setReg R.ESC_LEASE 0x00070064 (setReg R.ESC_CFG 0x00020001 s))

def sealed (l : List (BitVec 8)) : List (BitVec 8) := l ++ wordBytes (crc32c l)

def radioIn : State := setReg (R.FIF_Qn_CFG 16) 0x100 (withCfg { Cfg.empty with nodes := [(6, ⟨6, 0, 5, 77, []⟩)] } (radioOn 160000000 9 id))

def beacon : List (BitVec 8) := sealed ([1, 1, 0x34, 0x12] ++ List.replicate 36 0)

def uplink : List (BitVec 8) := sealed ([8, 1, 0x34, 0x12, 6, 0, 0, 0, 6, 0, 0, 0] ++ List.replicate 8 0)

def rxRadio (l : List (BitVec 8)) : RadioRx := ⟨-60, 159000000, l⟩

def relay (a : Bool) (p : Nat) : Relay := ⟨4, 99, 10, 0xFFFF, 1, a, 0, p, []⟩

def relaying (a : Bool) (p : Nat) : State := { showing with rad := { showing.rad with relay := some (relay a p) } }

def imageData : List (BitVec 8) := List.replicate 96 7

def imaged : State := { showing with rad := { showing.rad with image := 4, total := 96, chunks := [(0, imageData)] } }

def fwLoad : RadioFwLoad := ⟨4, 192, 96, (crc32c imageData).toNat, imageData⟩

def fwStart : RadioFwStart := ⟨4, 1, 50, 4095, 3, (crc32c imageData).toNat⟩

/-- A lease changed. -/
def lease (g : Nat) (f : Lease → Lease) (s : State) : State := { s with esc := { s.esc with leases := vMod s.esc.leases g f } }

def pair : State := paired showing

def holding : State := lease 4 (fun l => { l with held := true, till := 999000000000 }) pair

def holdingOn : State := lease 4 (fun l => { l with held := true, till := 1000500000000, requests := [(8, 999990000000)] }) pair

def requesting : State :=
    lease 4 (fun l => { l with requests := [(8, 999990000000)] }) (paired { showing with power := { showing.power with mode := .spare } })

/-- The lease key is enrolled. -/
def keyed (s : State) : State := { s with vlt := { s.vlt with written := 0xFFFFFFFF, revoked := 0, prov := vMod s.vlt.prov 0 (fun _ => some ⟨1, 5, 6, 7, 8, 9⟩) } }

def grant : LeaseFrame := ⟨true, true, 1, 2, 7, 0xFF, 4, 1, 8, 3, 100⟩

def writing : State := { pair with esc := { pair.esc with writeDue := some 10 } }

def writingHeld : State := { holdingOn with esc := { holdingOn.esc with writeDue := some 10 } }

def frag (type : BitVec 8) (device : BitVec 8) : List (BitVec 8) :=
  sealed ([0x45, 0x53, 1, type, 7, 0, device, 0, 5, 0, 0, 0, 1, 0, 0, 0, 2, 0, 4, 0, 10, 0, 0, 0] ++ List.replicate 8 0 ++ [1, 2, 3, 4])

def badFrag : List (BitVec 8) := frag 1 1 ++ [0]

def building : State := { pair with esc := { pair.esc with build := some ⟨5, 7, 2, [(0, [1])]⟩ } }

def escRec : EscRecord := ⟨0, 8, 100, 0, 0, [], [], [], [], [], [], [], [], [], 0, [], []⟩

def staleRecord : State := { pair with esc := { pair.esc with record := some (5, escRec) } }

def probing (at_ : Nat) (m : Nat) : State := { pair with esc := { pair.esc with probes := [(2, (5, at_))], misses := [(2, m)] } }

def probed : State := { pair with esc := { pair.esc with probeAt := some 999900000000 } }

def pairMsg : PairSet := ⟨1, 1, 7, 10, 65535, 1000, 15, 1, 2, 3, 4, 5, 0x8001⟩

def noPd13 : State := { showing with power := { showing.power with domains := vMod showing.power.domains 13 (fun _ => Dom.reset .off) } }

def session (i : Nat) (f : Session → Session) (s : State) : State := { s with teller := { s.teller with sessions := vMod s.teller.sessions i f } }

/-- A whole command message with a payload of zeros. -/
def msg (seq : Word) (code cls len : Nat) : Msg :=
  let m : Msg := ⟨msgMagic, 0x31, 0, seq, 0, code, cls, 0, len, 0, 0, List.replicate len 0⟩
  { m with check := (crc32c (commandBytes m)).toNat }

def soon : Arrival := ⟨999000000000, some 169000000⟩

def note : Notice := ⟨0, 0x8000, 0, 5, 8, [1, 2]⟩

def noticing : State := session 0 (fun x => { x with queue := [(note, 999000000000)] }) showing

def noticingFull : State := { noticing with teller := { noticing.teller with rings := { noticing.teller.rings with ntcWr := 0x8000 } } }

def noticingClosed : State := session 0 (fun x => { x with isOpen := false }) noticing

def linked : State := { showing with teller := { showing.teller with linkUp := true } }

/-- A message waits on the PCIe session, whose last sequence number is 5; two answers stand in its cache. -/
def inboxed (m : Msg) : State :=
  let s := session 0 (fun x => { x with last := some 5, inbox := [(m, soon)], cache := [⟨5, 2, .ok, false, 0, 1, 0, []⟩] }) showing
  { s with teller := { s.teller with rings := { s.teller.rings with cmdWr := 4 } } }

def inboxedUdp : State := session 2 (fun x => { x with isOpen := true, ident := 9, last := some 5, inbox := [(msg 6 2 0 8, soon)] }) showing

/-- The UDP port that Teller listens at. -/
def tellerPort : Nat := bits (reg showing R.TLR_UDP) 15 0

def hello : Datagram := ⟨7, tellerPort, true, 1, 0, 0, 0, 1, 0, true, 0x202, msg 1 2 0 8⟩

def keys : State := keyed showing

def udpOpen (f : Session → Session) : State := session 2 (fun x => f { x with isOpen := true, ident := 9, key := 0x202, port := tellerPort, lastValid := 999000000000, rxHigh := 70, rxSeen := [70] })
    keys

def udpHalf : State := session 2 (fun x => { x with confirming := true, ident := 9, key := 0x202, port := tellerPort }) keys

def openedOwn : State := { showing with teller := { showing.teller with openCommit := some ⟨0, [], 0⟩ } }

def staged : State := { showing with teller := { showing.teller with stages := [⟨4, [], false, false⟩] } }

def openedBad : State := { showing with teller := { showing.teller with openCommit := some ⟨0, [.canvasSet ⟨15, 64, 0, ⟨0, 0, 0, 0⟩⟩], 16⟩ } }

/-- The domains as their goals say, no show time. -/
def settled (s : State) : State :=
    { s with power := { s.power with domains := Vector.ofFn (fun (d : Fin 14) => Dom.reset (if d.val < 2 then .on else domGoal s d)) } }

def openedStill : State := settled { live .show with teller := { (live .show).teller with openCommit := some ⟨0, [], 0⟩ } }

def starting : State := settled { live .show with time := { (live .show).time with startDue := some 1 } }

def provisioned (s : State) : State :=
    { s with vlt := { s.vlt with state := .provisioned, prov := vMod s.vlt.prov 0 (fun _ => some ⟨1, 5, 6, 7, 8, 9⟩) } }

def domAt (d : Nat) (f : Dom → Dom) (s : State) : State := { s with power := { s.power with domains := vMod s.power.domains d f } }

def changing (b : Bool) : State := { showing with power := { showing.power with change := some ⟨.diagnose, .diagnose, 0, none, false, b⟩ } }

def sagging (f : Power → Power) : State := { showing with power := f showing.power }

def zones3 : Cfg := { Cfg.empty with zones := [(3, ⟨3, 1, 0, 7, 0, 0⟩)] }

def thermal (f : Thermal → Thermal) : State := { withCfg zones3 showing with power := { showing.power with thermal := f showing.power.thermal } }

def avs : State := { showing with power := { showing.power with avsOk := true, setPoint := 700, coreMv := 755 } }

def noAon : State := { State.reset with power := { State.reset.power with aonEn := false } }

def booting : State := { live .boot with power := { (live .boot).power with aonEn := true } }

def aon (s : State) : State := { s with power := { s.power with aonEn := true } }

def restarting : State := { showing with power := { showing.power with restarting := true } }

def asleepIn (m : Mode) : State := setReg (R.MAC_WAKE_CTRL 10) 4 (setReg R.PWR_WAKE 7 { live m with time := { (live m).time with rtc := 5 } })

def poweringUp (f : Power → Power) : State :=
    { live .boot with power := f { (live .boot).power with pwrEn := false, pwrGood := false, aonEn := true } }

def calRun (a b : Int) : CalRun := ⟨3, a, b, 0, 0⟩

def calibrated (f : Cal → Cal) : State :=
    let s := port 3 (fun x => { x with link := .up }) (live .calibrate); { s with cal := f { s.cal with loaded := true } }

def calContent : CalCopy := ⟨9, 1, 100, 0, 7, true, []⟩

def skew (w : Word) (t : Nat) : State := setReg (R.CAL_SKEWl 3) w { showing with cal := { showing.cal with stepAt := [(3, t)] } }

def enroll : KeyEnroll := ⟨0x102, 0xFFFF, 48, true, 77⟩

def enrolled : State := { standby with vlt := { standby.vlt with written := standby.vlt.written + 64 } }

def provision : State := live .provision

def bootRecord : BootRecord := ⟨5, 0, none, 0, false, ⟨.good, 3, 9⟩, ⟨.good, 2, 7⟩⟩

def booted (r : BootRecord) (s : State) : State := { s with vlt := { s.vlt with boots := vMod s.vlt.boots 1 (fun _ => some r) } }

def trailer : Trailer := ⟨0, 0, true⟩

def fwHeader : FwHeader := ⟨true, 0, 7, 5, 0xFFFF, 0, 0x31, 100, 1, 55, [(crc32c (List.replicate 100 1)).toNat], trailer⟩

def fwData : List (BitVec 8) := List.replicate 100 1

def staging (st : BankState) (blocks : SMap (List (BitVec 8))) (m : Mode) : State :=
  let s := booted { bootRecord with bank1 := ⟨st, 7, 5⟩ } (live m)
  { s with vlt := { s.vlt with banks := vMod s.vlt.banks 1 (fun _ => ⟨some fwHeader, blocks, false⟩) } }

def blockWriting : State := { staging .staging [] .update with vlt := { (staging .staging [] .update).vlt with write := some ⟨1, 0, fwData, none⟩ } }

def lgr (f : Ledger → Ledger) (s : State) : State := { s with lgr := f { s.lgr with run := true } }

def offered : State := lgr id { showing with teller := { showing.teller with ledgerOffers := [(0x8250, 5, [1])] } }

def offeredDry : State := lgr (fun l => { l with trackers := [(trackerOf 0x8250, ⟨10, 20, 0, 0, 1000000000000, 0⟩)] }) offered

def rec (seq : Word) : LgrRec := ⟨5, seq, 0x8250, 0, 0, []⟩

def flushing : Flush := ⟨7, false, [], none⟩

def tok : ClearToken := ⟨true, 1, true, 77, ⟨0, 0, true⟩⟩

def clearable : State := lgr (fun l => { l with nonce := some (77, 999999000000), buffer := [rec 0] })
  { live .show with vlt := { (live .show).vlt with written := 0xFFFFFFFF, keys := [(0x400, 0)] } }

def sleeping : State := live .hibernate

def labelCue : CueSchedule := { cue with basis := 1, when_ := 12, sub := 32768 }

def mainsCue : CueSchedule := { cue with basis := 3, when_ := 12, sub := 35999 }

def lineCue : CueSchedule := { cue with basis := 2, when_ := 12, sub := 32 }

def radioCue : CueSchedule := { cue with action := 2, argument := 0x00010007 }

def queuedWork : State := works [work 2 4 0 (some 5), work 2 3 1 (some 5), work 2 4 2 (some 4), work 3 4 3 (some 1), work 1 5 4 (some 0)]

def waitingWork : State := works [work 2 4 0 none, { work 2 3 1 none with constraints := [.notBefore 170000001] }]

def pastItem : Descriptor := { work 6 14 0 none with deadline := some 169999999 }

def genSet : GeneratorSet := ⟨3, 0, 0, 0, 64, 64, ⟨1, 2, 3, 65535⟩, ⟨0, 0, 0, 65535⟩, 8, 0⟩

def composingRefused : State := { composing 4 with ras := { showing.ras with frames := [monFrame 3 10 [2]] } }

def rasterTwoFrames : State := raster (fun r => { r with frames := [monFrame 3 10 [2, 3], monFrame 2 9 []] })

def rasterOneFrame : State := raster (fun r => { r with frames := [monFrame 3 10 []] })

def hdFormat : MonFormat := ⟨1920, 1080, 1125, 42, none, [6, 7, 8], .threeG⟩

def rasterFresh : State := rasterDue (fun r => { r with fresh := true })

def rasterOff : State := rasterDue (fun r => { r with error := 20000 })

def rasterLastLine : State := raster (fun r => { r with line := some 1079 })

def rasterScan : State := raster (fun r => { r with scan := some (monFrame 3 10 []) })

def rasterScanTold : State := raster (fun r => { r with scan := some (monFrame 3 10 []), underAt := some 999500000000 })

def closedFrame : MapFrame := mapFrame (fun f => { f with open_ := false })

def tileWaiting : State := holdsTile ⟨0, 999999000000, 0, true, false⟩ (mapping claimed)

def tileFree : State := holdsTile ⟨0, 999999000000, 0, false, false⟩ (mapping claimed)

def tileLines : State := holdsTile ⟨0, 999999000000, 0, true, false⟩ { mapping claimed with cmp := (composing 0).cmp }

def tileReady : State := holdsTile ⟨0, 999999000000, 0, false, true⟩ (mapping claimed)

def tileOutput : TileOut := tileOut (advance 0 (holdsTile ⟨0, 999999000000, 0, false, true⟩ (mapping claimed))) (mapFrame claimed) tile0

def tileTooLate : State := holdsTile ⟨0, 999999000000, 0, false, true⟩ (mapping lateFrame)

def tileOld : State := holdsTile ⟨0, 999000000000, 0, false, true⟩ (mapping claimed)

def tileNew : State := holdsTile ⟨0, 999999999000, 0, false, true⟩ (mapping claimed)

def testingEngine : State := engine 2 (fun x => { x with role := .testing }) showing

def kernelUsed : State :=
    withCfg { Cfg.empty with effects := [(3, ⟨200, 0, 0, 0, 0, 0, 0, 0, 0, 0, 0, 0⟩)] } { kernelHeld with map := { kernelHeld.map with kernels := [(456, ⟨{ kernelImage with kind := 1 }, none, 0, false, 0, none⟩)] } }

def activeEngine : State := engine 3 (fun x => { x with role := .active }) showing

def recordCommit : Accepted := ⟨10, [], { Cfg.empty with records := [(77, record)] }, true, 0, 0, none⟩

def lateLane : State := upLane (fun x => { x with jobs := [lateJob] })

def trainingLane : State := laneAt (fun x => { x with state := .training }) showing

def enumLane : State := laneAt (fun x => { x with state := .enumerating, enumerating := true, enumLast := some 3 }) showing

def enumLaneFirst : State := laneAt (fun x => { x with state := .enumerating, enumerating := true }) showing

/-- The range frame to chip 1 that is on its way. -/
def rangeSent : RangeFrame := ⟨1, 6, crc32c (rangeBytes 1 6), 0⟩

def rangingLane : State := laneAt (fun x => { x with state := .ranging, range := some ⟨true, [1, 2], [100], 0, [], false⟩, rangeOut := some rangeSent, rseq := 6 }) showing

def rangingLastSample : State := laneAt (fun x => { x with state := .ranging, range := some ⟨true, [1, 2], (List.replicate 15 100), 0, [], false⟩, rangeOut := some rangeSent, rseq := 6 }) showing

def lastSampleRun : RangeRun := ⟨true, [1, 2], (List.replicate 15 100), 0, [], false⟩

def rangedLane : State := laneAt (fun x => { x with state := .ranging, range := some ⟨true, [], [], 0, [(0, 5000, false), (1, 9000, false)], false⟩ })
    showing

def rangedRun : RangeRun := ⟨true, [], [], 0, [(0, 5000, false), (1, 9000, false)], false⟩

def rangedFarLane : State := laneAt (fun x => { x with state := .ranging, range := some ⟨true, [], [], 0, [(0, 5000, false), (1, 300000000, false)], false⟩ })
    showing

def rangedFarRun : RangeRun := ⟨true, [], [], 0, [(0, 5000, false), (1, 300000000, false)], false⟩

def readingLane : State := waitingAck (ctrl (.read 0x1000) (.hostRead (some call)) 1)

def readCtrl : Ctrl := ctrl (.read 0x1000) (.hostRead (some call)) 1

def waitingRecent : State := waitingAck { (ctrl (.latch 9000) .ranging 1) with sentAt := 999999999000 }

def recentCtrl : Ctrl := { (ctrl (.latch 9000) .ranging 1) with sentAt := 999999999000 }

def collectFirst : State := upLane (fun x => { x with collectAt := 0, collectNext := 0 })

def collectLast : State := upLane (fun x => { x with collectAt := 0, collectNext := 7 })

def collectEarly : State := upLane (fun x => { x with collectAt := 999999999000 })

def collectingLane : State := upLane (fun x => { x with collectOut := some (0, 1), cseq := 4 })

def collectOut_ : State × Bool := intake 17 (collectPacket 3 0 (laneOf (upLane (fun x => { x with collectOut := some (0, 1), cseq := 4 })) 3).cseq
    [blankSlot]) (modLane 3 (fun z => { z with collectOut := none }) (rxErrors 3 2 (advance 0 (upLane (fun x => { x with collectOut := some (0, 1), cseq := 4 })))))

def collectingIntake : State := setReg (R.FIF_Qn_CFG 17) 0x100 (upLane (fun x => { x with collectOut := some (0, 1), cseq := 4 }))

def collectIntakeOut : State × Bool := intake 17 (collectPacket 3 0 (laneOf (setReg (R.FIF_Qn_CFG 17) 0x100 (upLane (fun x => { x with collectOut := some (0, 1), cseq := 4 })))
    3).cseq [blankSlot]) (modLane 3 (fun z => { z with collectOut := none }) (rxErrors 3 2 (advance 0 (setReg (R.FIF_Qn_CFG 17) 0x100 (upLane (fun x
    => { x with collectOut := some (0, 1), cseq := 4 }))))))

def mergedOther : State := rxFrom ⟨true, 5, 100, 0, 999999000000, []⟩ receiving

def dmxSourceOld : State := rxFrom ⟨true, 5, 100, 0, 990000000000, []⟩ dmxIn

def dmxSourceNew : State := rxFrom ⟨true, 5, 100, 0, 999990000000, []⟩ dmxIn

def dmxIntakeRdm : State × Bool := intake 5 ((0 :: [9, 8].take 512).map (BitVec.ofNat 8)) (bump (R.DMX_Pn_CNT_FRAMES 5) (advance 0 rdmReady))

def dmxIntakeText : State × Bool := intake 5 ((23 :: [9, 8].take 512).map (BitVec.ofNat 8)) (bump (R.DMX_Pn_CNT_FRAMES 5) (advance 0 dmxIn))

def dmxIntakePlain : State × Bool := intake 5 ((0 :: [9, 8].take 512).map (BitVec.ofNat 8)) (bump (R.DMX_Pn_CNT_FRAMES 5) (advance 0 dmxIn))

def rdmUngranted : State := dmxAt (fun d => { d with requests := [(rdm, some call)] })

def badBeacon : RadioRx := rxRadio (sealed ([1, 2, 0x34, 0x12] ++ List.replicate 36 0))

def radioIntakeNone : State × Bool := intake 16 (radioPacket 0 (rxRadio beacon)) (bump (R.RAD_Xn_CNT_RX 0) (advance 0 (radioOn 160000000 9 id)))

def radioIntakeBeacon : State × Bool := intake 16 (radioPacket 0 (rxRadio beacon)) (bump (R.RAD_Xn_CNT_RX 0) (advance 0 radioIn))

def radioIntakeUplink : State × Bool := intake 16 (radioPacket 0 (rxRadio uplink)) (bump (R.RAD_Xn_CNT_RX 0) (advance 0 radioIn))

def confirmDg : Datagram := ⟨7, tellerPort, true, 3, 9, 0, 0, 1, 0, true, 0x202, msg 1 2 0 8⟩

def commandDg7 : Datagram := ⟨7, tellerPort, true, 4, 9, 7, 0, 1, 0, true, 0x202, msg 1 2 0 8⟩

def commandDg71 : Datagram := ⟨7, tellerPort, true, 4, 9, 71, 0, 1, 0, true, 0x202, msg 1 2 0 8⟩

def aliveDg71 : Datagram := ⟨7, tellerPort, true, 5, 9, 71, 0, 1, 0, true, 0x202, msg 1 2 0 8⟩

def aliveDg70 : Datagram := ⟨7, tellerPort, true, 5, 9, 70, 0, 1, 0, true, 0x202, msg 1 2 0 8⟩

def commandDg6 : Datagram := ⟨7, tellerPort, true, 4, 9, 6, 0, 1, 0, true, 0x202, msg 1 2 0 8⟩

def udpStale : State := udpOpen (fun x => { x with lastValid := 970000000000 })

def udpAssembling : State := udpOpen (fun x => { x with assembling := [] })

def udpNoticing : State := udpOpen (fun x => { x with queue := [(note, 999900000000)] })

def badCommit : OpenCommit := ⟨0, [.canvasSet ⟨15, 64, 0, ⟨0, 0, 0, 0⟩⟩], 16⟩

def closedBad : State := { openedBad with teller := { openedBad.teller with openCommit := none } }

def closedOwn : State := { openedOwn with teller := { openedOwn.teller with openCommit := none } }

def closedStill : State := { openedStill with teller := { openedStill.teller with openCommit := none } }

def takenStill : State := commitTake 0 0 9 [] none ({ openedStill with teller := { openedStill.teller with openCommit := none } })

def domainList : List Nat := [0, 0, 0, 5, 6, 7, 8, 9, 10, 11, 12, 13, 14, 15]

def risingDom : State := domAt 5 (fun d => { d with state := .goingUp }) showing

def fallingDom : State := domAt 5 (fun d => { d with state := .goingDown }) (live .standby)

def heldChange : ModeChange := ⟨.diagnose, .diagnose, 0, none, false, true⟩

def freeChange : ModeChange := ⟨.diagnose, .diagnose, 0, none, false, false⟩

def holdExpired : State := sagging (fun p => { p with hold := true, w1At := 1 })

def shedThermal : State := thermal (fun x => { x with shedZones := [3] })

def dogRecent : State := { showing with power := { showing.power with dogAt := 999999999000 } }

def wakeBoot : State := aon { asleepIn .hibernate with power := { (asleepIn .hibernate).power with wakeLatch := true, pwrEn := false } }

def powerUpOn : State := poweringUp (fun p => { p with pwrEn := true })

def powerUpLast : State := poweringUp (fun p => { p with pwrEn := true, attempts := 2 })

def powerUpFailed : State := poweringUp (fun p => { p with attempts := 2 })

def runningPass : State := calibrated (fun c => { c with pass := some ⟨[4, 0], false, 0, none, 0, 0, 0⟩ })

def writingBoth : State := calibrated (fun c => { c with write := some ⟨1, calContent, false, true⟩ })

def writingOne : State := calibrated (fun c => { c with write := some ⟨1, calContent, false, false⟩ })

def onePass : State := calibrated (fun c => { c with pass := some ⟨[4], false, 0, none, 0, 0, 0⟩ })

def onePassCalled : State := calibrated (fun c => { c with pass := some ⟨[4], false, 0, some call, 0, 0, 0⟩ })

def unprovisioned : State := { provisioned provision with vlt := { (provisioned provision).vlt with state := .unprovisioned } }

def creditDry : Tracker := credit 1000000000000 (tracker offeredDry (trackerOf 0x8250))

def creditOffered : Tracker := credit 1000000000000 (tracker offered (trackerOf 0x8250))

def trackerDry : State := lgr (fun l => { l with trackers := [(100, ⟨0, 20, 0, 0, 1, 0⟩)] }) showing

def trackerFull : State := lgr (fun l => { l with trackers := [(100, ⟨10, 20, 0, 0, 1, 0⟩)] }) showing

def flushTwo : State := lgr (fun l => { l with flush := some flushing, buffer := [rec 3, rec 7] }) showing

def flushOne : State := lgr (fun l => { l with flush := some flushing, buffer := [rec 7] }) showing

def frozenFuture : State := lgr (fun l => { l with freeze := some ⟨0, 1000000000001⟩ }) showing

def frozenDone : State := lgr (fun l => { l with freeze := some ⟨0, 1000000000000⟩, side := [rec 1] }) showing

def frozenNow : State := lgr (fun l => { l with freeze := some ⟨1, 1000000000000⟩ }) showing

def vaultError : State := { showing with vlt := { showing.vlt with error := true } }

def creditShowing : Tracker := credit 1000000000000 (tracker showing (trackerOf 0x8250))

/-! The Almanac's lists with one entry each. -/

def farTime : Int := 4611686018597387905

def farCue : CueSchedule := { cue with when_ := farTime }

def mainsOn : State := { cueHeld [] showing with time := { showing.time with mainsValid := some (999990000000, 20000, 5) } }

def cueSent_ : State := { cueHeld [{ held with action := 2 }] showing with rad := { showing.rad with cueSent := [(11, 1)] } }

def pastFlow : Descriptor := { work 6 14 0 none with work := .flow 3, deadline := some 169999999 }

def pastWorks : State := works [pastFlow, work 2 4 1 none]

def retriesFar : State := { showing with alm := { showing.alm with timerRetry := [timer farTime 0] } }

def retriesPast : State := { showing with alm := { showing.alm with descriptorRetry := [pastFlow] } }

def retriesNoRoom : State := { retries with alm := { retries.alm with descriptors := List.replicate 32768 (work 6 14 0 none) } }

def ticked (s : State) : State := { reach 170000000 s with alm := { s.alm with lastTick := some 170000000 } }

def heldRadio : Cue := { heldDue with action := 2 }

def launchEntry (k : LaunchKind) : LaunchEntry := ⟨170000000, k, [(1, 9)], 0, 0, false, 169000000⟩

def launching (k : LaunchKind) : State := { showing with alm := { showing.alm with launch := [launchEntry k] } }

def syncing : State := { showing with alm := { showing.alm with sync := [(1, ⟨170000000, 9, 0⟩)] } }

def armedZone (o : Output) (at_ : Int) : State := { showing with alm := { showing.alm with armed := [⟨o, at_, [(1, 9)]⟩] } }

/-! Channels, queues and errors. -/

def channelTold : State := { channels with teller := { channels.teller with checked := [(3, [1, 2])] } }

def noQueue16 : State := setReg (R.FIF_Qn_CFG 16) 0x100 { showing with part := .rk9210 }

def fifoFound : ErrorFound := { parityFound with site := 7, object := 2 }

def mapFound : ErrorFound := { parityFound with site := 1 }

/-! The mapper. -/

def linesDone : State := { tileLines with cmp := (composing 4).cmp }

def sparePreferred : State := setReg (R.MAP_SPARE_PREF 0) 3 (engine 2 (fun x => { x with role := .testing })
  { showing with map := { showing.map with released := true, engines := Vector.replicate 16 ⟨.active, 15, 0, 0, 0, none, 0, 0⟩ } })

def domainOffEngine : State := { showing with power := { showing.power with domains := vMod showing.power.domains 6 (fun _ => Dom.reset .off) } }

def recordWritten : State := { recordDue with pho := { recordDue.pho with writtenTag := some 10 } }

def recordLater : State :=
    { showing with teller := { showing.teller with accepted := [⟨11, [], { Cfg.empty with records := [(77, record)] }, true, 0, 0, none⟩] } }

/-! Lanes. -/

/-- The COMMIT of a change of F(9) to chip 0 is not acknowledged yet. -/
def owed : Ctrl := { ctrl (.commit 1) .provision 1 with chip := 0, fromK := some 9 }

def blockedLane : State := upLane (fun x => { x with jobs := [job], outstanding := some owed })

/-- A pixel frame can go: the control, collect, range and enumerate frames wait. -/
def busyLane : State := upLane (fun x => { x with jobs := [job], enumAt := 0, collectAt := 0 })

def badAck : CtrlReturn := { ack 1 5 77 0 with crc := 0 }

def rangingReturn : RangeFrame := rangeSent

def rangeOther : RangeFrame := ⟨2, 6, crc32c (rangeBytes 2 6), 0⟩

def rangeBad : RangeFrame := { rangeSent with crc := 0 }


/-! Ports. -/

/-- A frame whose deadline is past. -/
def frameLast : TxFrame := { frame6 with deadline := some 169000000, data := some ⟨1, 9, 64⟩ }

def queuedLate : State := upPort (fun x => { x with queues := vMod x.queues 6 (fun _ => [frameLast, frame6]) })

/-- A queue of transmit timestamps that an entry found full at `at_`. -/
def stampExtra (at_ : Nat) : State := upPort (fun x => { x with tsq := [⟨9, true, false, 123⟩, ⟨10, false, false, 456⟩], tsqExtra := some (⟨11, false, false, 789⟩, at_) })

/-- PD8 off, Teller running. -/
def showEdge : State := { showing with power := { showing.power with domains := vMod showing.power.domains 8 (fun _ => Dom.reset .off) } }

/-- Class 5 paused by PFC for long. -/
def pfcLong : State := setReg (R.MAC_WD 2) 0x00640064 (pausable 0x200201 (fun x => { x with classes := vMod x.classes 5 (fun _ => ⟨100000000000000000, 900000000000, 0, 0, false⟩) }))

/-- An enabled flow on the port that PAIR_SET would take for Escrow. -/
def escPortUsed : State := withCfg { Cfg.empty with flows := [(0, { flow 1 with port := pairMsg.escPort })] } diag

/-- PD2 off. -/
def booting2 : State := { live .boot with power := { (live .boot).power with domains := vMod (live .boot).power.domains 2 (fun _ => Dom.reset .off) } }

end Sys2Proof.Tests
end

