-- ==== Sys2Proof/Tests/Witnesses.lean ====
section
/-! SUPPORT. Tests: for each statement that has hypotheses, states and operands that meet them, clause by clause; a clause that a value bounds has a
witness at the bound. The conditions of a conclusion's own cases stand with the hypotheses. -/

namespace Sys2Proof.Tests

open Sys2Proof.Machine Sys2Proof.Safety

set_option maxRecDepth 100000
set_option Elab.async false

/-! The conditions of a command and of the register file, in a form that can be evaluated. -/

theorem ready_iff (code : Nat) (c : Call) (s : State) : Ready code c s ↔
    RegsWf s.regs ∧ tellerRuns s = true ∧ (codeIsRadio code = true → s.part = .rk9200) ∧ modeOk code s.power.mode = true ∧
      codeReady s code = true ∧ (sess s c.session).isOpen = true :=
  ⟨fun h => ⟨h.wf, h.runs, h.part, h.mode, h.up, h.live⟩, fun ⟨a, b, c, d, e, f⟩ => ⟨a, b, c, d, e, f⟩⟩

theorem advance_zero (s : State) : advance 0 s = s := by simp [advance]

theorem advance_call (s : State) : advance call.t s = s := advance_zero s

/-! Statements about every command, and the invariants. -/

theorem witness_EmptyQueueIdles : State.reset.pending = [] := rfl

theorem witness_FrameOfEveryCommand : ∃ t, exec (.ledgerFlushPeriod 0) showing = .next t := ⟨_, rfl⟩

theorem witness_StepKeepsWf : Wf showing ∧ ∃ t, step showing = .next t :=
  ⟨by simp only [Wf, RegsWf, CellsWf, LedgerWf]; decide +kernel, _, rfl⟩

theorem witness_VaultOnward : ∃ t, step { showing with pending := [.hwmUpdate 0] } = .next t := ⟨_, rfl⟩

theorem witness_ShowTimeNeverGoesBack : (∀ u, Instr.hwmUpdate 0 ≠ .vbatLoss u) ∧ ∃ t, exec (.hwmUpdate 0) showing = .next t :=
  ⟨fun _ h => (by cases h), _, rfl⟩

theorem witness_ResponseGiven : RegsWf showing.regs ∧ (sess showing call.session).isOpen = true := by
  simp only [RegsWf, CellsWf]; decide +kernel

theorem witness_CommandTurnedAway :
    (asked (.timeStatusGet call) = some (0x0113, call) ∧ tellerRuns sleeping = false) ∧
    (asked (.radioStatusGet call 0) = some (0x0492, call) ∧ tellerRuns noRadio = true ∧ codeIsRadio 0x0492 = true ∧ noRadio.part = .rk9210) ∧
    (asked (.showTimingSet call ⟨60, 1, 0⟩) = some (0x0114, call) ∧ tellerRuns showing = true ∧ codeIsRadio 0x0114 = false ∧
      modeOk 0x0114 showing.power.mode = false) ∧
    (asked (.cueCancel call 0) = some (0x0141, call) ∧ tellerRuns stopped = true ∧ codeIsRadio 0x0141 = false ∧
      modeOk 0x0141 stopped.power.mode = true ∧ codeReady stopped 0x0141 = false) := by decide +kernel

theorem witness_WriteByAccessType :
    (∀ w, storedAs (row R.TIM_INT_STAT) w = w) ∧ ((row R.TIM_INT_STAT).rw ||| (row R.TIM_INT_STAT).rws) &&& (row R.TIM_INT_STAT).w1c = 0 ∧
      (row R.TIM_INT_STAT).w1c.testBit 2 = true := ⟨fun _ => rfl, by decide +kernel, by decide +kernel⟩

/-! The commands, chapter by chapter. -/

theorem witness_ConfigurationJoinsCommit :
    (joining (.layerBind call bindMsg) = some (1040, 8, call, true, (.layerBind bindMsg)) ∧ Ready 1040 call opened ∧
       opened.teller.openCommit = some (⟨0, [], 0⟩ : OpenCommit) ∧ (⟨0, [], 0⟩ : OpenCommit).owner = call.session ∧
       (⟨0, [], 0⟩ : OpenCommit).msgs.length < 65536 ∧ (⟨0, [], 0⟩ : OpenCommit).bytes + 8 ≤ 134217728) ∧
    (joining (.layerBind call bindMsg) = some (1040, 8, call, true, (.layerBind bindMsg)) ∧ Ready 1040 call showing ∧
       (∀ (o : OpenCommit), showing.teller.openCommit = some o → o.owner ≠ call.session)) ∧
    (joining (.layerBind call badBind) = some (1040, 8, call, false, (.layerBind badBind)) ∧ Ready 1040 call opened ∧
       opened.teller.openCommit = some (⟨0, [], 0⟩ : OpenCommit) ∧ (⟨0, [], 0⟩ : OpenCommit).owner = call.session) ∧
    (joining (.layerBind call bindMsg) = some (1040, 8, call, true, (.layerBind bindMsg)) ∧ Ready 1040 call filled ∧
       filled.teller.openCommit = some (⟨0, [], 134217721⟩ : OpenCommit) ∧ (⟨0, [], 134217721⟩ : OpenCommit).owner = call.session ∧
       (65536 ≤ (⟨0, [], 134217721⟩ : OpenCommit).msgs.length ∨ 134217728 < (⟨0, [], 134217721⟩ : OpenCommit).bytes + 8)) := by
  simp only [advance_zero, advance_call, ready_iff, RegsWf, CellsWf]
  refine ⟨?_, ?_, ?_, ?_⟩ <;> decide +kernel

theorem witness_RegisterWriteStores :
    (RegsWf showing.regs ∧ writeCause showing Master.fabric R.TIM_START_WAIT = none ∧ findReg R.TIM_START_WAIT = some (row R.TIM_START_WAIT) ∧
       plainRow (row R.TIM_START_WAIT) = true ∧ radAbsent showing R.TIM_START_WAIT = false) ∧
    (RegsWf noRadio.regs ∧ writeCause noRadio Master.fabric R.RAD_CUE_LEAD = none ∧ findReg R.RAD_CUE_LEAD = some (row R.RAD_CUE_LEAD) ∧
       plainRow (row R.RAD_CUE_LEAD) = true ∧ radAbsent noRadio R.RAD_CUE_LEAD = true) := by
  simp only [advance_zero, advance_call, ready_iff, RegsWf, CellsWf]
  refine ⟨?_, ?_⟩ <;> decide +kernel

theorem witness_FailedAccessCaptured :
    (RegsWf showing.regs ∧ domainUp showing 1 = true ∧ writeCause showing Master.bar1 R.TIM_START_WAIT = some 2) ∧
    (RegsWf erred.regs ∧ domainUp erred 1 = true ∧ readCause erred 4294967292 = some 0) ∧
    (RegsWf erred.regs ∧ domainUp erred 1 = true ∧ findReg 4294967292 = none) := by
  simp only [advance_zero, advance_call, ready_iff, RegsWf, CellsWf]
  refine ⟨?_, ?_, ?_⟩ <;> decide +kernel

theorem witness_SameClock :
    (RegsWf flagged.regs ∧ writeCause flagged Master.fabric R.TIM_INT_STAT = none ∧ findReg R.TIM_INT_STAT = some (row R.TIM_INT_STAT) ∧
       plainRow (row R.TIM_INT_STAT) = true ∧ radAbsent flagged R.TIM_INT_STAT = false ∧ 2 < 32 ∧ (row R.TIM_INT_STAT).w1c.testBit 2 = true ∧
       BitVec.getLsbD (4 : Word) 2 = true) ∧
    (RegsWf counting.regs ∧ readCause counting (R.TIM_TBn_LOSS 1) = none ∧ findReg (R.TIM_TBn_LOSS 1) = some (row (R.TIM_TBn_LOSS 1)) ∧
       (row (R.TIM_TBn_LOSS 1)).rc ≠ 0 ∧ (row (R.TIM_TBn_LOSS 1)).base ≠ R.MAC_TALLYi_LO 0 0 ∧ (row (R.TIM_TBn_LOSS 1)).base ≠ R.FIF_Qn_RD_LO 0 ∧
       aFind counting.regs.latched (R.TIM_TBn_LOSS 1) = none) ∧
    (readCause showing (R.MAC_TALLYi_LO 10 23) = none ∧ (portOf showing 10).tsqExtra = none ∧ (portOf showing 10).pausedFrom = none) := by
  simp only [advance_zero, advance_call, ready_iff, RegsWf, CellsWf]
  refine ⟨?_, ?_, ?_⟩ <;> decide +kernel

theorem witness_BusErrorSameClock :
    (RegsWf erred.regs ∧ domainUp erred 1 = true ∧ bitOf 0 31 = false ∧ bitOf (reg erred R.SYS_BUSERR) 31 = true ∧ bitOf 2147483648 31 = true) ∧
    (RegsWf erred.regs ∧ domainUp erred 1 = true ∧ bitOf 2147483648 31 = true) := by
  simp only [advance_zero, advance_call, ready_iff, RegsWf, CellsWf]
  refine ⟨?_, ?_⟩ <;> decide +kernel

theorem witness_LatchedPair :
    (RegsWf showing.regs ∧ domainUp showing 2 = true ∧
       ((R.TIM_TBn_SEC_LO 3), (R.TIM_TBn_NS 3)) ∈ [(R.TIM_ST64_LO, R.TIM_ST64_HI), (R.TIM_CORR_LO, R.TIM_CORR_HI), (R.TIM_EPOCH_ADJ_LO, R.TIM_EPOCH_ADJ_HI),
         (R.TIM_HWM_LO, R.TIM_HWM_HI), (R.TIM_FORIGIN_LO, R.TIM_FORIGIN_HI), (R.TIM_FCOUNT_LO, R.TIM_FCOUNT_HI)]
         ++ List.flatMap (fun n ↦ [(R.TIM_TBn_SEC_LO n, R.TIM_TBn_SEC_HI n), (R.TIM_TBn_SEC_LO n, R.TIM_TBn_NS n)]) (List.range 4)) ∧
    (RegsWf showing.regs ∧ domainUp showing 2 = true ∧
       (R.TIM_ST64_LO, R.TIM_ST64_HI) ∈ [(R.TIM_ST64_LO, R.TIM_ST64_HI), (R.TIM_CORR_LO, R.TIM_CORR_HI), (R.TIM_EPOCH_ADJ_LO, R.TIM_EPOCH_ADJ_HI),
         (R.TIM_HWM_LO, R.TIM_HWM_HI), (R.TIM_FORIGIN_LO, R.TIM_FORIGIN_HI), (R.TIM_FCOUNT_LO, R.TIM_FCOUNT_HI)]
         ++ List.flatMap (fun n ↦ [(R.TIM_TBn_SEC_LO n, R.TIM_TBn_SEC_HI n), (R.TIM_TBn_SEC_LO n, R.TIM_TBn_NS n)]) (List.range 4)) := by
  simp only [advance_zero, advance_call, ready_iff, RegsWf, CellsWf]
  refine ⟨?_, ?_⟩ <;> decide +kernel

theorem witness_DiagReadNoSideEffect :
    Ready 48 call diag ∧ 196624 % 4 = 0 ∧ 1 ≤ 256 ∧ 256 ≤ 256 := by
  simp only [advance_zero, advance_call, ready_iff, RegsWf, CellsWf]
  decide +kernel

theorem witness_DiagWriteInOrder :
    (Ready 49 call diag ∧ 196696 % 4 = 0 ∧ 1 ≤ [5, 6].length ∧ [5, 6].length ≤ 64 ∧ approved diag = false) ∧
    (Ready 49 call diagApproved ∧ 196696 % 4 = 0 ∧ 1 ≤ [5].length ∧ [5].length ≤ 64 ∧ approved diagApproved = true) := by
  simp only [advance_zero, advance_call, ready_iff, RegsWf, CellsWf]
  refine ⟨?_, ?_⟩ <;> decide +kernel

theorem witness_OperationWrites :
    (RegsWf showing.regs ∧ writeCause showing Master.fabric (R.TIM_TBn_CFG 2) = none ∧ bits (reg showing (R.TIM_TBn_CFG 2)) 2 0 ≠ bits 241 2 0 % 7) ∧
    (RegsWf showing.regs ∧ writeCause showing Master.fabric R.TIM_CTRL = none ∧ showing.time.running = true) ∧
    (RegsWf traceFrozen_.regs ∧ writeCause traceFrozen_ Master.fabric R.ALM_TRACE_CTRL = none ∧ bitOf 2 1 = true) ∧
    (RegsWf showing.regs ∧ writeCause showing Master.fabric R.CMP_COMMIT = none ∧ bitOf 1 0 = true) ∧
    (RegsWf showing.regs ∧ writeCause showing Master.fabric R.RAS_COMMIT = none ∧ bitOf 1 0 = true) ∧
    (RegsWf showing.regs ∧ writeCause showing Master.fabric R.FXM_COMMIT = none ∧ bitOf 1 0 = true) := by
  simp only [advance_zero, advance_call, ready_iff, RegsWf, CellsWf]
  refine ⟨?_, ?_, ?_, ?_, ?_, ?_⟩ <;> decide +kernel

theorem witness_ShowTimeCommands_1 :
    (Ready 272 call showing ∧ baseSet.tb ≤ 3 ∧ baseSet.source ≤ 6 ∧ (baseSet.portA ≤ 10 ∨ baseSet.portA = 15) ∧ (baseSet.portB ≤ 10 ∨
       baseSet.portB = 15) ∧ baseSet.domainA ≤ 127 ∧ baseSet.domainB ≤ 127 ∧ instancesFit showing baseSet.tb (baseWord baseSet) = true ∧
       (baseSet.source = 3 → genlockOk showing showing.time.rateN showing.time.rateD = true)) ∧
    (Ready 272 call showing ∧ (3 < ({ baseSet with source := 7 } : TimeBaseSet).tb ∨ 6 < ({ baseSet with source := 7 } : TimeBaseSet).source ∨
       (10 < ({ baseSet with source := 7 } : TimeBaseSet).portA ∧ ({ baseSet with source := 7 } : TimeBaseSet).portA ≠ 15) ∨
       (10 < ({ baseSet with source := 7 } : TimeBaseSet).portB ∧ ({ baseSet with source := 7 } : TimeBaseSet).portB ≠ 15) ∨
       127 < ({ baseSet with source := 7 } : TimeBaseSet).domainA ∨ 127 < ({ baseSet with source := 7 } : TimeBaseSet).domainB ∨
       instancesFit showing ({ baseSet with source := 7 } : TimeBaseSet).tb (baseWord ({ baseSet with source := 7 } : TimeBaseSet)) = false ∨
       ({ baseSet with source := 7 } : TimeBaseSet).source = 3 ∧ genlockOk showing showing.time.rateN showing.time.rateD = false)) ∧
    (Ready 273 call showing ∧ (⟨3, 1000, 10, 65535⟩ : TimeSelect).tb ≤ 3 ∧ 1 ≤ (⟨3, 1000, 10, 65535⟩ : TimeSelect).slew ∧
       (⟨3, 1000, 10, 65535⟩ : TimeSelect).slew ≤ 1000 ∧ 10 ≤ (⟨3, 1000, 10, 65535⟩ : TimeSelect).threshold ∧
       (⟨3, 1000, 10, 65535⟩ : TimeSelect).threshold ≤ 1000000 ∧ (⟨3, 1000, 10, 65535⟩ : TimeSelect).startWait ≤ 65535) ∧
    (Ready 273 call showing ∧ (3 < (⟨3, 1001, 10, 65535⟩ : TimeSelect).tb ∨ (⟨3, 1001, 10, 65535⟩ : TimeSelect).slew < 1 ∨
       1000 < (⟨3, 1001, 10, 65535⟩ : TimeSelect).slew ∨ (⟨3, 1001, 10, 65535⟩ : TimeSelect).threshold < 10 ∨
       1000000 < (⟨3, 1001, 10, 65535⟩ : TimeSelect).threshold ∨ 65535 < (⟨3, 1001, 10, 65535⟩ : TimeSelect).startWait)) ∧
    ((⟨0, 2, 3⟩ : TimeAcceptStep).tb < 4 ∧ Ready 274 call stepped ∧ (⟨0, 2, 3⟩ : TimeAcceptStep).mode ≤ 2 ∧
       (withdrawStep (advance call.t stepped)) = withdrawStep (advance call.t stepped) ∧
       (tbOf (withdrawStep (advance call.t stepped)) (⟨0, 2, 3⟩ : TimeAcceptStep).tb).state = TbState.discontinuity ∧
       (tbOf (withdrawStep (advance call.t stepped)) (⟨0, 2, 3⟩ : TimeAcceptStep).tb).stepId = (⟨0, 2, 3⟩ : TimeAcceptStep).stepId ∧
       (⟨0, 2, 3⟩ : TimeAcceptStep).tb = selTb (withdrawStep (advance call.t stepped)) ∧ (⟨0, 2, 3⟩ : TimeAcceptStep).mode = 2) ∧
    ((⟨0, 1, 3⟩ : TimeAcceptStep).tb < 4 ∧ Ready 274 call stepped ∧ (⟨0, 1, 3⟩ : TimeAcceptStep).mode ≤ 2 ∧
       (withdrawStep (advance call.t stepped)) = withdrawStep (advance call.t stepped) ∧
       (tbOf (withdrawStep (advance call.t stepped)) (⟨0, 1, 3⟩ : TimeAcceptStep).tb).state = TbState.discontinuity ∧
       (tbOf (withdrawStep (advance call.t stepped)) (⟨0, 1, 3⟩ : TimeAcceptStep).tb).stepId = (⟨0, 1, 3⟩ : TimeAcceptStep).stepId ∧
       (⟨0, 1, 3⟩ : TimeAcceptStep).tb = selTb (withdrawStep (advance call.t stepped)) ∧ (⟨0, 1, 3⟩ : TimeAcceptStep).mode < 2) ∧
    ((⟨1, 2, 7⟩ : TimeAcceptStep).tb < 4 ∧ Ready 274 call stepped ∧ (⟨1, 2, 7⟩ : TimeAcceptStep).mode ≤ 2 ∧
       (withdrawStep (advance call.t stepped)) = withdrawStep (advance call.t stepped) ∧
       (tbOf (withdrawStep (advance call.t stepped)) (⟨1, 2, 7⟩ : TimeAcceptStep).tb).state = TbState.discontinuity ∧
       (tbOf (withdrawStep (advance call.t stepped)) (⟨1, 2, 7⟩ : TimeAcceptStep).tb).stepId = (⟨1, 2, 7⟩ : TimeAcceptStep).stepId ∧
       (⟨1, 2, 7⟩ : TimeAcceptStep).tb ≠ selTb (withdrawStep (advance call.t stepped))) ∧
    (Ready 274 call stepped ∧ (⟨3, 2, 7⟩ : TimeAcceptStep).tb < 4 ∧ (⟨3, 2, 7⟩ : TimeAcceptStep).mode ≤ 2 ∧
       (withdrawStep (advance call.t stepped)) = withdrawStep (advance call.t stepped) ∧
       ((tbOf (withdrawStep (advance call.t stepped)) (⟨3, 2, 7⟩ : TimeAcceptStep).tb).state ≠ TbState.discontinuity ∨
       (tbOf (withdrawStep (advance call.t stepped)) (⟨3, 2, 7⟩ : TimeAcceptStep).tb).stepId ≠ (⟨3, 2, 7⟩ : TimeAcceptStep).stepId)) ∧
    (Ready 276 call standby ∧ rateOk (⟨60000, 1001, -5⟩ : ShowTimingSet).n (⟨60000, 1001, -5⟩ : ShowTimingSet).d = true ∧
       (genlockUsed standby = true → genlockOk standby (⟨60000, 1001, -5⟩ : ShowTimingSet).n (⟨60000, 1001, -5⟩ : ShowTimingSet).d = true) ∧
       rateCarries (advance call.t standby) (⟨60000, 1001, -5⟩ : ShowTimingSet).n (⟨60000, 1001, -5⟩ : ShowTimingSet).d = true) ∧
    (Ready 276 call standby ∧ (rateOk (⟨0, 1, -5⟩ : ShowTimingSet).n (⟨0, 1, -5⟩ : ShowTimingSet).d = false ∨ genlockUsed standby = true ∧
       genlockOk standby (⟨0, 1, -5⟩ : ShowTimingSet).n (⟨0, 1, -5⟩ : ShowTimingSet).d = false)) := by
  simp only [advance_zero, advance_call, ready_iff, RegsWf, CellsWf]
  refine ⟨?_, ?_, ?_, ?_, ?_, ?_, ?_, ?_, ?_, ?_⟩ <;> decide +kernel

theorem witness_ShowTimeCommands_2 :
    Ready 275 call showing := by
  simp only [advance_zero, advance_call, ready_iff, RegsWf, CellsWf]
  decide +kernel

theorem witness_ShowTimeCommands_3 :
    (Ready 272 call showing ∧ 10 < ({ baseSet with portA := 11 } : TimeBaseSet).portA ∧ ({ baseSet with portA := 11 } : TimeBaseSet).portA ≠ 15) ∧
    (Ready 272 call showing ∧ 10 < ({ baseSet with portB := 14 } : TimeBaseSet).portB ∧ ({ baseSet with portB := 14 } : TimeBaseSet).portB ≠ 15) := by
  simp only [advance_zero, advance_call, ready_iff, RegsWf, CellsWf]
  refine ⟨?_, ?_⟩ <;> decide +kernel

theorem witness_StepMovesCorrection :
    (pathUsed showing 0 false = false) ∧
    (pathUsed mastered 0 false = true ∧ hasInstances mastered 0 = true) ∧
    (pathUsed mastered 0 false = true ∧ hasInstances mastered 0 = true ∧ ({ sync with master := 8 } : SourceUpdate).announce = none ∧
       syncAccepted ({ sync with master := 8 } : SourceUpdate) (pathOf (tbOf mastered 0) false) = false) ∧
    (pathUsed mastered 0 false = true ∧ hasInstances mastered 0 = true ∧ sync.announce = none ∧
       syncAccepted sync (pathOf (tbOf mastered 0) false) = true ∧ sync.valid = true ∧ false = (tbOf mastered 0).activeB ∧
       (pathOf (tbOf mastered 0) false).rel = 0 ∧ RegsWf mastered.regs ∧
       2000 ≤ (sync.offset + signed 32 (regN mastered (R.TIM_TBn_REF_OFFSET 0))).natAbs) := by
  simp only [advance_zero, advance_call, ready_iff, RegsWf, CellsWf]
  refine ⟨?_, ?_, ?_, ?_⟩ <;> decide +kernel

theorem witness_ReferenceEvents :
    (RegsWf showing.regs ∧ (pathUsed showing 3 true = false ∨
       refLossDue (tbSource showing 3) (advance 0 showing).time.now (pathOf (tbOf showing 3) true) = false)) ∧
    (RegsWf paths.regs ∧ pathUsed paths 0 false = true ∧
       refLossDue (tbSource paths 0) (advance 0 paths).time.now (pathOf (tbOf paths 0) false) = true ∧ false = (tbOf paths 0).activeB ∧
       (pathUsed paths 0 !false) = true ∧ (pathOf (tbOf paths 0) !false).locked = true ∧ abWithin paths 0 = true) ∧
    (RegsWf onB.regs ∧ pathUsed onB 0 false = true ∧ refLossDue (tbSource onB 0) (advance 0 onB).time.now (pathOf (tbOf onB 0) false) = true ∧
       false ≠ (tbOf onB 0).activeB) ∧
    (RegsWf mains.regs ∧ pathUsed mains 2 false = true ∧
       refLossDue (tbSource mains 2) (advance 0 mains).time.now (pathOf (tbOf mains 2) false) = true ∧ false = (tbOf mains 2).activeB ∧
       (pathUsed mains 2 !false) = false ∧ (tbOf mains 2).state = TbState.locked) ∧
    (RegsWf onB.regs ∧ bitOf (tbCfg onB 0) 7 = true ∧ (tbOf onB 0).activeB = true ∧ (tbOf onB 0).a.locked = true ∧
       (tbOf onB 0).a.lockedAt + 10000000000 ≤ (advance 0 onB).time.now ∧ abWithin onB 0 = true) ∧
    (RegsWf showing.regs ∧ ((advance 0 showing).time.now < (tbOf showing 0).a.lockedAt + 10000000000 ∨ bitOf (tbCfg showing 0) 7 = false ∨
       abWithin showing 0 = false ∨ (tbOf showing 0).a.locked = false)) := by
  simp only [advance_zero, advance_call, ready_iff, RegsWf, CellsWf]
  refine ⟨?_, ?_, ?_, ?_, ?_, ?_⟩ <;> decide +kernel

theorem witness_RtcCopied :
    ((tbOf rtcDue (selTb rtcDue)).state = TbState.locked ∧ rtcDue.time.rtcCopied + 60000000000 ≤ (advance 0 rtcDue).time.now) ∧
    (((tbOf showing (selTb showing)).state ≠ TbState.locked ∨ (advance 0 showing).time.now < showing.time.rtcCopied + 60000000000)) := by
  simp only [advance_zero, advance_call, ready_iff, RegsWf, CellsWf]
  refine ⟨?_, ?_⟩ <;> decide +kernel

theorem witness_ShowTimeEvents :
    (showing.time.running = true) ∧
    (standby.time.running = false) ∧
    (accepting.time.running = true) ∧
    (crossed.time.mainsValid = some (999933333000, 20000, 5) ∧ 999933333000 + 66667000 ≤ (advance 0 crossed).time.now) := by
  simp only [advance_zero, advance_call, ready_iff, RegsWf, CellsWf]
  refine ⟨?_, ?_, ?_, ?_⟩ <;> decide +kernel

theorem witness_CueCommands_1 :
    (Ready 320 call (live .show) ∧ (live .show).time.running = false) ∧
    (Ready 320 call ({ showing with part := .rk9210 } : State) ∧ ({ showing with part := .rk9210 } : State).time.running = true ∧
       cueRangeOk ({ cue with action := 2 } : CueSchedule) = true ∧ ({ cue with action := 2 } : CueSchedule).action = 2 ∧
       ({ showing with part := .rk9210 } : State).part = Part.rk9210) ∧
    (Ready 320 call showing ∧ showing.time.running = true ∧ cueRangeOk cue = true ∧ cue.action = 1 ∧ stageHeld showing cue.argument = false) ∧
    (Ready 320 call (cueHeld [held] showing) ∧ (cueHeld [held] showing).time.running = true ∧ cueRangeOk cue = true ∧ (cue.action = 2 →
       (cueHeld [held] showing).part = Part.rk9200 ∧ cue.basis < 2) ∧ (cue.action = 1 → stageHeld (cueHeld [held] showing) cue.argument = true) ∧
       (∃ q, q ∈ (cueHeld [held] showing).alm.cues ∧ q.cueId = cue.cueId) ∧ nBit cue.flags 0 = false) ∧
    (Ready 320 call (cueHeld [] showing) ∧ (cueHeld [] showing).time.running = true ∧ cueRangeOk cue = true ∧ (cue.action = 2 →
       (cueHeld [] showing).part = Part.rk9200 ∧ cue.basis < 2) ∧ (cue.action = 1 → stageHeld (cueHeld [] showing) cue.argument = true) ∧
       ((∃ q, q ∈ (cueHeld [] showing).alm.cues ∧ q.cueId = cue.cueId) ∧ nBit cue.flags 0 = true ∨ (∀ (q : Cue), q ∈ (cueHeld [] showing).alm.cues →
       q.cueId ≠ cue.cueId) ∧ (cueHeld [] showing).alm.cues.length < 16384) ∧ (cue.basis = 2 ∨
       beyondHorizon (advance call.t (cueHeld [] showing)) ((cueOf (advance call.t (cueHeld [] showing)) cue).due.getD cue.when_) = false) ∧
       cue.action ≠ 2 ∧ cue.basis = 0) ∧
    (Ready 320 call (cueHeld [held] showing) ∧ (cueHeld [held] showing).time.running = true ∧
       cueRangeOk ({ cue with flags := 1 } : CueSchedule) = true ∧ (({ cue with flags := 1 } : CueSchedule).action = 2 →
       (cueHeld [held] showing).part = Part.rk9200 ∧ ({ cue with flags := 1 } : CueSchedule).basis < 2) ∧
       (({ cue with flags := 1 } : CueSchedule).action = 1 →
       stageHeld (cueHeld [held] showing) ({ cue with flags := 1 } : CueSchedule).argument = true) ∧ ((∃ q, q ∈ (cueHeld [held] showing).alm.cues ∧
       q.cueId = ({ cue with flags := 1 } : CueSchedule).cueId) ∧ nBit ({ cue with flags := 1 } : CueSchedule).flags 0 = true ∨
       (∀ (q : Cue), q ∈ (cueHeld [held] showing).alm.cues → q.cueId ≠ ({ cue with flags := 1 } : CueSchedule).cueId) ∧
       (cueHeld [held] showing).alm.cues.length < 16384) ∧ (({ cue with flags := 1 } : CueSchedule).basis = 2 ∨
       beyondHorizon (advance call.t (cueHeld [held] showing)) ((cueOf (advance call.t (cueHeld [held] showing)) ({ cue with flags := 1 } : CueSchedule)).due.getD ({ cue with flags := 1 } : CueSchedule).when_) = false) ∧
       ({ cue with flags := 1 } : CueSchedule).action ≠ 2 ∧ ({ cue with flags := 1 } : CueSchedule).basis = 0) ∧
    (Ready 320 call (cueHeld [] showing) ∧ (cueHeld [] showing).time.running = true ∧ cueRangeOk labelCue = true ∧ (labelCue.action = 2 →
       (cueHeld [] showing).part = Part.rk9200 ∧ labelCue.basis < 2) ∧ (labelCue.action = 1 →
       stageHeld (cueHeld [] showing) labelCue.argument = true) ∧ ((∃ q, q ∈ (cueHeld [] showing).alm.cues ∧ q.cueId = labelCue.cueId) ∧
       nBit labelCue.flags 0 = true ∨ (∀ (q : Cue), q ∈ (cueHeld [] showing).alm.cues → q.cueId ≠ labelCue.cueId) ∧
       (cueHeld [] showing).alm.cues.length < 16384) ∧ (labelCue.basis = 2 ∨
       beyondHorizon (advance call.t (cueHeld [] showing)) ((cueOf (advance call.t (cueHeld [] showing)) labelCue).due.getD labelCue.when_) = false) ∧
       labelCue.action ≠ 2 ∧ labelCue.basis = 1) ∧
    (Ready 320 call (cueHeld [] showing) ∧ (cueHeld [] showing).time.running = true ∧ cueRangeOk mainsCue = true ∧ (mainsCue.action = 2 →
       (cueHeld [] showing).part = Part.rk9200 ∧ mainsCue.basis < 2) ∧ (mainsCue.action = 1 →
       stageHeld (cueHeld [] showing) mainsCue.argument = true) ∧ ((∃ q, q ∈ (cueHeld [] showing).alm.cues ∧ q.cueId = mainsCue.cueId) ∧
       nBit mainsCue.flags 0 = true ∨ (∀ (q : Cue), q ∈ (cueHeld [] showing).alm.cues → q.cueId ≠ mainsCue.cueId) ∧
       (cueHeld [] showing).alm.cues.length < 16384) ∧ (mainsCue.basis = 2 ∨
       beyondHorizon (advance call.t (cueHeld [] showing)) ((cueOf (advance call.t (cueHeld [] showing)) mainsCue).due.getD mainsCue.when_) = false) ∧
       mainsCue.action ≠ 2) ∧
    (Ready 320 call (cueHeld [] showing) ∧ (cueHeld [] showing).time.running = true ∧ cueRangeOk lineCue = true ∧ (lineCue.action = 2 →
       (cueHeld [] showing).part = Part.rk9200 ∧ lineCue.basis < 2) ∧ (lineCue.action = 1 → stageHeld (cueHeld [] showing) lineCue.argument = true) ∧
       ((∃ q, q ∈ (cueHeld [] showing).alm.cues ∧ q.cueId = lineCue.cueId) ∧ nBit lineCue.flags 0 = true ∨
       (∀ (q : Cue), q ∈ (cueHeld [] showing).alm.cues → q.cueId ≠ lineCue.cueId) ∧ (cueHeld [] showing).alm.cues.length < 16384) ∧
       (lineCue.basis = 2 ∨
       beyondHorizon (advance call.t (cueHeld [] showing)) ((cueOf (advance call.t (cueHeld [] showing)) lineCue).due.getD lineCue.when_) = false) ∧
       lineCue.action ≠ 2) ∧
    (Ready 320 call showing ∧ showing.time.running = true ∧ cueRangeOk radioCue = true ∧ (radioCue.action = 2 → showing.part = Part.rk9200 ∧
       radioCue.basis < 2) ∧ (radioCue.action = 1 → stageHeld showing radioCue.argument = true) ∧ ((∃ q, q ∈ showing.alm.cues ∧
       q.cueId = radioCue.cueId) ∧ nBit radioCue.flags 0 = true ∨ (∀ (q : Cue), q ∈ showing.alm.cues → q.cueId ≠ radioCue.cueId) ∧
       showing.alm.cues.length < 16384) ∧ (radioCue.basis = 2 ∨
       beyondHorizon (advance call.t showing) ((cueOf (advance call.t showing) radioCue).due.getD radioCue.when_) = false) ∧ radioCue.basis = 0) := by
  simp only [advance_zero, advance_call, ready_iff, RegsWf, CellsWf]
  refine ⟨?_, ?_, ?_, ?_, ?_, ?_, ?_, ?_, ?_, ?_⟩ <;> decide +kernel

theorem witness_CueCommands_2 :
    (Ready 320 call showing ∧ showing.time.running = true ∧ cueRangeOk ({ cue with action := 0 } : CueSchedule) = true ∧
       (({ cue with action := 0 } : CueSchedule).action = 2 → showing.part = Part.rk9200 ∧ ({ cue with action := 0 } : CueSchedule).basis < 2) ∧
       (({ cue with action := 0 } : CueSchedule).action = 1 → stageHeld showing ({ cue with action := 0 } : CueSchedule).argument = true) ∧
       ((∃ q, q ∈ showing.alm.cues ∧ q.cueId = ({ cue with action := 0 } : CueSchedule).cueId) ∧
       nBit ({ cue with action := 0 } : CueSchedule).flags 0 = true ∨ (∀ (q : Cue), q ∈ showing.alm.cues →
       q.cueId ≠ ({ cue with action := 0 } : CueSchedule).cueId) ∧ showing.alm.cues.length < 16384) ∧
       (({ cue with action := 0 } : CueSchedule).basis = 2 ∨
       beyondHorizon (advance call.t showing) ((cueOf (advance call.t showing) ({ cue with action := 0 } : CueSchedule)).due.getD ({ cue with action := 0 } : CueSchedule).when_) = false) ∧
       ({ cue with action := 0 } : CueSchedule).action ≠ 2 ∧ ({ cue with action := 0 } : CueSchedule).basis = 0) ∧
    (Ready 320 call fullCues ∧ fullCues.time.running = true ∧ cueRangeOk ({ cue with cueId := 6 } : CueSchedule) = true ∧
       (({ cue with cueId := 6 } : CueSchedule).action = 2 → fullCues.part = Part.rk9200 ∧ ({ cue with cueId := 6 } : CueSchedule).basis < 2) ∧
       (({ cue with cueId := 6 } : CueSchedule).action = 1 → stageHeld fullCues ({ cue with cueId := 6 } : CueSchedule).argument = true) ∧
       (∀ (q : Cue), q ∈ fullCues.alm.cues → q.cueId ≠ ({ cue with cueId := 6 } : CueSchedule).cueId) ∧ 16384 ≤ fullCues.alm.cues.length ∧
       (({ cue with cueId := 6 } : CueSchedule).basis = 2 ∨
       beyondHorizon (advance call.t fullCues) ((cueOf (advance call.t fullCues) ({ cue with cueId := 6 } : CueSchedule)).due.getD ({ cue with cueId := 6 } : CueSchedule).when_) = false)) ∧
    (Ready 321 call showing ∧ (∀ (q : Cue), q ∈ showing.alm.cues → q.cueId ≠ 5)) ∧
    (Ready 321 call (cueHeld [heldDue] showing) ∧ List.find? (fun q ↦ q.cueId == 5) (cueHeld [heldDue] showing).alm.cues = some heldDue ∧
       firesNow (advance call.t (cueHeld [heldDue] showing)) heldDue = true) ∧
    (Ready 321 call (cueHeld [held] showing) ∧ List.find? (fun q ↦ q.cueId == 5) (cueHeld [held] showing).alm.cues = some held ∧
       firesNow (advance call.t (cueHeld [held] showing)) held = false ∧ (held.action = 2 → aGet (cueHeld [held] showing).rad.cueSent (2 * 5) 0 = 0 ∧
       aGet (cueHeld [held] showing).rad.cueSent (2 * 5 + 1) 0 = 0)) ∧
    (Ready 321 call (cueHeld [{ held with action := 2 }] showing) ∧
       List.find? (fun q ↦ q.cueId == 5) (cueHeld [{ held with action := 2 }] showing).alm.cues = some ({ held with action := 2 } : Cue) ∧
       firesNow (advance call.t (cueHeld [{ held with action := 2 }] showing)) ({ held with action := 2 } : Cue) = false ∧
       (({ held with action := 2 } : Cue).action = 2 → aGet (cueHeld [{ held with action := 2 }] showing).rad.cueSent (2 * 5) 0 = 0 ∧
       aGet (cueHeld [{ held with action := 2 }] showing).rad.cueSent (2 * 5 + 1) 0 = 0)) ∧
    (Ready 323 call traced ∧ 0 ≤ 4095 ∧ 1 ≤ 128 ∧ 128 ≤ 128) ∧
    (Ready 323 call traced ∧ (4095 < 0 ∨ 129 < 1 ∨ 128 < 129)) ∧
    (Ready 323 call traced ∧ (4095 < 4096 ∨ 1 < 1 ∨ 128 < 1)) := by
  simp only [advance_zero, advance_call, ready_iff, RegsWf, CellsWf]
  refine ⟨?_, ?_, ?_, ?_, ?_, ?_, ?_, ?_, ?_⟩ <;> decide +kernel

theorem witness_CueCommands_3 :
    (Ready 320 call showing ∧ showing.time.running = true ∧ cueRangeOk ({ cue with basis := 4 } : CueSchedule) = false) ∧
    (Ready 320 call showing ∧ showing.time.running = true ∧ cueRangeOk ({ cue with sub := 1 } : CueSchedule) = false) ∧
    (Ready 320 call showing ∧ showing.time.running = true ∧ cueRangeOk ({ mainsCue with sub := 36000 } : CueSchedule) = false) ∧
    (Ready 320 call showing ∧ showing.time.running = true ∧ cueRangeOk ({ radioCue with basis := 2 } : CueSchedule) = true ∧ ({ radioCue with basis := 2 } : CueSchedule).action = 2 ∧ showing.part = .rk9200 ∧
       2 ≤ ({ radioCue with basis := 2 } : CueSchedule).basis) ∧
    (Ready 320 call (cueHeld [] showing) ∧ (cueHeld [] showing).time.running = true ∧ cueRangeOk lineCue = true ∧ (lineCue.action = 2 → (cueHeld [] showing).part = .rk9200 ∧ lineCue.basis < 2) ∧
       (lineCue.action = 1 → stageHeld (cueHeld [] showing) lineCue.argument = true) ∧ ((∀ q : Cue, q ∈ (cueHeld [] showing).alm.cues → q.cueId ≠ lineCue.cueId) ∧ (cueHeld [] showing).alm.cues.length < 16384) ∧
       (lineCue.basis = 2 ∨ beyondHorizon (advance call.t (cueHeld [] showing)) ((cueOf (advance call.t (cueHeld [] showing)) lineCue).due.getD lineCue.when_) = false) ∧ lineCue.basis = 2) ∧
    (Ready 320 call (cueHeld [] showing) ∧ (cueHeld [] showing).time.running = true ∧ cueRangeOk mainsCue = true ∧ (mainsCue.action = 2 → (cueHeld [] showing).part = .rk9200 ∧ mainsCue.basis < 2) ∧
       (mainsCue.action = 1 → stageHeld (cueHeld [] showing) mainsCue.argument = true) ∧ ((∀ q : Cue, q ∈ (cueHeld [] showing).alm.cues → q.cueId ≠ mainsCue.cueId) ∧ (cueHeld [] showing).alm.cues.length < 16384) ∧
       (mainsCue.basis = 2 ∨ beyondHorizon (advance call.t (cueHeld [] showing)) ((cueOf (advance call.t (cueHeld [] showing)) mainsCue).due.getD mainsCue.when_) = false) ∧ mainsCue.basis = 3 ∧ mainsNow (advance call.t (cueHeld [] showing)) = none) ∧
    (Ready 320 call mainsOn ∧ mainsOn.time.running = true ∧ cueRangeOk mainsCue = true ∧ (mainsCue.action = 2 → mainsOn.part = .rk9200 ∧ mainsCue.basis < 2) ∧
       (mainsCue.action = 1 → stageHeld mainsOn mainsCue.argument = true) ∧ ((∀ q : Cue, q ∈ mainsOn.alm.cues → q.cueId ≠ mainsCue.cueId) ∧ mainsOn.alm.cues.length < 16384) ∧
       (mainsCue.basis = 2 ∨ beyondHorizon (advance call.t mainsOn) ((cueOf (advance call.t mainsOn) mainsCue).due.getD mainsCue.when_) = false) ∧ mainsCue.basis = 3 ∧ mainsNow (advance call.t mainsOn) = some (999990000000, 20000, 5)) ∧
    (Ready 320 call showing ∧ showing.time.running = true ∧ cueRangeOk radioCue = true ∧ (radioCue.action = 2 → showing.part = .rk9200 ∧ radioCue.basis < 2) ∧
       (radioCue.action = 1 → stageHeld showing radioCue.argument = true) ∧ ((∀ q : Cue, q ∈ showing.alm.cues → q.cueId ≠ radioCue.cueId) ∧ showing.alm.cues.length < 16384) ∧
       (radioCue.basis = 2 ∨ beyondHorizon (advance call.t showing) ((cueOf (advance call.t showing) radioCue).due.getD radioCue.when_) = false) ∧ radioCue.action = 2 ∧ showing.alm.descriptors.length < 31744) ∧
    (Ready 320 call (cueHeld [] showing) ∧ (cueHeld [] showing).time.running = true ∧ cueRangeOk farCue = true ∧ (farCue.action = 2 → (cueHeld [] showing).part = .rk9200 ∧ farCue.basis < 2) ∧
       (farCue.action = 1 → stageHeld (cueHeld [] showing) farCue.argument = true) ∧ ((∃ q : Cue, q ∈ (cueHeld [] showing).alm.cues ∧ q.cueId = farCue.cueId) → nBit farCue.flags 0 = true) ∧ farCue.basis ≠ 2 ∧ RegsWf (cueHeld [] showing).regs ∧
       beyondHorizon (advance call.t (cueHeld [] showing)) ((cueOf (advance call.t (cueHeld [] showing)) farCue).due.getD farCue.when_) = true) ∧
    (RegsWf fullCues.regs) ∧
    (Ready 321 call cueSent_ ∧ List.find? (fun q ↦ q.cueId == 5) cueSent_.alm.cues = some ({ held with action := 2 } : Cue) ∧
       firesNow (advance call.t cueSent_) ({ held with action := 2 } : Cue) = false ∧ ({ held with action := 2 } : Cue).action = 2 ∧
       (0 < aGet cueSent_.rad.cueSent (2 * 5) 0 ∨ 0 < aGet cueSent_.rad.cueSent (2 * 5 + 1) 0)) := by
  simp only [advance_zero, advance_call, ready_iff, RegsWf, CellsWf]
  refine ⟨?_, ?_, ?_, ?_, ?_, ?_, ?_, ?_, ?_, ?_, ?_⟩ <;> decide +kernel

theorem witness_DispatchOrder :
    ((∀ (d : Descriptor), d ∈ (works [work 2 4 0 (some 0)]).alm.descriptors → isPast (advance 0 (works [work 2 4 0 (some 0)])) d = false) ∧
       (∀ (d : Descriptor), d ∈ (works [work 2 4 0 (some 0)]).alm.descriptors → d.ready = none ∨ ¬d.target ∈ [3])) ∧
    ((∀ (d : Descriptor), d ∈ queuedWork.alm.descriptors → isPast (advance 0 queuedWork) d = false) ∧ (∃ d, d ∈ queuedWork.alm.descriptors ∧
       d.ready ≠ none ∧ d.target ∈ [3, 4])) := by
  simp only [advance_zero, advance_call, ready_iff, RegsWf, CellsWf]
  refine ⟨?_, ?_⟩ <;> decide +kernel

theorem witness_AlmanacEvents :
    (RegsWf pastWorks.regs ∧ pastFlow ∈ pastWorks.alm.descriptors ∧ isPast (advance 0 pastWorks) pastFlow = true ∧ pastFlow.work = Work.flow 3) ∧
    (RegsWf (works [work 2 4 0 none]).regs ∧ (∀ d : Descriptor, d ∈ (works [work 2 4 0 none]).alm.descriptors → isPast (advance 0 (works [work 2 4 0 none])) d = false) ∧
       ∀ p : Fin 11, (portOf (works [work 2 4 0 none]) p).waiting = [] ∧ lateFrames (advance 0 (works [work 2 4 0 none])) p = []) ∧
    (RegsWf retries.regs ∧ retries.alm.timerRetry = [(timer 175000000 0)] ∧ retries.alm.timers.length < 1024 ∧
       beyondHorizon (advance 0 retries) (timer 175000000 0).due = false) ∧
    (RegsWf retriesFar.regs ∧ retriesFar.alm.timerRetry = [(timer farTime 0)] ∧ retriesFar.alm.timers.length < 1024 ∧
       beyondHorizon (advance 0 retriesFar) (timer farTime 0).due = true) ∧
    (RegsWf retriesFull.regs ∧ retriesFull.alm.timerRetry = [(timer 175000000 0)] ∧ 1024 ≤ retriesFull.alm.timers.length) ∧
    (RegsWf retriesPast.regs ∧ retriesPast.alm.descriptorRetry = [pastFlow] ∧ isPast (advance 0 retriesPast) pastFlow = true ∧ pastFlow.work = Work.flow 3) ∧
    (RegsWf retries.regs ∧ retries.alm.descriptorRetry = [(work 6 14 0 none)] ∧ isPast (advance 0 retries) (work 6 14 0 none) = false ∧
       poolRoom retries (work 6 14 0 none).priority = true) ∧
    (RegsWf retriesNoRoom.regs ∧ retriesNoRoom.alm.descriptorRetry = [(work 6 14 0 none)] ∧ isPast (advance 0 retriesNoRoom) (work 6 14 0 none) = false ∧
       poolRoom retriesNoRoom (work 6 14 0 none).priority = false) ∧
    (RegsWf triggered.regs ∧ triggered.alm.traceTrigger = some (⟨7, 1, 0, 4⟩ : TraceTrigger) ∧ (⟨7, 1, 0, 4⟩ : TraceTrigger).left = 0 ∧
       triggered.alm.traceFrozen = false) ∧
    (RegsWf showing.regs ∧ showing.alm.timerRetry = [] ∧ showing.alm.descriptorRetry = [] ∧
       ((∀ g : TraceTrigger, showing.alm.traceTrigger = some g → g.left ≠ 0) ∨ showing.alm.traceFrozen = true)) := by
  simp only [advance_zero, advance_call, ready_iff, RegsWf, CellsWf]
  refine ⟨?_, ?_, ?_, ?_, ?_, ?_, ?_, ?_, ?_, ?_⟩ <;> decide +kernel

theorem witness_TickAndLaunch :
    (showing.time.running = false ∨ 170000500 % 1000 ≠ 0 ∨ domainUp showing 7 = false) ∧
    (timed.time.running = true ∧ 170000000 % 1000 = 0 ∧ domainUp timed 7 = true ∧ RegsWf timed.regs ∧ timed.alm.sync = [] ∧ timed.alm.release = [] ∧ timed.alm.launch = [] ∧ timed.alm.cues = [] ∧
       timed.alm.timers = [(timer 170000000 169000000)] ∧ isDue 170000000 (timer 170000000 169000000).due = true ∧
       (timer 170000000 169000000).since < 170000000) ∧
    ((cueHeld [heldDue] showing).time.running = true ∧ 170000000 % 1000 = 0 ∧ domainUp (cueHeld [heldDue] showing) 7 = true ∧ RegsWf (cueHeld [heldDue] showing).regs ∧ (cueHeld [heldDue] showing).alm.sync = [] ∧ (cueHeld [heldDue] showing).alm.release = [] ∧ (cueHeld [heldDue] showing).alm.launch = [] ∧ (cueHeld [heldDue] showing).alm.timers = [] ∧
       (cueHeld [heldDue] showing).alm.cues = [heldDue] ∧ leads (ticked (cueHeld [heldDue] showing)) = true ∧ cueIsDue 170000000 heldDue = true ∧ heldDue.action = 1 ∧
       (cueHeld [heldDue] showing).alm.descriptors.length < 31744) ∧
    ((cueHeld [heldRadio] showing).time.running = true ∧ 170000000 % 1000 = 0 ∧ domainUp (cueHeld [heldRadio] showing) 7 = true ∧ RegsWf (cueHeld [heldRadio] showing).regs ∧ (cueHeld [heldRadio] showing).alm.sync = [] ∧ (cueHeld [heldRadio] showing).alm.release = [] ∧ (cueHeld [heldRadio] showing).alm.launch = [] ∧ (cueHeld [heldRadio] showing).alm.timers = [] ∧
       (cueHeld [heldRadio] showing).alm.cues = [heldRadio] ∧ leads (ticked (cueHeld [heldRadio] showing)) = true ∧ cueIsDue 170000000 heldRadio = true ∧ heldRadio.action = 2 ∧
       cueMade (cueHeld [heldRadio] showing) heldRadio 0 + cueMade (cueHeld [heldRadio] showing) heldRadio 1 = 0) ∧
    ((launching (.packet 3)).time.running = true ∧ 170000000 % 1000 = 0 ∧ domainUp (launching (.packet 3)) 7 = true ∧ RegsWf (launching (.packet 3)).regs ∧ (launching (.packet 3)).alm.sync = [] ∧ (launching (.packet 3)).alm.release = [] ∧ (launching (.packet 3)).alm.timers = [] ∧ (launching (.packet 3)).alm.cues = [] ∧
       (launching (.packet 3)).alm.launch = [launchEntry (.packet 3)] ∧ launchDue 170000000 (ticked (launching (.packet 3))) (launchEntry (.packet 3)) = true) ∧
    ((launching (.dmxBreak 1)).time.running = true ∧ 170000000 % 1000 = 0 ∧ domainUp (launching (.dmxBreak 1)) 7 = true ∧ RegsWf (launching (.dmxBreak 1)).regs ∧ (launching (.dmxBreak 1)).alm.sync = [] ∧ (launching (.dmxBreak 1)).alm.release = [] ∧ (launching (.dmxBreak 1)).alm.timers = [] ∧ (launching (.dmxBreak 1)).alm.cues = [] ∧
       (launching (.dmxBreak 1)).alm.launch = [launchEntry (.dmxBreak 1)] ∧
       launchDue 170000000 (ticked (launching (.dmxBreak 1))) (launchEntry (.dmxBreak 1)) = true) ∧
    ((launching (.radioSlot 1)).time.running = true ∧ 170000000 % 1000 = 0 ∧ domainUp (launching (.radioSlot 1)) 7 = true ∧ RegsWf (launching (.radioSlot 1)).regs ∧ (launching (.radioSlot 1)).alm.sync = [] ∧ (launching (.radioSlot 1)).alm.release = [] ∧ (launching (.radioSlot 1)).alm.timers = [] ∧ (launching (.radioSlot 1)).alm.cues = [] ∧
       (launching (.radioSlot 1)).alm.launch = [launchEntry (.radioSlot 1)] ∧
       launchDue 170000000 (ticked (launching (.radioSlot 1))) (launchEntry (.radioSlot 1)) = true) ∧
    (syncing.time.running = true ∧ 170000000 % 1000 = 0 ∧ domainUp syncing 7 = true ∧ RegsWf syncing.regs ∧ syncing.alm.release = [] ∧ syncing.alm.launch = [] ∧ syncing.alm.timers = [] ∧ syncing.alm.cues = [] ∧ syncing.alm.armed = [] ∧
       syncing.power.hold = false ∧ syncing.alm.sync = [(1, ⟨170000000, 9, 0⟩)] ∧ isDue 170000000 (syncDue (ticked syncing) ⟨170000000, 9, 0⟩) = true) := by
  simp only [advance_zero, advance_call, ready_iff, RegsWf, CellsWf]
  refine ⟨?_, ?_, ?_, ?_, ?_, ?_, ?_, ?_⟩ <;> decide +kernel


theorem witness_TickAndLaunch_2 :
    ((armedWith (.show 3) 170000001).time.running = false ∨ ∀ a : Armed, a ∈ (armedWith (.show 3) 170000001).alm.armed →
       (advance 0 (armedWith (.show 3) 170000001)).time.st64 < a.at_) ∧
    ((armedZone (.show 3) 170000000).time.running = true ∧ (armedZone (.show 3) 170000000).alm.armed = [⟨.show 3, 170000000, [(1, 9)]⟩] ∧
       170000000 ≤ (advance 0 (armedZone (.show 3) 170000000)).time.st64) ∧
    ((armedZone (.radio 1) 170000000).time.running = true ∧ (armedZone (.radio 1) 170000000).alm.armed = [⟨.radio 1, 170000000, [(1, 9)]⟩] ∧
       170000000 ≤ (advance 0 (armedZone (.radio 1) 170000000)).time.st64) ∧
    ((armedZone (.dmx 1) 170000000).time.running = true ∧ (armedZone (.dmx 1) 170000000).alm.armed = [⟨.dmx 1, 170000000, [(1, 9)]⟩] ∧
       170000000 ≤ (advance 0 (armedZone (.dmx 1) 170000000)).time.st64) ∧
    ((armedZone (.lane 1) 170000000).time.running = true ∧ (armedZone (.lane 1) 170000000).alm.armed = [⟨.lane 1, 170000000, [(1, 9)]⟩] ∧
       170000000 ≤ (advance 0 (armedZone (.lane 1) 170000000)).time.st64) := by
  simp only [advance_zero, advance_call, ready_iff, RegsWf, CellsWf]
  refine ⟨?_, ?_, ?_, ?_, ?_⟩ <;> decide +kernel

theorem witness_CheckChannel :
    (RegsWf channels.regs ∧ bits (reg channels (R.CHK_CHn_CTRL 2)) 31 24 ≠ 5) ∧
    (RegsWf channels.regs ∧ bits (reg channels (R.CHK_CHn_CTRL 3)) 31 24 = 5 ∧ aFind channels.teller.checked 3 = none) ∧
    (RegsWf channelTold.regs ∧ bits (reg channelTold (R.CHK_CHn_CTRL 3)) 31 24 = 5 ∧ aFind channelTold.teller.checked 3 = some [1, 2]) ∧
    (RegsWf channels.regs ∧ bits (reg channels (R.CHK_CHn_CTRL 3)) 31 24 = 5 ∧ bitOf (reg channels (R.CHK_CHn_CTRL 3)) 6 = false) := by
  simp only [advance_zero, advance_call, ready_iff, RegsWf, CellsWf]
  refine ⟨?_, ?_, ?_, ?_⟩ <;> decide +kernel

theorem witness_AliveJudgement :
    (RegsWf channels.regs ∧ bitOf (reg channels (R.CHK_CHn_CTRL 4)) 6 = true ∧ 0 < 65536 ∧ 65535 = bits (reg channels (R.CHK_CHn_ALIVE 4)) 15 0 ∧
       1 = (0 + 65536 - 65535) % 65536 ∧ (bitOf (reg channels (R.CHK_CHn_ALIVE 4)) 16 = false ∨ 1 ≤ 1 ∧ 1 ≤ 32768)) ∧
    (RegsWf channels.regs ∧ bitOf (reg channels (R.CHK_CHn_CTRL 4)) 6 = true ∧ 65535 < 65536 ∧ 65535 = bits (reg channels (R.CHK_CHn_ALIVE 4)) 15 0 ∧
       0 = (65535 + 65536 - 65535) % 65536 ∧ bitOf (reg channels (R.CHK_CHn_ALIVE 4)) 16 = true ∧ (0 = 0 ∨ 32769 ≤ 0)) ∧
    (RegsWf channels.regs ∧ bitOf (reg channels (R.CHK_CHn_CTRL 4)) 6 = true ∧ 32767 < 65536 ∧ 65535 = bits (reg channels (R.CHK_CHn_ALIVE 4)) 15 0 ∧
       32768 = (32767 + 65536 - 65535) % 65536 ∧ (bitOf (reg channels (R.CHK_CHn_ALIVE 4)) 16 = false ∨ 1 ≤ 32768 ∧ 32768 ≤ 32768)) ∧
    (RegsWf channels.regs ∧ bitOf (reg channels (R.CHK_CHn_CTRL 4)) 6 = true ∧ 32768 < 65536 ∧ 65535 = bits (reg channels (R.CHK_CHn_ALIVE 4)) 15 0 ∧
       32769 = (32768 + 65536 - 65535) % 65536 ∧ bitOf (reg channels (R.CHK_CHn_ALIVE 4)) 16 = true ∧ (32769 = 0 ∨ 32769 ≤ 32769)) ∧
    (RegsWf (setReg (R.CHK_CHn_ALIVE 4) 0 channels).regs ∧ bitOf (reg (setReg (R.CHK_CHn_ALIVE 4) 0 channels) (R.CHK_CHn_CTRL 4)) 6 = true ∧
       9 < 65536 ∧ 0 = bits (reg (setReg (R.CHK_CHn_ALIVE 4) 0 channels) (R.CHK_CHn_ALIVE 4)) 15 0 ∧ 9 = (9 + 65536 - 0) % 65536 ∧
       (bitOf (reg (setReg (R.CHK_CHn_ALIVE 4) 0 channels) (R.CHK_CHn_ALIVE 4)) 16 = false ∨ 1 ≤ 9 ∧ 9 ≤ 32768)) ∧
    (RegsWf channels.regs) := by
  simp only [advance_zero, advance_call, ready_iff, RegsWf, CellsWf]
  refine ⟨?_, ?_, ?_, ?_, ?_, ?_⟩ <;> decide +kernel

theorem witness_IntakeFifos :
    (RegsWf showing.regs ∧ (fifoOf showing 2) = fifoOf showing 2 ∧ bitOf (reg showing (R.FIF_Qn_CFG 2)) 8 = false) ∧
    (RegsWf noQueue16.regs ∧ (fifoOf noQueue16 16) = fifoOf noQueue16 16 ∧ bitOf (reg noQueue16 (R.FIF_Qn_CFG 16)) 8 = true ∧ noQueue16.part = .rk9210) ∧
    (RegsWf (queued inPacket).regs ∧ (inPacket Fifo.reset) = fifoOf (queued inPacket) 2 ∧ bitOf (reg (queued inPacket) (R.FIF_Qn_CFG 2)) 8 = true) ∧
    (RegsWf (queued id).regs ∧ Fifo.reset = fifoOf (queued id) 2 ∧ bitOf (reg (queued id) (R.FIF_Qn_CFG 2)) 8 = true) ∧
    (RegsWf (queued fullQueue).regs ∧ (fullQueue Fifo.reset) = fifoOf (queued fullQueue) 2 ∧ bitOf (reg (queued fullQueue) (R.FIF_Qn_CFG 2)) 8 = true) ∧
    (RegsWf (queued packet).regs ∧ (packet Fifo.reset) = fifoOf (queued packet) 2 ∧ fifoEmpty (packet Fifo.reset) = false ∧
       fifoErrors (packet Fifo.reset) 0 = 0) ∧
    (RegsWf (queued packet).regs ∧ (packet Fifo.reset) = fifoOf (queued packet) 2 ∧ fifoEmpty (packet Fifo.reset) = false ∧
       fifoErrors (packet Fifo.reset) 4 ≠ 0) ∧
    (RegsWf (queued packet).regs ∧ (packet Fifo.reset) = fifoOf (queued packet) 2 ∧ fifoEmpty (packet Fifo.reset) = false ∧
       fifoErrors (packet Fifo.reset) 128 ≠ 0) ∧
    (RegsWf (queued id).regs ∧ Fifo.reset = fifoOf (queued id) 2 ∧ fifoEmpty Fifo.reset = true) ∧
    (RegsWf (queued packet).regs ∧ (packet Fifo.reset) = fifoOf (queued packet) 2) := by
  simp only [advance_zero, advance_call, ready_iff, RegsWf, CellsWf]
  refine ⟨?_, ?_, ?_, ?_, ?_, ?_, ?_, ?_, ?_, ?_⟩ <;> decide +kernel

theorem witness_DatapathErrors_1 :
    (RegsWf showing.regs ∧ errorThere notFound_ = false) ∧
    (RegsWf showing.regs ∧ errorThere parityFound = true ∧ parityFound.site ≠ 11 ∧ bitOf (reg showing R.CHK_ERR_CAP) 31 = false ∧
       parityFound.consumer = none ∧ parityFound.kind ≠ 1 ∧ (parityFound.site = 4 ∨ parityFound.site = 5 ∨ parityFound.site = 6)) ∧
    (RegsWf errored.regs ∧ errorThere parityFound = true ∧ parityFound.site ≠ 11 ∧ bitOf (reg errored R.CHK_ERR_CAP) 31 = true ∧
       parityFound.consumer = none ∧ parityFound.kind ≠ 1 ∧ (parityFound.site = 4 ∨ parityFound.site = 5 ∨ parityFound.site = 6)) ∧
    (RegsWf showing.regs ∧ errorThere (secded 8 2) = true ∧ (secded 8 2).site ≠ 11 ∧ bitOf (reg showing R.CHK_ERR_CAP) 31 = false ∧
       (secded 8 2).consumer = none ∧ (secded 8 2).kind = 2 ∧ (secded 8 2).site = 8 ∧ showing.protect.badEntries.contains (secded 8 2).object = false) ∧
    (RegsWf showing.regs ∧ errorThere (secded 8 1) = true ∧ (secded 8 1).site ≠ 11 ∧ bitOf (reg showing R.CHK_ERR_CAP) 31 = false ∧
       (secded 8 1).kind = 1 ∧ (secded 8 1).consumer = none) ∧
    (RegsWf showing.regs ∧ errorThere (secded 9 2) = true ∧ (secded 9 2).site ≠ 11 ∧ bitOf (reg showing R.CHK_ERR_CAP) 31 = false ∧
       (secded 9 2).consumer = none) ∧
    (RegsWf showing.regs ∧ errorThere (secded 10 2) = true ∧ (secded 10 2).site ≠ 11 ∧ bitOf (reg showing R.CHK_ERR_CAP) 31 = false ∧
       (secded 10 2).consumer = none) ∧
    (RegsWf showing.regs) ∧
    (RegsWf badEntry.regs ∧ tellerRuns badEntry = true ∧ badEntry.protect.badEntries ≠ []) ∧
    (RegsWf showing.regs ∧ (tellerRuns showing = false ∨ showing.protect.badEntries = [])) := by
  simp only [advance_zero, advance_call, ready_iff, RegsWf, CellsWf]
  refine ⟨?_, ?_, ?_, ?_, ?_, ?_, ?_, ?_, ?_, ?_⟩ <;> decide +kernel

theorem witness_DatapathErrors_2 :
    (RegsWf (handing 1 0).regs ∧ (handing 1 0).protect.handoffs = [(1, 0, 3)]) ∧
    (RegsWf (handing 5 0).regs ∧ (handing 5 0).protect.handoffs = [(5, 0, 3)]) ∧
    (RegsWf showing.regs ∧ showing.protect.handoffs = []) := by
  simp only [advance_zero, advance_call, ready_iff, RegsWf, CellsWf]
  refine ⟨?_, ?_, ?_⟩ <;> decide +kernel

theorem witness_DatapathErrors_3 :
    (RegsWf showing.regs ∧ errorThere mapFound = true ∧ mapFound.site = 1 ∧ mapFound.engine < 16 ∧ mapFound.kind ≠ 1 ∧ mapFound.consumer = none) ∧
    (RegsWf (queued packet).regs ∧ errorThere fifoFound = true ∧ fifoFound.site = 7 ∧ fifoFound.object < 18 ∧ (packet Fifo.reset) = fifoOf (queued packet) fifoFound.object ∧
       fifoEmpty (packet Fifo.reset) = false ∧ fifoFound.consumer = none) := by
  simp only [advance_zero, advance_call, ready_iff, RegsWf, CellsWf]
  refine ⟨?_, ?_⟩ <;> decide +kernel

theorem witness_InputReceivers_1 :
    (RegsWf (sdi .running).regs ∧ (srcOf (sdi .running) 1).state ≠ SourceState.off) ∧
    (RegsWf (streaming merge).regs ∧ aFind (streaming merge).cfgA.streams 2 = some streamSet ∧
       (srcOf (streaming merge) (2 + 4)).state ≠ SourceState.off ∧ pathOn streamSet false = true ∧ merge = (srcOf (streaming merge) (2 + 4)).merge ∧
       packetFits streamSet (pkt 3 97) = false) ∧
    (RegsWf (streaming merge).regs ∧ aFind (streaming merge).cfgA.streams 2 = some streamSet ∧
       (srcOf (streaming merge) (2 + 4)).state ≠ SourceState.off ∧ pathOn streamSet true = true ∧ merge = (srcOf (streaming merge) (2 + 4)).merge ∧
       packetFits streamSet (pkt 3 96) = true ∧ ¬(pkt 3 96).seq ∈ merge.got ∧ (∀ (e : Word × Nat), e ∈ merge.seenA ++ merge.seenB →
       e.fst ≠ (pkt 3 96).seq) ∧ merge.first = some 1 ∧ 0 ≤ seqDist (pkt 3 96).seq 1) ∧
    (RegsWf (streaming merge).regs ∧ aFind (streaming merge).cfgA.streams 2 = some streamSet ∧
       (srcOf (streaming merge) (2 + 4)).state ≠ SourceState.off ∧ pathOn streamSet false = true ∧ merge = (srcOf (streaming merge) (2 + 4)).merge ∧
       packetFits streamSet (pkt 4 96) = true ∧ (∃ e, (e ∈ if false = true then merge.seenA else merge.seenB) ∧ e.fst = (pkt 4 96).seq)) ∧
    (RegsWf (streaming merge).regs ∧ aFind (streaming merge).cfgA.streams 2 = some streamSet ∧
       (srcOf (streaming merge) (2 + 4)).state ≠ SourceState.off ∧ pathOn streamSet true = true ∧ merge = (srcOf (streaming merge) (2 + 4)).merge ∧
       packetFits streamSet (pkt 2 96) = true ∧ (∃ e, (e ∈ if true = true then merge.seenA else merge.seenB) ∧ e.fst = (pkt 2 96).seq)) ∧
    (RegsWf (streaming merge).regs ∧ aFind (streaming merge).cfgA.streams 2 = some streamSet ∧ merge = (srcOf (streaming merge) (2 + 4)).merge ∧
       List.find? (fun x ↦ x.fst == 2) (if true = true then merge.seenA else merge.seenB) = some (2, 999999500000) ∧
       (advance 0 (streaming merge)).time.now < (2, 999999500000).snd + streamSet.skewMax * 1000) ∧
    (RegsWf (streaming mergeOld).regs ∧ aFind (streaming mergeOld).cfgA.streams 2 = some streamSet ∧
       mergeOld = (srcOf (streaming mergeOld) (2 + 4)).merge ∧
       List.find? (fun x ↦ x.fst == 2) (if true = true then mergeOld.seenA else mergeOld.seenB) = some (2, 999998500000) ∧
       (2, 999998500000).snd + streamSet.skewMax * 1000 ≤ (advance 0 (streaming mergeOld)).time.now) ∧
    (RegsWf (streaming merge).regs ∧ aFind (streaming merge).cfgA.streams 2 = some streamSet ∧ merge = (srcOf (streaming merge) (2 + 4)).merge ∧
       frameMark merge = some (4, 999999600000) ∧ ((advance 0 (streaming merge)).time.now < 999999600000 + streamSet.skewMax * 1000 ∨
       streamWhole merge = true)) ∧
    (RegsWf (streaming mergeWhole).regs ∧ aFind (streaming mergeWhole).cfgA.streams 2 = some streamSet ∧
       mergeWhole = (srcOf (streaming mergeWhole) (2 + 4)).merge ∧ frameMark mergeWhole = some (4, 999998600000) ∧
       ((advance 0 (streaming mergeWhole)).time.now < 999998600000 + streamSet.skewMax * 1000 ∨ streamWhole mergeWhole = true)) ∧
    (RegsWf (streaming mergeOld).regs ∧ aFind (streaming mergeOld).cfgA.streams 2 = some streamSet ∧
       mergeOld = (srcOf (streaming mergeOld) (2 + 4)).merge ∧ frameMark mergeOld = some (4, 999998600000) ∧
       999998600000 + streamSet.skewMax * 1000 ≤ (advance 0 (streaming mergeOld)).time.now ∧ streamWhole mergeOld = false) := by
  simp only [advance_zero, advance_call, ready_iff, RegsWf, CellsWf]
  refine ⟨?_, ?_, ?_, ?_, ?_, ?_, ?_, ?_, ?_, ?_⟩ <;> decide +kernel

theorem witness_InputReceivers_2 :
    RegsWf showing.regs ∧ Ready 1041 call showing ∧ 15 ≤ 15 ∧ showing.time.running = true := by
  simp only [advance_zero, advance_call, ready_iff, RegsWf, CellsWf]
  decide +kernel

theorem witness_SourceStates_1 :
    (RegsWf (sdi .running).regs ∧ isGenerator 1 = false ∧ (sdi .running).time.running = true ∧ (srcOf (sdi .running) 1).state = SourceState.running ∧
       (isStream 1 = true → (streamReady (srcOf (sdi .running) 1).merge).isSome = true) ∧ frameIn.whole = true ∧ frameIn.width = rasterW (sdi .running) 1 ∧
       frameIn.height = rasterH (sdi .running) 1 ∧ (isStream 1 = false → frameIn.supported = true ∧ sdiFormatOk frameIn = true) ∧
       ((srcOf (sdi .running) 1).crcBad = false ∨ bitOf (regF (sdi .running) (R.VIN_Sn_CFG 1)) 30 = false)) ∧
    (RegsWf (sdi .running).regs ∧ isGenerator 1 = false ∧ (sdi .running).time.running = true ∧ (srcOf (sdi .running) 1).state = SourceState.running ∧
       (isStream 1 = true → (streamReady (srcOf (sdi .running) 1).merge).isSome = true) ∧ ({ frameIn with whole := false } : FrameIn).whole = false) ∧
    (RegsWf (sdi .running).regs ∧ isGenerator 1 = false ∧ (sdi .running).time.running = true ∧ (srcOf (sdi .running) 1).state = SourceState.running ∧
       (isStream 1 = true → (streamReady (srcOf (sdi .running) 1).merge).isSome = true) ∧ ({ frameIn with width := 1280 } : FrameIn).whole = true ∧
       ({ frameIn with width := 1280 } : FrameIn).width ≠ rasterW (sdi .running) 1) ∧
    (RegsWf (streaming mergeWhole).regs ∧ isGenerator 6 = false ∧ (streaming mergeWhole).time.running = true ∧
       (srcOf (streaming mergeWhole) 6).state = SourceState.running ∧ (isStream 6 = true →
       (streamReady (srcOf (streaming mergeWhole) 6).merge).isSome = true) ∧ ({ frameIn with whole := false } : FrameIn).whole = false) ∧
    (RegsWf generating.regs ∧ generating.time.running = true ∧ aFind generating.cfgA.generators 3 = some genSet ∧
       (srcOf generating (3 + 20)).state ≠ SourceState.off ∧
       (srcOf generating (3 + 20)).lastC ≠ some (frameAt generating (generating.time.fcount + 1) - 500000)) ∧
    (RegsWf (sdi .searching).regs ∧ ((srcOf (sdi .searching) 1).state = SourceState.searching ∨
       (srcOf (sdi .searching) 1).state = SourceState.running ∨ (srcOf (sdi .searching) 1).state = SourceState.format)) ∧
    (RegsWf (sdi .running).regs ∧ ((srcOf (sdi .running) 1).state = SourceState.searching ∨ (srcOf (sdi .running) 1).state = SourceState.running ∨
       (srcOf (sdi .running) 1).state = SourceState.format)) ∧
    (RegsWf (sdi .format).regs ∧ ((srcOf (sdi .format) 1).state = SourceState.searching ∨ (srcOf (sdi .format) 1).state = SourceState.running ∨
       (srcOf (sdi .format) 1).state = SourceState.format)) ∧
    (RegsWf (sdiStill .running).regs ∧ ((srcOf (sdiStill .running) 1).state = SourceState.searching ∨
       (srcOf (sdiStill .running) 1).state = SourceState.running ∨ (srcOf (sdiStill .running) 1).state = SourceState.format) ∧
       lossDue (advance 0 (sdiStill .running)) 1 = true) ∧
    (RegsWf (sdi .searching).regs ∧ ((srcOf (sdi .searching) 1).state = SourceState.searching ∨
       (srcOf (sdi .searching) 1).state = SourceState.running ∨ (srcOf (sdi .searching) 1).state = SourceState.format) ∧
       lossDue (advance 0 (sdi .searching)) 1 = false) := by
  simp only [advance_zero, advance_call, ready_iff, RegsWf, CellsWf]
  refine ⟨?_, ?_, ?_, ?_, ?_, ?_, ?_, ?_, ?_, ?_⟩ <;> decide +kernel

theorem witness_SourceStates_2 :
    (RegsWf (streaming merge).regs ∧ ((srcOf (streaming merge) 6).state = SourceState.searching ∨
       (srcOf (streaming merge) 6).state = SourceState.running ∨ (srcOf (streaming merge) 6).state = SourceState.format) ∧
       lossDue (advance 0 (streaming merge)) 6 = false) ∧
    (RegsWf (sdi .lost).regs ∧ (srcOf (sdi .lost) 1).state = SourceState.lost) ∧
    (RegsWf (sdi .running).regs ∧ (srcOf (sdi .running) 1).state ≠ SourceState.lost) := by
  simp only [advance_zero, advance_call, ready_iff, RegsWf, CellsWf]
  refine ⟨?_, ?_, ?_⟩ <;> decide +kernel

theorem witness_CanvasAndRaster_1 :
    (RegsWf (composing 4).regs ∧ newestCanvas (composing 4) = some (3, canvas) ∧ (composing 4).cmp.complete = false ∧ (composing 4).cmp.lines ≤ 4 ∧
       (composing 4).protect.badTiles = [] ∧ 4 + 1 < canvas.height) ∧
    (RegsWf tileLines.regs ∧ newestCanvas tileLines = some (3, canvas) ∧ tileLines.cmp.complete = false ∧ tileLines.cmp.lines ≤ 4 ∧
       tileLines.protect.badTiles = [] ∧ 4 + 1 < canvas.height ∧ tileLines.map.frame = some (mapFrame claimed) ∧
       (mapEngine tileLines 2).held = some (⟨0, 999999000000, 0, true, false⟩ : HeldTile)) ∧
    (RegsWf (composing 4).regs ∧ newestCanvas (composing 4) = some (3, canvas) ∧ (composing 4).cmp.complete = false ∧ (composing 4).cmp.lines ≤ 31 ∧
       (composing 4).protect.badTiles = [] ∧ canvas.height ≤ 31 + 1 ∧ (composing 4).cmp.lines < canvas.height ∧ (composing 4).cmp.late = none) ∧
    (RegsWf composingRefused.regs ∧ newestCanvas composingRefused = some (3, canvas) ∧ composingRefused.cmp.complete = false ∧
       composingRefused.cmp.lines ≤ 9 ∧ composingRefused.protect.badTiles = [] ∧ 9 + 1 < canvas.height) ∧
    (RegsWf rasterTwoFrames.regs ∧ rasterTwoFrames.ras.frames = [(monFrame 3 10 [2, 3]), (monFrame 2 9 [])] ∧
       (monFrame 3 10 [2, 3]).k ≠ (monFrame 2 9 []).k ∧ (monFrame 3 10 [2, 3]).refused ≠ []) ∧
    (RegsWf rasterOneFrame.regs ∧ (∀ (f : MonFrame), f ∈ rasterOneFrame.ras.frames → f.refused = [])) ∧
    (RegsWf blanking.regs ∧ blanking.ras.running = true ∧ monFormat (rasFormat blanking) = some hdFormat ∧
       activeNow (advance 0 blanking) hdFormat = none ∧ 10000 ≤ blankAhead (advance 0 blanking) hdFormat 2048) ∧
    (RegsWf showing.regs ∧ showing.ras.running = false) ∧
    (RegsWf (rasterDue id).regs ∧ rasStartDue (rasterDue id) = true ∧ (rasterDue id).ras.transition = none ∧ (rasterDue id).ras.armed = none ∧
       rasOn (rasterDue id) = true ∧ rasDrift (rasterDue id) = 0 ∧ (rasterDue id).ras.slewNext = 0 ∧ 2 ≤ lineStart (rasterDue id) 1 ∧ rasSource (rasterDue id) = 1 ∧
       (rasterDue id).ras.fresh = false) ∧
    (RegsWf rasterFresh.regs ∧ rasStartDue rasterFresh = true ∧ rasterFresh.ras.transition = none ∧ rasterFresh.ras.armed = none ∧
       rasOn rasterFresh = true ∧ rasDrift rasterFresh = 0 ∧ rasterFresh.ras.slewNext = 0 ∧ 2 ≤ lineStart rasterFresh 1 ∧ rasSource rasterFresh = 1 ∧ rasterFresh.ras.fresh = true) ∧
    (RegsWf rasterOff.regs ∧ rasStartDue rasterOff = true ∧ rasterOff.ras.transition = none ∧ rasterOff.ras.armed = none ∧ rasOn rasterOff = true ∧
       0 < lineStart rasterOff 1 ∧ ↑(lineStart rasterOff 1) ≤ rasDrift rasterOff ∧ rasSource rasterOff = 1) := by
  simp only [advance_zero, advance_call, ready_iff, RegsWf, CellsWf]
  refine ⟨?_, ?_, ?_, ?_, ?_, ?_, ?_, ?_, ?_, ?_, ?_⟩ <;> decide +kernel

theorem witness_CanvasAndRaster_2 :
    (RegsWf (raster id).regs ∧ rasStartDue (raster id) = false) ∧
    (RegsWf matching.regs ∧ rasLineAt matching 7 = some ((rasLineAt matching 7).getD 0) ∧ matching.time.running = true ∧ matching.ras.fresh = false ∧
       ((rasLineAt matching 7).getD 0) < matching.ras.next ∧ bitOf (reg matching R.RAS_LMATCH) 31 = true ∧ bits (reg matching R.RAS_LMATCH) 11 0 = 7) ∧
    (RegsWf (raster id).regs ∧ rasLineAt (raster id) 0 = some ((rasLineAt (raster id) 0).getD 0) ∧ (raster id).time.running = true ∧
       (raster id).ras.fresh = false ∧ ((rasLineAt (raster id) 0).getD 0) < (raster id).ras.next ∧ (bitOf (reg (raster id) R.RAS_LMATCH) 31 = false ∨
       bits (reg (raster id) R.RAS_LMATCH) 11 0 ≠ 0)) ∧
    (RegsWf showing.regs ∧ rasLineAt showing 3 = none) ∧
    (RegsWf rasterLastLine.regs ∧ monFormat (rasFormat rasterLastLine) = some hdFormat ∧ rasterLastLine.ras.running = true ∧
       rasterLastLine.ras.done = false ∧ rasterLastLine.ras.line = some (hdFormat.height - 1)) ∧
    (RegsWf rasterScan.regs ∧ rasterScan.ras.running = true ∧ rasterScan.ras.transition = none ∧ rasterScan.ras.scan ≠ none ∧
       rasterScan.ras.underLast ≠ some 8 ∧ rasterScan.ras.underAt = none) ∧
    (RegsWf rasterScanTold.regs ∧ rasterScanTold.ras.running = true ∧ rasterScanTold.ras.transition = none ∧ rasterScanTold.ras.scan ≠ none ∧
       rasterScanTold.ras.underLast ≠ some 8) := by
  simp only [advance_zero, advance_call, ready_iff, RegsWf, CellsWf]
  refine ⟨?_, ?_, ?_, ?_, ?_, ?_, ?_⟩ <;> decide +kernel

theorem witness_StatusCommands_1 :
    (showing = advance call.t showing ∧ Ready 1027 call showing ∧ 27 ≤ 27) ∧
    (showing = advance call.t showing ∧ Ready 1027 call showing ∧ 27 < 28) ∧
    (showing = advance call.t showing ∧ Ready 1073 call showing ∧ 1 ≤ 2 ∧ 2 ≤ 1024 ∧ 0 + 2 ≤ 131072) ∧
    (showing = advance call.t showing ∧ Ready 1073 call showing ∧ (0 < 1 ∨ 1024 < 0 ∨ 131072 < 0 + 0)) ∧
    (showing = advance call.t showing ∧ Ready 1075 call showing ∧ 255 ≤ 255) ∧
    (showing = advance call.t showing ∧ Ready 1075 call showing ∧ 255 < 256) ∧
    (showing = advance call.t showing ∧ Ready 1107 call showing ∧ 1 ≤ 2 ∧ 2 ≤ 2048 ∧ 0 + 2 ≤ 33554432) ∧
    (showing = advance call.t showing ∧ Ready 1107 call showing ∧ (0 < 1 ∨ 2048 < 0 ∨ 33554432 < 0 + 0)) ∧
    (showing = advance call.t showing ∧ Ready 1124 call showing ∧ 31 ≤ 31) ∧
    (showing = advance call.t showing ∧ Ready 1124 call showing ∧ 31 < 32) := by
  simp only [advance_zero, advance_call, ready_iff, RegsWf, CellsWf]
  refine ⟨?_, ?_, ?_, ?_, ?_, ?_, ?_, ?_, ?_, ?_⟩ <;> decide +kernel

theorem witness_StatusCommands_2 :
    (showing = advance call.t showing ∧ Ready 1130 call showing ∧ 1 ≤ 256 ∧ 256 ≤ 256 ∧ 0 < 16384) ∧
    (showing = advance call.t showing ∧ Ready 1130 call showing ∧ (257 < 1 ∨ 256 < 257 ∨ 16384 ≤ 0)) ∧
    (showing = advance call.t showing ∧ Ready 1044 call showing) ∧
    (showing = advance call.t showing ∧ Ready 1057 call showing) ∧
    (showing = advance call.t showing ∧ Ready 1078 call showing) ∧
    (showing = advance call.t showing ∧ Ready 1091 call showing) ∧
    (showing = advance call.t showing ∧ Ready 1109 call showing) ∧
    (showing = advance call.t showing ∧ Ready 1140 call showing ∧ 10 ≤ 10) ∧
    (showing = advance call.t showing ∧ Ready 1140 call showing ∧ 10 < 11) ∧
    (showing = advance call.t showing ∧ Ready 1141 call showing ∧ 10 ≤ 10) := by
  simp only [advance_zero, advance_call, ready_iff, RegsWf, CellsWf]
  refine ⟨?_, ?_, ?_, ?_, ?_, ?_, ?_, ?_, ?_, ?_⟩ <;> decide +kernel

theorem witness_StatusCommands_3 :
    (showing = advance call.t showing ∧ Ready 1141 call showing ∧ 10 < 11) ∧
    (showing = advance call.t showing ∧ Ready 1170 call showing ∧ 1 ≤ 1) ∧
    (showing = advance call.t showing ∧ Ready 1170 call showing ∧ 1 < 2) ∧
    (showing = advance call.t showing ∧ Ready 1171 call showing ∧ 1 ≤ 256 ∧ 256 ≤ 256) ∧
    (showing = advance call.t showing ∧ Ready 1171 call showing ∧ (0 < 1 ∨ 256 < 0)) ∧
    (showing = advance call.t showing ∧ Ready 1315 call showing ∧ 0 < calCount showing.part 0) ∧
    (showing = advance call.t showing ∧ Ready 1315 call showing ∧ calCount showing.part 0 ≤ 1) ∧
    (showing = advance call.t showing ∧ Ready 1557 call showing ∧ 1 ≤ 1) ∧
    (showing = advance call.t showing ∧ Ready 1557 call showing ∧ 1 < 2) ∧
    (showing = advance call.t showing ∧ Ready 1665 call showing ∧ 1 ≤ 128 ∧ 128 ≤ 128) := by
  simp only [advance_zero, advance_call, ready_iff, RegsWf, CellsWf]
  refine ⟨?_, ?_, ?_, ?_, ?_, ?_, ?_, ?_, ?_, ?_⟩ <;> decide +kernel

theorem witness_StatusCommands_4 :
    (showing = advance call.t showing ∧ Ready 1665 call showing ∧ (129 < 1 ∨ 128 < 129)) ∧
    (showing = advance call.t showing ∧ Ready 1186 call showing) ∧
    (showing = advance call.t showing ∧ Ready 1 call showing) ∧
    (showing = advance call.t showing ∧ Ready 1286 call showing) ∧
    (showing = advance call.t showing ∧ Ready 1287 call showing) ∧
    (showing = advance call.t showing ∧ Ready 1314 call showing) ∧
    (showing = advance call.t showing ∧ Ready 1536 call showing) ∧
    (showing = advance call.t showing ∧ Ready 1664 call showing) ∧
    (showing = advance call.t showing ∧ Ready 2 call showing) := by
  simp only [advance_zero, advance_call, ready_iff, RegsWf, CellsWf]
  refine ⟨?_, ?_, ?_, ?_, ?_, ?_, ?_, ?_, ?_⟩ <;> decide +kernel

theorem witness_MapperFrame :
    (RegsWf (mapping id).regs ∧ (mapping id).map.frame = some (mapFrame id) ∧ (mapFrame id).open_ = true ∧
       (advance 0 (mapping id)).time.st64 < (mapFrame id).deadline ∧ (mapFrame id).tiles[(mapFrame id).claims]? = some tile0 ∧
       aFind (mapFrame id).ended (mapFrame id).claims = none ∧ (mapEngine (mapping id) 2).role = Role.active ∧
       (mapEngine (mapping id) 2).held = none ∧ (mapEngine (mapping id) 2).fromK ≤ (mapFrame id).k ∧ engineOn (mapping id) 2 = true ∧
       (tilePrograms (mapFrame id).cfg tile0).any (programOff (mapping id)) = false) ∧
    (RegsWf (mapping (fun f => { f with open_ := false })).regs ∧ (mapping (fun f => { f with open_ := false })).map.frame = some closedFrame ∧
       (closedFrame.open_ = false ∨ closedFrame.deadline ≤ (advance 0 (mapping (fun f => { f with open_ := false }))).time.st64 ∨
       (mapEngine (mapping (fun f => { f with open_ := false })) 2).role ≠ Role.active ∨
       (mapEngine (mapping (fun f => { f with open_ := false })) 2).held.isSome = true ∨
       (mapEngine (mapping (fun f => { f with open_ := false })) 2).fromK > closedFrame.k ∨
       engineOn (mapping (fun f => { f with open_ := false })) 2 = false)) ∧
    (RegsWf tileWaiting.regs ∧ tileWaiting.map.frame = some (mapFrame claimed) ∧
       (mapEngine tileWaiting 2).held = some (⟨0, 999999000000, 0, true, false⟩ : HeldTile) ∧ (mapFrame claimed).open_ = true ∧
       (⟨0, 999999000000, 0, true, false⟩ : HeldTile).sampling = false ∧
       (mapFrame claimed).tiles[(⟨0, 999999000000, 0, true, false⟩ : HeldTile).tile]? = some tile0 ∧
       linesReady tileWaiting (mapFrame claimed) tile0 = true) ∧
    (RegsWf tileFree.regs ∧ tileFree.map.frame = some (mapFrame claimed) ∧
       (mapEngine tileFree 2).held = some (⟨0, 999999000000, 0, false, false⟩ : HeldTile) ∧ (mapFrame claimed).open_ = true ∧
       (⟨0, 999999000000, 0, false, false⟩ : HeldTile).sampling = false ∧
       (mapFrame claimed).tiles[(⟨0, 999999000000, 0, false, false⟩ : HeldTile).tile]? = some tile0 ∧
       linesReady tileFree (mapFrame claimed) tile0 = true) ∧
    (RegsWf tileLines.regs ∧ tileLines.map.frame = some (mapFrame claimed) ∧
       (mapEngine tileLines 2).held = some (⟨0, 999999000000, 0, true, false⟩ : HeldTile) ∧ (mapFrame claimed).open_ = true ∧
       (⟨0, 999999000000, 0, true, false⟩ : HeldTile).sampling = false ∧
       (mapFrame claimed).tiles[(⟨0, 999999000000, 0, true, false⟩ : HeldTile).tile]? = some tile0 ∧
       linesReady tileLines (mapFrame claimed) tile0 = false) ∧
    (RegsWf tileFree.regs ∧ tileFree.map.frame = some (mapFrame claimed) ∧
       (mapEngine tileFree 2).held = some (⟨0, 999999000000, 0, false, false⟩ : HeldTile) ∧
       ((⟨0, 999999000000, 0, false, false⟩ : HeldTile).sampling = false ∨ (mapFrame claimed).deadline < (advance 0 tileFree).time.st64)) ∧
    (RegsWf tileTooLate.regs ∧ tileTooLate.map.frame = some (mapFrame lateFrame) ∧ (mapFrame lateFrame).open_ = true ∧
       (mapFrame lateFrame).deadline ≤ (advance 0 tileTooLate).time.st64) ∧
    (RegsWf (mapping id).regs ∧ (mapping id).map.frame = some (mapFrame id) ∧ ((mapFrame id).open_ = false ∨
       (advance 0 (mapping id)).time.st64 < (mapFrame id).deadline)) := by
  simp only [advance_zero, advance_call, ready_iff, RegsWf, CellsWf]
  refine ⟨?_, ?_, ?_, ?_, ?_, ?_, ?_, ?_⟩ <;> decide +kernel

theorem witness_MapperFrame_opaque :
    RegsWf tileReady.regs ∧ tileReady.map.frame = some (mapFrame claimed) ∧
      (mapEngine tileReady 2).held = some (⟨0, 999999000000, 0, false, true⟩ : HeldTile) ∧ (mapFrame claimed).open_ = true ∧
      (⟨0, 999999000000, 0, false, true⟩ : HeldTile).sampling = true ∧ (advance 0 tileReady).time.st64 ≤ (mapFrame claimed).deadline ∧
      (mapFrame claimed).tiles[(⟨0, 999999000000, 0, false, true⟩ : HeldTile).tile]? = some tile0 ∧
      tileOutput = tileOut (advance 0 tileReady) (mapFrame claimed) tile0 := by
  simp only [advance_zero, advance_call, ready_iff, RegsWf, CellsWf]
  and_intros <;> first | decide +kernel | rfl

theorem witness_MapperRolesAndValues_1 :
    (RegsWf tileWaiting.regs ∧ (mapEngine tileWaiting 2).held = some (⟨0, 999999000000, 0, true, false⟩ : HeldTile) ∧ (mapEngine tileWaiting 2).role = Role.active ∧ (⟨0, 999999000000, 0, true, false⟩ : HeldTile).waiting = true) ∧
    (RegsWf tileOld.regs ∧ (mapEngine tileOld 2).held = some (⟨0, 999000000000, 0, false, true⟩ : HeldTile) ∧ (mapEngine tileOld 2).role = Role.active ∧
       (⟨0, 999000000000, 0, false, true⟩ : HeldTile).waiting = false ∧
       (⟨0, 999000000000, 0, false, true⟩ : HeldTile).claimedAt + (⟨0, 999000000000, 0, false, true⟩ : HeldTile).waited + regN tileOld (R.MAP_TIMEOUT 0)
         ≤ (advance 0 tileOld).time.now) ∧
    (RegsWf tileNew.regs ∧ (mapEngine tileNew 2).held = some (⟨0, 999999999000, 0, false, true⟩ : HeldTile) ∧ (mapEngine tileNew 2).role = Role.active ∧
       (⟨0, 999999999000, 0, false, true⟩ : HeldTile).waiting = false ∧
       (advance 0 tileNew).time.now < (⟨0, 999999999000, 0, false, true⟩ : HeldTile).claimedAt + (⟨0, 999999999000, 0, false, true⟩ : HeldTile).waited + regN tileNew (R.MAP_TIMEOUT 0)) ∧
    (RegsWf (mapping id).regs ∧ (mapEngine (mapping id) 2).held = none) ∧
    (RegsWf tileOld.regs ∧ 1 ≠ 5 ∧ (mapEngine tileOld 2).role ≠ Role.off ∧ (mapEngine tileOld 2).role ≠ Role.failed) ∧
    (RegsWf showing.regs ∧ 1 ≠ 5 ∧ ((mapEngine showing 2).role = Role.off ∨ (mapEngine showing 2).role = Role.failed)) ∧
    (RegsWf testingEngine.regs ∧ (mapEngine testingEngine 2).role = Role.testing ∧ (mapEngine testingEngine 2).testLeft = 0) ∧
    (RegsWf showing.regs ∧ ((mapEngine showing 2).role ≠ Role.testing ∨ (mapEngine showing 2).testLeft ≠ 0)) ∧
    ((live .show) = advance call.t (live .show) ∧ Ready 1088 call (live .show) ∧ kernelHeaderOk kernelImage = true ∧ kernelCheckOk kernelImage = true ∧
       aFind (live .show).map.kernels (kernelKey kernelImage) = none ∧
       (List.map (fun k ↦ k.snd.image.codeBytes) (live .show).map.kernels).sum + kernelImage.codeBytes ≤ 65536 ∧
       (List.map (fun k ↦ k.snd.image.dataBytes) (live .show).map.kernels).sum + kernelImage.dataBytes ≤ 32768 ∧
       codeSigned (live .show) kernelImage.trailer = true) ∧
    ((live .show) = advance call.t (live .show) ∧ Ready 1088 call (live .show) ∧
       (kernelHeaderOk ({ kernelImage with code := 127 } : KernelLoad) = false ∨ kernelCheckOk ({ kernelImage with code := 127 } : KernelLoad) = false ∨
       (aFind (live .show).map.kernels (kernelKey ({ kernelImage with code := 127 } : KernelLoad))).isSome = true)) ∧
    (kernelHeld = advance call.t kernelHeld ∧ Ready 1088 call kernelHeld ∧ (kernelHeaderOk kernelImage = false ∨ kernelCheckOk kernelImage = false ∨
       (aFind kernelHeld.map.kernels (kernelKey kernelImage)).isSome = true)) := by
  simp only [advance_zero, advance_call, ready_iff, RegsWf, CellsWf]
  refine ⟨?_, ?_, ?_, ?_, ?_, ?_, ?_, ?_, ?_, ?_, ?_⟩ <;> decide +kernel

theorem witness_MapperRolesAndValues_2 :
    ((live .show) = advance call.t (live .show) ∧ Ready 1089 call (live .show) ∧ 1 ≤ 1 ∧ 128 ≤ 255 ∧ 255 ≤ 255 ∧ 511 = 256 * 1 + 255 ∧
       aFind (live .show).map.kernels 511 = none) ∧
    (kernelHeld = advance call.t kernelHeld ∧ Ready 1089 call kernelHeld ∧ 0 ≤ 1 ∧ 128 ≤ 200 ∧ 200 ≤ 255 ∧ 200 = 256 * 0 + 200 ∧
       (aFind kernelHeld.map.kernels 200).isSome = true ∧ codeUsed kernelHeld.cfgB 200 = false ∧ codeUsed kernelHeld.record 200 = false ∧
       (∀ (g : Stage), g ∈ kernelHeld.teller.stages → g.msgs.any (msgNames 200) = false)) ∧
    (kernelUsed = advance call.t kernelUsed ∧ Ready 1089 call kernelUsed ∧ 1 ≤ 1 ∧ 128 ≤ 200 ∧ 200 ≤ 255 ∧ 456 = 256 * 1 + 200 ∧
       (aFind kernelUsed.map.kernels 456).isSome = true ∧ (codeUsed kernelUsed.cfgB 456 = true ∨ codeUsed kernelUsed.record 456 = true)) ∧
    ((failedEngine 3) = advance call.t (failedEngine 3) ∧ Ready 1092 call (failedEngine 3) ∧ 3 ≤ 15 ∧
       (mapEngine (failedEngine 3) 3).role = Role.failed ∧ domainUp (failedEngine 3) (engineDomain 3) = true) ∧
    (showing = advance call.t showing ∧ Ready 1092 call showing ∧ 3 ≤ 15 ∧ (mapEngine showing 3).role ≠ Role.failed ∧ domainUp showing (engineDomain 3) = true) ∧
    (domainOffEngine = advance call.t domainOffEngine ∧ Ready 1092 call domainOffEngine ∧ 11 ≤ 15 ∧ domainUp domainOffEngine (engineDomain 11) = false) ∧
    (activeEngine = advance call.t activeEngine ∧ Ready 1092 call activeEngine ∧ 3 ≤ 15 ∧ (mapEngine activeEngine 3).role ≠ Role.off ∧
       (mapEngine activeEngine 3).role ≠ Role.failed) ∧
    (showing = advance call.t showing ∧ Ready 1092 call showing ∧ 15 ≤ 15) ∧
    (showing = advance call.t showing ∧ Ready 1092 call showing ∧ showing.map.released = false ∧
       mapFits (mapClocks showing.map showing.cfgB []) 7 (mapLimit showing showing.cfgB) = true) ∧
    (showing = advance call.t showing ∧ Ready 1092 call showing) ∧
    (RegsWf (reported 990000000000).regs ∧ aFind (reported 990000000000).pho.reports 1029 = some (990000000000, 400) ∧
       990000000000 + tstaleNs (reported 990000000000) < (advance 0 (reported 990000000000)).time.now ∧ ¬1029 ∈ (reported 990000000000).pho.stale) := by
  simp only [advance_zero, advance_call, ready_iff, RegsWf, CellsWf]
  refine ⟨?_, ?_, ?_, ?_, ?_, ?_, ?_, ?_, ?_, ?_, ?_⟩ <;> decide +kernel

theorem witness_MapperRolesAndValues_3 :
    (RegsWf (reported 999999990000).regs ∧ aFind (reported 999999990000).pho.reports 1029 = some (999999990000, 400) ∧
       ((advance 0 (reported 999999990000)).time.now ≤ 999999990000 + tstaleNs (reported 999999990000) ∨ 1029 ∈ (reported 999999990000).pho.stale)) ∧
    (RegsWf showing.regs ∧ aFind showing.pho.reports 7 = none) ∧
    (RegsWf recordDue.regs ∧ recordDue.time.running = true ∧ recordDue.map.frame = none ∧ recordDue.teller.accepted = [recordCommit] ∧
       recordCommit.tag ≤ recordDue.time.fcount ∧ recordDue.pho.writtenTag ≠ some recordCommit.tag ∧
       recordsChanged recordDue.cfgB.records recordCommit.cfg.records = [(77, record)]) ∧
    (RegsWf standby.regs ∧ standby.time.running = false) ∧
    (RegsWf recordLater.regs ∧ ∀ (a : Accepted), a ∈ recordLater.teller.accepted → recordLater.time.fcount < a.tag) ∧
    (RegsWf recordWritten.regs ∧ ∃ a, a ∈ recordWritten.teller.accepted ∧ recordWritten.pho.writtenTag = some a.tag) ∧
    (showing = advance call.t showing ∧ Ready 1108 call showing ∧ 2147483748 = BitVec.ofNat 32 (bNat true * 2147483648 + unsignedOf 16 100) ∧
       255 ≤ 255) ∧
    (showing = advance call.t showing ∧ Ready 1108 call showing ∧ 2147483748 = BitVec.ofNat 32 (bNat true * 2147483648 + unsignedOf 16 100) ∧
       255 < 256) ∧
    (showing = advance call.t showing ∧ Ready 1077 call showing ∧ 1 ≤ (⟨65534, 2, false, [5, 65536]⟩ : AttrValueSet).count ∧
       (⟨65534, 2, false, [5, 65536]⟩ : AttrValueSet).count ≤ 4096 ∧
       (⟨65534, 2, false, [5, 65536]⟩ : AttrValueSet).first + (⟨65534, 2, false, [5, 65536]⟩ : AttrValueSet).count ≤ 65536) ∧
    (showing = advance call.t showing ∧ Ready 1077 call showing ∧ ((⟨65534, 3, false, [5, 6, 7]⟩ : AttrValueSet).count < 1 ∨
       4096 < (⟨65534, 3, false, [5, 6, 7]⟩ : AttrValueSet).count ∨
       65536 < (⟨65534, 3, false, [5, 6, 7]⟩ : AttrValueSet).first + (⟨65534, 3, false, [5, 6, 7]⟩ : AttrValueSet).count)) := by
  simp only [advance_zero, advance_call, ready_iff, RegsWf, CellsWf]
  refine ⟨?_, ?_, ?_, ?_, ?_, ?_, ?_, ?_, ?_, ?_⟩ <;> decide +kernel

theorem witness_MapperRolesAndValues_4 :
    (RegsWf activeEngine.regs ∧ ∃ d : Fin 16, engineDomain d = engineDomain (3 : Fin 16) ∧ (mapEngine activeEngine d).role ≠ Role.off) ∧
    (RegsWf showing.regs ∧ ∃ d : Fin 16, engineDomain d ≠ engineDomain (3 : Fin 16)) ∧
    (RegsWf sparePreferred.regs ∧ (mapEngine sparePreferred 2).role = Role.testing ∧ (mapEngine sparePreferred 2).testLeft = 0 ∧ targetNow sparePreferred ≤ roleCount sparePreferred .active ∧ inRole sparePreferred .spare = [] ∧ spareAt 2 sparePreferred ≠ 2) := by
  simp only [advance_zero, advance_call, ready_iff, RegsWf, CellsWf]
  refine ⟨?_, ?_, ?_⟩ <;> decide +kernel


theorem witness_LaneEvents_1 :
    (RegsWf (upLane (fun x => { x with jobs := [job] })).regs ∧
       (upLane (fun x => { x with jobs := [job] })) = advance 0 (upLane (fun x => { x with jobs := [job] })) ∧
       (laneOf (upLane (fun x => { x with jobs := [job] })) 3).jobs = [job] ∧ job.frames = [(0, 48)] ∧
       jobOpen (upLane (fun x => { x with jobs := [job] })) job = true ∧
       frameBlocked (upLane (fun x => { x with jobs := [job] })) 3 job (0, 48) = false ∧
       (upLane (fun x => { x with jobs := [job] })).time.st64 + 48 * ↑(0, 48).snd + 112
         ≤ laneDeadline (upLane (fun x => { x with jobs := [job] })) 3 job.zone job.k ∧
       laneRuns? (laneOf (upLane (fun x => { x with jobs := [job] })) 3) = true ∧
       outputBad (upLane (fun x => { x with jobs := [job] })) 3 none [4, 5] = false) ∧
    (RegsWf lateLane.regs ∧ lateLane = advance 0 lateLane ∧ (laneOf lateLane 3).jobs = [lateJob] ∧ lateJob.frames = [(0, 48), (48, 48)] ∧
       jobOpen lateLane lateJob = true ∧ frameBlocked lateLane 3 lateJob (0, 48) = false ∧
       laneDeadline lateLane 3 lateJob.zone lateJob.k < lateLane.time.st64 + 48 * ↑(0, 48).snd + 112) ∧
    (RegsWf (upLane id).regs ∧ (upLane id) = advance 0 (upLane id) ∧ (laneOf (upLane id) 3).jobs = []) ∧
    (RegsWf trainingLane.regs ∧ trainingLane = advance 0 trainingLane ∧ (laneOf trainingLane 3).state = LaneState.training) ∧
    (RegsWf (upLane id).regs ∧ (upLane id) = advance 0 (upLane id) ∧ (laneOf (upLane id) 3).state ≠ LaneState.training) ∧
    (RegsWf (upLane (fun x => { x with enumAt := 0 })).regs ∧
       (upLane (fun x => { x with enumAt := 0 })) = advance 0 (upLane (fun x => { x with enumAt := 0 })) ∧
       laneRuns? (laneOf (upLane (fun x => { x with enumAt := 0 })) 3) = true ∧
       (laneOf (upLane (fun x => { x with enumAt := 0 })) 3).enumAt + 100000000 ≤ (upLane (fun x => { x with enumAt := 0 })).time.now) ∧
    (RegsWf (upLane id).regs ∧ (upLane id) = advance 0 (upLane id) ∧ (laneRuns? (laneOf (upLane id) 3) = false ∨
       (upLane id).time.now < (laneOf (upLane id) 3).enumAt + 100000000)) ∧
    (RegsWf (upLane id).regs ∧ (upLane id) = advance 0 (upLane id) ∧ ((laneOf (upLane id) 3).enumerating = false ∨ (⟨3, 7⟩ : EnumFrame).check ≠ (⟨3, 7⟩ : EnumFrame).next ^^^ 65535)) ∧
    (RegsWf enumLane.regs ∧ enumLane = advance 0 enumLane ∧ (laneOf enumLane 3).enumerating = true ∧ (⟨4, 4 ^^^ 0xFFFF⟩ : EnumFrame).check = (⟨4, 4 ^^^ 0xFFFF⟩ : EnumFrame).next ^^^ 65535 ∧
       (laneOf enumLane 3).enumLast ≠ some 4) ∧
    (RegsWf enumLane.regs ∧ enumLane = advance 0 enumLane ∧ (laneOf enumLane 3).enumerating = true ∧ (⟨3, 3 ^^^ 0xFFFF⟩ : EnumFrame).check = (⟨3, 3 ^^^ 0xFFFF⟩ : EnumFrame).next ^^^ 65535 ∧
       (laneOf enumLane 3).enumLast = some 3 ∧ (laneOf enumLane 3).state = LaneState.enumerating) := by
  simp only [advance_zero, advance_call, ready_iff, RegsWf, CellsWf]
  refine ⟨?_, ?_, ?_, ?_, ?_, ?_, ?_, ?_, ?_, ?_⟩ <;> decide +kernel

theorem witness_LaneEvents_2 :
    (RegsWf enumLaneFirst.regs ∧ enumLaneFirst = advance 0 enumLaneFirst ∧ (laneOf enumLaneFirst 3).enumerating = true ∧
       (⟨3, 3 ^^^ 0xFFFF⟩ : EnumFrame).check = (⟨3, 3 ^^^ 0xFFFF⟩ : EnumFrame).next ^^^ 65535 ∧ (laneOf enumLaneFirst 3).enumLast ≠ some 3) ∧
    (RegsWf rangingLane.regs ∧ rangingLane = advance 0 rangingLane ∧ (laneOf rangingLane 3).range = some (⟨true, [1, 2], [100], 0, [], false⟩ : RangeRun) ∧ (laneOf rangingLane 3).rangeOut = some rangeSent ∧ (⟨true, [1, 2], [100], 0, [], false⟩ : RangeRun).todo = [1, 2] ∧ rangeSent.chip = 1 ∧
       rangingReturn.errors = 0 ∧ rangingReturn.chip = 1 ∧ rangingReturn.rseq = rangeSent.rseq ∧ rangingReturn.crc = crc32c (rangeBytes 1 rangeSent.rseq) ∧ (⟨true, [1, 2], [100], 0, [], false⟩ : RangeRun).got.length < 15) ∧
    (RegsWf rangingLane.regs ∧ rangingLane = advance 0 rangingLane ∧ (laneOf rangingLane 3).range = some (⟨true, [1, 2], [100], 0, [], false⟩ : RangeRun) ∧ (laneOf rangingLane 3).rangeOut = some rangeSent ∧ (⟨true, [1, 2], [100], 0, [], false⟩ : RangeRun).todo = [1, 2] ∧ rangeSent.chip = 1 ∧
       rangingReturn.errors = 0 ∧ rangingReturn.chip = 1 ∧ rangingReturn.rseq = rangeSent.rseq ∧ rangingReturn.crc = crc32c (rangeBytes 1 rangeSent.rseq) ∧ (⟨true, [1, 2], [100], 0, [], false⟩ : RangeRun).got.length < 15 ∧ (laneOf rangingLane 3).outstanding = none ∧ (laneOf rangingLane 3).collectOut = none ∧ (laneOf rangingLane 3).enumerating = false ∧ pixelReady rangingLane 3 = false) ∧
    (RegsWf rangingLastSample.regs ∧ rangingLastSample = advance 0 rangingLastSample ∧ (laneOf rangingLastSample 3).range = some lastSampleRun ∧ (laneOf rangingLastSample 3).rangeOut = some rangeSent ∧ lastSampleRun.todo = [1, 2] ∧ rangeSent.chip = 1 ∧
       rangingReturn.errors = 0 ∧ rangingReturn.chip = 1 ∧ rangingReturn.rseq = rangeSent.rseq ∧ rangingReturn.crc = crc32c (rangeBytes 1 rangeSent.rseq) ∧ lastSampleRun.got.length = 15 ∧ 800 = (List.take 8 lastSampleRun.got).sum ∧
       800 = (List.drop 8 lastSampleRun.got).sum + 100 ∧ ((800 : Int) - 800).natAbs ≤ 800 ∧ lastSampleRun.whole = true) ∧
    (RegsWf rangingLastSample.regs ∧ rangingLastSample = advance 0 rangingLastSample ∧ (laneOf rangingLastSample 3).range = some lastSampleRun ∧ (laneOf rangingLastSample 3).rangeOut = some rangeSent ∧ lastSampleRun.todo = [1, 2] ∧ rangeSent.chip = 1 ∧
       rangingReturn.errors = 0 ∧ rangingReturn.chip = 1 ∧ rangingReturn.rseq = rangeSent.rseq ∧ rangingReturn.crc = crc32c (rangeBytes 1 rangeSent.rseq) ∧ lastSampleRun.got.length = 15 ∧ 800 = (List.take 8 lastSampleRun.got).sum ∧
       1700 = (List.drop 8 lastSampleRun.got).sum + 1000 ∧ 800 < ((800 : Int) - 1700).natAbs ∧ lastSampleRun.repeats < 3) ∧
    (RegsWf rangingLane.regs ∧ rangingLane = advance 0 rangingLane ∧ (laneOf rangingLane 3).range = some (⟨true, [1, 2], [100], 0, [], false⟩ : RangeRun) ∧ (laneOf rangingLane 3).rangeOut = some rangeSent ∧ (⟨true, [1, 2], [100], 0, [], false⟩ : RangeRun).todo = [1, 2] ∧ rangeSent.chip = 1 ∧
       (rangeOther.chip ≠ 1 ∨ rangeOther.rseq ≠ rangeSent.rseq) ∧ rangeOther.crc = crc32c (rangeBytes rangeOther.chip rangeOther.rseq)) ∧
    (RegsWf rangingLane.regs ∧ rangingLane = advance 0 rangingLane ∧ (laneOf rangingLane 3).range = some (⟨true, [1, 2], [100], 0, [], false⟩ : RangeRun) ∧ (laneOf rangingLane 3).rangeOut = some rangeSent ∧ (⟨true, [1, 2], [100], 0, [], false⟩ : RangeRun).todo = [1, 2] ∧ rangeSent.chip = 1 ∧ rangeBad.crc ≠ crc32c (rangeBytes rangeBad.chip rangeBad.rseq)) ∧
    (RegsWf (upLane id).regs ∧ (upLane id) = advance 0 (upLane id) ∧ (laneOf (upLane id) 3).rangeOut = none) := by
  simp only [advance_zero, advance_call, ready_iff, RegsWf, CellsWf]
  refine ⟨?_, ?_, ?_, ?_, ?_, ?_, ?_, ?_⟩ <;> decide +kernel


theorem witness_LaneEvents_3 :
    (RegsWf rangedLane.regs ∧ rangedLane = advance 0 rangedLane ∧ (laneOf rangedLane 3).range = some rangedRun ∧ rangedRun.whole = true ∧
       rangedRun.todo = [] ∧
       9000 = List.foldl (fun m e ↦ max m e.snd.fst) (dMaxBut (laneOf rangedLane 3) (List.map Prod.fst rangedRun.done)) rangedRun.done ∧
       rangeVerdict rangedLane.cfgB.laneGlobal.target 9000 = 0) ∧
    (RegsWf rangedFarLane.regs ∧ rangedFarLane = advance 0 rangedFarLane ∧ (laneOf rangedFarLane 3).range = some rangedFarRun ∧
       rangedFarRun.whole = true ∧ rangedFarRun.todo = [] ∧
       300000000 = List.foldl (fun m e ↦ max m e.snd.fst) (dMaxBut (laneOf rangedFarLane 3) (List.map Prod.fst rangedFarRun.done)) rangedFarRun.done ∧
       rangeVerdict rangedFarLane.cfgB.laneGlobal.target 300000000 ≠ 0 ∧ (laneOf rangedFarLane 3).state = LaneState.ranging ∧
       (laneOf rangedFarLane 3).ranged = false) ∧
    (RegsWf (upLane id).regs ∧ (upLane id) = advance 0 (upLane id) ∧ (laneOf (upLane id) 3).range = none) ∧
    (RegsWf (upLane id).regs ∧ (upLane id) = advance 0 (upLane id) ∧ laneRuns? (laneOf (upLane id) 3) = true) ∧
    (RegsWf showing.regs ∧ showing = advance 0 showing ∧ laneRuns? (laneOf showing 3) = false) ∧
    (RegsWf blockedLane.regs ∧ blockedLane = advance 0 blockedLane ∧ (laneOf blockedLane 3).jobs = [job] ∧ (0, 48) ∈ job.frames ∧ frameFits blockedLane 3 job (0, 48) = true ∧ ∀ g ∈ job.frames, frameBlocked blockedLane 3 job g = true) ∧
    (RegsWf busyLane.regs ∧ busyLane = advance 0 busyLane ∧ laneRuns? (laneOf busyLane 3) = true ∧ (laneOf busyLane 3).enumAt + 100000000 ≤ busyLane.time.now ∧ pixelReady busyLane 3 = true ∧ (laneOf busyLane 3).enumerating = false) ∧
    (RegsWf (upLane (fun x => { x with enumAt := 0 })).regs ∧ (laneOf (upLane (fun x => { x with enumAt := 0 })) 3).enumAt + 100000000 ≤ (upLane (fun x => { x with enumAt := 0 })).time.now ∧ pixelReady (upLane (fun x => { x with enumAt := 0 })) 3 = false) := by
  simp only [advance_zero, advance_call, ready_iff, RegsWf, CellsWf]
  refine ⟨?_, ?_, ?_, ?_, ?_, ?_, ?_, ?_⟩ <;> decide +kernel


theorem witness_LaneControl_1 :
    (RegsWf (waitingAck (ctrl (.latch 9000) .ranging 1)).regs ∧
       (waitingAck (ctrl (.latch 9000) .ranging 1)) = advance 0 (waitingAck (ctrl (.latch 9000) .ranging 1)) ∧
       (laneOf (waitingAck (ctrl (.latch 9000) .ranging 1)) 3).outstanding = some (ctrl (.latch 9000) .ranging 1) ∧
       badAck.crc ≠ crc32c (ackBytes badAck) ∧
       (ctrl (.latch 9000) .ranging 1).sent ≤ (laneCfg (waitingAck (ctrl (.latch 9000) .ranging 1)).cfgB 3).retries) ∧
    (RegsWf (waitingAck (ctrl (.latch 9000) .ranging 1)).regs ∧
       (waitingAck (ctrl (.latch 9000) .ranging 1)) = advance 0 (waitingAck (ctrl (.latch 9000) .ranging 1)) ∧
       (laneOf (waitingAck (ctrl (.latch 9000) .ranging 1)) 3).outstanding = some (ctrl (.latch 9000) .ranging 1) ∧
       (ack 0 5 77 0).status = 0 ∧
       (ctrl (.latch 9000) .ranging 1).sent ≤ (laneCfg (waitingAck (ctrl (.latch 9000) .ranging 1)).cfgB 3).retries) ∧
    (RegsWf (waitingAck (ctrl (.latch 9000) .ranging 1)).regs ∧
       (waitingAck (ctrl (.latch 9000) .ranging 1)) = advance 0 (waitingAck (ctrl (.latch 9000) .ranging 1)) ∧
       (laneOf (waitingAck (ctrl (.latch 9000) .ranging 1)) 3).outstanding = some (ctrl (.latch 9000) .ranging 1) ∧
       (ctrl (.latch 9000) .ranging 1).op = CtrlOp.latch 9000 ∧ (ack 1 5 77 0).crc = crc32c (ackBytes (ack 1 5 77 0)) ∧
       (ack 1 5 77 0).status = 1 ∧ (ack 1 5 77 0).alive = (ctrl (.latch 9000) .ranging 1).alive ∧
       (ack 1 5 77 0).seq = (ctrl (.latch 9000) .ranging 1).seq ∧
       (laneOf (waitingAck (ctrl (.latch 9000) .ranging 1)) 3).queue = [] ∧ laneString (waitingAck (ctrl (.latch 9000) .ranging 1)).cfgB 3 = false ∧
       (laneOf (waitingAck (ctrl (.latch 9000) .ranging 1)) 3).state = LaneState.up) ∧
    (RegsWf readingLane.regs ∧ readingLane = advance 0 readingLane ∧ (laneOf readingLane 3).outstanding = some readCtrl ∧
       readCtrl.op = CtrlOp.read 4096 ∧ readCtrl.cause = CtrlFor.hostRead (some call) ∧ (ack 1 5 77 0xABCD).crc = crc32c (ackBytes (ack 1 5 77 0xABCD)) ∧
       (ack 1 5 77 0xABCD).status = 1 ∧ (ack 1 5 77 0xABCD).alive = readCtrl.alive ∧
       (ack 1 5 77 0xABCD).seq = readCtrl.seq) ∧
    (RegsWf (upLane id).regs ∧ (upLane id) = advance 0 (upLane id) ∧ (laneOf (upLane id) 3).outstanding = none ∧
       (badAck.crc ≠ crc32c (ackBytes badAck) ∨ badAck.status = 0)) ∧
    (RegsWf (waitingAck (ctrl (.latch 9000) .ranging 1)).regs ∧
       (waitingAck (ctrl (.latch 9000) .ranging 1)) = advance 0 (waitingAck (ctrl (.latch 9000) .ranging 1)) ∧
       (laneOf (waitingAck (ctrl (.latch 9000) .ranging 1)) 3).outstanding = some (ctrl (.latch 9000) .ranging 1) ∧
       (ctrl (.latch 9000) .ranging 1).sentAt + (laneCfg (waitingAck (ctrl (.latch 9000) .ranging 1)).cfgB 3).ackTimeout
         ≤ (waitingAck (ctrl (.latch 9000) .ranging 1)).time.now ∧
       (ctrl (.latch 9000) .ranging 1).sent ≤ (laneCfg (waitingAck (ctrl (.latch 9000) .ranging 1)).cfgB 3).retries) ∧
    (RegsWf (waitingAck (ctrl (.latch 9000) .ranging 3)).regs ∧
       (waitingAck (ctrl (.latch 9000) .ranging 3)) = advance 0 (waitingAck (ctrl (.latch 9000) .ranging 3)) ∧
       (laneOf (waitingAck (ctrl (.latch 9000) .ranging 3)) 3).outstanding = some (ctrl (.latch 9000) .ranging 3) ∧
       (ctrl (.latch 9000) .ranging 3).sentAt + (laneCfg (waitingAck (ctrl (.latch 9000) .ranging 3)).cfgB 3).ackTimeout
         ≤ (waitingAck (ctrl (.latch 9000) .ranging 3)).time.now ∧
       (laneCfg (waitingAck (ctrl (.latch 9000) .ranging 3)).cfgB 3).retries < (ctrl (.latch 9000) .ranging 3).sent ∧
       (ctrl (.latch 9000) .ranging 3).op = CtrlOp.latch 9000 ∧ (ctrl (.latch 9000) .ranging 3).cause = CtrlFor.ranging ∧
       (laneOf (waitingAck (ctrl (.latch 9000) .ranging 3)) 3).queue = [] ∧ laneString (waitingAck (ctrl (.latch 9000) .ranging 3)).cfgB 3 = false ∧
       (laneOf (waitingAck (ctrl (.latch 9000) .ranging 3)) 3).state = LaneState.up) ∧
    (RegsWf waitingRecent.regs ∧ waitingRecent = advance 0 waitingRecent ∧ (laneOf waitingRecent 3).outstanding = some recentCtrl ∧
       waitingRecent.time.now < recentCtrl.sentAt + (laneCfg waitingRecent.cfgB 3).ackTimeout) ∧
    (RegsWf collectFirst.regs ∧ collectFirst = advance 0 collectFirst ∧ 3 = chainLen collectFirst.cfgB 3 ∧
       (0 = if (laneOf collectFirst 3).collectNext < 3 then (laneOf collectFirst 3).collectNext else 0) ∧ laneRuns? (laneOf collectFirst 3) = true ∧
       0 < 3 ∧ (laneOf collectFirst 3).collectAt + collectFirst.cfgB.laneGlobal.collect * 1000 ≤ collectFirst.time.now ∧ pixelReady collectFirst 3 = false) ∧
    (RegsWf collectLast.regs ∧ collectLast = advance 0 collectLast ∧ 3 = chainLen collectLast.cfgB 3 ∧
       (0 = if (laneOf collectLast 3).collectNext < 3 then (laneOf collectLast 3).collectNext else 0) ∧ laneRuns? (laneOf collectLast 3) = true ∧
       0 < 3 ∧ (laneOf collectLast 3).collectAt + collectLast.cfgB.laneGlobal.collect * 1000 ≤ collectLast.time.now) := by
  simp only [advance_zero, advance_call, ready_iff, RegsWf, CellsWf]
  refine ⟨?_, ?_, ?_, ?_, ?_, ?_, ?_, ?_, ?_, ?_⟩ <;> decide +kernel

theorem witness_LaneControl_2 :
    (RegsWf collectEarly.regs ∧ collectEarly = advance 0 collectEarly ∧ (laneRuns? (laneOf collectEarly 3) = false ∨
       collectEarly.time.now < (laneOf collectEarly 3).collectAt + collectEarly.cfgB.laneGlobal.collect * 1000)) ∧
    (RegsWf busyLane.regs ∧ busyLane = advance 0 busyLane ∧ 3 = chainLen busyLane.cfgB 3 ∧
       (0 = if (laneOf busyLane 3).collectNext < 3 then (laneOf busyLane 3).collectNext else 0) ∧ laneRuns? (laneOf busyLane 3) = true ∧
       0 < 3 ∧ (laneOf busyLane 3).collectAt + busyLane.cfgB.laneGlobal.collect * 1000 ≤ busyLane.time.now ∧ pixelReady busyLane 3 = true) ∧
    (RegsWf (upLane id).regs ∧ (upLane id) = advance 0 (upLane id) ∧ (laneOf (upLane id) 3).collectOut = none) ∧
    (RegsWf collectingLane.regs ∧ collectingLane = advance 0 collectingLane ∧ (laneOf collectingLane 3).collectOut = some (0, 1) ∧
       [blankSlot] = List.map (fun j ↦ [].getD j blankSlot) (List.range 1) ∧
       collectOut_ = intake 17 (collectPacket 3 0 (laneOf collectingLane 3).cseq [blankSlot]) (modLane 3 (fun z => { z with collectOut := none }) (rxErrors 3 2 collectingLane)) ∧
       collectOut_.snd = false) ∧
    (RegsWf collectingIntake.regs ∧ collectingIntake = advance 0 collectingIntake ∧ (laneOf collectingIntake 3).collectOut = some (0, 1) ∧
       [blankSlot] = List.map (fun j ↦ [].getD j blankSlot) (List.range 1) ∧
       collectIntakeOut = intake 17 (collectPacket 3 0 (laneOf collectingIntake 3).cseq [blankSlot]) (modLane 3 (fun z => { z with collectOut := none }) (rxErrors 3 2 collectingIntake)) ∧
       collectIntakeOut.snd = true) ∧
    ((upLane id) = advance call.t (upLane id) ∧ Ready 1123 call (upLane id) ∧ List.filter (nBit 8) (List.range 32) = [3] ∧
       laneRuns? (laneOf (upLane id) 3) = true) ∧
    ((upLane id) = advance call.t (upLane id) ∧ Ready 1123 call (upLane id) ∧ List.filter (nBit 8) (List.range 32) = [3] ∧
       laneRuns? (laneOf (upLane id) 3) = true ∧ 2 ≠ 65535 ∧ 2 < reachable (upLane id) 3) ∧
    ((upLane id) = advance call.t (upLane id) ∧ Ready 1123 call (upLane id) ∧ List.filter (nBit 8) (List.range 32) = [3] ∧
       laneRuns? (laneOf (upLane id) 3) = true ∧ 3 ≠ 65535 ∧ chainLen (upLane id).cfgB 3 ≤ 3) ∧
    (showing = advance call.t showing ∧ Ready 1123 call showing ∧ nBit 8 3 = true ∧ laneRuns? (laneOf showing 3) = false ∧
       ((laneOf showing 3).state ≠ LaneState.fault ∨ 65535 ≠ 0xFFFF)) ∧
    ((upLane id) = advance call.t (upLane id) ∧ Ready 1123 call (upLane id)) ∧
    (idleLane = advance call.t idleLane ∧ chipCheck idleLane 3 2 = none ∧ Ready 1125 call idleLane ∧ 4096 ≤ 4096 ∧ 4096 ≤ 65535 ∧
       4 ≤ [1, 2, 3, 4].length ∧ [1, 2, 3, 4].length ≤ 228 ∧ [1, 2, 3, 4].length % 4 = 0 ∧ idleLane.time.running = false ∧ pixelReady idleLane 3 = false ∧
       (laneOf idleLane 3).outstanding = none ∧ (laneOf idleLane 3).queue = []) ∧
    ((upLane id) = advance call.t (upLane id) ∧ chipCheck (upLane id) 3 2 = none ∧ Ready 1125 call (upLane id) ∧ 4096 ≤ 4096 ∧ 4096 ≤ 65535 ∧
       4 ≤ [1, 2, 3, 4].length ∧ [1, 2, 3, 4].length ≤ 228 ∧ [1, 2, 3, 4].length % 4 = 0 ∧ (upLane id).time.running = true ∧
       domainUp (upLane id) 7 = true) := by
  simp only [advance_zero, advance_call, ready_iff, RegsWf, CellsWf]
  refine ⟨?_, ?_, ?_, ?_, ?_, ?_, ?_, ?_, ?_, ?_, ?_, ?_⟩ <;> decide +kernel

theorem witness_LaneControl_3 :
    ((upLane id) = advance call.t (upLane id) ∧ chipCheck (upLane id) 3 2 = none ∧ Ready 1125 call (upLane id) ∧ 4095 < 4096) ∧
    (idleLane = advance call.t idleLane ∧ chipCheck idleLane 3 2 = none ∧ Ready 1126 call idleLane ∧ 4096 ≤ 65535 ∧ idleLane.time.running = false ∧ pixelReady idleLane 3 = false ∧
       (laneOf idleLane 3).outstanding = none ∧ (laneOf idleLane 3).queue = []) ∧
    ((upLane id) = advance call.t (upLane id) ∧ chipCheck (upLane id) 3 3 = some Status.notFound ∧ Ready 1126 call (upLane id) ∧ 4096 ≤ 65535) ∧
    ((upLane id) = advance call.t (upLane id) ∧ chipCheck (upLane id) 3 3 = some Status.notFound ∧ Ready 1125 call (upLane id) ∧ 4096 ≤ 4096 ∧
       4096 ≤ 65535 ∧ 4 ≤ [1, 2, 3, 4].length ∧ [1, 2, 3, 4].length ≤ 228 ∧ [1, 2, 3, 4].length % 4 = 0) ∧
    (showing = advance call.t showing ∧ chipCheck showing 4 3 = some Status.notReady ∧ Ready 1125 call showing ∧ 4096 ≤ 4096 ∧ 4096 ≤ 65535 ∧
       4 ≤ [1, 2, 3, 4].length ∧ [1, 2, 3, 4].length ≤ 228 ∧ [1, 2, 3, 4].length % 4 = 0) ∧
    (strings = advance call.t strings ∧ Ready 1129 call strings ∧ lamp.action ≤ 1 ∧ 1 ≤ lamp.strings ∧ lamp.strings ≤ 7 ∧ (lamp.lamp = 255 ∨
       lamp.lamp ≤ 63) ∧ chipCheck strings lamp.lane lamp.chip = none ∧ laneString strings.cfgB lamp.lane = true ∧ (lamp.lamp = 255 ∨
       lamp.lamp < chipCount strings.cfgB lamp.lane lamp.chip) ∧ lamp.action = 1) ∧
    (stringsDiag = advance call.t stringsDiag ∧ Ready 1129 call stringsDiag ∧ lamp.action ≤ 1 ∧ 1 ≤ lamp.strings ∧ lamp.strings ≤ 7 ∧
       (lamp.lamp = 255 ∨ lamp.lamp ≤ 63) ∧ chipCheck stringsDiag lamp.lane lamp.chip = none ∧ laneString stringsDiag.cfgB lamp.lane = true ∧
       (lamp.lamp = 255 ∨ lamp.lamp < chipCount stringsDiag.cfgB lamp.lane lamp.chip) ∧ lamp.action = 1) ∧
    (strings = advance call.t strings ∧ Ready 1129 call strings ∧ ({ lamp with action := 0 } : StrLampSet).action ≤ 1 ∧
       1 ≤ ({ lamp with action := 0 } : StrLampSet).strings ∧ ({ lamp with action := 0 } : StrLampSet).strings ≤ 7 ∧
       (({ lamp with action := 0 } : StrLampSet).lamp = 255 ∨ ({ lamp with action := 0 } : StrLampSet).lamp ≤ 63) ∧
       chipCheck strings ({ lamp with action := 0 } : StrLampSet).lane ({ lamp with action := 0 } : StrLampSet).chip = none ∧
       laneString strings.cfgB ({ lamp with action := 0 } : StrLampSet).lane = true ∧ (({ lamp with action := 0 } : StrLampSet).lamp = 255 ∨
       ({ lamp with action := 0 } : StrLampSet).lamp
         < chipCount strings.cfgB ({ lamp with action := 0 } : StrLampSet).lane ({ lamp with action := 0 } : StrLampSet).chip) ∧
       ({ lamp with action := 0 } : StrLampSet).action = 0) ∧
    ((upLane id) = advance call.t (upLane id) ∧ Ready 1129 call (upLane id) ∧ lamp.action ≤ 1 ∧ 1 ≤ lamp.strings ∧ lamp.strings ≤ 7 ∧
       (lamp.lamp = 255 ∨ lamp.lamp ≤ 63) ∧ chipCheck (upLane id) lamp.lane lamp.chip = none ∧ laneString (upLane id).cfgB lamp.lane = false) := by
  simp only [advance_zero, advance_call, ready_iff, RegsWf, CellsWf]
  refine ⟨?_, ?_, ?_, ?_, ?_, ?_, ?_, ?_, ?_⟩ <;> decide +kernel

theorem witness_MacLinksAndTransmit_1 :
    (RegsWf (portEnabled 1 1).regs ∧ (portEnabled 1 1) = advance 0 (portEnabled 1 1) ∧ portOn (portEnabled 1 1) 2 = true ∧
       (portOf (portEnabled 1 1) 2).link ≠ LinkState.up) ∧
    (RegsWf (upPort id).regs ∧ (upPort id) = advance 0 (upPort id) ∧ (portOn (upPort id) 2 = false ∨ (portOf (upPort id) 2).link = LinkState.up)) ∧
    (RegsWf showing.regs ∧ showing = advance 0 showing ∧ (portOn showing 2 = false ∨ (portOf showing 2).link = LinkState.up)) ∧
    (RegsWf (upPort id).regs ∧ (upPort id) = advance 0 (upPort id) ∧ (portOf (upPort id) 2).link = LinkState.up) ∧
    (RegsWf failover.regs ∧ failover = advance 0 failover ∧ (portOf failover 2).link = LinkState.up) ∧
    (RegsWf (portEnabled 1 1).regs ∧ (portEnabled 1 1) = advance 0 (portEnabled 1 1) ∧ (portOf (portEnabled 1 1) 2).link ≠ LinkState.up) ∧
    (RegsWf reverting.regs ∧ reverting = advance 0 reverting ∧ (pairOf reverting 2).mode = 2 ∧ (pairOf reverting 2).revertive = true ∧
       (pairOf reverting 2).secondary = true ∧ (portOf reverting 2).link = LinkState.up ∧
       (portOf reverting 2).upAt + 10000000000 ≤ reverting.time.now) ∧
    (RegsWf failover.regs ∧ failover = advance 0 failover ∧ ((pairOf failover 2).mode ≠ 2 ∨ (pairOf failover 2).revertive = false ∨
       (pairOf failover 2).secondary = false ∨ failover.time.now < (portOf failover 2).upAt + 10000000000)) ∧
    (RegsWf queued6.regs ∧ queued6 = advance 0 queued6 ∧ (portOf queued6 2).waiting = [] ∧ (portOf queued6 2).tsqExtra = none ∧ lateFrames queued6 2 = [] ∧ portFree queued6 2 0 = true ∧
       txPick queued6 2 = some (6, frame6) ∧ 6 < 8) ∧
    (RegsWf (upPort id).regs ∧ (upPort id) = advance 0 (upPort id) ∧ (portOf (upPort id) 2).waiting = [] ∧ (portOf (upPort id) 2).tsqExtra = none ∧
       lateFrames (upPort id) 2 = [] ∧ (portFree (upPort id) 2 0 = false ∨
       txPick (upPort id) 2 = none)) := by
  simp only [advance_zero, advance_call, ready_iff, RegsWf, CellsWf]
  refine ⟨?_, ?_, ?_, ?_, ?_, ?_, ?_, ?_, ?_, ?_⟩ <;> decide +kernel

theorem witness_MacLinksAndTransmit_2 :
    (RegsWf (slotAt 170000001).regs ∧ (slotAt 170000001) = advance 0 (slotAt 170000001) ∧
       (portOf (slotAt 170000001) 2).slots = [(⟨frame6, 170000001, 0⟩ : LaunchSlot)] ∧ (portOf (slotAt 170000001) 2).tsqExtra = none ∧
       (slotAt 170000001).time.st64 < (⟨frame6, 170000001, 0⟩ : LaunchSlot).at_) ∧
    (RegsWf (slotAt 169000000).regs ∧ (slotAt 169000000) = advance 0 (slotAt 169000000) ∧
       (portOf (slotAt 169000000) 2).slots = [(⟨frame6, 169000000, 0⟩ : LaunchSlot)] ∧ (portOf (slotAt 169000000) 2).tsqExtra = none ∧
       (⟨frame6, 169000000, 0⟩ : LaunchSlot).at_ + ↑(bits (reg (slotAt 169000000) (R.MAC_LAUNCH_WIN 2)) 15 0) < (slotAt 169000000).time.st64) ∧
    (RegsWf (slotAt 170000000).regs ∧ (slotAt 170000000) = advance 0 (slotAt 170000000) ∧
       (portOf (slotAt 170000000) 2).slots = [(⟨frame6, 170000000, 0⟩ : LaunchSlot)] ∧ (portOf (slotAt 170000000) 2).tsqExtra = none ∧
       (⟨frame6, 170000000, 0⟩ : LaunchSlot).at_ ≤ (slotAt 170000000).time.st64 ∧
       (slotAt 170000000).time.st64 ≤ (⟨frame6, 170000000, 0⟩ : LaunchSlot).at_ + ↑(bits (reg (slotAt 170000000) (R.MAC_LAUNCH_WIN 2)) 15 0) ∧
       portFree (slotAt 170000000) 2 8 = true ∧ portMay (slotAt 170000000) 2 (⟨frame6, 170000000, 0⟩ : LaunchSlot).frame.content = true ∧ classPaused (slotAt 170000000) 2 (⟨frame6, 170000000, 0⟩ : LaunchSlot).frame.queue = false ∧
       (slotAt 170000000).time.st64 ≤ (⟨frame6, 170000000, 0⟩ : LaunchSlot).at_ + 2) ∧
    (RegsWf (slotAt 169999990).regs ∧ (slotAt 169999990) = advance 0 (slotAt 169999990) ∧
       (portOf (slotAt 169999990) 2).slots = [(⟨frame6, 169999990, 0⟩ : LaunchSlot)] ∧ (portOf (slotAt 169999990) 2).tsqExtra = none ∧
       (⟨frame6, 169999990, 0⟩ : LaunchSlot).at_ ≤ (slotAt 169999990).time.st64 ∧
       (slotAt 169999990).time.st64 ≤ (⟨frame6, 169999990, 0⟩ : LaunchSlot).at_ + ↑(bits (reg (slotAt 169999990) (R.MAC_LAUNCH_WIN 2)) 15 0) ∧
       portFree (slotAt 169999990) 2 8 = true ∧ portMay (slotAt 169999990) 2 (⟨frame6, 169999990, 0⟩ : LaunchSlot).frame.content = true ∧ classPaused (slotAt 169999990) 2 (⟨frame6, 169999990, 0⟩ : LaunchSlot).frame.queue = false ∧
       (⟨frame6, 169999990, 0⟩ : LaunchSlot).at_ + 2 < (slotAt 169999990).time.st64) ∧
    (RegsWf (upPort id).regs ∧ (upPort id) = advance 0 (upPort id) ∧ (portOf (upPort id) 2).slots = [] ∧ (portOf (upPort id) 2).tsqExtra = none) ∧
    (RegsWf stamped.regs ∧ stamped = advance 0 stamped ∧
       (portOf stamped 2).tsq = [(⟨9, true, false, 123⟩ : TsEntry), { id := 10, late := false, notSent := false, ts := 456 }] ∧ (portOf stamped 2).tsqExtra = none) ∧
    (RegsWf (upPort id).regs ∧ (upPort id) = advance 0 (upPort id) ∧ (portOf (upPort id) 2).tsq = [] ∧ (portOf (upPort id) 2).tsqExtra = none) := by
  simp only [advance_zero, advance_call, ready_iff, RegsWf, CellsWf]
  refine ⟨?_, ?_, ?_, ?_, ?_, ?_, ?_⟩ <;> decide +kernel

theorem witness_MacLinksAndTransmit_3 :
    (RegsWf queuedLate.regs ∧ frameLast ∈ lateFrames queuedLate 2 ∧ (portOf queuedLate 2).tsqExtra = none) ∧
    (RegsWf (stampExtra 1000000000000).regs ∧ (portOf (stampExtra 1000000000000) 2).tsq = [(⟨9, true, false, 123⟩ : TsEntry), ⟨10, false, false, 456⟩] ∧ ∀ q, (portOf (stampExtra 1000000000000) 2).tsqExtra = some q → (stampExtra 1000000000000).time.now ≤ q.2) ∧
    (RegsWf (stampExtra 999999999999).regs ∧ (portOf (stampExtra 999999999999) 2).tsq = [(⟨9, true, false, 123⟩ : TsEntry), ⟨10, false, false, 456⟩] ∧ (portOf (stampExtra 999999999999) 2).tsqExtra = some (⟨11, false, false, 789⟩, 999999999999) ∧ 999999999999 < (stampExtra 999999999999).time.now) := by
  simp only [advance_zero, advance_call, ready_iff, RegsWf, CellsWf]
  refine ⟨?_, ?_, ?_⟩
  · decide +kernel
  · refine ⟨?_, ?_, fun q h => ?_⟩
    · decide +kernel
    · decide +kernel
    · have e : (portOf (stampExtra 1000000000000) 2).tsqExtra = some (⟨11, false, false, 789⟩, 1000000000000) := by decide +kernel
      cases e.symm.trans h
      decide +kernel
  · decide +kernel


theorem witness_MacFlowControlAndReceive_1 :
    (RegsWf tallied.regs ∧ tallied = portAt 2 0 tallied ∧ 7 = vGet (portOf (pauseSettle 2 tallied) 2).tally 14 0) ∧
    (RegsWf tallied.regs ∧ tallied = advance 0 tallied ∧ tellerRuns tallied = true ∧ domainUp tallied (portDomain 2) = true) ∧
    (RegsWf showEdge.regs ∧ showEdge = advance 0 showEdge ∧ tellerRuns showEdge = true ∧ domainUp showEdge (portDomain 2) = false) ∧
    (RegsWf sleeping.regs ∧ sleeping = advance 0 sleeping ∧ tellerRuns sleeping = false) ∧
    (RegsWf (pausable 0x101 id).regs ∧ (pausable 0x101 id) = advance 0 (pausable 0x101 id) ∧ (portOf (pausable 0x101 id) 2).link = LinkState.up ∧
       bitOf (reg (pausable 0x101 id) (R.MAC_CFG 2)) 8 = true ∧ bitOf (reg (pausable 0x101 id) (R.MAC_CFG 2)) 9 = false ∧
       (portOf (pausable 0x101 id) 2).pause.ignore ≤ (pausable 0x101 id).time.now) ∧
    (RegsWf (pausable 0x201 id).regs ∧ (pausable 0x201 id) = advance 0 (pausable 0x201 id) ∧ (portOf (pausable 0x201 id) 2).link = LinkState.up ∧
       (bitOf (reg (pausable 0x201 id) (R.MAC_CFG 2)) 8 = false ∨ bitOf (reg (pausable 0x201 id) (R.MAC_CFG 2)) 9 = true)) ∧
    (RegsWf (pausable 0x200201 id).regs ∧ (pausable 0x200201 id) = advance 0 (pausable 0x200201 id) ∧
       (portOf (pausable 0x200201 id) 2).link = LinkState.up ∧ bitOf (reg (pausable 0x200201 id) (R.MAC_CFG 2)) 9 = true) ∧
    (RegsWf (pausable 0x101 id).regs ∧ (pausable 0x101 id) = advance 0 (pausable 0x101 id) ∧ (portOf (pausable 0x101 id) 2).link = LinkState.up ∧
       2 ≠ 1 ∧ 2 ≠ 257) ∧
    (RegsWf showing.regs ∧ showing = advance 0 showing ∧ (portOf showing 2).link ≠ LinkState.up) ∧
    (RegsWf pausedLong.regs ∧ pausedLong = advance 0 pausedLong) ∧
    (RegsWf pausedLong.regs ∧ pausedLong = advance 0 pausedLong ∧
       pauseTooLong (bits (reg pausedLong (R.MAC_WD 2)) 15 0) pausedLong.time.now (portOf pausedLong 2).pause = true) := by
  simp only [advance_zero, advance_call, ready_iff, RegsWf, CellsWf]
  refine ⟨?_, ?_, ?_, ?_, ?_, ?_, ?_, ?_, ?_, ?_, ?_⟩ <;> decide +kernel

theorem witness_MacFlowControlAndReceive_2 :
    (RegsWf pfcLong.regs ∧ pauseTooLong (bits (reg pfcLong (R.MAC_WD 2)) 15 0) pfcLong.time.now (vGet (portOf pfcLong 2).classes 5 Pause.none_) = true) ∧
    (RegsWf ignoring.regs ∧ ignoring = advance 0 ignoring ∧ (portOf ignoring 2).pause.ignore ≠ 0 ∧
       (portOf ignoring 2).pause.ignore ≤ ignoring.time.now) ∧
    (RegsWf (portEnabled 1 1).regs ∧ (portEnabled 1 1) = advance 0 (portEnabled 1 1) ∧ (portOf (portEnabled 1 1) 2).link ≠ LinkState.up) ∧
    (RegsWf (upPort id).regs ∧ (upPort id) = advance 0 (upPort id) ∧ (portOf (upPort id) 2).link = LinkState.up ∧
       ({ rx 100 with fcsOk := false } : RxFrame).fcsOk = false) ∧
    (RegsWf (upPort id).regs ∧ (upPort id) = advance 0 (upPort id) ∧ (portOf (upPort id) 2).link = LinkState.up ∧ (rx 63).fcsOk = true ∧
       (rxLen (rx 63) < 64 ∨ bits (reg (upPort id) (R.MAC_MTU 2)) 13 0 < rxLen (rx 63))) ∧
    (RegsWf (upPort id).regs ∧ (upPort id) = advance 0 (upPort id) ∧ (portOf (upPort id) 2).link = LinkState.up ∧ (rx 9601).fcsOk = true ∧
       (rxLen (rx 9601) < 64 ∨ bits (reg (upPort id) (R.MAC_MTU 2)) 13 0 < rxLen (rx 9601))) ∧
    (RegsWf (upPort id).regs ∧ (upPort id) = advance 0 (upPort id) ∧ (portOf (upPort id) 2).link = LinkState.up ∧ (rx 100).fcsOk = true ∧
       64 ≤ rxLen (rx 100) ∧ rxLen (rx 100) ≤ bits (reg (upPort id) (R.MAC_MTU 2)) 13 0 ∧ rxType (rx 100) ≠ 34824 ∧ (rx 100).fifoFull = false ∧
       (upPort id).power.mode ≠ Mode.diagnose ∧ List.findIdx? (clsMatch (rx 100)) (classifier (upPort id) 2) = none) ∧
    (RegsWf receiving.regs ∧ receiving = advance 0 receiving ∧ (portOf receiving 2).link = LinkState.up ∧ (rx 100).fcsOk = true ∧ 64 ≤ rxLen (rx 100) ∧
       rxLen (rx 100) ≤ bits (reg receiving (R.MAC_MTU 2)) 13 0 ∧ rxType (rx 100) ≠ 34824 ∧ (rx 100).fifoFull = false ∧
       receiving.power.mode ≠ Mode.diagnose ∧ List.findIdx? (clsMatch (rx 100)) (classifier receiving 2) = some 0 ∧
       (classifier receiving 2)[0]? = some (⟨2, 32, 0, 0, 0, 0, 0, 5568⟩ : ClsEntry) ∧ (⟨2, 32, 0, 0, 0, 0, 0, 5568⟩ : ClsEntry).ring < 8 ∧
       bitOf (reg receiving (R.MAC_RRr_CFG 2 (⟨2, 32, 0, 0, 0, 0, 0, 5568⟩ : ClsEntry).ring)) 16 = true ∧
       (∀ j < (chunks 8 (rx 100).bytes).length, ringOwn receiving 2 (⟨2, 32, 0, 0, 0, 0, 0, 5568⟩ : ClsEntry).ring
         (((vGet (portOf receiving 2).rings (⟨2, 32, 0, 0, 0, 0, 0, 5568⟩ : ClsEntry).ring ⟨0, []⟩).hw + j) %
           ringSize receiving 2 (⟨2, 32, 0, 0, 0, 0, 0, 5568⟩ : ClsEntry).ring) = true)) ∧
    (diag = advance call.t diag ∧ Ready 1136 call diag ∧ macPortOk portSet = true ∧ diag.power.mode ≠ Mode.show ∧ diag.power.mode ≠ Mode.spare) ∧
    (diag = advance call.t diag ∧ Ready 1136 call diag ∧ macPortOk ({ portSet with mtu := 63 } : MacPortSet) = false) ∧
    (showing = advance call.t showing ∧ Ready 1137 call showing ∧ 3 ≤ 3 ∧ 2 ≤ 2) := by
  simp only [advance_zero, advance_call, ready_iff, RegsWf, CellsWf]
  refine ⟨?_, ?_, ?_, ?_, ?_, ?_, ?_, ?_, ?_, ?_, ?_⟩ <;> decide +kernel

theorem witness_MacFlowControlAndReceive_3 :
    (showing = advance call.t showing ∧ Ready 1137 call showing ∧ (3 < 4 ∨ 2 < 2)) ∧
    (showing = advance call.t showing ∧ Ready 1137 call showing ∧ (3 < 3 ∨ 2 < 3)) ∧
    (diag = advance call.t diag ∧ Ready 1139 call diag ∧ wakeSet.password.length = 6 ∧ wakeSet.patterns.length = 4) ∧
    (diag = advance call.t diag ∧ Ready 1139 call diag ∧ (({ wakeSet with password := [] } : MacWakeSet).password.length ≠ 6 ∨
       ({ wakeSet with password := [] } : MacWakeSet).patterns.length ≠ 4)) := by
  simp only [advance_zero, advance_call, ready_iff, RegsWf, CellsWf]
  refine ⟨?_, ?_, ?_, ?_⟩ <;> decide +kernel

theorem witness_ShowProtocols_1 :
    (RegsWf showing.regs ∧ aWf showing.pkt.rx = true ∧ showing = advance 0 showing ∧ ((portOf showing 2).link ≠ LinkState.up ∨
       rxEntriesOf showing 2 e131.univ = [])) ∧
    (RegsWf receiving.regs ∧ aWf receiving.pkt.rx = true ∧ receiving = advance 0 receiving ∧ ((portOf receiving 2).link ≠ LinkState.up ∨
       rxEntriesOf receiving 2 ({ e131 with univ := 8 } : E131Packet).univ = [])) ∧
    (RegsWf receiving.regs ∧ aWf receiving.pkt.rx = true ∧ receiving = advance 0 receiving ∧ (portOf receiving 2).link = LinkState.up ∧
       0 ∈ rxEntriesOf receiving 2 ({ e131 with preview := true } : E131Packet).univ ∧ (rxEntriesOf receiving 2 ({ e131 with preview := true } : E131Packet).univ).Nodup ∧
       (({ e131 with preview := true } : E131Packet).preview = true ∨ ({ e131 with preview := true } : E131Packet).startCode ≠ 0)) ∧
    (RegsWf receiving.regs ∧ aWf receiving.pkt.rx = true ∧ receiving = advance 0 receiving ∧ (portOf receiving 2).link = LinkState.up ∧
       0 ∈ rxEntriesOf receiving 2 e131.univ ∧ (rxEntriesOf receiving 2 e131.univ).Nodup ∧ e131.preview = false ∧ e131.startCode = 0 ∧ e131.terminated = false ∧
       (∀ (q : RxSource), q ∈ (rxOf receiving 0).sources → q.dmx = true ∨ q.cid ≠ e131.cid) ∧
       (List.filter (fun q ↦ !q.dmx) (rxOf receiving 0).sources).length < 4 ∧ (rxOf receiving 0).sources = [] ∧ rxEntriesOf receiving 2 e131.univ = [0]) ∧
    (RegsWf mergedOther.regs ∧ aWf mergedOther.pkt.rx = true ∧ mergedOther = advance 0 mergedOther ∧ (portOf mergedOther 2).link = LinkState.up ∧
       0 ∈ rxEntriesOf mergedOther 2 e131.univ ∧ (rxEntriesOf mergedOther 2 e131.univ).Nodup ∧ e131.preview = false ∧ e131.startCode = 0 ∧ e131.terminated = false ∧
       (∀ (q : RxSource), q ∈ (rxOf mergedOther 0).sources → q.dmx = true ∨ q.cid ≠ e131.cid) ∧
       (List.filter (fun q ↦ !q.dmx) (rxOf mergedOther 0).sources).length < 4) ∧
    (RegsWf (rxFrom (sacn 990000000000) receiving).regs ∧ aWf (rxFrom (sacn 990000000000) receiving).pkt.rx = true ∧
       (rxFrom (sacn 990000000000) receiving) = advance 0 (rxFrom (sacn 990000000000) receiving) ∧
       (rxOf (rxFrom (sacn 990000000000) receiving) 0).sources = [(sacn 990000000000)] ∧ (sacn 990000000000).dmx = false ∧
       (sacn 990000000000).cid = 99 ∧ (sacn 990000000000).at_ + 2500000000 ≤ (rxFrom (sacn 990000000000) receiving).time.now) ∧
    (RegsWf (rxFrom (sacn 999999000000) receiving).regs ∧ aWf (rxFrom (sacn 999999000000) receiving).pkt.rx = true ∧
       (rxFrom (sacn 999999000000) receiving) = advance 0 (rxFrom (sacn 999999000000) receiving) ∧
       (rxOf (rxFrom (sacn 999999000000) receiving) 0).sources = [(sacn 999999000000)] ∧ (sacn 999999000000).dmx = false ∧
       (sacn 999999000000).cid = 99 ∧ (rxFrom (sacn 999999000000) receiving).time.now < (sacn 999999000000).at_ + 2500000000) ∧
    (RegsWf dmxSourceOld.regs ∧ aWf dmxSourceOld.pkt.rx = true ∧ dmxSourceOld = advance 0 dmxSourceOld ∧
       (rxOf dmxSourceOld (dmxOf dmxSourceOld.cfgB 5).entry).sources = [(⟨true, 5, 100, 0, 990000000000, []⟩ : RxSource)] ∧
       (⟨true, 5, 100, 0, 990000000000, []⟩ : RxSource).dmx = true ∧ (⟨true, 5, 100, 0, 990000000000, []⟩ : RxSource).cid = 5 ∧
       (⟨true, 5, 100, 0, 990000000000, []⟩ : RxSource).at_ + 2500000000 ≤ dmxSourceOld.time.now) ∧
    (RegsWf dmxSourceNew.regs ∧ aWf dmxSourceNew.pkt.rx = true ∧ dmxSourceNew = advance 0 dmxSourceNew ∧
       (rxOf dmxSourceNew (dmxOf dmxSourceNew.cfgB 5).entry).sources = [(⟨true, 5, 100, 0, 999990000000, []⟩ : RxSource)] ∧
       (⟨true, 5, 100, 0, 999990000000, []⟩ : RxSource).dmx = true ∧ (⟨true, 5, 100, 0, 999990000000, []⟩ : RxSource).cid = 5 ∧
       dmxSourceNew.time.now < (⟨true, 5, 100, 0, 999990000000, []⟩ : RxSource).at_ + 2500000000) ∧
    (RegsWf (discovering 1 (some 995000000000)).regs ∧ aWf (discovering 1 (some 995000000000)).pkt.rx = true ∧
       (discovering 1 (some 995000000000)) = advance 0 (discovering 1 (some 995000000000)) ∧
       (discovering 1 (some 995000000000)).pkt.lastDiscovery = some 995000000000 ∧
       (discovering 1 (some 995000000000)).time.now < 995000000000 + 10000000000) := by
  simp only [advance_zero, advance_call, ready_iff, RegsWf, CellsWf]
  refine ⟨?_, ?_, ?_, ?_, ?_, ?_, ?_, ?_, ?_, ?_⟩ <;> decide +kernel

theorem witness_ShowProtocols_2 :
    (RegsWf (discovering 1 none).regs ∧ aWf (discovering 1 none).pkt.rx = true ∧ (discovering 1 none) = advance 0 (discovering 1 none) ∧
       ((discovering 1 none).pkt.lastDiscovery = none ∨ ∃ d, (discovering 1 none).pkt.lastDiscovery = some d ∧
       d + 10000000000 ≤ (discovering 1 none).time.now) ∧ flowsOn (discovering 1 none).cfgB = [(0, (flow 1))] ∧ (flow 1).protocol = 1 ∧
       (flow 1).port < 8) ∧
    (RegsWf (discovering 2 (some 990000000000)).regs ∧ aWf (discovering 2 (some 990000000000)).pkt.rx = true ∧
       (discovering 2 (some 990000000000)) = advance 0 (discovering 2 (some 990000000000)) ∧
       ((discovering 2 (some 990000000000)).pkt.lastDiscovery = none ∨ ∃ d, (discovering 2 (some 990000000000)).pkt.lastDiscovery = some d ∧
       d + 10000000000 ≤ (discovering 2 (some 990000000000)).time.now) ∧ flowsOn (discovering 2 (some 990000000000)).cfgB = [(0, (flow 2))] ∧
       (flow 2).protocol ≠ 1) ∧
    (RegsWf rdmReady.regs ∧ aWf rdmReady.pkt.rx = true ∧ rdmReady = advance 0 rdmReady ∧
       dmxIntakeRdm = intake 5 (List.map (BitVec.ofNat 8) (0 :: List.take 512 [9, 8])) (bump (R.DMX_Pn_CNT_FRAMES 5) rdmReady) ∧
       (dmxOf rdmReady.cfgB 5).mode ≠ 2) ∧
    (RegsWf dmxIn.regs ∧ aWf dmxIn.pkt.rx = true ∧ dmxIn = advance 0 dmxIn ∧
       dmxIntakeText = intake 5 (List.map (BitVec.ofNat 8) (23 :: List.take 512 [9, 8])) (bump (R.DMX_Pn_CNT_FRAMES 5) dmxIn) ∧
       (dmxOf dmxIn.cfgB 5).mode = 2 ∧ (23 ≠ 0 ∨ dmxIntakeText.snd = false)) ∧
    (RegsWf dmxIn.regs ∧ aWf dmxIn.pkt.rx = true ∧ dmxIn = advance 0 dmxIn ∧
       dmxIntakePlain = intake 5 (List.map (BitVec.ofNat 8) (0 :: List.take 512 [9, 8])) (bump (R.DMX_Pn_CNT_FRAMES 5) dmxIn) ∧
       (dmxOf dmxIn.cfgB 5).mode = 2 ∧ dmxIntakePlain.snd = true) ∧
    (RegsWf rdmReady.regs ∧ aWf rdmReady.pkt.rx = true ∧ rdmReady = advance 0 rdmReady ∧ (dmxPort rdmReady 5).requests = [(rdm, some call)] ∧
       (dmxPort rdmReady 5).windowEnd ≤ rdmReady.time.now ∧ rdmDue rdmReady 5 = true ∧ dmxFree rdmReady 5 = true ∧ dmxOpportunity rdmReady 5 = true ∧
       nBit (rdm, some call).fst.flags 0 = false) ∧
    (RegsWf rdmUngranted.regs ∧ aWf rdmUngranted.pkt.rx = true ∧ rdmUngranted = advance 0 rdmUngranted ∧
       (dmxPort rdmUngranted 5).requests = [(rdm, some call)] ∧ (dmxPort rdmUngranted 5).windowEnd ≤ rdmUngranted.time.now ∧
       (rdmDue rdmUngranted 5 = false ∨ dmxFree rdmUngranted 5 = false ∨ dmxOpportunity rdmUngranted 5 = false)) ∧
    (RegsWf showing.regs ∧ aWf showing.pkt.rx = true ∧ showing = advance 0 showing ∧ (dmxPort showing 5).requests = []) ∧
    (RegsWf (rdmOut 999999000000).regs ∧ aWf (rdmOut 999999000000).pkt.rx = true ∧ (rdmOut 999999000000) = advance 0 (rdmOut 999999000000) ∧
       (dmxPort (rdmOut 999999000000) 5).current = some (rdm, some call) ∧ (dmxPort (rdmOut 999999000000) 5).requests = [] ∧ 3 ≤ 3 ∧ 3 ≠ 2 ∧
       (rdmOut 999999000000).time.now - 100 ≤ (dmxPort (rdmOut 999999000000) 5).requestEnd + 2800000) ∧
    (RegsWf (rdmOut 999999000000).regs ∧ aWf (rdmOut 999999000000).pkt.rx = true ∧ (rdmOut 999999000000) = advance 0 (rdmOut 999999000000) ∧
       (dmxPort (rdmOut 999999000000) 5).current = some (rdm, some call) ∧ (dmxPort (rdmOut 999999000000) 5).requests = [] ∧ 0 ≤ 3 ∧ 0 ≠ 2 ∧
       (rdmOut 999999000000).time.now - 100 ≤ (dmxPort (rdmOut 999999000000) 5).requestEnd + 2800000) := by
  simp only [advance_zero, advance_call, ready_iff, RegsWf, CellsWf]
  refine ⟨?_, ?_, ?_, ?_, ?_, ?_, ?_, ?_, ?_, ?_⟩ <;> decide +kernel

theorem witness_ShowProtocols_3 :
    (RegsWf (rdmOut 999990000000).regs ∧ aWf (rdmOut 999990000000).pkt.rx = true ∧ (rdmOut 999990000000) = advance 0 (rdmOut 999990000000) ∧
       (dmxPort (rdmOut 999990000000) 5).current = some (rdm, some call) ∧ (dmxPort (rdmOut 999990000000) 5).requests = [] ∧
       (dmxPort (rdmOut 999990000000) 5).requestEnd + 2800000 ≤ (rdmOut 999990000000).time.now) ∧
    (RegsWf (rdmOut 999990000000).regs ∧ aWf (rdmOut 999990000000).pkt.rx = true ∧ (rdmOut 999990000000) = advance 0 (rdmOut 999990000000) ∧ (0 = 2 ∨
       (dmxPort (rdmOut 999990000000) 5).requestEnd + 2800000 < (rdmOut 999990000000).time.now - 100)) ∧
    (RegsWf (rdmOut 999999000000).regs ∧ aWf (rdmOut 999999000000).pkt.rx = true ∧ (rdmOut 999999000000) = advance 0 (rdmOut 999999000000) ∧ (2 = 2 ∨
       (dmxPort (rdmOut 999999000000) 5).requestEnd + 2800000 < (rdmOut 999999000000).time.now - 100)) ∧
    (RegsWf showing.regs ∧ aWf showing.pkt.rx = true ∧ showing = advance 0 showing ∧ (showing.time.now < (dmxPort showing 5).requestEnd + 2800000 ∨
       (dmxPort showing 5).current = none)) ∧
    (RegsWf showing.regs ∧ aWf showing.pkt.rx = true ∧ showing = advance 0 showing ∧ 1 ≠ 2 ∧ (engineOf showing 3).failed = false) ∧
    (RegsWf engineOut.regs ∧ aWf engineOut.pkt.rx = true ∧ engineOut = advance 0 engineOut ∧ 0 ≠ 2 ∧ (engineOf engineOut 3).failed = true) ∧
    (RegsWf showing.regs ∧ aWf showing.pkt.rx = true ∧ showing = advance 0 showing ∧ showing.pkt.trapK = none) ∧
    (RegsWf trapping.regs ∧ aWf trapping.pkt.rx = true ∧ trapping = advance 0 trapping ∧ trapping.pkt.trapK = some (trapping.time.fcount - 1) ∧
       trapping.pkt.trapRun = 2 ∧ (engineOf trapping 3).userOff = false) ∧
    (showing = advance call.t showing ∧ Ready 1154 call showing) ∧
    ((dmxAt id) = advance call.t (dmxAt id) ∧ Ready 1156 call (dmxAt id) ∧ rdm.port ≤ 15 ∧ 24 ≤ rdm.bytes.length ∧ rdm.bytes.length ≤ 255 ∧ rdm.bytes.head? = some 0xCC ∧
       (dmxOf (dmxAt id).cfgB rdm.port).mode = 1 ∧ nBit (dmxOf (dmxAt id).cfgB rdm.port).flags 0 = true) := by
  simp only [advance_zero, advance_call, ready_iff, RegsWf, CellsWf]
  refine ⟨?_, ?_, ?_, ?_, ?_, ?_, ?_, ?_, ?_, ?_⟩ <;> decide +kernel

theorem witness_ShowProtocols_4 :
    (dmxIdle = advance call.t dmxIdle ∧ Ready 1156 call dmxIdle ∧ rdm.port ≤ 15 ∧ 24 ≤ rdm.bytes.length ∧ rdm.bytes.length ≤ 255 ∧ rdm.bytes.head? = some 0xCC ∧
       (dmxOf dmxIdle.cfgB rdm.port).mode = 1 ∧ nBit (dmxOf dmxIdle.cfgB rdm.port).flags 0 = true ∧ dmxIdle.time.running = false) ∧
    ((dmxAt id) = advance call.t (dmxAt id) ∧ Ready 1156 call (dmxAt id) ∧ (15 < ({ rdm with bytes := [] } : RdmRequest).port ∨
       ({ rdm with bytes := [] } : RdmRequest).bytes.length < 24 ∨ 255 < ({ rdm with bytes := [] } : RdmRequest).bytes.length ∨ ({ rdm with bytes := [] } : RdmRequest).bytes.head? ≠ some 0xCC)) ∧
    ((dmxAt id) = advance call.t (dmxAt id) ∧ Ready 1156 call (dmxAt id) ∧ ({ rdm with bytes := List.replicate 26 1 } : RdmRequest).bytes.head? ≠ some 0xCC) ∧
    (showing = advance call.t showing ∧ Ready 1156 call showing ∧ rdm.port ≤ 15 ∧ 24 ≤ rdm.bytes.length ∧ rdm.bytes.length ≤ 255 ∧ rdm.bytes.head? = some 0xCC ∧
       ((dmxOf showing.cfgB rdm.port).mode ≠ 1 ∨ nBit (dmxOf showing.cfgB rdm.port).flags 0 = false)) ∧
    (showing = advance call.t showing ∧ Ready 1157 call showing ∧ pktCode.code ≤ 32768 ∧ pktCode.data ≤ 16384 ∧ pktCheckOk pktCode = true ∧
       codeSigned showing pktCode.trailer = true) ∧
    (showing = advance call.t showing ∧ Ready 1157 call showing ∧ (32768 < ({ pktCode with code := 32769 } : PktCodeLoad).code ∨
       16384 < ({ pktCode with code := 32769 } : PktCodeLoad).data ∨ pktCheckOk ({ pktCode with code := 32769 } : PktCodeLoad) = false)) ∧
    (showing = advance call.t showing ∧ Ready 1157 call showing ∧ pktCheckOk ({ pktCode with check := 1 } : PktCodeLoad) = false) := by
  simp only [advance_zero, advance_call, ready_iff, RegsWf, CellsWf]
  refine ⟨?_, ?_, ?_, ?_, ?_, ?_, ?_⟩ <;> decide +kernel

theorem witness_RadioEventsAndCommands_1 :
    (RegsWf showing.regs ∧ showing = advance 0 showing ∧ xOn showing 0 = false ∧ (xcvrOf showing 0).armed = none) ∧
    (RegsWf slot16.regs ∧ slot16 = advance 0 slot16 ∧ 16 = slotNow slot16 ∧ xOn slot16 0 = true ∧ slot16.time.running = true ∧
       (xcvrOf slot16 0).armed = some (16 * 10000000) ∧ (∀ (m : Int), (xcvrOf slot16 0).slot = some m → m < 16) ∧ (xcvrOf slot16 0).await = [] ∧
       leads slot16 = true ∧ 16 % 4 = 0 ∧ 16 % 256 ≠ 0 ∧ xPolling slot16 0 = false) ∧
    (RegsWf (paired slot16).regs ∧ (paired slot16) = advance 0 (paired slot16) ∧ 16 = slotNow (paired slot16) ∧ xOn (paired slot16) 0 = true ∧
       (paired slot16).time.running = true ∧ (xcvrOf (paired slot16) 0).armed = some (16 * 10000000) ∧
       (∀ (m : Int), (xcvrOf (paired slot16) 0).slot = some m → m < 16) ∧ (xcvrOf (paired slot16) 0).await = [] ∧ leads (paired slot16) = false ∧
       16 % 256 ≠ 0 ∧ (paired slot16).alm.launch.length < 4096) ∧
    (RegsWf showing.regs ∧ showing = advance 0 showing ∧ xOn showing 0 = false) ∧
    (RegsWf radioIn.regs ∧ radioIn = advance 0 radioIn ∧ xOn radioIn 0 = true ∧ psduOk (rxRadio (beacon ++ [1])).psdu = false) ∧
    (RegsWf radioIn.regs ∧ radioIn = advance 0 radioIn ∧ xOn radioIn 0 = true ∧ psduOk badBeacon.psdu = true ∧ (field badBeacon.psdu 1 1 ≠ 1 ∨
       field badBeacon.psdu 2 2 ≠ bits (xCfg radioIn 0) 15 0)) ∧
    (RegsWf (radioOn 160000000 9 id).regs ∧ (radioOn 160000000 9 id) = advance 0 (radioOn 160000000 9 id) ∧ xOn (radioOn 160000000 9 id) 0 = true ∧
       psduOk (rxRadio beacon).psdu = true ∧ field (rxRadio beacon).psdu 1 1 = 1 ∧
       field (rxRadio beacon).psdu 2 2 = bits (xCfg (radioOn 160000000 9 id) 0) 15 0 ∧
       radioIntakeNone = intake 16 (radioPacket 0 (rxRadio beacon)) (bump (R.RAD_Xn_CNT_RX 0) (radioOn 160000000 9 id)) ∧ radioIntakeNone.snd = false) ∧
    (RegsWf radioIn.regs ∧ radioIn = advance 0 radioIn ∧ xOn radioIn 0 = true ∧ psduOk (rxRadio beacon).psdu = true ∧
       field (rxRadio beacon).psdu 1 1 = 1 ∧ field (rxRadio beacon).psdu 2 2 = bits (xCfg radioIn 0) 15 0 ∧
       radioIntakeBeacon = intake 16 (radioPacket 0 (rxRadio beacon)) (bump (R.RAD_Xn_CNT_RX 0) radioIn) ∧ radioIntakeBeacon.snd = true ∧
       field (rxRadio beacon).psdu 0 1 = 1 ∧ (rxRadio beacon).psdu.length = 44 ∧ leads radioIn = true) ∧
    (RegsWf radioIn.regs ∧ radioIn = advance 0 radioIn ∧ xOn radioIn 0 = true ∧ psduOk (rxRadio uplink).psdu = true ∧
       field (rxRadio uplink).psdu 1 1 = 1 ∧ field (rxRadio uplink).psdu 2 2 = bits (xCfg radioIn 0) 15 0 ∧
       radioIntakeUplink = intake 16 (radioPacket 0 (rxRadio uplink)) (bump (R.RAD_Xn_CNT_RX 0) radioIn) ∧ radioIntakeUplink.snd = true ∧
       field (rxRadio uplink).psdu 0 1 = 8 ∧ (rxRadio uplink).psdu.length = 24 ∧ nodeXcvr radioIn.cfgB (field (rxRadio uplink).psdu 4 2) = 0 ∧
       reportStale (field (rxRadio uplink).psdu 4 2) (field (rxRadio uplink).psdu 12 8) radioIn = false ∧
       field (rxRadio uplink).psdu 4 2 = field (rxRadio uplink).psdu 8 2) ∧
    ((relaying true 900000000000).rad.relay = some (relay true 900000000000) ∧ (relay true 900000000000).active = true ∧
       (relay true 900000000000).progressAt + 60000000000 ≤ (advance 0 (relaying true 900000000000)).time.now ∧
       RegsWf (relaying true 900000000000).regs) := by
  simp only [advance_zero, advance_call, ready_iff, RegsWf, CellsWf]
  refine ⟨?_, ?_, ?_, ?_, ?_, ?_, ?_, ?_, ?_, ?_⟩ <;> decide +kernel

theorem witness_RadioEventsAndCommands_2 :
    ((relaying true 999000000000).rad.relay = some (relay true 999000000000) ∧ ((relay true 999000000000).active = false ∨
       (advance 0 (relaying true 999000000000)).time.now < (relay true 999000000000).progressAt + 60000000000)) ∧
    (showing.rad.relay = none) ∧
    (showing = advance call.t showing ∧ Ready 1174 call showing ∧ 100 ≤ (⟨100, 15, 60⟩ : RadioGlobalSet).cueLead ∧
       (⟨100, 15, 60⟩ : RadioGlobalSet).cueLead ≤ 10000 ∧ 1 ≤ (⟨100, 15, 60⟩ : RadioGlobalSet).cueRepeat ∧
       (⟨100, 15, 60⟩ : RadioGlobalSet).cueRepeat ≤ 15) ∧
    (showing = advance call.t showing ∧ Ready 1174 call showing ∧ ((⟨99, 15, 60⟩ : RadioGlobalSet).cueLead < 100 ∨
       10000 < (⟨99, 15, 60⟩ : RadioGlobalSet).cueLead ∨ (⟨99, 15, 60⟩ : RadioGlobalSet).cueRepeat < 1 ∨
       15 < (⟨99, 15, 60⟩ : RadioGlobalSet).cueRepeat)) ∧
    (imaged = advance call.t imaged ∧ Ready 1172 call imaged ∧ fwLoad.total ≤ 262144 ∧ fwLoad.offset % 96 = 0 ∧ fwLoad.data.length ≤ 65536 ∧
       fwLoad.data ≠ [] ∧ fwLoad.offset + fwLoad.data.length ≤ fwLoad.total ∧ BitVec.toNat (crc32c fwLoad.data) = fwLoad.crc ∧ relayOn imaged = false) ∧
    (showing = advance call.t showing ∧ Ready 1172 call showing ∧ fwLoad.total ≤ 262144 ∧ fwLoad.offset % 96 = 0 ∧ fwLoad.data.length ≤ 65536 ∧
       fwLoad.data ≠ [] ∧ fwLoad.offset + fwLoad.data.length ≤ fwLoad.total ∧ BitVec.toNat (crc32c fwLoad.data) = fwLoad.crc ∧
       relayOn showing = false ∧ showing.rad.image ≠ fwLoad.image) ∧
    (showing = advance call.t showing ∧ Ready 1172 call showing ∧ ({ fwLoad with crc := 1 } : RadioFwLoad).total ≤ 262144 ∧
       ({ fwLoad with crc := 1 } : RadioFwLoad).offset % 96 = 0 ∧ ({ fwLoad with crc := 1 } : RadioFwLoad).data.length ≤ 65536 ∧
       ({ fwLoad with crc := 1 } : RadioFwLoad).data ≠ [] ∧
       ({ fwLoad with crc := 1 } : RadioFwLoad).offset + ({ fwLoad with crc := 1 } : RadioFwLoad).data.length ≤ ({ fwLoad with crc := 1 } : RadioFwLoad).total ∧
       BitVec.toNat (crc32c ({ fwLoad with crc := 1 } : RadioFwLoad).data) ≠ ({ fwLoad with crc := 1 } : RadioFwLoad).crc) ∧
    ((relaying true 0) = advance call.t (relaying true 0) ∧ Ready 1173 call (relaying true 0) ∧
       ({ fwStart with action := 0 } : RadioFwStart).action = 0) ∧
    (imaged = advance call.t imaged ∧ Ready 1173 call imaged ∧ fwStart.action = 1 ∧ 1 ≤ fwStart.share ∧ fwStart.share ≤ 50 ∧ 1 ≤ fwStart.mask ∧
       fwStart.mask ≤ 3 ∧ (fwStart.group = 65535 ∨ fwStart.group ≤ 4095) ∧ imaged.rad.image = fwStart.image ∧ imageWhole imaged = true ∧
       BitVec.toNat (crc32c (imageBytes imaged)) = fwStart.crc ∧ imaged.rad.relay = none) ∧
    (showing = advance call.t showing ∧ Ready 1173 call showing ∧ fwStart.action = 1 ∧ 1 ≤ fwStart.share ∧ fwStart.share ≤ 50 ∧ 1 ≤ fwStart.mask ∧
       fwStart.mask ≤ 3 ∧ (fwStart.group = 65535 ∨ fwStart.group ≤ 4095) ∧ showing.rad.image ≠ fwStart.image) := by
  simp only [advance_zero, advance_call, ready_iff, RegsWf, CellsWf]
  refine ⟨?_, ?_, ?_, ?_, ?_, ?_, ?_, ?_, ?_, ?_⟩ <;> decide +kernel

theorem witness_PairEventsAndCommands_1 :
    (RegsWf holdingOn.regs ∧ holdingOn = advance 0 holdingOn ∧ pairOn holdingOn = true ∧ member holdingOn 4 = true ∧
       (∀ (r : Nat), (leaseOf holdingOn 4).requestAt = some r → r + leaseNs holdingOn / 4 ≤ holdingOn.time.now) ∧ (holds holdingOn 4 = true ∨
       eligible holdingOn 4 = true)) ∧
    (RegsWf showing.regs ∧ showing = advance 0 showing ∧ (pairOn showing = false ∨ member showing 4 = false ∨ holds showing 4 = false ∧
       eligible showing 4 = false)) ∧
    (RegsWf pair.regs ∧ pair = advance 0 pair ∧ (pairOn pair = false ∨ member pair 4 = false ∨ holds pair 4 = false ∧ eligible pair 4 = false)) ∧
    (RegsWf holding.regs ∧ holding = advance 0 holding ∧ holds holding 4 = true ∧ (leaseOf holding 4).till ≤ holding.time.now ∧
       holding.power.mode = Mode.show ∧ (∀ (h : Fin 16), h ≠ 4 → holds holding ↑h = false)) ∧
    (RegsWf pair.regs ∧ pair = advance 0 pair ∧ (holds pair 4 = false ∨ pair.time.now < (leaseOf pair 4).till)) ∧
    (RegsWf holdingOn.regs ∧ holdingOn = advance 0 holdingOn ∧ (holds holdingOn 4 = false ∨ holdingOn.time.now < (leaseOf holdingOn 4).till)) ∧
    (RegsWf showing.regs ∧ showing = advance 0 showing ∧ pairOn showing = false) ∧
    (RegsWf pair.regs ∧ pair = advance 0 pair ∧ pairOn pair = true ∧ ({ grant with tagOk := false } : LeaseFrame).tagOk = false) ∧
    (RegsWf (keyed requesting).regs ∧ (keyed requesting) = advance 0 (keyed requesting) ∧ pairOn (keyed requesting) = true ∧ grant.tagOk = true ∧
       pairSlot (keyed requesting) ≠ none ∧ grant.magicOk = true ∧ grant.version = 1 ∧ grant.pair = bits (reg (keyed requesting) R.ESC_LEASE) 31 16 ∧
       grant.device = 255 ∧ grant.group ≤ 15 ∧ grant.type = 2 ∧ 20 ≤ grant.duration ∧ grant.duration ≤ 1000 ∧
       List.find? (fun r ↦ r.fst == grant.answers) (leaseOf (keyed requesting) grant.group).requests = some (8, 999990000000) ∧
       (keyed requesting).time.now < (8, 999990000000).snd + grant.duration * 999000 ∧ holds (keyed requesting) grant.group = false ∧
       (keyed requesting).power.mode = Mode.spare) ∧
    (RegsWf (keyed holdingOn).regs ∧ (keyed holdingOn) = advance 0 (keyed holdingOn) ∧ pairOn (keyed holdingOn) = true ∧ grant.tagOk = true ∧
       pairSlot (keyed holdingOn) ≠ none ∧ grant.magicOk = true ∧ grant.version = 1 ∧ grant.pair = bits (reg (keyed holdingOn) R.ESC_LEASE) 31 16 ∧
       grant.device = 255 ∧ grant.group ≤ 15 ∧ grant.type = 2 ∧ 20 ≤ grant.duration ∧ grant.duration ≤ 1000 ∧
       List.find? (fun r ↦ r.fst == grant.answers) (leaseOf (keyed holdingOn) grant.group).requests = some (8, 999990000000) ∧
       (keyed holdingOn).time.now < (8, 999990000000).snd + grant.duration * 999000 ∧ holds (keyed holdingOn) grant.group = true) := by
  simp only [advance_zero, advance_call, ready_iff, RegsWf, CellsWf]
  refine ⟨?_, ?_, ?_, ?_, ?_, ?_, ?_, ?_, ?_, ?_⟩ <;> decide +kernel

theorem witness_PairEventsAndCommands_2 :
    (RegsWf (keyed holdingOn).regs ∧ (keyed holdingOn) = advance 0 (keyed holdingOn) ∧ pairOn (keyed holdingOn) = true ∧
       ({ grant with type := 3 } : LeaseFrame).tagOk = true ∧ pairSlot (keyed holdingOn) ≠ none ∧
       ({ grant with type := 3 } : LeaseFrame).magicOk = true ∧ ({ grant with type := 3 } : LeaseFrame).version = 1 ∧
       ({ grant with type := 3 } : LeaseFrame).pair = bits (reg (keyed holdingOn) R.ESC_LEASE) 31 16 ∧
       ({ grant with type := 3 } : LeaseFrame).device = 255 ∧ ({ grant with type := 3 } : LeaseFrame).group ≤ 15 ∧
       ({ grant with type := 3 } : LeaseFrame).type = 3 ∧ holds (keyed holdingOn) ({ grant with type := 3 } : LeaseFrame).group = true) ∧
    (RegsWf (keyed pair).regs ∧ (keyed pair) = advance 0 (keyed pair) ∧ pairOn (keyed pair) = true ∧
       ({ grant with type := 4 } : LeaseFrame).tagOk = true ∧ pairSlot (keyed pair) ≠ none ∧ ({ grant with type := 4 } : LeaseFrame).magicOk = true ∧
       ({ grant with type := 4 } : LeaseFrame).version = 1 ∧
       ({ grant with type := 4 } : LeaseFrame).pair = bits (reg (keyed pair) R.ESC_LEASE) 31 16 ∧
       ({ grant with type := 4 } : LeaseFrame).device = 255 ∧ ({ grant with type := 4 } : LeaseFrame).group ≤ 15 ∧
       ({ grant with type := 4 } : LeaseFrame).type ≠ 2 ∧ ({ grant with type := 4 } : LeaseFrame).type ≠ 3) ∧
    (RegsWf (keyed pair).regs ∧ (keyed pair) = advance 0 (keyed pair) ∧ pairOn (keyed pair) = true ∧
       ({ grant with version := 2 } : LeaseFrame).tagOk = true ∧ pairSlot (keyed pair) ≠ none ∧
       (({ grant with version := 2 } : LeaseFrame).magicOk = false ∨ ({ grant with version := 2 } : LeaseFrame).version ≠ 1 ∨
       ({ grant with version := 2 } : LeaseFrame).pair ≠ bits (reg (keyed pair) R.ESC_LEASE) 31 16 ∨
       ({ grant with version := 2 } : LeaseFrame).device ≠ 255)) ∧
    (RegsWf pair.regs ∧ pair = advance 0 pair ∧ pair.esc.writeDue = none) ∧
    (RegsWf writing.regs ∧ writing = advance 0 writing ∧ writing.esc.writeDue = some 10 ∧ (pairOn writing = false ∨ heldMask writing = 0)) ∧
    (RegsWf writingHeld.regs ∧ writingHeld = advance 0 writingHeld ∧ writingHeld.esc.writeDue = some 10 ∧ pairOn writingHeld = true ∧
       heldMask writingHeld ≠ 0 ∧ poolRoom writingHeld 1 = true) ∧
    (RegsWf showing.regs ∧ showing = advance 0 showing ∧ (readFragment (frag 1 1)) = readFragment (frag 1 1) ∧ pairOn showing = false) ∧
    (RegsWf pair.regs ∧ pair = advance 0 pair ∧ (readFragment badFrag) = readFragment badFrag ∧ pairOn pair = true ∧
       (readFragment badFrag).crcOk = false) ∧
    (RegsWf pair.regs ∧ pair = advance 0 pair ∧ (readFragment (frag 1 1)) = readFragment (frag 1 1) ∧ pairOn pair = true ∧
       (readFragment (frag 1 1)).crcOk = true ∧ fromPartner pair (readFragment (frag 1 1)) = true ∧ (readFragment (frag 1 1)).type = 1 ∧
       2 ≤ (readFragment (frag 1 1)).count ∧ (readFragment (frag 1 1)).count ≤ 512 ∧
       (readFragment (frag 1 1)).index < (readFragment (frag 1 1)).count ∧ (readFragment (frag 1 1)).data.length ≤ 8192 ∧
       (∀ (r : Word × EscRecord), pair.esc.record = some r → r.fst ≠ (readFragment (frag 1 1)).record) ∧
       st64 pair ≤ frameAt pair (nearFrame pair (readFragment (frag 1 1)).frame + 3) ∧ pair.esc.build = none) ∧
    (RegsWf pair.regs ∧ pair = advance 0 pair ∧ pair.esc.build = none ∧ pair.esc.record = none) := by
  simp only [advance_zero, advance_call, ready_iff, RegsWf, CellsWf]
  refine ⟨?_, ?_, ?_, ?_, ?_, ?_, ?_, ?_, ?_, ?_⟩ <;> decide +kernel

theorem witness_PairEventsAndCommands_3 :
    (RegsWf building.regs ∧ building = advance 0 building ∧ building.esc.build = some (⟨5, 7, 2, [(0, [1])]⟩ : EscBuild) ∧
       building.esc.record = none ∧ frameAt building ((⟨5, 7, 2, [(0, [1])]⟩ : EscBuild).k + 3) ≤ st64 building) ∧
    (RegsWf staleRecord.regs ∧ staleRecord = advance 0 staleRecord ∧ staleRecord.esc.build = none ∧ staleRecord.esc.record = some (5, escRec) ∧
       staleRecord.esc.stale = false ∧ recordFresh staleRecord (5, escRec).snd = false) ∧
    (RegsWf probed.regs ∧ probed = advance 0 probed ∧ (pairOn probed = false ∨ ∃ d, probed.esc.probeAt = some d ∧ probed.time.now < d + 250000000)) ∧
    (RegsWf showing.regs ∧ showing = advance 0 showing ∧ (pairOn showing = false ∨ ∃ d, showing.esc.probeAt = some d ∧
       showing.time.now < d + 250000000)) ∧
    (RegsWf pair.regs ∧ pair = advance 0 pair ∧ pairOn pair = true ∧ (∀ (d : Nat), pair.esc.probeAt = some d → d + 250000000 ≤ pair.time.now)) ∧
    (RegsWf showing.regs ∧ showing = advance 0 showing ∧ (readFragment (frag 3 1)) = readFragment (frag 3 1) ∧ pairOn showing = false) ∧
    (RegsWf pair.regs ∧ pair = advance 0 pair ∧ pairOn pair = true ∧ (readFragment badFrag).crcOk = false) ∧
    (RegsWf pair.regs ∧ pair = advance 0 pair ∧ (readFragment (frag 3 1)) = readFragment (frag 3 1) ∧ pairOn pair = true ∧
       (readFragment (frag 3 1)).crcOk = true ∧ fromPartner pair (readFragment (frag 3 1)) = true ∧ (readFragment (frag 3 1)).type = 3 ∧
       82 ≤ bits (reg pair (R.MAC_MTU 2)) 13 0 ∧ (vGet (portOf pair 2).queues 6 []).length < 256 ∧ (∀ g ∈ (portOf pair 2).waiting, g.queue ≠ 6)) ∧
    (RegsWf (probing 999999000000 3).regs ∧ (probing 999999000000 3) = advance 0 (probing 999999000000 3) ∧
       (readFragment (frag 4 1)) = readFragment (frag 4 1) ∧ pairOn (probing 999999000000 3) = true ∧ (readFragment (frag 4 1)).crcOk = true ∧
       fromPartner (probing 999999000000 3) (readFragment (frag 4 1)) = true ∧ (readFragment (frag 4 1)).type = 4 ∧
       aFind (probing 999999000000 3).esc.probes 2 = some (5, 999999000000) ∧ 5 = (readFragment (frag 4 1)).record ∧
       (probing 999999000000 3).time.now < 999999000000 + 10000000 ∧ 3 ≤ missesOf (probing 999999000000 3) 2) ∧
    (RegsWf pair.regs ∧ pair = advance 0 pair ∧ (readFragment (frag 1 1)) = readFragment (frag 1 1) ∧ pairOn pair = true ∧
       (readFragment (frag 1 1)).crcOk = true ∧ (readFragment (frag 1 1)).type ≠ 3 ∧ (readFragment (frag 1 1)).type ≠ 4) ∧
    (RegsWf (probing 900000000000 2).regs ∧ (probing 900000000000 2) = advance 0 (probing 900000000000 2) ∧
       aFind (probing 900000000000 2).esc.probes 2 = some (5, 900000000000) ∧ 900000000000 + 10000000 ≤ (probing 900000000000 2).time.now ∧
       missesOf (probing 900000000000 2) 2 = 2) := by
  simp only [advance_zero, advance_call, ready_iff, RegsWf, CellsWf]
  refine ⟨?_, ?_, ?_, ?_, ?_, ?_, ?_, ?_, ?_, ?_, ?_⟩ <;> decide +kernel

theorem witness_PairEventsAndCommands_4 :
    (RegsWf (probing 900000000000 7).regs ∧ (probing 900000000000 7) = advance 0 (probing 900000000000 7) ∧
       aFind (probing 900000000000 7).esc.probes 2 = some (5, 900000000000) ∧ 900000000000 + 10000000 ≤ (probing 900000000000 7).time.now ∧
       missesOf (probing 900000000000 7) 2 ≠ 2) ∧
    (RegsWf (probing 999999000000 2).regs ∧ (probing 999999000000 2) = advance 0 (probing 999999000000 2) ∧
       aFind (probing 999999000000 2).esc.probes 2 = some (5, 999999000000) ∧ (probing 999999000000 2).time.now < 999999000000 + 10000000) ∧
    (RegsWf pair.regs ∧ pair = advance 0 pair ∧ aFind pair.esc.probes 2 = none) ∧
    (diag = advance call.t diag ∧ Ready 1184 call diag ∧ pairSetOk pairMsg = true ∧ escPortFree diag pairMsg = true ∧ pairMsg.pair < 65536 ∧ pairMsg.member < 65536) ∧
    (diag = advance call.t diag ∧ Ready 1184 call diag ∧ pairSetOk ({ pairMsg with leaseMs := 1001 } : PairSet) = false) ∧
    (escPortUsed = advance call.t escPortUsed ∧ Ready 1184 call escPortUsed ∧ escPortFree escPortUsed pairMsg = false) ∧
    (holdingOn = advance call.t holdingOn ∧ Ready 1185 call holdingOn ∧ holdingOn.power.mode = Mode.show ∧ heldMask holdingOn ≠ 0 ∧
       (∀ (g : Fin 16), holds holdingOn ↑g = true → nBit 65535 ↑g = true)) ∧
    (pair = advance call.t pair ∧ Ready 1185 call pair) := by
  simp only [advance_zero, advance_call, ready_iff, RegsWf, CellsWf]
  refine ⟨?_, ?_, ?_, ?_, ?_, ?_, ?_, ?_⟩ <;> decide +kernel

theorem witness_PcieSession_1 :
    (RegsWf noPd13.regs ∧ noPd13 = advance 0 noPd13 ∧ domainUp noPd13 13 = false) ∧
    (RegsWf showing.regs ∧ showing = advance 0 showing ∧ domainUp showing 13 = true ∧ (2 - showing.teller.rings.cmdWr).toNat ≤ 32768) ∧
    (RegsWf showing.regs ∧ showing = advance 0 showing ∧ domainUp showing 13 = true ∧ 32768 < (32769 - showing.teller.rings.cmdWr).toNat) ∧
    (RegsWf showing.regs ∧ showing = advance 0 showing ∧ domainUp showing 13 = true) ∧
    (RegsWf showing.regs ∧ showing = advance 0 showing ∧ domainUp showing 13 = true ∧ (sess showing 0).rspWait = []) ∧
    (RegsWf showing.regs ∧ showing = advance 0 showing ∧ domainUp showing 13 = true ∧ (sess showing 0).isOpen = true) ∧
    (RegsWf noticingClosed.regs ∧ noticingClosed = advance 0 noticingClosed ∧ domainUp noticingClosed 13 = true ∧
       (sess noticingClosed 0).isOpen = false) ∧
    (RegsWf linked.regs ∧ linked = advance 0 linked ∧ domainUp linked 13 = true ∧ (LinkEvent.down = LinkEvent.down ∨
       LinkEvent.down = LinkEvent.perst) ∧ linked.teller.linkUp = true) ∧
    (RegsWf linked.regs ∧ linked = advance 0 linked ∧ domainUp linked 13 = true ∧ (LinkEvent.perst = LinkEvent.down ∨
       LinkEvent.perst = LinkEvent.perst) ∧ linked.teller.linkUp = true) ∧
    (RegsWf showing.regs ∧ showing = advance 0 showing ∧ domainUp showing 13 = true ∧ (LinkEvent.perst = LinkEvent.down ∨
       LinkEvent.perst = LinkEvent.perst) ∧ showing.teller.linkUp = false) := by
  simp only [advance_zero, advance_call, ready_iff, RegsWf, CellsWf]
  refine ⟨?_, ?_, ?_, ?_, ?_, ?_, ?_, ?_, ?_, ?_⟩ <;> decide +kernel

theorem witness_PcieSession_2 :
    (RegsWf noticing.regs ∧ noticing = advance 0 noticing ∧ (sess noticing 0).queue = [(note, 999000000000)] ∧ (sess noticing 0).lost = 0 ∧
       (sess noticing 0).isOpen = true ∧ msgUnits note.len ≤ ntcRoom noticing.teller.rings) ∧
    (RegsWf noticingFull.regs ∧ noticingFull = advance 0 noticingFull ∧ (sess noticingFull 0).queue = [(note, 999000000000)] ∧
       (sess noticingFull 0).lost = 0 ∧ ((sess noticingFull 0).isOpen = false ∨ ntcRoom noticingFull.teller.rings < msgUnits note.len)) ∧
    (RegsWf noticingClosed.regs ∧ noticingClosed = advance 0 noticingClosed ∧ (sess noticingClosed 0).queue = [(note, 999000000000)] ∧
       (sess noticingClosed 0).lost = 0 ∧ ((sess noticingClosed 0).isOpen = false ∨ ntcRoom noticingClosed.teller.rings < msgUnits note.len)) ∧
    (RegsWf showing.regs ∧ showing = advance 0 showing ∧ (sess showing 0).queue = [] ∧ (sess showing 0).lost = 0) := by
  simp only [advance_zero, advance_call, ready_iff, RegsWf, CellsWf]
  refine ⟨?_, ?_, ?_, ?_⟩ <;> decide +kernel

theorem witness_CommandTaken :
    (RegsWf (inboxed (msg 6 2 0 8)).regs ∧ (inboxed (msg 6 2 0 8)) = advance 0 (inboxed (msg 6 2 0 8)) ∧ tellerRuns (inboxed (msg 6 2 0 8)) = true ∧
       (sess (inboxed (msg 6 2 0 8)) 0).isOpen = true ∧ (sess (inboxed (msg 6 2 0 8)) 0).outstanding = none ∧
       (sess (inboxed (msg 6 2 0 8)) 0).inbox = [((msg 6 2 0 8), soon)] ∧ (0 = 0 → (inboxed (msg 6 2 0 8)).teller.rings.ringErr = false ∧
       (inboxed (msg 6 2 0 8)).teller.rings.cmdWr ≠ (inboxed (msg 6 2 0 8)).teller.rings.cmdRd ∧ msgIntact (msg 6 2 0 8) = true ∧
       msgUnits (msg 6 2 0 8).length ≤ ((inboxed (msg 6 2 0 8)).teller.rings.cmdWr - (inboxed (msg 6 2 0 8)).teller.rings.cmdRd).toNat ∧
       msgUnits (largestResponse (msg 6 2 0 8).code) ≤ rspRoom (inboxed (msg 6 2 0 8)).teller.rings) ∧ (0 ≠ 0 →
       (sess (inboxed (msg 6 2 0 8)) 0).lost = 0) ∧ versionOk (msg 6 2 0 8).version = true ∧
       judgeSeq (sess (inboxed (msg 6 2 0 8)) 0).last (msg 6 2 0 8).seq = Verdict.new ∧
       codeDesc (msg 6 2 0 8).code = some (⟨0x0002, 0, 0, 1, 1024, 1024⟩ : CodeDesc) ∧
       (⟨0x0002, 0, 0, 1, 1024, 1024⟩ : CodeDesc).cls = (msg 6 2 0 8).cls ∧ (codeIsRadio (msg 6 2 0 8).code = true →
       (inboxed (msg 6 2 0 8)).part = Part.rk9200) ∧ modeOk (msg 6 2 0 8).code (inboxed (msg 6 2 0 8)).power.mode = true ∧
       lengthFits (⟨0x0002, 0, 0, 1, 1024, 1024⟩ : CodeDesc) (msg 6 2 0 8).length = true) ∧
    (RegsWf inboxedUdp.regs ∧ inboxedUdp = advance 0 inboxedUdp ∧ tellerRuns inboxedUdp = true ∧ (sess inboxedUdp 2).isOpen = true ∧
       (sess inboxedUdp 2).outstanding = none ∧ (sess inboxedUdp 2).inbox = [((msg 6 2 0 8), soon)] ∧ (2 = 0 →
       inboxedUdp.teller.rings.ringErr = false ∧ inboxedUdp.teller.rings.cmdWr ≠ inboxedUdp.teller.rings.cmdRd ∧ msgIntact (msg 6 2 0 8) = true ∧
       msgUnits (msg 6 2 0 8).length ≤ (inboxedUdp.teller.rings.cmdWr - inboxedUdp.teller.rings.cmdRd).toNat ∧
       msgUnits (largestResponse (msg 6 2 0 8).code) ≤ rspRoom inboxedUdp.teller.rings) ∧ (2 ≠ 0 → (sess inboxedUdp 2).lost = 0) ∧
       versionOk (msg 6 2 0 8).version = true ∧ judgeSeq (sess inboxedUdp 2).last (msg 6 2 0 8).seq = Verdict.new ∧
       codeDesc (msg 6 2 0 8).code = some (⟨0x0002, 0, 0, 1, 1024, 1024⟩ : CodeDesc) ∧
       (⟨0x0002, 0, 0, 1, 1024, 1024⟩ : CodeDesc).cls = (msg 6 2 0 8).cls ∧ (codeIsRadio (msg 6 2 0 8).code = true → inboxedUdp.part = Part.rk9200) ∧
       modeOk (msg 6 2 0 8).code inboxedUdp.power.mode = true ∧ lengthFits (⟨0x0002, 0, 0, 1, 1024, 1024⟩ : CodeDesc) (msg 6 2 0 8).length = true) ∧
    (RegsWf (inboxed (msg 7 2 0 8)).regs ∧ (inboxed (msg 7 2 0 8)) = advance 0 (inboxed (msg 7 2 0 8)) ∧ tellerRuns (inboxed (msg 7 2 0 8)) = true ∧
       (sess (inboxed (msg 7 2 0 8)) 0).isOpen = true ∧ (sess (inboxed (msg 7 2 0 8)) 0).outstanding = none ∧
       (sess (inboxed (msg 7 2 0 8)) 0).inbox = [((msg 7 2 0 8), soon)] ∧ (0 = 0 → (inboxed (msg 7 2 0 8)).teller.rings.ringErr = false ∧
       (inboxed (msg 7 2 0 8)).teller.rings.cmdWr ≠ (inboxed (msg 7 2 0 8)).teller.rings.cmdRd ∧ msgIntact (msg 7 2 0 8) = true ∧
       msgUnits (msg 7 2 0 8).length ≤ ((inboxed (msg 7 2 0 8)).teller.rings.cmdWr - (inboxed (msg 7 2 0 8)).teller.rings.cmdRd).toNat ∧
       msgUnits (largestResponse (msg 7 2 0 8).code) ≤ rspRoom (inboxed (msg 7 2 0 8)).teller.rings) ∧ (0 ≠ 0 →
       (sess (inboxed (msg 7 2 0 8)) 0).lost = 0) ∧ versionOk (msg 7 2 0 8).version = true ∧
       judgeSeq (sess (inboxed (msg 7 2 0 8)) 0).last (msg 7 2 0 8).seq = Verdict.gap) ∧
    (RegsWf (inboxed (msg 5 2 0 8)).regs ∧ (inboxed (msg 5 2 0 8)) = advance 0 (inboxed (msg 5 2 0 8)) ∧ tellerRuns (inboxed (msg 5 2 0 8)) = true ∧
       (sess (inboxed (msg 5 2 0 8)) 0).isOpen = true ∧ (sess (inboxed (msg 5 2 0 8)) 0).outstanding = none ∧
       (sess (inboxed (msg 5 2 0 8)) 0).inbox = [((msg 5 2 0 8), soon)] ∧ (0 = 0 → (inboxed (msg 5 2 0 8)).teller.rings.ringErr = false ∧
       (inboxed (msg 5 2 0 8)).teller.rings.cmdWr ≠ (inboxed (msg 5 2 0 8)).teller.rings.cmdRd ∧ msgIntact (msg 5 2 0 8) = true ∧
       msgUnits (msg 5 2 0 8).length ≤ ((inboxed (msg 5 2 0 8)).teller.rings.cmdWr - (inboxed (msg 5 2 0 8)).teller.rings.cmdRd).toNat ∧
       msgUnits (largestResponse (msg 5 2 0 8).code) ≤ rspRoom (inboxed (msg 5 2 0 8)).teller.rings) ∧ (0 ≠ 0 →
       (sess (inboxed (msg 5 2 0 8)) 0).lost = 0) ∧ versionOk (msg 5 2 0 8).version = true ∧
       judgeSeq (sess (inboxed (msg 5 2 0 8)) 0).last (msg 5 2 0 8).seq = Verdict.duplicate ∧
       List.find? (fun q ↦ q.seq == (msg 5 2 0 8).seq) (sess (inboxed (msg 5 2 0 8)) 0).cache = some (⟨5, 2, .ok, false, 0, 1, 0, []⟩ : Resp)) ∧
    ((tellerRuns showing = false ∨ (sess showing 0).isOpen = false ∨ (sess showing 0).outstanding ≠ none ∨ (sess showing 0).inbox = [])) ∧
    (showing = advance call.t showing ∧ Ready 3 call showing) ∧
    (showing = advance call.t showing ∧ RegsWf showing.regs ∧ tellerRuns showing = true ∧ (sess showing ↑call.session).isOpen = true) ∧
    (sleeping = advance call.t sleeping ∧ (tellerRuns sleeping = false ∨ (sess sleeping ↑call.session).isOpen = false)) ∧
    (noticingClosed = advance call.t noticingClosed ∧ (tellerRuns noticingClosed = false ∨ (sess noticingClosed ↑call.session).isOpen = false)) := by
  simp only [advance_zero, advance_call, ready_iff, RegsWf, CellsWf]
  refine ⟨?_, ?_, ?_, ?_, ?_, ?_, ?_, ?_, ?_⟩ <;> decide +kernel

theorem witness_UdpSessions_1 :
    (RegsWf keys.regs ∧ keys = advance 0 keys ∧ (tellerRuns keys = false ∨ ({ hello with headOk := false } : Datagram).headOk = false ∨ listens keys ({ hello with headOk := false } : Datagram) = false)) ∧
    (RegsWf keys.regs ∧ keys = advance 0 keys ∧ listens keys ({ hello with dstPort := tellerPort + 1 } : Datagram) = false) ∧
    (RegsWf keys.regs ∧ keys = advance 0 keys ∧ tellerRuns keys = true ∧ hello.headOk = true ∧ listens keys hello = true ∧ hello.type = 1 ∧ keys.vlt.error = false ∧
       mgmtKey keys hello.keyId = true ∧ helloSlot keys = some 1) ∧
    (RegsWf udpHalf.regs ∧ udpHalf = advance 0 udpHalf ∧ tellerRuns udpHalf = true ∧ confirmDg.headOk = true ∧ listens udpHalf confirmDg = true ∧ confirmDg.type = 3 ∧
       udpSession udpHalf true confirmDg.session = some 2 ∧ confirmDg.tagOk = true ∧ confirmDg.counter = 0) ∧
    (RegsWf (udpOpen id).regs ∧ (udpOpen id) = advance 0 (udpOpen id) ∧ tellerRuns (udpOpen id) = true ∧ commandDg7.headOk = true ∧ listens (udpOpen id) commandDg7 = true ∧
       udpSession (udpOpen id) false commandDg7.session = some 2 ∧ commandDg7.tagOk = true ∧
       counterOk (sess (udpOpen id) 2) commandDg7.counter = true ∧ commandDg7.counter < 4294967296 ∧ commandDg7.type = 4 ∧ commandDg7.count = 1 ∧
       commandDg7.index = 0 ∧ (sess (udpOpen id) 2).assembling = [] ∧ msgIntact commandDg7.msg = true) ∧
    (RegsWf (udpOpen id).regs ∧ (udpOpen id) = advance 0 (udpOpen id) ∧ tellerRuns (udpOpen id) = true ∧ commandDg71.headOk = true ∧ listens (udpOpen id) commandDg71 = true ∧
       udpSession (udpOpen id) false commandDg71.session = some 2 ∧ commandDg71.tagOk = true ∧
       counterOk (sess (udpOpen id) 2) commandDg71.counter = true ∧ commandDg71.counter < 4294967296 ∧ commandDg71.type = 4 ∧ commandDg71.count = 1 ∧
       commandDg71.index = 0 ∧ (sess (udpOpen id) 2).assembling = [] ∧ msgIntact commandDg71.msg = true) ∧
    (RegsWf (udpOpen id).regs ∧ (udpOpen id) = advance 0 (udpOpen id) ∧ tellerRuns (udpOpen id) = true ∧ aliveDg71.headOk = true ∧ listens (udpOpen id) aliveDg71 = true ∧
       udpSession (udpOpen id) false aliveDg71.session = some 2 ∧ aliveDg71.tagOk = true ∧ counterOk (sess (udpOpen id) 2) aliveDg71.counter = true ∧
       aliveDg71.counter < 4294967296 ∧ aliveDg71.type = 5 ∧ (udpOpen id).lgr.freeze = none) ∧
    (RegsWf (udpOpen id).regs ∧ (udpOpen id) = advance 0 (udpOpen id) ∧ tellerRuns (udpOpen id) = true ∧ aliveDg70.headOk = true ∧ listens (udpOpen id) aliveDg70 = true ∧
       (aliveDg70.type = 4 ∨ aliveDg70.type = 5) ∧ (udpSession (udpOpen id) false aliveDg70.session = none ∨
       udpSession (udpOpen id) false aliveDg70.session = some 2 ∧ (aliveDg70.tagOk = false ∨
       counterOk (sess (udpOpen id) 2) aliveDg70.counter = false))) ∧
    (RegsWf (udpOpen id).regs ∧ (udpOpen id) = advance 0 (udpOpen id) ∧ tellerRuns (udpOpen id) = true ∧ commandDg6.headOk = true ∧ listens (udpOpen id) commandDg6 = true ∧
       (commandDg6.type = 4 ∨ commandDg6.type = 5) ∧ (udpSession (udpOpen id) false commandDg6.session = none ∨
       udpSession (udpOpen id) false commandDg6.session = some 2 ∧ (commandDg6.tagOk = false ∨
       counterOk (sess (udpOpen id) 2) commandDg6.counter = false))) ∧
    (RegsWf keys.regs ∧ keys = advance 0 keys ∧ tellerRuns keys = true ∧ commandDg6.headOk = true ∧ listens keys commandDg6 = true ∧ (commandDg6.type = 4 ∨ commandDg6.type = 5) ∧
       (udpSession keys false commandDg6.session = none ∨ udpSession keys false commandDg6.session = some 2 ∧ (commandDg6.tagOk = false ∨
       counterOk (sess keys 2) commandDg6.counter = false))) ∧
    (RegsWf udpStale.regs ∧ udpStale = advance 0 udpStale ∧ 2 ≠ 0 ∧ (sess udpStale 2).isOpen = true ∧
       (sess udpStale 2).lastValid + 30000000000 ≤ udpStale.time.now ∧ udpStale.lgr.freeze = none) := by
  simp only [advance_zero, advance_call, ready_iff, RegsWf, CellsWf]
  refine ⟨?_, ?_, ?_, ?_, ?_, ?_, ?_, ?_, ?_, ?_, ?_⟩ <;> decide +kernel

theorem witness_UdpSessions_2 :
    (RegsWf (udpOpen id).regs ∧ (udpOpen id) = advance 0 (udpOpen id) ∧ 2 ≠ 0 ∧ (sess (udpOpen id) 2).isOpen = true ∧
       (udpOpen id).time.now < (sess (udpOpen id) 2).lastValid + 30000000000 ∧ udpSpent (sess (udpOpen id) 2) = false) ∧
    (RegsWf udpAssembling.regs ∧ udpAssembling = advance 0 udpAssembling) ∧
    (RegsWf udpNoticing.regs ∧ udpNoticing = advance 0 udpNoticing ∧ 2 ≠ 0 ∧ (sess udpNoticing 2).isOpen = true ∧
       (sess udpNoticing 2).queue = [(note, 999900000000)] ∧ (sess udpNoticing 2).lost = 0 ∧ 999900000000 + 100000000 ≤ udpNoticing.time.now ∧
       (sess udpNoticing 2).txNext + ceilDiv (32 + note.len) 1400 ≤ 4294967296) ∧
    (RegsWf showing.regs ∧ showing = advance 0 showing ∧ (∀ (i : Fin 5), ↑i ≠ 0 → (sess showing ↑i).isOpen = false)) := by
  simp only [advance_zero, advance_call, ready_iff, RegsWf, CellsWf]
  refine ⟨?_, ?_, ?_, ?_⟩ <;> decide +kernel

theorem witness_CommitsAndShowStart_1 :
    (showing = advance call.t showing ∧ Ready 16 call showing ∧ showing.teller.openCommit = none) ∧
    (openedOwn = advance call.t openedOwn ∧ Ready 16 call openedOwn ∧ openedOwn.teller.openCommit ≠ none) ∧
    (openedOwn = advance call.t openedOwn ∧ Ready 18 call openedOwn ∧ openedOwn.teller.openCommit = some (⟨0, [], 0⟩ : OpenCommit) ∧
       (⟨0, [], 0⟩ : OpenCommit).owner = call.session) ∧
    (showing = advance call.t showing ∧ Ready 18 call showing ∧ showing.teller.openCommit = none) ∧
    (staged = advance call.t staged ∧ Ready 19 call staged ∧ (∃ g, g ∈ staged.teller.stages ∧ g.id = 4)) ∧
    (staged = advance call.t staged ∧ Ready 19 call staged ∧ (∀ (g : Stage), g ∈ staged.teller.stages → g.id ≠ 5)) ∧
    (showing = advance call.t showing ∧ Ready 17 call showing ∧ showing.teller.openCommit = none) ∧
    (openedBad = advance call.t openedBad ∧ Ready 17 call openedBad ∧ openedBad.teller.openCommit = some badCommit ∧ badCommit.owner = call.session ∧
       closedBad = { openedBad with teller := { openedBad.teller with openCommit := none } } ∧ nBit (⟨0, 0, 12⟩ : CommitSet).flags 0 = false ∧
       validate closedBad (commitDraft openedBad badCommit.msgs) badCommit.msgs = some (2, [255, 1, 0, 15, 16384])) ∧
    (openedOwn = advance call.t openedOwn ∧ Ready 17 call openedOwn ∧ openedOwn.teller.openCommit = some (⟨0, [], 0⟩ : OpenCommit) ∧
       (⟨0, [], 0⟩ : OpenCommit).owner = call.session ∧ closedOwn = { openedOwn with teller := { openedOwn.teller with openCommit := none } } ∧
       nBit (⟨1, 9, 12⟩ : CommitSet).flags 0 = true ∧ stageHeld openedOwn (⟨1, 9, 12⟩ : CommitSet).stageId = false ∧
       openedOwn.teller.stages.length < 16 ∧
       validate closedOwn (commitDraft openedOwn (⟨0, [], 0⟩ : OpenCommit).msgs) (⟨0, [], 0⟩ : OpenCommit).msgs = none) ∧
    (openedOwn = advance call.t openedOwn ∧ Ready 17 call openedOwn ∧ openedOwn.teller.openCommit = some (⟨0, [], 0⟩ : OpenCommit) ∧
       (⟨0, [], 0⟩ : OpenCommit).owner = call.session ∧ closedOwn = { openedOwn with teller := { openedOwn.teller with openCommit := none } } ∧
       nBit (⟨0, 9, 20⟩ : CommitSet).flags 0 = false ∧ openedOwn.time.running = true ∧
       validate closedOwn (commitDraft openedOwn (⟨0, [], 0⟩ : OpenCommit).msgs) (⟨0, [], 0⟩ : OpenCommit).msgs = none ∧
       placeCommit closedOwn (commitDraft openedOwn (⟨0, [], 0⟩ : OpenCommit).msgs) (⟨0, 9, 20⟩ : CommitSet).flags (⟨0, 9, 20⟩ : CommitSet).k (reachedSt call closedOwn) = (20, false, false) ∧
       (false = false ∨ nBit (⟨0, 9, 20⟩ : CommitSet).flags 1 = false) ∧ openedOwn.teller.accepted.length < 8 ∧ openedOwn.power.change = none) := by
  simp only [advance_zero, advance_call, ready_iff, RegsWf, CellsWf]
  refine ⟨?_, ?_, ?_, ?_, ?_, ?_, ?_, ?_, ?_, ?_⟩ <;> decide +kernel

theorem witness_CommitsAndShowStart_2 :
    (openedStill = advance call.t openedStill ∧ Ready 17 call openedStill ∧ openedStill.teller.openCommit = some (⟨0, [], 0⟩ : OpenCommit) ∧
       (⟨0, [], 0⟩ : OpenCommit).owner = call.session ∧ closedStill = { openedStill with teller := { openedStill.teller with openCommit := none } } ∧
       nBit (⟨0, 9, 20⟩ : CommitSet).flags 0 = false ∧ openedStill.time.running = false ∧
       validate closedStill (commitDraft openedStill (⟨0, [], 0⟩ : OpenCommit).msgs) (⟨0, [], 0⟩ : OpenCommit).msgs = none ∧
       openedStill.teller.accepted.length < 8 ∧
       takenStill = commitTake 0 0 (⟨0, 9, 20⟩ : CommitSet).stageId (⟨0, [], 0⟩ : OpenCommit).msgs none closedStill ∧ domainsReady takenStill = true) ∧
    (starting = advance 0 starting ∧ starting.time.running = false ∧ modeRuns starting.power.mode = true ∧ startReady starting = true ∧
       domainsReady starting = true ∧ starting.power.change = none ∧ sagBlocks starting = false ∧ starting.teller.accepted = [] ∧
       starting.power.thermal.level ≠ 2) ∧
    (showing = advance 0 showing ∧ (showing.time.running = true ∨ modeRuns showing.power.mode = false ∨ startReady showing = false ∨
       domainsReady showing = false ∨ showing.power.change ≠ none ∨ sagBlocks showing = true)) ∧
    ((live .show) = advance 0 (live .show) ∧ ((live .show).time.running = true ∨ modeRuns (live .show).power.mode = false ∨
       startReady (live .show) = false ∨ domainsReady (live .show) = false ∨ (live .show).power.change ≠ none ∨ sagBlocks (live .show) = true)) := by
  simp only [advance_zero, advance_call, ready_iff, RegsWf, CellsWf]
  refine ⟨?_, ?_, ?_, ?_⟩ <;> decide +kernel

theorem witness_PowerCommands_1 :
    ((provisioned showing) = advance call.t (provisioned showing) ∧ Ready 1280 call (provisioned showing) ∧
       modeRefused 8 (provisioned showing) = none ∧ modeOf 8 = some Mode.diagnose ∧ sleeps Mode.diagnose = false ∧
       sagBlocks (provisioned showing) = false ∧ modeRuns (provisioned showing).power.mode = true ∧ modeRuns Mode.diagnose = true ∧
       (provisioned showing).time.running = true) ∧
    ((provisioned (live .standby)) = advance call.t (provisioned (live .standby)) ∧ Ready 1280 call (provisioned (live .standby)) ∧
       modeRefused 5 (provisioned (live .standby)) = none ∧ modeOf 5 = some Mode.show ∧ sleeps Mode.show = false ∧
       sagBlocks (provisioned (live .standby)) = false ∧ (provisioned (live .standby)).time.running = false ∧
       pairOn (provisioned (live .standby)) = false) ∧
    ((provisioned (live .show)) = advance call.t (provisioned (live .show)) ∧ Ready 1280 call (provisioned (live .show)) ∧
       modeRefused 2 (provisioned (live .show)) = none ∧ modeOf 2 = some Mode.standby ∧ sleeps Mode.standby = false ∧
       sagBlocks (provisioned (live .show)) = false ∧ (provisioned (live .show)).time.running = false ∧ pairOn (provisioned (live .show)) = false) ∧
    (showing = advance call.t showing ∧ Ready 1280 call showing ∧ modeRefused 12 showing = some Status.invalidParameter) ∧
    (showing = advance call.t showing ∧ Ready 1280 call showing ∧ modeRefused 5 showing = some Status.wrongMode) ∧
    (showing = advance call.t showing ∧ Ready 1281 call showing) ∧
    (diag = advance call.t diag ∧ Ready 1282 call diag ∧ 3 ≤ 12 ∧ 12 ≤ 13 ∧ 1 ≤ 1 ∧ (12 = 12 → diag.part = Part.rk9200)) ∧
    (diag = advance call.t diag ∧ Ready 1282 call diag ∧ 3 ≤ 3 ∧ 3 ≤ 13 ∧ 0 ≤ 1 ∧ (3 = 12 → diag.part = Part.rk9200)) ∧
    (diag = advance call.t diag ∧ Ready 1282 call diag ∧ (2 < 3 ∨ 13 < 2 ∨ 1 < 1)) ∧
    (diag = advance call.t diag ∧ Ready 1282 call diag ∧ (13 < 3 ∨ 13 < 13 ∨ 1 < 2)) := by
  simp only [advance_zero, advance_call, ready_iff, RegsWf, CellsWf]
  refine ⟨?_, ?_, ?_, ?_, ?_, ?_, ?_, ?_, ?_, ?_⟩ <;> decide +kernel

theorem witness_PowerCommands_2 :
    (showing = advance call.t showing ∧ Ready 1283 call showing ∧ 80 ≤ (⟨95, 1000⟩ : PowerSagSet).w1Pct ∧ (⟨95, 1000⟩ : PowerSagSet).w1Pct ≤ 95 ∧
       (⟨95, 1000⟩ : PowerSagSet).holdMs ≤ 1000) ∧
    (showing = advance call.t showing ∧ Ready 1283 call showing ∧ ((⟨79, 1000⟩ : PowerSagSet).w1Pct < 80 ∨ 95 < (⟨79, 1000⟩ : PowerSagSet).w1Pct ∨
       1000 < (⟨79, 1000⟩ : PowerSagSet).holdMs)) ∧
    (showing = advance call.t showing ∧ Ready 1284 call showing ∧
       limitsOk (⟨1600, 1680, 1500, 1680⟩ : PowerThermalSet).showWarn (⟨1600, 1680, 1500, 1680⟩ : PowerThermalSet).showShed = true ∧
       limitsOk (⟨1600, 1680, 1500, 1680⟩ : PowerThermalSet).soakWarn (⟨1600, 1680, 1500, 1680⟩ : PowerThermalSet).soakShed = true) ∧
    (showing = advance call.t showing ∧ Ready 1284 call showing ∧
       (limitsOk (⟨1600, 1681, 1500, 1680⟩ : PowerThermalSet).showWarn (⟨1600, 1681, 1500, 1680⟩ : PowerThermalSet).showShed = false ∨
       limitsOk (⟨1600, 1681, 1500, 1680⟩ : PowerThermalSet).soakWarn (⟨1600, 1681, 1500, 1680⟩ : PowerThermalSet).soakShed = false)) ∧
    (showing = advance call.t showing ∧ Ready 1285 call showing) ∧
    (showing = advance call.t showing ∧ Ready 1288 call showing ∧ 1 ≤ 1) ∧
    (showing = advance call.t showing ∧ Ready 1288 call showing ∧ 0 ≤ 1) ∧
    (showing = advance call.t showing ∧ Ready 1288 call showing ∧ (1 < 2 ∨ 1 < 0)) := by
  simp only [advance_zero, advance_call, ready_iff, RegsWf, CellsWf]
  refine ⟨?_, ?_, ?_, ?_, ?_, ?_, ?_, ?_⟩ <;> decide +kernel

theorem witness_PowerEvents_1 :
    (RegsWf risingDom.regs ∧ risingDom = advance 0 risingDom ∧ (domState risingDom 5 = DomState.goingUp ∨
       domState risingDom 5 = DomState.goingDown) ∧ domState risingDom 5 = DomState.goingUp) ∧
    (RegsWf fallingDom.regs ∧ fallingDom = advance 0 fallingDom ∧ (domState fallingDom 5 = DomState.goingUp ∨
       domState fallingDom 5 = DomState.goingDown) ∧ domState fallingDom 5 = DomState.goingDown) ∧
    (RegsWf showing.regs ∧ showing = advance 0 showing ∧ domState showing 5 ≠ DomState.goingUp ∧ domState showing 5 ≠ DomState.goingDown ∧
       showing.teller.accepted = []) ∧
    (RegsWf (changing true).regs ∧ (changing true) = advance 0 (changing true) ∧ (changing true).power.change = some heldChange ∧
       heldChange.begun = true ∧ sagBlocks (changing true) = false ∧ modeRuns (changing true).power.mode = true ∧ modeRuns heldChange.to_ = true) ∧
    (RegsWf (changing false).regs ∧ (changing false) = advance 0 (changing false) ∧ (changing false).power.change = some freeChange ∧
       (freeChange.begun = false ∨ sagBlocks (changing false) = true)) ∧
    (RegsWf showing.regs ∧ showing = advance 0 showing ∧ showing.power.change = none) ∧
    (RegsWf (live .standby).regs ∧ (live .standby) = advance 0 (live .standby) ∧ domState (live .standby) 3 = DomState.on ∧ 2000 ≤ 5000 ∧
       8000 ≤ dramTol (live .standby)) ∧
    (RegsWf (live .standby).regs ∧ (live .standby) = advance 0 (live .standby) ∧ domState (live .standby) 3 = DomState.on ∧ 200 ≤ 500 ∧ (500 < 2000 ∨
       dramTol (live .standby) < 8000) ∧ 100 ≤ dramTol (live .standby) ∧ (live .standby).power.dram = 0) ∧
    (RegsWf showing.regs ∧ showing = advance 0 showing ∧ (domState showing 3 ≠ DomState.on ∨ 199 < 200)) ∧
    (RegsWf showing.regs ∧ showing = advance 0 showing ∧ domainUp showing 1 = true ∧ 10 * w1Pct showing ≤ 900) := by
  simp only [advance_zero, advance_call, ready_iff, RegsWf, CellsWf]
  refine ⟨?_, ?_, ?_, ?_, ?_, ?_, ?_, ?_, ?_, ?_⟩ <;> decide +kernel

theorem witness_PowerEvents_2 :
    (RegsWf (sagging (fun p => { p with hold := true })).regs ∧
       (sagging (fun p => { p with hold := true })) = advance 0 (sagging (fun p => { p with hold := true })) ∧
       domainUp (sagging (fun p => { p with hold := true })) 1 = true ∧ 700 < 10 * w1Pct (sagging (fun p => { p with hold := true })) ∧
       sagBlocks (sagging (fun p => { p with hold := true })) = true) ∧
    (RegsWf showing.regs ∧ showing = advance 0 showing ∧ domainUp showing 1 = true ∧ 700 < 10 * w1Pct showing ∧ sagBlocks showing = false ∧
       showing.time.running = true) ∧
    (RegsWf showing.regs ∧ showing = advance 0 showing ∧ domainUp showing 1 = true ∧ 900 ≤ 10 * w1Pct showing + 20) ∧
    (RegsWf showing.regs ∧ showing = advance 0 showing ∧ domainUp showing 1 = true ∧ 10 * w1Pct showing + 20 < 990 ∧ (showing.power.hold = false ∨
       showing.power.sagFlush = true)) ∧
    (RegsWf (sagging (fun p => { p with hold := true })).regs ∧
       (sagging (fun p => { p with hold := true })) = advance 0 (sagging (fun p => { p with hold := true })) ∧
       domainUp (sagging (fun p => { p with hold := true })) 1 = true ∧ 10 * w1Pct (sagging (fun p => { p with hold := true })) + 20 < 990 ∧
       (sagging (fun p => { p with hold := true })).power.hold = true ∧ (sagging (fun p => { p with hold := true })).power.sagFlush = false) ∧
    (RegsWf holdExpired.regs ∧ holdExpired = advance 0 holdExpired ∧ holdExpired.power.hold = true ∧ holdExpired.power.sagFlush = false ∧
       holdExpired.power.w1At + holdNs holdExpired ≤ holdExpired.time.now ∧ modeRuns holdExpired.power.mode = true) ∧
    (RegsWf showing.regs ∧ showing = advance 0 showing ∧ (showing.power.hold = false ∨ showing.power.sagFlush = true ∨
       showing.time.now < showing.power.w1At + holdNs showing)) ∧
    (RegsWf (thermal (fun x => { x with level := 2 })).regs ∧
       (thermal (fun x => { x with level := 2 })) = advance 0 (thermal (fun x => { x with level := 2 })) ∧
       (thermal (fun x => { x with level := 2 })).power.thermal.level = 2 ∧
       (thermal (fun x => { x with level := 2 })).power.thermal.lastShed + 1000000000 ≤ (thermal (fun x => { x with level := 2 })).time.now ∧
       (thermal (fun x => { x with level := 2 })).time.running = true ∧ (thermal (fun x => { x with level := 2 })).power.mode ≠ Mode.soak ∧
       nextShed (thermal (fun x => { x with level := 2 })).cfgB ((thermal (fun x => { x with level := 2 })).power.thermal.shedZones
         ++ aKeys (thermal (fun x => { x with level := 2 })).fxm.shed ++ (thermal (fun x => { x with level := 2 })).fxm.mapShed) = some 3) ∧
    (RegsWf shedThermal.regs ∧ shedThermal = advance 0 shedThermal ∧ shedThermal.power.thermal.level = 0 ∧ shedThermal.power.thermal.shedZones ≠ [] ∧
       shedThermal.power.thermal.lastCool + 10000000000 ≤ shedThermal.time.now) ∧
    (RegsWf (thermal (fun x => { x with level := 1 })).regs ∧
       (thermal (fun x => { x with level := 1 })) = advance 0 (thermal (fun x => { x with level := 1 })) ∧
       (thermal (fun x => { x with level := 1 })).power.thermal.level = 1) := by
  simp only [advance_zero, advance_call, ready_iff, RegsWf, CellsWf]
  refine ⟨?_, ?_, ?_, ?_, ?_, ?_, ?_, ?_, ?_, ?_⟩ <;> decide +kernel

theorem witness_PowerEvents_3 :
    (RegsWf showing.regs ∧ showing = advance 0 showing ∧ domainUp showing 1 = true ∧ (∀ (n : Nat), n < 24 → (List.replicate 24 640).getD n 0 < 1760)) ∧
    (RegsWf (aon showing).regs ∧ (aon showing) = advance 0 (aon showing) ∧ domainUp (aon showing) 1 = true ∧ 1 < 24 ∧ 1760 ≤ [1, 1760].getD 1 0) ∧
    (RegsWf showing.regs ∧ showing = advance 0 showing ∧ domainUp showing 1 = true) ∧
    (RegsWf avs.regs ∧ avs = advance 0 avs ∧ avs.power.avsOk = true ∧ avs.power.pwrGood = true ∧ avs.power.mode ≠ Mode.soak) ∧
    (RegsWf (sagging (fun p => { p with avsOk := false })).regs ∧
       (sagging (fun p => { p with avsOk := false })) = advance 0 (sagging (fun p => { p with avsOk := false })) ∧
       ((sagging (fun p => { p with avsOk := false })).power.avsOk = false ∨ (sagging (fun p => { p with avsOk := false })).power.pwrGood = false)) ∧
    (RegsWf showing.regs ∧ showing = advance 0 showing) := by
  simp only [advance_zero, advance_call, ready_iff, RegsWf, CellsWf]
  refine ⟨?_, ?_, ?_, ?_, ?_, ?_⟩ <;> decide +kernel

theorem witness_ResetsAndWakes_1 :
    (RegsWf (aon showing).regs ∧ (aon showing) = advance 0 (aon showing) ∧ (aon showing).power.aonEn = true) ∧
    (RegsWf showing.regs ∧ showing = advance 0 showing) ∧
    (RegsWf noAon.regs ∧ noAon = advance 0 noAon ∧ noAon.power.aonEn = false) ∧
    (RegsWf (aon showing).regs ∧ (aon showing) = advance 0 (aon showing) ∧ (aon showing).power.aonEn = true ∧ 1760 ≤ 1760) ∧
    (RegsWf showing.regs ∧ showing = advance 0 showing ∧ 1759 < 1760) ∧
    (RegsWf booting.regs ∧ booting = advance 0 booting ∧ booting.power.mode = Mode.boot ∧ domState booting 2 = DomState.on) ∧
    (RegsWf showing.regs ∧ showing = advance 0 showing ∧ tellerRuns showing = true ∧
       showing.power.dogAt + bits (reg showing R.PWR_WDOG) 15 0 * 1000000 ≤ showing.time.now) ∧
    (RegsWf dogRecent.regs ∧ dogRecent = advance 0 dogRecent ∧ tellerRuns dogRecent = true ∧
       dogRecent.time.now < dogRecent.power.dogAt + bits (reg dogRecent R.PWR_WDOG) 15 0 * 1000000) ∧
    (RegsWf showing.regs ∧ showing = advance 0 showing ∧ domState showing 2 = .on ∧ showing.power.mode ≠ .boot) ∧
    (RegsWf (live .boot).regs ∧ (live .boot) = advance 0 (live .boot) ∧ domState (live .boot) 2 = .on ∧ (live .boot).power.mode = .boot) ∧
    (RegsWf booting2.regs ∧ booting2 = advance 0 booting2 ∧ domState booting2 2 ≠ .on) := by
  simp only [advance_zero, advance_call, ready_iff, RegsWf, CellsWf]
  refine ⟨?_, ?_, ?_, ?_, ?_, ?_, ?_, ?_, ?_, ?_, ?_⟩ <;> decide +kernel

theorem witness_ResetsAndWakes_2 :
    (RegsWf restarting.regs ∧ restarting = advance 0 restarting ∧ restarting.power.restarting = true ∧
       (bootRom (⟨0, false, 0⟩ : BootPins) restarting).vlt.recovery = false ∧ (bootRom (⟨0, false, 0⟩ : BootPins) restarting).vlt.fallback = none) ∧
    (RegsWf restarting.regs ∧ restarting = advance 0 restarting ∧ restarting.power.restarting = true ∧ restarting.power.mode ≠ Mode.recovery ∧
       (bootRom (⟨1, false, 0⟩ : BootPins) restarting).vlt.recovery = true) ∧
    (RegsWf showing.regs ∧ showing = advance 0 showing ∧ showing.power.restarting = false) ∧
    (RegsWf (asleepIn .listen).regs ∧ (asleepIn .listen) = advance 0 (asleepIn .listen) ∧ asleep (asleepIn .listen) = true ∧
       (asleepIn .listen).power.wakeLatch = false ∧ bitOf (reg (asleepIn .listen) R.PWR_WAKE) 0 = true ∧
       alarmAt (asleepIn .listen) ≤ (asleepIn .listen).time.rtc ∧ (asleepIn .listen).power.mode = Mode.listen) ∧
    (RegsWf (asleepIn .hibernate).regs ∧ (asleepIn .hibernate) = advance 0 (asleepIn .hibernate) ∧ asleep (asleepIn .hibernate) = true ∧
       (asleepIn .hibernate).power.wakeLatch = false ∧ bitOf (reg (asleepIn .hibernate) R.PWR_WAKE) 0 = true ∧
       alarmAt (asleepIn .hibernate) ≤ (asleepIn .hibernate).time.rtc ∧ (asleepIn .hibernate).power.mode = Mode.hibernate) ∧
    (RegsWf (asleepIn .listen).regs ∧ (asleepIn .listen) = advance 0 (asleepIn .listen) ∧ asleep (asleepIn .listen) = true ∧
       (asleepIn .listen).power.wakeLatch = false ∧ bitOf (reg (asleepIn .listen) R.PWR_WAKE) 1 = true ∧ (asleepIn .listen).power.mode = Mode.listen) ∧
    (RegsWf (asleepIn .hibernate).regs ∧ (asleepIn .hibernate) = advance 0 (asleepIn .hibernate) ∧ asleep (asleepIn .hibernate) = true ∧
       (asleepIn .hibernate).power.wakeLatch = false ∧ bitOf (reg (asleepIn .hibernate) R.PWR_WAKE) 1 = true ∧
       (asleepIn .hibernate).power.mode = Mode.hibernate) ∧
    (RegsWf showing.regs ∧ showing = advance 0 showing ∧ (asleep showing = false ∨ showing.power.wakeLatch = true)) ∧
    (RegsWf (asleepIn .listen).regs ∧ (asleepIn .listen) = advance 0 (asleepIn .listen) ∧ domainUp (asleepIn .listen) 1 = true ∧
       wakeMatch (asleepIn .listen) WakeEvent.linkUp = some (3, 0) ∧ (asleepIn .listen).power.mode = Mode.listen ∧ asleep (asleepIn .listen) = true ∧
       bitOf (reg (asleepIn .listen) R.PWR_WAKE) 2 = true) ∧
    (RegsWf (setReg (R.MAC_WAKE_CTRL 10) 4 showing).regs ∧
       (setReg (R.MAC_WAKE_CTRL 10) 4 showing) = advance 0 (setReg (R.MAC_WAKE_CTRL 10) 4 showing) ∧
       domainUp (setReg (R.MAC_WAKE_CTRL 10) 4 showing) 1 = true ∧ wakeMatch (setReg (R.MAC_WAKE_CTRL 10) 4 showing) WakeEvent.linkUp = some (3, 0) ∧
       (setReg (R.MAC_WAKE_CTRL 10) 4 showing).power.mode ≠ Mode.listen) := by
  simp only [advance_zero, advance_call, ready_iff, RegsWf, CellsWf]
  refine ⟨?_, ?_, ?_, ?_, ?_, ?_, ?_, ?_, ?_, ?_⟩ <;> decide +kernel

theorem witness_ResetsAndWakes_3 :
    (RegsWf showing.regs ∧ showing = advance 0 showing ∧ (domainUp showing 1 = false ∨ wakeMatch showing WakeEvent.linkUp = none)) ∧
    (RegsWf wakeBoot.regs ∧ wakeBoot = advance 0 wakeBoot ∧ wakeBoot.power.aonEn = true ∧ wakeBoot.power.pwrEn = false ∧
       wakeBoot.power.mode = Mode.hibernate ∧ wakeBoot.power.wakeLatch = true) ∧
    (RegsWf (poweringUp id).regs ∧ (poweringUp id) = advance 0 (poweringUp id) ∧ (poweringUp id).power.aonEn = true ∧
       (poweringUp id).power.pwrEn = false ∧ (poweringUp id).power.mode = Mode.boot ∧ (poweringUp id).power.attempts = 0 ∧
       (poweringUp id).power.pwrGood = false) ∧
    (RegsWf showing.regs ∧ showing = advance 0 showing ∧ (showing.power.aonEn = false ∨ showing.power.pwrEn = true)) ∧
    (RegsWf powerUpOn.regs ∧ powerUpOn = advance 0 powerUpOn ∧ powerUpOn.power.pwrEn = true ∧ powerUpOn.power.pwrGood = false ∧
       powerUpOn.power.mode = Mode.boot) ∧
    (RegsWf showing.regs ∧ showing = advance 0 showing ∧ (showing.power.pwrEn = false ∨ showing.power.pwrGood = true ∨
       showing.power.mode ≠ Mode.boot)) ∧
    (RegsWf powerUpLast.regs ∧ powerUpLast = advance 0 powerUpLast ∧ powerUpLast.power.pwrEn = true ∧ powerUpLast.power.pwrGood = false ∧
       powerUpLast.power.pwrEnAt + 100000000 ≤ powerUpLast.time.now) ∧
    (RegsWf showing.regs ∧ showing = advance 0 showing ∧ (showing.power.pwrEn = false ∨ showing.power.pwrGood = true ∨
       showing.time.now < showing.power.pwrEnAt + 100000000)) ∧
    (RegsWf powerUpFailed.regs ∧ powerUpFailed = advance 0 powerUpFailed ∧ powerUpFailed.power.pwrEn = false ∧ 1 ≤ powerUpFailed.power.attempts ∧
       powerUpFailed.power.attempts < 3 ∧ powerUpFailed.power.pwrEnAt + 1000000000 ≤ powerUpFailed.time.now) ∧
    (RegsWf showing.regs ∧ showing = advance 0 showing ∧ (showing.power.pwrEn = true ∨ showing.power.attempts = 0 ∨ 3 ≤ showing.power.attempts ∨
       showing.time.now < showing.power.pwrEnAt + 1000000000)) := by
  simp only [advance_zero, advance_call, ready_iff, RegsWf, CellsWf]
  refine ⟨?_, ?_, ?_, ?_, ?_, ?_, ?_, ?_, ?_, ?_⟩ <;> decide +kernel

theorem witness_ResetsAndWakes_4 :
    (RegsWf booting.regs ∧ booting = advance 0 booting ∧ booting.power.mode = Mode.boot ∧ booting.power.pwrGood = true ∧
       domState booting 2 = DomState.on ∧ domState booting 3 = DomState.on ∧ domState booting 13 = DomState.on ∧ bootCool booting = true ∧
       sagBlocks booting = false) ∧
    (RegsWf showing.regs ∧ showing = advance 0 showing ∧ (showing.power.mode ≠ Mode.boot ∨ showing.power.pwrGood = false ∨
       domState showing 2 ≠ DomState.on ∨ domState showing 3 ≠ DomState.on ∨ domState showing 13 ≠ DomState.on ∨ bootCool showing = false ∨
       sagBlocks showing = true)) := by
  simp only [advance_zero, advance_call, ready_iff, RegsWf, CellsWf]
  refine ⟨?_, ?_⟩ <;> decide +kernel

theorem witness_Calibration_1 :
    (RegsWf showing.regs ∧ showing = advance 0 showing ∧ showing.cal.pass = none) ∧
    (RegsWf (calibrated id).regs ∧ (calibrated id) = advance 0 (calibrated id) ∧ (calibrated id).cal.loaded = true ∧
       (portOf (calibrated id) 3).link = LinkState.up ∧ (calRun 100 150).index = 3 ∧ ((calRun 100 150).run1 - (calRun 100 150).run2).natAbs ≤ 100) ∧
    (RegsWf (calibrated id).regs ∧ (calibrated id) = advance 0 (calibrated id) ∧ (calibrated id).cal.loaded = true ∧
       (portOf (calibrated id) 3).link = LinkState.up ∧ (calRun 100 250).index = 3 ∧ 100 < ((calRun 100 250).run1 - (calRun 100 250).run2).natAbs) ∧
    (RegsWf runningPass.regs ∧ runningPass = advance 0 runningPass ∧ runningPass.cal.pass = some (⟨[4, 0], false, 0, none, 0, 0, 0⟩ : CalPass) ∧
       (⟨[4, 0], false, 0, none, 0, 0, 0⟩ : CalPass).left = [4, 0] ∧ calRunnable runningPass 4 = true ∧ calRunnable runningPass 0 = true ∧
       0 < calCount runningPass.part 0) ∧
    (RegsWf showing.regs ∧ showing = advance 0 showing ∧ showing.cal.write = none) ∧
    (RegsWf writingBoth.regs ∧ writingBoth = advance 0 writingBoth ∧ writingBoth.cal.write = some (⟨1, calContent, false, true⟩ : CalWrite) ∧
       (⟨1, calContent, false, true⟩ : CalWrite).copy < 2 ∧ (⟨1, calContent, false, true⟩ : CalWrite).again = true) ∧
    (RegsWf writingOne.regs ∧ writingOne = advance 0 writingOne ∧ writingOne.cal.write = some (⟨1, calContent, false, false⟩ : CalWrite) ∧
       (⟨1, calContent, false, false⟩ : CalWrite).copy < 2 ∧ (⟨1, calContent, false, false⟩ : CalWrite).again = false ∧
       (⟨1, calContent, false, false⟩ : CalWrite).pass = false) ∧
    (RegsWf showing.regs ∧ showing = advance 0 showing ∧ aFind showing.cal.stepAt 3 = none) ∧
    (RegsWf (skew 0x00100020 1000000000001).regs ∧ (skew 0x00100020 1000000000001) = advance 0 (skew 0x00100020 1000000000001) ∧
       aFind (skew 0x00100020 1000000000001).cal.stepAt 3 = some 1000000000001 ∧ ((skew 0x00100020 1000000000001).time.now < 1000000000001 ∨
       domState (skew 0x00100020 1000000000001) 11 ≠ DomState.on)) ∧
    (RegsWf (skew 0x00100020 999000000000).regs ∧ (skew 0x00100020 999000000000) = advance 0 (skew 0x00100020 999000000000) ∧
       aFind (skew 0x00100020 999000000000).cal.stepAt 3 = some 999000000000 ∧ 999000000000 ≤ (skew 0x00100020 999000000000).time.now ∧
       domState (skew 0x00100020 999000000000) 11 = DomState.on ∧
       bits (reg (skew 0x00100020 999000000000) (R.CAL_SKEWl 3)) 24 16 < bits (reg (skew 0x00100020 999000000000) (R.CAL_SKEWl 3)) 8 0) := by
  simp only [advance_zero, advance_call, ready_iff, RegsWf, CellsWf]
  refine ⟨?_, ?_, ?_, ?_, ?_, ?_, ?_, ?_, ?_, ?_⟩ <;> decide +kernel

theorem witness_Calibration_2 :
    (RegsWf (skew 0x00200010 999000000000).regs ∧ (skew 0x00200010 999000000000) = advance 0 (skew 0x00200010 999000000000) ∧
       aFind (skew 0x00200010 999000000000).cal.stepAt 3 = some 999000000000 ∧ 999000000000 ≤ (skew 0x00200010 999000000000).time.now ∧
       domState (skew 0x00200010 999000000000) 11 = DomState.on ∧
       bits (reg (skew 0x00200010 999000000000) (R.CAL_SKEWl 3)) 8 0 < bits (reg (skew 0x00200010 999000000000) (R.CAL_SKEWl 3)) 24 16) ∧
    (RegsWf (skew 0x00200020 999000000000).regs ∧ (skew 0x00200020 999000000000) = advance 0 (skew 0x00200020 999000000000) ∧
       aFind (skew 0x00200020 999000000000).cal.stepAt 3 = some 999000000000 ∧ 999000000000 ≤ (skew 0x00200020 999000000000).time.now ∧
       domState (skew 0x00200020 999000000000) 11 = DomState.on ∧
       bits (reg (skew 0x00200020 999000000000) (R.CAL_SKEWl 3)) 24 16 = bits (reg (skew 0x00200020 999000000000) (R.CAL_SKEWl 3)) 8 0) ∧
    (calibrating = advance call.t calibrating ∧ Ready 1312 call calibrating ∧ calibrating.cal.pass = none ∧ 8 < 4096 ∧
       List.filter (nBit 8) (List.range 12) = [3] ∧ calRunnable calibrating 3 = true ∧ 0 < calCount calibrating.part 3) ∧
    ((calibrated id) = advance call.t (calibrated id) ∧ Ready 1312 call (calibrated id) ∧ (calibrated id).cal.pass = none ∧ 16 < 4096 ∧
       List.filter (nBit 16) (List.range 12) = [4] ∧ calRunnable (calibrated id) 4 = true ∧ 0 < calCount (calibrated id).part 4) ∧
    (calibrating = advance call.t calibrating ∧ Ready 1312 call calibrating ∧ 4096 ≤ 4096) ∧
    (onePass = advance call.t onePass ∧ Ready 1312 call onePass ∧ onePass.cal.pass ≠ none ∧ 4 < 4096) ∧
    (calibrating = advance call.t calibrating ∧ Ready 1313 call calibrating ∧ calibrating.cal.pass = none) ∧
    (onePassCalled = advance call.t onePassCalled ∧ Ready 1313 call onePassCalled ∧ onePassCalled.cal.pass ≠ none) := by
  simp only [advance_zero, advance_call, ready_iff, RegsWf, CellsWf]
  refine ⟨?_, ?_, ?_, ?_, ?_, ?_, ?_, ?_⟩ <;> decide +kernel

theorem witness_VaultCommands_1 :
    (standby = advance call.t standby ∧ standby.vlt.error = false ∧ Ready 1537 call standby ∧ (enroll.ident / 256 = 1 ∨ enroll.ident / 256 = 4) ∧
       slotBit (enroll.ident / 256) (enroll.ident % 256) = some 6 ∧ enroll.length = 48 ∧ enroll.wrap = 65535 ∧ nBit standby.vlt.written 6 = false) ∧
    (enrolled = advance call.t enrolled ∧ enrolled.vlt.error = false ∧ Ready 1537 call enrolled ∧ (enroll.ident / 256 = 1 ∨ enroll.ident / 256 = 4) ∧
       slotBit (enroll.ident / 256) (enroll.ident % 256) = some 6 ∧ enroll.length = 48 ∧ enroll.wrap = 65535 ∧ nBit enrolled.vlt.written 6 = true) ∧
    (enrolled = advance call.t enrolled ∧ enrolled.vlt.error = false ∧ Ready 1538 call enrolled ∧ slotBit (258 / 256) (258 % 256) = some 6 ∧
       keepsSlot call 258 enrolled = false ∧ slotUsable enrolled (258 / 256) (258 % 256) = true) ∧
    (standby = advance call.t standby ∧ standby.vlt.error = false ∧ Ready 1538 call standby ∧ slotBit (1280 / 256) (1280 % 256) = some 20 ∧
       keepsSlot call 1280 standby = true) ∧
    (standby = advance call.t standby ∧ standby.vlt.error = false ∧ Ready 1539 call standby) ∧
    (provision = advance call.t provision ∧ provision.vlt.error = false ∧ Ready 1540 call provision ∧ provOf provision = none) ∧
    (unprovisioned = advance call.t unprovisioned ∧ unprovisioned.vlt.error = false ∧ Ready 1540 call unprovisioned ∧ provOf unprovisioned ≠ none ∧
       unprovisioned.vlt.state = SecState.unprovisioned ∧ sagBlocks unprovisioned = false) ∧
    ((booted bootRecord standby) = advance call.t (booted bootRecord standby) ∧ (booted bootRecord standby).vlt.error = false ∧
       Ready 1542 call (booted bootRecord standby) ∧
       (⟨.good, 3, 9⟩ : BankInfo) = bankInfo (bootOf (booted bootRecord standby)) (bootOf (booted bootRecord standby)).active ∧
       (⟨.good, 2, 7⟩ : BankInfo) = bankInfo (bootOf (booted bootRecord standby)) (1 - (bootOf (booted bootRecord standby)).active) ∧
       (nBit 1 0 = true ∨ (⟨.good, 3, 9⟩ : BankInfo).secver ≤ (⟨.good, 2, 7⟩ : BankInfo).secver ∨ (⟨.good, 2, 7⟩ : BankInfo).state ≠ BankState.good ∧
       (⟨.good, 2, 7⟩ : BankInfo).state ≠ BankState.staged)) ∧
    ((booted bootRecord standby) = advance call.t (booted bootRecord standby) ∧ (booted bootRecord standby).vlt.error = false ∧
       Ready 1542 call (booted bootRecord standby) ∧
       (⟨.good, 3, 9⟩ : BankInfo) = bankInfo (bootOf (booted bootRecord standby)) (bootOf (booted bootRecord standby)).active ∧
       (⟨.good, 2, 7⟩ : BankInfo) = bankInfo (bootOf (booted bootRecord standby)) (1 - (bootOf (booted bootRecord standby)).active) ∧
       nBit 0 0 = false ∧ (⟨.good, 2, 7⟩ : BankInfo).secver < (⟨.good, 3, 9⟩ : BankInfo).secver ∧
       ((⟨.good, 2, 7⟩ : BankInfo).state = BankState.good ∨ (⟨.good, 2, 7⟩ : BankInfo).state = BankState.staged)) ∧
    (standby = advance call.t standby ∧ standby.vlt.error = false ∧ Ready 1543 call standby ∧ call.session = 0) := by
  simp only [advance_zero, advance_call, ready_iff, RegsWf, CellsWf]
  refine ⟨?_, ?_, ?_, ?_, ?_, ?_, ?_, ?_, ?_, ?_⟩ <;> decide +kernel

theorem witness_VaultCommands_2 :
    standby = advance call.t standby ∧ standby.vlt.error = false ∧ Ready 1543 call standby ∧ call.session = 0 ∧ 1 ≠ 1380275273 := by
  simp only [advance_zero, advance_call, ready_iff, RegsWf, CellsWf]
  decide +kernel

theorem witness_FirmwareCommands_1 :
    ((live .update) = advance call.t (live .update) ∧ Ready 1552 call (live .update) ∧ (live .update).vlt.error = false ∧
       beginBank 255 (live .update) = some 1 ∧ headerFits (live .update) fwHeader = true ∧ trailerOk (live .update) 0 fwHeader.trailer = true ∧
       (live .update).vlt.rollback ≤ fwHeader.secver ∧ (bankOf (live .update) 1).header ≠ some fwHeader ∧ (live .update).vlt.write = none) ∧
    ((live .update) = advance call.t (live .update) ∧ Ready 1552 call (live .update) ∧ (live .update).vlt.error = false ∧
       (beginBank 0 (live .update) = none ∨ headerFits (live .update) fwHeader = false)) ∧
    ((staging .staging [] .update) = advance call.t (staging .staging [] .update) ∧ Ready 1553 call (staging .staging [] .update) ∧
       stageBank (staging .staging [] .update) = some 1 ∧ (bankOf (staging .staging [] .update) 1).header = some fwHeader ∧
       blockFits fwHeader 0 (crc32c fwData) fwData = true ∧ aFind (bankOf (staging .staging [] .update) 1).blocks 0 = none ∧
       (staging .staging [] .update).vlt.write = none) ∧
    ((staging .staging [] .update) = advance call.t (staging .staging [] .update) ∧ Ready 1553 call (staging .staging [] .update) ∧
       stageBank (staging .staging [] .update) = some 1 ∧ (bankOf (staging .staging [] .update) 1).header = some fwHeader ∧
       blockFits fwHeader 0 0 fwData = false) ∧
    ((staging .staging [(0, [])] .update) = advance call.t (staging .staging [(0, [])] .update) ∧
       Ready 1554 call (staging .staging [(0, [])] .update) ∧ (staging .staging [(0, [])] .update).vlt.error = false ∧ 1 ≤ 1 ∧
       (bankOf (staging .staging [(0, [])] .update) 1).header = some fwHeader ∧
       (bankInfo (bootOf (staging .staging [(0, [])] .update)) 1).state = BankState.staging ∧
       bankWhole (bankOf (staging .staging [(0, [])] .update) 1) fwHeader = true ∧
       2 = stageResultOf (staging .staging [(0, [])] .update) 1 fwHeader ∧ 2 ≠ 3) ∧
    ((staging .staged [] .update) = advance call.t (staging .staged [] .update) ∧ Ready 1555 call (staging .staged [] .update) ∧ 1 ≤ 1 ∧
       (bankInfo (bootOf (staging .staged [] .update)) 1).state = BankState.staged) ∧
    ((staging .staging [] .update) = advance call.t (staging .staging [] .update) ∧ Ready 1555 call (staging .staging [] .update) ∧ 1 ≤ 1 ∧
       (bankInfo (bootOf (staging .staging [] .update)) 1).state ≠ BankState.staged) ∧
    ((live .update) = advance call.t (live .update) ∧ Ready 1556 call (live .update) ∧ 1 < 2) ∧
    ((staging .staging [] .recovery) = advance call.t (staging .staging [] .recovery) ∧ Ready 1556 call (staging .staging [] .recovery) ∧ 1 ≤ 1 ∧
       (bankInfo (bootOf (staging .staging [] .recovery)) 1).state = BankState.staging ∧ (staging .staging [] .recovery).power.mode = Mode.recovery) ∧
    ((staging .staging [] .update) = advance call.t (staging .staging [] .update) ∧ Ready 1556 call (staging .staging [] .update) ∧ 1 ≤ 1 ∧
       (staging .staging [] .update).power.mode = Mode.update ∧ sagBlocks (staging .staging [] .update) = false) := by
  simp only [advance_zero, advance_call, ready_iff, RegsWf, CellsWf]
  refine ⟨?_, ?_, ?_, ?_, ?_, ?_, ?_, ?_, ?_, ?_⟩ <;> decide +kernel

theorem witness_FirmwareCommands_2 :
    ((showing.vlt.write = none ∨ showing.lgr.flush ≠ none)) ∧
    (blockWriting.vlt.write = some (⟨1, 0, fwData, none⟩ : BlockWrite) ∧ blockWriting.lgr.flush = none ∧ (⟨1, 0, fwData, none⟩ : BlockWrite).bank < 2) := by
  refine ⟨?_, ?_⟩ <;> decide +kernel

theorem witness_LedgerEvents_1 :
    (RegsWf showing.regs ∧ showing = advance 0 showing ∧ (showing.teller.ledgerOffers = [] ∨ showing.lgr.run = false)) ∧
    (RegsWf offeredDry.regs ∧ offeredDry = advance 0 offeredDry ∧ offeredDry.teller.ledgerOffers = [(33360, 5, [1])] ∧ offeredDry.lgr.run = true ∧
       creditDry = credit offeredDry.time.now (tracker offeredDry (trackerOf 33360)) ∧ creditDry.rate ≠ 0 ∧ creditDry.tokens = 0) ∧
    (RegsWf offered.regs ∧ offered = advance 0 offered ∧ offered.teller.ledgerOffers = [(33360, 5, [1])] ∧ offered.lgr.run = true ∧
       creditOffered = credit offered.time.now (tracker offered (trackerOf 33360)) ∧ (creditOffered.rate = 0 ∨ creditOffered.tokens ≠ 0) ∧
       (tracker offered (trackerOf 33360)).supp = 0 ∧ offered.lgr.freeze = none ∧ offered.lgr.buffer.length < 1024) ∧
    (RegsWf trackerDry.regs ∧ trackerDry = advance 0 trackerDry ∧ (tracker trackerDry 100).rate = 0) ∧
    (RegsWf trackerFull.regs ∧ trackerFull = advance 0 trackerFull ∧ (tracker trackerFull 100).rate ≠ 0 ∧
       credit trackerFull.time.now (tracker trackerFull 100) ≠ tracker trackerFull 100) ∧
    (RegsWf (lgr id showing).regs ∧ (lgr id showing) = advance 0 (lgr id showing) ∧ (lgr id showing).lgr.run = true ∧
       flushAllowed (lgr id showing) = true ∧ (lgr id showing).lgr.freeze = none ∧ (lgr id showing).lgr.flush = none ∧
       (lgr id showing).lgr.fault = false ∧
       (lgr id showing).lgr.flushAt + bits (reg (lgr id showing) R.LGR_FLUSH_CFG) 7 0 * 1000000000 ≤ (lgr id showing).time.now) ∧
    (RegsWf showing.regs ∧ showing = advance 0 showing ∧ (showing.lgr.run = false ∨ flushAllowed showing = false ∨ showing.lgr.freeze ≠ none ∨
       showing.lgr.flush ≠ none ∨ showing.time.now < showing.lgr.flushAt + bits (reg showing R.LGR_FLUSH_CFG) 7 0 * 1000000000)) ∧
    (RegsWf flushTwo.regs ∧ flushTwo = advance 0 flushTwo ∧ flushTwo.lgr.flush = some flushing ∧ flushing.all = false) ∧
    (RegsWf showing.regs ∧ showing = advance 0 showing ∧ showing.lgr.flush = none ∧ showing.power.sagFlush = false) ∧
    (RegsWf flushTwo.regs ∧ flushTwo = advance 0 flushTwo ∧ flushTwo.lgr.flush = some flushing ∧ (∃ r, r ∈ flushTwo.lgr.buffer ∧
       (flushing.all = true ∨ seqBelow r.seq flushing.below = true))) := by
  simp only [advance_zero, advance_call, ready_iff, RegsWf, CellsWf]
  refine ⟨?_, ?_, ?_, ?_, ?_, ?_, ?_, ?_, ?_, ?_⟩ <;> decide +kernel

theorem witness_LedgerEvents_2 :
    (RegsWf flushOne.regs ∧ flushOne = advance 0 flushOne ∧ flushOne.lgr.flush = some flushing ∧ flushing.all = false ∧
       (∀ (r : LgrRec), r ∈ flushOne.lgr.buffer → seqBelow r.seq flushing.below = false) ∧ flushing.again = none ∧ flushOne.lgr.dropped = 0 ∧
       flushOne.power.sagFlush = false) ∧
    (RegsWf frozenFuture.regs ∧ frozenFuture = advance 0 frozenFuture ∧ frozenFuture.lgr.freeze = some (⟨0, 1000000000001⟩ : Freeze) ∧
       frozenFuture.time.now < (⟨0, 1000000000001⟩ : Freeze).till) ∧
    (RegsWf frozenDone.regs ∧ frozenDone = advance 0 frozenDone ∧ frozenDone.lgr.freeze = some (⟨0, 1000000000000⟩ : Freeze) ∧
       (⟨0, 1000000000000⟩ : Freeze).till ≤ frozenDone.time.now) ∧
    (RegsWf showing.regs ∧ showing = advance 0 showing ∧ showing.lgr.freeze = none) := by
  simp only [advance_zero, advance_call, ready_iff, RegsWf, CellsWf]
  refine ⟨?_, ?_, ?_, ?_⟩ <;> decide +kernel

theorem witness_LedgerCommands_1 :
    (showing = advance call.t showing ∧ Ready 1666 call showing ∧ 1 ≤ 1 ∧ 60 ≤ 60 ∧ (∀ (f : Freeze), showing.lgr.freeze = some f →
       f.session = call.session)) ∧
    (showing = advance call.t showing ∧ Ready 1666 call showing ∧ 0 ≤ 1 ∧ 60 ≤ 60 ∧ showing.lgr.freeze = none) ∧
    (frozenNow = advance call.t frozenNow ∧ Ready 1666 call frozenNow ∧ 1 ≤ 1 ∧ 60 ≤ 60 ∧ (∃ f, frozenNow.lgr.freeze = some f ∧
       f.session ≠ call.session)) ∧
    (showing = advance call.t showing ∧ Ready 1667 call showing ∧ showing.vlt.error = false) ∧
    (vaultError = advance call.t vaultError ∧ Ready 1667 call vaultError ∧ vaultError.vlt.error = true) ∧
    (clearable = advance call.t clearable ∧ Ready 1668 call clearable ∧ clearable.lgr.freeze = none ∧
       (List.filter (fun e ↦ decide (e.fst < 2048)) clearable.lgr.slots).length < 2048 ∧ tok.magicOk = true ∧ tok.serialOk = true ∧
       tok.number = regN clearable R.LGR_CLEARS + 1 ∧ nonceOk clearable tok.nonce = true ∧ trailerOk clearable 4 tok.trailer = true ∧
       clearable.teller.ledgerOffers = []) ∧
    (frozenNow = advance call.t frozenNow ∧ Ready 1668 call frozenNow ∧ frozenNow.lgr.freeze ≠ none) ∧
    (showing = advance call.t showing ∧ Ready 1669 call showing ∧ isExempt 33360 = false ∧ 255 ≤ 255 ∧ 1 ≤ 255 ∧
       creditShowing = credit showing.time.now (tracker showing (trackerOf 33360))) ∧
    (showing = advance call.t showing ∧ Ready 1669 call showing ∧ (isExempt 33296 = true ∨ 255 < 1 ∨ 1 < 1 ∨ 255 < 1)) ∧
    (showing = advance call.t showing ∧ Ready 1669 call showing ∧ (isExempt 33360 = true ∨ 255 < 255 ∨ 0 < 1 ∨ 255 < 0)) := by
  simp only [advance_zero, advance_call, ready_iff, RegsWf, CellsWf]
  refine ⟨?_, ?_, ?_, ?_, ?_, ?_, ?_, ?_, ?_, ?_⟩ <;> decide +kernel

theorem witness_LedgerCommands_2 :
    ((lgr id showing) = advance call.t (lgr id showing) ∧ Ready 1670 call (lgr id showing) ∧ (lgr id showing).lgr.fault = false ∧
       (lgr id showing).lgr.run = true ∧ (lgr id showing).lgr.flush = none) ∧
    (showing = advance call.t showing ∧ Ready 1670 call showing ∧ (showing.lgr.fault = true ∨ showing.lgr.run = false)) := by
  simp only [advance_zero, advance_call, ready_iff, RegsWf, CellsWf]
  refine ⟨?_, ?_⟩ <;> decide +kernel

end Sys2Proof.Tests
end

