-- ==== Sys2Proof/WellFormed.lean ====
section
/-! DEFINITION. Well-formed commands: every operand fits the field that carries it (the payload tables of each chapter), and register accesses name
words of the register space (R16, R57). Ranges that a command's own rules check are not here: such a command is refused when it is executed (R695). -/

namespace Sys2Proof

/-- An integer of `w` bits in two's complement. -/
def fits (w : Nat) (x : Int) : Bool := decide (-(2 ^ (w - 1) : Int) ≤ x) && decide (x < 2 ^ (w - 1))

/-- A word of the register space, or beyond its end (R57). -/
def registerSpace (a : Nat) : Bool := decide (0xF0000000 ≤ a) && a % 4 == 0

def wfMsg (p : Msg) : Bool :=
  decide (p.magic < 65536) && decide (p.version < 256) && decide (p.flags < 256) && decide (p.code < 65536) && decide (p.cls < 256) &&
    decide (p.status < 256) && decide (p.length < 4294967296) && fits 64 p.stamp && decide (p.check < 4294967296) && decide (p.payload.length ≤ 131072)

def wfTrailer (p : Trailer) : Bool :=
  decide (p.slot < 256) && decide (p.keyHash < 2 ^ 384)

def wfSourceUpdate (p : SourceUpdate) : Bool :=
  decide (p.pathDelay < 4294967296) && fits 8 p.logInterval && decide (p.label.hh < 32) && decide (p.label.mm < 64) && decide (p.label.ss < 64) &&
    decide (p.label.ff < 64) && decide (p.label.fps < 64) && decide (p.wordRate < 4294967296)

def wfTimeBaseSet (p : TimeBaseSet) : Bool :=
  decide (p.tb < 256) && decide (p.source < 256) && decide (p.portA < 256) && decide (p.portB < 256) && decide (p.domainA < 256) &&
    decide (p.domainB < 256) && decide (p.flags < 256) && fits 32 p.refOffset && decide (p.abLimit < 4294967296) &&
    decide (p.ltcDay < 4294967296)

def wfTimeSelect (p : TimeSelect) : Bool :=
  decide (p.tb < 256) && decide (p.slew < 65536) && decide (p.threshold < 4294967296) && decide (p.startWait < 4294967296)

def wfTimeAcceptStep (p : TimeAcceptStep) : Bool :=
  decide (p.tb < 256) && decide (p.mode < 256) && decide (p.stepId < 65536)

def wfShowTimingSet (p : ShowTimingSet) : Bool :=
  decide (p.n < 4294967296) && decide (p.d < 4294967296) && fits 64 p.origin

def wfCueSchedule (p : CueSchedule) : Bool :=
  decide (p.cueId < 4294967296) && decide (p.basis < 256) && decide (p.action < 256) && decide (p.priority < 256) && decide (p.flags < 256) &&
    fits 64 p.when_ && decide (p.sub < 4294967296) && decide (p.argument < 4294967296)

def wfErrorFound (p : ErrorFound) : Bool :=
  decide (p.site < 12) && decide (p.kind < 3) && decide (p.address < 18446744073709551616) && p.word.length == 12 && decide (p.parity < 4096) &&
    decide (p.object < 4294967296) && decide (p.segment < 4294967296) && decide (p.engine < 16) &&
    (if p.kind = 0 then decide (p.site < 8) || p.site == 11 else decide (8 ≤ p.site) && decide (p.site < 11)) &&
    (match p.consumer with
     | some c => decide (c < 7) && p.kind == 2
     | none => true)

def wfRgba (p : Rgba) : Bool :=
  decide (p.r < 65536) && decide (p.g < 65536) && decide (p.b < 65536) && decide (p.a < 65536)

def wfSample (p : Sample) : Bool :=
  decide (p.y < 65536) && decide (p.cb < 65536) && decide (p.cr < 65536)

def wfCoding (p : Coding) : Bool :=
  decide (p.sampling < 3) && decide (p.depth < 17) && decide (p.transfer < 3)

def wfGeneratorSet (p : GeneratorSet) : Bool :=
  decide (p.generator < 256) && decide (p.pattern < 256) && decide (p.transfer < 256) && decide (p.primaries < 256) &&
    decide (p.width < 65536) && decide (p.height < 65536) && wfRgba p.colorA && wfRgba p.colorB && decide (p.cell < 65536) &&
    fits 16 p.speed

def wfStreamPacket (p : StreamPacket) : Bool :=
  decide (p.pt < 128) && decide (p.ssrc < 4294967296) && decide (p.line < 32768) && decide (p.pixel < 32768) && decide (p.count < 65536)

def wfFrameIn (p : FrameIn) : Bool :=
  decide (p.width < 65536) && decide (p.height < 65536) && decide (p.rateNum < 4294967296) && decide (p.rateDen < 4294967296) &&
    wfCoding p.coding && wfSample p.fill && p.pixels.all (fun x => wfSample x.2)

def wfInputSet (p : InputSet) : Bool :=
  decide (p.source < 256) && decide (p.flags < 256) && decide (p.override < 256) && decide (p.width < 65536) && decide (p.height < 65536) &&
    decide (p.jitterUs < 65536)

def wfInputStreamSet (p : InputStreamSet) : Bool :=
  decide (p.stream < 256) && decide (p.paths < 256) && decide (p.pt < 256) && decide (p.sampling < 256) && decide (p.depth < 256) &&
    decide (p.colorimetry < 256) && decide (p.tcs < 256) && decide (p.flags < 256) && decide (p.width < 65536) && decide (p.height < 65536) &&
    decide (p.rateNum < 4294967296) && decide (p.rateDen < 4294967296) && decide (p.groupA < 4294967296) && decide (p.srcA < 4294967296) &&
    decide (p.groupB < 4294967296) && decide (p.srcB < 4294967296) && decide (p.portA < 65536) && decide (p.portB < 65536) &&
    decide (p.skewMax < 65536) && decide (p.ssrc < 4294967296)

def wfLayerBind (p : LayerBind) : Bool :=
  decide (p.layer < 256) && decide (p.source < 256) && decide (p.policy < 256) && decide (p.holdFrames < 256)

def wfLayerSet (p : LayerSet) : Bool :=
  decide (p.layer < 256) && decide (p.flags < 256) && decide (p.rotation < 256) && decide (p.filter < 256) && decide (p.cropX < 65536) &&
    decide (p.cropY < 65536) && decide (p.cropW < 65536) && decide (p.cropH < 65536) && fits 16 p.dstX && fits 16 p.dstY &&
    decide (p.dstW < 65536) && decide (p.dstH < 65536) && decide (p.keyMode < 256) && decide (p.keyFlags < 256) && decide (p.blend < 256) &&
    decide (p.keyT < 65536) && decide (p.keyS < 65536) && fits 16 p.keyKb && fits 16 p.keyKr && decide (p.opacity < 65536) &&
    decide (p.knee < 65536) && decide (p.sdrWhite < 65536)

def wfCanvasSet (p : CanvasSet) : Bool :=
  decide (p.width < 65536) && decide (p.height < 65536) && decide (p.peak < 65536) && wfRgba p.background

def wfMonitorSet (p : MonitorSet) : Bool :=
  decide (p.flags < 256) && decide (p.format < 256) && decide (p.rate < 256) && decide (p.source < 256) && decide (p.transfer < 256) &&
    decide (p.primaries < 256) && decide (p.hscale < 256) && decide (p.vscale < 256) && decide (p.offset < 4294967296) &&
    decide (p.winX < 65536) && decide (p.winY < 65536) && decide (p.winW < 65536) && decide (p.winH < 65536) && decide (p.outX < 65536) &&
    decide (p.outY < 65536) && decide (p.white < 65536) && decide (p.pull < 65536) && decide (p.borderY < 65536) &&
    decide (p.borderCb < 65536) && decide (p.borderCr < 65536) && decide (p.lmatch < 65536)

def wfFixtureEntry (p : FixtureEntry) : Bool :=
  decide (p.kind < 256) && decide (p.flags < 256) && decide (p.zone < 256) && decide (p.curve < 256) && decide (p.kernel < 256) &&
    decide (p.channels < 256) && decide (p.chanMap < 65536) && decide (p.cols < 65536) && decide (p.rows < 65536) && fits 32 p.originX &&
    fits 32 p.originY && fits 32 p.colDx && fits 32 p.colDy && fits 32 p.rowDx && fits 32 p.rowDy && decide (p.routeA < 4294967296) &&
    decide (p.routeB < 4294967296) && decide (p.calRef < 4294967296) && decide (p.attrRef < 4294967296) && decide (p.effect < 4294967296) &&
    decide (p.epoch < 18446744073709551616)

def wfFixtureSet (p : FixtureSet) : Bool :=
  decide (p.first < 4294967296) && decide (p.flags < 256) && p.entries.all (fun x => wfFixtureEntry x)

def wfZoneSet (p : ZoneSet) : Bool :=
  decide (p.zone < 256) && decide (p.flags < 256) && decide (p.priority < 256) && decide (p.shedOrder < 256) && decide (p.group < 256) &&
    decide (p.delay < 4294967296)

def wfAttrDesc (p : AttrDesc) : Bool :=
  decide (p.ctrl < 4294967296) && decide (p.dflt < 65536) && p.src.all (fun x => decide (x < 4294967296)) &&
    p.prio.all (fun x => decide (x < 256))

def wfAttrSet (p : AttrSet) : Bool :=
  decide (p.first < 4294967296) && p.descs.all (fun x => wfAttrDesc x)

def wfAttrValueSet (p : AttrValueSet) : Bool :=
  decide (p.first < 4294967296) && decide (p.count < 65536) && p.values.all (fun x => decide (x < 65536))

def wfTrapFound (p : TrapFound) : Bool :=
  decide (p.fixture < 4294967296) && decide (p.cause < 256)

def wfKernelLoad (p : KernelLoad) : Bool :=
  decide (p.code < 256) && decide (p.kind < 256) && decide (p.tapsW < 256) && decide (p.tapsH < 256) && decide (p.cost < 65536) &&
    decide (p.canvasBytes < 4294967296) && decide (p.codeBytes < 4294967296) && decide (p.dataBytes < 4294967296) &&
    decide (p.stateBytes < 65536) && decide (p.check < 4294967296) && decide (p.text.length = p.codeBytes) &&
    decide (p.store.length = p.dataBytes) && p.trailer.all (fun x => wfTrailer x)

def wfEffectRec (p : EffectRec) : Bool :=
  decide (p.program < 256) && decide (p.flags < 256) && decide (p.rate < 65536) && decide (p.offset < 65536) && decide (p.spread < 65536) &&
    decide (p.base < 65536) && decide (p.depth < 65536) && decide (p.duty < 65536) && decide (p.hold < 65536) &&
    decide (p.seed < 4294967296) && decide (p.k0 < 4294967296) && decide (p.user < 18446744073709551616)

def wfEffectSet (p : EffectSet) : Bool :=
  decide (p.first < 65536) && p.records.all (fun x => wfEffectRec x)

def wfCurveSet (p : CurveSet) : Bool :=
  decide (p.curve < 256) && decide (p.type < 256) && decide (p.dither < 256) && decide (p.gamma < 65536) && decide (p.logA < 65536) &&
    decide (p.limit < 65536) && p.entries.all (fun x => decide (x < 4294967296))

def wfClassSet (p : ClassSet) : Bool :=
  decide (p.cls < 256) && decide (p.gamut < 256) && fits 16 p.tRef && decide (p.whiteShare < 65536) &&
    p.weights.all (fun x => decide (x < 65536)) && p.mix.all (fun x => decide (x < 65536)) && p.gains.all (fun x => decide (x < 65536))

def wfCalRecord (p : CalRecord) : Bool :=
  p.m.all (fun x => fits 16 x) && p.off.all (fun x => fits 8 x) && decide (p.droop < 256) && decide (p.cls < 256) && decide (p.g3 < 256)

def wfCalRecordSet (p : CalRecordSet) : Bool :=
  decide (p.first < 4294967296) && p.records.all (fun x => wfCalRecord x)

def wfLaneSet (p : LaneSet) : Bool :=
  decide (p.lane < 256) && decide (p.flags < 256) && decide (p.mode < 256) && decide (p.retries < 256) && decide (p.turn < 4294967296) &&
    fits 32 p.asym && decide (p.ackTimeout < 4294967296) && decide (p.hold < 65536)

def wfLaneChainSet (p : LaneChainSet) : Bool :=
  decide (p.lane < 256) && decide (p.format < 256) && p.counts.all (fun x => decide (x < 65536))

def wfLaneGlobalSet (p : LaneGlobalSet) : Bool :=
  decide (p.target < 4294967296) && decide (p.collect < 65536)

def wfCtrlReturn (p : CtrlReturn) : Bool :=
  decide (p.status < 256) && decide (p.seq < 256) && decide (p.alive < 65536) && decide (p.errors < 4294967296)

def wfSlot (p : Slot) : Bool :=
  decide (p.flags < 256) && decide (p.syncSeq < 256) && fits 16 p.temp && decide (p.crcErr < 65536) && decide (p.epoch < 18446744073709551616)

def wfStrLaneSet (p : StrLaneSet) : Bool :=
  decide (p.lane < 256) && decide (p.diagPhase < 256) && decide (p.diagI < 256) && decide (p.phaseStep < 65536) && decide (p.iset0 < 65536) &&
    decide (p.iset1 < 65536) && decide (p.iset2 < 65536) && decide (p.vOpen < 65536) && decide (p.vShort < 65536)

def wfStrLampSet (p : StrLampSet) : Bool :=
  decide (p.lane < 256) && decide (p.action < 256) && decide (p.chip < 65536) && decide (p.lamp < 256) && decide (p.strings < 256)

def wfRxFrame (p : RxFrame) : Bool :=
  decide (p.bytes.length < 65536) &&
    decide (p.pcsErrors < 4294967296) && decide (p.fecCorrected < 4294967296) && decide (p.fecUncorrected < 4294967296)

def wfMacPortSet (p : MacPortSet) : Bool :=
  decide (p.port < 256) && decide (p.flags < 256) && decide (p.mode < 256) && decide (p.fec < 256) && decide (p.mtu < 65536) &&
    decide (p.honor < 256) && decide (p.address < 281474976710656) && decide (p.wdLimit < 65536) && decide (p.wdIgnore < 65536) &&
    decide (p.launchWin < 65536)

def wfWakePattern (p : WakePattern) : Bool :=
  (p.mask.length == 16) && (p.bytes.length == 128)

def wfMacWakeSet (p : MacWakeSet) : Bool :=
  decide (p.flags < 256) && decide (p.patternEn < 256) && (p.password.length == 6) && p.patterns.all (fun x => wfWakePattern x)

def wfFlowCtx (p : FlowCtx) : Bool :=
  decide (p.protocol < 256) && decide (p.port < 256) && decide (p.flags < 256) && decide (p.queue < 256) && decide (p.prio < 256) &&
    decide (p.dscp < 256) && decide (p.ttl < 256) && decide (p.vlan < 65536) && decide (p.dstMac < 281474976710656) &&
    decide (p.dstIp < 4294967296) && decide (p.srcUdp < 65536) && decide (p.dstUdp < 65536) && decide (p.ident < 65536) &&
    decide (p.e131Prio < 256) && decide (p.syncId < 65536) && decide (p.size < 65536)

def wfFlowSet (p : FlowSet) : Bool :=
  decide (p.first < 4294967296) && p.contexts.all (fun x => wfFlowCtx x)

def wfRxEntry (p : RxEntry) : Bool :=
  decide (p.univ < 65536) && decide (p.mask < 256)

def wfRxUniverseSet (p : RxUniverseSet) : Bool :=
  decide (p.first < 65536) && p.entries.all (fun x => wfRxEntry x)

def wfPktGlobalSet (p : PktGlobalSet) : Bool :=
  decide (p.cid < 340282366920938463463374607431768211456) && p.ips.all (fun x => decide (x < 4294967296)) && decide (p.group < 4294967296) &&
    decide (p.udp < 65536)

def wfDmxPortSet (p : DmxPortSet) : Bool :=
  decide (p.port < 256) && decide (p.mode < 256) && decide (p.flags < 256) && decide (p.rdmEvery < 256) && decide (p.breakUs < 65536) &&
    decide (p.mabUs < 65536) && decide (p.mbsUs < 256) && decide (p.slots < 65536) && decide (p.entry < 65536)

def wfRdmRequest (p : RdmRequest) : Bool :=
  decide (p.port < 256) && decide (p.flags < 256) && decide (p.transaction < 65536)

def wfPktCodeLoad (p : PktCodeLoad) : Bool :=
  decide (p.code < 4294967296) && decide (p.data < 4294967296) && decide (p.check < 4294967296) && decide (p.text.length = p.code) &&
    decide (p.store.length = p.data) && p.trailer.all (fun x => wfTrailer x)

def wfE131Packet (p : E131Packet) : Bool :=
  decide (p.univ < 65536) && decide (p.cid < 340282366920938463463374607431768211456) && decide (p.seq < 256) && decide (p.priority < 256) &&
    decide (p.startCode < 256) && p.slots.all (fun x => decide (x < 256))

def wfRadioSet (p : RadioSet) : Bool :=
  decide (p.xcvr < 256) && decide (p.flags < 256) && decide (p.profile < 256) && decide (p.scheme < 256) && decide (p.net < 65536) &&
    fits 8 p.eirp && decide (p.gain < 256) && fits 8 p.thresh && decide (p.seed < 4294967296) && decide (p.mask < 18446744073709551616) &&
    decide (p.hourLimit < 4294967296)

def wfRadioNodeRec (p : RadioNodeRec) : Bool :=
  decide (p.node < 65536) && decide (p.xcvr < 256) && decide (p.position < 65536) && decide (p.eui < 18446744073709551616) &&
    p.groups.all (fun x => decide (x < 65536))

def wfRadioNodeSet (p : RadioNodeSet) : Bool :=
  p.records.all (fun x => wfRadioNodeRec x)

def wfRadioGlobalSet (p : RadioGlobalSet) : Bool :=
  decide (p.cueLead < 65536) && decide (p.cueRepeat < 256) && decide (p.refresh < 65536)

def wfRadioFwLoad (p : RadioFwLoad) : Bool :=
  decide (p.image < 65536) && decide (p.total < 4294967296) && decide (p.offset < 4294967296) && decide (p.crc < 4294967296)

def wfRadioFwStart (p : RadioFwStart) : Bool :=
  decide (p.image < 65536) && decide (p.action < 256) && decide (p.share < 256) && decide (p.group < 65536) && decide (p.mask < 256) &&
    decide (p.crc < 4294967296)

def wfRadioRx (p : RadioRx) : Bool :=
  fits 8 p.rssi && fits 64 p.st && decide (p.psdu.length ≤ 127)

def wfLeaseFrame (p : LeaseFrame) : Bool :=
  decide (p.version < 256) && decide (p.type < 256) && decide (p.pair < 65536) && decide (p.device < 256) && decide (p.group < 256) &&
    decide (p.duration < 65536)

def wfPairSet (p : PairSet) : Bool :=
  decide (p.device < 256) && decide (p.flags < 256) && decide (p.escPort < 256) && decide (p.arbPort < 256) && decide (p.pair < 65536) &&
    decide (p.leaseMs < 65536) && decide (p.leadGroup < 256) && decide (p.partnerIp < 4294967296) && decide (p.arbIp < 4294967296) &&
    decide (p.escUdp < 65536) && decide (p.arbUdp < 65536) && decide (p.partnerMac < 281474976710656) && decide (p.member < 65536)

def wfDatagram (p : Datagram) : Bool :=
  decide (p.dstIp < 4294967296) && decide (p.dstPort < 65536) && decide (p.type < 256) && decide (p.session < 4294967296) &&
    decide (p.counter < 18446744073709551616) && decide (p.index < 65536) &&
    decide (p.count < 65536) && decide (p.message < 4294967296) && decide (p.keyId < 65536) && wfMsg p.msg

def wfCommitSet (p : CommitSet) : Bool :=
  decide (p.flags < 256) && decide (p.stageId < 4294967296) && decide (p.k < 18446744073709551616)

def wfPowerSagSet (p : PowerSagSet) : Bool :=
  decide (p.w1Pct < 256) && decide (p.holdMs < 65536)

def wfPowerThermalSet (p : PowerThermalSet) : Bool :=
  fits 16 p.showWarn && fits 16 p.showShed && fits 16 p.soakWarn && fits 16 p.soakShed

def wfCalRun (p : CalRun) : Bool :=
  decide (p.index < 65536) && fits 32 p.run1 && fits 32 p.run2 && fits 32 p.phase1 && fits 32 p.phase2

def wfFwHeader (p : FwHeader) : Bool :=
  decide (p.kind < 65536) && decide (p.version < 4294967296) && decide (p.secver < 4294967296) && decide (p.part < 65536) &&
    decide (p.minStep < 256) && decide (p.interface < 256) && decide (p.bytes < 4294967296) && decide (p.blocks < 65536) &&
    decide (p.digest < 2 ^ 384) && p.crcs.all (fun x => decide (x < 4294967296)) && wfTrailer p.trailer

def wfBootPins (p : BootPins) : Bool :=
  decide (p.katFail < 64) && decide (p.corrupt < 4)

def wfKeyEnroll (p : KeyEnroll) : Bool :=
  decide (p.ident < 65536) && decide (p.wrap < 65536) && decide (p.length < 65536) && decide (p.material < 2 ^ 384)

def wfRecordSet (p : RecordSet) : Bool :=
  fits 64 p.epoch && decide (p.mac < 281474976710656) && decide (p.ip < 4294967296) && decide (p.mask < 4294967296) &&
    decide (p.gateway < 4294967296)

def wfClearToken (p : ClearToken) : Bool :=
  decide (p.number < 4294967296) && wfTrailer p.trailer

/-- CRCs of test tiles by engine (R329). -/
def wfTests (l : List (Nat × Nat)) : Bool := l.all (fun t => decide (t.1 < 16) && decide (t.2 < 4294967296))

/-- Every operand fits its field. -/
def wellFormed (i : Instr) : Bool :=
  match i with
  | .registerWrite _ _ addr _ => registerSpace addr
  | .rcCounterRead _ addr _ => registerSpace addr
  | .w1cWrite _ _ addr _ _ => registerSpace addr
  | .latchedLoRead _ addr => registerSpace addr
  | .lockstepMismatch _ pc => decide (pc < 4294967296)
  | .frameBoundary tests => wfTests tests
  | .tbSourceUpdate _ _ _ u => wfSourceUpdate u
  | .referenceLost _ _ _ => true
  | .domainRevert _ _ => true
  | .mainsZeroCrossing _ => true
  | .mainsAbsentTimeout _ => true
  | .showTimeStart _ tests => wfTests tests
  | .hwmUpdate _ => true
  | .rtcCopy _ => true
  | .zoneSafeBoundary _ => true
  | .tbCfgWrite _ _ _ _ => true
  | .showTbWrite _ _ _ => true
  | .timeBaseSet _ p => wfTimeBaseSet p
  | .timeSelect _ p => wfTimeSelect p
  | .timeAcceptStep _ p => wfTimeAcceptStep p
  | .timeStatusGet _ => true
  | .showTimingSet _ p => wfShowTimingSet p
  | .almanacTick _ tick => (fits 64 tick && tick % 1000 == 0)
  | .outputLaunch _ => true
  | .descriptorReady _ => true
  | .descriptorDispatch _ accepting => accepting.all (fun x => decide (x < 16))
  | .deadlineDiscard _ => true
  | .timerRetry _ => true
  | .descriptorRetry _ => true
  | .traceFreeze _ => true
  | .traceUnfreeze _ _ _ => true
  | .cueSchedule _ p => wfCueSchedule p
  | .cueCancel _ cueId => decide (cueId < 4294967296)
  | .almTraceGet _ first count => decide (first < 65536) && decide (count < 65536)
  | .chkStart _ owner _ _ => decide (owner < 256)
  | .chkFeed _ owner _ _ => decide (owner < 256)
  | .chkFinish _ owner _ alive => decide (owner < 256) && decide (alive < 65536)
  | .chkStateAccess _ owner _ _ _ => decide (owner < 256)
  | .fifoByteWrite _ _ _ _ _ => true
  | .fifoPop _ _ _ _ => true
  | .fifoPointerFault _ _ _ => true
  | .parityError _ e => wfErrorFound e
  | .mapEntryRewrite _ => true
  | .scrubPass _ errors => errors.all wfErrorFound
  | .faultHandoff _ => true
  | .sdiLineReceived _ _ _ => true
  | .streamPacketReceived _ _ _ p => wfStreamPacket p
  | .pathLossTimeout _ _ _ _ => true
  | .streamFrameTimeout _ _ => true
  | .sourceFrameComplete _ _ f => wfFrameIn f
  | .generatorPublish _ _ => true
  | .sdiLockLost _ _ => true
  | .sourceLossTimeout _ _ => true
  | .signalReturn _ _ => true
  | .inputSet _ p => wfInputSet p
  | .inputStreamSet _ p => wfInputStreamSet p
  | .generatorSet _ p => wfGeneratorSet p
  | .inputStatusGet _ source => decide (source < 256)
  | .layerBind _ p => wfLayerBind p
  | .layerRelease _ layer => decide (layer < 256)
  | .cmpCommitGo _ _ _ => true
  | .canvasLineDone _ line _ => decide (line < 65536)
  | .layerSet _ p => wfLayerSet p
  | .canvasSet _ p => wfCanvasSet p
  | .compStatusGet _ => true
  | .rasCommitGo _ _ _ => true
  | .rasterFrameStart => true
  | .rasterLineMatch line => decide (line < 4096)
  | .rasterFrameDone _ => true
  | .scanUnderrun _ line sample => decide (line < 4096) && decide (sample < 4096)
  | .lineReadback _ => true
  | .ltrRecompute _ bytes => decide (bytes < 4294967296)
  | .monitorSet _ p => wfMonitorSet p
  | .monitorStatusGet _ => true
  | .fxmCommitGo _ _ _ => true
  | .fixtureSet _ p => wfFixtureSet p
  | .fixtureGet _ first count => decide (first < 4294967296) && decide (count < 65536)
  | .zoneSet _ p => wfZoneSet p
  | .zoneGet _ zone => decide (zone < 256)
  | .attrSet _ p => wfAttrSet p
  | .attrValueSet _ p => wfAttrValueSet p
  | .showGet _ => true
  | .tileClaim _ _ => true
  | .tileSampleStart _ _ trap => trap.all wfTrapFound
  | .tileComplete _ _ => true
  | .mappingDeadline _ => true
  | .tileTimeout _ _ => true
  | .engineFailure _ _ cause => decide (cause ≤ 6)
  | .engineTestDone _ _ => true
  | .kernelLoad _ p => wfKernelLoad p
  | .kernelUnload _ kind code => decide (kind < 256) && decide (code < 256)
  | .effectSet _ p => wfEffectSet p
  | .mapStatusGet _ => true
  | .mapEngineSet _ engine action => decide (engine < 256) && decide (action < 256)
  | .reportStaleTimeout _ chip => decide (chip < 32768)
  | .calRecordWrite _ => true
  | .curveSet _ p => wfCurveSet p
  | .classSet _ p => wfClassSet p
  | .calRecordSet _ p => wfCalRecordSet p
  | .calRecordGet _ first count => decide (first < 4294967296) && decide (count < 65536)
  | .zoneTempSet _ zone _ temp => decide (zone < 256) && fits 16 temp
  | .phoStatusGet _ => true
  | .pixelFrameSend _ _ => true
  | .laneTrainingDone _ _ => true
  | .enumerateInterval _ _ => true
  | .enumerateFrameReturn _ _ f errors => decide (f.next < 65536) && decide (f.check < 65536) && decide (errors < 4294967296)
  | .rangeFrameReturn _ _ f loopPs => decide (f.chip < 1024) && decide (f.rseq < 256) && decide (f.errors < 4294967296) && decide (loopPs < 18446744073709551616) && loopPs % 10 == 0
  | .laneRangingDone _ _ => true
  | .controlFrameReturn _ _ r => wfCtrlReturn r
  | .controlAckTimeout _ _ => true
  | .collectInterval _ => true
  | .collectFrameReturn _ _ slots errors => slots.all wfSlot && decide (errors < 4294967296)
  | .laneRxLoss _ _ errors => decide (errors < 4294967296)
  | .laneSet _ p => wfLaneSet p
  | .laneChainSet _ p => wfLaneChainSet p
  | .laneGlobalSet _ p => wfLaneGlobalSet p
  | .laneRange _ mask chip => decide (mask < 4294967296) && decide (chip < 65536)
  | .laneStatusGet _ lane => decide (lane < 256)
  | .laneChipWrite _ lane chip addr _ => decide (lane < 256) && decide (chip < 65536) && decide (addr < 65536)
  | .laneChipRead _ lane chip addr => decide (lane < 256) && decide (chip < 65536) && decide (addr < 65536)
  | .strLaneSet _ p => wfStrLaneSet p
  | .strLampSet _ p => wfStrLampSet p
  | .strFaultGet _ first count => decide (first < 65536) && decide (count < 65536)
  | .linkUp _ _ rate => decide (rate < 3)
  | .linkDown _ _ cause => decide (cause < 256)
  | .pairRevert _ _ => true
  | .txFrameStart _ _ => true
  | .launchSlotFire _ _ => true
  | .tsqPop _ _ => true
  | .tallyRead _ _ _ => true
  | .tallyAccumulate _ => true
  | .frameReceived _ _ f => wfRxFrame f
  | .pauseFrameReceived _ _ opcode enables quanta => decide (opcode < 65536) && decide (enables < 65536) && quanta.all (fun x => decide (x < 65536))
  | .pauseEnd _ _ => true
  | .pauseWatchdogTrip _ _ => true
  | .pauseIgnoreEnd _ _ => true
  | .wakeFrameMatch _ _ => true
  | .macPortSet _ p => wfMacPortSet p
  | .macPairSet _ pair mode flags => decide (pair < 256) && decide (mode < 256) && decide (flags < 256)
  | .macWakeSet _ p => wfMacWakeSet p
  | .macStatusGet _ port => decide (port < 256)
  | .macTallyGet _ port flags => decide (port < 256) && decide (flags < 256)
  | .e131PacketReceived _ _ p => wfE131Packet p
  | .e131SourceTimeout _ entry cid => decide (entry < 16384) && decide (cid < 340282366920938463463374607431768211456)
  | .universeDiscovery _ => true
  | .dmxFrameReceived _ _ startCode slots errors => decide (startCode < 256) && slots.all (fun x => decide (x < 256)) && decide (errors < 4294967296)
  | .dmxSourceTimeout _ _ => true
  | .rdmWindow _ _ => true
  | .rdmResponseReceived _ _ kind _ _ => decide (kind < 256)
  | .rdmResponseTimeout _ _ => true
  | .pktEngineFailure _ _ cause => decide (cause < 256)
  | .flowSet _ p => wfFlowSet p
  | .rxUniverseSet _ p => wfRxUniverseSet p
  | .pktGlobalSet _ p => wfPktGlobalSet p
  | .dmxPortSet _ p => wfDmxPortSet p
  | .rdmRequest _ p => wfRdmRequest p
  | .pktCodeLoad _ p => wfPktCodeLoad p
  | .radioSlotStart _ _ _ r => decide (r < 4294967296)
  | .radioFrameReceived _ _ f => wfRadioRx f
  | .radioFwProgressTimer _ => true
  | .radioSet _ p => wfRadioSet p
  | .radioNodeSet _ p => wfRadioNodeSet p
  | .radioGlobalSet _ p => wfRadioGlobalSet p
  | .radioStatusGet _ xcvr => decide (xcvr < 256)
  | .radioNodeGet _ first count => decide (first < 65536) && decide (count < 65536)
  | .radioFwLoad _ p => wfRadioFwLoad p
  | .radioFwStart _ p => wfRadioFwStart p
  | .leaseRequestInterval _ _ => true
  | .leaseFrameReceived _ f => wfLeaseFrame f
  | .leaseExpiry _ _ => true
  | .escrowRecordWrite _ => true
  | .escrowFragmentReceived _ l => decide (l.length ≤ 8228)
  | .escrowRecordDeadline _ => true
  | .probeInterval _ => true
  | .probeReceived _ _ l => decide (l.length ≤ 8228)
  | .probeTimeout _ _ => true
  | .pairSet _ p => wfPairSet p
  | .pairRelease _ mask => decide (mask < 65536)
  | .pairStatusGet _ => true
  | .cmdDoorbell _ _ msgs => msgs.all wfMsg
  | .ringReadPointerWrite _ _ _ => true
  | .sessionResetDoorbell _ => true
  | .commandTake _ _ => true
  | .udpDatagramReceived _ d => wfDatagram d
  | .sessionIdleTimeout _ _ => true
  | .fragmentTimeout _ => true
  | .noticeResend _ => true
  | .noticeQueueDrain _ => true
  | .pcieLinkChange _ _ => true
  | .identify _ => true
  | .echo _ _ => true
  | .noticeMask _ _ => true
  | .sessionReset _ => true
  | .commitOpen _ => true
  | .commit _ p => wfCommitSet p
  | .commitAbort _ => true
  | .stageDrop _ id => decide (id < 4294967296)
  | .diagRead _ offset count => decide (offset < 4294967296) && decide (count < 65536)
  | .diagWrite _ offset _ => decide (offset < 4294967296)
  | .powerModeSet _ mode wakeAfter => decide (mode < 256) && decide (wakeAfter < 4294967296)
  | .powerLatencySet _ tolerances => (tolerances.length == 14 && tolerances.all (fun x => decide (x < 4294967296)))
  | .powerDomainSet _ domain action => decide (domain < 256) && decide (action < 256)
  | .powerSagSet _ p => wfPowerSagSet p
  | .powerThermalSet _ p => wfPowerThermalSet p
  | .powerWakeSet _ enables alarm => decide (enables < 256) && decide (alarm < 4294967296)
  | .powerStatusGet _ => true
  | .pvtGet _ => true
  | .powerReset _ target next => decide (target < 256) && decide (next < 256)
  | .domainStepDone _ _ => true
  | .modeChangeDone _ => true
  | .dramIdleEntry _ idleNs => decide (idleNs < 18446744073709551616)
  | .sagW1 _ mv => decide (mv < 65536)
  | .sagRecovered _ mv => decide (mv < 65536)
  | .sagHoldExpiry _ => true
  | .w2Reset _ _ => true
  | .powerOnReset _ => true
  | .resetPin _ => true
  | .thermalTrip _ _ temp => fits 16 temp
  | .watchdogExpiry _ => true
  | .pd2Restart _ p => wfBootPins p
  | .rtcAlarmWake _ => true
  | .wakePin _ => true
  | .pwrGoodRise _ => true
  | .pwrGoodTimeout _ => true
  | .bootComplete _ p counts _ lead pool => wfBootPins p && (counts.length == 32 && counts.all (fun x => decide (x < 65536))) &&
      decide (100 ≤ lead) && decide (lead ≤ 2000) && decide (pool ≤ 16384)
  | .temperatureSample _ temps counts => (temps.length == 24 && temps.all (fun x => fits 16 x)) && (counts.length == 32 && counts.all (fun x => decide (x < 65536)))
  | .thermalShedStep _ => true
  | .voltageSample _ volts => (volts.length == 14 && volts.all (fun x => decide (x < 65536)))
  | .calRun _ mask flags lanes => decide (mask < 4294967296) && decide (flags < 256) && decide (lanes < 4294967296)
  | .calAbort _ => true
  | .calStatusGet _ => true
  | .calItemGet _ item first => decide (item < 256) && decide (first < 65536)
  | .calItemDone _ item _ runs => decide (item < 12) && runs.all wfCalRun
  | .calSectorWriteDone _ utc => decide (utc < 18446744073709551616)
  | .laneSkewStep _ _ => true
  | .secStatusGet _ => true
  | .secKeyEnroll _ p => wfKeyEnroll p
  | .secKeyRevoke _ ident => decide (ident < 65536)
  | .secRecordSet _ p => wfRecordSet p
  | .secProvisionDone _ flags => decide (flags < 256)
  | .secRollbackAdvance _ flags => decide (flags < 256)
  | .secRetire _ confirm => decide (confirm < 4294967296)
  | .fwBegin _ bank header => decide (bank < 256) && wfFwHeader header
  | .fwBlock _ block _ _ => decide (block < 65536)
  | .fwEnd _ bank => decide (bank < 256)
  | .fwActivate _ bank => decide (bank < 256)
  | .fwAbort _ bank => decide (bank < 256)
  | .fwStatusGet _ bank => decide (bank < 256)
  | .ledgerRecordOffer _ => true
  | .trackerTokenGain _ _ => true
  | .ledgerFlushPeriod _ => true
  | .ledgerFlushRun _ _ => true
  | .ledgerFlushDone _ => true
  | .freezeTimeout _ => true
  | .ledgerStatusGet _ => true
  | .ledgerRead _ _ count => decide (count < 65536)
  | .ledgerFreeze _ action limit => decide (action < 256) && decide (limit < 256)
  | .ledgerChallenge _ => true
  | .ledgerClear _ token => wfClearToken token
  | .ledgerLimitSet _ code r b => decide (code < 65536) && decide (r < 256) && decide (b < 256)
  | .ledgerFlush _ => true
  | .vbatLoss _ => true
  | .aonRailsGood _ => true
  | .powerUpRetry _ => true
  | .avsRetune _ => true
  | .fwBlockWriteDone _ _ => true

end Sys2Proof
end

