-- ==== Sys2Proof/Tests/Slice0.lean ====
section
/-! SUPPORT. Tests: every check of well-formedness refuses an ill-formed term, and the worked examples of the spec. -/

namespace Sys2Proof.Tests

open Sys2Proof.Machine

set_option maxRecDepth 100000
set_option Elab.async false

/-! The worked examples of the spec. -/

/-- R148: the check value of the ASCII bytes "123456789". -/
theorem test_crc32c : crc32c [0x31, 0x32, 0x33, 0x34, 0x35, 0x36, 0x37, 0x38, 0x39] = 0xE3069283 := by decide +kernel

/-- The example under R11. -/
theorem test_ident : regValue showing R.SYS_IDENT = 0x92001101 ∧ regValue noRadio R.SYS_IDENT = 0x92101100 := by decide +kernel

/-- The worked example of chapter 14: 60 Hz, origin 0. -/
theorem test_frame_times : frameAt showing 719 = 11983333333 ∧ frameAt showing 720 = 12000000000 := by decide +kernel

/-- The table of the ranging example in chapter 11. -/
theorem test_latch_units :
    [10020, 52010, 94080, 135970, 178070].map (latchUnits 100000) = [399960, 399792, 399624, 399456, 399288] := by decide +kernel

/-- The examples under R656. -/
theorem test_record_pieces :
    (recordPieces 0x8210 [1, 2, 3, 4]).1.length = 2 ∧ (recordPieces 0x8002 [1, 1, 2, 0, 0, 255, 1, 0, 15, 16384]).1.length = 4 := by decide +kernel

/-! A well-formed term of each operand, and terms that each break one check. -/

def zMsg : Msg := ⟨0, 0, 0, 0, 0, 0, 0, 0, 0, 0, 0, []⟩
def zTrailer : Trailer := ⟨0, 0, false⟩
def zSourceUpdate : SourceUpdate := ⟨0, 0, false, 0, 0, 0, none, .bi525, ⟨0, 0, 0, 0, 0, false⟩, 0⟩
def zTimeBaseSet : TimeBaseSet := ⟨0, 0, 0, 0, 0, 0, 0, 0, 0, 0⟩
def zTimeSelect : TimeSelect := ⟨0, 0, 0, 0⟩
def zTimeAcceptStep : TimeAcceptStep := ⟨0, 0, 0⟩
def zShowTimingSet : ShowTimingSet := ⟨0, 0, 0⟩
def zCueSchedule : CueSchedule := ⟨0, 0, 0, 0, 0, 0, 0, 0⟩
def zErrorFound : ErrorFound := ⟨0, 0, 0, List.replicate 12 0, 0, 0, 0, 0, none⟩
def zRgba : Rgba := ⟨0, 0, 0, 0⟩
def zSample : Sample := ⟨0, 0, 0⟩
def zCoding : Coding := ⟨0, 0, false, false, 0⟩
def zGeneratorSet : GeneratorSet := ⟨0, 0, 0, 0, 0, 0, ⟨0, 0, 0, 0⟩, ⟨0, 0, 0, 0⟩, 0, 0⟩
def zStreamPacket : StreamPacket := ⟨0, 0, 0, 0, 0, 0, false⟩
def zFrameIn : FrameIn := ⟨0, 0, false, false, false, 0, 0, false, ⟨0, 0, false, false, 0⟩, ⟨0, 0, 0⟩, []⟩
def zInputSet : InputSet := ⟨0, 0, 0, 0, 0, 0⟩
def zInputStreamSet : InputStreamSet := ⟨0, 0, 0, 0, 0, 0, 0, 0, 0, 0, 0, 0, 0, 0, 0, 0, 0, 0, 0, 0⟩
def zLayerBind : LayerBind := ⟨0, 0, 0, 0⟩
def zLayerSet : LayerSet := ⟨0, 0, 0, 0, 0, 0, 0, 0, 0, 0, 0, 0, 0, 0, 0, 0, 0, 0, 0, 0, 0, 0⟩
def zCanvasSet : CanvasSet := ⟨0, 0, 0, ⟨0, 0, 0, 0⟩⟩
def zMonitorSet : MonitorSet := ⟨0, 0, 0, 0, 0, 0, 0, 0, 0, 0, 0, 0, 0, 0, 0, 0, 0, 0, 0, 0, 0⟩
def zFixtureEntry : FixtureEntry := ⟨0, 0, 0, 0, 0, 0, 0, 0, 0, 0, 0, 0, 0, 0, 0, 0, 0, 0, 0, 0, 0⟩
def zFixtureSet : FixtureSet := ⟨0, 0, []⟩
def zZoneSet : ZoneSet := ⟨0, 0, 0, 0, 0, 0⟩
def zAttrDesc : AttrDesc := ⟨0, 0, [], []⟩
def zAttrSet : AttrSet := ⟨0, []⟩
def zAttrValueSet : AttrValueSet := ⟨0, 0, false, []⟩
def zTrapFound : TrapFound := ⟨0, false, 0⟩
def zKernelLoad : KernelLoad := ⟨0, 0, 0, 0, 0, 0, 0, 0, 0, 0, [], [], none⟩
def zEffectRec : EffectRec := ⟨0, 0, 0, 0, 0, 0, 0, 0, 0, 0, 0, 0⟩
def zEffectSet : EffectSet := ⟨0, []⟩
def zCurveSet : CurveSet := ⟨0, 0, 0, 0, 0, 0, []⟩
def zClassSet : ClassSet := ⟨0, 0, 0, 0, [], [], []⟩
def zCalRecord : CalRecord := ⟨[], [], 0, 0, 0⟩
def zCalRecordSet : CalRecordSet := ⟨0, []⟩
def zLaneSet : LaneSet := ⟨0, 0, 0, 0, 0, 0, 0, 0⟩
def zLaneChainSet : LaneChainSet := ⟨0, 0, []⟩
def zLaneGlobalSet : LaneGlobalSet := ⟨0, 0⟩
def zCtrlReturn : CtrlReturn := ⟨0, 0, 0, 0, 0, 0⟩
def zSlot : Slot := ⟨0, 0, 0, 0, 0, 0⟩
def zStrLaneSet : StrLaneSet := ⟨0, 0, 0, 0, 0, 0, 0, 0, 0⟩
def zStrLampSet : StrLampSet := ⟨0, 0, 0, 0, 0⟩
def zRxFrame : RxFrame := ⟨[], false, false, 0, 0, 0⟩
def zMacPortSet : MacPortSet := ⟨0, 0, 0, 0, 0, 0, 0, 0, 0, 0⟩
def zWakePattern : WakePattern := ⟨List.replicate 16 0, List.replicate 128 0⟩
def zMacWakeSet : MacWakeSet := ⟨0, 0, List.replicate 6 0, []⟩
def zFlowCtx : FlowCtx := ⟨0, 0, 0, 0, 0, 0, 0, 0, 0, 0, 0, 0, 0, 0, 0, 0, []⟩
def zFlowSet : FlowSet := ⟨0, []⟩
def zRxEntry : RxEntry := ⟨0, 0⟩
def zRxUniverseSet : RxUniverseSet := ⟨0, []⟩
def zPktGlobalSet : PktGlobalSet := ⟨0, [], [], 0, 0⟩
def zDmxPortSet : DmxPortSet := ⟨0, 0, 0, 0, 0, 0, 0, 0, 0⟩
def zRdmRequest : RdmRequest := ⟨0, 0, 0, []⟩
def zPktCodeLoad : PktCodeLoad := ⟨0, 0, 0, [], [], none⟩
def zE131Packet : E131Packet := ⟨0, 0, 0, 0, false, false, 0, []⟩
def zRadioSet : RadioSet := ⟨0, 0, 0, 0, 0, 0, 0, 0, 0, 0, 0⟩
def zRadioNodeRec : RadioNodeRec := ⟨0, 0, 0, 0, []⟩
def zRadioNodeSet : RadioNodeSet := ⟨[]⟩
def zRadioGlobalSet : RadioGlobalSet := ⟨0, 0, 0⟩
def zRadioFwLoad : RadioFwLoad := ⟨0, 0, 0, 0, []⟩
def zRadioFwStart : RadioFwStart := ⟨0, 0, 0, 0, 0, 0⟩
def zRadioRx : RadioRx := ⟨0, 0, []⟩
def zLeaseFrame : LeaseFrame := ⟨false, false, 0, 0, 0, 0, 0, 0, 0, 0, 0⟩
def zPairSet : PairSet := ⟨0, 0, 0, 0, 0, 0, 0, 0, 0, 0, 0, 0, 0⟩
def zDatagram : Datagram := ⟨0, 0, false, 0, 0, 0, 0, 0, 0, false, 0, zMsg⟩
def zCommitSet : CommitSet := ⟨0, 0, 0⟩
def zPowerSagSet : PowerSagSet := ⟨0, 0⟩
def zPowerThermalSet : PowerThermalSet := ⟨0, 0, 0, 0⟩
def zCalRun : CalRun := ⟨0, 0, 0, 0, 0⟩
def zFwHeader : FwHeader := ⟨false, 0, 0, 0, 0, 0, 0, 0, 0, 0, [], ⟨0, 0, false⟩⟩
def zBootPins : BootPins := ⟨0, false, 0⟩
def zKeyEnroll : KeyEnroll := ⟨0, 0, 0, false, 0⟩
def zRecordSet : RecordSet := ⟨0, 0, 0, 0, 0⟩
def zClearToken : ClearToken := ⟨false, 0, false, 0, ⟨0, 0, false⟩⟩

theorem test_wf_lengths (l : List (BitVec 8)) (h : 131072 < l.length) :
    wfMsg { zMsg with payload := l } = false ∧ wfRxFrame { zRxFrame with bytes := l } = false := by
  have h2 : ¬ l.length ≤ 131072 := by omega
  have h3 : ¬ l.length < 65536 := by omega
  simp [wfMsg, wfRxFrame, h2, h3]

theorem test_wf_Time :
    wfMsg zMsg = true ∧ ([
      { zMsg with magic := 65536 }, { zMsg with version := 256 }, { zMsg with flags := 256 }, { zMsg with code := 65536 },
      { zMsg with cls := 256 }, { zMsg with status := 256 }, { zMsg with length := 4294967296 },
      { zMsg with stamp := 2 ^ 63 }, { zMsg with check := 4294967296 }] : List Msg).all (fun p => !wfMsg p) = true ∧
    wfTrailer zTrailer = true ∧ ([
      { zTrailer with slot := 256 }, { zTrailer with keyHash := 2 ^ 192 * 2 ^ 192 }] : List Trailer).all (fun p => !wfTrailer p) = true ∧
    wfSourceUpdate zSourceUpdate = true ∧ ([
      { zSourceUpdate with pathDelay := 4294967296 }, { zSourceUpdate with wordRate := 4294967296 },
      { zSourceUpdate with label := { (⟨0, 0, 0, 0, 0, false⟩ : LtcLabel) with hh := 32 } },
      { zSourceUpdate with label := { (⟨0, 0, 0, 0, 0, false⟩ : LtcLabel) with mm := 64 } },
      { zSourceUpdate with label := { (⟨0, 0, 0, 0, 0, false⟩ : LtcLabel) with ss := 64 } },
      { zSourceUpdate with label := { (⟨0, 0, 0, 0, 0, false⟩ : LtcLabel) with ff := 64 } },
      { zSourceUpdate with label := { (⟨0, 0, 0, 0, 0, false⟩ : LtcLabel) with fps := 64 } },
      { zSourceUpdate with logInterval := 128 }, { zSourceUpdate with logInterval := (-129) }] : List SourceUpdate).all (fun p => !wfSourceUpdate p) = true ∧
    wfTimeBaseSet zTimeBaseSet = true ∧ ([
      { zTimeBaseSet with tb := 256 }, { zTimeBaseSet with source := 256 },
      { zTimeBaseSet with portA := 256 }, { zTimeBaseSet with portB := 256 },
      { zTimeBaseSet with domainA := 256 }, { zTimeBaseSet with domainB := 256 },
      { zTimeBaseSet with flags := 256 }, { zTimeBaseSet with abLimit := 4294967296 },
      { zTimeBaseSet with ltcDay := 4294967296 }, { zTimeBaseSet with refOffset := 2147483648 },
      { zTimeBaseSet with refOffset := (-2147483649) }] : List TimeBaseSet).all (fun p => !wfTimeBaseSet p) = true ∧
    wfTimeSelect zTimeSelect = true ∧ ([
      { zTimeSelect with tb := 256 }, { zTimeSelect with slew := 65536 },
      { zTimeSelect with threshold := 4294967296 }, { zTimeSelect with startWait := 4294967296 }] : List TimeSelect).all (fun p => !wfTimeSelect p) = true ∧
    wfTimeAcceptStep zTimeAcceptStep = true ∧ ([
      { zTimeAcceptStep with tb := 256 }, { zTimeAcceptStep with mode := 256 },
      { zTimeAcceptStep with stepId := 65536 }] : List TimeAcceptStep).all (fun p => !wfTimeAcceptStep p) = true ∧
    wfShowTimingSet zShowTimingSet = true ∧ ([
      { zShowTimingSet with n := 4294967296 }, { zShowTimingSet with d := 4294967296 },
      { zShowTimingSet with origin := 9223372036854775808 },
      { zShowTimingSet with origin := (-9223372036854775809) }] : List ShowTimingSet).all (fun p => !wfShowTimingSet p) = true ∧
    wfCueSchedule zCueSchedule = true ∧ ([
      { zCueSchedule with cueId := 4294967296 }, { zCueSchedule with basis := 256 },
      { zCueSchedule with action := 256 }, { zCueSchedule with priority := 256 },
      { zCueSchedule with flags := 256 }, { zCueSchedule with sub := 4294967296 },
      { zCueSchedule with argument := 4294967296 }, { zCueSchedule with when_ := 9223372036854775808 },
      { zCueSchedule with when_ := (-9223372036854775809) }] : List CueSchedule).all (fun p => !wfCueSchedule p) = true ∧
    wfErrorFound zErrorFound = true ∧ ([
      { zErrorFound with site := 12 }, { zErrorFound with kind := 3 },
      { zErrorFound with address := 18446744073709551616 }, { zErrorFound with parity := 4096 },
      { zErrorFound with object := 4294967296 }, { zErrorFound with segment := 4294967296 },
      { zErrorFound with engine := 16 }, { zErrorFound with site := 8 },
      { zErrorFound with word := [] }, { zErrorFound with site := 11, kind := 1 },
      { zErrorFound with kind := 1 }, { zErrorFound with consumer := some 7, kind := 2, site := 8 },
      { zErrorFound with consumer := some 0 }] : List ErrorFound).all (fun p => !wfErrorFound p) = true ∧
    wfRgba zRgba = true ∧ ([
      { zRgba with r := 65536 }, { zRgba with g := 65536 }, { zRgba with b := 65536 },
      { zRgba with a := 65536 }] : List Rgba).all (fun p => !wfRgba p) = true ∧
    wfSample zSample = true ∧ ([
      { zSample with y := 65536 }, { zSample with cb := 65536 }, { zSample with cr := 65536 }] : List Sample).all (fun p => !wfSample p) = true ∧
    wfCoding zCoding = true ∧ ([
      { zCoding with sampling := 3 }, { zCoding with depth := 17 }, { zCoding with transfer := 3 }] : List Coding).all (fun p => !wfCoding p) = true := by decide +kernel

theorem test_wf_Inputs :
    wfGeneratorSet zGeneratorSet = true ∧ ([
      { zGeneratorSet with generator := 256 }, { zGeneratorSet with pattern := 256 },
      { zGeneratorSet with transfer := 256 }, { zGeneratorSet with primaries := 256 },
      { zGeneratorSet with width := 65536 }, { zGeneratorSet with height := 65536 },
      { zGeneratorSet with cell := 65536 }, { zGeneratorSet with speed := 32768 },
      { zGeneratorSet with speed := (-32769) }, { zGeneratorSet with colorA := ⟨65536, 0, 0, 0⟩ },
      { zGeneratorSet with colorB := ⟨65536, 0, 0, 0⟩ }] : List GeneratorSet).all (fun p => !wfGeneratorSet p) = true ∧
    wfStreamPacket zStreamPacket = true ∧ ([
      { zStreamPacket with pt := 128 }, { zStreamPacket with ssrc := 4294967296 },
      { zStreamPacket with line := 32768 }, { zStreamPacket with pixel := 32768 },
      { zStreamPacket with count := 65536 }] : List StreamPacket).all (fun p => !wfStreamPacket p) = true ∧
    wfFrameIn zFrameIn = true ∧ ([
      { zFrameIn with width := 65536 }, { zFrameIn with height := 65536 },
      { zFrameIn with rateNum := 4294967296 }, { zFrameIn with rateDen := 4294967296 },
      { zFrameIn with coding := ⟨3, 0, false, false, 0⟩ }, { zFrameIn with fill := ⟨65536, 0, 0⟩ },
      { zFrameIn with pixels := [(0, ⟨65536, 0, 0⟩)] }] : List FrameIn).all (fun p => !wfFrameIn p) = true ∧
    wfInputSet zInputSet = true ∧ ([
      { zInputSet with source := 256 }, { zInputSet with flags := 256 },
      { zInputSet with override := 256 }, { zInputSet with width := 65536 },
      { zInputSet with height := 65536 }, { zInputSet with jitterUs := 65536 }] : List InputSet).all (fun p => !wfInputSet p) = true ∧
    wfInputStreamSet zInputStreamSet = true ∧ ([
      { zInputStreamSet with stream := 256 }, { zInputStreamSet with paths := 256 },
      { zInputStreamSet with pt := 256 }, { zInputStreamSet with sampling := 256 },
      { zInputStreamSet with depth := 256 }, { zInputStreamSet with colorimetry := 256 },
      { zInputStreamSet with tcs := 256 }, { zInputStreamSet with flags := 256 },
      { zInputStreamSet with width := 65536 }, { zInputStreamSet with height := 65536 },
      { zInputStreamSet with rateNum := 4294967296 }, { zInputStreamSet with rateDen := 4294967296 },
      { zInputStreamSet with groupA := 4294967296 }, { zInputStreamSet with srcA := 4294967296 },
      { zInputStreamSet with groupB := 4294967296 }, { zInputStreamSet with srcB := 4294967296 },
      { zInputStreamSet with portA := 65536 }, { zInputStreamSet with portB := 65536 },
      { zInputStreamSet with skewMax := 65536 }, { zInputStreamSet with ssrc := 4294967296 }] : List InputStreamSet).all (fun p => !wfInputStreamSet p) = true := by decide +kernel

theorem test_wf_Compositor :
    wfLayerBind zLayerBind = true ∧ ([
      { zLayerBind with layer := 256 }, { zLayerBind with source := 256 },
      { zLayerBind with policy := 256 }, { zLayerBind with holdFrames := 256 }] : List LayerBind).all (fun p => !wfLayerBind p) = true ∧
    wfLayerSet zLayerSet = true ∧ ([
      { zLayerSet with layer := 256 }, { zLayerSet with flags := 256 },
      { zLayerSet with rotation := 256 }, { zLayerSet with filter := 256 },
      { zLayerSet with cropX := 65536 }, { zLayerSet with cropY := 65536 },
      { zLayerSet with cropW := 65536 }, { zLayerSet with cropH := 65536 },
      { zLayerSet with dstW := 65536 }, { zLayerSet with dstH := 65536 },
      { zLayerSet with keyMode := 256 }, { zLayerSet with keyFlags := 256 },
      { zLayerSet with blend := 256 }, { zLayerSet with keyT := 65536 },
      { zLayerSet with keyS := 65536 }, { zLayerSet with opacity := 65536 },
      { zLayerSet with knee := 65536 }, { zLayerSet with sdrWhite := 65536 },
      { zLayerSet with dstX := 32768 }, { zLayerSet with dstX := (-32769) },
      { zLayerSet with dstY := 32768 }, { zLayerSet with dstY := (-32769) },
      { zLayerSet with keyKb := 32768 }, { zLayerSet with keyKb := (-32769) },
      { zLayerSet with keyKr := 32768 }, { zLayerSet with keyKr := (-32769) }] : List LayerSet).all (fun p => !wfLayerSet p) = true ∧
    wfCanvasSet zCanvasSet = true ∧ ([
      { zCanvasSet with width := 65536 }, { zCanvasSet with height := 65536 },
      { zCanvasSet with peak := 65536 }, { zCanvasSet with background := ⟨65536, 0, 0, 0⟩ }] : List CanvasSet).all (fun p => !wfCanvasSet p) = true ∧
    wfMonitorSet zMonitorSet = true ∧ ([
      { zMonitorSet with flags := 256 }, { zMonitorSet with format := 256 },
      { zMonitorSet with rate := 256 }, { zMonitorSet with source := 256 },
      { zMonitorSet with transfer := 256 }, { zMonitorSet with primaries := 256 },
      { zMonitorSet with hscale := 256 }, { zMonitorSet with vscale := 256 },
      { zMonitorSet with offset := 4294967296 }, { zMonitorSet with winX := 65536 },
      { zMonitorSet with winY := 65536 }, { zMonitorSet with winW := 65536 },
      { zMonitorSet with winH := 65536 }, { zMonitorSet with outX := 65536 },
      { zMonitorSet with outY := 65536 }, { zMonitorSet with white := 65536 },
      { zMonitorSet with pull := 65536 }, { zMonitorSet with borderY := 65536 },
      { zMonitorSet with borderCb := 65536 }, { zMonitorSet with borderCr := 65536 },
      { zMonitorSet with lmatch := 65536 }] : List MonitorSet).all (fun p => !wfMonitorSet p) = true := by decide +kernel

theorem test_wf_Fixtures :
    wfFixtureEntry zFixtureEntry = true ∧ ([
      { zFixtureEntry with kind := 256 }, { zFixtureEntry with flags := 256 },
      { zFixtureEntry with zone := 256 }, { zFixtureEntry with curve := 256 },
      { zFixtureEntry with kernel := 256 }, { zFixtureEntry with channels := 256 },
      { zFixtureEntry with chanMap := 65536 }, { zFixtureEntry with cols := 65536 },
      { zFixtureEntry with rows := 65536 }, { zFixtureEntry with routeA := 4294967296 },
      { zFixtureEntry with routeB := 4294967296 }, { zFixtureEntry with calRef := 4294967296 },
      { zFixtureEntry with attrRef := 4294967296 }, { zFixtureEntry with effect := 4294967296 },
      { zFixtureEntry with epoch := 18446744073709551616 },
      { zFixtureEntry with originX := 2147483648 }, { zFixtureEntry with originX := (-2147483649) },
      { zFixtureEntry with originY := 2147483648 }, { zFixtureEntry with originY := (-2147483649) },
      { zFixtureEntry with colDx := 2147483648 }, { zFixtureEntry with colDx := (-2147483649) },
      { zFixtureEntry with colDy := 2147483648 }, { zFixtureEntry with colDy := (-2147483649) },
      { zFixtureEntry with rowDx := 2147483648 }, { zFixtureEntry with rowDx := (-2147483649) },
      { zFixtureEntry with rowDy := 2147483648 }, { zFixtureEntry with rowDy := (-2147483649) }] : List FixtureEntry).all (fun p => !wfFixtureEntry p) = true ∧
    wfFixtureSet zFixtureSet = true ∧ ([
      { zFixtureSet with first := 4294967296 }, { zFixtureSet with flags := 256 },
      { zFixtureSet with entries := [{ (⟨0, 0, 0, 0, 0, 0, 0, 0, 0, 0, 0, 0, 0, 0, 0, 0, 0, 0, 0, 0, 0⟩ : FixtureEntry) with kind := 256 }] }] : List FixtureSet).all (fun p => !wfFixtureSet p) = true ∧
    wfZoneSet zZoneSet = true ∧ ([
      { zZoneSet with zone := 256 }, { zZoneSet with flags := 256 }, { zZoneSet with priority := 256 },
      { zZoneSet with shedOrder := 256 }, { zZoneSet with group := 256 },
      { zZoneSet with delay := 4294967296 }] : List ZoneSet).all (fun p => !wfZoneSet p) = true ∧
    wfAttrDesc zAttrDesc = true ∧ ([
      { zAttrDesc with ctrl := 4294967296 }, { zAttrDesc with dflt := 65536 },
      { zAttrDesc with src := [4294967296] }, { zAttrDesc with prio := [256] }] : List AttrDesc).all (fun p => !wfAttrDesc p) = true ∧
    wfAttrSet zAttrSet = true ∧ ([
      { zAttrSet with first := 4294967296 },
      { zAttrSet with descs := [{ (⟨0, 0, [], []⟩ : AttrDesc) with dflt := 65536 }] }] : List AttrSet).all (fun p => !wfAttrSet p) = true ∧
    wfAttrValueSet zAttrValueSet = true ∧ ([
      { zAttrValueSet with first := 4294967296 }, { zAttrValueSet with count := 65536 },
      { zAttrValueSet with values := [65536] }] : List AttrValueSet).all (fun p => !wfAttrValueSet p) = true ∧
    wfTrapFound zTrapFound = true ∧ ([
      { zTrapFound with fixture := 4294967296 }, { zTrapFound with cause := 256 }] : List TrapFound).all (fun p => !wfTrapFound p) = true := by decide +kernel

theorem test_wf_Kernels :
    wfKernelLoad zKernelLoad = true ∧ ([
      { zKernelLoad with code := 256 }, { zKernelLoad with kind := 256 },
      { zKernelLoad with tapsW := 256 }, { zKernelLoad with tapsH := 256 },
      { zKernelLoad with cost := 65536 }, { zKernelLoad with canvasBytes := 4294967296 },
      { zKernelLoad with codeBytes := 4294967296 }, { zKernelLoad with dataBytes := 4294967296 },
      { zKernelLoad with stateBytes := 65536 }, { zKernelLoad with check := 4294967296 },
      { zKernelLoad with text := [0] }, { zKernelLoad with store := [0] },
      { zKernelLoad with trailer := some ⟨256, 0, false⟩ }] : List KernelLoad).all (fun p => !wfKernelLoad p) = true ∧
    wfEffectRec zEffectRec = true ∧ ([
      { zEffectRec with program := 256 }, { zEffectRec with flags := 256 },
      { zEffectRec with rate := 65536 }, { zEffectRec with offset := 65536 },
      { zEffectRec with spread := 65536 }, { zEffectRec with base := 65536 },
      { zEffectRec with depth := 65536 }, { zEffectRec with duty := 65536 },
      { zEffectRec with hold := 65536 }, { zEffectRec with seed := 4294967296 },
      { zEffectRec with k0 := 4294967296 }, { zEffectRec with user := 18446744073709551616 }] : List EffectRec).all (fun p => !wfEffectRec p) = true ∧
    wfEffectSet zEffectSet = true ∧ ([
      { zEffectSet with first := 65536 },
      { zEffectSet with records := [{ (⟨0, 0, 0, 0, 0, 0, 0, 0, 0, 0, 0, 0⟩ : EffectRec) with program := 256 }] }] : List EffectSet).all (fun p => !wfEffectSet p) = true := by decide +kernel

theorem test_wf_Color :
    wfCurveSet zCurveSet = true ∧ ([
      { zCurveSet with curve := 256 }, { zCurveSet with type := 256 }, { zCurveSet with dither := 256 },
      { zCurveSet with gamma := 65536 }, { zCurveSet with logA := 65536 },
      { zCurveSet with limit := 65536 }, { zCurveSet with entries := [4294967296] }] : List CurveSet).all (fun p => !wfCurveSet p) = true ∧
    wfClassSet zClassSet = true ∧ ([
      { zClassSet with cls := 256 }, { zClassSet with gamut := 256 },
      { zClassSet with whiteShare := 65536 }, { zClassSet with tRef := 32768 },
      { zClassSet with tRef := (-32769) }, { zClassSet with weights := [65536] },
      { zClassSet with mix := [65536] }, { zClassSet with gains := [65536] }] : List ClassSet).all (fun p => !wfClassSet p) = true ∧
    wfCalRecord zCalRecord = true ∧ ([
      { zCalRecord with droop := 256 }, { zCalRecord with cls := 256 }, { zCalRecord with g3 := 256 },
      { zCalRecord with m := [32768] }, { zCalRecord with off := [128] }] : List CalRecord).all (fun p => !wfCalRecord p) = true ∧
    wfCalRecordSet zCalRecordSet = true ∧ ([
      { zCalRecordSet with first := 4294967296 }, { zCalRecordSet with records := [⟨[], [], 256, 0, 0⟩] }] : List CalRecordSet).all (fun p => !wfCalRecordSet p) = true := by decide +kernel

theorem test_wf_Lanes :
    wfLaneSet zLaneSet = true ∧ ([
      { zLaneSet with lane := 256 }, { zLaneSet with flags := 256 }, { zLaneSet with mode := 256 },
      { zLaneSet with retries := 256 }, { zLaneSet with turn := 4294967296 },
      { zLaneSet with ackTimeout := 4294967296 }, { zLaneSet with hold := 65536 },
      { zLaneSet with asym := 2147483648 }, { zLaneSet with asym := (-2147483649) }] : List LaneSet).all (fun p => !wfLaneSet p) = true ∧
    wfLaneChainSet zLaneChainSet = true ∧ ([
      { zLaneChainSet with lane := 256 }, { zLaneChainSet with format := 256 },
      { zLaneChainSet with counts := [65536] }] : List LaneChainSet).all (fun p => !wfLaneChainSet p) = true ∧
    wfLaneGlobalSet zLaneGlobalSet = true ∧ ([
      { zLaneGlobalSet with target := 4294967296 }, { zLaneGlobalSet with collect := 65536 }] : List LaneGlobalSet).all (fun p => !wfLaneGlobalSet p) = true ∧
    wfCtrlReturn zCtrlReturn = true ∧ ([
      { zCtrlReturn with status := 256 }, { zCtrlReturn with seq := 256 },
      { zCtrlReturn with alive := 65536 }, { zCtrlReturn with errors := 4294967296 }] : List CtrlReturn).all (fun p => !wfCtrlReturn p) = true ∧
    wfSlot zSlot = true ∧ ([
      { zSlot with flags := 256 }, { zSlot with syncSeq := 256 }, { zSlot with crcErr := 65536 },
      { zSlot with epoch := 18446744073709551616 }, { zSlot with temp := 32768 },
      { zSlot with temp := (-32769) }] : List Slot).all (fun p => !wfSlot p) = true := by decide +kernel

theorem test_wf_Strings :
    wfStrLaneSet zStrLaneSet = true ∧ ([
      { zStrLaneSet with lane := 256 }, { zStrLaneSet with diagPhase := 256 },
      { zStrLaneSet with diagI := 256 }, { zStrLaneSet with phaseStep := 65536 },
      { zStrLaneSet with iset0 := 65536 }, { zStrLaneSet with iset1 := 65536 },
      { zStrLaneSet with iset2 := 65536 }, { zStrLaneSet with vOpen := 65536 },
      { zStrLaneSet with vShort := 65536 }] : List StrLaneSet).all (fun p => !wfStrLaneSet p) = true ∧
    wfStrLampSet zStrLampSet = true ∧ ([
      { zStrLampSet with lane := 256 }, { zStrLampSet with action := 256 },
      { zStrLampSet with chip := 65536 }, { zStrLampSet with lamp := 256 },
      { zStrLampSet with strings := 256 }] : List StrLampSet).all (fun p => !wfStrLampSet p) = true ∧
    wfRxFrame zRxFrame = true ∧ ([
      { zRxFrame with pcsErrors := 4294967296 }, { zRxFrame with fecCorrected := 4294967296 },
      { zRxFrame with fecUncorrected := 4294967296 }] : List RxFrame).all (fun p => !wfRxFrame p) = true := by decide +kernel

theorem test_wf_Mac :
    wfMacPortSet zMacPortSet = true ∧ ([
      { zMacPortSet with port := 256 }, { zMacPortSet with flags := 256 },
      { zMacPortSet with mode := 256 }, { zMacPortSet with fec := 256 },
      { zMacPortSet with mtu := 65536 }, { zMacPortSet with honor := 256 },
      { zMacPortSet with address := 281474976710656 }, { zMacPortSet with wdLimit := 65536 },
      { zMacPortSet with wdIgnore := 65536 }, { zMacPortSet with launchWin := 65536 }] : List MacPortSet).all (fun p => !wfMacPortSet p) = true ∧
    wfWakePattern zWakePattern = true ∧ ([
      { zWakePattern with mask := [0] }, { zWakePattern with bytes := [0] }] : List WakePattern).all (fun p => !wfWakePattern p) = true ∧
    wfMacWakeSet zMacWakeSet = true ∧ ([
      { zMacWakeSet with flags := 256 }, { zMacWakeSet with patternEn := 256 },
      { zMacWakeSet with password := [0] }, { zMacWakeSet with patterns := [⟨[], []⟩] }] : List MacWakeSet).all (fun p => !wfMacWakeSet p) = true ∧
    wfFlowCtx zFlowCtx = true ∧ ([
      { zFlowCtx with protocol := 256 }, { zFlowCtx with port := 256 }, { zFlowCtx with flags := 256 },
      { zFlowCtx with queue := 256 }, { zFlowCtx with prio := 256 }, { zFlowCtx with dscp := 256 },
      { zFlowCtx with ttl := 256 }, { zFlowCtx with vlan := 65536 },
      { zFlowCtx with dstMac := 281474976710656 }, { zFlowCtx with dstIp := 4294967296 },
      { zFlowCtx with srcUdp := 65536 }, { zFlowCtx with dstUdp := 65536 },
      { zFlowCtx with ident := 65536 }, { zFlowCtx with e131Prio := 256 },
      { zFlowCtx with syncId := 65536 }, { zFlowCtx with size := 65536 }] : List FlowCtx).all (fun p => !wfFlowCtx p) = true ∧
    wfFlowSet zFlowSet = true ∧ ([
      { zFlowSet with first := 4294967296 },
      { zFlowSet with contexts := [{ (⟨0, 0, 0, 0, 0, 0, 0, 0, 0, 0, 0, 0, 0, 0, 0, 0, []⟩ : FlowCtx) with protocol := 256 }] }] : List FlowSet).all (fun p => !wfFlowSet p) = true := by decide +kernel

theorem test_wf_Packets :
    wfRxEntry zRxEntry = true ∧ ([
      { zRxEntry with univ := 65536 }, { zRxEntry with mask := 256 }] : List RxEntry).all (fun p => !wfRxEntry p) = true ∧
    wfRxUniverseSet zRxUniverseSet = true ∧ ([
      { zRxUniverseSet with first := 65536 }, { zRxUniverseSet with entries := [⟨65536, 0⟩] }] : List RxUniverseSet).all (fun p => !wfRxUniverseSet p) = true ∧
    wfPktGlobalSet zPktGlobalSet = true ∧ ([
      { zPktGlobalSet with cid := 340282366920938463463374607431768211456 },
      { zPktGlobalSet with group := 4294967296 }, { zPktGlobalSet with udp := 65536 },
      { zPktGlobalSet with ips := [4294967296] }] : List PktGlobalSet).all (fun p => !wfPktGlobalSet p) = true ∧
    wfDmxPortSet zDmxPortSet = true ∧ ([
      { zDmxPortSet with port := 256 }, { zDmxPortSet with mode := 256 },
      { zDmxPortSet with flags := 256 }, { zDmxPortSet with rdmEvery := 256 },
      { zDmxPortSet with breakUs := 65536 }, { zDmxPortSet with mabUs := 65536 },
      { zDmxPortSet with mbsUs := 256 }, { zDmxPortSet with slots := 65536 },
      { zDmxPortSet with entry := 65536 }] : List DmxPortSet).all (fun p => !wfDmxPortSet p) = true ∧
    wfRdmRequest zRdmRequest = true ∧ ([
      { zRdmRequest with port := 256 }, { zRdmRequest with flags := 256 },
      { zRdmRequest with transaction := 65536 }] : List RdmRequest).all (fun p => !wfRdmRequest p) = true ∧
    wfPktCodeLoad zPktCodeLoad = true ∧ ([
      { zPktCodeLoad with code := 4294967296 }, { zPktCodeLoad with data := 4294967296 },
      { zPktCodeLoad with check := 4294967296 }, { zPktCodeLoad with text := [0] }, { zPktCodeLoad with store := [0] },
      { zPktCodeLoad with trailer := some ⟨256, 0, false⟩ }] : List PktCodeLoad).all (fun p => !wfPktCodeLoad p) = true ∧
    wfE131Packet zE131Packet = true ∧ ([
      { zE131Packet with univ := 65536 },
      { zE131Packet with cid := 340282366920938463463374607431768211456 },
      { zE131Packet with seq := 256 }, { zE131Packet with priority := 256 },
      { zE131Packet with startCode := 256 }, { zE131Packet with slots := [256] }] : List E131Packet).all (fun p => !wfE131Packet p) = true := by decide +kernel

theorem test_wf_Radio :
    wfRadioSet zRadioSet = true ∧ ([
      { zRadioSet with xcvr := 256 }, { zRadioSet with flags := 256 },
      { zRadioSet with profile := 256 }, { zRadioSet with scheme := 256 },
      { zRadioSet with net := 65536 }, { zRadioSet with gain := 256 },
      { zRadioSet with seed := 4294967296 }, { zRadioSet with mask := 18446744073709551616 },
      { zRadioSet with hourLimit := 4294967296 }, { zRadioSet with eirp := 128 },
      { zRadioSet with eirp := (-129) }, { zRadioSet with thresh := 128 },
      { zRadioSet with thresh := (-129) }] : List RadioSet).all (fun p => !wfRadioSet p) = true ∧
    wfRadioNodeRec zRadioNodeRec = true ∧ ([
      { zRadioNodeRec with node := 65536 }, { zRadioNodeRec with xcvr := 256 },
      { zRadioNodeRec with position := 65536 }, { zRadioNodeRec with eui := 18446744073709551616 },
      { zRadioNodeRec with groups := [65536] }] : List RadioNodeRec).all (fun p => !wfRadioNodeRec p) = true ∧
    wfRadioNodeSet zRadioNodeSet = true ∧ ([
      { zRadioNodeSet with records := [⟨65536, 0, 0, 0, []⟩] }] : List RadioNodeSet).all (fun p => !wfRadioNodeSet p) = true ∧
    wfRadioGlobalSet zRadioGlobalSet = true ∧ ([
      { zRadioGlobalSet with cueLead := 65536 }, { zRadioGlobalSet with cueRepeat := 256 },
      { zRadioGlobalSet with refresh := 65536 }] : List RadioGlobalSet).all (fun p => !wfRadioGlobalSet p) = true ∧
    wfRadioFwLoad zRadioFwLoad = true ∧ ([
      { zRadioFwLoad with image := 65536 }, { zRadioFwLoad with total := 4294967296 },
      { zRadioFwLoad with offset := 4294967296 }, { zRadioFwLoad with crc := 4294967296 }] : List RadioFwLoad).all (fun p => !wfRadioFwLoad p) = true ∧
    wfRadioFwStart zRadioFwStart = true ∧ ([
      { zRadioFwStart with image := 65536 }, { zRadioFwStart with action := 256 },
      { zRadioFwStart with share := 256 }, { zRadioFwStart with group := 65536 },
      { zRadioFwStart with mask := 256 }, { zRadioFwStart with crc := 4294967296 }] : List RadioFwStart).all (fun p => !wfRadioFwStart p) = true ∧
    wfRadioRx zRadioRx = true ∧ ([
      { zRadioRx with rssi := 128 }, { zRadioRx with rssi := (-129) },
      { zRadioRx with st := 9223372036854775808 }, { zRadioRx with st := (-9223372036854775809) },
      { zRadioRx with psdu := List.replicate 128 0 }] : List RadioRx).all (fun p => !wfRadioRx p) = true := by decide +kernel

theorem test_wf_Pair :
    wfLeaseFrame zLeaseFrame = true ∧ ([
      { zLeaseFrame with version := 256 }, { zLeaseFrame with type := 256 },
      { zLeaseFrame with pair := 65536 }, { zLeaseFrame with device := 256 },
      { zLeaseFrame with group := 256 }, { zLeaseFrame with duration := 65536 }] : List LeaseFrame).all (fun p => !wfLeaseFrame p) = true ∧
    wfPairSet zPairSet = true ∧ ([
      { zPairSet with device := 256 }, { zPairSet with flags := 256 }, { zPairSet with escPort := 256 },
      { zPairSet with arbPort := 256 }, { zPairSet with pair := 65536 },
      { zPairSet with leaseMs := 65536 }, { zPairSet with leadGroup := 256 },
      { zPairSet with partnerIp := 4294967296 }, { zPairSet with arbIp := 4294967296 },
      { zPairSet with escUdp := 65536 }, { zPairSet with arbUdp := 65536 },
      { zPairSet with partnerMac := 281474976710656 }, { zPairSet with member := 65536 }] : List PairSet).all (fun p => !wfPairSet p) = true ∧
    wfDatagram zDatagram = true ∧ ([
      { zDatagram with dstIp := 4294967296 }, { zDatagram with dstPort := 65536 },
      { zDatagram with type := 256 }, { zDatagram with session := 4294967296 },
      { zDatagram with counter := 18446744073709551616 }, { zDatagram with index := 65536 },
      { zDatagram with count := 65536 }, { zDatagram with message := 4294967296 },
      { zDatagram with keyId := 65536 }, { zDatagram with msg := { zMsg with version := 256 } }] : List Datagram).all (fun p => !wfDatagram p) = true := by decide +kernel

theorem test_wf_Power :
    wfCommitSet zCommitSet = true ∧ ([
      { zCommitSet with flags := 256 }, { zCommitSet with stageId := 4294967296 },
      { zCommitSet with k := 18446744073709551616 }] : List CommitSet).all (fun p => !wfCommitSet p) = true ∧
    wfPowerSagSet zPowerSagSet = true ∧ ([
      { zPowerSagSet with w1Pct := 256 }, { zPowerSagSet with holdMs := 65536 }] : List PowerSagSet).all (fun p => !wfPowerSagSet p) = true ∧
    wfPowerThermalSet zPowerThermalSet = true ∧ ([
      { zPowerThermalSet with showWarn := 32768 }, { zPowerThermalSet with showWarn := (-32769) },
      { zPowerThermalSet with showShed := 32768 }, { zPowerThermalSet with showShed := (-32769) },
      { zPowerThermalSet with soakWarn := 32768 }, { zPowerThermalSet with soakWarn := (-32769) },
      { zPowerThermalSet with soakShed := 32768 }, { zPowerThermalSet with soakShed := (-32769) }] : List PowerThermalSet).all (fun p => !wfPowerThermalSet p) = true ∧
    wfCalRun zCalRun = true ∧ ([
      { zCalRun with index := 65536 }, { zCalRun with run1 := 2147483648 },
      { zCalRun with run1 := (-2147483649) }, { zCalRun with run2 := 2147483648 },
      { zCalRun with run2 := (-2147483649) }, { zCalRun with phase1 := 2147483648 },
      { zCalRun with phase1 := (-2147483649) }, { zCalRun with phase2 := 2147483648 },
      { zCalRun with phase2 := (-2147483649) }] : List CalRun).all (fun p => !wfCalRun p) = true := by decide +kernel

theorem test_wf_Vault :
    wfFwHeader zFwHeader = true ∧ ([
      { zFwHeader with kind := 65536 }, { zFwHeader with version := 4294967296 },
      { zFwHeader with secver := 4294967296 }, { zFwHeader with part := 65536 },
      { zFwHeader with minStep := 256 }, { zFwHeader with interface := 256 },
      { zFwHeader with bytes := 4294967296 }, { zFwHeader with blocks := 65536 },
      { zFwHeader with digest := 2 ^ 192 * 2 ^ 192 }, { zFwHeader with crcs := [4294967296] },
      { zFwHeader with trailer := ⟨256, 0, false⟩ }] : List FwHeader).all (fun p => !wfFwHeader p) = true ∧
    wfBootPins zBootPins = true ∧ ([
      { zBootPins with katFail := 64 }, { zBootPins with corrupt := 4 }] : List BootPins).all (fun p => !wfBootPins p) = true ∧
    wfKeyEnroll zKeyEnroll = true ∧ ([
      { zKeyEnroll with ident := 65536 }, { zKeyEnroll with wrap := 65536 },
      { zKeyEnroll with length := 65536 }, { zKeyEnroll with material := 2 ^ 192 * 2 ^ 192 }] : List KeyEnroll).all (fun p => !wfKeyEnroll p) = true ∧
    wfRecordSet zRecordSet = true ∧ ([
      { zRecordSet with mac := 281474976710656 }, { zRecordSet with ip := 4294967296 },
      { zRecordSet with mask := 4294967296 }, { zRecordSet with gateway := 4294967296 },
      { zRecordSet with epoch := 9223372036854775808 },
      { zRecordSet with epoch := (-9223372036854775809) }] : List RecordSet).all (fun p => !wfRecordSet p) = true ∧
    wfClearToken zClearToken = true ∧ ([
      { zClearToken with number := 4294967296 }, { zClearToken with trailer := ⟨256, 0, false⟩ }] : List ClearToken).all (fun p => !wfClearToken p) = true := by decide +kernel

theorem test_wf_commands_1 : ([
    .registerWrite 0 .fabric 0xF0000001 0, .rcCounterRead 0 0xF0000001 0,
    .w1cWrite 0 .fabric 0xF0000001 0 0, .latchedLoRead 0 0xF0000001, .lockstepMismatch 0 4294967296,
    .frameBoundary [(16, 0)], .tbSourceUpdate 0 0 false { zSourceUpdate with pathDelay := 4294967296 },
    .showTimeStart 0 [(16, 0)], .timeBaseSet ⟨0, 0, 0⟩ { zTimeBaseSet with tb := 256 },
    .timeSelect ⟨0, 0, 0⟩ { zTimeSelect with tb := 256 },
    .timeAcceptStep ⟨0, 0, 0⟩ { zTimeAcceptStep with tb := 256 },
    .showTimingSet ⟨0, 0, 0⟩ { zShowTimingSet with n := 4294967296 },
    .almanacTick 0 9223372036854775808, .descriptorDispatch 0 [16],
    .cueSchedule ⟨0, 0, 0⟩ { zCueSchedule with cueId := 4294967296 }, .cueCancel ⟨0, 0, 0⟩ 4294967296,
    .almTraceGet ⟨0, 0, 0⟩ 65536 0, .almTraceGet ⟨0, 0, 0⟩ 0 65536, .chkStart 0 256 0 false,
    .chkFeed 0 256 0 0, .chkFinish 0 256 0 0, .chkFinish 0 0 0 65536,
    .chkStateAccess 0 256 0 false none, .parityError 0 { zErrorFound with site := 12 },
    .scrubPass 0 [{ zErrorFound with site := 12 }],
    .streamPacketReceived 0 0 false { zStreamPacket with pt := 128 },
    .sourceFrameComplete 0 0 { zFrameIn with width := 65536 },
    .inputSet ⟨0, 0, 0⟩ { zInputSet with source := 256 },
    .inputStreamSet ⟨0, 0, 0⟩ { zInputStreamSet with stream := 256 },
    .generatorSet ⟨0, 0, 0⟩ { zGeneratorSet with generator := 256 }, .inputStatusGet ⟨0, 0, 0⟩ 256,
    .layerBind ⟨0, 0, 0⟩ { zLayerBind with layer := 256 }, .layerRelease ⟨0, 0, 0⟩ 256] : List Instr).all (fun i => !wellFormed i) = true := by decide +kernel

theorem test_wf_commands_2 : ([
    .canvasLineDone 0 65536 false, .layerSet ⟨0, 0, 0⟩ { zLayerSet with layer := 256 },
    .canvasSet ⟨0, 0, 0⟩ { zCanvasSet with width := 65536 }, .rasterLineMatch 4096,
    .scanUnderrun 0 4096 0, .scanUnderrun 0 0 4096, .ltrRecompute 0 4294967296,
    .monitorSet ⟨0, 0, 0⟩ { zMonitorSet with flags := 256 },
    .fixtureSet ⟨0, 0, 0⟩ { zFixtureSet with first := 4294967296 }, .fixtureGet ⟨0, 0, 0⟩ 4294967296 0,
    .fixtureGet ⟨0, 0, 0⟩ 0 65536, .zoneSet ⟨0, 0, 0⟩ { zZoneSet with zone := 256 },
    .zoneGet ⟨0, 0, 0⟩ 256, .attrSet ⟨0, 0, 0⟩ { zAttrSet with first := 4294967296 },
    .attrValueSet ⟨0, 0, 0⟩ { zAttrValueSet with first := 4294967296 },
    .tileSampleStart 0 0 (some { zTrapFound with fixture := 4294967296 }), .engineFailure 0 0 7,
    .kernelLoad ⟨0, 0, 0⟩ { zKernelLoad with code := 256 }, .kernelUnload ⟨0, 0, 0⟩ 256 0,
    .kernelUnload ⟨0, 0, 0⟩ 0 256, .effectSet ⟨0, 0, 0⟩ { zEffectSet with first := 65536 },
    .mapEngineSet ⟨0, 0, 0⟩ 256 0, .mapEngineSet ⟨0, 0, 0⟩ 0 256, .reportStaleTimeout 0 32768,
    .curveSet ⟨0, 0, 0⟩ { zCurveSet with curve := 256 },
    .classSet ⟨0, 0, 0⟩ { zClassSet with cls := 256 },
    .calRecordSet ⟨0, 0, 0⟩ { zCalRecordSet with first := 4294967296 },
    .calRecordGet ⟨0, 0, 0⟩ 4294967296 0, .calRecordGet ⟨0, 0, 0⟩ 0 65536,
    .zoneTempSet ⟨0, 0, 0⟩ 256 false 0, .zoneTempSet ⟨0, 0, 0⟩ 0 false 32768,
    .enumerateFrameReturn 0 0 ⟨65536, 0⟩ 0, .enumerateFrameReturn 0 0 ⟨0, 65536⟩ 0, .enumerateFrameReturn 0 0 ⟨0, 0⟩ 4294967296] : List Instr).all (fun i => !wellFormed i) = true := by decide +kernel

theorem test_wf_commands_3 : ([
    .rangeFrameReturn 0 0 ⟨1024, 0, 0, 0⟩ 0, .rangeFrameReturn 0 0 ⟨0, 256, 0, 0⟩ 0, .rangeFrameReturn 0 0 ⟨0, 0, 0, 4294967296⟩ 0,
    .rangeFrameReturn 0 0 ⟨0, 0, 0, 0⟩ 18446744073709551616,
    .controlFrameReturn 0 0 { zCtrlReturn with status := 256 }, .collectFrameReturn 0 0 [] 4294967296,
    .collectFrameReturn 0 0 [{ zSlot with flags := 256 }] 0, .laneRxLoss 0 0 4294967296,
    .laneSet ⟨0, 0, 0⟩ { zLaneSet with lane := 256 },
    .laneChainSet ⟨0, 0, 0⟩ { zLaneChainSet with lane := 256 },
    .laneGlobalSet ⟨0, 0, 0⟩ { zLaneGlobalSet with target := 4294967296 },
    .laneRange ⟨0, 0, 0⟩ 4294967296 0, .laneRange ⟨0, 0, 0⟩ 0 65536, .laneStatusGet ⟨0, 0, 0⟩ 256,
    .laneChipWrite ⟨0, 0, 0⟩ 256 0 0 [], .laneChipWrite ⟨0, 0, 0⟩ 0 65536 0 [],
    .laneChipWrite ⟨0, 0, 0⟩ 0 0 65536 [], .laneChipRead ⟨0, 0, 0⟩ 256 0 0,
    .laneChipRead ⟨0, 0, 0⟩ 0 65536 0, .laneChipRead ⟨0, 0, 0⟩ 0 0 65536,
    .strLaneSet ⟨0, 0, 0⟩ { zStrLaneSet with lane := 256 },
    .strLampSet ⟨0, 0, 0⟩ { zStrLampSet with lane := 256 }, .strFaultGet ⟨0, 0, 0⟩ 65536 0,
    .strFaultGet ⟨0, 0, 0⟩ 0 65536, .linkUp 0 0 3, .linkDown 0 0 256,
    .frameReceived 0 0 { zRxFrame with pcsErrors := 4294967296 }, .pauseFrameReceived 0 0 0 0 [65536],
    .pauseFrameReceived 0 0 65536 0 [], .pauseFrameReceived 0 0 0 65536 [],
    .macPortSet ⟨0, 0, 0⟩ { zMacPortSet with port := 256 }, .macPairSet ⟨0, 0, 0⟩ 256 0 0,
    .macPairSet ⟨0, 0, 0⟩ 0 256 0, .macPairSet ⟨0, 0, 0⟩ 0 0 256,
    .macWakeSet ⟨0, 0, 0⟩ { zMacWakeSet with flags := 256 }] : List Instr).all (fun i => !wellFormed i) = true := by decide +kernel

theorem test_wf_commands_4 : ([
    .macStatusGet ⟨0, 0, 0⟩ 256, .macTallyGet ⟨0, 0, 0⟩ 256 0, .macTallyGet ⟨0, 0, 0⟩ 0 256,
    .e131PacketReceived 0 0 { zE131Packet with univ := 65536 }, .e131SourceTimeout 0 16384 0,
    .e131SourceTimeout 0 0 340282366920938463463374607431768211456, .dmxFrameReceived 0 0 0 [256] 0,
    .dmxFrameReceived 0 0 256 [] 0, .dmxFrameReceived 0 0 0 [] 4294967296,
    .rdmResponseReceived 0 0 256 0 [], .pktEngineFailure 0 0 256,
    .flowSet ⟨0, 0, 0⟩ { zFlowSet with first := 4294967296 },
    .rxUniverseSet ⟨0, 0, 0⟩ { zRxUniverseSet with first := 65536 },
    .pktGlobalSet ⟨0, 0, 0⟩ { zPktGlobalSet with cid := 340282366920938463463374607431768211456 },
    .dmxPortSet ⟨0, 0, 0⟩ { zDmxPortSet with port := 256 },
    .rdmRequest ⟨0, 0, 0⟩ { zRdmRequest with port := 256 },
    .pktCodeLoad ⟨0, 0, 0⟩ { zPktCodeLoad with code := 4294967296 },
    .radioSlotStart 0 0 false 4294967296, .radioFrameReceived 0 0 { zRadioRx with rssi := 128 },
    .radioSet ⟨0, 0, 0⟩ { zRadioSet with xcvr := 256 },
    .radioNodeSet ⟨0, 0, 0⟩ { zRadioNodeSet with records := [⟨65536, 0, 0, 0, []⟩] },
    .radioGlobalSet ⟨0, 0, 0⟩ { zRadioGlobalSet with cueLead := 65536 }, .radioStatusGet ⟨0, 0, 0⟩ 256,
    .radioNodeGet ⟨0, 0, 0⟩ 65536 0, .radioNodeGet ⟨0, 0, 0⟩ 0 65536,
    .radioFwLoad ⟨0, 0, 0⟩ { zRadioFwLoad with image := 65536 },
    .radioFwStart ⟨0, 0, 0⟩ { zRadioFwStart with image := 65536 },
    .leaseFrameReceived 0 { zLeaseFrame with version := 256 },
    .escrowFragmentReceived 0 (List.replicate 8229 0), .probeReceived 0 0 (List.replicate 8229 0),
    .pairSet ⟨0, 0, 0⟩ { zPairSet with device := 256 }, .pairRelease ⟨0, 0, 0⟩ 65536,
    .cmdDoorbell 0 0 [{ zMsg with version := 256 }]] : List Instr).all (fun i => !wellFormed i) = true := by decide +kernel

theorem test_wf_commands_5 : ([
    .udpDatagramReceived 0 { zDatagram with type := 256 },
    .commit ⟨0, 0, 0⟩ { zCommitSet with flags := 256 }, .stageDrop ⟨0, 0, 0⟩ 4294967296,
    .diagRead ⟨0, 0, 0⟩ 4294967296 0, .diagRead ⟨0, 0, 0⟩ 0 65536, .diagWrite ⟨0, 0, 0⟩ 4294967296 [],
    .powerModeSet ⟨0, 0, 0⟩ 256 0, .powerModeSet ⟨0, 0, 0⟩ 0 4294967296,
    .powerLatencySet ⟨0, 0, 0⟩ [4294967296], .powerLatencySet ⟨0, 0, 0⟩ [0],
    .powerDomainSet ⟨0, 0, 0⟩ 256 0, .powerDomainSet ⟨0, 0, 0⟩ 0 256,
    .powerSagSet ⟨0, 0, 0⟩ { zPowerSagSet with w1Pct := 256 },
    .powerThermalSet ⟨0, 0, 0⟩ { zPowerThermalSet with showWarn := 32768 },
    .powerWakeSet ⟨0, 0, 0⟩ 256 0, .powerWakeSet ⟨0, 0, 0⟩ 0 4294967296, .powerReset ⟨0, 0, 0⟩ 256 0,
    .powerReset ⟨0, 0, 0⟩ 0 256, .dramIdleEntry 0 18446744073709551616, .sagW1 0 65536,
    .sagRecovered 0 65536, .thermalTrip 0 0 32768, .pd2Restart 0 { zBootPins with katFail := 64 },
    .bootComplete 0 ⟨0, false, 0⟩ [65536] false 0 0, .bootComplete 0 ⟨0, false, 0⟩ [] false 2001 0,
    .bootComplete 0 ⟨0, false, 0⟩ [] false 0 16385, .bootComplete 0 ⟨0, false, 0⟩ [0] false 0 0,
    .bootComplete 0 { zBootPins with katFail := 64 } [] false 0 0, .temperatureSample 0 [] [65536],
    .temperatureSample 0 [32768] [], .temperatureSample 0 [0] [], .temperatureSample 0 [] [0],
    .voltageSample 0 [65536]] : List Instr).all (fun i => !wellFormed i) = true := by decide +kernel

theorem test_wf_commands_6 : ([
    .voltageSample 0 [0], .calRun ⟨0, 0, 0⟩ 4294967296 0 0, .calRun ⟨0, 0, 0⟩ 0 256 0,
    .calRun ⟨0, 0, 0⟩ 0 0 4294967296, .calItemGet ⟨0, 0, 0⟩ 256 0, .calItemGet ⟨0, 0, 0⟩ 0 65536,
    .calItemDone 0 12 false [], .calItemDone 0 0 false [{ zCalRun with index := 65536 }],
    .calSectorWriteDone 0 18446744073709551616,
    .secKeyEnroll ⟨0, 0, 0⟩ { zKeyEnroll with ident := 65536 }, .secKeyRevoke ⟨0, 0, 0⟩ 65536,
    .secRecordSet ⟨0, 0, 0⟩ { zRecordSet with mac := 281474976710656 }, .secProvisionDone ⟨0, 0, 0⟩ 256,
    .secRollbackAdvance ⟨0, 0, 0⟩ 256, .secRetire ⟨0, 0, 0⟩ 4294967296,
    .fwBegin ⟨0, 0, 0⟩ 256 ⟨false, 0, 0, 0, 0, 0, 0, 0, 0, 0, [], ⟨0, 0, false⟩⟩,
    .fwBegin ⟨0, 0, 0⟩ 0 { zFwHeader with kind := 65536 }, .fwBlock ⟨0, 0, 0⟩ 65536 0 [],
    .fwEnd ⟨0, 0, 0⟩ 256, .fwActivate ⟨0, 0, 0⟩ 256, .fwAbort ⟨0, 0, 0⟩ 256, .fwStatusGet ⟨0, 0, 0⟩ 256,
    .ledgerRead ⟨0, 0, 0⟩ 0 65536, .ledgerFreeze ⟨0, 0, 0⟩ 256 0, .ledgerFreeze ⟨0, 0, 0⟩ 0 256,
    .ledgerClear ⟨0, 0, 0⟩ { zClearToken with number := 4294967296 },
    .ledgerLimitSet ⟨0, 0, 0⟩ 65536 0 0, .ledgerLimitSet ⟨0, 0, 0⟩ 0 256 0,
    .ledgerLimitSet ⟨0, 0, 0⟩ 0 0 256, .almanacTick 0 1, .rangeFrameReturn 0 0 ⟨0, 0, 0, 0⟩ 1,
    .bootComplete 0 ⟨0, false, 0⟩ (List.replicate 32 0) false 99 0] : List Instr).all (fun i => !wellFormed i) = true := by decide +kernel

end Sys2Proof.Tests
end

section
/-! Show time never goes back (R24, R82): every command but the loss of VBAT keeps what `Keeps` lists, show time among it. -/

namespace Sys2Proof.Proofs

open Sys2Proof.Machine Sys2Proof.Safety Sys2Proof.Laws

/-- What every command keeps, arm by arm of the dispatch; the loss of VBAT alone takes the high-water mark (R82). -/
theorem exec_keeps (i : Instr) (s : State) (hi : ∀ u, i ≠ .vbatLoss u) : OutKeeps s (exec i s) := by
  have k := Keeps.refl s
  cases i with
  | registerWrite => exact execRegisterWrite_keeps (h := k) ..
  | rcCounterRead => exact execRcCounterRead_keeps (h := k) ..
  | w1cWrite => exact execW1cWrite_keeps (h := k) ..
  | latchedLoRead => exact execLatchedLoRead_keeps (h := k) ..
  | lockstepMismatch => exact execLockstepMismatch_keeps (h := k) ..
  | frameBoundary => exact execFrameBoundary_keeps (h := k) ..
  | tbSourceUpdate => exact execTbSourceUpdate_keeps (h := k) ..
  | referenceLost => exact execReferenceLost_keeps (h := k) ..
  | domainRevert => exact execDomainRevert_keeps (h := k) ..
  | mainsZeroCrossing => exact execMainsZeroCrossing_keeps (h := k) ..
  | mainsAbsentTimeout => exact execMainsAbsentTimeout_keeps (h := k) ..
  | showTimeStart => exact execShowTimeStart_keeps (h := k) ..
  | hwmUpdate => exact execHwmUpdate_keeps (h := k) ..
  | rtcCopy => exact execRtcCopy_keeps (h := k) ..
  | zoneSafeBoundary => exact execZoneSafeBoundary_keeps (h := k) ..
  | tbCfgWrite => exact execTbCfgWrite_keeps (h := k) ..
  | showTbWrite => exact execShowTbWrite_keeps (h := k) ..
  | timeBaseSet => exact execTimeBaseSet_keeps (h := k) ..
  | timeSelect => exact execTimeSelect_keeps (h := k) ..
  | timeAcceptStep => exact execTimeAcceptStep_keeps (h := k) ..
  | timeStatusGet => exact execTimeStatusGet_keeps (h := k) ..
  | showTimingSet => exact execShowTimingSet_keeps (h := k) ..
  | almanacTick => exact execAlmanacTick_keeps (h := k) ..
  | outputLaunch => exact execOutputLaunch_keeps (h := k) ..
  | descriptorReady => exact execDescriptorReady_keeps (h := k) ..
  | descriptorDispatch => exact execDescriptorDispatch_keeps (h := k) ..
  | deadlineDiscard => exact execDeadlineDiscard_keeps (h := k) ..
  | timerRetry => exact execTimerRetry_keeps (h := k) ..
  | descriptorRetry t => exact execDescriptorRetry_keeps t s k
  | traceFreeze => exact execTraceFreeze_keeps (h := k) ..
  | traceUnfreeze => exact execTraceUnfreeze_keeps (h := k) ..
  | cueSchedule => exact execCueSchedule_keeps (h := k) ..
  | cueCancel => exact execCueCancel_keeps (h := k) ..
  | almTraceGet => exact execAlmTraceGet_keeps (h := k) ..
  | chkStart => exact execChkStart_keeps (h := k) ..
  | chkFeed => exact execChkFeed_keeps (h := k) ..
  | chkFinish => exact execChkFinish_keeps (h := k) ..
  | chkStateAccess => exact execChkStateAccess_keeps (h := k) ..
  | fifoByteWrite => exact execFifoByteWrite_keeps (h := k) ..
  | fifoPop => exact execFifoPop_keeps (h := k) ..
  | fifoPointerFault => exact execFifoPointerFault_keeps (h := k) ..
  | parityError => exact execParityError_keeps (h := k) ..
  | mapEntryRewrite => exact execMapEntryRewrite_keeps (h := k) ..
  | scrubPass => exact execScrubPass_keeps (h := k) ..
  | faultHandoff => exact execFaultHandoff_keeps (h := k) ..
  | sdiLineReceived => exact execSdiLineReceived_keeps (h := k) ..
  | streamPacketReceived => exact execStreamPacketReceived_keeps (h := k) ..
  | pathLossTimeout => exact execPathLossTimeout_keeps (h := k) ..
  | streamFrameTimeout => exact execStreamFrameTimeout_keeps (h := k) ..
  | sourceFrameComplete => exact execSourceFrameComplete_keeps (h := k) ..
  | generatorPublish => exact execGeneratorPublish_keeps (h := k) ..
  | sdiLockLost => exact execSdiLockLost_keeps (h := k) ..
  | sourceLossTimeout => exact execSourceLossTimeout_keeps (h := k) ..
  | signalReturn => exact execSignalReturn_keeps (h := k) ..
  | inputSet => exact execInputSet_keeps (h := k) ..
  | inputStreamSet => exact execInputStreamSet_keeps (h := k) ..
  | generatorSet => exact execGeneratorSet_keeps (h := k) ..
  | inputStatusGet => exact execInputStatusGet_keeps (h := k) ..
  | layerBind => exact execLayerBind_keeps (h := k) ..
  | layerRelease => exact execLayerRelease_keeps (h := k) ..
  | cmpCommitGo => exact execCmpCommitGo_keeps (h := k) ..
  | canvasLineDone => exact execCanvasLineDone_keeps (h := k) ..
  | layerSet => exact execLayerSet_keeps (h := k) ..
  | canvasSet => exact execCanvasSet_keeps (h := k) ..
  | compStatusGet => exact execCompStatusGet_keeps (h := k) ..
  | rasCommitGo => exact execRasCommitGo_keeps (h := k) ..
  | rasterFrameStart => exact execRasterFrameStart_keeps (h := k) ..
  | rasterLineMatch => exact execRasterLineMatch_keeps (h := k) ..
  | rasterFrameDone => exact execRasterFrameDone_keeps (h := k) ..
  | scanUnderrun => exact execScanUnderrun_keeps (h := k) ..
  | lineReadback => exact execLineReadback_keeps (h := k) ..
  | ltrRecompute => exact execLtrRecompute_keeps (h := k) ..
  | monitorSet => exact execMonitorSet_keeps (h := k) ..
  | monitorStatusGet => exact execMonitorStatusGet_keeps (h := k) ..
  | fxmCommitGo => exact execFxmCommitGo_keeps (h := k) ..
  | fixtureSet => exact execFixtureSet_keeps (h := k) ..
  | fixtureGet => exact execFixtureGet_keeps (h := k) ..
  | zoneSet => exact execZoneSet_keeps (h := k) ..
  | zoneGet => exact execZoneGet_keeps (h := k) ..
  | attrSet => exact execAttrSet_keeps (h := k) ..
  | attrValueSet => exact execAttrValueSet_keeps (h := k) ..
  | showGet => exact execShowGet_keeps (h := k) ..
  | tileClaim => exact execTileClaim_keeps (h := k) ..
  | tileSampleStart => exact execTileSampleStart_keeps (h := k) ..
  | tileComplete => exact execTileComplete_keeps (h := k) ..
  | mappingDeadline => exact execMappingDeadline_keeps (h := k) ..
  | tileTimeout => exact execTileTimeout_keeps (h := k) ..
  | engineFailure => exact execEngineFailure_keeps (h := k) ..
  | engineTestDone => exact execEngineTestDone_keeps (h := k) ..
  | kernelLoad => exact execKernelLoad_keeps (h := k) ..
  | kernelUnload => exact execKernelUnload_keeps (h := k) ..
  | effectSet => exact execEffectSet_keeps (h := k) ..
  | mapStatusGet => exact execMapStatusGet_keeps (h := k) ..
  | mapEngineSet => exact execMapEngineSet_keeps (h := k) ..
  | reportStaleTimeout => exact execReportStaleTimeout_keeps (h := k) ..
  | calRecordWrite => exact execCalRecordWrite_keeps (h := k) ..
  | curveSet => exact execCurveSet_keeps (h := k) ..
  | classSet => exact execClassSet_keeps (h := k) ..
  | calRecordSet => exact execCalRecordSet_keeps (h := k) ..
  | calRecordGet => exact execCalRecordGet_keeps (h := k) ..
  | zoneTempSet => exact execZoneTempSet_keeps (h := k) ..
  | phoStatusGet => exact execPhoStatusGet_keeps (h := k) ..
  | pixelFrameSend => exact execPixelFrameSend_keeps (h := k) ..
  | laneTrainingDone => exact execLaneTrainingDone_keeps (h := k) ..
  | enumerateInterval => exact execEnumerateInterval_keeps (h := k) ..
  | enumerateFrameReturn => exact execEnumerateFrameReturn_keeps (h := k) ..
  | rangeFrameReturn => exact execRangeFrameReturn_keeps (h := k) ..
  | laneRangingDone => exact execLaneRangingDone_keeps (h := k) ..
  | controlFrameReturn => exact execControlFrameReturn_keeps (h := k) ..
  | controlAckTimeout => exact execControlAckTimeout_keeps (h := k) ..
  | collectInterval => exact execCollectInterval_keeps (h := k) ..
  | collectFrameReturn => exact execCollectFrameReturn_keeps (h := k) ..
  | laneRxLoss => exact execLaneRxLoss_keeps (h := k) ..
  | laneSet => exact execLaneSet_keeps (h := k) ..
  | laneChainSet => exact execLaneChainSet_keeps (h := k) ..
  | laneGlobalSet => exact execLaneGlobalSet_keeps (h := k) ..
  | laneRange => exact execLaneRange_keeps (h := k) ..
  | laneStatusGet => exact execLaneStatusGet_keeps (h := k) ..
  | laneChipWrite => exact execLaneChipWrite_keeps (h := k) ..
  | laneChipRead => exact execLaneChipRead_keeps (h := k) ..
  | strLaneSet => exact execStrLaneSet_keeps (h := k) ..
  | strLampSet => exact execStrLampSet_keeps (h := k) ..
  | strFaultGet => exact execStrFaultGet_keeps (h := k) ..
  | linkUp => exact execLinkUp_keeps (h := k) ..
  | linkDown => exact execLinkDown_keeps (h := k) ..
  | pairRevert => exact execPairRevert_keeps (h := k) ..
  | txFrameStart => exact execTxFrameStart_keeps (h := k) ..
  | launchSlotFire => exact execLaunchSlotFire_keeps (h := k) ..
  | tsqPop => exact execTsqPop_keeps (h := k) ..
  | tallyRead => exact execTallyRead_keeps (h := k) ..
  | tallyAccumulate => exact execTallyAccumulate_keeps (h := k) ..
  | frameReceived => exact execFrameReceived_keeps (h := k) ..
  | pauseFrameReceived => exact execPauseFrameReceived_keeps (h := k) ..
  | pauseEnd => exact execPauseEnd_keeps (h := k) ..
  | pauseWatchdogTrip => exact execPauseWatchdogTrip_keeps (h := k) ..
  | pauseIgnoreEnd => exact execPauseIgnoreEnd_keeps (h := k) ..
  | wakeFrameMatch => exact execWakeFrameMatch_keeps (h := k) ..
  | macPortSet => exact execMacPortSet_keeps (h := k) ..
  | macPairSet => exact execMacPairSet_keeps (h := k) ..
  | macWakeSet => exact execMacWakeSet_keeps (h := k) ..
  | macStatusGet => exact execMacStatusGet_keeps (h := k) ..
  | macTallyGet => exact execMacTallyGet_keeps (h := k) ..
  | e131PacketReceived => exact execE131PacketReceived_keeps (h := k) ..
  | e131SourceTimeout => exact execE131SourceTimeout_keeps (h := k) ..
  | universeDiscovery => exact execUniverseDiscovery_keeps (h := k) ..
  | dmxFrameReceived => exact execDmxFrameReceived_keeps (h := k) ..
  | dmxSourceTimeout => exact execDmxSourceTimeout_keeps (h := k) ..
  | rdmWindow => exact execRdmWindow_keeps (h := k) ..
  | rdmResponseReceived => exact execRdmResponseReceived_keeps (h := k) ..
  | rdmResponseTimeout => exact execRdmResponseTimeout_keeps (h := k) ..
  | pktEngineFailure => exact execPktEngineFailure_keeps (h := k) ..
  | flowSet => exact execFlowSet_keeps (h := k) ..
  | rxUniverseSet => exact execRxUniverseSet_keeps (h := k) ..
  | pktGlobalSet => exact execPktGlobalSet_keeps (h := k) ..
  | dmxPortSet => exact execDmxPortSet_keeps (h := k) ..
  | rdmRequest => exact execRdmRequest_keeps (h := k) ..
  | pktCodeLoad => exact execPktCodeLoad_keeps (h := k) ..
  | radioSlotStart => exact execRadioSlotStart_keeps (h := k) ..
  | radioFrameReceived => exact execRadioFrameReceived_keeps (h := k) ..
  | radioFwProgressTimer => exact execRadioFwProgressTimer_keeps (h := k) ..
  | radioSet => exact execRadioSet_keeps (h := k) ..
  | radioNodeSet => exact execRadioNodeSet_keeps (h := k) ..
  | radioGlobalSet => exact execRadioGlobalSet_keeps (h := k) ..
  | radioStatusGet => exact execRadioStatusGet_keeps (h := k) ..
  | radioNodeGet => exact execRadioNodeGet_keeps (h := k) ..
  | radioFwLoad => exact execRadioFwLoad_keeps (h := k) ..
  | radioFwStart => exact execRadioFwStart_keeps (h := k) ..
  | leaseRequestInterval => exact execLeaseRequestInterval_keeps (h := k) ..
  | leaseFrameReceived => exact execLeaseFrameReceived_keeps (h := k) ..
  | leaseExpiry => exact execLeaseExpiry_keeps (h := k) ..
  | escrowRecordWrite => exact execEscrowRecordWrite_keeps (h := k) ..
  | escrowFragmentReceived => exact execEscrowFragmentReceived_keeps (h := k) ..
  | escrowRecordDeadline => exact execEscrowRecordDeadline_keeps (h := k) ..
  | probeInterval => exact execProbeInterval_keeps (h := k) ..
  | probeReceived => exact execProbeReceived_keeps (h := k) ..
  | probeTimeout => exact execProbeTimeout_keeps (h := k) ..
  | pairSet => exact execPairSet_keeps (h := k) ..
  | pairRelease => exact execPairRelease_keeps (h := k) ..
  | pairStatusGet => exact execPairStatusGet_keeps (h := k) ..
  | cmdDoorbell => exact execCmdDoorbell_keeps (h := k) ..
  | ringReadPointerWrite => exact execRingReadPointerWrite_keeps (h := k) ..
  | sessionResetDoorbell => exact execSessionResetDoorbell_keeps (h := k) ..
  | commandTake => exact execCommandTake_keeps (h := k) ..
  | udpDatagramReceived => exact execUdpDatagramReceived_keeps (h := k) ..
  | sessionIdleTimeout => exact execSessionIdleTimeout_keeps (h := k) ..
  | fragmentTimeout => exact execFragmentTimeout_keeps (h := k) ..
  | noticeResend => exact execNoticeResend_keeps (h := k) ..
  | noticeQueueDrain => exact execNoticeQueueDrain_keeps (h := k) ..
  | pcieLinkChange => exact execPcieLinkChange_keeps (h := k) ..
  | identify => exact execIdentify_keeps (h := k) ..
  | echo => exact execEcho_keeps (h := k) ..
  | noticeMask => exact execNoticeMask_keeps (h := k) ..
  | sessionReset => exact execSessionReset_keeps (h := k) ..
  | commitOpen => exact execCommitOpen_keeps (h := k) ..
  | commit => exact execCommit_keeps (h := k) ..
  | commitAbort => exact execCommitAbort_keeps (h := k) ..
  | stageDrop => exact execStageDrop_keeps (h := k) ..
  | diagRead => exact execDiagRead_keeps (h := k) ..
  | diagWrite => exact execDiagWrite_keeps (h := k) ..
  | powerModeSet => exact execPowerModeSet_keeps (h := k) ..
  | powerLatencySet => exact execPowerLatencySet_keeps (h := k) ..
  | powerDomainSet => exact execPowerDomainSet_keeps (h := k) ..
  | powerSagSet => exact execPowerSagSet_keeps (h := k) ..
  | powerThermalSet => exact execPowerThermalSet_keeps (h := k) ..
  | powerWakeSet => exact execPowerWakeSet_keeps (h := k) ..
  | powerStatusGet => exact execPowerStatusGet_keeps (h := k) ..
  | pvtGet => exact execPvtGet_keeps (h := k) ..
  | powerReset => exact execPowerReset_keeps (h := k) ..
  | domainStepDone => exact execDomainStepDone_keeps (h := k) ..
  | modeChangeDone => exact execModeChangeDone_keeps (h := k) ..
  | dramIdleEntry => exact execDramIdleEntry_keeps (h := k) ..
  | sagW1 => exact execSagW1_keeps (h := k) ..
  | sagRecovered => exact execSagRecovered_keeps (h := k) ..
  | sagHoldExpiry => exact execSagHoldExpiry_keeps (h := k) ..
  | w2Reset => exact execW2Reset_keeps (h := k) ..
  | powerOnReset => exact execPowerOnReset_keeps (h := k) ..
  | resetPin => exact execResetPin_keeps (h := k) ..
  | thermalTrip => exact execThermalTrip_keeps (h := k) ..
  | watchdogExpiry => exact execWatchdogExpiry_keeps (h := k) ..
  | pd2Restart => exact execPd2Restart_keeps (h := k) ..
  | rtcAlarmWake => exact execRtcAlarmWake_keeps (h := k) ..
  | wakePin => exact execWakePin_keeps (h := k) ..
  | pwrGoodRise => exact execPwrGoodRise_keeps (h := k) ..
  | pwrGoodTimeout => exact execPwrGoodTimeout_keeps (h := k) ..
  | bootComplete => exact execBootComplete_keeps (h := k) ..
  | temperatureSample => exact execTemperatureSample_keeps (h := k) ..
  | thermalShedStep => exact execThermalShedStep_keeps (h := k) ..
  | voltageSample => exact execVoltageSample_keeps (h := k) ..
  | calRun => exact execCalRun_keeps (h := k) ..
  | calAbort => exact execCalAbort_keeps (h := k) ..
  | calStatusGet => exact execCalStatusGet_keeps (h := k) ..
  | calItemGet => exact execCalItemGet_keeps (h := k) ..
  | calItemDone => exact execCalItemDone_keeps (h := k) ..
  | calSectorWriteDone => exact execCalSectorWriteDone_keeps (h := k) ..
  | laneSkewStep => exact execLaneSkewStep_keeps (h := k) ..
  | secStatusGet => exact execSecStatusGet_keeps (h := k) ..
  | secKeyEnroll => exact execSecKeyEnroll_keeps (h := k) ..
  | secKeyRevoke => exact execSecKeyRevoke_keeps (h := k) ..
  | secRecordSet => exact execSecRecordSet_keeps (h := k) ..
  | secProvisionDone => exact execSecProvisionDone_keeps (h := k) ..
  | secRollbackAdvance => exact execSecRollbackAdvance_keeps (h := k) ..
  | secRetire => exact execSecRetire_keeps (h := k) ..
  | fwBegin => exact execFwBegin_keeps (h := k) ..
  | fwBlock => exact execFwBlock_keeps (h := k) ..
  | fwEnd => exact execFwEnd_keeps (h := k) ..
  | fwActivate => exact execFwActivate_keeps (h := k) ..
  | fwAbort => exact execFwAbort_keeps (h := k) ..
  | fwStatusGet => exact execFwStatusGet_keeps (h := k) ..
  | ledgerRecordOffer => exact execLedgerRecordOffer_keeps (h := k) ..
  | trackerTokenGain => exact execTrackerTokenGain_keeps (h := k) ..
  | ledgerFlushPeriod => exact execLedgerFlushPeriod_keeps (h := k) ..
  | ledgerFlushRun => exact execLedgerFlushRun_keeps (h := k) ..
  | ledgerFlushDone => exact execLedgerFlushDone_keeps (h := k) ..
  | freezeTimeout => exact execFreezeTimeout_keeps (h := k) ..
  | ledgerStatusGet => exact execLedgerStatusGet_keeps (h := k) ..
  | ledgerRead => exact execLedgerRead_keeps (h := k) ..
  | ledgerFreeze => exact execLedgerFreeze_keeps (h := k) ..
  | ledgerChallenge => exact execLedgerChallenge_keeps (h := k) ..
  | ledgerClear => exact execLedgerClear_keeps (h := k) ..
  | ledgerLimitSet => exact execLedgerLimitSet_keeps (h := k) ..
  | ledgerFlush => exact execLedgerFlush_keeps (h := k) ..
  | vbatLoss t => exact absurd rfl (hi t)
  | aonRailsGood => exact execAonRailsGood_keeps (h := k) ..
  | powerUpRetry => exact execPowerUpRetry_keeps (h := k) ..
  | avsRetune => exact execAvsRetune_keeps (h := k) ..
  | fwBlockWriteDone => exact execFwBlockWriteDone_keeps (h := k) ..

/-- Settles O8: each command keeps the clock and show time, by `Keeps.time`. -/
theorem showTimeNeverGoesBack : Obligations.ShowTimeNeverGoesBack := by
  intro i s t hi he
  obtain ⟨hnow, hshow⟩ := ((exec_keeps i s hi).keep t he).time
  exact ⟨hshow, hnow⟩

end Sys2Proof.Proofs
end

section
/-! Accesses to registers (R18, R20, R57): what decides whether one is accepted, and the bits that a write leaves. -/

namespace Sys2Proof.Proofs

open Sys2Proof.Machine Sys2Proof.Safety Sys2Proof.Laws

/-! What decides whether an access is accepted does not depend on the clocks. -/

@[simp] theorem approved_advance (t : Nat) (s : State) : approved (advance t s) = approved s := by simp [approved]

@[simp] theorem radAbsent_advance (t : Nat) (s : State) (a : Nat) : radAbsent (advance t s) a = radAbsent s a := by simp [radAbsent]

@[simp] theorem writeCause_advance (t : Nat) (m : Master) (s : State) (a : Nat) : writeCause (advance t s) m a = writeCause s m a := by
  simp only [writeCause, approved_advance, advance_domainUp, advance_power]

@[simp] theorem readCause_advance (t : Nat) (s : State) (a : Nat) : readCause (advance t s) a = readCause s a := by
  simp only [readCause, advance_domainUp]

@[simp] theorem domainUp_setReg (a : Nat) (w : Word) (s : State) (d : Nat) : domainUp (setReg a w s) d = domainUp s d := rfl

/-- A write is accepted only where the register's domain holds it (R57). -/
theorem domainUp_of_writeCause {s : State} {m : Master} {a : Nat} {d : RegDesc} (h : writeCause s m a = none) (hd : findReg a = some d) :
    domainUp s (domainOf a) = true := by
  by_contra hu
  simp [writeCause, hd, Bool.eq_false_of_not_eq_true hu, ite_eq_iff] at h

/-! The word that a write leaves (R20). -/

theorem maskWord_bit (n : Nat) {i : Nat} (hi : i < 32) : (maskWord n).getLsbD i = n.testBit i := by
  rw [maskWord, BitVec.getLsbD_ofNat, decide_eq_true hi, Bool.true_and]

/-- Settles O15: the masks of the row's fields, bit by bit. -/
theorem writeByAccessType : Obligations.WriteByAccessType := by
  intro d old v i hi hst hdis
  have hone : ((d.rw ||| d.rws).testBit i && d.w1c.testBit i) = false := by
    rw [← Nat.testBit_and, hdis, Nat.zero_testBit]
  simp only [mergeWord, hst, BitVec.getLsbD_and, BitVec.getLsbD_or, BitVec.getLsbD_not, maskWord_bit _ hi, hi, decide_true, Bool.true_and]
  cases hrw : (d.rw ||| d.rws).testBit i
  case true =>
    have hw1c : d.w1c.testBit i = false := by simpa [hrw] using hone
    simp [hw1c]
  case false =>
    cases d.w1c.testBit i <;> simp

end Sys2Proof.Proofs
end

section
/-! What hardware does in the clock of an access (R21): a W1C bit that it sets, an RC field or a Tally counter that it counts. -/

namespace Sys2Proof.Proofs

open Sys2Proof.Machine Sys2Proof.Safety Sys2Proof.Laws

/-! A write that does nothing but store, and what hardware sets in its clock. -/

/-- The write of a register outside the list of `plainRow` goes through every branch of `writeReg` but the last. -/
theorem writeReg_plain {m : Master} {d : RegDesc} {a : Nat} {v : Word} {s : State} (hp : plainRow d = true) (hr : radAbsent s a = false) :
    writeReg m d a v s = setReg (homeAddr a) (mergeWord d (reg s (homeAddr a)) v) s := by
  simp only [plainRow, List.contains_eq_mem, List.mem_cons, List.not_mem_nil, or_false, Bool.not_eq_true', decide_eq_false_iff_not, not_or] at hp
  unfold writeReg
  simp only [hr, hp, Bool.false_eq_true, false_and, or_self, if_false]

theorem busWrite_plain {m : Master} {a : Nat} {v : Word} {d : RegDesc} {s : State} (hc : writeCause s m a = none) (hd : findReg a = some d)
    (hp : plainRow d = true) (hr : radAbsent s a = false) :
    busWrite m a v s = setReg (homeAddr a) (mergeWord d (reg s (homeAddr a)) v) s := by
  unfold busWrite
  rw [hc, hd]
  exact writeReg_plain hp hr

theorem base_ne_SYS_BUSERR_of_plainRow {d : RegDesc} (hp : plainRow d = true) : d.base ≠ R.SYS_BUSERR := by
  intro h
  simp [plainRow, h] at hp

/-- The W1C bits that hardware sets join the register's word; no other register changes (R21). -/
theorem reg_hardwareSets {s : State} (h : RegsWf s.regs) {a : Nat} {d : RegDesc} (hd : findReg a = some d) (hu : domainUp s (domainOf a) = true)
    (hb : d.base ≠ R.SYS_BUSERR) (set : Word) (b : Nat) :
    reg (hardwareSets a set s) b = if homeAddr a = b then reg s b ||| (set &&& maskWord d.w1c) else reg s b := by
  unfold hardwareSets
  simp only [hd, hu, Bool.true_eq_false, if_false, hb]
  split
  · rename_i h0
    simp [h0]
  · rw [reg_setReg h]
    split
    · subst_vars
      rfl
    · rfl

theorem exec_w1cWrite (t : Nat) (m : Master) (a : Nat) (v set : Word) (s : State) :
    exec (.w1cWrite t m a v set) s = .next (hardwareSets a set (busWrite m a v (advance t s))) := rfl

/-- The first part of R21: a W1C bit that hardware sets in the clock of a write ends set. -/
theorem w1cWrite_ends_set {t : Nat} {m : Master} {a : Nat} {v set : Word} {d : RegDesc} {s : State} {i : Nat} (h : RegsWf s.regs)
    (hc : writeCause s m a = none) (hd : findReg a = some d) (hp : plainRow d = true) (hr : radAbsent s a = false) (hi : i < 32)
    (hw : d.w1c.testBit i = true) (hs : set.getLsbD i = true) :
    ∃ x, exec (.w1cWrite t m a v set) s = .next x ∧ Only [.regs] (advance t s) x ∧ (reg x (homeAddr a)).getLsbD i = true ∧
      ∀ b, b ≠ homeAddr a → reg x b = reg s b := by
  have hwf : RegsWf (advance t s).regs := by simpa using h
  have hbus := busWrite_plain (v := v) (s := advance t s) (by simpa using hc) hd hp (by simpa using hr)
  have hup : domainUp (busWrite m a v (advance t s)) (domainOf a) = true := by
    rw [hbus, domainUp_setReg, advance_domainUp]
    exact domainUp_of_writeCause hc hd
  have hwfBus : RegsWf (busWrite m a v (advance t s)).regs := by
    rw [hbus]
    exact setReg_wf hwf _ _
  have hreg := reg_hardwareSets hwfBus hd hup (base_ne_SYS_BUSERR_of_plainRow hp) set
  refine ⟨_, exec_w1cWrite .., hardwareSets_only (List.Subset.refl _) ?_, ?_, fun b hb => ?_⟩
  · rw [hbus]
    exact setReg_only (List.Subset.refl _) (only_refl _ _)
  · rw [hreg, if_pos rfl, BitVec.getLsbD_or, BitVec.getLsbD_and, maskWord_bit _ hi, hs, hw]
    simp
  · rw [hreg, if_neg (Ne.symm hb), hbus, reg_setReg hwf, if_neg (Ne.symm hb), advance_reg]

/-! A read through the fabric (R20, R21). -/

theorem exec_rcCounterRead (t a : Nat) (counted : Word) (s : State) :
    exec (.rcCounterRead t a counted) s = .next (fabricRead a counted (advance t s)) := rfl

@[simp] theorem latchWords_reg (a : Nat) (s : State) (b : Nat) : reg (latchWords a s) b = reg s b := rfl

@[simp] theorem noteRead_reg (a : Nat) (w : Word) (s : State) (b : Nat) : reg (noteRead a w s) b = reg s b := rfl

@[simp] theorem noteRead_lastRead (a : Nat) (w : Word) (s : State) : (noteRead a w s).regs.lastRead = some (a, w) := rfl

theorem latchWords_wf (a : Nat) {s : State} (h : RegsWf s.regs) : RegsWf (latchWords a s).regs :=
  regsWf_of (latchWords_keeps a s (Keeps.refl s)) h

/-- The RC fields hold the counts of the read's own clock; the register's other bits stand, and so does every other register. -/
theorem reg_clearRead {s : State} (h : RegsWf s.regs) {d : RegDesc} (hd : d.rc ≠ 0) (a : Nat) (counted : Word) (b : Nat) :
    reg (clearRead d a counted s) b =
      if homeAddr a = b then (reg s (homeAddr a) &&& ~~~maskWord d.rc) ||| (counted &&& maskWord d.rc) else reg s b := by
  unfold clearRead
  rw [if_neg hd, reg_setReg h]

theorem rcMerge_bit (old counted : Word) (n : Nat) {i : Nat} (hi : i < 32) :
    ((old &&& ~~~maskWord n) ||| (counted &&& maskWord n)).getLsbD i = if n.testBit i then counted.getLsbD i else old.getLsbD i := by
  simp only [BitVec.getLsbD_or, BitVec.getLsbD_and, BitVec.getLsbD_not, maskWord_bit _ hi, hi, decide_true, Bool.true_and]
  cases n.testBit i <;> simp

/-- The read of a register that pops no FIFO and is no Tally counter. -/
theorem fabricRead_stored {a : Nat} {d : RegDesc} {s : State} (hc : readCause s a = none) (hd : findReg a = some d)
    (ht : d.base ≠ R.MAC_TALLYi_LO 0 0) (hf : d.base ≠ R.FIF_Qn_RD_LO 0) (counted : Word) :
    fabricRead a counted s = noteRead a ((aFind s.regs.latched a).getD (regValue s a)) (clearRead d a counted (latchWords a s)) := by
  unfold fabricRead
  rw [hc, hd]
  dsimp only
  rw [if_neg hf, if_neg ht]

/-- The second part of R21, for the RC fields: the read returns the value before the event and leaves its count. -/
theorem rcCounterRead_leaves_counts {t a : Nat} {counted : Word} {d : RegDesc} {s : State} (h : RegsWf s.regs) (hc : readCause s a = none)
    (hd : findReg a = some d) (hrc : d.rc ≠ 0) (ht : d.base ≠ R.MAC_TALLYi_LO 0 0) (hf : d.base ≠ R.FIF_Qn_RD_LO 0)
    (hl : aFind s.regs.latched a = none) :
    ∃ x, exec (.rcCounterRead t a counted) s = .next x ∧ x.regs.lastRead = some (a, regValue (advance t s) a) ∧ Only [.regs] (advance t s) x ∧
      (∀ i < 32, (reg x (homeAddr a)).getLsbD i = if d.rc.testBit i then counted.getLsbD i else (reg s (homeAddr a)).getLsbD i) ∧
      ∀ b, b ≠ homeAddr a → reg x b = reg s b := by
  have hread := fabricRead_stored (s := advance t s) (by simpa using hc) hd ht hf counted
  rw [advance_regs, hl, Option.getD_none] at hread
  have hwf : RegsWf (latchWords a (advance t s)).regs := latchWords_wf a (by simpa using h)
  refine ⟨_, exec_rcCounterRead .., ?_, ?_, fun i hi => ?_, fun b hb => ?_⟩
  all_goals rw [hread]
  · exact noteRead_lastRead _ _ _
  · exact noteRead_only (List.Subset.refl _) (clearRead_only (List.Subset.refl _) (latchWords_only (List.Subset.refl _) (only_refl _ _)))
  · rw [noteRead_reg, reg_clearRead hwf hrc, if_pos rfl, latchWords_reg, advance_reg, rcMerge_bit _ _ _ hi]
  · rw [noteRead_reg, reg_clearRead hwf hrc, if_neg (Ne.symm hb), latchWords_reg, advance_reg]

/-! Tally counters (R456, R457). -/

theorem portOf_modPort (p q : Fin 11) (f : MacPort → MacPort) (s : State) :
    portOf (modPort p f s) q = if q = p then f (portOf s q) else portOf s q := by
  unfold portOf modPort modMac
  rw [vGet_vMod _ _ _ _ _ q.isLt]
  simp only [Fin.ext_iff]

/-- A change of one Tally counter of one port leaves every other counter. -/
theorem tally_modPort (p q : Fin 11) (i j : Fin 24) (g : Nat → Nat) (s : State) :
    vGet (portOf (modPort p (fun x => { x with tally := vMod x.tally i g }) s) q).tally j 0 =
      if (q, j) = (p, i) then g (vGet (portOf s q).tally j 0) else vGet (portOf s q).tally j 0 := by
  rw [portOf_modPort]
  by_cases hq : q = p
  · rw [if_pos hq, vGet_vMod _ _ _ _ _ j.isLt]
    simp only [Prod.mk.injEq, hq, true_and, Fin.ext_iff]
  · rw [if_neg hq, if_neg (fun h => hq (congrArg Prod.fst h))]

/-- A read of a counter clears it and no other. -/
theorem tally_tallyRead (p q : Fin 11) (i j : Fin 24) (s : State) :
    vGet (portOf (tallyRead p i s) q).tally j 0 = if (q, j) = (p, i) then 0 else vGet (portOf s q).tally j 0 :=
  tally_modPort p q i j (fun _ => 0) s

/-- With no timestamp entry and no pause that waits to be settled, no counter of the port moves. -/
theorem tally_settled {p : Fin 11} {s : State} (ht : (portOf s p).tsqExtra = none) (hp : (portOf s p).pausedFrom = none) :
    (portOf (pauseSettle p (tsqSettle p s)) p).tally = (portOf s p).tally := by
  have htsq : tsqSettle p s = s := by
    unfold tsqSettle
    rw [ht]
  unfold pauseSettle
  dsimp only
  rw [htsq, hp, portOf_modPort, if_pos rfl]

/-! The page of a port and its counters in the table of registers. -/

theorem pageOf_MAC_TALLYi_LO (p : Fin 11) (i : Fin 24) : pageOf (R.MAC_TALLYi_LO p i) = 0x30 + p := by
  unfold pageOf R.MAC_TALLYi_LO regBase
  omega

theorem tableAddr_MAC_TALLYi_LO (p : Fin 11) (i : Fin 24) : tableAddr (R.MAC_TALLYi_LO p i) = R.MAC_TALLYi_LO 0 i := by
  unfold tableAddr
  rw [if_pos (by rw [pageOf_MAC_TALLYi_LO]; omega)]
  unfold pageOff R.MAC_TALLYi_LO regBase
  omega

theorem findReg_MAC_TALLYi_LO : ∀ (p : Fin 11) (i : Fin 24),
    (findReg (R.MAC_TALLYi_LO p i)).map RegDesc.base = some (R.MAC_TALLYi_LO 0 0) := by decide +kernel

/-- A fabric read of a counter: what the port counts up to the instant is settled, the counter is read and cleared, and the clock's counts join it. -/
theorem fabricRead_tally {p : Fin 11} {i : Fin 24} {s : State} (hc : readCause s (R.MAC_TALLYi_LO p i) = none) (counted : Word) :
    fabricRead (R.MAC_TALLYi_LO p i) counted s =
      modPort p (fun x => { x with tally := vMod x.tally i (fun v => v + bits counted 15 0) }) (tallyRead p i (pauseSettle p (tsqSettle p s))) := by
  obtain ⟨d, hd, hb⟩ := Option.map_eq_some_iff.mp (findReg_MAC_TALLYi_LO p i)
  have hpage : pageOf (R.MAC_TALLYi_LO p i) - 0x30 = p := by rw [pageOf_MAC_TALLYi_LO, Nat.add_sub_cancel_left]
  have hctr : (tableAddr (R.MAC_TALLYi_LO p i) - R.MAC_TALLYi_LO 0 0) / 8 = i := by
    rw [tableAddr_MAC_TALLYi_LO]
    unfold R.MAC_TALLYi_LO
    omega
  unfold fabricRead
  rw [hc, hd]
  dsimp only
  rw [hb, if_neg (by decide), if_pos rfl, hpage, hctr]

/-- The second part of R21, for the Tally counters. -/
theorem rcCounterRead_tally {t : Nat} {p : Fin 11} {i : Fin 24} {s : State} (hc : readCause s (R.MAC_TALLYi_LO p i) = none) :
    ∃ x w, w = pauseSettle p (tsqSettle p (advance t s)) ∧ exec (.rcCounterRead t (R.MAC_TALLYi_LO p i) 1) s = .next x ∧
      x.regs.lastRead = some (R.MAC_TALLYi_LO p i, loWord ((vGet (portOf w p).tally i 0 : Nat) : Int)) ∧ vGet (portOf x p).tally i 0 = 1 ∧
      (∀ q : Fin 11, ∀ j : Fin 24, (q, j) ≠ (p, i) → vGet (portOf x q).tally j 0 = vGet (portOf w q).tally j 0) ∧
      ((portOf s p).tsqExtra = none → (portOf s p).pausedFrom = none → vGet (portOf w p).tally i 0 = vGet (portOf s p).tally i 0) ∧
      Only [.regs, .teller, .mac] (advance t s) x := by
  have hport : portOf (advance t s) p = portOf s p := by simp [portOf]
  have hread := fabricRead_tally (s := advance t s) (by simpa using hc) 1
  refine ⟨_, _, rfl, exec_rcCounterRead .., ?_, ?_, fun q j hne => ?_, fun ht hp => ?_, ?_⟩
  · rw [hread]
    rfl
  · rw [hread, tally_modPort, if_pos rfl, tally_tallyRead, if_pos rfl]
    rfl
  · rw [hread, tally_modPort, if_neg hne, tally_tallyRead, if_neg hne]
  · rw [tally_settled (hport ▸ ht) (hport ▸ hp), hport]
  · rw [hread]
    exact modPort_only (by decide) (tallyRead_only (by decide) (pauseSettle_only (by decide) (tsqSettle_only (by decide) (only_refl _ _))))

/-- Settles O17: a W1C bit, an RC field and a Tally counter, each in the clock of its access. -/
theorem sameClock : Obligations.SameClock :=
  ⟨fun _ _ _ _ _ _ _ _ h hc hd hp hr hi hw hs => w1cWrite_ends_set h hc hd hp hr hi hw hs,
    fun _ _ _ _ _ h hc hd hrc ht hf hl => rcCounterRead_leaves_counts h hc hd hrc ht hf hl, fun _ _ _ _ hc => rcCounterRead_tally hc⟩

end Sys2Proof.Proofs
end

section
/-! DIAG_READ (R22): what the capture of the words that fail leaves as it was. -/

namespace Sys2Proof.Proofs

open Sys2Proof.Machine Sys2Proof.Safety Sys2Proof.Laws

/-- The capture of a failed access writes SYS_BUSERR alone, where PD1 holds it (R59). -/
theorem busError_writes (cause : Nat) (write : Bool) (a : Nat) (s : State) :
    busError cause write a s = s ∨ ∃ w, busError cause write a s = setReg R.SYS_BUSERR w s := by
  unfold busError
  split
  · exact .inl rfl
  · split
    · exact .inr ⟨_, rfl⟩
    · exact .inr ⟨_, rfl⟩

theorem diagFail_writes (offset : Nat) (s : State) (i : Nat) :
    diagFail offset s i = s ∨ ∃ w, diagFail offset s i = setReg R.SYS_BUSERR w s := by
  unfold diagFail
  split
  · exact busError_writes _ _ _ _
  · exact .inl rfl

/-- The words that fail are captured; no other register moves, and no latch. -/
theorem diagFails_frame (offset : Nat) (l : List Nat) {s : State} (h : RegsWf s.regs) :
    (∀ a, a ≠ R.SYS_BUSERR → reg (l.foldl (diagFail offset) s) a = reg s a) ∧ (l.foldl (diagFail offset) s).regs.latched = s.regs.latched := by
  induction l generalizing s with
  | nil => exact ⟨fun _ _ => rfl, rfl⟩
  | cons i r ih =>
    rw [List.foldl_cons]
    obtain e | ⟨w, e⟩ := diagFail_writes offset s i
    · rw [e]
      exact ih h
    · rw [e]
      obtain ⟨hreg, hlatched⟩ := ih (setReg_wf h R.SYS_BUSERR w)
      exact ⟨fun a ha => by rw [hreg a ha, reg_setReg h, if_neg (Ne.symm ha)], hlatched⟩

theorem diagFails_only (offset : Nat) (l : List Nat) (s : State) : Only [.regs] s (l.foldl (diagFail offset) s) :=
  only_foldl (only_refl _ _) (fun _ _ hx => diagFail_only (List.Subset.refl _) hx)

theorem diagFails_wf (offset : Nat) (l : List Nat) {s : State} (h : RegsWf s.regs) : RegsWf (l.foldl (diagFail offset) s).regs :=
  regsWf_of (keeps_foldl (fun x i hx => diagFail_keeps offset x i hx) (Keeps.refl s)) h

/-- Where no word fails nothing is captured. -/
theorem diagFails_none {offset : Nat} {l : List Nat} {s : State} (h : ∀ i ∈ l, readCause s (regBase + offset + 4 * i) = none) :
    l.foldl (diagFail offset) s = s := by
  induction l with
  | nil => rfl
  | cons i r ih =>
    have hi : diagFail offset s i = s := by
      unfold diagFail
      rw [h i List.mem_cons_self]
    rw [List.foldl_cons, hi]
    exact ih fun j hj => h j (List.mem_cons_of_mem i hj)

theorem exec_diagRead (c : Call) (offset n : Nat) (s : State) : exec (.diagRead c offset n) s = execDiagRead c offset n s := rfl

/-- Settles O20: the words are read as they are, and only the capture of those that fail is left. -/
theorem diagReadNoSideEffect : Obligations.DiagReadNoSideEffect := by
  intro c offset n s hready halign hlow hhigh
  have hwf : RegsWf (advance c.t s).regs := by simpa using hready.wf
  have honly := diagFails_only offset (List.range n) (advance c.t s)
  obtain ⟨hreg, hlatched⟩ := diagFails_frame offset (List.range n) hwf
  have hteller : _ = (advance c.t s).teller := honly.2.2 .teller (by decide)
  refine ⟨_, command_done (exec_diagRead c offset n s) hready ?_ (diagFails_wf offset (List.range n) hwf) ?_, honly, fun a ha => ?_, ?_, fun hnone => ?_⟩
  · rw [if_neg (by omega)]
    rfl
  · rw [sess, hteller, advance_teller]
    exact hready.live
  · rw [hreg a ha, advance_reg]
  · rw [hlatched, advance_regs]
  · exact diagFails_none fun i hi => (readCause_advance _ _ _).trans (hnone i (List.mem_range.mp hi))

end Sys2Proof.Proofs
end

section
/-! SYS_BUSERR (R59, R60, R696): what an access that fails leaves in it, and an error in the clock of the write that clears it. -/

namespace Sys2Proof.Proofs

open Sys2Proof.Machine Sys2Proof.Safety Sys2Proof.Laws

/-- A register set is the only thing written. -/
theorem setReg_wrote {s : State} (h : RegsWf s.regs) (a : Nat) (w : Word) : Wrote [(a, w)] s (setReg a w s) where
  only := setReg_only (List.Subset.refl _) (only_refl _ _)
  regs b := by
    rw [reg_setReg h, List.lookup_cons, List.lookup_nil]
    by_cases hb : a = b
    · rw [if_pos hb, beq_iff_eq.mpr hb.symm]
      rfl
    · rw [if_neg hb, beq_false_of_ne (Ne.symm hb)]
      rfl

/-- Only the last word written to a register stands. -/
theorem setReg_setReg_wrote {s : State} (h : RegsWf s.regs) (a : Nat) (w w' : Word) : Wrote [(a, w')] s (setReg a w' (setReg a w s)) where
  only := setReg_only (List.Subset.refl _) (setReg_only (List.Subset.refl _) (only_refl _ _))
  regs b := by
    rw [← (setReg_wrote h a w').regs, reg_setReg (setReg_wf h a w), reg_setReg h, reg_setReg h]
    split <;> rfl

/-- A field of a word that is given by a number below 2³². -/
theorem bits_ofNat {n : Nat} (hn : n < 4294967296) (hi lo : Nat) : bits (BitVec.ofNat 32 n) hi lo = n / 2 ^ lo % 2 ^ (hi + 1 - lo) := by
  rw [bits, BitVec.toNat_ofNat, Nat.mod_eq_of_lt hn]

/-- What SYS_BUSERR, which held `old`, holds after a failed access at `a` (R60). -/
def busErrorWord (cause : Nat) (write : Bool) (a : Nat) (old : Word) : Word :=
  if bitOf old 31 then setBits old 27 24 (min 15 (bits old 27 24 + 1))
  else BitVec.ofNat 32 (2147483648 + cause * 536870912 + bNat write * 268435456 + 16777216 + (a - regBase) % 16777216)

theorem busError_eq {cause : Nat} {write : Bool} {a : Nat} {s : State} (hu : domainUp s 1 = true) :
    busError cause write a s = setReg R.SYS_BUSERR (busErrorWord cause write a (reg s R.SYS_BUSERR)) s := by
  unfold busError busErrorWord
  rw [if_neg (by simp [hu])]
  split <;> rfl

/-- The count of a saturating field goes up by 1 and the rest of the word stands. -/
theorem bits_countUp (w : Word) :
    bits (setBits w 27 24 (min 15 (bits w 27 24 + 1))) 27 24 = min 15 (bits w 27 24 + 1) ∧
      ∀ hi lo, 27 < lo ∨ hi < 24 → bits (setBits w 27 24 (min 15 (bits w 27 24 + 1))) hi lo = bits w hi lo := by
  refine ⟨?_, fun hi lo h => bits_setBits_ne _ _ _ _ _ _ h.symm⟩
  rw [bits_setBits _ _ _ _ (by decide), Nat.mod_eq_of_lt (by omega)]

theorem busErrorWord_captured {cause : Nat} (hc : cause ≤ 3) (write : Bool) (a : Nat) (old : Word) :
    Captured cause write a old (busErrorWord cause write a old) := by
  have hw : bNat write ≤ 1 := by cases write <;> decide
  have hoff : (a - regBase) % 16777216 < 16777216 := Nat.mod_lt _ (by decide)
  unfold busErrorWord
  by_cases hv : bitOf old 31 = true
  · obtain ⟨hcount, hrest⟩ := bits_countUp old
    rw [if_pos hv]
    refine ⟨?_, fun h => absurd hv (by simp [h]), fun _ => ⟨hrest _ _ (by omega), hrest _ _ (by omega), hrest _ _ (by omega), hcount⟩⟩
    unfold bitOf
    rw [hrest _ _ (by omega)]
    exact hv
  · rw [if_neg hv]
    refine ⟨?_, fun _ => ?_, fun h => absurd h hv⟩
    · rw [bitOf, bits_ofNat (by omega), beq_iff_eq]
      omega
    · rw [bits_ofNat (by omega), bits_ofNat (by omega), bits_ofNat (by omega), bits_ofNat (by omega)]
      omega

/-- The causes of R696 fit their field of two bits. -/
theorem writeCause_le {s : State} {m : Master} {a c : Nat} (h : writeCause s m a = some c) : c ≤ 3 := by
  unfold writeCause at h
  repeat' split at h
  all_goals simp at h
  all_goals omega

theorem readCause_le {s : State} {a c : Nat} (h : readCause s a = some c) : c ≤ 3 := by
  unfold readCause at h
  repeat' split at h
  all_goals simp at h
  all_goals omega

/-- A captured access writes SYS_BUSERR and nothing else. -/
theorem busError_wrote {cause : Nat} (hc : cause ≤ 3) (write : Bool) (a : Nat) {s : State} (h : RegsWf s.regs) (hu : domainUp s 1 = true) :
    ∃ w, Wrote [(R.SYS_BUSERR, w)] s (busError cause write a s) ∧ Captured cause write a (reg s R.SYS_BUSERR) w := by
  refine ⟨busErrorWord cause write a (reg s R.SYS_BUSERR), ?_, busErrorWord_captured hc write a _⟩
  rw [busError_eq hu]
  exact setReg_wrote h _ _

theorem noteRead_wrote {ws : List (Nat × Word)} {s x : State} (h : Wrote ws s x) (a : Nat) (w : Word) : Wrote ws s (noteRead a w x) :=
  ⟨noteRead_only (List.Subset.refl _) h.only, h.regs⟩

theorem exec_registerWrite (t : Nat) (m : Master) (a : Nat) (v : Word) (s : State) :
    exec (.registerWrite t m a v) s = .next (busWrite m a v (advance t s)) := rfl

theorem busWrite_fails {m : Master} {a c : Nat} {v : Word} {s : State} (h : writeCause s m a = some c) : busWrite m a v s = busError c true a s := by
  unfold busWrite
  rw [h]

theorem fabricRead_fails {a c : Nat} {v : Word} {s : State} (h : readCause s a = some c) :
    fabricRead a v s = noteRead a 0 (busError c false a s) := by
  unfold fabricRead
  rw [h]

/-- An address on no register fails, whoever asks. -/
theorem causes_of_no_register {a : Nat} (h : findReg a = none) (s : State) (m : Master) :
    readCause s a = some 0 ∧ ∃ e, writeCause s m a = some e := by
  constructor
  · unfold readCause
    rw [h]
  · unfold writeCause
    rw [h]
    split
    · exact ⟨_, rfl⟩
    · split
      · exact ⟨_, rfl⟩
      · exact ⟨_, rfl⟩

/-- Settles O16: a write or a read that fails does nothing but the capture of `busError`. -/
theorem failedAccessCaptured : Obligations.FailedAccessCaptured := by
  intro t m a c v s h hu
  have hwf : RegsWf (advance t s).regs := by simpa using h
  have hup : domainUp (advance t s) 1 = true := by simpa using hu
  refine ⟨fun hw => ?_, fun hr => ?_, fun hn => causes_of_no_register hn s m⟩
  · obtain ⟨w, hwrote, hcap⟩ := busError_wrote (writeCause_le hw) true a hwf hup
    refine ⟨_, w, exec_registerWrite .., ?_, by simpa using hcap⟩
    rwa [busWrite_fails (by simpa using hw)]
  · obtain ⟨w, hwrote, hcap⟩ := busError_wrote (readCause_le hr) false a hwf hup
    have hread := fabricRead_fails (v := v) (s := advance t s) (by simpa using hr)
    refine ⟨_, w, exec_rcCounterRead .., ?_, by simpa using hcap, ?_⟩
    · rw [hread]
      exact noteRead_wrote hwrote _ _
    · rw [hread, noteRead_lastRead]

/-! An error in the clock of a write to SYS_BUSERR (R60). -/

theorem findReg_SYS_BUSERR : ∃ d, findReg R.SYS_BUSERR = some d ∧ d.base = R.SYS_BUSERR :=
  Option.map_eq_some_iff.mp (show (findReg R.SYS_BUSERR).map RegDesc.base = some R.SYS_BUSERR by decide +kernel)

theorem domainOf_SYS_BUSERR : domainOf R.SYS_BUSERR = 1 := by decide

theorem writeCause_SYS_BUSERR {s : State} (hu : domainUp s 1 = true) : writeCause s .fabric R.SYS_BUSERR = none := by
  obtain ⟨d, hd, -⟩ := findReg_SYS_BUSERR
  unfold writeCause
  rw [if_neg (by decide), if_neg (by simp), hd]
  simp [domainOf_SYS_BUSERR, hu]

theorem radAbsent_SYS_BUSERR (s : State) : radAbsent s R.SYS_BUSERR = false := by
  unfold radAbsent
  rw [show (pageOf R.SYS_BUSERR == 0x48) = false by decide, Bool.and_false]

/-- A write to SYS_BUSERR that writes 1 to valid clears valid and the count; any other leaves it. -/
theorem busWrite_SYS_BUSERR {s : State} (hu : domainUp s 1 = true) (v : Word) :
    busWrite .fabric R.SYS_BUSERR v s =
      if bitOf v 31 then setReg R.SYS_BUSERR (reg s R.SYS_BUSERR &&& 0x70FFFFFF) s else s := by
  obtain ⟨d, hd, hb⟩ := findReg_SYS_BUSERR
  unfold busWrite
  rw [writeCause_SYS_BUSERR hu, hd]
  unfold writeReg
  simp only [radAbsent_SYS_BUSERR, hb, Bool.false_eq_true, if_false, if_true]

/-- An access error of the clock: it counts where valid stands, and describes itself where valid is clear. -/
theorem hardwareSets_SYS_BUSERR {s : State} (hu : domainUp s 1 = true) (e : Word) :
    hardwareSets R.SYS_BUSERR e s =
      if bitOf e 31 = false then s
      else if bitOf (reg s R.SYS_BUSERR) 31 then bumpField R.SYS_BUSERR 27 24 1 s
      else setReg R.SYS_BUSERR ((e &&& 0xF0FFFFFF) ||| 0x01000000) s := by
  obtain ⟨d, hd, hb⟩ := findReg_SYS_BUSERR
  unfold hardwareSets
  rw [hd]
  simp only [domainOf_SYS_BUSERR, hu, hb, Bool.true_eq_false, if_false, if_true]

/-- A field is given by its bits. -/
theorem bits_congr {w w' : Word} {hi lo : Nat} (h : ∀ i, lo ≤ i → i ≤ hi → w.getLsbD i = w'.getLsbD i) : bits w hi lo = bits w' hi lo := by
  apply Nat.eq_of_testBit_eq
  intro i
  rw [bits_testBit, bits_testBit]
  by_cases hi' : i < hi + 1 - lo
  · rw [h _ (by omega) (by omega)]
  · simp [hi']

/-- The fields of SYS_BUSERR after valid was cleared: the description stands (R60). -/
theorem bits_cleared (w : Word) :
    bits (w &&& 0x70FFFFFF) 31 31 = 0 ∧ bits (w &&& 0x70FFFFFF) 27 24 = 0 ∧ bits (w &&& 0x70FFFFFF) 30 28 = bits w 30 28 ∧
      bits (w &&& 0x70FFFFFF) 23 0 = bits w 23 0 := by
  have hclear : ∀ i < 32, i = 31 ∨ 24 ≤ i ∧ i ≤ 27 → (0x70FFFFFF : Word).getLsbD i = false := by decide
  have hstay : ∀ i < 32, 28 ≤ i ∧ i ≤ 30 ∨ i ≤ 23 → (0x70FFFFFF : Word).getLsbD i = true := by decide
  refine ⟨bits_congr (w' := 0) ?_, bits_congr (w' := 0) ?_, bits_congr ?_, bits_congr ?_⟩ <;> intro i h1 h2 <;> rw [BitVec.getLsbD_and]
  · rw [hclear i (by omega) (by omega), Bool.and_false]
    exact (BitVec.getLsbD_zero).symm
  · rw [hclear i (by omega) (by omega), Bool.and_false]
    exact (BitVec.getLsbD_zero).symm
  · rw [hstay i (by omega) (by omega), Bool.and_true]
  · rw [hstay i (by omega) (by omega), Bool.and_true]

/-- The fields of SYS_BUSERR after the error that describes itself: its own, with a count of 1 (R60). -/
theorem bits_described (e : Word) {hi lo : Nat} (h : hi < 24 ∨ 27 < lo ∧ hi < 32) :
    bits (e &&& 0xF0FFFFFF ||| 0x01000000) 27 24 = 1 ∧ bits (e &&& 0xF0FFFFFF ||| 0x01000000) hi lo = bits e hi lo := by
  have hcount : ∀ i < 32, 24 ≤ i ∧ i ≤ 27 → (0xF0FFFFFF : Word).getLsbD i = false := by decide
  have hstay : ∀ i < 32, i ≤ 23 ∨ 28 ≤ i → (0xF0FFFFFF : Word).getLsbD i = true ∧ (0x01000000 : Word).getLsbD i = false := by decide
  constructor
  · refine (bits_congr (w' := 0x01000000) fun i h1 h2 => ?_).trans (by decide)
    rw [BitVec.getLsbD_or, BitVec.getLsbD_and, hcount i (by omega) (by omega), Bool.and_false, Bool.false_or]
  · refine bits_congr fun i h1 h2 => ?_
    obtain ⟨hmask, hone⟩ := hstay i (by omega) (by omega)
    rw [BitVec.getLsbD_or, BitVec.getLsbD_and, hmask, hone, Bool.and_true, Bool.or_false]

/-- The first sentence of R60, where valid stands through the write: the error only counts. -/
theorem w1cWrite_SYS_BUSERR_counts {t : Nat} {v e : Word} {s : State} (h : RegsWf s.regs) (hu : domainUp s 1 = true)
    (hv : bitOf v 31 = false) (hold : bitOf (reg s R.SYS_BUSERR) 31 = true) (he : bitOf e 31 = true) :
    Goes (.w1cWrite t .fabric R.SYS_BUSERR v e) s fun x =>
      bits (reg x R.SYS_BUSERR) 27 24 = min 15 (bits (reg s R.SYS_BUSERR) 27 24 + 1) ∧
      bits (reg x R.SYS_BUSERR) 31 28 = bits (reg s R.SYS_BUSERR) 31 28 ∧ bits (reg x R.SYS_BUSERR) 23 0 = bits (reg s R.SYS_BUSERR) 23 0 := by
  have hup : domainUp (advance t s) 1 = true := by simpa using hu
  refine ⟨_, exec_w1cWrite .., ?_⟩
  dsimp only
  rw [busWrite_SYS_BUSERR hup, if_neg (by simp [hv]), hardwareSets_SYS_BUSERR hup, if_neg (by simp [he]), advance_reg, if_pos hold,
    bumpField_reg (by simpa using h), if_pos rfl, advance_reg]
  obtain ⟨hcount, hrest⟩ := bits_countUp (reg s R.SYS_BUSERR)
  exact ⟨hcount, hrest _ _ (by omega), hrest _ _ (by omega)⟩

/-- What SYS_BUSERR holds after a write that clears valid, with the access error `e` of the same clock where there is one (R60). -/
def clearedBusError (e old : Word) : Word := if bitOf e 31 then (e &&& 0xF0FFFFFF) ||| 0x01000000 else old &&& 0x70FFFFFF

theorem w1cWrite_SYS_BUSERR_clears {t : Nat} {v e : Word} {s : State} (h : RegsWf s.regs) (hu : domainUp s 1 = true) (hv : bitOf v 31 = true) :
    ∃ x, exec (.w1cWrite t .fabric R.SYS_BUSERR v e) s = .next x ∧
      Wrote [(R.SYS_BUSERR, clearedBusError e (reg s R.SYS_BUSERR))] (advance t s) x := by
  have hup : domainUp (advance t s) 1 = true := by simpa using hu
  have hwf : RegsWf (advance t s).regs := by simpa using h
  have hvalid : bitOf (reg s R.SYS_BUSERR &&& 0x70FFFFFF) 31 = false := by rw [bitOf, (bits_cleared _).1]; rfl
  refine ⟨_, exec_w1cWrite .., ?_⟩
  rw [busWrite_SYS_BUSERR hup, if_pos hv, hardwareSets_SYS_BUSERR (by simpa using hup), advance_reg, reg_setReg hwf, if_pos rfl, hvalid]
  unfold clearedBusError
  cases he : bitOf e 31
  case false => exact setReg_wrote hwf _ _
  case true => exact setReg_setReg_wrote hwf _ _ _

/-- Settles O18: what the write leaves, and then the error of its clock. -/
theorem busErrorSameClock : Obligations.BusErrorSameClock := by
  intro t v e s h hu
  refine ⟨w1cWrite_SYS_BUSERR_counts h hu, fun hv => ?_⟩
  obtain ⟨x, hx, hwrote⟩ := w1cWrite_SYS_BUSERR_clears (e := e) h hu hv
  refine ⟨x, _, hx, hwrote, fun he => ?_, fun he => ?_⟩
  · rw [clearedBusError, if_pos he]
    have hfield := fun hi lo h => (bits_described e (hi := hi) (lo := lo) h).2
    refine ⟨?_, (bits_described e (hi := 0) (lo := 0) (by decide)).1, hfield _ _ (by decide), hfield _ _ (by decide), hfield _ _ (by decide)⟩
    rw [bitOf, hfield _ _ (by decide)]
    exact he
  · rw [clearedBusError, if_neg (by simp [he])]
    obtain ⟨hvalid, hcount, hdesc, hoff⟩ := bits_cleared (reg s R.SYS_BUSERR)
    exact ⟨by rw [bitOf, hvalid]; rfl, hcount, hdesc, hoff⟩

end Sys2Proof.Proofs
end

section
/-! What notices, answers and the blocks of a domain that goes off leave alone: Teller's commits and stages, and the set-up of the show in the Almanac. -/

namespace Sys2Proof.Proofs

open Sys2Proof.Machine Sys2Proof.Safety Sys2Proof.Laws

/-- What each step of a fold keeps, the fold keeps. -/
theorem keep_foldl {α : Type} {P : State → Prop} {g : State → α → State} {l : List α} {s : State} (h : P s) (hg : ∀ x a, P x → P (g x a)) :
    P (l.foldl g s) := List.foldlRecOn l g h fun x hx a _ => hg x a hx

/-- What both branches have, the choice has. -/
theorem keep_ite {P : State → Prop} {c : Prop} [Decidable c] {a b : State} (ha : P a) (hb : P b) : P (if c then a else b) := by
  split <;> assumption

/-- From `s` to `t` Teller has at most sent something: of it only sessions, rings, check channels and offers to the Ledger changed, and no offer was
taken back; and the commit lead and the delay pool are as they were. -/
structure Stands (s t : State) : Prop where
  teller : t.teller = { s.teller with
    sessions := t.teller.sessions, rings := t.teller.rings, checked := t.teller.checked, ledgerOffers := t.teller.ledgerOffers }
  offers : s.teller.ledgerOffers <+: t.teller.ledgerOffers
  lead : t.alm.leadUs = s.alm.leadUs
  pool : t.alm.poolMib = s.alm.poolMib

theorem Stands.refl (s : State) : Stands s s := ⟨rfl, List.prefix_refl _, rfl, rfl⟩

theorem Stands.trans {s t u : State} (h : Stands s t) (g : Stands t u) : Stands s u :=
  ⟨by rw [g.teller, h.teller], h.offers.trans g.offers, g.lead.trans h.lead, g.pool.trans h.pool⟩

section
variable {s0 s t : State} (h : Stands s0 s)
include h

/-- One more operation, which changes neither Teller nor the Almanac. -/
theorem Stands.only {l : List Comp} (g : Only l s t) (ht : Comp.teller ∉ l) (ha : Comp.alm ∉ l) : Stands s0 t := by
  have hteller : t.teller = s.teller := g.2.2 _ ht
  have halm : t.alm = s.alm := g.2.2 _ ha
  exact h.trans ⟨by rw [hteller], by rw [hteller], by rw [halm], by rw [halm]⟩

/-! Notices and answers. -/

theorem notify_stands {code len : Nat} {fields : List Int} : Stands s0 (notify code len fields s) := by
  have told := notify_told code len fields s
  refine h.trans ⟨told.teller, ?_, by rw [notify_alm], by rw [notify_alm]⟩
  rw [told.offered]
  exact List.prefix_append _ _

omit h in
theorem respond_teller (code : Nat) (c : Call) (p : Reply) (s : State) :
    (respond code c p s).teller = { s.teller with
      sessions := (respond code c p s).teller.sessions, rings := (respond code c p s).teller.rings, checked := (respond code c p s).teller.checked } := by
  unfold respond
  split
  · rfl
  · dsimp only [modSess]
    rw [writeResp_teller, timeResponse_teller]

omit h in
theorem respondFinal_teller (code : Nat) (c : Call) (p : Reply) (s : State) :
    (respondFinal code c p s).teller = { s.teller with
      sessions := (respondFinal code c p s).teller.sessions, rings := (respondFinal code c p s).teller.rings,
      checked := (respondFinal code c p s).teller.checked } := by
  unfold respondFinal
  split
  · rfl
  · dsimp only [modSess]
    rw [writeResp_teller]

/-- One more operation, which changes registers and Teller, and of Teller neither a commit nor an offer. -/
theorem Stands.sends (g : Only [.regs, .teller] s t)
    (ht : t.teller = { s.teller with sessions := t.teller.sessions, rings := t.teller.rings, checked := t.teller.checked }) : Stands s0 t := by
  have halm : t.alm = s.alm := g.2.2 .alm (by decide)
  refine h.trans ⟨?_, ?_, by rw [halm], by rw [halm]⟩
  all_goals rw [ht]

theorem respondOwed_stands {code : Nat} {owed : Option Call} {p : Reply} : Stands s0 (respondOwed code owed p s) := by
  unfold respondOwed
  split
  · refine keep_ite ?_ ?_
    · exact h.sends (respond_only (List.Subset.refl _) (only_refl _ _)) (respond_teller _ _ _ _)
    · exact h.sends (respondFinal_only (by decide) (only_refl _ _)) (respondFinal_teller _ _ _ _)
  · exact h

/-! Single changes. -/

theorem setFlag_stands {a i : Nat} : Stands s0 (setFlag a i s) := h.only (setFlag_only (List.Subset.refl _) (only_refl _ _)) (by decide) (by decide)

theorem bumpBy_stands {a n : Nat} : Stands s0 (bumpBy a n s) := h.only (bumpBy_only (List.Subset.refl _) (only_refl _ _)) (by decide) (by decide)

theorem bump_stands {a : Nat} : Stands s0 (bump a s) := bumpBy_stands h

theorem modPool_stands {f : Pool → Pool} : Stands s0 (modPool f s) := h.only (modPool_only (List.Subset.refl _) (only_refl _ _)) (by decide) (by decide)

theorem modPort_stands {p : Nat} {f : MacPort → MacPort} : Stands s0 (modPort p f s) :=
  h.only (modPort_only (List.Subset.refl _) (only_refl _ _)) (by decide) (by decide)

theorem tallyBy_stands {p i n : Nat} : Stands s0 (tallyBy p i n s) := modPort_stands h

theorem modLane_stands {l : Nat} {f : Lane → Lane} : Stands s0 (modLane l f s) :=
  h.only (modLane_only (List.Subset.refl _) (only_refl _ _)) (by decide) (by decide)

theorem modRad_stands {f : Rad → Rad} : Stands s0 (modRad f s) := h.only (modRad_only (List.Subset.refl _) (only_refl _ _)) (by decide) (by decide)

theorem modMap_stands {f : Mapper → Mapper} : Stands s0 (modMap f s) := h.only (modMap_only (List.Subset.refl _) (only_refl _ _)) (by decide) (by decide)

theorem modFrame_stands {f : MapFrame → MapFrame} : Stands s0 (modFrame f s) :=
  h.only (modFrame_only (List.Subset.refl _) (only_refl _ _)) (by decide) (by decide)

theorem modMapEngine_stands {e : Nat} {f : Engine → Engine} : Stands s0 (modMapEngine e f s) := modMap_stands h

theorem modAlm_stands {f : Almanac → Almanac} (hf : ∀ a, (f a).leadUs = a.leadUs ∧ (f a).poolMib = a.poolMib) : Stands s0 (modAlm f s) :=
  h.trans ⟨rfl, List.prefix_refl _, (hf _).1, (hf _).2⟩

/-! Late zones, ports and pairs. -/

theorem lateNotice_stands {z : Nat} : Stands s0 (lateNotice z s) := by
  unfold lateNotice
  exact keep_ite h (notify_stands (modPool_stands h))

theorem zoneLate_stands {stage z : Nat} {k : Int} {pixels : Nat} : Stands s0 (zoneLate stage z k pixels s) := by
  unfold zoneLate
  exact keep_ite h (lateNotice_stands (modPool_stands h))

theorem txLate_stands {f : TxFrame} : Stands s0 (txLate f s) := by
  unfold txLate
  split
  · exact zoneLate_stands (setFlag_stands (bump_stands h))
  · exact h

theorem portEnqueue_stands {f : TxFrame} {p : Nat} : Stands s0 (portEnqueue f s p) := keep_ite (tallyBy_stands h) (modPort_stands h)

theorem refillOne_stands {p : Nat} {f : TxFrame} : Stands s0 (refillOne p s f) := by
  unfold refillOne
  split
  · exact keep_ite (txLate_stands h) (portEnqueue_stands h)
  · exact portEnqueue_stands h

theorem portPass_stands {old new : Nat} : Stands s0 (portPass old new s) := keep_foldl (modPort_stands h) fun _ _ hx => refillOne_stands hx

theorem pairSwitch_stands {q cause : Nat} : Stands s0 (pairSwitch q cause s) := by
  unfold pairSwitch
  refine portPass_stands (notify_stands (setFlag_stands (h.only (l := [.mac]) ?_ (by decide) (by decide))))
  exact modMac_only (List.Subset.refl _) (portFlush_only (List.Subset.refl _) (only_refl _ _))

theorem linkLeave_stands {p cause : Nat} {to_ : LinkState} : Stands s0 (linkLeave p cause to_ s) := by
  unfold linkLeave
  dsimp only
  have hleft {f : MacPort → MacPort} : Stands s0 (notify 0x8250 16 [p, 0, portMode s p, cause, st64 s]
      (setFlag (R.MAC_INT_STAT p) 0 (tallyUp p 21 (modPort p f s)))) :=
    notify_stands (setFlag_stands (tallyBy_stands (modPort_stands h)))
  exact keep_ite (modPort_stands h) (keep_ite (keep_ite (pairSwitch_stands hleft) hleft) hleft)

theorem tsqDrop_stands {p : Nat} : Stands s0 (tsqDrop p s) := by
  unfold tsqDrop
  have hdrop : Stands s0 (setFlag (R.MAC_INT_STAT p) 3 (setFlag (R.MAC_TSQ_STAT p) 31 (tallyUp p 20 s))) :=
    setFlag_stands (setFlag_stands (tallyBy_stands h))
  exact keep_ite (modPort_stands hdrop) (notify_stands (modPort_stands hdrop))

theorem tsqSettle_stands {p : Nat} : Stands s0 (tsqSettle p s) := by
  unfold tsqSettle
  split
  · exact keep_ite (tsqDrop_stands (modPort_stands h)) h
  · exact h

theorem tallyGather_stands {p : Nat} : Stands s0 (tallyGather s p) :=
  modPort_stands ((tsqSettle_stands h).only (pauseSettle_only (List.Subset.refl _) (only_refl _ _)) (by decide) (by decide))

/-! Lanes. -/

theorem ctrlFailed_stands {c : Ctrl} {data : Word} {status : Nat} : Stands s0 (ctrlFailed c data status s) := by
  unfold ctrlFailed
  split
  · exact respondOwed_stands h
  · exact respondOwed_stands h
  · exact respondOwed_stands h
  · exact h

theorem laneAbort_stands {l : Nat} : Stands s0 (laneAbort l s) := keep_foldl h fun _ _ hx => ctrlFailed_stands hx

theorem laneEnter_stands {l : Nat} {st : LaneState} {seen cause : Nat} : Stands s0 (laneEnter l st seen cause s) := by
  unfold laneEnter
  have hfold : Stands s0 (if (laneOf s l).seen = seen then s else setFlag R.LNE_INT_STAT 4 (bump (R.LNE_Ln_CNT_FOLD l) s)) :=
    keep_ite h (setFlag_stands (bump_stands h))
  exact keep_ite h (notify_stands (modLane_stands (keep_ite hfold (setFlag_stands hfold))))

theorem laneOff_stands {l cause : Nat} : Stands s0 (laneOff l cause s) := keep_ite h (laneEnter_stands (modLane_stands (laneAbort_stands h)))

theorem lanesOff_stands : Stands s0 (lanesOff s) := by
  have hlanes : Stands s0 ((List.range 32).foldl (fun y l => laneOff l 0 y) s) := keep_foldl h fun _ _ hx => laneOff_stands hx
  unfold lanesOff
  generalize (List.range 32).foldl (fun y l => laneOff l 0 y) s = x at hlanes
  exact hlanes.trans ⟨rfl, List.prefix_refl _, rfl, rfl⟩

/-! Work of a zone whose data an engine's failure completes. -/

theorem traceRec_stands {r : TraceRec} : Stands s0 (traceRec r s) := by
  unfold traceRec
  exact keep_ite h (modAlm_stands h fun _ => ⟨rfl, rfl⟩)

theorem workEnded_stands {d : Descriptor} {discarded : Bool} : Stands s0 (workEnded d discarded s) := by
  unfold workEnded
  split
  · exact modAlm_stands h fun _ => ⟨rfl, rfl⟩
  · exact h

theorem discardDescriptor_stands {d : Descriptor} : Stands s0 (discardDescriptor s d) := workEnded_stands (traceRec_stands (bump_stands h))

theorem refuseInsert_stands {list : Nat} : Stands s0 (refuseInsert list s) := by
  unfold refuseInsert
  dsimp only
  have hcount : Stands s0 (setFlag R.ALM_INT_STAT 1 (bump R.ALM_CNT_OVERFLOW s)) := setFlag_stands (bump_stands h)
  refine keep_ite (modAlm_stands hcount ?_) (notify_stands (modAlm_stands hcount ?_))
  all_goals exact fun _ => ⟨rfl, rfl⟩

theorem insertDescriptor_stands {d : Descriptor} : Stands s0 (insertDescriptor d s) := by
  unfold insertDescriptor
  refine keep_ite ?_ ?_
  · unfold placeDescriptor nextOrder
    refine modAlm_stands (modAlm_stands h ?_) ?_
    all_goals exact fun _ => ⟨rfl, rfl⟩
  · exact modAlm_stands (refuseInsert_stands (traceRec_stands h)) fun _ => ⟨rfl, rfl⟩

theorem dropJob_stands {l : Nat} {j : PixelJob} : Stands s0 (dropJob l j s) := zoneLate_stands (setFlag_stands (bumpBy_stands (modLane_stands h)))

theorem flowLate_stands {n : Nat} {d : Descriptor} : Stands s0 (flowLate n d s) := zoneLate_stands (setFlag_stands (bumpBy_stands h))

theorem lateWork_stands {d : Descriptor} : Stands s0 (lateWork s d) := by
  unfold lateWork
  split
  case h_1 => exact flowLate_stands h
  case h_2 l _ =>
    have htake : Stands s0 (laneTake l d.zone d.frame s) := h.only (laneTake_only (List.Subset.refl _) (only_refl _ _)) (by decide) (by decide)
    dsimp only
    split
    · exact dropJob_stands htake
    · exact htake
  case h_3 => exact zoneLate_stands h
  case h_4 => exact h.trans ⟨rfl, List.prefix_refl _, rfl, rfl⟩
  case h_5 => exact h

theorem releaseWork_stands {r : Cfg} {d : Descriptor} : Stands s0 (releaseWork r s d) := by
  unfold releaseWork
  split
  · exact keep_ite (lateWork_stands (discardDescriptor_stands h)) (insertDescriptor_stands h)
  · exact insertDescriptor_stands h

theorem zoneData_stands {z : Nat} {k : Int} : Stands s0 (zoneData z k s) := by
  unfold zoneData
  split
  · exact keep_foldl h fun _ _ hx => releaseWork_stands hx
  · exact modPool_stands h

theorem zoneReady_stands {z : Nat} {k : Int} : Stands s0 (zoneReady z k s) := keep_ite (zoneData_stands (modPool_stands h)) h

theorem valuesLate_stands {keys : List Nat} : Stands s0 (valuesLate keys s) := by
  unfold valuesLate
  exact bumpBy_stands (modRad_stands (keep_foldl h fun _ _ hx => zoneLate_stands hx))

theorem radioRelease_stands {z : Nat} {k : Int} : Stands s0 (radioRelease z k s) := by
  unfold radioRelease
  split
  · exact h
  · exact keep_foldl (valuesLate_stands h) fun _ _ hx => modRad_stands hx

theorem windowReady_stands {z : Nat} {k : Int} : Stands s0 (windowReady z k s) := keep_ite (radioRelease_stands (zoneReady_stands h)) h

theorem zonePush_stands {z : Nat} : Stands s0 (zonePush z s) := by
  unfold zonePush
  split
  · exact h
  · exact keep_ite h (keep_ite (windowReady_stands (modPool_stands h)) h)

/-! Mapper engines that fail with their domain. -/

theorem tileEnd_stands {n : Nat} {r : TileRec} : Stands s0 (tileEnd n r s) := by
  unfold tileEnd
  have hrec : Stands s0 (modFrame (fun g => { g with
    ended := aPut g.ended n r, lastDone := if (aFind g.ended n).isSome then g.lastDone else max g.lastDone s.time.st64 }) s) := modFrame_stands h
  dsimp only
  split
  · exact (keep_ite (zonePush_stands hrec) hrec).only (frameDone_only (List.Subset.refl _) (only_refl _ _)) (by decide) (by decide)
  · exact hrec

theorem repeatTile_stands {ps : List TilePart} : Stands s0 (repeatTile ps s) :=
  h.only (repeatTile_only (List.Subset.refl _) (only_refl _ _)) (by decide) (by decide)

theorem engineDown_stands {cause e : Nat} : Stands s0 (engineDown cause e s).1 := by
  unfold engineDown
  have hdown : Stands s0 (bumpBy (R.MAP_CNT_WAIT 0) (heldWait s (mapEngine s e))
      (mapFlag 0 (modMapEngine e (fun y => { y with role := .failed, cause := cause, held := none, testBad := 0 }) s))) :=
    bumpBy_stands (setFlag_stands (modMapEngine_stands h))
  dsimp only
  split
  · exact hdown
  · rw [apply_ite Prod.fst]
    refine keep_ite hdown (keep_foldl (modFrame_stands (setFlag_stands (bumpBy_stands ?_))) fun _ _ hx => tileEnd_stands hx)
    exact keep_foldl hdown fun _ _ hx => repeatTile_stands hx

theorem enginesFail_stands {cause : Nat} {es : List Nat} : Stands s0 (enginesFail cause es s) := by
  unfold enginesFail
  refine keep_ite h (keep_foldl (.only (l := [.fxm]) ?_ (reshed_only (List.Subset.refl _) (only_refl _ _)) (by decide) (by decide))
    fun _ _ hx => notify_stands hx)
  have hdown (l : List Nat) (a : State × List (Nat × Nat)) (ha : Stands s0 a.1) : Stands s0 (l.foldl (fun (a : State × List (Nat × Nat)) e =>
      let d := engineDown cause e a.1
      (d.1, a.2 ++ [d.2])) a).1 := by
    induction l generalizing a with
    | nil => exact ha
    | cons e r ih => exact ih _ (engineDown_stands ha)
  exact hdown _ _ h

theorem mapDomainOff_stands {d : Nat} : Stands s0 (mapDomainOff d s) := by
  unfold mapDomainOff
  exact modMap_stands (keep_foldl (enginesFail_stands h) fun _ _ hx => modMapEngine_stands hx)

end

end Sys2Proof.Proofs
end

section
/-! Power domains: what the next step of a domain leaves alone (R587 to R590). -/

namespace Sys2Proof.Proofs

open Sys2Proof.Machine Sys2Proof.Safety Sys2Proof.Laws

/-- The ports of a domain are read and leave, before their state goes. -/
theorem portsLeave_stands {s0 s : State} (h : Stands s0 s) (l : List Nat) :
    Stands s0 (l.foldl (fun y p =>
      modPort p (fun q => { MacPort.reset with acc := q.acc, tally := Vector.replicate 24 0 }) (linkLeave p 2 .down (tallyGather y p))) s) :=
  keep_foldl h fun _ _ hx => modPort_stands (linkLeave_stands (tallyGather_stands hx))

theorem portStops_stands {s0 s : State} (h : Stands s0 s) : Stands s0 (rasStop (vinStop s)) :=
  h.only (l := [.vin, .ras]) (rasStop_only (by decide) (vinStop_only (by decide) (only_refl _ _))) (by decide) (by decide)

/-- The blocks of a domain stop. Only PD13, with the PCIe session, takes anything of a commit with it. -/
theorem domainLeave_stands {d : Nat} (hd : d ≠ 13) (s : State) : Stands s (domainLeave d s) := by
  have h := Stands.refl s
  unfold domainLeave
  dsimp only
  refine Stands.only (l := [.regs]) ?_ (loseRegs_only (List.Subset.refl _) (only_refl _ _)) (by decide) (by decide)
  split
  case h_1 => exact h.only (cmpOff_only (List.Subset.refl _) (only_refl _ _)) (by decide) (by decide)
  case h_2 => exact mapDomainOff_stands h
  case h_3 => exact mapDomainOff_stands h
  case h_4 => exact h.trans ⟨rfl, List.prefix_refl _, rfl, rfl⟩
  case h_5 => exact keep_ite (portStops_stands (portsLeave_stands h _)) (portsLeave_stands h _)
  case h_6 => exact keep_ite (portStops_stands (portsLeave_stands h _)) (portsLeave_stands h _)
  case h_7 => exact keep_ite (portStops_stands (portsLeave_stands h _)) (portsLeave_stands h _)
  case h_8 => exact lanesOff_stands h
  case h_9 => exact modRad_stands h
  case h_10 => exact modPort_stands (linkLeave_stands (tallyGather_stands h))
  case h_11 => exact absurd rfl hd
  case h_12 => exact h

/-- PD13 takes the PCIe session, and nothing of the Almanac. -/
theorem domainLeave_setUp (d : Nat) (s : State) :
    (domainLeave d s).alm.leadUs = s.alm.leadUs ∧ (domainLeave d s).alm.poolMib = s.alm.poolMib := by
  by_cases hd : d = 13
  · subst hd
    have honly : Only [.regs, .teller, .power, .lanes, .dmx, .cal, .vlt, .lgr] s (domainLeave 13 s) :=
      loseRegs_only (by decide) (pcieClose_only (List.Subset.refl _) (only_refl _ _))
    have halm : _ = s.alm := honly.2.2 .alm (by decide)
    rw [halm]
    exact ⟨rfl, rfl⟩
  · exact ⟨(domainLeave_stands hd s).lead, (domainLeave_stands hd s).pool⟩

/-- Of the state of power only the domains, and whom a change still owes its answer, may differ. -/
def SamePower (p q : Power) : Prop := q = { p with domains := q.domains, change := q.change }

theorem SamePower.refl (p : Power) : SamePower p p := rfl

theorem SamePower.trans {p q r : Power} (h : SamePower p q) (g : SamePower q r) : SamePower p r := by
  unfold SamePower at *
  rw [g, h]

theorem samePower_of_only {l : List Comp} {s t : State} (h : Only l s t) (hp : Comp.power ∉ l) : SamePower s.power t.power := by
  have hpower : t.power = s.power := h.2.2 _ hp
  rw [hpower]
  exact SamePower.refl _

/-- PD13 stays in use while the device does not go to sleep (R588). -/
theorem needsDown_13 {s : State} (h : sleeps (wantedMode s) = false) : needsDown s 13 = false := by
  have huse : domInUse s 13 = true := by
    unfold domInUse
    simp [h]
  have hgoal : domGoal s 13 = .on := by
    unfold domGoal
    simp [huse]
  simp [needsDown, hgoal]

/-- The next step is one that a domain needs. -/
theorem needs_of_nextStep {s : State} {d : Nat} (h : nextStep s = some d) : needsUp s d = true ∨ needsDown s d = true := by
  unfold nextStep at h
  obtain hl | ⟨-, hr⟩ := Option.or_eq_some_iff.mp h
  · simpa using List.find?_some hl
  · obtain hu | ⟨-, hd⟩ := Option.or_eq_some_iff.mp hr
    · exact .inl (List.find?_some hu)
    · exact .inr (List.find?_some hd)

/-- A state whose domains alone differ from those of `s`. -/
def WithDomains (s t : State) : Prop := ∃ doms, t = { s with power := { s.power with domains := doms } }

theorem modDom_withDomains (d : Nat) (f : Dom → Dom) (s : State) : WithDomains s (modDom d f s) := ⟨_, rfl⟩

theorem WithDomains.refl (s : State) : WithDomains s s := ⟨_, rfl⟩

theorem WithDomains.trans {s t u : State} (h : WithDomains s t) (g : WithDomains t u) : WithDomains s u := by
  obtain ⟨_, rfl⟩ := h
  obtain ⟨_, rfl⟩ := g
  exact ⟨_, rfl⟩

/-- GATED and RETAIN are entered and left in the domains alone. -/
theorem settleDoms_withDomains (l : List Nat) (s : State) : WithDomains s (l.foldl settleDom s) := by
  induction l generalizing s with
  | nil => exact WithDomains.refl s
  | cons d r ih =>
    refine WithDomains.trans ?_ (ih (settleDom s d))
    unfold settleDom
    dsimp only
    split
    · exact modDom_withDomains _ _ s
    · exact WithDomains.refl s

/-- HKC looks at the domains: nothing happens beyond their states, or a domain that is to go off begins to, and its blocks stop. -/
theorem kick_cases (s : State) :
    WithDomains s (kick s) ∨ ∃ s1 d, WithDomains s s1 ∧ needsDown s1 d = true ∧ WithDomains (domainLeave d s1) (kick s) := by
  have hsettle := settleDoms_withDomains (List.range' 2 12) s
  unfold kick
  split
  · exact .inl (WithDomains.refl s)
  · dsimp only
    generalize (List.range' 2 12).foldl settleDom s = s1 at hsettle ⊢
    split
    · exact .inl hsettle
    · split
      · rename_i d hd
        unfold stepStart
        split
        · exact .inl (hsettle.trans (modDom_withDomains _ _ _))
        · rename_i hup
          exact .inr ⟨s1, d, hsettle, (needs_of_nextStep hd).resolve_left hup, modDom_withDomains _ _ _⟩
      · exact .inl hsettle

theorem WithDomains.wantedMode {s t : State} (h : WithDomains s t) : wantedMode t = wantedMode s := by
  obtain ⟨_, rfl⟩ := h
  rfl

theorem WithDomains.stands {s t : State} (h : WithDomains s t) : Stands s t := by
  obtain ⟨_, rfl⟩ := h
  exact ⟨rfl, List.prefix_refl _, rfl, rfl⟩

/-- While the device does not go to sleep, nothing of a commit goes with a domain. -/
theorem kick_stands {s : State} (h : sleeps (wantedMode s) = false) : Stands s (kick s) := by
  obtain hk | ⟨s1, d, h1, hdown, hk⟩ := kick_cases s
  · exact hk.stands
  · have hd : d ≠ 13 := by
      rintro rfl
      rw [needsDown_13 (by rw [h1.wantedMode]; exact h)] at hdown
      cases hdown
    exact h1.stands.trans ((domainLeave_stands hd s1).trans hk.stands)

/-- The set-up of the show outlives every domain. -/
theorem kick_setUp (s : State) : (kick s).alm.leadUs = s.alm.leadUs ∧ (kick s).alm.poolMib = s.alm.poolMib := by
  obtain hk | ⟨s1, d, h1, -, hk⟩ := kick_cases s
  · exact ⟨hk.stands.lead, hk.stands.pool⟩
  · obtain ⟨hlead, hpool⟩ := domainLeave_setUp d s1
    exact ⟨hk.stands.lead.trans (hlead.trans h1.stands.lead), hk.stands.pool.trans (hpool.trans h1.stands.pool)⟩

end Sys2Proof.Proofs
end

section
/-! Commits and the start of show time (R568 to R573, R697). -/

namespace Sys2Proof.Proofs

open Sys2Proof.Machine Sys2Proof.Safety Sys2Proof.Laws

/-- A command that is executed ends with what its body gives, also where the body may have closed its session. -/
theorem commandLater_ends {code : Nat} {c : Call} {s : State} {body : State → State × Option Reply} {i : Instr} {r : Reply} {x : State}
    (he : exec i s = commandLater code c s body) (h : Ready code c s) (hb : body (advance c.t s) = (x, some r)) : Ends i code c r x s := by
  unfold Ends
  rw [he]
  unfold commandLater
  dsimp only
  have hpart : ¬(codeIsRadio code = true ∧ (advance c.t s).part = .rk9210) := by
    rintro ⟨hradio, h9210⟩
    rw [advance_part, h.part hradio] at h9210
    cases h9210
  rw [if_neg (by simp [h.runs]), if_neg hpart, if_neg (by simp [h.mode]), if_neg (by simp [h.up]), hb]

/-! COMMIT_OPEN, COMMIT_ABORT and STAGE_DROP (R569, R573). -/

theorem commitOpen_done {c : Call} {s : State} (h : Ready 0x0010 c s) (ho : s.teller.openCommit = none) :
    Done (.commitOpen c) 0x0010 c ⟨.ok, 0, []⟩ { advance c.t s with teller := { s.teller with openCommit := some ⟨c.session, [], 0⟩ } } s := by
  refine command_done (rfl : _ = execCommitOpen c s) h ?_ (by simpa using h.wf) (by simpa [sess] using h.live)
  simp [ho, accept, modTeller]

theorem commitOpen_busy {c : Call} {s : State} (h : Ready 0x0010 c s) (ho : s.teller.openCommit ≠ none) :
    Done (.commitOpen c) 0x0010 c ⟨.busy, 0, []⟩ (advance c.t s) s := by
  refine command_reads (rfl : _ = execCommitOpen c s) h ?_
  simp [Option.isSome_iff_ne_none.mpr ho, refuse]

theorem commitAbort_done {c : Call} {s : State} {o : OpenCommit} (h : Ready 0x0012 c s) (ho : s.teller.openCommit = some o) (hc : o.owner = c.session) :
    Done (.commitAbort c) 0x0012 c ⟨.ok, 0, []⟩ { advance c.t s with teller := { s.teller with openCommit := none } } s := by
  refine command_done (rfl : _ = execCommitAbort c s) h ?_ (by simpa using h.wf) (by simpa [sess] using h.live)
  simp [ho, hc, accept, closeCommit, modTeller]

theorem commitAbort_none {c : Call} {s : State} (h : Ready 0x0012 c s) (ho : s.teller.openCommit = none) :
    Done (.commitAbort c) 0x0012 c ⟨.noCommit, 0, []⟩ (advance c.t s) s := by
  refine command_reads (rfl : _ = execCommitAbort c s) h ?_
  simp [ho, refuse]

theorem stageDrop_done {c : Call} {n : Nat} {s : State} (h : Ready 0x0013 c s) (hn : ∃ g ∈ s.teller.stages, g.id = n) :
    Done (.stageDrop c n) 0x0013 c ⟨.ok, 0, []⟩
      { advance c.t s with teller := { s.teller with stages := s.teller.stages.filter (fun g => g.id != n) } } s := by
  have hany : s.teller.stages.any (fun g => g.id == n) = true := by simpa using hn
  refine command_done (rfl : _ = execStageDrop c n s) h ?_ (by simpa using h.wf) (by simpa [sess] using h.live)
  simp [hany, accept, modTeller]

theorem stageDrop_notFound {c : Call} {n : Nat} {s : State} (h : Ready 0x0013 c s) (hn : ∀ g ∈ s.teller.stages, g.id ≠ n) :
    Done (.stageDrop c n) 0x0013 c ⟨.notFound, 0, []⟩ (advance c.t s) s := by
  have hany : s.teller.stages.any (fun g => g.id == n) = false := by simpa using hn
  refine command_reads (rfl : _ = execStageDrop c n s) h ?_
  simp [hany, refuse]

/-! COMMIT (R569 to R572). -/

theorem commit_none {c : Call} {p : CommitSet} {s : State} (h : Ready 0x0011 c s) (ho : s.teller.openCommit = none) :
    Done (.commit c p) 0x0011 c ⟨.noCommit, 0, []⟩ (advance c.t s) s := by
  refine commandLater_done (rfl : _ = execCommit c p s) h ?_ (by simpa using h.wf) (by simpa using h.live)
  simp [ho]

/-- What the body of COMMIT makes of an open commit of its session. -/
theorem commit_body {c : Call} {p : CommitSet} {s : State} {o : OpenCommit} (ho : s.teller.openCommit = some o) (hc : o.owner = c.session) :
    (fun s : State => match s.teller.openCommit with
      | some o => if o.owner = c.session then commitRun c p o.msgs (closeCommit s) else (s, some ⟨.noCommit, 0, []⟩)
      | none => (s, some ⟨.noCommit, 0, []⟩)) (advance c.t s) = commitRun c p o.msgs (closeCommit (advance c.t s)) := by
  simp [ho, hc]

theorem commitRun_now {c : Call} {p : CommitSet} {msgs : List ConfigMsg} {z : State} (hp : nBit p.flags 0 = false) :
    commitRun c p msgs z = commitJudged c p msgs z (validate z (commitDraft z msgs) msgs) := by
  unfold commitRun
  simp [hp]

theorem commitRun_stage {c : Call} {p : CommitSet} {msgs : List ConfigMsg} {z : State} (hheld : stageHeld z p.stageId = false)
    (hroom : z.teller.stages.length < 16) :
    commitRun c p msgs z = commitJudged c p msgs z (validate z (commitDraft z msgs) msgs) := by
  unfold commitRun
  rw [if_neg (by simp [hheld]), if_neg (by omega)]

/-- An accepted commit is counted as late or not; its place is as R571 gives it. -/
theorem commitPlace_accepted {flags k stage : Nat} {arrival : Int} {msgs : List ConfigMsg} {owed : Option Call} {z : State} {tag : Int} {late behind : Bool}
    (hplace : placeCommit z (commitDraft z msgs) flags k arrival = (tag, late, behind)) (hlate : late = false ∨ nBit flags 1 = false)
    (hroom : z.teller.accepted.length < 8) :
    commitPlace flags k stage arrival msgs owed z =
      (commitTake tag (bNat late + 2 * bNat behind) stage msgs owed (if late then bump R.TLR_CNT_LATE z else z),
        commitReply .pending tag 0 0 (bNat late + 2 * bNat behind) stage []) := by
  have hnot : ¬(late = true ∧ nBit flags 1 = true) := by
    rintro ⟨h1, h2⟩
    rcases hlate with h | h <;> simp [h] at h1 h2
  unfold commitPlace
  rw [hplace]
  dsimp only
  rw [if_neg hnot, if_neg (by omega)]

/-- While show time runs and the device does not go to sleep, an accepted commit is Teller's record and the newest of the accepted ones, and neither
configuration in force moves (R571). -/
theorem commitTake_running {tag : Int} {flags stage : Nat} {msgs : List ConfigMsg} {owed : Option Call} {s : State} (hrun : s.time.running = true)
    (hwake : sleeps (wantedMode s) = false) : ∃ cfg,
      (commitTake tag flags stage msgs owed s).record = cfg ∧ (commitTake tag flags stage msgs owed s).cfgA = s.cfgA ∧
      (commitTake tag flags stage msgs owed s).cfgB = s.cfgB ∧ (commitTake tag flags stage msgs owed s).teller.openCommit = s.teller.openCommit ∧
      (commitTake tag flags stage msgs owed s).teller.lastTag = tag ∧ (commitTake tag flags stage msgs owed s).teller.tagFloor = some tag ∧
      (commitTake tag flags stage msgs owed s).teller.accepted = s.teller.accepted ++ [⟨tag, msgs, cfg, false, flags, stage, owed⟩] := by
  unfold commitTake
  rw [hrun]
  dsimp only [if_true]
  generalize stampEpochs s.record (cfgDraft s.record msgs) msgs _ s.fxm.epoch = stamped
  obtain ⟨cfg, e⟩ := stamped
  dsimp only
  generalize hw : modTeller _ _ = w
  have hstands : Stands w (kick w) := kick_stands (by rw [← hw]; exact hwake)
  have honly : Only _ w (kick w) := kick_only (List.Subset.refl _) (only_refl _ _)
  have hrecord : (kick w).record = w.record := honly.2.2 .record (by decide)
  have hA : (kick w).cfgA = w.cfgA := honly.2.2 .cfgA (by decide)
  have hB : (kick w).cfgB = w.cfgB := honly.2.2 .cfgB (by decide)
  have hopen : (kick w).teller.openCommit = w.teller.openCommit := by rw [hstands.teller]
  have htag : (kick w).teller.lastTag = w.teller.lastTag := by rw [hstands.teller]
  have hfloor : (kick w).teller.tagFloor = w.teller.tagFloor := by rw [hstands.teller]
  have haccepted : (kick w).teller.accepted = w.teller.accepted := by rw [hstands.teller]
  subst hw
  exact ⟨cfg, hrecord, hA, hB, hopen, htag, hfloor, haccepted⟩

theorem modeRuns_awake {m : Mode} (h : modeRuns m = true) : sleeps m = false := by
  cases m <;> simp_all [modeRuns, sleeps]

/-- Without a change of mode, COMMIT is executed in a mode that does not sleep (R572, R583). -/
theorem commit_awake {c : Call} {s : State} (h : Ready 0x0011 c s) (hchange : s.power.change = none) : sleeps (wantedMode s) = false := by
  have hmode : modeRuns s.power.mode = true := h.mode
  unfold wantedMode
  rw [hchange]
  exact modeRuns_awake hmode

/-- The commit that closes is gone, and nothing but the clock moved. -/
theorem closeCommit_advance (t : Nat) (s : State) :
    closeCommit (advance t s) = { advance t s with teller := { s.teller with openCommit := none } } := by
  simp [closeCommit, modTeller]

theorem commitDraft_closeCommit (t : Nat) (s : State) (msgs : List ConfigMsg) :
    commitDraft (closeCommit (advance t s)) msgs = commitDraft s msgs := by
  simp [commitDraft, closeCommit_advance]

section
variable {c : Call} {p : CommitSet} {s : State} {o : OpenCommit} (h : Ready 0x0011 c s) (ho : s.teller.openCommit = some o) (hc : o.owner = c.session)
include h ho hc

/-- COMMIT completes with what its messages are judged to make. -/
theorem commit_done {r : Reply} {x : State} (hr : commitRun c p o.msgs (closeCommit (advance c.t s)) = (x, some r)) (hw : RegsWf x.regs)
    (hl : (sess x c.session).isOpen = true) : Done (.commit c p) 0x0011 c r x s :=
  commandLater_done (rfl : _ = execCommit c p s) h ((commit_body ho hc).trans hr) hw hl

theorem commit_ends {r : Reply} {x : State} (hr : commitRun c p o.msgs (closeCommit (advance c.t s)) = (x, some r)) :
    Ends (.commit c p) 0x0011 c r x s :=
  commandLater_ends (rfl : _ = execCommit c p s) h ((commit_body ho hc).trans hr)

/-- A commit that fails a check is answered with the block and its detail, counted and flagged (R570, R572). -/
theorem commit_rejected {b : Nat} {d : List Int} (hp : nBit p.flags 0 = false)
    (hv : validate (closeCommit (advance c.t s)) (commitDraft s o.msgs) o.msgs = some (b, d)) : ∃ y,
      Done (.commit c p) 0x0011 c ⟨.rejected, 32, ([0, 1, (b : Int), 0, (p.stageId : Int)] : List Int) ++ d⟩ y s ∧
        Only [.regs] (closeCommit (advance c.t s)) y ∧
        regN y R.TLR_CNT_REJECT = min 0xFFFFFFFF (regN s R.TLR_CNT_REJECT + 1) ∧ bitOf (reg y R.TLR_INT_STAT) 2 = true := by
  have hwf : RegsWf (closeCommit (advance c.t s)).regs := by simpa [closeCommit_advance] using h.wf
  refine ⟨rejected (closeCommit (advance c.t s)), commit_done h ho hc ?_ (setFlag_wf _ _ (bump_wf _ hwf)) ?_, ?_, ?_, ?_⟩
  · rw [commitRun_now hp]
    rw [commitDraft_closeCommit, hv]
    rfl
  · simpa [rejected, closeCommit_advance, sess] using h.live
  · exact setFlag_only (List.Subset.refl _) (bump_only (List.Subset.refl _) (only_refl _ _))
  · have hcount := bump_regN hwf R.TLR_CNT_REJECT
    have hheld : regN (closeCommit (advance c.t s)) R.TLR_CNT_REJECT = regN s R.TLR_CNT_REJECT := by
      rw [closeCommit_advance]
      exact congrArg BitVec.toNat (advance_reg c.t s _)
    rw [hheld] at hcount
    unfold rejected regN
    rw [setFlag_reg (bump_wf _ hwf), if_neg (by decide)]
    exact hcount
  · unfold rejected
    rw [setFlag_reg (bump_wf _ hwf), if_pos rfl]
    exact bitOf_setFlag _ _ (by decide)

/-- A commit to a stage is kept there (R573). -/
theorem commit_staged (hp : nBit p.flags 0 = true) (hheld : stageHeld s p.stageId = false) (hroom : s.teller.stages.length < 16)
    (hv : validate (closeCommit (advance c.t s)) (commitDraft s o.msgs) o.msgs = none) :
    Done (.commit c p) 0x0011 c ⟨.ok, 32, [0, 2, 0, 0, p.stageId]⟩ { advance c.t s with teller := { s.teller with
      openCommit := none, stages := s.teller.stages ++ [⟨p.stageId, o.msgs, nBit p.flags 1, nBit p.flags 2⟩] } } s := by
  refine commit_done h ho hc ?_ (by simpa using h.wf) (by simpa [sess] using h.live)
  rw [commitRun_stage (by simpa [closeCommit_advance, stageHeld] using hheld) (by simpa [closeCommit_advance] using hroom)]
  rw [commitDraft_closeCommit, hv]
  unfold commitJudged
  dsimp only
  rw [if_pos hp, closeCommit_advance]
  rfl

/-- An accepted commit waits for its tag, with neither configuration in force changed (R571). -/
theorem commit_pending {tag : Int} {late behind : Bool} (hp : nBit p.flags 0 = false) (hrun : s.time.running = true)
    (hv : validate (closeCommit (advance c.t s)) (commitDraft s o.msgs) o.msgs = none)
    (hplace : placeCommit (closeCommit (advance c.t s)) (commitDraft s o.msgs) p.flags p.k (reachedSt c (closeCommit (advance c.t s))) = (tag, late, behind))
    (hlate : late = false ∨ nBit p.flags 1 = false) (hroom : s.teller.accepted.length < 8) (hchange : s.power.change = none) : ∃ y cfg,
      Ends (.commit c p) 0x0011 c ⟨.pending, 32, [tag, 0, 0, (bNat late + 2 * bNat behind : Nat), p.stageId]⟩ y s ∧
        y.record = cfg ∧ y.cfgA = s.cfgA ∧ y.cfgB = s.cfgB ∧ y.teller.openCommit = none ∧ y.teller.lastTag = tag ∧ y.teller.tagFloor = some tag ∧
        y.teller.accepted = s.teller.accepted ++ [⟨tag, o.msgs, cfg, false, bNat late + 2 * bNat behind, p.stageId, some c⟩] := by
  generalize hz : closeCommit (advance c.t s) = z at hv hplace
  have hbody : commitRun c p o.msgs z = (commitTake tag (bNat late + 2 * bNat behind) p.stageId o.msgs (some c)
      (if late then bump R.TLR_CNT_LATE z else z), some ⟨.pending, 32, [tag, 0, 0, (bNat late + 2 * bNat behind : Nat), p.stageId]⟩) := by
    have hdraft : commitDraft z o.msgs = commitDraft s o.msgs := by rw [← hz, commitDraft_closeCommit]
    have hznow : z.time.running ≠ false := by
      rw [← hz]
      simp [closeCommit_advance, hrun]
    rw [commitRun_now hp, hdraft, hv]
    unfold commitJudged
    dsimp only
    rw [if_neg (by simp [hp]), if_neg hznow,
      commitPlace_accepted (by rw [hdraft]; exact hplace) hlate (by rw [← hz]; simpa [closeCommit_advance] using hroom)]
    rfl
  have hends := commit_ends h ho hc (by rw [hz]; exact hbody)
  have hwake : sleeps (wantedMode s) = false := commit_awake h hchange
  obtain ⟨w, hw, hsame⟩ : ∃ w, w = (if late then bump R.TLR_CNT_LATE z else z) ∧ Only [.regs] z w := by
    refine ⟨_, rfl, ?_⟩
    split
    · exact bump_only (List.Subset.refl _) (only_refl _ _)
    · exact only_refl _ _
  have htime : w.time = z.time := hsame.2.2 .time (by decide)
  have hteller : w.teller = z.teller := hsame.2.2 .teller (by decide)
  have hpower : w.power = z.power := hsame.2.2 .power (by decide)
  have hA : w.cfgA = z.cfgA := hsame.2.2 .cfgA (by decide)
  have hB : w.cfgB = z.cfgB := hsame.2.2 .cfgB (by decide)
  obtain ⟨cfg, hrecord, hcfgA, hcfgB, hopen, htag, hfloor, haccepted⟩ := commitTake_running (tag := tag) (flags := bNat late + 2 * bNat behind)
    (stage := p.stageId) (msgs := o.msgs) (owed := some c) (s := w) (by rw [htime, ← hz]; simpa [closeCommit_advance] using hrun)
    (by unfold wantedMode; rw [hpower, ← hz]; simpa [closeCommit_advance, wantedMode] using hwake)
  rw [← hw] at hends
  simp only [hA, ← hz, closeCommit_advance, advance_cfgA] at hcfgA
  simp only [hB, ← hz, closeCommit_advance, advance_cfgB] at hcfgB
  rw [hteller, ← hz, closeCommit_advance] at hopen haccepted
  exact ⟨_, cfg, hends, hrecord, hcfgA, hcfgB, hopen, htag, hfloor, haccepted⟩

/-- Without show time a commit whose domains are on comes into force at once (R571, R572). -/
theorem commit_early (hp : nBit p.flags 0 = false) (hrun : s.time.running = false)
    (hv : validate (closeCommit (advance c.t s)) (commitDraft s o.msgs) o.msgs = none) (hroom : s.teller.accepted.length < 8)
    (hready : domainsReady (commitTake 0 0 p.stageId o.msgs none (closeCommit (advance c.t s))) = true) :
    Ends (.commit c p) 0x0011 c ⟨.ok, 32, [0, 3, 0, 0, p.stageId]⟩
      (settleEarly (commitTake 0 0 p.stageId o.msgs none (closeCommit (advance c.t s)))) s := by
  refine commit_ends h ho hc ?_
  rw [commitRun_now hp, commitDraft_closeCommit, hv]
  unfold commitJudged
  dsimp only
  rw [if_neg (by simp [hp]), if_pos (by simpa [closeCommit_advance] using hrun)]
  unfold commitEarly
  dsimp only
  rw [if_neg (by simpa [closeCommit_advance] using hroom), if_pos hready]
  rfl

end

/-! SHOW_TIME_START (R81, R697). -/

/-- The time base starts: show time runs, and its start is no longer due (R81). -/
theorem timeStart_runs (s : State) : (timeStart s).time.running = true ∧ (timeStart s).time.startDue = none := by
  unfold timeStart startShow
  dsimp only
  rw [notify_time]
  split <;> split <;> exact ⟨rfl, rfl⟩

/-- Show time starts with Teller's record in force in both parts (R697). -/
theorem showStart_forced (s : State) :
    Only [.regs, .teller, .alm, .vin, .cmp, .ras, .fxm, .pool, .lanes, .mac, .rad, .esc] (forceRecord (timeStart (takeEpoch s))) (showStart s) := by
  unfold showStart
  refine radioSlots_only (by decide) (lneStart_only (by decide) (lneConfigure_only (by decide) (fxmStart_only (by decide) (rasStart_only (by decide)
    (vinStart_only (by decide) (vinForce_only (by decide) (modAlm_only (by decide) (writeShadows_only (by decide) (only_refl _ _)))))))))

/-- With no commit waiting, show time starts with what was on record in force. -/
theorem settleEarly_nil {s : State} (h : s.teller.accepted = []) : settleEarly s = s := by
  unfold settleEarly
  rw [if_neg (by simp [h])]

/-- What a start of show time makes of the time base, the configurations and the supply. -/
theorem showTimeStart_state (tests : List (Nat × Nat)) (s : State) (x : State) (hx : x = rolesBoot tests (showStart s)) :
    x.time.running = true ∧ x.time.startDue = none ∧ x.record = s.record ∧ x.cfgA = s.record ∧ x.cfgB = s.record ∧ x.power = s.power := by
  have hroles : Only [.regs, .teller, .alm, .vin, .cmp, .ras, .fxm, .pho, .pool, .lanes, .mac, .rad, .esc, .map]
      (forceRecord (timeStart (takeEpoch s))) x := by
    rw [hx]
    exact rolesBoot_only (by decide) (only_mono (showStart_forced s) (by decide))
  have hstart : Only _ (takeEpoch s) (timeStart (takeEpoch s)) := timeStart_only (List.Subset.refl _) (only_refl _ _)
  have hrecord : (timeStart (takeEpoch s)).record = s.record := hstart.2.2 .record (by decide)
  obtain ⟨hruns, hdue⟩ := timeStart_runs (takeEpoch s)
  have htime : x.time = (timeStart (takeEpoch s)).time := hroles.2.2 .time (by decide)
  refine ⟨by rw [htime, hruns], by rw [htime, hdue], (hroles.2.2 .record (by decide)).trans hrecord, (hroles.2.2 .cfgA (by decide)).trans hrecord,
    (hroles.2.2 .cfgB (by decide)).trans hrecord, ?_⟩
  exact (hroles.2.2 .power (by decide)).trans (hstart.2.2 .power (by decide))

theorem showTimeStart_goes {t : Nat} {tests : List (Nat × Nat)} {s : State} (hrun : s.time.running = false) (hmode : modeRuns s.power.mode = true)
    (hstart : startReady (advance t s) = true) (hready : domainsReady (advance t s) = true) (hchange : s.power.change = none)
    (hsag : sagBlocks (advance t s) = false) (hnone : s.teller.accepted = []) (hlevel : s.power.thermal.level ≠ 2) :
    Goes (.showTimeStart t tests) s fun x => x.time.running = true ∧ x.time.startDue = none ∧
      x.record = s.record ∧ x.cfgA = s.record ∧ x.cfgB = s.record ∧ x.power = s.power := by
  obtain ⟨x, hx⟩ : ∃ x, x = rolesBoot tests (showStart (advance t s)) := ⟨_, rfl⟩
  have hstate := showTimeStart_state tests (advance t s) x hx
  simp only [advance_record, advance_power] at hstate
  refine ⟨x, ?_, hstate⟩
  obtain ⟨-, -, -, -, -, hpower⟩ := hstate
  have hexec : exec (.showTimeStart t tests) s = execShowTimeStart t tests s := rfl
  rw [hexec]
  unfold execShowTimeStart
  dsimp only
  rw [if_pos (by simp [hrun, hmode, hstart, hready, hchange, hsag]), settleEarly_nil (by simpa using hnone), ← hx,
    if_neg (by rw [hpower]; simp [hlevel])]

theorem showTimeStart_idle {t : Nat} {tests : List (Nat × Nat)} {s : State} (h : s.time.running = true ∨ modeRuns s.power.mode = false ∨
    startReady (advance t s) = false ∨ domainsReady (advance t s) = false ∨ s.power.change ≠ none ∨ sagBlocks (advance t s) = true) :
    exec (.showTimeStart t tests) s = .next (advance t s) := by
  have hexec : exec (.showTimeStart t tests) s = execShowTimeStart t tests s := rfl
  rw [hexec]
  unfold execShowTimeStart
  refine if_neg ?_
  rintro ⟨h1, h2, h3, h4, h5, h6⟩
  simp_all

/-- Settles O52: each command as its body says, with a commit's reply from its validation and place; a start of show time forces Teller's record. -/
theorem commitsAndShowStart : Obligations.CommitsAndShowStart := by
  unfold Obligations.CommitsAndShowStart
  refine ⟨?_, ?_⟩
  · rintro c s x rfl
    refine ⟨fun h => ⟨commitOpen_done h, commitOpen_busy h⟩, fun h => ⟨fun o ho hc => commitAbort_done h ho hc, commitAbort_none h⟩,
      fun n h => ⟨stageDrop_done h, stageDrop_notFound h⟩, fun p h ho => commit_none h ho, ?_⟩
    rintro p o z h ho hc hz
    rw [← closeCommit_advance] at hz
    subst hz
    refine ⟨fun b d hp hv => commit_rejected h ho hc hp hv, fun hp hheld hroom hv => commit_staged h ho hc hp hheld hroom hv,
      fun tag late behind hp hrun hv hplace hlate hroom hchange => commit_pending h ho hc hp hrun hv hplace hlate hroom hchange, ?_⟩
    rintro now hp hrun hv hroom rfl hready
    exact commit_early h ho hc hp hrun hv hroom hready
  · rintro t tests s y rfl
    exact ⟨fun hrun hmode hstart hready hchange hsag hnone hlevel => showTimeStart_goes hrun hmode hstart hready hchange hsag hnone hlevel,
      showTimeStart_idle⟩

end Sys2Proof.Proofs
end

section
/-! The Ledger's records and the ends of sessions: what they leave alone (R556, R559, R655 to R666). -/

namespace Sys2Proof.Proofs

open Sys2Proof.Machine Sys2Proof.Safety Sys2Proof.Laws

/-- From `s` to `t` the Ledger and notices were at work: nothing but registers, Teller and the Ledger changed; the Ledger runs as before, no offer to
it was taken back, no session came into being, and the count of PD2's resets is as it was. -/
structure Records (s t : State) : Prop where
  only : Only [.regs, .teller, .lgr] s t
  run : t.lgr.run = s.lgr.run
  offers : s.teller.ledgerOffers <+: t.teller.ledgerOffers
  closed : ∀ i : Fin 5, (sess s i).isOpen = false → (sess t i).isOpen = false
  count : RegsWf s.regs → RegsWf t.regs ∧ reg t R.PWR_CNT_PD2 = reg s R.PWR_CNT_PD2

theorem Records.refl (s : State) : Records s s := ⟨only_refl _ _, rfl, List.prefix_refl _, fun _ h => h, fun h => ⟨h, rfl⟩⟩

theorem Records.trans {s t u : State} (h : Records s t) (g : Records t u) : Records s u where
  only := only_trans h.only g.only
  run := g.run.trans h.run
  offers := h.offers.trans g.offers
  closed i hi := g.closed i (h.closed i hi)
  count hw := ⟨(g.count (h.count hw).1).1, (g.count (h.count hw).1).2.trans (h.count hw).2⟩

section
variable {s0 s : State} (h : Records s0 s)
include h

theorem setReg_records {a : Nat} {w : Word} (ha : a ≠ R.PWR_CNT_PD2) : Records s0 (setReg a w s) :=
  h.trans ⟨setReg_only (by decide) (only_refl _ _), rfl, List.prefix_refl _, fun _ hi => hi,
    fun hw => ⟨setReg_wf hw a w, by rw [reg_setReg hw, if_neg ha]⟩⟩

theorem modLgr_records {f : Ledger → Ledger} (hf : ∀ l, (f l).run = l.run) : Records s0 (modLgr f s) :=
  h.trans ⟨modLgr_only (by decide) (only_refl _ _), hf _, List.prefix_refl _, fun _ hi => hi, fun hw => ⟨hw, rfl⟩⟩

theorem notify_records {code len : Nat} {fields : List Int} : Records s0 (notify code len fields s) := by
  have told := notify_told code len fields s
  refine h.trans ⟨only_mono told.only (by decide), by rw [notify_lgr], ?_, fun i hi => ?_, fun hw => ⟨?_, told.regs hw _ (by decide)⟩⟩
  · rw [told.offered]
    exact List.prefix_append _ _
  · rw [told.deaf i (.inr (.inl hi))]
    exact hi
  · exact regsWf_of (notify_keeps _ _ _ _ (Keeps.refl s)) hw

/-! Records and flushes. -/

theorem putRecord_records {r : LgrRec} : Records s0 (putRecord r s) := by
  have htook {x : State} {w : Word} (hx : Records s0 x) : Records s0 (bump R.LGR_CNT_REC (setReg R.LGR_NEXT_SEQ w x)) :=
    setReg_records (setReg_records hx (by decide)) (by decide)
  have hfull {x : State} {a : Nat} (ha : a ≠ R.PWR_CNT_PD2) (hx : Records s0 x) : Records s0 (setFlag R.LGR_INT_STAT 1 (bump a x)) :=
    setReg_records (setReg_records hx ha) (by decide)
  unfold putRecord
  dsimp only
  refine keep_ite (keep_ite (htook (modLgr_records h ?_)) (hfull (by decide) (modLgr_records h ?_)))
    (keep_ite (htook (modLgr_records h ?_)) (hfull (by decide) (modLgr_records h ?_)))
  all_goals exact fun _ => rfl

theorem putEvent_records {code : Nat} {fields : List Int} : Records s0 (putEvent code fields s) :=
  keep_foldl h fun _ _ hx => putRecord_records hx

theorem setTracker_records {i : Nat} {x : Tracker} : Records s0 (setTracker i x s) := by
  unfold setTracker
  exact modLgr_records h fun _ => rfl

theorem summarize_records {i : Nat} : Records s0 (summarize i s) := keep_ite h (putEvent_records (setTracker_records h))

theorem flushStart_records {all : Bool} {owed : List Call} : Records s0 (flushStart all owed s) := by
  unfold flushStart
  refine keep_ite h ?_
  split
  · exact modLgr_records h fun _ => rfl
  · exact modLgr_records (keep_foldl h fun _ _ hx => summarize_records hx) fun _ => rfl

theorem lossNotice_records {cause n : Nat} : Records s0 (lossNotice cause n s) := notify_records (setReg_records h (by decide))

theorem reportDropped_records : Records s0 (reportDropped s) := by
  unfold reportDropped
  dsimp only
  refine keep_ite h (lossNotice_records (putEvent_records (modLgr_records h ?_)))
  exact fun _ => rfl

theorem reportSide_records {n : Nat} : Records s0 (reportSide n s) := keep_ite h (lossNotice_records (putEvent_records h))

/-! The end of a freeze (R666). -/

theorem thawed_records : Records s0 (thawed s) := by
  unfold thawed
  dsimp only
  exact keep_ite (flushStart_records (reportDropped_records h)) (reportDropped_records h)

theorem thaw_records : Records s0 (thaw s) := by
  unfold thaw
  split
  · exact h
  · dsimp only
    refine thawed_records (reportSide_records (setReg_records (setReg_records (modLgr_records h ?_) (by decide)) (by decide)))
    exact fun _ => rfl

/-- A reset that does not reach PD1 ends a freeze, and the Ledger runs on (R658). -/
theorem lgrReset_records : Records s0 (lgrReset false s) := by
  unfold lgrReset
  dsimp only
  rw [if_neg (by decide)]
  exact modLgr_records (thaw_records h) fun _ => rfl

theorem lgrGone_records {i : Fin 5} : Records s0 (lgrGone i s) := by
  unfold lgrGone
  refine modLgr_records ?_ fun _ => rfl
  split
  · exact keep_ite (thaw_records h) h
  · exact h

end

/-- The scan at boot: the Ledger runs, and no session came into being (R664). -/
theorem lgrScan_started (s : State) :
    (lgrScan s).lgr.run = true ∧ ∀ i : Fin 5, (sess s i).isOpen = false → (sess (lgrScan s) i).isOpen = false := by
  have hscan : Records s (scanRun s) := by
    unfold scanRun
    split
    · exact setReg_records (setReg_records (setReg_records (Records.refl s) (by decide)) (by decide)) (by decide)
    · exact Records.refl s
  unfold lgrScan
  dsimp only
  generalize hx : setReg R.LGR_CLEARS _ _ = x
  have hregs : Records s x := by
    rw [← hx]
    exact setReg_records (setReg_records (setReg_records (setReg_records hscan (by decide)) (by decide)) (by decide)) (by decide)
  generalize hy : modLgr _ x = y
  have hrun : y.lgr.run = true := by
    rw [← hy]
    rfl
  have hclosed : ∀ i : Fin 5, (sess s i).isOpen = false → (sess y i).isOpen = false := by
    rw [← hy]
    exact hregs.closed
  generalize hz : modLgr _ _ = z
  have htold : Records y z := by
    rw [← hz]
    refine modLgr_records (keep_foldl (Records.refl y) fun _ _ hw => summarize_records hw) ?_
    exact fun _ => rfl
  have hloss {c : Prop} [Decidable c] {n : Nat} : Records y (if c then z else lossNotice 3 n z) := keep_ite htold (lossNotice_records htold)
  have hend {c d : Prop} [Decidable c] [Decidable d] {n : Nat} :
      Records y (if d then (if c then z else lossNotice 3 n z) else flushStart false [] (if c then z else lossNotice 3 n z)) :=
    keep_ite hloss (flushStart_records hloss)
  exact ⟨hend.run.trans hrun, fun i hi => hend.closed i (hclosed i hi)⟩

/-! Sessions that end or begin (R556, R559, R579). -/

/-- From `s` to `t` sessions ended or began: of the supply at most whom a change of mode still owes its answer changed, and of Vault at most whom a
block write still owes its answer. -/
structure Parted (s t : State) : Prop where
  power : t.power = { s.power with change := t.power.change }
  vault : s.vlt.write = none → t.vlt = s.vlt
  run : t.lgr.run = s.lgr.run
  offers : s.teller.ledgerOffers <+: t.teller.ledgerOffers
  count : RegsWf s.regs → RegsWf t.regs ∧ reg t R.PWR_CNT_PD2 = reg s R.PWR_CNT_PD2

theorem Parted.refl (s : State) : Parted s s := ⟨rfl, fun _ => rfl, rfl, List.prefix_refl _, fun h => ⟨h, rfl⟩⟩

theorem Parted.trans {s t u : State} (h : Parted s t) (g : Parted t u) : Parted s u where
  power := by rw [g.power, h.power]
  vault hw := by rw [g.vault (by rw [h.vault hw]; exact hw), h.vault hw]
  run := g.run.trans h.run
  offers := h.offers.trans g.offers
  count hw := ⟨(g.count (h.count hw).1).1, (g.count (h.count hw).1).2.trans (h.count hw).2⟩

theorem Records.parted {s t : State} (h : Records s t) : Parted s t where
  power := by
    have hpower : t.power = s.power := h.only.2.2 .power (by decide)
    rw [hpower]
  vault _ := h.only.2.2 .vlt (by decide)
  run := h.run
  offers := h.offers
  count := h.count

section
variable {s0 s : State} (h : Parted s0 s)
include h

/-- Teller changes, but for what it offers to the Ledger. -/
theorem modTeller_parted {f : Teller → Teller} (hf : ∀ x, (f x).ledgerOffers = x.ledgerOffers) : Parted s0 (modTeller f s) :=
  h.trans ⟨rfl, fun _ => rfl, rfl, by rw [show (modTeller f s).teller.ledgerOffers = _ from hf _], fun hw => ⟨hw, rfl⟩⟩

theorem modSess_parted {i : Nat} {f : Session → Session} : Parted s0 (modSess i f s) :=
  h.trans ⟨rfl, fun _ => rfl, rfl, List.prefix_refl _, fun hw => ⟨hw, rfl⟩⟩

theorem modRings_parted {f : Rings → Rings} : Parted s0 (modRings f s) :=
  h.trans ⟨rfl, fun _ => rfl, rfl, List.prefix_refl _, fun hw => ⟨hw, rfl⟩⟩

theorem setReg_parted {a : Nat} {w : Word} (ha : a ≠ R.PWR_CNT_PD2) : Parted s0 (setReg a w s) :=
  h.trans (setReg_records (Records.refl s) ha).parted

theorem sessionGone_parted {i : Fin 5} : Parted s0 (sessionGone i s) := by
  have hgone : Parted s0 (lgrGone i s) := h.trans (lgrGone_records (Records.refl s)).parted
  unfold sessionGone
  generalize lgrGone i s = x at hgone
  refine hgone.trans ⟨rfl, fun hw => ?_, rfl, List.prefix_refl _, fun hw => ⟨hw, rfl⟩⟩
  have hvault : ({ x.vlt with write := x.vlt.write.map (fun w => { w with owed := dropOwed i w.owed }) } : Vault) = x.vlt := by
    rw [hw]
    exact congrArg (fun w => { x.vlt with write := w }) hw.symm
  exact hvault

theorem sessionClose_parted {i : Fin 5} : Parted s0 (sessionClose i s) := keep_ite (modSess_parted h) (modSess_parted (sessionGone_parted h))

theorem sessionClear_parted {i : Fin 5} : Parted s0 (sessionClear i s) := by
  unfold sessionClear
  dsimp only
  exact keep_ite (modSess_parted (sessionGone_parted h))
    (setReg_parted (setReg_parted (modSess_parted (sessionGone_parted h)) (by decide)) (by decide))

theorem pcieClose_parted : Parted s0 (pcieClose s) := modRings_parted (sessionClose_parted h)

theorem tellerStop_parted : Parted s0 (tellerStop s) := by
  unfold tellerStop
  refine modTeller_parted (keep_foldl h fun _ _ hx => sessionClose_parted hx) ?_
  exact fun _ => rfl

/-! Notices to one session, and the PCIe session's beginning. -/

theorem notifyOne_parted {code len : Nat} {fields : List Int} {i : Fin 5} : Parted s0 (notifyOne code len fields i s) := by
  unfold notifyOne
  dsimp only
  generalize (⟨0, code, noticeClass code, st64 s, len, fields⟩ : Notice) = n
  have honly : Only [.regs, .teller] s (notifyTo n s i) := notifyTo_only (List.Subset.refl _) (only_refl _ _)
  have hpower : (notifyTo n s i).power = s.power := honly.2.2 .power (by decide)
  have hvault : (notifyTo n s i).vlt = s.vlt := honly.2.2 .vlt (by decide)
  have hledger : (notifyTo n s i).lgr = s.lgr := honly.2.2 .lgr (by decide)
  refine h.trans ⟨?_, fun _ => hvault, congrArg Ledger.run hledger, ?_, fun hw => ⟨?_, notifyTo_reg n hw i _ (by decide)⟩⟩
  · change (notifyTo n s i).power = { s.power with change := (notifyTo n s i).power.change }
    rw [hpower]
  · refine List.IsPrefix.trans ?_ (List.prefix_append _ _)
    rw [notifyTo_teller]
  · exact regsWf_of (t := notifyTo n s i) (notifyTo_keeps n s i (Keeps.refl s)) hw

theorem lostNotice_parted {i : Fin 5} : Parted s0 (lostNotice i s) := by
  unfold lostNotice
  exact keep_ite h (notifyOne_parted (modSess_parted h))

theorem ringReset_parted : Parted s0 (ringReset s) := by
  unfold ringReset
  exact lostNotice_parted (notifyOne_parted (setReg_parted (setReg_parted (sessionClear_parted (modRings_parted (modSess_parted h))) (by decide)) (by decide)))

theorem pcieOpen_parted : Parted s0 (pcieOpen s) := by
  unfold pcieOpen
  dsimp only
  have hopen : Parted s0 (modRings (fun _ => Rings.empty) (modSess 0 (fun _ => { Session.closed with isOpen := true }) s)) :=
    modRings_parted (modSess_parted h)
  exact keep_ite (keep_ite (ringReset_parted hopen) (notifyOne_parted hopen)) h

theorem tellerStart_parted {cause : Nat} : Parted s0 (tellerStart cause s) := by
  unfold tellerStart
  refine pcieOpen_parted (modTeller_parted h ?_)
  exact fun _ => rfl

end

/-! Sessions that are closed when Teller stops (R576). -/

theorem sess_sessionGone (i : Fin 5) (s : State) (j : Nat) : sess (sessionGone i s) j = sess (lgrGone i s) j := by
  unfold sessionGone
  generalize lgrGone i s = x
  rfl

theorem sess_sessionClose (i j : Fin 5) (s : State) (h : (sess s j).isOpen = false ∨ j = i) : (sess (sessionClose i s) j).isOpen = false := by
  have hmod (x : State) (hx : (sess s j).isOpen = false → (sess x j).isOpen = false) : (sess (modSess i (fun _ => Session.closed) x) j).isOpen = false := by
    rw [sess_modSess]
    split
    · rfl
    · rename_i hji
      exact hx (h.resolve_right fun e => hji (congrArg Fin.val e))
  unfold sessionClose
  split
  · exact hmod s id
  · refine hmod _ fun hx => ?_
    rw [sess_sessionGone]
    exact (lgrGone_records (Records.refl s)).closed j hx

/-- Teller stops with every session closed. -/
theorem tellerStop_closed (s : State) (i : Fin 5) : (sess (tellerStop s) i).isOpen = false := by
  have hfold (l : List (Fin 5)) (s : State) (h : (sess s i).isOpen = false ∨ i ∈ l) :
      (sess (l.foldl (fun s i => sessionClose i s) s) i).isOpen = false := by
    induction l generalizing s with
    | nil => exact h.resolve_right (List.not_mem_nil)
    | cons j r ih =>
      refine ih (sessionClose j s) ?_
      rcases h with h | h
      · exact .inl (sess_sessionClose j i s (.inl h))
      · rcases List.mem_cons.mp h with e | hr
        · exact .inl (sess_sessionClose j i s (.inr e))
        · exact .inr hr
  have hclosed := hfold (List.finRange 5) s (.inr (List.mem_finRange i))
  unfold tellerStop
  generalize (List.finRange 5).foldl (fun s i => sessionClose i s) s = x at hclosed
  exact hclosed

end Sys2Proof.Proofs
end

section
/-! What the domains' next step keeps of the supply, and the start of BOOT (R582, R587 to R590, R675). -/

namespace Sys2Proof.Proofs

open Sys2Proof.Machine Sys2Proof.Safety Sys2Proof.Laws

/-- A domain other than PD13 takes with it nothing of the supply, and no record. -/
theorem domainLeave_rest {d : Nat} (hd : d ≠ 13) (s : State) :
    Only [.regs, .teller, .alm, .fifos, .vin, .cmp, .ras, .fxm, .pho, .pool, .lanes, .mac, .pkt, .dmx, .rad, .esc, .map] s (domainLeave d s) := by
  have hports (l : List Nat) : Only [.regs, .teller, .vin, .ras, .pool, .mac] s (l.foldl (fun y p =>
      modPort p (fun q => { MacPort.reset with acc := q.acc, tally := Vector.replicate 24 0 }) (linkLeave p 2 .down (tallyGather y p))) s) :=
    only_foldl (only_refl _ _) fun _ _ hx => modPort_only (by decide) (linkLeave_only (by decide) (tallyGather_only (by decide) hx))
  have hstops (c : Prop) [Decidable c] (x : State) (hx : Only [.regs, .teller, .vin, .ras, .pool, .mac] s x) :
      Only [.regs, .teller, .alm, .fifos, .vin, .cmp, .ras, .fxm, .pho, .pool, .lanes, .mac, .pkt, .dmx, .rad, .esc, .map] s
        (if c then rasStop (vinStop x) else x) :=
    only_mono (only_ite (rasStop_only (by decide) (vinStop_only (by decide) hx)) hx) (by decide)
  unfold domainLeave
  dsimp only
  refine loseRegs_only (by decide) ?_
  split
  case h_1 => exact cmpOff_only (by decide) (only_refl _ _)
  case h_2 => exact mapDomainOff_only (by decide) (only_refl _ _)
  case h_3 => exact mapDomainOff_only (by decide) (only_refl _ _)
  case h_4 => exact almOff_only (by decide) (only_refl _ _)
  case h_5 => exact hstops _ _ (hports _)
  case h_6 => exact hstops _ _ (hports _)
  case h_7 => exact hstops _ _ (hports _)
  case h_8 => exact lanesOff_only (by decide) (only_refl _ _)
  case h_9 => exact modRad_only (by decide) (only_refl _ _)
  case h_10 => exact modPort_only (by decide) (linkLeave_only (by decide) (tallyGather_only (by decide) (only_refl _ _)))
  case h_11 => exact absurd rfl hd
  case h_12 => exact only_refl _ _

theorem samePower_of_parted {s t : State} (h : Parted s t) : SamePower s.power t.power := by
  unfold SamePower
  rw [h.power]

/-- Of the supply a domain that goes off changes at most whom a change still owes its answer, and the Ledger runs as before. -/
theorem domainLeave_supply (d : Nat) (s : State) : SamePower s.power (domainLeave d s).power ∧ (domainLeave d s).lgr.run = s.lgr.run := by
  by_cases hd : d = 13
  · subst hd
    have hclose : Parted s (pcieClose s) := pcieClose_parted (Parted.refl s)
    have hlose : Only [.regs] (pcieClose s) (domainLeave 13 s) := loseRegs_only (List.Subset.refl _) (only_refl _ _)
    have hpower : (domainLeave 13 s).power = (pcieClose s).power := hlose.2.2 .power (by decide)
    have hledger : (domainLeave 13 s).lgr = (pcieClose s).lgr := hlose.2.2 .lgr (by decide)
    rw [hpower, hledger]
    exact ⟨samePower_of_parted hclose, hclose.run⟩
  · have honly := domainLeave_rest hd s
    exact ⟨samePower_of_only honly (by decide), congrArg Ledger.run (honly.2.2 .lgr (by decide))⟩

/-- The next step of the domains changes of the supply the domains alone, and at most whom a change still owes its answer. -/
theorem kick_supply (s : State) : SamePower s.power (kick s).power ∧ (kick s).lgr.run = s.lgr.run := by
  have hdomains {x y : State} (h : WithDomains x y) : SamePower x.power y.power ∧ y.lgr.run = x.lgr.run := by
    obtain ⟨_, rfl⟩ := h
    exact ⟨rfl, rfl⟩
  obtain hk | ⟨s1, d, h1, -, hk⟩ := kick_cases s
  · exact hdomains hk
  · obtain ⟨hp1, hr1⟩ := hdomains h1
    obtain ⟨hp2, hr2⟩ := domainLeave_supply d s1
    obtain ⟨hp3, hr3⟩ := hdomains hk
    exact ⟨(hp1.trans hp2).trans hp3, hr3.trans (hr2.trans hr1)⟩

/-- A domain in use stays so: HKC's own domains are never to go off. -/
theorem needsDown_low {s : State} {d : Nat} (h : d ≤ 1) : needsDown s d = false := by
  have huse : domInUse s d = true := by
    unfold domInUse
    simp [h]
  have h12 : ¬(d = 12 ∧ s.part = .rk9210) := by omega
  simp [needsDown, domGoal, huse, h12]

theorem settleDoms_off {s : State} {l : List Nat} (h : ∀ d ∈ l, domainUp s d = false) : l.foldl settleDom s = s := by
  induction l with
  | nil => rfl
  | cons d r ih =>
    have hd : settleDom s d = s := by
      unfold settleDom
      simp [h d List.mem_cons_self]
    rw [List.foldl_cons, hd]
    exact ih fun e he => h e (List.mem_cons_of_mem _ he)

/-- Where every switched domain is off, the next step powers one, and nothing else happens. -/
theorem kick_off {s : State} (h : ∀ d, 2 ≤ d → domainUp s d = false) : WithDomains s (kick s) := by
  have hsettle : (List.range' 2 12).foldl settleDom s = s := settleDoms_off fun d hd => h d (List.mem_range'_1.mp hd).1
  unfold kick
  split
  · exact WithDomains.refl s
  · dsimp only
    rw [hsettle]
    split
    · exact WithDomains.refl s
    · split
      · rename_i d hd
        unfold stepStart
        split
        · exact modDom_withDomains _ _ s
        · rename_i hup
          have hdown : needsDown s d = true := (needs_of_nextStep hd).resolve_left hup
          have hlow : ¬d ≤ 1 := fun hle => by
            rw [needsDown_low hle] at hdown
            cases hdown
          have hoff : needsDown s d = false := by simp [needsDown, h d (by omega)]
          rw [hoff] at hdown
          cases hdown
      · exact WithDomains.refl s

/-! The start of BOOT (R582, R675). -/

/-- After a reset every switched domain is off. -/
theorem domainUp_reset {s : State} (h : s.power.domains = Power.reset.domains) {d : Nat} (hd : 2 ≤ d) : domainUp s d = false := by
  have hstate : domState s d = .off := by
    unfold domState vGet
    rw [h]
    by_cases hlt : d < 14
    · have hhigh : ¬d ≤ 1 := by omega
      simp [Power.reset, hlt, hhigh, Dom.reset]
    · rw [Vector.getElem?_eq_none (by omega)]
      rfl
  simp [domainUp, hstate]

/-- From `s` to `t` BOOT began: of the supply the rails, the domains and the wake latch changed; show time and the queue are as they were, and no
session came into being. -/
structure Began (s t : State) : Prop where
  power : t.power = { s.power with
    domains := t.power.domains, wakeLatch := t.power.wakeLatch, pwrEn := t.power.pwrEn, pwrEnAt := t.power.pwrEnAt, attempts := t.power.attempts }
  time : t.time = s.time
  pending : t.pending = s.pending
  closed : ∀ i : Fin 5, (sess s i).isOpen = false → (sess t i).isOpen = false

theorem bootStart_began {s : State} (h : s.power.domains = Power.reset.domains) : Began s (bootStart s) := by
  unfold bootStart
  generalize hw : modPower _ s = w
  obtain ⟨hrun, hclosed⟩ := lgrScan_started w
  have honly : Only [.regs, .teller, .lgr] w (lgrScan w) := lgrScan_only (List.Subset.refl _) (only_refl _ _)
  have hpower : (lgrScan w).power = w.power := honly.2.2 .power (by decide)
  have htime : (lgrScan w).time = w.time := honly.2.2 .time (by decide)
  have hpending : (lgrScan w).pending = w.pending := honly.2.1
  have hoff : ∀ d, 2 ≤ d → domainUp (lgrScan w) d = false := fun d hd => domainUp_reset (by rw [hpower, ← hw]; exact h) hd
  obtain ⟨doms, hkick⟩ := kick_off hoff
  rw [hkick]
  subst hw
  refine ⟨?_, htime, hpending, hclosed⟩
  dsimp only
  rw [hpower]
  rfl

theorem hkcStart_began {s : State} (h : s.power.domains = Power.reset.domains) : Began s (hkcStart s) := by
  unfold hkcStart
  split
  · exact bootStart_began h
  · split
    · exact ⟨rfl, rfl, rfl, fun _ hi => hi⟩
    · exact ⟨rfl, rfl, rfl, fun _ hi => hi⟩

/-! Resets of the device (R595). -/

theorem sess_keepSent (old s : State) (i : Fin 5) : (sess (keepSent old s) i).isOpen = (sess s i).isOpen := by
  unfold keepSent sess vGet
  simp

/-- A device that a reset brought to BOOT with a cause: the supply as after a reset, show time stopped, every session closed, the queue kept. -/
structure Reset (pd1 : Bool) (cause rail : Nat) (s t : State) : Prop where
  power : t.power = powerReset pd1 cause rail s.power
  stopped : t.time.running = false
  pending : t.pending = s.pending
  closed : ∀ i : Fin 5, (sess t i).isOpen = false

theorem Reset.domains {pd1 : Bool} {cause rail : Nat} {s t : State} (h : Reset pd1 cause rail s t) : t.power.domains = Power.reset.domains := by
  rw [h.power]
  unfold powerReset
  cases pd1 <;> rfl

theorem deviceReset_reset (pd1 : Bool) (cause rail : Nat) (s : State) : Reset pd1 cause rail s (deviceReset pd1 cause rail s) := by
  unfold deviceReset
  dsimp only
  generalize hx : keepSent s _ = x
  have hreset : Reset pd1 cause rail s x := by
    rw [← hx]
    refine ⟨rfl, rfl, rfl, fun i => ?_⟩
    rw [sess_keepSent]
    simp [sess, vGet, Teller.reset, Session.closed]
  split
  · exact hreset
  · unfold modeNotice
    have told := notify_told 0x8300 16 [modeCode s.power.mode, modeCode .boot, ((if cause = 3 then 2 else 3 : Nat) : Int), st64 x] (setFlag R.PWR_INT_STAT 0 x)
    refine ⟨?_, ?_, told.only.2.1.trans hreset.pending, fun i => ?_⟩
    · rw [notify_power]
      exact hreset.power
    · rw [notify_time]
      exact hreset.stopped
    · rw [told.deaf i (.inr (.inl (hreset.closed i)))]
      exact hreset.closed i

/-- BOOT after a reset: the mode, the cause and the rail are told, show time is stopped, every session is closed and the queue is kept. -/
structure Rebooted (cause rail : Nat) (s t : State) : Prop where
  mode : t.power.mode = .boot
  cause : t.power.cause = cause
  rail : t.power.w2Rail = rail
  stopped : t.time.running = false
  pending : t.pending = s.pending
  closed : ∀ i : Fin 5, (sess t i).isOpen = false

theorem powerReset_boot (pd1 : Bool) (cause rail : Nat) (p : Power) :
    (powerReset pd1 cause rail p).mode = .boot ∧ (powerReset pd1 cause rail p).cause = cause ∧ (powerReset pd1 cause rail p).w2Rail = rail := by
  unfold powerReset
  cases pd1 <;> exact ⟨rfl, rfl, rfl⟩

theorem Reset.rebooted {pd1 : Bool} {cause rail : Nat} {s t u : State} (h : Reset pd1 cause rail s t) (g : Began t u) : Rebooted cause rail s u := by
  obtain ⟨hmode, hcause, hrail⟩ := powerReset_boot pd1 cause rail s.power
  rw [← h.power] at hmode hcause hrail
  exact ⟨by rw [g.power]; exact hmode, by rw [g.power]; exact hcause, by rw [g.power]; exact hrail, by rw [g.time]; exact h.stopped,
    g.pending.trans h.pending, fun i => g.closed i (h.closed i)⟩

/-- A reset that HKC carries out and starts again from. -/
theorem hkcStart_rebooted (pd1 : Bool) (cause rail : Nat) (s : State) : Rebooted cause rail s (hkcStart (deviceReset pd1 cause rail s)) :=
  (deviceReset_reset pd1 cause rail s).rebooted (hkcStart_began (deviceReset_reset pd1 cause rail s).domains)

theorem fullReset_on {cause rail : Nat} {s : State} (h : s.power.aonEn = true) : fullReset cause rail s = hkcStart (deviceReset true cause rail s) :=
  if_pos h

theorem fullReset_off {cause rail : Nat} {s : State} (h : s.power.aonEn = false) : fullReset cause rail s = s := by
  unfold fullReset
  simp [h]

section
variable {t : Nat} {s : State}

theorem w2Reset_goes {rail : Domain} (h : s.power.aonEn = true) : Goes (.w2Reset t rail) s fun x => x.power.mode = .boot ∧ x.power.cause = 2 ∧
    x.power.w2Rail = rail ∧ x.time.running = false ∧ x.pending = s.pending ∧ ∀ i : Fin 5, (sess x i).isOpen = false := by
  have hboot := hkcStart_rebooted true 2 rail (advance t s)
  rw [← fullReset_on (by simpa using h)] at hboot
  exact ⟨_, rfl, hboot.mode, hboot.cause, hboot.rail, hboot.stopped, hboot.pending.trans (advance_pending t s), hboot.closed⟩

theorem resetPin_goes (h : s.power.aonEn = true) : Goes (.resetPin t) s fun x => x.power.mode = .boot ∧ x.power.cause = 1 ∧
    x.time.running = false ∧ x.pending = s.pending ∧ ∀ i : Fin 5, (sess x i).isOpen = false := by
  have hboot := hkcStart_rebooted true 1 0xFF (advance t s)
  rw [← fullReset_on (by simpa using h)] at hboot
  exact ⟨_, rfl, hboot.mode, hboot.cause, hboot.stopped, hboot.pending.trans (advance_pending t s), hboot.closed⟩

theorem powerOnReset_goes : Goes (.powerOnReset t) s fun x => x.power.mode = .boot ∧ x.power.cause = 0 ∧ x.power.aonEn = true ∧
    x.time.running = false ∧ x.pending = s.pending ∧ ∀ i : Fin 5, (sess x i).isOpen = false := by
  generalize hw : modPower (fun p => { p with aonEn := true, attempts := 0 }) (advance t s) = w
  have hreset := deviceReset_reset true 0 0xFF w
  have haon : (deviceReset true 0 0xFF w).power.aonEn = true := by
    rw [hreset.power, ← hw]
    rfl
  have hpending : w.pending = s.pending := by
    rw [← hw]
    exact advance_pending t s
  have hexec : exec (.powerOnReset t) s = execPowerOnReset t s := rfl
  refine ⟨_, hexec.trans rfl, ?_⟩
  rw [hw]
  have hbegan : Began (deviceReset true 0 0xFF w)
      (if (deviceReset true 0 0xFF w).power.pwrGood then bootStart (deviceReset true 0 0xFF w) else deviceReset true 0 0xFF w) := by
    split
    · exact bootStart_began hreset.domains
    · exact ⟨rfl, rfl, rfl, fun _ hi => hi⟩
  have hboot := hreset.rebooted hbegan
  exact ⟨hboot.mode, hboot.cause, by rw [hbegan.power]; exact haon, hboot.stopped, hboot.pending.trans hpending, hboot.closed⟩

theorem resets_off (h : s.power.aonEn = false) : (∀ rail, exec (.w2Reset t rail) s = .next (advance t s)) ∧ exec (.resetPin t) s = .next (advance t s) ∧
    ∀ sensor temp, exec (.thermalTrip t sensor temp) s = .next (advance t s) := by
  have hfull (cause rail : Nat) : fullReset cause rail (advance t s) = advance t s := fullReset_off (by simpa using h)
  have hnext (cause rail : Nat) : (.next (fullReset cause rail (advance t s)) : Out) = .next (advance t s) := by rw [hfull]
  refine ⟨fun rail => hnext 2 rail, hnext 1 0xFF, fun sensor temp => ?_⟩
  have hexec : exec (.thermalTrip t sensor temp) s = execThermalTrip t sensor temp s := rfl
  rw [hexec]
  unfold execThermalTrip
  simp [h]

/-! The thermal trip (R601). -/

theorem thermalTrip_boots (sensor : Fin 24) (temp : Int) (s : State) :
    (thermalTrip sensor temp s).power.mode = .boot ∧ (thermalTrip sensor temp s).power.cause = 3 ∧
      (thermalTrip sensor temp s).power.thermal.tripWait = true ∧ vGet (thermalTrip sensor temp s).power.thermal.temps sensor none = some temp := by
  unfold thermalTrip
  dsimp only
  have hreset := deviceReset_reset true 3 0xFF s
  obtain ⟨hmode, hcause, -⟩ := powerReset_boot true 3 0xFF s.power
  rw [← hreset.power] at hmode hcause
  have hdomains := hreset.domains
  generalize deviceReset true 3 0xFF s = x at hmode hcause hdomains
  generalize hw : modThermal _ x = w
  have hbegan : Began w (hkcStart w) := hkcStart_began (by rw [← hw]; exact hdomains)
  rw [hbegan.power, ← hw]
  refine ⟨hmode, hcause, rfl, ?_⟩
  refine (vGet_vMod _ _ _ _ _ sensor.isLt).trans ?_
  rw [if_pos rfl]

theorem thermalTrip_goes {sensor : Fin 24} {temp : Int} (h : s.power.aonEn = true) (ht : 1760 ≤ temp) : Goes (.thermalTrip t sensor temp) s fun x =>
    x.power.mode = .boot ∧ x.power.cause = 3 ∧ x.power.thermal.tripWait = true ∧ vGet x.power.thermal.temps sensor none = some temp := by
  have hexec : exec (.thermalTrip t sensor temp) s = execThermalTrip t sensor temp s := rfl
  refine ⟨_, hexec.trans (if_neg ?_), thermalTrip_boots sensor temp (advance t s)⟩
  simp [h, ht]

theorem thermalTrip_cool {sensor : Fin 24} {temp : Int} (ht : temp < 1760) : exec (.thermalTrip t sensor temp) s = .next (advance t s) := by
  have hexec : exec (.thermalTrip t sensor temp) s = execThermalTrip t sensor temp s := rfl
  rw [hexec]
  exact if_pos (.inl ht)

end

/-! Resets of PD2 alone (R31, R596, R597). -/

theorem aFind_filter_key {α : Type} {m : SMap α} {p : Nat → Bool} {k : Nat} (h : p k = true) : aFind (m.filter (fun c => p c.1)) k = aFind m k := by
  induction m with
  | nil => rfl
  | cons c r ih =>
    obtain ⟨j, x⟩ := c
    by_cases hj : p j = true
    · rw [List.filter_cons_of_pos (by simpa using hj)]
      simp only [aFind, ih]
    · have hne : j ≠ k := fun e => hj (e ▸ h)
      rw [List.filter_cons_of_neg (by simpa using hj), ih]
      simp [aFind, hne]

/-- The registers of Teller, Vault and CHK alone go with PD2. -/
theorem pd2Regs_reg (s : State) : reg (pd2Regs s) R.PWR_CNT_PD2 = reg s R.PWR_CNT_PD2 := by
  unfold reg
  refine congrArg (fun o : Option Word => o.getD (resetWord R.PWR_CNT_PD2)) ?_
  exact aFind_filter_key (p := fun a => pageOf a != 0x50 && pageOf a != 0x54 && pageOf a != 0x05) (by decide)

/-- PD2 restarts by a cause: Teller is stopped and its sessions are closed, mode and time go on, no offer to the Ledger was taken back, and the reset
is counted. -/
structure Pd2Stopped (cause : Nat) (s t : State) : Prop where
  mode : t.power.mode = s.power.mode
  cause : t.power.cause = cause
  restarting : t.power.restarting = true
  time : t.time = s.time
  closed : ∀ i : Fin 5, (sess t i).isOpen = false
  offers : s.teller.ledgerOffers <+: t.teller.ledgerOffers
  count : regN t R.PWR_CNT_PD2 = min 0xFFFFFFFF (regN s R.PWR_CNT_PD2 + 1)

/-- What Teller's stop and the end of a freeze leave when PD2 is reset. -/
theorem tellerStop_lgrReset (s : State) : Parted s (lgrReset false (tellerStop s)) ∧ (lgrReset false (tellerStop s)).time = s.time ∧
    ∀ i : Fin 5, (sess (lgrReset false (tellerStop s)) i).isOpen = false := by
  have hthaw : Records (tellerStop s) (lgrReset false (tellerStop s)) := lgrReset_records (Records.refl _)
  have hstop : Only [.regs, .teller, .power, .lanes, .dmx, .cal, .vlt, .lgr] s (tellerStop s) := tellerStop_only (List.Subset.refl _) (only_refl _ _)
  have htime : (lgrReset false (tellerStop s)).time = (tellerStop s).time := hthaw.only.2.2 .time (by decide)
  exact ⟨(tellerStop_parted (Parted.refl s)).trans hthaw.parted, htime.trans (hstop.2.2 .time (by decide)),
    fun i => hthaw.closed i (tellerStop_closed s i)⟩

theorem pd2Reset_stopped {cause : Nat} {s : State} (hw : RegsWf s.regs) : Pd2Stopped cause s (pd2Reset cause s) := by
  obtain ⟨hparted, htime, hclosed⟩ := tellerStop_lgrReset s
  obtain ⟨hwf, hcount⟩ := hparted.count hw
  have hpower := hparted.power
  have hoffers := hparted.offers
  unfold pd2Reset
  generalize lgrReset false (tellerStop s) = x at htime hclosed hwf hcount hpower hoffers
  have hregs : RegsWf (pd2Regs x).regs := regsWf_of (pd2Regs_keeps x (Keeps.refl x)) hwf
  have hpd2 : (pd2Regs x).power = x.power := rfl
  refine ⟨?_, rfl, rfl, htime, hclosed, hoffers, ?_⟩
  · change x.power.mode = s.power.mode
    rw [hpower]
  · rw [bump_regN (by exact hregs)]
    have hreg : reg (pd2Regs x) R.PWR_CNT_PD2 = reg s R.PWR_CNT_PD2 := (pd2Regs_reg x).trans hcount
    exact congrArg (fun w : Word => min 0xFFFFFFFF (w.toNat + 1)) hreg

/-- The same with what had left for the host still to be read. -/
theorem keepSent_stopped {cause : Nat} {s t : State} (old : State) (h : Pd2Stopped cause s t) : Pd2Stopped cause s (keepSent old t) :=
  ⟨h.mode, h.cause, h.restarting, h.time, fun i => (sess_keepSent old t i).trans (h.closed i), h.offers, h.count⟩

theorem bootCounted_vault (s : State) : Only [.vlt] s (bootCounted s) := bootCounted_only (List.Subset.refl _) (only_refl _ _)

/-- In BOOT the boot ROM runs again, and the reset is counted. -/
theorem bootAgain_counted {cause : Nat} {s : State} (hw : RegsWf s.regs) :
    (bump R.PWR_CNT_PD2 (modPower (fun p => { p with cause := cause }) (bootCounted s))).power = { s.power with cause := cause } ∧
      regN (bump R.PWR_CNT_PD2 (modPower (fun p => { p with cause := cause }) (bootCounted s))) R.PWR_CNT_PD2 =
        min 0xFFFFFFFF (regN s R.PWR_CNT_PD2 + 1) := by
  have honly := bootCounted_vault s
  have hpower : (bootCounted s).power = s.power := honly.2.2 .power (by decide)
  have hregs : (bootCounted s).regs = s.regs := honly.2.2 .regs (by decide)
  refine ⟨?_, ?_⟩
  · rw [bump_power]
    change { (bootCounted s).power with cause := cause } = _
    rw [hpower]
  · rw [bump_regN (by rw [modPower_regs, hregs]; exact hw)]
    have hreg : reg (bootCounted s) R.PWR_CNT_PD2 = reg s R.PWR_CNT_PD2 := by
      unfold reg
      rw [hregs]
    exact congrArg (fun w : Word => min 0xFFFFFFFF (w.toNat + 1)) hreg

section
variable {t : Nat} {s : State}

theorem watchdogExpiry_boot (hw : RegsWf s.regs) (hmode : s.power.mode = .boot) (hon : domState s 2 = .on) : Goes (.watchdogExpiry t) s fun x =>
    x.power = { s.power with cause := 6 } ∧ regN x R.PWR_CNT_PD2 = min 0xFFFFFFFF (regN s R.PWR_CNT_PD2 + 1) := by
  obtain ⟨hpower, hcount⟩ := bootAgain_counted (cause := 6) (s := advance t s) (by simpa using hw)
  rw [advance_power] at hpower
  rw [advance_regN] at hcount
  have hexec : exec (.watchdogExpiry t) s = execWatchdogExpiry t s := rfl
  exact ⟨_, hexec.trans (if_pos (by simp [hmode, hon])), hpower, hcount⟩

/-- Where Teller runs, the device is not in BOOT. -/
theorem tellerRuns_notBoot (h : tellerRuns s = true) : s.power.mode ≠ .boot := by
  intro hboot
  simp [tellerRuns, hboot, modeTeller] at h

theorem watchdogExpiry_restarts (hw : RegsWf s.regs) (hrun : tellerRuns s = true)
    (hdue : s.power.dogAt + bits (reg s R.PWR_WDOG) 15 0 * 1000000 ≤ (advance t s).time.now) : Goes (.watchdogExpiry t) s fun x =>
      x.power.mode = s.power.mode ∧ x.power.cause = 6 ∧ x.power.restarting = true ∧ x.time = (advance t s).time ∧
        ∀ i : Fin 5, (sess x i).isOpen = false := by
  have hstop := keepSent_stopped (advance t s) (pd2Reset_stopped (cause := 6) (s := advance t s) (by simpa using hw))
  have hexec : exec (.watchdogExpiry t) s = execWatchdogExpiry t s := rfl
  refine ⟨_, hexec.trans ((if_neg ?_).trans (if_pos ?_)), hstop.mode.trans (by rw [advance_power]), hstop.cause, hstop.restarting, hstop.time, hstop.closed⟩
  · simp [tellerRuns_notBoot hrun]
  · simpa [hrun] using hdue

theorem watchdogExpiry_early (hrun : tellerRuns s = true) (hdue : (advance t s).time.now < s.power.dogAt + bits (reg s R.PWR_WDOG) 15 0 * 1000000) :
    exec (.watchdogExpiry t) s = .next (advance t s) := by
  have hexec : exec (.watchdogExpiry t) s = execWatchdogExpiry t s := rfl
  refine hexec.trans ((if_neg ?_).trans (if_neg ?_))
  · simp [tellerRuns_notBoot hrun]
  · simpa [hrun] using hdue

/-- The mismatch is offered to the Ledger, and nothing else has happened yet. -/
theorem lockstep_event (t pc : Nat) (s : State) : ∃ z, z = ledgerEvent 0x0005 [(pc : Int)] (advance t s) ∧
    (∃ o ∈ z.teller.ledgerOffers, o.1 = 0x0005 ∧ o.2.2 = [(pc : Int)]) ∧ z.power = s.power ∧ z.time = (advance t s).time ∧ z.regs = s.regs :=
  ⟨_, rfl, ⟨(0x0005, st64 (advance t s), [(pc : Int)]), List.mem_append_right _ List.mem_cons_self, rfl, rfl⟩, advance_power t s, rfl, advance_regs t s⟩

theorem lockstepMismatch_restarts {pc : Nat} (hw : RegsWf s.regs) (hon : domState s 2 = .on) (hmode : s.power.mode ≠ .boot) :
    Goes (.lockstepMismatch t pc) s fun x => x.power.mode = s.power.mode ∧ x.power.cause = 7 ∧
      x.power.restarting = true ∧ x.time = (advance t s).time ∧ (∃ o ∈ x.teller.ledgerOffers, o.1 = 0x0005 ∧ o.2.2 = [(pc : Int)]) ∧
      regN x R.PWR_CNT_PD2 = min 0xFFFFFFFF (regN s R.PWR_CNT_PD2 + 1) := by
  obtain ⟨z, hz, ⟨o, ho, hcode, hpc⟩, hpower, htime, hregs⟩ := lockstep_event t pc s
  have hstop := keepSent_stopped z (pd2Reset_stopped (cause := 7) (s := z) (by rw [hregs]; exact hw))
  have hcount : regN z R.PWR_CNT_PD2 = regN s R.PWR_CNT_PD2 := by
    unfold regN reg
    rw [hregs]
  have hlock : lockstep pc (advance t s) = keepSent z (pd2Reset 7 z) := by
    unfold lockstep
    rw [← hz]
    dsimp only
    rw [if_neg (by simp [hon]), if_neg (by simpa using hmode)]
  have hexec : exec (.lockstepMismatch t pc) s = .next (lockstep pc (advance t s)) := rfl
  exact ⟨_, hexec.trans (by rw [hlock]), hstop.mode.trans (by rw [hpower]), hstop.cause, hstop.restarting, hstop.time.trans htime,
    ⟨o, hstop.offers.subset ho, hcode, hpc⟩, hstop.count.trans (by rw [hcount])⟩

theorem lockstepMismatch_boot {pc : Nat} (hw : RegsWf s.regs) (hon : domState s 2 = .on) (hmode : s.power.mode = .boot) :
    Goes (.lockstepMismatch t pc) s fun x => x.power = { s.power with cause := 7 } ∧
      (∃ o ∈ x.teller.ledgerOffers, o.1 = 0x0005 ∧ o.2.2 = [(pc : Int)]) ∧
      regN x R.PWR_CNT_PD2 = min 0xFFFFFFFF (regN s R.PWR_CNT_PD2 + 1) := by
  obtain ⟨z, hz, ⟨o, ho, hcode, hpc⟩, hpower, -, hregs⟩ := lockstep_event t pc s
  have hcount : regN z R.PWR_CNT_PD2 = regN s R.PWR_CNT_PD2 := by
    unfold regN reg
    rw [hregs]
  obtain ⟨hboot, hbumped⟩ := bootAgain_counted (cause := 7) (s := z) (by rw [hregs]; exact hw)
  have hlock : lockstep pc (advance t s) = bump R.PWR_CNT_PD2 (modPower (fun p => { p with cause := 7 }) (bootCounted z)) := by
    unfold lockstep
    rw [← hz]
    dsimp only
    rw [if_neg (by simp [hon]), if_pos (by simpa using hmode)]
  have hteller : (bootCounted z).teller = z.teller := (bootCounted_vault z).2.2 .teller (by decide)
  rw [← hteller] at ho
  have hexec : exec (.lockstepMismatch t pc) s = .next (lockstep pc (advance t s)) := rfl
  exact ⟨_, hexec.trans (by rw [hlock]), hboot.trans (by rw [hpower]), ⟨o, ho, hcode, hpc⟩, hbumped.trans (by rw [hcount])⟩

theorem lockstepMismatch_off {pc : Nat} (hoff : domState s 2 ≠ .on) : exec (.lockstepMismatch t pc) s = .next (advance t s) := by
  have hlock : lockstep pc (advance t s) = advance t s := if_pos (by simpa using hoff)
  have hexec : exec (.lockstepMismatch t pc) s = .next (lockstep pc (advance t s)) := rfl
  rw [hexec, hlock]

end

end Sys2Proof.Proofs
end

section
/-! The boot ROM (R595, R629, R644): what it keeps, and what its choice depends on. -/

namespace Sys2Proof.Proofs

open Sys2Proof.Machine Sys2Proof.Safety Sys2Proof.Laws

/-- The boot ROM starts again from the top after a bank failed for `reason`. -/
def bootAgain (n corrupt : Nat) (r : BootRecord) (b reason : Nat) (s : State) : State :=
  bootBank n corrupt (some (b, reason, (bankInfo r b).version)) (fellBack s)

/-- The boot ROM tries a bank, where `r` is the record it began with. -/
def bootTry (n corrupt : Nat) (fell : Option (Nat × Nat × Nat)) (r : BootRecord) (b : Nat) (s : State) : State :=
  if ((bankInfo (bootOf s) b).state = .good ∨ (bankInfo (bootOf s) b).state = .staged) ∧ verifyBank s corrupt b = true then startBank b fell s
  else if (bankInfo (bootOf s) (1 - b)).state = .good then
    bootAgain n corrupt r b 1 (writeBoot (fun x => { x with active := 1 - b })
      (writeBoot (fun x => { setBankState b .failed x with pending := none, tries := 0 }) (bootSigFail s corrupt b)))
  else startRecovery b (some 2) (bankInfo (bootOf s) b).version
    (writeBoot (fun x => { setBankState b .failed x with pending := none, tries := 0 }) (bootSigFail s corrupt b))

/-- A round of the boot ROM tries the pending bank, at most three times, or the active one. -/
theorem bootBank_succ (n corrupt : Nat) (fell : Option (Nat × Nat × Nat)) (s : State) :
    bootBank (n + 1) corrupt fell s = match (bootOf s).pending with
      | some b =>
        if (bootOf s).tries = 3 then
          bootAgain n corrupt (bootOf s) b 0 (writeBoot (fun x => { setBankState b .failed x with pending := none, tries := 0 }) s)
        else bootTry n corrupt fell (bootOf s) b (writeBoot (fun x => { x with tries := x.tries + 1 }) s)
      | none => bootTry n corrupt fell (bootOf s) (bootOf s).active s := rfl

/-! What the boot ROM keeps. -/

/-- From `s` to `t` the boot ROM ran: of the supply the reset cause alone may differ, and the security state and a write under way are as they were. -/
structure BootRan (s t : State) : Prop where
  only : Only [.regs, .power, .vlt] s t
  power : t.power = { s.power with cause := t.power.cause }
  state : t.vlt.state = s.vlt.state
  write : t.vlt.write = s.vlt.write

theorem BootRan.refl (s : State) : BootRan s s := ⟨only_refl _ _, rfl, rfl, rfl⟩

section
variable {s0 s : State} (h : BootRan s0 s)
include h

theorem BootRan.trans {t : State} (g : BootRan s t) : BootRan s0 t :=
  ⟨only_trans h.only g.only, by rw [g.power, h.power], g.state.trans h.state, g.write.trans h.write⟩

theorem setReg_bootRan {a : Nat} {w : Word} : BootRan s0 (setReg a w s) :=
  h.trans ⟨setReg_only (by decide) (only_refl _ _), rfl, rfl, rfl⟩

theorem modVlt_bootRan {f : Vault → Vault} (hf : ∀ v, (f v).state = v.state ∧ (f v).write = v.write) : BootRan s0 (modVlt f s) :=
  h.trans ⟨modVlt_only (by decide) (only_refl _ _), rfl, (hf _).1, (hf _).2⟩

theorem fellBack_bootRan : BootRan s0 (fellBack s) := h.trans ⟨fellBack_only (by decide) (only_refl _ _), rfl, rfl, rfl⟩

theorem writeBoot_bootRan {f : BootRecord → BootRecord} : BootRan s0 (writeBoot f s) := by
  unfold writeBoot
  exact modVlt_bootRan h fun _ => ⟨rfl, rfl⟩

theorem startRecovery_bootRan {failed version : Nat} {reason : Option Nat} : BootRan s0 (startRecovery failed reason version s) := by
  unfold startRecovery
  exact modVlt_bootRan h fun _ => ⟨rfl, rfl⟩

theorem startBank_bootRan {b : Nat} {fell : Option (Nat × Nat × Nat)} : BootRan s0 (startBank b fell s) := by
  unfold startBank
  exact modVlt_bootRan h fun _ => ⟨rfl, rfl⟩

theorem bootSigFail_bootRan {corrupt b : Nat} : BootRan s0 (bootSigFail s corrupt b) := by
  unfold bootSigFail
  split
  · split
    · exact setReg_bootRan h
    · exact h
  · exact h

theorem bootBank_bootRan {n corrupt : Nat} {fell : Option (Nat × Nat × Nat)} : BootRan s0 (bootBank n corrupt fell s) := by
  induction n generalizing fell s with
  | zero => exact h
  | succ n ih =>
    have htry {x : State} {r : BootRecord} {b : Nat} (hx : BootRan s0 x) : BootRan s0 (bootTry n corrupt fell r b x) := by
      unfold bootTry
      split
      · exact startBank_bootRan hx
      · split
        · exact ih (fellBack_bootRan (writeBoot_bootRan (writeBoot_bootRan (bootSigFail_bootRan hx))))
        · exact startRecovery_bootRan (writeBoot_bootRan (bootSigFail_bootRan hx))
    rw [bootBank_succ]
    split
    · split
      · exact ih (fellBack_bootRan (writeBoot_bootRan h))
      · exact htry (writeBoot_bootRan h)
    · exact htry h

end

/-- Vault as the boot ROM finds it after its self-tests. -/
def bootVault (p : BootPins) (v : Vault) : Vault :=
  { v with error := p.katFail != 0, katFail := p.katFail % 64, fallback := none, write := none, requests := 0 }

/-- The boot ROM's run from its start: no block write is left, and the rest is kept. -/
theorem bootRom_bootRan (p : BootPins) (s : State) : BootRan (modVlt (fun v => { v with write := none }) s) (bootRom p s) := by
  unfold bootRom
  dsimp only
  generalize hw : modVlt (fun v => { v with write := none }) s = w
  generalize hx : bump R.VLT_CNT_RESEED _ = x
  have hstart : BootRan w x := by
    have htested : BootRan w (modVlt (bootVault p) w) := ⟨modVlt_only (by decide) (only_refl _ _), rfl, rfl, by rw [← hw]; rfl⟩
    have hcounted : BootRan w (bump R.VLT_CNT_RESEED (modVlt (bootVault p) w)) := setReg_bootRan htested
    rw [← hw] at hcounted ⊢
    rw [← hx]
    exact hcounted
  have hnext : BootRan w (if (bootOf x).next = true then writeBoot (fun x => { x with next := false }) x else x) := by
    split
    · exact writeBoot_bootRan hstart
    · exact hstart
  split
  · exact startRecovery_bootRan hnext
  · split
    · exact startRecovery_bootRan hnext
    · split
      · exact startRecovery_bootRan hnext
      · exact bootBank_bootRan hstart

/-! What the choice depends on. -/

/-- Two states with the same Vault, of the same part. -/
structure SameVault (s t : State) : Prop where
  vault : t.vlt = s.vlt
  part : t.part = s.part

section
variable {s t : State} (h : SameVault s t)
include h

theorem bootOf_same : bootOf t = bootOf s := by
  unfold bootOf
  rw [h.vault]

theorem modVlt_same {f : Vault → Vault} : SameVault (modVlt f s) (modVlt f t) := ⟨congrArg f h.vault, h.part⟩

theorem writeBoot_same {f : BootRecord → BootRecord} : SameVault (writeBoot f s) (writeBoot f t) := by
  unfold writeBoot
  rw [bootOf_same h]
  exact modVlt_same h

theorem startRecovery_same {failed version : Nat} {reason : Option Nat} :
    SameVault (startRecovery failed reason version s) (startRecovery failed reason version t) := by
  unfold startRecovery
  rw [bootOf_same h]
  exact modVlt_same h

theorem startBank_same {b : Nat} {fell : Option (Nat × Nat × Nat)} : SameVault (startBank b fell s) (startBank b fell t) := modVlt_same h

theorem trailerOk_same {cls : Nat} {x : Trailer} : trailerOk t cls x = trailerOk s cls x := by
  simp only [trailerOk, slotUsable, h.vault]

theorem verifyBank_same {corrupt b : Nat} : verifyBank t corrupt b = verifyBank s corrupt b := by
  simp only [verifyBank, headerSafe, headerFits, bankOf, trailerOk_same h, h.vault, h.part]

theorem bootSigFail_same {corrupt b : Nat} : SameVault (bootSigFail s corrupt b) (bootSigFail t corrupt b) := by
  unfold bootSigFail bankOf
  rw [h.vault]
  split
  · rw [trailerOk_same h]
    split
    · exact ⟨h.vault, h.part⟩
    · exact h
  · exact h

theorem bootBank_same {n corrupt : Nat} {fell : Option (Nat × Nat × Nat)} : SameVault (bootBank n corrupt fell s) (bootBank n corrupt fell t) := by
  induction n generalizing fell s t with
  | zero => exact h
  | succ n ih =>
    have hagain {x y : State} {r : BootRecord} {b reason : Nat} (hxy : SameVault x y) :
        SameVault (bootAgain n corrupt r b reason x) (bootAgain n corrupt r b reason y) := by
      have hfell : SameVault (fellBack x) (fellBack y) := ⟨hxy.vault, hxy.part⟩
      exact ih hfell
    have htry {x y : State} {r : BootRecord} {b : Nat} (hxy : SameVault x y) :
        SameVault (bootTry n corrupt fell r b x) (bootTry n corrupt fell r b y) := by
      unfold bootTry
      rw [bootOf_same hxy, verifyBank_same hxy]
      split
      · exact startBank_same hxy
      · split
        · exact hagain (writeBoot_same (writeBoot_same (bootSigFail_same hxy)))
        · exact startRecovery_same (writeBoot_same (bootSigFail_same hxy))
    rw [bootBank_succ, bootBank_succ, bootOf_same h]
    split
    · split
      · exact hagain (writeBoot_same h)
      · exact htry (writeBoot_same h)
    · exact htry h

/-- What the boot ROM makes of Vault follows from Vault and the part. -/
theorem bootRom_same {p : BootPins} : SameVault (bootRom p s) (bootRom p t) := by
  unfold bootRom
  dsimp only
  generalize hx : bump R.VLT_CNT_RESEED (modVlt _ s) = x
  generalize hy : bump R.VLT_CNT_RESEED (modVlt _ t) = y
  have hxy : SameVault x y := by
    rw [← hx, ← hy]
    exact ⟨congrArg (bootVault p) h.vault, h.part⟩
  rw [bootOf_same hxy, h.vault]
  have hnext : SameVault (if (bootOf x).next = true then writeBoot (fun x => { x with next := false }) x else x)
      (if (bootOf x).next = true then writeBoot (fun x => { x with next := false }) y else y) := by
    split
    · exact writeBoot_same hxy
    · exact hxy
  split
  · exact startRecovery_same hnext
  · split
    · exact startRecovery_same hnext
    · split
      · exact startRecovery_same hnext
      · exact bootBank_same hxy

end

end Sys2Proof.Proofs
end

section
/-! Restarts of PD2, wakes, power-up and the end of BOOT (R459, R583, R586, R597, R674 to R676). -/

namespace Sys2Proof.Proofs

open Sys2Proof.Machine Sys2Proof.Safety Sys2Proof.Laws

section
variable {t : Nat} {s : State}

/-! PD2_RESTART (R595, R597). -/

/-- The active bank verifies: Teller goes on in the same mode. -/
theorem pd2Restart_goes {p : BootPins} (h : s.power.restarting = true) (hr : (bootRom p (advance t s)).vlt.recovery = false)
    (hf : (bootRom p (advance t s)).vlt.fallback = none) : Goes (.pd2Restart t p) s fun x => x.power.restarting = false ∧
      x.power.mode = s.power.mode ∧ x.power.dogAt = (advance t s).time.now ∧ x.vlt = (bootRom p (advance t s)).vlt := by
  have hexec : exec (.pd2Restart t p) s = execPd2Restart t p s := rfl
  refine ⟨_, hexec.trans ((if_neg (by simp [h])).trans (if_neg (by simp [hr, hf]))), ?_⟩
  have hrom := bootRom_bootRan p (advance t s)
  generalize bootRom p (advance t s) = r at hr hf hrom
  have hmode : r.power.mode = s.power.mode := by
    rw [hrom.power, modVlt_power, advance_power]
  have hassign : Only [.regs] _ (assignChannels (modPower (fun q => { q with restarting := false, dogAt := (advance t s).time.now }) r)) :=
    assignChannels_only (List.Subset.refl _) (only_refl _ _)
  generalize assignChannels _ = q at hassign
  have hpower : q.power = _ := hassign.2.2 .power (by decide)
  have hvault : q.vlt = r.vlt := hassign.2.2 .vlt (by decide)
  have hstart : Parted q (tellerStart (advance t s).power.cause q) := tellerStart_parted (Parted.refl q)
  have hkept : (tellerStart (advance t s).power.cause q).vlt = r.vlt := (hstart.vault (by rw [hvault]; exact hrom.write)).trans hvault
  have hnone : bootFallback (tellerStart (advance t s).power.cause q) = tellerStart (advance t s).power.cause q := by
    unfold bootFallback
    rw [hkept, hf]
  dsimp only
  rw [hnone, hstart.power, hpower]
  exact ⟨rfl, hmode, rfl, hkept⟩

/-- A bank that fails makes it a fallback: the device is reset (R595). -/
theorem pd2Restart_falls {p : BootPins} (h : s.power.restarting = true) (hm : s.power.mode ≠ .recovery)
    (hr : (bootRom p (advance t s)).vlt.recovery = true) : Goes (.pd2Restart t p) s fun x =>
      x.power.mode = .boot ∧ x.power.cause = 8 ∧ x.time.running = false := by
  have hexec : exec (.pd2Restart t p) s = execPd2Restart t p s := rfl
  have hboot := hkcStart_rebooted false 8 0xFF (advance t s)
  exact ⟨_, hexec.trans ((if_neg (by simp [h])).trans (if_pos (.inl ⟨hr, by simpa using hm⟩))), hboot.mode, hboot.cause, hboot.stopped⟩

theorem pd2Restart_idle {p : BootPins} (h : s.power.restarting = false) : exec (.pd2Restart t p) s = .next (advance t s) := by
  have hexec : exec (.pd2Restart t p) s = execPd2Restart t p s := rfl
  exact hexec.trans (if_pos (by simpa using h))

/-! Wakes (R459, R586). -/

@[simp] theorem asleep_advance (t : Nat) (s : State) : asleep (advance t s) = asleep s := by simp [asleep]

@[simp] theorem alarmAt_advance (t : Nat) (s : State) : alarmAt (advance t s) = alarmAt s := by simp [alarmAt]

/-- From LISTEN the device boots. -/
theorem wake_listen (source : Nat) (h : s.power.mode = .listen) :
    (wake source s).power.mode = .boot ∧ (wake source s).power.cause = 9 ∧ (wake source s).power.lastWake = source := by
  unfold wake
  dsimp only
  rw [if_pos h]
  generalize hw : modPower _ s = w
  have hreset := deviceReset_reset false 9 0xFF w
  have hbegan := hkcStart_began hreset.domains
  have hboot := hreset.rebooted hbegan
  refine ⟨hboot.mode, hboot.cause, ?_⟩
  rw [hbegan.power, hreset.power, ← hw]
  rfl

/-- From HIBERNATE AON_EN goes high first. -/
theorem wake_other (source : Nat) (h : s.power.mode ≠ .listen) :
    wake source s = { s with power := { s.power with wakeLatch := true, lastWake := source, aonEn := true } } := if_neg h

theorem rtcAlarmWake_fires (ha : asleep s = true) (hl : s.power.wakeLatch = false) (he : bitOf (reg s R.PWR_WAKE) 0 = true)
    (hd : alarmAt s ≤ (advance t s).time.rtc) : exec (.rtcAlarmWake t) s = .next (wake 1 (advance t s)) := by
  have hexec : exec (.rtcAlarmWake t) s = execRtcAlarmWake t s := rfl
  exact hexec.trans (if_pos (by simp [ha, hl, he, hd]))

theorem wakePin_fires (ha : asleep s = true) (hl : s.power.wakeLatch = false) (he : bitOf (reg s R.PWR_WAKE) 1 = true) :
    exec (.wakePin t) s = .next (wake 2 (advance t s)) := by
  have hexec : exec (.wakePin t) s = execWakePin t s := rfl
  exact hexec.trans (if_pos (by simp [ha, hl, he]))

/-- A source that fires wakes the device, by the mode in which it sleeps. -/
theorem wakes_of {i : Instr} {source : Nat} (h : exec i s = .next (wake source (advance t s))) :
    (s.power.mode = .listen → Goes i s fun x => x.power.mode = .boot ∧ x.power.cause = 9 ∧ x.power.lastWake = source) ∧
      (s.power.mode = .hibernate → exec i s = .next { advance t s with power := { s.power with
        wakeLatch := true, lastWake := source, aonEn := true } }) := by
  refine ⟨fun hm => ⟨_, h, wake_listen source (by simpa using hm)⟩, fun hm => ?_⟩
  rw [h, wake_other source (by simp [hm]), advance_power]

theorem wakes_idle (h : asleep s = false ∨ s.power.wakeLatch = true) :
    exec (.rtcAlarmWake t) s = .next (advance t s) ∧ exec (.wakePin t) s = .next (advance t s) := by
  have hnot : ¬(asleep (advance t s) = true ∧ (advance t s).power.wakeLatch = false) := by
    rcases h with h | h <;> simp [h]
  have hrtc : exec (.rtcAlarmWake t) s = execRtcAlarmWake t s := rfl
  have hpin : exec (.wakePin t) s = execWakePin t s := rfl
  exact ⟨hrtc.trans (if_neg fun hc => hnot ⟨hc.1, hc.2.1⟩), hpin.trans (if_neg fun hc => hnot ⟨hc.1, hc.2.1⟩)⟩

/-- What an event at the management port matches follows from the registers. -/
@[simp] theorem wakeMatch_advance (t : Nat) (s : State) (e : WakeEvent) : wakeMatch (advance t s) e = wakeMatch s e := by
  rw [advance_eq]
  cases e <;> rfl

theorem wakeFrameMatch_wakes {e : WakeEvent} {cause pattern : Nat} (hu : domainUp s 1 = true) (hm : wakeMatch s e = some (cause, pattern))
    (hl : s.power.mode = .listen) (ha : asleep s = true) (he : bitOf (reg s R.PWR_WAKE) 2 = true) (hw : RegsWf s.regs) :
    Goes (.wakeFrameMatch t e) s fun x => x.power.mode = .boot ∧ x.power.cause = 9 ∧ x.power.lastWake = 3 := by
  have hexec : exec (.wakeFrameMatch t e) s = execWakeFrameMatch t e s := rfl
  generalize hz : bump (R.MAC_WAKE_CNT 10) (advance t s) = z
  have hpower : z.power = s.power := by rw [← hz, bump_power, advance_power]
  have hasleep : asleep z = true := by
    unfold asleep at ha ⊢
    rw [hpower]
    exact ha
  have henabled : bitOf (reg z R.PWR_WAKE) 2 = true := by
    rw [← hz, bump_reg (by simpa using hw) _ _ (by decide), advance_reg]
    exact he
  generalize hv : setReg (R.MAC_WAKE_STAT 10) (BitVec.ofNat 32 (2147483648 + pattern * 16 + cause)) z = v
  have hrun : execWakeFrameMatch t e s = .next (wake 3 v) := by
    unfold execWakeFrameMatch
    dsimp only
    rw [if_neg (by simp [hu]), wakeMatch_advance, hm]
    dsimp only
    rw [hz, hv, if_pos ⟨by rw [hpower, hl], hasleep, henabled⟩]
  refine ⟨_, hexec.trans hrun, wake_listen 3 ?_⟩
  rw [← hv, setReg_power, hpower, hl]

theorem wakeFrameMatch_counts {e : WakeEvent} {cause pattern : Nat} (hu : domainUp s 1 = true) (hm : wakeMatch s e = some (cause, pattern))
    (hl : s.power.mode ≠ .listen) (hw : RegsWf s.regs) : Goes (.wakeFrameMatch t e) s fun x => Only [.regs] (advance t s) x ∧
      regN x (R.MAC_WAKE_CNT 10) = min 0xFFFFFFFF (regN s (R.MAC_WAKE_CNT 10) + 1) := by
  have hexec : exec (.wakeFrameMatch t e) s = execWakeFrameMatch t e s := rfl
  have hrun : execWakeFrameMatch t e s = .next (bump (R.MAC_WAKE_CNT 10) (advance t s)) := by
    unfold execWakeFrameMatch
    dsimp only
    rw [if_neg (by simp [hu]), wakeMatch_advance, hm]
    exact if_neg (by simp [hl])
  refine ⟨_, hexec.trans hrun, bump_only (List.Subset.refl _) (only_refl _ _), ?_⟩
  rw [bump_regN (by simpa using hw), advance_regN]

theorem wakeFrameMatch_idle {e : WakeEvent} (h : domainUp s 1 = false ∨ wakeMatch s e = none) :
    exec (.wakeFrameMatch t e) s = .next (advance t s) := by
  have hexec : exec (.wakeFrameMatch t e) s = execWakeFrameMatch t e s := rfl
  rw [hexec]
  unfold execWakeFrameMatch
  dsimp only
  rw [wakeMatch_advance, advance_domainUp]
  rcases h with h | h
  · rw [if_pos h]
  · rw [h]
    exact ite_self _

/-! Power-up (R675, R676). -/

theorem aonRailsGood_wakes (ha : s.power.aonEn = true) (he : s.power.pwrEn = false) (hm : s.power.mode = .hibernate) (hl : s.power.wakeLatch = true) :
    Goes (.aonRailsGood t) s fun x => x.power.mode = .boot ∧ x.power.cause = 9 ∧ x.time.running = false := by
  have hexec : exec (.aonRailsGood t) s = execAonRailsGood t s := rfl
  have hboot := hkcStart_rebooted true 9 0xFF (advance t s)
  exact ⟨_, hexec.trans ((if_neg (by simp [ha, he])).trans ((if_pos (by simpa using hm)).trans (if_pos (by simpa using hl)))),
    hboot.mode, hboot.cause, hboot.stopped⟩

theorem aonRailsGood_powers (ha : s.power.aonEn = true) (he : s.power.pwrEn = false) (hm : s.power.mode = .boot) (hn : s.power.attempts = 0)
    (hg : s.power.pwrGood = false) : exec (.aonRailsGood t) s = .next { advance t s with power := { s.power with
      pwrEn := true, pwrEnAt := (advance t s).time.now, attempts := 0 } } := by
  have hexec : exec (.aonRailsGood t) s = execAonRailsGood t s := rfl
  rw [hexec]
  unfold execAonRailsGood hkcStart
  simp [ha, he, hm, hn, hg, modPower]

theorem aonRailsGood_idle (h : s.power.aonEn = false ∨ s.power.pwrEn = true) : exec (.aonRailsGood t) s = .next (advance t s) := by
  have hexec : exec (.aonRailsGood t) s = execAonRailsGood t s := rfl
  exact hexec.trans (if_pos (by simpa using h))

theorem pwrGoodRise_goes (he : s.power.pwrEn = true) (hg : s.power.pwrGood = false) (hm : s.power.mode = .boot) : Goes (.pwrGoodRise t) s fun x =>
    x.power.pwrGood = true ∧ x.power.attempts = 0 ∧ x.power.wakeLatch = false ∧ x.power.mode = .boot ∧ x.lgr.run = true := by
  have hexec : exec (.pwrGoodRise t) s = execPwrGoodRise t s := rfl
  refine ⟨_, hexec.trans (if_pos (by simp [he, hg, hm])), ?_⟩
  unfold bootStart
  generalize hw : modPower (fun p => { p with wakeLatch := false }) _ = w
  have hmode : w.power.mode = .boot := by
    rw [← hw]
    change (advance t s).power.mode = .boot
    rw [advance_power, hm]
  have honly : Only [.regs, .teller, .lgr] w (lgrScan w) := lgrScan_only (List.Subset.refl _) (only_refl _ _)
  have hpower : (lgrScan w).power = w.power := honly.2.2 .power (by decide)
  obtain ⟨hsupply, hrun⟩ := kick_supply (lgrScan w)
  rw [hpower] at hsupply
  unfold SamePower at hsupply
  rw [hsupply, hrun]
  refine ⟨?_, ?_, ?_, hmode, (lgrScan_started w).1⟩
  all_goals
    rw [← hw]
    rfl

theorem pwrGoodRise_idle (h : s.power.pwrEn = false ∨ s.power.pwrGood = true ∨ s.power.mode ≠ .boot) :
    exec (.pwrGoodRise t) s = .next (advance t s) := by
  have hexec : exec (.pwrGoodRise t) s = execPwrGoodRise t s := rfl
  refine hexec.trans (if_neg ?_)
  rcases h with h | h | h <;> simp [h]

theorem pwrGoodTimeout_goes (he : s.power.pwrEn = true) (hg : s.power.pwrGood = false) (hd : s.power.pwrEnAt + 100000000 ≤ (advance t s).time.now) :
    Goes (.pwrGoodTimeout t) s fun x =>
      x.power = { s.power with pwrEn := false, attempts := s.power.attempts + 1, pwrEnAt := (advance t s).time.now } ∧
      x.teller.ledgerOffers.map Prod.fst = s.teller.ledgerOffers.map Prod.fst ++ (if s.power.attempts = 2 then [0x0007] else []) := by
  have hexec : exec (.pwrGoodTimeout t) s = execPwrGoodTimeout t s := rfl
  refine ⟨_, hexec.trans (if_pos (by simpa [he, hg] using hd)), ?_⟩
  by_cases hn : s.power.attempts = 2
  · simp [hn, modPower, ledgerEvent]
  · simp [hn, modPower]

theorem pwrGoodTimeout_idle (h : s.power.pwrEn = false ∨ s.power.pwrGood = true ∨ (advance t s).time.now < s.power.pwrEnAt + 100000000) :
    exec (.pwrGoodTimeout t) s = .next (advance t s) := by
  have hexec : exec (.pwrGoodTimeout t) s = execPwrGoodTimeout t s := rfl
  refine hexec.trans (if_neg ?_)
  rw [advance_power]
  rintro ⟨h1, h2, h3⟩
  rcases h with h | h | h
  · simp [h] at h1
  · simp [h] at h2
  · omega

theorem powerUpRetry_goes (he : s.power.pwrEn = false) (hlo : 1 ≤ s.power.attempts) (hhi : s.power.attempts < 3)
    (hd : s.power.pwrEnAt + 1000000000 ≤ (advance t s).time.now) :
    exec (.powerUpRetry t) s = .next { advance t s with power := { s.power with pwrEn := true, pwrEnAt := (advance t s).time.now } } := by
  have hexec : exec (.powerUpRetry t) s = execPowerUpRetry t s := rfl
  have hdue : (advance t s).power.pwrEn = false ∧ 1 ≤ (advance t s).power.attempts ∧ (advance t s).power.attempts < 3 ∧
      (advance t s).power.pwrEnAt + 1000000000 ≤ (advance t s).time.now := by
    rw [advance_power]
    exact ⟨he, hlo, hhi, hd⟩
  rw [hexec]
  unfold execPowerUpRetry
  dsimp only
  rw [if_pos hdue]
  unfold modPower
  rw [advance_power]

theorem powerUpRetry_idle (h : s.power.pwrEn = true ∨ s.power.attempts = 0 ∨ 3 ≤ s.power.attempts ∨
    (advance t s).time.now < s.power.pwrEnAt + 1000000000) : exec (.powerUpRetry t) s = .next (advance t s) := by
  have hexec : exec (.powerUpRetry t) s = execPowerUpRetry t s := rfl
  refine hexec.trans (if_neg ?_)
  rw [advance_power]
  rintro ⟨h1, h2, h3, h4⟩
  rcases h with h | h | h | h
  · simp [h] at h1
  · omega
  · omega
  · omega

end

/-! The end of BOOT (R583, R599, R674). -/

/-- From `s` to `t` the device entered its mode: mode, core voltage, the wait after a trip, the commit lead and the delay pool are as they were. -/
structure Enters (s t : State) : Prop where
  mode : t.power.mode = s.power.mode
  core : t.power.coreMv = s.power.coreMv
  trip : t.power.thermal.tripWait = s.power.thermal.tripWait
  lead : t.alm.leadUs = s.alm.leadUs
  pool : t.alm.poolMib = s.alm.poolMib

theorem Enters.refl (s : State) : Enters s s := ⟨rfl, rfl, rfl, rfl, rfl⟩

theorem Enters.trans {s t u : State} (h : Enters s t) (g : Enters t u) : Enters s u :=
  ⟨g.mode.trans h.mode, g.core.trans h.core, g.trip.trans h.trip, g.lead.trans h.lead, g.pool.trans h.pool⟩

section
variable {s0 s : State} (h : Enters s0 s)
include h

theorem Enters.only {l : List Comp} {t : State} (g : Only l s t) (hp : Comp.power ∉ l) (ha : Comp.alm ∉ l) : Enters s0 t := by
  have hpower : t.power = s.power := g.2.2 _ hp
  have halm : t.alm = s.alm := g.2.2 _ ha
  exact h.trans ⟨by rw [hpower], by rw [hpower], by rw [hpower], by rw [halm], by rw [halm]⟩

theorem modPower_enters {f : Power → Power} (hf : ∀ p, (f p).mode = p.mode ∧ (f p).coreMv = p.coreMv ∧ (f p).thermal.tripWait = p.thermal.tripWait) :
    Enters s0 (modPower f s) := h.trans ⟨(hf _).1, (hf _).2.1, (hf _).2.2, rfl, rfl⟩

theorem modThermal_enters {f : Thermal → Thermal} (hf : ∀ x, (f x).tripWait = x.tripWait) : Enters s0 (modThermal f s) :=
  modPower_enters h fun _ => ⟨rfl, rfl, hf _⟩

theorem notify_enters {code len : Nat} {fields : List Int} : Enters s0 (notify code len fields s) :=
  h.only (notify_only (List.Subset.refl _) (only_refl _ _)) (by decide) (by decide)

theorem setReg_enters {a : Nat} {w : Word} : Enters s0 (setReg a w s) := h.only (setReg_only (List.Subset.refl _) (only_refl _ _)) (by decide) (by decide)

theorem thermalShed_enters : Enters s0 (thermalShed s) := by
  unfold thermalShed
  refine keep_ite h ?_
  split
  · exact modThermal_enters h fun _ => rfl
  · exact modThermal_enters h fun _ => rfl

theorem thermalMove_enters {old new : Nat} {x : Int} {sensor : Nat} : Enters s0 (thermalMove old new x sensor s) := by
  unfold thermalMove
  dsimp only
  generalize hs1 : modThermal _ s = s1
  have h1 : Enters s0 s1 := by
    rw [← hs1]
    exact modThermal_enters h fun _ => rfl
  have h2 : Enters s0 (if old = 0 then setFlag R.PVT_INT_STAT 0 (bump R.PVT_CNT_WARN s1) else s1) := keep_ite (setReg_enters (setReg_enters h1)) h1
  generalize (if old = 0 then setFlag R.PVT_INT_STAT 0 (bump R.PVT_CNT_WARN s1) else s1) = s2 at h2
  have h3 : Enters s0 (if new = 2 then setFlag R.PVT_INT_STAT 1 (bump R.PVT_CNT_SHED s2) else s2) := keep_ite (setReg_enters (setReg_enters h2)) h2
  generalize (if new = 2 then setFlag R.PVT_INT_STAT 1 (bump R.PVT_CNT_SHED s2) else s2) = s3 at h3
  have h4 := notify_enters h3 (code := 0x8303) (len := 16) (fields := [(sensor : Int), new, x, s.power.thermal.shedZones.length, st64 s])
  refine keep_ite (keep_ite (modPower_enters h4 ?_) (thermalShed_enters h4)) (keep_ite (modPower_enters h4 ?_) h4)
  all_goals exact fun _ => ⟨rfl, rfl, rfl⟩

theorem thermalJudge_enters : Enters s0 (thermalJudge s) := by
  unfold thermalJudge
  split
  · exact h
  · exact keep_ite h (thermalMove_enters h)

theorem kick_enters : Enters s0 (kick s) := by
  obtain ⟨hsupply, -⟩ := kick_supply s
  obtain ⟨hlead, hpool⟩ := kick_setUp s
  unfold SamePower at hsupply
  exact h.trans ⟨by rw [hsupply], by rw [hsupply], by rw [hsupply], hlead, hpool⟩

theorem tellerStart_enters {cause : Nat} : Enters s0 (tellerStart cause s) := by
  have hpower := (tellerStart_parted (Parted.refl s) (cause := cause)).power
  have honly : Only [.regs, .teller, .power, .lanes, .dmx, .cal, .vlt, .lgr] s (tellerStart cause s) :=
    tellerStart_only (List.Subset.refl _) (only_refl _ _)
  have halm : (tellerStart cause s).alm = s.alm := honly.2.2 .alm (by decide)
  exact h.trans ⟨by rw [hpower], by rw [hpower], by rw [hpower], by rw [halm], by rw [halm]⟩

end

/-- The mode that BOOT ends in is entered, and the rest of the boot keeps it. -/
theorem bootEnter_enters (s : State) : Enters { s with power := { s.power with mode := bootMode s } } (bootEnter s) := by
  have hwrite : Only [.regs] s (portAddresses (assignChannels s)) := portAddresses_only (by decide) (assignChannels_only (by decide) (only_refl _ _))
  unfold bootEnter
  dsimp only
  generalize hx : modPower _ (portAddresses (assignChannels s)) = x
  have hmode : Enters { s with power := { s.power with mode := bootMode s } } x := by
    have hpower : (portAddresses (assignChannels s)).power = s.power := hwrite.2.2 .power (by decide)
    have halm : (portAddresses (assignChannels s)).alm = s.alm := hwrite.2.2 .alm (by decide)
    have htrip : (portAddresses (assignChannels s)).power.thermal.tripWait = s.power.thermal.tripWait := by rw [hpower]
    have hcore : (portAddresses (assignChannels s)).power.coreMv = s.power.coreMv := by rw [hpower]
    rw [← hx]
    exact ⟨rfl, hcore, htrip, by rw [modPower_alm, halm], by rw [modPower_alm, halm]⟩
  have hconfirm : Enters { s with power := { s.power with mode := bootMode s } } (if bootMode s = .recovery then x else bootConfirm x) :=
    keep_ite hmode (hmode.only (bootConfirm_only (List.Subset.refl _) (only_refl _ _)) (by decide) (by decide))
  generalize (if bootMode s = .recovery then x else bootConfirm x) = y at hconfirm
  have hkey : Enters { s with power := { s.power with mode := bootMode s } } (if bootMode s = .provision then deviceKey y else y) :=
    keep_ite (hconfirm.only (deviceKey_only (List.Subset.refl _) (only_refl _ _)) (by decide) (by decide)) hconfirm
  generalize (if bootMode s = .provision then deviceKey y else y) = z at hkey
  have htold : Enters { s with power := { s.power with mode := bootMode s } }
      (modeNotice .boot (bootMode s) 3 (selfTestNotice (bootFallback (tellerStart z.power.cause z)))) :=
    (tellerStart_enters hkey).only (l := [.regs, .teller, .vlt]) (modeNotice_only (by decide) (selfTestNotice_only (by decide)
      (bootFallback_only (by decide) (only_refl _ _)))) (by decide) (by decide)
  generalize modeNotice .boot (bootMode s) 3 (selfTestNotice (bootFallback (tellerStart z.power.cause z))) = w at htold
  generalize hu : ledgerEvent 0x0007 _ (calTell (calReady w)) = u
  have hcal : Enters { s with power := { s.power with mode := bootMode s } } u := by
    rw [← hu]
    exact htold.only (l := [.regs, .time, .teller, .cal]) (ledgerEvent_only (by decide) (calTell_only (by decide) (calReady_only (by decide)
      (only_refl _ _)))) (by decide) (by decide)
  exact kick_enters (thermalJudge_enters (keep_ite (hcal.only (calWriteStart_only (List.Subset.refl _) (only_refl _ _)) (by decide) (by decide)) hcal))

/-- The core voltage that BOOT chooses: the fused table's, or 750 mV (R674). -/
def bootCoreMv (counts : List Nat) (avs : Bool) : Nat := if avs then min 850 (max 650 (Config.avsTable counts / 5 * 5)) else 750

theorem chooseSetPoint_power (counts : List Nat) (avs : Bool) (s : State) :
    (chooseSetPoint counts avs s).power = { s.power with
      setPoint := bootCoreMv counts avs, coreMv := bootCoreMv counts avs, avsOk := avs
      process := Vector.ofFn (fun (i : Fin 32) => counts.getD i.val 0 % 65536) } := by
  have honly : Only [.teller] (modPower (fun p => { p with
      setPoint := bootCoreMv counts avs, coreMv := bootCoreMv counts avs, avsOk := avs
      process := Vector.ofFn (fun (i : Fin 32) => counts.getD i.val 0 % 65536) }) s) (chooseSetPoint counts avs s) := by
    unfold chooseSetPoint
    exact only_ite (only_refl _ _) (ledgerEvent_only (by decide) (only_refl _ _))
  exact honly.2.2 .power (by decide)

theorem chooseSetPoint_core (counts : List Nat) (avs : Bool) (s : State) :
    (chooseSetPoint counts avs s).power.coreMv = bootCoreMv counts avs ∧
      (chooseSetPoint counts avs s).power.thermal = s.power.thermal ∧ (chooseSetPoint counts avs s).vlt = s.vlt ∧
      (chooseSetPoint counts avs s).alm = s.alm := by
  have honly : Only [.teller, .power] s (chooseSetPoint counts avs s) := chooseSetPoint_only (List.Subset.refl _) (only_refl _ _)
  exact ⟨by rw [chooseSetPoint_power], by rw [chooseSetPoint_power], honly.2.2 .vlt (by decide), honly.2.2 .alm (by decide)⟩

@[simp] theorem sagBlocks_advance (t : Nat) (s : State) : sagBlocks (advance t s) = sagBlocks s := by simp [sagBlocks]

theorem tmaxOf_advance (t : Nat) (s : State) : tmaxOf (advance t s) = tmaxOf s := by
  unfold tmaxOf
  rw [advance_power]

theorem thermalLimits_advance (t : Nat) (s : State) : thermalLimits (advance t s) = thermalLimits s := by
  unfold thermalLimits
  rw [advance_power, advance_reg]

@[simp] theorem bootCool_advance (t : Nat) (s : State) : bootCool (advance t s) = bootCool s := by
  unfold bootCool
  rw [advance_power, tmaxOf_advance, thermalLimits_advance]

theorem bootComplete_goes {t : Nat} {p : BootPins} {counts : List Nat} {avs : Bool} {lead pool : Nat} {s : State} (hm : s.power.mode = .boot)
    (hg : s.power.pwrGood = true) (h2 : domState s 2 = .on) (h3 : domState s 3 = .on) (h13 : domState s 13 = .on) (hc : bootCool s = true)
    (hs : sagBlocks s = false) : Goes (.bootComplete t p counts avs lead pool) s fun x =>
      x.power.mode = (if (bootRom p (advance t s)).vlt.recovery then .recovery else if s.vlt.state = .unprovisioned then .provision else .standby) ∧
      x.power.coreMv = (if avs then min 850 (max 650 (Config.avsTable counts / 5 * 5)) else 750) ∧ x.power.thermal.tripWait = false ∧
      (100 ≤ lead → lead ≤ 2000 → x.alm.leadUs = lead) ∧ (pool ≤ 16384 → x.alm.poolMib = pool) := by
  have hexec : exec (.bootComplete t p counts avs lead pool) s = execBootComplete t p counts avs lead pool s := rfl
  refine ⟨_, hexec.trans (if_pos (by simp [hm, hg, h2, h3, h13, hc, hs])), ?_⟩
  generalize hw : setUpShow lead pool _ = w
  have hsame : SameVault (advance t s) w := by
    rw [← hw]
    exact ⟨rfl, rfl⟩
  have htrip : w.power.thermal.tripWait = false := by
    rw [← hw]
    rfl
  have hlead : 100 ≤ lead → lead ≤ 2000 → w.alm.leadUs = lead := fun hlo hhi => by
    rw [← hw]
    exact if_pos ⟨hlo, hhi⟩
  have hpool : pool ≤ 16384 → w.alm.poolMib = pool := fun hle => by
    rw [← hw]
    exact if_pos hle
  have hrom := bootRom_bootRan p w
  have hvault : (bootRom p w).vlt = (bootRom p (advance t s)).vlt := (bootRom_same hsame).vault
  have hstate : (bootRom p w).vlt.state = s.vlt.state := by
    rw [hrom.state]
    change w.vlt.state = s.vlt.state
    rw [hsame.vault, advance_vlt]
  have halm : (bootRom p w).alm = w.alm := hrom.only.2.2 .alm (by decide)
  have hwait : (bootRom p w).power.thermal.tripWait = false := by
    rw [hrom.power]
    exact htrip
  obtain ⟨hcore, hthermal, hkept, hset⟩ := chooseSetPoint_core counts avs (bootRom p w)
  have henter := bootEnter_enters (chooseSetPoint counts avs (bootRom p w))
  refine ⟨henter.mode.trans ?_, henter.core.trans hcore, henter.trip.trans (by rw [← hwait, ← hthermal]), fun hlo hhi => ?_, fun hle => ?_⟩
  · change bootMode (chooseSetPoint counts avs (bootRom p w)) = _
    unfold bootMode
    rw [hkept, hstate, hvault]
  · rw [henter.lead]
    change (chooseSetPoint counts avs (bootRom p w)).alm.leadUs = lead
    rw [hset, halm, hlead hlo hhi]
  · rw [henter.pool]
    change (chooseSetPoint counts avs (bootRom p w)).alm.poolMib = pool
    rw [hset, halm, hpool hle]

theorem bootComplete_idle {t : Nat} {p : BootPins} {counts : List Nat} {avs : Bool} {lead pool : Nat} {s : State} (h : s.power.mode ≠ .boot ∨
    s.power.pwrGood = false ∨ domState s 2 ≠ .on ∨ domState s 3 ≠ .on ∨ domState s 13 ≠ .on ∨ bootCool s = false ∨
      sagBlocks s = true) : exec (.bootComplete t p counts avs lead pool) s = .next (advance t s) := by
  have hexec : exec (.bootComplete t p counts avs lead pool) s = execBootComplete t p counts avs lead pool s := rfl
  refine hexec.trans (if_neg ?_)
  rw [advance_power, advance_domState, advance_domState, advance_domState, bootCool_advance, sagBlocks_advance]
  rintro ⟨h1, h2, h3, h4, h5, h6, h7⟩
  simp_all

/-- Settles O55: each reset, wake and start by the rule of its own, with what the boot ROM, the Ledger and HKC's next step keep. -/
theorem resetsAndWakes : Obligations.ResetsAndWakes := by
  unfold Obligations.ResetsAndWakes
  rintro t s y hw rfl
  refine ⟨fun rail => w2Reset_goes, resetPin_goes, powerOnReset_goes, resets_off, fun sensor temp => thermalTrip_goes, fun sensor temp => thermalTrip_cool,
    watchdogExpiry_boot hw, watchdogExpiry_restarts hw, watchdogExpiry_early, fun pc => lockstepMismatch_restarts hw,
    fun pc => lockstepMismatch_boot hw, fun pc => lockstepMismatch_off, fun p => pd2Restart_goes, fun p => pd2Restart_falls, fun p => pd2Restart_idle,
    fun ha hl => ⟨fun he hd => wakes_of (rtcAlarmWake_fires ha hl he hd), fun he => wakes_of (wakePin_fires ha hl he)⟩, wakes_idle,
    fun e cause pattern hu hm => ⟨fun hl ha he => wakeFrameMatch_wakes hu hm hl ha he hw, fun hl => wakeFrameMatch_counts hu hm hl hw⟩,
    fun e => wakeFrameMatch_idle, fun ha he => ⟨aonRailsGood_wakes ha he, aonRailsGood_powers ha he⟩, aonRailsGood_idle, pwrGoodRise_goes,
    pwrGoodRise_idle, pwrGoodTimeout_goes, pwrGoodTimeout_idle, powerUpRetry_goes, powerUpRetry_idle, fun p counts avs lead pool => bootComplete_goes,
    fun p counts avs lead pool => bootComplete_idle⟩

end Sys2Proof.Proofs
end

section
/-! The link of the member of a pair that is not in use (R434): its fall switches nothing. -/

namespace Sys2Proof.Proofs

open Sys2Proof.Machine Sys2Proof.Safety Sys2Proof.Laws

/-- A port that is not the member in use of its pair goes down: every pair stays as it is (R434). -/
theorem linkLeave_pairs {p cause : Nat} {to_ : LinkState} {s : State}
    (hidle : (if (pairOf s (p % 4)).secondary then p % 4 + 4 else p % 4) ≠ p) : (linkLeave p cause to_ s).mac.pairs = s.mac.pairs := by
  unfold linkLeave
  dsimp only
  split
  · rfl
  · split
    · rw [if_neg fun hc => hidle hc.2.1, notify_mac]
      rfl
    · rw [notify_mac]
      rfl

theorem linkDown_pairs {t cause : Nat} {p : Fin 11} {s : State} (hup : (portOf s p).link = .up)
    (hidle : (if (pairOf s (p % 4)).secondary then p.val % 4 + 4 else p.val % 4) ≠ p) :
    Goes (.linkDown t p cause) s fun x => x.mac.pairs = s.mac.pairs := by
  have hexec : exec (.linkDown t p cause) s = execLinkDown t p cause s := rfl
  have hupAt : (portOf (advance t s) p).link = .up := by
    unfold portOf at hup ⊢
    rw [advance_mac, hup]
  have hpair (f : MacPort → MacPort) : pairOf (modPort p f (advance t s)) (p.val % 4) = pairOf s (p.val % 4) := by
    unfold pairOf
    rw [show (modPort p f (advance t s)).mac.pairs = (advance t s).mac.pairs from rfl, advance_mac]
  refine ⟨_, hexec.trans (if_neg (by simp [hupAt])), ?_⟩
  have hsame : (advance t s).mac.pairs = s.mac.pairs := congrArg Mac.pairs (advance_mac t s)
  refine (linkLeave_pairs ?_).trans hsame
  rw [hpair]
  exact hidle

/-- Pair 2 is a FAILOVER pair that uses its secondary, port 6, while the link of its primary, port 2, is UP. -/
def idlePrimary : State :=
  { State.reset with mac :=
    ⟨vMod Mac.reset.ports 2 (fun x => { x with link := .up }), vMod Mac.reset.pairs 2 (fun x => { x with mode := 2, secondary := true })⟩ }

/-- Refutes O44. In the clause of LINK_DOWN on a pair's switch the hypothesis `p.val = (if … then q + 4 else q)` compares with an element of `Fin 4`,
where `q + 4` is `q`: it names the primary whichever member is in use. With the secondary in use, as in `idlePrimary`, the fall of the primary's link
is no failure of the member in use, and by R434 the pair does not switch. -/
theorem not_macLinksAndTransmit : ¬ Obligations.MacLinksAndTransmit := by
  unfold Obligations.MacLinksAndTransmit
  intro h
  have hwf : RegsWf idlePrimary.regs := by
    unfold RegsWf CellsWf
    decide
  have hup : (portOf idlePrimary (2 : Fin 11)).link = .up := by decide
  have hsecondary : (pairOf idlePrimary (2 : Fin 4)).secondary = true := by decide
  obtain ⟨-, -, hdown, -⟩ := h 0 2 idlePrimary _ hwf rfl
  obtain ⟨x, hexec, -, -, -, -, -, -, hswitch⟩ := hdown 0 hup
  obtain ⟨hflips, -⟩ := hswitch 2 (by decide) (by decide) (by decide)
  obtain ⟨z, hexec', hpairs⟩ := linkDown_pairs (t := 0) (cause := 0) hup (by decide)
  have hxz : x = z := by
    rw [hexec] at hexec'
    injection hexec'
  have hstays : pairOf x (2 : Fin 4) = pairOf idlePrimary (2 : Fin 4) := by
    unfold pairOf
    rw [hxz, hpairs]
  rw [hstays, hsecondary] at hflips
  cases hflips

end Sys2Proof.Proofs
end

section
/-! Time bases: what the clocks' advance leaves of them, and what the judging of their states leaves of their values, of show time and of the
registers (R62 to R93). -/

namespace Sys2Proof.Proofs

open Sys2Proof.Machine Sys2Proof.Safety Sys2Proof.Laws

/-! One time base. -/

theorem vGet_vMap {α β : Type} {n : Nat} (v : Vector α n) (f : α → β) (j : Nat) (a : α) (b : β) (hj : j < n) :
    vGet (vMap v f) j b = f (vGet v j a) := by
  simp only [vGet, vMap, Vector.getElem?_mapIdx]
  rw [Vector.getElem?_eq_getElem hj]
  simp

theorem tbOf_of_time {s t : State} (h : t.time.bases = s.time.bases) (i : Nat) : tbOf t i = tbOf s i := by
  unfold tbOf
  rw [h]

theorem selTb_of_reg {s t : State} (h : reg t R.TIM_CTRL = reg s R.TIM_CTRL) : selTb t = selTb s := by
  unfold selTb
  rw [h]

theorem tbOf_modTb (i : Nat) (f : TimeBase → TimeBase) (s : State) (j : Nat) (hj : j < 4) :
    tbOf (modTb i f s) j = if j = i then f (tbOf s j) else tbOf s j := vGet_vMod _ _ _ _ _ hj

@[simp] theorem tbOf_modTb_same (tb : Fin 4) (f : TimeBase → TimeBase) (s : State) : tbOf (modTb tb f s) tb = f (tbOf s tb) := by
  rw [tbOf_modTb _ _ _ _ tb.isLt, if_pos rfl]

/-- The clocks' advance moves of a time base the value alone, with the fraction carried. -/
theorem tbOf_advance (t : Nat) (s : State) (i : Nat) : ∃ ns rem, tbOf (advance t s) i = { tbOf s i with ns := ns, rem := rem } := by
  unfold advance
  split
  · exact ⟨_, _, rfl⟩
  · by_cases hi : i < 4
    · exact ⟨_, _, vGet_vMap s.time.bases (tbRun (t - s.time.now)) i TimeBase.reset TimeBase.reset hi⟩
    · refine ⟨_, _, (?_ : _ = tbOf s i)⟩
      unfold tbOf vGet
      rw [Vector.getElem?_eq_none (by omega), Vector.getElem?_eq_none (by omega)]

section
variable (t : Nat) (s : State) (i : Nat)

@[simp] theorem tbOf_advance_state : (tbOf (advance t s) i).state = (tbOf s i).state := by
  obtain ⟨_, _, h⟩ := tbOf_advance t s i
  rw [h]

@[simp] theorem tbOf_advance_a : (tbOf (advance t s) i).a = (tbOf s i).a := by
  obtain ⟨_, _, h⟩ := tbOf_advance t s i
  rw [h]

@[simp] theorem tbOf_advance_b : (tbOf (advance t s) i).b = (tbOf s i).b := by
  obtain ⟨_, _, h⟩ := tbOf_advance t s i
  rw [h]

@[simp] theorem tbOf_advance_activeB : (tbOf (advance t s) i).activeB = (tbOf s i).activeB := by
  obtain ⟨_, _, h⟩ := tbOf_advance t s i
  rw [h]

@[simp] theorem pathOf_advance (b : Bool) : pathOf (tbOf (advance t s) i) b = pathOf (tbOf s i) b := by simp [pathOf]

@[simp] theorem tbCfg_advance : tbCfg (advance t s) i = tbCfg s i := advance_reg _ _ _

@[simp] theorem tbSource_advance : tbSource (advance t s) i = tbSource s i := by simp [tbSource]

@[simp] theorem selTb_advance : selTb (advance t s) = selTb s := selTb_of_reg (advance_reg _ _ _)

@[simp] theorem hasInstances_advance : hasInstances (advance t s) i = hasInstances s i := by simp [hasInstances]

@[simp] theorem allCfgs_advance : allCfgs (advance t s) = allCfgs s := by simp [allCfgs]

@[simp] theorem pathUsed_advance (b : Bool) : pathUsed (advance t s) i b = pathUsed s i b := by simp [pathUsed]

@[simp] theorem abWithin_advance : abWithin (advance t s) i = abWithin s i := by
  unfold abWithin abOffset
  rw [tbOf_advance_a, tbOf_advance_b, advance_regN]

@[simp] theorem instancesFit_advance (w : Word) : instancesFit (advance t s) i w = instancesFit s i w := by simp [instancesFit]

@[simp] theorem genlockUsed_advance : genlockUsed (advance t s) = genlockUsed s := by simp [genlockUsed]

end

/-- What the clocks' advance leaves of the time: all but the clocks, the values of the time bases and ST64. -/
theorem advance_time (t : Nat) (s : State) : (advance t s).time = { s.time with
    now := (advance t s).time.now, bases := (advance t s).time.bases, st64 := (advance t s).time.st64, stRem := (advance t s).time.stRem
    rtc := (advance t s).time.rtc, rtcNs := (advance t s).time.rtcNs } := by
  unfold advance
  split <;> rfl

@[simp] theorem frameAt_advance (t : Nat) (s : State) (k : Int) : frameAt (advance t s) k = frameAt s k := by
  unfold frameAt
  rw [advance_time]

@[simp] theorem genlockOk_advance (t : Nat) (s : State) (n d : Nat) : genlockOk (advance t s) n d = genlockOk s n d := by
  unfold genlockOk
  rw [advance_time]

/-! What a judgement of a time base's state leaves. -/

/-- Two time bases with the same value, paths, active path and last measured offset. -/
structure SameValue (x y : TimeBase) : Prop where
  ns : y.ns = x.ns
  a : y.a = x.a
  b : y.b = x.b
  active : y.activeB = x.activeB
  offset : y.offset = x.offset

theorem SameValue.refl (x : TimeBase) : SameValue x x := ⟨rfl, rfl, rfl, rfl, rfl⟩

theorem SameValue.trans {x y z : TimeBase} (h : SameValue x y) (g : SameValue y z) : SameValue x z :=
  ⟨g.ns.trans h.ns, g.a.trans h.a, g.b.trans h.b, g.active.trans h.active, g.offset.trans h.offset⟩

theorem SameValue.path {x y : TimeBase} (h : SameValue x y) (b : Bool) : pathOf y b = pathOf x b := by
  unfold pathOf
  rw [h.a, h.b]

theorem SameValue.time {x y : TimeBase} (h : SameValue x y) : tbTime y = tbTime x := by
  unfold tbTime
  rw [h.ns, h.a, h.b, h.active]

/-- A time base that enters a state keeps its value. -/
theorem enterState_value (now : Nat) (new : TbState) (x : TimeBase) : SameValue x (enterState now new x) := by
  have hnoted : SameValue x (if x.state = .locked ∧ new ≠ .locked then { x with lockedTill := some now } else x) := by
    split
    · exact ⟨rfl, rfl, rfl, rfl, rfl⟩
    · exact SameValue.refl x
  unfold enterState
  cases new <;> exact hnoted.trans ⟨rfl, rfl, rfl, rfl, rfl⟩

@[simp] theorem enterState_state (now : Nat) (new : TbState) (x : TimeBase) : (enterState now new x).state = new := by
  unfold enterState
  cases new <;> rfl

/-- From `s` to `t` neither ST64 nor EPOCH_ADJ moved, and show time runs or not as before. -/
structure ShowKept (s t : State) : Prop where
  st64 : t.time.st64 = s.time.st64
  running : t.time.running = s.time.running
  adj : t.time.epochAdj = s.time.epochAdj

theorem ShowKept.refl (s : State) : ShowKept s s := ⟨rfl, rfl, rfl⟩

theorem ShowKept.trans {s t u : State} (h : ShowKept s t) (g : ShowKept t u) : ShowKept s u :=
  ⟨g.st64.trans h.st64, g.running.trans h.running, g.adj.trans h.adj⟩

theorem ShowKept.of_time {s t : State} (h : t.time = s.time) : ShowKept s t := by
  constructor <;> rw [h]

/-- Registers that the judgement of a time base's state touches: TIM's flags, and those that a notice touches. -/
def judgeRegs : List Nat := R.TIM_INT_STAT :: noticeRegs

/-- From `s` to `t` at most the states of time bases were judged: show time, the clock and the steps accepted are as they were, each time base has its
value, paths and offset, and of the registers only flags and counts of notices changed. -/
structure Judged (s t : State) : Prop extends ShowKept s t where
  now : t.time.now = s.time.now
  epoch : t.time.epoch = s.time.epoch
  fcount : t.time.fcount = s.time.fcount
  accepts : t.time.accepts = s.time.accepts
  values : ∀ i, SameValue (tbOf s i) (tbOf t i)
  regs : RegsWf s.regs → RegsWf t.regs ∧ ∀ a, a ∉ judgeRegs → reg t a = reg s a

theorem Judged.refl (s : State) : Judged s s := ⟨ShowKept.refl s, rfl, rfl, rfl, rfl, fun _ => SameValue.refl _, fun h => ⟨h, fun _ _ => rfl⟩⟩

theorem Judged.trans {s t u : State} (h : Judged s t) (g : Judged t u) : Judged s u where
  toShowKept := h.toShowKept.trans g.toShowKept
  now := g.now.trans h.now
  epoch := g.epoch.trans h.epoch
  fcount := g.fcount.trans h.fcount
  accepts := g.accepts.trans h.accepts
  values i := (h.values i).trans (g.values i)
  regs hw := ⟨(g.regs (h.regs hw).1).1, fun a ha => ((g.regs (h.regs hw).1).2 a ha).trans ((h.regs hw).2 a ha)⟩

theorem Judged.wf {s t : State} (h : Judged s t) (hw : RegsWf s.regs) : RegsWf t.regs := (h.regs hw).1

theorem TIM_TBn_CFG_not_judged (tb : Fin 4) : R.TIM_TBn_CFG tb ∉ judgeRegs := by
  revert tb
  decide

theorem Judged.source {s t : State} (h : Judged s t) (hw : RegsWf s.regs) (tb : Fin 4) : tbSource t tb = tbSource s tb := by
  unfold tbSource tbCfg
  rw [(h.regs hw).2 _ (TIM_TBn_CFG_not_judged tb)]

theorem Judged.selected {s t : State} (h : Judged s t) (hw : RegsWf s.regs) : selTb t = selTb s := selTb_of_reg ((h.regs hw).2 _ (by decide))

section
variable {s0 s : State} (h : Judged s0 s)
include h

theorem notify_judged {code len : Nat} {fields : List Int} : Judged s0 (notify code len fields s) := by
  have told := notify_told code len fields s
  have htime : (notify code len fields s).time = s.time := told.only.2.2 .time (by decide)
  refine h.trans ⟨ShowKept.of_time htime, by rw [htime], by rw [htime], by rw [htime], by rw [htime], fun i => ?_, fun hw => ⟨notify_wf _ _ _ hw, fun a ha => ?_⟩⟩
  · rw [tbOf_of_time (by rw [htime])]
    exact SameValue.refl _
  · exact told.regs hw a fun hn => ha (List.mem_cons_of_mem _ hn)

theorem setFlag_judged {i : Nat} : Judged s0 (setFlag R.TIM_INT_STAT i s) :=
  h.trans ⟨ShowKept.of_time rfl, rfl, rfl, rfl, rfl, fun _ => SameValue.refl _, fun hw => ⟨setFlag_wf _ _ hw, fun a ha => by
    rw [setFlag_reg hw, if_neg fun (e : R.TIM_INT_STAT = a) => ha (e ▸ List.mem_cons_self)]⟩⟩

theorem modTb_judged {i : Nat} {f : TimeBase → TimeBase} (hf : ∀ x, SameValue x (f x)) : Judged s0 (modTb i f s) := by
  refine h.trans ⟨⟨rfl, rfl, rfl⟩, rfl, rfl, rfl, rfl, fun j => ?_, fun hw => ⟨hw, fun _ _ => rfl⟩⟩
  by_cases hj : j < 4
  · rw [tbOf_modTb _ _ _ _ hj]
    split
    · exact hf _
    · exact SameValue.refl _
  · have hout : tbOf (modTb i f s) j = tbOf s j := by
      unfold tbOf vGet
      rw [Vector.getElem?_eq_none (by omega), Vector.getElem?_eq_none (by omega)]
    rw [hout]
    exact SameValue.refl _

theorem draw_judged : Judged s0 (draw s) := h.trans ⟨⟨rfl, rfl, rfl⟩, rfl, rfl, rfl, rfl, fun _ => SameValue.refl _, fun hw => ⟨hw, fun _ _ => rfl⟩⟩

theorem planFrame_judged : Judged s0 (planFrame s) :=
  h.trans ⟨⟨rfl, rfl, rfl⟩, rfl, rfl, rfl, rfl, fun _ => SameValue.refl _, fun hw => ⟨hw, fun _ _ => rfl⟩⟩

theorem tellState_judged {i cause : Nat} {old new : TbState} : Judged s0 (tellState i old new cause s) := notify_judged (setFlag_judged h)

theorem tbMove_judged {i cause : Nat} {new : TbState} : Judged s0 (tbMove i new cause s) :=
  keep_ite h (tellState_judged (modTb_judged h fun _ => enterState_value _ _ _))

/-- The state of a time base follows its active path, and nothing else of it. -/
theorem tbFollow_judged {i : Nat} : Judged s0 (tbFollow i s) := by
  unfold tbFollow
  dsimp only
  split
  · exact keep_ite h (keep_ite (tbMove_judged (tbMove_judged h)) (tbMove_judged h))
  · exact keep_ite h (keep_ite (tbMove_judged (tbMove_judged h)) (tbMove_judged h))
  · exact keep_ite (tbMove_judged h) h
  · exact h
  · exact h

theorem enterDiscontinuity_judged {i : Nat} {delta : Int} : Judged s0 (enterDiscontinuity i delta s) := by
  unfold enterDiscontinuity
  refine notify_judged (setFlag_judged (setFlag_judged (modTb_judged (draw_judged h) fun x => ?_)))
  exact (enterState_value s.time.now .discontinuity x).trans ⟨rfl, rfl, rfl, rfl, rfl⟩

theorem withdrawStep_judged : Judged s0 (withdrawStep s) := by
  unfold withdrawStep
  exact keep_ite (notify_judged (planFrame_judged (setFlag_judged (modTb_judged h fun _ => enterState_value _ _ _)))) h

theorem leaveStep_judged {tb mode stepId : Nat} : Judged s0 (leaveStep tb mode stepId s) := by
  unfold leaveStep
  have hleft : Judged s0 (setFlag R.TIM_INT_STAT tb (modTb tb (enterState s.time.now (afterDiscontinuity (tbOf s tb))) s)) :=
    setFlag_judged (modTb_judged h fun _ => enterState_value _ _ _)
  exact keep_ite hleft (notify_judged hleft)

theorem correctFreq_judged {i source : Nat} : Judged s0 (correctFreq i source s) := by
  unfold correctFreq
  exact modTb_judged (draw_judged h) fun x => ⟨rfl, rfl, rfl, rfl, rfl⟩

end

end Sys2Proof.Proofs
end

section
/-! The RTC, a reference that steps, references lost, and the return to path A (R63 to R69, R83, R84, R95, R97). -/

namespace Sys2Proof.Proofs

open Sys2Proof.Machine Sys2Proof.Safety Sys2Proof.Laws

/-- Settles O26: the copy is due by the state of the selected time base and the instant of the last one, which the clocks' advance leaves. -/
theorem rtcCopied : Obligations.RtcCopied := by
  unfold Obligations.RtcCopied
  intro t s
  have hexec : exec (.rtcCopy t) s = execRtcCopy t s := rfl
  have hlast : (advance t s).time.rtcCopied = s.time.rtcCopied := by rw [advance_time]
  rw [hexec]
  unfold execRtcCopy
  dsimp only
  rw [selTb_advance, tbOf_advance_state, hlast]
  refine ⟨fun hlocked hdue => if_pos ⟨hlocked, hdue⟩, fun hnot => if_neg ?_⟩
  rintro ⟨hlocked, hdue⟩
  rcases hnot with h | h
  · exact h hlocked
  · omega

/-! Updates of a reference (R65, R69, R84). -/

section
variable {s0 s : State} (h : ShowKept s0 s)
include h

theorem setReg_kept {a : Nat} {w : Word} : ShowKept s0 (setReg a w s) := h.trans (.of_time rfl)

theorem modTb_kept {i : Nat} {f : TimeBase → TimeBase} : ShowKept s0 (modTb i f s) := h.trans ⟨rfl, rfl, rfl⟩

theorem ltcWrap_kept {i : Nat} {u : SourceUpdate} : ShowKept s0 (ltcWrap i u s) := by
  unfold ltcWrap
  exact keep_ite (modTb_kept (keep_ite (setReg_kept h) h)) h

end

/-- A step of a time base moves its value alone, and then its state is judged: ST64 stays (R84, R87). -/
theorem stepTb_shifts (i : Nat) (delta : Int) (s : State) : ∃ s2, ShowKept s s2 ∧ (∀ j, tbOf s2 j = tbOf (modTb i (shiftTb delta) s) j) ∧
    Judged s2 (stepTb i delta s) := by
  unfold stepTb
  dsimp only
  generalize hs2 : (if (i == selTb s) = true then _ else modTb i (shiftTb delta) s) = s2
  refine ⟨s2, ?_, fun j => ?_, keep_ite (Judged.refl s2) (keep_ite (enterDiscontinuity_judged (Judged.refl s2)) (Judged.refl s2))⟩
  · rw [← hs2]
    exact keep_ite (P := ShowKept s) ⟨rfl, rfl, rfl⟩ ⟨rfl, rfl, rfl⟩
  · rw [← hs2]
    split <;> rfl

theorem servo_kept (i : Nat) (offset : Int) (s : State) : ShowKept s (servo i offset s) := by
  obtain ⟨s2, hshift, -, hjudged⟩ := stepTb_shifts i offset s
  unfold servo
  exact keep_ite (hshift.trans hjudged.toShowKept) (correctFreq_judged (Judged.refl s)).toShowKept

theorem pathMeasured_kept (i : Nat) (b : Bool) (u : SourceUpdate) (s : State) : ShowKept s (pathMeasured i b u s) := by
  have hfollow (x : State) (hx : ShowKept s x) : ShowKept s (tbFollow i x) := hx.trans (tbFollow_judged (Judged.refl x)).toShowKept
  unfold pathMeasured
  dsimp only
  refine keep_ite ((hfollow _ ?_).trans (servo_kept _ _ _)) (hfollow _ (keep_ite (modTb_kept ?_) ?_))
  all_goals exact modTb_kept (ltcWrap_kept (ShowKept.refl s))

theorem withdrawStep_kept {s0 s : State} (h : ShowKept s0 s) : ShowKept s0 (withdrawStep s) :=
  h.trans (withdrawStep_judged (Judged.refl s)).toShowKept

/-- R84, for every update: what a reference does moves C and never ST64. -/
theorem sourceUpdate_kept (i : Nat) (b : Bool) (u : SourceUpdate) (s : State) : ShowKept s (sourceUpdate i b u s) := by
  have hnoted : ShowKept s (noteGenlock i u s) := keep_ite (P := ShowKept s) ⟨rfl, rfl, rfl⟩ (ShowKept.refl s)
  unfold sourceUpdate
  refine keep_ite (ShowKept.refl s) ?_
  split
  · exact modTb_kept (ShowKept.refl s)
  · exact keep_ite (withdrawStep_kept (pathMeasured_kept i b u s)) (ShowKept.refl s)
  · exact withdrawStep_kept (hnoted.trans (pathMeasured_kept _ _ _ _))

theorem source_of_instances {s : State} {i : Nat} (h : hasInstances s i = true) : tbSource s i = 1 ∨ tbSource s i = 2 := by
  simpa [hasInstances] using h

theorem shiftTb_value (delta : Int) (x : TimeBase) : (shiftTb delta x).ns = x.ns + delta ∧ (shiftTb delta x).offset = x.offset ∧
    ∀ b, (pathOf (shiftTb delta x) b).lost = (pathOf x b).lost := by
  unfold shiftTb
  split
  · exact ⟨rfl, rfl, fun b => by cases b <;> rfl⟩
  · exact ⟨rfl, rfl, fun b => by cases b <;> rfl⟩

/-- A valid update of the active path of a PTP time base, 2,000 ns or more off, steps the time base by the offset (R65). -/
theorem pathMeasured_steps {tb : Fin 4} {b : Bool} {u : SourceUpdate} {s : State} {off : Int} (hi : hasInstances s tb = true) (hv : u.valid = true)
    (hb : b = (tbOf s tb).activeB) (hrel : (pathOf (tbOf s tb) b).rel = 0) (hw : RegsWf s.regs)
    (hoff : u.offset + signed 32 (regN s (R.TIM_TBn_REF_OFFSET tb)) = off) (hfar : 2000 ≤ off.natAbs) :
    (tbOf (pathMeasured tb b u s) tb).ns = (tbOf s tb).ns + off ∧ (pathOf (tbOf (pathMeasured tb b u s) tb) b).lost = false ∧
      (tbOf (pathMeasured tb b u s) tb).offset = off := by
  have hsrc := source_of_instances hi
  have hltc : ltcWrap tb u s = s := if_neg (by omega)
  have hraw : updateOffset s tb u = off := by
    unfold updateOffset
    rcases hsrc with h | h <;> simp [h, hoff]
  unfold pathMeasured
  dsimp only
  rw [hltc, hraw, hrel, Int.sub_zero, hv, hb]
  simp only [beq_self_eq_true, Bool.true_and, and_self, if_true]
  generalize hs1 : modTb tb _ s = s1
  have hlost : (tbOf s1 tb).ns = (tbOf s tb).ns ∧ (tbOf s1 tb).offset = off ∧ (pathOf (tbOf s1 tb) (tbOf s tb).activeB).lost = false := by
    rw [← hs1, tbOf_modTb_same]
    cases (tbOf s tb).activeB <;> simp [onPath, pathOf, pathUpdate, hv]
  obtain ⟨hns, hkept, hheard⟩ := hlost
  have hfollow := tbFollow_judged (Judged.refl s1) (i := tb)
  have hvalue := hfollow.values tb
  have hsame : tbSource (tbFollow tb s1) tb = tbSource s tb := by
    rw [hfollow.source (by rw [← hs1]; exact hw), ← hs1]
    rfl
  have hstep : servo tb off (tbFollow tb s1) = stepTb tb off (tbFollow tb s1) := if_pos ⟨by rw [hsame]; omega, hfar⟩
  obtain ⟨s2, -, hshift, hjudged⟩ := stepTb_shifts tb off (tbFollow tb s1)
  obtain ⟨hmoved, hoffset, hpath⟩ := shiftTb_value off (tbOf (tbFollow tb s1) tb)
  have hend := hjudged.values tb
  rw [hstep, hend.ns, hend.offset, hend.path, hshift, tbOf_modTb_same, hmoved, hoffset, hpath, hvalue.ns, hvalue.offset, hvalue.path]
  exact ⟨by rw [hns], hheard, hkept⟩

/-- Settles O24: each way that an update takes, and on none of them ST64 moves. -/
theorem stepMovesCorrection : Obligations.StepMovesCorrection := by
  unfold Obligations.StepMovesCorrection
  intro t tb b u s
  have hkept := sourceUpdate_kept tb b u (advance t s)
  have hadj : (advance t s).time.epochAdj = s.time.epochAdj := by rw [advance_time]
  refine ⟨_, (rfl : exec (.tbSourceUpdate t tb b u) s = .next (sourceUpdate tb b u (advance t s))), hkept.st64, hkept.running.trans (advance_running t s),
    hkept.adj.trans hadj, fun hunused => if_pos (by simpa using hunused), fun a hused hi ha => ?_, fun hused hi ha hacc => ?_,
    fun hused hi ha hacc hv hb hrel hw hfar => ?_⟩
  all_goals
    unfold sourceUpdate
    rw [if_neg (by simp [hused]), hasInstances_advance, hi, ha]
  · exact if_neg (by simp [hacc])
  · dsimp only
    rw [pathOf_advance, if_pos hacc]
    obtain ⟨hns, hheard, hoffset⟩ := pathMeasured_steps (s := advance t s) (by simpa using hi) hv (by simpa using hb) (by simpa using hrel)
      (by simpa using hw) (by rw [advance_regN]) hfar
    have hend := (withdrawStep_judged (Judged.refl (pathMeasured tb b u (advance t s)))).values tb
    rw [hend.ns, hend.path, hend.offset]
    exact ⟨hns, hheard, hoffset⟩

end Sys2Proof.Proofs
end

section
/-! References lost, and the return to path A (R63, R66, R67, R95, R97). -/

namespace Sys2Proof.Proofs

open Sys2Proof.Machine Sys2Proof.Safety Sys2Proof.Laws

/-- A path whose reference is lost. -/
def loseRef (p : RefPath) : RefPath := { p with locked := false, good := 0, lost := true, master := none }

/-- A path of a time base has lost its reference, and the loss is counted. -/
def lostPath (i : Nat) (b : Bool) (s : State) : State := bump (R.TIM_TBn_LOSS i) (modTb i (onPath b loseRef) s)

/-- What a loss of a used path does (R63, R66, R95): the path is lost, and where it is the active one the time base switches or leaves its state. -/
theorem referenceLost_due {tb : Fin 4} {b : Bool} {s : State} (hu : pathUsed s tb b = true)
    (hd : refLossDue (tbSource s tb) s.time.now (pathOf (tbOf s tb) b) = true) :
    referenceLost tb b s =
      if b ≠ (tbOf (lostPath tb b s) tb).activeB then lostPath tb b s
      else if pathUsed (lostPath tb b s) tb (!b) ∧ (pathOf (tbOf (lostPath tb b s) tb) (!b)).locked ∧ abWithin (lostPath tb b s) tb then
        switchPath tb (!b) 0 (lostPath tb b s)
      else match (tbOf (lostPath tb b s) tb).state with
        | .locked => tbMove tb .holdover 1 (lostPath tb b s)
        | .acquiring => if (tbOf (lostPath tb b s) tb).history = [] then lostPath tb b s else tbMove tb .holdover 1 (lostPath tb b s)
        | .free | .holdover | .discontinuity => lostPath tb b s := by
  unfold referenceLost
  rw [if_neg (by simp [hu, hd])]
  rfl

section
variable (tb : Fin 4) (b : Bool) (s : State)

@[simp] theorem tbOf_lostPath : tbOf (lostPath tb b s) tb = onPath b loseRef (tbOf s tb) := tbOf_modTb_same tb _ s

theorem lostPath_kept : ShowKept s (lostPath tb b s) := ⟨rfl, rfl, rfl⟩

/-- Of the time base the path alone changes. -/
theorem onPath_loseRef (x : TimeBase) : (onPath b loseRef x).ns = x.ns ∧ (onPath b loseRef x).state = x.state ∧
    (onPath b loseRef x).activeB = x.activeB ∧ (∀ now, holdFreq now { onPath b loseRef x with lockedTill := some now } =
      holdFreq now { x with lockedTill := some now }) ∧ pathOf (onPath b loseRef x) b = loseRef (pathOf x b) ∧
    pathOf (onPath b loseRef x) (!b) = pathOf x (!b) ∧ abOffset (onPath b loseRef x) = abOffset x := by
  cases b <;> exact ⟨rfl, rfl, rfl, fun _ => rfl, rfl, rfl, rfl⟩

end

theorem TIM_TBn_LOSS_ne_CFG (tb i : Nat) : R.TIM_TBn_LOSS tb ≠ R.TIM_TBn_CFG i := by
  unfold R.TIM_TBn_LOSS R.TIM_TBn_CFG
  omega

theorem TIM_TBn_LOSS_ne_AB_LIMIT (tb i : Nat) : R.TIM_TBn_LOSS tb ≠ R.TIM_TBn_AB_LIMIT i := by
  unfold R.TIM_TBn_LOSS R.TIM_TBn_AB_LIMIT
  omega

section
variable {tb : Fin 4} {b : Bool} {s : State} (hw : RegsWf s.regs)
include hw

theorem tbCfg_lostPath (i : Nat) : tbCfg (lostPath tb b s) i = tbCfg s i := by
  unfold tbCfg lostPath
  rw [bump_reg' (s := modTb tb (onPath b loseRef) s) hw, if_neg (TIM_TBn_LOSS_ne_CFG _ _)]
  rfl

theorem pathUsed_lostPath (i : Nat) (b' : Bool) : pathUsed (lostPath tb b s) i b' = pathUsed s i b' := by
  simp [pathUsed, hasInstances, tbSource, allCfgs, tbCfg_lostPath hw]

theorem abWithin_lostPath : abWithin (lostPath tb b s) tb = abWithin s tb := by
  have hlimit : regN (lostPath tb b s) (R.TIM_TBn_AB_LIMIT tb) = regN s (R.TIM_TBn_AB_LIMIT tb) := by
    unfold regN lostPath
    rw [bump_reg' (s := modTb tb (onPath b loseRef) s) hw, if_neg (TIM_TBn_LOSS_ne_AB_LIMIT _ _)]
    rfl
  obtain ⟨-, -, -, -, -, -, hab⟩ := onPath_loseRef b (tbOf s tb)
  unfold abWithin
  rw [hlimit, tbOf_lostPath, hab]

end

/-! The other path. -/

section
variable (tb : Fin 4) (toB : Bool) (s : State)

/-- A time base that follows its other path keeps its value, and both paths their locks (R95, R97). -/
theorem tbOf_followPath : (tbOf (followPath tb toB s) tb).ns = (tbOf s tb).ns ∧ (tbOf (followPath tb toB s) tb).activeB = toB ∧
    ∀ b, (pathOf (tbOf (followPath tb toB s) tb) b).lost = (pathOf (tbOf s tb) b).lost ∧
      (pathOf (tbOf (followPath tb toB s) tb) b).locked = (pathOf (tbOf s tb) b).locked := by
  unfold followPath
  dsimp only
  rw [tbOf_modTb_same]
  split
  · exact ⟨rfl, rfl, fun b => by cases b <;> exact ⟨rfl, rfl⟩⟩
  · exact ⟨rfl, rfl, fun b => by cases b <;> exact ⟨rfl, rfl⟩⟩

theorem switchPath_judged (cause : Nat) : Judged (followPath tb toB s) (switchPath tb toB cause s) :=
  withdrawStep_judged (notify_judged (setFlag_judged (Judged.refl _)))

theorem switchPath_kept (cause : Nat) : ShowKept s (switchPath tb toB cause s) :=
  (⟨rfl, rfl, rfl⟩ : ShowKept s (followPath tb toB s)).trans (switchPath_judged tb toB s cause).toShowKept

/-- A switch of paths steps nothing. -/
theorem tbOf_switchPath (cause : Nat) : (tbOf (switchPath tb toB cause s) tb).ns = (tbOf s tb).ns ∧
    (tbOf (switchPath tb toB cause s) tb).activeB = toB ∧ ∀ b, (pathOf (tbOf (switchPath tb toB cause s) tb) b).lost = (pathOf (tbOf s tb) b).lost ∧
      (pathOf (tbOf (switchPath tb toB cause s) tb) b).locked = (pathOf (tbOf s tb) b).locked := by
  have hend := (switchPath_judged tb toB s cause).values tb
  rw [hend.ns, hend.active]
  simp only [hend.path]
  exact tbOf_followPath tb toB s

end

/-- A loss of a used path, in three ways on: nothing more, the switch to the other path, or HOLDOVER. -/
inductive LossEnds (tb : Fin 4) (b : Bool) (s : State) : State → Prop
  | stays : LossEnds tb b s (lostPath tb b s)
  | switches : b = (tbOf s tb).activeB → LossEnds tb b s (switchPath tb (!b) 0 (lostPath tb b s))
  | holds : b = (tbOf s tb).activeB → LossEnds tb b s (tbMove tb .holdover 1 (lostPath tb b s))

theorem referenceLost_ends {tb : Fin 4} {b : Bool} {s : State} (hu : pathUsed s tb b = true)
    (hd : refLossDue (tbSource s tb) s.time.now (pathOf (tbOf s tb) b) = true) : LossEnds tb b s (referenceLost tb b s) := by
  obtain ⟨-, -, hactive, -⟩ := onPath_loseRef b (tbOf s tb)
  rw [referenceLost_due hu hd, tbOf_lostPath, hactive]
  by_cases hb : b = (tbOf s tb).activeB
  · rw [if_neg (not_not.mpr hb)]
    refine keep_ite (.switches hb) ?_
    split
    · exact .holds hb
    · exact keep_ite .stays (.holds hb)
    · exact .stays
    · exact .stays
    · exact .stays
  · rw [if_pos hb]
    exact .stays

theorem LossEnds.rest {tb : Fin 4} {b : Bool} {s x : State} (h : LossEnds tb b s x) : ShowKept s x ∧ (pathOf (tbOf x tb) b).lost = true ∧
    (pathOf (tbOf x tb) b).locked = false ∧ (tbOf x tb).ns = (tbOf s tb).ns := by
  obtain ⟨hns, -, -, -, hpath, -⟩ := onPath_loseRef b (tbOf s tb)
  have hkept := lostPath_kept tb b s
  cases h with
  | stays =>
    rw [tbOf_lostPath, hpath, hns]
    exact ⟨hkept, rfl, rfl, rfl⟩
  | switches _ =>
    obtain ⟨hvalue, -, hlocks⟩ := tbOf_switchPath tb (!b) (lostPath tb b s) 0
    rw [hvalue, (hlocks b).1, (hlocks b).2, tbOf_lostPath, hpath, hns]
    exact ⟨hkept.trans (switchPath_kept _ _ _ _), rfl, rfl, rfl⟩
  | holds _ =>
    have hjudged := tbMove_judged (i := tb) (cause := 1) (new := .holdover) (Judged.refl (lostPath tb b s))
    have hend := hjudged.values tb
    rw [hend.ns, hend.path, tbOf_lostPath, hpath, hns]
    exact ⟨hkept.trans hjudged.toShowKept, rfl, rfl, rfl⟩

/-- The time base that moves enters its new state, and the notice does not touch it. -/
theorem tbOf_tbMove {tb : Fin 4} {new : TbState} {cause : Nat} {s : State} (h : (tbOf s tb).state ≠ new) :
    tbOf (tbMove tb new cause s) tb = enterState s.time.now new (tbOf s tb) := by
  unfold tbMove tellState
  dsimp only
  rw [if_neg h, tbOf_of_time (congrArg Time.bases ((notify_told _ _ _ _).only.2.2 .time (by decide)))]
  exact tbOf_modTb_same _ _ _

/-- A locked time base that enters HOLDOVER runs on the mean correction of the lock that ends now (R67). -/
theorem enterState_holdover_freq (now : Nat) {x : TimeBase} (h : x.state = .locked) :
    (enterState now .holdover x).freq = holdFreq now { x with lockedTill := some now } := by
  unfold enterState
  rw [if_pos ⟨h, by decide⟩]

/-- Settles O25: by the three ways on from a loss, and the two of a return. -/
theorem referenceEvents : Obligations.ReferenceEvents := by
  unfold Obligations.ReferenceEvents
  intro t tb s hw
  have hw' : RegsWf (advance t s).regs := by simpa using hw
  refine ⟨fun b hidle => congrArg Host.Outcome.next (if_pos ?_), fun b hu hd => ?_, fun hrev hb hlocked hheld hwithin => ?_, fun hnot => congrArg Host.Outcome.next (if_neg ?_)⟩
  · simpa using hidle
  · have hu' : pathUsed (advance t s) tb b = true := by simpa using hu
    have hd' : refLossDue (tbSource (advance t s) tb) (advance t s).time.now (pathOf (tbOf (advance t s) tb) b) = true := by simpa using hd
    obtain ⟨hkept, hlost, hunlocked, hns⟩ := (referenceLost_ends hu' hd').rest
    obtain ⟨-, hstate, hactive, hfreq, -, hother, -⟩ := onPath_loseRef b (tbOf (advance t s) tb)
    refine ⟨_, (rfl : exec (.referenceLost t tb b) s = .next (referenceLost tb b (advance t s))),
      referenceLost_only (by decide) (advance_only (by decide) (only_refl _ _)), hkept.st64, hlost, hunlocked, hns, fun hne => ?_,
      fun hb halone hstay => ?_, fun hb hused hlock hin => ?_⟩
    all_goals rw [referenceLost_due hu' hd', tbOf_lostPath, hactive, tbOf_advance_activeB]
    · rw [if_pos hne, tbOf_lostPath, hstate, hactive]
      exact ⟨tbOf_advance_state _ _ _, tbOf_advance_activeB _ _ _⟩
    · rw [if_neg (not_not.mpr hb), if_neg (by simp [pathUsed_lostPath hw', halone]), hstate, tbOf_advance_state, hstay]
      dsimp only
      rw [tbOf_tbMove (by rw [tbOf_lostPath, hstate, tbOf_advance_state, hstay]; decide), tbOf_lostPath]
      refine ⟨enterState_state _ _ _, ?_, ?_⟩
      · rw [(enterState_value _ _ _).active, hactive, tbOf_advance_activeB, hb]
      · rw [enterState_holdover_freq _ (by rw [hstate, tbOf_advance_state, hstay])]
        exact hfreq _
    · rw [if_neg (not_not.mpr hb), if_pos (by simp [pathUsed_lostPath hw', abWithin_lostPath hw', hother, hused, hlock, hin])]
      exact (tbOf_switchPath _ _ _ _).2.1
  · obtain ⟨hns, hactive, -⟩ := tbOf_switchPath tb false (advance t s) 1
    have hexec : exec (.domainRevert t tb) s = .next (switchPath tb false 1 (advance t s)) := congrArg Host.Outcome.next (if_pos
      ⟨by simpa using hrev, by simpa using hb, by simpa using hlocked, by rwa [tbOf_advance_a], by simpa using hwithin⟩)
    exact ⟨_, hexec, hactive, hns, (switchPath_kept tb false (advance t s) 1).st64,
      switchPath_only (by decide) (advance_only (by decide) (only_refl _ _))⟩
  · rintro ⟨hrev, -, hlocked, hheld, hwithin⟩
    rw [tbOf_advance_a] at hlocked hheld
    rw [tbCfg_advance] at hrev
    rw [abWithin_advance] at hwithin
    rcases hnot with h | h | h | h
    · omega
    · exact Bool.noConfusion (h.symm.trans hrev)
    · exact Bool.noConfusion (h.symm.trans hwithin)
    · exact Bool.noConfusion (h.symm.trans hlocked)

end Sys2Proof.Proofs
end

section
/-! The grid, the mark, mains and the zone-safe boundary (R75, R78, R82, R85, R90). -/

namespace Sys2Proof.Proofs

open Sys2Proof.Machine Sys2Proof.Safety Sys2Proof.Laws

/-- Show time reaches an instant, and counts no frame on the way. -/
theorem reach_running (st : Int) (s : State) : (reach st s).time.running = s.time.running ∧ (reach st s).time.fcount = s.time.fcount := by
  unfold reach
  split
  · exact ⟨rfl, rfl⟩
  · exact ⟨rfl, rfl⟩

theorem reach_st64 {st : Int} {s : State} (hrun : s.time.running = true) : (reach st s).time.st64 = max s.time.st64 st := by
  unfold reach
  split
  next h =>
    rcases h with h | h
    · exact Bool.noConfusion (h.symm.trans hrun)
    · omega
  next => rfl

/-- At a boundary show time counts the frame that starts, and has reached its grid instant (R78, R85). -/
theorem frameTime_reaches {s : State} (hrun : s.time.running = true) : (frameTime s).time.fcount = s.time.fcount + 1 ∧
    (frameTime s).time.running = true ∧ (frameTime s).time.st64 = max s.time.st64 (frameAt s (s.time.fcount + 1)) := by
  obtain ⟨hruns, hcount⟩ := reach_running (frameAt s (s.time.fcount + 1)) s
  have hjudged := withdrawStep_judged (planFrame_judged (Judged.refl { reach (frameAt s (s.time.fcount + 1)) s with
    time := { (reach (frameAt s (s.time.fcount + 1)) s).time with fcount := (reach (frameAt s (s.time.fcount + 1)) s).time.fcount + 1 } }))
  exact ⟨hjudged.fcount.trans (congrArg (· + 1) hcount), hjudged.running.trans (hruns.trans hrun), hjudged.st64.trans (reach_st64 hrun)⟩

/-- What is accepted ends a DISCONTINUITY or moves C; ST64 and the steps that still wait stay (R89 to R91). -/
theorem applyAccept_kept (s : State) (a : StepAccept) :
    (applyAccept s a).time.st64 = s.time.st64 ∧ (applyAccept s a).time.accepts = s.time.accepts := by
  unfold applyAccept
  dsimp only
  split
  · exact ⟨rfl, rfl⟩
  split
  · have hleft := leaveStep_judged (tb := a.tb) (mode := a.mode) (stepId := a.stepId) (Judged.refl s)
    exact ⟨hleft.st64, hleft.accepts⟩
  · generalize hs1 : (planFrame _ : State) = s1
    have hend {fields : List Int} := notify_judged (code := 0x8102) (len := 24) (fields := fields) (setFlag_judged (i := a.tb) (Judged.refl s1))
    refine ⟨hend.st64.trans ?_, hend.accepts.trans ?_⟩ <;> rw [← hs1] <;> rfl

/-- R90: the steps due are taken off, and the others wait on. -/
theorem zoneSafe_accepts {s : State} (hrun : s.time.running = true) : (zoneSafe s).time.st64 = s.time.st64 ∧
    (zoneSafe s).time.accepts = s.time.accepts.filter (fun a => !decide (a.at_ + 2000000 ≤ frameAt s s.time.fcount)) := by
  unfold zoneSafe
  rw [if_neg (by simp [hrun])]
  refine keep_foldl (P := fun x : State => x.time.st64 = s.time.st64 ∧ x.time.accepts = s.time.accepts.filter _) ⟨rfl, rfl⟩ fun x a hx => ?_
  obtain ⟨hst, hwait⟩ := applyAccept_kept x a
  exact ⟨hst.trans hx.1, hwait.trans hx.2⟩

/-- The edge that counts, and the period that a valid crossing leaves (R75). -/
theorem mainsCross_edge (s : State) : (mainsCross s).time.mainsEdge = some s.time.now ∧
    ∀ e, s.time.mainsEdge = some e → e + 15385000 ≤ s.time.now → s.time.now ≤ e + 22222000 →
      (mainsCross s).time.mainsValid = some (s.time.now, (s.time.now - e + 500) / 1000, st64 s) := by
  unfold mainsCross
  dsimp only
  refine ⟨keep_ite (P := fun x : State => x.time.mainsEdge = _) rfl rfl, fun e he hlo hhi => ?_⟩
  simp [he, hlo, hhi]

theorem withdrawStep_idle {s : State} (h : s.time.running = false) : withdrawStep s = s := if_neg (by simp [h])

/-- Settles O27: each event by what it does to show time and its neighbours. -/
theorem showTimeEvents : Obligations.ShowTimeEvents := by
  unfold Obligations.ShowTimeEvents
  intro t s
  have hvalid : (advance t s).time.mainsValid = s.time.mainsValid := by rw [advance_time]
  have hedge : (advance t s).time.mainsEdge = s.time.mainsEdge := by rw [advance_time]
  have haccepts : (advance t s).time.accepts = s.time.accepts := by rw [advance_time]
  have hcount : (advance t s).time.fcount = s.time.fcount := by rw [advance_time]
  refine ⟨fun tests hrun => ?_, fun tests hidle => ?_, fun hrun => ?_, fun hidle => ?_, fun hrun => ?_, ?_, fun at_ p st hv hold => ?_⟩
  · obtain ⟨hframe, hruns, hst⟩ := frameTime_reaches hrun
    refine ⟨frameTime s, ?_, frameTime_only (by decide) (only_refl _ _), hframe, hruns, by omega, by omega⟩
    rw [← hframe]
    exact if_pos hrun
  · exact if_neg (by simp [hidle])
  · have hmark : hwmMark (advance t s) = _ := if_pos (by simpa using hrun)
    exact congrArg (fun x => Host.Outcome.next (withdrawStep x)) hmark
  · have hmark : hwmMark (advance t s) = advance t s := if_neg (by simp [hidle])
    have hexec : exec (.hwmUpdate t) s = .next (withdrawStep (hwmMark (advance t s))) := rfl
    rw [hexec, hmark, withdrawStep_idle (by simpa using hidle)]
  · obtain ⟨hst, hwait⟩ := zoneSafe_accepts (s := advance t s) (by simpa using hrun)
    refine ⟨_, (rfl : exec (.zoneSafeBoundary t) s = .next (zoneSafe (advance t s))),
      zoneSafe_only (by decide) (advance_only (by decide) (only_refl _ _)), ?_, hst⟩
    rw [hwait, haccepts, hcount]
    simp only [frameAt_advance]
  · have hexec : exec (.mainsZeroCrossing t) s = execMainsZeroCrossing t s := rfl
    obtain ⟨hnoted, hperiod⟩ := mainsCross_edge (advance t s)
    have honly : Only [.time, .alm] s (mainsCross (advance t s)) := mainsCross_only (by decide) (advance_only (by decide) (only_refl _ _))
    rw [hedge] at hperiod
    rw [hexec]
    unfold execMainsZeroCrossing
    dsimp only
    split
    · exact ⟨_, rfl, honly, hnoted, hperiod⟩
    · exact ⟨_, rfl, modAlm_only (by decide) honly, hnoted, hperiod⟩
  · have hexec : exec (.mainsAbsentTimeout t) s = execMainsAbsentTimeout t s := rfl
    rw [hexec]
    unfold execMainsAbsentTimeout
    dsimp only
    rw [hvalid, hv]
    exact if_pos hold

end Sys2Proof.Proofs
end

section
/-! Latched pairs (R99). -/

namespace Sys2Proof.Proofs

open Sys2Proof.Machine Sys2Proof.Safety Sys2Proof.Laws

/-- The pairs of TIM, and the three words of the seconds of each time base: the low word, and a word that its read latches. -/
def timPairs : List (Nat × Nat) :=
  [(R.TIM_ST64_LO, R.TIM_ST64_HI), (R.TIM_CORR_LO, R.TIM_CORR_HI), (R.TIM_EPOCH_ADJ_LO, R.TIM_EPOCH_ADJ_HI), (R.TIM_HWM_LO, R.TIM_HWM_HI),
    (R.TIM_FORIGIN_LO, R.TIM_FORIGIN_HI), (R.TIM_FCOUNT_LO, R.TIM_FCOUNT_HI)] ++
  (List.range 4).flatMap (fun n => [(R.TIM_TBn_SEC_LO n, R.TIM_TBn_SEC_HI n), (R.TIM_TBn_SEC_LO n, R.TIM_TBn_NS n)])

/-- A register of the always running domain that a read neither clears nor moves. -/
def readsStill (a : Nat) : Bool :=
  domainOf a == 2 && (findReg a).any fun d => d.rc == 0 && d.base != R.MAC_TALLYi_LO 0 0 && d.base != R.FIF_Qn_RD_LO 0

theorem timPairs_still : ∀ p ∈ timPairs, readsStill p.1 = true ∧ readsStill p.2 = true ∧ p.2 ∈ latchedBy p.1 := by decide +kernel

theorem fabricRead_still {a : Nat} {s : State} (h : readsStill a = true) (hup : domainUp s 2 = true) :
    fabricRead a 0 s = noteRead a ((aFind s.regs.latched a).getD (regValue s a)) (latchWords a s) := by
  simp only [readsStill, Bool.and_eq_true, beq_iff_eq, Option.any_eq_true, bne_iff_ne] at h
  obtain ⟨hdomain, d, hd, ⟨hrc, htally⟩, hfifo⟩ := h
  have hc : readCause s a = none := by
    unfold readCause
    rw [hd, hdomain]
    exact if_pos hup
  rw [fabricRead_stored hc hd htally hfifo]
  exact congrArg (noteRead a _) (if_pos hrc)

/-- What a read latched, as it was then. -/
theorem aFind_foldl_aPut {α : Type} (f : Nat → α) {l : List Nat} {h : Nat} (hh : h ∈ l) (m : SMap α) :
    aFind (l.foldl (fun m h => aPut m h (f h)) m) h = some (f h) := by
  induction l using List.reverseRecOn with
  | nil => cases hh
  | append_singleton l j ih =>
    rw [List.foldl_append]
    simp only [List.foldl_cons, List.foldl_nil, aFind_aPut]
    by_cases hj : j = h
    · rw [if_pos hj, hj]
    · rw [if_neg hj]
      refine ih ?_
      simpa [Ne.symm hj] using hh

/-- Settles O19: the first read latches the second word, and the second returns what is latched. -/
theorem latchedPair : Obligations.LatchedPair := by
  unfold Obligations.LatchedPair
  intro t u lo hi s _ hup hpair
  obtain ⟨hlo, hhi, hlatched⟩ := timPairs_still (lo, hi) hpair
  have hlow := fabricRead_still (s := advance t s) hlo (by simpa using hup)
  generalize hx : fabricRead lo 0 (advance t s) = x at hlow
  have hregs : x.regs.latched = (latchWords lo (advance t s)).regs.latched := by rw [hlow]; rfl
  have hpower : domainUp x 2 = true := by
    rw [hlow]
    exact (advance_domainUp t s 2).trans hup
  have hhigh := fabricRead_still (s := advance u x) hhi (by simpa using hpower)
  refine ⟨x, _, congrArg Host.Outcome.next hx, rfl, ?_, ?_, fun a => ?_⟩
  · rw [hhigh, noteRead_lastRead, advance_regs, hregs]
    have hheld : aFind (latchWords lo (advance t s)).regs.latched hi = some (regValue (advance t s) hi) :=
      aFind_foldl_aPut (regValue (advance t s)) hlatched _
    rw [hheld, Option.getD_some]
  · rw [hhigh, hlow]
    refine noteRead_only (by decide) (latchWords_only (by decide) (advance_only (by decide) ?_))
    exact noteRead_only (by decide) (latchWords_only (by decide) (advance_only (by decide) (only_refl _ _)))
  · rw [hhigh, noteRead_reg, latchWords_reg, advance_reg, hlow, noteRead_reg, latchWords_reg, advance_reg]

end Sys2Proof.Proofs
end

section
/-! The commands of class 2 (R70, R72, R79, R86, R89, R93, R102, R105). -/

namespace Sys2Proof.Proofs

open Sys2Proof.Machine Sys2Proof.Safety Sys2Proof.Laws

theorem command_ends {code : Nat} {c : Call} {s : State} {body : State → State × Reply} {i : Instr} {r : Reply} {x : State}
    (he : exec i s = command code c s body) (h : Ready code c s) (hb : body (advance c.t s) = (x, r)) : Ends i code c r x s :=
  commandLater_ends he h (by simp only [hb])

theorem only_of_time {l : List Comp} {s0 s : State} {v : Time} (hl : Comp.time ∈ l) (h : Only l s0 s) : Only l s0 { s with time := v } := by
  refine only_mk h (List.cons_subset.mpr ⟨hl, List.nil_subset _⟩) fun c hc => ?_
  cases c
  case time => exact absurd (List.mem_singleton_self _) hc
  all_goals rfl

/-- The last word written to a register counts, before what was written earlier. -/
theorem wrote_setReg {ws : List (Nat × Word)} {s x : State} (h : Wrote ws s x) (hw : RegsWf x.regs) (a : Nat) (w : Word) :
    Wrote ((a, w) :: ws) s (setReg a w x) where
  only := setReg_only (List.Subset.refl _) h.only
  regs b := by
    rw [reg_setReg hw, List.lookup_cons]
    by_cases hb : a = b
    · rw [if_pos hb, beq_iff_eq.mpr hb.symm]
      rfl
    · rw [if_neg hb, beq_false_of_ne (Ne.symm hb), h.regs]

/-- The ranges of TIME_BASE_SET (R102). -/
def BaseInRange (p : TimeBaseSet) : Prop :=
  p.tb ≤ 3 ∧ p.source ≤ 6 ∧ (p.portA ≤ 10 ∨ p.portA = 15) ∧ (p.portB ≤ 10 ∨ p.portB = 15) ∧ p.domainA ≤ 127 ∧ p.domainB ≤ 127

theorem portOk_iff (x : Nat) : (decide (x ≤ 10) || x == 15) = true ↔ x ≤ 10 ∨ x = 15 := by simp

theorem timeBaseSet_ends {c : Call} {p : TimeBaseSet} {s : State} (h : Ready 0x0110 c s) (hp : BaseInRange p)
    (hfit : instancesFit s p.tb (baseWord p) = true) (hlock : p.source = 3 → genlockOk s s.time.rateN s.time.rateD = true) :
    Ends (.timeBaseSet c p) 0x0110 c ⟨.ok, 0, []⟩ (tbCfgApply p.tb (baseWord p)
      (setReg (R.TIM_TBn_LTC_DAY p.tb) (BitVec.ofNat 32 p.ltcDay) (setReg (R.TIM_TBn_AB_LIMIT p.tb) (BitVec.ofNat 32 p.abLimit)
        (setReg (R.TIM_TBn_REF_OFFSET p.tb) (loWord p.refOffset) (advance c.t s))))) s := by
  obtain ⟨htb, hsource, hA, hB, hdA, hdB⟩ := hp
  refine command_ends (rfl : _ = execTimeBaseSet c p s) h ?_
  dsimp only
  rw [if_neg, if_neg, if_neg]
  · rfl
  · rintro ⟨h3, hbad⟩
    rw [genlockOk_advance, advance_time, hlock h3] at hbad
    cases hbad
  · simp [hfit]
  · rw [(portOk_iff _).mpr hA, (portOk_iff _).mpr hB]
    simp
    omega

theorem timeBaseSet_refused {c : Call} {p : TimeBaseSet} {s : State} (h : Ready 0x0110 c s)
    (hbad : 3 < p.tb ∨ 6 < p.source ∨ (10 < p.portA ∧ p.portA ≠ 15) ∨ (10 < p.portB ∧ p.portB ≠ 15) ∨ 127 < p.domainA ∨ 127 < p.domainB ∨
      instancesFit s p.tb (baseWord p) = false ∨ (p.source = 3 ∧ genlockOk s s.time.rateN s.time.rateD = false)) :
    Done (.timeBaseSet c p) 0x0110 c ⟨.invalidParameter, 0, []⟩ (advance c.t s) s := by
  refine command_reads (rfl : _ = execTimeBaseSet c p s) h ?_
  have hrate : (advance c.t s).time.rateN = s.time.rateN ∧ (advance c.t s).time.rateD = s.time.rateD := by rw [advance_time]; exact ⟨rfl, rfl⟩
  dsimp only
  split
  · rfl
  split
  · rfl
  split
  · rfl
  next hrange hfit hlock =>
    rw [instancesFit_advance] at hfit
    rw [genlockOk_advance, hrate.1, hrate.2] at hlock
    simp only [Bool.or_eq_false_iff, decide_eq_false_iff_not, beq_eq_false_iff_ne, not_or] at hrange
    exfalso
    rcases hbad with hb | hb | hb | hb | hb | hb | hb | hb
    · omega
    · omega
    · omega
    · omega
    · omega
    · omega
    · exact hfit hb
    · exact hlock hb

theorem timeSelect_ends {c : Call} {p : TimeSelect} {s : State} (h : Ready 0x0111 c s)
    (hp : ¬(3 < p.tb ∨ p.slew < 1 ∨ 1000 < p.slew ∨ p.threshold < 10 ∨ 1000000 < p.threshold ∨ 65535 < p.startWait)) :
    Ends (.timeSelect c p) 0x0111 c ⟨.ok, 0, []⟩ (withdrawStep (selectTb p.tb (setReg R.TIM_START_WAIT (BitVec.ofNat 32 p.startWait)
      (setReg R.TIM_STEP_THRESH (BitVec.ofNat 32 p.threshold) (setReg R.TIM_SLEW (BitVec.ofNat 32 p.slew) (advance c.t s)))))) s :=
  command_ends (rfl : _ = execTimeSelect c p s) h (if_neg hp)

/-! TIME_ACCEPT_STEP (R89, R90, R93). -/

section
variable {p : TimeAcceptStep} {x : State} (htb : p.tb < 4) (hmode : p.mode ≤ 2)
include htb hmode

theorem acceptStep_notFound (h : (tbOf x p.tb).state ≠ .discontinuity ∨ (tbOf x p.tb).stepId ≠ p.stepId) : acceptStep p x = (x, ⟨.notFound, 0, []⟩) := by
  unfold acceptStep
  rw [dif_pos ⟨htb, hmode⟩]
  exact if_pos h

variable (hstate : (tbOf x p.tb).state = .discontinuity) (hstep : (tbOf x p.tb).stepId = p.stepId)
include hstate hstep

theorem acceptStep_selected (hsel : p.tb = selTb x) :
    acceptStep p x = (if p.mode = 2 then x else waitAccept ⟨p.tb, htb⟩ p.mode p.stepId x, ⟨.ok, 0, []⟩) := by
  unfold acceptStep
  rw [dif_pos ⟨htb, hmode⟩]
  dsimp only
  rw [if_neg (by simp [hstate, hstep]), if_neg (not_not.mpr hsel)]
  rfl

theorem acceptStep_other (hsel : p.tb ≠ selTb x) : acceptStep p x = (leaveStep p.tb p.mode p.stepId x, ⟨.ok, 0, []⟩) := by
  unfold acceptStep
  rw [dif_pos ⟨htb, hmode⟩]
  dsimp only
  rw [if_neg (by simp [hstate, hstep]), if_pos hsel]
  rfl

end

/-- A time base that is not selected leaves DISCONTINUITY for the state that its active path gives it (R81, R93). -/
theorem tbOf_leaveStep {tb mode stepId : Nat} {x : State} (htb : tb < 4) :
    (tbOf (leaveStep tb mode stepId x) tb).state = if (activePath (tbOf x tb)).lost then .holdover else .locked := by
  have hleft : (tbOf (setFlag R.TIM_INT_STAT tb (modTb tb (enterState x.time.now (afterDiscontinuity (tbOf x tb))) x)) tb).state =
      afterDiscontinuity (tbOf x tb) := by
    have hmod := tbOf_modTb tb (enterState x.time.now (afterDiscontinuity (tbOf x tb))) x tb htb
    rw [if_pos rfl] at hmod
    exact (congrArg TimeBase.state hmod).trans (enterState_state _ _ _)
  unfold leaveStep
  dsimp only
  split
  · exact hleft
  · rw [tbOf_of_time (congrArg Time.bases ((notify_told _ _ _ _).only.2.2 .time (by decide)))]
    exact hleft

/-! SHOW_TIMING_SET and TIME_STATUS_GET (R72, R79, R98, R102). -/

theorem showTimingSet_done {c : Call} {p : ShowTimingSet} {s : State} (h : Ready 0x0114 c s) (hrate : rateOk p.n p.d = true)
    (hlock : genlockUsed s = true → genlockOk s p.n p.d = true) (hcarried : rateCarries (advance c.t s) p.n p.d = true) :
    ∃ x, Done (.showTimingSet c p) 0x0114 c ⟨.ok, 0, []⟩ x s ∧ Only [.regs, .time] s x ∧
      x.time = { (advance c.t s).time with rateN := p.n, rateD := p.d } ∧
      ∀ a, reg x a = (([(R.TIM_FORIGIN_HI, hiWord p.origin), (R.TIM_FORIGIN_LO, loWord p.origin), (R.TIM_FRATE_DEN, BitVec.ofNat 32 p.d),
        (R.TIM_FRATE_NUM, BitVec.ofNat 32 p.n)] : List (Nat × Word)).lookup a).getD (reg s a) := by
  have hw0 : RegsWf (advance c.t s).regs := by simpa using h.wf
  have hw1 := setReg_wf hw0 R.TIM_FRATE_NUM (BitVec.ofNat 32 p.n)
  have hw2 := setReg_wf hw1 R.TIM_FRATE_DEN (BitVec.ofNat 32 p.d)
  have hw3 := setReg_wf hw2 R.TIM_FORIGIN_LO (loWord p.origin)
  have hwrote := wrote_setReg (wrote_setReg (wrote_setReg (setReg_wrote hw0 R.TIM_FRATE_NUM (BitVec.ofNat 32 p.n)) hw1
    R.TIM_FRATE_DEN (BitVec.ofNat 32 p.d)) hw2 R.TIM_FORIGIN_LO (loWord p.origin)) hw3 R.TIM_FORIGIN_HI (hiWord p.origin)
  have honly : Only [.regs, .time] s (advance c.t s) := advance_only (by decide) (only_refl _ _)
  refine ⟨_, command_done (rfl : _ = execShowTimingSet c p s) h (if_neg ?_) (setReg_wf hw3 _ _) ?_, ?_, rfl, fun a => (hwrote.regs a).trans ?_⟩
  · simp only [genlockUsed_advance, genlockOk_advance, hrate, hcarried]
    rintro (hbad | ⟨hused, hbad⟩ | hbad)
    · cases hbad
    · rw [hlock hused] at hbad
      cases hbad
    · cases hbad
  · exact (by simpa using h.live : (sess (advance c.t s) c.session).isOpen = true)
  · exact only_of_time (by decide) (only_step honly hwrote.only (by decide))
  · rw [advance_reg]

/-- Settles O23: command by command, in range and out of it. -/
theorem showTimeCommands : Obligations.ShowTimeCommands := by
  unfold Obligations.ShowTimeCommands
  intro c s
  have hmark : (advance c.t s).time.hwmValid = s.time.hwmValid := by rw [advance_time]
  refine ⟨fun p h htb hsource hA hB hdA hdB hfit hlock => timeBaseSet_ends h ⟨htb, hsource, hA, hB, hdA, hdB⟩ hfit hlock,
    fun p h hbad => timeBaseSet_refused h hbad, fun p h _ _ _ _ _ _ => timeSelect_ends h (by omega),
    fun p h hbad => command_reads (rfl : _ = execTimeSelect c p s) h (if_pos hbad), fun p htb x h hmode hx hstate hstep => ?_,
    fun p x h htb hmode hx hnone => ?_, fun p h hrate hlock hcarried => showTimingSet_done h hrate hlock hcarried, fun p h hbad => ?_, fun h => ?_⟩
  · subst hx
    refine ⟨fun hsel hhold => ?_, fun hsel hstepped => ?_, fun hsel => ?_⟩
    · refine command_ends (rfl : _ = execTimeAcceptStep c p s) h ?_
      rw [acceptStep_selected htb hmode hstate hstep hsel, if_pos hhold]
    · refine command_ends (rfl : _ = execTimeAcceptStep c p s) h ?_
      rw [acceptStep_selected htb hmode hstate hstep hsel, if_neg (by omega)]
      rfl
    · exact ⟨_, command_ends (rfl : _ = execTimeAcceptStep c p s) h (acceptStep_other htb hmode hstate hstep hsel),
        leaveStep_only (List.Subset.refl _) (only_refl _ _), tbOf_leaveStep htb, (leaveStep_judged (Judged.refl _)).adj⟩
  · subst hx
    exact command_ends (rfl : _ = execTimeAcceptStep c p s) h (acceptStep_notFound htb hmode hnone)
  · refine command_reads (rfl : _ = execShowTimingSet c p s) h (if_pos ?_)
    rw [genlockUsed_advance, genlockOk_advance]
    exact hbad.imp_right .inl
  · refine ⟨_, command_reads (rfl : _ = execTimeStatusGet c s) h rfl, rfl, ?_⟩
    rw [← selTb_advance c.t s, ← advance_running c.t s, ← hmark]
    rfl

end Sys2Proof.Proofs
end

section
/-! Writes that start an operation (R93, R105, R141, R232, R261, R304). -/

namespace Sys2Proof.Proofs

open Sys2Proof.Machine Sys2Proof.Safety Sys2Proof.Laws

/-- An accepted write acts by the row of its register. -/
theorem busWrite_of_row {a b : Nat} {m : Master} {v : Word} {s : State} (hrow : (findReg a).map RegDesc.base = some b) (hc : writeCause s m a = none) :
    ∃ d, findReg a = some d ∧ d.base = b ∧ busWrite m a v s = writeReg m d a v s := by
  obtain ⟨d, hd, hb⟩ := Option.map_eq_some_iff.mp hrow
  refine ⟨d, hd, hb, ?_⟩
  unfold busWrite
  rw [hc, hd]

theorem radAbsent_of_page {s : State} {a : Nat} (h : pageOf a ≠ 0x48) : radAbsent s a = false := by
  unfold radAbsent
  rw [beq_false_of_ne h, Bool.and_false]

/-- The row of the configurations of the time bases, each at its index. -/
theorem TIM_TBn_CFG_row : ∀ tb : Fin 4, (findReg (R.TIM_TBn_CFG tb)).map RegDesc.base = some (R.TIM_TBn_CFG 0) ∧
    (findReg (R.TIM_TBn_CFG tb)).all (fun d => (tableAddr (R.TIM_TBn_CFG tb) - d.base) / d.stride == tb) = true ∧
    pageOf (R.TIM_TBn_CFG tb) ≠ 0x48 := by decide +kernel

/-! What an accepted write to each of these registers does. -/

section
variable {m : Master} {v : Word} {s : State}

theorem busWrite_TIM_CTRL (hc : writeCause s m R.TIM_CTRL = none) : busWrite m R.TIM_CTRL v s = selectTb (bits v 1 0) s := by
  obtain ⟨d, -, hb, hwrite⟩ := busWrite_of_row (b := R.TIM_CTRL) (v := v) (by decide +kernel) hc
  rw [hwrite]
  unfold writeReg
  simp (decide := true) only [radAbsent_of_page, hb, if_false, if_true]

theorem busWrite_TIM_TBn_CFG {tb : Fin 4} (hc : writeCause s m (R.TIM_TBn_CFG tb) = none) : busWrite m (R.TIM_TBn_CFG tb) v s = tbCfgApply tb v s := by
  obtain ⟨hrow, hindex, hpage⟩ := TIM_TBn_CFG_row tb
  obtain ⟨d, hd, hb, hwrite⟩ := busWrite_of_row (v := v) hrow hc
  rw [hd, Option.all_some, beq_iff_eq] at hindex
  rw [hwrite]
  unfold writeReg
  rw [radAbsent_of_page hpage, hindex]
  simp (decide := true) only [hb, if_false, if_true]

theorem busWrite_ALM_TRACE_CTRL (hc : writeCause s m R.ALM_TRACE_CTRL = none) : ∃ w, busWrite m R.ALM_TRACE_CTRL v s = traceWrite w v s := by
  obtain ⟨d, -, hb, hwrite⟩ := busWrite_of_row (b := R.ALM_TRACE_CTRL) (v := v) (by decide +kernel) hc
  refine ⟨mergeWord d (reg s (homeAddr R.ALM_TRACE_CTRL)) v, hwrite.trans ?_⟩
  unfold writeReg
  simp (decide := true) only [radAbsent_of_page, hb, if_false, if_true, false_and]

theorem busWrite_CMP_COMMIT (hc : writeCause s m R.CMP_COMMIT = none) : busWrite m R.CMP_COMMIT v s = cmpGo v s := by
  obtain ⟨d, -, hb, hwrite⟩ := busWrite_of_row (b := R.CMP_COMMIT) (v := v) (by decide +kernel) hc
  rw [hwrite]
  unfold writeReg
  simp (decide := true) only [radAbsent_of_page, hb, if_false, if_true, false_and]

theorem busWrite_RAS_COMMIT (hc : writeCause s m R.RAS_COMMIT = none) : busWrite m R.RAS_COMMIT v s = rasGo v s := by
  obtain ⟨d, -, hb, hwrite⟩ := busWrite_of_row (b := R.RAS_COMMIT) (v := v) (by decide +kernel) hc
  rw [hwrite]
  unfold writeReg
  simp (decide := true) only [radAbsent_of_page, hb, if_false, if_true, false_and]

theorem busWrite_FXM_COMMIT (hc : writeCause s m R.FXM_COMMIT = none) : busWrite m R.FXM_COMMIT v s = fxmGo v s := by
  obtain ⟨d, -, hb, hwrite⟩ := busWrite_of_row (b := R.FXM_COMMIT) (v := v) (by decide +kernel) hc
  rw [hwrite]
  unfold writeReg
  simp (decide := true) only [radAbsent_of_page, hb, if_false, if_true, false_and]

end

/-! Another time base (R93). -/

/-- C is what the values of the time base and of show time make it. -/
theorem Judged.corr {s t : State} (h : Judged s t) (hw : RegsWf s.regs) : corrC t = corrC s := by
  unfold corrC
  rw [h.running, h.selected hw, (h.values _).time, h.epoch, h.adj, h.st64]

/-- The selection as such: TIM_CTRL, and where the frame ends in the new time base. -/
theorem selectTb_judged {i : Nat} {s : State} (hi : i ≠ selTb s) : ∃ e, Judged { setField R.TIM_CTRL 1 0 i s with time := { s.time with tbEnd := e } } (selectTb i s) := by
  unfold selectTb
  dsimp only
  rw [if_neg hi]
  split
  · exact ⟨s.time.tbEnd, Judged.refl _⟩
  · refine ⟨_, keep_ite (enterDiscontinuity_judged (Judged.refl _)) (keep_ite (planFrame_judged (Judged.refl _)) (withdrawStep_judged (Judged.refl _)))⟩

/-- R93: the time base is selected, and C takes the difference. -/
theorem selectTb_moves {i : Nat} {s : State} (hw : RegsWf s.regs) (hi : i < 4) : selTb (selectTb i s) = i ∧ ShowKept s (selectTb i s) ∧
    (s.time.running = true → corrC (selectTb i s) = corrC s + (tbTime (tbOf s i) - tbTime (tbOf s (selTb s)))) := by
  by_cases hsame : i = selTb s
  · have hstays : selectTb i s = s := if_pos hsame
    rw [hstays, hsame]
    exact ⟨rfl, ShowKept.refl s, fun _ => by omega⟩
  · obtain ⟨e, hjudged⟩ := selectTb_judged hsame
    generalize hs1 : ({ setField R.TIM_CTRL 1 0 i s with time := { s.time with tbEnd := e } } : State) = s1 at hjudged
    have hregs : s1.regs = (setField R.TIM_CTRL 1 0 i s).regs := by rw [← hs1]
    have hw1 : RegsWf s1.regs := by
      rw [hregs]
      exact setField_wf _ _ _ _ hw
    have hkept : ShowKept s s1 := by
      rw [← hs1]
      exact ⟨rfl, rfl, rfl⟩
    have hsel : selTb s1 = i := by
      have hreg : reg s1 R.TIM_CTRL = setBits (reg s R.TIM_CTRL) 1 0 i := by
        rw [reg, hregs]
        exact (setField_reg hw _ _ _ _ _).trans (if_pos rfl)
      unfold selTb
      rw [hreg, bits_setBits _ _ _ _ (by decide)]
      omega
    refine ⟨(hjudged.selected hw1).trans hsel, hkept.trans hjudged.toShowKept, fun hrun => ?_⟩
    rw [hjudged.corr hw1]
    unfold corrC
    rw [hkept.running, hrun, hsel, ← hs1]
    simp only [if_true]
    have hbase (j : Nat) : tbOf ({ setField R.TIM_CTRL 1 0 i s with time := { s.time with tbEnd := e } } : State) j = tbOf s j := rfl
    rw [hbase]
    omega

/-! Another source (R63, R105). -/

/-- The word that TIM_TBn_CFG takes: source 7 as 0, and no reserved bits. -/
def cfgStored (w : Word) : Word := (if bits w 2 0 = 7 then setBits w 2 0 0 else w) &&& 0xFFFFFFC7

theorem bits_source_lt (w : Word) : bits w 2 0 < 8 := Nat.mod_lt _ (by decide)

theorem bits_taken_source (w : Word) : bits (if bits w 2 0 = 7 then setBits w 2 0 0 else w) 2 0 = bits w 2 0 % 7 := by
  have hlt := bits_source_lt w
  split
  · rw [bits_setBits _ _ _ _ (by decide)]
    omega
  · omega

theorem cfgStored_bits (w : Word) : bits (cfgStored w) 2 0 = bits w 2 0 % 7 ∧ bits (cfgStored w) 31 6 = bits w 31 6 := by
  have hmask : ∀ i < 32, i ≤ 2 ∨ 6 ≤ i → (0xFFFFFFC7 : Word).getLsbD i = true := by decide
  have hkeeps (x : Word) {hi lo : Nat} (h : hi ≤ 2 ∨ 6 ≤ lo) (h32 : hi < 32) : bits (x &&& 0xFFFFFFC7) hi lo = bits x hi lo := by
    refine bits_congr fun i h1 h2 => ?_
    rw [BitVec.getLsbD_and, hmask i (by omega) (by omega), Bool.and_true]
  unfold cfgStored
  rw [hkeeps _ (by omega) (by omega), hkeeps _ (by omega) (by omega)]
  refine ⟨bits_taken_source w, ?_⟩
  split
  · exact bits_setBits_ne _ _ _ _ _ _ (.inr (by omega))
  · rfl

/-- A time base of another source starts afresh on path A, in FREE or ACQUIRING (R105). -/
def freshSource (now : Nat) (new : TbState) (x : TimeBase) : TimeBase :=
  { enterState now new x with
    a := { RefPath.reset with rel := (activePath x).rel }, b := RefPath.reset, activeB := false, lastLabel := none }

theorem tellState_bases (i : Nat) (old new : TbState) (cause : Nat) (s : State) : (tellState i old new cause s).time.bases = s.time.bases :=
  congrArg Time.bases ((notify_told _ _ _ _).only.2.2 .time (by decide))

theorem tbCfgApply_source {tb : Fin 4} {w : Word} {s : State} (hw : RegsWf s.regs) (h : bits (tbCfg s tb) 2 0 ≠ bits w 2 0 % 7) :
    reg (tbCfgApply tb w s) (R.TIM_TBn_CFG tb) = cfgStored w ∧
      tbOf (tbCfgApply tb w s) tb = freshSource s.time.now (if bits w 2 0 % 7 = 0 then .free else .acquiring) (tbOf s tb) := by
  have htaken := bits_taken_source w
  unfold tbCfgApply
  dsimp only
  rw [htaken, if_pos h]
  generalize hs2 : modTb tb _ _ = s2
  have hcfg : reg s2 (R.TIM_TBn_CFG tb) = cfgStored w := by
    rw [← hs2]
    exact (reg_setReg hw _ _ _).trans (if_pos rfl)
  have hbase : tbOf s2 tb = freshSource s.time.now (if bits w 2 0 % 7 = 0 then .free else .acquiring) (tbOf s tb) := by
    rw [← hs2, tbOf_modTb_same]
    rfl
  have hw2 : RegsWf s2.regs := by
    rw [← hs2]
    exact setReg_wf hw _ _
  have htold {old new : TbState} := tellState_judged (i := tb) (cause := 3) (old := old) (new := new) (Judged.refl s2)
  refine ⟨?_, ?_⟩
  · refine Eq.trans ?_ hcfg
    split
    · exact ((planFrame_judged htold).regs hw2).2 _ (TIM_TBn_CFG_not_judged tb)
    · exact (htold.regs hw2).2 _ (TIM_TBn_CFG_not_judged tb)
  · refine Eq.trans (tbOf_of_time ?_ _) hbase
    refine keep_ite (P := fun x : State => x.time.bases = s2.time.bases) ?_ ?_ <;> exact tellState_bases _ _ _ _ _

/-! Commits by register (R232, R261, R304). -/

/-- The tag of 32 bits that lies nearest to a frame is the register's. -/
theorem unsignedOf_nearest (k : Int) {r : Nat} (hr : r < 2 ^ 32) : unsignedOf 32 (k - signed 32 (unsignedOf 32 (k - r))) = r := by
  unfold unsignedOf signed
  norm_num at hr ⊢
  split <;> omega

section
variable {v : Word} {s : State} (hv : bitOf v 0 = true)
include hv

theorem cmpGo_arms : ∃ tag at_, cmpGo v s = { s with cmp := { s.cmp with armed := some (tag, at_) } } ∧
    unsignedOf 32 tag = regN s R.CMP_COMMIT_TAG ∧ s.time.fcount < at_ :=
  ⟨_, _, if_neg (by simp [hv]), unsignedOf_nearest _ (reg s _).isLt, lt_of_lt_of_le (Int.lt_succ _) (le_max_right _ _)⟩

theorem rasGo_arms : ∃ tag, rasGo v s = { s with ras := { s.ras with armed := some (tag, tag) } } ∧ unsignedOf 32 tag = regN s R.RAS_COMMIT_TAG :=
  ⟨_, if_neg (by simp [hv]), unsignedOf_nearest _ (reg s _).isLt⟩

theorem fxmGo_arms : ∃ tag at_, fxmGo v s = { s with fxm := { s.fxm with armed := [(tag, at_)] } } ∧
    unsignedOf 32 tag = regN s R.FXM_COMMIT_TAG ∧ s.time.fcount < at_ :=
  ⟨_, _, if_neg (by simp [hv]), unsignedOf_nearest _ (reg s _).isLt, lt_of_lt_of_le (Int.lt_succ _) (le_max_right _ _)⟩

end

/-! The trace ring (R141). -/

theorem traceWrite_unfreezes {w v : Word} {s : State} (hv : bitOf v 1 = true) : (traceWrite w v s).alm =
    (if s.alm.traceFrozen then { s.alm with traceFrozen := false, traceTrigger := none } else s.alm) ∧
    (traceWrite w v s).regs = (setReg R.ALM_TRACE_CTRL w s).regs := by
  unfold traceWrite
  cases hf : s.alm.traceFrozen
  · exact ⟨by simp, by simp⟩
  · simp only [hv, and_self, if_true]
    exact ⟨rfl, rfl⟩

/-- Settles O22: write by write. -/
theorem operationWrites : Obligations.OperationWrites := by
  unfold Obligations.OperationWrites
  intro t m v s hw
  have hw' : RegsWf (advance t s).regs := by simpa using hw
  have hcount : (advance t s).time.fcount = s.time.fcount := by rw [advance_time]
  have honly : Only [.time] s (advance t s) := advance_only (by decide) (only_refl _ _)
  refine ⟨fun tb hc hsource => ?_, fun hc => ?_, fun hc hv => ?_, fun hc hv => ?_, fun hc hv => ?_, fun hc hv => ?_⟩
  · obtain ⟨hreg, hbase⟩ := tbCfgApply_source (w := v) hw' (by rwa [tbCfg_advance])
    obtain ⟨hlow, hhigh⟩ := cfgStored_bits v
    refine ⟨_, congrArg Host.Outcome.next (busWrite_TIM_TBn_CFG (by simpa using hc)), ?_, ?_, ?_, ?_⟩
    · rw [hreg, hlow]
    · rw [hreg, hhigh]
    · rw [hbase]
      rfl
    · rw [hbase]
      exact enterState_state _ _ _
  · obtain ⟨hsel, hkept, hcorr⟩ := selectTb_moves (i := bits v 1 0) hw' (Nat.mod_lt _ (by decide))
    rw [selTb_advance, advance_running] at hcorr
    exact ⟨_, congrArg Host.Outcome.next (busWrite_TIM_CTRL (by simpa using hc)), hsel, hkept.st64, hcorr⟩
  · obtain ⟨w, hwrite⟩ := busWrite_ALM_TRACE_CTRL (v := v) (s := advance t s) (by simpa using hc)
    refine ⟨_, congrArg Host.Outcome.next hwrite, traceWrite_only (by decide) (only_mono honly (by decide)), ?_, fun a ha => ?_⟩
    · rw [(traceWrite_unfreezes hv).1, advance_alm]
    · unfold reg
      rw [(traceWrite_unfreezes hv).2]
      exact ((reg_setReg hw' _ _ _).trans (if_neg (Ne.symm ha))).trans (advance_reg _ _ _)
  · obtain ⟨tag, at_, hgo, htag, hat⟩ := cmpGo_arms (s := advance t s) hv
    refine ⟨_, tag, at_, congrArg Host.Outcome.next (busWrite_CMP_COMMIT (by simpa using hc)), cmpGo_only (by decide) (only_mono honly (by decide)), ?_,
      by rw [htag, advance_regN], by rwa [hcount] at hat⟩
    rw [hgo, advance_cmp]
  · obtain ⟨tag, hgo, htag⟩ := rasGo_arms (s := advance t s) hv
    refine ⟨_, tag, congrArg Host.Outcome.next (busWrite_RAS_COMMIT (by simpa using hc)), rasGo_only (by decide) (only_mono honly (by decide)), ?_,
      by rw [htag, advance_regN]⟩
    rw [hgo, advance_ras]
  · obtain ⟨tag, at_, hgo, htag, hat⟩ := fxmGo_arms (s := advance t s) hv
    refine ⟨_, tag, at_, congrArg Host.Outcome.next (busWrite_FXM_COMMIT (by simpa using hc)), fxmGo_only (by decide) (only_mono honly (by decide)), ?_,
      by rw [htag, advance_regN], by rwa [hcount] at hat⟩
    rw [hgo, advance_fxm]

end Sys2Proof.Proofs
end

section
/-! What notices, answers and the blocks of a domain that goes off leave of housekeeping's own registers, those of SYS and PWR (R57, R603). -/

namespace Sys2Proof.Proofs

open Sys2Proof.Machine Sys2Proof.Safety Sys2Proof.Laws

/-- From `s` to `t` the registers of SYS and PWR, the two lowest pages, stand. -/
def HkcRegs (s t : State) : Prop := RegsWf s.regs → RegsWf t.regs ∧ ∀ a < 0xF0020000, reg t a = reg s a

theorem HkcRegs.refl (s : State) : HkcRegs s s := fun hw => ⟨hw, fun _ _ => rfl⟩

theorem HkcRegs.trans {s t u : State} (h : HkcRegs s t) (g : HkcRegs t u) : HkcRegs s u := fun hw =>
  ⟨(g (h hw).1).1, fun a ha => ((g (h hw).1).2 a ha).trans ((h hw).2 a ha)⟩

section
variable {s0 s t : State} (h : HkcRegs s0 s)
include h

/-- One more operation, which writes no register. -/
theorem HkcRegs.same (hr : t.regs = s.regs) : HkcRegs s0 t :=
  h.trans fun hw => ⟨by rwa [hr], fun a _ => by rw [reg, hr, reg]⟩

theorem HkcRegs.only {l : List Comp} (g : Only l s t) (hl : Comp.regs ∉ l) : HkcRegs s0 t := h.same (g.2.2 .regs hl)

/-! Single changes. -/

theorem setReg_hkcRegs {a : Nat} {w : Word} (ha : 0xF0020000 ≤ a) : HkcRegs s0 (setReg a w s) :=
  h.trans fun hw => ⟨setReg_wf hw a w, fun b hb => (reg_setReg hw a w b).trans (if_neg (by omega))⟩

theorem setFlag_hkcRegs {a i : Nat} (ha : 0xF0020000 ≤ a) : HkcRegs s0 (setFlag a i s) := setReg_hkcRegs h ha

theorem bumpBy_hkcRegs {a n : Nat} (ha : 0xF0020000 ≤ a) : HkcRegs s0 (bumpBy a n s) := setReg_hkcRegs h ha

theorem bump_hkcRegs {a : Nat} (ha : 0xF0020000 ≤ a) : HkcRegs s0 (bump a s) := setReg_hkcRegs h ha

theorem modPool_hkcRegs {f : Pool → Pool} : HkcRegs s0 (modPool f s) := h.same rfl

theorem modPort_hkcRegs {p : Nat} {f : MacPort → MacPort} : HkcRegs s0 (modPort p f s) := h.same rfl

theorem modLane_hkcRegs {l : Nat} {f : Lane → Lane} : HkcRegs s0 (modLane l f s) := h.same rfl

theorem modRad_hkcRegs {f : Rad → Rad} : HkcRegs s0 (modRad f s) := h.same rfl

theorem modMap_hkcRegs {f : Mapper → Mapper} : HkcRegs s0 (modMap f s) := h.same rfl

theorem modFrame_hkcRegs {f : MapFrame → MapFrame} : HkcRegs s0 (modFrame f s) := h.same rfl

theorem modAlm_hkcRegs {f : Almanac → Almanac} : HkcRegs s0 (modAlm f s) := h.same rfl

/-! Notices and answers. -/

theorem notify_hkcRegs {code len : Nat} {fields : List Int} : HkcRegs s0 (notify code len fields s) := by
  have hhigh : ∀ a ∈ noticeRegs, 0xF0020000 ≤ a := by decide
  refine h.trans fun hw => ⟨notify_wf _ _ _ hw, fun a ha => (notify_told code len fields s).regs hw a fun hn => ?_⟩
  have hle := hhigh a hn
  omega

theorem respond_hkcRegs {code : Nat} {c : Call} {p : Reply} : HkcRegs s0 (respond code c p s) := by
  have hhigh : 0xF0020000 ≤ R.TLR_RSP_MAX := by decide
  refine h.trans fun hw => ⟨regsWf_of (respond_keeps _ _ _ _ (Keeps.refl s)) hw, fun a ha => ?_⟩
  unfold respond
  split
  · rfl
  · exact (writeResp_reg _ _ _ _).trans (timeResponse_reg hw _ _ (by omega))

theorem respondFinal_hkcRegs {code : Nat} {c : Call} {p : Reply} : HkcRegs s0 (respondFinal code c p s) := by
  refine h.trans fun hw => ⟨regsWf_of (respondFinal_keeps _ _ _ _ (Keeps.refl s)) hw, fun a ha => ?_⟩
  unfold respondFinal
  split
  · rfl
  · exact writeResp_reg _ _ _ _

theorem respondOwed_hkcRegs {code : Nat} {owed : Option Call} {p : Reply} : HkcRegs s0 (respondOwed code owed p s) := by
  unfold respondOwed
  split
  · exact keep_ite (respond_hkcRegs h) (respondFinal_hkcRegs h)
  · exact h

/-! Late zones, ports and pairs. -/

theorem lateNotice_hkcRegs {z : Nat} : HkcRegs s0 (lateNotice z s) := by
  unfold lateNotice
  exact keep_ite h (notify_hkcRegs (modPool_hkcRegs h))

theorem zoneLate_hkcRegs {stage z : Nat} {k : Int} {pixels : Nat} : HkcRegs s0 (zoneLate stage z k pixels s) := by
  unfold zoneLate
  exact keep_ite h (lateNotice_hkcRegs (modPool_hkcRegs h))

theorem txLate_hkcRegs {f : TxFrame} : HkcRegs s0 (txLate f s) := by
  unfold txLate
  split
  · exact zoneLate_hkcRegs (setFlag_hkcRegs (bump_hkcRegs h (by decide)) (by decide))
  · exact h

theorem portEnqueue_hkcRegs {f : TxFrame} {p : Nat} : HkcRegs s0 (portEnqueue f s p) :=
  h.only (portEnqueue_only (List.Subset.refl _) (only_refl _ _)) (by decide)

theorem refillOne_hkcRegs {p : Nat} {f : TxFrame} : HkcRegs s0 (refillOne p s f) := by
  unfold refillOne
  split
  · exact keep_ite (txLate_hkcRegs h) (portEnqueue_hkcRegs h)
  · exact portEnqueue_hkcRegs h

theorem portPass_hkcRegs {old new : Nat} : HkcRegs s0 (portPass old new s) :=
  keep_foldl (modPort_hkcRegs h) fun _ _ hx => refillOne_hkcRegs hx

omit h in
theorem MAC_INT_STAT_high (p : Nat) : 0xF0020000 ≤ R.MAC_INT_STAT p := by
  unfold R.MAC_INT_STAT
  omega

theorem pairSwitch_hkcRegs {q cause : Nat} : HkcRegs s0 (pairSwitch q cause s) := by
  unfold pairSwitch
  refine portPass_hkcRegs (notify_hkcRegs (setFlag_hkcRegs (h.only (l := [.mac]) ?_ (by decide)) (MAC_INT_STAT_high _)))
  exact modMac_only (List.Subset.refl _) (portFlush_only (List.Subset.refl _) (only_refl _ _))

theorem linkLeave_hkcRegs {p cause : Nat} {to_ : LinkState} : HkcRegs s0 (linkLeave p cause to_ s) := by
  unfold linkLeave
  dsimp only
  have hleft {f : MacPort → MacPort} : HkcRegs s0 (notify 0x8250 16 [p, 0, portMode s p, cause, st64 s]
      (setFlag (R.MAC_INT_STAT p) 0 (tallyUp p 21 (modPort p f s)))) :=
    notify_hkcRegs (setFlag_hkcRegs (modPort_hkcRegs (modPort_hkcRegs h)) (MAC_INT_STAT_high p))
  exact keep_ite (modPort_hkcRegs h) (keep_ite (keep_ite (pairSwitch_hkcRegs hleft) hleft) hleft)

theorem tsqDrop_hkcRegs {p : Nat} : HkcRegs s0 (tsqDrop p s) := by
  have hstat : 0xF0020000 ≤ R.MAC_TSQ_STAT p := by
    unfold R.MAC_TSQ_STAT
    omega
  have hdrop : HkcRegs s0 (setFlag (R.MAC_INT_STAT p) 3 (setFlag (R.MAC_TSQ_STAT p) 31 (tallyUp p 20 s))) :=
    setFlag_hkcRegs (setFlag_hkcRegs (modPort_hkcRegs h) hstat) (MAC_INT_STAT_high p)
  unfold tsqDrop
  exact keep_ite (modPort_hkcRegs hdrop) (notify_hkcRegs (modPort_hkcRegs hdrop))

theorem tsqSettle_hkcRegs {p : Nat} : HkcRegs s0 (tsqSettle p s) := by
  unfold tsqSettle
  split
  · exact keep_ite (tsqDrop_hkcRegs (modPort_hkcRegs h)) h
  · exact h

theorem tallyGather_hkcRegs {p : Nat} : HkcRegs s0 (tallyGather s p) :=
  modPort_hkcRegs ((tsqSettle_hkcRegs h).only (pauseSettle_only (List.Subset.refl _) (only_refl _ _)) (by decide))

/-! Lanes. -/

theorem ctrlFailed_hkcRegs {c : Ctrl} {data : Word} {status : Nat} : HkcRegs s0 (ctrlFailed c data status s) := by
  unfold ctrlFailed
  split
  · exact respondOwed_hkcRegs h
  · exact respondOwed_hkcRegs h
  · exact respondOwed_hkcRegs h
  · exact h

theorem laneAbort_hkcRegs {l : Nat} : HkcRegs s0 (laneAbort l s) := keep_foldl h fun _ _ hx => ctrlFailed_hkcRegs hx

theorem laneEnter_hkcRegs {l : Nat} {st : LaneState} {seen cause : Nat} : HkcRegs s0 (laneEnter l st seen cause s) := by
  have hcount : 0xF0020000 ≤ R.LNE_Ln_CNT_FOLD l := by
    unfold R.LNE_Ln_CNT_FOLD
    omega
  have hfold : HkcRegs s0 (if (laneOf s l).seen = seen then s else setFlag R.LNE_INT_STAT 4 (bump (R.LNE_Ln_CNT_FOLD l) s)) :=
    keep_ite h (setFlag_hkcRegs (bump_hkcRegs h hcount) (by decide))
  unfold laneEnter
  exact keep_ite h (notify_hkcRegs (modLane_hkcRegs (keep_ite hfold (setFlag_hkcRegs hfold (by decide)))))

theorem laneOff_hkcRegs {l cause : Nat} : HkcRegs s0 (laneOff l cause s) :=
  keep_ite h (laneEnter_hkcRegs (modLane_hkcRegs (laneAbort_hkcRegs h)))

theorem lanesOff_hkcRegs : HkcRegs s0 (lanesOff s) := by
  have hlanes : HkcRegs s0 ((List.range 32).foldl (fun y l => laneOff l 0 y) s) := keep_foldl h fun _ _ hx => laneOff_hkcRegs hx
  unfold lanesOff
  generalize (List.range 32).foldl (fun y l => laneOff l 0 y) s = x at hlanes
  exact hlanes.same rfl

/-! Work of a zone whose data an engine's failure completes. -/

theorem traceRec_hkcRegs {r : TraceRec} : HkcRegs s0 (traceRec r s) := h.only (traceRec_only (List.Subset.refl _) (only_refl _ _)) (by decide)

theorem discardDescriptor_hkcRegs {d : Descriptor} : HkcRegs s0 (discardDescriptor s d) :=
  (traceRec_hkcRegs (bump_hkcRegs h (by decide))).only (workEnded_only (List.Subset.refl _) (only_refl _ _)) (by decide)

theorem refuseInsert_hkcRegs {list : Nat} : HkcRegs s0 (refuseInsert list s) := by
  have hcount : HkcRegs s0 (setFlag R.ALM_INT_STAT 1 (bump R.ALM_CNT_OVERFLOW s)) := setFlag_hkcRegs (bump_hkcRegs h (by decide)) (by decide)
  unfold refuseInsert
  exact keep_ite (modAlm_hkcRegs hcount) (notify_hkcRegs (modAlm_hkcRegs hcount))

theorem insertDescriptor_hkcRegs {d : Descriptor} : HkcRegs s0 (insertDescriptor d s) := by
  unfold insertDescriptor
  exact keep_ite (h.only (placeDescriptor_only (List.Subset.refl _) (only_refl _ _)) (by decide))
    (modAlm_hkcRegs (refuseInsert_hkcRegs (traceRec_hkcRegs h)))

theorem dropJob_hkcRegs {l : Nat} {j : PixelJob} : HkcRegs s0 (dropJob l j s) := by
  have hcount : 0xF0020000 ≤ R.LNE_Ln_CNT_LATE l := by
    unfold R.LNE_Ln_CNT_LATE
    omega
  exact zoneLate_hkcRegs (setFlag_hkcRegs (bumpBy_hkcRegs (modLane_hkcRegs h) hcount) (by decide))

theorem flowLate_hkcRegs {n : Nat} {d : Descriptor} : HkcRegs s0 (flowLate n d s) :=
  zoneLate_hkcRegs (setFlag_hkcRegs (bumpBy_hkcRegs h (by decide)) (by decide))

theorem lateWork_hkcRegs {d : Descriptor} : HkcRegs s0 (lateWork s d) := by
  unfold lateWork
  split
  case h_1 => exact flowLate_hkcRegs h
  case h_2 l _ =>
    have htake : HkcRegs s0 (laneTake l d.zone d.frame s) := h.only (laneTake_only (List.Subset.refl _) (only_refl _ _)) (by decide)
    dsimp only
    split
    · exact dropJob_hkcRegs htake
    · exact htake
  case h_3 => exact zoneLate_hkcRegs h
  case h_4 => exact h.same rfl
  case h_5 => exact h

theorem releaseWork_hkcRegs {r : Cfg} {d : Descriptor} : HkcRegs s0 (releaseWork r s d) := by
  unfold releaseWork
  split
  · exact keep_ite (lateWork_hkcRegs (discardDescriptor_hkcRegs h)) (insertDescriptor_hkcRegs h)
  · exact insertDescriptor_hkcRegs h

theorem zoneData_hkcRegs {z : Nat} {k : Int} : HkcRegs s0 (zoneData z k s) := by
  unfold zoneData
  split
  · exact keep_foldl h fun _ _ hx => releaseWork_hkcRegs hx
  · exact modPool_hkcRegs h

theorem zoneReady_hkcRegs {z : Nat} {k : Int} : HkcRegs s0 (zoneReady z k s) := keep_ite (zoneData_hkcRegs (modPool_hkcRegs h)) h

theorem valuesLate_hkcRegs {keys : List Nat} : HkcRegs s0 (valuesLate keys s) := by
  unfold valuesLate
  exact bumpBy_hkcRegs (modRad_hkcRegs (keep_foldl h fun _ _ hx => zoneLate_hkcRegs hx)) (by decide)

theorem radioRelease_hkcRegs {z : Nat} {k : Int} : HkcRegs s0 (radioRelease z k s) := by
  unfold radioRelease
  split
  · exact h
  · exact keep_foldl (valuesLate_hkcRegs h) fun _ _ hx => modRad_hkcRegs hx

theorem windowReady_hkcRegs {z : Nat} {k : Int} : HkcRegs s0 (windowReady z k s) := keep_ite (radioRelease_hkcRegs (zoneReady_hkcRegs h)) h

theorem zonePush_hkcRegs {z : Nat} : HkcRegs s0 (zonePush z s) := by
  unfold zonePush
  split
  · exact h
  · exact keep_ite h (keep_ite (windowReady_hkcRegs (modPool_hkcRegs h)) h)

/-! Mapper engines that fail with their domain. -/

theorem tileEnd_hkcRegs {n : Nat} {r : TileRec} : HkcRegs s0 (tileEnd n r s) := by
  unfold tileEnd
  have hrec : HkcRegs s0 (modFrame (fun g => { g with
    ended := aPut g.ended n r, lastDone := if (aFind g.ended n).isSome then g.lastDone else max g.lastDone s.time.st64 }) s) := modFrame_hkcRegs h
  dsimp only
  split
  · exact (keep_ite (zonePush_hkcRegs hrec) hrec).only (frameDone_only (List.Subset.refl _) (only_refl _ _)) (by decide)
  · exact hrec

theorem repeatTile_hkcRegs {ps : List TilePart} : HkcRegs s0 (repeatTile ps s) :=
  h.only (repeatTile_only (List.Subset.refl _) (only_refl _ _)) (by decide)

theorem engineDown_hkcRegs {cause e : Nat} : HkcRegs s0 (engineDown cause e s).1 := by
  unfold engineDown
  have hdown : HkcRegs s0 (bumpBy (R.MAP_CNT_WAIT 0) (heldWait s (mapEngine s e))
      (mapFlag 0 (modMapEngine e (fun y => { y with role := .failed, cause := cause, held := none, testBad := 0 }) s))) :=
    bumpBy_hkcRegs (setFlag_hkcRegs (modMap_hkcRegs h) (by decide)) (by decide)
  dsimp only
  split
  · exact hdown
  · rw [apply_ite Prod.fst]
    refine keep_ite hdown (keep_foldl (modFrame_hkcRegs (setFlag_hkcRegs (bumpBy_hkcRegs ?_ (by decide)) (by decide)))
      fun _ _ hx => tileEnd_hkcRegs hx)
    exact keep_foldl hdown fun _ _ hx => repeatTile_hkcRegs hx

theorem enginesFail_hkcRegs {cause : Nat} {es : List Nat} : HkcRegs s0 (enginesFail cause es s) := by
  unfold enginesFail
  refine keep_ite h (keep_foldl (.only (l := [.fxm]) ?_ (reshed_only (List.Subset.refl _) (only_refl _ _)) (by decide))
    fun _ _ hx => notify_hkcRegs hx)
  have hdown (l : List Nat) (a : State × List (Nat × Nat)) (ha : HkcRegs s0 a.1) :
      HkcRegs s0 (l.foldl (fun (a : State × List (Nat × Nat)) e =>
        let d := engineDown cause e a.1
        (d.1, a.2 ++ [d.2])) a).1 := by
    induction l generalizing a with
    | nil => exact ha
    | cons e r ih => exact ih _ (engineDown_hkcRegs ha)
  exact hdown _ _ h

theorem mapDomainOff_hkcRegs {d : Nat} : HkcRegs s0 (mapDomainOff d s) := by
  unfold mapDomainOff
  exact modMap_hkcRegs (keep_foldl (enginesFail_hkcRegs h) fun _ _ hx => modMap_hkcRegs hx)

end

end Sys2Proof.Proofs
end

section
/-! What records, sessions that end, and the domains' next step leave of housekeeping's registers (R57, R603). -/

namespace Sys2Proof.Proofs

open Sys2Proof.Machine Sys2Proof.Safety Sys2Proof.Laws

section
variable {s0 s : State} (h : HkcRegs s0 s)
include h

/-! Records and flushes. -/

theorem modLgr_hkcRegs {f : Ledger → Ledger} : HkcRegs s0 (modLgr f s) := h.same rfl

theorem putRecord_hkcRegs {r : LgrRec} : HkcRegs s0 (putRecord r s) := by
  have htook {x : State} {w : Word} (hx : HkcRegs s0 x) : HkcRegs s0 (bump R.LGR_CNT_REC (setReg R.LGR_NEXT_SEQ w x)) :=
    bump_hkcRegs (setReg_hkcRegs hx (by decide)) (by decide)
  have hfull {x : State} {a : Nat} (ha : 0xF0020000 ≤ a) (hx : HkcRegs s0 x) : HkcRegs s0 (setFlag R.LGR_INT_STAT 1 (bump a x)) :=
    setFlag_hkcRegs (bump_hkcRegs hx ha) (by decide)
  unfold putRecord
  exact keep_ite (keep_ite (htook (modLgr_hkcRegs h)) (hfull (by decide) (modLgr_hkcRegs h)))
    (keep_ite (htook (modLgr_hkcRegs h)) (hfull (by decide) (modLgr_hkcRegs h)))

theorem putEvent_hkcRegs {code : Nat} {fields : List Int} : HkcRegs s0 (putEvent code fields s) := keep_foldl h fun _ _ hx => putRecord_hkcRegs hx

theorem setTracker_hkcRegs {i : Nat} {x : Tracker} : HkcRegs s0 (setTracker i x s) := modLgr_hkcRegs h

theorem summarize_hkcRegs {i : Nat} : HkcRegs s0 (summarize i s) := keep_ite h (putEvent_hkcRegs (setTracker_hkcRegs h))

theorem flushStart_hkcRegs {all : Bool} {owed : List Call} : HkcRegs s0 (flushStart all owed s) := by
  unfold flushStart
  refine keep_ite h ?_
  split
  · exact modLgr_hkcRegs h
  · exact modLgr_hkcRegs (keep_foldl h fun _ _ hx => summarize_hkcRegs hx)

theorem lossNotice_hkcRegs {cause n : Nat} : HkcRegs s0 (lossNotice cause n s) := notify_hkcRegs (setFlag_hkcRegs h (by decide))

theorem reportDropped_hkcRegs : HkcRegs s0 (reportDropped s) := by
  unfold reportDropped
  exact keep_ite h (lossNotice_hkcRegs (putEvent_hkcRegs (modLgr_hkcRegs h)))

theorem reportSide_hkcRegs {n : Nat} : HkcRegs s0 (reportSide n s) := keep_ite h (lossNotice_hkcRegs (putEvent_hkcRegs h))

theorem thawSag_hkcRegs : HkcRegs s0 (thawSag s) := keep_ite h (reportSide_hkcRegs (setFlag_hkcRegs (modLgr_hkcRegs h) (by decide)))

theorem thaw_hkcRegs : HkcRegs s0 (thaw s) := by
  have hthawed {x : State} (hx : HkcRegs s0 x) : HkcRegs s0 (thawed x) := by
    unfold thawed
    exact keep_ite (flushStart_hkcRegs (reportDropped_hkcRegs hx)) (reportDropped_hkcRegs hx)
  unfold thaw
  split
  · exact h
  · exact hthawed (reportSide_hkcRegs (bumpBy_hkcRegs (setFlag_hkcRegs (modLgr_hkcRegs h) (by decide)) (by decide)))

theorem recordEvent_hkcRegs {code : Nat} {fields : List Int} : HkcRegs s0 (recordEvent code fields s) := by
  have hrecord {x : State} (hx : HkcRegs s0 x) : HkcRegs s0 (putEvent code fields (summarize (trackerOf code) x)) :=
    putEvent_hkcRegs (summarize_hkcRegs hx)
  unfold recordEvent
  dsimp only
  refine keep_ite (bump_hkcRegs (setTracker_hkcRegs h) (by decide)) ?_
  generalize hs1 : (if (credit s.time.now (tracker s (trackerOf code))).rate = 0 then s else _) = s1
  have h1 : HkcRegs s0 s1 := by
    rw [← hs1]
    exact keep_ite h (setTracker_hkcRegs h)
  exact keep_ite (flushStart_hkcRegs (hrecord h1)) (hrecord h1)

omit h in
theorem recordAll_hkcRegs {fuel : Nat} (h : HkcRegs s0 s) : HkcRegs s0 (recordAll fuel s) := by
  induction fuel generalizing s with
  | zero => exact h
  | succ n ih =>
    refine keep_ite h (ih ?_)
    have htaken (r : List (Nat × Int × List Int)) : HkcRegs s0 { s with teller := { s.teller with ledgerOffers := r } } := h.same rfl
    unfold recordOffer
    split
    · exact keep_ite (recordEvent_hkcRegs (htaken _)) h
    · exact h

theorem flushNow_hkcRegs : HkcRegs s0 (flushNow s) := by
  have hfault {x : State} (hx : HkcRegs s0 x) : HkcRegs s0 (flushFault x) := by
    unfold flushFault
    refine keep_foldl (lossNotice_hkcRegs (setFlag_hkcRegs (modLgr_hkcRegs hx) (by decide))) fun y c hy => ?_
    have hdrawn (fields : List Int) : HkcRegs s0 (draw (ledgerEvent 0x0008 fields y)) := hy.same rfl
    unfold internalAnswer
    exact respondOwed_hkcRegs (hdrawn _)
  have hrun {bad : List Bool} {x : State} (hx : HkcRegs s0 x) : HkcRegs s0 (flushRun bad x) := by
    unfold flushRun
    split
    · exact hx
    · dsimp only
      split
      · exact modLgr_hkcRegs hx
      · exact hfault (modLgr_hkcRegs hx)
  have hdone {x : State} (hx : HkcRegs s0 x) : HkcRegs s0 (flushDone x) := by
    unfold flushDone
    split
    · exact hx
    · rename_i f _
      refine keep_ite hx ?_
      have hended : HkcRegs s0 (reportDropped (f.owed.foldl (fun x c => respond 0x0686 c ⟨.ok, 0, []⟩ x)
          (setFlag R.LGR_INT_STAT 0 (bump R.LGR_CNT_FLUSH (modLgr (fun l => { l with flush := none, flushAt := x.time.now, flushSt := st64 x }) x))))) :=
        reportDropped_hkcRegs (keep_foldl (setFlag_hkcRegs (bump_hkcRegs (modLgr_hkcRegs hx) (by decide)) (by decide))
          fun _ _ hy => respond_hkcRegs hy)
      dsimp only
      split
      · exact flushStart_hkcRegs hended
      · exact hended
  exact hdone (hrun (flushStart_hkcRegs h))

/-! Sessions that end. -/

theorem lgrGone_hkcRegs {i : Fin 5} : HkcRegs s0 (lgrGone i s) := by
  unfold lgrGone
  refine modLgr_hkcRegs ?_
  split
  · exact keep_ite (thaw_hkcRegs h) h
  · exact h

theorem sessionClose_hkcRegs {i : Fin 5} : HkcRegs s0 (sessionClose i s) := by
  have hgone : HkcRegs s0 (lgrGone i s) := lgrGone_hkcRegs h
  have hcleared : HkcRegs s0 (modSess i (fun _ => Session.closed) (sessionGone i s)) := by
    unfold sessionGone
    generalize lgrGone i s = x at hgone
    exact hgone.same rfl
  exact keep_ite (h.same rfl) hcleared

theorem tellerStop_hkcRegs : HkcRegs s0 (tellerStop s) := by
  have hclosed : HkcRegs s0 ((List.finRange 5).foldl (fun s i => sessionClose i s) s) := keep_foldl h fun _ _ hx => sessionClose_hkcRegs hx
  unfold tellerStop
  generalize (List.finRange 5).foldl (fun s i => sessionClose i s) s = x at hclosed
  exact hclosed.same rfl

/-! Domains. -/

omit h in
/-- No domain but housekeeping's own takes its registers. -/
theorem lostWith_low {d a : Nat} (hd : 2 ≤ d) (ha : a < 0xF0020000) (x : State) : lostWith x d a = false := by
  have hpage : pageOf a = 0 ∨ pageOf a = 1 := by
    unfold pageOf regBase
    omega
  have hcluster : clusterReg a = false := by
    unfold clusterReg
    rcases hpage with hp | hp <;> simp [hp]
  have hdomain : domainOf a = 1 := by
    unfold domainOf
    rcases hpage with hp | hp <;> simp [hp]
  have hother : (domainOf a == d) = false := beq_false_of_ne (by omega)
  simp [lostWith, hcluster, hother]

theorem loseRegs_hkcRegs {d : Nat} (hd : 2 ≤ d) : HkcRegs s0 (loseRegs d s) := by
  refine h.trans fun hw => ⟨regsWf_of (loseRegs_keeps d s (Keeps.refl s)) hw, fun a ha => ?_⟩
  have hstays : aFind (s.regs.cells.filter (fun c => !lostWith s d c.1)) a = aFind s.regs.cells a :=
    aFind_filter_key (p := fun k => !lostWith s d k) (by rw [lostWith_low hd ha]; rfl)
  unfold reg loseRegs
  rw [hstays]

theorem domainLeave_hkcRegs {d : Nat} (hd : 2 ≤ d) : HkcRegs s0 (domainLeave d s) := by
  have hports (l : List Nat) : HkcRegs s0 (l.foldl (fun y p =>
      modPort p (fun q => { MacPort.reset with acc := q.acc, tally := Vector.replicate 24 0 }) (linkLeave p 2 .down (tallyGather y p))) s) :=
    keep_foldl h fun _ _ hx => modPort_hkcRegs (linkLeave_hkcRegs (tallyGather_hkcRegs hx))
  have hstops {x : State} (hx : HkcRegs s0 x) : HkcRegs s0 (rasStop (vinStop x)) :=
    hx.only (l := [.vin, .ras]) (rasStop_only (by decide) (vinStop_only (by decide) (only_refl _ _))) (by decide)
  unfold domainLeave
  refine loseRegs_hkcRegs ?_ hd
  split
  case h_1 => exact h.only (cmpOff_only (List.Subset.refl _) (only_refl _ _)) (by decide)
  case h_2 => exact mapDomainOff_hkcRegs h
  case h_3 => exact mapDomainOff_hkcRegs h
  case h_4 => exact h.only (almOff_only (List.Subset.refl _) (only_refl _ _)) (by decide)
  case h_5 => exact keep_ite (hstops (hports _)) (hports _)
  case h_6 => exact keep_ite (hstops (hports _)) (hports _)
  case h_7 => exact keep_ite (hstops (hports _)) (hports _)
  case h_8 => exact lanesOff_hkcRegs h
  case h_9 => exact modRad_hkcRegs h
  case h_10 => exact modPort_hkcRegs (linkLeave_hkcRegs (tallyGather_hkcRegs h))
  case h_11 => exact (sessionClose_hkcRegs h).same rfl
  case h_12 => exact h

theorem WithDomains.hkcRegs {t : State} (g : WithDomains s t) : HkcRegs s0 t := by
  obtain ⟨_, rfl⟩ := g
  exact h.same rfl

theorem kick_hkcRegs : HkcRegs s0 (kick s) := by
  obtain hk | ⟨s1, d, h1, hdown, hk⟩ := kick_cases s
  · exact WithDomains.hkcRegs h hk
  · have hd : 2 ≤ d := by
      by_contra hlow
      rw [needsDown_low (by omega)] at hdown
      cases hdown
    exact WithDomains.hkcRegs (domainLeave_hkcRegs (WithDomains.hkcRegs h h1) hd) hk

end

end Sys2Proof.Proofs
end

section
/-! What a change of mode and a sag's end leave of the hold, of W1 and of PWR_INT_STAT (R583, R584, R591, R594). -/

namespace Sys2Proof.Proofs

open Sys2Proof.Machine Sys2Proof.Safety Sys2Proof.Laws

section
variable {s0 s : State} (h : HkcRegs s0 s)
include h

/-- Show time stops: registers are written by the answers and notices that this sends, and by TIM's flags. -/
theorem showStop_hkcRegs : HkcRegs s0 (showStop s) := by
  have hfinished {x : State} (hx : HkcRegs s0 x) : HkcRegs s0 (finishAccepted x) := by
    refine keep_foldl hx fun y a hy => ?_
    have hwritten : HkcRegs s0 (bothParts a.cfg (recordsWritten y.cfgB a (flipBanks y.cfgB a.cfg y))) :=
      hy.only (l := [.cfgA, .cfgB, .pho]) (bothParts_only (by decide) (recordsWritten_only (by decide) (flipBanks_only (by decide) (only_refl _ _))))
        (by decide)
    unfold commitDone
    generalize bothParts a.cfg (recordsWritten y.cfgB a (flipBanks y.cfgB a.cfg y)) = z at hwritten
    exact respondOwed_hkcRegs (hwritten.only (l := [.teller]) (modTeller_only (by decide) (only_refl _ _)) (by decide))
  have halm {x : State} (hx : HkcRegs s0 x) : HkcRegs s0 (almStop x) := by
    unfold almStop
    exact modAlm_hkcRegs (keep_foldl hx fun y e hy => keep_foldl hy fun _ _ hz => notify_hkcRegs hz)
  have htime {x : State} (hx : HkcRegs s0 x) : HkcRegs s0 (timeStop x) := by
    have hflags : HkcRegs s0 (stopFlags x) := keep_foldl hx fun y i hy => keep_ite (setFlag_hkcRegs hy (by decide)) hy
    have hidle : HkcRegs s0 { x with time := { x.time with startDue := none } } := hx.same rfl
    unfold timeStop
    refine keep_ite hidle ?_
    generalize stopFlags x = y at hflags
    exact hflags.same rfl
  have hbegin : HkcRegs s0 (modTeller (fun x => { x with openCommit := none, stages := [], tagFloor := none }) s) := h.same rfl
  unfold showStop
  refine htime (HkcRegs.only (l := [.vin, .cmp, .ras, .fxm, .lanes, .protect, .pool, .map, .dmx, .rad, .esc]) (halm (hfinished hbegin)) ?_ (by decide))
  exact escStop_only (by decide) (radStop_only (by decide) (mapStop_only (by decide) (pktStop_only (by decide) (lneStop_only (by decide)
    (fxmStop_only (by decide) (rasStop_only (by decide) (cmpStop_only (by decide) (vinStop_only (by decide) (only_refl _ _)))))))))

theorem passAbort_hkcRegs : HkcRegs s0 (passAbort s) := by
  have hended {x : State} (hx : HkcRegs s0 x) : HkcRegs s0 (passEnd 1 none x) := by
    have hcal (f : Cal → Cal) : HkcRegs s0 (modCal f x) := hx.same rfl
    unfold passEnd
    split
    · exact hx
    · exact respondOwed_hkcRegs (notify_hkcRegs (setFlag_hkcRegs (keep_ite (bump_hkcRegs (hcal _) (by decide)) (hcal _)) (by decide)))
  have hcal (f : Cal → Cal) : HkcRegs s0 (modCal f s) := h.same rfl
  unfold passAbort
  split
  · exact h
  · exact hended (hcal _)

theorem thermalJudge_hkcRegs : HkcRegs s0 (thermalJudge s) := by
  have hpower {x : State} (hx : HkcRegs s0 x) (f : Power → Power) : HkcRegs s0 (modPower f x) := hx.same rfl
  have hshed {x : State} (hx : HkcRegs s0 x) : HkcRegs s0 (thermalShed x) := hx.only (thermalShed_only (List.Subset.refl _) (only_refl _ _)) (by decide)
  have hmove {old new : Nat} {x : Int} {sensor : Nat} : HkcRegs s0 (thermalMove old new x sensor s) := by
    have hwarn {y : State} (hy : HkcRegs s0 y) : HkcRegs s0 (if old = 0 then setFlag R.PVT_INT_STAT 0 (bump R.PVT_CNT_WARN y) else y) :=
      keep_ite (setFlag_hkcRegs (bump_hkcRegs hy (by decide)) (by decide)) hy
    have hshow {y : State} (hy : HkcRegs s0 y) : HkcRegs s0 (if new = 2 then setFlag R.PVT_INT_STAT 1 (bump R.PVT_CNT_SHED y) else y) :=
      keep_ite (setFlag_hkcRegs (bump_hkcRegs hy (by decide)) (by decide)) hy
    unfold thermalMove
    dsimp only
    have htold (y : State) (hy : HkcRegs s0 y) (fields : List Int) : HkcRegs s0 (if new = 2 then
        (if s.power.mode = .soak then modPower (fun p => { p with boost := false }) (notify 0x8303 16 fields y) else thermalShed (notify 0x8303 16 fields y))
        else if new = 0 ∧ s.power.mode = .soak then modPower (fun p => { p with boost := true }) (notify 0x8303 16 fields y)
        else notify 0x8303 16 fields y) :=
      keep_ite (keep_ite (hpower (notify_hkcRegs hy) _) (hshed (notify_hkcRegs hy))) (keep_ite (hpower (notify_hkcRegs hy) _) (notify_hkcRegs hy))
    exact htold _ (hshow (hwarn (hpower h _))) _
  unfold thermalJudge
  split
  · exact h
  · exact keep_ite h hmove

end

/-- From `p` to `q` heat was judged: of power the level, the zones that it sheds and SOAK's boost alone may differ. -/
def Heats (p q : Power) : Prop := q = { p with
  boost := q.boost
  thermal := { p.thermal with
    level := q.thermal.level, shedZones := q.thermal.shedZones, lastShed := q.thermal.lastShed, lastCool := q.thermal.lastCool } }

section
variable {p : Power} {s : State} (h : Heats p s.power)
include h

theorem modPower_heats {f : Power → Power} (hf : Heats s.power (f s.power)) : Heats p (modPower f s).power := by
  change Heats p (f s.power)
  unfold Heats at *
  rw [hf, h]

/-- One more operation, which touches nothing of power. -/
theorem heats_only {l : List Comp} {t : State} (g : Only l s t) (hl : Comp.power ∉ l) : Heats p t.power := by
  have hpower : t.power = s.power := g.2.2 _ hl
  rwa [hpower]

theorem thermalShed_heats : Heats p (thermalShed s).power := by
  unfold thermalShed
  split
  · exact h
  · split <;> exact modPower_heats h rfl

theorem thermalMove_heats {old new : Nat} {x : Int} {sensor : Nat} : Heats p (thermalMove old new x sensor s).power := by
  have hflag {c : Prop} [Decidable c] {a b i : Nat} {y : State} (hy : Heats p y.power) : Heats p (if c then setFlag a i (bump b y) else y).power :=
    keep_ite (P := fun y => Heats p y.power) hy hy
  unfold thermalMove
  dsimp only
  generalize hs1 : modThermal _ s = s1
  have h1 : Heats p s1.power := by
    rw [← hs1]
    exact modPower_heats h rfl
  generalize hs4 : notify 0x8303 16 _ _ = s4
  have h4 : Heats p s4.power := by
    rw [← hs4]
    exact heats_only (hflag (hflag h1)) (notify_only (List.Subset.refl _) (only_refl _ _)) (by decide)
  exact keep_ite (P := fun y => Heats p y.power) (keep_ite (P := fun y => Heats p y.power) (modPower_heats h4 rfl) (thermalShed_heats h4))
    (keep_ite (P := fun y => Heats p y.power) (modPower_heats h4 rfl) h4)

theorem thermalJudge_heats : Heats p (thermalJudge s).power := by
  unfold thermalJudge
  split
  · exact h
  · exact keep_ite (P := fun y => Heats p y.power) h (thermalMove_heats h)

end

/-- A flag that is set shows. -/
theorem setFlag_shows {a i : Nat} {s : State} (hw : RegsWf s.regs) (hi : i < 32) : bitOf (reg (setFlag a i s) a) i = true := by
  rw [setFlag_reg hw, if_pos rfl]
  exact bitOf_setFlag _ _ hi

/-- From `s` to `t` the hold and W1 are as they were, and flag `i` of PWR_INT_STAT, if set, is set still. -/
structure SagStands (i : Nat) (s t : State) : Prop where
  hold : t.power.hold = s.power.hold
  w1 : t.power.w1 = s.power.w1
  flag : RegsWf s.regs → RegsWf t.regs ∧ (bitOf (reg s R.PWR_INT_STAT) i = true → bitOf (reg t R.PWR_INT_STAT) i = true)

theorem SagStands.refl (i : Nat) (s : State) : SagStands i s s := ⟨rfl, rfl, fun hw => ⟨hw, fun hb => hb⟩⟩

theorem SagStands.trans {i : Nat} {s t u : State} (h : SagStands i s t) (g : SagStands i t u) : SagStands i s u :=
  ⟨g.hold.trans h.hold, g.w1.trans h.w1, fun hw => ⟨(g.flag (h.flag hw).1).1, fun hb => (g.flag (h.flag hw).1).2 ((h.flag hw).2 hb)⟩⟩

theorem HkcRegs.flag {i : Nat} {s t : State} (h : HkcRegs s t) (hw : RegsWf s.regs) :
    RegsWf t.regs ∧ (bitOf (reg s R.PWR_INT_STAT) i = true → bitOf (reg t R.PWR_INT_STAT) i = true) :=
  ⟨(h hw).1, fun hb => by rwa [(h hw).2 _ (by decide)]⟩

section
variable {i : Nat} {s0 s t : State} (h : SagStands i s0 s)
include h

/-- One more operation, which touches nothing of power, nor of housekeeping's registers. -/
theorem SagStands.only {l : List Comp} (g : Only l s t) (hp : Comp.power ∉ l) (hr : HkcRegs s t) : SagStands i s0 t := by
  have hpower : t.power = s.power := g.2.2 _ hp
  exact h.trans ⟨by rw [hpower], by rw [hpower], hr.flag⟩

theorem SagStands.samePower (g : SamePower s.power t.power) (hr : HkcRegs s t) : SagStands i s0 t := by
  unfold SamePower at g
  exact h.trans ⟨by rw [g], by rw [g], hr.flag⟩

theorem modPower_sagStands {f : Power → Power} (hf : ∀ p, (f p).hold = p.hold ∧ (f p).w1 = p.w1) : SagStands i s0 (modPower f s) :=
  h.trans ⟨(hf _).1, (hf _).2, fun hw => ⟨hw, fun hb => hb⟩⟩

theorem notify_sagStands {code len : Nat} {fields : List Int} : SagStands i s0 (notify code len fields s) :=
  h.only (notify_only (List.Subset.refl _) (only_refl _ _)) (by decide) (notify_hkcRegs (HkcRegs.refl s))

theorem respondOwed_sagStands {code : Nat} {owed : Option Call} {p : Reply} : SagStands i s0 (respondOwed code owed p s) :=
  h.only (respondOwed_only (List.Subset.refl _) (only_refl _ _)) (by decide) (respondOwed_hkcRegs (HkcRegs.refl s))

/-- Flags of PWR_INT_STAT are set, and none is cleared. -/
theorem setFlag_sagStands {j : Nat} : SagStands i s0 (setFlag R.PWR_INT_STAT j s) :=
  h.trans ⟨rfl, rfl, fun hw => ⟨setFlag_wf _ _ hw, fun hb => by
    rw [setFlag_reg hw, if_pos rfl]
    exact bitOf_or _ _ _ hb⟩⟩

theorem modeNotice_sagStands {old new : Mode} {cause : Nat} : SagStands i s0 (modeNotice old new cause s) := notify_sagStands (setFlag_sagStands h)

theorem kick_sagStands : SagStands i s0 (kick s) := h.samePower (kick_supply s).1 (kick_hkcRegs (HkcRegs.refl s))

theorem tellerStop_sagStands : SagStands i s0 (tellerStop s) :=
  h.samePower (samePower_of_parted (tellerStop_parted (Parted.refl s))) (tellerStop_hkcRegs (HkcRegs.refl s))

theorem thermalJudge_sagStands : SagStands i s0 (thermalJudge s) := by
  have hpower : Heats s.power (thermalJudge s).power := thermalJudge_heats rfl
  unfold Heats at hpower
  exact h.trans ⟨by rw [hpower], by rw [hpower], (thermalJudge_hkcRegs (HkcRegs.refl s)).flag⟩

/-! Changes of mode (R583, R584). -/

theorem sleepDone_sagStands {m : Mode} : SagStands i s0 (sleepDone m s) := by
  unfold sleepDone
  dsimp only
  generalize hs1 : modPower _ s = s1
  have h1 : SagStands i s0 s1 := by
    rw [← hs1]
    exact modPower_sagStands h fun _ => ⟨rfl, rfl⟩
  have hrecorded : SagStands i s0 (flushNow (recordAll s1.teller.ledgerOffers.length s1)) :=
    h1.only (l := [.regs, .free, .teller, .lgr]) (flushNow_only (by decide) (recordAll_only (by decide) (only_refl _ _))) (by decide)
      (flushNow_hkcRegs (recordAll_hkcRegs (HkcRegs.refl s1)))
  have hreset {x : State} : HkcRegs x (lgrReset true x) := modLgr_hkcRegs (modLgr_hkcRegs (thaw_hkcRegs (HkcRegs.refl x)))
  refine keep_ite (modPower_sagStands (SagStands.only (modPower_sagStands hrecorded ?_) (lgrReset_only (List.Subset.refl _) (only_refl _ _)) (by decide)
    hreset) ?_) h1
  · exact fun _ => ⟨rfl, rfl⟩
  · exact fun _ => ⟨rfl, rfl⟩

theorem changeDone_sagStands {c : ModeChange} : SagStands i s0 (changeDone c s) := by
  unfold changeDone
  dsimp only
  refine keep_ite (modPower_sagStands (sleepDone_sagStands h) fun _ => ⟨rfl, rfl⟩) ?_
  refine kick_sagStands (thermalJudge_sagStands (respondOwed_sagStands (modeNotice_sagStands ?_)))
  have hmode {f : Power → Power} (hf : ∀ p, (f p).hold = p.hold ∧ (f p).w1 = p.w1) : SagStands i s0 (modPower f s) := modPower_sagStands h hf
  generalize hs1 : modPower _ s = s1
  have h1 : SagStands i s0 s1 := by
    rw [← hs1]
    exact hmode fun _ => ⟨rfl, rfl⟩
  exact keep_ite (h1.trans ⟨rfl, rfl, fun hw => ⟨hw, fun hb => hb⟩⟩) h1

theorem changeEnd_sagStands : SagStands i s0 (changeEnd s) := by
  unfold changeEnd
  split
  · exact keep_ite (changeDone_sagStands h) h
  · exact h

theorem modeLeave_sagStands {old new : Mode} : SagStands i s0 (modeLeave old new s) := by
  have hstop {x : State} (hx : SagStands i s0 x) : SagStands i s0 (showStop x) :=
    hx.only (showStop_only (List.Subset.refl _) (only_refl _ _)) (by decide) (showStop_hkcRegs (HkcRegs.refl x))
  have hpass : SagStands i s0 (passAbort s) :=
    h.only (passAbort_only (List.Subset.refl _) (only_refl _ _)) (by decide) (passAbort_hkcRegs (HkcRegs.refl s))
  have htest {x : State} (hx : SagStands i s0 x) : SagStands i s0 (setReg R.PHO_TEST 0 x) :=
    hx.only (setReg_only (List.Subset.refl _) (only_refl _ _)) (by decide) (setReg_hkcRegs (HkcRegs.refl x) (by decide))
  unfold modeLeave
  dsimp only
  generalize hs1 : (if old = .calibrate ∧ new ≠ .calibrate then passAbort s else s) = s1
  have h1 : SagStands i s0 s1 := by
    rw [← hs1]
    exact keep_ite hpass h
  generalize hs2 : (if modeIsDiag old = true ∧ modeIsDiag new = false then _ else s1) = s2
  have h2 : SagStands i s0 s2 := by
    rw [← hs2]
    exact keep_ite (htest (modPower_sagStands h1 fun _ => ⟨rfl, rfl⟩)) h1
  exact keep_ite (hstop h2) h2

theorem changeBegin_sagStands : SagStands i s0 (changeBegin s) := by
  unfold changeBegin
  split
  · refine keep_ite h ?_
    have hleft {old new : Mode} {f : Power → Power} (hf : ∀ p, (f p).hold = p.hold ∧ (f p).w1 = p.w1) : SagStands i s0 (modeLeave old new (modPower f s)) :=
      modeLeave_sagStands (modPower_sagStands h hf)
    dsimp only
    generalize hs1 : modeLeave _ _ _ = s1
    have h1 : SagStands i s0 s1 := by
      rw [← hs1]
      exact hleft fun _ => ⟨rfl, rfl⟩
    refine keep_ite (changeEnd_sagStands (kick_sagStands (modPower_sagStands
      (tellerStop_sagStands (modeNotice_sagStands (respondOwed_sagStands h1))) fun _ => ⟨rfl, rfl⟩))) (changeEnd_sagStands (kick_sagStands h1))
  · exact h

theorem changeGo_sagStands {boundary : Bool} : SagStands i s0 (changeGo boundary s) := by
  unfold changeGo
  split
  · exact keep_ite (changeBegin_sagStands h) h
  · exact h

end

end Sys2Proof.Proofs
end

section
/-! A configuration written before show time, a domain that comes up, and HKC's next step take back no offer to the Ledger (R588, R590, R697). -/

namespace Sys2Proof.Proofs

open Sys2Proof.Machine Sys2Proof.Safety Sys2Proof.Laws

section
variable {s0 s : State} (h : Stands s0 s)
include h

/-! Inputs. -/

theorem modSrc_stands {i : Nat} {f : Source → Source} : Stands s0 (modSrc i f s) := h.only (modSrc_only (List.Subset.refl _) (only_refl _ _)) (by decide) (by decide)

theorem srcMove_stands {i cause : Nat} {st : SourceState} : Stands s0 (srcMove i st cause s) := by
  unfold srcMove
  exact keep_ite h (notify_stands (setFlag_stands (modSrc_stands h)))

theorem genPublish_stands {i : Nat} {g : GeneratorSet} {k : Int} : Stands s0 (genPublish i g k s) := by
  have hmoved : Stands s0 (srcMove i .running 0 s) := srcMove_stands h
  unfold genPublish
  dsimp only
  generalize srcMove i .running 0 s = s1 at hmoved
  refine keep_ite h (keep_ite ?_ ?_)
  · exact hmoved.only (republish_only (List.Subset.refl _) (only_refl _ _)) (by decide) (by decide)
  · have hfresh : Stands s0 (modSrc i (fun y => { y with rewrite := false }) s1) := modSrc_stands hmoved
    generalize modSrc i _ s1 = s2 at hfresh
    exact hfresh.only (l := [.regs, .vin]) (publish_only (by decide) (wrote_only (by decide) (only_refl _ _))) (by decide) (by decide)

theorem srcConfigure_stands {old : State} {k : Int} {i : Nat} : Stands s0 (srcConfigure old k s i) := by
  have hmod (f : Source → Source) : Stands s0 (modSrc i f s) := modSrc_stands h
  have hmoved (f : Source → Source) (st : SourceState) : Stands s0 (srcMove i st 3 (modSrc i f s)) := srcMove_stands (hmod f)
  unfold srcConfigure
  dsimp only
  generalize hs1 : (if (_ : Bool) = false then _ else _) = s1
  have h1 : Stands s0 s1 := by
    rw [← hs1]
    exact keep_ite (hmoved _ _) (keep_ite (hmoved _ _) (keep_ite (hmoved _ _) (keep_ite (hmod _) h)))
  split
  · have hsized (f : Source → Source) : Stands s0 (modSrc i f s1) := modSrc_stands h1
    exact keep_ite (genPublish_stands (hsized _)) (hsized _)
  · exact h1

theorem vinForce_stands {old : State} {k : Int} : Stands s0 (vinForce old k s) := by
  have hsources : Stands s0 (vinConfigure old k s) := by
    have hfold : Stands s0 ((List.range 28).foldl (srcConfigure old k) s) := keep_foldl h fun _ _ hx => srcConfigure_stands hx
    unfold vinConfigure
    generalize (List.range 28).foldl (srcConfigure old k) s = x at hfold
    exact hfold.trans ⟨rfl, List.prefix_refl _, rfl, rfl⟩
  exact hsources.only (joinReports_only (List.Subset.refl _) (only_refl _ _)) (by decide) (by decide)

/-! Lanes. -/

theorem laneTrain_stands {l cause : Nat} : Stands s0 (laneTrain l cause s) := laneEnter_stands (modLane_stands (laneAbort_stands h))

theorem ctrlSend_stands {l : Nat} : Stands s0 (ctrlSend l s) := by
  unfold ctrlSend
  dsimp only
  exact keep_ite h (keep_ite (h.only (ctrlTake_only (List.Subset.refl _) (only_refl _ _)) (by decide) (by decide)) (keep_ite h (insertDescriptor_stands h)))

theorem lneConfigure_stands {old : Cfg} {k : Int} : Stands s0 (lneConfigure old k s) := by
  unfold lneConfigure
  refine keep_foldl h fun x l hx => ?_
  dsimp only
  refine keep_ite (laneOff_stands hx) (keep_ite (laneTrain_stands hx) ?_)
  have hlane {y z : State} (hy : Stands s0 y) (g : Only [.lanes] y z) : Stands s0 z := hy.only g (by decide) (by decide)
  refine hlane (ctrlSend_stands (hlane (hlane ?_ (only_foldl (only_refl _ _) fun _ _ hy => provision_only (List.Subset.refl _) hy))
    (only_foldl (only_refl _ _) fun _ _ hy => rangeApply_only (List.Subset.refl _) hy))) (rangeNext_only (List.Subset.refl _) (only_refl _ _))
  exact keep_ite hx (laneEnter_stands (hlane hx (chainTrim_only (List.Subset.refl _) (only_refl _ _))))

/-! Packets, radio, units. -/

theorem rxSet_stands {u : Nat} {x : RxUniverse} : Stands s0 (rxSet u x s) := by
  have hset (f : Pkt → Pkt) : Stands s0 (modPkt f s) := h.only (modPkt_only (List.Subset.refl _) (only_refl _ _)) (by decide) (by decide)
  unfold rxSet
  exact keep_ite (hset _) (notify_stands (setFlag_stands (hset _)))

theorem pktConfigure_stands {old : Cfg} : Stands s0 (pktConfigure old s) := by
  have hpkt {f : Pkt → Pkt} : Stands s0 (modPkt f s) := h.only (modPkt_only (List.Subset.refl _) (only_refl _ _)) (by decide) (by decide)
  have hdmx {x : State} (hx : Stands s0 x) {p : Nat} {f : DmxPort → DmxPort} : Stands s0 (modDmx p f x) :=
    hx.only (modDmx_only (List.Subset.refl _) (only_refl _ _)) (by decide) (by decide)
  have hreports {x : State} (hx : Stands s0 x) : Stands s0 (rxReports old x) :=
    hx.only (rxReports_only (List.Subset.refl _) (only_refl _ _)) (by decide) (by decide)
  have hmoved {x : State} (hx : Stands s0 x) {p : Nat} : Stands s0 (dmxMoved old x p) := by
    unfold dmxMoved
    exact keep_ite (rxSet_stands hx) hx
  unfold pktConfigure
  refine keep_foldl (keep_foldl (hreports (keep_foldl hpkt fun x p hx => keep_ite (hdmx ?_) hx)) fun _ _ hx => rxSet_stands hx) fun _ _ hx => hmoved hx
  exact keep_foldl hx fun _ _ hy => respondOwed_stands hy

theorem fixtureHold_stands {key unit : Nat} {stale : Bool} {e : Nat × FixtureEntry} : Stands s0 (fixtureHold key unit stale s e) := by
  have hput {f : Fxm → Fxm} : Stands s0 (modFxm f s) := h.only (modFxm_only (List.Subset.refl _) (only_refl _ _)) (by decide) (by decide)
  have htold {x : State} (hx : Stands s0 x) {st : Nat} : Stands s0 (staleNotice st unit e x) := notify_stands (setFlag_stands hx)
  unfold fixtureHold
  exact keep_ite h (keep_ite (keep_ite (htold (bump_stands hput)) hput) (keep_ite (htold hput) hput))

theorem radConfigure_stands {old : Cfg} : Stands s0 (radConfigure old s) := by
  have hshadow {x : State} (hx : Stands s0 x) {n : Nat} {p : RadioSet} : Stands s0 (radioShadow n p x) :=
    hx.only (radioShadow_only (List.Subset.refl _) (only_refl _ _)) (by decide) (by decide)
  have hmove {x : State} (hx : Stands s0 x) {n cause : Nat} {st : NodeState} : Stands s0 (nodeMove n st cause x) := by
    unfold nodeMove
    exact keep_ite hx (notify_stands (setFlag_stands (modRad_stands hx)))
  unfold radConfigure
  refine keep_foldl (keep_foldl h fun _ _ hx => keep_ite hx (modRad_stands (hshadow hx))) fun _ _ hx => modRad_stands (hmove ?_)
  exact keep_foldl hx fun _ _ hy => fixtureHold_stands hy

theorem unitsFollow_stands : Stands s0 (unitsFollow s) := keep_foldl h fun _ _ hx => keep_foldl hx fun _ _ hy => fixtureHold_stands hy

end

/-- A configuration that is written takes back no offer. -/
theorem writtenUnits_stands {s0 s : State} (h : Stands s0 s) {old : State} {k tag : Int} {r : Cfg} {changed : SMap CalRecord} :
    Stands s0 (modFxm (fun m => { m with activeTag := BitVec.ofInt 32 tag }) (unitsFollow (mapFollow old.cfgB r (writeRecords tag changed
      (flipBanks old.cfgB r (radConfigure old.cfgB (pktConfigure old.cfgB (lneConfigure old.cfgB tag (vinForce old k s))))))))) := by
  have hconfigured := radConfigure_stands (pktConfigure_stands (lneConfigure_stands (vinForce_stands h (old := old) (k := k)) (old := old.cfgB) (k := tag))
    (old := old.cfgB)) (old := old.cfgB)
  generalize radConfigure old.cfgB _ = x at hconfigured
  have hunits : Stands s0 (unitsFollow (mapFollow old.cfgB r (writeRecords tag changed (flipBanks old.cfgB r x)))) :=
    unitsFollow_stands (hconfigured.only (l := [.fxm, .pho]) (mapFollow_only (by decide) (writeRecords_only (by decide) (flipBanks_only (by decide)
      (only_refl _ _)))) (by decide) (by decide))
  exact hunits.only (modFxm_only (List.Subset.refl _) (only_refl _ _)) (by decide) (by decide)

/-- A commit whose configuration is written ends with its answer. -/
theorem writeNow_offers (a : Accepted) (s : State) : s.teller.ledgerOffers <+: (writeNow s a).teller.ledgerOffers := by
  have htaken (x : State) : (takeDelays s.cfgB a.cfg 0 x).teller = x.teller :=
    (takeDelays_only (List.Subset.refl _) (only_refl [.alm] x)).2.2 .teller (by decide)
  have hshadows (x : State) : (writeShadows x).teller = x.teller :=
    (writeShadows_only (List.Subset.refl _) (only_refl [.regs, .vin, .cmp, .ras] x)).2.2 .teller (by decide)
  have hdone (x : State) : x.teller.ledgerOffers <+: (commitDone x a).teller.ledgerOffers := (respondOwed_stands (Stands.refl (modTeller (fun y => { y with
    forceTag := a.tag, accepted := y.accepted.filter (fun b => b.tag != a.tag) }) x))).offers
  unfold writeNow
  dsimp only
  generalize hy : takeDelays _ _ _ _ = y
  have hforced : y.teller.ledgerOffers = s.teller.ledgerOffers := by
    rw [← hy, htaken]
    rfl
  generalize hs1 : writeShadows _ = s1
  have h1 : s1.teller.ledgerOffers = s.teller.ledgerOffers := by
    rw [← hs1, hshadows]
    exact hforced
  rw [← h1]
  exact (writtenUnits_stands (Stands.refl s1)).offers.trans (hdone _)

theorem settleEarly_offers (s : State) : s.teller.ledgerOffers <+: (settleEarly s).teller.ledgerOffers := by
  have hfold : s.teller.ledgerOffers <+: (s.teller.accepted.foldl writeNow s).teller.ledgerOffers :=
    keep_foldl (P := fun x => s.teller.ledgerOffers <+: x.teller.ledgerOffers) (List.prefix_refl _) fun x a hx => hx.trans (writeNow_offers a x)
  unfold settleEarly
  exact keep_ite (P := fun x => s.teller.ledgerOffers <+: x.teller.ledgerOffers) hfold (List.prefix_refl _)

/-- HKC's next step, too, takes back no offer. -/
theorem domainLeave_offers (d : Nat) (s : State) : s.teller.ledgerOffers <+: (domainLeave d s).teller.ledgerOffers := by
  by_cases hd : d = 13
  · subst hd
    have hlose : (domainLeave 13 s).teller = (pcieClose s).teller :=
      (loseRegs_only (List.Subset.refl _) (only_refl [.regs] (pcieClose s))).2.2 .teller (by decide)
    rw [hlose]
    exact (pcieClose_parted (Parted.refl s)).offers
  · exact (domainLeave_stands hd s).offers

theorem kick_offers (s : State) : s.teller.ledgerOffers <+: (kick s).teller.ledgerOffers := by
  obtain hk | ⟨s1, d, h1, -, hk⟩ := kick_cases s
  · exact hk.stands.offers
  · exact h1.stands.offers.trans ((domainLeave_offers d s1).trans hk.stands.offers)

/-- The blocks of a domain start: links leave, lanes train, engines take their roles, or the PCIe session begins. -/
theorem domainEnter_offers (d : Nat) (s : State) : s.teller.ledgerOffers <+: (domainEnter d s).teller.ledgerOffers := by
  have hroles {x : State} (hx : Stands s x) : Stands s (rolesBoot [] x) := by
    have hfollow : Stands s (chooseSpare (rolesFollow x)) :=
      hx.only (l := [.map]) (chooseSpare_only (by decide) (rolesFollow_only (by decide) (only_refl _ _))) (by decide) (by decide)
    unfold rolesBoot
    generalize chooseSpare (rolesFollow x) = y at hfollow
    unfold setReference
    have hput {z : State} (hz : Stands s z) {v : Nat} : Stands s (modMap (fun m => { m with reference := some v }) z) := modMap_stands hz
    dsimp only
    split
    · exact hfollow
    · refine keep_ite (hput hfollow) ?_
      split
      · exact keep_ite (hput (enginesFail_stands hfollow)) (keep_ite (hput (enginesFail_stands hfollow)) hfollow)
      · exact hfollow
    · exact hfollow
  have hrings {x : State} (hx : Stands s x) {p : Nat} : Stands s (portRestart p (ringsBegin p x)) :=
    linkLeave_stands (hx.only (ringsBegin_only (List.Subset.refl _) (only_refl _ _)) (by decide) (by decide))
  have hports {x : State} (hx : Stands s x) (l : List Nat) : Stands s (l.foldl (fun x p => portRestart p (ringsBegin p x)) x) :=
    keep_foldl hx fun _ _ hy => hrings hy
  unfold domainEnter
  dsimp only
  generalize hs1 : (if s.time.running = true then takeDomain d s (writeShadows s) else s) = s1
  have h1 : Stands s s1 := by
    rw [← hs1]
    exact keep_ite ((Stands.refl s).only (takeDomain_only (List.Subset.refl _) (only_refl _ _)) (by decide) (by decide)) (Stands.refl s)
  split
  · exact (keep_ite (hroles h1) h1).offers
  · exact (keep_ite (hroles h1) h1).offers
  · exact (hports h1 _).offers
  · exact (hports h1 _).offers
  · exact (hports h1 _).offers
  · refine Stands.offers (keep_foldl (h1.only (assignQueues_only (List.Subset.refl _) (only_refl _ _)) (by decide) (by decide))
      fun _ _ hx => keep_ite (laneTrain_stands hx) hx)
  · exact (hrings h1).offers
  · exact h1.offers.trans (pcieOpen_parted (Parted.refl s1)).offers
  · exact h1.offers

end Sys2Proof.Proofs
end

section
/-! DOMAIN_STEP_DONE: the end of a step, and what HKC's next step does with the states of domains (R587, R590). -/

namespace Sys2Proof.Proofs

open Sys2Proof.Machine Sys2Proof.Safety Sys2Proof.Laws

theorem domState_modDom {d e : Nat} (hd : d < 14) (f : Dom → Dom) (s : State) :
    domState (modDom e f s) d = if d = e then (f (domOf s d)).state else domState s d :=
  (congrArg Dom.state (vGet_vMod s.power.domains e d f (Dom.reset .off) hd)).trans (apply_ite Dom.state _ _ _)

/-- A domain's goal is a state at rest. -/
theorem domGoal_rests (s : State) (d : Nat) : domGoal s d = .on ∨ domGoal s d = .gated ∨ domGoal s d = .retain ∨ domGoal s d = .off := by
  unfold domGoal
  dsimp only
  split_ifs <;> simp

theorem domainUp_iff (s : State) (d : Nat) : domainUp s d = true ↔ domState s d = .on ∨ domState s d = .gated ∨ domState s d = .retain := by
  unfold domainUp
  cases domState s d <;> simp

theorem domainUp_congr {s t : State} {d : Nat} (h : domState t d = domState s d) : domainUp t d = domainUp s d := by
  unfold domainUp
  rw [h]

theorem domainUp_of_off {s : State} {d : Nat} (h : domState s d = .off) : domainUp s d = false := by
  unfold domainUp
  rw [h]

/-- From `s` to `t` domain `d` stays off if it is off, and up if it is up. -/
def Rests (d : Nat) (s t : State) : Prop := (domState s d = .off → domState t d = .off) ∧ (domainUp s d = true → domainUp t d = true)

/-- From `s` to `t` domain `d` at most begins a step: one that is off stays so or goes up; one that is up does not go up, nor is it off at once. -/
def Steps (d : Nat) (s t : State) : Prop :=
  (domState s d = .off → domState t d = .off ∨ domState t d = .goingUp) ∧ (domainUp s d = true → domState t d ≠ .goingUp ∧ domState t d ≠ .off)

theorem Rests.of_same {d : Nat} {s t : State} (h : domState t d = domState s d) : Rests d s t :=
  ⟨fun hoff => h.trans hoff, fun hup => (domainUp_congr h).trans hup⟩

theorem Rests.trans {d : Nat} {s t u : State} (h : Rests d s t) (g : Rests d t u) : Rests d s u := ⟨fun hoff => g.1 (h.1 hoff), fun hup => g.2 (h.2 hup)⟩

theorem Rests.steps {d : Nat} {s t : State} (h : Rests d s t) : Steps d s t := by
  refine ⟨fun hoff => .inl (h.1 hoff), fun hup => ?_⟩
  rcases (domainUp_iff t d).mp (h.2 hup) with hs | hs | hs <;> simp [hs]

theorem Rests.then_steps {d : Nat} {s t u : State} (h : Rests d s t) (g : Steps d t u) : Steps d s u :=
  ⟨fun hoff => g.1 (h.1 hoff), fun hup => g.2 (h.2 hup)⟩

theorem modDom_rests {d e : Nat} (hd : d < 14) (he : d ≠ e) (f : Dom → Dom) (s : State) : Rests d s (modDom e f s) :=
  .of_same ((domState_modDom hd f s).trans (if_neg he))

/-- GATED and RETAIN are entered and left among the states that are up. -/
theorem settleDom_rests {d : Nat} (hd : d < 14) (s : State) (e : Nat) : Rests d s (settleDom s e) := by
  unfold settleDom
  dsimp only
  split
  · rename_i hgoal
    obtain ⟨hup, hstay⟩ := hgoal
    by_cases he : d = e
    · subst he
      have hstate : domState (modDom d (fun y => { y with state := domGoal s d }) s) d = domGoal s d := (domState_modDom hd _ _).trans (if_pos rfl)
      refine ⟨fun hoff => ?_, fun _ => ?_⟩
      · rw [domainUp_of_off hoff] at hup
        cases hup
      · rw [domainUp_iff, hstate]
        rcases domGoal_rests s d with hg | hg | hg | hg
        · exact .inl hg
        · exact .inr (.inl hg)
        · exact .inr (.inr hg)
        · exact absurd hg hstay
    · exact modDom_rests hd he _ s
  · exact .of_same rfl

theorem settleDoms_rests {d : Nat} (hd : d < 14) (l : List Nat) (s : State) : Rests d s (l.foldl settleDom s) :=
  keep_foldl (P := Rests d s) (.of_same rfl) fun x e hx => hx.trans (settleDom_rests hd x e)

theorem domainLeave_domains (d : Nat) (s : State) : (domainLeave d s).power.domains = s.power.domains := by
  by_cases hd : d = 13
  · subst hd
    have hlose : (domainLeave 13 s).power = (pcieClose s).power :=
      (loseRegs_only (List.Subset.refl _) (only_refl [.regs] (pcieClose s))).2.2 .power (by decide)
    rw [hlose, (pcieClose_parted (Parted.refl s)).power]
  · exact congrArg Power.domains ((domainLeave_rest hd s).2.2 .power (by decide))

/-- A step that a domain needs: up from off, or down from a state that is up. -/
theorem stepStart_steps {d e : Nat} (hd : d < 14) {s : State} (hneeds : needsUp s e = true ∨ needsDown s e = true) : Steps d s (stepStart e s) := by
  have hown (f : Dom → Dom) (x : State) : domState (modDom d f x) d = (f (domOf x d)).state := (domState_modDom hd f x).trans (if_pos rfl)
  unfold stepStart
  split
  · rename_i hup
    by_cases he : d = e
    · subst he
      have hoff : domState s d = .off := by simpa using (Bool.and_eq_true_iff.mp hup).1
      refine ⟨fun _ => .inr (hown _ s), fun hu => ?_⟩
      rw [domainUp_of_off hoff] at hu
      cases hu
    · exact (modDom_rests hd he _ s).steps
  · rename_i hnot
    have hleave : Rests d s (domainLeave e s) := .of_same (by unfold domState; rw [domainLeave_domains])
    dsimp only
    by_cases he : d = e
    · subst he
      have hdown : domainUp s d = true := (Bool.and_eq_true_iff.mp (hneeds.resolve_left hnot)).1
      refine ⟨fun hoff => ?_, fun _ => ?_⟩
      · rw [domainUp_of_off hoff] at hdown
        cases hdown
      · rw [hown]
        exact ⟨DomState.noConfusion, DomState.noConfusion⟩
    · exact (hleave.trans (modDom_rests hd he _ (domainLeave e s))).steps

theorem kick_steps {d : Nat} (hd : d < 14) (s : State) : Steps d s (kick s) := by
  have hsettled := settleDoms_rests hd (List.range' 2 12) s
  have hstays : Rests d s s := .of_same rfl
  unfold kick
  split
  · exact hstays.steps
  · dsimp only
    generalize (List.range' 2 12).foldl settleDom s = x at hsettled ⊢
    split
    · exact hsettled.steps
    · split
      · rename_i e hnext
        exact hsettled.then_steps (stepStart_steps hd (needs_of_nextStep hnext))
      · exact hsettled.steps

/-- What starts in a domain that is up changes nothing of the domains. -/
theorem domainEnter_domState (d e : Nat) (s : State) : domState (domainEnter d s) e = domState s e := by
  have hsame {l : List Comp} {x : State} (h : Only l s x) (hl : Comp.power ∉ l) : domState x e = domState s e := by
    have hpower : x.power = s.power := h.2.2 _ hl
    unfold domState
    rw [hpower]
  unfold domainEnter
  dsimp only
  generalize hs1 : (if s.time.running = true then takeDomain d s (writeShadows s) else s) = s1
  have h1 : Only [.regs] s s1 := by
    rw [← hs1]
    exact only_ite (takeDomain_only (List.Subset.refl _) (only_refl _ _)) (only_refl _ _)
  have hroles : Only [.regs, .teller, .alm, .fxm, .pho, .pool, .lanes, .rad, .esc, .map] s (rolesBoot [] s1) :=
    rolesBoot_only (List.Subset.refl _) (only_mono h1 (by decide))
  have hports (l : List Nat) : Only [.regs, .teller, .pool, .mac] s (l.foldl (fun x p => portRestart p (ringsBegin p x)) s1) :=
    only_foldl (only_mono h1 (by decide)) fun _ _ hx => portRestart_only (by decide) (ringsBegin_only (by decide) hx)
  split
  · exact hsame (only_ite hroles (only_mono h1 (by decide))) (by decide)
  · exact hsame (only_ite hroles (only_mono h1 (by decide))) (by decide)
  · exact hsame (hports _) (by decide)
  · exact hsame (hports _) (by decide)
  · exact hsame (hports _) (by decide)
  · have hlanes : Only [.regs, .teller, .lanes] s ((List.range 32).foldl (fun x l => if laneOn x.cfgB l then laneTrain l 0 x else x) (assignQueues s1)) :=
      only_foldl (assignQueues_only (by decide) (only_mono h1 (by decide))) fun _ _ hx => only_ite (laneTrain_only (by decide) hx) hx
    exact hsame hlanes (by decide)
  · exact hsame (l := [.regs, .teller, .pool, .mac]) (portRestart_only (by decide) (ringsBegin_only (by decide) (only_mono h1 (by decide)))) (by decide)
  · have hopen := (pcieOpen_parted (Parted.refl s1)).power
    have hpower : s1.power = s.power := h1.2.2 .power (by decide)
    unfold domState
    rw [hopen, hpower]
  · exact hsame h1 (by decide)

/-- A domain that went up or down leaves DOMAIN_STATE. -/
theorem domainNotice_offered (d : Nat) (s : State) : ∃ o ∈ (domainNotice d s).teller.ledgerOffers, o.1 = 0x8301 := by
  have htold (code len : Nat) (fields : List Int) (x : State) : ∃ o ∈ (notify code len fields x).teller.ledgerOffers, o.1 = code := by
    rw [(notify_told code len fields x).offered]
    exact ⟨_, List.mem_append_right _ List.mem_cons_self, rfl⟩
  exact htold 0x8301 16 _ _

theorem domainNotice_domState (d e : Nat) (s : State) : domState (domainNotice d s) e = domState s e := by
  have hpower : (domainNotice d s).power = s.power := (domainNotice_only (List.Subset.refl _) (only_refl [.regs, .teller] s)).2.2 .power (by decide)
  unfold domState
  rw [hpower]

section
variable {t : Nat} {s : State}

theorem domainStepDone_ends {d : Domain} (h : domState s d = .goingUp ∨ domState s d = .goingDown) : Goes (.domainStepDone t d) s fun x =>
    (domState s d = .goingUp → domState x d ≠ .goingUp ∧ domState x d ≠ .off) ∧
    (domState s d = .goingDown → domState x d = .off ∨ domState x d = .goingUp) ∧
    (∃ o ∈ x.teller.ledgerOffers, o.1 = 0x8301) := by
  have hexec : exec (.domainStepDone t d) s = .next (settleEarly (stepDone d (advance t s))) := rfl
  refine ⟨_, hexec, ?_⟩
  have hearly (x : State) : domState (settleEarly x) d = domState x d := by
    have hpower : (settleEarly x).power = x.power := (settleEarly_only (List.Subset.refl _) (only_refl
      [.regs, .teller, .alm, .vin, .cfgA, .cfgB, .cmp, .ras, .fxm, .pho, .lanes, .mac, .pkt, .dmx, .rad] x)).2.2 .power (by decide)
    unfold domState
    rw [hpower]
  have hoffer {x y : State} (hx : ∃ o ∈ x.teller.ledgerOffers, o.1 = 0x8301) (hy : x.teller.ledgerOffers <+: y.teller.ledgerOffers) :
      ∃ o ∈ y.teller.ledgerOffers, o.1 = 0x8301 := by
    obtain ⟨o, ho, hcode⟩ := hx
    exact ⟨o, hy.subset ho, hcode⟩
  have hlast (f : Dom → Dom) (x : State) : x.teller.ledgerOffers <+: (settleEarly (kick (modDom d f x))).teller.ledgerOffers :=
    (kick_offers (modDom d f x)).trans (settleEarly_offers (kick (modDom d f x)))
  beta_reduce
  rw [hearly]
  unfold stepDone
  rcases h with hup | hdown
  · rw [advance_domState, hup]
    dsimp only
    generalize hs1 : domainNotice d.val _ = s1
    have hon : domState s1 d = .on := by
      rw [← hs1, domainNotice_domState]
      exact (domState_modDom d.isLt _ _).trans (if_pos rfl)
    have hlatched (f : Dom → Dom) (hf : ∀ y, (f y).state = y.state) : domainUp (modDom d f (domainEnter d s1)) d = true := by
      refine (domainUp_iff _ _).mpr (.inl ((domState_modDom d.isLt f _).trans ((if_pos rfl).trans ((hf _).trans ?_))))
      exact (domainEnter_domState d d s1).trans hon
    refine ⟨fun _ => (kick_steps d.isLt _).2 ?_, fun h => (by cases h), ?_⟩
    · exact hlatched (fun x => { x with latched := domGoal s1 d == .off }) fun _ => rfl
    refine hoffer (x := s1) ?_ ((domainEnter_offers d s1).trans (hlast _ _))
    rw [← hs1]
    exact domainNotice_offered _ _
  · rw [advance_domState, hdown]
    dsimp only
    generalize hs1 : domainNotice d.val _ = s1
    have hoff : domState s1 d = .off := by
      rw [← hs1, domainNotice_domState]
      exact (domState_modDom d.isLt _ _).trans (if_pos rfl)
    have hlatched (f : Dom → Dom) (hf : ∀ y, (f y).state = y.state) : domState (modDom d f s1) d = .off :=
      (domState_modDom d.isLt f _).trans ((if_pos rfl).trans ((hf _).trans hoff))
    refine ⟨fun h => (by cases h), fun _ => (kick_steps d.isLt _).1 ?_, ?_⟩
    · exact hlatched (fun x => { x with latched := domGoal s1 d != .off }) fun _ => rfl
    refine hoffer (x := s1) ?_ (hlast _ _)
    rw [← hs1]
    exact domainNotice_offered _ _

theorem domainStepDone_idle {d : Domain} (hu : domState s d ≠ .goingUp) (hd : domState s d ≠ .goingDown) (ha : s.teller.accepted = []) :
    exec (.domainStepDone t d) s = .next (advance t s) := by
  have hexec : exec (.domainStepDone t d) s = .next (settleEarly (stepDone d (advance t s))) := rfl
  have hstep : stepDone d (advance t s) = advance t s := by
    unfold stepDone
    split
    · rename_i hs
      exact absurd ((advance_domState t s d).symm.trans hs) hu
    · rename_i hs
      exact absurd ((advance_domState t s d).symm.trans hs) hd
    · rfl
  have hearly : settleEarly (advance t s) = advance t s := if_neg fun hc => hc.2.1 (by rw [advance_teller, ha])
  rw [hexec, hstep, hearly]

end

end Sys2Proof.Proofs
end

section
/-! MODE_CHANGE_DONE, DRAM_IDLE_ENTRY, AVS_RETUNE, VBAT_LOSS, and the samples of the monitors (R583, R589, R595, R598 to R601). -/

namespace Sys2Proof.Proofs

open Sys2Proof.Machine Sys2Proof.Safety Sys2Proof.Laws

/-- Where a change of mode goes, and whether it has begun. -/
def changeGoal (c : ModeChange) : Mode × Bool := (c.to_, c.begun)

/-- A session that closes takes of a change only whom it owes its answer. -/
theorem sessionClose_changeGoal (i : Fin 5) (s : State) : (sessionClose i s).power.change.map changeGoal = s.power.change.map changeGoal := by
  have hgone : (sessionGone i s).power.change.map changeGoal = s.power.change.map changeGoal := by
    have hpower : (lgrGone i s).power = s.power := (lgrGone_records (Records.refl s)).only.2.2 .power (by decide)
    rw [← hpower]
    unfold sessionGone
    generalize lgrGone i s = x
    exact Option.map_map ..
  unfold sessionClose
  exact keep_ite (P := fun x => x.power.change.map changeGoal = s.power.change.map changeGoal) rfl hgone

/-- HKC's next step leaves a change of mode on its way. -/
theorem kick_changeGoal (s : State) : (kick s).power.change.map changeGoal = s.power.change.map changeGoal := by
  have hdomains {x y : State} (h : WithDomains x y) : y.power.change = x.power.change := by
    obtain ⟨_, rfl⟩ := h
    rfl
  have hleave (d : Nat) (x : State) : (domainLeave d x).power.change.map changeGoal = x.power.change.map changeGoal := by
    by_cases hd : d = 13
    · subst hd
      have hlose : (domainLeave 13 x).power = (pcieClose x).power :=
        (loseRegs_only (List.Subset.refl _) (only_refl [.regs] (pcieClose x))).2.2 .power (by decide)
      rw [hlose]
      exact sessionClose_changeGoal 0 x
    · have hpower : (domainLeave d x).power = x.power := (domainLeave_rest hd x).2.2 .power (by decide)
      rw [hpower]
  obtain hk | ⟨s1, d, h1, -, hk⟩ := kick_cases s
  · rw [hdomains hk]
  · rw [hdomains hk, hleave, hdomains h1]

theorem modeNotice_offered (old new : Mode) (cause : Nat) (s : State) : ∃ o ∈ (modeNotice old new cause s).teller.ledgerOffers, o.1 = 0x8300 := by
  unfold modeNotice
  rw [(notify_told 0x8300 16 _ _).offered]
  exact ⟨_, List.mem_append_right _ List.mem_cons_self, rfl⟩

theorem thermalJudge_offers (s : State) : s.teller.ledgerOffers <+: (thermalJudge s).teller.ledgerOffers := by
  have hpower {x : State} (hx : Stands s x) {f : Power → Power} : Stands s (modPower f x) :=
    hx.only (modPower_only (List.Subset.refl _) (only_refl _ _)) (by decide) (by decide)
  have hshed {x : State} (hx : Stands s x) : Stands s (thermalShed x) :=
    hx.only (thermalShed_only (List.Subset.refl _) (only_refl _ _)) (by decide) (by decide)
  have hmove {old new sensor : Nat} {x : Int} : Stands s (thermalMove old new x sensor s) := by
    unfold thermalMove
    dsimp only
    generalize hs1 : modThermal _ s = s1
    have h1 : Stands s s1 := by
      rw [← hs1]
      exact hpower (Stands.refl s)
    have h2 : Stands s (if old = 0 then setFlag R.PVT_INT_STAT 0 (bump R.PVT_CNT_WARN s1) else s1) := keep_ite (setFlag_stands (bump_stands h1)) h1
    generalize (if old = 0 then setFlag R.PVT_INT_STAT 0 (bump R.PVT_CNT_WARN s1) else s1) = s2 at h2
    have h3 : Stands s (if new = 2 then setFlag R.PVT_INT_STAT 1 (bump R.PVT_CNT_SHED s2) else s2) := keep_ite (setFlag_stands (bump_stands h2)) h2
    generalize (if new = 2 then setFlag R.PVT_INT_STAT 1 (bump R.PVT_CNT_SHED s2) else s2) = s3 at h3
    generalize hs4 : notify 0x8303 16 _ s3 = s4
    have h4 : Stands s s4 := by
      rw [← hs4]
      exact notify_stands h3
    exact keep_ite (keep_ite (hpower h4) (hshed h4)) (keep_ite (hpower h4) h4)
  unfold thermalJudge
  split
  · exact List.prefix_refl _
  · exact (keep_ite (Stands.refl s) hmove).offers

/-- A change between modes in which the device is awake ends: the mode is entered, MODE_CHANGE leaves, and show time runs on as it did. -/
theorem changeDone_awake {c : ModeChange} (s : State) (h : sleeps c.to_ = false) :
    (changeDone c s).power.change = none ∧ (changeDone c s).power.mode = modeReached s c.to_ ∧
      (∃ o ∈ (changeDone c s).teller.ledgerOffers, o.1 = 0x8300) ∧ (changeDone c s).time.running = s.time.running := by
  unfold changeDone
  dsimp only
  rw [if_neg (by simp [h])]
  generalize hs1 : modPower _ s = s1
  have h1 : s1.power.change = none ∧ s1.power.mode = modeReached s c.to_ ∧ s1.time.running = s.time.running := by
    rw [← hs1]
    exact ⟨rfl, rfl, rfl⟩
  generalize hs2 : (if modeRuns (modeReached s c.to_) = true ∧ modeRuns s.power.mode = false then _ else s1) = s2
  have h2 : s2.power.change = none ∧ s2.power.mode = modeReached s c.to_ ∧ s2.time.running = s.time.running := by
    rw [← hs2]
    exact keep_ite (P := fun x => x.power.change = none ∧ x.power.mode = modeReached s c.to_ ∧ x.time.running = s.time.running) h1 h1
  obtain ⟨hchange, hmode, hruns⟩ := h2
  have hoffered := modeNotice_offered s.power.mode (modeReached s c.to_) c.cause s2
  have hnotice : Only [.regs, .teller] s2 (modeNotice s.power.mode (modeReached s c.to_) c.cause s2) := modeNotice_only (List.Subset.refl _) (only_refl _ _)
  generalize modeNotice s.power.mode (modeReached s c.to_) c.cause s2 = s3 at hoffered hnotice
  generalize hs4 : respondOwed 0x0500 c.owed _ s3 = s4
  have hanswer : Only [.regs, .teller] s2 s4 := by
    rw [← hs4]
    exact respondOwed_only (List.Subset.refl _) hnotice
  have hanswered : s3.teller.ledgerOffers <+: s4.teller.ledgerOffers := by
    rw [← hs4]
    exact (respondOwed_stands (Stands.refl s3)).offers
  have hpower : s4.power = s2.power := hanswer.2.2 .power (by decide)
  have hheats : Heats s2.power (thermalJudge s4).power := thermalJudge_heats (by rw [hpower]; rfl)
  unfold Heats at hheats
  have hjudged : (thermalJudge s4).power.change = none ∧ (thermalJudge s4).power.mode = modeReached s c.to_ := by
    rw [hheats]
    exact ⟨hchange, hmode⟩
  have hgoal := kick_changeGoal (thermalJudge s4)
  rw [hjudged.1] at hgoal
  obtain ⟨hsupply, -⟩ := kick_supply (thermalJudge s4)
  unfold SamePower at hsupply
  refine ⟨Option.map_eq_none_iff.mp hgoal, ?_, ?_, ?_⟩
  · rw [hsupply]
    exact hjudged.2
  · obtain ⟨o, ho, hcode⟩ := hoffered
    exact ⟨o, ((hanswered.trans (thermalJudge_offers s4)).trans (kick_offers _)).subset ho, hcode⟩
  · have htime : (kick (thermalJudge s4)).time = s2.time :=
      (kick_only (List.Subset.refl _) (thermalJudge_only (by decide) (only_mono hanswer (by decide)))).2.2 .time (by decide)
    rw [htime, hruns]

section
variable {t : Nat} {s : State}

theorem modeReached_advance (t : Nat) (s : State) (m : Mode) : modeReached (advance t s) m = modeReached s m := by
  have hheld : heldMask (advance t s) = heldMask s := by
    unfold heldMask holds leaseOf
    rw [advance_esc]
  unfold modeReached pairOn
  rw [hheld, advance_reg]

theorem modeChangeDone_ends {c : ModeChange} (hc : s.power.change = some c) (hb : c.begun = true) (hs : sagBlocks s = false)
    (hm : modeRuns s.power.mode = true) (hto : modeRuns c.to_ = true) : Goes (.modeChangeDone t) s fun x =>
      x.power.change = none ∧ x.power.mode = modeReached s c.to_ ∧ (∃ o ∈ x.teller.ledgerOffers, o.1 = 0x8300) := by
  have hexec : exec (.modeChangeDone t) s = .next (changeEnd (advance t s)) := rfl
  have hawake : sleeps c.to_ = false := modeRuns_awake hto
  have hend : changeEnd (advance t s) = changeDone c (advance t s) := by
    unfold changeEnd
    rw [advance_power, hc]
    exact if_pos ⟨hb, by rw [sagBlocks_advance, hs], .inr ⟨hm, hto⟩⟩
  obtain ⟨hchange, hmode, hoffered, -⟩ := changeDone_awake (advance t s) hawake
  refine ⟨_, hexec, ?_⟩
  rw [hend]
  exact ⟨hchange, hmode.trans (modeReached_advance t s _), hoffered⟩

theorem modeChangeDone_waits {c : ModeChange} (hc : s.power.change = some c) (h : c.begun = false ∨ sagBlocks s = true) :
    exec (.modeChangeDone t) s = .next (advance t s) := by
  have hexec : exec (.modeChangeDone t) s = .next (changeEnd (advance t s)) := rfl
  refine hexec.trans (congrArg Host.Outcome.next ?_)
  unfold changeEnd
  rw [advance_power, hc]
  refine if_neg fun ⟨hb, hs, _⟩ => ?_
  rw [sagBlocks_advance] at hs
  rcases h with h | h
  · rw [hb] at h
    cases h
  · rw [hs] at h
    cases h

theorem modeChangeDone_none (hc : s.power.change = none) : exec (.modeChangeDone t) s = .next (advance t s) := by
  have hexec : exec (.modeChangeDone t) s = .next (changeEnd (advance t s)) := rfl
  refine hexec.trans (congrArg Host.Outcome.next ?_)
  unfold changeEnd
  rw [advance_power, hc]

/-! DRAM (R589). -/

theorem dramIdleEntry_refreshes {idle : Nat} (hw : RegsWf s.regs) (hd : domState s 3 = .on) (hi : 2000 ≤ idle) (ht : 8000 ≤ dramTol (advance t s)) :
    Goes (.dramIdleEntry t idle) s fun x => x.power = { s.power with dram := 2 } ∧
      regN x R.PWR_CNT_SR = (if s.power.dram = 2 then regN s R.PWR_CNT_SR else min 0xFFFFFFFF (regN s R.PWR_CNT_SR + 1)) := by
  have hexec : exec (.dramIdleEntry t idle) s = execDramIdleEntry t idle s := rfl
  refine ⟨selfRefresh (advance t s), hexec.trans ?_, ?_⟩
  · unfold execDramIdleEntry
    dsimp only
    rw [if_neg (by simp [hd]), if_pos ⟨hi, ht⟩]
  · unfold selfRefresh
    rw [advance_power]
    split
    · rename_i hdram
      refine ⟨?_, advance_regN t s _⟩
      rw [advance_power, ← hdram]
    · have hcount : regN (bump R.PWR_CNT_SR (modPower (fun p => { p with dram := 2 }) (advance t s))) R.PWR_CNT_SR =
          min 0xFFFFFFFF (regN (advance t s) R.PWR_CNT_SR + 1) := bump_regN (by rwa [modPower_regs, advance_regs]) _
      rw [advance_regN] at hcount
      exact ⟨congrArg (fun p : Power => { p with dram := 2 }) (advance_power t s), hcount⟩

theorem dramIdleEntry_powersDown {idle : Nat} (hd : domState s 3 = .on) (hi : 200 ≤ idle) (hlow : idle < 2000 ∨ dramTol (advance t s) < 8000)
    (ht : 100 ≤ dramTol (advance t s)) (hdram : s.power.dram = 0) :
    exec (.dramIdleEntry t idle) s = .next { advance t s with power := { s.power with dram := 1 } } := by
  have hexec : exec (.dramIdleEntry t idle) s = execDramIdleEntry t idle s := rfl
  rw [hexec]
  unfold execDramIdleEntry
  dsimp only
  rw [if_neg (by simp [hd]), if_neg (by omega), if_pos ⟨hi, ht, by rw [advance_power, hdram]⟩, modPower, advance_power]

theorem dramIdleEntry_idle {idle : Nat} (h : domState s 3 ≠ .on ∨ idle < 200) : exec (.dramIdleEntry t idle) s = .next (advance t s) := by
  have hexec : exec (.dramIdleEntry t idle) s = execDramIdleEntry t idle s := rfl
  rw [hexec]
  unfold execDramIdleEntry
  dsimp only
  rw [advance_domState]
  rcases h with h | h
  · rw [if_pos h]
  · rw [if_neg (c := 2000 ≤ idle ∧ _) (by omega), if_neg (c := 200 ≤ idle ∧ _) (by omega), ite_self]

/-! The core voltage, and the loss of VBAT (R585, R595, R599). -/

theorem avsRetune_moves (ha : s.power.avsOk = true) (hg : s.power.pwrGood = true) (hm : s.power.mode ≠ .soak) :
    exec (.avsRetune t) s = .next { advance t s with power := { s.power with
      coreMv := if s.power.coreMv < s.power.setPoint then min s.power.setPoint (s.power.coreMv + 10)
        else max s.power.setPoint (s.power.coreMv - 10) } } := by
  have hexec : exec (.avsRetune t) s = execAvsRetune t s := rfl
  rw [hexec]
  unfold execAvsRetune
  simp [ha, hg, hm, modPower]

theorem avsRetune_idle (h : s.power.avsOk = false ∨ s.power.pwrGood = false) : exec (.avsRetune t) s = .next (advance t s) := by
  have hexec : exec (.avsRetune t) s = execAvsRetune t s := rfl
  exact hexec.trans (if_pos (by simpa using h))

theorem vbatLoss_clears : exec (.vbatLoss t) s = .next { advance t s with
    time := { (advance t s).time with rtc := 0, rtcNs := 0, hwm := 0, hwmValid := false }
    power := { s.power with wakeLatch := false, lastWake := 0, attempts := if 3 ≤ s.power.attempts then 0 else s.power.attempts } } := by
  have hexec : exec (.vbatLoss t) s = execVbatLoss t s := rfl
  rw [hexec]
  unfold execVbatLoss
  dsimp only [modPower]
  rw [advance_power]

/-! Zones that heat sheds (R600). -/

theorem thermalShedStep_sheds {z : Nat} (hl : s.power.thermal.level = 2) (hd : s.power.thermal.lastShed + 1000000000 ≤ (advance t s).time.now)
    (hr : s.time.running = true) (hm : s.power.mode ≠ .soak)
    (hz : nextShed s.cfgB (s.power.thermal.shedZones ++ aKeys s.fxm.shed ++ s.fxm.mapShed) = some z) :
    exec (.thermalShedStep t) s = .next { advance t s with power := { s.power with thermal := { s.power.thermal with
      shedZones := s.power.thermal.shedZones ++ [z], lastShed := (advance t s).time.now } } } := by
  have hexec : exec (.thermalShedStep t) s = execThermalShedStep t s := rfl
  rw [hexec]
  unfold execThermalShedStep
  dsimp only
  rw [if_pos ⟨by rw [advance_power, hl], by rw [advance_power]; exact hd⟩]
  unfold thermalShed
  have hnext : nextShed (advance t s).cfgB ((advance t s).power.thermal.shedZones ++ aKeys (advance t s).fxm.shed ++ (advance t s).fxm.mapShed) = some z := by
    rw [advance_power, advance_cfgB, advance_fxm, hz]
  rw [if_neg (by simp [hr, hm]), hnext]
  dsimp only [modThermal, modPower]
  rw [advance_power]

theorem thermalShedStep_restores (hl : s.power.thermal.level = 0) (hz : s.power.thermal.shedZones ≠ [])
    (hd : s.power.thermal.lastCool + 10000000000 ≤ (advance t s).time.now) :
    exec (.thermalShedStep t) s = .next { advance t s with power := { s.power with thermal := { s.power.thermal with
      shedZones := s.power.thermal.shedZones.dropLast, lastCool := (advance t s).time.now } } } := by
  have hexec : exec (.thermalShedStep t) s = execThermalShedStep t s := rfl
  rw [hexec]
  unfold execThermalShedStep
  dsimp only [modThermal, modPower]
  rw [advance_power, if_neg (by omega), if_pos ⟨hl, hz, hd⟩]

theorem thermalShedStep_idle (hl : s.power.thermal.level = 1) : exec (.thermalShedStep t) s = .next (advance t s) := by
  have hexec : exec (.thermalShedStep t) s = execThermalShedStep t s := rfl
  rw [hexec]
  unfold execThermalShedStep
  dsimp only
  rw [advance_power, if_neg (by omega), if_neg (by omega)]

theorem vGet_ofFn {α : Type} {n : Nat} (f : Fin n → α) (i : Fin n) (d : α) : vGet (Vector.ofFn f) i d = f i := by
  simp [vGet]

theorem calValue_advance (t : Nat) (s : State) (item index : Nat) : calValue (advance t s) item index = calValue s item index := by
  simp only [calValue, calEntry, advance_cal, advance_reg, advance_regN]

/-! Samples (R598, R599, R601). -/

theorem temperatureSample_judged {temps : List Int} {counts : List Nat} (hd : domainUp s 1 = true) (hcool : ∀ n < 24, temps.getD n 0 < 1760) :
    Goes (.temperatureSample t temps counts) s fun x => (∀ n : Fin 24, vGet x.power.thermal.temps n none = some (temps.getD n 0 - calValue s 6 n)) ∧
      ∀ n : Fin 32, vGet x.power.process n 0 = counts.getD n 0 % 65536 := by
  have hexec : exec (.temperatureSample t temps counts) s = execTemperatureSample t temps counts s := rfl
  have hnone : (List.range 24).find? (fun n => decide (1760 ≤ temps.getD n 0)) = none := by
    refine List.find?_eq_none.mpr fun n hn => ?_
    have := hcool n (List.mem_range.mp hn)
    simpa using this
  have hup : domainUp (advance t s) 1 = true := by rw [domainUp_congr (advance_domState t s 1), hd]
  have hrun : execTemperatureSample t temps counts s = .next (thermalJudge (modThermal (fun h => { h with
      temps := Vector.ofFn (fun (i : Fin 24) => some (temps.getD i.val 0 - calValue (advance t s) 6 i.val)) })
      (modPower (fun p => { p with process := Vector.ofFn (fun (i : Fin 32) => counts.getD i.val 0 % 65536) }) (advance t s)))) := by
    unfold execTemperatureSample
    dsimp only
    rw [if_neg (by simp [hup]), hnone]
  refine ⟨_, hexec.trans hrun, ?_⟩
  generalize hs1 : modThermal _ _ = s1
  have hheats : Heats s1.power (thermalJudge s1).power := thermalJudge_heats rfl
  unfold Heats at hheats
  rw [hheats, ← hs1]
  refine ⟨fun n => ?_, fun n => vGet_ofFn _ n _⟩
  change vGet (Vector.ofFn fun i : Fin 24 => some (temps.getD i.val 0 - calValue (advance t s) 6 i.val)) n none = _
  rw [vGet_ofFn, calValue_advance]

theorem temperatureSample_trips {temps : List Int} {counts : List Nat} {n : Nat} (hd : domainUp s 1 = true) (hn : n < 24)
    (hhot : 1760 ≤ temps.getD n 0) : Goes (.temperatureSample t temps counts) s fun x =>
      x.power.mode = .boot ∧ x.power.cause = 3 ∧ x.power.thermal.tripWait = true := by
  have hexec : exec (.temperatureSample t temps counts) s = execTemperatureSample t temps counts s := rfl
  have hup : domainUp (advance t s) 1 = true := by rw [domainUp_congr (advance_domState t s 1), hd]
  obtain ⟨m, hm⟩ : ∃ m, (List.range 24).find? (fun n => decide (1760 ≤ temps.getD n 0)) = some m :=
    Option.isSome_iff_exists.mp (List.find?_isSome.mpr ⟨n, List.mem_range.mpr hn, by simpa using hhot⟩)
  have hlt : m < 24 := List.mem_range.mp (List.mem_of_find?_eq_some hm)
  obtain ⟨hmode, hcause, hwait, -⟩ := thermalTrip_boots ⟨m, hlt⟩ (temps.getD m 0) (advance t s)
  refine ⟨_, hexec.trans ?_, hmode, hcause, hwait⟩
  unfold execTemperatureSample
  dsimp only
  rw [if_neg (by simp [hup]), hm]

/-- What the monitor of domain `d` shows of the voltage `mv` (R598, R599). -/
def voltOf (s : State) (d mv : Nat) : Volt :=
  ⟨mv, supplied s d && decide (mv * 100 < nominalMv s d * 95), supplied s d && decide (nominalMv s d * 105 < mv * 100)⟩

/-- A sample changes of power its own monitor alone. -/
theorem voltJudge_power (s : State) (d mv : Nat) :
    (voltJudge s (d, mv)).power = { s.power with volts := vMod s.power.volts d (fun _ => voltOf s d mv) } := by
  have htold {x : State} {c : Prop} [Decidable c] {fields : List Int} :
      (notify 0x8304 16 fields (setFlag R.PVT_INT_STAT 2 (if c then bump R.PVT_CNT_VALARM x else x))).power = x.power := by
    have honly : Only [.regs, .teller] x (notify 0x8304 16 fields (setFlag R.PVT_INT_STAT 2 (if c then bump R.PVT_CNT_VALARM x else x))) :=
      notify_only (by decide) (setFlag_only (by decide) (only_ite (bump_only (by decide) (only_refl _ _)) (only_refl _ _)))
    exact honly.2.2 .power (by decide)
  unfold voltJudge
  dsimp only
  split
  · rfl
  · rw [htold]
    rfl

/-- The monitors below `n` are judged, and power is otherwise as it was. -/
structure VoltsJudged (read : Nat → Nat) (s : State) (n : Nat) (x : State) : Prop where
  power : x.power = { s.power with volts := x.power.volts }
  judged : ∀ d < n, d < 14 → vGet x.power.volts d ⟨0, false, false⟩ = voltOf s d (read d)

theorem voltJudge_judged {read : Nat → Nat} {s x : State} {n : Nat} (h : VoltsJudged read s n x) : VoltsJudged read s (n + 1) (voltJudge x (n, read n)) := by
  have hpower := voltJudge_power x n (read n)
  have hvolt : voltOf x n (read n) = voltOf s n (read n) := by
    unfold voltOf supplied nominalMv domState
    rw [h.power]
  refine ⟨by rw [hpower, h.power], fun d hd hlt => ?_⟩
  rw [hpower]
  refine (vGet_vMod x.power.volts n d _ _ hlt).trans ?_
  split
  · rename_i hdn
    rw [hvolt, hdn]
  · rename_i hdn
    exact h.judged d (by omega) hlt

theorem voltsJudged {read : Nat → Nat} (s : State) (n : Nat) : VoltsJudged read s n (((List.range n).map (fun d => (d, read d))).foldl voltJudge s) := by
  induction n with
  | zero => exact ⟨rfl, fun d hd => absurd hd (Nat.not_lt_zero d)⟩
  | succ n ih =>
    rw [List.range_succ, List.map_append, List.foldl_append]
    exact voltJudge_judged ih

theorem voltageSample_judged {volts : List Nat} (hd : domainUp s 1 = true) : Goes (.voltageSample t volts) s fun x => ∀ d : Fin 14,
    vGet x.power.volts d ⟨0, false, false⟩ = (let mv := ((volts.getD d 0 : Int) - calValue s 7 d).toNat
      ⟨mv, supplied s d && decide (mv * 100 < nominalMv s d * 95), supplied s d && decide (nominalMv s d * 105 < mv * 100)⟩) := by
  have hexec : exec (.voltageSample t volts) s = execVoltageSample t volts s := rfl
  have hup : domainUp (advance t s) 1 = true := by rw [domainUp_congr (advance_domState t s 1), hd]
  refine ⟨_, hexec.trans (if_neg (by simp [hup])), fun d => ?_⟩
  rw [(voltsJudged (read := fun d => ((volts.getD d 0 : Int) - calValue (advance t s) 7 d).toNat) (advance t s) 14).judged d d.isLt d.isLt]
  unfold voltOf supplied nominalMv
  rw [calValue_advance, advance_domState, advance_power]

end

end Sys2Proof.Proofs
end

section
/-! W1 (R591): the hold, the armed launches that are cancelled, the groups that are released, and what the flush leaves of them. -/

namespace Sys2Proof.Proofs

open Sys2Proof.Machine Sys2Proof.Safety Sys2Proof.Laws

/-- An armed launch that goes back changes the Almanac, and arms none. -/
theorem disarm_armed (s : State) (a : Armed) : ∃ m, disarm s a = { s with alm := m } ∧ m.armed = s.alm.armed := by
  unfold disarm
  dsimp only
  generalize a.zones.filter _ = waits
  have hback {c : Prop} [Decidable c] {x y : State} (hx : ∃ m, x = { s with alm := m } ∧ m.armed = s.alm.armed)
      (hy : ∃ m, y = { s with alm := m } ∧ m.armed = s.alm.armed) : ∃ m, (if c then x else y) = { s with alm := m } ∧ m.armed = s.alm.armed :=
    keep_ite (P := fun z => ∃ m, z = { s with alm := m } ∧ m.armed = s.alm.armed) hx hy
  split
  · exact hback ⟨_, rfl, rfl⟩ ⟨_, rfl, rfl⟩
  · exact hback ⟨_, rfl, rfl⟩ ⟨_, rfl, rfl⟩
  · exact ⟨_, rfl, rfl⟩
  · exact ⟨_, rfl, rfl⟩

theorem cancelArmed_armed (s : State) : ∃ ports m, cancelArmed s = { s with mac := ports, alm := m } ∧ m.armed = [] := by
  have hfold (l : List Armed) (x : State) : ∃ m, l.foldl disarm x = { x with alm := m } ∧ m.armed = x.alm.armed := by
    induction l generalizing x with
    | nil => exact ⟨_, rfl, rfl⟩
    | cons a r ih =>
      obtain ⟨m, hm, harmed⟩ := disarm_armed x a
      obtain ⟨n, hn, hrest⟩ := ih (disarm x a)
      rw [hm] at hn hrest
      exact ⟨n, by rw [List.foldl_cons, hm, hn], hrest.trans harmed⟩
  unfold cancelArmed
  dsimp only
  generalize hports : modMac _ s = s1
  have hmac : s1 = { s with mac := s1.mac } := by
    rw [← hports]
    rfl
  obtain ⟨m, hm, harmed⟩ := hfold s1.alm.armed (modAlm (fun a => { a with armed := [] }) s1)
  exact ⟨s1.mac, m, hm.trans (congrArg (fun x : State => { x with alm := m }) hmac), harmed⟩

/-- From `s` to `t` the sag's work went on: of power at most the mode and the account of the flush changed; no launch is armed that was not, no group
is held that was not, and housekeeping's registers stand. -/
structure SagHeld (s t : State) : Prop where
  power : t.power = { s.power with mode := t.power.mode, sagFlush := t.power.sagFlush, sagRecords := t.power.sagRecords }
  armed : t.alm.armed = s.alm.armed
  free : ∀ g : Fin 16, holds s g = false → holds t g = false
  regs : HkcRegs s t

theorem SagHeld.refl (s : State) : SagHeld s s := ⟨rfl, rfl, fun _ h => h, HkcRegs.refl s⟩

theorem SagHeld.trans {s t u : State} (h : SagHeld s t) (g : SagHeld t u) : SagHeld s u :=
  ⟨by rw [g.power, h.power], g.armed.trans h.armed, fun i hi => g.free i (h.free i hi), h.regs.trans g.regs⟩

section
variable {s0 s t : State} (h : SagHeld s0 s)
include h

/-- One more operation, which touches neither power nor the Almanac nor the leases. -/
theorem SagHeld.only {l : List Comp} (g : Only l s t) (hl : Comp.power ∉ l ∧ Comp.alm ∉ l ∧ Comp.esc ∉ l) (hr : HkcRegs s t) : SagHeld s0 t := by
  have hpower : t.power = s.power := g.2.2 _ hl.1
  have halm : t.alm = s.alm := g.2.2 _ hl.2.1
  have hesc : t.esc = s.esc := g.2.2 _ hl.2.2
  refine h.trans ⟨by rw [hpower], by rw [halm], fun i hi => ?_, hr⟩
  unfold holds leaseOf at hi ⊢
  rwa [hesc]

theorem notify_sagHeld {code len : Nat} {fields : List Int} : SagHeld s0 (notify code len fields s) :=
  h.only (notify_only (List.Subset.refl _) (only_refl _ _)) (by decide) (notify_hkcRegs (HkcRegs.refl s))

theorem modPower_sagHeld {f : Power → Power}
    (hf : ∀ p, f p = { p with mode := (f p).mode, sagFlush := (f p).sagFlush, sagRecords := (f p).sagRecords }) : SagHeld s0 (modPower f s) :=
  h.trans ⟨hf _, rfl, fun _ hi => hi, (HkcRegs.refl s).same rfl⟩

theorem leaseSend_sagHeld {type g flags : Nat} : SagHeld s0 (leaseSend type g flags s) := by
  have hseq : SagHeld s0 (modEsc (fun e => { e with requestSeq := e.requestSeq + 1 }) s) :=
    h.trans ⟨rfl, rfl, fun _ hi => hi, (HkcRegs.refl s).same rfl⟩
  unfold leaseSend
  dsimp only
  generalize modEsc (fun e => { e with requestSeq := e.requestSeq + 1 }) s = x at hseq
  have hsend {p : Nat} {f : TxFrame} : SagHeld s0 (macSend p f x) := by
    have honly : Only [.mac] x (macSend p f x) := macSend_only (List.Subset.refl _) (only_refl _ _)
    exact hseq.only honly (by decide) ((HkcRegs.refl x).only honly (by decide))
  exact keep_ite hseq hsend

theorem pairMode_sagHeld : SagHeld s0 (pairMode s) := by
  have hmode (m : Mode) : SagHeld s0 { s with power := { s.power with mode := m } } :=
    h.trans ⟨rfl, rfl, fun _ hi => hi, (HkcRegs.refl s).same rfl⟩
  unfold pairMode
  dsimp only
  split
  · exact notify_sagHeld (hmode _)
  · exact h

theorem roleNotice_sagHeld {g role cause : Nat} {k : Int} : SagHeld s0 (roleNotice g role cause k s) :=
  notify_sagHeld (h.only (setFlag_only (List.Subset.refl _) (only_refl _ _)) (by decide) (setFlag_hkcRegs (HkcRegs.refl s) (by decide)))

/-- Of a lease lost the rest stands, and the group is held no more. -/
theorem modLease_sagHeld {g : Nat} {f : Lease → Lease} (hf : ∀ l, (f l).held = false) : SagHeld s0 (modLease g f s) := by
  refine h.trans ⟨rfl, rfl, fun i hi => ?_, (HkcRegs.refl s).same rfl⟩
  unfold holds leaseOf
  refine (congrArg Lease.held (vGet_vMod s.esc.leases g i f _ i.isLt)).trans ?_
  split
  · exact hf _
  · exact hi

end

/-- A group that is released is held no more. -/
theorem loseLease_frees {g cause : Nat} (s : State) : SagHeld s (loseLease g cause s) ∧ (g < 16 → holds (loseLease g cause s) g = false) := by
  unfold loseLease
  split
  · rename_i hfree
    exact ⟨SagHeld.refl s, fun _ => hfree⟩
  · have hlost {f : Lease → Lease} (hf : ∀ l, (f l).held = false) : SagHeld s (modLease g f s) ∧ (g < 16 → holds (modLease g f s) g = false) := by
      refine ⟨modLease_sagHeld (SagHeld.refl s) hf, fun hg => ?_⟩
      unfold holds leaseOf
      refine (congrArg Lease.held (vGet_vMod s.esc.leases g g f _ hg)).trans ?_
      rw [if_pos rfl]
      exact hf _
    generalize hx : modLease g _ s = x
    have hfreed : SagHeld s x ∧ (g < 16 → holds x g = false) := by
      rw [← hx]
      refine hlost ?_
      exact fun _ => rfl
    have hrest : SagHeld x (pairMode (roleNotice g 0 cause 0 x)) := pairMode_sagHeld (roleNotice_sagHeld (SagHeld.refl x))
    exact ⟨hfreed.1.trans hrest, fun hg => hrest.free ⟨g, hg⟩ (hfreed.2 hg)⟩

/-- Every group of the list that was held is released. -/
theorem releaseGroups_frees (gs : List Nat) (s : State) :
    SagHeld s (releaseGroups gs s) ∧ ∀ g : Fin 16, g.val ∈ gs → holds (releaseGroups gs s) g = false := by
  have hfold (l : List Nat) (x : State) : SagHeld x (l.foldl (fun x g => loseLease g 3 (leaseSend 4 g 0 x)) x) ∧
      ∀ g : Fin 16, g.val ∈ l → holds (l.foldl (fun x g => loseLease g 3 (leaseSend 4 g 0 x)) x) g = false := by
    induction l generalizing x with
    | nil => exact ⟨SagHeld.refl x, fun g hg => absurd hg List.not_mem_nil⟩
    | cons i r ih =>
      have hsent : SagHeld x (leaseSend 4 i 0 x) := leaseSend_sagHeld (SagHeld.refl x)
      obtain ⟨hlost, hfreed⟩ := loseLease_frees (g := i) (cause := 3) (leaseSend 4 i 0 x)
      obtain ⟨hrest, hothers⟩ := ih (loseLease i 3 (leaseSend 4 i 0 x))
      refine ⟨(hsent.trans hlost).trans hrest, fun g hg => ?_⟩
      rcases List.mem_cons.mp hg with hgi | hgr
      · subst hgi
        exact hrest.free g (hfreed g.isLt)
      · exact hothers g hgr
  obtain ⟨hheld, hfreed⟩ := hfold (gs.filter (holds s)) s
  refine ⟨hheld, fun g hg => ?_⟩
  by_cases hh : holds s g = true
  · exact hfreed g (List.mem_filter.mpr ⟨hg, hh⟩)
  · exact hheld.free g (by simpa using hh)

/-- Hold and release, while show time runs: from the state that holds, with no launch armed, nothing else is taken, and no group is held (R591). -/
theorem sagHold_holds {s : State} (hr : s.time.running = true) :
    SagHeld { s with power := { s.power with hold := true }, alm := { s.alm with armed := [] } } (sagHold s) ∧
      ∀ g : Fin 16, holds (sagHold s) g = false := by
  obtain ⟨ports, m, hcancel, harmed⟩ := cancelArmed_armed s
  unfold sagHold
  rw [if_pos hr, hcancel]
  generalize hx : modPower _ _ = x
  have hbegun : SagHeld { s with power := { s.power with hold := true }, alm := { s.alm with armed := [] } } x := by
    rw [← hx]
    exact ⟨rfl, harmed, fun _ hi => hi, (HkcRegs.refl _).same rfl⟩
  have hholds (g : Nat) : holds x g = holds s g := by
    rw [← hx]
    rfl
  obtain ⟨hheld, hfreed⟩ := releaseGroups_frees (heldGroups s) x
  refine ⟨hbegun.trans hheld, fun g => ?_⟩
  by_cases hh : holds s g = true
  · exact hfreed g (List.mem_filter.mpr ⟨List.mem_range.mpr g.isLt, hh⟩)
  · exact hheld.free g ((hholds g).trans (by simpa using hh))

end Sys2Proof.Proofs
end

section
/-! SAG_W1, SAG_RECOVERED and SAG_HOLD_EXPIRY (R591 to R594). -/

namespace Sys2Proof.Proofs

open Sys2Proof.Machine Sys2Proof.Safety Sys2Proof.Laws

section
variable {s0 s : State} (h : SagHeld s0 s)
include h

theorem calSag_sagHeld : SagHeld s0 (calSag s) := by
  have hcal (f : Cal → Cal) : SagHeld s0 (bump R.CAL_CNT_WRFAIL (modCal f s)) := by
    have honly : Only [.regs, .cal] s (bump R.CAL_CNT_WRFAIL (modCal f s)) := bump_only (by decide) (modCal_only (by decide) (only_refl _ _))
    have hmod : HkcRegs s (modCal f s) := (HkcRegs.refl s).same rfl
    exact h.only honly (by decide) (bump_hkcRegs hmod (by decide))
  have htold {x : State} (hx : SagHeld s0 x) {copy gen : Nat} : SagHeld s0 (sectorNotice 1 copy gen x) :=
    notify_sagHeld (hx.only (setFlag_only (List.Subset.refl _) (only_refl _ _)) (by decide) (setFlag_hkcRegs (HkcRegs.refl x) (by decide)))
  unfold calSag
  split
  · exact keep_ite h (htold (hcal _))
  · exact h

theorem blockSag_sagHeld : SagHeld s0 (blockSag s) := by
  have hvault (f : Vault → Vault) : SagHeld s0 (modVlt f s) :=
    h.only (modVlt_only (List.Subset.refl _) (only_refl _ _)) (by decide) ((HkcRegs.refl s).same rfl)
  have hanswer {x : State} (hx : SagHeld s0 x) {owed : Option Call} {p : Reply} : SagHeld s0 (respondOwed 0x0611 owed p x) :=
    hx.only (respondOwed_only (List.Subset.refl _) (only_refl _ _)) (by decide) (respondOwed_hkcRegs (HkcRegs.refl x))
  unfold blockSag
  split
  · exact hanswer (hvault _)
  · exact h

theorem ledgerEvent_sagHeld {code : Nat} {fields : List Int} : SagHeld s0 (ledgerEvent code fields s) := by
  have honly : Only [.teller] s (ledgerEvent code fields s) := ledgerEvent_only (List.Subset.refl _) (only_refl _ _)
  exact h.only honly (by decide) ((HkcRegs.refl s).only honly (by decide))

/-- The Ledger's records of the sag and the flush that it starts. -/
theorem sagRecords_sagHeld {fuel : Nat} : SagHeld s0 (flushStart true [] (recordAll fuel (sagThaw s))) := by
  have hthaw : HkcRegs s (sagThaw s) := keep_ite (thaw_hkcRegs (HkcRegs.refl s)) (thawSag_hkcRegs (HkcRegs.refl s))
  have honly : Only [.regs, .teller, .lgr] s (flushStart true [] (recordAll fuel (sagThaw s))) :=
    flushStart_only (by decide) (recordAll_only (by decide) (sagThaw_only (by decide) (only_refl _ _)))
  exact h.only honly (by decide) (flushStart_hkcRegs (recordAll_hkcRegs hthaw))

/-- The flush ends: while the hold stands, and VSENSE has not recovered, that is all. -/
theorem sagFlushed_sagHeld (hhold : s.power.hold = true) (hlow : s.power.recoveredAt = none) : SagHeld s0 (sagFlushed s) := by
  have htold {f : Power → Power} {n : Nat}
      (hf : ∀ p, f p = { p with mode := (f p).mode, sagFlush := (f p).sagFlush, sagRecords := (f p).sagRecords }) :
      SagHeld s (sagNotice 1 n (modPower f s)) := notify_sagHeld (modPower_sagHeld (SagHeld.refl s) hf)
  unfold sagFlushed
  split
  · dsimp only
    generalize hx : sagNotice 1 _ _ = x
    have hkept : SagHeld s x := by
      rw [← hx]
      refine htold ?_
      exact fun _ => rfl
    have hholdAt : x.power.hold = true := by rw [hkept.power, hhold]
    have hlowAt : x.power.recoveredAt = none := by rw [hkept.power, hlow]
    rw [if_neg (by simp [hholdAt]), if_neg (by simp [hlowAt])]
    exact h.trans hkept
  · exact h

end

/-- W1 asserts while show time runs: W1 and its instant stand in power, the hold is set, no launch is armed, no group is held, and the flag and the count
of W1 show it. -/
theorem sagStart_holds {mv : Nat} {s : State} (hw : RegsWf s.regs) (hr : s.time.running = true) :
    (sagStart mv s).power.w1 = true ∧ (sagStart mv s).power.w1At = s.time.now ∧ (sagStart mv s).power.hold = true ∧ (sagStart mv s).alm.armed = [] ∧
      (∀ g : Fin 16, holds (sagStart mv s) g = false) ∧ bitOf (reg (sagStart mv s) R.PWR_INT_STAT) 2 = true ∧
      regN (sagStart mv s) R.PWR_CNT_W1 = min 0xFFFFFFFF (regN s R.PWR_CNT_W1 + 1) := by
  unfold sagStart
  dsimp only
  generalize hs1 : setFlag R.PWR_INT_STAT 2 _ = s1
  have h1 : s1.power.w1 = true ∧ s1.power.w1At = s.time.now ∧ s1.power.recoveredAt = none ∧ s1.time.running = true := by
    rw [← hs1]
    exact ⟨rfl, rfl, rfl, hr⟩
  obtain ⟨hw1, hat, hlow, hruns⟩ := h1
  have hcounted : RegsWf s1.regs ∧ bitOf (reg s1 R.PWR_INT_STAT) 2 = true ∧ regN s1 R.PWR_CNT_W1 = min 0xFFFFFFFF (regN s R.PWR_CNT_W1 + 1) := by
    have hflagged {x : State} (hx : RegsWf x.regs) : RegsWf (setFlag R.PWR_INT_STAT 2 (bump R.PWR_CNT_W1 x)).regs ∧
        bitOf (reg (setFlag R.PWR_INT_STAT 2 (bump R.PWR_CNT_W1 x)) R.PWR_INT_STAT) 2 = true ∧
        regN (setFlag R.PWR_INT_STAT 2 (bump R.PWR_CNT_W1 x)) R.PWR_CNT_W1 = min 0xFFFFFFFF (regN x R.PWR_CNT_W1 + 1) := by
      refine ⟨setFlag_wf _ _ (bump_wf _ hx), setFlag_shows (bump_wf _ hx) (by decide), ?_⟩
      rw [regN, setFlag_reg (bump_wf _ hx), if_neg (by decide)]
      exact bump_regN hx _
    have hmod {f : Power → Power} : RegsWf (modPower f s).regs := hw
    rw [← hs1]
    exact hflagged hmod
  obtain ⟨hheld, hfree⟩ := sagHold_holds hruns
  generalize sagHold s1 = s2 at hheld hfree
  have htold : SagHeld s2 (blockSag (calSag (sagNotice 0 0 s2))) := blockSag_sagHeld (calSag_sagHeld (notify_sagHeld (SagHeld.refl s2)))
  generalize blockSag (calSag (sagNotice 0 0 s2)) = s3 at htold
  generalize hs4 : ledgerEvent 0x0006 _ s3 = s4
  have hevent : SagHeld s2 s4 := by
    rw [← hs4]
    exact ledgerEvent_sagHeld htold
  have hflushing : SagHeld s2 (flushStart true [] (recordAll (sagThaw s4).teller.ledgerOffers.length (sagThaw s4))) := sagRecords_sagHeld hevent
  generalize flushStart true [] (recordAll (sagThaw s4).teller.ledgerOffers.length (sagThaw s4)) = s5 at hflushing
  generalize hs6 : modPower _ s5 = s6
  have hdraining : SagHeld s2 s6 := by
    rw [← hs6]
    refine modPower_sagHeld hflushing ?_
    exact fun _ => rfl
  have hend : SagHeld s2 (sagFlushed s6) := sagFlushed_sagHeld hdraining (by rw [(hheld.trans hdraining).power])
    (by rw [(hheld.trans hdraining).power, hlow])
  obtain ⟨hwf, hbit, hcount⟩ := hcounted
  have hall := hheld.trans hend
  have hstands := (hall.regs hwf).2
  refine ⟨?_, ?_, ?_, hall.armed, fun g => hend.free g (hfree g), ?_, ?_⟩
  · rw [hall.power, hw1]
  · rw [hall.power, hat]
  · rw [hall.power]
  · exact (congrArg (bitOf · 2) (hstands _ (by decide))).trans hbit
  · exact (congrArg BitVec.toNat (hstands _ (by decide))).trans hcount

section
variable {t : Nat} {s : State}

theorem w1Pct_advance (t : Nat) (s : State) : w1Pct (advance t s) = w1Pct s := by
  unfold w1Pct
  rw [advance_reg]

theorem holdNs_advance (t : Nat) (s : State) : holdNs (advance t s) = holdNs s := by
  unfold holdNs
  rw [advance_reg]

theorem domainUp_advance (t : Nat) (s : State) (d : Nat) : domainUp (advance t s) d = domainUp s d := domainUp_congr (advance_domState t s d)

/-! SAG_W1. -/

theorem sagW1_above {mv : Nat} (hd : domainUp s 1 = true) (hv : 10 * w1Pct s ≤ mv) :
    exec (.sagW1 t mv) s = .next { advance t s with power := { s.power with vsense := mv } } := by
  have hexec : exec (.sagW1 t mv) s = execSagW1 t mv s := rfl
  rw [hexec]
  unfold execSagW1
  dsimp only
  rw [domainUp_advance, w1Pct_advance, if_neg (by simp [hd]), if_pos hv, modPower, advance_power]

theorem sagW1_again {mv : Nat} (hd : domainUp s 1 = true) (hv : mv < 10 * w1Pct s) (hs : sagBlocks s = true) :
    exec (.sagW1 t mv) s = .next { advance t s with power := { s.power with
      vsense := mv, w1 := true, w1Low := min s.power.w1Low mv, recoveredAt := none } } := by
  have hexec : exec (.sagW1 t mv) s = execSagW1 t mv s := rfl
  rw [hexec]
  unfold execSagW1
  dsimp only
  rw [domainUp_advance, w1Pct_advance, sagBlocks_advance, if_neg (by simp [hd]), if_neg (by omega), if_pos hs, modPower, advance_power]

theorem sagW1_starts {mv : Nat} (hw : RegsWf s.regs) (hd : domainUp s 1 = true) (hv : mv < 10 * w1Pct s) (hs : sagBlocks s = false)
    (hr : s.time.running = true) : Goes (.sagW1 t mv) s fun x => x.power.w1 = true ∧ x.power.w1At = (advance t s).time.now ∧
      x.power.hold = true ∧ x.alm.armed = [] ∧ (∀ g : Fin 16, holds x g = false) ∧ bitOf (reg x R.PWR_INT_STAT) 2 = true ∧
      regN x R.PWR_CNT_W1 = min 0xFFFFFFFF (regN s R.PWR_CNT_W1 + 1) := by
  have hexec : exec (.sagW1 t mv) s = execSagW1 t mv s := rfl
  have hstart := sagStart_holds (mv := mv) (s := advance t s) (by rwa [advance_regs]) (by simpa using hr)
  rw [advance_regN] at hstart
  refine ⟨_, hexec.trans ?_, hstart⟩
  unfold execSagW1
  dsimp only
  rw [domainUp_advance, w1Pct_advance, sagBlocks_advance, if_neg (by simp [hd]), if_neg (by omega), if_neg (by simp [hs])]

/-! SAG_RECOVERED. -/

theorem sagRecovered_low {mv : Nat} (hd : domainUp s 1 = true) (hv : mv ≤ 10 * w1Pct s + 20) :
    exec (.sagRecovered t mv) s = .next { advance t s with power := { s.power with
      vsense := mv, w1 := decide (mv < 10 * w1Pct s), w1Low := min s.power.w1Low mv, recoveredAt := none } } := by
  have hexec : exec (.sagRecovered t mv) s = execSagRecovered t mv s := rfl
  rw [hexec]
  unfold execSagRecovered
  dsimp only
  rw [domainUp_advance, w1Pct_advance, if_neg (by simp [hd]), if_pos hv, modPower, advance_power]

theorem sagRecovered_noHold {mv : Nat} (hd : domainUp s 1 = true) (hv : 10 * w1Pct s + 20 < mv) (h : s.power.hold = false ∨ s.power.sagFlush = true) :
    exec (.sagRecovered t mv) s = .next { advance t s with power := { s.power with
      vsense := mv, w1 := false, recoveredAt := some (advance t s).time.now } } := by
  have hexec : exec (.sagRecovered t mv) s = execSagRecovered t mv s := rfl
  rw [hexec]
  unfold execSagRecovered
  dsimp only [modPower]
  rw [domainUp_advance, w1Pct_advance, advance_power, if_neg (by simp [hd]), if_neg (by omega), if_neg (by rcases h with h | h <;> simp [h])]

/-- The hold ends, with its flag and its notice; what waited goes on. -/
theorem holdEnd_ends {s : State} (hw : RegsWf s.regs) (h1 : s.power.w1 = false) :
    (holdEnd s).power.hold = false ∧ (holdEnd s).power.w1 = false ∧ bitOf (reg (holdEnd s) R.PWR_INT_STAT) 3 = true := by
  unfold holdEnd
  generalize hs1 : modPower _ s = s1
  have hended : s1.power.hold = false ∧ s1.power.w1 = false ∧ s1.regs = s.regs := by
    rw [← hs1]
    exact ⟨rfl, h1, rfl⟩
  obtain ⟨hhold, hw1, hregs⟩ := hended
  have hflag : SagStands 3 (setFlag R.PWR_INT_STAT 3 s1) (sagOver (sagNotice 2 s.power.sagRecords (setFlag R.PWR_INT_STAT 3 s1))) := by
    have htold : SagStands 3 (setFlag R.PWR_INT_STAT 3 s1) (sagNotice 2 s.power.sagRecords (setFlag R.PWR_INT_STAT 3 s1)) :=
      notify_sagStands (SagStands.refl 3 _)
    have hresume {x y : State} (hx : SagStands 3 y x) : SagStands 3 y (calResume x) := by
      have honly : Only [.cal] x (calResume x) := calResume_only (List.Subset.refl _) (only_refl _ _)
      exact hx.only honly (by decide) ((HkcRegs.refl x).only honly (by decide))
    exact changeGo_sagStands (changeEnd_sagStands (kick_sagStands (hresume htold)))
  have hwf : RegsWf s1.regs := by rwa [hregs]
  exact ⟨hflag.hold.trans hhold, hflag.w1.trans hw1, (hflag.flag (setFlag_wf _ _ hwf)).2 (setFlag_shows hwf (by decide))⟩

theorem sagRecovered_ends {mv : Nat} (hw : RegsWf s.regs) (hd : domainUp s 1 = true) (hv : 10 * w1Pct s + 20 < mv) (hh : s.power.hold = true)
    (hf : s.power.sagFlush = false) : Goes (.sagRecovered t mv) s fun x => x.power.hold = false ∧ x.power.w1 = false ∧
      bitOf (reg x R.PWR_INT_STAT) 3 = true := by
  have hexec : exec (.sagRecovered t mv) s = execSagRecovered t mv s := rfl
  have hup : domainUp (advance t s) 1 = true := by rw [domainUp_advance, hd]
  have hpct : ¬mv ≤ 10 * w1Pct (advance t s) + 20 := by
    rw [w1Pct_advance]
    omega
  refine ⟨_, hexec.trans ((if_neg (by simp [hup])).trans ((if_neg hpct).trans (if_pos ?_))), holdEnd_ends ?_ rfl⟩
  · exact ⟨(congrArg Power.hold (advance_power t s)).trans hh, (congrArg Power.sagFlush (advance_power t s)).trans hf⟩
  · exact (advance_regs t s).symm ▸ hw

end

end Sys2Proof.Proofs
end

section
/-! SAG_HOLD_EXPIRY (R592): the device sheds to STANDBY, and show time stops. -/

namespace Sys2Proof.Proofs

open Sys2Proof.Machine Sys2Proof.Safety Sys2Proof.Laws

theorem timeStop_stops (s : State) : (timeStop s).time.running = false := by
  unfold timeStop
  split
  · assumption
  · rfl

/-- Leaving a mode leaves the change as it stands; where show time goes with it, it stops. -/
theorem modeLeave_change (old new : Mode) (s : State) : (modeLeave old new s).power.change = s.power.change := by
  have hpass (x : State) : (passAbort x).power = x.power := (passAbort_only (List.Subset.refl _) (only_refl [.regs, .teller, .cal] x)).2.2 .power (by decide)
  have hstop (x : State) : (showStop x).power = x.power := (showStop_only (List.Subset.refl _) (only_refl [.regs, .time, .teller, .alm, .protect, .vin,
    .cfgA, .cfgB, .cmp, .ras, .fxm, .pho, .pool, .lanes, .dmx, .rad, .esc, .map] x)).2.2 .power (by decide)
  unfold modeLeave
  dsimp only
  generalize hs1 : (if old = .calibrate ∧ new ≠ .calibrate then passAbort s else s) = s1
  have h1 : s1.power.change = s.power.change := by
    rw [← hs1]
    exact keep_ite (P := fun x => x.power.change = s.power.change) (by rw [hpass]) rfl
  generalize hs2 : (if modeIsDiag old = true ∧ modeIsDiag new = false then _ else s1) = s2
  have h2 : s2.power.change = s.power.change := by
    rw [← hs2]
    exact keep_ite (P := fun x => x.power.change = s.power.change) h1 h1
  exact keep_ite (P := fun x => x.power.change = s.power.change) (by rw [hstop, h2]) h2

theorem modeLeave_stops {old new : Mode} (ho : modeRuns old = true) (hn : modeRuns new = false) (s : State) :
    (modeLeave old new s).time.running = false := by
  unfold modeLeave
  dsimp only
  rw [if_pos (c := modeRuns old = true ∧ modeRuns new = false) ⟨ho, hn⟩]
  exact timeStop_stops _

/-- A change to STANDBY that begins stops show time; it has ended, or it waits for the domains. -/
theorem changeBegin_standby {c : ModeChange} {s : State} (hc : s.power.change = some c) (hto : c.to_ = .standby) (hb : c.begun = false)
    (hs : sagBlocks s = false) (hm : modeRuns s.power.mode = true) : (changeBegin s).time.running = false ∧
      (((changeBegin s).power.change = none ∧ (changeBegin s).power.mode = .standby) ∨
        ∃ c, (changeBegin s).power.change = some c ∧ c.to_ = .standby ∧ c.begun = true) := by
  unfold changeBegin
  rw [hc]
  dsimp only
  rw [if_neg (by simp [hb, hs]), if_neg (by simp [hto, sleeps])]
  generalize hs1 : modeLeave _ _ _ = s1
  have h1 : s1.time.running = false ∧ s1.power.change.map changeGoal = some (.standby, true) := by
    rw [← hs1]
    refine ⟨modeLeave_stops hm (by rw [hto]; rfl) _, ?_⟩
    rw [modeLeave_change]
    exact congrArg (fun m => some (m, true)) hto
  have hgoal : (kick s1).power.change.map changeGoal = some (.standby, true) := (kick_changeGoal s1).trans h1.2
  have hruns : (kick s1).time.running = false := by
    rw [show (kick s1).time = s1.time from (kick_only (List.Subset.refl _) (only_refl _ s1)).2.2 .time (by decide)]
    exact h1.1
  generalize kick s1 = k at hgoal hruns
  obtain ⟨b, hchange, hboth⟩ := Option.map_eq_some_iff.mp hgoal
  obtain ⟨hbto, hbegun⟩ := Prod.mk.inj hboth
  unfold changeEnd
  rw [hchange]
  dsimp only
  split
  · obtain ⟨hnone, hmode, -, hstopped⟩ := changeDone_awake (c := b) k (by rw [hbto]; rfl)
    refine ⟨hstopped.trans hruns, .inl ⟨hnone, hmode.trans ?_⟩⟩
    rw [hbto]
    exact if_neg fun hshow => by cases hshow.1
  · exact ⟨hruns, .inr ⟨b, hchange, hbto, hbegun⟩⟩

/-- DRAM's entry to self-refresh and the calibration write that is dropped leave the sag's account. -/
theorem selfRefresh_sagStands {i : Nat} {s0 s : State} (h : SagStands i s0 s) : SagStands i s0 (selfRefresh s) := by
  have hdram : SagStands i s0 (modPower (fun p => { p with dram := 2 }) s) := modPower_sagStands h fun _ => ⟨rfl, rfl⟩
  unfold selfRefresh
  refine keep_ite h ?_
  generalize modPower _ s = x at hdram
  refine hdram.trans ⟨rfl, rfl, fun hw => ⟨bump_wf _ hw, fun hb => ?_⟩⟩
  rwa [bump_reg hw _ _ (by decide)]

theorem calDrop_sagStands {i : Nat} {s0 s : State} (h : SagStands i s0 s) : SagStands i s0 (calDrop s) := by
  have honly : Only [.cal] s (calDrop s) := calDrop_only (List.Subset.refl _) (only_refl _ _)
  exact h.only honly (by decide) ((HkcRegs.refl s).only honly (by decide))

section
variable {t : Nat} {s : State}

/-- The change that a shed makes: to STANDBY, by the sag (R592). -/
def shedChange (change : Option ModeChange) : ModeChange :=
  match change with
  | some x => { x with to_ := .standby, cause := 1, atBoundary := false, begun := false }
  | none => ⟨.standby, .standby, 1, none, false, false⟩

theorem shedChange_standby (change : Option ModeChange) : (shedChange change).to_ = .standby ∧ (shedChange change).begun = false := by
  cases change <;> exact ⟨rfl, rfl⟩

theorem sagHoldExpiry_sheds (hw : RegsWf s.regs) (hh : s.power.hold = true) (hf : s.power.sagFlush = false)
    (hd : s.power.w1At + holdNs s ≤ (advance t s).time.now) (hm : modeRuns s.power.mode = true) :
    Goes (.sagHoldExpiry t) s fun x => x.power.hold = false ∧ x.time.running = false ∧ bitOf (reg x R.PWR_INT_STAT) 4 = true ∧
      ((x.power.change = none ∧ x.power.mode = .standby) ∨ ∃ c, x.power.change = some c ∧ c.to_ = .standby ∧ c.begun = true) := by
  have hexec : exec (.sagHoldExpiry t) s = execSagHoldExpiry t s := rfl
  have hcond : (advance t s).power.hold = true ∧ (advance t s).power.sagFlush = false ∧
      (advance t s).power.w1At + holdNs (advance t s) ≤ (advance t s).time.now := by
    rw [advance_power, holdNs_advance]
    exact ⟨hh, hf, hd⟩
  refine ⟨_, hexec.trans (if_pos hcond), ?_⟩
  generalize hs1 : setFlag R.PWR_INT_STAT 4 (modPower _ (advance t s)) = s1
  have hpower1 : s1.power = { s.power with hold := false, shedOff := true } := by
    rw [← hs1]
    exact congrArg (fun p : Power => { p with hold := false, shedOff := true }) (advance_power t s)
  have hflagged {x : State} (hx : RegsWf x.regs) : RegsWf (setFlag R.PWR_INT_STAT 4 x).regs ∧
      bitOf (reg (setFlag R.PWR_INT_STAT 4 x) R.PWR_INT_STAT) 4 = true := ⟨setFlag_wf _ _ hx, setFlag_shows hx (by decide)⟩
  have hwf : RegsWf (advance t s).regs := by rwa [advance_regs]
  have hflag1 : RegsWf s1.regs ∧ bitOf (reg s1 R.PWR_INT_STAT) 4 = true := by
    rw [← hs1]
    exact hflagged hwf
  generalize hs2 : sagNotice 3 _ s1 = s2
  have hpower2 : s2.power = s1.power := by
    rw [← hs2]
    exact (sagNotice_only (List.Subset.refl _) (only_refl [.regs, .teller] s1)).2.2 .power (by decide)
  have hstands2 : SagStands 4 s1 s2 := by
    rw [← hs2]
    exact notify_sagStands (SagStands.refl 4 s1)
  generalize hs3 : modPower _ s2 = s3
  have hpower3 : s3.power = { s2.power with change := some (shedChange s2.power.change) } := by
    rw [← hs3]
    rfl
  have hstands3 : SagStands 4 s1 s3 := by
    rw [← hs3]
    exact modPower_sagStands hstands2 fun _ => ⟨rfl, rfl⟩
  have hstands4 : SagStands 4 s1 (calDrop (selfRefresh s3)) := calDrop_sagStands (selfRefresh_sagStands hstands3)
  have hpower4 : ∃ dram, (calDrop (selfRefresh s3)).power = { s3.power with dram := dram } := by
    have hdrop : (calDrop (selfRefresh s3)).power = (selfRefresh s3).power :=
      (calDrop_only (List.Subset.refl _) (only_refl [.cal] (selfRefresh s3))).2.2 .power (by decide)
    rw [hdrop]
    exact keep_ite (P := fun x => ∃ dram, x.power = { s3.power with dram := dram }) ⟨_, rfl⟩ ⟨_, rfl⟩
  generalize calDrop (selfRefresh s3) = s4 at hstands4 hpower4
  obtain ⟨dram, hpower4⟩ := hpower4
  rw [hpower3, hpower2, hpower1] at hpower4
  have hbegun := changeBegin_sagStands hstands4
  obtain ⟨hstopped, hstandby⟩ := changeBegin_standby (s := s4) (by rw [hpower4]) (shedChange_standby _).1 (shedChange_standby _).2
    (by simp [sagBlocks, hpower4, hf]) (by rw [hpower4]; exact hm)
  exact ⟨by rw [hbegun.hold, hpower1], hstopped, (hbegun.flag hflag1.1).2 hflag1.2, hstandby⟩

theorem sagHoldExpiry_idle (h : s.power.hold = false ∨ s.power.sagFlush = true ∨ (advance t s).time.now < s.power.w1At + holdNs s) :
    exec (.sagHoldExpiry t) s = .next (advance t s) := by
  have hexec : exec (.sagHoldExpiry t) s = execSagHoldExpiry t s := rfl
  refine hexec.trans (if_neg ?_)
  rw [advance_power, holdNs_advance]
  rintro ⟨hh, hf, hd⟩
  rcases h with h | h | h
  · rw [hh] at h
    cases h
  · rw [hf] at h
    cases h
  · omega

end

/-- Settles O54: each event by the rule of its own, with what HKC's next step, a change of mode and the sag's work keep. -/
theorem powerEvents : Obligations.PowerEvents := by
  unfold Obligations.PowerEvents
  rintro t s y hw rfl
  refine ⟨fun d => ⟨domainStepDone_ends, domainStepDone_idle⟩, fun c hc => ⟨modeChangeDone_ends hc, modeChangeDone_waits hc⟩, modeChangeDone_none,
    fun idle => ⟨dramIdleEntry_refreshes hw, dramIdleEntry_powersDown, dramIdleEntry_idle⟩,
    fun hd mv => ⟨sagW1_above hd, sagW1_again hd, sagW1_starts hw hd, sagRecovered_low hd, sagRecovered_noHold hd, sagRecovered_ends hw hd⟩,
    sagHoldExpiry_sheds hw, sagHoldExpiry_idle, fun z => thermalShedStep_sheds, thermalShedStep_restores, thermalShedStep_idle,
    fun temps counts => temperatureSample_judged, fun temps counts n => temperatureSample_trips, fun volts => voltageSample_judged,
    avsRetune_moves, avsRetune_idle, vbatLoss_clears⟩

end Sys2Proof.Proofs
end

section
/-! The channels of the check-value unit (R148 to R154, R561): what starting, feeding, finishing and an access to RUN or ALIVE write. -/

namespace Sys2Proof.Proofs

open Sys2Proof.Machine Sys2Proof.Safety Sys2Proof.Laws

/-! Registers written one after another. -/

theorem wrote_other {ws : List (Nat × Word)} {s x : State} (h : Wrote ws s x) {b : Nat} (hb : ws.lookup b = none) : reg x b = reg s b := by
  rw [h.regs, hb, Option.getD_none]

/-- A register written after others of which it is none. -/
theorem wrote_setReg_other {ws : List (Nat × Word)} {s x : State} (h : Wrote ws s x) (hx : RegsWf x.regs) {a : Nat} (ha : ws.lookup a = none) (w : Word) :
    Wrote (ws ++ [(a, w)]) s (setReg a w x) where
  only := (wrote_setReg h hx a w).only
  regs b := by
    rw [(wrote_setReg h hx a w).regs, List.lookup_append, List.lookup_cons]
    by_cases hb : b = a
    · simp [hb, ha]
    · simp [List.lookup_cons, beq_false_of_ne hb]

/-! Teller's last run (R561). -/

theorem chkRun_wrote {s : State} (h : RegsWf s.regs) (ch : Nat) (bs : List (BitVec 8)) :
    Wrote [(R.CHK_CHn_RUN ch, crcBytes 0xFFFFFFFF bs), (R.CHK_CHn_BYTES ch, BitVec.ofNat 32 bs.length), (R.CHK_CHn_RESULT ch, crc32c bs)]
      s (chkRun ch bs s) := by
  have hrun := setReg_wrote h (R.CHK_CHn_RUN ch) (crcBytes 0xFFFFFFFF bs)
  have hbytes := wrote_setReg_other hrun (setReg_wf h _ _) (a := R.CHK_CHn_BYTES ch) (by simp [R.CHK_CHn_BYTES, R.CHK_CHn_RUN]) (BitVec.ofNat 32 bs.length)
  exact wrote_setReg_other hbytes (setReg_wf (setReg_wf h _ _) _ _) (by simp [R.CHK_CHn_BYTES, R.CHK_CHn_RUN, R.CHK_CHn_RESULT]) _

theorem chkSettle_none {ch : Nat} {s : State} (hc : aFind s.teller.checked ch = none) : chkSettle ch s = s := by
  rw [chkSettle, hc]

theorem chkSettle_some {ch : Nat} {bs : List (BitVec 8)} {s : State} (hc : aFind s.teller.checked ch = some bs) :
    chkSettle ch s = chkRun ch bs { s with teller := { s.teller with checked := aDel s.teller.checked ch } } := by
  rw [chkSettle, hc]

theorem chkSettle_wf (ch : Nat) {s : State} (h : RegsWf s.regs) : RegsWf (chkSettle ch s).regs :=
  regsWf_of (chkSettle_keeps ch s (Keeps.refl s)) h

theorem chkSettle_protect (ch : Nat) (s : State) : (chkSettle ch s).protect = s.protect :=
  (chkSettle_only (List.Subset.refl _) (only_refl _ s)).2.2 .protect (by decide)

/-- A run that is shown stands in RUN, BYTES and RESULT alone. -/
theorem chkSettle_reg {ch b : Nat} {s : State} (h : RegsWf s.regs) (hrun : b ≠ R.CHK_CHn_RUN ch) (hbytes : b ≠ R.CHK_CHn_BYTES ch)
    (hres : b ≠ R.CHK_CHn_RESULT ch) : reg (chkSettle ch s) b = reg s b := by
  cases hc : aFind s.teller.checked ch with
  | none => rw [chkSettle_none hc]
  | some bs =>
    rw [chkSettle_some hc]
    exact wrote_other (chkRun_wrote h ch bs) (by simp [hrun, hbytes, hres])

theorem chkSettle_CTRL (ch : Nat) {s : State} (h : RegsWf s.regs) : reg (chkSettle ch s) (R.CHK_CHn_CTRL ch) = reg s (R.CHK_CHn_CTRL ch) := by
  apply chkSettle_reg h <;> simp [R.CHK_CHn_CTRL, R.CHK_CHn_RUN, R.CHK_CHn_BYTES, R.CHK_CHn_RESULT]

/-! The owner (R151). -/

theorem byOwner_owner {owner ch : Nat} {s : State} (ho : bits (reg s (R.CHK_CHn_CTRL ch)) 31 24 = owner) (t : Nat) (f : State → State) :
    byOwner owner ch (advance t s) f = f (chkSettle ch (advance t s)) := by
  rw [byOwner, if_pos (by rw [advance_reg, ho])]

theorem byOwner_other {owner ch : Nat} {s : State} (ho : bits (reg s (R.CHK_CHn_CTRL ch)) 31 24 ≠ owner) (t : Nat) (f : State → State) :
    byOwner owner ch (advance t s) f = setFlag R.CHK_INT_STAT 0 (advance t s) := by
  rw [byOwner, if_neg (by rwa [advance_reg])]

theorem exec_chkStart (t owner : Nat) (ch : Fin 64) (aliveClr : Bool) (s : State) :
    exec (.chkStart t owner ch aliveClr) s = .next (byOwner owner ch (advance t s) (chkStart ch aliveClr)) := rfl

theorem exec_chkFeed (t owner : Nat) (ch : Fin 64) (w : Word) (s : State) :
    exec (.chkFeed t owner ch w) s = .next (byOwner owner ch (advance t s) (chkFeed ch w)) := rfl

theorem exec_chkFinish (t owner : Nat) (ch : Fin 64) (a : Nat) (s : State) :
    exec (.chkFinish t owner ch a) s = .next (byOwner owner ch (advance t s) (chkFinish ch a)) := rfl

theorem exec_chkStateAccess (t owner : Nat) (ch : Fin 64) (alive : Bool) (write : Option Word) (s : State) :
    exec (.chkStateAccess t owner ch alive write) s = .next (byOwner owner ch (advance t s) (chkState ch alive write)) := rfl

/-! The operations of the owner (R149, R150, R153). -/

section

variable {s : State} (h : RegsWf s.regs) (ch : Nat)

include h

theorem chkStart_wrote : Wrote [(R.CHK_CHn_RUN ch, 0xFFFFFFFF), (R.CHK_CHn_BYTES ch, 0)] s (chkStart ch false s) :=
  wrote_setReg_other (setReg_wrote h (R.CHK_CHn_RUN ch) 0xFFFFFFFF) (setReg_wf h _ _) (by simp [R.CHK_CHn_BYTES, R.CHK_CHn_RUN]) 0

theorem chkFeed_wrote (w : Word) :
    Wrote [(R.CHK_CHn_RUN ch, crcBytes (reg s (R.CHK_CHn_RUN ch)) ((wordBytes w).take (bits (reg s (R.CHK_CHn_CTRL ch)) 4 3 + 1))),
      (R.CHK_CHn_BYTES ch, BitVec.ofNat 32 (min 0xFFFFFFFF (regN s (R.CHK_CHn_BYTES ch) + (bits (reg s (R.CHK_CHn_CTRL ch)) 4 3 + 1))))]
      s (chkFeed ch w s) := by
  have hne : R.CHK_CHn_BYTES ch ≠ R.CHK_CHn_RUN ch := by simp [R.CHK_CHn_BYTES, R.CHK_CHn_RUN]
  have hrun := setReg_wrote h (R.CHK_CHn_RUN ch)
    (crcBytes (reg s (R.CHK_CHn_RUN ch)) ((wordBytes w).take (bits (reg s (R.CHK_CHn_CTRL ch)) 4 3 + 1)))
  have hcount := congrArg BitVec.toNat (wrote_other hrun (b := R.CHK_CHn_BYTES ch) (by simp [hne]))
  rw [regN, ← hcount]
  exact wrote_setReg_other hrun (setReg_wf h _ _) (by simp [hne]) _

/-- RESULT takes RUN inverted, and the verdict that the channel held goes. -/
theorem chkResult_reg (b : Nat) :
    reg (chkResult ch s) b = if b = R.CHK_CHn_RESULT ch then reg s (R.CHK_CHn_RUN ch) ^^^ 0xFFFFFFFF else reg s b := by
  rw [chkResult, reg_of (modProtect_regs _ _), reg_setReg h]
  simp only [eq_comm]

end

theorem chkFinish_plain {ch : Nat} {s : State} (ha : bitOf (reg s (R.CHK_CHn_CTRL ch)) 6 = false) (a : Nat) : chkFinish ch a s = chkResult ch s := by
  rw [chkFinish, ha, if_neg Bool.false_ne_true]

theorem chkResult_protect (ch : Nat) (s : State) : (chkResult ch s).protect = { s.protect with verdicts := aDel s.protect.verdicts ch } := rfl

theorem crcBytes_append (r : Word) (a b : List (BitVec 8)) : crcBytes (crcBytes r a) b = crcBytes r (a ++ b) := List.foldl_append.symm

/-! The owner's commands, on the run that the channel shows (R149 to R154). -/

section

variable {t owner : Nat} {ch : Fin 64} {s : State}

/-- The run that the channel shows is in its registers before the command goes on from it, and nothing else has changed (R561). -/
theorem chkSettle_shows {bs : List (BitVec 8)} (h : RegsWf s.regs) (hc : aFind s.teller.checked ch = some bs) :
    (chkSettle ch (advance t s)).teller = { s.teller with checked := aDel s.teller.checked ch } ∧
    Wrote [(R.CHK_CHn_RUN ch, crcBytes 0xFFFFFFFF bs), (R.CHK_CHn_BYTES ch, BitVec.ofNat 32 bs.length), (R.CHK_CHn_RESULT ch, crc32c bs)]
      { advance t s with teller := (chkSettle ch (advance t s)).teller } (chkSettle ch (advance t s)) := by
  have hset := chkSettle_some (ch := ch) (s := advance t s) (by rw [advance_teller, hc])
  rw [hset]
  exact ⟨by rw [← advance_teller t s]; rfl, chkRun_wrote (by simpa using h) ch bs⟩

/-- The owner's commands go on from the run that the channel shows (R151). -/
theorem goes_of_owner (ho : bits (reg s (R.CHK_CHn_CTRL ch)) 31 24 = owner) {i : Instr} {f : State → State} {P : State → Prop}
    (hi : exec i s = .next (byOwner owner ch (advance t s) f)) (hp : P (f (chkSettle ch (advance t s)))) : Goes i s P :=
  ⟨_, by rw [hi, byOwner_owner ho], hp⟩

theorem chkFinish_unjudged {a : Nat} (h : RegsWf s.regs) (ho : bits (reg s (R.CHK_CHn_CTRL ch)) 31 24 = owner)
    (ha : bitOf (reg s (R.CHK_CHn_CTRL ch)) 6 = false) : Goes (.chkFinish t owner ch a) s fun x =>
      Only [.regs, .protect] (chkSettle ch (advance t s)) x ∧ x.protect = { s.protect with verdicts := aDel s.protect.verdicts ch } ∧
      ∀ b, reg x b = if b = R.CHK_CHn_RESULT ch then reg (chkSettle ch (advance t s)) (R.CHK_CHn_RUN ch) ^^^ 0xFFFFFFFF
        else reg (chkSettle ch (advance t s)) b := by
  have hwf : RegsWf (advance t s).regs := by simpa using h
  refine goes_of_owner ho (exec_chkFinish ..) ?_
  rw [chkFinish_plain (by rwa [chkSettle_CTRL _ hwf, advance_reg]), chkResult_protect, chkSettle_protect, advance_protect]
  exact ⟨chkResult_only (List.Subset.refl _) (only_refl _ _), rfl, chkResult_reg (chkSettle_wf _ hwf) ch⟩

end

/-- Settles O32: each command of the owner, on the run that the channel shows. -/
theorem checkChannel : Obligations.CheckChannel := by
  refine ⟨fun t owner ch s _ ho => ?_, fun t owner ch s y h ho hy => ?_, crcBytes_append⟩
  · simp only [exec_chkStart, exec_chkFeed, exec_chkFinish, exec_chkStateAccess, byOwner_other ho, implies_true, and_self]
  · have hwf : RegsWf (advance t s).regs := by simpa using h
    have hset : RegsWf y.regs := hy ▸ chkSettle_wf _ hwf
    have hctrl : reg y (R.CHK_CHn_CTRL ch) = reg s (R.CHK_CHn_CTRL ch) := by rw [hy, chkSettle_CTRL _ hwf, advance_reg]
    subst hy
    refine ⟨fun hc => chkSettle_none (by rwa [advance_teller]), fun bs => chkSettle_shows h,
      goes_of_owner ho (exec_chkStart ..) (chkStart_wrote hset ch), fun w => goes_of_owner ho (exec_chkFeed ..) ?_, fun a => chkFinish_unjudged h ho, fun alive => ?_,
      fun w => goes_of_owner ho (exec_chkStateAccess ..) (setReg_wrote hset _ _),
      fun w => goes_of_owner ho (exec_chkStateAccess ..) (setReg_wrote hset _ _)⟩
    · rw [← hctrl]
      exact chkFeed_wrote hset ch w
    · rw [exec_chkStateAccess, byOwner_owner ho]
      rfl

end Sys2Proof.Proofs
end

section
/-! The judgement of alive values (R155, R156): what each verdict leaves in the channel's registers. -/

namespace Sys2Proof.Proofs

open Sys2Proof.Machine Sys2Proof.Safety Sys2Proof.Laws

theorem chkSettle_ALIVE (ch : Nat) {s : State} (h : RegsWf s.regs) : reg (chkSettle ch s) (R.CHK_CHn_ALIVE ch) = reg s (R.CHK_CHn_ALIVE ch) := by
  apply chkSettle_reg h <;> simp [R.CHK_CHn_ALIVE, R.CHK_CHn_RUN, R.CHK_CHn_BYTES, R.CHK_CHn_RESULT]

theorem chkSettle_CNT (ch : Nat) {s : State} (h : RegsWf s.regs) : reg (chkSettle ch s) (R.CHK_CHn_CNT ch) = reg s (R.CHK_CHn_CNT ch) := by
  apply chkSettle_reg h <;> simp [R.CHK_CHn_CNT, R.CHK_CHn_RUN, R.CHK_CHn_BYTES, R.CHK_CHn_RESULT]

/-! The verdict. -/

theorem aliveVerdict_repeat_iff (ch a : Nat) (s : State) : aliveVerdict ch a s = .repeat_ ↔
    bitOf (reg s (R.CHK_CHn_ALIVE ch)) 16 = true ∧ (aliveStep ch a s = 0 ∨ 32769 ≤ aliveStep ch a s) := by
  unfold aliveVerdict
  cases bitOf (reg s (R.CHK_CHn_ALIVE ch)) 16 <;> simp [ite_eq_iff]
  omega

theorem aliveVerdict_skip_iff (ch a : Nat) (s : State) : aliveVerdict ch a s = .skip ↔
    bitOf (reg s (R.CHK_CHn_ALIVE ch)) 16 = true ∧ 2 ≤ aliveStep ch a s ∧ aliveStep ch a s ≤ 32768 := by
  unfold aliveVerdict
  cases bitOf (reg s (R.CHK_CHn_ALIVE ch)) 16 <;> simp [ite_eq_iff]
  omega

/-! What the judgement leaves. -/

theorem judgeAlive_verdict (ch a : Nat) (s : State) : aFind (judgeAlive ch a s).protect.verdicts ch = some (aliveVerdict ch a s) := by
  unfold judgeAlive
  exact (aFind_aPut _ ch _ ch).trans (if_pos rfl)

section

variable {s : State} (h : RegsWf s.regs) (ch : Nat)

include h

/-- The flags of a repeat or a skip stand below the registers of the channels. -/
theorem aliveFault_reg {b : Nat} (hb : 0xF0051000 ≤ b) : reg (aliveFault ch s) b = reg s b := by
  have h0 : R.CHK_ALIVE_STAT0 ≠ b := by unfold R.CHK_ALIVE_STAT0; omega
  have h1 : R.CHK_ALIVE_STAT1 ≠ b := by unfold R.CHK_ALIVE_STAT1; omega
  have hi : R.CHK_INT_STAT ≠ b := by unfold R.CHK_INT_STAT; omega
  unfold aliveFault
  split <;> simp only [setFlag, reg_setReg (setReg_wf h _ _), reg_setReg h, h0, h1, hi, if_false]

theorem aliveFault_wf : RegsWf (aliveFault ch s).regs := regsWf_of (aliveFault_keeps ch s (Keeps.refl s)) h

/-- ALIVE and CNT take what the verdict says; no other register of a channel changes (R155). -/
theorem judgeAlive_reg (a : Nat) {b : Nat} (hb : 0xF0051000 ≤ b) : reg (judgeAlive ch a s) b =
    match aliveVerdict ch a s with
    | .inOrder => if R.CHK_CHn_ALIVE ch = b then BitVec.ofNat 32 (65536 + a % 65536) else reg s b
    | .skip => if R.CHK_CHn_ALIVE ch = b then BitVec.ofNat 32 (65536 + a % 65536) else if R.CHK_CHn_CNT ch = b
        then setBits (reg s (R.CHK_CHn_CNT ch)) 15 0 (min 65535 (bits (reg s (R.CHK_CHn_CNT ch)) 15 0 + (aliveStep ch a s - 1))) else reg s b
    | .repeat_ => if R.CHK_CHn_CNT ch = b
        then setBits (reg s (R.CHK_CHn_CNT ch)) 31 16 (min 65535 (bits (reg s (R.CHK_CHn_CNT ch)) 31 16 + 1)) else reg s b := by
  have hf := aliveFault_wf h ch
  have hcnt := aliveFault_reg h ch (b := R.CHK_CHn_CNT ch) (by unfold R.CHK_CHn_CNT; omega)
  unfold judgeAlive
  rw [reg_of (modProtect_regs _ _)]
  cases aliveVerdict ch a s with
  | inOrder => exact reg_setReg h _ _ _
  | skip =>
    dsimp only
    rw [reg_setReg (bumpField_wf _ _ _ _ hf), bumpField_reg hf, aliveFault_reg h ch hb, hcnt]
    rfl
  | repeat_ =>
    dsimp only
    rw [bumpField_reg hf, aliveFault_reg h ch hb, hcnt]
    rfl

theorem judgeAlive_RESULT (a : Nat) : reg (judgeAlive ch a s) (R.CHK_CHn_RESULT ch) = reg s (R.CHK_CHn_RESULT ch) := by
  rw [judgeAlive_reg h ch a (by unfold R.CHK_CHn_RESULT; omega)]
  cases aliveVerdict ch a s <;> simp [R.CHK_CHn_ALIVE, R.CHK_CHn_CNT, R.CHK_CHn_RESULT]

theorem judgeAlive_ALIVE (a : Nat) : reg (judgeAlive ch a s) (R.CHK_CHn_ALIVE ch) =
    if aliveVerdict ch a s = .repeat_ then reg s (R.CHK_CHn_ALIVE ch) else BitVec.ofNat 32 (65536 + a % 65536) := by
  rw [judgeAlive_reg h ch a (by unfold R.CHK_CHn_ALIVE; omega)]
  cases aliveVerdict ch a s <;> simp [R.CHK_CHn_ALIVE, R.CHK_CHn_CNT]

theorem judgeAlive_skips (a : Nat) : bits (reg (judgeAlive ch a s) (R.CHK_CHn_CNT ch)) 15 0 =
    if aliveVerdict ch a s = .skip then min 65535 (bits (reg s (R.CHK_CHn_CNT ch)) 15 0 + (aliveStep ch a s - 1))
    else bits (reg s (R.CHK_CHn_CNT ch)) 15 0 := by
  have hne : R.CHK_CHn_ALIVE ch ≠ R.CHK_CHn_CNT ch := by simp [R.CHK_CHn_ALIVE, R.CHK_CHn_CNT]
  rw [judgeAlive_reg h ch a (by unfold R.CHK_CHn_CNT; omega)]
  cases aliveVerdict ch a s with
  | inOrder => simp [hne]
  | skip =>
    simp only [hne, if_true, if_false]
    rw [bits_setBits _ _ _ _ (by decide), Nat.mod_eq_of_lt (by omega)]
  | repeat_ => simp [bits_setBits_ne]

theorem judgeAlive_repeats (a : Nat) : bits (reg (judgeAlive ch a s) (R.CHK_CHn_CNT ch)) 31 16 =
    if aliveVerdict ch a s = .repeat_ then min 65535 (bits (reg s (R.CHK_CHn_CNT ch)) 31 16 + 1) else bits (reg s (R.CHK_CHn_CNT ch)) 31 16 := by
  have hne : R.CHK_CHn_ALIVE ch ≠ R.CHK_CHn_CNT ch := by simp [R.CHK_CHn_ALIVE, R.CHK_CHn_CNT]
  rw [judgeAlive_reg h ch a (by unfold R.CHK_CHn_CNT; omega)]
  cases aliveVerdict ch a s with
  | inOrder => simp [hne]
  | skip => simp [hne, bits_setBits_ne]
  | repeat_ =>
    simp only [if_true]
    rw [bits_setBits _ _ _ _ (by decide), Nat.mod_eq_of_lt (by omega)]

end

/-! CHK_FINISH with alive checking: the result, then the judgement. -/

theorem chkFinish_judged {ch : Nat} {s : State} (ha : bitOf (reg s (R.CHK_CHn_CTRL ch)) 6 = true) (a : Nat) :
    chkFinish ch a s = judgeAlive ch a (chkResult ch s) := by
  rw [chkFinish, if_pos ha]

/-- The state that CHK_FINISH judges an alive value in: the channel shows its run, and RESULT is written. -/
def atJudgement (t ch : Nat) (s : State) : State := chkResult ch (chkSettle ch (advance t s))

section

variable {s : State} (h : RegsWf s.regs) (t ch : Nat)

include h

theorem atJudgement_wf : RegsWf (atJudgement t ch s).regs :=
  regsWf_of (chkResult_keeps ch _ (chkSettle_keeps ch _ (advance_keeps t s (Keeps.refl s)))) h

theorem atJudgement_RESULT : reg (atJudgement t ch s) (R.CHK_CHn_RESULT ch) = reg (chkSettle ch (advance t s)) (R.CHK_CHn_RUN ch) ^^^ 0xFFFFFFFF := by
  rw [atJudgement, chkResult_reg (chkSettle_wf ch (by simpa using h)), if_pos rfl]

theorem atJudgement_ALIVE : reg (atJudgement t ch s) (R.CHK_CHn_ALIVE ch) = reg s (R.CHK_CHn_ALIVE ch) := by
  have hwf : RegsWf (advance t s).regs := by simpa using h
  rw [atJudgement, chkResult_reg (chkSettle_wf ch hwf), if_neg (by simp [R.CHK_CHn_ALIVE, R.CHK_CHn_RESULT]), chkSettle_ALIVE ch hwf, advance_reg]

theorem atJudgement_CNT : reg (atJudgement t ch s) (R.CHK_CHn_CNT ch) = reg s (R.CHK_CHn_CNT ch) := by
  have hwf : RegsWf (advance t s).regs := by simpa using h
  rw [atJudgement, chkResult_reg (chkSettle_wf ch hwf), if_neg (by simp [R.CHK_CHn_CNT, R.CHK_CHn_RESULT]), chkSettle_CNT ch hwf, advance_reg]

theorem atJudgement_step (a : Nat) : aliveStep ch a (atJudgement t ch s) = aliveStep ch a s := by
  rw [aliveStep, aliveStep, atJudgement_ALIVE h]

theorem atJudgement_verdict (a : Nat) : aliveVerdict ch a (atJudgement t ch s) = aliveVerdict ch a s := by
  rw [aliveVerdict, aliveVerdict, atJudgement_step h, atJudgement_ALIVE h]

theorem chkFinish_eq_judgeAlive (hc : bitOf (reg s (R.CHK_CHn_CTRL ch)) 6 = true) (a : Nat) :
    chkFinish ch a (chkSettle ch (advance t s)) = judgeAlive ch a (atJudgement t ch s) :=
  chkFinish_judged (by rwa [chkSettle_CTRL ch (by simpa using h), advance_reg]) a

end

theorem chkStart_clears {s : State} (h : RegsWf s.regs) (ch : Nat) : bitOf (reg (chkStart ch true s) (R.CHK_CHn_ALIVE ch)) 16 = false := by
  rw [chkStart, if_pos rfl, setField_reg (setReg_wf (setReg_wf h _ _) _ _), if_pos rfl, bitOf, bits_setBits _ _ _ _ (by decide)]
  rfl

theorem reset_ALIVE : ∀ ch : Fin 64, bitOf (reg State.reset (R.CHK_CHn_ALIVE ch)) 16 = false := by decide +kernel

/-- Settles O33: the judgement in the state that CHK_FINISH reaches, verdict by verdict. -/
theorem aliveJudgement : Obligations.AliveJudgement := by
  refine ⟨fun t ch a l d s h hc ha hl hd => ?_, fun t ch s h => ?_, reset_ALIVE⟩
  · have hstep : aliveStep ch a s = d := by rw [hd, hl]; rfl
    have hwf := atJudgement_wf h t ch
    refine goes_of_owner rfl (exec_chkFinish ..) ?_
    rw [chkFinish_eq_judgeAlive h t ch hc]
    refine ⟨?_, fun hin => ?_, fun hv hrep => ?_, ?_, ?_, ?_⟩
    · rw [judgeAlive_RESULT hwf, atJudgement_RESULT h]
    · have hno : aliveVerdict ch a s ≠ .repeat_ := by
        rw [Ne, aliveVerdict_repeat_iff, hstep]
        rintro ⟨hv, hr⟩
        simp only [hv, Bool.true_eq_false, false_or] at hin
        omega
      rw [judgeAlive_ALIVE hwf, atJudgement_verdict h, if_neg hno, Nat.mod_eq_of_lt ha]
    · have hyes : aliveVerdict ch a s = .repeat_ := by rw [aliveVerdict_repeat_iff, hstep]; exact ⟨hv, hrep⟩
      rw [judgeAlive_ALIVE hwf, atJudgement_verdict h, if_pos hyes, atJudgement_ALIVE h]
    · rw [judgeAlive_verdict, atJudgement_verdict h, aliveVerdict, hstep]
    · simp only [judgeAlive_skips hwf, atJudgement_verdict h, aliveVerdict_skip_iff, atJudgement_step h, atJudgement_CNT h, hstep]
    · simp only [judgeAlive_repeats hwf, atJudgement_verdict h, aliveVerdict_repeat_iff, atJudgement_CNT h, hstep]
  · exact goes_of_owner rfl (exec_chkStart ..) (chkStart_clears (chkSettle_wf ch (by simpa using h)) ch)

end Sys2Proof.Proofs
end

section
/-! The sources of the layers (R183 to R191): what each change of a source leaves in it and in the others. -/

namespace Sys2Proof.Proofs

open Sys2Proof.Machine Sys2Proof.Safety Sys2Proof.Laws

theorem srcOf_of_vin {s x : State} (h : x.vin = s.vin) (j : Nat) : srcOf x j = srcOf s j := by rw [srcOf, srcOf, h]

@[simp] theorem srcOf_advance (t : Nat) (s : State) (j : Nat) : srcOf (advance t s) j = srcOf s j := srcOf_of_vin (advance_vin t s) j
@[simp] theorem regF_advance (t : Nat) (s : State) (a : Nat) : regF (advance t s) a = regF s a := by simp [regF]
@[simp] theorem rasterW_advance (t : Nat) (s : State) (i : Nat) : rasterW (advance t s) i = rasterW s i := by simp [rasterW]
@[simp] theorem rasterH_advance (t : Nat) (s : State) (i : Nat) : rasterH (advance t s) i = rasterH s i := by simp [rasterH]
@[simp] theorem srcOf_bumpBy (a n : Nat) (s : State) (j : Nat) : srcOf (bumpBy a n s) j = srcOf s j := rfl
@[simp] theorem srcOf_bump (a : Nat) (s : State) (j : Nat) : srcOf (bump a s) j = srcOf s j := rfl
@[simp] theorem srcOf_setFlag (a b : Nat) (s : State) (j : Nat) : srcOf (setFlag a b s) j = srcOf s j := rfl
@[simp] theorem srcOf_wrote (n : Nat) (s : State) (j : Nat) : srcOf (wrote n s) j = srcOf s j := rfl
@[simp] theorem srcOf_notify (code len : Nat) (fields : List Int) (s : State) (j : Nat) : srcOf (notify code len fields s) j = srcOf s j :=
  srcOf_of_vin (notify_vin code len fields s) j

@[simp] theorem wrote_regs (n : Nat) (s : State) : (wrote n s).regs = s.regs := rfl

theorem srcOf_modSrc_same {i : Nat} (hi : i < 28) (f : Source → Source) (s : State) : srcOf (modSrc i f s) i = f (srcOf s i) :=
  (vGet_vMod _ _ _ _ _ hi).trans (if_pos rfl)

theorem srcOf_modSrc_ne {i j : Nat} (h : j ≠ i) (hj : j < 28) (f : Source → Source) (s : State) : srcOf (modSrc i f s) j = srcOf s j :=
  (vGet_vMod _ _ _ _ _ hj).trans (if_neg h)

/-- The start of a frame's write chooses a buffer, and changes nothing else of its source (R196). -/
theorem beginWrite_same {i : Nat} (hi : i < 28) (s : State) : ∃ w, srcOf (beginWrite i s) i = { srcOf s i with writing := w } := by
  unfold beginWrite
  split
  · exact ⟨_, rfl⟩
  · exact ⟨_, srcOf_modSrc_same hi _ _⟩

theorem beginWrite_merge {i : Nat} (hi : i < 28) (s : State) : (srcOf (beginWrite i s) i).merge = (srcOf s i).merge := by
  obtain ⟨w, hsame⟩ := beginWrite_same hi s
  rw [hsame]

theorem beginWrite_ne {i j : Nat} (h : j ≠ i) (hj : j < 28) (s : State) : srcOf (beginWrite i s) j = srcOf s j := by
  unfold beginWrite
  split
  · rfl
  · exact srcOf_modSrc_ne h hj _ _

@[simp] theorem beginWrite_regs (i : Nat) (s : State) : (beginWrite i s).regs = s.regs :=
  (beginWrite_only (List.Subset.refl _) (only_refl _ s)).2.2 .regs (by decide)

/-! A frame is discarded, and counted (R186, R191). -/

theorem regN_setReg_ne {s : State} (h : RegsWf s.regs) {a b : Nat} (hab : a ≠ b) (w : Word) : regN (setReg a w s) b = regN s b := by
  rw [regN, reg_setReg h, if_neg hab, regN]

theorem discardFrame_same {i : Nat} (hi : i < 28) (s : State) : srcOf (discardFrame i s) i = { srcOf s i with discarded := (srcOf s i).discarded + 1 } :=
  srcOf_modSrc_same hi _ s

section

variable {s : State} (h : RegsWf s.regs) (i : Nat)

include h

theorem discardFrame_wf : RegsWf (discardFrame i s).regs := bump_wf _ h

theorem discardFrame_regN : regN (discardFrame i s) (R.VIN_Sn_DISCARD i) = min 0xFFFFFFFF (regN s (R.VIN_Sn_DISCARD i) + 1) :=
  bump_regN (s := modSrc i _ s) h _

theorem discardFrame_regN_ne {b : Nat} (hb : R.VIN_Sn_DISCARD i ≠ b) : regN (discardFrame i s) b = regN s b :=
  regN_setReg_ne (s := modSrc i _ s) h hb _

end

/-! Lines of an SDI input (R186). -/

theorem sdiLineReceived_good {t : Nat} {i : Fin 4} {s : State} (h : (srcOf s i).state ≠ .off) :
    exec (.sdiLineReceived t i true) s = .next (beginWrite i (advance t s)) :=
  if_neg (by rwa [srcOf_advance])

theorem sdiLineReceived_bad {t : Nat} {i : Fin 4} {s : State} (h : (srcOf s i).state ≠ .off) : exec (.sdiLineReceived t i false) s =
    .next (bump (R.VIN_Sn_CRC i) (modSrc i (fun y => { y with crcBad := true }) (beginWrite i (advance t s)))) :=
  if_neg (by rwa [srcOf_advance])

theorem sdiLineReceived_counts {t : Nat} {i : Fin 4} {s : State} (hw : RegsWf s.regs) (h : (srcOf s i).state ≠ .off) (ok : Bool) :
    Goes (.sdiLineReceived t i ok) s fun x =>
      (srcOf x i).crcBad = ((srcOf s i).crcBad || !ok) ∧ (srcOf x i).newest = (srcOf s i).newest ∧
      regN x (R.VIN_Sn_CRC i) = (if ok then regN s (R.VIN_Sn_CRC i) else min 0xFFFFFFFF (regN s (R.VIN_Sn_CRC i) + 1)) ∧
      ∀ j : Fin 28, j.val ≠ i.val → srcOf x j = srcOf s j := by
  have hi : i.val < 28 := by omega
  have hregs : (beginWrite i (advance t s)).regs = s.regs := by simp
  obtain ⟨w, hsame⟩ := beginWrite_same hi (advance t s)
  cases ok with
  | true =>
    refine ⟨_, sdiLineReceived_good h, ?_, ?_, regN_of hregs _, fun j hj => ?_⟩
    · simp [hsame]
    · simp [hsame]
    · rw [beginWrite_ne hj j.isLt, srcOf_advance]
  | false =>
    refine ⟨_, sdiLineReceived_bad h, ?_, ?_, ?_, fun j hj => ?_⟩
    · simp [srcOf_modSrc_same hi]
    · simp [srcOf_modSrc_same hi, hsame]
    · rw [bump_regN (by rwa [modSrc_regs, hregs]), regN_of (modSrc_regs _ _ _), regN_of hregs]
      rfl
    · rw [srcOf_bump, srcOf_modSrc_ne hj j.isLt, beginWrite_ne hj j.isLt, srcOf_advance]

end Sys2Proof.Proofs
end

section
/-! Two streams of packets into one (R188, R190, R191), and the release of a layer (R202). -/

namespace Sys2Proof.Proofs

open Sys2Proof.Machine Sys2Proof.Safety Sys2Proof.Laws

/-! A packet missed on a path. -/

theorem missed_merge {i : Nat} (hi : i < 28) (b : Bool) (s : State) : (srcOf (missed i b s) i).merge = (srcOf s i).merge := by
  cases b <;> simp [missed, srcOf_modSrc_same hi]

theorem missed_regN {s : State} (h : RegsWf s.regs) (i : Nat) (b : Bool) :
    regN (missed i b s) (if b then R.VIN_Sn_MISS_B i else R.VIN_Sn_MISS_A i) =
      min 0xFFFFFFFF (regN s (if b then R.VIN_Sn_MISS_B i else R.VIN_Sn_MISS_A i) + 1) := by
  cases b <;> exact bump_regN (s := modSrc i _ s) h _

/-! The merge of the two paths (R190, R191). -/

section

variable {both b : Bool} {seq : Word} {marker : Bool} {now : Nat} {m : StreamMerge}

theorem mergePacket_new (hgot : seq ∉ m.got) (hseen : ∀ e ∈ m.seenA ++ m.seenB, e.1 ≠ seq) (hfirst : ∀ a, m.first = some a → 0 ≤ seqDist seq a) :
    (mergePacket both b seq marker now m).got = seq :: m.got := by
  have hother : (if b then m.seenA else m.seenB).find? (fun x => x.1 == seq) = none := by
    rw [List.find?_eq_none]
    intro e he
    simpa using hseen e (by cases b <;> simp_all)
  have hmine : ¬ ((if b then m.seenB else m.seenA).any (fun x => x.1 == seq) = true) := by
    rw [List.any_eq_true]
    rintro ⟨e, he, hs⟩
    exact hseen e (by cases b <;> simp_all) (by simpa using hs)
  have hlate : ¬ (m.first.any (fun a => decide (seqDist seq a < 0)) = true) := by
    rw [Option.any_eq_true]
    rintro ⟨a, ha, hs⟩
    have := hfirst a ha
    have := of_decide_eq_true hs
    omega
  unfold mergePacket
  dsimp only
  rw [hother]
  dsimp only
  rw [if_neg (by simp [hmine, hgot, hlate])]

theorem mergePacket_second (h : ∃ e ∈ (if b then m.seenA else m.seenB), e.1 = seq) : (mergePacket both b seq marker now m).got = m.got ∧
    ∀ e ∈ (if b then (mergePacket both b seq marker now m).seenA else (mergePacket both b seq marker now m).seenB), e.1 ≠ seq := by
  have hother : ((if b then m.seenA else m.seenB).find? (fun x => x.1 == seq)).isSome = true := by
    rw [List.find?_isSome]
    simpa using h
  obtain ⟨x, hx⟩ := Option.isSome_iff_exists.mp hother
  unfold mergePacket
  dsimp only
  rw [hx]
  refine ⟨rfl, ?_⟩
  cases b <;> simp

end

section

variable {t : Nat} {i : Fin 16} {b : Bool} {p : InputStreamSet} {s : State}

/-- A packet that misfits is missed on its path. -/
theorem streamPacketReceived_misfit {k : StreamPacket} (hp : aFind s.cfgA.streams i = some p) (hon : (srcOf s (i + 4)).state ≠ .off)
    (hpath : pathOn p b = true) (hfit : packetFits p k = false) :
    exec (.streamPacketReceived t i b k) s = .next (missed (i + 4) b (advance t s)) := by
  have hexec : exec (.streamPacketReceived t i b k) s = execStreamPacketReceived t i b k s := rfl
  rw [hexec, execStreamPacketReceived, streamOf, advance_cfgA, hp]
  dsimp only
  rw [if_neg (by simp [hon, hpath]), if_pos hfit]

/-- A packet that fits goes through the merge, and touches no register. -/
theorem streamPacketReceived_merges {k : StreamPacket} (hp : aFind s.cfgA.streams i = some p) (hon : (srcOf s (i + 4)).state ≠ .off)
    (hpath : pathOn p b = true) (hfit : packetFits p k = true) : Goes (.streamPacketReceived t i b k) s fun x => x.regs = s.regs ∧
      (srcOf x (i + 4)).merge = mergePacket (p.paths % 4 == 3) b k.seq k.marker (advance t s).time.now (srcOf s (i + 4)).merge := by
  have hi : i.val + 4 < 28 := by omega
  have hexec : exec (.streamPacketReceived t i b k) s = execStreamPacketReceived t i b k s := rfl
  rw [Goes, hexec, execStreamPacketReceived, streamOf, advance_cfgA, hp]
  dsimp only
  rw [if_neg (by simp [hon, hpath]), if_neg (by simp [hfit])]
  refine ⟨_, rfl, ?_⟩
  split
  · simp only [modSrc_regs, advance_regs, srcOf_modSrc_same hi, srcOf_advance, and_self]
  · simp only [beginWrite_regs, modSrc_regs, advance_regs, beginWrite_merge hi, srcOf_modSrc_same hi, srcOf_advance, and_self]

/-! The copy on the other path (R190). -/

/-- The copy of a packet that came on the other path waits for none on path `b` any more. -/
def forgetCopy (b : Bool) (seq : Word) (m : StreamMerge) : StreamMerge :=
  if b then { m with seenA := m.seenA.filter (fun y => y.1 != seq) } else { m with seenB := m.seenB.filter (fun y => y.1 != seq) }

theorem forgetCopy_got (b : Bool) (seq : Word) (m : StreamMerge) : (forgetCopy b seq m).got = m.got := by cases b <;> rfl

theorem forgetCopy_gone (b : Bool) (seq : Word) (m : StreamMerge) :
    ∀ y ∈ (if b then (forgetCopy b seq m).seenA else (forgetCopy b seq m).seenB), y.1 ≠ seq := by
  cases b <;> simp [forgetCopy]

section

variable {seq : Word} {e : Word × Nat} (hp : aFind s.cfgA.streams i = some p)
  (he : (if b then (srcOf s (i + 4)).merge.seenA else (srcOf s (i + 4)).merge.seenB).find? (fun x => x.1 == seq) = some e)

include hp he

theorem pathLossTimeout_early (ht : (advance t s).time.now < e.2 + p.skewMax * 1000) : exec (.pathLossTimeout t i b seq) s = .next (advance t s) := by
  have hexec : exec (.pathLossTimeout t i b seq) s = execPathLossTimeout t i b seq s := rfl
  rw [hexec, execPathLossTimeout, streamOf, advance_cfgA, hp]
  simp only [srcOf_advance, he]
  rw [if_pos ht]

theorem pathLossTimeout_due (ht : e.2 + p.skewMax * 1000 ≤ (advance t s).time.now) : exec (.pathLossTimeout t i b seq) s =
    .next (missed (i + 4) b (modSrc (i + 4) (fun y => { y with merge := forgetCopy b seq y.merge }) (advance t s))) := by
  have hexec : exec (.pathLossTimeout t i b seq) s = execPathLossTimeout t i b seq s := rfl
  rw [hexec, execPathLossTimeout, streamOf, advance_cfgA, hp]
  simp only [srcOf_advance, he]
  rw [if_neg (by omega)]
  rfl

theorem pathLossTimeout_misses (hw : RegsWf s.regs) (ht : e.2 + p.skewMax * 1000 ≤ (advance t s).time.now) :
    Goes (.pathLossTimeout t i b seq) s fun x =>
      (∀ y ∈ (if b then (srcOf x (i + 4)).merge.seenA else (srcOf x (i + 4)).merge.seenB), y.1 ≠ seq) ∧
      (srcOf x (i + 4)).merge.got = (srcOf s (i + 4)).merge.got ∧
      regN x (if b then R.VIN_Sn_MISS_B (i + 4) else R.VIN_Sn_MISS_A (i + 4)) =
        min 0xFFFFFFFF (regN s (if b then R.VIN_Sn_MISS_B (i + 4) else R.VIN_Sn_MISS_A (i + 4)) + 1) := by
  have hi : i.val + 4 < 28 := by omega
  refine ⟨_, pathLossTimeout_due hp he ht, ?_, ?_, ?_⟩
  · rw [missed_merge hi, srcOf_modSrc_same hi]
    exact forgetCopy_gone _ _ _
  · rw [missed_merge hi, srcOf_modSrc_same hi, srcOf_advance]
    exact forgetCopy_got _ _ _
  · rw [missed_regN (by simpa using hw)]
    simp only [regN_of (modSrc_regs _ _ _), advance_regN]

end

/-! A frame whose marker has come and that is not whole (R191). -/

/-- Source `i` after its frame in progress is given up: the packets that came on neither path are lost, and the merge goes on with the next frame. -/
def frameLost (i : Nat) (s : State) : State := modSrc i (fun y => { y with
  good := 0, lostBoth := y.lostBoth + streamMissing (srcOf s i).merge, merge := streamNext y.merge, writing := none }) s

section

variable {z : Word} {t0 : Nat} (hp : aFind s.cfgA.streams i = some p) (hz : frameMark (srcOf s (i + 4)).merge = some (z, t0))

include hp hz

theorem streamFrameTimeout_idle (ht : (advance t s).time.now < t0 + p.skewMax * 1000 ∨ streamWhole (srcOf s (i + 4)).merge = true) :
    exec (.streamFrameTimeout t i) s = .next (advance t s) := by
  have hexec : exec (.streamFrameTimeout t i) s = execStreamFrameTimeout t i s := rfl
  rw [hexec, execStreamFrameTimeout, streamOf, advance_cfgA, hp]
  simp only [srcOf_advance, hz]
  rw [if_pos ht]

theorem streamFrameTimeout_due (ht : t0 + p.skewMax * 1000 ≤ (advance t s).time.now) (hwhole : streamWhole (srcOf s (i + 4)).merge = false) :
    exec (.streamFrameTimeout t i) s = .next (setFlag R.VIN_INT_STAT 4 (bumpBy (R.VIN_Sn_LOST_BOTH (i + 4)) (streamMissing (srcOf s (i + 4)).merge)
      (discardFrame (i + 4) (wrote (rasterW (advance t s) (i + 4) * rasterH (advance t s) (i + 4) * 8) (frameLost (i + 4) (advance t s)))))) := by
  have hexec : exec (.streamFrameTimeout t i) s = execStreamFrameTimeout t i s := rfl
  rw [hexec, execStreamFrameTimeout, streamOf, advance_cfgA, hp]
  simp only [srcOf_advance, hz]
  rw [if_neg (not_or.mpr ⟨by omega, by simp [hwhole]⟩), frameLost, srcOf_advance]

theorem streamFrameTimeout_discards (hw : RegsWf s.regs) (ht : t0 + p.skewMax * 1000 ≤ (advance t s).time.now)
    (hwhole : streamWhole (srcOf s (i + 4)).merge = false) : Goes (.streamFrameTimeout t i) s fun x =>
      (srcOf x (i + 4)).newest = (srcOf s (i + 4)).newest ∧ (srcOf x (i + 4)).good = 0 ∧
      (srcOf x (i + 4)).merge = streamNext (srcOf s (i + 4)).merge ∧
      regN x (R.VIN_Sn_LOST_BOTH (i + 4)) = min 0xFFFFFFFF (regN s (R.VIN_Sn_LOST_BOTH (i + 4)) + streamMissing (srcOf s (i + 4)).merge) ∧
      regN x (R.VIN_Sn_DISCARD (i + 4)) = min 0xFFFFFFFF (regN s (R.VIN_Sn_DISCARD (i + 4)) + 1) := by
  have hi : i.val + 4 < 28 := by omega
  have hregs : (frameLost (i + 4) (advance t s)).regs = s.regs := by rw [frameLost, modSrc_regs, advance_regs]
  have hw1 : RegsWf (wrote (rasterW (advance t s) (i + 4) * rasterH (advance t s) (i + 4) * 8) (frameLost (i + 4) (advance t s))).regs := by
    rwa [wrote_regs, hregs]
  have hdiscard := discardFrame_wf hw1 (i + 4)
  have hflag : R.VIN_INT_STAT ≠ R.VIN_Sn_LOST_BOTH (i + 4) ∧ R.VIN_INT_STAT ≠ R.VIN_Sn_DISCARD (i + 4) ∧
      R.VIN_Sn_LOST_BOTH (i + 4) ≠ R.VIN_Sn_DISCARD (i + 4) := by
    unfold R.VIN_INT_STAT R.VIN_Sn_LOST_BOTH R.VIN_Sn_DISCARD
    omega
  obtain ⟨hlost, hdisc, hne⟩ := hflag
  refine ⟨_, streamFrameTimeout_due hp hz ht hwhole, ?_, ?_, ?_, ?_, ?_⟩
  · simp [discardFrame_same hi, frameLost, srcOf_modSrc_same hi]
  · simp [discardFrame_same hi, frameLost, srcOf_modSrc_same hi]
  · simp [discardFrame_same hi, frameLost, srcOf_modSrc_same hi]
  · rw [setFlag, regN_setReg_ne (bumpBy_wf _ _ hdiscard) hlost, bumpBy_regN hdiscard, discardFrame_regN_ne hw1 _ hne.symm,
      regN_of (wrote_regs _ _), regN_of hregs]
  · rw [setFlag, regN_setReg_ne (bumpBy_wf _ _ hdiscard) hdisc, bumpBy, regN_setReg_ne hdiscard hne, discardFrame_regN hw1,
      regN_of (wrote_regs _ _), regN_of hregs]

end

end

/-! LAYER_RELEASE (R202). -/

theorem layerOf_modLayer {l m : Nat} (hm : m < 16) (f : Layer → Layer) (s : State) :
    layerOf (modLayer l f s) m = if m = l then f (layerOf s m) else layerOf s m := vGet_vMod _ _ _ _ _ hm

theorem layerRelease_done {c : Call} {l : Nat} {s : State} (h : Ready 0x0411 c s) (hl : l ≤ 15) (hrun : s.time.running = true) :
    Done (.layerRelease c l) 0x0411 c ⟨.ok, 0, []⟩
      (modLayer l (fun y => { y with release := y.release ++ [reachedSt c (advance c.t s)] }) (advance c.t s)) s := by
  refine command_done (rfl : _ = execLayerRelease c l s) h ?_ (by simpa using h.wf) (by simpa [sess] using h.live)
  rw [if_neg (by omega), if_neg (by simp [hrun])]
  rfl

/-- Settles O36: the events of the receivers one by one, and LAYER_RELEASE. -/
theorem inputReceivers : Obligations.InputReceivers := by
  unfold Obligations.InputReceivers
  intro t s hw
  refine ⟨fun i ok hon => sdiLineReceived_counts hw hon ok, fun i b k p m hp hon hpath hm => ?_, fun i b seq p m e hp hm he => ?_,
    fun i p m z t0 hp hm hz => ?_, fun c l h hl hrun => ?_⟩
  · subst hm
    refine ⟨fun hfit => ⟨_, streamPacketReceived_misfit hp hon hpath hfit, ?_, ?_⟩, fun hfit hgot hseen hfirst => ?_, fun hfit hsecond => ?_⟩
    · rw [missed_merge (by omega), srcOf_advance]
    · simp only [missed_regN (s := advance t s) (by simpa using hw), advance_regN]
    · obtain ⟨x, hx, hregs, hmerge⟩ := streamPacketReceived_merges (t := t) hp hon hpath hfit
      exact ⟨x, hx, by rw [hmerge, mergePacket_new hgot hseen hfirst], hregs⟩
    · obtain ⟨x, hx, hregs, hmerge⟩ := streamPacketReceived_merges (t := t) hp hon hpath hfit
      exact ⟨x, hx, by rw [hmerge, (mergePacket_second hsecond).1], by rw [hmerge]; exact (mergePacket_second hsecond).2, hregs⟩
  · subst hm
    exact ⟨pathLossTimeout_early hp he, pathLossTimeout_misses hp he hw⟩
  · subst hm
    exact ⟨streamFrameTimeout_idle hp hz, streamFrameTimeout_discards hp hz hw⟩
  · refine ⟨_, layerRelease_done h hl hrun, modLayer_only (by decide) (advance_only (by decide) (only_refl _ _)), by simp [modLayer], ?_, fun m hm => ?_⟩
    · rw [layerOf_modLayer (by omega), if_pos rfl]
      simp [layerOf]
    · rw [layerOf_modLayer m.isLt, if_neg hm]
      simp [layerOf]

end Sys2Proof.Proofs
end

section
/-! The states of a source and its frames (R184, R187, R193, R195, R205, R206). -/

namespace Sys2Proof.Proofs

open Sys2Proof.Machine Sys2Proof.Safety Sys2Proof.Laws

/-! A source changes state (R205). -/

section

variable {i : Nat} (hi : i < 28) (new : SourceState) (cause : Nat) (s : State)

include hi in
theorem srcMove_same : srcOf (srcMove i new cause s) i =
    { srcOf s i with state := new, good := if (srcOf s i).state = new then (srcOf s i).good else 0 } := by
  unfold srcMove
  dsimp only
  split
  next h => rw [← h]
  next h => rw [srcOf_notify, srcOf_setFlag, srcOf_modSrc_same hi]

theorem srcMove_ne {j : Nat} (hj : j ≠ i) (hlt : j < 28) : srcOf (srcMove i new cause s) j = srcOf s j := by
  unfold srcMove
  dsimp only
  split
  · rfl
  · rw [srcOf_notify, srcOf_setFlag, srcOf_modSrc_ne hj hlt]

variable {new s}

theorem srcMove_flag (h : RegsWf s.regs) (hnew : (srcOf s i).state ≠ new) : bitOf (reg (srcMove i new cause s) R.VIN_INT_STAT) 0 = true := by
  have hw : RegsWf (modSrc i (fun y => { y with state := new, good := 0 }) s).regs := h
  unfold srcMove
  dsimp only
  rw [if_neg hnew, notify_reg (setFlag_wf _ _ hw) _ _ _ (by decide), setFlag, reg_setReg hw, if_pos rfl]
  exact bitOf_setFlag _ _ (by decide)

end

/-! Signal lost, and come back (R205). -/

/-- A source that is on and has not lost its signal. -/
def Signalled (x : SourceState) : Prop := x = .searching ∨ x = .running ∨ x = .format

theorem Signalled.ne_lost {x : SourceState} (h : Signalled x) : x ≠ .lost := by
  rintro rfl
  rcases h with h | h | h <;> cases h

/-- A source that goes to LOST keeps its newest frame, and touches no other. -/
theorem lost_alone {i : Nat} (hi : i < 28) (t : Nat) (s : State) : (srcOf (srcMove i .lost 1 (advance t s)) i).state = .lost ∧
    (srcOf (srcMove i .lost 1 (advance t s)) i).newest = (srcOf s i).newest ∧
    ∀ j, j ≠ i → j < 28 → srcOf (srcMove i .lost 1 (advance t s)) j = srcOf s j := by
  rw [srcMove_same hi, srcOf_advance]
  exact ⟨rfl, rfl, fun j hj hlt => by rw [srcMove_ne _ _ _ hj hlt, srcOf_advance]⟩

theorem sdiLockLost_moves {t : Nat} {i : Fin 4} {s : State} (h : Signalled (srcOf s i).state) :
    exec (.sdiLockLost t i) s = .next (srcMove i .lost 1 (advance t s)) := by
  have hexec : exec (.sdiLockLost t i) s = execSdiLockLost t i s := rfl
  rw [hexec, execSdiLockLost]
  simp only [srcOf_advance]
  rcases h with h | h | h <;> rw [h]

theorem sourceLossTimeout_judges {t : Nat} {i : Fin 28} {s : State} (h : Signalled (srcOf s i).state) : exec (.sourceLossTimeout t i) s =
    if lossDue (advance t s) i then .next (srcMove i .lost 1 (advance t s)) else .next (advance t s) := by
  have hexec : exec (.sourceLossTimeout t i) s = execSourceLossTimeout t i s := rfl
  rw [hexec, execSourceLossTimeout]
  simp only [srcOf_advance]
  rcases h with h | h | h <;> rw [h]

theorem signalReturn_other {t : Nat} {i : Fin 28} {s : State} (h : (srcOf s i).state ≠ .lost) : exec (.signalReturn t i) s = .next (advance t s) :=
  if_neg (by rwa [srcOf_advance])

theorem signalReturn_searches {t : Nat} {i : Fin 28} {s : State} (h : (srcOf s i).state = .lost) : Goes (.signalReturn t i) s fun x =>
    (srcOf x i).state = .searching ∧ (srcOf x i).good = 0 ∧ (srcOf x i).merge = StreamMerge.empty ∧ ∀ j : Fin 28, j ≠ i → srcOf x j = srcOf s j := by
  refine ⟨_, if_pos (by rwa [srcOf_advance]), ?_, ?_, ?_, fun j hj => ?_⟩
  · rw [srcMove_same i.isLt]
  · simp [srcMove_same i.isLt, srcOf_modSrc_same i.isLt, h]
  · rw [srcMove_same i.isLt, srcOf_modSrc_same i.isLt]
  · have hne : j.val ≠ i.val := fun e => hj (Fin.ext e)
    rw [srcMove_ne _ _ _ hne j.isLt, srcOf_modSrc_ne hne j.isLt, srcOf_advance]

/-! A receiver has completed a frame (R184 to R186, R191, R206). -/

theorem endWrite_same {i : Nat} (hi : i < 28) (s : State) : srcOf (endWrite i s) i = { srcOf s i with writing := none } := srcOf_modSrc_same hi _ s

/-- A frame is published with its instant and the next sequence number (R195). -/
theorem publish_shows {i : Nat} (hi : i < 28) (pic : Picture) (w h transfer : Nat) (bt2020 : Bool) (done : Int) (s : State) :
    ∃ g, (srcOf (publish i pic w h transfer bt2020 done s) i).newest = some g ∧ g.done = done ∧ g.seq = (srcOf s i).next ∧ g.width = w ∧ g.height = h ∧
      (srcOf (publish i pic w h transfer bt2020 done s) i).state = (srcOf s i).state ∧
      (srcOf (publish i pic w h transfer bt2020 done s) i).published = (srcOf s i).published + 1 := by
  rw [publish, srcOf_bump, srcOf_modSrc_same hi]
  exact ⟨_, rfl, rfl, rfl, rfl, rfl, rfl, rfl⟩

theorem publish_regN {s : State} (hw : RegsWf s.regs) (i : Nat) (pic : Picture) (w h transfer : Nat) (bt2020 : Bool) (done : Int) :
    regN (publish i pic w h transfer bt2020 done s) (R.VIN_Sn_FRAMES i) = min 0xFFFFFFFF (regN s (R.VIN_Sn_FRAMES i) + 1) :=
  bump_regN (s := modSrc i _ s) hw _

/-- What a receiver leaves in its source with a frame that it has completed, before the frame is judged. -/
def frameSeen (i : Nat) (f : FrameIn) (s : State) : State := modSrc i (fun y => { y with
  width := f.width, height := f.height, interlaced := f.interlaced, crcBad := false, merge := streamTake y.merge
  rateNum := if isStream i then y.rateNum else f.rateNum
  rateDen := if isStream i then y.rateDen else f.rateDen
  lastDone := if f.whole then s.time.now else y.lastDone }) s

theorem frameTaken_broken {i : Nat} {f : FrameIn} (h : f.whole = false) (s : State) : frameTaken i f s =
    modSrc i (fun y => { y with good := 0 }) (discardFrame i (wrote (f.width * f.height * 8) (frameSeen i f s))) := if_pos h

section

variable {i : Nat} {f : FrameIn} {s : State} (hwhole : f.whole = true)

include hwhole

theorem frameTaken_otherWidth (h : f.width ≠ rasterW s i) : frameTaken i f s = srcMove i .format 2 (frameSeen i f s) := by
  unfold frameTaken
  dsimp only
  rw [if_neg (by simp [hwhole]), if_pos (.inl h)]
  rfl

theorem frameTaken_publishes (hw : f.width = rasterW s i) (hh : f.height = rasterH s i)
    (hsdi : isStream i = false → f.supported = true ∧ sdiFormatOk f = true)
    (hcrc : (srcOf s i).crcBad = false ∨ bitOf (regF s (R.VIN_Sn_CFG i)) 30 = false) (hi : i < 28) (hrun : (srcOf s i).state = .running) :
    ∃ pic transfer bt2020, frameTaken i f s =
      publish i pic f.width f.height transfer bt2020 s.time.st64 (wrote (f.width * f.height * 8) (frameSeen i f s)) := by
  have hstate : (srcOf (wrote (f.width * f.height * 8) (frameSeen i f s)) i).state = .running := by
    rw [srcOf_wrote, frameSeen, srcOf_modSrc_same hi, hrun]
  unfold frameTaken
  dsimp only
  rw [if_neg (by simp [hwhole]), if_neg, if_neg]
  · unfold frameAccepted
    rw [← frameSeen, hstate]
    exact ⟨_, _, _, rfl⟩
  · rcases hcrc with h | h <;> simp [h]
  · rintro (h | h | ⟨h, hbad⟩)
    · exact h hw
    · exact h hh
    · simp [hsdi h] at hbad

end

section

variable {t : Nat} {i : Fin 28} {f : FrameIn} {s : State} (hgen : isGenerator i = false) (hrun : s.time.running = true)
  (hstate : (srcOf s i).state = .running) (hready : isStream i = true → (streamReady (srcOf s i).merge).isSome = true)

include hgen hrun hstate hready

theorem sourceFrameComplete_takes : exec (.sourceFrameComplete t i f) s = .next (endWrite i (frameTaken i f (advance t s))) := by
  have hexec : exec (.sourceFrameComplete t i f) s = .next (frameComplete i f (advance t s)) := rfl
  rw [hexec, frameComplete]
  simp only [srcOf_advance, advance_running]
  rw [if_neg (by simp [hstate, hgen]), if_neg, if_neg (by simp [hrun])]
  rintro ⟨hs, hnone⟩
  simpa [hnone] using hready hs

theorem sourceFrameComplete_discards (hw : RegsWf s.regs) (hwhole : f.whole = false) : Goes (.sourceFrameComplete t i f) s fun x =>
    (srcOf x i).newest = (srcOf s i).newest ∧ (srcOf x i).state = .running ∧
    regN x (R.VIN_Sn_DISCARD i) = min 0xFFFFFFFF (regN s (R.VIN_Sn_DISCARD i) + 1) := by
  have htakes := sourceFrameComplete_takes (t := t) (f := f) hgen hrun hstate hready
  rw [frameTaken_broken hwhole] at htakes
  have hregs : (wrote (f.width * f.height * 8) (frameSeen i f (advance t s))).regs = s.regs := by simp [frameSeen]
  refine ⟨_, htakes, ?_, ?_, ?_⟩
  · simp [endWrite_same, srcOf_modSrc_same, discardFrame_same, frameSeen]
  · simp [endWrite_same, srcOf_modSrc_same, discardFrame_same, frameSeen, hstate]
  · rw [endWrite, regN_of (modSrc_regs _ _ _), regN_of (modSrc_regs _ _ _), discardFrame_regN (hregs ▸ hw), regN_of hregs]

theorem sourceFrameComplete_misfits (hwhole : f.whole = true) (hwidth : f.width ≠ rasterW s i) : Goes (.sourceFrameComplete t i f) s fun x =>
    (srcOf x i).state = .format ∧ (srcOf x i).newest = (srcOf s i).newest := by
  have htakes := sourceFrameComplete_takes (t := t) (f := f) hgen hrun hstate hready
  rw [frameTaken_otherWidth hwhole (by simpa using hwidth)] at htakes
  refine ⟨_, htakes, ?_, ?_⟩
  · rw [endWrite_same i.isLt, srcMove_same i.isLt]
  · rw [endWrite_same i.isLt, srcMove_same i.isLt, frameSeen, srcOf_modSrc_same i.isLt, srcOf_advance]

theorem sourceFrameComplete_publishes (hw : RegsWf s.regs) (hwhole : f.whole = true) (hwidth : f.width = rasterW s i) (hheight : f.height = rasterH s i)
    (hsdi : isStream i = false → f.supported = true ∧ sdiFormatOk f = true)
    (hcrc : (srcOf s i).crcBad = false ∨ bitOf (regF s (R.VIN_Sn_CFG i)) 30 = false) : Goes (.sourceFrameComplete t i f) s fun x =>
      ∃ g, (srcOf x i).newest = some g ∧ g.done = (advance t s).time.st64 ∧ g.seq = (srcOf s i).next ∧ g.width = f.width ∧ g.height = f.height ∧
        (srcOf x i).state = .running ∧ (srcOf x i).published = (srcOf s i).published + 1 ∧
        regN x (R.VIN_Sn_FRAMES i) = min 0xFFFFFFFF (regN s (R.VIN_Sn_FRAMES i) + 1) := by
  obtain ⟨pic, transfer, bt2020, htaken⟩ := frameTaken_publishes (s := advance t s) (i := i) hwhole (by simpa using hwidth)
    (by simpa using hheight) hsdi (by simpa using hcrc) i.isLt (by simpa using hstate)
  have htakes := sourceFrameComplete_takes (t := t) (f := f) hgen hrun hstate hready
  rw [htaken] at htakes
  have hregs : (wrote (f.width * f.height * 8) (frameSeen i f (advance t s))).regs = s.regs := by simp [frameSeen]
  refine ⟨_, htakes, ?_⟩
  obtain ⟨g, hnew, hdone, hseq, hgw, hgh, hkept, hcount⟩ := publish_shows i.isLt pic f.width f.height transfer bt2020 (advance t s).time.st64
    (wrote (f.width * f.height * 8) (frameSeen i f (advance t s)))
  rw [srcOf_wrote, frameSeen, srcOf_modSrc_same i.isLt, srcOf_advance] at hseq hkept hcount
  rw [endWrite_same i.isLt]
  refine ⟨g, hnew, hdone, hseq, hgw, hgh, hkept.trans hstate, hcount, ?_⟩
  rw [endWrite, regN_of (modSrc_regs _ _ _), publish_regN (hregs ▸ hw), regN_of hregs]

end

/-! Generators (R192, R193). -/

@[simp] theorem srcOf_reach (st : Int) (s : State) (j : Nat) : srcOf (reach st s) j = srcOf s j :=
  srcOf_of_vin ((reach_only (List.Subset.refl _) (only_refl _ s)).2.2 .vin (by decide)) j

@[simp] theorem frameAt_reach (st : Int) (s : State) (k : Int) : frameAt (reach st s) k = frameAt s k := by
  unfold reach
  split <;> rfl

/-- A generator that has not published for boundary `k` yet publishes for it once, and runs. -/
theorem genPublish_publishes {i : Nat} (hi : i < 28) {g : GeneratorSet} {k : Int} {s : State} (hon : (srcOf s i).state ≠ .off)
    (hlast : (srcOf s i).lastC ≠ some (frameAt s k - 500000)) : ∃ f, (srcOf (genPublish i g k s) i).newest = some f ∧
      f.done = frameAt s k - 500000 ∧ f.seq = (srcOf s i).next ∧ (srcOf (genPublish i g k s) i).state = .running := by
  unfold genPublish
  dsimp only
  rw [if_neg (by simp [hon, hlast])]
  generalize Picture.generated g _ = pic
  split
  next h =>
    obtain ⟨f, hf, -⟩ := Option.map_eq_some_iff.mp h.2.2
    rw [republish, srcOf_bump, srcOf_modSrc_same hi, srcMove_same hi, hf]
    exact ⟨_, rfl, rfl, rfl, rfl⟩
  next =>
    obtain ⟨f, hnew, hdone, hseq, -, -, hkept, -⟩ := publish_shows hi pic g.width g.height g.transfer (g.primaries == 1) (frameAt s k - 500000)
      (wrote (g.width * g.height * 8) (modSrc i (fun y => { y with rewrite := false }) (srcMove i .running 0 s)))
    rw [srcOf_wrote, srcOf_modSrc_same hi, srcMove_same hi] at hseq hkept
    exact ⟨f, hnew, hdone, hseq, hkept⟩

theorem generatorPublish_publishes {t : Nat} {g : Fin 8} {p : GeneratorSet} {s : State} (hrun : s.time.running = true)
    (hp : aFind s.cfgA.generators g = some p) (hon : (srcOf s (g + 20)).state ≠ .off)
    (hlast : (srcOf s (g + 20)).lastC ≠ some (frameAt s (s.time.fcount + 1) - 500000)) : Goes (.generatorPublish t g) s fun x =>
      ∃ f, (srcOf x (g + 20)).newest = some f ∧ f.done = frameAt s (s.time.fcount + 1) - 500000 ∧ f.seq = (srcOf s (g + 20)).next ∧
        (srcOf x (g + 20)).state = .running := by
  have hcount : (advance t s).time.fcount = s.time.fcount := by rw [advance_time]
  have hexec : exec (.generatorPublish t g) s = execGeneratorPublish t g s := rfl
  have hmade := genPublish_publishes (i := g + 20) (by omega) (g := p) (k := s.time.fcount + 1)
    (s := reach (frameAt s (s.time.fcount + 1) - 500000) (advance t s)) (by simpa using hon) (by simpa using hlast)
  simp only [frameAt_reach, frameAt_advance, srcOf_reach, srcOf_advance] at hmade
  refine ⟨_, ?_, hmade⟩
  rw [hexec, execGeneratorPublish]
  simp only [advance_running, advance_cfgA, hrun, hp, hcount, frameAt_advance]

/-- Settles O37: frames, generators, and the moves between the states, each on its own source. -/
theorem sourceStates : Obligations.SourceStates := by
  unfold Obligations.SourceStates
  intro t s hw
  have hwf : RegsWf (advance t s).regs := by simpa using hw
  refine ⟨fun i f hgen hrun hstate hready => ⟨sourceFrameComplete_publishes hgen hrun hstate hready hw, sourceFrameComplete_discards hgen hrun hstate hready hw,
    sourceFrameComplete_misfits hgen hrun hstate hready⟩, fun g p hrun hp hon hlast => generatorPublish_publishes hrun hp hon hlast, fun i h => ?_,
    fun i h => ⟨fun hdue => ?_, fun hdue => (sourceLossTimeout_judges h).trans (if_neg (by simp [hdue]))⟩,
    fun i => ⟨signalReturn_searches, signalReturn_other⟩⟩
  · obtain ⟨hstate, hnewest, hothers⟩ := lost_alone (i := i) (by omega) t s
    exact ⟨_, sdiLockLost_moves h, hstate, srcMove_flag _ hwf (by simpa using Signalled.ne_lost h), hnewest, fun j hj => hothers j hj j.isLt⟩
  · obtain ⟨hstate, hnewest, hothers⟩ := lost_alone i.isLt t s
    exact ⟨_, (sourceLossTimeout_judges h).trans (if_pos hdue), hstate, hnewest, fun j hj => hothers j (fun e => hj (Fin.ext e)) j.isLt⟩

end Sys2Proof.Proofs
end

section
/-! The status commands (R208, R240, R266, R303, R333, R363, R403, R425 and the chapters after): what they show that no clock moves, and their answers. -/

namespace Sys2Proof.Proofs

open Sys2Proof.Machine Sys2Proof.Safety Sys2Proof.Laws

/-! What the clocks' advance leaves of what a status shows. -/

section

variable (t : Nat) (s : State)

@[simp] theorem rasM_advance : rasM (advance t s) = rasM s := by simp [rasM]
@[simp] theorem isShed_advance (z : Nat) : isShed (advance t s) z = isShed s z := by simp [isShed]
@[simp] theorem entryFields_advance (r : Cfg) (n : Nat) : entryFields r (advance t s) n = entryFields r s n := by simp [entryFields]
@[simp] theorem zoneDelay_advance (z : Nat) (k : Int) : zoneDelay (advance t s) z k = zoneDelay s z k := by simp [zoneDelay]
@[simp] theorem commitLead_advance : commitLead (advance t s) = commitLead s := by simp [commitLead]
@[simp] theorem periodMin_advance : periodMin (advance t s) = periodMin s := by rw [periodMin, periodMin, advance_time]
@[simp] theorem slotsFor_advance (d : Nat) : slotsFor (advance t s) d = slotsFor s d := by simp [slotsFor]
@[simp] theorem mapEngine_advance (e : Nat) : mapEngine (advance t s) e = mapEngine s e := by simp [mapEngine]
@[simp] theorem laneOf_advance (l : Nat) : laneOf (advance t s) l = laneOf s l := by simp [laneOf]
@[simp] theorem portOf_advance (p : Nat) : portOf (advance t s) p = portOf s p := by simp [portOf]
@[simp] theorem portMode_advance (p : Nat) : portMode (advance t s) p = portMode s p := by simp [portMode]
@[simp] theorem pairOf_advance (q : Nat) : pairOf (advance t s) q = pairOf s q := by simp [pairOf]
@[simp] theorem pairRole_advance (p : Nat) : pairRole (advance t s) p = pairRole s p := by simp [pairRole, pairPorts]
@[simp] theorem nodeOf_advance (n : Nat) : nodeOf (advance t s) n = nodeOf s n := by simp [nodeOf]
@[simp] theorem bootOf_advance : bootOf (advance t s) = bootOf s := by simp [bootOf]
@[simp] theorem firmwareVersion_advance : firmwareVersion (advance t s) = firmwareVersion s := by simp [firmwareVersion]
@[simp] theorem provOf_advance : provOf (advance t s) = provOf s := by simp [provOf]
@[simp] theorem baseMac_advance : baseMac (advance t s) = baseMac s := by simp [baseMac]
@[simp] theorem bankOf_advance (b : Nat) : bankOf (advance t s) b = bankOf s b := by simp [bankOf]
@[simp] theorem targetMode_advance : targetMode (advance t s) = targetMode s := by simp [targetMode]
@[simp] theorem isBusy_advance : isBusy (advance t s) = isBusy s := by simp [isBusy]
@[simp] theorem calCopyOf_advance (i : Nat) : calCopyOf (advance t s) i = calCopyOf s i := by simp [calCopyOf]
@[simp] theorem sectorCode_advance : sectorCode (advance t s) = sectorCode s := by simp [sectorCode]
@[simp] theorem calDefaults_advance : calDefaults (advance t s) = calDefaults s := by simp [calDefaults, calEntry]
@[simp] theorem history_advance : history (advance t s) = history s := by
  have hring : ringRecords (advance t s) = ringRecords s := by simp [ringRecords]
  have hfloor : aboveFloor (advance t s) = aboveFloor s := by funext r; simp [aboveFloor]
  rw [history, history, hring, hfloor, advance_lgr]
@[simp] theorem oldestSeq_advance : oldestSeq (advance t s) = oldestSeq s := by simp [oldestSeq]

end

/-! The answers of the inputs, the canvas, the map, the photometric stage, the lanes and the strings. -/

section

variable {c : Call} {s : State}

theorem inputStatusGet_reads {n : Nat} (h : Ready 0x0403 c s) (hn : n ≤ 27) : ∃ f, Done (.inputStatusGet c n) 0x0403 c ⟨.ok, 48, f⟩ (advance c.t s) s ∧
    f.length = 13 ∧ f.head? = some (srcCode (srcOf s n).state : Int) ∧ f.drop 7 = [((srcOf s n).published : Int), (srcOf s n).discarded, (srcOf s n).missA,
      (srcOf s n).missB, (srcOf s n).lostBoth, skewUs (advance c.t s) n] := by
  rw [← srcOf_advance c.t s n]
  exact ⟨_, command_reads (rfl : _ = execInputStatusGet c n s) h (if_neg (by omega)), rfl, rfl, rfl⟩

theorem compStatusGet_reads (h : Ready 0x0414 c s) : ∃ f, Done (.compStatusGet c) 0x0414 c ⟨.ok, 112, f⟩ (advance c.t s) s ∧
    f.take 3 = [(unsignedOf 32 s.cmp.lastK : Int), s.cmp.lastTime, s.cmp.lastFetch] := by
  rw [← advance_cmp c.t s]
  exact ⟨_, command_reads (rfl : _ = execCompStatusGet c s) h rfl, rfl⟩

theorem zoneGet_reads {z : Nat} (h : Ready 0x0433 c s) (hz : z ≤ 255) : ∃ f, Done (.zoneGet c z) 0x0433 c ⟨.ok, 32, f⟩ (advance c.t s) s ∧
    f.length = 11 ∧ f.head? = some (z : Int) ∧ f.drop 5 = [(zoneDelay s z s.time.fcount : Int), zonePixels s.cfgB z, (zoneFixtures s.cfgB z).length,
      if zoneEnabled s.cfgB z then slotsFor s (zoneDelay s z s.time.fcount) else 0, bNat (isShed s z),
      ((zoneFixtures s.cfgB z).filter (fun e => (aFind s.fxm.stale e.1).isSome)).length] := by
  have hcount : (advance c.t s).time.fcount = s.time.fcount := by rw [advance_time]
  refine ⟨_, command_reads (rfl : _ = execZoneGet c z s) h (if_neg (by omega)), rfl, rfl, ?_⟩
  simp [hcount]

theorem showGet_reads (h : Ready 0x0436 c s) : Done (.showGet c) 0x0436 c ⟨.ok, 48, [s.time.epoch, s.fxm.epoch, s.time.rateN, s.time.rateD, selTb s,
    secCode s.vlt.state, (s.cfgB.zones.filter (fun z => nBit z.2.flags 0)).length, (liveFixtures s.cfgB).length, segmentsAll s.cfgB,
    ((liveFixtures s.cfgB).map (fun e => fixPixels e.2)).sum, attrsUsed s.cfgB]⟩ (advance c.t s) s := by
  refine command_reads (rfl : _ = execShowGet c s) h ?_
  have hepoch : (advance c.t s).time.epoch = s.time.epoch := by rw [advance_time]
  have hrate : (advance c.t s).time.rateN = s.time.rateN ∧ (advance c.t s).time.rateD = s.time.rateD := by rw [advance_time]; exact ⟨rfl, rfl⟩
  simp [answer, hepoch, hrate]

theorem mapStatusGet_reads (h : Ready 0x0443 c s) : ∃ f, Done (.mapStatusGet c) 0x0443 c ⟨.ok, 64, f⟩ (advance c.t s) s ∧ f.length = 27 ∧
    f.take 2 = [(unsignedOf 32 s.map.lastK : Int), min 0xFFFFFFFF s.map.lastTime] ∧
    f.drop 11 = (List.range 16).map (fun e => (roleCode (mapEngine s e).role : Int)) := by
  refine ⟨_, command_reads (rfl : _ = execMapStatusGet c s) h rfl, by simp, ?_, ?_⟩
  · simp
  · simp

theorem phoStatusGet_reads (h : Ready 0x0455 c s) : ∃ fresh silent : Nat, fresh + silent = s.pho.reports.length ∧
    Done (.phoStatusGet c) 0x0455 c ⟨.ok, 32, [unsignedOf 32 s.pho.lastK, curveMask s.cfgB % 4294967296, curveMask s.cfgB / 4294967296, fresh, silent,
      s.pho.lastNoReport, s.pho.lastClipped]⟩ (advance c.t s) s := by
  have hle := List.length_filter_le (fun e => decide ((advance c.t s).time.now ≤ e.2.1 + tstaleNs (advance c.t s))) s.pho.reports
  refine ⟨_, _, Nat.add_sub_cancel' hle, command_reads (rfl : _ = execPhoStatusGet c s) h ?_⟩
  rw [Nat.cast_sub hle]
  simp only [answer, advance_pho, advance_cfgB]

/-! The answers of the ports, the radio, the pair, Teller, power, Calibrate and Vault. -/

theorem macStatusGet_reads {p : Nat} (h : Ready 0x0474 c s) (hp : p ≤ 10) : ∃ f, Done (.macStatusGet c p) 0x0474 c ⟨.ok, 32, f⟩ (advance c.t s) s ∧
    f.length = 10 ∧ f.take 4 = [(linkCode (portOf s p).link : Int), portMode s p, bits (reg s (R.MAC_CFG p)) 7 4, pairRole s p] ∧
    f.drop 7 = [((portOf s p).tsq.length : Int), (portOf s p).slots.length, (portOf s p).changedAt] := by
  refine ⟨_, command_reads (rfl : _ = execMacStatusGet c p s) h (if_neg (by omega)), rfl, ?_, ?_⟩
  · simp
  · simp

/-- MAC_TALLY_GET answers the sums of its port as they were before its flag clears them (R456, R461). -/
theorem macTallyGet_reads {p flags : Nat} (h : Ready 0x0475 c s) (hp : p ≤ 10) : ∃ y, Done (.macTallyGet c p flags) 0x0475 c
    ⟨.ok, 200, (p : Int) :: (portOf s p).acc.toList.map Int.ofNat⟩ y s ∧ (nBit flags 0 = false → y = advance c.t s) ∧
    (nBit flags 0 = true → Only [.mac] (advance c.t s) y ∧ (portOf y p) = { portOf s p with acc := Vector.replicate 24 0 } ∧
      ∀ q : Fin 11, q.val ≠ p → portOf y q = portOf s q) := by
  refine ⟨if nBit flags 0 then modPort p (fun x => { x with acc := Vector.replicate 24 0 }) (advance c.t s) else advance c.t s,
    command_done (rfl : _ = execMacTallyGet c p flags s) h ?_ ?_ ?_, fun hf => if_neg (by simp [hf]), fun hf => ?_⟩
  · dsimp only
    rw [if_neg (by omega), portOf_advance]
    rfl
  · split <;> simpa [modPort] using h.wf
  · split <;> simpa [modPort, sess] using h.live
  · rw [if_pos hf]
    refine ⟨modPort_only (List.Subset.refl _) (only_refl _ _), ?_, fun q hq => ?_⟩
    · rw [portOf_modPort ⟨p, by omega⟩ ⟨p, by omega⟩, if_pos rfl, portOf_advance]
    · rw [portOf_modPort ⟨p, by omega⟩ q, if_neg (fun e => hq (congrArg Fin.val e)), portOf_advance]

theorem radioStatusGet_reads {r : Nat} (h : Ready 0x0492 c s) (hr : r ≤ 1) : ∃ f, Done (.radioStatusGet c r) 0x0492 c ⟨.ok, 32, f⟩ (advance c.t s) s ∧
    f.length = 9 ∧ f.head? = some (xState (advance c.t s) r : Int) ∧
    f.drop 3 = [(((nodesOn s.cfgB r).filter (fun e => (nodeOf s e.1).state == .online)).length : Int),
      ((nodesOn s.cfgB r).filter (fun e => (nodeOf s e.1).state == .lost)).length, ((nodesOn s.cfgB r).filter (fun e => (nodeOf s e.1).state == .stale)).length,
      dwellMax (advance c.t s) r, (hourUnits (advance c.t s) (advance c.t s).time.now r / 3000 : Nat), slotNow (advance c.t s)] := by
  refine ⟨_, command_reads (rfl : _ = execRadioStatusGet c r s) h (if_neg (by omega)), rfl, rfl, ?_⟩
  simp only [List.drop_succ_cons, List.drop_zero, nodeOf_advance, advance_cfgB]

theorem pairStatusGet_reads (h : Ready 0x04A2 c s) : ∃ f, Done (.pairStatusGet c) 0x04A2 c ⟨.ok, 96, f⟩ (advance c.t s) s ∧ f.length = 25 ∧
    f.head? = some (bits (reg s R.ESC_CFG) 1 1 : Int) ∧
    f.drop 5 = [(regN s R.ESC_CNT_INCOMPLETE : Int), regN s R.ESC_CNT_SHADOW, regN s R.ESC_CNT_MISMATCH, regN s R.ESC_CNT_PROBE_MISS] ++
      (List.range 16).map (fun g => (regN s (R.ESC_Gg_SEQ g) : Int)) := by
  refine ⟨_, command_reads (rfl : _ = execPairStatusGet c s) h rfl, by simp, ?_, ?_⟩
  · simp
  · simp

theorem identify_reads (h : Ready 0x0001 c s) : ∃ f, Done (.identify c) 0x0001 c ⟨.ok, 64, f⟩ (advance c.t s) s ∧
    f.take 6 = [(identOf s.part : Int), firmwareVersion s, 0x31, modeCode s.power.mode, (bootOf s).active, bNat (approved s)] ∧
    f.drop 22 = [(baseMac s : Int), (((advance c.t s).time.now - s.teller.resetAt) / 1000000) % 4294967296, st64 (advance c.t s), secCode s.vlt.state] := by
  refine ⟨_, command_reads (rfl : _ = execIdentify c s) h rfl, ?_, ?_⟩
  · simp
  · simp

theorem powerStatusGet_reads (h : Ready 0x0506 c s) : ∃ f, Done (.powerStatusGet c) 0x0506 c ⟨.ok, 40, f⟩ (advance c.t s) s ∧ f.length = 24 ∧
    f.take 6 = [(modeCode s.power.mode : Int), modeCode (targetMode s), s.power.cause, bNat (isBusy s) + 2 * bNat s.power.hold + 4 * bNat s.power.w1,
      s.power.vsense, s.power.coreMv] ∧
    ∀ d < 14, f[6 + d]? = some ((domCode (domState s d) + 128 * bNat (pendingOn (advance c.t s) d || pendingOff (advance c.t s) d) : Nat) : Int) := by
  refine ⟨_, command_reads (rfl : _ = execPowerStatusGet c s) h rfl, by simp, ?_, fun d hd => ?_⟩
  · simp
  · rw [List.append_assoc, List.getElem?_append_right (by simp), List.getElem?_append_left (by simpa using hd)]
    simp [hd]

theorem calStatusGet_reads (h : Ready 0x0522 c s) : ∃ f, Done (.calStatusGet c) 0x0522 c ⟨.ok, 48, f⟩ (advance c.t s) s ∧ f.length = 11 ∧
    f.take 3 = [(sectorCode s : Int), (s.cal.inForce.getD 0xFF : Nat), bNat s.cal.pass.isSome + 2 * bNat (calDefaults s)] ∧
    f[6]? = some (s.cal.skippedItems : Int) ∧ f[9]? = some (s.cal.passes : Int) := by
  refine ⟨_, command_reads (rfl : _ = execCalStatusGet c s) h rfl, rfl, ?_, ?_, ?_⟩
  · simp
  · simp
  · simp

end

/-- Settles O39: each status command where it may run, and out of its range. -/
theorem statusCommands : Obligations.StatusCommands := by
  unfold Obligations.StatusCommands
  refine ⟨fun c s x hx => ?_, fun c s x hx => ?_⟩
  · subst hx
    refine ⟨fun n h => ⟨inputStatusGet_reads h, fun hn => command_reads (rfl : _ = execInputStatusGet c n s) h (if_pos hn)⟩,
      compStatusGet_reads,
      fun h => command_reads (rfl : _ = execMonitorStatusGet c s) h (by simp [answer]),
      fun first n h => ⟨fun h1 h2 h3 => command_reads (rfl : _ = execFixtureGet c first n s) h ((if_neg (by omega)).trans (by simp [answer])),
        fun hn => command_reads (rfl : _ = execFixtureGet c first n s) h (if_pos hn)⟩,
      fun z h => ⟨zoneGet_reads h, fun hz => command_reads (rfl : _ = execZoneGet c z s) h (if_pos hz)⟩,
      showGet_reads, mapStatusGet_reads,
      fun first n h => ⟨fun h1 h2 h3 => command_reads (rfl : _ = execCalRecordGet c first n s) h ((if_neg (by omega)).trans (by simp [answer])),
        fun hn => command_reads (rfl : _ = execCalRecordGet c first n s) h (if_pos hn)⟩,
      phoStatusGet_reads,
      fun l h => ⟨fun hl => command_reads (rfl : _ = execLaneStatusGet c l s) h ((if_neg (by omega)).trans (by simp [answer])),
        fun hl => command_reads (rfl : _ = execLaneStatusGet c l s) h (if_pos hl)⟩,
      fun first n h => ⟨fun h1 h2 h3 => command_reads (rfl : _ = execStrFaultGet c first n s) h ((if_neg (by omega)).trans (by simp [answer])),
        fun hn => command_reads (rfl : _ = execStrFaultGet c first n s) h (if_pos hn)⟩⟩
  · subst hx
    refine ⟨fun p h => ⟨macStatusGet_reads h, fun hp => command_reads (rfl : _ = execMacStatusGet c p s) h (if_pos hp)⟩,
      fun p flags h => ⟨macTallyGet_reads h, fun hp => command_reads (rfl : _ = execMacTallyGet c p flags s) h (if_pos hp)⟩,
      fun r h => ⟨radioStatusGet_reads h, fun hr => command_reads (rfl : _ = execRadioStatusGet c r s) h (if_pos hr)⟩,
      fun first n h => ⟨fun h1 h2 => ⟨_, rfl, command_reads (rfl : _ = execRadioNodeGet c first n s) h ((if_neg (by omega)).trans (by simp [answer]))⟩,
        fun hn => command_reads (rfl : _ = execRadioNodeGet c first n s) h (if_pos hn)⟩,
      pairStatusGet_reads, identify_reads, fun bytes h => command_reads (rfl : _ = execEcho c bytes s) h rfl, powerStatusGet_reads,
      fun h => command_reads (rfl : _ = execPvtGet c s) h (by simp [answer]), calStatusGet_reads,
      fun item first h => ⟨fun hi => command_reads (rfl : _ = execCalItemGet c item first s) h ((if_neg (by simp; omega)).trans (by simp [answer])),
        fun hi => command_reads (rfl : _ = execCalItemGet c item first s) h (if_pos (by simpa using hi))⟩,
      fun h => command_reads (rfl : _ = execSecStatusGet c s) h (by simp [answer]),
      fun b h => ⟨fun hb => command_reads (rfl : _ = execFwStatusGet c b s) h ((if_neg (by omega)).trans (by simp [answer])),
        fun hb => command_reads (rfl : _ = execFwStatusGet c b s) h (if_pos hb)⟩,
      fun h => command_reads (rfl : _ = execLedgerStatusGet c s) h (by simp [answer]),
      fun first n h => ⟨fun h1 h2 => ⟨_, rfl, command_reads (rfl : _ = execLedgerRead c first n s) h ((if_neg (by omega)).trans (by simp [answer]))⟩,
        fun hn => command_reads (rfl : _ = execLedgerRead c first n s) h (if_pos hn)⟩⟩

end Sys2Proof.Proofs
end

section
/-! The lines of a canvas, and the engines that wait for them (R237, R239, R256, R313). -/

namespace Sys2Proof.Proofs

open Sys2Proof.Machine Sys2Proof.Safety Sys2Proof.Laws

/-! Lines of the newest canvas. -/

/-- The compositor with canvas `c` complete, which took `took` ns (R237, R241). -/
def canvasDone (c : Canvas) (took fetch : Nat) (pipes : SMap Nat) (m : Cmp) : Cmp :=
  { m with lines := c.height, complete := true, late := none, lastK := c.k, lastTime := took, lastFetch := fetch, pipeFetch := pipes }

/-- Lines that the compositor counts go on to the raster generator (R239, R256). -/
theorem lineDone_counted {line : Nat} {ok : Bool} {s : State} {f : Cmp → Cmp} (h : canvasLine line s = modCmp f s) (hlines : (f s.cmp).lines ≠ s.cmp.lines) :
    lineDone line ok s = monLines ((f s.cmp).count - 1) s.cmp.lines (f s.cmp).lines ok (modCmp f s) := by
  rw [lineDone, h]
  exact if_neg hlines

/-- A canvas that is not late takes the time since its boundary (R237, R241). -/
theorem canvasComplete_onTime {n : Nat} {c : Canvas} {s : State} (hlate : s.cmp.late = none) (hn : n + 1 = s.cmp.count) :
    ∃ fetch pipes, canvasComplete n c s = modCmp (fun m => { m with
      complete := true, late := none, lastK := c.k, lastTime := (s.time.st64 - frameAt s c.k).toNat, lastFetch := fetch, pipeFetch := pipes }) s := by
  unfold canvasComplete
  rw [hlate]
  exact ⟨_, _, if_pos hn⟩

section

variable {n line : Nat} {c : Canvas} {s : State} (hnew : newestCanvas s = some (n, c)) (hopen : s.cmp.complete = false) (hbad : s.protect.badTiles = [])

include hnew

theorem newestCanvas_last : n + 1 = s.cmp.count := by
  unfold newestCanvas at hnew
  split at hnew
  next => cases hnew
  next h =>
    obtain ⟨d, -, hd⟩ := Option.map_eq_some_iff.mp hnew
    have hfst := congrArg Prod.fst hd
    dsimp only at hfst
    omega

include hopen hbad

/-- With no tile in error, lines that are new only count; the last one completes the canvas. -/
theorem canvasLine_counts (hline : s.cmp.lines < min c.height (line + 1)) : canvasLine line s =
    if min c.height (line + 1) = c.height then canvasComplete n c (modCmp (fun m => { m with lines := min c.height (line + 1) }) s)
    else modCmp (fun m => { m with lines := min c.height (line + 1) }) s := by
  have hsame : ({ s with protect := { s.protect with badTiles := [] } } : State) = s := by
    rw [← hbad]
  unfold canvasLine
  rw [hnew]
  dsimp only
  rw [if_neg (by simp [hopen]; omega), hbad, List.filter_nil, List.filter_nil, List.foldl_nil, hsame]

/-- The last line completes the canvas. -/
theorem canvasLine_last (hline : c.height ≤ line + 1) (hmore : s.cmp.lines < c.height) (hlate : s.cmp.late = none) : ∃ fetch pipes,
    canvasLine line s = modCmp (canvasDone c (s.time.st64 - frameAt s c.k).toNat fetch pipes) s := by
  have hmin : min c.height (line + 1) = c.height := by omega
  have hcanvas := canvasLine_counts hnew hopen hbad (line := line) (by omega)
  obtain ⟨fetch, pipes, htook⟩ := canvasComplete_onTime (c := c) (s := modCmp (fun m => { m with lines := c.height }) s) hlate (newestCanvas_last hnew)
  rw [hmin, if_pos rfl, htook] at hcanvas
  exact ⟨fetch, pipes, hcanvas⟩

end

/-! Engines that wait for lines. -/

/-- The wait of a held tile ends at the instant `now` of the reference clock (R313). -/
def waitOver (now : Nat) (h : HeldTile) : HeldTile := { h with waited := now - h.claimedAt, waiting := false }

/-- Engines in a list without repetition are changed once each. -/
theorem mapEngine_foldl (a : Nat) (n : Nat → Nat) (f : Engine → Engine) {l : List Nat} (hl : l.Nodup) (s : State) {j : Nat} (hj : j < 16) :
    mapEngine (l.foldl (fun x e => bumpBy a (n e) (modMapEngine e f x)) s) j = if j ∈ l then f (mapEngine s j) else mapEngine s j := by
  induction l generalizing s with
  | nil => simp
  | cons e r ih =>
    obtain ⟨hne, hr⟩ := List.nodup_cons.mp hl
    have hstep : mapEngine (bumpBy a (n e) (modMapEngine e f s)) j = if j = e then f (mapEngine s j) else mapEngine s j := vGet_vMod _ _ _ _ _ hj
    rw [List.foldl_cons, ih hr, hstep]
    by_cases hje : j = e
    · subst hje
      simp [hne]
    · simp [hje]

theorem tapLines_of_kernels {m m' : Mapper} (h : m'.kernels = m.kernels) : tapLines m' = tapLines m := by
  unfold tapLines
  rw [h]

/-- Whether a tile's lines are complete turns on the canvases and the kernels alone. -/
theorem linesReady_of {s x : State} (hcmp : x.cmp = s.cmp) (hkernels : x.map.kernels = s.map.kernels) : linesReady x = linesReady s := by
  have htop : tileTop x.map = tileTop s.map := by
    unfold tileTop
    rw [tapLines_of_kernels hkernels]
  unfold linesReady
  rw [hcmp, htop]

theorem waitsEnd_idle {s : State} (h : s.map.frame = none) : waitsEnd s = s := by rw [waitsEnd, h]

theorem waitsEnd_kernels (s : State) : (waitsEnd s).map.kernels = s.map.kernels := by
  unfold waitsEnd
  split
  · rfl
  · exact keep_foldl (P := fun x => x.map.kernels = s.map.kernels) rfl fun _ _ hx => hx

theorem waitsEnd_only' (s : State) : Only [.regs, .map] s (waitsEnd s) := waitsEnd_only (List.Subset.refl _) (only_refl _ s)

@[simp] theorem waitsEnd_cmp (s : State) : (waitsEnd s).cmp = s.cmp := (waitsEnd_only' s).2.2 .cmp (by decide)
@[simp] theorem waitsEnd_ras (s : State) : (waitsEnd s).ras = s.ras := (waitsEnd_only' s).2.2 .ras (by decide)

/-- An engine that waits for lines that are now complete waits no longer, and every other goes on as it was (R313). -/
theorem waitsEnd_held {s : State} {fr : MapFrame} {e : Nat} {h : HeldTile} (hfr : s.map.frame = some fr) (he : e < 16)
    (hheld : (mapEngine s e).held = some h) : (mapEngine (waitsEnd s) e).held =
      some (if h.waiting = true ∧ linesReady s fr (fr.tiles.getD h.tile ⟨0, [], 0, 0⟩) = true then waitOver s.time.now h else h) := by
  unfold waitsEnd
  rw [hfr]
  dsimp only
  rw [mapEngine_foldl _ _ _ (List.Nodup.filter _ List.nodup_range) _ he]
  simp only [List.mem_filter, List.mem_range, he, true_and, hheld, Bool.and_eq_true]
  split
  · rfl
  · exact hheld

/-! CANVAS_LINE_DONE. -/

section

variable {t n line : Nat} {c : Canvas} {ok : Bool} {s : State} (hnew : newestCanvas s = some (n, c)) (hopen : s.cmp.complete = false)
  (hbad : s.protect.badTiles = [])

include hnew hopen hbad

theorem canvasLineDone_inner (hline : s.cmp.lines ≤ line) (hmore : line + 1 < c.height) : exec (.canvasLineDone t line ok) s =
    .next (waitsEnd (monLines n s.cmp.lines (line + 1) ok (modCmp (fun m => { m with lines := line + 1 }) (advance t s)))) := by
  have hexec : exec (.canvasLineDone t line ok) s = execCanvasLineDone t line ok s := rfl
  have hlast := newestCanvas_last hnew
  have hcanvas := canvasLine_counts (s := advance t s) (by simpa [newestCanvas] using hnew) (by simpa using hopen) (by simpa using hbad) (line := line)
    (by rw [advance_cmp]; omega)
  rw [Nat.min_eq_right (by omega), if_neg (by omega)] at hcanvas
  rw [hexec, execCanvasLineDone, lineDone_counted hcanvas (by rw [advance_cmp]; simp; omega), advance_cmp, show s.cmp.count - 1 = n by omega]

theorem canvasLineDone_last (hline : c.height ≤ line + 1) (hmore : s.cmp.lines < c.height) (hlate : s.cmp.late = none) :
    ∃ fetch pipes, exec (.canvasLineDone t line ok) s = .next (waitsEnd (monLines n s.cmp.lines c.height ok
      (modCmp (canvasDone c ((advance t s).time.st64 - frameAt s c.k).toNat fetch pipes) (advance t s)))) := by
  have hexec : exec (.canvasLineDone t line ok) s = execCanvasLineDone t line ok s := rfl
  have hlast := newestCanvas_last hnew
  obtain ⟨fetch, pipes, hcanvas⟩ := canvasLine_last (s := advance t s) (by simpa [newestCanvas] using hnew) (by simpa using hopen) (by simpa using hbad) hline
    (by simpa using hmore) (by simpa using hlate)
  refine ⟨fetch, pipes, ?_⟩
  rw [hexec, execCanvasLineDone, lineDone_counted hcanvas (by rw [advance_cmp, canvasDone]; simp; omega), advance_cmp, frameAt_advance, canvasDone,
    show s.cmp.count - 1 = n by omega]

end

@[simp] theorem monLines_regs (n i j : Nat) (ok : Bool) (s : State) : (monLines n i j ok s).regs = s.regs := rfl
@[simp] theorem monLines_map (n i j : Nat) (ok : Bool) (s : State) : (monLines n i j ok s).map = s.map := rfl

/-- What a line that reaches the raster generator, or is refused by it, changes. -/
theorem lineDone_only' (t : Nat) (s : State) (n i j : Nat) (ok : Bool) (f : Cmp → Cmp) :
    Only [.regs, .time, .cmp, .ras, .map] s (waitsEnd (monLines n i j ok (modCmp f (advance t s)))) :=
  waitsEnd_only (by decide) (monLines_only (by decide) (modCmp_only (by decide) (advance_only (by decide) (only_refl _ s))))

end Sys2Proof.Proofs
end

section
/-! The raster generator's events (R247 to R251, R256, R259, R260). -/

namespace Sys2Proof.Proofs

open Sys2Proof.Machine Sys2Proof.Safety Sys2Proof.Laws

/-! The clock that runs to an instant of show time changes no other component. -/

theorem reach_only' (st : Int) (s : State) : Only [.time] s (reach st s) := reach_only (List.Subset.refl _) (only_refl _ _)

@[simp] theorem reach_regs (st : Int) (s : State) : (reach st s).regs = s.regs := (reach_only' st s).2.2 .regs (by decide)
@[simp] theorem reach_ras (st : Int) (s : State) : (reach st s).ras = s.ras := (reach_only' st s).2.2 .ras (by decide)
@[simp] theorem reach_alm (st : Int) (s : State) : (reach st s).alm = s.alm := (reach_only' st s).2.2 .alm (by decide)
@[simp] theorem frameBefore_reach (st : Int) (s : State) (x : Int) : frameBefore (reach st s) x = frameBefore s x := by
  unfold reach
  split <;> rfl

theorem reach_reached {st : Int} {s : State} (hrun : s.time.running = true) : st ≤ (reach st s).time.st64 := by
  rw [reach_st64 hrun]
  omega

/-! The configuration of the raster turns on the registers in force alone. -/

section

variable {s x : State} (h : x.regs.inForce = s.regs.inForce)

include h

theorem regF_of_inForce (a : Nat) : regF x a = regF s a := by rw [regF, regF, h]
theorem rasFormat_of : rasFormat x = rasFormat s := by rw [rasFormat, rasFormat, regF_of_inForce h]
theorem rasRate_of : rasRate x = rasRate s := by rw [rasRate, rasRate, regF_of_inForce h]
theorem rasM_of : rasM x = rasM s := by rw [rasM, rasM, regF_of_inForce h]
theorem rasSource_of : rasSource x = rasSource s := by rw [rasSource, rasSource, regF_of_inForce h]
theorem rasOffset_of : rasOffset x = rasOffset s := by rw [rasOffset, rasOffset, regF_of_inForce h]
theorem rasOn_of : rasOn x = rasOn s := by rw [rasOn, rasOn, rasFormat_of h, rasM_of h]
theorem lineStart_of (l : Nat) : lineStart x l = lineStart s l := by rw [lineStart, lineStart, totalLines, totalLines, rasRate_of h, rasFormat_of h]

/-- What the raster runs ahead of the grid turns on its own state besides (R249). -/
theorem rasDrift_of (hras : x.ras = s.ras) : rasDrift x = rasDrift s := by
  rw [rasDrift, rasDrift, rasRate_of h, regF_of_inForce h, lineStart_of h, hras]

theorem gridAt_of (hframe : ∀ k, frameAt x k = frameAt s k) (j : Int) : gridAt x j = gridAt s j := by
  rw [gridAt, gridAt, rasM_of h, rasOffset_of h, hframe]

end

/-! LINE_READBACK (R256). -/

section

variable {t : Nat} {s : State}

theorem lineReadback_idle (h : ∀ f ∈ s.ras.frames, f.refused = []) : exec (.lineReadback t) s = .next (advance t s) := by
  have hexec : exec (.lineReadback t) s = execLineReadback t s := rfl
  have hnone : (advance t s).ras.frames.find? (fun f => f.refused != []) = none := by
    rw [advance_ras, List.find?_eq_none]
    exact fun f hf => by simp [h f hf]
  rw [hexec, execLineReadback, hnone]

/-- One line read back leaves a frame's list of refused lines; its lines stay counted. -/
theorem backLine_reads (f : MonFrame) : (backLine s f).refused = f.refused.tail ∧ (backLine s f).lines = f.lines := by
  unfold backLine
  split
  next h => exact ⟨by rw [h]; rfl, rfl⟩
  next h => exact ⟨by rw [h]; rfl, rfl⟩

theorem lineReadback_reads {f g : MonFrame} (hw : RegsWf s.regs) (hframes : s.ras.frames = [f, g]) (hk : f.k ≠ g.k) (href : f.refused ≠ []) :
    Goes (.lineReadback t) s fun x => Only [.regs, .time, .ras] s x ∧ (∃ h, x.ras.frames = [h, g] ∧ h.refused = f.refused.tail ∧ h.lines = f.lines) ∧
      x.ras.readbacks = s.ras.readbacks + 1 ∧ regN x R.RAS_CNT_READBACK = min 0xFFFFFFFF (regN s R.RAS_CNT_READBACK + 1) := by
  have hexec : exec (.lineReadback t) s = execLineReadback t s := rfl
  have hfirst : (advance t s).ras.frames.find? (fun f => f.refused != []) = some f := by
    rw [advance_ras, hframes]
    exact List.find?_cons_of_pos (by simpa using href)
  obtain ⟨htail, hlines⟩ := backLine_reads (s := advance t s) f
  rw [Goes, hexec, execLineReadback, hfirst]
  refine ⟨_, rfl, bump_only (by decide) (modRas_only (by decide) (advance_only (by decide) (only_refl _ s))), ⟨backLine (advance t s) f, ?_, htail, hlines⟩,
    ?_, ?_⟩
  · simp [modRas, hframes, hk.symm]
  · simp [modRas]
  · rw [bump_regN (by simpa using hw), regN_of (modRas_regs _ _), advance_regN]

end

/-! LTR_RECOMPUTE (R260). -/

section

variable {t b : Nat} {s : State}

theorem ltrRecompute_idle (h : s.ras.running = false) : exec (.ltrRecompute t b) s = .next (advance t s) := if_neg (by simp [h])

theorem ltrRecompute_sets (h : s.ras.running = true) :
    exec (.ltrRecompute t b) s = .next (modRas (fun r => { r with ltr := ltrOf (advance t s) (min b 524288) }) (advance t s)) := if_pos (by simpa using h)

/-- In vertical blanking the tolerance is the time that the bytes last and the rest of the blanking, less 10 us. -/
theorem ltrOf_blanking {f : MonFormat} (hf : monFormat (rasFormat s) = some f) (hnow : activeNow s f = none) (hlong : 10000 ≤ blankAhead s f b) (bytes : Nat) :
    (ltrOf s bytes : Int) = min 0xFFFFFFFF (roundDiv (1000000000 * bytes * (rateOf (rasRate s)).2)
      (max 1 ((rateOf (rasRate s)).1 * f.total) * (f.width * 4)) + (blankEnd s f - s.time.st64) - 10000) := by
  have hahead : ∀ n, blankAhead s f n = (blankEnd s f - s.time.st64).toNat := fun n => by rw [blankAhead, hnow]
  rw [hahead] at hlong
  have hround : roundDiv (1000000000 * bytes * (rateOf (rasRate s)).2) (max 1 ((rateOf (rasRate s)).1 * f.total) * (f.width * 4)) =
      ((2 * bytes * 1000000000 * (rateOf (rasRate s)).2 + max 1 ((rateOf (rasRate s)).1 * f.total) * (f.width * 4)) /
        (2 * (max 1 ((rateOf (rasRate s)).1 * f.total) * (f.width * 4))) : Nat) := by
    have hnat : (1000000000 * bytes * (rateOf (rasRate s)).2 : Int) = (1000000000 * bytes * (rateOf (rasRate s)).2 : Nat) := by push_cast; rfl
    rw [roundDiv, hnat, if_neg (by omega), Int.natAbs_natCast]
    congr 3
    ring
  rw [hround, ltrOf, hf]
  dsimp only
  rw [hahead, Nat.cast_min, Nat.cast_sub (hlong.trans (Nat.le_add_left _ _)), Nat.cast_add, Int.toNat_of_nonneg (by omega)]
  simp only [Nat.cast_ofNat]

end

/-! RASTER_FRAME_START (R247 to R251). -/

/-- The raster frame that starts at `t0` with grid index `j` (R247, R248, R251). -/
def frameBegun (j t0 : Int) (s : State) : State := modRas (fun r => { r with
  fresh := false, r := if r.fresh then 0 else r.r + 1, gridK := frameBefore s (gridAt s j), start := t0, nextJ := j + 1
  transition := none, line := none, done := false, blacked := [], underLast := none, perrLast := none }) s

/-- A frame starts under the timing of the one before it, and with no frame of the monitor store (R249, R251, R252). -/
def frameStarted (j t0 : Int) (s : State) : State := setFlag R.RAS_INT_STAT 0 (rasNext (frameBegun j t0 (rasSlip s)))

/-- The cues of lines that the frame now ending did not reach fire (R116). -/
def linesPassed (s : State) : State :=
  if s.ras.fresh then s else modAlm (fun a => { a with cues := a.cues.map (skipLine s.ras.r s.ras.next) }) s

/-- The raster's lag or lead at a frame start becomes its error; the slew that waited joins the frame (R249). -/
def driftTaken (extra : Int) (slips : Nat) (s : State) : State :=
  modRas (fun r => { r with error := rasDrift s, slew := r.slewNext, slewNext := 0, extra := extra, slips := slips }) s

section

variable {s : State}

theorem clampI_zero {p : Int} (h : 0 ≤ p) : clampI (-p) p 0 = 0 := by
  rw [clampI, if_neg (by omega), if_neg (by omega)]

/-- With neither error nor slew nor a line added, the raster stands on the grid (R249). -/
theorem rasDrift_rest (herr : s.ras.error = 0) (hslew : s.ras.slew = 0) (hextra : s.ras.extra = 0) : rasDrift s = 0 := by
  have hpull : 0 ≤ 1000000000 * ((rateOf (rasRate s)).2 : Int) / (max 1 (rateOf (rasRate s)).1 : Nat) *
      (bits (regF s R.RAS_WHITE_PULL) 31 16 : Int) / 1000000 := by positivity
  unfold rasDrift
  dsimp only
  rw [herr, hslew, hextra, Int.zero_mul, Int.add_zero, Int.sub_zero, clampI_zero hpull, Int.sub_zero]

theorem rasSlip_none (hdrift : rasDrift s = 0) : rasSlip s = driftTaken 0 s.ras.slips s := by
  unfold rasSlip
  dsimp only
  rw [if_pos (by simp [hdrift])]
  rfl

theorem rasSlip_adds (hline : 0 < lineStart s 1) (hlag : (lineStart s 1 : Int) ≤ rasDrift s) :
    rasSlip s = setFlag R.RAS_INT_STAT 4 (bump R.RAS_CNT_SLIP (driftTaken 1 (s.ras.slips + 1) s)) := by
  unfold rasSlip
  dsimp only
  rw [if_neg (by rw [lineStart_of (s := s) rfl]; omega), if_neg (by omega)]
  rfl

section

variable (harmed : s.ras.armed = none) (hon : rasOn s = true) (hsource : rasSource s = 1)

include harmed hon hsource

/-- With no copy armed and bars as the picture, a frame starts under the same timing and takes nothing from the monitor store (R252, R257). -/
theorem rasFrameStart_bars :
    rasFrameStart s = frameStarted s.ras.nextJ s.ras.next s := by
  have hslip : (rasSlip s).regs.inForce = s.regs.inForce := by
    unfold rasSlip
    dsimp only
    split <;> rfl
  have hscan : ∀ j x, x.regs.inForce = s.regs.inForce → rasScan j x = x := fun j x hx => by
    rw [rasScan, rasSource_of hx, hsource]
    rfl
  unfold rasFrameStart
  rw [harmed]
  dsimp only
  rw [if_neg (by simp [hon]), if_neg (by simp [timingChange]), hscan]
  · rfl
  · exact hslip

end

end

section

variable {s : State}

theorem rasterFrameStart_idle (h : rasStartDue s = false) : exec .rasterFrameStart s = .next s := if_neg (by simp [h])

/-- A frame that is due starts at its instant, after the cues of the frame before it. -/
theorem rasterFrameStart_due (h : rasStartDue s = true) : exec .rasterFrameStart s = .next (rasFrameStart (linesPassed (reach s.ras.next s))) := if_pos h

@[simp] theorem linesPassed_regs (s : State) : (linesPassed s).regs = s.regs := by
  unfold linesPassed
  split <;> rfl
@[simp] theorem linesPassed_ras (s : State) : (linesPassed s).ras = s.ras := by
  unfold linesPassed
  split <;> rfl
@[simp] theorem linesPassed_time (s : State) : (linesPassed s).time = s.time := by
  unfold linesPassed
  split <;> rfl

theorem linesPassed_only {l : List Comp} {s0 s : State} (hl : [Comp.alm] ⊆ l) (h : Only l s0 s) : Only l s0 (linesPassed s) :=
  only_ite h (modAlm_only hl h)

/-- The state in which a due frame starts. -/
def atFrameStart (s : State) : State := linesPassed (reach s.ras.next s)

@[simp] theorem atFrameStart_regs (s : State) : (atFrameStart s).regs = s.regs := by simp [atFrameStart]
@[simp] theorem atFrameStart_ras (s : State) : (atFrameStart s).ras = s.ras := by simp [atFrameStart]
@[simp] theorem frameAt_atFrameStart (s : State) (k : Int) : frameAt (atFrameStart s) k = frameAt s k := by
  rw [← frameAt_reach s.ras.next s k, frameAt, frameAt, atFrameStart, linesPassed_time]
@[simp] theorem frameBefore_atFrameStart (s : State) (x : Int) : frameBefore (atFrameStart s) x = frameBefore s x := by
  rw [← frameBefore_reach s.ras.next s x, frameBefore, frameBefore, atFrameStart, linesPassed_time]

theorem atFrameStart_alm (s : State) :
    (atFrameStart s).alm = if s.ras.fresh then s.alm else { s.alm with cues := s.alm.cues.map (skipLine s.ras.r s.ras.next) } := by
  unfold atFrameStart linesPassed
  rw [reach_ras]
  split
  · exact reach_alm _ _
  · rw [modAlm, reach_alm]

end

end Sys2Proof.Proofs
end

section
/-! RASTER_FRAME_START, RASTER_LINE_MATCH, RASTER_FRAME_DONE and SCAN_UNDERRUN (R249 to R251, R259). -/

namespace Sys2Proof.Proofs

open Sys2Proof.Machine Sys2Proof.Safety Sys2Proof.Laws

/-! What a frame that starts leaves in the raster (R249). -/

section

variable {j t0 : Int} {s : State} (hw : RegsWf s.regs)

theorem rasNext_frameBegun_regs (s : State) : (rasNext (frameBegun j t0 s)).regs = s.regs := rfl

theorem rasNext_next (s : State) : (rasNext s).ras.next = gridAt s s.ras.nextJ - rasDrift s := rfl

include hw

/-- On the grid and without slew the next frame starts on the grid as well (R247, R249). -/
theorem frameStarted_onGrid (hdrift : rasDrift s = 0) (hslew : s.ras.slewNext = 0) :
    Only [.regs, .ras] s (frameStarted j t0 s) ∧ (frameStarted j t0 s).ras.r = (if s.ras.fresh then 0 else s.ras.r + 1) ∧
    (frameStarted j t0 s).ras.start = t0 ∧ (frameStarted j t0 s).ras.gridK = frameBefore s (gridAt s j) ∧
    (frameStarted j t0 s).ras.nextJ = j + 1 ∧ (frameStarted j t0 s).ras.next = gridAt s (j + 1) ∧ (frameStarted j t0 s).ras.fresh = false ∧
    (frameStarted j t0 s).ras.slips = s.ras.slips ∧ bitOf (reg (frameStarted j t0 s) R.RAS_INT_STAT) 0 = true := by
  have hrest : rasDrift (frameBegun j t0 (driftTaken 0 s.ras.slips s)) = 0 := rasDrift_rest hdrift hslew rfl
  rw [frameStarted, rasSlip_none hdrift]
  refine ⟨?_, rfl, rfl, rfl, rfl, ?_, rfl, rfl, setFlag_shows (by exact hw) (by decide)⟩
  · exact setFlag_only (by decide) (rasNext_only (by decide) (modRas_only (by decide) (modRas_only (by decide) (only_refl _ s))))
  · rw [setFlag_ras, rasNext_next, hrest, Int.sub_zero]
    rfl

/-- A line or more ahead of the grid, the frame has one line more, and the slip is counted (R249). -/
theorem frameStarted_slips (hline : 0 < lineStart s 1) (hlag : (lineStart s 1 : Int) ≤ rasDrift s) :
    (frameStarted j t0 s).ras.extra = 1 ∧ (frameStarted j t0 s).ras.slips = s.ras.slips + 1 ∧
    regN (frameStarted j t0 s) R.RAS_CNT_SLIP = min 0xFFFFFFFF (regN s R.RAS_CNT_SLIP + 1) ∧
    bitOf (reg (frameStarted j t0 s) R.RAS_INT_STAT) 4 = true := by
  have hslip := rasSlip_adds hline hlag
  have hregs := rasNext_frameBegun_regs (j := j) (t0 := t0) (rasSlip s)
  have hbump : RegsWf (bump R.RAS_CNT_SLIP (driftTaken 1 (s.ras.slips + 1) s)).regs := bump_wf _ hw
  have hwf : RegsWf (rasNext (frameBegun j t0 (rasSlip s))).regs := by
    rw [hregs, hslip]
    exact setFlag_wf _ _ hbump
  rw [frameStarted]
  refine ⟨by rw [hslip]; rfl, by rw [hslip]; rfl, ?_, ?_⟩
  · rw [setFlag, regN_setReg_ne hwf (by decide), regN_of hregs, hslip, setFlag, regN_setReg_ne hbump (by decide)]
    exact bump_regN (s := driftTaken 1 (s.ras.slips + 1) s) hw _
  · rw [setFlag_reg hwf, if_pos rfl, reg_of hregs, hslip]
    exact bitOf_or _ _ _ (setFlag_shows hbump (by decide))

end

/-! A frame that starts with bars as its picture (R252). -/

section

variable {s : State} (hdue : rasStartDue s = true)

include hdue

theorem rasStartDue_running : s.time.running = true := by
  simp only [rasStartDue, Bool.and_eq_true] at hdue
  exact hdue.1.1

variable (harmed : s.ras.armed = none) (hon : rasOn s = true) (hsource : rasSource s = 1)

include harmed hon hsource

theorem rasterFrameStart_bars : exec .rasterFrameStart s =
    .next (frameStarted s.ras.nextJ s.ras.next (atFrameStart s)) := by
  have hregs : (atFrameStart s).regs.inForce = s.regs.inForce := by rw [atFrameStart_regs]
  rw [rasterFrameStart_due hdue, ← atFrameStart, rasFrameStart_bars (by simpa using harmed) ((rasOn_of hregs).trans hon) ((rasSource_of hregs).trans hsource),
    atFrameStart_ras]

theorem rasterFrameStart_onGrid (hw : RegsWf s.regs) (hdrift : rasDrift s = 0) (hslew : s.ras.slewNext = 0) : Goes .rasterFrameStart s fun x =>
    Only [.regs, .time, .alm, .ras] s x ∧ x.ras.r = (if s.ras.fresh then 0 else s.ras.r + 1) ∧ x.ras.start = s.ras.next ∧
    x.ras.gridK = frameBefore s (gridAt s s.ras.nextJ) ∧ x.ras.nextJ = s.ras.nextJ + 1 ∧ x.ras.next = gridAt s (s.ras.nextJ + 1) ∧ x.ras.fresh = false ∧
    x.ras.slips = s.ras.slips ∧ bitOf (reg x R.RAS_INT_STAT) 0 = true ∧ s.ras.next ≤ x.time.st64 ∧
    (s.ras.fresh = true → x.alm = s.alm) ∧ (s.ras.fresh = false → x.alm.cues = s.alm.cues.map (skipLine s.ras.r s.ras.next)) := by
  have hregs : (atFrameStart s).regs.inForce = s.regs.inForce := by rw [atFrameStart_regs]
  have hgrid : ∀ j, gridAt (atFrameStart s) j = gridAt s j := gridAt_of hregs (frameAt_atFrameStart s)
  obtain ⟨honly, hr, hstart, hgridK, hj, hnext, hfresh, hslips, hflag⟩ := frameStarted_onGrid (s := atFrameStart s) (j := s.ras.nextJ) (t0 := s.ras.next)
    (by simpa using hw) ((rasDrift_of hregs (atFrameStart_ras s)).trans hdrift) (by simpa using hslew)
  rw [atFrameStart_ras] at hr hslips
  rw [frameBefore_atFrameStart, hgrid] at hgridK
  have halm := (honly.2.2 .alm (by decide)).trans (atFrameStart_alm s)
  have htime := (honly.2.2 .time (by decide)).trans (linesPassed_time _)
  refine ⟨_, rasterFrameStart_bars hdue harmed hon hsource, ?_, hr, hstart, hgridK, hj, hnext.trans (hgrid _), hfresh, hslips, hflag, ?_, fun h => ?_,
    fun h => ?_⟩
  · exact only_step (linesPassed_only (by decide) (reach_only (by decide) (only_refl _ s))) honly (by decide)
  · rw [htime]
    exact reach_reached (rasStartDue_running hdue)
  · exact halm.trans (if_pos h)
  · exact congrArg Almanac.cues (halm.trans (if_neg (by simp [h])))

theorem rasterFrameStart_slips (hw : RegsWf s.regs) (hline : 0 < lineStart s 1) (hlag : (lineStart s 1 : Int) ≤ rasDrift s) :
    Goes .rasterFrameStart s fun x => x.ras.extra = 1 ∧ x.ras.slips = s.ras.slips + 1 ∧
      regN x R.RAS_CNT_SLIP = min 0xFFFFFFFF (regN s R.RAS_CNT_SLIP + 1) ∧ bitOf (reg x R.RAS_INT_STAT) 4 = true := by
  have hregs : (atFrameStart s).regs.inForce = s.regs.inForce := by rw [atFrameStart_regs]
  obtain ⟨hextra, hslips, hcount, hflag⟩ := frameStarted_slips (s := atFrameStart s) (j := s.ras.nextJ) (t0 := s.ras.next)
    (by simpa using hw) (by rwa [lineStart_of hregs]) (by rwa [lineStart_of hregs, rasDrift_of hregs (atFrameStart_ras s)])
  rw [atFrameStart_ras] at hslips
  rw [regN_of (atFrameStart_regs s)] at hcount
  exact ⟨_, rasterFrameStart_bars hdue harmed hon hsource, hextra, hslips, hcount, hflag⟩

end

/-! RASTER_LINE_MATCH and RASTER_FRAME_DONE (R250, R251). -/

theorem rasterLineMatch_idle {line : Nat} {s : State} (h : rasLineAt s line = none) : exec (.rasterLineMatch line) s = .next s := by
  have hexec : exec (.rasterLineMatch line) s = execRasterLineMatch line s := rfl
  rw [hexec, execRasterLineMatch, h]

/-- Where the host's interrupt is enabled for a line, the line sets its flag, and otherwise no register changes. -/
theorem rasLine_flag {l : Nat} {s : State} (hw : RegsWf s.regs) :
    (bitOf (reg s R.RAS_LMATCH) 31 = true → bits (reg s R.RAS_LMATCH) 11 0 = l → bitOf (reg (rasLine l s) R.RAS_INT_STAT) 1 = true) ∧
    (bitOf (reg s R.RAS_LMATCH) 31 = false ∨ bits (reg s R.RAS_LMATCH) 11 0 ≠ l → (rasLine l s).regs = s.regs) := by
  unfold rasLine
  dsimp only
  refine ⟨fun hon hl => ?_, fun h => ?_⟩
  · rw [if_pos ⟨hon, hl⟩]
    exact setFlag_shows (s := modRas _ s) hw (by decide)
  · rw [if_neg]
    · rfl
    · rintro ⟨hon, hl⟩
      rcases h with h | h
      · exact Bool.noConfusion (h.symm.trans hon)
      · exact h hl

theorem rasLine_ras (l : Nat) (s : State) : (rasLine l s).ras = { s.ras with line := some l } := by
  unfold rasLine
  dsimp only
  split <;> rfl

theorem rasLine_only' (l : Nat) (s : State) : Only [.regs, .ras] s (rasLine l s) := rasLine_only (List.Subset.refl _) (only_refl _ s)

/-- The cues of a line of the frame in progress become due at its start (R114). -/
def cuesMatched (line : Nat) (at_ : Int) (s : State) : State := modAlm (fun a => { a with cues := a.cues.map (matchLine s.ras.r line at_) }) s

theorem rasterLineMatch_begins {line : Nat} {at_ : Int} {s : State} (hat : rasLineAt s line = some at_) (hrun : s.time.running = true)
    (hfresh : s.ras.fresh = false) (hin : at_ < s.ras.next) :
    exec (.rasterLineMatch line) s = .next (rasLine line (cuesMatched line at_ (reach at_ s))) := by
  have hexec : exec (.rasterLineMatch line) s = execRasterLineMatch line s := rfl
  rw [hexec, execRasterLineMatch, hat]
  exact if_neg (by simp [hrun, hfresh]; omega)

theorem rasterLineMatch_matches {line : Nat} {at_ : Int} {s : State} (hw : RegsWf s.regs) (hat : rasLineAt s line = some at_) (hrun : s.time.running = true)
    (hfresh : s.ras.fresh = false) (hin : at_ < s.ras.next) : Goes (.rasterLineMatch line) s fun x => x.ras = { s.ras with line := some line } ∧
      at_ ≤ x.time.st64 ∧ x.alm.cues = s.alm.cues.map (matchLine s.ras.r line at_) ∧
      (bitOf (reg s R.RAS_LMATCH) 31 = true → bits (reg s R.RAS_LMATCH) 11 0 = line → bitOf (reg x R.RAS_INT_STAT) 1 = true) ∧
      (bitOf (reg s R.RAS_LMATCH) 31 = false ∨ bits (reg s R.RAS_LMATCH) 11 0 ≠ line → x.regs = s.regs) := by
  have hregs : (cuesMatched line at_ (reach at_ s)).regs = s.regs := reach_regs at_ s
  have hflag := rasLine_flag (l := line) (hregs.symm ▸ hw)
  rw [reg_of hregs, hregs] at hflag
  obtain ⟨-, -, hkept⟩ := rasLine_only' line (cuesMatched line at_ (reach at_ s))
  have htime : (rasLine line (cuesMatched line at_ (reach at_ s))).time = (reach at_ s).time := hkept .time (by decide)
  have halm := hkept .alm (by decide)
  refine ⟨_, rasterLineMatch_begins hat hrun hfresh hin, ?_, ?_, ?_, hflag⟩
  · rw [rasLine_ras, cuesMatched, modAlm_ras, reach_ras]
  · rw [htime]
    exact reach_reached hrun
  · rw [halm, cuesMatched, modAlm, reach_alm, reach_ras]

theorem rasterFrameDone_ends {t : Nat} {f : MonFormat} {s : State} (hw : RegsWf s.regs) (hf : monFormat (rasFormat s) = some f)
    (hrun : s.ras.running = true) (hdone : s.ras.done = false) (hline : s.ras.line = some (f.height - 1)) : Goes (.rasterFrameDone t) s fun x =>
      Only [.regs, .time, .ras] s x ∧ x.ras = { s.ras with done := true, line := none } ∧ bitOf (reg x R.RAS_INT_STAT) 2 = true := by
  have hexec : exec (.rasterFrameDone t) s = execRasterFrameDone t s := rfl
  rw [Goes, hexec, execRasterFrameDone, rasFormat_of (congrArg _ (advance_regs t s)), hf]
  dsimp only
  rw [advance_ras, if_pos ⟨hrun, hdone, hline⟩]
  refine ⟨_, rfl, setFlag_only (by decide) (modRas_only (by decide) (advance_only (by decide) (only_refl _ s))), ?_, ?_⟩
  · rw [setFlag_ras, modRas, advance_ras]
  · exact setFlag_shows (by simpa using hw) (by decide)

/-! SCAN_UNDERRUN (R259). -/

/-- MONITOR_UNDERRUN, if it is sent, resets the count that it reports. -/
theorem sendUnder_cases (s : State) : sendUnder s = s ∨ ∃ fields, sendUnder s =
    notify 0x8180 24 fields (modRas (fun r => { r with under := 0, underAt := some s.time.now }) s) := by
  unfold sendUnder
  exact (Classical.em _).imp (fun h => if_pos h) (fun h => ⟨_, if_neg h⟩)

theorem sendUnder_ras (s : State) : ∃ n at_, (sendUnder s).ras = { s.ras with under := n, underAt := at_ } := by
  rcases sendUnder_cases s with h | ⟨fields, h⟩
  · exact ⟨_, _, by rw [h]⟩
  · exact ⟨_, _, by rw [h, notify_ras]; rfl⟩

/-- It touches no register but those of notices. -/
theorem sendUnder_reg {s : State} (hw : RegsWf s.regs) {a : Nat} (ha : a ∉ noticeRegs) : reg (sendUnder s) a = reg s a := by
  rcases sendUnder_cases s with h | ⟨fields, h⟩
  · rw [h]
  · rw [h]
    exact notify_reg (s := modRas _ s) hw _ _ _ ha

/-- Within a second of the last notice there is none. -/
theorem sendUnder_quiet {s : State} {a : Nat} (hat : s.ras.underAt = some a) (hsoon : s.time.now < a + 1000000000) : sendUnder s = s := by
  unfold sendUnder
  dsimp only
  rw [hat]
  exact if_pos (.inr (by simpa using hsoon))

/-- The first underrun is told at once. -/
theorem sendUnder_tells {s : State} (hsome : s.ras.under ≠ 0) (hat : s.ras.underAt = none) : (sendUnder s).ras.under = 0 ∧
    (sendUnder s).teller.ledgerOffers.map Prod.fst = s.teller.ledgerOffers.map Prod.fst ++ [0x8180] := by
  unfold sendUnder
  dsimp only
  rw [hat, if_neg (by simp [hsome])]
  refine ⟨by rw [notify_ras]; rfl, ?_⟩
  rw [(notify_told _ _ _ _).offered, List.map_append]
  rfl

/-- A line's underrun as it is counted. -/
def underCounted (line : Nat) (s : State) : State := setFlag R.RAS_INT_STAT 3 (bump R.RAS_CNT_UNDERRUN (modRas (fun r => { r with
  under := r.under + 1, underruns := r.underruns + 1, underLast := some line
  underR := if r.under = 0 then r.r else r.underR
  underLine := if r.under = 0 then line else r.underLine }) s))

theorem underCounted_ras (line : Nat) (s : State) : (underCounted line s).ras = { s.ras with
    under := s.ras.under + 1, underruns := s.ras.underruns + 1, underLast := some line
    underR := if s.ras.under = 0 then s.ras.r else s.ras.underR
    underLine := if s.ras.under = 0 then line else s.ras.underLine } := rfl

theorem underCounted_time (line : Nat) (s : State) : (underCounted line s).time = s.time := rfl
theorem underCounted_teller (line : Nat) (s : State) : (underCounted line s).teller = s.teller := rfl

section

variable {s : State} (hw : RegsWf s.regs) (line : Nat)

include hw

theorem underCounted_wf : RegsWf (underCounted line s).regs := setFlag_wf _ _ (bump_wf _ hw)

theorem underCounted_flag : bitOf (reg (underCounted line s) R.RAS_INT_STAT) 3 = true :=
  setFlag_shows (bump_wf (s := modRas _ s) _ hw) (by decide)

theorem underCounted_regN : regN (underCounted line s) R.RAS_CNT_UNDERRUN = min 0xFFFFFFFF (regN s R.RAS_CNT_UNDERRUN + 1) := by
  rw [underCounted, setFlag, regN_setReg_ne (bump_wf (s := modRas _ s) _ hw) (by decide)]
  exact bump_regN (s := modRas _ s) hw _

end

/-! The line that a scan without data blackens. -/

section

variable (line sample : Nat) (s : State)

theorem blackLine_only' : Only [.ras] s (blackLine line sample s) :=
  only_ite (modRas_only (by decide) (only_refl _ s)) (only_refl _ s)

@[simp] theorem blackLine_regs : (blackLine line sample s).regs = s.regs := (blackLine_only' line sample s).2.2 .regs (by decide)
@[simp] theorem blackLine_time : (blackLine line sample s).time = s.time := (blackLine_only' line sample s).2.2 .time (by decide)
@[simp] theorem blackLine_teller : (blackLine line sample s).teller = s.teller := (blackLine_only' line sample s).2.2 .teller (by decide)

theorem blackLine_ras (hrun : s.ras.running = true) : (blackLine line sample s).ras =
    { s.ras with blacked := aPut s.ras.blacked line (min sample (aGet s.ras.blacked line sample)) } := by
  rw [blackLine, if_pos hrun]
  rfl

end

section

variable {t line sample : Nat} {s : State}

theorem scanUnderrun_idle (hrun : s.ras.running = false) : exec (.scanUnderrun t line sample) s = .next (advance t s) := by
  have hexec : exec (.scanUnderrun t line sample) s = execScanUnderrun t line sample s := rfl
  have hblack : blackLine line sample (advance t s) = advance t s := if_neg (by simp [hrun])
  rw [hexec, execScanUnderrun, hblack]
  exact if_pos (.inl (by simpa using hrun))

variable (hrun : s.ras.running = true) (htrans : s.ras.transition = none) (hscan : s.ras.scan ≠ none) (hlast : s.ras.underLast ≠ some line)

include hrun htrans hscan hlast

theorem scanUnderrun_counts : exec (.scanUnderrun t line sample) s =
    .next (sendUnder (underCounted line (blackLine line sample (advance t s)))) := by
  have hexec : exec (.scanUnderrun t line sample) s = execScanUnderrun t line sample s := rfl
  have hblack := blackLine_ras line sample (advance t s) (by simpa using hrun)
  rw [advance_ras] at hblack
  rw [hexec, execScanUnderrun]
  exact if_neg (by simp [hblack, hrun, htrans, hscan, hlast])

theorem scanUnderrun_blackens (hw : RegsWf s.regs) : Goes (.scanUnderrun t line sample) s fun x =>
    x.ras.blacked = aPut s.ras.blacked line (min sample (aGet s.ras.blacked line sample)) ∧
    x.ras.underruns = s.ras.underruns + 1 ∧ x.ras.underLast = some line ∧ bitOf (reg x R.RAS_INT_STAT) 3 = true ∧
    regN x R.RAS_CNT_UNDERRUN = min 0xFFFFFFFF (regN s R.RAS_CNT_UNDERRUN + 1) ∧
    (∀ a, s.ras.underAt = some a → (advance t s).time.now < a + 1000000000 → x.ras.under = s.ras.under + 1 ∧ x.teller = s.teller) ∧
    (s.ras.underAt = none → x.ras.under = 0 ∧ x.teller.ledgerOffers.map Prod.fst = s.teller.ledgerOffers.map Prod.fst ++ [0x8180]) := by
  refine ⟨_, scanUnderrun_counts hrun htrans hscan hlast, ?_⟩
  have hblack := blackLine_ras line sample (advance t s) (by simpa using hrun)
  rw [advance_ras] at hblack
  have hwb : RegsWf (blackLine line sample (advance t s)).regs := by simpa using hw
  obtain ⟨n, at_, hras⟩ := sendUnder_ras (underCounted line (blackLine line sample (advance t s)))
  have hcounted := underCounted_ras line (blackLine line sample (advance t s))
  have hreg : ∀ a, a ∉ noticeRegs → reg (sendUnder (underCounted line (blackLine line sample (advance t s)))) a =
      reg (underCounted line (blackLine line sample (advance t s))) a := fun a => sendUnder_reg (underCounted_wf hwb line)
  rw [hblack] at hcounted
  refine ⟨?_, ?_, ?_, ?_, ?_, fun a hat hsoon => ?_, fun hat => ?_⟩
  · rw [hras, hcounted]
  · rw [hras, hcounted]
  · rw [hras, hcounted]
  · rw [hreg _ (by decide)]
    exact underCounted_flag hwb line
  · rw [regN, hreg _ (by decide), ← regN, underCounted_regN hwb, regN_of (blackLine_regs _ _ _), advance_regN]
  · have hquiet := sendUnder_quiet (s := underCounted line (blackLine line sample (advance t s))) (a := a) (by rw [hcounted, hat])
      (by rwa [underCounted_time, blackLine_time])
    rw [hquiet, hcounted, underCounted_teller, blackLine_teller, advance_teller]
    exact ⟨rfl, rfl⟩
  · obtain ⟨hunder, htold⟩ := sendUnder_tells (s := underCounted line (blackLine line sample (advance t s)))
      (by rw [hcounted]; exact Nat.succ_ne_zero _) (by rw [hcounted, hat])
    rw [underCounted_teller, blackLine_teller, advance_teller] at htold
    exact ⟨hunder, htold⟩

end

end Sys2Proof.Proofs
end

section
/-! The canvas and the raster (R237 to R239, R249 to R251, R256, R259, R260). -/

namespace Sys2Proof.Proofs

open Sys2Proof.Machine Sys2Proof.Safety Sys2Proof.Laws

section

variable {t n line : Nat} {c : Canvas} {ok : Bool} {s : State} (hnew : newestCanvas s = some (n, c)) (hopen : s.cmp.complete = false)
  (hbad : s.protect.badTiles = [])

include hnew hopen hbad

/-- A line before the last is counted in the canvas and in the monitor's frame of it, and ends the waits for it. -/
theorem canvasLineDone_counts (hline : s.cmp.lines ≤ line) (hmore : line + 1 < c.height) : Goes (.canvasLineDone t line ok) s fun x =>
    Only [.regs, .time, .cmp, .ras, .map] s x ∧ x.cmp = { s.cmp with lines := line + 1 } ∧ (s.map.frame = none → x.regs = s.regs ∧ x.map = s.map) ∧
    (∀ fr (e : Fin 16) h, s.map.frame = some fr → (mapEngine s e).held = some h → ∃ g, (mapEngine x e).held = some g ∧
      g = (if h.waiting = true ∧ linesReady x fr (fr.tiles.getD h.tile ⟨0, [], 0, 0⟩) = true
        then { h with waited := (advance t s).time.now - h.claimedAt, waiting := false } else h)) ∧
    x.ras.frames = s.ras.frames.map (fun f => if f.canvas = n then { f with
      lines := max f.lines (line + 1)
      refused := if ok then f.refused else f.refused ++
        ((List.range (line + 1 - s.cmp.lines)).map (fun i => s.cmp.lines + i)).filter (fun l => decide (l < f.need)) } else f) := by
  refine ⟨_, canvasLineDone_inner hnew hopen hbad hline hmore, lineDone_only' t s _ _ _ _ _, ?_, fun h => ?_, fun fr e h hfr hheld => ?_, ?_⟩
  · rw [waitsEnd_cmp, ← advance_cmp t s]
    rfl
  · rw [waitsEnd_idle (by simpa using h)]
    simp
  · refine ⟨_, waitsEnd_held (by simpa using hfr) e.isLt (by simpa [mapEngine] using hheld), ?_⟩
    rw [linesReady_of (waitsEnd_cmp _) (waitsEnd_kernels _)]
    rfl
  · rw [waitsEnd_ras, ← advance_ras t s]
    rfl

/-- The last line completes the canvas, and the compositor keeps its time. -/
theorem canvasLineDone_completes (hline : c.height ≤ line + 1) (hmore : s.cmp.lines < c.height) (hlate : s.cmp.late = none) :
    Goes (.canvasLineDone t line ok) s fun x => Only [.regs, .time, .cmp, .ras, .map] s x ∧ x.cmp.complete = true ∧ x.cmp.lines = c.height ∧
      x.cmp.lastK = c.k ∧ x.cmp.lastTime = ((advance t s).time.st64 - frameAt s c.k).toNat ∧ x.cmp.canvases = s.cmp.canvases := by
  obtain ⟨fetch, pipes, hexec⟩ := canvasLineDone_last (t := t) (ok := ok) hnew hopen hbad hline hmore hlate
  refine ⟨_, hexec, lineDone_only' t s _ _ _ _ _, ?_⟩
  rw [waitsEnd_cmp, ← advance_cmp t s]
  exact ⟨rfl, rfl, rfl, rfl, rfl⟩

end

/-- Settles O38: event by event, each where it happens and where it does not. -/
theorem canvasAndRaster : Obligations.CanvasAndRaster := by
  unfold Obligations.CanvasAndRaster
  intro t s hw
  refine ⟨fun n line c ok hnew hopen hline hbad => ⟨canvasLineDone_counts hnew hopen hbad hline, canvasLineDone_completes hnew hopen hbad⟩,
    fun f g hframes hk href => lineReadback_reads hw hframes hk href, lineReadback_idle, fun b f hrun hf hnow hlong => ?_, fun b => ltrRecompute_idle,
    fun hdue _ harmed hon hdrift hslew _ hsource => rasterFrameStart_onGrid hdue harmed hon hsource hw hdrift hslew,
    fun hdue _ harmed hon hline hlag hsource => rasterFrameStart_slips hdue harmed hon hsource hw hline hlag, rasterFrameStart_idle,
    fun line at_ hat hrun hfresh hin => rasterLineMatch_matches hw hat hrun hfresh hin, fun line => rasterLineMatch_idle,
    fun f hf hrun hdone hline => rasterFrameDone_ends hw hf hrun hdone hline,
    fun line sample hrun htrans hscan hlast => scanUnderrun_blackens hrun htrans hscan hlast hw, fun line sample => scanUnderrun_idle⟩
  have hformat : monFormat (rasFormat (advance t s)) = some f := (congrArg monFormat (rasFormat_of (congrArg _ (advance_regs t s)))).trans hf
  have hltr := ltrOf_blanking hformat hnow hlong (min b 524288)
  rw [rasRate_of (congrArg _ (advance_regs t s))] at hltr
  refine ⟨_, ltrRecompute_sets hrun, modRas_only (by decide) (advance_only (by decide) (only_refl _ s)), _, ?_, hltr⟩
  rw [modRas, advance_ras]

end Sys2Proof.Proofs
end

section
/-! What the end of a tile and of an engine leaves of the mapper: its registers (R334), and the roles and tiles of the engines (R325, R326). -/

namespace Sys2Proof.Proofs

open Sys2Proof.Machine Sys2Proof.Safety Sys2Proof.Laws

/-- From `s` to `t` the registers of MAP, one page of both halves, stand; `HkcRegs` is the same of the pages of SYS and PWR. -/
def MapRegs (s t : State) : Prop := RegsWf s.regs → RegsWf t.regs ∧ ∀ a, 0xF0200000 ≤ a → a < 0xF0210000 → reg t a = reg s a

/-- An address outside MAP's page. -/
def OffMap (a : Nat) : Prop := a < 0xF0200000 ∨ 0xF0210000 ≤ a

theorem MapRegs.refl (s : State) : MapRegs s s := fun hw => ⟨hw, fun _ _ _ => rfl⟩

theorem MapRegs.trans {s t u : State} (h : MapRegs s t) (g : MapRegs t u) : MapRegs s u := fun hw =>
  ⟨(g (h hw).1).1, fun a hlo hhi => ((g (h hw).1).2 a hlo hhi).trans ((h hw).2 a hlo hhi)⟩

section

variable {s0 s t : State} (h : MapRegs s0 s)

include h

/-- One more operation, which writes no register. -/
theorem MapRegs.same (hr : t.regs = s.regs) : MapRegs s0 t := h.trans fun hw => ⟨by rwa [hr], fun a _ _ => reg_of hr a⟩

theorem MapRegs.only {l : List Comp} (g : Only l s t) (hl : Comp.regs ∉ l) : MapRegs s0 t := h.same (g.2.2 .regs hl)

theorem setReg_mapRegs {a : Nat} {w : Word} (ha : OffMap a) : MapRegs s0 (setReg a w s) :=
  h.trans fun hw => ⟨setReg_wf hw a w, fun b hlo hhi => (reg_setReg hw a w b).trans (if_neg (by unfold OffMap at ha; omega))⟩

theorem setFlag_mapRegs {a i : Nat} (ha : OffMap a) : MapRegs s0 (setFlag a i s) := setReg_mapRegs h ha

theorem bumpBy_mapRegs {a n : Nat} (ha : OffMap a) : MapRegs s0 (bumpBy a n s) := setReg_mapRegs h ha

theorem notify_mapRegs {code len : Nat} {fields : List Int} : MapRegs s0 (notify code len fields s) := by
  have hoff : ∀ a ∈ noticeRegs, 0xF0210000 ≤ a := by decide
  refine h.trans fun hw => ⟨notify_wf _ _ _ hw, fun a _ hhi => notify_reg hw _ _ _ fun hn => ?_⟩
  have hle := hoff a hn
  omega

theorem modPool_mapRegs {f : Pool → Pool} : MapRegs s0 (modPool f s) := h.same rfl

theorem modAlm_mapRegs {f : Almanac → Almanac} : MapRegs s0 (modAlm f s) := h.same rfl

theorem modLane_mapRegs {l : Nat} {f : Lane → Lane} : MapRegs s0 (modLane l f s) := h.same rfl

/-! Work of a zone whose data is complete (R125, R316, R511). -/

theorem zoneLate_mapRegs {stage z : Nat} {k : Int} {pixels : Nat} : MapRegs s0 (zoneLate stage z k pixels s) := by
  unfold zoneLate lateNotice
  exact keep_ite h (keep_ite (modPool_mapRegs h) (notify_mapRegs (modPool_mapRegs (modPool_mapRegs h))))

theorem discardDescriptor_mapRegs {d : Descriptor} : MapRegs s0 (discardDescriptor s d) := by
  have htrace {r : TraceRec} {x : State} (hx : MapRegs s0 x) : MapRegs s0 (traceRec r x) :=
    hx.only (traceRec_only (List.Subset.refl _) (only_refl _ _)) (by decide)
  exact (htrace (bumpBy_mapRegs h (.inl (by decide)))).only (workEnded_only (List.Subset.refl _) (only_refl _ _)) (by decide)

theorem refuseInsert_mapRegs {list : Nat} : MapRegs s0 (refuseInsert list s) := by
  have hcount : MapRegs s0 (setFlag R.ALM_INT_STAT 1 (bump R.ALM_CNT_OVERFLOW s)) :=
    setFlag_mapRegs (bumpBy_mapRegs h (.inl (by decide))) (.inl (by decide))
  unfold refuseInsert
  exact keep_ite (modAlm_mapRegs hcount) (notify_mapRegs (modAlm_mapRegs hcount))

theorem insertDescriptor_mapRegs {d : Descriptor} : MapRegs s0 (insertDescriptor d s) := by
  unfold insertDescriptor
  exact keep_ite (h.only (placeDescriptor_only (List.Subset.refl _) (only_refl _ _)) (by decide))
    (modAlm_mapRegs (refuseInsert_mapRegs (h.only (traceRec_only (List.Subset.refl _) (only_refl _ _)) (by decide))))

theorem dropJob_mapRegs {l : Nat} {j : PixelJob} : MapRegs s0 (dropJob l j s) := by
  have hlate : OffMap (R.LNE_Ln_CNT_LATE l) := by
    unfold OffMap R.LNE_Ln_CNT_LATE
    omega
  exact zoneLate_mapRegs (setFlag_mapRegs (bumpBy_mapRegs (modLane_mapRegs h) hlate) (.inr (by decide)))

theorem lateWork_mapRegs {d : Descriptor} : MapRegs s0 (lateWork s d) := by
  unfold lateWork
  split
  case h_1 => exact zoneLate_mapRegs (setFlag_mapRegs (bumpBy_mapRegs h (.inr (by decide))) (.inr (by decide)))
  case h_2 l _ =>
    have htake : MapRegs s0 (laneTake l d.zone d.frame s) := h.only (laneTake_only (List.Subset.refl _) (only_refl _ _)) (by decide)
    dsimp only
    split
    · exact dropJob_mapRegs htake
    · exact htake
  case h_3 => exact zoneLate_mapRegs h
  case h_4 => exact h.same rfl
  case h_5 => exact h

theorem releaseWork_mapRegs {r : Cfg} {d : Descriptor} : MapRegs s0 (releaseWork r s d) := by
  unfold releaseWork
  split
  · exact keep_ite (lateWork_mapRegs (discardDescriptor_mapRegs h)) (insertDescriptor_mapRegs h)
  · exact insertDescriptor_mapRegs h

theorem zoneData_mapRegs {z : Nat} {k : Int} : MapRegs s0 (zoneData z k s) := by
  unfold zoneData
  split
  · exact keep_foldl h fun _ _ hx => releaseWork_mapRegs hx
  · exact modPool_mapRegs h

theorem radioRelease_mapRegs {z : Nat} {k : Int} : MapRegs s0 (radioRelease z k s) := by
  unfold radioRelease valuesLate
  split
  · exact h
  · exact keep_foldl (bumpBy_mapRegs (MapRegs.same (keep_foldl h fun _ _ hx => zoneLate_mapRegs hx) rfl) (.inr (by decide))) fun _ _ hx => hx.same rfl

theorem zonePush_mapRegs {z : Nat} : MapRegs s0 (zonePush z s) := by
  have hready {k : Int} {x : State} (hx : MapRegs s0 x) : MapRegs s0 (windowReady z k x) :=
    keep_ite (radioRelease_mapRegs (keep_ite (zoneData_mapRegs (modPool_mapRegs hx)) hx)) hx
  unfold zonePush
  split
  · exact h
  · exact keep_ite h (keep_ite (hready (modPool_mapRegs h)) h)

theorem tileEnd_mapRegs {n : Nat} {r : TileRec} : MapRegs s0 (tileEnd n r s) := by
  unfold tileEnd
  have hrec : MapRegs s0 (modFrame (fun g => { g with
    ended := aPut g.ended n r, lastDone := if (aFind g.ended n).isSome then g.lastDone else max g.lastDone s.time.st64 }) s) := h.same rfl
  dsimp only
  split
  · exact (keep_ite (zonePush_mapRegs hrec) hrec).only (frameDone_only (List.Subset.refl _) (only_refl _ _)) (by decide)
  · exact hrec

end

/-! Engines. -/

/-- One engine changed, and no other. -/
theorem mapEngine_modMapEngine {e j : Nat} (hj : j < 16) (f : Engine → Engine) (s : State) :
    mapEngine (modMapEngine e f s) j = if j = e then f (mapEngine s j) else mapEngine s j := vGet_vMod _ _ _ _ _ hj

theorem mapEngine_of_map {s t : State} (h : t.map = s.map) (j : Nat) : mapEngine t j = mapEngine s j := by rw [mapEngine, mapEngine, h]

/-- From `s` to `t` no engine changes its role, its cause of failure or the tile that it holds. -/
def EnginesStand (s t : State) : Prop := ∀ j < 16,
  (mapEngine t j).role = (mapEngine s j).role ∧ (mapEngine t j).cause = (mapEngine s j).cause ∧ (mapEngine t j).held = (mapEngine s j).held

theorem EnginesStand.refl (s : State) : EnginesStand s s := fun _ _ => ⟨rfl, rfl, rfl⟩

theorem EnginesStand.trans {s t u : State} (h : EnginesStand s t) (g : EnginesStand t u) : EnginesStand s u := fun j hj =>
  ⟨(g j hj).1.trans (h j hj).1, (g j hj).2.1.trans (h j hj).2.1, (g j hj).2.2.trans (h j hj).2.2⟩

section

variable {s0 s t : State} (h : EnginesStand s0 s)

include h

/-- One more operation, which changes no engine. -/
theorem EnginesStand.same (hm : t.map.engines = s.map.engines) : EnginesStand s0 t := by
  refine h.trans fun j _ => ?_
  have hj : mapEngine t j = mapEngine s j := by rw [mapEngine, mapEngine, hm]
  rw [hj]
  exact ⟨rfl, rfl, rfl⟩

theorem EnginesStand.only {l : List Comp} (g : Only l s t) (hl : Comp.map ∉ l) : EnginesStand s0 t := by
  have hm : t.map = s.map := g.2.2 .map hl
  exact h.same (by rw [hm])

theorem repeatTile_engines {ps : List TilePart} : EnginesStand s0 (repeatTile ps s) := by
  unfold repeatTile
  split
  · exact h
  · exact keep_foldl (h.same rfl) fun _ _ hx => hx.only (poolAgain_only (List.Subset.refl _) (only_refl _ _)) (by decide)

/-- A frame that closes keeps the engines' clocks, and moves none of them (R334). -/
theorem frameClose_engines : EnginesStand s0 (frameClose s) := by
  unfold frameClose
  split
  next => exact h
  next fr _ =>
    have hend : EnginesStand s0 (if fr.open_ = true ∧ fr.tiles ≠ [] then phoEnd fr.k s else s) :=
      keep_ite (h.only (phoEnd_only (List.Subset.refl _) (only_refl _ _)) (by decide)) h
    refine hend.trans fun j hj => ?_
    generalize (if fr.open_ = true ∧ fr.tiles ≠ [] then phoEnd fr.k s else s) = x
    have hclocks : mapEngine (modMap (fun m => lastFrom fr { m with frame := some { fr with open_ := false } }) x) j =
        { mapEngine x j with lastClocks := (mapEngine x j).clocks } := vGet_vMap _ _ _ _ _ hj
    rw [hclocks]
    exact ⟨rfl, rfl, rfl⟩

theorem frameDone_engines : EnginesStand s0 (frameDone s) := by
  unfold frameDone
  split
  · exact keep_ite (frameClose_engines h) h
  · exact h

theorem tileEnd_engines {n : Nat} {r : TileRec} : EnginesStand s0 (tileEnd n r s) := by
  unfold tileEnd
  have hrec : EnginesStand s0 (modFrame (fun g => { g with
    ended := aPut g.ended n r, lastDone := if (aFind g.ended n).isSome then g.lastDone else max g.lastDone s.time.st64 }) s) := h.same rfl
  dsimp only
  split
  · exact frameDone_engines (keep_ite (hrec.only (zonePush_only (List.Subset.refl _) (only_refl _ _)) (by decide)) hrec)
  · exact hrec

end

end Sys2Proof.Proofs
end

section
/-! TILE_TIMEOUT and ENGINE_FAILURE (R325 to R328, R332). -/

namespace Sys2Proof.Proofs

open Sys2Proof.Machine Sys2Proof.Safety Sys2Proof.Laws

/-! One engine. -/

/-- An engine that has failed (R325). -/
def failedEngine (cause : Nat) (y : Engine) : Engine := { y with role := .failed, cause := cause, held := none, testBad := 0 }

/-- An engine stops: it is FAILED, and its wait for canvas lines ends (R313, R325). -/
def engineStopped (cause e : Nat) (s : State) : State :=
  bumpBy (R.MAP_CNT_WAIT 0) (heldWait s (mapEngine s e)) (mapFlag 0 (modMapEngine e (failedEngine cause) s))

/-- The tiles `l` of the frame, engine `e`'s, repeat and are counted as lost (R326). -/
def tilesLost (fr : MapFrame) (e : Nat) (l : List Nat) (s : State) : State :=
  l.foldl (fun y n => tileEnd n ⟨e, 0, .lost⟩ y) (modFrame (fun g => { g with lost := g.lost + l.length }) (mapFlag 1
    (bumpBy (R.MAP_CNT_LOST 0) l.length (l.foldl (fun y n => repeatTile (fr.tiles.getD n ⟨0, [], 0, 0⟩).parts y) s))))

section

variable {cause e : Nat} {s : State}

theorem engineDown_idle (h : s.map.frame = none) : (engineDown cause e s).1 = engineStopped cause e s := by
  unfold engineDown
  rw [h]
  rfl

theorem engineDown_loses {fr : MapFrame} (h : s.map.frame = some fr) : (engineDown cause e s).1 =
    if engineTiles fr e (mapEngine s e).held = [] then engineStopped cause e s
    else tilesLost fr e (engineTiles fr e (mapEngine s e).held) (engineStopped cause e s) := by
  unfold engineDown
  rw [h]
  exact apply_ite Prod.fst _ _ _

theorem tilesLost_engines {fr : MapFrame} {l : List Nat} : EnginesStand s (tilesLost fr e l s) := by
  have hagain : EnginesStand s (l.foldl (fun y n => repeatTile (fr.tiles.getD n ⟨0, [], 0, 0⟩).parts y) s) :=
    keep_foldl (EnginesStand.refl s) fun _ _ hx => repeatTile_engines hx
  unfold tilesLost
  exact keep_foldl (hagain.same rfl) fun _ _ hx => tileEnd_engines hx

/-- Of the engines, the failed one alone changes. -/
theorem engineDown_engines : EnginesStand (modMapEngine e (failedEngine cause) s) (engineDown cause e s).1 := by
  have hstop : EnginesStand (modMapEngine e (failedEngine cause) s) (engineStopped cause e s) := (EnginesStand.refl _).same rfl
  rcases hfr : s.map.frame with _ | fr
  · rw [engineDown_idle hfr]
    exact hstop
  · rw [engineDown_loses hfr]
    exact keep_ite hstop (hstop.trans tilesLost_engines)

/-! What the registers say of it. -/

variable (hw : RegsWf s.regs)

include hw

theorem engineStopped_regs : RegsWf (engineStopped cause e s).regs ∧ bitOf (reg (engineStopped cause e s) (R.MAP_INT_STAT 0)) 0 = true ∧
    regN (engineStopped cause e s) (R.MAP_CNT_LOST 0) = regN s (R.MAP_CNT_LOST 0) := by
  have hstop : RegsWf (modMapEngine e (failedEngine cause) s).regs := hw
  have hflag := setFlag_wf (R.MAP_INT_STAT 0) 0 hstop
  refine ⟨bumpBy_wf _ _ hflag, ?_, congrArg BitVec.toNat ?_⟩
  · exact (congrArg (bitOf · 0) ((bumpBy_reg hflag _ _ _).trans (if_neg (by decide)))).trans
      ((congrArg (bitOf · 0) ((setFlag_reg hstop _ _ _).trans (if_pos rfl))).trans (bitOf_setFlag _ _ (by decide)))
  · exact (bumpBy_reg hflag _ _ _).trans ((if_neg (by decide)).trans ((setFlag_reg hstop _ _ _).trans (if_neg (by decide))))

/-- Tiles lost are counted, and no flag of MAP is taken back. -/
theorem tilesLost_regs {fr : MapFrame} {l : List Nat} : RegsWf (tilesLost fr e l s).regs ∧
    (bitOf (reg s (R.MAP_INT_STAT 0)) 0 = true → bitOf (reg (tilesLost fr e l s) (R.MAP_INT_STAT 0)) 0 = true) ∧
    regN (tilesLost fr e l s) (R.MAP_CNT_LOST 0) = min 0xFFFFFFFF (regN s (R.MAP_CNT_LOST 0) + l.length) := by
  have hagain : (l.foldl (fun y n => repeatTile (fr.tiles.getD n ⟨0, [], 0, 0⟩).parts y) s).regs = s.regs :=
    keep_foldl (P := fun x => x.regs = s.regs) rfl fun x _ hx => ((repeatTile_only (List.Subset.refl _) (only_refl _ x)).2.2 .regs (by decide)).trans hx
  unfold tilesLost
  generalize l.foldl (fun y n => repeatTile (fr.tiles.getD n ⟨0, [], 0, 0⟩).parts y) s = x at hagain
  have hx : RegsWf x.regs := by rwa [hagain]
  have hcount := bumpBy_wf (R.MAP_CNT_LOST 0) l.length hx
  have hends : MapRegs (mapFlag 1 (bumpBy (R.MAP_CNT_LOST 0) l.length x)) (l.foldl (fun y n => tileEnd n ⟨e, 0, .lost⟩ y)
      (modFrame (fun g => { g with lost := g.lost + l.length }) (mapFlag 1 (bumpBy (R.MAP_CNT_LOST 0) l.length x)))) :=
    keep_foldl (MapRegs.same (MapRegs.refl _) rfl) fun _ _ hx => tileEnd_mapRegs hx
  obtain ⟨hwf, hregs⟩ := hends (setFlag_wf _ _ hcount)
  refine ⟨hwf, fun hflag => ?_, ?_⟩
  · rw [hregs _ (by decide) (by decide), mapFlag, setFlag_reg hcount, if_pos rfl, bumpBy_reg hx, if_neg (by decide), reg_of hagain]
    exact bitOf_or _ _ _ hflag
  · rw [regN, hregs _ (by decide) (by decide), mapFlag, setFlag_reg hcount, if_neg (by decide), ← regN_of hagain]
    exact bumpBy_regN hx _ _

theorem engineDown_regs : RegsWf (engineDown cause e s).1.regs ∧ bitOf (reg (engineDown cause e s).1 (R.MAP_INT_STAT 0)) 0 = true ∧
    ∀ fr, s.map.frame = some fr → regN (engineDown cause e s).1 (R.MAP_CNT_LOST 0) =
      min 0xFFFFFFFF (regN s (R.MAP_CNT_LOST 0) + (engineTiles fr e (mapEngine s e).held).length) := by
  obtain ⟨hwf, hflag, hcount⟩ := engineStopped_regs (cause := cause) (e := e) hw
  rcases hfr : s.map.frame with _ | fr
  · rw [engineDown_idle hfr]
    exact ⟨hwf, hflag, fun _ h => by cases h⟩
  · rw [engineDown_loses hfr]
    split
    next hnone =>
      refine ⟨hwf, hflag, fun g hg => ?_⟩
      have hword : regN s (R.MAP_CNT_LOST 0) < 2 ^ 32 := (reg s (R.MAP_CNT_LOST 0)).isLt
      cases hg
      rw [hcount, hnone, List.length_nil]
      omega
    next =>
      obtain ⟨hwf', hflag', hcount'⟩ := tilesLost_regs (e := e) hwf (fr := fr) (l := engineTiles fr e (mapEngine s e).held)
      refine ⟨hwf', hflag' hflag, fun g hg => ?_⟩
      cases hg
      rw [hcount', hcount]

end

/-! Engines that fail together. -/

/-- Engines fail one after the other (R332). -/
def enginesDown (cause : Nat) (l : List Nat) (s : State) : State := l.foldl (fun x e => (engineDown cause e x).1) s

/-- An engine that a failure for `cause` concerns: one that is on and has not failed, or for cause 5 every one that is on (R325, R332). -/
def failsNow (s : State) (cause e : Nat) : Bool := (mapEngine s e).role != .off && ((mapEngine s e).role != .failed || cause == 5)

section

variable {cause : Nat} {s : State}

@[simp] theorem reshed_map (s : State) : (reshed s).map = s.map := rfl
@[simp] theorem reshed_regs (s : State) : (reshed s).regs = s.regs := rfl

/-- The engines' part of a failure is that of each engine concerned. -/
theorem enginesFail_map (es : List Nat) : (enginesFail cause es s).map = (enginesDown cause (es.filter (failsNow s cause)) s).map := by
  have hdown (l : List Nat) (a : State × List (Nat × Nat)) : (l.foldl (fun (a : State × List (Nat × Nat)) e =>
      let d := engineDown cause e a.1
      (d.1, a.2 ++ [d.2])) a).1 = enginesDown cause l a.1 := by
    induction l generalizing a with
    | nil => rfl
    | cons e r ih => exact ih _
  unfold enginesFail
  dsimp only
  split
  next hnone =>
    have hfilter : es.filter (failsNow s cause) = [] := hnone
    rw [hfilter]
    rfl
  next =>
    refine keep_foldl (P := fun x => x.map = _) ?_ fun x _ hx => (notify_map _ _ _ _).trans hx
    exact (reshed_map _).trans (congrArg State.map (hdown _ (s, [])))

theorem enginesDown_engines (l : List Nat) {d : Nat} (hd : d < 16) :
    (d ∈ l → (mapEngine (enginesDown cause l s) d).role = .failed ∧ (mapEngine (enginesDown cause l s) d).cause = cause ∧
      (mapEngine (enginesDown cause l s) d).held = none) ∧
    (d ∉ l → (mapEngine (enginesDown cause l s) d).role = (mapEngine s d).role ∧
      (mapEngine (enginesDown cause l s) d).held = (mapEngine s d).held) := by
  induction l using List.reverseRecOn with
  | nil => exact ⟨fun h => (by cases h), fun _ => ⟨rfl, rfl⟩⟩
  | append_singleton l e ih =>
    have hlast : enginesDown cause (l ++ [e]) s = (engineDown cause e (enginesDown cause l s)).1 := by simp [enginesDown]
    obtain ⟨hrole, hcause, hheld⟩ := engineDown_engines (cause := cause) (e := e) (s := enginesDown cause l s) d hd
    rw [mapEngine_modMapEngine hd] at hrole hcause hheld
    rw [hlast, hrole, hcause, hheld]
    by_cases hde : d = e
    · rw [if_pos hde]
      exact ⟨fun _ => ⟨rfl, rfl, rfl⟩, fun h => absurd (by simp [hde]) h⟩
    · rw [if_neg hde]
      simpa [hde] using ih

theorem engineFail_spared {e : Nat} (hc : cause ≠ 5) (h : (mapEngine s e).role = .off ∨ (mapEngine s e).role = .failed) : engineFail e cause s = s := by
  have hspared : [e].filter (failsNow s cause) = [] := by
    rcases h with h | h <;> simp [failsNow, h, hc]
  unfold engineFail
  rw [if_neg hc]
  exact if_pos hspared

/-- One engine that fails is noticed, once shedding is judged (R325, R331). -/
theorem engineFail_notices {e : Nat} (hc : cause ≠ 5) (hoff : (mapEngine s e).role ≠ .off) (hfailed : (mapEngine s e).role ≠ .failed) :
    ∃ fields, engineFail e cause s = notify 0x8210 32 fields (reshed (engineDown cause e s).1) := by
  have hit : [e].filter (fun e => (mapEngine s e).role != .off && ((mapEngine s e).role != .failed || cause == 5)) = [e] := by simp [hoff, hfailed]
  unfold engineFail
  rw [if_neg hc, enginesFail, hit, if_neg (List.cons_ne_nil _ _)]
  simp only [List.map_cons, List.map_nil, List.foldl_cons, List.foldl_nil, List.zip_cons_cons, List.zip_nil_left, List.nil_append, faultNotice]
  exact ⟨_, rfl⟩

end

section

variable {t : Nat} {e : Fin 16} {s : State}

theorem engineFailure_exec (cause : Nat) : exec (.engineFailure t e cause) s = .next (engineFail e cause (advance t s)) := rfl

/-- ENGINE_FAILURE of an engine that runs, for a cause of its own (R325, R326, R333). -/
theorem engineFailure_fails {cause : Nat} (hw : RegsWf s.regs) (hc : cause ≠ 5) (hoff : (mapEngine s e).role ≠ .off)
    (hfailed : (mapEngine s e).role ≠ .failed) : Goes (.engineFailure t e cause) s fun x =>
      (mapEngine x e).role = .failed ∧ (mapEngine x e).cause = cause ∧ (mapEngine x e).held = none ∧
      (∀ d : Fin 16, d ≠ e → (mapEngine x d).role = (mapEngine s d).role ∧ (mapEngine x d).held = (mapEngine s d).held) ∧
      bitOf (reg x (R.MAP_INT_STAT 0)) 0 = true ∧ (∃ o ∈ x.teller.ledgerOffers, o.1 = 0x8210) ∧
      ∀ fr, s.map.frame = some fr → regN x (R.MAP_CNT_LOST 0) =
        min 0xFFFFFFFF (regN s (R.MAP_CNT_LOST 0) + (engineTiles fr e (mapEngine s e).held).length) := by
  have hstate : RegsWf (advance t s).regs := by simpa using hw
  obtain ⟨fields, hfail⟩ := engineFail_notices (s := advance t s) (e := e) hc (by simpa using hoff) (by simpa using hfailed)
  obtain ⟨hwf, hflag, hcount⟩ := engineDown_regs (cause := cause) (e := e) hstate
  have hdown (d : Fin 16) := enginesDown_engines (cause := cause) (s := advance t s) [e.val] d.isLt
  have hengine (j : Nat) : mapEngine (engineFail e cause (advance t s)) j = mapEngine (enginesDown cause [e.val] (advance t s)) j := by
    rw [hfail]
    exact mapEngine_of_map (notify_map _ _ _ _) j
  have hreg (a : Nat) (ha : a ∉ noticeRegs) : reg (engineFail e cause (advance t s)) a = reg (engineDown cause e (advance t s)).1 a := by
    rw [hfail]
    exact notify_reg (s := reshed (engineDown cause e (advance t s)).1) hwf _ _ _ ha
  obtain ⟨hrole, hcause, hheld⟩ := (hdown e).1 (List.mem_singleton_self _)
  refine ⟨_, engineFailure_exec cause, ?_, ?_, ?_, fun d hd => ?_, ?_, ?_, fun fr hfr => ?_⟩
  · rw [hengine, hrole]
  · rw [hengine, hcause]
  · rw [hengine, hheld]
  · rw [hengine]
    simpa using (hdown d).2 (by simpa [Fin.ext_iff] using hd)
  · rw [hreg _ (by decide)]
    exact hflag
  · rw [hfail, (notify_told _ _ _ _).offered]
    exact ⟨_, List.mem_append_right _ (List.mem_singleton_self _), rfl⟩
  · rw [regN, hreg _ (by decide), ← advance_regN t s, ← mapEngine_advance (t := t)]
    exact hcount fr (by simpa using hfr)

/-- The engines of an engine's domain (R34, R332). -/
def domainEngines (e : Nat) : List Nat := (List.range 16).filter (fun x => engineDomain x == engineDomain e)

theorem engineFail_domain : engineFail e 5 s = enginesFail 5 (domainEngines e) s := by rw [engineFail, if_pos rfl, domainEngines]

/-- ENGINE_FAILURE of a domain takes every engine of it that is on (R332). -/
theorem engineFailure_domain : Goes (.engineFailure t e 5) s fun x => ∀ d : Fin 16,
    (engineDomain d = engineDomain e → (mapEngine s d).role ≠ .off →
      (mapEngine x d).role = .failed ∧ (mapEngine x d).cause = 5 ∧ (mapEngine x d).held = none) ∧
    (engineDomain d ≠ engineDomain e ∨ (mapEngine s d).role = .off → (mapEngine x d).role = (mapEngine s d).role) := by
  refine ⟨_, engineFailure_exec 5, fun d => ?_⟩
  have hmem : d.val ∈ (domainEngines e).filter (failsNow (advance t s) 5) ↔ engineDomain d = engineDomain e ∧ (mapEngine s d).role ≠ .off := by
    simp [domainEngines, failsNow, d.isLt, and_comm]
  have hengine : mapEngine (engineFail e 5 (advance t s)) d =
      mapEngine (enginesDown 5 ((domainEngines e).filter (failsNow (advance t s) 5)) (advance t s)) d := by
    rw [engineFail_domain]
    exact mapEngine_of_map (enginesFail_map _) d
  obtain ⟨hin, hout⟩ := enginesDown_engines (cause := 5) (s := advance t s) ((domainEngines e).filter (failsNow (advance t s) 5)) d.isLt
  rw [hmem] at hin hout
  rw [hengine]
  refine ⟨fun hdom hon => hin ⟨hdom, hon⟩, fun h => ?_⟩
  rw [(hout fun ⟨hdom, hon⟩ => h.elim (· hdom) (hon ·)).1, mapEngine_advance]

/-! TILE_TIMEOUT (R325). -/

theorem tileTimeout_idle (h : (mapEngine s e).held = none) : exec (.tileTimeout t e) s = .next (advance t s) := by
  have hexec : exec (.tileTimeout t e) s = execTileTimeout t e s := rfl
  rw [hexec, execTileTimeout, mapEngine_advance, h]

/-- The tile that an engine holds is out of time, or not yet. -/
theorem tileTimeout_holds {h : HeldTile} (hheld : (mapEngine s e).held = some h) : exec (.tileTimeout t e) s =
    if (mapEngine s e).role = .active ∧ h.waiting = false ∧ h.claimedAt + h.waited + regN s (R.MAP_TIMEOUT 0) ≤ (advance t s).time.now then
      exec (.engineFailure t e 0) s
    else .next (advance t s) := by
  have hexec : exec (.tileTimeout t e) s = execTileTimeout t e s := rfl
  rw [hexec, execTileTimeout, mapEngine_advance, hheld, engineFailure_exec, ← advance_regN t s]

end

end Sys2Proof.Proofs
end

section
/-! ENGINE_TEST_DONE (R330), KERNEL_LOAD, KERNEL_UNLOAD and MAP_ENGINE_SET (R308, R321, R333). -/

namespace Sys2Proof.Proofs

open Sys2Proof.Machine Sys2Proof.Safety Sys2Proof.Laws

/-! The end of an engine's test (R330). -/

section

variable {t : Nat} {s : State}

@[simp] theorem inRole_advance (r : Role) : inRole (advance t s) r = inRole s r := by simp [inRole]
@[simp] theorem roleCount_advance (r : Role) : roleCount (advance t s) r = roleCount s r := by simp [roleCount]
@[simp] theorem targetNow_advance : targetNow (advance t s) = targetNow s := by simp [targetNow, clusterB]
@[simp] theorem spareAt_advance (e : Nat) : spareAt e (advance t s) = spareAt e s := by simp [spareAt]

end

/-- The role that an engine takes which comes back from its test (R330). -/
def returnRole (e : Nat) (s : State) : Role :=
  if roleCount s .active < targetNow s ∨ (inRole s .spare = [] ∧ spareAt e s ≠ e) then .active else if inRole s .spare = [] then .spare else .idle

/-- The engine that MAP_SPARE_PREF names is the spare where one is wanted and engine `e` takes its place (R330, R333). -/
def spareGiven (e : Nat) (s : State) : State :=
  if (targetNow s ≤ roleCount s .active ∧ inRole s .spare = []) ∧ spareAt e s ≠ e then modMapEngine (spareAt e s) (fun y => { y with role := .spare }) s
  else s

section

variable {e : Nat} {s : State}

/-- The spare named is an ACTIVE engine, one of the sixteen. -/
theorem spareAt_lt (h : spareAt e s ≠ e) : spareAt e s < 16 := by
  unfold spareAt at h ⊢
  dsimp only at h ⊢
  split at h
  next hactive =>
    rw [if_pos hactive]
    exact Nat.mod_lt _ (by decide)
  next => exact absurd rfl h

/-- The role of the model's test, once the count is known to be met where it is not below the target. -/
theorem returnRole_eq : (if roleCount s .active < targetNow s ∨ (targetNow s ≤ roleCount s .active ∧ inRole s .spare = []) ∧ spareAt e s ≠ e
    then (Role.active, 1) else if targetNow s ≤ roleCount s .active ∧ inRole s .spare = [] then (Role.spare, 2) else (Role.idle, 3)).1 = returnRole e s := by
  unfold returnRole
  rw [apply_ite Prod.fst, apply_ite Prod.fst]
  by_cases hlow : roleCount s .active < targetNow s
  · rw [if_pos (.inl hlow), if_pos (.inl hlow)]
  · simp [hlow, Nat.le_of_not_lt hlow]

theorem testDone_returns (h : (mapEngine s e).role = .testing) (hleft : (mapEngine s e).testLeft = 0) : ∃ (ch : Nat) (k : Int),
    testDone e s = reshed (takeover e ch k (modMapEngine e (fun y => { y with role := returnRole e s, fromK := k }) (spareGiven e s))) := by
  have hopen : (decide (targetNow s ≤ roleCount s .active) && (inRole s .spare).isEmpty) = true ↔
      targetNow s ≤ roleCount s .active ∧ inRole s .spare = [] := by simp
  unfold testDone
  dsimp only
  rw [if_neg (by simp [h, hleft])]
  simp only [hopen]
  rw [returnRole_eq]
  exact ⟨_, _, rfl⟩

@[simp] theorem takeover_map (ch : Nat) (k : Int) : (takeover e ch k s).map = s.map := notify_map _ _ _ _

theorem takeover_flag (hw : RegsWf s.regs) (ch : Nat) (k : Int) : bitOf (reg (takeover e ch k s) (R.MAP_INT_STAT 0)) 4 = true := by
  unfold takeover
  rw [mapFlag, notify_reg (setFlag_wf _ _ hw) _ _ _ (by decide), setFlag_reg hw, if_pos rfl]
  exact bitOf_setFlag _ _ (by decide)

/-- No engine but the one named changes, and none where no spare is wanted. -/
theorem spareGiven_engine {d : Nat} (hd : d < 16)
    (h : roleCount s .active < targetNow s ∨ inRole s .spare ≠ [] ∨ d ≠ spareAt e s) : mapEngine (spareGiven e s) d = mapEngine s d := by
  unfold spareGiven
  split
  next hgiven =>
    obtain ⟨⟨hmet, hnone⟩, -⟩ := hgiven
    rw [mapEngine_modMapEngine hd, if_neg]
    rintro rfl
    rcases h with h | h | h
    · omega
    · exact h hnone
    · exact h rfl
  next => rfl

@[simp] theorem spareGiven_frame : (spareGiven e s).map.frame = s.map.frame := by
  unfold spareGiven
  split <;> rfl

@[simp] theorem spareGiven_regs : (spareGiven e s).regs = s.regs := by
  unfold spareGiven
  split <;> rfl

end

section

variable {t : Nat} {e : Fin 16} {s : State}

/-- An engine comes back from its test: it takes the first open role, or the place of the engine that MAP_SPARE_PREF makes the spare (R330). -/
theorem engineTestDone_returns (hw : RegsWf s.regs) (h : (mapEngine s e).role = .testing) (hleft : (mapEngine s e).testLeft = 0) :
    Goes (.engineTestDone t e) s fun x => (mapEngine x e).role = returnRole e s ∧
      (targetNow s ≤ roleCount s .active → inRole s .spare = [] → spareAt e s ≠ e →
        mapEngine x (spareAt e s) = { mapEngine s (spareAt e s) with role := .spare }) ∧
      (∀ d : Fin 16, d ≠ e → roleCount s .active < targetNow s ∨ inRole s .spare ≠ [] ∨ d.val ≠ spareAt e s → mapEngine x d = mapEngine s d) ∧
      x.map.frame = s.map.frame ∧ bitOf (reg x (R.MAP_INT_STAT 0)) 4 = true := by
  have hexec : exec (.engineTestDone t e) s = .next (testDone e (advance t s)) := rfl
  obtain ⟨ch, k, hdone⟩ := testDone_returns (s := advance t s) (e := e) (by simpa using h) (by simpa using hleft)
  have hengine {j : Nat} (hj : j < 16) : mapEngine (testDone e (advance t s)) j =
      if j = e then { mapEngine (spareGiven e (advance t s)) j with role := returnRole e (advance t s), fromK := k }
      else mapEngine (spareGiven e (advance t s)) j := by
    rw [hdone, mapEngine_of_map (reshed_map _), mapEngine_of_map (takeover_map _ _), mapEngine_modMapEngine hj]
  refine ⟨_, hexec, ?_, fun hmet hnone hother => ?_, fun d hd hkept => ?_, ?_, ?_⟩
  · rw [hengine e.isLt, if_pos rfl]
    simp [returnRole]
  · have hlt := spareAt_lt hother
    rw [hengine hlt, if_neg hother, spareGiven, if_pos (by simp [hmet, hnone, hother]), spareAt_advance, mapEngine_modMapEngine hlt, if_pos rfl,
      mapEngine_advance]
  · rw [hengine d.isLt, if_neg (by simpa [Fin.ext_iff] using hd), spareGiven_engine d.isLt (by simpa using hkept), mapEngine_advance]
  · rw [hdone, reshed_map, takeover_map]
    exact spareGiven_frame.trans (by rw [advance_map])
  · rw [hdone]
    exact takeover_flag (s := modMapEngine e _ _) (by simpa using hw) ch k

theorem engineTestDone_idle (h : (mapEngine s e).role ≠ .testing ∨ (mapEngine s e).testLeft ≠ 0) : exec (.engineTestDone t e) s = .next (advance t s) :=
  congrArg _ (if_pos (by simpa using h))

end

/-! User programs (R308, R321, R333). -/

section

variable {c : Call} {s : State}

theorem kernelLoad_done {p : KernelLoad} (h : Ready 0x0440 c s) (hheader : kernelHeaderOk p = true) (hcheck : kernelCheckOk p = true)
    (hnew : aFind s.map.kernels (kernelKey p) = none) (hcode : (s.map.kernels.map (fun k => k.2.image.codeBytes)).sum + p.codeBytes ≤ 65536)
    (hdata : (s.map.kernels.map (fun k => k.2.image.dataBytes)).sum + p.dataBytes ≤ 32768) (hsigned : codeSigned (advance c.t s) p.trailer = true) :
    Done (.kernelLoad c p) 0x0440 c ⟨.ok, 0, []⟩ { advance c.t s with map := { s.map with
      kernels := aPut s.map.kernels (kernelKey p) ⟨p, none, 0, false, 0, none⟩ } } s := by
  refine command_done (rfl : _ = execKernelLoad c p s) h ?_ (by simpa using h.wf) (by simpa [sess] using h.live)
  unfold kernelLoad
  dsimp only
  rw [if_neg (by simp [hheader, hcheck, hnew]), if_neg (by rw [advance_map]; omega), if_neg (by simp [hsigned]), accept, modMap, advance_map]

theorem kernelLoad_refused {p : KernelLoad} (h : Ready 0x0440 c s)
    (hbad : kernelHeaderOk p = false ∨ kernelCheckOk p = false ∨ (aFind s.map.kernels (kernelKey p)).isSome = true) :
    Done (.kernelLoad c p) 0x0440 c ⟨.invalidParameter, 0, []⟩ (advance c.t s) s :=
  command_reads (rfl : _ = execKernelLoad c p s) h (if_pos (by simpa using hbad))

/-- A program that something names (R321). -/
def kernelNamed (key : Nat) (s : State) : Bool :=
  codeUsed s.cfgB key || codeUsed s.record key || s.teller.stages.any (fun g => g.msgs.any (msgNames key))

/-- KERNEL_UNLOAD in range: what is not loaded is not found, and what something names stays (R321, R333). -/
theorem kernelUnload_exec {kind code key : Nat} (hkind : kind ≤ 1) (hcode : 128 ≤ code ∧ code ≤ 255) (hkey : key = 256 * kind + code) :
    exec (.kernelUnload c kind code) s = command 0x0441 c s fun x =>
      if (aFind x.map.kernels key).isNone then refuse .notFound x
      else if kernelNamed key x then refuse .invalidParameter x
      else accept (modMap (fun m => { m with kernels := aDel m.kernels key }) x) := by
  have hexec : exec (.kernelUnload c kind code) s = execKernelUnload c kind code s := rfl
  have hfits : (if kind = 1 then 256 + code else code) = key := by
    split <;> omega
  rw [hexec, execKernelUnload]
  simp only [hfits, kernelNamed]
  congr 1
  funext x
  exact if_neg (by omega)

variable {kind code key : Nat} (h : Ready 0x0441 c s) (hkind : kind ≤ 1) (hcode : 128 ≤ code ∧ code ≤ 255) (hkey : key = 256 * kind + code)

include h hkind hcode hkey

theorem kernelUnload_missing (hnone : aFind s.map.kernels key = none) :
    Done (.kernelUnload c kind code) 0x0441 c ⟨.notFound, 0, []⟩ (advance c.t s) s :=
  command_reads (kernelUnload_exec hkind hcode hkey) h (if_pos (by simp [hnone]))

theorem kernelUnload_named (hloaded : (aFind s.map.kernels key).isSome = true) (hnamed : kernelNamed key s = true) :
    Done (.kernelUnload c kind code) 0x0441 c ⟨.invalidParameter, 0, []⟩ (advance c.t s) s := by
  refine command_reads (kernelUnload_exec hkind hcode hkey) h ?_
  rw [if_neg (by simpa [Option.isSome_iff_ne_none] using hloaded)]
  exact if_pos (by simpa [kernelNamed] using hnamed)

theorem kernelUnload_drops (hloaded : (aFind s.map.kernels key).isSome = true) (hfree : kernelNamed key s = false) :
    Done (.kernelUnload c kind code) 0x0441 c ⟨.ok, 0, []⟩ { advance c.t s with map := { s.map with kernels := aDel s.map.kernels key } } s := by
  refine command_done (kernelUnload_exec hkind hcode hkey) h ?_ (by simpa using h.wf) (by simpa [sess] using h.live)
  have hfree' : kernelNamed key (advance c.t s) = false := by simpa [kernelNamed] using hfree
  dsimp only
  rw [if_neg (by simpa [Option.isSome_iff_ne_none] using hloaded), if_neg (by simp [hfree']), accept, modMap, advance_map]

end

/-! MAP_ENGINE_SET (R308, R330, R333). -/

/-- The command ends with what the cluster makes of its action, and domains follow (R588). -/
theorem mapEngineSet_ends {c : Call} {s y : State} {e action : Nat} {r : Reply} (h : Ready 0x0444 c s)
    (hbody : mapEngineSet e action (advance c.t s) = (y, r)) : Ends (.mapEngineSet c e action) 0x0444 c r (kick y) s :=
  command_ends (rfl : _ = execMapEngineSet c e action s) h (by rw [hbody, thenKick])

section

variable {e : Nat} {x : State}

theorem mapEngineSet_tests (he : e ≤ 15) (hfailed : (mapEngine x e).role = .failed) (hup : domainUp x (engineDomain e) = true) :
    mapEngineSet e 0 x = accept (modMapEngine e (fun y => { y with role := .testing, testLeft := 17, testBad := 0 }) x) :=
  (if_neg (by omega)).trans ((if_neg (by simp [hup])).trans (if_neg (by simp [hfailed])))

theorem mapEngineSet_notReady (he : e ≤ 15) (hdown : domainUp x (engineDomain e) = false) : mapEngineSet e 0 x = refuse .notReady x :=
  (if_neg (by omega)).trans (if_pos hdown)

theorem mapEngineSet_notFailed (he : e ≤ 15) (hrole : (mapEngine x e).role ≠ .failed) (hup : domainUp x (engineDomain e) = true) :
    mapEngineSet e 0 x = refuse .invalidParameter x :=
  (if_neg (by omega)).trans ((if_neg (by simp [hup])).trans (if_pos hrole))

theorem mapEngineSet_retires (he : e ≤ 15) (hoff : (mapEngine x e).role ≠ .off) (hfailed : (mapEngine x e).role ≠ .failed) :
    mapEngineSet e 1 x = accept (engineFail e 6 x) :=
  (if_neg (by omega)).trans (if_neg (by simp [hoff, hfailed]))

theorem mapEngineSet_prefers (he : e ≤ 15) : mapEngineSet e 2 x = accept (setField (R.MAP_SPARE_PREF 0) 3 0 e x) := if_neg (by omega)

theorem mapEngineSet_releases (hkept : x.map.released = false) (hfits : mapFits (mapClocks x.map x.cfgB []) 7 (mapLimit x x.cfgB) = true) :
    mapEngineSet e 3 x = accept (modMap (fun m => { m with releaseAsked := true }) x) :=
  (if_neg (by omega)).trans ((if_neg (by simp [hkept])).trans (if_neg (by simp [hfits])))

theorem mapEngineSet_takesBack : mapEngineSet e 4 x = accept (modMap (fun m => { m with released := false, releaseAsked := false }) x) :=
  if_neg (by omega)

end

end Sys2Proof.Proofs
end

section
/-! REPORT_STALE_TIMEOUT, CAL_RECORD_WRITE, ZONE_TEMP_SET and ATTR_VALUE_SET (R302, R344 to R346, R360, R363). -/

namespace Sys2Proof.Proofs

open Sys2Proof.Machine Sys2Proof.Safety Sys2Proof.Laws

/-! Reports of chips (R344, R346). -/

section

variable {t chip : Nat} {s : State}

@[simp] theorem tstaleNs_advance : tstaleNs (advance t s) = tstaleNs s := by simp [tstaleNs]

theorem reportStaleTimeout_absent (h : aFind s.pho.reports chip = none) : exec (.reportStaleTimeout t chip) s = .next (advance t s) := by
  have hexec : exec (.reportStaleTimeout t chip) s = execReportStaleTimeout t chip s := rfl
  rw [hexec, execReportStaleTimeout, advance_pho, h]

variable {at_ : Nat} {temp : Int} (h : aFind s.pho.reports chip = some (at_, temp))

include h

theorem reportStaleTimeout_reported : exec (.reportStaleTimeout t chip) s =
    if (advance t s).time.now ≤ at_ + tstaleNs s ∨ s.pho.stale.contains chip = true then .next (advance t s)
    else .next (tempNotice chip 0 (modPho (fun p => { p with stale := chip :: p.stale }) (advance t s))) := by
  have hexec : exec (.reportStaleTimeout t chip) s = execReportStaleTimeout t chip s := rfl
  rw [hexec, execReportStaleTimeout, advance_pho, h]
  simp only [tstaleNs_advance]

/-- A report that has grown old marks its chip, and is noticed (R346). -/
theorem reportStaleTimeout_marks (hw : RegsWf s.regs) (hold : at_ + tstaleNs s < (advance t s).time.now) (hnew : chip ∉ s.pho.stale) :
    Goes (.reportStaleTimeout t chip) s fun x => Only [.regs, .time, .teller, .pho] s x ∧
      x.pho = { s.pho with stale := chip :: s.pho.stale } ∧ bitOf (reg x R.PHO_INT_STAT) 2 = true ∧
      x.teller.ledgerOffers.map Prod.fst = s.teller.ledgerOffers.map Prod.fst ++ [0x8220] := by
  have hmarked : RegsWf (modPho (fun p => { p with stale := chip :: p.stale }) (advance t s)).regs := by simpa using hw
  refine ⟨_, (reportStaleTimeout_reported h).trans (if_neg ?_), ?_, ?_, ?_, ?_⟩
  · simp only [List.contains_iff_mem, hnew, or_false]
    omega
  · exact tempNotice_only (by decide) (modPho_only (by decide) (advance_only (by decide) (only_refl _ s)))
  · simp [tempNotice, modPho]
  · rw [tempNotice, notify_reg (setFlag_wf _ _ hmarked) _ _ _ (by decide), setFlag_reg hmarked, if_pos rfl]
    exact bitOf_setFlag _ _ (by decide)
  · rw [tempNotice, (notify_told _ _ _ _).offered]
    simp

end

/-! Records of a commit (R360, R361). -/

section

variable {t : Nat} {s : State}

@[simp] theorem advance_fcount : (advance t s).time.fcount = s.time.fcount := by rw [advance_time]

theorem calRecordWrite_idle (h : recordsDue (advance t s) = none) : exec (.calRecordWrite t) s = .next (advance t s) := by
  have hexec : exec (.calRecordWrite t) s = execCalRecordWrite t s := rfl
  rw [hexec, execCalRecordWrite, h]

/-- No commit's records are due before its frame comes, nor once more before it is in force. -/
theorem recordsDue_none (h : s.time.running = false ∨ (∀ a ∈ s.teller.accepted, s.time.fcount < a.tag) ∨
    ∃ a ∈ s.teller.accepted, s.pho.writtenTag = some a.tag) : recordsDue s = none := by
  obtain ⟨mapped, hdue⟩ : ∃ mapped : Bool, recordsDue s = if s.time.running = true ∧ mapped = true then
      (if s.teller.accepted.any (fun a => s.pho.writtenTag == some a.tag) then none else s.teller.accepted.find? (fun a => decide (a.tag ≤ s.time.fcount)))
    else none := ⟨_, rfl⟩
  rw [hdue]
  rcases h with hstopped | hlater | ⟨a, ha, hwritten⟩
  · exact if_neg (by simp [hstopped])
  · have hnone : s.teller.accepted.find? (fun a => decide (a.tag ≤ s.time.fcount)) = none :=
      List.find?_eq_none.mpr fun a ha => by simpa using hlater a ha
    simp [hnone]
  · rw [if_pos (List.any_eq_true.mpr ⟨a, ha, by simp [hwritten]⟩), ite_self]

theorem recordsDue_first {a : Accepted} (hrun : s.time.running = true) (hmapped : s.map.frame = none) (hacc : s.teller.accepted = [a])
    (htag : a.tag ≤ s.time.fcount) (hnew : s.pho.writtenTag ≠ some a.tag) : recordsDue s = some a := by
  unfold recordsDue
  simp [hrun, hmapped, hacc, htag, hnew]

/-- The changed record of the commit due is written in place (R360). -/
theorem calRecordWrite_writes {a : Accepted} {i : Nat} {r : CalRecord} (hrun : s.time.running = true) (hmapped : s.map.frame = none)
    (hacc : s.teller.accepted = [a]) (htag : a.tag ≤ s.time.fcount) (hnew : s.pho.writtenTag ≠ some a.tag)
    (hchanged : recordsChanged s.cfgB.records a.cfg.records = [(i, r)]) : Goes (.calRecordWrite t) s fun x => Only [.time, .pho] s x ∧
      aFind x.pho.records i = some r ∧ (∀ j, j ≠ i → aFind x.pho.records j = aFind s.pho.records j) ∧ x.pho.writtenTag = some a.tag ∧
      x.pho.writingTo = max s.pho.writingTo ((advance t s).time.st64 + 6) := by
  have hexec : exec (.calRecordWrite t) s = execCalRecordWrite t s := rfl
  have hdue : recordsDue (advance t s) = some a := recordsDue_first (by simpa using hrun) (by simpa using hmapped) (by simpa using hacc) (by simpa using htag)
    (by simpa using hnew)
  rw [Goes, hexec, execCalRecordWrite, hdue]
  dsimp only
  rw [advance_cfgB, hchanged]
  refine ⟨_, rfl, writeRecords_only (by decide) (advance_only (by decide) (only_refl _ s)), ?_, fun j hj => ?_, rfl, ?_⟩
  · simp [writeRecords, modPho, aFind_aPut]
  · simp [writeRecords, modPho, aFind_aPut, hj.symm]
  · simp [writeRecords, modPho]

end

/-! Values that a host sets, as of the instant at which they reached Teller (R302, R345). -/

/-- The newest value stays. -/
theorem hostKeep_head {α : Type} (floor : Int) (v : Option Int × α) (l : List (Option Int × α)) : (hostKeep floor (v :: l)).head? = some v := by
  unfold hostKeep
  split
  next => rfl
  next => split <;> rfl

theorem zoneTempSet_done {c : Call} {s : State} {z : Nat} {valid : Bool} {temp : Int} {w : Word} (h : Ready 0x0454 c s) (hz : z ≤ 255)
    (hword : w = BitVec.ofNat 32 (bNat valid * 2147483648 + unsignedOf 16 temp)) : ∃ y, Done (.zoneTempSet c z valid temp) 0x0454 c ⟨.ok, 0, []⟩ y s ∧
      Only [.regs, .pho] (advance c.t s) y ∧ reg y (R.PHO_ZTEMPz z) = w ∧
      (aGet y.pho.zoneTemps z []).head? = some (reachedAt c (advance c.t s), w) ∧
      ∀ v, v ≠ z → aFind y.pho.zoneTemps v = aFind s.pho.zoneTemps v := by
  have hw : RegsWf (advance c.t s).regs := by simpa using h.wf
  refine ⟨zoneTemp (reachedAt c (advance c.t s)) z w (advance c.t s),
    command_done (rfl : _ = execZoneTempSet c z valid temp s) h ((if_neg (by omega)).trans (by rw [hword, accept])) (setReg_wf hw _ _) ?_,
    zoneTemp_only (List.Subset.refl _) (only_refl _ _), ?_, ?_, fun v hv => ?_⟩
  · exact (by simpa using h.live : (sess (advance c.t s) c.session).isOpen = true)
  · exact (reg_setReg hw _ _ _).trans (if_pos rfl)
  · simp [zoneTemp, modPho, aGet, aFind_aPut, hostKeep_head]
  · simp [zoneTemp, modPho, aFind_aPut, hv.symm]

/-- A run of descriptors from `first`, each with a new value at the head of its history. -/
def hostPut {α : Type} (floor : Int) (now : Option Int) (first : Nat) (v : Nat → α) (m : SMap (List (Option Int × α))) (i : Nat) :
    SMap (List (Option Int × α)) := aPut m (first + i) (hostKeep floor ((now, v i) :: aGet m (first + i) []))

section

variable {α : Type} {floor : Int} {now : Option Int} {first : Nat} {v : Nat → α} {m : SMap (List (Option Int × α))}

theorem hostPut_fold_out (n : Nat) {d : Nat} (h : d < first ∨ first + n ≤ d) :
    aFind ((List.range n).foldl (hostPut floor now first v) m) d = aFind m d := by
  induction n with
  | zero => rfl
  | succ n ih =>
    rw [List.range_succ, List.foldl_append, List.foldl_cons, List.foldl_nil, hostPut, aFind_aPut, if_neg (by omega)]
    exact ih (by omega)

theorem hostPut_fold_in (n : Nat) {i : Nat} (h : i < n) :
    (aGet ((List.range n).foldl (hostPut floor now first v) m) (first + i) []).head? = some (now, v i) := by
  induction n with
  | zero => exact absurd h (Nat.not_lt_zero i)
  | succ n ih =>
    rw [List.range_succ, List.foldl_append, List.foldl_cons, List.foldl_nil, hostPut, aGet, aFind_aPut]
    by_cases hlast : i = n
    · rw [if_pos (by omega), Option.getD_some, hostKeep_head, hlast]
    · rw [if_neg (by omega)]
      exact ih (by omega)

end

theorem attrValueSet_done {c : Call} {s : State} {p : AttrValueSet} (h : Ready 0x0435 c s) (hlow : 1 ≤ p.count) (hhigh : p.count ≤ 4096)
    (hlast : p.first + p.count ≤ 65536) : ∃ y, Done (.attrValueSet c p) 0x0435 c ⟨.ok, 0, []⟩ y s ∧
      y = { advance c.t s with fxm := { s.fxm with host := y.fxm.host } } ∧ (∀ i < p.count, (aGet y.fxm.host (p.first + i) []).head? =
        some (reachedAt c (advance c.t s), if p.release then none else some (p.values.getD i 0 % 65536))) ∧
      ∀ d, d < p.first ∨ p.first + p.count ≤ d → aFind y.fxm.host d = aFind s.fxm.host d := by
  refine ⟨modFxm (fun m => { m with host := (List.range p.count).foldl (hostPut (hostFloor (advance c.t s)) (reachedAt c (advance c.t s)) p.first
      (fun i => if p.release then none else some (p.values.getD i 0 % 65536))) m.host }) (advance c.t s),
    command_done (rfl : _ = execAttrValueSet c p s) h (if_neg (by omega)) (by simpa using h.wf) (by simpa [sess] using h.live), ?_,
    fun i hi => hostPut_fold_in _ hi, fun d hd => ?_⟩
  · simp only [modFxm, advance_fxm]
  · exact (hostPut_fold_out _ hd).trans (by rw [advance_fxm])

end Sys2Proof.Proofs
end

section
/-! The engines' failures, tests and commands, and the values they use (R302, R308, R321, R325 to R333, R346, R360, R363). -/

namespace Sys2Proof.Proofs

open Sys2Proof.Machine Sys2Proof.Safety Sys2Proof.Laws

/-- Settles O41: failures and tests engine by engine, then the commands on programs and engines, reports and records, and the values of a host. -/
theorem mapperRolesAndValues : Obligations.MapperRolesAndValues := by
  unfold Obligations.MapperRolesAndValues
  refine ⟨⟨fun t e s hw => ?_, fun c s x hx => ?_⟩, fun t s hw => ?_, fun c s x hx => ?_⟩
  · refine ⟨fun h hheld hactive => ?_, tileTimeout_idle, fun cause => engineFailure_fails hw, engineFailure_domain, fun cause hc hspared => ?_,
      engineTestDone_returns hw, engineTestDone_idle⟩
    · rw [tileTimeout_holds hheld]
      exact ⟨fun hwait => if_neg (by simp [hwait]), fun hwait hlate => if_pos ⟨hactive, hwait, hlate⟩, fun _ hearly => if_neg (by omega)⟩
    · rw [engineFailure_exec, engineFail_spared hc (by simpa using hspared)]
  · subst hx
    refine ⟨fun p => kernelLoad_done, fun p => kernelLoad_refused, fun kind code key h hkind hlow hhigh hkey =>
        ⟨kernelUnload_missing h hkind ⟨hlow, hhigh⟩ hkey, fun hloaded hB hrecord hstages => kernelUnload_drops h hkind ⟨hlow, hhigh⟩ hkey hloaded ?_,
          fun hloaded hused => kernelUnload_named h hkind ⟨hlow, hhigh⟩ hkey hloaded ?_⟩,
      fun e h he => ⟨fun hfailed hup => mapEngineSet_ends h (mapEngineSet_tests he (by simpa using hfailed) (by simpa using hup)),
        fun hdown => mapEngineSet_ends h (mapEngineSet_notReady he (by simpa using hdown)),
        fun hrole hup => mapEngineSet_ends h (mapEngineSet_notFailed he (by simpa using hrole) (by simpa using hup)),
        fun hoff hfailed => mapEngineSet_ends h (mapEngineSet_retires he (by simpa using hoff) (by simpa using hfailed)),
        mapEngineSet_ends h (mapEngineSet_prefers he)⟩, fun e h hkept hfits => ?_, fun e h => ?_⟩
    · rw [kernelNamed, hB, hrecord, Bool.false_or, Bool.false_or, List.any_eq_false]
      exact fun g hg => by simp [hstages g hg]
    · rcases hused with hused | hused <;> simp [kernelNamed, hused]
    · have hends := mapEngineSet_ends h (mapEngineSet_releases (e := e) (by simpa using hkept) (by simpa using hfits))
      rwa [modMap, advance_map] at hends
    · have hends := mapEngineSet_ends h (mapEngineSet_takesBack (e := e))
      rwa [modMap, advance_map] at hends
  · refine ⟨fun chip at_ temp h => ⟨reportStaleTimeout_marks h hw, fun hfresh => ?_⟩, fun chip => reportStaleTimeout_absent,
      fun a i r => calRecordWrite_writes, fun hnone => calRecordWrite_idle (recordsDue_none (by simpa using hnone))⟩
    rw [reportStaleTimeout_reported h]
    exact if_pos (by simpa using hfresh)
  · subst hx
    exact ⟨fun z valid temp w h hword => ⟨fun hz => zoneTempSet_done h hz hword,
        fun hz => command_reads (rfl : _ = execZoneTempSet c z valid temp s) h (if_pos hz)⟩,
      fun p h => ⟨attrValueSet_done h, fun hbad => command_reads (rfl : _ = execAttrValueSet c p s) h (if_pos hbad)⟩⟩

end Sys2Proof.Proofs
end

section
/-! The values of a completed tile of a zone that this device does not drive: they rest on the snapshot of the Escrow record (R537, R542). -/

namespace Sys2Proof.Proofs

open Sys2Proof.Machine Sys2Proof.Safety Sys2Proof.Laws

/-! The end of a tile leaves the frame's values. -/

section

variable {s : State}

theorem frameClose_values : (frameClose s).map.frame.map MapFrame.values = s.map.frame.map MapFrame.values := by
  unfold frameClose
  split
  next hfr => rw [hfr]
  next fr hfr => rw [hfr]; rfl

theorem frameDone_values : (frameDone s).map.frame.map MapFrame.values = s.map.frame.map MapFrame.values := by
  unfold frameDone
  split
  · split
    · exact frameClose_values
    · rfl
  · rfl

theorem tileEnd_values {n : Nat} {r : TileRec} : (tileEnd n r s).map.frame.map MapFrame.values = s.map.frame.map MapFrame.values := by
  have hrec (f : MapFrame → MapFrame) (hf : ∀ g, (f g).values = g.values) : (modFrame f s).map.frame.map MapFrame.values = s.map.frame.map MapFrame.values := by
    simp [modFrame, modMap, Function.comp_def, hf]
  unfold tileEnd
  dsimp only
  split
  next fr _ =>
    rw [frameDone_values]
    split
    · rw [(zonePush_only (List.Subset.refl _) (only_refl _ _)).2.2 .map (by decide)]
      exact hrec _ fun _ => rfl
    · exact hrec _ fun _ => rfl
  next => exact hrec _ fun _ => rfl

end

/-! TILE_COMPLETE of a tile that its engine samples in time. -/

section

variable {t : Nat} {e : Fin 16} {s : State} {fr : MapFrame} {h : HeldTile} (hfr : s.map.frame = some fr) (hheld : (mapEngine s e).held = some h)
  (hopen : fr.open_ = true) (hsampling : h.sampling = true)

include hfr hheld hopen hsampling

theorem tileComplete_values (htime : s.time.st64 ≤ fr.deadline) : (tileComplete e s).map.frame.map MapFrame.values =
    some (tileOut s fr (fr.tiles.getD h.tile ⟨0, [], 0, 0⟩)).values := by
  have hcount (c : PhoCount) : (countPho c s).map = s.map := (countPho_only (List.Subset.refl _) (only_refl _ s)).2.2 .map (by decide)
  unfold tileComplete
  rw [hfr, hheld]
  dsimp only
  rw [if_neg (by simp [hsampling, hopen]; omega), tileEnd_values]
  simp [modFrame, modMapEngine, modMap, bump, bumpBy, hcount, hfr]

/-- The values are those under the temperatures of `withTemps`: for a zone that another device drives, the record's (R537). -/
theorem tileComplete_goes (htime : (advance t s).time.st64 ≤ fr.deadline) : Goes (.tileComplete t e) s fun x => x.map.frame.map MapFrame.values =
    some (tileOut (withTemps (advance t s) (fr.tiles.getD h.tile ⟨0, [], 0, 0⟩).zone) fr (fr.tiles.getD h.tile ⟨0, [], 0, 0⟩)).values := by
  have hexec : exec (.tileComplete t e) s = execTileComplete t e s := rfl
  have htemps := withTemps_only (List.Subset.refl _) (only_refl _ (advance t s)) (zone := (fr.tiles.getD h.tile ⟨0, [], 0, 0⟩).zone)
  have hmap := htemps.2.2 .map (by decide)
  have htime' := htemps.2.2 .time (by decide)
  rw [Goes, hexec, execTileComplete]
  refine ⟨_, rfl, ?_⟩
  unfold tileFinish
  rw [advance_map, hfr, mapEngine_advance, hheld]
  dsimp only
  rw [(shadowNote_only (List.Subset.refl _) (only_refl _ _)).2.2 .map (by decide)]
  refine tileComplete_values ?_ ?_ hopen hsampling ?_
  · rw [hmap, advance_map, hfr]
  · rw [mapEngine_of_map hmap, mapEngine_advance, hheld]
  · rwa [htime']

end

/-- The configuration of the counterexample: zone 0 of group 0 with one lamp on DMX port 0, whose class has gain 1.0 up to 35 °C and 2.0 from 40 °C on. -/
def lampCfg : Cfg :=
  { Cfg.empty with
    fixtures := [(0, ⟨1, 0, 0, 0, 0, 1, 0, 1, 1, 32768, 32768, 65536, 0, 0, 65536, 0x50000000, 1, 0, 0xFFFFFFFF, 0xFFFF, 0⟩)]
    zones := [(0, ⟨0, 1, 128, 128, 0, 0⟩)]
    classes := [(1, { classDefault 1 with gains := List.replicate 64 16384 ++ List.replicate 68 32768 })] }

def lampTile : Tile := ⟨0, [⟨0, 0, 1⟩], 1, 16⟩

/-- Frame 16 of a device that drives no zone: it maps tile 0 to check it (R542). -/
def shadowFrame : MapFrame := ⟨16, 0, 1000000, lampCfg, some 3, [lampTile], 1, [], [], [], [], [], [], true, 0, 0, 0⟩

/-- A record of the holder, whose zone 0 is at 60 °C. -/
def warmRecord : EscRecord := ⟨1, 13, 0, 0, 0, [], [], [], [], [], [], [], [], [⟨960, true⟩], 13, [], []⟩

/-- The standby of group 0 samples the lamp's tile of a gray canvas in engine 2; it knows no zone temperature of its own. -/
def shadowState : State :=
  setReg R.ESC_CFG 1 { State.reset with
    cfgB := lampCfg
    cmp := { Cmp.reset with canvases := [(3, ⟨16, 64, 32, ⟨⟨32768, 32768, 32768, 65535⟩, []⟩, []⟩)], count := 4 }
    pho := { Pho.reset with records := [(0, ⟨[16384, 0, 0, 0, 16384, 0, 0, 0, 16384], [0, 0, 0], 128, 1, 0⟩)] }
    esc := { Esc.reset with byGroup := [(0, warmRecord)] }
    map := { Mapper.reset with
      frame := some shadowFrame
      engines := vMod Mapper.reset.engines 2 (fun x => { x with role := .active, held := some ⟨0, 0, 0, false, true⟩ }) } }

/-- Refutes O40. In the clause of TILE_COMPLETE the tile's values are fixed by the device's own snapshot of the zone temperatures. A standby maps a tile of
a zone that it does not drive with the snapshot of the holder's Escrow record (R537, R542): in `shadowState` the lamp is at 60 °C by the record, and by
the device's own snapshot at the reference temperature of its class, which gives another drive. -/
theorem not_mapperFrame : ¬ Obligations.MapperFrame := by
  unfold Obligations.MapperFrame
  intro h
  have hwf : RegsWf shadowState.regs := by
    refine setReg_wf ?_ _ _
    unfold RegsWf CellsWf
    decide
  have hheld : (mapEngine shadowState (2 : Fin 16)).held = some ⟨0, 0, 0, false, true⟩ := by decide
  obtain ⟨-, -, -, hcomplete, -⟩ := h 0 2 shadowState shadowFrame hwf rfl
  obtain ⟨x, hexec, -, -, -, -, -, g, hframe, hvalues, -⟩ := hcomplete _ lampTile _ hheld rfl rfl (by decide) rfl rfl
  obtain ⟨y, hexec', hrecord⟩ := tileComplete_goes (t := 0) (s := shadowState) (fr := shadowFrame) rfl hheld rfl rfl (by decide)
  have hxy : x = y := by
    rw [hexec] at hexec'
    injection hexec'
  rw [← hxy, hframe, Option.map_some, hvalues] at hrecord
  have hown : (tileOut (advance 0 shadowState) shadowFrame lampTile).values = [(0, [(0, 48)])] := by decide +kernel
  have hwarm : (tileOut (withTemps (advance 0 shadowState) 0) shadowFrame lampTile).values = [(0, [(0, 97)])] := by decide +kernel
  rw [hown] at hrecord
  exact absurd (hrecord.trans (congrArg some hwarm)) (by decide)

end Sys2Proof.Proofs
end

section
/-! What the lane controller's sending leaves (R383, R391, R397): registers, other lanes, and most of the lane itself. -/

namespace Sys2Proof.Proofs

open Sys2Proof.Machine Sys2Proof.Safety Sys2Proof.Laws

/-! One lane. -/

theorem laneOf_modLane (l : Nat) (f : Lane → Lane) (s : State) (m : Fin 32) :
    laneOf (modLane l f s) m = if m.val = l then f (laneOf s m) else laneOf s m := vGet_vMod _ _ _ _ _ m.isLt

@[simp] theorem laneOf_modLane_same (l : Fin 32) (f : Lane → Lane) (s : State) : laneOf (modLane l f s) l = f (laneOf s l) := by
  rw [laneOf_modLane, if_pos rfl]

theorem laneOf_of_lanes {s t : State} (h : t.lanes = s.lanes) (l : Nat) : laneOf t l = laneOf s l := by rw [laneOf, laneOf, h]

theorem laneOf_only {k : List Comp} {s t : State} (g : Only k s t) (hk : Comp.lanes ∉ k) (l : Nat) : laneOf t l = laneOf s l :=
  laneOf_of_lanes (g.2.2 .lanes hk) l

@[simp] theorem laneOf_bumpBy (a n : Nat) (s : State) (l : Nat) : laneOf (bumpBy a n s) l = laneOf s l := rfl
@[simp] theorem laneOf_bump (a : Nat) (s : State) (l : Nat) : laneOf (bump a s) l = laneOf s l := rfl
@[simp] theorem laneOf_setFlag (a i : Nat) (s : State) (l : Nat) : laneOf (setFlag a i s) l = laneOf s l := rfl
@[simp] theorem laneOf_chkRun (ch : Nat) (bs : List (BitVec 8)) (s : State) (l : Nat) : laneOf (chkRun ch bs s) l = laneOf s l := rfl
@[simp] theorem laneOf_notify (code len : Nat) (fields : List Int) (s : State) (l : Nat) : laneOf (notify code len fields s) l = laneOf s l :=
  laneOf_of_lanes (notify_lanes _ _ _ _) l

@[simp] theorem laneOf_rxErrors (m n : Nat) (s : State) (l : Nat) : laneOf (rxErrors m n s) l = laneOf s l :=
  laneOf_only (rxErrors_only (List.Subset.refl _) (only_refl _ _)) (by decide) l

/-! Registers. -/

/-- The registers of LNE, and ALM_SYNC_OFFSET, on which the instants of pixel frames rest (R25). -/
def LaneReg (a : Nat) : Prop := a = R.ALM_SYNC_OFFSET ∨ 0xF0280000 ≤ a ∧ a < 0xF0290000

/-- From `s` to `t` these registers stand. -/
def LaneRegs (s t : State) : Prop := RegsWf s.regs → RegsWf t.regs ∧ ∀ a, LaneReg a → reg t a = reg s a

theorem LaneRegs.refl (s : State) : LaneRegs s s := fun hw => ⟨hw, fun _ _ => rfl⟩

theorem LaneRegs.trans {s t u : State} (h : LaneRegs s t) (g : LaneRegs t u) : LaneRegs s u := fun hw =>
  ⟨(g (h hw).1).1, fun a ha => ((g (h hw).1).2 a ha).trans ((h hw).2 a ha)⟩

theorem LaneRegs.same {s t : State} (hr : t.regs = s.regs) : LaneRegs s t := fun hw => ⟨by rwa [hr], fun a _ => reg_of hr a⟩

theorem LaneRegs.only {k : List Comp} {s t : State} (g : Only k s t) (hk : Comp.regs ∉ k) : LaneRegs s t := .same (g.2.2 .regs hk)

theorem LaneRegs.regN {s t : State} (h : LaneRegs s t) (hw : RegsWf s.regs) {a : Nat} (ha : LaneReg a) : regN t a = regN s a :=
  congrArg BitVec.toNat ((h hw).2 a ha)

theorem setReg_laneRegs (a : Nat) (w : Word) (s : State) (ha : ¬ LaneReg a) : LaneRegs s (setReg a w s) := fun hw =>
  ⟨setReg_wf hw a w, fun b hb => (reg_setReg hw a w b).trans (if_neg fun (e : a = b) => ha (e ▸ hb))⟩

theorem notify_laneRegs (code len : Nat) (fields : List Int) (s : State) : LaneRegs s (notify code len fields s) := by
  have hoff : ∀ a ∈ noticeRegs, a ≠ R.ALM_SYNC_OFFSET ∧ 0xF0290000 ≤ a := by decide
  refine fun hw => ⟨notify_wf _ _ _ hw, fun a ha => notify_reg hw _ _ _ fun hn => ?_⟩
  obtain ⟨hne, hle⟩ := hoff a hn
  rcases ha with rfl | ⟨-, hlt⟩
  · exact hne rfl
  · omega

theorem CHK_not_laneReg (a : Nat) (hlo : 0xF0050000 ≤ a) (hhi : a < 0xF0060000) : ¬ LaneReg a := by
  unfold LaneReg R.ALM_SYNC_OFFSET
  omega

theorem chkRun_laneRegs (l : Fin 32) (bs : List (BitVec 8)) (s : State) : LaneRegs s (chkRun (12 + l) bs s) := by
  have hl := l.isLt
  refine ((setReg_laneRegs _ _ _ ?_).trans (setReg_laneRegs _ _ _ ?_)).trans (setReg_laneRegs _ _ _ ?_) <;> apply CHK_not_laneReg
  all_goals
    simp only [R.CHK_CHn_RUN, R.CHK_CHn_BYTES, R.CHK_CHn_RESULT]
    omega

theorem modAlm_laneRegs (f : Almanac → Almanac) (s : State) : LaneRegs s (modAlm f s) := .same rfl

theorem refuseInsert_laneRegs (list : Nat) (s : State) : LaneRegs s (refuseInsert list s) := by
  have hcount : LaneRegs s (setFlag R.ALM_INT_STAT 1 (bump R.ALM_CNT_OVERFLOW s)) :=
    (setReg_laneRegs _ _ _ (by unfold LaneReg; decide)).trans (setReg_laneRegs _ _ _ (by unfold LaneReg; decide))
  unfold refuseInsert
  exact keep_ite (hcount.trans (modAlm_laneRegs _ _)) ((hcount.trans (modAlm_laneRegs _ _)).trans (notify_laneRegs _ _ _ _))

theorem insertDescriptor_laneRegs (d : Descriptor) (s : State) : LaneRegs s (insertDescriptor d s) := by
  have htrace (r : TraceRec) : LaneRegs s (traceRec r s) := .only (traceRec_only (List.Subset.refl _) (only_refl _ _)) (by decide)
  unfold insertDescriptor
  exact keep_ite (.only (placeDescriptor_only (List.Subset.refl _) (only_refl _ _)) (by decide))
    (((htrace _).trans (refuseInsert_laneRegs _ _)).trans (modAlm_laneRegs _ _))

/-- The delays of the zones are the same in both states (R127). -/
def SameDelays (s t : State) : Prop := t.alm.delays = s.alm.delays

theorem traceRec_delays (r : TraceRec) (s : State) : SameDelays s (traceRec r s) := by
  unfold traceRec
  exact keep_ite (Eq.refl _) (Eq.refl _)

theorem refuseInsert_delays (list : Nat) (s : State) : SameDelays s (refuseInsert list s) := by
  unfold refuseInsert
  refine keep_ite (Eq.refl _) ?_
  rw [SameDelays, notify_alm]
  rfl

theorem insertDescriptor_delays (d : Descriptor) (s : State) : SameDelays s (insertDescriptor d s) := by
  unfold insertDescriptor
  exact keep_ite (Eq.refl _) ((refuseInsert_delays 3 _).trans (traceRec_delays _ s))

/-! Everything but the lane itself. -/

/-- From `s` to `t` at most lane `l`, work in the Almanac, and what notices and check values bring have changed: not the other lanes, the registers of
the lanes, the configuration, or what the instants of pixel frames rest on. -/
structure Aside (l : Nat) (s t : State) : Prop where
  only : Only [.regs, .teller, .alm, .lanes] s t
  stands : Stands s t
  delays : SameDelays s t
  regs : LaneRegs s t
  others : ∀ m : Fin 32, m.val ≠ l → laneOf t m = laneOf s m

theorem Aside.refl (l : Nat) (s : State) : Aside l s s := ⟨only_refl _ _, .refl s, rfl, .refl s, fun _ _ => rfl⟩

theorem Aside.trans {l : Nat} {s t u : State} (h : Aside l s t) (g : Aside l t u) : Aside l s u where
  only := only_trans h.only g.only
  stands := h.stands.trans g.stands
  delays := g.delays.trans h.delays
  regs := h.regs.trans g.regs
  others m hm := (g.others m hm).trans (h.others m hm)

section

variable {l : Nat} {s0 s : State} (h : Aside l s0 s)

include h

theorem Aside.cfg : s.cfgB = s0.cfgB := h.only.2.2 .cfgB (by decide)
theorem Aside.time : s.time = s0.time := h.only.2.2 .time (by decide)

theorem modLane_aside {f : Lane → Lane} : Aside l s0 (modLane l f s) :=
  h.trans ⟨modLane_only (by decide) (only_refl _ _), modLane_stands (.refl s), rfl, .same rfl, fun m hm => (laneOf_modLane _ _ _ _).trans (if_neg hm)⟩

theorem chkRun_aside {m : Fin 32} {bs : List (BitVec 8)} : Aside l s0 (chkRun (12 + m) bs s) :=
  have hrun : Only [.regs] s (chkRun (12 + m) bs s) := chkRun_only (List.Subset.refl _) (only_refl _ _)
  h.trans ⟨only_mono hrun (by decide), (Stands.refl s).only hrun (by decide) (by decide), rfl, chkRun_laneRegs m bs s, fun _ _ => rfl⟩

theorem insertDescriptor_aside {d : Descriptor} : Aside l s0 (insertDescriptor d s) := by
  have hin : Only [.regs, .teller, .alm] s (insertDescriptor d s) := insertDescriptor_only (List.Subset.refl _) (only_refl _ _)
  exact h.trans ⟨only_mono hin (by decide), insertDescriptor_stands (.refl s), insertDescriptor_delays d s, insertDescriptor_laneRegs d s,
    fun m _ => laneOf_only hin (by decide) m⟩

end

/-! The lane itself. -/

/-- From `x` to `y` a lane at most queued and sent control frames, sent a range frame, and went on with its poll. -/
def LaneSent (x y : Lane) : Prop := y = { x with
  queue := y.queue, outstanding := y.outstanding, alive := y.alive, chips := y.chips, rseq := y.rseq, rangeOut := y.rangeOut,
  pollNext := y.pollNext, pollStart := y.pollStart, pollUs := y.pollUs }

theorem LaneSent.refl (x : Lane) : LaneSent x x := rfl

theorem LaneSent.trans {x y z : Lane} (h : LaneSent x y) (g : LaneSent y z) : LaneSent x z := by
  rw [LaneSent, g, h]

/-- The same of lane `l` and of everything else. -/
structure Served (l : Fin 32) (s t : State) : Prop extends Aside l s t where
  lane : LaneSent (laneOf s l) (laneOf t l)

theorem Served.refl (l : Fin 32) (s : State) : Served l s s := ⟨.refl l s, .refl _⟩

theorem Served.trans {l : Fin 32} {s t u : State} (h : Served l s t) (g : Served l t u) : Served l s u :=
  ⟨h.toAside.trans g.toAside, h.lane.trans g.lane⟩

section

variable {l : Fin 32} {s0 s : State} (h : Served l s0 s)

include h

theorem modLane_served {f : Lane → Lane} (hf : LaneSent (laneOf s l) (f (laneOf s l))) : Served l s0 (modLane l f s) :=
  h.trans ⟨modLane_aside (.refl l s), by rwa [laneOf_modLane_same]⟩

theorem modChip_served {i : Nat} {f : ChipLink → ChipLink} : Served l s0 (modChip l i f s) := modLane_served h rfl

theorem chkRun_served {bs : List (BitVec 8)} : Served l s0 (chkRun (12 + l) bs s) := h.trans ⟨chkRun_aside (.refl l s), .refl _⟩

theorem insertDescriptor_served {d : Descriptor} : Served l s0 (insertDescriptor d s) := by
  have hlane : laneOf (insertDescriptor d s) l = laneOf s l :=
    laneOf_only (insertDescriptor_only (l_ := [.regs, .teller, .alm]) (List.Subset.refl _) (only_refl _ _)) (by decide) l
  exact h.trans ⟨insertDescriptor_aside (.refl l s), hlane ▸ .refl _⟩

theorem ctrlQueue_served {i : Nat} {op : CtrlOp} {cause : CtrlFor} {notBefore fromK : Option Int} :
    Served l s0 (ctrlQueue l i op cause notBefore fromK s) := modLane_served h rfl

theorem ctrlTake_served : Served l s0 (ctrlTake l s) := by
  unfold ctrlTake
  dsimp only
  refine keep_ite h ?_
  split
  · exact h
  · exact chkRun_served (modChip_served (modLane_served h (by rfl)))

theorem ctrlSend_served : Served l s0 (ctrlSend l s) := by
  unfold ctrlSend
  exact keep_ite h (keep_ite (ctrlTake_served h) (keep_ite h (insertDescriptor_served h)))

theorem rangeNext_served : Served l s0 (rangeNext l s) := by
  unfold rangeNext
  dsimp only
  split
  · exact h
  · split
    · exact h
    · exact keep_ite h (modLane_served h rfl)

theorem pollSend_served : Served l s0 (pollSend l s) := by
  unfold pollSend
  dsimp only
  exact keep_ite h (ctrlSend_served (ctrlQueue_served (modLane_served (keep_ite (modLane_served h (by rfl)) h) (by rfl))))

theorem ctrlNext_served : Served l s0 (ctrlNext l s) := pollSend_served (ctrlSend_served (rangeNext_served h))

theorem provision_served {i : Nat} {notBefore fromK : Option Int} : Served l s0 (provision l i notBefore fromK s) := by
  unfold provision
  have hhead {a : Nat} {bs : List (BitVec 8)} : Served l s0 (ctrlQueue l i (.write a bs) .provision none fromK s) := ctrlQueue_served h
  exact ctrlQueue_served (keep_ite (ctrlQueue_served (keep_ite (ctrlQueue_served (ctrlQueue_served hhead)) hhead))
    (keep_ite (ctrlQueue_served (ctrlQueue_served hhead)) hhead))

theorem rangeApply_served {send : Bool} {e : Nat × Int × Bool} : Served l s0 (rangeApply l send s e) := by
  unfold rangeApply
  exact keep_ite (ctrlQueue_served (modChip_served h)) (modChip_served h)

end

/-! What may go next (R383). -/

/-- The instants of pixel frames rest on the same in both states (R25, R42, R43, R127), and so does the configuration of a frame (R40). -/
structure SameInstants (s t : State) : Prop where
  time : t.time = s.time
  power : t.power = s.power
  pool : t.pool = s.pool
  cfg : t.cfgB = s.cfgB
  lead : t.alm.leadUs = s.alm.leadUs
  delays : SameDelays s t
  offset : reg t R.ALM_SYNC_OFFSET = reg s R.ALM_SYNC_OFFSET

theorem Aside.instants {l : Nat} {s t : State} (h : Aside l s t) (hw : RegsWf s.regs) : SameInstants s t :=
  ⟨h.time, h.only.2.2 .power (by decide), h.only.2.2 .pool (by decide), h.cfg, h.stands.lead, h.delays, (h.regs hw).2 _ (.inl rfl)⟩

section

variable {s t : State} (h : SameInstants s t)

include h

theorem SameInstants.syncAt (z : Nat) (k : Int) : syncAt t z k = syncAt s z k := by
  have hf (k : Int) : frameAt t k = frameAt s k := by rw [frameAt, frameAt, h.time]
  have hd : t.alm.delays = s.alm.delays := h.delays
  simp only [Machine.syncAt, zoneDelay, hf, hd, h.offset]

theorem SameInstants.windowAt (z : Nat) (k : Int) : windowAt t z k = windowAt s z k := by
  have hf (k : Int) : frameAt t k = frameAt s k := by rw [frameAt, frameAt, h.time]
  simp only [Machine.windowAt, h.syncAt, hf]

theorem SameInstants.frameCfg (z : Nat) (k : Int) : frameCfg t z k = frameCfg s z k := by
  have hp : poolFrame t z k = poolFrame s z k := by rw [poolFrame, poolFrame, h.pool, h.power]
  simp only [Machine.frameCfg, hp, h.pool, h.cfg]

/-- Whether a pixel frame can go rests on the lane's state, its jobs, its largest delay and the COMMITs that it owes. -/
theorem SameInstants.pixelReady {l : Nat} (hstate : (laneOf t l).state = (laneOf s l).state) (hjobs : (laneOf t l).jobs = (laneOf s l).jobs)
    (hmax : dMax (laneOf t l) = dMax (laneOf s l)) (howed : ∀ k i, commitOwed (laneOf t l) k i = commitOwed (laneOf s l) k i) :
    pixelReady t l = pixelReady s l := by
  have hblocked (j : PixelJob) (f : Nat × Nat) : frameBlocked t l j f = frameBlocked s l j f := by
    simp only [frameBlocked, h.frameCfg, howed]
  have hfits (j : PixelJob) (f : Nat × Nat) : frameFits t l j f = frameFits s l j f := by
    have hdead : laneDeadline t l j.zone j.k = laneDeadline s l j.zone j.k := by
      rw [laneDeadline, laneDeadline, commitLead, commitLead, h.syncAt, h.lead, hmax]
    rw [frameFits, frameFits, hdead, h.time]
  have hopen (j : PixelJob) : jobOpen t j = jobOpen s j := by simp only [jobOpen, h.windowAt, h.time]
  simp only [Machine.pixelReady, laneRuns?, hstate, hjobs, hopen, hblocked, hfits]

/-- The same where nothing of this changes in the lane. -/
theorem SameInstants.pixelReady_same {l : Nat} (hstate : (laneOf t l).state = (laneOf s l).state) (hjobs : (laneOf t l).jobs = (laneOf s l).jobs)
    (hchips : (laneOf t l).chips = (laneOf s l).chips) (hqueue : (laneOf t l).queue = (laneOf s l).queue)
    (hout : (laneOf t l).outstanding = (laneOf s l).outstanding) : Machine.pixelReady t l = Machine.pixelReady s l :=
  h.pixelReady hstate hjobs (by rw [dMax, dMax, hchips]) fun k i => by rw [commitOwed, commitOwed, hchips, hqueue, hout]

end

/-- Another lane's work changes nothing for a lane. -/
theorem Aside.pixelReady {m : Nat} {s t : State} (h : Aside m s t) (hw : RegsWf s.regs) {l : Fin 32} (hl : l.val ≠ m) :
    pixelReady t l = pixelReady s l := by
  have hlane := h.others l hl
  exact (h.instants hw).pixelReady_same (by rw [hlane]) (by rw [hlane]) (by rw [hlane]) (by rw [hlane]) (by rw [hlane])

/-- A change of the lane that leaves its state, its jobs, its chips and its control frames. -/
theorem pixelReady_modLane {l : Fin 32} {f : Lane → Lane} {s : State} (hf : ∀ x, (f x).state = x.state ∧ (f x).jobs = x.jobs ∧
    (f x).chips = x.chips ∧ (f x).queue = x.queue ∧ (f x).outstanding = x.outstanding) : pixelReady (modLane l f s) l = pixelReady s l := by
  have hsame : SameInstants s (modLane l f s) := ⟨rfl, rfl, rfl, rfl, rfl, rfl, rfl⟩
  obtain ⟨hstate, hjobs, hchips, hqueue, hout⟩ := hf (laneOf s l)
  refine hsame.pixelReady_same ?_ ?_ ?_ ?_ ?_ <;> rwa [laneOf_modLane_same]

/-! What waited goes when no pixel frame can (R383). -/

/-- From `s` to `t` the pixel data of a lane stands: its jobs and the frame sent last. -/
def SamePixels (l : Fin 32) (s t : State) : Prop := (laneOf t l).jobs = (laneOf s l).jobs ∧ (laneOf t l).lastFrame = (laneOf s l).lastFrame

theorem SamePixels.trans {l : Fin 32} {s t u : State} (h : SamePixels l s t) (g : SamePixels l t u) : SamePixels l s u :=
  ⟨g.1.trans h.1, g.2.trans h.2⟩

theorem Served.pixels {l : Fin 32} {s t : State} (h : Served l s t) : SamePixels l s t := by
  rw [SamePixels, h.lane]
  exact ⟨rfl, rfl⟩

theorem enumStart_pixels (l : Fin 32) (s : State) : SamePixels l s (enumStart l s) := by
  rw [SamePixels, enumStart, laneOf_modLane_same]
  cases (laneOf s l).enumerating <;> cases Machine.pixelReady s l <;> exact ⟨rfl, rfl⟩

theorem collectNow_pixels (l : Fin 32) (s : State) : SamePixels l s (collectNow l s) := by
  rw [SamePixels, collectNow, laneOf_modLane_same]
  exact ⟨rfl, rfl⟩

theorem laneIdle_aside (l : Fin 32) (s : State) : Aside l s (laneIdle l s) ∧ SamePixels l s (laneIdle l s) := by
  have henum : Aside l s (if (laneOf s l).enumDue then enumStart l s else s) ∧ SamePixels l s (if (laneOf s l).enumDue then enumStart l s else s) :=
    keep_ite (P := fun x => Aside l s x ∧ SamePixels l s x) ⟨modLane_aside (.refl l s), enumStart_pixels l s⟩ ⟨.refl l s, rfl, rfl⟩
  have hcollect {x : State} (hx : Aside l s x ∧ SamePixels l s x) : Aside l s (collectNow l x) ∧ SamePixels l s (collectNow l x) :=
    ⟨modLane_aside hx.1, hx.2.trans (collectNow_pixels l x)⟩
  have hserved {x y : State} (hx : Aside l s x ∧ SamePixels l s x) (g : Served l x y) : Aside l s y ∧ SamePixels l s y :=
    ⟨hx.1.trans g.toAside, hx.2.trans g.pixels⟩
  unfold laneIdle
  refine keep_ite (P := fun x => Aside l s x ∧ SamePixels l s x) ⟨.refl l s, rfl, rfl⟩ ?_
  exact hserved (keep_ite (P := fun x => Aside l s x ∧ SamePixels l s x) (hcollect henum) henum) (ctrlSend_served (rangeNext_served (.refl l _)))

end Sys2Proof.Proofs
end

section
/-! Changes of a lane's state (R398, R399), pixel frames, training and enumeration (R373, R379, R383). -/

namespace Sys2Proof.Proofs

open Sys2Proof.Machine Sys2Proof.Safety Sys2Proof.Laws

/-! A change of state or of the seen count (R399). -/

theorem laneEnter_lane (l : Fin 32) (st : LaneState) (seen cause : Nat) (s : State) :
    ∃ low, laneOf (laneEnter l st seen cause s) l = { laneOf s l with state := st, seen := seen, lowest := low } := by
  unfold laneEnter
  dsimp only
  split
  next h =>
    obtain ⟨rfl, rfl⟩ := h
    exact ⟨_, rfl⟩
  next =>
    refine ⟨min (laneOf s l).lowest seen, ?_⟩
    rw [laneOf_notify, laneOf_modLane_same]
    split <;> split <;> rfl

theorem laneEnter_others (l : Nat) (st : LaneState) (seen cause : Nat) (s : State) {m : Fin 32} (hm : m.val ≠ l) :
    laneOf (laneEnter l st seen cause s) m = laneOf s m := by
  unfold laneEnter
  dsimp only
  split
  · rfl
  · rw [laneOf_notify, laneOf_modLane, if_neg hm]
    split <;> split <;> rfl

/-- From `s` to `t` the registers of the lanes stand, but for the flags, of which none is taken back, and for lane `l`'s count of changes. -/
def EnterRegs (l : Nat) (s t : State) : Prop := RegsWf s.regs → RegsWf t.regs ∧
  (∀ i, bitOf (reg s R.LNE_INT_STAT) i = true → bitOf (reg t R.LNE_INT_STAT) i = true) ∧
  ∀ a, LaneReg a → a ≠ R.LNE_INT_STAT → a ≠ R.LNE_Ln_CNT_FOLD l → reg t a = reg s a

theorem LNE_INT_STAT_laneReg : LaneReg R.LNE_INT_STAT := by
  unfold LaneReg
  decide

theorem LaneRegs.enter {l : Nat} {s t : State} (h : LaneRegs s t) : EnterRegs l s t := fun hw =>
  ⟨(h hw).1, fun i hi => by rwa [(h hw).2 _ LNE_INT_STAT_laneReg], fun a ha _ _ => (h hw).2 a ha⟩

theorem EnterRegs.trans {l : Nat} {s t u : State} (h : EnterRegs l s t) (g : EnterRegs l t u) : EnterRegs l s u := fun hw => by
  obtain ⟨hwt, hflags, hregs⟩ := h hw
  obtain ⟨hwu, gflags, gregs⟩ := g hwt
  exact ⟨hwu, fun i hi => gflags i (hflags i hi), fun a ha hne hnf => (gregs a ha hne hnf).trans (hregs a ha hne hnf)⟩

theorem EnterRegs.flag {l i : Nat} {s t : State} (h : EnterRegs l s t) (hw : RegsWf s.regs) (hi : bitOf (reg s R.LNE_INT_STAT) i = true) :
    bitOf (reg t R.LNE_INT_STAT) i = true := by
  obtain ⟨-, hflags, -⟩ := h hw
  exact hflags i hi

theorem EnterRegs.regN {l a : Nat} {s t : State} (h : EnterRegs l s t) (hw : RegsWf s.regs) (ha : LaneReg a) (hstat : a ≠ R.LNE_INT_STAT)
    (hfold : a ≠ R.LNE_Ln_CNT_FOLD l) : regN t a = regN s a := by
  obtain ⟨-, -, hregs⟩ := h hw
  exact congrArg BitVec.toNat (hregs a ha hstat hfold)

theorem setFlag_enterRegs (l i : Nat) (s : State) : EnterRegs l s (setFlag R.LNE_INT_STAT i s) := fun hw =>
  ⟨setFlag_wf _ _ hw, fun j hj => by
    rw [setFlag, reg_setReg hw, if_pos rfl]
    exact bitOf_or _ _ _ hj, fun a _ hne _ => (reg_setReg hw _ _ _).trans (if_neg hne.symm)⟩

theorem bumpFold_enterRegs (l : Nat) (s : State) : EnterRegs l s (bump (R.LNE_Ln_CNT_FOLD l) s) := fun hw =>
  have hne : R.LNE_Ln_CNT_FOLD l ≠ R.LNE_INT_STAT := by
    unfold R.LNE_Ln_CNT_FOLD R.LNE_INT_STAT
    omega
  ⟨bump_wf _ hw, fun _ hj => by rwa [bump_reg' hw, if_neg hne], fun _ _ _ hnf => (bump_reg' hw _ _).trans (if_neg hnf.symm)⟩

theorem laneEnter_enterRegs (l : Nat) (st : LaneState) (seen cause : Nat) (s : State) : EnterRegs l s (laneEnter l st seen cause s) := by
  have hrefl : EnterRegs l s s := (LaneRegs.refl s).enter
  have hseen : EnterRegs l s (if (laneOf s l).seen = seen then s else setFlag R.LNE_INT_STAT 4 (bump (R.LNE_Ln_CNT_FOLD l) s)) :=
    keep_ite hrefl ((bumpFold_enterRegs l s).trans (setFlag_enterRegs l 4 _))
  have hlane {x : State} {f : Lane → Lane} : EnterRegs l x (modLane l f x) := (LaneRegs.same rfl).enter
  unfold laneEnter
  exact keep_ite hrefl (((keep_ite hseen (hseen.trans (setFlag_enterRegs l 0 _))).trans hlane).trans (notify_laneRegs _ _ _ _).enter)

theorem modLane_wf (l : Nat) (f : Lane → Lane) {s : State} (hw : RegsWf s.regs) : RegsWf (modLane l f s).regs := hw

/-- A new state is flagged. -/
theorem laneEnter_flag {l : Nat} {st : LaneState} {seen cause : Nat} {s : State} (hw : RegsWf s.regs) (h : (laneOf s l).state ≠ st) :
    bitOf (reg (laneEnter l st seen cause s) R.LNE_INT_STAT) 0 = true := by
  unfold laneEnter
  dsimp only
  rw [if_neg fun e => h e.1, if_neg h]
  have hseen : RegsWf (if (laneOf s l).seen = seen then s else setFlag R.LNE_INT_STAT 4 (bump (R.LNE_Ln_CNT_FOLD l) s)).regs :=
    keep_ite (P := fun x => RegsWf x.regs) hw (setFlag_wf _ _ (bump_wf _ hw))
  rw [notify_reg (modLane_wf _ _ (setFlag_wf _ 0 hseen)) _ _ _ (by decide)]
  exact setFlag_shows hseen (by decide)

/-! Pixel frames (R373, R383). -/

theorem zoneLate_laneRegs (stage z : Nat) (k : Int) (pixels : Nat) (s : State) : LaneRegs s (zoneLate stage z k pixels s) := by
  have hpool {f : Pool → Pool} {x : State} : LaneRegs x (modPool f x) := .same rfl
  unfold zoneLate lateNotice
  exact keep_ite (.refl s) (keep_ite hpool ((hpool.trans hpool).trans (notify_laneRegs _ _ _ _)))

/-- What a dropped job leaves (R383): it is gone from its lane, and its frames are counted and flagged. -/
theorem dropJob_drops (l : Fin 32) (j : PixelJob) {s : State} (hw : RegsWf s.regs) : RegsWf (dropJob l j s).regs ∧
    laneOf (dropJob l j s) l = { laneOf s l with jobs := (laneOf s l).jobs.filter (· != j) } ∧ bitOf (reg (dropJob l j s) R.LNE_INT_STAT) 3 = true ∧
    regN (dropJob l j s) (R.LNE_Ln_CNT_LATE l) = min 0xFFFFFFFF (regN s (R.LNE_Ln_CNT_LATE l) + j.frames.length) := by
  obtain ⟨x, hx⟩ : ∃ x, x = bumpBy (R.LNE_Ln_CNT_LATE l) j.frames.length (modLane l (fun y => { y with jobs := y.jobs.filter (· != j) }) s) := ⟨_, rfl⟩
  have hwx : RegsWf x.regs := hx ▸ bumpBy_wf _ _ hw
  have hflag : RegsWf (setFlag R.LNE_INT_STAT 3 x).regs := setFlag_wf _ _ hwx
  have hdrop : dropJob l j s = zoneLate 1 j.zone j.k ((j.frames.map Prod.snd).sum) (setFlag R.LNE_INT_STAT 3 x) := by rw [hx]; rfl
  have hlate := zoneLate_laneRegs 1 j.zone j.k ((j.frames.map Prod.snd).sum) (setFlag R.LNE_INT_STAT 3 x)
  have hcount : LaneReg (R.LNE_Ln_CNT_LATE l) ∧ R.LNE_INT_STAT ≠ R.LNE_Ln_CNT_LATE l := by
    unfold LaneReg R.LNE_Ln_CNT_LATE R.LNE_INT_STAT
    omega
  rw [hdrop]
  refine ⟨(hlate hflag).1, (laneOf_only (zoneLate_only (List.Subset.refl _) (only_refl _ _)) (by decide) l).trans ?_, ?_, ?_⟩
  · rw [hx]
    exact laneOf_modLane_same l _ s
  · rw [(hlate hflag).2 _ LNE_INT_STAT_laneReg]
    exact setFlag_shows hwx (by decide)
  · rw [hlate.regN hflag hcount.1]
    refine (congrArg BitVec.toNat ((reg_setReg hwx _ _ _).trans (if_neg hcount.2))).trans ?_
    rw [hx]
    exact bumpBy_regN hw _ _

section

variable {l : Fin 32} {s : State} {j : PixelJob} {f : Nat × Nat} {r : List (Nat × Nat)}

theorem pixelSend_empty (h : (laneOf s l).jobs = []) : pixelSend l s = s := by
  rw [pixelSend, h]
  rfl

theorem firstJob_single : firstJob s l [j] = if jobReady s l j then some j else none := rfl

/-- Every frame of the only job waits for a COMMIT, and one could end in time (R401). -/
theorem pixelSend_waits (hjobs : (laneOf s l).jobs = [j]) (hf : f ∈ j.frames) (hfits : frameFits s l j f = true)
    (hblocked : ∀ g ∈ j.frames, frameBlocked s l j g = true) : pixelSend l s = s := by
  have hnone : j.frames.any (fun g => !frameBlocked s l j g) = false := by simpa using hblocked
  have hsome : j.frames.any (frameFits s l j) = true := List.any_eq_true.mpr ⟨f, hf, hfits⟩
  have hready : jobReady s l j = false := by simp [jobReady, hnone, hsome]
  rw [pixelSend, hjobs, firstJob_single, hready]
  rfl

variable (hjobs : (laneOf s l).jobs = [j]) (hframes : j.frames = f :: r) (hopen : jobOpen s j = true) (hfree : frameBlocked s l j f = false)

include hjobs hframes hopen hfree

theorem pixelSend_first : pixelSend l s = if frameFits s l j f = false then laneIdle l (dropJob l j s) else if laneRuns? (laneOf s l) = false then s
    else if outputBad s l none [4, 5] then laneIdle l (spoilFrame l j f s) else laneIdle l (sendFrame l j f s) := by
  have hany : j.frames.any (fun g => !frameBlocked s l j g) = true := by simp [hframes, hfree]
  have hready : jobReady s l j = true := by simp [jobReady, hopen, hany]
  have hfind : j.frames.find? (fun g => !frameBlocked s l j g) = some f := by simp [hframes, hfree]
  rw [pixelSend, hjobs, firstJob_single, hready, if_pos rfl]
  dsimp only
  rw [hfind]

theorem pixelSend_sends (hw : RegsWf s.regs) (hfits : frameFits s l j f = true) (hruns : laneRuns? (laneOf s l) = true)
    (hgood : outputBad s l none [4, 5] = false) : Only [.regs, .teller, .alm, .lanes] s (pixelSend l s) ∧
    (laneOf (pixelSend l s) l).lastFrame = some (pixelFrame s l j f) ∧ (r = [] → (laneOf (pixelSend l s) l).jobs = []) ∧
    regN (pixelSend l s) (R.LNE_Ln_CNT_FRAMES l) = min 0xFFFFFFFF (regN s (R.LNE_Ln_CNT_FRAMES l) + 1) := by
  have hsend : pixelSend l s = laneIdle l (sendFrame l j f s) := by
    rw [pixelSend_first hjobs hframes hopen hfree, if_neg (by simp [hfits]), if_neg (by simp [hruns]), if_neg (by simp [hgood])]
  obtain ⟨haside, hidleJobs, hidleFrame⟩ := laneIdle_aside l (sendFrame l j f s)
  have hcount : LaneReg (R.LNE_Ln_CNT_FRAMES l) := by
    unfold LaneReg R.LNE_Ln_CNT_FRAMES
    omega
  rw [hsend]
  refine ⟨only_trans (sendFrame_only (by decide) (only_refl _ _)) haside.only, hidleFrame.trans ?_, fun hr => hidleJobs.trans ?_, ?_⟩
  · rw [sendFrame, laneOf_bump, laneOf_modLane_same]
  · have hrest : j.frames.filter (· != f) = [] := by simp [hframes, hr]
    rw [sendFrame, laneOf_bump, laneOf_modLane_same]
    simp [hrest, hjobs]
  · rw [haside.regs.regN (bump_wf _ hw) hcount]
    exact bump_regN hw _

theorem pixelSend_late (hw : RegsWf s.regs) (hlate : frameFits s l j f = false) : (laneOf (pixelSend l s) l).jobs = [] ∧
    (laneOf (pixelSend l s) l).lastFrame = (laneOf s l).lastFrame ∧ bitOf (reg (pixelSend l s) R.LNE_INT_STAT) 3 = true ∧
    regN (pixelSend l s) (R.LNE_Ln_CNT_LATE l) = min 0xFFFFFFFF (regN s (R.LNE_Ln_CNT_LATE l) + j.frames.length) := by
  have hdrop : pixelSend l s = laneIdle l (dropJob l j s) := by rw [pixelSend_first hjobs hframes hopen hfree, if_pos hlate]
  obtain ⟨haside, hidleJobs, hidleFrame⟩ := laneIdle_aside l (dropJob l j s)
  obtain ⟨hwd, hlane, hflag, hcount⟩ := dropJob_drops l j hw
  have hreg : LaneReg (R.LNE_Ln_CNT_LATE l) := by
    unfold LaneReg R.LNE_Ln_CNT_LATE
    omega
  rw [hdrop]
  refine ⟨hidleJobs.trans ?_, hidleFrame.trans (by rw [hlane]), ?_, (haside.regs.regN hwd hreg).trans hcount⟩
  · rw [hlane]
    simp [hjobs]
  · rwa [(haside.regs hwd).2 _ LNE_INT_STAT_laneReg]

end

/-! Training and enumeration (R379, R398, R399). -/

section

variable (t : Nat) (l : Fin 32) (s : State)

theorem laneTrainingDone_idle (h : (laneOf s l).state ≠ .training) : exec (.laneTrainingDone t l) s = .next (advance t s) := by
  show execLaneTrainingDone t l s = _
  rw [execLaneTrainingDone, laneOf_advance, if_neg h]

theorem laneTrainingDone_goes (hw : RegsWf s.regs) (h : (laneOf s l).state = .training) : Goes (.laneTrainingDone t l) s fun x =>
    (laneOf x l).state = .enumerating ∧ (laneOf x l).enumerating = true ∧ (laneOf x l).enumLast = none ∧ (laneOf x l).seen = (laneOf s l).seen ∧
    bitOf (reg x R.LNE_INT_STAT) 0 = true ∧ ∀ m : Fin 32, m ≠ l → laneOf x m = laneOf s m := by
  obtain ⟨low, henter⟩ := laneEnter_lane l .enumerating (laneOf s l).seen 0 (advance t s)
  refine ⟨modLane l (fun x => { x with enumerating := true, enumLast := none }) (laneEnter l .enumerating (laneOf s l).seen 0 (advance t s)), ?_, ?_⟩
  · show execLaneTrainingDone t l s = _
    rw [execLaneTrainingDone, laneOf_advance, if_pos h]
  · beta_reduce
    rw [laneOf_modLane_same, henter]
    refine ⟨rfl, rfl, rfl, rfl, laneEnter_flag (by simpa using hw) (by simp [h]), fun m hm => ?_⟩
    have hne : m.val ≠ l.val := fun e => hm (Fin.ext e)
    rw [laneOf_modLane, if_neg hne, laneEnter_others _ _ _ _ _ hne, laneOf_advance]

theorem enumerateInterval_idle (h : laneRuns? (laneOf s l) = false ∨ (advance t s).time.now < (laneOf s l).enumAt + 100000000) :
    exec (.enumerateInterval t l) s = .next (advance t s) := by
  show execEnumerateInterval t l s = _
  rw [execEnumerateInterval, laneOf_advance, if_neg]
  rintro ⟨hruns, hdue⟩
  rcases h with h | h
  · simp [hruns] at h
  · omega

theorem laneOf_enumStart : laneOf (enumStart l s) l = if (laneOf s l).enumerating then laneOf s l
    else if pixelReady s l then { laneOf s l with enumDue := true } else { laneOf s l with enumerating := true, enumLast := none, enumDue := false } :=
  laneOf_modLane_same l _ s

theorem enumerateInterval_goes (hruns : laneRuns? (laneOf s l) = true) (hdue : (laneOf s l).enumAt + 100000000 ≤ (advance t s).time.now) :
    Goes (.enumerateInterval t l) s fun x => Only [.time, .lanes] s x ∧ (pixelReady (advance t s) l = false → (laneOf x l).enumerating = true) ∧
      (pixelReady (advance t s) l = true → (laneOf x l).enumerating = (laneOf s l).enumerating ∧
        ((laneOf s l).enumerating = false → (laneOf x l).enumDue = true)) ∧
      (laneOf x l).enumAt = (advance t s).time.now ∧ (laneOf x l).state = (laneOf s l).state ∧ ∀ m : Fin 32, m ≠ l → laneOf x m = laneOf s m := by
  obtain ⟨z, hz⟩ : ∃ z, z = modLane l (fun x => { x with enumAt := (advance t s).time.now }) (advance t s) := ⟨_, rfl⟩
  have hlane : laneOf z l = { laneOf s l with enumAt := (advance t s).time.now } := by rw [hz, laneOf_modLane_same, laneOf_advance]
  have hready : pixelReady z l = pixelReady (advance t s) l := hz ▸ pixelReady_modLane fun _ => ⟨rfl, rfl, rfl, rfl, rfl⟩
  have hexec : exec (.enumerateInterval t l) s = .next (enumStart l z) := by
    show execEnumerateInterval t l s = _
    rw [execEnumerateInterval, laneOf_advance, if_pos ⟨hruns, hdue⟩, hz]
  have hothers (m : Fin 32) (hm : m ≠ l) : laneOf (enumStart l z) m = laneOf s m := by
    have hne : m.val ≠ l.val := fun e => hm (Fin.ext e)
    rw [enumStart, laneOf_modLane, if_neg hne, hz, laneOf_modLane, if_neg hne, laneOf_advance]
  have honly : Only [.time, .lanes] s (enumStart l z) :=
    hz ▸ enumStart_only (by decide) (modLane_only (by decide) (advance_only (by decide) (only_refl _ _)))
  refine ⟨_, hexec, honly, ?_, ?_, ?_, ?_, hothers⟩
  all_goals
    rw [laneOf_enumStart, hready, hlane]
    cases henum : (laneOf s l).enumerating <;> cases pixelReady (advance t s) l <;> simp [henum]

theorem rxErrors_cfgB (n : Nat) : (rxErrors l n s).cfgB = s.cfgB :=
  (rxErrors_only (l_ := [.regs]) (List.Subset.refl _) (only_refl _ _)).2.2 .cfgB (by decide)

theorem rangeNext_modLane (f : Lane → Lane) : LaneSent (f (laneOf s l)) (laneOf (rangeNext l (modLane l f s)) l) := by
  have hnext := (rangeNext_served (.refl l (modLane l f s))).lane
  rwa [laneOf_modLane_same] at hnext

/-- A ranging of the whole chain, or of chips by themselves, is in hand from its start. -/
theorem rangeStart_lane {whole : Bool} (background : Bool) {todo : List Nat} (h : ¬ (todo = [] ∧ whole = false)) :
    LaneSent { laneOf s l with range := some ⟨whole, todo, [], 0, [], background⟩, rangeOut := none }
      (laneOf (rangeStart l whole background todo s) l) := by
  rw [rangeStart, if_neg h]
  exact rangeNext_modLane l s _

theorem enumerateFrameReturn_discards (f : EnumFrame) (n : Nat) (h : (laneOf s l).enumerating = false ∨ f.check ≠ f.next ^^^ 0xFFFF) :
    exec (.enumerateFrameReturn t l f n) s = .next (rxErrors l n (advance t s)) := by
  show execEnumerateFrameReturn t l f n s = _
  rw [execEnumerateFrameReturn, enumReturn, laneOf_rxErrors, laneOf_advance, if_pos h]

section

variable {t l s} {f : EnumFrame} (n : Nat) (henum : (laneOf s l).enumerating = true) (hcheck : f.check = f.next ^^^ 0xFFFF)

include henum hcheck

theorem enumerateFrameReturn_counts : exec (.enumerateFrameReturn t l f n) s = .next (if (laneOf s l).enumLast = some f.next then
    enumDone l (min 1024 f.next) (rxErrors l n (advance t s)) else modLane l (fun z => { z with enumLast := some f.next }) (rxErrors l n (advance t s))) := by
  show execEnumerateFrameReturn t l f n s = _
  rw [execEnumerateFrameReturn, enumReturn, laneOf_rxErrors, laneOf_advance, if_neg (by simp [henum, hcheck])]

/-- The second count in a row that is the same ends the first enumeration, and the whole chain is ranged (R398). -/
theorem enumerateFrameReturn_ends (hlast : (laneOf s l).enumLast = some f.next) (hstate : (laneOf s l).state = .enumerating) :
    Goes (.enumerateFrameReturn t l f n) s fun x => (laneOf x l).state = .ranging ∧ (laneOf x l).seen = min 1024 f.next ∧
      (laneOf x l).enumerating = false ∧
      (laneOf x l).range = some ⟨true, List.range (min (min 1024 f.next) (chainLen s.cfgB l)), [], 0, [], false⟩ := by
  refine ⟨_, enumerateFrameReturn_counts n henum hcheck, ?_⟩
  have hlane : laneOf (rxErrors l n (advance t s)) l = laneOf s l := by rw [laneOf_rxErrors, laneOf_advance]
  have hcfg : (rxErrors l n (advance t s)).cfgB = s.cfgB := (rxErrors_cfgB l _ n).trans (advance_cfgB t s)
  obtain ⟨x, hx⟩ : ∃ x, x = modLane l (fun y => { y with chips := y.chips.map (fun c => (c.1, { c.2 with sum := none })) })
    (modLane l (fun y => { y with enumerating := false, enumLast := none }) (rxErrors l n (advance t s))) := ⟨_, rfl⟩
  obtain ⟨low, henter⟩ := laneEnter_lane l .ranging (min 1024 f.next) 1 x
  have hnot : (laneOf x l).enumerating = false := by rw [hx, laneOf_modLane_same, laneOf_modLane_same]
  rw [if_pos hlast, enumDone, hlane, if_pos hstate, hcfg]
  dsimp only
  rw [← hx, rangeStart_lane _ _ _ (by simp), laneOf_modLane_same, henter]
  exact ⟨rfl, rfl, hnot, rfl⟩

end

end

end Sys2Proof.Proofs
end

section
/-! Ranging, and the loss of received symbols (R368, R384 to R387, R399). -/

namespace Sys2Proof.Proofs

open Sys2Proof.Machine Sys2Proof.Safety Sys2Proof.Laws

/-! Symbol errors (R368). -/

theorem rxErrors_wf (l n : Nat) {s : State} (hw : RegsWf s.regs) : RegsWf (rxErrors l n s).regs :=
  keep_ite (P := fun x => RegsWf x.regs) hw (setFlag_wf _ _ (bumpBy_wf _ _ hw))

theorem rxErrors_zero (l : Nat) (s : State) : rxErrors l 0 s = s := rfl

theorem rxErrors_counts (l n : Nat) {s : State} (hw : RegsWf s.regs) :
    regN (rxErrors l n s) (R.LNE_Ln_CNT_RXERR l) = min 0xFFFFFFFF (regN s (R.LNE_Ln_CNT_RXERR l) + n) := by
  have hne : R.LNE_INT_STAT ≠ R.LNE_Ln_CNT_RXERR l := by
    unfold R.LNE_INT_STAT R.LNE_Ln_CNT_RXERR
    omega
  have hle : regN s (R.LNE_Ln_CNT_RXERR l) < 2 ^ 32 := (reg s (R.LNE_Ln_CNT_RXERR l)).isLt
  unfold rxErrors
  split
  case isTrue h => omega
  case isFalse h => exact (congrArg BitVec.toNat ((reg_setReg (bumpBy_wf _ _ hw) _ _ _).trans (if_neg hne))).trans (bumpBy_regN hw _ _)

/-! Range frames (R384, R385). -/

section

variable {l : Fin 32} {s : State} {g : RangeRun} {o : RangeFrame} (f : RangeFrame) (loop : Nat)

theorem rangeReturn_none (hout : (laneOf s l).rangeOut = none) : rangeReturn l f loop s = s := by
  rw [rangeReturn, hout]
  cases (laneOf s l).range <;> rfl

variable (hrange : (laneOf s l).range = some g) (hout : (laneOf s l).rangeOut = some o)

include hrange hout

theorem rangeReturn_some : rangeReturn l f loop s =
    if f.crc ≠ crc32c (rangeBytes f.chip f.rseq) then rangeNext l (modLane l (fun x => { x with rangeOut := none }) s)
    else if f.chip ≠ o.chip ∨ f.rseq ≠ o.rseq then s
    else rangeNext l (rangeMeasured l g o.chip loop (modLane l (fun x => { x with rangeOut := none }) s)) := by
  rw [rangeReturn, hrange, hout]

theorem rangeReturn_again (hcrc : f.crc ≠ crc32c (rangeBytes f.chip f.rseq)) : (laneOf (rangeReturn l f loop s) l).range = some g := by
  rw [rangeReturn_some f loop hrange hout, if_pos hcrc, rangeNext_modLane]
  exact hrange

theorem rangeReturn_other (hother : f.chip ≠ o.chip ∨ f.rseq ≠ o.rseq) (hcrc : f.crc = crc32c (rangeBytes f.chip f.rseq)) :
    rangeReturn l f loop s = s := by
  rw [rangeReturn_some f loop hrange hout, if_neg (by simp [hcrc]), if_pos hother]

theorem rangeReturn_measured (hchip : f.chip = o.chip) (hseq : f.rseq = o.rseq) (hcrc : f.crc = crc32c (rangeBytes f.chip f.rseq)) :
    rangeReturn l f loop s = rangeNext l (rangeMeasured l g o.chip loop (modLane l (fun x => { x with rangeOut := none }) s)) := by
  rw [rangeReturn_some f loop hrange hout, if_neg (by simp [hcrc]), if_neg (by simp [hchip, hseq])]

end

/-- The next range frame goes where nothing else of the lane is on its way and no pixel frame can go (R383, R384). -/
theorem rangeNext_sends {l : Fin 32} {s : State} {g : RangeRun} {n : Nat} {r : List Nat} (hrange : (laneOf s l).range = some g) (htodo : g.todo = n :: r)
    (hout : (laneOf s l).rangeOut = none) (hctrl : (laneOf s l).outstanding = none) (hcollect : (laneOf s l).collectOut = none)
    (henum : (laneOf s l).enumerating = false) (hready : pixelReady s l = false) :
    ∃ q, (laneOf (rangeNext l s) l).rseq = q ∧ (laneOf (rangeNext l s) l).rangeOut = some ⟨n, q, crc32c (rangeBytes n q), 0⟩ := by
  obtain ⟨q, hq⟩ : ∃ q, q = ((laneOf s l).rseq + 1) % 256 := ⟨_, rfl⟩
  have hnext : rangeNext l s = modLane l (fun y => { y with rseq := q, rangeOut := some ⟨n, q, crc32c (rangeBytes n q), 0⟩ }) s := by
    rw [rangeNext, hrange]
    dsimp only
    rw [htodo, ← hq]
    exact if_neg (by simp [hout, hctrl, hcollect, henum, hready])
  refine ⟨q, ?_⟩
  rw [hnext, laneOf_modLane_same]
  exact ⟨rfl, rfl⟩

section

variable {l : Fin 32} {s : State} {g : RangeRun} {loop : Nat} (n : Nat)

theorem rangeMeasured_gathers (hgot : g.got.length < 15) :
    rangeMeasured l g n loop s = modLane l (fun x => { x with range := some { g with got := g.got ++ [loop] } }) s := by
  rw [rangeMeasured, List.length_append, List.length_singleton, if_pos (by omega)]

/-- The sixteenth loop ends both passes of a measurement (R384). -/
theorem rangeMeasured_full {a b : Nat} (hgot : g.got.length = 15) (ha : a = (g.got.take 8).sum) (hb : b = (g.got.drop 8).sum + loop) :
    rangeMeasured l g n loop s = if ((a : Int) - b).natAbs ≤ 800 then rangeChip l g n (rangeDelay (laneCfg s.cfgB l) (a + b) n) false s
      else if g.repeats < 3 then modLane l (fun x => { x with range := some { g with got := [], repeats := g.repeats + 1 } }) s
      else rangeChip l g n ((chipOf s l n).d.getD (rangeDelay (laneCfg s.cfgB l) (a + b) n)) true s := by
  have htake : ((g.got ++ [loop]).take 8).sum = a := by rw [List.take_append_of_le_length (by omega), ha]
  have hdrop : ((g.got ++ [loop]).drop 8).sum = b := by rw [List.drop_append_of_le_length (by omega), List.sum_append, List.sum_singleton, hb]
  rw [rangeMeasured, List.length_append, List.length_singleton, if_neg (by omega)]
  dsimp only
  rw [htake, hdrop]

end

section

variable {t : Nat} {l : Fin 32} {s : State} {g : RangeRun} {o : RangeFrame} {n : Nat} {r : List Nat} {loop : Nat} {f : RangeFrame}
  (hrange : (laneOf s l).range = some g) (hout : (laneOf s l).rangeOut = some o)

include hrange hout

/-- Where the returned frame is the one outstanding and its CRC holds (R379, R384). -/
theorem rangeFrameReturn_next (hchip : f.chip = o.chip) (hseq : f.rseq = o.rseq) (hcrc : f.crc = crc32c (rangeBytes f.chip f.rseq)) :
    exec (.rangeFrameReturn t l f loop) s = .next (rangeNext l (rangeMeasured l g o.chip loop
      (modLane l (fun x => { x with rangeOut := none }) (rxErrors l f.errors (advance t s))))) := by
  show execRangeFrameReturn t l f loop s = _
  rw [execRangeFrameReturn, rangeReturn_measured f loop (by simpa using hrange) (by simpa using hout) hchip hseq hcrc]

theorem rangeFrameReturn_gathers (herrors : f.errors = 0) (hchip : f.chip = o.chip) (hseq : f.rseq = o.rseq)
    (hcrc : f.crc = crc32c (rangeBytes f.chip f.rseq)) (htodo : g.todo = n :: r) (hgot : g.got.length < 15) :
    Goes (.rangeFrameReturn t l f loop) s fun x => Only [.time, .lanes] s x ∧ (laneOf x l).range = some { g with got := g.got ++ [loop] } ∧
      ((laneOf s l).outstanding = none → (laneOf s l).collectOut = none → (laneOf s l).enumerating = false → pixelReady (advance t s) l = false →
        ∃ q, (laneOf x l).rseq = q ∧ (laneOf x l).rangeOut = some ⟨n, q, crc32c (rangeBytes n q), 0⟩) := by
  obtain ⟨y, hy⟩ : ∃ y, y = modLane l (fun x => { x with rangeOut := none }) (advance t s) := ⟨_, rfl⟩
  obtain ⟨x, hx⟩ : ∃ x, x = modLane l (fun x => { x with range := some { g with got := g.got ++ [loop] } }) y := ⟨_, rfl⟩
  have hexec := rangeFrameReturn_next (t := t) (loop := loop) hrange hout hchip hseq hcrc
  rw [herrors, rxErrors_zero, rangeMeasured_gathers o.chip hgot, ← hy, ← hx] at hexec
  have hlane : laneOf x l = { laneOf s l with rangeOut := none, range := some { g with got := g.got ++ [loop] } } := by
    rw [hx, laneOf_modLane_same, hy, laneOf_modLane_same, laneOf_advance]
  have hready : pixelReady x l = pixelReady (advance t s) l := by
    have hy' : pixelReady y l = pixelReady (advance t s) l := hy ▸ pixelReady_modLane fun _ => ⟨rfl, rfl, rfl, rfl, rfl⟩
    exact (hx ▸ pixelReady_modLane fun _ => ⟨rfl, rfl, rfl, rfl, rfl⟩ : pixelReady x l = pixelReady y l).trans hy'
  have honly : Only [.time, .lanes] s (rangeNext l x) :=
    rangeNext_only (by decide) (hx ▸ modLane_only (by decide) (hy ▸ modLane_only (by decide) (advance_only (by decide) (only_refl _ _))))
  refine ⟨_, hexec, honly, ?_, fun hctrl hcollect henum hpixel => ?_⟩
  · rw [(rangeNext_served (.refl l x)).lane, hlane]
  · exact rangeNext_sends (l := l) (g := { g with got := g.got ++ [loop] }) (by rw [hlane]) htodo (by rw [hlane]) (by rw [hlane]; exact hctrl)
      (by rw [hlane]; exact hcollect) (by rw [hlane]; exact henum) (hready.trans hpixel)

section

variable {a b : Nat} (hchip : f.chip = o.chip) (hseq : f.rseq = o.rseq) (hcrc : f.crc = crc32c (rangeBytes f.chip f.rseq)) (hgot : g.got.length = 15)
  (ha : a = (g.got.take 8).sum) (hb : b = (g.got.drop 8).sum + loop)

include hchip hseq hcrc hgot ha hb

theorem rangeFrameReturn_agrees (htodo : g.todo = n :: r) (hn : o.chip = n) (hclose : ((a : Int) - b).natAbs ≤ 800) (hwhole : g.whole = true) :
    Goes (.rangeFrameReturn t l f loop) s fun x => (laneOf x l).range = some { g with
      todo := r, got := [], repeats := 0, done := g.done ++ [(n, rangeDelay (laneCfg s.cfgB l) (a + b) n, false)] } := by
  refine ⟨_, rangeFrameReturn_next hrange hout hchip hseq hcrc, ?_⟩
  beta_reduce
  rw [rangeMeasured_full o.chip hgot ha hb, if_pos hclose, rangeChip, if_pos (.inl hwhole), rangeNext_modLane, htodo, hn, modLane_cfgB,
    rxErrors_cfgB, advance_cfgB]
  rfl

theorem rangeFrameReturn_repeats (hfar : 800 < ((a : Int) - b).natAbs) (hrepeats : g.repeats < 3) :
    Goes (.rangeFrameReturn t l f loop) s fun x => (laneOf x l).range = some { g with got := [], repeats := g.repeats + 1 } := by
  refine ⟨_, rangeFrameReturn_next hrange hout hchip hseq hcrc, ?_⟩
  beta_reduce
  rw [rangeMeasured_full o.chip hgot ha hb, if_neg (by omega), if_pos hrepeats, rangeNext_modLane]

end

end

/-! The end of a whole chain's ranging (R386). -/

/-- From `s` to `t` the lane's ranging stands, no flag of the lanes and no offer to the Ledger is taken back. -/
structure RangingStands (l : Fin 32) (s t : State) : Prop where
  range : (laneOf t l).range = (laneOf s l).range
  ranged : (laneOf t l).ranged = (laneOf s l).ranged
  rangedAt : (laneOf t l).rangedAt = (laneOf s l).rangedAt
  regs : EnterRegs l s t
  offers : s.teller.ledgerOffers <+: t.teller.ledgerOffers

theorem RangingStands.refl (l : Fin 32) (s : State) : RangingStands l s s := ⟨rfl, rfl, rfl, (LaneRegs.refl s).enter, List.prefix_refl _⟩

theorem RangingStands.trans {l : Fin 32} {s t u : State} (h : RangingStands l s t) (g : RangingStands l t u) : RangingStands l s u :=
  ⟨g.range.trans h.range, g.ranged.trans h.ranged, g.rangedAt.trans h.rangedAt, h.regs.trans g.regs, h.offers.trans g.offers⟩

theorem Served.rangingStands {l : Fin 32} {s t : State} (h : Served l s t) : RangingStands l s t :=
  ⟨by rw [h.lane], by rw [h.lane], by rw [h.lane], h.regs.enter, h.stands.offers⟩

theorem laneEnter_rangingStands (l : Fin 32) (st : LaneState) (seen cause : Nat) (s : State) : RangingStands l s (laneEnter l st seen cause s) := by
  obtain ⟨low, hlane⟩ := laneEnter_lane l st seen cause s
  exact ⟨by rw [hlane], by rw [hlane], by rw [hlane], laneEnter_enterRegs _ _ _ _ _, (laneEnter_stands (.refl s)).offers⟩

theorem laneSettle_rangingStands (l : Fin 32) (s : State) : RangingStands l s (laneSettle l s) := by
  have hrefl : RangingStands l s s := .refl l s
  unfold laneSettle
  exact keep_ite hrefl (keep_ite (laneEnter_rangingStands _ _ _ _ _) (keep_ite (laneEnter_rangingStands _ _ _ _ _) hrefl))

section

variable {l : Fin 32} {s : State} {g : RangeRun}

theorem rangingDone_none (hrange : (laneOf s l).range = none) : rangingDone l s = s := by rw [rangingDone, hrange]

/-- The largest delay that a finished ranging brings to a lane (R385). -/
def rangedMax (l : Fin 32) (g : RangeRun) (s : State) : Int := g.done.foldl (fun m e => max m e.2.1) (dMaxBut (laneOf s l) (g.done.map Prod.fst))

/-- The lane after its ranging was judged: where it meets R386 the results are in force. -/
def rangingJudged (l : Fin 32) (g : RangeRun) (s : State) : State :=
  if rangeVerdict s.cfgB.laneGlobal.target (rangedMax l g s) = 0 then
    modLane l (fun y => { y with ranged := true, rangedAt := st64 s, lowest := y.seen })
      (g.done.foldl (rangeApply l ((laneOf s l).state != .ranging)) (modLane l (fun y => { y with range := none }) s))
  else modLane l (fun y => { y with range := none }) s

/-- The record of a judged ranging (R386). -/
def rangingTold (l : Fin 32) (g : RangeRun) (s : State) : State :=
  notify 0x8231 24 [l, rangeVerdict s.cfgB.laneGlobal.target (rangedMax l g s), g.done.length, (g.done.filter (fun e => e.2.2)).length, rangedMax l g s,
    rangeChange s l g.done, st64 s] (setFlag R.LNE_INT_STAT 1 (rangingJudged l g s))

/-- What follows on the record: the provisioning of a lane in RANGING, or FAULT (R386, R398). -/
def rangingEnd (l : Fin 32) (g : RangeRun) (s : State) : State :=
  if (laneOf s l).state ≠ .ranging then laneSettle l (rangingTold l g s)
  else if rangeVerdict s.cfgB.laneGlobal.target (rangedMax l g s) ≠ 0 ∧ (laneOf s l).ranged = false then
    laneEnter l .fault (laneOf s l).seen 2 (rangingTold l g s)
  else laneSettle l (ctrlSend l ((List.range (reachable s l)).foldl (fun y i => provision l i none none y) (rangingTold l g s)))

theorem rangingDone_whole (hrange : (laneOf s l).range = some g) (hwhole : g.whole = true) (htodo : g.todo = []) : rangingDone l s = rangingEnd l g s := by
  have hgo : ¬ (g.whole = false ∨ g.todo ≠ []) := by simp [hwhole, htodo]
  rw [rangingDone, hrange]
  dsimp only
  rw [if_neg hgo]
  rfl

theorem rangeApply_foldl_served (send : Bool) (done : List (Nat × Int × Bool)) (x : State) : Served l x (done.foldl (rangeApply l send) x) :=
  keep_foldl (.refl l x) fun _ _ hx => rangeApply_served hx

theorem rangingJudged_lane : (laneOf (rangingJudged l g s) l).range = none ∧ (rangeVerdict s.cfgB.laneGlobal.target (rangedMax l g s) = 0 →
    (laneOf (rangingJudged l g s) l).ranged = true ∧ (laneOf (rangingJudged l g s) l).rangedAt = st64 s) := by
  unfold rangingJudged
  split
  case isTrue h =>
    rw [laneOf_modLane_same, (rangeApply_foldl_served _ _ _).lane, laneOf_modLane_same]
    exact ⟨rfl, fun _ => ⟨rfl, rfl⟩⟩
  case isFalse h =>
    rw [laneOf_modLane_same]
    exact ⟨rfl, fun hv => absurd hv h⟩

theorem rangingJudged_wf (hw : RegsWf s.regs) : RegsWf (rangingJudged l g s).regs := by
  refine keep_ite (P := fun x => RegsWf x.regs) ?_ hw
  exact modLane_wf l _ (((rangeApply_foldl_served _ _ _).regs (modLane_wf l _ hw)).1)

theorem rangingTold_flag (hw : RegsWf s.regs) : RegsWf (rangingTold l g s).regs ∧ bitOf (reg (rangingTold l g s) R.LNE_INT_STAT) 1 = true := by
  have hwj : RegsWf (rangingJudged l g s).regs := rangingJudged_wf hw
  refine ⟨notify_wf _ _ _ (setFlag_wf _ _ hwj), ?_⟩
  rw [rangingTold, notify_reg (setFlag_wf _ _ hwj) _ _ _ (by decide)]
  exact setFlag_shows hwj (by decide)

theorem rangingEnd_stands : RangingStands l (rangingTold l g s) (rangingEnd l g s) := by
  have hprovision : Served l (rangingTold l g s) (ctrlSend l ((List.range (reachable s l)).foldl (fun y i => provision l i none none y) (rangingTold l g s))) :=
    ctrlSend_served (keep_foldl (P := Served l (rangingTold l g s)) (.refl l _) fun _ _ hx => provision_served hx)
  unfold rangingEnd
  exact keep_ite (laneSettle_rangingStands _ _) (keep_ite (laneEnter_rangingStands _ _ _ _ _) (hprovision.rangingStands.trans (laneSettle_rangingStands _ _)))

theorem rangingEnd_fault (hverdict : rangeVerdict s.cfgB.laneGlobal.target (rangedMax l g s) ≠ 0) (hstate : (laneOf s l).state = .ranging)
    (hranged : (laneOf s l).ranged = false) : (laneOf (rangingEnd l g s) l).state = .fault := by
  obtain ⟨low, hlane⟩ := laneEnter_lane l .fault (laneOf s l).seen 2 (rangingTold l g s)
  rw [rangingEnd, if_neg (by simp [hstate]), if_pos ⟨hverdict, hranged⟩, hlane]

end

theorem laneRangingDone_judges {t : Nat} {l : Fin 32} {s : State} {g : RangeRun} {d : Int} (hw : RegsWf s.regs) (hrange : (laneOf s l).range = some g)
    (hwhole : g.whole = true) (htodo : g.todo = []) (hd : d = rangedMax l g s) : Goes (.laneRangingDone t l) s fun x => (laneOf x l).range = none ∧
      bitOf (reg x R.LNE_INT_STAT) 1 = true ∧ (∃ o ∈ x.teller.ledgerOffers, o.1 = 0x8231) ∧
      (rangeVerdict s.cfgB.laneGlobal.target d = 0 → (laneOf x l).ranged = true ∧ (laneOf x l).rangedAt = st64 (advance t s)) ∧
      (rangeVerdict s.cfgB.laneGlobal.target d ≠ 0 → (laneOf s l).state = .ranging → (laneOf s l).ranged = false → (laneOf x l).state = .fault) := by
  have hwy : RegsWf (advance t s).regs := by simpa using hw
  have hmax : rangedMax l g (advance t s) = d := by rw [hd, rangedMax, rangedMax, laneOf_advance]
  have hexec : exec (.laneRangingDone t l) s = .next (rangingEnd l g (advance t s)) :=
    congrArg _ (rangingDone_whole ((laneOf_advance t s l).symm ▸ hrange) hwhole htodo)
  obtain ⟨hrange', hranged, hat, hregs, hoffers⟩ := rangingEnd_stands (l := l) (g := g) (s := advance t s)
  obtain ⟨hnone, hjudged⟩ := rangingJudged_lane (l := l) (g := g) (s := advance t s)
  obtain ⟨hwt, hflag⟩ := rangingTold_flag (l := l) (g := g) hwy
  have htold : laneOf (rangingTold l g (advance t s)) l = laneOf (rangingJudged l g (advance t s)) l := (laneOf_notify _ _ _ _ _).trans (laneOf_setFlag _ _ _ _)
  have hoffered := (notify_told 0x8231 24 [l, rangeVerdict (advance t s).cfgB.laneGlobal.target (rangedMax l g (advance t s)), g.done.length,
    (g.done.filter (fun e => e.2.2)).length, rangedMax l g (advance t s), rangeChange (advance t s) l g.done, st64 (advance t s)]
    (setFlag R.LNE_INT_STAT 1 (rangingJudged l g (advance t s)))).offered
  rw [htold] at hrange' hranged hat
  rw [hmax, advance_cfgB] at hjudged
  refine ⟨_, hexec, hrange'.trans hnone, hregs.flag hwt hflag, ⟨_, hoffers.subset (hoffered ▸ List.mem_append_right _ (List.mem_singleton_self _)), rfl⟩,
    fun hv => ⟨hranged.trans (hjudged hv).1, hat.trans (hjudged hv).2⟩, fun hv hstate hnot => ?_⟩
  exact rangingEnd_fault (by rwa [hmax, advance_cfgB]) (by rwa [laneOf_advance]) (by rwa [laneOf_advance])

/-! No symbol is received (R399). -/

section

variable {t : Nat} {l : Fin 32} {s : State} (n : Nat) (hw : RegsWf s.regs)

include hw

theorem laneRxLoss_counts : regN (rxErrors l n (advance t s)) (R.LNE_Ln_CNT_RXERR l) = min 0xFFFFFFFF (regN s (R.LNE_Ln_CNT_RXERR l) + n) :=
  (rxErrors_counts l n (by simpa using hw)).trans (by rw [advance_regN])

theorem laneRxLoss_folds (hruns : laneRuns? (laneOf s l) = true) : Goes (.laneRxLoss t l n) s fun x => (laneOf x l).seen = 0 ∧ (laneOf x l).range = none ∧
    (laneOf x l).rangeOut = none ∧ (laneOf x l).enumerating = false ∧
    (laneOf x l).state = (if 0 < chainLen s.cfgB l then .folded else (laneOf s l).state) ∧
    regN x (R.LNE_Ln_CNT_RXERR l) = min 0xFFFFFFFF (regN s (R.LNE_Ln_CNT_RXERR l) + n) := by
  obtain ⟨y, hy⟩ : ∃ y, y = modLane l (fun y => { y with range := none, rangeOut := none, enumerating := false, enumLast := none })
    (rxErrors l n (advance t s)) := ⟨_, rfl⟩
  have hexec : exec (.laneRxLoss t l n) s = .next (laneEnter l (if 0 < chainLen s.cfgB l then .folded else (laneOf s l).state) 0 0 y) := by
    show execLaneRxLoss t l n s = _
    rw [execLaneRxLoss, laneOf_rxErrors, laneOf_advance, rxErrors_cfgB, advance_cfgB, if_pos hruns, hy]
  obtain ⟨low, hlane⟩ := laneEnter_lane l (if 0 < chainLen s.cfgB l then .folded else (laneOf s l).state) 0 0 y
  have hnone : (laneOf y l).range = none ∧ (laneOf y l).rangeOut = none ∧ (laneOf y l).enumerating = false := by
    rw [hy, laneOf_modLane_same]
    exact ⟨rfl, rfl, rfl⟩
  have hcount : LaneReg (R.LNE_Ln_CNT_RXERR l) ∧ R.LNE_Ln_CNT_RXERR l ≠ R.LNE_INT_STAT ∧ R.LNE_Ln_CNT_RXERR l ≠ R.LNE_Ln_CNT_FOLD l := by
    unfold LaneReg R.LNE_Ln_CNT_RXERR R.LNE_INT_STAT R.LNE_Ln_CNT_FOLD
    omega
  have hwy : RegsWf y.regs := hy ▸ rxErrors_wf l n (by simpa using hw)
  obtain ⟨hreg, hstat, hfold⟩ := hcount
  have hstays := (laneEnter_enterRegs l (if 0 < chainLen s.cfgB l then .folded else (laneOf s l).state) 0 0 y).regN hwy hreg hstat hfold
  have hcounts : regN y (R.LNE_Ln_CNT_RXERR l) = min 0xFFFFFFFF (regN s (R.LNE_Ln_CNT_RXERR l) + n) := hy ▸ laneRxLoss_counts n hw
  obtain ⟨hrange, hout, henum⟩ := hnone
  refine ⟨_, hexec, ?_, ?_, ?_, ?_, ?_, hstays.trans hcounts⟩
  all_goals rw [hlane]
  · exact hrange
  · exact hout
  · exact henum

theorem laneRxLoss_stopped (hruns : laneRuns? (laneOf s l) = false) : Goes (.laneRxLoss t l n) s fun x => x.lanes = s.lanes ∧
    regN x (R.LNE_Ln_CNT_RXERR l) = min 0xFFFFFFFF (regN s (R.LNE_Ln_CNT_RXERR l) + n) := by
  have hexec : exec (.laneRxLoss t l n) s = .next (rxErrors l n (advance t s)) := by
    show execLaneRxLoss t l n s = _
    rw [execLaneRxLoss, laneOf_rxErrors, laneOf_advance, if_neg (by simp [hruns])]
  have hlanes : (rxErrors l n (advance t s)).lanes = (advance t s).lanes :=
    (rxErrors_only (l_ := [.regs]) (List.Subset.refl _) (only_refl _ _)).2.2 .lanes (by decide)
  exact ⟨_, hexec, hlanes.trans (advance_lanes t s), laneRxLoss_counts n hw⟩

end

/-- Settles O42: each event's step by the lemma that says what it does to its lane. -/
theorem laneEvents : Obligations.LaneEvents := by
  unfold Obligations.LaneEvents
  rintro t l s _ hw rfl
  have hwy : RegsWf (advance t s).regs := by simpa using hw
  refine ⟨?sends, ?noJob, ?waits, ?trains, laneTrainingDone_idle t l s, fun hruns hdue => enumerateInterval_goes t l s hruns hdue,
    enumerateInterval_idle t l s, enumerateFrameReturn_discards t l s, ?counts, ?ranges, ?noRange, ?judges, ?noRanging, ?folds, ?stopped⟩
  case sends =>
    intro j f r words hjobs hframes hopen hfree hwords
    have hjobs' : (laneOf (advance t s) l).jobs = [j] := (congrArg Lane.jobs (laneOf_advance t s l)).trans hjobs
    refine ⟨fun hfits hruns hgood => ?_, fun hlate => ?_⟩
    · have hgood' : outputBad (advance t s) l none [4, 5] = false := by rwa [outputBad, advance_protect]
      obtain ⟨honly, hlast, hempty, hcount⟩ := pixelSend_sends hjobs' hframes hopen hfree hwy (decide_eq_true hfits) (by rwa [laneOf_advance]) hgood'
      refine ⟨_, rfl, only_trans (only_mono (advance_only' t s) (by decide)) (only_mono honly (by decide)), hlast.trans ?_, hempty,
        hcount.trans (by rw [advance_regN])⟩
      rw [hwords]
      rfl
    · obtain ⟨hempty, hlast, hflag, hcount⟩ := pixelSend_late hjobs' hframes hopen hfree hwy (decide_eq_false (by omega))
      exact ⟨_, rfl, hempty, hlast.trans (by rw [laneOf_advance]), hflag, hcount.trans (by rw [advance_regN])⟩
  case noJob => exact fun hjobs => congrArg _ (pixelSend_empty (by rwa [laneOf_advance]))
  case waits => exact fun j f hjobs hf hfits hblocked => congrArg _ (pixelSend_waits (by rwa [laneOf_advance]) hf hfits hblocked)
  case trains => exact laneTrainingDone_goes t l s hw
  case counts =>
    intro f n henum hcheck
    refine ⟨fun hlast => ?_, fun hlast hstate => enumerateFrameReturn_ends n henum hcheck hlast hstate⟩
    rw [enumerateFrameReturn_counts n henum hcheck, if_neg hlast]
  case ranges =>
    rintro g o n r loop hrange hout htodo rfl
    refine ⟨fun f herrors hchip hseq hcrc => ?_, fun f hother hcrc => ?_, fun f hcrc => ?_⟩
    · have hcrc' : f.crc = crc32c (rangeBytes f.chip f.rseq) := by rw [hchip, hseq, hcrc]
      refine ⟨rangeFrameReturn_gathers hrange hout herrors hchip hseq hcrc' htodo, fun a b hgot ha hb => ⟨fun hclose hwhole => ?_, fun hfar hrepeats => ?_⟩⟩
      · exact rangeFrameReturn_agrees hrange hout hchip hseq hcrc' hgot ha hb htodo rfl hclose hwhole
      · exact rangeFrameReturn_repeats hrange hout hchip hseq hcrc' hgot ha hb hfar hrepeats
    · exact congrArg _ (rangeReturn_other f loop (by simpa using hrange) (by simpa using hout) hother hcrc)
    · exact ⟨_, rfl, rangeReturn_again f loop (by simpa using hrange) (by simpa using hout) hcrc⟩
  case noRange => exact fun f loop hout => congrArg _ (rangeReturn_none f loop (by simpa using hout))
  case judges => exact fun g d hrange hwhole htodo hd => laneRangingDone_judges hw hrange hwhole htodo hd
  case noRanging => exact fun hrange => congrArg _ (rangingDone_none (by simpa using hrange))
  case folds => exact fun n hruns => laneRxLoss_folds n hw hruns
  case stopped => exact fun n hruns => laneRxLoss_stopped n hw hruns

end Sys2Proof.Proofs
end

section
/-! Control frames: their acknowledgement, their repetition and their end (R391 to R394). -/

namespace Sys2Proof.Proofs

open Sys2Proof.Machine Sys2Proof.Safety Sys2Proof.Laws

/-! Counters of a lane. -/

/-- Received symbol errors leave all registers but their own count and flag. -/
theorem rxErrors_reg (l n : Nat) {s : State} (hw : RegsWf s.regs) {a : Nat} (hstat : R.LNE_INT_STAT ≠ a) (hcount : R.LNE_Ln_CNT_RXERR l ≠ a) :
    reg (rxErrors l n s) a = reg s a := by
  unfold rxErrors
  split
  · rfl
  · rw [setFlag, reg_setReg (bumpBy_wf _ _ hw), if_neg hstat, bumpBy, reg_setReg hw, if_neg hcount]

theorem rxErrors_time (l n : Nat) (s : State) : (rxErrors l n s).time = s.time :=
  (rxErrors_only (l_ := [.regs]) (List.Subset.refl _) (only_refl _ _)).2.2 .time (by decide)

theorem chkRun_result (ch : Nat) (bs : List (BitVec 8)) {s : State} (hw : RegsWf s.regs) : reg (chkRun ch bs s) (R.CHK_CHn_RESULT ch) = crc32c bs :=
  (reg_setReg (setReg_wf (setReg_wf hw _ _) _ _) _ _ _).trans (if_pos rfl)

/-! The frame outstanding (R391). -/

theorem rangeNext_leaves (l : Fin 32) (s : State) :
    laneOf (rangeNext l s) l = { laneOf s l with rseq := (laneOf (rangeNext l s) l).rseq, rangeOut := (laneOf (rangeNext l s) l).rangeOut } := by
  unfold rangeNext
  dsimp only
  split
  · rfl
  · split
    · rfl
    · split
      · rfl
      · rw [laneOf_modLane_same]

section

variable {l : Fin 32} {s : State}

theorem laneSettle_up (hstate : (laneOf s l).state = .up) : laneSettle l s = s := by
  have hnone (a b : State) : (if (laneOf s l).state = .ranging then a else if (laneOf s l).state = .folded ∧ chainLen s.cfgB l ≤ (laneOf s l).seen then b
      else s) = s := by rw [if_neg (by simp [hstate]), if_neg (by simp [hstate])]
  unfold laneSettle
  dsimp only
  rw [hnone, ite_self]

theorem ctrlSend_empty (hqueue : (laneOf s l).queue = []) : ctrlSend l s = s := by
  unfold ctrlSend
  dsimp only
  rw [if_pos (.inr (.inl (by rw [hqueue]; rfl)))]

/-- Nothing waits on a lane of pixels: only a range frame may go. -/
theorem ctrlNext_empty (hqueue : (laneOf s l).queue = []) (hstring : laneString s.cfgB l = false) : ctrlNext l s = rangeNext l s := by
  have hleft : (laneOf (rangeNext l s) l).queue = [] := by
    rw [rangeNext_leaves]
    exact hqueue
  have hcfg : (rangeNext l s).cfgB = s.cfgB := (rangeNext_served (.refl l s)).cfg
  rw [ctrlNext, ctrlSend_empty hleft, pollSend]
  exact if_pos (.inl (by rwa [hcfg]))

/-! A frame goes again, or is given up (R393). -/

theorem ctrlRetry_again {c : Ctrl} {status : Nat} (hsent : c.sent ≤ (laneCfg s.cfgB l).retries) : ctrlRetry l c status s = bump (R.LNE_Ln_CNT_RETRY l)
    (modLane l (fun y => { y with outstanding := some { c with sent := c.sent + 1, sentAt := s.time.now, lastStatus := status } }) s) := by
  rw [ctrlRetry, if_pos hsent]

/-- A frame that is given up is flagged, counted and recorded. -/
def ctrlGivenUp (l : Fin 32) (c : Ctrl) (status : Nat) (s : State) : State :=
  notify 0x8232 16 [l, opCode c.op, c.chip, c.sent, status, st64 s] (setFlag R.LNE_INT_STAT 2 (bump (R.LNE_Ln_CNT_UNREACH l) (ctrlClear l s)))

theorem laneOf_ctrlGivenUp (c : Ctrl) (status : Nat) : laneOf (ctrlGivenUp l c status s) l = { laneOf s l with outstanding := none } :=
  (laneOf_notify _ _ _ _ _).trans (laneOf_modLane_same l _ s)

/-- For a LATCH of a ranging nothing else follows, where the lane is UP and nothing waits on it. -/
theorem ctrlRetry_latch {c : Ctrl} {status u : Nat} (hsent : (laneCfg s.cfgB l).retries < c.sent) (hop : c.op = .latch u) (hcause : c.cause = .ranging)
    (hqueue : (laneOf s l).queue = []) (hstring : laneString s.cfgB l = false) (hstate : (laneOf s l).state = .up) :
    ctrlRetry l c status s = rangeNext l (ctrlGivenUp l c status s) := by
  obtain ⟨z, hz⟩ : ∃ z, z = ctrlGivenUp l c status s := ⟨_, rfl⟩
  have hlane : laneOf z l = { laneOf s l with outstanding := none } := hz ▸ laneOf_ctrlGivenUp c status
  have hcfg : z.cfgB = s.cfgB := hz ▸ notify_cfgB _ _ _ _
  have hlost : commitLost l c z = z := by rw [commitLost, hop]
  have hfailed : ctrlFailed c 0 status z = z := by rw [ctrlFailed, hcause]
  have hbroken : mapBroken l c z = z := by rw [mapBroken, hcause]
  have hend : ctrlRetry l c status s = ctrlNext l (laneSettle l (mapBroken l c (ctrlFailed c 0 status (commitLost l c z)))) := by
    rw [ctrlRetry, if_neg (by omega), hz]
    rfl
  rw [hend, hlost, hfailed, hbroken, laneSettle_up (by rw [hlane]; exact hstate), ctrlNext_empty (by rw [hlane]; exact hqueue) (by rwa [hcfg]), hz]

theorem ctrlGivenUp_shows (c : Ctrl) (status : Nat) (hw : RegsWf s.regs) : RegsWf (ctrlGivenUp l c status s).regs ∧
    bitOf (reg (ctrlGivenUp l c status s) R.LNE_INT_STAT) 2 = true ∧
    regN (ctrlGivenUp l c status s) (R.LNE_Ln_CNT_UNREACH l) = min 0xFFFFFFFF (regN s (R.LNE_Ln_CNT_UNREACH l) + 1) := by
  have hbump : RegsWf (bump (R.LNE_Ln_CNT_UNREACH l) (ctrlClear l s)).regs := bump_wf _ (modLane_wf l _ hw)
  have hflag : RegsWf (setFlag R.LNE_INT_STAT 2 (bump (R.LNE_Ln_CNT_UNREACH l) (ctrlClear l s))).regs := setFlag_wf _ _ hbump
  have hcount : LaneReg (R.LNE_Ln_CNT_UNREACH l) ∧ R.LNE_INT_STAT ≠ R.LNE_Ln_CNT_UNREACH l := by
    unfold LaneReg R.LNE_Ln_CNT_UNREACH R.LNE_INT_STAT
    omega
  refine ⟨notify_wf _ _ _ hflag, ?_, ?_⟩
  · rw [ctrlGivenUp, notify_reg hflag _ _ _ (by decide)]
    exact setFlag_shows hbump (by decide)
  · refine ((notify_laneRegs _ _ _ _).regN hflag hcount.1).trans ?_
    exact (congrArg BitVec.toNat ((reg_setReg hbump _ _ _).trans (if_neg hcount.2))).trans (bump_regN (modLane_wf l _ hw) _)

end

/-! No return in time (R393). -/

section

variable {t : Nat} {l : Fin 32} {s : State} {c : Ctrl} (hout : (laneOf s l).outstanding = some c)

include hout

theorem controlAckTimeout_early (hearly : (advance t s).time.now < c.sentAt + (laneCfg s.cfgB l).ackTimeout) :
    exec (.controlAckTimeout t l) s = .next (advance t s) := by
  show execControlAckTimeout t l s = _
  unfold execControlAckTimeout
  dsimp only
  rw [laneOf_advance, hout]
  dsimp only
  rw [advance_cfgB, if_neg (by omega)]

variable (hdue : c.sentAt + (laneCfg s.cfgB l).ackTimeout ≤ (advance t s).time.now)

include hdue

theorem controlAckTimeout_due : exec (.controlAckTimeout t l) s = .next (ctrlRetry l c c.lastStatus (advance t s)) := by
  show execControlAckTimeout t l s = _
  unfold execControlAckTimeout
  dsimp only
  rw [laneOf_advance, hout]
  dsimp only
  rw [advance_cfgB, if_pos hdue]

variable (hw : RegsWf s.regs)

include hw

theorem controlAckTimeout_again (hsent : c.sent ≤ (laneCfg s.cfgB l).retries) : Goes (.controlAckTimeout t l) s fun x =>
    (laneOf x l).outstanding = some { c with sent := c.sent + 1, sentAt := (advance t s).time.now } ∧
      regN x (R.LNE_Ln_CNT_RETRY l) = min 0xFFFFFFFF (regN s (R.LNE_Ln_CNT_RETRY l) + 1) := by
  refine ⟨_, controlAckTimeout_due hout hdue, ?_⟩
  beta_reduce
  rw [ctrlRetry_again (by rwa [advance_cfgB]), laneOf_bump, laneOf_modLane_same, bump_regN (modLane_wf l _ (by simpa using hw))]
  exact ⟨rfl, congrArg (fun n => min 0xFFFFFFFF (n + 1)) (advance_regN t s _)⟩

theorem controlAckTimeout_latch {u : Nat} (hsent : (laneCfg s.cfgB l).retries < c.sent) (hop : c.op = .latch u) (hcause : c.cause = .ranging)
    (hqueue : (laneOf s l).queue = []) (hstring : laneString s.cfgB l = false) (hstate : (laneOf s l).state = .up) :
    Goes (.controlAckTimeout t l) s fun x => (laneOf x l).outstanding = none ∧ bitOf (reg x R.LNE_INT_STAT) 2 = true ∧
      regN x (R.LNE_Ln_CNT_UNREACH l) = min 0xFFFFFFFF (regN s (R.LNE_Ln_CNT_UNREACH l) + 1) ∧
      x.teller.ledgerOffers.map Prod.fst = s.teller.ledgerOffers.map Prod.fst ++ [0x8232] := by
  obtain ⟨z, hz⟩ : ∃ z, z = ctrlGivenUp l c c.lastStatus (advance t s) := ⟨_, rfl⟩
  have hlane : laneOf z l = { laneOf s l with outstanding := none } := by rw [hz, laneOf_ctrlGivenUp, laneOf_advance]
  obtain ⟨hwz, hflag, hcount⟩ := ctrlGivenUp_shows (l := l) c c.lastStatus (s := advance t s) (by simpa using hw)
  rw [← hz] at hwz hflag hcount
  have hregs : (rangeNext l z).regs = z.regs := (rangeNext_only (l_ := [.lanes]) (List.Subset.refl _) (only_refl _ _)).2.2 .regs (by decide)
  have hteller : (rangeNext l z).teller = z.teller := (rangeNext_only (l_ := [.lanes]) (List.Subset.refl _) (only_refl _ _)).2.2 .teller (by decide)
  have hoffers : z.teller.ledgerOffers.map Prod.fst = s.teller.ledgerOffers.map Prod.fst ++ [0x8232] := by
    rw [hz, ctrlGivenUp, (notify_told _ _ _ _).offered, List.map_append]
    exact congrArg (fun x => List.map Prod.fst x.ledgerOffers ++ [0x8232]) (advance_teller t s)
  have hexec : exec (.controlAckTimeout t l) s = .next (rangeNext l z) := by
    rw [controlAckTimeout_due hout hdue, hz, ctrlRetry_latch (u := u) (by rwa [advance_cfgB]) hop hcause (by rwa [laneOf_advance]) (by rwa [advance_cfgB])
      (by rwa [laneOf_advance])]
  refine ⟨_, hexec, ?_, (by rwa [reg_of hregs]), ?_, (by rwa [hteller])⟩
  · rw [rangeNext_leaves, hlane]
  · rw [regN, reg_of hregs]
    exact hcount.trans (by rw [advance_regN])

end

/-! A frame returns (R393, R394). -/

section

variable {l : Fin 32} {s : State} (r : CtrlReturn)

theorem ackCrcOk_false (hbad : r.crc ≠ crc32c (ackBytes r)) : ackCrcOk r = false := by simp [ackCrcOk, hbad]

theorem ctrlReturn_unexpected (hout : (laneOf s l).outstanding = none) (hbad : r.crc ≠ crc32c (ackBytes r) ∨ r.status = 0) :
    ctrlReturn l r s = chkRun (12 + l) (ackBytes r) s := by
  have hnot : ¬ (ackCrcOk r = true ∧ r.status ≠ 0) := by
    rintro ⟨hok, hstatus⟩
    rcases hbad with hbad | hbad
    · simp [ackCrcOk_false r hbad] at hok
    · exact hstatus hbad
  unfold ctrlReturn
  dsimp only
  rw [laneOf_chkRun, hout]
  exact if_neg hnot

variable {c : Ctrl} (hout : (laneOf s l).outstanding = some c)

include hout

theorem ctrlReturn_bad (hbad : r.crc ≠ crc32c (ackBytes r) ∨ r.status = 0) :
    ctrlReturn l r s = ctrlRetry l c (if ackCrcOk r then r.status else 0) (chkRun (12 + l) (ackBytes r) s) := by
  unfold ctrlReturn
  dsimp only
  rw [laneOf_chkRun, hout]
  exact if_pos (hbad.imp_left (ackCrcOk_false r))

theorem ctrlReturn_good (hcrc : r.crc = crc32c (ackBytes r)) (hstatus : r.status = 1) (halive : r.alive = c.alive) (hseq : r.seq = c.seq) :
    ctrlReturn l r s = ctrlNext l (laneSettle l (ctrlComplete l c r.data 1 (ctrlClear l (ctrlAlive l r.alive (chkRun (12 + l) (ackBytes r) s))))) := by
  have hgood : ¬ (ackCrcOk r = false ∨ r.status = 0) := by simp [ackCrcOk, hcrc, hstatus]
  have hthis : ¬ (r.alive ≠ c.alive ∨ r.seq ≠ c.seq) := by simp [halive, hseq]
  unfold ctrlReturn
  dsimp only
  rw [laneOf_chkRun, hout]
  dsimp only
  rw [if_neg hgood, if_neg hthis, if_pos (.inl hstatus), if_neg (by omega), hstatus]

end

/-- The lane's check channel has run over the block of a returned control frame (R394). -/
def ctrlReceived (t : Nat) (l : Fin 32) (r : CtrlReturn) (s : State) : State := chkRun (12 + l) (ackBytes r) (rxErrors l r.errors (advance t s))

section

variable (t : Nat) (l : Fin 32) (r : CtrlReturn) (s : State)

theorem ctrlReceived_only : Only [.regs, .time] s (ctrlReceived t l r s) :=
  chkRun_only (by decide) (rxErrors_only (by decide) (advance_only (by decide) (only_refl _ _)))

theorem ctrlReceived_time : (ctrlReceived t l r s).time = (advance t s).time := rxErrors_time l r.errors (advance t s)

variable {s} (hw : RegsWf s.regs)

include hw

theorem ctrlReceived_wf : RegsWf (ctrlReceived t l r s).regs := (chkRun_laneRegs l _ _ (rxErrors_wf l r.errors (by simpa using hw))).1

theorem ctrlReceived_result : reg (ctrlReceived t l r s) (R.CHK_CHn_RESULT (12 + l)) = crc32c (ackBytes r) :=
  chkRun_result _ _ (rxErrors_wf l r.errors (by simpa using hw))

theorem ctrlReceived_retries : regN (ctrlReceived t l r s) (R.LNE_Ln_CNT_RETRY l) = regN s (R.LNE_Ln_CNT_RETRY l) := by
  have hregs : LaneReg (R.LNE_Ln_CNT_RETRY l) ∧ R.LNE_INT_STAT ≠ R.LNE_Ln_CNT_RETRY l ∧ R.LNE_Ln_CNT_RXERR l ≠ R.LNE_Ln_CNT_RETRY l := by
    unfold LaneReg R.LNE_Ln_CNT_RETRY R.LNE_INT_STAT R.LNE_Ln_CNT_RXERR
    omega
  obtain ⟨hlane, hstat, herr⟩ := hregs
  have hwy : RegsWf (advance t s).regs := by simpa using hw
  rw [ctrlReceived, (chkRun_laneRegs l _ _).regN (rxErrors_wf l r.errors hwy) hlane, regN, rxErrors_reg l _ hwy hstat herr]
  exact advance_regN t s _

end

section

variable {t : Nat} {l : Fin 32} {s : State} {c : Ctrl} {r : CtrlReturn} (hout : (laneOf s l).outstanding = some c)

include hout

theorem received_outstanding : (laneOf (rxErrors l r.errors (advance t s)) l).outstanding = some c := by rwa [laneOf_rxErrors, laneOf_advance]

theorem controlFrameReturn_again (hw : RegsWf s.regs) (hbad : r.crc ≠ crc32c (ackBytes r) ∨ r.status = 0) (hsent : c.sent ≤ (laneCfg s.cfgB l).retries) :
    Goes (.controlFrameReturn t l r) s fun x => Only [.regs, .time, .lanes] s x ∧ (∃ st, (laneOf x l).outstanding = some { c with
      sent := c.sent + 1, sentAt := (advance t s).time.now, lastStatus := st }) ∧ reg x (R.CHK_CHn_RESULT (12 + l)) = crc32c (ackBytes r) ∧
      regN x (R.LNE_Ln_CNT_RETRY l) = min 0xFFFFFFFF (regN s (R.LNE_Ln_CNT_RETRY l) + 1) := by
  have hexec : exec (.controlFrameReturn t l r) s = .next (ctrlRetry l c (if ackCrcOk r then r.status else 0) (ctrlReceived t l r s)) := by
    show execControlFrameReturn t l r s = _
    rw [execControlFrameReturn, ctrlReturn_bad r (received_outstanding hout) hbad, ctrlReceived]
  have honly := ctrlReceived_only t l r s
  have hwz := ctrlReceived_wf t l r hw
  have htime := ctrlReceived_time t l r s
  have hresult := ctrlReceived_result t l r hw
  have hcount := ctrlReceived_retries t l r hw
  generalize ctrlReceived t l r s = z at hexec honly hwz htime hresult hcount
  have hcfg : z.cfgB = s.cfgB := honly.2.2 .cfgB (by decide)
  have hne : R.LNE_Ln_CNT_RETRY l ≠ R.CHK_CHn_RESULT (12 + l) := by
    unfold R.LNE_Ln_CNT_RETRY R.CHK_CHn_RESULT
    omega
  rw [ctrlRetry_again (by rwa [hcfg])] at hexec
  refine ⟨_, hexec, bump_only (by decide) (modLane_only (by decide) (only_mono honly (by decide))), ⟨if ackCrcOk r then r.status else 0, ?_⟩, ?_, ?_⟩
  · rw [laneOf_bump, laneOf_modLane_same, htime]
  · exact (bump_reg' (modLane_wf l _ hwz) _ _).trans ((if_neg hne).trans hresult)
  · rw [bump_regN (modLane_wf l _ hwz), regN, reg_of (modLane_regs _ _ _), ← regN, hcount]

section

variable (hcrc : r.crc = crc32c (ackBytes r)) (hstatus : r.status = 1) (halive : r.alive = c.alive) (hseq : r.seq = c.seq)

include hcrc hstatus halive hseq

theorem controlFrameReturn_good : exec (.controlFrameReturn t l r) s = .next (ctrlNext l (laneSettle l (ctrlComplete l c r.data 1 (ctrlClear l
    (ctrlAlive l r.alive (chkRun (12 + l) (ackBytes r) (rxErrors l r.errors (advance t s)))))))) := by
  show execControlFrameReturn t l r s = _
  rw [execControlFrameReturn, ctrlReturn_good r (received_outstanding hout) hcrc hstatus halive hseq]

theorem controlFrameReturn_read {a : Nat} {k : Call} (hop : c.op = .read a) (hcause : c.cause = .hostRead (some k)) :
    exec (.controlFrameReturn t l r) s = .next (ctrlNext l (laneSettle l (respondOwed 0x0466 (some k) ⟨.ok, 8, [1, r.data.toNat]⟩
      (ctrlClear l (ctrlAlive l r.alive (chkRun (12 + l) (ackBytes r) (rxErrors l r.errors (advance t s)))))))) := by
  rw [controlFrameReturn_good hout hcrc hstatus halive hseq, ctrlComplete, hop, hcause]
  rfl

theorem controlFrameReturn_latch {u : Nat} (hop : c.op = .latch u) (hqueue : (laneOf s l).queue = []) (hstring : laneString s.cfgB l = false)
    (hstate : (laneOf s l).state = .up) : Goes (.controlFrameReturn t l r) s fun x => (laneOf x l).outstanding = none ∧ (laneOf x l).queue = [] ∧
      (chipOf x l c.chip).acked = ((chipOf s l c.chip).units == u) := by
  obtain ⟨y, hy⟩ : ∃ y, y = ctrlAlive l r.alive (chkRun (12 + l) (ackBytes r) (rxErrors l r.errors (advance t s))) := ⟨_, rfl⟩
  have hsame : Only [.regs, .time, .teller, .protect] s y :=
    hy ▸ ctrlAlive_only (by decide) (chkRun_only (by decide) (rxErrors_only (by decide) (advance_only (by decide) (only_refl _ _))))
  have hlane : laneOf y l = laneOf s l := laneOf_only hsame (by decide) l
  have hcfg : y.cfgB = s.cfgB := hsame.2.2 .cfgB (by decide)
  obtain ⟨z, hz⟩ : ∃ z, z = modChip l c.chip (fun k => { k with acked := k.units == u }) (ctrlClear l y) := ⟨_, rfl⟩
  have hdone : laneOf z l = { laneOf s l with
      outstanding := none
      chips := aPut (laneOf s l).chips c.chip { chipOf s l c.chip with acked := (chipOf s l c.chip).units == u } } := by
    rw [hz, modChip, laneOf_modLane_same, ctrlClear, laneOf_modLane_same, hlane]
    rfl
  have hexec : exec (.controlFrameReturn t l r) s = .next (rangeNext l z) := by
    have hcomplete : ctrlComplete l c r.data 1 (ctrlClear l y) = z := by rw [ctrlComplete, hop, hz]
    have hzcfg : z.cfgB = s.cfgB := hz ▸ hcfg
    rw [controlFrameReturn_good hout hcrc hstatus halive hseq, ← hy, hcomplete, laneSettle_up (by rw [hdone]; exact hstate),
      ctrlNext_empty (by rw [hdone]; exact hqueue) (by rwa [hzcfg])]
  refine ⟨_, hexec, ?_, ?_, ?_⟩
  · rw [rangeNext_leaves, hdone]
  · rw [rangeNext_leaves, hdone]
    exact hqueue
  · rw [chipOf, rangeNext_leaves, hdone, aGet, aFind_aPut, if_pos rfl]
    rfl

end

end

end Sys2Proof.Proofs
end

section
/-! Collection (R397): the frame that leaves a lane every interval, and its return. -/

namespace Sys2Proof.Proofs

open Sys2Proof.Machine Sys2Proof.Safety Sys2Proof.Laws

/-! One lane in a pass over all lanes. -/

/-- From `s` to `t` a lane stands, and what its pixel frames rest on. -/
structure LaneStands (l : Fin 32) (s t : State) : Prop where
  lane : laneOf t l = laneOf s l
  instants : SameInstants s t
  wf : RegsWf t.regs
  ready : pixelReady t l = pixelReady s l

theorem LaneStands.refl (l : Fin 32) {s : State} (hw : RegsWf s.regs) : LaneStands l s s := ⟨rfl, ⟨rfl, rfl, rfl, rfl, rfl, rfl, rfl⟩, hw, rfl⟩

theorem SameInstants.trans {s t u : State} (h : SameInstants s t) (g : SameInstants t u) : SameInstants s u :=
  ⟨g.time.trans h.time, g.power.trans h.power, g.pool.trans h.pool, g.cfg.trans h.cfg, g.lead.trans h.lead, g.delays.trans h.delays,
    g.offset.trans h.offset⟩

/-- Another lane's work leaves a lane as it is. -/
theorem LaneStands.aside {l m : Fin 32} {s t u : State} (h : LaneStands l s t) (g : Aside m t u) (hl : l ≠ m) : LaneStands l s u :=
  have hne : l.val ≠ m.val := fun e => hl (Fin.ext e)
  ⟨(g.others l hne).trans h.lane, h.instants.trans (g.instants h.wf), (g.regs h.wf).1, (g.pixelReady h.wf hne).trans h.ready⟩

section

variable {f : State → Nat → State} (hf : ∀ (m : Fin 32) (x : State), Aside m x (f x m)) (l : Fin 32)

include hf

theorem foldl_laneStands {ms : List Nat} (hms : ∀ m ∈ ms, m < 32) (hl : l.val ∉ ms) {s : State} (hw : RegsWf s.regs) :
    LaneStands l s (ms.foldl f s) := by
  refine List.foldlRecOn ms f (LaneStands.refl l hw) fun x hx m hm => ?_
  exact hx.aside (hf ⟨m, hms m hm⟩ x) fun e => hl (e ▸ hm)

/-- In a pass over the lanes a lane stands before its turn, and after it. -/
theorem foldl_lanes {s : State} (hw : RegsWf s.regs) :
    ∃ x, LaneStands l s x ∧ LaneStands l (f x l) ((List.range 32).foldl f s) := by
  obtain ⟨before, after, hsplit⟩ := List.append_of_mem (List.mem_range.mpr l.isLt)
  have hnodup : (before ++ l.val :: after).Nodup := hsplit ▸ List.nodup_range
  have hlt (m : Nat) (hm : m ∈ before ++ l.val :: after) : m < 32 := List.mem_range.mp (hsplit ▸ hm)
  obtain ⟨-, hafter, hdisjoint⟩ := List.nodup_append.mp hnodup
  have hbefore := foldl_laneStands hf l (ms := before) (fun m hm => hlt m (by simp [hm])) (fun hm => hdisjoint _ hm _ (by simp) rfl) hw
  have hturn : RegsWf (f (before.foldl f s) l).regs := ((hf l _).regs hbefore.wf).1
  refine ⟨before.foldl f s, hbefore, ?_⟩
  rw [hsplit, List.foldl_append, List.foldl_cons]
  exact foldl_laneStands hf l (fun m hm => hlt m (by simp [hm])) (List.nodup_cons.mp hafter).1 hturn

end

/-! The frame that leaves (R383, R397). -/

theorem rangeStart_aside (l : Fin 32) (whole background : Bool) (todo : List Nat) (s : State) : Aside l s (rangeStart l whole background todo s) := by
  unfold rangeStart
  exact keep_ite (.refl l s) ((modLane_aside (.refl l s)).trans (rangeNext_served (.refl l _)).toAside)

/-- From `s` to `t` the collection of a lane stands. -/
def SameCollect (l : Fin 32) (s t : State) : Prop := (laneOf t l).collectAt = (laneOf s l).collectAt ∧ (laneOf t l).collectOut = (laneOf s l).collectOut ∧
  (laneOf t l).cseq = (laneOf s l).cseq ∧ (laneOf t l).collectNext = (laneOf s l).collectNext ∧ (laneOf t l).collectDue = (laneOf s l).collectDue

theorem SameCollect.refl (l : Fin 32) (s : State) : SameCollect l s s := ⟨rfl, rfl, rfl, rfl, rfl⟩

theorem SameCollect.trans {l : Fin 32} {s t u : State} (h : SameCollect l s t) (g : SameCollect l t u) : SameCollect l s u := by
  obtain ⟨hat, hout, hseq, hnext, hdue⟩ := h
  obtain ⟨gat, gout, gseq, gnext, gdue⟩ := g
  exact ⟨gat.trans hat, gout.trans hout, gseq.trans hseq, gnext.trans hnext, gdue.trans hdue⟩

theorem Served.collect {l : Fin 32} {s t : State} (h : Served l s t) : SameCollect l s t := by
  rw [SameCollect, h.lane]
  exact ⟨rfl, rfl, rfl, rfl, rfl⟩

theorem modLane_collect (l : Fin 32) {f : Lane → Lane} (s : State) (hf : ∀ x, (f x).collectAt = x.collectAt ∧ (f x).collectOut = x.collectOut ∧
    (f x).cseq = x.cseq ∧ (f x).collectNext = x.collectNext ∧ (f x).collectDue = x.collectDue) : SameCollect l s (modLane l f s) := by
  rw [SameCollect, laneOf_modLane_same]
  exact hf _

theorem rangeStart_collect (l : Fin 32) (whole background : Bool) (todo : List Nat) (s : State) : SameCollect l s (rangeStart l whole background todo s) := by
  unfold rangeStart
  refine keep_ite (.refl l s) (SameCollect.trans ?_ (rangeNext_served (.refl l _)).collect)
  exact modLane_collect l s fun _ => ⟨rfl, rfl, rfl, rfl, rfl⟩

/-- The first chip that the next collect frame reads. -/
def collectFirst (l : Fin 32) (s : State) : Nat := if (laneOf s l).collectNext < chainLen s.cfgB l then (laneOf s l).collectNext else 0

/-- The interval's frame has left a lane, or waits for its pixel frames. -/
def collectStart (l : Fin 32) (s : State) : State :=
  if pixelReady s l then modLane l (fun y => { y with collectDue := true }) (modLane l (fun y => { y with collectAt := s.time.now }) s)
  else collectNow l (modLane l (fun y => { y with collectAt := s.time.now }) s)

theorem collectStart_lane (l : Fin 32) (s : State) : laneOf (collectStart l s) l = if pixelReady s l then
      { laneOf s l with collectAt := s.time.now, collectDue := true }
    else { laneOf s l with
      collectAt := s.time.now
      collectDue := false
      collectOut := some (collectFirst l s, min 16 (chainLen s.cfgB l - collectFirst l s))
      cseq := ((laneOf s l).cseq + 1) % 256
      collectNext := collectFirst l s + 16 } := by
  unfold collectStart
  split
  · rw [laneOf_modLane_same, laneOf_modLane_same]
  · rw [collectNow, laneOf_modLane_same, laneOf_modLane_same]
    rfl

theorem collectStart_aside (l : Fin 32) (s : State) : Aside l s (collectStart l s) :=
  keep_ite (modLane_aside (modLane_aside (.refl l s))) (modLane_aside (modLane_aside (.refl l s)))

section

variable {l : Fin 32} {s : State}

theorem collectSend_idle (h : laneRuns? (laneOf s l) = false ∨ chainLen s.cfgB l = 0 ∨
    s.time.now < (laneOf s l).collectAt + s.cfgB.laneGlobal.collect * 1000) : collectSend s l = ctrlSend l s := by
  rw [collectSend]
  exact if_pos h

/-- Besides the frame, one chip may be ranged in the background (R387). -/
theorem collectSend_due (h : ¬ (laneRuns? (laneOf s l) = false ∨ chainLen s.cfgB l = 0 ∨
    s.time.now < (laneOf s l).collectAt + s.cfgB.laneGlobal.collect * 1000)) :
    Aside l (collectStart l s) (collectSend s l) ∧ SameCollect l (collectStart l s) (collectSend s l) := by
  unfold collectSend
  dsimp only
  rw [if_neg h]
  refine ⟨Aside.trans ?_ (ctrlSend_served (.refl l _)).toAside, SameCollect.trans ?_ (ctrlSend_served (.refl l _)).collect⟩
  · exact keep_ite (modLane_aside (rangeStart_aside _ _ _ _ _)) (.refl l _)
  · exact keep_ite (P := SameCollect l (collectStart l s))
      ((rangeStart_collect _ _ _ _ _).trans (modLane_collect l _ fun _ => ⟨rfl, rfl, rfl, rfl, rfl⟩)) (.refl l _)

end

theorem collectTurn_aside (l : Fin 32) (s : State) : Aside l s (ctrlNext l (collectSend s l)) := by
  have hsend : Aside l s (collectSend s l) := by
    by_cases h : laneRuns? (laneOf s l) = false ∨ chainLen s.cfgB l = 0 ∨ s.time.now < (laneOf s l).collectAt + s.cfgB.laneGlobal.collect * 1000
    · rw [collectSend_idle h]
      exact (ctrlSend_served (.refl l s)).toAside
    · exact (collectStart_aside l s).trans (collectSend_due h).1
  exact hsend.trans (ctrlNext_served (.refl l _)).toAside

section

variable {t : Nat} {s : State} (l : Fin 32) (hw : RegsWf s.regs)

include hw

theorem collectInterval_turn : ∃ x z, exec (.collectInterval t) s = .next z ∧ LaneStands l (advance t s) x ∧
    laneOf z l = laneOf (ctrlNext l (collectSend x l)) l := by
  obtain ⟨x, hbefore, hafter⟩ := foldl_lanes (f := fun x l => ctrlNext l (collectSend x l)) collectTurn_aside l (s := advance t s) (by simpa using hw)
  exact ⟨x, _, rfl, hbefore, hafter.lane⟩

theorem collectInterval_sends (hruns : laneRuns? (laneOf s l) = true) (hchain : 0 < chainLen s.cfgB l)
    (hdue : (laneOf s l).collectAt + s.cfgB.laneGlobal.collect * 1000 ≤ (advance t s).time.now) : Goes (.collectInterval t) s fun x =>
      (laneOf x l).collectAt = (advance t s).time.now ∧
      (pixelReady (advance t s) l = false → (laneOf x l).collectOut = some (collectFirst l s, min 16 (chainLen s.cfgB l - collectFirst l s)) ∧
        (laneOf x l).cseq = ((laneOf s l).cseq + 1) % 256 ∧ (laneOf x l).collectNext = collectFirst l s + 16) ∧
      (pixelReady (advance t s) l = true → (laneOf x l).collectOut = (laneOf s l).collectOut ∧ (laneOf x l).collectDue = true) := by
  obtain ⟨x, z, hexec, hbefore, hafter⟩ := collectInterval_turn (t := t) l hw
  have hlane : laneOf x l = laneOf s l := hbefore.lane.trans (laneOf_advance t s l)
  have hcfg : x.cfgB = s.cfgB := hbefore.instants.cfg.trans (advance_cfgB t s)
  have htime : x.time = (advance t s).time := hbefore.instants.time
  have hgo : ¬ (laneRuns? (laneOf x l) = false ∨ chainLen x.cfgB l = 0 ∨ x.time.now < (laneOf x l).collectAt + x.cfgB.laneGlobal.collect * 1000) := by
    rw [hlane, hcfg, htime, hruns]
    simp only [Bool.true_eq_false, false_or, not_or]
    omega
  have hfirst : collectFirst l x = collectFirst l s := by rw [collectFirst, collectFirst, hlane, hcfg]
  have hturn : SameCollect l (collectStart l x) (ctrlNext l (collectSend x l)) := (collectSend_due hgo).2.trans (ctrlNext_served (.refl l _)).collect
  have hstart := collectStart_lane l x
  rw [hbefore.ready, hlane, hcfg, htime, hfirst] at hstart
  obtain ⟨hat, hout, hseq, hnext, hwait⟩ := hturn
  rw [← hafter] at hat hout hseq hnext hwait
  rw [hstart] at hat hout hseq hnext hwait
  refine ⟨z, hexec, hat.trans ?_, fun hready => ?_, fun hready => ?_⟩
  · split <;> rfl
  · rw [hready] at hout hseq hnext
    exact ⟨hout, hseq, hnext⟩
  · rw [hready] at hout hwait
    exact ⟨hout, hwait⟩

theorem collectInterval_idle (h : laneRuns? (laneOf s l) = false ∨ (advance t s).time.now < (laneOf s l).collectAt + s.cfgB.laneGlobal.collect * 1000) :
    Goes (.collectInterval t) s fun x => (laneOf x l).collectOut = (laneOf s l).collectOut ∧ (laneOf x l).cseq = (laneOf s l).cseq := by
  obtain ⟨x, z, hexec, hbefore, hafter⟩ := collectInterval_turn (t := t) l hw
  have hlane : laneOf x l = laneOf s l := hbefore.lane.trans (laneOf_advance t s l)
  have hstop : laneRuns? (laneOf x l) = false ∨ chainLen x.cfgB l = 0 ∨ x.time.now < (laneOf x l).collectAt + x.cfgB.laneGlobal.collect * 1000 := by
    rw [hlane, hbefore.instants.cfg, hbefore.instants.time, advance_cfgB]
    exact h.imp_right .inr
  have hturn : Served l x (ctrlNext l (collectSend x l)) := by
    rw [collectSend_idle hstop]
    exact ctrlNext_served (ctrlSend_served (.refl l x))
  obtain ⟨-, hout, hseq, -, -⟩ := hturn.collect
  rw [← hafter, hlane] at hout hseq
  exact ⟨z, hexec, hout, hseq⟩

end

/-! The frame that returns (R378, R397). -/

theorem FIF_not_laneReg (a : Nat) (hlo : 0xF0060000 ≤ a) (hhi : a < 0xF0070000) : ¬ LaneReg a := by
  unfold LaneReg R.ALM_SYNC_OFFSET
  omega

theorem fifoWrite_laneRegs {q : Nat} (hq : q < 18) (byte : BitVec 8) (first eop : Bool) (s : State) : LaneRegs s (fifoWrite q byte first eop s) := by
  have hbegin : LaneRegs s (if first then modFifo q fifoBegin s else s) := keep_ite (.same rfl) (.refl s)
  have hcount {x : State} : LaneRegs x (bumpField (R.FIF_Qn_CNT q) 31 16 1 x) := setReg_laneRegs _ _ _ (FIF_not_laneReg _ (by unfold R.FIF_Qn_CNT; omega)
    (by unfold R.FIF_Qn_CNT; omega))
  have hmod {f : Fifo → Fifo} {x : State} : LaneRegs x (modFifo q f x) := .same rfl
  unfold fifoWrite
  exact keep_ite (.refl s) (keep_ite hbegin (keep_ite ((hbegin.trans hmod).trans hcount) (hbegin.trans hmod)))

theorem intake_laneRegs {q : Nat} (hq : q < 18) (bytes : List (BitVec 8)) (s : State) : LaneRegs s (intake q bytes s).1 := by
  have hpacket : LaneRegs s (fifoPacket q bytes s) := keep_foldl (P := LaneRegs s) (.refl s) fun x b hx => hx.trans (fifoWrite_laneRegs hq _ _ _ x)
  unfold intake
  dsimp only
  split
  · exact hpacket.trans (.same rfl)
  · exact hpacket

section

variable {l : Fin 32} {s : State}

theorem enumStart_collectOut : (laneOf (enumStart l s) l).collectOut = (laneOf s l).collectOut := by
  rw [laneOf_enumStart]
  split
  · rfl
  · split <;> rfl

theorem chipEpochReport_collectOut (i epoch : Nat) : (laneOf (chipEpochReport l i epoch s) l).collectOut = (laneOf s l).collectOut := by
  have hunit (key : Nat) (stale : Bool) (fx : List (Nat × FixtureEntry)) : laneOf (unitReport key i stale fx s) l = laneOf s l :=
    laneOf_only (unitReport_only (List.Subset.refl _) (only_refl _ _)) (by decide) l
  have hchip {f : ChipLink → ChipLink} {x : State} : SameCollect l x (modChip l i f x) := (modChip_served (.refl l x)).collect
  unfold chipEpochReport
  dsimp only
  refine (keep_ite (P := fun x => SameCollect l (unitReport _ i _ _ s) x) (hchip.trans (ctrlSend_served (provision_served (.refl l _))).collect) hchip).2.1.trans ?_
  rw [hunit]

theorem collectSlot_collectOut (e : Nat × Slot) : (laneOf (collectSlot l s e) l).collectOut = (laneOf s l).collectOut := by
  have hreport (chip : Nat) (temp : Int) : laneOf (chipReport chip temp s) l = laneOf s l :=
    laneOf_only (chipReport_only (List.Subset.refl _) (only_refl _ _)) (by decide) l
  unfold collectSlot
  dsimp only
  split
  · rw [chipEpochReport_collectOut, hreport]
  · split
    · rw [enumStart_collectOut, laneOf_bump]
    · rw [laneOf_bump]

/-- A chip whose slot is missing is counted (R397). -/
theorem collectSlot_blank (i : Nat) : (collectSlot l s (i, blankSlot)).regs = (bump (R.LNE_Ln_CNT_MISS l) s).regs := by
  have hblank : ¬ (nBit blankSlot.flags 0 = true ∧ blankSlot.crc = crc32c (reportBytes blankSlot)) := by
    rintro ⟨hflag, -⟩
    exact absurd hflag (by decide)
  unfold collectSlot
  dsimp only
  rw [if_neg hblank]
  split <;> rfl

theorem rangeNext_regs (m : Nat) : (rangeNext m s).regs = s.regs :=
  (rangeNext_only (l_ := [.lanes]) (List.Subset.refl _) (only_refl _ _)).2.2 .regs (by decide)

theorem collectFrameReturn_none {t : Nat} {slots : List Slot} (n : Nat) (hout : (laneOf s l).collectOut = none) :
    exec (.collectFrameReturn t l slots n) s = .next (rxErrors l n (advance t s)) := by
  show execCollectFrameReturn t l slots n s = _
  rw [execCollectFrameReturn, collectReturn, laneOf_rxErrors, laneOf_advance, hout]

/-- The slots of a collect frame that came back, one for each chip it asked (R378). -/
def collectSlots (count : Nat) (slots : List Slot) : List Slot := (List.range count).map (fun j => slots.getD j blankSlot)

/-- What the intake queue of the collect frames makes of one (R158). -/
def collectIntake (l : Fin 32) (first count n t : Nat) (slots : List Slot) (s : State) : State × Bool :=
  intake 17 (collectPacket l first (laneOf s l).cseq (collectSlots count slots)) (modLane l (fun z => { z with collectOut := none })
    (rxErrors l n (advance t s)))

section

variable {first count : Nat} (n t : Nat) (slots : List Slot)

theorem collectIntake_collectOut : (laneOf (collectIntake l first count n t slots s).1 l).collectOut = none := by
  rw [collectIntake, laneOf_only (intake_only (List.Subset.refl _) (only_refl _ _)) (by decide) l, laneOf_modLane_same]

theorem collectIntake_misses (hw : RegsWf s.regs) : RegsWf (collectIntake l first count n t slots s).1.regs ∧
    regN (collectIntake l first count n t slots s).1 (R.LNE_Ln_CNT_MISS l) = regN s (R.LNE_Ln_CNT_MISS l) := by
  have hregs : LaneReg (R.LNE_Ln_CNT_MISS l) ∧ R.LNE_INT_STAT ≠ R.LNE_Ln_CNT_MISS l ∧ R.LNE_Ln_CNT_RXERR l ≠ R.LNE_Ln_CNT_MISS l := by
    unfold LaneReg R.LNE_Ln_CNT_MISS R.LNE_INT_STAT R.LNE_Ln_CNT_RXERR
    omega
  obtain ⟨hlane, hstat, herr⟩ := hregs
  have hwy : RegsWf (advance t s).regs := by simpa using hw
  have hin : LaneRegs (modLane l (fun z => { z with collectOut := none }) (rxErrors l n (advance t s))) (collectIntake l first count n t slots s).1 :=
    intake_laneRegs (by decide) _ _
  have hwx : RegsWf (modLane l (fun z => { z with collectOut := none }) (rxErrors l n (advance t s))).regs := modLane_wf l _ (rxErrors_wf l n hwy)
  refine ⟨(hin hwx).1, (hin.regN hwx hlane).trans ?_⟩
  rw [regN, reg_of (modLane_regs _ _ _), rxErrors_reg l n hwy hstat herr]
  exact advance_regN t s _

theorem collectFrameReturn_some (hout : (laneOf s l).collectOut = some (first, count)) : exec (.collectFrameReturn t l slots n) s = .next (rangeNext l
    (if (collectIntake l first count n t slots s).2 then
      ((collectSlots count slots).mapIdx (fun j q => (first + j, q))).foldl (collectSlot l) (collectIntake l first count n t slots s).1
    else (collectIntake l first count n t slots s).1)) := by
  show execCollectFrameReturn t l slots n s = _
  rw [execCollectFrameReturn, collectReturn, laneOf_rxErrors, laneOf_advance, hout]
  rfl

theorem collectFrameReturn_takes (hw : RegsWf s.regs) (hout : (laneOf s l).collectOut = some (first, count)) {p : State × Bool}
    (hp : p = collectIntake l first count n t slots s) : Goes (.collectFrameReturn t l slots n) s fun x => (laneOf x l).collectOut = none ∧
      (p.2 = false → x = rangeNext l p.1) ∧
      (p.2 = true → x = rangeNext l (((collectSlots count slots).mapIdx (fun j q => (first + j, q))).foldl (collectSlot l) p.1)) ∧
      (p.2 = true → slots = [] → count = 1 → regN x (R.LNE_Ln_CNT_MISS l) = min 0xFFFFFFFF (regN s (R.LNE_Ln_CNT_MISS l) + 1)) := by
  have hnone : (laneOf p.1 l).collectOut = none := hp ▸ collectIntake_collectOut n t slots
  obtain ⟨hwp, hmiss⟩ := collectIntake_misses (l := l) (first := first) (count := count) n t slots hw
  rw [← hp] at hwp hmiss
  have hslots {es : List (Nat × Slot)} : (laneOf (es.foldl (collectSlot l) p.1) l).collectOut = none :=
    keep_foldl (P := fun x => (laneOf x l).collectOut = none) hnone fun x e hx => (collectSlot_collectOut e).trans hx
  refine ⟨_, collectFrameReturn_some n t slots hout, ?_, fun hno => ?_, fun hyes => ?_, fun hyes hempty hone => ?_⟩
  · rw [← hp, rangeNext_leaves]
    exact keep_ite (P := fun x => (laneOf x l).collectOut = none) hslots hnone
  · rw [← hp, hno]
    rfl
  · rw [← hp, hyes]
    rfl
  · rw [← hp, hyes, hempty, hone, regN, reg_of (rangeNext_regs l)]
    refine (congrArg BitVec.toNat (reg_of (collectSlot_blank (first + 0)) _)).trans ((bump_regN hwp _).trans ?_)
    rw [hmiss]

end

end

end Sys2Proof.Proofs
end

section
/-! The commands of lanes and strings (R387, R403, R423). -/

namespace Sys2Proof.Proofs

open Sys2Proof.Machine Sys2Proof.Safety Sys2Proof.Laws

/-! LANE_RANGE (R387). -/

section

variable {c : Call} {s : State} {mask chip : Nat} {l : Fin 32}

theorem laneRuns_not_fault (hruns : laneRuns? (laneOf s l) = true) : (laneOf s l).state ≠ .fault := fun h => by simp [laneRuns?, h] at hruns

/-- A ranging of one lane, the whole chain or a chip in reach, changes only that lane. -/
theorem rangeStart_done {i : Instr} {code : Nat} {body : State → State × Reply} {whole : Bool} {todo : List Nat} (he : exec i s = command code c s body)
    (h : Ready code c s) (hb : body (advance c.t s) = accept (rangeStart l whole false todo (advance c.t s))) (hstart : ¬ (todo = [] ∧ whole = false)) :
    ∃ y, Done i code c ⟨.ok, 0, []⟩ y s ∧ Only [.lanes] (advance c.t s) y ∧
      (laneOf y l).range = some ⟨whole, todo, [], 0, [], false⟩ ∧ ∀ m : Fin 32, m ≠ l → laneOf y m = laneOf s m := by
  have honly : Only [.lanes] (advance c.t s) (rangeStart l whole false todo (advance c.t s)) := rangeStart_only (List.Subset.refl _) (only_refl _ _)
  have hregs : (rangeStart l whole false todo (advance c.t s)).regs = (advance c.t s).regs := honly.2.2 .regs (by decide)
  have hteller : (rangeStart l whole false todo (advance c.t s)).teller = (advance c.t s).teller := honly.2.2 .teller (by decide)
  have hopen : (sess (rangeStart l whole false todo (advance c.t s)) c.session).isOpen = true := by
    rw [sess, hteller, advance_teller]
    exact h.live
  refine ⟨_, command_done he h hb (by rw [hregs, advance_regs]; exact h.wf) hopen, honly, ?_, fun m hm => ?_⟩
  · rw [rangeStart_lane l _ _ hstart]
  · rw [(rangeStart_aside l _ _ _ _).others m fun e => hm (Fin.ext e), laneOf_advance]

variable (h : Ready 0x0463 c s)

include h

theorem laneRange_noLane : Done (.laneRange c 0 chip) 0x0463 c ⟨.invalidParameter, 0, []⟩ (advance c.t s) s := by
  refine command_reads (rfl : _ = execLaneRange c 0 chip s) h ?_
  have hnone : (List.range 32).filter (nBit 0) = [] := by decide
  exact if_pos hnone

theorem laneRange_notReady (hbit : nBit mask l = true) (hstop : laneRuns? (laneOf s l) = false) (hfault : (laneOf s l).state ≠ .fault ∨ chip ≠ 0xFFFF) :
    Done (.laneRange c mask chip) 0x0463 c ⟨.notReady, 0, []⟩ (advance c.t s) s := by
  refine command_reads (rfl : _ = execLaneRange c mask chip s) h ?_
  have hmem : l.val ∈ (List.range 32).filter (nBit mask) := List.mem_filter.mpr ⟨List.mem_range.mpr l.isLt, hbit⟩
  have hnot : ¬ ((laneOf s l).state = .fault ∧ chip = 0xFFFF) := fun e => hfault.elim (· e.1) (· e.2)
  dsimp only
  rw [if_neg (List.ne_nil_of_mem hmem), if_pos]
  · rfl
  · refine List.all_eq_false.mpr ⟨_, hmem, ?_⟩
    rw [laneOf_advance, hstop]
    simpa using hnot

section

variable (hmask : (List.range 32).filter (nBit mask) = [l.val]) (hruns : laneRuns? (laneOf s l) = true)

include hmask hruns

theorem laneRange_notFound (hchip : chip ≠ 0xFFFF) (hbeyond : chainLen s.cfgB l ≤ chip) :
    Done (.laneRange c mask chip) 0x0463 c ⟨.notFound, 0, []⟩ (advance c.t s) s := by
  refine command_reads (rfl : _ = execLaneRange c mask chip s) h ?_
  dsimp only
  rw [hmask, if_neg (List.cons_ne_nil _ _), if_neg (by simp [hruns]), if_pos ⟨hchip, by simpa using hbeyond⟩]
  rfl

theorem laneRange_chain : ∃ y, Done (.laneRange c mask 0xFFFF) 0x0463 c ⟨.ok, 0, []⟩ y s ∧ Only [.lanes] (advance c.t s) y ∧
    (laneOf y l).range = some ⟨true, List.range (reachable s l), [], 0, [], false⟩ ∧ ∀ m : Fin 32, m ≠ l → laneOf y m = laneOf s m := by
  have hreach : reachable (advance c.t s) l = reachable s l := by rw [reachable, reachable, laneOf_advance, advance_cfgB]
  have hfault : (laneOf (advance c.t s) l).state ≠ .fault := by
    rw [laneOf_advance]
    exact laneRuns_not_fault hruns
  refine rangeStart_done (rfl : _ = execLaneRange c mask 0xFFFF s) h ?_ (by simp)
  dsimp only
  rw [hmask, if_neg (List.cons_ne_nil _ _), if_neg (by simp [hruns]), if_neg (by simp), List.foldl_cons, List.foldl_nil, if_neg (by simp), if_neg hfault,
    hreach]

theorem laneRange_chip (hchip : chip ≠ 0xFFFF) (hreach : chip < reachable s l) : ∃ y, Done (.laneRange c mask chip) 0x0463 c ⟨.ok, 0, []⟩ y s ∧
    Only [.lanes] (advance c.t s) y ∧ (laneOf y l).range = some ⟨false, [chip], [], 0, [], false⟩ ∧ ∀ m : Fin 32, m ≠ l → laneOf y m = laneOf s m := by
  have hreach' : chip < reachable (advance c.t s) l := by rwa [reachable, laneOf_advance, advance_cfgB, ← reachable]
  have hchain : chip < chainLen s.cfgB l := lt_of_lt_of_le hreach (Nat.min_le_right _ _)
  refine rangeStart_done (rfl : _ = execLaneRange c mask chip s) h ?_ (by simp)
  dsimp only
  rw [hmask, if_neg (List.cons_ne_nil _ _), if_neg (by simp [hruns]), if_neg (by simp [hchain]), List.foldl_cons, List.foldl_nil, if_pos hchip,
    if_pos hreach']

end

end

/-! LANE_CHIP_WRITE and LANE_CHIP_READ (R403). -/

/-- A control frame as it waits. -/
def ctrlWaiting (chip : Nat) (op : CtrlOp) (cause : CtrlFor) : Ctrl := ⟨chip, op, cause, 0, 0, 0, 0, 0, none, none, 0⟩

section

variable {l : Fin 32} {s : State} {chip : Nat} {op : CtrlOp} {cause : CtrlFor}

theorem laneOf_ctrlQueue : laneOf (ctrlQueue l chip op cause none none s) l = { laneOf s l with queue := (laneOf s l).queue ++ [ctrlWaiting chip op cause] } :=
  laneOf_modLane_same l _ s

/-- A frame that provisions no chip holds up no pixel frame (R401). -/
theorem pixelReady_ctrlQueue : pixelReady (ctrlQueue l chip op cause none none s) l = pixelReady s l := by
  have hsame : SameInstants s (ctrlQueue l chip op cause none none s) := ⟨rfl, rfl, rfl, rfl, rfl, rfl, rfl⟩
  refine hsame.pixelReady (by rw [laneOf_ctrlQueue]) (by rw [laneOf_ctrlQueue]) (by rw [laneOf_ctrlQueue]; rfl) fun k i => ?_
  rw [laneOf_ctrlQueue, commitOwed, commitOwed, List.any_append]
  simp [ctrlWaiting]

/-- Before show time the frame goes at once, where nothing else is on its way (R106). -/
theorem ctrlQueue_sent (hstopped : s.time.running = false) (hready : pixelReady s l = false)
    (hout : (laneOf s l).outstanding = none) (hqueue : (laneOf s l).queue = []) :
    ∃ q, (laneOf (ctrlSend l (ctrlQueue l chip op cause none none s)) l).outstanding = some q ∧ q.op = op ∧ q.chip = chip ∧ q.cause = cause ∧
      q.alive = ((laneOf s l).alive + 1) % 65536 := by
  obtain ⟨z, hz⟩ : ∃ z, z = ctrlQueue l chip op cause none none s := ⟨_, rfl⟩
  have hlane : laneOf z l = { laneOf s l with queue := [ctrlWaiting chip op cause] } := by rw [hz, laneOf_ctrlQueue, hqueue]; rfl
  have hpixel : pixelReady z l = false := hz ▸ pixelReady_ctrlQueue.trans hready
  have htime : z.time.running = false := hz ▸ hstopped
  have hgo : ctrlReady z (ctrlWaiting chip op cause) = true := rfl
  have hsend : ctrlSend l z = ctrlTake l z := by
    unfold ctrlSend
    dsimp only
    rw [hlane, if_neg (by simp [hout, hgo, hpixel]), if_pos (.inl htime)]
  have hfind : (laneOf z l).queue.find? (ctrlReady z) = some (ctrlWaiting chip op cause) := by
    rw [hlane]
    exact List.find?_cons_of_pos hgo
  rw [← hz, hsend]
  unfold ctrlTake
  dsimp only
  rw [if_neg (by rw [hlane]; simp [hout, hpixel]), hfind]
  dsimp only
  rw [laneOf_chkRun, modChip, laneOf_modLane_same, laneOf_modLane_same, hlane]
  exact ⟨_, rfl, rfl, rfl, rfl, rfl⟩

/-- In show time the Almanac sends it (R118, R123): till then it waits behind the others. -/
theorem ctrlQueue_waits (hrunning : s.time.running = true) (hup : domainUp s 7 = true) :
    ∃ q, q.op = op ∧ q.chip = chip ∧ (laneOf (ctrlSend l (ctrlQueue l chip op cause none none s)) l).queue = (laneOf s l).queue ++ [q] := by
  obtain ⟨z, hz⟩ : ∃ z, z = ctrlQueue l chip op cause none none s := ⟨_, rfl⟩
  have hgo : ¬ (z.time.running = false ∨ domainUp z 7 = false) := by
    have hrunning' : z.time.running = true := hz ▸ hrunning
    have hup' : domainUp z 7 = true := hz ▸ hup
    simp [hrunning', hup']
  have hinsert (d : Descriptor) : laneOf (insertDescriptor d z) l = laneOf z l :=
    laneOf_only (insertDescriptor_only (l_ := [.regs, .teller, .alm]) (List.Subset.refl _) (only_refl _ _)) (by decide) l
  have hsend : laneOf (ctrlSend l z) l = laneOf z l := by
    unfold ctrlSend
    dsimp only
    rw [if_neg hgo]
    exact keep_ite (P := fun x => laneOf x l = laneOf z l) rfl (keep_ite (P := fun x => laneOf x l = laneOf z l) rfl (hinsert _))
  refine ⟨ctrlWaiting chip op cause, rfl, rfl, ?_⟩
  rw [← hz, hsend, hz, laneOf_ctrlQueue]

end

theorem chipCheck_advance (t l chip : Nat) (s : State) : chipCheck (advance t s) l chip = chipCheck s l chip := by
  rw [chipCheck, chipCheck, laneOf_advance, advance_cfgB]

section

variable {c : Call} {s : State} {l : Fin 32} {chip addr : Nat} {data : List (BitVec 8)}

theorem laneChipWrite_low (h : Ready 0x0465 c s) (hlow : addr < 0x1000) :
    Done (.laneChipWrite c l chip addr data) 0x0465 c ⟨.invalidParameter, 0, []⟩ (advance c.t s) s := by
  refine command_reads (rfl : _ = execLaneChipWrite c l chip addr data s) h ?_
  rw [if_pos (.inl hlow)]
  rfl

section

variable (hlow : 0x1000 ≤ addr) (hhigh : addr ≤ 0xFFFF) (hfour : 4 ≤ data.length) (hmany : data.length ≤ 228) (hwords : data.length % 4 = 0)

include hlow hhigh hfour hmany hwords

theorem laneChipWrite_inRange : ¬ (addr < 0x1000 ∨ 0xFFFF < addr ∨ data.length < 4 ∨ 228 < data.length ∨ data.length % 4 ≠ 0) := by omega

theorem laneChipWrite_refused {e : Status} (h : Ready 0x0465 c s) (hcheck : chipCheck s l chip = some e) :
    Done (.laneChipWrite c l chip addr data) 0x0465 c ⟨e, 0, []⟩ (advance c.t s) s := by
  refine command_reads (rfl : _ = execLaneChipWrite c l chip addr data s) h ?_
  rw [if_neg (laneChipWrite_inRange hlow hhigh hfour hmany hwords), chipCheck_advance, hcheck]
  rfl

theorem laneChipWrite_pending (h : Ready 0x0465 c s) (hcheck : chipCheck s l chip = none) : Ends (.laneChipWrite c l chip addr data) 0x0465 c
    ⟨.pending, 0, []⟩ (ctrlSend l (ctrlQueue l chip (.write addr data) (.hostWrite (some c)) none none (advance c.t s))) s := by
  refine command_ends (rfl : _ = execLaneChipWrite c l chip addr data s) h ?_
  rw [if_neg (laneChipWrite_inRange hlow hhigh hfour hmany hwords), chipCheck_advance, hcheck]

end

theorem laneChipRead_refused {e : Status} (h : Ready 0x0466 c s) (hhigh : addr ≤ 0xFFFF) (hcheck : chipCheck s l chip = some e) :
    Done (.laneChipRead c l chip addr) 0x0466 c ⟨e, 0, []⟩ (advance c.t s) s := by
  refine command_reads (rfl : _ = execLaneChipRead c l chip addr s) h ?_
  rw [if_neg (by omega), chipCheck_advance, hcheck]
  rfl

theorem laneChipRead_pending (h : Ready 0x0466 c s) (hhigh : addr ≤ 0xFFFF) (hcheck : chipCheck s l chip = none) :
    Ends (.laneChipRead c l chip addr) 0x0466 c ⟨.pending, 0, []⟩
      (ctrlSend l (ctrlQueue l chip (.read addr) (.hostRead (some c)) none none (advance c.t s))) s := by
  refine command_ends (rfl : _ = execLaneChipRead c l chip addr s) h ?_
  rw [if_neg (by omega), chipCheck_advance, hcheck]

end

/-! STR_LAMP_SET (R423). -/

/-- Host bypass entries join the table. -/
theorem lampApply_keeps {p : StrLampSet} {s : State} (haction : p.action = 0) {e : LampEntry} (he : e ∈ s.lamps) : e ∈ (lampApply p s).lamps := by
  rw [lampApply, if_neg (by omega)]
  refine keep_foldl (P := fun y => e ∈ y.lamps) he fun x target hx => ?_
  refine keep_ite (P := fun y => e ∈ y.lamps) hx (keep_ite (P := fun y => e ∈ y.lamps) hx ?_)
  exact List.mem_append_left _ hx

theorem lampApply_clears {p : StrLampSet} (s : State) (haction : p.action = 1) : (lampApply p s).lamps = s.lamps.filter (fun e => !lampMatch p e) := by
  rw [lampApply, if_pos haction]
  rfl

/-- The frames that follow leave the table. -/
theorem lampFrames_lamps (c : Call) (p : StrLampSet) (s : State) : (lampFrames c p s).lamps = (lampApply p s).lamps := by
  have hqueue {chip : Nat} {op : CtrlOp} {cause : CtrlFor} {notBefore fromK : Option Int} {x : State} :
      (ctrlQueue p.lane chip op cause notBefore fromK x).lamps = x.lamps := rfl
  have hnext (x : State) : (ctrlNext p.lane x).lamps = x.lamps :=
    (ctrlNext_only (l_ := [.regs, .teller, .alm, .lanes]) (List.Subset.refl _) (only_refl _ _)).2.2 .lamps (by decide)
  unfold lampFrames
  dsimp only
  rw [hnext, hqueue]
  exact keep_ite (P := fun x => x.lamps = (lampApply p s).lamps) rfl rfl

section

variable {c : Call} {p : StrLampSet} {s : State} (h : Ready 0x0469 c s) (haction : p.action ≤ 1) (hsome : 1 ≤ p.strings) (hthree : p.strings ≤ 7)
  (hlamp : p.lamp = 0xFF ∨ p.lamp ≤ 63) (hcheck : chipCheck s p.lane p.chip = none)

include haction hsome hthree hlamp in
theorem strLampSet_inRange : ¬ (1 < p.action ∨ p.strings = 0 ∨ 7 < p.strings ∨ (p.lamp ≠ 0xFF ∧ 63 < p.lamp)) := by omega

include h haction hsome hthree hlamp hcheck

theorem strLampSet_notString (hstring : laneString s.cfgB p.lane = false) : Done (.strLampSet c p) 0x0469 c ⟨.notFound, 0, []⟩ (advance c.t s) s := by
  refine command_reads (rfl : _ = execStrLampSet c p s) h ?_
  rw [if_neg (strLampSet_inRange haction hsome hthree hlamp), chipCheck_advance, hcheck]
  dsimp only
  rw [advance_cfgB, if_pos hstring]
  rfl

theorem strLampSet_pending (hstring : laneString s.cfgB p.lane = true) (hthere : p.lamp = 0xFF ∨ p.lamp < chipCount s.cfgB p.lane p.chip) :
    Ends (.strLampSet c p) 0x0469 c ⟨.pending, 0, []⟩ (lampFrames c p (advance c.t s)) s := by
  refine command_ends (rfl : _ = execStrLampSet c p s) h ?_
  rw [if_neg (strLampSet_inRange haction hsome hthree hlamp), chipCheck_advance, hcheck]
  dsimp only
  rw [advance_cfgB, if_neg (by simp [hstring]), if_neg (by omega)]

end

/-! The events and the commands together. -/

/-- Settles O43: a returned or timed-out control frame, a collection and a command each by the lemma that says what it leaves. -/
theorem laneControl : Obligations.LaneControl := by
  unfold Obligations.LaneControl
  refine ⟨?events, ?commands⟩
  case events =>
    rintro t l s _ hw rfl
    refine ⟨?again, ?latch, ?read, ?unexpected, ?timeout, ?early, ?sends, ?idle, ?none, ?takes⟩
    case again => exact fun c r hout hbad hsent => controlFrameReturn_again hout hw hbad hsent
    case latch =>
      exact fun c r u hout hop hcrc hstatus halive hseq hqueue hstring hstate =>
        controlFrameReturn_latch hout hcrc hstatus halive hseq hop hqueue hstring hstate
    case read => exact fun c r a k hout hop hcause hcrc hstatus halive hseq => controlFrameReturn_read hout hcrc hstatus halive hseq hop hcause
    case unexpected => exact fun r hout hbad => congrArg _ (ctrlReturn_unexpected r (by rwa [laneOf_rxErrors, laneOf_advance]) hbad)
    case timeout =>
      exact fun c hout hdue => ⟨controlAckTimeout_again hout hdue hw, fun u hsent hop hcause hqueue hstring hstate =>
        controlAckTimeout_latch hout hdue hw hsent hop hcause hqueue hstring hstate⟩
    case early => exact fun c hout hearly => controlAckTimeout_early hout hearly
    case sends =>
      rintro _ _ rfl rfl hruns hchain hdue
      exact collectInterval_sends l hw hruns hchain hdue
    case idle => exact collectInterval_idle l hw
    case none => exact fun n slots hout => collectFrameReturn_none n hout
    case takes =>
      rintro n slots first count _ p hout rfl hp
      exact collectFrameReturn_takes n t slots hw hout hp
  case commands =>
    rintro c s _ rfl
    refine ⟨?range, ?notReady, fun chip h => laneRange_noLane h, ?chip, ?refused, ?lamps⟩
    case range =>
      intro mask chip l h hmask hruns
      refine ⟨?_, laneRange_chip h hmask hruns, laneRange_notFound h hmask hruns⟩
      rintro rfl
      exact laneRange_chain h hmask hruns
    case notReady => exact fun mask chip l h hbit hstop hfault => laneRange_notReady h hbit hstop hfault
    case chip =>
      intro l chip addr data hcheck
      refine ⟨fun h hlow hhigh hfour hmany hwords => ⟨_, laneChipWrite_pending hlow hhigh hfour hmany hwords h hcheck, fun hstopped hready hout hqueue => ?_,
        fun hrunning hup => ?_⟩, laneChipWrite_low, fun h hhigh => ⟨_, laneChipRead_pending h hhigh hcheck, fun hstopped hready hout hqueue => ?_⟩⟩
      · have hsent := ctrlQueue_sent (l := l) (s := advance c.t s) (chip := chip) (op := .write addr data) (cause := .hostWrite (some c))
          (by rwa [advance_time]) hready (by rwa [laneOf_advance]) (by rwa [laneOf_advance])
        rwa [laneOf_advance] at hsent
      · have hwaits := ctrlQueue_waits (l := l) (s := advance c.t s) (chip := chip) (op := .write addr data) (cause := .hostWrite (some c))
          (by rwa [advance_time]) (by rwa [advance_domainUp])
        rwa [laneOf_advance] at hwaits
      · obtain ⟨q, hq, hop, hchip, hcause, -⟩ := ctrlQueue_sent (l := l) (s := advance c.t s) (chip := chip) (op := .read addr) (cause := .hostRead (some c))
          (by rwa [advance_time]) hready (by rwa [laneOf_advance]) (by rwa [laneOf_advance])
        exact ⟨q, hq, hop, hchip, hcause⟩
    case refused =>
      exact fun l chip addr data e hcheck => ⟨fun h hhigh => laneChipRead_refused h hhigh hcheck, fun h hlow hhigh hfour hmany hwords =>
        laneChipWrite_refused hlow hhigh hfour hmany hwords h hcheck⟩
    case lamps =>
      intro p h haction hsome hthree hlamp hcheck
      refine ⟨fun hstring hthere => ⟨_, strLampSet_pending h haction hsome hthree hlamp hcheck hstring hthere, fun hclear => ?_, fun hbypass e he => ?_⟩,
        strLampSet_notString h haction hsome hthree hlamp hcheck⟩
      · rw [lampFrames_lamps, lampApply_clears _ hclear, advance_lamps]
      · rw [lampFrames_lamps]
        exact lampApply_keeps hbypass (by rwa [advance_lamps])

end Sys2Proof.Proofs
end

section
/-! One port: what the events of a port leave of the ports, and of the registers outside their flags and counters (R428, R434, R449, R456). -/

namespace Sys2Proof.Proofs

open Sys2Proof.Machine Sys2Proof.Safety Sys2Proof.Laws

/-! Registers that no flag or counter of an event of a port, of a late frame or of a notice is. -/

/-- An address at none of the offsets of MAC_TSQ_STAT, MAC_INT_STAT, PKT_CNT_LATE, PKT_INT_STAT and the registers of notices. -/
def MacStands (a : Nat) : Prop :=
  a % 0x10000 ≠ 0x3C ∧ a % 0x10000 ≠ 0x40 ∧ a % 0x10000 ≠ 0x44 ∧ a % 0x10000 ≠ 0x60 ∧ a % 0x10000 ≠ 0x68 ∧ a % 0x10000 ≠ 0x6C

theorem macStands_MAC_CTRL (p : Nat) : MacStands (R.MAC_CTRL p) := by unfold MacStands R.MAC_CTRL; omega
theorem macStands_MAC_CFG (p : Nat) : MacStands (R.MAC_CFG p) := by unfold MacStands R.MAC_CFG; omega
theorem macStands_MAC_MTU (p : Nat) : MacStands (R.MAC_MTU p) := by unfold MacStands R.MAC_MTU; omega
theorem macStands_MAC_WD (p : Nat) : MacStands (R.MAC_WD p) := by unfold MacStands R.MAC_WD; omega
theorem macStands_MAC_LAUNCH_WIN (p : Nat) : MacStands (R.MAC_LAUNCH_WIN p) := by unfold MacStands R.MAC_LAUNCH_WIN; omega
theorem macStands_MAC_RRr_CFG (p : Nat) {r : Nat} (hr : r < 8) : MacStands (R.MAC_RRr_CFG p r) := by unfold MacStands R.MAC_RRr_CFG; omega
theorem macStands_TIM_TBn_CFG (n : Nat) : MacStands (R.TIM_TBn_CFG n) := by unfold MacStands R.TIM_TBn_CFG; omega
theorem macStands_ESC_CFG : MacStands R.ESC_CFG := by unfold MacStands R.ESC_CFG; omega
theorem macStands_TLR_UDP : MacStands R.TLR_UDP := by unfold MacStands R.TLR_UDP; omega

theorem not_macStands_MAC_INT_STAT (p : Nat) : ¬ MacStands (R.MAC_INT_STAT p) := by unfold MacStands R.MAC_INT_STAT; omega
theorem not_macStands_MAC_TSQ_STAT (p : Nat) : ¬ MacStands (R.MAC_TSQ_STAT p) := by unfold MacStands R.MAC_TSQ_STAT; omega

/-- From `s` to `t` these registers stand; `HkcRegs` is the same of the pages of SYS and PWR. -/
def MacRegs (s t : State) : Prop := RegsWf s.regs → RegsWf t.regs ∧ ∀ a, MacStands a → reg t a = reg s a

theorem MacRegs.refl (s : State) : MacRegs s s := fun hw => ⟨hw, fun _ _ => rfl⟩

section

variable {s0 s t : State} (h : MacRegs s0 s)

include h

theorem MacRegs.trans (g : MacRegs s t) : MacRegs s0 t := fun hw =>
  ⟨(g (h hw).1).1, fun a ha => ((g (h hw).1).2 a ha).trans ((h hw).2 a ha)⟩

/-- One more operation, which writes no register. -/
theorem MacRegs.same (hr : t.regs = s.regs) : MacRegs s0 t := h.trans fun hw => ⟨by rwa [hr], fun a _ => reg_of hr a⟩

theorem MacRegs.only {l : List Comp} (g : Only l s t) (hl : Comp.regs ∉ l) : MacRegs s0 t := h.same (g.2.2 .regs hl)

theorem setReg_macRegs {a : Nat} {w : Word} (ha : ¬ MacStands a) : MacRegs s0 (setReg a w s) :=
  h.trans fun hw => ⟨setReg_wf hw a w, fun b hb => (reg_setReg hw a w b).trans (if_neg fun (e : a = b) => ha (e ▸ hb))⟩

theorem setFlag_macRegs {a i : Nat} (ha : ¬ MacStands a) : MacRegs s0 (setFlag a i s) := setReg_macRegs h ha

theorem notify_macRegs {code len : Nat} {fields : List Int} : MacRegs s0 (notify code len fields s) := by
  have hoff : ∀ a ∈ noticeRegs, ¬ MacStands a := by
    unfold MacStands
    decide
  exact h.trans fun hw => ⟨notify_wf _ _ _ hw, fun a ha => notify_reg hw _ _ _ fun hn => hoff a hn ha⟩

theorem modPort_macRegs {p : Nat} {f : MacPort → MacPort} : MacRegs s0 (modPort p f s) := h.same rfl

theorem modPool_macRegs {f : Pool → Pool} : MacRegs s0 (modPool f s) := h.same rfl

theorem tsqSettle_macRegs {p : Nat} : MacRegs s0 (tsqSettle p s) := by
  have hdrop {x : State} (hx : MacRegs s0 x) : MacRegs s0 (tsqDrop p x) := by
    have hflags : MacRegs s0 (setFlag (R.MAC_INT_STAT p) 3 (setFlag (R.MAC_TSQ_STAT p) 31 (tallyUp p 20 x))) :=
      setFlag_macRegs (setFlag_macRegs (modPort_macRegs hx) (not_macStands_MAC_TSQ_STAT p)) (not_macStands_MAC_INT_STAT p)
    unfold tsqDrop
    exact keep_ite (modPort_macRegs hflags) (notify_macRegs (modPort_macRegs hflags))
  unfold tsqSettle
  split
  · exact keep_ite (hdrop (modPort_macRegs h)) h
  · exact h

/-! A link that leaves UP (R428, R434). -/

theorem zoneLate_macRegs {stage z : Nat} {k : Int} {pixels : Nat} : MacRegs s0 (zoneLate stage z k pixels s) := by
  unfold zoneLate lateNotice
  exact keep_ite h (keep_ite (modPool_macRegs h) (notify_macRegs (modPool_macRegs (modPool_macRegs h))))

theorem refillOne_macRegs {p : Nat} {f : TxFrame} : MacRegs s0 (refillOne p s f) := by
  have hsend : MacRegs s0 (portEnqueue f s p) := h.only (portEnqueue_only (List.Subset.refl _) (only_refl _ _)) (by decide)
  have hlate : MacRegs s0 (txLate f s) := by
    have hpkt : ¬ MacStands R.PKT_CNT_LATE ∧ ¬ MacStands R.PKT_INT_STAT := by
      unfold MacStands
      decide
    unfold txLate
    split
    · exact zoneLate_macRegs (setFlag_macRegs (setReg_macRegs h hpkt.1) hpkt.2)
    · exact h
  unfold refillOne
  split
  · exact keep_ite hlate hsend
  · exact hsend

theorem pairSwitch_macRegs {q cause : Nat} : MacRegs s0 (pairSwitch q cause s) := by
  unfold pairSwitch portPass
  refine keep_foldl (modPort_macRegs (notify_macRegs (setFlag_macRegs (h.only (l := [.mac]) ?_ (by decide)) (not_macStands_MAC_INT_STAT _))))
    fun _ _ hx => refillOne_macRegs hx
  exact modMac_only (List.Subset.refl _) (portFlush_only (List.Subset.refl _) (only_refl _ _))

theorem linkLeave_macRegs {p cause : Nat} {to_ : LinkState} : MacRegs s0 (linkLeave p cause to_ s) := by
  have hleft {f : MacPort → MacPort} : MacRegs s0 (notify 0x8250 16 [p, 0, portMode s p, cause, st64 s]
      (setFlag (R.MAC_INT_STAT p) 0 (tallyUp p 21 (modPort p f s)))) :=
    notify_macRegs (setFlag_macRegs (modPort_macRegs (modPort_macRegs h)) (not_macStands_MAC_INT_STAT p))
  unfold linkLeave
  exact keep_ite (modPort_macRegs h) (keep_ite (keep_ite (pairSwitch_macRegs hleft) hleft) hleft)

end

/-! One port under the operations on it. -/

theorem portOf_of_mac {s t : State} (h : t.mac = s.mac) (p : Nat) : portOf t p = portOf s p := by
  unfold portOf
  rw [h]

@[simp] theorem portOf_notify (code len : Nat) (fields : List Int) (s : State) (p : Nat) : portOf (notify code len fields s) p = portOf s p :=
  portOf_of_mac (notify_mac ..) p

@[simp] theorem portOf_modPort_same (p : Fin 11) (f : MacPort → MacPort) (s : State) : portOf (modPort p f s) p = f (portOf s p) :=
  (portOf_modPort p p f s).trans (if_pos rfl)

theorem portOf_modPort_other {p : Fin 11} {q : Nat} (h : p.val ≠ q) (f : MacPort → MacPort) (s : State) : portOf (modPort q f s) p = portOf s p :=
  (vGet_vMod _ _ _ _ _ p.isLt).trans (if_neg h)

/-- A counter of the port goes up by `n`, and stops at its end (R456). -/
theorem tally_tallyBy (p : Fin 11) (i n : Nat) (s : State) {j : Nat} (hj : j < 24) : vGet (portOf (tallyBy p i n s) p).tally j 0 =
    if j = i then min 18446744073709551615 (vGet (portOf s p).tally j 0 + n) else vGet (portOf s p).tally j 0 := by
  unfold tallyBy
  rw [portOf_modPort_same]
  exact vGet_vMod _ _ _ _ _ hj

/-- A counter that stood as in `s` counts once more (R456). -/
theorem tally_tallyUp (p : Fin 11) {i : Nat} (hi : i < 24) {s w : State} (h : vGet (portOf w p).tally i 0 = vGet (portOf s p).tally i 0) :
    vGet (portOf (tallyUp p i w) p).tally i 0 = min 18446744073709551615 (vGet (portOf s p).tally i 0 + 1) := by
  rw [← h]
  exact (tally_tallyBy p i 1 w hi).trans (if_pos rfl)

/-- From port `x` to port `y` nothing moves but the counters in `l` and what a full queue of timestamps keeps (R449, R456). -/
structure Counted (l : List Nat) (x y : MacPort) : Prop where
  rest : y = { x with tally := y.tally, tsqExtra := y.tsqExtra, tsqLost := y.tsqLost, tsqNotice := y.tsqNotice }
  tally : ∀ j < 24, j ∉ l → vGet y.tally j 0 = vGet x.tally j 0

theorem Counted.refl (l : List Nat) (x : MacPort) : Counted l x x := ⟨rfl, fun _ _ _ => rfl⟩

theorem Counted.trans {l : List Nat} {x y z : MacPort} (h : Counted l x y) (g : Counted l y z) : Counted l x z where
  rest := by
    have hz := g.rest
    rw [h.rest] at hz
    exact hz
  tally j hj hl := (g.tally j hj hl).trans (h.tally j hj hl)

theorem Counted.mono {k l : List Nat} {x y : MacPort} (h : Counted k x y) (hk : k ⊆ l) : Counted l x y :=
  ⟨h.rest, fun j hj hl => h.tally j hj fun hm => hl (hk hm)⟩

theorem counted_tallyBy {l : List Nat} (p : Fin 11) {i : Nat} (hi : i ∈ l) (n : Nat) (s : State) :
    Counted l (portOf s p) (portOf (tallyBy p i n s) p) where
  rest := by
    unfold tallyBy
    rw [portOf_modPort_same]
  tally j hj hl := (tally_tallyBy p i n s hj).trans (if_neg fun (e : j = i) => hl (e ▸ hi))

/-! The timestamp queue's extra entry is settled (R449). -/

theorem tsqDrop_port (p : Fin 11) (s : State) : Counted [20] (portOf s p) (portOf (tsqDrop p s) p) := by
  have hcount := counted_tallyBy p (List.mem_singleton_self 20) 1 s
  unfold tsqDrop
  refine keep_ite (P := fun x => Counted [20] (portOf s p) (portOf x p)) ?_ ?_
  · rw [portOf_modPort_same]
    exact hcount.trans ⟨rfl, fun _ _ _ => rfl⟩
  · rw [portOf_notify, portOf_modPort_same]
    exact hcount.trans ⟨rfl, fun _ _ _ => rfl⟩

theorem tsqSettle_port (p : Fin 11) (s : State) : Counted [20] (portOf s p) (portOf (tsqSettle p s) p) := by
  unfold tsqSettle
  split
  · split
    · have htaken : Counted [20] (portOf s p) (portOf (modPort p (fun y => { y with tsqExtra := none }) s) p) := by
        rw [portOf_modPort_same]
        exact ⟨rfl, fun _ _ _ => rfl⟩
      exact htaken.trans (tsqDrop_port p _)
    · exact .refl _ _
  · exact .refl _ _

theorem tsqSettle_other {p : Fin 11} {q : Nat} (h : p.val ≠ q) (s : State) : portOf (tsqSettle q s) p = portOf s p := by
  have hdrop (x : State) : portOf (tsqDrop q x) p = portOf x p := by
    have hcount : portOf (tallyUp q 20 x) p = portOf x p := portOf_modPort_other h _ _
    unfold tsqDrop
    refine keep_ite (P := fun y => portOf y p = portOf x p) ((portOf_modPort_other h _ _).trans hcount) ?_
    rw [portOf_notify]
    exact (portOf_modPort_other h _ _).trans hcount
  unfold tsqSettle
  split
  · split
    · rw [hdrop, portOf_modPort_other h]
    · rfl
  · rfl

/-! Time moves to an event of the port. -/

theorem portAt_port (p : Fin 11) (t : Nat) (s : State) : Counted [20] (portOf s p) (portOf (portAt p t s) p) := by
  have h := tsqSettle_port p (advance t s)
  rwa [portOf_advance] at h

theorem portAt_link (p : Fin 11) (t : Nat) (s : State) : (portOf (portAt p t s) p).link = (portOf s p).link :=
  (congrArg MacPort.link (portAt_port p t s).rest :)

theorem portAt_regs (p t : Nat) (s : State) : MacRegs s (portAt p t s) := tsqSettle_macRegs ((MacRegs.refl s).same (advance_regs t s))

/-- Of the state the settling of timestamps changes the registers, Teller and the port alone. -/
theorem portAt_stands (p t : Nat) (s : State) : Only [.regs, .teller, .mac] (advance t s) (portAt p t s) :=
  tsqSettle_only (List.Subset.refl _) (only_refl _ _)

theorem portAt_time (p t : Nat) (s : State) : (portAt p t s).time = (advance t s).time := (portAt_stands p t s).2.2 .time (by decide)

theorem byteTime_of {s t : State} {p : Nat} (hcfg : reg t (R.MAC_CFG p) = reg s (R.MAC_CFG p)) (hrate : (portOf t p).rate = (portOf s p).rate) :
    byteTime t p = byteTime s p := by
  unfold byteTime portMode
  rw [hcfg, hrate]

/-! Pauses that have run out end (R444, R456). -/

/-- What is settled of a port's pauses: those that have run out, and the counter of paused microseconds. -/
theorem pauseSettle_port (p : Fin 11) (s : State) : ∃ from_ tally, portOf (pauseSettle p s) p = { portOf s p with
      classes := vMap (portOf s p).classes (pauseExpire s.time.now), pause := pauseExpire s.time.now (portOf s p).pause, pausedFrom := from_, tally := tally } ∧
    ∀ j < 24, j ≠ 22 → vGet tally j 0 = vGet (portOf s p).tally j 0 := by
  unfold pauseSettle
  dsimp only
  split
  · exact ⟨_, _, portOf_modPort_same p _ s, fun _ _ _ => rfl⟩
  · unfold tallyBy
    rw [portOf_modPort_same, portOf_modPort_same, portOf_modPort_same]
    exact ⟨_, _, rfl, fun j hj h22 => (vGet_vMod _ _ _ _ _ hj).trans (if_neg h22)⟩

theorem pauseSettle_stands (p : Nat) (s : State) : Only [.mac] s (pauseSettle p s) := pauseSettle_only (List.Subset.refl _) (only_refl _ _)

theorem pauseSettle_other {p : Fin 11} {q : Nat} (h : p.val ≠ q) (s : State) : portOf (pauseSettle q s) p = portOf s p := by
  unfold pauseSettle tallyBy
  dsimp only
  split <;> simp [portOf_modPort_other h]

/-- `w` is `s` at an event of its port `p` at `t`, when the port's timestamps and pauses have been settled. -/
structure Settled (p : Fin 11) (t : Nat) (s w : State) : Prop where
  stands : Only [.regs, .teller, .mac] (advance t s) w
  regs : MacRegs s w
  busy : (portOf w p).busyUntil = (portOf s p).busyUntil
  quantum : RegsWf s.regs → quantumTime w p = quantumTime s p
  pause : (portOf w p).pause = pauseExpire (advance t s).time.now (portOf s p).pause
  classes : ∀ n : Fin 8, vGet (portOf w p).classes n Pause.none_ = pauseExpire (advance t s).time.now (vGet (portOf s p).classes n Pause.none_)
  tally : ∀ j < 24, j ≠ 20 → j ≠ 22 → vGet (portOf w p).tally j 0 = vGet (portOf s p).tally j 0

theorem Settled.time {p : Fin 11} {t : Nat} {s w : State} (h : Settled p t s w) : w.time = (advance t s).time := h.stands.2.2 .time (by decide)

theorem pauseSettle_settled (p : Fin 11) (t : Nat) (s : State) : Settled p t s (pauseSettle p (portAt p t s)) := by
  obtain ⟨from_, tally, hport, htally⟩ := pauseSettle_port p (portAt p t s)
  have hrest := (portAt_port p t s).rest
  have hregs : MacRegs s (pauseSettle p (portAt p t s)) := (portAt_regs p t s).only (pauseSettle_stands _ _) (by decide)
  rw [portAt_time] at hport
  refine ⟨only_trans (portAt_stands p t s) (only_mono (pauseSettle_stands _ _) (by decide)), hregs, ?_, fun hw => ?_, ?_, fun n => ?_,
    fun j hj h20 h22 => ?_⟩
  · rw [hport]
    exact (congrArg MacPort.busyUntil hrest :)
  · refine congrArg (64 * ·) (byteTime_of ((hregs hw).2 _ (macStands_MAC_CFG p)) ?_)
    rw [hport]
    exact (congrArg MacPort.rate hrest :)
  · rw [hport]
    exact congrArg (fun x => pauseExpire _ x.pause) hrest
  · rw [hport, vGet_vMap _ _ _ _ _ n.isLt]
    exact congrArg (fun x => pauseExpire _ (vGet x.classes n Pause.none_)) hrest
  · rw [hport]
    exact (htally j hj h22).trans ((portAt_port p t s).tally j hj (by simpa using h20))

end Sys2Proof.Proofs
end

section
/-! Tally counters: reading one, and Teller's reading of all (R456, R457). -/

namespace Sys2Proof.Proofs

open Sys2Proof.Machine Sys2Proof.Safety Sys2Proof.Laws

theorem vGet_mapIdx {α β : Type} {n : Nat} (v : Vector α n) (f : Nat → α → β) {j : Nat} (a : α) (b : β) (hj : j < n) :
    vGet (v.mapIdx f) j b = f j (vGet v j a) := by
  simp only [vGet, Vector.getElem?_mapIdx]
  rw [Vector.getElem?_eq_getElem hj]
  rfl

theorem tallyRead_reads (p : Fin 11) (i : Fin 24) (w : State) : vGet (portOf (tallyRead p i w) p).tally i 0 = 0 ∧
    (tallyRead p i w).regs.lastRead = some (R.MAC_TALLYi_LO p i, loWord (vGet (portOf w p).tally i 0 : Nat)) ∧
    aFind (tallyRead p i w).regs.latched (R.MAC_TALLYi_HI p i) = some (hiWord (vGet (portOf w p).tally i 0 : Nat)) ∧
    ∀ j : Fin 24, j ≠ i → vGet (portOf (tallyRead p i w) p).tally j 0 = vGet (portOf w p).tally j 0 := by
  refine ⟨?_, rfl, (aFind_aPut _ _ _ _).trans (if_pos rfl), fun j hj => ?_⟩
  · rw [tally_tallyRead, if_pos rfl]
  · rw [tally_tallyRead, if_neg fun e => hj (congrArg Prod.snd e)]

/-- From port `x` to port `y` Teller has read every counter into its accumulators (R457). -/
structure Gathered (x y : MacPort) : Prop where
  cleared : ∀ i : Fin 24, vGet y.tally i 0 = 0
  added : ∀ i : Fin 24, i.val ≠ 20 → i.val ≠ 22 → vGet y.acc i 0 = min 18446744073709551615 (vGet x.acc i 0 + vGet x.tally i 0)

theorem tallyGather_same (p : Fin 11) (s : State) : Gathered (portOf s p) (portOf (tallyGather s p) p) := by
  obtain ⟨from_, tally, hport, htally⟩ := pauseSettle_port p (tsqSettle p s)
  have hsettled := tsqSettle_port p s
  have hacc : (portOf (tsqSettle p s) p).acc = (portOf s p).acc := (congrArg MacPort.acc hsettled.rest :)
  unfold tallyGather
  rw [portOf_modPort_same, hport]
  refine ⟨fun i => ?_, fun i h20 h22 => ?_⟩
  · simp [vGet]
  · rw [← hsettled.tally i i.isLt (by simpa using h20), ← htally i i.isLt h22, ← hacc]
    exact vGet_mapIdx _ _ 0 0 i.isLt

theorem tallyGather_other {p : Fin 11} {q : Nat} (h : p.val ≠ q) (s : State) : portOf (tallyGather s q) p = portOf s p := by
  unfold tallyGather
  rw [portOf_modPort_other h, pauseSettle_other h, tsqSettle_other h]

theorem tallyGather_foldl_other {p : Fin 11} {l : List Nat} (h : p.val ∉ l) (s : State) : portOf (l.foldl tallyGather s) p = portOf s p := by
  induction l generalizing s with
  | nil => rfl
  | cons q r ih =>
    obtain ⟨hq, hr⟩ := not_or.mp (mt List.mem_cons.mpr h)
    rw [List.foldl_cons, ih hr, tallyGather_other hq]

theorem tallyGather_foldl_same {p : Fin 11} {l : List Nat} (h : p.val ∈ l) (hl : l.Nodup) (s : State) :
    Gathered (portOf s p) (portOf (l.foldl tallyGather s) p) := by
  induction l generalizing s with
  | nil => cases h
  | cons q r ih =>
    obtain ⟨hq, hr⟩ := List.nodup_cons.mp hl
    rw [List.foldl_cons]
    by_cases hp : p.val = q
    · subst hp
      rw [tallyGather_foldl_other hq]
      exact tallyGather_same p s
    · rw [← tallyGather_other hp s]
      exact ih (List.mem_of_ne_of_mem hp h) hr _

theorem tallyAccumulate_goes {t : Nat} {p : Fin 11} {s : State} (hrun : tellerRuns s = true) :
    Goes (.tallyAccumulate t) s fun x => Only [.regs, .time, .teller, .mac] s x ∧
      (domainUp s (portDomain p) = true → Gathered (portOf s p) (portOf x p)) ∧ (domainUp s (portDomain p) = false → portOf x p = portOf s p) := by
  obtain ⟨l, hl⟩ : ∃ l, l = (List.range 11).filter (fun p => domainUp (advance t s) (portDomain p)) := ⟨_, rfl⟩
  have hexec : exec (.tallyAccumulate t) s = .next (l.foldl tallyGather (advance t s)) := by
    rw [hl]
    exact if_pos ((advance_tellerRuns t s).trans hrun)
  have honly : OutOnly [.regs, .time, .teller, .mac] s (exec (.tallyAccumulate t) s) := execTallyAccumulate_only (List.Subset.refl _) (only_refl _ _)
  refine ⟨_, hexec, honly.only _ hexec, fun hup => ?_, fun hoff => ?_⟩
  · rw [← portOf_advance t s p]
    refine tallyGather_foldl_same ?_ (hl ▸ List.nodup_range.filter _) _
    rw [hl, List.mem_filter, advance_domainUp]
    exact ⟨List.mem_range.mpr p.isLt, hup⟩
  · refine (tallyGather_foldl_other (fun hp => ?_) _).trans (portOf_advance t s p)
    rw [hl, List.mem_filter, advance_domainUp, hoff] at hp
    cases hp.2

end Sys2Proof.Proofs
end

section
/-! Pauses: frames of MAC Control, the end of a pause, the watchdog and the end of its ignoring (R443 to R446). -/

namespace Sys2Proof.Proofs

open Sys2Proof.Machine Sys2Proof.Safety Sys2Proof.Laws

/-! Frames of MAC Control on a state whose pauses have been settled. -/

/-- paused_us begins: nothing else of the port moves (R456). -/
theorem pausedStart_port (p : Fin 11) (s : State) : ∃ from_, portOf (pausedStart p s) p = { portOf s p with pausedFrom := from_ } := by
  unfold pausedStart
  dsimp only
  split
  · exact ⟨_, rfl⟩
  · exact ⟨_, portOf_modPort_same p _ s⟩

/-- The end of PAUSE with its last class moves nothing else (R444). -/
theorem pauseOver_rest (x : MacPort) : (pauseOver x).classes = x.classes ∧ (pauseOver x).tally = x.tally := by
  unfold pauseOver
  split <;> exact ⟨rfl, rfl⟩

section

variable {p : Fin 11} {w : State} {en : Nat} {qs : List Nat}

/-- A PAUSE frame on a port that takes PAUSE and ignores none (R443, R444). -/
theorem pauseReceived_whole (hon : bitOf (reg w (R.MAC_CFG p)) 8 = true) (hpfc : bitOf (reg w (R.MAC_CFG p)) 9 = false)
    (hheard : (portOf w p).pause.ignore ≤ w.time.now) : ∃ from_, portOf (pauseReceived p 0x0001 en qs w) p = { portOf (tallyUp p 10 w) p with
      pause := pauseSet (w.time.now * 100) (portOf w p).busyUntil (quantumTime w p) (qs.headD 0) (portOf w p).pause
      classes := vMap (portOf w p).classes (fun c =>
        { pauseSet (w.time.now * 100) (portOf w p).busyUntil (quantumTime w p) (qs.headD 0) c with whole := true })
      pausedFrom := from_ } := by
  unfold pauseReceived
  dsimp only
  rw [if_pos rfl, if_neg (by simp [hon, hpfc]), if_neg (Nat.not_lt.mpr hheard)]
  obtain ⟨from_, hport⟩ := pausedStart_port p (modPort p (fun y => { y with
    pause := pauseSet (w.time.now * 100) (portOf w p).busyUntil (quantumTime w p) (qs.headD 0) y.pause
    classes := vMap y.classes (fun c =>
      { pauseSet (w.time.now * 100) (portOf w p).busyUntil (quantumTime w p) (qs.headD 0) c with whole := true }) }) (tallyUp p 10 w))
  rw [hport, portOf_modPort_same]
  unfold tallyUp tallyBy
  rw [portOf_modPort_same]
  exact ⟨from_, rfl⟩

/-- A PAUSE frame on a port that takes none (R443). -/
theorem pauseReceived_deaf (hdeaf : bitOf (reg w (R.MAC_CFG p)) 8 = false ∨ bitOf (reg w (R.MAC_CFG p)) 9 = true) :
    pauseReceived p 0x0001 en qs w = tallyUp p 10 w := by
  unfold pauseReceived
  dsimp only
  rw [if_pos rfl, if_pos hdeaf]

/-- A PFC frame on a port that takes PFC (R443, R444). -/
theorem pauseReceived_classes (hpfc : bitOf (reg w (R.MAC_CFG p)) 9 = true) :
    vGet (portOf (pauseReceived p 0x0101 en qs w) p).tally 11 0 = min 18446744073709551615 (vGet (portOf w p).tally 11 0 + 1) ∧
    ∀ (n : Fin 8) (c : Pause), c = vGet (portOf w p).classes n Pause.none_ →
      vGet (portOf (pauseReceived p 0x0101 en qs w) p).classes n Pause.none_ =
        if nBit en n = true ∧ bitOf (reg w (R.MAC_CFG p)) (16 + n) = true ∧ c.ignore ≤ w.time.now
        then { pauseSet (w.time.now * 100) (portOf w p).busyUntil (quantumTime w p) (qs.getD n 0) c with whole := false } else c := by
  obtain ⟨named, hnamed⟩ : ∃ l, l = (List.range 8).filter (fun n => nBit en n && bitOf (reg w (R.MAC_CFG p)) (16 + n)) := ⟨_, rfl⟩
  obtain ⟨act, hact⟩ : ∃ l, l = named.filter (fun n => decide ((vGet (portOf w p).classes n Pause.none_).ignore ≤ w.time.now)) := ⟨_, rfl⟩
  obtain ⟨y, hy⟩ : ∃ y, y = if act.length < named.length then tallyUp p 13 (tallyUp p 11 w) else tallyUp p 11 w := ⟨_, rfl⟩
  have hport : ∃ from_, portOf (pauseReceived p 0x0101 en qs w) p = { pauseOver { portOf y p with
      classes := (portOf y p).classes.mapIdx (fun n c => if act.contains n then
        { pauseSet (w.time.now * 100) (portOf w p).busyUntil (quantumTime w p) (qs.getD n 0) c with whole := false } else c) } with pausedFrom := from_ } := by
    unfold pauseReceived
    dsimp only
    rw [if_neg (by decide), if_pos rfl, if_neg (by simp [hpfc]), ← hnamed, ← hact, ← hy]
    have hstart := pausedStart_port p (modPort p (fun y => pauseOver { y with
      classes := y.classes.mapIdx (fun n c => if act.contains n then
        { pauseSet (w.time.now * 100) (portOf w p).busyUntil (quantumTime w p) (qs.getD n 0) c with whole := false } else c) }) y)
    rwa [portOf_modPort_same] at hstart
  have hfirst : (portOf (tallyUp p 11 w) p).classes = (portOf w p).classes := by
    unfold tallyUp tallyBy
    rw [portOf_modPort_same]
  have hclasses : (portOf y p).classes = (portOf w p).classes := by
    rw [hy]
    refine keep_ite (P := fun x => (portOf x p).classes = (portOf w p).classes) (.trans ?_ hfirst) hfirst
    unfold tallyUp tallyBy
    rw [portOf_modPort_same]
  have htally : vGet (portOf y p).tally 11 0 = min 18446744073709551615 (vGet (portOf w p).tally 11 0 + 1) := by
    have hup : vGet (portOf (tallyUp p 11 w) p).tally 11 0 = min 18446744073709551615 (vGet (portOf w p).tally 11 0 + 1) :=
      tally_tallyUp p (by decide) rfl
    rw [hy]
    exact keep_ite (P := fun x => vGet (portOf x p).tally 11 0 = min 18446744073709551615 (vGet (portOf w p).tally 11 0 + 1))
      ((tally_tallyBy p 13 1 _ (by decide)).trans hup) hup
  obtain ⟨from_, hport⟩ := hport
  rw [hport]
  refine ⟨?_, ?_⟩
  · exact (congrArg (fun v => vGet v 11 0) (pauseOver_rest _).2).trans htally
  · rintro n _ rfl
    refine (congrArg (fun v => vGet v n Pause.none_) (pauseOver_rest _).1).trans ((vGet_mapIdx _ _ Pause.none_ _ n.isLt).trans ?_)
    rw [hclasses]
    refine if_congr ?_ rfl rfl
    simp [hact, hnamed, n.isLt, and_comm, and_left_comm]

theorem pauseReceived_other {op : Nat} (hpause : op ≠ 0x0001) (hpfc : op ≠ 0x0101) : pauseReceived p op en qs w = tallyUp p 12 w := by
  unfold pauseReceived
  dsimp only
  rw [if_neg hpause, if_neg hpfc]

end

/-! The events. -/

section

variable {p : Fin 11} {t : Nat} {s : State} {en : Nat} {qs : List Nat}

theorem pauseFrameReceived_down {op : Nat} (hdown : (portOf s p).link ≠ .up) : exec (.pauseFrameReceived t p op en qs) s = .next (portAt p t s) :=
  if_neg fun hup => hdown ((portAt_link p t s).symm.trans hup)

section

variable (hup : (portOf s p).link = .up)

include hup

theorem pauseFrameReceived_up (op : Nat) :
    exec (.pauseFrameReceived t p op en qs) s = .next (pauseReceived p op en qs (pauseSettle p (portAt p t s))) :=
  if_pos ((portAt_link p t s).trans hup)

theorem pauseFrameReceived_other {op : Nat} (hpause : op ≠ 0x0001) (hpfc : op ≠ 0x0101) : Goes (.pauseFrameReceived t p op en qs) s fun x =>
    vGet (portOf x p).tally 12 0 = min 18446744073709551615 (vGet (portOf s p).tally 12 0 + 1) := by
  refine ⟨_, pauseFrameReceived_up hup op, ?_⟩
  rw [pauseReceived_other hpause hpfc]
  exact tally_tallyUp p (by decide) ((pauseSettle_settled p t s).tally 12 (by decide) (by decide) (by decide))

variable (hw : RegsWf s.regs)

include hw

theorem pauseFrameReceived_whole (hon : bitOf (reg s (R.MAC_CFG p)) 8 = true) (hpfc : bitOf (reg s (R.MAC_CFG p)) 9 = false)
    (hheard : (portOf s p).pause.ignore ≤ (advance t s).time.now) : Goes (.pauseFrameReceived t p 0x0001 en qs) s fun x =>
      (portOf x p).pause = pauseSet ((advance t s).time.now * 100) (portOf s p).busyUntil (quantumTime s p) (qs.headD 0)
        (pauseExpire (advance t s).time.now (portOf s p).pause) ∧
      (∀ n : Fin 8, vGet (portOf x p).classes n Pause.none_ = { pauseSet ((advance t s).time.now * 100) (portOf s p).busyUntil (quantumTime s p)
        (qs.headD 0) (pauseExpire (advance t s).time.now (vGet (portOf s p).classes n Pause.none_)) with whole := true }) ∧
      vGet (portOf x p).tally 10 0 = min 18446744073709551615 (vGet (portOf s p).tally 10 0 + 1) := by
  have hset := pauseSettle_settled p t s
  refine ⟨_, pauseFrameReceived_up hup _, ?_⟩
  generalize pauseSettle p (portAt p t s) = w at hset
  have hcfg : reg w (R.MAC_CFG p) = reg s (R.MAC_CFG p) := (hset.regs hw).2 _ (macStands_MAC_CFG p)
  have hignore : (portOf w p).pause.ignore ≤ w.time.now := by
    rw [hset.pause, hset.time]
    unfold pauseExpire
    split <;> exact hheard
  obtain ⟨from_, hport⟩ := pauseReceived_whole (en := en) (qs := qs) (hcfg ▸ hon) (hcfg ▸ hpfc) hignore
  rw [hport, hset.time, hset.busy, hset.quantum hw, hset.pause]
  refine ⟨rfl, fun n => ?_, ?_⟩
  · rw [← hset.classes n]
    exact vGet_vMap _ _ _ _ _ n.isLt
  · exact tally_tallyUp p (by decide) (hset.tally 10 (by decide) (by decide) (by decide))

theorem pauseFrameReceived_deaf (hdeaf : bitOf (reg s (R.MAC_CFG p)) 8 = false ∨ bitOf (reg s (R.MAC_CFG p)) 9 = true) :
    Goes (.pauseFrameReceived t p 0x0001 en qs) s fun x => (portOf x p).pause = pauseExpire (advance t s).time.now (portOf s p).pause ∧
      vGet (portOf x p).tally 10 0 = min 18446744073709551615 (vGet (portOf s p).tally 10 0 + 1) := by
  have hset := pauseSettle_settled p t s
  refine ⟨_, pauseFrameReceived_up hup _, ?_⟩
  generalize pauseSettle p (portAt p t s) = w at hset
  rw [pauseReceived_deaf (by rwa [(hset.regs hw).2 _ (macStands_MAC_CFG p)]), ← hset.pause]
  refine ⟨?_, tally_tallyUp p (by decide) (hset.tally 10 (by decide) (by decide) (by decide))⟩
  unfold tallyUp tallyBy
  rw [portOf_modPort_same]

theorem pauseFrameReceived_classes (hpfc : bitOf (reg s (R.MAC_CFG p)) 9 = true) : Goes (.pauseFrameReceived t p 0x0101 en qs) s fun x =>
    vGet (portOf x p).tally 11 0 = min 18446744073709551615 (vGet (portOf s p).tally 11 0 + 1) ∧ ∀ (n : Fin 8) (c : Pause),
      c = pauseExpire (advance t s).time.now (vGet (portOf s p).classes n Pause.none_) → vGet (portOf x p).classes n Pause.none_ =
        if nBit en n = true ∧ bitOf (reg s (R.MAC_CFG p)) (16 + n) = true ∧ c.ignore ≤ (advance t s).time.now
        then { pauseSet ((advance t s).time.now * 100) (portOf s p).busyUntil (quantumTime s p) (qs.getD n 0) c with whole := false } else c := by
  have hset := pauseSettle_settled p t s
  refine ⟨_, pauseFrameReceived_up hup _, ?_⟩
  generalize pauseSettle p (portAt p t s) = w at hset
  have hcfg : reg w (R.MAC_CFG p) = reg s (R.MAC_CFG p) := (hset.regs hw).2 _ (macStands_MAC_CFG p)
  obtain ⟨htally, hclasses⟩ := pauseReceived_classes (en := en) (qs := qs) (hcfg ▸ hpfc)
  rw [hcfg, hset.time, hset.busy, hset.quantum hw] at hclasses
  exact ⟨htally.trans (by rw [hset.tally 11 (by decide) (by decide) (by decide)]), fun n c hc => hclasses n c (hc.trans (hset.classes n).symm)⟩

end

theorem pauseEnd_ends : Goes (.pauseEnd t p) s fun x => Only [.regs, .time, .teller, .mac] s x ∧
    (portOf x p).pause = pauseExpire (advance t s).time.now (portOf s p).pause ∧
    ∀ n : Fin 8, vGet (portOf x p).classes n Pause.none_ = pauseExpire (advance t s).time.now (vGet (portOf s p).classes n Pause.none_) := by
  have hset := pauseSettle_settled p t s
  exact ⟨_, rfl, only_trans (advance_only (by decide) (only_refl _ _)) (only_mono hset.stands (by decide)), hset.pause, hset.classes⟩

end

end Sys2Proof.Proofs
end

section
/-! A pause that lasts too long, and the end of the time in which pauses are ignored after it (R446). -/

namespace Sys2Proof.Proofs

open Sys2Proof.Machine Sys2Proof.Safety Sys2Proof.Laws

/-! Pause times that run out leave what the watchdog judges. -/

theorem pauseExpire_ignore (now : Nat) (x : Pause) : (pauseExpire now x).ignore = x.ignore := by
  unfold pauseExpire
  split <;> rfl

theorem pauseExpire_whole (now : Nat) (x : Pause) : (pauseExpire now x).whole = x.whole := by
  unfold pauseExpire
  split <;> rfl

theorem pauseExpire_over {now : Nat} {x : Pause} (h : x.stop = 0) : (pauseExpire now x).stop = 0 := by
  unfold pauseExpire
  split
  · rfl
  · exact h

theorem pauseTooLong_pauseExpire (limit now : Nat) (x : Pause) : pauseTooLong limit now (pauseExpire now x) = pauseTooLong limit now x := by
  unfold pauseExpire
  split
  case isTrue h => simp [pauseTooLong, Nat.not_lt.mpr h]
  case isFalse => rfl

/-! The notice of a storm. -/

/-- The port's flag of a storm is set, and a notice of a storm has been offered to the Ledger. -/
structure Stormed (p : Nat) (s : State) : Prop where
  wf : RegsWf s.regs
  flag : bitOf (reg s (R.MAC_INT_STAT p)) 1 = true
  offer : ∃ o ∈ s.teller.ledgerOffers, o.1 = 0x8251

theorem stormNotice_stormed (p classes state ms : Nat) {s : State} (hw : RegsWf s.regs) : Stormed p (stormNotice p classes state ms s) where
  wf := notify_wf _ _ _ (setFlag_wf _ _ hw)
  flag := by
    have hoff : ∀ a ∈ noticeRegs, a % 0x10000 ≠ 0x40 := by decide
    unfold stormNotice
    rw [notify_reg (setFlag_wf _ _ hw) _ _ _ fun hn => hoff _ hn (by unfold R.MAC_INT_STAT; omega)]
    exact setFlag_shows hw (by decide)
  offer := ⟨_, (notify_told _ _ _ _).offered ▸ List.mem_append_right _ (List.mem_singleton_self _), rfl⟩

@[simp] theorem portOf_stormNotice (p classes state ms : Nat) (s : State) (q : Nat) : portOf (stormNotice p classes state ms s) q = portOf s q :=
  portOf_notify ..

/-- What changes neither a register nor Teller leaves the storm told. -/
theorem Stormed.same {p : Nat} {s t : State} (h : Stormed p s) (hr : t.regs = s.regs) (ht : t.teller = s.teller) : Stormed p t :=
  ⟨by rw [hr]; exact h.wf, by rw [reg_of hr]; exact h.flag, by rw [ht]; exact h.offer⟩

/-! The watchdog, on a state `s` whose pauses have been settled. -/

/-- The watchdog's judgement of a pause by MAC_WD. -/
def stormLong (p : Nat) (s : State) (x : Pause) : Bool := pauseTooLong (bits (reg s (R.MAC_WD p)) 15 0) s.time.now x

/-- A pause that it ends, and for how long pauses are ignored from then on. -/
def stormTrip (p : Nat) (s : State) (x : Pause) : Pause := pauseTrip s.time.now (bits (reg s (R.MAC_WD p)) 31 16) x

/-- The classes that PAUSE has paused for too long. -/
def stormWholes (p : Nat) (s : State) : List Pause := (portOf s p).classes.toList.filter (fun c => c.whole && stormLong p s c)

/-- The classes that PFC has paused for too long. -/
def stormNamed (p : Nat) (s : State) : List Nat := (List.range 8).filter (fun n =>
  stormLong p s (vGet (portOf s p).classes n Pause.none_) && !(vGet (portOf s p).classes n Pause.none_).whole)

/-- PAUSE ends. -/
def stormWhole (p : Nat) (s : State) : State :=
  if stormLong p s (portOf s p).pause = true ∨ stormWholes p s ≠ [] then
    let ms := ((stormWholes p s).map (fun c => (pauseTrip s.time.now 0 c).lasted)).foldl max
      (if 0 < (portOf s p).pause.stop then (stormTrip p s (portOf s p).pause).lasted else 0)
    stormNotice p 0xFF 0 ms (tallyUp p 23 (modPort p (fun z => { z with
      pause := { stormTrip p s (portOf s p).pause with lasted := ms }, classes := vMap z.classes wholeEnd }) s))
  else s

/-- The classes end that PFC has paused, as judged at `s`. -/
def stormClasses (p : Nat) (s y : State) : State :=
  if stormNamed p s = [] then y
  else
    let ms := ((stormNamed p s).map (fun n => (stormTrip p s (vGet (portOf s p).classes n Pause.none_)).lasted)).foldl max 0
    stormNotice p (classMask (stormNamed p s)) 0 ms (tallyBy p 23 (stormNamed p s).length (modPort p (fun z => { z with
      classes := z.classes.mapIdx (fun n c => if (stormNamed p s).contains n then stormTrip p s c else c) }) y))

theorem watchdogTrip_eq (p : Nat) (s : State) :
    watchdogTrip p s = pauseSettle p (stormClasses p (pauseSettle p s) (stormWhole p (pauseSettle p s))) := rfl

section

variable {p : Fin 11} {s : State}

theorem stormWhole_due (hdue : stormLong p s (portOf s p).pause = true ∨ stormWholes p s ≠ []) :
    (portOf (stormWhole p s) p).pause.stop = 0 ∧
    (portOf (stormWhole p s) p).pause.ignore = s.time.now + max 1 (bits (reg s (R.MAC_WD p)) 31 16) * 1000000 ∧
    (portOf (stormWhole p s) p).classes = vMap (portOf s p).classes wholeEnd ∧ (RegsWf s.regs → Stormed p (stormWhole p s)) := by
  unfold stormWhole tallyUp tallyBy
  rw [if_pos hdue, portOf_stormNotice, portOf_modPort_same, portOf_modPort_same]
  exact ⟨rfl, rfl, rfl, fun hw => stormNotice_stormed _ _ _ _ hw⟩

/-- A class that PFC has paused is none of PAUSE's. -/
theorem stormWhole_named (n : Fin 8) (hnamed : (vGet (portOf s p).classes n Pause.none_).whole = false) :
    vGet (portOf (stormWhole p s) p).classes n Pause.none_ = vGet (portOf s p).classes n Pause.none_ := by
  by_cases hdue : stormLong p s (portOf s p).pause = true ∨ stormWholes p s ≠ []
  · obtain ⟨-, -, hclasses, -⟩ := stormWhole_due hdue
    rw [hclasses, vGet_vMap _ _ _ Pause.none_ _ n.isLt, wholeEnd, hnamed]
    rfl
  · unfold stormWhole
    rw [if_neg hdue]

theorem stormWhole_wf (hw : RegsWf s.regs) : RegsWf (stormWhole p s).regs :=
  keep_ite (P := fun x => RegsWf x.regs) (stormNotice_stormed _ _ _ _ (s := tallyUp p 23 (modPort p _ s)) hw).wf hw

theorem mem_stormNamed (n : Fin 8) : n.val ∈ stormNamed p s ↔ stormLong p s (vGet (portOf s p).classes n Pause.none_) = true ∧
    (vGet (portOf s p).classes n Pause.none_).whole = false := by
  simp [stormNamed, n.isLt]

theorem stormClasses_port (y : State) : (portOf (stormClasses p s y) p).pause = (portOf y p).pause ∧ ∀ n : Fin 8,
    vGet (portOf (stormClasses p s y) p).classes n Pause.none_ =
      if n.val ∈ stormNamed p s then stormTrip p s (vGet (portOf y p).classes n Pause.none_) else vGet (portOf y p).classes n Pause.none_ := by
  unfold stormClasses tallyBy
  split
  case isTrue h =>
    rw [h]
    exact ⟨rfl, fun n => rfl⟩
  case isFalse h =>
    rw [portOf_stormNotice, portOf_modPort_same, portOf_modPort_same]
    refine ⟨rfl, fun n => (vGet_mapIdx _ _ Pause.none_ _ n.isLt).trans (if_congr ?_ rfl rfl)⟩
    exact List.contains_iff_mem

theorem stormClasses_stormed {y : State} (hw : RegsWf y.regs) (h : Stormed p y ∨ stormNamed p s ≠ []) : Stormed p (stormClasses p s y) := by
  unfold stormClasses
  split
  case isTrue hnil => exact h.resolve_right (not_not.mpr hnil)
  case isFalse => exact stormNotice_stormed _ _ _ _ hw

end

/-- The watchdog's step at a state with settled pauses: PAUSE, then the classes of PFC, each by its own judgement. -/
theorem storm_trips {p : Fin 11} {w x : State} (hw : RegsWf w.regs) (hx : x = pauseSettle p (stormClasses p w (stormWhole p w))) :
    (stormLong p w (portOf w p).pause = true → (portOf x p).pause.stop = 0 ∧
      (portOf x p).pause.ignore = w.time.now + max 1 (bits (reg w (R.MAC_WD p)) 31 16) * 1000000 ∧ Stormed p x) ∧
    ∀ n : Fin 8, stormLong p w (vGet (portOf w p).classes n Pause.none_) = true →
      (vGet (portOf x p).classes n Pause.none_).stop = 0 ∧ Stormed p x ∧
      (if (vGet (portOf w p).classes n Pause.none_).whole then (portOf x p).pause.ignore else (vGet (portOf x p).classes n Pause.none_).ignore) =
        w.time.now + max 1 (bits (reg w (R.MAC_WD p)) 31 16) * 1000000 := by
  obtain ⟨y, hy⟩ : ∃ y, y = stormWhole p w := ⟨_, rfl⟩
  obtain ⟨z, hz⟩ : ∃ z, z = stormClasses p w y := ⟨_, rfl⟩
  have hwy : RegsWf y.regs := hy ▸ stormWhole_wf hw
  obtain ⟨hpause, hclasses⟩ := stormClasses_port (p := p) (s := w) y
  rw [← hz] at hpause hclasses
  rw [← hy, ← hz] at hx
  have hstands := pauseSettle_stands p z
  have hstormed : Stormed p y ∨ stormNamed p w ≠ [] → Stormed p x := fun h =>
    hx ▸ (hz ▸ stormClasses_stormed hwy h : Stormed p z).same (hstands.2.2 .regs (by decide)) (hstands.2.2 .teller (by decide))
  obtain ⟨from_, tally, hport, -⟩ := pauseSettle_port p z
  rw [← hx] at hport
  have hxpause : (portOf x p).pause = pauseExpire z.time.now (portOf y p).pause := by rw [hport, hpause]
  have hxclass (n : Fin 8) : vGet (portOf x p).classes n Pause.none_ = pauseExpire z.time.now (vGet (portOf z p).classes n Pause.none_) := by
    rw [hport]
    exact vGet_vMap _ _ _ _ _ n.isLt
  refine ⟨fun hlong => ?_, fun n hlong => ?_⟩
  · obtain ⟨hstop, hignore, -, htold⟩ := stormWhole_due (p := p) (s := w) (.inl hlong)
    rw [← hy] at hstop hignore htold
    rw [hxpause, pauseExpire_ignore]
    exact ⟨pauseExpire_over hstop, hignore, hstormed (.inl (htold hw))⟩
  · by_cases hwhole : (vGet (portOf w p).classes n Pause.none_).whole = true
    · have hmem : vGet (portOf w p).classes n Pause.none_ ∈ stormWholes p w := by
        refine List.mem_filter.mpr ⟨?_, by rw [hwhole, hlong]; rfl⟩
        unfold vGet
        rw [Vector.getElem?_eq_getElem n.isLt]
        exact Vector.mem_toList_iff.mpr (Vector.getElem_mem n.isLt)
      obtain ⟨-, hignore, hends, htold⟩ := stormWhole_due (p := p) (s := w) (.inr (List.ne_nil_of_mem hmem))
      rw [← hy] at hignore hends htold
      have hnot : n.val ∉ stormNamed p w := fun h => by
        rw [((mem_stormNamed n).mp h).2] at hwhole
        cases hwhole
      rw [if_pos hwhole, hxpause, pauseExpire_ignore, hxclass, hclasses, if_neg hnot, hends, vGet_vMap _ _ _ Pause.none_ _ n.isLt, wholeEnd,
        if_pos hwhole]
      exact ⟨pauseExpire_over rfl, hstormed (.inl (htold hw)), hignore⟩
    · have hmem : n.val ∈ stormNamed p w := (mem_stormNamed n).mpr ⟨hlong, by simpa using hwhole⟩
      rw [if_neg hwhole, hxclass, hclasses, if_pos hmem, hy, stormWhole_named n (by simpa using hwhole), pauseExpire_ignore]
      exact ⟨pauseExpire_over rfl, hstormed (.inr (List.ne_nil_of_mem hmem)), rfl⟩

theorem pauseWatchdogTrip_trips {t : Nat} {p : Fin 11} {s : State} (hw : RegsWf s.regs) : ∃ x, exec (.pauseWatchdogTrip t p) s = .next x ∧
    (pauseTooLong (bits (reg s (R.MAC_WD p)) 15 0) (advance t s).time.now (portOf s p).pause = true → (portOf x p).pause.stop = 0 ∧
      (portOf x p).pause.ignore = (advance t s).time.now + max 1 (bits (reg s (R.MAC_WD p)) 31 16) * 1000000 ∧
      bitOf (reg x (R.MAC_INT_STAT p)) 1 = true ∧ ∃ o ∈ x.teller.ledgerOffers, o.1 = 0x8251) ∧
    ∀ n : Fin 8, pauseTooLong (bits (reg s (R.MAC_WD p)) 15 0) (advance t s).time.now (vGet (portOf s p).classes n Pause.none_) = true →
      (vGet (portOf x p).classes n Pause.none_).stop = 0 ∧ (∃ o ∈ x.teller.ledgerOffers, o.1 = 0x8251) ∧
      (if (vGet (portOf s p).classes n Pause.none_).whole then (portOf x p).pause.ignore else (vGet (portOf x p).classes n Pause.none_).ignore) =
        (advance t s).time.now + max 1 (bits (reg s (R.MAC_WD p)) 31 16) * 1000000 := by
  have hset := pauseSettle_settled p t s
  have hexec : exec (.pauseWatchdogTrip t p) s = .next (watchdogTrip p (portAt p t s)) := rfl
  rw [watchdogTrip_eq] at hexec
  generalize pauseSettle p (portAt p t s) = w at hset hexec
  obtain ⟨hww, hregs⟩ := hset.regs hw
  obtain ⟨hwhole, hnamed⟩ := storm_trips (p := p) hww rfl
  refine ⟨_, hexec, fun hlong => ?_, fun n hlong => ?_⟩
  · rw [stormLong, hregs _ (macStands_MAC_WD p), hset.time, hset.pause, pauseTooLong_pauseExpire] at hwhole
    obtain ⟨hstop, hignore, htold⟩ := hwhole hlong
    exact ⟨hstop, hignore, htold.flag, htold.offer⟩
  · have hn := hnamed n
    rw [stormLong, hregs _ (macStands_MAC_WD p), hset.time, hset.classes, pauseTooLong_pauseExpire, pauseExpire_whole] at hn
    obtain ⟨hstop, htold, hignore⟩ := hn hlong
    exact ⟨hstop, htold.offer, hignore⟩

/-! Pauses are honored again. -/

/-- The time has passed in which a pause is ignored. -/
def ignoreEnds (now : Nat) (c : Pause) : Bool := c.ignore != 0 && decide (c.ignore ≤ now)

/-- Such a pause is honored again. -/
def ignoreOver (now : Nat) (c : Pause) : Pause := if ignoreEnds now c then { c with ignore := 0 } else c

theorem ignoreOver_stop (now : Nat) (c : Pause) : (ignoreOver now c).stop = c.stop := by
  unfold ignoreOver
  split <;> rfl

theorem ignoreOver_ignore (now : Nat) (c : Pause) : (ignoreOver now c).ignore = if c.ignore ≤ now then 0 else c.ignore := by
  unfold ignoreOver ignoreEnds
  by_cases hpast : c.ignore ≤ now
  · by_cases hzero : c.ignore = 0 <;> simp [hpast, hzero]
  · simp [hpast]

/-- The pauses of a port that are honored again, and the notice that PAUSE is. -/
def ignoreWhole (p : Nat) (s : State) : State :=
  let x := modPort p (fun y => { y with classes := vMap y.classes (ignoreOver s.time.now), pause := ignoreOver s.time.now y.pause }) s
  if ignoreEnds s.time.now (portOf s p).pause then stormNotice p 0xFF 1 (portOf s p).pause.lasted x else x

/-- The notice of the classes of PFC follows, if any is honored again. -/
theorem ignoreEnd_eq (p : Nat) (s : State) : ignoreEnd p s = ignoreWhole p s ∨ ∃ classes ms, ignoreEnd p s = stormNotice p classes 1 ms (ignoreWhole p s) := by
  have hend : ignoreEnd p s = if (List.range 8).filter (fun n => ignoreEnds s.time.now (vGet (portOf s p).classes n Pause.none_)) = [] then
      ignoreWhole p s else stormNotice p _ 1 _ (ignoreWhole p s) := rfl
  rw [hend]
  split
  · exact .inl rfl
  · exact .inr ⟨_, _, rfl⟩

theorem ignoreEnd_port (p : Fin 11) (s : State) : (portOf (ignoreEnd p s) p).pause = ignoreOver s.time.now (portOf s p).pause := by
  have hwhole : (portOf (ignoreWhole p s) p).pause = ignoreOver s.time.now (portOf s p).pause := by
    unfold ignoreWhole
    refine keep_ite (P := fun x => (portOf x p).pause = ignoreOver s.time.now (portOf s p).pause) ?_ ?_
    · rw [portOf_stormNotice, portOf_modPort_same]
    · rw [portOf_modPort_same]
  obtain h | ⟨classes, ms, h⟩ := ignoreEnd_eq p s
  · rwa [h]
  · rwa [h, portOf_stormNotice]

/-- Where PAUSE is honored again, the end of its storm is told. -/
theorem ignoreEnd_told {p : Nat} {s : State} (hends : ignoreEnds s.time.now (portOf s p).pause = true) :
    ∃ o ∈ (ignoreEnd p s).teller.ledgerOffers, o.1 = 0x8251 := by
  have htold (classes ms : Nat) (x : State) : ∃ o ∈ (stormNotice p classes 1 ms x).teller.ledgerOffers, o.1 = 0x8251 :=
    ⟨_, (notify_told _ _ _ _).offered ▸ List.mem_append_right _ (List.mem_singleton_self _), rfl⟩
  obtain h | ⟨classes, ms, h⟩ := ignoreEnd_eq p s
  · rw [h, ignoreWhole, if_pos hends]
    exact htold _ _ _
  · rw [h]
    exact htold _ _ _

theorem pauseIgnoreEnd_ends (t : Nat) (p : Fin 11) (s : State) : ∃ x, exec (.pauseIgnoreEnd t p) s = .next x ∧ Only [.regs, .time, .teller, .mac] s x ∧
    (portOf x p).pause.stop = (portOf s p).pause.stop ∧
    (portOf x p).pause.ignore = (if (portOf s p).pause.ignore ≤ (advance t s).time.now then 0 else (portOf s p).pause.ignore) ∧
    ((portOf s p).pause.ignore ≠ 0 → (portOf s p).pause.ignore ≤ (advance t s).time.now → ∃ o ∈ x.teller.ledgerOffers, o.1 = 0x8251) := by
  have hexec : exec (.pauseIgnoreEnd t p) s = .next (ignoreEnd p (portAt p t s)) := rfl
  have honly : OutOnly [.regs, .time, .teller, .mac] s (exec (.pauseIgnoreEnd t p) s) := execPauseIgnoreEnd_only (List.Subset.refl _) (only_refl _ _)
  have hpause : (portOf (portAt p t s) p).pause = (portOf s p).pause := (congrArg MacPort.pause (portAt_port p t s).rest :)
  have htime : (portAt p t s).time.now = (advance t s).time.now := congrArg Time.now (portAt_time p t s)
  refine ⟨_, hexec, honly.only _ hexec, ?_, ?_, fun hset hpast => ignoreEnd_told ?_⟩
  · rw [ignoreEnd_port, ignoreOver_stop, hpause]
  · rw [ignoreEnd_port, ignoreOver_ignore, hpause, htime]
  · rw [hpause, htime, ignoreEnds, decide_eq_true hpast, bne_iff_ne.mpr hset]
    rfl

end Sys2Proof.Proofs
end

section
/-! Received frames: the rings of a port, the consumers' return of descriptors, and the descriptors that a frame fills (R451 to R455). -/

namespace Sys2Proof.Proofs

open Sys2Proof.Machine Sys2Proof.Safety Sys2Proof.Laws

theorem nBit_or_one (n : Nat) : nBit (n ||| 1) 0 = true := by simp [nBit, Nat.or_mod_two_eq_one]

/-- Distinct or not, the value put last at a key is found there, where all the values put there are one. -/
theorem aFind_foldl_put {α β : Type} {key : β → Nat} {val : β → α} {l : List β} {e : β} (he : e ∈ l) (hone : ∀ b ∈ l, key b = key e → val b = val e)
    (m : SMap α) : aFind (l.foldl (fun m b => aPut m (key b) (val b)) m) (key e) = some (val e) := by
  induction l using List.reverseRecOn with
  | nil => cases he
  | append_singleton r b ih =>
    rw [List.foldl_append, List.foldl_cons, List.foldl_nil, aFind_aPut]
    by_cases hkey : key b = key e
    · rw [if_pos hkey, hone b (by simp) hkey]
    · have hne : e ≠ b := fun h => hkey (congrArg key h.symm)
      have hmem : e ∈ r := by simpa [hne] using he
      rw [if_neg hkey, ih hmem fun c hc => hone c (List.mem_append_left _ hc)]

/-! Sizes (R452, R453). -/

theorem chunks_length_le (n : Nat) (l : List (BitVec 8)) : (chunks n l).length ≤ n := by
  induction n generalizing l with
  | zero => exact Nat.le_refl _
  | succ n ih =>
    unfold chunks
    split
    · exact Nat.zero_le _
    · exact Nat.succ_le_succ (ih _)

theorem ringSize_ge (s : State) (p r : Nat) : 64 ≤ ringSize s p r := by
  refine Nat.pow_le_pow_right (n := 2) (i := 6) (by decide) ?_
  unfold clampN
  split
  · exact Nat.le_refl _
  · split <;> omega

/-- The descriptors that one frame fills are distinct (R453). -/
theorem ringIndex_inj {s : State} {p r hw i j : Nat} (hi : i < 8) (hj : j < 8) (h : (hw + i) % ringSize s p r = (hw + j) % ringSize s p r) : i = j := by
  have hsize := ringSize_ge s p r
  have hmod : i ≡ j [MOD ringSize s p r] := Nat.ModEq.add_left_cancel' hw h
  exact hmod.eq_of_lt_of_lt (by omega) (by omega)

/-! The consumer returns descriptors of its ring (R452). -/

/-- From `s` to `u` some descriptors of ring `r` have gone back to hardware, which owned the others already. -/
structure Consumed (p : Fin 11) (r : Nat) (s u : State) : Prop where
  hw : ∀ q : Fin 8, (vGet (portOf u p).rings q ⟨0, []⟩).hw = (vGet (portOf s p).rings q ⟨0, []⟩).hw
  own : ∀ j, ringOwn s p r j = true → ringOwn u p r j = true
  rest : portOf u p = { portOf s p with rings := (portOf u p).rings }
  regs : RegsWf s.regs → ∀ a, a ≠ R.MAC_RRr_PTR p r → reg u a = reg s a
  stands : Only [.regs, .free, .mac] s u
  free : u.free = s.free + 1

/-- Descriptors of `d` that hardware owns stay its own in `m`. -/
def OwnStays (fresh : Nat → RxDesc) (d m : SMap RxDesc) : Prop :=
  ∀ j, nBit ((aFind d j).getD (fresh j)).flags 0 = true → nBit ((aFind m j).getD (fresh j)).flags 0 = true

/-- A descriptor goes back to hardware; one that was never filled is hardware's. -/
def descReturned (m : SMap RxDesc) (k : Nat) : SMap RxDesc :=
  match aFind m k with
  | some x => aPut m k { x with flags := x.flags ||| 1 }
  | none => m

theorem ownStays_returned {fresh : Nat → RxDesc} (d : SMap RxDesc) (key : Nat → Nat) (l : List Nat) :
    OwnStays fresh d (l.foldl (fun m i => descReturned m (key i)) d) := by
  induction l using List.reverseRecOn with
  | nil => exact fun _ h => h
  | append_singleton r i ih =>
    intro j hj
    rw [List.foldl_append, List.foldl_cons, List.foldl_nil, descReturned]
    split
    · rw [aFind_aPut]
      split
      · exact nBit_or_one _
      · exact ih j hj
    · exact ih j hj

theorem ringConsumed_consumed (p : Fin 11) (r : Nat) (s : State) : Consumed p r s (ringConsumed p r s) := by
  obtain ⟨sw, hsw⟩ : ∃ sw, ringConsumed p r s = draw (ringReturn p r sw s) := ⟨_, rfl⟩
  obtain ⟨n, old, hport⟩ : ∃ n old, portOf (ringReturn p r sw s) p = { portOf s p with rings := vMod (portOf s p).rings r (fun g => { g with
      desc := (List.range n).foldl (fun m i => descReturned m ((old + i) % ringSize s p r)) g.desc }) } := ⟨_, _, portOf_modPort_same p _ _⟩
  have hrings (q : Nat) (hq : q < 8) := congrArg (fun x : MacPort => vGet x.rings q ⟨0, []⟩) hport
  refine ⟨fun q => ?_, fun j hj => ?_, ?_, fun hw a ha => ?_, ringConsumed_only (List.Subset.refl _) (only_refl _ _), rfl⟩
  all_goals rw [hsw]
  · refine (congrArg RxRing.hw ((hrings q q.isLt).trans (vGet_vMod _ _ _ _ _ q.isLt))).trans ?_
    split <;> rfl
  · by_cases hr : r < 8
    · have hring := (hrings r hr).trans ((vGet_vMod _ _ _ _ _ hr).trans (if_pos rfl))
      show nBit ((aFind (vGet (portOf (ringReturn p r sw s) p).rings r ⟨0, []⟩).desc j).getD (freshDesc p r j)).flags 0 = true
      rw [hring]
      exact ownStays_returned (fresh := freshDesc p r) _ _ _ j hj
    · have hout (v : Vector RxRing 8) : vGet v r ⟨0, []⟩ = ⟨0, []⟩ := by
        unfold vGet
        rw [Vector.getElem?_eq_none (Nat.not_lt.mp hr)]
        rfl
      unfold ringOwn ringDesc at hj ⊢
      rwa [hout] at hj ⊢
  · rw [show portOf (draw (ringReturn p r sw s)) p = _ from hport]
  · exact (reg_setReg hw _ _ _).trans (if_neg (Ne.symm ha))

/-! A frame in its ring. -/

section

variable {p : Fin 11} {r rule : Nat} {f : RxFrame} {s : State}

theorem ringFill_port (own : Bool) (parts : List (List (BitVec 8))) : portOf (ringFill p r rule f own parts s) p = { portOf s p with
    rings := vMod (portOf s p).rings r (fun g => {
      hw := if own then (vGet (portOf s p).rings r ⟨0, []⟩).hw else ((vGet (portOf s p).rings r ⟨0, []⟩).hw + (chunks 8 f.bytes).length) % ringSize s p r
      desc := (parts.mapIdx (fun i l => (i, l))).foldl (fun m e => aPut m (((vGet (portOf s p).rings r ⟨0, []⟩).hw + e.1) % ringSize s p r)
        (filledDesc s p r rule (chunks 8 f.bytes).length f own e.1 e.2)) g.desc }) } := portOf_modPort_same p _ s

/-- A frame that is dropped moves no pointer and no counter (R454). -/
theorem ringVoid_stands : (∀ q : Fin 8, (vGet (portOf (ringVoid p r rule f s) p).rings q ⟨0, []⟩).hw = (vGet (portOf s p).rings q ⟨0, []⟩).hw) ∧
    (portOf (ringVoid p r rule f s) p).tally = (portOf s p).tally := by
  unfold ringVoid
  dsimp only
  split
  · rw [ringFill_port]
    refine ⟨fun q => ?_, rfl⟩
    refine (congrArg RxRing.hw (vGet_vMod _ _ _ _ _ q.isLt)).trans ?_
    split
    next hq => rw [hq]; rfl
    next => rfl
  · exact ⟨fun _ => rfl, rfl⟩

/-- A frame that fails the FCS check moves no pointer and no counter but its own (R453). -/
theorem ringFailed_stands : (∀ q : Fin 8, (vGet (portOf (ringFailed p f s) p).rings q ⟨0, []⟩).hw = (vGet (portOf s p).rings q ⟨0, []⟩).hw) ∧
    (portOf (ringFailed p f s) p).tally = (portOf s p).tally := by
  unfold ringFailed
  split
  next r rule _ =>
    obtain ⟨hhw, htally⟩ := ringVoid_stands (p := p) (r := r) (rule := rule) (f := f) (s := ringConsumed p r s)
    have hconsumed := ringConsumed_consumed p r s
    exact ⟨fun q => (hhw q).trans (hconsumed.hw q), htally.trans (congrArg MacPort.tally hconsumed.rest :)⟩
  next => exact ⟨fun _ => rfl, rfl⟩

/-- A descriptor that holds a part of a frame is software's. -/
theorem filledDesc_handedOver (n i : Nat) (part : List (BitVec 8)) : nBit (filledDesc s p r rule n f false i part).flags 0 = false := by
  refine beq_false_of_ne ?_
  rw [filledDesc, show bNat false = 0 from rfl]
  dsimp only
  omega

/-- A frame that is handed over: hardware's pointer moves past it, and its descriptors hold its parts in order (R453). -/
theorem ringFill_fills (hr : r < 8) {ring : RxRing} (hring : ring = vGet (portOf (ringFill p r rule f false (chunks 8 f.bytes) s) p).rings r ⟨0, []⟩) :
    ring.hw = ((vGet (portOf s p).rings r ⟨0, []⟩).hw + (chunks 8 f.bytes).length) % ringSize s p r ∧ ∀ j < (chunks 8 f.bytes).length,
      aFind ring.desc (((vGet (portOf s p).rings r ⟨0, []⟩).hw + j) % ringSize s p r) =
        some (filledDesc s p r rule (chunks 8 f.bytes).length f false j ((chunks 8 f.bytes).getD j [])) := by
  have hlen := chunks_length_le 8 f.bytes
  rw [ringFill_port, vGet_vMod _ _ _ _ _ hr, if_pos rfl] at hring
  generalize chunks 8 f.bytes = parts at hring hlen
  rw [hring]
  refine ⟨rfl, fun j hj => ?_⟩
  have hmem : (j, parts.getD j []) ∈ parts.mapIdx (fun i l => (i, l)) :=
    List.mem_mapIdx.mpr ⟨j, hj, by rw [List.getD_eq_getElem _ _ hj]⟩
  refine aFind_foldl_put (e := (j, parts.getD j [])) hmem (fun b hb hkey => ?_) _
  obtain ⟨i, hi, rfl⟩ := List.mem_mapIdx.mp hb
  obtain rfl : i = j := ringIndex_inj (by omega) (by omega) hkey
  rw [List.getD_eq_getElem _ _ hi]

end

/-! What decides a frame's ring (R451). -/

/-- The classifier of a port is built of these registers, the configuration and Escrow's. -/
theorem classifier_of {s t : State} {p : Nat} (hregs : ∀ a, MacStands a → reg t a = reg s a) (hA : t.cfgA = s.cfgA) (hB : t.cfgB = s.cfgB)
    (hesc : t.esc = s.esc) : classifier t p = classifier s p := by
  unfold classifier ptpPort
  simp only [hregs _ (macStands_TIM_TBn_CFG _), hregs _ macStands_ESC_CFG, hregs _ macStands_TLR_UDP, hA, hB, hesc]

theorem ringSize_of {s t : State} {p r : Nat} (h : reg t (R.MAC_RRr_CFG p r) = reg s (R.MAC_RRr_CFG p r)) : ringSize t p r = ringSize s p r := by
  unfold ringSize
  rw [h]

theorem ringOwn_of {s t : State} {p : Nat} (h : (portOf t p).rings = (portOf s p).rings) (r j : Nat) : ringOwn t p r j = ringOwn s p r j := by
  unfold ringOwn ringDesc
  rw [h]

/-- Outside DIAGNOSE the ring is that of the first entry that matches (R451). -/
theorem ringOf_classifier {p : Nat} {f : RxFrame} {s : State} (hmode : s.power.mode ≠ .diagnose) : ringOf s p f =
    ((classifier s p).findIdx? (clsMatch f)).map (fun i => (((classifier s p)[i]?.map ClsEntry.ring).getD 0, i)) := by
  unfold ringOf
  rw [if_neg fun h => hmode h.2]

/-- The frame is written to a ring that is enabled and owns enough descriptors (R453, R454). -/
theorem ringWrite_fits {p r rule : Nat} {f : RxFrame} {s u : State} (hu : u = ringConsumed p r s) (hon : bitOf (reg u (R.MAC_RRr_CFG p r)) 16 = true)
    (hown : ∀ j < (chunks 8 f.bytes).length, ringOwn u p r (((vGet (portOf u p).rings r ⟨0, []⟩).hw + j) % ringSize u p r) = true) :
    ringWrite p r rule f s = tallyBy p 1 (rxLen f) (tallyUp p 0 (ringFill p r rule f false (chunks 8 f.bytes) u)) := by
  have hfree : (List.range (chunks 8 f.bytes).length).all
      (fun i => ringOwn u p r (((vGet (portOf u p).rings r ⟨0, []⟩).hw + i) % ringSize u p r)) = true :=
    List.all_eq_true.mpr fun j hj => hown j (List.mem_range.mp hj)
  unfold ringWrite
  dsimp only
  rw [← hu, hon, hfree, if_neg (by decide)]

/-! The event. -/

/-- A frame on a port that is up, with the errors counted that came before it (R456). -/
structure Arrived (p : Fin 11) (t : Nat) (s w : State) : Prop where
  stands : Only [.regs, .teller, .mac] (advance t s) w
  regs : MacRegs s w
  port : Counted [4, 5, 6, 20] (portOf s p) (portOf w p)

theorem codeErrors_port (p : Fin 11) (f : RxFrame) (s : State) : Counted [4, 5, 6] (portOf s p) (portOf (codeErrors p f s) p) := by
  have hpcs : Counted [4, 5, 6] (portOf s p) (portOf (tallyBy p 4 f.pcsErrors s) p) := counted_tallyBy p (by decide) _ s
  unfold codeErrors
  exact keep_ite (P := fun x => Counted [4, 5, 6] (portOf s p) (portOf x p)) hpcs
    ((hpcs.trans (counted_tallyBy p (by decide) _ _)).trans (counted_tallyBy p (by decide) _ _))

theorem codeErrors_arrived (p : Fin 11) (t : Nat) (f : RxFrame) (s : State) : Arrived p t s (codeErrors p f (portAt p t s)) := by
  have hstands : Only [.mac] (portAt p t s) (codeErrors p f (portAt p t s)) := codeErrors_only (List.Subset.refl _) (only_refl _ _)
  exact ⟨only_trans (portAt_stands p t s) (only_mono hstands (by decide)), (portAt_regs p t s).only hstands (by decide),
    ((portAt_port p t s).mono (by decide)).trans ((codeErrors_port p f _).mono (by decide))⟩

theorem Arrived.rings {p : Fin 11} {t : Nat} {s w : State} (h : Arrived p t s w) : (portOf w p).rings = (portOf s p).rings :=
  (congrArg MacPort.rings h.port.rest :)

/-- An arrived frame at which the consumer of ring `r` has returned descriptors: what the writing of the frame goes by. -/
structure Returned (p : Fin 11) (t r : Nat) (s u : State) : Prop where
  cfg : reg u (R.MAC_RRr_CFG p r) = reg s (R.MAC_RRr_CFG p r)
  hw : (vGet (portOf u p).rings r ⟨0, []⟩).hw = (vGet (portOf s p).rings r ⟨0, []⟩).hw
  own : ∀ j, ringOwn s p r j = true → ringOwn u p r j = true
  start : ∀ f, rxStart u p f = rxStart (advance t s) p f
  tally : ∀ j < 24, j ∉ [4, 5, 6, 20] → vGet (portOf u p).tally j 0 = vGet (portOf s p).tally j 0
  free : u.free = s.free + 1

theorem Arrived.returned {p : Fin 11} {t r : Nat} {s w : State} (h : Arrived p t s w) (hw : RegsWf s.regs) (hr : r < 8) :
    Returned p t r s (ringConsumed p r w) := by
  have hconsumed := ringConsumed_consumed p r w
  obtain ⟨hww, hregs⟩ := h.regs hw
  have hport {α : Type} (v : MacPort → α) (hv : ∀ (x : MacPort) y, v { x with rings := y } = v x) : v (portOf (ringConsumed p r w) p) = v (portOf w p) :=
    (congrArg v hconsumed.rest).trans (hv _ _)
  have htime : (ringConsumed p r w).time = (advance t s).time :=
    (hconsumed.stands.2.2 .time (by decide)).trans (h.stands.2.2 .time (by decide))
  have hbyte : byteTime (ringConsumed p r w) p = byteTime (advance t s) p := by
    refine byteTime_of ?_ ?_
    · rw [advance_reg, ← hregs _ (macStands_MAC_CFG p)]
      exact hconsumed.regs hww _ (by unfold R.MAC_CFG R.MAC_RRr_PTR; omega)
    · rw [portOf_advance]
      exact (hport MacPort.rate fun _ _ => rfl).trans (congrArg MacPort.rate h.port.rest :)
  refine ⟨?_, ?_, fun j hj => hconsumed.own j ((ringOwn_of h.rings r j).trans hj), fun f => ?_, fun j hj hl => ?_, ?_⟩
  · exact (hconsumed.regs hww _ (by unfold R.MAC_RRr_CFG R.MAC_RRr_PTR; omega)).trans (hregs _ (macStands_MAC_RRr_CFG p hr))
  · rw [← h.rings]
    exact hconsumed.hw ⟨r, hr⟩
  · unfold rxStart st64
    rw [hbyte, htime]
  · exact (hport (fun x => vGet x.tally j 0) fun _ _ => rfl).trans (h.port.tally j hj hl)
  · exact hconsumed.free.trans (congrArg (· + 1) ((h.stands.2.2 .free (by decide)).trans (advance_free t s)))

theorem frameReceived_down {t : Nat} {p : Fin 11} {s : State} (f : RxFrame) (hdown : (portOf s p).link ≠ .up) :
    exec (.frameReceived t p f) s = .next (portAt p t s) :=
  if_neg fun hup => hdown ((portAt_link p t s).symm.trans hup)

section

variable {t : Nat} {p : Fin 11} {s : State} {f : RxFrame} (hup : (portOf s p).link = .up)

include hup

theorem frameReceived_up : exec (.frameReceived t p f) s = .next (frameReceived p f (portAt p t s)) := if_pos ((portAt_link p t s).trans hup)

theorem frameReceived_badFcs (hfcs : f.fcsOk = false) : Goes (.frameReceived t p f) s fun x =>
    (∀ r : Fin 8, (vGet (portOf x p).rings r ⟨0, []⟩).hw = (vGet (portOf s p).rings r ⟨0, []⟩).hw) ∧
    vGet (portOf x p).tally 2 0 = min 18446744073709551615 (vGet (portOf s p).tally 2 0 + 1) := by
  refine ⟨_, frameReceived_up hup, ?_⟩
  have harrived := codeErrors_arrived p t f s
  unfold frameReceived
  dsimp only
  rw [if_pos hfcs]
  generalize codeErrors p f (portAt p t s) = w at harrived
  have hcounted {x : State} (hhw : ∀ q : Fin 8, (vGet (portOf x p).rings q ⟨0, []⟩).hw = (vGet (portOf w p).rings q ⟨0, []⟩).hw)
      (htally : (portOf x p).tally = (portOf w p).tally) :
      (∀ r : Fin 8, (vGet (portOf (tallyUp p 2 x) p).rings r ⟨0, []⟩).hw = (vGet (portOf s p).rings r ⟨0, []⟩).hw) ∧
      vGet (portOf (tallyUp p 2 x) p).tally 2 0 = min 18446744073709551615 (vGet (portOf s p).tally 2 0 + 1) := by
    refine ⟨fun r => ?_, tally_tallyUp p (by decide) ?_⟩
    · unfold tallyUp tallyBy
      rw [portOf_modPort_same, ← harrived.rings]
      exact hhw r
    · rw [htally]
      exact harrived.port.tally 2 (by decide) (by decide)
  split
  · exact hcounted ringFailed_stands.1 ringFailed_stands.2
  · exact hcounted (fun _ => rfl) rfl

variable (hw : RegsWf s.regs) (hfcs : f.fcsOk = true)

include hw hfcs

theorem frameReceived_badLength (hlen : rxLen f < 64 ∨ bits (reg s (R.MAC_MTU p)) 13 0 < rxLen f) : Goes (.frameReceived t p f) s fun x =>
    (portOf x p).rings = (portOf s p).rings ∧ vGet (portOf x p).tally 3 0 = min 18446744073709551615 (vGet (portOf s p).tally 3 0 + 1) := by
  refine ⟨_, frameReceived_up hup, ?_⟩
  have harrived := codeErrors_arrived p t f s
  unfold frameReceived
  dsimp only
  generalize codeErrors p f (portAt p t s) = w at harrived
  rw [if_neg (by simp [hfcs]), (harrived.regs hw).2 _ (macStands_MAC_MTU p), if_pos (by simp; omega)]
  refine ⟨?_, tally_tallyUp p (by decide) (harrived.port.tally 3 (by decide) (by decide))⟩
  unfold tallyUp tallyBy
  rw [portOf_modPort_same]
  exact harrived.rings

variable (hmin : 64 ≤ rxLen f) (hmax : rxLen f ≤ bits (reg s (R.MAC_MTU p)) 13 0) (htype : rxType f ≠ 0x8808) (hfifo : f.fifoFull = false)
  (hmode : s.power.mode ≠ .diagnose)

include hmin hmax htype hfifo hmode

/-- A good frame goes to the ring of the first entry that matches, if one does. -/
theorem frameReceived_classified : ∃ w, Arrived p t s w ∧
    ((classifier s p).findIdx? (clsMatch f) = none → exec (.frameReceived t p f) s = .next (tallyUp p 7 w)) ∧
    ∀ i e, (classifier s p).findIdx? (clsMatch f) = some i → (classifier s p)[i]? = some e →
      exec (.frameReceived t p f) s = .next (ringWrite p e.ring i f w) := by
  have harrived := codeErrors_arrived p t f s
  refine ⟨_, harrived, ?_⟩
  rw [frameReceived_up hup]
  unfold frameReceived
  dsimp only
  generalize codeErrors p f (portAt p t s) = w at harrived
  obtain ⟨hww, hregs⟩ := harrived.regs hw
  have hstands {c : Comp} (hc : c ∉ [Comp.regs, .teller, .mac]) : Same c (advance t s) w := harrived.stands.2.2 c hc
  have hpower : w.power = s.power := (hstands (c := .power) (by decide)).trans (advance_power t s)
  have hcls : classifier w p = classifier s p := classifier_of hregs ((hstands (c := .cfgA) (by decide)).trans (advance_cfgA t s))
    ((hstands (c := .cfgB) (by decide)).trans (advance_cfgB t s)) ((hstands (c := .esc) (by decide)).trans (advance_esc t s))
  rw [if_neg (by simp [hfcs]), hregs _ (macStands_MAC_MTU p), if_neg (by simp [hmin, hmax]), if_neg fun h => htype h.1, if_neg htype,
    if_neg (by simp [hfifo]), ringOf_classifier (by rwa [hpower]), hcls]
  refine ⟨fun hnone => ?_, fun i e hfirst hentry => ?_⟩
  · rw [hnone]
    rfl
  · rw [hfirst, Option.map_some, hentry]
    rfl

theorem frameReceived_unmatched (hnone : (classifier s p).findIdx? (clsMatch f) = none) : Goes (.frameReceived t p f) s fun x =>
    (portOf x p).rings = (portOf s p).rings ∧ vGet (portOf x p).tally 7 0 = min 18446744073709551615 (vGet (portOf s p).tally 7 0 + 1) := by
  obtain ⟨w, harrived, hexec, -⟩ := frameReceived_classified (t := t) hup hw hfcs hmin hmax htype hfifo hmode
  refine ⟨_, hexec hnone, ?_, tally_tallyUp p (by decide) (harrived.port.tally 7 (by decide) (by decide))⟩
  unfold tallyUp tallyBy
  rw [portOf_modPort_same]
  exact harrived.rings

theorem frameReceived_matched {i : Nat} {e : ClsEntry} {g : RxRing}
    (hfirst : (classifier s p).findIdx? (clsMatch f) = some i) (hentry : (classifier s p)[i]? = some e) (hr : e.ring < 8)
    (hg : g = vGet (portOf s p).rings e.ring ⟨0, []⟩) (hon : bitOf (reg s (R.MAC_RRr_CFG p e.ring)) 16 = true)
    (hown : ∀ j < (chunks 8 f.bytes).length, ringOwn s p e.ring ((g.hw + j) % ringSize s p e.ring) = true) : Goes (.frameReceived t p f) s fun x =>
      (vGet (portOf x p).rings e.ring ⟨0, []⟩).hw = (g.hw + (chunks 8 f.bytes).length) % ringSize s p e.ring ∧
      (∀ j < (chunks 8 f.bytes).length, ∃ d, aFind (vGet (portOf x p).rings e.ring ⟨0, []⟩).desc ((g.hw + j) % ringSize s p e.ring) = some d ∧
        d.data = (chunks 8 f.bytes).getD j [] ∧ d.length = d.data.length ∧ nBit d.flags 0 = false ∧ d.rule = i ∧ (j = 0 → d.ts = rxStart (advance t s) p f)) ∧
      vGet (portOf x p).tally 0 0 = min 18446744073709551615 (vGet (portOf s p).tally 0 0 + 1) ∧
      vGet (portOf x p).tally 1 0 = min 18446744073709551615 (vGet (portOf s p).tally 1 0 + rxLen f) ∧ x.free = s.free + 1 := by
  obtain ⟨w, harrived, -, hexec⟩ := frameReceived_classified (t := t) hup hw hfcs hmin hmax htype hfifo hmode
  have hreturned := harrived.returned hw hr
  have hsize : ringSize (ringConsumed p e.ring w) p e.ring = ringSize s p e.ring := ringSize_of hreturned.cfg
  have hhw := hreturned.hw
  rw [← hg] at hhw
  have hwrite := ringWrite_fits (rule := i) (f := f) rfl (by rwa [hreturned.cfg]) fun j hj => by
    rw [hhw, hsize]
    exact hreturned.own _ (hown j hj)
  obtain ⟨y, hy⟩ : ∃ y, y = ringFill p e.ring i f false (chunks 8 f.bytes) (ringConsumed p e.ring w) := ⟨_, rfl⟩
  obtain ⟨hmoved, hfilled⟩ := ringFill_fills (p := p) (rule := i) (f := f) (s := ringConsumed p e.ring w) hr rfl
  rw [hhw, hsize, ← hy] at hmoved hfilled
  have htally {j : Nat} (hj : j < 24) (hl : j ∉ [4, 5, 6, 20]) : vGet (portOf y p).tally j 0 = vGet (portOf s p).tally j 0 := by
    rw [hy, ringFill_port]
    exact hreturned.tally j hj hl
  have hrings : (portOf (tallyBy p 1 (rxLen f) (tallyUp p 0 y)) p).rings = (portOf y p).rings := by
    unfold tallyUp tallyBy
    rw [portOf_modPort_same, portOf_modPort_same]
  refine ⟨_, hexec i e hfirst hentry, ?_⟩
  rw [hwrite, ← hy]
  beta_reduce
  rw [hrings]
  refine ⟨hmoved, fun j hj => ⟨_, hfilled j hj, rfl, rfl, filledDesc_handedOver .., rfl, ?_⟩, ?_, ?_, ?_⟩
  · rintro rfl
    exact hreturned.start f
  · exact (tally_tallyBy p 1 _ _ (by decide)).trans (tally_tallyUp p (by decide) (htally (by decide) (by decide)))
  · rw [← htally (j := 1) (by decide) (by decide)]
    exact (tally_tallyBy p 1 _ _ (by decide)).trans (congrArg (fun v => min _ (v + _)) (tally_tallyBy p 0 1 y (by decide)))
  · exact (congrArg State.free hy).trans hreturned.free

end

end Sys2Proof.Proofs
end

section
/-! The commands of the ports (R431, R434, R461). -/

namespace Sys2Proof.Proofs

open Sys2Proof.Machine Sys2Proof.Safety Sys2Proof.Laws

/-! MAC_PORT_SET (R431). -/

/-- MAC_CTRL with the enable and the autonegotiation of MAC_PORT_SET. -/
def macPortCtrl (p : MacPortSet) (s : State) : Word :=
  setBits (setBits (reg s (R.MAC_CTRL p.port)) 0 0 (bNat (nBit p.flags 0))) 1 1 (bNat (nBit p.flags 1))

/-- MAC_CFG of MAC_PORT_SET. -/
def macPortCfg (p : MacPortSet) : Nat :=
  p.honor % 256 * 65536 + bNat (nBit p.flags 3) * 512 + bNat (nBit p.flags 2) * 256 + p.fec * 16 + p.mode

/-- The registers but the address. -/
def macPortSettings (p : MacPortSet) (s : State) : State :=
  setReg (R.MAC_LAUNCH_WIN p.port) (BitVec.ofNat 32 (p.launchWin % 65536))
    (setReg (R.MAC_WD p.port) (BitVec.ofNat 32 (p.wdIgnore * 65536 + p.wdLimit)) (setReg (R.MAC_MTU p.port) (BitVec.ofNat 32 p.mtu)
      (setReg (R.MAC_CFG p.port) (BitVec.ofNat 32 (macPortCfg p)) (setReg (R.MAC_CTRL p.port) (macPortCtrl p s) s))))

/-- The registers that MAC_PORT_SET writes. -/
def macPortStored (p : MacPortSet) (s : State) : State :=
  if p.address = 0 then macPortSettings p s
  else setReg (R.MAC_ADDR_LO p.port) (addrWords p.address).1 (setReg (R.MAC_ADDR_HI p.port) (addrWords p.address).2 (macPortSettings p s))

/-- The registers are written, and the link restarts where it has to. -/
theorem macPortSet_accepts {escrow : Bool} {p : MacPortSet} {s : State} (hok : macPortOk p = true) (hshow : s.power.mode ≠ .show)
    (hspare : s.power.mode ≠ .spare) : macPortSet escrow p s = accept (macPortStored p s) ∨
      macPortSet escrow p s = accept (portRestart p.port (macPortStored p s)) := by
  unfold macPortSet
  dsimp only
  rw [if_neg (by simp [hok]), if_neg (by simp [hshow, hspare])]
  split
  · exact .inr rfl
  · exact .inl rfl

section

variable {p : MacPortSet} {s : State} (hw : RegsWf s.regs)

include hw

theorem macPortSettings_reg (a : Nat) : reg (macPortSettings p s) a =
    if R.MAC_LAUNCH_WIN p.port = a then BitVec.ofNat 32 (p.launchWin % 65536)
    else if R.MAC_WD p.port = a then BitVec.ofNat 32 (p.wdIgnore * 65536 + p.wdLimit)
    else if R.MAC_MTU p.port = a then BitVec.ofNat 32 p.mtu
    else if R.MAC_CFG p.port = a then BitVec.ofNat 32 (macPortCfg p)
    else if R.MAC_CTRL p.port = a then macPortCtrl p s else reg s a := by
  have hctrl := setReg_wf hw (R.MAC_CTRL p.port) (macPortCtrl p s)
  have hcfg := setReg_wf hctrl (R.MAC_CFG p.port) (BitVec.ofNat 32 (macPortCfg p))
  have hmtu := setReg_wf hcfg (R.MAC_MTU p.port) (BitVec.ofNat 32 p.mtu)
  have hwd := setReg_wf hmtu (R.MAC_WD p.port) (BitVec.ofNat 32 (p.wdIgnore * 65536 + p.wdLimit))
  rw [macPortSettings, reg_setReg hwd, reg_setReg hmtu, reg_setReg hcfg, reg_setReg hctrl, reg_setReg hw]

theorem macPortStored_regs : RegsWf (macPortStored p s).regs ∧ ∀ a, a ≠ R.MAC_ADDR_LO p.port → a ≠ R.MAC_ADDR_HI p.port →
    reg (macPortStored p s) a = reg (macPortSettings p s) a := by
  have hset : RegsWf (macPortSettings p s).regs := setReg_wf (setReg_wf (setReg_wf (setReg_wf (setReg_wf hw _ _) _ _) _ _) _ _) _ _
  unfold macPortStored
  split
  · exact ⟨hset, fun _ _ _ => rfl⟩
  · exact ⟨setReg_wf (setReg_wf hset _ _) _ _, fun a hlo hhi => by
      rw [reg_setReg (setReg_wf hset _ _), if_neg (Ne.symm hlo), reg_setReg hset, if_neg (Ne.symm hhi)]⟩

end

theorem modeFits_le {p mode : Nat} (h : modeFits p mode = true) : mode ≤ 4 := by
  simp only [modeFits, Bool.or_eq_true, beq_iff_eq] at h
  obtain h | h := h
  · omega
  · repeat' split at h
    all_goals simp at h; omega

theorem fecFits_le {p mode fec : Nat} (h : fecFits p mode fec = true) : fec ≤ 3 := by
  simp only [fecFits, Bool.or_eq_true, beq_iff_eq] at h
  obtain h | h := h
  · omega
  · repeat' split at h
    all_goals simp at h
    all_goals omega

theorem bNat_le (b : Bool) : bNat b ≤ 1 := by cases b <;> decide

/-- The fields of MAC_CFG do not overlap where the mode and the FEC are of the page (R427). -/
theorem macPortCfg_bits {p : MacPortSet} (hok : macPortOk p = true) :
    bits (BitVec.ofNat 32 (macPortCfg p)) 3 0 = p.mode ∧ bits (BitVec.ofNat 32 (macPortCfg p)) 7 4 = p.fec := by
  simp only [macPortOk, Bool.and_eq_true] at hok
  obtain ⟨⟨⟨⟨⟨⟨⟨-, hmode⟩, hfec⟩, -⟩, -⟩, -⟩, -⟩, -⟩ := hok
  have hm := modeFits_le hmode
  have hf := fecFits_le hfec
  have hpfc := bNat_le (nBit p.flags 3)
  have hpause := bNat_le (nBit p.flags 2)
  have hsmall : macPortCfg p < 4294967296 := by unfold macPortCfg; omega
  rw [bits_ofNat hsmall, bits_ofNat hsmall]
  unfold macPortCfg
  omega

/-- A flag written to its bit is read there. -/
theorem bitOf_setBits_bNat (w : Word) (i : Nat) (b : Bool) (h : i < 32) : bitOf (setBits w i i (bNat b)) i = b := by
  rw [bitOf, bits_setBits _ _ _ _ h, Nat.add_sub_cancel_left]
  cases b <;> rfl

theorem macPortCtrl_bits (p : MacPortSet) (s : State) : bitOf (macPortCtrl p s) 0 = nBit p.flags 0 ∧ bitOf (macPortCtrl p s) 1 = nBit p.flags 1 := by
  refine ⟨?_, bitOf_setBits_bNat _ 1 _ (by decide)⟩
  rw [macPortCtrl, bitOf, bits_setBits_ne _ _ _ _ _ _ (.inl (by decide))]
  exact bitOf_setBits_bNat _ 0 _ (by decide)

theorem macPortSet_ends {c : Call} {p : MacPortSet} {s : State} (h : Ready 0x0470 c s) (hok : macPortOk p = true) (hshow : s.power.mode ≠ .show)
    (hspare : s.power.mode ≠ .spare) : ∃ z, Ends (.macPortSet c p) 0x0470 c ⟨.ok, 0, []⟩ (kick z) s ∧
      ∀ a, a ∉ [R.MAC_ADDR_LO p.port, R.MAC_ADDR_HI p.port] → MacStands a → reg z a = reg (macPortSettings p (advance c.t s)) a := by
  have hw : RegsWf (advance c.t s).regs := by simpa using h.wf
  obtain ⟨hws, hregs⟩ := macPortStored_regs (p := p) hw
  have hends {z : State} (hz : macPortSet (escrowPort (advance c.t s) p.port) p (advance c.t s) = accept z) :
      Ends (.macPortSet c p) 0x0470 c ⟨.ok, 0, []⟩ (kick z) s :=
    command_ends (rfl : _ = execMacPortSet c p s) h (congrArg thenKick hz)
  have hstored {a : Nat} (ha : a ∉ [R.MAC_ADDR_LO p.port, R.MAC_ADDR_HI p.port]) := hregs a (fun e => ha (by simp [e])) (fun e => ha (by simp [e]))
  obtain hset | hset := macPortSet_accepts (escrow := escrowPort (advance c.t s) p.port) (s := advance c.t s) hok (by simpa using hshow) (by simpa using hspare)
  · exact ⟨_, hends hset, fun a ha _ => hstored ha⟩
  · exact ⟨_, hends hset, fun a ha hstands => ((linkLeave_macRegs (.refl _) hws).2 a hstands).trans (hstored ha)⟩

theorem macPortSet_refused {c : Call} {p : MacPortSet} {s : State} (h : Ready 0x0470 c s) (hbad : macPortOk p = false) :
    Ends (.macPortSet c p) 0x0470 c ⟨.invalidParameter, 0, []⟩ (kick (advance c.t s)) s := by
  refine command_ends (rfl : _ = execMacPortSet c p s) h ?_
  unfold thenKick macPortSet
  dsimp only
  rw [if_pos hbad]
  rfl

/-! MAC_PAIR_SET (R434). -/

section

variable {c : Call} {q mode flags : Nat} {s : State} (h : Ready 0x0471 c s)

include h

theorem macPairSet_sets (hq : q ≤ 3) (hmode : mode ≤ 2) : ∃ y, Done (.macPairSet c q mode flags) 0x0471 c ⟨.ok, 0, []⟩ y s ∧ Only [.mac] (advance c.t s) y ∧
    pairOf y q = ⟨mode, nBit flags 0, (pairOf s q).secondary && mode == 2⟩ ∧ y.mac.ports = s.mac.ports ∧
    ∀ r : Fin 4, r.val ≠ q → pairOf y r = pairOf s r := by
  refine ⟨_, command_done (rfl : _ = execMacPairSet c q mode flags s) h (if_neg (by omega)) (by simpa using h.wf) (by simpa [sess] using h.live),
    modMac_only (List.Subset.refl _) (only_refl _ _), ?_, (congrArg Mac.ports (advance_mac c.t s) :), fun r hr => ?_⟩
  · rw [← pairOf_advance c.t s q]
    exact (vGet_vMod _ _ _ _ _ (by omega)).trans (if_pos rfl)
  · rw [← pairOf_advance c.t s r]
    exact (vGet_vMod _ _ _ _ _ r.isLt).trans (if_neg hr)

theorem macPairSet_refused (hbad : 3 < q ∨ 2 < mode) : Done (.macPairSet c q mode flags) 0x0471 c ⟨.invalidParameter, 0, []⟩ (advance c.t s) s :=
  command_reads (rfl : _ = execMacPairSet c q mode flags s) h (if_pos hbad)

end

/-! MAC_WAKE_SET (R461). -/

theorem setBytes_wf (base : Nat) (l : List (BitVec 8)) (n : Nat) {s : State} (hw : RegsWf s.regs) : RegsWf (setBytes base l n s).regs :=
  keep_foldl (P := fun x => RegsWf x.regs) hw fun _ _ hx => setReg_wf hx _ _

/-- Words written in a row: each holds its four bytes, and no other register moves. -/
theorem setBytes_reg (base : Nat) (l : List (BitVec 8)) (n : Nat) {s : State} (hw : RegsWf s.regs) :
    (∀ i < n, reg (setBytes base l n s) (base + 4 * i) = wordOf (l.drop (4 * i))) ∧
    ∀ a, (a < base ∨ base + 4 * n ≤ a) → reg (setBytes base l n s) a = reg s a := by
  induction n with
  | zero => exact ⟨fun i hi => absurd hi (Nat.not_lt_zero i), fun _ _ => rfl⟩
  | succ n ih =>
    obtain ⟨hin, hout⟩ := ih
    have hlast : setBytes base l (n + 1) s = setReg (base + 4 * n) (wordOf (l.drop (4 * n))) (setBytes base l n s) := by
      unfold setBytes
      rw [List.range_succ, List.foldl_append]
      rfl
    refine ⟨fun i hi => ?_, fun a ha => ?_⟩
    · rw [hlast, reg_setReg (setBytes_wf _ _ _ hw)]
      by_cases he : i = n
      · rw [he, if_pos rfl]
      · rw [if_neg (by omega), hin i (by omega)]
    · rw [hlast, reg_setReg (setBytes_wf _ _ _ hw), if_neg (by omega), hout a (by omega)]

/-- What MAC_WAKE_SET writes for one pattern: its mask and its bytes. -/
def wakePattern (p : MacWakeSet) (x : State) (q : Nat) : State :=
  setBytes (R.MAC_WAKE_PATq 10 (32 * q)) (p.patterns.getD q ⟨[], []⟩).bytes 32
    (setBytes (R.MAC_WAKE_MASKq 10 (4 * q)) (p.patterns.getD q ⟨[], []⟩).mask 4 x)

/-- The control and the password of MAC_WAKE_SET. -/
def wakeHead (p : MacWakeSet) (s : State) : State :=
  setReg (R.MAC_WAKE_PW_LO 10) (wordOf p.password) (setReg (R.MAC_WAKE_PW_HI 10) (wordOf (p.password.drop 4))
    (setReg (R.MAC_WAKE_CTRL 10) (BitVec.ofNat 32 (p.patternEn % 16 * 16 + p.flags % 8)) s))

/-- The registers that MAC_WAKE_SET writes. -/
def wakeStored (p : MacWakeSet) (s : State) : State := (List.range 4).foldl (wakePattern p) (wakeHead p s)

theorem wakeStored_only (p : MacWakeSet) (s : State) : Only [.regs] s (wakeStored p s) :=
  only_foldl (setReg_only (List.Subset.refl _) (setReg_only (List.Subset.refl _) (setReg_only (List.Subset.refl _) (only_refl _ _))))
    fun _ _ h => setBytes_only (List.Subset.refl _) (setBytes_only (List.Subset.refl _) h)

section

variable {p : MacWakeSet} {s : State} (hw : RegsWf s.regs)

include hw

theorem wakePattern_wf (q : Nat) : RegsWf (wakePattern p s q).regs := setBytes_wf _ _ _ (setBytes_wf _ _ _ hw)

/-- Pattern `q` holds its bytes, and no register below the masks moves but these. -/
theorem wakePattern_reg (q : Nat) : (∀ w < 32, reg (wakePattern p s q) (R.MAC_WAKE_PATq 10 (32 * q + w)) =
      wordOf ((p.patterns.getD q ⟨[], []⟩).bytes.drop (4 * w))) ∧
    ∀ a < R.MAC_WAKE_MASKq 10 0, (a < R.MAC_WAKE_PATq 10 (32 * q) ∨ R.MAC_WAKE_PATq 10 (32 * q + 32) ≤ a) → reg (wakePattern p s q) a = reg s a := by
  obtain ⟨hin, hout⟩ := setBytes_reg (R.MAC_WAKE_PATq 10 (32 * q)) (p.patterns.getD q ⟨[], []⟩).bytes 32
    (setBytes_wf (R.MAC_WAKE_MASKq 10 (4 * q)) (p.patterns.getD q ⟨[], []⟩).mask 4 hw)
  refine ⟨fun w hlt => ?_, fun a ha hpat => ?_⟩
  · rw [← hin w hlt]
    exact congrArg _ (by unfold R.MAC_WAKE_PATq; omega)
  · unfold R.MAC_WAKE_MASKq at ha
    unfold R.MAC_WAKE_PATq at hpat
    rw [wakePattern, hout a (by unfold R.MAC_WAKE_PATq; omega)]
    exact (setBytes_reg _ _ _ hw).2 a (.inl (by unfold R.MAC_WAKE_MASKq; omega))

/-- The first `n` patterns leave their bytes, a later one not touching an earlier, and the registers below the patterns stay. -/
theorem wakePatterns_reg (n : Nat) (hn : n ≤ 4) : RegsWf ((List.range n).foldl (wakePattern p) s).regs ∧
    (∀ q < n, ∀ w < 32, reg ((List.range n).foldl (wakePattern p) s) (R.MAC_WAKE_PATq 10 (32 * q + w)) =
      wordOf ((p.patterns.getD q ⟨[], []⟩).bytes.drop (4 * w))) ∧
    ∀ a < R.MAC_WAKE_PATq 10 0, reg ((List.range n).foldl (wakePattern p) s) a = reg s a := by
  induction n with
  | zero => exact ⟨hw, fun q hq => absurd hq (Nat.not_lt_zero q), fun _ _ => rfl⟩
  | succ n ih =>
    obtain ⟨hwf, hpats, hbelow⟩ := ih (by omega)
    obtain ⟨hin, hout⟩ := wakePattern_reg (p := p) hwf n
    rw [List.range_succ, List.foldl_append, List.foldl_cons, List.foldl_nil]
    refine ⟨wakePattern_wf hwf n, fun q hq w hlt => ?_, fun a ha => ?_⟩
    · by_cases he : q = n
      · subst he
        exact hin w hlt
      · rw [hout _ (by unfold R.MAC_WAKE_PATq R.MAC_WAKE_MASKq; omega) (by unfold R.MAC_WAKE_PATq; omega), hpats q (by omega) w hlt]
    · unfold R.MAC_WAKE_PATq at ha
      rw [hout a (by unfold R.MAC_WAKE_MASKq; omega) (by unfold R.MAC_WAKE_PATq; omega), hbelow a (by unfold R.MAC_WAKE_PATq; omega)]

theorem wakeHead_reg : RegsWf (wakeHead p s).regs ∧ reg (wakeHead p s) (R.MAC_WAKE_CTRL 10) = BitVec.ofNat 32 (p.patternEn % 16 * 16 + p.flags % 8) ∧
    reg (wakeHead p s) (R.MAC_WAKE_PW_LO 10) = wordOf p.password := by
  have hctrl := setReg_wf hw (R.MAC_WAKE_CTRL 10) (BitVec.ofNat 32 (p.patternEn % 16 * 16 + p.flags % 8))
  have hhigh := setReg_wf hctrl (R.MAC_WAKE_PW_HI 10) (wordOf (p.password.drop 4))
  refine ⟨setReg_wf hhigh _ _, ?_, ?_⟩
  · rw [wakeHead, reg_setReg hhigh, if_neg (by decide), reg_setReg hctrl, if_neg (by decide), reg_setReg hw, if_pos rfl]
  · rw [wakeHead, reg_setReg hhigh, if_pos rfl]

end

section

variable {c : Call} {p : MacWakeSet} {s : State} (h : Ready 0x0473 c s)

include h

theorem macWakeSet_sets (hpw : p.password.length = 6) (hpat : p.patterns.length = 4) : ∃ y, Done (.macWakeSet c p) 0x0473 c ⟨.ok, 0, []⟩ y s ∧
    Only [.regs] (advance c.t s) y ∧ reg y (R.MAC_WAKE_CTRL 10) = BitVec.ofNat 32 (p.patternEn % 16 * 16 + p.flags % 8) ∧
    reg y (R.MAC_WAKE_PW_LO 10) = wordOf p.password ∧ ∀ (q : Fin 4) (w : Fin 32), reg y (R.MAC_WAKE_PATq 10 (32 * q.val + w.val)) =
      wordOf ((p.patterns.getD q ⟨[], []⟩).bytes.drop (4 * w.val)) := by
  have honly := wakeStored_only p (advance c.t s)
  obtain ⟨hhead, hctrl, hlow⟩ := wakeHead_reg (p := p) (s := advance c.t s) (by simpa using h.wf)
  obtain ⟨hwf, hpats, hbelow⟩ := wakePatterns_reg (p := p) hhead 4 (Nat.le_refl 4)
  have hopen : (sess (wakeStored p (advance c.t s)) c.session).isOpen = true := by
    have hteller : (wakeStored p (advance c.t s)).teller = (advance c.t s).teller := honly.2.2 .teller (by decide)
    rw [sess, hteller]
    simpa [sess] using h.live
  exact ⟨_, command_done (rfl : _ = execMacWakeSet c p s) h (if_neg (by simp [hpw, hpat])) hwf hopen, honly,
    (hbelow _ (by decide)).trans hctrl, (hbelow _ (by decide)).trans hlow, fun q w => hpats q q.isLt w w.isLt⟩

theorem macWakeSet_refused (hbad : p.password.length ≠ 6 ∨ p.patterns.length ≠ 4) :
    Done (.macWakeSet c p) 0x0473 c ⟨.invalidParameter, 0, []⟩ (advance c.t s) s :=
  command_reads (rfl : _ = execMacWakeSet c p s) h (if_pos hbad)

end

end Sys2Proof.Proofs
end

section
/-! O45: pauses, counters, reception and the commands of a port. -/

namespace Sys2Proof.Proofs

open Sys2Proof.Machine Sys2Proof.Safety Sys2Proof.Laws

/-- What MAC_PORT_SET leaves of what it sets (R431). -/
theorem macPortSet_sets {c : Call} {p : MacPortSet} {s : State} (h : Ready 0x0470 c s) (hok : macPortOk p = true) (hshow : s.power.mode ≠ .show)
    (hspare : s.power.mode ≠ .spare) : ∃ z, Ends (.macPortSet c p) 0x0470 c ⟨.ok, 0, []⟩ (kick z) s ∧
      reg z (R.MAC_MTU p.port) = BitVec.ofNat 32 p.mtu ∧ bits (reg z (R.MAC_CFG p.port)) 3 0 = p.mode ∧ bits (reg z (R.MAC_CFG p.port)) 7 4 = p.fec ∧
      reg z (R.MAC_LAUNCH_WIN p.port) = BitVec.ofNat 32 (p.launchWin % 65536) ∧ bitOf (reg z (R.MAC_CTRL p.port)) 0 = nBit p.flags 0 ∧
      bitOf (reg z (R.MAC_CTRL p.port)) 1 = nBit p.flags 1 := by
  have hw : RegsWf (advance c.t s).regs := by simpa using h.wf
  obtain ⟨z, hends, hregs⟩ := macPortSet_ends h hok hshow hspare
  obtain ⟨hmode, hfec⟩ := macPortCfg_bits hok
  obtain ⟨henable, hauto⟩ := macPortCtrl_bits p (advance c.t s)
  have hset (off : Nat) (hlo : off ≠ 0x10) (hhi : off ≠ 0x14) (hstands : MacStands (0xF0300000 + off + 0x10000 * p.port)) :=
    (hregs (0xF0300000 + off + 0x10000 * p.port) (by simp [R.MAC_ADDR_LO, R.MAC_ADDR_HI]; omega) hstands).trans (macPortSettings_reg hw _)
  have hmtu : reg z (R.MAC_MTU p.port) = BitVec.ofNat 32 p.mtu := by
    refine (hset 0x0C (by decide) (by decide) (macStands_MAC_MTU _)).trans ?_
    simp [R.MAC_LAUNCH_WIN, R.MAC_WD, R.MAC_MTU]
  have hcfg : reg z (R.MAC_CFG p.port) = BitVec.ofNat 32 (macPortCfg p) := by
    refine (hset 0x04 (by decide) (by decide) (macStands_MAC_CFG _)).trans ?_
    simp [R.MAC_LAUNCH_WIN, R.MAC_WD, R.MAC_MTU, R.MAC_CFG]
  have hctrl : reg z (R.MAC_CTRL p.port) = macPortCtrl p (advance c.t s) := by
    refine (hset 0x00 (by decide) (by decide) (macStands_MAC_CTRL _)).trans ?_
    simp [R.MAC_LAUNCH_WIN, R.MAC_WD, R.MAC_MTU, R.MAC_CFG, R.MAC_CTRL]
  have hwin : reg z (R.MAC_LAUNCH_WIN p.port) = BitVec.ofNat 32 (p.launchWin % 65536) :=
    (hset 0x28 (by decide) (by decide) (macStands_MAC_LAUNCH_WIN _)).trans (if_pos rfl)
  exact ⟨z, hends, hmtu, hcfg ▸ hmode, hcfg ▸ hfec, hwin, hctrl ▸ henable, hctrl ▸ hauto⟩

/-- The counter that TALLY_READ reads is the one that the settling of the port leaves; the others stand (R457). -/
theorem tallyRead_goes (t : Nat) (p : Fin 11) (s : State) (i : Fin 24) : Goes (.tallyRead t p i) s fun x => vGet (portOf x p).tally i 0 = 0 ∧
    x.regs.lastRead = some (R.MAC_TALLYi_LO p i, loWord (vGet (portOf (pauseSettle p (portAt p t s)) p).tally i 0 : Nat)) ∧
    aFind x.regs.latched (R.MAC_TALLYi_HI p i) = some (hiWord (vGet (portOf (pauseSettle p (portAt p t s)) p).tally i 0 : Nat)) ∧
    ∀ j : Fin 24, j ≠ i → j.val ≠ 20 → j.val ≠ 22 → vGet (portOf x p).tally j 0 = vGet (portOf s p).tally j 0 := by
  obtain ⟨hzero, hlast, hlatched, hothers⟩ := tallyRead_reads p i (pauseSettle p (portAt p t s))
  exact ⟨_, rfl, hzero, hlast, hlatched, fun j hj h20 h22 => (hothers j hj).trans ((pauseSettle_settled p t s).tally j j.isLt h20 h22)⟩

/-- Settles O45: the clauses of the events of a port, then those of its commands, each by the lemma named for it. -/
theorem macFlowControlAndReceive : Obligations.MacFlowControlAndReceive := by
  unfold Obligations.MacFlowControlAndReceive
  refine ⟨?events, ?commands⟩
  case events =>
    rintro t p s _ _ hw rfl rfl
    refine ⟨?read, ?accumulate, ?off, ?pause, ?deaf, pauseEnd_ends, pauseWatchdogTrip_trips hw, pauseIgnoreEnd_ends t p s,
      fun f hdown => frameReceived_down f hdown, ?receive⟩
    case read =>
      rintro i _ rfl
      exact ⟨fun h20 h22 => (pauseSettle_settled p t s).tally i i.isLt h20 h22, tallyRead_goes t p s i⟩
    case accumulate =>
      intro hrun
      obtain ⟨x, hexec, honly, hup, hoff⟩ := tallyAccumulate_goes (t := t) (p := p) hrun
      exact ⟨x, hexec, honly, fun hon i => ⟨(hup hon).cleared i, (hup hon).added i⟩, hoff⟩
    case off =>
      intro hoff
      exact if_neg (by simp [hoff])
    case pause =>
      intro op en qs hup
      refine ⟨?_, ?_, ?_, fun hpause hpfc => pauseFrameReceived_other hup hpause hpfc⟩
      · rintro rfl hon hpfc hheard
        exact pauseFrameReceived_whole hup hw hon hpfc hheard
      · rintro rfl hdeaf
        exact pauseFrameReceived_deaf hup hw hdeaf
      · rintro rfl hpfc
        exact pauseFrameReceived_classes hup hw hpfc
    case deaf =>
      exact fun _ _ _ hdown => pauseFrameReceived_down hdown
    case receive =>
      intro f hup
      refine ⟨frameReceived_badFcs hup, frameReceived_badLength hup hw, fun hfcs hmin hmax htype hfifo hmode =>
        ⟨frameReceived_unmatched hup hw hfcs hmin hmax htype hfifo hmode, ?_⟩⟩
      rintro i e g _ hfirst hentry hr hg rfl hon hown
      exact frameReceived_matched hup hw hfcs hmin hmax htype hfifo hmode hfirst hentry hr hg hon hown
  case commands =>
    rintro c s _ rfl
    exact ⟨fun _ h => ⟨macPortSet_sets h, macPortSet_refused h⟩, fun _ _ _ h => ⟨macPairSet_sets h, macPairSet_refused h⟩,
      fun _ h => ⟨macWakeSet_sets h, macWakeSet_refused h⟩⟩

end Sys2Proof.Proofs
end
